-- ==== Sys2Proof/Word.lean ====
section
/-!
DEFINITION. The word types of the model (R8, R9, R32). Their field helpers are in Machine/Bits.lean.
-/
namespace Sys2Proof

/-- A 64-bit register word (R32). -/
abbrev Word := BitVec 64

/-- A byte of memory. -/
abbrev Byte := BitVec 8

/-- A 48-bit device address (R9). -/
abbrev Addr := BitVec 48

/-- The five sticky flags of R103, in the bit order of R219: bit 0 NV, 1 DZ, 2 OF, 3 UF, 4 NX. -/
abbrev Flags := BitVec 5

end Sys2Proof
end

