-- ==== Sys2Proof/Syntax.lean ====
section
/-!
DEFINITION. The commands of the VT4160: one constructor of `Instr` for each row of spec/opcode_table.json, with the
row's operands. A command is one whole step of the device (95_what_each_step_holds.md): an edge on a pin, a register
access by a named master, an instruction of a logical caller, an event of an engine or of a block.
-/
namespace Sys2Proof

/-- The two worlds (10, R435); PF0 serves the safety world and PF1 the service world (14, R566). -/
inductive World where
  | safety
  | service
  deriving DecidableEq, Repr

/-- The master of a configuration access: a logical caller at its present level, a host function through BAR0 (R568),
the custody controller (R365), or the understudy manager (R388). -/
inductive Master where
  | caller (c : BitVec 3)
  | host (f : World)
  | custody
  | manager
  deriving DecidableEq, Repr

/-- What a memory code finds: nothing, a corrected error, an uncorrectable one (R352, R356). -/
inductive MemErr where
  | none
  | corrected
  | uncorrectable
  deriving DecidableEq, Repr

/-- The identifier under which a response reaches a caller (R367): uncached and configuration accesses, cached fills of data,
fetch. -/
inductive LoadId where
  | ordered
  | data
  | code
  deriving DecidableEq, Repr

/-- What comes back under an identifier: whose load it is, and what the memory code found. -/
structure LoadReply where
  id : LoadId
  err : MemErr
  deriving DecidableEq, Repr

/-- What a grant tells besides the requester granted: those that waited since the grant before, with the matrix beats and the
engine beats of it (R199, R373); where the transfer is a read whose word had a corrected error (R352, R356), its address. -/
structure ArbNote where
  waits : List (BitVec 8 × Nat × Nat)
  ce : Option (BitVec 48)
  deriving DecidableEq, Repr

/-- The three save sets and handler tables (R435). -/
inductive SaveSet where
  | s
  | v
  | m
  deriving DecidableEq, Repr

/-- The stages of the decode ladder (R501): stage 1, stage 2 (and whether its step 4 was reached), stage 3, stage 4. -/
inductive NandStage where
  | hard
  | retry (step4 : Bool)
  | soft
  | uncorrectable
  deriving DecidableEq, Repr

/-- A gPTP Sync with its Follow_Up (R535, R537): its domain, the master that sent it, and the port time that it sets. -/
structure SyncMsg where
  domain : BitVec 8
  master : BitVec 64
  time : BitVec 64
  deriving DecidableEq, Repr

/-- What an Announce says besides its master (R535): its domain and its priority vector. -/
structure AnnounceMsg where
  domain : BitVec 8
  priority : BitVec 64
  deriving DecidableEq, Repr

/-- What MACsec found on a received frame (R535, R561): the secure channel and the association, the packet number, and whether
the ICV holds. -/
structure SecTag where
  sci : BitVec 64
  an : BitVec 2
  pn : BitVec 64
  icvOk : Bool
  deriving DecidableEq, Repr

/-- The reader whose host-window read reaches the completion timeout (R571): a caller's outstanding load, the head
order of an engine's queue, or a descriptor in progress on a ring. -/
inductive HostReader where
  | caller (c : BitVec 3)
  | engine (e : BitVec 4) (w : World)
  | desc (f : World) (n : BitVec 6) (i : BitVec 3)
  deriving DecidableEq, Repr

/-- The commands, one constructor per row of spec/opcode_table.json. -/
inductive Instr where
  /-- ADD, R399. -/
  | add (c : BitVec 3) (d s1 s2 : BitVec 5)
  /-- SUB, R399. -/
  | sub (c : BitVec 3) (d s1 s2 : BitVec 5)
  /-- AND, R399. -/
  | and (c : BitVec 3) (d s1 s2 : BitVec 5)
  /-- OR, R399. -/
  | or (c : BitVec 3) (d s1 s2 : BitVec 5)
  /-- XOR, R399. -/
  | xor (c : BitVec 3) (d s1 s2 : BitVec 5)
  /-- ANDN, R399. -/
  | andn (c : BitVec 3) (d s1 s2 : BitVec 5)
  /-- SHL, R399. -/
  | shl (c : BitVec 3) (d s1 s2 : BitVec 5)
  /-- SHR, R399. -/
  | shr (c : BitVec 3) (d s1 s2 : BitVec 5)
  /-- SAR, R399. -/
  | sar (c : BitVec 3) (d s1 s2 : BitVec 5)
  /-- ROTL, R399. -/
  | rotl (c : BitVec 3) (d s1 s2 : BitVec 5)
  /-- SLT, R399. -/
  | slt (c : BitVec 3) (d s1 s2 : BitVec 5)
  /-- SLTU, R399. -/
  | sltu (c : BitVec 3) (d s1 s2 : BitVec 5)
  /-- MIN, R399. -/
  | min (c : BitVec 3) (d s1 s2 : BitVec 5)
  /-- MAX, R399. -/
  | max (c : BitVec 3) (d s1 s2 : BitVec 5)
  /-- MINU, R399. -/
  | minu (c : BitVec 3) (d s1 s2 : BitVec 5)
  /-- MAXU, R399. -/
  | maxu (c : BitVec 3) (d s1 s2 : BitVec 5)
  /-- ADDSAT, R399. -/
  | addsat (c : BitVec 3) (d s1 s2 : BitVec 5)
  /-- SUBSAT, R399. -/
  | subsat (c : BitVec 3) (d s1 s2 : BitVec 5)
  /-- CLZ, R399. -/
  | clz (c : BitVec 3) (d s1 s2 : BitVec 5)
  /-- POPCNT, R399. -/
  | popcnt (c : BitVec 3) (d s1 s2 : BitVec 5)
  /-- ADDI, R399. -/
  | addi (c : BitVec 3) (d s1 : BitVec 5) (imm : BitVec 16)
  /-- ANDI, R399. -/
  | andi (c : BitVec 3) (d s1 : BitVec 5) (imm : BitVec 16)
  /-- ORI, R399. -/
  | ori (c : BitVec 3) (d s1 : BitVec 5) (imm : BitVec 16)
  /-- XORI, R399. -/
  | xori (c : BitVec 3) (d s1 : BitVec 5) (imm : BitVec 16)
  /-- SLTI, R399. -/
  | slti (c : BitVec 3) (d s1 : BitVec 5) (imm : BitVec 16)
  /-- SLTIU, R399. -/
  | sltiu (c : BitVec 3) (d s1 : BitVec 5) (imm : BitVec 16)
  /-- SHIFTI_SHL, R399. -/
  | shiftiShl (c : BitVec 3) (d s1 : BitVec 5) (count : BitVec 6)
  /-- SHIFTI_SHR, R399. -/
  | shiftiShr (c : BitVec 3) (d s1 : BitVec 5) (count : BitVec 6)
  /-- SHIFTI_SAR, R399. -/
  | shiftiSar (c : BitVec 3) (d s1 : BitVec 5) (count : BitVec 6)
  /-- SHIFTI_ROTL, R399. -/
  | shiftiRotl (c : BitVec 3) (d s1 : BitVec 5) (count : BitVec 6)
  /-- LIH, R399. -/
  | lih (c : BitVec 3) (d s1 : BitVec 5) (imm : BitVec 16)
  /-- SHORI, R399. -/
  | shori (c : BitVec 3) (d s1 : BitVec 5) (imm : BitVec 16)
  /-- MUL, R399. -/
  | mul (c : BitVec 3) (d s1 s2 : BitVec 5)
  /-- MULH, R399. -/
  | mulh (c : BitVec 3) (d s1 s2 : BitVec 5)
  /-- MULHU, R399. -/
  | mulhu (c : BitVec 3) (d s1 s2 : BitVec 5)
  /-- MULSAT, R399. -/
  | mulsat (c : BitVec 3) (d s1 s2 : BitVec 5)
  /-- DIV, R399. -/
  | div (c : BitVec 3) (d s1 s2 : BitVec 5)
  /-- DIVU, R399. -/
  | divu (c : BitVec 3) (d s1 s2 : BitVec 5)
  /-- REM, R399. -/
  | rem (c : BitVec 3) (d s1 s2 : BitVec 5)
  /-- REMU, R399. -/
  | remu (c : BitVec 3) (d s1 s2 : BitVec 5)
  /-- LDB, R421. -/
  | ldb (c : BitVec 3) (d s1 : BitVec 5) (imm : BitVec 16)
  /-- LDBU, R421. -/
  | ldbu (c : BitVec 3) (d s1 : BitVec 5) (imm : BitVec 16)
  /-- LDH, R421. -/
  | ldh (c : BitVec 3) (d s1 : BitVec 5) (imm : BitVec 16)
  /-- LDHU, R421. -/
  | ldhu (c : BitVec 3) (d s1 : BitVec 5) (imm : BitVec 16)
  /-- LDW, R421. -/
  | ldw (c : BitVec 3) (d s1 : BitVec 5) (imm : BitVec 16)
  /-- LDWU, R421. -/
  | ldwu (c : BitVec 3) (d s1 : BitVec 5) (imm : BitVec 16)
  /-- LDD, R421. -/
  | ldd (c : BitVec 3) (d s1 : BitVec 5) (imm : BitVec 16)
  /-- STB, R420. -/
  | stb (c : BitVec 3) (d s1 : BitVec 5) (imm : BitVec 16)
  /-- STH, R420. -/
  | sth (c : BitVec 3) (d s1 : BitVec 5) (imm : BitVec 16)
  /-- STW, R420. -/
  | stw (c : BitVec 3) (d s1 : BitVec 5) (imm : BitVec 16)
  /-- STD, R420. -/
  | std (c : BitVec 3) (d s1 : BitVec 5) (imm : BitVec 16)
  /-- BEQ, R394. -/
  | beq (c : BitVec 3) (s1 s2 : BitVec 5) (off : BitVec 16)
  /-- BNE, R394. -/
  | bne (c : BitVec 3) (s1 s2 : BitVec 5) (off : BitVec 16)
  /-- BLT, R394. -/
  | blt (c : BitVec 3) (s1 s2 : BitVec 5) (off : BitVec 16)
  /-- BGE, R394. -/
  | bge (c : BitVec 3) (s1 s2 : BitVec 5) (off : BitVec 16)
  /-- BLTU, R394. -/
  | bltu (c : BitVec 3) (s1 s2 : BitVec 5) (off : BitVec 16)
  /-- BGEU, R394. -/
  | bgeu (c : BitVec 3) (s1 s2 : BitVec 5) (off : BitVec 16)
  /-- J, R394. -/
  | j (c : BitVec 3) (off : BitVec 26)
  /-- CALL, R392. -/
  | call (c : BitVec 3) (off : BitVec 26)
  /-- JR, R399. -/
  | jr (c : BitVec 3) (d s1 s2 : BitVec 5)
  /-- CALLR, R392. -/
  | callr (c : BitVec 3) (d s1 s2 : BitVec 5)
  /-- RET, R392. -/
  | ret (c : BitVec 3) (d s1 s2 : BitVec 5)
  /-- FADD, R396. -/
  | fadd (c : BitVec 3) (d s1 s2 : BitVec 5) (rnd ty : BitVec 3)
  /-- FSUB, R396. -/
  | fsub (c : BitVec 3) (d s1 s2 : BitVec 5) (rnd ty : BitVec 3)
  /-- FMUL, R396. -/
  | fmul (c : BitVec 3) (d s1 s2 : BitVec 5) (rnd ty : BitVec 3)
  /-- FDIV, R396. -/
  | fdiv (c : BitVec 3) (d s1 s2 : BitVec 5) (rnd ty : BitVec 3)
  /-- FSQRT, R396. -/
  | fsqrt (c : BitVec 3) (d s1 s2 : BitVec 5) (rnd ty : BitVec 3)
  /-- FMIN, R396. -/
  | fmin (c : BitVec 3) (d s1 s2 : BitVec 5) (rnd ty : BitVec 3)
  /-- FMAX, R396. -/
  | fmax (c : BitVec 3) (d s1 s2 : BitVec 5) (rnd ty : BitVec 3)
  /-- FABS, R396. -/
  | fabs (c : BitVec 3) (d s1 s2 : BitVec 5) (rnd ty : BitVec 3)
  /-- FNEG, R396. -/
  | fneg (c : BitVec 3) (d s1 s2 : BitVec 5) (rnd ty : BitVec 3)
  /-- FCPSGN, R396. -/
  | fcpsgn (c : BitVec 3) (d s1 s2 : BitVec 5) (rnd ty : BitVec 3)
  /-- FCMPEQ, R396. -/
  | fcmpeq (c : BitVec 3) (d s1 s2 : BitVec 5) (rnd ty : BitVec 3)
  /-- FCMPLT, R396. -/
  | fcmplt (c : BitVec 3) (d s1 s2 : BitVec 5) (rnd ty : BitVec 3)
  /-- FCMPLE, R396. -/
  | fcmple (c : BitVec 3) (d s1 s2 : BitVec 5) (rnd ty : BitVec 3)
  /-- FCMPUN, R396. -/
  | fcmpun (c : BitVec 3) (d s1 s2 : BitVec 5) (rnd ty : BitVec 3)
  /-- FCLASS, R396. -/
  | fclass (c : BitVec 3) (d s1 s2 : BitVec 5) (rnd ty : BitVec 3)
  /-- FRNDINT, R396. -/
  | frndint (c : BitVec 3) (d s1 s2 : BitVec 5) (rnd ty : BitVec 3)
  /-- FQUANT, R396. -/
  | fquant (c : BitVec 3) (d s1 s2 : BitVec 5) (rnd ty : BitVec 3)
  /-- FSCALEB, R396. -/
  | fscaleb (c : BitVec 3) (d s1 s2 : BitVec 5) (rnd ty : BitVec 3)
  /-- FLOGB, R396. -/
  | flogb (c : BitVec 3) (d s1 s2 : BitVec 5) (rnd ty : BitVec 3)
  /-- FMA, R399. -/
  | fma (c : BitVec 3) (d s1 s2 s3 : BitVec 5) (rnd ty : BitVec 3)
  /-- FMS, R399. -/
  | fms (c : BitVec 3) (d s1 s2 s3 : BitVec 5) (rnd ty : BitVec 3)
  /-- FNMA, R399. -/
  | fnma (c : BitVec 3) (d s1 s2 s3 : BitVec 5) (rnd ty : BitVec 3)
  /-- CVT, R397. -/
  | cvt (c : BitVec 3) (d s1 : BitVec 5) (sty tty : BitVec 4) (rnd : BitVec 3)
  /-- CVTSAT, R397. -/
  | cvtsat (c : BitVec 3) (d s1 : BitVec 5) (sty tty : BitVec 4) (rnd : BitVec 3)
  /-- VADD, R407. -/
  | vadd (c : BitVec 3) (vd vs1 vs2 : BitVec 5) (masked scalar : Bool)
  /-- VSUB, R407. -/
  | vsub (c : BitVec 3) (vd vs1 vs2 : BitVec 5) (masked scalar : Bool)
  /-- VMUL, R407. -/
  | vmul (c : BitVec 3) (vd vs1 vs2 : BitVec 5) (masked scalar : Bool)
  /-- VMULH, R407. -/
  | vmulh (c : BitVec 3) (vd vs1 vs2 : BitVec 5) (masked scalar : Bool)
  /-- VDIV, R407. -/
  | vdiv (c : BitVec 3) (vd vs1 vs2 : BitVec 5) (masked scalar : Bool)
  /-- VSQRT, R407. -/
  | vsqrt (c : BitVec 3) (vd vs1 vs2 : BitVec 5) (masked scalar : Bool)
  /-- VMIN, R407. -/
  | vmin (c : BitVec 3) (vd vs1 vs2 : BitVec 5) (masked scalar : Bool)
  /-- VMAX, R407. -/
  | vmax (c : BitVec 3) (vd vs1 vs2 : BitVec 5) (masked scalar : Bool)
  /-- VAND, R407. -/
  | vand (c : BitVec 3) (vd vs1 vs2 : BitVec 5) (masked scalar : Bool)
  /-- VOR, R407. -/
  | vor (c : BitVec 3) (vd vs1 vs2 : BitVec 5) (masked scalar : Bool)
  /-- VXOR, R407. -/
  | vxor (c : BitVec 3) (vd vs1 vs2 : BitVec 5) (masked scalar : Bool)
  /-- VSHL, R407. -/
  | vshl (c : BitVec 3) (vd vs1 vs2 : BitVec 5) (masked scalar : Bool)
  /-- VSHR, R407. -/
  | vshr (c : BitVec 3) (vd vs1 vs2 : BitVec 5) (masked scalar : Bool)
  /-- VSAR, R407. -/
  | vsar (c : BitVec 3) (vd vs1 vs2 : BitVec 5) (masked scalar : Bool)
  /-- VSEL, R407. -/
  | vsel (c : BitVec 3) (vd vs1 vs2 : BitVec 5) (masked scalar : Bool)
  /-- VCMPEQ, R407. -/
  | vcmpeq (c : BitVec 3) (vd vs1 vs2 : BitVec 5) (masked scalar : Bool)
  /-- VCMPNE, R407. -/
  | vcmpne (c : BitVec 3) (vd vs1 vs2 : BitVec 5) (masked scalar : Bool)
  /-- VCMPLT, R407. -/
  | vcmplt (c : BitVec 3) (vd vs1 vs2 : BitVec 5) (masked scalar : Bool)
  /-- VCMPLE, R407. -/
  | vcmple (c : BitVec 3) (vd vs1 vs2 : BitVec 5) (masked scalar : Bool)
  /-- VFMA, R407. -/
  | vfma (c : BitVec 3) (vd vs1 vs2 : BitVec 5) (masked scalar : Bool)
  /-- VFMS, R407. -/
  | vfms (c : BitVec 3) (vd vs1 vs2 : BitVec 5) (masked scalar : Bool)
  /-- VREDSUM, R407. -/
  | vredsum (c : BitVec 3) (vd vs1 vs2 : BitVec 5) (masked scalar : Bool)
  /-- VREDMIN, R407. -/
  | vredmin (c : BitVec 3) (vd vs1 vs2 : BitVec 5) (masked scalar : Bool)
  /-- VREDMAX, R407. -/
  | vredmax (c : BitVec 3) (vd vs1 vs2 : BitVec 5) (masked scalar : Bool)
  /-- VMVX, R407. -/
  | vmvx (c : BitVec 3) (vd vs1 vs2 : BitVec 5) (masked scalar : Bool)
  /-- VLD, R410. -/
  | vld (c : BitVec 3) (d s1 : BitVec 5) (imm : BitVec 16)
  /-- VST, R410. -/
  | vst (c : BitVec 3) (d s1 : BitVec 5) (imm : BitVec 16)
  /-- SETVL, R405. -/
  | setvl (c : BitVec 3) (d s1 : BitVec 5) (imm : BitVec 16)
  /-- SYNC_C, R423. -/
  | syncC (c : BitVec 3) (d s1 s2 : BitVec 5)
  /-- SYNC_F, R423. -/
  | syncF (c : BitVec 3) (d s1 s2 : BitVec 5)
  /-- BARRIER, R423. -/
  | barrier (c : BitVec 3) (d s1 s2 : BitVec 5)
  /-- FENCE_E, R423. -/
  | fenceE (c : BitVec 3) (d s1 s2 : BitVec 5)
  /-- CINV_I, R423. -/
  | cinvI (c : BitVec 3) (d s1 s2 : BitVec 5)
  /-- CINV_IA, R423. -/
  | cinvIa (c : BitVec 3) (d s1 s2 : BitVec 5)
  /-- CINV_D, R423. -/
  | cinvD (c : BitVec 3) (d s1 s2 : BitVec 5)
  /-- CINV_DA, R423. -/
  | cinvDa (c : BitVec 3) (d s1 s2 : BitVec 5)
  /-- WFLUSH, R415. -/
  | wflush (c : BitVec 3) (d s1 s2 : BitVec 5)
  /-- WAIT, R426. -/
  | wait (c : BitVec 3) (d s1 s2 : BitVec 5)
  /-- CRR, R428. -/
  | crr (c : BitVec 3) (d s1 : BitVec 5) (num : BitVec 16)
  /-- CRW, R428. -/
  | crw (c : BitVec 3) (d s1 : BitVec 5) (num : BitVec 16)
  /-- SCALL, R460. -/
  | scall (c : BitVec 3)
  /-- MCALL, R460. -/
  | mcall (c : BitVec 3)
  /-- BREAK, R460. -/
  | brk (c : BitVec 3)
  /-- RETX, R451. -/
  | retx (c : BitVec 3)
  /-- VDD_AON_RISE, R621. -/
  | vddAonRise
  /-- RESET_N_RISE, R624. -/
  | resetNRise
  /-- RESET_N_FALL, R621. -/
  | resetNFall
  /-- PFAIL_N_FALL, R636. -/
  | pfailNFall
  /-- SUPPLY_REMOVAL, R621. -/
  | supplyRemoval
  /-- THERM_N_CHANGE, R632. -/
  | thermNChange (level : Bool)
  /-- REFCLK_ETH_STOP, R667. -/
  | refclkEthStop
  /-- REFCLK_ETH_RETURN, R667. -/
  | refclkEthReturn
  /-- PCIE_PERST_N_FALL, R661. -/
  | pciePerstNFall
  /-- MODECTL_REHEARSAL, R621. -/
  | modectlRehearsal (m : Master) (after : BitVec 4)
  /-- MODECTL_CUSTODY, R634. -/
  | modectlCustody (m : Master) (after : BitVec 4)
  /-- MODECTL_CURTAIN, R635. -/
  | modectlCurtain (m : Master) (after : BitVec 4)
  /-- MODECTL_REFIT, R645. -/
  | modectlRefit (m : Master) (after : BitVec 4)
  /-- MODE_TRANSITION_COMPLETE, R621. -/
  | modeTransitionComplete
  /-- REHEARSAL_END, R631. -/
  | rehearsalEnd
  /-- DIE_SENSOR_READ, R632. -/
  | dieSensorRead (temps : List (BitVec 9 × Bool)) (mv : BitVec 16)
  /-- RESTRAINT_END, R632. -/
  | restraintEnd
  /-- OVERTEMP, R633. -/
  | overtemp (sensor : Fin 20)
  /-- CALSTART, R624. -/
  | calstart (m : Master) (callers : BitVec 8)
  /-- FUNCTION_READY, R625. -/
  | functionReady (bit : Fin 53)
  /-- BOOTLOAD, R628. -/
  | bootload (m : Master) (copy : Bool)
  /-- BOOTLOAD_DONE, R628. -/
  | bootloadDone
  /-- DOMAIN_SWITCH_OFF, R639. -/
  | domainSwitchOff (m : Master) (d : Fin 50)
  /-- DOMAIN_SWITCH_ON, R639. -/
  | domainSwitchOn (m : Master) (d : Fin 50)
  /-- REGISTER_WRITE, R640. -/
  | registerWrite (m : Master) (addr : Addr) (size : Nat) (v : Word)
  /-- CLAMPLOG_READ, R641. -/
  | clamplogRead (m : Master)
  /-- ENG_REJECT_READ, R99. -/
  | engRejectRead (m : Master) (e : BitVec 4) (w : World)
  /-- ENG_CPLERR_READ, R240. -/
  | engCplerrRead (m : Master) (e : BitVec 4) (w : World)
  /-- ENG_TRAPREP_READ, R241. -/
  | engTraprepRead (m : Master) (e : BitVec 4) (w : World)
  /-- MMREP0_READ, R324. -/
  | mmrep0Read (m : Master) (k : Fin 5)
  /-- FLT_FIRST0_READ, R492. -/
  | fltFirst0Read (m : Master) (b : Fin 57)
  /-- STAGING_WRITE, R642. -/
  | stagingWrite (m : Master) (off : BitVec 16) (size : Nat) (v : Word)
  /-- CFG_COMMIT, R643. -/
  | cfgCommit (m : Master) (count : BitVec 13) (check : BitVec 32)
  /-- CFG_PREVIEW, R643. -/
  | cfgPreview (m : Master) (count : BitVec 13) (check : BitVec 32)
  /-- PREVIEW_DONE, R643. -/
  | previewDone
  /-- CFG_ABORT, R645. -/
  | cfgAbort (m : Master)
  /-- COMMIT_APPLIED, R644. -/
  | commitApplied
  /-- PLACEMENT_MOVE, R626. -/
  | placementMove
  /-- DIGEST_TIMER, R647. -/
  | digestTimer
  /-- DIGEST_START, R647. -/
  | digestStart
  /-- DIGEST_PUBLISH, R647. -/
  | digestPublish
  /-- ORDER, R425. -/
  | issueOrder (c : BitVec 3) (d s1 s2 : BitVec 5)
  /-- ORDER_START, R91. -/
  | orderStart (e : BitVec 4) (w : World)
  /-- ORDER_COMPLETE, R234. -/
  | orderComplete (e : BitVec 4) (w : World)
  /-- RECORD_WRITTEN, R208. -/
  | recordWritten (e : BitVec 4) (w : World)
  /-- TP_CYCLE_START, R186. -/
  | tpCycleStart (e : BitVec 4)
  /-- TP_SLOT_BOUNDARY, R187. -/
  | tpSlotBoundary (e : BitVec 4)
  /-- STALL_WATCHDOG_EXPIRY, R224. -/
  | stallWatchdogExpiry (e : BitVec 4) (w : World)
  /-- ENG_SUSPEND, R226. -/
  | engSuspend (m : Master) (e : BitVec 4) (w : World)
  /-- RESUME_CONTINUE, R229. -/
  | resumeContinue (m : Master) (e : BitVec 4) (w : World) (tag : BitVec 16)
  /-- RESUME_PASS, R229. -/
  | resumePass (m : Master) (e : BitVec 4) (w : World) (tag : BitVec 16)
  /-- RESUME_SKIP, R230. -/
  | resumeSkip (m : Master) (e : BitVec 4) (w : World) (tag : BitVec 16)
  /-- RESUME_ABANDON, R231. -/
  | resumeAbandon (m : Master) (e : BitVec 4) (w : World) (tag : BitVec 16)
  /-- RELAY_CREDIT_RETURN, R174. -/
  | relayCreditReturn (r : BitVec 6)
  /-- RELAY_ENABLE, R180. -/
  | relayEnable (m : Master) (r : BitVec 6) (v : Word)
  /-- RLYFLUSH, R183. -/
  | rlyflush (m : Master) (r : BitVec 6)
  /-- SIGNATURE_COMPARE, R298. -/
  | signatureCompare (e : BitVec 4) (w : World) (err : Word)
  /-- ENCORE_START, R302. -/
  | encoreStart (e : BitVec 4) (w : World)
  /-- ENCORE_END, R302. -/
  | encoreEnd (err : Word)
  /-- FULL_PROOF_DONE, R314. -/
  | fullProofDone (k : Fin 5) (caught : BitVec 12) (lane : BitVec 5) (bitPos : BitVec 6)
  /-- PERIODIC_PROOF, R316. -/
  | periodicProof (k : Fin 5) (caught : Bool)
  /-- COMPARATOR_SUBSTITUTION, R607. -/
  | comparatorSubstitution (q : BitVec 2)
  /-- REP_MODE_WRITE, R310. -/
  | repModeWrite (m : Master) (spair vpair : Bool)
  /-- ENGINE_PAIRING_CHANGE, R312. -/
  | enginePairingChange (e : BitVec 4)
  /-- FRCLOSE, R305. -/
  | frclose (m : Master) (f : BitVec 4)
  /-- FRAME_CLOSE_DEFERRED, R305. -/
  | frameCloseDeferred (f : BitVec 4)
  /-- FRAME_CLEAR_DONE, R309. -/
  | frameClearDone (f : BitVec 4)
  /-- FRAME_ENABLE, R335. -/
  | frameEnable (m : Master) (f : BitVec 4) (v : Word)
  /-- HBM_TEMP_READ, R345. -/
  | hbmTempRead (k : BitVec 2) (temp : BitVec 9) (valid : Bool)
  /-- HBM_BAND_RETURN, R345. -/
  | hbmBandReturn (k : BitVec 2)
  /-- HBM_REFRESH, R346. -/
  | hbmRefresh (pc : BitVec 7) (bank : BitVec 8)
  /-- HBM_SCRUB, R349. -/
  | hbmScrub (pc : BitVec 7) (granule : BitVec 23) (found : MemErr)
  /-- HBM_SOFT_REPAIR, R353. -/
  | hbmSoftRepair (k : BitVec 2)
  /-- RETENT_WRITE, R385. -/
  | retentWrite (m : Master) (k : BitVec 2) (v : Word)
  /-- SCP_SCRUB, R358. -/
  | scpScrub (word : BitVec 24) (found : MemErr)
  /-- SCP_SWAP, R359. -/
  | scpSwap (m : Master) (bank : BitVec 11)
  /-- BANK_SWAP_DONE, R359. -/
  | bankSwapDone (q : BitVec 2)
  /-- ARBITER_GRANT, R372. -/
  | arbiterGrant (cls : BitVec 2) (idx : BitVec 12) (req : BitVec 8) (note : ArbNote)
  /-- LOAD_RESPONSE, R421. -/
  | loadResponse (c : BitVec 3) (reply : LoadReply)
  /-- STORE_DRAIN, R420. -/
  | storeDrain (c : BitVec 3)
  /-- STORE_RESPONSE, R370. -/
  | storeResponse (c : BitVec 3) (err : Bool)
  /-- LONG_OP_RETIRE, R403. -/
  | longOpRetire (c : BitVec 3) (i : BitVec 5)
  /-- SPILL, R411. -/
  | spill (c : BitVec 3)
  /-- REFILL, R411. -/
  | refill (c : BitVec 3)
  /-- TABLE_RELOAD_DONE, R441. -/
  | tableReloadDone (c : BitVec 3) (t : SaveSet)
  /-- CAL_WORLD_WRITE, R438. -/
  | calWorldWrite (m : Master) (c : BitVec 3) (w : World)
  /-- WSBASE_WRITE, R432. -/
  | wsbaseWrite (m : Master) (c : BitVec 3) (v : Word)
  /-- CAL_RESTART, R444. -/
  | calRestart (m : Master) (c : BitVec 3) (addr : Addr)
  /-- INTERRUPT_OFFER, R480. -/
  | interruptOffer (c : BitVec 3)
  /-- SRCSTAT_PEND_WRITE, R478. -/
  | srcstatPendWrite (m : Master) (src : BitVec 9)
  /-- EOI, R482. -/
  | eoi (m : Master) (src : BitVec 9)
  /-- CUE_FIRES, R463. -/
  | cueFires (m : Master) (ch : BitVec 8)
  /-- CUE_FIREV, R463. -/
  | cueFirev (m : Master) (ch : BitVec 8)
  /-- GRPSET, R465. -/
  | grpset (m : Master) (groups : BitVec 32)
  /-- GRPCLR, R465. -/
  | grpclr (m : Master) (groups : BitVec 32)
  /-- RATE_WINDOW, R470. -/
  | rateWindow
  /-- CUE_TIMER_EXPIRY, R471. -/
  | cueTimerExpiry (t : BitVec 3)
  /-- CUE_IN_ACTIVATION, R474. -/
  | cueInActivation (i : BitVec 4)
  /-- CUE_IN_REPEAT, R474. -/
  | cueInRepeat (i : BitVec 4)
  /-- STUCK, R475. -/
  | cueStuck (i : BitVec 4)
  /-- PINCFG_WRITE, R474. -/
  | pincfgWrite (m : Master) (i : BitVec 4) (v : Word)
  /-- CUE_OUT_PULSE_END, R476. -/
  | cueOutPulseEnd (o : BitVec 4)
  /-- FLT_INJECT, R488. -/
  | fltInject (m : Master) (b : Fin 57) (kind : BitVec 5)
  /-- ALARM_PULSE_END, R489. -/
  | alarmPulseEnd
  /-- BEAT_MONITOR_UPDATE, R157. -/
  | beatMonitorUpdate (res : BitVec 12) (rate ratio : BitVec 16)
  /-- SELF_TEST, R597. -/
  | selfTest (res : BitVec 12) (pass : Bool)
  /-- DEFER_EXPIRY, R600. -/
  | deferExpiry
  /-- LANE_SWAP, R603. -/
  | laneSwap (pass : Bool) (dur : BitVec 32)
  /-- ENGINE_MIGRATION, R604. -/
  | engineMigration (pass : Bool) (dur : BitVec 32)
  /-- CALLER_SWAP, R606. -/
  | callerSwap (pass : Bool) (dur : BitVec 32)
  /-- SEAL_UNIT_SWAP, R607. -/
  | sealUnitSwap (pass : Bool) (dur : BitVec 32)
  /-- SWAP_LANE_COMMAND, R601. -/
  | swapLaneCommand (m : Master) (target : BitVec 8) (lane phys : BitVec 5)
  /-- SWAP_ENGINE_COMMAND, R601. -/
  | swapEngineCommand (m : Master) (target : BitVec 8) (phys : BitVec 5)
  /-- SWAP_CALLER_COMMAND, R601. -/
  | swapCallerCommand (m : Master) (target : BitVec 8) (phys : BitVec 5)
  /-- SWAP_COMPARATOR_COMMAND, R601. -/
  | swapComparatorCommand (m : Master) (target : BitVec 8) (phys : BitVec 5)
  /-- SWAP_SEAL_COMMAND, R601. -/
  | swapSealCommand (m : Master) (target : BitVec 8) (phys : BitVec 5)
  /-- RECORD_OPEN, R511. -/
  | recordOpen (e : BitVec 4) (w : World)
  /-- FOLIO_PROGRAM_DONE, R502. -/
  | folioProgramDone (w : World) (target : BitVec 6) (upTo : Nat) (pass : Bool)
  /-- ERASE_DONE, R502. -/
  | eraseDone (target : BitVec 6) (pass : Bool)
  /-- NAND_READ_DONE, R501. -/
  | nandReadDone (w : World) (target : BitVec 6) (pos : Nat) (stage : NandStage)
  /-- COLOPHON_TIMER, R509. -/
  | colophonTimer
  /-- COLOPHON_PAGE_PROGRAMMED, R510. -/
  | colophonPageProgrammed (w : World) (pass : Bool)
  /-- FOLIO_AGE_EXPIRY, R502. -/
  | folioAgeExpiry (w : World) (target : BitVec 6) (pos : Nat)
  /-- MAP_CHECKPOINT, R503. -/
  | mapCheckpoint
  /-- ARC_WAIT_LIMIT, R518. -/
  | arcWaitLimit (e : BitVec 4) (w : World)
  /-- ARC_RELEASE, R522. -/
  | arcRelease (m : Master) (w : World) (below : BitVec 47)
  /-- ARC_AUDIT, R523. -/
  | arcAudit (m : Master) (count : BitVec 32) (unit : BitVec 3)
  /-- AUDIT_END, R523. -/
  | auditEnd
  /-- BOOTCTL, R530. -/
  | bootctl (m : Master) (length : BitVec 23) (copy : Bool)
  /-- BOOT_STORE_DONE, R530. -/
  | bootStoreDone (pass : Bool)
  /-- ARCHIVE_RECOVERY, R524. -/
  | archiveRecovery
  /-- RECOVERY_DONE, R525. -/
  | recoveryDone (ms : BitVec 16)
  /-- FLUSH_FINAL_COLOPHON, R526. -/
  | flushFinalColophon
  /-- FLUSH_END, R526. -/
  | flushEnd
  /-- LINK_UP, R536. -/
  | linkUp (p : BitVec 2) (speed fec : BitVec 2)
  /-- LINKDOWN, R536. -/
  | linkDown (p : BitVec 2)
  /-- FRAME_RECEIVE, R536. -/
  | frameReceive (p : BitVec 2) (frame : List Byte) (fcsOk cut : Bool) (sec : Option SecTag)
  /-- ASKUST_RECEIVE, R544. -/
  | askustReceive (p : BitVec 2) (rtag : Option (BitVec 16)) (tel : List Byte)
  /-- TELEGRAM_DELIVERY, R545. -/
  | telegramDelivery (p : BitVec 2)
  /-- SYNC, R537. -/
  | gptpSync (p : BitVec 2) (sync : SyncMsg) (offset : BitVec 32) (interval : BitVec 32)
  /-- ANNOUNCE, R535. -/
  | announce (p : BitVec 2) (msg : AnnounceMsg) (master : Word)
  /-- PDELAY_RESP, R535. -/
  | pdelayResp (p : BitVec 2) (delay : BitVec 32)
  /-- SYNC_TIMEOUT, R537. -/
  | syncTimeout (p : BitVec 2)
  /-- TXTAIL_WRITE, R541. -/
  | txtailWrite (m : Master) (p : BitVec 2) (w : World) (tail : BitVec 16)
  /-- TX_DESCRIPTOR, R541. -/
  | txDescriptor (p : BitVec 2) (w : World)
  /-- GATE_INTERVAL_END, R543. -/
  | gateIntervalEnd (p : BitVec 2)
  /-- RESYNC, R548. -/
  | resync (m : Master) (n : BitVec 8)
  /-- KEYDATA_WRITE, R560. -/
  | keydataWrite (m : Master) (p : BitVec 2) (v : Word)
  /-- KEY_INSTALL, R560. -/
  | keyInstall (m : Master) (p : BitVec 2) (v : Word)
  /-- FEEDB, R550. -/
  | feedb (m : Master) (u : Fin 6) (v : BitVec 8)
  /-- FEEDH, R550. -/
  | feedh (m : Master) (u : Fin 6) (v : BitVec 16)
  /-- FEEDW, R550. -/
  | feedw (m : Master) (u : Fin 6) (v : BitVec 32)
  /-- SEA_CLOSE, R552. -/
  | seaClose (m : Master) (u : Fin 6)
  /-- SCANLEN_WRITE, R550. -/
  | scanlenWrite (m : Master) (u : Fin 6) (len : BitVec 40) (closeAfter : Bool)
  /-- SCAN_END, R552. -/
  | scanEnd (u : Fin 6)
  /-- SEA_CTL_WRITE, R549. -/
  | seaCtlWrite (m : Master) (u : Fin 6) (v : Word)
  /-- SQ_TAIL_DOORBELL, R573. -/
  | sqTailDoorbell (f : World) (n : BitVec 6) (t : BitVec 16)
  /-- CQ_HEAD_DOORBELL, R586. -/
  | cqHeadDoorbell (f : World) (n : BitVec 6) (h : BitVec 16)
  /-- DESCRIPTOR_FETCH, R574. -/
  | descriptorFetch (f : World) (n : BitVec 6)
  /-- RUN, R577. -/
  | runDesc (f : World) (n : BitVec 6) (i : BitVec 3)
  /-- COPY_HOST_TO_DEVICE, R578. -/
  | copyHostToDevice (f : World) (n : BitVec 6) (i : BitVec 3) (k : Nat)
  /-- COPY_DEVICE_TO_HOST, R578. -/
  | copyDeviceToHost (f : World) (n : BitVec 6) (i : BitVec 3) (k : Nat)
  /-- COPY_TO_RELAY, R579. -/
  | copyToRelay (f : World) (n : BitVec 6) (i : BitVec 3) (k : Nat)
  /-- COPY_TO_FRAME, R580. -/
  | copyToFrame (f : World) (n : BitVec 6) (i : BitVec 3)
  /-- ARCHIVE_READ, R581. -/
  | archiveRead (f : World) (n : BitVec 6) (i : BitVec 3) (k : Nat)
  /-- CONFIG_STAGE, R582. -/
  | configStage (f : World) (n : BitVec 6) (i : BitVec 3)
  /-- NOTE, R583. -/
  | noteDesc (f : World) (n : BitVec 6) (i : BitVec 3)
  /-- COMPLETION_WRITE, R585. -/
  | completionWrite (f : World) (n : BitVec 6)
  /-- COALESCE_TIMER, R587. -/
  | coalesceTimer (f : World) (n : BitVec 6)
  /-- RING_ENABLE, R572. -/
  | ringEnable (m : Master) (f : World) (cq : Bool) (n : BitVec 6) (v : Word)
  /-- RING_DISABLE, R588. -/
  | ringDisable (m : Master) (f : World) (cq : Bool) (n : BitVec 6) (v : Word)
  /-- FUNCTION_LEVEL_RESET, R589. -/
  | functionLevelReset (f : World)
  /-- PCIE_LINK_DOWN, R589. -/
  | pcieLinkDown
  /-- COMPLETION_TIMEOUT, R571. -/
  | completionTimeout (who : HostReader)
  /-- BAR4_ACCESS, R569. -/
  | bar4Access (f : World) (off : BitVec 24) (size : Nat) (wr : Option Word)
  /-- BYPASS, R671. -/
  | bypass
  /-- IDCODE, R671. -/
  | idcode
  /-- SAMPLE_PRELOAD, R671. -/
  | samplePreload (pins : Word)
  /-- EXTEST, R671. -/
  | extest
  /-- EXTEST_PULSE, R671. -/
  | extestPulse
  /-- EXTEST_TRAIN, R671. -/
  | extestTrain
  /-- TRST_N_LOW, R671. -/
  | trstNLow
  /-- ADD_ORDER, R109. -/
  | addOrder (e : BitVec 4) (w : World) (k : Nat)
  /-- SUB_ORDER, R109. -/
  | subOrder (e : BitVec 4) (w : World) (k : Nat)
  /-- MUL_ORDER, R109. -/
  | mulOrder (e : BitVec 4) (w : World) (k : Nat)
  /-- FMA_ORDER, R109. -/
  | fmaOrder (e : BitVec 4) (w : World) (k : Nat)
  /-- FMS_ORDER, R109. -/
  | fmsOrder (e : BitVec 4) (w : World) (k : Nat)
  /-- FNMA_ORDER, R109. -/
  | fnmaOrder (e : BitVec 4) (w : World) (k : Nat)
  /-- DIV_ORDER, R110. -/
  | divOrder (e : BitVec 4) (w : World) (k : Nat)
  /-- SQRT, R109. -/
  | sqrtOrder (e : BitVec 4) (w : World) (k : Nat)
  /-- MIN_ORDER, R111. -/
  | minOrder (e : BitVec 4) (w : World) (k : Nat)
  /-- MAX_ORDER, R111. -/
  | maxOrder (e : BitVec 4) (w : World) (k : Nat)
  /-- ABS, R110. -/
  | absOrder (e : BitVec 4) (w : World) (k : Nat)
  /-- NEG, R110. -/
  | negOrder (e : BitVec 4) (w : World) (k : Nat)
  /-- ADDSAT_ORDER, R109. -/
  | addsatOrder (e : BitVec 4) (w : World) (k : Nat)
  /-- SUBSAT_ORDER, R109. -/
  | subsatOrder (e : BitVec 4) (w : World) (k : Nat)
  /-- MULSAT_ORDER, R109. -/
  | mulsatOrder (e : BitVec 4) (w : World) (k : Nat)
  /-- MULWIDE, R109. -/
  | mulwideOrder (e : BitVec 4) (w : World) (k : Nat)
  /-- MULHI, R109. -/
  | mulhiOrder (e : BitVec 4) (w : World) (k : Nat)
  /-- AND_ORDER, R113. -/
  | andOrder (e : BitVec 4) (w : World) (k : Nat)
  /-- OR_ORDER, R113. -/
  | orOrder (e : BitVec 4) (w : World) (k : Nat)
  /-- XOR_ORDER, R113. -/
  | xorOrder (e : BitVec 4) (w : World) (k : Nat)
  /-- NOT, R113. -/
  | notOrder (e : BitVec 4) (w : World) (k : Nat)
  /-- ANDNOT, R113. -/
  | andnotOrder (e : BitVec 4) (w : World) (k : Nat)
  /-- SHL_ORDER, R114. -/
  | shlOrder (e : BitVec 4) (w : World) (k : Nat)
  /-- SHR_ORDER, R114. -/
  | shrOrder (e : BitVec 4) (w : World) (k : Nat)
  /-- SAR_ORDER, R114. -/
  | sarOrder (e : BitVec 4) (w : World) (k : Nat)
  /-- ROTL_ORDER, R114. -/
  | rotlOrder (e : BitVec 4) (w : World) (k : Nat)
  /-- SELECT, R115. -/
  | selectOrder (e : BitVec 4) (w : World) (k : Nat)
  /-- CLZ_ORDER, R116. -/
  | clzOrder (e : BitVec 4) (w : World) (k : Nat)
  /-- POPCNT_ORDER, R116. -/
  | popcntOrder (e : BitVec 4) (w : World) (k : Nat)
  /-- CVT_ORDER, R117. -/
  | cvtOrder (e : BitVec 4) (w : World) (k : Nat)
  /-- RNDINT, R119. -/
  | rndintOrder (e : BitVec 4) (w : World) (k : Nat)
  /-- QUANTIZE, R119. -/
  | quantizeOrder (e : BitVec 4) (w : World) (k : Nat)
  /-- CVTSAT_ORDER, R118. -/
  | cvtsatOrder (e : BitVec 4) (w : World) (k : Nat)
  /-- CMPEQ, R120. -/
  | cmpeqOrder (e : BitVec 4) (w : World) (k : Nat)
  /-- CMPNE, R120. -/
  | cmpneOrder (e : BitVec 4) (w : World) (k : Nat)
  /-- CMPLT, R120. -/
  | cmpltOrder (e : BitVec 4) (w : World) (k : Nat)
  /-- CMPLE, R120. -/
  | cmpleOrder (e : BitVec 4) (w : World) (k : Nat)
  /-- CMPGT, R120. -/
  | cmpgtOrder (e : BitVec 4) (w : World) (k : Nat)
  /-- CMPGE, R120. -/
  | cmpgeOrder (e : BitVec 4) (w : World) (k : Nat)
  /-- CMPUN, R120. -/
  | cmpunOrder (e : BitVec 4) (w : World) (k : Nat)
  /-- CMPORD, R120. -/
  | cmpordOrder (e : BitVec 4) (w : World) (k : Nat)
  /-- SUM, R122. -/
  | sumOrder (e : BitVec 4) (w : World) (k : Nat)
  /-- MINR, R122. -/
  | minrOrder (e : BitVec 4) (w : World) (k : Nat)
  /-- MAXR, R122. -/
  | maxrOrder (e : BitVec 4) (w : World) (k : Nat)
  /-- ANDR, R122. -/
  | andrOrder (e : BitVec 4) (w : World) (k : Nat)
  /-- ORR, R122. -/
  | orrOrder (e : BitVec 4) (w : World) (k : Nat)
  /-- XORR, R122. -/
  | xorrOrder (e : BitVec 4) (w : World) (k : Nat)
  /-- DOT, R122. -/
  | dotOrder (e : BitVec 4) (w : World) (k : Nat)
  /-- SEGSUM, R125. -/
  | segsumOrder (e : BitVec 4) (w : World) (k : Nat)
  /-- SEGMIN, R125. -/
  | segminOrder (e : BitVec 4) (w : World) (k : Nat)
  /-- SEGMAX, R125. -/
  | segmaxOrder (e : BitVec 4) (w : World) (k : Nat)
  /-- SEGDOT, R125. -/
  | segdotOrder (e : BitVec 4) (w : World) (k : Nat)
  /-- LINREC, R128. -/
  | linrecOrder (e : BitVec 4) (w : World) (k : Nat)
  /-- PSUM, R129. -/
  | psumOrder (e : BitVec 4) (w : World) (k : Nat)
  /-- PSUMX, R129. -/
  | psumxOrder (e : BitVec 4) (w : World) (k : Nat)
  /-- SEGPSUM, R130. -/
  | segpsumOrder (e : BitVec 4) (w : World) (k : Nat)
  /-- COMPRESS, R132. -/
  | compressOrder (e : BitVec 4) (w : World) (k : Nat)
  /-- EXPAND, R133. -/
  | expandOrder (e : BitVec 4) (w : World) (k : Nat)
  /-- GATHER, R135. -/
  | gatherOrder (e : BitVec 4) (w : World) (k : Nat)
  /-- SCATTER, R135. -/
  | scatterOrder (e : BitVec 4) (w : World) (k : Nat)
  /-- SCATTERADD, R135. -/
  | scatteraddOrder (e : BitVec 4) (w : World) (k : Nat)
  /-- SPMV, R138. -/
  | spmvOrder (e : BitVec 4) (w : World) (k : Nat)
  /-- COPY, R140. -/
  | copyOrder (e : BitVec 4) (w : World) (k : Nat)
  /-- FILL, R140. -/
  | fillOrder (e : BitVec 4) (w : World) (k : Nat)
  /-- ARCAPPEND, R145. -/
  | arcappendOrder (e : BitVec 4) (w : World) (k : Nat)
  /-- ARCREAD, R146. -/
  | arcreadOrder (e : BitVec 4) (w : World) (k : Nat)
  /-- SEALFEED, R147. -/
  | sealfeedOrder (e : BitVec 4) (w : World) (k : Nat)
  /-- SCENE, R152. -/
  | sceneOrder (e : BitVec 4) (w : World) (k : Nat)
  /-- SCALEB, R151. -/
  | scalebOrder (e : BitVec 4) (w : World) (k : Nat)
  /-- LOGB, R151. -/
  | logbOrder (e : BitVec 4) (w : World) (k : Nat)
  /-- COPYSIGN, R151. -/
  | copysignOrder (e : BitVec 4) (w : World) (k : Nat)
  /-- CLASS, R151. -/
  | classOrder (e : BitVec 4) (w : World) (k : Nat)
  /-- CUE_IN_INACTIVE, R475. -/
  | cueInInactive (i : BitVec 4)
  /-- PFAIL_N_RISE, R669. -/
  | pfailNRise
  /-- HELD_RESET_N_RISE, R669. -/
  | heldResetNRise
  /-- PCIE_LINK_UP, R589. -/
  | pcieLinkUp (gen : BitVec 3) (width : BitVec 5) (bme : BitVec 2)
  /-- RETENTION, R502. -/
  | retentionLate (w : World) (target : BitVec 6) (pos : Nat)
  /-- TRST_N_HIGH, R671. -/
  | trstNHigh
  deriving DecidableEq, Repr

end Sys2Proof
end

