-- ==== Sys2Proof/Decode.lean ====
section
/-!
DEFINITION. The commands of the VT4160 are not words: spec/opcode_table.json gives its rows no bits, so no word spells a
command. The instruction words of a caller have an encoding of their own (R393 to R399, R460), which `Spelt.ofWord` reads.
(The byte encoding of stream orders is decoded in Machine/OrderCode.lean, as part of the command ORDER.)
-/
namespace Sys2Proof

/-- The command that a word of `nbits` bits spells: none, since no row of the table has bits. -/
def decodeTableWord (_nbits _w : Nat) : Option Instr := none

/-- What an instruction word of a caller spells: an instruction; CRR or CRW, which the spec's table does not tell apart by
bits (log entry 107); or an illegal word. -/
inductive Spelt where
  | instr (i : Instr)
  | control (d s1 : BitVec 5) (num : BitVec 16)
  | illegal
  deriving DecidableEq, Repr

/-- The `n` bits of a word from `lsb` up. -/
def wordBits (w : BitVec 32) (lsb n : Nat) : BitVec n := w.extractLsb' lsb n

/-- An instruction of a list by its code. -/
def Spelt.nth (is : List Instr) (k : Nat) : Spelt := match is[k]? with | some i => .instr i | none => .illegal

/-- Format A, majors 0x01, 0x0C, 0x0D and 0x2A (R399): consecutive function codes from zero. -/
def Spelt.integer (c : BitVec 3) (w : BitVec 32) (is : List (BitVec 3 → BitVec 5 → BitVec 5 → BitVec 5 → Instr)) : Spelt :=
  .nth (is.map fun f => f c (wordBits w 21 5) (wordBits w 16 5) (wordBits w 11 5)) (wordBits w 0 11).toNat

/-- Major 0x08 (R399): the shift in imm[7:6], its count below, the rest reserved. -/
def Spelt.shift (c : BitVec 3) (w : BitVec 32) : Spelt :=
  let d := wordBits w 21 5
  let s1 := wordBits w 16 5
  let n := wordBits w 0 6
  if wordBits w 8 8 ≠ 0 then .illegal
  else .nth [.shiftiShl c d s1 n, .shiftiShr c d s1 n, .shiftiSar c d s1 n, .shiftiRotl c d s1 n] (wordBits w 6 2).toNat

/-- Major 0x30 (R396): the operation in [10:6], ROUND in [5:3], TYPE in [2:0]. -/
def Spelt.floating (c : BitVec 3) (w : BitVec 32) : Spelt :=
  .nth ([Instr.fadd, .fsub, .fmul, .fdiv, .fsqrt, .fmin, .fmax, .fabs, .fneg, .fcpsgn, .fcmpeq, .fcmplt, .fcmple, .fcmpun,
      .fclass, .frndint, .fquant, .fscaleb, .flogb].map fun f =>
    f c (wordBits w 21 5) (wordBits w 16 5) (wordBits w 11 5) (wordBits w 3 3) (wordBits w 0 3)) (wordBits w 6 5).toNat

/-- Majors 0x31 to 0x33 in format F (R393, R399). -/
def Spelt.fused (c : BitVec 3) (w : BitVec 32)
    (f : BitVec 3 → BitVec 5 → BitVec 5 → BitVec 5 → BitVec 5 → BitVec 3 → BitVec 3 → Instr) : Spelt :=
  .instr (f c (wordBits w 21 5) (wordBits w 16 5) (wordBits w 11 5) (wordBits w 6 5) (wordBits w 3 3) (wordBits w 0 3))

/-- Major 0x35 in format X (R393, R397): bits [3:0] are zero. -/
def Spelt.convert (c : BitVec 3) (w : BitVec 32) : Spelt :=
  let f := if wordBits w 4 1 = 1 then Instr.cvtsat else Instr.cvt
  if wordBits w 0 4 ≠ 0 then .illegal
  else .instr (f c (wordBits w 21 5) (wordBits w 16 5) (wordBits w 12 4) (wordBits w 8 4) (wordBits w 5 3))

/-- Major 0x38 in format V (R393, R399). -/
def Spelt.vector (c : BitVec 3) (w : BitVec 32) : Spelt :=
  .nth ([Instr.vadd, .vsub, .vmul, .vmulh, .vdiv, .vsqrt, .vmin, .vmax, .vand, .vor, .vxor, .vshl, .vshr, .vsar, .vsel,
      .vcmpeq, .vcmpne, .vcmplt, .vcmple, .vfma, .vfms, .vredsum, .vredmin, .vredmax, .vmvx].map fun f =>
    f c (wordBits w 21 5) (wordBits w 16 5) (wordBits w 11 5) (wordBits w 10 1 == 1) (wordBits w 9 1 == 1))
    (wordBits w 0 9).toNat

/-- Major 0x3C (R399, R460): the exception and return instructions have all register fields zero. -/
def Spelt.system (c : BitVec 3) (w : BitVec 32) : Spelt :=
  let d := wordBits w 21 5
  let s1 := wordBits w 16 5
  let s2 := wordBits w 11 5
  let fn := (wordBits w 0 11).toNat
  if fn < 0x10 then
    .nth [.syncC c d s1 s2, .syncF c d s1 s2, .barrier c d s1 s2, .fenceE c d s1 s2, .cinvI c d s1 s2, .cinvIa c d s1 s2,
      .cinvD c d s1 s2, .cinvDa c d s1 s2, .wflush c d s1 s2] fn
  else if fn < 0x20 then .nth [.issueOrder c d s1 s2, .wait c d s1 s2] (fn - 0x10)
  else if d ≠ 0 ∨ s1 ≠ 0 ∨ s2 ≠ 0 then .illegal
  else .nth [.scall c, .mcall c, .brk c, .retx c] (fn - 0x20)

/-- The instruction word `w` of caller `c` (R393 to R399, R460): every other code is illegal, the all-zero word too. -/
def Spelt.ofWord (c : BitVec 3) (w : BitVec 32) : Spelt :=
  let d := wordBits w 21 5
  let s1 := wordBits w 16 5
  let imm := wordBits w 0 16
  let off := wordBits w 0 26
  match (wordBits w 26 6).toNat with
  | 0x01 => .integer c w [.add, .sub, .and, .or, .xor, .andn, .shl, .shr, .sar, .rotl, .slt, .sltu, .min, .max, .minu, .maxu,
      .addsat, .subsat, .clz, .popcnt]
  | 0x02 => .instr (.addi c d s1 imm)
  | 0x03 => .instr (.andi c d s1 imm)
  | 0x04 => .instr (.ori c d s1 imm)
  | 0x05 => .instr (.xori c d s1 imm)
  | 0x06 => .instr (.slti c d s1 imm)
  | 0x07 => .instr (.sltiu c d s1 imm)
  | 0x08 => .shift c w
  | 0x09 => .instr (.lih c d s1 imm)
  | 0x0A => .instr (.shori c d s1 imm)
  | 0x0C => .integer c w [.mul, .mulh, .mulhu, .mulsat]
  | 0x0D => .integer c w [.div, .divu, .rem, .remu]
  | 0x10 => .instr (.ldb c d s1 imm)
  | 0x11 => .instr (.ldbu c d s1 imm)
  | 0x12 => .instr (.ldh c d s1 imm)
  | 0x13 => .instr (.ldhu c d s1 imm)
  | 0x14 => .instr (.ldw c d s1 imm)
  | 0x15 => .instr (.ldwu c d s1 imm)
  | 0x16 => .instr (.ldd c d s1 imm)
  | 0x18 => .instr (.stb c d s1 imm)
  | 0x19 => .instr (.sth c d s1 imm)
  | 0x1A => .instr (.stw c d s1 imm)
  | 0x1B => .instr (.std c d s1 imm)
  | 0x20 => .instr (.beq c d s1 imm)
  | 0x21 => .instr (.bne c d s1 imm)
  | 0x22 => .instr (.blt c d s1 imm)
  | 0x23 => .instr (.bge c d s1 imm)
  | 0x24 => .instr (.bltu c d s1 imm)
  | 0x25 => .instr (.bgeu c d s1 imm)
  | 0x28 => .instr (.j c off)
  | 0x29 => .instr (.call c off)
  | 0x2A => .integer c w [.jr, .callr, .ret]
  | 0x30 => .floating c w
  | 0x31 => .fused c w .fma
  | 0x32 => .fused c w .fms
  | 0x33 => .fused c w .fnma
  | 0x35 => .convert c w
  | 0x38 => .vector c w
  | 0x3A => .instr (.vld c d s1 imm)
  | 0x3B => .instr (.vst c d s1 imm)
  | 0x3C => .system c w
  | 0x3D => .control d s1 imm
  | 0x3E => .instr (.setvl c d s1 imm)
  | _ => .illegal

end Sys2Proof
end

