-- ==== Sys2Proof/Config.lean ====
section
/-!
DEFINITION. What the spec leaves open: free values, as constants without a body. Nothing in the model fixes them; a
statement that holds, holds whatever they are (log entries 2, 6, 74, 122, 125, 137, 138, 162 and 168).
-/
namespace Sys2Proof

/-- The value of the `n`-th open point that the machine meets (log entry 2). -/
opaque Config.freeValue : Nat → BitVec 64

/-- What a relay gives after a foreign write has left its contents unspecified (R172), by the number of that event and
the relay's byte. -/
opaque Config.relayByte : Nat → Nat → BitVec 8

/-- The value that element `i` of slot `slot` of the order with a sequence number takes where its index-driven access meets
another stream of the order (R143). -/
opaque Config.crossedValue (seq slot i : Nat) : Nat

/-- The bytes of the boot ROM, which the manual does not publish (R364). -/
opaque Config.bootRom : Nat → BitVec 8

/-- Does a cached access of caller `c` at address `a` meet a parity error (R416)? `n` counts the caller's instructions and the
open points met. -/
opaque Config.parityError (c n a : Nat) : Bool

/-- What fixes the beats of caller `c` in each microsecond, between the bounds of R2 (log entry 125). -/
opaque Config.calPace : Nat → Nat → Nat

/-- What fixes the beats of the cue router in each microsecond, between the bounds of R2 (log entry 6). -/
opaque Config.beatPace : Nat → Nat

/-- Beats of the cue router in the microsecond that begins at `t`: 1 350 at SLOW to 2 450 at FAST (R2). -/
def Config.beatsIn (t : Nat) : Nat := 1350 + Config.beatPace t % 1101

/-- Beats of caller `c` in the microsecond that begins at `t` (R2). -/
def Config.calBeatsIn (c t : Nat) : Nat := 1350 + Config.calPace c t % 1101

/-- A block of a NAND target as the device first meets it: its factory bad-block mark and its erase count (R502). -/
structure NandBlk where
  bad : Bool
  erases : Nat
  deriving DecidableEq, Repr, Inhabited

/-- The parameter page of an attached NAND target (R499): whether it answers and meets the conditions on pages,
programming and program times, its planes, bits per cell, capacity in GB, the greatest rate in MT/s that it declares for
NV-DDR3, whether it declares NV-LPDDR4 and at which rate, the folios that a block holds, and its blocks as the device first
meets them. -/
structure NandTarget where
  answers : Bool
  pageOk : Bool
  onePass : Bool
  timesOk : Bool
  planes : Nat
  bits : Nat
  rawGB : Nat
  rateDdr3 : Nat
  lpddr4 : Bool
  rateLpddr4 : Nat
  folios : Nat
  blocks : List NandBlk
  deriving DecidableEq, Repr, Inhabited

/-- An access of the host to BAR2 of a function: offset, 8 bytes or 4, and the value of a write (R570). -/
structure Bar2 where
  fn : Bool
  off : BitVec 16
  wide : Bool
  wr : Option (BitVec 64)
  deriving DecidableEq, Repr

/-- The host's access to BAR2 in the idle microsecond that ends at `t`, if it makes one (log entry 177). -/
opaque Config.bar2At (t : Nat) : Option Bar2

/-- Does resource `j` fail the vector test or the steering check as it takes logical number `l` at the µs `t` in a placement
move (R603, R604, R626)? -/
opaque Config.moveFails (j l t : Nat) : Bool

/-- Does the `n`-th read of the host window by a caller's VLD or ORDER end with an error or at the completion timeout (R440,
R571)? -/
opaque Config.hostFails (n : Nat) : Bool

/-- The attached flash, by target (R498 to R500): it lies outside the device. -/
opaque Config.nand : Nat → NandTarget

/-- Does the flash give the boot image of copy 0 or 1 back whole and sound at the µs `t` (R515, R628)? -/
opaque Config.bootSound (copy : Bool) (t : Nat) : Bool

/-- What the retention profiling of the `n`-th Rehearsal finds in stack `k` (R347): the rows that become weak and the
rows that become repair candidates, each as pseudo-channel of the stack and row. -/
opaque Config.weakRows (n k : Nat) : List (Nat × Nat)
opaque Config.failedRows (n k : Nat) : List (Nat × Nat)

/-- What MACsec puts behind a SecTAG (R535, IEEE 802.1AE, GCM-AES-XPN-256): the protected bytes and the ICV, from the words of the
association, the secure channel, the packet number, the addresses with the SecTAG, and the bytes to protect. -/
opaque Config.macsec (key : List (BitVec 64)) (sci : BitVec 64) (pn : Nat) (head bytes : List (BitVec 8)) : List (BitVec 8)

/-- How many blocks of target `t` are system blocks (R502, R504), which the manual does not say. -/
opaque Config.systemBlocks (t : Nat) : Nat

/-- Did a program operation that lost its supply leave a copy of colophon page `seq` of world `w` with a sound PAGECRC (R524)? -/
opaque Config.pageHeld (w seq : Nat) : Bool

end Sys2Proof
end

