-- ==== Sys2Proof/Machine/Bits.lean ====
section
/-!
DEFINITION. Bit-field, byte-order and sign helpers: field reads and writes of a word (R8, R9 and the notation of 00_scope.md).
Registers are words of 64 bits; fields are read out as natural numbers.
-/
namespace Sys2Proof

/-- The field `[lsb + w - 1 : lsb]` of a word, as a number (notation of 00_scope.md). -/
def Word.fld (v : Word) (lsb w : Nat) : Nat := v.toNat / 2 ^ lsb % 2 ^ w

/-- One bit of a word. -/
def Word.bit (v : Word) (i : Nat) : Bool := v.getLsbD i

/-- `v` with its field `[lsb + w - 1 : lsb]` replaced by `x` modulo `2 ^ w`. -/
def Word.setFld (v : Word) (lsb w x : Nat) : Word :=
  let m := ((BitVec.ofNat 64 (2 ^ w - 1)) <<< lsb)
  (v &&& ~~~m) ||| ((BitVec.ofNat 64 (x % 2 ^ w)) <<< lsb)

/-- `v` with bit `i` set to `b`. -/
def Word.setBit (v : Word) (i : Nat) (b : Bool) : Word := v.setFld i 1 b.toNat

/-- `x` limited to at most `m` (saturating counters). -/
def satAdd (x d m : Nat) : Nat := min (x + d) m

/-- The `n` little-endian bytes of `x`, lowest first (R8). -/
def leBytes : Nat → Nat → List Byte
  | 0, _ => []
  | n + 1, x => BitVec.ofNat 8 x :: leBytes n (x / 256)

/-- The number that a list of little-endian bytes spells (R8). -/
def ofLeBytes : List Byte → Nat
  | [] => 0
  | b :: bs => b.toNat + 256 * ofLeBytes bs

/-- The signed value of the low `w` bits of `x`. -/
def toSigned (w x : Nat) : Int :=
  let y := x % 2 ^ w
  if y < 2 ^ (w - 1) then (y : Int) else (y : Int) - (2 ^ w : Nat)

/-- The low `w` bits of the two's complement form of `x`. -/
def wrapInt (w : Nat) (x : Int) : Nat := (x % ((2 ^ w : Nat) : Int)).toNat

end Sys2Proof
end

