-- ==== Sys2Proof/Machine/RegTable.lean ====
section
/-!
DEFINITION. The registers of the configuration space (R29 to R33 and the register tables of every chapter): every
register's name, place, access marks, fields, reset values, clamp rules and whether a field belongs to the
configuration image (R15, R646). Bits that no field covers are reserved (R13). Reset values marked "—" stand at zero
(log entry 4).
-/
namespace Sys2Proof.Machine

/-- The blocks of the configuration space (R29). -/
inductive Blk where
  | eng | qad | hbc | rep | cal | scp | mtx | cue | ids | sea | arc | lnk | hst | cus | ust | pwr | cfg
  deriving DecidableEq, Repr

/-- The access types of R10. -/
inductive FTy where
  | rw | ro | rc | w1c | w1s | wo | rwl
  deriving DecidableEq, Repr

/-- The clamp rules of R640: `near lo hi` takes the nearer bound; `into lo hi v` takes `v` outside `lo` to `hi`;
`align k lo` stores the bits below `k` as zero and takes `lo` below `lo`; the others name one field each. -/
inductive Clamp where
  | any
  | near (lo hi : Nat)
  | into (lo hi v : Nat)
  | align (k lo : Nat)
  | vpair | kscale | rot | zbase | intlv | space | classMask
  deriving DecidableEq, Repr

/-- A field of a register: place, width, access type, clamp rule, and whether it belongs to the image. -/
structure Fld where
  lsb : Nat
  w : Nat
  ty : FTy
  clamp : Clamp
  image : Bool
  deriving DecidableEq, Repr

/-- The registers, by name. -/
inductive Reg where
  | id
  | engPlace | engRactl | engBeat | engTpctl | engTpphase | engTpstat | engTpslot | engPgrant
  | engPwait | engPmax | engXctl | engWdog | engPrbase | engCpl | engCplerr | engTraprep
  | engStoprep | engSuspend | engResume | engWdstat | engPr | engObase | engOlen | engOctl
  | engQstat | engReject | qadEngocc | qadCalocc | qadSpares | qadBeat | hbcTemp | hbcScrub
  | hbcCecnt | hbcUecnt | hbcPprctl | hbcPprstat | hbcRetsel | hbcRetent | hbcRetstat | repCstat
  | repCcount | repMmrep0 | repMmrep1 | repMmsigp | repMmsigr | repEncrep | repProofrep | repMode
  | repMstat | repTctl | repPctl | repLatch | repPlain | repFrclose | repFrcfg | repFrstat
  | calPlace | calBeat | calWsbase | calWslim | calWsctl | calCache | calRetired | calSpills
  | calWorld | calRestart | calHoldrep | calExccnt | calEntrylat | scpScrub | scpCecnt | scpUecnt
  | scpBanksel | scpBankmap | scpSwap | scpRlyctl | scpRlystat | scpRlyflush | mtxRemap | mtxZbase
  | mtxHbmsplit | mtxCntsel | mtxCntgrant | mtxCntwait | mtxCntmax | mtxWbase | mtxWlim | mtxWattr
  | cueFires | cueRatectl | cueGrpen | cueGrpset | cueGrpclr | cueGrpctl | cueChcfg | cueChstat
  | cuePincfg | cuePinstat | cueOutcfg | cueOutstat | cueTimer | cueTphase | cueFeed | cueFeedstat
  | cueMiss | idsEoi | idsCalctl | idsCalstat | idsSrccfg | idsSrcstat | seaCtl | seaInit
  | seaFeedb | seaFeedh | seaFeedw | seaClose | seaScanaddr | seaScanlen | seaAlive | seaChkval
  | seaChkalive | seaResult | seaStat | seaResaddr | seaPlace | arcCtl | arcGeom | arcTgtsel
  | arcTgtstat | arcMedia | arcWaitlim | arcSpace | arcCommit | arcRelease | arcAudfrom | arcAudit
  | arcAudstat | arcRetry | arcThru | arcRecov | arcBootsrc | arcBootctl | lnkPctl | lnkPstat
  | lnkMacaddr | lnkEtype | lnkPtpctl | lnkPtptime | lnkPtpstat | lnkGclctl | lnkGclbase | lnkGcl
  | lnkTxbase | lnkTxctl | lnkTxtail | lnkTxhead | lnkFilt | lnkFiltcnt | lnkSecctl | lnkTxsci
  | lnkRxsci | lnkTxpn | lnkKeysel | lnkKeydata | lnkCntsel | lnkCnt | lnkTxsctl | lnkTxsda
  | lnkTxsid | lnkTxsstat | lnkRxsctl | lnkRxsid | lnkRxsdig | lnkRxstime | lnkRxsdest | lnkRxsstat
  | lnkRxscnt | hstPctl | hstPstat | hstObbase | hstDbgbase | hstCfgctl | hstSqbase | hstSqctl
  | hstSqstat | hstCqbase | hstCqctl | hstCqstat | ustPolicy | ustStctl | ustSwap | ustSwapstat
  | ustInvent | ustCalocc | ustRessel | ustResstat | ustResrec | cusMode | cusModectl | cusReady
  | cusCurtpol | cusCalstart | cusStartaddr | cusBootstat | cusBootload | cusTime | cusAlarmctl | cusAlarmstat
  | pwrDomstat | pwrDomctl | pwrRestrain | pwrRstat | pwrVcore | pwrTemp | cfgStatus | cfgCommit
  | cfgDigest | cfgDigstat | cfgStagedig | cfgExpect | cfgDigctl | cfgClamplog | cfgClampcnt | fltStat
  | fltFirst0 | fltFirsta | fltFirstt | fltLost | fltLostcnt | fltMen | fltSen | fltAlarmen
  | fltClass | fltInject
  deriving DecidableEq, Repr

/-- A register or an array of registers: offset within the instance, the two dimensions of the array with their
strides, whether only instance 0 has it, whether it takes 64-bit accesses only, whether only the machine level writes
it (R679), its reset value and its fields. -/
structure RegDef where
  reg : Reg
  off : Nat
  n1 : Nat
  s1 : Nat
  n2 : Nat
  s2 : Nat
  first : Bool
  wide : Bool
  machine : Bool
  reset : Nat
  flds : List Fld
  deriving DecidableEq, Repr

/-- Registers of a ENG block. -/
def engRegs : List RegDef := [
  ⟨.engPlace, 0x100, 1, 0x0, 1, 0x0, false, false, false, 0x0,
    [⟨0, 5, .ro, .any, false⟩, ⟨5, 2, .ro, .any, false⟩, ⟨7, 1, .ro, .any, false⟩,
     ⟨8, 8, .ro, .any, false⟩]⟩,
  ⟨.engRactl, 0x108, 1, 0x0, 1, 0x0, false, false, false, 0x44,
    [⟨0, 3, .rw, (.into 0 4 4), true⟩, ⟨4, 3, .rw, (.into 0 4 4), true⟩]⟩,
  ⟨.engBeat, 0x200, 1, 0x0, 4, 0x8, false, false, false, 0x0,
    [⟨0, 16, .ro, .any, false⟩, ⟨16, 16, .ro, .any, false⟩, ⟨32, 16, .ro, .any, false⟩,
     ⟨48, 1, .ro, .any, false⟩]⟩,
  ⟨.engTpctl, 0x400, 1, 0x0, 1, 0x0, false, false, false, 0x3E80000,
    [⟨0, 1, .rw, .any, true⟩, ⟨4, 4, .rw, .any, true⟩, ⟨16, 17, .rw, (.near 100 100000), true⟩]⟩,
  ⟨.engTpphase, 0x408, 1, 0x0, 1, 0x0, false, false, false, 0x0,
    [⟨0, 17, .rw, (.near 0 99999), true⟩]⟩,
  ⟨.engTpstat, 0x410, 1, 0x0, 1, 0x0, false, false, false, 0x20,
    [⟨0, 4, .ro, .any, false⟩, ⟨4, 1, .ro, .any, false⟩, ⟨5, 1, .ro, .any, false⟩,
     ⟨6, 1, .ro, .any, false⟩, ⟨8, 1, .w1c, .any, false⟩, ⟨16, 16, .w1c, .any, false⟩]⟩,
  ⟨.engTpslot, 0x480, 1, 0x0, 16, 0x8, false, false, false, 0x64,
    [⟨0, 17, .rw, (.near 10 100000), true⟩, ⟨20, 1, .rw, .any, true⟩, ⟨21, 1, .rw, .any, true⟩]⟩,
  ⟨.engPgrant, 0x800, 1, 0x0, 6, 0x20, false, false, false, 0x0,
    [⟨0, 48, .w1c, .any, false⟩]⟩,
  ⟨.engPwait, 0x808, 1, 0x0, 6, 0x20, false, false, false, 0x0,
    [⟨0, 48, .w1c, .any, false⟩]⟩,
  ⟨.engPmax, 0x810, 1, 0x0, 6, 0x20, false, false, false, 0x0,
    [⟨0, 32, .w1c, .any, false⟩]⟩,
  ⟨.engXctl, 0xC00, 2, 0x100, 1, 0x0, false, false, false, 0x0,
    [⟨0, 5, .rw, .any, true⟩, ⟨8, 1, .rw, .any, true⟩]⟩,
  ⟨.engWdog, 0xC08, 2, 0x100, 1, 0x0, false, false, false, 0x0,
    [⟨0, 26, .rw, (.near 0 60000000), true⟩]⟩]

/-- Registers of a ENG block, continued. -/
def engRegs1 : List RegDef := [
  ⟨.engPrbase, 0xC10, 1, 0x0, 1, 0x0, false, false, false, 0x7FFC000,
    [⟨13, 14, .rw, .any, true⟩]⟩,
  ⟨.engPrbase, 0xD10, 1, 0x0, 1, 0x0, false, false, false, 0x7FFE000,
    [⟨13, 14, .rw, .any, true⟩]⟩,
  ⟨.engCpl, 0xC18, 2, 0x100, 1, 0x0, false, false, false, 0x0,
    [⟨0, 16, .ro, .any, false⟩, ⟨16, 8, .ro, .any, false⟩, ⟨24, 5, .ro, .any, false⟩,
     ⟨32, 16, .ro, .any, false⟩]⟩,
  ⟨.engCplerr, 0xC20, 2, 0x100, 1, 0x0, false, true, false, 0x0,
    [⟨0, 16, .rc, .any, false⟩, ⟨16, 8, .rc, .any, false⟩, ⟨24, 5, .rc, .any, false⟩,
     ⟨29, 1, .rc, .any, false⟩, ⟨30, 1, .rc, .any, false⟩]⟩,
  ⟨.engTraprep, 0xC28, 2, 0x100, 1, 0x0, false, true, false, 0x0,
    [⟨0, 16, .rc, .any, false⟩, ⟨16, 5, .rc, .any, false⟩, ⟨21, 1, .rc, .any, false⟩,
     ⟨22, 1, .rc, .any, false⟩, ⟨23, 1, .rc, .any, false⟩]⟩,
  ⟨.engStoprep, 0xC30, 2, 0x100, 1, 0x0, false, false, false, 0x0,
    [⟨0, 16, .ro, .any, false⟩, ⟨16, 4, .ro, .any, false⟩, ⟨20, 1, .ro, .any, false⟩,
     ⟨21, 1, .ro, .any, false⟩, ⟨22, 1, .ro, .any, false⟩]⟩,
  ⟨.engSuspend, 0xC38, 2, 0x100, 1, 0x0, false, false, false, 0x0,
    [⟨0, 1, .wo, .any, false⟩]⟩,
  ⟨.engResume, 0xC40, 2, 0x100, 1, 0x0, false, true, false, 0x0,
    [⟨0, 2, .wo, .any, false⟩, ⟨16, 16, .wo, .any, false⟩]⟩,
  ⟨.engWdstat, 0xC48, 2, 0x100, 1, 0x0, false, false, false, 0x0,
    [⟨0, 26, .ro, .any, false⟩, ⟨32, 26, .w1c, .any, false⟩]⟩,
  ⟨.engPr, 0xC50, 2, 0x100, 8, 0x8, false, false, false, 0x0,
    [⟨0, 64, .ro, .any, false⟩]⟩,
  ⟨.engObase, 0x1000, 2, 0x400, 8, 0x8, false, true, false, 0x0,
    [⟨0, 48, .rw, .any, false⟩]⟩,
  ⟨.engOlen, 0x1040, 2, 0x400, 4, 0x8, false, true, false, 0x0,
    [⟨0, 40, .rw, .any, false⟩]⟩]

/-- Registers of a ENG block, continued. -/
def engRegs2 : List RegDef := [
  ⟨.engOctl, 0x1060, 2, 0x400, 1, 0x0, false, false, false, 0x0,
    [⟨0, 3, .rw, (.into 0 4 0), true⟩]⟩,
  ⟨.engQstat, 0x1068, 2, 0x400, 1, 0x0, false, false, false, 0x0,
    [⟨0, 6, .ro, .any, false⟩, ⟨7, 1, .ro, .any, false⟩, ⟨8, 1, .ro, .any, false⟩,
     ⟨9, 1, .ro, .any, false⟩, ⟨16, 16, .ro, .any, false⟩, ⟨32, 16, .ro, .any, false⟩]⟩,
  ⟨.engReject, 0x1070, 2, 0x400, 1, 0x0, false, true, false, 0x0,
    [⟨0, 4, .rc, .any, false⟩, ⟨8, 8, .rc, .any, false⟩, ⟨16, 16, .rc, .any, false⟩,
     ⟨32, 8, .rc, .any, false⟩, ⟨40, 1, .rc, .any, false⟩, ⟨41, 1, .rc, .any, false⟩]⟩]

/-- Registers of a QAD block. -/
def qadRegs : List RegDef := [
  ⟨.qadEngocc, 0x10, 1, 0x0, 1, 0x0, false, false, false, 0x0,
    [⟨0, 5, .ro, .any, false⟩, ⟨8, 5, .ro, .any, false⟩, ⟨16, 5, .ro, .any, false⟩,
     ⟨24, 5, .ro, .any, false⟩, ⟨32, 5, .ro, .any, false⟩, ⟨5, 1, .ro, .any, false⟩,
     ⟨13, 1, .ro, .any, false⟩, ⟨21, 1, .ro, .any, false⟩, ⟨29, 1, .ro, .any, false⟩,
     ⟨37, 1, .ro, .any, false⟩, ⟨6, 1, .ro, .any, false⟩, ⟨14, 1, .ro, .any, false⟩,
     ⟨22, 1, .ro, .any, false⟩, ⟨30, 1, .ro, .any, false⟩, ⟨38, 1, .ro, .any, false⟩,
     ⟨7, 1, .ro, .any, false⟩, ⟨15, 1, .ro, .any, false⟩, ⟨23, 1, .ro, .any, false⟩,
     ⟨31, 1, .ro, .any, false⟩, ⟨39, 1, .ro, .any, false⟩]⟩,
  ⟨.qadCalocc, 0x18, 1, 0x0, 1, 0x0, false, false, false, 0x0,
    [⟨0, 4, .ro, .any, false⟩, ⟨8, 4, .ro, .any, false⟩, ⟨4, 1, .ro, .any, false⟩,
     ⟨12, 1, .ro, .any, false⟩, ⟨5, 1, .ro, .any, false⟩, ⟨13, 1, .ro, .any, false⟩]⟩,
  ⟨.qadSpares, 0x20, 1, 0x0, 1, 0x0, false, false, false, 0x0,
    [⟨0, 5, .ro, .any, false⟩, ⟨8, 1, .ro, .any, false⟩]⟩,
  ⟨.qadBeat, 0x28, 1, 0x0, 1, 0x0, false, false, false, 0x0,
    [⟨0, 16, .ro, .any, false⟩, ⟨16, 3, .ro, .any, false⟩, ⟨19, 2, .ro, .any, false⟩]⟩]

/-- Registers of a HBC block. -/
def hbcRegs : List RegDef := [
  ⟨.hbcTemp, 0x10, 1, 0x0, 1, 0x0, false, false, false, 0xA00,
    [⟨0, 9, .ro, .any, false⟩, ⟨9, 3, .ro, .any, false⟩, ⟨12, 1, .ro, .any, false⟩,
     ⟨13, 1, .ro, .any, false⟩, ⟨14, 1, .ro, .any, false⟩, ⟨16, 14, .ro, .any, false⟩]⟩,
  ⟨.hbcScrub, 0x18, 1, 0x0, 1, 0x0, false, false, false, 0x18,
    [⟨0, 8, .rw, (.near 1 168), false⟩, ⟨32, 32, .ro, .any, false⟩]⟩,
  ⟨.hbcCecnt, 0x20, 1, 0x0, 1, 0x0, false, false, false, 0x0,
    [⟨0, 32, .w1c, .any, false⟩, ⟨32, 32, .w1c, .any, false⟩]⟩,
  ⟨.hbcUecnt, 0x28, 1, 0x0, 1, 0x0, false, false, false, 0x0,
    [⟨0, 32, .w1c, .any, false⟩]⟩,
  ⟨.hbcPprctl, 0x30, 1, 0x0, 1, 0x0, false, false, false, 0x0,
    [⟨0, 1, .rw, .any, false⟩]⟩,
  ⟨.hbcPprstat, 0x38, 1, 0x0, 1, 0x0, false, false, false, 0x0,
    [⟨0, 16, .ro, .any, false⟩, ⟨16, 16, .ro, .any, false⟩, ⟨32, 16, .ro, .any, false⟩]⟩,
  ⟨.hbcRetsel, 0x40, 1, 0x0, 1, 0x0, false, false, false, 0x0,
    [⟨0, 12, .rw, .any, false⟩]⟩,
  ⟨.hbcRetent, 0x48, 1, 0x0, 1, 0x0, false, true, true, 0x0,
    [⟨0, 2, .rw, .any, false⟩, ⟨12, 36, .rw, .any, false⟩]⟩,
  ⟨.hbcRetstat, 0x50, 1, 0x0, 1, 0x0, false, false, false, 0x0,
    [⟨0, 13, .ro, .any, false⟩, ⟨16, 13, .ro, .any, false⟩]⟩]

/-- Registers of a REP block. -/
def repRegs : List RegDef := [
  ⟨.repCstat, 0x10, 1, 0x0, 1, 0x0, false, false, false, 0x0,
    [⟨0, 3, .ro, .any, false⟩, ⟨3, 1, .ro, .any, false⟩, ⟨4, 1, .ro, .any, false⟩,
     ⟨16, 16, .ro, .any, false⟩]⟩,
  ⟨.repCcount, 0x18, 1, 0x0, 1, 0x0, false, false, false, 0x0,
    [⟨0, 48, .w1c, .any, false⟩, ⟨48, 16, .w1c, .any, false⟩]⟩,
  ⟨.repMmrep0, 0x20, 1, 0x0, 1, 0x0, false, true, false, 0x0,
    [⟨0, 16, .rc, .any, false⟩, ⟨16, 4, .rc, .any, false⟩, ⟨20, 1, .rc, .any, false⟩,
     ⟨21, 1, .rc, .any, false⟩, ⟨22, 1, .rc, .any, false⟩, ⟨23, 1, .rc, .any, false⟩]⟩,
  ⟨.repMmrep1, 0x28, 1, 0x0, 1, 0x0, false, false, false, 0x0,
    [⟨0, 40, .ro, .any, false⟩]⟩,
  ⟨.repMmsigp, 0x30, 1, 0x0, 1, 0x0, false, true, false, 0x0,
    [⟨0, 64, .ro, .any, false⟩]⟩,
  ⟨.repMmsigr, 0x38, 1, 0x0, 1, 0x0, false, true, false, 0x0,
    [⟨0, 64, .ro, .any, false⟩]⟩,
  ⟨.repEncrep, 0x40, 1, 0x0, 1, 0x0, false, false, false, 0x0,
    [⟨0, 16, .ro, .any, false⟩, ⟨16, 4, .ro, .any, false⟩, ⟨20, 5, .ro, .any, false⟩]⟩,
  ⟨.repProofrep, 0x48, 1, 0x0, 1, 0x0, false, false, false, 0x0,
    [⟨0, 12, .ro, .any, false⟩, ⟨12, 12, .ro, .any, false⟩, ⟨24, 1, .ro, .any, false⟩,
     ⟨25, 1, .ro, .any, false⟩, ⟨26, 5, .ro, .any, false⟩, ⟨31, 6, .ro, .any, false⟩]⟩,
  ⟨.repMode, 0x100, 1, 0x0, 1, 0x0, true, false, false, 0x0,
    [⟨0, 1, .rw, .any, true⟩, ⟨1, 1, .rw, .vpair, true⟩]⟩,
  ⟨.repMstat, 0x108, 1, 0x0, 1, 0x0, true, false, false, 0x0,
    [⟨0, 1, .ro, .any, false⟩, ⟨1, 1, .ro, .any, false⟩, ⟨2, 1, .ro, .any, false⟩,
     ⟨3, 16, .ro, .any, false⟩, ⟨19, 1, .ro, .any, false⟩]⟩,
  ⟨.repTctl, 0x110, 1, 0x0, 1, 0x0, true, false, false, 0xD3C,
    [⟨0, 6, .rwl, .kscale, true⟩, ⟨8, 5, .rwl, .rot, true⟩]⟩,
  ⟨.repPctl, 0x118, 1, 0x0, 1, 0x0, true, false, false, 0x40000003E8,
    [⟨0, 16, .rw, (.near 1 60000), true⟩, ⟨16, 1, .rw, .any, true⟩, ⟨32, 16, .rw, .any, true⟩]⟩]

/-- Registers of a REP block, continued. -/
def repRegs1 : List RegDef := [
  ⟨.repLatch, 0x120, 1, 0x0, 1, 0x0, true, false, false, 0x0,
    [⟨0, 1, .w1c, .any, false⟩, ⟨1, 1, .w1c, .any, false⟩, ⟨16, 16, .w1c, .any, false⟩,
     ⟨32, 16, .w1c, .any, false⟩]⟩,
  ⟨.repPlain, 0x128, 1, 0x0, 2, 0x8, true, false, false, 0x0,
    [⟨0, 48, .w1c, .any, false⟩]⟩,
  ⟨.repFrclose, 0x140, 1, 0x0, 1, 0x0, true, false, false, 0x0,
    [⟨0, 4, .wo, .any, false⟩, ⟨4, 1, .wo, .any, false⟩]⟩,
  ⟨.repFrcfg, 0x200, 1, 0x0, 16, 0x10, true, false, false, 0x0,
    [⟨12, 15, .rw, .any, true⟩, ⟨28, 4, .rw, (.near 0 8), true⟩, ⟨32, 1, .rw, .any, true⟩,
     ⟨33, 1, .rw, .any, true⟩, ⟨34, 1, .rw, .any, true⟩, ⟨35, 1, .rw, .any, true⟩,
     ⟨36, 8, .rw, .any, true⟩]⟩,
  ⟨.repFrstat, 0x208, 1, 0x0, 16, 0x10, true, false, false, 0x0,
    [⟨0, 32, .ro, .any, false⟩, ⟨32, 1, .ro, .any, false⟩, ⟨33, 1, .ro, .any, false⟩,
     ⟨34, 1, .ro, .any, false⟩, ⟨35, 11, .ro, .any, false⟩, ⟨48, 16, .ro, .any, false⟩]⟩]

/-- Registers of a CAL block. -/
def calRegs : List RegDef := [
  ⟨.calPlace, 0x10, 1, 0x0, 1, 0x0, false, false, false, 0x0,
    [⟨0, 4, .ro, .any, false⟩, ⟨4, 3, .ro, .any, false⟩, ⟨7, 1, .ro, .any, false⟩,
     ⟨8, 8, .ro, .any, false⟩]⟩,
  ⟨.calBeat, 0x18, 1, 0x0, 1, 0x0, false, false, false, 0x0,
    [⟨0, 16, .ro, .any, false⟩, ⟨16, 16, .ro, .any, false⟩, ⟨32, 16, .ro, .any, false⟩,
     ⟨48, 1, .ro, .any, false⟩]⟩,
  ⟨.calWsbase, 0x20, 1, 0x0, 1, 0x0, false, false, true, 0x0,
    [⟨7, 41, .rw, .any, true⟩]⟩,
  ⟨.calWslim, 0x28, 1, 0x0, 1, 0x0, false, false, true, 0x0,
    [⟨7, 41, .rw, .any, true⟩]⟩,
  ⟨.calWsctl, 0x30, 1, 0x0, 1, 0x0, false, false, true, 0x12,
    [⟨0, 3, .rw, (.near 1 7), true⟩, ⟨4, 3, .rw, (.near 0 4), true⟩]⟩,
  ⟨.calCache, 0x38, 1, 0x0, 1, 0x0, false, false, true, 0x0,
    [⟨0, 1, .rw, .any, true⟩, ⟨1, 1, .rw, .any, true⟩]⟩,
  ⟨.calRetired, 0x40, 1, 0x0, 1, 0x0, false, false, false, 0x0,
    [⟨0, 48, .w1c, .any, false⟩]⟩,
  ⟨.calSpills, 0x48, 1, 0x0, 1, 0x0, false, false, false, 0x0,
    [⟨0, 32, .w1c, .any, false⟩, ⟨32, 32, .w1c, .any, false⟩]⟩,
  ⟨.calWorld, 0x100, 1, 0x0, 1, 0x0, false, false, false, 0x0,
    [⟨0, 1, .rw, .any, false⟩, ⟨1, 1, .ro, .any, false⟩]⟩,
  ⟨.calRestart, 0x108, 1, 0x0, 1, 0x0, false, false, false, 0x0,
    [⟨0, 1, .wo, .any, false⟩, ⟨2, 46, .wo, .any, false⟩]⟩,
  ⟨.calHoldrep, 0x110, 1, 0x0, 1, 0x0, false, false, false, 0x0,
    [⟨0, 6, .ro, .any, false⟩, ⟨7, 1, .ro, .any, false⟩, ⟨16, 48, .ro, .any, false⟩]⟩,
  ⟨.calExccnt, 0x118, 1, 0x0, 1, 0x0, false, false, false, 0x0,
    [⟨0, 32, .w1c, .any, false⟩, ⟨32, 16, .w1c, .any, false⟩, ⟨48, 16, .w1c, .any, false⟩]⟩]

/-- Registers of a CAL block, continued. -/
def calRegs1 : List RegDef := [
  ⟨.calEntrylat, 0x120, 1, 0x0, 1, 0x0, false, false, false, 0x0,
    [⟨0, 8, .ro, .any, false⟩, ⟨8, 8, .w1c, .any, false⟩]⟩]

/-- Registers of a SCP block. -/
def scpRegs : List RegDef := [
  ⟨.scpScrub, 0x10, 1, 0x0, 1, 0x0, false, false, false, 0x3E8,
    [⟨0, 16, .rw, (.near 10 60000), false⟩]⟩,
  ⟨.scpCecnt, 0x18, 1, 0x0, 1, 0x0, false, false, false, 0x0,
    [⟨0, 48, .w1c, .any, false⟩]⟩,
  ⟨.scpUecnt, 0x20, 1, 0x0, 1, 0x0, false, false, false, 0x0,
    [⟨0, 32, .w1c, .any, false⟩]⟩,
  ⟨.scpBanksel, 0x30, 1, 0x0, 1, 0x0, false, false, false, 0x0,
    [⟨0, 11, .rw, .any, false⟩]⟩,
  ⟨.scpBankmap, 0x38, 1, 0x0, 1, 0x0, false, false, false, 0x0,
    [⟨0, 12, .ro, .any, false⟩, ⟨12, 1, .ro, .any, false⟩, ⟨13, 1, .ro, .any, false⟩,
     ⟨14, 1, .ro, .any, false⟩]⟩,
  ⟨.scpSwap, 0x40, 1, 0x0, 1, 0x0, false, false, false, 0x0,
    [⟨0, 11, .wo, .any, false⟩, ⟨16, 1, .wo, .any, false⟩]⟩,
  ⟨.scpRlyctl, 0x4000, 1, 0x0, 64, 0x20, false, false, false, 0x0,
    [⟨12, 15, .rw, .any, true⟩, ⟨28, 4, .rw, (.near 0 8), true⟩, ⟨32, 1, .rw, .any, true⟩,
     ⟨33, 3, .rw, (.into 0 3 0), true⟩, ⟨36, 6, .rw, .any, true⟩, ⟨63, 1, .rw, .any, true⟩]⟩,
  ⟨.scpRlystat, 0x4008, 1, 0x0, 64, 0x20, false, false, false, 0x0,
    [⟨0, 13, .ro, .any, false⟩, ⟨16, 13, .ro, .any, false⟩, ⟨32, 1, .ro, .any, false⟩,
     ⟨33, 1, .ro, .any, false⟩, ⟨36, 4, .ro, .any, false⟩, ⟨40, 4, .ro, .any, false⟩,
     ⟨44, 1, .ro, .any, false⟩]⟩,
  ⟨.scpRlyflush, 0x4800, 1, 0x0, 1, 0x0, false, false, false, 0x0,
    [⟨0, 6, .wo, .any, false⟩]⟩]

/-- Registers of a MTX block. -/
def mtxRegs : List RegDef := [
  ⟨.mtxRemap, 0x10, 1, 0x0, 1, 0x0, false, false, true, 0x0,
    [⟨0, 1, .rw, .any, true⟩, ⟨1, 2, .rw, (.into 0 2 0), true⟩]⟩,
  ⟨.mtxZbase, 0x18, 1, 0x0, 1, 0x0, false, false, true, 0x40000000,
    [⟨18, 30, .rw, .zbase, true⟩]⟩,
  ⟨.mtxHbmsplit, 0x20, 1, 0x0, 1, 0x0, false, false, true, 0x0,
    [⟨0, 6, .rwl, (.near 0 36), true⟩]⟩,
  ⟨.mtxCntsel, 0x200, 1, 0x0, 3, 0x40, false, false, false, 0x0,
    [⟨0, 2, .rw, .any, false⟩, ⟨4, 12, .rw, .any, false⟩, ⟨16, 8, .rw, .any, false⟩]⟩,
  ⟨.mtxCntgrant, 0x208, 1, 0x0, 3, 0x40, false, false, false, 0x0,
    [⟨0, 48, .w1c, .any, false⟩]⟩,
  ⟨.mtxCntwait, 0x210, 1, 0x0, 3, 0x40, false, false, false, 0x0,
    [⟨0, 48, .w1c, .any, false⟩]⟩,
  ⟨.mtxCntmax, 0x218, 1, 0x0, 3, 0x40, false, false, false, 0x0,
    [⟨0, 32, .w1c, .any, false⟩]⟩,
  ⟨.mtxWbase, 0x1000, 2, 0x400, 16, 0x20, false, false, true, 0x0,
    [⟨12, 36, .rw, .any, true⟩]⟩,
  ⟨.mtxWlim, 0x1008, 2, 0x400, 16, 0x20, false, false, true, 0x0,
    [⟨12, 36, .rw, .any, true⟩]⟩,
  ⟨.mtxWattr, 0x1010, 1, 0x0, 16, 0x20, false, false, true, 0x0,
    [⟨0, 1, .rw, .any, true⟩, ⟨1, 1, .rw, .any, true⟩, ⟨2, 1, .rw, .any, true⟩, ⟨3, 1, .rw, .any, true⟩,
     ⟨4, 1, .rw, .any, true⟩, ⟨5, 1, .rw, .any, true⟩, ⟨8, 3, .rw, .intlv, true⟩,
     ⟨12, 1, .ro, .any, true⟩]⟩,
  ⟨.mtxWattr, 0x1410, 1, 0x0, 16, 0x20, false, false, true, 0x1000,
    [⟨0, 1, .rw, .any, true⟩, ⟨1, 1, .rw, .any, true⟩, ⟨2, 1, .rw, .any, true⟩, ⟨3, 1, .rw, .any, true⟩,
     ⟨4, 1, .rw, .any, true⟩, ⟨5, 1, .rw, .any, true⟩, ⟨8, 3, .rw, .intlv, true⟩,
     ⟨12, 1, .ro, .any, true⟩]⟩]

/-- Registers of a CUE block. -/
def cueRegs : List RegDef := [
  ⟨.cueFires, 0x10, 1, 0x0, 2, 0x8, false, false, false, 0x0,
    [⟨0, 8, .wo, .any, false⟩, ⟨8, 1, .wo, .any, false⟩]⟩,
  ⟨.cueRatectl, 0x20, 1, 0x0, 1, 0x0, false, false, false, 0x3E8,
    [⟨0, 20, .rw, (.near 10 1000000), true⟩]⟩,
  ⟨.cueGrpen, 0x28, 1, 0x0, 1, 0x0, false, false, false, 0xFFFFFFFF,
    [⟨0, 32, .ro, .any, false⟩]⟩,
  ⟨.cueGrpset, 0x30, 1, 0x0, 1, 0x0, false, false, false, 0x0,
    [⟨0, 32, .wo, .any, false⟩]⟩,
  ⟨.cueGrpclr, 0x38, 1, 0x0, 1, 0x0, false, false, false, 0x0,
    [⟨0, 32, .wo, .any, false⟩]⟩,
  ⟨.cueGrpctl, 0x100, 1, 0x0, 32, 0x8, false, false, false, 0x0,
    [⟨0, 8, .rw, .any, true⟩, ⟨8, 1, .rw, .any, true⟩, ⟨16, 8, .rw, .any, true⟩, ⟨24, 1, .rw, .any, true⟩]⟩,
  ⟨.cueChcfg, 0x1000, 1, 0x0, 256, 0x10, false, false, false, 0x100,
    [⟨0, 20, .rw, .space, true⟩, ⟨20, 1, .rw, .any, true⟩, ⟨21, 1, .rw, .any, true⟩,
     ⟨32, 16, .rw, .any, true⟩, ⟨48, 1, .rw, .any, true⟩]⟩,
  ⟨.cueChstat, 0x1008, 1, 0x0, 256, 0x10, false, false, false, 0x0,
    [⟨0, 32, .ro, .any, false⟩, ⟨32, 16, .w1c, .any, false⟩, ⟨48, 1, .w1c, .any, false⟩]⟩,
  ⟨.cuePincfg, 0x2000, 1, 0x0, 16, 0x10, false, false, false, 0xF424000000000,
    [⟨0, 1, .rw, .any, true⟩, ⟨1, 1, .rw, .any, true⟩, ⟨2, 1, .rw, .any, true⟩,
     ⟨32, 32, .rw, (.near 1 3600000000), true⟩]⟩,
  ⟨.cuePinstat, 0x2008, 1, 0x0, 16, 0x10, false, false, false, 0x0,
    [⟨0, 1, .ro, .any, false⟩, ⟨1, 1, .w1c, .any, false⟩, ⟨16, 32, .ro, .any, false⟩]⟩,
  ⟨.cueOutcfg, 0x2100, 1, 0x0, 16, 0x10, false, false, false, 0x400000,
    [⟨0, 1, .rw, .any, true⟩, ⟨1, 2, .rw, (.into 0 2 0), true⟩, ⟨3, 1, .rw, .any, true⟩,
     ⟨4, 1, .rw, .any, false⟩, ⟨8, 8, .rw, .any, true⟩, ⟨16, 16, .rw, (.near 64 65535), true⟩]⟩,
  ⟨.cueOutstat, 0x2108, 1, 0x0, 16, 0x10, false, false, false, 0x0,
    [⟨0, 1, .ro, .any, false⟩, ⟨16, 32, .ro, .any, false⟩]⟩]

/-- Registers of a CUE block, continued. -/
def cueRegs1 : List RegDef := [
  ⟨.cueTimer, 0x2200, 1, 0x0, 8, 0x10, false, false, false, 0x3E800000000,
    [⟨0, 1, .rw, .any, true⟩, ⟨32, 32, .rw, (.near 10 100000000), true⟩]⟩,
  ⟨.cueTphase, 0x2208, 1, 0x0, 8, 0x10, false, false, false, 0x0,
    [⟨0, 27, .rw, (.near 0 99999999), true⟩]⟩,
  ⟨.cueFeed, 0x2300, 1, 0x0, 8, 0x10, false, false, false, 0x400000,
    [⟨0, 1, .rw, .any, true⟩, ⟨1, 1, .rw, .any, true⟩, ⟨4, 4, .rw, .any, true⟩, ⟨8, 8, .rw, .any, true⟩,
     ⟨16, 16, .rw, (.align 4 64), true⟩]⟩,
  ⟨.cueFeedstat, 0x2308, 1, 0x0, 8, 0x10, false, false, false, 0x0,
    [⟨0, 32, .ro, .any, false⟩]⟩,
  ⟨.cueMiss, 0x3000, 1, 0x0, 256, 0x8, false, false, false, 0x0,
    [⟨0, 32, .w1c, .any, false⟩]⟩]

/-- Registers of a IDS block. -/
def idsRegs : List RegDef := [
  ⟨.idsEoi, 0x10, 1, 0x0, 1, 0x0, false, false, false, 0x0,
    [⟨0, 9, .wo, .any, false⟩]⟩,
  ⟨.idsCalctl, 0x100, 1, 0x0, 10, 0x8, false, false, false, 0x0,
    [⟨0, 1, .rw, .any, true⟩, ⟨8, 5, .rw, (.near 0 16), true⟩]⟩,
  ⟨.idsCalstat, 0x180, 1, 0x0, 10, 0x8, false, false, false, 0x0,
    [⟨0, 1, .ro, .any, false⟩, ⟨1, 1, .ro, .any, false⟩, ⟨2, 1, .ro, .any, false⟩,
     ⟨8, 8, .ro, .any, false⟩, ⟨16, 9, .ro, .any, false⟩]⟩,
  ⟨.idsSrccfg, 0x1000, 1, 0x0, 512, 0x10, false, false, false, 0x0,
    [⟨0, 1, .rw, .any, true⟩, ⟨1, 1, .rw, .any, true⟩, ⟨2, 1, .rw, .any, true⟩, ⟨3, 1, .rw, .any, true⟩,
     ⟨4, 4, .rw, .any, true⟩, ⟨16, 10, .rw, .any, true⟩]⟩,
  ⟨.idsSrcstat, 0x1008, 1, 0x0, 512, 0x10, false, false, false, 0x0,
    [⟨0, 1, .w1s, .any, false⟩, ⟨1, 1, .ro, .any, false⟩, ⟨2, 1, .w1c, .any, false⟩,
     ⟨8, 8, .ro, .any, false⟩, ⟨16, 4, .ro, .any, false⟩]⟩]

/-- Registers of a SEA block. -/
def seaRegs : List RegDef := [
  ⟨.seaCtl, 0x10, 1, 0x0, 1, 0x0, false, false, false, 0x2,
    [⟨0, 2, .rw, .any, true⟩, ⟨2, 1, .rw, .any, true⟩, ⟨3, 1, .rw, .any, true⟩, ⟨4, 1, .rw, .any, true⟩,
     ⟨8, 4, .rw, (.near 0 12), true⟩]⟩,
  ⟨.seaInit, 0x18, 1, 0x0, 1, 0x0, false, true, false, 0xFFFFFFFF,
    [⟨0, 64, .rw, .any, true⟩]⟩,
  ⟨.seaFeedb, 0x20, 1, 0x0, 1, 0x0, false, false, false, 0x0,
    [⟨0, 8, .wo, .any, false⟩]⟩,
  ⟨.seaFeedh, 0x28, 1, 0x0, 1, 0x0, false, false, false, 0x0,
    [⟨0, 16, .wo, .any, false⟩]⟩,
  ⟨.seaFeedw, 0x30, 1, 0x0, 1, 0x0, false, false, false, 0x0,
    [⟨0, 32, .wo, .any, false⟩]⟩,
  ⟨.seaClose, 0x38, 1, 0x0, 1, 0x0, false, false, false, 0x0,
    [⟨0, 1, .wo, .any, false⟩]⟩,
  ⟨.seaScanaddr, 0x40, 1, 0x0, 1, 0x0, false, false, false, 0x0,
    [⟨0, 48, .rw, .any, false⟩]⟩,
  ⟨.seaScanlen, 0x48, 1, 0x0, 1, 0x0, false, false, false, 0x0,
    [⟨0, 40, .wo, .any, false⟩, ⟨40, 1, .wo, .any, false⟩]⟩,
  ⟨.seaAlive, 0x50, 1, 0x0, 1, 0x0, false, false, false, 0x0,
    [⟨0, 32, .rw, .any, false⟩]⟩,
  ⟨.seaChkval, 0x58, 1, 0x0, 1, 0x0, false, true, false, 0x0,
    [⟨0, 64, .rw, .any, false⟩]⟩,
  ⟨.seaChkalive, 0x60, 1, 0x0, 1, 0x0, false, false, false, 0x0,
    [⟨0, 32, .rw, .any, false⟩]⟩,
  ⟨.seaResult, 0x68, 1, 0x0, 1, 0x0, false, true, false, 0x0,
    [⟨0, 64, .ro, .any, false⟩]⟩]

/-- Registers of a SEA block, continued. -/
def seaRegs1 : List RegDef := [
  ⟨.seaStat, 0x70, 1, 0x0, 1, 0x0, false, false, false, 0x0,
    [⟨0, 1, .ro, .any, false⟩, ⟨1, 1, .ro, .any, false⟩, ⟨2, 1, .ro, .any, false⟩,
     ⟨3, 2, .ro, .any, false⟩, ⟨5, 1, .w1c, .any, false⟩, ⟨6, 2, .ro, .any, false⟩,
     ⟨8, 16, .ro, .any, false⟩, ⟨24, 40, .ro, .any, false⟩]⟩,
  ⟨.seaResaddr, 0x78, 1, 0x0, 1, 0x0, false, false, false, 0x0,
    [⟨4, 44, .rw, .any, true⟩]⟩,
  ⟨.seaPlace, 0x80, 1, 0x0, 1, 0x0, false, false, false, 0x0,
    [⟨0, 3, .ro, .any, false⟩, ⟨8, 8, .ro, .any, false⟩]⟩]

/-- Registers of a ARC block. -/
def arcRegs : List RegDef := [
  ⟨.arcCtl, 0x10, 1, 0x0, 1, 0x0, false, false, false, 0x8064320A,
    [⟨0, 5, .rwl, (.near 10 28), true⟩, ⟨8, 7, .rwl, (.near 1 99), true⟩,
     ⟨16, 14, .rw, (.near 10 10000), true⟩, ⟨30, 1, .rw, .any, true⟩, ⟨31, 1, .rw, .any, true⟩,
     ⟨32, 8, .rw, .any, true⟩, ⟨40, 1, .rw, .any, true⟩]⟩,
  ⟨.arcGeom, 0x18, 1, 0x0, 1, 0x0, false, false, false, 0x0,
    [⟨0, 7, .ro, .any, false⟩, ⟨7, 1, .ro, .any, false⟩, ⟨8, 12, .ro, .any, false⟩,
     ⟨20, 3, .ro, .any, false⟩, ⟨23, 3, .ro, .any, false⟩, ⟨32, 16, .ro, .any, false⟩]⟩,
  ⟨.arcTgtsel, 0x20, 1, 0x0, 1, 0x0, false, false, false, 0x0,
    [⟨0, 6, .rw, .any, false⟩]⟩,
  ⟨.arcTgtstat, 0x28, 1, 0x0, 1, 0x0, false, false, false, 0x0,
    [⟨0, 1, .ro, .any, false⟩, ⟨1, 1, .ro, .any, false⟩, ⟨16, 16, .ro, .any, false⟩,
     ⟨32, 16, .ro, .any, false⟩, ⟨48, 16, .ro, .any, false⟩]⟩,
  ⟨.arcMedia, 0x30, 1, 0x0, 1, 0x0, false, false, false, 0x223801000064,
    [⟨0, 16, .rw, (.near 1 1000), true⟩, ⟨16, 16, .rw, (.near 16 4096), true⟩,
     ⟨32, 16, .rw, (.near 24 65535), true⟩]⟩,
  ⟨.arcWaitlim, 0x38, 1, 0x0, 1, 0x0, false, false, false, 0x2710,
    [⟨0, 20, .rw, (.near 100 1000000), true⟩]⟩,
  ⟨.arcSpace, 0x40, 2, 0x8, 1, 0x0, false, false, false, 0x0,
    [⟨0, 48, .ro, .any, false⟩, ⟨48, 16, .ro, .any, false⟩]⟩,
  ⟨.arcCommit, 0x50, 2, 0x8, 1, 0x0, false, false, false, 0x0,
    [⟨0, 47, .ro, .any, false⟩, ⟨47, 1, .ro, .any, false⟩, ⟨48, 5, .ro, .any, false⟩]⟩,
  ⟨.arcRelease, 0x60, 2, 0x8, 1, 0x0, false, false, false, 0x0,
    [⟨0, 47, .rw, .any, false⟩]⟩,
  ⟨.arcAudfrom, 0x70, 1, 0x0, 1, 0x0, false, false, false, 0x0,
    [⟨0, 64, .rw, .any, false⟩]⟩,
  ⟨.arcAudit, 0x78, 1, 0x0, 1, 0x0, false, false, false, 0x0,
    [⟨0, 32, .wo, .any, false⟩, ⟨32, 3, .wo, .any, false⟩, ⟨40, 1, .wo, .any, false⟩]⟩,
  ⟨.arcAudstat, 0x80, 1, 0x0, 1, 0x0, false, false, false, 0x0,
    [⟨0, 32, .ro, .any, false⟩, ⟨32, 1, .ro, .any, false⟩, ⟨48, 16, .ro, .any, false⟩]⟩]

/-- Registers of a ARC block, continued. -/
def arcRegs1 : List RegDef := [
  ⟨.arcRetry, 0x88, 1, 0x0, 1, 0x0, false, false, false, 0x0,
    [⟨0, 16, .w1c, .any, false⟩, ⟨16, 16, .w1c, .any, false⟩, ⟨32, 16, .w1c, .any, false⟩]⟩,
  ⟨.arcThru, 0x90, 1, 0x0, 1, 0x0, false, false, false, 0x0,
    [⟨0, 32, .ro, .any, false⟩, ⟨32, 10, .ro, .any, false⟩]⟩,
  ⟨.arcRecov, 0x98, 1, 0x0, 1, 0x0, false, false, false, 0x0,
    [⟨0, 1, .ro, .any, false⟩, ⟨1, 1, .ro, .any, false⟩, ⟨16, 16, .ro, .any, false⟩,
     ⟨32, 16, .ro, .any, false⟩, ⟨48, 16, .ro, .any, false⟩]⟩,
  ⟨.arcBootsrc, 0xA0, 1, 0x0, 1, 0x0, false, false, true, 0x0,
    [⟨0, 48, .rw, .any, false⟩]⟩,
  ⟨.arcBootctl, 0xA8, 1, 0x0, 1, 0x0, false, false, true, 0x0,
    [⟨0, 23, .wo, .any, false⟩, ⟨23, 1, .wo, .any, false⟩, ⟨24, 1, .wo, .any, false⟩,
     ⟨25, 1, .ro, .any, false⟩, ⟨26, 1, .ro, .any, false⟩]⟩]

/-- Registers of a LNK block. -/
def lnkRegs : List RegDef := [
  ⟨.lnkPctl, 0x10, 1, 0x0, 1, 0x0, false, false, false, 0x2C,
    [⟨0, 1, .rw, .any, true⟩, ⟨1, 2, .rw, (.into 0 2 2), true⟩, ⟨3, 1, .rw, .any, true⟩,
     ⟨4, 2, .rw, (.into 0 2 0), true⟩]⟩,
  ⟨.lnkPstat, 0x18, 1, 0x0, 1, 0x0, false, false, false, 0x0,
    [⟨0, 1, .ro, .any, false⟩, ⟨1, 2, .ro, .any, false⟩, ⟨3, 2, .ro, .any, false⟩,
     ⟨5, 1, .ro, .any, false⟩]⟩,
  ⟨.lnkMacaddr, 0x20, 1, 0x0, 1, 0x0, false, false, false, 0x0,
    [⟨0, 48, .rw, .any, false⟩]⟩,
  ⟨.lnkEtype, 0x28, 1, 0x0, 1, 0x0, false, false, false, 0x88B5,
    [⟨0, 16, .rw, .any, true⟩]⟩,
  ⟨.lnkPtpctl, 0x30, 1, 0x0, 1, 0x0, false, false, false, 0x3E800000000,
    [⟨0, 1, .rw, .any, true⟩, ⟨8, 8, .rw, .any, true⟩, ⟨32, 16, .rw, (.near 10 65535), true⟩]⟩,
  ⟨.lnkPtptime, 0x38, 1, 0x0, 1, 0x0, false, true, false, 0x0,
    [⟨0, 64, .ro, .any, false⟩]⟩,
  ⟨.lnkPtpstat, 0x40, 1, 0x0, 1, 0x0, false, false, false, 0x0,
    [⟨0, 1, .ro, .any, false⟩, ⟨32, 32, .ro, .any, false⟩]⟩,
  ⟨.lnkGclctl, 0x48, 1, 0x0, 1, 0x0, false, false, false, 0xF424000,
    [⟨0, 1, .rw, .any, true⟩, ⟨2, 6, .rw, .any, true⟩, ⟨8, 32, .rw, (.near 1000 1000000000), true⟩]⟩,
  ⟨.lnkGclbase, 0x50, 1, 0x0, 1, 0x0, false, true, false, 0x0,
    [⟨0, 64, .rw, .any, true⟩]⟩,
  ⟨.lnkGcl, 0x100, 1, 0x0, 64, 0x8, false, false, false, 0x3E8FF,
    [⟨0, 8, .rw, .any, true⟩, ⟨8, 32, .rw, (.near 100 1000000000), true⟩]⟩,
  ⟨.lnkTxbase, 0x300, 2, 0x20, 1, 0x0, false, false, false, 0x0,
    [⟨6, 42, .rw, .any, false⟩]⟩,
  ⟨.lnkTxctl, 0x308, 2, 0x20, 1, 0x0, false, false, false, 0x0,
    [⟨0, 1, .rw, .any, false⟩, ⟨1, 4, .rw, (.near 0 12), false⟩, ⟨5, 1, .rw, .any, false⟩,
     ⟨8, 8, .rw, .any, false⟩]⟩]

/-- Registers of a LNK block, continued. -/
def lnkRegs1 : List RegDef := [
  ⟨.lnkTxtail, 0x310, 2, 0x20, 1, 0x0, false, false, false, 0x0,
    [⟨0, 16, .rw, .any, false⟩]⟩,
  ⟨.lnkTxhead, 0x318, 2, 0x20, 1, 0x0, false, false, false, 0x0,
    [⟨0, 16, .ro, .any, false⟩]⟩,
  ⟨.lnkFilt, 0x400, 1, 0x0, 16, 0x10, false, false, false, 0x1000000FA00000,
    [⟨0, 1, .rw, .any, true⟩, ⟨1, 12, .rw, .any, true⟩, ⟨13, 3, .rw, .any, true⟩,
     ⟨16, 1, .rw, .any, true⟩, ⟨17, 11, .rw, (.near 64 2000), true⟩, ⟨32, 16, .rw, .any, true⟩,
     ⟨48, 16, .rw, (.near 1 65535), true⟩]⟩,
  ⟨.lnkFiltcnt, 0x408, 1, 0x0, 16, 0x10, false, false, false, 0x0,
    [⟨0, 32, .w1c, .any, false⟩, ⟨32, 16, .w1c, .any, false⟩]⟩,
  ⟨.lnkSecctl, 0x600, 1, 0x0, 1, 0x0, false, false, false, 0x0,
    [⟨0, 1, .rw, .any, true⟩, ⟨1, 1, .rw, .any, true⟩, ⟨2, 2, .rw, .any, true⟩, ⟨4, 1, .rw, .any, true⟩,
     ⟨32, 32, .rw, .any, true⟩]⟩,
  ⟨.lnkTxsci, 0x608, 1, 0x0, 1, 0x0, false, false, false, 0x0,
    [⟨0, 64, .rw, .any, true⟩]⟩,
  ⟨.lnkRxsci, 0x610, 1, 0x0, 1, 0x0, false, false, false, 0x0,
    [⟨0, 64, .rw, .any, true⟩]⟩,
  ⟨.lnkTxpn, 0x618, 1, 0x0, 1, 0x0, false, true, false, 0x1,
    [⟨0, 64, .rw, .any, false⟩]⟩,
  ⟨.lnkKeysel, 0x620, 1, 0x0, 1, 0x0, false, false, false, 0x0,
    [⟨0, 1, .rw, .any, false⟩, ⟨1, 2, .rw, .any, false⟩, ⟨3, 3, .rw, (.near 0 6), false⟩,
     ⟨8, 1, .ro, .any, false⟩]⟩,
  ⟨.lnkKeydata, 0x628, 1, 0x0, 1, 0x0, false, true, false, 0x0,
    [⟨0, 64, .wo, .any, false⟩]⟩,
  ⟨.lnkCntsel, 0x700, 1, 0x0, 1, 0x0, false, false, false, 0x0,
    [⟨0, 4, .rw, .any, false⟩]⟩,
  ⟨.lnkCnt, 0x708, 1, 0x0, 1, 0x0, false, false, false, 0x0,
    [⟨0, 48, .w1c, .any, false⟩]⟩]

/-- Registers of a LNK block, continued. -/
def lnkRegs2 : List RegDef := [
  ⟨.lnkTxsctl, 0x10000, 1, 0x0, 256, 0x20, true, false, false, 0x80,
    [⟨0, 1, .rw, .any, true⟩, ⟨1, 1, .rw, .any, true⟩, ⟨2, 4, .rw, .any, true⟩, ⟨6, 1, .rw, .any, true⟩,
     ⟨7, 1, .rw, .any, true⟩, ⟨8, 3, .rw, .any, true⟩, ⟨12, 12, .rw, .any, true⟩]⟩,
  ⟨.lnkTxsda, 0x10008, 1, 0x0, 256, 0x20, true, false, false, 0x0,
    [⟨0, 48, .rw, .any, true⟩]⟩,
  ⟨.lnkTxsid, 0x10010, 1, 0x0, 256, 0x20, true, false, false, 0x0,
    [⟨0, 32, .rw, .any, true⟩, ⟨32, 32, .rw, .any, true⟩]⟩,
  ⟨.lnkTxsstat, 0x10018, 1, 0x0, 256, 0x20, true, false, false, 0x0,
    [⟨0, 16, .ro, .any, false⟩, ⟨16, 16, .ro, .any, false⟩, ⟨32, 16, .w1c, .any, false⟩]⟩,
  ⟨.lnkRxsctl, 0x20000, 1, 0x0, 256, 0x40, true, false, false, 0x101800,
    [⟨0, 1, .rw, .any, true⟩, ⟨1, 1, .rw, .any, true⟩, ⟨2, 4, .rw, .any, true⟩, ⟨6, 1, .rw, .any, true⟩,
     ⟨7, 5, .rw, .any, true⟩, ⟨12, 8, .rw, (.near 1 255), true⟩, ⟨20, 1, .rw, .any, true⟩,
     ⟨21, 1, .rw, .any, true⟩, ⟨22, 1, .rw, .any, true⟩]⟩,
  ⟨.lnkRxsid, 0x20008, 1, 0x0, 256, 0x40, true, false, false, 0x0,
    [⟨0, 32, .rw, .any, true⟩, ⟨32, 32, .rw, .any, true⟩]⟩,
  ⟨.lnkRxsdig, 0x20010, 1, 0x0, 256, 0x40, true, true, false, 0x0,
    [⟨0, 64, .rw, .any, true⟩]⟩,
  ⟨.lnkRxstime, 0x20018, 1, 0x0, 256, 0x40, true, false, false, 0x6400002710,
    [⟨0, 32, .rw, (.near 1 10000000), true⟩, ⟨32, 32, .rw, (.near 0 1000000), true⟩]⟩,
  ⟨.lnkRxsdest, 0x20020, 1, 0x0, 256, 0x40, true, false, false, 0x400000,
    [⟨0, 1, .rw, .any, true⟩, ⟨1, 6, .rw, .any, true⟩, ⟨8, 4, .rw, .any, true⟩,
     ⟨16, 24, .rw, (.align 3 64), true⟩]⟩,
  ⟨.lnkRxsstat, 0x20028, 1, 0x0, 256, 0x40, true, false, false, 0x10000,
    [⟨0, 16, .ro, .any, false⟩, ⟨16, 1, .ro, .any, false⟩, ⟨17, 1, .w1s, .any, false⟩,
     ⟨20, 4, .ro, .any, false⟩, ⟨32, 32, .ro, .any, false⟩]⟩,
  ⟨.lnkRxscnt, 0x20030, 1, 0x0, 256, 0x40, true, false, false, 0x0,
    [⟨0, 16, .w1c, .any, false⟩, ⟨16, 16, .w1c, .any, false⟩, ⟨32, 16, .w1c, .any, false⟩,
     ⟨48, 16, .w1c, .any, false⟩]⟩]

/-- Registers of a HST block. -/
def hstRegs : List RegDef := [
  ⟨.hstPctl, 0x10, 1, 0x0, 1, 0x0, false, false, false, 0x3206,
    [⟨0, 3, .rw, (.into 4 6 6), true⟩, ⟨8, 12, .rw, (.near 1 4000), true⟩]⟩,
  ⟨.hstPstat, 0x18, 1, 0x0, 1, 0x0, false, false, false, 0x0,
    [⟨0, 1, .ro, .any, false⟩, ⟨1, 3, .ro, .any, false⟩, ⟨4, 5, .ro, .any, false⟩,
     ⟨9, 1, .ro, .any, false⟩, ⟨10, 2, .ro, .any, false⟩]⟩,
  ⟨.hstObbase, 0x20, 2, 0x8, 1, 0x0, false, true, false, 0x0,
    [⟨40, 24, .rw, .any, true⟩]⟩,
  ⟨.hstDbgbase, 0x30, 2, 0x8, 1, 0x0, false, false, false, 0x40000000,
    [⟨24, 24, .rw, .any, true⟩]⟩,
  ⟨.hstCfgctl, 0x40, 1, 0x0, 1, 0x0, false, false, true, 0x0,
    [⟨0, 1, .rw, .any, true⟩]⟩,
  ⟨.hstSqbase, 0x10000, 2, 0x10000, 64, 0x20, false, true, false, 0x0,
    [⟨6, 58, .rw, .any, false⟩]⟩,
  ⟨.hstSqctl, 0x10008, 2, 0x10000, 64, 0x20, false, false, false, 0x0,
    [⟨0, 1, .rw, .any, false⟩, ⟨1, 4, .rw, (.near 0 12), false⟩, ⟨8, 6, .rw, .any, false⟩]⟩,
  ⟨.hstSqstat, 0x10010, 2, 0x10000, 64, 0x20, false, false, false, 0x0,
    [⟨0, 16, .ro, .any, false⟩, ⟨16, 16, .ro, .any, false⟩, ⟨32, 4, .ro, .any, false⟩,
     ⟨36, 1, .ro, .any, false⟩]⟩,
  ⟨.hstCqbase, 0x10800, 2, 0x10000, 64, 0x20, false, true, false, 0x0,
    [⟨6, 58, .rw, .any, false⟩]⟩,
  ⟨.hstCqctl, 0x10808, 2, 0x10000, 64, 0x20, false, false, false, 0x10000,
    [⟨0, 1, .rw, .any, false⟩, ⟨1, 4, .rw, (.near 0 12), false⟩, ⟨5, 1, .rw, .any, false⟩,
     ⟨8, 7, .rw, .any, false⟩, ⟨16, 8, .rw, (.near 1 255), false⟩, ⟨32, 16, .rw, .any, false⟩]⟩,
  ⟨.hstCqstat, 0x10810, 2, 0x10000, 64, 0x20, false, false, false, 0x100000000,
    [⟨0, 16, .ro, .any, false⟩, ⟨16, 16, .ro, .any, false⟩, ⟨32, 1, .ro, .any, false⟩,
     ⟨33, 8, .ro, .any, false⟩]⟩]

/-- Registers of a CUS block. -/
def cusRegs : List RegDef := [
  ⟨.cusMode, 0x10, 1, 0x0, 1, 0x0, false, false, false, 0x12,
    [⟨0, 4, .ro, .any, false⟩, ⟨4, 4, .ro, .any, false⟩, ⟨8, 1, .ro, .any, false⟩,
     ⟨12, 4, .ro, .any, false⟩, ⟨16, 32, .ro, .any, false⟩]⟩,
  ⟨.cusModectl, 0x18, 1, 0x0, 1, 0x0, false, false, true, 0x60,
    [⟨0, 4, .wo, .any, false⟩, ⟨4, 4, .rw, (.into 4 6 6), true⟩, ⟨8, 1, .wo, .any, false⟩]⟩,
  ⟨.cusReady, 0x20, 1, 0x0, 1, 0x0, false, false, false, 0x0,
    [⟨0, 64, .ro, .any, false⟩]⟩,
  ⟨.cusCurtpol, 0x28, 1, 0x0, 1, 0x0, false, false, false, 0x7,
    [⟨0, 1, .rwl, .any, true⟩, ⟨1, 1, .rwl, .any, true⟩, ⟨2, 1, .rwl, .any, true⟩,
     ⟨3, 1, .rwl, .any, true⟩, ⟨4, 1, .rwl, .any, true⟩]⟩,
  ⟨.cusCalstart, 0x30, 1, 0x0, 1, 0x0, false, false, true, 0x0,
    [⟨0, 8, .wo, .any, false⟩]⟩,
  ⟨.cusStartaddr, 0x38, 1, 0x0, 1, 0x0, false, false, true, 0x0,
    [⟨2, 46, .rw, .any, false⟩]⟩,
  ⟨.cusBootstat, 0x40, 1, 0x0, 1, 0x0, false, false, false, 0x0,
    [⟨0, 2, .ro, .any, false⟩, ⟨2, 2, .rw, .any, false⟩, ⟨4, 1, .rw, .any, false⟩,
     ⟨5, 1, .rw, .any, false⟩]⟩,
  ⟨.cusBootload, 0x48, 1, 0x0, 1, 0x0, false, false, false, 0x0,
    [⟨0, 1, .wo, .any, false⟩, ⟨1, 1, .wo, .any, false⟩, ⟨2, 1, .ro, .any, false⟩,
     ⟨3, 1, .ro, .any, false⟩, ⟨32, 32, .ro, .any, false⟩]⟩,
  ⟨.cusTime, 0x50, 1, 0x0, 1, 0x0, false, true, false, 0x0,
    [⟨0, 64, .ro, .any, false⟩]⟩,
  ⟨.cusAlarmctl, 0x200, 1, 0x0, 1, 0x0, false, false, true, 0x10064,
    [⟨0, 14, .rwl, (.near 20 10000), true⟩, ⟨16, 1, .rw, .any, false⟩]⟩,
  ⟨.cusAlarmstat, 0x208, 1, 0x0, 1, 0x0, false, false, false, 0x1,
    [⟨0, 1, .ro, .any, false⟩, ⟨1, 1, .ro, .any, false⟩, ⟨16, 32, .ro, .any, false⟩]⟩]

/-- Registers of a UST block. -/
def ustRegs : List RegDef := [
  ⟨.ustPolicy, 0x10, 1, 0x0, 1, 0x0, false, false, false, 0x3E80010323F,
    [⟨0, 6, .rw, .any, true⟩, ⟨8, 8, .rw, (.near 10 200), true⟩, ⟨16, 8, .rw, (.near 1 255), true⟩,
     ⟨24, 1, .rw, .any, true⟩, ⟨32, 16, .rw, (.near 1 60000), true⟩]⟩,
  ⟨.ustStctl, 0x18, 1, 0x0, 1, 0x0, false, false, false, 0xE100001,
    [⟨0, 1, .rw, .any, true⟩, ⟨16, 16, .rw, (.near 10 65535), true⟩]⟩,
  ⟨.ustSwap, 0x20, 1, 0x0, 1, 0x0, false, false, true, 0x0,
    [⟨0, 3, .wo, .any, false⟩, ⟨8, 8, .wo, .any, false⟩, ⟨16, 5, .wo, .any, false⟩,
     ⟨24, 5, .wo, .any, false⟩, ⟨32, 1, .wo, .any, false⟩]⟩,
  ⟨.ustSwapstat, 0x28, 1, 0x0, 1, 0x0, false, false, false, 0x0,
    [⟨0, 1, .ro, .any, false⟩, ⟨1, 5, .ro, .any, false⟩, ⟨6, 3, .ro, .any, false⟩,
     ⟨16, 12, .ro, .any, false⟩, ⟨28, 4, .ro, .any, false⟩, ⟨32, 32, .ro, .any, false⟩]⟩,
  ⟨.ustInvent, 0x30, 1, 0x0, 1, 0x0, false, false, false, 0x0,
    [⟨0, 3, .ro, .any, false⟩, ⟨4, 6, .ro, .any, false⟩, ⟨10, 2, .ro, .any, false⟩,
     ⟨12, 7, .ro, .any, false⟩, ⟨19, 1, .ro, .any, false⟩, ⟨20, 2, .ro, .any, false⟩]⟩,
  ⟨.ustCalocc, 0x38, 1, 0x0, 1, 0x0, false, false, false, 0x0,
    [⟨0, 4, .ro, .any, false⟩, ⟨8, 4, .ro, .any, false⟩, ⟨4, 1, .ro, .any, false⟩,
     ⟨12, 1, .ro, .any, false⟩, ⟨5, 1, .ro, .any, false⟩, ⟨13, 1, .ro, .any, false⟩]⟩,
  ⟨.ustRessel, 0x40, 1, 0x0, 1, 0x0, false, false, false, 0x0,
    [⟨0, 12, .rw, .any, false⟩]⟩,
  ⟨.ustResstat, 0x48, 1, 0x0, 1, 0x0, false, false, false, 0x0,
    [⟨0, 6, .ro, .any, false⟩, ⟨6, 1, .ro, .any, false⟩, ⟨7, 1, .ro, .any, false⟩,
     ⟨8, 1, .ro, .any, false⟩, ⟨16, 16, .ro, .any, false⟩, ⟨32, 16, .ro, .any, false⟩,
     ⟨48, 8, .ro, .any, false⟩]⟩,
  ⟨.ustResrec, 0x50, 1, 0x0, 1, 0x0, false, false, false, 0x0,
    [⟨0, 6, .rwl, .any, false⟩, ⟨6, 1, .rwl, .any, false⟩, ⟨16, 16, .rwl, .any, false⟩]⟩]

/-- Registers of a PWR block. -/
def pwrRegs : List RegDef := [
  ⟨.pwrDomstat, 0x10, 1, 0x0, 1, 0x0, false, false, false, 0x3FFFFFFFFFFFF,
    [⟨0, 50, .ro, .any, false⟩]⟩,
  ⟨.pwrDomctl, 0x18, 1, 0x0, 1, 0x0, false, false, false, 0x0,
    [⟨0, 50, .rw, .any, true⟩]⟩,
  ⟨.pwrRestrain, 0x20, 1, 0x0, 1, 0x0, false, false, false, 0x2C601910640,
    [⟨0, 12, .rw, (.near 1350 2450), true⟩, ⟨16, 8, .rw, (.near 100 150), true⟩, ⟨24, 1, .rw, .any, true⟩,
     ⟨32, 10, .rw, (.near 700 800), true⟩]⟩,
  ⟨.pwrRstat, 0x28, 1, 0x0, 1, 0x0, false, false, false, 0x0,
    [⟨0, 1, .ro, .any, false⟩, ⟨1, 4, .ro, .any, false⟩, ⟨32, 16, .ro, .any, false⟩]⟩,
  ⟨.pwrVcore, 0x30, 1, 0x0, 1, 0x0, false, false, false, 0x0,
    [⟨0, 16, .ro, .any, false⟩]⟩,
  ⟨.pwrTemp, 0x100, 1, 0x0, 16, 0x8, false, false, false, 0x0,
    [⟨0, 9, .ro, .any, false⟩, ⟨9, 1, .ro, .any, false⟩]⟩]

/-- Registers of a CFG block. -/
def cfgRegs : List RegDef := [
  ⟨.cfgStatus, 0x10, 1, 0x0, 1, 0x0, false, false, false, 0x0,
    [⟨0, 1, .ro, .any, false⟩, ⟨1, 1, .ro, .any, false⟩, ⟨2, 1, .ro, .any, false⟩,
     ⟨8, 3, .ro, .any, false⟩, ⟨16, 12, .ro, .any, false⟩, ⟨32, 16, .ro, .any, false⟩]⟩,
  ⟨.cfgCommit, 0x18, 1, 0x0, 1, 0x0, false, true, true, 0x0,
    [⟨0, 13, .wo, .any, false⟩, ⟨13, 1, .wo, .any, false⟩, ⟨14, 1, .wo, .any, false⟩,
     ⟨32, 32, .wo, .any, false⟩]⟩,
  ⟨.cfgDigest, 0x20, 1, 0x0, 1, 0x0, false, true, false, 0x0,
    [⟨0, 64, .ro, .any, false⟩]⟩,
  ⟨.cfgDigstat, 0x28, 1, 0x0, 1, 0x0, false, false, false, 0x0,
    [⟨0, 32, .ro, .any, false⟩, ⟨32, 1, .ro, .any, false⟩]⟩,
  ⟨.cfgStagedig, 0x30, 1, 0x0, 1, 0x0, false, true, false, 0x0,
    [⟨0, 64, .ro, .any, false⟩]⟩,
  ⟨.cfgExpect, 0x38, 1, 0x0, 1, 0x0, false, true, true, 0x0,
    [⟨0, 64, .rw, .any, false⟩]⟩,
  ⟨.cfgDigctl, 0x40, 1, 0x0, 1, 0x0, false, false, true, 0x0,
    [⟨0, 1, .rw, .any, false⟩]⟩,
  ⟨.cfgClamplog, 0x48, 1, 0x0, 1, 0x0, false, true, false, 0x0,
    [⟨0, 23, .rc, .any, false⟩, ⟨23, 6, .rc, .any, false⟩, ⟨29, 1, .rc, .any, false⟩,
     ⟨31, 1, .rc, .any, false⟩, ⟨32, 8, .rc, .any, false⟩, ⟨40, 24, .rc, .any, false⟩]⟩,
  ⟨.cfgClampcnt, 0x50, 1, 0x0, 1, 0x0, false, false, false, 0x0,
    [⟨0, 16, .w1c, .any, false⟩]⟩]

/-- The fault group of a block instance (R491, R492). FLT.CLASS and the reset of FLT.ALARMEN are the class mask. -/
def faultRegs (cls : Nat) : List RegDef := [
  ⟨.fltStat, 0xF00, 1, 0x0, 1, 0x0, false, false, false, 0x0,
    [⟨0, 32, .w1c, .any, false⟩]⟩,
  ⟨.fltFirst0, 0xF08, 1, 0x0, 1, 0x0, false, true, false, 0x0,
    [⟨0, 5, .rc, .any, false⟩, ⟨5, 1, .rc, .any, false⟩, ⟨6, 1, .rc, .any, false⟩,
     ⟨7, 1, .rc, .any, false⟩, ⟨8, 8, .rc, .any, false⟩, ⟨16, 16, .rc, .any, false⟩,
     ⟨32, 1, .rc, .any, false⟩]⟩,
  ⟨.fltFirsta, 0xF10, 1, 0x0, 1, 0x0, false, false, false, 0x0,
    [⟨0, 48, .ro, .any, false⟩]⟩,
  ⟨.fltFirstt, 0xF18, 1, 0x0, 1, 0x0, false, false, false, 0x0,
    [⟨0, 64, .ro, .any, false⟩]⟩,
  ⟨.fltLost, 0xF20, 1, 0x0, 1, 0x0, false, false, false, 0x0,
    [⟨0, 1, .w1c, .any, false⟩, ⟨32, 32, .w1c, .any, false⟩]⟩,
  ⟨.fltLostcnt, 0xF28, 1, 0x0, 1, 0x0, false, false, false, 0x0,
    [⟨0, 16, .w1c, .any, false⟩]⟩,
  ⟨.fltMen, 0xF30, 1, 0x0, 1, 0x0, false, false, false, 0xFFFFFFFF,
    [⟨0, 32, .rw, .any, true⟩]⟩,
  ⟨.fltSen, 0xF38, 1, 0x0, 1, 0x0, false, false, false, 0x0,
    [⟨0, 32, .rw, .any, true⟩]⟩,
  ⟨.fltAlarmen, 0xF40, 1, 0x0, 1, 0x0, false, false, false, cls,
    [⟨0, 32, .rwl, .classMask, true⟩]⟩,
  ⟨.fltClass, 0xF48, 1, 0x0, 1, 0x0, false, false, false, cls,
    [⟨0, 32, .ro, .any, false⟩]⟩,
  ⟨.fltInject, 0xF50, 1, 0x0, 1, 0x0, false, false, true, 0x0,
    [⟨0, 5, .wo, .any, false⟩, ⟨8, 1, .wo, .any, false⟩]⟩]

/-- The registers of a block, its fault group and identity register apart. -/
def regsOf : Blk → List RegDef
  | .eng => engRegs ++ engRegs1 ++ engRegs2
  | .qad => qadRegs
  | .hbc => hbcRegs
  | .rep => repRegs ++ repRegs1
  | .cal => calRegs ++ calRegs1
  | .scp => scpRegs
  | .mtx => mtxRegs
  | .cue => cueRegs ++ cueRegs1
  | .ids => idsRegs
  | .sea => seaRegs ++ seaRegs1
  | .arc => arcRegs ++ arcRegs1
  | .lnk => lnkRegs ++ lnkRegs1 ++ lnkRegs2
  | .hst => hstRegs
  | .cus => cusRegs
  | .ust => ustRegs
  | .pwr => pwrRegs
  | .cfg => cfgRegs

/-- A block's place in the configuration space: base offset, instances, instance stride, log2 of the span, code of
R39, and the number of its first instance in the block index of R477. -/
structure BlkPlace where
  base : Nat
  count : Nat
  stride : Nat
  span : Nat
  code : Nat
  index : Nat
  deriving DecidableEq, Repr

/-- The block map (R29, R39, R477). -/
def Blk.place : Blk → BlkPlace
  | .eng => ⟨0x0, 16, 0x100000, 20, 0x01, 0⟩
  | .qad => ⟨0x1000000, 4, 0x40000, 18, 0x02, 16⟩
  | .hbc => ⟨0x1100000, 4, 0x100000, 20, 0x04, 20⟩
  | .rep => ⟨0x1500000, 5, 0x10000, 16, 0x0E, 24⟩
  | .cal => ⟨0x1600000, 8, 0x100000, 20, 0x03, 29⟩
  | .scp => ⟨0x1E00000, 1, 0x100000, 20, 0x05, 37⟩
  | .mtx => ⟨0x2000000, 1, 0x800000, 23, 0x06, 38⟩
  | .cue => ⟨0x2800000, 1, 0x100000, 20, 0x0B, 39⟩
  | .ids => ⟨0x2900000, 1, 0x100000, 20, 0x0C, 40⟩
  | .sea => ⟨0x2A00000, 6, 0x10000, 16, 0x0A, 41⟩
  | .arc => ⟨0x2B00000, 1, 0x100000, 20, 0x07, 47⟩
  | .lnk => ⟨0x2C00000, 4, 0x40000, 18, 0x08, 48⟩
  | .hst => ⟨0x2D00000, 1, 0x100000, 20, 0x09, 52⟩
  | .cus => ⟨0x2E00000, 1, 0x100000, 20, 0x0D, 53⟩
  | .ust => ⟨0x2F00000, 1, 0x100000, 20, 0x0F, 54⟩
  | .pwr => ⟨0x3000000, 1, 0x100000, 20, 0x10, 55⟩
  | .cfg => ⟨0x3100000, 1, 0x100000, 20, 0x11, 56⟩

/-- The blocks in the order of R29. -/
def Blk.all : List Blk :=
  [.eng, .qad, .hbc, .rep, .cal, .scp, .mtx, .cue, .ids, .sea, .arc, .lnk, .hst, .cus, .ust, .pwr, .cfg]

/-- The fault kinds marked S or W, as FLT.CLASS shows them (R486, R534, R562, R565, R592, R617, R651, R656). -/
def Blk.classMask : Blk → Nat
  | .eng => 0x2
  | .qad => 0x0
  | .hbc => 0x2
  | .rep => 0x6
  | .cal => 0x0
  | .scp => 0x4
  | .mtx => 0x0
  | .cue => 0x0
  | .ids => 0x0
  | .sea => 0x2
  | .arc => 0x6
  | .lnk => 0x42
  | .hst => 0x8
  | .cus => 0xE
  | .ust => 0x8
  | .pwr => 0x0
  | .cfg => 0x8

/-- The fault kinds that a block has; the other bits of FLT.STAT are reserved (R486). -/
def Blk.kindMask : Blk → Nat
  | .eng => 0x7
  | .qad => 0x3
  | .hbc => 0x7F
  | .rep => 0xFF
  | .cal => 0x3
  | .scp => 0xF
  | .mtx => 0xF
  | .cue => 0xF
  | .ids => 0x7
  | .sea => 0xF
  | .arc => 0x3FF
  | .lnk => 0x7F
  | .hst => 0x3F
  | .cus => 0x3F
  | .ust => 0x7F
  | .pwr => 0x7
  | .cfg => 0xF

/-- Where a register definition finds an offset within the instance: its two array indices. -/
def RegDef.find (d : RegDef) (o : Nat) : Option (Nat × Nat) :=
  if o < d.off then none
  else
    let x := o - d.off
    let i := if d.n1 = 1 then 0 else x / d.s1
    let y := if d.n1 = 1 then x else x % d.s1
    let j := if d.n2 = 1 then 0 else y / d.s2
    let z := if d.n2 = 1 then y else y % d.s2
    if i < d.n1 ∧ j < d.n2 ∧ z = 0 then some (i, j) else none

/-- A register as an access finds it: block, instance, definition, array indices and its offset (a multiple of 8). -/
structure RegAt where
  blk : Blk
  inst : Nat
  d : RegDef
  i : Nat
  j : Nat
  off : Nat
  deriving DecidableEq, Repr

/-- The first definition of a list that finds the offset. -/
def findIn (b : Blk) (inst off o : Nat) : List RegDef → Option RegAt
  | [] => none
  | d :: ds =>
    match d.find o with
    | some (i, j) => if d.first && inst != 0 then none else some ⟨b, inst, d, i, j, off⟩
    | none => findIn b inst off o ds

/-- The identity register of R38. -/
def idReg : RegDef := ⟨.id, 0, 1, 0, 1, 0, false, false, false, 0, []⟩

/-- The register of block `b` at configuration-space offset `off`, if any. -/
def Blk.findReg (b : Blk) (off : Nat) : Option RegAt :=
  let p := b.place
  let inst := (off - p.base) / p.stride
  let o := (off - p.base) % p.stride
  if off < p.base ∨ inst ≥ p.count then none
  else if o = 0 then some ⟨b, inst, idReg, 0, 0, off⟩
  else if 0xF00 ≤ o ∧ o < 0xF80 then findIn b inst off o (faultRegs b.classMask)
  else findIn b inst off o (regsOf b)

/-- The register at a configuration-space offset, a multiple of 8 (R29, R33); `none` is a reserved offset. -/
def findReg (off : Nat) : Option RegAt :=
  match Blk.all.find? fun b => decide (b.place.base ≤ off ∧ off < b.place.base + b.place.count * b.place.stride) with
  | some b => b.findReg off
  | none => none

/-- Reset LEVEL and WORLD of an interrupt source (R477). -/
def srcReset (s : Nat) : Nat :=
  if s < 256 then 0
  else if s < 352 then (if (s - 256) % 6 < 3 then 0 else 4)
  else if s < 466 ∧ s % 2 = 0 then 2 else 0

/-- The identity word of a block instance (R38). -/
def idWord (b : Blk) (inst : Nat) : Nat :=
  b.place.code + inst * 2 ^ 8 + 0x01 * 2 ^ 24 + b.place.span * 2 ^ 32

/-- The value a register holds at reset (R14; log entry 4 where the spec gives none). -/
def RegAt.resetVal (a : RegAt) : Nat :=
  match a.d.reg with
  | .id => idWord a.blk a.inst
  | .idsSrccfg => srcReset a.j
  | _ => a.d.reset

/-- The reset value of the register at a configuration-space offset. -/
def regReset (off : Nat) : Word :=
  match findReg off with
  | some a => BitVec.ofNat 64 a.resetVal
  | none => 0

end Sys2Proof.Machine
end

