-- ==== Sys2Proof/Machine/RegNames.lean ====
section
/-!
DEFINITION. Names for the registers' places and fields that the meanings use (the register tables of every chapter).
`r…` is a register's offset in the configuration space, `f…` a field's place in its register. Arguments: the block
instance, the world or bank, the index in the array.
-/
namespace Sys2Proof.Machine

/-- A field's place: lowest bit and width. -/
structure FP where
  lsb : Nat
  w : Nat
  deriving DecidableEq, Repr

/-- ENG.PLACE (R159). -/
abbrev rEngPlace (b : Nat) : Nat := 0x100 + 0x100000 * b
abbrev fEngPlacePhys : FP := ⟨0, 5⟩
abbrev fEngPlaceQuad : FP := ⟨5, 2⟩
abbrev fEngPlaceHome : FP := ⟨7, 1⟩
abbrev fEngPlaceMigr : FP := ⟨8, 8⟩
/-- ENG.RACTL (R166). -/
abbrev rEngRactl (b : Nat) : Nat := 0x108 + 0x100000 * b
abbrev fEngRactlSdepth : FP := ⟨0, 3⟩
abbrev fEngRactlVdepth : FP := ⟨4, 3⟩
/-- ENG.BEATn (R158). -/
abbrev rEngBeat (b n : Nat) : Nat := 0x200 + 0x100000 * b + 0x8 * n
abbrev fEngBeatRate : FP := ⟨0, 16⟩
abbrev fEngBeatDrift : FP := ⟨16, 16⟩
abbrev fEngBeatUpd : FP := ⟨32, 16⟩
abbrev fEngBeatWorn : FP := ⟨48, 1⟩
/-- ENG.TPCTL (R192). -/
abbrev rEngTpctl (b : Nat) : Nat := 0x400 + 0x100000 * b
abbrev fEngTpctlEn : FP := ⟨0, 1⟩
abbrev fEngTpctlCount : FP := ⟨4, 4⟩
abbrev fEngTpctlCycle : FP := ⟨16, 17⟩
/-- ENG.TPPHASE (R193). -/
abbrev rEngTpphase (b : Nat) : Nat := 0x408 + 0x100000 * b
abbrev fEngTpphasePhase : FP := ⟨0, 17⟩
/-- ENG.TPSTAT (R194). -/
abbrev rEngTpstat (b : Nat) : Nat := 0x410 + 0x100000 * b
abbrev fEngTpstatSlot : FP := ⟨0, 4⟩
abbrev fEngTpstatWorld : FP := ⟨4, 1⟩
abbrev fEngTpstatOpen : FP := ⟨5, 1⟩
abbrev fEngTpstatLent : FP := ⟨6, 1⟩
abbrev fEngTpstatCut : FP := ⟨8, 1⟩
abbrev fEngTpstatMaxloss : FP := ⟨16, 16⟩
/-- ENG.TPSLOTn (R195). -/
abbrev rEngTpslot (b n : Nat) : Nat := 0x480 + 0x100000 * b + 0x8 * n
abbrev fEngTpslotLen : FP := ⟨0, 17⟩
abbrev fEngTpslotWorld : FP := ⟨20, 1⟩
abbrev fEngTpslotLend : FP := ⟨21, 1⟩
/-- ENG.PGRANTp (R200). -/
abbrev rEngPgrant (b n : Nat) : Nat := 0x800 + 0x100000 * b + 0x20 * n
abbrev fEngPgrantGrants : FP := ⟨0, 48⟩
/-- ENG.PWAITp (R200). -/
abbrev rEngPwait (b n : Nat) : Nat := 0x808 + 0x100000 * b + 0x20 * n
abbrev fEngPwaitWaited : FP := ⟨0, 48⟩
/-- ENG.PMAXp (R200). -/
abbrev rEngPmax (b n : Nat) : Nat := 0x810 + 0x100000 * b + 0x20 * n
abbrev fEngPmaxLongest : FP := ⟨0, 32⟩
/-- ENG.XCTL (R236). -/
abbrev rEngXctl (b w : Nat) : Nat := 0xC00 + 0x100000 * b + 0x100 * w
abbrev fEngXctlTrapen : FP := ⟨0, 5⟩
abbrev fEngXctlPrecise : FP := ⟨8, 1⟩
/-- ENG.WDOG (R237). -/
abbrev rEngWdog (b w : Nat) : Nat := 0xC08 + 0x100000 * b + 0x100 * w
abbrev fEngWdogLimit : FP := ⟨0, 26⟩
/-- ENG.PRBASE (R238). -/
abbrev rEngPrbase (b w : Nat) : Nat := 0xC10 + 0x100000 * b + 0x100 * w
abbrev fEngPrbaseOffset : FP := ⟨13, 14⟩
/-- ENG.CPL (R239). -/
abbrev rEngCpl (b w : Nat) : Nat := 0xC18 + 0x100000 * b + 0x100 * w
abbrev fEngCplTag : FP := ⟨0, 16⟩
abbrev fEngCplStatus : FP := ⟨16, 8⟩
abbrev fEngCplFlags : FP := ⟨24, 5⟩
abbrev fEngCplCount : FP := ⟨32, 16⟩
/-- ENG.CPLERR (R240). -/
abbrev rEngCplerr (b w : Nat) : Nat := 0xC20 + 0x100000 * b + 0x100 * w
abbrev fEngCplerrTag : FP := ⟨0, 16⟩
abbrev fEngCplerrStatus : FP := ⟨16, 8⟩
abbrev fEngCplerrFlags : FP := ⟨24, 5⟩
abbrev fEngCplerrValid : FP := ⟨29, 1⟩
abbrev fEngCplerrOver : FP := ⟨30, 1⟩
/-- ENG.TRAPREP (R241). -/
abbrev rEngTraprep (b w : Nat) : Nat := 0xC28 + 0x100000 * b + 0x100 * w
abbrev fEngTraprepTag : FP := ⟨0, 16⟩
abbrev fEngTraprepFlags : FP := ⟨16, 5⟩
abbrev fEngTraprepLast : FP := ⟨21, 1⟩
abbrev fEngTraprepValid : FP := ⟨22, 1⟩
abbrev fEngTraprepOver : FP := ⟨23, 1⟩
/-- ENG.STOPREP (R242). -/
abbrev rEngStoprep (b w : Nat) : Nat := 0xC30 + 0x100000 * b + 0x100 * w
abbrev fEngStoprepTag : FP := ⟨0, 16⟩
abbrev fEngStoprepCause : FP := ⟨16, 4⟩
abbrev fEngStoprepStopped : FP := ⟨20, 1⟩
abbrev fEngStoprepParked : FP := ⟨21, 1⟩
abbrev fEngStoprepBusy : FP := ⟨22, 1⟩
/-- ENG.SUSPEND (R243). -/
abbrev rEngSuspend (b w : Nat) : Nat := 0xC38 + 0x100000 * b + 0x100 * w
abbrev fEngSuspendGo : FP := ⟨0, 1⟩
/-- ENG.RESUME (R244). -/
abbrev rEngResume (b w : Nat) : Nat := 0xC40 + 0x100000 * b + 0x100 * w
abbrev fEngResumeAction : FP := ⟨0, 2⟩
abbrev fEngResumeTag : FP := ⟨16, 16⟩
/-- ENG.WDSTAT (R245). -/
abbrev rEngWdstat (b w : Nat) : Nat := 0xC48 + 0x100000 * b + 0x100 * w
abbrev fEngWdstatElapsed : FP := ⟨0, 26⟩
abbrev fEngWdstatMaxstall : FP := ⟨32, 26⟩
/-- ENG.PRn (R235). -/
abbrev rEngPr (b w n : Nat) : Nat := 0xC50 + 0x100000 * b + 0x100 * w + 0x8 * n
abbrev fEngPrWord : FP := ⟨0, 64⟩
/-- ENG.OBASEn (R94). -/
abbrev rEngObase (b w n : Nat) : Nat := 0x1000 + 0x100000 * b + 0x400 * w + 0x8 * n
abbrev fEngObaseBase : FP := ⟨0, 48⟩
/-- ENG.OLENn (R95). -/
abbrev rEngOlen (b w n : Nat) : Nat := 0x1040 + 0x100000 * b + 0x400 * w + 0x8 * n
abbrev fEngOlenLen : FP := ⟨0, 40⟩
/-- ENG.OCTL (R96). -/
abbrev rEngOctl (b w : Nat) : Nat := 0x1060 + 0x100000 * b + 0x400 * w
abbrev fEngOctlDefrnd : FP := ⟨0, 3⟩
/-- ENG.QSTAT (R98). -/
abbrev rEngQstat (b w : Nat) : Nat := 0x1068 + 0x100000 * b + 0x400 * w
abbrev fEngQstatCount : FP := ⟨0, 6⟩
abbrev fEngQstatHeld : FP := ⟨7, 1⟩
abbrev fEngQstatRunning : FP := ⟨8, 1⟩
abbrev fEngQstatSuspended : FP := ⟨9, 1⟩
abbrev fEngQstatHeadtag : FP := ⟨16, 16⟩
abbrev fEngQstatLasttag : FP := ⟨32, 16⟩
/-- ENG.REJECT (R99). -/
abbrev rEngReject (b w : Nat) : Nat := 0x1070 + 0x100000 * b + 0x400 * w
abbrev fEngRejectStatus : FP := ⟨0, 4⟩
abbrev fEngRejectOffset : FP := ⟨8, 8⟩
abbrev fEngRejectTag : FP := ⟨16, 16⟩
abbrev fEngRejectSource : FP := ⟨32, 8⟩
abbrev fEngRejectValid : FP := ⟨40, 1⟩
abbrev fEngRejectOver : FP := ⟨41, 1⟩
/-- QAD.ENGOCC (R41). -/
abbrev rQadEngocc (b : Nat) : Nat := 0x1000010 + 0x40000 * b
abbrev fQadEngoccLog : FP := ⟨0, 5⟩
abbrev fQadEngoccEnc : FP := ⟨5, 1⟩
abbrev fQadEngoccWorn : FP := ⟨6, 1⟩
abbrev fQadEngoccOff : FP := ⟨7, 1⟩
/-- QAD.CALOCC (R42). -/
abbrev rQadCalocc (b : Nat) : Nat := 0x1000018 + 0x40000 * b
abbrev fQadCaloccLog : FP := ⟨0, 4⟩
abbrev fQadCaloccWorn : FP := ⟨4, 1⟩
abbrev fQadCaloccOff : FP := ⟨5, 1⟩
/-- QAD.SPARES (R43). -/
abbrev rQadSpares (b : Nat) : Nat := 0x1000020 + 0x40000 * b
abbrev fQadSparesBankspare : FP := ⟨0, 5⟩
abbrev fQadSparesCmpsub : FP := ⟨8, 1⟩
/-- QAD.BEAT (R44). -/
abbrev rQadBeat (b : Nat) : Nat := 0x1000028 + 0x40000 * b
abbrev fQadBeatMinrate : FP := ⟨0, 16⟩
abbrev fQadBeatMinphys : FP := ⟨16, 3⟩
abbrev fQadBeatMinsect : FP := ⟨19, 2⟩
/-- HBC.TEMP (R384). -/
abbrev rHbcTemp (b : Nat) : Nat := 0x1100010 + 0x100000 * b
abbrev fHbcTempTemp : FP := ⟨0, 9⟩
abbrev fHbcTempBand : FP := ⟨9, 3⟩
abbrev fHbcTempForced : FP := ⟨12, 1⟩
abbrev fHbcTempValid : FP := ⟨13, 1⟩
abbrev fHbcTempWeakfull : FP := ⟨14, 1⟩
abbrev fHbcTempWeakrows : FP := ⟨16, 14⟩
/-- HBC.SCRUB (R384). -/
abbrev rHbcScrub (b : Nat) : Nat := 0x1100018 + 0x100000 * b
abbrev fHbcScrubPeriod : FP := ⟨0, 8⟩
abbrev fHbcScrubPasses : FP := ⟨32, 32⟩
/-- HBC.CECNT (R384). -/
abbrev rHbcCecnt (b : Nat) : Nat := 0x1100020 + 0x100000 * b
abbrev fHbcCecntReq : FP := ⟨0, 32⟩
abbrev fHbcCecntScrub : FP := ⟨32, 32⟩
/-- HBC.UECNT (R384). -/
abbrev rHbcUecnt (b : Nat) : Nat := 0x1100028 + 0x100000 * b
abbrev fHbcUecntCount : FP := ⟨0, 32⟩
/-- HBC.PPRCTL (R384). -/
abbrev rHbcPprctl (b : Nat) : Nat := 0x1100030 + 0x100000 * b
abbrev fHbcPprctlOnline : FP := ⟨0, 1⟩
/-- HBC.PPRSTAT (R384). -/
abbrev rHbcPprstat (b : Nat) : Nat := 0x1100038 + 0x100000 * b
abbrev fHbcPprstatSoft : FP := ⟨0, 16⟩
abbrev fHbcPprstatHard : FP := ⟨16, 16⟩
abbrev fHbcPprstatCand : FP := ⟨32, 16⟩
/-- HBC.RETSEL (R384). -/
abbrev rHbcRetsel (b : Nat) : Nat := 0x1100040 + 0x100000 * b
abbrev fHbcRetselIndex : FP := ⟨0, 12⟩
/-- HBC.RETENT (R384). -/
abbrev rHbcRetent (b : Nat) : Nat := 0x1100048 + 0x100000 * b
abbrev fHbcRetentState : FP := ⟨0, 2⟩
abbrev fHbcRetentPage : FP := ⟨12, 36⟩
/-- HBC.RETSTAT (R384). -/
abbrev rHbcRetstat (b : Nat) : Nat := 0x1100050 + 0x100000 * b
abbrev fHbcRetstatUsed : FP := ⟨0, 13⟩
abbrev fHbcRetstatListed : FP := ⟨16, 13⟩
/-- REP.CSTAT (R322). -/
abbrev rRepCstat (b : Nat) : Nat := 0x1500010 + 0x10000 * b
abbrev fRepCstatServes : FP := ⟨0, 3⟩
abbrev fRepCstatProven : FP := ⟨3, 1⟩
abbrev fRepCstatActive : FP := ⟨4, 1⟩
abbrev fRepCstatPeriodic : FP := ⟨16, 16⟩
/-- REP.CCOUNT (R323). -/
abbrev rRepCcount (b : Nat) : Nat := 0x1500018 + 0x10000 * b
abbrev fRepCcountCompares : FP := ⟨0, 48⟩
abbrev fRepCcountMismatches : FP := ⟨48, 16⟩
/-- REP.MMREP0 (R324). -/
abbrev rRepMmrep0 (b : Nat) : Nat := 0x1500020 + 0x10000 * b
abbrev fRepMmrep0Tag : FP := ⟨0, 16⟩
abbrev fRepMmrep0Engine : FP := ⟨16, 4⟩
abbrev fRepMmrep0World : FP := ⟨20, 1⟩
abbrev fRepMmrep0Slot : FP := ⟨21, 1⟩
abbrev fRepMmrep0Valid : FP := ⟨22, 1⟩
abbrev fRepMmrep0Over : FP := ⟨23, 1⟩
/-- REP.MMREP1 (R325). -/
abbrev rRepMmrep1 (b : Nat) : Nat := 0x1500028 + 0x10000 * b
abbrev fRepMmrep1Block : FP := ⟨0, 40⟩
/-- REP.MMSIGP (R325). -/
abbrev rRepMmsigp (b : Nat) : Nat := 0x1500030 + 0x10000 * b
abbrev fRepMmsigpSig : FP := ⟨0, 64⟩
/-- REP.MMSIGR (R325). -/
abbrev rRepMmsigr (b : Nat) : Nat := 0x1500038 + 0x10000 * b
abbrev fRepMmsigrSig : FP := ⟨0, 64⟩
/-- REP.ENCREP (R326). -/
abbrev rRepEncrep (b : Nat) : Nat := 0x1500040 + 0x10000 * b
abbrev fRepEncrepTag : FP := ⟨0, 16⟩
abbrev fRepEncrepResult : FP := ⟨16, 4⟩
abbrev fRepEncrepPhys : FP := ⟨20, 5⟩
/-- REP.PROOFREP (R327). -/
abbrev rRepProofrep (b : Nat) : Nat := 0x1500048 + 0x10000 * b
abbrev fRepProofrepInjected : FP := ⟨0, 12⟩
abbrev fRepProofrepCaught : FP := ⟨12, 12⟩
abbrev fRepProofrepDone : FP := ⟨24, 1⟩
abbrev fRepProofrepMissed : FP := ⟨25, 1⟩
abbrev fRepProofrepMisslane : FP := ⟨26, 5⟩
abbrev fRepProofrepMissbit : FP := ⟨31, 6⟩
/-- REP.MODE (R328). -/
abbrev rRepMode : Nat := 0x1500100
abbrev fRepModeSpair : FP := ⟨0, 1⟩
abbrev fRepModeVpair : FP := ⟨1, 1⟩
/-- REP.MSTAT (R329). -/
abbrev rRepMstat : Nat := 0x1500108
abbrev fRepMstatSpair : FP := ⟨0, 1⟩
abbrev fRepMstatVpair : FP := ⟨1, 1⟩
abbrev fRepMstatHandover : FP := ⟨2, 1⟩
abbrev fRepMstatEngpend : FP := ⟨3, 16⟩
abbrev fRepMstatProofok : FP := ⟨19, 1⟩
/-- REP.TCTL (R330). -/
abbrev rRepTctl : Nat := 0x1500110
abbrev fRepTctlKscale : FP := ⟨0, 6⟩
abbrev fRepTctlRot : FP := ⟨8, 5⟩
/-- REP.PCTL (R331). -/
abbrev rRepPctl : Nat := 0x1500118
abbrev fRepPctlProofint : FP := ⟨0, 16⟩
abbrev fRepPctlEncore : FP := ⟨16, 1⟩
abbrev fRepPctlPlainlim : FP := ⟨32, 16⟩
/-- REP.LATCH (R332). -/
abbrev rRepLatch : Nat := 0x1500120
abbrev fRepLatchSlatch : FP := ⟨0, 1⟩
abbrev fRepLatchVlatch : FP := ⟨1, 1⟩
abbrev fRepLatchSfails : FP := ⟨16, 16⟩
abbrev fRepLatchVfails : FP := ⟨32, 16⟩
/-- REP.PLAINS and REP.PLAINV (R333). -/
abbrev rRepPlain (n : Nat) : Nat := 0x1500128 + 0x8 * n
abbrev fRepPlainPlain : FP := ⟨0, 48⟩
/-- REP.FRCLOSE (R334). -/
abbrev rRepFrclose : Nat := 0x1500140
abbrev fRepFrcloseFrame : FP := ⟨0, 4⟩
abbrev fRepFrcloseGo : FP := ⟨4, 1⟩
/-- REP.FRCFGf (R335). -/
abbrev rRepFrcfg (n : Nat) : Nat := 0x1500200 + 0x10 * n
abbrev fRepFrcfgOffset : FP := ⟨12, 15⟩
abbrev fRepFrcfgSize : FP := ⟨28, 4⟩
abbrev fRepFrcfgWorld : FP := ⟨32, 1⟩
abbrev fRepFrcfgClear : FP := ⟨33, 1⟩
abbrev fRepFrcfgEn : FP := ⟨34, 1⟩
abbrev fRepFrcfgCueen : FP := ⟨35, 1⟩
abbrev fRepFrcfgClosecue : FP := ⟨36, 8⟩
/-- REP.FRSTATf (R336). -/
abbrev rRepFrstat (n : Nat) : Nat := 0x1500208 + 0x10 * n
abbrev fRepFrstatGen : FP := ⟨0, 32⟩
abbrev fRepFrstatClosedbuf : FP := ⟨32, 1⟩
abbrev fRepFrstatClosed : FP := ⟨33, 1⟩
abbrev fRepFrstatDefer : FP := ⟨34, 1⟩
abbrev fRepFrstatReaders : FP := ⟨35, 11⟩
abbrev fRepFrstatLate : FP := ⟨48, 16⟩
/-- CAL.PLACE (R434). -/
abbrev rCalPlace (b : Nat) : Nat := 0x1600010 + 0x100000 * b
abbrev fCalPlacePhys : FP := ⟨0, 4⟩
abbrev fCalPlaceQuad : FP := ⟨4, 3⟩
abbrev fCalPlaceHome : FP := ⟨7, 1⟩
abbrev fCalPlaceMigr : FP := ⟨8, 8⟩
/-- CAL.BEAT (R434). -/
abbrev rCalBeat (b : Nat) : Nat := 0x1600018 + 0x100000 * b
abbrev fCalBeatRate : FP := ⟨0, 16⟩
abbrev fCalBeatDrift : FP := ⟨16, 16⟩
abbrev fCalBeatUpd : FP := ⟨32, 16⟩
abbrev fCalBeatWorn : FP := ⟨48, 1⟩
/-- CAL.WSBASE (R434). -/
abbrev rCalWsbase (b : Nat) : Nat := 0x1600020 + 0x100000 * b
abbrev fCalWsbaseBase : FP := ⟨7, 41⟩
/-- CAL.WSLIM (R434). -/
abbrev rCalWslim (b : Nat) : Nat := 0x1600028 + 0x100000 * b
abbrev fCalWslimLimit : FP := ⟨7, 41⟩
/-- CAL.WSCTL (R434). -/
abbrev rCalWsctl (b : Nat) : Nat := 0x1600030 + 0x100000 * b
abbrev fCalWsctlSpillahead : FP := ⟨0, 3⟩
abbrev fCalWsctlFillahead : FP := ⟨4, 3⟩
/-- CAL.CACHE (R434). -/
abbrev rCalCache (b : Nat) : Nat := 0x1600038 + 0x100000 * b
abbrev fCalCacheIen : FP := ⟨0, 1⟩
abbrev fCalCacheDen : FP := ⟨1, 1⟩
/-- CAL.RETIRED (R434). -/
abbrev rCalRetired (b : Nat) : Nat := 0x1600040 + 0x100000 * b
abbrev fCalRetiredCount : FP := ⟨0, 48⟩
/-- CAL.SPILLS (R434). -/
abbrev rCalSpills (b : Nat) : Nat := 0x1600048 + 0x100000 * b
abbrev fCalSpillsSpills : FP := ⟨0, 32⟩
abbrev fCalSpillsRefills : FP := ⟨32, 32⟩
/-- CAL.WORLD (R459). -/
abbrev rCalWorld (b : Nat) : Nat := 0x1600100 + 0x100000 * b
abbrev fCalWorldWorld : FP := ⟨0, 1⟩
abbrev fCalWorldQuiesced : FP := ⟨1, 1⟩
/-- CAL.RESTART (R459). -/
abbrev rCalRestart (b : Nat) : Nat := 0x1600108 + 0x100000 * b
abbrev fCalRestartGo : FP := ⟨0, 1⟩
abbrev fCalRestartAddr : FP := ⟨2, 46⟩
/-- CAL.HOLDREP (R459). -/
abbrev rCalHoldrep (b : Nat) : Nat := 0x1600110 + 0x100000 * b
abbrev fCalHoldrepCode : FP := ⟨0, 6⟩
abbrev fCalHoldrepInhold : FP := ⟨7, 1⟩
abbrev fCalHoldrepPc : FP := ⟨16, 48⟩
/-- CAL.EXCCNT (R459). -/
abbrev rCalExccnt (b : Nat) : Nat := 0x1600118 + 0x100000 * b
abbrev fCalExccntEntries : FP := ⟨0, 32⟩
abbrev fCalExccntEscalations : FP := ⟨32, 16⟩
abbrev fCalExccntHolds : FP := ⟨48, 16⟩
/-- CAL.ENTRYLAT (R459). -/
abbrev rCalEntrylat (b : Nat) : Nat := 0x1600120 + 0x100000 * b
abbrev fCalEntrylatLast : FP := ⟨0, 8⟩
abbrev fCalEntrylatMax : FP := ⟨8, 8⟩
/-- SCP.SCRUB (R387). -/
abbrev rScpScrub : Nat := 0x1E00010
abbrev fScpScrubPeriod : FP := ⟨0, 16⟩
/-- SCP.CECNT (R387). -/
abbrev rScpCecnt : Nat := 0x1E00018
abbrev fScpCecntCount : FP := ⟨0, 48⟩
/-- SCP.UECNT (R387). -/
abbrev rScpUecnt : Nat := 0x1E00020
abbrev fScpUecntCount : FP := ⟨0, 32⟩
/-- SCP.BANKSEL (R387). -/
abbrev rScpBanksel : Nat := 0x1E00030
abbrev fScpBankselBank : FP := ⟨0, 11⟩
/-- SCP.BANKMAP (R387). -/
abbrev rScpBankmap : Nat := 0x1E00038
abbrev fScpBankmapPhys : FP := ⟨0, 12⟩
abbrev fScpBankmapSpared : FP := ⟨12, 1⟩
abbrev fScpBankmapCopying : FP := ⟨13, 1⟩
abbrev fScpBankmapWorn : FP := ⟨14, 1⟩
/-- SCP.SWAP (R387). -/
abbrev rScpSwap : Nat := 0x1E00040
abbrev fScpSwapBank : FP := ⟨0, 11⟩
abbrev fScpSwapGo : FP := ⟨16, 1⟩
/-- SCP.RLYCTLn (R180). -/
abbrev rScpRlyctl (n : Nat) : Nat := 0x1E04000 + 0x20 * n
abbrev fScpRlyctlOffset : FP := ⟨12, 15⟩
abbrev fScpRlyctlDepth : FP := ⟨28, 4⟩
abbrev fScpRlyctlWorld : FP := ⟨32, 1⟩
abbrev fScpRlyctlPkind : FP := ⟨33, 3⟩
abbrev fScpRlyctlPsel : FP := ⟨36, 6⟩
abbrev fScpRlyctlEn : FP := ⟨63, 1⟩
/-- SCP.RLYSTATn (R182). -/
abbrev rScpRlystat (n : Nat) : Nat := 0x1E04008 + 0x20 * n
abbrev fScpRlystatFill : FP := ⟨0, 13⟩
abbrev fScpRlystatCredit : FP := ⟨16, 13⟩
abbrev fScpRlystatPheld : FP := ⟨32, 1⟩
abbrev fScpRlystatCheld : FP := ⟨33, 1⟩
abbrev fScpRlystatPeng : FP := ⟨36, 4⟩
abbrev fScpRlystatCeng : FP := ⟨40, 4⟩
abbrev fScpRlystatPartial : FP := ⟨44, 1⟩
/-- SCP.RLYFLUSH (R183). -/
abbrev rScpRlyflush : Nat := 0x1E04800
abbrev fScpRlyflushRelay : FP := ⟨0, 6⟩
/-- MTX.REMAP (R377). -/
abbrev rMtxRemap : Nat := 0x2000010
abbrev fMtxRemapMap : FP := ⟨0, 1⟩
abbrev fMtxRemapZsel : FP := ⟨1, 2⟩
/-- MTX.ZBASE (R378). -/
abbrev rMtxZbase : Nat := 0x2000018
abbrev fMtxZbaseBase : FP := ⟨18, 30⟩
/-- MTX.HBMSPLIT (R379). -/
abbrev rMtxHbmsplit : Nat := 0x2000020
abbrev fMtxHbmsplitLocal : FP := ⟨0, 6⟩
/-- MTX.CNTSEL (R380). -/
abbrev rMtxCntsel (n : Nat) : Nat := 0x2000200 + 0x40 * n
abbrev fMtxCntselClass : FP := ⟨0, 2⟩
abbrev fMtxCntselIndex : FP := ⟨4, 12⟩
abbrev fMtxCntselReq : FP := ⟨16, 8⟩
/-- MTX.CNTGRANT (R381). -/
abbrev rMtxCntgrant (n : Nat) : Nat := 0x2000208 + 0x40 * n
abbrev fMtxCntgrantGrants : FP := ⟨0, 48⟩
/-- MTX.CNTWAIT (R381). -/
abbrev rMtxCntwait (n : Nat) : Nat := 0x2000210 + 0x40 * n
abbrev fMtxCntwaitWaited : FP := ⟨0, 48⟩
/-- MTX.CNTMAX (R381). -/
abbrev rMtxCntmax (n : Nat) : Nat := 0x2000218 + 0x40 * n
abbrev fMtxCntmaxLongest : FP := ⟨0, 32⟩
/-- MTX.WBASEn (R382). -/
abbrev rMtxWbase (w n : Nat) : Nat := 0x2001000 + 0x400 * w + 0x20 * n
abbrev fMtxWbaseBase : FP := ⟨12, 36⟩
/-- MTX.WLIMn (R382). -/
abbrev rMtxWlim (w n : Nat) : Nat := 0x2001008 + 0x400 * w + 0x20 * n
abbrev fMtxWlimLimit : FP := ⟨12, 36⟩
/-- MTX.WATTRn (R382). -/
abbrev rMtxWattr (w n : Nat) : Nat := 0x2001010 + 0x400 * w + 0x20 * n
abbrev fMtxWattrEn : FP := ⟨0, 1⟩
abbrev fMtxWattrRd : FP := ⟨1, 1⟩
abbrev fMtxWattrWr : FP := ⟨2, 1⟩
abbrev fMtxWattrEx : FP := ⟨3, 1⟩
abbrev fMtxWattrSup : FP := ⟨4, 1⟩
abbrev fMtxWattrNc : FP := ⟨5, 1⟩
abbrev fMtxWattrIntlv : FP := ⟨8, 3⟩
abbrev fMtxWattrWorld : FP := ⟨12, 1⟩
/-- CUE.FIRES, CUE.FIREV (R494). -/
abbrev rCueFires (n : Nat) : Nat := 0x2800010 + 0x8 * n
abbrev fCueFiresChannel : FP := ⟨0, 8⟩
abbrev fCueFiresGo : FP := ⟨8, 1⟩
/-- CUE.RATECTL (R494). -/
abbrev rCueRatectl : Nat := 0x2800020
abbrev fCueRatectlRatewin : FP := ⟨0, 20⟩
/-- CUE.GRPEN (R494). -/
abbrev rCueGrpen : Nat := 0x2800028
abbrev fCueGrpenEn : FP := ⟨0, 32⟩
/-- CUE.GRPSET, CUE.GRPCLR (R494). -/
abbrev rCueGrpset : Nat := 0x2800030
abbrev fCueGrpsetGroups : FP := ⟨0, 32⟩
/-- CUE.GRPSET, CUE.GRPCLR (R494). -/
abbrev rCueGrpclr : Nat := 0x2800038
abbrev fCueGrpclrGroups : FP := ⟨0, 32⟩
/-- CUE.GRPCTLg (R494). -/
abbrev rCueGrpctl (n : Nat) : Nat := 0x2800100 + 0x8 * n
abbrev fCueGrpctlOncue : FP := ⟨0, 8⟩
abbrev fCueGrpctlOnen : FP := ⟨8, 1⟩
abbrev fCueGrpctlOffcue : FP := ⟨16, 8⟩
abbrev fCueGrpctlOffen : FP := ⟨24, 1⟩
/-- CUE.CHCFGn (R494). -/
abbrev rCueChcfg (n : Nat) : Nat := 0x2801000 + 0x10 * n
abbrev fCueChcfgSpace : FP := ⟨0, 20⟩
abbrev fCueChcfgSunit : FP := ⟨20, 1⟩
abbrev fCueChcfgWorld : FP := ⟨21, 1⟩
abbrev fCueChcfgRatelim : FP := ⟨32, 16⟩
abbrev fCueChcfgRateoff : FP := ⟨48, 1⟩
/-- CUE.CHSTATn (R494). -/
abbrev rCueChstat (n : Nat) : Nat := 0x2801008 + 0x10 * n
abbrev fCueChstatFired : FP := ⟨0, 32⟩
abbrev fCueChstatIgnored : FP := ⟨32, 16⟩
abbrev fCueChstatRate : FP := ⟨48, 1⟩
/-- CUE.PINCFGi (R494). -/
abbrev rCuePincfg (n : Nat) : Nat := 0x2802000 + 0x10 * n
abbrev fCuePincfgEn : FP := ⟨0, 1⟩
abbrev fCuePincfgMode : FP := ⟨1, 1⟩
abbrev fCuePincfgPol : FP := ⟨2, 1⟩
abbrev fCuePincfgStuckt : FP := ⟨32, 32⟩
/-- CUE.PINSTATi (R494). -/
abbrev rCuePinstat (n : Nat) : Nat := 0x2802008 + 0x10 * n
abbrev fCuePinstatLevel : FP := ⟨0, 1⟩
abbrev fCuePinstatStuck : FP := ⟨1, 1⟩
abbrev fCuePinstatActs : FP := ⟨16, 32⟩
/-- CUE.OUTCFGo (R494). -/
abbrev rCueOutcfg (n : Nat) : Nat := 0x2802100 + 0x10 * n
abbrev fCueOutcfgEn : FP := ⟨0, 1⟩
abbrev fCueOutcfgMode : FP := ⟨1, 2⟩
abbrev fCueOutcfgPol : FP := ⟨3, 1⟩
abbrev fCueOutcfgLevel : FP := ⟨4, 1⟩
abbrev fCueOutcfgSel : FP := ⟨8, 8⟩
abbrev fCueOutcfgWidth : FP := ⟨16, 16⟩
/-- CUE.OUTSTATo (R494). -/
abbrev rCueOutstat (n : Nat) : Nat := 0x2802108 + 0x10 * n
abbrev fCueOutstatPin : FP := ⟨0, 1⟩
abbrev fCueOutstatPulses : FP := ⟨16, 32⟩
/-- CUE.TIMERt (R494). -/
abbrev rCueTimer (n : Nat) : Nat := 0x2802200 + 0x10 * n
abbrev fCueTimerEn : FP := ⟨0, 1⟩
abbrev fCueTimerPeriod : FP := ⟨32, 32⟩
/-- CUE.TPHASEt (R494). -/
abbrev rCueTphase (n : Nat) : Nat := 0x2802208 + 0x10 * n
abbrev fCueTphasePhase : FP := ⟨0, 27⟩
/-- CUE.FEEDf (R494). -/
abbrev rCueFeed (n : Nat) : Nat := 0x2802300 + 0x10 * n
abbrev fCueFeedEn : FP := ⟨0, 1⟩
abbrev fCueFeedDest : FP := ⟨1, 1⟩
abbrev fCueFeedFrame : FP := ⟨4, 4⟩
abbrev fCueFeedSel : FP := ⟨8, 8⟩
abbrev fCueFeedOffset : FP := ⟨16, 16⟩
/-- CUE.FEEDSTATf (R494). -/
abbrev rCueFeedstat (n : Nat) : Nat := 0x2802308 + 0x10 * n
abbrev fCueFeedstatSeq : FP := ⟨0, 32⟩
/-- CUE.MISSc (R494). -/
abbrev rCueMiss (n : Nat) : Nat := 0x2803000 + 0x8 * n
abbrev fCueMissMissed : FP := ⟨0, 32⟩
/-- IDS.EOI (R496). -/
abbrev rIdsEoi : Nat := 0x2900010
abbrev fIdsEoiSource : FP := ⟨0, 9⟩
/-- IDS.CALCTLn (R496). -/
abbrev rIdsCalctl (n : Nat) : Nat := 0x2900100 + 0x8 * n
abbrev fIdsCalctlEn : FP := ⟨0, 1⟩
abbrev fIdsCalctlThr : FP := ⟨8, 5⟩
/-- IDS.CALSTATn (R496). -/
abbrev rIdsCalstat (n : Nat) : Nat := 0x2900180 + 0x8 * n
abbrev fIdsCalstatAsleep : FP := ⟨0, 1⟩
abbrev fIdsCalstatHold : FP := ⟨1, 1⟩
abbrev fIdsCalstatOffer : FP := ⟨2, 1⟩
abbrev fIdsCalstatActive : FP := ⟨8, 8⟩
abbrev fIdsCalstatLastsrc : FP := ⟨16, 9⟩
/-- IDS.SRCCFGs (R496). -/
abbrev rIdsSrccfg (n : Nat) : Nat := 0x2901000 + 0x10 * n
abbrev fIdsSrccfgEn : FP := ⟨0, 1⟩
abbrev fIdsSrccfgLevel : FP := ⟨1, 1⟩
abbrev fIdsSrccfgWorld : FP := ⟨2, 1⟩
abbrev fIdsSrccfgWake : FP := ⟨3, 1⟩
abbrev fIdsSrccfgPrio : FP := ⟨4, 4⟩
abbrev fIdsSrccfgTarget : FP := ⟨16, 10⟩
/-- IDS.SRCSTATs (R496). -/
abbrev rIdsSrcstat (n : Nat) : Nat := 0x2901008 + 0x10 * n
abbrev fIdsSrcstatPend : FP := ⟨0, 1⟩
abbrev fIdsSrcstatActive : FP := ⟨1, 1⟩
abbrev fIdsSrcstatOvf : FP := ⟨2, 1⟩
abbrev fIdsSrcstatCount : FP := ⟨8, 8⟩
abbrev fIdsSrcstatActcal : FP := ⟨16, 4⟩
/-- SEA.CTL (R564). -/
abbrev rSeaCtl (b : Nat) : Nat := 0x2A00010 + 0x10000 * b
abbrev fSeaCtlPoly : FP := ⟨0, 2⟩
abbrev fSeaCtlMode : FP := ⟨2, 1⟩
abbrev fSeaCtlWorld : FP := ⟨3, 1⟩
abbrev fSeaCtlResen : FP := ⟨4, 1⟩
abbrev fSeaCtlRing : FP := ⟨8, 4⟩
/-- SEA.INIT (R564). -/
abbrev rSeaInit (b : Nat) : Nat := 0x2A00018 + 0x10000 * b
abbrev fSeaInitInit : FP := ⟨0, 64⟩
/-- SEA.FEEDB, SEA.FEEDH, SEA.FEEDW (R564). -/
abbrev rSeaFeedb (b : Nat) : Nat := 0x2A00020 + 0x10000 * b
abbrev fSeaFeedbData : FP := ⟨0, 8⟩
/-- SEA.FEEDB, SEA.FEEDH, SEA.FEEDW (R564). -/
abbrev rSeaFeedh (b : Nat) : Nat := 0x2A00028 + 0x10000 * b
abbrev fSeaFeedhData : FP := ⟨0, 16⟩
/-- SEA.FEEDB, SEA.FEEDH, SEA.FEEDW (R564). -/
abbrev rSeaFeedw (b : Nat) : Nat := 0x2A00030 + 0x10000 * b
abbrev fSeaFeedwData : FP := ⟨0, 32⟩
/-- SEA.CLOSE (R564). -/
abbrev rSeaClose (b : Nat) : Nat := 0x2A00038 + 0x10000 * b
abbrev fSeaCloseGo : FP := ⟨0, 1⟩
/-- SEA.SCANADDR (R564). -/
abbrev rSeaScanaddr (b : Nat) : Nat := 0x2A00040 + 0x10000 * b
abbrev fSeaScanaddrAddr : FP := ⟨0, 48⟩
/-- SEA.SCANLEN (R564). -/
abbrev rSeaScanlen (b : Nat) : Nat := 0x2A00048 + 0x10000 * b
abbrev fSeaScanlenLen : FP := ⟨0, 40⟩
abbrev fSeaScanlenCloseafter : FP := ⟨40, 1⟩
/-- SEA.ALIVE (R564). -/
abbrev rSeaAlive (b : Nat) : Nat := 0x2A00050 + 0x10000 * b
abbrev fSeaAliveAlive : FP := ⟨0, 32⟩
/-- SEA.CHKVAL (R564). -/
abbrev rSeaChkval (b : Nat) : Nat := 0x2A00058 + 0x10000 * b
abbrev fSeaChkvalValue : FP := ⟨0, 64⟩
/-- SEA.CHKALIVE (R564). -/
abbrev rSeaChkalive (b : Nat) : Nat := 0x2A00060 + 0x10000 * b
abbrev fSeaChkaliveAlive : FP := ⟨0, 32⟩
/-- SEA.RESULT (R564). -/
abbrev rSeaResult (b : Nat) : Nat := 0x2A00068 + 0x10000 * b
abbrev fSeaResultValue : FP := ⟨0, 64⟩
/-- SEA.STAT (R564). -/
abbrev rSeaStat (b : Nat) : Nat := 0x2A00070 + 0x10000 * b
abbrev fSeaStatOpen : FP := ⟨0, 1⟩
abbrev fSeaStatScanning : FP := ⟨1, 1⟩
abbrev fSeaStatHeld : FP := ⟨2, 1⟩
abbrev fSeaStatHolder : FP := ⟨3, 2⟩
abbrev fSeaStatFail : FP := ⟨5, 1⟩
abbrev fSeaStatFailwhy : FP := ⟨6, 2⟩
abbrev fSeaStatTag : FP := ⟨8, 16⟩
abbrev fSeaStatBytes : FP := ⟨24, 40⟩
/-- SEA.RESADDR (R564). -/
abbrev rSeaResaddr (b : Nat) : Nat := 0x2A00078 + 0x10000 * b
abbrev fSeaResaddrBase : FP := ⟨4, 44⟩
/-- SEA.PLACE (R564). -/
abbrev rSeaPlace (b : Nat) : Nat := 0x2A00080 + 0x10000 * b
abbrev fSeaPlacePhys : FP := ⟨0, 3⟩
abbrev fSeaPlaceMigr : FP := ⟨8, 8⟩
/-- ARC.CTL (R533). -/
abbrev rArcCtl : Nat := 0x2B00010
abbrev fArcCtlOp : FP := ⟨0, 5⟩
abbrev fArcCtlSplit : FP := ⟨8, 7⟩
abbrev fArcCtlCommitint : FP := ⟨16, 14⟩
abbrev fArcCtlVreads : FP := ⟨30, 1⟩
abbrev fArcCtlVerify : FP := ⟨31, 1⟩
abbrev fArcCtlCommitcue : FP := ⟨32, 8⟩
abbrev fArcCtlCueen : FP := ⟨40, 1⟩
/-- ARC.GEOM (R533). -/
abbrev rArcGeom : Nat := 0x2B00018
abbrev fArcGeomTargets : FP := ⟨0, 7⟩
abbrev fArcGeomLpddr4 : FP := ⟨7, 1⟩
abbrev fArcGeomRate : FP := ⟨8, 12⟩
abbrev fArcGeomPlanes : FP := ⟨20, 3⟩
abbrev fArcGeomBits : FP := ⟨23, 3⟩
abbrev fArcGeomRawgb : FP := ⟨32, 16⟩
/-- ARC.TGTSEL (R533). -/
abbrev rArcTgtsel : Nat := 0x2B00020
abbrev fArcTgtselTarget : FP := ⟨0, 6⟩
/-- ARC.TGTSTAT (R533). -/
abbrev rArcTgtstat : Nat := 0x2B00028
abbrev fArcTgtstatUsed : FP := ⟨0, 1⟩
abbrev fArcTgtstatRefused : FP := ⟨1, 1⟩
abbrev fArcTgtstatBad : FP := ⟨16, 16⟩
abbrev fArcTgtstatPemax : FP := ⟨32, 16⟩
abbrev fArcTgtstatPeavg : FP := ⟨48, 16⟩
/-- ARC.MEDIA (R533). -/
abbrev rArcMedia : Nat := 0x2B00030
abbrev fArcMediaRdlim : FP := ⟨0, 16⟩
abbrev fArcMediaWlspread : FP := ⟨16, 16⟩
abbrev fArcMediaRetage : FP := ⟨32, 16⟩
/-- ARC.WAITLIM (R533). -/
abbrev rArcWaitlim : Nat := 0x2B00038
abbrev fArcWaitlimLimit : FP := ⟨0, 20⟩
/-- ARC.SPACEw (R533). -/
abbrev rArcSpace (w : Nat) : Nat := 0x2B00040 + 0x8 * w
abbrev fArcSpaceFree : FP := ⟨0, 48⟩
abbrev fArcSpaceSpare : FP := ⟨48, 16⟩
/-- ARC.COMMITw (R533). -/
abbrev rArcCommit (w : Nat) : Nat := 0x2B00050 + 0x8 * w
abbrev fArcCommitLast : FP := ⟨0, 47⟩
abbrev fArcCommitAny : FP := ⟨47, 1⟩
abbrev fArcCommitOpen : FP := ⟨48, 5⟩
/-- ARC.RELEASEw (R533). -/
abbrev rArcRelease (w : Nat) : Nat := 0x2B00060 + 0x8 * w
abbrev fArcReleaseBelow : FP := ⟨0, 47⟩
/-- ARC.AUDFROM (R533). -/
abbrev rArcAudfrom : Nat := 0x2B00070
abbrev fArcAudfromShelfmark : FP := ⟨0, 64⟩
/-- ARC.AUDIT (R533). -/
abbrev rArcAudit : Nat := 0x2B00078
abbrev fArcAuditCount : FP := ⟨0, 32⟩
abbrev fArcAuditUnit : FP := ⟨32, 3⟩
abbrev fArcAuditGo : FP := ⟨40, 1⟩
/-- ARC.AUDSTAT (R533). -/
abbrev rArcAudstat : Nat := 0x2B00080
abbrev fArcAudstatDone : FP := ⟨0, 32⟩
abbrev fArcAudstatBusy : FP := ⟨32, 1⟩
abbrev fArcAudstatBad : FP := ⟨48, 16⟩
/-- ARC.RETRY (R533). -/
abbrev rArcRetry : Nat := 0x2B00088
abbrev fArcRetryHard : FP := ⟨0, 16⟩
abbrev fArcRetrySoft : FP := ⟨16, 16⟩
abbrev fArcRetryUncorr : FP := ⟨32, 16⟩
/-- ARC.THRU (R533). -/
abbrev rArcThru : Nat := 0x2B00090
abbrev fArcThruMbps : FP := ⟨0, 32⟩
abbrev fArcThruReloc : FP := ⟨32, 10⟩
/-- ARC.RECOV (R533). -/
abbrev rArcRecov : Nat := 0x2B00098
abbrev fArcRecovDone : FP := ⟨0, 1⟩
abbrev fArcRecovOrderly : FP := ⟨1, 1⟩
abbrev fArcRecovDiscarded : FP := ⟨16, 16⟩
abbrev fArcRecovVoids : FP := ⟨32, 16⟩
abbrev fArcRecovMs : FP := ⟨48, 16⟩
/-- ARC.BOOTSRC (R533). -/
abbrev rArcBootsrc : Nat := 0x2B000A0
abbrev fArcBootsrcAddr : FP := ⟨0, 48⟩
/-- ARC.BOOTCTL (R533). -/
abbrev rArcBootctl : Nat := 0x2B000A8
abbrev fArcBootctlLength : FP := ⟨0, 23⟩
abbrev fArcBootctlCopy : FP := ⟨23, 1⟩
abbrev fArcBootctlGo : FP := ⟨24, 1⟩
abbrev fArcBootctlBusy : FP := ⟨25, 1⟩
abbrev fArcBootctlOk : FP := ⟨26, 1⟩
/-- LNK.PCTL (R559). -/
abbrev rLnkPctl (b : Nat) : Nat := 0x2C00010 + 0x40000 * b
abbrev fLnkPctlEn : FP := ⟨0, 1⟩
abbrev fLnkPctlSpeed : FP := ⟨1, 2⟩
abbrev fLnkPctlAn : FP := ⟨3, 1⟩
abbrev fLnkPctlFec : FP := ⟨4, 2⟩
/-- LNK.PSTAT (R559). -/
abbrev rLnkPstat (b : Nat) : Nat := 0x2C00018 + 0x40000 * b
abbrev fLnkPstatLinkup : FP := ⟨0, 1⟩
abbrev fLnkPstatSpeed : FP := ⟨1, 2⟩
abbrev fLnkPstatFec : FP := ⟨3, 2⟩
abbrev fLnkPstatSecup : FP := ⟨5, 1⟩
/-- LNK.MACADDR (R559). -/
abbrev rLnkMacaddr (b : Nat) : Nat := 0x2C00020 + 0x40000 * b
abbrev fLnkMacaddrAddr : FP := ⟨0, 48⟩
/-- LNK.ETYPE (R559). -/
abbrev rLnkEtype (b : Nat) : Nat := 0x2C00028 + 0x40000 * b
abbrev fLnkEtypeEtype : FP := ⟨0, 16⟩
/-- LNK.PTPCTL (R559). -/
abbrev rLnkPtpctl (b : Nat) : Nat := 0x2C00030 + 0x40000 * b
abbrev fLnkPtpctlEn : FP := ⟨0, 1⟩
abbrev fLnkPtpctlDomain : FP := ⟨8, 8⟩
abbrev fLnkPtpctlSynclim : FP := ⟨32, 16⟩
/-- LNK.PTPTIME (R559). -/
abbrev rLnkPtptime (b : Nat) : Nat := 0x2C00038 + 0x40000 * b
abbrev fLnkPtptimeTime : FP := ⟨0, 64⟩
/-- LNK.PTPSTAT (R559). -/
abbrev rLnkPtpstat (b : Nat) : Nat := 0x2C00040 + 0x40000 * b
abbrev fLnkPtpstatSync : FP := ⟨0, 1⟩
abbrev fLnkPtpstatOffset : FP := ⟨32, 32⟩
/-- LNK.GCLCTL (R559). -/
abbrev rLnkGclctl (b : Nat) : Nat := 0x2C00048 + 0x40000 * b
abbrev fLnkGclctlEn : FP := ⟨0, 1⟩
abbrev fLnkGclctlCount : FP := ⟨2, 6⟩
abbrev fLnkGclctlCycle : FP := ⟨8, 32⟩
/-- LNK.GCLBASE (R559). -/
abbrev rLnkGclbase (b : Nat) : Nat := 0x2C00050 + 0x40000 * b
abbrev fLnkGclbaseBase : FP := ⟨0, 64⟩
/-- LNK.GCLn (R559). -/
abbrev rLnkGcl (b n : Nat) : Nat := 0x2C00100 + 0x40000 * b + 0x8 * n
abbrev fLnkGclGates : FP := ⟨0, 8⟩
abbrev fLnkGclInterval : FP := ⟨8, 32⟩
/-- LNK.TXBASEw (R559). -/
abbrev rLnkTxbase (b w : Nat) : Nat := 0x2C00300 + 0x40000 * b + 0x20 * w
abbrev fLnkTxbaseBase : FP := ⟨6, 42⟩
/-- LNK.TXCTLw (R559). -/
abbrev rLnkTxctl (b w : Nat) : Nat := 0x2C00308 + 0x40000 * b + 0x20 * w
abbrev fLnkTxctlEn : FP := ⟨0, 1⟩
abbrev fLnkTxctlSize : FP := ⟨1, 4⟩
abbrev fLnkTxctlCueen : FP := ⟨5, 1⟩
abbrev fLnkTxctlCuesel : FP := ⟨8, 8⟩
/-- LNK.TXTAILw (R559). -/
abbrev rLnkTxtail (b w : Nat) : Nat := 0x2C00310 + 0x40000 * b + 0x20 * w
abbrev fLnkTxtailTail : FP := ⟨0, 16⟩
/-- LNK.TXHEADw (R559). -/
abbrev rLnkTxhead (b w : Nat) : Nat := 0x2C00318 + 0x40000 * b + 0x20 * w
abbrev fLnkTxheadHead : FP := ⟨0, 16⟩
/-- LNK.FILTf (R559). -/
abbrev rLnkFilt (b n : Nat) : Nat := 0x2C00400 + 0x40000 * b + 0x10 * n
abbrev fLnkFiltEn : FP := ⟨0, 1⟩
abbrev fLnkFiltVid : FP := ⟨1, 12⟩
abbrev fLnkFiltPcp : FP := ⟨13, 3⟩
abbrev fLnkFiltAnypcp : FP := ⟨16, 1⟩
abbrev fLnkFiltMaxsdu : FP := ⟨17, 11⟩
abbrev fLnkFiltRate : FP := ⟨32, 16⟩
abbrev fLnkFiltBurst : FP := ⟨48, 16⟩
/-- LNK.FILTCNTf (R559). -/
abbrev rLnkFiltcnt (b n : Nat) : Nat := 0x2C00408 + 0x40000 * b + 0x10 * n
abbrev fLnkFiltcntPassed : FP := ⟨0, 32⟩
abbrev fLnkFiltcntDropped : FP := ⟨32, 16⟩
/-- LNK.SECCTL (R559). -/
abbrev rLnkSecctl (b : Nat) : Nat := 0x2C00600 + 0x40000 * b
abbrev fLnkSecctlTxen : FP := ⟨0, 1⟩
abbrev fLnkSecctlRxen : FP := ⟨1, 1⟩
abbrev fLnkSecctlTxan : FP := ⟨2, 2⟩
abbrev fLnkSecctlOwner : FP := ⟨4, 1⟩
abbrev fLnkSecctlWindow : FP := ⟨32, 32⟩
/-- LNK.TXSCI, LNK.RXSCI (R559). -/
abbrev rLnkTxsci (b : Nat) : Nat := 0x2C00608 + 0x40000 * b
abbrev fLnkTxsciSci : FP := ⟨0, 64⟩
/-- LNK.TXSCI, LNK.RXSCI (R559). -/
abbrev rLnkRxsci (b : Nat) : Nat := 0x2C00610 + 0x40000 * b
abbrev fLnkRxsciSci : FP := ⟨0, 64⟩
/-- LNK.TXPN (R559). -/
abbrev rLnkTxpn (b : Nat) : Nat := 0x2C00618 + 0x40000 * b
abbrev fLnkTxpnPn : FP := ⟨0, 64⟩
/-- LNK.KEYSEL (R559). -/
abbrev rLnkKeysel (b : Nat) : Nat := 0x2C00620 + 0x40000 * b
abbrev fLnkKeyselDir : FP := ⟨0, 1⟩
abbrev fLnkKeyselAn : FP := ⟨1, 2⟩
abbrev fLnkKeyselWord : FP := ⟨3, 3⟩
abbrev fLnkKeyselValid : FP := ⟨8, 1⟩
/-- LNK.KEYDATA (R559). -/
abbrev rLnkKeydata (b : Nat) : Nat := 0x2C00628 + 0x40000 * b
abbrev fLnkKeydataData : FP := ⟨0, 64⟩
/-- LNK.CNTSEL (R559). -/
abbrev rLnkCntsel (b : Nat) : Nat := 0x2C00700 + 0x40000 * b
abbrev fLnkCntselIndex : FP := ⟨0, 4⟩
/-- LNK.CNT (R559). -/
abbrev rLnkCnt (b : Nat) : Nat := 0x2C00708 + 0x40000 * b
abbrev fLnkCntCount : FP := ⟨0, 48⟩
/-- LNK.TXSCTLn (R559). -/
abbrev rLnkTxsctl (n : Nat) : Nat := 0x2C10000 + 0x20 * n
abbrev fLnkTxsctlEn : FP := ⟨0, 1⟩
abbrev fLnkTxsctlWorld : FP := ⟨1, 1⟩
abbrev fLnkTxsctlPorts : FP := ⟨2, 4⟩
abbrev fLnkTxsctlCb : FP := ⟨6, 1⟩
abbrev fLnkTxsctlSealreq : FP := ⟨7, 1⟩
abbrev fLnkTxsctlPcp : FP := ⟨8, 3⟩
abbrev fLnkTxsctlVid : FP := ⟨12, 12⟩
/-- LNK.TXSDAn (R559). -/
abbrev rLnkTxsda (n : Nat) : Nat := 0x2C10008 + 0x20 * n
abbrev fLnkTxsdaDa : FP := ⟨0, 48⟩
/-- LNK.TXSIDn, LNK.RXSIDn (R559). -/
abbrev rLnkTxsid (n : Nat) : Nat := 0x2C10010 + 0x20 * n
abbrev fLnkTxsidSender : FP := ⟨0, 32⟩
abbrev fLnkTxsidReceiver : FP := ⟨32, 32⟩
/-- LNK.TXSSTATn (R559). -/
abbrev rLnkTxsstat (n : Nat) : Nat := 0x2C10018 + 0x20 * n
abbrev fLnkTxsstatAlive : FP := ⟨0, 16⟩
abbrev fLnkTxsstatRseq : FP := ⟨16, 16⟩
abbrev fLnkTxsstatRefused : FP := ⟨32, 16⟩
/-- LNK.RXSCTLn (R559). -/
abbrev rLnkRxsctl (n : Nat) : Nat := 0x2C20000 + 0x40 * n
abbrev fLnkRxsctlEn : FP := ⟨0, 1⟩
abbrev fLnkRxsctlWorld : FP := ⟨1, 1⟩
abbrev fLnkRxsctlPorts : FP := ⟨2, 4⟩
abbrev fLnkRxsctlElim : FP := ⟨6, 1⟩
abbrev fLnkRxsctlHist : FP := ⟨7, 5⟩
abbrev fLnkRxsctlGap : FP := ⟨12, 8⟩
abbrev fLnkRxsctlDigchk : FP := ⟨20, 1⟩
abbrev fLnkRxsctlCue : FP := ⟨21, 1⟩
abbrev fLnkRxsctlPush : FP := ⟨22, 1⟩
/-- LNK.TXSIDn, LNK.RXSIDn (R559). -/
abbrev rLnkRxsid (n : Nat) : Nat := 0x2C20008 + 0x40 * n
abbrev fLnkRxsidSender : FP := ⟨0, 32⟩
abbrev fLnkRxsidReceiver : FP := ⟨32, 32⟩
/-- LNK.RXSDIGn (R559). -/
abbrev rLnkRxsdig (n : Nat) : Nat := 0x2C20010 + 0x40 * n
abbrev fLnkRxsdigDigest : FP := ⟨0, 64⟩
/-- LNK.RXSTIMEn (R559). -/
abbrev rLnkRxstime (n : Nat) : Nat := 0x2C20018 + 0x40 * n
abbrev fLnkRxstimeMaxage : FP := ⟨0, 32⟩
abbrev fLnkRxstimeSkew : FP := ⟨32, 32⟩
/-- LNK.RXSDESTn (R559). -/
abbrev rLnkRxsdest (n : Nat) : Nat := 0x2C20020 + 0x40 * n
abbrev fLnkRxsdestDest : FP := ⟨0, 1⟩
abbrev fLnkRxsdestRelaysel : FP := ⟨1, 6⟩
abbrev fLnkRxsdestFrame : FP := ⟨8, 4⟩
abbrev fLnkRxsdestOffset : FP := ⟨16, 24⟩
/-- LNK.RXSSTATn (R559). -/
abbrev rLnkRxsstat (n : Nat) : Nat := 0x2C20028 + 0x40 * n
abbrev fLnkRxsstatAlive : FP := ⟨0, 16⟩
abbrev fLnkRxsstatFirst : FP := ⟨16, 1⟩
abbrev fLnkRxsstatResync : FP := ⟨17, 1⟩
abbrev fLnkRxsstatLastrej : FP := ⟨20, 4⟩
abbrev fLnkRxsstatAccepted : FP := ⟨32, 32⟩
/-- LNK.RXSCNTn (R559). -/
abbrev rLnkRxscnt (n : Nat) : Nat := 0x2C20030 + 0x40 * n
abbrev fLnkRxscntRejected : FP := ⟨0, 16⟩
abbrev fLnkRxscntGaps : FP := ⟨16, 16⟩
abbrev fLnkRxscntEliminated : FP := ⟨32, 16⟩
abbrev fLnkRxscntDropped : FP := ⟨48, 16⟩
/-- HST.PCTL (R591). -/
abbrev rHstPctl : Nat := 0x2D00010
abbrev fHstPctlMaxgen : FP := ⟨0, 3⟩
abbrev fHstPctlCto : FP := ⟨8, 12⟩
/-- HST.PSTAT (R591). -/
abbrev rHstPstat : Nat := 0x2D00018
abbrev fHstPstatLinkup : FP := ⟨0, 1⟩
abbrev fHstPstatGen : FP := ⟨1, 3⟩
abbrev fHstPstatWidth : FP := ⟨4, 5⟩
abbrev fHstPstatFlit : FP := ⟨9, 1⟩
abbrev fHstPstatBme : FP := ⟨10, 2⟩
/-- HST.OBBASEw (R591). -/
abbrev rHstObbase (w : Nat) : Nat := 0x2D00020 + 0x8 * w
abbrev fHstObbaseBase : FP := ⟨40, 24⟩
/-- HST.DBGBASEw (R591). -/
abbrev rHstDbgbase (w : Nat) : Nat := 0x2D00030 + 0x8 * w
abbrev fHstDbgbaseBase : FP := ⟨24, 24⟩
/-- HST.CFGCTL (R591). -/
abbrev rHstCfgctl : Nat := 0x2D00040
abbrev fHstCfgctlStageen : FP := ⟨0, 1⟩
/-- HST.SQBASEn, HST.CQBASEn (R591). -/
abbrev rHstSqbase (w n : Nat) : Nat := 0x2D10000 + 0x10000 * w + 0x20 * n
abbrev fHstSqbaseBase : FP := ⟨6, 58⟩
/-- HST.SQCTLn (R591). -/
abbrev rHstSqctl (w n : Nat) : Nat := 0x2D10008 + 0x10000 * w + 0x20 * n
abbrev fHstSqctlEn : FP := ⟨0, 1⟩
abbrev fHstSqctlSize : FP := ⟨1, 4⟩
abbrev fHstSqctlCq : FP := ⟨8, 6⟩
/-- HST.SQSTATn (R591). -/
abbrev rHstSqstat (w n : Nat) : Nat := 0x2D10010 + 0x10000 * w + 0x20 * n
abbrev fHstSqstatHead : FP := ⟨0, 16⟩
abbrev fHstSqstatTail : FP := ⟨16, 16⟩
abbrev fHstSqstatInprog : FP := ⟨32, 4⟩
abbrev fHstSqstatWaitcq : FP := ⟨36, 1⟩
/-- HST.SQBASEn, HST.CQBASEn (R591). -/
abbrev rHstCqbase (w n : Nat) : Nat := 0x2D10800 + 0x10000 * w + 0x20 * n
abbrev fHstCqbaseBase : FP := ⟨6, 58⟩
/-- HST.CQCTLn (R591). -/
abbrev rHstCqctl (w n : Nat) : Nat := 0x2D10808 + 0x10000 * w + 0x20 * n
abbrev fHstCqctlEn : FP := ⟨0, 1⟩
abbrev fHstCqctlSize : FP := ⟨1, 4⟩
abbrev fHstCqctlIrqen : FP := ⟨5, 1⟩
abbrev fHstCqctlVector : FP := ⟨8, 7⟩
abbrev fHstCqctlCoalcnt : FP := ⟨16, 8⟩
abbrev fHstCqctlCoalus : FP := ⟨32, 16⟩
/-- HST.CQSTATn (R591). -/
abbrev rHstCqstat (w n : Nat) : Nat := 0x2D10810 + 0x10000 * w + 0x20 * n
abbrev fHstCqstatTail : FP := ⟨0, 16⟩
abbrev fHstCqstatHead : FP := ⟨16, 16⟩
abbrev fHstCqstatPhase : FP := ⟨32, 1⟩
abbrev fHstCqstatHeld : FP := ⟨33, 8⟩
/-- UST.POLICY (R616). -/
abbrev rUstPolicy : Nat := 0x2F00010
abbrev fUstPolicyAuto : FP := ⟨0, 6⟩
abbrev fUstPolicyDriftlim : FP := ⟨8, 8⟩
abbrev fUstPolicyCelim : FP := ⟨16, 8⟩
abbrev fUstPolicyDefer : FP := ⟨24, 1⟩
abbrev fUstPolicyDeferlim : FP := ⟨32, 16⟩
/-- UST.STCTL (R616). -/
abbrev rUstStctl : Nat := 0x2F00018
abbrev fUstStctlEn : FP := ⟨0, 1⟩
abbrev fUstStctlPeriod : FP := ⟨16, 16⟩
/-- UST.SWAP (R616). -/
abbrev rUstSwap : Nat := 0x2F00020
abbrev fUstSwapKind : FP := ⟨0, 3⟩
abbrev fUstSwapTarget : FP := ⟨8, 8⟩
abbrev fUstSwapLane : FP := ⟨16, 5⟩
abbrev fUstSwapPhys : FP := ⟨24, 5⟩
abbrev fUstSwapGo : FP := ⟨32, 1⟩
/-- UST.SWAPSTAT (R616). -/
abbrev rUstSwapstat : Nat := 0x2F00028
abbrev fUstSwapstatBusy : FP := ⟨0, 1⟩
abbrev fUstSwapstatQueued : FP := ⟨1, 5⟩
abbrev fUstSwapstatKind : FP := ⟨6, 3⟩
abbrev fUstSwapstatIndex : FP := ⟨16, 12⟩
abbrev fUstSwapstatResult : FP := ⟨28, 4⟩
abbrev fUstSwapstatTime : FP := ⟨32, 32⟩
/-- UST.INVENT (R616). -/
abbrev rUstInvent : Nat := 0x2F00030
abbrev fUstInventEng : FP := ⟨0, 3⟩
abbrev fUstInventLanes : FP := ⟨4, 6⟩
abbrev fUstInventCal : FP := ⟨10, 2⟩
abbrev fUstInventBanks : FP := ⟨12, 7⟩
abbrev fUstInventCmp : FP := ⟨19, 1⟩
abbrev fUstInventSeal : FP := ⟨20, 2⟩
/-- UST.CALOCC (R616). -/
abbrev rUstCalocc : Nat := 0x2F00038
abbrev fUstCaloccLog : FP := ⟨0, 4⟩
abbrev fUstCaloccWorn : FP := ⟨4, 1⟩
abbrev fUstCaloccOff : FP := ⟨5, 1⟩
/-- UST.RESSEL (R616). -/
abbrev rUstRessel : Nat := 0x2F00040
abbrev fUstResselIndex : FP := ⟨0, 12⟩
/-- UST.RESSTAT (R616). -/
abbrev rUstResstat : Nat := 0x2F00048
abbrev fUstResstatLogical : FP := ⟨0, 6⟩
abbrev fUstResstatWorn : FP := ⟨6, 1⟩
abbrev fUstResstatFree : FP := ⟨7, 1⟩
abbrev fUstResstatStfail : FP := ⟨8, 1⟩
abbrev fUstResstatErrs : FP := ⟨16, 16⟩
abbrev fUstResstatDrift : FP := ⟨32, 16⟩
abbrev fUstResstatTests : FP := ⟨48, 8⟩
/-- UST.RESREC (R616). -/
abbrev rUstResrec : Nat := 0x2F00050
abbrev fUstResrecLogical : FP := ⟨0, 6⟩
abbrev fUstResrecWorn : FP := ⟨6, 1⟩
abbrev fUstResrecBase : FP := ⟨16, 16⟩
/-- CUS.MODE (R650). -/
abbrev rCusMode : Nat := 0x2E00010
abbrev fCusModeMode : FP := ⟨0, 4⟩
abbrev fCusModePrev : FP := ⟨4, 4⟩
abbrev fCusModeTransit : FP := ⟨8, 1⟩
abbrev fCusModeEntry : FP := ⟨12, 4⟩
abbrev fCusModeCount : FP := ⟨16, 32⟩
/-- CUS.MODECTL (R650). -/
abbrev rCusModectl : Nat := 0x2E00018
abbrev fCusModectlTarget : FP := ⟨0, 4⟩
abbrev fCusModectlAfter : FP := ⟨4, 4⟩
abbrev fCusModectlGo : FP := ⟨8, 1⟩
/-- CUS.READY (R650). -/
abbrev rCusReady : Nat := 0x2E00020
abbrev fCusReadyReady : FP := ⟨0, 64⟩
/-- CUS.CURTPOL (R650). -/
abbrev rCusCurtpol : Nat := 0x2E00028
abbrev fCusCurtpolCallhold : FP := ⟨0, 1⟩
abbrev fCusCurtpolUnderrate : FP := ⟨1, 1⟩
abbrev fCusCurtpolOvertemp : FP := ⟨2, 1⟩
abbrev fCusCurtpolRehfail : FP := ⟨3, 1⟩
abbrev fCusCurtpolDigmismatch : FP := ⟨4, 1⟩
/-- CUS.CALSTART (R650). -/
abbrev rCusCalstart : Nat := 0x2E00030
abbrev fCusCalstartCallers : FP := ⟨0, 8⟩
/-- CUS.STARTADDR (R650). -/
abbrev rCusStartaddr : Nat := 0x2E00038
abbrev fCusStartaddrAddr : FP := ⟨2, 46⟩
/-- CUS.BOOTSTAT (R650). -/
abbrev rCusBootstat : Nat := 0x2E00040
abbrev fCusBootstatStrap : FP := ⟨0, 2⟩
abbrev fCusBootstatSource : FP := ⟨2, 2⟩
abbrev fCusBootstatDone : FP := ⟨4, 1⟩
abbrev fCusBootstatFailed : FP := ⟨5, 1⟩
/-- CUS.BOOTLOAD (R650). -/
abbrev rCusBootload : Nat := 0x2E00048
abbrev fCusBootloadCopy : FP := ⟨0, 1⟩
abbrev fCusBootloadGo : FP := ⟨1, 1⟩
abbrev fCusBootloadBusy : FP := ⟨2, 1⟩
abbrev fCusBootloadOk : FP := ⟨3, 1⟩
abbrev fCusBootloadLength : FP := ⟨32, 32⟩
/-- CUS.TIME (R650). -/
abbrev rCusTime : Nat := 0x2E00050
abbrev fCusTimeTime : FP := ⟨0, 64⟩
/-- CUS.ALARMCTL (R497). -/
abbrev rCusAlarmctl : Nat := 0x2E00200
abbrev fCusAlarmctlWidth : FP := ⟨0, 14⟩
abbrev fCusAlarmctlHold : FP := ⟨16, 1⟩
/-- CUS.ALARMSTAT (R497). -/
abbrev rCusAlarmstat : Nat := 0x2E00208
abbrev fCusAlarmstatLow : FP := ⟨0, 1⟩
abbrev fCusAlarmstatPulsing : FP := ⟨1, 1⟩
abbrev fCusAlarmstatPulses : FP := ⟨16, 32⟩
/-- PWR.DOMSTAT (R653). -/
abbrev rPwrDomstat : Nat := 0x3000010
abbrev fPwrDomstatOn : FP := ⟨0, 50⟩
/-- PWR.DOMCTL (R653). -/
abbrev rPwrDomctl : Nat := 0x3000018
abbrev fPwrDomctlOff : FP := ⟨0, 50⟩
/-- PWR.RESTRAIN (R653). -/
abbrev rPwrRestrain : Nat := 0x3000020
abbrev fPwrRestrainCap : FP := ⟨0, 12⟩
abbrev fPwrRestrainTrip : FP := ⟨16, 8⟩
abbrev fPwrRestrainThermen : FP := ⟨24, 1⟩
abbrev fPwrRestrainVtrip : FP := ⟨32, 10⟩
/-- PWR.RSTAT (R653). -/
abbrev rPwrRstat : Nat := 0x3000028
abbrev fPwrRstatActive : FP := ⟨0, 1⟩
abbrev fPwrRstatCause : FP := ⟨1, 4⟩
abbrev fPwrRstatEvents : FP := ⟨32, 16⟩
/-- PWR.VCORE (R653). -/
abbrev rPwrVcore : Nat := 0x3000030
abbrev fPwrVcoreMv : FP := ⟨0, 16⟩
/-- PWR.TEMPn (R653). -/
abbrev rPwrTemp (n : Nat) : Nat := 0x3000100 + 0x8 * n
abbrev fPwrTempTemp : FP := ⟨0, 9⟩
abbrev fPwrTempValid : FP := ⟨9, 1⟩
/-- CFG.STATUS (R655). -/
abbrev rCfgStatus : Nat := 0x3100010
abbrev fCfgStatusCommitted : FP := ⟨0, 1⟩
abbrev fCfgStatusApplying : FP := ⟨1, 1⟩
abbrev fCfgStatusDigbusy : FP := ⟨2, 1⟩
abbrev fCfgStatusLastfail : FP := ⟨8, 3⟩
abbrev fCfgStatusFailentry : FP := ⟨16, 12⟩
abbrev fCfgStatusCommits : FP := ⟨32, 16⟩
/-- CFG.COMMIT (R655). -/
abbrev rCfgCommit : Nat := 0x3100018
abbrev fCfgCommitCount : FP := ⟨0, 13⟩
abbrev fCfgCommitPreview : FP := ⟨13, 1⟩
abbrev fCfgCommitAbort : FP := ⟨14, 1⟩
abbrev fCfgCommitCheck : FP := ⟨32, 32⟩
/-- CFG.DIGEST (R655). -/
abbrev rCfgDigest : Nat := 0x3100020
abbrev fCfgDigestDigest : FP := ⟨0, 64⟩
/-- CFG.DIGSTAT (R655). -/
abbrev rCfgDigstat : Nat := 0x3100028
abbrev fCfgDigstatSeq : FP := ⟨0, 32⟩
abbrev fCfgDigstatMatch : FP := ⟨32, 1⟩
/-- CFG.STAGEDIG (R655). -/
abbrev rCfgStagedig : Nat := 0x3100030
abbrev fCfgStagedigDigest : FP := ⟨0, 64⟩
/-- CFG.EXPECT (R655). -/
abbrev rCfgExpect : Nat := 0x3100038
abbrev fCfgExpectDigest : FP := ⟨0, 64⟩
/-- CFG.DIGCTL (R655). -/
abbrev rCfgDigctl : Nat := 0x3100040
abbrev fCfgDigctlExpecten : FP := ⟨0, 1⟩
/-- CFG.CLAMPLOG (R655). -/
abbrev rCfgClamplog : Nat := 0x3100048
abbrev fCfgClamplogOffset : FP := ⟨0, 23⟩
abbrev fCfgClamplogLsb : FP := ⟨23, 6⟩
abbrev fCfgClamplogStaged : FP := ⟨29, 1⟩
abbrev fCfgClamplogValid : FP := ⟨31, 1⟩
abbrev fCfgClamplogSource : FP := ⟨32, 8⟩
abbrev fCfgClamplogValue : FP := ⟨40, 24⟩
/-- CFG.CLAMPCNT (R655). -/
abbrev rCfgClampcnt : Nat := 0x3100050
abbrev fCfgClampcntDropped : FP := ⟨0, 16⟩
/-- The fault-group register at block offset `o` of the block instance with block index `k` (R477, R491). -/
def faultBase (k : Nat) : Nat :=
  match Blk.all.find? fun b => decide (b.place.index ≤ k ∧ k < b.place.index + b.place.count) with
  | some b => b.place.base + (k - b.place.index) * b.place.stride
  | none => 0

/-! The fault group of the block instance with block index `k` (R491, R492). -/
def rFltStat (k : Nat) : Nat := faultBase k + 0xF00
def rFltFirst0 (k : Nat) : Nat := faultBase k + 0xF08
def rFltFirsta (k : Nat) : Nat := faultBase k + 0xF10
def rFltFirstt (k : Nat) : Nat := faultBase k + 0xF18
def rFltLost (k : Nat) : Nat := faultBase k + 0xF20
def rFltLostcnt (k : Nat) : Nat := faultBase k + 0xF28
def rFltMen (k : Nat) : Nat := faultBase k + 0xF30
def rFltSen (k : Nat) : Nat := faultBase k + 0xF38
def rFltAlarmen (k : Nat) : Nat := faultBase k + 0xF40
abbrev fFltFirst0Valid : FP := ⟨5, 1⟩
abbrev fFltLostcntCount : FP := ⟨0, 16⟩
abbrev fFltInjectKind : FP := ⟨0, 5⟩
abbrev fFltInjectGo : FP := ⟨8, 1⟩

end Sys2Proof.Machine
end

