-- ==== Sys2Proof/Machine/Flags.lean ====
section
/-!
DEFINITION. The five sticky flags of R103, in the bit order of R219 and R236.
-/
namespace Sys2Proof.Machine

/-- No flag. -/
def fl0 : Flags := 0
/-- NV, invalid. -/
def flNV : Flags := 1
/-- DZ, divide by zero. -/
def flDZ : Flags := 2
/-- OF, overflow. -/
def flOF : Flags := 4
/-- UF, underflow. -/
def flUF : Flags := 8
/-- NX, inexact. -/
def flNX : Flags := 16

/-- The flag `f` when `b` holds. -/
def flIf (b : Bool) (f : Flags) : Flags := if b then f else 0

/-- A result with the flags that its computation raises. -/
abbrev Res := Nat × Flags

/-- The results of a list of computations, their flags united (R152, R262). -/
def Res.collect : List Res → List Nat × Flags
  | [] => ([], 0)
  | r :: rs => let t := Res.collect rs; (r.1 :: t.1, r.2 ||| t.2)

end Sys2Proof.Machine
end

