-- ==== Sys2Proof/Machine/Operands.lean ====
section
/-!
DEFINITION. Element types of stream orders and callers (R63, R106, R248, R251), rounding modes (R62, R259) and the
binary and decimal formats.
-/
namespace Sys2Proof.Machine

/-- Rounding modes (R62, R259). -/
inductive Rnd where
  | rne | rz | ru | rd | rna
  deriving DecidableEq, Repr

/-- The rounding named by a code 000 to 100; other codes do not name one (R62). -/
def Rnd.ofCode : Nat → Rnd
  | 0 => .rne | 1 => .rz | 2 => .ru | 3 => .rd | 4 => .rna | _ => .rne

/-- The mode in which a reprise rounds the negation of a scaled exact result: RU and RD exchange (R286). -/
def Rnd.exchange : Rnd → Rnd
  | .ru => .rd
  | .rd => .ru
  | rm => rm

/-- A floating format: radix, precision, exponent range, width (R248, R251). -/
structure Fmt where
  dec : Bool
  p : Nat
  emin : Int
  emax : Int
  w : Nat
  deriving DecidableEq, Repr

/-- The radix of a format. -/
def Fmt.radix (f : Fmt) : Nat := if f.dec then 10 else 2

/-- The least exponent q (R251; for binary formats the exponent of S, R250). -/
def Fmt.qmin (f : Fmt) : Int := f.emin - (f.p - 1 : Nat)

/-- The greatest exponent q. -/
def Fmt.qmax (f : Fmt) : Int := f.emax - (f.p - 1 : Nat)

def fp16 : Fmt := ⟨false, 11, -14, 15, 16⟩
def bf16 : Fmt := ⟨false, 8, -126, 127, 16⟩
def fp32 : Fmt := ⟨false, 24, -126, 127, 32⟩
def fp64 : Fmt := ⟨false, 53, -1022, 1023, 64⟩
def dec64 : Fmt := ⟨true, 16, -383, 384, 64⟩
def dec128 : Fmt := ⟨true, 34, -6143, 6144, 128⟩

/-- Element types by kind: integers with sign and width, floating formats, BIT, and the reserved code. -/
inductive ETy where
  | int (signed : Bool) (w : Nat)
  | flt (f : Fmt)
  | bit
  | bad
  deriving DecidableEq, Repr

/-- The element type of a type code (R63). -/
def ETy.ofCode : Nat → ETy
  | 0 => .int true 8 | 1 => .int true 16 | 2 => .int true 32 | 3 => .int true 64
  | 4 => .int false 8 | 5 => .int false 16 | 6 => .int false 32 | 7 => .int false 64
  | 8 => .flt fp16 | 9 => .flt bf16 | 10 => .flt fp32 | 11 => .flt fp64
  | 12 => .flt dec64 | 13 => .flt dec128 | 14 => .bit | _ => .bad

/-- Width in bits (R63). -/
def ETy.w : ETy → Nat
  | .int _ w => w
  | .flt f => f.w
  | .bit => 1
  | .bad => 8

/-- Element size in bytes; a BIT immediate takes one byte (R63). -/
def ETy.bytes (t : ETy) : Nat := (t.w + 7) / 8

def ETy.isInt : ETy → Bool | .int _ _ => true | _ => false
def ETy.isSInt : ETy → Bool | .int s _ => s | _ => false
def ETy.isBit : ETy → Bool | .bit => true | _ => false
def ETy.isBfp : ETy → Bool | .flt f => !f.dec | _ => false
def ETy.isDec : ETy → Bool | .flt f => f.dec | _ => false
def ETy.isFlt : ETy → Bool | .flt _ => true | _ => false
/-- FTZ applies to FP16 and BF16 alone (R104, R265). -/
def Fmt.flushes (f : Fmt) : Bool := !f.dec && f.w == 16

/-- The value of an integer element (R257). -/
def ETy.toInt (t : ETy) (x : Nat) : Int :=
  match t with
  | .int true w => toSigned w x
  | t => (x % 2 ^ t.w : Nat)

/-- The least value of an integer type. -/
def ETy.minVal : ETy → Int
  | .int true w => -((2 ^ (w - 1) : Nat) : Int)
  | _ => 0

/-- The greatest value of an integer type. -/
def ETy.maxVal : ETy → Int
  | .int true w => ((2 ^ (w - 1) : Nat) : Int) - 1
  | t => ((2 ^ t.w : Nat) : Int) - 1

end Sys2Proof.Machine
end

