-- ==== Sys2Proof/Machine/Arith.lean ====
section
/-!
DEFINITION. The single arithmetic of engines and callers (R247): binary and decimal floating point with one rounding of
the exact result (R258 to R261), zero signs (R263), flush to zero (R265, R266), NaN rules (R267 to R270), preferred
exponents (R112, R256), and wrapping and saturating integers (R103, R110, R114, R257). Results are encodings, held as
numbers below 2 to the width.
-/
namespace Sys2Proof.Machine

/-- The meaning of an encoding (R249, R252 to R254): a NaN with sign, signalling bit and payload; an infinity; or the
finite value of sign `s`, coefficient `m` and exponent `q` of the radix. -/
inductive FVal where
  | nan (s sig : Bool) (pl : Nat)
  | inf (s : Bool)
  | fin (s : Bool) (m : Nat) (q : Int)
  deriving DecidableEq, Repr

/-- Sign bit of an encoding. -/
def Fmt.sign (f : Fmt) (x : Nat) : Bool := x.testBit (f.w - 1)

/-- The sign bit's weight when `s` holds. -/
def Fmt.sbit (f : Fmt) (s : Bool) : Nat := if s then 2 ^ (f.w - 1) else 0

/-- Width of a binary exponent field. -/
def Fmt.ew (f : Fmt) : Nat := f.w - f.p

/-- Decode a binary encoding (R249). -/
def decodeBin (f : Fmt) (x : Nat) : FVal :=
  let s := f.sign x
  let F := x % 2 ^ (f.p - 1)
  let E := x / 2 ^ (f.p - 1) % 2 ^ f.ew
  if E = 2 ^ f.ew - 1 then
    if F = 0 then .inf s else .nan s (!F.testBit (f.p - 2)) (F % 2 ^ (f.p - 2))
  else if E = 0 then .fin s F f.qmin
  else .fin s (2 ^ (f.p - 1) + F) (f.qmin + (E - 1 : Nat))

/-- Places of the decimal fields: width of the trailing coefficient of the small form (R252, R253). -/
def Fmt.tw (f : Fmt) : Nat := if f.w = 64 then 53 else 113

/-- Decode a decimal encoding (R252 to R254). -/
def decodeDec (f : Fmt) (x : Nat) : FVal :=
  let s := f.sign x
  let c5 := x / 2 ^ (f.w - 6) % 32
  let t := f.tw
  let ebits := f.w - 1 - t
  if c5 = 31 then
    let pw := if f.w = 64 then 50 else 110
    let pl := x % 2 ^ pw
    .nan s (x.testBit (f.w - 7)) (if pl < 10 ^ (f.p - 1) then pl else 0)
  else if c5 = 30 then .inf s
  else
    let big := decide (c5 ≥ 24)
    let e := if big then x / 2 ^ (t - 2) % 2 ^ ebits else x / 2 ^ t % 2 ^ ebits
    let m := if big then 2 ^ t + x % 2 ^ (t - 2) else x % 2 ^ t
    .fin s (if m < 10 ^ f.p then m else 0) (f.qmin + (e : Nat))

/-- Decode an encoding. -/
def Fmt.decode (f : Fmt) (x : Nat) : FVal := if f.dec then decodeDec f x else decodeBin f x

/-- Encode a finite decimal value whose coefficient and exponent fit. -/
def encodeDec (f : Fmt) (s : Bool) (m : Nat) (q : Int) : Nat :=
  let t := f.tw
  let e := (q - f.qmin).toNat
  f.sbit s + (if m < 2 ^ t then e * 2 ^ t + m
    else 3 * 2 ^ (f.w - 3) + e * 2 ^ (t - 2) + (m - 2 ^ t))

/-- Encode a finite binary value: `m` below 2 to the p with exponent `q`, at `qmin` when `m` lies below the normals. -/
def encodeBin (f : Fmt) (s : Bool) (m : Nat) (q : Int) : Nat :=
  f.sbit s + (if m < 2 ^ (f.p - 1) then m
    else ((q - f.qmin).toNat + 1) * 2 ^ (f.p - 1) + (m - 2 ^ (f.p - 1)))

/-- An infinity of sign `s` (R250, R255). -/
def Fmt.infinity (f : Fmt) (s : Bool) : Nat :=
  f.sbit s + (if f.dec then 30 * 2 ^ (f.w - 6) else (2 ^ f.ew - 1) * 2 ^ (f.p - 1))

/-- A quiet NaN of sign `s` and payload `pl` (R249, R252). -/
def Fmt.qnan (f : Fmt) (s : Bool) (pl : Nat) : Nat :=
  f.sbit s + (if f.dec then 31 * 2 ^ (f.w - 6)
    else (2 ^ f.ew - 1) * 2 ^ (f.p - 1) + 2 ^ (f.p - 2)) + pl

/-- The default NaN D (R250, R255). -/
def Fmt.defNan (f : Fmt) : Nat := f.qnan false 0

/-- The largest finite magnitude H with sign `s` (R250, R255). -/
def Fmt.huge (f : Fmt) (s : Bool) : Nat :=
  if f.dec then encodeDec f s (10 ^ f.p - 1) f.qmax else encodeBin f s (2 ^ f.p - 1) f.qmax

/-- Encode a finite value of the format. -/
def Fmt.encode (f : Fmt) (s : Bool) (m : Nat) (q : Int) : Nat :=
  if f.dec then encodeDec f s m q else encodeBin f s m q

/-- A zero of sign `s`; a decimal zero takes the exponent `q` brought into range (R112, R263). -/
def Fmt.zero (f : Fmt) (s : Bool) (q : Int) : Nat :=
  if f.dec then encodeDec f s 0 (max f.qmin (min q f.qmax)) else f.sbit s

/-- The number of decimal digits of `n`, for `n > 0`. -/
def ndigits (n : Nat) : Nat :=
  let d := n.log2 * 1233 / 4096
  if 10 ^ (d + 1) ≤ n then d + 2 else d + 1

/-- Is `num/den` below radix to the `e`? -/
def ratLt (r num den : Nat) (e : Int) : Bool :=
  if 0 ≤ e then decide (num < den * r ^ e.toNat) else decide (num * r ^ (-e).toNat < den)

/-- The floor of the radix logarithm of `num/den`, both positive. -/
def floorLog (r num den : Nat) : Int :=
  let e : Int := if r = 2 then (num.log2 : Int) - den.log2 else (ndigits num : Int) - ndigits den
  if ratLt r num den e then e - 1 else e

/-- Round `num/den` to an integer in a mode, for a value of sign `s` (R259). -/
def roundQuot (rm : Rnd) (s : Bool) (num den : Nat) : Nat :=
  let q := num / den
  let r := num % den
  let up := match rm with
    | .rne => decide (2 * r > den) || (decide (2 * r = den) && decide (q % 2 = 1))
    | .rz => false
    | .ru => !s && decide (r ≠ 0)
    | .rd => s && decide (r ≠ 0)
    | .rna => decide (2 * r ≥ den)
  if up then q + 1 else q

/-- Round `num/den` in units of radix to the `q`: the coefficient and whether it is inexact. -/
def roundAt (rm : Rnd) (s : Bool) (r num den : Nat) (q : Int) : Nat × Bool :=
  let n := if 0 ≤ q then num else num * r ^ (-q).toNat
  let d := if 0 ≤ q then den * r ^ q.toNat else den
  (roundQuot rm s n d, decide (n % d ≠ 0))

/-- Trailing decimal zeros of `m`, at most `k`. -/
def trailZeros : Nat → Nat → Nat
  | 0, _ => 0
  | k + 1, m => if m % 10 = 0 then trailZeros k (m / 10) + 1 else 0

/-- Round the exact value `(-1)^s · num/den`, `num` and `den` positive, to the format with preferred exponent `pe`
(R256, R258 to R261, R265). -/
def roundFmt (f : Fmt) (rm : Rnd) (ftz : Bool) (pe : Int) (s : Bool) (num den : Nat) : Res :=
  let r := f.radix
  let lg := floorLog r num den
  let q0 := lg - (f.p - 1 : Nat)
  let (m0, _) := roundAt rm s r num den q0
  let lg0 := if m0 = r ^ f.p then lg + 1 else lg
  let tiny := if f.dec then decide (lg < f.emin) else decide (lg0 < f.emin)
  if lg0 > f.emax then
    let big := match rm with
      | .rne | .rna => true
      | .rz => false
      | .ru => !s
      | .rd => s
    (if big then f.infinity s else f.huge s, flOF ||| flNX)
  else if tiny && ftz && f.flushes then (f.zero s 0, flUF ||| flNX)
  else
    let q1 := max q0 f.qmin
    let (m1, inex) := roundAt rm s r num den q1
    let full := decide (m1 = r ^ f.p)
    let m := if full then r ^ (f.p - 1) else m1
    let q := if full then q1 + 1 else q1
    let fl := flIf inex flNX ||| flIf (inex && tiny) flUF
    if inex || !f.dec then (f.encode s m q, fl)
    else
      let k := min (trailZeros f.p m : Int) (max 0 (min pe f.qmax - q))
      (f.encode s (m / 10 ^ k.toNat) (q + k), fl)

/-- Read an operand: under FTZ a subnormal FP16 or BF16 operand is a zero of its sign (R265). -/
def Fmt.read (f : Fmt) (ftz : Bool) (x : Nat) : FVal :=
  match f.decode x with
  | .fin s m q => if ftz && f.flushes && decide (m < 2 ^ (f.p - 1)) then .fin s 0 q else .fin s m q
  | v => v

/-- The NaN rule of R267 on the operands in order: `none` when no operand is a NaN. -/
def nanRule (f : Fmt) (vs : List FVal) : Option Res :=
  let sig := vs.any fun v => match v with | .nan _ g _ => g | _ => false
  vs.findSome? fun v => match v with
    | .nan s _ pl => some (f.qnan s pl, flIf sig flNV)
    | _ => none

/-- The invalid result D with NV (R267). -/
def Fmt.invalid (f : Fmt) : Res := (f.defNan, flNV)

/-- The value of sign and magnitude as a fraction `num/den` given coefficient and exponent. -/
def fracNum (r m : Nat) (q : Int) : Nat := if 0 ≤ q then m * r ^ q.toNat else m
def fracDen (r : Nat) (q : Int) : Nat := if 0 ≤ q then 1 else r ^ (-q).toNat

/-- Round the integer multiple `v` of radix to the `q`; the zero sign is that of R263 unless `z` fixes it. -/
def roundInt (f : Fmt) (rm : Rnd) (ftz : Bool) (pe : Int) (v : Int) (q : Int) (z : Option Bool) : Res :=
  if v = 0 then (f.zero (z.getD (rm == .rd)) pe, 0)
  else roundFmt f rm ftz pe (decide (v < 0)) (fracNum f.radix v.natAbs q) (fracDen f.radix q)

/-- The signed coefficient of a value at the lower exponent `q`. -/
def signedAt (r : Nat) (s : Bool) (m : Nat) (q0 q : Int) : Int :=
  let x : Int := (m * r ^ (q0 - q).toNat : Nat)
  if s then -x else x

/-- Sum of two decoded values without NaNs (R263, R273). -/
def addVals (f : Fmt) (rm : Rnd) (ftz : Bool) : FVal → FVal → Res
  | .inf s, .inf t => if s = t then (f.infinity s, 0) else f.invalid
  | .inf s, _ => (f.infinity s, 0)
  | _, .inf t => (f.infinity t, 0)
  | .fin s m q, .fin t n u =>
    let e := min q u
    let v := signedAt f.radix s m q e + signedAt f.radix t n u e
    roundInt f rm ftz e v e (if m = 0 ∧ n = 0 ∧ s = t then some s else none)
  | _, _ => f.invalid

/-- The negation of a value; NaNs keep their sign (R268). -/
def FVal.neg : FVal → FVal
  | .inf s => .inf (!s)
  | .fin s m q => .fin (!s) m q
  | v => v

/-- a + b. -/
def fAdd (f : Fmt) (rm : Rnd) (ftz : Bool) (a b : Nat) : Res :=
  let x := f.read ftz a; let y := f.read ftz b
  (nanRule f [x, y]).getD (addVals f rm ftz x y)

/-- a − b (R268: the sign of a propagated NaN is kept). -/
def fSub (f : Fmt) (rm : Rnd) (ftz : Bool) (a b : Nat) : Res :=
  let x := f.read ftz a; let y := f.read ftz b
  (nanRule f [x, y]).getD (addVals f rm ftz x y.neg)

/-- a · b. -/
def fMul (f : Fmt) (rm : Rnd) (ftz : Bool) (a b : Nat) : Res :=
  let x := f.read ftz a; let y := f.read ftz b
  (nanRule f [x, y]).getD (match x, y with
    | .inf s, .inf t => (f.infinity (s != t), 0)
    | .inf s, .fin t m _ => if m = 0 then f.invalid else (f.infinity (s != t), 0)
    | .fin s m _, .inf t => if m = 0 then f.invalid else (f.infinity (s != t), 0)
    | .fin s m q, .fin t n u =>
      let z := s != t
      roundInt f rm ftz (q + u) (if z then -((m * n : Nat) : Int) else (m * n : Nat)) (q + u) (some z)
    | _, _ => f.invalid)

/-- The order in which a fused operation looks for a NaN (R268): a·b, c as listed; the addend first, where it is a running
partial value; or the addend before the second factor, where that is xprev of LINREC. -/
inductive NanOrd where
  | abc | cab | acb
  deriving DecidableEq, Repr

/-- The operands of a fused operation in that order. -/
def NanOrd.sort {α : Type} (o : NanOrd) (x y w : α) : List α :=
  match o with
  | .abc => [x, y, w]
  | .cab => [w, x, y]
  | .acb => [x, w, y]

/-- ±(a·b) ± c with one rounding: `np` negates the product, `nc` the addend (R109, R269, R273); `o` is the order of
operands in the NaN rule. -/
def fFmaOrd (o : NanOrd) (f : Fmt) (rm : Rnd) (ftz np nc : Bool) (a b c : Nat) : Res :=
  let x := f.read ftz a; let y := f.read ftz b; let w := f.read ftz c
  let zero_inf := match x, y with
    | .fin _ m _, .inf _ => decide (m = 0)
    | .inf _, .fin _ m _ => decide (m = 0)
    | _, _ => false
  if zero_inf then (nanRule f [w]).getD f.invalid
  else (nanRule f (o.sort x y w)).getD (
    let c' := if nc then w.neg else w
    match x, y with
    | .fin s m q, .fin t n u =>
      let z := (s != t) != np
      match c' with
      | .inf g => (f.infinity g, 0)
      | .fin g k v =>
        let e := min (q + u) v
        let sum := signedAt f.radix z (m * n) (q + u) e + signedAt f.radix g k v e
        roundInt f rm ftz e sum e (if m * n = 0 ∧ k = 0 ∧ z = g then some z else none)
      | _ => f.invalid
    | .inf s, .inf t => addVals f rm ftz (.inf ((s != t) != np)) c'
    | .inf s, .fin t _ _ => addVals f rm ftz (.inf ((s != t) != np)) c'
    | .fin s _ _, .inf t => addVals f rm ftz (.inf ((s != t) != np)) c'
    | _, _ => f.invalid)

/-- The fused operation of the FMA family: NaN operands in the order A, B, C (R268). -/
def fFma (f : Fmt) (rm : Rnd) (ftz np nc : Bool) (a b c : Nat) : Res := fFmaOrd .abc f rm ftz np nc a b c

/-- a / b (R110 for integers stands apart). -/
def fDiv (f : Fmt) (rm : Rnd) (ftz : Bool) (a b : Nat) : Res :=
  let x := f.read ftz a; let y := f.read ftz b
  (nanRule f [x, y]).getD (match x, y with
    | .inf _, .inf _ => f.invalid
    | .inf s, .fin t _ _ => (f.infinity (s != t), 0)
    | .fin s _ q, .inf t => (f.zero (s != t) (if f.dec then f.qmin else q), 0)
    | .fin s m q, .fin t n u =>
      let z := s != t
      if n = 0 then (if m = 0 then f.invalid else (f.infinity z, flDZ))
      else if m = 0 then (f.zero z (q - u), 0)
      else roundFmt f rm ftz (q - u) z (m * fracNum f.radix 1 (q - u)) (n * fracDen f.radix (q - u))
    | _, _ => f.invalid)

/-- The floor of the square root of `n`, found bit by bit from bit `k - 1` down. -/
def isqrtFrom : Nat → Nat → Nat → Nat
  | 0, _, r => r
  | k + 1, n, r => isqrtFrom k n (if (r + 2 ^ k) ^ 2 ≤ n then r + 2 ^ k else r)

/-- The floor of the square root. -/
def isqrt (n : Nat) : Nat := isqrtFrom (n.log2 / 2 + 1) n 0

/-- √a. -/
def fSqrt (f : Fmt) (rm : Rnd) (ftz : Bool) (a : Nat) : Res :=
  let x := f.read ftz a
  (nanRule f [x]).getD (match x with
    | .inf s => if s then f.invalid else (f.infinity false, 0)
    | .fin s m q =>
      let pe := q / 2
      if m = 0 then (f.zero s pe, 0)
      else if s then f.invalid
      else
        let r := f.radix
        -- an even exponent, and enough digits that the root has more than p + 2
        let d := if f.dec then 2 * f.p + 6 else 2 * f.p + 6
        let sh := d + (if (q - d) % 2 = 0 then 0 else 1)
        let n := m * r ^ sh
        let rt := isqrt n
        let ex := decide (rt * rt = n)
        let e := (q - sh) / 2
        let num := if ex then rt else 4 * rt + 1
        let den := if ex then 1 else 4
        roundFmt f rm ftz pe false (num * fracNum r 1 e) (den * fracDen r e)
    | v => (nanRule f [v]).getD f.invalid)

/-- Compare two finite or infinite values. -/
def FVal.key : Nat → FVal → FVal → Ordering
  | _, .inf s, .inf t => compare (if s then 0 else 1) (if t then 0 else 1)
  | _, .inf s, _ => if s then .lt else .gt
  | _, _, .inf t => if t then .gt else .lt
  | r, .fin s m q, .fin t n u =>
    let e := min q u
    compare (signedAt r s m q e) (signedAt r t n u e)
  | _, _, _ => .eq

/-- Is the value a NaN? -/
def FVal.isNan : FVal → Bool | .nan _ _ _ => true | _ => false
/-- Is the value a signalling NaN? -/
def FVal.isSnan : FVal → Bool | .nan _ g _ => g | _ => false

/-- Encode a decoded value again, in canonical form (R254). -/
def Fmt.recode (f : Fmt) : FVal → Nat
  | .nan s _ pl => f.qnan s pl
  | .inf s => f.infinity s
  | .fin s m q => f.encode s m q

/-- Sign of a value. -/
def FVal.sgn : FVal → Bool
  | .nan s _ _ => s
  | .inf s => s
  | .fin s _ _ => s

/-- MIN (`mx` false) and MAX (R111, R266, R273). -/
def fMinMax (f : Fmt) (mx ftz : Bool) (a b : Nat) : Res :=
  let x := f.read ftz a; let y := f.read ftz b
  (nanRule f [x, y]).getD (
    let first := match FVal.key f.radix x y with
      | .lt => !mx
      | .gt => mx
      | .eq => if f.dec && x.sgn == y.sgn then true else if mx then !x.sgn else x.sgn
    (f.recode (if first then x else y), 0))

/-- Round a finite value to an integral value in the same format (R119). -/
def fRndint (f : Fmt) (rm : Rnd) (ftz : Bool) (a : Nat) : Res :=
  let x := f.read ftz a
  (nanRule f [x]).getD (match x with
    | .fin s m q =>
      if 0 ≤ q then (f.encode s m q, 0)
      else
        let (n, inex) := roundAt rm s f.radix m (f.radix ^ (-q).toNat) 0
        if n = 0 then (f.zero s 0, flIf inex flNX)
        else ((roundFmt f rm false 0 s n 1).1, flIf inex flNX)
    | v => (f.recode v, 0))

/-- QUANTIZE: the value of a with the exponent of b (R119, R273, R278). -/
def fQuantize (f : Fmt) (rm : Rnd) (a b : Nat) : Res :=
  let x := f.decode a; let y := f.decode b
  (nanRule f [x, y]).getD (match x, y with
    | .inf s, .inf _ => (f.infinity s, 0)
    | .fin s m q, .fin _ _ u =>
      let (n, inex) := roundAt rm s f.radix (m * fracNum f.radix 1 q) (fracDen f.radix q) u
      if n < f.radix ^ f.p then (f.encode s n u, flIf inex flNX) else f.invalid
    | _, _ => f.invalid)

/-- The integer part of a finite value, toward zero. -/
def truncInt (r : Nat) (s : Bool) (m : Nat) (q : Int) : Int :=
  let n : Int := if 0 ≤ q then (m * r ^ q.toNat : Nat) else (m / r ^ (-q).toNat : Nat)
  if s then -n else n

/-- SCALEB: a · radix^m, m being b toward zero (R151, R267, R269, R273); the preferred exponent is that of a plus m, for a
zero too (R112). -/
def fScaleb (f : Fmt) (rm : Rnd) (ftz : Bool) (a b : Nat) : Res :=
  let x := f.read ftz a; let y := f.read ftz b
  match x, y with
  | .nan _ _ _, _ => (nanRule f [x, y]).getD f.invalid
  | _, .nan _ _ _ => f.invalid
  | _, .inf _ => f.invalid
  | .fin s m q, .fin t n u =>
    -- beyond 20 000 the result is the same overflow or underflow
    let k := max (-20000) (min (truncInt f.radix t n u) 20000)
    if m = 0 then (f.zero s (q + k), 0)
    else roundFmt f rm ftz (q + k) s (fracNum f.radix m (q + k)) (fracDen f.radix (q + k))
  | v, _ => (f.recode v, 0)

/-- An integer value in a floating format, preferred exponent 0 (R117). -/
def intToFlt (f : Fmt) (rm : Rnd) (ftz : Bool) (v : Int) : Res := roundInt f rm ftz 0 v 0 (some false)

/-- LOGB (R151, R273, R274). -/
def fLogb (f : Fmt) (rm : Rnd) (ftz : Bool) (a : Nat) : Res :=
  let x := f.read ftz a
  (nanRule f [x]).getD (match x with
    | .inf _ => (f.infinity false, 0)
    | .fin _ m q =>
      if m = 0 then (f.infinity true, flDZ)
      else intToFlt f rm false (floorLog f.radix (fracNum f.radix m q) (fracDen f.radix q))
    | v => (nanRule f [v]).getD f.invalid)

/-- CLASS code (R151). -/
def fClass (f : Fmt) (a : Nat) : Nat :=
  match f.decode a with
  | .nan _ g _ => if g then 0 else 1
  | .inf s => if s then 2 else 9
  | .fin s m q =>
    if m = 0 then (if s then 5 else 6)
    else
      let sub := decide (floorLog f.radix (fracNum f.radix m q) (fracDen f.radix q) < f.emin)
      if s then (if sub then 4 else 3) else (if sub then 7 else 8)

/-- ABS, NEG and COPYSIGN change the sign bit alone (R110, R269). -/
def fAbs (f : Fmt) (a : Nat) : Nat := a % 2 ^ (f.w - 1)
def fNeg (f : Fmt) (a : Nat) : Nat := a % 2 ^ (f.w - 1) + f.sbit (!f.sign a)
def fCopysign (f : Fmt) (a b : Nat) : Nat := a % 2 ^ (f.w - 1) + f.sbit (f.sign b)

/-- A NaN of format `f` carried into format `g` (R267, R270). -/
def cvtNan (f g : Fmt) (s sig : Bool) (pl : Nat) : Res :=
  let fl := flIf sig flNV
  if f.dec != g.dec then (g.qnan s 0, fl)
  else if f.dec then (g.qnan s (if pl < 10 ^ (g.p - 1) then pl else 0), fl)
  else if g.p ≤ f.p then (g.qnan s (pl / 2 ^ (f.p - g.p)), fl)
  else (g.qnan s (pl * 2 ^ (g.p - f.p)), fl)

/-- CVT between floating formats (R117, R270). -/
def fltToFlt (f g : Fmt) (rm : Rnd) (ftz : Bool) (a : Nat) : Res :=
  match f.read ftz a with
  | .nan s sig pl => cvtNan f g s sig pl
  | .inf s => (g.infinity s, 0)
  | .fin s m q =>
    let pe : Int := if f.dec then q else 0
    if m = 0 then (g.zero s pe, 0)
    else roundFmt g rm ftz pe s (fracNum f.radix m q) (fracDen f.radix q)

/-- CVT and CVTSAT from a floating format to an integer type (R117, R118, R276). -/
def fltToInt (f : Fmt) (t : ETy) (rm : Rnd) (ftz sat : Bool) (a : Nat) : Res :=
  let bad : Nat := wrapInt t.w t.minVal
  match f.read ftz a with
  | .nan _ _ _ => (if sat then 0 else bad, flNV)
  | .inf s => (if sat then wrapInt t.w (if s then t.minVal else t.maxVal) else bad, flNV)
  | .fin s m q =>
    let (n, inex) := roundAt rm s f.radix (fracNum f.radix m q) (fracDen f.radix q) 0
    let v : Int := if s then -(n : Int) else n
    if t.minVal ≤ v ∧ v ≤ t.maxVal then (wrapInt t.w v, flIf inex flNX)
    else (if sat then wrapInt t.w (if s then t.minVal else t.maxVal) else bad, flNV)

/-- Clamp an exact integer to a type, with OF when it saturates (R103). -/
def satInt (t : ETy) (v : Int) : Res :=
  if v < t.minVal then (wrapInt t.w t.minVal, flOF)
  else if t.maxVal < v then (wrapInt t.w t.maxVal, flOF) else (wrapInt t.w v, 0)

/-- CVT (R117). -/
def cvtVal (src tgt : ETy) (rm : Rnd) (ftz : Bool) (a : Nat) : Res :=
  match src, tgt with
  | .flt f, .flt g => fltToFlt f g rm ftz a
  | .flt f, t => fltToInt f t rm ftz false a
  | s, .flt g => intToFlt g rm ftz (s.toInt a)
  | s, t => (wrapInt t.w (s.toInt a), 0)

/-- CVTSAT (R118). -/
def cvtSatVal (src tgt : ETy) (rm : Rnd) (ftz : Bool) (a : Nat) : Res :=
  match src with
  | .flt f => fltToInt f tgt rm ftz true a
  | s => satInt tgt (s.toInt a)

/-- Integer division toward zero; by zero it gives 0 and DZ (R110). -/
def intDiv (t : ETy) (a b : Nat) : Res :=
  let x := t.toInt a; let y := t.toInt b
  if y = 0 then (0, flDZ) else (wrapInt t.w (x.tdiv y), 0)

/-- Leading zero bits of a `w`-bit value (R116). -/
def clzNat (w x : Nat) : Nat := if x % 2 ^ w = 0 then w else w - 1 - (x % 2 ^ w).log2

/-- One bits among the low `w` bits (R116). -/
def popNat : Nat → Nat → Nat
  | 0, _ => 0
  | w + 1, x => x % 2 + popNat w (x / 2)

/-- Shifts and rotation of a `w`-bit value; the count is taken modulo `w` (R114). -/
def shlNat (w a n : Nat) : Nat := a * 2 ^ (n % w) % 2 ^ w
def shrNat (w a n : Nat) : Nat := a % 2 ^ w / 2 ^ (n % w)
def sarNat (w a n : Nat) : Nat := wrapInt w (toSigned w a / ((2 ^ (n % w) : Nat) : Int))
def rotlNat (w a n : Nat) : Nat :=
  let x := a % 2 ^ w; let k := n % w
  (x * 2 ^ k + x / 2 ^ (w - k)) % 2 ^ w

/-- Bitwise complement of a `w`-bit value. -/
def notNat (w a : Nat) : Nat := 2 ^ w - 1 - a % 2 ^ w

/-- The compare predicates in opcode order (R58, R120). -/
inductive Cmp where
  | eq | ne | lt | le | gt | ge | un | ord
  deriving DecidableEq, Repr

/-- The predicate on an ordered pair. -/
def Cmp.holds : Cmp → Ordering → Bool
  | .eq, o => o == .eq
  | .ne, o => o != .eq
  | .lt, o => o == .lt
  | .le, o => o != .gt
  | .gt, o => o == .gt
  | .ge, o => o != .lt
  | .un, _ => false
  | .ord, _ => true

/-- A compare of two elements (R120). -/
def cmpVal (t : ETy) (ftz : Bool) (c : Cmp) (a b : Nat) : Bool × Flags :=
  match t with
  | .flt f =>
    let x := f.read ftz a; let y := f.read ftz b
    if x.isNan || y.isNan then
      let sig := x.isSnan || y.isSnan
      let ordered := match c with | .lt | .le | .gt | .ge => true | _ => false
      (match c with | .ne | .un => true | _ => false, flIf (ordered || sig) flNV)
    else (c.holds (FVal.key f.radix x y), 0)
  | t => (c.holds (compare (t.toInt a) (t.toInt b)), 0)

/-- The basic sum, product and fused forms of a type (R109, R110). -/
def addVal (t : ETy) (rm : Rnd) (ftz : Bool) (a b : Nat) : Res :=
  match t with
  | .flt f => fAdd f rm ftz a b
  | t => ((a + b) % 2 ^ t.w, 0)
def subVal (t : ETy) (rm : Rnd) (ftz : Bool) (a b : Nat) : Res :=
  match t with
  | .flt f => fSub f rm ftz a b
  | t => (wrapInt t.w ((a : Int) - b), 0)
def mulVal (t : ETy) (rm : Rnd) (ftz : Bool) (a b : Nat) : Res :=
  match t with
  | .flt f => fMul f rm ftz a b
  | t => (a * b % 2 ^ t.w, 0)
def fmaOrdVal (o : NanOrd) (t : ETy) (rm : Rnd) (ftz np nc : Bool) (a b c : Nat) : Res :=
  match t with
  | .flt f => fFmaOrd o f rm ftz np nc a b c
  | t =>
    let p : Int := (a * b : Nat)
    let q : Int := c
    (wrapInt t.w ((if np then -p else p) + (if nc then -q else q)), 0)
def fmaVal (t : ETy) (rm : Rnd) (ftz np nc : Bool) (a b c : Nat) : Res := fmaOrdVal .abc t rm ftz np nc a b c
def divVal (t : ETy) (rm : Rnd) (ftz : Bool) (a b : Nat) : Res :=
  match t with
  | .flt f => fDiv f rm ftz a b
  | t => intDiv t a b
def sqrtVal (t : ETy) (rm : Rnd) (ftz : Bool) (a : Nat) : Res :=
  match t with
  | .flt f => fSqrt f rm ftz a
  | _ => (0, 0)
def minMaxVal (t : ETy) (mx ftz : Bool) (a b : Nat) : Res :=
  match t with
  | .flt f => fMinMax f mx ftz a b
  | t => (if (decide (t.toInt a ≤ t.toInt b)) != mx then a else b, 0)
def absVal (t : ETy) (a : Nat) : Nat :=
  match t with
  | .flt f => fAbs f a
  | t => wrapInt t.w (t.toInt a).natAbs
def negVal (t : ETy) (a : Nat) : Nat :=
  match t with
  | .flt f => fNeg f a
  | t => wrapInt t.w (-(t.toInt a))

/-- A value that an operation delivers without having combined it with another: a NaN is quieted, a subnormal flushed
under FTZ, a decimal made canonical (R254, R265 to R267). -/
def deliverVal (t : ETy) (ftz : Bool) (a : Nat) : Res :=
  match t with
  | .flt f => (nanRule f [f.read ftz a]).getD (f.recode (f.read ftz a), 0)
  | _ => (a, 0)

/-- The empty results of R123, and the zero of a disabled element; a decimal one has exponent 0 there too (DEDUCED, log entry
186). -/
def zeroOf (t : ETy) : Nat :=
  match t with
  | .flt f => f.zero false 0
  | _ => 0
def minEmpty (t : ETy) : Nat :=
  match t with
  | .flt f => f.infinity false
  | t => wrapInt t.w t.maxVal
def maxEmpty (t : ETy) : Nat :=
  match t with
  | .flt f => f.infinity true
  | t => wrapInt t.w t.minVal

end Sys2Proof.Machine
end

