-- ==== Sys2Proof/Machine/OrderCode.lean ====
section
/-!
DEFINITION. The byte-level encoding of stream orders: layout, prefixes, opcodes, format byte, scenes, length, slot mask
and operand descriptors (R46 to R82), with the byte-level checks of R89 in the sequence in which they are decided.
-/
namespace Sys2Proof.Machine

/-- The orders of R58 and R59. -/
inductive Op where
  | add | sub | mul | fma | fms | fnma | div | sqrt | min | max | abs | neg | addsat | subsat | mulsat | mulwide | mulhi
  | and | or | xor | not | andnot | shl | shr | sar | rotl | select | clz | popcnt
  | cvt | rndint | quantize | cvtsat
  | cmp (c : Cmp)
  | sum | minr | maxr | andr | orr | xorr | dot
  | segsum | segmin | segmax | segdot | linrec | psum | psumx | segpsum | compress | expand
  | gather | scatter | scatteradd | spmv | copy | fill | arcappend | arcread | sealfeed | scene
  | scaleb | logb | copysign | cls
  deriving DecidableEq, Repr

/-- Opcode page 0 (R58). -/
def Op.page0 : Nat → Option Op
  | 0x01 => some .add | 0x02 => some .sub | 0x03 => some .mul | 0x04 => some .fma | 0x05 => some .fms
  | 0x06 => some .fnma | 0x07 => some .div | 0x08 => some .sqrt | 0x09 => some .min | 0x0A => some .max
  | 0x0B => some .abs | 0x0C => some .neg | 0x0D => some .addsat | 0x0E => some .subsat | 0x0F => some .mulsat
  | 0x10 => some .mulwide | 0x11 => some .mulhi
  | 0x20 => some .and | 0x21 => some .or | 0x22 => some .xor | 0x23 => some .not | 0x24 => some .andnot
  | 0x25 => some .shl | 0x26 => some .shr | 0x27 => some .sar | 0x28 => some .rotl | 0x29 => some .select
  | 0x2A => some .clz | 0x2B => some .popcnt
  | 0x30 => some .cvt | 0x31 => some .rndint | 0x32 => some .quantize | 0x33 => some .cvtsat
  | 0x40 => some (.cmp .eq) | 0x41 => some (.cmp .ne) | 0x42 => some (.cmp .lt) | 0x43 => some (.cmp .le)
  | 0x44 => some (.cmp .gt) | 0x45 => some (.cmp .ge) | 0x46 => some (.cmp .un) | 0x47 => some (.cmp .ord)
  | 0x48 => some .sum | 0x49 => some .minr | 0x4A => some .maxr | 0x4B => some .andr | 0x4C => some .orr
  | 0x4D => some .xorr | 0x4E => some .dot
  | 0x50 => some .segsum | 0x51 => some .segmin | 0x52 => some .segmax | 0x53 => some .segdot
  | 0x54 => some .linrec | 0x55 => some .psum | 0x56 => some .psumx | 0x57 => some .segpsum
  | 0x58 => some .compress | 0x59 => some .expand
  | 0x60 => some .gather | 0x61 => some .scatter | 0x62 => some .scatteradd | 0x68 => some .spmv
  | 0x70 => some .copy | 0x71 => some .fill | 0x78 => some .arcappend | 0x79 => some .arcread
  | 0x7C => some .sealfeed | 0xE0 => some .scene
  | _ => none

/-- The extended page (R59). -/
def Op.page1 : Nat → Option Op
  | 0x01 => some .scaleb | 0x02 => some .logb | 0x03 => some .copysign | 0x04 => some .cls | _ => none

/-- Slot mask bits (R70). -/
def sA : Nat := 1
def sB : Nat := 2
def sC : Nat := 4
def sD : Nat := 8
def sI : Nat := 16
def sK : Nat := 32
def sX : Nat := 64
def sY : Nat := 128

/-- Required and optional slots of an opcode (R58, R59); a scene's follow from its steps. -/
def Op.slots : Op → Nat × Nat
  | .add | .sub | .mul | .div | .min | .max | .addsat | .subsat | .mulsat | .mulhi | .and | .or | .xor | .andnot
  | .shl | .shr | .sar | .rotl | .quantize | .scaleb | .copysign => (sA + sB + sX, sK)
  | .fma | .fms | .fnma => (sA + sB + sC + sX, sK)
  | .sqrt | .abs | .neg | .not | .clz | .popcnt | .cvt | .rndint | .cvtsat | .logb | .cls => (sA + sX, sK)
  | .mulwide => (sA + sB + sX + sY, sK)
  | .select => (sA + sB + sK + sX, 0)
  | .cmp _ => (sA + sB + sX, sK + sY)
  | .sum | .minr | .maxr | .andr | .orr | .xorr => (sA + sX, sK)
  | .dot => (sA + sB + sX, sK)
  | .segsum | .segmin | .segmax | .segpsum => (sA + sI + sX, 0)
  | .segdot => (sA + sB + sI + sX, 0)
  | .linrec => (sA + sB + sC + sX, 0)
  | .psum | .psumx => (sA + sX, 0)
  | .compress => (sA + sK + sX, sY)
  | .expand => (sA + sK + sX, 0)
  | .gather | .scatter | .scatteradd => (sA + sI + sX, sK)
  | .spmv => (sA + sB + sC + sI + sX, 0)
  | .copy | .fill => (sA + sX, sK)
  | .arcappend => (sA, sX)
  | .arcread => (sA + sX, 0)
  | .sealfeed => (sA + sB, 0)
  | .scene => (0, 0)

/-- The Types column of R154. -/
def Op.types (o : Op) (t : ETy) : Bool :=
  let num := t.isInt || t.isFlt
  match o with
  | .add | .sub | .mul | .fma | .fms | .fnma | .div | .min | .max | .neg | .cvtsat | .sum | .minr | .maxr | .dot
  | .segsum | .segmin | .segmax | .segdot | .linrec | .psum | .psumx | .segpsum | .gather | .scatter | .scatteradd => num
  | .sqrt | .rndint | .scaleb | .logb | .copysign | .cls => t.isFlt
  | .abs => t.isSInt || t.isFlt
  | .addsat | .subsat | .mulsat | .mulwide | .mulhi | .shl | .shr | .sar | .rotl | .clz | .popcnt => t.isInt
  | .and | .or | .xor | .not | .andnot | .andr | .orr | .xorr => t.isInt || t.isBit
  | .select | .compress | .expand | .copy | .fill => num || t.isBit
  | .cvt => num || t.isBit
  | .quantize => t.isDec
  | .cmp .un | .cmp .ord => t.isFlt
  | .cmp _ => num
  | .spmv => t == .flt fp32 || t == .flt fp64 || t == .int true 64 || t == .int false 64
  | .arcappend | .arcread | .sealfeed => t == .int false 8
  | .scene => num || t.isBit

/-- Scene steps: may the opcode be a step, and only the last one (R58)? -/
def Op.sceneStep : Op → Bool
  | .mulwide | .cvt | .cvtsat | .segsum | .segmin | .segmax | .segdot | .linrec | .psum | .psumx | .segpsum | .expand
  | .gather | .scatter | .scatteradd | .spmv | .copy | .fill | .arcappend | .arcread | .sealfeed | .scene
  | .scaleb | .logb | .copysign | .cls => false
  | _ => true
def Op.lastOnly : Op → Bool
  | .sum | .minr | .maxr | .andr | .orr | .xorr | .dot | .compress => true
  | _ => false

/-- Operands of a scene step (R80). -/
def Op.stepArity : Op → Nat
  | .fma | .fms | .fnma | .select => 3
  | .sqrt | .abs | .neg | .not | .clz | .popcnt | .rndint | .sum | .minr | .maxr | .andr | .orr | .xorr => 1
  | _ => 2

/-- Logic steps (R80); the reductions ANDR, ORR and XORR are among them (log entry 140). -/
def Op.isLogic : Op → Bool
  | .and | .or | .xor | .not | .andnot | .andr | .orr | .xorr => true
  | _ => false

/-- A scene step (R79): opcode, sources, and whether its result, or count, goes to X and to Y. -/
structure StepD where
  op : Op
  s1 : Nat
  s2 : Nat
  s3 : Nat
  toX : Bool
  toY : Bool
  bit : Bool
  deriving DecidableEq, Repr

/-- The forms of an operand descriptor (R72, R73), with base registers not yet read. -/
inductive Form where
  | abs (addr : Nat)
  | base (r : Nat) (disp : Int)
  | relay (n : Nat)
  | imm (v : Nat)
  deriving DecidableEq, Repr

/-- An operand descriptor: its slot number 0 to 7, the offset of its mode byte, its form, WIDE and its stride. -/
structure Desc where
  slot : Nat
  off : Nat
  form : Form
  wide : Bool
  stride : Option Int
  deriving DecidableEq, Repr

/-- The length of an order: a count, or a length register (R67, R68). -/
inductive Len where
  | count (n : Nat)
  | reg (r : Nat)
  deriving DecidableEq, Repr

/-- A decoded order: prefixes (with the offsets that R55 reports), opcode, types, rounding code, scene, length and
descriptors. -/
structure OrderD where
  op : Op
  opOff : Nat
  reprise : Option Nat
  split : Option Nat
  precise : Bool
  relayIn : Bool
  relayOut : Bool
  ordered : Bool
  sealTo : Option (Nat × Bool)
  ty : Nat
  rnd : Nat
  ftz : Bool
  tty : Nat
  steps : List StepD
  len : Len
  mask : Nat
  descs : List Desc
  size : Nat
  deriving DecidableEq, Repr

/-- Why decoding ends: a rejection with its status (R88) and offset, or a byte whose read faults (R84). -/
inductive DErr where
  | rej (status off : Nat)
  | flt (off : Nat)
  deriving DecidableEq, Repr

/-- Issue status codes (R88). -/
def stReserved : Nat := 2
def stPrefix : Nat := 3
def stTooLong : Nat := 4
def stLength : Nat := 5
def stSlot : Nat := 6
def stScene : Nat := 7
def stRelay : Nat := 8
def stCycle : Nat := 9
def stPairing : Nat := 10
def stAddress : Nat := 11
def stMode : Nat := 12

/-- The bytes of an order by offset; `none` is a byte whose read faults. -/
abbrev Bytes := Nat → Option Nat

/-- Byte `i` of the order (R47, R84). TOO-LONG is decided where a byte past byte 47 is needed (log entry 140). -/
def byteAt (rd : Bytes) (i : Nat) : Except DErr Nat :=
  if i ≥ 48 then .error (.rej stTooLong 48)
  else match rd i with
    | some b => .ok (b % 256)
    | none => .error (.flt i)

/-- Reject with `status` at `off` when `b` holds. -/
def rejIf (b : Bool) (status off : Nat) : Except DErr Unit :=
  if b then .error (.rej status off) else .ok ()

/-- `n` little-endian bytes from offset `i` (R48). -/
def leAt (rd : Bytes) (i : Nat) : Nat → Except DErr Nat
  | 0 => .ok 0
  | n + 1 => do
    let b ← byteAt rd i
    let r ← leAt rd (i + 1) n
    .ok (b + 256 * r)

/-- The prefixes found so far: their bytes with offsets, the SEAL argument. -/
structure Pfx where
  seen : List (Nat × Nat)
  sealTo : Option (Nat × Bool)
  extd : Bool
  deriving DecidableEq, Repr

def Pfx.has (p : Pfx) (b : Nat) : Bool := p.seen.any fun x => x.1 == b
def Pfx.offOf (p : Pfx) (b : Nat) : Option Nat := (p.seen.find? fun x => x.1 == b).map (·.2)

/-- The prefix bytes (R50 to R53), at most nine bytes; answers the prefixes and the offset of the opcode byte. -/
def prefixes (rd : Bytes) : Nat → Nat → Pfx → Except DErr (Pfx × Nat)
  | 0, i, p => .ok (p, i)
  | k + 1, i, p => do
    let b ← byteAt rd i
    if b < 0xF0 then .ok (p, i)
    else
      rejIf (decide (0xF8 ≤ b ∧ b ≤ 0xFE)) stReserved i
      rejIf (p.seen.any fun x => decide (b ≤ x.1)) stPrefix i
      rejIf (b == 0xF1 && p.has 0xF0) stPrefix i
      rejIf (b == 0xF6 && (p.has 0xF4 || p.has 0xF5)) stPrefix i
      rejIf (b == 0xF7 && p.has 0xF1) stPrefix i
      let q : Pfx := { p with seen := p.seen ++ [(b, i)] }
      if b = 0xFF then .ok ({ q with extd := true }, i + 1)
      else if b = 0xF7 then do
        let a ← byteAt rd (i + 1)
        rejIf (decide (a ≥ 16 ∨ a % 8 ≥ 6)) stReserved (i + 1)
        prefixes rd k (i + 2) { q with sealTo := some (a % 8, decide (a % 16 ≥ 8)) }
      else prefixes rd k (i + 1) q

/-- Is the source code a BIT-typed one, given the steps so far and the format type (R79, R81)? -/
def srcBit (steps : List StepD) (t : ETy) (c : Nat) : Bool :=
  if 1 ≤ c ∧ c ≤ 4 then t.isBit
  else if c = 5 then true
  else if 8 ≤ c ∧ c ≤ 10 then (steps[c - 8]?.map (·.bit)).getD false
  else false

/-- Source codes that R79 reserves. -/
def srcReserved (c : Nat) : Bool := c == 6 || c == 7 || decide (c ≥ 11)

/-- Is source `c` in its place: named when the step has that operand, an earlier step, a mask source where a mask
stands, K and BIT results only in mask positions or in logic steps of BIT operands alone (R80)? -/
def srcOk (steps : List StepD) (t : ETy) (op : Op) (pos c : Nat) (allBit : Bool) : Bool :=
  if pos ≥ op.stepArity then c == 0
  else
    let mask := (op == .select && pos == 0) || (op == .compress && pos == 1)
    let stepRes := decide (8 ≤ c)
    decide (c ≠ 0) && (!stepRes || decide (c - 8 < steps.length)) &&
    (if mask then c == 5 || (stepRes && srcBit steps t c)
     else if c == 5 || (stepRes && srcBit steps t c) then op.isLogic && allBit
     else true)

/-- The type of a step, as a BIT flag: BIT when all its sources are BIT-typed (R81). -/
def stepAllBit (steps : List StepD) (t : ETy) (op : Op) (s1 s2 s3 : Nat) : Bool :=
  let a := op.stepArity
  srcBit steps t s1 && (decide (a < 2) || srcBit steps t s2) && (decide (a < 3) || srcBit steps t s3)

/-- Does the result of step `j` go to a later step or an output (R80)? -/
def stepUsed (steps : List StepD) (j : Nat) : Bool :=
  match steps[j]? with
  | none => true
  | some d => d.toX || d.toY ||
      (steps.drop (j + 1)).any fun e => e.s1 == j + 8 || e.s2 == j + 8 || e.s3 == j + 8

/-- Reject at the DST byte of the first of the earlier steps whose result neither goes to an output nor is a source of the
last step (R80); the last step starts at offset `i`. -/
def rejUnused (steps : List StepD) (last : StepD) (i : Nat) : Except DErr Unit :=
  match (List.range steps.length).find? fun j => !stepUsed (steps ++ [last]) j with
  | some j => .error (.rej stScene (i - 3 * (steps.length - j) + 2))
  | none => .ok ()

/-- One step descriptor at offset `i` (R79, R80). Each failure is decided at the byte at which it is first known; of two
SCENE failures decided at one byte the one with the lower offset is reported (R80, R89; log entry 140). -/
def stepAt (rd : Bytes) (t : ETy) (steps : List StepD) (last : Bool) (i : Nat) : Except DErr StepD := do
  let b0 ← byteAt rd i
  match Op.page0 b0 with
  | none => .error (.rej stScene i)
  | some op =>
    -- an operation that takes neither the format type nor BIT fails whatever its sources
    rejIf (!op.sceneStep || (op.lastOnly && !last) || (!op.types t && !op.types .bit)) stScene i
    let b1 ← byteAt rd (i + 1)
    let s1 := b1 % 16
    let s2 := b1 / 16
    rejIf (srcReserved s1 || srcReserved s2) stReserved (i + 1)
    let three := decide (op.stepArity = 3)
    let bit2 := srcBit steps t s1 && (decide (op.stepArity < 2) || srcBit steps t s2)
    if last && !three then rejUnused steps ⟨op, s1, s2, 0, false, false, false⟩ i else .ok ()
    -- the type of a step of one or two operands, or with a source of the format type, is known here
    rejIf ((!three || !bit2) && !op.types (if bit2 then .bit else t)) stScene i
    rejIf (!srcOk steps t op 0 s1 (bit2 || three) || !srcOk steps t op 1 s2 (bit2 || three)) stScene (i + 1)
    let b2 ← byteAt rd (i + 2)
    let s3 := b2 % 16
    let d := b2 / 16
    rejIf (srcReserved s3 || decide (d ≥ 4)) stReserved (i + 2)
    if last then rejUnused steps ⟨op, s1, s2, s3, false, false, false⟩ i else .ok ()
    let ab := stepAllBit steps t op s1 s2 s3
    rejIf (three && !op.types (if ab then .bit else t)) stScene i
    let toX := d % 2 == 1
    let toY := d / 2 == 1
    rejIf (!srcOk steps t op 2 s3 ab) stScene (i + 2)
    rejIf (steps.any fun p => (p.toX && toX) || (p.toY && toY)) stScene (i + 2)
    rejIf (last && !toX && !toY) stScene (i + 2)
    let cmpBit := match op with | .cmp _ => true | _ => false
    .ok ⟨op, s1, s2, s3, toX, toY, cmpBit || ab⟩

/-- The steps of a scene: `k` more at offset `i`. -/
def stepsAt (rd : Bytes) (t : ETy) : Nat → List StepD → Nat → Except DErr (List StepD)
  | 0, acc, _ => .ok acc
  | k + 1, acc, i => do
    let d ← stepAt rd t acc (k == 0) i
    stepsAt rd t k (acc ++ [d]) (i + 3)

/-- The slots that a scene's steps name (R82). -/
def sceneMask (steps : List StepD) : Nat :=
  let uses (c : Nat) : Bool := steps.any fun e => e.s1 == c || e.s2 == c || e.s3 == c
  (if uses 1 then sA else 0) + (if uses 2 then sB else 0) + (if uses 3 then sC else 0) + (if uses 4 then sD else 0) +
  (if uses 5 then sK else 0) + (if steps.any (·.toX) then sX else 0) + (if steps.any (·.toY) then sY else 0)

/-- The variable-length count of R67: bytes so far `j`, value so far `acc`, length field at `i0`. -/
def varLen (rd : Bytes) (i0 : Nat) : Nat → Nat → Nat → Except DErr (Nat × Nat)
  | 0, _, _ => .error (.rej stLength i0)
  | k + 1, j, acc => do
    let b ← byteAt rd (i0 + j)
    let v := acc + b % 128 * 2 ^ (7 * j)
    if b ≥ 128 then (if k = 0 then .error (.rej stLength i0) else varLen rd i0 k (j + 1) v)
    else
      rejIf (decide ((b = 0 ∧ j > 0) ∨ v = 0 ∨ v ≥ 2 ^ 40)) stLength i0
      .ok (v, i0 + j + 1)

/-- The element type of a slot (R61). -/
def slotType (op : Op) (steps : List StepD) (t tt : ETy) (slot : Nat) : ETy :=
  match slot with
  | 5 => .bit
  | 6 => match op with
    | .cmp _ => .bit
    | .cvt | .cvtsat => tt
    | .cls => .int false 8
    | .scene => match steps.find? (·.toX) with
      | some d => if d.bit then .bit else t
      | none => t
    | _ => t
  | 7 => match op with
    | .cmp _ | .compress => .int false 64
    | .scene => match steps.find? (·.toY) with
      | some d => match d.op with
        | .cmp _ | .compress => .int false 64
        | _ => if d.bit then .bit else t
      | none => t
    | _ => t
  | 1 => match op with
    | .spmv => .int false 64
    | .sealfeed => .int false 8
    | _ => t
  | _ => t

/-- May the slot take this form (R74, R136, R140, R146, R147)? -/
def formOk (op : Op) (slot form : Nat) : Bool :=
  let mem := form == 1 || form == 2 || form == 5
  let imm := form == 4
  let general :=
    if slot < 4 ∨ slot = 5 then mem || form == 3 || imm else mem || form == 3
  general && (match op, slot with
    | .gather, 0 => mem
    | .scatter, 6 | .scatteradd, 6 => mem
    | .spmv, 0 | .spmv, 2 | .spmv, 4 => mem
    | .copy, 0 => !imm
    | .fill, 0 => form != 3
    | .arcread, 0 => mem
    | .sealfeed, 1 => imm
    | _, _ => true)

/-- One operand descriptor at offset `i`; answers it and the offset past it (R72 to R74). -/
def descAt (rd : Bytes) (op : Op) (steps : List StepD) (t tt : ETy) (slot i : Nat) :
    Except DErr (Desc × Nat) := do
  let b ← byteAt rd i
  let form := b % 8
  let kind := b / 8 % 4
  let wide := b / 32 % 2 == 1
  let strided := b / 64 % 2 == 1
  let st := slotType op steps t tt slot
  rejIf (form == 0 || decide (form ≥ 6) || kind == 3 || decide (b ≥ 128) || (kind == 0 && wide)) stReserved i
  let kindWanted := if slot = 4 then 1 else if slot = 5 then 2 else 0
  let strideOk := decide (kindWanted = 0) && (form == 1 || form == 2 || form == 5) && !st.isBit
  rejIf (decide (kind ≠ kindWanted) || !formOk op slot form || (strided && !strideOk)) stSlot i
  let (f, j) ← (match form with
    | 1 => do let a ← leAt rd (i + 1) 6; pure (Form.abs a, i + 7)
    | 3 => do
      let r ← byteAt rd (i + 1)
      rejIf (decide (r ≥ 64)) stReserved (i + 1)
      pure (Form.relay r, i + 2)
    | 4 => do
      let v ← leAt rd (i + 1) st.bytes
      rejIf (st.isBit && decide (v ≥ 2)) stReserved (i + 1)
      rejIf (op == .sealfeed && slot == 1 && decide (v ≥ 6)) stReserved (i + 1)
      pure (Form.imm v, i + 1 + st.bytes)
    | _ => do
      let r ← byteAt rd (i + 1)
      rejIf (decide (r ≥ 8)) stReserved (i + 1)
      if form = 2 then do
        let d ← leAt rd (i + 2) 4
        pure (Form.base r (toSigned 32 d), i + 6)
      else pure (Form.base r 0, i + 2) : Except DErr (Form × Nat))
  if strided then do
    let d ← leAt rd j 4
    rejIf (decide (slot ≥ 6) && d == 0) stSlot i
    .ok (⟨slot, i, f, wide, some (toSigned 32 d)⟩, j + 4)
  else .ok (⟨slot, i, f, wide, none⟩, j)

/-- The descriptors of the slots listed. -/
def descsAt (rd : Bytes) (op : Op) (steps : List StepD) (t tt : ETy) :
    List Nat → Nat → Except DErr (List Desc × Nat)
  | [], i => .ok ([], i)
  | s :: ss, i => do
    let (d, j) ← descAt rd op steps t tt s i
    let (ds, k) ← descsAt rd op steps t tt ss j
    .ok (d :: ds, k)

/-- Is the descriptor of relay form? -/
def Desc.isRelay (d : Desc) : Bool := match d.form with | .relay _ => true | _ => false

/-- The bytes after the opcode byte: format, extra bytes, length, mask, descriptors and the check of R54. Where a bad target
byte and a breach of R64 are decided at the target byte alike, the offset is that of the target byte (log entry 140). -/
def decodeRest (rd : Bytes) (p : Pfx) (op : Op) (o : Nat) : Except DErr OrderD := do
  rejIf (p.sealTo.isSome && (op == .sealfeed || op == .arcappend || op == .arcread)) stPrefix o
  let fb ← byteAt rd (o + 1)
  let ty := fb % 16
  let t := ETy.ofCode ty
  let rnd := fb / 16 % 8
  let ftz := fb ≥ 128
  let cv := op == .cvt || op == .cvtsat
  let fl16 (x : ETy) : Bool := match x with | .flt f => f.flushes | _ => false
  rejIf (ty == 15 || decide (rnd ≥ 6) || !op.types t ||
    (!cv && ((rnd == 4 && !t.isDec) || (ftz && !fl16 t)))) stReserved (o + 1)
  let (tty, i1) ← (if cv then do
      let tb ← byteAt rd (o + 2)
      let tt := ETy.ofCode (tb % 16)
      rejIf (decide (tb ≥ 16) || tt.isBit || tt == .bad || (op == .cvtsat && !tt.isInt)) stReserved (o + 2)
      rejIf ((rnd == 4 && !t.isDec && !tt.isDec) || (ftz && !fl16 t && !fl16 tt)) stReserved (o + 1)
      pure (tb, o + 3)
    else pure (ty, o + 2) : Except DErr (Nat × Nat))
  let tt := ETy.ofCode tty
  let (steps, i2) ← (if op == .scene then do
      let sb ← byteAt rd i1
      rejIf (decide (sb ≥ 4)) stReserved i1
      rejIf (sb == 0) stScene i1
      let ss ← stepsAt rd t (sb + 1) [] (i1 + 1)
      pure (ss, i1 + 1 + 3 * (sb + 1))
    else pure ([], i1) : Except DErr (List StepD × Nat))
  let (len, i3) ← (if p.has 0xF3 then do
      let b ← byteAt rd i2
      rejIf (decide (b ≥ 4)) stReserved i2
      pure (Len.reg b, i2 + 1)
    else do
      let (v, j) ← varLen rd i2 6 0 0
      pure (Len.count v, j) : Except DErr (Len × Nat))
  let mask ← byteAt rd i3
  rejIf (match p.sealTo with
    | some (_, y) => !mask.testBit (if y then 7 else 6)
    | none => false) stPrefix i3
  let (req, opt) := if op == .scene then (sceneMask steps, 0) else op.slots
  rejIf (decide (mask &&& req ≠ req) || decide (mask &&& (255 - (req ||| opt)) ≠ 0)) stSlot i3
  let (ds, i4) ← descsAt rd op steps t tt ((List.range 8).filter fun s => mask.testBit s) (i3 + 1)
  let inR := ds.any fun d => decide (d.slot < 6) && d.isRelay
  let outR := ds.any fun d => decide (d.slot ≥ 6) && d.isRelay
  rejIf (inR != p.has 0xF4 || outR != p.has 0xF5) stPrefix o
  .ok ⟨op, o, p.offOf 0xF0, p.offOf 0xF1, p.has 0xF2, p.has 0xF4, p.has 0xF5, p.has 0xF6, p.sealTo, ty, rnd, ftz, tty,
    steps, len, mask, ds, i4⟩

/-- The byte-level pass over an order (R46 to R82, R89 step 2). -/
def decodeOrder (rd : Bytes) : Except DErr OrderD := do
  let (p, o) ← prefixes rd 9 0 ⟨[], none, false⟩
  let b ← byteAt rd o
  match (if p.extd then Op.page1 b else Op.page0 b) with
  | none => .error (.rej stReserved o)
  | some op => decodeRest rd p op o

/-! ### The encoder -/

/-- The opcode byte (R58, R59). -/
def Op.code : Op → Nat
  | .add => 0x01 | .sub => 0x02 | .mul => 0x03 | .fma => 0x04 | .fms => 0x05 | .fnma => 0x06 | .div => 0x07
  | .sqrt => 0x08 | .min => 0x09 | .max => 0x0A | .abs => 0x0B | .neg => 0x0C | .addsat => 0x0D | .subsat => 0x0E
  | .mulsat => 0x0F | .mulwide => 0x10 | .mulhi => 0x11 | .and => 0x20 | .or => 0x21 | .xor => 0x22 | .not => 0x23
  | .andnot => 0x24 | .shl => 0x25 | .shr => 0x26 | .sar => 0x27 | .rotl => 0x28 | .select => 0x29 | .clz => 0x2A
  | .popcnt => 0x2B | .cvt => 0x30 | .rndint => 0x31 | .quantize => 0x32 | .cvtsat => 0x33 | .cmp .eq => 0x40
  | .cmp .ne => 0x41 | .cmp .lt => 0x42 | .cmp .le => 0x43 | .cmp .gt => 0x44 | .cmp .ge => 0x45 | .cmp .un => 0x46
  | .cmp .ord => 0x47 | .sum => 0x48 | .minr => 0x49 | .maxr => 0x4A | .andr => 0x4B | .orr => 0x4C | .xorr => 0x4D
  | .dot => 0x4E | .segsum => 0x50 | .segmin => 0x51 | .segmax => 0x52 | .segdot => 0x53 | .linrec => 0x54
  | .psum => 0x55 | .psumx => 0x56 | .segpsum => 0x57 | .compress => 0x58 | .expand => 0x59 | .gather => 0x60
  | .scatter => 0x61 | .scatteradd => 0x62 | .spmv => 0x68 | .copy => 0x70 | .fill => 0x71 | .arcappend => 0x78
  | .arcread => 0x79 | .sealfeed => 0x7C | .scene => 0xE0 | .scaleb => 0x01 | .logb => 0x02 | .copysign => 0x03
  | .cls => 0x04

/-- Is the opcode of the extended page (R59)? -/
def Op.extended : Op → Bool
  | .scaleb | .logb | .copysign | .cls => true
  | _ => false

/-- A count in groups of seven bits, the lowest first (R67). -/
def encodeCount : Nat → Nat → List Nat
  | 0, _ => []
  | k + 1, n => if n < 128 then [n] else (n % 128 + 128) :: encodeCount k (n / 128)

/-- `n` little-endian bytes of a value (R48). -/
def encodeLe : Nat → Nat → List Nat
  | 0, _ => []
  | n + 1, v => v % 256 :: encodeLe n (v / 256)

/-- A 32-bit signed number. -/
def encodeInt (d : Int) : List Nat := encodeLe 4 (d % 2 ^ 32).toNat

/-- A prefix byte that stands where `b` holds. -/
def encodeFlag (b : Bool) (v : Nat) : List Nat := if b then [v] else []

/-- The prefixes (R50 to R53). -/
def OrderD.encodePrefixes (o : OrderD) : List Nat :=
  encodeFlag o.reprise.isSome 0xF0 ++ encodeFlag o.split.isSome 0xF1 ++ encodeFlag o.precise 0xF2 ++
  encodeFlag (match o.len with | .reg _ => true | _ => false) 0xF3 ++ encodeFlag o.relayIn 0xF4 ++
  encodeFlag o.relayOut 0xF5 ++ encodeFlag o.ordered 0xF6 ++
  (match o.sealTo with | some (u, y) => [0xF7, u + 8 * y.toNat] | none => []) ++ encodeFlag o.op.extended 0xFF

/-- A step of a scene (R79). -/
def StepD.encode (d : StepD) : List Nat :=
  [d.op.code, d.s1 + 16 * d.s2, d.s3 + 16 * (d.toX.toNat + 2 * d.toY.toNat)]

/-- A descriptor that takes `n` bytes (R72, R73): of the two forms with a base register, the short one has no
displacement. -/
def Desc.encode (o : OrderD) (d : Desc) (n : Nat) : List Nat :=
  let tail := match d.stride with | some x => encodeInt x | none => []
  let body : Nat × List Nat := match d.form with
    | .abs a => (1, encodeLe 6 a)
    | .base r x => if n - tail.length = 2 then (5, [r]) else (2, r :: encodeInt x)
    | .relay k => (3, [k])
    | .imm v => (4, encodeLe (slotType o.op o.steps (ETy.ofCode o.ty) (ETy.ofCode o.tty) d.slot).bytes v)
  let kind := if d.slot = 4 then 1 else if d.slot = 5 then 2 else 0
  (body.1 + 8 * kind + 32 * d.wide.toNat + 64 * d.stride.isSome.toNat) :: (body.2 ++ tail)

/-- The descriptors one after another; each ends where the next begins. -/
def encodeDescs (o : OrderD) : List Desc → List Nat
  | [] => []
  | [d] => d.encode o (o.size - d.off)
  | d :: e :: ds => d.encode o (e.off - d.off) ++ encodeDescs o (e :: ds)

/-- The bytes of an order (R46 to R82). -/
def encodeOrder (o : OrderD) : List Nat :=
  o.encodePrefixes ++ [o.op.code, o.ty + 16 * o.rnd + 128 * o.ftz.toNat] ++
  (match o.op with | .cvt | .cvtsat => [o.tty] | _ => []) ++
  (if o.op == .scene then (o.steps.length - 1) :: o.steps.flatMap StepD.encode else []) ++
  (match o.len with | .reg r => [r] | .count n => encodeCount 6 n) ++ [o.mask] ++ encodeDescs o o.descs

/-- The bytes of a list as an order is read from them. -/
def bytesOf (bs : List Nat) : Bytes := fun i => bs[i]?

end Sys2Proof.Machine
end

