-- ==== Sys2Proof/Machine/Tab.lean ====
section
/-!
DEFINITION. Sparse tables in one canonical form. A table lists (key, value) pairs with keys strictly rising and no
entry equal to the value that its key has by default; memory, the register file and every numbered resource of the
device are held this way, so equal contents are equal data. The default of a key is a function of the key.
-/
namespace Sys2Proof

/-- A table of values by number. -/
abbrev Tab (α : Type) := List (Nat × α)

/-- The value at key `k`: the listed one, else the default `d k`. -/
def Tab.get {α : Type} (d : Nat → α) : Tab α → Nat → α
  | [], k => d k
  | (j, v) :: t, k => if j = k then v else Tab.get d t k

/-- The table without an entry at `k`. -/
def Tab.erase {α : Type} : Tab α → Nat → Tab α
  | [], _ => []
  | (j, v) :: t, k => if j = k then Tab.erase t k else (j, v) :: Tab.erase t k

/-- The table with `v` listed at `k`. -/
def Tab.put {α : Type} : Tab α → Nat → α → Tab α
  | [], k, v => [(k, v)]
  | (j, w) :: t, k, v =>
    if j = k then (k, v) :: t else if k < j then (k, v) :: (j, w) :: t else (j, w) :: Tab.put t k v

/-- Write `v` at `k`: a value equal to the default leaves the table without an entry there. -/
def Tab.set {α : Type} [DecidableEq α] (d : Nat → α) (t : Tab α) (k : Nat) (v : α) : Tab α :=
  if v = d k then t.erase k else t.put k v

/-- Every key of the table lies above `k`. -/
def Tab.above {α : Type} (k : Nat) : Tab α → Bool
  | [] => true
  | (j, _) :: t => Nat.blt k j && Tab.above k t

/-- Keys strictly rise. -/
def Tab.rising {α : Type} : Tab α → Bool
  | [] => true
  | (j, _) :: t => Tab.above j t && Tab.rising t

/-- No entry holds its key's default. -/
def Tab.lean {α : Type} [DecidableEq α] (d : Nat → α) : Tab α → Bool
  | [] => true
  | (j, v) :: t => !decide (v = d j) && Tab.lean d t

/-- The canonical form. -/
def Tab.wf {α : Type} [DecidableEq α] (d : Nat → α) (t : Tab α) : Bool := t.rising && Tab.lean d t

/-- Write consecutive values from key `k` upward. -/
def Tab.setMany {α : Type} [DecidableEq α] (d : Nat → α) : Tab α → Nat → List α → Tab α
  | t, _, [] => t
  | t, k, v :: vs => Tab.setMany d (t.set d k v) (k + 1) vs

/-- The `n` consecutive values from key `k` upward. -/
def Tab.getMany {α : Type} (d : Nat → α) (t : Tab α) (k : Nat) : Nat → List α
  | 0 => []
  | n + 1 => t.get d k :: Tab.getMany d t (k + 1) n

end Sys2Proof
end

