-- ==== Sys2Proof/Machine/State.lean ====
section
/-!
DEFINITION. The state of the VT4160 as plain data, the reasons a step can stop, and the state after reset. The register
file holds every register of the configuration space by its offset; the structures below hold what the spec gives each
block besides its registers.
-/
namespace Sys2Proof.Machine

/-- A relay (04, R170 to R183). Blocks stand in slots of 256 bytes; `head` is the slot of the oldest visible block not
yet retired, `fills` the byte counts of the visible blocks from there on. -/
structure Relay where
  /-- slot of the oldest visible, unretired block -/
  head : Nat
  /-- the visible blocks, oldest first: byte count (R173), and whether a reprised producer wrote both areas (R176) -/
  fills : List (Nat × Bool)
  /-- bytes in the producer's partly filled block; its credit is spent (R174, R175) -/
  part : Nat
  /-- bytes the producer's reprise has put into the reprise area, counted from the start of `head` (R176) -/
  repFill : Int
  /-- credits held by the producer side (R182) -/
  credits : Nat
  /-- credits retired and not yet returned to the producer (R168, R174) -/
  owed : Nat
  /-- bytes retired by the consumer's performance and reprise, counted from the start of `head` (R174, R176) -/
  posP : Nat
  posR : Nat
  /-- the queue (2 · engine + world) and order sequence number that bind each end (R179) -/
  prod : Option (Nat × Nat)
  cons : Option (Nat × Nat)
  /-- does each bound end belong to a reprised order (R176)? A consumer's is settled when it starts (R279). -/
  prodRep : Bool
  consRep : Option Bool
  /-- a foreign write has left the first so many bytes from `head` unspecified (R172), with the number of the free value -/
  spoilt : Option (Nat × Nat)
  deriving DecidableEq, Repr

/-- A relay that has never been enabled. -/
def Relay.empty : Relay := ⟨0, [], 0, 0, 0, 0, 0, 0, none, none, false, none, none⟩

/-- A frame besides its registers (07, R304 to R309): bytes that producers have put into the filling buffer, and
whether the filling buffer is still being zeroed. -/
structure FrameSt where
  bytes : Nat
  clearing : Bool
  deriving DecidableEq, Repr

def FrameSt.empty : FrameSt := ⟨0, false⟩

/-- The cue router (11) besides its registers. -/
structure CueSt where
  /-- beat and µs of each channel's last accepted firing (R464) -/
  last : Tab (Option (Nat × Nat))
  /-- firings attempted on each channel in this rate window, and the µs of the time base at which the window began (R470) -/
  attempts : Tab Nat
  window : Nat
  /-- the beat until which each consumer is busy (R467) -/
  busy : Tab Nat
  /-- CUE_OUT pins in a pulse, busy until CUE_OUT_PULSE_END (R467, R476) -/
  pulsing : Tab Bool
  /-- the µs at which each level-mode input became active or its count restarted (R474, R475) -/
  activeAt : Tab (Option Nat)
  /-- the beat and µs of each input's last attempt (R474) -/
  tried : Tab (Option (Nat × Nat))
  /-- pins that wait, after STUCK, to go inactive (R475) -/
  stuckWait : Tab Bool
  /-- the µs of each timer's last expiry (R471) -/
  timerAt : Tab (Option Nat)
  deriving DecidableEq, Repr

/-- The interrupt distributor (11) besides its registers: the sources that caller `c` has refused since its last report,
at `512 c + source` (R479), and the caller that last accepted a source (R480). -/
structure IdsSt where
  refused : Tab Bool
  last : Tab (Option Nat)
  /-- the source of the offer that is outstanding at a caller (R480, R496) -/
  offers : Tab (Option Nat)
  deriving DecidableEq, Repr

/-- A MACsec association (13, R560): its key, salt and SSCI words, and for a receive one the lowest acceptable and the
next expected packet number. -/
structure Assoc where
  words : List Word
  lowest : Nat
  next : Nat
  deriving DecidableEq, Repr

/-- The gPTP instance of a port (R535, R537): consecutive good Syncs, the announced interval and the time of the last
Sync in µs, the best master announced (priority vector and identity), and the peer delay. -/
structure PtpSt where
  good : Nat
  interval : Nat
  last : Nat
  best : Option (Word × Word)
  delay : Nat
  deriving DecidableEq, Repr

def PtpSt.empty : PtpSt := ⟨0, 0, 0, none, 0⟩

/-- The gate control list in force on a port (R535, R543): its entries, the present one, and the gPTP time at which that
one began. -/
structure GateSt where
  list : List (Nat × Nat)
  idx : Nat
  start : Nat
  deriving DecidableEq, Repr

def GateSt.empty : GateSt := ⟨[], 0, 0⟩

/-- The link block (13) besides its registers. -/
structure LnkSt where
  /-- index up to which transmit ring `2 p + w` is to be processed (R541) -/
  txUpTo : Tab Nat
  /-- port counter `i` of port `p` at `16 p + i` (R561) -/
  cnt : Tab Nat
  /-- key staging: word `i` of port `p` at `8 p + i` (R560) -/
  staging : Tab Word
  /-- association `an` of direction `d` (0 transmit) of port `p` at `8 p + 4 d + an` -/
  assoc : Tab (Option Assoc)
  ptp : Tab PtpSt
  gate : Tab GateSt
  /-- flow meter of filter `f` of port `p` at `16 p + f`: bits that may pass, and the µs of that count -/
  meter : Tab (Option (Nat × Nat))
  /-- the R-TAG history of a receive stream, newest first (R544) -/
  hist : Tab (List Nat)
  /-- the Askust frames that a port has accepted and not yet examined, oldest first: R-TAG sequence and telegram (R536, R538) -/
  wire : Tab (List (Option Nat × List Byte))
  /-- accepted telegrams in the receive buffer of a port, oldest first: stream, bytes, bytes written (R546) -/
  rxq : Tab (List (Nat × List Byte × Nat))
  /-- frames that wait for their gate, oldest first: class and frame (R543) -/
  txq : Tab (List (Nat × List Byte))
  /-- the frame that left last (the model's own port) -/
  sent : Tab (List Byte)
  deriving DecidableEq, Repr

def LnkSt.empty : LnkSt := ⟨[], [], [], [], [], [], [], [], [], [], [], []⟩

/-- A record that is open: opened and not yet committed (R507, R511). -/
structure ArcRec where
  acc : Nat
  /-- log position, payload length -/
  pos : Nat
  n : Nat
  /-- payload bytes accepted (R512) -/
  got : Nat
  /-- its colophon will have VOID set (R513, R526) -/
  void : Bool
  tag : Nat
  deriving DecidableEq, Repr

/-- A colophon entry (R508). -/
structure Colophon where
  acc : Nat
  pos : Nat
  len : Nat
  void : Bool
  crc : Nat
  deriving DecidableEq, Repr

/-- A colophon page (R508): world, page sequence number, accession of the first entry, time base at programming, PAGECRC,
entries. -/
structure ColPage where
  world : Nat
  seq : Nat
  first : Nat
  time : Nat
  crc : Nat
  cols : List Colophon
  deriving DecidableEq, Repr

/-- A colophon page in progress (R509, R531): the targets of its two copies, whether the first copy stands and only the second
is programmed again, whether both have passed, and whether a cue asked for the page. -/
structure PageRun where
  page : ColPage
  t1 : Nat
  t2 : Nat
  half : Bool
  passed : Bool
  cue : Bool
  deriving DecidableEq, Repr

/-- A physical folio with its metadata (R501 to R503): the log positions that it holds, its write sequence number, the target
and the block where it lies, the µs of its programming, and its mark for relocation. -/
structure Folio where
  lo : Nat
  hi : Nat
  seq : Nat
  tgt : Nat
  blk : Nat
  time : Nat
  marked : Bool
  deriving DecidableEq, Repr

/-- A log (R503, R505): its bytes by log position, its physical folios in write sequence (the map names the newest of a
position), the open records in accession order, the committed pages, the page in progress, the trigger that waits for its end
(R509; of a cue: true), the next accession and position, BELOW of R522, the codewords read (1 decoded, 2 uncorrectable), and
the void colophons since the last orderly close. -/
structure ArcLog where
  bytes : Tab Byte
  folios : List Folio
  recs : List ArcRec
  pages : List ColPage
  page : Option PageRun
  again : Option Bool
  nextAcc : Nat
  nextPos : Nat
  below : Nat
  reads : Tab Nat
  voids : Nat
  deriving DecidableEq, Repr

def ArcLog.empty : ArcLog := ⟨[], [], [], [], none, none, 0, 0, 0, [], 0⟩

/-- A block of a target (R502): whether it is retired, its erase count, and its reads since the last erase. -/
structure BlkSt where
  bad : Bool
  erases : Nat
  reads : Nat
  deriving DecidableEq, Repr

/-- A NAND target (R499, R502): whether it is used or refused, and its blocks. -/
structure TgtSt where
  used : Bool
  refused : Bool
  blocks : List BlkSt
  deriving DecidableEq, Repr

/-- An arbiter (R198, R372): the requester granted last, the requesters that wait with the matrix beats and the engine
beats that each has waited so far, the grants since the last one to HBM scrub (R349), and those since the last one to the
bank copy (R359). -/
structure ArbSt where
  last : Option Nat
  waits : List (Nat × Nat × Nat)
  sinceScrub : Option Nat
  sinceCopy : Nat
  deriving DecidableEq, Repr

/-- Nothing granted yet, nothing waits. -/
def ArbSt.empty : ArbSt := ⟨none, [], none, 0⟩

/-- The archive (12) besides its registers: the logs of the two worlds (0, 1) and the boot logs of copies 0 and 1 (2, 3; R530),
and the targets. `closed` refuses payload bytes (R526, R529); `final` says that the final pages of Flush have started (R526);
`dry` refuses every NAND operation until recovery; `trained` and `scanned` are the parts of bringing the archive up (R500,
R524). -/
structure ArcSt where
  logs : Tab ArcLog
  tgts : Tab TgtSt
  /-- the write sequence number of the newest folio, and that of the newest in the last map checkpoint (R503) -/
  seq : Nat
  ckSeq : Nat
  closed : Bool
  final : Bool
  dry : Bool
  trained : Bool
  scanned : Bool
  /-- the last close was orderly (R529) -/
  orderly : Bool
  /-- the audit: records left, unit, and whether it holds the unit -/
  audit : Option (Nat × Nat × Bool)
  /-- the boot store in progress: address, length, copy (R530) -/
  store : Option (Nat × Nat × Bool)
  /-- the boot load in progress: its copy (R628) -/
  load : Option Bool
  /-- bytes programmed into data folios since the last map checkpoint, and those of them that relocation programmed
  (R520) -/
  prog : Nat
  reloc : Nat
  /-- the µs of the last colophon interval's end (R509) -/
  colAt : Nat
  /-- the µs of the last map checkpoint (R503) -/
  mapAt : Nat
  deriving DecidableEq, Repr

def ArcSt.empty : ArcSt := ⟨[], [], 0, 0, false, false, false, false, false, true, none, none, none, 0, 0, 0, 0⟩

/-- A logical seal unit (13, R549 to R556) besides its registers: the code register, the scan in progress (next
address, bytes left, whether the seal closes after it), and who holds the unit: queue q of an order, 32 the audit, 33
the digest. -/
structure SeaSt where
  crc : Nat
  scan : Option (Nat × Nat × Bool)
  holder : Option Nat
  deriving DecidableEq, Repr

def SeaSt.empty : SeaSt := ⟨0, none, none⟩

/-- What an operand stream of an accepted order is (R72, R76). -/
inductive Place where
  | mem (addr : Nat)
  | relay (r : Nat)
  | imm (v : Nat)
  deriving DecidableEq, Repr

/-- An operand stream of an accepted order: slot, place, WIDE, stride. -/
structure Strm where
  slot : Nat
  place : Place
  wide : Bool
  stride : Option Int
  deriving DecidableEq, Repr

/-- The signature of the current block of an output slot (R296): whether its header has entered, the block, the code so
far, and the bits of a byte of BIT elements not yet complete, with whether one was written. -/
structure SigSt where
  started : Bool
  blk : Nat
  crc : Nat
  bits : Nat
  any : Bool
  deriving DecidableEq, Repr

/-- One pass over an order: performance or reprise (R281). -/
structure Pass where
  /-- first element not retired; the row for SPMV (R219 NEXT, RNEXT) -/
  next : Nat
  /-- elements written to X by COMPRESS, segments closed (R219 OUTCNT) -/
  out : Nat
  /-- elements of A consumed by EXPAND, start of the open segment, next non-zero of the row (R219 AUX) -/
  aux : Nat
  /-- ones written to X by a compare (R121) -/
  ones : Nat
  /-- partial values; part[0] holds the carry of prefix sums and xprev of LINREC (R122, R218) -/
  parts : List (Option Nat)
  /-- values of the current group of 32 (R128, R129); `none` is a skipped element -/
  grp : List (Option (Nat × Nat))
  /-- end of the open segment, and segment lengths read (R125) -/
  segEnd : Option Nat
  segs : Nat
  /-- the open row of SPMV: its bounds, whether it is open, whether some of it is done (R138, R206) -/
  row : Option (Nat × Nat)
  mid : Bool
  /-- the row pointer read last, for a relay of row pointers -/
  ptr : Option Nat
  /-- bits gathered, oldest first, for an output X or Y of BIT elements that goes to a relay or a seal unit (R66) -/
  bitX : List Bool
  bitY : List Bool
  /-- the pass has gone on plainly to the end of the current output element (R290) -/
  plain : Bool
  /-- the writes after the last element are made (R121, R124, R132) -/
  fin : Bool
  /-- the last segment was cut at n (R126) -/
  cut : Bool
  sigX : SigSt
  sigY : SigSt
  /-- flags of the open row of SPMV, which its row contributes when it retires (R205, R210) -/
  flg : Flags
  deriving DecidableEq, Repr

def SigSt.empty : SigSt := ⟨false, 0, 0, 0, false⟩

/-- A pass that has not begun. -/
def Pass.empty : Pass :=
  ⟨0, 0, 0, 0, List.replicate 32 none, [], none, 0, none, false, none, [], [], false, false, false, SigSt.empty, SigSt.empty, 0⟩

/-- The states of a queue's head order (R202): not yet started, running, a suspension whose record is not yet written,
parked, stopped. -/
inductive Phase where
  | queued
  | running
  | closing
  | parked
  | stopped
  deriving DecidableEq, Repr

/-- A signature pair that waits for the comparator (R298): slot, block, performance's and reprise's signature. -/
structure SigPair where
  slot : Nat
  blk : Nat
  p : Nat
  r : Nat
  deriving DecidableEq, Repr

/-- What the performance was before it retired an element that its reprise has not retired yet: its pass, the flags, those
of the block of 65 536 elements, the held writes, and the relay bytes consumed from this element to the next (R230). -/
structure Trail where
  perf : Pass
  flags : Flags
  blk : Flags
  held : Tab (Option Byte)
  rel : List (Nat × Nat)
  deriving DecidableEq, Repr

/-- The run of an order (05, 07). -/
structure Run where
  phase : Phase
  /-- has started, in this or an earlier run -/
  begun : Bool
  /-- recorded or pending suspension cause (R203), and the one before the suspension in progress -/
  cause : Nat
  prev : Nat
  reprised : Bool
  precise : Bool
  /-- trap enables and watchdog limit captured at start and resumption (R210, R223) -/
  trapen : Flags
  wdLimit : Nat
  wdCount : Nat
  perf : Pass
  rep : Pass
  flags : Flags
  /-- trap-enabled flags of the current block of 65 536 elements (R210) -/
  blkFlags : Flags
  plainCount : Nat
  recSeq : Nat
  fslot : Nat
  fkind : Nat
  faddr : Nat
  fpass : Bool
  /-- the first mismatch (R299) -/
  failed : Option SigPair
  /-- performance signatures not yet paired, oldest first; pairs not yet compared -/
  pend : List (Nat × Nat × Nat)
  pairs : List SigPair
  /-- held writes of the two passes (R144) -/
  heldP : Tab (Option Byte)
  heldR : Tab (Option Byte)
  /-- completion status apart from failure (R233) -/
  status : Nat
  /-- the boundary element retires without trapping (R229 PASS) -/
  passOne : Bool
  /-- interleave block length (R281) -/
  blockLen : Nat
  /-- a RESUME waits for the record to be complete or for the world to run: its action (R228) -/
  resume : Option Nat
  /-- elements that SKIP has passed over (R230) -/
  skips : List Nat
  /-- the archive record that ARCAPPEND has opened (R511) -/
  arcRec : Option Nat
  /-- the encore question of a failed order is settled (R302) -/
  encored : Bool
  /-- the progress record as last written (R246) -/
  words : List Nat
  /-- the µs of the start, the resumption or the last retirement (R518) -/
  since : Nat
  /-- the phase that a suspension in progress has ended: what the order was before its record is written (R208, R226) -/
  was : Phase
  /-- the scale exponent of the reprise block in progress (R313) -/
  kscale : Option Int
  /-- empty segments whose result SKIP has passed over, by output index (R229) -/
  skipSegs : List Nat
  /-- the performance's elements ahead of the reprise, newest first -/
  trail : List Trail
  /-- elements below have given their relay and seal bytes already (R230) -/
  shown : Nat
  /-- relay bytes at hand at the watchdog's last µs (R223) -/
  wdSeen : Nat
  /-- ARC.RELEASEw.BELOW of the two logs as the order first started: a later release waits for its end (R517) -/
  belows : Nat × Nat
  /-- WAITLONG has been raised for the present wait (R518), LOGFULL for the wait at start (R522) -/
  waited : Bool
  full : Bool
  deriving DecidableEq, Repr

/-- The run of an order that waits in its queue. -/
def Run.empty : Run :=
  ⟨.queued, false, 0, 0, false, false, 0, 0, 0, Pass.empty, Pass.empty, 0, 0, 0, 0, 0, 0, 0, false, none, [], [], [], [], 0,
   false, 65536, none, [], none, false, [], 0, .queued, none, [], [], 0, 0, (0, 0), false, false⟩

/-- A queue entry: an accepted order (R87). -/
structure Entry where
  ord : OrderD
  strms : List Strm
  /-- element count captured at acceptance (R68, R87) -/
  n : Nat
  /-- captured ENG.OCTL.DEFRND (R87) -/
  dflt : Nat
  tag : Nat
  /-- 0 to 7 a logical caller, 0x40 + n submission ring n of the world's function (R57, R99) -/
  issuer : Nat
  /-- are the windows checked at supervisor level (R360)? -/
  sup : Bool
  /-- acceptance sequence number (R184) -/
  seq : Nat
  /-- descriptor number of a ring-fed order -/
  desc : Option Nat
  /-- frames whose closed buffer the order reads (R308) -/
  frames : List Nat
  /-- elements that the operands read at acceptance and start give: those of A and I of SPMV by its last row pointer, the
  segments of a segmented order by its lengths (R125, R138, R142) -/
  nz : Nat
  run : Run
  deriving DecidableEq, Repr

/-- An order queue of one world of one engine (R83). -/
structure Queue where
  entries : List Entry
  lastTag : Nat
  /-- a SUSPEND acts on the next head order (R227) -/
  suspNext : Bool
  deriving DecidableEq, Repr

def Queue.empty : Queue := ⟨[], 0, false⟩

/-- The time-partition state of an engine (R186 to R191): the table in force, the µs at which its cycle started, its
slots (length, world, LEND), the current slot or open time, and the beat of a boundary whose switch loss still runs. -/
structure Tp where
  on : Bool
  start : Nat
  cycle : Nat
  slots : List (Nat × Nat × Bool)
  slot : Option Nat
  mark : Option Nat
  deriving DecidableEq, Repr

def Tp.empty : Tp := ⟨false, 0, 1000, [], none, none⟩

/-- A physical resource (15, R594): the logical number that it carries (0x3F for none), whether its last self-test
failed, whether it has left service and awaits one (R601), its errors and self-test failures since Call, its last rate
and drift, and its beat-monitor updates. -/
structure Phys where
  logical : Nat
  fail : Bool
  wait : Bool
  errs : Nat
  tests : Nat
  rate : Nat
  drift : Nat
  upd : Nat
  /-- the µs of the last self-test, and whether the next one is brought forward (R597) -/
  tested : Nat
  forward : Bool
  /-- the µs of the last beat-monitor reading (R157) -/
  beatAt : Nat
  deriving DecidableEq, Repr

/-- An entry of the placement record (R612, R616): LOGICAL, WORN, BASE. -/
structure Rec where
  logical : Nat
  worn : Bool
  base : Nat
  deriving DecidableEq, Repr

/-- The test access port (R671): its instruction (0 BYPASS, 1 IDCODE, 2 SAMPLE/PRELOAD, 3 EXTEST, 4 EXTEST_PULSE,
5 EXTEST_TRAIN), whether TRST_N holds it in reset, the boundary values loaded, and the data register's output. -/
structure TapSt where
  ir : Nat
  held : Bool
  boundary : Word
  dr : Word
  deriving DecidableEq, Repr

def TapSt.reset : TapSt := ⟨1, true, 0, 0⟩

/-- The custody controller (16) besides its registers. -/
structure CusSt where
  /-- the mode among Paired, Mixed and Split whose pairing Restrained and Refit keep -/
  base : Nat
  /-- the mode to which the transition in progress leads (R621) -/
  target : Option Nat
  /-- the windows and outputs are those of Curtain (R635) -/
  curtain : Bool
  /-- triggers that wait for the end of the transition (R622): the mode that CUS.MODECTL requests, a fall of PFAIL_N, a
  fall of RESET_N, an event of CUS.CURTPOL -/
  request : Option Nat
  waitPfail : Bool
  waitReset : Bool
  waitCurtain : Bool
  /-- VDD_AON is up, REFCLK_ETH runs (R623, R667) -/
  aon : Bool
  clock : Bool
  /-- filtered levels of RESET_N, PFAIL_N, THERM_N, and the µs of the last change of the first two (R663, R669) -/
  resetN : Bool
  pfailN : Bool
  thermN : Bool
  resetAt : Nat
  pfailAt : Nat
  /-- the pairing request of REP.MODE that waits for the end of a transition: safety + 2 · service -/
  repReq : Option Nat
  /-- a rise of RESET_N is held (R669) -/
  heldRise : Bool
  /-- the µs since which the three conditions for the end of restraint hold (R632) -/
  cool : Option Nat
  /-- the µs since which each sensor reads above 150 °C (R633) -/
  hot : Tab (Option Nat)
  /-- domains in retention (R634) -/
  retained : Word
  /-- the archive's Flush has ended (R528) -/
  flushed : Bool
  /-- comparators whose full proof of this Rehearsal still runs (R630) -/
  proofs : List Nat
  /-- resources whose self-test in this Rehearsal has ended, and the µs of its entry (R630, R631) -/
  tested : List Nat
  rehAt : Nat
  /-- the µs at which Call was left (R595) -/
  callEnd : Nat
  /-- the position of a comparator's next periodic injection, and the µs of the last one (R316) -/
  proofAt : Tab Nat
  proofTime : Tab Nat
  /-- sensors whose last reading was invalid (R632) -/
  invalid : List Nat
  tap : TapSt
  deriving DecidableEq, Repr

def CusSt.reset : CusSt :=
  ⟨6, none, false, none, false, false, false, true, true, true, true, true, 0, 0, none, false, none, [], 0, false, [], [], 0, 0, [], [], [], TapSt.reset⟩

/-- The configuration block (16) besides its registers. -/
structure CfgSt where
  /-- the staging area (R642) -/
  staging : Tab Byte
  /-- the clamp log, oldest entry first (R641) -/
  clamps : List Word
  /-- the commit or preview that runs: preview or not, COUNT (R643, R644) -/
  run : Option (Bool × Nat)
  /-- the digest computation that runs, with the value that it will publish; whether another follows it; whether a field
  of the image has changed since the last start (R647) -/
  digest : Option Word
  again : Bool
  changed : Bool
  /-- the configuration commit of Call has been accepted: RWL fields are locked (R644) -/
  locked : Bool
  /-- the placement of Call has been settled (R612), and the moves still to make (R626): the index of the resource that
  takes over and the logical number that it takes -/
  placed : Bool
  moves : List (Nat × Nat)
  deriving DecidableEq, Repr

def CfgSt.reset : CfgSt := ⟨[], [], none, none, false, false, false, false, []⟩

/-- A swap that waits (R600): kind as in UST.SWAP, resource index of the resource to replace, the physical understudy
asked for, whether it is mandatory, and the µs at which it arose. -/
structure SwapReq where
  kind : Nat
  index : Nat
  phys : Option Nat
  mandatory : Bool
  since : Nat
  /-- its wait of DEFERLIM has expired (R600) -/
  late : Bool
  deriving DecidableEq, Repr

/-- The understudy manager (15) besides its registers: the swaps that wait, and the times of corrected errors of banks and
callers (R596). -/
structure UstSt where
  queue : List SwapReq
  bankCe : Tab (List Nat)
  calCe : Tab (List Nat)
  deriving DecidableEq, Repr

def UstSt.empty : UstSt := ⟨[], [], []⟩

/-- The scratchpad control (08) besides its registers: the spare that carries a logical bank (R359, R387), the spares
used up in each quadrant, the copy in progress of each quadrant, the swaps that wait, and the banks reported worn. -/
structure BankSt where
  spared : Tab (Option Nat)
  used : Tab Nat
  copying : Tab (Option Nat)
  waiting : List Nat
  worn : Tab Bool
  /-- the µs at which scrub has read a word last (R358) -/
  scrubs : Tab (Option Nat)
  deriving DecidableEq, Repr

def BankSt.empty : BankSt := ⟨[], [], [], [], [], []⟩

/-- An HBM controller (08) besides its registers: the weak rows, the repair candidates and the rows repaired softly, as
pseudo-channel and row (R347, R348, R353), the rows with one corrected request read in this scrub pass, the granules
read in it (R349), and the µs since which the readings allow bands 0 to 4 (R345). -/
structure HbcSt where
  weak : List (Nat × Nat)
  cands : List (Nat × Nat)
  soft : List (Nat × Nat)
  once : List (Nat × Nat)
  scrubbed : Nat
  below : List (Option Nat)
  deriving DecidableEq, Repr

def HbcSt.empty : HbcSt := ⟨[], [], [], [], 0, List.replicate 5 none⟩

/-- An encore in progress (R302): the queue of its order and the understudy that runs it. -/
structure Encore where
  q : Nat
  phys : Nat
  deriving DecidableEq, Repr

/-- A descriptor in progress on a submission ring (14, R574 to R583): its number, its 64 bytes, the ring's head after
its fetch, whether it has started, bytes moved, and for RUN the list of order bytes read, the orders issued, the
accepted ones that have not completed, the first completion that is not DONE (index, status, tag), and the rejection
that ended the issue (index, status, offset). -/
structure DescSt where
  id : Nat
  bytes : List Byte
  head : Nat
  started : Bool
  moved : Nat
  list : Option (List Byte)
  issued : Nat
  live : Nat
  bad : Option (Nat × Nat × Nat)
  rej : Option (Nat × Nat × Nat)
  /-- the µs of the fetch, or at which it last moved on (R571) -/
  since : Nat
  deriving DecidableEq, Repr

/-- A submission ring besides its registers: the descriptors in progress, oldest first, the number of the next one,
and the last doorbell value. -/
structure SqSt where
  descs : List DescSt
  nextId : Nat
  bell : Nat
  deriving DecidableEq, Repr

def SqSt.empty : SqSt := ⟨[], 0, 0⟩

/-- A completion ring besides its registers (R584 to R587): the entries that wait, without their last byte, the entries
written since the last interrupt, the µs of the first of them, and the last doorbell value. -/
structure CqSt where
  waiting : List (List Byte)
  /-- the entries of descriptors that have ended beyond the 64 that wait (R586) -/
  extra : List (List Byte)
  count : Nat
  since : Option Nat
  bell : Nat
  deriving DecidableEq, Repr

def CqSt.empty : CqSt := ⟨[], [], 0, none, 0⟩

/-- The host block (14) besides its registers. -/
structure HostSt where
  /-- rings of function f at 64 f + n -/
  sqs : Tab SqSt
  cqs : Tab CqSt
  /-- MSI-X table of function f at 4096 f, and its pending bits at 128 f (R570) -/
  msix : Tab Byte
  pba : Tab Bool
  /-- the function that was served last, and the ring of each function that was (R574) -/
  turn : Nat
  served : Tab Nat
  deriving DecidableEq, Repr

/-- No ring is in use; the rotation begins with ring 0 of PF0 (log entry 159). -/
def HostSt.empty : HostSt := ⟨[], [], [], [], 1, []⟩

/-- A save set (10, R455 to R457). -/
structure SaveSt where
  pc : Word
  st : Word
  wp : Word
  cause : Word
  faddr : Word
  tag : Word
  deriving DecidableEq, Repr

/-- A save set after reset: ST has the reset value of STATUS (R456). -/
def SaveSt.reset : SaveSt := ⟨0, 3, 0, 0, 0, 0⟩

/-- A handler table (R441): TVB, the copy by entry, whether the copy has been loaded, whether it is reloading. -/
structure TabSt where
  base : Word
  copy : Tab Word
  loaded : Bool
  busy : Bool
  deriving DecidableEq, Repr

def TabSt.empty : TabSt := ⟨0, [], false, false⟩

/-- A long operation in flight (R403, R447): result tag, address, level at issue, the physical registers and the vector
registers that it will write, its flags, whether it stands in an open control-write shadow, whether it has stood in one
(R449), and the iterative unit that it takes: 0 none, 1 the divider, 2 and 3 the divide and square-root path of the FP and
of the decimal unit (R400). -/
structure LongOp where
  tag : Nat
  pc : Nat
  lvl : Nat
  dest : List (Nat × Word)
  vdest : List (Nat × Nat)
  flags : Flags
  inShadow : Bool
  shadowed : Bool
  unit : Nat
  deriving DecidableEq, Repr

/-- An entry of a store buffer (R420): address, bytes, level at issue, address of the instruction, shadow. -/
structure SbEnt where
  addr : Nat
  bytes : List Byte
  lvl : Nat
  pc : Nat
  inShadow : Bool
  deriving DecidableEq, Repr

/-- A store whose response is outstanding: address, size, level, and the kind of R440 with which its write failed (0 for
none). -/
structure RespEnt where
  addr : Nat
  size : Nat
  lvl : Nat
  kind : Nat
  deriving DecidableEq, Repr

/-- What has come back for a load: nothing yet, its bytes, or the kind of R440 with which it faults. -/
inductive LoadRes where
  | wait
  | bytes (bs : List Byte)
  | fault (kind : Nat)
  deriving DecidableEq, Repr

/-- A load that has issued and not retired (R402, R421, R422): its address, destination specifier, address read, size, sign
extension, cached or not, and what has come back. -/
structure LoadSt where
  pc : Nat
  d : Nat
  addr : Nat
  size : Nat
  signed : Bool
  cached : Bool
  res : LoadRes
  /-- the µs at which it issued (R571) -/
  since : Nat
  deriving DecidableEq, Repr

/-- A precise exception that waits for a table reload or a spill (R441, R446): cause word, FADDR, saved PC, and whether its
instruction retires with the entry, as SCALL and MCALL do (R445). -/
structure ExcSt where
  cause : Word
  faddr : Nat
  pc : Nat
  ret : Bool
  deriving DecidableEq, Repr

/-- A pending imprecise trap (R448): cause word, FADDR, TAG, level at issue. -/
structure TrapSt where
  cause : Word
  faddr : Word
  tag : Word
  lvl : Nat
  deriving DecidableEq, Repr

/-- The registers of a caller that a cancelled shadow restores (R449): general registers (0 to 7 the globals, 8 + p the
physical windowed register p), window pointer, resident frames, CAL.FCSR, VL, VTYPE and the vector registers. -/
structure CalRegs where
  regs : Tab Word
  wp : Nat
  resident : Nat
  fcsr : Word
  vl : Nat
  vtype : Word
  vregs : Tab Nat
  deriving DecidableEq, Repr

def CalRegs.reset : CalRegs := ⟨[], 0, 0, 0, 0, 0xB, []⟩

/-- What retires with a shadow (R404, R449), in program order: a control write, the flags of a short operation, the long
operations with these tags, for which a write of CAL.FCSR waits. -/
inductive ShadowEv where
  | write (num : Nat) (v : Word)
  | flags (f : Flags)
  | drain (tags : List Nat)
  deriving DecidableEq, Repr

/-- An open control-write shadow (R449): address of the CRW, instructions since, those that retire with SYNC.C, what SYNC.C
applies, what a cancellation restores, and whether a WAIT stands in it. -/
structure ShadowSt where
  pc : Nat
  count : Nat
  ret : Nat
  evs : List ShadowEv
  snap : CalRegs
  wait : Bool
  deriving DecidableEq, Repr

/-- An ORDER of a closed or open shadow that has read nothing yet (R449): its address, the address of the order, the issue
word, the physical register of the result. -/
structure OrdSt where
  pc : Nat
  addr : Nat
  word : Word
  dest : Nat
  deriving DecidableEq, Repr

/-- A logical caller (09, 10) besides its registers in configuration space. -/
structure CalSt where
  /-- it has been started (R624) -/
  on : Bool
  /-- held by the mode: a caller of a mode that runs none -/
  paused : Bool
  /-- it is being handed over to another physical caller (R606) -/
  moving : Bool
  /-- in WAIT (R426) and in curtain hold (R444) -/
  asleep : Bool
  hold : Bool
  pc : Nat
  status : Word
  r : CalRegs
  wsp : Word
  depth : Nat
  tabS : TabSt
  tabV : TabSt
  tabM : TabSt
  saveS : SaveSt
  saveV : SaveSt
  saveM : SaveSt
  longs : List LongOp
  nextTag : Nat
  sb : List SbEnt
  resp : List RespEnt
  /-- loads that have issued and not retired, oldest first (R402, R422) -/
  lds : List LoadSt
  /-- the precise exception that waits to be taken (R446) -/
  exc : Option ExcSt
  trap : Option TrapSt
  shadow : Option ShadowSt
  orders : List OrdSt
  /-- the lines of the data cache, the last one filled first (R416) -/
  lines : List (Nat × List Byte)
  /-- the lines of the instruction cache, and the line whose fill is outstanding (R416) -/
  ilines : List (Nat × List Byte)
  fill : Option Nat
  /-- what the instruction that waits needs of the spill engine: 0 nothing, 1 a spill, 2 a refill (R413, R415) -/
  want : Nat
  deriving DecidableEq, Repr

/-- A caller after reset: machine level, STATUS at its reset value, not started (R436, R456, R624). -/
def CalSt.reset : CalSt :=
  ⟨false, false, false, false, false, 0, 3, CalRegs.reset, 0, 0, TabSt.empty, TabSt.empty, TabSt.empty, SaveSt.reset, SaveSt.reset,
   SaveSt.reset, [], 0, [], [], [], none, none, none, [], [], [], none, 0⟩

/-- The reasons for which the machine stops: none. Every error of the spec leads to a next state (a fault group's
record, a status code, a caller's exception, an order's stop). -/
inductive Fault where
  /-- Raised by no command: every error of the spec leads to a next state. Safe: a stop. -/
  | never
  deriving DecidableEq, Repr

/-- The reasons for which a command is refused. -/
inductive Refusal where
  /-- Raised by `exec` for a command that has no meaning yet, by its name in spec/opcode_table.json. Safe: a stop. -/
  | notModelled (mnemonic : String)
  deriving DecidableEq, Repr

/-- Where the boot ROM stands (R627): the sources that it still has to try (1 and 2: archive copies 0 and 1, 3: the host), the
archive source that it tries with those after it, polling the host's mailbox, or ended. -/
inductive BootSt where
  | next (srcs : List Nat)
  | loading (src : Nat) (rest : List Nat)
  | host
  | ended
  deriving DecidableEq, Repr

/-- The order of the sources that STRAP selects (R627). -/
def bootSources (strap : Nat) : List Nat := if strap = 1 then [1, 2] else if strap = 2 then [3] else [1, 2, 3]

/-- A write of a unit of the block that waits for its memory to come up (R625, R680): the close of a frame, the record of a cue
feeder, the record of a seal unit for an address. -/
inductive Late where
  | close (f : Nat)
  | feed (f : Nat) (rec : List Byte)
  | seal (u a : Nat) (rec : List Byte)
  deriving DecidableEq, Repr

/-- The state of the device. -/
structure State where
  /-- the commands that wait, first in first out -/
  pending : List Instr
  /-- the model's own counter of open points met (log entry 2) -/
  free : Nat
  /-- the value that the last register read returned (the model's own port) -/
  rdata : Word
  /-- device time base in µs (R7, R623) -/
  time : Nat
  /-- beats of the cue router -/
  beats : Nat
  /-- the registers of the configuration space by offset (R29, R32) -/
  regs : Tab Word
  /-- scratchpad and HBM bytes by device address (R337) -/
  mem : Tab Byte
  /-- uncorrectable 8-byte scratchpad words and 32-byte HBM codewords, by address (R352, R356) -/
  eccBad : Tab Bool
  /-- host memory by host address (R571) -/
  hostMem : Tab Byte
  /-- retired-page lists: entry `4096 q + i` of stack `q` holds its state and its page (R354, R384) -/
  retired : Tab (Nat × Nat)
  /-- filtered levels of CUE_IN (R473) -/
  cueIn : Word
  /-- order queue of world w of engine e at 2 e + w (R83) -/
  queues : Tab Queue
  /-- orders accepted so far (R184) -/
  orderSeq : Nat
  /-- pairing in force on an engine whose ENGPEND bit is 1: safety + 2 · service (R279, R312) -/
  engPair : Tab Nat
  tp : Tab Tp
  /-- the encores in progress, oldest first -/
  encore : List Encore
  relays : Tab Relay
  frames : Tab FrameSt
  /-- writes that wait for the memory to come up, oldest first -/
  late : List Late
  cue : CueSt
  ids : IdsSt
  seals : Tab SeaSt
  lnk : LnkSt
  arc : ArcSt
  /-- the physical resources and the placement record by resource index (R594) -/
  res : Tab Phys
  record : Tab Rec
  cus : CusSt
  cfg : CfgSt
  ust : UstSt
  banks : BankSt
  hbc : Tab HbcSt
  /-- the arbiter counters (R373) at 3 · (2^20 · class + 256 · arbiter + requester): grants, waited, longest -/
  counters : Tab Nat
  /-- the arbiters (R372) at 4096 · class + arbiter -/
  arbs : Tab ArbSt
  host : HostSt
  /-- the logical callers -/
  cals : Tab CalSt
  /-- CAL.BEATCNT (R431): the beats of each caller up to the present microsecond, and those of it that a read has shown -/
  calBeats : Tab (Nat × Nat)
  /-- time at which the ALARM_N pulse in progress may end (R489) -/
  alarmEnd : Option Nat
  boot : BootSt
  deriving DecidableEq, Repr

/-- The state right after reset. -/
def State.reset : State where
  pending := []
  free := 0
  rdata := 0
  time := 0
  beats := 0
  regs := []
  mem := []
  eccBad := []
  hostMem := []
  retired := []
  cueIn := 0
  queues := []
  orderSeq := 0
  engPair := []
  tp := []
  encore := []
  relays := []
  frames := []
  late := []
  cue := ⟨[], [], 0, [], [], [], [], [], []⟩
  ids := ⟨[], [], []⟩
  seals := []
  lnk := LnkSt.empty
  arc := ArcSt.empty
  res := []
  record := []
  cus := CusSt.reset
  cfg := CfgSt.reset
  ust := UstSt.empty
  banks := BankSt.empty
  hbc := []
  counters := []
  arbs := []
  host := HostSt.empty
  cals := []
  calBeats := []
  alarmEnd := none
  boot := .next (bootSources 0)

end Sys2Proof.Machine
end

