-- ==== Sys2Proof/Machine/Ops.lean ====
section
/-!
DEFINITION. The named operations over registers, fault groups and memory: register and field access, interrupt
arrivals (R478), the recording of a fault (R484), address targets (R337, R364), windows (R360, R361), the overrides of
R362, and reads and writes of device memory.
-/
namespace Sys2Proof

/-- World 0 is safety, 1 service (R462). -/
def World.idx : World → Nat
  | .safety => 0
  | .service => 1

/-- The world that a bit names. -/
def worldOf (n : Nat) : World := if n = 0 then .safety else .service

namespace Machine

/-! ### Registers -/

/-- The register at offset `a`. -/
def State.reg (s : State) (a : Nat) : Word := Tab.get regReset s.regs a

/-- Set the register at offset `a`. -/
def State.setReg (s : State) (a : Nat) (v : Word) : State := { s with regs := Tab.set regReset s.regs a v }

/-- A field of a register, as a number. -/
def State.rf (s : State) (a : Nat) (f : FP) : Nat := (s.reg a).fld f.lsb f.w

/-- Set a field of a register to `x` modulo `2 ^ w`. -/
def State.setRf (s : State) (a : Nat) (f : FP) (x : Nat) : State := s.setReg a ((s.reg a).setFld f.lsb f.w x)

/-- A one-bit field as a truth value. -/
def State.rb (s : State) (a : Nat) (f : FP) : Bool := s.rf a f == 1

/-- Add `d` to a field, wrapping. -/
def State.addRf (s : State) (a : Nat) (f : FP) (d : Nat) : State := s.setRf a f (s.rf a f + d)

/-- Add `d` to a field, saturating at all ones. -/
def State.satRf (s : State) (a : Nat) (f : FP) (d : Nat) : State := s.setRf a f (satAdd (s.rf a f) d (2 ^ f.w - 1))

/-- The next free value: an open point of the spec (log entry 2). -/
def State.takeFree (s : State) : Word × State := (Config.freeValue s.free, { s with free := s.free + 1 })

/-! ### Interrupt arrivals and fault groups -/

/-- An arrival at interrupt source `src` (R478); the flag says that it was lost at COUNT 255. -/
def State.arriveCore (s : State) (src : Nat) : State × Bool :=
  let a := rIdsSrcstat src
  if !s.rb a fIdsSrcstatPend && !s.rb a fIdsSrcstatActive then (s.setRf a fIdsSrcstatPend 1, false)
  else if s.rf a fIdsSrcstatCount = 255 then (s.setRf a fIdsSrcstatOvf 1, true)
  else (s.addRf a fIdsSrcstatCount 1, false)

/-- The kinds marked S (R486, R651, R617, R656). -/
def Blk.alwaysSafety : Blk → Nat
  | .hbc => 0x2 | .rep => 0x4 | .scp => 0x4 | .cus => 0xE | .ust => 0x8 | .cfg => 0x8 | _ => 0

/-- A fault to record (R484, R487). -/
structure Flt where
  blk : Blk
  inst : Nat
  kind : Nat
  world : Option World
  source : Nat
  detail : Nat
  addr : Nat
  inj : Bool
  deriving DecidableEq, Repr

/-- Is the fault safety-class (R486, R488)? -/
def Flt.safety (f : Flt) : Bool :=
  f.blk.classMask.testBit f.kind &&
  (f.inj || f.blk.alwaysSafety.testBit f.kind || f.world == some .safety)

/-- The block index of R477 of a block's instance. -/
def Blk.at (b : Blk) (inst : Nat) : Nat := b.place.index + inst

/-- The FLT.FIRST0 word of a fault (R492). -/
def Flt.first0 (f : Flt) : Nat :=
  f.kind + 2 ^ 5 + 2 ^ 6 * f.safety.toNat + 2 ^ 7 * (match f.world with | some w => if f.inj then 0 else w.idx | none => 0) +
  2 ^ 8 * (f.source % 256) + 2 ^ 16 * (f.detail % 65536) + 2 ^ 32 * f.inj.toNat

/-- Steps 1 and 2 of R484 in the fault group of block index `k`; the flag says that the fault is not lost. -/
def State.fltMark (s : State) (f : Flt) : State × Bool :=
  let k := f.blk.at f.inst
  let st := s.reg (rFltStat k)
  if st.bit f.kind then
    let s := s.setReg (rFltLost k) (((s.reg (rFltLost k)).setBit 0 true).setBit (32 + f.kind) true)
    (s.satRf (rFltLostcnt k) fFltLostcntCount 1, false)
  else
    let s := s.setReg (rFltStat k) (st.setBit f.kind true)
    let s := if s.rb (rFltFirst0 k) fFltFirst0Valid then s
      else ((s.setReg (rFltFirsta k) (BitVec.ofNat 64 (f.addr % 2 ^ 48))).setReg (rFltFirstt k)
        (BitVec.ofNat 64 s.time)).setReg (rFltFirst0 k) (BitVec.ofNat 64 f.first0)
    (s, true)

/-- The OVERRUN fault of the interrupt distributor for source `src` (R478). -/
def overrun (src : Nat) : Flt := ⟨.ids, 0, 2, none, 0, src, 0, false⟩

/-- Record a fault (R484), steps 1 to 3. A lost arrival raises OVERRUN in turn; OVERRUN that makes itself arrive is
recorded once, then lost, so a depth of 3 suffices. The flag says that step 4 is due. -/
def State.fltCore : Nat → State → Flt → State × Bool
  | 0, s, f => let (s, ok) := s.fltMark f; (s, ok && f.safety)
  | n + 1, s, f =>
    let k := f.blk.at f.inst
    let (s, ok) := s.fltMark f
    if !ok then (s, false)
    else
      let arrive (s : State) (src : Nat) : State :=
        let (s, lost) := s.arriveCore src
        if lost then (State.fltCore n s (overrun src)).1 else s
      let s := if (s.reg (rFltMen k)).bit f.kind then arrive s (352 + 2 * k) else s
      let s := if (s.reg (rFltSen k)).bit f.kind then arrive s (353 + 2 * k) else s
      (s, f.safety)

/-- Record a fault of a kind that is never safety-class. -/
def State.flt (s : State) (f : Flt) : State := (State.fltCore 3 s f).1

/-- A fault without world, source, detail and address. -/
def Flt.plain (b : Blk) (inst kind : Nat) : Flt := ⟨b, inst, kind, none, 0, 0, 0, false⟩

/-- The LOCKED kind of a block (R12, R679). -/
def State.locked (s : State) (b : Blk) (inst : Nat) : State := s.flt (Flt.plain b inst 0)

/-- An arrival at an interrupt source (R478). -/
def State.arrive (s : State) (src : Nat) : State :=
  let (s, lost) := s.arriveCore src
  if lost then s.flt (overrun src) else s

/-! ### Addresses -/

/-- What lies at a device address (R337, R364): boot ROM, scratchpad or HBM at the address given, configuration space
at the offset given, the host window at the offset given, or nothing. -/
inductive Target where
  | rom (off : Nat)
  | mem (a : Nat)
  | cfg (off : Nat)
  | host (off : Nat)
  | void
  deriving DecidableEq, Repr

/-- First addresses of scratchpad, HBM, configuration space and host window (R337). -/
def scpBase : Nat := 0x4000_0000
def hbmBase : Nat := 0x10_0000_0000
def cfgBase : Nat := 0x1000_0000
def hostBase : Nat := 0x100_0000_0000

/-- Is the address in scratchpad, in HBM (R337)? -/
def inScp (a : Nat) : Bool := decide (scpBase ≤ a ∧ a < 0x4800_0000)
def inHbm (a : Nat) : Bool := decide (hbmBase ≤ a ∧ a < 0x34_0000_0000)

/-- The target of an address (R337, R364). -/
def State.target (s : State) (a : Nat) : Target :=
  if a < 0x4_0000 then
    let map := s.rb rMtxRemap fMtxRemapMap
    let zb := s.rf rMtxZbase fMtxZbaseBase * 2 ^ 18 + a
    match s.rf rMtxRemap fMtxRemapZsel with
    | 1 => .mem zb
    | 2 => if map then .mem zb else .rom a
    | _ => if map then .mem (scpBase + a) else .rom a
  else if inScp a || inHbm a then .mem a
  else if cfgBase ≤ a ∧ a < 0x2000_0000 then .cfg (a - cfgBase)
  else if hostBase ≤ a ∧ a < 0x200_0000_0000 then .host (a - hostBase)
  else .void

/-- The local area of which stack an HBM address lies in, if any (R340). -/
def State.localOf (s : State) (a : Nat) : Option Nat :=
  let l := s.rf rMtxHbmsplit fMtxHbmsplitLocal * 2 ^ 30
  let g := 4 * (36 * 2 ^ 30 - l)
  if !inHbm a ∨ a - hbmBase < g ∨ l = 0 then none else some ((a - hbmBase - g) / l)

/-- The pseudo-channel of an HBM address (R341, R342). -/
def State.pseudoChannel (s : State) (a : Nat) : Nat :=
  let o := a - hbmBase
  let x (v i w : Nat) := v / 2 ^ i % 2 ^ w
  match s.localOf a with
  | none => (x o 8 7 ^^^ x o 20 7) ^^^ x o 32 7
  | some q =>
    let l := s.rf rMtxHbmsplit fMtxHbmsplitLocal * 2 ^ 30
    let lo := o - 4 * (36 * 2 ^ 30 - l) - q * l
    32 * q + ((x lo 8 5 ^^^ x lo 20 5) ^^^ x lo 32 5)

/-- The within-channel offset of an HBM address (R341, R342). -/
def State.channelOffset (s : State) (a : Nat) : Nat :=
  let o := a - hbmBase
  match s.localOf a with
  | none => 256 * (o / 2 ^ 15) + o % 256
  | some q =>
    let lg := s.rf rMtxHbmsplit fMtxHbmsplitLocal
    let lo := o - 4 * (36 - lg) * 2 ^ 30 - q * lg * 2 ^ 30
    (36 - lg) * 2 ^ 25 + 256 * (lo / 2 ^ 13) + lo % 256

/-! ### Windows -/

/-- Kinds of access (R361). -/
inductive Acc where
  | rd | wr | rmw | fetch
  deriving DecidableEq, Repr

/-- Whose windows check an access (R360): nobody's, or a world's at a level. -/
inductive View where
  | free
  | win (w : World) (sup : Bool)
  deriving DecidableEq, Repr

/-- Does window `n` of world `w` cover address `a` (R361)? Under Curtain every window counts as EN = 0 (R635). -/
def State.covers (s : State) (w : World) (n a : Nat) : Bool :=
  let at' := rMtxWattr w.idx n
  let page := a / 4096
  let part := s.rf at' fMtxWattrIntlv
  !s.cus.curtain && s.rb at' fMtxWattrEn && decide (s.rf (rMtxWbase w.idx n) fMtxWbaseBase ≤ page) &&
  decide (page ≤ s.rf (rMtxWlim w.idx n) fMtxWlimLimit) &&
  (if part < 4 then s.localOf a == none else s.localOf a == some (part - 4))

/-- The lowest-numbered covering window (R361). -/
def State.window (s : State) (w : World) (a : Nat) : Option Nat :=
  (List.range 16).find? fun n => s.covers w n a

/-- Does the window allow the access at the level (R361)? -/
def State.allows (s : State) (w : World) (n : Nat) (sup : Bool) (k : Acc) : Bool :=
  let at' := rMtxWattr w.idx n
  (!s.rb at' fMtxWattrSup || sup) &&
  match k with
  | .rd => s.rb at' fMtxWattrRd
  | .wr => s.rb at' fMtxWattrWr
  | .rmw => s.rb at' fMtxWattrRd && s.rb at' fMtxWattrWr
  | .fetch => s.rb at' fMtxWattrEx

/-- Buffer 0 or 1 of frame `f`: its address and size (R304, R335). -/
def State.frameBuf (s : State) (f b : Nat) : Nat × Nat :=
  let size := 4096 * 2 ^ s.rf (rRepFrcfg f) fRepFrcfgSize
  (scpBase + (s.rf (rRepFrcfg f) fRepFrcfgOffset * 4096 + b * size) % 2 ^ 27, size)

/-- Does `a` lie in the buffer of `n` bytes at `b`, which wraps in scratchpad? -/
def inBuf (b n a : Nat) : Bool := inScp a && decide ((a + 2 ^ 27 - b) % 2 ^ 27 < n)

/-- Is `a` in the closed buffer of frame `f` (R304, R307)? -/
def State.inClosed (s : State) (f a : Nat) : Bool :=
  s.rb (rRepFrcfg f) fRepFrcfgEn && s.rb (rRepFrstat f) fRepFrstatClosed &&
  (let (b, n) := s.frameBuf f (s.rf (rRepFrstat f) fRepFrstatClosedbuf); inBuf b n a)

/-- Is `a` in some closed snapshot buffer (R307, R362)? -/
def State.frozen (s : State) (a : Nat) : Bool := (List.range 16).any fun f => s.inClosed f a

/-- Is the page of `a` fenced (R354, R362)? The list of stack `q` stands at keys `4096 q` upward; an entry holds its
state (R384) and page. -/
def State.fenced (s : State) (a : Nat) : Bool :=
  inHbm a && s.retired.any fun e => decide (e.2.1 = 2 ∧ e.2.2 = a / 4096)

/-- Why an access is refused: the kinds of R213, and a write to a closed snapshot buffer (R307). -/
inductive MErr where
  | nomap | perm | cfgspace | range | ecc | host | frozen
  deriving DecidableEq, Repr

/-- The number of a memory-fault kind (R213, R307). -/
def MErr.code : MErr → Nat
  | .nomap => 1 | .perm => 2 | .cfgspace => 3 | .range => 4 | .ecc => 5 | .host => 6 | .frozen => 2

/-- The window check of one byte's access (R360 to R362, R364); answers the target and the number of the deciding
window's world for R571. -/
def State.check (s : State) (v : View) (k : Acc) (a : Nat) : Except MErr Target :=
  let t := s.target a
  let phys := match t with | .mem p => p | _ => a
  let wr := match k with | .wr | .rmw => true | _ => false
  if s.fenced phys then .error .nomap
  else if wr && s.frozen phys then .error .frozen
  else
    match v with
    | .free => .ok t
    | .win w sup =>
      match s.window w a with
      | none => .error .nomap
      | some n => if s.allows w n sup k then .ok t else .error .perm

/-! ### Memory -/

/-- What an unlisted byte of memory reads as: zero (R680). -/
def memDefault (_ : Nat) : Byte := 0

/-- What an unlisted byte of host memory reads as (log entry 3). -/
def hostDefault (_ : Nat) : Byte := 0

def noBad (_ : Nat) : Bool := false

/-- The canonical form of memory. -/
abbrev Memory.wf (m : Tab Byte) : Bool := Tab.wf memDefault m

/-- The code unit of an address: the aligned 8-byte scratchpad word or the aligned 32-byte HBM codeword (R350, R355),
as first address and size. -/
def codeUnit (a : Nat) : Nat × Nat := if inScp a then (a / 8 * 8, 8) else (a / 32 * 32, 32)

def State.byte (s : State) (a : Nat) : Byte := Tab.get memDefault s.mem a
def State.setByte (s : State) (a : Nat) (b : Byte) : State := { s with mem := Tab.set memDefault s.mem a b }

/-- Write bytes to scratchpad or HBM from address `a` upward. -/
def State.setBytes (s : State) (a : Nat) (bs : List Byte) : State :=
  { s with mem := Tab.setMany memDefault s.mem a bs }

/-- Is the code unit of `a` uncorrectable (R352, R356)? -/
def State.bad (s : State) (a : Nat) : Bool := Tab.get noBad s.eccBad (codeUnit a).1
def State.setBad (s : State) (a : Nat) (b : Bool) : State :=
  { s with eccBad := Tab.set noBad s.eccBad (codeUnit a).1 b }

/-- The code units that `n` bytes from `a` touch. -/
def unitsOf (a n : Nat) : List Nat :=
  if n = 0 then []
  else
    let u := (codeUnit a).2
    let c := (codeUnit a).1
    (List.range ((a + n - 1 - c) / u + 1)).map fun i => c + i * u

/-- Write bytes to scratchpad or HBM as hardware does: a code unit written whole becomes valid, one written in part
keeps its mark (R351, R352, R356; log entry 8). -/
def State.poke (s : State) (a : Nat) (bs : List Byte) : State :=
  let n := bs.length
  let s := s.setBytes a bs
  if s.eccBad = [] then s
  else (unitsOf a n).foldl (fun s c =>
    if a ≤ c ∧ c + (codeUnit c).2 ≤ a + n then s.setBad c false else s) s

/-- Does the span of `n` bytes at `lo` cover the code unit that starts at `c`? -/
def covered (lo n c : Nat) : Bool := decide (lo ≤ c ∧ c + (codeUnit c).2 ≤ lo + n)

/-- The first uncorrectable code unit that `m` bytes at `a` write to and that the span of `n` bytes at `lo`, which the
whole transfer writes, covers only in part: the read of its read-modify-write fails (R351, R356). -/
def State.partIn (s : State) (lo n a m : Nat) : Option Nat :=
  if s.eccBad = [] then none else (unitsOf a m).find? fun u => s.bad u && !covered lo n u

/-- The same for a write by itself. -/
def State.partBad (s : State) (a n : Nat) : Option Nat := s.partIn a n a n

/-- Write the bytes `bs` at `a` of a transfer that writes the span of `n` bytes at `lo`: a code unit inside the span
becomes valid with its last byte (R351, R352, R356; log entry 8). -/
def State.pokeIn (s : State) (lo n a : Nat) (bs : List Byte) : State :=
  let s := s.setBytes a bs
  if s.eccBad = [] then s
  else (unitsOf a bs.length).foldl (fun s c =>
    if covered lo n c && decide (c + (codeUnit c).2 ≤ a + bs.length) then s.setBad c false else s) s

/-- The code units all of whose bytes are among the addresses just written become valid (R352). -/
def State.heal (s : State) (as : List Nat) : State :=
  s.eccBad.foldl (fun s e =>
    if (List.range (codeUnit e.1).2).all fun i => as.contains (e.1 + i) then s.setBad e.1 false else s) s

/-- The `n` bytes of scratchpad or HBM from `a`. -/
def State.peek (s : State) (a n : Nat) : List Byte := Tab.getMany memDefault s.mem a n

/-- Is any code unit of the `n` bytes at `a` uncorrectable? -/
def State.anyBad (s : State) (a n : Nat) : Bool :=
  s.eccBad != [] && (unitsOf a n).any fun c => s.bad c

/-- The host address of an offset in the host window for a world (R571). -/
def State.hostAddr (s : State) (w : Nat) (off : Nat) : Nat := ((s.reg (rHstObbase w)).toNat + off) % 2 ^ 64

/-- The world whose outbound base an access takes (R571). -/
def View.obWorld : View → Nat
  | .free => 0
  | .win w _ => w.idx

/-- Do accesses to the host window of world `w` reach the host: the host block is powered, the link up, the function a
bus master (R571, R589, R591)? -/
def State.hostUp (s : State) (w : Nat) : Bool :=
  s.rb rHstPstat fHstPstatLinkup && (s.rf rHstPstat fHstPstatBme).testBit w && (s.reg rPwrDomstat).bit 45

/-- The paths of a master (R365): boot ROM, configuration space, host window. -/
structure Paths where
  rom : Bool
  cfg : Bool
  host : Bool
  deriving DecidableEq, Repr

def Paths.engine : Paths := ⟨false, false, true⟩
def Paths.fetch : Paths := ⟨true, false, false⟩
def Paths.data : Paths := ⟨true, true, true⟩
def Paths.hostBlock : Paths := ⟨false, true, false⟩
def Paths.plain : Paths := ⟨false, false, false⟩

/-- Is there a path to the target; an access without one is refused before any window check (R34, R338, R366). -/
def Paths.reach (p : Paths) : Target → Except MErr Unit
  | .mem _ => .ok ()
  | .rom _ => if p.rom then .ok () else .error .nomap
  | .cfg _ => if p.cfg then .ok () else .error .cfgspace
  | .host _ => if p.host then .ok () else .error .nomap
  | .void => .error .nomap

/-- One byte read by a master through its windows. -/
def State.loadByte (s : State) (p : Paths) (v : View) (k : Acc) (a : Nat) : Except MErr Byte := do
  if a ≥ 2 ^ 48 then .error .nomap
  p.reach (s.target a)
  match ← s.check v k a with
  | .mem q => if s.bad q then .error .ecc else .ok (s.byte q)
  | .rom o => .ok (Config.bootRom o)
  | .host o => if s.hostUp v.obWorld then .ok (Tab.get hostDefault s.hostMem (s.hostAddr v.obWorld o)) else .error .host
  | .cfg _ => .ok 0
  | .void => .error .nomap

/-- `n` bytes read from `a` upward. -/
def State.load (s : State) (p : Paths) (v : View) (k : Acc) (a : Nat) : Nat → Except MErr (List Byte)
  | 0 => .ok []
  | n + 1 => do
    let b ← s.loadByte p v k a
    let bs ← s.load p v k (a + 1) n
    .ok (b :: bs)

/-- Would each of the `n` bytes from `a` accept the access? -/
def State.checkAll (s : State) (p : Paths) (v : View) (k : Acc) (a : Nat) : Nat → Except MErr Unit
  | 0 => .ok ()
  | n + 1 => do
    if a ≥ 2 ^ 48 then .error .nomap
    p.reach (s.target a)
    match ← s.check v k a with
    | .rom _ => .error .perm
    | .host _ => if s.hostUp v.obWorld then s.checkAll p v k (a + 1) n else .error .host
    | .mem _ | .cfg _ => s.checkAll p v k (a + 1) n
    | .void => .error .nomap

/-- Write one checked byte where it belongs; configuration space is written through its own operation. -/
def State.storeByte (s : State) (v : View) (a : Nat) (b : Byte) : State :=
  match s.target a with
  | .mem q => s.setByte q b
  | .host o => { s with hostMem := Tab.set hostDefault s.hostMem (s.hostAddr v.obWorld o) b }
  | _ => s

/-! ### Relay storage (R170 to R172) -/

def relayDefault (_ : Nat) : Relay := Relay.empty

def State.relay (s : State) (r : Nat) : Relay := Tab.get relayDefault s.relays r
def State.setRelay (s : State) (r : Nat) (x : Relay) : State := { s with relays := Tab.set relayDefault s.relays r x }

/-- Blocks of 256 bytes that relay `r` holds (R180). -/
def State.relayBlocks (s : State) (r : Nat) : Nat := 16 * 2 ^ s.rf (rScpRlyctl r) fScpRlyctlDepth

/-- Address of byte `o` of the main area (R170). -/
def State.relayMain (s : State) (r o : Nat) : Nat :=
  let d := 256 * s.relayBlocks r
  let al := min d 16384
  scpBase + (s.rf (rScpRlyctl r) fScpRlyctlOffset * 4096 / al * al + o) % 2 ^ 27

/-- Address of the reprise copy of the main-area byte at `a` (R171). -/
def State.relayRep (s : State) (r a : Nat) : Nat :=
  let d := 256 * s.relayBlocks r
  scpBase + (((a - scpBase) ^^^ 0x3FF8) + (if d < 16384 then 0 else d)) % 2 ^ 27

/-- Visible bytes from the start of `head`. -/
def Relay.visible (x : Relay) : Nat := x.fills.foldl (fun n b => n + b.1) 0

/-- Does the relay hold data, or is an end of it bound (R172)? -/
def Relay.inUse (x : Relay) : Bool := x.prod.isSome || x.cons.isSome || !x.fills.isEmpty || x.part != 0

/-- The areas of relay `r` as spans of scratchpad addresses: the main area, and the reprise area with the alignment that
the XOR of R171 keeps. -/
def State.relayAreas (s : State) (r : Nat) : List (Nat × Nat) :=
  let d := 256 * s.relayBlocks r
  let m := s.relayMain r 0
  if d < 16384 then [(m, d), (scpBase + (s.relayRep r m - scpBase) / d * d, d)] else [(m, 2 * d)]

/-- Do two spans of scratchpad addresses meet, round the end of the scratchpad included? -/
def spansMeet (b m a n : Nat) : Bool :=
  decide ((a + 2 ^ 27 - b) % 2 ^ 27 < m) || decide ((b + 2 ^ 27 - a) % 2 ^ 27 < n)

/-- A write of `n` bytes at scratchpad address `a` by the producer of relay `own`, or by another master: the contents of
every other relay in use that it meets become unspecified (R172), as far as they are written. -/
def State.touchBut (s : State) (own : Option Nat) (a n : Nat) : State :=
  if !inScp a || n = 0 then s
  else s.relays.foldl (fun s e =>
    let x := s.relay e.1
    if some e.1 != own && x.inUse && (s.relayAreas e.1).any fun y => spansMeet y.1 y.2 a n then
      { s.setRelay e.1 { x with spoilt := some (s.free, x.visible + x.part) } with free := s.free + 1 }
    else s) s

/-- A write by a master that feeds no relay (R172). -/
def State.touch (s : State) (a n : Nat) : State := s.touchBut none a n

/-- Write bytes to a checked span, as part of a transfer that writes the span of `n` bytes at `lo`. Scratchpad and HBM go
through `pokeIn`. -/
def State.storeIn (s : State) (lo n : Nat) (v : View) (a : Nat) (bs : List Byte) : State :=
  match s.target a with
  | .mem q => (s.pokeIn (q + lo - a) n q bs).touch q bs.length
  | _ => ((List.range bs.length).zip bs).foldl (fun s x => s.storeByte v (a + x.1) x.2) s

/-- Write bytes to a checked span. -/
def State.storeBytes (s : State) (v : View) (a : Nat) (bs : List Byte) : State := s.storeIn a bs.length v a bs

/-- Would a write of `n` bytes at `a` be carried out: path, windows, overrides, and the read of the read-modify-write of a
code unit written in part (R351, R356, R366)? -/
def State.writable (s : State) (p : Paths) (v : View) (a n : Nat) : Except MErr Unit :=
  match s.checkAll p v .wr a n with
  | .error e => .error e
  | .ok _ => match s.target a with
    | .mem q => if (s.partBad q n).isSome then .error .ecc else .ok ()
    | _ => .ok ()

/-- The first byte of a write of `n` bytes at `a` that is refused, or whose code unit, written in part, cannot be read. -/
def State.firstRefused (s : State) (p : Paths) (v : View) (a n : Nat) : Nat :=
  match (List.range n).find? fun i => match s.checkAll p v .wr (a + i) 1 with | .ok _ => false | .error _ => true with
  | some i => a + i
  | none => match s.target a with
    | .mem q => (match s.partBad q n with | some u => a + (u - q) | none => a)
    | _ => a

/-- Check and write `bs` at `a`. -/
def State.store (s : State) (p : Paths) (v : View) (a : Nat) (bs : List Byte) : Except MErr State :=
  match s.writable p v a bs.length with
  | .error e => .error e
  | .ok _ => .ok (s.storeBytes v a bs)

/-- FROZEN (R307, R362): `src` is the requester code of the master (R374). -/
def State.mtxFrozen (s : State) (src a : Nat) : State := s.flt ⟨.mtx, 0, 3, none, src, 0, a, false⟩

/-- Does a write of one byte pass the windows `v` and the overrides of R362? -/
def State.passes (s : State) (v : View) (a : Nat) : Bool := match s.check v .wr a with | .ok _ => true | .error _ => false

/-- A unit of the block writes bytes to scratchpad under the windows `v`, or under none (R217, R360, R411): a byte that the
windows refuse stays, and so does one of a closed snapshot buffer, with FROZEN (R307, R362). -/
def State.pokeOwn (s : State) (src : Nat) (v : View) (a : Nat) (bs : List Byte) : State :=
  let at' := (List.range bs.length).zip bs
  let t := if at'.all fun x => s.passes v (a + x.1) then (s.poke a bs).touch a bs.length
    else at'.foldl (fun t x => if s.passes v (a + x.1) then (t.poke (a + x.1) [x.2]).touch (a + x.1) 1 else t) s
  match (List.range bs.length).find? fun i => s.frozen (a + i) with
  | none => t
  | some i => t.mtxFrozen src (a + i)

end Machine
end Sys2Proof
end

