-- ==== Sys2Proof/Machine/Place.lean ====
section
/-!
DEFINITION. Physical resources and what they carry (R21, R23, R593, R594), power domains (R637), and the mode's effect
on engines and worlds (R618, R619, R634).
-/
namespace Sys2Proof.Machine

/-- No logical resource (R616). -/
def noLogical : Nat := 0x3F

/-- Resource indices (R594). -/
def ixEng (p : Nat) : Nat := p
def ixCal (p : Nat) : Nat := 0x20 + p
def ixCmp (k : Nat) : Nat := 0x30 + k
def ixSea (p : Nat) : Nat := 0x38 + p
def ixLane (p l : Nat) : Nat := 0x100 + 0x40 * p + l
def ixSect (p s : Nat) : Nat := 0x800 + 4 * p + s

/-- The default placement (R21, R593). -/
def defaultLogical (i : Nat) : Nat :=
  if i < 0x14 then (if i % 5 = 4 then noLogical else 4 * (i / 5) + i % 5)
  else if 0x20 ≤ i ∧ i < 0x28 then i - 0x20
  else if 0x30 ≤ i ∧ i < 0x34 then i - 0x30
  else if 0x38 ≤ i ∧ i < 0x3E then i - 0x38
  else if 0x100 ≤ i ∧ i < 0x600 ∧ i % 0x40 < 32 then i % 0x40
  else noLogical

/-- Does a resource index name a resource (R594)? -/
def isResource (i : Nat) : Bool :=
  decide (i < 0x14) || decide (0x20 ≤ i ∧ i < 0x2A) || decide (0x30 ≤ i ∧ i < 0x35) ||
  decide (0x38 ≤ i ∧ i < 0x40) || decide (0x100 ≤ i ∧ i < 0x600 ∧ i % 0x40 < 34) || decide (0x800 ≤ i ∧ i < 0x850)

def physDefault (i : Nat) : Phys := ⟨defaultLogical i, false, false, 0, 0, 0, 0, 0, 0, false, 0⟩
def recDefault (i : Nat) : Rec := ⟨defaultLogical i, false, 0⟩

def State.phys (s : State) (i : Nat) : Phys := Tab.get physDefault s.res i
def State.setPhys (s : State) (i : Nat) (x : Phys) : State := { s with res := Tab.set physDefault s.res i x }
def State.recOf (s : State) (i : Nat) : Rec := Tab.get recDefault s.record i
def State.setRecOf (s : State) (i : Nat) (x : Rec) : State := { s with record := Tab.set recDefault s.record i x }
def State.worn (s : State) (i : Nat) : Bool := (s.recOf i).worn

/-- Is power domain `d` on (R637, PWR.DOMSTAT)? -/
def State.domOn (s : State) (d : Nat) : Bool := (s.reg rPwrDomstat).bit d

/-- Has the function with bit `b` of CUS.READY come up (R625)? -/
def State.ready (s : State) (b : Nat) : Bool := (s.reg rCusReady).bit b

/-- The resource among `n` from index `base` that carries logical number `l`. -/
def State.carrier (s : State) (base n l : Nat) : Option Nat :=
  ((List.range n).map (base + ·)).find? fun i => (s.phys i).logical == l

/-- The physical engine that carries logical engine `e` (ENG.PLACE.PHYS), and its quadrant. -/
def State.engPhys (s : State) (e : Nat) : Nat := (s.carrier 0 20 e).getD 0x1F
def State.engQuad (s : State) (e : Nat) : Nat := s.engPhys e / 5

/-- The comparator that serves quadrant `q` (R315, R322). -/
def State.serving (s : State) (q : Nat) : Option Nat := (s.carrier 0x30 5 q).map (· - 0x30)

def State.proven (s : State) (k : Nat) : Bool := s.rb (rRepCstat k) fRepCstatProven

/-- REP.MSTAT.PROOFOK (R315): every quadrant is served by a proven comparator. -/
def State.proofOk (s : State) : Bool :=
  (List.range 4).all fun q => match s.serving q with | some k => s.proven k | none => false

/-- The power domain of a resource (R23, R27, R637). -/
def resDomain (i : Nat) : Nat :=
  if i < 0x20 then i
  else if i < 0x30 then 20 + (i - 0x20)
  else if i < 0x38 then 47
  else if i < 0x40 then 46
  else if i < 0x800 then (i - 0x100) / 0x40
  else (i - 0x800) / 4

/-- The resources that Rehearsal tests: lanes, engines, callers and seal units (R630). -/
def testPlan : List Nat :=
  (List.range 20).flatMap (fun p => (List.range 34).map fun l => ixLane p l) ++ (List.range 20).map ixEng ++
  (List.range 10).map ixCal ++ (List.range 8).map ixSea

/-- A free understudy (R599, R601). -/
def State.isFree (s : State) (i : Nat) : Bool :=
  isResource i && decide (i < 0x800) && (s.phys i).logical == noLogical && !s.worn i && !(s.phys i).fail && !(s.phys i).wait &&
  s.domOn (resDomain i)

/-- A free understudy engine (R599). -/
def State.engFree (s : State) (p : Nat) : Bool := s.isFree (ixEng p)

/-- The current mode (CUS.MODE, R618). -/
def State.mode (s : State) : Nat := s.rf rCusMode fCusModeMode

/-- The mode whose pairing and domains are in force: Restrained and Refit keep those of their entry (R310, R618). -/
def State.pairMode (s : State) : Nat := if s.mode = 7 ∨ s.mode = 11 then s.cus.base else s.mode

/-- Does the mode run engine `e`'s queues (R618, R634)? Both worlds alike. Orders park at the triggers of Curtain and
Flush (R635, R636). -/
def State.modeRuns (s : State) (e : Nat) : Bool :=
  !s.cus.curtain && s.cus.target != some 10 &&
  match s.mode with
  | 2 | 4 | 5 | 6 | 7 | 11 => true
  | 8 => e == 0
  | _ => false

/-- No comparator serves the engines (R55). -/
def State.noComparators (s : State) : Bool := s.pairMode == 6 || s.mode == 8

end Sys2Proof.Machine
end

