-- ==== Sys2Proof/Machine/CalCore.lean ====
section
/-!
DEFINITION. The logical callers as the other blocks see them (09, 10): their state by number, level and world (R435), the
physical caller that carries each, and the conditions under which a caller is quiesced (R437).
-/
namespace Sys2Proof.Machine

/-- Every caller at reset; caller 0 has been started (R624). -/
def calDefault (c : Nat) : CalSt := { CalSt.reset with on := c == 0 }

/-- Caller beats before the first one. -/
def beatsDefault (_ : Nat) : Nat × Nat := (0, 0)

def State.cal (s : State) (c : Nat) : CalSt := Tab.get calDefault s.cals c
def State.setCal (s : State) (c : Nat) (x : CalSt) : State := { s with cals := Tab.set calDefault s.cals c x }

/-- Caller `c` reports a change of its acceptance conditions: its refusals are cleared (R479). -/
def State.calReport (s : State) (c : Nat) : State :=
  { s with ids := { s.ids with refused := s.ids.refused.filter fun x => x.1 / 512 != c } }

/-- STATUS of caller `c` becomes `v`; a change of LVL, IES, IEM or HELD is reported (R479). -/
def State.setStatus (s : State) (c : Nat) (v : Word) : State :=
  let old := (s.cal c).status
  let s := s.setCal c { s.cal c with status := v }
  if old.toNat % 64 = v.toNat % 64 then s else s.calReport c

/-- STATUS.LVL (R435, R456): 0 user, 1 supervisor, 3 machine. -/
def CalSt.lvl (x : CalSt) : Nat := x.status.toNat % 4

/-- The world that CAL.WORLD names (R435, R438). -/
def State.calWorld (s : State) (c : Nat) : World := worldOf (s.rf (rCalWorld c) fCalWorldWorld)

/-- Whose windows check an access of caller `c` at level `lvl` (R360, R435). -/
def State.calView (s : State) (c lvl : Nat) : View :=
  if lvl = 3 then .free else .win (s.calWorld c) (lvl == 1)

/-- The physical caller that carries logical caller `c` (R594). -/
def State.calPhys (s : State) (c : Nat) : Nat := (s.carrier 0x20 10 c).getD (ixCal 0x1F) - 0x20

/-- Window positions free beyond WP + 1 (R411). -/
def CalSt.freePos (x : CalSt) : Nat := 14 - x.r.resident

/-- The spill engine has a frame to spill: fewer than SPILLAHEAD positions are free, or an instruction waits for it
(R411, R413, R415). -/
def State.spillDue (s : State) (c : Nat) : Bool :=
  let x := s.cal c
  decide (0 < x.r.resident) && (x.want == 1 || decide (x.freePos < s.rf (rCalWsctl c) fCalWsctlSpillahead))

/-- Frames lie in the window stack (R411, R412). -/
def State.stacked (s : State) (c : Nat) : Bool := decide ((s.cal c).wsp.toNat < (s.reg (rCalWsbase c)).toNat)

/-- The spill engine has a frame to refill (R411, R413). -/
def State.fillDue (s : State) (c : Nat) : Bool :=
  let x := s.cal c
  s.stacked c && decide (x.r.resident < 14) &&
  (x.want == 2 || decide (x.r.resident < s.rf (rCalWsctl c) fCalWsctlFillahead))

/-- A caller that is quiesced (R437). -/
def State.quiesced (s : State) (c : Nat) : Bool :=
  let x := s.cal c
  x.lvl == 3 && (x.asleep || !x.on) && x.longs.isEmpty && x.sb.isEmpty && !s.spillDue c && !s.fillDue c &&
  !([x.tabS, x.tabV, x.tabM].any fun t => t.busy)

end Sys2Proof.Machine
end

