-- ==== Sys2Proof/Machine/Access.lean ====
section
/-!
DEFINITION. Accesses to the configuration space: who makes them and with which rights, the checks that every access passes
(R32, R33, R35, R360, R361, R568, R679), range checking and clamping (R640, R641), locking (R12), and the storing of the
fields of a write (R10).
-/
namespace Sys2Proof.Machine

/-- The rights of an access: machine level or not, the windows that check it, the requester code of R374, the host
function and the logical caller that make it, and whether it is the understudy manager's or the custody controller's. -/
structure Auth where
  machine : Bool
  view : View
  src : Nat
  host : Option World
  cal : Option Nat
  manager : Bool
  custody : Bool
  deriving DecidableEq, Repr

/-- The rights of caller `c` at level `lvl` (R360, R435). -/
def State.calAuth (s : State) (c lvl : Nat) : Auth := ⟨lvl == 3, s.calView c lvl, 0x80 + 2 * c, none, some c, false, false⟩

/-- The rights of a host function (R360, R568). -/
def hostAuth (f : World) : Auth := ⟨false, .win f true, 0x90 + f.idx, some f, none, false, false⟩

/-- The rights of a master at this moment. -/
def State.auth (s : State) : Master → Auth
  | .caller c => s.calAuth c.toNat (s.cal c.toNat).lvl
  | .host f => hostAuth f
  | .custody => ⟨false, .free, 0xA9, none, none, false, true⟩
  | .manager => ⟨false, .free, 0, none, none, true, false⟩

/-- The rights with which a staged commit applies its entries (R644): those of the machine level; `src` is the code of
the master that wrote CFG.COMMIT (R655). -/
def stagedAuth (src : Nat) : Auth := ⟨true, .free, src, none, none, false, false⟩

/-! ### Checks -/

/-- DECODE (R33). -/
def State.decodeFault (s : State) (au : Auth) (off : Nat) : State :=
  s.flt ⟨.mtx, 0, 1, none, au.src, 0, cfgBase + off, false⟩

/-- DENIED in the MTX block (R361, R363). -/
def State.mtxDenied (s : State) (au : Auth) (a : Nat) : State := s.flt ⟨.mtx, 0, 2, none, au.src, 0, a, false⟩

/-- The DENIED kind of the host block (R568). -/
def State.hstDenied (s : State) (f : World) (a : Nat) : State :=
  s.flt ⟨.hst, 0, 1, some f, 0x90 + f.idx, 64 * f.idx, a, false⟩

/-- What a refused access of a caller or a host function records (R361, R362, R568). -/
def State.refuse (s : State) (au : Auth) (e : MErr) (a : Nat) : State :=
  let s := match e with
    | .perm => s.mtxDenied au a
    | .frozen => s.mtxFrozen au.src a
    | _ => s
  match au.host with
  | some f => s.hstDenied f a
  | none => s

/-- Is the offset in the staging area (R642, R654)? -/
def inStaging (off : Nat) : Bool := decide (0x311_0000 ≤ off ∧ off < 0x312_0000)

/-- Has the access a size and alignment of R32? -/
def sizeOk (off size : Nat) : Bool := (size == 8 && off % 8 == 0) || (size == 4 && off % 4 == 0)

/-- What a configuration access reaches: a register, or the staging area. -/
inductive CfgTarget where
  | reg (a : RegAt)
  | staging
  deriving DecidableEq, Repr

/-- R33: what the access reaches, if anything. -/
def cfgDecode (off size : Nat) (write : Bool) : Option CfgTarget :=
  if !sizeOk off size then none
  else if inStaging off then some .staging
  else
    match findReg (off / 8 * 8) with
    | some a => if write && size == 4 && a.d.wide then none else some (.reg a)
    | none => none

/-- The power domain of a block instance (R27, R637): an engine's and a caller's block follows its physical carrier. The
spec names no domain for the QAD blocks; they stand in that of the matrix, 42 (DESIGN CHOICE, log entry 161). -/
def State.blkDomain (s : State) : Blk → Nat → Nat
  | .eng, i => s.engPhys i
  | .cal, i => 20 + s.calPhys i
  | .hbc, i => 30 + i
  | .rep, _ => 47
  | .qad, _ | .scp, _ | .mtx, _ => 42
  | .cue, _ | .ids, _ | .sea, _ | .ust, _ => 46
  | .arc, _ => 43
  | .lnk, _ => 44
  | .hst, _ => 45
  | .cus, _ | .pwr, _ | .cfg, _ => 48

/-- Is the block powered (R15; log entry 17)? -/
def State.blkOn (s : State) (a : RegAt) : Bool := s.domOn (s.blkDomain a.blk a.inst)

/-- Can a configuration access of this master happen at this moment? While a commit applies, the matrix holds every
access (R644). A host access needs the host block powered and its link up, and reaches 64 MiB (R30, R568). -/
def State.cfgOpen (s : State) (au : Auth) (off : Nat) : Bool :=
  (match s.cfg.run with | some (false, _) => false | _ => true) &&
  (match au.host with
   | some _ => s.domOn 45 && s.rb rHstPstat fHstPstatLinkup && decide (off < 0x400_0000)
   | none => true)

/-- Is it a ring register of PF f through BAR0 of the other function, or through the other world's windows (R591)? -/
def ringHidden (au : Auth) (t : CfgTarget) : Bool :=
  match au.view, t with
  | .win w _, .reg a =>
    (match a.d.reg with
     | .hstSqbase | .hstSqctl | .hstSqstat | .hstCqbase | .hstCqctl | .hstCqstat => decide (a.i ≠ w.idx)
     | _ => false)
  | _, _ => false

/-- What an access to a hidden ring register records: that of a host function DENIED of the host block, another's DENIED of the
matrix (R361, R568, R591). -/
def State.hiddenNote (s : State) (au : Auth) (off : Nat) : State :=
  match au.host with
  | some f => s.hstDenied f (cfgBase + off)
  | none => s.mtxDenied au (cfgBase + off)

/-- The access reaches its target: decode, then windows (R33, R360, R361, R591). `none`: it waits; an error holds the state
after the refusal. That an access here is decoded before the windows judge it, where a caller's load or store passes the
windows first, and that a decode fault of the host sets DENIED in the HST block too, are DESIGN CHOICES (log entry 160). -/
def State.admits (s : State) (au : Auth) (off size : Nat) (write : Bool) : Option (Except State CfgTarget) :=
  if !s.cfgOpen au off then none
  else match cfgDecode off size write with
    | none =>
      let s := s.decodeFault au off
      some (.error (match au.host with | some f => s.hstDenied f (cfgBase + off) | none => s))
    | some t =>
      match s.check au.view (if write then .wr else .rd) (cfgBase + off) with
      | .ok _ =>
        if ringHidden au t then some (.error (s.hiddenNote au off)) else some (.ok t)
      | .error e => some (.error (s.refuse au e (cfgBase + off)))

/-- Only the machine level writes this register (R679). -/
def State.levelFault (s : State) (au : Auth) (a : RegAt) : State :=
  match a.d.reg with
  | .mtxWbase | .mtxWlim | .mtxWattr | .mtxRemap | .mtxZbase | .mtxHbmsplit => s.mtxDenied au (cfgBase + a.off)
  | _ => s.locked a.blk a.inst

/-! ### Range checking and clamping -/

/-- The legal value next to a KSCALE written (R330), six bits in two's complement. -/
def clampK (v : Nat) : Nat :=
  let k := toSigned 6 v
  let k := if k = 0 then -4 else k
  let k := if k % 2 = 0 then k else if k = 1 then 2 else if k = -1 then -2 else if k > 0 then k - 1 else k + 1
  wrapInt 6 (max (-16) (min 16 k))

/-- The stored value of a field that is written with `v` in the word `new`, and whether it was out of range (R640). -/
def Fld.fix (f : Fld) (new : Word) (v : Nat) : Nat × Bool :=
  let c (x : Nat) : Nat × Bool := (x, decide (x ≠ v))
  match f.clamp with
  | .any => (v, false)
  | .near lo hi => c (max lo (min hi v))
  | .into lo hi x => c (if lo ≤ v ∧ v ≤ hi then v else x)
  | .align k lo => let y := v / 2 ^ k * 2 ^ k; if y < lo then (lo, true) else (y, false)
  | .vpair => c (if v = 1 ∧ !new.bit 0 then 0 else v)
  | .kscale => c (clampK v)
  | .rot => c (if v % 2 = 0 then v + 1 else v)
  | .zbase =>
    let a := v * 2 ^ 18
    c (if (scpBase ≤ a ∧ a < 0x4800_0000) ∨ (hbmBase ≤ a ∧ a < 0x34_0000_0000) then v else 0x1000)
  | .intlv => c (if v = 1 ∨ v = 2 ∨ v = 3 then 0 else v)
  | .space => c (if new.bit 20 then max 1 (min 1000 v) else max 256 (min 65535 v))
  | .classMask => (v, false)

/-- A clamp appends to CFG.CLAMPLOG and sets CLAMP (R641, R655). -/
def State.logClamp (s : State) (src off lsb v : Nat) (staged : Bool) : State :=
  let e := off / 8 + 2 ^ 23 * lsb + 2 ^ 29 * staged.toNat + 2 ^ 31 + 2 ^ 32 * src + 2 ^ 40 * (v % 2 ^ 24)
  let s := if s.cfg.clamps.length < 64 then { s with cfg := { s.cfg with clamps := s.cfg.clamps ++ [BitVec.ofNat 64 e] } }
    else s.satRf rCfgClampcnt fCfgClampcntDropped 1
  s.flt ⟨.cfg, 0, 1, none, 0, lsb, cfgBase + off, false⟩

/-! ### Storing -/

/-- A mask of `w` bits at `lsb`. -/
def maskOf (lsb w : Nat) : Word := (0 : Word).setFld lsb w (2 ^ w - 1)

/-- The bits of a register that an access covers (R32). -/
def accMask (off size : Nat) : Word :=
  if size = 8 then BitVec.allOnes 64 else if off % 8 = 0 then maskOf 0 32 else maskOf 32 32

/-- The value of an access placed in its half of the register. -/
def accValue (off size : Nat) (v : Word) : Word :=
  if size = 8 then v else if off % 8 = 0 then v &&& maskOf 0 32 else v <<< 32

/-- W1C fields of independent bits; the other wide ones are counters, which a write of all ones clears (R10, R492). -/
def bitwise (r : Reg) (f : Fld) : Bool := f.w == 1 || (match r with | .fltStat | .fltLost => true | _ => false)

/-- Store one field of a write: `w` the word written, `m` the bits covered, `staged` for a commit, which changes only
fields of the image and RWL fields (R644). -/
def State.storeFld (s : State) (src : Nat) (a : RegAt) (w m : Word) (staged : Bool) (f : Fld) : State :=
  let fm := maskOf f.lsb f.w
  let old := s.reg a.off
  if fm &&& m = 0 then s
  else
    let new := (old &&& ~~~m) ||| (w &&& m)
    let v := new.fld f.lsb f.w
    let put (x : Nat) : State :=
      let s := s.setReg a.off (old.setFld f.lsb f.w x)
      if f.image && s.reg a.off != old then { s with cfg := { s.cfg with changed := true } } else s
    let act (rwl : Bool) : State :=
      if staged && !f.image && !rwl then s
      else
        let v := match f.clamp with | .classMask => v &&& a.blk.classMask | _ => v
        let (x, out) := f.fix new v
        let s := put x
        if out then
          let s := if f.image || rwl then { s with cfg := { s.cfg with changed := true } } else s
          s.logClamp src a.off f.lsb v staged
        else s
    match f.ty with
    | .rw => act false
    | .rwl =>
      if s.cfg.locked && !staged then s else act true
    | .w1c =>
      if staged then s
      else if bitwise a.d.reg f then s.setReg a.off (old &&& ~~~(w &&& m &&& fm))
      else if w &&& m &&& fm = fm then s.setReg a.off (old &&& ~~~fm)
      else s
    | .ro | .rc | .w1s | .wo => s

/-- Does the write carry another value for a locked RWL field (R12)? -/
def State.lockedHit (s : State) (a : RegAt) (w m : Word) : Bool :=
  s.cfg.locked && a.d.flds.any fun f =>
    let new := (s.reg a.off &&& ~~~m) ||| (w &&& m)
    let v := new.fld f.lsb f.w
    let v := match f.clamp with | .classMask => v &&& a.blk.classMask | _ => v
    f.ty == .rwl && maskOf f.lsb f.w &&& m != 0 && (f.fix new v).1 != (s.reg a.off).fld f.lsb f.w

/-- Store every field of a write (R640: each on its own); LOCKED where a locked field would change (R12). -/
def State.storeReg (s : State) (src : Nat) (a : RegAt) (w m : Word) (staged : Bool) : State :=
  let s := if !staged && s.lockedHit a w m then s.locked a.blk a.inst else s
  a.d.flds.foldl (fun s f => s.storeFld src a w m staged f) s

/-- The word that a write would leave in the writable fields of a register, clamps included. -/
def State.wouldBe (s : State) (a : RegAt) (w m : Word) : Word :=
  let new := (s.reg a.off &&& ~~~m) ||| (w &&& m)
  a.d.flds.foldl (fun (x : Word) f =>
    match f.ty with
    | .rw | .rwl => if maskOf f.lsb f.w &&& m = 0 then x else x.setFld f.lsb f.w (f.fix new (new.fld f.lsb f.w)).1
    | _ => x) (s.reg a.off)

/-- The fields of a register that belong to the image (R646). -/
def imageMask (flds : List Fld) : Word :=
  flds.foldl (fun m f => if f.image || f.ty == .rwl then m ||| maskOf f.lsb f.w else m) 0

end Sys2Proof.Machine
end

