-- ==== Sys2Proof/Machine/Elem.lean ====
section
/-!
DEFINITION. What one element of an order computes (03): element-wise values, scene steps, combining trees, prefixes and
recurrences, and the range test of the reprise transforms (R288). All of it is a function of the element values.
-/
namespace Sys2Proof.Machine

/-- The rounding of a code, with the world default for code 5; a default of 100 rounds binary results to nearest-even
(R62, R97). DEDUCED (log entry 188): an explicit 100 rounds a binary result of CVT to nearest-away. -/
def orderRnd (code dflt : Nat) (resDec : Bool) : Rnd :=
  if code = 5 then (if dflt = 4 ∧ !resDec then .rne else Rnd.ofCode dflt) else Rnd.ofCode code

/-- The arithmetic setting of an order: format type, target type, rounding, FTZ. -/
structure ArCtx where
  t : ETy
  tt : ETy
  rm : Rnd
  ftz : Bool
  deriving DecidableEq, Repr

/-- The setting of a decoded order under the captured default rounding (R87, R97). Where a decimal operand becomes an
integer, the rounding is that of a decimal source (DESIGN CHOICE, log entry 29). -/
def OrderD.ctx (o : OrderD) (dflt : Nat) : ArCtx :=
  let t := ETy.ofCode o.ty
  let tt := ETy.ofCode o.tty
  let dec := if tt.isFlt then tt.isDec else t.isDec
  ⟨t, tt, orderRnd o.rnd dflt dec, o.ftz⟩

/-- Bitwise operation on two values of a type. -/
def bits2 (f : Nat → Nat → Nat) (t : ETy) (a b : Nat) : Nat := f (a % 2 ^ t.w) (b % 2 ^ t.w) % 2 ^ t.w

/-- The signed or unsigned double-width product, as its low and high halves (R109). -/
def wideMul (t : ETy) (a b : Nat) : Nat × Nat :=
  let p := wrapInt (2 * t.w) (t.toInt a * t.toInt b)
  (p % 2 ^ t.w, p / 2 ^ t.w)

/-- The result of one element-wise operation, or of one scene step, on its operands in operand order (R109 to R120,
R151). SELECT takes its mask first. -/
def opVal (op : Op) (c : ArCtx) (a b d : Nat) : Res :=
  let t := c.t
  match op with
  | .add => addVal t c.rm c.ftz a b
  | .sub => subVal t c.rm c.ftz a b
  | .mul => mulVal t c.rm c.ftz a b
  | .fma => fmaVal t c.rm c.ftz false false a b d
  | .fms => fmaVal t c.rm c.ftz false true a b d
  | .fnma => fmaVal t c.rm c.ftz true false a b d
  | .div => divVal t c.rm c.ftz a b
  | .sqrt => sqrtVal t c.rm c.ftz a
  | .min | .minr | .segmin => minMaxVal t false c.ftz a b
  | .max | .maxr | .segmax => minMaxVal t true c.ftz a b
  | .abs => (absVal t a, 0)
  | .neg => (negVal t a, 0)
  | .addsat => satInt t (t.toInt a + t.toInt b)
  | .subsat => satInt t (t.toInt a - t.toInt b)
  | .mulsat => satInt t (t.toInt a * t.toInt b)
  | .mulwide => ((wideMul t a b).1, 0)
  | .mulhi => ((wideMul t a b).2, 0)
  | .and | .andr => (bits2 (· &&& ·) t a b, 0)
  | .or | .orr => (bits2 (· ||| ·) t a b, 0)
  | .xor | .xorr => (bits2 (· ^^^ ·) t a b, 0)
  | .not => (notNat t.w a, 0)
  | .andnot => (bits2 (· &&& ·) t a (notNat t.w b), 0)
  | .shl => (shlNat t.w a (b % 2 ^ t.w), 0)
  | .shr => (shrNat t.w a (b % 2 ^ t.w), 0)
  | .sar => (sarNat t.w a (b % 2 ^ t.w), 0)
  | .rotl => (rotlNat t.w a (b % 2 ^ t.w), 0)
  | .select => (if a % 2 = 1 then b else d, 0)
  | .clz => (clzNat t.w a, 0)
  | .popcnt => (popNat t.w a, 0)
  | .cvt => cvtVal t c.tt c.rm c.ftz a
  | .cvtsat => cvtSatVal t c.tt c.rm c.ftz a
  | .rndint => match t with | .flt f => fRndint f c.rm c.ftz a | _ => (a, 0)
  | .quantize => match t with | .flt f => fQuantize f c.rm a b | _ => (a, 0)
  | .cmp k => let r := cmpVal t c.ftz k a b; (r.1.toNat, r.2)
  | .scaleb => match t with | .flt f => fScaleb f c.rm c.ftz a b | _ => (a, 0)
  | .logb => match t with | .flt f => fLogb f c.rm c.ftz a | _ => (a, 0)
  | .copysign => match t with | .flt f => (fCopysign f a b, 0) | _ => (a, 0)
  | .cls => match t with | .flt f => (fClass f a, 0) | _ => (a, 0)
  | .sum | .segsum | .psum | .psumx | .segpsum | .scatteradd => addVal t c.rm c.ftz a b
  | _ => (a, 0)

/-! ### The reprise transforms -/

/-- Is a finite value outside the band of its format for the magnitude `k` of the scale exponent, or, for a decimal, its
exponent outside the range (R288)? Zeros of binary formats, infinities and NaNs are in range. -/
def FVal.outside (f : Fmt) (k : Nat) : FVal → Bool
  | .fin _ m q =>
    let r := f.radix
    let lo := f.emin + k
    let hi := f.emax - k
    let band := decide (m ≠ 0) &&
      (let e := floorLog r (fracNum r m q) (fracDen r q)
       decide (e < lo) || decide (hi < e))
    let expo := f.dec && (decide (q < f.qmin + k) || decide (f.qmax - k < q))
    band || expo
  | _ => false

/-- The same test on an encoding. -/
def outOfBand (t : ETy) (k : Nat) (x : Nat) : Bool :=
  match t with
  | .flt f => (f.decode x).outside f k
  | _ => false

/-- A result that overflowed, or was tiny and inexact (R288). -/
def rangeFlags (fl : Flags) : Bool := (fl &&& (flOF ||| flUF)) != 0

/-- The classes of R105: N, L, C, F with E, V, and P with those that do not run twice. -/
inductive XClass where
  | neg | compl | mirror | scale | carry | plain
  deriving DecidableEq, Repr

/-- The class of an order on its types (R105, R119, R128, R154). -/
def Op.xclass (op : Op) (t tt : ETy) : XClass :=
  let nfe : XClass := if t.isFlt then .scale else .neg
  let pfe : XClass := if t.isFlt then .scale else .plain
  match op with
  | .add | .sub | .mul | .fma | .fms | .fnma | .neg | .sum | .dot | .segsum | .segdot | .linrec | .psum | .psumx
  | .segpsum | .scatteradd | .spmv => nfe
  | .div | .sqrt | .abs | .quantize | .scaleb | .copysign => pfe
  | .cvt => match t, tt with | .flt f, .flt g => if f.dec == g.dec then .scale else .plain | _, _ => .plain
  | .and | .or | .xor | .not | .andnot | .sar | .rotl | .andr | .orr | .xorr => .compl
  | .min | .max | .cmp _ | .minr | .maxr | .segmin | .segmax => .mirror
  | .select | .compress | .expand | .gather | .scatter | .copy | .fill => .carry
  | _ => .plain

/-- Does the operation scale floating operands (classes F and E)? -/
def Op.scales (op : Op) (t tt : ETy) : Bool := op.xclass t tt == .scale

/-- An encoding times radix to the `k`, its sign negated where `n` holds: the exponent field moves by `k` and every other
bit stays (R105, R285). Binary zeros, infinities and NaNs keep their magnitude. -/
def Fmt.scale (f : Fmt) (n : Bool) (k : Int) (x : Nat) : Nat :=
  let x := if n then fNeg f x else x % 2 ^ f.w
  match f.decode x with
  | .fin _ m _ =>
    let unit : Nat := if !f.dec then 2 ^ (f.p - 1)
      else if x / 2 ^ (f.w - 6) % 32 ≥ 24 then 2 ^ (f.tw - 2) else 2 ^ f.tw
    if !f.dec && m == 0 then x else ((x : Int) + k * unit).toNat
  | _ => x

/-- A finite value times radix to the `k`. -/
def FVal.shift (k : Int) : FVal → FVal
  | .fin s m q => .fin s m (q + k)
  | v => v

/-- The sign of a zero value, and of a zero product, as R263 looks at addends. -/
def FVal.zeroSign : FVal → Option Bool
  | .fin s m _ => if m = 0 then some s else none
  | _ => none
def FVal.prodZero (np : Bool) : FVal → FVal → Option Bool
  | .fin s m _, .fin t n _ => if m * n = 0 then some ((s != t) != np) else none
  | _, _ => none

/-- Do two addends, given by their zero signs, cancel rather than being two zeros of one sign (R263, R287)? -/
def cancels (x y : Option Bool) : Bool := !(x.isSome && x == y)

/-- The end of a scaled computation (R284, R287, R288): `ins` are the operands that the transform scales, in the format
`f`; `r` is the transformed result in the format `g`, un-transformed by a negation where `n` holds and the exponent `-k`;
`zero` tells that an exact zero comes from addends that cancel. Out of transform range the value is the plain one; a decimal
exponent that was brought to an end of its range does not follow the scale and counts as out of range too, which R284
needs (log entry 139). -/
def unscale (f g : Fmt) (kb : Nat) (rm : Rnd) (ins : List Nat) (n : Bool) (k : Int) (zero : Bool) (r plain : Res) :
    Res × Bool :=
  let v := g.decode r.1
  let x := g.scale n (-k) r.1
  let ended := g.dec && (match v with | .fin _ _ q => q == g.qmin || q == g.qmax | _ => false) && x != plain.1
  let out := (ins.any fun x => outOfBand (.flt f) kb x) || (v.shift (-k)).outside g kb || rangeFlags r.2 || ended
  let x := if zero && v.zeroSign.isSome && r.2 == 0 then x % 2 ^ (g.w - 1) + g.sbit (rm == .rd) else x
  (if out then plain else (x, r.2), out)

/-- The fused operations with their transform under the scale exponent `k` (R105, R286): the first factor is scaled by
r^k, the second negated, the addend scaled by −r^k; in LINREC (`lin`) the first factor stands as it is and the second is
scaled like the addend. Integers negate instead. -/
def fusedX (o : NanOrd) (lin np nc : Bool) (c : ArCtx) (xf : Option Int) (a b d : Nat) : Res × Bool :=
  let p := fmaOrdVal o c.t c.rm c.ftz np nc a b d
  match xf with
  | none => (p, false)
  | some k =>
    match c.t with
    | .flt f =>
      let a' := if lin then a else f.scale false k a
      let b' := if lin then f.scale true k b else fNeg f b
      let d' := f.scale true k d
      let r := fFmaOrd o f c.rm.exchange c.ftz np nc a' b' d'
      let w := f.read c.ftz d'
      unscale f f k.natAbs c.rm (if lin then [b, d] else [a, d]) true k
        (cancels (FVal.prodZero np (f.read c.ftz a') (f.read c.ftz b')) (if nc then w.neg else w).zeroSign) r p
    | t =>
      let ng (x : Nat) : Nat := negVal t x
      let r := fmaOrdVal o t c.rm c.ftz np nc (if lin then a else ng a) (if lin then ng b else b) (ng d)
      ((ng r.1, r.2), false)

/-- Classes F and E for the operations of one and two operands (R105, R285 to R288). -/
def scaledX (op : Op) (c : ArCtx) (f : Fmt) (k : Int) (a b : Nat) (p : Res) : Res × Bool :=
  let kb := k.natAbs
  let cc : ArCtx := { c with rm := c.rm.exchange }
  let up := f.scale true k
  let sum (b' : Nat) (y : FVal) : Res × Bool :=
    unscale f f kb c.rm [a, b] true k (cancels (f.read c.ftz (up a)).zeroSign y.zeroSign) (opVal op cc (up a) b' 0) p
  match op with
  | .sub => sum (up b) (f.read c.ftz (up b)).neg
  | .mul => unscale f f kb c.rm [a] true k false (opVal op cc (f.scale false k a) (fNeg f b) 0) p
  | .div | .scaleb => unscale f f kb c.rm [a] true k false (opVal op cc (up a) b 0) p
  | .quantize => unscale f f kb c.rm [a, b] true k false (opVal op cc (up a) (up b) 0) p
  | .neg => unscale f f kb c.rm [a] true k false (opVal op cc (up a) b 0) p
  | .abs => unscale f f kb c.rm [a] false k false (opVal op cc (up a) b 0) p
  | .sqrt => unscale f f kb c.rm [a] false (k / 2) false (opVal op c (f.scale false k a) b 0) p
  | .copysign => unscale f f kb c.rm [a] true k false (opVal op cc (f.scale false k a) (fNeg f b) 0) p
  | .cvt => (match c.tt with
    | .flt g => unscale f g kb c.rm [a] true k false (opVal op cc (up a) b 0) p
    | _ => (p, false))
  | _ => sum (up b) (f.read c.ftz (up b))

/-- The mirror image of an operand (class C): its sign negated, or an integer complemented (R105). -/
def mirrorVal (t : ETy) (x : Nat) : Nat :=
  match t with
  | .flt f => fNeg f x
  | t => notNat t.w x

/-- The mirrored predicate (R105). -/
def Cmp.mirror : Cmp → Cmp
  | .lt => .gt | .gt => .lt | .le => .ge | .ge => .le | c => c

/-- Moved data complemented in transit and back (class V). -/
def inTransit (t : ETy) (x : Nat) : Nat := notNat t.w (notNat t.w x)

/-- An operation as a reprise computes it with the scale exponent `k`: its un-transformed result, and whether the
operands or the result are out of transform range, where the result is the plain one (R105, R284 to R289, R292). -/
def repVal (op : Op) (c : ArCtx) (k : Int) (a b d : Nat) : Res × Bool :=
  let p := opVal op c a b d
  let ng := negVal c.t
  let cp := notNat c.t.w
  let mi := mirrorVal c.t
  match op.xclass c.t c.tt with
  | .neg => match op with
    | .mul | .dot | .segdot | .spmv => let r := opVal op c (ng a) b d; ((ng r.1, r.2), false)
    | .fma => fusedX .abc false false false c (some k) a b d
    | .fms => fusedX .abc false false true c (some k) a b d
    | .fnma => fusedX .abc false true false c (some k) a b d
    | _ => let r := opVal op c (ng a) (ng b) d; ((ng r.1, r.2), false)
  | .compl =>
    let x := match op with
      | .and | .andr => cp (opVal .or c (cp a) (cp b) 0).1
      | .or | .orr => cp (opVal .and c (cp a) (cp b) 0).1
      | .xor | .xorr => cp (cp (opVal .xor c (cp a) (cp b) 0).1)
      | .andnot => cp (opVal .or c (cp a) (cp (cp b)) 0).1
      | .not => cp (opVal .not c (cp a) b 0).1
      | o => cp (opVal o c (cp a) b 0).1
    ((x, p.2), false)
  | .mirror => match op with
    | .cmp q => (opVal (.cmp q.mirror) c (mi a) (mi b) 0, false)
    | .min | .minr | .segmin => let r := opVal .max c (mi a) (mi b) 0; ((mi r.1, r.2), false)
    | _ => let r := opVal .min c (mi a) (mi b) 0; ((mi r.1, r.2), false)
  | .scale => match op with
    | .fma => fusedX .abc false false false c (some k) a b d
    | .fms => fusedX .abc false false true c (some k) a b d
    | .fnma => fusedX .abc false true false c (some k) a b d
    | _ => match c.t with
      | .flt f => scaledX op c f k a b p
      | _ => (p, false)
  | .carry => ((inTransit c.t p.1, p.2), false)
  | .plain => (p, false)

/-- An operation in the performance, or plainly (`none`), or under the transform of a reprise. -/
def opX (op : Op) (c : ArCtx) (xf : Option Int) (a b d : Nat) : Res × Bool :=
  match xf with
  | none => (opVal op c a b d, false)
  | some k => repVal op c k a b d

/-- A value that a transform scales and that enters a combination alone is out of range where it leaves the band. -/
def entersOut (op : Op) (c : ArCtx) (xf : Option Int) (a : Nat) : Bool :=
  match xf with
  | some k => op.scales c.t c.tt && outOfBand c.t k.natAbs a
  | none => false

/-! ### Scenes -/

/-- The values of a scene's steps in order, with their flags and whether a step is out of transform range (R152, R292).
`src` gives the operand of a source code from the slots; a step's result is at 8 and above. -/
def sceneSteps (c : ArCtx) (xf : Option Int) (src : Nat → Nat) : List StepD → List Nat → Flags → Bool →
    List Nat × Flags × Bool
  | [], rs, fl, out => (rs, fl, out)
  | d :: ds, rs, fl, out =>
    let get (s : Nat) : Nat := if s ≥ 8 then (rs[s - 8]?).getD 0 else src s
    let cc : ArCtx := if d.bit && (match d.op with | .cmp _ => false | _ => true) then { c with t := .bit } else c
    match d.op with
    | .sum | .minr | .maxr | .andr | .orr | .xorr | .dot => sceneSteps c xf src ds (rs ++ [get d.s1]) fl out
    | .compress => sceneSteps c xf src ds (rs ++ [if xf.isSome then inTransit cc.t (get d.s1) else get d.s1]) fl out
    | _ =>
      let r := opX d.op cc xf (get d.s1) (get d.s2) (get d.s3)
      sceneSteps c xf src ds (rs ++ [r.1.1]) (fl ||| r.1.2) (out || r.2)

/-- The steps of an element: when one is out of transform range, all of them run plainly (R292). -/
def sceneVals (c : ArCtx) (xf : Option Int) (src : Nat → Nat) (steps : List StepD) : List Nat × Flags × Bool :=
  let r := sceneSteps c xf src steps [] 0 false
  if r.2.2 then ((sceneSteps c none src steps [] 0 false).1, (sceneSteps c none src steps [] 0 false).2.1, true) else r

/-! ### Combining -/

/-- The combination of two partial values; an empty one yields the other (R122). The flag says out of range. -/
def combine (op : Op) (c : ArCtx) (xf : Option Int) : Option Nat → Option Nat → Option Nat × Flags × Bool
  | none, y => (y, 0, false)
  | x, none => (x, 0, false)
  | some x, some y =>
    let o : Op := match op with | .dot | .segdot | .spmv => .add | o => o
    let r := opX (match o with | .segsum | .sum => .add | o => o) c xf x y 0
    (some r.1.1, r.1.2, r.2)

/-- The operation that combines partial values of an order (R122, R125, R138). -/
def Op.isDot : Op → Bool
  | .dot | .segdot | .spmv => true
  | _ => false

/-- One element into the partial values (R122): `t` is its place, `b` its second factor. In the NaN rule of DOT and SEGDOT
the running partial value comes first, in that of SPMV last (R268). -/
def partAdd (op : Op) (c : ArCtx) (xf : Option Int) (parts : List (Option Nat)) (t a b : Nat) :
    List (Option Nat) × Flags × Bool :=
  let r : Res × Bool :=
    match (parts[t]?).join with
    | none => if op.isDot then opX .mul c xf a b 0 else ((a, 0), entersOut op c xf a)
    | some p =>
      if op.isDot then fusedX (if op = .spmv then .abc else .cab) false false false c xf a b p else opX op c xf p a 0
  (parts.set t (some r.1.1), r.1.2, r.2)

/-- Thirty-two empty partial values. -/
def noParts : List (Option Nat) := List.replicate 32 none

/-- One round of the final tree: place `t` takes place `t + d` for `t` below `d` (R122). The flag says out of range. -/
def treeRound (op : Op) (c : ArCtx) (xf : Option Int) (d : Nat) (parts : List (Option Nat)) :
    List (Option Nat) × Flags × Bool :=
  let rs := (List.range d).map fun t => combine op c xf (parts[t]?).join (parts[t + d]?).join
  (rs.map (·.1), rs.foldl (fun f r => f ||| r.2.1) 0, rs.any (·.2.2))

/-- The final tree over 32 partial values (R122); from the first round with a value out of range on it is plain (R290). -/
def finalTree (op : Op) (c : ArCtx) (xf : Option Int) (parts : List (Option Nat)) : Option Nat × Flags × Bool :=
  let r := [16, 8, 4, 2, 1].foldl (fun (x : List (Option Nat) × Flags × Bool) d =>
    let y := treeRound op c (if x.2.2 then none else xf) d x.1
    (y.1, x.2.1 ||| y.2.1, x.2.2 || y.2.2)) (parts, 0, false)
  ((r.1[0]?).join, r.2)

/-- The empty result (R123). -/
def emptyResult (op : Op) (t : ETy) : Nat :=
  match op with
  | .minr | .segmin => minEmpty t
  | .maxr | .segmax => maxEmpty t
  | .andr => 2 ^ t.w - 1
  | .orr | .xorr => 0
  | _ => zeroOf t

/-- The result of partial values: the final tree, delivered, or the empty result; the flag says out of range. -/
def partsResult (op : Op) (c : ArCtx) (xf : Option Int) (parts : List (Option Nat)) : Res × Bool :=
  let (v, fl, out) := finalTree op c xf parts
  match v with
  | some x => let r := deliverVal c.t c.ftz x; ((r.1, fl ||| r.2), out)
  | none => ((emptyResult op c.t, fl), out)

/-! ### Prefixes and recurrences -/

/-- One round of distance `d` over the values of a group; each place keeps the flags of its own combinations. -/
def prefixRound (c : ArCtx) (xf : Option Int) (d : Nat) (vs : List (Option Nat × Flags × Bool)) : List (Option Nat × Flags × Bool) :=
  (List.range vs.length).map fun i =>
    match vs[i]? with
    | none => (none, 0, false)
    | some (v, fl, o) =>
      if i < d then (v, fl, o)
      else
        let r := combine .sum c xf ((vs[i - d]?).bind (·.1)) v
        (r.1, fl ||| r.2.1, o || r.2.2)

/-- The prefix of the last element of a group begun, from the group's values so far (R129). -/
def groupPrefix (c : ArCtx) (xf : Option Int) (vals : List (Option Nat)) : Option Nat × Flags × Bool :=
  let vs := vals.map fun v => (v, (0 : Flags), false)
  let vs := [1, 2, 4, 8, 16].foldl (fun vs d => prefixRound c xf d vs) vs
  (vs.getLast?).getD (none, 0, false)

/-- The value one of a type. -/
def oneOf (t : ETy) : Nat :=
  match t with
  | .flt f => (intToFlt f .rne false 1).1
  | _ => 1

/-- One round of LINREC over the pairs of a group (R128); p stands untransformed. -/
def linRound (c : ArCtx) (xf : Option Int) (d : Nat) (vs : List (Nat × Nat × Flags × Bool)) :
    List (Nat × Nat × Flags × Bool) :=
  (List.range vs.length).map fun i =>
    match vs[i]?, vs[i - d]? with
    | some (p, q, fl, o), some (p', q', _, _) =>
      if i < d then (p, q, fl, o)
      else
        let rp := mulVal c.t c.rm c.ftz p p'
        let rq := fusedX .abc true false false c xf p q' q
        (rp.1, rq.1.1, fl ||| rp.2 ||| rq.1.2, o || rq.2)
    | _, _ => (0, 0, 0, false)

/-- p(i) and q(i) of the last element of a group begun (R128). -/
def linPrefix (c : ArCtx) (xf : Option Int) (vals : List (Nat × Nat)) : Nat × Nat × Flags × Bool :=
  let vs := vals.map fun v => (v.1, v.2, (0 : Flags), false)
  let vs := [1, 2, 4, 8, 16].foldl (fun vs d => linRound c xf d vs) vs
  (vs.getLast?).getD (0, 0, 0, false)

end Sys2Proof.Machine
end

