-- ==== Sys2Proof/Machine/Crc.lean ====
section
/-!
DEFINITION. Cyclic redundancy codes, reflected or not, over bytes: the codes of R306, R506, R539 and R549.
-/
namespace Sys2Proof.Machine

/-- Parameters of a CRC: width, polynomial without its top term, initial value, whether bytes and result are
reflected, final XOR. -/
structure Crc where
  w : Nat
  poly : Nat
  init : Nat
  refl : Bool
  xorOut : Nat
  deriving DecidableEq, Repr

/-- The low `n` bits of `x` reversed. -/
def bitRev (n x : Nat) : Nat := (List.range n).foldl (fun r i => if x.testBit i then r + 2 ^ (n - 1 - i) else r) 0

/-- One bit shifted through the register. -/
def Crc.bit (c : Crc) (r : Nat) (b : Bool) : Nat :=
  let top := r.testBit (c.w - 1)
  let r := 2 * r % 2 ^ c.w
  if top != b then r ^^^ c.poly else r

/-- One byte: the least significant bit first where reflected, else the most significant. -/
def Crc.byte (c : Crc) (r : Nat) (b : Byte) : Nat :=
  (List.range 8).foldl (fun r i => c.bit r (b.getLsbD (if c.refl then i else 7 - i))) r

/-- The register after a run of bytes. -/
def Crc.feed (c : Crc) (r : Nat) (bs : List Byte) : Nat := bs.foldl c.byte r

/-- The code of a finished register. -/
def Crc.out (c : Crc) (r : Nat) : Nat := (if c.refl then bitRev c.w r else r) ^^^ c.xorOut

/-- The code of a byte string. -/
def Crc.of (c : Crc) (bs : List Byte) : Nat := c.out (c.feed c.init bs)

/-- CRC-64/ECMA-182 (R306). -/
def crc64Ecma : Crc := ⟨64, 0x42F0E1EBA9EA3693, 0, false, 0⟩

/-- The polynomials of R549, with their standard initial values; CRC-32C and CRC-16 as in R506. -/
def sealPoly : Nat → Crc
  | 0 => ⟨16, 0x1021, 0xFFFF, false, 0⟩
  | 1 => ⟨32, 0x04C11DB7, 0xFFFFFFFF, true, 0xFFFFFFFF⟩
  | 2 => ⟨32, 0x1EDC6F41, 0xFFFFFFFF, true, 0xFFFFFFFF⟩
  | _ => crc64Ecma

/-- CRC-32C, CRC-32 and CRC-16/CCITT (R506, R539). -/
def crc32c : Crc := sealPoly 2
def crc32 : Crc := sealPoly 1
def crc16 : Crc := sealPoly 0

end Sys2Proof.Machine
end

