-- ==== Sys2Proof/Machine/Relays.lean ====
section
/-!
DEFINITION. Relays (04, R170 to R183): areas, credits, visible blocks, the producer's and the consumer's passes.
-/
namespace Sys2Proof.Machine

/-! ### Queues -/

def queueDefault (_ : Nat) : Queue := Queue.empty

/-- The queue of world `w` of engine `e`, by number 2 e + w. -/
def State.queue (s : State) (q : Nat) : Queue := Tab.get queueDefault s.queues q
def State.setQueue (s : State) (q : Nat) (x : Queue) : State := { s with queues := Tab.set queueDefault s.queues q x }
def State.head (s : State) (q : Nat) : Option Entry := (s.queue q).entries.head?

/-- Replace the head order. -/
def State.setHead (s : State) (q : Nat) (x : Entry) : State :=
  let k := s.queue q
  s.setQueue q { k with entries := x :: k.entries.tail }

def Entry.setRun (x : Entry) (r : Run) : Entry := { x with run := r }

/-- Does the order hold a progress record (R98, R208)? -/
def Run.recorded (r : Run) : Bool :=
  r.phase == .parked || r.phase == .stopped || (r.phase == .closing && r.was == .parked)

/-! ### Relays -/

def State.relayEn (s : State) (r : Nat) : Bool := s.rb (rScpRlyctl r) fScpRlyctlEn
def State.relayWorld (s : State) (r : Nat) : World := worldOf (s.rf (rScpRlyctl r) fScpRlyctlWorld)

/-- Where stream position `p` falls in a list of blocks: index of the block, offset in it, and its flag. -/
def blockAt : List (Nat × Bool) → Nat → Nat → Option (Nat × Nat × Bool)
  | [], _, _ => none
  | (n, d) :: bs, i, p => if p < n then some (i, p, d) else blockAt bs (i + 1) (p - n)

/-- Bytes that a pass of the consumer can read now (R173, R176). -/
def Relay.availP (x : Relay) : Nat := x.visible - x.posP

/-- Bytes in front of the first dual block, or up to what the producer's reprise has written. -/
def dualLimit (lim : Nat) : List (Nat × Bool) → Nat → Nat
  | [], p => p
  | (n, d) :: bs, p => if d ∧ lim < p + n then max p (min lim (p + n)) else dualLimit lim bs (p + n)

def Relay.availR (x : Relay) : Nat := dualLimit x.repFill.toNat x.fills 0 - x.posR

/-- The address of the byte at stream position `p`, in the area that the pass reads (R176); none past the visible bytes. -/
def State.relayAddr (s : State) (r : Nat) (reprise : Bool) (p : Nat) : Option Nat :=
  let x := s.relay r
  match blockAt x.fills 0 p with
  | none => none
  | some (i, o, dual) =>
    let m := s.relayMain r ((x.head + i) % s.relayBlocks r * 256 + o)
    some (if reprise && dual then s.relayRep r m else m)

/-- The byte at stream position `p` as the windows `v` let it be read (R360): none past the visible bytes, an error where
the windows refuse it or its word is uncorrectable. After a foreign write it is open (R172). -/
def State.relayByte (s : State) (v : View) (r : Nat) (reprise : Bool) (p : Nat) : Option (Except MErr Byte) :=
  (s.relayAddr r reprise p).map fun a =>
    match s.check v .rd a with
    | .error e => .error e
    | .ok _ =>
      if s.bad a then .error .ecc
      else match (s.relay r).spoilt with
        | some (f, n) => if p < n then .ok (Config.relayByte f a) else .ok (s.byte a)
        | none => .ok (s.byte a)

/-- Retire whole blocks that every pass of the consumer has passed (R174, R176). -/
def Relay.pop (nblk : Nat) : Nat → Relay → Relay
  | 0, x => x
  | k + 1, x =>
    match x.fills with
    | (n, _) :: bs =>
      if n ≤ x.posP ∧ n ≤ x.posR then
        Relay.pop nblk k { x with head := (x.head + 1) % nblk, fills := bs, posP := x.posP - n, posR := x.posR - n,
                                  repFill := x.repFill - n, owed := x.owed + 1,
                                  spoilt := x.spoilt.bind fun y => if n < y.2 then some (y.1, y.2 - n) else none }
      else x
    | [] => x

/-- The consumer retires `n` bytes in its performance or its reprise; a single-pass consumer moves both pointers. -/
def State.relayRetire (s : State) (r : Nat) (reprise : Bool) (n : Nat) : State :=
  let x := s.relay r
  let x := if x.consRep != some true then { x with posP := x.posP + n, posR := x.posR + n }
    else if reprise then { x with posR := x.posR + n } else { x with posP := x.posP + n }
  s.setRelay r (Relay.pop (s.relayBlocks r) x.fills.length x)

/-- Bytes that the producer may write now under its credits (R174). -/
def Relay.room (x : Relay) : Nat := (if x.part > 0 then 256 - x.part else 0) + 256 * x.credits

/-- The address of the `k`-th byte that the producer writes next, to the main area, or in its reprise to the copy
(R170, R171, R173). -/
def State.relayNext (s : State) (r : Nat) (reprise : Bool) (k : Nat) : Nat :=
  let x := s.relay r
  let slot (i o : Nat) : Nat := s.relayMain r ((x.head + i) % s.relayBlocks r * 256 + o)
  if reprise then
    match blockAt (x.fills ++ [(256, x.prodRep)]) 0 (x.repFill.toNat + k) with
    | some (i, o, _) => s.relayRep r (slot i o)
    | none => s.relayRep r (slot 0 0)
  else slot (x.fills.length + (x.part + k) / 256) ((x.part + k) % 256)

/-- Has the producer put bytes already into the word in which it writes next (R173, R356)? -/
def State.relayInWord (s : State) (r : Nat) (reprise : Bool) : Bool :=
  let x := s.relay r
  if reprise then decide (0 < x.repFill) && decide (s.relayNext r true 0 % 8 ≠ 0) else decide (0 < x.part) && decide (x.part % 8 ≠ 0)

/-- Does the producer's reprise write: its first byte is its own, and the consumer reads the copy (R171, R176)? -/
def Relay.copies (x : Relay) : Bool := decide (0 ≤ x.repFill) && x.consRep != some false

/-- Which of the producer's next `n` bytes the windows or a closed buffer refuse first, with the reason, its number and its address
(R360, R362); with `ends`, the bytes end the block, and a last word written in part is read first (R356). -/
def State.relayRefuses (s : State) (v : View) (r : Nat) (reprise ends : Bool) (n : Nat) : Option (MErr × Nat × Nat) :=
  let after := s.relayNext r reprise n
  let open' (a : Nat) : Bool := ends && decide (after % 8 ≠ 0) && a / 8 == after / 8 && s.bad a
  ((List.range n).findSome? fun k =>
    let a := s.relayNext r reprise k
    match s.check v .wr a with
    | .error e => some (e, k, a)
    | .ok _ => if open' a then some (.ecc, k, a) else none).or
  (if ends && s.relayInWord r reprise && open' (after - 1) then some (.ecc, 0, after - 1) else none)

/-- The producer moves on by one byte of the main area: the first byte of a block spends a credit, the last makes the
block visible (R173, R174). -/
def Relay.advance (x : Relay) : Relay :=
  let x := if x.part = 0 then { x with credits := x.credits - 1 } else x
  if x.part = 255 then { x with part := 0, fills := x.fills ++ [(256, x.prodRep)] } else { x with part := x.part + 1 }

/-- The producer writes one byte to the main area; the last byte of a word completes it with a valid code (R356). -/
def State.relayPut1 (s : State) (r : Nat) (b : Byte) : State :=
  let m := s.relayNext r false 0
  let t := (s.pokeIn (m / 8 * 8) 8 m [b]).touchBut (some r) m 1
  t.setRelay r (t.relay r).advance

/-- The producer writes bytes to the main area; it has room for them. -/
def State.relayPut (s : State) (r : Nat) (bs : List Byte) : State := bs.foldl (fun s b => s.relayPut1 r b) s

/-- The producer's reprise writes its copy of the bytes at its position; for a single-pass consumer they are
discarded (R171, R176). -/
def State.relayPutRep (s : State) (r : Nat) (bs : List Byte) : State :=
  bs.foldl (fun s b =>
    let x := s.relay r
    let m := s.relayNext r true 0
    let s := if x.copies then (s.pokeIn (m / 8 * 8) 8 m [b]).touchBut (some r) m 1 else s
    s.setRelay r { s.relay r with repFill := x.repFill + 1 }) s

/-- A partly filled block becomes visible with its byte count (R173, R175). -/
def State.relaySeal (s : State) (r : Nat) : State :=
  let x := s.relay r
  s.setRelay r (if x.part = 0 then x else { x with part := 0, fills := x.fills ++ [(x.part, x.prodRep)] })

/-- A block-held producer end writes one block of 1 to 256 bytes, visible at once, for one credit, under the windows
`v` (R173, R360, R472). The error is `none` without a credit, else why and at which address. -/
def State.relayPush (s : State) (r : Nat) (v : View) (bs : List Byte) : Except (Option (MErr × Nat)) State :=
  let x := s.relay r
  let bs := bs.take 256
  if x.credits = 0 ∨ bs = [] then .error none
  else
    match s.relayRefuses v r false true bs.length with
    | some (e, _, a) => .error (some (e, a))
    | none => .ok ((s.relayPut r bs).relaySeal r)

/-- Discard the contents and reset the credits to D / 256 (R180, R183). -/
def State.relayClear (s : State) (r : Nat) : State :=
  s.setRelay r { s.relay r with
    head := 0, fills := [], part := 0, repFill := 0, credits := s.relayBlocks r, owed := 0, posP := 0, posR := 0,
    spoilt := none }

/-- Return one credit to the producer (R174). -/
def State.relayCredit (s : State) (r : Nat) : State :=
  let x := s.relay r
  if x.owed = 0 then s else s.setRelay r { x with owed := x.owed - 1, credits := x.credits + 1 }

/-- Is an end of the relay bound by an order (R181, R183)? -/
def Relay.bound (x : Relay) : Bool := x.prod.isSome || x.cons.isSome

/-- Does a suspended producer hold a partly filled block (R175, R182)? -/
def State.relayPartial (s : State) (r : Nat) : Bool :=
  let x := s.relay r
  decide (x.part > 0) && match x.prod with
    | some (q, n) => (match s.head q with | some y => y.seq == n && y.run.recorded | none => false)
    | none => false

/-- SCP.RLYSTATn (R182). -/
def State.relayStat (s : State) (r : Nat) : Nat :=
  let x := s.relay r
  let held := s.relayEn r && s.rf (rScpRlyctl r) fScpRlyctlPkind != 0
  x.fills.length % 2 ^ 13 + 2 ^ 16 * (x.credits % 2 ^ 13) + 2 ^ 32 * (x.prod.isSome || held).toNat +
  2 ^ 33 * x.cons.isSome.toNat + 2 ^ 36 * (match x.prod with | some (q, _) => q / 2 | none => 0) +
  2 ^ 40 * (match x.cons with | some (q, _) => q / 2 | none => 0) + 2 ^ 44 * (s.relayPartial r).toNat

/-- Bind the producer end to an order (R179). -/
def State.relayBindProd (s : State) (r q seq : Nat) (rep : Bool) : State :=
  let x := s.relay r
  s.setRelay r { x with prod := some (q, seq), prodRep := rep, repFill := if rep then ((x.visible + x.part : Nat) : Int) else x.repFill }

/-- Bind the consumer end to an order; both its passes start at the retire pointer (R174). -/
def State.relayBindCons (s : State) (r q seq : Nat) (rep : Option Bool) : State :=
  let x := s.relay r
  s.setRelay r { x with cons := some (q, seq), consRep := rep, posR := x.posP }

/-- Release the producer end when its order completes: a partly filled block becomes visible (R173, R175, R179). -/
def State.relayFreeProd (s : State) (r : Nat) : State :=
  let s := s.relaySeal r
  s.setRelay r { s.relay r with prod := none, prodRep := false }

/-- Release the consumer end; the next consumer begins where the performance retired last (R177; log entry 9). -/
def State.relayFreeCons (s : State) (r : Nat) : State :=
  let x := { s.relay r with cons := none, consRep := none, posR := (s.relay r).posP }
  s.setRelay r (Relay.pop (s.relayBlocks r) x.fills.length x)

/-- The lowest-numbered enabled relay whose producer is source `sel` of the block of kind `kind` (R472, R179). -/
def State.relayFor (s : State) (kind sel : Nat) : Option Nat :=
  (List.range 64).find? fun r =>
    s.relayEn r && s.rf (rScpRlyctl r) fScpRlyctlPkind == kind && s.rf (rScpRlyctl r) fScpRlyctlPsel == sel

end Sys2Proof.Machine
end

