-- ==== Sys2Proof/Machine/Frames.lean ====
section
/-!
DEFINITION. Snapshot frames (07, R304 to R309): the filling and the closed buffer, producer writes, closing, readers.
-/
namespace Sys2Proof.Machine

def natDefault (_ : Nat) : Nat := 0
def frameDefault (_ : Nat) : FrameSt := FrameSt.empty

def State.frame (s : State) (f : Nat) : FrameSt := Tab.get frameDefault s.frames f
def State.setFrame (s : State) (f : Nat) (x : FrameSt) : State := { s with frames := Tab.set frameDefault s.frames f x }

/-- The filling buffer: buffer 0 until the first close, then the one that is not closed (R304, R335). -/
def State.fillBuf (s : State) (f : Nat) : Nat :=
  if s.rb (rRepFrstat f) fRepFrstatClosed then 1 - s.rf (rRepFrstat f) fRepFrstatClosedbuf else 0

/-- The filtered levels of CUE_IN as a 16-bit number. -/
def State.cueLevels (s : State) : Nat := s.cueIn.toNat % 2 ^ 16

/-- gPTP time of port 0, zero when not synchronised (R306, R505). -/
def State.ptp0 (s : State) : Nat := if s.rb (rLnkPtpstat 0) fLnkPtpstatSync then (s.reg (rLnkPtptime 0)).toNat else 0

/-- Bytes 0x00 to 0x37 of the header of a closing buffer (R306). -/
def State.frameHead (s : State) (f gen : Nat) : List Byte :=
  leBytes 8 gen ++ leBytes 8 s.time ++ leBytes 8 s.ptp0 ++ leBytes 2 s.cueLevels ++ leBytes 6 0 ++
  leBytes 8 (s.frame f).bytes ++ leBytes 16 0

/-- The windows of the frame's world (R360). -/
def State.frameView (s : State) (f : Nat) : View := .win (worldOf (s.rf (rRepFrcfg f) fRepFrcfgWorld)) true

/-- The close takes effect (R305, R306, R309). Its writes pass the windows of its world and leave
other frames' closed buffers alone (R307, R360; log entries 147 and 173). -/
def State.frameCloseNow (s : State) (f : Nat) : State :=
  let old := s.fillBuf f
  let gen := (s.rf (rRepFrstat f) fRepFrstatGen + 1) % 2 ^ 32
  let h := s.frameHead f gen
  let s := s.pokeOwn 0xA8 (s.frameView f) (s.frameBuf f old).1 (h ++ leBytes 8 (crc64Ecma.of h))
  let s := s.setRf (rRepFrstat f) fRepFrstatGen gen
  let s := s.setRf (rRepFrstat f) fRepFrstatClosedbuf old
  let s := s.setRf (rRepFrstat f) fRepFrstatClosed 1
  let s := s.setRf (rRepFrstat f) fRepFrstatDefer 0
  let clear := s.rb (rRepFrcfg f) fRepFrcfgClear
  let (b, n) := s.frameBuf f (1 - old)
  let s := if clear then s.pokeOwn 0xA8 (s.frameView f) b (List.replicate n 0) else s
  s.setFrame f ⟨0, clear⟩

/-- A deferred close takes effect once READERS is zero and the scratchpad is up (R305, R625). -/
def State.frameSettle (s : State) (f : Nat) : State :=
  if s.ready 28 && s.rb (rRepFrstat f) fRepFrstatDefer && s.rf (rRepFrstat f) fRepFrstatReaders == 0 then s.frameCloseNow f else s

/-- Is consumer `c` busy with a short action (R467)? -/
def State.cueBusy (s : State) (c : Nat) : Bool := decide (s.beats < Tab.get natDefault s.cue.busy c)

/-- Consumer `c` is busy for `n` beats. -/
def State.setCueBusy (s : State) (c n : Nat) : State :=
  { s with cue := { s.cue with busy := Tab.set natDefault s.cue.busy c (s.beats + n) } }

/-- A cue missed by consumer `c` (R466, R494). -/
def State.cueMissed (s : State) (c : Nat) : State := s.satRf (rCueMiss c) fCueMissMissed 1

/-- The close input of an enabled frame: it closes, defers, or misses the close when one is deferred already or has just been
accepted: the frame is busy until its close takes effect, at most 16 beats (R305, R467, R468). A close waits for the
scratchpad that is not up (R625, R680). -/
def State.frameClose (s : State) (f : Nat) : State :=
  let s := s.frameSettle f
  if !s.rb (rRepFrcfg f) fRepFrcfgEn then s
  else if s.rb (rRepFrstat f) fRepFrstatDefer || s.cueBusy f || s.late.contains (.close f) then s.cueMissed f
  else if !s.ready 28 then { s with late := s.late ++ [.close f] }
  else if s.rb (rRepFrstat f) fRepFrstatClosed && s.rf (rRepFrstat f) fRepFrstatReaders != 0 then
    (s.setRf (rRepFrstat f) fRepFrstatDefer 1).addRf (rRepFrstat f) fRepFrstatLate 1
  else (s.frameCloseNow f).setCueBusy f 16

/-- A producer block writes one burst at a frame-relative offset of the filling buffer, under the windows `v` (R304,
R309, R360); bytes below 0x40 are discarded, and so are bytes past the buffer (log entry 10). The error is why and at which
address the write is refused. -/
def State.frameWrite (s : State) (v : View) (f off : Nat) (bs : List Byte) : Except (MErr × Nat) State :=
  let s := s.frameSettle f
  let s := s.setFrame f { s.frame f with clearing := false }
  let (b, n) := s.frameBuf f (s.fillBuf f)
  let bs := bs.take (n - off)
  let bs' := bs.drop (0x40 - off)
  let o := max off 0x40
  if bs' = [] then .ok s
  else
    match s.store Paths.plain v (b + o) bs' with
    | .error e => .error (e, s.firstRefused Paths.plain v (b + o) bs'.length)
    | .ok s => .ok (s.setFrame f { s.frame f with bytes := (s.frame f).bytes + bs'.length })

/-- Register an order as a reader of the closed buffer (R308). -/
def State.frameRead (s : State) (f : Nat) : State := s.addRf (rRepFrstat f) fRepFrstatReaders 1

/-- A reader's order completes (R308). -/
def State.frameUnread (s : State) (f : Nat) : State :=
  s.setRf (rRepFrstat f) fRepFrstatReaders (s.rf (rRepFrstat f) fRepFrstatReaders - 1)

/-- Do `n` bytes from `a` upward meet the buffer of `m` bytes at `b`? -/
def meets (b m a n : Nat) : Bool := decide (a < b + m ∧ b < a + n)

end Sys2Proof.Machine
end

