-- ==== Sys2Proof/Machine/Flash.lean ====
section
/-!
DEFINITION. The medium behind the archive's logs (12): folios and the map, blocks, wear, releases that let blocks be erased, and
free space (R500 to R504, R517, R521).
-/
namespace Sys2Proof.Machine

def logDefault (_ : Nat) : ArcLog := ArcLog.empty
def tgtDefault (_ : Nat) : TgtSt := ⟨false, false, []⟩

/-- The log of world `w`; 2 and 3 are the boot logs of copies 0 and 1 (R530). -/
def State.log (s : State) (w : Nat) : ArcLog := Tab.get logDefault s.arc.logs w
def State.setLog (s : State) (w : Nat) (x : ArcLog) : State :=
  { s with arc := { s.arc with logs := Tab.set logDefault s.arc.logs w x } }

def State.tgt (s : State) (t : Nat) : TgtSt := Tab.get tgtDefault s.arc.tgts t
def State.setTgt (s : State) (t : Nat) (x : TgtSt) : State :=
  { s with arc := { s.arc with tgts := Tab.set tgtDefault s.arc.tgts t x } }

/-- A fault of the archive without a world. -/
def arcFlt (kind detail : Nat) : Flt := ⟨.arc, 0, kind, none, 0, detail, 0, false⟩

/-- The size of a folio in native mode (R500). -/
def State.folioSize (s : State) : Nat := s.rf rArcGeom fArcGeomPlanes * 16384 * s.rf rArcGeom fArcGeomBits

/-- Record length (R507). -/
def recLen (n : Nat) : Nat := 72 + 8 * ((n + 7) / 8)

/-! ### Positions and folios (R503) -/

/-- Position up to which the log is programmed from `p` on without a gap, given `k` spans to look at. -/
def coverTo (spans : List (Nat × Nat)) : Nat → Nat → Nat
  | 0, p => p
  | k + 1, p =>
    match spans.find? fun x => decide (x.1 ≤ p ∧ p < x.2) with
    | some x => coverTo spans k x.2
    | none => p

/-- How many of the positions from `p` to `b` the spans hold, in `k` steps from span to span. -/
def heldIn (spans : List (Nat × Nat)) : Nat → Nat → Nat → Nat
  | 0, _, _ => 0
  | k + 1, p, b =>
    if b ≤ p then 0
    else match spans.find? fun x => decide (x.1 ≤ p ∧ p < x.2) with
      | some x => min x.2 b - p + heldIn spans k (min x.2 b) b
      | none =>
        let after := (spans.map (·.1)).filter fun a => decide (p < a)
        heldIn spans k (after.foldl min b) b

def ArcLog.spans (x : ArcLog) : List (Nat × Nat) := x.folios.map fun f => (f.lo, f.hi)
def ArcLog.covered (x : ArcLog) (p : Nat) : Nat := coverTo x.spans x.spans.length p

/-- Does a folio hold position `p`? -/
def Folio.holds (f : Folio) (p : Nat) : Bool := decide (f.lo ≤ p ∧ p < f.hi)

/-- The map of R503: the folio that holds position `p` with the highest write sequence number. -/
def ArcLog.mapped (x : ArcLog) (p : Nat) : Option Folio := x.folios.reverse.find? fun f => f.holds p

/-- Do folios written after `f`, up to the write sequence number `upTo`, hold all its positions? -/
def ArcLog.replaced (x : ArcLog) (f : Folio) (upTo : Nat) : Bool :=
  let newer := (x.folios.filter fun g => decide (f.seq < g.seq ∧ g.seq ≤ upTo)).map fun g => (g.lo, g.hi)
  decide (f.hi ≤ coverTo newer newer.length f.lo)

/-- Set the mark for relocation of the folios that `p` chooses (R501, R502). -/
def ArcLog.mark (x : ArcLog) (p : Folio → Bool) : ArcLog :=
  { x with folios := x.folios.map fun f => if p f then { f with marked := true } else f }

/-! ### Releases (R517, R522) -/

/-- The committed colophons of a log. -/
def ArcLog.cols (x : ArcLog) : List Colophon := (x.pages.map (·.cols)).flatten

/-- The world of the log and the accession that the request of a running ARCREAD at the head of queue `q` names. -/
def State.arcReading (s : State) (q : Nat) : Option (Nat × Nat) :=
  match s.head q with
  | some x =>
    if x.ord.op ≠ .arcread ∨ !x.run.begun then none
    else match x.strms.find? fun y => y.slot == 0 with
      | some ⟨_, .mem a, _, _⟩ =>
        (match s.target a with
         | .mem p => let m := ofLeBytes (s.peek p 8); some (m / 2 ^ 47 % 2, m % 2 ^ 47)
         | _ => none)
      | _ => none
  | none => none

/-- Does an ARCREAD of record `acc` of log `v` run that started before the record's release (R517)? -/
def State.arcInUse (s : State) (v acc : Nat) : Bool :=
  (List.range 32).any fun q => s.arcReading q == some (v, acc) &&
    (match s.head q with
     | some x => decide ((if v = 0 then x.run.belows.1 else x.run.belows.2) ≤ acc)
     | none => false)

/-- Is the committed record `acc` of log `v` released, where a release up to `below` counts (R517, R522)? -/
def State.arcGone (s : State) (v acc below : Nat) : Bool := decide (acc < below) && !s.arcInUse v acc

/-- Do all positions of a folio belong to released records (R521)? -/
def State.allGone (s : State) (w : Nat) (f : Folio) : Bool :=
  let x := s.log w
  let meets (a n : Nat) : Bool := decide (a < f.hi ∧ f.lo < a + n)
  (x.cols.all fun c => !meets c.pos c.len || s.arcGone w c.acc x.below) && x.recs.all fun r => !meets r.pos (recLen r.n)

/-- Does a read that runs use the folio (R503)? -/
def State.readUses (s : State) (w : Nat) (f : Folio) : Bool :=
  (s.log w).cols.any fun c => decide (c.pos < f.hi ∧ f.lo < c.pos + c.len) &&
    (List.range 32).any fun q => s.arcReading q == some (w, c.acc)

/-- May the folio be erased: its positions are all released, or the last map checkpoint names other folios for them; and no read
uses it (R503, R521)? -/
def State.folioDead (s : State) (w : Nat) (f : Folio) : Bool :=
  (s.allGone w f || (s.log w).replaced f s.arc.ckSeq) && !s.readUses w f

/-- Is the folio live: the map names it for a position that is not released (R502)? -/
def State.folioLive (s : State) (w : Nat) (f : Folio) : Bool := !s.allGone w f && !(s.log w).replaced f s.arc.seq

/-! ### Blocks (R502) -/

def State.usedTargets (s : State) : List Nat := (List.range 64).filter fun t => (s.tgt t).used

/-- The system blocks of target `t`, which stand first; the boot area takes eight on targets 0 and 4 (R530). -/
def systemBlocks (t : Nat) : Nat := max (Config.systemBlocks t) (if t = 0 ∨ t = 4 then 8 else 0)

def State.blk (s : State) (t b : Nat) : BlkSt := (s.tgt t).blocks.getD b ⟨true, 0, 0⟩
def State.setBlk (s : State) (t b : Nat) (x : BlkSt) : State :=
  let y := s.tgt t
  s.setTgt t { y with blocks := y.blocks.set b x }

/-- The folios in block `b` of target `t`, with their logs. -/
def State.inBlock (s : State) (t b : Nat) : List (Nat × Folio) :=
  [0, 1].flatMap fun w => ((s.log w).folios.filter fun f => f.tgt == t && f.blk == b).map fun f => (w, f)

/-- The free blocks of target `t`: no system block, not retired, and no folio in it. -/
def State.freeBlocks (s : State) (t : Nat) : List Nat :=
  (List.range (s.tgt t).blocks.length).filter fun b =>
    decide (systemBlocks t ≤ b) && !(s.blk t b).bad && (s.inBlock t b).isEmpty

/-- The block of lowest erase count among those given, the first of them where several have it (R502). -/
def State.leastErased (s : State) (t : Nat) (bs : List Nat) : Option Nat :=
  bs.foldl (fun m b => match m with
    | none => some b
    | some a => if (s.blk t b).erases < (s.blk t a).erases then some b else some a) none

/-- The block in which target `t` programs the next folio of log `w`: the one of its last folio while that has room, else the
free block of lowest erase count (R502). -/
def State.openBlock (s : State) (w t : Nat) : Option Nat :=
  match (s.log w).folios.reverse.find? fun f => f.tgt == t with
  | some f =>
    if !(s.blk t f.blk).bad && decide ((s.inBlock t f.blk).length < (Config.nand t).folios) then some f.blk
    else s.leastErased t (s.freeBlocks t)
  | none => s.leastErased t (s.freeBlocks t)

/-- A folio of positions `lo` to `hi` of log `w` is programmed with status pass (R503, R520). -/
def State.addFolio (s : State) (w t b lo hi : Nat) : State :=
  let x := s.log w
  let s := s.setLog w { x with folios := x.folios ++ [⟨lo, hi, s.arc.seq + 1, t, b, s.time, false⟩] }
  { s with arc := { s.arc with seq := s.arc.seq + 1 } }

/-- The folios in block `b` of target `t` leave the medium. -/
def State.dropBlock (s : State) (t b : Nat) : State :=
  [0, 1].foldl (fun s w =>
    let x := s.log w
    s.setLog w { x with folios := x.folios.filter fun f => !(f.tgt == t && f.blk == b) }) s

/-- A block is retired (R502): the data of uncommitted records in it must be programmed again before their commit, the others are
relocated. -/
def State.retireBlock (s : State) (t b : Nat) : State :=
  let s := s.setBlk t b { s.blk t b with bad := true }
  [0, 1].foldl (fun s w =>
    let x := s.log w
    let mine (f : Folio) : Bool := f.tgt == t && f.blk == b
    let pending (f : Folio) : Bool := x.recs.any fun r => decide (r.pos < f.hi ∧ f.lo < r.pos + recLen r.n)
    s.setLog w ({ x with folios := x.folios.filter fun f => !(mine f && pending f) }.mark mine)) s

/-- Folios of a retired block that are dead leave the map (R503). -/
def State.dropRetired (s : State) : State :=
  [0, 1].foldl (fun s w =>
    let x := s.log w
    s.setLog w { x with folios := x.folios.filter fun f => !((s.blk f.tgt f.blk).bad && s.folioDead w f) }) s

/-! ### Space (R502, R504, R511, R521) -/

/-- Spare blocks, and used blocks of log `w` (log entry 181). -/
def State.spareBlocks (s : State) : Nat := s.usedTargets.foldl (fun n t => n + (s.freeBlocks t).length) 0
def State.usedBlocks (s : State) (w : Nat) : Nat := (((s.log w).folios.map fun f => (f.tgt, f.blk)).eraseDups).length

/-- Spare blocks in thousandths of used blocks, saturating (R533). -/
def State.spareShare (s : State) (w : Nat) : Nat :=
  if s.usedBlocks w = 0 then 65535 else min 65535 (s.spareBlocks * 1000 / s.usedBlocks w)

/-- Are the spare blocks below 1 % of the used blocks (R502)? -/
def State.opLow (s : State) (w : Nat) : Bool := decide (s.spareBlocks * 100 < s.usedBlocks w)

/-- OPLOW for each log whose spare blocks have fallen below 1 % since the state `before` (R502). -/
def State.opFall (before s : State) : State :=
  [0, 1].foldl (fun s w => if !before.opLow w && s.opLow w then s.flt (arcFlt 4 w) else s) s

/-- Raw capacity in bytes after system blocks (R504). -/
def State.rawBytes (s : State) : Nat :=
  s.usedTargets.foldl (fun n t =>
    n + ((s.tgt t).blocks.length - systemBlocks t) * (Config.nand t).folios * s.folioSize) 0

/-- The size of the log of world `w`: what over-provisioning leaves, split (R504). -/
def State.logBytes (s : State) (w : Nat) : Nat :=
  let split := s.rf rArcCtl fArcCtlSplit
  s.rawBytes * (100 - s.rf rArcCtl fArcCtlOp) / 100 * (if w = 0 then split else 100 - split) / 100

/-- Free bytes of the log of world `w` (R511, R521): its size without the space of open records, of committed records
that are not released, and of released ones that still lie on the medium. -/
def State.arcFree (s : State) (w : Nat) : Nat :=
  let x := s.log w
  let sp := x.spans
  let opened := x.recs.foldl (fun n r => n + recLen r.n) 0
  let held := x.cols.foldl (fun n c =>
    n + if s.arcGone w c.acc x.below then heldIn sp (2 * sp.length + 1) c.pos (c.pos + c.len) else c.len) 0
  s.logBytes w - opened - held

/-! ### Failures and wear (R502) -/

/-- A program or an erase of block `b` of target `t` fails: the block is retired. -/
def State.growBad (s : State) (t b : Nat) : State := s.opFall ((s.retireBlock t b).flt (arcFlt 3 t))

/-- The live folios in block `b` of target `t` are to be relocated. -/
def State.markBlock (s : State) (t b : Nat) : State :=
  [0, 1].foldl (fun s w => s.setLog w ((s.log w).mark fun f => f.tgt == t && f.blk == b && s.folioLive w f)) s

/-- A read of block `b` of target `t`: the reads of the block reach RDLIM thousand (R502). -/
def State.countRead (s : State) (t b : Nat) : State :=
  let x := s.blk t b
  let s := s.setBlk t b { x with reads := x.reads + 1 }
  if x.reads + 1 = s.rf rArcMedia fArcMediaRdlim * 1000 then s.markBlock t b else s

/-- The spread of erase counts over the blocks of target `t` that are not retired reaches WLSPREAD: the data of the least-erased
live block is to be relocated (R502). -/
def State.levelWear (s : State) (t : Nat) : State :=
  let good := (List.range (s.tgt t).blocks.length).filter fun b => decide (systemBlocks t ≤ b) && !(s.blk t b).bad
  let live := good.filter fun b => (s.inBlock t b).any fun y => s.folioLive y.1 y.2
  let top := good.foldl (fun n b => max n (s.blk t b).erases) 0
  match s.leastErased t good, s.leastErased t live with
  | some a, some b =>
    if s.rf rArcMedia fArcMediaWlspread ≤ top - (s.blk t a).erases then s.markBlock t b else s
  | _, _ => s

end Sys2Proof.Machine
end

