-- ==== Sys2Proof/Machine/ArcCore.lean ====
section
/-!
DEFINITION. The archive's logs (12): opening and filling records, colophons and their pages, shelfmarks, and reads (R505 to
R517, R531).
-/
namespace Sys2Proof.Machine

/-- The longest payload of a record in bytes (R507). -/
def arcLimit : Nat := 2 ^ 30

/-- The `n` bytes of the log from position `p`. -/
def ArcLog.read (x : ArcLog) (p n : Nat) : List Byte := Tab.getMany memDefault x.bytes p n

def ArcLog.write (x : ArcLog) (p : Nat) (bs : List Byte) : ArcLog :=
  { x with bytes := Tab.setMany memDefault x.bytes p bs }

/-- The header of a record (R507). -/
def recHeader (w typ acc n time ptp digest tag eng : Nat) : List Byte :=
  leBytes 4 0x4C46_4F4A ++ leBytes 1 1 ++ leBytes 1 w ++ leBytes 2 typ ++ leBytes 8 acc ++ leBytes 8 n ++
  leBytes 8 time ++ leBytes 8 ptp ++ leBytes 8 digest ++ leBytes 2 tag ++ leBytes 1 eng ++ leBytes 13 0

/-- Padding, seal and the reserved bytes behind a payload of `n` bytes; `body` is header and payload (R507). -/
def recTrailer (acc n : Nat) (body : List Byte) : List Byte :=
  leBytes (8 * ((n + 7) / 8) - n) 0 ++ leBytes 4 (crc32c.of body) ++ leBytes 2 (acc % 65536) ++ leBytes 2 0

/-- Open a record of type `typ` and `n` bytes in log `w` (R507, R511): the next accession and position; its space is taken. A
boot log bears the code of the safety world (log entry 182). -/
def State.openRec (s : State) (w typ n tag eng : Nat) : State :=
  let x := s.log w
  let h := recHeader (if w < 2 then w else 0) typ x.nextAcc n s.time s.ptp0 (s.reg rCfgDigest).toNat tag eng
  let x := x.write x.nextPos h
  s.setLog w { x with
    recs := x.recs ++ [⟨x.nextAcc, x.nextPos, n, 0, false, tag⟩]
    nextAcc := x.nextAcc + 1, nextPos := x.nextPos + recLen n }

def ArcLog.rec? (x : ArcLog) (acc : Nat) : Option ArcRec := x.recs.find? fun r => r.acc == acc

/-- Bytes of an open record that are accepted and not yet programmed (R512). -/
def ArcLog.staged (x : ArcLog) (r : ArcRec) : Nat := r.pos + 64 + r.got - x.covered r.pos

/-- Has the staging buffer of 16 MiB room, and does the archive accept payload (R512, R526)? -/
def State.arcAccepts (s : State) : Bool :=
  !s.arc.closed && s.rb rCusReady ⟨30, 1⟩ &&
  decide ([0, 1].foldl (fun n w => (s.log w).recs.foldl (fun n r => n + (s.log w).staged r) n) 0 < 2 ^ 24)

/-- One payload byte enters the open record `acc` of world `w`; behind the last one the controller puts padding and
seal (R511, R512). -/
def State.arcAppendByte (s : State) (w acc : Nat) (b : Byte) : State :=
  let x := s.log w
  match x.rec? acc with
  | none => s
  | some r =>
    let x := x.write (r.pos + 64 + r.got) [b]
    let x := if r.got + 1 = r.n then
        x.write (r.pos + 64 + r.n) (recTrailer acc r.n (x.read r.pos (64 + r.n)))
      else x
    s.setLog w { x with recs := x.recs.map fun q => if q.acc == acc then { q with got := r.got + 1 } else q }

/-- Open a record of an order (R511). -/
def State.arcOpen (s : State) (w n tag eng : Nat) : State := s.openRec w 1 n tag eng

/-- Is the colophon of an open record ready, as far as the record itself goes (R509)? -/
def ArcLog.recReady (x : ArcLog) (r : ArcRec) : Bool :=
  r.void || (r.got == r.n && decide (r.pos + recLen r.n ≤ x.covered r.pos))

/-- The colophon of a record (R508). -/
def ArcLog.colophon (x : ArcLog) (r : ArcRec) : Colophon :=
  ⟨r.acc, r.pos, recLen r.n, r.void, if r.void then 0 else crc64Ecma.of (x.read r.pos (recLen r.n))⟩

/-- The ready colophons in accession order, at most 510 (R508, R509). -/
def ArcLog.readyCols (x : ArcLog) : List Colophon := ((x.recs.takeWhile x.recReady).take 510).map x.colophon

/-- A colophon entry as it stands in its page (R508). -/
def Colophon.bytes (c : Colophon) : List Byte :=
  leBytes 8 c.acc ++ leBytes 8 c.pos ++ leBytes 4 c.len ++ leBytes 1 c.void.toNat ++ leBytes 3 0 ++ leBytes 8 c.crc

/-- Bytes 0x00 to 0x37 of a colophon page (R508). -/
def ColPage.head (p : ColPage) : List Byte :=
  leBytes 4 0x4C4F_434A ++ leBytes 1 1 ++ leBytes 1 p.world ++ leBytes 2 p.cols.length ++ leBytes 8 p.seq ++ leBytes 8 p.first ++
  leBytes 8 p.time ++ leBytes 24 0

/-- PAGECRC as R508 computes it. -/
def ColPage.code (p : ColPage) : Nat := crc64Ecma.of (p.head ++ (p.cols.map Colophon.bytes).flatten)

/-- A colophon page as it is programmed (R508). -/
def ColPage.bytes (p : ColPage) : List Byte := p.head ++ leBytes 8 p.crc ++ (p.cols.map Colophon.bytes).flatten

/-- The next colophon page of log `w`, programmed at `time`, with the colophons `cs` (R508); the boot logs bear the code of the
safety world (log entry 182). -/
def ArcLog.newPage (x : ArcLog) (w time : Nat) (cs : List Colophon) : ColPage :=
  let p : ColPage := ⟨if w < 2 then w else 0, x.pages.length, match cs.head? with | some c => c.acc | none => 0, time, 0, cs⟩
  { p with crc := p.code }

/-- A used target that the manual does not name, on another channel than target `t` if there is one (R509). -/
def State.copyTarget (s : State) (t v : Nat) : Nat :=
  let other := s.usedTargets.filter fun u => u / 4 != t / 4
  let us := if other.isEmpty then s.usedTargets else other
  us.getD (v % us.length) 0

/-- Start a colophon page of world `w` with the colophons `cs`: its copies go to targets of different channels (R509). -/
def State.startPage (s : State) (w : Nat) (cs : List Colophon) (cue : Bool) : State :=
  let (v, s) := s.takeFree
  let x := s.log w
  let us := s.usedTargets
  let t1 := us.getD (v.toNat % us.length) 0
  s.setLog w { x with
    page := some ⟨x.newPage w s.time cs, t1, s.copyTarget t1 (v.toNat / 64), false, false, cue⟩
    again := none }

/-- Colophons are to be programmed in world `w` now: a page starts if any are ready; where a page is in progress and others are
ready, the next page follows it (R509, R531). -/
def State.arcPage (s : State) (w : Nat) (cue : Bool := false) : State :=
  let x := s.log w
  if x.readyCols = [] ∨ s.arc.dry then s
  else match x.page with
    | none => s.startPage w x.readyCols cue
    | some r =>
      if x.readyCols.length ≤ r.page.cols.length then s
      else s.setLog w { x with again := some (cue || x.again == some true) }

/-- Is the commit consumer busy: a page that a cue started is not yet programmed (R531)? -/
def ArcLog.cueBusy (x : ArcLog) : Bool := (match x.page with | some r => r.cue | none => false) || x.again == some true
def State.arcBusy (s : State) : Bool := (s.log 0).cueBusy || (s.log 1).cueBusy

/-- ARC.COMMITw (R533). -/
def State.arcCommit (s : State) (w : Nat) : Nat :=
  let x := s.log w
  let cs := x.cols
  (match cs.getLast? with | some c => c.acc | none => 0) % 2 ^ 47 + 2 ^ 47 * (!cs.isEmpty).toNat +
  2 ^ 48 * x.recs.length

/-- The shelfmark of accession `acc` (R505). -/
def shelfmark (w acc : Nat) : Nat :=
  let lo := acc % 2 ^ 47 + 2 ^ 47 * w
  lo + 2 ^ 48 * crc16.of (leBytes 6 lo)

/-- The shelfmark of a record once its colophon is programmed (R145, R510). -/
def State.arcShelf (s : State) (w acc : Nat) : Option Nat :=
  match (s.log w).cols.find? fun c => c.acc == acc with
  | some c => if c.void then none else some (shelfmark w acc)
  | none => none

/-- What the archive answers for a byte of a record: the byte, a wait for the NAND, or a stop with its cause. -/
inductive ArcByte where
  | byte (b : Byte)
  | wait
  | stop (cause : Nat)
  deriving DecidableEq, Repr

/-- The result of reading codeword `c` of 4 KiB (R501): 0 not read, 1 decoded, 2 uncorrectable. -/
def ArcLog.codeword (x : ArcLog) (c : Nat) : Nat := Tab.get (fun _ => 0) x.reads c

/-- The codewords that `n` bytes from position `p` touch. -/
def cwOf (p n : Nat) : List Nat := if n = 0 then [] else (List.range ((p + n - 1) / 4096 - p / 4096 + 1)).map (p / 4096 + ·)

/-- ARC.RELEASEw.BELOW of the two logs. -/
def State.belows (s : State) : Nat × Nat := ((s.log 0).below, (s.log 1).below)

/-- The committed record with shelfmark `mark` that a read of world `w` may have; `rel` holds the releases that count for
it (R514, R517). -/
def State.arcFind (s : State) (rel : Nat × Nat) (w mark : Nat) : Option (Nat × Colophon) :=
  let acc := mark % 2 ^ 47
  let v := mark / 2 ^ 47 % 2
  if mark / 2 ^ 48 ≠ crc16.of (leBytes 6 (mark % 2 ^ 48)) then none
  else if w = 1 ∧ v = 0 ∧ !s.rb rArcCtl fArcCtlVreads then none
  else if w = 0 ∧ v = 1 then none
  else
    match (s.log v).cols.find? fun c => c.acc == acc with
    | some c => if c.void || s.arcGone v acc (if v = 0 then rel.1 else rel.2) then none else some (v, c)
    | none => none

/-- The payload length of a record on the medium. -/
def ArcLog.payLen (x : ArcLog) (c : Colophon) : Nat := ofLeBytes (x.read (c.pos + 0x10) 8)

/-- Do seal, alive counter and colophon CRC hold for a record (R515)? -/
def ArcLog.sound (x : ArcLog) (c : Colophon) : Bool :=
  let n := x.payLen c
  crc32c.of (x.read c.pos (64 + n)) == ofLeBytes (x.read (c.pos + c.len - 8) 4) &&
  c.acc % 65536 == ofLeBytes (x.read (c.pos + c.len - 4) 2) && crc64Ecma.of (x.read c.pos c.len) == c.crc

/-- Does the record fail the check that VERIFY = 1 makes before any byte (R515)? An uncorrectable codeword without a
requested byte leaves the record unchecked, which counts as a mismatch (DEDUCED, log entry 14). -/
def ArcLog.verifyFails (x : ArcLog) (c : Colophon) (off n : Nat) : Bool :=
  let want := cwOf (c.pos + 64 + off) n
  let bad := (cwOf c.pos c.len).filter fun k => x.codeword k == 2
  if bad = [] then !x.sound c else bad.all fun k => !want.contains k

/-- Byte `i` of an ARCREAD of `n` bytes from payload offset `off` of the record with shelfmark `mark`; `first` says that no byte
has been delivered, in which case the checks before any byte apply (R514 to R517). -/
def State.arcByte (s : State) (rel : Nat × Nat) (w mark off i n : Nat) (first : Bool) : ArcByte :=
  if !s.rb rCusReady ⟨30, 1⟩ || s.arc.dry then .wait
  else match (if first then s.arcFind rel w mark else
      ((s.log (mark / 2 ^ 47 % 2)).cols.find? fun c => c.acc == mark % 2 ^ 47).map fun c => (mark / 2 ^ 47 % 2, c)) with
  | none => .stop 0xB
  | some (v, c) =>
    let x := s.log v
    let p := c.pos + 64 + off + i
    let verify := s.rb rArcCtl fArcCtlVerify
    if verify && (cwOf c.pos c.len).any fun k => x.codeword k == 0 then .wait
    else if first && verify && x.verifyFails c off n then .stop 0xC
    else if x.payLen c ≤ off + i then .stop 0xB
    else
      match x.codeword (p / 4096) with
      | 0 => .wait
      | 1 => .byte (Tab.get memDefault x.bytes p)
      | _ => .stop 0xC

/-- The SEALFAIL kind (R515, R523, R534): `mark` is the shelfmark. -/
def sealFail (mark tag : Nat) : Flt := ⟨.arc, 0, 2, some (worldOf (mark / 2 ^ 47 % 2)), 0, tag, mark % 2 ^ 48, false⟩

/-- A cue on the commit consumer starts a colophon page at once (R531). -/
def State.arcCue (s : State) : State := (s.arcPage 0 true).arcPage 1 true

end Sys2Proof.Machine
end

