-- ==== Sys2Proof/Machine/Banks.lean ====
section
/-!
DEFINITION. Scratchpad banks (08, R355 to R359, R388): swaps, wear (R596, R598) and the marks of an uncorrectable word.
-/
namespace Sys2Proof.Machine

def flagDefault (_ : Nat) : Bool := false
def optDefault (_ : Nat) : Option Nat := none
def bankOf (a : Nat) : Nat := a / 8 % 2048

/-- SCP.SWAP that acts (R359, R388): the copy into the lowest-numbered free spare starts, or waits; a worn bank for which no
spare is left sets NOSPARE too (R611). -/
def State.bankSwap (s : State) (b : Nat) : State :=
  let q := b / 512
  let x := s.banks
  match Tab.get optDefault x.copying q with
  | some c => if c = b ∨ x.waiting.contains b then s else { s with banks := { x with waiting := x.waiting ++ [b] } }
  | none =>
    if Tab.get natDefault x.used q ≥ 16 then
      let s := s.flt (Flt.plain .scp 0 3)
      if Tab.get flagDefault x.worn b then s.flt ⟨.ust, 0, 2, none, 0, b, 0, false⟩ else s
    else { s with banks := { x with copying := Tab.set optDefault x.copying q (some b) } }

/-- BANK_SWAP_DONE (R359, R388): steering moves to the spare; the waiting swaps of the quadrant are taken up, of which
one starts, or all report that no spare is left. -/
def State.bankSwapDone (s : State) (q : Nat) : State :=
  let x := s.banks
  match Tab.get optDefault x.copying q with
  | none => s
  | some b =>
    let u := Tab.get natDefault x.used q
    let s := { s with banks := { x with
      spared := Tab.set optDefault x.spared b (some u), used := Tab.set natDefault x.used q (u + 1),
      copying := Tab.set optDefault x.copying q none, waiting := x.waiting.filter fun c => c / 512 != q,
      worn := Tab.set flagDefault x.worn b false } }
    (x.waiting.filter fun c => c / 512 == q).foldl (fun s c => s.bankSwap c) s

/-- A bank becomes worn (R596, R598): the manager reports it and asks for the swap; a mandatory event of a bank that is worn
already brings the swap that it still lacks. -/
def State.bankWear (s : State) (b : Nat) (mandatory : Bool) : State :=
  let fresh := !Tab.get flagDefault s.banks.worn b
  let s := if fresh then
      { s with banks := { s.banks with worn := Tab.set flagDefault s.banks.worn b true } }.flt ⟨.ust, 0, 1, none, 0, b, 0, false⟩
    else s
  if mandatory || (fresh && (s.reg rUstPolicy).bit 3) then s.bankSwap b else s

/-- The UE fault of the scratchpad (R356). -/
def scpUeFlt (a : Nat) : Flt := ⟨.scp, 0, 2, none, 0, bankOf a, a, false⟩

/-- An uncorrectable scratchpad word (R356, R596), but for the further acts of a safety-class fault: the flag asks for those. -/
def State.scpUeMark (s : State) (a : Nat) : State × Bool :=
  let (s, esc) := State.fltCore 3 (s.satRf rScpUecnt fScpUecntCount 1) (scpUeFlt a)
  (s.bankWear (bankOf a) true, esc)

def listDefault (_ : Nat) : List Nat := []

/-- The times of a list that lie within the last 24 h. -/
def lastDay (now : Nat) (ts : List Nat) : List Nat := ts.filter fun t => decide (now < t + 86400000000)

end Sys2Proof.Machine
end

