-- ==== Sys2Proof/Machine/Cues.lean ====
section
/-!
DEFINITION. The cue router (11, R461 to R476), the ALARM_N pulse (R489) and the raising of a fault in full (R484).
-/
namespace Sys2Proof.Machine

def firedDefault (_ : Nat) : Option (Nat × Nat) := none
def timeDefault (_ : Nat) : Option Nat := none

/-- The group of a channel is enabled (R461, R465). -/
def State.groupOn (s : State) (ch : Nat) : Bool := (s.reg rCueGrpen).bit (ch / 8)

/-- Enable or disable a group (R465). -/
def State.setGroup (s : State) (g : Nat) (on : Bool) : State := s.setReg rCueGrpen ((s.reg rCueGrpen).setBit g on)

/-- The spacing of a channel has elapsed since a beat and µs (R464). -/
def State.spacedSince (s : State) (ch : Nat) (last : Option (Nat × Nat)) : Bool :=
  match last with
  | none => true
  | some (b, t) =>
    if s.rb (rCueChcfg ch) fCueChcfgSunit then decide (t + s.rf (rCueChcfg ch) fCueChcfgSpace ≤ s.time)
    else decide (b + s.rf (rCueChcfg ch) fCueChcfgSpace ≤ s.beats)

/-- The spacing of a channel has elapsed since its last accepted firing (R464). -/
def State.spaced (s : State) (ch : Nat) : Bool := s.spacedSince ch (Tab.get firedDefault s.cue.last ch)

/-- CUE_OUT[o] receives a cue (R467, R476); in Curtain the pin stays inactive (R635). -/
def State.cueOut (s : State) (o : Nat) : State :=
  let c := 0x10 + o
  if s.cus.curtain then s
  else match s.rf (rCueOutcfg o) fCueOutcfgMode with
  | 0 =>
    if s.cueBusy c then s.cueMissed c
    else
      let s := (s.setRf (rCueOutstat o) fCueOutstatPin 1).addRf (rCueOutstat o) fCueOutstatPulses 1
      let s := s.setCueBusy c (s.rf (rCueOutcfg o) fCueOutcfgWidth)
      { s with cue := { s.cue with pulsing := Tab.set flagDefault s.cue.pulsing o true } }
  | 1 =>
    if s.cueBusy c then s.cueMissed c
    else
      let s := s.setRf (rCueOutstat o) fCueOutstatPin (1 - s.rf (rCueOutstat o) fCueOutstatPin)
      (s.addRf (rCueOutstat o) fCueOutstatPulses 1).setCueBusy c 2
  | _ => if s.cueBusy c then s.cueMissed c else s.setCueBusy c 2

/-- The record of feeder `f` for channel `ch` (R472). -/
def State.cueRecord (s : State) (f ch : Nat) : List Byte :=
  leBytes 8 s.time ++ leBytes 2 s.cueLevels ++ leBytes 1 ch ++ leBytes 1 0 ++
  leBytes 4 (s.rf (rCueFeedstat f) fCueFeedstatSeq)

/-- Does feeder `f` wait for the scratchpad to write its record (R625, R680)? -/
def State.feedWaits (s : State) (f : Nat) : Bool := s.late.any fun l => match l with | .feed g _ => g == f | _ => false

/-- What the refusal of a feeder's write records: FROZEN (R307, R362), or the uncorrectable word met (R356), of which `esc`
does what a safety-class fault does further (R484). -/
def State.feedNote (s : State) (esc : State → Flt → State) (e : MErr) (a : Nat) : State :=
  match e with
  | .frozen => s.mtxFrozen 0xA8 a
  | .ecc =>
    let (s, safety) := s.scpUeMark a
    if safety then esc s (scpUeFlt a) else s
  | _ => s

/-- Feeder `f` writes its record, or drops it and counts it (R472). -/
def State.feedWrite (s : State) (esc : State → Flt → State) (f : Nat) (rec' : List Byte) : State :=
  let r : Except (Option (MErr × Nat)) State :=
    if s.rb (rCueFeed f) fCueFeedDest then
      let fr := s.rf (rCueFeed f) fCueFeedFrame
      if s.rb (rRepFrcfg fr) fRepFrcfgEn then
        match s.frameWrite (s.frameView fr) fr (s.rf (rCueFeed f) fCueFeedOffset) rec' with
        | .ok s => .ok s
        | .error e => .error (some e)
      else .error none
    else
      match s.relayFor 3 f with
      | some r => s.relayPush r (.win (s.relayWorld r) true) rec'
      | none => .error none
  match r with
  | .ok s => s
  | .error (some (e, a)) => (s.cueMissed (0x20 + f)).feedNote esc e a
  | .error none => s.cueMissed (0x20 + f)

/-- A cue reaches feeder `f`: while its last record waits for the scratchpad it is busy (R466, R467, R472, R625). -/
def State.cueFeed (s : State) (esc : State → Flt → State) (f ch : Nat) : State :=
  if s.feedWaits f then s.cueMissed (0x20 + f)
  else
    let rec' := s.cueRecord f ch
    let s := if s.ready 28 then s.feedWrite esc f rec' else { s with late := s.late ++ [.feed f rec'] }
    s.addRf (rCueFeedstat f) fCueFeedstatSeq 1

/-- A consumer of 2 beats: act, or miss the cue (R466, R467). -/
def State.cueShort (s : State) (c : Nat) (act : State → State) : State :=
  if s.cueBusy c then s.cueMissed c else (act s).setCueBusy c 2

/-- A transmit consumer makes its port process descriptors up to the tail (R541, R557). -/
def State.txKick (s : State) (p w : Nat) : State :=
  { s with lnk := { s.lnk with
      txUpTo := Tab.set natDefault s.lnk.txUpTo (2 * p + w) (s.rf (rLnkTxtail p w) fLnkTxtailTail) } }

/-- The frames that close on channel `ch` (R305). -/
def State.deliverFrames (s : State) (ch : Nat) : State :=
  (List.range 16).foldl (fun s f =>
    if s.rb (rRepFrcfg f) fRepFrcfgCueen && s.rf (rRepFrcfg f) fRepFrcfgClosecue == ch then s.frameClose f else s) s

/-- The feeders that select channel `ch` (R472). -/
def State.deliverFeeders (s : State) (esc : State → Flt → State) (ch : Nat) : State :=
  (List.range 8).foldl (fun s f =>
    if s.rb (rCueFeed f) fCueFeedEn && s.rf (rCueFeed f) fCueFeedSel == ch then s.cueFeed esc f ch else s) s

/-- Do both a frame and a feeder take channel `ch`? Which of them acts first is open (R466, R468). -/
def State.cueRace (s : State) (ch : Nat) : Bool :=
  ((List.range 16).any fun f => s.rb (rRepFrcfg f) fRepFrcfgCueen && s.rf (rRepFrcfg f) fRepFrcfgClosecue == ch) &&
  ((List.range 8).any fun f => s.rb (rCueFeed f) fCueFeedEn && s.rf (rCueFeed f) fCueFeedSel == ch)

/-- The controls of group `g` that select channel `ch`. Where both do, which one comes second and decides is open (R465). -/
def State.deliverGroup (s : State) (ch g : Nat) : State :=
  let a := rCueGrpctl g
  let on (s : State) : State := s.cueShort (0x40 + g) fun s => s.setGroup g true
  let off (s : State) : State := s.cueShort (0x60 + g) fun s => s.setGroup g false
  match s.rb a fCueGrpctlOnen && s.rf a fCueGrpctlOncue == ch, s.rb a fCueGrpctlOffen && s.rf a fCueGrpctlOffcue == ch with
  | true, true => let (v, s) := s.takeFree; if v.bit 0 then on (off s) else off (on s)
  | true, false => on s
  | false, true => off s
  | false, false => s

/-- The pins, group controls and external consumers that select channel `ch` (R467). -/
def State.deliverRest (s : State) (ch : Nat) : State :=
  let s := (List.range 16).foldl (fun s o =>
    if s.rb (rCueOutcfg o) fCueOutcfgEn && s.rf (rCueOutcfg o) fCueOutcfgSel == ch then s.cueOut o else s) s
  let s := (List.range 32).foldl (fun s g => s.deliverGroup ch g) s
  let s := if s.rb rArcCtl fArcCtlCueen && s.rf rArcCtl fArcCtlCommitcue == ch then
      (if s.arcBusy then s.cueMissed 0x80 else s.arcCue) else s
  (List.range 8).foldl (fun s i =>
    let p := i / 2
    let w := i % 2
    if s.rb (rLnkTxctl p w) fLnkTxctlCueen && s.rf (rLnkTxctl p w) fLnkTxctlCuesel == ch then
      s.cueShort (0x88 + i) (fun s => s.txKick p w) else s) s

/-- Delivery of an accepted firing: the interrupt source of the channel, then every consumer that selects it (R466,
R467, R477). -/
def State.deliver (s : State) (esc : State → Flt → State) (ch : Nat) : State :=
  let s := s.arrive ch
  let (feedersFirst, s) :=
    if s.cueRace ch then let (v, s) := s.takeFree; (v.bit 0, s) else (false, s)
  let s := if feedersFirst then (s.deliverFeeders esc ch).deliverFrames ch
    else (s.deliverFrames ch).deliverFeeders esc ch
  s.deliverRest ch

/-- The rate monitor's count of attempts on channel `ch` in this window. -/
def State.attempts (s : State) (ch : Nat) : Nat := Tab.get natDefault s.cue.attempts ch

/-- A window of RATEWIN µs of the time base, counted from zero, ends and the counts restart (R7, R470). A change of RATEWIN
that moves the start of the window ends it too (log entry 174). -/
def State.rateRoll (s : State) : State :=
  let w := s.rf rCueRatectl fCueRatectlRatewin
  let n := s.time / w * w
  if n = s.cue.window then s else { s with cue := { s.cue with attempts := [], window := n } }

/-- The LOOP fault of the cue router (R470, R487). -/
def loopFlt (ch : Nat) : Flt := ⟨.cue, 0, 2, none, 0, ch, 0, false⟩

/-- The attempt that reaches RATELIM (R470). -/
def State.rateCheck (s : State) (ch : Nat) : State :=
  let lim := s.rf (rCueChcfg ch) fCueChcfgRatelim
  if lim ≠ 0 ∧ s.attempts ch = lim then
    let s := (s.setRf (rCueChstat ch) fCueChstatRate 1).flt (loopFlt ch)
    if s.rb (rCueChcfg ch) fCueChcfgRateoff then s.setGroup (ch / 8) false else s
  else s

/-- Decide one firing attempt (R464). -/
def State.fireDecide (s : State) (esc : State → Flt → State) (ch : Nat) : State :=
  if s.groupOn ch && s.spaced ch then
    let s := s.addRf (rCueChstat ch) fCueChstatFired 1
    let s := { s with cue := { s.cue with last := Tab.set firedDefault s.cue.last ch (some (s.beats, s.time)) } }
    s.deliver esc ch
  else s.satRf (rCueChstat ch) fCueChstatIgnored 1

/-- Start, or restart, the ALARM_N pulse (R489). -/
def State.alarmPulse (s : State) : State :=
  let s := if s.rb rCusAlarmstat fCusAlarmstatPulsing then s else s.addRf rCusAlarmstat fCusAlarmstatPulses 1
  let s := (s.setRf rCusAlarmstat fCusAlarmstatPulsing 1).setRf rCusAlarmstat fCusAlarmstatLow 1
  { s with alarmEnd := some (s.time + s.rf rCusAlarmctl fCusAlarmctlWidth) }

/-- A firing attempt on channel `ch` (R464, R470), `esc` being what a safety-class fault met in its delivery does further.
Channels 254 and 255 are never fired (R462). -/
def State.fireWith (s : State) (esc : State → Flt → State) (ch : Nat) : State :=
  if ch ≥ 254 then s
  else
    let s := s.rateRoll
    let s := { s with cue := { s.cue with attempts := Tab.set natDefault s.cue.attempts ch (s.attempts ch + 1) } }
    (s.fireDecide esc ch).rateCheck ch

/-- What a safety-class fault that is not lost does (R484): channel 249 fires and, with ALARMEN, an ALARM_N pulse starts. -/
def State.escalateWith (s : State) (esc : State → Flt → State) (f : Flt) : State :=
  let s := s.fireWith esc 249
  if (s.reg (rFltAlarmen (f.blk.at f.inst))).bit f.kind then s.alarmPulse else s

/-- A firing attempt. The one safety-class fault that its delivery can meet is the UE of a feeder's word: a second one of
the same attempt is lost in the fault group and does nothing further (R484). -/
def State.fire (s : State) (ch : Nat) : State := s.fireWith (fun s f => s.escalateWith (fun s _ => s) f) ch

/-- Channel 249 and the ALARM_N pulse of a safety-class fault (R484). -/
def State.escalate (s : State) (f : Flt) : State :=
  s.escalateWith (fun s f => s.escalateWith (fun s _ => s) f) f

/-- Raise a fault (R484): record it; a safety-class one that is not lost goes further. -/
def State.raise (s : State) (f : Flt) : State :=
  let (s, esc) := State.fltCore 3 s f
  if esc then s.escalate f else s

/-! ### Meanings -/

/-- RATE_WINDOW (R470). -/
def State.rateWindow (s : State) : State := s.rateRoll

/-- CUE_TIMER_EXPIRY (R471): timer `t` fires when the time base modulo PERIOD equals PHASE modulo PERIOD. -/
def State.timerExpiry (s : State) (t : Nat) : State :=
  let per := s.rf (rCueTimer t) fCueTimerPeriod
  if s.rb (rCueTimer t) fCueTimerEn && decide (s.time % per = s.rf (rCueTphase t) fCueTphasePhase % per) &&
      Tab.get timeDefault s.cue.timerAt t != some s.time then
    { s with cue := { s.cue with timerAt := Tab.set timeDefault s.cue.timerAt t (some s.time) } }.fire (240 + t)
  else s

/-- Is input `i` active (R473)? -/
def State.pinActive (s : State) (i : Nat) : Bool := s.cueIn.bit i != s.rb (rCuePincfg i) fCuePincfgPol

/-- May pin `i` fire: its EN, and no STUCK still in force (R475)? -/
def State.pinFires (s : State) (i : Nat) : Bool :=
  s.rb (rCuePincfg i) fCuePincfgEn && !s.rb (rCuePinstat i) fCuePinstatStuck && !Tab.get flagDefault s.cue.stuckWait i

def State.setActiveAt (s : State) (i : Nat) (t : Option Nat) : State :=
  { s with cue := { s.cue with activeAt := Tab.set timeDefault s.cue.activeAt i t } }

def State.setStuckWait (s : State) (i : Nat) (b : Bool) : State :=
  { s with cue := { s.cue with stuckWait := Tab.set flagDefault s.cue.stuckWait i b } }

/-- A firing attempt of input `i` on channel 224 + i, from which its next repeat counts (R474). -/
def State.pinAttempt (s : State) (i : Nat) : State :=
  { s with cue := { s.cue with tried := Tab.set firedDefault s.cue.tried i (some (s.beats, s.time)) } }.fire (224 + i)

/-- CUE_IN_ACTIVATION (R474): the input becomes active and makes a firing attempt on channel 224 + i. -/
def State.pinActivate (s : State) (i : Nat) : State :=
  if s.pinActive i then s
  else
    let s := { s with cueIn := s.cueIn.setBit i (!s.cueIn.bit i) }
    let s := (s.setRf (rCuePinstat i) fCuePinstatLevel 1).addRf (rCuePinstat i) fCuePinstatActs 1
    let s := s.setActiveAt i (some s.time)
    if s.pinFires i then s.pinAttempt i else s

/-- CUE_IN_INACTIVE (R475): the input goes inactive. -/
def State.pinDeactivate (s : State) (i : Nat) : State :=
  if !s.pinActive i then s
  else
    let s := { s with cueIn := s.cueIn.setBit i (!s.cueIn.bit i) }
    ((s.setRf (rCuePinstat i) fCuePinstatLevel 0).setActiveAt i none).setStuckWait i false

/-- CUE_IN_REPEAT (R474): in level mode an active input repeats its attempt each time the spacing has elapsed, since the
attempt before it. -/
def State.pinRepeat (s : State) (i : Nat) : State :=
  if s.rb (rCuePincfg i) fCuePincfgMode && s.pinActive i && s.pinFires i &&
      s.spacedSince (224 + i) (Tab.get firedDefault s.cue.tried i) then s.pinAttempt i
  else s

/-- STUCK (R475): a level-mode input active for STUCKT µs sets STUCK, raises the kind and stops firing. -/
def State.pinStuck (s : State) (i : Nat) : State :=
  match Tab.get timeDefault s.cue.activeAt i with
  | some t =>
    if s.rb (rCuePincfg i) fCuePincfgMode && s.pinActive i && s.pinFires i &&
        decide (t + s.rf (rCuePincfg i) fCuePincfgStuckt ≤ s.time) then
      ((s.setRf (rCuePinstat i) fCuePinstatStuck 1).setStuckWait i true).flt ⟨.cue, 0, 3, none, 0, i, 0, false⟩
    else s
  | none => s

/-- What a write of CUE.PINCFGi from `old` does beyond storing it (R474). -/
def State.pincfgPost (s : State) (i : Nat) (old : Word) : State :=
  let new := s.reg (rCuePincfg i)
  let ch (f : FP) : Bool := old.fld f.lsb f.w != new.fld f.lsb f.w
  let sets := new.bit 0 && !old.bit 0
  if sets || ch fCuePincfgPol || ch fCuePincfgMode then
    let act := s.pinActive i
    let s := s.setRf (rCuePinstat i) fCuePinstatLevel act.toNat
    let s := s.setActiveAt i (if act then some s.time else none)
    let s := if act then s else s.setStuckWait i false
    if act && new.bit 1 && s.pinFires i then s.pinAttempt i else s
  else s

/-- CUE_OUT_PULSE_END (R467, R476): after WIDTH beats the pin returns to inactive. -/
def State.pulseEnd (s : State) (o : Nat) : State :=
  if Tab.get flagDefault s.cue.pulsing o && !s.cueBusy (0x10 + o) then
    { s.setRf (rCueOutstat o) fCueOutstatPin 0 with
      cue := { s.cue with pulsing := Tab.set flagDefault s.cue.pulsing o false } }
  else s

/-- What a write of CUE.OUTCFGo does beyond storing it: EN = 0 makes the pin inactive, software mode follows LEVEL
(R476). -/
def State.outcfgPost (s : State) (o : Nat) : State :=
  let drop (s : State) : State := { s with cue := { s.cue with
    pulsing := Tab.set flagDefault s.cue.pulsing o false, busy := Tab.set natDefault s.cue.busy (0x10 + o) 0 } }
  if !s.rb (rCueOutcfg o) fCueOutcfgEn || s.cus.curtain then drop (s.setRf (rCueOutstat o) fCueOutstatPin 0)
  else if s.rf (rCueOutcfg o) fCueOutcfgMode = 2 then
    drop (s.setRf (rCueOutstat o) fCueOutstatPin (s.rf (rCueOutcfg o) fCueOutcfgLevel))
  else s

/-- ALARM_PULSE_END (R489, R490): the pulse ends and the pin follows HOLD. -/
def State.alarmEndPulse (s : State) : State :=
  match s.alarmEnd with
  | some t =>
    if t ≤ s.time then
      let s := s.setRf rCusAlarmstat fCusAlarmstatPulsing 0
      let s := s.setRf rCusAlarmstat fCusAlarmstatLow
        (if s.cus.curtain then 1 else s.rf rCusAlarmctl fCusAlarmctlHold)
      { s with alarmEnd := none }
    else s
  | none => s

/-- The denied firing of R463. -/
def cueDenied (src ch : Nat) (addr : Nat) : Flt := ⟨.cue, 0, 1, none, src, ch, addr, false⟩

/-- A firing of channel `ch` from the register of world `w` (R463), by the requester `src`. -/
def State.cueFireReg (s : State) (w ch src : Nat) : State :=
  if ch ≥ 128 ∨ s.rf (rCueChcfg ch) fCueChcfgWorld ≠ w then s.flt (cueDenied src ch (cfgBase + rCueFires w)) else s.fire ch

/-- GRPSET and GRPCLR (R465). -/
def State.grpWrite (s : State) (groups : Nat) (on : Bool) : State :=
  (List.range 32).foldl (fun s g => if groups.testBit g then s.setGroup g on else s) s

end Sys2Proof.Machine
end

