-- ==== Sys2Proof/Machine/Memory.lean ====
section
/-!
DEFINITION. The memories (08): HBM bands, weak rows, errors, repair and retirement (R344 to R354), scratchpad errors, bank
swaps (R356 to R359, R388), and the arbiters' counters (R371 to R375).
-/
namespace Sys2Proof.Machine

def hbcDefault (_ : Nat) : HbcSt := HbcSt.empty
def State.hb (s : State) (k : Nat) : HbcSt := Tab.get hbcDefault s.hbc k
def State.setHb (s : State) (k : Nat) (x : HbcSt) : State := { s with hbc := Tab.set hbcDefault s.hbc k x }

def hbcFlt (k kind detail a : Nat) : Flt := ⟨.hbc, k, kind, none, 0, detail, a, false⟩

/-! ### Temperature bands (R344, R345) -/

/-- Top of a band in °C. -/
def bandTop : Nat → Int
  | 0 => 85 | 1 => 95 | 2 => 110 | 3 => 125 | 4 => 140 | _ => 150

/-- The band of a temperature. -/
def bandOf (t : Int) : Nat := if t ≤ 85 then 0 else if t ≤ 95 then 1 else if t ≤ 110 then 2 else if t ≤ 125 then 3 else if t ≤ 140 then 4 else 5

/-- Restraint is in force (R632). -/
def State.restrained (s : State) : Bool := s.mode == 7 || s.rb rPwrRstat fPwrRstatActive

/-- A temperature reading of stack `k` (R345). -/
def State.hbmTemp (s : State) (k temp : Nat) (valid : Bool) : State :=
  if !s.domOn (30 + k) then s
  else
    let a := rHbcTemp k
    let t := toSigned 9 temp
    let s := (s.setRf a fHbcTempTemp temp).setRf a fHbcTempValid valid.toNat
    let forced := !valid || s.restrained
    let s := s.setRf a fHbcTempForced forced.toNat
    let x := s.hb k
    let below := (List.range 5).map fun l =>
      if valid ∧ t ≤ bandTop l - 3 then some (((x.below[l]?).join).getD s.time) else none
    let s := s.setHb k { x with below := below }
    let s := if forced then s.setRf a fHbcTempBand 5
      else if s.rf a fHbcTempBand < bandOf t then s.setRf a fHbcTempBand (bandOf t) else s
    let s := if valid ∧ t > 150 then s.flt (hbcFlt k 5 0 0) else s
    if valid then s else s.flt (hbcFlt k 6 0 0)

/-- HBM_BAND_RETURN (R345): the lowest band that 100 ms of readings allow. -/
def State.bandReturn (s : State) (k : Nat) : State :=
  let a := rHbcTemp k
  let x := s.hb k
  if s.rb a fHbcTempForced || !s.domOn (30 + k) then s
  else
    match (List.range (s.rf a fHbcTempBand)).find? fun l =>
        match (x.below[l]?).join with | some t => decide (t + 100000 ≤ s.time) | none => false with
    | some l => s.setRf a fHbcTempBand l
    | none => s

/-! ### Rows -/

/-- Granules of a pseudo-channel: 1.125 GiB of 256 bytes (R339). -/
def granules : Nat := 4718592

/-- The device address of granule `g` of pseudo-channel `p` (R340 to R342, read backwards). -/
def State.granuleAddr (s : State) (p g : Nat) : Nat :=
  let l := s.rf rMtxHbmsplit fMtxHbmsplitLocal
  let glob := (36 - l) * 2 ^ 17
  if g < glob then hbmBase + g * 2 ^ 15 + ((p ^^^ (g / 2 ^ 5 % 2 ^ 7)) ^^^ (g / 2 ^ 17)) * 256
  else
    let h := g - glob
    let q := p / 32
    hbmBase + 4 * (36 - l) * 2 ^ 30 + q * l * 2 ^ 30 + h * 2 ^ 13 +
      ((p % 32 ^^^ (h / 2 ^ 7 % 2 ^ 5)) ^^^ (h / 2 ^ 19 % 2 ^ 5)) * 256

/-- A row becomes a repair candidate of stack `k` (R347, R348, R352). -/
def State.candidate (s : State) (k : Nat) (r : Nat × Nat) : State :=
  let x := s.hb k
  if x.cands.contains r then s else s.setHb k { x with cands := x.cands ++ [r] }

/-- A row becomes weak (R348). -/
def State.weaken (s : State) (k : Nat) (r : Nat × Nat) : State :=
  let x := s.hb k
  if x.weak.contains r then s
  else if x.weak.length < 8192 then s.setHb k { x with weak := x.weak ++ [r] }
  else (s.candidate k r).flt (hbcFlt k 4 0 0)

/-- The stack, pseudo-channel and row of an HBM address. -/
def State.rowOf (s : State) (a : Nat) : Nat × Nat × Nat :=
  let p := s.pseudoChannel a
  (p / 32, p, s.channelOffset a / 1024)

/-- An uncorrectable codeword found by a request read or by scrub (R352). -/
def State.hbmUe (s : State) (a : Nat) : State :=
  let (k, p, r) := s.rowOf a
  let s := s.satRf (rHbcUecnt k) fHbcUecntCount 1
  (s.candidate k (p, r)).raise (hbcFlt k 1 p a)

/-- A corrected error of a request read (R348, R352). -/
def State.hbmCe (s : State) (a : Nat) : State :=
  let (k, p, r) := s.rowOf a
  let s := s.satRf (rHbcCecnt k) fHbcCecntReq 1
  let x := s.hb k
  if x.once.contains (p, r) then s.weaken k (p, r) else s.setHb k { x with once := x.once ++ [(p, r)] }

/-- HBM_SCRUB (R348, R349, R352): scrub reads a granule; a codeword that is marked uncorrectable stays so. -/
def State.hbmScrub (s : State) (p g : Nat) (found : MemErr) : State :=
  if g ≥ granules ∨ !s.ready (24 + p / 32) then s
  else
    let k := p / 32
    let a := s.granuleAddr p g
    let x := s.hb k
    let s := if x.scrubbed + 1 = 32 * granules then
        (s.setHb k { x with scrubbed := 0, once := [] }).addRf (rHbcScrub k) fHbcScrubPasses 1
      else s.setHb k { x with scrubbed := x.scrubbed + 1 }
    let s := (List.range 8).foldl (fun s i => if s.bad (a + 32 * i) then s.hbmUe (a + 32 * i) else s) s
    match found with
    | .none => s
    | .corrected => (s.satRf (rHbcCecnt k) fHbcCecntScrub 1).weaken k (p, g / 4)
    | .uncorrectable =>
      let (v, s) := s.takeFree
      let b := a + 32 * (v.toNat % 8)
      if s.bad b then s else (s.setBad b true).hbmUe b

/-! ### Repair and retirement (R353, R354, R384, R385) -/

def retDefault (_ : Nat) : Nat × Nat := (0, 0)
/-- Entry `i` of the retired-page list of stack `k`: state (0 EMPTY, 1 LISTED, 2 FENCED) and page. -/
def State.ret (s : State) (k i : Nat) : Nat × Nat := Tab.get retDefault s.retired (4096 * k + i)
def State.setRet (s : State) (k i : Nat) (x : Nat × Nat) : State :=
  { s with retired := Tab.set retDefault s.retired (4096 * k + i) x }

/-- The list of stack `k` as it stands: entries that are not EMPTY. -/
def State.retList (s : State) (k : Nat) : List (Nat × Nat × Nat) :=
  s.retired.filter fun e => decide (4096 * k ≤ e.1 ∧ e.1 < 4096 * k + 4096)

/-- The first EMPTY entry of a list that is ordered by index. -/
def firstGap : List (Nat × Nat × Nat) → Nat → Nat
  | [], i => i
  | e :: t, i => if e.1 % 4096 = i ∧ e.2.1 ≠ 0 then firstGap t (i + 1) else i

/-- List the page of address `a` in stack `k` (R354). -/
def State.listPage (s : State) (k a : Nat) : State :=
  let l := s.retList k
  if l.any fun e => decide (e.2.1 ≠ 0 ∧ e.2.2 = a / 4096) then s
  else
    let i := firstGap l 0
    if i < 4096 then s.setRet k i (1, a / 4096) else s.flt (hbcFlt k 3 0 a)

/-- Retire a row: its four pages are listed (R354). -/
def State.retireRow (s : State) (k : Nat) (r : Nat × Nat) : State :=
  (List.range 4).foldl (fun s i => s.listPage k (s.granuleAddr r.1 (4 * r.2 + i))) s

/-- Repair one candidate; whether its bank group has a spare row left is open (R353). -/
def State.repairRow (s : State) (k : Nat) (r : Nat × Nat) (soft : Bool) : State :=
  let s := s.setHb k { s.hb k with cands := (s.hb k).cands.filter fun y => y != r }
  let (v, s) := s.takeFree
  if v.bit 0 then
    if soft then
      (s.setHb k { s.hb k with soft := (s.hb k).soft ++ [r] }).addRf (rHbcPprstat k) fHbcPprstatSoft 1
    else s.addRf (rHbcPprstat k) fHbcPprstatHard 1
  else (s.flt (hbcFlt k 2 0 0)).retireRow k r

/-- HBM_SOFT_REPAIR (R353): with ONLINE = 1 the first candidate is repaired. -/
def State.softRepair (s : State) (k : Nat) : State :=
  if !s.rb (rHbcPprctl k) fHbcPprctlOnline || !s.ready (24 + k) then s
  else match (s.hb k).cands with
    | [] => s
    | r :: _ => s.repairRow k r true

/-- Rehearsal (R347, R353): profiling, then soft repairs and candidates are made hard. -/
def State.rehearseHbm (s : State) (n k : Nat) : State :=
  if !s.ready (24 + k) then s
  else
    let s := (Config.weakRows n k).foldl (fun s r => s.weaken k (32 * k + r.1 % 32, r.2 % (granules / 4))) s
    let s := (Config.failedRows n k).foldl (fun s r => s.candidate k (32 * k + r.1 % 32, r.2 % (granules / 4))) s
    let s := s.addRf (rHbcPprstat k) fHbcPprstatHard (s.hb k).soft.length
    let s := s.setHb k { s.hb k with soft := [] }
    (s.hb k).cands.foldl (fun s r => s.repairRow k r false) s

/-- A machine-level write of HBC.RETENT (R385). -/
def State.retentSet (s : State) (k st page : Nat) : State :=
  let i := s.rf (rHbcRetsel k) fHbcRetselIndex
  let (old, pg) := s.ret k i
  match old, st with
  | 0, 1 | 0, 2 => s.setRet k i (st, page)
  | 1, 2 => s.setRet k i (2, pg)
  | _, 0 => s.setRet k i (0, pg)
  | _, _ => s.locked .hbc k

/-! ### Scratchpad (R355 to R359, R388) -/

/-- A corrected scratchpad word (R356, R358, R596). -/
def State.scpCe (s : State) (a : Nat) : State :=
  let b := bankOf a
  let s := s.satRf rScpCecnt fScpCecntCount 1
  let ts := lastDay s.time (Tab.get listDefault s.ust.bankCe b) ++ [s.time]
  let s := { s with ust := { s.ust with bankCe := Tab.set listDefault s.ust.bankCe b ts } }
  if ts.length > s.rf rUstPolicy fUstPolicyCelim then s.bankWear b false else s

/-- An uncorrectable scratchpad word (R356, R596). -/
def State.scpUe (s : State) (a : Nat) : State :=
  let (s, esc) := s.scpUeMark a
  if esc then s.escalate (scpUeFlt a) else s

/-- Does the word's scrub of this SCP.SCRUB.PERIOD, in ms of the time base, still stand out (R7, R358)? -/
def State.scrubDue (s : State) (word : Nat) : Bool :=
  let p := 1000 * s.rf rScpScrub fScpScrubPeriod
  match Tab.get optDefault s.banks.scrubs word with
  | some t => decide (t / p < s.time / p)
  | none => true

/-- What a scrub read of the scratchpad word at `a` does (R356, R358). -/
def State.scrubRead (s : State) (a : Nat) (found : MemErr) : State :=
  if s.bad a then s.scpUe a
  else match found with
    | .none => s
    | .corrected => s.scpCe a
    | .uncorrectable => (s.setBad a true).scpUe a

/-- SCP_SCRUB (R358): each word once in each period. -/
def State.scpScrub (s : State) (word : Nat) (found : MemErr) : State :=
  if !s.ready 28 || decide (word ≥ 2 ^ 24) || !s.scrubDue word then s
  else
    State.scrubRead { s with banks := { s.banks with scrubs := Tab.set optDefault s.banks.scrubs word (some s.time) } }
      (scpBase + 8 * word) found

/-- An uncorrectable code unit met by a request read (R352, R356). -/
def State.memUe (s : State) (a : Nat) : State := if inScp a then s.scpUe a else if inHbm a then s.hbmUe a else s

/-- A corrected error met by a request read (R352, R356). -/
def State.memCe (s : State) (a : Nat) : State := if inScp a then s.scpCe a else if inHbm a then s.hbmCe a else s

/-- Is the memory behind an address up (R625, R634)? Scratchpad waits for bit 28 of CUS.READY, HBM for its four bits. -/
def State.memReady (s : State) (a : Nat) : Bool :=
  if inScp a then s.ready 28 else if inHbm a then [24, 25, 26, 27].all s.ready else true

/-- Is the memory behind the `n` bytes from `a` up, at its first and its last byte (R680)? -/
def State.spanReady (s : State) (a n : Nat) : Bool :=
  [a, a + n - 1].all fun b => match s.target b with | .mem p => s.memReady p | _ => true

/-- An access to `a` that found an uncorrectable code unit is reported by its memory (R352, R356). -/
def State.eccNote (s : State) (a : Nat) : State :=
  match s.target a with
  | .mem q => if s.bad q then s.memUe q else s
  | _ => s

/-- What a refused write records in the matrix or the memory: FROZEN (R307, R362), or the uncorrectable code unit that the
read of its read-modify-write met (R351, R356). -/
def State.writeNote (s : State) (src : Nat) (e : MErr) (a : Nat) : State :=
  match e with
  | .frozen => s.mtxFrozen src a
  | .ecc => s.eccNote a
  | _ => s

/-- A read by a master; an uncorrectable code unit that stops it is reported by its memory (R352, R356). -/
def State.readMem (s : State) (p : Paths) (v : View) (a n : Nat) : State × Except MErr (List Byte) :=
  match s.load p v .rd a n with
  | .ok bs => (s, .ok bs)
  | .error .ecc =>
    (match (List.range n).findSome? fun i => match s.target (a + i) with
        | .mem q => if s.bad q then some q else none
        | _ => none with
     | some q => (s.memUe q, .error .ecc)
     | none => (s, .error .ecc))
  | .error e => (s, .error e)

/-- SCP.BANKMAP of a bank (R387). -/
def State.bankMap (s : State) (b : Nat) : Nat :=
  let q := b / 512
  let x := s.banks
  let sp := Tab.get optDefault x.spared b
  (match sp with | some u => 528 * q + 512 + u | none => 528 * q + b % 512) + 2 ^ 12 * sp.isSome.toNat +
  2 ^ 13 * (Tab.get optDefault x.copying q == some b).toNat + 2 ^ 14 * (Tab.get flagDefault x.worn b).toNat

/-! ### Arbiters (R371 to R375) -/

/-- Is the requester code assigned (R374)? -/
def isRequester (r : Nat) : Bool :=
  decide (r < 0x78) || decide (0x80 ≤ r ∧ r < 0x92) || r == 0x98 || decide (0x9C ≤ r ∧ r < 0xA6) ||
  decide (0xA8 ≤ r ∧ r < 0xAC)

/-- Does the selection name an arbiter and a requester (R371, R375)? -/
def isArbiter (cls idx : Nat) : Bool :=
  match cls with | 0 => decide (idx < 2048) | 1 => decide (idx < 128) | 2 => decide (idx < 17) | _ => false

def arbKey (cls idx req : Nat) : Nat := 3 * (2 ^ 20 * cls + 256 * idx + req)

def State.cnt (s : State) (k : Nat) : Nat := Tab.get natDefault s.counters k
def State.setCnt (s : State) (k v : Nat) : State := { s with counters := Tab.set natDefault s.counters k v }

def arbDefault (_ : Nat) : ArbSt := ArbSt.empty
/-- Arbiter `idx` of class `cls` (R371). -/
def State.arb (s : State) (cls idx : Nat) : ArbSt := Tab.get arbDefault s.arbs (4096 * cls + idx)
def State.setArb (s : State) (cls idx : Nat) (x : ArbSt) : State :=
  { s with arbs := Tab.set arbDefault s.arbs (4096 * cls + idx) x }

/-- Bank copy and HBM scrub take the shares of R349 and R359 and stand outside the rotation (R372). -/
def isShare (r : Nat) : Bool := r == 0xAA || r == 0xAB

/-- The requester that the rotation grants among `rs`: the first code above the one granted last, or the lowest (R372;
DESIGN CHOICE, log entry 75: the rotation runs in the order of the requester codes). -/
def rotation (last : Option Nat) (rs : List Nat) : Option Nat :=
  let above := rs.filter fun r => match last with | some l => decide (l < r) | none => true
  if above.isEmpty then rs.min? else above.min?

/-- A requester has waited `m` matrix beats and `e` beats of its engine more, `tm` and `te` since its request (R373,
R199). -/
def State.arbWait (s : State) (cls idx req m e tm te : Nat) : State :=
  let k := arbKey cls idx req
  let s := s.setCnt (k + 1) (satAdd (s.cnt (k + 1)) m (2 ^ 48 - 1))
  let s := s.setCnt (k + 2) (max (s.cnt (k + 2)) (min tm (2 ^ 32 - 1)))
  if req < 0x60 then
    let n := req / 6
    let p := req % 6
    let s := s.satRf (rEngPwait n p) fEngPwaitWaited e
    if s.rf (rEngPmax n p) fEngPmaxLongest < te then s.setRf (rEngPmax n p) fEngPmaxLongest (min te (2 ^ 32 - 1)) else s
  else s

/-- What the requester of a list of waits has waited so far. -/
def ArbSt.waited (x : ArbSt) (r : Nat) : Nat × Nat := ((x.waits.find? fun w => w.1 == r).map fun w => w.2).getD (0, 0)

/-- Does the transfer of the arbiter carry the code unit of address `a` (R371)? -/
def State.arbCarries (s : State) (cls idx a : Nat) : Bool :=
  match cls with
  | 0 => inScp a && bankOf a == idx
  | 1 => inHbm a && s.pseudoChannel a == idx
  | _ => false

/-- Is the arbiter that of a bank that copies itself into a spare (R359)? -/
def State.copies (s : State) (cls idx : Nat) : Bool := cls == 0 && Tab.get optDefault s.banks.copying (idx / 512) == some idx

/-- Does a grant keep the shares: HBM scrub at most one in 64 at a pseudo-channel (R349), the copy of a bank at least one
in 8 at that bank and at no other (R359)? -/
def State.shareKept (s : State) (cls idx req : Nat) : Bool :=
  let x := s.arb cls idx
  if req = 0xAB then cls == 1 && (match x.sinceScrub with | some n => decide (63 ≤ n) | none => true)
  else if req = 0xAA then s.copies cls idx
  else !s.copies cls idx || decide (x.sinceCopy < 7)

/-- ARBITER_GRANT (R198, R199, R372, R373): the rotation's choice is granted one transfer; the waits are counted, and the
corrected error that a transfer read of a request may meet (R352, R356). Another choice is none that an arbiter makes. -/
def State.arbGrant (s : State) (cls idx req : Nat) (waits : List (Nat × Nat × Nat)) (ce : Option Nat) : State :=
  let x := s.arb cls idx
  let waits := waits.filter fun w => isRequester w.1
  let rs := (req :: waits.map fun w => w.1).filter fun r => !isShare r
  if !isArbiter cls idx || !isRequester req || !s.shareKept cls idx req || !(isShare req || rotation x.last rs == some req) then s
  else
    let ws := waits.map fun w => (w.1, (x.waited w.1).1 + w.2.1, (x.waited w.1).2 + w.2.2)
    let s := (waits.zip ws).foldl (fun s w => s.arbWait cls idx w.1.1 w.1.2.1 w.1.2.2 w.2.2.1 w.2.2.2) s
    let k := arbKey cls idx req
    let s := s.setCnt k (satAdd (s.cnt k) 1 (2 ^ 48 - 1))
    let s := if req < 0x60 then s.satRf (rEngPgrant (req / 6) (req % 6)) fEngPgrantGrants 1 else s
    let s := s.setArb cls idx ⟨if isShare req then x.last else some req, ws.filter fun w => w.1 != req,
      if req = 0xAB then some 0 else x.sinceScrub.map (· + 1), if s.copies cls idx && req != 0xAA then x.sinceCopy + 1 else 0⟩
    match ce with
    | some a => if s.arbCarries cls idx a && !isShare req && !s.bad a then s.memCe a else s
    | none => s

/-- The counter that a counter register of bank `b` shows (R375): its key, or none. -/
def State.cntSel (s : State) (b j : Nat) : Option Nat :=
  let a := rMtxCntsel b
  let cls := s.rf a fMtxCntselClass
  let idx := s.rf a fMtxCntselIndex
  let req := s.rf a fMtxCntselReq
  if isArbiter cls idx && isRequester req then some (arbKey cls idx req + j) else none

end Sys2Proof.Machine
end

