-- ==== Sys2Proof/Machine/Seals.lean ====
section
/-!
DEFINITION. Seal units (13, R549 to R556): feeding, holding, closing in generate and check mode, seal records, scans.
-/
namespace Sys2Proof.Machine

def seaDefault (_ : Nat) : SeaSt := SeaSt.empty

def State.sea (s : State) (u : Nat) : SeaSt := Tab.get seaDefault s.seals u
def State.setSea (s : State) (u : Nat) (x : SeaSt) : State := { s with seals := Tab.set seaDefault s.seals u x }

/-- The code of unit `u` with its initial value (R549). -/
def State.seaCrc (s : State) (u : Nat) : Crc :=
  let c := sealPoly (s.rf (rSeaCtl u) fSeaCtlPoly)
  { c with init := (s.reg (rSeaInit u)).toNat % 2 ^ c.w }

def State.seaWorld (s : State) (u : Nat) : World := worldOf (s.rf (rSeaCtl u) fSeaCtlWorld)

/-- Is the unit free for a non-register feeder: neither held nor open (R149, R551)? -/
def State.seaFree (s : State) (u : Nat) : Bool :=
  !s.rb (rSeaStat u) fSeaStatHeld && !s.rb (rSeaStat u) fSeaStatOpen

/-- Feed bytes; the first byte after a close opens the unit (R550). -/
def State.seaFeed (s : State) (u : Nat) (bs : List Byte) : State :=
  if bs = [] then s
  else
    let c := s.seaCrc u
    let fresh := !s.rb (rSeaStat u) fSeaStatOpen
    let x := s.sea u
    let s := s.setSea u { x with crc := c.feed (if fresh then c.init else x.crc) bs }
    let s := s.setRf (rSeaStat u) fSeaStatOpen 1
    s.setRf (rSeaStat u) fSeaStatBytes ((if fresh then 0 else s.rf (rSeaStat u) fSeaStatBytes) + bs.length)

/-- A non-register feeder takes the unit (R551): `who` in the state, `code` and `tag` in SEA.STAT. -/
def State.seaHold (s : State) (u who code tag : Nat) : State :=
  let s := s.setSea u { s.sea u with holder := some who }
  ((s.setRf (rSeaStat u) fSeaStatHeld 1).setRf (rSeaStat u) fSeaStatHolder code).setRf (rSeaStat u) fSeaStatTag tag

/-- The unit is neither held nor open any longer. -/
def State.seaIdle (s : State) (u : Nat) : State :=
  let s := s.setSea u SeaSt.empty
  let s := ((s.setRf (rSeaStat u) fSeaStatHeld 0).setRf (rSeaStat u) fSeaStatHolder 0).setRf (rSeaStat u) fSeaStatTag 0
  ((s.setRf (rSeaStat u) fSeaStatOpen 0).setRf (rSeaStat u) fSeaStatScanning 0).setRf (rSeaStat u) fSeaStatBytes 0

/-- The SCANFAULT kind (R552, R565). -/
def State.scanFault (s : State) (u a : Nat) : State := s.flt ⟨.sea, u, 3, none, 0, 0, a, false⟩

/-- The seal record of R556. -/
def sealRecord (value alive tag poly world fail feeder : Nat) : List Byte :=
  leBytes 8 value ++ leBytes 4 alive ++ leBytes 2 tag ++ leBytes 1 (poly % 4) ++
  leBytes 1 (world % 2 + 2 * (fail % 2) + 4 * (feeder % 4))

/-- The record goes to address `a` under the windows of the unit's world (R556, R360). A refusal is recorded in the unit's
block as SCANFAULT (R366; log entry 157). -/
def State.sealStore (s : State) (u a : Nat) (r : List Byte) : State :=
  let v : View := .win (s.seaWorld u) true
  match s.store Paths.plain v a r with
  | .ok s => s
  | .error e => (s.writeNote (0xA0 + u) e (s.firstRefused Paths.plain v a 16)).scanFault u (s.firstRefused Paths.plain v a 16)

/-- Write the record where RESEN is 1, once its memory is up (R552, R556, R625). -/
def State.sealWrite (s : State) (u tag feeder : Nat) (fail : Bool) : State :=
  if s.rb (rSeaCtl u) fSeaCtlResen then
    let alive := s.rf (rSeaAlive u) fSeaAliveAlive
    let a := s.rf (rSeaResaddr u) fSeaResaddrBase * 16 + 16 * (alive % 2 ^ s.rf (rSeaCtl u) fSeaCtlRing)
    let r := sealRecord (s.reg (rSeaResult u)).toNat alive tag (s.rf (rSeaCtl u) fSeaCtlPoly)
      (s.rf (rSeaCtl u) fSeaCtlWorld) fail.toNat feeder
    if s.spanReady a 16 then s.sealStore u a r else { s with late := s.late ++ [.seal u a r] }
  else s

/-- Why a check fails (R552): 0 passes, 1 value, 2 REPEAT, 3 SKIP. -/
def checkWhy (value chk alive chkAlive : Nat) : Nat :=
  if value ≠ chk then 1
  else if chkAlive = (alive + 1) % 2 ^ 32 then 0
  else if (alive + 2 ^ 32 - chkAlive) % 2 ^ 32 < 2 ^ 31 then 2 else 3

/-- The close with value `v` (R552): `tag` and `feeder` go into the record. -/
def State.seaCloseVal (s : State) (u tag feeder v : Nat) : State :=
  let s := s.setReg (rSeaResult u) (BitVec.ofNat 64 v)
  let alive := s.rf (rSeaAlive u) fSeaAliveAlive
  if s.rb (rSeaCtl u) fSeaCtlMode then
    let chkAlive := s.rf (rSeaChkalive u) fSeaChkaliveAlive
    let why := checkWhy v (s.reg (rSeaChkval u)).toNat alive chkAlive
    let s := s.setRf (rSeaStat u) fSeaStatFailwhy why
    let s := s.setRf (rSeaStat u) fSeaStatFail (if why = 0 then 0 else 1)
    let s := if why = 0 then s.setRf (rSeaAlive u) fSeaAliveAlive chkAlive
      else s.raise ⟨.sea, u, 1, some (s.seaWorld u), 0, why, 0, false⟩
    s.sealWrite u tag feeder (why != 0)
  else (s.setRf (rSeaAlive u) fSeaAliveAlive (alive + 1)).sealWrite u tag feeder false

/-- The close of the open seal (R552), after which the unit is idle. -/
def State.seaCloseNow (s : State) (u tag feeder : Nat) : State :=
  let c := s.seaCrc u
  let v := c.out (if s.rb (rSeaStat u) fSeaStatOpen then (s.sea u).crc else c.init)
  (s.seaCloseVal u tag feeder v).seaIdle u

/-- The BUSYFEED kind (R551, R565): the detail is the code of the feeder that holds the unit. -/
def State.busyFeed (s : State) (u : Nat) : State :=
  s.flt ⟨.sea, u, 2, none, 0, s.rf (rSeaStat u) fSeaStatHolder, 0, false⟩

/-- Register feeding (R550, R551): `n` bytes, least significant first. -/
def State.seaRegFeed (s : State) (u n v : Nat) : State :=
  if s.rb (rSeaStat u) fSeaStatHeld then s.busyFeed u else s.seaFeed u (leBytes n v)

/-- A write of GO = 1 to SEA.CLOSE (R551, R552): during a scan the close waits for the scan's end. -/
def State.seaCloseReg (s : State) (u : Nat) : State :=
  match (s.sea u).scan with
  | some (a, n, _) => s.setSea u { s.sea u with scan := some (a, n, true) }
  | none => if s.rb (rSeaStat u) fSeaStatHeld then s.busyFeed u else s.seaCloseNow u 0 0

/-- A non-zero write to SEA.SCANLEN starts a scan (R550), which holds the unit while it runs. -/
def State.scanStart (s : State) (u len : Nat) (closeAfter : Bool) : State :=
  if s.rb (rSeaStat u) fSeaStatHeld then s.busyFeed u
  else if len = 0 then s
  else
    let s := s.setSea u { s.sea u with scan := some (s.rf (rSeaScanaddr u) fSeaScanaddrAddr, len, closeAfter) }
    (s.setRf (rSeaStat u) fSeaStatScanning 1).setRf (rSeaStat u) fSeaStatHeld 1

/-- The scan feeds `n` bytes from `a`; a refused or uncorrectable byte stops it and discards the seal (R552). -/
def State.scanFeed (s : State) (u : Nat) : Nat → Nat → State × Bool
  | _, 0 => (s, true)
  | a, n + 1 =>
    match s.loadByte Paths.plain (.win (s.seaWorld u) true) .rd a with
    | .ok b => State.scanFeed (s.seaFeed u [b]) u (a + 1) n
    | .error e =>
      let s := match e with | .ecc => s.eccNote a | _ => s
      ((s.seaIdle u).scanFault u a, false)

/-- SCAN_END (R552): once their memory is up (R680) the bytes are fed; the seal closes when asked for, else the unit stays open. -/
def State.scanEnd (s : State) (u : Nat) : State :=
  match (s.sea u).scan with
  | none => s
  | some (a, n, closeAfter) =>
    if !s.spanReady a n then s
    else
    let (s, ok) := s.scanFeed u a n
    if !ok then s
    else if closeAfter then s.seaCloseNow u 0 0
    else
      let s := s.setSea u { s.sea u with scan := none }
      (s.setRf (rSeaStat u) fSeaStatScanning 0).setRf (rSeaStat u) fSeaStatHeld 0

/-- What a write of SEA.CTL from `old` does beyond storing it: a change of POLY loads INIT (R549). -/
def State.seaCtlPost (s : State) (u : Nat) (old : Word) : State :=
  let p := s.rf (rSeaCtl u) fSeaCtlPoly
  if old.fld 0 2 ≠ p then s.setReg (rSeaInit u) (BitVec.ofNat 64 (sealPoly p).init) else s

end Sys2Proof.Machine
end

