-- ==== Sys2Proof/Machine/EngElem.lean ====
section
/-!
DEFINITION. One element of a running order against the state (03, 05, 07): reading the operand streams of a pass, the
effect of the element on the pass and on the output streams, faults and waits (R100 to R153, R213, R214, R222).
-/
namespace Sys2Proof.Machine

/-! ### Extents -/

/-- Does an index drive the accesses of the slot (R134, R143)? -/
def Op.indexed (op : Op) (slot : Nat) : Bool :=
  match op, slot with
  | .gather, 0 | .scatter, 6 | .scatteradd, 6 | .spmv, 2 => true
  | _, _ => false

/-- The most elements that an order of `n` elements reads or writes in a slot. -/
def Op.slotCount (op : Op) (n slot : Nat) : Nat :=
  match op, slot with
  | .fill, 0 | .linrec, 2 => 1
  | .arcread, 0 => 16
  | .arcappend, 6 => 8
  | .spmv, 1 => n + 1
  | .sum, 6 | .minr, 6 | .maxr, 6 | .andr, 6 | .orr, 6 | .xorr, 6 | .dot, 6 => 1
  | .mulwide, 7 => n
  | .scene, _ => n
  | _, 7 => 1
  | _, _ => n

/-- Is the order segmented (R125)? -/
def Op.segmented : Op → Bool
  | .segsum | .segmin | .segmax | .segdot | .segpsum => true
  | _ => false

/-- Does every element of the slot's stream get written, from the first to the last? COPY and FILL write those of their
enabled elements. -/
def Op.fills : Op → Bool
  | .compress | .scene | .copy | .fill | .segsum | .segmin | .segmax | .segdot => false
  | _ => true

/-- The extent of a memory stream of `m` elements of type `t`: first byte and the byte after the last. -/
def Strm.extent (x : Strm) (t : ETy) (size m : Nat) : Option (Int × Int) :=
  match x.place with
  | .mem a =>
    if m = 0 then none
    else if t.isBit then some ((a : Int), (a : Int) + ((m + 7) / 8 : Nat))
    else
      let e : Int := (a : Int) + ((m - 1 : Nat) : Int) * (x.stride.getD 1) * (size : Int)
      some (min (a : Int) e, max (a : Int) e + (size : Int))
  | _ => none

/-- Type and size in bytes of an element of a slot: index elements have 4 or 8 bytes (R72). -/
def Entry.slotTy (x : Entry) (slot : Nat) : ETy :=
  slotType x.ord.op x.ord.steps (ETy.ofCode x.ord.ty) (ETy.ofCode x.ord.tty) slot

/-- The most elements of a slot that the order reads or writes; A and I of SPMV hold as many as its last row pointer says,
I and X of a segmented order as many as it has segments (R125, R138, R142; log entry 31). -/
def Entry.slotCount (x : Entry) (slot : Nat) : Nat :=
  let byData := match x.ord.op with
    | .spmv => slot == 0 || slot == 4
    | .segpsum => slot == 4
    | o => o.segmented && (slot == 4 || slot == 6)
  if byData then x.nz else x.ord.op.slotCount x.n slot

/-- Does the order write every element of its output streams, from the first to the last (R101, R140)? -/
def Entry.fills (x : Entry) : Bool :=
  x.ord.op.fills || ((x.ord.op == .copy || x.ord.op == .fill) && !x.ord.mask.testBit 5)

/-- The fixed extents of the streams whose slots satisfy `p` (R142). -/
def Entry.extents (x : Entry) (p : Nat → Bool) : List (Int × Int) :=
  (x.strms.filter fun y => p y.slot && !x.ord.op.indexed y.slot).filterMap fun y =>
    let t := if y.slot = 4 then ETy.int false (if y.wide then 64 else 32) else x.slotTy y.slot
    y.extent t t.bytes (x.slotCount y.slot)

/-- Does an output extent meet an input extent (R142)? -/
def Entry.overlaps (x : Entry) : Bool :=
  (x.extents fun sl => decide (sl ≥ 6)).any fun o =>
    (x.extents fun sl => decide (sl < 6)).any fun i => decide (o.1 < i.2 ∧ i.1 < o.2)

/-- The reprised orders that hold back their writes (R144). -/
def Entry.holds (x : Entry) : Bool := x.ord.op == .scatteradd || x.overlaps

/-! ### One pass -/

/-- What a pass sees: the state, the head order, and which pass it is. -/
structure Env where
  s : State
  w : World
  ent : Entry
  rep : Bool
  deriving DecidableEq, Repr

def Env.op (v : Env) : Op := v.ent.ord.op
def Env.ctx (v : Env) : ArCtx := v.ent.ord.ctx v.ent.dflt
def Env.view (v : Env) : View := .win v.w v.ent.sup
def Env.has (v : Env) (slot : Nat) : Bool := v.ent.ord.mask.testBit slot
def Env.strm (v : Env) (slot : Nat) : Option Strm := v.ent.strms.find? fun x => x.slot == slot

/-- The scale exponent that a reprise block takes at its start (R285, R313, R330). -/
def State.kscale (s : State) : Int := toSigned 6 (s.rf rRepTctl fRepTctlKscale)

/-- The transform of the pass: none in the performance and where the reprise goes on plainly, else the scale exponent of
the reprise block (R284, R290, R313). -/
def Env.xf (v : Env) (plain : Bool) : Option Int :=
  if v.rep && !plain then some (v.ent.run.kscale.getD v.s.kscale) else none

/-- Moved data: a reprise complements them in transit and back (class V of R105). -/
def Env.carried (v : Env) (t : ETy) (x : Nat) : Nat := if v.rep then inTransit t x else x

/-- The element type of a slot (R61). -/
def Env.ty (v : Env) (slot : Nat) : ETy :=
  slotType v.op v.ent.ord.steps (ETy.ofCode v.ent.ord.ty) (ETy.ofCode v.ent.ord.tty) slot

/-- What reading one element gives: its value with the relay bytes that it retires, a wait for relay data (R222), or a
fault with its kind and address (R213). -/
inductive Rd where
  | ok (v : Nat) (rel : List (Nat × Nat))
  | wait
  | flt (kind addr : Nat)
  deriving DecidableEq, Repr

/-- One byte as the pass reads it: a held result of its own first (R144), else memory through the windows, as it then stands
(R164; DESIGN CHOICE, log entry 190). -/
def Env.byte (v : Env) (a : Nat) : Except MErr Byte :=
  let held := if v.rep then v.ent.run.heldR else v.ent.run.heldP
  match v.s.loadByte Paths.engine v.view .rd a with
  | .error e => .error e
  | .ok b => .ok ((Tab.get (fun _ => none) held a).getD b)

/-- `n` bytes from `a`; a fault names the byte that faults. -/
def Env.bytes (v : Env) (a : Nat) : Nat → Except (Nat × Nat) (List Byte)
  | 0 => .ok []
  | n + 1 =>
    match v.byte a with
    | .error e => .error (e.code, a)
    | .ok b =>
      match v.bytes (a + 1) n with
      | .error e => .error e
      | .ok bs => .ok (b :: bs)

/-- A value of `n` bytes at an address; an address outside the 48-bit space faults with `kind`. -/
def Env.memVal (v : Env) (a : Int) (n kind : Nat) : Rd :=
  if a < 0 ∨ a ≥ 2 ^ 48 then .flt kind (a % 2 ^ 48).toNat
  else
    match v.bytes a.toNat n with
    | .ok bs => .ok (ofLeBytes bs) []
    | .error (k, x) => .flt k x

/-- The bytes that a relay holds for the pass. -/
def Env.relayAvail (v : Env) (r : Nat) : Nat :=
  let x := v.s.relay r
  if v.rep then x.availR else x.availP

/-- Where the pass stands in relay `r`. -/
def Env.relayPos (v : Env) (r : Nat) : Nat := let x := v.s.relay r; if v.rep then x.posR else x.posP

/-- The first of `n` bytes of relay `r` that cannot be read: fault kind and address (R213, R356, R360). -/
def Env.relayFault (v : Env) (r n : Nat) : Option (Nat × Nat) :=
  (List.range n).findSome? fun i =>
    match v.s.relayByte v.view r v.rep (v.relayPos r + i) with
    | some (.error e) => some (e.code, (v.s.relayAddr r v.rep (v.relayPos r + i)).getD 0)
    | _ => none

/-- `n` bytes of relay `r` from the retire pointer of the pass. -/
def Env.relayBytes (v : Env) (r n : Nat) : Rd :=
  if v.relayAvail r < n then .wait
  else match v.relayFault r n with
    | some (k, a) => .flt k a
    | none =>
      .ok (ofLeBytes ((List.range n).map fun i =>
        match v.s.relayByte v.view r v.rep (v.relayPos r + i) with | some (.ok b) => b | _ => 0)) [(r, n)]

/-- Bytes of an element of a slot in memory or in a relay; a BIT element has one byte, shared by eight. -/
def Env.size (v : Env) (slot : Nat) : Nat :=
  if slot = 4 then (match v.strm 4 with | some x => if x.wide then 8 else 4 | none => 4) else (v.ty slot).bytes

/-- Is the slot a stream of BIT elements? -/
def Env.bits (v : Env) (slot : Nat) : Bool := slot != 4 && (v.ty slot).isBit

/-- Element `i` of a relay stream passes without being read, and no access of it faults (R100, R101; log entries 11 and
142). -/
def Env.take (v : Env) (slot i : Nat) (last : Bool) : Rd :=
  match v.strm slot with
  | some ⟨_, .relay r, _, _⟩ =>
    let n := if v.bits slot then 1 else v.size slot
    if v.relayAvail r < n then .wait
    else .ok 0 (if v.bits slot && !(i % 8 == 7 || last) then [] else [(r, n)])
  | _ => .ok 0 []

/-- Element `i` of a data, index or control-bit stream (R66, R75, R100); `last` says that no later element of a relay
of BIT elements is read, and then its last byte is retired though it is used in part. The A of EXPAND, whose last element
depends on the control bits, leaves such a byte in the relay (DESIGN CHOICE, log entry 142). -/
def Env.elem (v : Env) (slot i : Nat) (last : Bool) : Rd :=
  match v.strm slot with
  | none => .ok 0 []
  | some x =>
    let n := v.size slot
    let bit := v.bits slot
    let inv (b : Nat) : Nat := if slot = 5 ∧ x.wide then 1 - b % 2 else b % 2
    match x.place with
    | .imm c => .ok (if bit then inv c else c) []
    | .mem a =>
      if bit then
        match v.memVal ((a : Int) + (i / 8 : Nat)) 1 1 with
        | .ok b rel => .ok (inv (b / 2 ^ (i % 8))) rel
        | e => e
      else v.memVal ((a : Int) + (i : Int) * (x.stride.getD 1) * n) n 1
    | .relay r =>
      if bit then
        match v.relayBytes r 1 with
        | .ok b _ => .ok (inv (b / 2 ^ (i % 8))) (if i % 8 = 7 ∨ last then [(r, 1)] else [])
        | e => e
      else v.relayBytes r n

/-- The indexed address of a slot: stream address plus idx · stride · size (R134). -/
def Env.indexed (v : Env) (slot idx : Nat) : Int :=
  match v.strm slot, v.strm 4 with
  | some x, some ix =>
    let j : Int := if ix.wide then toSigned 64 idx else ((idx % 2 ^ 32 : Nat) : Int)
    match x.place with
    | .mem a => (a : Int) + j * (x.stride.getD 1) * ((v.ty slot).bytes : Nat)
    | _ => 0
  | _, _ => 0

/-- Do the `n` bytes at an indexed address meet a stream of the order on the other side, an output for a read and an input
for a write (R143; log entry 172)? -/
def Env.crosses (v : Env) (write : Bool) (a : Int) (n : Nat) : Bool :=
  (v.ent.extents fun sl => decide (sl ≥ 6) != write).any fun e => decide (a < e.2 ∧ e.1 < a + (n : Int))

/-- The value of element `i` at an indexed address, open where the access meets another stream of the order (R143). -/
def Env.settled (v : Env) (write : Bool) (slot i : Nat) (a : Int) (x : Nat) : Nat :=
  let t := v.ty slot
  if v.crosses write a t.bytes then Config.crossedValue v.ent.seq slot i % 2 ^ t.w else x

/-- A value written by an element: slot, output index, address where it is indexed, the value or none where the
element leaves its place unwritten. -/
structure Out where
  slot : Nat
  idx : Nat
  addr : Option Nat
  val : Option Nat
  deriving DecidableEq, Repr

/-- What one element, or one unit of work without an element, does. -/
structure Eff where
  pass : Pass
  flags : Flags
  outs : List Out
  rel : List (Nat × Nat)
  /-- the reprise of the element is plain (R289) -/
  plain : Bool
  /-- the unit retires an element -/
  counts : Bool
  deriving DecidableEq, Repr

/-- The outcome of one unit. -/
inductive ERes where
  | ok (e : Eff)
  | wait
  | flt (slot kind addr : Nat)
  | stop (cause addr : Nat)
  deriving DecidableEq, Repr

/-- Readings of several slots: all values, or a wait, or the fault of the lowest slot (R214). -/
inductive RdAll where
  | ok (vs : List Nat) (rel : List (Nat × Nat))
  | wait
  | flt (slot kind addr : Nat)
  deriving DecidableEq, Repr

/-- Readings in slot order: a wait holds the element back, else the first fault counts (R214, R222). -/
def readAll : List (Nat × Rd) → RdAll
  | [] => .ok [] []
  | (slot, r) :: rest =>
    match r, readAll rest with
    | .wait, _ => .wait
    | _, .wait => .wait
    | .flt k a, _ => .flt slot k a
    | .ok _ _, .flt sl k a => .flt sl k a
    | .ok v rel, .ok vs rels => .ok (v :: vs) (rel ++ rels)

def Env.last (v : Env) (i : Nat) : Bool := decide (i + 1 = v.ent.n)

/-- The element of a slot with its number, for `readAll`. -/
def Env.rd (v : Env) (slot i : Nat) : Nat × Rd := (slot, v.elem slot i (v.last i))

/-- An input slot whose element is passed over, for `readAll`. -/
def Env.pass (v : Env) (slot i : Nat) : Nat × Rd := (slot, v.take slot i (v.last i))

/-- The control bit of element `i`: 1 without a K slot (R101). -/
def Env.kbit (v : Env) (i : Nat) : Rd := if v.has 5 then v.elem 5 i (v.last i) else .ok 1 []

def Env.out (v : Env) (slot idx : Nat) (x : Option Nat) : List Out := if v.has slot then [⟨slot, idx, none, x⟩] else []

/-- Lift the readings of an element to its outcome. -/
def RdAll.lift (r : RdAll) (f : List Nat → List (Nat × Nat) → ERes) : ERes :=
  match r with
  | .ok vs rel => f vs rel
  | .wait => .wait
  | .flt sl k a => .flt sl k a

def Pass.step (p : Pass) : Pass := { p with next := p.next + 1 }

def nthD (vs : List Nat) (i : Nat) : Nat := (vs[i]?).getD 0

/-- Element-wise orders, compares included (R101, R109 to R121, R151). -/
def Env.mapElem (v : Env) (p : Pass) : ERes :=
  let i := p.next
  let c := v.ctx
  let k := v.kbit i
  let en := match k with | .ok b _ => b % 2 == 1 | _ => false
  let cmp := match v.op with | .cmp _ => true | _ => false
  let get (slot : Nat) : Nat × Rd :=
    if (slot == 0 && !cmp) || en then v.rd slot i else v.pass slot i
  (readAll [get 0, get 1, get 2, (5, k)]).lift fun vs rel =>
    let a := nthD vs 0
    let b := nthD vs 1
    let d := nthD vs 2
    if en then
      let (r, out) := opX v.op c (v.xf false) a b d
      let y := if v.op == .mulwide then v.out 7 i (some (wideMul c.t a b).2) else []
      .ok ⟨{ p.step with ones := p.ones + (if cmp then r.1 else 0) }, r.2, v.out 6 i (some r.1) ++ y, rel, out, true⟩
    else
      let x := if cmp then 0 else if v.ty 6 = c.t then a else zeroOf (v.ty 6)
      let y := if v.op == .mulwide then v.out 7 i (some 0) else []
      .ok ⟨p.step, 0, v.out 6 i (some x) ++ y, rel, false, true⟩

/-- SELECT (R115): A and B are read for every element. -/
def Env.selectElem (v : Env) (p : Pass) : ERes :=
  let i := p.next
  (readAll [v.rd 0 i, v.rd 1 i, (5, v.kbit i)]).lift fun vs rel =>
    .ok ⟨p.step, 0, v.out 6 i (some (v.carried v.ctx.t (if nthD vs 2 % 2 = 1 then nthD vs 0 else nthD vs 1))), rel, false,
      true⟩

/-- COPY and FILL (R101, R140): a disabled element leaves its destination unwritten. FILL reads the first element of a
memory A with its first enabled element (`aux` is 1 from then on, `lo` keeps the value). -/
def Env.copyElem (v : Env) (p : Pass) : ERes :=
  let i := p.next
  let fill := v.op == .fill
  let k := v.kbit i
  let en := match k with | .ok b _ => b % 2 == 1 | _ => false
  let a : Nat × Rd :=
    if fill then (if !en then (0, .ok 0 []) else match p.ptr with | some x => (0, .ok x []) | none => v.rd 0 0)
    else if en then v.rd 0 i else v.pass 0 i
  (readAll [a, (5, k)]).lift fun vs rel =>
    let x := nthD vs 0
    .ok ⟨{ p.step with ptr := if fill && en then some x else p.ptr }, 0,
      v.out 6 i (if en then some (v.carried (v.ty 6) x) else none), rel, false, true⟩

/-- The second factor of an order that multiplies (R122). -/
def Env.factor (v : Env) (i : Nat) (en : Bool) : Nat × Rd :=
  if v.op.isDot then (if en then v.rd 1 i else v.pass 1 i) else (1, .ok 0 [])

/-- Reductions (R122): the element enters part[i mod 32]. -/
def Env.reduceElem (v : Env) (p : Pass) : ERes :=
  let i := p.next
  let k := v.kbit i
  let en := match k with | .ok b _ => b % 2 == 1 | _ => false
  let a := if en then v.rd 0 i else v.pass 0 i
  (readAll [a, v.factor i en, (5, k)]).lift fun vs rel =>
    if en then
      let (parts, fl, out) := partAdd v.op v.ctx (v.xf p.plain) p.parts (i % 32) (nthD vs 0) (nthD vs 1)
      let plain := p.plain || out
      .ok ⟨{ p.step with parts := parts, plain := plain }, fl, [], rel, plain, true⟩
    else .ok ⟨p.step, 0, [], rel, p.plain, true⟩

/-- The length of the segment that an element opens (R125). Where it cannot be read, the fault is that of the element, whose
lower slots come first (R214). -/
def Env.segLength (v : Env) (p : Pass) : RdAll :=
  let ix := v.elem 4 p.segs false
  match ix with
  | .flt _ _ =>
    if v.ent.run.skips.contains p.next then readAll [(4, ix)]
    else readAll [v.rd 0 p.next, v.factor p.next true, (4, ix)]
  | _ => readAll [(4, ix)]

/-- The segment that a segmented order opens: its next length (R125). An empty segment writes the empty result, unless
SKIP has passed over it (R229; log entry 143). -/
def Env.openSeg (v : Env) (p : Pass) : ERes :=
  (v.segLength p).lift fun vs rel =>
    let len := nthD vs 0
    let q := { p with segs := p.segs + 1 }
    if len = 0 then
      let outs := if v.op == .segpsum then []
        else v.out 6 p.out (if v.ent.run.skipSegs.contains p.out then none else some (emptyResult v.op v.ctx.t))
      .ok ⟨{ q with out := p.out + 1 }, 0, outs, rel, false, false⟩
    else
      let e := p.next + len
      .ok ⟨{ q with segEnd := some (min e v.ent.n), cut := p.cut || decide (v.ent.n < e), aux := p.next,
                    parts := noParts, grp := [], plain := false }, 0, [], rel, false, false⟩

/-- The close of a segment whose last element is done (R125). -/
def Pass.closeSeg (p : Pass) : Pass :=
  { p with segEnd := none, out := p.out + 1, parts := noParts, grp := [], plain := false, aux := p.next }

/-- SEGSUM, SEGMIN, SEGMAX, SEGDOT (R125). -/
def Env.segElem (v : Env) (p : Pass) : ERes :=
  match p.segEnd with
  | none => v.openSeg p
  | some e =>
    let i := p.next
    (readAll [v.rd 0 i, v.factor i true]).lift fun vs rel =>
      let (parts, fl, out) := partAdd v.op v.ctx (v.xf p.plain) p.parts ((i - p.aux) % 32) (nthD vs 0) (nthD vs 1)
      let q := { p.step with parts := parts, plain := p.plain || out }
      if i + 1 < e then .ok ⟨q, fl, [], rel, q.plain, true⟩
      else
        let (r, _) := partsResult v.op v.ctx (v.xf q.plain) parts
        .ok ⟨q.closeSeg, fl ||| r.2, v.out 6 p.out (some r.1), rel, q.plain, true⟩

/-- The carry of prefix sums, and xprev of LINREC: part[0] (R218). -/
def Pass.carry (p : Pass) : Option Nat := (p.parts[0]?).join

/-- The inclusive prefix of the last element of a group begun, delivered, with its flags and whether some value is out of
transform range (R129, R254, R265 to R267, R290). -/
def Env.inclusive (v : Env) (plain : Bool) (carry : Option Nat) (grp : List (Option (Nat × Nat))) :
    Option Nat × Flags × Bool :=
  let c := v.ctx
  let (sv, fl1, o1) := groupPrefix c (v.xf plain) (grp.map fun g => g.map (·.1))
  let (iv, fl2, o2) := combine .sum c (v.xf plain) carry sv
  match iv with
  | some x => let r := deliverVal c.t c.ftz x; (some r.1, fl1 ||| fl2 ||| r.2, o1 || o2)
  | none => (none, fl1 ||| fl2, o1 || o2)

/-- One element of a prefix sum into its group (R129): its inclusive value. -/
def Env.prefixNext (v : Env) (p : Pass) (x : Option Nat) : Option Nat × Flags × Bool × Pass :=
  let grp := p.grp ++ [x.map fun a => (a, 0)]
  let enters (y : Option Nat) : Bool := match y with | some a => entersOut .psum v.ctx (v.xf false) a | none => false
  let (iv, fl, out) := v.inclusive p.plain p.carry grp
  let o := p.plain || out || enters x
  let q := { p.step with grp := grp, plain := o }
  (iv, fl, o, if grp.length = 32 then { q with grp := [], parts := p.parts.set 0 iv, plain := enters iv } else q)

/-- PSUM, PSUMX and SEGPSUM (R129, R130). -/
def Env.prefixElem (v : Env) (p : Pass) : ERes :=
  let i := p.next
  let seg := v.op == .segpsum
  if seg && p.segEnd.isNone then v.openSeg p
  else
    (readAll [v.rd 0 i]).lift fun vs rel =>
      let (iv, fl, o, q) := v.prefixNext p (some (nthD vs 0))
      let before : Option Nat := if p.grp = [] then p.carry else (v.inclusive p.plain p.carry p.grp).1
      let x := if v.op == .psumx then before.getD (zeroOf v.ctx.t) else iv.getD (zeroOf v.ctx.t)
      let q := if seg && p.segEnd == some (i + 1) then q.closeSeg else q
      .ok ⟨q, fl, v.out 6 i (some x), rel, o, true⟩

/-- The value of x(i) of LINREC from the group begun (R128); its NaN rule takes p, q and x(i − 1) as A, B and C (R268). -/
def Env.linNext (v : Env) (p : Pass) (prev a b : Nat) : Nat × Flags × Bool × Pass :=
  let grp := p.grp ++ [some (a, b)]
  let c := v.ctx
  let xf := v.xf p.plain
  let (pi, qi, fl, o) := linPrefix c xf (grp.map fun g => g.getD (oneOf c.t, zeroOf c.t))
  let (r, o2) := fusedX .acb true false false c xf pi prev qi
  let o := p.plain || o || o2
  let q := { p.step with grp := grp, plain := o, parts := p.parts.set 0 (some prev) }
  (r.1, fl ||| r.2, o, if grp.length = 32 then
      { q with grp := [], parts := p.parts.set 0 (some r.1), plain := entersOut .linrec c (v.xf false) r.1 }
    else q)

/-- LINREC (R128): xprev stands in part[0]; the starting value is the first element of C. -/
def Env.linElem (v : Env) (p : Pass) : ERes :=
  let i := p.next
  let c0 := match p.carry with | some x => ((2, Rd.ok x []) : Nat × Rd) | none => (2, v.elem 2 0 true)
  (readAll [v.rd 0 i, v.rd 1 i, c0]).lift fun vs rel =>
    let (x, fl, o, q) := v.linNext p (nthD vs 2) (nthD vs 0) (nthD vs 1)
    .ok ⟨q, fl, v.out 6 i (some x), rel, o, true⟩

/-- COMPRESS (R132). -/
def Env.compressElem (v : Env) (p : Pass) : ERes :=
  let i := p.next
  let k := v.kbit i
  let en := match k with | .ok b _ => b % 2 == 1 | _ => false
  (readAll [if en then v.rd 0 i else v.pass 0 i, (5, k)]).lift fun vs rel =>
    if en then
      .ok ⟨{ p.step with out := p.out + 1 }, 0, v.out 6 p.out (some (v.carried (v.ty 6) (nthD vs 0))), rel, false, true⟩
    else .ok ⟨p.step, 0, [], rel, false, true⟩

/-- EXPAND (R133): A is read for the enabled elements alone. -/
def Env.expandElem (v : Env) (p : Pass) : ERes :=
  let i := p.next
  let k := v.kbit i
  let en := match k with | .ok b _ => b % 2 == 1 | _ => false
  (readAll [if en then (0, v.elem 0 p.aux false) else (0, .ok 0 []), (5, k)]).lift fun vs rel =>
    if en then
      .ok ⟨{ p.step with aux := p.aux + 1 }, 0, v.out 6 i (some (v.carried (v.ty 6) (nthD vs 0))), rel, false, true⟩
    else .ok ⟨p.step, 0, v.out 6 i (some (zeroOf (v.ty 6))), rel, false, true⟩

/-- The value that element `i` reads at an indexed address of a slot (R134, R143). -/
def Env.indexedVal (v : Env) (slot i idx : Nat) : Rd :=
  let a := v.indexed slot idx
  match v.memVal a (v.ty slot).bytes MErr.range.code with
  | .ok x rel => .ok (v.settled false slot i a x) rel
  | e => e

/-- GATHER (R135). -/
def Env.gatherElem (v : Env) (p : Pass) : ERes :=
  let i := p.next
  let k := v.kbit i
  let ix := v.elem 4 i false
  let en := match k with | .ok b _ => b % 2 == 1 | _ => false
  let a : Rd := match ix with | .ok j _ => if en then v.indexedVal 0 i j else .ok (zeroOf (v.ty 6)) [] | _ => .ok 0 []
  (readAll [(0, a), (4, ix), (5, k)]).lift fun vs rel =>
    .ok ⟨p.step, 0, v.out 6 i (some (v.carried (v.ty 6) (nthD vs 0))), rel, false, true⟩

/-- SCATTER and SCATTERADD (R135): the target address, and the value read there for SCATTERADD. -/
def Env.scatterElem (v : Env) (p : Pass) : ERes :=
  let i := p.next
  let k := v.kbit i
  let ix := v.elem 4 i false
  let en := match k with | .ok b _ => b % 2 == 1 | _ => false
  let addS := v.op == .scatteradd
  let tgt : Int := match ix with | .ok j _ => v.indexed 6 j | _ => 0
  let old : Rd := if en && addS then v.memVal tgt (v.ty 6).bytes MErr.range.code
    else if en ∧ (tgt < 0 ∨ tgt ≥ 2 ^ 48) then .flt MErr.range.code (tgt % 2 ^ 48).toNat else .ok 0 []
  let old : Rd := match ix with | .ok _ _ => old | _ => .ok 0 []
  (readAll [if en then v.rd 0 i else v.pass 0 i, (4, ix), (5, k), (6, old)]).lift fun vs rel =>
    if en then
      let a := if addS then nthD vs 0 else v.settled true 6 i tgt (nthD vs 0)
      let m := if addS then v.settled true 6 i tgt (nthD vs 3) else nthD vs 3
      let (r, o) : Res × Bool :=
        if addS then opX .scatteradd v.ctx (v.xf false) m a 0 else ((v.carried (v.ty 6) a, 0), false)
      .ok ⟨p.step, r.2, [⟨6, i, some tgt.toNat, some r.1⟩], rel, o, true⟩
    else .ok ⟨p.step, 0, [⟨6, i, none, none⟩], rel, false, true⟩

/-- The row pointers of row `r` (R138): B holds n + 1 of them; from a relay, the one read last is kept. -/
def Env.rowPtrs (v : Env) (p : Pass) (r : Nat) : RdAll :=
  match p.ptr with
  | some lo => match readAll [(1, v.elem 1 (r + 1) false)] with
    | .ok vs rel => .ok (lo :: vs) rel
    | e => e
  | none =>
    match v.strm 1 with
    | some ⟨_, .relay x, _, _⟩ =>
      (match v.relayBytes x 16 with
       | .ok b rel => .ok [b % 2 ^ 64, b / 2 ^ 64] rel
       | .wait => .wait
       | .flt k a => .flt 1 k a)
    | _ => readAll [v.rd 1 r, (1, v.elem 1 (r + 1) false)]

/-- Does B of SPMV come from a relay? -/
def Env.relayB (v : Env) : Bool := match v.strm 1 with | some ⟨_, .relay _, _, _⟩ => true | _ => false

/-- The row of SPMV is done, or passed over: its pointer and partial values go, and AUX names the next row's first
non-zero (R138, R219). -/
def Env.endRow (v : Env) (p : Pass) (hi : Nat) : Pass :=
  { p.step with row := none, mid := false, aux := hi, parts := noParts, plain := false, flg := 0,
                ptr := if v.relayB then some hi else none }

/-- The result of a row and its close (R138); the flags of the whole row count with it (R205, R210). -/
def Env.closeRow (v : Env) (p : Pass) (hi : Nat) (parts : List (Option Nat)) (fl : Flags) (rel : List (Nat × Nat))
    (plain : Bool) : ERes :=
  let (res, out) := partsResult .spmv v.ctx (v.xf plain) parts
  .ok ⟨v.endRow p hi, p.flg ||| fl ||| res.2, v.out 6 p.next (some res.1), rel, plain || out, true⟩

/-- SPMV (R138): open the row, take one non-zero, or close the row. -/
def Env.spmvElem (v : Env) (p : Pass) : ERes :=
  match p.row with
  | none =>
    (v.rowPtrs p p.next).lift fun vs rel =>
      let lo := nthD vs 0
      let hi := nthD vs 1
      if hi < lo then .stop 0xA 0
      else if hi = lo then v.closeRow p hi p.parts 0 rel p.plain
      else .ok ⟨{ p with row := some (lo, hi), aux := if p.mid then p.aux else lo }, 0, [], rel, false, false⟩
  | some (lo, hi) =>
    let j := p.aux
    if hi ≤ j then v.closeRow p hi p.parts 0 [] p.plain
    else
      let ix := v.elem 4 j false
      let cv : Rd := match ix with | .ok t _ => v.indexedVal 2 j t | _ => .ok 0 []
      (readAll [(0, v.elem 0 j false), (2, cv), (4, ix)]).lift fun vs rel =>
        let (parts, fl, out) := partAdd .spmv v.ctx (v.xf p.plain) p.parts ((j - lo) % 32) (nthD vs 0) (nthD vs 1)
        let plain := p.plain || out
        if j + 1 = hi then v.closeRow p hi parts fl rel plain
        else .ok ⟨{ p with parts := parts, aux := j + 1, mid := true, plain := plain, flg := p.flg ||| fl }, 0, [], rel,
          false, false⟩

/-- The slots that a scene reads, with their values in slot order (R82, R152). -/
def Env.sceneElem (v : Env) (p : Pass) : ERes :=
  let i := p.next
  let slots := [0, 1, 2, 3, 5].filter v.has
  (readAll (slots.map fun sl => v.rd sl i)).lift fun vs rel =>
    let src (c : Nat) : Nat :=
      let slot := if c = 5 then 5 else c - 1
      match (slots.zip vs).find? fun x => x.1 == slot with | some x => x.2 | none => 0
    let steps := v.ent.ord.steps
    let (rs, fl, out) := sceneVals v.ctx (v.xf false) src steps
    let val (c : Nat) : Nat := if c ≥ 8 then nthD rs (c - 8) else src c
    let outs := (steps.zip rs).foldl (fun (os : List Out) x =>
      match x.1.op with
      | .sum | .minr | .maxr | .andr | .orr | .xorr | .dot | .compress => os
      | .cmp _ => os ++ (if x.1.toX then v.out 6 i (some x.2) else [])
      | _ => os ++ (if x.1.toX then v.out 6 i (some x.2) else []) ++ (if x.1.toY then v.out 7 i (some x.2) else [])) []
    let ones := (steps.zip rs).foldl (fun n x => match x.1.op with
      | .cmp _ => if x.1.toY then n + x.2 else n | _ => n) p.ones
    let q := { p.step with ones := ones }
    match steps.getLast? with
    | none => .ok ⟨q, fl, outs, rel, out, true⟩
    | some d =>
      match d.op with
      | .compress =>
        if val d.s2 % 2 = 1 then
          .ok ⟨{ q with out := p.out + 1 }, fl,
            outs ++ (if d.toX then [⟨6, p.out, none, some (nthD rs (steps.length - 1))⟩] else []), rel, out, true⟩
        else .ok ⟨q, fl, outs, rel, out, true⟩
      | .sum | .minr | .maxr | .andr | .orr | .xorr | .dot =>
        let cc : ArCtx := if d.bit then { v.ctx with t := .bit } else v.ctx
        let (parts, fl2, o2) := partAdd d.op cc (v.xf (p.plain || out)) p.parts (i % 32) (val d.s1) (val d.s2)
        .ok ⟨{ q with parts := parts, plain := p.plain || o2 }, fl ||| fl2, outs, rel, p.plain || out || o2, true⟩
      | _ => .ok ⟨q, fl, outs, rel, out, true⟩

/-- Is the record of an ARCAPPEND open and not void, and does the archive accept payload (R511, R512, R526)? -/
def Env.recordOpen (v : Env) : Bool :=
  match v.ent.run.arcRec with
  | some acc => v.s.arcAccepts && (match (v.s.log v.w.idx).rec? acc with | some r => !r.void | none => false)
  | none => false

/-- Has the pass delivered no byte yet: SKIP has passed over every element so far (R229, R514)? -/
def Env.undelivered (v : Env) (p : Pass) : Bool :=
  decide (p.next ≤ ((v.ent.run.skips.eraseDups).filter fun j => decide (j < p.next)).length)

/-- ARCAPPEND reads one byte of A for its open record; ARCREAD asks for one byte of the payload, its faulting address
being the payload offset (R516); SEALFEED reads one byte. DESIGN CHOICE (log entry 189): the request at A is read for each byte. -/
def Env.archiveElem (v : Env) (p : Pass) : ERes :=
  let i := p.next
  match v.op with
  | .arcread =>
    let a : Nat := match v.strm 0 with | some ⟨_, .mem a, _, _⟩ => a | _ => 0
    (readAll [(0, v.memVal (a : Int) 16 1)]).lift fun vs rel =>
      let mark := nthD vs 0 % 2 ^ 64
      let off := nthD vs 0 / 2 ^ 64
      match v.s.arcByte v.ent.run.belows v.w.idx mark off i v.ent.n (v.undelivered p) with
      | .byte b => .ok ⟨p.step, 0, v.out 6 i (some b.toNat), rel, false, true⟩
      | .wait => .wait
      | .stop c => .stop c ((off + i) % 2 ^ 48)
  | _ =>
    if v.op == .arcappend && !v.recordOpen then .wait
    else
      (readAll [v.rd 0 i]).lift fun vs rel =>
        .ok ⟨{ p.step with ptr := some (nthD vs 0) }, 0, [], rel, false, true⟩

/-- The next unit of a pass (R100 to R153). -/
def Env.unit (v : Env) (p : Pass) : ERes :=
  match v.op with
  | .select => v.selectElem p
  | .copy | .fill => v.copyElem p
  | .sum | .minr | .maxr | .andr | .orr | .xorr | .dot => v.reduceElem p
  | .segsum | .segmin | .segmax | .segdot => v.segElem p
  | .psum | .psumx | .segpsum => v.prefixElem p
  | .linrec => v.linElem p
  | .compress => v.compressElem p
  | .expand => v.expandElem p
  | .gather => v.gatherElem p
  | .scatter | .scatteradd => v.scatterElem p
  | .spmv => v.spmvElem p
  | .scene => v.sceneElem p
  | .arcappend | .arcread | .sealfeed => v.archiveElem p
  | _ => v.mapElem p

/-- The relay elements that pass with a skipped element: those of the slots that the order reads with every element, and
for EXPAND the element of A that an enabled position takes (R100, R230). DESIGN CHOICE (log entry 187): an EXPAND element whose
control bit cannot be read counts as disabled. -/
def Env.skipRel (v : Env) (p : Pass) : RdAll :=
  let i := p.next
  let en := match v.kbit i with | .ok b _ => b % 2 == 1 | _ => false
  readAll (match v.op with
    | .expand => [if en then (0, v.take 0 p.aux false) else (0, .ok 0 []), v.pass 5 i]
    | .linrec => [v.pass 0 i, v.pass 1 i]
    | .spmv => []
    | .gather | .scatter | .scatteradd => [v.pass 0 i, (4, v.take 4 i false), v.pass 5 i]
    | _ => [v.pass 0 i, v.pass 1 i, v.pass 2 i, v.pass 3 i, v.pass 5 i])

/-- A skipped row of SPMV (R230): the pointers of the row are passed over; one that cannot be read stays for the next
row, which needs it too (log entry 144). -/
def Env.skipRow (v : Env) (p : Pass) : ERes :=
  let go (q : Pass) (rel : List (Nat × Nat)) : ERes := .ok ⟨q, 0, v.out 6 p.next none, rel, false, true⟩
  match p.row with
  | some (_, hi) => go (v.endRow p hi) []
  | none =>
    match v.rowPtrs p p.next with
    | .ok vs rel => go (v.endRow p (nthD vs 1)) rel
    | .wait => .wait
    | .flt _ _ _ =>
      let q := { v.endRow p p.aux with ptr := none }
      match v.strm 1 with
      | some ⟨_, .relay r, _, _⟩ => go q (if p.ptr.isSome then [] else [(r, 8)])
      | _ => go q []

/-- A skipped element of LINREC counts as (1, 0) (R230); where c(0) cannot be read yet, it is left to the next element. -/
def Env.skipLin (v : Env) (p : Pass) (rel : List (Nat × Nat)) : ERes :=
  let go (q : Pass) (more : List (Nat × Nat)) : ERes := .ok ⟨q, 0, v.out 6 p.next none, rel ++ more, false, true⟩
  let one (prev : Nat) : Pass := (v.linNext p prev (oneOf v.ctx.t) (zeroOf v.ctx.t)).2.2.2
  match p.carry with
  | some x => go (one x) []
  | none =>
    match v.elem 2 0 true with
    | .ok x more => go (one x) more
    | _ => let grp := p.grp ++ [none]; go { p.step with grp := if grp.length = 32 then [] else grp } []

/-- Does the order write slot 6 or 7 element by element: X of all but reductions, Y of MULWIDE alone, and what the steps of
a scene other than its last reduction or COMPRESS send there (R81, R121, R152)? -/
def Env.perElem (v : Env) (slot : Nat) : Bool :=
  match v.op with
  | .scene => v.ent.ord.steps.any fun d => match d.op with
    | .sum | .minr | .maxr | .andr | .orr | .xorr | .dot | .compress => false
    | .cmp _ => slot == 6 && d.toX
    | _ => if slot == 6 then d.toX else d.toY
  | .mulwide => true
  | _ => slot == 6

/-- A skipped element, row or byte (R229, R230). -/
def Env.skipUnit (v : Env) (p : Pass) : ERes :=
  let i := p.next
  if v.op == .spmv then v.skipRow p
  else (v.skipRel p).lift fun _ rel =>
    match v.op with
    | .expand =>
      let en := match v.kbit i with | .ok b _ => b % 2 == 1 | _ => false
      .ok ⟨{ p.step with aux := p.aux + en.toNat }, 0, v.out 6 i none, rel, false, true⟩
    | .segsum | .segmin | .segmax | .segdot =>
      if p.segEnd == some (i + 1) then
        if v.ent.run.skipSegs.contains p.out then .ok ⟨p.step.closeSeg, 0, v.out 6 p.out none, rel, false, true⟩
        else
          let (r, _) := partsResult v.op v.ctx (v.xf p.plain) p.parts
          .ok ⟨p.step.closeSeg, r.2, v.out 6 p.out (some r.1), rel, false, true⟩
      else .ok ⟨p.step, 0, [], rel, false, true⟩
    | .psum | .psumx => let (_, _, _, q) := v.prefixNext p none; .ok ⟨q, 0, v.out 6 i none, rel, false, true⟩
    | .segpsum =>
      let (_, _, _, q) := v.prefixNext p none
      .ok ⟨if p.segEnd == some (i + 1) then q.closeSeg else q, 0, v.out 6 i none, rel, false, true⟩
    | .linrec => v.skipLin p rel
    | .sum | .minr | .maxr | .andr | .orr | .xorr | .dot | .compress => .ok ⟨p.step, 0, [], rel, false, true⟩
    | .arcappend | .sealfeed => .ok ⟨{ p.step with ptr := none }, 0, [], rel, false, true⟩
    | _ =>
      let none' (slot : Nat) : List Out := if v.perElem slot then v.out slot i none else []
      .ok ⟨p.step, 0, none' 6 ++ none' 7, rel, false, true⟩

end Sys2Proof.Machine
end

