-- ==== Sys2Proof/Machine/EngRun.lean ====
section
/-!
DEFINITION. Running the units of an order: its output streams, signatures, traps, faults and waits, the interleaving of
performance and reprise, and the writes after the last element (R121, R124, R205 to R216, R281, R296, R297).
-/
namespace Sys2Proof.Machine

/-- The world of queue `q`. -/
def qWorld (q : Nat) : World := worldOf (q % 2)

/-! ### Interleave blocks -/

/-- The largest power of two not above `x`. -/
def floorPow2 (x : Nat) : Nat := if x = 0 then 1 else 2 ^ x.log2

/-- The interleave block length L (R144, R281). -/
def State.blockLen (s : State) (x : Entry) : Nat :=
  x.strms.foldl (fun l y =>
    match y.place with
    | .relay r =>
      let t := if y.slot = 4 then ETy.int false (if y.wide then 64 else 32) else x.slotTy y.slot
      min l (floorPow2 (128 * s.relayBlocks r * 8 / t.w))
    | _ => l) (if x.holds then 4096 else 65536)

/-! ### Signatures -/

/-- A value with the sign of a NaN set to 0 (R296). -/
def sigValue (t : ETy) (x : Nat) : Nat :=
  match t with
  | .flt f => if (f.decode x).isNan then x % 2 ^ (f.w - 1) else x
  | _ => x

/-- Elements of a signature block (R296). -/
def sigBlock (t : ETy) : Nat := if t.isBit then 2048 else 256

/-- The header of block `j` (R296). -/
def sigStart (tag slot j : Nat) : SigSt :=
  ⟨true, j, crc64Ecma.feed 0 (leBytes 2 tag ++ leBytes 1 (slot - 6) ++ leBytes 5 0 ++ leBytes 8 j), 0, false⟩

/-- Take in the pending byte of BIT elements, if one of its elements was written. -/
def SigSt.flush (x : SigSt) : SigSt :=
  if x.any then { x with crc := crc64Ecma.feed x.crc (leBytes 1 x.bits), bits := 0, any := false } else x

/-- Close blocks until block `j` is open: the new state, and the blocks closed with their signatures. -/
def sigAdvance (tag slot j : Nat) : Nat → SigSt → List (Nat × Nat) → SigSt × List (Nat × Nat)
  | 0, x, out => (x, out)
  | k + 1, x, out =>
    if x.blk < j then
      sigAdvance tag slot j k (sigStart tag slot (x.blk + 1)) (out ++ [(x.blk, x.flush.crc)])
    else (x, out)

/-- Enter output `o` of type `t` (R296). -/
def sigEnter (tag : Nat) (t : ETy) (scatter : Bool) (o : Out) (x : SigSt) : SigSt × List (Nat × Nat) :=
  let j := o.idx / sigBlock t
  let x := if x.started then x else sigStart tag o.slot 0
  let (x, out) := sigAdvance tag o.slot j (j - x.blk) x []
  if t.isBit then
    let x := if o.idx % 8 = 0 then x.flush else x
    (match o.val with
     | some v => { x with bits := x.bits % 2 ^ (o.idx % 8) + v % 2 * 2 ^ (o.idx % 8), any := true }
     | none => x, out)
  else
    match o.val with
    | some v =>
      let pre := if scatter then leBytes 6 (o.addr.getD 0) else []
      ({ x with crc := crc64Ecma.feed x.crc (pre ++ leBytes t.bytes (sigValue t v)) }, out)
    | none => (x, out)

/-- Pair a reprise signature with the performance's (R298). -/
def Run.pairUp (r : Run) (slot : Nat) (b : Nat × Nat) : Run :=
  match r.pend.find? fun p => p.1 == slot && p.2.1 == b.1 with
  | some p => { r with pend := r.pend.erase p, pairs := r.pairs ++ [⟨slot, b.1, p.2.2, b.2⟩] }
  | none => r

/-- Signatures that a pass has finished (R297). -/
def Run.signed (r : Run) (rep : Bool) (slot : Nat) (bs : List (Nat × Nat)) : Run :=
  if rep then bs.foldl (fun r b => r.pairUp slot b) r
  else { r with pend := r.pend ++ bs.map fun b => (slot, b.1, b.2) }

def Run.pass (r : Run) (rep : Bool) : Pass := if rep then r.rep else r.perf
def Run.setPass (r : Run) (rep : Bool) (p : Pass) : Run := if rep then { r with rep := p } else { r with perf := p }

def Pass.sig (p : Pass) (slot : Nat) : SigSt := if slot = 6 then p.sigX else p.sigY
def Pass.setSig (p : Pass) (slot : Nat) (x : SigSt) : Pass := if slot = 6 then { p with sigX := x } else { p with sigY := x }
def Pass.bits (p : Pass) (slot : Nat) : List Bool := if slot = 6 then p.bitX else p.bitY
def Pass.setBits (p : Pass) (slot : Nat) (x : List Bool) : Pass :=
  if slot = 6 then { p with bitX := x } else { p with bitY := x }

/-- A byte of bits, the first in bit 0 (R66). -/
def bitByte (bs : List Bool) : Byte := BitVec.ofNat 8 (bs.foldr (fun b n => b.toNat + 2 * n) 0)

/-! ### Outputs -/

/-- The memory address of an output, where its stream is in memory. -/
def Env.outAddr (v : Env) (o : Out) : Option Int :=
  match o.addr with
  | some a => some a
  | none =>
    match v.strm o.slot with
    | some ⟨_, .mem a, _, st⟩ =>
      if (v.ty o.slot).isBit then some ((a : Int) + (o.idx / 8 : Nat))
      else some ((a : Int) + (o.idx : Int) * (st.getD 1) * ((v.ty o.slot).bytes : Nat))
    | _ => none

/-- The first byte of a span of `n` bytes from `a` that refuses the access, with its kind. -/
def Env.refusedAt (v : Env) (k : Acc) (a : Nat) : Nat → Option (Nat × Nat)
  | 0 => none
  | n + 1 =>
    match v.s.checkAll Paths.engine v.view k a 1 with
    | .error e => some (e.code, a)
    | .ok _ => v.refusedAt k (a + 1) n

/-- The span of memory that the stream of an output writes whole: its whole extent where its elements follow each other
without gaps and all are written, else the element's own bytes (R351, R356; log entry 145). -/
def Env.outSpan (v : Env) (o : Out) (a : Nat) : Nat × Nat :=
  let own := (a, (v.ty o.slot).bytes)
  if o.addr.isSome || !v.ent.fills then own
  else match v.strm o.slot with
    | some x =>
      if x.stride.getD 1 = 1 then
        (match x.extent (v.ty o.slot) (v.ty o.slot).bytes (v.ent.slotCount o.slot) with
         | some (lo, hi) => (lo.toNat, (hi - lo).toNat)
         | none => own)
      else own
    | none => own

/-- The read of the read-modify-write of a code unit that an output writes in part fails (R351, R356). -/
def Env.outPart (v : Env) (o : Out) (a : Nat) : Option (Nat × Nat) :=
  match v.s.target a with
  | .mem q =>
    let (lo, n) := v.outSpan o a
    (v.s.partIn (q + lo - a) n q (v.ty o.slot).bytes).map fun _ => (MErr.ecc.code, a)
  | _ => none

/-- Why an output cannot be written to memory (R214). -/
def Env.outFault (v : Env) (o : Out) : Option (Nat × Nat) :=
  match o.val, v.outAddr o with
  | some _, some a =>
    if a < 0 ∨ a ≥ 2 ^ 48 then some (1, (a % 2 ^ 48).toNat)
    else (v.refusedAt (if v.op == .scatteradd then .rmw else .wr) a.toNat ((v.ty o.slot).bytes)).or (v.outPart o a.toNat)
  | _, _ => none

/-- The relay that an output slot feeds. -/
def Env.outRelay (v : Env) (slot : Nat) : Option Nat :=
  match v.strm slot with | some ⟨_, .relay r, _, _⟩ => some r | _ => none

/-- Has the performance given the relay and seal bytes of this element already, before SKIP took it back (R230)? -/
def Env.hushed (v : Env) (p : Pass) : Bool := !v.rep && decide (p.next < v.ent.run.shown)

/-- Bytes that the outputs put into relay `r`, the bits gathered so far counted where a byte fills. -/
def Env.relayNeed (v : Env) (p : Pass) (r : Nat) (outs : List Out) : Nat :=
  if v.hushed p then 0
  else outs.foldl (fun n o =>
    if v.outRelay o.slot = some r ∧ o.val.isSome then
      let t := v.ty o.slot
      n + (if t.isBit then (if (p.bits o.slot).length ≥ 7 then 1 else 0) else t.bytes)
    else n) 0

/-- The relay bytes of a unit; after the last element, a byte of BIT elements that is not full goes out as well (R66). -/
def Env.unitNeed (v : Env) (p : Pass) (fin : Bool) (slot r : Nat) (outs : List Out) : Nat :=
  let bits := (p.bits slot).length + (outs.filter fun o => o.slot == slot && o.val.isSome).length
  if fin && v.bits slot then (bits + 7) / 8 else v.relayNeed p r outs

/-- Have the output relays room for the outputs of a unit (R174)? -/
def Env.room (v : Env) (p : Pass) (fin : Bool) (outs : List Out) : Bool :=
  [6, 7].all fun sl => match v.outRelay sl with
    | some r => decide (v.unitNeed p fin sl r outs ≤ (v.s.relay r).room)
    | none => true

/-- Does the unit put the last byte of its order into the relay of a slot (R173, R356)? The writes after the last element
do, and the last element of a slot that has none. -/
def Env.endsData (v : Env) (p : Pass) (fin : Bool) (slot : Nat) : Bool := fin || (v.last p.next && !v.bits slot)

/-- Why the outputs of a unit cannot be written: slot, kind and address, X before Y (R214). The reprise writes no memory,
but its copy of a relay (R171, R176, R360). -/
def Env.outsFault (v : Env) (p : Pass) (fin : Bool) (outs : List Out) : Option (Nat × Nat × Nat) :=
  [6, 7].findSome? fun sl =>
    match v.outRelay sl with
    | some r =>
      if v.rep && !(v.s.relay r).copies then none
      else (v.s.relayRefuses v.view r v.rep (v.endsData p fin sl) (v.unitNeed p fin sl r outs)).map fun e =>
        (sl, e.1.code, e.2.2)
    | none =>
      if v.rep then none
      else (outs.filter fun o => o.slot == sl).findSome? fun o => (v.outFault o).map fun f => (o.slot, f.1, f.2)

/-- A byte of memory as it stands, without a window. -/
def State.rawByte (s : State) (v : View) (a : Nat) : Byte :=
  match s.target a with
  | .mem q => s.byte q
  | .host o => Tab.get hostDefault s.hostMem (s.hostAddr v.obWorld o)
  | _ => 0

def heldDefault (_ : Nat) : Option Byte := none

/-- The bytes that output `o` leaves in memory from its address: a BIT element changes its bit alone (R66, R141). -/
def Env.memBytes (v : Env) (o : Out) (x a : Nat) : List Byte :=
  let t := v.ty o.slot
  if t.isBit then
    let held := if v.rep then v.ent.run.heldR else v.ent.run.heldP
    let old := ((Tab.get heldDefault held a).getD (v.s.rawByte v.view a)).toNat
    let j := o.idx % 8
    [BitVec.ofNat 8 (old % 2 ^ j + x % 2 * 2 ^ j + old / 2 ^ (j + 1) * 2 ^ (j + 1))]
  else leBytes t.bytes x

/-- Hold bytes back (R144). -/
def Run.hold (r : Run) (rep : Bool) (a : Nat) (bs : List Byte) : Run :=
  let bs := bs.map some
  if rep then { r with heldR := Tab.setMany heldDefault r.heldR a bs }
  else { r with heldP := Tab.setMany heldDefault r.heldP a bs }

/-- One output of a pass: its signature, memory, relay and seal unit (R144, R148, R171, R176, R296). The entry is the
head order with the pass already advanced. -/
def putOut (w : World) (rep : Bool) (se : State × Entry) (o : Out) : State × Entry :=
  let (s, ent) := se
  let v : Env := ⟨s, w, ent, rep⟩
  let t := v.ty o.slot
  let p := ent.run.pass rep
  let (sig, done) := if ent.run.reprised then
      sigEnter ent.tag t (match v.op with | .scatter | .scatteradd => true | _ => false) o (p.sig o.slot)
    else (p.sig o.slot, [])
  let hush := !rep && decide (p.next ≤ ent.run.shown)
  let bits := if t.isBit then p.bits o.slot ++ (match o.val with | some x => [x % 2 == 1] | none => []) else []
  let full := decide (bits.length ≥ 8)
  let stream : List Byte :=
    if t.isBit then (if full then [bitByte bits] else [])
    else match o.val with | some x => leBytes t.bytes x | none => []
  let p := (p.setSig o.slot sig).setBits o.slot (if full then [] else bits)
  let r := (ent.run.setPass rep p).signed rep o.slot done
  let holds := ent.run.reprised && ent.holds
  let (s, r) : State × Run :=
    match o.val, v.outAddr o with
    | some x, some a =>
      let bs := v.memBytes o x a.toNat
      if holds then (s, r.hold rep a.toNat bs)
      else if rep then (s, r)
      else
        let (lo, n) := v.outSpan o a.toNat
        (s.storeIn lo n v.view a.toNat bs, r)
    | _, _ => (s, r)
  let s := match v.outRelay o.slot with
    | some k => if rep then s.relayPutRep k stream else if hush then s else s.relayPut k stream
    | none => s
  let s := match ent.ord.sealTo with
    | some (u, y) => if !rep && !hush && o.slot == (if y then 7 else 6) then s.seaFeed u stream else s
    | none => s
  (s, ent.setRun r)

/-- The requester code of the write port of queue `q`'s engine that carries an output slot (R374; log entry 146). -/
def portCode (q slot : Nat) : Nat := 6 * (q / 2) + 4 + (slot - 6)

/-- Release the held writes of the performance (R144); a byte whose buffer has closed since its element retired stays,
with FROZEN (R307, R362; log entry 147). -/
def releaseHeld (q : Nat) (s : State) (ent : Entry) : State × Entry :=
  let v : View := .win (qWorld q) ent.sup
  let put (s : State) (c : Nat × Option Byte) : State :=
    match c.2, s.target c.1 with
    | some b, .mem p => if s.frozen p then s.mtxFrozen (portCode q 6) c.1 else (s.setByte p b).touch p 1
    | some b, _ => s.storeByte v c.1 b
    | none, _ => s
  let s := (ent.run.heldP.foldl put s).heal (ent.run.heldP.filterMap fun c =>
    match s.target c.1 with | .mem p => some p | _ => none)
  (s, ent.setRun { ent.run with heldP := [], heldR := [] })

/-! ### The writes after the last element -/

/-- The ones that the compare steps of a scene have written, where one of them counts into Y (R81, R121). -/
def Env.sceneOnes (v : Env) (p : Pass) : List Out :=
  if v.ent.ord.steps.any fun e => (match e.op with | .cmp _ => e.toY | _ => false) then v.out 7 0 (some p.ones) else []

/-- The outputs that follow the last element, with their flags (R81, R121, R124, R132, R145, R152): `none` waits for the
archive. -/
def Env.finOuts (v : Env) (p : Pass) : Option (List Out × Flags) :=
  let y (x : Nat) : List Out := v.out 7 0 (some x)
  match v.op with
  | .sum | .minr | .maxr | .andr | .orr | .xorr | .dot =>
    let (r, _) := partsResult v.op v.ctx (v.xf p.plain) p.parts
    some (v.out 6 0 (some r.1), r.2)
  | .cmp _ => some (y p.ones, 0)
  | .compress => some (y p.out, 0)
  | .arcappend =>
    match v.ent.run.arcRec with
    | some rec' =>
      (match v.s.arcShelf v.w.idx rec' with
       | some m => some (((leBytes 8 m).zip (List.range 8)).foldl
           (fun os (x : Byte × Nat) => os ++ v.out 6 x.2 (some x.1.toNat)) [], 0)
       | none => none)
    | none => none
  | .scene =>
    match v.ent.ord.steps.getLast? with
    | some d =>
      (match d.op with
       | .compress => some ((if d.toY then y p.out else []) ++ v.sceneOnes p, 0)
       | .sum | .minr | .maxr | .andr | .orr | .xorr | .dot =>
         let cc : ArCtx := if d.bit then { v.ctx with t := .bit } else v.ctx
         let (r, _) := partsResult d.op cc (v.xf p.plain) p.parts
         some ((if d.toX then v.out 6 0 (some r.1) else []) ++ (if d.toY then v.out 7 0 (some r.1) else []) ++
           v.sceneOnes p, r.2)
       | _ => some (v.sceneOnes p, 0))
    | none => some ([], 0)
  | _ => some ([], 0)

/-- The bytes of BIT elements left over at the end of a pass go to their relay and seal unit (R66). -/
def flushBits (rep : Bool) (se : State × Entry) (slot : Nat) : State × Entry :=
  let (s, ent) := se
  let p := ent.run.pass rep
  let bits := p.bits slot
  if bits = [] then se
  else
    let b := [bitByte bits]
    let s := match (ent.strms.find? fun x => x.slot == slot) with
      | some ⟨_, .relay k, _, _⟩ => if rep then s.relayPutRep k b else s.relayPut k b
      | _ => s
    let s := match ent.ord.sealTo with
      | some (u, y) => if !rep && slot == (if y then 7 else 6) then s.seaFeed u b else s
      | none => s
    (s, ent.setRun (ent.run.setPass rep (p.setBits slot [])))

/-- Close the last signature block of a slot; a slot without any element has block 0 alone (R296). -/
def closeSig (rep : Bool) (ent : Entry) (slot : Nat) : Entry :=
  if ent.run.reprised && ent.ord.mask.testBit slot then
    let p := ent.run.pass rep
    let x := if (p.sig slot).started then p.sig slot else sigStart ent.tag slot 0
    let r := ent.run.setPass rep (p.setSig slot SigSt.empty)
    ent.setRun (r.signed rep slot [(x.blk, x.flush.crc)])
  else ent

/-! ### Stops -/

/-- The place of a cause in the list of R207; a lower place wins. -/
def causeRank : Nat → Nat
  | 8 => 0 | 0xA => 1 | 0xB => 2 | 0xC => 3 | 9 => 4 | 6 => 5 | 7 => 6 | 5 => 7 | 4 => 8 | 1 => 9 | 2 => 10 | 3 => 11
  | _ => 12

/-- The head order reaches its boundary with a cause (R205, R207, R208). -/
def Run.close (r : Run) (cause fslot fkind faddr : Nat) (fpass : Bool) : Run :=
  { r with phase := .closing, was := if r.phase = .closing then r.was else r.phase,
           prev := if r.phase = .closing then r.prev else r.cause, cause := cause, fslot := fslot, fkind := fkind,
           faddr := faddr, fpass := fpass, wdCount := 0 }

/-- Is the order stopped: its record stands, or its state has been replaced and the record is being written (R208,
R226)? -/
def Run.stopped (r : Run) : Bool :=
  r.phase == .stopped || (r.phase == .closing && r.was != .running && decide (r.cause ≥ 6))

/-- Is the order parked, in the same sense? -/
def Run.parked (r : Run) : Bool :=
  r.phase == .parked || (r.phase == .closing && r.was == .parked && decide (r.cause < 6))

/-- Does the order execute: it runs, or it drains on its way to a boundary (R98, R208)? -/
def Run.runs (r : Run) : Bool := r.phase == .running || (r.phase == .closing && r.was == .running)

/-- Does an ARCAPPEND whose elements have all retired wait for its commit, in which it can still be suspended and abandoned
(R512, R518)? -/
def State.commitWaits (s : State) (q : Nat) (x : Entry) : Bool :=
  x.ord.op == .arcappend && decide (0 < x.n) &&
  (match x.run.arcRec with
   | some acc => (s.log (q % 2)).cols.all fun c => c.acc != acc
   | none => true)

/-- A suspension request reaches the head order of queue `q` (R207, R208, R226, R227, R300). An order without an
element to retire completes, and a SUSPEND then acts on the next one. -/
def State.suspend (s : State) (q cause : Nat) : State :=
  match s.head q with
  | none => s
  | some x =>
    let r := x.run
    let stopIt := s.setHead q (x.setRun (r.close cause 0 0 0 false))
    let later := s.setQueue q { s.queue q with suspNext := true }
    let done := decide (cause = 6 ∧ x.n ≤ r.perf.next) && !s.commitWaits q x
    let whole := decide (r.cause < 6 ∨ r.cause = 7)
    if r.failed.isSome then s
    else match r.phase with
    | .running => if done then later else stopIt
    | .closing =>
      if done && whole then later
      else if causeRank cause < causeRank r.cause then stopIt else s
    | .parked => if done then later else if (cause = 6 ∨ cause = 5) ∧ cause ≠ r.cause then stopIt else s
    | .queued => if done then later else if cause = 6 then stopIt else s
    | .stopped => s

/-! ### One unit -/

/-- Make a trap report (R210, R212). -/
def State.trapReport (s : State) (q : Nat) (tag : Nat) (fl : Flags) (last : Bool) : State :=
  let e := q / 2
  let w := q % 2
  let a := rEngTraprep e w
  let s := if s.rb a fEngTraprepValid then s.setRf a fEngTraprepOver 1
    else (((s.setRf a fEngTraprepTag tag).setRf a fEngTraprepFlags fl.toNat).setRf a fEngTraprepLast last.toNat).setRf a
      fEngTraprepValid 1
  (s.fire (192 + 2 * e + w)).arrive (258 + 6 * e + 3 * w)

/-- The flags of a retired performance unit; those that are trap-enabled count for the trap report, except under precise
retirement (R209, R210). -/
def Run.addFlags (r : Run) (fl : Flags) : Run :=
  { r with flags := r.flags ||| fl, blkFlags := if r.precise then r.blkFlags else r.blkFlags ||| (fl &&& r.trapen) }

/-- The flags of a retired performance unit, and the trap report at the end of each block of 65 536 elements (R209,
R210). -/
def retireFlags (q : Nat) (se : State × Entry) (fl : Flags) : State × Entry :=
  let (s, ent) := se
  let r := ent.run.addFlags fl
  if r.blkFlags ≠ 0 ∧ r.perf.next % 65536 = 0 ∧ r.perf.next > 0 then
    (s.trapReport q ent.tag r.blkFlags false, ent.setRun { r with blkFlags := 0 })
  else (s, ent.setRun r)

/-- A plainly reprised element (R289). -/
def countPlain (w : World) (se : State × Entry) : State × Entry :=
  let (s, ent) := se
  (s.addRf (rRepPlain w.idx) fRepPlainPlain 1, ent.setRun { ent.run with plainCount := ent.run.plainCount + 1 })

/-- A byte of SEALFEED or ARCAPPEND goes to its unit or record. A byte that SKIP has passed over feeds no seal; its place in
a record keeps what it holds, which is open (R229; log entry 148). -/
def feedByte (w : World) (s : State) (ent : Entry) (p : Pass) : State :=
  match ent.ord.op, p.ptr with
  | .sealfeed, some b =>
    (match (ent.strms.find? fun x => x.slot == 1) with
     | some ⟨_, .imm u, _, _⟩ => s.seaFeed u (leBytes 1 b)
     | _ => s)
  | .arcappend, b =>
    (match ent.run.arcRec with
     | some r =>
       (match b with
        | some b => s.arcAppendByte w.idx r (BitVec.ofNat 8 b)
        | none => let (v, s) := s.takeFree; s.arcAppendByte w.idx r (v.setWidth 8))
     | none => s)
  | _, _ => s

/-- The performance moves ahead of the reprise by a unit: an element adds to the trail, other work to the element before
it (R230). -/
def Run.follow (r : Run) (e : Eff) : List Trail :=
  if !r.reprised then []
  else if e.counts then ⟨r.perf, r.flags, r.blkFlags, r.heldP, e.rel⟩ :: r.trail
  else match r.trail with
    | t :: ts => { t with rel := t.rel ++ e.rel } :: ts
    | [] => []

/-- The bytes that an order's input relays hold for it: they grow when a transfer of one of its ports completes (R223). -/
def State.portBytes (s : State) (x : Entry) : Nat :=
  x.strms.foldl (fun n y => match y.place with
    | .relay r => if y.slot < 6 then n + (s.relay r).availP + (s.relay r).availR else n
    | _ => n) 0

/-- Retire a unit: relays, outputs, flags, counts (R205, R209, R289); the watchdog starts anew (R223). The first unit of a
reprise block takes the scale exponent in force (R313). -/
def State.retire (s : State) (q : Nat) (ent : Entry) (rep : Bool) (e : Eff) : State :=
  let w := qWorld q
  let s := e.rel.foldl (fun s x => s.relayRetire x.1 rep x.2) s
  let s := if !rep && e.counts then feedByte w s ent e.pass else s
  let r := ent.run
  let r := if rep then { r with kscale := some (r.kscale.getD s.kscale) } else { r with trail := r.follow e }
  let r := r.setPass rep e.pass
  let r := { r with wdCount := 0, wdSeen := s.portBytes ent, waited := false, since := s.time, passOne := r.passOne && !(e.counts && !rep) }
  let se := e.outs.foldl (fun se o => putOut w rep se o) (s, ent.setRun r)
  let se := if rep then (if e.plain && e.counts then countPlain w se else se) else retireFlags q se e.flags
  se.1.setHead q se.2

/-- What a fault of an engine's access raises besides: an uncorrectable code unit is reported by its memory (R352, R356),
a write to a closed buffer sets FROZEN (R307, R362). -/
def State.faultNote (s : State) (q fslot fkind faddr : Nat) : State :=
  match s.target faddr with
  | .mem p =>
    if fkind = 5 then s.memUe p
    else if fkind = 2 ∧ fslot ≥ 6 ∧ s.frozen p then s.mtxFrozen (portCode q fslot) faddr
    else s
  | _ => s

/-- A fault of a unit stops the order (R213 to R216); on an order that has failed it ends the reprise block (R300). -/
def State.unitStop (s : State) (q : Nat) (ent : Entry) (rep : Bool) (cause fslot fkind faddr : Nat) : State :=
  let r := ent.run
  let s := if cause = 8 then s.faultNote q fslot fkind faddr else s
  if r.failed.isSome then s.setHead q (ent.setRun { r with rep := { r.rep with next := r.perf.next } })
  else s.setHead q (ent.setRun (r.close cause fslot fkind faddr rep))

/-- The final unit of a pass (R121, R124, R214, R296). The performance's held final writes are released at once: the
reprise has read every input (R144). No final write has been shown before (R230). -/
def State.finUnit (s : State) (q : Nat) (ent : Entry) (rep : Bool) : State :=
  let w := qWorld q
  let v : Env := ⟨s, w, ent, rep⟩
  let p := ent.run.pass rep
  let skip := ent.run.skips.contains ent.n
  match if skip then some ([], 0) else v.finOuts p with
  | none => s
  | some (outs, fl) =>
    if !rep && !v.room p true outs then s
    else match v.outsFault p true outs with
    | some (sl, k, a) => s.unitStop q ent rep 8 sl k a
    | none =>
      let r := { (ent.run.setPass rep { p with fin := true }) with wdCount := 0, wdSeen := s.portBytes ent, shown := 0 }
      let se := outs.foldl (fun se o => putOut w rep se o) (s, ent.setRun r)
      let se := flushBits rep (flushBits rep se 6) 7
      let ent := closeSig rep (closeSig rep se.2 6) 7
      let se := if rep then (se.1, ent) else releaseHeld q se.1 (ent.setRun (ent.run.addFlags fl))
      se.1.setHead q se.2

/-- What a stop raises besides: SEALFAIL where an ARCREAD fails its check (R515). -/
def Env.stopFault (v : Env) (cause : Nat) : State :=
  match v.op, v.strm 0 with
  | .arcread, some ⟨_, .mem a, _, _⟩ =>
    (match v.memVal (a : Int) 16 1 with
     | .ok x _ =>
       let mark := x % 2 ^ 64
       (match v.s.arcFind v.ent.run.belows v.w.idx mark with
        | some (l, c) =>
          if cause = 0xC ∧ v.undelivered v.ent.run.perf ∧ v.s.rb rArcCtl fArcCtlVerify ∧
              (v.s.log l).verifyFails c (x / 2 ^ 64) v.ent.n then v.s.raise (sealFail mark v.ent.tag)
          else v.s
        | none => v.s)
     | _ => v.s)
  | _, _ => v.s

/-- One unit of a pass as its element computes it; SKIP passes over an element once its segment is open (R229, R230). -/
def Env.next (v : Env) (p : Pass) : ERes :=
  let seg := match v.op with | .segsum | .segmin | .segmax | .segdot | .segpsum => true | _ => false
  if v.ent.run.skips.contains p.next && !(seg && p.segEnd.isNone) then v.skipUnit p else v.unit p

/-- One element, or one unit of work between elements, of a pass. -/
def State.elemUnit (s : State) (q : Nat) (ent : Entry) (rep : Bool) : State :=
  let v : Env := ⟨s, qWorld q, ent, rep⟩
  let r := ent.run
  let p := r.pass rep
  match v.next p with
  | .wait => s
  | .flt sl k a => s.unitStop q ent rep 8 sl k a
  | .stop c a => (v.stopFault c).unitStop q ent rep c 0 0 a
  | .ok e =>
    if !rep && !v.room p false e.outs then s
    else match v.outsFault p false e.outs with
    | some (sl, k, a) => s.unitStop q ent rep 8 sl k a
    | none =>
      if !rep && r.precise && !r.passOne && (e.flags &&& r.trapen) != 0 then s.unitStop q ent rep 9 0 0 0
      else s.retire q ent rep e

/-- The end of the interleave block in which the reprise stands (R281). -/
def Run.blockEnd (r : Run) (n : Nat) : Nat := min n ((r.rep.next / r.blockLen + 1) * r.blockLen)

/-- Is the memory of every stream of an order up, as far as it extends (R680)? An index may lead anywhere. -/
def State.strmsReady (s : State) (x : Entry) : Bool :=
  x.strms.all fun y => match y.place with
    | .mem a =>
      if x.ord.op.indexed y.slot then s.memReady scpBase && s.memReady hbmBase
      else
        let t := if y.slot = 4 then ETy.int false (if y.wide then 64 else 32) else x.slotTy y.slot
        (match y.extent t t.bytes (x.slotCount y.slot) with
         | some (lo, hi) => s.spanReady lo.toNat (hi - lo).toNat
         | none => s.spanReady a 1)
    | .relay _ => s.ready 28
    | .imm _ => true

/-- Does the order feed a relay? -/
def Entry.feeds (x : Entry) : Bool :=
  x.strms.any fun y => decide (y.slot ≥ 6) && (match y.place with | .relay _ => true | _ => false)

/-- The end of a reprise block: the performance's held writes are released, and the next block starts afresh (R144, R281,
R313). -/
def reprBlockEnd (q : Nat) (s : State) (ent : Entry) : State × Entry :=
  let (s, ent) := releaseHeld q s ent
  (s, ent.setRun { ent.run with kscale := none, trail := [] })

/-- The next unit of the head order of queue `q`, which runs (R281, R299): its performance makes no further relay block
visible while a pair waits for the comparator. -/
def State.oneUnit (s : State) (q : Nat) : State :=
  match s.head q with
  | none => s
  | some ent =>
    let r := ent.run
    let n := ent.n
    if r.phase ≠ .running || !s.strmsReady ent then s
    else if !r.reprised then
      (if r.perf.next < n then s.elemUnit q ent false else if !r.perf.fin then s.finUnit q ent false else s)
    else
      let be := r.blockEnd n
      let held := ent.feeds && !r.pairs.isEmpty
      if r.failed.isNone ∧ r.perf.next < be then (if held then s else s.elemUnit q ent false)
      else if r.rep.next < min be r.perf.next then
        let s := s.elemUnit q ent true
        match s.head q with
        | some ent' =>
          if ent'.run.rep.next = be ∨ (r.failed.isSome ∧ ent'.run.rep.next ≥ r.perf.next) then
            let se := reprBlockEnd q s ent'
            se.1.setHead q se.2
          else s
        | none => s
      else if r.failed.isSome then s
      else if r.rep.next < n then s
      else if !r.perf.fin then (if held then s else s.finUnit q ent false)
      else if !r.rep.fin then s.finUnit q ent true
      else s

/-- `k` units of the head order of queue `q`. -/
def State.runUnits (q : Nat) : Nat → State → State
  | 0, s => s
  | k + 1, s => State.runUnits q k (s.oneUnit q)

end Sys2Proof.Machine
end

