-- ==== Sys2Proof/Machine/RingCore.lean ====
section
/-!
DEFINITION. The host block's rings (14): descriptors in progress, their end, and completion entries (R574, R577, R584
to R586, R592).
-/
namespace Sys2Proof.Machine

def sqDefault (_ : Nat) : SqSt := SqSt.empty
def cqDefault (_ : Nat) : CqSt := CqSt.empty

/-- Submission and completion ring `n` of function `f`. -/
def State.sq (s : State) (f n : Nat) : SqSt := Tab.get sqDefault s.host.sqs (64 * f + n)
def State.setSq (s : State) (f n : Nat) (x : SqSt) : State :=
  { s with host := { s.host with sqs := Tab.set sqDefault s.host.sqs (64 * f + n) x } }
def State.cq (s : State) (f n : Nat) : CqSt := Tab.get cqDefault s.host.cqs (64 * f + n)
def State.setCq (s : State) (f n : Nat) (x : CqSt) : State :=
  { s with host := { s.host with cqs := Tab.set cqDefault s.host.cqs (64 * f + n) x } }

/-- The little-endian field of `n` bytes at offset `o` of a descriptor (R575, R576). -/
def DescSt.u (d : DescSt) (o n : Nat) : Nat := ofLeBytes ((d.bytes.drop o).take n)

def DescSt.fence (d : DescSt) : Bool := (d.u 1 1).testBit 0
def DescSt.quiet (d : DescSt) : Bool := (d.u 1 1).testBit 1
def DescSt.cue (d : DescSt) : Bool := (d.u 1 1).testBit 2
def DescSt.tag (d : DescSt) : Nat := d.u 2 2

/-- Replace a descriptor in progress; one that has moved on starts its completion timeout anew (R571). -/
def State.setDesc (s : State) (f n : Nat) (d : DescSt) : State :=
  let q := s.sq f n
  s.setSq f n { q with descs := q.descs.map fun x =>
    if x.id == d.id then { d with since := if d.moved = x.moved then x.since else s.time } else x }

/-- A completion entry but for its last byte (R584). -/
def completion (tag ring status head d0 d1 : Nat) : List Byte :=
  leBytes 2 tag ++ leBytes 1 ring ++ leBytes 1 status ++ leBytes 2 head ++ leBytes 2 0 ++ leBytes 8 d0 ++ leBytes 8 d1 ++
  leBytes 39 0

/-- An entry joins those of a completion ring: 64 wait in the ring's own places, later ones with their descriptors (R586; log
entry 171). -/
def CqSt.post (x : CqSt) (e : List Byte) : CqSt :=
  if x.waiting.length < 64 then { x with waiting := x.waiting ++ [e] } else { x with extra := x.extra ++ [e] }

/-- An entry waits at the completion ring of submission ring `n`; a disabled ring drops it (R588; log entry 15). -/
def State.cqPost (s : State) (f n : Nat) (e : List Byte) : State :=
  let c := s.rf (rHstSqctl f n) fHstSqctlCq
  if s.rb (rHstCqctl f c) fHstCqctlEn then s.setCq f c ((s.cq f c).post e) else s

/-- A descriptor ends with `status` and its two details (R575, R584, R592). -/
def State.descEnd (s : State) (f n : Nat) (d : DescSt) (status d0 d1 : Nat) : State :=
  let q := s.sq f n
  let s := s.setSq f n { q with descs := q.descs.filter fun x => x.id != d.id }
  let s := if d.quiet ∧ status = 0 then s else s.cqPost f n (completion d.tag n status d.head d0 d1)
  let s := if status = 4 ∨ status = 5 then s.raise ⟨.hst, 0, 3, some (worldOf f), 0, 64 * f + n, 0, false⟩ else s
  if d.cue then s.fire 253 else s

/-- A RUN whose issue has ended and whose orders have all completed ends (R577). -/
def State.runSettle (s : State) (f n : Nat) (d : DescSt) : State :=
  if d.live = 0 ∧ (d.rej.isSome ∨ (d.list.isSome ∧ d.issued = d.u 0x14 2)) then
    match d.rej, d.bad with
    | some (i, st, off), _ => s.descEnd f n d 2 i (st + 256 * off)
    | none, some (i, st, tag) => s.descEnd f n d 1 i (st + 2 ^ 16 * tag)
    | none, none => s.descEnd f n d 0 0 0
  else s

/-- A ring-fed order of descriptor `id` completes with `status` (R577). -/
def State.runOrderDone (s : State) (f n id tag status : Nat) : State :=
  match (s.sq f n).descs.find? fun x => x.id == id with
  | none => s
  | some d =>
    let i := (tag + 65536 - d.tag) % 65536
    let bad := if status = 0 then d.bad else
      match d.bad with
      | some (j, st, t) => if i < j then some (i, status, tag) else some (j, st, t)
      | none => some (i, status, tag)
    let d := { d with live := d.live - 1, bad := bad }
    (s.setDesc f n d).runSettle f n d

end Sys2Proof.Machine
end

