-- ==== Sys2Proof/Machine/EngQueue.lean ====
section
/-!
DEFINITION. Order queues (02, R83 to R99; 04, R184 to R195): the acceptance checks, which queue may run, suspension by
time partitions, worlds and modes.
-/
namespace Sys2Proof.Machine

/-! ### Which order runs -/

def qOf (e : Nat) (w : World) : Nat := 2 * e + w.idx

/-- Is there an uncompleted order of the same issuer and world accepted before this one (R50, R57)? -/
def State.earlier (s : State) (w : Nat) (x : Entry) : Bool :=
  (List.range 16).any fun e => (s.queue (2 * e + w)).entries.any fun y => y.issuer == x.issuer && decide (y.seq < x.seq)

/-- The head order waits under ORDERED (R57, R98). -/
def State.qHeld (s : State) (q : Nat) : Bool :=
  match s.head q with
  | some x => x.run.phase == .queued && x.ord.ordered && s.earlier (q % 2) x
  | none => false

/-- The seal unit that an order holds (R147, R149). -/
def Entry.unit (x : Entry) : Option Nat :=
  match x.ord.sealTo with
  | some (u, _) => some u
  | none =>
    if x.ord.op == .sealfeed then
      (match (x.strms.find? fun y => y.slot == 1) with | some ⟨_, .imm u, _, _⟩ => some u | _ => none)
    else none

/-- Does the order start when it next runs: it waits in its queue, or was stopped before it began and is to go on (R226,
R229)? -/
def Run.starts (r : Run) : Bool :=
  r.phase == .queued || (r.phase == .stopped && !r.begun && (match r.resume with | some a => a != 3 | none => false))

/-- The head order waits at its start for a seal unit (R149, R189). -/
def State.qSealWait (s : State) (q : Nat) : Bool :=
  match s.head q with
  | some x => x.run.starts && x.n != 0 &&
    (match x.unit with | some u => s.seaWorld u == qWorld q && !s.seaFree u | none => false)
  | none => false

/-- Does the device mode run the orders of engine `e` (R189), and has the engine come up (R625)? -/
def State.engOn (s : State) (e : Nat) : Bool := s.modeRuns e && s.ready e

/-- Is the head order runnable (R189, R202, R204, R228)? A reprised order that has begun waits in Custody, where no
comparator serves. -/
def State.runnable (s : State) (q : Nat) : Bool :=
  s.engOn (q / 2) &&
  match s.head q with
  | none => false
  | some x =>
    match x.run.phase with
    | .queued => !s.qHeld q && !s.qSealWait q
    | .running => true
    | .closing => decide (x.run.cause < 6)
    | .parked => !(x.run.reprised && s.mode == 8)
    | .stopped => x.run.resume.isSome && !s.qSealWait q

def tpDefault (_ : Nat) : Tp := Tp.empty
def State.tpOf (s : State) (e : Nat) : Tp := Tab.get tpDefault s.tp e
def State.setTp (s : State) (e : Nat) (x : Tp) : State := { s with tp := Tab.set tpDefault s.tp e x }

/-- World and LEND of the current slot; none in open time and with EN = 0 (R186, R190). -/
def Tp.now (x : Tp) : Option (Nat × Bool) :=
  if x.on then (match x.slot with | some i => (x.slots[i]?).map (·.2) | none => none) else none

/-- May the head order of queue `q` run at this moment, as its engine's partition goes (R189, R190)? -/
def State.entitled (s : State) (q : Nat) : Bool :=
  match (s.tpOf (q / 2)).now with
  | none => q % 2 == 0 || !s.runnable (q - 1)
  | some (w, lend) => w == q % 2 || (lend && !s.runnable (2 * (q / 2) + w))

/-- An order of engine `e` runs or drains. -/
def Phase.busy : Phase → Bool
  | .running | .closing => true
  | _ => false

def State.qBusy (s : State) (q : Nat) : Bool := match s.head q with | some x => x.run.phase.busy | none => false
def State.qRunning (s : State) (q : Nat) : Bool :=
  match s.head q with | some x => x.run.phase == .running | none => false

/-- The cause with which a running order leaves the engine within a slot or in open time, because the other world has a
runnable order: the end of a lent slot, or PREEMPT (R189, R190). -/
def State.leaveCause (s : State) (q : Nat) : Nat :=
  match (s.tpOf (q / 2)).now with
  | none => 3
  | some _ => 2

/-- The cause with which an order leaves at the end of what was in force before: SLOT, or LEND for one that ran in the
other world's slot (R187, R189). -/
def Tp.leave (x : Tp) (q : Nat) : Nat :=
  match x.now with
  | some (w, _) => if w = q % 2 then 1 else 2
  | none => 1

/-- A mode that refuses the engine's orders parks the head order, or replaces the cause of a park (R207, R208, R620); else
the running order of a queue that may no longer run suspends. -/
def State.settleQ (s : State) (q : Nat) : State :=
  if !s.modeRuns (q / 2) then s.suspend q 5
  else if s.qRunning q && !s.entitled q then s.suspend q (s.leaveCause q) else s

/-- Both queues of engine `e`. -/
def State.settle (s : State) (e : Nat) : State := (s.settleQ (2 * e)).settleQ (2 * e + 1)

/-- All engines. -/
def State.settleAll (s : State) : State := (List.range 16).foldl (fun s e => s.settle e) s

/-! ### Pairing -/

/-- Is world `w` paired on engine `e` (R279, R312)? -/
def State.paired (s : State) (e : Nat) (w : World) : Bool :=
  s.mode != 8 &&
  (if (s.reg rRepMstat).bit (3 + e) then (Tab.get natDefault s.engPair e).testBit w.idx
   else s.rb rRepMstat (match w with | .safety => fRepMstatSpair | .service => fRepMstatVpair))

/-- R150: the orders that never run twice. -/
def Op.once : Op → Bool
  | .arcappend | .arcread | .sealfeed => true
  | _ => false

/-- Does an order that starts now run with reprise (R279)? -/
def State.toReprise (s : State) (e : Nat) (w : World) (o : OrderD) : Bool :=
  !o.op.once && (o.reprise.isSome || (s.paired e w && o.split.isNone))

/-! ### Acceptance -/

/-- The address of a memory descriptor: absolute, or base register plus displacement (R76). -/
def State.descAddr (s : State) (e : Nat) (w : World) : Form → Option Int
  | .abs a => some a
  | .base r d => some (((s.rf (rEngObase e w.idx r) fEngObaseBase : Nat) : Int) + d)
  | _ => none

/-- The check ADDRESS of one descriptor (R76). -/
def State.addrBad (s : State) (e : Nat) (w : World) (o : OrderD) (d : Desc) : Bool :=
  match s.descAddr e w d.form with
  | none => false
  | some a =>
    let t := slotType o.op o.steps (ETy.ofCode o.ty) (ETy.ofCode o.tty) d.slot
    decide (a < 0 ∨ a ≥ 2 ^ 48) ||
    (d.slot != 4 && d.slot != 5 && decide (a.toNat % t.bytes ≠ 0))

/-- The check RELAY of one descriptor, given the descriptors before it (R77, R179). DESIGN CHOICE (log entry 184): an output to a
relay whose producer end a block holds is rejected with RELAY. -/
def State.relayBad (s : State) (w : World) (before : List Desc) (d : Desc) : Bool :=
  match d.form with
  | .relay r =>
    let out := decide (d.slot ≥ 6)
    !s.relayEn r || s.relayWorld r != w ||
    (if out then (s.relay r).prod.isSome || s.rf (rScpRlyctl r) fScpRlyctlPkind != 0 else (s.relay r).cons.isSome) ||
    before.any fun b => (decide (b.slot ≥ 6) == out) && (match b.form with | .relay k => k == r | _ => false)
  | _ => false

/-- The first descriptor that breaks RELAY. -/
def State.relayFirst (s : State) (w : World) : List Desc → List Desc → Option Desc
  | _, [] => none
  | before, d :: ds => if s.relayBad w before d then some d else s.relayFirst w (before ++ [d]) ds

/-- An order that binds relay ends, for the relay graph: queue, sequence number, relays consumed and produced. -/
structure RlyOrd where
  q : Nat
  seq : Nat
  ins : List Nat
  outs : List Nat
  rank : Nat
  deriving DecidableEq, Repr

def rlyOf (q seq : Nat) (xs : List (Nat × Option Nat)) : RlyOrd :=
  ⟨q, seq, xs.filterMap fun x => if x.1 < 6 then x.2 else none, xs.filterMap fun x => if x.1 < 6 then none else x.2, seq⟩

def Entry.rly (x : Entry) (q : Nat) : RlyOrd :=
  rlyOf q x.seq (x.strms.map fun y => (y.slot, match y.place with | .relay r => some r | _ => none))

/-- Is there a relay from `a` to `b`, bound at both ends (R184)? -/
def RlyOrd.feeds (a b : RlyOrd) : Bool := a.outs.any fun r => b.ins.contains r

/-- The edges between engines. -/
def relayEdges (os : List RlyOrd) : List (Nat × Nat) :=
  (os.map fun a => (os.filter a.feeds).map fun b => (a.q / 2, b.q / 2)).flatten

/-- Drop the edges into engines without an edge out; a graph of 16 nodes without a cycle is empty after 16 rounds. -/
def prune : Nat → List (Nat × Nat) → List (Nat × Nat)
  | 0, es => es
  | k + 1, es => prune k (es.filter fun e => es.any fun f => f.1 == e.2)

/-- Groups take the least sequence number of their members as rank. -/
def spread : Nat → List RlyOrd → List RlyOrd
  | 0, os => os
  | k + 1, os =>
    spread k (os.map fun a => { a with
      rank := os.foldl (fun m b => if a.feeds b || b.feeds a then min m b.rank else m) a.rank })

/-- The three conditions of R184 on a set of orders. -/
def relayOk (os : List RlyOrd) : Bool :=
  (prune 16 (relayEdges os)).isEmpty &&
  (let rs := spread os.length os
   rs.all fun a => rs.all fun b => !(a.q == b.q && decide (a.seq < b.seq)) || decide (a.rank < b.rank))

/-- The accepted, uncompleted orders that bind relay ends. -/
def State.relayOrders (s : State) : List RlyOrd :=
  ((List.range 32).map fun q => ((s.queue q).entries.map fun x => x.rly q).filter fun r => r.ins ≠ [] ∨ r.outs ≠ []).flatten

/-- The first check of R89, steps 3 to 6, that a decoded order fails: status and offset. DESIGN CHOICE (log entry 185): the offset of
MODE and QUEUE-FULL, which no byte of the order causes, is 0. -/
def State.checkOrder (s : State) (e : Nat) (w : World) (o : OrderD) : Option (Nat × Nat) :=
  if !s.engOn e then some (stMode, 0)
  else if w = .safety ∧ o.split.isSome then some (stPairing, o.split.getD 0)
  else if s.noComparators ∧ o.reprise.isSome then some (stPairing, o.reprise.getD 0)
  else
    match o.descs.find? (s.addrBad e w o) with
    | some d => some (stAddress, d.off)
    | none =>
      match s.relayFirst w [] o.descs with
      | some d => some (stRelay, d.off)
      | none =>
        let new := rlyOf (qOf e w) s.orderSeq
          (o.descs.map fun d => (d.slot, match d.form with | .relay r => some r | _ => none))
        if (new.ins ≠ [] ∨ new.outs ≠ []) ∧ !relayOk (s.relayOrders ++ [new]) then some (stCycle, 0)
        else if (s.queue (qOf e w)).entries.length ≥ 32 then some (1, 0)
        else none

/-- The streams of an accepted order. -/
def State.streams (s : State) (e : Nat) (w : World) (o : OrderD) : List Strm :=
  o.descs.map fun d => ⟨d.slot, match d.form with
    | .relay r => .relay r
    | .imm v => .imm v
    | f => .mem ((s.descAddr e w f).getD 0).toNat, d.wide, d.stride⟩

/-- More elements than any stream has: the count that a stream of unknown length may reach. -/
def anyCount : Nat := 2 ^ 40

/-- Segments that cover `n` elements, each of `c` (R125). -/
def segsOf (c n : Nat) : Nat := if c = 0 then anyCount else (n + c - 1) / c

/-- Segments that cover `n` elements, with the lengths of `size` bytes that stand from `a` on (R125). Zero lengths beyond the
last byte of memory that is not zero go on for ever. -/
def State.segsAt (s : State) (v : View) (size : Nat) (step : Int) : Nat → Int → Nat → Nat
  | 0, _, _ => 0
  | k + 1, a, n =>
    if n = 0 then 0
    else if a < 0 ∨ 2 ^ 48 ≤ a then 1
    else
      let len := ofLeBytes ((List.range size).map fun i => s.rawByte v (a.toNat + i))
      let top := match s.mem.getLast? with | some x => x.1 | none => 0
      if len = 0 ∧ 0 < step ∧ top < a.toNat then k + 1
      else 1 + s.segsAt v size step k (a + step) (n - len)

/-- Segments of a segmented order; a relay of lengths may give any number (R125, R142; log entry 31). -/
def State.segTotal (s : State) (q : Nat) (x : Entry) : Nat :=
  match x.strms.find? fun y => y.slot == 4 with
  | some ⟨_, .mem a, wide, st⟩ =>
    let v : View := .win (qWorld q) x.sup
    let size := if wide then 8 else 4
    if st.getD 1 = 0 then segsOf (ofLeBytes ((List.range size).map fun i => s.rawByte v (a + i))) x.n
    else s.segsAt v size (st.getD 1 * size) anyCount a x.n
  | some ⟨_, .imm c, _, _⟩ => segsOf c x.n
  | _ => anyCount

/-- Elements of A and I of SPMV as its last row pointer, the element `n` of B, gives them, and segments of a segmented order;
a relay of pointers may give any number (R125, R138, R142; log entry 31). -/
def State.rowTotal (s : State) (q : Nat) (x : Entry) : Nat :=
  if x.ord.op.segmented then s.segTotal q x
  else if x.ord.op == .spmv then
    (match x.strms.find? fun y => y.slot == 1 with
     | some ⟨_, .mem a, _, st⟩ =>
       let b := ((a : Int) + (x.n : Int) * (st.getD 1) * 8).toNat
       min (ofLeBytes ((List.range 8).map fun i => s.rawByte (.win (qWorld q) x.sup) (b + i))) anyCount
     | _ => anyCount)
  else 0

/-- Do the fixed input extents of the order meet the buffer of `n` bytes at `b`, which wraps in scratchpad? -/
def Entry.readsBuf (x : Entry) (b n : Nat) : Bool :=
  (x.extents fun sl => decide (sl < 6)).any fun i =>
    [b, b - 2 ^ 27].any fun b => decide (i.1 < ((b + n : Nat) : Int) ∧ (b : Int) < i.2)

/-- Is some input driven by an index (R308)? -/
def Op.indexIn : Op → Bool
  | .gather | .spmv => true
  | _ => false

/-- The frames of the world that an order reads as closed buffers, and whether it meets a filling one (R308). -/
def State.framesRead (s : State) (w : World) (x : Entry) : List Nat × Bool :=
  let fs := (List.range 16).filter fun f =>
    s.rb (rRepFrcfg f) fRepFrcfgEn && worldOf (s.rf (rRepFrcfg f) fRepFrcfgWorld) == w
  let meets (f b : Nat) : Bool := let (a, n) := s.frameBuf f b; x.readsBuf a n
  let filling := fs.any fun f => meets f (s.fillBuf f)
  if filling then ([], true)
  else (fs.filter fun f => s.rb (rRepFrstat f) fRepFrstatClosed &&
    (x.ord.op.indexIn || meets f (s.rf (rRepFrstat f) fRepFrstatClosedbuf)), false)

/-- Bind the relay ends of an order (R179); `rep` tells whether it runs with reprise, once it has started. -/
def State.bindRelays (s : State) (q : Nat) (x : Entry) (rep : Option Bool) : State :=
  x.strms.foldl (fun s y => match y.place with
    | .relay r => if y.slot < 6 then s.relayBindCons r q x.seq rep else s.relayBindProd r q x.seq (rep == some true)
    | _ => s) s

/-- Enter a checked order into its queue (R87, R179, R308). -/
def State.enqueue (s : State) (e : Nat) (w : World) (tag issuer : Nat) (sup : Bool) (desc : Option Nat) (o : OrderD) :
    State :=
  let q := qOf e w
  let n := match o.len with | .count n => n | .reg r => s.rf (rEngOlen e w.idx r) fEngOlenLen
  let x : Entry := ⟨o, s.streams e w o, n, s.rf (rEngOctl e w.idx) fEngOctlDefrnd, tag, issuer, sup, s.orderSeq, desc, [],
    0, Run.empty⟩
  let x := { x with nz := s.rowTotal q x }
  let (fs, filling) := s.framesRead w x
  let s := fs.foldl (fun s f => s.frameRead f) s
  let s := if filling then s.flt ⟨.rep, 0, 6, none, 0, 0, 0, false⟩ else s
  let s := s.bindRelays q x none
  let k := s.queue q
  let s := s.setQueue q { k with entries := k.entries ++ [{ x with frames := fs }], lastTag := tag }
  ({ s with orderSeq := s.orderSeq + 1 }).settle e

/-- Record a rejection in ENG.REJECT (R99). -/
def State.recordReject (s : State) (e : Nat) (w : World) (status off tag issuer : Nat) : State :=
  let a := rEngReject e w.idx
  if s.rb a fEngRejectValid then s.setRf a fEngRejectOver 1
  else ((((s.setRf a fEngRejectStatus status).setRf a fEngRejectOffset off).setRf a fEngRejectTag tag).setRf a
    fEngRejectSource issuer).setRf a fEngRejectValid 1

/-- Offer a decoded order, or its byte-level rejection, to a queue: the state, the issue status and its offset (R88,
R89, R99). -/
def State.offer (s : State) (e : Nat) (w : World) (tag issuer : Nat) (sup : Bool) (desc : Option Nat)
    (d : Except (Nat × Nat) OrderD) : State × Nat × Nat :=
  match d with
  | .error (st, off) => (s.recordReject e w st off tag issuer, st, off)
  | .ok o =>
    match s.checkOrder e w o with
    | some (st, off) => (if st = 1 then s else s.recordReject e w st off tag issuer, st, off)
    | none => (s.enqueue e w tag issuer sup desc o, 0, 0)

/-- FREE of the issue result (R83). -/
def State.qFree (s : State) (q : Nat) : Nat := 32 - (s.queue q).entries.length

/-- The issue result (R83). -/
def issueResult (status off free : Nat) : Nat := status + 2 ^ 8 * off + 2 ^ 16 * free

end Sys2Proof.Machine
end

