-- ==== Sys2Proof/Machine/Engine.lean ====
section
/-!
DEFINITION. The life of an order on its engine: start, progress record, resumption, completion (02, R91, R92; 05, R202 to
R234; 07, R279 to R301), and the comparison of signatures.
-/
namespace Sys2Proof.Machine

/-! ### Completion -/

/-- The latch of a world in REP.LATCH (R301, R332). -/
def latchBit (w : World) : FP := match w with | .safety => fRepLatchSlatch | .service => fRepLatchVlatch
def latchFails (w : World) : FP := match w with | .safety => fRepLatchSfails | .service => fRepLatchVfails
def State.latched (s : State) (w : World) : Bool := s.rb rRepLatch (latchBit w)

/-- Does an order that ends with this status count as failed for R148 (R220, R231, R301)? -/
def failedFor (status : Nat) (reprised : Bool) : Bool :=
  status == 8 || (reprised && (status == 4 || status == 7))

/-- Set the latch of a world and count the failure. -/
def State.setLatch (s : State) (w : World) : State :=
  (s.setRf rRepLatch (latchBit w) 1).satRf rRepLatch (latchFails w) 1

/-- The seal of an order at its completion (R148, R280): the state and whether the seal was refused. -/
def State.sealEnd (s : State) (q : Nat) (x : Entry) (status : Nat) : State × Bool :=
  match x.unit with
  | none => (s, false)
  | some u =>
    if (s.sea u).holder ≠ some q then (s, false)
    else
      let fine := status = 0 ∨ status = 2
      if x.ord.op == .sealfeed then
        (if fine then s.seaCloseNow u x.tag 1 else s.seaIdle u, false)
      else if fine ∧ x.run.reprised ∧ !s.latched (qWorld q) then (s.seaCloseNow u x.tag 1, false)
      else (s.seaIdle u, decide fine)

/-- Release the relay ends of an order (R173, R175, R179). -/
def State.freeRelays (s : State) (x : Entry) : State :=
  x.strms.foldl (fun s y => match y.place with
    | .relay r => if y.slot < 6 then s.relayFreeCons r else s.relayFreeProd r
    | _ => s) s

/-- Enter a completion in ENG.CPL and, unless DONE, ENG.CPLERR (R234, R239, R240). -/
def State.cplWrite (s : State) (e w tag status flags : Nat) : State :=
  let a := rEngCpl e w
  let s := (((s.setRf a fEngCplTag tag).setRf a fEngCplStatus status).setRf a fEngCplFlags flags).addRf a fEngCplCount 1
  if status = 0 then s
  else
    let b := rEngCplerr e w
    if s.rb b fEngCplerrValid then s.setRf b fEngCplerrOver 1
    else (((s.setRf b fEngCplerrTag tag).setRf b fEngCplerrStatus status).setRf b fEngCplerrFlags flags).setRf b
      fEngCplerrValid 1

/-- The order takes no more part in the engine: an ARCAPPEND that ends short leaves its record void (R513). -/
def State.voidRecord (s : State) (w : Nat) (acc : Nat) : State :=
  let x := s.log w
  s.setLog w { x with recs := x.recs.map fun r => if r.acc == acc then { r with void := true } else r }

/-- SUSPEND on queue `q` (R226): with no order, or a stopped one, it cannot act. -/
def State.suspendCmd (s : State) (q : Nat) : State :=
  match s.head q with
  | none => s.flt ⟨.eng, q / 2, 2, none, 0, 0, 0, false⟩
  | some x =>
    if x.run.stopped then s.flt ⟨.eng, q / 2, 2, none, 0, 0, 0, false⟩ else s.suspend q 6

/-- The bits that a producer has gathered for a relay when it ends early are part of its last block, as far as its
credits go and nothing refuses the write (R66, R175, R356, R360, R362). -/
def State.lastBits (s : State) (q : Nat) (x : Entry) (slot : Nat) : State :=
  match (x.strms.find? fun y => y.slot == slot) with
  | some ⟨_, .relay k, _, _⟩ =>
    if 0 < (s.relay k).room ∧ (s.relayRefuses (.win (qWorld q) x.sup) k false true 1).isNone then
      (flushBits false (s, x) slot).1
    else s
  | _ => s

/-- What a completion releases: a trap report for the last flags, relay ends, and frames (R92, R175, R210, R308). -/
def State.finishFree (s : State) (q : Nat) (x : Entry) : State :=
  let r := x.run
  let s := if r.blkFlags ≠ 0 then s.trapReport q x.tag r.blkFlags true else s
  let s := (s.lastBits q x 6).lastBits q x 7
  x.frames.foldl (fun s f => (s.frameUnread f).frameSettle f) (s.freeRelays x)

/-- What a completion with `status` reports: the latch, ORDERFAIL, PLAINLIM, a void record (R220, R231, R289, R301,
R513). -/
def State.finishNote (s : State) (q status : Nat) (x : Entry) : State :=
  let e := q / 2
  let w := qWorld q
  let r := x.run
  let s := if failedFor status r.reprised then s.setLatch w else s
  let s := if status = 8 then s.raise ⟨.eng, e, 1, some w, 0, x.tag, 0, false⟩ else s
  let lim := s.rf rRepPctl fRepPctlPlainlim
  let s := if lim ≠ 0 ∧ r.plainCount * 65536 > lim * x.n then
      s.flt ⟨.rep, (s.serving (s.engQuad e)).getD 0, 7, none, 0, x.tag, 0, false⟩ else s
  match r.arcRec with
  | some acc => if status = 0 then s else s.voidRecord w.idx acc
  | none => s

/-- The order leaves its queue: its completion shows, and its ring hears of it (R92, R234). -/
def State.finishLeave (s : State) (q status : Nat) (x : Entry) : State :=
  let e := q / 2
  let w := qWorld q
  let k := s.queue q
  let again := k.suspNext
  let s := s.setQueue q { k with entries := k.entries.tail, suspNext := false }
  let s := s.cplWrite e w.idx x.tag status x.run.flags.toNat
  let s := s.fire (128 + 2 * e + w.idx)
  let s := if status = 0 then s else s.arrive (256 + 6 * e + 3 * w.idx)
  let s := match x.desc with
    | some id => s.runOrderDone w.idx (x.issuer - 0x40) id x.tag status
    | none => s
  let s := if again then s.suspendCmd q else s
  s.settleAll

/-- The head order of queue `q` completes with `status` (R92, R175, R210, R220, R231, R234, R289, R301, R308). -/
def State.finish (s : State) (q status : Nat) : State :=
  match s.head q with
  | none => s
  | some x =>
    let (s, unsealed) := (s.finishFree q x).sealEnd q x status
    let status := if unsealed then 5 else status
    (s.finishNote q status x).finishLeave q status x

/-- Has the order nothing left to do but to complete (R233, R299)? -/
def Entry.over (x : Entry) : Bool :=
  let r := x.run
  r.phase == .running && r.pairs.isEmpty &&
  (match r.failed with
   | some _ => decide (r.perf.next ≤ r.rep.next)
   | none => decide (r.perf.next = x.n) && r.perf.fin && (!r.reprised || (decide (r.rep.next = x.n) && r.rep.fin)))

/-- The completion status of an order that is over (R126, R233, R299). -/
def Entry.endStatus (x : Entry) : Nat :=
  if x.run.failed.isSome then 4 else if x.run.perf.cut then 2 else 0

/-! ### Start -/

/-- Set the run of the head order. -/
def State.setHeadRun (s : State) (q : Nat) (r : Run) : State :=
  match s.head q with | some x => s.setHead q (x.setRun r) | none => s

/-- Trap enables, watchdog limit and interleave length as captured at start and every resumption (R210, R223, R281); the
precise policy is that of the start, or of the resumption by CONTINUE or PASS (`fresh`; R211, R232). -/
def State.capture (s : State) (q : Nat) (x : Entry) (fresh : Bool) : Run :=
  let e := q / 2
  let w := q % 2
  { x.run with
    phase := .running
    begun := true
    precise := if fresh then x.ord.precise || s.rb (rEngXctl e w) fEngXctlPrecise else x.run.precise
    trapen := BitVec.ofNat 5 (s.rf (rEngXctl e w) fEngXctlTrapen)
    wdLimit := s.rf (rEngWdog e w) fEngWdogLimit
    wdCount := 0
    wdSeen := s.portBytes x
    waited := false
    since := s.time
    resume := none
    kscale := none
    belows := if x.run.begun then x.run.belows else s.belows
    blockLen := s.blockLen { x with run := x.run } }

/-- Why an order ends at its start without processing an element (R56, R69, R145, R147, R148, R280). -/
def State.startEnd (s : State) (q : Nat) (x : Entry) : Option Nat :=
  let e := q / 2
  let w := qWorld q
  let foreign := match x.unit with | some u => s.seaWorld u != w | none => false
  if x.n = 0 then some 1
  else if s.noComparators ∧ x.ord.reprise.isSome then some 3
  else if x.ord.op == .arcappend ∧ x.n > arcLimit then some 6
  else if foreign then some 5
  else if x.ord.op == .sealfeed ∧ (s.latched w ∨ (w = .safety ∧ !s.paired e .safety)) then some 5
  else none

/-- The head order starts (R91, R148, R149, R176, R279). -/
def State.startOrder (s : State) (q : Nat) (x : Entry) : State :=
  match s.startEnd q x with
  | some st => s.finish q st
  | none =>
    let rep := s.toReprise (q / 2) (qWorld q) x.ord
    let s := match x.unit with | some u => s.seaHold u q 1 x.tag | none => s
    let s := s.bindRelays q x (some rep)
    let x := { x with nz := s.rowTotal q x }.setRun { x.run with reprised := rep }
    s.setHead q (x.setRun (s.capture q x true))

/-! ### The progress record -/

/-- Start of the record area in scratchpad (R217, R238). -/
def State.recArea (s : State) (q : Nat) : Nat := scpBase + s.rf (rEngPrbase (q / 2) (q % 2)) fEngPrbaseOffset * 8192

/-- Does the order keep all 32 partial values, only the carry, or none (R218)? -/
def OrderD.partsUsed (o : OrderD) : Nat :=
  match o.op with
  | .sum | .minr | .maxr | .andr | .orr | .xorr | .dot | .segsum | .segmin | .segmax | .segdot | .spmv => 32
  | .psum | .psumx | .segpsum | .linrec => 1
  | .scene => match o.steps.getLast? with
    | some d => (match d.op with | .sum | .minr | .maxr | .andr | .orr | .xorr | .dot => 32 | _ => 0)
    | none => 0
  | _ => 0

/-- The carry bytes that the order uses, by offset in the record area (R218). -/
def Entry.carry (x : Entry) : List (Nat × List Byte) :=
  let r := x.run
  if !r.begun then []
  else
    let k := x.ord.partsUsed
    let parts (o : Nat) (p : Pass) : List (Nat × List Byte) :=
      (List.range k).map fun t => (o + 16 * t, leBytes 16 (((p.parts[t]?).join).getD 0))
    let sigs (sl : Nat) : List (Nat × List Byte) :=
      let ps := (r.pend.filter fun p => p.1 == sl).take 256
      (List.range ps.length).zip ps |>.map fun y => (0x800 * (sl - 5) + 8 * y.1, leBytes 8 y.2.2.2)
    parts 0x40 r.perf ++
    (if r.reprised then parts 0x240 r.rep ++
      [(0x440, leBytes 8 r.perf.sigX.crc ++ leBytes 8 r.perf.sigY.crc ++ leBytes 8 r.rep.sigX.crc ++
        leBytes 8 r.rep.sigY.crc)] ++ sigs 6 ++ sigs 7
     else [])

/-- Words 0 to 6 of the record (R219). -/
def Entry.recWords (x : Entry) (seq : Nat) : List Nat :=
  let r := x.run
  let op := x.ord.op
  let seg := match op with | .segsum | .segmin | .segmax | .segdot | .segpsum => true | _ => false
  let comp := op == .compress || x.ord.steps.any fun d => d.op == .compress
  let stopF := r.cause == 8
  let addr := stopF || r.cause == 0xB || r.cause == 0xC
  [x.tag + 2 ^ 16 * r.cause + 2 ^ 20 + 2 ^ 21 * r.reprised.toNat + 2 ^ 22 * (!x.carry.isEmpty).toNat +
     2 ^ 23 * (stopF && r.fpass).toNat + 2 ^ 24 * r.flags.toNat + 2 ^ 29 * (if stopF then r.fslot else 0) +
     2 ^ 32 * (if stopF then r.fkind else 0) + 2 ^ 40 * seq,
   r.perf.next, if r.reprised then r.rep.next else 0, if addr then r.faddr else 0,
   if seg || comp then r.perf.out else 0,
   if seg || op == .expand || op == .spmv then r.perf.aux else 0,
   r.plainCount]

/-- CHECK over words and carry bytes in address order (R219; log entry 16). -/
def recCheck (words : List Nat) (carry : List (Nat × List Byte)) : Nat :=
  crc64Ecma.of ((words.map (leBytes 8)).flatten ++ (carry.map (·.2)).flatten)

/-- ENG.STOPREP, the stop cue and the stop interrupt (R234, R242). -/
def State.stopNews (s : State) (q : Nat) : State :=
  (s.fire (160 + 2 * (q / 2) + q % 2)).arrive (257 + 6 * (q / 2) + 3 * (q % 2))

/-! ### Resumption -/

/-- Is a resume action allowed after the recorded cause (R229)? -/
def Entry.mayResume (x : Entry) (action : Nat) : Bool :=
  let r := x.run
  let seg := match x.ord.op with | .segsum | .segmin | .segmax | .segdot | .segpsum => true | _ => false
  match action with
  | 1 => r.cause == 9
  | 2 => (r.cause == 8 && !(seg && r.fslot == 4)) || r.cause == 9 || r.cause == 0xA || r.cause == 0xB || r.cause == 0xC
  | _ => true

/-- The record of the head order as it stands in memory: its eight words and the carry bytes, or nothing where CHECK,
VALID or TAG does not hold, or where the memory code fails (R220). -/
def State.readRecord (s : State) (q : Nat) (x : Entry) : Option (List Nat) :=
  let a := s.recArea q
  let words := (List.range 8).map fun i => ofLeBytes (s.peek (a + 8 * i) 8)
  let carry := x.carry.map fun c => (c.1, s.peek (a + c.1) c.2.length)
  let w0 := nthD words 0
  if s.anyBad a 64 || x.carry.any (fun c => s.anyBad (a + c.1) c.2.length) then none
  else if recCheck (words.take 7) carry = nthD words 7 ∧ w0 / 2 ^ 20 % 2 = 1 ∧ w0 % 2 ^ 16 = x.tag then some words
  else none

/-- The uncorrectable word that the read of a record meets first is reported by the scratchpad (R356). -/
def State.recordUe (s : State) (q : Nat) (x : Entry) : State :=
  let a := s.recArea q
  let spans := (0, 64) :: x.carry.map fun c => (c.1, c.2.length)
  match (spans.map fun y => (unitsOf (a + y.1) y.2)).flatten.find? s.bad with
  | some u => s.memUe u
  | none => s

/-- A partial value as read back: an empty one stays empty. -/
def State.readParts (s : State) (a : Nat) (k : Nat) (ps : List (Option Nat)) : List (Option Nat) :=
  (List.range ps.length).zip ps |>.map fun y =>
    if y.1 < k then y.2.map fun _ => ofLeBytes (s.peek (a + 16 * y.1) 16) else y.2

/-- The run as the record and the carry area give it (R218 to R221). DESIGN CHOICE (log entry 191): the length of an open segment is
kept, not read again. -/
def State.loadRecord (s : State) (q : Nat) (x : Entry) (words : List Nat) : Run :=
  let a := s.recArea q
  let r := x.run
  let k := x.ord.partsUsed
  let f (i lsb w : Nat) : Nat := nthD words i / 2 ^ lsb % 2 ^ w
  let op := x.ord.op
  let seg := match op with | .segsum | .segmin | .segmax | .segdot | .segpsum => true | _ => false
  let comp := op == .compress || x.ord.steps.any fun d => d.op == .compress
  let relB := match (x.strms.find? fun y => y.slot == 1) with | some ⟨_, .relay _, _, _⟩ => true | _ => false
  let row (p : Pass) : Pass := if op == .spmv && !relB then { p with row := none } else p
  let sig (o : Nat) : Nat := ofLeBytes (s.peek (a + 0x440 + o) 8)
  let perf := { row r.perf with
    next := f 1 0 40
    out := if seg || comp then f 4 0 40 else r.perf.out
    aux := if seg || op == .expand || op == .spmv then f 5 0 40 else r.perf.aux
    parts := s.readParts (a + 0x40) k r.perf.parts }
  let r := { r with perf := perf, plainCount := f 6 0 40, flags := BitVec.ofNat 5 (f 0 24 5) }
  if !r.reprised then r
  else
    let rep := { row r.rep with next := f 2 0 40, parts := s.readParts (a + 0x240) k r.rep.parts }
    let perf := { r.perf with sigX := { r.perf.sigX with crc := sig 0 }, sigY := { r.perf.sigY with crc := sig 8 } }
    let rep := { rep with sigX := { rep.sigX with crc := sig 16 }, sigY := { rep.sigY with crc := sig 24 } }
    let one (sl : Nat) : List (Nat × Nat × Nat) :=
      let ps := r.pend.filter fun p => p.1 == sl
      (List.range ps.length).zip ps |>.map fun y =>
        (sl, y.2.2.1, if y.1 < 256 then ofLeBytes (s.peek (a + 0x800 * (sl - 5) + 8 * y.1) 8) else y.2.2.2)
    { r with perf := perf, rep := rep, pend := one 6 ++ one 7 }

/-- SKIP of an element that the performance has retired and the reprise has not: the performance goes back to that element,
to go on without it. With the run, the relay bytes that are again to be read (R230; log entry 149). -/
def Run.rewind (r : Run) (edge : Nat) : Run × List (Nat × Nat) :=
  let ahead := r.trail.takeWhile fun t => decide (edge ≤ t.perf.next)
  match ahead.getLast? with
  | some t =>
    if t.perf.next = edge then
      let kept (p : Nat × Nat × Nat) : Bool := (t.perf.sig p.1).started && decide (p.2.1 < (t.perf.sig p.1).blk)
      ({ r with perf := t.perf, flags := t.flags, blkFlags := t.blk, heldP := t.held, trail := r.trail.drop ahead.length,
                pend := r.pend.filter kept, shown := max r.shown r.perf.next }, ahead.flatMap (·.rel))
    else (r, [])
  | none => (r, [])

/-- The consumer's performance stands again before bytes that it has retired and its reprise has not. -/
def State.relayBack (s : State) (r n : Nat) : State :=
  let x := s.relay r
  s.setRelay r { x with posP := x.posP - n }

/-- SKIP (R229, R230): the boundary element of either pass, or the empty or closing segment whose result cannot be written,
is passed over from now on. -/
def Entry.skip (x : Entry) (r : Run) : Run × List (Nat × Nat) :=
  let rep := r.cause = 8 ∧ r.fpass
  let edge := if rep then r.rep.next else r.perf.next
  let noX := x.ord.op.segmented && x.ord.op != .segpsum && r.cause == 8 && r.fslot == 6
  let r := if noX then { r with skipSegs := r.perf.out :: r.skipSegs } else r
  let r := if noX && r.perf.segEnd.isNone && decide (edge < x.n) then r else { r with skips := edge :: r.skips }
  if rep then r.rewind edge else (r, [])

/-- The head order of `q`, parked or stopped with an action pending, goes on (R204, R220, R228 to R232). -/
def State.resumeOrder (s : State) (q : Nat) (x : Entry) : State :=
  let stopped := x.run.phase == .stopped
  let act := if stopped then x.run.resume.getD 0 else 0
  match s.readRecord q x with
  | none => (s.recordUe q x).finish q 8
  | some words =>
    if act = 3 then (s.setHead q (x.setRun { x.run with heldP := [], heldR := [] })).finish q 7
    else if !x.run.begun then s.startOrder q (x.setRun { x.run with resume := none })
    else
      let r := s.loadRecord q x words
      let (r, back) := if act = 2 then x.skip r else (r, [])
      let s := back.foldl (fun s y => s.relayBack y.1 y.2) s
      let x := x.setRun { r with passOne := act == 1 }
      s.setHead q (x.setRun (s.capture q x (stopped && decide (act < 2))))

/-- The switch loss of the slot boundary that still runs ends with the first read (R188, R194). -/
def State.noteLoss (s : State) (e : Nat) : State :=
  let x := s.tpOf e
  match x.mark with
  | some b =>
    let s := s.setTp e { x with mark := none }
    let loss := min (s.beats - b) 65535
    if s.rf (rEngTpstat e) fEngTpstatMaxloss < loss then s.setRf (rEngTpstat e) fEngTpstatMaxloss loss else s
  | none => s

/-- The head order of `q` starts or resumes where its queue is runnable and entitled and its engine is free (R91, R187,
R204, R228); an engine that waits for its new pairing changes first (R312). -/
def State.tryStart (s : State) (q : Nat) : State :=
  let other := if q % 2 = 0 then q + 1 else q - 1
  match s.head q with
  | none => s
  | some x =>
    if x.run.phase.busy || s.qBusy other || !s.runnable q || !s.entitled q || (s.reg rRepMstat).bit (3 + q / 2) then s
    else
      let s := s.noteLoss (q / 2)
      if x.run.phase == .queued then s.startOrder q x else s.resumeOrder q x

/-- ENG.RESUME (R228, R229). -/
def State.resumeCmd (s : State) (q action tag : Nat) : State :=
  let bad := s.flt ⟨.eng, q / 2, 2, none, 0, 0, 0, false⟩
  match s.head q with
  | none => bad
  | some x =>
    let r := x.run
    let stopped := r.phase == .stopped || (r.phase == .closing && decide (r.cause ≥ 6))
    if !stopped || x.tag ≠ tag || !x.mayResume action then bad
    else
      let s := s.setHead q (x.setRun { r with resume := some action })
      if r.phase == .stopped then (s.settle (q / 2)).tryStart q else s

/-- The engine writes the record and its carry area through a write port, which no window checks but a closed buffer
refuses (R217, R307, R360, R362); the order is parked or stopped (R202, R203, R208, R234). -/
def State.recordWritten (s : State) (q : Nat) : State :=
  match s.head q with
  | none => s
  | some x =>
    let r := x.run
    if r.phase ≠ .closing ∨ !r.pairs.isEmpty then s
    else
      let seq := satAdd r.recSeq 1 255
      let words := x.recWords seq
      let words := words ++ [recCheck words x.carry]
      let a := s.recArea q
      let s := s.pokeOwn (portCode q 6) .free a (words.map (leBytes 8)).flatten
      let s := x.carry.foldl (fun s c => s.pokeOwn (portCode q 6) .free (a + c.1) c.2) s
      let stop := decide (r.cause ≥ 6)
      let r := { r with phase := if stop then .stopped else .parked, recSeq := seq, words := words }
      let s := s.setHead q (x.setRun r)
      let s := if stop then s.stopNews q else s
      let s := s.settle (q / 2)
      if stop ∧ r.resume.isSome then s.tryStart q else s

/-! ### Comparison -/

/-- A mismatch (R299, R300, R323 to R325), on comparator `k`. -/
def State.mismatch (s : State) (q k : Nat) (x : Entry) (p : SigPair) : State :=
  let e := q / 2
  let w := qWorld q
  let s := s.satRf (rRepCcount k) fRepCcountMismatches 1
  let ph := s.engPhys e
  let s := s.setPhys ph { s.phys ph with errs := satAdd (s.phys ph).errs 1 65535, forward := true }
  let s := s.setRf rRepLatch (latchBit w) 1
  let a := rRepMmrep0 k
  let s := if s.rb a fRepMmrep0Valid then s.setRf a fRepMmrep0Over 1
    else
      let s := ((((s.setRf a fRepMmrep0Tag x.tag).setRf a fRepMmrep0Engine e).setRf a fRepMmrep0World w.idx).setRf a
        fRepMmrep0Slot (p.slot - 6)).setRf a fRepMmrep0Valid 1
      ((s.setRf (rRepMmrep1 k) fRepMmrep1Block p.blk).setRf (rRepMmsigp k) fRepMmsigpSig p.p).setRf (rRepMmsigr k)
        fRepMmsigrSig p.r
  let r := x.run
  let r := { r with failed := r.failed.or (some p) }
  let r := if r.phase = .closing then { r with phase := .running, cause := r.prev, resume := none } else r
  (s.setHead q (x.setRun r)).raise ⟨.rep, k, 1, some w, 0, x.tag, 0, false⟩

/-- The comparator decides the oldest pair of an order (R298, R299, R317); `err` is what faulty hardware changed in the
reprise signature. -/
def State.compare (s : State) (q err : Nat) : State :=
  match s.head q with
  | none => s
  | some x =>
    match x.run.pairs with
    | [] => s
    | p :: ps =>
      let x := x.setRun { x.run with pairs := ps }
      let s := s.setHead q x
      let p := { p with r := p.r ^^^ err }
      match s.serving (s.engQuad (q / 2)) with
      | none => s.mismatch q (s.engQuad (q / 2)) x p
      | some k =>
        let s := s.addRf (rRepCcount k) fRepCcountCompares 1
        if p.p ≠ p.r ∨ s.rb (rRepProofrep k) fRepProofrepMissed then s.mismatch q k x p else s

/-! ### Encore -/

/-- Can the order be given an encore (R302)? -/
def Entry.encorable (x : Entry) : Bool :=
  !(x.strms.any fun y => y.slot < 6 && (match y.place with | .relay _ => true | _ => false)) && !x.holds

/-- The understudy that runs the encore (R302): of the order's quadrant first. -/
def State.encoreSpare (s : State) (e : Nat) : Option Nat :=
  let qd := s.engQuad e
  let us := [5 * qd + 4] ++ [4, 9, 14, 19].filter fun p => p != 5 * qd + 4
  us.find? fun p => s.engFree p && s.encore.all fun en => en.phys != p

/-- The comparator whose REP.ENCREP reports an order's encore (R326). -/
def State.encInst (s : State) (e : Nat) : Nat := (s.serving (s.engQuad e)).getD (s.engQuad e)

def State.encReport (s : State) (e tag result phys : Nat) : State :=
  let a := rRepEncrep (s.encInst e)
  ((s.setRf a fRepEncrepTag tag).setRf a fRepEncrepResult result).setRf a fRepEncrepPhys phys

/-- The encore question of a failed order that is over (R302). -/
def State.encoreDecide (s : State) (q : Nat) : State :=
  match s.head q with
  | none => s
  | some x =>
    if !x.over || x.run.failed.isNone || x.run.encored || (s.encore.any fun en => en.q == q) ||
        !s.rb rRepPctl fRepPctlEncore then s
    else
      let e := q / 2
      let settled := s.setHead q (x.setRun { x.run with encored := true })
      if !x.encorable then settled.encReport e x.tag 6 0
      else match s.encoreSpare e with
        | none => settled.encReport e x.tag 7 0
        | some p => { s.encReport e x.tag 1 p with encore := s.encore ++ [⟨q, p⟩] }

/-- One unit of a rerun on a copy of the state: nothing that it writes counts, so neither room nor windows hold it up. -/
def State.dryUnit (s : State) (q : Nat) (x : Entry) : State :=
  match (⟨s, qWorld q, x, false⟩ : Env).next x.run.perf with
  | .ok e => s.retire q x false e
  | _ => s

/-- The signature of a block, once the performance of the head order has formed it. -/
def Run.formed (r : Run) (p : SigPair) : Option Nat :=
  (r.pend.find? fun z => z.1 == p.slot && z.2.1 == p.blk).map (·.2.2)

/-- The rerun until the block is formed, at the latest at the end of the order (R302; log entry 150). -/
def State.rerun (q : Nat) (p : SigPair) : Nat → State → State
  | 0, s => s
  | k + 1, s =>
    match s.head q with
    | none => s
    | some x =>
      if (x.run.formed p).isSome then s
      else
        let t := if x.run.perf.next < x.n then s.dryUnit q x
          else if x.run.perf.fin then s
          else match (⟨s, qWorld q, x, false⟩ : Env).finOuts x.run.perf with
            | some (outs, _) =>
              let r := { x.run with perf := { x.run.perf with fin := true } }
              let se := outs.foldl (fun se o => putOut (qWorld q) false se o) (s, x.setRun r)
              se.1.setHead q (closeSig false (closeSig false se.2 6) 7)
            | none => s
        if t.head q = some x then s else State.rerun q p k t

/-- The signature of the first mismatching block in a rerun (R302). -/
def State.encoreSig (s : State) (q : Nat) (x : Entry) (p : SigPair) : Option Nat :=
  let run := { Run.empty with phase := .running, begun := true, reprised := true, blockLen := x.run.blockLen,
                              skips := x.run.skips, skipSegs := x.run.skipSegs }
  ((State.rerun q p (2 ^ 50) (s.setHead q (x.setRun run))).head q).bind fun y => y.run.formed p

/-- An encore ends with `res`: the understudy is free, the encore question is settled. -/
def State.encoreOff (s : State) (en : Encore) (tag res : Nat) : State :=
  let s := { s with encore := s.encore.erase en }
  match s.head en.q with
  | some x => (s.setHead en.q (x.setRun { x.run with encored := true })).encReport (en.q / 2) tag res en.phys
  | none => s

/-- The oldest encore ends (R302, R326); `err` is what faulty hardware changed in its signature. -/
def State.encoreEndNow (s : State) (err : Nat) : State :=
  match s.encore with
  | [] => s
  | en :: rest =>
    match s.head en.q with
    | none => { s with encore := rest }
    | some x =>
      match x.run.failed with
      | none => { s with encore := rest }
      | some p =>
        let g := (s.encoreSig en.q x p).map fun v => v ^^^ err
        let res := match decide (g = some p.p), decide (g = some p.r) with
          | true, true => 5 | true, false => 2 | false, true => 3 | false, false => 4
        s.encoreOff en x.tag res

/-- A swap that needs the understudy ends its encore at once (R303). -/
def State.encorePreempt (s : State) (phys : Nat) : State :=
  match s.encore.find? fun en => en.phys == phys with
  | some en =>
    (match s.head en.q with
     | some x => s.encoreOff en x.tag 8
     | none => { s with encore := s.encore.erase en })
  | none => s

/-- Every encore ends, where the understudies lose power (R303; log entry 150). -/
def State.encoresEnd (s : State) : State := s.encore.foldl (fun s en => s.encorePreempt en.phys) s

/-- The order of queue `q` completes where it is over (R234, R302). -/
def State.complete (s : State) (q : Nat) : State :=
  let s := s.encoreDecide q
  match s.head q with
  | some x =>
    let encoring := s.encore.any fun en => en.q == q
    if x.over && (x.run.failed.isNone || x.run.encored || (!encoring && !s.rb rRepPctl fRepPctlEncore)) then
      s.finish q x.endStatus
    else s
  | none => s

end Sys2Proof.Machine
end

