-- ==== Sys2Proof/Machine/Wear.lean ====
section
/-!
DEFINITION. Wear and understudies (15): the events that mark a resource as worn (R595 to R598), the swap queue (R599 to
R602), and what a swap of each kind does (R603 to R611).
-/
namespace Sys2Proof.Machine

/-- A fault of the understudy manager with a resource index in DETAIL (R617). -/
def ustFlt (kind i : Nat) : Flt := ⟨.ust, 0, kind, none, 0, i, 0, false⟩

/-- The kind of swap that replaces a resource, as UST.SWAP codes it: 0 lane, 1 engine, 2 caller, 3 comparator, 4 seal
unit (R594, R616). -/
def swapKind (i : Nat) : Nat :=
  if i < 0x20 then 1 else if i < 0x30 then 2 else if i < 0x38 then 3 else if i < 0x40 then 4 else 0

/-- The resource of the kind of `j` that carries logical number `l` now. -/
def State.placeOf (s : State) (j l : Nat) : Option Nat :=
  match swapKind j with
  | 0 => s.carrier (j - (j - 0x100) % 0x40) 34 l
  | 1 => s.carrier 0 20 l
  | 2 => s.carrier 0x20 10 l
  | 3 => s.carrier 0x30 5 l
  | _ => s.carrier 0x38 8 l

/-- The AUTO bit of a kind of swap (R616). -/
def autoBit : Nat → Nat
  | 0 => 0 | 1 => 1 | 2 => 2 | 3 => 4 | _ => 5

/-- Physical resources that can stand in for resource `i`, in the order of R599: `want` is the one that a command
names. -/
def State.spares (s : State) (i : Nat) (want : Option Nat) : List Nat :=
  let cands : List Nat :=
    match swapKind i with
    | 0 => let p := (i - 0x100) / 0x40; (List.range 34).map (ixLane p)
    | 1 =>
      let home := (s.phys i).logical / 4
      let us := (List.range 20).filter fun p => p / 5 == home
      (us ++ (List.range 20).filter fun p => p / 5 != home).map ixEng
    | 2 => [ixCal 8, ixCal 9] ++ (List.range 8).map ixCal
    | 3 => [ixCmp 4]
    | _ => (List.range 8).map ixSea
  let base := match swapKind i with | 0 => i - (i - 0x100) % 0x40 | 1 => 0 | 2 => 0x20 | 3 => 0x30 | _ => 0x38
  cands.filter fun j => s.isFree j && (match want with | some p => j == base + p | none => true)

/-- Does a section or the caller of the resource run below 1 350 Mbeat/s (R611)? -/
def State.slow (s : State) (i : Nat) : Bool :=
  match swapKind i with
  | 1 => (List.range 4).any fun n => let x := s.phys (ixSect i n); decide (0 < x.upd ∧ x.rate < 1350)
  | 2 => let x := s.phys i; decide (0 < x.upd ∧ x.rate < 1350)
  | _ => false

/-- A worn resource stays in service for want of an understudy (R611); UNDERRATE is an event of CUS.CURTPOL (R633). -/
def State.noSpare (s : State) (i : Nat) : State :=
  let s := s.flt (ustFlt 2 i)
  let a := rUstSwapstat
  let s := ((s.setRf a fUstSwapstatKind (swapKind i)).setRf a fUstSwapstatResult 2).setRf a fUstSwapstatIndex i
  if s.slow i then
    let s := s.raise (ustFlt 3 i)
    if (s.reg rCusCurtpol).bit 1 then { s with cus := { s.cus with waitCurtain := true } } else s
  else s

/-- Does a planned engine migration still wait (R600)? After DEFERLIM it waits only for the safety order that runs: with DEFER
it never falls inside one (R609). -/
def State.deferred (s : State) (r : SwapReq) : Bool :=
  let q := 2 * (s.phys r.index).logical
  r.kind == 1 && !r.mandatory && s.rb rUstPolicy fUstPolicyDefer &&
  ((!r.late && !(s.queue q).entries.isEmpty) || s.qBusy q)

/-- Queue a swap of resource `i` (R600, R611): nothing for one that is pending, or with 16 pending. One that has to wait is
reported DEFERRED (R616). -/
def State.queueSwap (s : State) (i : Nat) (want : Option Nat) (mandatory : Bool) : State :=
  let q := s.ust.queue
  let k := swapKind i
  -- a lane without a free spare lane becomes an engine migration
  let i := if k = 0 ∧ (s.spares i want).isEmpty then (i - 0x100) / 0x40 else i
  if q.any fun r => r.index == i then s
  else if (s.spares i want).isEmpty then s.noSpare i
  else if q.length ≥ 16 then s
  else
    let r : SwapReq := ⟨swapKind i, i, want, mandatory, s.time, false⟩
    let s := { s with ust := { s.ust with queue := q ++ [r] } }
    if s.deferred r then s.setRf rUstSwapstat fUstSwapstatResult 4 else s

/-- Before the configuration commit of Call no swap starts (R602): the placement that holds skips resource `i`, whose
logical one moves to the first understudy that no waiting move takes (R21, R599, R626; log entry 153). -/
def State.skipWorn (s : State) (i : Nat) : State :=
  let l := (s.phys i).logical
  if s.cfg.moves.any fun m => m.2 == l && s.placeOf m.1 l == some i then s
  else match (s.spares i none).filter fun j => !s.cfg.moves.any fun m => m.1 == j with
    | j :: _ => { s with cfg := { s.cfg with moves := s.cfg.moves ++ [(j, l)] } }
    | [] => s.noSpare i

/-- In Call, before the placement of R612 is settled (R626)? -/
def State.placing (s : State) : Bool := s.mode == 2 && !s.cfg.placed

/-- A worn resource is replaced: before the commit of Call by the placement, then by a swap. -/
def State.replace (s : State) (i : Nat) (mandatory : Bool) : State :=
  if s.placing then s.skipWorn i else s.queueSwap i none mandatory

/-- The manager records a resource as worn (R596, R598): WORN, and the replacement that follows; a mandatory event of a
resource that is worn already brings the replacement that it still lacks. -/
def State.wear (s : State) (i : Nat) (mandatory : Bool) : State :=
  let fresh := !s.worn i
  let s := if fresh then (s.setRecOf i { s.recOf i with worn := true }).flt (ustFlt 1 i) else s
  if (s.phys i).logical = noLogical then s
  else if mandatory || (fresh && (s.placing || (s.reg rUstPolicy).bit (autoBit (swapKind i)))) then s.replace i mandatory
  else s

/-- DRIFTLIM as a signed bound (R596, R616). -/
def State.driftLim (s : State) : Int := (s.rf rUstPolicy fUstPolicyDriftlim : Nat)

/-- Does the resource index name a section, and a caller (R594)? -/
def isSect (i : Nat) : Bool := decide (0x800 ≤ i ∧ i < 0x850)
def isCal (i : Nat) : Bool := decide (0x20 ≤ i ∧ i < 0x2A)

/-- Does a beat monitor publish now: its resource is powered, and 10 µs have passed since its last reading (R157)? -/
def State.beatDue (s : State) (res : Nat) : Bool :=
  (isSect res || isCal res) && s.domOn (resDomain res) && decide ((s.phys res).beatAt + 10 ≤ s.time)

/-- The baseline that a window of ratio `ratio` leaves: its own where there is none and all of it lies after Call (R595). -/
def State.baseAfter (s : State) (res ratio : Nat) : Nat :=
  let b := (s.recOf res).base
  if b = 0 ∧ 3 ≤ s.mode ∧ s.cus.callEnd + 10 ≤ s.time then ratio else b

/-- DRIFT: the change of a ratio against the baseline `b` in 0.1 %, none without a baseline (R595). -/
def driftOf (b ratio : Nat) : Int := if b = 0 then 0 else Int.tdiv ((((ratio : Nat) : Int) - (b : Nat)) * 1000) (b : Nat)

/-- A beat monitor publishes (R157, R595 to R598): `res` names a section or a caller. -/
def State.beatUpdate (s : State) (res rate ratio : Nat) : State :=
  let sect := isSect res
  if !s.beatDue res then s
  else
    let b := (s.recOf res).base
    let s := s.setRecOf res { s.recOf res with base := s.baseAfter res ratio }
    let drift := driftOf b ratio
    let x := s.phys res
    let s := s.setPhys res { x with rate := rate, drift := wrapInt 16 drift, upd := x.upd + 1, beatAt := s.time }
    let owner := if sect then (res - 0x800) / 4 else res
    let quad := if sect then some (owner / 5) else if res < 0x28 then some ((res - 0x20) / 2) else none
    let mark (s : State) : State := if sect then s.setRecOf res { s.recOf res with worn := true } else s
    if rate < 1350 then
      let fresh := !s.worn res
      -- a rate that stays low is one event
      if !fresh && decide (0 < x.upd ∧ x.rate < 1350) then s else
      let s := (mark s).wear owner true
      match quad with
      | some q => if fresh then s.flt (Flt.plain .qad q 1) else s
      | none => s
    else if b ≠ 0 ∧ drift ≤ -s.driftLim then (mark s).wear owner false
    else s

/-- May the resource be tested now (R597): an engine with both queues empty, a caller in WAIT or not yet started (log entry
178)? Every feed of a seal unit is one command, so that a test always lies between two. -/
def State.testable (s : State) (i : Nat) : Bool :=
  let x := s.phys i
  if !isResource i || decide (0x800 ≤ i) then false
  else if x.logical = noLogical then true
  else match swapKind i with
    | 1 => (s.queue (2 * x.logical)).entries.isEmpty && (s.queue (2 * x.logical + 1)).entries.isEmpty
    | 2 => (s.cal x.logical).asleep || !(s.cal x.logical).on
    | 0 =>
      let e := (s.phys ((i - 0x100) / 0x40)).logical
      decide (e = noLogical) || ((s.queue (2 * e)).entries.isEmpty && (s.queue (2 * e + 1)).entries.isEmpty)
    | _ => true

/-- Has a mismatch brought the test forward, which tests every lane of its engine (R597)? -/
def State.forwarded (s : State) (i : Nat) : Bool :=
  (s.phys (if swapKind i = 0 ∧ i < 0x800 then (i - 0x100) / 0x40 else i)).forward

/-- Is a self-test of the resource due (R7, R597, R601, R630): in Rehearsal, after it has left service, when a mismatch has
brought it forward, and every PERIOD s while EN is 1? -/
def State.testDue (s : State) (i : Nat) : Bool :=
  let x := s.phys i
  s.mode == 3 || x.wait || s.forwarded i ||
  (s.rb rUstStctl fUstStctlEn && decide (x.tested + 1000000 * s.rf rUstStctl fUstStctlPeriod ≤ s.time))

/-- The test of resource `i` counts for the Rehearsal that runs (R630, R631). -/
def State.noteTest (s : State) (i : Nat) : State :=
  if s.mode = 3 ∧ !s.cus.tested.contains i then { s with cus := { s.cus with tested := i :: s.cus.tested } } else s

/-- A self-test ends (R596, R597). -/
def State.selfTest (s : State) (i : Nat) (pass : Bool) : State :=
  if !s.testable i || !s.domOn (resDomain i) || !s.testDue i then s
  else
    let s := s.noteTest i
    let x : Phys := { s.phys i with tested := s.time, forward := false }
    if pass then s.setPhys i { x with fail := false, wait := false }
    else
      let s := s.setPhys i { x with fail := true, wait := false, tests := satAdd x.tests 1 255 }
      (s.flt (ustFlt 6 i)).wear i true

/-! ### Swaps -/

/-- The modes in which swaps start (R602). -/
def State.swapMode (s : State) : Bool := match s.mode with | 3 | 4 | 5 | 6 | 7 | 11 => true | _ => false

/-- Has the swap begun? That of a caller spans commands (R606). -/
def State.begun (s : State) (r : SwapReq) : Bool := r.kind == 2 && (s.cal (s.phys r.index).logical).moving

/-- Does a swap that the manager could take wait: a planned migration, or a comparator's for the proof of comparator 4 (R317,
R600)? -/
def State.holdsBack (s : State) (r : SwapReq) : Bool :=
  s.deferred r || (r.kind == 3 && s.isFree (ixCmp 4) && !s.proven 4)

/-- The swap that the manager carries out next (R600): the one that has begun, else the first mandatory one, else the first
planned one. -/
def State.nextSwap (s : State) : Option SwapReq :=
  match s.ust.queue.find? s.begun with
  | some r => some r
  | none =>
    match s.ust.queue.find? fun r => r.mandatory && !s.holdsBack r with
    | some r => some r
    | none => s.ust.queue.find? fun r => !s.holdsBack r

def State.dropSwap (s : State) (i : Nat) : State :=
  { s with ust := { s.ust with queue := s.ust.queue.filter fun r => r.index != i } }

/-- The end of a swap (R610): UST.SWAPSTAT and the SWAP kind; `dur` in units of 0.1 µs. -/
def State.swapEnd (s : State) (kind i result dur : Nat) : State :=
  let a := rUstSwapstat
  let s := (((s.setRf a fUstSwapstatKind kind).setRf a fUstSwapstatIndex i).setRf a fUstSwapstatResult result).setRf a
    fUstSwapstatTime (min dur (2 ^ 32 - 1))
  s.flt (ustFlt 4 i)

/-- The logical resource of `i` moves to `j` (R603 to R607): the placement, and the record. -/
def State.moveRes (s : State) (i j : Nat) : State :=
  let l := (s.phys i).logical
  let s := s.setPhys j { s.phys j with logical := l }
  let s := s.setPhys i { s.phys i with logical := noLogical, wait := !s.worn i }
  let s := s.setRecOf j { s.recOf j with logical := l }
  s.setRecOf i { s.recOf i with logical := noLogical }

/-- A swap that finds no understudy: that of a lane becomes an engine migration, another is dropped (R600, R611). -/
def State.noPlace (s : State) (r : SwapReq) : State :=
  let s := s.dropSwap r.index
  if r.kind = 0 then s.queueSwap ((r.index - 0x100) / 0x40) none r.mandatory else s.noSpare r.index

/-- The understudy failed its test: it is worn; the swap waits for another or finds none (R611, R616). -/
def State.spareFails (s : State) (r : SwapReq) (j dur : Nat) : State :=
  let s := s.encorePreempt j
  let s := (s.setPhys j { s.phys j with fail := true }).wear j true
  let s := s.swapEnd r.kind r.index 3 dur
  if (s.spares r.index r.phys).isEmpty then s.noPlace r else s

/-- Carry out the next swap if it is of kind `kind`, of the resource that carries logical number `l`: `prep` readies it, and
where `ready` holds after that it ends; `act` moves what moves besides the placement, and `fin` goes on with the work,
given the state before. A swap that has begun runs to its end in any mode (R602). -/
def State.swapOne (s : State) (kind : Nat) (pass : Bool) (dur : Nat) (prep : State → Nat → State) (ready : State → Nat → Bool)
    (act : State → Nat → State) (fin : State → State → Nat → State) : State :=
  match s.nextSwap with
  | none => s
  | some r =>
    let l := (s.phys r.index).logical
    if r.kind ≠ kind ∨ !(s.swapMode || s.begun r) then s
    else match s.spares r.index r.phys with
      | [] => fin s (s.noPlace r) l
      | j :: _ =>
        let t := prep s l
        if !ready t l then t
        else if !pass then fin s (t.spareFails r j dur) l
        else fin s (((act ((t.encorePreempt j).moveRes r.index j) l).dropSwap r.index).swapEnd kind r.index 1 dur) l

/-- Nothing to do at this point of a swap. -/
def State.asIs (s : State) (_ : Nat) : State := s
def State.goesOn (_ s : State) (_ : Nat) : State := s

/-- Compare every pair that the comparator has received (R297, R604). -/
def State.drainPairs (q : Nat) : Nat → State → State
  | 0, s => s
  | k + 1, s =>
    match s.head q with
    | some x => if x.run.pairs.isEmpty then s else State.drainPairs q k (s.compare q 0)
    | none => s

/-- The head order of a queue that suspends reaches its boundary at once: comparisons end and the record is written
(R208, R297, R604). -/
def State.parkNow (s : State) (q : Nat) : State :=
  match s.head q with
  | some x => if x.run.phase == .closing then (State.drainPairs q x.run.pairs.length s).recordWritten q else s
  | none => s

/-- LANE_SWAP (R603): the spare lane takes the logical lane number between two elements. -/
def State.laneSwap (s : State) (pass : Bool) (dur : Nat) : State :=
  s.swapOne 0 pass dur State.asIs (fun _ _ => true) State.asIs State.goesOn

/-- The logical engine `e` parks for a move, and goes on after it (R604). A failed order runs to its end first (R300). -/
def State.parkEngine (s : State) (e : Nat) : State :=
  let failed (q : Nat) : Bool := s.qBusy q && (s.head q).any fun x => x.run.failed.isSome
  if failed (2 * e) || failed (2 * e + 1) then s
  else
    let s := (s.suspend (2 * e) 4).suspend (2 * e + 1) 4
    (s.parkNow (2 * e)).parkNow (2 * e + 1)
def State.resumeEngine (s : State) (e : Nat) : State := ((s.settle e).tryStart (2 * e)).tryStart (2 * e + 1)

/-- Does an order run on engine `e`? -/
def State.engBusy (s : State) (e : Nat) : Bool := s.qBusy (2 * e) || s.qBusy (2 * e + 1)

/-- The switch loss of a migration that an order ran before and after, as long as the swap took (R610; log entry 176): `dur` in
0.1 µs, in beats of the present microsecond. -/
def State.swapLoss (old s : State) (e dur : Nat) : State :=
  if old.engBusy e && s.engBusy e then
    let loss := min (dur * Config.beatsIn s.time / 10) 65535
    if s.rf (rEngTpstat e) fEngTpstatMaxloss < loss then s.setRf (rEngTpstat e) fEngTpstatMaxloss loss else s
  else s

/-- ENGINE_MIGRATION (R604, R605, R610): the running orders park with MIGRATE, the logical engine moves, the entitled
head order resumes. The lanes of the understudy carry the logical lanes by their own default. -/
def State.engineMigration (s : State) (pass : Bool) (dur : Nat) : State :=
  s.swapOne 1 pass dur State.parkEngine (fun s e => !s.engBusy e) (fun s e => s.satRf (rEngPlace e) fEngPlaceMigr 1)
    fun old s e => old.swapLoss (s.resumeEngine e) e dur

/-- SEAL_UNIT_SWAP (R554, R607): the state stays with the logical unit. -/
def State.sealUnitSwap (s : State) (pass : Bool) (dur : Nat) : State :=
  s.swapOne 4 pass dur State.asIs (fun _ _ => true) (fun s u => s.satRf (rSeaPlace u) fSeaPlaceMigr 1) State.goesOn

/-- COMPARATOR_SUBSTITUTION (R315, R317, R602, R607): comparator 4, free and proven, takes over quadrant `q`, for an unproven
comparator or by the queued swap whose turn it is; a queued swap that finds it taken ends. How long it takes, up to the
2 µs of R608, is open. -/
def State.comparatorSubst (s : State) (q : Nat) : State :=
  match s.serving q with
  | none => s
  | some k =>
    let i := ixCmp k
    let r := s.nextSwap.bind fun r => if r.index = i then some r else none
    if !s.swapMode then s
    else if s.isFree (ixCmp 4) then
      if s.proven 4 && (r.isSome || !s.proven k) then
        let (v, s) := s.takeFree
        ((s.moveRes i (ixCmp 4)).dropSwap i).swapEnd 3 i 1 (v.toNat % 21)
      else s
    else match r with
      | some r => s.noPlace r
      | none => s

/-- Has a swap waited DEFERLIM ms (R600)? -/
def State.expired (s : State) (r : SwapReq) : Bool :=
  decide (r.since + 1000 * s.rf rUstPolicy fUstPolicyDeferlim ≤ s.time)

/-- DEFER_EXPIRY (R600): the migrations that have waited DEFERLIM wait no longer. -/
def State.deferExpiry (s : State) : State :=
  { s with ust := { s.ust with queue := s.ust.queue.map fun r => { r with late := r.late || s.expired r } } }

/-- UST.SWAP (R601, R616) from the machine level: KIND, TARGET, LANE, PHYS. -/
def State.swapCmd (s : State) (kind target lane phys : Nat) : State :=
  let bad := s.locked .ust 0
  let idx : Option Nat :=
    match kind with
    | 0 => if target < 16 ∧ lane < 32 then
        (s.carrier 0 20 target).bind fun p => s.carrier (ixLane p 0) 34 lane else none
    | 1 => if target < 16 then s.carrier 0 20 target else none
    | 2 => if target < 8 then s.carrier 0x20 10 target else none
    | 3 => if target < 4 then s.carrier 0x30 5 target else none
    | 4 => if target < 6 then s.carrier 0x38 8 target else none
    | _ => none
  let want := if phys = 0x1F then none else some phys
  match idx with
  | none => bad
  | some i =>
    if (want.isSome ∧ (s.spares i want).isEmpty) ∨ s.ust.queue.length ≥ 16 then bad
    else s.queueSwap i want true

end Sys2Proof.Machine
end

