-- ==== Sys2Proof/Machine/EngCmd.lean ====
section
/-!
DEFINITION. The events of the engines (04, 05, 07): the units of each order, time partitions, the stall watchdog, relays,
comparator proofs, and what a write of an engine's or comparator's registers does.
-/
namespace Sys2Proof.Machine

/-- Up to `k` units of the head order of queue `q`, whose operation is `op`; an order that may not run any longer
suspends instead (R187, R189, R190, R205), but for one that has failed, which runs on to its end (R300). -/
def State.runOrder (s : State) (op : Op) (q k : Nat) : State :=
  match s.head q with
  | none => s
  | some x =>
    if x.ord.op ≠ op ∨ x.run.phase ≠ .running ∨ !s.ready (q / 2) then s
    else if x.run.failed.isSome then State.runUnits q k s
    else if !s.modeRuns (q / 2) then s
    else if !s.entitled q then s.settle (q / 2)
    else State.runUnits q k s

/-! ### Time partitions (R186 to R191) -/

/-- The slots of the table as the registers hold it. -/
def State.tpSlots (s : State) (e : Nat) : List (Nat × Nat × Bool) :=
  (List.range (s.rf (rEngTpctl e) fEngTpctlCount + 1)).map fun i =>
    (s.rf (rEngTpslot e i) fEngTpslotLen, s.rf (rEngTpslot e i) fEngTpslotWorld, s.rb (rEngTpslot e i) fEngTpslotLend)

/-- The slot that holds `d` µs after the start of the cycle. -/
def slotAt : List (Nat × Nat × Bool) → Nat → Nat → Option Nat
  | [], _, _ => none
  | (n, _, _) :: t, i, d => if d < n then some i else slotAt t (i + 1) (d - n)

/-- At a boundary the order that may no longer run leaves with the cause of what was in force before (R187, R189). -/
def State.tpLeave (s : State) (old : Tp) (q : Nat) : State :=
  if s.qBusy q && s.modeRuns (q / 2) && !s.entitled q then s.suspend q (old.leave q) else s

/-- The partition takes over `new`, another slot or another table: the outgoing order suspends, the incoming one starts; the
switch loss runs from here to the incoming order's start, where one order leaves for one of the other world (R187 to R190;
log entry 151). Between two slots of one world a switch that still runs goes on. -/
def State.tpMove (s : State) (e : Nat) (new : Tp) : State :=
  let old := s.tpOf e
  let same := match old.now, new.now with | some (w, _), some (x, _) => w == x | _, _ => false
  let s := s.setTp e { new with mark := if same then old.mark else none }
  let (a, b) := (2 * e, 2 * e + 1)
  let leaves (q : Nat) : Bool := s.qBusy q && !s.entitled q
  let comes (q : Nat) : Bool := s.runnable q && s.entitled q
  let switch := (leaves a && comes b) || (leaves b && comes a)
  let s := (s.tpLeave old a).tpLeave old b
  let s := if switch && !same then s.setTp e { s.tpOf e with mark := some s.beats } else s
  ((s.settle e).tryStart a).tryStart b

/-- TP_CYCLE_START (R186, R191): the registers' table comes into force at the start of a cycle; the running cycle ends
with the values that it started with. DESIGN CHOICES: CUT is set here (log entry 192), and until the first moment that meets a
changed CYCLE or PHASE the time is open (log entry 193). -/
def State.tpCycleStart (s : State) (e : Nat) : State :=
  let x := s.tpOf e
  let cyc := s.rf (rEngTpctl e) fEngTpctlCycle
  let here := decide (s.time % cyc = s.rf (rEngTpphase e) fEngTpphasePhase % cyc)
  if x.on && decide (s.time < x.start + x.cycle) then s
  else if !s.rb (rEngTpctl e) fEngTpctlEn then
    (if x.on then s.tpMove e Tp.empty else s)
  else if here then
    let ss := s.tpSlots e
    let s := if ss.foldl (fun n y => n + y.1) 0 > cyc then s.setRf (rEngTpstat e) fEngTpstatCut 1 else s
    s.tpMove e ⟨true, s.time, cyc, ss, some 0, none⟩
  else if x.on && x.slot.isSome then s.tpMove e { x with slot := none }
  else s

/-- TP_SLOT_BOUNDARY (R186, R187): the slot that the time gives. -/
def State.tpSlotBoundary (s : State) (e : Nat) : State :=
  let x := s.tpOf e
  if !x.on then s
  else
    let d := s.time - x.start
    let now := if d < x.cycle then slotAt x.slots 0 d else none
    if now = x.slot then s else s.tpMove e { x with slot := now }

/-! ### Stall watchdog (R223, R224) -/

/-- Does an archive order wait for the archive controller: for its record, for room in the staging buffer, for its commit
or for a byte to be read (R223, R512, R518)? -/
def State.arcWaits (s : State) (q : Nat) (x : Entry) : Bool :=
  let v : Env := ⟨s, qWorld q, x, false⟩
  let p := x.run.perf
  match x.ord.op with
  | .arcappend => if p.next < x.n then !v.recordOpen else (v.finOuts p).isNone
  | .arcread => (match v.unit p with | .wait => true | _ => false)
  | _ => false

/-- Does the watchdog count the order: its limit is on, it runs, and it does not wait for the archive (R223)? -/
def State.watched (s : State) (q : Nat) (x : Entry) : Bool :=
  x.run.phase == .running && x.run.wdLimit != 0 && !s.arcWaits q x

/-- STALL_WATCHDOG_EXPIRY (R224): data that have reached an input port since the last µs restart the count. -/
def State.stallExpiry (s : State) (q : Nat) : State :=
  match s.head q with
  | some x =>
    if s.watched q x && decide (0 < x.run.wdLimit) && decide (x.run.wdLimit ≤ x.run.wdCount) &&
        decide (s.portBytes x ≤ x.run.wdSeen) then s.suspend q 7
    else s
  | none => s

/-- One µs passes for the head order of a queue; data that have reached an input port since the last one restart the
count (R223). -/
def State.wdTick (s : State) (q : Nat) : State :=
  match s.head q with
  | some x =>
    if s.watched q x then
      let port := s.portBytes x
      let n := if x.run.wdSeen < port then 0 else x.run.wdCount + 1
      let s := s.setHead q (x.setRun { x.run with wdCount := n, wdSeen := port })
      let a := rEngWdstat (q / 2) (q % 2)
      if s.rf a fEngWdstatMaxstall < n then s.setRf a fEngWdstatMaxstall (min n (2 ^ 26 - 1)) else s
    else s
  | none => s

/-! ### Relays -/

/-- SCP.RLYFLUSH (R183). -/
def State.rlyFlush (s : State) (r : Nat) : State :=
  if s.rf (rScpRlyctl r) fScpRlyctlPkind ≠ 0 ∨ (s.relay r).bound then s.flt (Flt.plain .scp 0 1) else s.relayClear r

/-- Is a write of SCP.RLYCTLr that leaves `new` refused (R181)? -/
def State.rlyBusy (s : State) (r : Nat) (new : Word) : Bool :=
  let x := s.relay r
  x.bound || (!x.fills.isEmpty && (new ^^^ s.reg (rScpRlyctl r)).toNat % 2 ^ 63 != 0)

/-- What a write of SCP.RLYCTLr from `old` does beyond storing it (R180). -/
def State.rlyctlPost (s : State) (r : Nat) (old : Word) : State :=
  if s.relayEn r && !old.bit 63 then s.relayClear r else s

/-! ### Comparators -/

/-- A full proof ends (R314, R315, R317). -/
def State.fullProof (s : State) (k caught lane bitPos : Nat) : State :=
  if !s.cus.proofs.contains k then s
  else
    let s := { s with cus := { s.cus with proofs := s.cus.proofs.filter fun j => j != k } }
    let a := rRepProofrep k
    let caught := min caught 2048
    let s := ((s.setRf a fRepProofrepInjected 2048).setRf a fRepProofrepCaught caught).setRf a fRepProofrepDone 1
    if caught = 2048 then
      (s.setRf a fRepProofrepMissed 0).setRf (rRepCstat k) fRepCstatProven 1
    else
      let s := ((s.setRf a fRepProofrepMissed 1).setRf a fRepProofrepMisslane lane).setRf a fRepProofrepMissbit bitPos
      let s := s.setRf (rRepCstat k) fRepCstatProven 0
      (s.raise (Flt.plain .rep k 2)).wear (ixCmp k) true

/-- Does comparator `k` serve a quadrant (R322)? -/
def State.repActive (s : State) (k : Nat) : Bool := (s.phys (ixCmp k)).logical != noLogical

/-- Is the next periodic injection due (R7, R316): PROOFINT ms since the one before? -/
def State.proofDue (s : State) (k : Nat) : Bool :=
  decide (Tab.get natDefault s.cus.proofTime k + 1000 * s.rf rRepPctl fRepPctlProofint ≤ s.time)

/-- PERIODIC_PROOF (R316, R317): in Paired and Mixed a serving comparator checks one flipped bit; the position steps through
the 2 048 positions in turn, path by path (log entry 152). -/
def State.periodicProof (s : State) (k : Nat) (caught : Bool) : State :=
  if (s.mode ≠ 4 ∧ s.mode ≠ 5) ∨ !s.repActive k ∨ !s.proofDue k then s
  else
    let i := Tab.get natDefault s.cus.proofAt k
    let s := { s with cus := { s.cus with
      proofAt := Tab.set natDefault s.cus.proofAt k ((i + 1) % 2048)
      proofTime := Tab.set natDefault s.cus.proofTime k s.time } }
    if caught then s.setRf (rRepCstat k) fRepCstatPeriodic ((s.rf (rRepCstat k) fRepCstatPeriodic + 1) % 65536)
    else
      let a := rRepProofrep k
      let s := if s.rb a fRepProofrepMissed then s
        else ((s.setRf a fRepProofrepMissed 1).setRf a fRepProofrepMisslane (i / 64)).setRf a fRepProofrepMissbit (i % 64)
      let s := s.setRf (rRepCstat k) fRepCstatProven 0
      (s.raise (Flt.plain .rep k 2)).wear (ixCmp k) true

/-! ### Register writes -/

/-- A write of ENG.PRBASE (R238): not while the head order is parked or stopped. -/
def State.prbaseOk (s : State) (q : Nat) : Bool :=
  match s.head q with | some x => !x.run.parked && !x.run.stopped | none => true

/-- BADCMD of an engine (R228, R238). -/
def State.badCmd (s : State) (e : Nat) : State := s.flt ⟨.eng, e, 2, none, 0, 0, 0, false⟩

/-- Is a write of REP.FRCFGf that leaves `new` refused (R335)? -/
def State.frBusy (s : State) (f : Nat) (new : Word) : Bool :=
  let old := s.reg (rRepFrcfg f)
  let ch := (old ^^^ new).toNat % 2 ^ 35
  (old.bit 34 && decide (ch ≠ 0) && new.bit 34) ||
  (old.bit 34 && !new.bit 34 && s.rf (rRepFrstat f) fRepFrstatReaders != 0)

/-- What a write of REP.FRCFGf from `old` does beyond storing it (R335). -/
def State.frcfgPost (s : State) (f : Nat) (old : Word) : State :=
  if s.rb (rRepFrcfg f) fRepFrcfgEn && !old.bit 34 then
    let a := rRepFrstat f
    let s := ((s.setRf a fRepFrstatGen 0).setRf a fRepFrstatReaders 0).setRf a fRepFrstatClosed 0
    let s := (s.setRf a fRepFrstatClosedbuf 0).setRf a fRepFrstatDefer 0
    s.setFrame f FrameSt.empty
  else s

/-- FRCLOSE (R305, R334): a close by register of an enabled frame. -/
def State.frcloseReg (s : State) (f : Nat) : State := s.frameClose f

/-- FRAME_CLEAR_DONE (R309). -/
def State.frameClearDone (s : State) (f : Nat) : State := s.setFrame f { s.frame f with clearing := false }

end Sys2Proof.Machine
end

