-- ==== Sys2Proof/Machine/Archive.lean ====
section
/-!
DEFINITION. The archive (12): discovery of the attached flash, media events, colophon pages and commit, the opening of
records, release, audit, boot store, recovery, and the closes of Flush and Curtain (R499 to R531).
-/
namespace Sys2Proof.Machine

/-! ### Discovery (R499, R500) -/

/-- A target meets the conditions of R499 on its own. -/
def targetFits (t : NandTarget) : Bool :=
  t.answers && t.pageOk && t.onePass && t.timesOk && (t.planes == 2 || t.planes == 4 || t.planes == 6)

/-- The targets used, lowest first, out of those given with their numbers; `full` says that 16 TB are reached (R499,
R500). -/
def pickTargets : List (Nat × NandTarget) → List (Nat × NandTarget) → Nat → Bool → List (Nat × NandTarget)
  | [], used, _, _ => used
  | (i, t) :: ts, used, sum, full =>
    let alike := match used.head? with
      | some (_, u) => u.planes == t.planes && u.bits == t.bits
      | none => true
    if full ∨ !targetFits t ∨ !alike then pickTargets ts used sum full
    else if sum + t.rawGB ≤ 16000 then pickTargets ts (used ++ [(i, t)]) (sum + t.rawGB) false
    else pickTargets ts used sum true

/-- The archive's discovery and training at Call (R498 to R500): ARC.GEOM, ARC.TGTSTAT, and TARGET for each target that
is not used. -/
def State.arcDiscover (s : State) : State :=
  let all := (List.range 64).map fun i => (i, Config.nand i)
  let used := pickTargets all [] 0 false
  let s := all.foldl (fun s x =>
    if used.any fun u => u.1 == x.1 then
      if (s.tgt x.1).used then s else s.setTgt x.1 ⟨true, false, x.2.blocks.map fun b => ⟨b.bad, b.erases, 0⟩⟩
    else (s.setTgt x.1 { s.tgt x.1 with used := false, refused := true }).flt (arcFlt 8 x.1)) s
  let lp := !used.isEmpty && used.all fun u => u.2.lpddr4
  let rate := used.foldl (fun n u => min n (if lp then u.2.rateLpddr4 else u.2.rateDdr3)) (if lp then 2400 else 1600)
  let a := rArcGeom
  let s := ((s.setRf a fArcGeomTargets used.length).setRf a fArcGeomLpddr4 lp.toNat).setRf a fArcGeomRate rate
  let s := s.setRf a fArcGeomPlanes (match used.head? with | some u => u.2.planes | none => 0)
  let s := s.setRf a fArcGeomBits (match used.head? with | some u => u.2.bits | none => 0)
  let s := s.setRf a fArcGeomRawgb (used.foldl (fun n u => n + u.2.rawGB) 0)
  { s with arc := { s.arc with trained := true } }

/-- May NAND operations end: the archive is powered and trained, and has not stopped them (R526)? -/
def State.arcUp (s : State) : Bool := s.domOn 43 && s.arc.trained && !s.arc.dry

/-! ### Commit (R509, R510, R531) -/

/-- The page in progress of world `w` counts as programmed: its records are committed in order, channel 251 fires, and a page
that waits for its end starts (R508, R509, R510, R531). -/
def State.arcCommitPage (s : State) (w : Nat) : State :=
  let x := s.log w
  match x.page with
  | none => s
  | some r =>
    let s := s.setLog w { x with
      pages := x.pages ++ [r.page]
      page := none
      again := none
      recs := x.recs.filter fun q => !(r.page.cols.any fun c => c.acc == q.acc)
      voids := x.voids + (r.page.cols.filter fun c => c.void).length }
    let s := s.fire 251
    match x.again with
    | some cue => s.arcPage w cue
    | none => s

/-- 510 ready colophons start a page (R509). -/
def State.arcFull (s : State) (w : Nat) : State := if (s.log w).readyCols.length = 510 then s.arcPage w else s

/-- A page that has passed is committed once the data of its records are programmed, of which a retired block may have taken some
(R502, R509). -/
def State.arcSettle (s : State) (w : Nat) : State :=
  let x := s.log w
  match x.page with
  | some r =>
    if r.passed && x.recs.all fun q => x.recReady q || !(r.page.cols.any fun c => c.acc == q.acc) then
      (s.arcCommitPage w).arcFull w
    else s
  | none => s

/-- COLOPHON_TIMER (R509). -/
def State.colophonTimer (s : State) : State :=
  if s.arcUp && decide (s.arc.colAt + s.rf rArcCtl fArcCtlCommitint ≤ s.time) then
    let s := { s with arc := { s.arc with colAt := s.time } }
    (s.arcPage 0).arcPage 1
  else s

/-- A block of target `t` that a colophon page may lie in, which the manual does not name: a free one, else one that is not
retired. -/
def State.pageBlock (s : State) (t v : Nat) : Nat :=
  let good := (List.range (s.tgt t).blocks.length).filter fun b => !(s.blk t b).bad
  let bs := if (s.freeBlocks t).isEmpty then good else s.freeBlocks t
  bs.getD (v % bs.length) 0

/-- COLOPHON_PAGE_PROGRAMMED (R509, R510): both copies have passed; or one has failed, which is programmed again on a target of
another channel than the other. Which of two fails, and where the next one goes, is open. -/
def State.colophonDone (s : State) (w : Nat) (pass : Bool) : State :=
  let x := s.log w
  match x.page with
  | none => s
  | some r =>
    if !s.arcUp then s
    else if pass then (s.setLog w { x with page := some { r with half := true, passed := true } }).arcSettle w
    else
      let (v, s) := s.takeFree
      let (good, bad) := if !r.half && v.bit 0 then (r.t2, r.t1) else (r.t1, r.t2)
      let s := s.growBad bad (s.pageBlock bad (v.toNat / 2 % 65536))
      let x := s.log w
      s.setLog w { x with
        page := some { r with t1 := good, t2 := s.copyTarget good (v.toNat / 131072), half := true } }

/-! ### Media events (R501 to R503) -/

/-- End of the bytes that the log holds from `a` on, up to `b`: payload that an open record has not accepted ends
it. -/
def ArcLog.acceptedTo (x : ArcLog) (a b : Nat) : Bool :=
  decide (b ≤ x.nextPos) && x.recs.all fun r =>
    r.got == r.n || decide (b ≤ r.pos + 64 + r.got) || decide (r.pos + recLen r.n ≤ a)

/-- FOLIO_PROGRAM_DONE (R502, R503, R509, R520): the folio that ends at log position `upTo`, in the open block of target `t`.
Bytes programmed before are a relocation. -/
def State.folioDone (s : State) (w t upTo : Nat) (pass : Bool) : State :=
  let x := s.log w
  let f := s.folioSize
  let lo := upTo - f
  if !s.arcUp || !(s.tgt t).used || upTo = 0 || !x.acceptedTo lo upTo then s
  else match s.openBlock w t with
    | none => s
    | some b =>
      if !pass then s.growBad t b
      else
        let again := decide (upTo ≤ x.covered lo)
        let s' := s.addFolio w t b lo upTo
        let s' := { s' with arc := { s'.arc with
          prog := s'.arc.prog + f
          reloc := if again then s'.arc.reloc + f else s'.arc.reloc } }
        ((State.opFall s s').arcSettle w).arcFull w

/-- ERASE_DONE (R502, R503, R521): the lowest block of target `t` whose folios are all dead is erased and returns to the free pool,
or is retired. -/
def State.eraseDone (s : State) (t : Nat) (pass : Bool) : State :=
  let dead (b : Nat) : Bool := !(s.inBlock t b).isEmpty && (s.inBlock t b).all fun y => s.folioDead y.1 y.2
  if !s.arcUp || !(s.tgt t).used then s
  else match (List.range (s.tgt t).blocks.length).find? fun b => !(s.blk t b).bad && dead b with
    | none => s
    | some b =>
      let s := s.dropBlock t b
      if !pass then s.growBad t b
      else (s.setBlk t b ⟨false, (s.blk t b).erases + 1, 0⟩).levelWear t

/-- NAND_READ_DONE (R501, R502): the codeword at log position `pos` has been read from the folio that the map names, on target
`t`; `stage` is where the climb of the decode ladder ended. A read that went far up marks the folio for relocation. -/
def State.nandRead (s : State) (w t pos : Nat) (stage : NandStage) : State :=
  let x := s.log w
  match x.mapped pos with
  | none => s
  | some f =>
    if !s.arcUp || !(s.tgt t).used || f.tgt != t then s
    else
      let res := match stage with | .uncorrectable => 2 | _ => 1
      let far := match stage with | .retry step4 => step4 | .soft => true | _ => false
      let x := { x with reads := Tab.set natDefault x.reads (pos / 4096) res }
      let s := (s.setLog w (if far then x.mark fun g => g.seq == f.seq else x)).countRead t f.blk
      match stage with
      | .hard => s
      | .retry _ => s.satRf rArcRetry fArcRetryHard 1
      | .soft => s.satRf rArcRetry fArcRetrySoft 1
      | .uncorrectable =>
        (s.satRf rArcRetry fArcRetryUncorr 1).raise ⟨.arc, 0, 1, some (worldOf w), 0, t, pos % 2 ^ 48, false⟩

/-- RETAGE in µs, and with a further tenth of it (R502). -/
def State.retAge (s : State) : Nat := s.rf rArcMedia fArcMediaRetage * 3600000000
def State.retLate (s : State) : Nat := s.rf rArcMedia fArcMediaRetage * 3960000000

/-- The folio on target `t` that the map names for log position `pos`, if it is at least `age` µs old (R502). -/
def State.oldFolio (s : State) (w t pos age : Nat) : Option Folio :=
  ((s.log w).mapped pos).filter fun f => f.tgt == t && decide (f.time + age ≤ s.time)

/-- FOLIO_AGE_EXPIRY (R502): a folio of age RETAGE is to be relocated. -/
def State.folioAge (s : State) (w t pos : Nat) : State :=
  match s.oldFolio w t pos s.retAge with
  | some f => if s.arcUp && (s.tgt t).used then s.setLog w ((s.log w).mark fun g => g.seq == f.seq) else s
  | none => s

/-- RETENTION (R502): an aged folio has not been relocated within a further tenth of RETAGE. -/
def State.retentionLate (s : State) (w t pos : Nat) : State :=
  match s.oldFolio w t pos s.retLate with
  | some f => if s.domOn 43 && f.marked then s.flt (arcFlt 9 t) else s
  | none => s

/-- MAP_CHECKPOINT (R503, R520): the map is checkpointed each second, and ARC.THRU shows that second. -/
def State.mapCheckpoint (s : State) : State :=
  if !s.arcUp || decide (s.time < s.arc.mapAt + 1000000) then s
  else
    let p := s.arc.prog
    let s := (s.setRf rArcThru fArcThruMbps (p / 1000000)).setRf rArcThru fArcThruReloc
      (if p = 0 then 0 else s.arc.reloc * 1000 / p)
    State.dropRetired { s with arc := { s.arc with prog := 0, reloc := 0, mapAt := s.time, ckSeq := s.arc.seq } }

/-! ### Records of orders (R511, R518, R522) -/

/-- RECORD_OPEN (R511, R522): the started ARCAPPEND at the head of queue `q` opens its record, or waits. -/
def State.recordOpen (s : State) (q : Nat) : State :=
  let w := q % 2
  match s.head q with
  | none => s
  | some x =>
    if x.ord.op ≠ .arcappend ∨ x.run.phase ≠ .running ∨ x.run.arcRec.isSome then s
    else if !s.ready 30 || s.arc.closed || decide (16 ≤ (s.log w).recs.length) then s
    else if s.arcFree w < recLen x.n then
      if x.run.full then s else (s.setHead q (x.setRun { x.run with full := true })).flt (arcFlt 5 w)
    else
      let acc := (s.log w).nextAcc
      let s := s.arcOpen w x.n x.tag (q / 2)
      s.setHead q (x.setRun { x.run with arcRec := some acc, since := s.time, waited := false })

/-- Does the head order wait for the archive, at its start or for its commit (R518)? -/
def Entry.archiveWaits (x : Entry) : Bool :=
  x.run.phase == .running &&
  match x.ord.op with
  | .arcappend => x.run.arcRec.isNone || x.run.perf.next == x.n
  | .arcread => x.run.perf.next == 0
  | _ => false

/-- ARC_WAIT_LIMIT (R518): WAITLONG once for each wait. -/
def State.arcWaitLimit (s : State) (q : Nat) : State :=
  match s.head q with
  | none => s
  | some x =>
    if x.archiveWaits && !x.run.waited && decide (x.run.since + s.rf rArcWaitlim fArcWaitlimLimit < s.time) then
      (s.setHead q (x.setRun { x.run with waited := true })).flt (arcFlt 6 x.tag)
    else s

/-- The accession behind the last committed one. -/
def State.arcEnd (s : State) (w : Nat) : Nat :=
  match (s.log w).cols.getLast? with | some c => c.acc + 1 | none => 0

/-- A write of BELOW to ARC.RELEASEw (R522). -/
def State.arcRelease (s : State) (au : Auth) (w below : Nat) : State :=
  if !au.machine && au.view != .win (worldOf w) true then s.locked .arc 0
  else
    let x := s.log w
    if below < x.below then s.locked .arc 0
    else
      let v := min below (s.arcEnd w)
      let s := if below = v then s else s.logClamp au.src (rArcRelease w) 0 below false
      s.setLog w { s.log w with below := max x.below v }

/-! ### Audit (R523) -/

/-- The audit's holding of its seal unit (R149, R523). -/
def State.auditHold (s : State) : State :=
  match s.arc.audit with
  | some (n, u, false) =>
    if s.seaFree u then { s.seaHold u 32 2 0 with arc := { s.arc with audit := some (n, u, true) } } else s
  | _ => s

/-- GO = 1 to ARC.AUDIT (R523). -/
def State.auditStart (s : State) (count unit : Nat) : State :=
  if s.arc.audit.isSome then s.locked .arc 0
  else
    let a := rArcAudstat
    let s := ((s.setRf a fArcAudstatDone 0).setRf a fArcAudstatBad 0).setRf a fArcAudstatBusy 1
    { s with arc := { s.arc with audit := some (count, unit, false) } }.auditHold

/-- Audit one record of the log of world `v` in seal unit `u`. -/
def State.auditOne (s : State) (v u : Nat) (c : Colophon) : State :=
  let x := s.log v
  let code := crc64Ecma.of (x.read c.pos c.len)
  let readable := (cwOf c.pos c.len).all fun k => x.codeword k != 2
  let s := s.seaCloseVal u 0 2 code
  let s := s.addRf rArcAudstat fArcAudstatDone 1
  if readable && x.sound c && code == c.crc then s
  else (s.satRf rArcAudstat fArcAudstatBad 1).raise (sealFail (shelfmark v c.acc) 0)

/-- AUDIT_END (R523): the records from ARC.AUDFROM are audited; void and released ones are skipped. -/
def State.auditEnd (s : State) : State :=
  if !s.ready 30 || s.arc.dry then s
  else
    let s := s.auditHold
    match s.arc.audit with
    | some (n, u, true) =>
      let mark := (s.reg rArcAudfrom).toNat
      let v := mark / 2 ^ 47 % 2
      let x := s.log v
      let ok := mark / 2 ^ 48 == crc16.of (leBytes 6 (mark % 2 ^ 48))
      let todo := (x.cols.filter fun c => ok && !c.void && decide (mark % 2 ^ 47 ≤ c.acc) && !s.arcGone v c.acc x.below).take n
      let s := todo.foldl (fun s c => s.auditOne v u c) s
      let s := (s.seaIdle u).setRf rArcAudstat fArcAudstatBusy 0
      { s with arc := { s.arc with audit := none } }
    | _ => s

/-! ### Boot area (R530) -/

/-- A boot store ends; `ok` says that it has committed (R533). -/
def State.storeEnd (s : State) (ok : Bool) : State :=
  { (s.setRf rArcBootctl fArcBootctlBusy 0).setRf rArcBootctl fArcBootctlOk ok.toNat with arc := { s.arc with store := none } }

/-- GO = 1 to ARC.BOOTCTL from the machine level; an archive that is closed accepts reads only (R529; log entry 182). -/
def State.bootStore (s : State) (len : Nat) (copy : Bool) : State :=
  if s.rb rArcBootctl fArcBootctlBusy then s.locked .arc 0
  else if len = 0 then s
  else if s.arc.closed && s.ready 30 then s.locked .arc 0
  else
    { s.setRf rArcBootctl fArcBootctlBusy 1 with
      arc := { s.arc with store := some (s.rf rArcBootsrc fArcBootsrcAddr, len, copy) } }

/-- The image `img` becomes the newest record of boot log `l` and is committed by a page of its own (R507 to R510, R530). -/
def State.bootRecord (s : State) (l : Nat) (img : List Byte) : State :=
  let x := s.log l
  let s := s.openRec l 2 img.length 0 0
  let s := img.foldl (fun s b => s.arcAppendByte l x.nextAcc b) s
  let y := s.log l
  let cs := (y.recs.filter fun r => r.acc == x.nextAcc).map y.colophon
  let t := 4 * (l - 2)
  (s.setLog l { y with page := some ⟨y.newPage l s.time cs, t, t, true, true, false⟩ }).arcCommitPage l

/-- BOOT_STORE_DONE (R530): the image is read without windows, once its memory is up (R680), and committed in its
copy, which stands on target 0 or 4. -/
def State.bootStoreDone (s : State) (pass : Bool) : State :=
  match s.arc.store with
  | none => s
  | some (a, n, copy) =>
    if !s.arcUp || !s.spanReady a n then s
    else
      let (s, r) := if pass && !s.arc.closed && (s.tgt (4 * copy.toNat)).used then s.readMem Paths.plain .free a n
        else (s, .ok [])
      match r with
      | .error _ => s.storeEnd false
      | .ok [] => s.storeEnd false
      | .ok img => (s.bootRecord (2 + copy.toNat) img).storeEnd true

/-- The newest committed image of a boot copy, with its colophon (R530). -/
def State.bootNewest (s : State) (copy : Bool) : Option (Colophon × List Byte) :=
  let x := s.log (2 + copy.toNat)
  x.cols.getLast?.map fun c => (c, x.read (c.pos + 64) (x.payLen c))

/-! ### Recovery (R524, R525) -/

/-- What is programmed and read of a log whose positions from `pos` on are free again: a folio that reaches over `pos`
ends there; one behind it holds nothing (R524). -/
def ArcLog.cutAt (x : ArcLog) (pos : Nat) : ArcLog :=
  { x with
    folios := x.folios.map fun f => { f with lo := min f.lo pos, hi := min f.hi pos }
    reads := x.reads.filter fun c => decide (c.1 * 4096 < pos) }

/-- The unbroken sequence of valid pages, from page `k` on (R524). -/
def validPages : Nat → List ColPage → List ColPage
  | _, [] => []
  | k, p :: ps => if p.seq = k ∧ p.crc = p.code then p :: validPages (k + 1) ps else []

/-- A page whose programming lost its supply counts if one of its copies is valid (R524). -/
def State.recoverPage (s : State) (w : Nat) : State :=
  let x := s.log w
  match x.page with
  | none => s
  | some r =>
    if r.half || Config.pageHeld w r.page.seq then
      s.setLog w { x with
        pages := x.pages ++ [r.page]
        page := none
        recs := x.recs.filter fun q => !(r.page.cols.any fun c => c.acc == q.acc)
        voids := x.voids + (r.page.cols.filter fun c => c.void).length }
    else s.setLog w { x with page := none }

/-- The log of a world is cut to its last valid colophon (R524). -/
def State.arcCut (s : State) (w : Nat) : State :=
  let s := s.recoverPage w
  let x := s.log w
  let x := { x with pages := validPages 0 x.pages }
  let (acc, pos) := match x.cols.getLast? with | some c => (c.acc + 1, c.pos + c.len) | none => (0, 0)
  let lost := x.recs.length
  let s := s.setLog w (({ x with recs := [], again := none, nextAcc := acc, nextPos := pos }).cutAt pos)
  let s := (s.satRf rArcRecov fArcRecovDiscarded lost).satRf rArcRecov fArcRecovVoids x.voids
  if lost ≠ 0 ∨ x.voids ≠ 0 then s.flt (arcFlt 7 w) else s

/-- Is the device in Flush or on its way there, where the archive stays closed (R528)? -/
def State.inFlush (s : State) : Bool := s.mode == 10 || s.cus.target == some 10

/-- ARCHIVE_RECOVERY (R524): of a trained archive that has not come up, outside Flush (R528). The map needs no scan here: it is
what the metadata of the folios give (ArcLog.mapped). -/
def State.arcRecovery (s : State) : State :=
  if !s.domOn 43 || !s.arc.trained || s.arc.scanned || s.ready 30 || s.inFlush then s
  else
    let a := rArcRecov
    let s := s.setRf a fArcRecovDone 0
    let s := ((s.setRf a fArcRecovDiscarded 0).setRf a fArcRecovVoids 0).setRf a fArcRecovOrderly s.arc.orderly.toNat
    let s := (s.arcCut 0).arcCut 1
    { s with arc := { s.arc with scanned := true } }

/-- RECOVERY_DONE (R525, R531); in Curtain the archive then accepts reads only (R529). -/
def State.arcRecovered (s : State) (ms : Nat) : State :=
  if !s.arc.scanned || !s.domOn 43 || s.inFlush then s
  else
    let s := (s.setRf rArcRecov fArcRecovDone 1).setRf rArcRecov fArcRecovMs ms
    let s := s.setRf rCusReady ⟨30, 1⟩ 1
    let reads := s.mode == 9 || s.cus.target == some 9
    { s with arc := { s.arc with scanned := false, closed := reads, dry := false, orderly := false } }.fire 251

/-! ### Closes (R526, R529) -/

/-- The colophons of every open record in accession order: sealed where `whole` holds of it, else VOID. -/
def ArcLog.lastCols (x : ArcLog) (whole : ArcRec → Bool) : List Colophon :=
  x.recs.map fun r => x.colophon { r with void := r.void || !whole r }

/-- The final colophon page of world `w`; a page that runs counts first (R526). -/
def State.arcFinal (s : State) (w : Nat) (whole : ArcLog → ArcRec → Bool) : State :=
  let s := s.arcCommitPage w
  let x := s.log w
  if x.recs = [] then s else s.startPage w (x.lastCols (whole x)) false

/-- Up to `k` folios of log `w` from position `lo` to `hi` are programmed on used targets, which the manual leaves open. -/
def State.programRest (s : State) (w hi : Nat) : Nat → Nat → State
  | 0, _ => s
  | k + 1, lo =>
    if hi ≤ lo then s
    else
      let (v, s) := s.takeFree
      let t := s.usedTargets.getD (v.toNat % s.usedTargets.length) 0
      match s.openBlock w t with
      | none => s
      | some b =>
        let upTo := min hi (lo + s.folioSize)
        State.programRest (s.addFolio w t b lo upTo) w hi k upTo

/-- The remaining folios of every record of log `w` whose payload is complete are programmed (R512, R529). -/
def State.programWhole (s : State) (w : Nat) : State :=
  (s.log w).recs.foldl (fun s r =>
    let lo := (s.log w).covered r.pos
    let hi := r.pos + recLen r.n
    if r.got = r.n then s.programRest w hi ((hi - lo) / s.folioSize + 1) lo else s) s

/-- The close of R529 in log `w`: what complete records still need is programmed, they are sealed, and the others get a VOID
colophon. -/
def State.closeLog (s : State) (w : Nat) : State :=
  let s := (s.programWhole w).arcFinal w fun x r => x.recReady r
  let s := s.arcCommitPage w
  s.setLog w { s.log w with voids := 0 }

/-- The close of R529, at Curtain entry and before the archive is switched off; the close is orderly, and the map is checkpointed
(R503). A boot store in progress ends without a record. -/
def State.arcClose (s : State) : State :=
  if !s.ready 30 || s.arc.closed then { s with arc := { s.arc with closed := true } }
  else
    let s := (s.closeLog 0).closeLog 1
    let s := if s.arc.store.isSome then s.storeEnd false else s
    { s with arc := { s.arc with closed := true, orderly := true, ckSeq := s.arc.seq } }

/-- FLUSH_FINAL_COLOPHON (R526). -/
def State.flushFinal (s : State) : State :=
  if s.mode ≠ 10 ∨ !s.arcUp ∨ !s.ready 30 ∨ s.arc.final then s
  else
    let whole : ArcLog → ArcRec → Bool := fun x r => x.recReady r
    let s := (s.arcFinal 0 whole).arcFinal 1 whole
    { s with arc := { s.arc with final := true } }

end Sys2Proof.Machine
end

