-- ==== Sys2Proof/Machine/Links.lean ====
section
/-!
DEFINITION. The link block (13, R535 to R548, R560, R561): link state, frames from the wire, Askust telegrams in both
directions, gPTP, gates and MACsec associations.
-/
namespace Sys2Proof.Machine

/-- Big-endian numbers (R538). -/
def beBytes (n x : Nat) : List Byte := (leBytes n x).reverse
def ofBeBytes (bs : List Byte) : Nat := ofLeBytes bs.reverse
def beAt (bs : List Byte) (o n : Nat) : Nat := ofBeBytes ((bs.drop o).take n)

def lnkFlt (p kind detail : Nat) : Flt := ⟨.lnk, p, kind, none, 0, detail, 0, false⟩

/-! ### Port state -/

def wordZero (_ : Nat) : Word := 0
def assocDefault (_ : Nat) : Option Assoc := none
def ptpDefault (_ : Nat) : PtpSt := PtpSt.empty
def gateDefault (_ : Nat) : GateSt := GateSt.empty
def meterDefault (_ : Nat) : Option (Nat × Nat) := none
def wireDefault (_ : Nat) : List (Option Nat × List Byte) := []
def rxqDefault (_ : Nat) : List (Nat × List Byte × Nat) := []
def txqDefault (_ : Nat) : List (Nat × List Byte) := []
def bytesDefault (_ : Nat) : List Byte := []

def State.setLnk (s : State) (x : LnkSt) : State := { s with lnk := x }

/-- Count in port counter `i` (R561). -/
def State.portCount (s : State) (p i : Nat) : State :=
  let k := 16 * p + i
  s.setLnk { s.lnk with cnt := Tab.set natDefault s.lnk.cnt k ((Tab.get natDefault s.lnk.cnt k + 1) % 2 ^ 48) }

/-- LNK.CNT of port `p`: counters 11 to 15 read zero (R561). -/
def State.portCnt (s : State) (p : Nat) : Nat :=
  let i := s.rf (rLnkCntsel p) fLnkCntselIndex
  if i < 11 then Tab.get natDefault s.lnk.cnt (16 * p + i) else 0

/-- The port is in use, powered and has come up (R625, R637). -/
def State.portOn (s : State) (p : Nat) : Bool :=
  s.domOn 44 && s.ready (31 + p) && s.rb (rLnkPctl p) fLnkPctlEn && !s.cus.curtain

def State.linkIsUp (s : State) (p : Nat) : Bool := s.portOn p && s.rb (rLnkPstat p) fLnkPstatLinkup

/-- Does R535 allow the FEC at the speed? -/
def fecOk (speed fec : Nat) : Bool :=
  match speed with
  | 0 => fec == 0
  | 1 => fec == 0 || fec == 1
  | 2 => fec == 1 || fec == 2
  | _ => false

/-- May the link run at this speed with this FEC: without auto-negotiation only as PCTL selects, but for an FEC that R535 does not
allow, which is not used (R535, R536, R559)? -/
def State.linkMay (s : State) (p speed fec : Nat) : Bool :=
  let a := rLnkPctl p
  let sel := s.rf a fLnkPctlFec
  fecOk speed fec && (s.rb a fLnkPctlAn || (speed == s.rf a fLnkPctlSpeed && (!fecOk speed sel || fec == sel)))

/-- LINK_UP (R535, R536). -/
def State.linkUp (s : State) (p speed fec : Nat) : State :=
  if !s.portOn p || !s.linkMay p speed fec then s
  else
    let a := rLnkPstat p
    ((s.setRf a fLnkPstatLinkup 1).setRf a fLnkPstatSpeed speed).setRf a fLnkPstatFec fec

/-- LINKDOWN (R536). -/
def State.linkDown (s : State) (p : Nat) : State :=
  let a := rLnkPstat p
  if !s.rb a fLnkPstatLinkup then s
  else
    let s := ((s.setRf a fLnkPstatLinkup 0).setRf a fLnkPstatSpeed 0).setRf a fLnkPstatFec 0
    s.flt (lnkFlt p 2 p)

/-! ### gPTP (R535, R537) -/

def State.ptp (s : State) (p : Nat) : PtpSt := Tab.get ptpDefault s.lnk.ptp p
def State.setPtp (s : State) (p : Nat) (x : PtpSt) : State :=
  s.setLnk { s.lnk with ptp := Tab.set ptpDefault s.lnk.ptp p x }

def State.synced (s : State) (p : Nat) : Bool := s.rb (rLnkPtpstat p) fLnkPtpstatSync
def State.ptpTime (s : State) (p : Nat) : Nat := (s.reg (rLnkPtptime p)).toNat

/-- The port stops being synchronised (R537). -/
def State.unsync (s : State) (p : Nat) : State :=
  let s := s.setPtp p { s.ptp p with good := 0 }
  if s.synced p then (s.setRf (rLnkPtpstat p) fLnkPtpstatSync 0).flt (lnkFlt p 3 p) else s

/-- gPTP runs on the port. -/
def State.ptpOn (s : State) (p : Nat) : Bool := s.linkIsUp p && s.rb (rLnkPtpctl p) fLnkPtpctlEn

/-- Does a message of domain `d` concern the port (R535, R559)? -/
def State.ptpTakes (s : State) (p : Nat) (d : BitVec 8) : Bool :=
  s.ptpOn p && s.rf (rLnkPtpctl p) fLnkPtpctlDomain == d.toNat

/-- Is this the master that the port follows: the best one of those that have announced themselves, or any while none has
(R535)? -/
def PtpSt.follows (x : PtpSt) (master : Word) : Bool := match x.best with | some (_, m) => m == master | none => true

/-- SYNC (R537) of the domain and the master that the port follows (R535): the port time, its offset (signed, in ns) and the
announced interval in µs. -/
def State.gptpSync (s : State) (p : Nat) (m : SyncMsg) (offset interval : Nat) : State :=
  if !s.ptpTakes p m.domain || !(s.ptp p).follows m.master then s
  else
    let s := (s.setReg (rLnkPtptime p) m.time).setRf (rLnkPtpstat p) fLnkPtpstatOffset offset
    let x : PtpSt := { s.ptp p with interval := interval, last := s.time }
    if (toSigned 32 offset).natAbs ≤ s.rf (rLnkPtpctl p) fLnkPtpctlSynclim then
      let s := s.setPtp p { x with good := min 4 (x.good + 1) }
      if 4 ≤ x.good + 1 then s.setRf (rLnkPtpstat p) fLnkPtpstatSync 1 else s
    else (s.setPtp p x).unsync p

/-- ANNOUNCE (R535): the best master selection keeps the lowest priority vector. -/
def State.announce (s : State) (p : Nat) (msg : AnnounceMsg) (master : Word) : State :=
  let priority := msg.priority
  if !s.ptpTakes p msg.domain then s
  else
    let x := s.ptp p
    let better := match x.best with
      | none => true
      | some (q, m) => m == master || decide (priority.toNat < q.toNat) ||
          (priority == q && decide (master.toNat < m.toNat))
    if better then s.setPtp p { x with best := some (priority, master) } else s

/-- PDELAY_RESP (R535). -/
def State.pdelay (s : State) (p delay : Nat) : State :=
  if s.ptpOn p then s.setPtp p { s.ptp p with delay := delay } else s

/-- SYNC_TIMEOUT (R537): no Sync for three announced intervals. -/
def State.syncTimeout (s : State) (p : Nat) : State :=
  let x := s.ptp p
  if x.last + 3 * x.interval ≤ s.time then s.unsync p else s

/-! ### Frames from the wire (R536) -/

def State.assocOf (s : State) (p dir an : Nat) : Option Assoc := Tab.get assocDefault s.lnk.assoc (8 * p + 4 * dir + an)
def State.setAssoc (s : State) (p dir an : Nat) (x : Option Assoc) : State :=
  s.setLnk { s.lnk with assoc := Tab.set assocDefault s.lnk.assoc (8 * p + 4 * dir + an) x }

/-- The VLAN tag of a frame, if it has one: PCP and VID (R535). -/
def vlanTag (frame : List Byte) : Option (Nat × Nat) :=
  if beAt frame 12 2 = 0x8100 then some (beAt frame 14 2 / 2 ^ 13, beAt frame 14 2 % 2 ^ 12) else none

/-- The stream filter that a tagged frame matches: the lowest in use (R535, R559). -/
def State.filterFor (s : State) (p pcp vid : Nat) : Option Nat :=
  (List.range 16).find? fun f =>
    let a := rLnkFilt p f
    s.rb a fLnkFiltEn && s.rf a fLnkFiltVid == vid && (s.rb a fLnkFiltAnypcp || s.rf a fLnkFiltPcp == pcp)

/-- Bits that the flow meter of filter `f` lets pass now (RATE in Mb/s is bits per µs). -/
def State.meterBits (s : State) (p f : Nat) : Nat :=
  let a := rLnkFilt p f
  let cap := s.rf a fLnkFiltBurst * 8192
  match Tab.get meterDefault s.lnk.meter (16 * p + f) with
  | none => cap
  | some (n, t) => min cap (n + s.rf a fLnkFiltRate * (s.time - t))

/-- Stream filtering (R535, R536): does the frame pass? -/
def State.filterFrame (s : State) (p : Nat) (frame : List Byte) : State × Bool :=
  match vlanTag frame with
  | none => (s, true)
  | some (pcp, vid) =>
    match s.filterFor p pcp vid with
    | none => (s, true)
    | some f =>
      let a := rLnkFilt p f
      let bits := 8 * frame.length
      let have' := s.meterBits p f
      let metered := s.rf a fLnkFiltRate != 0
      if s.rf a fLnkFiltMaxsdu < frame.length - 22 ∨ (metered ∧ have' < bits) then
        ((s.satRf (rLnkFiltcnt p f) fLnkFiltcntDropped 1).portCount p 3, false)
      else
        let s := s.addRf (rLnkFiltcnt p f) fLnkFiltcntPassed 1
        let s := if metered then
            s.setLnk { s.lnk with meter := Tab.set meterDefault s.lnk.meter (16 * p + f) (some (have' - bits, s.time)) }
          else s
        (s, true)

/-- MACsec validation and replay checking of a received frame, on the secure channel of the port (R535, R536, R560): does the
frame pass? -/
def State.secFrame (s : State) (p : Nat) (sec : Option SecTag) : State × Bool :=
  if !s.rb (rLnkSecctl p) fLnkSecctlRxen then (s, true)
  else match sec with
    | none => (s.portCount p 4, false)
    | some t =>
      match s.assocOf p 1 t.an.toNat with
      | none => (s.portCount p 4, false)
      | some x =>
        let pn := t.pn.toNat
        if !t.icvOk || t.sci != s.reg (rLnkRxsci p) then (s.portCount p 4, false)
        else if pn < x.lowest then (s.portCount p 5, false)
        else
          let next := max x.next (pn + 1)
          (s.setAssoc p 1 t.an.toNat
            (some { x with next := next, lowest := max x.lowest (next - s.rf (rLnkSecctl p) fLnkSecctlWindow) }), true)

/-- The R-TAG sequence number and what follows the EtherType of an Askust frame, without its FCS (R538); `frame` is without SecTAG
and ICV. -/
def askustOf (etype : Nat) (frame : List Byte) : Option (Option Nat × List Byte) :=
  let o := if beAt frame 12 2 = 0x8100 then 16 else 12
  let (tag, o) := if beAt frame o 2 = 0xF1C1 then (some (beAt frame (o + 4) 2), o + 6) else (none, o)
  if beAt frame o 2 = etype then some (tag, (frame.take (frame.length - 4)).drop (o + 2)) else none

def State.wireOf (s : State) (p : Nat) : List (Option Nat × List Byte) := Tab.get wireDefault s.lnk.wire p
def State.setWire (s : State) (p : Nat) (q : List (Option Nat × List Byte)) : State :=
  s.setLnk { s.lnk with wire := Tab.set wireDefault s.lnk.wire p q }

/-- A frame that has passed goes on to the receive streams if it is an Askust frame (R536, R538, R544). -/
def State.frameAccept (s : State) (p : Nat) (frame : List Byte) : State :=
  match askustOf (s.rf (rLnkEtype p) fLnkEtypeEtype) frame with
  | some x => s.setWire p (s.wireOf p ++ [x])
  | none => s

/-- FRAME_RECEIVE (R536): the frame with its FCS. -/
def State.frameReceive (s : State) (p : Nat) (frame : List Byte) (fcsOk cut : Bool) (sec : Option SecTag) : State :=
  if !s.linkIsUp p then s
  else if cut then s.portCount p 2
  else if !fcsOk || decide (frame.length < 64 ∨ 2048 < frame.length) then s.portCount p 1
  else
    let (s, ok) := (s.portCount p 0).filterFrame p frame
    let (s, ok) := if ok then s.secFrame p sec else (s, false)
    if ok then s.frameAccept p frame else s

/-! ### Receiving telegrams (R544 to R548) -/

/-- A rejection at a receive stream (R544). -/
def State.rxReject (s : State) (p n code : Nat) : State :=
  let s := (s.satRf (rLnkRxscnt n) fLnkRxscntRejected 1).setRf (rLnkRxsstat n) fLnkRxsstatLastrej code
  if s.rb (rLnkRxsctl n) fLnkRxsctlWorld then s
  else s.raise ⟨.lnk, p, 1, some .safety, 0, n, 0, false⟩

/-- A telegram that finds no room (R546). -/
def State.noRoom (s : State) (p n : Nat) : State :=
  let s := (s.satRf (rLnkRxscnt n) fLnkRxscntDropped 1).setRf (rLnkRxsstat n) fLnkRxsstatLastrej 0xA
  (s.portCount p 10).flt (lnkFlt p 4 n)

/-- The lowest enabled receive stream with this sender and receiver that takes from port `p` (R544). -/
def State.rxStream (s : State) (p sender receiver : Nat) : Option Nat :=
  (List.range 256).find? fun n =>
    s.rb (rLnkRxsctl n) fLnkRxsctlEn && (s.rf (rLnkRxsctl n) fLnkRxsctlPorts).testBit p &&
    s.rf (rLnkRxsid n) fLnkRxsidSender == sender && s.rf (rLnkRxsid n) fLnkRxsidReceiver == receiver

def State.rxqOf (s : State) (p : Nat) : List (Nat × List Byte × Nat) := Tab.get rxqDefault s.lnk.rxq p
def State.setRxq (s : State) (p : Nat) (q : List (Nat × List Byte × Nat)) : State :=
  s.setLnk { s.lnk with rxq := Tab.set rxqDefault s.lnk.rxq p q }

/-- The accepted telegram enters the receive buffer of 64 KiB (R545, R546). -/
def State.rxAccept (s : State) (p n : Nat) (tel : List Byte) : State :=
  let bs := tel ++ List.replicate ((8 - tel.length % 8) % 8) 0
  let held := (s.rxqOf p).foldl (fun (k : Nat) x => k + (x.2.1.length - x.2.2)) 0
  if held + bs.length > 65536 then s.noRoom p n else s.setRxq p (s.rxqOf p ++ [(n, bs, 0)])

/-- History length of a stream (R559). -/
def State.histLen (s : State) (n : Nat) : Nat :=
  let h := s.rf (rLnkRxsctl n) fLnkRxsctlHist
  if h = 0 then 32 else h

/-- The checks of R544 behind the elimination step; `tel` starts with the telegram. -/
def State.rxCheck (s : State) (p n : Nat) (tel : List Byte) : State :=
  let a := rLnkRxsstat n
  let ctl := rLnkRxsctl n
  let tr : Int := (s.ptpTime p : Nat)
  let ts : Int := (beAt tel 0x10 8 : Nat)
  let v := beAt tel 0x0A 2
  let c := s.rf a fLnkRxsstatAlive
  let d := (v + 65536 - c) % 65536
  let first := s.rb a fLnkRxsstatFirst
  if s.rb ctl fLnkRxsctlDigchk && beAt tel 0x18 8 != (s.reg (rLnkRxsdig n)).toNat then s.rxReject p n 4
  else if !s.synced p then s.rxReject p n 9
  else if decide (tr - ts > ((1000 * s.rf (rLnkRxstime n) fLnkRxstimeMaxage : Nat) : Int)) then s.rxReject p n 5
  else if decide (ts - tr > ((1000 * s.rf (rLnkRxstime n) fLnkRxstimeSkew : Nat) : Int)) then s.rxReject p n 6
  else if !first && d == 0 then s.rxReject p n 7
  else if !first && decide (s.rf ctl fLnkRxsctlGap < d) then s.rxReject p n 8
  else
    let s := if first then s else s.satRf (rLnkRxscnt n) fLnkRxscntGaps (d - 1)
    let s := ((s.setRf a fLnkRxsstatAlive v).setRf a fLnkRxsstatFirst 0).addRf a fLnkRxsstatAccepted 1
    let s := s.rxAccept p n (tel.take (0x20 + beAt tel 0x0C 2))
    if s.rb ctl fLnkRxsctlCue then s.fire 252 else s

/-- The checks of R544 on a telegram; a rejection before the stream is known counts at the stream that the identifiers name. -/
def State.askustCheck (s : State) (p : Nat) (rtag : Option Nat) (tel : List Byte) : State :=
  let m := beAt tel 0x0C 2
  let stream := if tel.length < 8 then none else s.rxStream p (beAt tel 0 4) (beAt tel 4 4)
  let early (code : Nat) : State := match stream with | some n => s.rxReject p n code | none => s
  if tel.length < 0x28 ∨ beAt tel 0x0E 1 ≠ 1 ∨ 1400 < m ∨ tel.length < 0x28 + m then early 1
  else
    let body := tel.take (0x20 + m)
    if crc32c.of body ≠ beAt tel (0x20 + m) 4 then early 2
    else if crc32.of (body.map fun b => ~~~b) ≠ beAt tel (0x24 + m) 4 then early 3
    else match stream with
      | none => s.portCount p 7
      | some n =>
        let h := Tab.get listDefault s.lnk.hist n
        match (if s.rb (rLnkRxsctl n) fLnkRxsctlElim then rtag else none) with
        | none => s.rxCheck p n tel
        | some t =>
          if h.contains t then (s.satRf (rLnkRxscnt n) fLnkRxscntEliminated 1).portCount p 6
          else
            let s := s.setLnk { s.lnk with hist := Tab.set listDefault s.lnk.hist n ((t :: h).take (s.histLen n)) }
            s.rxCheck p n tel

/-- ASKUST_RECEIVE (R536, R544): the oldest accepted Askust frame of the port is examined, whose R-TAG sequence number and bytes
behind the EtherType, without FCS, are `rtag` and `tel`; a frame that was not accepted brings nothing. -/
def State.askust (s : State) (p : Nat) (rtag : Option Nat) (tel : List Byte) : State :=
  match s.wireOf p with
  | [] => s
  | x :: rest => if s.linkIsUp p && x == (rtag, tel) then (s.setWire p rest).askustCheck p rtag tel else s

/-- TELEGRAM_DELIVERY (R545, R546): the oldest accepted telegram of the port goes to its relay, as far as credits allow,
or to its frame in one burst. -/
def State.delivery (s : State) (p : Nat) : State :=
  match s.rxqOf p with
  | [] => s
  | (n, bs, pos) :: rest =>
    let a := rLnkRxsdest n
    let drop : State := (s.setRxq p rest).noRoom p n
    if !s.domOn 44 || !s.ready 28 then s
    else if s.rb a fLnkRxsdestDest then
      let f := s.rf a fLnkRxsdestFrame
      let off := s.rf a fLnkRxsdestOffset
      if !s.rb (rRepFrcfg f) fRepFrcfgEn || decide ((s.frameBuf f 0).2 < off + bs.length) then drop
      else match s.frameWrite (s.frameView f) f off bs with
        | .ok s => s.setRxq p rest
        | .error (e, a) => drop.writeNote (0x9C + p) e a
    else
      match s.relayFor 1 (s.rf a fLnkRxsdestRelaysel) with
      | none => drop
      | some r =>
        let x := s.relay r
        let part := (bs.drop pos).take x.room
        if part = [] then s
        else
          let ends := decide (bs.length ≤ pos + part.length) && s.rb (rLnkRxsctl n) fLnkRxsctlPush
          match s.relayRefuses (.win (s.relayWorld r) true) r false ends part.length with
          | some (e, _, a) => drop.writeNote (0x9C + p) e a
          | none =>
            let s := s.relayPut r part
            if pos + part.length < bs.length then s.setRxq p ((n, bs, pos + part.length) :: rest)
            else (if ends then s.relaySeal r else s).setRxq p rest

/-! ### Gates (R535, R543) -/

def State.gate (s : State) (p : Nat) : GateSt := Tab.get gateDefault s.lnk.gate p
def State.setGate (s : State) (p : Nat) (x : GateSt) : State :=
  s.setLnk { s.lnk with gate := Tab.set gateDefault s.lnk.gate p x }

def State.gclEn (s : State) (p : Nat) : Bool := s.rb (rLnkGclctl p) fLnkGclctlEn

/-- The gate control list as the registers hold it, cut to the cycle; the last entry lasts to the cycle's end. -/
def cutList : List (Nat × Nat) → Nat → List (Nat × Nat)
  | [], _ => []
  | [(g, _)], left => if left = 0 then [] else [(g, left)]
  | (g, n) :: t, left => if left = 0 then [] else (g, min n left) :: cutList t (left - min n left)

def State.gclRegs (s : State) (p : Nat) : List (Nat × Nat) :=
  cutList ((List.range (s.rf (rLnkGclctl p) fLnkGclctlCount + 1)).map fun n =>
    (s.rf (rLnkGcl p n) fLnkGclGates, s.rf (rLnkGcl p n) fLnkGclInterval)) (s.rf (rLnkGclctl p) fLnkGclctlCycle)

/-- ns for which the gate of class `c` stays open from entry `i` of the list on, as long as entries follow. -/
def openFor (c : Nat) : List (Nat × Nat) → Nat
  | [] => 0
  | (g, n) :: t => if g.testBit c then n + openFor c t else 0

/-- ns that a frame of `n` bytes takes on the wire of port `p`. -/
def State.wireTime (s : State) (p n : Nat) : Nat :=
  match s.rf (rLnkPstat p) fLnkPstatSpeed with
  | 0 => 8 * n
  | 1 => (8 * n + 9) / 10
  | _ => (8 * n + 24) / 25

/-- May a frame of class `c` start now, so that its last byte leaves before the gate closes (R543)? A gate that is open at the
end of the cycle goes on with the list of the next one, as the registers hold it. -/
def State.gateOpen (s : State) (p c n : Nat) : Bool :=
  let x := s.gate p
  if !s.gclEn p || x.list.isEmpty then true
  else
    let gone := s.ptpTime p - x.start
    let now := x.list.drop x.idx
    let next := s.gclRegs p
    let stays (l : List (Nat × Nat)) : Bool := l.all fun e => e.1.testBit c
    if stays now then stays next || decide (gone + s.wireTime p n ≤ openFor c now + openFor c next)
    else decide (gone + s.wireTime p n ≤ openFor c now)

/-! ### Sending (R541, R543) -/

/-- SECUP (R559): a transmit association is installed and in use. -/
def State.secUp (s : State) (p : Nat) : Bool :=
  s.rb (rLnkSecctl p) fLnkSecctlTxen && (s.assocOf p 0 (s.rf (rLnkSecctl p) fLnkSecctlTxan)).isSome

/-- The SecTAG of a frame with `n` bytes to protect (R538; IEEE 802.1AE, log entry 183): its EtherType, the control octet with the
association, the short length, the packet number's low half, the secure channel. -/
def secTagBytes (an n pn : Nat) (sci : Word) : List Byte :=
  beBytes 2 0x88E5 ++ beBytes 1 (0x2C + an) ++ beBytes 1 (if n < 48 then n else 0) ++ beBytes 4 pn ++ beBytes 8 sci.toNat

/-- A frame under MACsec (R535, R538): the SecTAG follows the source address, and the ICV precedes the FCS. -/
def State.macsecFrame (s : State) (p pn : Nat) (frame : List Byte) : List Byte :=
  let an := s.rf (rLnkSecctl p) fLnkSecctlTxan
  let sci := s.reg (rLnkTxsci p)
  let bytes := (frame.take (frame.length - 4)).drop 12
  let head := frame.take 12 ++ secTagBytes an bytes.length pn sci
  let key := match s.assocOf p 0 an with | some x => x.words | none => []
  let f := head ++ Config.macsec key sci pn head bytes
  f ++ leBytes 4 (crc32.of f)

/-- A frame leaves on the wire: not on a port that is down, and under MACsec only with an association whose packet
number has not reached all ones (R543, R560). -/
def State.wireSend (s : State) (p : Nat) (frame : List Byte) : State :=
  if !s.linkIsUp p then s
  else
    let out (s : State) (frame : List Byte) : State :=
      (s.portCount p 8).setLnk { (s.portCount p 8).lnk with sent := Tab.set bytesDefault s.lnk.sent p frame }
    if !s.rb (rLnkSecctl p) fLnkSecctlTxen then out s frame
    else if !s.secUp p then s
    else
      let pn := (s.reg (rLnkTxpn p)).toNat
      if pn = 2 ^ 64 - 1 then s
      else
        let s := out (s.setReg (rLnkTxpn p) (BitVec.ofNat 64 (pn + 1))) (s.macsecFrame p pn frame)
        if pn + 1 = 2 ^ 64 - 1 then s.flt (lnkFlt p 5 (s.rf (rLnkSecctl p) fLnkSecctlTxan)) else s

def State.txqOf (s : State) (p : Nat) : List (Nat × List Byte) := Tab.get txqDefault s.lnk.txq p
def State.setTxq (s : State) (p : Nat) (q : List (Nat × List Byte)) : State :=
  s.setLnk { s.lnk with txq := Tab.set txqDefault s.lnk.txq p q }

/-- A frame of class `c` goes out, or waits for its gate behind the frames of its class (R543, R561). -/
def State.portSend (s : State) (p c : Nat) (frame : List Byte) : State :=
  if (s.txqOf p).all (fun x => x.1 != c) && s.gateOpen p c frame.length then s.wireSend p frame
  else (s.setTxq p (s.txqOf p ++ [(c, frame)])).portCount p 9

/-- The frames that wait go out where their gates allow it, in order within each class. -/
def State.drainTx (s : State) (p : Nat) : List (Nat × List Byte) → List Nat → State
  | [], _ => s
  | (c, f) :: t, shut =>
    if shut.contains c then State.drainTx (s.setTxq p (s.txqOf p ++ [(c, f)])) p t shut
    else if s.gateOpen p c f.length then State.drainTx (s.wireSend p f) p t shut
    else State.drainTx (s.setTxq p (s.txqOf p ++ [(c, f)])) p t (c :: shut)

/-- Where a list of gates that began at `start` with entry `i` stands at the time `now`: the entry and its start. -/
def gateAt (now : Nat) : List (Nat × Nat) → Nat → Nat → Nat × Nat
  | [], i, start => (i, start)
  | [_], i, start => (i, start)
  | (_, n) :: t, i, start => if now < start + n then (i, start) else gateAt now t (i + 1) (start + n)

/-- The gate list comes into force: its cycles start at BASE and every CYCLE from there (R535, R559). -/
def State.gateStart (s : State) (p : Nat) : State :=
  let base := (s.reg (rLnkGclbase p)).toNat
  let now := s.ptpTime p
  let cycle := s.rf (rLnkGclctl p) fLnkGclctlCycle
  if now < base then s
  else
    let at' := gateAt now (s.gclRegs p) 0 (base + (now - base) / cycle * cycle)
    s.setGate p ⟨s.gclRegs p, at'.1, at'.2⟩

/-- GATE_INTERVAL_END (R535, R543, R559): the next entry's gates apply; a cycle starts with the list that the registers
then hold, the first one once the gPTP time has reached BASE. -/
def State.gateEnd (s : State) (p : Nat) : State :=
  let x := s.gate p
  let s := if !s.gclEn p then s.setGate p GateSt.empty
    else if x.list.isEmpty then s.gateStart p
    else
      let start := x.start + ((x.list[x.idx]?).map (·.2)).getD 0
      if x.idx + 1 < x.list.length then s.setGate p { x with idx := x.idx + 1, start := start }
      else s.setGate p ⟨s.gclRegs p, 0, start⟩
  (s.setTxq p []).drainTx p (s.txqOf p) []

/-- The telegram of transmit stream `n` (R538, R539). -/
def State.telegram (s : State) (n typ alive time : Nat) (payload : List Byte) : List Byte :=
  let body := beBytes 4 (s.rf (rLnkTxsid n) fLnkTxsidSender) ++ beBytes 4 (s.rf (rLnkTxsid n) fLnkTxsidReceiver) ++
    beBytes 2 typ ++ beBytes 2 alive ++ beBytes 2 payload.length ++ beBytes 1 1 ++ beBytes 1 0 ++ beBytes 8 time ++
    beBytes 8 (s.reg rCfgDigest).toNat ++ payload
  body ++ beBytes 4 (crc32c.of body) ++ beBytes 4 (crc32.of (body.map fun b => ~~~b))

/-- The Ethernet frame that carries a telegram on port `p` (R535, R538), padded to 64 bytes, with its FCS. -/
def State.ethFrame (s : State) (p n rseq : Nat) (tel : List Byte) : List Byte :=
  let ctl := rLnkTxsctl n
  let vid := s.rf ctl fLnkTxsctlVid
  let head := beBytes 6 (s.rf (rLnkTxsda n) fLnkTxsdaDa) ++ beBytes 6 (s.rf (rLnkMacaddr p) fLnkMacaddrAddr) ++
    (if vid = 0 then [] else beBytes 2 0x8100 ++ beBytes 2 (s.rf ctl fLnkTxsctlPcp * 2 ^ 13 + vid)) ++
    (if s.rb ctl fLnkTxsctlCb then beBytes 2 0xF1C1 ++ beBytes 2 0 ++ beBytes 2 rseq else []) ++
    beBytes 2 (s.rf (rLnkEtype p) fLnkEtypeEtype)
  let f := head ++ tel
  let f := f ++ List.replicate (60 - f.length) 0
  f ++ leBytes 4 (crc32.of f)

/-- The little-endian field of `n` bytes at offset `o` (R540). -/
def leField (bs : List Byte) (o n : Nat) : Nat := ofLeBytes ((bs.drop o).take n)

/-- Step 1 of R541 on the stream, and on the length and the reserved bits. -/
def State.txStreamOk (s : State) (p w : Nat) (d : List Byte) : Bool :=
  let ctl := rLnkTxsctl (leField d 0 1)
  s.rb ctl fLnkTxsctlEn && s.rf ctl fLnkTxsctlWorld == w && (s.rf ctl fLnkTxsctlPorts).testBit p
def txFormOk (d : List Byte) : Bool := decide (leField d 4 2 ≤ 1400) && decide (leField d 1 1 < 4) && leField d 6 2 == 0

/-- Does the seal check of step 3 read a record? -/
def txSealed (d : List Byte) : Bool := (leField d 1 1).testBit 0

/-- A read that the descriptor leads to waits for its memory (R680). -/
def State.txWaits (s : State) (p w : Nat) (d : List Byte) : Bool :=
  s.txStreamOk p w d && txFormOk d &&
  (!s.spanReady (leField d 8 8) (leField d 4 2) || (txSealed d && !s.spanReady (leField d 0x10 8) 16))

/-- What a descriptor leads to: a refusal with its STATUS, or the payload to send (R541 steps 1 to 3). -/
def State.txCheck (s : State) (p w : Nat) (d : List Byte) : State × Except Nat (List Byte) :=
  let m := leField d 4 2
  let ctl := rLnkTxsctl (leField d 0 1)
  let view : View := .win (worldOf w) true
  if !s.txStreamOk p w d then (s, .error 2)
  else if !txFormOk d then (s, .error 3)
  else
    match s.readMem Paths.plain view (leField d 8 8) m with
    | (s, .error _) => (s, .error 6)
    | (s, .ok pay) =>
      let sealed := txSealed d
      if !sealed && !s.rb ctl fLnkTxsctlSealreq && w != 0 then (s, .ok pay)
      else if !sealed then (s, .error 4)
      else
        match s.readMem Paths.plain view (leField d 0x10 8) 16 with
        | (s, .error _) => (s, .error 6)
        | (s, .ok r) =>
          let good := leField r 0xE 1 % 4 == 2 && (w != 0 || leField r 0xF 1 % 2 == 0) &&
            leField r 0 8 == crc32c.of pay
          (s, if good then .ok pay else .error 4)

/-- The telegram is built and sent on every port of the stream, or NOTIME (R541 steps 4 and 5); the alive value used. -/
def State.txBuild (s : State) (d pay : List Byte) : State × Except Nat Nat :=
  let n := leField d 0 1
  let ctl := rLnkTxsctl n
  let ports := (List.range 4).filter fun p => (s.rf ctl fLnkTxsctlPorts).testBit p
  match ports.find? fun p => s.synced p with
  | none => (s, .error 5)
  | some tp =>
    let a := rLnkTxsstat n
    let alive := (s.rf a fLnkTxsstatAlive + 1) % 65536
    let rseq := s.rf a fLnkTxsstatRseq
    let tel := s.telegram n (leField d 2 2) alive (s.ptpTime tp) pay
    let s := s.setRf a fLnkTxsstatAlive alive
    let s := if s.rb ctl fLnkTxsctlCb then s.addRf a fLnkTxsstatRseq 1 else s
    (ports.foldl (fun s p => s.portSend p (s.rf ctl fLnkTxsctlPcp) (s.ethFrame p n rseq tel)) s, .ok alive)

/-- Write back STATUS, and the alive counter of a telegram sent (R540, R541); was the write carried out? -/
def State.txStatus (s : State) (p w a status : Nat) (alive : Option Nat) : State × Bool :=
  let bs := leBytes 4 status ++ (match alive with | some v => leBytes 4 v | none => [])
  let v : View := .win (worldOf w) true
  match s.store Paths.plain v (a + 0x18) bs with
  | .ok s => (s, true)
  | .error e => (s.writeNote (0x9C + p) e (s.firstRefused Paths.plain v (a + 0x18) bs.length), false)

/-- A refusal at transmit stream `n` (R541, R562); at no stream, 256, it is reported with the ring's world (log entry 157). -/
def State.txRefused (s : State) (p w n : Nat) : State :=
  if 255 < n then s.raise ⟨.lnk, p, 6, some (worldOf w), 0, 0, 0, false⟩
  else
    let s := s.satRf (rLnkTxsstat n) fLnkTxsstatRefused 1
    if s.rb (rLnkTxsctl n) fLnkTxsctlWorld then s
    else s.raise ⟨.lnk, p, 6, some .safety, 0, n, 0, false⟩

/-- TX_DESCRIPTOR (R541): the descriptor at HEAD, up to the tail as last taken over, once the memories it reads are up
(R680). A status that cannot be written counts as a refusal (R366; log entry 157). -/
def State.txDescriptor (s : State) (p w : Nat) : State :=
  let head := s.rf (rLnkTxhead p w) fLnkTxheadHead
  let size := 16 * 2 ^ s.rf (rLnkTxctl p w) fLnkTxctlSize
  if !s.portOn p || !s.rb (rLnkTxctl p w) fLnkTxctlEn || head == Tab.get natDefault s.lnk.txUpTo (2 * p + w) then s
  else
    let a := s.rf (rLnkTxbase p w) fLnkTxbaseBase * 64 + 32 * head
    let waits := !s.spanReady a 32 || (match s.load Paths.plain (.win (worldOf w) true) .rd a 32 with
      | .ok d => s.txWaits p w d
      | .error _ => false)
    if waits then s
    else
    let (s, n, r, cue) : State × Nat × Except Nat Nat × Bool :=
      match s.readMem Paths.plain (.win (worldOf w) true) a 32 with
      | (s, .error _) => (s, 256, .error 6, false)
      | (s, .ok d) =>
        let (s, r) := match s.txCheck p w d with
          | (s, .error st) => (s, .error st)
          | (s, .ok pay) => s.txBuild d pay
        (s, leField d 0 1, r, (leField d 1 1).testBit 1)
    let next (s : State) : State := s.setRf (rLnkTxhead p w) fLnkTxheadHead ((head + 1) % size)
    match r with
    | .ok alive =>
      let (s, ok) := s.txStatus p w a 1 (some alive)
      let s := if ok then next s else (next s).txRefused p w n
      if cue then s.fire 252 else s
    | .error st => (next (s.txStatus p w a st none).1).txRefused p w n

/-! ### Register writes -/

/-- A write of LNK.KEYDATA (R560): a word goes to staging, or the staged association is installed. -/
def State.keydata (s : State) (p : Nat) (v : Word) : State :=
  let a := rLnkKeysel p
  let i := s.rf a fLnkKeyselWord
  if i < 6 then s.setLnk { s.lnk with staging := Tab.set wordZero s.lnk.staging (8 * p + i) v }
  else
    let words := (List.range 6).map fun j => Tab.get wordZero s.lnk.staging (8 * p + j)
    let s := s.setLnk { s.lnk with staging := (List.range 6).foldl (fun t j => Tab.set wordZero t (8 * p + j) 0) s.lnk.staging }
    s.setAssoc p (s.rf a fLnkKeyselDir) (s.rf a fLnkKeyselAn) (some ⟨words, v.toNat, v.toNat⟩)

/-- May the access write KEYSEL and KEYDATA of port `p` (R560)? -/
def State.keyOwner (s : State) (au : Auth) (p : Nat) : Bool :=
  au.machine || au.view == .win (worldOf (s.rf (rLnkSecctl p) fLnkSecctlOwner)) true

/-- Would a write that leaves `new` change a stream-table entry that is in use, other than its EN bit (R559)? `ctl` is
the entry's control register. -/
def State.streamLocked (s : State) (ctl off : Nat) (new : Word) : Bool :=
  (s.reg ctl).bit 0 && ((s.reg off ^^^ new) &&& (if ctl = off then ~~~1 else BitVec.allOnes 64)) != 0

/-- What a write of LNK.RXSCTLn from `old` does beyond storing it (R548). -/
def State.rxsctlPost (s : State) (n : Nat) (old : Word) : State :=
  if s.rb (rLnkRxsctl n) fLnkRxsctlEn && !old.bit 0 then
    (s.setRf (rLnkRxsstat n) fLnkRxsstatFirst 1).setLnk { s.lnk with hist := Tab.set listDefault s.lnk.hist n [] }
  else s

/-- What a write of LNK.TXSCTLn from `old` does beyond storing it (R542, R559). -/
def State.txsctlPost (s : State) (n : Nat) (old : Word) : State :=
  let s := if s.rb (rLnkTxsctl n) fLnkTxsctlEn && !old.bit 0 then s.setRf (rLnkTxsstat n) fLnkTxsstatAlive 0 else s
  if s.rb (rLnkTxsctl n) fLnkTxsctlWorld then s else s.setRf (rLnkTxsctl n) fLnkTxsctlSealreq 1

/-- What a write of LNK.TXCTLw from `old` does beyond storing it (R559). -/
def State.txctlPost (s : State) (p w : Nat) (old : Word) : State :=
  if s.rb (rLnkTxctl p w) fLnkTxctlEn && !old.bit 0 then
    let s := (s.setRf (rLnkTxhead p w) fLnkTxheadHead 0).setRf (rLnkTxtail p w) fLnkTxtailTail 0
    s.setLnk { s.lnk with txUpTo := Tab.set natDefault s.lnk.txUpTo (2 * p + w) 0 }
  else s

/-- What a write of LNK.TXTAILw does beyond storing it (R541, R559). -/
def State.txtailPost (s : State) (p w : Nat) : State :=
  let a := rLnkTxtail p w
  let s := s.setRf a fLnkTxtailTail (s.rf a fLnkTxtailTail % (16 * 2 ^ s.rf (rLnkTxctl p w) fLnkTxctlSize))
  s.txKick p w

end Sys2Proof.Machine
end

