-- ==== Sys2Proof/Machine/Rings.lean ====
section
/-!
DEFINITION. The host block (14): link, doorbells, descriptor fetch, RUN, ARCHIVE-READ, CONFIG-STAGE, NOTE and the copies
into relays and frames, completions and interrupts, and the ends of rings (R566 to R589).
-/
namespace Sys2Proof.Machine

/-- A fault of the host block about ring or function. -/
def hstFlt (kind detail : Nat) : Flt := ⟨.hst, 0, kind, none, 0, detail, 0, false⟩

/-- Does the host block take accesses from the link? -/
def State.hostOn (s : State) : Bool := s.domOn 45 && s.ready 35 && s.rb rHstPstat fHstPstatLinkup

/-! ### Host memory -/

def State.hostByte (s : State) (a : Nat) : Byte := Tab.get hostDefault s.hostMem (a % 2 ^ 64)

/-- `n` bytes of host memory from `a`. -/
def State.hostRead (s : State) (a : Nat) : Nat → List Byte
  | 0 => []
  | n + 1 => s.hostByte a :: s.hostRead (a + 1) n

/-- A posted write to host memory. -/
def State.hostWrite (s : State) (a : Nat) : List Byte → State
  | [] => s
  | b :: bs => State.hostWrite { s with hostMem := Tab.set hostDefault s.hostMem (a % 2 ^ 64) b } (a + 1) bs

/-! ### MSI-X (R570, R587) -/

/-- The MSI-X table after reset: every vector masked (PRESUMED, PCIe). -/
def msixDefault (k : Nat) : Byte := if k % 16 = 12 then 1 else 0

/-- Interrupt `v` of function `f`: the message, or the pending bit of a masked vector. -/
def State.msix (s : State) (f v : Nat) : State :=
  let b := Tab.getMany msixDefault s.host.msix (4096 * f + 16 * v) 16
  if (leField b 12 1).testBit 0 then
    { s with host := { s.host with pba := Tab.set flagDefault s.host.pba (128 * f + v) true } }
  else s.hostWrite (leField b 0 8) ((b.drop 8).take 4)

/-! ### Completions (R584 to R587) -/

def State.cqSize (s : State) (f n : Nat) : Nat := 16 * 2 ^ s.rf (rHstCqctl f n) fHstCqctlSize
def State.sqSize (s : State) (f n : Nat) : Nat := 16 * 2 ^ s.rf (rHstSqctl f n) fHstSqctlSize

/-- Is function `f` able to reach the host? -/
def State.busMaster (s : State) (f : Nat) : Bool := s.hostOn && (s.rf rHstPstat fHstPstatBme).testBit f

/-- The interrupt of completion ring `n` (R587). -/
def State.cqIrq (s : State) (f n : Nat) : State :=
  let s := s.setCq f n { s.cq f n with count := 0, since := none }
  s.msix f (s.rf (rHstCqctl f n) fHstCqctlVector)

/-- COMPLETION_WRITE (R585 to R587): the oldest waiting entry is written at the tail. -/
def State.cqWrite (s : State) (f n : Nat) : State :=
  let x := s.cq f n
  let a := rHstCqstat f n
  let ctl := rHstCqctl f n
  let tail := s.rf a fHstCqstatTail
  let next := (tail + 1) % s.cqSize f n
  match x.waiting with
  | [] => s
  | e :: rest =>
    if !s.busMaster f || !s.rb ctl fHstCqctlEn || next == s.rf a fHstCqstatHead then s
    else
      let phase := s.rf a fHstCqstatPhase
      let s := s.hostWrite (s.rf (rHstCqbase f n) fHstCqbaseBase * 64 + 64 * tail) (e ++ leBytes 1 phase)
      let s := s.setRf a fHstCqstatTail next
      let s := if next = 0 then s.setRf a fHstCqstatPhase (1 - phase) else s
      let x := { x with
        waiting := rest ++ x.extra.take 1
        extra := x.extra.drop 1
        count := x.count + 1
        since := some (x.since.getD s.time) }
      let s := s.setCq f n x
      if s.rb ctl fHstCqctlIrqen && (decide (s.rf ctl fHstCqctlCoalcnt ≤ x.count) || s.rf ctl fHstCqctlCoalus == 0) then
        s.cqIrq f n
      else s

/-- COALESCE_TIMER (R587). -/
def State.coalesce (s : State) (f n : Nat) : State :=
  let x := s.cq f n
  let ctl := rHstCqctl f n
  match x.since with
  | some t =>
    if s.busMaster f && s.rb ctl fHstCqctlEn && s.rb ctl fHstCqctlIrqen && decide (0 < x.count) &&
        decide (t + s.rf ctl fHstCqctlCoalus ≤ s.time) then s.cqIrq f n
    else s
  | none => s

/-! ### Doorbells (R570, R573, R586) -/

/-- SQ_TAIL_DOORBELL. -/
def State.sqDoorbell (s : State) (f n t : Nat) : State :=
  if !s.hostOn then s
  else
    let s := s.setSq f n { s.sq f n with bell := t }
    let a := rHstSqstat f n
    let size := s.sqSize f n
    let head := s.rf a fHstSqstatHead
    let tail := s.rf a fHstSqstatTail
    let have' := (tail + size - head) % size
    let more := (t + size - tail) % size
    if size ≤ t ∨ !s.rb (rHstSqctl f n) fHstSqctlEn ∨ size - 1 < have' + more then s.flt (hstFlt 2 (64 * f + n))
    else s.setRf a fHstSqstatTail t

/-- CQ_HEAD_DOORBELL. -/
def State.cqDoorbell (s : State) (f n h : Nat) : State :=
  if !s.hostOn then s
  else
    let s := s.setCq f n { s.cq f n with bell := h }
    if s.rb (rHstCqctl f n) fHstCqctlEn then s.setRf (rHstCqstat f n) fHstCqstatHead h else s

/-! ### Fetch (R574 to R576) -/

/-- Do the bytes of the descriptor outside the listed ranges (offset, length) hold zero (R575, R576)? -/
def DescSt.zeroBut (d : DescSt) (used : List (Nat × Nat)) : Bool :=
  (List.range 64).all fun i => (used.any fun r => decide (r.1 ≤ i ∧ i < r.1 + r.2)) || d.u i 1 == 0

/-- Is a descriptor well formed as far as its bytes say (R575, R576, R580, R642)? -/
def DescSt.formOk (d : DescSt) : Bool :=
  let len := d.u 0x18 8
  let lenOk := decide (1 ≤ len ∧ len < 2 ^ 40)
  decide (d.u 1 1 < 8) &&
  match d.u 0 1 with
  | 1 =>
    d.zeroBut [(0, 4), (8, 16)] && decide (4 ≤ d.u 0x10 4 ∧ d.u 0x10 4 ≤ 65536) &&
    decide (1 ≤ d.u 0x14 2 ∧ d.u 0x14 2 ≤ 4096) && decide (d.u 0x16 1 < 16) && decide (d.u 0x17 1 < 2)
  | 2 =>
    lenOk &&
    (match d.u 0x20 1, d.u 0x21 1 with
     | 0, 0 => d.zeroBut [(0, 4), (8, 25)]
     | 0, 1 => d.zeroBut [(0, 4), (8, 27)] && decide (d.u 0x22 1 < 64)
     | 0, 2 => d.zeroBut [(0, 4), (8, 27), (0x24, 4)] && decide (d.u 0x22 1 < 16) && decide (len ≤ 4096) &&
         decide (0x40 ≤ d.u 0x24 4)
     | 1, 0 => d.zeroBut [(0, 4), (8, 25)]
     | _, _ => false)
  | 3 => lenOk && d.zeroBut [(0, 4), (8, 32)]
  | 4 =>
    d.zeroBut [(0, 4), (8, 16)] && d.u 0x10 4 % 16 == 0 && d.u 0x14 4 % 16 == 0 &&
    decide (d.u 0x10 4 + d.u 0x14 4 ≤ 65536)
  | 5 => d.zeroBut [(0, 4), (8, 8)]
  | _ => false

/-- Is a RUN in the middle of its issue, because a queue is full (R577)? -/
def DescSt.queueFull (d : DescSt) : Bool :=
  d.u 0 1 == 1 && d.started && d.list.isSome && d.rej.isNone && decide (d.issued < d.u 0x14 2)

/-- Can a descriptor of the ring be fetched: one is unfetched, fewer than 8 are in progress, no RUN of the ring waits for a
queue, and completions do not halt the ring (R574, R577, R586)? -/
def State.fetchable (s : State) (f n : Nat) : Bool :=
  let a := rHstSqstat f n
  s.busMaster f && ((s.sq f n).descs.all fun d => !d.queueFull) && s.rb (rHstSqctl f n) fHstSqctlEn && s.rf a fHstSqstatHead != s.rf a fHstSqstatTail &&
  decide ((s.sq f n).descs.length < 8) &&
  decide ((s.cq f (s.rf (rHstSqctl f n) fHstSqctlCq)).waiting.length < 64)

/-- The ring served last before any has been (log entry 159). -/
def servedDefault (_ : Nat) : Nat := 63

/-- Is it the ring's turn: the functions alternate, and the rings of a function take turns (R574)? -/
def State.fetchDue (s : State) (f n : Nat) : Bool :=
  let last := Tab.get servedDefault s.host.served f
  (((List.range 64).map fun k => (last + 1 + k) % 64).find? fun m => s.fetchable f m) == some n &&
  (f != s.host.turn || (List.range 64).all fun m => !s.fetchable (1 - f) m)

/-- DESCRIPTOR_FETCH (R574): one descriptor of the ring whose turn it is; a malformed one ends FORMAT with nothing carried
out. -/
def State.descFetch (s : State) (f n : Nat) : State :=
  let a := rHstSqstat f n
  let q := s.sq f n
  let head := s.rf a fHstSqstatHead
  if !s.fetchDue f n then s
  else
    let s := { s with host := { s.host with turn := f, served := Tab.set servedDefault s.host.served f n } }
    let bytes := s.hostRead (s.rf (rHstSqbase f n) fHstSqbaseBase * 64 + 64 * head) 64
    let next := (head + 1) % s.sqSize f n
    let d : DescSt := ⟨q.nextId, bytes, next, false, 0, none, 0, 0, none, none, s.time⟩
    let s := (s.setSq f n { q with descs := q.descs ++ [d], nextId := q.nextId + 1 }).setRf a fHstSqstatHead next
    if d.formOk then s else s.descEnd f n d 3 0 0

/-- May the descriptor at place `i` of the ring be carried on: it, or all before it, have started, no RUN before it waits for a
queue, and nothing precedes a FENCE (R574, R577)? -/
def State.descAt (s : State) (f n i typ : Nat) : Option DescSt :=
  let ds := (s.sq f n).descs
  match ds[i]? with
  | none => none
  | some d =>
    if d.u 0 1 ≠ typ ∨ !s.busMaster f then none
    else if d.started ∨ (((ds.take i).all fun x => x.started && !x.queueFull) ∧ (!d.fence ∨ i = 0)) then some { d with started := true }
    else none

/-- The windows of a function at supervisor level (R360). -/
def funView (f : Nat) : View := .win (worldOf f) true

/-- The end of a descriptor at a refused device address (R584). -/
def State.descAccess (s : State) (f n : Nat) (d : DescSt) (e : MErr) (a : Nat) : State :=
  let s := match e with
    | .perm => s.mtxDenied (hostAuth (worldOf f)) a
    | .frozen => s.mtxFrozen (0x90 + f) a
    | .ecc => s.eccNote a
    | _ => s
  s.descEnd f n d 4 d.moved (a % 2 ^ 56 + 2 ^ 56 * e.code)

/-! ### RUN (R577) -/

/-- The orders of a list, if it holds exactly `k` of them back to back. -/
def splitOrders : Nat → List Byte → Option (List OrderD)
  | 0, bs => if bs = [] then some [] else none
  | k + 1, bs =>
    match decodeOrder fun i => (bs[i]?).map fun b => b.toNat with
    | .ok o => (splitOrders k (bs.drop o.size)).map fun os => o :: os
    | .error _ => none

/-- Offer the orders of a RUN from number `i` on until one finds the queue full or is rejected. -/
def State.runIssue (s : State) (f n : Nat) (d : DescSt) : Nat → List OrderD → State × DescSt
  | _, [] => (s, d)
  | i, o :: os =>
    let (s', st, off) := s.offer (d.u 0x16 1) (worldOf f) ((d.tag + i) % 65536) (0x40 + n) false (some d.id) (.ok o)
    if st = 1 then (s, d)
    else if st ≠ 0 then (s', { d with rej := some (i, st, off) })
    else State.runIssue s' f n { d with issued := i + 1, live := d.live + 1 } (i + 1) os

/-- The list of a RUN, read whole: from the host, or from the device at user level (R360, R577). -/
def State.runList (s : State) (f : Nat) (d : DescSt) : Except (MErr × Nat) (List Byte) :=
  let a := d.u 8 8
  let n := d.u 0x10 4
  if d.u 0x17 1 = 0 then .ok (s.hostRead a n)
  else
    let v : View := .win (worldOf f) false
    match s.load Paths.hostBlock v .rd a n with
    | .ok bs => .ok bs
    | .error e =>
      .error (e, ((List.range n).find? fun i => match s.loadByte Paths.hostBlock v .rd (a + i) with
        | .ok _ => false
        | .error _ => true).elim a (a + ·))

/-- The first `k` bytes of a RUN's list that lie in configuration space are decode faults, and read as zeros (R33, R365). -/
def State.listNote (s : State) (f : Nat) (d : DescSt) (k : Nat) : State :=
  let a := d.u 8 8
  match (List.range k).find? fun i => match s.target (a + i) with | .cfg _ => true | _ => false with
  | some i => s.decodeFault { hostAuth (worldOf f) with host := none } (a + i - cfgBase)
  | none => s

/-- RUN: the list is read once its memory is up (R680), then its orders are issued, as far as the queue takes them now. -/
def State.runDesc (s : State) (f n i : Nat) : State :=
  match s.descAt f n i 1 with
  | none => s
  | some d =>
    if d.rej.isSome then s
    else
      let lst : Except (MErr × Nat) (List Byte) := match d.list with | some l => .ok l | none => s.runList f d
      if d.list.isNone && d.u 0x17 1 != 0 && !s.spanReady (d.u 8 8) (d.u 0x10 4) then s.setDesc f n d
      else
      let seen := match lst with | .ok l => l.length | .error (_, a) => a - d.u 8 8
      let s := if d.list.isNone && d.u 0x17 1 != 0 then s.listNote f d seen else s
      match lst with
      | .error (e, a) => s.descAccess f n d e a
      | .ok l =>
        match splitOrders (d.u 0x14 2) l with
        | none => s.descEnd f n d 3 0 0
        | some os =>
          let d := { d with list := some l }
          let (s, d) := (s.setDesc f n d).runIssue f n d d.issued (os.drop d.issued)
          let s := s.setDesc f n d
          (s.runSettle f n d).settle (d.u 0x16 1)

/-! ### NOTE, CONFIG-STAGE, ARCHIVE-READ (R581 to R583) -/

def State.noteDesc (s : State) (f n i : Nat) : State :=
  match s.descAt f n i 5 with
  | none => s
  | some d => s.descEnd f n d 0 (d.u 8 8) 0

/-- Write to the staging area (R642). -/
def State.stage (s : State) (off : Nat) (bs : List Byte) : State :=
  { s with cfg := { s.cfg with staging := Tab.setMany memDefault s.cfg.staging off bs } }

/-- CONFIG-STAGE: on PF0 with STAGEEN; it waits while a commit or preview runs (R582, R642). -/
def State.configStage (s : State) (f n i : Nat) : State :=
  match s.descAt f n i 4 with
  | none => s
  | some d =>
    if f ≠ 0 ∨ !s.rb rHstCfgctl fHstCfgctlStageen then s.descEnd f n d 7 0 0
    else if s.cfg.run.isSome then s.setDesc f n d
    else
      let len := d.u 0x10 4
      (s.stage (d.u 0x14 4) (s.hostRead (d.u 8 8) len)).descEnd f n d 0 len 0

/-- Up to `k` bytes of an ARCHIVE-READ (R514 to R516, R581). -/
def State.archiveRead (s : State) (f n : Nat) (d : DescSt) : Nat → State
  | 0 => s.setDesc f n d
  | k + 1 =>
    let len := d.u 0x18 8
    let mark := d.u 8 8
    let off := d.u 0x10 8
    if d.moved = len then s.descEnd f n d 0 d.moved 0
    else match s.arcByte s.belows f mark off d.moved len (d.moved == 0) with
      | .wait => s.setDesc f n d
      | .byte b =>
        let d' := { d with moved := d.moved + 1 }
        let s := s.hostWrite (d.u 0x20 8 + d.moved) [b]
        if d'.moved = len then s.descEnd f n d' 0 len 0 else State.archiveRead s f n d' k
      | .stop c =>
        let s := match s.arcFind s.belows f mark with
          | some (l, col) =>
            if c = 0xC ∧ d.moved = 0 ∧ s.rb rArcCtl fArcCtlVerify ∧ (s.log l).verifyFails col off len then
              s.raise (sealFail mark d.tag)
            else s
          | none => s
        s.descEnd f n d 6 d.moved (c % 16 + 2 ^ 8 * ((off + d.moved) % 2 ^ 56))

def State.archiveDesc (s : State) (f n i k : Nat) : State :=
  match s.descAt f n i 3 with
  | none => s
  | some d => s.archiveRead f n d k

/-! ### Copies into relays and frames (R579, R580) -/

/-- A COPY in progress of the kind asked for: DIR and DKIND. -/
def State.copyAt (s : State) (f n i dir kind : Nat) : Option DescSt :=
  match s.descAt f n i 2 with
  | some d => if d.u 0x20 1 = dir ∧ (dir = 1 ∨ d.u 0x21 1 = kind) then some d else none
  | none => none

/-- The relay that a COPY feeds (R579). -/
def State.copyRelay (s : State) (f sel : Nat) : Option Nat :=
  (List.range 64).find? fun r =>
    s.relayEn r && s.rf (rScpRlyctl r) fScpRlyctlPkind == 2 && s.rf (rScpRlyctl r) fScpRlyctlPsel == sel &&
    s.rf (rScpRlyctl r) fScpRlyctlWorld == f

/-- The partly filled block of a COPY that ends with an error is discarded, and its credit comes back (R579). -/
def State.copyDrop (s : State) (r : Nat) (d : DescSt) : State × DescSt :=
  let x := s.relay r
  if x.part = 0 then (s, d)
  else (s.setRelay r { x with part := 0, credits := x.credits + 1 }, { d with moved := d.moved - x.part })

/-- COPY_TO_RELAY: up to `k` bytes, as credits allow; a refused byte ends it, with the full blocks before it (R360, R579). -/
def State.copyToRelay (s : State) (f n i k : Nat) : State :=
  match s.copyAt f n i 0 1 with
  | none => s
  | some d =>
    match s.copyRelay f (d.u 0x22 1) with
    | none => s.setDesc f n d
    | some r =>
      let len := d.u 0x18 8
      let x := s.relay r
      let m := min (min k (len - d.moved)) x.room
      let put (k : Nat) : State × DescSt :=
        (s.relayPut r (s.hostRead (d.u 8 8 + d.moved) k), { d with moved := d.moved + k })
      if !s.ready 28 then s.setDesc f n d
      else match s.relayRefuses (funView f) r false (decide (d.moved + m = len)) m with
      | some (e, k, a) =>
        let (t, d) := put k
        let (t, d) := t.copyDrop r d
        t.descAccess f n d e a
      | none =>
        let (t, d) := put m
        if d.moved = len then (t.relaySeal r).descEnd f n d 0 len 0 else t.setDesc f n d

/-- COPY_TO_FRAME: one burst into the filling buffer. -/
def State.copyToFrame (s : State) (f n i : Nat) : State :=
  match s.copyAt f n i 0 2 with
  | none => s
  | some d =>
    let fr := d.u 0x22 1
    let off := d.u 0x24 4
    let len := d.u 0x18 8
    if !s.rb (rRepFrcfg fr) fRepFrcfgEn || decide ((s.frameBuf fr 0).2 < off + len) then s.descEnd f n d 3 0 0
    else if !s.ready 28 then s.setDesc f n d
    else match s.frameWrite (funView f) fr off (s.hostRead (d.u 8 8) len) with
      | .ok s => s.descEnd f n { d with moved := len } 0 len 0
      | .error (e, a) => s.descAccess f n d e a

/-! ### Ends of rings (R588, R589) -/

/-- EN of a submission ring is cleared: its descriptors end ABORTED (R588). -/
def State.sqAbort (s : State) (f n : Nat) : State :=
  (s.sq f n).descs.foldl (fun s d =>
    let (s, d) :=
      if d.u 0 1 = 2 ∧ d.u 0x20 1 = 0 ∧ d.u 0x21 1 = 1 ∧ d.moved ≠ 0 then
        (match s.copyRelay f (d.u 0x22 1) with | some r => s.copyDrop r d | none => (s, d))
      else (s, d)
    s.descEnd f n d 8 d.moved 0) s

/-- What a write of HST.SQCTLn from `old` does beyond storing it (R572, R588). -/
def State.sqctlPost (s : State) (f n : Nat) (old : Word) : State :=
  let en := s.rb (rHstSqctl f n) fHstSqctlEn
  if en && !old.bit 0 then
    let a := rHstSqstat f n
    (s.setRf a fHstSqstatHead 0).setRf a fHstSqstatTail 0
  else if !en && old.bit 0 then s.sqAbort f n
  else s

/-- What a write of HST.CQCTLn from `old` does beyond storing it (R572, R588). -/
def State.cqctlPost (s : State) (f n : Nat) (old : Word) : State :=
  let en := s.rb (rHstCqctl f n) fHstCqctlEn
  if en && !old.bit 0 then
    let a := rHstCqstat f n
    let s := ((s.setRf a fHstCqstatHead 0).setRf a fHstCqstatTail 0).setRf a fHstCqstatPhase 1
    s.setCq f n { s.cq f n with waiting := [], extra := [], count := 0, since := none }
  else if !en && old.bit 0 then s.setCq f n { s.cq f n with waiting := [], extra := [] }
  else s

/-- Every ring of a function is disabled, and its MSI-X table reset (R589). -/
def State.funReset (s : State) (f : Nat) : State :=
  let s := (List.range 64).foldl (fun s n =>
    if s.rb (rHstSqctl f n) fHstSqctlEn then
      let old := s.reg (rHstSqctl f n)
      (s.setRf (rHstSqctl f n) fHstSqctlEn 0).sqctlPost f n old
    else s) s
  let s := (List.range 64).foldl (fun s n =>
    if s.rb (rHstCqctl f n) fHstCqctlEn then
      let old := s.reg (rHstCqctl f n)
      (s.setRf (rHstCqctl f n) fHstCqctlEn 0).cqctlPost f n old
    else s) s
  { s with host := { s.host with
    msix := s.host.msix.filter fun x => x.1 / 4096 != f
    pba := s.host.pba.filter fun x => x.1 / 128 != f } }

/-- FUNCTION_LEVEL_RESET (R589). -/
def State.flr (s : State) (f : Nat) : State :=
  if s.hostOn then (s.funReset f).flt (hstFlt 4 f) else s

/-- The PCIe link goes down (R589). -/
def State.hostDown (s : State) : State :=
  if !s.rb rHstPstat fHstPstatLinkup then s
  else
    let s := (s.funReset 0).funReset 1
    (s.setReg rHstPstat 0).flt (hstFlt 5 0)

/-- PCIE_LINK_UP (R566, R589, R591). -/
def State.hostLinkUp (s : State) (gen width bme : Nat) : State :=
  let a := rHstPstat
  if !s.domOn 45 || !s.ready 35 || s.rb a fHstPstatLinkup ||
      decide (gen < 4 ∨ s.rf rHstPctl fHstPctlMaxgen < gen) || !([1, 4, 8, 16].contains width) then s
  else
    let s := ((s.setRf a fHstPstatLinkup 1).setRf a fHstPstatGen gen).setRf a fHstPstatWidth width
    (s.setRf a fHstPstatFlit (if gen = 6 then 1 else 0)).setRf a fHstPstatBme bme

/-- HST.PCTL.CTO in µs (R571, R591). -/
def State.ctoUs (s : State) : Nat := 1000 * s.rf rHstPctl fHstPctlCto

/-- A descriptor's read of the host reaches the completion timeout (R571, R577, R579, R580, R582): it, which may read now, has
not moved on for CTO ms. -/
def State.descTimeout (s : State) (f n i : Nat) : State :=
  match (s.sq f n).descs[i]?.bind fun d => s.descAt f n i (d.u 0 1) with
  | none => s
  | some d =>
    let stop (d : DescSt) (s : State) (a : Nat) : State := s.descEnd f n d 5 d.moved a
    if s.time < d.since + s.ctoUs then s
    else match d.u 0 1 with
      | 1 => if d.list.isNone ∧ d.u 0x17 1 = 0 then stop d s (d.u 8 8) else s
      | 2 =>
        if d.u 0x20 1 = 1 then s
        else
          let a := (d.u 8 8 + d.moved) % 2 ^ 64
          (match (if d.u 0x21 1 = 1 then s.copyRelay f (d.u 0x22 1) else none) with
           | some r =>
             if (s.relay r).room = 0 then s
             else
               let (s, d) := s.copyDrop r d
               stop d s a
           | none => stop d s a)
      | 4 => if s.cfg.run.isSome then s else stop d s (d.u 8 8)
      | _ => s

/-! ### BAR2 (R567, R570) -/

/-- Pending bits `8 k` to `8 k + 7` of function `f`. -/
def State.pbaByte (s : State) (f k : Nat) : Nat :=
  (List.range 8).foldl (fun v i => v + 2 ^ i * (Tab.get flagDefault s.host.pba (128 * f + 8 * k + i)).toNat) 0

/-- What a read of a byte of BAR2 returns: the last index of a doorbell, the MSI-X table, the pending bits. -/
def State.bar2Byte (s : State) (f o : Nat) : Nat :=
  let bell (v : Nat) : Nat := v / 2 ^ (8 * (o % 8)) % 256
  if o < 0x200 then bell (s.sq f (o / 8)).bell
  else if 0x1000 ≤ o ∧ o < 0x1200 then bell (s.cq f (o % 0x1000 / 8)).bell
  else if 0x8000 ≤ o ∧ o < 0x8800 then (Tab.get msixDefault s.host.msix (4096 * f + (o - 0x8000))).toNat
  else if 0xC000 ≤ o ∧ o < 0xC010 then s.pbaByte f (o - 0xC000)
  else 0

/-- A vector that is masked no longer sends the message that is pending (R587; PRESUMED, PCIe: log entry 177). -/
def State.msixPoll (s : State) (f v : Nat) : State :=
  if Tab.get flagDefault s.host.pba (128 * f + v) &&
      !((Tab.get msixDefault s.host.msix (4096 * f + 16 * v + 12)).toNat.testBit 0) then
    State.msix { s with host := { s.host with pba := Tab.set flagDefault s.host.pba (128 * f + v) false } } f v
  else s

/-- An access of the host to BAR2 of function `f` with 4 or 8 aligned bytes: a doorbell, an entry of the MSI-X table, or a read. -/
def State.bar2 (s : State) (f o size : Nat) (wr : Option Word) : State :=
  if !s.hostOn ∨ o % size ≠ 0 then s
  else match wr with
    | none => { s with rdata := BitVec.ofNat 64 ((List.range size).foldl (fun v i => v + 2 ^ (8 * i) * s.bar2Byte f (o + i)) 0) }
    | some v =>
      let x := v.toNat % 65536
      if o < 0x200 ∧ o % 8 = 0 then s.sqDoorbell f (o / 8) x
      else if 0x1000 ≤ o ∧ o < 0x1200 ∧ o % 8 = 0 then s.cqDoorbell f (o % 0x1000 / 8) x
      else if 0x8000 ≤ o ∧ o < 0x8800 then
        let k := o - 0x8000
        State.msixPoll { s with host := { s.host with
          msix := Tab.setMany msixDefault s.host.msix (4096 * f + k) (leBytes size v.toNat) } } f (k / 16)
      else s

/-- The access that the host makes to BAR2 in this microsecond, if any: besides the doorbells no command brings one, and which
one comes is open (log entry 177). -/
def State.hostBar2 (s : State) : State :=
  if !s.hostOn then s
  else match Config.bar2At s.time with
    | some x => s.bar2 x.fn.toNat x.off.toNat (if x.wide then 8 else 4) x.wr
    | none => s

/-! ### BAR4 (R567 to R569) -/

/-- BAR4_ACCESS: it waits until its memory is up (R680). A write that meets an uncorrectable code unit leaves it (R351). -/
def State.bar4 (s : State) (f off size : Nat) (wr : Option Word) : State :=
  if !s.hostOn then s
  else
    let au := hostAuth (worldOf f)
    let a := 2 ^ 24 * s.rf (rHstDbgbase f) fHstDbgbaseBase + off
    let no (s : State) : State := if wr.isNone then { s with rdata := 0 } else s
    let sized := (size == 1 || size == 2 || size == 4 || size == 8) && off % size == 0
    let memory := match s.target a with | .mem _ => true | _ => false
    if !sized || !memory then no (s.hstDenied (worldOf f) a)
    else if !s.spanReady a size then s
    else match s.check au.view (if wr.isSome then .wr else .rd) a with
      | .error e => no (s.refuse au e a)
      | .ok _ =>
        match wr with
        | some v => (match s.store Paths.plain au.view a (leBytes size v.toNat) with
            | .ok s => s
            | .error e => s.writeNote (0x90 + f) e (s.firstRefused Paths.plain au.view a size))
        | none =>
          match s.readMem Paths.plain au.view a size with
          | (s, .ok bs) => { s with rdata := BitVec.ofNat 64 (ofLeBytes bs) }
          | (s, .error _) => { s with rdata := 0 }

end Sys2Proof.Machine
end

