-- ==== Sys2Proof/Machine/Modes.lean ====
section
/-!
DEFINITION. The custody controller and the power block (16, 17): power domains, mode transitions and their triggers,
Curtain and Flush, restraint, pairing requests, reset and supplies.
-/
namespace Sys2Proof.Machine

/-- Fault kinds of CUS and PWR (R651, R653). -/
def cusFlt (kind detail : Nat) : Flt := ⟨.cus, 0, kind, none, 0, detail, 0, false⟩
def pwrFlt (kind : Nat) : Flt := Flt.plain .pwr 0 kind

def State.setCus (s : State) (x : CusSt) : State := { s with cus := x }

/-! ### Power domains (R618, R625, R634 to R639) -/

/-- Does physical resource `i` carry a logical one? -/
def State.carries (s : State) (i : Nat) : Bool := (s.phys i).logical != noLogical

/-- Is domain `d` required in Call, Paired, Mixed, Split, Restrained or Refit (R637)? -/
def State.domRequired (s : State) (d : Nat) : Bool :=
  if d < 20 then s.carries (ixEng d) || s.encore.any fun en => en.phys == d
  else if d < 30 then s.carries (ixCal (d - 20))
  else if d = 47 then s.pairMode == 4 || s.pairMode == 5
  else !(d == 43 || d == 44 || d == 45 || d == 49)

/-- The domains that Custody keeps on (R634). -/
def State.custodyOn (s : State) (d : Nat) : Bool :=
  if d < 20 then (s.phys (ixEng d)).logical == 0
  else if d < 30 then (s.phys (ixCal (d - 20))).logical == 0
  else d == 42 || d == 43 || d == 44 || d == 46 || d == 48 || decide (34 ≤ d ∧ d ≤ 41)

/-- Is domain `d` to be on in the mode in force? -/
def State.domWanted (s : State) (d : Nat) : Bool :=
  match s.mode with
  | 0 => false
  | 1 => d == 48
  | 3 =>
    if d < 20 then s.carries (ixEng d) || !s.worn (ixEng d)
    else if d < 30 then s.carries (ixCal (d - 20)) || !s.worn (ixCal (d - 20))
    else true
  | 8 => s.custodyOn d
  | 9 => decide (20 ≤ d) && s.domOn d
  | 10 => d == 42 || d == 43 || d == 48
  | _ => s.domRequired d || !(s.reg rPwrDomctl).bit d

/-- The bits of CUS.READY that clear with domain `d` (R625). -/
def State.readyBits (s : State) (d : Nat) : List Nat :=
  if d < 20 then (if s.carries (ixEng d) then [(s.phys (ixEng d)).logical] else [])
  else if d < 30 then (if s.carries (ixCal (d - 20)) then [16 + (s.phys (ixCal (d - 20))).logical] else [])
  else if d < 34 then [d - 6]
  else if d < 42 then [28]
  else match d with
    | 42 => [29]
    | 43 => [30]
    | 44 => [31, 32, 33, 34]
    | 45 => [35]
    | 46 => [36, 37, 38, 39, 40, 41, 47, 48, 49, 50]
    | 47 => [42, 43, 44, 45, 46]
    | 48 => [52]
    | _ => [51]

def State.setReady (s : State) (b : Nat) (on : Bool) : State := s.setReg rCusReady ((s.reg rCusReady).setBit b on)

/-- Every port of the link block goes down (R635). -/
def State.linksDown (s : State) : State := (((s.linkDown 0).linkDown 1).linkDown 2).linkDown 3

/-- The writes that satisfy `p` and wait are lost. -/
def State.lateLost (s : State) (p : Late → Bool) : State := { s with late := s.late.filter fun l => !p l }

/-- What is lost as domain `d` goes off (R589, R637, R639). -/
def State.domLost (s : State) (d : Nat) : State :=
  match d with
  | 43 =>
    let s := match s.arc.audit with
      | some (_, u, held) => (if held then s.seaIdle u else s).setRf rArcAudstat fArcAudstatBusy 0
      | none => s
    let s := if s.arc.store.isSome then s.storeEnd false else s
    { s with arc := { s.arc with trained := false, scanned := false, closed := true, audit := none, load := none } }
  | 44 => s.linksDown
  | 45 => s.hostDown
  | 46 => s.lateLost fun l => match l with | .close _ => false | .feed _ _ | .seal _ _ _ => true
  | 47 =>
    (List.range 5).foldl (fun s k => s.setRf (rRepCstat k) fRepCstatProven 0)
      (s.lateLost fun l => match l with | .close _ => true | .feed _ _ | .seal _ _ _ => false)
  | _ => s

/-- Domain `d` is switched; `keep` says that it goes into retention (R625, R634). -/
def State.setDom (s : State) (d : Nat) (on keep : Bool) : State :=
  if s.domOn d = on then s
  else
    let s := s.setReg rPwrDomstat ((s.reg rPwrDomstat).setBit d on)
    if on then
      (if d < 30 then s.setCus { s.cus with retained := s.cus.retained.setBit d false } else s)
    else
      let s := (s.readyBits d).foldl (fun s b => s.setReady b false) s
      if keep then s.setCus { s.cus with retained := s.cus.retained.setBit d true } else s.domLost d

/-- Every domain takes the state that the mode in force gives it. Custody keeps engines and callers that carry a logical
one, and the contents of the HBM stacks (R634); the archive closes before PWR.DOMCTL takes its domain (R639). -/
def State.applyDomains (s : State) : State :=
  let ctl := match s.mode with | 2 | 4 | 5 | 6 | 7 | 11 => true | _ => false
  let s := if ctl && s.domOn 43 && !s.domWanted 43 then s.arcClose else s
  (List.range 50).foldl (fun s d =>
    let keep := s.mode == 8 && decide (d < 34) && (decide (30 ≤ d) || !(s.readyBits d).isEmpty)
    s.setDom d (s.domWanted d) keep) s

/-- The domains behind a bit of CUS.READY (R625, R637). -/
def State.readyDoms (s : State) (b : Nat) : List Nat :=
  if b < 16 then [s.engPhys b]
  else if b < 24 then [20 + s.calPhys (b - 16)]
  else if b < 28 then [b + 6]
  else if b = 28 then (List.range 8).map (34 + ·)
  else if b < 31 then [b + 13]
  else if b < 35 then [44]
  else if b = 35 then [45]
  else if 42 ≤ b ∧ b < 47 then [47]
  else if b = 51 then [49]
  else if b = 52 then [48]
  else [46]

/-- Every byte and every mark of an address range is cleared (R680). -/
def State.zeroMem (s : State) (p : Nat → Bool) : State :=
  { s with mem := s.mem.filter fun x => !p x.1, eccBad := s.eccBad.filter fun x => !p x.1 }

/-- Can a write that waited for its memory be made now (R625, R680)? -/
def State.lateReady (s : State) : Late → Bool
  | .close _ | .feed _ _ => s.ready 28
  | .seal _ a _ => s.spanReady a 16

/-- The write that waited is made. -/
def State.lateDo (s : State) : Late → State
  | .close f => s.frameClose f
  | .feed f r => s.feedWrite State.escalate f r
  | .seal u a r => s.sealStore u a r

/-- Every write that waited and can be made now is made, oldest first; deferred closes settle (R305, R625, R680). -/
def State.lateDrain (s : State) : State :=
  let due := s.late.filter s.lateReady
  let s := due.foldl (fun s l => s.lateDo l) { s with late := s.late.filter fun l => !s.lateReady l }
  (List.range 16).foldl (fun s f => s.frameSettle f) s

/-- FUNCTION_READY (R625, R680): a function has come up. The archive is only trained then and reports ready after its
recovery (R525). A stack that Custody kept in self-refresh keeps its contents. -/
def State.functionReady (s : State) (b : Nat) : State :=
  if !(s.readyDoms b).all s.domOn || s.ready b then s
  else if b = 30 then s.arcDiscover
  else
    let s :=
      if 24 ≤ b ∧ b < 28 then
        if s.cus.retained.bit (b + 6) then s.setCus { s.cus with retained := s.cus.retained.setBit (b + 6) false }
        else s.zeroMem fun a => inHbm a && s.pseudoChannel a / 32 == b - 24
      else if b = 28 then s.zeroMem inScp
      else s
    let s := (s.setReady b true).lateDrain
    let s := if 16 ≤ b ∧ b < 24 then s.calReport (b - 16) else s
    -- a stack that comes up in Rehearsal is profiled then (log entry 155)
    if s.mode = 3 ∧ 24 ≤ b ∧ b < 28 then s.rehearseHbm (s.rf rCusMode fCusModeCount) (b - 24) else s

/-! ### Parking and the pairing hand-over -/

/-- Every order that leaves its engine is parked, its record written (R208, R620). -/
def State.parkAll (s : State) : State := (List.range 32).foldl (fun s q => s.parkNow q) s.settleAll

/-- The pairing in force on engine `e` (R279): bit 0 safety, bit 1 service. -/
def State.pairOf (s : State) (e : Nat) : Nat :=
  if (s.reg rRepMstat).bit (3 + e) then Tab.get natDefault s.engPair e
  else s.rf rRepMstat fRepMstatSpair + 2 * s.rf rRepMstat fRepMstatVpair

/-- The pairing of a mode (R310, R618): both bits of Paired, safety alone of Mixed, none of the others. -/
def modePair : Nat → Nat
  | 4 => 3
  | 5 => 1
  | _ => 0

/-- The mode of a pairing (R310). -/
def pairModeOf (r : Nat) : Nat := if r % 4 = 3 then 4 else if r % 2 = 1 then 5 else 6

/-- The accepted pairing shows in REP.MSTAT. -/
def State.showPair (s : State) (r : Nat) : State :=
  (s.setRf rRepMstat fRepMstatSpair (r % 2)).setRf rRepMstat fRepMstatVpair (r / 2 % 2)

/-- REP.MODE takes a pairing (R310, R631); its fields belong to the image. -/
def State.setRepMode (s : State) (r : Nat) : State :=
  if (s.reg rRepMode).toNat = r then s
  else { s.setReg rRepMode (BitVec.ofNat 64 r) with cfg := { s.cfg with changed := true } }

/-- A hand-over that runs ends at once (R312, R620): every engine has changed, channel 248 fires. -/
def State.endHandover (s : State) : State :=
  if !s.rb rRepMstat fRepMstatHandover then s
  else
    let s := (s.setRf rRepMstat fRepMstatEngpend 0).setRf rRepMstat fRepMstatHandover 0
    { s with engPair := [] }.fire 248

/-! ### Transitions (R621, R622) -/

/-- The triggers of R621. -/
inductive Trig where
  | modectl | pfail | reset | curtain | restrain | relax | rehearsed | refitEnd
  deriving DecidableEq, Repr

/-- May the device leave its mode for Curtain, Flush or Hold (R621)? -/
def State.canDrop (s : State) : Bool := decide (2 ≤ s.mode ∧ s.mode ≤ 9) || s.mode == 11

/-- Does R621 allow the transition to `t` from the mode in force? -/
def State.allowed (s : State) (how : Trig) (t : Nat) : Bool :=
  let m := s.mode
  match how with
  | .pfail => s.canDrop
  | .reset => s.canDrop || (m == 10 && s.cus.flushed)
  | .curtain => s.canDrop && m != 9
  | .restrain => m == 4 || m == 5 || m == 6
  | .relax => m == 7
  | .rehearsed => m == 3
  | .refitEnd => m == 11
  | .modectl =>
    match t with
    | 3 => decide (4 ≤ m ∧ m ≤ 8) || (m == 2 && s.rb rCfgStatus fCfgStatusCommitted)
    | 8 => m == 2 || decide (4 ≤ m ∧ m ≤ 7) || m == 11
    | 9 => s.canDrop && m != 9
    | 11 => decide (4 ≤ m ∧ m ≤ 7)
    | _ => false

/-- The precedence of a transition by its target (R622): 1 is handled first. -/
def precedence (t : Nat) : Nat := match t with | 10 => 1 | 1 => 2 | 9 => 3 | _ => 4

/-- The Curtain trigger (R635): outputs safe, alarm low, ports down, orders parked, engine domains off, callers held, the
archive closed. -/
def State.dropCurtain (s : State) : State :=
  let s := s.setCus { s.cus with curtain := true }
  let s := (List.range 16).foldl (fun s o => s.setRf (rCueOutstat o) fCueOutstatPin 0) s
  let s := { s with cue := { s.cue with pulsing := [] } }
  let s := (s.setRf rCusAlarmstat fCusAlarmstatLow 1).linksDown
  let s := s.parkAll.endHandover
  let s := s.encoresEnd
  let s := (List.range 20).foldl (fun s d => s.setDom d false false) s
  let s := (List.range 8).foldl (fun s c => s.setStatus c ((s.cal c).status.setBit 4 true)) s
  s.arcClose

/-- PFAIL_N falls (R636): callers stop issuing, orders park, the archive takes no further payload (R526), and every domain
but always-on custody, matrix and archive goes off. -/
def State.dropFlush (s : State) : State :=
  let s := { s with arc := { s.arc with closed := true, final := false } }
  let s := (List.range 8).foldl (fun s c => s.setCal c { s.cal c with paused := true }) s
  let s := s.parkAll.endHandover
  let s := s.encoresEnd
  (List.range 50).foldl (fun s d => s.setDom d (s.domOn d && (d == 42 || d == 43 || d == 48)) false) s

/-- A transition to `t` starts. The settling of Curtain and Flush is done at their triggers. -/
def State.begin (s : State) (t : Nat) : State :=
  let s := (s.setRf rCusMode fCusModeTransit 1).setCus { s.cus with target := some t }
  match t with
  | 9 => s.dropCurtain
  | 10 => s.dropFlush
  | _ => s

/-- A trigger waits for the end of the transition in progress (R622). A restraint is taken again while it holds; the end
of Rehearsal, of Refit and of restraint are allowed only from the mode that a transition leaves. -/
def State.await (s : State) (how : Trig) (t : Nat) : State :=
  match how with
  | .modectl => s.setCus { s.cus with request := some t }
  | .pfail => s.setCus { s.cus with waitPfail := true }
  | .reset => s.setCus { s.cus with waitReset := true }
  | .curtain => s.setCus { s.cus with waitCurtain := true }
  | .restrain | .relax | .rehearsed | .refitEnd => s

/-- A trigger for mode `t` (R622): taken, pre-empting, waiting, or without effect; a refused CUS.MODECTL request sets
BADTRANS. A CUS.MODECTL request never pre-empts. -/
def State.trigger (s : State) (how : Trig) (t : Nat) : State :=
  match s.cus.target with
  | some u => if how ≠ .modectl ∧ precedence t < precedence u ∧ s.allowed how t then s.begin t else s.await how t
  | none =>
    if s.allowed how t then s.begin t
    else if how = .modectl then s.flt (cusFlt 5 t)
    else s

/-- An event of CUS.CURTPOL (R633): bits as in that register. -/
def State.curtEvent (s : State) (bit : Nat) : State :=
  if (s.reg rCusCurtpol).bit bit then s.trigger .curtain 9 else s

/-- The event that the understudy manager has left waits no longer. -/
def State.pollCurtain (s : State) : State :=
  if s.cus.waitCurtain then (s.setCus { s.cus with waitCurtain := false }).trigger .curtain 9 else s

/-- Band 5 is forced on every stack, or forced no longer (R345, R632). -/
def State.bandsForced (s : State) (on : Bool) : State :=
  (List.range 4).foldl (fun s k =>
    if on then (s.setRf (rHbcTemp k) fHbcTempForced 1).setRf (rHbcTemp k) fHbcTempBand 5
    else if s.rb (rHbcTemp k) fHbcTempValid && s.mode != 7 then s.setRf (rHbcTemp k) fHbcTempForced 0 else s) s

/-- What entry to mode `t` from mode `m` does besides CUS.MODE (R314, R347, R620, R630, R634). -/
def State.entry (s : State) (m t : Nat) : State :=
  let s := match t with
    | 4 | 5 | 6 => (s.showPair (modePair t)).setCus { s.cus with base := t }
    | 7 | 11 => s
    | _ => s.showPair 0
  let s := if t = 4 ∨ t = 5 ∨ t = 6 then (if m = 3 then s.setRepMode (modePair t) else s)
    else if t = 7 ∨ t = 11 then s else s.endHandover
  let s := match t with
    | 7 => s.setRf rCusMode fCusModeEntry s.cus.base
    | 11 => s.setRf rCusMode fCusModeEntry m
    | _ => s
  let s := if m = 7 ∧ !s.rb rPwrRstat fPwrRstatActive then s.bandsForced false else s
  let s := s.settleAll
  let s := if t = 8 then
      let stop (s : State) (q : Nat) : State :=
        match s.head q with | some x => if x.run.reprised then s.suspend q 5 else s | none => s
      (stop (stop s 0) 1).parkAll
    else s
  let pause (s : State) (b : Bool) : State :=
    (List.range 7).foldl (fun s i => (s.setCal (i + 1) { s.cal (i + 1) with paused := b }).calReport (i + 1)) s
  let s := if t = 8 then pause s true else if m = 8 ∧ t = 3 then pause s false else s
  let s := if t = 8 then s.encoresEnd else s
  let s := s.applyDomains
  if t = 3 then
    let s := s.setCus { s.cus with proofs := [0, 1, 2, 3, 4], tested := [], rehAt := s.time }
    let s := (List.range 5).foldl (fun s k =>
      (s.setRf (rRepCstat k) fRepCstatPeriodic 0).setRf (rRepProofrep k) fRepProofrepDone 0) s
    let n := s.rf rCusMode fCusModeCount
    (List.range 4).foldl (fun s k => s.rehearseHbm n k) s
  else s

/-- The transition to `t` ends: CUS.MODE, the entry, channel 250 (R621). -/
def State.arriveMode (s : State) (t : Nat) : State :=
  let m := s.mode
  let a := rCusMode
  let s := ((s.setRf a fCusModePrev m).setRf a fCusModeMode t).setRf a fCusModeTransit 0
  let s := (s.addRf a fCusModeCount 1).setCus { s.cus with
    target := none
    callEnd := if m = 2 then s.time else s.cus.callEnd }
  (s.entry m t).fire 250

/-! ### Pairing requests (R310 to R312) -/

/-- Every engine has changed: channel 248 fires and the transition among Paired, Mixed and Split ends (R312, R621). -/
def State.pairDone (s : State) : State :=
  if s.rb rRepMstat fRepMstatHandover && s.rf rRepMstat fRepMstatEngpend == 0 then
    let s := { s.setRf rRepMstat fRepMstatHandover 0 with engPair := [] }.fire 248
    match s.cus.target with
    | some t => if precedence t = 4 ∧ 4 ≤ t ∧ t ≤ 6 then s.arriveMode t else s
    | none => s
  else s

/-- Engine `e` changes to the new pairing once it has reached an order boundary (R312). -/
def State.pairStep (s : State) (e : Nat) : State :=
  if s.qBusy (2 * e) || s.qBusy (2 * e + 1) then s
  else { s.setReg rRepMstat ((s.reg rRepMstat).setBit (3 + e) false) with engPair := s.engPair.erase e }

/-- An accepted request: engines whose order is in flight keep their pairing until they have changed. -/
def State.handover (s : State) (r : Nat) : State :=
  let old := (List.range 16).map fun e => (e, s.pairOf e)
  let s := old.foldl (fun s x =>
    if s.qBusy (2 * x.1) || s.qBusy (2 * x.1 + 1) then
      { s.setReg rRepMstat ((s.reg rRepMstat).setBit (3 + x.1) true) with
        engPair := Tab.set natDefault s.engPair x.1 x.2 }
    else { s.setReg rRepMstat ((s.reg rRepMstat).setBit (3 + x.1) false) with engPair := s.engPair.erase x.1 }) s
  let s := (s.showPair r).setRf rRepMstat fRepMstatHandover 1
  (s.begin (pairModeOf r)).pairDone

/-- A pairing request is taken (R310, R311): refused with BADMODE or NOPROOF, or accepted, with `store` writing REP.MODE. -/
def State.pairRequest (s : State) (r : Nat) (store : State → State) : State :=
  let old := (s.reg rRepMode).toNat
  let newly := (r % 2 == 1 && old % 2 == 0) || (r / 2 % 2 == 1 && old / 2 % 2 == 0)
  if s.mode ≠ 4 ∧ s.mode ≠ 5 ∧ s.mode ≠ 6 then s.flt (Flt.plain .rep 0 4)
  else if newly && !s.proofOk then s.flt (Flt.plain .rep 0 3)
  else (store s).handover r

/-- A write of REP.MODE that asks for pairing `r` (R310, R312, R622): it waits while another transition runs, and replaces
the target of a hand-over. -/
def State.repModeWrite (s : State) (r : Nat) (store : State → State) : State :=
  if s.cus.target.isSome && !s.rb rRepMstat fRepMstatHandover then s.setCus { s.cus with repReq := some r }
  else s.pairRequest r store

/-! ### What restrains (R632) -/

/-- Has the sensor a reading (0 to 15 die, 16 to 19 stacks): its value, none for an invalid one? -/
def State.reading (s : State) (i : Nat) : Option (Option Int) :=
  if s.cus.invalid.contains i then some none
  else if i < 16 then
    (if s.rb (rPwrTemp i) fPwrTempValid then some (some (toSigned 9 (s.rf (rPwrTemp i) fPwrTempTemp))) else none)
  else if s.rb (rHbcTemp (i - 16)) fHbcTempValid then some (some (toSigned 9 (s.rf (rHbcTemp (i - 16)) fHbcTempTemp)))
  else none

def State.trip (s : State) : Int := (s.rf rPwrRestrain fPwrRestrainTrip : Nat)

/-- Is a reading at or above TRIP, an invalid one counted so? -/
def State.tripped (s : State) (i : Nat) : Bool :=
  match s.reading i with | some (some t) => decide (s.trip ≤ t) | some none => true | none => false

/-- THERM_N is low and counts. -/
def State.thermTrip (s : State) : Bool := !s.cus.thermN && s.rb rPwrRestrain fPwrRestrainThermen

/-- VDD_CORE has been read. -/
def State.coreRead (s : State) : Bool := (s.reading 0).isSome

/-- The restraint triggers that hold, as PWR.RSTAT.CAUSE codes them. -/
def State.restraintCause (s : State) : Nat :=
  ((List.range 16).any s.tripped).toNat + 2 * ((List.range 4).any fun k => s.tripped (16 + k)).toNat +
  4 * (s.coreRead && decide (s.rf rPwrVcore fPwrVcoreMv < s.rf rPwrRestrain fPwrRestrainVtrip)).toNat + 8 * s.thermTrip.toNat

/-! ### Waiting triggers (R622) -/

/-- A waiting trigger is taken, unless a transition has begun. -/
def State.takeIf (s : State) (on : Bool) (clear : CusSt → CusSt) (how : Trig) (t : Nat) : State :=
  if s.cus.target.isSome || !on then s else (s.setCus (clear s.cus)).trigger how t

/-- The waiting triggers in their order; a restraint trigger that still holds, or a restraint that has ended meanwhile, comes
last. -/
def State.takeTriggers (s : State) : State :=
  let s := s.takeIf s.cus.waitPfail (fun c => { c with waitPfail := false }) .pfail 10
  let s := s.takeIf s.cus.waitReset (fun c => { c with waitReset := false }) .reset 1
  let s := s.takeIf s.cus.waitCurtain (fun c => { c with waitCurtain := false }) .curtain 9
  let s := s.takeIf s.cus.request.isSome (fun c => { c with request := none }) .modectl (s.cus.request.getD 0)
  let s := match s.cus.target, s.cus.repReq with
    | none, some r => (s.setCus { s.cus with repReq := none }).pairRequest r (fun s => s.setRepMode r)
    | _, _ => s
  let s := s.takeIf (s.restraintCause != 0) id .restrain 7
  s.takeIf (!s.rb rPwrRstat fPwrRstatActive) id .relax s.cus.base

/-- The transition that runs ends, and what waited is taken. -/
def State.modeComplete (s : State) : State :=
  match s.cus.target with
  | some t => if s.rb rRepMstat fRepMstatHandover && precedence t == 4 && decide (4 ≤ t ∧ t ≤ 6) && s.mode != 3 && s.mode != 7
      && s.mode != 11 then s else (s.arriveMode t).takeTriggers
  | none => s

/-- ENGINE_PAIRING_CHANGE (R312). -/
def State.enginePairing (s : State) (e : Nat) : State :=
  if s.rb rRepMstat fRepMstatHandover then ((s.pairStep e).pairDone).takeTriggers else s

/-- A write of CUS.MODECTL with GO (R622, R650). -/
def State.modectl (s : State) (t : Nat) : State := s.trigger .modectl t

/-- Has everything that Rehearsal runs finished: the full proofs, the self-test of every powered resource and the profiling and
repair of every stack, which waits for the stack to come up, or the 5 s in which they can be made (R347, R353, R630, R631;
log entry 91)? -/
def State.rehearsed (s : State) : Bool :=
  s.cus.proofs.isEmpty && (decide (s.cus.rehAt + 5000000 ≤ s.time) ||
    ((List.range 4).all (fun k => s.ready (24 + k)) &&
      testPlan.all fun i => !s.domOn (resDomain i) || s.cus.tested.contains i))

/-- REHEARSAL_END (R631). -/
def State.rehearsalEnd (s : State) : State :=
  if s.mode ≠ 3 ∨ !s.rehearsed ∨ s.cus.target.isSome then s
  else
    let t := s.rf rCusModectl fCusModectlAfter
    if (t = 4 ∨ t = 5) ∧ !s.proofOk then
      let s := s.raise (cusFlt 2 0)
      if s.rb rCusCurtpol fCusCurtpolRehfail then s.trigger .curtain 9 else (s.arriveMode 6).takeTriggers
    else (s.arriveMode t).takeTriggers

/-- Refit ends after a commit or ABORT, back to its mode of entry (R645). -/
def State.refitEnd (s : State) : State :=
  if s.mode = 11 ∧ s.cus.target = none then s.begin (s.rf rCusMode fCusModeEntry) else s

/-! ### Restraint (R632, R633) -/

/-- The conditions for the end of restraint. -/
def State.calm (s : State) : Bool :=
  ((List.range 20).all fun i => match s.reading i with
    | some (some t) => decide (t ≤ s.trip - 3) | some none => false | none => true) &&
  (!s.coreRead || decide (s.rf rPwrRestrain fPwrRestrainVtrip + 10 ≤ s.rf rPwrVcore fPwrVcoreMv)) && !s.thermTrip

/-- The restraint conditions are evaluated, in any of M2 to M11 (R632). -/
def State.restraint (s : State) : State :=
  if s.mode < 2 then s
  else
    let c := s.restraintCause
    let a := rPwrRstat
    let s := if c = 0 then s else s.setRf a fPwrRstatCause c
    let s := if c ≠ 0 ∧ !s.rb a fPwrRstatActive then
        ((s.setRf a fPwrRstatActive 1).addRf a fPwrRstatEvents 1).bandsForced true
      else s
    let s := s.setCus { s.cus with cool := if s.calm then some (s.cus.cool.getD s.time) else none }
    if c ≠ 0 then s.trigger .restrain 7 else s

/-- The µs since which a sensor reads above 150 °C (R633). -/
def State.setHot (s : State) (i : Nat) (hot : Bool) : State :=
  let v := if hot then some ((Tab.get timeDefault s.cus.hot i).getD s.time) else none
  s.setCus { s.cus with hot := Tab.set timeDefault s.cus.hot i v }

/-- A reading of sensor `i` is invalid, or valid again; SENSOR for an invalid one (R632). -/
def State.sensed (s : State) (i temp : Nat) (valid : Bool) : State :=
  let s := s.setCus { s.cus with invalid := (s.cus.invalid.filter (· != i)) ++ (if valid then [] else [i]) }
  let s := s.setHot i (valid && decide (toSigned 9 temp > 150))
  if valid then s else s.flt (pwrFlt 1)

/-- DIE_SENSOR_READ (R632, R653). -/
def State.dieRead (s : State) (temps : List (BitVec 9 × Bool)) (mv : Nat) : State :=
  if s.mode < 2 then s
  else
    let s := ((List.range 16).zip temps).foldl (fun s x =>
      ((s.setRf (rPwrTemp x.1) fPwrTempTemp x.2.1.toNat).setRf (rPwrTemp x.1) fPwrTempValid x.2.2.toNat).sensed x.1 x.2.1.toNat
        x.2.2) s
    let s := s.setRf rPwrVcore fPwrVcoreMv mv
    let s := if mv < 720 ∨ 850 < mv then s.flt (pwrFlt 2) else s
    s.restraint

/-- HBM_TEMP_READ (R345, R632). -/
def State.hbmRead (s : State) (k temp : Nat) (valid : Bool) : State :=
  if s.mode < 2 ∨ !s.domOn (30 + k) then s else ((s.hbmTemp k temp valid).sensed (16 + k) temp valid).restraint

/-- RESTRAINT_END (R632): after 100 ms of the three conditions. -/
def State.restraintEnd (s : State) : State :=
  match s.cus.cool with
  | some t =>
    if s.rb rPwrRstat fPwrRstatActive && decide (t + 100000 ≤ s.time) then
      let s := (s.setRf rPwrRstat fPwrRstatActive 0).setRf rPwrRstat fPwrRstatCause 0
      (s.bandsForced false).trigger .relax s.cus.base
    else s
  | none => s

/-- OVERTEMP (R633): sensor `i` has read above 150 °C for 1 ms. -/
def State.overtemp (s : State) (i : Nat) : State :=
  match Tab.get timeDefault s.cus.hot i with
  | some t =>
    if t + 1000 ≤ s.time then ((s.setHot i false).raise (cusFlt 3 i)).curtEvent 2 else s
  | none => s

/-- THERM_N_CHANGE (R632). -/
def State.thermChange (s : State) (level : Bool) : State := (s.setCus { s.cus with thermN := level }).restraint

/-! ### Pins, reset and supplies (R621, R623, R624, R627, R669, R671) -/

/-- What lies in the attached flash outlives the device: colophon pages, one in progress among them, bytes, folios, blocks and
records not committed. -/
def ArcSt.kept (x : ArcSt) : ArcSt :=
  { ArcSt.empty with
    logs := x.logs
    tgts := x.tgts
    seq := x.seq
    ckSeq := x.ckSeq
    orderly := x.orderly }

/-- What a rise of RESET_N in Hold leaves (R14, R21): everything at its reset value but the time base, the pins, the flash
and the host; a driving test instruction gives way to BYPASS (R671). -/
def State.cold (s : State) : State :=
  let tap := if s.cus.tap.ir ≥ 3 then { s.cus.tap with ir := 0 } else s.cus.tap
  { State.reset with
    pending := s.pending
    free := s.free
    time := s.time
    beats := s.beats
    hostMem := s.hostMem
    cueIn := s.cueIn
    arc := s.arc.kept
    cus := { CusSt.reset with
      aon := s.cus.aon
      clock := s.cus.clock
      pfailN := s.cus.pfailN
      thermN := s.cus.thermN
      resetAt := s.cus.resetAt
      pfailAt := s.cus.pfailAt
      tap := tap } }

/-- RESET_N rises in Hold (R14, R21, R624, R627): the straps are sampled and call-up begins. -/
def State.callUp (s : State) : State :=
  let r := { s.cold.setRf rCusBootstat fCusBootstatStrap (s.cueIn.fld 0 2) with boot := .next (bootSources (s.cueIn.fld 0 2)) }
  let r := (List.range 16).foldl (fun r i =>
    if r.pinActive i then (r.setRf (rCuePinstat i) fCuePinstatLevel 1).setActiveAt i (some r.time) else r) r
  r.fire 250

/-- May the rise of RESET_N be taken now (R669)? -/
def State.riseTime (s : State) : Bool :=
  s.cus.pfailN && decide (s.cus.resetAt + 10 ≤ s.time) && decide (s.cus.pfailAt + 10 ≤ s.time)

/-- RESET_N_RISE: taken, or held (R669). -/
def State.resetRise (s : State) : State :=
  if s.cus.resetN then s
  else
    let early := !s.riseTime || s.mode != 1 || s.cus.target.isSome
    let s := s.setCus { s.cus with resetN := true }
    if early then s.setCus { s.cus with heldRise := true } else s.callUp

/-- HELD_RESET_N_RISE (R669). -/
def State.heldRise (s : State) : State :=
  if s.cus.heldRise && s.cus.resetN && s.riseTime && s.mode == 1 && s.cus.target.isNone then s.callUp else s

/-- RESET_N_FALL (R621, R622): a rise that is held is withdrawn; in Dark with VDD_AON up it makes Hold. -/
def State.resetFall (s : State) : State :=
  if !s.cus.resetN then s
  else
    let s := s.setCus { s.cus with resetN := false, resetAt := s.time, heldRise := false }
    if s.mode = 0 ∧ s.cus.aon then s.arriveMode 1 else s.trigger .reset 1

/-- PFAIL_N_FALL (R636) and PFAIL_N_RISE (R669). -/
def State.pfailFall (s : State) : State :=
  if !s.cus.pfailN then s
  else
    (s.setCus { s.cus with pfailN := false, pfailAt := s.time }).trigger .pfail 10
def State.pfailRise (s : State) : State :=
  if s.cus.pfailN then s else s.setCus { s.cus with pfailN := true, pfailAt := s.time }

/-- SUPPLY_REMOVAL (R621): every domain is off and the time base stops; without its supply the filter of RESET_N passes
low. -/
def State.supplyOff (s : State) : State :=
  if s.mode = 0 then s
  else
    let a := rCusMode
    let s := ((s.setRf a fCusModePrev s.mode).setRf a fCusModeMode 0).setRf a fCusModeTransit 0
    let s := s.applyDomains.zeroMem fun _ => true
    s.setCus { CusSt.reset with
      aon := false
      resetN := false
      clock := s.cus.clock
      pfailN := s.cus.pfailN
      thermN := s.cus.thermN }

/-- VDD_AON_RISE (R621, R623): the time base counts from zero; with RESET_N low the device is in Hold. -/
def State.aonRise (s : State) : State :=
  if s.cus.aon then s
  else
    let s := { s.setCus { s.cus with aon := true, resetAt := 0, pfailAt := 0 } with time := 0 }
    if s.cus.resetN then s else s.arriveMode 1

/-- FLUSH_END (R526, R528, R531, R670): the final pages are programmed, the archive stops, channel 251 fires; with RESET_N
low the device goes to Hold. The end waits for the final pages, but in an archive that has not come up, which has none to
program. -/
def State.flushEnd (s : State) : State :=
  let up := s.arcUp && s.ready 30
  if s.mode ≠ 10 ∨ s.cus.flushed ∨ (up ∧ !s.arc.final) then s
  else
    let s := if up then (s.arcCommitPage 0).arcCommitPage 1 else s
    let s := { s with arc := { s.arc with dry := true } }
    let s := (s.setCus { s.cus with flushed := true }).fire 251
    if s.cus.resetN then s else s.trigger .reset 1

/-! ### Callers and boot (R624, R628) -/

/-- CUS.CALSTART (R624): each named caller that has not started starts at CUS.STARTADDR. -/
def State.calStart (s : State) (mask : Nat) : State :=
  (List.range 8).foldl (fun s c =>
    let x := s.cal c
    if mask.testBit c && !x.on then
      (s.setCal c { x with on := true, asleep := false, pc := s.rf rCusStartaddr fCusStartaddrAddr * 4 }).calReport c
    else s) s

/-- GO of CUS.BOOTLOAD (R628, R650). -/
def State.bootLoad (s : State) (copy : Bool) : State :=
  if s.rb rCusBootload fCusBootloadBusy then s.locked .cus 0
  else { s.setRf rCusBootload fCusBootloadBusy 1 with arc := { s.arc with load := some copy } }

/-- BOOTLOAD_DONE (R628): once the archive is ready, the newest committed image of the copy goes to 0x4004_1000, where its
target is used and its checks pass; a closed buffer that it meets stays as it is (R307, R362). -/
def State.bootLoadDone (s : State) : State :=
  match s.arc.load with
  | none => s
  | some copy =>
    if !s.ready 30 || !s.ready 28 then s
    else
      let a := rCusBootload
      let s := { s.setRf a fCusBootloadBusy 0 with arc := { s.arc with load := none } }
      match s.bootNewest copy with
      | some (c, bs) =>
        if (s.tgt (4 * copy.toNat)).used && decide (bs.length ≤ 0x40_0000) && (s.log (2 + copy.toNat)).sound c &&
            Config.bootSound copy s.time then
          ((s.pokeOwn 0xA9 .free 0x4004_1000 bs).setRf a fCusBootloadOk 1).setRf a fCusBootloadLength bs.length
        else (s.setRf a fCusBootloadOk 0).setRf a fCusBootloadLength 0
      | none => (s.setRf a fCusBootloadOk 0).setRf a fCusBootloadLength 0

end Sys2Proof.Machine
end

