-- ==== Sys2Proof/Machine/RegView.lean ====
section
/-!
DEFINITION. What a read of the configuration space returns: stored fields, fields computed from the state of the block,
and reads that clear (R10, R32, R33, R36).
-/
namespace Sys2Proof.Machine

/-- A word with a field set to `x`. -/
def Word.put (v : Word) (f : FP) (x : Nat) : Word := v.setFld f.lsb f.w x

/-! ### Engines and quadrants -/

/-- ENG.PLACE (R159). -/
def State.viewEngPlace (s : State) (e : Nat) (v : Word) : Word :=
  let p := s.engPhys e
  Word.put (Word.put (Word.put v fEngPlacePhys p) fEngPlaceQuad (p / 5)) fEngPlaceHome (p / 5 == e / 4).toNat

/-- A beat-monitor word (R158, R434): RATE, DRIFT, UPD, WORN. -/
def State.viewBeat (s : State) (i : Nat) : Word :=
  let x := s.phys i
  Word.put (Word.put (Word.put (Word.put 0 fEngBeatRate x.rate) fEngBeatDrift x.drift) fEngBeatUpd x.upd) fEngBeatWorn
    (s.worn i).toNat

/-- ENG.TPSTAT (R194): in open time WORLD is the world whose order runs. -/
def State.viewTpstat (s : State) (e : Nat) (v : Word) : Word :=
  match (s.tpOf e).now with
  | none =>
    let w := !s.qBusy (2 * e) && s.qBusy (2 * e + 1)
    Word.put (Word.put (Word.put (Word.put v fEngTpstatSlot 0) fEngTpstatWorld w.toNat) fEngTpstatOpen 1) fEngTpstatLent 0
  | some (w, lend) =>
    let lent := lend && s.qBusy (2 * e + (1 - w)) && !s.qBusy (2 * e + w)
    Word.put (Word.put (Word.put (Word.put v fEngTpstatSlot ((s.tpOf e).slot.getD 0)) fEngTpstatWorld w) fEngTpstatOpen 0)
      fEngTpstatLent lent.toNat

/-- ENG.QSTAT (R98); with an empty queue HEADTAG reads 0 (log entry 141). -/
def State.viewQstat (s : State) (q : Nat) : Word :=
  let k := s.queue q
  let v := Word.put (Word.put 0 fEngQstatCount k.entries.length) fEngQstatLasttag k.lastTag
  match k.entries.head? with
  | none => v
  | some x =>
    let v := Word.put (Word.put v fEngQstatHeld (s.qHeld q).toNat) fEngQstatRunning x.run.runs.toNat
    Word.put (Word.put v fEngQstatSuspended x.run.recorded.toNat) fEngQstatHeadtag x.tag

/-- ENG.STOPREP (R208, R226, R242): a cause that replaces that of a parked order replaces its state at once. -/
def State.viewStoprep (s : State) (q : Nat) : Word :=
  match s.head q with
  | none => 0
  | some x =>
    let v := Word.put (Word.put 0 fEngStoprepTag x.tag) fEngStoprepCause x.run.cause
    Word.put (Word.put (Word.put v fEngStoprepStopped x.run.stopped.toNat) fEngStoprepParked x.run.parked.toNat)
      fEngStoprepBusy (x.run.phase == .closing).toNat

/-- ENG.WDSTAT.ELAPSED (R245). -/
def State.viewWdstat (s : State) (q : Nat) (v : Word) : Word :=
  Word.put v fEngWdstatElapsed (match s.head q with
    | some x => if x.run.phase == .running && x.run.wdLimit != 0 then x.run.wdCount else 0 | none => 0)

/-- ENG.PRn (R246). -/
def State.viewPr (s : State) (q n : Nat) : Word :=
  match s.head q with
  | some x => if x.run.phase == .parked || x.run.phase == .stopped then BitVec.ofNat 64 (x.run.words[n]?.getD 0) else 0
  | none => 0

/-- QAD.ENGOCC (R41), one byte for each physical engine. -/
def State.viewEngocc (s : State) (q : Nat) : Word :=
  (List.range 5).foldl (fun v j =>
    let p := 5 * q + j
    let enc := s.encore.any fun en => en.phys == p
    let b := (s.phys p).logical % 32 + 2 ^ 5 * enc.toNat + 2 ^ 6 * (s.worn p).toNat + 2 ^ 7 * (!s.domOn p).toNat
    Word.setFld v (8 * j) 8 b) 0

/-- The byte of a physical caller in QAD.CALOCC and UST.CALOCC (R42, R616). -/
def State.calOcc (s : State) (p : Nat) : Nat :=
  (s.phys (ixCal p)).logical % 16 + 2 ^ 4 * (s.worn (ixCal p)).toNat + 2 ^ 5 * (!s.domOn (20 + p)).toNat

/-- QAD.SPARES (R43). -/
def State.viewSpares (s : State) (q : Nat) : Word :=
  Word.put (Word.put 0 fQadSparesBankspare (16 - Tab.get natDefault s.banks.used q)) fQadSparesCmpsub
    (s.serving q == some 4).toNat

/-- The sections and callers that QAD.BEAT compares: rate, place, section (R44, R598): those of physical engines and callers
that carry a logical one, once published. Of equal lowest rates the first place shows (DESIGN CHOICE, log entry 154). -/
def State.beatCands (s : State) (q : Nat) : List (Nat × Nat × Nat) :=
  let eng := (List.range 20).filterMap fun k =>
    let p := 5 * q + k / 4
    let i := ixSect p (k % 4)
    if s.carries p && !s.worn i && decide (0 < (s.phys i).upd) then some ((s.phys i).rate, k / 4, k % 4) else none
  let cal := (List.range 2).filterMap fun j =>
    let i := ixCal (2 * q + j)
    if s.carries i && !s.worn i && decide (0 < (s.phys i).upd) then some ((s.phys i).rate, 5 + j, 0) else none
  eng ++ cal

/-- The first entry of least rate. -/
def leastRate : List (Nat × Nat × Nat) → Option (Nat × Nat × Nat)
  | [] => none
  | x :: t => match leastRate t with
    | some y => if y.1 < x.1 then some y else some x
    | none => some x

/-- QAD.BEAT (R44). -/
def State.viewQadBeat (s : State) (q : Nat) : Word :=
  match leastRate (s.beatCands q) with
  | none => 0
  | some (r, p, n) => Word.put (Word.put (Word.put 0 fQadBeatMinrate r) fQadBeatMinphys p) fQadBeatMinsect n

/-! ### Memory, comparators, callers -/

/-- HBC.TEMP (R382). -/
def State.viewHbcTemp (s : State) (k : Nat) (v : Word) : Word :=
  let n := (s.hb k).weak.length
  Word.put (Word.put v fHbcTempWeakrows n) fHbcTempWeakfull (decide (8192 ≤ n)).toNat

/-- HBC.RETENT (R384): the entry that RETSEL names. -/
def State.viewRetent (s : State) (k : Nat) : Word :=
  let (st, page) := s.ret k (s.rf (rHbcRetsel k) fHbcRetselIndex)
  Word.put (Word.put 0 fHbcRetentState st) fHbcRetentPage page

/-- HBC.RETSTAT. -/
def State.viewRetstat (s : State) (k : Nat) : Word :=
  let l := s.retList k
  Word.put (Word.put 0 fHbcRetstatUsed (l.filter fun e => e.2.1 != 0).length) fHbcRetstatListed
    (l.filter fun e => e.2.1 == 1).length

/-- REP.CSTAT (R322). -/
def State.viewCstat (s : State) (k : Nat) (v : Word) : Word :=
  let l := (s.phys (ixCmp k)).logical
  Word.put (Word.put v fRepCstatServes (if l < 4 then l else 4)) fRepCstatActive
    (decide (l < 4) && s.ready (42 + k)).toNat

/-- CAL.PLACE (R434). -/
def State.viewCalPlace (s : State) (c : Nat) (v : Word) : Word :=
  let p := s.calPhys c
  Word.put (Word.put (Word.put v fCalPlacePhys p) fCalPlaceQuad (p / 2)) fCalPlaceHome (p == c).toNat

/-- MTX.CNT registers (R375). -/
def State.viewCnt (s : State) (b j : Nat) : Word :=
  match s.cntSel b j with | some k => BitVec.ofNat 64 (s.cnt k) | none => 0

/-- Is caller `c` eligible for source `k` (R479)? Physical callers 8 and 9 count while they carry no logical caller; they are
bound to no world and not awake, and refuse every offer. -/
def State.eligible (s : State) (k c : Nat) : Bool :=
  let a := rIdsSrccfg k
  let x := s.cal c
  decide (c < 8 ∨ (s.phys (ixCal c)).logical = noLogical) && (s.reg a).bit (16 + c) && s.rb (rIdsCalctl c) fIdsCalctlEn &&
  decide (s.rf (rIdsCalctl c) fIdsCalctlThr ≤ s.rf a fIdsSrccfgPrio) &&
  (s.rb a fIdsSrccfgLevel || (decide (c < 8) && (s.calWorld c).idx == s.rf a fIdsSrccfgWorld)) &&
  (!(x.asleep || !x.on) || s.rb a fIdsSrccfgWake) && !Tab.get flagDefault s.ids.refused (512 * c + k)

/-- The offer that is outstanding at caller `c`, if its source is still pending and the caller still eligible (R480). -/
def State.offerAt (s : State) (c : Nat) : Option Nat :=
  match Tab.get timeDefault s.ids.offers c with
  | some k =>
    if s.rb (rIdsSrcstat k) fIdsSrcstatPend && s.rb (rIdsSrccfg k) fIdsSrccfgEn && s.eligible k c then some k else none
  | none => none

/-- IDS.CALSTATn (R496); 8 and 9 are physical callers without a logical one. -/
def State.viewCalstat (s : State) (n : Nat) (v : Word) : Word :=
  if n < 8 then
    let x := s.cal n
    let act := ((List.range 512).filter fun k =>
      s.rb (rIdsSrcstat k) fIdsSrcstatActive && s.rf (rIdsSrcstat k) fIdsSrcstatActcal == n).length
    let v := Word.put (Word.put v fIdsCalstatAsleep (x.asleep || !x.on).toNat) fIdsCalstatHold x.hold.toNat
    Word.put (Word.put v fIdsCalstatOffer (s.offerAt n).isSome.toNat) fIdsCalstatActive act
  else v

/-! ### Archive, links, host -/

/-- ARC.TGTSTAT. -/
def State.viewTgtstat (s : State) : Word :=
  let t := s.tgt (s.rf rArcTgtsel fArcTgtselTarget)
  let v := Word.put (Word.put 0 fArcTgtstatUsed t.used.toNat) fArcTgtstatRefused t.refused.toNat
  let bad := (t.blocks.filter fun b => b.bad).length
  let top := t.blocks.foldl (fun n b => max n b.erases) 0
  let mean := t.blocks.foldl (fun n b => n + b.erases) 0 / t.blocks.length
  Word.put (Word.put (Word.put v fArcTgtstatBad (min bad 65535)) fArcTgtstatPemax (min top 65535)) fArcTgtstatPeavg (min mean 65535)

/-- ARC.COMMITw. -/
def State.viewCommit (s : State) (w : Nat) : Word :=
  let n := s.arcEnd w
  Word.put (Word.put (Word.put 0 fArcCommitLast (n - 1)) fArcCommitAny (decide (0 < n)).toNat) fArcCommitOpen
    (s.log w).recs.length

/-- ARC.SPACEw. -/
def State.viewSpace (s : State) (w : Nat) : Word :=
  Word.put (Word.put 0 fArcSpaceFree (min (s.arcFree w) (2 ^ 48 - 1))) fArcSpaceSpare (s.spareShare w)

/-- HST.SQSTATn and HST.CQSTATn (R591). -/
def State.viewSqstat (s : State) (f n : Nat) (v : Word) : Word :=
  let full := decide (64 ≤ (s.cq f (s.rf (rHstSqctl f n) fHstSqctlCq)).waiting.length)
  Word.put (Word.put v fHstSqstatInprog (s.sq f n).descs.length) fHstSqstatWaitcq
    (full && s.rb (rHstSqctl f n) fHstSqctlEn).toNat

def State.viewCqstat (s : State) (f n : Nat) (v : Word) : Word := Word.put v fHstCqstatHeld (s.cq f n).waiting.length

/-! ### Understudies -/

/-- UST.INVENT. -/
def State.viewInvent (s : State) : Word :=
  let count (l : List Nat) : Nat := (l.filter s.isFree).length
  let lanes := (List.range 20).foldl (fun n p => n + count ((List.range 34).map fun l => ixLane p l)) 0
  let used := (List.range 4).foldl (fun n q => n + Tab.get natDefault s.banks.used q) 0
  let v := Word.put (Word.put 0 fUstInventEng (count ((List.range 20).map ixEng))) fUstInventLanes lanes
  let v := Word.put (Word.put v fUstInventCal (count ((List.range 10).map ixCal))) fUstInventBanks (64 - used)
  Word.put (Word.put v fUstInventCmp (s.isFree (ixCmp 4)).toNat) fUstInventSeal (count ((List.range 8).map ixSea))

/-- The lowest DRIFT of a resource: of its sections for an engine, its own for a caller (R616). -/
def State.lowDrift (s : State) (i : Nat) : Nat :=
  match swapKind i with
  | 1 =>
    let d := (List.range 4).map fun n => toSigned 16 (s.phys (ixSect i n)).drift
    wrapInt 16 (d.foldl min (d.headD 0))
  | 2 => (s.phys i).drift
  | _ => 0

/-- UST.RESSTAT (R594, R616). -/
def State.viewResstat (s : State) : Word :=
  let i := s.rf rUstRessel fUstResselIndex
  if !isResource i then 0
  else
    let x := s.phys i
    let v := Word.put (Word.put 0 fUstResstatLogical x.logical) fUstResstatWorn (s.worn i).toNat
    let v := Word.put (Word.put v fUstResstatFree (s.isFree i).toNat) fUstResstatStfail x.fail.toNat
    Word.put (Word.put (Word.put v fUstResstatErrs x.errs) fUstResstatDrift (if i < 0x800 then s.lowDrift i else 0))
      fUstResstatTests x.tests

/-- Does a resource have a baseline (R616)? -/
def hasBase (i : Nat) : Bool := decide (0x800 ≤ i) || decide (0x20 ≤ i ∧ i < 0x2A)

/-- UST.RESREC. -/
def State.viewResrec (s : State) : Word :=
  let i := s.rf rUstRessel fUstResselIndex
  if !isResource i then 0
  else
    let r := s.recOf i
    let v := Word.put 0 fUstResrecLogical (if i < 0x800 then r.logical else 0)
    Word.put (Word.put v fUstResrecWorn r.worn.toNat) fUstResrecBase (if hasBase i then r.base else 0)

/-- UST.SWAPSTAT: BUSY while a caller is handed over; every other swap is one command. -/
def State.viewSwapstat (s : State) (v : Word) : Word :=
  Word.put (Word.put v fUstSwapstatBusy (s.ust.queue.any s.begun).toNat) fUstSwapstatQueued s.ust.queue.length

/-! ### Reads -/

/-- The value that a register shows. -/
def State.view (s : State) (a : RegAt) : Word :=
  let v := s.reg a.off
  let n := a.inst
  match a.d.reg with
  | .engPlace => s.viewEngPlace n v
  | .engBeat => s.viewBeat (ixSect (s.engPhys n) a.j)
  | .engTpstat => s.viewTpstat n v
  | .engQstat => s.viewQstat (2 * n + a.i)
  | .engStoprep => s.viewStoprep (2 * n + a.i)
  | .engWdstat => s.viewWdstat (2 * n + a.i) v
  | .engPr => s.viewPr (2 * n + a.i) a.j
  | .qadEngocc => s.viewEngocc n
  | .qadCalocc => Word.setFld (BitVec.ofNat 64 (s.calOcc (2 * n))) 8 8 (s.calOcc (2 * n + 1))
  | .qadSpares => s.viewSpares n
  | .qadBeat => s.viewQadBeat n
  | .hbcTemp => s.viewHbcTemp n v
  | .hbcRetent => s.viewRetent n
  | .hbcRetstat => s.viewRetstat n
  | .hbcPprstat => Word.put v fHbcPprstatCand (s.hb n).cands.length
  | .repCstat => s.viewCstat n v
  | .repMstat => Word.put v fRepMstatProofok s.proofOk.toNat
  | .calPlace => s.viewCalPlace n v
  | .calBeat => s.viewBeat (ixCal (s.calPhys n))
  | .calWorld => Word.put v fCalWorldQuiesced (s.quiesced n).toNat
  | .scpBankmap => BitVec.ofNat 64 (s.bankMap (s.rf rScpBanksel fScpBankselBank))
  | .scpRlystat => BitVec.ofNat 64 (s.relayStat a.j)
  | .mtxCntgrant => s.viewCnt a.j 0
  | .mtxCntwait => s.viewCnt a.j 1
  | .mtxCntmax => s.viewCnt a.j 2
  | .idsCalstat => s.viewCalstat a.j v
  | .seaPlace => Word.put v fSeaPlacePhys (((s.carrier 0x38 8 n).getD 0x38) - 0x38)
  | .arcTgtstat => s.viewTgtstat
  | .arcSpace => s.viewSpace a.i
  | .arcCommit => s.viewCommit a.i
  | .arcRelease => BitVec.ofNat 64 (s.log a.i).below
  | .lnkPstat => Word.put v fLnkPstatSecup (s.secUp n).toNat
  | .lnkKeysel => Word.put v fLnkKeyselValid
      (s.assocOf n (s.rf (rLnkKeysel n) fLnkKeyselDir) (s.rf (rLnkKeysel n) fLnkKeyselAn)).isSome.toNat
  | .lnkCnt => BitVec.ofNat 64 (s.portCnt n)
  | .hstSqstat => s.viewSqstat a.i a.j v
  | .hstCqstat => s.viewCqstat a.i a.j v
  | .ustSwapstat => s.viewSwapstat v
  | .ustInvent => s.viewInvent
  | .ustCalocc => Word.setFld (BitVec.ofNat 64 (s.calOcc 8)) 8 8 (s.calOcc 9)
  | .ustResstat => s.viewResstat
  | .ustResrec => s.viewResrec
  | .cusTime => BitVec.ofNat 64 s.time
  | .cfgClamplog => s.cfg.clamps.headD 0
  | .cfgDigstat => Word.put v fCfgDigstatMatch (s.reg rCfgDigest == s.reg rCfgExpect).toNat
  | _ => v

/-- What a read does to a register (R10): covered RC fields clear; the clamp log loses its oldest entry (R641). -/
def State.afterRead (s : State) (a : RegAt) (m : Word) : State :=
  match a.d.reg with
  | .cfgClamplog => { s with cfg := { s.cfg with clamps := s.cfg.clamps.drop 1 } }
  | _ =>
    let rc := a.d.flds.foldl (fun m f => if f.ty == .rc then m ||| maskOf f.lsb f.w else m) (0 : Word)
    if rc &&& m = 0 then s else s.setReg a.off (s.reg a.off &&& ~~~(rc &&& m))

/-- The part of a register that an access of R32 returns. -/
def accPart (off size : Nat) (v : Word) : Word :=
  if size = 8 then v else if off % 8 = 0 then v &&& maskOf 0 32 else v >>> 32

/-- A staged word of the staging area (R642). -/
def State.stagedAt (s : State) (o n : Nat) : Nat := ofLeBytes (Tab.getMany memDefault s.cfg.staging o n)

/-- A read of the configuration space that has passed its checks; an unpowered block reads as zero (log entry 17). -/
def State.cfgRead (s : State) (t : CfgTarget) (off size : Nat) : State × Word :=
  match t with
  | .staging => (s, BitVec.ofNat 64 (s.stagedAt (off - 0x311_0000) size))
  | .reg a => if s.blkOn a then (s.afterRead a (accMask off size), accPart off size (s.view a)) else (s, 0)

/-- A read of the configuration space by a master: `none` while it waits; otherwise the state and what it returns. A
refused read returns zero (R33). -/
def State.regLoad (s : State) (au : Auth) (off size : Nat) : Option (State × Except MErr Word) :=
  match s.admits au off size false with
  | none => none
  | some (.ok t) => let (s, v) := s.cfgRead t off size; some (s, .ok v)
  | some (.error s') =>
    match cfgDecode off size false with
    | none => some (s', .ok 0)
    | some _ =>
      match s.check au.view .rd (cfgBase + off) with
      | .error e => some (s', .error e)
      | .ok _ => some (s', .error .perm)

/-- A read row: the value goes to the model's read port; a read that waits changes nothing. -/
def State.regRead (s : State) (m : Master) (off : Nat) : State :=
  match s.regLoad (s.auth m) off 8 with
  | none => s
  | some (s, .ok v) => { s with rdata := v }
  | some (s, .error _) => { s with rdata := 0 }

end Sys2Proof.Machine
end

