-- ==== Sys2Proof/Machine/CalEntry.lean ====
section
/-!
DEFINITION. What a logical caller is by itself and how it enters a handler (09, 10): the registers that it names (R389 to
R392), its save sets and handler tables (R441, R455 to R457), precise exceptions (R439 to R446) and imprecise traps (R447,
R448).
-/
namespace Sys2Proof.Machine

/-! ### Registers -/

/-- The key of general register `r` under window pointer `wp`: globals at 0 to 7, physical windowed register p at 8 + p
(R389, R391). -/
def gprKey (wp r : Nat) : Nat :=
  if r < 8 then r else if r < 24 then 8 + 16 * wp + (r - 8) else 8 + 16 * ((wp + 1) % 16) + (r - 24)

/-- The value at a key. -/
def CalRegs.at (r : CalRegs) (k : Nat) : Word := Tab.get wordZero r.regs k
def CalRegs.put (r : CalRegs) (k : Nat) (v : Word) : CalRegs := { r with regs := Tab.set wordZero r.regs k v }

/-- A general register of caller `c`; g0 reads as zero (R390). -/
def State.gpr (s : State) (c : Nat) (r : BitVec 5) : Word :=
  if r = 0 then 0 else (s.cal c).r.at (gprKey (s.cal c).r.wp r.toNat)

/-- The physical registers that a write of register `r` writes: none for g0 (R390). -/
def State.destKeys (s : State) (c : Nat) (r : BitVec 5) : List Nat :=
  if r = 0 then [] else [gprKey (s.cal c).r.wp r.toNat]

/-- Change the registers of caller `c`. -/
def State.onRegs (s : State) (c : Nat) (f : CalRegs → CalRegs) : State :=
  s.setCal c { s.cal c with r := f (s.cal c).r }

/-- Write a general register; a write of g0 is discarded (R390). -/
def State.setGpr (s : State) (c : Nat) (r : BitVec 5) (v : Word) : State :=
  (s.destKeys c r).foldl (fun s k => s.onRegs c fun x => x.put k v) s

/-- Flags accumulate in CAL.FCSR.FLAGS (R404, R430). -/
def CalRegs.addFlags (r : CalRegs) (f : Flags) : CalRegs :=
  { r with fcsr := r.fcsr ||| ((f.zeroExtend 64 : Word) <<< 8) }

/-- CAL.FCSR.TE. -/
def CalRegs.te (r : CalRegs) : Flags := BitVec.ofNat 5 (r.fcsr.fld 16 5)

/-- STATUS as a program reads it: WORLD is a copy of CAL.WORLD (R456). -/
def State.statusWord (s : State) (c : Nat) : Word := (s.cal c).status.setFld 7 1 (s.calWorld c).idx

/-- STATUS becomes `v`; under Curtain HELD bit 4 stays set (R635). -/
def State.putStatus (s : State) (c : Nat) (v : Word) : State :=
  s.setStatus c ((v &&& maskOf 0 7) ||| (if s.cus.curtain then maskOf 4 1 else 0))

/-! ### Save sets and handler tables -/

/-- The supervisor set of a world (R435). -/
def worldSet : World → SaveSet
  | .safety => .s
  | .service => .v

def CalSt.tab (x : CalSt) : SaveSet → TabSt
  | .s => x.tabS | .v => x.tabV | .m => x.tabM
def CalSt.setTab (x : CalSt) (t : SaveSet) (y : TabSt) : CalSt :=
  match t with
  | .s => { x with tabS := y } | .v => { x with tabV := y } | .m => { x with tabM := y }
def CalSt.save (x : CalSt) : SaveSet → SaveSt
  | .s => x.saveS | .v => x.saveV | .m => x.saveM
def CalSt.setSave (x : CalSt) (t : SaveSet) (y : SaveSt) : CalSt :=
  match t with
  | .s => { x with saveS := y } | .v => { x with saveV := y } | .m => { x with saveM := y }

/-- The HELD bit of a set (R456). -/
def heldBit : SaveSet → Nat
  | .m => 5
  | _ => 4
def CalSt.held (x : CalSt) (t : SaveSet) : Bool := x.status.bit (heldBit t)

/-- The handler address of an entry of a table's copy; none for an invalid entry (R441). -/
def TabSt.handler (t : TabSt) (code : Nat) : Option Nat :=
  let w := Tab.get wordZero t.copy code
  if t.loaded && w.bit 0 then some (4 * w.fld 2 46) else none

/-! ### Causes -/

def excIllegal : Nat := 0x01
def excAlign : Nat := 0x02
def excFetch : Nat := 0x03
def excLoad : Nat := 0x04
def excStore : Nat := 0x05
def excBuserr : Nat := 0x06
def excArith : Nat := 0x07
def excShadow : Nat := 0x08
def excScall : Nat := 0x09
def excMcall : Nat := 0x0A
def excBreak : Nat := 0x0B
def excWstack : Nat := 0x0C

/-- A cause word (R457) without IMP, ESC and MORE: CODE, KIND, SOURCE. -/
def causeWord (code kind source : Nat) : Word := BitVec.ofNat 64 (code + 2 ^ 8 * kind + 2 ^ 16 * source)
def causeImp (w : Word) : Word := w.setBit 6 true
def causeEsc (w : Word) : Word := w.setBit 7 true
def causeMore (w : Word) : Word := w.setBit 25 true

/-- The kind of R440 of a refused access. -/
def MErr.kind : MErr → Nat
  | .nomap | .range => 1
  | .perm => 2
  | .ecc => 5
  | .host => 6
  | .cfgspace => 7
  | .frozen => 8

/-! ### Entry -/

/-- Steps 2 to 5 of R445 for the set `t`. -/
def State.enter (s : State) (c : Nat) (t : SaveSet) (cause : Word) (faddr pc : Nat) (tag : Word) (handler : Nat) : State :=
  let x := s.cal c
  let st := s.statusWord c
  let x := x.setSave t ⟨BitVec.ofNat 64 pc, st, BitVec.ofNat 64 x.r.wp, cause, BitVec.ofNat 64 (faddr % 2 ^ 48), tag⟩
  let r := { x.r with wp := (x.r.wp + 1) % 16, resident := min 15 (x.r.resident + 1) }
  let s := s.setCal c { x with r := r, pc := handler, asleep := false, lds := [], exc := none, want := 0 }
  let v := st.setFld 0 2 (match t with | .m => 3 | _ => 1)
  let v := (v.setBit 2 false).setBit (heldBit t) true
  let v := match t with | .m => v.setBit 3 false | _ => v
  (s.putStatus c v).addRf (rCalExccnt c) fCalExccntEntries 1

/-- Curtain hold (R444). -/
def State.holdCal (s : State) (c code pc : Nat) : State :=
  let s := s.setCal c { s.cal c with hold := true, asleep := false, lds := [], exc := none, want := 0 }
  let a := rCalHoldrep c
  let s := ((s.setRf a fCalHoldrepCode code).setRf a fCalHoldrepInhold 1).setRf a fCalHoldrepPc pc
  let s := (s.satRf (rCalExccnt c) fCalExccntHolds 1).calReport c
  (s.raise (cusFlt 1 c)).curtEvent 0

/-- Entry at the machine level, or curtain hold (R441, R442, R444). While the table reloads, the state stays `w`. -/
def State.atMachine (s w : State) (c code pc : Nat) (go : Nat → State) : State :=
  let x := s.cal c
  if x.held .m then s.holdCal c code pc
  else if x.tabM.busy then w
  else match x.tabM.handler code with
    | none => s.holdCal c code pc
    | some h => go h

/-- The address of the next spill (R412). -/
def State.spillAddr (s : State) (c : Nat) : Nat := ((s.cal c).wsp.toNat + 2 ^ 48 - 128) % 2 ^ 48

/-- The overrides of R362 refuse the write of the next spill. -/
def State.spillRefused (s : State) (c : Nat) : Option MErr :=
  match s.check .free .wr (s.spillAddr c) with | .ok _ => none | .error e => some e

/-- The write of the spill that an instruction waits for faults (R414), or is refused (R362; log entry 119). -/
def State.spillFaults (s : State) (c : Nat) : Bool :=
  let p := (s.cal c).wsp.toNat
  decide (p < 128) || decide (p - 128 < (s.reg (rCalWslim c)).toNat) || !(inScp (p - 128) || inHbm (p - 128)) ||
  (s.spillRefused c).isSome

/-- A shadow that is cancelled (R449): every write of it, and every instruction in it. -/
def State.cancelShadow (s : State) (c : Nat) : State :=
  let x := s.cal c
  match x.shadow with
  | none => s
  | some h =>
    s.setCal c { x with
      r := h.snap, shadow := none, orders := [], lds := []
      longs := x.longs.filter fun l => !l.inShadow
      sb := x.sb.filter fun b => !b.inShadow }

/-- The address that a precise exception saves: that of the CRW inside a shadow (R439, R449). -/
def CalSt.excPc (x : CalSt) (pc : Nat) : Nat := match x.shadow with | some h => h.pc | none => pc

/-- A precise exception waits, for a table reload or a spill, with what it will save (R446). -/
def State.excWaits (s : State) (c : Nat) (cause : Word) (faddr pc : Nat) (ret : Bool := false) : State :=
  s.setCal c { s.cal c with exc := some ⟨cause, faddr, pc, ret⟩, lds := [] }

/-- The instruction whose exception is entered counts as retired if it is one that retires with it (R434, R445). -/
def State.retires (s : State) (c : Nat) (ret : Bool) : State :=
  if ret then s.addRf (rCalRetired c) fCalRetiredCount 1 else s

/-- The window-stack exception (R414): it is taken at the machine level and needs no further position. -/
def State.takeWstack (s : State) (c faddr pc : Nat) : State :=
  let cause := causeWord excWstack 0 0
  s.atMachine (s.excWaits c cause faddr pc) c excWstack pc fun h => s.enter c .m cause faddr pc 0 h

/-- Raise it. -/
def State.wstack (s : State) (c faddr pc : Nat) : State :=
  (s.cancelShadow c).takeWstack c faddr ((s.cal c).excPc pc)

/-- An entry or a call needs position WP + 2 free; otherwise it waits for a spill, or raises the window-stack exception
(R413, R414). `s` is the state in which it would act, `w` the one in which it waits. -/
def State.room (s w : State) (c pc : Nat) (go : State) : State :=
  if 0 < (s.cal c).freePos then go
  else if w.spillFaults c then w.wstack c (w.spillAddr c) pc
  else w.setCal c { w.cal c with want := 1 }

/-- Does the exception go to the machine level (R436, R439, R442)? -/
def CalSt.toMachine (x : CalSt) (code : Nat) : Bool := x.lvl == 3 || code == excMcall

/-- Take an exception with cause word `cause` and saved address `pc` (R442, R443, R445): at the supervisor of the world, at
the machine level, or escalated; or it waits. -/
def State.take (s : State) (c : Nat) (cause : Word) (faddr pc : Nat) (ret : Bool := false) : State :=
  let x := s.cal c
  let w := s.excWaits c cause faddr pc ret
  let code := cause.toNat % 64
  let escalate : State :=
    s.atMachine w c code pc fun h =>
      s.room w c pc (((s.retires c ret).enter c .m (causeEsc cause) faddr pc 0 h).satRf (rCalExccnt c)
        fCalExccntEscalations 1)
  if x.toMachine code then
    s.atMachine w c code pc fun h => s.room w c pc ((s.retires c ret).enter c .m cause faddr pc 0 h)
  else
    let t := worldSet (s.calWorld c)
    if x.held t then escalate
    else if (x.tab t).busy then w
    else match (x.tab t).handler code with
      | none => escalate
      | some h => s.room w c pc ((s.retires c ret).enter c t cause faddr pc 0 h)

/-- Raise a precise exception (R442, R446, R449) with saved address `pc`; `ret`: its instruction retires with the entry, unless
a shadow that it cancels holds it. -/
def State.except (s : State) (c code kind faddr pc : Nat) (ret : Bool := false) : State :=
  (s.cancelShadow c).take c (causeWord code kind 0) faddr ((s.cal c).excPc pc) (ret && (s.cal c).shadow.isNone)

/-! ### Imprecise traps (R447, R448) -/

/-- The set to which a trap of an instruction that issued at level `lvl` goes. -/
def State.trapSet (s : State) (c lvl : Nat) : SaveSet := if lvl = 3 then .m else worldSet (s.calWorld c)

/-- The address of the oldest instruction that has not retired (R445). -/
def CalSt.boundary (x : CalSt) : Nat := match x.lds with | l :: _ => l.pc | [] => x.pc

/-- A pending trap is taken at an instruction boundary outside a shadow once its set is free, after a precise exception that
waits and after the ORDERs of a closed shadow (R446, R449); it never escalates and never holds. -/
def State.pollTrap (s : State) (c : Nat) : State :=
  let x := s.cal c
  match x.trap with
  | none => s
  | some p =>
    let t := s.trapSet c p.lvl
    if !x.on || x.paused || x.moving || x.hold || x.shadow.isSome || x.exc.isSome || !x.orders.isEmpty || x.held t || (x.tab t).busy ||
        (t != .m && x.lvl == 3) then s
    else match (x.tab t).handler (p.cause.toNat % 64) with
      | none => s
      | some h =>
        if x.freePos = 0 then (if s.spillFaults c then s else s.setCal c { x with want := 1 })
        else (s.setCal c { x with trap := none }).enter c t p.cause p.faddr.toNat x.boundary p.tag h

/-- A trap arises: it becomes pending, or sets MORE of the pending one. -/
def State.noteTrap (s : State) (c : Nat) (p : TrapSt) : State :=
  let x := s.cal c
  let q := match x.trap with | some o => { o with cause := causeMore o.cause } | none => p
  s.setCal c { x with trap := some q }
def State.addTrap (s : State) (c : Nat) (p : TrapSt) : State := (s.noteTrap c p).pollTrap c

/-- What waits for an entry goes on: a precise exception before a pending trap (R446). -/
def State.pollEntry (s : State) (c : Nat) : State :=
  match (s.cal c).exc with
  | none => s.pollTrap c
  | some e => if e.cause.toNat % 64 = excWstack then s.takeWstack c e.faddr e.pc else s.take c e.cause e.faddr e.pc e.ret

end Sys2Proof.Machine
end

