-- ==== Sys2Proof/Machine/RegWrite.lean ====
section
/-!
DEFINITION. Writes of the configuration space: what a register refuses, what it stores, and what a write does besides
(R10, R12, R13, R32, R33, R640, R679, and the rule of each register).
-/
namespace Sys2Proof.Machine

/-- A field of the word that a write carries; bits that the write does not cover are zero. -/
def wr (w : Word) (f : FP) : Nat := w.fld f.lsb f.w
def wrb (w : Word) (f : FP) : Bool := wr w f == 1

/-- Is every bit of a field covered by the mask `m`? -/
def coversFld (m : Word) (f : FP) : Bool := maskOf f.lsb f.w &&& m == maskOf f.lsb f.w

/-- The number of the world that a queue register of an engine belongs to. -/
def RegAt.engWorld (a : RegAt) : Nat := a.off / 0x100 % 2

/-! ### Actions of single registers -/

/-- A write to IDS.EOI (R482): by the requester code of the caller that holds the source ACTIVE. -/
def State.eoi (s : State) (au : Auth) (src : Nat) : State :=
  let a := rIdsSrcstat src
  if s.rb a fIdsSrcstatActive && au.src == 0x80 + 2 * s.rf a fIdsSrcstatActcal then
    let s := s.setRf a fIdsSrcstatActive 0
    let n := s.rf a fIdsSrcstatCount
    if n = 0 then s else (s.setRf a fIdsSrcstatCount (n - 1)).setRf a fIdsSrcstatPend 1
  else s.flt ⟨.ids, 0, 1, none, 0, src, 0, false⟩

/-- GO = 1 to FLT.INJECT (R488): a reserved kind is LOCKED. -/
def State.inject (s : State) (b : Blk) (inst kind : Nat) : State :=
  if b.kindMask.testBit kind then s.raise ⟨b, inst, kind, none, 0, 0, 0, true⟩ else s.locked b inst

/-- A write of CAL.WORLD that takes effect (R438): both caches are invalidated, HELD bit 4 clears. -/
def State.worldChanged (s : State) (c : Nat) : State :=
  let s := s.setCal c { s.cal c with lines := [], ilines := [], fill := none }
  s.setStatus c ((s.cal c).status.setBit 4 (s.cus.curtain && (s.cal c).status.bit 4))

/-- CAL.RESTART with GO (R444); a pending trap is taken now that HELD is clear (R448). -/
def State.restart (s : State) (c addr : Nat) : State :=
  let s := (s.setStatus c (if s.cus.curtain then 3 + 16 else 3)).setRf (rCalHoldrep c) fCalHoldrepInhold 0
  ((s.setCal c { s.cal c with hold := false, pc := addr }).calReport c).pollTrap c

/-- A write to ARC.AUDIT (R523); UNIT 6 and 7 clamp to 5 (R640). -/
def State.auditReg (s : State) (au : Auth) (w : Word) : State :=
  if s.arc.audit.isSome then s.locked .arc 0
  else
    let u := wr w fArcAuditUnit
    let s := if 5 < u then s.logClamp au.src rArcAudit fArcAuditUnit.lsb u false else s
    if wrb w fArcAuditGo then s.auditStart (wr w fArcAuditCount) (min u 5) else s

/-- A write to ARC.BOOTCTL (R530); LENGTH clamps to 4 MiB (R640). -/
def State.bootReg (s : State) (au : Auth) (w : Word) : State :=
  let n := wr w fArcBootctlLength
  let s := if 0x40_0000 < n then s.logClamp au.src rArcBootctl fArcBootctlLength.lsb n false else s
  if wrb w fArcBootctlGo then s.bootStore (min n 0x40_0000) (wrb w fArcBootctlCopy) else s

/-- A write of UST.RESREC (R12, R616): the entry that RESSEL names, locked after the configuration commit. A resource that it
makes worn is skipped at once (R21, R626). -/
def State.resrecWrite (s : State) (w m : Word) : State :=
  let i := s.rf rUstRessel fUstResselIndex
  if !isResource i then s
  else
    let r := s.recOf i
    let old := s.viewResrec
    let new := (old &&& ~~~m) ||| (w &&& m)
    let x : Rec := ⟨if i < 0x800 then wr new fUstResrecLogical else r.logical, wrb new fUstResrecWorn,
      if hasBase i then wr new fUstResrecBase else r.base⟩
    if x = r then s
    else if s.cfg.locked then s.locked .ust 0
    else
      let s := s.setRecOf i x
      if s.placing && x.worn && !r.worn && (s.phys i).logical != noLogical then s.skipWorn i else s

/-- A write of all ones clears the counter that a counter register shows (R375, R381). -/
def State.cntClear (s : State) (b j : Nat) (f : FP) (w m : Word) : State :=
  if w &&& m &&& maskOf f.lsb f.w = maskOf f.lsb f.w then
    match s.cntSel b j with | some k => s.setCnt k 0 | none => s
  else s

/-- The same for LNK.CNT (R561). -/
def State.portClear (s : State) (p : Nat) (w m : Word) : State :=
  if w &&& m &&& maskOf 0 48 = maskOf 0 48 then
    s.setLnk { s.lnk with cnt := Tab.set natDefault s.lnk.cnt (16 * p + s.rf (rLnkCntsel p) fLnkCntselIndex) 0 }
  else s

/-- A write of PWR.DOMCTL that has been stored over `old` (R639): OFF set for a required domain is LOCKED. -/
def State.domctlPost (s : State) (old : Word) : State :=
  let new := s.reg rPwrDomctl
  let s := if (List.range 50).any fun d => new.bit d && !old.bit d && s.domRequired d then s.locked .pwr 0 else s
  match s.mode with
  | 2 | 4 | 5 | 6 | 7 | 11 => s.applyDomains
  | _ => s

/-- A write of CUS.ALARMCTL (R490): outside a pulse the pin follows HOLD; in Curtain it stays low (R635). -/
def State.alarmctlPost (s : State) : State :=
  if s.alarmEnd.isSome || s.cus.curtain then s
  else s.setRf rCusAlarmstat fCusAlarmstatLow (s.rf rCusAlarmctl fCusAlarmctlHold)

/-! ### Refused writes -/

/-- A write from the machine level of a caller other than `c` (R438, R444). -/
def Auth.otherMachine (au : Auth) (c : Nat) : Bool :=
  au.machine && (match au.cal with | some k => k != c | none => false)

/-- A write that its register takes whole in its own way or refuses whole: the state after it. -/
def State.writeAlone (s : State) (au : Auth) (a : RegAt) (w m : Word) (staged : Bool) : Option State :=
  let n := a.inst
  let new := s.wouldBe a w m
  let need (ok : Bool) : Option State := if ok then none else some (s.locked a.blk n)
  let ring (ctl : Nat) (changed : Bool) : Option State := need !((s.reg ctl).bit 0 && changed)
  let stream (ctl : Nat) : Option State := need !s.streamLocked ctl a.off new
  match a.d.reg with
  | .engPrbase => if s.prbaseOk (2 * n + a.engWorld) then none else some (s.badCmd n)
  | .scpRlyctl => if s.rlyBusy a.j new then some (s.flt (Flt.plain .scp 0 1)) else none
  | .scpSwap => need (au.machine || au.manager)
  | .repFrcfg => if s.frBusy a.j new then some (s.flt (Flt.plain .rep 0 5)) else none
  | .repMode =>
    if coversFld m fRepModeSpair then
      some (s.repModeWrite (new.toNat % 4) fun s => s.storeReg au.src a w m staged)
    else none
  | .seaCtl | .seaInit | .seaFeedb | .seaFeedh | .seaFeedw | .seaScanlen =>
    if s.rb (rSeaStat n) fSeaStatHeld then some (s.busyFeed n) else none
  | .seaClose => if s.rb (rSeaStat n) fSeaStatHeld && (s.sea n).scan.isNone then some (s.busyFeed n) else none
  | .seaAlive =>
    if s.rb (rSeaStat n) fSeaStatHeld then some ((s.busyFeed n).locked .sea n)
    else need (!s.rb (rSeaStat n) fSeaStatOpen && (au.machine || au.view == .win (s.seaWorld n) true))
  | .calWorld => need ((au.custody || au.otherMachine n) && s.quiesced n)
  | .calWsbase => need (s.quiesced n)
  | .calRestart => need (au.otherMachine n && (s.cal n).hold)
  | .lnkTxsctl => stream a.off
  | .lnkTxsda | .lnkTxsid => stream (rLnkTxsctl a.j)
  | .lnkRxsctl => stream a.off
  | .lnkRxsid | .lnkRxsdig | .lnkRxstime | .lnkRxsdest => stream (rLnkRxsctl a.j)
  | .lnkKeysel | .lnkKeydata => need (s.keyOwner au n)
  | .hstSqbase => ring (rHstSqctl a.i a.j) true
  | .hstCqbase => ring (rHstCqctl a.i a.j) true
  | .hstSqctl => ring a.off (((new ^^^ s.reg a.off) &&& (maskOf 1 4 ||| maskOf 8 6)) != 0)
  | .hstCqctl => ring a.off (((new ^^^ s.reg a.off) &&& maskOf 1 4) != 0)
  | .hbcRetent => some (s.retentSet n (wr w fHbcRetentState) (wr w fHbcRetentPage))
  | .arcRelease =>
    let below := BitVec.ofNat 64 (s.log a.i).below
    some (s.arcRelease au a.i (wr ((below &&& ~~~m) ||| (w &&& m)) fArcReleaseBelow))
  | .mtxCntgrant => some (s.cntClear a.j 0 fMtxCntgrantGrants w m)
  | .mtxCntwait => some (s.cntClear a.j 1 fMtxCntwaitWaited w m)
  | .mtxCntmax => some (s.cntClear a.j 2 fMtxCntmaxLongest w m)
  | .lnkCnt => some (s.portClear n w m)
  | .ustResrec => some (s.resrecWrite w m)
  | .cfgCommit => some s
  | _ => none

/-! ### What a write does besides storing its fields -/

/-- The effect of a write `w`, which covers the bits `m`, whose fields have been stored over `old`. -/
def State.wrote (s : State) (au : Auth) (a : RegAt) (old w m : Word) : State :=
  let n := a.inst
  match a.d.reg with
  | .scpRlyctl => s.rlyctlPost a.j old
  | .repFrcfg => s.frcfgPost a.j old
  | .cuePincfg => s.pincfgPost a.j old
  | .cueOutcfg => s.outcfgPost a.j
  | .cueFeed =>
    if s.rb (rCueFeed a.j) fCueFeedEn && !old.bit 0 then s.setReg (rCueFeedstat a.j) 0 else s
  | .seaCtl => s.seaCtlPost n old
  | .calWorld => if coversFld m fCalWorldWorld then s.worldChanged n else s
  | .calWsbase => s.setCal n { s.cal n with wsp := s.reg a.off, depth := 0 }
  | .calCache =>
    let on := s.reg a.off &&& ~~~old
    let s := if on.bit fCalCacheIen.lsb then s.setCal n { s.cal n with ilines := [], fill := none } else s
    if on.bit fCalCacheDen.lsb then s.setCal n { s.cal n with lines := [] } else s
  | .lnkRxsctl => s.rxsctlPost a.j old
  | .lnkTxsctl => s.txsctlPost a.j old
  | .lnkTxctl => s.txctlPost n a.i old
  | .lnkTxtail => s.txtailPost n a.i
  | .hstSqctl => s.sqctlPost a.i a.j old
  | .hstCqctl => s.cqctlPost a.i a.j old
  | .pwrDomctl => s.domctlPost old
  | .pwrRestrain => s.restraint
  | .cusAlarmctl => s.alarmctlPost
  | .cusBootstat => if (s.reg a.off).bit fCusBootstatFailed.lsb && !old.bit fCusBootstatFailed.lsb then s.flt (cusFlt 4 0) else s
  | .engSuspend => if wrb w fEngSuspendGo then s.suspendCmd (2 * n + a.i) else s
  | .engResume => s.resumeCmd (2 * n + a.i) (wr w fEngResumeAction) (wr w fEngResumeTag)
  | .repFrclose => if wrb w fRepFrcloseGo then s.frcloseReg (wr w fRepFrcloseFrame) else s
  | .calRestart => if wrb w fCalRestartGo then s.restart n (4 * wr w fCalRestartAddr) else s
  | .scpSwap => if wrb w fScpSwapGo then s.bankSwap (wr w fScpSwapBank) else s
  | .scpRlyflush => s.rlyFlush (wr w fScpRlyflushRelay)
  | .cueFires => if wrb w fCueFiresGo then s.cueFireReg a.j (wr w fCueFiresChannel) au.src else s
  | .cueGrpset => s.grpWrite (wr w fCueGrpsetGroups) true
  | .cueGrpclr => s.grpWrite (wr w fCueGrpclrGroups) false
  | .idsEoi => s.eoi au (wr w fIdsEoiSource)
  | .idsSrcstat => if wrb w fIdsSrcstatPend then s.arrive a.j else s
  | .seaFeedb => s.seaRegFeed n 1 (wr w fSeaFeedbData)
  | .seaFeedh => s.seaRegFeed n 2 (wr w fSeaFeedhData)
  | .seaFeedw => s.seaRegFeed n 4 (wr w fSeaFeedwData)
  | .seaClose => if wrb w fSeaCloseGo then s.seaCloseReg n else s
  | .seaScanlen => s.scanStart n (wr w fSeaScanlenLen) (wrb w fSeaScanlenCloseafter)
  | .arcAudit => s.auditReg au w
  | .arcBootctl => s.bootReg au w
  | .lnkKeydata => s.keydata n w
  | .lnkRxsstat => if wrb w fLnkRxsstatResync then s.setRf a.off fLnkRxsstatFirst 1 else s
  | .ustSwap =>
    if wrb w fUstSwapGo then
      (s.swapCmd (wr w fUstSwapKind) (wr w fUstSwapTarget) (wr w fUstSwapLane) (wr w fUstSwapPhys)).pollCurtain
    else s
  | .cusModectl => if wrb w fCusModectlGo then s.modectl (wr w fCusModectlTarget) else s
  | .cusCalstart => s.calStart (wr w fCusCalstartCallers)
  | .cusBootload => if wrb w fCusBootloadGo then s.bootLoad (wrb w fCusBootloadCopy) else s
  | .fltInject => if wrb w fFltInjectGo then s.inject a.blk n (wr w fFltInjectKind) else s
  | _ => s

/-- The bits of a register that its fields take. -/
def fldsMask (fs : List Fld) : Word := fs.foldl (fun v f => v ||| maskOf f.lsb f.w) 0

/-- The registers that act on what a write carries and store nothing of it; neither a commit nor a write of a half without a
field reaches these actions. -/
def Reg.acts : Reg → Bool
  | .engSuspend | .engResume | .repFrclose | .calRestart | .scpSwap | .scpRlyflush | .cueFires | .cueGrpset | .cueGrpclr
  | .idsEoi | .idsSrcstat | .seaFeedb | .seaFeedh | .seaFeedw | .seaClose | .seaScanlen | .arcAudit | .arcBootctl
  | .lnkKeydata | .lnkRxsstat | .ustSwap | .cusModectl | .cusCalstart | .cusBootload | .fltInject => true
  | _ => false

/-- A write that reaches its powered block with the rights to write the register: `w` is placed in the register, `m` the
bits covered. LNK.SECCTL.OWNER keeps its value for anyone but the machine level (R560), LNK.TXSCTL.SEALREQ reads 1 in the
safety world (R559). -/
def State.writeReg (s : State) (au : Auth) (a : RegAt) (w m : Word) (staged : Bool) : State :=
  let (s, m) :=
    if a.d.reg == .lnkSecctl && !au.machine && m.bit fLnkSecctlOwner.lsb then
      (s.locked a.blk a.inst, m &&& ~~~maskOf fLnkSecctlOwner.lsb 1)
    else (s, m)
  let w := if a.d.reg == .lnkTxsctl && !(s.wouldBe a w m).bit fLnkTxsctlWorld.lsb then w ||| maskOf fLnkTxsctlSealreq.lsb 1 else w
  match s.writeAlone au a w m staged with
  | some s => s
  | none =>
    let old := s.reg a.off
    let s := s.storeReg au.src a w m staged
    if a.d.reg.acts && (staged || fldsMask a.d.flds &&& m == 0) then s else s.wrote au a old w m

/-- A write of `v` that has passed the checks of the matrix (R15, R32, R679; log entry 17). -/
def State.putReg (s : State) (au : Auth) (a : RegAt) (off size : Nat) (v : Word) (staged : Bool) : State :=
  if !s.blkOn a then s
  else if a.d.machine && !au.machine then s.levelFault au a
  else s.writeReg au a (accValue off size v) (accMask off size) staged

/-- A write of the staging area (R642). -/
def State.stagingWrite (s : State) (au : Auth) (off size : Nat) (v : Word) : State :=
  if !au.machine || size != 8 || s.cfg.run.isSome then s.locked .cfg 0
  else s.stage (off - 0x311_0000) (leBytes 8 v.toNat)

end Sys2Proof.Machine
end

