-- ==== Sys2Proof/Machine/Commit.lean ====
section
/-!
DEFINITION. Configuration commits, previews and the configuration digest (R642 to R648), and the write of the
configuration space as a master makes it.
-/
namespace Sys2Proof.Machine

/-! ### The image and its digest (R646) -/

/-- The registers of a definition, by instance and index. -/
def RegDef.places (d : RegDef) (b : Blk) (inst base : Nat) : List RegAt :=
  (List.range d.n1).flatMap fun i => (List.range d.n2).map fun j => ⟨b, inst, d, i, j, base + d.off + i * d.s1 + j * d.s2⟩

/-- Does the register belong to the image: a configuration-class or RWL field, and not UST.RESREC? -/
def inImage (d : RegDef) : Bool := d.reg != .ustResrec && imageMask d.flds != 0

/-- The registers of the image, block by block. -/
def imageRegs : List RegAt :=
  Blk.all.flatMap fun b => (List.range b.place.count).flatMap fun k =>
    (regsOf b ++ faultRegs b.classMask).flatMap fun d =>
      if inImage d && !(d.first && k != 0) then d.places b k (b.place.base + k * b.place.stride) else []

/-- The image: one record for each register, in ascending offset. -/
def State.image (s : State) : List Byte :=
  (imageRegs.mergeSort fun a b => decide (a.off ≤ b.off)).flatMap fun a =>
    leBytes 4 a.off ++ leBytes 8 (s.reg a.off &&& imageMask a.d.flds).toNat

/-- The digest of the configuration as it stands. -/
def State.digestOf (s : State) : Word := BitVec.ofNat 64 (crc64Ecma.of s.image)

/-! ### Commits (R643 to R645) -/

/-- Staging entry `i`: offset, reserved bytes, value. -/
def State.entryAt (s : State) (i : Nat) : Nat × Nat × Word :=
  let o := 16 * i
  (s.stagedAt o 4, s.stagedAt (o + 4) 4, BitVec.ofNat 64 (s.stagedAt (o + 8) 8))

/-- Does Refit leave the register to Call (R645)? -/
def callOnly : Reg → Bool
  | .mtxHbmsplit | .arcCtl | .cusCurtpol => true
  | _ => false

/-- The register that an entry may change, if any (R643). -/
def State.entryReg (s : State) (i : Nat) : Option RegAt :=
  let (off, res, _) := s.entryAt i
  if res ≠ 0 ∨ off % 8 ≠ 0 ∨ 0x400_0000 ≤ off then none
  else match findReg off with
    | some a => if inImage a.d && !(s.mode == 11 && callOnly a.d.reg) then some a else none
    | none => none

/-- The entries applied in order (R644), for the master whose code is `src`. -/
def State.applyEntries (s : State) (src count : Nat) : State :=
  (List.range count).foldl (fun s i =>
    match s.entryReg i with
    | some a => s.putReg (stagedAuth src) a a.off 8 (s.entryAt i).2.2 true
    | none => s) s

/-- Why a commit or preview is refused (R643): reason and failing entry. -/
def State.commitFails (s : State) (src count check : Nat) (preview : Bool) : Option (Nat × Nat) :=
  if !preview && s.mode != 2 && s.mode != 11 then some (1, 0)
  else if count = 0 ∨ 4096 < count ∨
      crc32c.of (Tab.getMany memDefault s.cfg.staging 0 (16 * count)) ≠ check then some (2, 0)
  else
    match (List.range count).find? fun i => (s.entryReg i).isNone with
    | some i => some (3, i)
    | none =>
      if !preview && s.rb rCfgDigctl fCfgDigctlExpecten &&
          (s.applyEntries src count).digestOf != s.reg rCfgExpect then some (4, 0)
      else if s.cfg.run.isSome then some (5, 0)
      else none

/-- The commit word (R643 to R645). While entries apply the matrix holds every other access, until COMMIT_APPLIED. -/
def State.commitWord (s : State) (src : Nat) (w : Word) : State :=
  let a := rCfgStatus
  let count := wr w fCfgCommitCount
  let preview := wrb w fCfgCommitPreview
  if wrb w fCfgCommitAbort then s.refitEnd
  else
    match s.commitFails src count (wr w fCfgCommitCheck) preview with
    | some (why, i) =>
      ((s.setRf a fCfgStatusLastfail why).setRf a fCfgStatusFailentry i).flt ⟨.cfg, 0, 2, none, 0, why, 0, false⟩
    | none =>
      let s := s.setRf a fCfgStatusApplying 1
      if preview then { s with cfg := { s.cfg with run := some (true, count) } }
      else
        let s := s.applyEntries src count
        { s with cfg := { s.cfg with run := some (false, count), locked := s.cfg.locked || s.mode == 2 } }

/-- PREVIEW_DONE (R643): the digest that the commit would leave. -/
def State.previewDone (s : State) : State :=
  match s.cfg.run with
  | some (true, count) =>
    let d := (s.applyEntries 0 count).digestOf
    let s := (s.setReg rCfgStagedig d).setRf rCfgStatus fCfgStatusApplying 0
    { s with cfg := { s.cfg with run := none } }
  | _ => s

/-! ### The digest (R554, R647, R648) -/

/-- Is there a seal unit outside the logical ones for the digest (R554)? -/
def State.digestUnit (s : State) : Bool := (List.range 8).any fun p => s.isFree (ixSea p)

/-- A digest computation starts, or waits for the one that runs or for seal unit 5 (R554, R647). -/
def State.digestStart (s : State) : State :=
  if !s.ready 50 then s
  else if s.cfg.digest.isSome then { s with cfg := { s.cfg with again := true, changed := false } }
  else
    let own := s.digestUnit
    if !own && !s.seaFree 5 then { s with cfg := { s.cfg with changed := true } }
    else
      let s := if own then s else s.seaHold 5 33 3 0
      let s := s.setRf rCfgStatus fCfgStatusDigbusy 1
      { s with cfg := { s.cfg with digest := some s.digestOf, changed := false } }

/-- A swap of seal units may take the unit of the digest in progress, which then moves: to another that R554 allows, to logical
unit 5, which it holds, or, while that is in use, back to the wait (R554, R607). -/
def State.digestMove (s : State) : State :=
  if s.cfg.digest.isNone || s.digestUnit || (s.sea 5).holder == some 33 then s
  else if s.seaFree 5 then s.seaHold 5 33 3 0
  else { s.setRf rCfgStatus fCfgStatusDigbusy 0 with cfg := { s.cfg with digest := none, changed := true } }

/-- DIGEST_TIMER: every multiple of 1 000 µs. -/
def State.digestTimer (s : State) : State := if s.time % 1000 = 0 then s.digestStart else s

/-- DIGEST_START: a field of the image has changed. -/
def State.digestChange (s : State) : State := if s.cfg.changed then s.digestStart else s

/-- DIGEST_PUBLISH (R647, R648): the value shows, seal unit 5 is released, DIGMISMATCH where it applies, and a waiting
computation starts. -/
def State.digestPublish (s : State) : State :=
  match s.cfg.digest with
  | none => s
  | some d =>
    let s := ((s.setReg rCfgDigest d).addRf rCfgDigstat fCfgDigstatSeq 1).setRf rCfgStatus fCfgStatusDigbusy 0
    let s := if (s.sea 5).holder = some 33 then (s.seaCloseVal 5 0 3 d.toNat).seaIdle 5 else s
    let again := s.cfg.again
    let s := { s with cfg := { s.cfg with digest := none, again := false } }
    let s := if s.rb rCfgDigctl fCfgDigctlExpecten && s.mode != 11 && d != s.reg rCfgExpect then
        (s.raise ⟨.cfg, 0, 3, none, 0, 0, 0, false⟩).curtEvent 4
      else s
    if again then s.digestStart else s

/-! ### Writes -/

/-- A write of the configuration space by a master: `none` while it waits. -/
def State.regWrite (s : State) (au : Auth) (off size : Nat) (v : Word) : Option State :=
  match s.admits au off size true with
  | none => none
  | some (.error s) => some s
  | some (.ok .staging) => some (s.stagingWrite au off size v)
  | some (.ok (.reg a)) =>
    if a.d.reg == .cfgCommit && au.machine then some (s.commitWord au.src (accValue off size v))
    else some (s.putReg au a off size v false)

/-- The same with the reason of a refusal by the matrix, for the masters that hear of it (R370, R578). -/
def State.regStore (s : State) (au : Auth) (off size : Nat) (v : Word) : Option (State × Option MErr) :=
  match s.regWrite au off size v with
  | none => none
  | some t =>
    let why : Option MErr :=
      match cfgDecode off size true with
      | none => some .cfgspace
      | some x =>
        match s.check au.view .wr (cfgBase + off) with
        | .error e => some e
        | .ok _ => if ringHidden au x then some .perm else none
    some (t, why)

/-- A write row: a write that waits leaves the state as it is. -/
def State.write (s : State) (m : Master) (off : Nat) (v : Word) (size : Nat := 8) : State :=
  (s.regWrite (s.auth m) off size v).getD s

/-- A read-modify-write of a register: `f` applied to what it holds. -/
def State.rewrite (s : State) (m : Master) (off : Nat) (f : Word → Word) : State := s.write m off (f (s.reg off))

end Sys2Proof.Machine
end

