-- ==== Sys2Proof/Machine/HostCopy.lean ====
section
/-!
DEFINITION. The copies between host memory and the device's memory or configuration space (R578), and the completion
timeouts of engines (R571).
-/
namespace Sys2Proof.Machine

/-- The rights of a descriptor of function `f` (R360, R576): its accesses are not BAR0 accesses. -/
def descAuth (f : Nat) : Auth := { hostAuth (worldOf f) with host := none }

/-- The bytes from `a` that a read delivers before its first refusal, and that refusal. -/
def State.loadSome (s : State) (v : View) (a : Nat) : Nat → List Byte × Option MErr
  | 0 => ([], none)
  | n + 1 =>
    match s.loadByte Paths.hostBlock v .rd a with
    | .ok b => let (bs, e) := s.loadSome v (a + 1) n; (b :: bs, e)
    | .error e => ([], some e)

/-- How many of the `n` bytes from `a` accept a write before the first refusal, and that refusal. The span of `len` bytes at
`lo` is written in all: an uncorrectable code unit that it covers in part fails its read-modify-write (R351, R356). -/
def State.storeSome (s : State) (v : View) (lo len a : Nat) : Nat → Nat × Option MErr
  | 0 => (0, none)
  | n + 1 =>
    match s.checkAll Paths.hostBlock v .wr a 1 with
    | .ok _ =>
      let stuck := match s.target a with | .mem q => (s.partIn (q + lo - a) len q 1).isSome | _ => false
      if stuck then (0, some .ecc)
      else let (k, e) := s.storeSome v lo len (a + 1) n; (k + 1, e)
    | .error e => (0, some e)

/-- The size of the access that a copy of `left` bytes makes at configuration offset `off` (R32). -/
def cfgStep (off left : Nat) : Nat := if off % 8 = 0 ∧ 8 ≤ left then 8 else if off % 4 = 0 ∧ 4 ≤ left then 4 else 1

/-- Descriptor `d` has moved on to `m` bytes: it ends, or goes on. -/
def State.copyNext (s : State) (f n : Nat) (d : DescSt) (m : Nat) : State :=
  if m = d.u 0x18 8 then s.descEnd f n { d with moved := m } 0 m 0 else s.setDesc f n { d with moved := m }

/-- COPY from the host: up to `k` bytes once their memory is up (R680), or one access of the configuration space; an access that
R33 does not decode ends it ACCESS with kind CFGSPACE, as one that the windows refuse (DESIGN CHOICE, log entry 175). -/
def State.copyIn (s : State) (f n i k : Nat) : State :=
  match s.copyAt f n i 0 0 with
  | none => s
  | some d =>
    let v := funView f
    let a := d.u 0x10 8 + d.moved
    let left := d.u 0x18 8 - d.moved
    match s.target a with
    | .cfg off =>
      let sz := cfgStep off left
      (match s.regStore (descAuth f) off sz (BitVec.ofNat 64 (ofLeBytes (s.hostRead (d.u 8 8 + d.moved) sz))) with
       | none => s.setDesc f n d
       | some (s, some e) => s.descEnd f n d 4 d.moved (a % 2 ^ 56 + 2 ^ 56 * e.code)
       | some (s, none) => s.copyNext f n d (d.moved + sz))
    | _ =>
      if !s.spanReady a (min k left) then s.setDesc f n d
      else
      let lo := d.u 0x10 8
      let (m, e) := s.storeSome v lo (d.u 0x18 8) a (min k left)
      let s := if m = 0 then s else s.storeIn lo (d.u 0x18 8) v a (s.hostRead (d.u 8 8 + d.moved) m)
      let d := { d with moved := d.moved + m }
      match e with
      | some e => s.descAccess f n d e (a + m)
      | none => s.copyNext f n d d.moved

/-- COPY to the host: up to `k` bytes once their memory is up (R680), or one access of the configuration space; an access that
R33 does not decode ends it ACCESS with kind CFGSPACE and not with the zero that R33 gives (DESIGN CHOICE, log entry 175). -/
def State.copyOut (s : State) (f n i k : Nat) : State :=
  match s.copyAt f n i 1 0 with
  | none => s
  | some d =>
    let a := d.u 8 8 + d.moved
    let left := d.u 0x18 8 - d.moved
    let dst := d.u 0x10 8 + d.moved
    match s.target a with
    | .cfg off =>
      let sz := cfgStep off left
      (match s.regLoad (descAuth f) off sz with
       | none => s.setDesc f n d
       | some (s, .error e) => s.descEnd f n d 4 d.moved (a % 2 ^ 56 + 2 ^ 56 * e.code)
       | some (s, .ok x) =>
         if (cfgDecode off sz false).isNone then s.descEnd f n d 4 d.moved (a % 2 ^ 56 + 2 ^ 56 * MErr.cfgspace.code)
         else
           (s.hostWrite dst (leBytes sz x.toNat)).copyNext f n d (d.moved + sz))
    | _ =>
      if !s.spanReady a (min k left) then s.setDesc f n d
      else
      let (bs, e) := s.loadSome (funView f) a (min k left)
      let s := s.hostWrite dst bs
      let d := { d with moved := d.moved + bs.length }
      match e with
      | some e => s.descAccess f n d e (a + bs.length)
      | none => s.copyNext f n d d.moved

/-- The completion timeout of an engine's read of the host window (R571): the order, which for CTO ms has retired nothing,
stops as it would with the link down (R213). -/
def State.engTimeout (s : State) (q : Nat) : State :=
  match s.head q with
  | none => s
  | some x =>
    if x.run.phase ≠ .running ∨ s.time < x.run.since + s.ctoUs then s
    else
      let rep := x.run.reprised && decide (min (x.run.blockEnd x.n) x.n ≤ x.run.perf.next)
      let v : Env := ⟨s.setRf rHstPstat fHstPstatLinkup 0, qWorld q, x, rep⟩
      match v.unit (x.run.pass rep) with
      | .flt sl k a => if k = MErr.host.code then s.unitStop q x rep 8 sl k a else s
      | _ => s

end Sys2Proof.Machine
end

