-- ==== Sys2Proof/Machine/Callers.lean ====
section
/-!
DEFINITION. What every instruction of a logical caller shares (09, 10): its caches (R416 to R419), and the issue and retirement
of an instruction (R402, R446, R449).
-/
namespace Sys2Proof.Machine

/-! ### Issue and retirement -/

/-- Does caller `c` run at this moment? It has started, is neither asleep nor held nor, outside an open shadow, handed over, its
physical caller is up, and neither an exception nor an ORDER of a closed shadow waits (R426, R444, R446, R449, R606,
R624). -/
def State.runs (s : State) (c : Nat) : Bool :=
  let x := s.cal c
  x.on && !x.paused && !(x.moving && x.shadow.isNone) && !x.asleep && !x.hold && x.exc.isNone && (x.shadow.isSome || x.orders.isEmpty) &&
  s.domOn (20 + s.calPhys c) && s.ready (16 + c)

/-- Does it issue an instruction of any kind: no load has issued and not retired (log entry 105)? -/
def State.issues (s : State) (c : Nat) : Bool := s.runs c && (s.cal c).lds.isEmpty

/-! ### Caches (R416 to R419) -/

/-- The line of a cache that holds `a`, if it is present. -/
def lineOf (ls : List (Nat × List Byte)) (a : Nat) : Option (List Byte) := (ls.find? fun l => l.1 == a / 64).map (·.2)

/-- The 64 bytes from `b` in memory, or nothing where one of them is uncorrectable or no memory. -/
def State.lineAt (s : State) (b : Nat) : Option (List Byte) :=
  match s.target b with
  | .mem p => if s.anyBad p 64 then none else some (s.peek p 64)
  | .rom o => some ((List.range 64).map fun i => Config.bootRom (o + i))
  | _ => none

/-- The lines of a cache with that of `a` filled: in its set of four ways it takes a free one, or one that the manual leaves
open (R416). -/
def State.fill (s : State) (ls : List (Nat × List Byte)) (a : Nat) : List (Nat × List Byte) × State :=
  let k := a / 64
  match s.lineAt (64 * k) with
  | none => (ls, s)
  | some bs =>
    let set := ls.filter fun l => l.1 % 128 == k % 128
    if set.any fun l => l.1 == k then (ls, s)
    else if set.length < 4 then ((k, bs) :: ls, s)
    else
      let (v, s) := s.takeFree
      let victim := ((set[v.toNat % 4]?).map (·.1)).getD 0
      ((k, bs) :: ls.filter fun l => l.1 != victim, s)

/-- A hit at `a` meets a parity error (R416). -/
def State.parityAt (s : State) (c a : Nat) : Bool :=
  Config.parityError c (2 ^ 48 * s.free + s.rf (rCalRetired c) fCalRetiredCount) a

/-- A cache parity error (R416, R596): CACHEPAR, and it counts toward the wear of the physical caller. -/
def State.cachePar (s : State) (c : Nat) : State :=
  let p := s.calPhys c
  let s := (s.takeFree).2.flt (Flt.plain .cal c 1)
  let ts := lastDay s.time (Tab.get listDefault s.ust.calCe p) ++ [s.time]
  let s := { s with ust := { s.ust with calCe := Tab.set listDefault s.ust.calCe p ts } }
  let s := s.setPhys (ixCal p) { s.phys (ixCal p) with errs := satAdd (s.phys (ixCal p)).errs 1 65535 }
  if ts.length > s.rf rUstPolicy fUstPolicyCelim then s.wear (ixCal p) false else s

/-- What a fetch meets: its word, a line to be filled first, a line with a parity error, memory that is not up, or a fault. -/
inductive FetchRes where
  | word
  | miss
  | parity
  | wait
  | fault (e : MErr)
  deriving DecidableEq, Repr

/-- The fetch of the word at `pc` (R365, R417, R418, R440): the path, then the windows, then the cache or the memory. A line
that holds an uncorrectable word elsewhere is not filled: the word comes from memory. -/
def State.fetch (s : State) (c pc : Nat) : FetchRes :=
  let t := s.target pc
  match Paths.fetch.reach t with
  | .error _ => .fault (match t with | .void => .nomap | _ => .cfgspace)
  | .ok _ =>
    match s.check (s.calView c (s.cal c).lvl) .fetch pc with
    | .error e => .fault e
    | .ok t =>
      let ien := s.rb (rCalCache c) fCalCacheIen
      if ien && (lineOf (s.cal c).ilines pc).isSome then (if s.parityAt c pc then .parity else .word)
      else
        let up := if ien && (s.lineAt (64 * (pc / 64))).isSome then .miss else .word
        match t with
        | .mem p => if !s.memReady p then .wait else if s.bad p then .fault .ecc else up
        | _ => if s.ready 51 then up else .wait

/-- What a faulting fetch records besides the exception (R352, R356, R361). -/
def State.fetchNote (s : State) (c pc : Nat) : MErr → State
  | .ecc => (match s.target pc with | .mem p => s.memUe p | _ => s)
  | e => s.refuse { s.calAuth c (s.cal c).lvl with src := 0x81 + 2 * c } e pc

/-- Does a long operation, a load or an ORDER in flight still have to write one of these registers (R402)? -/
def CalSt.clash (x : CalSt) (keys vregs : List Nat) : Bool :=
  (x.longs.any fun l => l.dest.any (fun d => keys.contains d.1) || l.vdest.any fun d => vregs.contains d.1) ||
  (x.lds.any fun l => l.d != 0 && keys.contains (gprKey x.r.wp l.d)) || x.orders.any fun o => keys.contains o.dest

/-- The caller goes on at `pc`: an open shadow counts the instruction, whose retirement itself waits for SYNC.C there
(R449). -/
def State.moved (s : State) (c pc : Nat) (ret : Bool) : State :=
  let x := s.cal c
  let sh := x.shadow.map fun h => { h with count := h.count + 1, ret := h.ret + ret.toNat }
  let s := s.setCal c { x with pc := pc % 2 ^ 48, want := 0, shadow := sh }
  if ret && x.shadow.isNone then s.addRf (rCalRetired c) fCalRetiredCount 1 else s

/-- Retire: the caller goes on at `pc`, where a pending trap may be taken. -/
def State.goto (s : State) (c pc : Nat) (ret : Bool := true) : State := (s.moved c pc ret).pollTrap c

/-- Retire and go on with the following instruction. -/
def State.next (s : State) (c : Nat) : State := s.goto c ((s.cal c).pc + 4)

/-- An instruction that has issued and not retired retires (R402, R449). -/
def State.didRetire (s : State) (c : Nat) : State :=
  let x := s.cal c
  match x.shadow with
  | some h => s.setCal c { x with shadow := some { h with ret := h.ret + 1 } }
  | none => s.addRf (rCalRetired c) fCalRetiredCount 1

/-- One instruction of caller `c` with instruction word `word` (R402, R446): it waits, raises the first of FETCH, ILLEGAL and
SHADOW that applies, waits for the registers `regs` and `vregs` that it names, or acts. `syncs`: SYNC.C and RETX, which
close a shadow. -/
def State.instr (s : State) (c word : Nat) (ill : Bool) (regs : List (BitVec 5)) (vregs : List Nat) (act : State → State)
    (syncs : Bool := false) : State :=
  let x := s.cal c
  if !s.issues c then s
  else match s.fetch c x.pc with
    | .wait => s
    | .miss => s.setCal c { x with fill := some (x.pc / 64) }
    | .parity =>
      let s := s.setCal c { x with ilines := x.ilines.filter fun l => l.1 != x.pc / 64, fill := some (x.pc / 64) }
      s.cachePar c
    | .fault e => (s.fetchNote c x.pc e).except c excFetch e.kind x.pc x.pc
    | .word =>
      if ill then s.except c excIllegal 0 word x.pc
      else if !syncs && (match x.shadow with | some h => decide (8 ≤ h.count) | none => false) then
        s.except c excShadow 0 x.pc x.pc
      else if x.clash (regs.flatMap fun r => s.destKeys c r) vregs then s
      else act s

/-! ### Instruction words (R393) -/

def wordA (major : Nat) (d s1 s2 : BitVec 5) (fn : Nat) : Nat :=
  2 ^ 26 * major + 2 ^ 21 * d.toNat + 2 ^ 16 * s1.toNat + 2 ^ 11 * s2.toNat + fn
def wordI (major : Nat) (d s1 : BitVec 5) (imm : BitVec 16) : Nat :=
  2 ^ 26 * major + 2 ^ 21 * d.toNat + 2 ^ 16 * s1.toNat + imm.toNat
def wordF (major : Nat) (d s1 s2 s3 : BitVec 5) (rnd ty : BitVec 3) : Nat :=
  wordA major d s1 s2 (2 ^ 6 * s3.toNat + 2 ^ 3 * rnd.toNat + ty.toNat)
def wordX (d s1 : BitVec 5) (sty tty : BitVec 4) (rnd : BitVec 3) (sat : Bool) : Nat :=
  2 ^ 26 * 0x35 + 2 ^ 21 * d.toNat + 2 ^ 16 * s1.toNat + 2 ^ 12 * sty.toNat + 2 ^ 8 * tty.toNat + 2 ^ 5 * rnd.toNat +
  2 ^ 4 * sat.toNat
def wordV (op : Nat) (vd vs1 vs2 : BitVec 5) (masked scalar : Bool) : Nat :=
  wordA 0x38 vd vs1 vs2 (2 ^ 10 * masked.toNat + 2 ^ 9 * scalar.toNat + op)

end Sys2Proof.Machine
end

