-- ==== Sys2Proof/Machine/CalMem.lean ====
section
/-!
DEFINITION. The memory side of a caller (09): loads, stores, their buffer and responses (R416 to R422), the spill engine
(R411 to R415), the handler-table reload (R441), and the synchronising instructions (R423).
-/
namespace Sys2Proof.Machine

/-! ### The data cache (R416 to R419) -/

/-- Is an access of caller `c` to `a` cached in the data cache (R416, R417)? -/
def State.cached (s : State) (c a : Nat) : Bool :=
  s.rb (rCalCache c) fCalCacheDen &&
  (match s.target a with | .mem _ | .rom _ => true | _ => false) &&
  (match s.calView c (s.cal c).lvl with
   | .free => true
   | .win w _ => (match s.window w a with | some n => !s.rb (rMtxWattr w.idx n) fMtxWattrNc | none => true))

/-- The line of the data cache that holds `a`, if it is present. -/
def CalSt.line (x : CalSt) (a : Nat) : Option (List Byte) := lineOf x.lines a

/-- `bs` laid over the bytes of a line that starts at `b`, from address `a`. -/
def overlay (b a : Nat) (bs old : List Byte) : List Byte :=
  (List.range old.length).map fun i =>
    if a ≤ b + i ∧ b + i < a + bs.length then (bs[b + i - a]?).getD 0 else (old[i]?).getD 0

/-- A store updates the lines that are present (R416). -/
def State.lineStore (s : State) (c a : Nat) (bs : List Byte) : State :=
  let x := s.cal c
  s.setCal c { x with lines := x.lines.map fun l => (l.1, overlay (64 * l.1) a bs l.2) }

/-- The line of `a` is filled in the data cache. -/
def State.fillLine (s : State) (c a : Nat) : State :=
  let (ls, s) := s.fill (s.cal c).lines a
  s.setCal c { s.cal c with lines := ls }

/-- The fill of an instruction line ends. -/
def State.fillCode (s : State) (c a : Nat) : State :=
  let (ls, s) := s.fill (s.cal c).ilines a
  s.setCal c { s.cal c with ilines := ls, fill := none }

/-- A line of the data cache with a parity error goes (R416). -/
def State.lineParity (s : State) (c a : Nat) : State :=
  (s.setCal c { s.cal c with lines := (s.cal c).lines.filter fun l => l.1 != a / 64 }).cachePar c

/-! ### Loads (R418, R420, R421) -/

/-- The address `s1 + imm`. -/
def State.effAddr (s : State) (c : Nat) (s1 : BitVec 5) (imm : BitVec 16) : Nat :=
  (s.gpr c s1 + imm.signExtend 64).toNat

/-- The check that every data access passes before the cache and the store buffer (R418, R440). -/
def State.dataCheck (s : State) (c : Nat) (k : Acc) (a : Nat) : Except MErr Target :=
  if a ≥ 2 ^ 48 then .error .nomap
  else match Paths.data.reach (s.target a) with
    | .error e => .error e
    | .ok _ =>
      match s.check (s.calView c (s.cal c).lvl) k a with
      | .ok (.rom o) => if k = .wr then .error .perm else .ok (.rom o)
      | r => r

/-- What a refused data access of caller `c` records (R361, R362). -/
def State.dataNote (s : State) (c : Nat) (e : MErr) (a : Nat) : State := s.refuse (s.calAuth c (s.cal c).lvl) e a

/-- The bytes of `b` overlap those of an access. -/
def SbEnt.meets (b : SbEnt) (a n : Nat) : Bool := decide (b.addr < a + n ∧ a < b.addr + b.bytes.length)
def SbEnt.holds (b : SbEnt) (a n : Nat) : Bool := decide (b.addr ≤ a ∧ a + n ≤ b.addr + b.bytes.length)

/-- What a load takes from the store buffer (R421): nothing, the bytes of the youngest overlapping store, or it waits. -/
inductive Fwd where
  | none
  | bytes (bs : List Byte)
  | wait
  deriving DecidableEq, Repr

def CalSt.forward (x : CalSt) (a n : Nat) : Fwd :=
  match (x.sb.filter fun b => b.meets a n).getLast? with
  | none => .none
  | some b => if b.holds a n then .bytes ((b.bytes.drop (a - b.addr)).take n) else .wait

/-- The register value of `size` loaded bytes. -/
def loadExt (size : Nat) (signed : Bool) (bs : List Byte) : Word :=
  let v := ofLeBytes bs
  if signed then BitVec.ofNat 64 (wrapInt 64 (toSigned (8 * size) v)) else BitVec.ofNat 64 v

/-- A load whose data are at hand retires. -/
def State.loadDone (s : State) (c : Nat) (d : BitVec 5) (size : Nat) (signed : Bool) (bs : List Byte) : State :=
  (s.setGpr c d (loadExt size signed bs)).next c

/-- A load issues, and waits for its data or for older loads (R402, R421). -/
def State.loadIssue (s : State) (c : Nat) (l : LoadSt) : State :=
  (s.setCal c { s.cal c with lds := (s.cal c).lds ++ [l] }).moved c ((s.cal c).pc + 4) false

/-- The access of a scalar load (R420, R421): forwarded, a hit, or outstanding until LOAD_RESPONSE. Loads retire in program
order; behind older ones a load that faults, or whose read could have an effect, waits. -/
def State.loadAct (s : State) (c : Nat) (d s1 : BitVec 5) (imm : BitVec 16) (size : Nat) (signed : Bool) : State :=
  let x := s.cal c
  let first := x.lds.isEmpty
  let a := s.effAddr c s1 imm
  let ask (s : State) (cached : Bool) (res : LoadRes) : State := s.loadIssue c ⟨x.pc, d.toNat, a, size, signed, cached, res, s.time⟩
  let done (bs : List Byte) : State := if first then s.loadDone c d size signed bs else ask s false (.bytes bs)
  if a % size ≠ 0 then (if first then s.except c excAlign 0 a x.pc else s)
  else match s.dataCheck c .rd a with
    | .error e => if first then (s.dataNote c e a).except c excLoad e.kind a x.pc else s
    | .ok t =>
      match t with
      | .mem _ | .rom _ =>
        (match x.forward a size with
         | .wait => s
         | .bytes bs => done bs
         | .none =>
           if s.cached c a then
             match x.line a with
             | some l => if s.parityAt c a then ask (s.lineParity c a) true .wait else done ((l.drop (a % 64)).take size)
             | none => ask s true .wait
           else ask s false .wait)
      | _ => if x.sb.isEmpty && first then ask s false .wait else s

/-- A scalar load of `size` bytes. Another load may stand before it that has not retired: then it issues unless something
holds it up, a cause of an exception among them. -/
def State.loadIns (s : State) (c word : Nat) (d s1 : BitVec 5) (imm : BitVec 16) (size : Nat) (signed : Bool) : State :=
  let x := s.cal c
  if x.lds.isEmpty then s.instr c word false [d, s1] [] fun s => s.loadAct c d s1 imm size signed
  else if !s.runs c || s.fetch c x.pc != .word || (match x.shadow with | some h => decide (8 ≤ h.count) | none => false) ||
      decide (16 ≤ x.lds.length) || decide (32 ≤ x.lds.length + x.longs.length) ||
      x.clash ([d, s1].flatMap fun r => s.destKeys c r) [] then s
  else s.loadAct c d s1 imm size signed

/-- The oldest loads retire, as far as their data have come; a fault is precise and cancels the younger ones (R402, R446). -/
def State.retireLoads (c : Nat) : Nat → State → State
  | 0, s => s
  | n + 1, s =>
    let x := s.cal c
    match x.lds with
    | [] => s.pollTrap c
    | l :: rest =>
      match l.res with
      | .wait => s.pollTrap c
      | .bytes bs =>
        let s := s.setCal c { x with lds := rest }
        State.retireLoads c n ((s.setGpr c (BitVec.ofNat 5 l.d) (loadExt l.size l.signed bs)).didRetire c)
      | .fault k => (s.setCal c { x with lds := [], pc := l.pc }).except c excLoad k l.addr l.pc

/-- The outstanding load `i` has come back. -/
def State.loadBack (s : State) (c i : Nat) (r : LoadRes) : State :=
  State.retireLoads c 17 (s.setCal c { s.cal c with lds := (s.cal c).lds.modify i fun l => { l with res := r } })

/-- The number of the oldest outstanding load with a property. -/
def CalSt.waitingLoad (x : CalSt) (p : LoadSt → Bool) : Option Nat := x.lds.findIdx? fun l => l.res == .wait && p l

/-- What the memory's code found in a read at `p` (R352, R356). -/
def State.readNote (s : State) (p : Nat) (err : MemErr) : State :=
  let s := match err with
    | .none => s
    | .corrected => if s.bad p then s else s.memCe p
    | .uncorrectable => s.setBad p true
  if s.bad p then s.memUe p else s

/-- The data of load `l`, with what was found on the way; nothing while its target is not up. -/
def State.loadRead (s : State) (c : Nat) (l : LoadSt) (err : MemErr) : Option (State × LoadRes) :=
  let fill (s : State) : State := if l.cached then s.fillLine c l.addr else s
  match s.target l.addr with
  | .mem p =>
    if !s.memReady p then none
    else
      let s := s.readNote p err
      some (if s.bad p then (s, .fault MErr.ecc.kind) else (fill s, .bytes (s.peek p l.size)))
  | .rom o =>
    if !s.ready 51 then none else some (fill s, .bytes ((List.range l.size).map fun i => Config.bootRom (o + i)))
  | .cfg off =>
    (match s.regLoad (s.calAuth c (s.cal c).lvl) off l.size with
     | none => none
     | some (s, .error e) => some (s, .fault e.kind)
     | some (s, .ok v) => some (s, .bytes (leBytes l.size v.toNat)))
  | .host o =>
    let w := (s.calView c (s.cal c).lvl).obWorld
    some (s, if s.hostUp w && err == .none then .bytes (Tab.getMany hostDefault s.hostMem (s.hostAddr w o) l.size)
      else .fault MErr.host.kind)
  | .void => some (s, .fault MErr.nomap.kind)

/-- LOAD_RESPONSE (R351, R356, R416, R421, R422, R440): under the ordered identifier, that of the data fills or that of the
instruction fills, the oldest outstanding request; `err`: what the memory's code found, or an error of the host interface. -/
def State.loadResponse (s : State) (c : Nat) (id : LoadId) (err : MemErr) : State :=
  let x := s.cal c
  match id with
  | .code =>
    (match x.fill with
     | none => s
     | some k =>
       let a := if x.pc / 64 = k then x.pc else 64 * k
       match s.target a with
       | .mem p => if !s.memReady p then s else (s.readNote p err).fillCode c a
       | _ => if !s.ready 51 then s else s.fillCode c a)
  | _ =>
    match x.waitingLoad fun l => l.cached == (id == .data) with
    | none => s
    | some i =>
      match x.lds[i]? with
      | none => s
      | some l => match s.loadRead c l err with
        | none => s
        | some (s, r) => s.loadBack c i r

/-- The completion timeout of the oldest load of the host window that has been outstanding for CTO ms (R440, R571). -/
def State.loadTimeout (s : State) (c : Nat) : State :=
  match (s.cal c).waitingLoad fun l =>
    (match s.target l.addr with | .host _ => true | _ => false) && decide (l.since + s.ctoUs ≤ s.time) with
  | some i => s.loadBack c i (.fault MErr.host.kind)
  | none => s

/-! ### Stores (R420, R422, R440) -/

/-- A scalar store of the low `size` bytes of `d`. -/
def State.storeIns (s : State) (c word : Nat) (d s1 : BitVec 5) (imm : BitVec 16) (size : Nat) : State :=
  s.instr c word false [d, s1] [] fun s =>
    let x := s.cal c
    let a := s.effAddr c s1 imm
    if a % size ≠ 0 then s.except c excAlign 0 a x.pc
    else match s.dataCheck c .wr a with
      | .error e => (s.dataNote c e a).except c excStore e.kind a x.pc
      | .ok _ =>
        if 8 ≤ x.sb.length then s
        else
          let b : SbEnt := ⟨a, leBytes size (s.gpr c d).toNat, x.lvl, x.pc, x.shadow.isSome⟩
          (s.setCal c { x with sb := x.sb ++ [b] }).next c

/-- A store leaves the buffer for memory: its effect, and the kind of the error that its response will carry. -/
def State.storeMem (s : State) (p : Nat) (bs : List Byte) : State × Nat :=
  match s.partBad p bs.length with
  | some u => (s.memUe u, MErr.ecc.kind)
  | none => ((s.poke p bs).touch p bs.length, 0)

/-- Why the overrides of R362 refuse a write of `n` bytes at `a` now, and the byte: a buffer may have closed, or a page been
fenced, since the store was issued. -/
def State.overridden (s : State) (a n : Nat) : Option (MErr × Nat) :=
  (List.range n).findSome? fun i => match s.check .free .wr (a + i) with | .error e => some (e, a + i) | .ok _ => none

/-- STORE_DRAIN (R362, R370, R420, R422): the oldest store leaves the buffer; what the overrides refuse is not written, and its
response carries the kind (log entry 180). -/
def State.storeDrain (s : State) (c : Nat) : State :=
  let x := s.cal c
  match x.sb with
  | [] => s
  | b :: rest =>
    if b.inShadow then s
    else
      let done (s : State) (kind : Nat) : State :=
        let s := s.setCal c { s.cal c with sb := rest, resp := (s.cal c).resp ++ [⟨b.addr, b.bytes.length, b.lvl, kind⟩] }
        if kind = 0 then s.lineStore c b.addr b.bytes else s
      match s.target b.addr with
      | .mem p =>
        if !s.memReady p then s
        else match s.overridden b.addr b.bytes.length with
          | some (e, a) => done (s.refuse (s.calAuth c b.lvl) e a) e.kind
          | none =>
            let (s, k) := s.storeMem p b.bytes
            done s k
      | .cfg off =>
        (match s.regStore (s.calAuth c b.lvl) off b.bytes.length (BitVec.ofNat 64 (ofLeBytes b.bytes)) with
         | none => s
         | some (s, some e) => done s (match e with | .nomap | .perm => e.kind | _ => 0)
         | some (s, none) => done s 0)
      | .host _ =>
        let v := s.calView c b.lvl
        if s.hostUp v.obWorld then done (s.storeBytes v b.addr b.bytes) 0 else done s MErr.host.kind
      | _ => done s MErr.nomap.kind

/-! ### ORDER (R83 to R86, R425) -/

/-- Does a read of the host window at `a` by VLD or ORDER end with an error or at the completion timeout (R440, R571)? Which do is
open. -/
def State.hostReadFails (s : State) (a : Nat) : Bool := Config.hostFails (2 ^ 48 * s.free + a)

/-- A read of `n` bytes at `a` that meets the host window has passed such an open point. -/
def State.hostSeen (s : State) (a n : Nat) : State :=
  if (List.range n).any fun i => match s.target (a + i) with | .host _ => true | _ => false then s.takeFree.2 else s

/-- The bytes that ORDER reads, uncached (R84, R417); `none` where a read faults. -/
def State.orderBytes (s : State) (c a : Nat) : Bytes := fun i =>
  match s.dataCheck c .rd (a + i) with
  | .ok (.mem p) => if s.bad p then none else some (s.byte p).toNat
  | .ok (.rom o) => some (Config.bootRom o).toNat
  | .ok (.host o) =>
    let w := (s.calView c (s.cal c).lvl).obWorld
    if s.hostUp w && !s.hostReadFails (a + i) then some (Tab.get hostDefault s.hostMem (s.hostAddr w o)).toNat else none
  | .ok _ => some 0
  | .error _ => none

/-- Why the byte at `a` faults, and what that records. -/
def State.orderFault (s : State) (c a : Nat) : State × MErr :=
  match s.dataCheck c .rd a with
  | .ok (.mem p) => (s.memUe p, .ecc)
  | .ok _ => (s, .host)
  | .error e => (s.dataNote c e a, e)

/-- Does an issue word have a reserved bit set (R84)? Then no byte of the order is read. -/
def issueBad (word : Word) : Bool := word.fld 4 4 != 0 || word.fld 24 40 != 0

/-- Does ORDER wait for memory (R680)? Its issue word and the windows come first (R84). -/
def State.orderWaits (s : State) (c a : Nat) (word : Word) : Bool :=
  !issueBad word && match s.dataCheck c .rd a with | .ok (.mem p) => !s.memReady p | _ => false

/-- ORDER reads the order and issues it: the issue result, or the fault of a read with its address. -/
def State.orderRun (s : State) (c a : Nat) (word : Word) : State × Except (MErr × Nat) Nat :=
  let e := word.fld 0 4
  let tag := word.fld 8 16
  let w := s.calWorld c
  let q := qOf e w
  let issue (d : Except (Nat × Nat) OrderD) : State × Except (MErr × Nat) Nat :=
    let (t, st, off) := (s.hostSeen a 1).offer e w tag c ((s.cal c).lvl != 0) none d
    (t, .ok (issueResult st off (t.qFree q)))
  if issueBad word then issue (.error (stReserved, 0))
  else match s.target a, decodeOrder (s.orderBytes c a) with
    | .cfg off, .error (.rej st o) =>
      -- its first byte is a decode fault and reads zero, which is rejected: no further byte is read (R33, R84)
      let (t, r) := issue (.error (st, o))
      (t.decodeFault (s.calAuth c (s.cal c).lvl) off, r)
    | _, .ok o => issue (.ok o)
    | _, .error (.rej st off) => issue (.error (st, off))
    | _, .error (.flt i) =>
      let (t, e) := (s.hostSeen a 1).orderFault c (a + i)
      (t, .error (e, a + i))

/-- The ORDERs of a closed shadow, oldest first, once every earlier store has its response (R425, R449); each retires with its
result. Then a pending trap may be taken (R445). -/
def State.runOrders (c : Nat) : List OrdSt → State → State
  | [], s => s.pollTrap c
  | o :: rest, s =>
    if !(s.cal c).sb.isEmpty || !(s.cal c).resp.isEmpty || s.orderWaits c o.addr o.word then s
    else
      match s.orderRun c o.addr o.word with
      | (s, .ok v) =>
        let s := (s.setCal c { s.cal c with orders := rest }).retires c true
        let s := if o.dest = 0 then s else s.onRegs c fun x => x.put o.dest (BitVec.ofNat 64 v)
        State.runOrders c rest s
      | (s, .error (e, b)) => (s.setCal c { s.cal c with orders := [] }).except c excLoad e.kind b o.pc

/-- Whatever waits for the responses of stores goes on. -/
def State.pollOrders (s : State) (c : Nat) : State :=
  let x := s.cal c
  if x.shadow.isSome || x.orders.isEmpty then s else State.runOrders c x.orders s

/-- ORDER d, s1, s2 (R425): it waits until every earlier store has its response; in a shadow it waits for SYNC.C. -/
def State.orderIns (s : State) (c word : Nat) (d s1 s2 : BitVec 5) : State :=
  s.instr c word false [d, s1, s2] [] fun s =>
    let x := s.cal c
    let a := (s.gpr c s1).toNat
    if x.shadow.isSome then
      let o : OrdSt := ⟨x.pc, a, s.gpr c s2, (s.destKeys c d).headD 0⟩
      (s.setCal c { x with orders := x.orders ++ [o] }).goto c (x.pc + 4) false
    else if !x.sb.isEmpty || !x.resp.isEmpty || s.orderWaits c a (s.gpr c s2) then s
    else match s.orderRun c a (s.gpr c s2) with
      | (s, .ok v) => (s.setGpr c d (BitVec.ofNat 64 v)).next c
      | (s, .error (e, b)) => s.except c excLoad e.kind b x.pc

/-- STORE_RESPONSE (R351, R370, R440): `err` is an uncorrectable codeword found in the read-modify-write of a partial
write, or an error of the host interface. -/
def State.storeResponse (s : State) (c : Nat) (err : Bool) : State :=
  let x := s.cal c
  match x.resp with
  | [] => s
  | b :: rest =>
    let s := s.setCal c { x with resp := rest }
    let (s, kind) : State × Nat :=
      if b.kind ≠ 0 ∨ !err then (s, b.kind)
      else match s.target b.addr with
        | .mem p =>
          if (unitsOf p b.size).all fun u => decide (p ≤ u ∧ u + (codeUnit u).2 ≤ p + b.size) then (s, 0)
          else ((s.setBad p true).memUe p, MErr.ecc.kind)
        | .host _ => (s, MErr.host.kind)
        | _ => (s, 0)
    if kind = 0 then s.pollOrders c
    else (s.addTrap c ⟨causeImp (causeWord excBuserr kind 0), BitVec.ofNat 64 b.addr, 0, b.lvl⟩).pollOrders c

/-! ### The spill engine (R411 to R415) -/

/-- The window position of the oldest resident frame, and the one below it. -/
def CalRegs.oldest (r : CalRegs) : Nat := (r.wp + 16 - r.resident) % 16
def CalRegs.below (r : CalRegs) : Nat := (r.wp + 31 - r.resident) % 16

/-- The keys of the frame at window position `p`. -/
def frameKeys (p : Nat) : List Nat := (List.range 16).map fun i => 8 + 16 * p + i

/-- The bytes of a frame: a0 to a7, l0 to l7 (R412). -/
def CalRegs.frame (r : CalRegs) (p : Nat) : List Byte := (frameKeys p).flatMap fun k => leBytes 8 (r.at k).toNat

/-- SPILL (R411, R412): the oldest resident frame goes to the window stack; a write that R362 refuses leaves it resident
(log entry 119). -/
def State.spill (s : State) (c : Nat) : State :=
  let x := s.cal c
  let p := x.r.oldest
  let a := s.spillAddr c
  if !s.spillDue c || x.clash (frameKeys p) [] || !s.memReady a ||
      (match x.shadow with | some h => h.snap.resident == 0 | none => false) then s
  else if s.spillFaults c then (match s.spillRefused c with | some e => s.refuse (s.calAuth c 3) e a | none => s)
  else
    let s := (s.poke a (x.r.frame p)).touch a 128
    let s := s.setCal c { s.cal c with
      r := { x.r with resident := x.r.resident - 1 }
      wsp := BitVec.ofNat 64 a
      depth := (x.depth + 1) % 2 ^ 32
      want := 0
      shadow := x.shadow.map fun h => { h with snap := { h.snap with resident := h.snap.resident - 1 } } }
    (s.satRf (rCalSpills c) fCalSpillsSpills 1).pollEntry c

/-- A read of `n` bytes at `a` that passes no window, for the spill engine or a table copy (R412, R441): from configuration
space it is a decode fault and brings zeros (R33); an uncorrectable code unit is reported (R352, R356). -/
def State.ownRead (s : State) (c a n : Nat) : State × Except MErr (List Byte) :=
  match s.target a with
  | .cfg off => (s.decodeFault (s.calAuth c 3) off, .ok (List.replicate n 0))
  | _ => s.readMem Paths.data .free a n

/-- The words of a read. -/
def wordsOf (bs : List Byte) (n : Nat) : List Word :=
  (List.range n).map fun i => BitVec.ofNat 64 (ofLeBytes ((bs.drop (8 * i)).take 8))

/-- The registers with a frame written at position `p`. -/
def CalRegs.putFrame (r : CalRegs) (p : Nat) (ws : List Word) : CalRegs :=
  ((frameKeys p).zip ws).foldl (fun r x => r.put x.1 x.2) r

/-- REFILL (R411, R412): the newest stacked frame comes back below the oldest resident one. A read that faults moves no
frame; the instruction that waits for it takes the data-access fault (R352; log entry 119). -/
def State.refill (s : State) (c : Nat) : State :=
  let x := s.cal c
  let p := x.r.below
  let a := x.wsp.toNat
  if !s.fillDue c || x.clash (frameKeys p) [] || !s.memReady a ||
      (match x.shadow with | some h => decide (14 ≤ h.snap.resident) | none => false) then s
  else
    match s.ownRead c a 128 with
    | (s, .error e) =>
      if x.want = 2 then (s.setCal c { s.cal c with want := 0 }).except c excLoad e.kind a x.pc else s
    | (s, .ok bs) =>
      let back (r : CalRegs) : CalRegs := { r.putFrame p (wordsOf bs 16) with resident := r.resident + 1 }
      let s := s.setCal c { s.cal c with
        r := back x.r
        wsp := BitVec.ofNat 64 ((a + 128) % 2 ^ 48)
        depth := (x.depth + 2 ^ 32 - 1) % 2 ^ 32
        want := 0
        shadow := x.shadow.map fun h => { h with snap := back h.snap } }
      s.satRf (rCalSpills c) fCalSpillsRefills 1

/-- An instruction waits until RESIDENT is 0 (R415), or raises the window-stack exception (R414). -/
def State.flushed (s : State) (c : Nat) (go : State) : State :=
  let x := s.cal c
  if x.r.resident = 0 then go
  else if s.spillFaults c then s.wstack c (s.spillAddr c) x.pc
  else s.setCal c { x with want := 1 }

/-- An instruction needs `k` resident frames (R413, R451), or raises the window-stack exception (R414). -/
def State.resident (s : State) (c k : Nat) (go : State) : State :=
  let x := s.cal c
  if k ≤ x.r.resident then go
  else if !s.stacked c then s.wstack c (s.reg (rCalWsbase c)).toNat x.pc
  else s.setCal c { x with want := 2 }

/-! ### Handler tables (R441) -/

/-- TABLE_RELOAD_DONE: the copy of a table is read from memory; a fault makes it invalid. -/
def State.tableReload (s : State) (c : Nat) (t : SaveSet) : State :=
  let y := (s.cal c).tab t
  let a := y.base.toNat
  let p := match s.target a with | .mem p => p | _ => a
  if !y.busy || !s.memReady p then s
  else
    let (s, r) := s.ownRead c a 512
    let copy : Tab Word := match r with
      | .ok bs => ((List.range 64).zip (wordsOf bs 64)).foldl (fun m x => Tab.set wordZero m x.1 x.2) []
      | .error _ => []
    (s.setCal c ((s.cal c).setTab t ⟨y.base, copy, true, false⟩)).pollEntry c

/-! ### Synchronising instructions (R423) -/

/-- Every earlier store has its response; stores of an open shadow are not among them (R449). -/
def CalSt.storesDone (x : CalSt) : Bool := x.resp.isEmpty && x.sb.all fun b => b.inShadow

/-- An arithmetic trap that a long operation has raised is still to be taken: its set is free and the caller is at its level
or above it. One whose set is held stays pending (R448). -/
def State.trapDue (s : State) (c : Nat) : Bool :=
  let x := s.cal c
  match x.trap with
  | some p =>
    let t := s.trapSet c p.lvl
    p.cause.toNat % 64 == excArith && x.shadow.isNone && !x.held t && !(t != .m && x.lvl == 3) &&
      ((x.tab t).busy || ((x.tab t).handler excArith).isSome)
  | none => false

/-- BARRIER: every earlier long operation has retired, and a trap that it raised has been taken. -/
def State.barrierIns (s : State) (c word : Nat) : State :=
  s.instr c word false [] [] fun s =>
    if ((s.cal c).longs.all fun l => l.inShadow) && !s.trapDue c then s.next c else s

/-- FENCE.E: every earlier load has returned its data and every earlier store has its response. -/
def State.fenceIns (s : State) (c word : Nat) : State :=
  s.instr c word false [] [] fun s => if (s.cal c).storesDone then s.next c else s

/-- CINV.D and CINV.I: `f` drops the line that holds address s1; a fault of its address is LOAD (R440). CINV.I waits for the
responses of stores. -/
def State.cinvLine (s : State) (c word : Nat) (s1 : BitVec 5) (code : Bool) : State :=
  s.instr c word false [s1] [] fun s =>
    let x := s.cal c
    let a := (s.gpr c s1).toNat
    if code && !x.storesDone then s
    else match s.dataCheck c .rd a with
      | .error e => (s.dataNote c e a).except c excLoad e.kind a x.pc
      | .ok _ =>
        let keep (ls : List (Nat × List Byte)) : List (Nat × List Byte) := ls.filter fun l => l.1 != a / 64
        (s.setCal c (if code then { x with ilines := keep x.ilines } else { x with lines := keep x.lines })).next c

/-- CINV.DA and CINV.IA: the whole cache. -/
def State.cinvAll (s : State) (c word : Nat) (code : Bool) : State :=
  s.instr c word false [] [] fun s =>
    let x := s.cal c
    if code && !x.storesDone then s
    else (s.setCal c (if code then { x with ilines := [] } else { x with lines := [] })).next c

end Sys2Proof.Machine
end

