-- ==== Sys2Proof/Machine/CalArith.lean ====
section
/-!
DEFINITION. The arithmetic of a caller (09): integer, floating and decimal operations (R394 to R400), conversions (R397), long
operations and their traps (R403, R404, R447), and the vector unit (R405 to R410).
-/
namespace Sys2Proof.Machine

/-! ### Results, flags and traps -/

/-- The enabled ones of some flags. -/
def State.enabled (s : State) (c : Nat) (f : Flags) : Flags := f &&& (s.cal c).r.te

/-- Flags that an instruction raises accumulate as it retires: in a shadow with SYNC.C (R404, R449). -/
def State.raiseFlags (s : State) (c : Nat) (f : Flags) : State :=
  let x := s.cal c
  match x.shadow with
  | some h => if f = 0 then s else s.setCal c { x with shadow := some { h with evs := h.evs ++ [.flags f] } }
  | none => s.onRegs c fun r => r.addFlags f

/-- A short operation (R404, R447): an enabled flag traps precisely, else the result is written and the flags accumulate. -/
def State.shortOp (s : State) (c : Nat) (f : Flags) (put : CalRegs → CalRegs) : State :=
  let t := s.enabled c f
  let pc := (s.cal c).pc
  if t ≠ 0 then s.except c excArith t.toNat pc pc
  else ((s.onRegs c put).raiseFlags c f).next c

/-- The registers with pairs written: general ones by key, vector ones by number. -/
def CalRegs.putAll (r : CalRegs) (d : List (Nat × Word)) (v : List (Nat × Nat)) : CalRegs :=
  let r := d.foldl (fun r x => r.put x.1 x.2) r
  { r with vregs := v.foldl (fun t x => Tab.set natDefault t x.1 x.2) r.vregs }

/-- A free result tag (R402). -/
def CalSt.freeTag (x : CalSt) : Option Nat :=
  ((List.range 32).map fun i => (x.nextTag + i) % 32).find? fun t => !x.longs.any fun l => l.tag == t

/-- A long operation (R403, R447) with its result: in flight until LONG_OP_RETIRE; with STATUS.PA = 1 it retires before the
next instruction issues, and traps precisely. It waits for the iterative unit `unit` (R400). -/
def State.longOp (s : State) (c : Nat) (d : List (Nat × Word)) (v : List (Nat × Nat)) (f : Flags) (unit : Nat := 0) : State :=
  let x := s.cal c
  if unit ≠ 0 ∧ x.longs.any fun l => l.unit == unit then s
  else if x.status.bit 6 then s.shortOp c f fun r => r.putAll d v
  else match x.freeTag with
    | none => s
    | some t =>
      let l : LongOp := ⟨t, x.pc, x.lvl, d, v, f, x.shadow.isSome, x.shadow.isSome, unit⟩
      (s.setCal c { x with longs := x.longs ++ [l], nextTag := (t + 1) % 32 }).goto c (x.pc + 4) false

/-- A long operation writes its results, its flags accumulate, it leaves flight, and an enabled flag makes a trap pending
(R404, R445, R447). -/
def State.longDone (s : State) (c : Nat) (l : LongOp) : State :=
  let x := s.cal c
  let put (r : CalRegs) : CalRegs := (r.putAll l.dest l.vdest).addFlags l.flags
  let s := s.setCal c { x with
    r := put x.r
    longs := x.longs.filter fun m => m.tag != l.tag
    shadow := x.shadow.map fun h => { h with snap := put h.snap } }
  let s := s.addRf (rCalRetired c) fCalRetiredCount 1
  let e := s.enabled c l.flags
  if e = 0 then s
  else s.noteTrap c ⟨causeImp (causeWord excArith e.toNat 0), BitVec.ofNat 64 l.pc, BitVec.ofNat 64 (l.tag + 32), l.lvl⟩

/-- May a long operation retire: not in an open shadow, and those of a shadow in program order (R449)? -/
def CalSt.mayRetire (x : CalSt) (l : LongOp) : Bool :=
  !l.inShadow && (!l.shadowed || ((x.longs.takeWhile fun m => m.tag != l.tag).all fun m => !m.shadowed))

/-- LONG_OP_RETIRE (R403, R404, R445, R447): the operation with tag `t` retires. -/
def State.longRetire (s : State) (c t : Nat) : State :=
  let x := s.cal c
  match x.longs.find? fun l => l.tag == t with
  | none => s
  | some l => if x.mayRetire l then (s.longDone c l).pollTrap c else s

/-! ### Integer operations (R399) -/

def int64 : ETy := .int true 64
def uint64 : ETy := .int false 64

/-- An instruction of the ALU on two registers. -/
def State.alu2 (s : State) (c word : Nat) (d s1 s2 : BitVec 5) (f : Word → Word → Word) : State :=
  s.instr c word false [d, s1, s2] [] fun s => (s.setGpr c d (f (s.gpr c s1) (s.gpr c s2))).next c

/-- An instruction of the ALU on one register. -/
def State.alu1 (s : State) (c word : Nat) (d s1 : BitVec 5) (f : Word → Word) : State :=
  s.instr c word false [d, s1] [] fun s => (s.setGpr c d (f (s.gpr c s1))).next c

/-- The writes of a result to register `d`. -/
def State.destOf (s : State) (c : Nat) (d : BitVec 5) (v : Nat) : List (Nat × Word) :=
  (s.destKeys c d).map fun k => (k, BitVec.ofNat 64 v)

/-- A short integer operation that may raise a flag. -/
def State.aluFlag (s : State) (c word : Nat) (d s1 s2 : BitVec 5) (f : Nat → Nat → Res) : State :=
  s.instr c word false [d, s1, s2] [] fun s =>
    let r := f (s.gpr c s1).toNat (s.gpr c s2).toNat
    s.shortOp c r.2 fun x => x.putAll (s.destOf c d r.1) []

/-- A long integer operation: DIV, DIVU, REM, REMU. -/
def State.divIns (s : State) (c word : Nat) (d s1 s2 : BitVec 5) (f : Nat → Nat → Res) : State :=
  s.instr c word false [d, s1, s2] [] fun s =>
    let r := f (s.gpr c s1).toNat (s.gpr c s2).toNat
    s.longOp c (s.destOf c d r.1) [] r.2 1

/-- The remainder of a division toward zero; by zero it is the dividend, with DZ (R110, R399). -/
def intRem (t : ETy) (a b : Nat) : Res :=
  let x := t.toInt a; let y := t.toInt b
  if y = 0 then (a, flDZ) else (wrapInt t.w (x.tmod y), 0)

def shiftL (a : Word) (n : Nat) : Word := BitVec.ofNat 64 (shlNat 64 a.toNat n)
def shiftR (a : Word) (n : Nat) : Word := BitVec.ofNat 64 (shrNat 64 a.toNat n)
def shiftA (a : Word) (n : Nat) : Word := BitVec.ofNat 64 (sarNat 64 a.toNat n)
def rotL (a : Word) (n : Nat) : Word := BitVec.ofNat 64 (rotlNat 64 a.toNat n)

/-- 1 or 0. -/
def truth (b : Bool) : Word := if b then 1 else 0

def sImm (imm : BitVec 16) : Word := imm.signExtend 64
def zImm (imm : BitVec 16) : Word := imm.zeroExtend 64

/-! ### Floating and decimal operations (R395 to R398) -/

/-- The type of a TYPE code; none for an illegal one (R395). -/
def fpType (ty : BitVec 3) : Option ETy := if ty.toNat < 6 then some (ETy.ofCode (8 + ty.toNat)) else none

def isDec128 (t : ETy) : Bool := t == .flt dec128

/-- May register `r` hold a value of type `t` (R395): a DEC128 pair has an even specifier other than g0? -/
def pairOk (t : ETy) (r : BitVec 5) : Bool := !isDec128 t || (r.toNat % 2 == 0 && r != 0)

/-- Is the ROUND code legal (R396, R398)? Code 100 needs a decimal type. -/
def roundOk (rnd : BitVec 3) (dec : Bool) : Bool := decide (rnd.toNat < 6) && (rnd != 4 || dec)

/-- The registers that a value of type `t` at `r` takes. -/
def regsOfTy (t : ETy) (r : BitVec 5) : List (BitVec 5) := if isDec128 t then [r, r + 1] else [r]

/-- The value of type `t` that register `r` holds (R395). -/
def State.fpr (s : State) (c : Nat) (t : ETy) (r : BitVec 5) : Nat :=
  if isDec128 t then (s.gpr c r).toNat + 2 ^ 64 * (s.gpr c (r + 1)).toNat else (s.gpr c r).toNat % 2 ^ t.w

/-- The writes of a result of type `t` to `r`: zero-extended, a pair for DEC128, sign-extended for a signed integer (R395,
R397). -/
def State.fpDest (s : State) (c : Nat) (t : ETy) (r : BitVec 5) (v : Nat) : List (Nat × Word) :=
  if isDec128 t then s.destOf c r v ++ s.destOf c (r + 1) (v / 2 ^ 64)
  else s.destOf c r (if t.isSInt then wrapInt 64 (t.toInt v) else v)

/-- The arithmetic setting of a caller's operation: rounding explicit or from CAL.FCSR.RM, no flush-to-zero (R398). A binary
result rounds by the dynamic mode 100 to nearest-even, an integer one as its source type does (R97; log entry 29). -/
def State.fpCtx (s : State) (c : Nat) (t tt : ETy) (rnd : BitVec 3) : ArCtx :=
  ⟨t, tt, orderRnd rnd.toNat ((s.cal c).r.fcsr.fld 0 3) (if tt.isFlt then tt.isDec else t.isDec), false⟩

/-- Is the operation long (R403)? -/
def fpLong (op : Op) (t : ETy) : Bool :=
  match op with
  | .div | .sqrt => true
  | .mul | .fma | .fms | .fnma => t.isDec
  | _ => false

/-- The iterative unit of an operation (R400). -/
def fpUnit (op : Op) (t : ETy) : Nat :=
  match op with
  | .div | .sqrt => if t.isDec then 3 else 2
  | _ => 0

/-- A result goes to its registers: a long or a short operation. -/
def State.fpResult (s : State) (c : Nat) (op : Op) (t : ETy) (d : List (Nat × Word)) (f : Flags) : State :=
  if fpLong op t then s.longOp c d [] f (fpUnit op t) else s.shortOp c f fun x => x.putAll d []

/-- The instructions of major 0x30 (R396): `one` operand or two, `toInt` for those that write an integer to d. -/
def State.fpIns (s : State) (c code : Nat) (d s1 s2 : BitVec 5) (rnd ty : BitVec 3) (op : Op) (one toInt : Bool) : State :=
  let word := wordA 0x30 d s1 s2 (2 ^ 6 * code + 2 ^ 3 * rnd.toNat + ty.toNat)
  let t := (fpType ty).getD .bad
  let bad := (fpType ty).isNone || !roundOk rnd t.isDec || !op.types t || (one && s2 != 0) || !pairOk t s1 ||
    (!one && !pairOk t s2) || (!toInt && !pairOk t d)
  let regs := regsOfTy t s1 ++ (if one then [] else regsOfTy t s2) ++ (if toInt then [d] else regsOfTy t d)
  s.instr c word bad regs [] fun s =>
    let r := opVal op (s.fpCtx c t t rnd) (s.fpr c t s1) (if one then 0 else s.fpr c t s2) 0
    s.fpResult c op t (if toInt then s.destOf c d r.1 else s.fpDest c t d r.1) r.2

/-- FMA, FMS, FNMA (R399). -/
def State.fmaIns (s : State) (c major : Nat) (d s1 s2 s3 : BitVec 5) (rnd ty : BitVec 3) (op : Op) : State :=
  let t := (fpType ty).getD .bad
  let bad := (fpType ty).isNone || !roundOk rnd t.isDec || !([d, s1, s2, s3].all (pairOk t))
  s.instr c (wordF major d s1 s2 s3 rnd ty) bad ([d, s1, s2, s3].flatMap (regsOfTy t)) [] fun s =>
    let r := opVal op (s.fpCtx c t t rnd) (s.fpr c t s1) (s.fpr c t s2) (s.fpr c t s3)
    s.fpResult c op t (s.fpDest c t d r.1) r.2

/-- CVT and CVTSAT (R397). -/
def State.cvtIns (s : State) (c : Nat) (d s1 : BitVec 5) (sty tty : BitVec 4) (rnd : BitVec 3) (sat : Bool) : State :=
  let t := ETy.ofCode sty.toNat
  let tt := ETy.ofCode tty.toNat
  let bad := decide (14 ≤ sty.toNat) || decide (14 ≤ tty.toNat) || (sat && !tt.isInt) ||
    !roundOk rnd (t.isDec || tt.isDec) || !pairOk t s1 || !pairOk tt d
  s.instr c (wordX d s1 sty tty rnd sat) bad (regsOfTy t s1 ++ regsOfTy tt d) [] fun s =>
    let r := opVal (if sat then .cvtsat else .cvt) (s.fpCtx c t tt rnd) (s.fpr c t s1) 0 0
    s.shortOp c r.2 fun x => x.putAll (s.fpDest c tt d r.1) []

/-! ### The vector unit -/

/-- The element type and ensemble size that CAL.VTYPE names (R405, R431). -/
def CalRegs.vty (r : CalRegs) : ETy := ETy.ofCode (r.vtype.fld 0 4)
def CalRegs.ens (r : CalRegs) : Nat := 2 ^ r.vtype.fld 4 2

/-- A vector register. -/
def CalRegs.vreg (r : CalRegs) (n : Nat) : Nat := Tab.get natDefault r.vregs (n % 32)

/-- Element `i` of the ensemble at `n` (R406). -/
def CalRegs.elem (r : CalRegs) (w n i : Nat) : Nat :=
  let k := 512 / w
  r.vreg (n + i / k) / 2 ^ (w * (i % k)) % 2 ^ w

/-- `x` with element `i` of width `w` replaced by `v`. -/
def putElem (w i x v : Nat) : Nat := x - x / 2 ^ (w * i) % 2 ^ w * 2 ^ (w * i) + v % 2 ^ w * 2 ^ (w * i)

/-- The registers of the ensemble at `n` with elements from a list of (index, value) replaced. -/
def CalRegs.putElems (r : CalRegs) (w n : Nat) (vs : List (Nat × Nat)) : List (Nat × Nat) :=
  let k := 512 / w
  (List.range r.ens).map fun j =>
    ((n + j) % 32, (vs.filter fun v => v.1 / k == j).foldl (fun x v => putElem w (v.1 % k) x v.2) (r.vreg (n + j)))

/-- The elements that an instruction computes (R406). -/
def CalRegs.active (r : CalRegs) (masked : Bool) : List Nat :=
  (List.range r.vl).filter fun i => !masked || (r.vreg 0).testBit i

/-- SETVL (R405). -/
def State.setvlIns (s : State) (c : Nat) (d s1 : BitVec 5) (imm : BitVec 16) : State :=
  let ty := imm.toNat % 16
  s.instr c (wordI 0x3E d s1 imm) (decide (13 ≤ ty) || decide (64 ≤ imm.toNat)) [d, s1] [] fun s =>
    let vlmax := 2 ^ (imm.toNat / 16 % 4) * 512 / (ETy.ofCode ty).w
    let vl := min (s.gpr c s1).toNat vlmax
    let s := s.onRegs c fun r => { r with vl := vl, vtype := imm.zeroExtend 64 }
    (s.setGpr c d (BitVec.ofNat 64 vl)).next c

/-- Is `n` the first register of an ensemble (R406)? -/
def CalRegs.aligned (r : CalRegs) (n : BitVec 5) : Bool := n.toNat % r.ens == 0

/-- The registers of the ensemble at `n`. -/
def CalRegs.group (r : CalRegs) (n : BitVec 5) : List Nat := (List.range r.ens).map fun j => (n.toNat + j) % 32

/-- Operand 2 of element `i`: of the ensemble at vs2, or the low bits of the general register (R406). -/
def State.vs2 (s : State) (c w : Nat) (n : BitVec 5) (scalar : Bool) (i : Nat) : Nat :=
  if scalar then (s.gpr c n).toNat % 2 ^ w else (s.cal c).r.elem w n.toNat i

/-- A vector instruction (R406): `legal` besides the rules of every one; `regs` general registers that it writes. -/
def State.vecIns (s : State) (c code : Nat) (vd vs1 vs2 : BitVec 5) (masked scalar legal : Bool)
    (use : List (BitVec 5)) (vecs : List Nat) (act : State → State) : State :=
  s.instr c (wordV code vd vs1 vs2 masked scalar) (!legal) (use ++ (if scalar then [vs2] else [])) (0 :: vecs) act

/-- An element-wise instruction (R407): the operation of the same name on every active element; `acc` takes vd as the
addend. -/
def State.vecOp (s : State) (c code : Nat) (vd vs1 vs2 : BitVec 5) (masked scalar : Bool) (op : Op) (one : Bool) : State :=
  let r := (s.cal c).r
  let t := r.vty
  let legal := op.types t && r.aligned vd && r.aligned vs1 && (one || scalar || r.aligned vs2)
  s.vecIns c code vd vs1 vs2 masked scalar legal [] (r.group vd ++ r.group vs1 ++ r.group vs2) fun s =>
    let r := (s.cal c).r
    let ctx := s.fpCtx c t t 5
    let vs := (r.active masked).map fun i =>
      (i, opVal op ctx (r.elem t.w vs1.toNat i) (s.vs2 c t.w vs2 scalar i) (r.elem t.w vd.toNat i))
    let f := vs.foldl (fun f v => f ||| v.2.2) (0 : Flags)
    s.longOp c [] (r.putElems t.w vd.toNat (vs.map fun v => (v.1, v.2.1))) f

/-- A vector compare (R407): its results go to bits 0 to VL − 1 of vd. -/
def State.vecCmp (s : State) (c code : Nat) (vd vs1 vs2 : BitVec 5) (masked scalar : Bool) (k : Cmp) : State :=
  let r := (s.cal c).r
  let t := r.vty
  let legal := r.aligned vs1 && (scalar || r.aligned vs2)
  s.vecIns c code vd vs1 vs2 masked scalar legal [] (vd.toNat :: (r.group vs1 ++ r.group vs2)) fun s =>
    let r := (s.cal c).r
    let vs := (r.active masked).map fun i =>
      (i, cmpVal t false k (r.elem t.w vs1.toNat i) (s.vs2 c t.w vs2 scalar i))
    let f := vs.foldl (fun f v => f ||| v.2.2) (0 : Flags)
    let x := vs.foldl (fun x v => putElem 1 v.1 x v.2.1.toNat) (r.vreg vd.toNat)
    s.longOp c [] [(vd.toNat, x)] f

/-- VSEL (R407): vs1 where bit i of v0 is 1, vs2 elsewhere. -/
def State.vecSel (s : State) (c code : Nat) (vd vs1 vs2 : BitVec 5) (masked scalar : Bool) : State :=
  let r := (s.cal c).r
  let t := r.vty
  let legal := r.aligned vd && r.aligned vs1 && (scalar || r.aligned vs2)
  s.vecIns c code vd vs1 vs2 masked scalar legal [] (r.group vd ++ r.group vs1 ++ r.group vs2) fun s =>
    let r := (s.cal c).r
    let vs := (r.active false).map fun i =>
      (i, if (r.vreg 0).testBit i then r.elem t.w vs1.toNat i else s.vs2 c t.w vs2 scalar i)
    s.longOp c [] (r.putElems t.w vd.toNat vs) 0

/-- Add an element to the eight partial values (R407). -/
def vecPart (op : Op) (ctx : ArCtx) (p : List (Option Nat) × Flags) (x : Nat × Nat) : List (Option Nat) × Flags :=
  let r := combine op ctx none (p.1[x.1 % 8]?).join (some x.2)
  (p.1.set (x.1 % 8) r.1, p.2 ||| r.2.1)

/-- The combination of a reduction: partial values, then the rounds of 4, 2 and 1 (R407). -/
def vecReduce (op : Op) (ctx : ArCtx) (xs : List (Nat × Nat)) : Option Nat × Flags :=
  let p := xs.foldl (vecPart op ctx) (List.replicate 8 none, 0)
  let q := [4, 2, 1].foldl (fun (y : List (Option Nat) × Flags) d =>
    let z := treeRound op ctx none d y.1; (z.1, y.2 ||| z.2.1)) p
  ((q.1[0]?).join, q.2)

/-- A reduction (R407); without an active element its result is open. -/
def State.vecRed (s : State) (c code : Nat) (vd vs1 vs2 : BitVec 5) (masked scalar : Bool) (op : Op) : State :=
  let r := (s.cal c).r
  let t := r.vty
  s.vecIns c code vd vs1 vs2 masked scalar (r.aligned vd && r.aligned vs1) [] (r.group vd ++ r.group vs1) fun s =>
    let r := (s.cal c).r
    let (v, f) := vecReduce op (s.fpCtx c t t 5) ((r.active masked).map fun i => (i, r.elem t.w vs1.toNat i))
    match v with
    | some v =>
      let y := deliverVal t false v
      s.longOp c [] (r.putElems t.w vd.toNat [(0, y.1)]) (f ||| y.2)
    | none =>
      let (w, s) := s.takeFree
      s.longOp c [] (r.putElems t.w vd.toNat [(0, w.toNat % 2 ^ t.w)]) 0

/-- VMVX (R407): element 0 of vs1 goes to the general register vd. -/
def State.vecMvx (s : State) (c code : Nat) (vd vs1 vs2 : BitVec 5) (masked scalar : Bool) : State :=
  let r := (s.cal c).r
  let t := r.vty
  s.vecIns c code vd vs1 vs2 masked scalar (r.aligned vs1) [vd] (r.group vs1) fun s =>
    s.longOp c (s.fpDest c t vd ((s.cal c).r.elem t.w vs1.toNat 0)) [] 0

/-! ### VLD and VST (R410) -/

/-- The first byte of a span that refuses an access, with the reason. -/
def State.spanFault (s : State) (c : Nat) (k : Acc) (a : Nat) : Nat → Option (Nat × MErr)
  | 0 => none
  | n + 1 =>
    match s.dataCheck c k a with
    | .error e => some (a, e)
    | .ok (.mem p) => if k = .rd && s.bad p && !(s.cached c a && ((s.cal c).line a).isSome) then some (a, .ecc) else s.spanFault c k (a + 1) n
    | .ok (.host _) =>
      if s.hostUp (s.calView c (s.cal c).lvl).obWorld && !(k = .rd && s.hostReadFails a) then s.spanFault c k (a + 1) n
      else some (a, .host)
    | .ok _ => s.spanFault c k (a + 1) n

/-- One byte of a checked span as a load of the caller sees it. -/
def State.spanByte (s : State) (c a : Nat) : Byte :=
  match (if s.cached c a then ((s.cal c).line a).bind fun l => l[a % 64]? else none) with
  | some b => b
  | none =>
    match s.target a with
    | .mem p => s.byte p
    | .rom o => Config.bootRom o
    | .host o =>
      Tab.get hostDefault s.hostMem (s.hostAddr (s.calView c (s.cal c).lvl).obWorld o)
    | _ => 0

/-- The parts of a span that lie in one 64-byte line each: address and length. -/
def lineParts (a n : Nat) : List (Nat × Nat) :=
  if n = 0 then []
  else (List.range ((a + n - 1) / 64 - a / 64 + 1)).map fun i =>
    let b := max a (64 * (a / 64 + i))
    (b, min (a + n) (64 * (a / 64 + i + 1)) - b)

/-- Faults of a vector access of the configuration space: no such access has a size of R32 (R33). -/
def State.spanDecode (s : State) (c a n : Nat) : State :=
  (lineParts a n).foldl (fun s p =>
    match s.target p.1 with | .cfg o => s.decodeFault (s.calAuth c (s.cal c).lvl) o | _ => s) s

/-- The memories of a span are up. -/
def State.partsReady (s : State) (a n : Nat) : Bool :=
  (lineParts a n).all fun p => match s.target p.1 with | .mem q => s.memReady q | .rom _ => s.ready 51 | _ => true

/-- The lines of a span that the data cache holds with a parity error go (R416). -/
def State.spanParity (s : State) (c a n : Nat) : State :=
  (lineParts a n).foldl (fun s p =>
    if s.cached c p.1 && ((s.cal c).line p.1).isSome && s.parityAt c p.1 then s.lineParity c p.1 else s) s

/-- VLD: the elements from s1 + imm. -/
def State.vldIns (s : State) (c : Nat) (d s1 : BitVec 5) (imm : BitVec 16) : State :=
  let r := (s.cal c).r
  s.instr c (wordI 0x3A d s1 imm) (!r.aligned d) [s1] (r.group d) fun s =>
    let x := s.cal c
    let w := x.r.vty.w
    let a := s.effAddr c s1 imm
    let n := x.r.vl * w / 8
    if (x.sb.any fun b => b.meets a n) || !s.partsReady a n then s
    else
    let s := s.spanParity c a n
    match s.spanFault c .rd a n with
      | some (b, e) =>
        let s := match e with
          | .ecc => (match s.target b with | .mem p => s.memUe p | _ => s)
          | e => s.dataNote c e b
        (s.hostSeen a n).except c excLoad e.kind b x.pc
      | none =>
        let bs := (List.range n).map fun i => s.spanByte c (a + i)
        let vs := (List.range x.r.vl).map fun i => (i, ofLeBytes ((bs.drop (i * (w / 8))).take (w / 8)))
        let s := (s.spanDecode c a n).hostSeen a n
        let s := (lineParts a n).foldl (fun s p => if s.cached c p.1 then s.fillLine c p.1 else s) s
        (s.onRegs c fun r => r.putAll [] (r.putElems w d.toNat vs)).next c

/-- The first byte of a part of a span that covers an uncorrectable code unit in part. -/
def State.spanPart (s : State) (a n : Nat) : Option Nat :=
  (lineParts a n).findSome? fun p => match s.target p.1 with
    | .mem q => (s.partBad q p.2).map fun _ => p.1
    | _ => none

/-- VST: the elements to s1 + imm. In a shadow its bytes wait in the store buffer. -/
def State.vstIns (s : State) (c : Nat) (d s1 : BitVec 5) (imm : BitVec 16) : State :=
  let r := (s.cal c).r
  s.instr c (wordI 0x3B d s1 imm) (!r.aligned d) [s1] (r.group d) fun s =>
    let x := s.cal c
    let w := x.r.vty.w
    let a := s.effAddr c s1 imm
    let n := x.r.vl * w / 8
    let bs := (List.range x.r.vl).flatMap fun i => leBytes (w / 8) (x.r.elem w d.toNat i)
    let part (p : Nat × Nat) : List Byte := (bs.drop (p.1 - a)).take p.2
    if !(x.sb.all fun b => b.inShadow) || !s.partsReady a n then s
    else match s.spanFault c .wr a n with
      | some (b, e) => (s.dataNote c e b).except c excStore e.kind b x.pc
      | none =>
        match s.spanPart a n with
        | some b => (match s.target b with | .mem q => s.memUe q | _ => s).except c excStore MErr.ecc.kind b x.pc
        | none =>
          let s := s.spanDecode c a n
          if x.shadow.isSome then
            let es := ((lineParts a n).filter fun p => match s.target p.1 with | .cfg _ => false | _ => true).map fun p =>
              (⟨p.1, part p, x.lvl, x.pc, true⟩ : SbEnt)
            (s.setCal c { s.cal c with sb := x.sb ++ es }).next c
          else
            let s := (lineParts a n).foldl (fun s p =>
              match s.target p.1 with
              | .cfg _ => s
              | _ => (s.storeBytes (s.calView c x.lvl) p.1 (part p)).lineStore c p.1 (part p)) s
            s.next c

end Sys2Proof.Machine
end

