-- ==== Sys2Proof/Machine/CalCtl.lean ====
section
/-!
DEFINITION. Control transfer and control registers of a caller (09, 10): branches and calls (R392, R394), CRR and CRW (R428 to
R431, R455 to R457), SYNC.C (R423, R449), RETX (R451), WAIT (R426), and the interrupt distributor's offers (R452, R479 to
R481).
-/
namespace Sys2Proof.Machine

/-! ### Transfers -/

/-- A branch's or jump's target: its own address plus 4 times its offset (R394). -/
def jumpTo (pc : Nat) (off : Int) : Nat := (((pc : Int) + 4 * off) % ((2 ^ 48 : Nat) : Int)).toNat

/-- The target that a register holds: bits [47:2] (R399). -/
def regTarget (v : Word) : Nat := 4 * v.fld 2 46

/-- A conditional branch. -/
def State.branch (s : State) (c major : Nat) (s1 s2 : BitVec 5) (off : BitVec 16) (holds : Word → Word → Bool) : State :=
  s.instr c (2 ^ 26 * major + 2 ^ 21 * s1.toNat + 2 ^ 16 * s2.toNat + off.toNat) false [s1, s2] [] fun s =>
    if holds (s.gpr c s1) (s.gpr c s2) then s.goto c (jumpTo (s.cal c).pc off.toInt) else s.next c

/-- A call (R392): WP advances, the return address goes to l7 of the new window. -/
def State.callTo (s : State) (c target : Nat) : State :=
  let x := s.cal c
  let wp := (x.r.wp + 1) % 16
  let l7 := gprKey wp 23
  if x.clash [l7] [] then s
  else
    let go : State :=
      (s.onRegs c fun r => { r with wp := wp, resident := r.resident + 1 }.put l7 (BitVec.ofNat 64 ((x.pc + 4) % 2 ^ 48))).goto
        c target
    s.room s c x.pc go

/-- RET (R392, R413): back to the address in l7, and WP by one. -/
def State.retTo (s : State) (c : Nat) : State :=
  let go : State :=
    (s.onRegs c fun r => { r with wp := (r.wp + 15) % 16, resident := r.resident - 1 }).goto c (regTarget (s.gpr c 23))
  s.resident c 1 go

/-! ### Control registers -/

/-- The control registers by number (R429, R455). -/
inductive CReg where
  | status
  | tvb (t : SaveSet)
  | save (t : SaveSet) (i : Nat)
  | fcsr | vl | vtype | winstat | wsp | beatcnt | timebase
  deriving DecidableEq, Repr

/-- The register of a number; none for a reserved one (R428). -/
def cregOf (n : Nat) : Option CReg :=
  if n % 8 ≠ 0 then none
  else if n = 0 then some .status
  else if n = 0x08 then some (.tvb .s)
  else if n = 0x10 then some (.tvb .v)
  else if n = 0x18 then some (.tvb .m)
  else if n ≤ 0x48 then some (.save .s ((n - 0x20) / 8))
  else if n ≤ 0x78 then some (.save .v ((n - 0x50) / 8))
  else if n ≤ 0xA8 then some (.save .m ((n - 0x80) / 8))
  else match n with
    | 0x100 => some .fcsr
    | 0x108 => some .vl
    | 0x110 => some .vtype
    | 0x118 => some .winstat
    | 0x120 => some .wsp
    | 0x128 => some .beatcnt
    | 0x130 => some .timebase
    | _ => none

/-- May a level reach the registers of a set: the machine all, a supervisor its own world's (R455)? -/
def State.reaches (s : State) (c : Nat) (t : SaveSet) : Bool :=
  match (s.cal c).lvl with
  | 3 => true
  | 1 => t == worldSet (s.calWorld c)
  | _ => false

/-- May the caller read the register (R428, R429, R455)? -/
def State.crrOk (s : State) (c : Nat) : CReg → Bool
  | .tvb t | .save t _ => s.reaches c t
  | _ => true

/-- Register `i` of a save set: PC, ST, WP, CAUSE, FADDR, TAG (R455). -/
def SaveSt.reg (y : SaveSt) (i : Nat) : Word :=
  match i with | 0 => y.pc | 1 => y.st | 2 => y.wp | 3 => y.cause | 4 => y.faddr | _ => y.tag

/-- A write of register `i` of a save set: the fields of R457; ST.WORLD keeps its value (R456). -/
def SaveSt.setReg (y : SaveSt) (i : Nat) (v : Word) : SaveSt :=
  match i with
  | 0 => { y with pc := v &&& maskOf 2 46 }
  | 1 => { y with st := (v &&& maskOf 0 7) ||| (y.st &&& maskOf 7 1) }
  | 2 => { y with wp := v &&& maskOf 0 4 }
  | 3 => { y with cause := v &&& maskOf 0 26 }
  | 4 => { y with faddr := v &&& maskOf 0 48 }
  | _ => { y with tag := v &&& maskOf 0 6 }

/-- CAL.WINSTAT (R431). -/
def State.winstat (s : State) (c : Nat) : Word :=
  let x := s.cal c
  BitVec.ofNat 64 (x.r.wp + 2 ^ 4 * x.r.resident + 2 ^ 8 * (s.spillDue c).toNat + 2 ^ 9 * (s.fillDue c).toNat + 2 ^ 32 * x.depth)

/-- CAL.BEATCNT (R2, R431): how far the caller's beats have come within the present microsecond is open; a later read shows
more of them (log entry 125). -/
def State.readBeats (s : State) (c : Nat) : Word × State :=
  let b := Tab.get beatsDefault s.calBeats c
  let (v, s) := s.takeFree
  let n := if b.2 < 2450 then b.2 + 1 + v.toNat % (2450 - b.2) else b.2
  (BitVec.ofNat 64 (b.1 + n), { s with calBeats := Tab.set beatsDefault s.calBeats c (b.1, n) })

/-- CRR d (R428): the value of a control register. -/
def State.crrIns (s : State) (c : Nat) (d s1 : BitVec 5) (num : BitVec 16) : State :=
  let r := cregOf num.toNat
  let ok := match r with | some r => s.crrOk c r | none => false
  s.instr c (wordI 0x3D d s1 num) (!ok) [d] [] fun s =>
    let x := s.cal c
    let give (v : Word) : State := (s.setGpr c d v).next c
    match r with
    | some .status => give (s.statusWord c)
    | some (.tvb t) => give (x.tab t).base
    | some (.save t i) => give ((x.save t).reg i)
    | some .fcsr => give x.r.fcsr
    | some .vl => give (BitVec.ofNat 64 x.r.vl)
    | some .vtype => give x.r.vtype
    | some .winstat => give (s.winstat c)
    | some .wsp => give x.wsp
    | some .beatcnt => let (v, s) := s.readBeats c; (s.setGpr c d v).next c
    | some .timebase => give (BitVec.ofNat 64 s.time)
    | none => s

/-- May the caller write this value to the register (R428, R451, R455)? -/
def State.crwOk (s : State) (c : Nat) (r : CReg) (v : Word) : Bool :=
  let x := s.cal c
  match r with
  | .status =>
    (match x.lvl with
     | 3 => true
     | 1 => v.bit 3 == x.status.bit 3 && !v.bit 5
     | _ => false)
  | .tvb t => s.reaches c t
  | .save t i => s.reaches c t && (i != 1 || (v.fld 0 2 != 2 && (v.fld 0 2 != 3 || x.lvl == 3)))
  | .fcsr => true
  | .wsp => x.lvl != 0
  | .vl | .vtype | .winstat | .beatcnt | .timebase => false

/-- The long operations of the open shadow that a write of CAL.FCSR lets retire before it (R404, R449). -/
def CalSt.drained (x : CalSt) (num : Nat) : List ShadowEv :=
  if cregOf num = some .fcsr then [.drain ((x.longs.filter fun l => l.inShadow).map (·.tag))] else []

/-- CRW (R428, R449): the write waits for SYNC.C and opens a shadow, or joins the open one. A write of CAL.FCSR waits for
every earlier long operation (R404): those before the shadow; those in it retire with SYNC.C, before the write. One of
CAL.WSP acts as WFLUSH first (R415). While s1 is still to be written, its value decides nothing (R402). -/
def State.crwIns (s : State) (c : Nat) (d s1 : BitVec 5) (num : BitVec 16) : State :=
  let v := s.gpr c s1
  let late := (s.cal c).clash (s.destKeys c s1) []
  let ok := match cregOf num.toNat with | some r => late || s.crwOk c r v | none => false
  s.instr c (wordI 0x3D d s1 num) (!ok) [s1] [] fun s =>
    let x := s.cal c
    let go : State :=
      match x.shadow with
      | none =>
        let h : ShadowSt := ⟨x.pc, 0, 1, [.write num.toNat v], x.r, false⟩
        (s.setCal c { x with pc := (x.pc + 4) % 2 ^ 48, shadow := some h, want := 0 }).pollTrap c
      | some h =>
        (s.setCal c { x with shadow := some { h with evs := h.evs ++ x.drained num.toNat ++ [.write num.toNat v] } }).next c
    match cregOf num.toNat with
    | some .fcsr => if x.longs.all fun l => l.inShadow then go else s
    | some .wsp => s.flushed c go
    | _ => go

/-- One write of a shadow takes effect (R404, R430, R431, R441, R455 to R457). -/
def State.crwApply (s : State) (c : Nat) (w : Nat × Word) : State :=
  let x := s.cal c
  let v := w.2
  match cregOf w.1 with
  | some .status =>
    let st := (x.status.setFld 2 2 (v.fld 2 2)).setFld 6 1 (v.fld 6 1)
    s.putStatus c (st.setFld 4 2 ((st &&& ~~~v).fld 4 2))
  | some (.tvb t) =>
    let b := v &&& maskOf 9 39
    s.setCal c (x.setTab t (if b = 0 then TabSt.empty else ⟨b, (x.tab t).copy, (x.tab t).loaded, true⟩))
  | some (.save t i) => s.setCal c (x.setSave t ((x.save t).setReg i v))
  | some .fcsr =>
    let f := v &&& (maskOf 0 3 ||| maskOf 8 5 ||| maskOf 16 5)
    s.onRegs c fun r => { r with fcsr := if 5 ≤ f.fld 0 3 then f.setFld 0 3 0 else f }
  | some .wsp => s.setCal c { x with wsp := v &&& maskOf 7 41, depth := 0 }
  | _ => s

/-- One event of a shadow that retires. -/
def State.shadowEv (c : Nat) (s : State) : ShadowEv → State
  | .write n v => s.crwApply c (n, v)
  | .flags f => s.onRegs c fun r => r.addFlags f
  | .drain ts => ts.foldl (fun s t =>
      match (s.cal c).longs.find? fun l => l.tag == t with | some l => s.longDone c l | none => s) s

/-- SYNC.C and RETX close a shadow (R404, R423, R449): its writes apply and its flags accumulate in program order, its
instructions retire. -/
def State.closeShadow (s : State) (c : Nat) : State :=
  let x := s.cal c
  match x.shadow with
  | none => s
  | some h =>
    let s := s.setCal c { x with
      shadow := none
      asleep := h.wait
      longs := x.longs.map fun l => { l with inShadow := false }
      sb := x.sb.map fun b => { b with inShadow := false } }
    let s := h.evs.foldl (State.shadowEv c) s
    s.addRf (rCalRetired c) fCalRetiredCount h.ret

/-- SYNC.C (R423). ORDERs of the shadow go on. -/
def State.syncIns (s : State) (c word : Nat) : State :=
  s.instr c word false [] [] (fun s => ((s.closeShadow c).next c).pollOrders c) true

/-- RETX (R451): STATUS, WP and PC come back from the set of the level. -/
def State.retxIns (s : State) (c : Nat) : State :=
  let lvl := (s.cal c).lvl
  let set (s : State) : SaveSet := if lvl = 3 then .m else worldSet (s.calWorld c)
  let t := s.closeShadow c
  let ill := lvl == 0 || (lvl == 1 && ((t.cal c).save (set t)).st.fld 0 2 == 3)
  s.instr c (2 ^ 26 * 0x3C + 0x23) ill [] [] (fun s =>
    let t := s.closeShadow c
    let x := t.cal c
    let y := x.save (set t)
    let wp := y.wp.toNat % 16
    let back := (x.r.wp + 16 - wp) % 16
    let own := heldBit (set t)
    let go : State :=
      let st := (y.st.setFld 4 2 (x.status.fld 4 2)).setBit own false
      let t := t.onRegs c fun r => { r with wp := wp, resident := r.resident - back }
      (t.putStatus c st).goto c (regTarget y.pc)
    if (s.cal c).shadow.isSome && !x.orders.isEmpty then t.pollOrders c
    else if back ≤ x.r.resident then go
    else s.resident c back s) true

/-- WAIT (R426): the caller sleeps; inside a shadow it does so once SYNC.C has retired. -/
def State.waitIns (s : State) (c word : Nat) : State :=
  s.instr c word false [] [] fun s =>
    let x := s.cal c
    match x.shadow with
    | some h => (s.setCal c { x with shadow := some { h with wait := true } }).next c
    | none => (s.setCal c { x with asleep := true }).next c

/-- WFLUSH (R415). -/
def State.wflushIns (s : State) (c word : Nat) : State :=
  s.instr c word false [] [] fun s => s.flushed c (s.next c)

/-- SCALL, MCALL and BREAK (R439, R460). -/
def State.callExc (s : State) (c fn code : Nat) (after : Bool) : State :=
  s.instr c (2 ^ 26 * 0x3C + fn) false [] [] fun s =>
    let pc := (s.cal c).pc
    -- SCALL and MCALL have retired when their handler is entered (R445)
    s.except c code 0 0 (if after then (pc + 4) % 2 ^ 48 else pc) after

/-! ### Interrupt offers -/

/-- The caller to which the distributor offers source `k`: the first eligible one after the last that accepted it (R480). -/
def State.offerTo (s : State) (k : Nat) : Option Nat :=
  let last := match Tab.get timeDefault s.ids.last k with | some c => c | none => 9
  ((List.range 10).map fun i => (last + 1 + i) % 10).find? fun c => s.eligible k c

/-- The source that is offered to caller `c`: of those that it is the next for, highest PRIO, then lowest number (R480). -/
def State.bestSource (s : State) (c : Nat) : Option Nat :=
  let ks := (List.range 512).filter fun k =>
    s.rb (rIdsSrcstat k) fIdsSrcstatPend && s.rb (rIdsSrccfg k) fIdsSrccfgEn && s.offerTo k == some c
  ks.foldl (fun best k => match best with
    | none => some k
    | some b => if s.rf (rIdsSrccfg b) fIdsSrccfgPrio < s.rf (rIdsSrccfg k) fIdsSrccfgPrio then some k else best) none

/-- Does the caller accept (R444, R446, R452, R606)? A supervisor table's invalid entry counts as a held set (R441), and an
interrupt never escalates. -/
def State.accepts (s : State) (c : Nat) (machine : Bool) (code : Nat) : Bool :=
  let x := s.cal c
  let t := x.tab (worldSet (s.calWorld c))
  decide (c < 8) && x.on && !x.paused && !x.moving && !x.hold && x.exc.isNone && x.trap.isNone && s.ready (16 + c) &&
  (if machine then x.status.bit 3 && !x.held .m
   else x.lvl != 3 && x.status.bit 2 && !x.status.bit 4 && (t.busy || (t.handler code).isSome))

/-- The offer that caller `c` holds becomes `o` (R480, R496). -/
def State.setOffer (s : State) (c : Nat) (o : Option Nat) : State :=
  { s with ids := { s.ids with offers := Tab.set timeDefault s.ids.offers c o } }

/-- Source `k` is committed at caller `c` (R480, R482): PEND cleared, ACTIVE set, the entry latency, which is open (R453). -/
def State.commitOffer (s : State) (c k : Nat) : State :=
  let a := rIdsSrcstat k
  let s := ((s.setRf a fIdsSrcstatPend 0).setRf a fIdsSrcstatActive 1).setRf a fIdsSrcstatActcal c
  let s := (s.setRf (rIdsCalstat c) fIdsCalstatLastsrc k).setOffer c none
  let s := { s with ids := { s.ids with last := Tab.set timeDefault s.ids.last k (some c) } }
  let (v, s) := s.takeFree
  let n := 16 + v.toNat % 240
  let s := s.setRf (rCalEntrylat c) fCalEntrylatLast n
  if s.rf (rCalEntrylat c) fCalEntrylatMax < n then s.setRf (rCalEntrylat c) fCalEntrylatMax n else s

/-- INTERRUPT_OFFER (R445, R480, R481): the outstanding offer goes on, or the source is offered; accepted, it is committed and
entered; refused, it waits for a report of the caller. An open shadow waits (R449). -/
def State.irqOffer (s : State) (c : Nat) : State :=
  match (s.offerAt c).orElse fun _ => s.bestSource c with
  | none => s.setOffer c none
  | some k =>
    let x := s.cal c
    let m := s.rb (rIdsSrccfg k) fIdsSrccfgLevel
    let t := if m then .m else worldSet (s.calWorld c)
    let code := 0x30 + s.rf (rIdsSrccfg k) fIdsSrccfgPrio
    if !s.accepts c m code then
      let s := s.setOffer c none
      { s with ids := { s.ids with refused := Tab.set flagDefault s.ids.refused (512 * c + k) true } }
    else if x.shadow.isSome || (x.tab t).busy || !x.orders.isEmpty then s.setOffer c (some k)
    else
      match (x.tab t).handler code with
      | some h =>
        s.room (s.setOffer c (some k)) c x.boundary ((s.commitOffer c k).enter c t (causeWord code 0 k) 0 x.boundary 0 h)
      | none => (s.commitOffer c k).holdCal c code x.boundary

end Sys2Proof.Machine
end

