-- ==== Sys2Proof/Machine/Placement.lean ====
section
/-!
DEFINITION. The placement of Call (15, 16): the check of the placement record and the default that replaces it (R599, R612), the
placement moves (R626), the end of a commit (R644, R645), and the swap of a caller (R606).
-/
namespace Sys2Proof.Machine

/-! ### Caller swaps (R606) -/

/-- Everything that a caller has issued has retired, its stores have drained, its frames are spilled. -/
def CalSt.handsOver (x : CalSt) : Bool :=
  x.shadow.isNone && x.exc.isNone && x.lds.isEmpty && x.longs.isEmpty && x.sb.isEmpty && x.resp.isEmpty && x.orders.isEmpty &&
  x.r.resident == 0

/-- The caller is to be handed over: it spills every resident frame, as WFLUSH does. -/
def State.flushFrames (s : State) (c : Nat) : State :=
  let x := s.cal c
  if x.r.resident = 0 ∨ x.shadow.isSome then s else s.setCal c { x with want := 1 }

/-- A table copy reloads on the understudy (R441). -/
def TabSt.reload (t : TabSt) : TabSt := if t.base = 0 then t else { t with busy := true }

/-- The hand-over of caller `c` begins or goes on: it takes no offer, stops at the next instruction boundary outside a
shadow, and spills its frames (R606, steps 1 to 3). -/
def State.handOver (s : State) (c : Nat) : State := (s.setCal c { s.cal c with moving := true }).flushFrames c

/-- The hand-over of caller `c` is over: its acceptance conditions are reported, and it resumes (R606, steps 6 and 7). -/
def State.handedOver (s : State) (c : Nat) : State :=
  if (s.cal c).moving then ((s.setCal c { s.cal c with moving := false }).calReport c).pollTrap c else s

/-- The state of caller `c` has moved to another physical caller: caches empty, table copies to be reloaded (R606, steps 4
and 5). -/
def State.calMoved (s : State) (c : Nat) : State :=
  let x := s.cal c
  s.setCal c { x with
    lines := []
    ilines := []
    fill := none
    tabS := x.tabS.reload
    tabV := x.tabV.reload
    tabM := x.tabM.reload }

/-- CALLER_SWAP (R606, R610): the hand-over begins, goes on, or, once the caller has spilled, ends. -/
def State.callerSwap (s : State) (pass : Bool) (dur : Nat) : State :=
  s.swapOne 2 pass dur State.handOver (fun s c => (s.cal c).handsOver)
    (fun s c => (s.satRf (rCalPlace c) fCalPlaceMigr 1).calMoved c) fun _ s c => s.handedOver c

/-! ### The placement record (R612) -/

/-- The physical resources among `n` from `base` that the record gives logical number `l`. -/
def State.recorded (s : State) (base n l : Nat) : List Nat :=
  ((List.range n).map (base + ·)).filter fun i => (s.recOf i).logical == l

/-- Is `l` carried by exactly one resource, and that one not worn? -/
def State.onceSound (s : State) (base n l : Nat) : Bool :=
  match s.recorded base n l with
  | [i] => !s.worn i
  | _ => false

/-- The resource indices at which the record fails its check, per logical resource: the first of those it names, or the
first of the kind. -/
def State.badPlaces (s : State) : List Nat :=
  let kind (base n m : Nat) : List Nat :=
    ((List.range m).filter fun l => !s.onceSound base n l).map fun l => (s.recorded base n l).headD base
  let lanes := (List.range 20).flatMap fun p =>
    if (s.recOf (ixEng p)).logical = noLogical then [] else kind (ixLane p 0) 34 32
  let cmps := (List.range 4).flatMap fun q => if (s.recorded 0x30 5 q).length ≤ 1 then [] else s.recorded 0x30 5 q
  kind 0 20 16 ++ kind 0x20 10 8 ++ cmps ++ kind 0x38 8 6 ++ lanes

/-- The default placement with worn resources skipped (R21, R599): each logical number with the candidates for it, in
order; where every one is worn or taken the default resource stays in service (R611). -/
def State.assign (s : State) : List (Nat × List Nat) → List Nat → List (Nat × Nat)
  | [], _ => []
  | (l, cands) :: rest, used =>
    match cands.find? fun i => !s.worn i && !used.contains i with
    | some i => (i, l) :: s.assign rest (i :: used)
    | none => (cands.take 1).map (·, l) ++ s.assign rest used

def State.defaultPlaces (s : State) : List (Nat × Nat) :=
  let engs := s.assign ((List.range 16).map fun l =>
    (l, [5 * (l / 4) + l % 4, 5 * (l / 4) + 4, 4, 9, 14, 19])) []
  let lanes := (List.range 20).flatMap fun p =>
    s.assign ((List.range 32).map fun l => (l, [ixLane p l, ixLane p 32, ixLane p 33])) []
  let cals := s.assign ((List.range 8).map fun l => (l, [ixCal l, ixCal 8, ixCal 9])) []
  let cmps := s.assign ((List.range 4).map fun q => (q, [ixCmp q, ixCmp 4])) []
  let seas := s.assign ((List.range 6).map fun l => (l, [ixSea l, ixSea 6, ixSea 7])) []
  engs ++ lanes ++ cals ++ cmps ++ seas

/-- Every resource that can carry a logical one. -/
def placeable : List Nat := testPlan ++ (List.range 5).map ixCmp

/-- The record becomes a placement. -/
def State.adopt (s : State) (ps : List (Nat × Nat)) : State :=
  placeable.foldl (fun (s : State) (i : Nat) =>
    let l := match ps.find? fun p => p.1 == i with | some p => p.2 | none => noLogical
    s.setRecOf i { s.recOf i with logical := l }) s

/-- The placement of the configuration commit of Call (R612, R626): comparators serve at once; lanes, engines, callers and
seal units move one by one. -/
def State.placeCommit (s : State) : State :=
  let s := match s.badPlaces with
    | [] => s
    | i :: is =>
      let ps := s.defaultPlaces
      ps.foldl (fun s p => if s.worn p.1 then s.noSpare p.1 else s) ((s.adopt ps).flt (ustFlt 5 (is.foldl min i)))
  let s := (List.range 5).foldl (fun (s : State) (k : Nat) => s.setPhys (ixCmp k) { s.phys (ixCmp k) with logical := (s.recOf (ixCmp k)).logical }) s
  let moves := placeable.filterMap fun i =>
    let l := (s.recOf i).logical
    if l = noLogical ∨ (s.phys i).logical = l then none else some (i, l)
  let s := { s with cfg := { s.cfg with placed := true, moves := moves } }
  if moves.isEmpty then s.setRf rCfgStatus fCfgStatusCommitted 1 else s

/-- Resource `j` takes logical number `l`; what it carried goes to the resource that carried `l` (R626). -/
def State.exchange (s : State) (j l : Nat) : State :=
  let m := (s.phys j).logical
  let s := match s.placeOf j l with
    | some i => s.setPhys i { s.phys i with logical := m }
    | none => s
  s.setPhys j { s.phys j with logical := l }

/-- The placement moves that remain. -/
def State.setMoves (s : State) (ms : List (Nat × Nat)) : State := { s with cfg := { s.cfg with moves := ms } }

/-- Resource `j` cannot take logical number `l`: the move goes to the first understudy that no other move takes, and the record
follows; without one what carries `l` keeps it, worn or not (R611, R626). -/
def State.moveElse (s : State) (j l : Nat) (rest : List (Nat × Nat)) : State :=
  let s := s.setMoves rest
  match s.placeOf j l with
  | none => s
  | some i =>
    let r := s.recOf j
    let onto (s : State) (k : Nat) : State :=
      if s.cfg.placed then (s.setRecOf j { r with logical := noLogical }).setRecOf k { s.recOf k with logical := l } else s
    match (s.spares i none).filter fun k => k != j && !rest.any fun m => m.1 == k with
    | k :: _ => (onto s k).setMoves ((k, l) :: rest)
    | [] => (onto s i).noSpare i

/-- The last placement move has ended: COMMITTED (R626). -/
def State.movesEnd (s : State) : State :=
  (if s.cfg.moves.isEmpty && s.cfg.placed then s.setRf rCfgStatus fCfgStatusCommitted 1 else s).applyDomains

/-- `f` on the logical resource `l` and, where a resource holds `m`, on `m` too. -/
def State.onBoth (s : State) (f : State → Nat → State) (l m : Nat) : State :=
  if m = noLogical then f s l else f (f s l) m

/-- The test of the target of a placement move (R603, R604): where it fails, resource `j` is worn and the move looks for
another target; where it passes, the move `go` is made. `fin` takes the orders on again in either case. -/
def State.moveTested (s : State) (j l : Nat) (rest : List (Nat × Nat)) (go fin : State → State) : State :=
  if Config.moveFails j l s.time then
    let s := (s.setPhys j { s.phys j with fail := true }).setRecOf j { s.recOf j with worn := true }
    (fin ((s.flt (ustFlt 1 j)).moveElse j l rest)).movesEnd
  else ((fin (go s)).setMoves rest).movesEnd

/-- PLACEMENT_MOVE (R626): the first move that remains, in Call, by the steps of the swap of its kind: an engine's orders park, a
caller hands over; the vector test or steering check of the resource that takes over (R603, R604), which is open, fails
for a bad one, which is then worn. A resource that has itself become worn is not moved to. -/
def State.placementMove (s : State) : State :=
  match s.cfg.moves, s.cfg.run with
  | (j, l) :: rest, none =>
    let m := (s.phys j).logical
    if s.mode ≠ 2 then s
    else if s.worn j then (s.moveElse j l rest).movesEnd
    else match swapKind j with
      | 1 =>
        let t := s.onBoth State.parkEngine l m
        if t.engBusy l || t.engBusy m then s
        else t.moveTested j l rest (fun s => s.exchange j l) fun s => s.onBoth State.resumeEngine l m
      | 2 =>
        let s := s.onBoth State.handOver l m
        if !(s.cal l).handsOver || !(m = noLogical || (s.cal m).handsOver) then s
        else ((((s.exchange j l).onBoth State.calMoved l m).setMoves rest).onBoth State.handedOver l m).movesEnd
      | 0 => s.moveTested j l rest (fun s => s.exchange j l) id
      | _ => ((s.exchange j l).setMoves rest).movesEnd
  | _, _ => s

/-! ### COMMIT_APPLIED (R644, R645) -/

/-- The entries have been applied: the matrix lets accesses through; in Refit the commit ends the mode, in Call the first one
is the configuration commit. -/
def State.commitApplied (s : State) : State :=
  match s.cfg.run with
  | some (false, _) =>
    let s := (s.setRf rCfgStatus fCfgStatusApplying 0).addRf rCfgStatus fCfgStatusCommits 1
    let s := { s with cfg := { s.cfg with run := none } }
    if s.mode = 11 then s.refitEnd else if s.mode = 2 ∧ !s.cfg.placed then s.placeCommit else s
  | _ => s

end Sys2Proof.Machine
end

