-- ==== Sys2Proof/Machine/Boot.lean ====
section
/-!
DEFINITION. What the boot ROM does (16, R624, R627 to R629): its code is not published, so it is an agent of its own that
acts in an idle microsecond while logical caller 0 stands in the ROM (log entry 158).
-/
namespace Sys2Proof.Machine

/-- The image and the mailbox of the host source (R627, R629). -/
def bootImage : Nat := 0x4004_1000
def bootMailbox : Nat := 0x4004_0000
def bootMagic : Nat := 0x544F_4F42

/-- The machine level of caller 0. -/
def State.bootAuth (s : State) : Auth := s.calAuth 0 3

/-- Does caller 0 stand in the boot ROM at the machine level, with the ROM up (R624)? -/
def State.inRom (s : State) : Bool :=
  let x := s.cal 0
  s.issues 0 && x.lvl == 3 && s.ready 51 && match s.target x.pc with | .rom _ => true | _ => false

/-- Register writes by the boot ROM, all of them or, while one has to wait, none. -/
def State.bootWrites (s : State) : List (Nat × Word) → Option State
  | [] => some s
  | (a, v) :: t => (s.regWrite s.bootAuth a 8 v).bind fun s => s.bootWrites t

def State.setBoot (s : State) (b : BootSt) : State := { s with boot := b }

/-- The boot goes on as `b` once the writes `ws` have been made. -/
def State.bootGo (s : State) (b : BootSt) (ws : List (Nat × Word)) : State :=
  match s.bootWrites ws with
  | some t => t.setBoot b
  | none => s

/-- Source `src` has loaded the image (R627): SOURCE and DONE, then the jump to its first byte. -/
def State.bootDone (s : State) (src : Nat) (ws : List (Nat × Word)) : State :=
  match s.bootWrites (ws ++ [(rCusBootstat, BitVec.ofNat 64 (4 * src + 16))]) with
  | some t => (t.setCal 0 { t.cal 0 with pc := bootImage }).setBoot .ended
  | none => s

/-- Safety window 15 as the boot ROM opens it, and closed (R629). -/
def bootWindow : List (Nat × Word) :=
  [(rMtxWbase 0 15, 0x4004_0000), (rMtxWlim 0 15, 0x4044_0000), (rMtxWattr 0 15, 7)]
def bootShut : List (Nat × Word) := [(rMtxWattr 0 15, 0)]

/-- A read of the boot ROM faults. -/
def State.bootFault (s : State) (e : MErr) (a : Nat) : State := (s.setBoot .ended).except 0 excLoad e.kind a (s.cal 0).pc

/-- The boot ROM looks at the mailbox (R629): with the magic there it checks the length and the CRC of the image; a failure
clears the magic, success closes window 15. -/
def State.bootPoll (s : State) : State :=
  match s.readMem Paths.data .free bootMailbox 20 with
  | (s, .error e) => s.bootFault e bootMailbox
  | (s, .ok m) =>
    let len := ofLeBytes (m.take 8)
    if ofLeBytes ((m.drop 16).take 4) ≠ bootMagic then s
    else
      let clear (s : State) : State := s.storeBytes .free (bootMailbox + 16) (leBytes 4 0)
      if len = 0 ∨ 0x40_0000 < len then clear s
      else match s.readMem Paths.data .free bootImage len with
        | (s, .error e) => s.bootFault e bootImage
        | (s, .ok bs) =>
          if crc64Ecma.of bs = ofLeBytes ((m.drop 8).take 8) then s.bootDone 3 bootShut else clear s

/-- One act of the boot ROM (R627, R628, R629): the next source of the strap's order, what became of the one it tries, or,
after the last, FAILED and WAIT. -/
def State.bootStep (s : State) : State :=
  if !s.inRom then s
  else match s.boot with
    | .ended => s
    | .next [] =>
      (match s.bootWrites [(rCusBootstat, 32)] with
       | some t => (t.setCal 0 { t.cal 0 with asleep := true }).setBoot .ended
       | none => s)
    | .next (src :: rest) =>
      if src = 3 then s.bootGo .host bootWindow
      else s.bootGo (.loading src rest) [(rCusBootload, BitVec.ofNat 64 (2 + (src - 1)))]
    | .loading src rest =>
      if s.rb rCusBootload fCusBootloadBusy then s
      else if s.rb rCusBootload fCusBootloadOk then s.bootDone src []
      else s.setBoot (.next rest)
    | .host => if s.ready 28 then s.bootPoll else s

end Sys2Proof.Machine
end

