-- ==== Sys2Proof/Machine/Pins.lean ====
section
/-!
DEFINITION. Time and the test pins: the microsecond that passes while no command waits (R2, R7, R667), the reference clock, and
the test access port (R671).
-/
namespace Sys2Proof.Machine

/-- REFCLK_ETH stops or returns (R667). -/
def State.setClock (s : State) (on : Bool) : State := s.setCus { s.cus with clock := on }

/-- The gPTP time of an enabled port goes on by 1 000 ns (R537, R542). -/
def State.ptpTick (s : State) (p : Nat) : State :=
  if s.portOn p && s.rb (rLnkPtpctl p) fLnkPtpctlEn then s.setReg (rLnkPtptime p) (s.reg (rLnkPtptime p) + 1000) else s

/-- One microsecond of device time: the time base counts while its clock runs and VDD_AON is up (R623, R667), the beats of the
cue router and the callers go on, waiting orders count toward their watchdog (R223), the boot ROM acts (R627), and the host may use BAR2 (R570). -/
def State.tick (s : State) : State :=
  if !s.cus.clock || !s.cus.aon then s
  else
    let s := { s with
      beats := s.beats + Config.beatsIn s.time
      time := s.time + 1
      calBeats := (List.range 8).foldl (fun t c =>
        let b := Tab.get beatsDefault t c
        if s.ready (16 + c) then Tab.set beatsDefault t c (b.1 + max b.2 (Config.calBeatsIn c s.time), 0) else t) s.calBeats }
    let s := (List.range 32).foldl (fun s q => s.wdTick q) s
    ((List.range 4).foldl (fun s p => s.ptpTick p) s).bootStep.hostBar2

def State.setTap (s : State) (x : TapSt) : State := s.setCus { s.cus with tap := x }

/-- The identification code of the test access port (R671). -/
def tapId : Word := 0x0416_038B

/-- An instruction is loaded (R671); the driving ones act only while RESET_N is low, else as BYPASS. In reset the port loads
nothing. -/
def State.tapLoad (s : State) (ir : Nat) : State :=
  let x := s.cus.tap
  if x.held then s
  else
    let ir := if 3 ≤ ir ∧ s.cus.resetN then 0 else ir
    s.setTap { x with ir := ir, dr := if ir = 1 then tapId else if ir = 0 then 0 else x.dr }

/-- SAMPLE/PRELOAD: the boundary cells take `pins`; what the port then shifts out is open, since the manual does not give the
cells. -/
def State.tapSample (s : State) (pins : Word) : State :=
  let x := s.cus.tap
  if x.held then s
  else
    let (v, s) := s.takeFree
    s.setTap { x with ir := 2, boundary := pins, dr := v }

/-- TRST_N: low holds the port in reset, where it selects IDCODE. -/
def State.tapReset (s : State) (low : Bool) : State :=
  let x := s.cus.tap
  if low then s.setTap { x with held := true, ir := 1 } else s.setTap { x with held := false }

end Sys2Proof.Machine
end

