-- ==== Sys2Proof/Machine/CmdArchive.lean ====
section
/-!
DEFINITION. The commands of the archive (12).
-/
namespace Sys2Proof.Machine

/-- RECORD_OPEN (R511). -/
def execRecordOpen (e : BitVec 4) (w : World) (s : State) : Host.Outcome State Fault Refusal :=
  .next (s.recordOpen (qOf e.toNat w))

/-- FOLIO_PROGRAM_DONE (R502). -/
def execFolioProgramDone (w : World) (target : BitVec 6) (upTo : Nat) (pass : Bool) 
    (s : State) : Host.Outcome State Fault Refusal :=
  .next (s.folioDone w.idx target.toNat upTo pass)

/-- ERASE_DONE (R502). -/
def execEraseDone (target : BitVec 6) (pass : Bool) (s : State) : Host.Outcome State Fault Refusal :=
  .next (s.eraseDone target.toNat pass)

/-- NAND_READ_DONE (R501). -/
def execNandReadDone (w : World) (target : BitVec 6) (pos : Nat) (stage : NandStage) 
    (s : State) : Host.Outcome State Fault Refusal :=
  .next (s.nandRead w.idx target.toNat pos stage)

/-- COLOPHON_TIMER (R509). -/
def execColophonTimer (s : State) : Host.Outcome State Fault Refusal := .next s.colophonTimer

/-- COLOPHON_PAGE_PROGRAMMED (R510). -/
def execColophonPageProgrammed (w : World) (pass : Bool) (s : State) : Host.Outcome State Fault Refusal :=
  .next (s.colophonDone w.idx pass)

/-- FOLIO_AGE_EXPIRY (R502). -/
def execFolioAgeExpiry (w : World) (target : BitVec 6) (pos : Nat) (s : State) : Host.Outcome State Fault Refusal :=
  .next (s.folioAge w.idx target.toNat pos)

/-- RETENTION (R502). -/
def execRetentionLate (w : World) (target : BitVec 6) (pos : Nat) (s : State) : Host.Outcome State Fault Refusal :=
  .next (s.retentionLate w.idx target.toNat pos)

/-- MAP_CHECKPOINT (R503). -/
def execMapCheckpoint (s : State) : Host.Outcome State Fault Refusal := .next s.mapCheckpoint

/-- ARC_WAIT_LIMIT (R518). -/
def execArcWaitLimit (e : BitVec 4) (w : World) (s : State) : Host.Outcome State Fault Refusal :=
  .next (s.arcWaitLimit (qOf e.toNat w))

/-- ARC_RELEASE (R522). -/
def execArcRelease (m : Master) (w : World) (below : BitVec 47) (s : State) : Host.Outcome State Fault Refusal :=
  .next (s.write m (rArcRelease w.idx) (below.zeroExtend 64))

/-- ARC_AUDIT (R523). -/
def execArcAudit (m : Master) (count : BitVec 32) (unit : BitVec 3) (s : State) : Host.Outcome State Fault Refusal :=
  .next (s.write m rArcAudit (BitVec.ofNat 64 (count.toNat + 2 ^ 32 * unit.toNat + 2 ^ 40)))

/-- AUDIT_END (R523). -/
def execAuditEnd (s : State) : Host.Outcome State Fault Refusal := .next s.auditEnd

/-- BOOTCTL (R530). -/
def execBootctl (m : Master) (length : BitVec 23) (copy : Bool) (s : State) : Host.Outcome State Fault Refusal :=
  .next (s.write m rArcBootctl (BitVec.ofNat 64 (length.toNat + 2 ^ 23 * copy.toNat + 2 ^ 24)))

/-- BOOT_STORE_DONE (R530). -/
def execBootStoreDone (pass : Bool) (s : State) : Host.Outcome State Fault Refusal := .next (s.bootStoreDone pass)

/-- ARCHIVE_RECOVERY (R524). -/
def execArchiveRecovery (s : State) : Host.Outcome State Fault Refusal := .next s.arcRecovery

/-- RECOVERY_DONE (R525). -/
def execRecoveryDone (ms : BitVec 16) (s : State) : Host.Outcome State Fault Refusal :=
  .next (s.arcRecovered ms.toNat)

/-- FLUSH_FINAL_COLOPHON (R526). -/
def execFlushFinalColophon (s : State) : Host.Outcome State Fault Refusal := .next s.flushFinal

/-- FLUSH_END (R526). -/
def execFlushEnd (s : State) : Host.Outcome State Fault Refusal := .next s.flushEnd

end Sys2Proof.Machine
end

