-- ==== Sys2Proof/Machine/CmdCaller.lean ====
section
/-!
DEFINITION. The events of a caller (09, 10): responses, the store buffer, long operations, the spill engine, table reloads, binding,
restart and interrupt offers.
-/
namespace Sys2Proof.Machine

/-- LOAD_RESPONSE (R421). -/
def execLoadResponse (c : BitVec 3) (reply : LoadReply) (s : State) : Host.Outcome State Fault Refusal :=
  .next (s.loadResponse c.toNat reply.id reply.err)

/-- STORE_DRAIN (R420). -/
def execStoreDrain (c : BitVec 3) (s : State) : Host.Outcome State Fault Refusal := .next (s.storeDrain c.toNat)

/-- STORE_RESPONSE (R370). -/
def execStoreResponse (c : BitVec 3) (err : Bool) (s : State) : Host.Outcome State Fault Refusal :=
  .next (s.storeResponse c.toNat err)

/-- LONG_OP_RETIRE (R403). -/
def execLongOpRetire (c : BitVec 3) (i : BitVec 5) (s : State) : Host.Outcome State Fault Refusal :=
  .next (s.longRetire c.toNat i.toNat)

/-- SPILL (R411). -/
def execSpill (c : BitVec 3) (s : State) : Host.Outcome State Fault Refusal := .next (s.spill c.toNat)

/-- REFILL (R411). -/
def execRefill (c : BitVec 3) (s : State) : Host.Outcome State Fault Refusal := .next (s.refill c.toNat)

/-- TABLE_RELOAD_DONE (R441). -/
def execTableReloadDone (c : BitVec 3) (t : SaveSet) (s : State) : Host.Outcome State Fault Refusal :=
  .next (s.tableReload c.toNat t)

/-- CAL_WORLD_WRITE (R438). -/
def execCalWorldWrite (m : Master) (c : BitVec 3) (w : World) (s : State) : Host.Outcome State Fault Refusal :=
  .next (s.write m (rCalWorld c.toNat) (BitVec.ofNat 64 w.idx))

/-- WSBASE_WRITE (R432). -/
def execWsbaseWrite (m : Master) (c : BitVec 3) (v : Word) (s : State) : Host.Outcome State Fault Refusal :=
  .next (s.write m (rCalWsbase c.toNat) v)

/-- CAL_RESTART (R444). -/
def execCalRestart (m : Master) (c : BitVec 3) (addr : Addr) (s : State) : Host.Outcome State Fault Refusal :=
  .next (s.write m (rCalRestart c.toNat) (Word.setFld (addr.zeroExtend 64) 0 2 1))

/-- INTERRUPT_OFFER (R480). -/
def execInterruptOffer (c : BitVec 3) (s : State) : Host.Outcome State Fault Refusal := .next (s.irqOffer c.toNat)

/-- SRCSTAT_PEND_WRITE (R478). -/
def execSrcstatPendWrite (m : Master) (src : BitVec 9) (s : State) : Host.Outcome State Fault Refusal :=
  .next (s.write m (rIdsSrcstat src.toNat) 1)

/-- EOI (R482). -/
def execEoi (m : Master) (src : BitVec 9) (s : State) : Host.Outcome State Fault Refusal :=
  .next (s.write m rIdsEoi (src.zeroExtend 64))

end Sys2Proof.Machine
end

