-- ==== Sys2Proof/Machine/CmdConfig.lean ====
section
/-!
DEFINITION. The commands of the configuration space: writes and reads of registers, staging, commits and the digest (00, 01, 16).
-/
namespace Sys2Proof.Machine

/-- The word of CFG.COMMIT: COUNT, then PREVIEW (1) or ABORT (2), CHECK (R655). -/
def commitWordOf (count check bits : Nat) : Word := BitVec.ofNat 64 (count + 2 ^ 13 * bits + 2 ^ 32 * check)

/-- A write at a device address: of the configuration space, or without effect here. -/
def State.addrWrite (s : State) (m : Master) (a size : Nat) (v : Word) : State :=
  if cfgBase ≤ a ∧ a < 0x2000_0000 then s.write m (a - cfgBase) v size else s

/-- REGISTER_WRITE (R640). -/
def execRegisterWrite (m : Master) (addr : Addr) (size : Nat) (v : Word) 
    (s : State) : Host.Outcome State Fault Refusal :=
  .next (s.addrWrite m addr.toNat size v)

/-- CLAMPLOG_READ (R641). -/
def execClamplogRead (m : Master) (s : State) : Host.Outcome State Fault Refusal :=
  .next (s.regRead m rCfgClamplog)

/-- ENG_REJECT_READ (R99). -/
def execEngRejectRead (m : Master) (e : BitVec 4) (w : World) (s : State) : Host.Outcome State Fault Refusal :=
  .next (s.regRead m (rEngReject e.toNat w.idx))

/-- ENG_CPLERR_READ (R240). -/
def execEngCplerrRead (m : Master) (e : BitVec 4) (w : World) (s : State) : Host.Outcome State Fault Refusal :=
  .next (s.regRead m (rEngCplerr e.toNat w.idx))

/-- ENG_TRAPREP_READ (R241). -/
def execEngTraprepRead (m : Master) (e : BitVec 4) (w : World) (s : State) : Host.Outcome State Fault Refusal :=
  .next (s.regRead m (rEngTraprep e.toNat w.idx))

/-- MMREP0_READ (R324). -/
def execMmrep0Read (m : Master) (k : Fin 5) (s : State) : Host.Outcome State Fault Refusal :=
  .next (s.regRead m (rRepMmrep0 k.val))

/-- FLT_FIRST0_READ (R492). -/
def execFltFirst0Read (m : Master) (b : Fin 57) (s : State) : Host.Outcome State Fault Refusal :=
  .next (s.regRead m (rFltFirst0 b.val))

/-- STAGING_WRITE (R642). -/
def execStagingWrite (m : Master) (off : BitVec 16) (size : Nat) (v : Word) 
    (s : State) : Host.Outcome State Fault Refusal :=
  .next (s.write m (0x311_0000 + off.toNat) v size)

/-- CFG_COMMIT (R643). -/
def execCfgCommit (m : Master) (count : BitVec 13) (check : BitVec 32) 
    (s : State) : Host.Outcome State Fault Refusal :=
  .next (s.write m rCfgCommit (commitWordOf count.toNat check.toNat 0))

/-- CFG_PREVIEW (R643). -/
def execCfgPreview (m : Master) (count : BitVec 13) (check : BitVec 32) 
    (s : State) : Host.Outcome State Fault Refusal :=
  .next (s.write m rCfgCommit (commitWordOf count.toNat check.toNat 1))

/-- CFG_ABORT (R645). -/
def execCfgAbort (m : Master) (s : State) : Host.Outcome State Fault Refusal :=
  .next (s.write m rCfgCommit (commitWordOf 0 0 2))

/-- PREVIEW_DONE (R643). -/
def execPreviewDone (s : State) : Host.Outcome State Fault Refusal := .next s.previewDone

/-- COMMIT_APPLIED (R644). -/
def execCommitApplied (s : State) : Host.Outcome State Fault Refusal := .next s.commitApplied

/-- PLACEMENT_MOVE (R626). -/
def execPlacementMove (s : State) : Host.Outcome State Fault Refusal := .next s.placementMove

/-- DIGEST_TIMER (R647). -/
def execDigestTimer (s : State) : Host.Outcome State Fault Refusal := .next s.digestTimer

/-- DIGEST_START (R647). -/
def execDigestStart (s : State) : Host.Outcome State Fault Refusal := .next s.digestChange

/-- DIGEST_PUBLISH (R647). -/
def execDigestPublish (s : State) : Host.Outcome State Fault Refusal := .next s.digestPublish

end Sys2Proof.Machine
end

