-- ==== Sys2Proof/Machine/CmdControl.lean ====
section
/-!
DEFINITION. Transfers, synchronising instructions, ORDER, control registers and exceptions of a caller (09, 10).
-/
namespace Sys2Proof.Machine

/-- A word of format J (R393). -/
def wordJ (major : Nat) (off : BitVec 26) : Nat := 2 ^ 26 * major + off.toNat

/-- BEQ (R394). -/
def execBeq (c : BitVec 3) (s1 s2 : BitVec 5) (off : BitVec 16) (s : State) : Host.Outcome State Fault Refusal :=
  .next (s.branch c.toNat 0x20 s1 s2 off fun a b => a == b)

/-- BNE (R394). -/
def execBne (c : BitVec 3) (s1 s2 : BitVec 5) (off : BitVec 16) (s : State) : Host.Outcome State Fault Refusal :=
  .next (s.branch c.toNat 0x21 s1 s2 off fun a b => a != b)

/-- BLT (R394). -/
def execBlt (c : BitVec 3) (s1 s2 : BitVec 5) (off : BitVec 16) (s : State) : Host.Outcome State Fault Refusal :=
  .next (s.branch c.toNat 0x22 s1 s2 off fun a b => a.slt b)

/-- BGE (R394). -/
def execBge (c : BitVec 3) (s1 s2 : BitVec 5) (off : BitVec 16) (s : State) : Host.Outcome State Fault Refusal :=
  .next (s.branch c.toNat 0x23 s1 s2 off fun a b => !a.slt b)

/-- BLTU (R394). -/
def execBltu (c : BitVec 3) (s1 s2 : BitVec 5) (off : BitVec 16) (s : State) : Host.Outcome State Fault Refusal :=
  .next (s.branch c.toNat 0x24 s1 s2 off fun a b => a.ult b)

/-- BGEU (R394). -/
def execBgeu (c : BitVec 3) (s1 s2 : BitVec 5) (off : BitVec 16) (s : State) : Host.Outcome State Fault Refusal :=
  .next (s.branch c.toNat 0x25 s1 s2 off fun a b => !a.ult b)

/-- J (R394). -/
def execJ (c : BitVec 3) (off : BitVec 26) (s : State) : Host.Outcome State Fault Refusal :=
  .next (s.instr c.toNat (wordJ 0x28 off) false [] [] fun s => s.goto c.toNat (jumpTo (s.cal c.toNat).pc off.toInt))

/-- CALL (R392). -/
def execCall (c : BitVec 3) (off : BitVec 26) (s : State) : Host.Outcome State Fault Refusal :=
  .next (s.instr c.toNat (wordJ 0x29 off) false [] [] fun s => s.callTo c.toNat (jumpTo (s.cal c.toNat).pc off.toInt))

/-- JR (R399). -/
def execJr (c : BitVec 3) (d s1 s2 : BitVec 5) (s : State) : Host.Outcome State Fault Refusal :=
  .next (s.instr c.toNat (wordA 0x2A d s1 s2 0) false [s1] [] fun s => s.goto c.toNat (regTarget (s.gpr c.toNat s1)))

/-- CALLR (R392). -/
def execCallr (c : BitVec 3) (d s1 s2 : BitVec 5) (s : State) : Host.Outcome State Fault Refusal :=
  .next (s.instr c.toNat (wordA 0x2A d s1 s2 1) false [s1] [] fun s => s.callTo c.toNat (regTarget (s.gpr c.toNat s1)))

/-- RET (R392). -/
def execRet (c : BitVec 3) (d s1 s2 : BitVec 5) (s : State) : Host.Outcome State Fault Refusal :=
  .next (s.instr c.toNat (wordA 0x2A d s1 s2 2) false [23] [] fun s => s.retTo c.toNat)

/-- SYNC_C (R423). -/
def execSyncC (c : BitVec 3) (d s1 s2 : BitVec 5) (s : State) : Host.Outcome State Fault Refusal :=
  .next (s.syncIns c.toNat (wordA 0x3C d s1 s2 0x0))

/-- SYNC_F (R423): the next word is fetched again in any case. -/
def execSyncF (c : BitVec 3) (d s1 s2 : BitVec 5) (s : State) : Host.Outcome State Fault Refusal :=
  .next (s.instr c.toNat (wordA 0x3C d s1 s2 0x1) false [] [] fun s => s.next c.toNat)

/-- BARRIER (R423). -/
def execBarrier (c : BitVec 3) (d s1 s2 : BitVec 5) (s : State) : Host.Outcome State Fault Refusal :=
  .next (s.barrierIns c.toNat (wordA 0x3C d s1 s2 0x2))

/-- FENCE_E (R423). -/
def execFenceE (c : BitVec 3) (d s1 s2 : BitVec 5) (s : State) : Host.Outcome State Fault Refusal :=
  .next (s.fenceIns c.toNat (wordA 0x3C d s1 s2 0x3))

/-- CINV_I (R423). -/
def execCinvI (c : BitVec 3) (d s1 s2 : BitVec 5) (s : State) : Host.Outcome State Fault Refusal :=
  .next (s.cinvLine c.toNat (wordA 0x3C d s1 s2 0x4) s1 true)

/-- CINV_IA (R423). -/
def execCinvIa (c : BitVec 3) (d s1 s2 : BitVec 5) (s : State) : Host.Outcome State Fault Refusal :=
  .next (s.cinvAll c.toNat (wordA 0x3C d s1 s2 0x5) true)

/-- CINV_D (R423). -/
def execCinvD (c : BitVec 3) (d s1 s2 : BitVec 5) (s : State) : Host.Outcome State Fault Refusal :=
  .next (s.cinvLine c.toNat (wordA 0x3C d s1 s2 0x6) s1 false)

/-- CINV_DA (R423). -/
def execCinvDa (c : BitVec 3) (d s1 s2 : BitVec 5) (s : State) : Host.Outcome State Fault Refusal :=
  .next (s.cinvAll c.toNat (wordA 0x3C d s1 s2 0x7) false)

/-- WFLUSH (R415). -/
def execWflush (c : BitVec 3) (d s1 s2 : BitVec 5) (s : State) : Host.Outcome State Fault Refusal :=
  .next (s.wflushIns c.toNat (wordA 0x3C d s1 s2 0x8))

/-- ORDER (R425). -/
def execIssueOrder (c : BitVec 3) (d s1 s2 : BitVec 5) (s : State) : Host.Outcome State Fault Refusal :=
  .next (s.orderIns c.toNat (wordA 0x3C d s1 s2 0x10) d s1 s2)

/-- WAIT (R426). -/
def execWait (c : BitVec 3) (d s1 s2 : BitVec 5) (s : State) : Host.Outcome State Fault Refusal :=
  .next (s.waitIns c.toNat (wordA 0x3C d s1 s2 0x11))

/-- CRR (R428). -/
def execCrr (c : BitVec 3) (d s1 : BitVec 5) (num : BitVec 16) (s : State) : Host.Outcome State Fault Refusal :=
  .next (s.crrIns c.toNat d s1 num)

/-- CRW (R428). -/
def execCrw (c : BitVec 3) (d s1 : BitVec 5) (num : BitVec 16) (s : State) : Host.Outcome State Fault Refusal :=
  .next (s.crwIns c.toNat d s1 num)

/-- SCALL (R460). -/
def execScall (c : BitVec 3) (s : State) : Host.Outcome State Fault Refusal :=
  .next (s.callExc c.toNat 0x20 excScall true)

/-- MCALL (R460). -/
def execMcall (c : BitVec 3) (s : State) : Host.Outcome State Fault Refusal :=
  .next (s.callExc c.toNat 0x21 excMcall true)

/-- BREAK (R460). -/
def execBrk (c : BitVec 3) (s : State) : Host.Outcome State Fault Refusal :=
  .next (s.callExc c.toNat 0x22 excBreak false)

/-- RETX (R451). -/
def execRetx (c : BitVec 3) (s : State) : Host.Outcome State Fault Refusal := .next (s.retxIns c.toNat)

end Sys2Proof.Machine
end

