-- ==== Sys2Proof/Machine/CmdCue.lean ====
section
/-!
DEFINITION. The commands of cues, cue pins, fault injection and ALARM_N (11).
-/
namespace Sys2Proof.Machine

/-- CUE_FIRES (R463). -/
def execCueFires (m : Master) (ch : BitVec 8) (s : State) : Host.Outcome State Fault Refusal :=
  .next (s.write m (rCueFires 0) (BitVec.ofNat 64 (ch.toNat + 2 ^ 8)))

/-- CUE_FIREV (R463). -/
def execCueFirev (m : Master) (ch : BitVec 8) (s : State) : Host.Outcome State Fault Refusal :=
  .next (s.write m (rCueFires 1) (BitVec.ofNat 64 (ch.toNat + 2 ^ 8)))

/-- GRPSET (R465). -/
def execGrpset (m : Master) (groups : BitVec 32) (s : State) : Host.Outcome State Fault Refusal :=
  .next (s.write m rCueGrpset (groups.zeroExtend 64))

/-- GRPCLR (R465). -/
def execGrpclr (m : Master) (groups : BitVec 32) (s : State) : Host.Outcome State Fault Refusal :=
  .next (s.write m rCueGrpclr (groups.zeroExtend 64))

/-- RATE_WINDOW (R470). -/
def execRateWindow (s : State) : Host.Outcome State Fault Refusal := .next s.rateWindow

/-- CUE_TIMER_EXPIRY (R471). -/
def execCueTimerExpiry (t : BitVec 3) (s : State) : Host.Outcome State Fault Refusal :=
  .next (s.timerExpiry t.toNat)

/-- CUE_IN_ACTIVATION (R474). -/
def execCueInActivation (i : BitVec 4) (s : State) : Host.Outcome State Fault Refusal :=
  .next (s.pinActivate i.toNat)

/-- CUE_IN_INACTIVE (R475). -/
def execCueInInactive (i : BitVec 4) (s : State) : Host.Outcome State Fault Refusal :=
  .next (s.pinDeactivate i.toNat)

/-- CUE_IN_REPEAT (R474). -/
def execCueInRepeat (i : BitVec 4) (s : State) : Host.Outcome State Fault Refusal := .next (s.pinRepeat i.toNat)

/-- STUCK (R475). -/
def execCueStuck (i : BitVec 4) (s : State) : Host.Outcome State Fault Refusal := .next (s.pinStuck i.toNat)

/-- PINCFG_WRITE (R474). -/
def execPincfgWrite (m : Master) (i : BitVec 4) (v : Word) (s : State) : Host.Outcome State Fault Refusal :=
  .next (s.write m (rCuePincfg i.toNat) v)

/-- CUE_OUT_PULSE_END (R476). -/
def execCueOutPulseEnd (o : BitVec 4) (s : State) : Host.Outcome State Fault Refusal := .next (s.pulseEnd o.toNat)

/-- FLT_INJECT (R488). -/
def execFltInject (m : Master) (b : Fin 57) (kind : BitVec 5) (s : State) : Host.Outcome State Fault Refusal :=
  .next (s.write m (faultBase b.val + 0xF50) (BitVec.ofNat 64 (kind.toNat + 2 ^ 8)))

/-- ALARM_PULSE_END (R489). -/
def execAlarmPulseEnd (s : State) : Host.Outcome State Fault Refusal := .next s.alarmEndPulse

end Sys2Proof.Machine
end

