-- ==== Sys2Proof/Machine/CmdCustody.lean ====
section
/-!
DEFINITION. The commands of custody, power and the pins: modes and their triggers, sensors, domains, boot, and the test access
port (16, 17).
-/
namespace Sys2Proof.Machine

/-- The word of CUS.MODECTL that requests mode `t` (R650). -/
def modectlWord (t : Nat) (after : BitVec 4) : Word := BitVec.ofNat 64 (t + 2 ^ 4 * after.toNat + 2 ^ 8)

/-- VDD_AON_RISE (R621). -/
def execVddAonRise (s : State) : Host.Outcome State Fault Refusal := .next s.aonRise

/-- RESET_N_RISE (R624). -/
def execResetNRise (s : State) : Host.Outcome State Fault Refusal := .next s.resetRise

/-- RESET_N_FALL (R621). -/
def execResetNFall (s : State) : Host.Outcome State Fault Refusal := .next s.resetFall

/-- PFAIL_N_FALL (R636). -/
def execPfailNFall (s : State) : Host.Outcome State Fault Refusal := .next s.pfailFall

/-- PFAIL_N_RISE (R669). -/
def execPfailNRise (s : State) : Host.Outcome State Fault Refusal := .next s.pfailRise

/-- HELD_RESET_N_RISE (R669). -/
def execHeldResetNRise (s : State) : Host.Outcome State Fault Refusal := .next s.heldRise

/-- SUPPLY_REMOVAL (R621). -/
def execSupplyRemoval (s : State) : Host.Outcome State Fault Refusal := .next s.supplyOff

/-- THERM_N_CHANGE (R632). -/
def execThermNChange (level : Bool) (s : State) : Host.Outcome State Fault Refusal := .next (s.thermChange level)

/-- REFCLK_ETH_STOP (R667). -/
def execRefclkEthStop (s : State) : Host.Outcome State Fault Refusal := .next (s.setClock false)

/-- REFCLK_ETH_RETURN (R667). -/
def execRefclkEthReturn (s : State) : Host.Outcome State Fault Refusal := .next (s.setClock true)

/-- MODECTL_REHEARSAL (R621). -/
def execModectlRehearsal (m : Master) (after : BitVec 4) (s : State) : Host.Outcome State Fault Refusal :=
  .next (s.write m rCusModectl (modectlWord 3 after))

/-- MODECTL_CUSTODY (R634). -/
def execModectlCustody (m : Master) (after : BitVec 4) (s : State) : Host.Outcome State Fault Refusal :=
  .next (s.write m rCusModectl (modectlWord 8 after))

/-- MODECTL_CURTAIN (R635). -/
def execModectlCurtain (m : Master) (after : BitVec 4) (s : State) : Host.Outcome State Fault Refusal :=
  .next (s.write m rCusModectl (modectlWord 9 after))

/-- MODECTL_REFIT (R645). -/
def execModectlRefit (m : Master) (after : BitVec 4) (s : State) : Host.Outcome State Fault Refusal :=
  .next (s.write m rCusModectl (modectlWord 11 after))

/-- MODE_TRANSITION_COMPLETE (R621). -/
def execModeTransitionComplete (s : State) : Host.Outcome State Fault Refusal := .next s.modeComplete

/-- REHEARSAL_END (R631). -/
def execRehearsalEnd (s : State) : Host.Outcome State Fault Refusal := .next s.rehearsalEnd

/-- DIE_SENSOR_READ (R632). -/
def execDieSensorRead (temps : List (BitVec 9 × Bool)) (mv : BitVec 16) 
    (s : State) : Host.Outcome State Fault Refusal :=
  .next (s.dieRead temps mv.toNat)

/-- RESTRAINT_END (R632). -/
def execRestraintEnd (s : State) : Host.Outcome State Fault Refusal := .next s.restraintEnd

/-- OVERTEMP (R633). -/
def execOvertemp (sensor : Fin 20) (s : State) : Host.Outcome State Fault Refusal := .next (s.overtemp sensor.val)

/-- CALSTART (R624). -/
def execCalstart (m : Master) (callers : BitVec 8) (s : State) : Host.Outcome State Fault Refusal :=
  .next (s.write m rCusCalstart (callers.zeroExtend 64))

/-- FUNCTION_READY (R625). -/
def execFunctionReady (bit : Fin 53) (s : State) : Host.Outcome State Fault Refusal :=
  .next (s.functionReady bit.val)

/-- BOOTLOAD (R628). -/
def execBootload (m : Master) (copy : Bool) (s : State) : Host.Outcome State Fault Refusal :=
  .next (s.write m rCusBootload (BitVec.ofNat 64 (2 + copy.toNat)))

/-- BOOTLOAD_DONE (R628). -/
def execBootloadDone (s : State) : Host.Outcome State Fault Refusal := .next s.bootLoadDone

/-- DOMAIN_SWITCH_OFF (R639). -/
def execDomainSwitchOff (m : Master) (d : Fin 50) (s : State) : Host.Outcome State Fault Refusal :=
  .next (s.rewrite m rPwrDomctl fun w => w.setBit d.val true)

/-- DOMAIN_SWITCH_ON (R639). -/
def execDomainSwitchOn (m : Master) (d : Fin 50) (s : State) : Host.Outcome State Fault Refusal :=
  .next (s.rewrite m rPwrDomctl fun w => w.setBit d.val false)

/-- BYPASS (R671). -/
def execBypass (s : State) : Host.Outcome State Fault Refusal := .next (s.tapLoad 0)

/-- IDCODE (R671). -/
def execIdcode (s : State) : Host.Outcome State Fault Refusal := .next (s.tapLoad 1)

/-- SAMPLE_PRELOAD (R671). -/
def execSamplePreload (pins : Word) (s : State) : Host.Outcome State Fault Refusal := .next (s.tapSample pins)

/-- EXTEST (R671). -/
def execExtest (s : State) : Host.Outcome State Fault Refusal := .next (s.tapLoad 3)

/-- EXTEST_PULSE (R671). -/
def execExtestPulse (s : State) : Host.Outcome State Fault Refusal := .next (s.tapLoad 4)

/-- EXTEST_TRAIN (R671). -/
def execExtestTrain (s : State) : Host.Outcome State Fault Refusal := .next (s.tapLoad 5)

/-- TRST_N_LOW (R671). -/
def execTrstNLow (s : State) : Host.Outcome State Fault Refusal := .next (s.tapReset true)

/-- TRST_N_HIGH (R671). -/
def execTrstNHigh (s : State) : Host.Outcome State Fault Refusal := .next (s.tapReset false)

end Sys2Proof.Machine
end

