-- ==== Sys2Proof/Machine/CmdEngine.lean ====
section
/-!
DEFINITION. The commands of orders and engines: start, completion, suspension and resumption, time partition, relays, reprise and
frames (02, 04, 05, 07).
-/
namespace Sys2Proof.Machine

/-- ORDER_START (R91). -/
def execOrderStart (e : BitVec 4) (w : World) (s : State) : Host.Outcome State Fault Refusal :=
  .next (s.tryStart (qOf e.toNat w))

/-- ORDER_COMPLETE (R234). -/
def execOrderComplete (e : BitVec 4) (w : World) (s : State) : Host.Outcome State Fault Refusal :=
  .next (s.complete (qOf e.toNat w))

/-- RECORD_WRITTEN (R208). -/
def execRecordWritten (e : BitVec 4) (w : World) (s : State) : Host.Outcome State Fault Refusal :=
  .next (s.recordWritten (qOf e.toNat w))

/-- TP_CYCLE_START (R186). -/
def execTpCycleStart (e : BitVec 4) (s : State) : Host.Outcome State Fault Refusal :=
  .next (s.tpCycleStart e.toNat)

/-- TP_SLOT_BOUNDARY (R187). -/
def execTpSlotBoundary (e : BitVec 4) (s : State) : Host.Outcome State Fault Refusal :=
  .next (s.tpSlotBoundary e.toNat)

/-- STALL_WATCHDOG_EXPIRY (R224). -/
def execStallWatchdogExpiry (e : BitVec 4) (w : World) (s : State) : Host.Outcome State Fault Refusal :=
  .next (s.stallExpiry (qOf e.toNat w))

/-- ENG_SUSPEND (R226). -/
def execEngSuspend (m : Master) (e : BitVec 4) (w : World) (s : State) : Host.Outcome State Fault Refusal :=
  .next (s.write m (rEngSuspend e.toNat w.idx) 1)

/-- RESUME_CONTINUE (R229). -/
def execResumeContinue (m : Master) (e : BitVec 4) (w : World) (tag : BitVec 16) 
    (s : State) : Host.Outcome State Fault Refusal :=
  .next (s.write m (rEngResume e.toNat w.idx) (BitVec.ofNat 64 (0 + 2 ^ 16 * tag.toNat)))

/-- RESUME_PASS (R229). -/
def execResumePass (m : Master) (e : BitVec 4) (w : World) (tag : BitVec 16) 
    (s : State) : Host.Outcome State Fault Refusal :=
  .next (s.write m (rEngResume e.toNat w.idx) (BitVec.ofNat 64 (1 + 2 ^ 16 * tag.toNat)))

/-- RESUME_SKIP (R230). -/
def execResumeSkip (m : Master) (e : BitVec 4) (w : World) (tag : BitVec 16) 
    (s : State) : Host.Outcome State Fault Refusal :=
  .next (s.write m (rEngResume e.toNat w.idx) (BitVec.ofNat 64 (2 + 2 ^ 16 * tag.toNat)))

/-- RESUME_ABANDON (R231). -/
def execResumeAbandon (m : Master) (e : BitVec 4) (w : World) (tag : BitVec 16) 
    (s : State) : Host.Outcome State Fault Refusal :=
  .next (s.write m (rEngResume e.toNat w.idx) (BitVec.ofNat 64 (3 + 2 ^ 16 * tag.toNat)))

/-- RELAY_CREDIT_RETURN (R174). -/
def execRelayCreditReturn (r : BitVec 6) (s : State) : Host.Outcome State Fault Refusal :=
  .next (s.relayCredit r.toNat)

/-- RELAY_ENABLE (R180). -/
def execRelayEnable (m : Master) (r : BitVec 6) (v : Word) (s : State) : Host.Outcome State Fault Refusal :=
  .next (s.write m (rScpRlyctl r.toNat) (v.setBit 63 true))

/-- RLYFLUSH (R183). -/
def execRlyflush (m : Master) (r : BitVec 6) (s : State) : Host.Outcome State Fault Refusal :=
  .next (s.write m rScpRlyflush (r.zeroExtend 64))

/-- SIGNATURE_COMPARE (R298). -/
def execSignatureCompare (e : BitVec 4) (w : World) (err : Word) (s : State) : Host.Outcome State Fault Refusal :=
  .next (s.compare (qOf e.toNat w) err.toNat)

/-- ENCORE_START (R302). -/
def execEncoreStart (e : BitVec 4) (w : World) (s : State) : Host.Outcome State Fault Refusal :=
  .next (s.encoreDecide (qOf e.toNat w))

/-- ENCORE_END (R302). -/
def execEncoreEnd (err : Word) (s : State) : Host.Outcome State Fault Refusal := .next (s.encoreEndNow err.toNat)

/-- FULL_PROOF_DONE (R314). -/
def execFullProofDone (k : Fin 5) (caught : BitVec 12) (lane : BitVec 5) (bitPos : BitVec 6) 
    (s : State) : Host.Outcome State Fault Refusal :=
  .next (s.fullProof k.val caught.toNat lane.toNat bitPos.toNat)

/-- PERIODIC_PROOF (R316). -/
def execPeriodicProof (k : Fin 5) (caught : Bool) (s : State) : Host.Outcome State Fault Refusal :=
  .next (s.periodicProof k.val caught)

/-- COMPARATOR_SUBSTITUTION (R607). -/
def execComparatorSubstitution (q : BitVec 2) (s : State) : Host.Outcome State Fault Refusal :=
  .next (s.comparatorSubst q.toNat)

/-- REP_MODE_WRITE (R310). -/
def execRepModeWrite (m : Master) (spair vpair : Bool) (s : State) : Host.Outcome State Fault Refusal :=
  .next (s.write m rRepMode (BitVec.ofNat 64 (spair.toNat + 2 * vpair.toNat)))

/-- ENGINE_PAIRING_CHANGE (R312). -/
def execEnginePairingChange (e : BitVec 4) (s : State) : Host.Outcome State Fault Refusal :=
  .next (s.enginePairing e.toNat)

/-- FRCLOSE (R305). -/
def execFrclose (m : Master) (f : BitVec 4) (s : State) : Host.Outcome State Fault Refusal :=
  .next (s.write m rRepFrclose (BitVec.ofNat 64 (f.toNat + 16)))

/-- FRAME_CLOSE_DEFERRED (R305). -/
def execFrameCloseDeferred (f : BitVec 4) (s : State) : Host.Outcome State Fault Refusal :=
  .next (s.frameSettle f.toNat)

/-- FRAME_CLEAR_DONE (R309). -/
def execFrameClearDone (f : BitVec 4) (s : State) : Host.Outcome State Fault Refusal :=
  .next (s.frameClearDone f.toNat)

/-- FRAME_ENABLE (R335). -/
def execFrameEnable (m : Master) (f : BitVec 4) (v : Word) (s : State) : Host.Outcome State Fault Refusal :=
  .next (s.write m (rRepFrcfg f.toNat) (v.setBit 34 true))

end Sys2Proof.Machine
end

