-- ==== Sys2Proof/Machine/CmdFloat.lean ====
section
/-!
DEFINITION. The floating, decimal and vector instructions of a caller (R395 to R410).
-/
namespace Sys2Proof.Machine

/-- FADD (R396). -/
def execFadd (c : BitVec 3) (d s1 s2 : BitVec 5) (rnd ty : BitVec 3) (s : State) : Host.Outcome State Fault Refusal :=
  .next (s.fpIns c.toNat 0x0 d s1 s2 rnd ty .add false false)

/-- FSUB (R396). -/
def execFsub (c : BitVec 3) (d s1 s2 : BitVec 5) (rnd ty : BitVec 3) (s : State) : Host.Outcome State Fault Refusal :=
  .next (s.fpIns c.toNat 0x1 d s1 s2 rnd ty .sub false false)

/-- FMUL (R396). -/
def execFmul (c : BitVec 3) (d s1 s2 : BitVec 5) (rnd ty : BitVec 3) (s : State) : Host.Outcome State Fault Refusal :=
  .next (s.fpIns c.toNat 0x2 d s1 s2 rnd ty .mul false false)

/-- FDIV (R396). -/
def execFdiv (c : BitVec 3) (d s1 s2 : BitVec 5) (rnd ty : BitVec 3) (s : State) : Host.Outcome State Fault Refusal :=
  .next (s.fpIns c.toNat 0x3 d s1 s2 rnd ty .div false false)

/-- FSQRT (R396). -/
def execFsqrt (c : BitVec 3) (d s1 s2 : BitVec 5) (rnd ty : BitVec 3) 
    (s : State) : Host.Outcome State Fault Refusal :=
  .next (s.fpIns c.toNat 0x4 d s1 s2 rnd ty .sqrt true false)

/-- FMIN (R396). -/
def execFmin (c : BitVec 3) (d s1 s2 : BitVec 5) (rnd ty : BitVec 3) (s : State) : Host.Outcome State Fault Refusal :=
  .next (s.fpIns c.toNat 0x5 d s1 s2 rnd ty .min false false)

/-- FMAX (R396). -/
def execFmax (c : BitVec 3) (d s1 s2 : BitVec 5) (rnd ty : BitVec 3) (s : State) : Host.Outcome State Fault Refusal :=
  .next (s.fpIns c.toNat 0x6 d s1 s2 rnd ty .max false false)

/-- FABS (R396). -/
def execFabs (c : BitVec 3) (d s1 s2 : BitVec 5) (rnd ty : BitVec 3) (s : State) : Host.Outcome State Fault Refusal :=
  .next (s.fpIns c.toNat 0x7 d s1 s2 rnd ty .abs true false)

/-- FNEG (R396). -/
def execFneg (c : BitVec 3) (d s1 s2 : BitVec 5) (rnd ty : BitVec 3) (s : State) : Host.Outcome State Fault Refusal :=
  .next (s.fpIns c.toNat 0x8 d s1 s2 rnd ty .neg true false)

/-- FCPSGN (R396). -/
def execFcpsgn (c : BitVec 3) (d s1 s2 : BitVec 5) (rnd ty : BitVec 3) 
    (s : State) : Host.Outcome State Fault Refusal :=
  .next (s.fpIns c.toNat 0x9 d s1 s2 rnd ty .copysign false false)

/-- FCMPEQ (R396). -/
def execFcmpeq (c : BitVec 3) (d s1 s2 : BitVec 5) (rnd ty : BitVec 3) 
    (s : State) : Host.Outcome State Fault Refusal :=
  .next (s.fpIns c.toNat 0xa d s1 s2 rnd ty (.cmp .eq) false true)

/-- FCMPLT (R396). -/
def execFcmplt (c : BitVec 3) (d s1 s2 : BitVec 5) (rnd ty : BitVec 3) 
    (s : State) : Host.Outcome State Fault Refusal :=
  .next (s.fpIns c.toNat 0xb d s1 s2 rnd ty (.cmp .lt) false true)

/-- FCMPLE (R396). -/
def execFcmple (c : BitVec 3) (d s1 s2 : BitVec 5) (rnd ty : BitVec 3) 
    (s : State) : Host.Outcome State Fault Refusal :=
  .next (s.fpIns c.toNat 0xc d s1 s2 rnd ty (.cmp .le) false true)

/-- FCMPUN (R396). -/
def execFcmpun (c : BitVec 3) (d s1 s2 : BitVec 5) (rnd ty : BitVec 3) 
    (s : State) : Host.Outcome State Fault Refusal :=
  .next (s.fpIns c.toNat 0xd d s1 s2 rnd ty (.cmp .un) false true)

/-- FCLASS (R396). -/
def execFclass (c : BitVec 3) (d s1 s2 : BitVec 5) (rnd ty : BitVec 3) 
    (s : State) : Host.Outcome State Fault Refusal :=
  .next (s.fpIns c.toNat 0xe d s1 s2 rnd ty .cls true true)

/-- FRNDINT (R396). -/
def execFrndint (c : BitVec 3) (d s1 s2 : BitVec 5) (rnd ty : BitVec 3) 
    (s : State) : Host.Outcome State Fault Refusal :=
  .next (s.fpIns c.toNat 0xf d s1 s2 rnd ty .rndint true false)

/-- FQUANT (R396). -/
def execFquant (c : BitVec 3) (d s1 s2 : BitVec 5) (rnd ty : BitVec 3) 
    (s : State) : Host.Outcome State Fault Refusal :=
  .next (s.fpIns c.toNat 0x10 d s1 s2 rnd ty .quantize false false)

/-- FSCALEB (R396). -/
def execFscaleb (c : BitVec 3) (d s1 s2 : BitVec 5) (rnd ty : BitVec 3) 
    (s : State) : Host.Outcome State Fault Refusal :=
  .next (s.fpIns c.toNat 0x11 d s1 s2 rnd ty .scaleb false false)

/-- FLOGB (R396). -/
def execFlogb (c : BitVec 3) (d s1 s2 : BitVec 5) (rnd ty : BitVec 3) 
    (s : State) : Host.Outcome State Fault Refusal :=
  .next (s.fpIns c.toNat 0x12 d s1 s2 rnd ty .logb true false)

/-- FMA (R399). -/
def execFma (c : BitVec 3) (d s1 s2 s3 : BitVec 5) (rnd ty : BitVec 3) 
    (s : State) : Host.Outcome State Fault Refusal :=
  .next (s.fmaIns c.toNat 0x31 d s1 s2 s3 rnd ty .fma)

/-- FMS (R399). -/
def execFms (c : BitVec 3) (d s1 s2 s3 : BitVec 5) (rnd ty : BitVec 3) 
    (s : State) : Host.Outcome State Fault Refusal :=
  .next (s.fmaIns c.toNat 0x32 d s1 s2 s3 rnd ty .fms)

/-- FNMA (R399). -/
def execFnma (c : BitVec 3) (d s1 s2 s3 : BitVec 5) (rnd ty : BitVec 3) 
    (s : State) : Host.Outcome State Fault Refusal :=
  .next (s.fmaIns c.toNat 0x33 d s1 s2 s3 rnd ty .fnma)

/-- CVT (R397). -/
def execCvt (c : BitVec 3) (d s1 : BitVec 5) (sty tty : BitVec 4) (rnd : BitVec 3) 
    (s : State) : Host.Outcome State Fault Refusal :=
  .next (s.cvtIns c.toNat d s1 sty tty rnd false)

/-- CVTSAT (R397). -/
def execCvtsat (c : BitVec 3) (d s1 : BitVec 5) (sty tty : BitVec 4) (rnd : BitVec 3) 
    (s : State) : Host.Outcome State Fault Refusal :=
  .next (s.cvtIns c.toNat d s1 sty tty rnd true)

/-- VADD (R407). -/
def execVadd (c : BitVec 3) (vd vs1 vs2 : BitVec 5) (masked scalar : Bool) 
    (s : State) : Host.Outcome State Fault Refusal :=
  .next (s.vecOp c.toNat 0x0 vd vs1 vs2 masked scalar .add false)

/-- VSUB (R407). -/
def execVsub (c : BitVec 3) (vd vs1 vs2 : BitVec 5) (masked scalar : Bool) 
    (s : State) : Host.Outcome State Fault Refusal :=
  .next (s.vecOp c.toNat 0x1 vd vs1 vs2 masked scalar .sub false)

/-- VMUL (R407). -/
def execVmul (c : BitVec 3) (vd vs1 vs2 : BitVec 5) (masked scalar : Bool) 
    (s : State) : Host.Outcome State Fault Refusal :=
  .next (s.vecOp c.toNat 0x2 vd vs1 vs2 masked scalar .mul false)

/-- VMULH (R407). -/
def execVmulh (c : BitVec 3) (vd vs1 vs2 : BitVec 5) (masked scalar : Bool) 
    (s : State) : Host.Outcome State Fault Refusal :=
  .next (s.vecOp c.toNat 0x3 vd vs1 vs2 masked scalar .mulhi false)

/-- VDIV (R407). -/
def execVdiv (c : BitVec 3) (vd vs1 vs2 : BitVec 5) (masked scalar : Bool) 
    (s : State) : Host.Outcome State Fault Refusal :=
  .next (s.vecOp c.toNat 0x4 vd vs1 vs2 masked scalar .div false)

/-- VSQRT (R407). -/
def execVsqrt (c : BitVec 3) (vd vs1 vs2 : BitVec 5) (masked scalar : Bool) 
    (s : State) : Host.Outcome State Fault Refusal :=
  .next (s.vecOp c.toNat 0x5 vd vs1 vs2 masked scalar .sqrt true)

/-- VMIN (R407). -/
def execVmin (c : BitVec 3) (vd vs1 vs2 : BitVec 5) (masked scalar : Bool) 
    (s : State) : Host.Outcome State Fault Refusal :=
  .next (s.vecOp c.toNat 0x6 vd vs1 vs2 masked scalar .min false)

/-- VMAX (R407). -/
def execVmax (c : BitVec 3) (vd vs1 vs2 : BitVec 5) (masked scalar : Bool) 
    (s : State) : Host.Outcome State Fault Refusal :=
  .next (s.vecOp c.toNat 0x7 vd vs1 vs2 masked scalar .max false)

/-- VAND (R407). -/
def execVand (c : BitVec 3) (vd vs1 vs2 : BitVec 5) (masked scalar : Bool) 
    (s : State) : Host.Outcome State Fault Refusal :=
  .next (s.vecOp c.toNat 0x8 vd vs1 vs2 masked scalar .and false)

/-- VOR (R407). -/
def execVor (c : BitVec 3) (vd vs1 vs2 : BitVec 5) (masked scalar : Bool) 
    (s : State) : Host.Outcome State Fault Refusal :=
  .next (s.vecOp c.toNat 0x9 vd vs1 vs2 masked scalar .or false)

/-- VXOR (R407). -/
def execVxor (c : BitVec 3) (vd vs1 vs2 : BitVec 5) (masked scalar : Bool) 
    (s : State) : Host.Outcome State Fault Refusal :=
  .next (s.vecOp c.toNat 0xa vd vs1 vs2 masked scalar .xor false)

/-- VSHL (R407). -/
def execVshl (c : BitVec 3) (vd vs1 vs2 : BitVec 5) (masked scalar : Bool) 
    (s : State) : Host.Outcome State Fault Refusal :=
  .next (s.vecOp c.toNat 0xb vd vs1 vs2 masked scalar .shl false)

/-- VSHR (R407). -/
def execVshr (c : BitVec 3) (vd vs1 vs2 : BitVec 5) (masked scalar : Bool) 
    (s : State) : Host.Outcome State Fault Refusal :=
  .next (s.vecOp c.toNat 0xc vd vs1 vs2 masked scalar .shr false)

/-- VSAR (R407). -/
def execVsar (c : BitVec 3) (vd vs1 vs2 : BitVec 5) (masked scalar : Bool) 
    (s : State) : Host.Outcome State Fault Refusal :=
  .next (s.vecOp c.toNat 0xd vd vs1 vs2 masked scalar .sar false)

/-- VSEL (R407). -/
def execVsel (c : BitVec 3) (vd vs1 vs2 : BitVec 5) (masked scalar : Bool) 
    (s : State) : Host.Outcome State Fault Refusal :=
  .next (s.vecSel c.toNat 0xe vd vs1 vs2 masked scalar)

/-- VCMPEQ (R407). -/
def execVcmpeq (c : BitVec 3) (vd vs1 vs2 : BitVec 5) (masked scalar : Bool) 
    (s : State) : Host.Outcome State Fault Refusal :=
  .next (s.vecCmp c.toNat 0xf vd vs1 vs2 masked scalar .eq)

/-- VCMPNE (R407). -/
def execVcmpne (c : BitVec 3) (vd vs1 vs2 : BitVec 5) (masked scalar : Bool) 
    (s : State) : Host.Outcome State Fault Refusal :=
  .next (s.vecCmp c.toNat 0x10 vd vs1 vs2 masked scalar .ne)

/-- VCMPLT (R407). -/
def execVcmplt (c : BitVec 3) (vd vs1 vs2 : BitVec 5) (masked scalar : Bool) 
    (s : State) : Host.Outcome State Fault Refusal :=
  .next (s.vecCmp c.toNat 0x11 vd vs1 vs2 masked scalar .lt)

/-- VCMPLE (R407). -/
def execVcmple (c : BitVec 3) (vd vs1 vs2 : BitVec 5) (masked scalar : Bool) 
    (s : State) : Host.Outcome State Fault Refusal :=
  .next (s.vecCmp c.toNat 0x12 vd vs1 vs2 masked scalar .le)

/-- VFMA (R407). -/
def execVfma (c : BitVec 3) (vd vs1 vs2 : BitVec 5) (masked scalar : Bool) 
    (s : State) : Host.Outcome State Fault Refusal :=
  .next (s.vecOp c.toNat 0x13 vd vs1 vs2 masked scalar .fma false)

/-- VFMS (R407). -/
def execVfms (c : BitVec 3) (vd vs1 vs2 : BitVec 5) (masked scalar : Bool) 
    (s : State) : Host.Outcome State Fault Refusal :=
  .next (s.vecOp c.toNat 0x14 vd vs1 vs2 masked scalar .fms false)

/-- VREDSUM (R407). -/
def execVredsum (c : BitVec 3) (vd vs1 vs2 : BitVec 5) (masked scalar : Bool) 
    (s : State) : Host.Outcome State Fault Refusal :=
  .next (s.vecRed c.toNat 0x15 vd vs1 vs2 masked scalar .sum)

/-- VREDMIN (R407). -/
def execVredmin (c : BitVec 3) (vd vs1 vs2 : BitVec 5) (masked scalar : Bool) 
    (s : State) : Host.Outcome State Fault Refusal :=
  .next (s.vecRed c.toNat 0x16 vd vs1 vs2 masked scalar .minr)

/-- VREDMAX (R407). -/
def execVredmax (c : BitVec 3) (vd vs1 vs2 : BitVec 5) (masked scalar : Bool) 
    (s : State) : Host.Outcome State Fault Refusal :=
  .next (s.vecRed c.toNat 0x17 vd vs1 vs2 masked scalar .maxr)

/-- VMVX (R407). -/
def execVmvx (c : BitVec 3) (vd vs1 vs2 : BitVec 5) (masked scalar : Bool) 
    (s : State) : Host.Outcome State Fault Refusal :=
  .next (s.vecMvx c.toNat 0x18 vd vs1 vs2 masked scalar)

/-- SETVL (R405). -/
def execSetvl (c : BitVec 3) (d s1 : BitVec 5) (imm : BitVec 16) (s : State) : Host.Outcome State Fault Refusal :=
  .next (s.setvlIns c.toNat d s1 imm)

/-- VLD (R410). -/
def execVld (c : BitVec 3) (d s1 : BitVec 5) (imm : BitVec 16) (s : State) : Host.Outcome State Fault Refusal :=
  .next (s.vldIns c.toNat d s1 imm)

/-- VST (R410). -/
def execVst (c : BitVec 3) (d s1 : BitVec 5) (imm : BitVec 16) (s : State) : Host.Outcome State Fault Refusal :=
  .next (s.vstIns c.toNat d s1 imm)

end Sys2Proof.Machine
end

