-- ==== Sys2Proof/Machine/CmdHost.lean ====
section
/-!
DEFINITION. The commands of the host interface (14).
-/
namespace Sys2Proof.Machine

/-- The reader whose read of the host reaches the completion timeout (R571). -/
def State.hostTimeout (s : State) : HostReader → State
  | .caller c => s.loadTimeout c.toNat
  | .engine e w => s.engTimeout (qOf e.toNat w)
  | .desc f n i => s.descTimeout f.idx n.toNat i.toNat

/-- SQ_TAIL_DOORBELL (R573). -/
def execSqTailDoorbell (f : World) (n : BitVec 6) (t : BitVec 16) (s : State) : Host.Outcome State Fault Refusal :=
  .next (s.sqDoorbell f.idx n.toNat t.toNat)

/-- CQ_HEAD_DOORBELL (R586). -/
def execCqHeadDoorbell (f : World) (n : BitVec 6) (h : BitVec 16) (s : State) : Host.Outcome State Fault Refusal :=
  .next (s.cqDoorbell f.idx n.toNat h.toNat)

/-- DESCRIPTOR_FETCH (R574). -/
def execDescriptorFetch (f : World) (n : BitVec 6) (s : State) : Host.Outcome State Fault Refusal :=
  .next (s.descFetch f.idx n.toNat)

/-- RUN (R577). -/
def execRunDesc (f : World) (n : BitVec 6) (i : BitVec 3) (s : State) : Host.Outcome State Fault Refusal :=
  .next (s.runDesc f.idx n.toNat i.toNat)

/-- COPY_HOST_TO_DEVICE (R578). -/
def execCopyHostToDevice (f : World) (n : BitVec 6) (i : BitVec 3) (k : Nat) 
    (s : State) : Host.Outcome State Fault Refusal :=
  .next (s.copyIn f.idx n.toNat i.toNat k)

/-- COPY_DEVICE_TO_HOST (R578). -/
def execCopyDeviceToHost (f : World) (n : BitVec 6) (i : BitVec 3) (k : Nat) 
    (s : State) : Host.Outcome State Fault Refusal :=
  .next (s.copyOut f.idx n.toNat i.toNat k)

/-- COPY_TO_RELAY (R579). -/
def execCopyToRelay (f : World) (n : BitVec 6) (i : BitVec 3) (k : Nat) 
    (s : State) : Host.Outcome State Fault Refusal :=
  .next (s.copyToRelay f.idx n.toNat i.toNat k)

/-- COPY_TO_FRAME (R580). -/
def execCopyToFrame (f : World) (n : BitVec 6) (i : BitVec 3) (s : State) : Host.Outcome State Fault Refusal :=
  .next (s.copyToFrame f.idx n.toNat i.toNat)

/-- ARCHIVE_READ (R581). -/
def execArchiveRead (f : World) (n : BitVec 6) (i : BitVec 3) (k : Nat) 
    (s : State) : Host.Outcome State Fault Refusal :=
  .next (s.archiveDesc f.idx n.toNat i.toNat k)

/-- CONFIG_STAGE (R582). -/
def execConfigStage (f : World) (n : BitVec 6) (i : BitVec 3) (s : State) : Host.Outcome State Fault Refusal :=
  .next (s.configStage f.idx n.toNat i.toNat)

/-- NOTE (R583). -/
def execNoteDesc (f : World) (n : BitVec 6) (i : BitVec 3) (s : State) : Host.Outcome State Fault Refusal :=
  .next (s.noteDesc f.idx n.toNat i.toNat)

/-- COMPLETION_WRITE (R585). -/
def execCompletionWrite (f : World) (n : BitVec 6) (s : State) : Host.Outcome State Fault Refusal :=
  .next (s.cqWrite f.idx n.toNat)

/-- COALESCE_TIMER (R587). -/
def execCoalesceTimer (f : World) (n : BitVec 6) (s : State) : Host.Outcome State Fault Refusal :=
  .next (s.coalesce f.idx n.toNat)

/-- RING_ENABLE (R572). -/
def execRingEnable (m : Master) (f : World) (cq : Bool) (n : BitVec 6) (v : Word) 
    (s : State) : Host.Outcome State Fault Refusal :=
  .next (s.write m (if cq then rHstCqctl f.idx n.toNat else rHstSqctl f.idx n.toNat) (v.setBit 0 true))

/-- RING_DISABLE (R588). -/
def execRingDisable (m : Master) (f : World) (cq : Bool) (n : BitVec 6) (v : Word) 
    (s : State) : Host.Outcome State Fault Refusal :=
  .next (s.write m (if cq then rHstCqctl f.idx n.toNat else rHstSqctl f.idx n.toNat) (v.setBit 0 false))

/-- FUNCTION_LEVEL_RESET (R589). -/
def execFunctionLevelReset (f : World) (s : State) : Host.Outcome State Fault Refusal := .next (s.flr f.idx)

/-- PCIE_LINK_DOWN (R589). -/
def execPcieLinkDown (s : State) : Host.Outcome State Fault Refusal := .next s.hostDown

/-- PCIE_PERST_N_FALL (R661): it acts as link-down. -/
def execPciePerstNFall (s : State) : Host.Outcome State Fault Refusal := .next s.hostDown

/-- PCIE_LINK_UP (R589). -/
def execPcieLinkUp (gen : BitVec 3) (width : BitVec 5) (bme : BitVec 2) 
    (s : State) : Host.Outcome State Fault Refusal :=
  .next (s.hostLinkUp gen.toNat width.toNat bme.toNat)

/-- COMPLETION_TIMEOUT (R571). -/
def execCompletionTimeout (who : HostReader) (s : State) : Host.Outcome State Fault Refusal :=
  .next (s.hostTimeout who)

/-- BAR4_ACCESS (R569). -/
def execBar4Access (f : World) (off : BitVec 24) (size : Nat) (wr : Option Word) 
    (s : State) : Host.Outcome State Fault Refusal :=
  .next (s.bar4 f.idx off.toNat size wr)

end Sys2Proof.Machine
end

