-- ==== Sys2Proof/Machine/CmdInteger.lean ====
section
/-!
DEFINITION. The integer instructions, loads and stores of a caller (R399).
-/
namespace Sys2Proof.Machine

/-- ADD (R399). -/
def execAdd (c : BitVec 3) (d s1 s2 : BitVec 5) (s : State) : Host.Outcome State Fault Refusal :=
  .next (s.alu2 c.toNat (wordA 0x01 d s1 s2 0x0) d s1 s2 fun a b => a + b)

/-- SUB (R399). -/
def execSub (c : BitVec 3) (d s1 s2 : BitVec 5) (s : State) : Host.Outcome State Fault Refusal :=
  .next (s.alu2 c.toNat (wordA 0x01 d s1 s2 0x1) d s1 s2 fun a b => a - b)

/-- AND (R399). -/
def execAnd (c : BitVec 3) (d s1 s2 : BitVec 5) (s : State) : Host.Outcome State Fault Refusal :=
  .next (s.alu2 c.toNat (wordA 0x01 d s1 s2 0x2) d s1 s2 fun a b => a &&& b)

/-- OR (R399). -/
def execOr (c : BitVec 3) (d s1 s2 : BitVec 5) (s : State) : Host.Outcome State Fault Refusal :=
  .next (s.alu2 c.toNat (wordA 0x01 d s1 s2 0x3) d s1 s2 fun a b => a ||| b)

/-- XOR (R399). -/
def execXor (c : BitVec 3) (d s1 s2 : BitVec 5) (s : State) : Host.Outcome State Fault Refusal :=
  .next (s.alu2 c.toNat (wordA 0x01 d s1 s2 0x4) d s1 s2 fun a b => a ^^^ b)

/-- ANDN (R399). -/
def execAndn (c : BitVec 3) (d s1 s2 : BitVec 5) (s : State) : Host.Outcome State Fault Refusal :=
  .next (s.alu2 c.toNat (wordA 0x01 d s1 s2 0x5) d s1 s2 fun a b => a &&& ~~~b)

/-- SHL (R399). -/
def execShl (c : BitVec 3) (d s1 s2 : BitVec 5) (s : State) : Host.Outcome State Fault Refusal :=
  .next (s.alu2 c.toNat (wordA 0x01 d s1 s2 0x6) d s1 s2 fun a b => shiftL a (b.toNat % 64))

/-- SHR (R399). -/
def execShr (c : BitVec 3) (d s1 s2 : BitVec 5) (s : State) : Host.Outcome State Fault Refusal :=
  .next (s.alu2 c.toNat (wordA 0x01 d s1 s2 0x7) d s1 s2 fun a b => shiftR a (b.toNat % 64))

/-- SAR (R399). -/
def execSar (c : BitVec 3) (d s1 s2 : BitVec 5) (s : State) : Host.Outcome State Fault Refusal :=
  .next (s.alu2 c.toNat (wordA 0x01 d s1 s2 0x8) d s1 s2 fun a b => shiftA a (b.toNat % 64))

/-- ROTL (R399). -/
def execRotl (c : BitVec 3) (d s1 s2 : BitVec 5) (s : State) : Host.Outcome State Fault Refusal :=
  .next (s.alu2 c.toNat (wordA 0x01 d s1 s2 0x9) d s1 s2 fun a b => rotL a (b.toNat % 64))

/-- SLT (R399). -/
def execSlt (c : BitVec 3) (d s1 s2 : BitVec 5) (s : State) : Host.Outcome State Fault Refusal :=
  .next (s.alu2 c.toNat (wordA 0x01 d s1 s2 0xa) d s1 s2 fun a b => truth (a.slt b))

/-- SLTU (R399). -/
def execSltu (c : BitVec 3) (d s1 s2 : BitVec 5) (s : State) : Host.Outcome State Fault Refusal :=
  .next (s.alu2 c.toNat (wordA 0x01 d s1 s2 0xb) d s1 s2 fun a b => truth (a.ult b))

/-- MIN (R399). -/
def execMin (c : BitVec 3) (d s1 s2 : BitVec 5) (s : State) : Host.Outcome State Fault Refusal :=
  .next (s.alu2 c.toNat (wordA 0x01 d s1 s2 0xc) d s1 s2 fun a b => if a.slt b then a else b)

/-- MAX (R399). -/
def execMax (c : BitVec 3) (d s1 s2 : BitVec 5) (s : State) : Host.Outcome State Fault Refusal :=
  .next (s.alu2 c.toNat (wordA 0x01 d s1 s2 0xd) d s1 s2 fun a b => if a.slt b then b else a)

/-- MINU (R399). -/
def execMinu (c : BitVec 3) (d s1 s2 : BitVec 5) (s : State) : Host.Outcome State Fault Refusal :=
  .next (s.alu2 c.toNat (wordA 0x01 d s1 s2 0xe) d s1 s2 fun a b => if a.ult b then a else b)

/-- MAXU (R399). -/
def execMaxu (c : BitVec 3) (d s1 s2 : BitVec 5) (s : State) : Host.Outcome State Fault Refusal :=
  .next (s.alu2 c.toNat (wordA 0x01 d s1 s2 0xf) d s1 s2 fun a b => if a.ult b then b else a)

/-- ADDSAT (R399). -/
def execAddsat (c : BitVec 3) (d s1 s2 : BitVec 5) (s : State) : Host.Outcome State Fault Refusal :=
  .next (s.aluFlag c.toNat (wordA 0x01 d s1 s2 0x10) d s1 s2 fun a b => satInt int64 (int64.toInt a + int64.toInt b))

/-- SUBSAT (R399). -/
def execSubsat (c : BitVec 3) (d s1 s2 : BitVec 5) (s : State) : Host.Outcome State Fault Refusal :=
  .next (s.aluFlag c.toNat (wordA 0x01 d s1 s2 0x11) d s1 s2 fun a b => satInt int64 (int64.toInt a - int64.toInt b))

/-- CLZ (R399). -/
def execClz (c : BitVec 3) (d s1 s2 : BitVec 5) (s : State) : Host.Outcome State Fault Refusal :=
  .next (s.alu1 c.toNat (wordA 0x01 d s1 s2 0x12) d s1 fun a => BitVec.ofNat 64 (clzNat 64 a.toNat))

/-- POPCNT (R399). -/
def execPopcnt (c : BitVec 3) (d s1 s2 : BitVec 5) (s : State) : Host.Outcome State Fault Refusal :=
  .next (s.alu1 c.toNat (wordA 0x01 d s1 s2 0x13) d s1 fun a => BitVec.ofNat 64 (popNat 64 a.toNat))

/-- ADDI (R399). -/
def execAddi (c : BitVec 3) (d s1 : BitVec 5) (imm : BitVec 16) (s : State) : Host.Outcome State Fault Refusal :=
  .next (s.alu1 c.toNat (wordI 0x02 d s1 imm) d s1 fun a => a + sImm imm)

/-- ANDI (R399). -/
def execAndi (c : BitVec 3) (d s1 : BitVec 5) (imm : BitVec 16) (s : State) : Host.Outcome State Fault Refusal :=
  .next (s.alu1 c.toNat (wordI 0x03 d s1 imm) d s1 fun a => a &&& zImm imm)

/-- ORI (R399). -/
def execOri (c : BitVec 3) (d s1 : BitVec 5) (imm : BitVec 16) (s : State) : Host.Outcome State Fault Refusal :=
  .next (s.alu1 c.toNat (wordI 0x04 d s1 imm) d s1 fun a => a ||| zImm imm)

/-- XORI (R399). -/
def execXori (c : BitVec 3) (d s1 : BitVec 5) (imm : BitVec 16) (s : State) : Host.Outcome State Fault Refusal :=
  .next (s.alu1 c.toNat (wordI 0x05 d s1 imm) d s1 fun a => a ^^^ zImm imm)

/-- SLTI (R399). -/
def execSlti (c : BitVec 3) (d s1 : BitVec 5) (imm : BitVec 16) (s : State) : Host.Outcome State Fault Refusal :=
  .next (s.alu1 c.toNat (wordI 0x06 d s1 imm) d s1 fun a => truth (a.slt (sImm imm)))

/-- SLTIU (R399). -/
def execSltiu (c : BitVec 3) (d s1 : BitVec 5) (imm : BitVec 16) (s : State) : Host.Outcome State Fault Refusal :=
  .next (s.alu1 c.toNat (wordI 0x07 d s1 imm) d s1 fun a => truth (a.ult (sImm imm)))

/-- SHIFTI_SHL (R399). -/
def execShiftiShl (c : BitVec 3) (d s1 : BitVec 5) (count : BitVec 6) 
    (s : State) : Host.Outcome State Fault Refusal :=
  .next (s.alu1 c.toNat (wordI 0x08 d s1 (BitVec.ofNat 16 (0 + count.toNat))) d s1 fun a => shiftL a count.toNat)

/-- SHIFTI_SHR (R399). -/
def execShiftiShr (c : BitVec 3) (d s1 : BitVec 5) (count : BitVec 6) 
    (s : State) : Host.Outcome State Fault Refusal :=
  .next (s.alu1 c.toNat (wordI 0x08 d s1 (BitVec.ofNat 16 (64 + count.toNat))) d s1 fun a => shiftR a count.toNat)

/-- SHIFTI_SAR (R399). -/
def execShiftiSar (c : BitVec 3) (d s1 : BitVec 5) (count : BitVec 6) 
    (s : State) : Host.Outcome State Fault Refusal :=
  .next (s.alu1 c.toNat (wordI 0x08 d s1 (BitVec.ofNat 16 (128 + count.toNat))) d s1 fun a => shiftA a count.toNat)

/-- SHIFTI_ROTL (R399). -/
def execShiftiRotl (c : BitVec 3) (d s1 : BitVec 5) (count : BitVec 6) 
    (s : State) : Host.Outcome State Fault Refusal :=
  .next (s.alu1 c.toNat (wordI 0x08 d s1 (BitVec.ofNat 16 (192 + count.toNat))) d s1 fun a => rotL a count.toNat)

/-- LIH (R399). -/
def execLih (c : BitVec 3) (d s1 : BitVec 5) (imm : BitVec 16) (s : State) : Host.Outcome State Fault Refusal :=
  .next (s.alu1 c.toNat (wordI 0x09 d s1 imm) d 0 fun _ => sImm imm <<< 16)

/-- SHORI (R399). -/
def execShori (c : BitVec 3) (d s1 : BitVec 5) (imm : BitVec 16) (s : State) : Host.Outcome State Fault Refusal :=
  .next (s.alu1 c.toNat (wordI 0x0A d s1 imm) d s1 fun a => (a <<< 16) ||| zImm imm)

/-- MUL (R399). -/
def execMul (c : BitVec 3) (d s1 s2 : BitVec 5) (s : State) : Host.Outcome State Fault Refusal :=
  .next (s.alu2 c.toNat (wordA 0x0C d s1 s2 0x0) d s1 s2 fun a b => a * b)

/-- MULH (R399). -/
def execMulh (c : BitVec 3) (d s1 s2 : BitVec 5) (s : State) : Host.Outcome State Fault Refusal :=
  .next (s.alu2 c.toNat (wordA 0x0C d s1 s2 0x1) d s1 s2 fun a b => BitVec.ofNat 64 (wideMul int64 a.toNat b.toNat).2)

/-- MULHU (R399). -/
def execMulhu (c : BitVec 3) (d s1 s2 : BitVec 5) (s : State) : Host.Outcome State Fault Refusal :=
  .next (s.alu2 c.toNat (wordA 0x0C d s1 s2 0x2) d s1 s2 fun a b => BitVec.ofNat 64 (wideMul uint64 a.toNat b.toNat).2)

/-- MULSAT (R399). -/
def execMulsat (c : BitVec 3) (d s1 s2 : BitVec 5) (s : State) : Host.Outcome State Fault Refusal :=
  .next (s.aluFlag c.toNat (wordA 0x0C d s1 s2 0x3) d s1 s2 fun a b => satInt int64 (int64.toInt a * int64.toInt b))

/-- DIV (R399). -/
def execDiv (c : BitVec 3) (d s1 s2 : BitVec 5) (s : State) : Host.Outcome State Fault Refusal :=
  .next (s.divIns c.toNat (wordA 0x0D d s1 s2 0) d s1 s2 fun a b => intDiv int64 a b)

/-- DIVU (R399). -/
def execDivu (c : BitVec 3) (d s1 s2 : BitVec 5) (s : State) : Host.Outcome State Fault Refusal :=
  .next (s.divIns c.toNat (wordA 0x0D d s1 s2 1) d s1 s2 fun a b => intDiv uint64 a b)

/-- REM (R399). -/
def execRem (c : BitVec 3) (d s1 s2 : BitVec 5) (s : State) : Host.Outcome State Fault Refusal :=
  .next (s.divIns c.toNat (wordA 0x0D d s1 s2 2) d s1 s2 fun a b => intRem int64 a b)

/-- REMU (R399). -/
def execRemu (c : BitVec 3) (d s1 s2 : BitVec 5) (s : State) : Host.Outcome State Fault Refusal :=
  .next (s.divIns c.toNat (wordA 0x0D d s1 s2 3) d s1 s2 fun a b => intRem uint64 a b)

/-- LDB (R421). -/
def execLdb (c : BitVec 3) (d s1 : BitVec 5) (imm : BitVec 16) (s : State) : Host.Outcome State Fault Refusal :=
  .next (s.loadIns c.toNat (wordI 0x10 d s1 imm) d s1 imm 1 true)

/-- LDBU (R421). -/
def execLdbu (c : BitVec 3) (d s1 : BitVec 5) (imm : BitVec 16) (s : State) : Host.Outcome State Fault Refusal :=
  .next (s.loadIns c.toNat (wordI 0x11 d s1 imm) d s1 imm 1 false)

/-- LDH (R421). -/
def execLdh (c : BitVec 3) (d s1 : BitVec 5) (imm : BitVec 16) (s : State) : Host.Outcome State Fault Refusal :=
  .next (s.loadIns c.toNat (wordI 0x12 d s1 imm) d s1 imm 2 true)

/-- LDHU (R421). -/
def execLdhu (c : BitVec 3) (d s1 : BitVec 5) (imm : BitVec 16) (s : State) : Host.Outcome State Fault Refusal :=
  .next (s.loadIns c.toNat (wordI 0x13 d s1 imm) d s1 imm 2 false)

/-- LDW (R421). -/
def execLdw (c : BitVec 3) (d s1 : BitVec 5) (imm : BitVec 16) (s : State) : Host.Outcome State Fault Refusal :=
  .next (s.loadIns c.toNat (wordI 0x14 d s1 imm) d s1 imm 4 true)

/-- LDWU (R421). -/
def execLdwu (c : BitVec 3) (d s1 : BitVec 5) (imm : BitVec 16) (s : State) : Host.Outcome State Fault Refusal :=
  .next (s.loadIns c.toNat (wordI 0x15 d s1 imm) d s1 imm 4 false)

/-- LDD (R421). -/
def execLdd (c : BitVec 3) (d s1 : BitVec 5) (imm : BitVec 16) (s : State) : Host.Outcome State Fault Refusal :=
  .next (s.loadIns c.toNat (wordI 0x16 d s1 imm) d s1 imm 8 false)

/-- STB (R420). -/
def execStb (c : BitVec 3) (d s1 : BitVec 5) (imm : BitVec 16) (s : State) : Host.Outcome State Fault Refusal :=
  .next (s.storeIns c.toNat (wordI 0x18 d s1 imm) d s1 imm 1)

/-- STH (R420). -/
def execSth (c : BitVec 3) (d s1 : BitVec 5) (imm : BitVec 16) (s : State) : Host.Outcome State Fault Refusal :=
  .next (s.storeIns c.toNat (wordI 0x19 d s1 imm) d s1 imm 2)

/-- STW (R420). -/
def execStw (c : BitVec 3) (d s1 : BitVec 5) (imm : BitVec 16) (s : State) : Host.Outcome State Fault Refusal :=
  .next (s.storeIns c.toNat (wordI 0x1a d s1 imm) d s1 imm 4)

/-- STD (R420). -/
def execStd (c : BitVec 3) (d s1 : BitVec 5) (imm : BitVec 16) (s : State) : Host.Outcome State Fault Refusal :=
  .next (s.storeIns c.toNat (wordI 0x1b d s1 imm) d s1 imm 8)

end Sys2Proof.Machine
end

