-- ==== Sys2Proof/Machine/CmdLink.lean ====
section
/-!
DEFINITION. The commands of the links and of the seal units (13).
-/
namespace Sys2Proof.Machine

/-- LINK_UP (R536). -/
def execLinkUp (p : BitVec 2) (speed fec : BitVec 2) (s : State) : Host.Outcome State Fault Refusal :=
  .next (s.linkUp p.toNat speed.toNat fec.toNat)

/-- LINKDOWN (R536). -/
def execLinkDown (p : BitVec 2) (s : State) : Host.Outcome State Fault Refusal := .next (s.linkDown p.toNat)

/-- FRAME_RECEIVE (R536). -/
def execFrameReceive (p : BitVec 2) (frame : List Byte) (fcsOk cut : Bool) (sec : Option SecTag) 
    (s : State) : Host.Outcome State Fault Refusal :=
  .next (s.frameReceive p.toNat frame fcsOk cut sec)

/-- ASKUST_RECEIVE (R544). -/
def execAskustReceive (p : BitVec 2) (rtag : Option (BitVec 16)) (tel : List Byte) 
    (s : State) : Host.Outcome State Fault Refusal :=
  .next (s.askust p.toNat (rtag.map (·.toNat)) tel)

/-- TELEGRAM_DELIVERY (R545). -/
def execTelegramDelivery (p : BitVec 2) (s : State) : Host.Outcome State Fault Refusal :=
  .next (s.delivery p.toNat)

/-- SYNC (R537). -/
def execGptpSync (p : BitVec 2) (sync : SyncMsg) (offset : BitVec 32) (interval : BitVec 32)
    (s : State) : Host.Outcome State Fault Refusal :=
  .next (s.gptpSync p.toNat sync offset.toNat interval.toNat)

/-- ANNOUNCE (R535). -/
def execAnnounce (p : BitVec 2) (msg : AnnounceMsg) (master : Word) (s : State) : Host.Outcome State Fault Refusal :=
  .next (s.announce p.toNat msg master)

/-- PDELAY_RESP (R535). -/
def execPdelayResp (p : BitVec 2) (delay : BitVec 32) (s : State) : Host.Outcome State Fault Refusal :=
  .next (s.pdelay p.toNat delay.toNat)

/-- SYNC_TIMEOUT (R537). -/
def execSyncTimeout (p : BitVec 2) (s : State) : Host.Outcome State Fault Refusal := .next (s.syncTimeout p.toNat)

/-- TXTAIL_WRITE (R541). -/
def execTxtailWrite (m : Master) (p : BitVec 2) (w : World) (tail : BitVec 16) 
    (s : State) : Host.Outcome State Fault Refusal :=
  .next (s.write m (rLnkTxtail p.toNat w.idx) (tail.zeroExtend 64))

/-- TX_DESCRIPTOR (R541). -/
def execTxDescriptor (p : BitVec 2) (w : World) (s : State) : Host.Outcome State Fault Refusal :=
  .next (s.txDescriptor p.toNat w.idx)

/-- GATE_INTERVAL_END (R543). -/
def execGateIntervalEnd (p : BitVec 2) (s : State) : Host.Outcome State Fault Refusal := .next (s.gateEnd p.toNat)

/-- RESYNC (R548). -/
def execResync (m : Master) (n : BitVec 8) (s : State) : Host.Outcome State Fault Refusal :=
  .next (s.write m (rLnkRxsstat n.toNat) (BitVec.ofNat 64 (2 ^ 17)))

/-- KEYDATA_WRITE (R560). -/
def execKeydataWrite (m : Master) (p : BitVec 2) (v : Word) (s : State) : Host.Outcome State Fault Refusal :=
  .next (s.write m (rLnkKeydata p.toNat) v)

/-- KEY_INSTALL (R560): with KEYSEL.WORD = 6. -/
def execKeyInstall (m : Master) (p : BitVec 2) (v : Word) (s : State) : Host.Outcome State Fault Refusal :=
  .next (if s.rf (rLnkKeysel p.toNat) fLnkKeyselWord = 6 then s.write m (rLnkKeydata p.toNat) v else s)

/-- FEEDB (R550). -/
def execFeedb (m : Master) (u : Fin 6) (v : BitVec 8) (s : State) : Host.Outcome State Fault Refusal :=
  .next (s.write m (rSeaFeedb u.val) (v.zeroExtend 64))

/-- FEEDH (R550). -/
def execFeedh (m : Master) (u : Fin 6) (v : BitVec 16) (s : State) : Host.Outcome State Fault Refusal :=
  .next (s.write m (rSeaFeedh u.val) (v.zeroExtend 64))

/-- FEEDW (R550). -/
def execFeedw (m : Master) (u : Fin 6) (v : BitVec 32) (s : State) : Host.Outcome State Fault Refusal :=
  .next (s.write m (rSeaFeedw u.val) (v.zeroExtend 64))

/-- SEA_CLOSE (R552). -/
def execSeaClose (m : Master) (u : Fin 6) (s : State) : Host.Outcome State Fault Refusal :=
  .next (s.write m (rSeaClose u.val) 1)

/-- SCANLEN_WRITE (R550). -/
def execScanlenWrite (m : Master) (u : Fin 6) (len : BitVec 40) (closeAfter : Bool) 
    (s : State) : Host.Outcome State Fault Refusal :=
  .next (s.write m (rSeaScanlen u.val) (BitVec.ofNat 64 (len.toNat + 2 ^ 40 * closeAfter.toNat)))

/-- SCAN_END (R552). -/
def execScanEnd (u : Fin 6) (s : State) : Host.Outcome State Fault Refusal := .next (s.scanEnd u.val)

/-- SEA_CTL_WRITE (R549). -/
def execSeaCtlWrite (m : Master) (u : Fin 6) (v : Word) (s : State) : Host.Outcome State Fault Refusal :=
  .next (s.write m (rSeaCtl u.val) v)

end Sys2Proof.Machine
end

