-- ==== Sys2Proof/Machine/CmdMemory.lean ====
section
/-!
DEFINITION. The commands of the memories and of the matrix (08).
-/
namespace Sys2Proof.Machine

/-- A bank of a pseudo-channel refreshes (R346): the contents stay, and only the time of a request to the bank changes. -/
def State.refreshBank (s : State) (_pc _bank : Nat) : State := s

/-- HBM_TEMP_READ (R345). -/
def execHbmTempRead (k : BitVec 2) (temp : BitVec 9) (valid : Bool) (s : State) : Host.Outcome State Fault Refusal :=
  .next (s.hbmRead k.toNat temp.toNat valid)

/-- HBM_BAND_RETURN (R345). -/
def execHbmBandReturn (k : BitVec 2) (s : State) : Host.Outcome State Fault Refusal := .next (s.bandReturn k.toNat)

/-- HBM_REFRESH (R346). -/
def execHbmRefresh (pc : BitVec 7) (bank : BitVec 8) (s : State) : Host.Outcome State Fault Refusal :=
  .next (s.refreshBank pc.toNat bank.toNat)

/-- HBM_SCRUB (R349). -/
def execHbmScrub (pc : BitVec 7) (granule : BitVec 23) (found : MemErr) 
    (s : State) : Host.Outcome State Fault Refusal :=
  .next (s.hbmScrub pc.toNat granule.toNat found)

/-- HBM_SOFT_REPAIR (R353). -/
def execHbmSoftRepair (k : BitVec 2) (s : State) : Host.Outcome State Fault Refusal := .next (s.softRepair k.toNat)

/-- RETENT_WRITE (R385). -/
def execRetentWrite (m : Master) (k : BitVec 2) (v : Word) (s : State) : Host.Outcome State Fault Refusal :=
  .next (s.write m (rHbcRetent k.toNat) v)

/-- SCP_SCRUB (R358). -/
def execScpScrub (word : BitVec 24) (found : MemErr) (s : State) : Host.Outcome State Fault Refusal :=
  .next (s.scpScrub word.toNat found)

/-- SCP_SWAP (R359). -/
def execScpSwap (m : Master) (bank : BitVec 11) (s : State) : Host.Outcome State Fault Refusal :=
  .next (s.write m rScpSwap (BitVec.ofNat 64 (bank.toNat + 2 ^ 16)))

/-- BANK_SWAP_DONE (R359). -/
def execBankSwapDone (q : BitVec 2) (s : State) : Host.Outcome State Fault Refusal :=
  .next (s.bankSwapDone q.toNat)

/-- ARBITER_GRANT (R372). -/
def execArbiterGrant (cls : BitVec 2) (idx : BitVec 12) (req : BitVec 8) (note : ArbNote) (s : State) :
    Host.Outcome State Fault Refusal :=
  .next (s.arbGrant cls.toNat idx.toNat req.toNat (note.waits.map fun x => (x.1.toNat, x.2)) (note.ce.map BitVec.toNat))

end Sys2Proof.Machine
end

