-- ==== Sys2Proof/Machine/CmdOrder.lean ====
section
/-!
DEFINITION. The work of a running order, one command for each operation of the stream order set (03): up to `k` units of the head
order of a queue, when that order is of this operation.
-/
namespace Sys2Proof.Machine

/-- ADD_ORDER (R109). -/
def execAddOrder (e : BitVec 4) (w : World) (k : Nat) (s : State) : Host.Outcome State Fault Refusal :=
  .next (s.runOrder .add (qOf e.toNat w) k)

/-- SUB_ORDER (R109). -/
def execSubOrder (e : BitVec 4) (w : World) (k : Nat) (s : State) : Host.Outcome State Fault Refusal :=
  .next (s.runOrder .sub (qOf e.toNat w) k)

/-- MUL_ORDER (R109). -/
def execMulOrder (e : BitVec 4) (w : World) (k : Nat) (s : State) : Host.Outcome State Fault Refusal :=
  .next (s.runOrder .mul (qOf e.toNat w) k)

/-- FMA_ORDER (R109). -/
def execFmaOrder (e : BitVec 4) (w : World) (k : Nat) (s : State) : Host.Outcome State Fault Refusal :=
  .next (s.runOrder .fma (qOf e.toNat w) k)

/-- FMS_ORDER (R109). -/
def execFmsOrder (e : BitVec 4) (w : World) (k : Nat) (s : State) : Host.Outcome State Fault Refusal :=
  .next (s.runOrder .fms (qOf e.toNat w) k)

/-- FNMA_ORDER (R109). -/
def execFnmaOrder (e : BitVec 4) (w : World) (k : Nat) (s : State) : Host.Outcome State Fault Refusal :=
  .next (s.runOrder .fnma (qOf e.toNat w) k)

/-- DIV_ORDER (R110). -/
def execDivOrder (e : BitVec 4) (w : World) (k : Nat) (s : State) : Host.Outcome State Fault Refusal :=
  .next (s.runOrder .div (qOf e.toNat w) k)

/-- SQRT (R109). -/
def execSqrtOrder (e : BitVec 4) (w : World) (k : Nat) (s : State) : Host.Outcome State Fault Refusal :=
  .next (s.runOrder .sqrt (qOf e.toNat w) k)

/-- MIN_ORDER (R111). -/
def execMinOrder (e : BitVec 4) (w : World) (k : Nat) (s : State) : Host.Outcome State Fault Refusal :=
  .next (s.runOrder .min (qOf e.toNat w) k)

/-- MAX_ORDER (R111). -/
def execMaxOrder (e : BitVec 4) (w : World) (k : Nat) (s : State) : Host.Outcome State Fault Refusal :=
  .next (s.runOrder .max (qOf e.toNat w) k)

/-- ABS (R110). -/
def execAbsOrder (e : BitVec 4) (w : World) (k : Nat) (s : State) : Host.Outcome State Fault Refusal :=
  .next (s.runOrder .abs (qOf e.toNat w) k)

/-- NEG (R110). -/
def execNegOrder (e : BitVec 4) (w : World) (k : Nat) (s : State) : Host.Outcome State Fault Refusal :=
  .next (s.runOrder .neg (qOf e.toNat w) k)

/-- ADDSAT_ORDER (R109). -/
def execAddsatOrder (e : BitVec 4) (w : World) (k : Nat) (s : State) : Host.Outcome State Fault Refusal :=
  .next (s.runOrder .addsat (qOf e.toNat w) k)

/-- SUBSAT_ORDER (R109). -/
def execSubsatOrder (e : BitVec 4) (w : World) (k : Nat) (s : State) : Host.Outcome State Fault Refusal :=
  .next (s.runOrder .subsat (qOf e.toNat w) k)

/-- MULSAT_ORDER (R109). -/
def execMulsatOrder (e : BitVec 4) (w : World) (k : Nat) (s : State) : Host.Outcome State Fault Refusal :=
  .next (s.runOrder .mulsat (qOf e.toNat w) k)

/-- MULWIDE (R109). -/
def execMulwideOrder (e : BitVec 4) (w : World) (k : Nat) (s : State) : Host.Outcome State Fault Refusal :=
  .next (s.runOrder .mulwide (qOf e.toNat w) k)

/-- MULHI (R109). -/
def execMulhiOrder (e : BitVec 4) (w : World) (k : Nat) (s : State) : Host.Outcome State Fault Refusal :=
  .next (s.runOrder .mulhi (qOf e.toNat w) k)

/-- AND_ORDER (R113). -/
def execAndOrder (e : BitVec 4) (w : World) (k : Nat) (s : State) : Host.Outcome State Fault Refusal :=
  .next (s.runOrder .and (qOf e.toNat w) k)

/-- OR_ORDER (R113). -/
def execOrOrder (e : BitVec 4) (w : World) (k : Nat) (s : State) : Host.Outcome State Fault Refusal :=
  .next (s.runOrder .or (qOf e.toNat w) k)

/-- XOR_ORDER (R113). -/
def execXorOrder (e : BitVec 4) (w : World) (k : Nat) (s : State) : Host.Outcome State Fault Refusal :=
  .next (s.runOrder .xor (qOf e.toNat w) k)

/-- NOT (R113). -/
def execNotOrder (e : BitVec 4) (w : World) (k : Nat) (s : State) : Host.Outcome State Fault Refusal :=
  .next (s.runOrder .not (qOf e.toNat w) k)

/-- ANDNOT (R113). -/
def execAndnotOrder (e : BitVec 4) (w : World) (k : Nat) (s : State) : Host.Outcome State Fault Refusal :=
  .next (s.runOrder .andnot (qOf e.toNat w) k)

/-- SHL_ORDER (R114). -/
def execShlOrder (e : BitVec 4) (w : World) (k : Nat) (s : State) : Host.Outcome State Fault Refusal :=
  .next (s.runOrder .shl (qOf e.toNat w) k)

/-- SHR_ORDER (R114). -/
def execShrOrder (e : BitVec 4) (w : World) (k : Nat) (s : State) : Host.Outcome State Fault Refusal :=
  .next (s.runOrder .shr (qOf e.toNat w) k)

/-- SAR_ORDER (R114). -/
def execSarOrder (e : BitVec 4) (w : World) (k : Nat) (s : State) : Host.Outcome State Fault Refusal :=
  .next (s.runOrder .sar (qOf e.toNat w) k)

/-- ROTL_ORDER (R114). -/
def execRotlOrder (e : BitVec 4) (w : World) (k : Nat) (s : State) : Host.Outcome State Fault Refusal :=
  .next (s.runOrder .rotl (qOf e.toNat w) k)

/-- SELECT (R115). -/
def execSelectOrder (e : BitVec 4) (w : World) (k : Nat) (s : State) : Host.Outcome State Fault Refusal :=
  .next (s.runOrder .select (qOf e.toNat w) k)

/-- CLZ_ORDER (R116). -/
def execClzOrder (e : BitVec 4) (w : World) (k : Nat) (s : State) : Host.Outcome State Fault Refusal :=
  .next (s.runOrder .clz (qOf e.toNat w) k)

/-- POPCNT_ORDER (R116). -/
def execPopcntOrder (e : BitVec 4) (w : World) (k : Nat) (s : State) : Host.Outcome State Fault Refusal :=
  .next (s.runOrder .popcnt (qOf e.toNat w) k)

/-- CVT_ORDER (R117). -/
def execCvtOrder (e : BitVec 4) (w : World) (k : Nat) (s : State) : Host.Outcome State Fault Refusal :=
  .next (s.runOrder .cvt (qOf e.toNat w) k)

/-- RNDINT (R119). -/
def execRndintOrder (e : BitVec 4) (w : World) (k : Nat) (s : State) : Host.Outcome State Fault Refusal :=
  .next (s.runOrder .rndint (qOf e.toNat w) k)

/-- QUANTIZE (R119). -/
def execQuantizeOrder (e : BitVec 4) (w : World) (k : Nat) (s : State) : Host.Outcome State Fault Refusal :=
  .next (s.runOrder .quantize (qOf e.toNat w) k)

/-- CVTSAT_ORDER (R118). -/
def execCvtsatOrder (e : BitVec 4) (w : World) (k : Nat) (s : State) : Host.Outcome State Fault Refusal :=
  .next (s.runOrder .cvtsat (qOf e.toNat w) k)

/-- CMPEQ (R120). -/
def execCmpeqOrder (e : BitVec 4) (w : World) (k : Nat) (s : State) : Host.Outcome State Fault Refusal :=
  .next (s.runOrder (.cmp .eq) (qOf e.toNat w) k)

/-- CMPNE (R120). -/
def execCmpneOrder (e : BitVec 4) (w : World) (k : Nat) (s : State) : Host.Outcome State Fault Refusal :=
  .next (s.runOrder (.cmp .ne) (qOf e.toNat w) k)

/-- CMPLT (R120). -/
def execCmpltOrder (e : BitVec 4) (w : World) (k : Nat) (s : State) : Host.Outcome State Fault Refusal :=
  .next (s.runOrder (.cmp .lt) (qOf e.toNat w) k)

/-- CMPLE (R120). -/
def execCmpleOrder (e : BitVec 4) (w : World) (k : Nat) (s : State) : Host.Outcome State Fault Refusal :=
  .next (s.runOrder (.cmp .le) (qOf e.toNat w) k)

/-- CMPGT (R120). -/
def execCmpgtOrder (e : BitVec 4) (w : World) (k : Nat) (s : State) : Host.Outcome State Fault Refusal :=
  .next (s.runOrder (.cmp .gt) (qOf e.toNat w) k)

/-- CMPGE (R120). -/
def execCmpgeOrder (e : BitVec 4) (w : World) (k : Nat) (s : State) : Host.Outcome State Fault Refusal :=
  .next (s.runOrder (.cmp .ge) (qOf e.toNat w) k)

/-- CMPUN (R120). -/
def execCmpunOrder (e : BitVec 4) (w : World) (k : Nat) (s : State) : Host.Outcome State Fault Refusal :=
  .next (s.runOrder (.cmp .un) (qOf e.toNat w) k)

/-- CMPORD (R120). -/
def execCmpordOrder (e : BitVec 4) (w : World) (k : Nat) (s : State) : Host.Outcome State Fault Refusal :=
  .next (s.runOrder (.cmp .ord) (qOf e.toNat w) k)

/-- SUM (R122). -/
def execSumOrder (e : BitVec 4) (w : World) (k : Nat) (s : State) : Host.Outcome State Fault Refusal :=
  .next (s.runOrder .sum (qOf e.toNat w) k)

/-- MINR (R122). -/
def execMinrOrder (e : BitVec 4) (w : World) (k : Nat) (s : State) : Host.Outcome State Fault Refusal :=
  .next (s.runOrder .minr (qOf e.toNat w) k)

/-- MAXR (R122). -/
def execMaxrOrder (e : BitVec 4) (w : World) (k : Nat) (s : State) : Host.Outcome State Fault Refusal :=
  .next (s.runOrder .maxr (qOf e.toNat w) k)

/-- ANDR (R122). -/
def execAndrOrder (e : BitVec 4) (w : World) (k : Nat) (s : State) : Host.Outcome State Fault Refusal :=
  .next (s.runOrder .andr (qOf e.toNat w) k)

/-- ORR (R122). -/
def execOrrOrder (e : BitVec 4) (w : World) (k : Nat) (s : State) : Host.Outcome State Fault Refusal :=
  .next (s.runOrder .orr (qOf e.toNat w) k)

/-- XORR (R122). -/
def execXorrOrder (e : BitVec 4) (w : World) (k : Nat) (s : State) : Host.Outcome State Fault Refusal :=
  .next (s.runOrder .xorr (qOf e.toNat w) k)

/-- DOT (R122). -/
def execDotOrder (e : BitVec 4) (w : World) (k : Nat) (s : State) : Host.Outcome State Fault Refusal :=
  .next (s.runOrder .dot (qOf e.toNat w) k)

/-- SEGSUM (R125). -/
def execSegsumOrder (e : BitVec 4) (w : World) (k : Nat) (s : State) : Host.Outcome State Fault Refusal :=
  .next (s.runOrder .segsum (qOf e.toNat w) k)

/-- SEGMIN (R125). -/
def execSegminOrder (e : BitVec 4) (w : World) (k : Nat) (s : State) : Host.Outcome State Fault Refusal :=
  .next (s.runOrder .segmin (qOf e.toNat w) k)

/-- SEGMAX (R125). -/
def execSegmaxOrder (e : BitVec 4) (w : World) (k : Nat) (s : State) : Host.Outcome State Fault Refusal :=
  .next (s.runOrder .segmax (qOf e.toNat w) k)

/-- SEGDOT (R125). -/
def execSegdotOrder (e : BitVec 4) (w : World) (k : Nat) (s : State) : Host.Outcome State Fault Refusal :=
  .next (s.runOrder .segdot (qOf e.toNat w) k)

/-- LINREC (R128). -/
def execLinrecOrder (e : BitVec 4) (w : World) (k : Nat) (s : State) : Host.Outcome State Fault Refusal :=
  .next (s.runOrder .linrec (qOf e.toNat w) k)

/-- PSUM (R129). -/
def execPsumOrder (e : BitVec 4) (w : World) (k : Nat) (s : State) : Host.Outcome State Fault Refusal :=
  .next (s.runOrder .psum (qOf e.toNat w) k)

/-- PSUMX (R129). -/
def execPsumxOrder (e : BitVec 4) (w : World) (k : Nat) (s : State) : Host.Outcome State Fault Refusal :=
  .next (s.runOrder .psumx (qOf e.toNat w) k)

/-- SEGPSUM (R130). -/
def execSegpsumOrder (e : BitVec 4) (w : World) (k : Nat) (s : State) : Host.Outcome State Fault Refusal :=
  .next (s.runOrder .segpsum (qOf e.toNat w) k)

/-- COMPRESS (R132). -/
def execCompressOrder (e : BitVec 4) (w : World) (k : Nat) (s : State) : Host.Outcome State Fault Refusal :=
  .next (s.runOrder .compress (qOf e.toNat w) k)

/-- EXPAND (R133). -/
def execExpandOrder (e : BitVec 4) (w : World) (k : Nat) (s : State) : Host.Outcome State Fault Refusal :=
  .next (s.runOrder .expand (qOf e.toNat w) k)

/-- GATHER (R135). -/
def execGatherOrder (e : BitVec 4) (w : World) (k : Nat) (s : State) : Host.Outcome State Fault Refusal :=
  .next (s.runOrder .gather (qOf e.toNat w) k)

/-- SCATTER (R135). -/
def execScatterOrder (e : BitVec 4) (w : World) (k : Nat) (s : State) : Host.Outcome State Fault Refusal :=
  .next (s.runOrder .scatter (qOf e.toNat w) k)

/-- SCATTERADD (R135). -/
def execScatteraddOrder (e : BitVec 4) (w : World) (k : Nat) (s : State) : Host.Outcome State Fault Refusal :=
  .next (s.runOrder .scatteradd (qOf e.toNat w) k)

/-- SPMV (R138). -/
def execSpmvOrder (e : BitVec 4) (w : World) (k : Nat) (s : State) : Host.Outcome State Fault Refusal :=
  .next (s.runOrder .spmv (qOf e.toNat w) k)

/-- COPY (R140). -/
def execCopyOrder (e : BitVec 4) (w : World) (k : Nat) (s : State) : Host.Outcome State Fault Refusal :=
  .next (s.runOrder .copy (qOf e.toNat w) k)

/-- FILL (R140). -/
def execFillOrder (e : BitVec 4) (w : World) (k : Nat) (s : State) : Host.Outcome State Fault Refusal :=
  .next (s.runOrder .fill (qOf e.toNat w) k)

/-- ARCAPPEND (R145). -/
def execArcappendOrder (e : BitVec 4) (w : World) (k : Nat) (s : State) : Host.Outcome State Fault Refusal :=
  .next (s.runOrder .arcappend (qOf e.toNat w) k)

/-- ARCREAD (R146). -/
def execArcreadOrder (e : BitVec 4) (w : World) (k : Nat) (s : State) : Host.Outcome State Fault Refusal :=
  .next (s.runOrder .arcread (qOf e.toNat w) k)

/-- SEALFEED (R147). -/
def execSealfeedOrder (e : BitVec 4) (w : World) (k : Nat) (s : State) : Host.Outcome State Fault Refusal :=
  .next (s.runOrder .sealfeed (qOf e.toNat w) k)

/-- SCENE (R152). -/
def execSceneOrder (e : BitVec 4) (w : World) (k : Nat) (s : State) : Host.Outcome State Fault Refusal :=
  .next (s.runOrder .scene (qOf e.toNat w) k)

/-- SCALEB (R151). -/
def execScalebOrder (e : BitVec 4) (w : World) (k : Nat) (s : State) : Host.Outcome State Fault Refusal :=
  .next (s.runOrder .scaleb (qOf e.toNat w) k)

/-- LOGB (R151). -/
def execLogbOrder (e : BitVec 4) (w : World) (k : Nat) (s : State) : Host.Outcome State Fault Refusal :=
  .next (s.runOrder .logb (qOf e.toNat w) k)

/-- COPYSIGN (R151). -/
def execCopysignOrder (e : BitVec 4) (w : World) (k : Nat) (s : State) : Host.Outcome State Fault Refusal :=
  .next (s.runOrder .copysign (qOf e.toNat w) k)

/-- CLASS (R151). -/
def execClassOrder (e : BitVec 4) (w : World) (k : Nat) (s : State) : Host.Outcome State Fault Refusal :=
  .next (s.runOrder .cls (qOf e.toNat w) k)

end Sys2Proof.Machine
end

