-- ==== Sys2Proof/Machine/CmdUnderstudy.lean ====
section
/-!
DEFINITION. The commands of wear and understudies (15).
-/
namespace Sys2Proof.Machine

/-- A swap has ended: domains follow the placement (R637), and an event of CUS.CURTPOL that arose acts (R633). -/
def State.swapDone (s : State) : State := s.applyDomains.pollCurtain

/-- The word of UST.SWAP with GO (R616). -/
def swapWord (kind target lane phys : Nat) : Word :=
  BitVec.ofNat 64 (kind + 2 ^ 8 * target + 2 ^ 16 * lane + 2 ^ 24 * phys + 2 ^ 32)

/-- BEAT_MONITOR_UPDATE (R157). -/
def execBeatMonitorUpdate (res : BitVec 12) (rate ratio : BitVec 16) (s : State) : Host.Outcome State Fault Refusal :=
  .next (s.beatUpdate res.toNat rate.toNat ratio.toNat).pollCurtain

/-- SELF_TEST (R597). -/
def execSelfTest (res : BitVec 12) (pass : Bool) (s : State) : Host.Outcome State Fault Refusal :=
  .next (s.selfTest res.toNat pass).pollCurtain

/-- DEFER_EXPIRY (R600). -/
def execDeferExpiry (s : State) : Host.Outcome State Fault Refusal := .next s.deferExpiry

/-- LANE_SWAP (R603). -/
def execLaneSwap (pass : Bool) (dur : BitVec 32) (s : State) : Host.Outcome State Fault Refusal :=
  .next (s.laneSwap pass dur.toNat).swapDone

/-- ENGINE_MIGRATION (R604). -/
def execEngineMigration (pass : Bool) (dur : BitVec 32) (s : State) : Host.Outcome State Fault Refusal :=
  .next (s.engineMigration pass dur.toNat).swapDone

/-- CALLER_SWAP (R606). -/
def execCallerSwap (pass : Bool) (dur : BitVec 32) (s : State) : Host.Outcome State Fault Refusal :=
  .next (s.callerSwap pass dur.toNat).swapDone

/-- SEAL_UNIT_SWAP (R607); a digest in progress moves to a unit that R554 allows. -/
def execSealUnitSwap (pass : Bool) (dur : BitVec 32) (s : State) : Host.Outcome State Fault Refusal :=
  .next (s.sealUnitSwap pass dur.toNat).digestMove.swapDone

/-- SWAP_LANE_COMMAND (R601). -/
def execSwapLaneCommand (m : Master) (target : BitVec 8) (lane phys : BitVec 5) 
    (s : State) : Host.Outcome State Fault Refusal :=
  .next (s.write m rUstSwap (swapWord 0 target.toNat lane.toNat phys.toNat))

/-- SWAP_ENGINE_COMMAND (R601). -/
def execSwapEngineCommand (m : Master) (target : BitVec 8) (phys : BitVec 5) 
    (s : State) : Host.Outcome State Fault Refusal :=
  .next (s.write m rUstSwap (swapWord 1 target.toNat 0 phys.toNat))

/-- SWAP_CALLER_COMMAND (R601). -/
def execSwapCallerCommand (m : Master) (target : BitVec 8) (phys : BitVec 5) 
    (s : State) : Host.Outcome State Fault Refusal :=
  .next (s.write m rUstSwap (swapWord 2 target.toNat 0 phys.toNat))

/-- SWAP_COMPARATOR_COMMAND (R601). -/
def execSwapComparatorCommand (m : Master) (target : BitVec 8) (phys : BitVec 5) 
    (s : State) : Host.Outcome State Fault Refusal :=
  .next (s.write m rUstSwap (swapWord 3 target.toNat 0 phys.toNat))

/-- SWAP_SEAL_COMMAND (R601). -/
def execSwapSealCommand (m : Master) (target : BitVec 8) (phys : BitVec 5) 
    (s : State) : Host.Outcome State Fault Refusal :=
  .next (s.write m rUstSwap (swapWord 4 target.toNat 0 phys.toNat))

end Sys2Proof.Machine
end

