-- ==== Sys2Proof/Machine/Dispatch.lean ====
section
/-!
DEFINITION. One arm for each command of the table: a direct call of its meaning.
-/
namespace Sys2Proof.Machine
open Sys2Proof

def exec (i : Instr) (s : State) : Host.Outcome State Fault Refusal :=
  match i with
  | .vddAonRise => Sys2Proof.Machine.execVddAonRise s
  | .resetNRise => Sys2Proof.Machine.execResetNRise s
  | .resetNFall => Sys2Proof.Machine.execResetNFall s
  | .pfailNFall => Sys2Proof.Machine.execPfailNFall s
  | .supplyRemoval => Sys2Proof.Machine.execSupplyRemoval s
  | .thermNChange level => Sys2Proof.Machine.execThermNChange level s
  | .refclkEthStop => Sys2Proof.Machine.execRefclkEthStop s
  | .refclkEthReturn => Sys2Proof.Machine.execRefclkEthReturn s
  | .pciePerstNFall => Sys2Proof.Machine.execPciePerstNFall s
  | .modectlRehearsal m after => Sys2Proof.Machine.execModectlRehearsal m after s
  | .modectlCustody m after => Sys2Proof.Machine.execModectlCustody m after s
  | .modectlCurtain m after => Sys2Proof.Machine.execModectlCurtain m after s
  | .modectlRefit m after => Sys2Proof.Machine.execModectlRefit m after s
  | .modeTransitionComplete => Sys2Proof.Machine.execModeTransitionComplete s
  | .rehearsalEnd => Sys2Proof.Machine.execRehearsalEnd s
  | .dieSensorRead temps mv => Sys2Proof.Machine.execDieSensorRead temps mv s
  | .restraintEnd => Sys2Proof.Machine.execRestraintEnd s
  | .overtemp sensor => Sys2Proof.Machine.execOvertemp sensor s
  | .calstart m callers => Sys2Proof.Machine.execCalstart m callers s
  | .functionReady bit => Sys2Proof.Machine.execFunctionReady bit s
  | .bootload m copy => Sys2Proof.Machine.execBootload m copy s
  | .bootloadDone => Sys2Proof.Machine.execBootloadDone s
  | .domainSwitchOff m d => Sys2Proof.Machine.execDomainSwitchOff m d s
  | .domainSwitchOn m d => Sys2Proof.Machine.execDomainSwitchOn m d s
  | .registerWrite m addr size v => Sys2Proof.Machine.execRegisterWrite m addr size v s
  | .clamplogRead m => Sys2Proof.Machine.execClamplogRead m s
  | .engRejectRead m e w => Sys2Proof.Machine.execEngRejectRead m e w s
  | .engCplerrRead m e w => Sys2Proof.Machine.execEngCplerrRead m e w s
  | .engTraprepRead m e w => Sys2Proof.Machine.execEngTraprepRead m e w s
  | .mmrep0Read m k => Sys2Proof.Machine.execMmrep0Read m k s
  | .fltFirst0Read m b => Sys2Proof.Machine.execFltFirst0Read m b s
  | .stagingWrite m off size v => Sys2Proof.Machine.execStagingWrite m off size v s
  | .cfgCommit m count check => Sys2Proof.Machine.execCfgCommit m count check s
  | .cfgPreview m count check => Sys2Proof.Machine.execCfgPreview m count check s
  | .previewDone => Sys2Proof.Machine.execPreviewDone s
  | .cfgAbort m => Sys2Proof.Machine.execCfgAbort m s
  | .commitApplied => Sys2Proof.Machine.execCommitApplied s
  | .placementMove => Sys2Proof.Machine.execPlacementMove s
  | .digestTimer => Sys2Proof.Machine.execDigestTimer s
  | .digestStart => Sys2Proof.Machine.execDigestStart s
  | .digestPublish => Sys2Proof.Machine.execDigestPublish s
  | .issueOrder c d s1 s2 => Sys2Proof.Machine.execIssueOrder c d s1 s2 s
  | .orderStart e w => Sys2Proof.Machine.execOrderStart e w s
  | .orderComplete e w => Sys2Proof.Machine.execOrderComplete e w s
  | .recordWritten e w => Sys2Proof.Machine.execRecordWritten e w s
  | .tpCycleStart e => Sys2Proof.Machine.execTpCycleStart e s
  | .tpSlotBoundary e => Sys2Proof.Machine.execTpSlotBoundary e s
  | .stallWatchdogExpiry e w => Sys2Proof.Machine.execStallWatchdogExpiry e w s
  | .engSuspend m e w => Sys2Proof.Machine.execEngSuspend m e w s
  | .resumeContinue m e w tag => Sys2Proof.Machine.execResumeContinue m e w tag s
  | .resumePass m e w tag => Sys2Proof.Machine.execResumePass m e w tag s
  | .resumeSkip m e w tag => Sys2Proof.Machine.execResumeSkip m e w tag s
  | .resumeAbandon m e w tag => Sys2Proof.Machine.execResumeAbandon m e w tag s
  | .relayCreditReturn r => Sys2Proof.Machine.execRelayCreditReturn r s
  | .relayEnable m r v => Sys2Proof.Machine.execRelayEnable m r v s
  | .rlyflush m r => Sys2Proof.Machine.execRlyflush m r s
  | .signatureCompare e w err => Sys2Proof.Machine.execSignatureCompare e w err s
  | .encoreStart e w => Sys2Proof.Machine.execEncoreStart e w s
  | .encoreEnd err => Sys2Proof.Machine.execEncoreEnd err s
  | .fullProofDone k caught lane bitPos => Sys2Proof.Machine.execFullProofDone k caught lane bitPos s
  | .periodicProof k caught => Sys2Proof.Machine.execPeriodicProof k caught s
  | .comparatorSubstitution q => Sys2Proof.Machine.execComparatorSubstitution q s
  | .repModeWrite m spair vpair => Sys2Proof.Machine.execRepModeWrite m spair vpair s
  | .enginePairingChange e => Sys2Proof.Machine.execEnginePairingChange e s
  | .frclose m f => Sys2Proof.Machine.execFrclose m f s
  | .frameCloseDeferred f => Sys2Proof.Machine.execFrameCloseDeferred f s
  | .frameClearDone f => Sys2Proof.Machine.execFrameClearDone f s
  | .frameEnable m f v => Sys2Proof.Machine.execFrameEnable m f v s
  | .hbmTempRead k temp valid => Sys2Proof.Machine.execHbmTempRead k temp valid s
  | .hbmBandReturn k => Sys2Proof.Machine.execHbmBandReturn k s
  | .hbmRefresh pc bank => Sys2Proof.Machine.execHbmRefresh pc bank s
  | .hbmScrub pc granule found => Sys2Proof.Machine.execHbmScrub pc granule found s
  | .hbmSoftRepair k => Sys2Proof.Machine.execHbmSoftRepair k s
  | .retentWrite m k v => Sys2Proof.Machine.execRetentWrite m k v s
  | .scpScrub word found => Sys2Proof.Machine.execScpScrub word found s
  | .scpSwap m bank => Sys2Proof.Machine.execScpSwap m bank s
  | .bankSwapDone q => Sys2Proof.Machine.execBankSwapDone q s
  | .arbiterGrant cls idx req note => Sys2Proof.Machine.execArbiterGrant cls idx req note s
  | .loadResponse c reply => Sys2Proof.Machine.execLoadResponse c reply s
  | .storeDrain c => Sys2Proof.Machine.execStoreDrain c s
  | .storeResponse c err => Sys2Proof.Machine.execStoreResponse c err s
  | .longOpRetire c t => Sys2Proof.Machine.execLongOpRetire c t s
  | .spill c => Sys2Proof.Machine.execSpill c s
  | .refill c => Sys2Proof.Machine.execRefill c s
  | .tableReloadDone c t => Sys2Proof.Machine.execTableReloadDone c t s
  | .calWorldWrite m c w => Sys2Proof.Machine.execCalWorldWrite m c w s
  | .wsbaseWrite m c v => Sys2Proof.Machine.execWsbaseWrite m c v s
  | .calRestart m c addr => Sys2Proof.Machine.execCalRestart m c addr s
  | .interruptOffer c => Sys2Proof.Machine.execInterruptOffer c s
  | .srcstatPendWrite m src => Sys2Proof.Machine.execSrcstatPendWrite m src s
  | .eoi m src => Sys2Proof.Machine.execEoi m src s
  | .cueFires m ch => Sys2Proof.Machine.execCueFires m ch s
  | .cueFirev m ch => Sys2Proof.Machine.execCueFirev m ch s
  | .grpset m groups => Sys2Proof.Machine.execGrpset m groups s
  | .grpclr m groups => Sys2Proof.Machine.execGrpclr m groups s
  | .rateWindow => Sys2Proof.Machine.execRateWindow s
  | .cueTimerExpiry t => Sys2Proof.Machine.execCueTimerExpiry t s
  | .cueInActivation j => Sys2Proof.Machine.execCueInActivation j s
  | .cueInRepeat j => Sys2Proof.Machine.execCueInRepeat j s
  | .cueStuck j => Sys2Proof.Machine.execCueStuck j s
  | .pincfgWrite m j v => Sys2Proof.Machine.execPincfgWrite m j v s
  | .cueOutPulseEnd o => Sys2Proof.Machine.execCueOutPulseEnd o s
  | .fltInject m b kind => Sys2Proof.Machine.execFltInject m b kind s
  | .alarmPulseEnd => Sys2Proof.Machine.execAlarmPulseEnd s
  | .beatMonitorUpdate res rate ratio => Sys2Proof.Machine.execBeatMonitorUpdate res rate ratio s
  | .selfTest res pass => Sys2Proof.Machine.execSelfTest res pass s
  | .deferExpiry => Sys2Proof.Machine.execDeferExpiry s
  | .laneSwap pass dur => Sys2Proof.Machine.execLaneSwap pass dur s
  | .engineMigration pass dur => Sys2Proof.Machine.execEngineMigration pass dur s
  | .callerSwap pass dur => Sys2Proof.Machine.execCallerSwap pass dur s
  | .sealUnitSwap pass dur => Sys2Proof.Machine.execSealUnitSwap pass dur s
  | .swapLaneCommand m target lane phys => Sys2Proof.Machine.execSwapLaneCommand m target lane phys s
  | .swapEngineCommand m target phys => Sys2Proof.Machine.execSwapEngineCommand m target phys s
  | .swapCallerCommand m target phys => Sys2Proof.Machine.execSwapCallerCommand m target phys s
  | .swapComparatorCommand m target phys => Sys2Proof.Machine.execSwapComparatorCommand m target phys s
  | .swapSealCommand m target phys => Sys2Proof.Machine.execSwapSealCommand m target phys s
  | .recordOpen e w => Sys2Proof.Machine.execRecordOpen e w s
  | .folioProgramDone w target upTo pass => Sys2Proof.Machine.execFolioProgramDone w target upTo pass s
  | .eraseDone target pass => Sys2Proof.Machine.execEraseDone target pass s
  | .nandReadDone w target pos stage => Sys2Proof.Machine.execNandReadDone w target pos stage s
  | .colophonTimer => Sys2Proof.Machine.execColophonTimer s
  | .colophonPageProgrammed w pass => Sys2Proof.Machine.execColophonPageProgrammed w pass s
  | .folioAgeExpiry w target pos => Sys2Proof.Machine.execFolioAgeExpiry w target pos s
  | .mapCheckpoint => Sys2Proof.Machine.execMapCheckpoint s
  | .arcWaitLimit e w => Sys2Proof.Machine.execArcWaitLimit e w s
  | .arcRelease m w below => Sys2Proof.Machine.execArcRelease m w below s
  | .arcAudit m count unit => Sys2Proof.Machine.execArcAudit m count unit s
  | .auditEnd => Sys2Proof.Machine.execAuditEnd s
  | .bootctl m length copy => Sys2Proof.Machine.execBootctl m length copy s
  | .bootStoreDone pass => Sys2Proof.Machine.execBootStoreDone pass s
  | .archiveRecovery => Sys2Proof.Machine.execArchiveRecovery s
  | .recoveryDone ms => Sys2Proof.Machine.execRecoveryDone ms s
  | .flushFinalColophon => Sys2Proof.Machine.execFlushFinalColophon s
  | .flushEnd => Sys2Proof.Machine.execFlushEnd s
  | .linkUp p speed fec => Sys2Proof.Machine.execLinkUp p speed fec s
  | .linkDown p => Sys2Proof.Machine.execLinkDown p s
  | .frameReceive p frame fcsOk cut sec => Sys2Proof.Machine.execFrameReceive p frame fcsOk cut sec s
  | .askustReceive p rtag tel => Sys2Proof.Machine.execAskustReceive p rtag tel s
  | .telegramDelivery p => Sys2Proof.Machine.execTelegramDelivery p s
  | .gptpSync p sync offset interval => Sys2Proof.Machine.execGptpSync p sync offset interval s
  | .announce p msg master => Sys2Proof.Machine.execAnnounce p msg master s
  | .pdelayResp p delay => Sys2Proof.Machine.execPdelayResp p delay s
  | .syncTimeout p => Sys2Proof.Machine.execSyncTimeout p s
  | .txtailWrite m p w tail => Sys2Proof.Machine.execTxtailWrite m p w tail s
  | .txDescriptor p w => Sys2Proof.Machine.execTxDescriptor p w s
  | .gateIntervalEnd p => Sys2Proof.Machine.execGateIntervalEnd p s
  | .resync m n => Sys2Proof.Machine.execResync m n s
  | .keydataWrite m p v => Sys2Proof.Machine.execKeydataWrite m p v s
  | .keyInstall m p v => Sys2Proof.Machine.execKeyInstall m p v s
  | .feedb m u v => Sys2Proof.Machine.execFeedb m u v s
  | .feedh m u v => Sys2Proof.Machine.execFeedh m u v s
  | .feedw m u v => Sys2Proof.Machine.execFeedw m u v s
  | .seaClose m u => Sys2Proof.Machine.execSeaClose m u s
  | .scanlenWrite m u len closeAfter => Sys2Proof.Machine.execScanlenWrite m u len closeAfter s
  | .scanEnd u => Sys2Proof.Machine.execScanEnd u s
  | .seaCtlWrite m u v => Sys2Proof.Machine.execSeaCtlWrite m u v s
  | .sqTailDoorbell f n t => Sys2Proof.Machine.execSqTailDoorbell f n t s
  | .cqHeadDoorbell f n h => Sys2Proof.Machine.execCqHeadDoorbell f n h s
  | .descriptorFetch f n => Sys2Proof.Machine.execDescriptorFetch f n s
  | .runDesc f n j => Sys2Proof.Machine.execRunDesc f n j s
  | .copyHostToDevice f n j k => Sys2Proof.Machine.execCopyHostToDevice f n j k s
  | .copyDeviceToHost f n j k => Sys2Proof.Machine.execCopyDeviceToHost f n j k s
  | .copyToRelay f n j k => Sys2Proof.Machine.execCopyToRelay f n j k s
  | .copyToFrame f n j => Sys2Proof.Machine.execCopyToFrame f n j s
  | .archiveRead f n j k => Sys2Proof.Machine.execArchiveRead f n j k s
  | .configStage f n j => Sys2Proof.Machine.execConfigStage f n j s
  | .noteDesc f n j => Sys2Proof.Machine.execNoteDesc f n j s
  | .completionWrite f n => Sys2Proof.Machine.execCompletionWrite f n s
  | .coalesceTimer f n => Sys2Proof.Machine.execCoalesceTimer f n s
  | .ringEnable m f cq n v => Sys2Proof.Machine.execRingEnable m f cq n v s
  | .ringDisable m f cq n v => Sys2Proof.Machine.execRingDisable m f cq n v s
  | .functionLevelReset f => Sys2Proof.Machine.execFunctionLevelReset f s
  | .pcieLinkDown => Sys2Proof.Machine.execPcieLinkDown s
  | .completionTimeout who => Sys2Proof.Machine.execCompletionTimeout who s
  | .bar4Access f off size wr => Sys2Proof.Machine.execBar4Access f off size wr s
  | .bypass => Sys2Proof.Machine.execBypass s
  | .idcode => Sys2Proof.Machine.execIdcode s
  | .samplePreload pins => Sys2Proof.Machine.execSamplePreload pins s
  | .extest => Sys2Proof.Machine.execExtest s
  | .extestPulse => Sys2Proof.Machine.execExtestPulse s
  | .extestTrain => Sys2Proof.Machine.execExtestTrain s
  | .trstNLow => Sys2Proof.Machine.execTrstNLow s
  | .add c d s1 s2 => Sys2Proof.Machine.execAdd c d s1 s2 s
  | .sub c d s1 s2 => Sys2Proof.Machine.execSub c d s1 s2 s
  | .and c d s1 s2 => Sys2Proof.Machine.execAnd c d s1 s2 s
  | .or c d s1 s2 => Sys2Proof.Machine.execOr c d s1 s2 s
  | .xor c d s1 s2 => Sys2Proof.Machine.execXor c d s1 s2 s
  | .andn c d s1 s2 => Sys2Proof.Machine.execAndn c d s1 s2 s
  | .shl c d s1 s2 => Sys2Proof.Machine.execShl c d s1 s2 s
  | .shr c d s1 s2 => Sys2Proof.Machine.execShr c d s1 s2 s
  | .sar c d s1 s2 => Sys2Proof.Machine.execSar c d s1 s2 s
  | .rotl c d s1 s2 => Sys2Proof.Machine.execRotl c d s1 s2 s
  | .slt c d s1 s2 => Sys2Proof.Machine.execSlt c d s1 s2 s
  | .sltu c d s1 s2 => Sys2Proof.Machine.execSltu c d s1 s2 s
  | .min c d s1 s2 => Sys2Proof.Machine.execMin c d s1 s2 s
  | .max c d s1 s2 => Sys2Proof.Machine.execMax c d s1 s2 s
  | .minu c d s1 s2 => Sys2Proof.Machine.execMinu c d s1 s2 s
  | .maxu c d s1 s2 => Sys2Proof.Machine.execMaxu c d s1 s2 s
  | .addsat c d s1 s2 => Sys2Proof.Machine.execAddsat c d s1 s2 s
  | .subsat c d s1 s2 => Sys2Proof.Machine.execSubsat c d s1 s2 s
  | .clz c d s1 s2 => Sys2Proof.Machine.execClz c d s1 s2 s
  | .popcnt c d s1 s2 => Sys2Proof.Machine.execPopcnt c d s1 s2 s
  | .addi c d s1 imm => Sys2Proof.Machine.execAddi c d s1 imm s
  | .andi c d s1 imm => Sys2Proof.Machine.execAndi c d s1 imm s
  | .ori c d s1 imm => Sys2Proof.Machine.execOri c d s1 imm s
  | .xori c d s1 imm => Sys2Proof.Machine.execXori c d s1 imm s
  | .slti c d s1 imm => Sys2Proof.Machine.execSlti c d s1 imm s
  | .sltiu c d s1 imm => Sys2Proof.Machine.execSltiu c d s1 imm s
  | .shiftiShl c d s1 count => Sys2Proof.Machine.execShiftiShl c d s1 count s
  | .shiftiShr c d s1 count => Sys2Proof.Machine.execShiftiShr c d s1 count s
  | .shiftiSar c d s1 count => Sys2Proof.Machine.execShiftiSar c d s1 count s
  | .shiftiRotl c d s1 count => Sys2Proof.Machine.execShiftiRotl c d s1 count s
  | .lih c d s1 imm => Sys2Proof.Machine.execLih c d s1 imm s
  | .shori c d s1 imm => Sys2Proof.Machine.execShori c d s1 imm s
  | .mul c d s1 s2 => Sys2Proof.Machine.execMul c d s1 s2 s
  | .mulh c d s1 s2 => Sys2Proof.Machine.execMulh c d s1 s2 s
  | .mulhu c d s1 s2 => Sys2Proof.Machine.execMulhu c d s1 s2 s
  | .mulsat c d s1 s2 => Sys2Proof.Machine.execMulsat c d s1 s2 s
  | .div c d s1 s2 => Sys2Proof.Machine.execDiv c d s1 s2 s
  | .divu c d s1 s2 => Sys2Proof.Machine.execDivu c d s1 s2 s
  | .rem c d s1 s2 => Sys2Proof.Machine.execRem c d s1 s2 s
  | .remu c d s1 s2 => Sys2Proof.Machine.execRemu c d s1 s2 s
  | .ldb c d s1 imm => Sys2Proof.Machine.execLdb c d s1 imm s
  | .ldbu c d s1 imm => Sys2Proof.Machine.execLdbu c d s1 imm s
  | .ldh c d s1 imm => Sys2Proof.Machine.execLdh c d s1 imm s
  | .ldhu c d s1 imm => Sys2Proof.Machine.execLdhu c d s1 imm s
  | .ldw c d s1 imm => Sys2Proof.Machine.execLdw c d s1 imm s
  | .ldwu c d s1 imm => Sys2Proof.Machine.execLdwu c d s1 imm s
  | .ldd c d s1 imm => Sys2Proof.Machine.execLdd c d s1 imm s
  | .stb c d s1 imm => Sys2Proof.Machine.execStb c d s1 imm s
  | .sth c d s1 imm => Sys2Proof.Machine.execSth c d s1 imm s
  | .stw c d s1 imm => Sys2Proof.Machine.execStw c d s1 imm s
  | .std c d s1 imm => Sys2Proof.Machine.execStd c d s1 imm s
  | .beq c s1 s2 off => Sys2Proof.Machine.execBeq c s1 s2 off s
  | .bne c s1 s2 off => Sys2Proof.Machine.execBne c s1 s2 off s
  | .blt c s1 s2 off => Sys2Proof.Machine.execBlt c s1 s2 off s
  | .bge c s1 s2 off => Sys2Proof.Machine.execBge c s1 s2 off s
  | .bltu c s1 s2 off => Sys2Proof.Machine.execBltu c s1 s2 off s
  | .bgeu c s1 s2 off => Sys2Proof.Machine.execBgeu c s1 s2 off s
  | .j c off => Sys2Proof.Machine.execJ c off s
  | .call c off => Sys2Proof.Machine.execCall c off s
  | .jr c d s1 s2 => Sys2Proof.Machine.execJr c d s1 s2 s
  | .callr c d s1 s2 => Sys2Proof.Machine.execCallr c d s1 s2 s
  | .ret c d s1 s2 => Sys2Proof.Machine.execRet c d s1 s2 s
  | .fadd c d s1 s2 rnd ty => Sys2Proof.Machine.execFadd c d s1 s2 rnd ty s
  | .fsub c d s1 s2 rnd ty => Sys2Proof.Machine.execFsub c d s1 s2 rnd ty s
  | .fmul c d s1 s2 rnd ty => Sys2Proof.Machine.execFmul c d s1 s2 rnd ty s
  | .fdiv c d s1 s2 rnd ty => Sys2Proof.Machine.execFdiv c d s1 s2 rnd ty s
  | .fsqrt c d s1 s2 rnd ty => Sys2Proof.Machine.execFsqrt c d s1 s2 rnd ty s
  | .fmin c d s1 s2 rnd ty => Sys2Proof.Machine.execFmin c d s1 s2 rnd ty s
  | .fmax c d s1 s2 rnd ty => Sys2Proof.Machine.execFmax c d s1 s2 rnd ty s
  | .fabs c d s1 s2 rnd ty => Sys2Proof.Machine.execFabs c d s1 s2 rnd ty s
  | .fneg c d s1 s2 rnd ty => Sys2Proof.Machine.execFneg c d s1 s2 rnd ty s
  | .fcpsgn c d s1 s2 rnd ty => Sys2Proof.Machine.execFcpsgn c d s1 s2 rnd ty s
  | .fcmpeq c d s1 s2 rnd ty => Sys2Proof.Machine.execFcmpeq c d s1 s2 rnd ty s
  | .fcmplt c d s1 s2 rnd ty => Sys2Proof.Machine.execFcmplt c d s1 s2 rnd ty s
  | .fcmple c d s1 s2 rnd ty => Sys2Proof.Machine.execFcmple c d s1 s2 rnd ty s
  | .fcmpun c d s1 s2 rnd ty => Sys2Proof.Machine.execFcmpun c d s1 s2 rnd ty s
  | .fclass c d s1 s2 rnd ty => Sys2Proof.Machine.execFclass c d s1 s2 rnd ty s
  | .frndint c d s1 s2 rnd ty => Sys2Proof.Machine.execFrndint c d s1 s2 rnd ty s
  | .fquant c d s1 s2 rnd ty => Sys2Proof.Machine.execFquant c d s1 s2 rnd ty s
  | .fscaleb c d s1 s2 rnd ty => Sys2Proof.Machine.execFscaleb c d s1 s2 rnd ty s
  | .flogb c d s1 s2 rnd ty => Sys2Proof.Machine.execFlogb c d s1 s2 rnd ty s
  | .fma c d s1 s2 s3 rnd ty => Sys2Proof.Machine.execFma c d s1 s2 s3 rnd ty s
  | .fms c d s1 s2 s3 rnd ty => Sys2Proof.Machine.execFms c d s1 s2 s3 rnd ty s
  | .fnma c d s1 s2 s3 rnd ty => Sys2Proof.Machine.execFnma c d s1 s2 s3 rnd ty s
  | .cvt c d s1 sty tty rnd => Sys2Proof.Machine.execCvt c d s1 sty tty rnd s
  | .cvtsat c d s1 sty tty rnd => Sys2Proof.Machine.execCvtsat c d s1 sty tty rnd s
  | .vadd c vd vs1 vs2 masked scalar => Sys2Proof.Machine.execVadd c vd vs1 vs2 masked scalar s
  | .vsub c vd vs1 vs2 masked scalar => Sys2Proof.Machine.execVsub c vd vs1 vs2 masked scalar s
  | .vmul c vd vs1 vs2 masked scalar => Sys2Proof.Machine.execVmul c vd vs1 vs2 masked scalar s
  | .vmulh c vd vs1 vs2 masked scalar => Sys2Proof.Machine.execVmulh c vd vs1 vs2 masked scalar s
  | .vdiv c vd vs1 vs2 masked scalar => Sys2Proof.Machine.execVdiv c vd vs1 vs2 masked scalar s
  | .vsqrt c vd vs1 vs2 masked scalar => Sys2Proof.Machine.execVsqrt c vd vs1 vs2 masked scalar s
  | .vmin c vd vs1 vs2 masked scalar => Sys2Proof.Machine.execVmin c vd vs1 vs2 masked scalar s
  | .vmax c vd vs1 vs2 masked scalar => Sys2Proof.Machine.execVmax c vd vs1 vs2 masked scalar s
  | .vand c vd vs1 vs2 masked scalar => Sys2Proof.Machine.execVand c vd vs1 vs2 masked scalar s
  | .vor c vd vs1 vs2 masked scalar => Sys2Proof.Machine.execVor c vd vs1 vs2 masked scalar s
  | .vxor c vd vs1 vs2 masked scalar => Sys2Proof.Machine.execVxor c vd vs1 vs2 masked scalar s
  | .vshl c vd vs1 vs2 masked scalar => Sys2Proof.Machine.execVshl c vd vs1 vs2 masked scalar s
  | .vshr c vd vs1 vs2 masked scalar => Sys2Proof.Machine.execVshr c vd vs1 vs2 masked scalar s
  | .vsar c vd vs1 vs2 masked scalar => Sys2Proof.Machine.execVsar c vd vs1 vs2 masked scalar s
  | .vsel c vd vs1 vs2 masked scalar => Sys2Proof.Machine.execVsel c vd vs1 vs2 masked scalar s
  | .vcmpeq c vd vs1 vs2 masked scalar => Sys2Proof.Machine.execVcmpeq c vd vs1 vs2 masked scalar s
  | .vcmpne c vd vs1 vs2 masked scalar => Sys2Proof.Machine.execVcmpne c vd vs1 vs2 masked scalar s
  | .vcmplt c vd vs1 vs2 masked scalar => Sys2Proof.Machine.execVcmplt c vd vs1 vs2 masked scalar s
  | .vcmple c vd vs1 vs2 masked scalar => Sys2Proof.Machine.execVcmple c vd vs1 vs2 masked scalar s
  | .vfma c vd vs1 vs2 masked scalar => Sys2Proof.Machine.execVfma c vd vs1 vs2 masked scalar s
  | .vfms c vd vs1 vs2 masked scalar => Sys2Proof.Machine.execVfms c vd vs1 vs2 masked scalar s
  | .vredsum c vd vs1 vs2 masked scalar => Sys2Proof.Machine.execVredsum c vd vs1 vs2 masked scalar s
  | .vredmin c vd vs1 vs2 masked scalar => Sys2Proof.Machine.execVredmin c vd vs1 vs2 masked scalar s
  | .vredmax c vd vs1 vs2 masked scalar => Sys2Proof.Machine.execVredmax c vd vs1 vs2 masked scalar s
  | .vmvx c vd vs1 vs2 masked scalar => Sys2Proof.Machine.execVmvx c vd vs1 vs2 masked scalar s
  | .vld c d s1 imm => Sys2Proof.Machine.execVld c d s1 imm s
  | .vst c d s1 imm => Sys2Proof.Machine.execVst c d s1 imm s
  | .setvl c d s1 imm => Sys2Proof.Machine.execSetvl c d s1 imm s
  | .syncC c d s1 s2 => Sys2Proof.Machine.execSyncC c d s1 s2 s
  | .syncF c d s1 s2 => Sys2Proof.Machine.execSyncF c d s1 s2 s
  | .barrier c d s1 s2 => Sys2Proof.Machine.execBarrier c d s1 s2 s
  | .fenceE c d s1 s2 => Sys2Proof.Machine.execFenceE c d s1 s2 s
  | .cinvI c d s1 s2 => Sys2Proof.Machine.execCinvI c d s1 s2 s
  | .cinvIa c d s1 s2 => Sys2Proof.Machine.execCinvIa c d s1 s2 s
  | .cinvD c d s1 s2 => Sys2Proof.Machine.execCinvD c d s1 s2 s
  | .cinvDa c d s1 s2 => Sys2Proof.Machine.execCinvDa c d s1 s2 s
  | .wflush c d s1 s2 => Sys2Proof.Machine.execWflush c d s1 s2 s
  | .wait c d s1 s2 => Sys2Proof.Machine.execWait c d s1 s2 s
  | .crr c d s1 num => Sys2Proof.Machine.execCrr c d s1 num s
  | .crw c d s1 num => Sys2Proof.Machine.execCrw c d s1 num s
  | .scall c => Sys2Proof.Machine.execScall c s
  | .mcall c => Sys2Proof.Machine.execMcall c s
  | .brk c => Sys2Proof.Machine.execBrk c s
  | .retx c => Sys2Proof.Machine.execRetx c s
  | .addOrder e w k => Sys2Proof.Machine.execAddOrder e w k s
  | .subOrder e w k => Sys2Proof.Machine.execSubOrder e w k s
  | .mulOrder e w k => Sys2Proof.Machine.execMulOrder e w k s
  | .fmaOrder e w k => Sys2Proof.Machine.execFmaOrder e w k s
  | .fmsOrder e w k => Sys2Proof.Machine.execFmsOrder e w k s
  | .fnmaOrder e w k => Sys2Proof.Machine.execFnmaOrder e w k s
  | .divOrder e w k => Sys2Proof.Machine.execDivOrder e w k s
  | .sqrtOrder e w k => Sys2Proof.Machine.execSqrtOrder e w k s
  | .minOrder e w k => Sys2Proof.Machine.execMinOrder e w k s
  | .maxOrder e w k => Sys2Proof.Machine.execMaxOrder e w k s
  | .absOrder e w k => Sys2Proof.Machine.execAbsOrder e w k s
  | .negOrder e w k => Sys2Proof.Machine.execNegOrder e w k s
  | .addsatOrder e w k => Sys2Proof.Machine.execAddsatOrder e w k s
  | .subsatOrder e w k => Sys2Proof.Machine.execSubsatOrder e w k s
  | .mulsatOrder e w k => Sys2Proof.Machine.execMulsatOrder e w k s
  | .mulwideOrder e w k => Sys2Proof.Machine.execMulwideOrder e w k s
  | .mulhiOrder e w k => Sys2Proof.Machine.execMulhiOrder e w k s
  | .andOrder e w k => Sys2Proof.Machine.execAndOrder e w k s
  | .orOrder e w k => Sys2Proof.Machine.execOrOrder e w k s
  | .xorOrder e w k => Sys2Proof.Machine.execXorOrder e w k s
  | .notOrder e w k => Sys2Proof.Machine.execNotOrder e w k s
  | .andnotOrder e w k => Sys2Proof.Machine.execAndnotOrder e w k s
  | .shlOrder e w k => Sys2Proof.Machine.execShlOrder e w k s
  | .shrOrder e w k => Sys2Proof.Machine.execShrOrder e w k s
  | .sarOrder e w k => Sys2Proof.Machine.execSarOrder e w k s
  | .rotlOrder e w k => Sys2Proof.Machine.execRotlOrder e w k s
  | .selectOrder e w k => Sys2Proof.Machine.execSelectOrder e w k s
  | .clzOrder e w k => Sys2Proof.Machine.execClzOrder e w k s
  | .popcntOrder e w k => Sys2Proof.Machine.execPopcntOrder e w k s
  | .cvtOrder e w k => Sys2Proof.Machine.execCvtOrder e w k s
  | .rndintOrder e w k => Sys2Proof.Machine.execRndintOrder e w k s
  | .quantizeOrder e w k => Sys2Proof.Machine.execQuantizeOrder e w k s
  | .cvtsatOrder e w k => Sys2Proof.Machine.execCvtsatOrder e w k s
  | .cmpeqOrder e w k => Sys2Proof.Machine.execCmpeqOrder e w k s
  | .cmpneOrder e w k => Sys2Proof.Machine.execCmpneOrder e w k s
  | .cmpltOrder e w k => Sys2Proof.Machine.execCmpltOrder e w k s
  | .cmpleOrder e w k => Sys2Proof.Machine.execCmpleOrder e w k s
  | .cmpgtOrder e w k => Sys2Proof.Machine.execCmpgtOrder e w k s
  | .cmpgeOrder e w k => Sys2Proof.Machine.execCmpgeOrder e w k s
  | .cmpunOrder e w k => Sys2Proof.Machine.execCmpunOrder e w k s
  | .cmpordOrder e w k => Sys2Proof.Machine.execCmpordOrder e w k s
  | .sumOrder e w k => Sys2Proof.Machine.execSumOrder e w k s
  | .minrOrder e w k => Sys2Proof.Machine.execMinrOrder e w k s
  | .maxrOrder e w k => Sys2Proof.Machine.execMaxrOrder e w k s
  | .andrOrder e w k => Sys2Proof.Machine.execAndrOrder e w k s
  | .orrOrder e w k => Sys2Proof.Machine.execOrrOrder e w k s
  | .xorrOrder e w k => Sys2Proof.Machine.execXorrOrder e w k s
  | .dotOrder e w k => Sys2Proof.Machine.execDotOrder e w k s
  | .segsumOrder e w k => Sys2Proof.Machine.execSegsumOrder e w k s
  | .segminOrder e w k => Sys2Proof.Machine.execSegminOrder e w k s
  | .segmaxOrder e w k => Sys2Proof.Machine.execSegmaxOrder e w k s
  | .segdotOrder e w k => Sys2Proof.Machine.execSegdotOrder e w k s
  | .linrecOrder e w k => Sys2Proof.Machine.execLinrecOrder e w k s
  | .psumOrder e w k => Sys2Proof.Machine.execPsumOrder e w k s
  | .psumxOrder e w k => Sys2Proof.Machine.execPsumxOrder e w k s
  | .segpsumOrder e w k => Sys2Proof.Machine.execSegpsumOrder e w k s
  | .compressOrder e w k => Sys2Proof.Machine.execCompressOrder e w k s
  | .expandOrder e w k => Sys2Proof.Machine.execExpandOrder e w k s
  | .gatherOrder e w k => Sys2Proof.Machine.execGatherOrder e w k s
  | .scatterOrder e w k => Sys2Proof.Machine.execScatterOrder e w k s
  | .scatteraddOrder e w k => Sys2Proof.Machine.execScatteraddOrder e w k s
  | .spmvOrder e w k => Sys2Proof.Machine.execSpmvOrder e w k s
  | .copyOrder e w k => Sys2Proof.Machine.execCopyOrder e w k s
  | .fillOrder e w k => Sys2Proof.Machine.execFillOrder e w k s
  | .arcappendOrder e w k => Sys2Proof.Machine.execArcappendOrder e w k s
  | .arcreadOrder e w k => Sys2Proof.Machine.execArcreadOrder e w k s
  | .sealfeedOrder e w k => Sys2Proof.Machine.execSealfeedOrder e w k s
  | .sceneOrder e w k => Sys2Proof.Machine.execSceneOrder e w k s
  | .scalebOrder e w k => Sys2Proof.Machine.execScalebOrder e w k s
  | .logbOrder e w k => Sys2Proof.Machine.execLogbOrder e w k s
  | .copysignOrder e w k => Sys2Proof.Machine.execCopysignOrder e w k s
  | .classOrder e w k => Sys2Proof.Machine.execClassOrder e w k s
  | .cueInInactive j => Sys2Proof.Machine.execCueInInactive j s
  | .pfailNRise => Sys2Proof.Machine.execPfailNRise s
  | .heldResetNRise => Sys2Proof.Machine.execHeldResetNRise s
  | .pcieLinkUp gen width bme => Sys2Proof.Machine.execPcieLinkUp gen width bme s
  | .retentionLate w target pos => Sys2Proof.Machine.execRetentionLate w target pos s
  | .trstNHigh => Sys2Proof.Machine.execTrstNHigh s

end Sys2Proof.Machine
end

