-- ==== Sys2Proof/Machine/Words.lean ====
section
/-!
DEFINITION. The instruction words of a caller (R393 to R399, R460): a word that spells an instruction is the command of that
instruction, and one that spells none raises ILLEGAL. The callers execute the words of their memory while no command waits.
-/
namespace Sys2Proof.Machine

/-- Caller `c` executes the instruction word `w`. -/
def execWord (c : BitVec 3) (w : BitVec 32) (s : State) : Host.Outcome State Fault Refusal :=
  match Spelt.ofWord c w with
  | .instr i => exec i s
  | .control d s1 num =>
    let (v, s) := s.takeFree
    if v.bit 0 then exec (.crw c d s1 num) s else exec (.crr c d s1 num) s
  | .illegal => .next (s.instr c.toNat w.toNat true [] [] id)

/-- The word at the program counter of caller `c`, as its fetch finds it: in its instruction cache under IEN, else in memory
(R393, R416, R417). -/
def State.wordAt (s : State) (c : Nat) : BitVec 32 :=
  let pc := (s.cal c).pc
  let line := if s.rb (rCalCache c) fCalCacheIen then lineOf (s.cal c).ilines pc else none
  match line, s.target pc with
  | some bs, _ => BitVec.ofNat 32 (ofLeBytes ((bs.drop (pc % 64)).take 4))
  | none, .mem p => BitVec.ofNat 32 (ofLeBytes (s.peek p 4))
  | none, _ => 0

/-- Does the code of the boot ROM, which is not published, stand at this address? Its acts are those of log entry 158. -/
def State.romWord (s : State) (a : Nat) : Bool := match s.target a with | .rom _ => true | _ => false

/-- Caller `c` fetches the word at its program counter and executes it, if it issues at all; a fetch that has no word yet
waits, fills a line or faults (R393, R402). -/
def State.callerStep (s : State) (c : BitVec 3) : State :=
  if !s.issues c.toNat || s.romWord (s.cal c.toNat).pc then s
  else match s.fetch c.toNat (s.cal c.toNat).pc with
    | .word => (match execWord c (s.wordAt c.toNat) s with | .next t => t | _ => s)
    | _ => s.instr c.toNat 0 false [] [] id

/-- Each logical caller in turn executes one word (DESIGN CHOICE, log entry 179: one in each idle microsecond; how many words a
caller executes in a time is not given). -/
def State.callersStep (s : State) : State := (List.range 8).foldl (fun s c => s.callerStep (BitVec.ofNat 3 c)) s

/-- What happens while no command waits: a microsecond passes, and the callers go on in it if the time base does (R667). -/
def State.idle (s : State) : State := if !s.cus.clock || !s.cus.aon then s else s.tick.callersStep

end Sys2Proof.Machine
end

