-- ==== Sys2Proof/WellFormed.lean ====
section
/-!
DEFINITION. Which commands are well formed: what the types of their operands do not say already. An access has a size of
1, 2, 4 or 8 bytes and a value of that size (R32, R569, R642); a reading of the die gives its 16 sensors (R632); no requester
waits twice in what a grant tells (R372, R373); a full proof injects 2 048 patterns (R314); the host link trains at Gen 4 to
6 on 1, 4, 8 or 16 lanes (R589); an instruction address is a multiple of 4 (R393, R444); a pseudo-channel has 4 718 592
granules (R349); the work of an order or of a descriptor is at least one unit. Every other command is well formed as its
types make it.
-/
namespace Sys2Proof

/-- An access of `size` bytes that carries `v`. -/
def sizeFits (size : Nat) (v : Word) : Bool :=
  (size == 1 || size == 2 || size == 4 || size == 8) && decide (v.toNat < 2 ^ (8 * size))

/-- No requester twice. -/
def noRepeats : List (BitVec 8) → Bool
  | [] => true
  | x :: xs => !xs.contains x && noRepeats xs

/-- Is the command well formed? -/
def Instr.wellFormed (i : Instr) : Bool :=
  match i with
  | .dieSensorRead temps _ => temps.length == 16
  | .registerWrite _ _ size v => sizeFits size v
  | .stagingWrite _ _ size v => sizeFits size v
  | .fullProofDone _ caught _ _ => decide (caught.toNat ≤ 2048)
  | .hbmScrub _ granule _ => decide (granule.toNat < 4718592)
  | .arbiterGrant _ _ _ note => noRepeats (note.waits.map fun x => x.1)
  | .calRestart _ _ addr => addr.toNat % 4 == 0
  | .bar4Access _ _ size wr => match wr with | some v => sizeFits size v | none => sizeFits size 0
  | .pcieLinkUp gen width _ => decide (4 ≤ gen.toNat ∧ gen.toNat ≤ 6) && [1, 4, 8, 16].contains width.toNat
  | .copyHostToDevice _ _ _ k | .copyDeviceToHost _ _ _ k | .copyToRelay _ _ _ k | .archiveRead _ _ _ k
  | .addOrder _ _ k | .subOrder _ _ k | .mulOrder _ _ k | .fmaOrder _ _ k | .fmsOrder _ _ k | .fnmaOrder _ _ k
  | .divOrder _ _ k | .sqrtOrder _ _ k | .minOrder _ _ k | .maxOrder _ _ k | .absOrder _ _ k | .negOrder _ _ k
  | .addsatOrder _ _ k | .subsatOrder _ _ k | .mulsatOrder _ _ k | .mulwideOrder _ _ k | .mulhiOrder _ _ k
  | .andOrder _ _ k | .orOrder _ _ k | .xorOrder _ _ k | .notOrder _ _ k | .andnotOrder _ _ k | .shlOrder _ _ k
  | .shrOrder _ _ k | .sarOrder _ _ k | .rotlOrder _ _ k | .selectOrder _ _ k | .clzOrder _ _ k | .popcntOrder _ _ k
  | .cvtOrder _ _ k | .rndintOrder _ _ k | .quantizeOrder _ _ k | .cvtsatOrder _ _ k | .cmpeqOrder _ _ k
  | .cmpneOrder _ _ k | .cmpltOrder _ _ k | .cmpleOrder _ _ k | .cmpgtOrder _ _ k | .cmpgeOrder _ _ k
  | .cmpunOrder _ _ k | .cmpordOrder _ _ k | .sumOrder _ _ k | .minrOrder _ _ k | .maxrOrder _ _ k | .andrOrder _ _ k
  | .orrOrder _ _ k | .xorrOrder _ _ k | .dotOrder _ _ k | .segsumOrder _ _ k | .segminOrder _ _ k
  | .segmaxOrder _ _ k | .segdotOrder _ _ k | .linrecOrder _ _ k | .psumOrder _ _ k | .psumxOrder _ _ k
  | .segpsumOrder _ _ k | .compressOrder _ _ k | .expandOrder _ _ k | .gatherOrder _ _ k | .scatterOrder _ _ k
  | .scatteraddOrder _ _ k | .spmvOrder _ _ k | .copyOrder _ _ k | .fillOrder _ _ k | .arcappendOrder _ _ k
  | .arcreadOrder _ _ k | .sealfeedOrder _ _ k | .sceneOrder _ _ k | .scalebOrder _ _ k | .logbOrder _ _ k
  | .copysignOrder _ _ k | .classOrder _ _ k => decide (1 ≤ k)
  | .vddAonRise | .resetNRise | .resetNFall | .pfailNFall | .supplyRemoval | .thermNChange .. | .refclkEthStop
  | .refclkEthReturn | .pciePerstNFall | .modectlRehearsal .. | .modectlCustody .. | .modectlCurtain ..
  | .modectlRefit .. | .modeTransitionComplete | .rehearsalEnd | .restraintEnd | .overtemp .. | .calstart ..
  | .functionReady .. | .bootload .. | .bootloadDone | .domainSwitchOff .. | .domainSwitchOn .. | .clamplogRead ..
  | .engRejectRead .. | .engCplerrRead .. | .engTraprepRead .. | .mmrep0Read .. | .fltFirst0Read .. | .cfgCommit ..
  | .cfgPreview .. | .previewDone | .cfgAbort .. | .commitApplied | .placementMove | .digestTimer | .digestStart
  | .digestPublish | .issueOrder .. | .orderStart .. | .orderComplete .. | .recordWritten .. | .tpCycleStart ..
  | .tpSlotBoundary .. | .stallWatchdogExpiry .. | .engSuspend .. | .resumeContinue .. | .resumePass ..
  | .resumeSkip .. | .resumeAbandon .. | .relayCreditReturn .. | .relayEnable .. | .rlyflush .. | .signatureCompare ..
  | .encoreStart .. | .encoreEnd .. | .periodicProof .. | .comparatorSubstitution .. | .repModeWrite ..
  | .enginePairingChange .. | .frclose .. | .frameCloseDeferred .. | .frameClearDone .. | .frameEnable ..
  | .hbmTempRead .. | .hbmBandReturn .. | .hbmRefresh .. | .hbmSoftRepair .. | .retentWrite .. | .scpScrub ..
  | .scpSwap .. | .bankSwapDone .. | .loadResponse .. | .storeDrain .. | .storeResponse .. | .longOpRetire ..
  | .spill .. | .refill .. | .tableReloadDone .. | .calWorldWrite .. | .wsbaseWrite .. | .interruptOffer ..
  | .srcstatPendWrite .. | .eoi .. | .cueFires .. | .cueFirev .. | .grpset .. | .grpclr .. | .rateWindow
  | .cueTimerExpiry .. | .cueInActivation .. | .cueInRepeat .. | .cueStuck .. | .pincfgWrite .. | .cueOutPulseEnd ..
  | .fltInject .. | .alarmPulseEnd | .beatMonitorUpdate .. | .selfTest .. | .deferExpiry | .laneSwap ..
  | .engineMigration .. | .callerSwap .. | .sealUnitSwap .. | .swapLaneCommand .. | .swapEngineCommand ..
  | .swapCallerCommand .. | .swapComparatorCommand .. | .swapSealCommand .. | .recordOpen .. | .folioProgramDone ..
  | .eraseDone .. | .nandReadDone .. | .colophonTimer | .colophonPageProgrammed .. | .folioAgeExpiry ..
  | .mapCheckpoint | .arcWaitLimit .. | .arcRelease .. | .arcAudit .. | .auditEnd | .bootctl .. | .bootStoreDone ..
  | .archiveRecovery | .recoveryDone .. | .flushFinalColophon | .flushEnd | .linkUp .. | .linkDown ..
  | .frameReceive .. | .askustReceive .. | .telegramDelivery .. | .gptpSync .. | .announce .. | .pdelayResp ..
  | .syncTimeout .. | .txtailWrite .. | .txDescriptor .. | .gateIntervalEnd .. | .resync .. | .keydataWrite ..
  | .keyInstall .. | .feedb .. | .feedh .. | .feedw .. | .seaClose .. | .scanlenWrite .. | .scanEnd ..
  | .seaCtlWrite .. | .sqTailDoorbell .. | .cqHeadDoorbell .. | .descriptorFetch .. | .runDesc .. | .copyToFrame ..
  | .configStage .. | .noteDesc .. | .completionWrite .. | .coalesceTimer .. | .ringEnable .. | .ringDisable ..
  | .functionLevelReset .. | .pcieLinkDown | .completionTimeout .. | .bypass | .idcode | .samplePreload .. | .extest
  | .extestPulse | .extestTrain | .trstNLow | .add .. | .sub .. | .and .. | .or .. | .xor .. | .andn .. | .shl ..
  | .shr .. | .sar .. | .rotl .. | .slt .. | .sltu .. | .min .. | .max .. | .minu .. | .maxu .. | .addsat ..
  | .subsat .. | .clz .. | .popcnt .. | .addi .. | .andi .. | .ori .. | .xori .. | .slti .. | .sltiu ..
  | .shiftiShl .. | .shiftiShr .. | .shiftiSar .. | .shiftiRotl .. | .lih .. | .shori .. | .mul .. | .mulh ..
  | .mulhu .. | .mulsat .. | .div .. | .divu .. | .rem .. | .remu .. | .ldb .. | .ldbu .. | .ldh .. | .ldhu ..
  | .ldw .. | .ldwu .. | .ldd .. | .stb .. | .sth .. | .stw .. | .std .. | .beq .. | .bne .. | .blt .. | .bge ..
  | .bltu .. | .bgeu .. | .j .. | .call .. | .jr .. | .callr .. | .ret .. | .fadd .. | .fsub .. | .fmul .. | .fdiv ..
  | .fsqrt .. | .fmin .. | .fmax .. | .fabs .. | .fneg .. | .fcpsgn .. | .fcmpeq .. | .fcmplt .. | .fcmple ..
  | .fcmpun .. | .fclass .. | .frndint .. | .fquant .. | .fscaleb .. | .flogb .. | .fma .. | .fms .. | .fnma ..
  | .cvt .. | .cvtsat .. | .vadd .. | .vsub .. | .vmul .. | .vmulh .. | .vdiv .. | .vsqrt .. | .vmin .. | .vmax ..
  | .vand .. | .vor .. | .vxor .. | .vshl .. | .vshr .. | .vsar .. | .vsel .. | .vcmpeq .. | .vcmpne .. | .vcmplt ..
  | .vcmple .. | .vfma .. | .vfms .. | .vredsum .. | .vredmin .. | .vredmax .. | .vmvx .. | .vld .. | .vst ..
  | .setvl .. | .syncC .. | .syncF .. | .barrier .. | .fenceE .. | .cinvI .. | .cinvIa .. | .cinvD .. | .cinvDa ..
  | .wflush .. | .wait .. | .crr .. | .crw .. | .scall .. | .mcall .. | .brk .. | .retx .. | .cueInInactive ..
  | .pfailNRise | .heldResetNRise | .retentionLate .. | .trstNHigh => true

end Sys2Proof
end

