-- ==== Sys2Proof/Safety.lean ====
section
/-!
DEFINITION. What every command keeps, in the terms that the statements use: the queue and the pace of time belong to the
step, the free values are taken in order, and the registers and memories stay in their one canonical form.
-/
namespace Sys2Proof.Machine

/-- Registers, device memory, its marks and host memory stand in canonical form: keys strictly rise and no entry holds
what an unlisted key reads as. -/
def State.canonical (s : State) : Prop :=
  Tab.wf regReset s.regs = true ∧ Memory.wf s.mem = true ∧ Tab.wf noBad s.eccBad = true ∧
  Tab.wf hostDefault s.hostMem = true

/-- What holds of the state `t` after a command at `s`, whichever command it is. The time base stands still, or starts
anew (R7, R623). -/
structure Keeps (s t : State) : Prop where
  queue : t.pending = s.pending
  beats : t.beats = s.beats
  time : t.time = s.time ∨ t.time = 0
  free : s.free ≤ t.free
  canonical : s.canonical → t.canonical

/-! ### Callers -/

/-- Caller `c` acts on the instruction at its program counter (R402): it issues, the word is fetched, an open shadow has
room, and no long operation in flight has still to write a register that the instruction names. -/
structure Acts (s : State) (c : Nat) (regs : List (BitVec 5)) (vregs : List Nat) : Prop where
  issues : s.issues c = true
  fetched : s.fetch c (s.cal c).pc = .word
  shadow : ∀ h, (s.cal c).shadow = some h → h.count < 8
  free : (s.cal c).clash (regs.flatMap fun r => s.destKeys c r) vregs = false

/-- The registers `r'` are `r` with the keyed values `ks` written; the window and the floating and vector settings stay. -/
structure Puts (r r' : CalRegs) (ks : List (Nat × Word)) : Prop where
  put : ∀ k v, (k, v) ∈ ks → r'.at k = v
  kept : ∀ k, k ∉ ks.map Prod.fst → r'.at k = r.at k
  window : r'.wp = r.wp ∧ r'.resident = r.resident
  vector : r'.vl = r.vl ∧ r'.vtype = r.vtype

/-- Caller `c` with an instruction retired: registers `r`, program counter `pc`; an open shadow counts it (R449), and
`ret` says whether its retirement counts now (R402). -/
def CalSt.after (x : CalSt) (r : CalRegs) (pc : Nat) (ret : Bool) : CalSt :=
  { x with
    r := r
    pc := pc % 2 ^ 48
    want := 0
    shadow := x.shadow.map fun h => { h with count := h.count + 1, ret := h.ret + ret.toNat } }

/-- What an instruction of caller `c` leaves alone: the other callers, device memory, its marks, host memory, the order
queues, and every register but the retirement count of the caller. -/
structure Elsewhere (s t : State) (c : Nat) : Prop where
  others : ∀ k, k ≠ c → t.cal k = s.cal k
  memory : t.mem = s.mem ∧ t.eccBad = s.eccBad ∧ t.hostMem = s.hostMem
  queues : t.queues = s.queues
  regs : ∀ a, a ≠ rCalRetired c → t.reg a = s.reg a

/-- An instruction of caller `c` that names no memory retires: the caller holds `x`, CAL.RETIRED counts outside a shadow,
and nothing else changes. -/
structure Retires (s t : State) (c : Nat) (x : CalSt) (ret : Bool) : Prop extends Elsewhere s t c where
  caller : t.cal c = x
  counted : t.rf (rCalRetired c) fCalRetiredCount =
    if ret = true ∧ (s.cal c).shadow = none then (s.rf (rCalRetired c) fCalRetiredCount + 1) % 2 ^ 48
    else s.rf (rCalRetired c) fCalRetiredCount

/-- An instruction of caller `c` writes `v` to register `d` and retires: `t` is the state once a pending trap is polled. -/
def GivesResult (s t : State) (c : Nat) (d : BitVec 5) (v : Word) : Prop :=
  ∃ u r, t = u.pollTrap c ∧
    Retires s u c ((s.cal c).after r ((s.cal c).pc + 4) true) true ∧
    Puts (s.cal c).r r ((s.destKeys c d).map fun k => (k, v)) ∧
    r.fcsr = (s.cal c).r.fcsr ∧ r.vregs = (s.cal c).r.vregs

/-- Of device memory, exactly the bytes from `a` upward changed, to `bs`. -/
structure Stored (s t : State) (a : Nat) (bs : List Byte) : Prop where
  written : ∀ i, i < bs.length → t.byte (a + i) = bs.getD i 0
  kept : ∀ b, b < a ∨ a + bs.length ≤ b → t.byte b = s.byte b

/-- Instruction `i` of caller `c` completes at `s`: the caller is left as `x`, its retirement counts, nothing else changes but
what the poll of a pending trap does. -/
def Completes (i : Instr) (s : State) (c : Nat) (x : CalSt) : Prop :=
  ∃ u, exec i s = .next (u.pollTrap c) ∧ Retires s u c x true

/-- Exception entry of caller `c` to the set `set` (R445, R456): what it saves, where it goes, and the status there. -/
structure Entered (s t : State) (c : Nat) (set : SaveSet) (cause : Word) (faddr pc : Nat) (tag : Word) (handler : Nat) : Prop where
  saved : (t.cal c).save set =
    ⟨BitVec.ofNat 64 pc, s.statusWord c, BitVec.ofNat 64 (s.cal c).r.wp, cause, BitVec.ofNat 64 (faddr % 2 ^ 48), tag⟩
  others : ∀ z, z ≠ set → (t.cal c).save z = (s.cal c).save z
  goes : (t.cal c).pc = handler
  window : (t.cal c).r.wp = ((s.cal c).r.wp + 1) % 16
  level : (t.cal c).lvl = if set = .m then 3 else 1
  masked : (t.cal c).status.bit 2 = false ∧ (set = .m → (t.cal c).status.bit 3 = false)
  held : (t.cal c).held set = true
  registers : ∀ k, (t.cal c).r.at k = (s.cal c).r.at k
  callers : ∀ k, k ≠ c → t.cal k = s.cal k
  memory : t.mem = s.mem ∧ t.eccBad = s.eccBad ∧ t.hostMem = s.hostMem
  counted : t.rf (rCalExccnt c) fCalExccntEntries = (s.rf (rCalExccnt c) fCalExccntEntries + 1) % 2 ^ fCalExccntEntries.w

/-- A write of a whole register at offset `off` by master `m` reaches register `a`: no commit applies, the offset decodes to
it, the windows of the master allow the write, the block has power, and the master has the level that the register asks for
(R15, R30, R33, R360, R361, R591, R644, R679). -/
structure Reaches (s : State) (m : Master) (off : Nat) (a : RegAt) : Prop where
  idle : s.cfgOpen (s.auth m) off = true
  decodes : cfgDecode off 8 true = some (.reg a)
  allowed : ∃ t, s.check (s.auth m).view .wr (cfgBase + off) = .ok t
  visible : ringHidden (s.auth m) (.reg a) = false
  powered : s.blkOn a = true
  level : a.d.machine = true → (s.auth m).machine = true

/-- Caller `x` with registers `r` as an instruction that raises the flags `f` retires (R404, R449): they accumulate in
CAL.FCSR, in an open shadow with its SYNC.C. -/
def CalSt.raised (x : CalSt) (r : CalRegs) (f : Flags) : CalSt :=
  match x.shadow with
  | none => { x with r := r.addFlags f }
  | some h => { x with r := r, shadow := some { h with evs := h.evs ++ if f = 0 then [] else [.flags f] } }

/-- A short operation on caller `c` with results for the keyed general registers `d` and the vector registers `v`, raising the
flags `f` (R404, R447): without an enabled flag it writes them, its flags accumulate in CAL.FCSR, and it retires; with one
it raises ARITH precisely and writes nothing. -/
def ShortEffect (i : Instr) (s : State) (c : Nat) (d : List (Nat × Word)) (v : List (Nat × Nat)) (f : Flags) : Prop :=
  (f &&& (s.cal c).r.te = 0 →
    let x := (s.cal c).raised ((s.cal c).r.putAll d v) f
    ∃ u, exec i s = .next (u.pollTrap c) ∧ Retires s u c (x.after x.r (x.pc + 4) true) true) ∧
  (f &&& (s.cal c).r.te ≠ 0 →
    exec i s = .next (s.except c excArith (f &&& (s.cal c).r.te).toNat (s.cal c).pc (s.cal c).pc))

/-- A long operation (R400, R403, R447): while one in flight takes its iterative unit it waits; with STATUS.PA = 0 it goes
into flight under a free result tag with its result, its flags and the level at which it issued, and does not retire yet;
with PA = 1 it acts as a short one. -/
def LongEffect (i : Instr) (s : State) (c : Nat) (d : List (Nat × Word)) (v : List (Nat × Nat)) (f : Flags) (unit : Nat) :
    Prop :=
  let busy : Prop := unit ≠ 0 ∧ ∃ l ∈ (s.cal c).longs, l.unit = unit
  (busy → exec i s = .next s) ∧
  (¬ busy → (s.cal c).status.bit 6 = false → ∀ t, (s.cal c).freeTag = some t →
    ∃ u, exec i s = .next (u.pollTrap c) ∧
      Retires s u c
        { (s.cal c).after (s.cal c).r ((s.cal c).pc + 4) false with
          longs := (s.cal c).longs ++
            [⟨t, (s.cal c).pc, (s.cal c).lvl, d, v, f, (s.cal c).shadow.isSome, (s.cal c).shadow.isSome, unit⟩]
          nextTag := (t + 1) % 32 } false) ∧
  (¬ busy → (s.cal c).status.bit 6 = true → ShortEffect i s c d v f)

end Sys2Proof.Machine
end

