-- ==== Sys2Proof/Certificates/Slice0/Obligations.lean ====
section
/-!
DEFINITION. The statements of slice 0: what the rules of spec/ say that the machine and each of its commands do.
-/

open Sys2Proof Sys2Proof.Machine

/-! ### Callers: integer instructions -/

/-- An integer instruction that always has a result (R399): its caller, the register it writes, the registers it names, and
the result on the registers' values. -/
def integerResult (s : State) : Instr → Option (Nat × BitVec 5 × List (BitVec 5) × Word)
  | .add c d a b => some (c.toNat, d, [d, a, b], s.gpr c.toNat a + s.gpr c.toNat b)
  | .sub c d a b => some (c.toNat, d, [d, a, b], s.gpr c.toNat a - s.gpr c.toNat b)
  | .and c d a b => some (c.toNat, d, [d, a, b], s.gpr c.toNat a &&& s.gpr c.toNat b)
  | .or c d a b => some (c.toNat, d, [d, a, b], s.gpr c.toNat a ||| s.gpr c.toNat b)
  | .xor c d a b => some (c.toNat, d, [d, a, b], s.gpr c.toNat a ^^^ s.gpr c.toNat b)
  | .andn c d a b => some (c.toNat, d, [d, a, b], s.gpr c.toNat a &&& ~~~(s.gpr c.toNat b))
  | .shl c d a b => some (c.toNat, d, [d, a, b], s.gpr c.toNat a <<< ((s.gpr c.toNat b).toNat % 64))
  | .shr c d a b => some (c.toNat, d, [d, a, b], s.gpr c.toNat a >>> ((s.gpr c.toNat b).toNat % 64))
  | .sar c d a b => some (c.toNat, d, [d, a, b], (s.gpr c.toNat a).sshiftRight ((s.gpr c.toNat b).toNat % 64))
  | .rotl c d a b => some (c.toNat, d, [d, a, b], (s.gpr c.toNat a).rotateLeft ((s.gpr c.toNat b).toNat % 64))
  | .slt c d a b =>
    some (c.toNat, d, [d, a, b], if (s.gpr c.toNat a).toInt < (s.gpr c.toNat b).toInt then 1 else 0)
  | .sltu c d a b =>
    some (c.toNat, d, [d, a, b], if (s.gpr c.toNat a).toNat < (s.gpr c.toNat b).toNat then 1 else 0)
  | .min c d a b =>
    some (c.toNat, d, [d, a, b], BitVec.ofInt 64 (Min.min (s.gpr c.toNat a).toInt (s.gpr c.toNat b).toInt))
  | .max c d a b =>
    some (c.toNat, d, [d, a, b], BitVec.ofInt 64 (Max.max (s.gpr c.toNat a).toInt (s.gpr c.toNat b).toInt))
  | .minu c d a b =>
    some (c.toNat, d, [d, a, b], BitVec.ofNat 64 (Min.min (s.gpr c.toNat a).toNat (s.gpr c.toNat b).toNat))
  | .maxu c d a b =>
    some (c.toNat, d, [d, a, b], BitVec.ofNat 64 (Max.max (s.gpr c.toNat a).toNat (s.gpr c.toNat b).toNat))
  | .clz c d a _ => some (c.toNat, d, [d, a], BitVec.ofNat 64 (64 - (if s.gpr c.toNat a = 0 then 0 else (s.gpr c.toNat a).toNat.log2 + 1)))
  | .popcnt c d a _ =>
    some (c.toNat, d, [d, a], BitVec.ofNat 64 ((List.range 64).countP fun i => (s.gpr c.toNat a).getLsbD i))
  | .addi c d a imm => some (c.toNat, d, [d, a], s.gpr c.toNat a + imm.signExtend 64)
  | .andi c d a imm => some (c.toNat, d, [d, a], s.gpr c.toNat a &&& imm.zeroExtend 64)
  | .ori c d a imm => some (c.toNat, d, [d, a], s.gpr c.toNat a ||| imm.zeroExtend 64)
  | .xori c d a imm => some (c.toNat, d, [d, a], s.gpr c.toNat a ^^^ imm.zeroExtend 64)
  | .slti c d a imm => some (c.toNat, d, [d, a], if (s.gpr c.toNat a).toInt < imm.toInt then 1 else 0)
  | .sltiu c d a imm => some (c.toNat, d, [d, a], if (s.gpr c.toNat a).toNat < (imm.signExtend 64).toNat then 1 else 0)
  | .shiftiShl c d a n => some (c.toNat, d, [d, a], s.gpr c.toNat a <<< n.toNat)
  | .shiftiShr c d a n => some (c.toNat, d, [d, a], s.gpr c.toNat a >>> n.toNat)
  | .shiftiSar c d a n => some (c.toNat, d, [d, a], (s.gpr c.toNat a).sshiftRight n.toNat)
  | .shiftiRotl c d a n => some (c.toNat, d, [d, a], (s.gpr c.toNat a).rotateLeft n.toNat)
  | .lih c d _ imm => some (c.toNat, d, [d], imm.signExtend 64 <<< 16)
  | .shori c d a imm => some (c.toNat, d, [d, a], (s.gpr c.toNat a <<< 16) ||| imm.zeroExtend 64)
  | .mul c d a b => some (c.toNat, d, [d, a, b], s.gpr c.toNat a * s.gpr c.toNat b)
  | .mulh c d a b =>
    some (c.toNat, d, [d, a, b], BitVec.ofInt 64 ((s.gpr c.toNat a).toInt * (s.gpr c.toNat b).toInt / 2 ^ 64))
  | .mulhu c d a b =>
    some (c.toNat, d, [d, a, b], BitVec.ofNat 64 ((s.gpr c.toNat a).toNat * (s.gpr c.toNat b).toNat / 2 ^ 64))
  | _ => none

/-- An integer instruction of R399 writes its result to d, raises nothing, and retires: no other register, no flag and
no memory changes. The model's own choices that its clauses rest on: log entry 104, the command names the instruction;
log entry 106, unused fields are ignored. -/
def Obligations.IntegerInstructionsWriteTheirResults : Prop :=
  ∀ (i : Instr) (s : State) (c : Nat) (d : BitVec 5) (named : List (BitVec 5)) (v : Word),
    integerResult s i = some (c, d, named, v) → Acts s c named [] →
    ∃ t, exec i s = .next t ∧ GivesResult s t c d v

/-! ### Callers: results with flags, long operations -/

/-- The nearest signed 64-bit value. -/
def nearest64 (x : Int) : Int := max (-2 ^ 63) (min (2 ^ 63 - 1) x)

/-- The exact result that a saturating instruction limits. -/
def saturatingResult (s : State) : Instr → Option (Nat × BitVec 5 × List (BitVec 5) × Int)
  | .addsat c d a b => some (c.toNat, d, [d, a, b], (s.gpr c.toNat a).toInt + (s.gpr c.toNat b).toInt)
  | .subsat c d a b => some (c.toNat, d, [d, a, b], (s.gpr c.toNat a).toInt - (s.gpr c.toNat b).toInt)
  | .mulsat c d a b => some (c.toNat, d, [d, a, b], (s.gpr c.toNat a).toInt * (s.gpr c.toNat b).toInt)
  | _ => none

/-- ADDSAT, SUBSAT and MULSAT give the signed 64-bit value nearest to the exact result, with OF where it differs (R399).
The model's own choices that its clauses rest on: log entry 104, the command names the instruction. -/
def Obligations.SaturatingInstructionsLimitAndFlag : Prop :=
  ∀ (i : Instr) (s : State) (c : Nat) (d : BitVec 5) (named : List (BitVec 5)) (x : Int),
    saturatingResult s i = some (c, d, named, x) → Acts s c named [] →
    ShortEffect i s c ((s.destKeys c d).map fun k => (k, BitVec.ofInt 64 (nearest64 x))) []
      (if x = nearest64 x then 0 else flOF)

/-- The result of an integer division with its flags (R110, R399): toward zero; by zero a quotient of 0, or the dividend as
remainder, with DZ. -/
def divisionResult (s : State) : Instr → Option (Nat × BitVec 5 × List (BitVec 5) × Word × Flags)
  | .div c d a b => some (c.toNat, d, [d, a, b],
      if s.gpr c.toNat b = 0 then (0, flDZ)
      else (BitVec.ofInt 64 ((s.gpr c.toNat a).toInt.tdiv (s.gpr c.toNat b).toInt), 0))
  | .divu c d a b => some (c.toNat, d, [d, a, b],
      if s.gpr c.toNat b = 0 then (0, flDZ) else (s.gpr c.toNat a / s.gpr c.toNat b, 0))
  | .rem c d a b => some (c.toNat, d, [d, a, b],
      if s.gpr c.toNat b = 0 then (s.gpr c.toNat a, flDZ)
      else (BitVec.ofInt 64 ((s.gpr c.toNat a).toInt.tmod (s.gpr c.toNat b).toInt), 0))
  | .remu c d a b => some (c.toNat, d, [d, a, b],
      if s.gpr c.toNat b = 0 then (s.gpr c.toNat a, flDZ) else (s.gpr c.toNat a % s.gpr c.toNat b, 0))
  | _ => none

/-- DIV, DIVU, REM and REMU are long operations of the divider with the result and the flag of R110 and R399.
LONG_OP_RETIRE (R403, R404, R449): the operation with the tag that is named writes its results, in an open shadow also
into the registers that the shadow would restore, its flags accumulate, it leaves flight and counts in CAL.RETIRED; an
enabled flag raises an imprecise ARITH trap. One that issued in a shadow still open stays in flight; those of a shadow
that has closed retire in program order. The model's own choices that its clauses rest on: log entry 104, the command
names the instruction; log entry 105, long operations otherwise retire in the order commanded. -/
def Obligations.LongOperationsFlyAndRetire : Prop :=
  (∀ (i : Instr) (s : State) (c : Nat) (d : BitVec 5) (named : List (BitVec 5)) (v : Word) (f : Flags),
     divisionResult s i = some (c, d, named, v, f) → Acts s c named [] →
     LongEffect i s c ((s.destKeys c d).map fun k => (k, v)) [] f 1) ∧
  (∀ (s : State) (c : BitVec 3) (t : BitVec 5) (l : LongOp),
     (s.cal c.toNat).longs.find? (fun l => l.tag == t.toNat) = some l → l.inShadow = true →
     exec (.longOpRetire c t) s = .next s) ∧
  (∀ (s : State) (c : BitVec 3) (t : BitVec 5) (l : LongOp),
     (s.cal c.toNat).longs.find? (fun l => l.tag == t.toNat) = some l → l.inShadow = false →
     (l.shadowed = true → ∀ m ∈ (s.cal c.toNat).longs.takeWhile (fun m => m.tag != t.toNat), m.shadowed = false) →
     let put := fun (r : CalRegs) => (r.putAll l.dest l.vdest).addFlags l.flags
     ∃ u, (u.cal c.toNat = { s.cal c.toNat with
         r := put (s.cal c.toNat).r
         longs := (s.cal c.toNat).longs.filter fun m => m.tag != t.toNat
         shadow := (s.cal c.toNat).shadow.map fun h => { h with snap := put h.snap } }) ∧
       Elsewhere s u c.toNat ∧
       u.rf (rCalRetired c.toNat) fCalRetiredCount = (s.rf (rCalRetired c.toNat) fCalRetiredCount + 1) % 2 ^ 48 ∧
       (let e := l.flags &&& (put (s.cal c.toNat).r).te
        (e = 0 → exec (.longOpRetire c t) s = .next (u.pollTrap c.toNat)) ∧
        (e ≠ 0 → exec (.longOpRetire c t) s = .next (u.addTrap c.toNat
           ⟨causeImp (causeWord excArith e.toNat 0), BitVec.ofNat 64 l.pc, BitVec.ofNat 64 (t.toNat + 32), l.lvl⟩))))

/-- Registers of a caller (R390 to R392): g0 reads as zero and discards a write; another register reads back what was
written to it, and a write to it changes no other register of the window; p0 to p7 are a0 to a7 of the next window.
Elements of an ensemble (R406): the elements that are written read back, and every other element keeps its value. R390
is stated whole; the clauses on the window and on ensembles rest on the same section. -/
def Obligations.RegistersReadBackWhatIsWritten : Prop :=
  ((∀ s c, State.gpr s c 0 = 0) ∧ (∀ s c v, State.setGpr s c 0 v = s) ∧
   (∀ s c d v, d ≠ 0 →
     (State.setGpr s c d v).gpr c d = v ∧ ∀ r, r ≠ d → (State.setGpr s c d v).gpr c r = s.gpr c r) ∧
   (∀ wp r, r < 8 → gprKey wp (24 + r) = gprKey ((wp + 1) % 16) (8 + r)) ∧
   (∀ wp r x, r < 32 → x < 32 → gprKey wp r = gprKey wp x → r = x)) ∧
  (∀ (r : CalRegs) (w n : Nat) (vs : List (Nat × Nat)), w ∈ [8, 16, 32, 64] → n < 32 → n % r.ens = 0 →
     (vs.map Prod.fst).Nodup → (∀ v ∈ vs, v.1 < r.ens * (512 / w)) →
     let t := r.putAll [] (r.putElems w n vs)
     (∀ v ∈ vs, t.elem w n v.1 = v.2 % 2 ^ w) ∧
     (∀ i, i < r.ens * (512 / w) → i ∉ vs.map Prod.fst → t.elem w n i = r.elem w n i) ∧
     (∀ m, m < 32 → (m < n ∨ n + r.ens ≤ m) → t.vreg m = r.vreg m))

/-! ### Callers: floating, decimal and vector instructions -/

/-- A floating or decimal instruction (R395 to R399): caller, operation, the types of its sources and of its result, ROUND, its
destination and sources, and whether its result is an integer in one register. -/
structure FpForm where
  c : Nat
  op : Op
  t : ETy
  u : ETy
  rnd : BitVec 3
  d : BitVec 5
  srcs : List (BitVec 5)
  whole : Bool

/-- Two operands of the type `ty`, or one with s2 = 0. -/
def fpTwo (c : BitVec 3) (d s1 s2 : BitVec 5) (rnd ty : BitVec 3) (op : Op) (whole : Bool := false) :
    Option FpForm :=
  (fpType ty).map fun t => ⟨c.toNat, op, t, t, rnd, d, [s1, s2], whole⟩
def fpOne (c : BitVec 3) (d s1 s2 : BitVec 5) (rnd ty : BitVec 3) (op : Op) (whole : Bool := false) :
    Option FpForm :=
  if s2 = 0 then (fpType ty).map fun t => ⟨c.toNat, op, t, t, rnd, d, [s1], whole⟩ else none
def fpThree (c : BitVec 3) (d s1 s2 s3 : BitVec 5) (rnd ty : BitVec 3) (op : Op) : Option FpForm :=
  (fpType ty).map fun t => ⟨c.toNat, op, t, t, rnd, d, [s1, s2, s3], false⟩
def fpConvert (c : BitVec 3) (d s1 : BitVec 5) (sty tty : BitVec 4) (rnd : BitVec 3) (op : Op) : Option FpForm :=
  if sty.toNat < 14 ∧ tty.toNat < 14 then
    some ⟨c.toNat, op, ETy.ofCode sty.toNat, ETy.ofCode tty.toNat, rnd, d, [s1], false⟩
  else none

/-- The caller of a floating or decimal instruction. -/
def fpCaller : Instr → Option Nat
  | .fadd c _ _ _ _ _ | .fsub c _ _ _ _ _ | .fmul c _ _ _ _ _ | .fdiv c _ _ _ _ _ | .fsqrt c _ _ _ _ _
  | .fmin c _ _ _ _ _ | .fmax c _ _ _ _ _ | .fabs c _ _ _ _ _ | .fneg c _ _ _ _ _ | .fcpsgn c _ _ _ _ _
  | .fcmpeq c _ _ _ _ _ | .fcmplt c _ _ _ _ _ | .fcmple c _ _ _ _ _ | .fcmpun c _ _ _ _ _ | .fclass c _ _ _ _ _
  | .frndint c _ _ _ _ _ | .fquant c _ _ _ _ _ | .fscaleb c _ _ _ _ _ | .flogb c _ _ _ _ _
  | .fma c _ _ _ _ _ _ | .fms c _ _ _ _ _ _ | .fnma c _ _ _ _ _ _ | .cvt c _ _ _ _ _ | .cvtsat c _ _ _ _ _ => some c.toNat
  | _ => none

/-- The form of an instruction whose TYPE and s2 fields name one. -/
def fpForm : Instr → Option FpForm
  | .fadd c d s1 s2 rnd ty => fpTwo c d s1 s2 rnd ty .add
  | .fsub c d s1 s2 rnd ty => fpTwo c d s1 s2 rnd ty .sub
  | .fmul c d s1 s2 rnd ty => fpTwo c d s1 s2 rnd ty .mul
  | .fdiv c d s1 s2 rnd ty => fpTwo c d s1 s2 rnd ty .div
  | .fsqrt c d s1 s2 rnd ty => fpOne c d s1 s2 rnd ty .sqrt
  | .fmin c d s1 s2 rnd ty => fpTwo c d s1 s2 rnd ty .min
  | .fmax c d s1 s2 rnd ty => fpTwo c d s1 s2 rnd ty .max
  | .fabs c d s1 s2 rnd ty => fpOne c d s1 s2 rnd ty .abs
  | .fneg c d s1 s2 rnd ty => fpOne c d s1 s2 rnd ty .neg
  | .fcpsgn c d s1 s2 rnd ty => fpTwo c d s1 s2 rnd ty .copysign
  | .fcmpeq c d s1 s2 rnd ty => fpTwo c d s1 s2 rnd ty (.cmp .eq) true
  | .fcmplt c d s1 s2 rnd ty => fpTwo c d s1 s2 rnd ty (.cmp .lt) true
  | .fcmple c d s1 s2 rnd ty => fpTwo c d s1 s2 rnd ty (.cmp .le) true
  | .fcmpun c d s1 s2 rnd ty => fpTwo c d s1 s2 rnd ty (.cmp .un) true
  | .fclass c d s1 s2 rnd ty => fpOne c d s1 s2 rnd ty .cls true
  | .frndint c d s1 s2 rnd ty => fpOne c d s1 s2 rnd ty .rndint
  | .fquant c d s1 s2 rnd ty => fpTwo c d s1 s2 rnd ty .quantize
  | .fscaleb c d s1 s2 rnd ty => fpTwo c d s1 s2 rnd ty .scaleb
  | .flogb c d s1 s2 rnd ty => fpOne c d s1 s2 rnd ty .logb
  | .fma c d s1 s2 s3 rnd ty => fpThree c d s1 s2 s3 rnd ty .fma
  | .fms c d s1 s2 s3 rnd ty => fpThree c d s1 s2 s3 rnd ty .fms
  | .fnma c d s1 s2 s3 rnd ty => fpThree c d s1 s2 s3 rnd ty .fnma
  | .cvt c d s1 sty tty rnd => fpConvert c d s1 sty tty rnd .cvt
  | .cvtsat c d s1 sty tty rnd =>
    (fpConvert c d s1 sty tty rnd .cvtsat).bind fun x => if x.u.isInt then some x else none
  | _ => none

/-- The registers that the instruction names. -/
def FpForm.named (x : FpForm) : List (BitVec 5) :=
  x.srcs.flatMap (regsOfTy x.t) ++ (if x.whole then [x.d] else regsOfTy x.u x.d)

/-- R395, R396, R398: ROUND names a mode, 100 of a decimal operation alone; the operation takes the type; a DEC128 value lies
in a pair with an even number other than g0. -/
def FpForm.Legal (x : FpForm) : Prop :=
  x.rnd.toNat < 6 ∧ (x.rnd = 4 → x.t.isDec = true ∨ x.u.isDec = true) ∧
  (x.op = .cvt ∨ x.op = .cvtsat ∨ x.op.types x.t = true) ∧
  (∀ r ∈ x.srcs, isDec128 x.t = true → r.toNat % 2 = 0 ∧ r ≠ 0) ∧
  (x.whole = false → isDec128 x.u = true → x.d.toNat % 2 = 0 ∧ x.d ≠ 0)

/-- The result with its flags, by the arithmetic that the engines share (R247). -/
def FpForm.value (x : FpForm) (s : State) : Res :=
  let v := fun k => match x.srcs[k]? with | some r => s.fpr x.c x.t r | none => 0
  opVal x.op ⟨x.t, x.u, orderRnd x.rnd.toNat ((s.cal x.c).r.fcsr.fld 0 3) (if x.u.isFlt then x.u.isDec else x.t.isDec), false⟩ (v 0) (v 1) (v 2)

/-- Division, square root and the decimal multiplications are long (R403). -/
def FpForm.long (x : FpForm) : Bool :=
  x.op == .div || x.op == .sqrt || (x.t.isDec && (x.op == .mul || x.op == .fma || x.op == .fms || x.op == .fnma))

/-- The iterative unit that division and square root take, one of the FP and one of the decimal unit (R400). -/
def FpForm.iterative (x : FpForm) : Nat :=
  if x.op == .div || x.op == .sqrt then (if x.t.isDec then 3 else 2) else 0

/-- Floating and decimal instructions (R395 to R400, R403): a legal form writes the result of its operation, as a short
or a long operation; any other form raises ILLEGAL. The model's own choices that its clauses rest on: log entry 104, the
command names the instruction; log entry 106, unused fields are ignored. -/
def Obligations.FloatingInstructionsWriteTheirResults : Prop :=
  (∀ (i : Instr) (s : State) (x : FpForm), fpForm i = some x → x.Legal → Acts s x.c x.named [] →
    let d := if x.whole then (s.destKeys x.c x.d).map fun k => (k, BitVec.ofNat 64 (x.value s).1)
      else s.fpDest x.c x.u x.d (x.value s).1
    if x.long then LongEffect i s x.c d [] (x.value s).2 x.iterative else ShortEffect i s x.c d [] (x.value s).2) ∧
  (∀ (i : Instr) (s : State) (c : Nat), fpCaller i = some c → (∀ x, fpForm i = some x → ¬ x.Legal) →
    s.issues c = true → s.fetch c (s.cal c).pc = .word →
    ∃ word, exec i s = .next (s.except c excIllegal 0 word (s.cal c).pc))

/-- What a vector instruction of R407 does. -/
inductive VecKind where
  | each (op : Op) (one : Bool)
  | compare (k : Cmp)
  | select
  | reduce (op : Op)
  | toGeneral

/-- A vector instruction with its operands. -/
structure VecForm where
  c : Nat
  kind : VecKind
  vd : BitVec 5
  vs1 : BitVec 5
  vs2 : BitVec 5
  masked : Bool
  scalar : Bool

def vecForm : Instr → Option VecForm
  | .vadd c d a b m x => some ⟨c.toNat, .each .add false, d, a, b, m, x⟩
  | .vsub c d a b m x => some ⟨c.toNat, .each .sub false, d, a, b, m, x⟩
  | .vmul c d a b m x => some ⟨c.toNat, .each .mul false, d, a, b, m, x⟩
  | .vmulh c d a b m x => some ⟨c.toNat, .each .mulhi false, d, a, b, m, x⟩
  | .vdiv c d a b m x => some ⟨c.toNat, .each .div false, d, a, b, m, x⟩
  | .vsqrt c d a b m x => some ⟨c.toNat, .each .sqrt true, d, a, b, m, x⟩
  | .vmin c d a b m x => some ⟨c.toNat, .each .min false, d, a, b, m, x⟩
  | .vmax c d a b m x => some ⟨c.toNat, .each .max false, d, a, b, m, x⟩
  | .vand c d a b m x => some ⟨c.toNat, .each .and false, d, a, b, m, x⟩
  | .vor c d a b m x => some ⟨c.toNat, .each .or false, d, a, b, m, x⟩
  | .vxor c d a b m x => some ⟨c.toNat, .each .xor false, d, a, b, m, x⟩
  | .vshl c d a b m x => some ⟨c.toNat, .each .shl false, d, a, b, m, x⟩
  | .vshr c d a b m x => some ⟨c.toNat, .each .shr false, d, a, b, m, x⟩
  | .vsar c d a b m x => some ⟨c.toNat, .each .sar false, d, a, b, m, x⟩
  | .vfma c d a b m x => some ⟨c.toNat, .each .fma false, d, a, b, m, x⟩
  | .vfms c d a b m x => some ⟨c.toNat, .each .fms false, d, a, b, m, x⟩
  | .vsel c d a b m x => some ⟨c.toNat, .select, d, a, b, m, x⟩
  | .vcmpeq c d a b m x => some ⟨c.toNat, .compare .eq, d, a, b, m, x⟩
  | .vcmpne c d a b m x => some ⟨c.toNat, .compare .ne, d, a, b, m, x⟩
  | .vcmplt c d a b m x => some ⟨c.toNat, .compare .lt, d, a, b, m, x⟩
  | .vcmple c d a b m x => some ⟨c.toNat, .compare .le, d, a, b, m, x⟩
  | .vredsum c d a b m x => some ⟨c.toNat, .reduce .sum, d, a, b, m, x⟩
  | .vredmin c d a b m x => some ⟨c.toNat, .reduce .minr, d, a, b, m, x⟩
  | .vredmax c d a b m x => some ⟨c.toNat, .reduce .maxr, d, a, b, m, x⟩
  | .vmvx c d a b m x => some ⟨c.toNat, .toGeneral, d, a, b, m, x⟩
  | _ => none

/-- R406, R407: every ensemble starts at a multiple of its size, and the operation takes the type. -/
def VecForm.legal (x : VecForm) (s : State) : Bool :=
  let r := (s.cal x.c).r
  let second := x.scalar || r.aligned x.vs2
  match x.kind with
  | .each op one => op.types r.vty && r.aligned x.vd && r.aligned x.vs1 && (one || second)
  | .compare _ => r.aligned x.vs1 && second
  | .select => r.aligned x.vd && r.aligned x.vs1 && second
  | .reduce _ => r.aligned x.vd && r.aligned x.vs1
  | .toGeneral => r.aligned x.vs1

/-- The general and the vector registers that the instruction names. -/
def VecForm.general (x : VecForm) : List (BitVec 5) :=
  (match x.kind with | .toGeneral => [x.vd] | _ => []) ++ (if x.scalar then [x.vs2] else [])
def VecForm.vectors (x : VecForm) (s : State) : List Nat :=
  let r := (s.cal x.c).r
  0 :: match x.kind with
    | .each _ _ | .select => r.group x.vd ++ r.group x.vs1 ++ r.group x.vs2
    | .compare _ => x.vd.toNat :: (r.group x.vs1 ++ r.group x.vs2)
    | .reduce _ => r.group x.vd ++ r.group x.vs1
    | .toGeneral => r.group x.vs1

/-- The elements that an element-wise instruction, a compare or a selection gives: number, result, flags. -/
def VecForm.elements (x : VecForm) (s : State) : List (Nat × Res) :=
  let r := (s.cal x.c).r
  let w := r.vty.w
  let a := fun i => r.elem w x.vs1.toNat i
  let b := fun i => s.vs2 x.c w x.vs2 x.scalar i
  match x.kind with
  | .each op _ =>
    (r.active x.masked).map fun i => (i, opVal op (s.fpCtx x.c r.vty r.vty 5) (a i) (b i) (r.elem w x.vd.toNat i))
  | .compare k => (r.active x.masked).map fun i => (i, ((cmpVal r.vty false k (a i) (b i)).1.toNat, (cmpVal r.vty false k (a i) (b i)).2))
  | .select => (r.active false).map fun i => (i, (if (r.vreg 0).testBit i then a i else b i, 0))
  | .reduce _ | .toGeneral => []

/-- The flags of every element. -/
def flagsOf (vs : List (Nat × Res)) : Flags := vs.foldl (fun f v => f ||| v.2.2) 0

/-- Vector instructions (R403, R406, R407): a long operation that writes each active element, the compare bits of vd,
element 0 of vd, or a general register; a lone element of a reduction is delivered as arithmetic delivers it; a
reduction without an active element leaves its result open; another form raises ILLEGAL. The model's own choices that
its clauses rest on: log entry 104, the command names the instruction; log entry 124, bitwise operations do not take
floating types, and an empty reduction leaves its result open. -/
def Obligations.VectorInstructionsWriteTheirElements : Prop :=
  (∀ (i : Instr) (s : State) (x : VecForm), vecForm i = some x → x.legal s = true → Acts s x.c x.general (x.vectors s) →
    let r := (s.cal x.c).r
    let w := r.vty.w
    match x.kind with
    | .each _ _ | .select =>
      LongEffect i s x.c [] (r.putElems w x.vd.toNat ((x.elements s).map fun v => (v.1, v.2.1))) (flagsOf (x.elements s)) 0
    | .compare _ =>
      LongEffect i s x.c [] [(x.vd.toNat, (x.elements s).foldl (fun y v => putElem 1 v.1 y v.2.1) (r.vreg x.vd.toNat))]
        (flagsOf (x.elements s)) 0
    | .reduce op =>
      let y := vecReduce op (s.fpCtx x.c r.vty r.vty 5) ((r.active x.masked).map fun i => (i, r.elem w x.vs1.toNat i))
      (∀ v, y.1 = some v →
        let z := deliverVal r.vty false v
        LongEffect i s x.c [] (r.putElems w x.vd.toNat [(0, z.1)]) (y.2 ||| z.2) 0) ∧
      (y.1 = none → ∃ v, v < 2 ^ w ∧ LongEffect i s x.c [] (r.putElems w x.vd.toNat [(0, v)]) 0 0)
    | .toGeneral => LongEffect i s x.c (s.fpDest x.c r.vty x.vd (r.elem w x.vs1.toNat 0)) [] 0 0) ∧
  (∀ (i : Instr) (s : State) (x : VecForm), vecForm i = some x → x.legal s = false →
    s.issues x.c = true → s.fetch x.c (s.cal x.c).pc = .word →
    ∃ word, exec i s = .next (s.except x.c excIllegal 0 word (s.cal x.c).pc))

/-! ### Callers: loads and stores -/

/-- A scalar load (R420): caller, d, s1, offset, size in bytes, sign extension. -/
def loadForm : Instr → Option (Nat × BitVec 5 × BitVec 5 × BitVec 16 × Nat × Bool)
  | .ldb c d a k => some (c.toNat, d, a, k, 1, true)
  | .ldbu c d a k => some (c.toNat, d, a, k, 1, false)
  | .ldh c d a k => some (c.toNat, d, a, k, 2, true)
  | .ldhu c d a k => some (c.toNat, d, a, k, 2, false)
  | .ldw c d a k => some (c.toNat, d, a, k, 4, true)
  | .ldwu c d a k => some (c.toNat, d, a, k, 4, false)
  | .ldd c d a k => some (c.toNat, d, a, k, 8, false)
  | _ => none

/-- A scalar store: caller, d, s1, offset, size. -/
def storeForm : Instr → Option (Nat × BitVec 5 × BitVec 5 × BitVec 16 × Nat)
  | .stb c d a k => some (c.toNat, d, a, k, 1)
  | .sth c d a k => some (c.toNat, d, a, k, 2)
  | .stw c d a k => some (c.toNat, d, a, k, 4)
  | .std c d a k => some (c.toNat, d, a, k, 8)
  | _ => none

/-- The register value of loaded bytes: little-endian (R8), sign- or zero-extended. -/
def loadValue (size : Nat) (signed : Bool) (bs : List Byte) : Word :=
  if signed then (BitVec.ofNat (8 * size) (ofLeBytes bs)).signExtend 64 else BitVec.ofNat 64 (ofLeBytes bs)

/-- Memory and boot ROM are what the store buffer forwards for and the data cache holds (R416, R421). -/
def isMemory : Target → Bool
  | .mem _ | .rom _ => true
  | _ => false

/-- Load instruction `i` of caller `c` issues and does not retire yet: it joins the loads in flight as `l`; `t` is the state
that it finds. -/
def Joins (i : Instr) (s t : State) (c : Nat) (l : LoadSt) : Prop :=
  ∃ u, exec i s = .next u ∧ Retires t u c
    { (t.cal c).after (t.cal c).r ((t.cal c).pc + 4) false with lds := (t.cal c).lds ++ [l] } false

/-- Scalar loads (R402, R416, R418, R420 to R422, R440): a misaligned one raises ALIGN, a refused one LOAD; data in the
store buffer or the data cache retire it at once; else it is in flight until its response; a parity error drops the line
and makes it a miss. A load of the configuration space or of the host window waits for the store buffer to empty. Behind
loads that have not retired, a load of memory goes into flight too. The model's own choices that its clauses rest on:
log entry 104, the command names the instruction; log entry 105, loads retire in program order; log entry 117, a load of
the configuration space waits for the store buffer; log entry 122, the cache is looked up by device address. -/
def Obligations.LoadsReturnTheirBytes : Prop :=
  (∀ (i : Instr) (s : State) (c : Nat) (d s1 : BitVec 5) (imm : BitVec 16) (size : Nat) (signed : Bool),
    loadForm i = some (c, d, s1, imm, size, signed) → Acts s c [d, s1] [] →
    let x := s.cal c
    let a := (s.gpr c s1 + imm.signExtend 64).toNat
    let asks := fun cached => Joins i s s c ⟨x.pc, d.toNat, a, size, signed, cached, .wait, s.time⟩
    (a % size ≠ 0 → exec i s = .next (s.except c excAlign 0 a x.pc)) ∧
    (a % size = 0 →
      (∀ e, s.dataCheck c .rd a = .error e →
        exec i s = .next ((s.refuse (s.calAuth c x.lvl) e a).except c excLoad e.kind a x.pc)) ∧
      (∀ t, s.dataCheck c .rd a = .ok t →
        (isMemory t = true →
          (∀ bs, x.forward a size = .bytes bs → ∃ u, exec i s = .next u ∧ GivesResult s u c d (loadValue size signed bs)) ∧
          (x.forward a size = .wait → exec i s = .next s) ∧
          (x.forward a size = .none →
            (s.cached c a = false → asks false) ∧
            (s.cached c a = true → x.line a = none → asks true) ∧
            (s.cached c a = true → s.parityAt c a = true → (∃ l, x.line a = some l) →
              Joins i s (s.lineParity c a) c ⟨x.pc, d.toNat, a, size, signed, true, .wait, s.time⟩) ∧
            (s.cached c a = true → s.parityAt c a = false → ∀ l, x.line a = some l →
              ∃ u, exec i s = .next u ∧ GivesResult s u c d (loadValue size signed ((l.drop (a % 64)).take size))))) ∧
        (isMemory t = false → (x.sb = [] → asks false) ∧ (x.sb ≠ [] → exec i s = .next s))))) ∧
  (∀ (i : Instr) (s : State) (c : Nat) (d s1 : BitVec 5) (imm : BitVec 16) (size : Nat) (signed : Bool) (t : Target),
    loadForm i = some (c, d, s1, imm, size, signed) →
    let x := s.cal c
    let a := (s.gpr c s1 + imm.signExtend 64).toNat
    s.runs c = true → x.lds ≠ [] → x.lds.length < 16 → x.lds.length + x.longs.length < 32 → s.fetch c x.pc = .word →
    (∀ h, x.shadow = some h → h.count < 8) → x.clash ([d, s1].flatMap fun r => s.destKeys c r) [] = false →
    a % size = 0 → s.dataCheck c .rd a = .ok t → isMemory t = true →
    (∀ bs, x.forward a size = .bytes bs → Joins i s s c ⟨x.pc, d.toNat, a, size, signed, false, .bytes bs, s.time⟩) ∧
    (x.forward a size = .wait → exec i s = .next s) ∧
    (x.forward a size = .none → s.cached c a = false → Joins i s s c ⟨x.pc, d.toNat, a, size, signed, false, .wait, s.time⟩) ∧
    (x.forward a size = .none → s.cached c a = true → x.line a = none →
      Joins i s s c ⟨x.pc, d.toNat, a, size, signed, true, .wait, s.time⟩) ∧
    (x.forward a size = .none → s.cached c a = true → s.parityAt c a = false → ∀ l, x.line a = some l →
      Joins i s s c ⟨x.pc, d.toNat, a, size, signed, false, .bytes ((l.drop (a % 64)).take size), s.time⟩))

/-- Load `l`, the oldest of caller `c` that has not retired, has its answer at `t` (R402, R421): with bytes it writes its
register and retires, and the load behind it waits for its own; a fault is precise and cancels the younger loads. -/
def Answered (s t : State) (c : Nat) (l : LoadSt) (res : LoadRes) (id : LoadId) (err : MemErr) (k : BitVec 3) : Prop :=
  (∀ bs, res = .bytes bs → (∀ m, (t.cal c).lds[1]? = some m → m.res = .wait) →
    ∃ u r, exec (.loadResponse k ⟨id, err⟩) s = .next (u.pollTrap c) ∧
      Retires t u c { t.cal c with
        r := r
        lds := (t.cal c).lds.drop 1
        shadow := (t.cal c).shadow.map fun h => { h with ret := h.ret + 1 } } true ∧
      Puts (t.cal c).r r ((t.destKeys c (BitVec.ofNat 5 l.d)).map fun k => (k, loadValue l.size l.signed bs)) ∧
      r.fcsr = (t.cal c).r.fcsr ∧ r.vregs = (t.cal c).r.vregs) ∧
  (∀ kind, res = .fault kind → exec (.loadResponse k ⟨id, err⟩) s =
    .next ((t.setCal c { t.cal c with lds := [], pc := l.pc }).except c excLoad kind l.addr l.pc))

/-- LOAD_RESPONSE (R351, R352, R356, R371, R402, R416, R421, R422, R440): the oldest load in flight under its identifier
gets the bytes at its address and retires, a cached one after its line is filled; an uncorrectable unit of memory, a
refused register, an error of the host interface or a host that does not answer makes it fault. Behind an older load it
only keeps what has come. A fill of the instruction cache puts the line in place. The model's own choices that its
clauses rest on: log entry 105, loads retire in program order. -/
def Obligations.LoadResponseCompletesTheLoad : Prop :=
  (∀ (s : State) (k : BitVec 3) (id : LoadId) (err : MemErr) (l : LoadSt), let c := k.toNat
    (s.cal c).lds.head? = some l → l.res = .wait → id ≠ .code → l.cached = (id == .data) →
    (∀ p, s.target l.addr = .mem p → s.memReady p = true →
      let t := match err with
        | .none => s
        | .corrected => if s.bad p then s else s.memCe p
        | .uncorrectable => s.setBad p true
      (t.bad p = false → Answered s (if l.cached then t.fillLine c l.addr else t) c l
        (.bytes (t.peek p l.size)) id err k) ∧
      (t.bad p = true → Answered s (t.memUe p) c l (.fault MErr.ecc.kind) id err k)) ∧
    (∀ o, s.target l.addr = .rom o → s.ready 51 = true → Answered s (if l.cached then s.fillLine c l.addr else s) c l
      (.bytes ((List.range l.size).map fun i => Config.bootRom (o + i))) id err k) ∧
    (∀ o, s.target l.addr = .host o →
      let w := (s.calView c (s.cal c).lvl).obWorld
      (s.hostUp w = true → err = .none →
        Answered s s c l (.bytes (Tab.getMany hostDefault s.hostMem (s.hostAddr w o) l.size)) id err k) ∧
      (s.hostUp w = false ∨ err ≠ .none → Answered s s c l (.fault MErr.host.kind) id err k)) ∧
    (∀ o, s.target l.addr = .cfg o →
      (∀ t v, s.regLoad (s.calAuth c (s.cal c).lvl) o l.size = some (t, .ok v) → (t.cal c).lds = (s.cal c).lds →
        Answered s t c l (.bytes (leBytes l.size v.toNat)) id err k) ∧
      (∀ t e, s.regLoad (s.calAuth c (s.cal c).lvl) o l.size = some (t, .error e) → (t.cal c).lds = (s.cal c).lds →
        Answered s t c l (.fault e.kind) id err k))) ∧
  (∀ (s : State) (k : BitVec 3) (id : LoadId) (err : MemErr) (first l : LoadSt) (i : Nat), let c := k.toNat
    (s.cal c).lds.head? = some first → first.res = .wait → id ≠ .code → 0 < i → (s.cal c).lds[i]? = some l →
    (s.cal c).waitingLoad (fun l => l.cached == (id == .data)) = some i →
    ∀ t r, s.loadRead c l err = some (t, r) → (t.cal c).lds = (s.cal c).lds →
    exec (.loadResponse k ⟨id, err⟩) s =
      .next ((t.setCal c { t.cal c with lds := (t.cal c).lds.modify i fun l => { l with res := r } }).pollTrap c)) ∧
  (∀ (s : State) (k : BitVec 3) (n : Nat) (bs : List Byte), let c := k.toNat
    (s.cal c).fill = some n → s.lineAt (64 * n) = some bs → lineOf (s.cal c).ilines (64 * n) = none →
    (let a := if (s.cal c).pc / 64 = n then (s.cal c).pc else 64 * n
     (∃ p, s.target a = .mem p ∧ s.memReady p = true ∧ s.bad p = false) ∨ ((∃ o, s.target a = .rom o) ∧ s.ready 51 = true)) →
    ∃ u, exec (.loadResponse k ⟨.code, .none⟩) s = .next u ∧ (u.cal c).fill = none ∧
      lineOf (u.cal c).ilines (64 * n) = some bs ∧ (u.cal c).lines = (s.cal c).lines ∧ (u.cal c).r = (s.cal c).r ∧
      (u.cal c).pc = (s.cal c).pc ∧ (∀ j, j ≠ c → u.cal j = s.cal j) ∧ u.regs = s.regs ∧ u.mem = s.mem)

/-- Scalar stores (R420, R422, R440): a misaligned one raises ALIGN, a refused one STORE; with eight stores in the
buffer it waits; else its bytes enter the store buffer and it retires. No byte of memory changes yet. The model's own
choices that its clauses rest on: log entry 104, the command names the instruction. -/
def Obligations.StoresEnterTheStoreBuffer : Prop :=
  ∀ (i : Instr) (s : State) (c : Nat) (d s1 : BitVec 5) (imm : BitVec 16) (size : Nat),
    storeForm i = some (c, d, s1, imm, size) → Acts s c [d, s1] [] →
    let x := s.cal c
    let a := (s.gpr c s1 + imm.signExtend 64).toNat
    (a % size ≠ 0 → exec i s = .next (s.except c excAlign 0 a x.pc)) ∧
    (a % size = 0 →
      (∀ e, s.dataCheck c .wr a = .error e →
        exec i s = .next ((s.refuse (s.calAuth c x.lvl) e a).except c excStore e.kind a x.pc)) ∧
      (∀ t, s.dataCheck c .wr a = .ok t →
        (8 ≤ x.sb.length → exec i s = .next s) ∧
        (x.sb.length < 8 → ∃ u, exec i s = .next (u.pollTrap c) ∧
          Retires s u c
            { x.after x.r (x.pc + 4) true with
              sb := x.sb ++ [⟨a, leBytes size (s.gpr c d).toNat, x.lvl, x.pc, x.shadow.isSome⟩] } true)))

/-- STORE_DRAIN to memory or to host memory (R351, R356, R362, R370, R416, R420, R422): the oldest store's bytes, and no
other byte, change; the store leaves the buffer and its response is outstanding; lines that the data cache holds are
updated. Where a buffer has closed or a page has been fenced since, nothing is written and the response carries the
kind. STORE_RESPONSE (R370, R425, R440): the oldest outstanding response comes; one without an error lets a waiting
ORDER go on; one with an error raises an imprecise BUSERR trap with the address and the level of the store. The model's
own choices that its clauses rest on: log entry 121, the kinds of a store that fails; log entry 180, a store that is
refused when it drains. -/
def Obligations.StoresDrainAndAreAnswered : Prop :=
  (∀ (s : State) (c : BitVec 3) (b : SbEnt) (rest : List SbEnt),
     (s.cal c.toNat).sb = b :: rest → b.inShadow = false →
     let x := s.cal c.toNat
     let left := { x with
       sb := rest
       resp := x.resp ++ [⟨b.addr, b.bytes.length, b.lvl, 0⟩]
       lines := x.lines.map fun l => (l.1, overlay (64 * l.1) b.addr b.bytes l.2) }
     (∀ p e a, s.target b.addr = .mem p → s.memReady p = true → s.overridden b.addr b.bytes.length = some (e, a) →
       let t := s.refuse (s.calAuth c.toNat b.lvl) e a
       exec (.storeDrain c) s = .next (t.setCal c.toNat { t.cal c.toNat with
         sb := rest
         resp := (t.cal c.toNat).resp ++ [⟨b.addr, b.bytes.length, b.lvl, e.kind⟩] })) ∧
     (∀ p, s.target b.addr = .mem p → s.memReady p = true → s.overridden b.addr b.bytes.length = none →
       s.partBad p b.bytes.length = none →
       ∃ t, exec (.storeDrain c) s = .next t ∧ t.cal c.toNat = left ∧ (∀ k, k ≠ c.toNat → t.cal k = s.cal k) ∧
         Stored s t p b.bytes ∧ t.hostMem = s.hostMem ∧ t.regs = s.regs ∧ t.queues = s.queues) ∧
     (∀ o, s.target b.addr = .host o → (∀ i, i < b.bytes.length → s.target (b.addr + i) = .host (o + i)) →
       let w := (s.calView c.toNat b.lvl).obWorld
       s.hostUp w = true →
       ∃ t, exec (.storeDrain c) s = .next t ∧ t.cal c.toNat = left ∧ (∀ k, k ≠ c.toNat → t.cal k = s.cal k) ∧
         t.mem = s.mem ∧ t.eccBad = s.eccBad ∧ t.regs = s.regs ∧ t.queues = s.queues ∧
         (∀ h, (∀ i, i < b.bytes.length → h ≠ s.hostAddr w (o + i)) →
           Tab.get hostDefault t.hostMem h = Tab.get hostDefault s.hostMem h) ∧
         (b.bytes.length ≤ 2 ^ 64 → ∀ i, i < b.bytes.length →
           Tab.get hostDefault t.hostMem (s.hostAddr w (o + i)) = b.bytes.getD i 0))) ∧
  (∀ (s : State) (c : BitVec 3) (b : RespEnt) (rest : List RespEnt),
     (s.cal c.toNat).resp = b :: rest →
     let t := s.setCal c.toNat { s.cal c.toNat with resp := rest }
     (b.kind = 0 → exec (.storeResponse c false) s = .next (t.pollOrders c.toNat)) ∧
     ((s.cal c.toNat).orders = [] → t.pollOrders c.toNat = t) ∧
     (∀ err, b.kind ≠ 0 → exec (.storeResponse c err) s = .next ((t.addTrap c.toNat
       ⟨causeImp (causeWord excBuserr b.kind 0), BitVec.ofNat 64 b.addr, 0, b.lvl⟩).pollOrders c.toNat)) ∧
     (b.kind = 0 → ∀ o, s.target b.addr = .host o → exec (.storeResponse c true) s = .next ((t.addTrap c.toNat
       ⟨causeImp (causeWord excBuserr MErr.host.kind 0), BitVec.ofNat 64 b.addr, 0, b.lvl⟩).pollOrders c.toNat)))

/-- VLD (R406, R410, R416): with every byte of the span accessible, and no store of the buffer in it, element i of the
ensemble at d takes the element's bytes from s1 + imm upward; the lines of cached parts are filled, those with a parity
error dropped first; a fault raises LOAD. VST (R406, R410): outside a shadow, with earlier stores drained and a span of
scratchpad or HBM that accepts every byte, exactly the bytes of the elements from s1 + imm upward change, and the
instruction retires; a refused byte, or an uncorrectable code unit covered in part, raises STORE (R351). The model's own
choices that its clauses rest on: log entry 104, the command names the instruction. -/
def Obligations.VectorAccessesMoveTheirElements : Prop :=
  (∀ (s : State) (c : BitVec 3) (d s1 : BitVec 5) (imm : BitVec 16),
     let k := c.toNat
     let r := (s.cal k).r
     let w := r.vty.w
     let a := (s.gpr k s1 + imm.signExtend 64).toNat
     let n := r.vl * w / 8
     r.aligned d = true → Acts s k [s1] (r.group d) → (∀ b ∈ (s.cal k).sb, b.meets a n = false) → s.partsReady a n = true →
     let o := s.spanParity k a n
     (o.spanFault k .rd a n = none →
       let vs := (List.range r.vl).map fun i =>
         (i, ofLeBytes ((((List.range n).map fun j => o.spanByte k (a + j)).drop (i * (w / 8))).take (w / 8)))
       let t := (lineParts a n).foldl (fun s p => if s.cached k p.1 then s.fillLine k p.1 else s)
         ((o.spanDecode k a n).hostSeen a n)
       ∃ u, exec (.vld c d s1 imm) s = .next (u.pollTrap k) ∧
         Retires t u k ((t.cal k).after ((t.cal k).r.putAll [] ((t.cal k).r.putElems w d.toNat vs)) ((t.cal k).pc + 4) true) true) ∧
     (∀ b e, e ≠ .ecc → o.spanFault k .rd a n = some (b, e) →
       exec (.vld c d s1 imm) s = .next (((o.refuse (o.calAuth k (o.cal k).lvl) e b).hostSeen a n).except k excLoad e.kind b
         (s.cal k).pc)) ∧
     (∀ b p, o.spanFault k .rd a n = some (b, .ecc) → o.target b = .mem p →
       exec (.vld c d s1 imm) s = .next (((o.memUe p).hostSeen a n).except k excLoad MErr.ecc.kind b (s.cal k).pc))) ∧
  (∀ (s : State) (c : BitVec 3) (d s1 : BitVec 5) (imm : BitVec 16),
     let k := c.toNat
     let x := s.cal k
     let w := x.r.vty.w
     let a := (s.gpr k s1 + imm.signExtend 64).toNat
     let bs := (List.range x.r.vl).flatMap fun i => leBytes (w / 8) (x.r.elem w d.toNat i)
     let n := x.r.vl * w / 8
     x.r.aligned d = true → Acts s k [s1] (x.r.group d) → x.shadow = none → x.sb = [] → s.partsReady a n = true →
     (s.spanFault k .wr a n = none → s.spanPart a n = none → (∀ i, i < n → s.target (a + i) = .mem (a + i)) →
       ∃ u, exec (.vst c d s1 imm) s = .next (u.pollTrap k) ∧ Stored s u a bs ∧
         (∃ l, u.cal k = { x.after x.r (x.pc + 4) true with lines := l }) ∧ (∀ j, j ≠ k → u.cal j = s.cal j) ∧
         (∀ p, p ≠ rCalRetired k → u.reg p = s.reg p) ∧ u.hostMem = s.hostMem ∧ u.queues = s.queues) ∧
     (∀ b e, s.spanFault k .wr a n = some (b, e) →
       exec (.vst c d s1 imm) s = .next ((s.refuse (s.calAuth k x.lvl) e b).except k excStore e.kind b x.pc)) ∧
     (∀ b q, s.spanFault k .wr a n = none → s.spanPart a n = some b → s.target b = .mem q →
       exec (.vst c d s1 imm) s = .next ((s.memUe q).except k excStore MErr.ecc.kind b x.pc)))

/-! ### Callers: transfers, windows and synchronisation -/

/-- The address `4 * off` after that of the instruction (R394), and the one of the following instruction. -/
def jumpFrom (s : State) (c : Nat) (off : Int) : Nat := ((((s.cal c).pc : Int) + 4 * off) % 2 ^ 48).toNat
def branchGoal (s : State) (c : Nat) (taken : Bool) (off : BitVec 16) : Nat :=
  if taken then jumpFrom s c off.toInt else (s.cal c).pc + 4

/-- A branch or jump (R394, R399): its caller, the registers it names, and where it goes. -/
def transferGoal (s : State) : Instr → Option (Nat × List (BitVec 5) × Nat)
  | .beq c a b off => some (c.toNat, [a, b], branchGoal s c.toNat (s.gpr c.toNat a = s.gpr c.toNat b) off)
  | .bne c a b off => some (c.toNat, [a, b], branchGoal s c.toNat (s.gpr c.toNat a ≠ s.gpr c.toNat b) off)
  | .blt c a b off =>
    some (c.toNat, [a, b], branchGoal s c.toNat ((s.gpr c.toNat a).toInt < (s.gpr c.toNat b).toInt) off)
  | .bge c a b off =>
    some (c.toNat, [a, b], branchGoal s c.toNat ((s.gpr c.toNat b).toInt ≤ (s.gpr c.toNat a).toInt) off)
  | .bltu c a b off =>
    some (c.toNat, [a, b], branchGoal s c.toNat ((s.gpr c.toNat a).toNat < (s.gpr c.toNat b).toNat) off)
  | .bgeu c a b off =>
    some (c.toNat, [a, b], branchGoal s c.toNat ((s.gpr c.toNat b).toNat ≤ (s.gpr c.toNat a).toNat) off)
  | .j c off => some (c.toNat, [], jumpFrom s c.toNat off.toInt)
  | .jr c _ a _ => some (c.toNat, [a], 4 * ((s.gpr c.toNat a).toNat / 4 % 2 ^ 46))
  | _ => none

/-- Branches, J and JR change the program counter and nothing else of the registers (R394, R399). The model's own
choices that its clauses rest on: log entry 104, the command names the instruction; log entry 108, targets wrap at 2^48.
-/
def Obligations.TransfersGoToTheirTargets : Prop :=
  ∀ (i : Instr) (s : State) (c : Nat) (named : List (BitVec 5)) (goal : Nat),
    transferGoal s i = some (c, named, goal) → Acts s c named [] →
    Completes i s c ((s.cal c).after (s.cal c).r goal true)

/-- A call: its caller, the registers it names, its target. -/
def callGoal (s : State) : Instr → Option (Nat × List (BitVec 5) × Nat)
  | .call c off => some (c.toNat, [], jumpFrom s c.toNat off.toInt)
  | .callr c _ a _ => some (c.toNat, [a], 4 * ((s.gpr c.toNat a).toNat / 4 % 2 ^ 46))
  | _ => none

/-- Calls and RET (R392, R411, R413, R414): a call goes to the next window, whose l7 gets the return address, if a
position is free; RET goes back one window, to the address in l7, if a frame is resident. Otherwise the instruction
waits for the spill engine, or raises the window-stack exception where the spill faults or no frame is stacked. The
model's own choices that its clauses rest on: log entry 104, the command names the instruction; log entry 108, targets
wrap at 2^48; log entry 113, RET without a stacked frame raises the window-stack exception. -/
def Obligations.CallsAndReturnsMoveTheWindow : Prop :=
  (∀ (i : Instr) (s : State) (c : Nat) (named : List (BitVec 5)) (goal : Nat),
    callGoal s i = some (c, named, goal) → Acts s c named [] →
    let x := s.cal c
    let l7 := gprKey ((x.r.wp + 1) % 16) 23
    x.clash [l7] [] = false →
    (0 < x.freePos → ∃ r, Completes i s c (x.after r goal true) ∧
      r.wp = (x.r.wp + 1) % 16 ∧ r.resident = x.r.resident + 1 ∧
      r.at l7 = BitVec.ofNat 64 ((x.pc + 4) % 2 ^ 48) ∧ (∀ k, k ≠ l7 → r.at k = x.r.at k) ∧
      r.vregs = x.r.vregs ∧ r.fcsr = x.r.fcsr ∧ r.vl = x.r.vl ∧ r.vtype = x.r.vtype) ∧
    (x.freePos = 0 →
      (s.spillFaults c = false → exec i s = .next (s.setCal c { x with want := 1 })) ∧
      (s.spillFaults c = true → exec i s = .next (s.wstack c (s.spillAddr c) x.pc)))) ∧
  (∀ (s : State) (c : BitVec 3) (d s1 s2 : BitVec 5), Acts s c.toNat [23] [] →
    let x := s.cal c.toNat
    (1 ≤ x.r.resident → Completes (.ret c d s1 s2) s c.toNat
      (x.after { x.r with wp := (x.r.wp + 15) % 16, resident := x.r.resident - 1 }
        (4 * ((s.gpr c.toNat 23).toNat / 4 % 2 ^ 46)) true)) ∧
    (x.r.resident = 0 →
      (s.stacked c.toNat = true → exec (.ret c d s1 s2) s = .next (s.setCal c.toNat { x with want := 2 })) ∧
      (s.stacked c.toNat = false →
        exec (.ret c d s1 s2) s = .next (s.wstack c.toNat (s.reg (rCalWsbase c.toNat)).toNat x.pc))))

/-- The spill engine (R411, R412, R415, R440): SPILL writes the oldest resident frame below CAL.WSP and counts it; one
that faults moves nothing and lets the waiting instruction raise the window-stack exception; REFILL brings the newest
stacked frame back to the position below the oldest resident one; one whose read faults moves nothing, and raises LOAD
for the instruction that waits for it. The model's own choices that its clauses rest on: log entry 119, faults of the
spill engine. -/
def Obligations.SpillAndRefillMoveFrames : Prop :=
  (∀ (s : State) (c : BitVec 3),
    let x := s.cal c.toNat
    let a := s.spillAddr c.toNat
    s.spillDue c.toNat = true → s.spillFaults c.toNat = false → x.clash (frameKeys x.r.oldest) [] = false →
    s.memReady a = true → x.shadow = none →
    ∃ u, exec (.spill c) s = .next (u.pollEntry c.toNat) ∧ Stored s u a (x.r.frame x.r.oldest) ∧
      u.cal c.toNat = { x with
        r := { x.r with resident := x.r.resident - 1 }
        wsp := BitVec.ofNat 64 a
        depth := (x.depth + 1) % 2 ^ 32
        want := 0 } ∧
      (∀ k, k ≠ c.toNat → u.cal k = s.cal k) ∧ u.hostMem = s.hostMem ∧
      u.rf (rCalSpills c.toNat) fCalSpillsSpills = min (s.rf (rCalSpills c.toNat) fCalSpillsSpills + 1) (2 ^ 32 - 1)) ∧
  (∀ (s : State) (c : BitVec 3),
    let x := s.cal c.toNat
    let a := s.spillAddr c.toNat
    s.spillDue c.toNat = true → s.spillFaults c.toNat = true → x.clash (frameKeys x.r.oldest) [] = false →
    s.memReady a = true → x.shadow = none →
    (s.spillRefused c.toNat = none → exec (.spill c) s = .next s) ∧
    (∀ e, s.spillRefused c.toNat = some e → exec (.spill c) s = .next (s.refuse (s.calAuth c.toNat 3) e a))) ∧
  (∀ (s t : State) (c : BitVec 3) (e : MErr),
    let x := s.cal c.toNat
    s.fillDue c.toNat = true → x.clash (frameKeys x.r.below) [] = false → s.memReady x.wsp.toNat = true → x.shadow = none →
    s.ownRead c.toNat x.wsp.toNat 128 = (t, .error e) →
    (x.want ≠ 2 → exec (.refill c) s = .next t) ∧
    (x.want = 2 → exec (.refill c) s = .next ((t.setCal c.toNat { t.cal c.toNat with want := 0 }).except c.toNat excLoad
      e.kind x.wsp.toNat x.pc))) ∧
  (∀ (s : State) (c : BitVec 3),
    let x := s.cal c.toNat
    let a := x.wsp.toNat
    s.fillDue c.toNat = true → x.clash (frameKeys x.r.below) [] = false → s.memReady a = true → x.shadow = none →
    (∀ i, i < 128 → s.target (a + i) = .mem (a + i) ∧ s.bad (a + i) = false ∧ s.fenced (a + i) = false) →
    ∃ u, exec (.refill c) s = .next u ∧
      (∀ i, i < 16 → (u.cal c.toNat).r.at (8 + 16 * x.r.below + i) =
        BitVec.ofNat 64 (ofLeBytes (s.peek (a + 8 * i) 8))) ∧
      (∀ k, k ∉ frameKeys x.r.below → (u.cal c.toNat).r.at k = x.r.at k) ∧
      (u.cal c.toNat).r.resident = x.r.resident + 1 ∧ (u.cal c.toNat).wsp = BitVec.ofNat 64 ((a + 128) % 2 ^ 48) ∧
      (u.cal c.toNat).depth = (x.depth + 2 ^ 32 - 1) % 2 ^ 32 ∧ (u.cal c.toNat).pc = x.pc ∧
      (∀ k, k ≠ c.toNat → u.cal k = s.cal k) ∧ u.mem = s.mem ∧ u.hostMem = s.hostMem)

/-- Synchronising instructions (R415, R416, R423, R426, R440, R444): each completes once what it waits for is done, else
it waits; BARRIER waits for a trap still to be taken; CINV.D and CINV.DA drop lines of the data cache, CINV.I and
CINV.IA of the instruction cache, a refused address raises LOAD; WAIT lets the caller sleep. The model's own choices
that its clauses rest on: log entry 104, the command names the instruction; log entry 116, BARRIER does not wait for a
trap that cannot be taken; log entry 117, inside a shadow they wait for what lies before it. -/
def Obligations.SynchronisingInstructionsWaitAndComplete : Prop :=
  ∀ (s : State) (c : BitVec 3) (d s1 s2 : BitVec 5),
    let k := c.toNat
    let x := s.cal k
    let on := x.after x.r (x.pc + 4) true
    (Acts s k [] [] → Completes (.syncF c d s1 s2) s k on ∧
      ((∀ l ∈ x.longs, l.inShadow = true) → s.trapDue k = false → Completes (.barrier c d s1 s2) s k on) ∧
      ((∃ l ∈ x.longs, l.inShadow = false) ∨ s.trapDue k = true → exec (.barrier c d s1 s2) s = .next s) ∧
      (x.resp = [] → (∀ b ∈ x.sb, b.inShadow = true) →
        Completes (.fenceE c d s1 s2) s k on ∧ Completes (.cinvIa c d s1 s2) s k { on with ilines := [] }) ∧
      ((x.resp ≠ [] ∨ ∃ b ∈ x.sb, b.inShadow = false) →
        exec (.fenceE c d s1 s2) s = .next s ∧ exec (.cinvIa c d s1 s2) s = .next s) ∧
      Completes (.cinvDa c d s1 s2) s k { on with lines := [] } ∧
      (x.r.resident = 0 → Completes (.wflush c d s1 s2) s k on) ∧
      (0 < x.r.resident → s.spillFaults k = false →
        exec (.wflush c d s1 s2) s = .next (s.setCal k { x with want := 1 })) ∧
      (0 < x.r.resident → s.spillFaults k = true →
        exec (.wflush c d s1 s2) s = .next (s.wstack k (s.spillAddr k) x.pc)) ∧
      (x.shadow = none → Completes (.wait c d s1 s2) s k { on with asleep := true }) ∧
      (∀ h, x.shadow = some h → Completes (.wait c d s1 s2) s k
        { on with shadow := some { h with count := h.count + 1, ret := h.ret + 1, wait := true } })) ∧
    (Acts s k [s1] [] →
      ((x.resp ≠ [] ∨ ∃ b ∈ x.sb, b.inShadow = false) → exec (.cinvI c d s1 s2) s = .next s) ∧
      (∀ t, s.dataCheck k .rd (s.gpr k s1).toNat = .ok t →
        (x.resp = [] → (∀ b ∈ x.sb, b.inShadow = true) → Completes (.cinvI c d s1 s2) s k
          { on with ilines := x.ilines.filter fun l => l.1 != (s.gpr k s1).toNat / 64 }) ∧
        Completes (.cinvD c d s1 s2) s k
          { on with lines := x.lines.filter fun l => l.1 != (s.gpr k s1).toNat / 64 }) ∧
      (∀ e, s.dataCheck k .rd (s.gpr k s1).toNat = .error e →
        let fault := (s.refuse (s.calAuth k x.lvl) e (s.gpr k s1).toNat).except k excLoad e.kind (s.gpr k s1).toNat x.pc
        exec (.cinvD c d s1 s2) s = .next fault ∧
        (x.resp = [] → (∀ b ∈ x.sb, b.inShadow = true) → exec (.cinvI c d s1 s2) s = .next fault)))

/-- ORDER (R83 to R86, R425, R434, R449, R680): outside a shadow, once every earlier store has its response, it reads
the order in memory, issues it, and gives the result of the issue to d; a read that faults raises LOAD; where the issue
word and the windows pass and the memory of the order is not up it waits; in a shadow it waits for SYNC.C and has not
retired. The model's own choices that its clauses rest on: log entry 104, the command names the instruction. -/
def Obligations.OrderInstructionIssuesTheOrder : Prop :=
  ∀ (s : State) (c : BitVec 3) (d s1 s2 : BitVec 5),
    let k := c.toNat
    let x := s.cal k
    let a := (s.gpr k s1).toNat
    Acts s k [d, s1, s2] [] →
    (x.shadow = none → x.sb = [] → x.resp = [] → s.orderWaits k a (s.gpr k s2) = false →
      (∀ t v, s.orderRun k a (s.gpr k s2) = (t, .ok v) →
        ∃ u, exec (.issueOrder c d s1 s2) s = .next u ∧ GivesResult t u k d (BitVec.ofNat 64 v)) ∧
      (∀ t e b, s.orderRun k a (s.gpr k s2) = (t, .error (e, b)) →
        exec (.issueOrder c d s1 s2) s = .next (t.except k excLoad e.kind b x.pc))) ∧
    (x.shadow = none → (x.sb ≠ [] ∨ x.resp ≠ [] ∨ s.orderWaits k a (s.gpr k s2) = true) → exec (.issueOrder c d s1 s2) s = .next s) ∧
    (∀ h, x.shadow = some h → ∃ u, exec (.issueOrder c d s1 s2) s = .next (u.pollTrap k) ∧ Retires s u k
      { x.after x.r (x.pc + 4) false with orders := x.orders ++ [⟨x.pc, a, s.gpr k s2, (s.destKeys k d).headD 0⟩] } false)

/-- SETVL (R405): VL is the lesser of s1 and the elements that an ensemble of the type holds, and goes to d; with a
reserved bit or another type code it raises ILLEGAL. R405 is stated whole. The model's own choices that its clauses rest
on: log entry 104, the command names the instruction. -/
def Obligations.SetvlLimitsTheVectorLength : Prop :=
  ∀ (s : State) (c : BitVec 3) (d s1 : BitVec 5) (imm : BitVec 16),
    let x := s.cal c.toNat
    (Acts s c.toNat [d, s1] [] → imm.toNat < 64 → imm.toNat % 16 < 13 →
      let vl := min (s.gpr c.toNat s1).toNat (2 ^ (imm.toNat / 16) * (512 / (ETy.ofCode (imm.toNat % 16)).w))
      ∃ r, Completes (.setvl c d s1 imm) s c.toNat (x.after r (x.pc + 4) true) ∧
        r.vl = vl ∧ r.vtype = imm.zeroExtend 64 ∧ r.wp = x.r.wp ∧ r.resident = x.r.resident ∧
        r.vregs = x.r.vregs ∧ r.fcsr = x.r.fcsr ∧
        (∀ k, k ∈ s.destKeys c.toNat d → r.at k = BitVec.ofNat 64 vl) ∧
        (∀ k, k ∉ s.destKeys c.toNat d → r.at k = x.r.at k)) ∧
    (s.issues c.toNat = true → s.fetch c.toNat x.pc = .word → (64 ≤ imm.toNat ∨ 13 ≤ imm.toNat % 16) →
      exec (.setvl c d s1 imm) s = .next (s.except c.toNat excIllegal 0 (wordI 0x3E d s1 imm) x.pc))

/-! ### Callers: control registers and exceptions -/

/-- The value of a control register that a program reads (R429 to R431, R455, R456); the beats of a caller are open (R431). -/
def controlValue (s : State) (c : Nat) : CReg → Option Word
  | .status => some ((s.cal c).status.setFld 7 1 (s.calWorld c).idx)
  | .tvb t => some ((s.cal c).tab t).base
  | .save t i => some (((s.cal c).save t).reg i)
  | .fcsr => some (s.cal c).r.fcsr
  | .vl => some (BitVec.ofNat 64 (s.cal c).r.vl)
  | .vtype => some (s.cal c).r.vtype
  | .winstat => some (s.winstat c)
  | .wsp => some (s.cal c).wsp
  | .beatcnt => none
  | .timebase => some (BitVec.ofNat 64 s.time)

/-- CRR (R428, R429, R431, R455): a register that the level may read goes to d, and nothing else changes; the beats of
the present microsecond are open, and never fewer than those read before; any other number raises ILLEGAL. The model's
own choices that its clauses rest on: log entry 104, the command names the instruction; log entry 107, the major opcode
that the cause reports; log entry 125, the beat count is a free value. -/
def Obligations.ControlReadsGiveTheRegister : Prop :=
  ∀ (s : State) (c : BitVec 3) (d s1 : BitVec 5) (num : BitVec 16),
    (∀ r v, cregOf num.toNat = some r → s.crrOk c.toNat r = true → Acts s c.toNat [d] [] → controlValue s c.toNat r = some v →
      ∃ u, exec (.crr c d s1 num) s = .next u ∧ GivesResult s u c.toNat d v) ∧
    (num = 0x128 → Acts s c.toNat [d] [] →
      let b := Tab.get beatsDefault s.calBeats c.toNat
      ∃ n u, b.2 ≤ n ∧ (b.2 < 2450 → b.2 < n ∧ n ≤ 2450) ∧ exec (.crr c d s1 num) s = .next u ∧
        GivesResult s u c.toNat d (BitVec.ofNat 64 (b.1 + n)) ∧ Tab.get beatsDefault u.calBeats c.toNat = (b.1, n)) ∧
    ((cregOf num.toNat = none ∨ ∃ r, cregOf num.toNat = some r ∧ s.crrOk c.toNat r = false) →
      s.issues c.toNat = true → s.fetch c.toNat (s.cal c.toNat).pc = .word →
      exec (.crr c d s1 num) s =
        .next (s.except c.toNat excIllegal 0 (wordI 0x3D d s1 num) (s.cal c.toNat).pc))

/-- Entry into a handler (R445, R456): the target set receives PC, ST, WP, CAUSE, FADDR and TAG, and no other set
changes; the level becomes the target's, its HELD bit is set, IES clears, and IEM for the machine level; WP advances by
1 modulo 16; the caller goes on at the handler; every register keeps its value. -/
def Obligations.EntrySavesTheProgramAndMasks : Prop :=
  ∀ (s : State) (c : Nat) (t : SaveSet) (cause : Word) (faddr pc : Nat) (tag : Word) (handler : Nat),
    Entered s (s.enter c t cause faddr pc tag handler) c t cause faddr pc tag handler

/-- A handler of the table `t` is ready to be entered, and so is the window after the next (R413, R441, R442). -/
def entryReady (s : State) (c : Nat) (t : SaveSet) (code handler : Nat) : Prop :=
  (s.cal c).held t = false ∧ ((s.cal c).tab t).busy = false ∧ ((s.cal c).tab t).handler code = some handler ∧
  0 < (s.cal c).freePos

/-- Routing of precise exceptions outside a shadow (R436, R441 to R444): to the machine level from the machine level and
for MCALL, else to the supervisor of the caller's world; where that set is held or its entry invalid, to the machine
level with ESC and a count; where SAVE.M is held or its entry invalid, into curtain hold; while the table's copy reloads
it waits. R443 is stated whole; the routing clauses rest on the same section. The model's own choices that its clauses
rest on: log entry 109, SCALL from the machine level stays there; log entry 114, an escalation counts when it is
entered. -/
def Obligations.ExceptionsGoToTheirLevel : Prop :=
  ∀ (s : State) (c code kind faddr pc handler : Nat), (s.cal c).shadow = none → code < 64 → kind < 256 →
    let w := worldSet (s.calWorld c)
    let e := s.except c code kind faddr pc
    let cause := causeWord code kind 0
    let top : Prop := (s.cal c).lvl = 3 ∨ code = excMcall
    (top → entryReady s c .m code handler → Entered s e c .m cause faddr pc 0 handler) ∧
    (¬ top → entryReady s c w code handler → Entered s e c w cause faddr pc 0 handler) ∧
    (¬ top → (s.cal c).held w = false → ((s.cal c).tab w).busy = true → e = s.excWaits c cause faddr pc) ∧
    (top → (s.cal c).held .m = false → ((s.cal c).tab .m).busy = true → e = s.excWaits c cause faddr pc) ∧
    (¬ top → (s.cal c).held w = true → entryReady s c .m code handler →
      e = (s.enter c .m (causeEsc cause) faddr pc 0 handler).satRf (rCalExccnt c) fCalExccntEscalations 1) ∧
    (¬ top → (s.cal c).held w = false → ((s.cal c).tab w).busy = false → ((s.cal c).tab w).handler code = none →
      entryReady s c .m code handler →
      e = (s.enter c .m (causeEsc cause) faddr pc 0 handler).satRf (rCalExccnt c) fCalExccntEscalations 1) ∧
    (top → (s.cal c).held .m = true → e = s.holdCal c code pc) ∧
    (¬ top → (s.cal c).held w = true → (s.cal c).held .m = true → e = s.holdCal c code pc) ∧
    (top → (s.cal c).held .m = false → ((s.cal c).tab .m).busy = false → ((s.cal c).tab .m).handler code = none →
      e = s.holdCal c code pc)

/-- SCALL, MCALL and BREAK: caller, cause, and how far past the instruction the saved PC lies (R439, R460). -/
def callCause : Instr → Option (Nat × Nat × Nat)
  | .scall c => some (c.toNat, excScall, 4)
  | .mcall c => some (c.toNat, excMcall, 4)
  | .brk c => some (c.toNat, excBreak, 0)
  | _ => none

/-- SCALL, MCALL and BREAK enter a handler with their cause, FADDR zero and the following instruction (SCALL, MCALL) or
the instruction itself (BREAK) as saved PC (R439, R442, R445); SCALL and MCALL have retired then. The model's own
choices that its clauses rest on: log entry 104, the command names the instruction; log entry 109, SCALL from the
machine level stays there. -/
def Obligations.CallsToAHandlerEnterIt : Prop :=
  ∀ (i : Instr) (s : State) (c code past handler : Nat),
    callCause i = some (c, code, past) → Acts s c [] [] → (s.cal c).shadow = none →
    let t := if (s.cal c).lvl = 3 ∨ code = excMcall then .m else worldSet (s.calWorld c)
    entryReady s c t code handler →
    ∃ u, exec i s = .next u ∧
      Entered s u c t (causeWord code 0 0) 0 (if past = 0 then (s.cal c).pc else ((s.cal c).pc + 4) % 2 ^ 48) 0 handler ∧
      u.rf (rCalRetired c) fCalRetiredCount =
        if past = 0 then s.rf (rCalRetired c) fCalRetiredCount else (s.rf (rCalRetired c) fCalRetiredCount + 1) % 2 ^ 48

/-- Precise causes rank FETCH, ILLEGAL, SHADOW before any effect of the instruction (R402, R446, R449), for every
instruction of a caller: without issue or while its word is on the way nothing changes; a miss of the instruction cache
asks for the line, a parity error there drops it first (R416); then the first cause that applies is raised; then the
instruction waits for the registers that operations in flight still write. The model's own choices that its clauses rest
on: log entry 104, the command names the instruction; log entry 105, it waits for registers that long operations still
write; log entry 122, parity errors. -/
def Obligations.InstructionsRaiseTheFirstCause : Prop :=
  ∀ (s : State) (c word : Nat) (ill : Bool) (regs : List (BitVec 5)) (vregs : List Nat) (act : State → State),
    let pc := (s.cal c).pc
    let i := s.instr c word ill regs vregs act
    (s.issues c = false → i = s) ∧
    (s.issues c = true →
      (s.fetch c pc = .wait → i = s) ∧
      (s.fetch c pc = .miss → i = s.setCal c { s.cal c with fill := some (pc / 64) }) ∧
      (s.fetch c pc = .parity → i = (s.setCal c { s.cal c with
        ilines := (s.cal c).ilines.filter fun l => l.1 != pc / 64
        fill := some (pc / 64) }).cachePar c) ∧
      (∀ e, s.fetch c pc = .fault e → i = (s.fetchNote c pc e).except c excFetch e.kind pc pc) ∧
      (s.fetch c pc = .word →
        (ill = true → i = s.except c excIllegal 0 word pc) ∧
        (∀ h, ill = false → (s.cal c).shadow = some h → 8 ≤ h.count → i = s.except c excShadow 0 pc pc) ∧
        (ill = false → (∀ h, (s.cal c).shadow = some h → h.count < 8) →
          (s.cal c).clash (regs.flatMap fun r => s.destKeys c r) vregs = true → i = s)))

/-- RETX outside a shadow (R451): STATUS from the set's ST without the set's own HELD bit and with the other one as it
is, WP and PC from the set; it needs the frame resident. At the user level, and at the supervisor level with ST.LVL =
11, it is ILLEGAL. The model's own choices that its clauses rest on: log entry 97, HELD bit 4 stays set in Curtain. -/
def Obligations.ReturnRestoresTheProgram : Prop :=
  ∀ (s : State) (c : BitVec 3), let k := c.toNat
    let x := s.cal k
    let t : SaveSet := if x.lvl = 3 then .m else worldSet (s.calWorld k)
    let y := x.save t
    let back := (x.r.wp + 16 - y.wp.toNat % 16) % 16
    s.issues k = true → s.fetch k x.pc = .word → x.shadow = none →
    (x.lvl ≠ 0 → (x.lvl = 1 → y.st.fld 0 2 ≠ 3) → back ≤ x.r.resident →
      ∃ u : State, exec (.retx c) s = .next (u.pollTrap k) ∧
        (u.cal k).pc = 4 * (y.pc.toNat / 4 % 2 ^ 46) ∧ (u.cal k).r = { x.r with
          wp := y.wp.toNat % 16
          resident := x.r.resident - back } ∧
        (∀ b, b < 64 → b ≠ 4 → b ≠ 5 → (u.cal k).status.bit b = (decide (b < 7) && y.st.bit b)) ∧
        (∀ b, b = 4 ∨ b = 5 → (u.cal k).status.bit b = ((b != heldBit t && x.status.bit b) || (b == 4 && s.cus.curtain))) ∧
        (∀ j, j ≠ k → u.cal j = s.cal j) ∧ u.mem = s.mem ∧ u.hostMem = s.hostMem) ∧
    ((x.lvl = 0 ∨ (x.lvl = 1 ∧ y.st.fld 0 2 = 3)) →
      exec (.retx c) s = .next (s.except k excIllegal 0 (2 ^ 26 * 0x3C + 0x23) x.pc)) ∧
    (x.lvl ≠ 0 → (x.lvl = 1 → y.st.fld 0 2 ≠ 3) → x.r.resident < back → s.stacked k = true →
      exec (.retx c) s = .next (s.setCal k { x with want := 2 }))

/-- CRW (R404, R415, R428, R449, R455): a write that the level may make waits in a shadow, which the first one opens;
one of CAL.FCSR waits for earlier long operations, one of CAL.WSP for the frames to be spilled; another raises ILLEGAL.
SYNC.C (R404, R423, R430, R431, R441, R449, R455 to R457): without a shadow it completes; with one it closes it, applies
its writes and accumulates its flags in program order, and counts its instructions. A write to STATUS sets IES, IEM and
PA and can only clear HELD; one of a TVB starts the reload of the table's copy; one of CAL.WSP clears the depth. The
model's own choices that its clauses rest on: log entry 97, HELD bit 4 stays set in Curtain; log entry 107, the major
opcode that the cause reports; log entry 128, a write of WSP clears the depth. -/
def Obligations.ControlWritesWaitForTheirSync : Prop :=
  (∀ (s : State) (c : BitVec 3) (d s1 : BitVec 5) (num : BitVec 16),
     let k := c.toNat
     let x := s.cal k
     let v := s.gpr k s1
     (∀ r, cregOf num.toNat = some r → s.crwOk k r v = true → Acts s k [s1] [] →
       (r = .fcsr → ∀ l ∈ x.longs, l.inShadow = true) → (r = .wsp → x.r.resident = 0) →
       (x.shadow = none → exec (.crw c d s1 num) s = .next (s.setCal k { x with
         pc := (x.pc + 4) % 2 ^ 48
         want := 0
         shadow := some ⟨x.pc, 0, 1, [.write num.toNat v], x.r, false⟩ })) ∧
       (∀ h, x.shadow = some h → Completes (.crw c d s1 num) s k { x.after x.r (x.pc + 4) true with
         shadow := some { h with
           count := h.count + 1
           ret := h.ret + 1
           evs := h.evs ++ (if r = .fcsr then [.drain (x.longs.map fun l => l.tag)] else []) ++ [.write num.toNat v] } })) ∧
     ((cregOf num.toNat = none ∨
         (∃ r, cregOf num.toNat = some r ∧ s.crwOk k r v = false) ∧ x.clash (s.destKeys k s1) [] = false) →
       s.issues k = true → s.fetch k x.pc = .word →
       exec (.crw c d s1 num) s = .next (s.except k excIllegal 0 (wordI 0x3D d s1 num) x.pc))) ∧
  ((∀ (s : State) (c : BitVec 3) (d s1 s2 : BitVec 5),
     let k := c.toNat
     let x := s.cal k
     s.issues k = true → s.fetch k x.pc = .word →
     (x.shadow = none → x.orders = [] → Completes (.syncC c d s1 s2) s k (x.after x.r (x.pc + 4) true)) ∧
     (∀ h, x.shadow = some h →
       let t := h.evs.foldl (State.shadowEv k) (s.setCal k { x with
         shadow := none
         asleep := h.wait
         longs := x.longs.map fun l => { l with inShadow := false }
         sb := x.sb.map fun b => { b with inShadow := false } })
       let u := t.addRf (rCalRetired k) fCalRetiredCount h.ret
       exec (.syncC c d s1 s2) s = .next ((u.goto k ((u.cal k).pc + 4)).pollOrders k))) ∧
   (∀ (s : State) (c n : Nat) (v : Word) (f : Flags),
     State.shadowEv c s (.write n v) = s.crwApply c (n, v) ∧
     (State.shadowEv c s (.flags f)).cal c = { s.cal c with r := (s.cal c).r.addFlags f }) ∧
   (∀ (s : State) (c : Nat) (v : Word), let x := s.cal c
     (∀ b, b < 64 → ((s.crwApply c (0, v)).cal c).status.bit b =
       if b = 2 ∨ b = 3 ∨ b = 6 then v.bit b
       else if b = 4 then x.status.bit 4 && !v.bit 4 || s.cus.curtain
       else if b = 5 then x.status.bit 5 && !v.bit 5
       else decide (b < 2) && x.status.bit b) ∧
     (∀ n t, cregOf n = some (.tvb t) → (s.crwApply c (n, v)).cal c =
       x.setTab t (if v &&& maskOf 9 39 = 0 then TabSt.empty else ⟨v &&& maskOf 9 39, (x.tab t).copy, (x.tab t).loaded, true⟩)) ∧
     (∀ n t i, cregOf n = some (.save t i) → (s.crwApply c (n, v)).cal c = x.setSave t ((x.save t).setReg i v)) ∧
     (s.crwApply c (0x120, v)).cal c = { x with wsp := v &&& maskOf 7 41, depth := 0 } ∧
     ((s.crwApply c (0x100, v)).cal c).r.fcsr =
       (let f := v &&& (maskOf 0 3 ||| maskOf 8 5 ||| maskOf 16 5); if 5 ≤ f.fld 0 3 then f.setFld 0 3 0 else f)))

/-! ### Orders -/

/-- The commands that run units of an order: its operation, the queue, how many units. -/
def orderCommand : Instr → Option (Op × Nat × Nat)
  | .addOrder e w k => some (.add, qOf e.toNat w, k)
  | .subOrder e w k => some (.sub, qOf e.toNat w, k)
  | .mulOrder e w k => some (.mul, qOf e.toNat w, k)
  | .fmaOrder e w k => some (.fma, qOf e.toNat w, k)
  | .fmsOrder e w k => some (.fms, qOf e.toNat w, k)
  | .fnmaOrder e w k => some (.fnma, qOf e.toNat w, k)
  | .divOrder e w k => some (.div, qOf e.toNat w, k)
  | .sqrtOrder e w k => some (.sqrt, qOf e.toNat w, k)
  | .minOrder e w k => some (.min, qOf e.toNat w, k)
  | .maxOrder e w k => some (.max, qOf e.toNat w, k)
  | .absOrder e w k => some (.abs, qOf e.toNat w, k)
  | .negOrder e w k => some (.neg, qOf e.toNat w, k)
  | .addsatOrder e w k => some (.addsat, qOf e.toNat w, k)
  | .subsatOrder e w k => some (.subsat, qOf e.toNat w, k)
  | .mulsatOrder e w k => some (.mulsat, qOf e.toNat w, k)
  | .mulwideOrder e w k => some (.mulwide, qOf e.toNat w, k)
  | .mulhiOrder e w k => some (.mulhi, qOf e.toNat w, k)
  | .andOrder e w k => some (.and, qOf e.toNat w, k)
  | .orOrder e w k => some (.or, qOf e.toNat w, k)
  | .xorOrder e w k => some (.xor, qOf e.toNat w, k)
  | .notOrder e w k => some (.not, qOf e.toNat w, k)
  | .andnotOrder e w k => some (.andnot, qOf e.toNat w, k)
  | .shlOrder e w k => some (.shl, qOf e.toNat w, k)
  | .shrOrder e w k => some (.shr, qOf e.toNat w, k)
  | .sarOrder e w k => some (.sar, qOf e.toNat w, k)
  | .rotlOrder e w k => some (.rotl, qOf e.toNat w, k)
  | .selectOrder e w k => some (.select, qOf e.toNat w, k)
  | .clzOrder e w k => some (.clz, qOf e.toNat w, k)
  | .popcntOrder e w k => some (.popcnt, qOf e.toNat w, k)
  | .cvtOrder e w k => some (.cvt, qOf e.toNat w, k)
  | .rndintOrder e w k => some (.rndint, qOf e.toNat w, k)
  | .quantizeOrder e w k => some (.quantize, qOf e.toNat w, k)
  | .cvtsatOrder e w k => some (.cvtsat, qOf e.toNat w, k)
  | .cmpeqOrder e w k => some (.cmp .eq, qOf e.toNat w, k)
  | .cmpneOrder e w k => some (.cmp .ne, qOf e.toNat w, k)
  | .cmpltOrder e w k => some (.cmp .lt, qOf e.toNat w, k)
  | .cmpleOrder e w k => some (.cmp .le, qOf e.toNat w, k)
  | .cmpgtOrder e w k => some (.cmp .gt, qOf e.toNat w, k)
  | .cmpgeOrder e w k => some (.cmp .ge, qOf e.toNat w, k)
  | .cmpunOrder e w k => some (.cmp .un, qOf e.toNat w, k)
  | .cmpordOrder e w k => some (.cmp .ord, qOf e.toNat w, k)
  | .sumOrder e w k => some (.sum, qOf e.toNat w, k)
  | .minrOrder e w k => some (.minr, qOf e.toNat w, k)
  | .maxrOrder e w k => some (.maxr, qOf e.toNat w, k)
  | .andrOrder e w k => some (.andr, qOf e.toNat w, k)
  | .orrOrder e w k => some (.orr, qOf e.toNat w, k)
  | .xorrOrder e w k => some (.xorr, qOf e.toNat w, k)
  | .dotOrder e w k => some (.dot, qOf e.toNat w, k)
  | .segsumOrder e w k => some (.segsum, qOf e.toNat w, k)
  | .segminOrder e w k => some (.segmin, qOf e.toNat w, k)
  | .segmaxOrder e w k => some (.segmax, qOf e.toNat w, k)
  | .segdotOrder e w k => some (.segdot, qOf e.toNat w, k)
  | .linrecOrder e w k => some (.linrec, qOf e.toNat w, k)
  | .psumOrder e w k => some (.psum, qOf e.toNat w, k)
  | .psumxOrder e w k => some (.psumx, qOf e.toNat w, k)
  | .segpsumOrder e w k => some (.segpsum, qOf e.toNat w, k)
  | .compressOrder e w k => some (.compress, qOf e.toNat w, k)
  | .expandOrder e w k => some (.expand, qOf e.toNat w, k)
  | .gatherOrder e w k => some (.gather, qOf e.toNat w, k)
  | .scatterOrder e w k => some (.scatter, qOf e.toNat w, k)
  | .scatteraddOrder e w k => some (.scatteradd, qOf e.toNat w, k)
  | .spmvOrder e w k => some (.spmv, qOf e.toNat w, k)
  | .copyOrder e w k => some (.copy, qOf e.toNat w, k)
  | .fillOrder e w k => some (.fill, qOf e.toNat w, k)
  | .arcappendOrder e w k => some (.arcappend, qOf e.toNat w, k)
  | .arcreadOrder e w k => some (.arcread, qOf e.toNat w, k)
  | .sealfeedOrder e w k => some (.sealfeed, qOf e.toNat w, k)
  | .sceneOrder e w k => some (.scene, qOf e.toNat w, k)
  | .scalebOrder e w k => some (.scaleb, qOf e.toNat w, k)
  | .logbOrder e w k => some (.logb, qOf e.toNat w, k)
  | .copysignOrder e w k => some (.copysign, qOf e.toNat w, k)
  | .classOrder e w k => some (.cls, qOf e.toNat w, k)
  | _ => none

/-- The head order of queue `q` is `x`, of the operation `op`, and its next unit is the element `x.run.perf.next` of its
performance, which nothing holds back (R202, R204, R281, R299, R625). -/
structure Performs (s : State) (q : Nat) (op : Op) (x : Entry) : Prop where
  head : s.head q = some x
  op : x.ord.op = op
  running : x.run.phase = .running
  engine : s.engOn (q / 2) = true
  entitled : s.entitled q = true
  memory : s.strmsReady x = true
  next : if x.run.reprised then x.run.failed = none ∧ x.run.perf.next < x.run.blockEnd x.n else x.run.perf.next < x.n
  whole : x.run.perf.next ∉ x.run.skips
  compared : x.run.reprised = true → x.feeds = true → x.run.pairs = []

/-- An output of the performance of `x` reaches its memory, as part of the span that its stream writes whole, unless the writes
of the order are held back (R144, R351). -/
def writeOutput (w : World) (x : Entry) (s : State) (o : Out) : State :=
  let v : Env := ⟨s, w, x, false⟩
  match o.val, v.outAddr o with
  | some y, some a =>
    if x.run.reprised && x.holds then s
    else s.storeIn (v.outSpan o a.toNat).1 (v.outSpan o a.toNat).2 v.view a.toNat (v.memBytes o y a.toNat)
  | _, _ => s

/-- The outputs of `x` go to memory alone. -/
def toMemory (w : World) (s : State) (x : Entry) : Prop :=
  (⟨s, w, x, false⟩ : Env).outRelay 6 = none ∧ (⟨s, w, x, false⟩ : Env).outRelay 7 = none ∧ x.ord.sealTo = none

/-- An order command runs its units one after another (R205); it does nothing where the head order of the queue is
another one, does not run, or has no engine (R204, R625), and an order that may not run any longer suspends (R189), but
for one that has failed, which runs on (R300). The model's own choices that its clauses rest on: log entry 5, it does
nothing otherwise; log entry 135, the number of units is an operand. -/
def Obligations.OrderCommandsRunTheHeadOrder : Prop :=
  ∀ (i : Instr) (s : State) (op : Op) (q k : Nat), orderCommand i = some (op, q, k) →
    (∀ x, s.head q = some x → x.ord.op = op → x.run.phase = .running → s.ready (q / 2) = true →
      ((x.run.failed ≠ none ∨ s.modeRuns (q / 2) = true ∧ s.entitled q = true) →
        exec i s = .next (Nat.repeat (fun t => State.oneUnit t q) k s)) ∧
      (x.run.failed = none → s.modeRuns (q / 2) = true → s.entitled q = false → exec i s = .next (s.settle (q / 2)))) ∧
    ((∀ x, s.head q = some x → x.ord.op ≠ op ∨ x.run.phase ≠ .running ∨ s.ready (q / 2) = false ∨
        x.run.failed = none ∧ s.modeRuns (q / 2) = false) → exec i s = .next s)

/-- One element of an order (R205 to R207, R209, R210, R213, R214, R222): its relays retire, its outputs are written,
its flags accumulate, the pass moves on, and a trap report is due at the end of a block of 65 536 elements unless the
order retires precisely; where an operand is not there yet the order waits; an input or an output that faults closes the
order with cause 8 and slot, kind and address, a trap-enabled flag under precise retirement with cause 9, other stops
with their cause. The model's own choices that its clauses rest on: log entry 135, the number of units is an operand;
log entry 145, the span that an output stream writes whole. -/
def Obligations.ElementsOfOrdersTakeEffect : Prop :=
  ∀ (i : Instr) (s : State) (op : Op) (q : Nat) (x : Entry), orderCommand i = some (op, q, 1) → Performs s q op x →
    let w := qWorld q
    let v : Env := ⟨s, w, x, false⟩
    let p := x.run.perf
    (∀ e : Eff, v.unit p = .ok e → v.outsFault p false e.outs = none → v.room p false e.outs = true →
      (x.run.precise && !x.run.passOne && (e.flags &&& x.run.trapen) != 0) = false →
      ∃ (u : State) (y : Entry),
        let report := if x.run.precise then x.run.blkFlags else x.run.blkFlags ||| (e.flags &&& x.run.trapen)
        let due : Prop := report ≠ 0 ∧ e.pass.next % 65536 = 0 ∧ 0 < e.pass.next
        (due → exec i s = .next ((u.trapReport q x.tag report false).setHead q y)) ∧
        (¬ due → exec i s = .next (u.setHead q y)) ∧
        y.ord = x.ord ∧ y.strms = x.strms ∧ y.n = x.n ∧ y.tag = x.tag ∧
        y.run.phase = .running ∧ y.run.flags = x.run.flags ||| e.flags ∧ y.run.rep = x.run.rep ∧
        y.run.perf.next = e.pass.next ∧ y.run.perf.parts = e.pass.parts ∧ y.run.perf.out = e.pass.out ∧
        y.run.perf.ones = e.pass.ones ∧ y.run.perf.aux = e.pass.aux ∧
        (toMemory w s x → (∀ o, o ∈ e.outs → o.slot = 6 ∨ o.slot = 7) →
          let r := e.rel.foldl (fun s z => s.relayRetire z.1 false z.2) s
          u = e.outs.foldl (writeOutput w x) (if e.counts then feedByte w r x e.pass else r))) ∧
    (v.unit p = .wait → exec i s = .next s) ∧
    (∀ sl kind a, v.unit p = .flt sl kind a → x.run.failed = none →
      exec i s = .next ((s.faultNote q sl kind a).setHead q (x.setRun (x.run.close 8 sl kind a false)))) ∧
    (∀ e : Eff, ∀ sl kind a, v.unit p = .ok e → v.room p false e.outs = true → v.outsFault p false e.outs = some (sl, kind, a) →
      x.run.failed = none →
      exec i s = .next ((s.faultNote q sl kind a).setHead q (x.setRun (x.run.close 8 sl kind a false)))) ∧
    (∀ e : Eff, v.unit p = .ok e → v.room p false e.outs = true → v.outsFault p false e.outs = none → x.run.failed = none →
      (x.run.precise && !x.run.passOne && (e.flags &&& x.run.trapen) != 0) = true →
      exec i s = .next (s.setHead q (x.setRun (x.run.close 9 0 0 0 false)))) ∧
    (∀ cause a, v.unit p = .stop cause a → x.ord.op ≠ .arcread → x.run.failed = none → cause ≠ 8 →
      exec i s = .next (s.setHead q (x.setRun (x.run.close cause 0 0 a false))))

/-- The value of an element-wise order on integers, exact and then wrapped to the width, or clamped with OF (R103, R109, R110,
R111, R113 to R118, R120). -/
def integerValue (op : Op) (t tt : ETy) (a b d : Nat) : Option Res :=
  let x := t.toInt a
  let y := t.toInt b
  let z := t.toInt d
  let clamp (t : ETy) (v : Int) : Res :=
    if v < t.minVal then (wrapInt t.w t.minVal, flOF) else if t.maxVal < v then (wrapInt t.w t.maxVal, flOF)
    else (wrapInt t.w v, 0)
  let wrap (v : Int) : Option Res := some (wrapInt t.w v, 0)
  let truth (p : Prop) [Decidable p] : Option Res := some (if p then 1 else 0, 0)
  match op with
  | .add => wrap (x + y)
  | .sub => wrap (x - y)
  | .mul | .mulwide => wrap (x * y)
  | .mulhi => wrap (x * y / 2 ^ t.w)
  | .fma => wrap (x * y + z)
  | .fms => wrap (x * y - z)
  | .fnma => wrap (z - x * y)
  | .div => some (if y = 0 then (0, flDZ) else (wrapInt t.w (x.tdiv y), 0))
  | .min => wrap (Min.min x y)
  | .max => wrap (Max.max x y)
  | .abs => wrap x.natAbs
  | .neg => wrap (-x)
  | .addsat => some (clamp t (x + y))
  | .subsat => some (clamp t (x - y))
  | .mulsat => some (clamp t (x * y))
  | .and => some (a &&& b, 0)
  | .or => some (a ||| b, 0)
  | .xor => some (a ^^^ b, 0)
  | .not => some (2 ^ t.w - 1 - a, 0)
  | .andnot => some (a &&& (2 ^ t.w - 1 - b), 0)
  | .shl => some (a * 2 ^ (b % t.w) % 2 ^ t.w, 0)
  | .shr => some (a / 2 ^ (b % t.w), 0)
  | .sar => wrap (toSigned t.w a / 2 ^ (b % t.w))
  | .rotl => some ((a * 2 ^ (b % t.w) + a / 2 ^ (t.w - b % t.w)) % 2 ^ t.w, 0)
  | .select => some (if a % 2 = 1 then b else d, 0)
  | .clz => some (if a = 0 then t.w else t.w - 1 - a.log2, 0)
  | .popcnt => some ((List.range t.w).countP fun j => a.testBit j, 0)
  | .cvt => if tt.isFlt then none else some (wrapInt tt.w x, 0)
  | .cvtsat => some (clamp tt x)
  | .cmp .eq => truth (x = y)
  | .cmp .ne => truth (x ≠ y)
  | .cmp .lt => truth (x < y)
  | .cmp .le => truth (x ≤ y)
  | .cmp .gt => truth (x > y)
  | .cmp .ge => truth (x ≥ y)
  | .cmp .un => truth False
  | .cmp .ord => truth True
  | _ => none

/-- The value of an element-wise order on a floating format, by the arithmetic that engines and callers share (R247; R109 to R112,
R117 to R120, R151): rounded once under the order's rounding, with its flags. -/
def floatValue (op : Op) (f : Fmt) (c : ArCtx) (a b d : Nat) : Option Res :=
  match op with
  | .add => some (fAdd f c.rm c.ftz a b)
  | .sub => some (fSub f c.rm c.ftz a b)
  | .mul => some (fMul f c.rm c.ftz a b)
  | .fma => some (fFma f c.rm c.ftz false false a b d)
  | .fms => some (fFma f c.rm c.ftz false true a b d)
  | .fnma => some (fFma f c.rm c.ftz true false a b d)
  | .div => some (fDiv f c.rm c.ftz a b)
  | .sqrt => some (fSqrt f c.rm c.ftz a)
  | .min => some (fMinMax f false c.ftz a b)
  | .max => some (fMinMax f true c.ftz a b)
  | .abs => some (fAbs f a, 0)
  | .neg => some (fNeg f a, 0)
  | .cvt =>
    match c.tt with
    | .flt g => some (fltToFlt f g c.rm c.ftz a)
    | t => some (fltToInt f t c.rm c.ftz false a)
  | .cvtsat => some (fltToInt f c.tt c.rm c.ftz true a)
  | .rndint => some (fRndint f c.rm c.ftz a)
  | .quantize => some (fQuantize f c.rm a b)
  | .scaleb => some (fScaleb f c.rm c.ftz a b)
  | .logb => some (fLogb f c.rm c.ftz a)
  | .copysign => some (fCopysign f a b, 0)
  | .cls => some (fClass f a, 0)
  | .cmp k => some ((cmpVal (.flt f) c.ftz k a b).1.toNat, (cmpVal (.flt f) c.ftz k a b).2)
  | _ => none

/-- Element-wise orders (R101, R109 to R121, R151): where the control bit of the element is 1, X receives the value on
the elements of A, B and C with its flags, and a compare counts ones; where it is 0, X receives A (where A has X's
type), or zero, and no flag. This is the performance, which transforms nothing. The value on integers and on floating
formats is that of the tables. The model's own choices that its clauses rest on: log entry 11, a disabled element of a
relay passes. -/
def Obligations.ElementwiseOrdersGiveTheirValues : Prop :=
  (∀ (op : Op) (c : ArCtx) (a b d : Nat) (r : Res), (∀ f, c.t ≠ .flt f) →
    a < 2 ^ c.t.w → b < 2 ^ c.t.w → d < 2 ^ c.t.w → 0 < c.t.w →
    integerValue op c.t c.tt a b d = some r → opVal op c a b d = r) ∧
  (∀ (op : Op) (c : ArCtx) (f : Fmt) (a b d : Nat) (r : Res), c.t = .flt f → floatValue op f c a b d = some r →
    opVal op c a b d = r) ∧
  (∀ (v : Env) (p : Pass) (a b d k : Nat) (ra rb rc rk : List (Nat × Nat)), v.rep = false →
    (∃ r, (integerValue v.op v.ctx.t v.ctx.tt a b d = some r ∧ v.op ≠ .select) ∨
      ∃ f, v.ctx.t = .flt f ∧ floatValue v.op f v.ctx a b d = some r) →
    v.kbit p.next = .ok k rk → k % 2 = 1 →
    v.rd 0 p.next = (0, .ok a ra) → v.rd 1 p.next = (1, .ok b rb) → v.rd 2 p.next = (2, .ok d rc) →
    ∃ e, v.unit p = .ok e ∧ e.flags = (opVal v.op v.ctx a b d).2 ∧ e.rel = ra ++ (rb ++ (rc ++ (rk ++ []))) ∧ e.counts = true ∧
      e.outs = v.out 6 p.next (some (opVal v.op v.ctx a b d).1) ++
        (if v.op = .mulwide then v.out 7 p.next (some (wideMul v.ctx.t a b).2) else []) ∧
      e.pass = { p with
        next := p.next + 1
        ones := p.ones + (match v.op with | .cmp _ => (opVal v.op v.ctx a b d).1 | _ => 0) }) ∧
  (∀ (v : Env) (p : Pass) (a b d k : Nat) (ra rb rc rk : List (Nat × Nat)), v.rep = false →
    (∃ r, integerValue v.op v.ctx.t v.ctx.tt a b d = some r ∨
      ∃ f, v.ctx.t = .flt f ∧ floatValue v.op f v.ctx a b d = some r) →
    v.op ≠ .select → v.op ≠ .mulwide → (∀ k, v.op ≠ .cmp k) →
    v.kbit p.next = .ok k rk → k % 2 = 0 → v.rd 0 p.next = (0, .ok a ra) → v.pass 1 p.next = (1, .ok b rb) →
    v.pass 2 p.next = (2, .ok d rc) →
    ∃ e, v.unit p = .ok e ∧ e.flags = 0 ∧ e.pass = p.step ∧
      e.outs = v.out 6 p.next (some (if v.ty 6 = v.ctx.t then a else zeroOf (v.ty 6))))

/-- The operation with which a reduction combines, on its partial value and an element (R122). -/
def combining : Op → Option Op
  | .sum | .segsum => some .add
  | .minr | .segmin => some .min
  | .maxr | .segmax => some .max
  | .andr => some .and
  | .orr => some .or
  | .xorr => some .xor
  | _ => none

/-- Orders that combine or move elements (R101, R115, R122, R123, R125, R128 to R130, R132 to R135, R138, R140, R143,
R145, R147, R152): a reduction takes an enabled element into the partial value of its number modulo 32, dot products by
one fused multiply-add, and writes the result of the tree, delivered as any result is, or the empty result, after the
last element; SELECT takes A or B; COPY and FILL leave a disabled element unwritten; COMPRESS writes the enabled
elements one after another, EXPAND spreads them; GATHER and SCATTER use the address that the index names, with an open
value where it meets another stream of the order; a segment opens with its length, an empty one writes the empty result,
and the last element of another writes its result; a prefix sum writes the inclusive or exclusive prefix of its group
behind the carry; LINREC combines from xprev or the first element of C; SPMV opens a row by its pointers, multiplies its
non-zeros and writes the row, ROWPTR where they fall; ARCAPPEND and SEALFEED take a byte, ARCREAD writes one; a scene
runs its steps in order. The model's own choices that its clauses rest on: log entry 11, a disabled element of a relay
passes; log entry 34, flags of the final tree; log entry 172, the accesses that meet another stream. -/
def Obligations.CombiningAndMovingOrdersGiveTheirEffects : Prop :=
  (∀ (v : Env) (p : Pass) (a b k j : Nat) (ra rb rk rj : List (Nat × Nat)), v.rep = false →
    let i := p.next
    let c := v.ctx
    v.kbit i = .ok k rk →
    (∀ o, combining v.op = some o → (v.op = .sum ∨ v.op = .minr ∨ v.op = .maxr ∨ v.op = .andr ∨ v.op = .orr ∨ v.op = .xorr) →
      k % 2 = 1 → v.rd 0 i = (0, .ok a ra) →
      ∃ e, v.unit p = .ok e ∧ e.outs = [] ∧ e.pass.next = i + 1 ∧
        ((p.parts[i % 32]?).join = none → e.pass.parts = p.parts.set (i % 32) (some a) ∧ e.flags = 0) ∧
        (∀ x, (p.parts[i % 32]?).join = some x →
          e.pass.parts = p.parts.set (i % 32) (some (opVal o c x a 0).1) ∧ e.flags = (opVal o c x a 0).2)) ∧
    (v.op = .dot → k % 2 = 1 → v.rd 0 i = (0, .ok a ra) → v.rd 1 i = (1, .ok b rb) →
      ∃ e, v.unit p = .ok e ∧ e.outs = [] ∧ e.pass.next = i + 1 ∧
        ((p.parts[i % 32]?).join = none →
          e.pass.parts = p.parts.set (i % 32) (some (opVal .mul c a b 0).1) ∧ e.flags = (opVal .mul c a b 0).2) ∧
        (∀ x, (p.parts[i % 32]?).join = some x →
          e.pass.parts = p.parts.set (i % 32) (some (fusedX .cab false false false c none a b x).1.1) ∧
            e.flags = (fusedX .cab false false false c none a b x).1.2)) ∧
    ((v.op = .sum ∨ v.op = .minr ∨ v.op = .maxr ∨ v.op = .andr ∨ v.op = .orr ∨ v.op = .xorr ∨ v.op = .dot) →
      let tree := finalTree v.op c none p.parts
      (tree.1 = none → v.finOuts p = some (v.out 6 0 (some (emptyResult v.op c.t)), tree.2.1)) ∧
      (∀ x, tree.1 = some x → v.finOuts p =
        some (v.out 6 0 (some (deliverVal c.t c.ftz x).1), tree.2.1 ||| (deliverVal c.t c.ftz x).2))) ∧
    (v.op = .select → v.rd 0 i = (0, .ok a ra) → v.rd 1 i = (1, .ok b rb) →
      ∃ e, v.unit p = .ok e ∧ e.flags = 0 ∧ e.pass = p.step ∧ e.outs = v.out 6 i (some (if k % 2 = 1 then a else b))) ∧
    (v.op = .copy →
      (k % 2 = 1 → v.rd 0 i = (0, .ok a ra) → ∃ e, v.unit p = .ok e ∧ e.flags = 0 ∧ e.outs = v.out 6 i (some a) ∧ e.pass.next = i + 1) ∧
      (k % 2 = 0 → v.pass 0 i = (0, .ok a ra) → ∃ e, v.unit p = .ok e ∧ e.flags = 0 ∧ e.outs = v.out 6 i none ∧ e.pass.next = i + 1)) ∧
    (v.op = .fill →
      (k % 2 = 1 → p.ptr = none → v.rd 0 0 = (0, .ok a ra) →
        ∃ e, v.unit p = .ok e ∧ e.flags = 0 ∧ e.outs = v.out 6 i (some a) ∧ e.pass.ptr = some a) ∧
      (∀ x, k % 2 = 1 → p.ptr = some x → ∃ e, v.unit p = .ok e ∧ e.flags = 0 ∧ e.outs = v.out 6 i (some x) ∧ e.pass.ptr = some x)) ∧
    (v.op = .compress →
      (k % 2 = 1 → v.rd 0 i = (0, .ok a ra) →
        ∃ e, v.unit p = .ok e ∧ e.outs = v.out 6 p.out (some a) ∧ e.pass.out = p.out + 1 ∧ e.pass.next = i + 1) ∧
      (k % 2 = 0 → v.pass 0 i = (0, .ok a ra) → ∃ e, v.unit p = .ok e ∧ e.outs = [] ∧ e.pass = p.step) ∧
      v.finOuts p = some (v.out 7 0 (some p.out), 0)) ∧
    (v.op = .expand →
      (k % 2 = 1 → v.elem 0 p.aux false = .ok a ra →
        ∃ e, v.unit p = .ok e ∧ e.outs = v.out 6 i (some a) ∧ e.pass.aux = p.aux + 1) ∧
      (k % 2 = 0 → ∃ e, v.unit p = .ok e ∧ e.outs = v.out 6 i (some (zeroOf (v.ty 6))) ∧ e.pass = p.step)) ∧
    (v.op = .gather → v.elem 4 i false = .ok j rj →
      (k % 2 = 1 → v.memVal (v.indexed 0 j) (v.ty 0).bytes MErr.range.code = .ok a ra →
        ∃ e y, v.unit p = .ok e ∧ e.outs = v.out 6 i (some y) ∧ e.pass = p.step ∧
          (v.crosses false (v.indexed 0 j) (v.ty 0).bytes = false → y = a)) ∧
      (k % 2 = 0 → ∃ e, v.unit p = .ok e ∧ e.outs = v.out 6 i (some (zeroOf (v.ty 6))) ∧ e.pass = p.step)) ∧
    ((v.op = .scatter ∨ v.op = .scatteradd) → v.elem 4 i false = .ok j rj → k % 2 = 1 → v.rd 0 i = (0, .ok a ra) →
      (v.op = .scatter → 0 ≤ v.indexed 6 j → v.indexed 6 j < 2 ^ 48 →
        ∃ e y, v.unit p = .ok e ∧ e.outs = [⟨6, i, some (v.indexed 6 j).toNat, some y⟩] ∧ e.flags = 0 ∧ e.pass = p.step ∧
          (v.crosses true (v.indexed 6 j) (v.ty 6).bytes = false → y = a)) ∧
      (v.op = .scatteradd → v.memVal (v.indexed 6 j) (v.ty 6).bytes MErr.range.code = .ok b rb →
        ∃ e y, v.unit p = .ok e ∧ e.outs = [⟨6, i, some (v.indexed 6 j).toNat, some (opVal .add c y a 0).1⟩] ∧
          e.flags = (opVal .add c y a 0).2 ∧ e.pass = p.step ∧
          (v.crosses true (v.indexed 6 j) (v.ty 6).bytes = false → y = b)))) ∧
  (∀ (v : Env) (p : Pass) (a b j : Nat) (ra rb rj : List (Nat × Nat)), v.rep = false →
    let i := p.next
    let c := v.ctx
    let segment : Prop := v.op = .segsum ∨ v.op = .segmin ∨ v.op = .segmax ∨ v.op = .segdot
    ((segment ∨ v.op = .segpsum) → p.segEnd = none → v.elem 4 p.segs false = .ok j rj →
      (j ≠ 0 → ∃ e, v.unit p = .ok e ∧ e.outs = [] ∧ e.pass.next = i ∧ e.pass.segs = p.segs + 1 ∧ e.pass.parts = noParts ∧
        e.pass.segEnd = some (min (i + j) v.ent.n) ∧ e.pass.aux = i) ∧
      (j = 0 → segment → v.ent.run.skipSegs.contains p.out = false → ∃ e, v.unit p = .ok e ∧ e.pass.next = i ∧
        e.pass.segs = p.segs + 1 ∧ e.pass.out = p.out + 1 ∧ e.outs = v.out 6 p.out (some (emptyResult v.op c.t)))) ∧
    (∀ z, segment → p.segEnd = some z → v.rd 0 i = (0, .ok a ra) → (v.op = .segdot → v.rd 1 i = (1, .ok b rb)) →
      let added := partAdd v.op c none p.parts ((i - p.aux) % 32) a b
      (i + 1 < z → ∃ e, v.unit p = .ok e ∧ e.outs = [] ∧ e.pass.next = i + 1 ∧ e.pass.parts = added.1 ∧ e.flags = added.2.1) ∧
      (z ≤ i + 1 → ∃ e, v.unit p = .ok e ∧ e.pass.next = i + 1 ∧ e.pass.segEnd = none ∧ e.pass.out = p.out + 1 ∧
        e.outs = v.out 6 p.out (some (partsResult v.op c none added.1).1.1) ∧
        e.flags = added.2.1 ||| (partsResult v.op c none added.1).1.2)) ∧
    ((v.op = .psum ∨ v.op = .psumx ∨ v.op = .segpsum ∧ p.segEnd ≠ none) → v.rd 0 i = (0, .ok a ra) →
      ∃ e, v.unit p = .ok e ∧ e.pass.next = i + 1 ∧ e.rel = ra ++ [] ∧
        (∀ x, v.op ≠ .psumx → (v.inclusive true p.carry (p.grp ++ [some (a, 0)])).1 = some x → e.outs = v.out 6 i (some x)) ∧
        (v.op = .psumx → p.grp = [] → p.carry = none → e.outs = v.out 6 i (some (zeroOf c.t))) ∧
        (∀ x, v.op = .psumx → p.grp = [] → p.carry = some x → e.outs = v.out 6 i (some x)) ∧
        (∀ x, v.op = .psumx → p.grp ≠ [] → (v.inclusive true p.carry p.grp).1 = some x → e.outs = v.out 6 i (some x))) ∧
    (∀ x rx, v.op = .linrec → v.rd 0 i = (0, .ok a ra) → v.rd 1 i = (1, .ok b rb) →
      ((p.carry = some x ∧ rx = []) ∨ (p.carry = none ∧ v.elem 2 0 true = .ok x rx)) →
      ∃ e, v.unit p = .ok e ∧ e.pass.next = i + 1 ∧ e.outs = v.out 6 i (some (v.linNext p x a b).1) ∧
        (p.grp = [] → e.outs = v.out 6 i (some (fusedX .acb true false false c none a x b).1.1))) ∧
    (∀ lo hi rel, v.op = .spmv → p.row = none → v.rowPtrs p i = .ok [lo, hi] rel →
      (hi < lo → v.unit p = .stop 0xA 0) ∧
      (lo < hi → ∃ e, v.unit p = .ok e ∧ e.outs = [] ∧ e.pass.next = i ∧ e.pass.row = some (lo, hi)) ∧
      (lo = hi → ∃ e, v.unit p = .ok e ∧ e.pass.next = i + 1 ∧
        e.outs = v.out 6 i (some (partsResult .spmv c none p.parts).1.1))) ∧
    (∀ lo hi, v.op = .spmv → p.row = some (lo, hi) → p.aux < hi → v.elem 4 p.aux false = .ok j rj →
      v.memVal (v.indexed 2 j) (v.ty 2).bytes MErr.range.code = .ok b rb → v.elem 0 p.aux false = .ok a ra →
      ∃ y, (v.crosses false (v.indexed 2 j) (v.ty 2).bytes = false → y = b) ∧
      let added := partAdd .spmv c none p.parts ((p.aux - lo) % 32) a y
      (p.aux + 1 < hi → ∃ e, v.unit p = .ok e ∧ e.outs = [] ∧ e.pass.next = i ∧ e.pass.aux = p.aux + 1 ∧
        e.pass.parts = added.1) ∧
      (p.aux + 1 = hi → ∃ e, v.unit p = .ok e ∧ e.pass.next = i + 1 ∧ e.pass.row = none ∧
        e.outs = v.out 6 i (some (partsResult .spmv c none added.1).1.1))) ∧
    ((v.op = .sealfeed ∨ v.op = .arcappend ∧ v.recordOpen = true) → v.rd 0 i = (0, .ok a ra) →
      ∃ e, v.unit p = .ok e ∧ e.outs = [] ∧ e.flags = 0 ∧ e.rel = ra ++ [] ∧ e.pass = { p.step with ptr := some a }) ∧
    (v.op = .arcappend → v.recordOpen = false → v.unit p = .wait) ∧
    (∀ x d w y, v.op = .arcread → v.strm 0 = some ⟨x, .mem a, d, w⟩ → v.memVal (a : Int) 16 1 = .ok b rb →
      v.s.arcByte v.ent.run.belows v.w.idx (b % 2 ^ 64) (b / 2 ^ 64) i v.ent.n (v.undelivered p) = .byte y →
      ∃ e, v.unit p = .ok e ∧ e.outs = v.out 6 i (some y.toNat) ∧ e.flags = 0 ∧ e.pass = p.step) ∧
    (∀ vs rel, v.op = .scene → readAll (([0, 1, 2, 3, 5].filter v.has).map fun sl => v.rd sl i) = .ok vs rel →
      ∃ e, v.unit p = .ok e ∧ e.pass.next = i + 1 ∧ e.rel = rel ∧
        ∀ (d z : StepD) (x : Nat) (rx : List (Nat × Nat)), v.ent.ord.steps = [d, z] → d.bit = false → z.bit = false →
          (d.op = .add ∨ d.op = .sub ∨ d.op = .mul ∨ d.op = .min ∨ d.op = .max) →
          (z.op = .add ∨ z.op = .sub ∨ z.op = .mul ∨ z.op = .min ∨ z.op = .max) →
          v.has 0 = true → v.has 1 = true → v.has 2 = true → d.s1 = 1 → d.s2 = 2 → z.s1 = 8 → z.s2 = 3 →
          d.toX = false → d.toY = false → z.toX = true → z.toY = false →
          v.rd 0 i = (0, .ok a ra) → v.rd 1 i = (1, .ok b rb) → v.rd 2 i = (2, .ok x rx) →
          let y := opVal d.op c a b 0
          e.flags = y.2 ||| (opVal z.op c y.1 x 0).2 ∧ e.outs = v.out 6 i (some (opVal z.op c y.1 x 0).1)))

/-! ### Engines: the life of an order -/

/-- The head order `x` of queue `q` may start or go on now: neither queue of its engine drains or runs an order, the queue is runnable
and entitled, the engine does not wait for a new pairing, and no switch of a time partition is being measured. -/
structure MayRun (s : State) (q : Nat) (x : Entry) : Prop where
  head : s.head q = some x
  still : x.run.phase.busy = false
  alone : s.qBusy (if q % 2 = 0 then q + 1 else q - 1) = false
  runnable : s.runnable q = true
  entitled : s.entitled q = true
  paired : (s.reg rRepMstat).bit (3 + q / 2) = false
  unmarked : (s.tpOf (q / 2)).mark = none

/-- ORDER_START (R69, R91, R145, R147 to R149, R210, R211, R220, R223, R228 to R231, R279): a queued order runs, its
settings captured, with its seal unit held, or ends at once with its status; a parked or stopped order goes on from its
record, is abandoned, or ends with status 8 where the record does not hold. Without an order, or while its engine is
taken, nothing changes. The model's own choices that its clauses rest on: log entry 5, it does nothing otherwise; log
entry 37, the order of the checks; log entry 135, the number of units is an operand. -/
def Obligations.OrdersStartAndResume : Prop :=
  ∀ (s : State) (e : BitVec 4) (w : World), let q := qOf e.toNat w
    (s.head q = none → exec (.orderStart e w) s = .next s) ∧
    (∀ x, s.head q = some x → (x.run.phase.busy = true ∨ s.runnable q = false ∨ s.entitled q = false) →
      exec (.orderStart e w) s = .next s) ∧
    (∀ x, MayRun s q x → x.run.phase = .queued →
      (∀ st, s.startEnd q x = some st → exec (.orderStart e w) s = .next (s.finish q st)) ∧
      (x.n = 0 → s.startEnd q x = some 1) ∧
      (s.startEnd q x = none →
        ∃ t y, exec (.orderStart e w) s = .next t ∧ t.head q = some y ∧ y.ord = x.ord ∧ y.strms = x.strms ∧ y.tag = x.tag ∧
          y.run.phase = .running ∧ y.run.begun = true ∧ y.run.reprised = s.toReprise (q / 2) (qWorld q) x.ord ∧
          y.run.perf = x.run.perf ∧ y.run.wdCount = 0 ∧
          t.mem = s.mem ∧ t.hostMem = s.hostMem ∧ t.cals = s.cals ∧
          (∀ k, k ≠ q → t.queue k = s.queue k) ∧
          (∀ u, x.unit = some u → (t.sea u).holder = some q))) ∧
    (∀ x, MayRun s q x → x.run.phase ≠ .queued →
      (s.readRecord q x = none → exec (.orderStart e w) s = .next ((s.recordUe q x).finish q 8)) ∧
      (∀ words, s.readRecord q x = some words →
        (x.run.phase = .stopped → x.run.resume = some 3 →
          exec (.orderStart e w) s = .next ((s.setHead q (x.setRun { x.run with heldP := [], heldR := [] })).finish q 7)) ∧
        (x.run.phase = .stopped → x.run.resume = some 2 → x.run.begun = true →
          let sk := (x.skip (s.loadRecord q x words)).1
          ∃ t y, exec (.orderStart e w) s = .next t ∧ t.head q = some y ∧ y.ord = x.ord ∧ y.tag = x.tag ∧
            y.run.phase = .running ∧ y.run.perf = sk.perf ∧ y.run.rep = sk.rep ∧ y.run.skips = sk.skips ∧
            y.run.skipSegs = sk.skipSegs ∧ y.run.resume = none ∧ t.mem = s.mem) ∧
        ((x.run.phase = .stopped → x.run.resume ≠ some 3 ∧ x.run.resume ≠ some 2) → x.run.begun = true →
          ∃ t y, exec (.orderStart e w) s = .next t ∧ t.head q = some y ∧ y.ord = x.ord ∧ y.tag = x.tag ∧
            y.run.phase = .running ∧ y.run.perf.next = (s.loadRecord q x words).perf.next ∧ y.run.resume = none ∧
            y.run.flags = (s.loadRecord q x words).flags ∧ t.mem = s.mem ∧ (∀ k, k ≠ q → t.queue k = s.queue k))))

/-- The end of an order (R126, R217, R219, R224, R233, R234, R239, R240, R298, R299, R301, R302): ORDER_COMPLETE ends an
order that is over, with its status, which ENG.CPL and, unless DONE, ENG.CPLERR show; RECORD_WRITTEN writes the progress
record and its CHECK to the record area and parks the order; the watchdog stops an order with cause 7; a comparison that
agrees only counts, one that does not sets the latch of the world. The model's own choices that its clauses rest on: log
entry 5, a command whose event is not due does nothing; log entry 16, what CHECK covers; log entry 150, several encores.
-/
def Obligations.OrdersEndAndReport : Prop :=
  (∀ (s : State) (e : BitVec 4) (w : World), let q := qOf e.toNat w
    (∀ x, s.head q = some x → x.run.failed = none →
      (x.over = true → exec (.orderComplete e w) s = .next (s.finish q (if x.run.perf.cut then 2 else 0))) ∧
      (x.over = false → exec (.orderComplete e w) s = .next s)) ∧
    (∀ x, s.head q = some x → x.run.phase = .closing → x.run.pairs = [] → x.run.cause < 6 →
      let seq := min 255 (x.run.recSeq + 1)
      let words := x.recWords seq ++ [recCheck (x.recWords seq) x.carry]
      let t := x.carry.foldl (fun t c => t.pokeOwn (portCode q 6) .free (s.recArea q + c.1) c.2)
        (s.pokeOwn (portCode q 6) .free (s.recArea q) (words.map (leBytes 8)).flatten)
      exec (.recordWritten e w) s = .next ((t.setHead q (x.setRun { x.run with
        phase := .parked
        recSeq := seq
        words := words })).settle (q / 2))) ∧
    (∀ x, s.head q = some x → (x.run.phase ≠ .closing ∨ x.run.pairs ≠ []) → exec (.recordWritten e w) s = .next s) ∧
    (∀ x, s.head q = some x → s.watched q x = true → x.run.failed = none →
      x.run.wdLimit ≤ x.run.wdCount → s.portBytes x ≤ x.run.wdSeen →
      exec (.stallWatchdogExpiry e w) s = .next (s.setHead q (x.setRun (x.run.close 7 0 0 0 false)))) ∧
    (∀ x, s.head q = some x → (s.watched q x = false ∨ x.run.wdCount < x.run.wdLimit ∨ x.run.wdSeen < s.portBytes x) →
      exec (.stallWatchdogExpiry e w) s = .next s) ∧
    (∀ x p ps k err, s.head q = some x → x.run.pairs = p :: ps → s.serving (s.engQuad (q / 2)) = some k →
      let y := x.setRun { x.run with pairs := ps }
      let t := (s.setHead q y).addRf (rRepCcount k) fRepCcountCompares 1
      (p.p = p.r ^^^ err.toNat → s.rb (rRepProofrep k) fRepProofrepMissed = false →
        exec (.signatureCompare e w err) s = .next t) ∧
      (p.p ≠ p.r ^^^ err.toNat → exec (.signatureCompare e w err) s = .next (t.mismatch q k y { p with r := p.r ^^^ err.toNat }))) ∧
    (∀ x err, s.head q = some x → x.run.pairs = [] → exec (.signatureCompare e w err) s = .next s) ∧
    (∀ x, s.head q = some x → (x.over = false ∨ x.run.failed = none ∨ s.rb rRepPctl fRepPctlEncore = false) →
      exec (.encoreStart e w) s = .next s) ∧
    (∀ x, s.head q = some x → x.over = true → x.run.failed ≠ none → x.run.encored = false →
      (s.encore.any fun en => en.q == q) = false →
      s.rb rRepPctl fRepPctlEncore = true → x.encorable = true →
      (∀ p, s.encoreSpare (q / 2) = some p →
        exec (.encoreStart e w) s = .next { s.encReport (q / 2) x.tag 1 p with encore := s.encore ++ [⟨q, p⟩] }) ∧
      (s.encoreSpare (q / 2) = none →
        exec (.encoreStart e w) s =
          .next ((s.setHead q (x.setRun { x.run with encored := true })).encReport (q / 2) x.tag 7 0))) ∧
    (∀ x, s.head q = some x → x.over = true → x.run.failed ≠ none → x.run.encored = false →
      (s.encore.any fun en => en.q == q) = false → s.rb rRepPctl fRepPctlEncore = true → x.encorable = false →
      exec (.encoreStart e w) s =
        .next ((s.setHead q (x.setRun { x.run with encored := true })).encReport (q / 2) x.tag 6 0))) ∧
  (∀ (s : State) (err : Word),
    (s.encore = [] → exec (.encoreEnd err) s = .next s) ∧
    (∀ en rest x p, s.encore = en :: rest → s.head en.q = some x → x.run.failed = some p →
      ∃ t, exec (.encoreEnd err) s = .next t ∧ t.encore = rest ∧
        t.head en.q = some (x.setRun { x.run with encored := true }) ∧ t.mem = s.mem)) ∧
  (∀ (s : State) (e w tag status flags : Nat), tag < 2 ^ 16 → status < 16 → flags < 32 → let t := s.cplWrite e w tag status flags
    t.rf (rEngCpl e w) fEngCplTag = tag ∧ t.rf (rEngCpl e w) fEngCplStatus = status ∧ t.rf (rEngCpl e w) fEngCplFlags = flags ∧
    t.rf (rEngCpl e w) fEngCplCount = (s.rf (rEngCpl e w) fEngCplCount + 1) % 2 ^ fEngCplCount.w ∧
    (status = 0 → t.reg (rEngCplerr e w) = s.reg (rEngCplerr e w)) ∧
    (status ≠ 0 → s.rb (rEngCplerr e w) fEngCplerrValid = false →
      t.rb (rEngCplerr e w) fEngCplerrValid = true ∧ t.rf (rEngCplerr e w) fEngCplerrTag = tag ∧
      t.rf (rEngCplerr e w) fEngCplerrStatus = status) ∧
    (status ≠ 0 → s.rb (rEngCplerr e w) fEngCplerrValid = true → t.rb (rEngCplerr e w) fEngCplerrOver = true))

/-- RESUME by action: its master, engine, world, tag and action (R229). -/
def resumeCommand : Instr → Option (Master × Nat × World × Nat × Nat)
  | .resumeContinue m e w tag => some (m, e.toNat, w, tag.toNat, 0)
  | .resumePass m e w tag => some (m, e.toNat, w, tag.toNat, 1)
  | .resumeSkip m e w tag => some (m, e.toNat, w, tag.toNat, 2)
  | .resumeAbandon m e w tag => some (m, e.toNat, w, tag.toNat, 3)
  | _ => none

/-- Commands to an engine (R226 to R229, R518): SUSPEND stops the head order, running or still queued, at its next
boundary with cause 6, also an ARCAPPEND that waits for its commit, or acts on the next order where every element is
done; RESUME names the tag of the stopped order and an action that its cause allows, which the order takes with its next
start; anything else raises BADCMD. The model's own choices that its clauses rest on: log entry 35, a SUSPEND past the
last element acts on the next order. -/
def Obligations.EngineCommandsSuspendAndResume : Prop :=
  ∀ (s : State) (a : RegAt),
    (∀ m e w, Reaches s m (rEngSuspend e.toNat w.idx) a → let q := qOf e.toNat w
      (s.head q = none → exec (.engSuspend m e w) s = .next (s.badCmd e.toNat)) ∧
      (∀ x, s.head q = some x →
        (x.run.phase = .stopped → exec (.engSuspend m e w) s = .next (s.badCmd e.toNat)) ∧
        ((x.run.phase = .running ∨ x.run.phase = .queued) → x.run.failed = none →
          ((x.run.perf.next < x.n ∨ s.commitWaits q x = true) →
            exec (.engSuspend m e w) s = .next (s.setHead q (x.setRun (x.run.close 6 0 0 0 false)))) ∧
          (x.n ≤ x.run.perf.next → s.commitWaits q x = false →
            exec (.engSuspend m e w) s = .next (s.setQueue q { s.queue q with suspNext := true }))))) ∧
    (∀ i m e w tag action, resumeCommand i = some (m, e, w, tag, action) → Reaches s m (rEngResume e w.idx) a →
      let q := qOf e w
      (s.head q = none → exec i s = .next (s.badCmd e)) ∧
      (∀ x, s.head q = some x →
        (x.tag ≠ tag → exec i s = .next (s.badCmd e)) ∧
        (x.mayResume action = false → exec i s = .next (s.badCmd e)) ∧
        (x.run.phase = .running → exec i s = .next (s.badCmd e)) ∧
        (x.tag = tag → x.mayResume action = true →
          let t := s.setHead q (x.setRun { x.run with resume := some action })
          (x.run.phase = .stopped → exec i s = .next ((t.settle e).tryStart q)) ∧
          (x.run.phase = .closing → 6 ≤ x.run.cause → exec i s = .next t)) ∧
        (x.mayResume 0 = true) ∧ (x.mayResume 3 = true) ∧
        (x.mayResume 1 = decide (x.run.cause = 9))))

/-! ### Relays, frames, time partitions, comparators -/

/-- A relay or frame as SCP.RLYCTL or REP.FRCFG enables it (R180, R335). -/
def freshRelay (x : Relay) (blocks : Nat) : Relay :=
  { x with head := 0, fills := [], part := 0, repFill := 0, credits := blocks, owed := 0, posP := 0, posR := 0, spoilt := none }

/-- The close of a frame (R305, R306, R309): GEN counts, the filling buffer becomes the closed one with its header and the check of
it, and, with CLEAR, the other buffer is zero and shows as clearing. -/
structure FrameCloses (s t : State) (f : Nat) : Prop where
  gen : t.rf (rRepFrstat f) fRepFrstatGen = (s.rf (rRepFrstat f) fRepFrstatGen + 1) % 2 ^ 32
  buffer : t.rf (rRepFrstat f) fRepFrstatClosedbuf = s.fillBuf f % 2
  closed : t.rb (rRepFrstat f) fRepFrstatClosed = true
  settled : t.rb (rRepFrstat f) fRepFrstatDefer = false
  filling : t.frame f = ⟨0, s.rb (rRepFrcfg f) fRepFrcfgClear⟩
  header : let h := s.frameHead f ((s.rf (rRepFrstat f) fRepFrstatGen + 1) % 2 ^ 32)
    s.rb (rRepFrcfg f) fRepFrcfgClear = false →
      t.mem = (s.pokeOwn 0xA8 (s.frameView f) (s.frameBuf f (s.fillBuf f)).1 (h ++ leBytes 8 (crc64Ecma.of h))).mem
  frame : t.cals = s.cals ∧ t.queues = s.queues ∧ t.hostMem = s.hostMem

/-- Commands of relays and frames (R174, R180, R181, R183, R305, R308, R309, R335, R360, R625): a credit returns to the
producer; SCP.RLYCTL and REP.FRCFG are stored, and enabling empties the relay or the frame, unless it is in use;
RLYFLUSH empties a relay without producer or consumer; FRCLOSE closes a frame at once, or defers while it has readers,
and is missed while the frame is busy with a close (R468); a deferred close happens without readers; a close waits for a
scratchpad that is not up. The model's own choices that its clauses rest on: log entry 5, a command whose event is not
due does nothing; log entry 102, the enable commands set EN; log entry 147, writes into another frame's closed buffer;
log entry 156, how long a close keeps the frame busy; log entry 173, a byte that the windows of the frame's world
refuse. -/
def Obligations.RelayAndFrameCommandsTakeEffect : Prop :=
  (∀ (s : State) (r : BitVec 6), let x := s.relay r.toNat
    (x.owed = 0 → exec (.relayCreditReturn r) s = .next s) ∧
    (0 < x.owed → exec (.relayCreditReturn r) s = .next (s.setRelay r.toNat { x with owed := x.owed - 1, credits := x.credits + 1 }))) ∧
  (∀ (s : State) (m : Master) (r : BitVec 6) (v : Word) (a : RegAt), Reaches s m (rScpRlyctl r.toNat) a →
    let w := v.setBit 63 true
    let x := s.relay r.toNat
    ((x.prod.isSome || x.cons.isSome) = true → exec (.relayEnable m r v) s = .next (s.flt (Flt.plain .scp 0 1))) ∧
    (x.prod = none → x.cons = none → x.fills = [] →
      let t := s.storeReg (s.auth m).src a w (BitVec.allOnes 64) false
      (s.relayEn r.toNat = false → t.relayEn r.toNat = true →
        exec (.relayEnable m r v) s = .next (t.setRelay r.toNat (freshRelay (t.relay r.toNat) (t.relayBlocks r.toNat)))) ∧
      (s.relayEn r.toNat = true → exec (.relayEnable m r v) s = .next t))) ∧
  (∀ (s : State) (m : Master) (r : BitVec 6) (a : RegAt), Reaches s m rScpRlyflush a →
    let x := s.relay r.toNat
    (s.rf (rScpRlyctl r.toNat) fScpRlyctlPkind = 0 → x.prod = none → x.cons = none →
      exec (.rlyflush m r) s = .next (s.setRelay r.toNat (freshRelay x (s.relayBlocks r.toNat)))) ∧
    ((s.rf (rScpRlyctl r.toNat) fScpRlyctlPkind ≠ 0 ∨ x.bound = true) →
      exec (.rlyflush m r) s = .next (s.flt (Flt.plain .scp 0 1)))) ∧
  (∀ (s : State) (m : Master) (f : BitVec 4) (a : RegAt), Reaches s m rRepFrclose a →
    let waits := s.late.contains (.close f.toNat)
    s.rb (rRepFrstat f.toNat) fRepFrstatDefer = false →
    (s.rb (rRepFrcfg f.toNat) fRepFrcfgEn = false → exec (.frclose m f) s = .next s) ∧
    (s.rb (rRepFrcfg f.toNat) fRepFrcfgEn = true → (s.cueBusy f.toNat = true ∨ waits = true) →
      exec (.frclose m f) s = .next (s.cueMissed f.toNat)) ∧
    (s.rb (rRepFrcfg f.toNat) fRepFrcfgEn = true → s.cueBusy f.toNat = false → waits = false → s.ready 28 = false →
      exec (.frclose m f) s = .next { s with late := s.late ++ [.close f.toNat] }) ∧
    (s.rb (rRepFrcfg f.toNat) fRepFrcfgEn = true → s.cueBusy f.toNat = false → waits = false → s.ready 28 = true →
      s.rb (rRepFrstat f.toNat) fRepFrstatClosed = true → 0 < s.rf (rRepFrstat f.toNat) fRepFrstatReaders →
      exec (.frclose m f) s =
        .next ((s.setRf (rRepFrstat f.toNat) fRepFrstatDefer 1).addRf (rRepFrstat f.toNat) fRepFrstatLate 1)) ∧
    (s.rb (rRepFrcfg f.toNat) fRepFrcfgEn = true → s.cueBusy f.toNat = false → waits = false → s.ready 28 = true →
      (s.rb (rRepFrstat f.toNat) fRepFrstatClosed = false ∨ s.rf (rRepFrstat f.toNat) fRepFrstatReaders = 0) →
      ∃ t, exec (.frclose m f) s = .next t ∧ FrameCloses s t f.toNat)) ∧
  (∀ (s : State) (f : BitVec 4),
    (s.ready 28 = true → s.rb (rRepFrstat f.toNat) fRepFrstatDefer = true →
      s.rf (rRepFrstat f.toNat) fRepFrstatReaders = 0 →
      ∃ t, exec (.frameCloseDeferred f) s = .next t ∧ FrameCloses s t f.toNat) ∧
    ((s.ready 28 = false ∨ s.rb (rRepFrstat f.toNat) fRepFrstatDefer = false ∨
        s.rf (rRepFrstat f.toNat) fRepFrstatReaders ≠ 0) →
      exec (.frameCloseDeferred f) s = .next s) ∧
    exec (.frameClearDone f) s = .next (s.setFrame f.toNat { s.frame f.toNat with clearing := false })) ∧
  (∀ (s : State) (m : Master) (f : BitVec 4) (v : Word) (a : RegAt), Reaches s m (rRepFrcfg f.toNat) a →
    let w := v.setBit 34 true
    s.frBusy f.toNat (s.wouldBe a w (BitVec.allOnes 64)) = false →
    let t := s.storeReg (s.auth m).src a w (BitVec.allOnes 64) false
    (s.rb (rRepFrcfg f.toNat) fRepFrcfgEn = true → exec (.frameEnable m f v) s = .next t) ∧
    (s.rb (rRepFrcfg f.toNat) fRepFrcfgEn = false → t.rb (rRepFrcfg f.toNat) fRepFrcfgEn = true →
      ∃ u, exec (.frameEnable m f v) s = .next u ∧ u.frame f.toNat = FrameSt.empty ∧
        u.rf (rRepFrstat f.toNat) fRepFrstatGen = 0 ∧ u.rf (rRepFrstat f.toNat) fRepFrstatReaders = 0 ∧
        u.rb (rRepFrstat f.toNat) fRepFrstatClosed = false ∧ u.rb (rRepFrstat f.toNat) fRepFrstatDefer = false ∧
        u.mem = t.mem ∧ u.cals = t.cals ∧ u.queues = t.queues ∧ (∀ b, b ≠ rRepFrstat f.toNat → u.reg b = t.reg b))) ∧
  (∀ (s : State) (m : Master) (f : BitVec 4) (v : Word) (a : RegAt), Reaches s m (rRepFrcfg f.toNat) a →
    s.frBusy f.toNat (s.wouldBe a (v.setBit 34 true) (BitVec.allOnes 64)) = true →
    exec (.frameEnable m f v) s = .next (s.flt (Flt.plain .rep 0 5)))

/-- Time partitions (R186 to R191): the table of the registers comes into force where a cycle starts; between cycles the
running table stays; at a slot boundary the partition moves to the slot that the time gives, where the running order
leaves with SLOT, or with LEND where it ran in a lent slot, and the entitled one starts; between two slots of one world
a switch that still runs goes on; an engine without a partition has no slot. The model's own choices that its clauses
rest on: log entry 5, a command whose event is not due does nothing; log entries 25 and 151, where the loss of a switch
is counted; log entry 192, when CUT is set; log entry 193, what holds until a changed table starts. -/
def Obligations.TimePartitionsMoveWithTheTable : Prop :=
  ∀ (s : State) (e : BitVec 4), let n := e.toNat
    let x := s.tpOf n
    let cyc := s.rf (rEngTpctl n) fEngTpctlCycle
    let slots := s.tpSlots n
    let inCycle : Prop := x.on = true ∧ s.time < x.start + x.cycle
    let here : Prop := s.time % cyc = s.rf (rEngTpphase n) fEngTpphasePhase % cyc
    (inCycle → exec (.tpCycleStart e) s = .next s) ∧
    (¬ inCycle → s.rb (rEngTpctl n) fEngTpctlEn = true → here → slots.foldl (fun k y => k + y.1) 0 ≤ cyc →
      exec (.tpCycleStart e) s = .next (s.tpMove n ⟨true, s.time, cyc, slots, some 0, none⟩)) ∧
    (¬ inCycle → s.rb (rEngTpctl n) fEngTpctlEn = true → here → cyc < slots.foldl (fun k y => k + y.1) 0 →
      exec (.tpCycleStart e) s =
        .next ((s.setRf (rEngTpstat n) fEngTpstatCut 1).tpMove n ⟨true, s.time, cyc, slots, some 0, none⟩)) ∧
    (¬ inCycle → s.rb (rEngTpctl n) fEngTpctlEn = true → ¬ here →
      (x.on = true → x.slot ≠ none → exec (.tpCycleStart e) s = .next (s.tpMove n { x with slot := none })) ∧
      ((x.on = false ∨ x.slot = none) → exec (.tpCycleStart e) s = .next s)) ∧
    (¬ inCycle → s.rb (rEngTpctl n) fEngTpctlEn = false → x.on = false → exec (.tpCycleStart e) s = .next s) ∧
    (¬ inCycle → s.rb (rEngTpctl n) fEngTpctlEn = false → x.on = true →
      exec (.tpCycleStart e) s = .next (s.tpMove n Tp.empty)) ∧
    (x.on = false → exec (.tpSlotBoundary e) s = .next s) ∧
    (x.on = true →
      let now := if s.time - x.start < x.cycle then slotAt x.slots 0 (s.time - x.start) else none
      let new : Tp := { x with slot := now }
      (now = x.slot → exec (.tpSlotBoundary e) s = .next s) ∧
      (now ≠ x.slot → exec (.tpSlotBoundary e) s = .next (s.tpMove n new)) ∧
      let same : Prop := ∃ w a b, x.now = some (w, a) ∧ new.now = some (w, b)
      ∀ m, (same → m = x.mark) → (¬ same → m = none) →
      let t := s.setTp n { new with mark := m }
      (now ≠ x.slot → s.qBusy (2 * n) = false → s.qBusy (2 * n + 1) = false →
        exec (.tpSlotBoundary e) s = .next (((t.settle n).tryStart (2 * n)).tryStart (2 * n + 1))) ∧
      (∀ q y, now ≠ x.slot → q / 2 = n → s.head q = some y → y.run.phase = .running → y.run.failed = none →
        s.qBusy (if q % 2 = 0 then q + 1 else q - 1) = false → s.modeRuns n = true → t.entitled q = false →
        ∃ u, exec (.tpSlotBoundary e) s = .next u ∧ u.mem = s.mem ∧ u.cals = s.cals ∧
          u.head q = some (y.setRun (y.run.close (match x.now with | some (w, _) => if w = q % 2 then 1 else 2 | none => 1) 0 0 0 false))))

/-- Comparators and pairing (R310 to R317, R600, R602, R607, R611, R622): a full proof that catches all 2048 flips
proves the comparator, one that misses any raises PROOFFAIL and wears it; a periodic proof that is due counts, at the
next of the 2 048 positions; comparator 4, free and proven, takes over for an unproven one or by the swap whose turn it
is, which ends where it is not free; REP.MODE asks for a pairing, refused with BADMODE or NOPROOF, and each engine
changes at an order boundary. The model's own choices that its clauses rest on: log entry 5, a command whose event is
not due does nothing; log entry 79, a pairing request waits during a transition; log entry 152, the order of the
positions; log entry 170, the time of a substitution. -/
def Obligations.ComparatorsProveAndPair : Prop :=
  (∀ (s : State) (k : Fin 5) (caught : BitVec 12) (lane : BitVec 5) (pos : BitVec 6),
    let a := rRepProofrep k.val
    let u := s.setCus { s.cus with proofs := s.cus.proofs.filter fun j => j != k.val }
    (k.val ∉ s.cus.proofs → exec (.fullProofDone k caught lane pos) s = .next s) ∧
    (k.val ∈ s.cus.proofs → 2048 ≤ caught.toNat →
      ∃ t, exec (.fullProofDone k caught lane pos) s = .next t ∧ t.cus = u.cus ∧
        t.rf a fRepProofrepInjected = 2048 ∧ t.rf a fRepProofrepCaught = 2048 ∧ t.rb a fRepProofrepDone = true ∧
        t.rb a fRepProofrepMissed = false ∧ t.rb (rRepCstat k.val) fRepCstatProven = true ∧
        t.rf (rRepCstat k.val) fRepCstatPeriodic = s.rf (rRepCstat k.val) fRepCstatPeriodic ∧
        (∀ b, b ≠ a → b ≠ rRepCstat k.val → t.reg b = s.reg b) ∧ t.mem = s.mem ∧ t.cals = s.cals ∧ t.queues = s.queues) ∧
    (k.val ∈ s.cus.proofs → caught.toNat < 2048 →
      let t := ((u.setRf a fRepProofrepInjected 2048).setRf a fRepProofrepCaught caught.toNat).setRf a fRepProofrepDone 1
      let t := ((t.setRf a fRepProofrepMissed 1).setRf a fRepProofrepMisslane lane.toNat).setRf a fRepProofrepMissbit pos.toNat
      exec (.fullProofDone k caught lane pos) s =
        .next (((t.setRf (rRepCstat k.val) fRepCstatProven 0).raise (Flt.plain .rep k.val 2)).wear (ixCmp k.val) true))) ∧
  (∀ (s : State) (k : Fin 5),
    (∀ caught, ((s.mode ≠ 4 ∧ s.mode ≠ 5) ∨ s.repActive k.val = false ∨ s.proofDue k.val = false) →
      exec (.periodicProof k caught) s = .next s) ∧
    ((s.mode = 4 ∨ s.mode = 5) → s.repActive k.val = true → s.proofDue k.val = true →
      let i := Tab.get natDefault s.cus.proofAt k.val
      let u := s.setCus { s.cus with
        proofAt := Tab.set natDefault s.cus.proofAt k.val ((i + 1) % 2048)
        proofTime := Tab.set natDefault s.cus.proofTime k.val s.time }
      let fails (v : State) : State :=
        ((v.setRf (rRepCstat k.val) fRepCstatProven 0).raise (Flt.plain .rep k.val 2)).wear (ixCmp k.val) true
      exec (.periodicProof k true) s =
        .next (u.setRf (rRepCstat k.val) fRepCstatPeriodic ((s.rf (rRepCstat k.val) fRepCstatPeriodic + 1) % 65536)) ∧
      (s.rb (rRepProofrep k.val) fRepProofrepMissed = true → exec (.periodicProof k false) s = .next (fails u)) ∧
      (s.rb (rRepProofrep k.val) fRepProofrepMissed = false →
        exec (.periodicProof k false) s = .next (fails (((u.setRf (rRepProofrep k.val) fRepProofrepMissed 1).setRf
          (rRepProofrep k.val) fRepProofrepMisslane (i / 64)).setRf (rRepProofrep k.val) fRepProofrepMissbit (i % 64)))))) ∧
  (∀ (s : State) (q : BitVec 2),
    (s.serving q.toNat = none → exec (.comparatorSubstitution q) s = .next s) ∧
    (s.swapMode = false → exec (.comparatorSubstitution q) s = .next s) ∧
    (∀ k, s.serving q.toNat = some k → s.swapMode = true →
      let turn : Prop := ∃ r, s.nextSwap = some r ∧ r.index = ixCmp k
      (s.isFree (ixCmp 4) = true →
        (s.proven 4 = true → (s.proven k = false ∨ turn) →
          ∃ dur, dur ≤ 20 ∧ exec (.comparatorSubstitution q) s =
            .next (((s.takeFree.2.moveRes (ixCmp k) (ixCmp 4)).dropSwap (ixCmp k)).swapEnd 3 (ixCmp k) 1 dur)) ∧
        ((s.proven 4 = false ∨ s.proven k = true ∧ ¬ turn) → exec (.comparatorSubstitution q) s = .next s)) ∧
      (s.isFree (ixCmp 4) = false →
        (¬ turn → exec (.comparatorSubstitution q) s = .next s) ∧
        (∀ r, s.nextSwap = some r → r.index = ixCmp k →
          exec (.comparatorSubstitution q) s = .next (s.noPlace r))))) ∧
  (∀ (s : State) (m : Master) (sp vp : Bool) (a : RegAt), Reaches s m rRepMode a →
    let w := BitVec.ofNat 64 (sp.toNat + 2 * vp.toNat)
    let r := (s.wouldBe a w (BitVec.allOnes 64)).toNat % 4
    let newly := (r % 2 == 1 && (s.reg rRepMode).toNat % 2 == 0) || (r / 2 % 2 == 1 && (s.reg rRepMode).toNat / 2 % 2 == 0)
    (s.cus.target ≠ none → s.rb rRepMstat fRepMstatHandover = false →
      exec (.repModeWrite m sp vp) s = .next (s.setCus { s.cus with repReq := some r })) ∧
    ((s.cus.target = none ∨ s.rb rRepMstat fRepMstatHandover = true) →
      (s.mode ≠ 4 → s.mode ≠ 5 → s.mode ≠ 6 → exec (.repModeWrite m sp vp) s = .next (s.flt (Flt.plain .rep 0 4))) ∧
      ((s.mode = 4 ∨ s.mode = 5 ∨ s.mode = 6) →
        (newly = true → s.proofOk = false → exec (.repModeWrite m sp vp) s = .next (s.flt (Flt.plain .rep 0 3))) ∧
        ((newly = false ∨ s.proofOk = true) →
          exec (.repModeWrite m sp vp) s =
            .next ((s.storeReg (s.auth m).src a w (BitVec.allOnes 64) false).handover r))))) ∧
  (∀ (s : State) (e : BitVec 4),
    (s.rb rRepMstat fRepMstatHandover = false → exec (.enginePairingChange e) s = .next s) ∧
    (s.rb rRepMstat fRepMstatHandover = true → (s.qBusy (2 * e.toNat) || s.qBusy (2 * e.toNat + 1)) = true →
      exec (.enginePairingChange e) s = .next s.pairDone.takeTriggers) ∧
    (s.rb rRepMstat fRepMstatHandover = true → (s.qBusy (2 * e.toNat) || s.qBusy (2 * e.toNat + 1)) = false →
      exec (.enginePairingChange e) s =
        .next ({ s.setReg rRepMstat ((s.reg rRepMstat).setBit (3 + e.toNat) false) with
          engPair := s.engPair.erase e.toNat }.pairDone.takeTriggers)))

/-! ### Cues, cue pins, faults -/

/-- The monitor in the window of RATEWIN µs that the time base gives: in a new one every count starts again (R7, R470). -/
def inWindow (s : State) : State :=
  let w := s.rf rCueRatectl fCueRatectlRatewin
  let n := s.time / w * w
  if n = s.cue.window then s else { s with cue := { s.cue with attempts := [], window := n } }

/-- The monitor's count of attempts on `ch` with one more attempt (R470). -/
def attempted (s : State) (ch : Nat) : State :=
  let u := inWindow s
  { u with cue := { u.cue with attempts := Tab.set natDefault u.cue.attempts ch (u.attempts ch + 1) } }

/-- What a safety-class fault that the delivery of a cue meets does further, once (R356, R484). -/
def furtherOnce (s : State) (f : Flt) : State := s.escalateWith (fun s _ => s) f

/-- The decision on an attempt (R464): accepted, it counts, its spacing starts and it is delivered; otherwise it is ignored
and counted. -/
def decidedFiring (s : State) (ch : Nat) : State :=
  if s.groupOn ch = true ∧ s.spaced ch = true then
    let u := s.setRf (rCueChstat ch) fCueChstatFired (s.rf (rCueChstat ch) fCueChstatFired + 1)
    { u with cue := { u.cue with last := Tab.set firedDefault u.cue.last ch (some (u.beats, u.time)) } }.deliver furtherOnce ch
  else s.setRf (rCueChstat ch) fCueChstatIgnored (satAdd (s.rf (rCueChstat ch) fCueChstatIgnored) 1 (2 ^ fCueChstatIgnored.w - 1))

/-- `t` is `s` after a firing attempt on channel `ch` (R462, R464, R470): 254 and 255 never fire; the attempt is counted and
decided, and the one that reaches a non-zero RATELIM sets RATE, raises LOOP and, with RATEOFF, disables the group. -/
structure Fired (s t : State) (ch : Nat) : Prop where
  never : 254 ≤ ch → t = s
  below : ch < 254 → let u := decidedFiring (attempted s ch) ch
    (u.rf (rCueChcfg ch) fCueChcfgRatelim = 0 ∨ u.attempts ch ≠ u.rf (rCueChcfg ch) fCueChcfgRatelim) → t = u
  reaches : ch < 254 → let u := decidedFiring (attempted s ch) ch
    u.rf (rCueChcfg ch) fCueChcfgRatelim ≠ 0 → u.attempts ch = u.rf (rCueChcfg ch) fCueChcfgRatelim →
      let v := (u.setRf (rCueChstat ch) fCueChstatRate 1).flt ⟨.cue, 0, 2, none, 0, ch, 0, false⟩
      (v.rb (rCueChcfg ch) fCueChcfgRateoff = false → t = v) ∧
      (v.rb (rCueChcfg ch) fCueChcfgRateoff = true → t = v.setReg rCueGrpen ((v.reg rCueGrpen).setBit (ch / 8) false))

/-- Cue channels and groups (R463, R464, R465, R470, R471): a register write fires its command channel, and is DENIED
for another channel or world; GRPSET and GRPCLR set and clear exactly the named groups; a timer fires where its phase
comes; a new rate window starts every count again. The model's own choices that its clauses rest on: log entry 5, a
timer that is not due does nothing; log entries 12 and 174, windows count from time zero; log entry 93, firing does not
depend on power. -/
def Obligations.FiringAttemptsAreDecided : Prop :=
  (∀ (s : State) (m : Master) (ch : BitVec 8) (w : Fin 2) (a : RegAt), Reaches s m (rCueFires w.val) a →
    let i : Instr := if w.val = 0 then .cueFires m ch else .cueFirev m ch
    (ch.toNat < 128 → s.rf (rCueChcfg ch.toNat) fCueChcfgWorld = w.val → ∃ t, exec i s = .next t ∧ Fired s t ch.toNat) ∧
    ((128 ≤ ch.toNat ∨ s.rf (rCueChcfg ch.toNat) fCueChcfgWorld ≠ w.val) →
      exec i s = .next (s.flt ⟨.cue, 0, 1, none, (s.auth m).src, ch.toNat, cfgBase + rCueFires w.val, false⟩))) ∧
  (∀ (s : State) (m : Master) (groups : BitVec 32) (a : RegAt),
    (Reaches s m rCueGrpset a →
      ∃ t, exec (.grpset m groups) s = .next t ∧
        (∀ g, g < 64 → (t.reg rCueGrpen).bit g = ((s.reg rCueGrpen).bit g || groups.toNat.testBit g)) ∧
        (∀ b, b ≠ rCueGrpen → t.reg b = s.reg b) ∧ { t with regs := s.regs } = s) ∧
    (Reaches s m rCueGrpclr a →
      ∃ t, exec (.grpclr m groups) s = .next t ∧
        (∀ g, g < 64 → (t.reg rCueGrpen).bit g = ((s.reg rCueGrpen).bit g && !groups.toNat.testBit g)) ∧
        (∀ b, b ≠ rCueGrpen → t.reg b = s.reg b) ∧ { t with regs := s.regs } = s)) ∧
  (∀ (s : State) (n : BitVec 3), let k := n.toNat
    let here : Prop := s.time % s.rf (rCueTimer k) fCueTimerPeriod = s.rf (rCueTphase k) fCueTphasePhase % s.rf (rCueTimer k) fCueTimerPeriod
    let done : Prop := Tab.get timeDefault s.cue.timerAt k = some s.time
    (s.rb (rCueTimer k) fCueTimerEn = true → here → ¬ done →
      ∃ t, exec (.cueTimerExpiry n) s = .next t ∧
        Fired { s with cue := { s.cue with timerAt := Tab.set timeDefault s.cue.timerAt k (some s.time) } } t (240 + k)) ∧
    ((s.rb (rCueTimer k) fCueTimerEn = false ∨ ¬ here ∨ done) → exec (.cueTimerExpiry n) s = .next s)) ∧
  (∀ s : State, exec .rateWindow s = .next (inWindow s))

/-- `t` is `s` after fault `f` is raised (R484 to R486): a kind that stands already is lost and counted, and nothing else
happens; otherwise its bit is set, the first fault is captured, the enabled interrupt sources have an arrival, and a
safety-class fault fires channel 249 and, with ALARMEN, starts the ALARM_N pulse. -/
structure Raised (s t : State) (f : Flt) : Prop where
  lost : let k := f.blk.at f.inst
    (s.reg (rFltStat k)).bit f.kind = true →
      t = (s.setReg (rFltLost k) (((s.reg (rFltLost k)).setBit 0 true).setBit (32 + f.kind) true)).satRf (rFltLostcnt k) fFltLostcntCount 1
  recorded : let k := f.blk.at f.inst
    (s.reg (rFltStat k)).bit f.kind = false →
      let u := s.setReg (rFltStat k) ((s.reg (rFltStat k)).setBit f.kind true)
      let u := if s.rb (rFltFirst0 k) fFltFirst0Valid = true then u
        else ((u.setReg (rFltFirsta k) (BitVec.ofNat 64 (f.addr % 2 ^ 48))).setReg (rFltFirstt k) (BitVec.ofNat 64 s.time)).setReg
          (rFltFirst0 k) (BitVec.ofNat 64 f.first0)
      (u.reg (rFltMen k)).bit f.kind = false → (u.reg (rFltSen k)).bit f.kind = false →
        (f.safety = false → t = u) ∧
        (f.safety = true → ((u.fire 249).reg (rFltAlarmen k)).bit f.kind = false → t = u.fire 249) ∧
        (f.safety = true → ((u.fire 249).reg (rFltAlarmen k)).bit f.kind = true → t = (u.fire 249).alarmPulse)

/-- Input `n` makes an attempt, from which its next repeat counts (R474). -/
def tried (s : State) (n : Nat) : State :=
  { s with cue := { s.cue with tried := Tab.set firedDefault s.cue.tried n (some (s.beats, s.time)) } }

/-- Cue pins, injected faults and ALARM_N (R473 to R476, R484, R488, R489): an input that turns active shows, counts and
attempts to fire; one that turns inactive shows and forgets a STUCK wait; a level input repeats with its spacing and
sticks after STUCKT; PINCFG is stored; a pulse ends; a fault is injected and recorded; the ALARM_N pulse ends into HOLD.
The model's own choices that its clauses rest on: log entry 5, an event that is not due does nothing. -/
def Obligations.PinsAndInjectedFaultsTakeEffect : Prop :=
  (∀ (s : State) (i : BitVec 4), let n := i.toNat
    (s.pinActive n = true → exec (.cueInActivation i) s = .next s) ∧
    (s.pinActive n = false →
      let u := { s with cueIn := s.cueIn.setBit n (!s.cueIn.bit n) }
      let u := (u.setRf (rCuePinstat n) fCuePinstatLevel 1).addRf (rCuePinstat n) fCuePinstatActs 1
      let u := u.setActiveAt n (some s.time)
      (u.pinFires n = false → exec (.cueInActivation i) s = .next u) ∧
      (u.pinFires n = true → ∃ t, exec (.cueInActivation i) s = .next t ∧ Fired (tried u n) t (224 + n))) ∧
    (s.pinActive n = false → exec (.cueInInactive i) s = .next s) ∧
    (s.pinActive n = true →
      let u := { s with cueIn := s.cueIn.setBit n (!s.cueIn.bit n) }
      exec (.cueInInactive i) s =
        .next (((u.setRf (rCuePinstat n) fCuePinstatLevel 0).setActiveAt n none).setStuckWait n false)) ∧
    (s.rb (rCuePincfg n) fCuePincfgMode = true → s.pinActive n = true → s.pinFires n = true →
      let due := s.spacedSince (224 + n) (Tab.get firedDefault s.cue.tried n)
      (due = true → ∃ t, exec (.cueInRepeat i) s = .next t ∧ Fired (tried s n) t (224 + n)) ∧
      (due = false → exec (.cueInRepeat i) s = .next s) ∧
      (∀ t, Tab.get timeDefault s.cue.activeAt n = some t →
        (t + s.rf (rCuePincfg n) fCuePincfgStuckt ≤ s.time →
          exec (.cueStuck i) s =
            .next (((s.setRf (rCuePinstat n) fCuePinstatStuck 1).setStuckWait n true).flt ⟨.cue, 0, 3, none, 0, n, 0, false⟩)) ∧
        (s.time < t + s.rf (rCuePincfg n) fCuePincfgStuckt → exec (.cueStuck i) s = .next s))) ∧
    ((s.rb (rCuePincfg n) fCuePincfgMode = false ∨ s.pinActive n = false ∨ s.pinFires n = false) →
      exec (.cueInRepeat i) s = .next s ∧ exec (.cueStuck i) s = .next s)) ∧
  (∀ (s : State) (m : Master) (i : BitVec 4) (v : Word) (a : RegAt), Reaches s m (rCuePincfg i.toNat) a →
    let t := s.storeReg (s.auth m).src a v (BitVec.allOnes 64) false
    ((t.reg (rCuePincfg i.toNat) &&& 7) = (s.reg (rCuePincfg i.toNat) &&& 7) → exec (.pincfgWrite m i v) s = .next t) ∧
    ((t.reg (rCuePincfg i.toNat)).bit 0 = true → (s.reg (rCuePincfg i.toNat)).bit 0 = false → t.pinActive i.toNat = false →
      exec (.pincfgWrite m i v) s = .next ((t.setRf (rCuePinstat i.toNat) fCuePinstatLevel 0).setActiveAt i.toNat none))) ∧
  (∀ (s : State) (o : BitVec 4), let on := Tab.get flagDefault s.cue.pulsing o.toNat
    (on = false → exec (.cueOutPulseEnd o) s = .next s) ∧
    (on = true → s.cueBusy (0x10 + o.toNat) = true → exec (.cueOutPulseEnd o) s = .next s) ∧
    (on = true → s.cueBusy (0x10 + o.toNat) = false → exec (.cueOutPulseEnd o) s = .next
      { s.setRf (rCueOutstat o.toNat) fCueOutstatPin 0 with
        cue := { s.cue with pulsing := Tab.set flagDefault s.cue.pulsing o.toNat false } })) ∧
  (∀ (s : State) (m : Master) (b : Fin 57) (kind : BitVec 5) (a : RegAt), Reaches s m (faultBase b.val + 0xF50) a →
    (a.blk.kindMask.testBit kind.toNat = true →
      ∃ t, exec (.fltInject m b kind) s = .next t ∧ Raised s t ⟨a.blk, a.inst, kind.toNat, none, 0, 0, 0, true⟩) ∧
    (a.blk.kindMask.testBit kind.toNat = false → exec (.fltInject m b kind) s = .next (s.locked a.blk a.inst))) ∧
  (∀ s : State,
    ((s.alarmEnd = none ∨ ∃ t, s.alarmEnd = some t ∧ s.time < t) → exec .alarmPulseEnd s = .next s) ∧
    (∀ t, s.alarmEnd = some t → t ≤ s.time →
      let low := if s.cus.curtain = true then 1 else s.rf rCusAlarmctl fCusAlarmctlHold
      exec .alarmPulseEnd s = .next
        { (s.setRf rCusAlarmstat fCusAlarmstatPulsing 0).setRf rCusAlarmstat fCusAlarmstatLow low with alarmEnd := none }))

/-! ### Caller and interrupt commands -/

/-- The entry `n` of a handler table that `bs` holds: 8 bytes, least significant first (R441). -/
def tableEntry (bs : List Byte) (n : Nat) : Word := BitVec.ofNat 64 (ofLeBytes ((bs.drop (8 * n)).take 8))

/-- Commands on a caller from outside (R438, R441, R444, R432): a table reload gives the caller a copy of the table's 64
words, or an empty copy of an unreadable one; CAL.WORLD takes the custody controller or the machine level of another
caller, and a quiesced caller, and invalidates its caches and clears HELD bit 4; CAL.WSBASE takes a quiesced caller and
empties its stack of frames; CAL.RESTART takes the machine level of another caller and a caller in hold, which then runs
at the machine level and takes a trap that is pending (R448). The model's own choices that its clauses rest on: log
entry 5, a reload that is not due does nothing; log entry 128, WSBASE clears the depth. -/
def Obligations.CallersAreSetUpFromOutside : Prop :=
  (∀ (s : State) (c : BitVec 3) (z : SaveSet), let y := (s.cal c.toNat).tab z
    (y.busy = false → exec (.tableReloadDone c z) s = .next s) ∧
    (y.busy = true → (∀ p, s.target y.base.toNat = .mem p → s.memReady p = true) →
      ((∀ p, s.target y.base.toNat ≠ .mem p) → s.memReady y.base.toNat = true) →
      (∀ u bs, s.ownRead c.toNat y.base.toNat 512 = (u, .ok bs) →
        ∃ copy, exec (.tableReloadDone c z) s =
            .next ((u.setCal c.toNat ((u.cal c.toNat).setTab z ⟨y.base, copy, true, false⟩)).pollEntry c.toNat) ∧
          ∀ n, n < 64 → Tab.get wordZero copy n = tableEntry bs n) ∧
      (∀ u f, s.ownRead c.toNat y.base.toNat 512 = (u, .error f) →
        exec (.tableReloadDone c z) s =
          .next ((u.setCal c.toNat ((u.cal c.toNat).setTab z ⟨y.base, [], true, false⟩)).pollEntry c.toNat)))) ∧
  (∀ (s : State) (m : Master) (c : BitVec 3) (w : World) (a : RegAt), Reaches s m (rCalWorld c.toNat) a →
    let may := (s.auth m).custody = true ∨ (s.auth m).otherMachine c.toNat = true
    let t := s.storeReg (s.auth m).src a (BitVec.ofNat 64 w.idx) (BitVec.allOnes 64) false
    let u := t.setCal c.toNat { t.cal c.toNat with lines := [], ilines := [], fill := none }
    (may → s.quiesced c.toNat = true → t.cus.curtain = false →
      exec (.calWorldWrite m c w) s = .next (u.setStatus c.toNat ((t.cal c.toNat).status.setBit 4 false))) ∧
    ((¬ may ∨ s.quiesced c.toNat = false) → exec (.calWorldWrite m c w) s = .next (s.locked .cal c.toNat))) ∧
  (∀ (s : State) (m : Master) (c : BitVec 3) (v : Word) (a : RegAt), Reaches s m (rCalWsbase c.toNat) a →
    let t := s.storeReg (s.auth m).src a v (BitVec.allOnes 64) false
    (s.quiesced c.toNat = true →
      exec (.wsbaseWrite m c v) s = .next (t.setCal c.toNat { t.cal c.toNat with wsp := t.reg (rCalWsbase c.toNat), depth := 0 })) ∧
    (s.quiesced c.toNat = false → exec (.wsbaseWrite m c v) s = .next (s.locked .cal c.toNat))) ∧
  (∀ (s : State) (m : Master) (c : BitVec 3) (addr : Addr) (a : RegAt), Reaches s m (rCalRestart c.toNat) a →
    let may := (s.auth m).otherMachine c.toNat = true
    (may → (s.cal c.toNat).hold = true → s.cus.curtain = false →
      ∃ t : State, exec (.calRestart m c addr) s = .next (t.pollTrap c.toNat) ∧ (t.cal c.toNat).hold = false ∧ (t.cal c.toNat).status = 3 ∧
        (t.cal c.toNat).pc = addr.toNat / 4 * 4 ∧ (t.cal c.toNat).r = (s.cal c.toNat).r ∧
        (∀ z, (t.cal c.toNat).save z = (s.cal c.toNat).save z) ∧ t.rb (rCalHoldrep c.toNat) fCalHoldrepInhold = false ∧
        (∀ k, k ≠ c.toNat → t.cal k = s.cal k) ∧ (∀ b, b ≠ rCalHoldrep c.toNat → t.reg b = s.reg b) ∧
        t.mem = s.mem ∧ t.queues = s.queues) ∧
    ((¬ may ∨ (s.cal c.toNat).hold = false) → exec (.calRestart m c addr) s = .next (s.locked .cal c.toNat)))

/-- An accepted interrupt is committed (R480): PEND clears, ACTIVE is set for the caller, nothing else of its source changes. -/
structure Committed (s t : State) (c k : Nat) : Prop where
  pend : t.rb (rIdsSrcstat k) fIdsSrcstatPend = false
  active : t.rb (rIdsSrcstat k) fIdsSrcstatActive = true
  holder : t.rf (rIdsSrcstat k) fIdsSrcstatActcal = c % 16
  count : t.rf (rIdsSrcstat k) fIdsSrcstatCount = s.rf (rIdsSrcstat k) fIdsSrcstatCount
  callers : t.cals = s.cals
  memory : t.mem = s.mem

/-- An arrival at interrupt source `k` (R478). -/
structure Arrives (s t : State) (k : Nat) : Prop where
  sets : s.rb (rIdsSrcstat k) fIdsSrcstatPend = false → s.rb (rIdsSrcstat k) fIdsSrcstatActive = false →
    t = s.setRf (rIdsSrcstat k) fIdsSrcstatPend 1
  counts : (s.rb (rIdsSrcstat k) fIdsSrcstatPend = true ∨ s.rb (rIdsSrcstat k) fIdsSrcstatActive = true) →
    s.rf (rIdsSrcstat k) fIdsSrcstatCount ≠ 255 →
    t = s.setRf (rIdsSrcstat k) fIdsSrcstatCount (s.rf (rIdsSrcstat k) fIdsSrcstatCount + 1)
  lost : (s.rb (rIdsSrcstat k) fIdsSrcstatPend = true ∨ s.rb (rIdsSrcstat k) fIdsSrcstatActive = true) →
    s.rf (rIdsSrcstat k) fIdsSrcstatCount = 255 →
    t = (s.setRf (rIdsSrcstat k) fIdsSrcstatOvf 1).flt ⟨.ids, 0, 2, none, 0, k, 0, false⟩

/-- The interrupt distributor (R452, R478, R480, R482, R496): the offer that is outstanding, or the best source, is
made; one that the caller refuses ends and is remembered; one that it accepts is committed and enters its handler, the
PC to execute next being saved, and stays outstanding while a shadow, a table reload or an ORDER delays the entry; a
write of PEND is an arrival; EOI by the holder clears ACTIVE and takes one counted arrival as pending, any other EOI is
BADEOI. R478 and R482 are stated whole; the clauses on offers rest on the same section. The model's own choices that its
clauses rest on: log entry 5, an offer without a source does nothing; log entry 115, an invalid entry; log entry 126, a
pending trap refuses an offer. -/
def Obligations.InterruptsAreOfferedAndEnded : Prop :=
  (∀ (s : State) (c : BitVec 3), let n := c.toNat
    let chosen := (s.offerAt n).orElse fun _ => s.bestSource n
    let offering (o : Option Nat) : State := { s with ids := { s.ids with offers := Tab.set timeDefault s.ids.offers n o } }
    (chosen = none → exec (.interruptOffer c) s = .next (offering none)) ∧
    (∀ k, chosen = some k →
      let m := s.rb (rIdsSrccfg k) fIdsSrccfgLevel
      let z : SaveSet := if m = true then .m else worldSet (s.calWorld n)
      let code := 0x30 + s.rf (rIdsSrccfg k) fIdsSrccfgPrio
      (s.accepts n m code = false →
        exec (.interruptOffer c) s =
          .next { offering none with
            ids := { (offering none).ids with refused := Tab.set flagDefault s.ids.refused (512 * n + k) true } }) ∧
      (s.accepts n m code = true → ((s.cal n).shadow.isSome = true ∨ ((s.cal n).tab z).busy = true ∨ (s.cal n).orders ≠ []) →
        exec (.interruptOffer c) s = .next (offering (some k))) ∧
      (∀ h, s.accepts n m code = true → (s.cal n).shadow = none → ((s.cal n).tab z).busy = false → (s.cal n).orders = [] →
        ((s.cal n).tab z).handler code = some h → (s.cal n).r.resident < 14 →
        ∃ u t, Committed s u n k ∧ exec (.interruptOffer c) s = .next t ∧
          Entered u t n z (causeWord code 0 k) 0 (s.cal n).boundary 0 h))) ∧
  (∀ (s : State) (m : Master) (k : BitVec 9) (a : RegAt), Reaches s m (rIdsSrcstat k.toNat) a →
    ∃ u t, (∀ b, u.reg b = s.reg b) ∧ { u with regs := s.regs } = s ∧ exec (.srcstatPendWrite m k) s = .next t ∧
      Arrives u t k.toNat) ∧
  (∀ (s : State) (m : Master) (k : BitVec 9) (a : RegAt), Reaches s m rIdsEoi a →
    let x := rIdsSrcstat k.toNat
    let mine : Prop := s.rb x fIdsSrcstatActive = true ∧ (s.auth m).src = 0x80 + 2 * s.rf x fIdsSrcstatActcal
    (mine → s.rf x fIdsSrcstatCount = 0 → exec (.eoi m k) s = .next (s.setRf x fIdsSrcstatActive 0)) ∧
    (mine → s.rf x fIdsSrcstatCount ≠ 0 →
      exec (.eoi m k) s = .next (((s.setRf x fIdsSrcstatActive 0).setRf x fIdsSrcstatCount (s.rf x fIdsSrcstatCount - 1)).setRf
        x fIdsSrcstatPend 1)) ∧
    (¬ mine → exec (.eoi m k) s = .next (s.flt ⟨.ids, 0, 1, none, 0, k.toNat, 0, false⟩)))

/-! ### Modes, reset, power, sensors, test pins -/

/-- A transition to mode `t` starts (R621): TRANSIT shows it and the custody controller aims at `t`. -/
def aimed (s : State) (t : Nat) : State :=
  let u := s.setRf rCusMode fCusModeTransit 1
  { u with cus := { u.cus with target := some t } }

/-- R621's modes from which CUS.MODECTL may ask for mode `t`. -/
def mayAsk (s : State) (t : Nat) : Prop :=
  match t with
  | 3 => (4 ≤ s.mode ∧ s.mode ≤ 8) ∨ (s.mode = 2 ∧ s.rb rCfgStatus fCfgStatusCommitted = true)
  | 8 => s.mode = 2 ∨ (4 ≤ s.mode ∧ s.mode ≤ 7) ∨ s.mode = 11
  | 9 => (2 ≤ s.mode ∧ s.mode ≤ 8) ∨ s.mode = 11
  | 11 => 4 ≤ s.mode ∧ s.mode ≤ 7
  | _ => False

/-- The command that writes CUS.MODECTL with GO for mode `t`. -/
def modeRequest (m : Master) (after : BitVec 4) (t : Nat) : Instr :=
  match t with
  | 3 => .modectlRehearsal m after
  | 8 => .modectlCustody m after
  | 9 => .modectlCurtain m after
  | _ => .modectlRefit m after

/-- The mode in force becomes `t` (R621): CUS.MODE shows it, the mode before it and one transition more; then the entry to the
mode and status channel 250. -/
def arrivedIn (s : State) (t : Nat) : State :=
  let u := ((s.setRf rCusMode fCusModePrev s.mode).setRf rCusMode fCusModeMode t).setRf rCusMode fCusModeTransit 0
  let u := u.setRf rCusMode fCusModeCount (u.rf rCusMode fCusModeCount + 1)
  ({ u with cus := { u.cus with
    target := none
    callEnd := if s.mode = 2 then s.time else u.cus.callEnd } }.entry s.mode t).fire 250

/-- Mode transitions by command and by pin (R621, R622, R631, R635, R636, R669): a request to CUS.MODECTL starts an
allowed transition, is BADTRANS otherwise, and waits while another one runs; the pins RESET_N and PFAIL_N and the
supplies do what R621 says in the mode in force; a transition that ends arrives in its mode and the waiting triggers are
taken. The model's own choices that its clauses rest on: log entry 5, an event that is not due does nothing; log entry
79, requests during a transition; log entry 80, a rise of RESET_N acts at once; log entry 83, the order of waiting
triggers; log entry 85, SUPPLY_REMOVAL and RESET_N; log entry 91, when Rehearsal has ended. -/
def Obligations.ModesChangeAsAllowed : Prop :=
  (∀ (s : State) (m : Master) (after : BitVec 4) (t : Nat) (a : RegAt), t = 3 ∨ t = 8 ∨ t = 9 ∨ t = 11 →
    Reaches s m rCusModectl a →
    let u := s.storeReg (s.auth m).src a (BitVec.ofNat 64 (t + 2 ^ 4 * after.toNat + 2 ^ 8)) (BitVec.allOnes 64) false
    (u.cus.target = none → mayAsk u t → t ≠ 9 → exec (modeRequest m after t) s = .next (aimed u t)) ∧
    (u.cus.target = none → mayAsk u t → t = 9 → exec (modeRequest m after t) s = .next (aimed u t).dropCurtain) ∧
    (u.cus.target = none → ¬ mayAsk u t → exec (modeRequest m after t) s = .next (u.flt ⟨.cus, 0, 5, none, 0, t, 0, false⟩)) ∧
    (∀ x, u.cus.target = some x →
      exec (modeRequest m after t) s = .next { u with cus := { u.cus with request := some t } })) ∧
  (∀ s : State,
    (s.cus.resetN = false → exec .resetNFall s = .next s) ∧
    (s.cus.resetN = true →
      let u := { s with cus := { s.cus with resetN := false, resetAt := s.time, heldRise := false } }
      (s.mode = 0 → s.cus.aon = true → exec .resetNFall s = .next (arrivedIn u 1)) ∧
      (s.cus.target = none → ((2 ≤ s.mode ∧ s.mode ≤ 9) ∨ s.mode = 11 ∨ (s.mode = 10 ∧ s.cus.flushed = true)) →
        exec .resetNFall s = .next (aimed u 1)) ∧
      (s.cus.target = none → (s.mode = 1 ∨ (s.mode = 10 ∧ s.cus.flushed = false) ∨ (s.mode = 0 ∧ s.cus.aon = false)) →
        exec .resetNFall s = .next u)) ∧
    (s.cus.resetN = true → exec .resetNRise s = .next s) ∧
    (s.cus.resetN = false →
      let u := { s with cus := { s.cus with resetN := true } }
      let now := s.mode = 1 ∧ s.cus.target = none ∧ s.cus.pfailN = true ∧ s.cus.resetAt + 10 ≤ s.time ∧ s.cus.pfailAt + 10 ≤ s.time
      (now → exec .resetNRise s = .next u.callUp) ∧
      (¬ now → exec .resetNRise s = .next { u with cus := { u.cus with heldRise := true } })) ∧
    (let now := s.cus.heldRise = true ∧ s.cus.resetN = true ∧ s.mode = 1 ∧ s.cus.target = none ∧ s.cus.pfailN = true ∧
      s.cus.resetAt + 10 ≤ s.time ∧ s.cus.pfailAt + 10 ≤ s.time
     (now → exec .heldResetNRise s = .next s.callUp) ∧ (¬ now → exec .heldResetNRise s = .next s))) ∧
  (∀ s : State,
    (s.cus.pfailN = false → exec .pfailNFall s = .next s) ∧
    (s.cus.pfailN = true → s.cus.target = none →
      let u := { s with cus := { s.cus with pfailN := false, pfailAt := s.time } }
      (((2 ≤ s.mode ∧ s.mode ≤ 9) ∨ s.mode = 11) → exec .pfailNFall s = .next (aimed u 10).dropFlush) ∧
      (¬ ((2 ≤ s.mode ∧ s.mode ≤ 9) ∨ s.mode = 11) → exec .pfailNFall s = .next u)) ∧
    (s.cus.pfailN = true → exec .pfailNRise s = .next s) ∧
    (s.cus.pfailN = false → exec .pfailNRise s = .next { s with cus := { s.cus with pfailN := true, pfailAt := s.time } }) ∧
    (s.cus.aon = true → exec .vddAonRise s = .next s) ∧
    (s.cus.aon = false →
      let u := { s with cus := { s.cus with aon := true, resetAt := 0, pfailAt := 0 }, time := 0 }
      (s.cus.resetN = true → exec .vddAonRise s = .next u) ∧
      (s.cus.resetN = false → exec .vddAonRise s = .next (arrivedIn u 1))) ∧
    (s.mode = 0 → exec .supplyRemoval s = .next s) ∧
    (s.mode ≠ 0 →
      let u := ((s.setRf rCusMode fCusModePrev s.mode).setRf rCusMode fCusModeMode 0).setRf rCusMode fCusModeTransit 0
      exec .supplyRemoval s = .next { u.applyDomains with
        mem := []
        eccBad := []
        cus := { CusSt.reset with
          aon := false
          resetN := false
          clock := u.applyDomains.cus.clock
          pfailN := u.applyDomains.cus.pfailN
          thermN := u.applyDomains.cus.thermN } })) ∧
  (∀ s : State,
    (s.cus.target = none → exec .modeTransitionComplete s = .next s) ∧
    (∀ t, s.cus.target = some t → s.rb rRepMstat fRepMstatHandover = false →
      exec .modeTransitionComplete s = .next (arrivedIn s t).takeTriggers) ∧
    ((s.mode ≠ 3 ∨ s.cus.proofs ≠ [] ∨ s.rehearsed = false) → exec .rehearsalEnd s = .next s) ∧
    (s.mode = 3 → s.cus.proofs = [] → s.cus.target = none →
      (s.cus.rehAt + 5000000 ≤ s.time ∨ (∀ k, k < 4 → s.ready (24 + k) = true) ∧
        ∀ i ∈ testPlan, s.domOn (resDomain i) = true → i ∈ s.cus.tested) →
      let t := s.rf rCusModectl fCusModectlAfter
      (((t ≠ 4 ∧ t ≠ 5) ∨ s.proofOk = true) → exec .rehearsalEnd s = .next (arrivedIn s t).takeTriggers) ∧
      ((t = 4 ∨ t = 5) → s.proofOk = false →
        let u := s.raise ⟨.cus, 0, 2, none, 0, 0, 0, false⟩
        (u.rb rCusCurtpol fCusCurtpolRehfail = false → exec .rehearsalEnd s = .next (arrivedIn u 6).takeTriggers) ∧
        (u.rb rCusCurtpol fCusCurtpolRehfail = true → exec .rehearsalEnd s = .next (u.trigger .curtain 9)))))

/-- `t` is `s` after the restraint conditions are evaluated (R632): nothing in Dark and Hold; the cause in force shows; a first
cause restrains, counts and forces band 5 on every stack, and asks for the mode Restrained; the cooling time runs while calm. -/
structure Restrained (s t : State) : Prop where
  early : s.mode < 2 → t = s
  quiet : 2 ≤ s.mode → s.restraintCause = 0 →
    t = { s with cus := { s.cus with cool := if s.calm = true then some (s.cus.cool.getD s.time) else none } }
  starts : 2 ≤ s.mode → s.restraintCause ≠ 0 → s.rb rPwrRstat fPwrRstatActive = false →
    let u := (s.setRf rPwrRstat fPwrRstatCause s.restraintCause).setRf rPwrRstat fPwrRstatActive 1
    let u := (u.setRf rPwrRstat fPwrRstatEvents (u.rf rPwrRstat fPwrRstatEvents + 1)).bandsForced true
    t = { u with cus := { u.cus with cool := if u.calm = true then some (u.cus.cool.getD u.time) else none } }.trigger .restrain 7

/-- The die readings of `temps`, from sensor `i` on (R632, R653): each shows with its VALID and is judged. -/
def dieReadings (s : State) (i : Nat) : List (BitVec 9 × Bool) → State
  | [] => s
  | (v, ok) :: l =>
    if i < 16 then
      dieReadings (((s.setRf (rPwrTemp i) fPwrTempTemp v.toNat).setRf (rPwrTemp i) fPwrTempValid ok.toNat).sensed i v.toNat ok) (i + 1) l
    else s

/-- Sensors, the reference clock and the test access port (R632, R633, R667, R671). The model's own choices that its
clauses rest on: log entry 5, an event that is not due does nothing; log entry 84, a sensor not yet read does not trip;
log entry 127, the reset instruction and the cells of the test port. -/
def Obligations.SensorsAndTestPinsTakeEffect : Prop :=
  (∀ (s : State) (temps : List (BitVec 9 × Bool)) (mv : BitVec 16),
    (s.mode < 2 → exec (.dieSensorRead temps mv) s = .next s) ∧
    (2 ≤ s.mode → ∃ t, exec (.dieSensorRead temps mv) s = .next t ∧
      let u := (dieReadings s 0 temps).setRf rPwrVcore fPwrVcoreMv mv.toNat
      Restrained (if mv.toNat < 720 ∨ 850 < mv.toNat then u.flt ⟨.pwr, 0, 2, none, 0, 0, 0, false⟩ else u) t)) ∧
  (∀ (s : State) (level : Bool), ∃ t, exec (.thermNChange level) s = .next t ∧
    Restrained { s with cus := { s.cus with thermN := level } } t) ∧
  (∀ s : State,
    ((s.cus.cool = none ∨ s.rb rPwrRstat fPwrRstatActive = false) → exec .restraintEnd s = .next s) ∧
    (∀ t, s.cus.cool = some t → s.rb rPwrRstat fPwrRstatActive = true →
      (s.time < t + 100000 → exec .restraintEnd s = .next s) ∧
      (t + 100000 ≤ s.time →
        let u := (s.setRf rPwrRstat fPwrRstatActive 0).setRf rPwrRstat fPwrRstatCause 0
        exec .restraintEnd s = .next ((u.bandsForced false).trigger .relax s.cus.base))) ∧
    exec .refclkEthStop s = .next { s with cus := { s.cus with clock := false } } ∧
    exec .refclkEthReturn s = .next { s with cus := { s.cus with clock := true } }) ∧
  (∀ (s : State) (i : Fin 20),
    (Tab.get timeDefault s.cus.hot i.val = none → exec (.overtemp i) s = .next s) ∧
    (∀ t, Tab.get timeDefault s.cus.hot i.val = some t →
      (s.time < t + 1000 → exec (.overtemp i) s = .next s) ∧
      (t + 1000 ≤ s.time →
        let u := (s.setHot i.val false).raise ⟨.cus, 0, 3, none, 0, i.val, 0, false⟩
        ((u.reg rCusCurtpol).bit 2 = false → exec (.overtemp i) s = .next u) ∧
        ((u.reg rCusCurtpol).bit 2 = true → exec (.overtemp i) s = .next (u.trigger .curtain 9))))) ∧
  (∀ (s : State) (pins : Word), let x := s.cus.tap
    let put (y : TapSt) : State := { s with cus := { s.cus with tap := y } }
    exec .trstNLow s = .next (put { x with held := true, ir := 1 }) ∧
    exec .trstNHigh s = .next (put { x with held := false }) ∧
    (x.held = true → exec .bypass s = .next s ∧ exec .idcode s = .next s ∧ exec (.samplePreload pins) s = .next s ∧
      exec .extest s = .next s ∧ exec .extestPulse s = .next s ∧ exec .extestTrain s = .next s) ∧
    (x.held = false →
      exec .bypass s = .next (put { x with ir := 0, dr := 0 }) ∧
      exec .idcode s = .next (put { x with ir := 1, dr := 0x0416038B }) ∧
      (∃ v, exec (.samplePreload pins) s =
        .next { put { x with ir := 2, boundary := pins, dr := v } with free := s.free + 1 }) ∧
      (s.cus.resetN = false →
        exec .extest s = .next (put { x with ir := 3 }) ∧ exec .extestPulse s = .next (put { x with ir := 4 }) ∧
        exec .extestTrain s = .next (put { x with ir := 5 })) ∧
      (s.cus.resetN = true →
        exec .extest s = .next (put { x with ir := 0, dr := 0 }) ∧ exec .extestPulse s = .next (put { x with ir := 0, dr := 0 }) ∧
        exec .extestTrain s = .next (put { x with ir := 0, dr := 0 }))))

/-- Call-up (R624, R625, R628, R639, R680): CALSTART starts exactly the named callers that have not started; a function
that comes up shows in CUS.READY, with its memory cleared unless it was retained, the writes that waited for it are
made, a caller reports that it takes interrupts, and a stack that comes up in Rehearsal is profiled; BOOTLOAD copies the
newest committed boot record of the copy; PWR.DOMCTL switches power domains, LOCKED for a required one. The model's own
choices that its clauses rest on: log entry 5, an event that is not due does nothing; log entry 52, what FUNCTION_READY
means for the archive; log entry 81, a refused domain bit stays stored; log entry 155, when a late stack is profiled;
log entry 168, whether flash gives a boot image back sound. -/
def Obligations.CallUpStartsWhatIsNamed : Prop :=
  (∀ (s : State) (m : Master) (callers : BitVec 8) (a : RegAt), Reaches s m rCusCalstart a →
    ∃ t, exec (.calstart m callers) s = .next t ∧ { t with cals := s.cals, ids := s.ids } = s ∧
      t.ids = { s.ids with refused := t.ids.refused } ∧
      ∀ c, t.cal c = if c < 8 ∧ callers.toNat.testBit c = true ∧ (s.cal c).on = false then
          { s.cal c with on := true, asleep := false, pc := s.rf rCusStartaddr fCusStartaddrAddr * 4 }
        else s.cal c) ∧
  (∀ (s : State) (b : Fin 53), let n := b.val
    let up (u : State) : State := (u.setReg rCusReady ((u.reg rCusReady).setBit n true)).lateDrain
    (((s.readyDoms n).all s.domOn = false ∨ s.ready n = true) → exec (.functionReady b) s = .next s) ∧
    ((s.readyDoms n).all s.domOn = true → s.ready n = false →
      (n = 30 → exec (.functionReady b) s = .next s.arcDiscover) ∧
      (n = 28 → exec (.functionReady b) s = .next (up (s.zeroMem inScp))) ∧
      (24 ≤ n → n < 28 →
        let u := if s.cus.retained.bit (n + 6) = true then
            up { s with cus := { s.cus with retained := s.cus.retained.setBit (n + 6) false } }
          else up (s.zeroMem fun x => inHbm x && s.pseudoChannel x / 32 == n - 24)
        (s.mode ≠ 3 → exec (.functionReady b) s = .next u) ∧
        (s.mode = 3 → exec (.functionReady b) s = .next (u.rehearseHbm (s.rf rCusMode fCusModeCount) (n - 24)))) ∧
      (16 ≤ n → n < 24 → exec (.functionReady b) s = .next { up s with
        ids := { (up s).ids with refused := (up s).ids.refused.filter fun x => x.1 / 512 != n - 16 } }) ∧
      ((n < 16 ∨ n = 29 ∨ 30 < n) → exec (.functionReady b) s = .next (up s)))) ∧
  (∀ (s : State) (m : Master) (copy : Bool) (a : RegAt), Reaches s m rCusBootload a →
    (s.rb rCusBootload fCusBootloadBusy = true → exec (.bootload m copy) s = .next (s.locked .cus 0)) ∧
    (s.rb rCusBootload fCusBootloadBusy = false →
      exec (.bootload m copy) s =
        .next { s.setRf rCusBootload fCusBootloadBusy 1 with arc := { s.arc with load := some copy } })) ∧
  (∀ s : State,
    (s.arc.load = none → exec .bootloadDone s = .next s) ∧
    (∀ copy, s.arc.load = some copy →
      ((s.ready 30 = false ∨ s.ready 28 = false) → exec .bootloadDone s = .next s) ∧
      (s.ready 30 = true → s.ready 28 = true →
        let u := { s.setRf rCusBootload fCusBootloadBusy 0 with arc := { s.arc with load := none } }
        let which := if copy = true then 1 else 0
        let failed := (u.setRf rCusBootload fCusBootloadOk 0).setRf rCusBootload fCusBootloadLength 0
        (∀ c bs, s.bootNewest copy = some (c, bs) →
          let good : Prop := (s.tgt (4 * which)).used = true ∧ bs.length ≤ 0x400000 ∧
            (s.log (2 + which)).sound c = true ∧ Config.bootSound copy s.time = true
          (good → exec .bootloadDone s = .next
            (((u.pokeOwn 0xA9 .free 0x40041000 bs).setRf rCusBootload fCusBootloadOk 1).setRf rCusBootload
              fCusBootloadLength bs.length)) ∧
          (¬ good → exec .bootloadDone s = .next failed)) ∧
        (s.bootNewest copy = none → exec .bootloadDone s = .next failed)))) ∧
  (∀ (s : State) (m : Master) (d : Fin 50) (a : RegAt) (off : Bool), Reaches s m rPwrDomctl a →
    let i : Instr := if off = true then .domainSwitchOff m d else .domainSwitchOn m d
    let t := s.storeReg (s.auth m).src a ((s.reg rPwrDomctl).setBit d.val off) (BitVec.allOnes 64) false
    let bad := (List.range 50).any fun k => (t.reg rPwrDomctl).bit k && !(s.reg rPwrDomctl).bit k && t.domRequired k
    let u := if bad = true then t.locked .pwr 0 else t
    ((u.mode = 2 ∨ u.mode = 4 ∨ u.mode = 5 ∨ u.mode = 6 ∨ u.mode = 7 ∨ u.mode = 11) → exec i s = .next u.applyDomains) ∧
    ((u.mode < 2 ∨ u.mode = 3 ∨ u.mode = 8 ∨ u.mode = 9 ∨ u.mode = 10) → exec i s = .next u))

/-! ### The configuration space -/

/-- A read of a whole register at offset `off` by master `m` reaches register `a` (R15, R30, R33, R360, R361, R591). -/
structure ReadReaches (s : State) (m : Master) (off : Nat) (a : RegAt) : Prop where
  idle : s.cfgOpen (s.auth m) off = true
  decodes : cfgDecode off 8 false = some (.reg a)
  allowed : ∃ t, s.check (s.auth m).view .rd (cfgBase + off) = .ok t
  visible : ringHidden (s.auth m) (.reg a) = false
  powered : s.blkOn a = true

/-- The bits of the fields of a register that a read clears (R10). -/
def clearedByRead (a : RegAt) : Word :=
  a.d.flds.foldl (fun m f => if f.ty = .rc then m ||| maskOf f.lsb f.w else m) 0

/-- The commands that read a register whose VALID and companions clear with the read, with the offset of the register. -/
inductive ClearingRead (m : Master) : Instr → Nat → Prop where
  | reject (e : BitVec 4) (w : World) : ClearingRead m (.engRejectRead m e w) (rEngReject e.toNat w.idx)
  | cplerr (e : BitVec 4) (w : World) : ClearingRead m (.engCplerrRead m e w) (rEngCplerr e.toNat w.idx)
  | traprep (e : BitVec 4) (w : World) : ClearingRead m (.engTraprepRead m e w) (rEngTraprep e.toNat w.idx)
  | mmrep0 (k : Fin 5) : ClearingRead m (.mmrep0Read m k) (rRepMmrep0 k.val)
  | first0 (b : Fin 57) : ClearingRead m (.fltFirst0Read m b) (rFltFirst0 b.val)

/-- A read that clears (R10, R99, R240, R241, R324, R492, R641): it returns what the register holds and leaves zero in
the fields that reads clear, and nothing else changes; CFG.CLAMPLOG returns its oldest entry, or zero, and loses it. The
model's own choices that its clauses rest on: log entry 136, the value read stands in a port of the model. -/
def Obligations.ReadsReturnAndClear : Prop :=
  (∀ (s : State) (m : Master) (i : Instr) (off : Nat) (a : RegAt), ClearingRead m i off → ReadReaches s m off a →
    clearedByRead a ≠ 0 ∧
    exec i s = .next { s.setReg off (s.reg off &&& ~~~clearedByRead a) with rdata := s.reg off }) ∧
  (∀ (s : State) (m : Master) (a : RegAt), ReadReaches s m rCfgClamplog a →
    exec (.clamplogRead m) s =
      .next { s with cfg := { s.cfg with clamps := s.cfg.clamps.drop 1 }, rdata := s.cfg.clamps.headD 0 })

/-- A write of a register (R10, R12, R640): each field takes the value that the write carries where its range has it,
and fields that are read only, cleared by reads, or commands keep theirs; no other register changes, and nothing else in
the machine. It holds of every register that takes the write in no way of its own. The model's own choices that its
clauses rest on: log entry 100, an address outside the configuration space. -/
def Obligations.RegisterWritesStoreTheirFields : Prop :=
  ∀ (s : State) (m : Master) (addr : Addr) (v : Word) (a : RegAt),
    (cfgBase ≤ addr.toNat → addr.toNat < 0x20000000 → Reaches s m (addr.toNat - cfgBase) a →
      a.d.reg ≠ .cfgCommit → a.d.reg ≠ .lnkSecctl → a.d.reg ≠ .lnkTxsctl →
      s.writeAlone (s.auth m) a v (BitVec.allOnes 64) false = none → (∀ (u : State) (o : Word), u.wrote (s.auth m) a o v (BitVec.allOnes 64) = u) →
      s.cfg.locked = false → (∀ f ∈ a.d.flds, f.clamp ≠ .classMask ∧ (f.fix v (v.fld f.lsb f.w)).2 = false) →
      ∃ t, exec (.registerWrite m addr 8 v) s = .next t ∧
        (∀ f ∈ a.d.flds, (f.ty = .rw ∨ f.ty = .rwl) → (t.reg a.off).fld f.lsb f.w = (f.fix v (v.fld f.lsb f.w)).1) ∧
        (∀ f ∈ a.d.flds, (f.ty = .ro ∨ f.ty = .rc ∨ f.ty = .wo ∨ f.ty = .w1s) →
          (t.reg a.off).fld f.lsb f.w = (s.reg a.off).fld f.lsb f.w) ∧
        (∀ b, b ≠ a.off → t.reg b = s.reg b) ∧ t.mem = s.mem ∧ t.cals = s.cals ∧ t.queues = s.queues ∧ t.rdata = s.rdata) ∧
    (cfgBase ≤ addr.toNat → addr.toNat < 0x20000000 → Reaches s m (addr.toNat - cfgBase) a →
      (a.d.reg = .engObase ∨ a.d.reg = .engOlen ∨ a.d.reg = .engXctl ∨ a.d.reg = .engWdog ∨ a.d.reg = .repPctl ∨
        a.d.reg = .cueChcfg ∨ a.d.reg = .cueTimer ∨ a.d.reg = .idsSrccfg ∨ a.d.reg = .fltSen) →
      exec (.registerWrite m addr 8 v) s = .next (s.storeReg (s.auth m).src a v (BitVec.allOnes 64) false)) ∧
    ((addr.toNat < cfgBase ∨ 0x20000000 ≤ addr.toNat) → exec (.registerWrite m addr 8 v) s = .next s)

/-- A refused commit or preview (R643): CFG.STATUS keeps the reason and the failing entry, and the fault COMMITFAIL is raised. -/
def commitRefused (s : State) (why entry : Nat) : State :=
  ((s.setRf rCfgStatus fCfgStatusLastfail why).setRf rCfgStatus fCfgStatusFailentry entry).flt ⟨.cfg, 0, 2, none, 0, why, 0, false⟩

/-- Why a commit or preview of `count` entries with check word `check` is refused (R643), in the order of its checks: the mode,
the count and the check word, the first entry that no register takes, the expected digest, a commit under way. -/
structure CommitChecked (s : State) (src count check : Nat) (preview : Bool) (out : Option (Nat × Nat)) : Prop where
  mode : preview = false → s.mode ≠ 2 → s.mode ≠ 11 → out = some (1, 0)
  sum : (preview = true ∨ s.mode = 2 ∨ s.mode = 11) →
    (count = 0 ∨ 4096 < count ∨ crc32c.of (Tab.getMany memDefault s.cfg.staging 0 (16 * count)) ≠ check) → out = some (2, 0)
  entry : (preview = true ∨ s.mode = 2 ∨ s.mode = 11) → 0 < count → count ≤ 4096 →
    crc32c.of (Tab.getMany memDefault s.cfg.staging 0 (16 * count)) = check →
    ∀ i, i < count → s.entryReg i = none → (∀ k, k < i → s.entryReg k ≠ none) → out = some (3, i)
  rest : (preview = true ∨ s.mode = 2 ∨ s.mode = 11) → 0 < count → count ≤ 4096 →
    crc32c.of (Tab.getMany memDefault s.cfg.staging 0 (16 * count)) = check → (∀ k, k < count → s.entryReg k ≠ none) →
    let wrong : Prop := preview = false ∧ s.rb rCfgDigctl fCfgDigctlExpecten = true ∧
      (s.applyEntries src count).digestOf ≠ s.reg rCfgExpect
    (wrong → out = some (4, 0)) ∧ (¬ wrong → s.cfg.run ≠ none → out = some (5, 0)) ∧
      (¬ wrong → s.cfg.run = none → out = none)

/-- Commits, previews and the digest (R642 to R648): a staged word of the machine level stands in the staging area;
COMMIT and PREVIEW are refused in the order of R643 or set APPLYING, the commit applying its entries; ABORT ends Refit;
a preview leaves the digest that the commit would leave; an applied commit counts; the digest of the image is taken on
the timer and on a change. The model's own choices that its clauses rest on: log entry 5, an event that is not due does
nothing; log entry 86, ABORT outside Refit; log entry 87, the order of refusals and the moment of effect; log entry 88,
when the image is read. -/
def Obligations.CommitsAreCheckedAndApplied : Prop :=
  (∀ (s : State) (m : Master) (off : BitVec 16) (v : Word), s.cfgOpen (s.auth m) (0x3110000 + off.toNat) = true →
    off.toNat % 8 = 0 → (∃ t, s.check (s.auth m).view .wr (cfgBase + (0x3110000 + off.toNat)) = .ok t) →
    ((s.auth m).machine = true → s.cfg.run = none →
      exec (.stagingWrite m off 8 v) s = .next (s.stage off.toNat (leBytes 8 v.toNat))) ∧
    (((s.auth m).machine = false ∨ s.cfg.run ≠ none) → exec (.stagingWrite m off 8 v) s = .next (s.locked .cfg 0))) ∧
  (∀ (s : State) (m : Master) (a : RegAt), Reaches s m rCfgCommit a → (s.auth m).machine = true →
    (∀ (count : BitVec 13) (check : BitVec 32), ∃ out, CommitChecked s (s.auth m).src count.toNat check.toNat false out ∧
      (∀ why i, out = some (why, i) → exec (.cfgCommit m count check) s = .next (commitRefused s why i)) ∧
      (out = none →
        let u := (s.setRf rCfgStatus fCfgStatusApplying 1).applyEntries (s.auth m).src count.toNat
        exec (.cfgCommit m count check) s = .next
          { u with cfg := { u.cfg with run := some (false, count.toNat), locked := u.cfg.locked || u.mode == 2 } })) ∧
    (∀ (count : BitVec 13) (check : BitVec 32), ∃ out, CommitChecked s (s.auth m).src count.toNat check.toNat true out ∧
      (∀ why i, out = some (why, i) → exec (.cfgPreview m count check) s = .next (commitRefused s why i)) ∧
      (out = none →
        let u := s.setRf rCfgStatus fCfgStatusApplying 1
        exec (.cfgPreview m count check) s = .next { u with cfg := { u.cfg with run := some (true, count.toNat) } })) ∧
    (s.mode = 11 → s.cus.target = none → 3 ≤ s.rf rCusMode fCusModeEntry → s.rf rCusMode fCusModeEntry ≤ 8 →
      exec (.cfgAbort m) s = .next (aimed s (s.rf rCusMode fCusModeEntry))) ∧
    ((s.mode ≠ 11 ∨ s.cus.target ≠ none) → exec (.cfgAbort m) s = .next s)) ∧
  (∀ s : State,
    (∀ n, s.cfg.run = some (true, n) →
      let u := (s.setReg rCfgStagedig (s.applyEntries 0 n).digestOf).setRf rCfgStatus fCfgStatusApplying 0
      exec .previewDone s = .next { u with cfg := { u.cfg with run := none } }) ∧
    ((∀ n, s.cfg.run ≠ some (true, n)) → exec .previewDone s = .next s) ∧
    (∀ n, s.cfg.run = some (false, n) →
      let u := s.setRf rCfgStatus fCfgStatusApplying 0
      let u := u.setRf rCfgStatus fCfgStatusCommits (u.rf rCfgStatus fCfgStatusCommits + 1)
      let u := { u with cfg := { u.cfg with run := none } }
      (u.mode = 11 → exec .commitApplied s = .next u.refitEnd) ∧
      (u.mode = 2 → u.cfg.placed = false → exec .commitApplied s = .next u.placeCommit) ∧
      ((u.mode ≠ 2 ∨ u.cfg.placed = true) → u.mode ≠ 11 → exec .commitApplied s = .next u)) ∧
    ((∀ n, s.cfg.run ≠ some (false, n)) → exec .commitApplied s = .next s) ∧
    (s.cfg.moves = [] → exec .placementMove s = .next s) ∧
    ((s.mode ≠ 2 ∨ s.cfg.run ≠ none) → exec .placementMove s = .next s) ∧
    (∀ j l rest, s.cfg.moves = (j, l) :: rest → s.cfg.run = none → s.mode = 2 →
      (s.worn j = true → exec .placementMove s = .next (s.moveElse j l rest).movesEnd) ∧
      (s.worn j = false → 0x30 ≤ j → j < 0x40 →
        let u := { s.exchange j l with cfg := { (s.exchange j l).cfg with moves := rest } }
        ((rest ≠ [] ∨ s.cfg.placed = false) → exec .placementMove s = .next u.applyDomains) ∧
        (rest = [] → s.cfg.placed = true →
          exec .placementMove s = .next (u.setRf rCfgStatus fCfgStatusCommitted 1).applyDomains)))) ∧
  (∀ s : State,
    (s.time % 1000 ≠ 0 → exec .digestTimer s = .next s) ∧
    (s.cfg.changed = false → exec .digestStart s = .next s) ∧
    (s.ready 50 = true → s.cfg.digest = none → s.digestUnit = true →
      let u := s.setRf rCfgStatus fCfgStatusDigbusy 1
      let t := { u with cfg := { u.cfg with digest := some u.digestOf, changed := false } }
      (s.time % 1000 = 0 → exec .digestTimer s = .next t) ∧ (s.cfg.changed = true → exec .digestStart s = .next t)) ∧
    (s.ready 50 = true → s.cfg.digest ≠ none →
      let t := { s with cfg := { s.cfg with again := true, changed := false } }
      (s.time % 1000 = 0 → exec .digestTimer s = .next t) ∧ (s.cfg.changed = true → exec .digestStart s = .next t)) ∧
    (s.cfg.digest = none → exec .digestPublish s = .next s) ∧
    (∀ d, s.cfg.digest = some d → (s.sea 5).holder ≠ some 33 → s.cfg.again = false →
      let u := s.setReg rCfgDigest d
      let u := (u.setRf rCfgDigstat fCfgDigstatSeq (u.rf rCfgDigstat fCfgDigstatSeq + 1)).setRf rCfgStatus fCfgStatusDigbusy 0
      let u := { u with cfg := { u.cfg with digest := none, again := false } }
      let bad : Prop := u.rb rCfgDigctl fCfgDigctlExpecten = true ∧ u.mode ≠ 11 ∧ d ≠ u.reg rCfgExpect
      (¬ bad → exec .digestPublish s = .next u) ∧
      (bad → exec .digestPublish s = .next ((u.raise ⟨.cfg, 0, 3, none, 0, 0, 0, false⟩).curtEvent 4))))

/-! ### Memories and arbiters -/

/-- A valid reading of at most 150 °C on stack `k` while no restraint is in force (R345): it shows, the band rises to that of the
temperature, and each band below keeps the time since which the readings allow it. -/
def temperatureShown (s : State) (k temp : Nat) : State :=
  let u := (s.setRf (rHbcTemp k) fHbcTempTemp temp).setRf (rHbcTemp k) fHbcTempValid 1
  let u := u.setRf (rHbcTemp k) fHbcTempForced 0
  let below := (List.range 5).map fun l =>
    if toSigned 9 temp ≤ bandTop l - 3 then some ((((u.hb k).below[l]?).join).getD u.time) else none
  let u := u.setHb k { u.hb k with below := below }
  if u.rf (rHbcTemp k) fHbcTempBand < bandOf (toSigned 9 temp) then u.setRf (rHbcTemp k) fHbcTempBand (bandOf (toSigned 9 temp))
  else u

/-- A granule that scrub reads counts; the last one of a pass ends it (R348, R349). -/
def scrubCounted (s : State) (k : Nat) : State :=
  if (s.hb k).scrubbed + 1 = 32 * granules then
    let u := s.setHb k { s.hb k with scrubbed := 0, once := [] }
    u.setRf (rHbcScrub k) fHbcScrubPasses (u.rf (rHbcScrub k) fHbcScrubPasses + 1)
  else s.setHb k { s.hb k with scrubbed := (s.hb k).scrubbed + 1 }

/-- Commands of the HBM stacks (R345, R346, R348, R349, R352, R353, R385): readings move the band up at once and down
after 100 ms; a refresh keeps the contents; scrub counts, weakens the row of a corrected error, and marks and reports an
uncorrectable codeword; a soft repair takes the first candidate; HBC.RETENT lists, fences and empties its entry, LOCKED
otherwise. Commands of the scratchpad and the arbiters (R349, R358, R359, R372, R373): scrub reads each word once in a
period and reports what it meets; SCP.SWAP starts the copy of a bank into a free spare, or waits, or reports that none
is left; the copy's end moves the bank to the spare; the requester that the rotation names is granted, counts, and is
the one granted last, and those that go on waiting count the beats and the whole of their wait; scrub and the copy of a
bank keep their shares. The model's own choices that its clauses rest on: log entry 5, an event that is not due does
nothing; log entry 73, saturating counters and the spare row; log entry 75, the rotation's order; log entry 76, a scrub
works on granules; log entry 77, the hysteresis of the bands. -/
def Obligations.MemoriesAreTendedByTheirCommands : Prop :=
  ((∀ (s : State) (k : BitVec 2) (temp : BitVec 9) (valid : Bool), let n := k.toNat
     ((s.mode < 2 ∨ s.domOn (30 + n) = false) → exec (.hbmTempRead k temp valid) s = .next s) ∧
     (2 ≤ s.mode → s.domOn (30 + n) = true → toSigned 9 temp.toNat ≤ 150 →
       (s.setRf (rHbcTemp n) fHbcTempTemp temp.toNat |>.setRf (rHbcTemp n) fHbcTempValid 1).restrained = false →
       ∃ t, exec (.hbmTempRead k temp true) s = .next t ∧
         Restrained ((temperatureShown s n temp.toNat).sensed (16 + n) temp.toNat true) t)) ∧
   (∀ (s : State) (k : BitVec 2), let n := k.toNat
     let ready (l : Nat) : Prop := ∃ t, ((s.hb n).below[l]?).join = some t ∧ t + 100000 ≤ s.time
     ((s.rb (rHbcTemp n) fHbcTempForced = true ∨ s.domOn (30 + n) = false) → exec (.hbmBandReturn k) s = .next s) ∧
     (s.rb (rHbcTemp n) fHbcTempForced = false → s.domOn (30 + n) = true →
       (∀ l, l < s.rf (rHbcTemp n) fHbcTempBand → ready l → (∀ l', l' < l → ¬ ready l') →
         exec (.hbmBandReturn k) s = .next (s.setRf (rHbcTemp n) fHbcTempBand l)) ∧
       ((∀ l, l < s.rf (rHbcTemp n) fHbcTempBand → ¬ ready l) → exec (.hbmBandReturn k) s = .next s))) ∧
   (∀ (s : State) (pc : BitVec 7) (bank : BitVec 8), exec (.hbmRefresh pc bank) s = .next s) ∧
   (∀ (s : State) (pc : BitVec 7) (g : BitVec 23), let n := pc.toNat / 32
     let x := s.granuleAddr pc.toNat g.toNat
     let u := scrubCounted s n
     (∀ found, (granules ≤ g.toNat ∨ s.ready (24 + n) = false) → exec (.hbmScrub pc g found) s = .next s) ∧
     (g.toNat < granules → s.ready (24 + n) = true →
       (let v := (List.range 8).foldl (fun s i => if s.bad (x + 32 * i) = true then s.hbmUe (x + 32 * i) else s) u
        exec (.hbmScrub pc g .none) s = .next v ∧
        exec (.hbmScrub pc g .corrected) s =
          .next ((v.satRf (rHbcCecnt n) fHbcCecntScrub 1).weaken n (pc.toNat, g.toNat / 4)) ∧
        ∃ i, i < 8 ∧
          (v.bad (x + 32 * i) = true → exec (.hbmScrub pc g .uncorrectable) s = .next { v with free := v.free + 1 }) ∧
          (v.bad (x + 32 * i) = false → exec (.hbmScrub pc g .uncorrectable) s =
            .next (({ v with free := v.free + 1 }.setBad (x + 32 * i) true).hbmUe (x + 32 * i)))) ∧
       ((∀ i, i < 8 → u.bad (x + 32 * i) = false) →
         exec (.hbmScrub pc g .none) s = .next u ∧
         exec (.hbmScrub pc g .corrected) s =
           .next ((u.satRf (rHbcCecnt n) fHbcCecntScrub 1).weaken n (pc.toNat, g.toNat / 4)) ∧
         ∃ i, i < 8 ∧ exec (.hbmScrub pc g .uncorrectable) s =
           .next (({ u with free := u.free + 1 }.setBad (x + 32 * i) true).hbmUe (x + 32 * i))))) ∧
   (∀ (s : State) (k : BitVec 2), let n := k.toNat
     ((s.rb (rHbcPprctl n) fHbcPprctlOnline = false ∨ s.ready (24 + n) = false ∨ (s.hb n).cands = []) →
       exec (.hbmSoftRepair k) s = .next s) ∧
     (∀ r rest, s.rb (rHbcPprctl n) fHbcPprctlOnline = true → s.ready (24 + n) = true → (s.hb n).cands = r :: rest →
       let u := { s.setHb n { s.hb n with cands := rest.filter fun y => y != r } with free := s.free + 1 }
       exec (.hbmSoftRepair k) s = .next ((u.setHb n { u.hb n with soft := (u.hb n).soft ++ [r] }).addRf (rHbcPprstat n) fHbcPprstatSoft 1) ∨
       exec (.hbmSoftRepair k) s = .next ((u.flt (hbcFlt n 2 0 0)).retireRow n r))) ∧
   (∀ (s : State) (m : Master) (k : BitVec 2) (v : Word) (a : RegAt), Reaches s m (rHbcRetent k.toNat) a → let n := k.toNat
     let i := s.rf (rHbcRetsel n) fHbcRetselIndex
     let st := v.fld fHbcRetentState.lsb fHbcRetentState.w
     let page := v.fld fHbcRetentPage.lsb fHbcRetentPage.w
     let old := (s.ret n i).1
     (old = 0 → (st = 1 ∨ st = 2) → exec (.retentWrite m k v) s = .next (s.setRet n i (st, page))) ∧
     (old = 1 → st = 2 → exec (.retentWrite m k v) s = .next (s.setRet n i (2, (s.ret n i).2))) ∧
     (st = 0 → exec (.retentWrite m k v) s = .next (s.setRet n i (0, (s.ret n i).2))) ∧
     (((old = 0 ∧ 3 ≤ st) ∨ (old = 1 ∧ (st = 1 ∨ 3 ≤ st)) ∨ (2 ≤ old ∧ 1 ≤ st)) →
       exec (.retentWrite m k v) s = .next (s.locked .hbc n)))) ∧
  ((∀ (s : State) (word : BitVec 24), let x := scpBase + 8 * word.toNat
     let due : Prop := ∀ t, Tab.get optDefault s.banks.scrubs word.toNat = some t →
       t / (1000 * s.rf rScpScrub fScpScrubPeriod) < s.time / (1000 * s.rf rScpScrub fScpScrubPeriod)
     let u := { s with banks := { s.banks with scrubs := Tab.set optDefault s.banks.scrubs word.toNat (some s.time) } }
     (∀ found, (s.ready 28 = false ∨ ¬ due) → exec (.scpScrub word found) s = .next s) ∧
     (∀ found, s.ready 28 = true → due → s.bad x = true → exec (.scpScrub word found) s = .next (u.scpUe x)) ∧
     (s.ready 28 = true → due → s.bad x = false →
       exec (.scpScrub word .none) s = .next u ∧ exec (.scpScrub word .corrected) s = .next (u.scpCe x) ∧
       exec (.scpScrub word .uncorrectable) s = .next ((u.setBad x true).scpUe x))) ∧
   (∀ (s : State) (m : Master) (bank : BitVec 11) (a : RegAt), Reaches s m rScpSwap a → let b := bank.toNat
     let q := b / 512
     let may : Prop := (s.auth m).machine = true ∨ (s.auth m).manager = true
     (¬ may → exec (.scpSwap m bank) s = .next (s.locked .scp 0)) ∧
     (may → Tab.get optDefault s.banks.copying q = none → Tab.get natDefault s.banks.used q < 16 →
       exec (.scpSwap m bank) s =
         .next { s with banks := { s.banks with copying := Tab.set optDefault s.banks.copying q (some b) } }) ∧
     (may → Tab.get optDefault s.banks.copying q = none → 16 ≤ Tab.get natDefault s.banks.used q →
       exec (.scpSwap m bank) s = .next (let t := s.flt (Flt.plain .scp 0 3)
         if Tab.get flagDefault s.banks.worn b = true then t.flt ⟨.ust, 0, 2, none, 0, b, 0, false⟩ else t)) ∧
     (∀ c, may → Tab.get optDefault s.banks.copying q = some c →
       ((c = b ∨ b ∈ s.banks.waiting) → exec (.scpSwap m bank) s = .next s) ∧
       (c ≠ b → b ∉ s.banks.waiting →
         exec (.scpSwap m bank) s = .next { s with banks := { s.banks with waiting := s.banks.waiting ++ [b] } }))) ∧
   (∀ (s : State) (q : BitVec 2), let n := q.toNat
     (Tab.get optDefault s.banks.copying n = none → exec (.bankSwapDone q) s = .next s) ∧
     (∀ b, Tab.get optDefault s.banks.copying n = some b → (∀ c ∈ s.banks.waiting, c / 512 ≠ n) →
       ∃ t, exec (.bankSwapDone q) s = .next t ∧ { t with banks := s.banks } = s ∧
         Tab.get optDefault t.banks.spared b = some (Tab.get natDefault s.banks.used n) ∧
         Tab.get natDefault t.banks.used n = Tab.get natDefault s.banks.used n + 1 ∧
         Tab.get optDefault t.banks.copying n = none ∧ Tab.get flagDefault t.banks.worn b = false ∧
         t.banks.waiting = s.banks.waiting ∧ (∀ c, c ≠ b → Tab.get optDefault t.banks.spared c = Tab.get optDefault s.banks.spared c)) ∧
     (∀ b, Tab.get optDefault s.banks.copying n = some b →
       let u := { s with banks := { s.banks with
         spared := Tab.set optDefault s.banks.spared b (some (Tab.get natDefault s.banks.used n))
         used := Tab.set natDefault s.banks.used n (Tab.get natDefault s.banks.used n + 1)
         copying := Tab.set optDefault s.banks.copying n none
         waiting := s.banks.waiting.filter fun c => c / 512 != n
         worn := Tab.set flagDefault s.banks.worn b false } }
       exec (.bankSwapDone q) s =
         .next ((s.banks.waiting.filter fun c => c / 512 == n).foldl (fun t c => t.bankSwap c) u))) ∧
   (∀ (s : State) (cls : BitVec 2) (idx : BitVec 12) (req : BitVec 8) (waits : List (BitVec 8 × Nat × Nat))
       (ce : Option (BitVec 48)),
     let x := s.arb cls.toNat idx.toNat
     let key := arbKey cls.toNat idx.toNat req.toNat
     let asked := (req.toNat :: (waits.map fun w => w.1.toNat).filter isRequester).filter fun r => !isShare r
     ((isArbiter cls.toNat idx.toNat = false ∨ isRequester req.toNat = false ∨
         s.shareKept cls.toNat idx.toNat req.toNat = false ∨
         (isShare req.toNat = false ∧ rotation x.last asked ≠ some req.toNat)) →
       exec (.arbiterGrant cls idx req ⟨waits, ce⟩) s = .next s) ∧
     (isArbiter cls.toNat idx.toNat = true → isRequester req.toNat = true → s.shareKept cls.toNat idx.toNat req.toNat = true →
       isShare req.toNat = false →
       let scrubs := x.sinceScrub.map (· + 1)
       let copies := if s.copies cls.toNat idx.toNat = true then x.sinceCopy + 1 else 0
       (rotation x.last [req.toNat] = some req.toNat →
         let u := s.setCnt key (satAdd (s.cnt key) 1 (2 ^ 48 - 1))
         (0x60 ≤ req.toNat → exec (.arbiterGrant cls idx req ⟨[], none⟩) s =
           .next (u.setArb cls.toNat idx.toNat ⟨some req.toNat, [], scrubs, copies⟩)) ∧
         (req.toNat < 0x60 → exec (.arbiterGrant cls idx req ⟨[], none⟩) s =
           .next ((u.satRf (rEngPgrant (req.toNat / 6) (req.toNat % 6)) fEngPgrantGrants 1).setArb cls.toNat idx.toNat
             ⟨some req.toNat, [], scrubs, copies⟩))) ∧
       (∀ r n e, 0x60 ≤ req.toNat → isRequester r.toNat = true → 0x60 ≤ r.toNat → isShare r.toNat = false → r ≠ req →
         rotation x.last [req.toNat, r.toNat] = some req.toNat →
         let w := arbKey cls.toNat idx.toNat r.toNat
         let long := (x.waited r.toNat).1 + n
         let v := s.setCnt (w + 1) (satAdd (s.cnt (w + 1)) n (2 ^ 48 - 1))
         let v := v.setCnt (w + 2) (max (v.cnt (w + 2)) (min long (2 ^ 32 - 1)))
         let v := v.setCnt key (satAdd (v.cnt key) 1 (2 ^ 48 - 1))
         exec (.arbiterGrant cls idx req ⟨[(r, n, e)], none⟩) s =
           .next (v.setArb cls.toNat idx.toNat ⟨some req.toNat, [(r.toNat, long, (x.waited r.toNat).2 + e)], scrubs,
             copies⟩))) ∧
     (isArbiter cls.toNat idx.toNat = true → (req = 0xAA ∨ req = 0xAB) →
       s.shareKept cls.toNat idx.toNat req.toNat = true →
       exec (.arbiterGrant cls idx req ⟨[], none⟩) s =
         .next ((s.setCnt key (satAdd (s.cnt key) 1 (2 ^ 48 - 1))).setArb cls.toNat idx.toNat ⟨x.last, [],
           if req = 0xAB then some 0 else x.sinceScrub.map (· + 1),
           if s.copies cls.toNat idx.toNat = true ∧ req = 0xAB then x.sinceCopy + 1 else 0⟩))))

/-! ### Understudies -/

/-- A swap of resource `i` by kind `kind` has ended with result `result` after `dur` tenths of a microsecond (R610, R616):
UST.SWAPSTAT shows it and the fault SWAP is raised with the resource. -/
def swapReported (s : State) (kind i result dur : Nat) : State :=
  ((((s.setRf rUstSwapstat fUstSwapstatKind kind).setRf rUstSwapstat fUstSwapstatIndex i).setRf rUstSwapstat fUstSwapstatResult
    result).setRf rUstSwapstat fUstSwapstatTime (min dur (2 ^ 32 - 1))).flt ⟨.ust, 0, 4, none, 0, i, 0, false⟩

/-- The logical resource of `i` moves to `j`, in the placement and in its record (R603 to R607). -/
def resourceMoved (s : State) (i j : Nat) : State :=
  let l := (s.phys i).logical
  let u := s.setPhys j { s.phys j with logical := l }
  let u := u.setPhys i { u.phys i with logical := noLogical, wait := !u.worn i }
  let u := u.setRecOf j { u.recOf j with logical := l }
  u.setRecOf i { u.recOf i with logical := noLogical }

/-- The commands that carry out a swap, with its kind (R616). -/
def swapCommand (kind : Nat) (pass : Bool) (dur : BitVec 32) : Instr :=
  match kind with
  | 0 => .laneSwap pass dur
  | 1 => .engineMigration pass dur
  | 2 => .callerSwap pass dur
  | _ => .sealUnitSwap pass dur

/-- Logical resource `l` is readied for its swap (R604, R606): the orders of an engine park with MIGRATE, unless one that has
failed still runs; a caller takes no offer and spills its frames. -/
def swapReadied (s : State) (kind l : Nat) : State :=
  match kind with
  | 1 =>
    if (s.qBusy (2 * l) = true ∧ ∃ x, s.head (2 * l) = some x ∧ x.run.failed ≠ none) ∨
        (s.qBusy (2 * l + 1) = true ∧ ∃ x, s.head (2 * l + 1) = some x ∧ x.run.failed ≠ none) then s
    else (((s.suspend (2 * l) 4).suspend (2 * l + 1) 4).parkNow (2 * l)).parkNow (2 * l + 1)
  | 2 =>
    let u := s.setCal l { s.cal l with moving := true }
    if (s.cal l).r.resident = 0 ∨ (s.cal l).shadow ≠ none then u else u.setCal l { u.cal l with want := 1 }
  | _ => s

/-- The swap can be carried out (R604, R606): no order runs on the engine; the caller has nothing under way and no frame resident. -/
def SwapReady (s : State) (kind l : Nat) : Prop :=
  match kind with
  | 1 => s.qBusy (2 * l) = false ∧ s.qBusy (2 * l + 1) = false
  | 2 => (s.cal l).handsOver = true
  | _ => True

/-- What a swap does (R554, R603 to R607): an encore that uses the understudy ends, the logical resource moves to it; an engine, a
caller and a seal unit count the migration, and a caller moves with empty caches. -/
def swapEffect (s : State) (kind i j l : Nat) : State :=
  let u := resourceMoved (s.encorePreempt j) i j
  match kind with
  | 1 => u.satRf (rEngPlace l) fEngPlaceMigr 1
  | 2 => (u.satRf (rCalPlace l) fCalPlaceMigr 1).calMoved l
  | 4 => u.satRf (rSeaPlace l) fSeaPlaceMigr 1
  | _ => u

/-- The work goes on in `t` after the swap of `s` has ended (R604, R606, R610): an engine starts again, and an order that was
interrupted shows as switch loss what the swap took; a caller takes offers again and a trap that is pending. -/
def swapResumed (s t : State) (kind l dur : Nat) : State :=
  match kind with
  | 1 =>
    let u := ((t.settle l).tryStart (2 * l)).tryStart (2 * l + 1)
    let loss := min (dur * Config.beatsIn u.time / 10) 65535
    if ((s.qBusy (2 * l) = true ∨ s.qBusy (2 * l + 1) = true) ∧ (u.qBusy (2 * l) = true ∨ u.qBusy (2 * l + 1) = true)) ∧
        u.rf (rEngTpstat l) fEngTpstatMaxloss < loss then u.setRf (rEngTpstat l) fEngTpstatMaxloss loss
    else u
  | 2 =>
    if (t.cal l).moving = true then ((t.setCal l { t.cal l with moving := false }).calReport l).pollTrap l else t
  | _ => t

/-- The end of a swap command (R554, R607, R633, R637): a digest may have to leave its seal unit, domains follow the placement, an
event of CUS.CURTPOL acts. -/
def swapOver (s : State) (kind : Nat) : State := if kind = 4 then s.digestMove.swapDone else s.swapDone

/-- A swap that is due runs (R599 to R607, R610, R611): with nothing queued, with another kind next, or outside the
modes for swaps where it has not begun, nothing happens; without an understudy it is dropped or becomes another; else
the logical resource is readied, and once it is ready it moves to an understudy that passes its test, the swap leaves
the queue and is reported, and the work goes on; one that fails the test is worn. The manager learns of wear (R157, R595
to R598): a beat monitor whose window has passed shows its values with the drift from the baseline, which the first
window after Call gives; a rate below 1350 wears the resource at once and reports it to the quadrant, and a rate that
stays there is one event; a self-test that is due clears FAIL where it passes, and counts and wears where it fails; a
migration that has to wait shows DEFERRED, and after DEFERLIM it waits no longer than the order that runs. UST.SWAP
queues a swap of the carrier, or is LOCKED. The model's own choices that its clauses rest on: log entry 5, an event that
is not due does nothing; log entry 70, the rounding of the drift; log entry 71, swaps that find no place or no spare;
log entry 176, the switch loss of a migration. -/
def Obligations.UnderstudiesTakeOver : Prop :=
  (∀ (s : State) (kind : Nat) (dur : BitVec 32), kind = 0 ∨ kind = 1 ∨ kind = 2 ∨ kind = 4 →
     (∀ pass, s.nextSwap = none → exec (swapCommand kind pass dur) s = .next (swapOver s kind)) ∧
     (∀ r pass, s.nextSwap = some r → (r.kind ≠ kind ∨ (s.swapMode = false ∧ s.begun r = false)) →
       exec (swapCommand kind pass dur) s = .next (swapOver s kind)) ∧
     (∀ r, s.nextSwap = some r → r.kind = kind → (s.swapMode = true ∨ s.begun r = true) →
       let l := (s.phys r.index).logical
       (∀ pass, s.spares r.index r.phys = [] →
         exec (swapCommand kind pass dur) s = .next (swapOver (swapResumed s (s.noPlace r) kind l dur.toNat) kind)) ∧
       (∀ j rest, s.spares r.index r.phys = j :: rest →
         let t := swapReadied s kind l
         (∀ pass, ¬ SwapReady t kind l → exec (swapCommand kind pass dur) s = .next (swapOver t kind)) ∧
         (SwapReady t kind l →
           exec (swapCommand kind true dur) s = .next (swapOver (swapResumed s
             (swapReported ((swapEffect t kind r.index j l).dropSwap r.index) kind r.index 1 dur.toNat) kind l dur.toNat) kind) ∧
           exec (swapCommand kind false dur) s =
             .next (swapOver (swapResumed s (t.spareFails r j dur.toNat) kind l dur.toNat) kind))))) ∧
  ((∀ (s : State) (res : BitVec 12) (rate ratio : BitVec 16), let i := res.toNat
     let due : Prop := ((0x20 ≤ i ∧ i < 0x2A) ∨ (0x800 ≤ i ∧ i < 0x850)) ∧ s.domOn (resDomain i) = true ∧
       (s.phys i).beatAt + 10 ≤ s.time
     (¬ due → exec (.beatMonitorUpdate res rate ratio) s = .next s.pollCurtain) ∧
     (due →
       let sect : Prop := 0x800 ≤ i
       let b := (s.recOf i).base
       let first : Prop := b = 0 ∧ 3 ≤ s.mode ∧ s.cus.callEnd + 10 ≤ s.time
       let u := s.setRecOf i { s.recOf i with base := if first then ratio.toNat else b }
       let drift : Int := if b = 0 then 0 else Int.tdiv (((ratio.toNat : Int) - (b : Int)) * 1000) (b : Int)
       let x := u.phys i
       let u := u.setPhys i { x with rate := rate.toNat, drift := wrapInt 16 drift, upd := x.upd + 1, beatAt := u.time }
       let owner := if sect then (i - 0x800) / 4 else i
       let v := if sect then u.setRecOf i { u.recOf i with worn := true } else u
       (1350 ≤ rate.toNat → (b = 0 ∨ -u.driftLim < drift) → exec (.beatMonitorUpdate res rate ratio) s = .next u.pollCurtain) ∧
       (1350 ≤ rate.toNat → b ≠ 0 → drift ≤ -u.driftLim →
         exec (.beatMonitorUpdate res rate ratio) s = .next (v.wear owner false).pollCurtain) ∧
       (rate.toNat < 1350 → u.worn i = false →
         (sect → exec (.beatMonitorUpdate res rate ratio) s =
           .next ((v.wear owner true).flt (Flt.plain .qad (owner / 5) 1)).pollCurtain) ∧
         (i < 0x28 → exec (.beatMonitorUpdate res rate ratio) s =
           .next ((v.wear owner true).flt (Flt.plain .qad ((i - 0x20) / 2) 1)).pollCurtain) ∧
         (0x28 ≤ i → i < 0x2A →
           exec (.beatMonitorUpdate res rate ratio) s = .next (v.wear owner true).pollCurtain)) ∧
       (rate.toNat < 1350 → u.worn i = true →
         ((x.upd = 0 ∨ 1350 ≤ x.rate) →
           exec (.beatMonitorUpdate res rate ratio) s = .next (v.wear owner true).pollCurtain) ∧
         (0 < x.upd → x.rate < 1350 → exec (.beatMonitorUpdate res rate ratio) s = .next u.pollCurtain)))) ∧
   (∀ (s : State) (res : BitVec 12) (pass : Bool), let i := res.toNat
     ((s.testable i = false ∨ s.domOn (resDomain i) = false ∨ s.testDue i = false) →
       exec (.selfTest res pass) s = .next s.pollCurtain) ∧
     (s.testable i = true → s.domOn (resDomain i) = true → s.testDue i = true →
       let x : Phys := { s.phys i with tested := s.time, forward := false }
       let r : State := if s.mode = 3 ∧ i ∉ s.cus.tested then { s with cus := { s.cus with tested := i :: s.cus.tested } } else s
       exec (.selfTest res true) s = .next (r.setPhys i { x with fail := false, wait := false }).pollCurtain ∧
       let u := r.setPhys i { x with fail := true, wait := false, tests := satAdd x.tests 1 255 }
       exec (.selfTest res false) s = .next ((u.flt ⟨.ust, 0, 6, none, 0, i, 0, false⟩).wear i true).pollCurtain)) ∧
   (∀ s : State,
     let t := { s with ust := { s.ust with queue := s.ust.queue.map fun r => { r with late := r.late || s.expired r } } }
     exec .deferExpiry s = .next t ∧ (∀ r ∈ t.ust.queue, s.expired r = true → s.qBusy (2 * (s.phys r.index).logical) = false →
       t.deferred r = false)) ∧
   (∀ (s : State) (i : Nat), (∀ r ∈ s.ust.queue, r.index ≠ i) → swapKind i = 1 → s.spares i none ≠ [] → s.ust.queue.length < 16 →
     let r : SwapReq := ⟨1, i, none, false, s.time, false⟩
     let u := { s with ust := { s.ust with queue := s.ust.queue ++ [r] } }
     s.queueSwap i none false = if u.deferred r = true then u.setRf rUstSwapstat fUstSwapstatResult 4 else u) ∧
   (∀ (s : State) (m : Master) (target : BitVec 8) (lane phys : BitVec 5) (a : RegAt), Reaches s m rUstSwap a →
     let n := target.toNat
     let want := if phys.toNat = 0x1F then none else some phys.toNat
     let queued (i : Option Nat) (u : State) : Prop :=
       (i = none → u = (s.locked .ust 0).pollCurtain) ∧
       (∀ k, i = some k →
         (((want.isSome = true ∧ s.spares k want = []) ∨ 16 ≤ s.ust.queue.length) → u = (s.locked .ust 0).pollCurtain) ∧
         ((want = none ∨ s.spares k want ≠ []) → s.ust.queue.length < 16 → u = (s.queueSwap k want true).pollCurtain))
     (∃ u, exec (.swapLaneCommand m target lane phys) s = .next u ∧
       queued (if n < 16 then (s.carrier 0 20 n).bind fun p => s.carrier (ixLane p 0) 34 lane.toNat else none) u) ∧
     (∃ u, exec (.swapEngineCommand m target phys) s = .next u ∧ queued (if n < 16 then s.carrier 0 20 n else none) u) ∧
     (∃ u, exec (.swapCallerCommand m target phys) s = .next u ∧ queued (if n < 8 then s.carrier 0x20 10 n else none) u) ∧
     (∃ u, exec (.swapComparatorCommand m target phys) s = .next u ∧ queued (if n < 4 then s.carrier 0x30 5 n else none) u) ∧
     (∃ u, exec (.swapSealCommand m target phys) s = .next u ∧ queued (if n < 6 then s.carrier 0x38 8 n else none) u)))

/-! ### The archive -/

/-- The colophon page of log `w` with colophons `cs` is in progress (R508, R509): it bears the next page sequence number, the time
of its programming and its check code; its copies go to used targets, of different channels where there are such. -/
def PageBegun (s : State) (w : Nat) (cs : List Colophon) (cue : Bool) (t : State) : Prop :=
  let x := s.log w
  let p : ColPage := ⟨w, x.pages.length, match cs.head? with | some c => c.acc | none => 0, s.time, 0, cs⟩
  ∃ t1 t2, (s.usedTargets ≠ [] → t1 ∈ s.usedTargets ∧ t2 ∈ s.usedTargets) ∧
    ((∃ k ∈ s.usedTargets, k / 4 ≠ t1 / 4) → t2 / 4 ≠ t1 / 4) ∧
    t = { s with free := s.free + 1 }.setLog w
      { x with page := some ⟨{ p with crc := p.code }, t1, t2, false, false, cue⟩, again := none }

/-- A trigger for a colophon page of log `w` (R509, R531): with no colophon ready, or in a stopped archive, nothing; with no page in
progress one starts; with one in progress and others ready, the next follows it. -/
structure PageStarted (s : State) (w : Nat) (cue : Bool) (t : State) : Prop where
  nothing : ((s.log w).readyCols = [] ∨ s.arc.dry = true) → t = s
  starts : (s.log w).readyCols ≠ [] → s.arc.dry = false → (s.log w).page = none → PageBegun s w (s.log w).readyCols cue t
  follows : (s.log w).readyCols ≠ [] → s.arc.dry = false → ∀ r, (s.log w).page = some r →
    ((s.log w).readyCols.length ≤ r.page.cols.length → t = s) ∧
    (r.page.cols.length < (s.log w).readyCols.length →
      t = s.setLog w { s.log w with again := some (cue || (s.log w).again == some true) })

/-- The colophon page in progress of log `w`, if any, counts as programmed (R508, R510, R531): its colophons are committed, their
records are no longer open, void ones count, channel 251 fires, and a trigger that waits for its end is taken. -/
structure PageCommitted (s : State) (w : Nat) (t : State) : Prop where
  none : (s.log w).page = none → t = s
  done : ∀ r, (s.log w).page = some r →
    let x := s.log w
    let u := (s.setLog w { x with
      pages := x.pages ++ [r.page]
      page := .none
      again := .none
      recs := x.recs.filter fun q => !(r.page.cols.any fun c => c.acc == q.acc)
      voids := x.voids + (r.page.cols.filter fun c => c.void).length }).fire 251
    (x.again = .none → t = u) ∧ (∀ cue, x.again = some cue → PageStarted u w cue t)

/-- 510 ready colophons start a page (R509). -/
def FullStarted (s : State) (w : Nat) (t : State) : Prop :=
  ((s.log w).readyCols.length = 510 → PageStarted s w false t) ∧ ((s.log w).readyCols.length ≠ 510 → t = s)

/-- A page that has passed is committed once the data of all its records are programmed (R502, R510). -/
structure PageSettled (s : State) (w : Nat) (t : State) : Prop where
  waits : (∀ r, (s.log w).page = some r → r.passed = false ∨
    ∃ q ∈ (s.log w).recs, (s.log w).recReady q = false ∧ ∃ c ∈ r.page.cols, c.acc = q.acc) → t = s
  commits : ∀ r, (s.log w).page = some r → r.passed = true →
    (∀ q ∈ (s.log w).recs, (∃ c ∈ r.page.cols, c.acc = q.acc) → (s.log w).recReady q = true) →
    ∃ v, PageCommitted s w v ∧ FullStarted v w t

/-- OPLOW for each log whose spare blocks are below 1 % of its used blocks in `u` and were not in `s` (R502). -/
def oplowRaised (s u : State) : State :=
  let low (v : State) (w : Nat) : Bool := decide (v.spareBlocks * 100 < v.usedBlocks w)
  let raised (w : Nat) (v : State) : State :=
    if low s w = false ∧ low v w = true then v.flt ⟨.arc, 0, 4, none, 0, w, 0, false⟩ else v
  raised 1 (raised 0 u)

/-- A program or erase of block `b` of target `t` failed (R502): the block is retired, GROWNBAD and OPLOW are raised. -/
def blockRetired (s : State) (t b : Nat) : State :=
  oplowRaised s ((s.retireBlock t b).flt ⟨.arc, 0, 3, none, 0, t, 0, false⟩)

/-- Every folio in block `b` of target `t` may be erased, there is one, and the block is not retired (R503, R521). -/
def Erasable (s : State) (t b : Nat) : Prop :=
  b < (s.tgt t).blocks.length ∧ (s.blk t b).bad = false ∧ s.inBlock t b ≠ [] ∧
  ∀ y ∈ s.inBlock t b, s.folioDead y.1 y.2 = true

/-- Media events (R501, R502, R503, R509, R510, R520, R521): nothing happens while the archive is down; a programmed
folio joins its log with the next write sequence number, and counts as a relocation where its positions were programmed
before; a failed block is retired; the lowest block whose folios are all dead is erased, and wear is levelled; a
codeword read is noted with the retries it took and counts for its block; an aged folio is marked, and late relocation
is RETENTION; a colophon page of which both copies passed commits its records, and a failed copy is programmed again;
each second the map is checkpointed and ARC.THRU shows. The model's own choices that its clauses rest on: log entry 5,
an event that is not due does nothing; log entry 43, what an erase yields; log entry 45, when MBPS is computed; log
entry 46, where a colophon copy failed; log entry 51, the result of a codeword read; log entry 53, what counts as
relocation; log entry 181, spare and used blocks. -/
def Obligations.ArchiveMediaEventsTakeEffect : Prop :=
  (∀ (s : State) (w : World) (target : BitVec 6) (upTo : Nat), let t := target.toNat
    let x := s.log w.idx
    let lo := upTo - s.folioSize
    let may : Prop := s.arcUp = true ∧ (s.tgt t).used = true ∧ upTo ≠ 0 ∧ x.acceptedTo lo upTo = true
    (∀ pass, (¬ may ∨ s.openBlock w.idx t = none) → exec (.folioProgramDone w target upTo pass) s = .next s) ∧
    (∀ b, may → s.openBlock w.idx t = some b →
      exec (.folioProgramDone w target upTo false) s = .next (blockRetired s t b) ∧
      (let u := s.setLog w.idx { x with folios := x.folios ++ [⟨lo, upTo, s.arc.seq + 1, t, b, s.time, false⟩] }
       let u := { u with arc := { u.arc with
         seq := s.arc.seq + 1
         prog := s.arc.prog + s.folioSize
         reloc := if upTo ≤ x.covered lo then s.arc.reloc + s.folioSize else s.arc.reloc } }
       ∃ v r, PageSettled (oplowRaised s u) w.idx v ∧ FullStarted v w.idx r ∧
         exec (.folioProgramDone w target upTo true) s = .next r))) ∧
  (∀ (s : State) (target : BitVec 6), let t := target.toNat
    (∀ pass, (s.arcUp = false ∨ (s.tgt t).used = false ∨ ∀ b, ¬ Erasable s t b) → exec (.eraseDone target pass) s = .next s) ∧
    (∀ b, s.arcUp = true → (s.tgt t).used = true → Erasable s t b → (∀ c, c < b → ¬ Erasable s t c) →
      let u := s.dropBlock t b
      exec (.eraseDone target false) s = .next (blockRetired u t b) ∧
      exec (.eraseDone target true) s = .next ((u.setBlk t b ⟨false, (u.blk t b).erases + 1, 0⟩).levelWear t))) ∧
  (∀ (s : State) (w : World) (target : BitVec 6) (pos : Nat), let t := target.toNat
    let x := s.log w.idx
    let on (f : Folio) : Prop := x.mapped pos = some f ∧ f.tgt = t
    let marked (y : ArcLog) (f : Folio) : ArcLog :=
      { y with folios := y.folios.map fun g => if g.seq = f.seq then { g with marked := true } else g }
    (∀ stage, (s.arcUp = false ∨ (s.tgt t).used = false ∨ ∀ f, ¬ on f) → exec (.nandReadDone w target pos stage) s = .next s) ∧
    (∀ f, s.arcUp = true → (s.tgt t).used = true → on f →
      let seen (k : Nat) : ArcLog := { x with reads := Tab.set natDefault x.reads (pos / 4096) k }
      let near (k : Nat) := (s.setLog w.idx (seen k)).countRead t f.blk
      let far := (s.setLog w.idx (marked (seen 1) f)).countRead t f.blk
      exec (.nandReadDone w target pos .hard) s = .next (near 1) ∧
      exec (.nandReadDone w target pos (.retry false)) s = .next ((near 1).satRf rArcRetry fArcRetryHard 1) ∧
      exec (.nandReadDone w target pos (.retry true)) s = .next (far.satRf rArcRetry fArcRetryHard 1) ∧
      exec (.nandReadDone w target pos .soft) s = .next (far.satRf rArcRetry fArcRetrySoft 1) ∧
      exec (.nandReadDone w target pos .uncorrectable) s =
        .next (((near 2).satRf rArcRetry fArcRetryUncorr 1).raise ⟨.arc, 0, 1, some w, 0, t, pos % 2 ^ 48, false⟩)) ∧
    (let ages (f : Folio) : Prop := s.arcUp = true ∧ (s.tgt t).used = true ∧ on f ∧
       f.time + s.rf rArcMedia fArcMediaRetage * 3600000000 ≤ s.time
     ((∀ f, ¬ ages f) → exec (.folioAgeExpiry w target pos) s = .next s) ∧
     (∀ f, ages f → exec (.folioAgeExpiry w target pos) s = .next (s.setLog w.idx (marked x f)))) ∧
    (let late (f : Folio) : Prop := s.domOn 43 = true ∧ on f ∧ f.marked = true ∧
       f.time + s.rf rArcMedia fArcMediaRetage * 3960000000 ≤ s.time
     (∀ f, late f → exec (.retentionLate w target pos) s = .next (s.flt ⟨.arc, 0, 9, none, 0, t, 0, false⟩)) ∧
     ((∀ f, ¬ late f) → exec (.retentionLate w target pos) s = .next s))) ∧
  (∀ (s : State) (w : World),
    (s.arcUp = false → exec .colophonTimer s = .next s ∧ exec .mapCheckpoint s = .next s ∧
      ∀ pass, exec (.colophonPageProgrammed w pass) s = .next s) ∧
    (s.arcUp = true →
      (s.arc.colAt + s.rf rArcCtl fArcCtlCommitint ≤ s.time → ∃ u t,
        PageStarted { s with arc := { s.arc with colAt := s.time } } 0 false u ∧ PageStarted u 1 false t ∧
        exec .colophonTimer s = .next t) ∧
      (s.time < s.arc.colAt + s.rf rArcCtl fArcCtlCommitint → exec .colophonTimer s = .next s) ∧
      (s.time < s.arc.mapAt + 1000000 → exec .mapCheckpoint s = .next s) ∧
      (s.arc.mapAt + 1000000 ≤ s.time →
        let u := (s.setRf rArcThru fArcThruMbps (s.arc.prog / 1000000)).setRf rArcThru fArcThruReloc
          (if s.arc.prog = 0 then 0 else s.arc.reloc * 1000 / s.arc.prog)
        exec .mapCheckpoint s = .next
          { u with arc := { u.arc with prog := 0, reloc := 0, mapAt := s.time, ckSeq := s.arc.seq } }.dropRetired) ∧
      ((s.log w.idx).page = none → ∀ pass, exec (.colophonPageProgrammed w pass) s = .next s) ∧
      (∀ r, (s.log w.idx).page = some r →
        (∃ t, PageSettled (s.setLog w.idx { s.log w.idx with page := some { r with half := true, passed := true } }) w.idx t ∧
          exec (.colophonPageProgrammed w true) s = .next t) ∧
        ∃ good bad b t2, ((good = r.t1 ∧ bad = r.t2) ∨ (r.half = false ∧ good = r.t2 ∧ bad = r.t1)) ∧
          let v := blockRetired { s with free := s.free + 1 } bad b
          ((∃ k ∈ v.usedTargets, k / 4 ≠ good / 4) → t2 / 4 ≠ good / 4) ∧
          exec (.colophonPageProgrammed w false) s =
            .next (v.setLog w.idx { v.log w.idx with page := some { r with t1 := good, t2 := t2, half := true } }))))

/-- The final page of a log in Flush (R526): the page in progress counts, then the open records get their colophons, void ones
where the record is not whole. -/
def FinalPage (s : State) (w : Nat) (t : State) : Prop :=
  ∃ u, PageCommitted s w u ∧ let x := u.log w
    (x.recs = [] → t = u) ∧
    (x.recs ≠ [] → PageBegun u w (x.recs.map fun r => x.colophon { r with void := r.void || !x.recReady r }) false t)

/-- The log of a world as recovery leaves it (R524): a page in progress of which a copy is valid counts, the log is cut behind the
last record of its unbroken sequence of valid pages, open records are discarded and counted with the void ones, LOGLOSS
where any was lost. -/
def logRecovered (s : State) (w : Nat) : State :=
  let x := s.log w
  let u : State := match x.page with
    | none => s
    | some r =>
      if (r.half || Config.pageHeld w r.page.seq) = true then
        s.setLog w { x with
          pages := x.pages ++ [r.page]
          page := none
          recs := x.recs.filter fun q => !(r.page.cols.any fun c => c.acc == q.acc)
          voids := x.voids + (r.page.cols.filter fun c => c.void).length }
      else s.setLog w { x with page := none }
  let y := u.log w
  let y := { y with pages := validPages 0 y.pages }
  let at' : Nat × Nat := match y.cols.getLast? with | some c => (c.acc + 1, c.pos + c.len) | none => (0, 0)
  let v := u.setLog w (({ y with recs := [], again := none, nextAcc := at'.1, nextPos := at'.2 }).cutAt at'.2)
  let v := (v.satRf rArcRecov fArcRecovDiscarded y.recs.length).satRf rArcRecov fArcRecovVoids y.voids
  if y.recs.length ≠ 0 ∨ y.voids ≠ 0 then v.flt ⟨.arc, 0, 7, none, 0, w, 0, false⟩ else v

/-- Records, release, audit, boot area, recovery and Flush (R511, R518, R522 to R526, R528, R529, R530, R531). The
model's own choices that its clauses rest on: log entry 5, an event that is not due does nothing; log entry 48, which
records an audit takes; log entry 50, when a boot image is read; log entry 52, what ARCHIVE_RECOVERY starts; log entry
92, a boot store that fails; log entry 182, the boot logs. -/
def Obligations.ArchiveRecordsOpenAndRecover : Prop :=
  (∀ (s : State) (e : BitVec 4) (w : World), let q := qOf e.toNat w
    let v := q % 2
    (s.head q = none → exec (.recordOpen e w) s = .next s ∧ exec (.arcWaitLimit e w) s = .next s) ∧
    (∀ x, s.head q = some x →
      ((x.ord.op ≠ .arcappend ∨ x.run.phase ≠ .running ∨ x.run.arcRec ≠ none) → exec (.recordOpen e w) s = .next s) ∧
      (x.ord.op = .arcappend → x.run.phase = .running → x.run.arcRec = none →
        ((s.ready 30 = false ∨ s.arc.closed = true ∨ 16 ≤ (s.log v).recs.length) → exec (.recordOpen e w) s = .next s) ∧
        (s.ready 30 = true → s.arc.closed = false → (s.log v).recs.length < 16 →
          (s.arcFree v < recLen x.n → x.run.full = false →
            exec (.recordOpen e w) s =
              .next ((s.setHead q (x.setRun { x.run with full := true })).flt ⟨.arc, 0, 5, none, 0, v, 0, false⟩)) ∧
          (s.arcFree v < recLen x.n → x.run.full = true → exec (.recordOpen e w) s = .next s) ∧
          (recLen x.n ≤ s.arcFree v →
            let y := s.log v
            let h := recHeader v 1 y.nextAcc x.n s.time s.ptp0 (s.reg rCfgDigest).toNat x.tag (q / 2)
            let u := s.setLog v { y.write y.nextPos h with
              recs := y.recs ++ [⟨y.nextAcc, y.nextPos, x.n, 0, false, x.tag⟩]
              nextAcc := y.nextAcc + 1
              nextPos := y.nextPos + recLen x.n }
            exec (.recordOpen e w) s =
              .next (u.setHead q (x.setRun { x.run with arcRec := some y.nextAcc, since := u.time, waited := false }))))) ∧
      (let late : Prop := x.archiveWaits = true ∧ x.run.waited = false ∧
         x.run.since + s.rf rArcWaitlim fArcWaitlimLimit < s.time
       (late → exec (.arcWaitLimit e w) s =
          .next ((s.setHead q (x.setRun { x.run with waited := true })).flt ⟨.arc, 0, 6, none, 0, x.tag, 0, false⟩)) ∧
       (¬ late → exec (.arcWaitLimit e w) s = .next s)))) ∧
  (∀ (s : State) (m : Master) (w : World) (below : BitVec 47) (a : RegAt), Reaches s m (rArcRelease w.idx) a →
    let x := s.log w.idx
    let last := match x.cols.getLast? with | some c => c.acc + 1 | none => 0
    let may : Prop := (s.auth m).machine = true ∨ (s.auth m).view = .win w true
    ((¬ may ∨ below.toNat < x.below) → exec (.arcRelease m w below) s = .next (s.locked .arc 0)) ∧
    (may → x.below ≤ below.toNat → below.toNat ≤ last →
      exec (.arcRelease m w below) s = .next (s.setLog w.idx { x with below := below.toNat }))) ∧
  (∀ (s : State) (m : Master) (count : BitVec 32) (unit : BitVec 3) (a : RegAt), Reaches s m rArcAudit a →
    (s.arc.audit ≠ none → exec (.arcAudit m count unit) s = .next (s.locked .arc 0)) ∧
    (s.arc.audit = none → unit.toNat < 6 →
      let u := ((s.setRf rArcAudstat fArcAudstatDone 0).setRf rArcAudstat fArcAudstatBad 0).setRf rArcAudstat fArcAudstatBusy 1
      (u.seaFree unit.toNat = false → exec (.arcAudit m count unit) s =
        .next { u with arc := { u.arc with audit := some (count.toNat, unit.toNat, false) } }) ∧
      (u.seaFree unit.toNat = true → exec (.arcAudit m count unit) s =
        .next { u.seaHold unit.toNat 32 2 0 with arc := { u.arc with audit := some (count.toNat, unit.toNat, true) } }))) ∧
  (∀ s : State,
    ((s.ready 30 = false ∨ s.arc.dry = true ∨ s.arc.audit = none) → exec .auditEnd s = .next s) ∧
    (∀ n u, s.arc.audit = some (n, u, false) → s.seaFree u = false → exec .auditEnd s = .next s) ∧
    (∀ n u, s.ready 30 = true → s.arc.dry = false → s.arc.audit = some (n, u, true) →
      let mark := (s.reg rArcAudfrom).toNat
      let v := mark / 2 ^ 47 % 2
      let ok := mark / 2 ^ 48 == crc16.of (leBytes 6 (mark % 2 ^ 48))
      let todo := ((s.log v).cols.filter fun c =>
        ok && !c.void && decide (mark % 2 ^ 47 ≤ c.acc) && !s.arcGone v c.acc (s.log v).below).take n
      let t := ((todo.foldl (fun t c => t.auditOne v u c) s).seaIdle u).setRf rArcAudstat fArcAudstatBusy 0
      exec .auditEnd s = .next { t with arc := { t.arc with audit := none } })) ∧
  (∀ (s : State) (m : Master) (length : BitVec 23) (copy : Bool) (a : RegAt), Reaches s m rArcBootctl a →
    length.toNat ≤ 0x400000 →
    (s.rb rArcBootctl fArcBootctlBusy = true → exec (.bootctl m length copy) s = .next (s.locked .arc 0)) ∧
    (s.rb rArcBootctl fArcBootctlBusy = false → length.toNat = 0 → exec (.bootctl m length copy) s = .next s) ∧
    (s.rb rArcBootctl fArcBootctlBusy = false → length.toNat ≠ 0 →
      (s.arc.closed = true → s.ready 30 = true → exec (.bootctl m length copy) s = .next (s.locked .arc 0)) ∧
      ((s.arc.closed = false ∨ s.ready 30 = false) →
        exec (.bootctl m length copy) s = .next { s.setRf rArcBootctl fArcBootctlBusy 1 with
          arc := { s.arc with store := some (s.rf rArcBootsrc fArcBootsrcAddr, length.toNat, copy) } }))) ∧
  (∀ s : State,
    ((s.arc.store = none ∨ s.arcUp = false) → ∀ pass, exec (.bootStoreDone pass) s = .next s) ∧
    (∀ a n copy, s.arc.store = some (a, n, copy) → s.spanReady a n = false →
      ∀ pass, exec (.bootStoreDone pass) s = .next s) ∧
    (∀ a n copy, s.arc.store = some (a, n, copy) → s.arcUp = true → s.spanReady a n = true →
      let ended (u : State) (ok : Nat) : State :=
        { (u.setRf rArcBootctl fArcBootctlBusy 0).setRf rArcBootctl fArcBootctlOk ok with
          arc := { u.arc with store := none } }
      exec (.bootStoreDone false) s = .next (ended s 0) ∧
      (((s.tgt (4 * copy.toNat)).used = false ∨ s.arc.closed = true) → exec (.bootStoreDone true) s = .next (ended s 0)) ∧
      ((s.tgt (4 * copy.toNat)).used = true → s.arc.closed = false →
        (∀ v f, s.readMem Paths.plain .free a n = (v, .error f) → exec (.bootStoreDone true) s = .next (ended v 0)) ∧
        (∀ v b img, s.readMem Paths.plain .free a n = (v, .ok (b :: img)) →
          exec (.bootStoreDone true) s = .next (ended (v.bootRecord (2 + copy.toNat) (b :: img)) 1))))) ∧
  (∀ (s : State) (ms : BitVec 16),
    let flushing : Prop := s.mode = 10 ∨ s.cus.target = some 10
    ((s.domOn 43 = false ∨ s.arc.trained = false ∨ s.arc.scanned = true ∨ s.ready 30 = true ∨ flushing) →
      exec .archiveRecovery s = .next s) ∧
    (s.domOn 43 = true → s.arc.trained = true → s.arc.scanned = false → s.ready 30 = false → ¬ flushing →
      let u := s.setRf rArcRecov fArcRecovDone 0
      let u := ((u.setRf rArcRecov fArcRecovDiscarded 0).setRf rArcRecov fArcRecovVoids 0).setRf rArcRecov fArcRecovOrderly
        s.arc.orderly.toNat
      let u := logRecovered (logRecovered u 0) 1
      exec .archiveRecovery s = .next { u with arc := { u.arc with scanned := true } }) ∧
    ((s.arc.scanned = false ∨ s.domOn 43 = false ∨ flushing) → exec (.recoveryDone ms) s = .next s) ∧
    (s.arc.scanned = true → s.domOn 43 = true → ¬ flushing →
      let u := ((s.setRf rArcRecov fArcRecovDone 1).setRf rArcRecov fArcRecovMs ms.toNat).setRf rCusReady ⟨30, 1⟩ 1
      exec (.recoveryDone ms) s = .next ({ u with arc := { u.arc with
        scanned := false
        closed := decide (s.mode = 9 ∨ s.cus.target = some 9)
        dry := false
        orderly := false } }.fire 251))) ∧
  (∀ s : State, let up : Prop := s.arcUp = true ∧ s.ready 30 = true
    ((s.mode ≠ 10 ∨ ¬ up ∨ s.arc.final = true) → exec .flushFinalColophon s = .next s) ∧
    (s.mode = 10 → up → s.arc.final = false → ∃ u t, FinalPage s 0 u ∧ FinalPage u 1 t ∧
      exec .flushFinalColophon s = .next { t with arc := { t.arc with final := true } }) ∧
    ((s.mode ≠ 10 ∨ s.cus.flushed = true ∨ (up ∧ s.arc.final = false)) → exec .flushEnd s = .next s) ∧
    (s.mode = 10 → s.cus.flushed = false → (up → s.arc.final = true) →
      ∃ v u, (up → PageCommitted s 0 v ∧ PageCommitted v 1 u) ∧ (¬ up → u = s) ∧
        let t := { u with arc := { u.arc with dry := true } }
        let t := { t with cus := { t.cus with flushed := true } }.fire 251
        (t.cus.resetN = true → exec .flushEnd s = .next t) ∧
        (t.cus.resetN = false → exec .flushEnd s = .next (t.trigger .reset 1))))

/-! ### The links and the seal units -/

/-- An accepted frame of the port's EtherType waits for the receive streams, with its R-TAG and its telegram (R536, R538, R544). -/
def delivered (s : State) (p : Nat) (frame : List Byte) : State :=
  match askustOf (s.rf (rLnkEtype p) fLnkEtypeEtype) frame with
  | some x => s.setWire p (s.wireOf p ++ [x])
  | none => s

/-- What MACsec makes of a frame at port `p` (R535, R536, R560): without a valid SecTAG of an installed association on the port's
secure channel the frame counts in counter 4, below the lowest accepted packet number in counter 5; else the association
moves on, and the frame is delivered. -/
structure MacsecChecked (s : State) (p : Nat) (frame : List Byte) (sec : Option SecTag) (u : State) : Prop where
  off : s.rb (rLnkSecctl p) fLnkSecctlRxen = false → u = delivered s p frame
  untagged : s.rb (rLnkSecctl p) fLnkSecctlRxen = true → sec = none → u = s.portCount p 4
  unknown : s.rb (rLnkSecctl p) fLnkSecctlRxen = true →
    ∀ t, sec = some t → (s.assocOf p 1 t.an.toNat = none ∨ t.icvOk = false ∨ t.sci ≠ s.reg (rLnkRxsci p)) → u = s.portCount p 4
  late : s.rb (rLnkSecctl p) fLnkSecctlRxen = true → ∀ t x, sec = some t → s.assocOf p 1 t.an.toNat = some x → t.icvOk = true →
    t.sci = s.reg (rLnkRxsci p) → t.pn.toNat < x.lowest → u = s.portCount p 5
  good : s.rb (rLnkSecctl p) fLnkSecctlRxen = true → ∀ t x, sec = some t → s.assocOf p 1 t.an.toNat = some x → t.icvOk = true →
    t.sci = s.reg (rLnkRxsci p) → x.lowest ≤ t.pn.toNat →
    let next := max x.next (t.pn.toNat + 1)
    u = delivered (s.setAssoc p 1 t.an.toNat
      (some { x with next := next, lowest := max x.lowest (next - s.rf (rLnkSecctl p) fLnkSecctlWindow) })) p frame

/-- The codes of a telegram (R538, R539): code C over its header and payload, code P over their complement. -/
def codesHold (tel : List Byte) : Bool × Bool :=
  let m := beAt tel 0x0C 2
  let body := tel.take (0x20 + m)
  (crc32c.of body == beAt tel (0x20 + m) 4, crc32.of (body.map fun b => ~~~b) == beAt tel (0x24 + m) 4)

/-- A telegram behind the elimination step of R544, at port `p` and receive stream `n`: the first check that fails rejects it
with its code; else the stream takes its alive value, and the receive buffer the telegram where it has room (R545, R546, R557). -/
structure TelegramChecked (s : State) (p n : Nat) (tel : List Byte) (u : State) : Prop where
  checks :
    let ctl := rLnkRxsctl n
    let tr : Int := (s.reg (rLnkPtptime p)).toNat
    let ts : Int := beAt tel 0x10 8
    let v := beAt tel 0x0A 2
    let d := (v + 65536 - s.rf (rLnkRxsstat n) fLnkRxsstatAlive) % 65536
    let first : Prop := s.rb (rLnkRxsstat n) fLnkRxsstatFirst = true
    let c4 : Prop := s.rb ctl fLnkRxsctlDigchk = true ∧ beAt tel 0x18 8 ≠ (s.reg (rLnkRxsdig n)).toNat
    let c9 : Prop := s.rb (rLnkPtpstat p) fLnkPtpstatSync = false
    let c5 : Prop := (1000 * s.rf (rLnkRxstime n) fLnkRxstimeMaxage : Nat) < tr - ts
    let c6 : Prop := (1000 * s.rf (rLnkRxstime n) fLnkRxstimeSkew : Nat) < ts - tr
    let c7 : Prop := ¬ first ∧ d = 0
    let c8 : Prop := ¬ first ∧ s.rf ctl fLnkRxsctlGap < d
    (c4 → u = s.rxReject p n 4) ∧ (¬ c4 → c9 → u = s.rxReject p n 9) ∧ (¬ c4 → ¬ c9 → c5 → u = s.rxReject p n 5) ∧
    (¬ c4 → ¬ c9 → ¬ c5 → c6 → u = s.rxReject p n 6) ∧ (¬ c4 → ¬ c9 → ¬ c5 → ¬ c6 → c7 → u = s.rxReject p n 7) ∧
    (¬ c4 → ¬ c9 → ¬ c5 → ¬ c6 → ¬ c7 → c8 → u = s.rxReject p n 8) ∧
    (¬ c4 → ¬ c9 → ¬ c5 → ¬ c6 → ¬ c7 → ¬ c8 → ∃ g,
      (first → g = s) ∧ (¬ first → g = s.satRf (rLnkRxscnt n) fLnkRxscntGaps (d - 1)) ∧
      let g := ((g.setRf (rLnkRxsstat n) fLnkRxsstatAlive v).setRf (rLnkRxsstat n) fLnkRxsstatFirst 0).addRf (rLnkRxsstat n)
        fLnkRxsstatAccepted 1
      let g := g.rxAccept p n (tel.take (0x20 + beAt tel 0x0C 2))
      (g.rb ctl fLnkRxsctlCue = true → u = g.fire 252) ∧ (g.rb ctl fLnkRxsctlCue = false → u = g))

/-- Frames and telegrams from the wire (R535, R536, R544 to R547, R560, R561): a port that is down takes nothing; a cut
or bad frame counts; a good one passes its stream filter and MACsec; an Askust frame that has passed is examined in the
order of R544. The model's own choices that its clauses rest on: log entry 5, a delivery that is not due does nothing;
log entry 54, MACsec replay; log entry 55, the two receive commands; log entry 56, where an early rejection counts; log
entry 57, the R-TAG history; log entry 58, the size that MAXSDU limits; log entry 166, frames that no filter matches. -/
def Obligations.PortsTakeFramesAndTelegrams : Prop :=
  (∀ (s : State) (p : BitVec 2) (frame : List Byte) (sec : Option SecTag), let k := p.toNat
    (∀ ok cut, s.linkIsUp k = false → exec (.frameReceive p frame ok cut sec) s = .next s) ∧
    (∀ ok, s.linkIsUp k = true → exec (.frameReceive p frame ok true sec) s = .next (s.portCount k 2)) ∧
    (∀ ok, s.linkIsUp k = true → (ok = false ∨ frame.length < 64 ∨ 2048 < frame.length) →
      exec (.frameReceive p frame ok false sec) s = .next (s.portCount k 1)) ∧
    (s.linkIsUp k = true → 64 ≤ frame.length → frame.length ≤ 2048 →
      let v := s.portCount k 0
      (vlanTag frame = none →
        ∃ u, exec (.frameReceive p frame true false sec) s = .next u ∧ MacsecChecked v k frame sec u) ∧
      (∀ pcp vid, vlanTag frame = some (pcp, vid) →
        (v.filterFor k pcp vid = none →
          ∃ u, exec (.frameReceive p frame true false sec) s = .next u ∧ MacsecChecked v k frame sec u) ∧
        (∀ f, v.filterFor k pcp vid = some f →
          (v.rf (rLnkFilt k f) fLnkFiltMaxsdu < frame.length - 22 → exec (.frameReceive p frame true false sec) s =
            .next ((v.satRf (rLnkFiltcnt k f) fLnkFiltcntDropped 1).portCount k 3)) ∧
          (frame.length - 22 ≤ v.rf (rLnkFilt k f) fLnkFiltMaxsdu → v.rf (rLnkFilt k f) fLnkFiltRate = 0 →
            ∃ u, exec (.frameReceive p frame true false sec) s = .next u ∧
              MacsecChecked (v.addRf (rLnkFiltcnt k f) fLnkFiltcntPassed 1) k frame sec u))))) ∧
  (∀ (s : State) (p : BitVec 2) (rtag : Option (BitVec 16)) (tel : List Byte), let k := p.toNat
    let m := beAt tel 0x0C 2
    let formed : Prop := 0x28 ≤ tel.length ∧ beAt tel 0x0E 1 = 1 ∧ m ≤ 1400 ∧ 0x28 + m ≤ tel.length
    ((s.linkIsUp k = false ∨ ∀ rest, s.wireOf k ≠ (rtag.map (·.toNat), tel) :: rest) →
      exec (.askustReceive p rtag tel) s = .next s) ∧
    (∀ rest, s.linkIsUp k = true → s.wireOf k = (rtag.map (·.toNat), tel) :: rest →
      let v := s.setWire k rest
      let stream := v.rxStream k (beAt tel 0 4) (beAt tel 4 4)
      (formed → (codesHold tel).1 = true → (codesHold tel).2 = true → stream = none →
        exec (.askustReceive p rtag tel) s = .next (v.portCount k 7)) ∧
      ((stream = none ∨ tel.length < 8) → ¬ (formed ∧ (codesHold tel).1 = true ∧ (codesHold tel).2 = true) →
        exec (.askustReceive p rtag tel) s = .next v) ∧
      (∀ n, 8 ≤ tel.length → stream = some n →
        (¬ formed → exec (.askustReceive p rtag tel) s = .next (v.rxReject k n 1)) ∧
        (formed → (codesHold tel).1 = false → exec (.askustReceive p rtag tel) s = .next (v.rxReject k n 2)) ∧
        (formed → (codesHold tel).1 = true → (codesHold tel).2 = false →
          exec (.askustReceive p rtag tel) s = .next (v.rxReject k n 3)) ∧
        (formed → (codesHold tel).1 = true → (codesHold tel).2 = true →
          let seen := Tab.get listDefault v.lnk.hist n
          ((rtag = none ∨ v.rb (rLnkRxsctl n) fLnkRxsctlElim = false) →
            ∃ u, exec (.askustReceive p rtag tel) s = .next u ∧ TelegramChecked v k n tel u) ∧
          (∀ t, rtag = some t → v.rb (rLnkRxsctl n) fLnkRxsctlElim = true →
            (t.toNat ∈ seen → exec (.askustReceive p rtag tel) s =
              .next ((v.satRf (rLnkRxscnt n) fLnkRxscntEliminated 1).portCount k 6)) ∧
            (t.toNat ∉ seen → ∃ u, exec (.askustReceive p rtag tel) s = .next u ∧ TelegramChecked
              (v.setLnk { v.lnk with hist := Tab.set listDefault v.lnk.hist n ((t.toNat :: seen).take (v.histLen n)) })
              k n tel u)))))) ∧
  (∀ (s : State) (p : BitVec 2), let k := p.toNat
    (s.rxqOf k = [] → exec (.telegramDelivery p) s = .next s) ∧
    ((s.domOn 44 = false ∨ s.ready 28 = false) → exec (.telegramDelivery p) s = .next s) ∧
    (∀ n bs pos rest, s.rxqOf k = (n, bs, pos) :: rest → s.domOn 44 = true → s.ready 28 = true →
      let a := rLnkRxsdest n
      let f := s.rf a fLnkRxsdestFrame
      let off := s.rf a fLnkRxsdestOffset
      let drop := (s.setRxq k rest).noRoom k n
      (s.rb a fLnkRxsdestDest = true → (s.rb (rRepFrcfg f) fRepFrcfgEn = false ∨ (s.frameBuf f 0).2 < off + bs.length) →
        exec (.telegramDelivery p) s = .next drop) ∧
      (s.rb a fLnkRxsdestDest = true → s.rb (rRepFrcfg f) fRepFrcfgEn = true → off + bs.length ≤ (s.frameBuf f 0).2 →
        (∀ t, s.frameWrite (s.frameView f) f off bs = .ok t → exec (.telegramDelivery p) s = .next (t.setRxq k rest)) ∧
        (∀ e b, s.frameWrite (s.frameView f) f off bs = .error (e, b) →
          exec (.telegramDelivery p) s = .next (drop.writeNote (0x9C + k) e b))) ∧
      (s.rb a fLnkRxsdestDest = false → s.relayFor 1 (s.rf a fLnkRxsdestRelaysel) = none →
        exec (.telegramDelivery p) s = .next drop) ∧
      (∀ r, s.rb a fLnkRxsdestDest = false → s.relayFor 1 (s.rf a fLnkRxsdestRelaysel) = some r →
        let x := s.relay r
        let part := (bs.drop pos).take x.room
        let ends := decide (bs.length ≤ pos + part.length) && s.rb (rLnkRxsctl n) fLnkRxsctlPush
        let no := s.relayRefuses (.win (s.relayWorld r) true) r false ends part.length
        let u := s.relayPut r part
        (part = [] → exec (.telegramDelivery p) s = .next s) ∧
        (∀ e j at', part ≠ [] → no = some (e, j, at') →
          exec (.telegramDelivery p) s = .next (drop.writeNote (0x9C + k) e at')) ∧
        (part ≠ [] → no = none →
          (pos + part.length < bs.length → exec (.telegramDelivery p) s = .next (u.setRxq k ((n, bs, pos + part.length) :: rest))) ∧
          (bs.length ≤ pos + part.length → s.rb (rLnkRxsctl n) fLnkRxsctlPush = false →
            exec (.telegramDelivery p) s = .next (u.setRxq k rest)) ∧
          (bs.length ≤ pos + part.length → s.rb (rLnkRxsctl n) fLnkRxsctlPush = true →
            exec (.telegramDelivery p) s = .next ((u.relaySeal r).setRxq k rest))))))

/-- A refusal of a transmit ring (R541, R562; log entry 157): where the descriptor could be read, the stream counts it, and a
refusal on a safety stream raises TXREFUSE; else TXREFUSE names the ring's world. -/
def txCounted (s : State) (p w : Nat) (stream : Option Nat) : State :=
  match stream with
  | none => s.raise ⟨.lnk, p, 6, some (worldOf w), 0, 0, 0, false⟩
  | some n =>
    let u := s.satRf (rLnkTxsstat n) fLnkTxsstatRefused 1
    if u.rb (rLnkTxsctl n) fLnkTxsctlWorld then u else u.raise ⟨.lnk, p, 6, some .safety, 0, n, 0, false⟩

/-- A descriptor of a transmit ring that is refused (R541): its STATUS is written and HEAD moves on. -/
def txRefused (s : State) (p w a next st : Nat) (stream : Option Nat) : State :=
  txCounted ((s.txStatus p w a st none).1.setRf (rLnkTxhead p w) fLnkTxheadHead next) p w stream

/-- Link state, gPTP, gates and transmit rings (R535, R537, R540, R541, R543, R559). The model's own choices that its
clauses rest on: log entry 5, an event that is not due does nothing; log entry 59, the order of the descriptor checks;
log entry 60, when the alive word is written; log entry 61, a descriptor that cannot be read; log entry 62, gates before
the first cycle; log entry 157, what a refused status counts as. -/
def Obligations.PortsKeepLinkTimeAndGates : Prop :=
  (∀ (s : State) (p speed fec : BitVec 2), let k := p.toNat
    let a := rLnkPstat k
    let pairs : List (Nat × Nat) := [(0, 0), (1, 0), (1, 1), (2, 1), (2, 2)]
    let sel := s.rf (rLnkPctl k) fLnkPctlFec
    let may : Prop := s.portOn k = true ∧ (speed.toNat, fec.toNat) ∈ pairs ∧
      (s.rb (rLnkPctl k) fLnkPctlAn = true ∨ (speed.toNat = s.rf (rLnkPctl k) fLnkPctlSpeed ∧
        ((speed.toNat, sel) ∉ pairs ∨ fec.toNat = sel)))
    (may → exec (.linkUp p speed fec) s = .next
      (((s.setRf a fLnkPstatLinkup 1).setRf a fLnkPstatSpeed speed.toNat).setRf a fLnkPstatFec fec.toNat)) ∧
    (¬ may → exec (.linkUp p speed fec) s = .next s) ∧
    (s.rb a fLnkPstatLinkup = false → exec (.linkDown p) s = .next s) ∧
    (s.rb a fLnkPstatLinkup = true → exec (.linkDown p) s = .next
      ((((s.setRf a fLnkPstatLinkup 0).setRf a fLnkPstatSpeed 0).setRf a fLnkPstatFec 0).flt ⟨.lnk, k, 2, none, 0, k, 0, false⟩))) ∧
  (∀ (s : State) (p : BitVec 2) (m : SyncMsg) (offset interval : BitVec 32), let k := p.toNat
    let mine : Prop := s.ptpOn k = true ∧ s.rf (rLnkPtpctl k) fLnkPtpctlDomain = m.domain.toNat ∧
      ((s.ptp k).best = none ∨ ∃ q, (s.ptp k).best = some (q, m.master))
    let v := (s.setReg (rLnkPtptime k) m.time).setRf (rLnkPtpstat k) fLnkPtpstatOffset offset.toNat
    let x : PtpSt := { s.ptp k with interval := interval.toNat, last := s.time }
    let near : Prop := offset.toInt.natAbs ≤ v.rf (rLnkPtpctl k) fLnkPtpctlSynclim
    (¬ mine → exec (.gptpSync p m offset interval) s = .next s) ∧
    (mine → near → x.good < 3 →
      exec (.gptpSync p m offset interval) s = .next (v.setPtp k { x with good := x.good + 1 })) ∧
    (mine → near → 3 ≤ x.good → exec (.gptpSync p m offset interval) s =
      .next ((v.setPtp k { x with good := 4 }).setRf (rLnkPtpstat k) fLnkPtpstatSync 1)) ∧
    (mine → ¬ near →
      let w := (v.setPtp k x).setPtp k { x with good := 0 }
      (w.rb (rLnkPtpstat k) fLnkPtpstatSync = false → exec (.gptpSync p m offset interval) s = .next w) ∧
      (w.rb (rLnkPtpstat k) fLnkPtpstatSync = true → exec (.gptpSync p m offset interval) s =
        .next ((w.setRf (rLnkPtpstat k) fLnkPtpstatSync 0).flt ⟨.lnk, k, 3, none, 0, k, 0, false⟩)))) ∧
  (∀ (s : State) (p : BitVec 2), let k := p.toNat
    (∀ (m : AnnounceMsg) (master : Word),
      let mine : Prop := s.ptpOn k = true ∧ s.rf (rLnkPtpctl k) fLnkPtpctlDomain = m.domain.toNat
      let better : Prop := (s.ptp k).best = none ∨ ∃ q o, (s.ptp k).best = some (q, o) ∧
        (o = master ∨ m.priority.toNat < q.toNat ∨ (m.priority = q ∧ master.toNat < o.toNat))
      (mine → better →
        exec (.announce p m master) s = .next (s.setPtp k { s.ptp k with best := some (m.priority, master) })) ∧
      ((¬ mine ∨ ¬ better) → exec (.announce p m master) s = .next s)) ∧
    (∀ delay : BitVec 32,
      (s.ptpOn k = true → exec (.pdelayResp p delay) s = .next (s.setPtp k { s.ptp k with delay := delay.toNat })) ∧
      (s.ptpOn k = false → exec (.pdelayResp p delay) s = .next s)) ∧
    (let due : Prop := (s.ptp k).last + 3 * (s.ptp k).interval ≤ s.time
     let w := s.setPtp k { s.ptp k with good := 0 }
     (¬ due → exec (.syncTimeout p) s = .next s) ∧
     (due → w.rb (rLnkPtpstat k) fLnkPtpstatSync = false → exec (.syncTimeout p) s = .next w) ∧
     (due → w.rb (rLnkPtpstat k) fLnkPtpstatSync = true → exec (.syncTimeout p) s =
       .next ((w.setRf (rLnkPtpstat k) fLnkPtpstatSync 0).flt ⟨.lnk, k, 3, none, 0, k, 0, false⟩)))) ∧
  (∀ (s : State) (p : BitVec 2), let k := p.toNat
    let x := s.gate k
    let now := s.ptpTime k
    let start := x.start + ((x.list[x.idx]?).map Prod.snd).getD 0
    let ends (u : State) : Prop := exec (.gateIntervalEnd p) s = .next ((u.setTxq k []).drainTx k (u.txqOf k) [])
    (s.gclEn k = false → ends (s.setGate k GateSt.empty)) ∧
    (s.gclEn k = true → x.list = [] → (s.reg (rLnkGclbase k)).toNat ≤ now →
      let base := (s.reg (rLnkGclbase k)).toNat
      let cycle := s.rf (rLnkGclctl k) fLnkGclctlCycle
      let at' := gateAt now (s.gclRegs k) 0 (base + (now - base) / cycle * cycle)
      ends (s.setGate k ⟨s.gclRegs k, at'.1, at'.2⟩)) ∧
    (s.gclEn k = true → x.list = [] → now < (s.reg (rLnkGclbase k)).toNat → ends s) ∧
    (s.gclEn k = true → x.list ≠ [] → x.idx + 1 < x.list.length →
      ends (s.setGate k { x with idx := x.idx + 1, start := start })) ∧
    (s.gclEn k = true → x.list ≠ [] → x.list.length ≤ x.idx + 1 → ends (s.setGate k ⟨s.gclRegs k, 0, start⟩))) ∧
  (∀ (s : State) (p : BitVec 2) (w : World), let k := p.toNat
    let head := s.rf (rLnkTxhead k w.idx) fLnkTxheadHead
    let next := (head + 1) % (16 * 2 ^ s.rf (rLnkTxctl k w.idx) fLnkTxctlSize)
    let a := s.rf (rLnkTxbase k w.idx) fLnkTxbaseBase * 64 + 32 * head
    let may : Prop := s.portOn k = true ∧ s.rb (rLnkTxctl k w.idx) fLnkTxctlEn = true ∧
      head ≠ Tab.get natDefault s.lnk.txUpTo (2 * k + w.idx)
    let waits : Prop := s.spanReady a 32 = false ∨
      ∃ d, s.load Paths.plain (.win (worldOf w.idx) true) .rd a 32 = .ok d ∧ s.txWaits k w.idx d = true
    ((¬ may ∨ waits) → exec (.txDescriptor p w) s = .next s) ∧
    (may → ¬ waits → ∀ u e, s.readMem Paths.plain (.win (worldOf w.idx) true) a 32 = (u, .error e) →
      exec (.txDescriptor p w) s = .next (txRefused u k w.idx a next 6 none)) ∧
    (may → ¬ waits → ∀ u d, s.readMem Paths.plain (.win (worldOf w.idx) true) a 32 = (u, .ok d) →
      (∀ v st, u.txCheck k w.idx d = (v, .error st) →
        exec (.txDescriptor p w) s = .next (txRefused v k w.idx a next st (some (leField d 0 1)))) ∧
      (∀ v pay, u.txCheck k w.idx d = (v, .ok pay) →
        (∀ t st, v.txBuild d pay = (t, .error st) →
          exec (.txDescriptor p w) s = .next (txRefused t k w.idx a next st (some (leField d 0 1)))) ∧
        (∀ t alive, v.txBuild d pay = (t, .ok alive) →
          let done := t.txStatus k w.idx a 1 (some alive)
          let t := done.1.setRf (rLnkTxhead k w.idx) fLnkTxheadHead next
          let t := if done.2 = true then t else txCounted t k w.idx (some (leField d 0 1))
          ((leField d 1 1).testBit 1 = true → exec (.txDescriptor p w) s = .next (t.fire 252)) ∧
          ((leField d 1 1).testBit 1 = false → exec (.txDescriptor p w) s = .next t)))))

/-- Bytes fed to a seal unit (R550): the first one after a close opens it with the initial value. -/
def sealFed (s : State) (u : Nat) (bs : List Byte) : State :=
  let c := sealPoly (s.rf (rSeaCtl u) fSeaCtlPoly)
  let c := { c with init := (s.reg (rSeaInit u)).toNat % 2 ^ c.w }
  let t := s.setSea u { s.sea u with crc := c.feed (if s.rb (rSeaStat u) fSeaStatOpen = true then (s.sea u).crc else c.init) bs }
  let t := t.setRf (rSeaStat u) fSeaStatOpen 1
  t.setRf (rSeaStat u) fSeaStatBytes
    ((if s.rb (rSeaStat u) fSeaStatOpen = true then s.rf (rSeaStat u) fSeaStatBytes else 0) + bs.length)

/-- The close of a seal (R552, R556): RESULT takes the value; in generate mode ALIVE counts; in check mode ALIVE takes CHKALIVE
where value and counter are the expected ones, else FAIL and FAILWHY say why and CHECKFAIL is raised; with RESEN a record is
written; the unit is idle. -/
def SealClosed (s : State) (u tag feeder : Nat) (t : State) : Prop :=
  let c := sealPoly (s.rf (rSeaCtl u) fSeaCtlPoly)
  let c := { c with init := (s.reg (rSeaInit u)).toNat % 2 ^ c.w }
  let v := c.out (if s.rb (rSeaStat u) fSeaStatOpen = true then (s.sea u).crc else c.init)
  let r := s.setReg (rSeaResult u) (BitVec.ofNat 64 v)
  let alive := r.rf (rSeaAlive u) fSeaAliveAlive
  let chk := r.rf (rSeaChkalive u) fSeaChkaliveAlive
  let failed (why : Nat) : Prop :=
    let w := (r.setRf (rSeaStat u) fSeaStatFailwhy why).setRf (rSeaStat u) fSeaStatFail 1
    t = ((w.raise ⟨.sea, u, 1, some (w.seaWorld u), 0, why, 0, false⟩).sealWrite u tag feeder true).seaIdle u
  let same : Prop := v = (r.reg (rSeaChkval u)).toNat
  let older : Prop := (alive + 2 ^ 32 - chk) % 2 ^ 32 < 2 ^ 31
  (r.rb (rSeaCtl u) fSeaCtlMode = false →
    t = ((r.setRf (rSeaAlive u) fSeaAliveAlive (alive + 1)).sealWrite u tag feeder false).seaIdle u) ∧
  (r.rb (rSeaCtl u) fSeaCtlMode = true → ¬ same → failed 1) ∧
  (r.rb (rSeaCtl u) fSeaCtlMode = true → same → chk ≠ (alive + 1) % 2 ^ 32 → older → failed 2) ∧
  (r.rb (rSeaCtl u) fSeaCtlMode = true → same → chk ≠ (alive + 1) % 2 ^ 32 → ¬ older → failed 3) ∧
  (r.rb (rSeaCtl u) fSeaCtlMode = true → same → chk = (alive + 1) % 2 ^ 32 →
    let w := ((r.setRf (rSeaStat u) fSeaStatFailwhy 0).setRf (rSeaStat u) fSeaStatFail 0).setRf (rSeaAlive u) fSeaAliveAlive chk
    t = (w.sealWrite u tag feeder false).seaIdle u)

/-- The feeds of a seal unit from registers: the command, the register and the bytes. -/
inductive SealFeed (m : Master) (u : Fin 6) : Instr → Nat → List Byte → Prop where
  | b (v : BitVec 8) : SealFeed m u (.feedb m u v) (rSeaFeedb u.val) (leBytes 1 v.toNat)
  | h (v : BitVec 16) : SealFeed m u (.feedh m u v) (rSeaFeedh u.val) (leBytes 2 v.toNat)
  | w (v : BitVec 32) : SealFeed m u (.feedw m u v) (rSeaFeedw u.val) (leBytes 4 v.toNat)

/-- Seal units (R549 to R552, R564, R565): a unit that another feeder holds answers BUSYFEED; else it is fed, closed and
scanned, a close during a scan waits for its end, and a new polynomial loads its initial value. The model's own choices
that its clauses rest on: log entry 19, a seal over no byte; log entry 20, a passing check clears FAIL; log entry 157,
how a refused seal record is reported; log entry 167, a scan's unit. -/
def Obligations.SealUnitsAreFedAndClosed : Prop :=
  (∀ (s : State) (m : Master) (u : Fin 6) (i : Instr) (off : Nat) (bs : List Byte) (a : RegAt), SealFeed m u i off bs →
    Reaches s m off a →
    (s.rb (rSeaStat u.val) fSeaStatHeld = true → exec i s = .next (s.busyFeed u.val)) ∧
    (s.rb (rSeaStat u.val) fSeaStatHeld = false → exec i s = .next (sealFed s u.val bs))) ∧
  (∀ (s : State) (m : Master) (u : Fin 6) (a : RegAt), Reaches s m (rSeaClose u.val) a →
    (s.rb (rSeaStat u.val) fSeaStatHeld = true → (s.sea u.val).scan = none →
      exec (.seaClose m u) s = .next (s.busyFeed u.val)) ∧
    (∀ start len after, (s.sea u.val).scan = some (start, len, after) →
      exec (.seaClose m u) s = .next (s.setSea u.val { s.sea u.val with scan := some (start, len, true) })) ∧
    (s.rb (rSeaStat u.val) fSeaStatHeld = false → (s.sea u.val).scan = none →
      ∃ t, exec (.seaClose m u) s = .next t ∧ SealClosed s u.val 0 0 t)) ∧
  (∀ (s : State) (m : Master) (u : Fin 6) (len : BitVec 40) (after : Bool) (a : RegAt), Reaches s m (rSeaScanlen u.val) a →
    (s.rb (rSeaStat u.val) fSeaStatHeld = true → exec (.scanlenWrite m u len after) s = .next (s.busyFeed u.val)) ∧
    (s.rb (rSeaStat u.val) fSeaStatHeld = false → len = 0 → exec (.scanlenWrite m u len after) s = .next s) ∧
    (s.rb (rSeaStat u.val) fSeaStatHeld = false → len ≠ 0 →
      let t := s.setSea u.val { s.sea u.val with
        scan := some (s.rf (rSeaScanaddr u.val) fSeaScanaddrAddr, len.toNat, after) }
      exec (.scanlenWrite m u len after) s =
        .next ((t.setRf (rSeaStat u.val) fSeaStatScanning 1).setRf (rSeaStat u.val) fSeaStatHeld 1))) ∧
  (∀ (s : State) (u : Fin 6),
    ((s.sea u.val).scan = none → exec (.scanEnd u) s = .next s) ∧
    (∀ a n after, (s.sea u.val).scan = some (a, n, after) → s.spanReady a n = false → exec (.scanEnd u) s = .next s) ∧
    (∀ a n after, (s.sea u.val).scan = some (a, n, after) → s.spanReady a n = true →
      (∀ t, s.scanFeed u.val a n = (t, false) → exec (.scanEnd u) s = .next t) ∧
      (∀ t, s.scanFeed u.val a n = (t, true) →
        (after = true → ∃ r, exec (.scanEnd u) s = .next r ∧ SealClosed t u.val 0 0 r) ∧
        (after = false → exec (.scanEnd u) s = .next
          (((t.setSea u.val { t.sea u.val with scan := none }).setRf (rSeaStat u.val) fSeaStatScanning 0).setRf
            (rSeaStat u.val) fSeaStatHeld 0))))) ∧
  (∀ (s : State) (m : Master) (u : Fin 6) (v : Word) (a : RegAt), Reaches s m (rSeaCtl u.val) a →
    (s.rb (rSeaStat u.val) fSeaStatHeld = true → exec (.seaCtlWrite m u v) s = .next (s.busyFeed u.val)) ∧
    (s.rb (rSeaStat u.val) fSeaStatHeld = false →
      let t := s.storeReg (s.auth m).src a v (BitVec.allOnes 64) false
      let p := t.rf (rSeaCtl u.val) fSeaCtlPoly
      (p = s.rf (rSeaCtl u.val) fSeaCtlPoly → exec (.seaCtlWrite m u v) s = .next t) ∧
      (p ≠ s.rf (rSeaCtl u.val) fSeaCtlPoly →
        exec (.seaCtlWrite m u v) s = .next (t.setReg (rSeaInit u.val) (BitVec.ofNat 64 (sealPoly p).init)))))

/-- Writes of link registers (R541, R548, R559, R560): a new tail, taken modulo the ring's size, lets the ring process
up to it; RESYNC sets FIRST; a key word goes to staging, and word 6 installs the staged association and clears the
staging. The model's own choices that its clauses rest on: log entry 94, who may write the key; log entry 101,
KEY_INSTALL is the last key word. -/
def Obligations.LinkRegistersTakeTheirCommands : Prop :=
  (∀ (s : State) (m : Master) (p : BitVec 2) (w : World) (tail : BitVec 16) (a : RegAt),
    Reaches s m (rLnkTxtail p.toNat w.idx) a →
    let size := 16 * 2 ^ s.rf (rLnkTxctl p.toNat w.idx) fLnkTxctlSize
    let t := s.storeReg (s.auth m).src a (tail.zeroExtend 64) (BitVec.allOnes 64) false
    exec (.txtailWrite m p w tail) s = .next
      ((t.setRf (rLnkTxtail p.toNat w.idx) fLnkTxtailTail (tail.toNat % size)).txKick p.toNat w.idx)) ∧
  (∀ (s : State) (m : Master) (n : BitVec 8) (a : RegAt), Reaches s m (rLnkRxsstat n.toNat) a →
    exec (.resync m n) s = .next (s.setRf (rLnkRxsstat n.toNat) fLnkRxsstatFirst 1)) ∧
  (∀ (s : State) (m : Master) (p : BitVec 2) (v : Word) (a : RegAt), Reaches s m (rLnkKeydata p.toNat) a →
    let k := p.toNat
    let word := s.rf (rLnkKeysel k) fLnkKeyselWord
    let owner : Prop := (s.auth m).machine = true ∨
      (s.auth m).view = .win (worldOf (s.rf (rLnkSecctl k) fLnkSecctlOwner)) true
    (¬ owner → exec (.keydataWrite m p v) s = .next (s.locked .lnk k)) ∧
    (¬ owner → word = 6 → exec (.keyInstall m p v) s = .next (s.locked .lnk k)) ∧
    (word ≠ 6 → exec (.keyInstall m p v) s = .next s) ∧
    (owner → word < 6 → exec (.keydataWrite m p v) s = .next
      { s with lnk := { s.lnk with staging := Tab.set wordZero s.lnk.staging (8 * k + word) v } }) ∧
    (owner → word = 6 →
      let words := [0, 1, 2, 3, 4, 5].map fun j => Tab.get wordZero s.lnk.staging (8 * k + j)
      let clear := [0, 1, 2, 3, 4, 5].foldl (fun t j => Tab.set wordZero t (8 * k + j) 0) s.lnk.staging
      let t := { s with lnk := { s.lnk with staging := clear } }
      let t := t.setAssoc k (t.rf (rLnkKeysel k) fLnkKeyselDir) (t.rf (rLnkKeysel k) fLnkKeyselAn) (some ⟨words, v.toNat, v.toNat⟩)
      exec (.keydataWrite m p v) s = .next t ∧ exec (.keyInstall m p v) s = .next t))

/-! ### The host interface -/

/-- The descriptor at place `i` of a ring is of type `typ` and may be carried on (R574, R577): it has started, or all before it
have, no RUN before it waits for a queue, and, with FENCE, none is left before it. -/
def Carried (s : State) (f n i typ : Nat) (d : DescSt) : Prop :=
  ∃ e, (s.sq f n).descs[i]? = some e ∧ e.u 0 1 = typ ∧ s.busMaster f = true ∧
    (e.started = true ∨
      ((∀ x ∈ (s.sq f n).descs.take i, x.started = true ∧ x.queueFull = false) ∧ (e.fence = false ∨ i = 0))) ∧
    d = { e with started := true }

/-- The end of a descriptor (R575, R584, R588, R592): it leaves the ring; its entry waits at the completion ring, in one of its 64
places or behind them, where the ring is enabled and the descriptor is not a quiet one that is DONE; a device or host error raises the fault; CUE fires channel 253. -/
structure DescriptorEnded (s : State) (f n : Nat) (d : DescSt) (status d0 d1 : Nat) (t : State) : Prop where
  ends :
    let c := s.rf (rHstSqctl f n) fHstSqctlCq
    let u := s.setSq f n { s.sq f n with descs := (s.sq f n).descs.filter fun x => x.id != d.id }
    let posts : Prop := ¬ (d.quiet = true ∧ status = 0) ∧ u.rb (rHstCqctl f c) fHstCqctlEn = true
    let e := completion d.tag n status d.head d0 d1
    ∃ v, (posts → (u.cq f c).waiting.length < 64 → v = u.setCq f c { u.cq f c with waiting := (u.cq f c).waiting ++ [e] }) ∧
      (posts → 64 ≤ (u.cq f c).waiting.length → v = u.setCq f c { u.cq f c with extra := (u.cq f c).extra ++ [e] }) ∧
      (¬ posts → v = u) ∧
      let w := if status = 4 ∨ status = 5 then v.raise ⟨.hst, 0, 3, some (worldOf f), 0, 64 * f + n, 0, false⟩ else v
      (d.cue = true → t = w.fire 253) ∧ (d.cue = false → t = w)

/-- Rings of the host (R572 to R577, R581 to R588): doorbells, the fetch of a descriptor, RUN, NOTE, CONFIG-STAGE and
ARCHIVE-READ, completion entries and their interrupts, and the enabling and disabling of rings. The model's own choices
that its clauses rest on: log entry 5, a descriptor that may not go on stays; log entry 15, a disabled completion ring;
log entries 64 and 159, the order of rings; log entry 65, when FORMAT is decided; log entry 67, a list that does not
decode; log entry 68, the doorbell of a disabled ring. -/
def Obligations.HostRingsCarryDescriptors : Prop :=
  (∀ (s : State) (f : World) (n : BitVec 6) (x : BitVec 16), let g := f.idx
    let k := n.toNat
    (s.hostOn = false → exec (.sqTailDoorbell f n x) s = .next s ∧ exec (.cqHeadDoorbell f n x) s = .next s) ∧
    (s.hostOn = true →
      let u := s.setSq g k { s.sq g k with bell := x.toNat }
      let size := 16 * 2 ^ s.rf (rHstSqctl g k) fHstSqctlSize
      let head := s.rf (rHstSqstat g k) fHstSqstatHead
      let tail := s.rf (rHstSqstat g k) fHstSqstatTail
      let bad : Prop := size ≤ x.toNat ∨ s.rb (rHstSqctl g k) fHstSqctlEn = false ∨
        size - 1 < (tail + size - head) % size + (x.toNat + size - tail) % size
      (bad → exec (.sqTailDoorbell f n x) s = .next (u.flt ⟨.hst, 0, 2, none, 0, 64 * g + k, 0, false⟩)) ∧
      (¬ bad → exec (.sqTailDoorbell f n x) s = .next (u.setRf (rHstSqstat g k) fHstSqstatTail x.toNat)) ∧
      let v := s.setCq g k { s.cq g k with bell := x.toNat }
      (s.rb (rHstCqctl g k) fHstCqctlEn = false → exec (.cqHeadDoorbell f n x) s = .next v) ∧
      (s.rb (rHstCqctl g k) fHstCqctlEn = true →
        exec (.cqHeadDoorbell f n x) s = .next (v.setRf (rHstCqstat g k) fHstCqstatHead x.toNat)))) ∧
  (∀ (s : State) (f : World) (n : BitVec 6), let g := f.idx
    let k := n.toNat
    let q := s.sq g k
    let head := s.rf (rHstSqstat g k) fHstSqstatHead
    let can (g k : Nat) : Prop := s.busMaster g = true ∧ s.rb (rHstSqctl g k) fHstSqctlEn = true ∧
      s.rf (rHstSqstat g k) fHstSqstatHead ≠ s.rf (rHstSqstat g k) fHstSqstatTail ∧ (s.sq g k).descs.length < 8 ∧
      (∀ d ∈ (s.sq g k).descs, d.queueFull = false) ∧
      (s.cq g (s.rf (rHstSqctl g k) fHstSqctlCq)).waiting.length < 64
    let behind (j : Nat) : Nat := (j + 63 - Tab.get servedDefault s.host.served g % 64) % 64
    let may : Prop := can g k ∧ (∀ j, j < 64 → can g j → behind k ≤ behind j) ∧
      (g = s.host.turn → ∀ j, j < 64 → ¬ can (1 - g) j)
    let next := (head + 1) % (16 * 2 ^ s.rf (rHstSqctl g k) fHstSqctlSize)
    let d : DescSt := ⟨q.nextId, s.hostRead (s.rf (rHstSqbase g k) fHstSqbaseBase * 64 + 64 * head) 64, next, false, 0, none, 0, 0,
      none, none, s.time⟩
    let served := { s with host := { s.host with turn := g, served := Tab.set servedDefault s.host.served g k } }
    let u := (served.setSq g k { q with descs := q.descs ++ [d], nextId := q.nextId + 1 }).setRf (rHstSqstat g k) fHstSqstatHead next
    (¬ may → exec (.descriptorFetch f n) s = .next s) ∧
    (may → d.formOk = true → exec (.descriptorFetch f n) s = .next u) ∧
    (may → d.formOk = false → ∃ t, exec (.descriptorFetch f n) s = .next t ∧ DescriptorEnded u g k d 3 0 0 t)) ∧
  (∀ (s : State) (f : World) (n : BitVec 6) (i : BitVec 3), let g := f.idx
    let k := n.toNat
    ((∀ d, ¬ Carried s g k i.toNat 1 d) → exec (.runDesc f n i) s = .next s) ∧
    (∀ d, Carried s g k i.toNat 1 d →
      (d.rej ≠ none → exec (.runDesc f n i) s = .next s) ∧
      let waits : Prop := d.list = none ∧ d.u 0x17 1 ≠ 0 ∧ s.spanReady (d.u 8 8) (d.u 0x10 4) = false
      (d.rej = none → waits → exec (.runDesc f n i) s = .next (s.setDesc g k d)) ∧
      (d.rej = none → ¬ waits → ∀ l, (d.list = some l ∨ (d.list = none ∧ s.runList g d = .ok l)) →
        let v := if d.list = none ∧ d.u 0x17 1 ≠ 0 then s.listNote g d l.length else s
        (splitOrders (d.u 0x14 2) l = none →
          ∃ t, exec (.runDesc f n i) s = .next t ∧ DescriptorEnded v g k d 3 0 0 t) ∧
        (∀ os, splitOrders (d.u 0x14 2) l = some os →
          let d := { d with list := some l }
          ∀ u e, (v.setDesc g k d).runIssue g k d d.issued (os.drop d.issued) = (u, e) →
            exec (.runDesc f n i) s = .next (((u.setDesc g k e).runSettle g k e).settle (e.u 0x16 1))))) ∧
    ((∀ d, ¬ Carried s g k i.toNat 5 d) → exec (.noteDesc f n i) s = .next s) ∧
    (∀ d, Carried s g k i.toNat 5 d →
      ∃ t, exec (.noteDesc f n i) s = .next t ∧ DescriptorEnded s g k d 0 (d.u 8 8) 0 t) ∧
    ((∀ d, ¬ Carried s g k i.toNat 4 d) → exec (.configStage f n i) s = .next s) ∧
    (∀ d, Carried s g k i.toNat 4 d →
      ((g ≠ 0 ∨ s.rb rHstCfgctl fHstCfgctlStageen = false) →
        ∃ t, exec (.configStage f n i) s = .next t ∧ DescriptorEnded s g k d 7 0 0 t) ∧
      (g = 0 → s.rb rHstCfgctl fHstCfgctlStageen = true → s.cfg.run ≠ none →
        exec (.configStage f n i) s = .next (s.setDesc g k d)) ∧
      (g = 0 → s.rb rHstCfgctl fHstCfgctlStageen = true → s.cfg.run = none →
        ∃ t, exec (.configStage f n i) s = .next t ∧ DescriptorEnded
          (s.stage (d.u 0x14 4) (s.hostRead (d.u 8 8) (d.u 0x10 4))) g k d 0 (d.u 0x10 4) 0 t)) ∧
    (∀ m, (∀ d, ¬ Carried s g k i.toNat 3 d) → exec (.archiveRead f n i m) s = .next s) ∧
    (∀ d, Carried s g k i.toNat 3 d → let len := d.u 0x18 8
      exec (.archiveRead f n i 0) s = .next (s.setDesc g k d) ∧
      (∀ m, d.moved = len →
        ∃ t, exec (.archiveRead f n i (m + 1)) s = .next t ∧ DescriptorEnded s g k d 0 d.moved 0 t) ∧
      (∀ m, d.moved ≠ len → s.arcByte s.belows g (d.u 8 8) (d.u 0x10 8) d.moved len (d.moved == 0) = .wait →
        exec (.archiveRead f n i (m + 1)) s = .next (s.setDesc g k d)) ∧
      (∀ m b, d.moved ≠ len → s.arcByte s.belows g (d.u 8 8) (d.u 0x10 8) d.moved len (d.moved == 0) = .byte b →
        let u := s.hostWrite (d.u 0x20 8 + d.moved) [b]
        let e := { d with moved := d.moved + 1 }
        (d.moved + 1 = len → ∃ t, exec (.archiveRead f n i (m + 1)) s = .next t ∧ DescriptorEnded u g k e 0 len 0 t) ∧
        (d.moved + 1 ≠ len → exec (.archiveRead f n i (m + 1)) s = .next (u.archiveRead g k e m))) ∧
      (∀ m c, d.moved ≠ len → s.arcByte s.belows g (d.u 8 8) (d.u 0x10 8) d.moved len (d.moved == 0) = .stop c → c ≠ 0xC →
        ∃ t, exec (.archiveRead f n i (m + 1)) s = .next t ∧
          DescriptorEnded s g k d 6 d.moved (c % 16 + 2 ^ 8 * ((d.u 0x10 8 + d.moved) % 2 ^ 56)) t))) ∧
  (∀ (s : State) (f : World) (n : BitVec 6), let g := f.idx
    let k := n.toNat
    let x := s.cq g k
    let ctl := rHstCqctl g k
    let stat := rHstCqstat g k
    let tail := s.rf stat fHstCqstatTail
    let next := (tail + 1) % (16 * 2 ^ s.rf ctl fHstCqctlSize)
    let may : Prop := s.busMaster g = true ∧ s.rb ctl fHstCqctlEn = true
    (x.waiting = [] → exec (.completionWrite f n) s = .next s) ∧
    ((¬ may ∨ next = s.rf stat fHstCqstatHead) → exec (.completionWrite f n) s = .next s) ∧
    (∀ e rest, x.waiting = e :: rest → may → next ≠ s.rf stat fHstCqstatHead →
      let phase := s.rf stat fHstCqstatPhase
      ∃ u, (next ≠ 0 → u = (s.hostWrite (s.rf (rHstCqbase g k) fHstCqbaseBase * 64 + 64 * tail) (e ++ leBytes 1 phase)).setRf stat
            fHstCqstatTail next) ∧
        (next = 0 → u = ((s.hostWrite (s.rf (rHstCqbase g k) fHstCqbaseBase * 64 + 64 * tail) (e ++ leBytes 1 phase)).setRf stat
            fHstCqstatTail 0).setRf stat fHstCqstatPhase (1 - phase)) ∧
        let v := u.setCq g k { x with
          waiting := rest ++ x.extra.take 1
          extra := x.extra.drop 1
          count := x.count + 1
          since := some (x.since.getD u.time) }
        let due : Prop := v.rb ctl fHstCqctlIrqen = true ∧
          (v.rf ctl fHstCqctlCoalcnt ≤ x.count + 1 ∨ v.rf ctl fHstCqctlCoalus = 0)
        (¬ due → exec (.completionWrite f n) s = .next v) ∧
        (due → exec (.completionWrite f n) s = .next
          ((v.setCq g k { v.cq g k with count := 0, since := none }).msix g (v.rf ctl fHstCqctlVector)))) ∧
    (x.since = none → exec (.coalesceTimer f n) s = .next s) ∧
    (∀ t, x.since = some t →
      let due : Prop := may ∧ s.rb ctl fHstCqctlIrqen = true ∧ 0 < x.count ∧ t + s.rf ctl fHstCqctlCoalus ≤ s.time
      (¬ due → exec (.coalesceTimer f n) s = .next s) ∧
      (due → exec (.coalesceTimer f n) s = .next
        ((s.setCq g k { x with count := 0, since := none }).msix g (s.rf ctl fHstCqctlVector))))) ∧
  (∀ (s : State) (m : Master) (f : World) (n : BitVec 6) (v : Word) (a : RegAt), let g := f.idx
    let k := n.toNat
    let on := v.setBit 0 true
    let off := v.setBit 0 false
    let stored (w : Word) : State := s.storeReg (s.auth m).src a w (BitVec.allOnes 64) false
    let fixed (r : Nat) (mask w : Word) : Prop := s.rb r ⟨0, 1⟩ = true ∧
      (s.wouldBe a w (BitVec.allOnes 64) ^^^ s.reg r) &&& mask ≠ 0
    (Reaches s m (rHstSqctl g k) a →
      let r := rHstSqctl g k
      let held := fixed r (maskOf 1 4 ||| maskOf 8 6)
      (held on → exec (.ringEnable m f false n v) s = .next (s.locked .hst 0)) ∧
      (held off → exec (.ringDisable m f false n v) s = .next (s.locked .hst 0)) ∧
      (¬ held on → s.rb r ⟨0, 1⟩ = false → (stored on).rb r ⟨0, 1⟩ = true → exec (.ringEnable m f false n v) s =
        .next (((stored on).setRf (rHstSqstat g k) fHstSqstatHead 0).setRf (rHstSqstat g k) fHstSqstatTail 0)) ∧
      (¬ held on → s.rb r ⟨0, 1⟩ = true → (stored on).rb r ⟨0, 1⟩ = true →
        exec (.ringEnable m f false n v) s = .next (stored on)) ∧
      (¬ held off → s.rb r ⟨0, 1⟩ = false → (stored off).rb r ⟨0, 1⟩ = false →
        exec (.ringDisable m f false n v) s = .next (stored off)) ∧
      (¬ held off → s.rb r ⟨0, 1⟩ = true → (stored off).rb r ⟨0, 1⟩ = false →
        exec (.ringDisable m f false n v) s = .next ((stored off).sqAbort g k))) ∧
    (Reaches s m (rHstCqctl g k) a →
      let r := rHstCqctl g k
      let held := fixed r (maskOf 1 4)
      let t := stored on
      let t' := ((t.setRf (rHstCqstat g k) fHstCqstatHead 0).setRf (rHstCqstat g k) fHstCqstatTail 0).setRf (rHstCqstat g k)
        fHstCqstatPhase 1
      (held on → exec (.ringEnable m f true n v) s = .next (s.locked .hst 0)) ∧
      (held off → exec (.ringDisable m f true n v) s = .next (s.locked .hst 0)) ∧
      (¬ held on → s.rb r ⟨0, 1⟩ = false → t.rb r ⟨0, 1⟩ = true → exec (.ringEnable m f true n v) s =
        .next (t'.setCq g k { t'.cq g k with waiting := [], extra := [], count := 0, since := none })) ∧
      (¬ held on → s.rb r ⟨0, 1⟩ = true → t.rb r ⟨0, 1⟩ = true → exec (.ringEnable m f true n v) s = .next t) ∧
      (¬ held off → s.rb r ⟨0, 1⟩ = false → (stored off).rb r ⟨0, 1⟩ = false →
        exec (.ringDisable m f true n v) s = .next (stored off)) ∧
      (¬ held off → s.rb r ⟨0, 1⟩ = true → (stored off).rb r ⟨0, 1⟩ = false → exec (.ringDisable m f true n v) s =
        .next ((stored off).setCq g k { (stored off).cq g k with waiting := [], extra := [] }))))

/-- A COPY that may be carried on, with its direction and the kind of its destination (R576). -/
def CopyCarried (s : State) (f n i dir kind : Nat) (d : DescSt) : Prop :=
  Carried s f n i 2 d ∧ d.u 0x20 1 = dir ∧ (dir = 1 ∨ d.u 0x21 1 = kind)

/-- A copy that has moved on to `m` bytes ends DONE at its length, else stays in progress. -/
def CopyMoved (s : State) (f n : Nat) (d : DescSt) (m : Nat) (t : State) : Prop :=
  let e := { d with moved := m }
  (m = d.u 0x18 8 → DescriptorEnded s f n e 0 m 0 t) ∧ (m ≠ d.u 0x18 8 → t = s.setDesc f n e)

/-- Copies between host and device, resets and link loss, completion timeouts and the debug window (R566 to R571, R578
to R580, R588, R589, R661). The model's own choices that its clauses rest on: log entry 5, a descriptor that may not go
on stays; log entry 66, a copy to a relay that is not enabled; log entry 69, bus mastering and flits; log entry 98, a
timeout of an engine access; log entry 99, accesses of descriptors. -/
def Obligations.HostMovesDataAndLink : Prop :=
  (∀ (s : State) (f : World) (n : BitVec 6) (i : BitVec 3) (m : Nat), let g := f.idx
    let k := n.toNat
    ((∀ d, ¬ CopyCarried s g k i.toNat 0 0 d) → exec (.copyHostToDevice f n i m) s = .next s) ∧
    (∀ d, CopyCarried s g k i.toNat 0 0 d → let a := d.u 0x10 8 + d.moved
      (∀ c, s.target a ≠ .cfg c) →
      let lo := d.u 0x10 8
      let len := d.u 0x18 8
      (s.spanReady a (min m (len - d.moved)) = false → exec (.copyHostToDevice f n i m) s = .next (s.setDesc g k d)) ∧
      (∀ j, s.spanReady a (min m (len - d.moved)) = true →
        s.storeSome (funView g) lo len a (min m (len - d.moved)) = (j, none) → 0 < j →
        ∃ t, exec (.copyHostToDevice f n i m) s = .next t ∧
          CopyMoved (s.storeIn lo len (funView g) a (s.hostRead (d.u 8 8 + d.moved) j)) g k d (d.moved + j) t)) ∧
    ((∀ d, ¬ CopyCarried s g k i.toNat 1 0 d) → exec (.copyDeviceToHost f n i m) s = .next s) ∧
    (∀ d, CopyCarried s g k i.toNat 1 0 d → let a := d.u 8 8 + d.moved
      (∀ c, s.target a ≠ .cfg c) →
      (s.spanReady a (min m (d.u 0x18 8 - d.moved)) = false →
        exec (.copyDeviceToHost f n i m) s = .next (s.setDesc g k d)) ∧
      (∀ bs, s.spanReady a (min m (d.u 0x18 8 - d.moved)) = true → s.loadSome (funView g) a (min m (d.u 0x18 8 - d.moved)) = (bs, none) →
        ∃ t, exec (.copyDeviceToHost f n i m) s = .next t ∧
          CopyMoved (s.hostWrite (d.u 0x10 8 + d.moved) bs) g k d (d.moved + bs.length) t)) ∧
    ((∀ d, ¬ CopyCarried s g k i.toNat 0 1 d) → exec (.copyToRelay f n i m) s = .next s) ∧
    (∀ d, CopyCarried s g k i.toNat 0 1 d →
      ((s.copyRelay g (d.u 0x22 1) = none ∨ s.ready 28 = false) →
        exec (.copyToRelay f n i m) s = .next (s.setDesc g k d)) ∧
      (∀ r, s.copyRelay g (d.u 0x22 1) = some r →
        let j := min (min m (d.u 0x18 8 - d.moved)) (s.relay r).room
        s.ready 28 = true → s.relayRefuses (funView g) r false (decide (d.moved + j = d.u 0x18 8)) j = none →
        let u := s.relayPut r (s.hostRead (d.u 8 8 + d.moved) j)
        let e := { d with moved := d.moved + j }
        (d.moved + j = d.u 0x18 8 → ∃ t, exec (.copyToRelay f n i m) s = .next t ∧
          DescriptorEnded (u.relaySeal r) g k e 0 (d.u 0x18 8) 0 t) ∧
        (d.moved + j ≠ d.u 0x18 8 → exec (.copyToRelay f n i m) s = .next (u.setDesc g k e)))) ∧
    ((∀ d, ¬ CopyCarried s g k i.toNat 0 2 d) → exec (.copyToFrame f n i) s = .next s) ∧
    (∀ d, CopyCarried s g k i.toNat 0 2 d → let fr := d.u 0x22 1
      let off := d.u 0x24 4
      let len := d.u 0x18 8
      let fits : Prop := s.rb (rRepFrcfg fr) fRepFrcfgEn = true ∧ off + len ≤ (s.frameBuf fr 0).2
      (¬ fits → ∃ t, exec (.copyToFrame f n i) s = .next t ∧ DescriptorEnded s g k d 3 0 0 t) ∧
      (fits → s.ready 28 = false → exec (.copyToFrame f n i) s = .next (s.setDesc g k d)) ∧
      (fits → s.ready 28 = true → ∀ u, s.frameWrite (funView g) fr off (s.hostRead (d.u 8 8) len) = .ok u →
        ∃ t, exec (.copyToFrame f n i) s = .next t ∧ DescriptorEnded u g k { d with moved := len } 0 len 0 t))) ∧
  (∀ s : State,
    (∀ f, s.hostOn = false → exec (.functionLevelReset f) s = .next s) ∧
    (∀ f, s.hostOn = true →
      exec (.functionLevelReset f) s = .next ((s.funReset f.idx).flt ⟨.hst, 0, 4, none, 0, f.idx, 0, false⟩)) ∧
    (s.rb rHstPstat fHstPstatLinkup = false → exec .pcieLinkDown s = .next s ∧ exec .pciePerstNFall s = .next s) ∧
    (s.rb rHstPstat fHstPstatLinkup = true →
      let u := (((s.funReset 0).funReset 1).setReg rHstPstat 0).flt ⟨.hst, 0, 5, none, 0, 0, 0, false⟩
      exec .pcieLinkDown s = .next u ∧ exec .pciePerstNFall s = .next u) ∧
    (∀ (gen : BitVec 3) (width : BitVec 5) (bme : BitVec 2),
      let may : Prop := s.domOn 45 = true ∧ s.ready 35 = true ∧ s.rb rHstPstat fHstPstatLinkup = false ∧ 4 ≤ gen.toNat ∧
        gen.toNat ≤ s.rf rHstPctl fHstPctlMaxgen ∧ width.toNat ∈ [1, 4, 8, 16]
      (¬ may → exec (.pcieLinkUp gen width bme) s = .next s) ∧
      (may → exec (.pcieLinkUp gen width bme) s = .next
        (((((s.setRf rHstPstat fHstPstatLinkup 1).setRf rHstPstat fHstPstatGen gen.toNat).setRf rHstPstat fHstPstatWidth
          width.toNat).setRf rHstPstat fHstPstatFlit (if gen = 6 then 1 else 0)).setRf rHstPstat fHstPstatBme bme.toNat)))) ∧
  (∀ (s : State) (c : BitVec 3),
    let waits (l : LoadSt) : Prop := l.res = .wait ∧ (∃ h, s.target l.addr = .host h) ∧
      l.since + 1000 * s.rf rHstPctl fHstPctlCto ≤ s.time
    ((∀ l ∈ (s.cal c.toNat).lds, ¬ waits l) → exec (.completionTimeout (.caller c)) s = .next s) ∧
    (∀ j l, (s.cal c.toNat).lds[j]? = some l → waits l → (∀ x ∈ (s.cal c.toNat).lds.take j, ¬ waits x) →
      exec (.completionTimeout (.caller c)) s = .next (s.loadBack c.toNat j (.fault MErr.host.kind)))) ∧
  (∀ (s : State) (e : BitVec 4) (w : World), let q := qOf e.toNat w
    (s.head q = none → exec (.completionTimeout (.engine e w)) s = .next s) ∧
    (∀ x, s.head q = some x →
      (x.run.phase ≠ .running ∨ s.time < x.run.since + 1000 * s.rf rHstPctl fHstPctlCto) →
      exec (.completionTimeout (.engine e w)) s = .next s)) ∧
  (∀ (s : State) (f : World) (n : BitVec 6) (i : BitVec 3), let g := f.idx
    let k := n.toNat
    ((∀ d, ¬ Carried s g k i.toNat (d.u 0 1) d) → exec (.completionTimeout (.desc f n i)) s = .next s) ∧
    (∀ d, Carried s g k i.toNat (d.u 0 1) d →
      let due : Prop := d.since + 1000 * s.rf rHstPctl fHstPctlCto ≤ s.time
      (¬ due → exec (.completionTimeout (.desc f n i)) s = .next s) ∧
      (due →
        (d.u 0 1 = 1 → d.list = none → d.u 0x17 1 = 0 → ∃ t, exec (.completionTimeout (.desc f n i)) s = .next t ∧
          DescriptorEnded s g k d 5 d.moved (d.u 8 8) t) ∧
        (d.u 0 1 = 2 → d.u 0x20 1 = 0 → d.u 0x21 1 ≠ 1 → ∃ t, exec (.completionTimeout (.desc f n i)) s = .next t ∧
          DescriptorEnded s g k d 5 d.moved ((d.u 8 8 + d.moved) % 2 ^ 64) t) ∧
        (d.u 0 1 = 4 → s.cfg.run ≠ none → exec (.completionTimeout (.desc f n i)) s = .next s) ∧
        (d.u 0 1 = 4 → s.cfg.run = none → ∃ t, exec (.completionTimeout (.desc f n i)) s = .next t ∧
          DescriptorEnded s g k d 5 d.moved (d.u 8 8) t)))) ∧
  (∀ (s : State) (f : World) (off : BitVec 24) (size : Nat), let g := f.idx
    let a := 2 ^ 24 * s.rf (rHstDbgbase g) fHstDbgbaseBase + off.toNat
    let sized : Prop := size ∈ [1, 2, 4, 8] ∧ off.toNat % size = 0
    let view : View := .win (worldOf g) true
    (∀ wr, s.hostOn = false → exec (.bar4Access f off size wr) s = .next s) ∧
    (s.hostOn = true → ¬ sized →
      (∀ v, exec (.bar4Access f off size (some v)) s = .next (s.hstDenied (worldOf g) a)) ∧
      exec (.bar4Access f off size none) s = .next { s.hstDenied (worldOf g) a with rdata := 0 }) ∧
    (s.hostOn = true → sized → ∀ q, s.target a = .mem q → s.spanReady a size = false →
      ∀ wr, exec (.bar4Access f off size wr) s = .next s) ∧
    (s.hostOn = true → sized → ∀ q, s.target a = .mem q → s.spanReady a size = true →
      (∀ v u t, s.check view .wr a = .ok u → s.store Paths.plain view a (leBytes size v.toNat) = .ok t →
        exec (.bar4Access f off size (some v)) s = .next t) ∧
      (∀ u, s.check view .rd a = .ok u → ∀ t bs, s.readMem Paths.plain view a size = (t, .ok bs) →
        exec (.bar4Access f off size none) s = .next { t with rdata := BitVec.ofNat 64 (ofLeBytes bs) })))

/-! ### The machine -/

/-- The order of commands: with a command at the front of the queue a step is that command on the state with the rest;
without one a microsecond passes: where neither the clock has stopped nor the supply is gone, the time base counts it
(R623, R667), the watchdog of each order that runs counts it (R223), each port time advances by 1000 ns (R537), the boot
ROM acts (R627, R629): in caller 0 it tries the strap's sources in order, opens window 15 for the host's image, and with
a sound image behind the magic closes it and jumps; the host may access BAR2 (R570); and each caller that can issue
executes the word at its program counter (R393, R399), which is the instruction that it spells, an access of a control
register, or illegal. The model's own choices that its clauses rest on: log entry 26, an idle step is a microsecond; log
entry 158, the boot ROM acts in it; log entry 177, accesses to BAR2; log entry 179, one word for each caller; log entry
107, which control access a word of major code 0x3D spells. -/
def Obligations.StepRunsTheFrontCommand : Prop :=
  (∀ (s : State) (i : Instr) (rest : List Instr), step { s with pending := i :: rest } = exec i { s with pending := rest }) ∧
  (∀ s : State, s.pending = [] → (s.cus.clock = false ∨ s.cus.aon = false) → step s = .next s) ∧
  (∀ s : State, s.pending = [] → s.cus.clock = true → s.cus.aon = true → 
    ∃ t : State, step s = .next t.bootStep.hostBar2.callersStep ∧ t.pending = [] ∧
    t.time = s.time + 1 ∧ t.mem = s.mem ∧ t.cals = s.cals ∧ t.relays = s.relays ∧ t.boot = s.boot ∧
    (∀ p, p < 4 → s.portOn p = false → t.reg (rLnkPtptime p) = s.reg (rLnkPtptime p))) ∧
  (∀ (s : State) (c : BitVec 3), let w := s.wordAt c.toNat
    ((s.issues c.toNat = false ∨ s.romWord (s.cal c.toNat).pc = true) → s.callerStep c = s) ∧
    (s.issues c.toNat = true → s.romWord (s.cal c.toNat).pc = false → s.fetch c.toNat (s.cal c.toNat).pc = .word →
      (∀ i, Spelt.ofWord c w = .instr i → exec i s = .next (s.callerStep c)) ∧
      (∀ d s1 num, Spelt.ofWord c w = .control d s1 num →
        exec (.crw c d s1 num) { s with free := s.free + 1 } = .next (s.callerStep c) ∨
        exec (.crr c d s1 num) { s with free := s.free + 1 } = .next (s.callerStep c)) ∧
      (Spelt.ofWord c w = .illegal → s.callerStep c = s.instr c.toNat w.toNat true [] [] id))) ∧
  (∀ s : State,
    (s.inRom = false → s.bootStep = s) ∧
    (s.inRom = true →
      (s.boot = .ended → s.bootStep = s) ∧
      (∀ rest t, s.boot = .next (3 :: rest) → s.bootWrites [(rMtxWbase 0 15, 0x4004_0000), (rMtxWlim 0 15, 0x4044_0000),
        (rMtxWattr 0 15, 7)] = some t → s.bootStep = t.setBoot .host) ∧
      (∀ src rest t, s.boot = .next (src :: rest) → src < 3 → 0 < src →
        s.bootWrites [(rCusBootload, if src = 1 then 2 else 3)] = some t → s.bootStep = t.setBoot (.loading src rest)) ∧
      (∀ src rest, s.boot = .loading src rest →
        (s.rb rCusBootload fCusBootloadBusy = true → s.bootStep = s) ∧
        (s.rb rCusBootload fCusBootloadBusy = false → s.rb rCusBootload fCusBootloadOk = false →
          s.bootStep = s.setBoot (.next rest)) ∧
        (∀ t, s.rb rCusBootload fCusBootloadBusy = false → s.rb rCusBootload fCusBootloadOk = true →
          s.bootWrites [(rCusBootstat, BitVec.ofNat 64 (4 * src + 16))] = some t →
          s.bootStep = (t.setCal 0 { t.cal 0 with pc := 0x4004_1000 }).setBoot .ended)) ∧
      (∀ t, s.boot = .next [] → s.bootWrites [(rCusBootstat, 32)] = some t →
        s.bootStep = (t.setCal 0 { t.cal 0 with asleep := true }).setBoot .ended) ∧
      (∀ u m, s.boot = .host → s.ready 28 = true → s.readMem Paths.data .free 0x4004_0000 20 = (u, .ok m) →
        let len := leField m 0 8
        (leField m 16 4 ≠ 0x544F_4F42 → s.bootStep = u) ∧
        (leField m 16 4 = 0x544F_4F42 → (len = 0 ∨ 0x40_0000 < len) →
          s.bootStep = u.storeBytes .free 0x4004_0010 (leBytes 4 0)) ∧
        (∀ v bs, leField m 16 4 = 0x544F_4F42 → 0 < len → len ≤ 0x40_0000 →
          u.readMem Paths.data .free 0x4004_1000 len = (v, .ok bs) →
          (crc64Ecma.of bs ≠ leField m 8 8 → s.bootStep = v.storeBytes .free 0x4004_0010 (leBytes 4 0)) ∧
          (∀ t, crc64Ecma.of bs = leField m 8 8 → v.bootWrites [(rMtxWattr 0 15, 0), (rCusBootstat, 28)] = some t →
            s.bootStep = (t.setCal 0 { t.cal 0 with pc := 0x4004_1000 }).setBoot .ended)))))

/-- Every command answers a next state (none faults or is refused), and leaves alone what belongs to the step: the
commands that wait, the beats and the time base, which only the loss and return of the supply start anew (R7, R623); it
takes the free values in order, and keeps registers and memories in their one canonical form. The model's own choices
that its clauses rest on: log entry 2, free values; log entry 3, what an unlisted byte reads as; log entry 4, what an
unlisted register reads as. -/
def Obligations.EveryCommandCompletesAndKeeps : Prop :=
  ∀ (i : Instr) (s : State), ∃ t, exec i s = .next t ∧ t.pending = s.pending ∧ t.beats = s.beats ∧
    (t.time = s.time ∨ t.time = 0) ∧ s.free ≤ t.free ∧ (s.canonical → t.canonical)

/-- The canonical form is an invariant of every step: from every state in canonical form, not only those of a run from
reset, a step answers a state in canonical form, and what waits behind the front command still waits, in order. The
model's own choices that its clauses rest on: log entry 3, what an unlisted byte reads as; log entry 4, what an unlisted
register reads as. -/
def Obligations.EveryStepKeepsTheCanonicalForm : Prop :=
  ∀ s : State, s.canonical → ∃ t, step s = .next t ∧ t.canonical ∧ t.pending = s.pending.tail

/-- The state at reset is in canonical form. The model's own choices that its clauses rest on: log entry 3, what an
unlisted byte reads as; log entry 4, what an unlisted register reads as. -/
def Obligations.ResetIsInCanonicalForm : Prop := State.reset.canonical

/-- What reset leaves (R14, R492, R559, R564, R591, R650): no command waits, memory lists nothing, and registers read
the values that their tables give, of which these are some; RESET_N has risen, and the mode is Call. The model's own
choices that its clauses rest on: log entry 3, memory that nothing has written; log entry 132, the mode is Call, after
the rise of RESET_N. -/
def Obligations.ResetLeavesTheTablesValues : Prop :=
  State.reset.pending = [] ∧ State.reset.mem = [] ∧ State.reset.mode = 2 ∧
  (∀ p, p < 4 → State.reset.rf (rLnkPctl p) fLnkPctlEn = 0 ∧ State.reset.rf (rLnkPctl p) fLnkPctlSpeed = 2 ∧
    State.reset.rf (rLnkPctl p) fLnkPctlAn = 1 ∧ State.reset.rf (rLnkPctl p) fLnkPctlFec = 2 ∧
    State.reset.rf (rLnkPstat p) fLnkPstatLinkup = 0) ∧
  (∀ n, n < 256 → State.reset.rf (rLnkRxsstat n) fLnkRxsstatFirst = 1) ∧
  (∀ u, u < 6 → State.reset.rf (rSeaCtl u) fSeaCtlPoly = 2 ∧ State.reset.reg (rSeaInit u) = 0xFFFFFFFF ∧
    State.reset.rf (rSeaStat u) fSeaStatOpen = 0) ∧
  State.reset.rf rHstPctl fHstPctlMaxgen = 6 ∧ State.reset.rf rHstPctl fHstPctlCto = 50 ∧
  (∀ f n, f < 2 → n < 64 → State.reset.rb (rHstSqctl f n) fHstSqctlEn = false ∧ State.reset.rb (rHstCqctl f n) fHstCqctlEn = false)

/-- No bit of an order is dropped (R46 to R82): the encoding of the order that the decoder reads from a byte string is
that string, up to the length of the order. -/
def Obligations.DecodedOrdersKeepEveryByte : Prop :=
  ∀ (bs : List Nat) (o : OrderD), (∀ b ∈ bs, b < 256) → decodeOrder (bytesOf bs) = .ok o →
    o.size ≤ bs.length ∧ encodeOrder o = bs.take o.size
end

