-- ==== Sys2Proof/Laws/Arith.lean ====
section
/-!
SUPPORT. The integer helpers of the callers against the bit-vector operations that they stand for (R399).
-/
namespace Sys2Proof.Machine

theorem toSigned_toNat (a : Word) : toSigned 64 a.toNat = a.toInt := by
  unfold toSigned; simp only [BitVec.toInt_eq_toNat_cond]; have := a.isLt
  rw [Nat.mod_eq_of_lt a.isLt]; split <;> split <;> omega

theorem wrapInt_ofInt (x : Int) : BitVec.ofNat 64 (wrapInt 64 x) = BitVec.ofInt 64 x := by
  unfold wrapInt; apply BitVec.eq_of_toNat_eq; simp [BitVec.toNat_ofInt]
  omega

theorem shiftL_eq (a : Word) (n : Nat) (h : n < 64) : shiftL a n = a <<< n := by
  apply BitVec.eq_of_toNat_eq; simp [shiftL, shlNat, Nat.mod_eq_of_lt h, Nat.shiftLeft_eq]

theorem shiftR_eq (a : Word) (n : Nat) (h : n < 64) : shiftR a n = a >>> n := by
  apply BitVec.eq_of_toNat_eq
  have := a.isLt
  simp only [shiftR, shrNat, Nat.mod_eq_of_lt h, BitVec.toNat_ofNat, BitVec.toNat_ushiftRight,
    Nat.shiftRight_eq_div_pow, Nat.mod_eq_of_lt a.isLt]
  exact Nat.mod_eq_of_lt (Nat.lt_of_le_of_lt (Nat.div_le_self _ _) this)

theorem shiftA_eq (a : Word) (n : Nat) (h : n < 64) : shiftA a n = a.sshiftRight n := by
  unfold shiftA sarNat
  rw [wrapInt_ofInt, toSigned_toNat, Nat.mod_eq_of_lt h]
  apply BitVec.eq_of_toInt_eq
  rw [BitVec.toInt_sshiftRight, Int.shiftRight_eq_div_pow, BitVec.toInt_ofInt]
  have h1 := BitVec.toInt_lt (x := a); have h2 := BitVec.le_toInt (x := a)
  have hp : (0:Int) < ((2 ^ n : Nat) : Int) := by positivity
  simp only [Nat.cast_pow, Nat.cast_ofNat] at *
  apply Int.bmod_eq_of_le_mul_two
  · have : -(2^63:Int) ≤ a.toInt / 2 ^ n := by
      apply Int.le_ediv_of_mul_le hp
      have : (1:Int) ≤ 2 ^ n := by exact_mod_cast Nat.one_le_two_pow
      norm_num at h2 ⊢; nlinarith
    simp; omega
  · have : a.toInt / 2 ^ n < 2^63 := by
      apply Int.ediv_lt_of_lt_mul hp
      have : (1:Int) ≤ 2 ^ n := by exact_mod_cast Nat.one_le_two_pow
      norm_num at h1 ⊢; nlinarith
    simp; omega

theorem rotL_eq (a : Word) (n : Nat) (h : n < 64) : rotL a n = a.rotateLeft n := by
  unfold rotL rotlNat
  rw [BitVec.rotateLeft_def, Nat.mod_eq_of_lt h]
  have ha : a.toNat % 2 ^ 64 = a.toNat := Nat.mod_eq_of_lt a.isLt
  rw [ha]
  apply BitVec.eq_of_getLsbD_eq
  intro i hi
  simp only [BitVec.getLsbD_or, BitVec.getLsbD_shiftLeft, BitVec.getLsbD_ushiftRight, BitVec.getLsbD_ofNat, hi,
    decide_true, Bool.true_and, Nat.testBit_mod_two_pow]
  have hlt : a.toNat / 2 ^ (64 - n) < 2 ^ n := by
    apply Nat.div_lt_of_lt_mul
    rw [← Nat.pow_add, show 64 - n + n = 64 by omega]; exact a.isLt
  rw [Nat.mul_comm, Nat.testBit_two_pow_mul_add _ hlt]
  simp only [Nat.testBit_div_two_pow, BitVec.getLsbD]
  by_cases h1 : i < n
  · simp [h1, Nat.add_comm]
  · simp [h1]
    intro h2
    rw [Nat.testBit_lt_two_pow (Nat.lt_of_lt_of_le a.isLt (Nat.pow_le_pow_right (by decide) (by omega)))] at h2
    exact absurd h2 (by decide)

theorem popNat_eq (w n : Nat) : popNat w n = (List.range w).countP fun i => n.testBit i := by
  induction w generalizing n with
  | zero => rfl
  | succ w ih =>
    rw [popNat, ih, List.range_succ_eq_map, List.countP_cons, List.countP_map]
    have : ((fun i => n.testBit i) ∘ Nat.succ) = fun i => (n / 2).testBit i := by
      funext i; simp [Nat.testBit_succ]
    rw [this]
    rcases Nat.mod_two_eq_zero_or_one n with h | h <;> simp [Nat.testBit_zero, h, Nat.add_comm]

theorem clzNat_eq (a : Word) : BitVec.ofNat 64 (clzNat 64 a.toNat) =
    BitVec.ofNat 64 (64 - (if a = 0 then 0 else a.toNat.log2 + 1)) := by
  unfold clzNat
  rw [Nat.mod_eq_of_lt a.isLt]
  by_cases h : a = 0
  · subst h; rfl
  · have : ¬ a.toNat = 0 := fun e => h (BitVec.eq_of_toNat_eq (by simpa using e))
    rw [if_neg this, if_neg h]
    congr 1; omega

theorem truth_slt (a b : Word) : truth (a.slt b) = if a.toInt < b.toInt then 1 else 0 := by
  simp [truth, BitVec.slt]

theorem truth_ult (a b : Word) : truth (a.ult b) = if a.toNat < b.toNat then 1 else 0 := by
  simp [truth, BitVec.ult]

theorem min_eq (a b : Word) : (if a.slt b then a else b) = BitVec.ofInt 64 (min a.toInt b.toInt) := by
  simp only [BitVec.slt, decide_eq_true_eq]; split
  · rw [min_eq_left (by omega), BitVec.ofInt_toInt]
  · rw [min_eq_right (by omega), BitVec.ofInt_toInt]

theorem max_eq (a b : Word) : (if a.slt b then b else a) = BitVec.ofInt 64 (max a.toInt b.toInt) := by
  simp only [BitVec.slt, decide_eq_true_eq]; split
  · rw [max_eq_right (by omega), BitVec.ofInt_toInt]
  · rw [max_eq_left (by omega), BitVec.ofInt_toInt]

theorem minu_eq (a b : Word) : (if a.ult b then a else b) = BitVec.ofNat 64 (min a.toNat b.toNat) := by
  simp only [BitVec.ult, decide_eq_true_eq]; split
  · rw [min_eq_left (by omega)]; simp
  · rw [min_eq_right (by omega)]; simp

theorem maxu_eq (a b : Word) : (if a.ult b then b else a) = BitVec.ofNat 64 (max a.toNat b.toNat) := by
  simp only [BitVec.ult, decide_eq_true_eq]; split
  · rw [max_eq_right (by omega)]; simp
  · rw [max_eq_left (by omega)]; simp

theorem mulh_eq (a b : Word) : BitVec.ofNat 64 (wideMul int64 a.toNat b.toNat).2 =
    BitVec.ofInt 64 (a.toInt * b.toInt / 2 ^ 64) := by
  unfold wideMul
  have h1 : int64.toInt a.toNat = a.toInt := toSigned_toNat a
  have h2 : int64.toInt b.toNat = b.toInt := toSigned_toNat b
  simp only [h1, h2]
  generalize a.toInt * b.toInt = p
  have : int64.w = 64 := rfl
  rw [this]
  apply BitVec.eq_of_toNat_eq
  simp only [BitVec.toNat_ofNat, BitVec.toNat_ofInt, wrapInt]
  norm_num
  omega

theorem mulhu_eq (a b : Word) : BitVec.ofNat 64 (wideMul uint64 a.toNat b.toNat).2 =
    BitVec.ofNat 64 (a.toNat * b.toNat / 2 ^ 64) := by
  unfold wideMul
  have h1 : uint64.toInt a.toNat = (a.toNat : Int) := by
    show ((a.toNat % 2^64 : Nat) : Int) = _
    rw [Nat.mod_eq_of_lt a.isLt]
  have h2 : uint64.toInt b.toNat = (b.toNat : Int) := by
    show ((b.toNat % 2^64 : Nat) : Int) = _
    rw [Nat.mod_eq_of_lt b.isLt]
  simp only [h1, h2]
  have : uint64.w = 64 := rfl
  rw [this]
  congr 1
  have hl : a.toNat * b.toNat < 2 ^ 128 := by
    calc _ < 2 ^ 64 * 2 ^ 64 := Nat.mul_lt_mul'' a.isLt b.isLt
      _ = 2 ^ 128 := by norm_num
  unfold wrapInt
  norm_num at *
  norm_cast
  rw [Nat.mod_eq_of_lt hl]

end Sys2Proof.Machine
end

