-- ==== Sys2Proof/Laws/Tab.lean ====
section
/-!
SUPPORT. Tables keep their canonical form, and read back what was written.
-/
namespace Sys2Proof

variable {α : Type}

theorem Tab.above_of_le {j k : Nat} (h : j ≤ k) {t : Tab α} (ht : Tab.above k t = true) : Tab.above j t = true := by
  induction t with
  | nil => rfl
  | cons x t ih =>
    simp only [Tab.above, Bool.and_eq_true, Nat.blt_eq] at ht ⊢
    exact ⟨Nat.lt_of_le_of_lt h ht.1, ih ht.2⟩

theorem Tab.above_erase {j k : Nat} {t : Tab α} (ht : Tab.above j t = true) : Tab.above j (t.erase k) = true := by
  induction t with
  | nil => rfl
  | cons x t ih =>
    simp only [Tab.above, Bool.and_eq_true, Nat.blt_eq] at ht
    unfold Tab.erase
    split
    · exact ih ht.2
    · simp only [Tab.above, Bool.and_eq_true, Nat.blt_eq]; exact ⟨ht.1, ih ht.2⟩

theorem Tab.above_put {j k : Nat} {v : α} {t : Tab α} (hk : j < k) (ht : Tab.above j t = true) :
    Tab.above j (t.put k v) = true := by
  induction t with
  | nil => simpa [Tab.put, Tab.above] using hk
  | cons x t ih =>
    simp only [Tab.above, Bool.and_eq_true, Nat.blt_eq] at ht
    unfold Tab.put
    split
    · simp only [Tab.above, Bool.and_eq_true, Nat.blt_eq]; exact ⟨hk, ht.2⟩
    · split
      · simp only [Tab.above, Bool.and_eq_true, Nat.blt_eq]; exact ⟨hk, ht⟩
      · simp only [Tab.above, Bool.and_eq_true, Nat.blt_eq]; exact ⟨ht.1, ih ht.2⟩

theorem Tab.rising_erase {k : Nat} {t : Tab α} (ht : t.rising = true) : (t.erase k).rising = true := by
  induction t with
  | nil => rfl
  | cons x t ih =>
    simp only [Tab.rising, Bool.and_eq_true] at ht
    unfold Tab.erase
    split
    · exact ih ht.2
    · simp only [Tab.rising, Bool.and_eq_true]; exact ⟨Tab.above_erase ht.1, ih ht.2⟩

theorem Tab.rising_put {k : Nat} {v : α} {t : Tab α} (ht : t.rising = true) : (t.put k v).rising = true := by
  induction t with
  | nil => rfl
  | cons x t ih =>
    simp only [Tab.rising, Bool.and_eq_true] at ht
    unfold Tab.put
    split
    · rename_i h; subst h
      simp only [Tab.rising, Bool.and_eq_true]; exact ht
    · split
      · rename_i h1 h2
        simp only [Tab.rising, Tab.above, Bool.and_eq_true, Nat.blt_eq]
        exact ⟨⟨h2, Tab.above_of_le (Nat.le_of_lt h2) ht.1⟩, ht⟩
      · rename_i h1 h2
        simp only [Tab.rising, Bool.and_eq_true]
        exact ⟨Tab.above_put (by omega) ht.1, ih ht.2⟩

variable [DecidableEq α] {d : Nat → α}

theorem Tab.lean_erase {k : Nat} {t : Tab α} (ht : Tab.lean d t = true) : Tab.lean d (t.erase k) = true := by
  induction t with
  | nil => rfl
  | cons x t ih =>
    simp only [Tab.lean, Bool.and_eq_true] at ht
    unfold Tab.erase
    split
    · exact ih ht.2
    · simp only [Tab.lean, Bool.and_eq_true]; exact ⟨ht.1, ih ht.2⟩

theorem Tab.lean_put {k : Nat} {v : α} {t : Tab α} (hv : v ≠ d k) (ht : Tab.lean d t = true) :
    Tab.lean d (t.put k v) = true := by
  induction t with
  | nil => simp [Tab.put, Tab.lean, hv]
  | cons x t ih =>
    simp only [Tab.lean, Bool.and_eq_true] at ht
    unfold Tab.put
    split
    · simp only [Tab.lean, Bool.and_eq_true]; exact ⟨by simpa using hv, ht.2⟩
    · split
      · simp only [Tab.lean, Bool.and_eq_true]; exact ⟨by simpa using hv, ht⟩
      · simp only [Tab.lean, Bool.and_eq_true]; exact ⟨ht.1, ih ht.2⟩

/-- A write keeps the canonical form. -/
theorem Tab.wf_set {t : Tab α} {k : Nat} {v : α} (ht : Tab.wf d t = true) : Tab.wf d (t.set d k v) = true := by
  simp only [Tab.wf, Bool.and_eq_true] at ht ⊢
  unfold Tab.set
  split
  · exact ⟨Tab.rising_erase ht.1, Tab.lean_erase ht.2⟩
  · rename_i hv; exact ⟨Tab.rising_put ht.1, Tab.lean_put hv ht.2⟩

theorem Tab.wf_setMany {vs : List α} {t : Tab α} {k : Nat} (ht : Tab.wf d t = true) :
    Tab.wf d (Tab.setMany d t k vs) = true := by
  induction vs generalizing t k with
  | nil => exact ht
  | cons v vs ih => exact ih (Tab.wf_set ht)

omit [DecidableEq α] in
theorem Tab.above_filter {k : Nat} {t : Tab α} {p : Nat × α → Bool} (ht : Tab.above k t = true) :
    Tab.above k (t.filter p) = true := by
  induction t with
  | nil => rfl
  | cons x t ih =>
    simp only [Tab.above, Bool.and_eq_true] at ht
    rw [List.filter_cons]
    split
    · simp only [Tab.above, Bool.and_eq_true]; exact ⟨ht.1, ih ht.2⟩
    · exact ih ht.2

/-- Entries taken out keep the canonical form. -/
theorem Tab.wf_filter {t : Tab α} {p : Nat × α → Bool} (ht : Tab.wf d t = true) : Tab.wf d (t.filter p) = true := by
  simp only [Tab.wf, Bool.and_eq_true] at ht ⊢
  induction t with
  | nil => exact ⟨rfl, rfl⟩
  | cons x t ih =>
    simp only [Tab.rising, Tab.lean, Bool.and_eq_true] at ht
    have h := ih ⟨ht.1.2, ht.2.2⟩
    rw [List.filter_cons]
    split
    · simp only [Tab.rising, Tab.lean, Bool.and_eq_true]
      exact ⟨⟨Tab.above_filter ht.1.1, h.1⟩, ht.2.1, h.2⟩
    · exact h

omit [DecidableEq α] in
theorem Tab.get_erase {k j : Nat} {t : Tab α} : (t.erase k).get d j = if j = k then d k else t.get d j := by
  induction t with
  | nil => simp only [Tab.erase, Tab.get]; split <;> simp_all
  | cons x t ih =>
    obtain ⟨i, v⟩ := x
    simp only [Tab.erase, Tab.get]
    split
    · rename_i h; subst h
      rw [ih]
      split
      · rfl
      · rename_i h; rw [if_neg (fun e => h e.symm)]
    · simp only [Tab.get, ih]
      split
      · rename_i h; subst h; rw [if_neg (by assumption)]
      · rfl

omit [DecidableEq α] in
theorem Tab.get_put {k j : Nat} {v : α} {t : Tab α} : (t.put k v).get d j = if j = k then v else t.get d j := by
  induction t with
  | nil => simp only [Tab.put, Tab.get, eq_comm]
  | cons x t ih =>
    obtain ⟨i, w⟩ := x
    simp only [Tab.put]
    split
    · rename_i h; subst h
      simp only [Tab.get, eq_comm (a := j)]
      split <;> rfl
    · split
      · simp only [Tab.get, eq_comm (a := j)]
      · simp only [Tab.get, ih]
        split
        · rename_i h; subst h; rw [if_neg (by assumption)]
        · rfl

/-- A read after a write: the value written at its key, what stood there at every other key. -/
theorem Tab.get_set {t : Tab α} {k j : Nat} {v : α} : (t.set d k v).get d j = if j = k then v else t.get d j := by
  unfold Tab.set
  split
  · rename_i h; subst h; exact Tab.get_erase
  · exact Tab.get_put

@[simp] theorem Tab.get_set_same {t : Tab α} {k : Nat} {v : α} : (t.set d k v).get d k = v := by
  rw [Tab.get_set, if_pos rfl]

theorem Tab.get_set_other {t : Tab α} {k j : Nat} {v : α} (h : j ≠ k) : (t.set d k v).get d j = t.get d j := by
  rw [Tab.get_set, if_neg h]

theorem Tab.get_setMany {vs : List α} {t : Tab α} {k j : Nat} :
    (Tab.setMany d t k vs).get d j = if k ≤ j then (vs[j - k]?).getD (t.get d j) else t.get d j := by
  induction vs generalizing t k with
  | nil => simp [Tab.setMany]
  | cons v vs ih =>
    simp only [Tab.setMany, ih, Tab.get_set]
    by_cases h : k ≤ j
    · by_cases h2 : k = j
      · subst h2; simp
      · have h3 : k + 1 ≤ j := by omega
        have h4 : j - k = (j - (k + 1)) + 1 := by omega
        have h5 : ¬ j = k := fun e => h2 e.symm
        simp [h, h3, h4, h5]
    · have h3 : ¬ k + 1 ≤ j := by omega
      have h5 : ¬ j = k := by omega
      simp [h, h3, h5]

end Sys2Proof
end

