-- ==== Sys2Proof/Laws/Fields.lean ====
section
/-!
SUPPORT. Fields of words and registers read back what was written to them.
-/
namespace Sys2Proof

theorem Word.getLsbD_setFld (v : Word) (l n x i : Nat) :
    (v.setFld l n x).getLsbD i =
      if l ≤ i ∧ i < l + n ∧ i < 64 then x.testBit (i - l) else v.getLsbD i := by
  unfold Word.setFld
  simp only [BitVec.getLsbD_or, BitVec.getLsbD_and, BitVec.getLsbD_not, BitVec.getLsbD_shiftLeft, BitVec.getLsbD_ofNat,
    Nat.testBit_mod_two_pow, Nat.testBit_two_pow_sub_one]
  by_cases h64 : i < 64
  · by_cases hl : l ≤ i
    · by_cases hn : i < l + n
      · have h1 : i - l < n := by omega
        have h2 : i - l < 64 := by omega
        have h3 : ¬ i < l := by omega
        simp [h64, hl, hn, h1, h2, h3]
      · have h1 : ¬ i - l < n := by omega
        simp [h64, hl, hn, h1]
    · have h1 : i < l := by omega
      simp [h64, hl, h1]
  · simp [h64, BitVec.getLsbD_of_ge v i (by omega)]

theorem Word.testBit_fld (v : Word) (l n i : Nat) : (v.fld l n).testBit i = (decide (i < n) && v.getLsbD (l + i)) := by
  unfold Word.fld
  simp [Nat.testBit_mod_two_pow, Nat.testBit_div_two_pow, BitVec.getLsbD, Nat.add_comm]

/-- A field reads back what was written to it. -/
theorem Word.fld_setFld_same (v : Word) {l n x : Nat} (h : l + n ≤ 64) : (v.setFld l n x).fld l n = x % 2 ^ n := by
  apply Nat.eq_of_testBit_eq
  intro i
  rw [Word.testBit_fld, Word.getLsbD_setFld, Nat.testBit_mod_two_pow]
  by_cases hi : i < n
  · have h1 : l ≤ l + i ∧ l + i < l + n ∧ l + i < 64 := by omega
    simp [hi, h1]
  · simp [hi]

/-- A field that another field does not meet stays. -/
theorem Word.fld_setFld_other (v : Word) {l n x a b : Nat} (h : a + b ≤ l ∨ l + n ≤ a) :
    (v.setFld l n x).fld a b = v.fld a b := by
  apply Nat.eq_of_testBit_eq
  intro i
  rw [Word.testBit_fld, Word.testBit_fld, Word.getLsbD_setFld]
  by_cases hi : i < b
  · have h1 : ¬ (l ≤ a + i ∧ a + i < l + n ∧ a + i < 64) := by omega
    simp [hi, h1]
  · simp [hi]

namespace Machine

@[simp] theorem State.reg_setReg (s : State) (a b : Nat) (v : Word) :
    (s.setReg a v).reg b = if b = a then v else s.reg b := Tab.get_set

theorem State.reg_setRf (s : State) (a b : Nat) (f : FP) (x : Nat) :
    (s.setRf a f x).reg b = if b = a then (s.reg a).setFld f.lsb f.w x else s.reg b := State.reg_setReg ..

theorem State.reg_setRf_other (s : State) {a b : Nat} (f : FP) (x : Nat) (h : b ≠ a) : (s.setRf a f x).reg b = s.reg b := by
  rw [State.reg_setRf, if_neg h]

theorem State.rf_setRf_same (s : State) (a : Nat) {f : FP} (x : Nat) (h : f.lsb + f.w ≤ 64) :
    (s.setRf a f x).rf a f = x % 2 ^ f.w := by
  unfold State.rf
  rw [State.reg_setRf, if_pos rfl, Word.fld_setFld_same _ h]

theorem State.rf_setRf_other (s : State) {a b : Nat} {f g : FP} (x : Nat)
    (h : b ≠ a ∨ g.lsb + g.w ≤ f.lsb ∨ f.lsb + f.w ≤ g.lsb) : (s.setRf a f x).rf b g = s.rf b g := by
  unfold State.rf
  rw [State.reg_setRf]
  by_cases e : b = a
  · subst e; rw [if_pos rfl, Word.fld_setFld_other _ (by omega)]
  · rw [if_neg e]

end Machine
end Sys2Proof
end

