-- ==== Sys2Proof/Laws/Callers.lean ====
section
/-!
SUPPORT. What the operations shared by the instructions of a caller do: registers read back, an instruction that acts is its
own effect, and retirement.
-/
namespace Sys2Proof.Machine

@[simp] theorem State.cal_setCal_same (s : State) (c : Nat) (x : CalSt) : (s.setCal c x).cal c = x := Tab.get_set_same

theorem State.cal_setCal_other (s : State) {c k : Nat} (x : CalSt) (h : k ≠ c) : (s.setCal c x).cal k = s.cal k :=
  Tab.get_set_other h

@[simp] theorem State.reg_setCal (s : State) (c a : Nat) (x : CalSt) : (s.setCal c x).reg a = s.reg a := rfl
@[simp] theorem State.cal_setReg (s : State) (a c : Nat) (v : Word) : (s.setReg a v).cal c = s.cal c := rfl
@[simp] theorem State.cal_setRf (s : State) (a c : Nat) (f : FP) (x : Nat) : (s.setRf a f x).cal c = s.cal c := rfl
@[simp] theorem State.cal_addRf (s : State) (a c : Nat) (f : FP) (x : Nat) : (s.addRf a f x).cal c = s.cal c := rfl

@[simp] theorem CalRegs.at_put (r : CalRegs) (k j : Nat) (v : Word) : (r.put k v).at j = if j = k then v else r.at j :=
  Tab.get_set

theorem State.setGpr_zero (s : State) (c : Nat) (v : Word) : s.setGpr c 0 v = s := rfl

theorem State.setGpr_other (s : State) (c : Nat) {d : BitVec 5} (v : Word) (h : d ≠ 0) :
    s.setGpr c d v = s.onRegs c fun r => r.put (gprKey (s.cal c).r.wp d.toNat) v := by
  unfold State.setGpr State.destKeys
  rw [if_neg h]; rfl

/-- An instruction that acts is its own effect. -/
theorem State.instr_acts {s : State} {c word : Nat} {ill : Bool} {regs : List (BitVec 5)} {vregs : List Nat}
    {act : State → State} {syncs : Bool} (hi : ill = false) (h : Acts s c regs vregs) :
    s.instr c word ill regs vregs act syncs = act s := by
  obtain ⟨h1, h2, h3, h4⟩ := h
  unfold State.instr
  subst hi
  rw [if_neg (by rw [h1]; decide), h2]
  simp only [Bool.false_eq_true, if_false, h4]
  rw [if_neg]
  cases hs : (s.cal c).shadow with
  | none => simp
  | some h => have := h3 h hs; simp; omega

/-- Nothing is polled where no trap is pending. -/
theorem State.pollTrap_none {s : State} {c : Nat} (h : (s.cal c).trap = none) : s.pollTrap c = s := by
  unfold State.pollTrap
  simp only [h]

theorem ite_same {α β : Type} {p : Prop} [Decidable p] {f : α → β} {a b : α} {v : β} (h1 : f a = v) (h2 : f b = v) :
    f (if p then a else b) = v := by
  split <;> assumption

@[simp] theorem State.cal_moved (s : State) (c pc : Nat) (ret : Bool) :
    (s.moved c pc ret).cal c = (s.cal c).after (s.cal c).r pc ret :=
  ite_same (f := fun t => State.cal t c) (State.cal_setCal_same ..) (State.cal_setCal_same ..)

/-- An instruction that moves on: what it leaves alone. -/
theorem State.moved_elsewhere (s : State) (c pc : Nat) (ret : Bool) : Elsewhere s (s.moved c pc ret) c where
  others _ hk := ite_same (f := fun t => State.cal t _) (State.cal_setCal_other _ _ hk) (State.cal_setCal_other _ _ hk)
  memory := ⟨ite_same (f := State.mem) rfl rfl, ite_same (f := State.eccBad) rfl rfl, ite_same (f := State.hostMem) rfl rfl⟩
  queues := ite_same (f := State.queues) rfl rfl
  regs a ha := ite_same (f := fun t => State.reg t a) (State.reg_setRf_other _ _ _ ha) rfl

theorem State.moved_counted (s : State) (c pc : Nat) (ret : Bool) :
    (s.moved c pc ret).rf (rCalRetired c) fCalRetiredCount =
      if ret = true ∧ (s.cal c).shadow = none then (s.rf (rCalRetired c) fCalRetiredCount + 1) % 2 ^ 48
      else s.rf (rCalRetired c) fCalRetiredCount := by
  unfold State.moved
  by_cases h : ret = true ∧ (s.cal c).shadow = none
  · rw [if_pos h, if_pos (by rw [h.1, h.2]; rfl)]
    exact State.rf_setRf_same _ _ _ (by decide)
  · rw [if_neg h, if_neg (by simpa using h)]
    rfl

/-- An instruction that changes registers of its caller and retires. -/
theorem State.onRegs_moved (s : State) (c pc : Nat) (f : CalRegs → CalRegs) (ret : Bool) :
    Retires s ((s.onRegs c f).moved c pc ret) c ((s.cal c).after (f (s.cal c).r) pc ret) ret := by
  have h := State.moved_elsewhere (s.onRegs c f) c pc ret
  refine ⟨⟨fun k hk => ?_, h.memory, h.queues, h.regs⟩, ?_, ?_⟩
  · rw [h.others k hk]; exact State.cal_setCal_other _ _ hk
  · rw [State.cal_moved]; unfold State.onRegs; rw [State.cal_setCal_same]; rfl
  · rw [State.moved_counted]; unfold State.onRegs; rw [State.cal_setCal_same]; rfl

theorem State.moved_retires (s : State) (c pc : Nat) (ret : Bool) :
    Retires s (s.moved c pc ret) c ((s.cal c).after (s.cal c).r pc ret) ret :=
  ⟨State.moved_elsewhere s c pc ret, State.cal_moved .., State.moved_counted ..⟩

/-- A general register is written: what reads back, and what stays. -/
theorem State.setGpr_puts (s : State) (c : Nat) (d : BitVec 5) (v : Word) :
    ∃ f : CalRegs → CalRegs, s.setGpr c d v = (if d = 0 then s else s.onRegs c f) ∧
      (d = 0 → f = id) ∧
      Puts (s.cal c).r (f (s.cal c).r) ((s.destKeys c d).map fun k => (k, v)) ∧
      (f (s.cal c).r).fcsr = (s.cal c).r.fcsr ∧ (f (s.cal c).r).vregs = (s.cal c).r.vregs := by
  by_cases h : d = 0
  · subst h
    refine ⟨id, by rw [if_pos rfl]; exact State.setGpr_zero .., fun _ => rfl, ⟨?_, ?_, ⟨rfl, rfl⟩, rfl, rfl⟩, rfl, rfl⟩
    · intro k v hk; simp [State.destKeys] at hk
    · intro k _; rfl
  · refine ⟨fun r => r.put (gprKey (s.cal c).r.wp d.toNat) v, by rw [State.setGpr_other _ _ _ h, if_neg h], fun e => absurd e h,
      ⟨?_, ?_, ⟨rfl, rfl⟩, rfl, rfl⟩, rfl, rfl⟩
    · intro k v hk
      have h' : ¬ d = 0#5 := h
      simp [State.destKeys, h'] at hk; simp [hk]
    · intro k hk
      have h' : ¬ d = 0#5 := h
      simp [State.destKeys, h'] at hk; simp [hk]

/-- A result is written to a general register, and the instruction retires. -/
theorem State.setGpr_next (s : State) (c : Nat) (d : BitVec 5) (v : Word) : GivesResult s ((s.setGpr c d v).next c) c d v := by
  unfold GivesResult
  obtain ⟨f, h1, h0, h2⟩ := State.setGpr_puts s c d v
  rw [h1]
  by_cases h : d = 0
  · rw [if_pos h]
    have hf : f (s.cal c).r = (s.cal c).r := by rw [h0 h]; rfl
    rw [hf] at h2
    exact ⟨_, _, rfl, State.moved_retires .., h2⟩
  · rw [if_neg h]
    refine ⟨(s.onRegs c f).moved c ((s.cal c).pc + 4) true, _, ?_, State.onRegs_moved .., h2⟩
    unfold State.next State.goto State.onRegs
    simp

theorem Elsewhere.trans {s t u : State} {c : Nat} (h : Elsewhere s t c) (g : Elsewhere t u c) : Elsewhere s u c :=
  ⟨fun k hk => (g.others k hk).trans (h.others k hk),
    ⟨g.memory.1.trans h.memory.1, g.memory.2.1.trans h.memory.2.1, g.memory.2.2.trans h.memory.2.2⟩,
    g.queues.trans h.queues, fun a ha => (g.regs a ha).trans (h.regs a ha)⟩

/-- An instruction that has changed its caller alone retires. -/
theorem State.moved_of {s t : State} {c : Nat} (e : Elsewhere s t c) (hr : t.rf (rCalRetired c) fCalRetiredCount = s.rf (rCalRetired c) fCalRetiredCount)
    (hs : (t.cal c).shadow = none ↔ (s.cal c).shadow = none) (pc : Nat) (ret : Bool) :
    Retires s (t.moved c pc ret) c ((t.cal c).after (t.cal c).r pc ret) ret := by
  have g := State.moved_retires t c pc ret
  refine ⟨e.trans g.toElsewhere, g.caller, ?_⟩
  rw [g.counted, hr]; simp only [hs]

/-- A caller is changed, and nothing else. -/
theorem State.setCal_elsewhere (s : State) (c : Nat) (x : CalSt) : Elsewhere s (s.setCal c x) c :=
  ⟨fun _ hk => State.cal_setCal_other _ _ hk, ⟨rfl, rfl, rfl⟩, rfl, fun _ _ => rfl⟩

/-- Flags raised change the caller alone. -/
theorem State.raiseFlags_spec (s : State) (c : Nat) (f : Flags) :
    Elsewhere s (s.raiseFlags c f) c ∧ (∀ a (g : FP), (s.raiseFlags c f).rf a g = s.rf a g) ∧
      (s.raiseFlags c f).cal c = (s.cal c).raised (s.cal c).r f := by
  unfold State.raiseFlags CalSt.raised
  dsimp only
  cases hs : (s.cal c).shadow with
  | some h =>
    dsimp only
    by_cases hf : f = 0
    · subst hf
      refine ⟨⟨fun _ _ => rfl, ⟨rfl, rfl, rfl⟩, rfl, fun _ _ => rfl⟩, fun _ _ => rfl, ?_⟩
      simp only [if_true, List.append_nil, ← hs]
    · rw [if_neg hf, if_neg hf]
      exact ⟨State.setCal_elsewhere .., fun _ _ => rfl, State.cal_setCal_same ..⟩
  | none =>
    refine ⟨State.setCal_elsewhere .., fun _ _ => rfl, (State.cal_setCal_same ..).trans ?_⟩
    dsimp only
    rw [← hs]

/-- Registers are written and flags raised: the caller alone changes. -/
theorem State.onRegs_raiseFlags (s : State) (c : Nat) (put : CalRegs → CalRegs) (f : Flags) :
    let t := (s.onRegs c put).raiseFlags c f
    Elsewhere s t c ∧ (∀ a (g : FP), t.rf a g = s.rf a g) ∧ t.cal c = (s.cal c).raised (put (s.cal c).r) f := by
  obtain ⟨h1, h2, h3⟩ := State.raiseFlags_spec (s.onRegs c put) c f
  refine ⟨(State.setCal_elsewhere ..).trans h1, h2, ?_⟩
  rw [h3]; unfold State.onRegs; rw [State.cal_setCal_same]; rfl

theorem CalSt.raised_shadow (x : CalSt) (r : CalRegs) (f : Flags) : (x.raised r f).shadow = none ↔ x.shadow = none := by
  unfold CalSt.raised
  cases x.shadow <;> simp

@[simp] theorem CalSt.raised_pc (x : CalSt) (r : CalRegs) (f : Flags) : (x.raised r f).pc = x.pc := by
  unfold CalSt.raised
  split <;> rfl

/-- A short operation has the effect of one. -/
theorem State.shortOp_effect (i : Instr) (s : State) (c : Nat) (d v f) (h : exec i s = .next (s.shortOp c f fun x => x.putAll d v)) :
    ShortEffect i s c d v f := by
  constructor
  · intro e
    obtain ⟨g1, g2, g3⟩ := State.onRegs_raiseFlags s c (fun x => x.putAll d v) f
    have g := State.moved_of g1 (g2 _ _) (by rw [g3]; exact CalSt.raised_shadow ..)
    rw [g3] at g
    refine ⟨_, ?_, g _ true⟩
    rw [h]; unfold State.shortOp State.enabled
    rw [if_neg (by simpa using e)]
    unfold State.next State.goto
    rw [g3]
  · intro e
    rw [h]; unfold State.shortOp State.enabled
    rw [if_pos e]

/-- A long operation has the effect of one. -/
theorem State.longOp_effect (i : Instr) (s : State) (c : Nat) (d v f unit) (h : exec i s = .next (s.longOp c d v f unit)) :
    LongEffect i s c d v f unit := by
  have free : ¬ (unit ≠ 0 ∧ ∃ l ∈ (s.cal c).longs, l.unit = unit) →
      ¬ (unit ≠ 0 ∧ ((s.cal c).longs.any fun l => l.unit == unit) = true) := by
    rintro hb ⟨h1, h2⟩
    rw [List.any_eq_true] at h2
    obtain ⟨l, hl, h2⟩ := h2
    exact hb ⟨h1, l, hl, beq_iff_eq.mp h2⟩
  refine ⟨?_, ?_, ?_⟩
  · rintro ⟨h1, l, hl, h2⟩
    rw [h]; unfold State.longOp
    rw [if_pos ⟨h1, List.any_eq_true.mpr ⟨l, hl, beq_iff_eq.mpr h2⟩⟩]
  · intro hb pa t ht
    unfold State.longOp at h
    rw [if_neg (free hb)] at h
    simp only [pa, ht, Bool.false_eq_true, if_false] at h
    have g := State.moved_of (State.setCal_elsewhere s c { s.cal c with
      longs := (s.cal c).longs ++
        [⟨t, (s.cal c).pc, (s.cal c).lvl, d, v, f, (s.cal c).shadow.isSome, (s.cal c).shadow.isSome, unit⟩]
      nextTag := (t + 1) % 32 }) rfl (by rw [State.cal_setCal_same]) ((s.cal c).pc + 4) false
    rw [State.cal_setCal_same] at g
    exact ⟨_, h, g⟩
  · intro hb pa
    apply State.shortOp_effect
    rw [h]; unfold State.longOp
    rw [if_neg (free hb)]
    simp only [pa, if_true]

/-- An illegal instruction raises ILLEGAL. -/
theorem State.instr_ill {s : State} {c word : Nat} {regs : List (BitVec 5)} {vregs : List Nat}
    {act : State → State} {syncs : Bool} {ill : Bool} (hi : ill = true) (h1 : s.issues c = true) (h2 : s.fetch c (s.cal c).pc = .word) :
    s.instr c word ill regs vregs act syncs = s.except c excIllegal 0 word (s.cal c).pc := by
  unfold State.instr
  subst hi
  rw [if_neg (by rw [h1]; decide), h2]
  simp only [if_true]

/-- With more registers named, more clashes. -/
theorem CalSt.clash_mono {x : CalSt} {k m v : List Nat} (sub : ∀ i, m.contains i = true → k.contains i = true)
    (h : x.clash m v = true) : x.clash k v = true := by
  unfold CalSt.clash at h ⊢
  simp only [Bool.or_eq_true, List.any_eq_true, Bool.and_eq_true] at h ⊢
  rcases h with (⟨l, hl, h⟩ | ⟨l, hl, h1, h2⟩) | ⟨o, ho, h⟩
  · refine .inl (.inl ⟨l, hl, ?_⟩)
    rcases h with ⟨y, hy, h⟩ | h
    · exact .inl ⟨y, hy, sub _ h⟩
    · exact .inr h
  · exact .inl (.inr ⟨l, hl, h1, sub _ h2⟩)
  · exact .inr ⟨o, ho, sub _ h⟩

/-- The order in which the registers are named does not matter. -/
theorem Acts.perm {s : State} {c : Nat} {l m : List (BitVec 5)} {v} (h : Acts s c l v) (e : ∀ r, r ∈ m → r ∈ l) : Acts s c m v := by
  obtain ⟨h1, h2, h3, h4⟩ := h
  refine ⟨h1, h2, h3, ?_⟩
  rw [← Bool.not_eq_true] at h4 ⊢
  intro hc; apply h4
  have sub : ∀ k, (m.flatMap fun r => s.destKeys c r).contains k = true → (l.flatMap fun r => s.destKeys c r).contains k = true := by
    intro k hk
    simp only [List.contains_iff_mem, List.mem_flatMap] at hk ⊢
    obtain ⟨a, ha, hk⟩ := hk
    exact ⟨a, e a ha, hk⟩
  exact CalSt.clash_mono sub hc

end Sys2Proof.Machine
end

