-- ==== Sys2Proof/Laws/Entry.lean ====
section
/-!
SUPPORT. What entry into a handler and writes of the control registers of a caller leave: single bits of a masked word, the
caller after entry, and the save sets.
-/
namespace Sys2Proof.Machine

/-- Inside a shadow no trap is polled. -/
theorem State.pollTrap_shadow {s : State} {c : Nat} (h : (s.cal c).shadow.isSome = true) : s.pollTrap c = s := by
  unfold State.pollTrap
  dsimp only
  cases (s.cal c).trap with
  | none => rfl
  | some p => dsimp only; rw [if_pos]; simp [h]

/-- SYNC.C and RETX act whatever an open shadow holds. -/
theorem State.sync_acts {s : State} {c word : Nat} {act : State → State} (h1 : s.issues c = true) (h2 : s.fetch c (s.cal c).pc = .word) :
    s.instr c word false [] [] act true = act s := by
  unfold State.instr
  rw [if_neg (by rw [h1]; decide), h2]
  have : (s.cal c).clash [] [] = false := by
    unfold CalSt.clash
    simp
  simp [this]

theorem State.pollOrders_none (s : State) (c : Nat) (h : (s.cal c).orders = []) : s.pollOrders c = s := by
  unfold State.pollOrders
  dsimp only
  rw [h]; simp

theorem getLsbD_maskOf (l w b : Nat) (h : b < 64) : (maskOf l w).getLsbD b = decide (l ≤ b ∧ b < l + w) := by
  unfold maskOf
  rw [Word.getLsbD_setFld]
  by_cases h1 : l ≤ b ∧ b < l + w
  · rw [if_pos ⟨h1.1, h1.2, h⟩, Nat.testBit_two_pow_sub_one]; simp [h1]; omega
  · rw [if_neg (by tauto)]; simp [h1]

theorem curtain_mask (b : Bool) (n : Nat) (hn : n < 64) : (if b = true then maskOf 4 1 else (0 : Word)).getLsbD n = (b && decide (n = 4)) := by
  cases b
  · simp
  · simp only [if_true]; rw [getLsbD_maskOf _ _ _ hn]
    by_cases h : n = 4
    · simp [h]
    · simp [h]; omega

/-- STATUS after entry into the set `t` (R445). -/
def entryStatus (s : State) (c : Nat) (t : SaveSet) : Word :=
  let v := (s.statusWord c).setFld 0 2 (match t with | .m => 3 | _ => 1)
  let v := (v.setBit 2 false).setBit (heldBit t) true
  let v := match t with | .m => v.setBit 3 false | _ => v
  (v &&& maskOf 0 7) ||| (if s.cus.curtain then maskOf 4 1 else 0)

theorem entryStatus_bits (s : State) (c : Nat) (t : SaveSet) : (entryStatus s c t).toNat % 4 = (match t with | .m => 3 | _ => 1) ∧
    (entryStatus s c t).getLsbD 2 = false ∧ (t = .m → (entryStatus s c t).getLsbD 3 = false) ∧ (entryStatus s c t).getLsbD (heldBit t) = true := by
  have B : ∀ n, n < 64 → (entryStatus s c t).getLsbD n = ((match t with 
      | .m => ((((s.statusWord c).setFld 0 2 3).setBit 2 false).setBit 5 true).setBit 3 false
      | _ => (((s.statusWord c).setFld 0 2 1).setBit 2 false).setBit 4 true).getLsbD n && decide (n < 7) || (s.cus.curtain && decide (n = 4))) := by
    intro n hn
    unfold entryStatus
    simp only [BitVec.getLsbD_or, BitVec.getLsbD_and, curtain_mask _ _ hn, getLsbD_maskOf _ _ _ hn]
    cases t <;> simp [heldBit]
  refine ⟨?_, ?_, ?_, ?_⟩
  · have key : ∀ w : Word, w.toNat % 4 = w.fld 0 2 := by intro w; unfold Word.fld; simp
    rw [key]
    apply Nat.eq_of_testBit_eq
    intro i
    rw [Word.testBit_fld]
    by_cases hi : i < 2
    · rw [B _ (by omega)]
      cases t <;> simp only [Word.setBit, Word.getLsbD_setFld] <;> interval_cases i <;> simp
    · have : ∀ n, n < 4 → n.testBit i = false := by
        intro n hn
        exact Nat.testBit_lt_two_pow (Nat.lt_of_lt_of_le hn (by calc 4 = 2 ^ 2 := rfl
                                                                    _ ≤ 2 ^ i := Nat.pow_le_pow_right (by decide) (by omega)))
      cases t <;> simp [hi, this]
  · rw [B _ (by decide)]
    cases t <;> simp only [Word.setBit, Word.getLsbD_setFld] <;> simp
  · rintro rfl
    rw [B _ (by decide)]
    simp only [Word.setBit, Word.getLsbD_setFld]; simp
  · rw [B _ (by cases t <;> decide)]
    cases t <;> simp only [Word.setBit, Word.getLsbD_setFld, heldBit] <;> simp

/-- the caller after entry -/
theorem State.enter_cal (s : State) (c : Nat) (t : SaveSet) (cause : Word) (faddr pc : Nat) (tag : Word) (h : Nat) :
   (s.enter c t cause faddr pc tag h).cal c = { ((s.cal c).setSave t ⟨BitVec.ofNat 64 pc, s.statusWord c, BitVec.ofNat 64 (s.cal c).r.wp, cause, BitVec.ofNat 64 (faddr % 2 ^ 48), tag⟩) with
     r := { (s.cal c).r with wp := ((s.cal c).r.wp + 1) % 16, resident := min 15 ((s.cal c).r.resident + 1) }, pc := h, asleep := false, lds := [], exc := none, want := 0, status := entryStatus s c t } := by
  unfold State.enter State.putStatus State.setStatus
  dsimp only
  rw [State.cal_addRf]
  rw [show ∀ (t : State) (p : Prop) [Decidable p], ((if p then t else t.calReport c).cal c) = t.cal c from fun t p _ => ite_same (f := fun q => State.cal q c) rfl rfl]
  rw [State.cal_setCal_same, State.cal_setCal_same]
  cases t <;> rfl

theorem State.enter_other (s : State) (c : Nat) (t : SaveSet) (cause : Word) (faddr pc : Nat) (tag : Word) (h : Nat) (k : Nat) (hk : k ≠ c) :
   (s.enter c t cause faddr pc tag h).cal k = s.cal k := by
  unfold State.enter State.putStatus State.setStatus
  dsimp only
  rw [State.cal_addRf]
  rw [show ∀ (t : State) (p : Prop) [Decidable p], ((if p then t else t.calReport c).cal k) = t.cal k from fun t p _ => ite_same (f := fun q => State.cal q k) rfl rfl]
  rw [State.cal_setCal_other _ _ hk, State.cal_setCal_other _ _ hk]

theorem CalSt.save_setSave (x : CalSt) (t z : SaveSet) (y : SaveSt) : (x.setSave t y).save z = if z = t then y else x.save z := by
  cases t <;> cases z <;> rfl

theorem State.pollTrap_orders (s : State) (c : Nat) : ((s.pollTrap c).cal c).orders = (s.cal c).orders := by
  unfold State.pollTrap
  dsimp only
  cases (s.cal c).trap with
  | none => rfl
  | some p =>
    dsimp only
    refine ite_same (f := fun q => (State.cal q c).orders) rfl ?_
    cases ((s.cal c).tab (s.trapSet c p.lvl)).handler (p.cause.toNat % 64) with
    | none => rfl
    | some h =>
      dsimp only
      refine ite_same (f := fun q => (State.cal q c).orders) (ite_same (f := fun q => (State.cal q c).orders) rfl ?_) ?_
      · rw [State.cal_setCal_same]
      · have h1 := State.enter_cal (s.setCal c { s.cal c with trap := none }) c (s.trapSet c p.lvl) p.cause p.faddr.toNat (s.cal c).boundary p.tag h
        rw [h1, State.cal_setCal_same]
        cases s.trapSet c p.lvl <;> rfl

end Sys2Proof.Machine
end

