-- ==== Sys2Proof/Laws/Keeps.lean ====
section
/-!
SUPPORT. The relation `Keeps`, and how it passes through the forms in which meanings are written: record updates, folds,
pairs and local definitions.
-/
namespace Sys2Proof.Machine

theorem Keeps.refl (s : State) : Keeps s s := ⟨rfl, rfl, .inl rfl, Nat.le_refl _, id⟩

theorem Keeps.trans {s t u : State} (h : Keeps s t) (g : Keeps t u) : Keeps s u where
  queue := g.queue.trans h.queue
  beats := g.beats.trans h.beats
  time := by rcases g.time with e | e <;> rcases h.time with f | f <;> simp [e, f]
  free := Nat.le_trans h.free g.free
  canonical := g.canonical ∘ h.canonical

/-- A record update of the other fields. -/
theorem Keeps.update {s0 s : State} {rdata : Word} {retired : Tab (Nat × Nat)} {cueIn : Word} {queues : Tab Queue}
    {orderSeq : Nat} {engPair : Tab Nat} {tp : Tab Tp} {encore : List Encore} {relays : Tab Relay} {frames : Tab
    FrameSt} {late : List Late} {cue : CueSt} {ids : IdsSt} {seals : Tab SeaSt} {lnk : LnkSt} {arc : ArcSt} {res : Tab Phys} {record :
    Tab Rec} {cus : CusSt} {cfg : CfgSt} {ust : UstSt} {banks : BankSt} {hbc : Tab HbcSt} {counters : Tab Nat} {arbs :
    Tab ArbSt} {host : HostSt} {cals : Tab CalSt} {calBeats : Tab (Nat × Nat)} {alarmEnd : Option Nat} {boot : BootSt}
    (h : Keeps s0 s) :
    Keeps s0 (State.mk s.pending s.free rdata s.time s.beats s.regs s.mem s.eccBad s.hostMem retired cueIn queues
    orderSeq engPair tp encore relays frames late cue ids seals lnk arc res record cus cfg ust banks hbc counters arbs host
    cals calBeats alarmEnd boot) :=
  ⟨h.queue, h.beats, h.time, h.free, h.canonical⟩

/-- Free values are taken. -/
theorem Keeps.taken {s0 s : State} {n : Nat} (h : Keeps s0 s) (hn : s.free ≤ n) : Keeps s0 { s with free := n } :=
  ⟨h.queue, h.beats, h.time, Nat.le_trans h.free hn, h.canonical⟩

theorem keeps_fst {α : Type} {s0 a : State} {b : α} {p : State × α} (e : p = (a, b)) (h : Keeps s0 p.1) : Keeps s0 a := by
  subst e; exact h

theorem keeps_snd {α : Type} {s0 a : State} {b : α} {p : α × State} (e : p = (b, a)) (h : Keeps s0 p.2) : Keeps s0 a := by
  subst e; exact h

theorem have_then {p q : Prop} (hp : p) (h : p → q) : q := h hp

theorem keeps_foldl {α : Type} {s0 s : State} {f : State → α → State} {l : List α} (h : Keeps s0 s)
    (hf : ∀ s x, Keeps s0 s → Keeps s0 (f s x)) : Keeps s0 (l.foldl f s) := by
  induction l generalizing s with
  | nil => exact h
  | cons x l ih => exact ih (hf s x h)

theorem keeps_foldl1 {α β : Type} {s0 : State} {s : State × β} {f : State × β → α → State × β} {l : List α}
    (h : Keeps s0 s.1) (hf : ∀ s x, Keeps s0 s.1 → Keeps s0 (f s x).1) : Keeps s0 (l.foldl f s).1 := by
  induction l generalizing s with
  | nil => exact h
  | cons x l ih => exact ih (hf s x h)

theorem keeps_getD {s0 s : State} {o : Option State} (h : Keeps s0 s) (ho : ∀ t, o = some t → Keeps s0 t) :
    Keeps s0 (o.getD s) := by
  cases o with
  | none => exact h
  | some t => exact ho t rfl

theorem ite_keeps {s0 a b : State} {p : Prop} [Decidable p] (ha : Keeps s0 a) (hb : Keeps s0 b) :
    Keeps s0 (if p then a else b) := by
  split <;> assumption

theorem State.setReg_keeps {s0 s : State} (h : Keeps s0 s) (a : Nat) (v : Word) : Keeps s0 (s.setReg a v) :=
  ⟨h.queue, h.beats, h.time, h.free, fun c => by
    obtain ⟨h1, h2, h3, h4⟩ := h.canonical c
    exact ⟨Tab.wf_set h1, h2, h3, h4⟩⟩

theorem State.setByte_keeps {s0 s : State} (h : Keeps s0 s) (a : Nat) (b : Byte) : Keeps s0 (s.setByte a b) :=
  ⟨h.queue, h.beats, h.time, h.free, fun c => by
    obtain ⟨h1, h2, h3, h4⟩ := h.canonical c
    exact ⟨h1, Tab.wf_set h2, h3, h4⟩⟩

theorem State.setBytes_keeps {s0 s : State} (h : Keeps s0 s) (a : Nat) (bs : List Byte) : Keeps s0 (s.setBytes a bs) :=
  ⟨h.queue, h.beats, h.time, h.free, fun c => by
    obtain ⟨h1, h2, h3, h4⟩ := h.canonical c
    exact ⟨h1, Tab.wf_setMany h2, h3, h4⟩⟩

theorem State.setBad_keeps {s0 s : State} (h : Keeps s0 s) (a : Nat) (b : Bool) : Keeps s0 (s.setBad a b) :=
  ⟨h.queue, h.beats, h.time, h.free, fun c => by
    obtain ⟨h1, h2, h3, h4⟩ := h.canonical c
    exact ⟨h1, h2, Tab.wf_set h3, h4⟩⟩

theorem State.setHost_keeps {s0 s : State} (h : Keeps s0 s) (a : Nat) (b : Byte) :
    Keeps s0 { s with hostMem := Tab.set hostDefault s.hostMem a b } :=
  ⟨h.queue, h.beats, h.time, h.free, fun c => by
    obtain ⟨h1, h2, h3, h4⟩ := h.canonical c
    exact ⟨h1, h2, h3, Tab.wf_set h4⟩⟩

theorem State.takeFree_keeps {s0 s : State} (h : Keeps s0 s) : Keeps s0 s.takeFree.2 :=
  ⟨h.queue, h.beats, h.time, Nat.le_succ_of_le h.free, h.canonical⟩

end Sys2Proof.Machine
end

