-- ==== Sys2Proof/Laws/KeepsOps.lean ====
section
/-!
SUPPORT. What the operations of Machine/Ops.lean keep.
-/
namespace Sys2Proof.Machine

theorem State.setRf_keeps {s0 : State} {s : State} (a : Nat) (f : FP) (x : Nat) (hs : Keeps s0 s) :
    Keeps s0 (State.setRf s a f x) := by
  unfold State.setRf
  repeat' (first
    | (with_reducible assumption)
    | (with_reducible apply State.setReg_keeps))

theorem State.addRf_keeps {s0 : State} {s : State} (a : Nat) (f : FP) (d : Nat) (hs : Keeps s0 s) :
    Keeps s0 (State.addRf s a f d) := by
  unfold State.addRf
  repeat' (first
    | (with_reducible assumption)
    | (with_reducible apply State.setRf_keeps))

theorem State.satRf_keeps {s0 : State} {s : State} (a : Nat) (f : FP) (d : Nat) (hs : Keeps s0 s) :
    Keeps s0 (State.satRf s a f d) := by
  unfold State.satRf
  repeat' (first
    | (with_reducible assumption)
    | (with_reducible apply State.setRf_keeps))

theorem State.arriveCore_keeps {s0 : State} {s : State} (src : Nat) (hs : Keeps s0 s) :
    Keeps s0 (State.arriveCore s src).1 := by
  unfold State.arriveCore
  repeat' (first
    | (intro x; refine have_then (p := Keeps s0 x) ?_ ?_; (on_goal 2 => (intro hx; clear_value x)); (on_goal 1 => (subst x)))
    | (intro x; clear_value x)
    | (intro x; subst x)
    | lift_lets -underBinder
    | (with_reducible assumption)
    | (with_reducible apply State.setRf_keeps)
    | (with_reducible apply State.addRf_keeps)
    | split
    | (with_reducible refine keeps_fst (by with_reducible assumption) ?_)
    | (with_reducible refine keeps_snd (by with_reducible assumption) ?_))

theorem State.fltMark_keeps {s0 : State} {s : State} (f : Flt) (hs : Keeps s0 s) :
    Keeps s0 (State.fltMark s f).1 := by
  unfold State.fltMark
  repeat' (first
    | (intro x; refine have_then (p := Keeps s0 x) ?_ ?_; (on_goal 2 => (intro hx; clear_value x)); (on_goal 1 => (subst x)))
    | (intro x; clear_value x)
    | (intro x; subst x)
    | lift_lets -underBinder
    | (with_reducible assumption)
    | (with_reducible apply State.setReg_keeps)
    | (with_reducible apply State.satRf_keeps)
    | split
    | (with_reducible refine keeps_fst (by with_reducible assumption) ?_)
    | (with_reducible refine keeps_snd (by with_reducible assumption) ?_))

theorem State.fltCore_keeps {s0 : State} (n : Nat) {s : State} (f : Flt) (h : Keeps s0 s) :
    Keeps s0 (State.fltCore n s f).1 := by
  induction n generalizing s f with
  | zero => exact State.fltMark_keeps f h
  | succ n ih =>
    unfold State.fltCore
    have hm := State.fltMark_keeps f h
    simp only
    repeat' (first
      | (with_reducible assumption)
      | (with_reducible apply State.arriveCore_keeps)
      | (with_reducible apply ih)
      | split)

theorem State.flt_keeps {s0 : State} {s : State} (f : Flt) (hs : Keeps s0 s) :
    Keeps s0 (State.flt s f) := by
  unfold State.flt
  repeat' (first
    | (with_reducible assumption)
    | (with_reducible apply State.fltCore_keeps)
    | (intro _ _; (try beta_reduce))
    | (intro _; (try beta_reduce)))

theorem State.locked_keeps {s0 : State} {s : State} (b : Blk) (inst : Nat) (hs : Keeps s0 s) :
    Keeps s0 (State.locked s b inst) := by
  unfold State.locked
  repeat' (first
    | (with_reducible assumption)
    | (with_reducible apply State.flt_keeps))

theorem State.arrive_keeps {s0 : State} {s : State} (src : Nat) (hs : Keeps s0 s) :
    Keeps s0 (State.arrive s src) := by
  unfold State.arrive
  repeat' (first
    | (intro x; refine have_then (p := Keeps s0 x) ?_ ?_; (on_goal 2 => (intro hx; clear_value x)); (on_goal 1 => (subst x)))
    | (intro x; clear_value x)
    | (intro x; subst x)
    | lift_lets -underBinder
    | (with_reducible assumption)
    | (with_reducible apply State.arriveCore_keeps)
    | (with_reducible apply State.flt_keeps)
    | split
    | (with_reducible refine keeps_fst (by with_reducible assumption) ?_)
    | (with_reducible refine keeps_snd (by with_reducible assumption) ?_))

theorem State.poke_keeps {s0 : State} {s : State} (a : Nat) (bs : List Byte) (hs : Keeps s0 s) :
    Keeps s0 (State.poke s a bs) := by
  unfold State.poke
  repeat' (first
    | (intro x; refine have_then (p := Keeps s0 x) ?_ ?_; (on_goal 2 => (intro hx; clear_value x)); (on_goal 1 => (subst x)))
    | (intro x; (have _y := (fun a => x a)); clear _y; subst x; (try beta_reduce))
    | (intro x; clear_value x)
    | (intro x; subst x)
    | lift_lets -underBinder
    | (with_reducible assumption)
    | (with_reducible apply State.setBytes_keeps)
    | (with_reducible apply State.setBad_keeps)
    | (with_reducible refine keeps_foldl ?_ (fun _ _ _ => ?_))
    | split
    | (with_reducible refine keeps_fst (by with_reducible assumption) ?_)
    | (with_reducible refine keeps_snd (by with_reducible assumption) ?_))

theorem State.pokeIn_keeps {s0 : State} {s : State} (lo : Nat) (n : Nat) (a : Nat) (bs : List Byte) (hs : Keeps s0 s) :
    Keeps s0 (State.pokeIn s lo n a bs) := by
  unfold State.pokeIn
  repeat' (first
    | (intro x; refine have_then (p := Keeps s0 x) ?_ ?_; (on_goal 2 => (intro hx; clear_value x)); (on_goal 1 => (subst x)))
    | (intro x; refine have_then (p := Keeps s0 x.1) ?_ ?_; (on_goal 2 => (intro hx; clear_value x)); (on_goal 1 => (subst x)))
    | (intro x; (have _y := (fun a => x a)); clear _y; subst x; (try beta_reduce))
    | (intro x; clear_value x)
    | (intro x; subst x)
    | lift_lets -underBinder
    | (with_reducible assumption)
    | (with_reducible apply State.setBytes_keeps)
    | (with_reducible apply State.setBad_keeps)
    | (with_reducible refine keeps_foldl ?_ (fun _ _ _ => ?_))
    | (with_reducible refine keeps_foldl1 ?_ (fun _ _ _ => ?_))
    | split
    | (with_reducible refine keeps_fst (by with_reducible assumption) ?_)
    | (with_reducible refine keeps_snd (by with_reducible assumption) ?_)
    | (intro _ _; (try beta_reduce))
    | (intro _; (try beta_reduce)))

theorem State.heal_keeps {s0 : State} {s : State} (as : List Nat) (hs : Keeps s0 s) : Keeps s0 (State.heal s as) := by
  unfold State.heal
  repeat' (first
    | (intro x; refine have_then (p := Keeps s0 x) ?_ ?_; (on_goal 2 => (intro hx; clear_value x)); (on_goal 1 => (subst x)))
    | (intro x; refine have_then (p := Keeps s0 x.1) ?_ ?_; (on_goal 2 => (intro hx; clear_value x)); (on_goal 1 => (subst x)))
    | (intro x; (have _y := (fun a => x a)); clear _y; subst x; (try beta_reduce))
    | (intro x; clear_value x)
    | (intro x; subst x)
    | lift_lets -underBinder
    | (with_reducible assumption)
    | (with_reducible apply State.setBad_keeps)
    | (with_reducible refine keeps_foldl ?_ (fun _ _ _ => ?_))
    | (with_reducible refine keeps_foldl1 ?_ (fun _ _ _ => ?_))
    | split
    | (with_reducible refine keeps_fst (by with_reducible assumption) ?_)
    | (with_reducible refine keeps_snd (by with_reducible assumption) ?_)
    | (intro _ _; (try beta_reduce))
    | (intro _; (try beta_reduce)))

theorem State.storeByte_keeps {s0 : State} {s : State} (v : View) (a : Nat) (b : Byte) (hs : Keeps s0 s) :
    Keeps s0 (State.storeByte s v a b) := by
  unfold State.storeByte
  repeat' (first
    | (with_reducible assumption)
    | (with_reducible apply State.setByte_keeps)
    | (with_reducible apply State.setHost_keeps)
    | split
    | (with_reducible refine keeps_fst (by with_reducible assumption) ?_)
    | (with_reducible refine keeps_snd (by with_reducible assumption) ?_)
    | (with_reducible refine Keeps.update ?_))

theorem State.setRelay_keeps {s0 : State} {s : State} (r : Nat) (x : Relay) (hs : Keeps s0 s) :
    Keeps s0 (State.setRelay s r x) := by
  unfold State.setRelay
  repeat' (first
    | (with_reducible assumption)
    | (with_reducible refine Keeps.update ?_))

theorem State.touchBut_keeps {s0 : State} {s : State} (own : Option Nat) (a : Nat) (n : Nat) (hs : Keeps s0 s) :
    Keeps s0 (State.touchBut s own a n) := by
  unfold State.touchBut
  split
  · exact hs
  · refine keeps_foldl hs (fun s _ h => ?_)
    dsimp only
    split
    · exact Keeps.taken (State.setRelay_keeps _ _ h) (Nat.le_succ _)
    · exact h

theorem State.touch_keeps {s0 : State} {s : State} (a : Nat) (n : Nat) (hs : Keeps s0 s) :
    Keeps s0 (State.touch s a n) := State.touchBut_keeps none a n hs

theorem State.storeIn_keeps {s0 : State} {s : State} (lo : Nat) (n : Nat) (v : View) (a : Nat) (bs : List Byte) (hs :
    Keeps s0 s) :
    Keeps s0 (State.storeIn s lo n v a bs) := by
  unfold State.storeIn
  repeat' (first
    | (intro x; refine have_then (p := Keeps s0 x) ?_ ?_; (on_goal 2 => (intro hx; clear_value x)); (on_goal 1 => (subst x)))
    | (intro x; refine have_then (p := Keeps s0 x.1) ?_ ?_; (on_goal 2 => (intro hx; clear_value x)); (on_goal 1 => (subst x)))
    | (intro x; (have _y := (fun a => x a)); clear _y; subst x; (try beta_reduce))
    | (intro x; clear_value x)
    | (intro x; subst x)
    | lift_lets -underBinder
    | (with_reducible assumption)
    | (with_reducible apply State.pokeIn_keeps)
    | (with_reducible apply State.storeByte_keeps)
    | (with_reducible apply State.touch_keeps)
    | (with_reducible refine keeps_foldl ?_ (fun _ _ _ => ?_))
    | (with_reducible refine keeps_foldl1 ?_ (fun _ _ _ => ?_))
    | split
    | (with_reducible refine keeps_fst (by with_reducible assumption) ?_)
    | (with_reducible refine keeps_snd (by with_reducible assumption) ?_)
    | (with_reducible refine Keeps.update ?_)
    | (intro _ _; (try beta_reduce))
    | (intro _; (try beta_reduce)))

theorem State.storeBytes_keeps {s0 : State} {s : State} (v : View) (a : Nat) (bs : List Byte) (hs : Keeps s0 s) :
    Keeps s0 (State.storeBytes s v a bs) := by
  unfold State.storeBytes
  repeat' (first
    | (with_reducible assumption)
    | (with_reducible apply State.storeIn_keeps))

theorem State.store_keeps {s0 : State} {s : State} (p : Paths) (v : View) (a : Nat) (bs : List Byte) {t : State}
    (e : s.store p v a bs = .ok t) (hs : Keeps s0 s) : Keeps s0 t := by
  unfold State.store at e
  cases hc : s.writable p v a bs.length with
  | error x => rw [hc] at e; cases e
  | ok u =>
    rw [hc] at e
    cases e
    exact State.storeBytes_keeps v a bs hs

theorem State.mtxFrozen_keeps {s0 : State} {s : State} (src : Nat) (a : Nat) (hs : Keeps s0 s) :
    Keeps s0 (State.mtxFrozen s src a) := by
  unfold State.mtxFrozen
  repeat' (first
    | (with_reducible assumption)
    | (with_reducible apply State.flt_keeps))

theorem State.pokeOwn_keeps {s0 : State} {s : State} (src : Nat) (v : View) (a : Nat) (bs : List Byte) (hs : Keeps s0 s) :
    Keeps s0 (State.pokeOwn s src v a bs) := by
  unfold State.pokeOwn
  repeat' (first
    | (intro x; refine have_then (p := Keeps s0 x) ?_ ?_; (on_goal 2 => (intro hx; clear_value x)); (on_goal 1 => (subst x)))
    | (intro x; refine have_then (p := Keeps s0 x.1) ?_ ?_; (on_goal 2 => (intro hx; clear_value x)); (on_goal 1 => (subst x)))
    | (intro x; (have _y := (fun a => x a)); clear _y; subst x; (try beta_reduce))
    | (intro x; clear_value x)
    | (intro x; subst x)
    | lift_lets -underBinder
    | (with_reducible assumption)
    | (with_reducible apply State.poke_keeps)
    | (with_reducible apply State.touch_keeps)
    | (with_reducible apply State.mtxFrozen_keeps)
    | (with_reducible refine keeps_foldl ?_ (fun _ _ _ => ?_))
    | (with_reducible refine keeps_foldl1 ?_ (fun _ _ _ => ?_))
    | split
    | (with_reducible refine keeps_fst (by with_reducible assumption) ?_)
    | (with_reducible refine keeps_snd (by with_reducible assumption) ?_)
    | (with_reducible refine Keeps.update ?_)
    | (intro _ _; (try beta_reduce))
    | (intro _; (try beta_reduce)))

end Sys2Proof.Machine
end

