-- ==== Sys2Proof/Laws/KeepsPlace.lean ====
section
/-!
SUPPORT. What the operations of Machine/Place.lean keep.
-/
namespace Sys2Proof.Machine

theorem State.setPhys_keeps {s0 : State} {s : State} (i : Nat) (x : Phys) (hs : Keeps s0 s) :
    Keeps s0 (State.setPhys s i x) := by
  unfold State.setPhys
  repeat' (first
    | (with_reducible assumption)
    | (with_reducible refine Keeps.update ?_))

theorem State.setRecOf_keeps {s0 : State} {s : State} (i : Nat) (x : Rec) (hs : Keeps s0 s) :
    Keeps s0 (State.setRecOf s i x) := by
  unfold State.setRecOf
  repeat' (first
    | (with_reducible assumption)
    | (with_reducible refine Keeps.update ?_))

end Sys2Proof.Machine
end

