-- ==== Sys2Proof/Laws/KeepsCalCore.lean ====
section
/-!
SUPPORT. What the operations of Machine/CalCore.lean keep.
-/
namespace Sys2Proof.Machine

theorem State.setCal_keeps {s0 : State} {s : State} (c : Nat) (x : CalSt) (hs : Keeps s0 s) :
    Keeps s0 (State.setCal s c x) := by
  unfold State.setCal
  repeat' (first
    | (with_reducible assumption)
    | (with_reducible refine Keeps.update ?_))

theorem State.calReport_keeps {s0 : State} {s : State} (c : Nat) (hs : Keeps s0 s) :
    Keeps s0 (State.calReport s c) := by
  unfold State.calReport
  repeat' (first
    | (with_reducible assumption)
    | (with_reducible refine Keeps.update ?_))

theorem State.setStatus_keeps {s0 : State} {s : State} (c : Nat) (v : Word) (hs : Keeps s0 s) :
    Keeps s0 (State.setStatus s c v) := by
  unfold State.setStatus
  repeat' (first
    | (intro x; refine have_then (p := Keeps s0 x) ?_ ?_; (on_goal 2 => (intro hx; clear_value x)); (on_goal 1 => (subst x)))
    | (intro x; clear_value x)
    | (intro x; subst x)
    | lift_lets -underBinder
    | (with_reducible assumption)
    | (with_reducible apply State.setCal_keeps)
    | (with_reducible apply State.calReport_keeps)
    | split
    | (with_reducible refine keeps_fst (by with_reducible assumption) ?_)
    | (with_reducible refine keeps_snd (by with_reducible assumption) ?_)
    | (with_reducible refine Keeps.update ?_))

end Sys2Proof.Machine
end

