-- ==== Sys2Proof/Laws/KeepsAccess.lean ====
section
/-!
SUPPORT. What the operations of Machine/Access.lean keep.
-/
namespace Sys2Proof.Machine

theorem State.decodeFault_keeps {s0 : State} {s : State} (au : Auth) (off : Nat) (hs : Keeps s0 s) :
    Keeps s0 (State.decodeFault s au off) := by
  unfold State.decodeFault
  repeat' (first
    | (with_reducible assumption)
    | (with_reducible apply State.flt_keeps))

theorem State.mtxDenied_keeps {s0 : State} {s : State} (au : Auth) (a : Nat) (hs : Keeps s0 s) :
    Keeps s0 (State.mtxDenied s au a) := by
  unfold State.mtxDenied
  repeat' (first
    | (with_reducible assumption)
    | (with_reducible apply State.flt_keeps))

theorem State.hstDenied_keeps {s0 : State} {s : State} (f : World) (a : Nat) (hs : Keeps s0 s) :
    Keeps s0 (State.hstDenied s f a) := by
  unfold State.hstDenied
  repeat' (first
    | (with_reducible assumption)
    | (with_reducible apply State.flt_keeps))

theorem State.refuse_keeps {s0 : State} {s : State} (au : Auth) (e : MErr) (a : Nat) (hs : Keeps s0 s) :
    Keeps s0 (State.refuse s au e a) := by
  unfold State.refuse
  repeat' (first
    | (intro x; refine have_then (p := Keeps s0 x) ?_ ?_; (on_goal 2 => (intro hx; clear_value x)); (on_goal 1 => (subst x)))
    | (intro x; clear_value x)
    | (intro x; subst x)
    | lift_lets -underBinder
    | (with_reducible assumption)
    | (with_reducible apply State.mtxDenied_keeps)
    | (with_reducible apply State.mtxFrozen_keeps)
    | (with_reducible apply State.hstDenied_keeps)
    | split
    | (with_reducible refine keeps_fst (by with_reducible assumption) ?_)
    | (with_reducible refine keeps_snd (by with_reducible assumption) ?_))

theorem State.hiddenNote_keeps {s0 : State} {s : State} (au : Auth) (off : Nat) (hs : Keeps s0 s) :
    Keeps s0 (State.hiddenNote s au off) := by
  unfold State.hiddenNote
  repeat' (first
    | (intro x; refine have_then (p := Keeps s0 x) ?_ ?_; (on_goal 2 => (intro hx; clear_value x)); (on_goal 1 => (subst x)))
    | (intro x; refine have_then (p := Keeps s0 x.1) ?_ ?_; (on_goal 2 => (intro hx; clear_value x)); (on_goal 1 => (subst x)))
    | (intro x; (have _y := (fun a => x a)); clear _y; subst x; (try beta_reduce))
    | (intro x; clear_value x)
    | (intro x; subst x)
    | lift_lets -underBinder
    | (with_reducible assumption)
    | (with_reducible apply State.mtxDenied_keeps)
    | (with_reducible apply State.hstDenied_keeps)
    | split
    | (with_reducible refine keeps_fst (by with_reducible assumption) ?_)
    | (with_reducible refine keeps_snd (by with_reducible assumption) ?_)
    | (with_reducible refine Keeps.update ?_)
    | (intro _ _; (try beta_reduce))
    | (intro _; (try beta_reduce)))

theorem State.admit_keeps {s0 : State} {s : State} (au : Auth) (off size : Nat) (write : Bool) {t : State}
    (e : s.admits au off size write = some (.error t)) (hs : Keeps s0 s) : Keeps s0 t := by
  unfold State.admits at e
  repeat' split at e
  all_goals (try (cases e; done))
  all_goals
    cases e
    repeat' (first
      | (with_reducible assumption)
      | (with_reducible apply State.hiddenNote_keeps)
      | (with_reducible apply State.hstDenied_keeps)
      | (with_reducible apply State.decodeFault_keeps)
      | (with_reducible apply State.refuse_keeps)
      | split)

theorem State.levelFault_keeps {s0 : State} {s : State} (au : Auth) (a : RegAt) (hs : Keeps s0 s) :
    Keeps s0 (State.levelFault s au a) := by
  unfold State.levelFault
  repeat' (first
    | (with_reducible assumption)
    | (with_reducible apply State.mtxDenied_keeps)
    | (with_reducible apply State.locked_keeps)
    | split
    | (with_reducible refine keeps_fst (by with_reducible assumption) ?_)
    | (with_reducible refine keeps_snd (by with_reducible assumption) ?_))

theorem State.logClamp_keeps {s0 : State} {s : State} (src : Nat) (off : Nat) (lsb : Nat) (v : Nat) (staged : Bool) (hs : Keeps s0 s) :
    Keeps s0 (State.logClamp s src off lsb v staged) := by
  unfold State.logClamp
  repeat' (first
    | (intro x; refine have_then (p := Keeps s0 x) ?_ ?_; (on_goal 2 => (intro hx; clear_value x)); (on_goal 1 => (subst x)))
    | (intro x; clear_value x)
    | (intro x; subst x)
    | lift_lets -underBinder
    | (with_reducible assumption)
    | (with_reducible apply State.satRf_keeps)
    | (with_reducible apply State.flt_keeps)
    | split
    | (with_reducible refine keeps_fst (by with_reducible assumption) ?_)
    | (with_reducible refine keeps_snd (by with_reducible assumption) ?_)
    | (with_reducible refine Keeps.update ?_))

theorem State.storeFld_keeps {s0 : State} {s : State} (src : Nat) (a : RegAt) (w : Word) (m : Word) (staged : Bool) (f : Fld) (hs : Keeps s0 s) :
    Keeps s0 (State.storeFld s src a w m staged f) := by
  unfold State.storeFld
  repeat' (first
    | (intro x; refine have_then (p := Keeps s0 x) ?_ ?_; (on_goal 2 => (intro hx; clear_value x)); (on_goal 1 => (subst x)))
    | (intro x; (have _y := (fun a => x a)); clear _y; subst x; (try beta_reduce))
    | (intro x; clear_value x)
    | (intro x; subst x)
    | lift_lets -underBinder
    | (with_reducible assumption)
    | (with_reducible apply State.setReg_keeps)
    | (with_reducible apply State.logClamp_keeps)
    | (with_reducible apply State.locked_keeps)
    | split
    | (with_reducible refine keeps_fst (by with_reducible assumption) ?_)
    | (with_reducible refine keeps_snd (by with_reducible assumption) ?_)
    | (with_reducible refine Keeps.update ?_))

theorem State.storeReg_keeps {s0 : State} {s : State} (src : Nat) (a : RegAt) (w : Word) (m : Word) (staged : Bool) (hs : Keeps s0 s) :
    Keeps s0 (State.storeReg s src a w m staged) := by
  unfold State.storeReg
  repeat' (first
    | (intro x; refine have_then (p := Keeps s0 x) ?_ ?_; (on_goal 2 => (intro hx; clear_value x)); (on_goal 1 => (subst x)))
    | (intro x; (have _y := (fun a => x a)); clear _y; subst x; (try beta_reduce))
    | (intro x; clear_value x)
    | (intro x; subst x)
    | lift_lets -underBinder
    | (with_reducible assumption)
    | (with_reducible apply State.locked_keeps)
    | (with_reducible apply State.storeFld_keeps)
    | (with_reducible refine keeps_foldl ?_ (fun _ _ _ => ?_))
    | split
    | (with_reducible refine keeps_fst (by with_reducible assumption) ?_)
    | (with_reducible refine keeps_snd (by with_reducible assumption) ?_))

end Sys2Proof.Machine
end

