-- ==== Sys2Proof/Laws/KeepsRelays.lean ====
section
/-!
SUPPORT. What the operations of Machine/Relays.lean keep.
-/
namespace Sys2Proof.Machine

theorem State.setQueue_keeps {s0 : State} {s : State} (q : Nat) (x : Queue) (hs : Keeps s0 s) :
    Keeps s0 (State.setQueue s q x) := by
  unfold State.setQueue
  repeat' (first
    | (with_reducible assumption)
    | (with_reducible refine Keeps.update ?_))

theorem State.setHead_keeps {s0 : State} {s : State} (q : Nat) (x : Entry) (hs : Keeps s0 s) :
    Keeps s0 (State.setHead s q x) := by
  unfold State.setHead
  repeat' (first
    | (intro x; refine have_then (p := Keeps s0 x) ?_ ?_; (on_goal 2 => (intro hx; clear_value x)); (on_goal 1 => (subst x)))
    | (intro x; clear_value x)
    | (intro x; subst x)
    | lift_lets -underBinder
    | (with_reducible assumption)
    | (with_reducible apply State.setQueue_keeps)
    | split
    | (with_reducible refine keeps_fst (by with_reducible assumption) ?_)
    | (with_reducible refine keeps_snd (by with_reducible assumption) ?_)
    | (with_reducible refine Keeps.update ?_))

theorem State.relayRetire_keeps {s0 : State} {s : State} (r : Nat) (reprise : Bool) (n : Nat) (hs : Keeps s0 s) :
    Keeps s0 (State.relayRetire s r reprise n) := by
  unfold State.relayRetire
  repeat' (first
    | (intro x; refine have_then (p := Keeps s0 x) ?_ ?_; (on_goal 2 => (intro hx; clear_value x)); (on_goal 1 => (subst x)))
    | (intro x; clear_value x)
    | (intro x; subst x)
    | lift_lets -underBinder
    | (with_reducible assumption)
    | (with_reducible apply State.setRelay_keeps)
    | split
    | (with_reducible refine keeps_fst (by with_reducible assumption) ?_)
    | (with_reducible refine keeps_snd (by with_reducible assumption) ?_)
    | (with_reducible refine Keeps.update ?_))

theorem State.relayPut1_keeps {s0 : State} {s : State} (r : Nat) (b : Byte) (hs : Keeps s0 s) :
    Keeps s0 (State.relayPut1 s r b) := by
  unfold State.relayPut1
  repeat' (first
    | (intro x; refine have_then (p := Keeps s0 x) ?_ ?_; (on_goal 2 => (intro hx; clear_value x)); (on_goal 1 => (subst x)))
    | (intro x; refine have_then (p := Keeps s0 x.1) ?_ ?_; (on_goal 2 => (intro hx; clear_value x)); (on_goal 1 => (subst x)))
    | (intro x; (have _y := (fun a => x a)); clear _y; subst x; (try beta_reduce))
    | (intro x; clear_value x)
    | (intro x; subst x)
    | lift_lets -underBinder
    | (with_reducible assumption)
    | (with_reducible apply State.pokeIn_keeps)
    | (with_reducible apply State.setRelay_keeps)
    | (with_reducible apply State.touchBut_keeps)
    | split
    | (with_reducible refine keeps_fst (by with_reducible assumption) ?_)
    | (with_reducible refine keeps_snd (by with_reducible assumption) ?_)
    | (with_reducible refine Keeps.update ?_)
    | (intro _ _; (try beta_reduce))
    | (intro _; (try beta_reduce)))

theorem State.relayPut_keeps {s0 : State} {s : State} (r : Nat) (bs : List Byte) (hs : Keeps s0 s) :
    Keeps s0 (State.relayPut s r bs) := by
  unfold State.relayPut
  repeat' (first
    | (with_reducible assumption)
    | (with_reducible apply State.relayPut1_keeps)
    | (with_reducible refine keeps_foldl ?_ (fun _ _ _ => ?_)))

theorem State.relayPutRep_keeps {s0 : State} {s : State} (r : Nat) (bs : List Byte) (hs : Keeps s0 s) :
    Keeps s0 (State.relayPutRep s r bs) := by
  unfold State.relayPutRep
  repeat' (first
    | (intro x; refine have_then (p := Keeps s0 x) ?_ ?_; (on_goal 2 => (intro hx; clear_value x)); (on_goal 1 => (subst x)))
    | (intro x; refine have_then (p := Keeps s0 x.1) ?_ ?_; (on_goal 2 => (intro hx; clear_value x)); (on_goal 1 => (subst x)))
    | (intro x; (have _y := (fun a => x a)); clear _y; subst x; (try beta_reduce))
    | (intro x; clear_value x)
    | (intro x; subst x)
    | lift_lets -underBinder
    | (with_reducible assumption)
    | (with_reducible apply State.pokeIn_keeps)
    | (with_reducible apply State.setRelay_keeps)
    | (with_reducible apply State.touchBut_keeps)
    | (with_reducible refine keeps_foldl ?_ (fun _ _ _ => ?_))
    | (with_reducible refine keeps_foldl1 ?_ (fun _ _ _ => ?_))
    | split
    | (with_reducible refine keeps_fst (by with_reducible assumption) ?_)
    | (with_reducible refine keeps_snd (by with_reducible assumption) ?_)
    | (with_reducible refine Keeps.update ?_)
    | (intro _ _; (try beta_reduce))
    | (intro _; (try beta_reduce)))

theorem State.relaySeal_keeps {s0 : State} {s : State} (r : Nat) (hs : Keeps s0 s) :
    Keeps s0 (State.relaySeal s r) := by
  unfold State.relaySeal
  repeat' (first
    | (intro x; refine have_then (p := Keeps s0 x) ?_ ?_; (on_goal 2 => (intro hx; clear_value x)); (on_goal 1 => (subst x)))
    | (intro x; clear_value x)
    | (intro x; subst x)
    | lift_lets -underBinder
    | (with_reducible assumption)
    | (with_reducible apply State.setRelay_keeps)
    | split
    | (with_reducible refine keeps_fst (by with_reducible assumption) ?_)
    | (with_reducible refine keeps_snd (by with_reducible assumption) ?_)
    | (with_reducible refine Keeps.update ?_))

theorem State.relayPush_keeps {s0 : State} {s : State} (r : Nat) (v : View) (bs : List Byte) {t : State} (e :
    State.relayPush s r v bs = .ok t) (hs : Keeps s0 s) :
    Keeps s0 t := by
  unfold State.relayPush at e
  try dsimp only at e
  repeat' split at e
  all_goals (try (cases e; done))
  all_goals
    cases e
    repeat' (first
      | (intro x; refine have_then (p := Keeps s0 x) ?_ ?_; (on_goal 2 => (intro hx; clear_value x)); (on_goal 1 => (subst x)))
      | (intro x; refine have_then (p := Keeps s0 x.1) ?_ ?_; (on_goal 2 => (intro hx; clear_value x)); (on_goal 1 => (subst x)))
      | (intro x; (have _y := (fun a => x a)); clear _y; subst x; (try beta_reduce))
      | (intro x; clear_value x)
      | (intro x; subst x)
      | lift_lets -underBinder
      | (with_reducible assumption)
      | (with_reducible apply State.relayPut_keeps)
      | (with_reducible apply State.relaySeal_keeps)
      | split
      | (with_reducible refine keeps_fst (by with_reducible assumption) ?_)
      | (with_reducible refine keeps_snd (by with_reducible assumption) ?_)
      | (with_reducible refine Keeps.update ?_))

theorem State.relayClear_keeps {s0 : State} {s : State} (r : Nat) (hs : Keeps s0 s) : Keeps s0 (State.relayClear s r) := by
  unfold State.relayClear
  repeat' (first
    | (with_reducible assumption)
    | (with_reducible apply State.setRelay_keeps)
    | (with_reducible refine Keeps.update ?_))

theorem State.relayCredit_keeps {s0 : State} {s : State} (r : Nat) (hs : Keeps s0 s) :
    Keeps s0 (State.relayCredit s r) := by
  unfold State.relayCredit
  repeat' (first
    | (intro x; refine have_then (p := Keeps s0 x) ?_ ?_; (on_goal 2 => (intro hx; clear_value x)); (on_goal 1 => (subst x)))
    | (intro x; clear_value x)
    | (intro x; subst x)
    | lift_lets -underBinder
    | (with_reducible assumption)
    | (with_reducible apply State.setRelay_keeps)
    | split
    | (with_reducible refine keeps_fst (by with_reducible assumption) ?_)
    | (with_reducible refine keeps_snd (by with_reducible assumption) ?_)
    | (with_reducible refine Keeps.update ?_))

theorem State.relayBindProd_keeps {s0 : State} {s : State} (r : Nat) (q : Nat) (seq : Nat) (rep : Bool) (hs : Keeps s0 s) :
    Keeps s0 (State.relayBindProd s r q seq rep) := by
  unfold State.relayBindProd
  repeat' (first
    | (intro x; refine have_then (p := Keeps s0 x) ?_ ?_; (on_goal 2 => (intro hx; clear_value x)); (on_goal 1 => (subst x)))
    | (intro x; clear_value x)
    | (intro x; subst x)
    | lift_lets -underBinder
    | (with_reducible assumption)
    | (with_reducible apply State.setRelay_keeps)
    | split
    | (with_reducible refine keeps_fst (by with_reducible assumption) ?_)
    | (with_reducible refine keeps_snd (by with_reducible assumption) ?_)
    | (with_reducible refine Keeps.update ?_))

theorem State.relayBindCons_keeps {s0 : State} {s : State} (r : Nat) (q : Nat) (seq : Nat) (rep : Option Bool) (hs : Keeps s0 s) :
    Keeps s0 (State.relayBindCons s r q seq rep) := by
  unfold State.relayBindCons
  repeat' (first
    | (intro x; refine have_then (p := Keeps s0 x) ?_ ?_; (on_goal 2 => (intro hx; clear_value x)); (on_goal 1 => (subst x)))
    | (intro x; clear_value x)
    | (intro x; subst x)
    | lift_lets -underBinder
    | (with_reducible assumption)
    | (with_reducible apply State.setRelay_keeps)
    | split
    | (with_reducible refine keeps_fst (by with_reducible assumption) ?_)
    | (with_reducible refine keeps_snd (by with_reducible assumption) ?_)
    | (with_reducible refine Keeps.update ?_))

theorem State.relayFreeProd_keeps {s0 : State} {s : State} (r : Nat) (hs : Keeps s0 s) :
    Keeps s0 (State.relayFreeProd s r) := by
  unfold State.relayFreeProd
  repeat' (first
    | (intro x; refine have_then (p := Keeps s0 x) ?_ ?_; (on_goal 2 => (intro hx; clear_value x)); (on_goal 1 => (subst x)))
    | (intro x; clear_value x)
    | (intro x; subst x)
    | lift_lets -underBinder
    | (with_reducible assumption)
    | (with_reducible apply State.relaySeal_keeps)
    | (with_reducible apply State.setRelay_keeps)
    | split
    | (with_reducible refine keeps_fst (by with_reducible assumption) ?_)
    | (with_reducible refine keeps_snd (by with_reducible assumption) ?_)
    | (with_reducible refine Keeps.update ?_))

theorem State.relayFreeCons_keeps {s0 : State} {s : State} (r : Nat) (hs : Keeps s0 s) :
    Keeps s0 (State.relayFreeCons s r) := by
  unfold State.relayFreeCons
  repeat' (first
    | (intro x; refine have_then (p := Keeps s0 x) ?_ ?_; (on_goal 2 => (intro hx; clear_value x)); (on_goal 1 => (subst x)))
    | (intro x; clear_value x)
    | (intro x; subst x)
    | lift_lets -underBinder
    | (with_reducible assumption)
    | (with_reducible apply State.setRelay_keeps)
    | split
    | (with_reducible refine keeps_fst (by with_reducible assumption) ?_)
    | (with_reducible refine keeps_snd (by with_reducible assumption) ?_)
    | (with_reducible refine Keeps.update ?_))

end Sys2Proof.Machine
end

