-- ==== Sys2Proof/Laws/KeepsFrames.lean ====
section
/-!
SUPPORT. What the operations of Machine/Frames.lean keep.
-/
namespace Sys2Proof.Machine

theorem State.setFrame_keeps {s0 : State} {s : State} (f : Nat) (x : FrameSt) (hs : Keeps s0 s) :
    Keeps s0 (State.setFrame s f x) := by
  unfold State.setFrame
  repeat' (first
    | (with_reducible assumption)
    | (with_reducible refine Keeps.update ?_))

theorem State.frameCloseNow_keeps {s0 : State} {s : State} (f : Nat) (hs : Keeps s0 s) :
    Keeps s0 (State.frameCloseNow s f) := by
  unfold State.frameCloseNow
  repeat' (first
    | (intro x; refine have_then (p := Keeps s0 x) ?_ ?_; (on_goal 2 => (intro hx; clear_value x)); (on_goal 1 => (subst x)))
    | (intro x; refine have_then (p := Keeps s0 x.1) ?_ ?_; (on_goal 2 => (intro hx; clear_value x)); (on_goal 1 => (subst x)))
    | (intro x; (have _y := (fun a => x a)); clear _y; subst x; (try beta_reduce))
    | (intro x; clear_value x)
    | (intro x; subst x)
    | lift_lets -underBinder
    | (with_reducible assumption)
    | (with_reducible apply State.setRf_keeps)
    | (with_reducible apply State.pokeOwn_keeps)
    | (with_reducible apply State.setFrame_keeps)
    | split
    | (with_reducible refine keeps_fst (by with_reducible assumption) ?_)
    | (with_reducible refine keeps_snd (by with_reducible assumption) ?_)
    | (with_reducible refine Keeps.update ?_)
    | (intro _ _; (try beta_reduce))
    | (intro _; (try beta_reduce)))

theorem State.frameSettle_keeps {s0 : State} {s : State} (f : Nat) (hs : Keeps s0 s) :
    Keeps s0 (State.frameSettle s f) := by
  unfold State.frameSettle
  repeat' (first
    | (intro x; refine have_then (p := Keeps s0 x) ?_ ?_; (on_goal 2 => (intro hx; clear_value x)); (on_goal 1 => (subst x)))
    | (intro x; refine have_then (p := Keeps s0 x.1) ?_ ?_; (on_goal 2 => (intro hx; clear_value x)); (on_goal 1 => (subst x)))
    | (intro x; (have _y := (fun a => x a)); clear _y; subst x; (try beta_reduce))
    | (intro x; clear_value x)
    | (intro x; subst x)
    | lift_lets -underBinder
    | (with_reducible assumption)
    | (with_reducible apply State.frameCloseNow_keeps)
    | split
    | (with_reducible refine keeps_fst (by with_reducible assumption) ?_)
    | (with_reducible refine keeps_snd (by with_reducible assumption) ?_)
    | (with_reducible refine Keeps.update ?_)
    | (intro _ _; (try beta_reduce))
    | (intro _; (try beta_reduce)))

theorem State.setCueBusy_keeps {s0 : State} {s : State} (c : Nat) (n : Nat) (hs : Keeps s0 s) :
    Keeps s0 (State.setCueBusy s c n) := by
  unfold State.setCueBusy
  repeat' (first
    | (with_reducible assumption)
    | (with_reducible refine Keeps.update ?_))

theorem State.cueMissed_keeps {s0 : State} {s : State} (c : Nat) (hs : Keeps s0 s) :
    Keeps s0 (State.cueMissed s c) := by
  unfold State.cueMissed
  repeat' (first
    | (with_reducible assumption)
    | (with_reducible apply State.satRf_keeps))

theorem State.frameClose_keeps {s0 : State} {s : State} (f : Nat) (hs : Keeps s0 s) :
    Keeps s0 (State.frameClose s f) := by
  unfold State.frameClose
  repeat' (first
    | (intro x; refine have_then (p := Keeps s0 x) ?_ ?_; (on_goal 2 => (intro hx; clear_value x)); (on_goal 1 => (subst x)))
    | (intro x; refine have_then (p := Keeps s0 x.1) ?_ ?_; (on_goal 2 => (intro hx; clear_value x)); (on_goal 1 => (subst x)))
    | (intro x; (have _y := (fun a => x a)); clear _y; subst x; (try beta_reduce))
    | (intro x; clear_value x)
    | (intro x; subst x)
    | lift_lets -underBinder
    | (with_reducible assumption)
    | (with_reducible apply State.setRf_keeps)
    | (with_reducible apply State.addRf_keeps)
    | (with_reducible apply State.frameCloseNow_keeps)
    | (with_reducible apply State.frameSettle_keeps)
    | (with_reducible apply State.setCueBusy_keeps)
    | (with_reducible apply State.cueMissed_keeps)
    | split
    | (with_reducible refine keeps_fst (by with_reducible assumption) ?_)
    | (with_reducible refine keeps_snd (by with_reducible assumption) ?_)
    | (with_reducible refine Keeps.update ?_)
    | (intro _ _; (try beta_reduce))
    | (intro _; (try beta_reduce)))

theorem State.frameWrite_keeps {s0 : State} {s : State} (v : View) (f : Nat) (off : Nat) (bs : List Byte) {t : State}
    (e : State.frameWrite s v f off bs = .ok t) (hs : Keeps s0 s) :
    Keeps s0 t := by
  unfold State.frameWrite at e
  try dsimp only at e
  repeat' split at e
  all_goals (try (cases e; done))
  all_goals
    cases e
    repeat' (first
      | (intro x; refine have_then (p := Keeps s0 x) ?_ ?_; (on_goal 2 => (intro hx; clear_value x)); (on_goal 1 => (subst x)))
      | (intro x; refine have_then (p := Keeps s0 x.1) ?_ ?_; (on_goal 2 => (intro hx; clear_value x)); (on_goal 1 => (subst x)))
      | (intro x; (have _y := (fun a => x a)); clear _y; subst x; (try beta_reduce))
      | (intro x; clear_value x)
      | (intro x; subst x)
      | lift_lets -underBinder
      | (with_reducible assumption)
      | (with_reducible refine State.store_keeps _ _ _ _ (by with_reducible assumption) ?_)
      | (with_reducible apply State.setFrame_keeps)
      | (with_reducible apply State.frameSettle_keeps)
      | split
      | (with_reducible refine keeps_fst (by with_reducible assumption) ?_)
      | (with_reducible refine keeps_snd (by with_reducible assumption) ?_)
      | (with_reducible refine Keeps.update ?_))

theorem State.frameRead_keeps {s0 : State} {s : State} (f : Nat) (hs : Keeps s0 s) :
    Keeps s0 (State.frameRead s f) := by
  unfold State.frameRead
  repeat' (first
    | (with_reducible assumption)
    | (with_reducible apply State.addRf_keeps))

theorem State.frameUnread_keeps {s0 : State} {s : State} (f : Nat) (hs : Keeps s0 s) :
    Keeps s0 (State.frameUnread s f) := by
  unfold State.frameUnread
  repeat' (first
    | (with_reducible assumption)
    | (with_reducible apply State.setRf_keeps))

end Sys2Proof.Machine
end

