-- ==== Sys2Proof/Laws/KeepsFlash.lean ====
section
/-!
SUPPORT. What the operations of Machine/Flash.lean keep.
-/
namespace Sys2Proof.Machine

theorem State.setLog_keeps {s0 : State} {s : State} (w : Nat) (x : ArcLog) (hs : Keeps s0 s) :
    Keeps s0 (State.setLog s w x) := by
  unfold State.setLog
  repeat' (first
    | (with_reducible assumption)
    | (with_reducible refine Keeps.update ?_))

theorem State.setTgt_keeps {s0 : State} {s : State} (t : Nat) (x : TgtSt) (hs : Keeps s0 s) :
    Keeps s0 (State.setTgt s t x) := by
  unfold State.setTgt
  repeat' (first
    | (with_reducible assumption)
    | (with_reducible refine Keeps.update ?_))

theorem State.setBlk_keeps {s0 : State} {s : State} (t : Nat) (b : Nat) (x : BlkSt) (hs : Keeps s0 s) :
    Keeps s0 (State.setBlk s t b x) := by
  unfold State.setBlk
  repeat' (first
    | (intro x; refine have_then (p := Keeps s0 x) ?_ ?_; (on_goal 2 => (intro hx; clear_value x)); (on_goal 1 => (subst x)))
    | (intro x; refine have_then (p := Keeps s0 x.1) ?_ ?_; (on_goal 2 => (intro hx; clear_value x)); (on_goal 1 => (subst x)))
    | (intro x; (have _y := (fun a => x a)); clear _y; subst x; (try beta_reduce))
    | (intro x; clear_value x)
    | (intro x; subst x)
    | lift_lets -underBinder
    | (with_reducible assumption)
    | (with_reducible apply State.setTgt_keeps)
    | split
    | (with_reducible refine keeps_fst (by with_reducible assumption) ?_)
    | (with_reducible refine keeps_snd (by with_reducible assumption) ?_)
    | (with_reducible refine Keeps.update ?_)
    | (intro _ _; (try beta_reduce))
    | (intro _; (try beta_reduce)))

theorem State.addFolio_keeps {s0 : State} {s : State} (w : Nat) (t : Nat) (b : Nat) (lo : Nat) (hi : Nat) (hs : Keeps s0 s) :
    Keeps s0 (State.addFolio s w t b lo hi) := by
  unfold State.addFolio
  repeat' (first
    | (intro x; refine have_then (p := Keeps s0 x) ?_ ?_; (on_goal 2 => (intro hx; clear_value x)); (on_goal 1 => (subst x)))
    | (intro x; refine have_then (p := Keeps s0 x.1) ?_ ?_; (on_goal 2 => (intro hx; clear_value x)); (on_goal 1 => (subst x)))
    | (intro x; (have _y := (fun a => x a)); clear _y; subst x; (try beta_reduce))
    | (intro x; clear_value x)
    | (intro x; subst x)
    | lift_lets -underBinder
    | (with_reducible assumption)
    | (with_reducible apply State.setLog_keeps)
    | split
    | (with_reducible refine keeps_fst (by with_reducible assumption) ?_)
    | (with_reducible refine keeps_snd (by with_reducible assumption) ?_)
    | (with_reducible refine Keeps.update ?_)
    | (intro _ _; (try beta_reduce))
    | (intro _; (try beta_reduce)))

theorem State.dropBlock_keeps {s0 : State} {s : State} (t : Nat) (b : Nat) (hs : Keeps s0 s) :
    Keeps s0 (State.dropBlock s t b) := by
  unfold State.dropBlock
  repeat' (first
    | (intro x; refine have_then (p := Keeps s0 x) ?_ ?_; (on_goal 2 => (intro hx; clear_value x)); (on_goal 1 => (subst x)))
    | (intro x; refine have_then (p := Keeps s0 x.1) ?_ ?_; (on_goal 2 => (intro hx; clear_value x)); (on_goal 1 => (subst x)))
    | (intro x; (have _y := (fun a => x a)); clear _y; subst x; (try beta_reduce))
    | (intro x; clear_value x)
    | (intro x; subst x)
    | lift_lets -underBinder
    | (with_reducible assumption)
    | (with_reducible apply State.setLog_keeps)
    | (with_reducible refine keeps_foldl ?_ (fun _ _ _ => ?_))
    | (with_reducible refine keeps_foldl1 ?_ (fun _ _ _ => ?_))
    | split
    | (with_reducible refine keeps_fst (by with_reducible assumption) ?_)
    | (with_reducible refine keeps_snd (by with_reducible assumption) ?_)
    | (with_reducible refine Keeps.update ?_)
    | (intro _ _; (try beta_reduce))
    | (intro _; (try beta_reduce)))

theorem State.retireBlock_keeps {s0 : State} {s : State} (t : Nat) (b : Nat) (hs : Keeps s0 s) :
    Keeps s0 (State.retireBlock s t b) := by
  unfold State.retireBlock
  repeat' (first
    | (intro x; refine have_then (p := Keeps s0 x) ?_ ?_; (on_goal 2 => (intro hx; clear_value x)); (on_goal 1 => (subst x)))
    | (intro x; refine have_then (p := Keeps s0 x.1) ?_ ?_; (on_goal 2 => (intro hx; clear_value x)); (on_goal 1 => (subst x)))
    | (intro x; (have _y := (fun a => x a)); clear _y; subst x; (try beta_reduce))
    | (intro x; clear_value x)
    | (intro x; subst x)
    | lift_lets -underBinder
    | (with_reducible assumption)
    | (with_reducible apply State.setLog_keeps)
    | (with_reducible apply State.setBlk_keeps)
    | (with_reducible refine keeps_foldl ?_ (fun _ _ _ => ?_))
    | (with_reducible refine keeps_foldl1 ?_ (fun _ _ _ => ?_))
    | split
    | (with_reducible refine keeps_fst (by with_reducible assumption) ?_)
    | (with_reducible refine keeps_snd (by with_reducible assumption) ?_)
    | (with_reducible refine Keeps.update ?_)
    | (intro _ _; (try beta_reduce))
    | (intro _; (try beta_reduce)))

theorem State.dropRetired_keeps {s0 : State} {s : State} (hs : Keeps s0 s) :
    Keeps s0 (State.dropRetired s) := by
  unfold State.dropRetired
  repeat' (first
    | (intro x; refine have_then (p := Keeps s0 x) ?_ ?_; (on_goal 2 => (intro hx; clear_value x)); (on_goal 1 => (subst x)))
    | (intro x; refine have_then (p := Keeps s0 x.1) ?_ ?_; (on_goal 2 => (intro hx; clear_value x)); (on_goal 1 => (subst x)))
    | (intro x; (have _y := (fun a => x a)); clear _y; subst x; (try beta_reduce))
    | (intro x; clear_value x)
    | (intro x; subst x)
    | lift_lets -underBinder
    | (with_reducible assumption)
    | (with_reducible apply State.setLog_keeps)
    | (with_reducible refine keeps_foldl ?_ (fun _ _ _ => ?_))
    | (with_reducible refine keeps_foldl1 ?_ (fun _ _ _ => ?_))
    | split
    | (with_reducible refine keeps_fst (by with_reducible assumption) ?_)
    | (with_reducible refine keeps_snd (by with_reducible assumption) ?_)
    | (with_reducible refine Keeps.update ?_)
    | (intro _ _; (try beta_reduce))
    | (intro _; (try beta_reduce)))

theorem State.opFall_keeps {s0 : State} {s : State} (before : State) (hs : Keeps s0 s) :
    Keeps s0 (State.opFall before s) := by
  unfold State.opFall
  repeat' (first
    | (intro x; refine have_then (p := Keeps s0 x) ?_ ?_; (on_goal 2 => (intro hx; clear_value x)); (on_goal 1 => (subst x)))
    | (intro x; refine have_then (p := Keeps s0 x.1) ?_ ?_; (on_goal 2 => (intro hx; clear_value x)); (on_goal 1 => (subst x)))
    | (intro x; (have _y := (fun a => x a)); clear _y; subst x; (try beta_reduce))
    | (intro x; clear_value x)
    | (intro x; subst x)
    | lift_lets -underBinder
    | (with_reducible assumption)
    | (with_reducible apply State.flt_keeps)
    | (with_reducible refine keeps_foldl ?_ (fun _ _ _ => ?_))
    | (with_reducible refine keeps_foldl1 ?_ (fun _ _ _ => ?_))
    | split
    | (with_reducible refine keeps_fst (by with_reducible assumption) ?_)
    | (with_reducible refine keeps_snd (by with_reducible assumption) ?_)
    | (with_reducible refine Keeps.update ?_)
    | (intro _ _; (try beta_reduce))
    | (intro _; (try beta_reduce)))

theorem State.growBad_keeps {s0 : State} {s : State} (t : Nat) (b : Nat) (hs : Keeps s0 s) :
    Keeps s0 (State.growBad s t b) := by
  unfold State.growBad
  repeat' (first
    | (intro x; refine have_then (p := Keeps s0 x) ?_ ?_; (on_goal 2 => (intro hx; clear_value x)); (on_goal 1 => (subst x)))
    | (intro x; refine have_then (p := Keeps s0 x.1) ?_ ?_; (on_goal 2 => (intro hx; clear_value x)); (on_goal 1 => (subst x)))
    | (intro x; (have _y := (fun a => x a)); clear _y; subst x; (try beta_reduce))
    | (intro x; clear_value x)
    | (intro x; subst x)
    | lift_lets -underBinder
    | (with_reducible assumption)
    | (with_reducible apply State.setTgt_keeps)
    | (with_reducible apply State.takeFree_keeps)
    | (with_reducible apply State.flt_keeps)
    | (with_reducible apply State.retireBlock_keeps)
    | (with_reducible apply State.opFall_keeps)
    | split
    | (with_reducible refine keeps_fst (by with_reducible assumption) ?_)
    | (with_reducible refine keeps_snd (by with_reducible assumption) ?_)
    | (with_reducible refine Keeps.update ?_)
    | (intro _ _; (try beta_reduce))
    | (intro _; (try beta_reduce)))

theorem State.markBlock_keeps {s0 : State} {s : State} (t : Nat) (b : Nat) (hs : Keeps s0 s) :
    Keeps s0 (State.markBlock s t b) := by
  unfold State.markBlock
  repeat' (first
    | (intro x; refine have_then (p := Keeps s0 x) ?_ ?_; (on_goal 2 => (intro hx; clear_value x)); (on_goal 1 => (subst x)))
    | (intro x; refine have_then (p := Keeps s0 x.1) ?_ ?_; (on_goal 2 => (intro hx; clear_value x)); (on_goal 1 => (subst x)))
    | (intro x; (have _y := (fun a => x a)); clear _y; subst x; (try beta_reduce))
    | (intro x; clear_value x)
    | (intro x; subst x)
    | lift_lets -underBinder
    | (with_reducible assumption)
    | (with_reducible apply State.setLog_keeps)
    | (with_reducible refine keeps_foldl ?_ (fun _ _ _ => ?_))
    | (with_reducible refine keeps_foldl1 ?_ (fun _ _ _ => ?_))
    | split
    | (with_reducible refine keeps_fst (by with_reducible assumption) ?_)
    | (with_reducible refine keeps_snd (by with_reducible assumption) ?_)
    | (with_reducible refine Keeps.update ?_)
    | (intro _ _; (try beta_reduce))
    | (intro _; (try beta_reduce)))

theorem State.countRead_keeps {s0 : State} {s : State} (t : Nat) (b : Nat) (hs : Keeps s0 s) :
    Keeps s0 (State.countRead s t b) := by
  unfold State.countRead
  repeat' (first
    | (intro x; refine have_then (p := Keeps s0 x) ?_ ?_; (on_goal 2 => (intro hx; clear_value x)); (on_goal 1 => (subst x)))
    | (intro x; refine have_then (p := Keeps s0 x.1) ?_ ?_; (on_goal 2 => (intro hx; clear_value x)); (on_goal 1 => (subst x)))
    | (intro x; (have _y := (fun a => x a)); clear _y; subst x; (try beta_reduce))
    | (intro x; clear_value x)
    | (intro x; subst x)
    | lift_lets -underBinder
    | (with_reducible assumption)
    | (with_reducible apply State.setBlk_keeps)
    | (with_reducible apply State.markBlock_keeps)
    | split
    | (with_reducible refine keeps_fst (by with_reducible assumption) ?_)
    | (with_reducible refine keeps_snd (by with_reducible assumption) ?_)
    | (with_reducible refine Keeps.update ?_)
    | (intro _ _; (try beta_reduce))
    | (intro _; (try beta_reduce)))

theorem State.levelWear_keeps {s0 : State} {s : State} (t : Nat) (hs : Keeps s0 s) :
    Keeps s0 (State.levelWear s t) := by
  unfold State.levelWear
  repeat' (first
    | (intro x; refine have_then (p := Keeps s0 x) ?_ ?_; (on_goal 2 => (intro hx; clear_value x)); (on_goal 1 => (subst x)))
    | (intro x; refine have_then (p := Keeps s0 x.1) ?_ ?_; (on_goal 2 => (intro hx; clear_value x)); (on_goal 1 => (subst x)))
    | (intro x; (have _y := (fun a => x a)); clear _y; subst x; (try beta_reduce))
    | (intro x; clear_value x)
    | (intro x; subst x)
    | lift_lets -underBinder
    | (with_reducible assumption)
    | (with_reducible apply State.markBlock_keeps)
    | (with_reducible refine keeps_foldl ?_ (fun _ _ _ => ?_))
    | (with_reducible refine keeps_foldl1 ?_ (fun _ _ _ => ?_))
    | split
    | (with_reducible refine keeps_fst (by with_reducible assumption) ?_)
    | (with_reducible refine keeps_snd (by with_reducible assumption) ?_)
    | (with_reducible refine Keeps.update ?_)
    | (intro _ _; (try beta_reduce))
    | (intro _; (try beta_reduce)))

end Sys2Proof.Machine
end

