-- ==== Sys2Proof/Laws/KeepsBanks.lean ====
section
/-!
SUPPORT. What the operations of Machine/Banks.lean keep.
-/
namespace Sys2Proof.Machine

theorem State.bankSwap_keeps {s0 : State} {s : State} (b : Nat) (hs : Keeps s0 s) :
    Keeps s0 (State.bankSwap s b) := by
  unfold State.bankSwap
  repeat' (first
    | (intro x; refine have_then (p := Keeps s0 x) ?_ ?_; (on_goal 2 => (intro hx; clear_value x)); (on_goal 1 => (subst x)))
    | (intro x; refine have_then (p := Keeps s0 x.1) ?_ ?_; (on_goal 2 => (intro hx; clear_value x)); (on_goal 1 => (subst x)))
    | (intro x; (have _y := (fun a => x a)); clear _y; subst x; (try beta_reduce))
    | (intro x; clear_value x)
    | (intro x; subst x)
    | lift_lets -underBinder
    | (with_reducible assumption)
    | (with_reducible apply State.flt_keeps)
    | split
    | (with_reducible refine keeps_fst (by with_reducible assumption) ?_)
    | (with_reducible refine keeps_snd (by with_reducible assumption) ?_)
    | (with_reducible refine Keeps.update ?_)
    | (intro _ _; (try beta_reduce))
    | (intro _; (try beta_reduce)))

theorem State.bankSwapDone_keeps {s0 : State} {s : State} (q : Nat) (hs : Keeps s0 s) :
    Keeps s0 (State.bankSwapDone s q) := by
  unfold State.bankSwapDone
  repeat' (first
    | (intro x; refine have_then (p := Keeps s0 x) ?_ ?_; (on_goal 2 => (intro hx; clear_value x)); (on_goal 1 => (subst x)))
    | (intro x; refine have_then (p := Keeps s0 x.1) ?_ ?_; (on_goal 2 => (intro hx; clear_value x)); (on_goal 1 => (subst x)))
    | (intro x; (have _y := (fun a => x a)); clear _y; subst x; (try beta_reduce))
    | (intro x; clear_value x)
    | (intro x; subst x)
    | lift_lets -underBinder
    | (with_reducible assumption)
    | (with_reducible apply State.bankSwap_keeps)
    | (with_reducible refine keeps_foldl ?_ (fun _ _ _ => ?_))
    | (with_reducible refine keeps_foldl1 ?_ (fun _ _ _ => ?_))
    | split
    | (with_reducible refine keeps_fst (by with_reducible assumption) ?_)
    | (with_reducible refine keeps_snd (by with_reducible assumption) ?_)
    | (with_reducible refine Keeps.update ?_)
    | (intro _ _; (try beta_reduce))
    | (intro _; (try beta_reduce)))

theorem State.bankWear_keeps {s0 : State} {s : State} (b : Nat) (mandatory : Bool) (hs : Keeps s0 s) :
    Keeps s0 (State.bankWear s b mandatory) := by
  unfold State.bankWear
  dsimp only
  repeat' (first
    | (with_reducible assumption)
    | (with_reducible apply State.flt_keeps)
    | (with_reducible apply State.bankSwap_keeps)
    | split
    | (with_reducible refine keeps_fst (by with_reducible assumption) ?_)
    | (with_reducible refine keeps_snd (by with_reducible assumption) ?_)
    | (with_reducible refine Keeps.update ?_))

theorem State.scpUeMark_keeps {s0 : State} {s : State} (a : Nat) (hs : Keeps s0 s) :
    Keeps s0 (State.scpUeMark s a).1 := by
  unfold State.scpUeMark
  repeat' (first
    | (intro x; refine have_then (p := Keeps s0 x) ?_ ?_; (on_goal 2 => (intro hx; clear_value x)); (on_goal 1 => (subst x)))
    | (intro x; refine have_then (p := Keeps s0 x.1) ?_ ?_; (on_goal 2 => (intro hx; clear_value x)); (on_goal 1 => (subst x)))
    | (intro x; (have _y := (fun a => x a)); clear _y; subst x; (try beta_reduce))
    | (intro x; clear_value x)
    | (intro x; subst x)
    | lift_lets -underBinder
    | (with_reducible assumption)
    | (with_reducible apply State.satRf_keeps)
    | (with_reducible apply State.fltCore_keeps)
    | (with_reducible apply State.bankWear_keeps)
    | split
    | (with_reducible refine keeps_fst (by with_reducible assumption) ?_)
    | (with_reducible refine keeps_snd (by with_reducible assumption) ?_)
    | (with_reducible refine Keeps.update ?_)
    | (intro _ _; (try beta_reduce))
    | (intro _; (try beta_reduce)))

end Sys2Proof.Machine
end

