-- ==== Sys2Proof/Laws/KeepsCues.lean ====
section
/-!
SUPPORT. What the operations of Machine/Cues.lean keep.
-/
namespace Sys2Proof.Machine

theorem State.setGroup_keeps {s0 : State} {s : State} (g : Nat) (on : Bool) (hs : Keeps s0 s) :
    Keeps s0 (State.setGroup s g on) := by
  unfold State.setGroup
  repeat' (first
    | (with_reducible assumption)
    | (with_reducible apply State.setReg_keeps))

theorem State.cueOut_keeps {s0 : State} {s : State} (o : Nat) (hs : Keeps s0 s) : Keeps s0 (State.cueOut s o) := by
  unfold State.cueOut
  repeat' (first
    | (intro x; refine have_then (p := Keeps s0 x) ?_ ?_; (on_goal 2 => (intro hx; clear_value x)); (on_goal 1 => (subst x)))
    | (intro x; refine have_then (p := Keeps s0 x.1) ?_ ?_; (on_goal 2 => (intro hx; clear_value x)); (on_goal 1 => (subst x)))
    | (intro x; (have _y := (fun a => x a)); clear _y; subst x; (try beta_reduce))
    | (intro x; clear_value x)
    | (intro x; subst x)
    | lift_lets -underBinder
    | (with_reducible assumption)
    | (with_reducible apply State.setRf_keeps)
    | (with_reducible apply State.addRf_keeps)
    | (with_reducible apply State.setCueBusy_keeps)
    | (with_reducible apply State.cueMissed_keeps)
    | split
    | (with_reducible refine keeps_fst (by with_reducible assumption) ?_)
    | (with_reducible refine keeps_snd (by with_reducible assumption) ?_)
    | (with_reducible refine Keeps.update ?_))

theorem State.feedNote_keeps {s0 : State} {s : State} (esc : State → Flt → State) (e : MErr) (a : Nat) (hs : Keeps s0 s)
    (hesc : ∀ s f, Keeps s0 s → Keeps s0 (esc s f)) : Keeps s0 (State.feedNote s esc e a) := by
  unfold State.feedNote
  repeat' (first
    | (intro x; refine have_then (p := Keeps s0 x) ?_ ?_; (on_goal 2 => (intro hx; clear_value x)); (on_goal 1 => (subst x)))
    | (intro x; refine have_then (p := Keeps s0 x.1) ?_ ?_; (on_goal 2 => (intro hx; clear_value x)); (on_goal 1 => (subst x)))
    | (intro x; (have _y := (fun a => x a)); clear _y; subst x; (try beta_reduce))
    | (intro x; clear_value x)
    | (intro x; subst x)
    | lift_lets -underBinder
    | (with_reducible assumption)
    | (with_reducible apply hesc)
    | (with_reducible exact hesc)
    | (with_reducible apply State.mtxFrozen_keeps)
    | (with_reducible apply State.scpUeMark_keeps)
    | split
    | (with_reducible refine keeps_fst (by with_reducible assumption) ?_)
    | (with_reducible refine keeps_snd (by with_reducible assumption) ?_)
    | (with_reducible refine Keeps.update ?_)
    | (intro _ _; (try beta_reduce))
    | (intro _; (try beta_reduce)))

theorem State.feedWrite_keeps {s0 : State} {s : State} (esc : State → Flt → State) (f : Nat) (rec' : List Byte)
    (hs : Keeps s0 s) (hesc : ∀ s f, Keeps s0 s → Keeps s0 (esc s f)) : Keeps s0 (State.feedWrite s esc f rec') := by
  unfold State.feedWrite
  have hm := State.cueMissed_keeps (32 + f) hs
  dsimp only
  split
  · rename_i t h
    repeat' split at h
    all_goals (try (cases h; done))
    · cases h
      exact State.frameWrite_keeps _ _ _ _ (by assumption) hs
    · exact State.relayPush_keeps _ _ _ h hs
  · exact State.feedNote_keeps esc _ _ hm hesc
  · exact hm

theorem State.cueFeed_keeps {s0 : State} {s : State} (esc : State → Flt → State) (f : Nat) (ch : Nat) (hs : Keeps s0 s)
    (hesc : ∀ s f, Keeps s0 s → Keeps s0 (esc s f)) : Keeps s0 (State.cueFeed s esc f ch) := by
  unfold State.cueFeed
  repeat' (first
    | (intro x; refine have_then (p := Keeps s0 x) ?_ ?_; (on_goal 2 => (intro hx; clear_value x)); (on_goal 1 => (subst x)))
    | (intro x; refine have_then (p := Keeps s0 x.1) ?_ ?_; (on_goal 2 => (intro hx; clear_value x)); (on_goal 1 => (subst x)))
    | (intro x; (have _y := (fun a => x a)); clear _y; subst x; (try beta_reduce))
    | (intro x; clear_value x)
    | (intro x; subst x)
    | lift_lets -underBinder
    | (with_reducible assumption)
    | (with_reducible apply hesc)
    | (with_reducible exact hesc)
    | (with_reducible apply State.addRf_keeps)
    | (with_reducible apply State.cueMissed_keeps)
    | (with_reducible apply State.feedWrite_keeps)
    | split
    | (with_reducible refine keeps_fst (by with_reducible assumption) ?_)
    | (with_reducible refine keeps_snd (by with_reducible assumption) ?_)
    | (with_reducible refine Keeps.update ?_)
    | (intro _ _; (try beta_reduce))
    | (intro _; (try beta_reduce)))

theorem State.cueShort_keeps {s0 : State} {s : State} (c : Nat) (act : State → State) (hs : Keeps s0 s) (hact : ∀ x, Keeps s0 x → Keeps s0 (act x)) :
    Keeps s0 (State.cueShort s c act) := by
  unfold State.cueShort
  repeat' (first
    | (with_reducible assumption)
    | (with_reducible apply State.cueMissed_keeps)
    | (with_reducible apply State.setCueBusy_keeps)
    | (with_reducible apply hact)
    | split
    | (with_reducible refine keeps_fst (by with_reducible assumption) ?_)
    | (with_reducible refine keeps_snd (by with_reducible assumption) ?_))

theorem State.txKick_keeps {s0 : State} {s : State} (p : Nat) (w : Nat) (hs : Keeps s0 s) :
    Keeps s0 (State.txKick s p w) := by
  unfold State.txKick
  repeat' (first
    | (with_reducible assumption)
    | (with_reducible refine Keeps.update ?_))

theorem State.deliverFrames_keeps {s0 : State} {s : State} (ch : Nat) (hs : Keeps s0 s) :
    Keeps s0 (State.deliverFrames s ch) := by
  unfold State.deliverFrames
  repeat' (first
    | (with_reducible assumption)
    | (with_reducible apply State.frameClose_keeps)
    | (with_reducible refine keeps_foldl ?_ (fun _ _ _ => ?_))
    | split
    | (with_reducible refine keeps_fst (by with_reducible assumption) ?_)
    | (with_reducible refine keeps_snd (by with_reducible assumption) ?_))

theorem State.deliverFeeders_keeps {s0 : State} {s : State} (esc : State → Flt → State) (ch : Nat) (hs : Keeps s0 s)
    (hesc : ∀ s f, Keeps s0 s → Keeps s0 (esc s f)) : Keeps s0 (State.deliverFeeders s esc ch) := by
  unfold State.deliverFeeders
  repeat' (first
    | (intro x; refine have_then (p := Keeps s0 x) ?_ ?_; (on_goal 2 => (intro hx; clear_value x)); (on_goal 1 => (subst x)))
    | (intro x; refine have_then (p := Keeps s0 x.1) ?_ ?_; (on_goal 2 => (intro hx; clear_value x)); (on_goal 1 => (subst x)))
    | (intro x; (have _y := (fun a => x a)); clear _y; subst x; (try beta_reduce))
    | (intro x; clear_value x)
    | (intro x; subst x)
    | lift_lets -underBinder
    | (with_reducible assumption)
    | (with_reducible apply hesc)
    | (with_reducible exact hesc)
    | (with_reducible apply State.cueFeed_keeps)
    | (with_reducible apply State.cueFeed_keeps)
    | (with_reducible refine keeps_foldl ?_ (fun _ _ _ => ?_))
    | (with_reducible refine keeps_foldl1 ?_ (fun _ _ _ => ?_))
    | split
    | (with_reducible refine keeps_fst (by with_reducible assumption) ?_)
    | (with_reducible refine keeps_snd (by with_reducible assumption) ?_)
    | (with_reducible refine Keeps.update ?_)
    | (intro _ _; (try beta_reduce))
    | (intro _; (try beta_reduce)))

theorem State.deliverGroup_keeps {s0 : State} {s : State} (ch : Nat) (g : Nat) (hs : Keeps s0 s) :
    Keeps s0 (State.deliverGroup s ch g) := by
  unfold State.deliverGroup
  repeat' (first
    | (intro x; refine have_then (p := Keeps s0 x) ?_ ?_; (on_goal 2 => (intro hx; clear_value x)); (on_goal 1 => (subst x)))
    | (intro x; refine have_then (p := Keeps s0 x.1) ?_ ?_; (on_goal 2 => (intro hx; clear_value x)); (on_goal 1 => (subst x)))
    | (intro x; (have _y := (fun a => x a)); clear _y; subst x; (try beta_reduce))
    | (intro x; clear_value x)
    | (intro x; subst x)
    | lift_lets -underBinder
    | (with_reducible assumption)
    | (with_reducible apply State.takeFree_keeps)
    | (with_reducible apply State.setGroup_keeps)
    | (with_reducible apply State.cueShort_keeps)
    | split
    | (with_reducible refine keeps_fst (by with_reducible assumption) ?_)
    | (with_reducible refine keeps_snd (by with_reducible assumption) ?_)
    | (with_reducible refine Keeps.update ?_)
    | (intro _ _; (try beta_reduce))
    | (intro _; (try beta_reduce)))

theorem State.deliverRest_keeps {s0 : State} {s : State} (ch : Nat) (hs : Keeps s0 s) :
    Keeps s0 (State.deliverRest s ch) := by
  unfold State.deliverRest
  repeat' (first
    | (intro x; refine have_then (p := Keeps s0 x) ?_ ?_; (on_goal 2 => (intro hx; clear_value x)); (on_goal 1 => (subst x)))
    | (intro x; refine have_then (p := Keeps s0 x.1) ?_ ?_; (on_goal 2 => (intro hx; clear_value x)); (on_goal 1 => (subst x)))
    | (intro x; (have _y := (fun a => x a)); clear _y; subst x; (try beta_reduce))
    | (intro x; clear_value x)
    | (intro x; subst x)
    | lift_lets -underBinder
    | (with_reducible assumption)
    | (with_reducible apply State.cueMissed_keeps)
    | (with_reducible apply State.arcCue_keeps)
    | (with_reducible apply State.cueOut_keeps)
    | (with_reducible apply State.cueShort_keeps)
    | (with_reducible apply State.txKick_keeps)
    | (with_reducible apply State.deliverGroup_keeps)
    | (with_reducible refine keeps_foldl ?_ (fun _ _ _ => ?_))
    | (with_reducible refine keeps_foldl1 ?_ (fun _ _ _ => ?_))
    | split
    | (with_reducible refine keeps_fst (by with_reducible assumption) ?_)
    | (with_reducible refine keeps_snd (by with_reducible assumption) ?_)
    | (with_reducible refine Keeps.update ?_)
    | (intro _ _; (try beta_reduce))
    | (intro _; (try beta_reduce)))

theorem State.deliver_keeps {s0 : State} {s : State} (esc : State → Flt → State) (ch : Nat) (hs : Keeps s0 s)
    (hesc : ∀ s f, Keeps s0 s → Keeps s0 (esc s f)) : Keeps s0 (State.deliver s esc ch) := by
  unfold State.deliver
  repeat' (first
    | (intro x; refine have_then (p := Keeps s0 x) ?_ ?_; (on_goal 2 => (intro hx; clear_value x)); (on_goal 1 => (subst x)))
    | (intro x; refine have_then (p := Keeps s0 x.1) ?_ ?_; (on_goal 2 => (intro hx; clear_value x)); (on_goal 1 => (subst x)))
    | (intro x; (have _y := (fun a => x a)); clear _y; subst x; (try beta_reduce))
    | (intro x; clear_value x)
    | (intro x; subst x)
    | lift_lets -underBinder
    | (with_reducible assumption)
    | (with_reducible apply hesc)
    | (with_reducible exact hesc)
    | (with_reducible apply State.takeFree_keeps)
    | (with_reducible apply State.arrive_keeps)
    | (with_reducible apply State.deliverFrames_keeps)
    | (with_reducible apply State.deliverFeeders_keeps)
    | (with_reducible apply State.deliverRest_keeps)
    | (with_reducible apply State.deliverFeeders_keeps)
    | split
    | (with_reducible refine keeps_fst (by with_reducible assumption) ?_)
    | (with_reducible refine keeps_snd (by with_reducible assumption) ?_)
    | (with_reducible refine Keeps.update ?_)
    | (intro _ _; (try beta_reduce))
    | (intro _; (try beta_reduce)))

theorem State.rateRoll_keeps {s0 : State} {s : State} (hs : Keeps s0 s) :
    Keeps s0 (State.rateRoll s) := by
  unfold State.rateRoll
  repeat' (first
    | (intro x; refine have_then (p := Keeps s0 x) ?_ ?_; (on_goal 2 => (intro hx; clear_value x)); (on_goal 1 => (subst x)))
    | (intro x; refine have_then (p := Keeps s0 x.1) ?_ ?_; (on_goal 2 => (intro hx; clear_value x)); (on_goal 1 => (subst x)))
    | (intro x; (have _y := (fun a => x a)); clear _y; subst x; (try beta_reduce))
    | (intro x; clear_value x)
    | (intro x; subst x)
    | lift_lets -underBinder
    | (with_reducible assumption)
    | split
    | (with_reducible refine keeps_fst (by with_reducible assumption) ?_)
    | (with_reducible refine keeps_snd (by with_reducible assumption) ?_)
    | (with_reducible refine Keeps.update ?_)
    | (intro _ _; (try beta_reduce))
    | (intro _; (try beta_reduce)))

theorem State.rateCheck_keeps {s0 : State} {s : State} (ch : Nat) (hs : Keeps s0 s) :
    Keeps s0 (State.rateCheck s ch) := by
  unfold State.rateCheck
  repeat' (first
    | (intro x; refine have_then (p := Keeps s0 x) ?_ ?_; (on_goal 2 => (intro hx; clear_value x)); (on_goal 1 => (subst x)))
    | (intro x; clear_value x)
    | (intro x; subst x)
    | lift_lets -underBinder
    | (with_reducible assumption)
    | (with_reducible apply State.setRf_keeps)
    | (with_reducible apply State.flt_keeps)
    | (with_reducible apply State.setGroup_keeps)
    | split
    | (with_reducible refine keeps_fst (by with_reducible assumption) ?_)
    | (with_reducible refine keeps_snd (by with_reducible assumption) ?_))

theorem State.fireDecide_keeps {s0 : State} {s : State} (esc : State → Flt → State) (ch : Nat) (hs : Keeps s0 s)
    (hesc : ∀ s f, Keeps s0 s → Keeps s0 (esc s f)) : Keeps s0 (State.fireDecide s esc ch) := by
  unfold State.fireDecide
  repeat' (first
    | (intro x; refine have_then (p := Keeps s0 x) ?_ ?_; (on_goal 2 => (intro hx; clear_value x)); (on_goal 1 => (subst x)))
    | (intro x; refine have_then (p := Keeps s0 x.1) ?_ ?_; (on_goal 2 => (intro hx; clear_value x)); (on_goal 1 => (subst x)))
    | (intro x; (have _y := (fun a => x a)); clear _y; subst x; (try beta_reduce))
    | (intro x; clear_value x)
    | (intro x; subst x)
    | lift_lets -underBinder
    | (with_reducible assumption)
    | (with_reducible apply hesc)
    | (with_reducible exact hesc)
    | (with_reducible apply State.addRf_keeps)
    | (with_reducible apply State.satRf_keeps)
    | (with_reducible apply State.deliver_keeps)
    | (with_reducible apply State.deliver_keeps)
    | split
    | (with_reducible refine keeps_fst (by with_reducible assumption) ?_)
    | (with_reducible refine keeps_snd (by with_reducible assumption) ?_)
    | (with_reducible refine Keeps.update ?_)
    | (intro _ _; (try beta_reduce))
    | (intro _; (try beta_reduce)))

theorem State.alarmPulse_keeps {s0 : State} {s : State} (hs : Keeps s0 s) :
    Keeps s0 (State.alarmPulse s) := by
  unfold State.alarmPulse
  repeat' (first
    | (intro x; refine have_then (p := Keeps s0 x) ?_ ?_; (on_goal 2 => (intro hx; clear_value x)); (on_goal 1 => (subst x)))
    | (intro x; clear_value x)
    | (intro x; subst x)
    | lift_lets -underBinder
    | (with_reducible assumption)
    | (with_reducible apply State.addRf_keeps)
    | (with_reducible apply State.setRf_keeps)
    | split
    | (with_reducible refine keeps_fst (by with_reducible assumption) ?_)
    | (with_reducible refine keeps_snd (by with_reducible assumption) ?_)
    | (with_reducible refine Keeps.update ?_))

theorem State.fireWith_keeps {s0 : State} {s : State} (esc : State → Flt → State) (ch : Nat) (hs : Keeps s0 s)
    (hesc : ∀ s f, Keeps s0 s → Keeps s0 (esc s f)) : Keeps s0 (State.fireWith s esc ch) := by
  unfold State.fireWith
  repeat' (first
    | (intro x; refine have_then (p := Keeps s0 x) ?_ ?_; (on_goal 2 => (intro hx; clear_value x)); (on_goal 1 => (subst x)))
    | (intro x; refine have_then (p := Keeps s0 x.1) ?_ ?_; (on_goal 2 => (intro hx; clear_value x)); (on_goal 1 => (subst x)))
    | (intro x; (have _y := (fun a => x a)); clear _y; subst x; (try beta_reduce))
    | (intro x; clear_value x)
    | (intro x; subst x)
    | lift_lets -underBinder
    | (with_reducible assumption)
    | (with_reducible apply hesc)
    | (with_reducible exact hesc)
    | (with_reducible apply State.rateRoll_keeps)
    | (with_reducible apply State.rateCheck_keeps)
    | (with_reducible apply State.fireDecide_keeps)
    | (with_reducible apply State.fireDecide_keeps)
    | split
    | (with_reducible refine keeps_fst (by with_reducible assumption) ?_)
    | (with_reducible refine keeps_snd (by with_reducible assumption) ?_)
    | (with_reducible refine Keeps.update ?_)
    | (intro _ _; (try beta_reduce))
    | (intro _; (try beta_reduce)))

theorem State.escalateWith_keeps {s0 : State} {s : State} (esc : State → Flt → State) (f : Flt) (hs : Keeps s0 s)
    (hesc : ∀ s f, Keeps s0 s → Keeps s0 (esc s f)) : Keeps s0 (State.escalateWith s esc f) := by
  unfold State.escalateWith
  exact ite_keeps (State.alarmPulse_keeps (State.fireWith_keeps esc 249 hs hesc)) (State.fireWith_keeps esc 249 hs hesc)

theorem State.fire_keeps {s0 : State} {s : State} (ch : Nat) (hs : Keeps s0 s) : Keeps s0 (State.fire s ch) :=
  State.fireWith_keeps _ ch hs fun _ f h => State.escalateWith_keeps _ f h fun _ _ h => h

theorem State.escalate_keeps {s0 : State} {s : State} (f : Flt) (hs : Keeps s0 s) : Keeps s0 (State.escalate s f) :=
  State.escalateWith_keeps _ f hs fun _ f h => State.escalateWith_keeps _ f h fun _ _ h => h

theorem State.raise_keeps {s0 : State} {s : State} (f : Flt) (hs : Keeps s0 s) :
    Keeps s0 (State.raise s f) := by
  unfold State.raise
  repeat' (first
    | (intro x; refine have_then (p := Keeps s0 x) ?_ ?_; (on_goal 2 => (intro hx; clear_value x)); (on_goal 1 => (subst x)))
    | (intro x; refine have_then (p := Keeps s0 x.1) ?_ ?_; (on_goal 2 => (intro hx; clear_value x)); (on_goal 1 => (subst x)))
    | (intro x; (have _y := (fun a => x a)); clear _y; subst x; (try beta_reduce))
    | (intro x; clear_value x)
    | (intro x; subst x)
    | lift_lets -underBinder
    | (with_reducible assumption)
    | (with_reducible apply State.fire_keeps)
    | (with_reducible apply State.alarmPulse_keeps)
    | (with_reducible apply State.fltCore_keeps)
    | (with_reducible apply State.escalate_keeps)
    | split
    | (with_reducible refine keeps_fst (by with_reducible assumption) ?_)
    | (with_reducible refine keeps_snd (by with_reducible assumption) ?_)
    | (with_reducible refine Keeps.update ?_)
    | (intro _ _; (try beta_reduce))
    | (intro _; (try beta_reduce)))

theorem State.rateWindow_keeps {s0 : State} {s : State} (hs : Keeps s0 s) : Keeps s0 (State.rateWindow s) := by
  unfold State.rateWindow
  repeat' (first
    | (with_reducible assumption)
    | (with_reducible apply State.rateRoll_keeps))

theorem State.timerExpiry_keeps {s0 : State} {s : State} (t : Nat) (hs : Keeps s0 s) :
    Keeps s0 (State.timerExpiry s t) := by
  unfold State.timerExpiry
  repeat' (first
    | (intro x; refine have_then (p := Keeps s0 x) ?_ ?_; (on_goal 2 => (intro hx; clear_value x)); (on_goal 1 => (subst x)))
    | (intro x; clear_value x)
    | (intro x; subst x)
    | lift_lets -underBinder
    | (with_reducible assumption)
    | (with_reducible apply State.fire_keeps)
    | split
    | (with_reducible refine keeps_fst (by with_reducible assumption) ?_)
    | (with_reducible refine keeps_snd (by with_reducible assumption) ?_)
    | (with_reducible refine Keeps.update ?_))

theorem State.setActiveAt_keeps {s0 : State} {s : State} (i : Nat) (t : Option Nat) (hs : Keeps s0 s) :
    Keeps s0 (State.setActiveAt s i t) := by
  unfold State.setActiveAt
  repeat' (first
    | (with_reducible assumption)
    | (with_reducible refine Keeps.update ?_))

theorem State.setStuckWait_keeps {s0 : State} {s : State} (i : Nat) (b : Bool) (hs : Keeps s0 s) :
    Keeps s0 (State.setStuckWait s i b) := by
  unfold State.setStuckWait
  repeat' (first
    | (with_reducible assumption)
    | (with_reducible refine Keeps.update ?_))

theorem State.pinAttempt_keeps {s0 : State} {s : State} (i : Nat) (hs : Keeps s0 s) :
    Keeps s0 (State.pinAttempt s i) := by
  unfold State.pinAttempt
  repeat' (first
    | (intro x; refine have_then (p := Keeps s0 x) ?_ ?_; (on_goal 2 => (intro hx; clear_value x)); (on_goal 1 => (subst x)))
    | (intro x; refine have_then (p := Keeps s0 x.1) ?_ ?_; (on_goal 2 => (intro hx; clear_value x)); (on_goal 1 => (subst x)))
    | (intro x; (have _y := (fun a => x a)); clear _y; subst x; (try beta_reduce))
    | (intro x; clear_value x)
    | (intro x; subst x)
    | lift_lets -underBinder
    | (with_reducible assumption)
    | (with_reducible apply State.fire_keeps)
    | split
    | (with_reducible refine keeps_fst (by with_reducible assumption) ?_)
    | (with_reducible refine keeps_snd (by with_reducible assumption) ?_)
    | (with_reducible refine Keeps.update ?_)
    | (intro _ _; (try beta_reduce))
    | (intro _; (try beta_reduce)))

theorem State.pinActivate_keeps {s0 : State} {s : State} (i : Nat) (hs : Keeps s0 s) :
    Keeps s0 (State.pinActivate s i) := by
  unfold State.pinActivate
  repeat' (first
    | (intro x; refine have_then (p := Keeps s0 x) ?_ ?_; (on_goal 2 => (intro hx; clear_value x)); (on_goal 1 => (subst x)))
    | (intro x; refine have_then (p := Keeps s0 x.1) ?_ ?_; (on_goal 2 => (intro hx; clear_value x)); (on_goal 1 => (subst x)))
    | (intro x; (have _y := (fun a => x a)); clear _y; subst x; (try beta_reduce))
    | (intro x; clear_value x)
    | (intro x; subst x)
    | lift_lets -underBinder
    | (with_reducible assumption)
    | (with_reducible apply State.fire_keeps)
    | (with_reducible apply State.setRf_keeps)
    | (with_reducible apply State.addRf_keeps)
    | (with_reducible apply State.setActiveAt_keeps)
    | (with_reducible apply State.pinAttempt_keeps)
    | split
    | (with_reducible refine keeps_fst (by with_reducible assumption) ?_)
    | (with_reducible refine keeps_snd (by with_reducible assumption) ?_)
    | (with_reducible refine Keeps.update ?_)
    | (intro _ _; (try beta_reduce))
    | (intro _; (try beta_reduce)))

theorem State.pinDeactivate_keeps {s0 : State} {s : State} (i : Nat) (hs : Keeps s0 s) :
    Keeps s0 (State.pinDeactivate s i) := by
  unfold State.pinDeactivate
  repeat' (first
    | (intro x; refine have_then (p := Keeps s0 x) ?_ ?_; (on_goal 2 => (intro hx; clear_value x)); (on_goal 1 => (subst x)))
    | (intro x; clear_value x)
    | (intro x; subst x)
    | lift_lets -underBinder
    | (with_reducible assumption)
    | (with_reducible apply State.setRf_keeps)
    | (with_reducible apply State.setActiveAt_keeps)
    | (with_reducible apply State.setStuckWait_keeps)
    | split
    | (with_reducible refine keeps_fst (by with_reducible assumption) ?_)
    | (with_reducible refine keeps_snd (by with_reducible assumption) ?_)
    | (with_reducible refine Keeps.update ?_))

theorem State.pinRepeat_keeps {s0 : State} {s : State} (i : Nat) (hs : Keeps s0 s) :
    Keeps s0 (State.pinRepeat s i) := by
  unfold State.pinRepeat
  repeat' (first
    | (intro x; refine have_then (p := Keeps s0 x) ?_ ?_; (on_goal 2 => (intro hx; clear_value x)); (on_goal 1 => (subst x)))
    | (intro x; refine have_then (p := Keeps s0 x.1) ?_ ?_; (on_goal 2 => (intro hx; clear_value x)); (on_goal 1 => (subst x)))
    | (intro x; (have _y := (fun a => x a)); clear _y; subst x; (try beta_reduce))
    | (intro x; clear_value x)
    | (intro x; subst x)
    | lift_lets -underBinder
    | (with_reducible assumption)
    | (with_reducible apply State.fire_keeps)
    | (with_reducible apply State.pinAttempt_keeps)
    | split
    | (with_reducible refine keeps_fst (by with_reducible assumption) ?_)
    | (with_reducible refine keeps_snd (by with_reducible assumption) ?_)
    | (with_reducible refine Keeps.update ?_)
    | (intro _ _; (try beta_reduce))
    | (intro _; (try beta_reduce)))

theorem State.pinStuck_keeps {s0 : State} {s : State} (i : Nat) (hs : Keeps s0 s) :
    Keeps s0 (State.pinStuck s i) := by
  unfold State.pinStuck
  repeat' (first
    | (with_reducible assumption)
    | (with_reducible apply State.setRf_keeps)
    | (with_reducible apply State.setStuckWait_keeps)
    | (with_reducible apply State.flt_keeps)
    | split
    | (with_reducible refine keeps_fst (by with_reducible assumption) ?_)
    | (with_reducible refine keeps_snd (by with_reducible assumption) ?_))

theorem State.pincfgPost_keeps {s0 : State} {s : State} (i : Nat) (old : Word) (hs : Keeps s0 s) :
    Keeps s0 (State.pincfgPost s i old) := by
  unfold State.pincfgPost
  repeat' (first
    | (intro x; refine have_then (p := Keeps s0 x) ?_ ?_; (on_goal 2 => (intro hx; clear_value x)); (on_goal 1 => (subst x)))
    | (intro x; refine have_then (p := Keeps s0 x.1) ?_ ?_; (on_goal 2 => (intro hx; clear_value x)); (on_goal 1 => (subst x)))
    | (intro x; (have _y := (fun a => x a)); clear _y; subst x; (try beta_reduce))
    | (intro x; clear_value x)
    | (intro x; subst x)
    | lift_lets -underBinder
    | (with_reducible assumption)
    | (with_reducible apply State.fire_keeps)
    | (with_reducible apply State.setRf_keeps)
    | (with_reducible apply State.setActiveAt_keeps)
    | (with_reducible apply State.setStuckWait_keeps)
    | (with_reducible apply State.pinAttempt_keeps)
    | split
    | (with_reducible refine keeps_fst (by with_reducible assumption) ?_)
    | (with_reducible refine keeps_snd (by with_reducible assumption) ?_)
    | (with_reducible refine Keeps.update ?_)
    | (intro _ _; (try beta_reduce))
    | (intro _; (try beta_reduce)))

theorem State.pulseEnd_keeps {s0 : State} {s : State} (o : Nat) (hs : Keeps s0 s) : Keeps s0 (State.pulseEnd s o) := by
  unfold State.pulseEnd
  repeat' (first
    | (with_reducible assumption)
    | (with_reducible apply State.setRf_keeps)
    | split
    | (with_reducible refine keeps_fst (by with_reducible assumption) ?_)
    | (with_reducible refine keeps_snd (by with_reducible assumption) ?_)
    | (with_reducible refine Keeps.update ?_))

theorem State.outcfgPost_keeps {s0 : State} {s : State} (o : Nat) (hs : Keeps s0 s) : Keeps s0 (State.outcfgPost s o) := by
  unfold State.outcfgPost
  repeat' (first
    | (intro x; refine have_then (p := Keeps s0 x) ?_ ?_; (on_goal 2 => (intro hx; clear_value x)); (on_goal 1 => (subst x)))
    | (intro x; refine have_then (p := Keeps s0 x.1) ?_ ?_; (on_goal 2 => (intro hx; clear_value x)); (on_goal 1 => (subst x)))
    | (intro x; (have _y := (fun a => x a)); clear _y; subst x; (try beta_reduce))
    | (intro x; clear_value x)
    | (intro x; subst x)
    | lift_lets -underBinder
    | (with_reducible assumption)
    | (with_reducible apply State.setRf_keeps)
    | split
    | (with_reducible refine keeps_fst (by with_reducible assumption) ?_)
    | (with_reducible refine keeps_snd (by with_reducible assumption) ?_)
    | (with_reducible refine Keeps.update ?_))

theorem State.alarmEndPulse_keeps {s0 : State} {s : State} (hs : Keeps s0 s) :
    Keeps s0 (State.alarmEndPulse s) := by
  unfold State.alarmEndPulse
  repeat' (first
    | (intro x; refine have_then (p := Keeps s0 x) ?_ ?_; (on_goal 2 => (intro hx; clear_value x)); (on_goal 1 => (subst x)))
    | (intro x; clear_value x)
    | (intro x; subst x)
    | lift_lets -underBinder
    | (with_reducible assumption)
    | (with_reducible apply State.setRf_keeps)
    | split
    | (with_reducible refine keeps_fst (by with_reducible assumption) ?_)
    | (with_reducible refine keeps_snd (by with_reducible assumption) ?_)
    | (with_reducible refine Keeps.update ?_))

theorem State.cueFireReg_keeps {s0 : State} {s : State} (w : Nat) (ch : Nat) (src : Nat) (hs : Keeps s0 s) :
    Keeps s0 (State.cueFireReg s w ch src) := by
  unfold State.cueFireReg
  repeat' (first
    | (with_reducible assumption)
    | (with_reducible apply State.flt_keeps)
    | (with_reducible apply State.fire_keeps)
    | split
    | (with_reducible refine keeps_fst (by with_reducible assumption) ?_)
    | (with_reducible refine keeps_snd (by with_reducible assumption) ?_))

theorem State.grpWrite_keeps {s0 : State} {s : State} (groups : Nat) (on : Bool) (hs : Keeps s0 s) :
    Keeps s0 (State.grpWrite s groups on) := by
  unfold State.grpWrite
  repeat' (first
    | (with_reducible assumption)
    | (with_reducible apply State.setGroup_keeps)
    | (with_reducible refine keeps_foldl ?_ (fun _ _ _ => ?_))
    | split
    | (with_reducible refine keeps_fst (by with_reducible assumption) ?_)
    | (with_reducible refine keeps_snd (by with_reducible assumption) ?_))

end Sys2Proof.Machine
end

