-- ==== Sys2Proof/Laws/KeepsMemory.lean ====
section
/-!
SUPPORT. What the operations of Machine/Memory.lean keep.
-/
namespace Sys2Proof.Machine

theorem State.setHb_keeps {s0 : State} {s : State} (k : Nat) (x : HbcSt) (hs : Keeps s0 s) :
    Keeps s0 (State.setHb s k x) := by
  unfold State.setHb
  repeat' (first
    | (with_reducible assumption)
    | (with_reducible refine Keeps.update ?_))

theorem State.hbmTemp_keeps {s0 : State} {s : State} (k : Nat) (temp : Nat) (valid : Bool) (hs : Keeps s0 s) :
    Keeps s0 (State.hbmTemp s k temp valid) := by
  unfold State.hbmTemp
  repeat' (first
    | (intro x; refine have_then (p := Keeps s0 x) ?_ ?_; (on_goal 2 => (intro hx; clear_value x)); (on_goal 1 => (subst x)))
    | (intro x; (have _y := (fun a => x a)); clear _y; subst x; (try beta_reduce))
    | (intro x; clear_value x)
    | (intro x; subst x)
    | lift_lets -underBinder
    | (with_reducible assumption)
    | (with_reducible apply State.setRf_keeps)
    | (with_reducible apply State.setHb_keeps)
    | (with_reducible apply State.flt_keeps)
    | split
    | (with_reducible refine keeps_fst (by with_reducible assumption) ?_)
    | (with_reducible refine keeps_snd (by with_reducible assumption) ?_)
    | (with_reducible refine Keeps.update ?_))

theorem State.bandReturn_keeps {s0 : State} {s : State} (k : Nat) (hs : Keeps s0 s) :
    Keeps s0 (State.bandReturn s k) := by
  unfold State.bandReturn
  repeat' (first
    | (intro x; refine have_then (p := Keeps s0 x) ?_ ?_; (on_goal 2 => (intro hx; clear_value x)); (on_goal 1 => (subst x)))
    | (intro x; (have _y := (fun a => x a)); clear _y; subst x; (try beta_reduce))
    | (intro x; clear_value x)
    | (intro x; subst x)
    | lift_lets -underBinder
    | (with_reducible assumption)
    | (with_reducible apply State.setRf_keeps)
    | split
    | (with_reducible refine keeps_fst (by with_reducible assumption) ?_)
    | (with_reducible refine keeps_snd (by with_reducible assumption) ?_))

theorem State.candidate_keeps {s0 : State} {s : State} (k : Nat) (r : Nat × Nat) (hs : Keeps s0 s) :
    Keeps s0 (State.candidate s k r) := by
  unfold State.candidate
  repeat' (first
    | (intro x; refine have_then (p := Keeps s0 x) ?_ ?_; (on_goal 2 => (intro hx; clear_value x)); (on_goal 1 => (subst x)))
    | (intro x; clear_value x)
    | (intro x; subst x)
    | lift_lets -underBinder
    | (with_reducible assumption)
    | (with_reducible apply State.setHb_keeps)
    | split
    | (with_reducible refine keeps_fst (by with_reducible assumption) ?_)
    | (with_reducible refine keeps_snd (by with_reducible assumption) ?_)
    | (with_reducible refine Keeps.update ?_))

theorem State.weaken_keeps {s0 : State} {s : State} (k : Nat) (r : Nat × Nat) (hs : Keeps s0 s) :
    Keeps s0 (State.weaken s k r) := by
  unfold State.weaken
  repeat' (first
    | (intro x; refine have_then (p := Keeps s0 x) ?_ ?_; (on_goal 2 => (intro hx; clear_value x)); (on_goal 1 => (subst x)))
    | (intro x; clear_value x)
    | (intro x; subst x)
    | lift_lets -underBinder
    | (with_reducible assumption)
    | (with_reducible apply State.setHb_keeps)
    | (with_reducible apply State.candidate_keeps)
    | (with_reducible apply State.flt_keeps)
    | split
    | (with_reducible refine keeps_fst (by with_reducible assumption) ?_)
    | (with_reducible refine keeps_snd (by with_reducible assumption) ?_)
    | (with_reducible refine Keeps.update ?_))

theorem State.hbmUe_keeps {s0 : State} {s : State} (a : Nat) (hs : Keeps s0 s) :
    Keeps s0 (State.hbmUe s a) := by
  unfold State.hbmUe
  repeat' (first
    | (intro x; refine have_then (p := Keeps s0 x) ?_ ?_; (on_goal 2 => (intro hx; clear_value x)); (on_goal 1 => (subst x)))
    | (intro x; clear_value x)
    | (intro x; subst x)
    | lift_lets -underBinder
    | (with_reducible assumption)
    | (with_reducible apply State.satRf_keeps)
    | (with_reducible apply State.candidate_keeps)
    | (with_reducible apply State.raise_keeps)
    | split
    | (with_reducible refine keeps_fst (by with_reducible assumption) ?_)
    | (with_reducible refine keeps_snd (by with_reducible assumption) ?_))

theorem State.hbmCe_keeps {s0 : State} {s : State} (a : Nat) (hs : Keeps s0 s) :
    Keeps s0 (State.hbmCe s a) := by
  unfold State.hbmCe
  repeat' (first
    | (intro x; refine have_then (p := Keeps s0 x) ?_ ?_; (on_goal 2 => (intro hx; clear_value x)); (on_goal 1 => (subst x)))
    | (intro x; clear_value x)
    | (intro x; subst x)
    | lift_lets -underBinder
    | (with_reducible assumption)
    | (with_reducible apply State.satRf_keeps)
    | (with_reducible apply State.weaken_keeps)
    | (with_reducible apply State.setHb_keeps)
    | split
    | (with_reducible refine keeps_fst (by with_reducible assumption) ?_)
    | (with_reducible refine keeps_snd (by with_reducible assumption) ?_)
    | (with_reducible refine Keeps.update ?_))

theorem State.hbmScrub_keeps {s0 : State} {s : State} (p : Nat) (g : Nat) (found : MemErr) (hs : Keeps s0 s) :
    Keeps s0 (State.hbmScrub s p g found) := by
  unfold State.hbmScrub
  repeat' (first
    | (intro x; refine have_then (p := Keeps s0 x) ?_ ?_; (on_goal 2 => (intro hx; clear_value x)); (on_goal 1 => (subst x)))
    | (intro x; refine have_then (p := Keeps s0 x.1) ?_ ?_; (on_goal 2 => (intro hx; clear_value x)); (on_goal 1 => (subst x)))
    | (intro x; (have _y := (fun a => x a)); clear _y; subst x; (try beta_reduce))
    | (intro x; clear_value x)
    | (intro x; subst x)
    | lift_lets -underBinder
    | (with_reducible assumption)
    | (with_reducible apply State.setBad_keeps)
    | (with_reducible apply State.takeFree_keeps)
    | (with_reducible apply State.addRf_keeps)
    | (with_reducible apply State.satRf_keeps)
    | (with_reducible apply State.setHb_keeps)
    | (with_reducible apply State.weaken_keeps)
    | (with_reducible apply State.hbmUe_keeps)
    | (with_reducible refine keeps_foldl ?_ (fun _ _ _ => ?_))
    | (with_reducible refine keeps_foldl1 ?_ (fun _ _ _ => ?_))
    | split
    | (with_reducible refine keeps_fst (by with_reducible assumption) ?_)
    | (with_reducible refine keeps_snd (by with_reducible assumption) ?_)
    | (with_reducible refine Keeps.update ?_)
    | (intro _ _; (try beta_reduce))
    | (intro _; (try beta_reduce)))

theorem State.setRet_keeps {s0 : State} {s : State} (k : Nat) (i : Nat) (x : Nat × Nat) (hs : Keeps s0 s) :
    Keeps s0 (State.setRet s k i x) := by
  unfold State.setRet
  repeat' (first
    | (with_reducible assumption)
    | (with_reducible refine Keeps.update ?_))

theorem State.listPage_keeps {s0 : State} {s : State} (k : Nat) (a : Nat) (hs : Keeps s0 s) :
    Keeps s0 (State.listPage s k a) := by
  unfold State.listPage
  repeat' (first
    | (intro x; refine have_then (p := Keeps s0 x) ?_ ?_; (on_goal 2 => (intro hx; clear_value x)); (on_goal 1 => (subst x)))
    | (intro x; (have _y := (fun a => x a)); clear _y; subst x; (try beta_reduce))
    | (intro x; clear_value x)
    | (intro x; subst x)
    | lift_lets -underBinder
    | (with_reducible assumption)
    | (with_reducible apply State.setRet_keeps)
    | (with_reducible apply State.flt_keeps)
    | split
    | (with_reducible refine keeps_fst (by with_reducible assumption) ?_)
    | (with_reducible refine keeps_snd (by with_reducible assumption) ?_))

theorem State.retireRow_keeps {s0 : State} {s : State} (k : Nat) (r : Nat × Nat) (hs : Keeps s0 s) :
    Keeps s0 (State.retireRow s k r) := by
  unfold State.retireRow
  repeat' (first
    | (with_reducible assumption)
    | (with_reducible apply State.listPage_keeps)
    | (with_reducible refine keeps_foldl ?_ (fun _ _ _ => ?_)))

theorem State.repairRow_keeps {s0 : State} {s : State} (k : Nat) (r : Nat × Nat) (soft : Bool) (hs : Keeps s0 s) :
    Keeps s0 (State.repairRow s k r soft) := by
  unfold State.repairRow
  repeat' (first
    | (intro x; refine have_then (p := Keeps s0 x) ?_ ?_; (on_goal 2 => (intro hx; clear_value x)); (on_goal 1 => (subst x)))
    | (intro x; (have _y := (fun a => x a)); clear _y; subst x; (try beta_reduce))
    | (intro x; clear_value x)
    | (intro x; subst x)
    | lift_lets -underBinder
    | (with_reducible assumption)
    | (with_reducible apply State.setHb_keeps)
    | (with_reducible apply State.takeFree_keeps)
    | (with_reducible apply State.addRf_keeps)
    | (with_reducible apply State.flt_keeps)
    | (with_reducible apply State.retireRow_keeps)
    | split
    | (with_reducible refine keeps_fst (by with_reducible assumption) ?_)
    | (with_reducible refine keeps_snd (by with_reducible assumption) ?_)
    | (with_reducible refine Keeps.update ?_))

theorem State.softRepair_keeps {s0 : State} {s : State} (k : Nat) (hs : Keeps s0 s) :
    Keeps s0 (State.softRepair s k) := by
  unfold State.softRepair
  repeat' (first
    | (with_reducible assumption)
    | (with_reducible apply State.repairRow_keeps)
    | split
    | (with_reducible refine keeps_fst (by with_reducible assumption) ?_)
    | (with_reducible refine keeps_snd (by with_reducible assumption) ?_))

theorem State.rehearseHbm_keeps {s0 : State} {s : State} (n : Nat) (k : Nat) (hs : Keeps s0 s) :
    Keeps s0 (State.rehearseHbm s n k) := by
  unfold State.rehearseHbm
  repeat' (first
    | (intro x; refine have_then (p := Keeps s0 x) ?_ ?_; (on_goal 2 => (intro hx; clear_value x)); (on_goal 1 => (subst x)))
    | (intro x; (have _y := (fun a => x a)); clear _y; subst x; (try beta_reduce))
    | (intro x; clear_value x)
    | (intro x; subst x)
    | lift_lets -underBinder
    | (with_reducible assumption)
    | (with_reducible apply State.weaken_keeps)
    | (with_reducible apply State.candidate_keeps)
    | (with_reducible apply State.addRf_keeps)
    | (with_reducible apply State.setHb_keeps)
    | (with_reducible apply State.repairRow_keeps)
    | (with_reducible refine keeps_foldl ?_ (fun _ _ _ => ?_))
    | split
    | (with_reducible refine keeps_fst (by with_reducible assumption) ?_)
    | (with_reducible refine keeps_snd (by with_reducible assumption) ?_)
    | (with_reducible refine Keeps.update ?_))

theorem State.retentSet_keeps {s0 : State} {s : State} (k : Nat) (st : Nat) (page : Nat) (hs : Keeps s0 s) :
    Keeps s0 (State.retentSet s k st page) := by
  unfold State.retentSet
  repeat' (first
    | (intro x; refine have_then (p := Keeps s0 x) ?_ ?_; (on_goal 2 => (intro hx; clear_value x)); (on_goal 1 => (subst x)))
    | (intro x; refine have_then (p := Keeps s0 x.1) ?_ ?_; (on_goal 2 => (intro hx; clear_value x)); (on_goal 1 => (subst x)))
    | (intro x; (have _y := (fun a => x a)); clear _y; subst x; (try beta_reduce))
    | (intro x; clear_value x)
    | (intro x; subst x)
    | lift_lets -underBinder
    | (with_reducible assumption)
    | (with_reducible apply State.locked_keeps)
    | (with_reducible apply State.setRet_keeps)
    | split
    | (with_reducible refine keeps_fst (by with_reducible assumption) ?_)
    | (with_reducible refine keeps_snd (by with_reducible assumption) ?_)
    | (with_reducible refine Keeps.update ?_))

theorem State.scpCe_keeps {s0 : State} {s : State} (a : Nat) (hs : Keeps s0 s) :
    Keeps s0 (State.scpCe s a) := by
  unfold State.scpCe
  repeat' (first
    | (intro x; refine have_then (p := Keeps s0 x) ?_ ?_; (on_goal 2 => (intro hx; clear_value x)); (on_goal 1 => (subst x)))
    | (intro x; clear_value x)
    | (intro x; subst x)
    | lift_lets -underBinder
    | (with_reducible assumption)
    | (with_reducible apply State.satRf_keeps)
    | (with_reducible apply State.bankWear_keeps)
    | split
    | (with_reducible refine keeps_fst (by with_reducible assumption) ?_)
    | (with_reducible refine keeps_snd (by with_reducible assumption) ?_)
    | (with_reducible refine Keeps.update ?_))

theorem State.scpUe_keeps {s0 : State} {s : State} (a : Nat) (hs : Keeps s0 s) :
    Keeps s0 (State.scpUe s a) := by
  unfold State.scpUe
  repeat' (first
    | (intro x; refine have_then (p := Keeps s0 x) ?_ ?_; (on_goal 2 => (intro hx; clear_value x)); (on_goal 1 => (subst x)))
    | (intro x; refine have_then (p := Keeps s0 x.1) ?_ ?_; (on_goal 2 => (intro hx; clear_value x)); (on_goal 1 => (subst x)))
    | (intro x; (have _y := (fun a => x a)); clear _y; subst x; (try beta_reduce))
    | (intro x; clear_value x)
    | (intro x; subst x)
    | lift_lets -underBinder
    | (with_reducible assumption)
    | (with_reducible apply State.satRf_keeps)
    | (with_reducible apply State.raise_keeps)
    | (with_reducible apply State.bankWear_keeps)
    | (with_reducible apply State.scpUeMark_keeps)
    | (with_reducible apply State.escalate_keeps)
    | split
    | (with_reducible refine keeps_fst (by with_reducible assumption) ?_)
    | (with_reducible refine keeps_snd (by with_reducible assumption) ?_)
    | (with_reducible refine Keeps.update ?_)
    | (intro _ _; (try beta_reduce))
    | (intro _; (try beta_reduce)))

theorem State.scrubRead_keeps {s0 : State} {s : State} (a : Nat) (found : MemErr) (hs : Keeps s0 s) :
    Keeps s0 (State.scrubRead s a found) := by
  unfold State.scrubRead
  repeat' (first
    | (intro x; refine have_then (p := Keeps s0 x) ?_ ?_; (on_goal 2 => (intro hx; clear_value x)); (on_goal 1 => (subst x)))
    | (intro x; refine have_then (p := Keeps s0 x.1) ?_ ?_; (on_goal 2 => (intro hx; clear_value x)); (on_goal 1 => (subst x)))
    | (intro x; (have _y := (fun a => x a)); clear _y; subst x; (try beta_reduce))
    | (intro x; clear_value x)
    | (intro x; subst x)
    | lift_lets -underBinder
    | (with_reducible assumption)
    | (with_reducible apply State.setBad_keeps)
    | (with_reducible apply State.setBad_keeps)
    | (with_reducible apply State.scpCe_keeps)
    | (with_reducible apply State.scpUe_keeps)
    | split
    | (with_reducible refine keeps_fst (by with_reducible assumption) ?_)
    | (with_reducible refine keeps_snd (by with_reducible assumption) ?_)
    | (with_reducible refine Keeps.update ?_)
    | (intro _ _; (try beta_reduce))
    | (intro _; (try beta_reduce)))

theorem State.scpScrub_keeps {s0 : State} {s : State} (word : Nat) (found : MemErr) (hs : Keeps s0 s) :
    Keeps s0 (State.scpScrub s word found) := by
  unfold State.scpScrub
  repeat' (first
    | (intro x; refine have_then (p := Keeps s0 x) ?_ ?_; (on_goal 2 => (intro hx; clear_value x)); (on_goal 1 => (subst x)))
    | (intro x; refine have_then (p := Keeps s0 x.1) ?_ ?_; (on_goal 2 => (intro hx; clear_value x)); (on_goal 1 => (subst x)))
    | (intro x; (have _y := (fun a => x a)); clear _y; subst x; (try beta_reduce))
    | (intro x; clear_value x)
    | (intro x; subst x)
    | lift_lets -underBinder
    | (with_reducible assumption)
    | (with_reducible apply State.scpUe_keeps)
    | (with_reducible apply State.scpCe_keeps)
    | (with_reducible apply State.setBad_keeps)
    | (with_reducible apply State.scrubRead_keeps)
    | split
    | (with_reducible refine keeps_fst (by with_reducible assumption) ?_)
    | (with_reducible refine keeps_snd (by with_reducible assumption) ?_)
    | (with_reducible refine Keeps.update ?_)
    | (intro _ _; (try beta_reduce))
    | (intro _; (try beta_reduce)))

theorem State.memUe_keeps {s0 : State} {s : State} (a : Nat) (hs : Keeps s0 s) :
    Keeps s0 (State.memUe s a) := by
  unfold State.memUe
  repeat' (first
    | (with_reducible assumption)
    | (with_reducible apply State.scpUe_keeps)
    | (with_reducible apply State.hbmUe_keeps)
    | split
    | (with_reducible refine keeps_fst (by with_reducible assumption) ?_)
    | (with_reducible refine keeps_snd (by with_reducible assumption) ?_))

theorem State.memCe_keeps {s0 : State} {s : State} (a : Nat) (hs : Keeps s0 s) :
    Keeps s0 (State.memCe s a) := by
  unfold State.memCe
  repeat' (first
    | (with_reducible assumption)
    | (with_reducible apply State.scpCe_keeps)
    | (with_reducible apply State.hbmCe_keeps)
    | split
    | (with_reducible refine keeps_fst (by with_reducible assumption) ?_)
    | (with_reducible refine keeps_snd (by with_reducible assumption) ?_))

theorem State.eccNote_keeps {s0 : State} {s : State} (a : Nat) (hs : Keeps s0 s) : Keeps s0 (State.eccNote s a) := by
  unfold State.eccNote
  repeat' (first
    | (intro x; refine have_then (p := Keeps s0 x) ?_ ?_; (on_goal 2 => (intro hx; clear_value x)); (on_goal 1 => (subst x)))
    | (intro x; refine have_then (p := Keeps s0 x.1) ?_ ?_; (on_goal 2 => (intro hx; clear_value x)); (on_goal 1 => (subst x)))
    | (intro x; (have _y := (fun a => x a)); clear _y; subst x; (try beta_reduce))
    | (intro x; clear_value x)
    | (intro x; subst x)
    | lift_lets -underBinder
    | (with_reducible assumption)
    | (with_reducible apply State.memUe_keeps)
    | split
    | (with_reducible refine keeps_fst (by with_reducible assumption) ?_)
    | (with_reducible refine keeps_snd (by with_reducible assumption) ?_)
    | (with_reducible refine Keeps.update ?_))

theorem State.writeNote_keeps {s0 : State} {s : State} (src : Nat) (e : MErr) (a : Nat) (hs : Keeps s0 s) :
    Keeps s0 (State.writeNote s src e a) := by
  unfold State.writeNote
  repeat' (first
    | (intro x; refine have_then (p := Keeps s0 x) ?_ ?_; (on_goal 2 => (intro hx; clear_value x)); (on_goal 1 => (subst x)))
    | (intro x; refine have_then (p := Keeps s0 x.1) ?_ ?_; (on_goal 2 => (intro hx; clear_value x)); (on_goal 1 => (subst x)))
    | (intro x; (have _y := (fun a => x a)); clear _y; subst x; (try beta_reduce))
    | (intro x; clear_value x)
    | (intro x; subst x)
    | lift_lets -underBinder
    | (with_reducible assumption)
    | (with_reducible apply State.mtxFrozen_keeps)
    | (with_reducible apply State.eccNote_keeps)
    | split
    | (with_reducible refine keeps_fst (by with_reducible assumption) ?_)
    | (with_reducible refine keeps_snd (by with_reducible assumption) ?_)
    | (with_reducible refine Keeps.update ?_))

theorem State.readMem_keeps {s0 : State} {s : State} (p : Paths) (v : View) (a : Nat) (n : Nat) (hs : Keeps s0 s) :
    Keeps s0 (State.readMem s p v a n).1 := by
  unfold State.readMem
  repeat' (first
    | (with_reducible assumption)
    | (with_reducible apply State.memUe_keeps)
    | split
    | (with_reducible refine keeps_fst (by with_reducible assumption) ?_)
    | (with_reducible refine keeps_snd (by with_reducible assumption) ?_))

theorem State.setCnt_keeps {s0 : State} {s : State} (k : Nat) (v : Nat) (hs : Keeps s0 s) :
    Keeps s0 (State.setCnt s k v) := by
  unfold State.setCnt
  repeat' (first
    | (with_reducible assumption)
    | (with_reducible refine Keeps.update ?_))

theorem State.setArb_keeps {s0 : State} {s : State} (cls : Nat) (idx : Nat) (x : ArbSt) (hs : Keeps s0 s) :
    Keeps s0 (State.setArb s cls idx x) := by
  unfold State.setArb
  repeat' (first
    | (with_reducible assumption)
    | (with_reducible refine Keeps.update ?_))

theorem State.arbWait_keeps {s0 : State} {s : State} (cls : Nat) (idx : Nat) (req : Nat) (m : Nat) (e : Nat) (tm :
    Nat) (te : Nat) (hs : Keeps s0 s) :
    Keeps s0 (State.arbWait s cls idx req m e tm te) := by
  unfold State.arbWait
  repeat' (first
    | (intro x; refine have_then (p := Keeps s0 x) ?_ ?_; (on_goal 2 => (intro hx; clear_value x)); (on_goal 1 => (subst x)))
    | (intro x; refine have_then (p := Keeps s0 x.1) ?_ ?_; (on_goal 2 => (intro hx; clear_value x)); (on_goal 1 => (subst x)))
    | (intro x; (have _y := (fun a => x a)); clear _y; subst x; (try beta_reduce))
    | (intro x; clear_value x)
    | (intro x; subst x)
    | lift_lets -underBinder
    | (with_reducible assumption)
    | (with_reducible apply State.setRf_keeps)
    | (with_reducible apply State.satRf_keeps)
    | (with_reducible apply State.setCnt_keeps)
    | split
    | (with_reducible refine keeps_fst (by with_reducible assumption) ?_)
    | (with_reducible refine keeps_snd (by with_reducible assumption) ?_))

theorem State.arbGrant_keeps {s0 : State} {s : State} (cls : Nat) (idx : Nat) (req : Nat) (waits : List (Nat × Nat × Nat)) (ce : Option Nat) (hs : Keeps s0 s) :
    Keeps s0 (State.arbGrant s cls idx req waits ce) := by
  unfold State.arbGrant
  repeat' (first
    | (intro x; refine have_then (p := Keeps s0 x) ?_ ?_; (on_goal 2 => (intro hx; clear_value x)); (on_goal 1 => (subst x)))
    | (intro x; refine have_then (p := Keeps s0 x.1) ?_ ?_; (on_goal 2 => (intro hx; clear_value x)); (on_goal 1 => (subst x)))
    | (intro x; (have _y := (fun a => x a)); clear _y; subst x; (try beta_reduce))
    | (intro x; clear_value x)
    | (intro x; subst x)
    | lift_lets -underBinder
    | (with_reducible assumption)
    | (with_reducible apply State.satRf_keeps)
    | (with_reducible apply State.memCe_keeps)
    | (with_reducible apply State.setCnt_keeps)
    | (with_reducible apply State.setArb_keeps)
    | (with_reducible apply State.arbWait_keeps)
    | (with_reducible refine keeps_foldl ?_ (fun _ _ _ => ?_))
    | (with_reducible refine keeps_foldl1 ?_ (fun _ _ _ => ?_))
    | split
    | (with_reducible refine keeps_fst (by with_reducible assumption) ?_)
    | (with_reducible refine keeps_snd (by with_reducible assumption) ?_)
    | (with_reducible refine Keeps.update ?_)
    | (intro _ _; (try beta_reduce))
    | (intro _; (try beta_reduce)))

end Sys2Proof.Machine
end

