-- ==== Sys2Proof/Laws/KeepsSeals.lean ====
section
/-!
SUPPORT. What the operations of Machine/Seals.lean keep.
-/
namespace Sys2Proof.Machine

theorem State.setSea_keeps {s0 : State} {s : State} (u : Nat) (x : SeaSt) (hs : Keeps s0 s) :
    Keeps s0 (State.setSea s u x) := by
  unfold State.setSea
  repeat' (first
    | (with_reducible assumption)
    | (with_reducible refine Keeps.update ?_))

theorem State.seaFeed_keeps {s0 : State} {s : State} (u : Nat) (bs : List Byte) (hs : Keeps s0 s) :
    Keeps s0 (State.seaFeed s u bs) := by
  unfold State.seaFeed
  repeat' (first
    | (intro x; refine have_then (p := Keeps s0 x) ?_ ?_; (on_goal 2 => (intro hx; clear_value x)); (on_goal 1 => (subst x)))
    | (intro x; clear_value x)
    | (intro x; subst x)
    | lift_lets -underBinder
    | (with_reducible assumption)
    | (with_reducible apply State.setSea_keeps)
    | (with_reducible apply State.setRf_keeps)
    | split
    | (with_reducible refine keeps_fst (by with_reducible assumption) ?_)
    | (with_reducible refine keeps_snd (by with_reducible assumption) ?_)
    | (with_reducible refine Keeps.update ?_))

theorem State.seaHold_keeps {s0 : State} {s : State} (u : Nat) (who : Nat) (code : Nat) (tag : Nat) (hs : Keeps s0 s) :
    Keeps s0 (State.seaHold s u who code tag) := by
  unfold State.seaHold
  repeat' (first
    | (intro x; refine have_then (p := Keeps s0 x) ?_ ?_; (on_goal 2 => (intro hx; clear_value x)); (on_goal 1 => (subst x)))
    | (intro x; clear_value x)
    | (intro x; subst x)
    | lift_lets -underBinder
    | (with_reducible assumption)
    | (with_reducible apply State.setSea_keeps)
    | (with_reducible apply State.setRf_keeps)
    | split
    | (with_reducible refine keeps_fst (by with_reducible assumption) ?_)
    | (with_reducible refine keeps_snd (by with_reducible assumption) ?_)
    | (with_reducible refine Keeps.update ?_))

theorem State.seaIdle_keeps {s0 : State} {s : State} (u : Nat) (hs : Keeps s0 s) :
    Keeps s0 (State.seaIdle s u) := by
  unfold State.seaIdle
  repeat' (first
    | (intro x; refine have_then (p := Keeps s0 x) ?_ ?_; (on_goal 2 => (intro hx; clear_value x)); (on_goal 1 => (subst x)))
    | (intro x; clear_value x)
    | (intro x; subst x)
    | lift_lets -underBinder
    | (with_reducible assumption)
    | (with_reducible apply State.setSea_keeps)
    | (with_reducible apply State.setRf_keeps)
    | split
    | (with_reducible refine keeps_fst (by with_reducible assumption) ?_)
    | (with_reducible refine keeps_snd (by with_reducible assumption) ?_))

theorem State.scanFault_keeps {s0 : State} {s : State} (u : Nat) (a : Nat) (hs : Keeps s0 s) :
    Keeps s0 (State.scanFault s u a) := by
  unfold State.scanFault
  repeat' (first
    | (with_reducible assumption)
    | (with_reducible apply State.flt_keeps))

theorem State.sealStore_keeps {s0 : State} {s : State} (u : Nat) (a : Nat) (r : List Byte) (hs : Keeps s0 s) :
    Keeps s0 (State.sealStore s u a r) := by
  unfold State.sealStore
  repeat' (first
    | (intro x; refine have_then (p := Keeps s0 x) ?_ ?_; (on_goal 2 => (intro hx; clear_value x)); (on_goal 1 => (subst x)))
    | (intro x; refine have_then (p := Keeps s0 x.1) ?_ ?_; (on_goal 2 => (intro hx; clear_value x)); (on_goal 1 => (subst x)))
    | (intro x; (have _y := (fun a => x a)); clear _y; subst x; (try beta_reduce))
    | (intro x; clear_value x)
    | (intro x; subst x)
    | lift_lets -underBinder
    | (with_reducible assumption)
    | (with_reducible refine State.store_keeps _ _ _ _ (by with_reducible assumption) ?_)
    | (with_reducible apply State.writeNote_keeps)
    | (with_reducible apply State.scanFault_keeps)
    | split
    | (with_reducible refine keeps_fst (by with_reducible assumption) ?_)
    | (with_reducible refine keeps_snd (by with_reducible assumption) ?_)
    | (with_reducible refine Keeps.update ?_)
    | (intro _ _; (try beta_reduce))
    | (intro _; (try beta_reduce)))

theorem State.sealWrite_keeps {s0 : State} {s : State} (u : Nat) (tag : Nat) (feeder : Nat) (fail : Bool) (hs : Keeps s0 s) :
    Keeps s0 (State.sealWrite s u tag feeder fail) := by
  unfold State.sealWrite
  repeat' (first
    | (intro x; refine have_then (p := Keeps s0 x) ?_ ?_; (on_goal 2 => (intro hx; clear_value x)); (on_goal 1 => (subst x)))
    | (intro x; refine have_then (p := Keeps s0 x.1) ?_ ?_; (on_goal 2 => (intro hx; clear_value x)); (on_goal 1 => (subst x)))
    | (intro x; (have _y := (fun a => x a)); clear _y; subst x; (try beta_reduce))
    | (intro x; clear_value x)
    | (intro x; subst x)
    | lift_lets -underBinder
    | (with_reducible assumption)
    | (with_reducible refine State.store_keeps _ _ _ _ (by with_reducible assumption) ?_)
    | (with_reducible apply State.writeNote_keeps)
    | (with_reducible apply State.scanFault_keeps)
    | (with_reducible apply State.sealStore_keeps)
    | split
    | (with_reducible refine keeps_fst (by with_reducible assumption) ?_)
    | (with_reducible refine keeps_snd (by with_reducible assumption) ?_)
    | (with_reducible refine Keeps.update ?_)
    | (intro _ _; (try beta_reduce))
    | (intro _; (try beta_reduce)))

theorem State.seaCloseVal_keeps {s0 : State} {s : State} (u : Nat) (tag : Nat) (feeder : Nat) (v : Nat) (hs : Keeps s0 s) :
    Keeps s0 (State.seaCloseVal s u tag feeder v) := by
  unfold State.seaCloseVal
  repeat' (first
    | (intro x; refine have_then (p := Keeps s0 x) ?_ ?_; (on_goal 2 => (intro hx; clear_value x)); (on_goal 1 => (subst x)))
    | (intro x; clear_value x)
    | (intro x; subst x)
    | lift_lets -underBinder
    | (with_reducible assumption)
    | (with_reducible apply State.setReg_keeps)
    | (with_reducible apply State.setRf_keeps)
    | (with_reducible apply State.raise_keeps)
    | (with_reducible apply State.sealWrite_keeps)
    | split
    | (with_reducible refine keeps_fst (by with_reducible assumption) ?_)
    | (with_reducible refine keeps_snd (by with_reducible assumption) ?_))

theorem State.seaCloseNow_keeps {s0 : State} {s : State} (u : Nat) (tag : Nat) (feeder : Nat) (hs : Keeps s0 s) :
    Keeps s0 (State.seaCloseNow s u tag feeder) := by
  unfold State.seaCloseNow
  repeat' (first
    | (intro x; refine have_then (p := Keeps s0 x) ?_ ?_; (on_goal 2 => (intro hx; clear_value x)); (on_goal 1 => (subst x)))
    | (intro x; clear_value x)
    | (intro x; subst x)
    | lift_lets -underBinder
    | (with_reducible assumption)
    | (with_reducible apply State.seaCloseVal_keeps)
    | (with_reducible apply State.seaIdle_keeps)
    | split
    | (with_reducible refine keeps_fst (by with_reducible assumption) ?_)
    | (with_reducible refine keeps_snd (by with_reducible assumption) ?_))

theorem State.busyFeed_keeps {s0 : State} {s : State} (u : Nat) (hs : Keeps s0 s) :
    Keeps s0 (State.busyFeed s u) := by
  unfold State.busyFeed
  repeat' (first
    | (with_reducible assumption)
    | (with_reducible apply State.flt_keeps))

theorem State.seaRegFeed_keeps {s0 : State} {s : State} (u : Nat) (n : Nat) (v : Nat) (hs : Keeps s0 s) :
    Keeps s0 (State.seaRegFeed s u n v) := by
  unfold State.seaRegFeed
  repeat' (first
    | (with_reducible assumption)
    | (with_reducible apply State.busyFeed_keeps)
    | (with_reducible apply State.seaFeed_keeps)
    | split
    | (with_reducible refine keeps_fst (by with_reducible assumption) ?_)
    | (with_reducible refine keeps_snd (by with_reducible assumption) ?_))

theorem State.seaCloseReg_keeps {s0 : State} {s : State} (u : Nat) (hs : Keeps s0 s) :
    Keeps s0 (State.seaCloseReg s u) := by
  unfold State.seaCloseReg
  repeat' (first
    | (with_reducible assumption)
    | (with_reducible apply State.setSea_keeps)
    | (with_reducible apply State.busyFeed_keeps)
    | (with_reducible apply State.seaCloseNow_keeps)
    | split
    | (with_reducible refine keeps_fst (by with_reducible assumption) ?_)
    | (with_reducible refine keeps_snd (by with_reducible assumption) ?_)
    | (with_reducible refine Keeps.update ?_))

theorem State.scanStart_keeps {s0 : State} {s : State} (u : Nat) (len : Nat) (closeAfter : Bool) (hs : Keeps s0 s) :
    Keeps s0 (State.scanStart s u len closeAfter) := by
  unfold State.scanStart
  repeat' (first
    | (intro x; refine have_then (p := Keeps s0 x) ?_ ?_; (on_goal 2 => (intro hx; clear_value x)); (on_goal 1 => (subst x)))
    | (intro x; clear_value x)
    | (intro x; subst x)
    | lift_lets -underBinder
    | (with_reducible assumption)
    | (with_reducible apply State.busyFeed_keeps)
    | (with_reducible apply State.setSea_keeps)
    | (with_reducible apply State.setRf_keeps)
    | split
    | (with_reducible refine keeps_fst (by with_reducible assumption) ?_)
    | (with_reducible refine keeps_snd (by with_reducible assumption) ?_)
    | (with_reducible refine Keeps.update ?_))


theorem State.scanFeed_keeps {s0 : State} {s : State} (u a n : Nat) (hs : Keeps s0 s) :
    Keeps s0 (s.scanFeed u a n).1 := by
  induction n generalizing s a with
  | zero => exact hs
  | succ n ih =>
    unfold State.scanFeed
    split
    · exact ih _ (State.seaFeed_keeps _ _ hs)
    · dsimp only
      refine State.scanFault_keeps _ _ (State.seaIdle_keeps _ ?_)
      split
      · exact State.eccNote_keeps _ hs
      · exact hs

theorem State.scanEnd_keeps {s0 : State} {s : State} (u : Nat) (hs : Keeps s0 s) : Keeps s0 (State.scanEnd s u) := by
  unfold State.scanEnd
  repeat' (first
    | (intro x; refine have_then (p := Keeps s0 x) ?_ ?_; (on_goal 2 => (intro hx; clear_value x)); (on_goal 1 => (subst x)))
    | (intro x; refine have_then (p := Keeps s0 x.1) ?_ ?_; (on_goal 2 => (intro hx; clear_value x)); (on_goal 1 => (subst x)))
    | (intro x; (have _y := (fun a => x a)); clear _y; subst x; (try beta_reduce))
    | (intro x; clear_value x)
    | (intro x; subst x)
    | lift_lets -underBinder
    | (with_reducible assumption)
    | (with_reducible apply State.setRf_keeps)
    | (with_reducible apply State.setSea_keeps)
    | (with_reducible apply State.seaCloseNow_keeps)
    | (with_reducible apply State.scanFeed_keeps)
    | split
    | (with_reducible refine keeps_fst (by with_reducible assumption) ?_)
    | (with_reducible refine keeps_snd (by with_reducible assumption) ?_)
    | (with_reducible refine Keeps.update ?_))

theorem State.seaCtlPost_keeps {s0 : State} {s : State} (u : Nat) (old : Word) (hs : Keeps s0 s) :
    Keeps s0 (State.seaCtlPost s u old) := by
  unfold State.seaCtlPost
  repeat' (first
    | (intro x; refine have_then (p := Keeps s0 x) ?_ ?_; (on_goal 2 => (intro hx; clear_value x)); (on_goal 1 => (subst x)))
    | (intro x; clear_value x)
    | (intro x; subst x)
    | lift_lets -underBinder
    | (with_reducible assumption)
    | (with_reducible apply State.setReg_keeps)
    | split
    | (with_reducible refine keeps_fst (by with_reducible assumption) ?_)
    | (with_reducible refine keeps_snd (by with_reducible assumption) ?_))

end Sys2Proof.Machine
end

