-- ==== Sys2Proof/Laws/KeepsRingCore.lean ====
section
/-!
SUPPORT. What the operations of Machine/RingCore.lean keep.
-/
namespace Sys2Proof.Machine

theorem State.setSq_keeps {s0 : State} {s : State} (f : Nat) (n : Nat) (x : SqSt) (hs : Keeps s0 s) :
    Keeps s0 (State.setSq s f n x) := by
  unfold State.setSq
  repeat' (first
    | (with_reducible assumption)
    | (with_reducible refine Keeps.update ?_))

theorem State.setCq_keeps {s0 : State} {s : State} (f : Nat) (n : Nat) (x : CqSt) (hs : Keeps s0 s) :
    Keeps s0 (State.setCq s f n x) := by
  unfold State.setCq
  repeat' (first
    | (with_reducible assumption)
    | (with_reducible refine Keeps.update ?_))

theorem State.setDesc_keeps {s0 : State} {s : State} (f : Nat) (n : Nat) (d : DescSt) (hs : Keeps s0 s) :
    Keeps s0 (State.setDesc s f n d) := by
  unfold State.setDesc
  repeat' (first
    | (intro x; refine have_then (p := Keeps s0 x) ?_ ?_; (on_goal 2 => (intro hx; clear_value x)); (on_goal 1 => (subst x)))
    | (intro x; refine have_then (p := Keeps s0 x.1) ?_ ?_; (on_goal 2 => (intro hx; clear_value x)); (on_goal 1 => (subst x)))
    | (intro x; (have _y := (fun a => x a)); clear _y; subst x; (try beta_reduce))
    | (intro x; clear_value x)
    | (intro x; subst x)
    | lift_lets -underBinder
    | (with_reducible assumption)
    | (with_reducible apply State.setSq_keeps)
    | split
    | (with_reducible refine keeps_fst (by with_reducible assumption) ?_)
    | (with_reducible refine keeps_snd (by with_reducible assumption) ?_)
    | (with_reducible refine Keeps.update ?_)
    | (intro _ _; (try beta_reduce))
    | (intro _; (try beta_reduce)))

theorem State.cqPost_keeps {s0 : State} {s : State} (f : Nat) (n : Nat) (e : List Byte) (hs : Keeps s0 s) :
    Keeps s0 (State.cqPost s f n e) := by
  unfold State.cqPost
  repeat' (first
    | (intro x; refine have_then (p := Keeps s0 x) ?_ ?_; (on_goal 2 => (intro hx; clear_value x)); (on_goal 1 => (subst x)))
    | (intro x; refine have_then (p := Keeps s0 x.1) ?_ ?_; (on_goal 2 => (intro hx; clear_value x)); (on_goal 1 => (subst x)))
    | (intro x; (have _y := (fun a => x a)); clear _y; subst x; (try beta_reduce))
    | (intro x; clear_value x)
    | (intro x; subst x)
    | lift_lets -underBinder
    | (with_reducible assumption)
    | (with_reducible apply State.setCq_keeps)
    | split
    | (with_reducible refine keeps_fst (by with_reducible assumption) ?_)
    | (with_reducible refine keeps_snd (by with_reducible assumption) ?_)
    | (with_reducible refine Keeps.update ?_)
    | (intro _ _; (try beta_reduce))
    | (intro _; (try beta_reduce)))

theorem State.descEnd_keeps {s0 : State} {s : State} (f : Nat) (n : Nat) (d : DescSt) (status : Nat) (d0 : Nat) (d1 : Nat) (hs : Keeps s0 s) :
    Keeps s0 (State.descEnd s f n d status d0 d1) := by
  unfold State.descEnd
  repeat' (first
    | (intro x; refine have_then (p := Keeps s0 x) ?_ ?_; (on_goal 2 => (intro hx; clear_value x)); (on_goal 1 => (subst x)))
    | (intro x; (have _y := (fun a => x a)); clear _y; subst x; (try beta_reduce))
    | (intro x; clear_value x)
    | (intro x; subst x)
    | lift_lets -underBinder
    | (with_reducible assumption)
    | (with_reducible apply State.setSq_keeps)
    | (with_reducible apply State.cqPost_keeps)
    | (with_reducible apply State.raise_keeps)
    | (with_reducible apply State.fire_keeps)
    | split
    | (with_reducible refine keeps_fst (by with_reducible assumption) ?_)
    | (with_reducible refine keeps_snd (by with_reducible assumption) ?_)
    | (with_reducible refine Keeps.update ?_))

theorem State.runSettle_keeps {s0 : State} {s : State} (f : Nat) (n : Nat) (d : DescSt) (hs : Keeps s0 s) :
    Keeps s0 (State.runSettle s f n d) := by
  unfold State.runSettle
  repeat' (first
    | (with_reducible assumption)
    | (with_reducible apply State.descEnd_keeps)
    | split
    | (with_reducible refine keeps_fst (by with_reducible assumption) ?_)
    | (with_reducible refine keeps_snd (by with_reducible assumption) ?_))

theorem State.runOrderDone_keeps {s0 : State} {s : State} (f : Nat) (n : Nat) (id : Nat) (tag : Nat) (status : Nat) (hs : Keeps s0 s) :
    Keeps s0 (State.runOrderDone s f n id tag status) := by
  unfold State.runOrderDone
  repeat' (first
    | (intro x; refine have_then (p := Keeps s0 x) ?_ ?_; (on_goal 2 => (intro hx; clear_value x)); (on_goal 1 => (subst x)))
    | (intro x; (have _y := (fun a => x a)); clear _y; subst x; (try beta_reduce))
    | (intro x; clear_value x)
    | (intro x; subst x)
    | lift_lets -underBinder
    | (with_reducible assumption)
    | (with_reducible apply State.setDesc_keeps)
    | (with_reducible apply State.runSettle_keeps)
    | split
    | (with_reducible refine keeps_fst (by with_reducible assumption) ?_)
    | (with_reducible refine keeps_snd (by with_reducible assumption) ?_)
    | (with_reducible refine Keeps.update ?_))

end Sys2Proof.Machine
end

