-- ==== Sys2Proof/Laws/KeepsEngQueue.lean ====
section
/-!
SUPPORT. What the operations of Machine/EngQueue.lean keep.
-/
namespace Sys2Proof.Machine

theorem State.setTp_keeps {s0 : State} {s : State} (e : Nat) (x : Tp) (hs : Keeps s0 s) :
    Keeps s0 (State.setTp s e x) := by
  unfold State.setTp
  repeat' (first
    | (with_reducible assumption)
    | (with_reducible refine Keeps.update ?_))

theorem State.settleQ_keeps {s0 : State} {s : State} (q : Nat) (hs : Keeps s0 s) : Keeps s0 (State.settleQ s q) := by
  unfold State.settleQ
  repeat' (first
    | (with_reducible assumption)
    | (with_reducible apply State.suspend_keeps)
    | split
    | (with_reducible refine keeps_fst (by with_reducible assumption) ?_)
    | (with_reducible refine keeps_snd (by with_reducible assumption) ?_))

theorem State.settle_keeps {s0 : State} {s : State} (e : Nat) (hs : Keeps s0 s) :
    Keeps s0 (State.settle s e) := by
  unfold State.settle
  repeat' (first
    | (with_reducible assumption)
    | (with_reducible apply State.settleQ_keeps))

theorem State.settleAll_keeps {s0 : State} {s : State} (hs : Keeps s0 s) :
    Keeps s0 (State.settleAll s) := by
  unfold State.settleAll
  repeat' (first
    | (with_reducible assumption)
    | (with_reducible apply State.settle_keeps)
    | (with_reducible refine keeps_foldl ?_ (fun _ _ _ => ?_)))

theorem State.bindRelays_keeps {s0 : State} {s : State} (q : Nat) (x : Entry) (rep : Option Bool) (hs : Keeps s0 s) :
    Keeps s0 (State.bindRelays s q x rep) := by
  unfold State.bindRelays
  repeat' (first
    | (with_reducible assumption)
    | (with_reducible apply State.relayBindCons_keeps)
    | (with_reducible apply State.relayBindProd_keeps)
    | (with_reducible refine keeps_foldl ?_ (fun _ _ _ => ?_))
    | split
    | (with_reducible refine keeps_fst (by with_reducible assumption) ?_)
    | (with_reducible refine keeps_snd (by with_reducible assumption) ?_))

theorem State.enqueue_keeps {s0 : State} {s : State} (e : Nat) (w : World) (tag : Nat) (issuer : Nat) (sup : Bool)
    (desc : Option Nat) (o : OrderD) (hs : Keeps s0 s) :
    Keeps s0 (State.enqueue s e w tag issuer sup desc o) := by
  unfold State.enqueue
  repeat' (first
    | (intro x; refine have_then (p := Keeps s0 x) ?_ ?_; (on_goal 2 => (intro hx; clear_value x)); (on_goal 1 => (subst x)))
    | (intro x; refine have_then (p := Keeps s0 x.1) ?_ ?_; (on_goal 2 => (intro hx; clear_value x)); (on_goal 1 => (subst x)))
    | (intro x; (have _y := (fun a => x a)); clear _y; subst x; (try beta_reduce))
    | (intro x; clear_value x)
    | (intro x; subst x)
    | lift_lets -underBinder
    | (with_reducible assumption)
    | (with_reducible apply State.flt_keeps)
    | (with_reducible apply State.setQueue_keeps)
    | (with_reducible apply State.frameRead_keeps)
    | (with_reducible apply State.settle_keeps)
    | (with_reducible apply State.bindRelays_keeps)
    | (with_reducible refine keeps_foldl ?_ (fun _ _ _ => ?_))
    | (with_reducible refine keeps_foldl1 ?_ (fun _ _ _ => ?_))
    | split
    | (with_reducible refine keeps_fst (by with_reducible assumption) ?_)
    | (with_reducible refine keeps_snd (by with_reducible assumption) ?_)
    | (with_reducible refine Keeps.update ?_)
    | (intro _ _; (try beta_reduce))
    | (intro _; (try beta_reduce)))

theorem State.recordReject_keeps {s0 : State} {s : State} (e : Nat) (w : World) (status : Nat) (off : Nat) (tag : Nat) (issuer : Nat) (hs : Keeps s0 s) :
    Keeps s0 (State.recordReject s e w status off tag issuer) := by
  unfold State.recordReject
  repeat' (first
    | (intro x; refine have_then (p := Keeps s0 x) ?_ ?_; (on_goal 2 => (intro hx; clear_value x)); (on_goal 1 => (subst x)))
    | (intro x; clear_value x)
    | (intro x; subst x)
    | lift_lets -underBinder
    | (with_reducible assumption)
    | (with_reducible apply State.setRf_keeps)
    | split
    | (with_reducible refine keeps_fst (by with_reducible assumption) ?_)
    | (with_reducible refine keeps_snd (by with_reducible assumption) ?_))

theorem State.offer_keeps {s0 : State} {s : State} (e : Nat) (w : World) (tag : Nat) (issuer : Nat) (sup : Bool) (desc : Option Nat) (d : Except (Nat × Nat) OrderD) (hs : Keeps s0 s) :
    Keeps s0 (State.offer s e w tag issuer sup desc d).1 := by
  unfold State.offer
  repeat' (first
    | (with_reducible assumption)
    | (with_reducible apply State.recordReject_keeps)
    | (with_reducible apply State.enqueue_keeps)
    | split
    | (with_reducible refine keeps_fst (by with_reducible assumption) ?_)
    | (with_reducible refine keeps_snd (by with_reducible assumption) ?_))

end Sys2Proof.Machine
end

