-- ==== Sys2Proof/Laws/KeepsEngine.lean ====
section
/-!
SUPPORT. What the operations of Machine/Engine.lean keep.
-/
namespace Sys2Proof.Machine

theorem State.setLatch_keeps {s0 : State} {s : State} (w : World) (hs : Keeps s0 s) :
    Keeps s0 (State.setLatch s w) := by
  unfold State.setLatch
  repeat' (first
    | (with_reducible assumption)
    | (with_reducible apply State.setRf_keeps)
    | (with_reducible apply State.satRf_keeps))

theorem State.sealEnd_keeps {s0 : State} {s : State} (q : Nat) (x : Entry) (status : Nat) (hs : Keeps s0 s) :
    Keeps s0 (State.sealEnd s q x status).1 := by
  unfold State.sealEnd
  repeat' (first
    | (intro x; refine have_then (p := Keeps s0 x) ?_ ?_; (on_goal 2 => (intro hx; clear_value x)); (on_goal 1 => (subst x)))
    | (intro x; clear_value x)
    | (intro x; subst x)
    | lift_lets -underBinder
    | (with_reducible assumption)
    | (with_reducible apply State.seaCloseNow_keeps)
    | (with_reducible apply State.seaIdle_keeps)
    | split
    | (with_reducible refine keeps_fst (by with_reducible assumption) ?_)
    | (with_reducible refine keeps_snd (by with_reducible assumption) ?_))

theorem State.freeRelays_keeps {s0 : State} {s : State} (x : Entry) (hs : Keeps s0 s) :
    Keeps s0 (State.freeRelays s x) := by
  unfold State.freeRelays
  repeat' (first
    | (with_reducible assumption)
    | (with_reducible apply State.relayFreeCons_keeps)
    | (with_reducible apply State.relayFreeProd_keeps)
    | (with_reducible refine keeps_foldl ?_ (fun _ _ _ => ?_))
    | split
    | (with_reducible refine keeps_fst (by with_reducible assumption) ?_)
    | (with_reducible refine keeps_snd (by with_reducible assumption) ?_))

theorem State.cplWrite_keeps {s0 : State} {s : State} (e : Nat) (w : Nat) (tag : Nat) (status : Nat) (flags : Nat) (hs : Keeps s0 s) :
    Keeps s0 (State.cplWrite s e w tag status flags) := by
  unfold State.cplWrite
  repeat' (first
    | (intro x; refine have_then (p := Keeps s0 x) ?_ ?_; (on_goal 2 => (intro hx; clear_value x)); (on_goal 1 => (subst x)))
    | (intro x; clear_value x)
    | (intro x; subst x)
    | lift_lets -underBinder
    | (with_reducible assumption)
    | (with_reducible apply State.setRf_keeps)
    | (with_reducible apply State.addRf_keeps)
    | split
    | (with_reducible refine keeps_fst (by with_reducible assumption) ?_)
    | (with_reducible refine keeps_snd (by with_reducible assumption) ?_))

theorem State.voidRecord_keeps {s0 : State} {s : State} (w : Nat) (acc : Nat) (hs : Keeps s0 s) :
    Keeps s0 (State.voidRecord s w acc) := by
  unfold State.voidRecord
  repeat' (first
    | (intro x; refine have_then (p := Keeps s0 x) ?_ ?_; (on_goal 2 => (intro hx; clear_value x)); (on_goal 1 => (subst x)))
    | (intro x; (have _y := (fun a => x a)); clear _y; subst x; (try beta_reduce))
    | (intro x; clear_value x)
    | (intro x; subst x)
    | lift_lets -underBinder
    | (with_reducible assumption)
    | (with_reducible apply State.setLog_keeps)
    | split
    | (with_reducible refine keeps_fst (by with_reducible assumption) ?_)
    | (with_reducible refine keeps_snd (by with_reducible assumption) ?_)
    | (with_reducible refine Keeps.update ?_))

theorem State.suspendCmd_keeps {s0 : State} {s : State} (q : Nat) (hs : Keeps s0 s) : Keeps s0 (State.suspendCmd s q) := by
  unfold State.suspendCmd
  repeat' (first
    | (intro x; refine have_then (p := Keeps s0 x) ?_ ?_; (on_goal 2 => (intro hx; clear_value x)); (on_goal 1 => (subst x)))
    | (intro x; refine have_then (p := Keeps s0 x.1) ?_ ?_; (on_goal 2 => (intro hx; clear_value x)); (on_goal 1 => (subst x)))
    | (intro x; (have _y := (fun a => x a)); clear _y; subst x; (try beta_reduce))
    | (intro x; clear_value x)
    | (intro x; subst x)
    | lift_lets -underBinder
    | (with_reducible assumption)
    | (with_reducible apply State.flt_keeps)
    | (with_reducible apply State.suspend_keeps)
    | split
    | (with_reducible refine keeps_fst (by with_reducible assumption) ?_)
    | (with_reducible refine keeps_snd (by with_reducible assumption) ?_)
    | (with_reducible refine Keeps.update ?_))

theorem State.lastBits_keeps {s0 : State} {s : State} (q : Nat) (x : Entry) (slot : Nat) (hs : Keeps s0 s) :
    Keeps s0 (State.lastBits s q x slot) := by
  unfold State.lastBits
  repeat' (first
    | (intro x; refine have_then (p := Keeps s0 x) ?_ ?_; (on_goal 2 => (intro hx; clear_value x)); (on_goal 1 => (subst x)))
    | (intro x; refine have_then (p := Keeps s0 x.1) ?_ ?_; (on_goal 2 => (intro hx; clear_value x)); (on_goal 1 => (subst x)))
    | (intro x; (have _y := (fun a => x a)); clear _y; subst x; (try beta_reduce))
    | (intro x; clear_value x)
    | (intro x; subst x)
    | lift_lets -underBinder
    | (with_reducible assumption)
    | (with_reducible apply flushBits_keeps)
    | split
    | (with_reducible refine keeps_fst (by with_reducible assumption) ?_)
    | (with_reducible refine keeps_snd (by with_reducible assumption) ?_)
    | (with_reducible refine Keeps.update ?_)
    | (intro _ _; (try beta_reduce))
    | (intro _; (try beta_reduce)))

theorem State.finishFree_keeps {s0 : State} {s : State} (q : Nat) (x : Entry) (hs : Keeps s0 s) :
    Keeps s0 (State.finishFree s q x) := by
  unfold State.finishFree
  repeat' (first
    | (intro x; refine have_then (p := Keeps s0 x) ?_ ?_; (on_goal 2 => (intro hx; clear_value x)); (on_goal 1 => (subst x)))
    | (intro x; refine have_then (p := Keeps s0 x.1) ?_ ?_; (on_goal 2 => (intro hx; clear_value x)); (on_goal 1 => (subst x)))
    | (intro x; (have _y := (fun a => x a)); clear _y; subst x; (try beta_reduce))
    | (intro x; clear_value x)
    | (intro x; subst x)
    | lift_lets -underBinder
    | (with_reducible assumption)
    | (with_reducible apply State.frameSettle_keeps)
    | (with_reducible apply State.frameUnread_keeps)
    | (with_reducible apply State.trapReport_keeps)
    | (with_reducible apply State.freeRelays_keeps)
    | (with_reducible apply State.lastBits_keeps)
    | (with_reducible refine keeps_foldl ?_ (fun _ _ _ => ?_))
    | (with_reducible refine keeps_foldl1 ?_ (fun _ _ _ => ?_))
    | split
    | (with_reducible refine keeps_fst (by with_reducible assumption) ?_)
    | (with_reducible refine keeps_snd (by with_reducible assumption) ?_)
    | (with_reducible refine Keeps.update ?_)
    | (intro _ _; (try beta_reduce))
    | (intro _; (try beta_reduce)))

theorem State.finishNote_keeps {s0 : State} {s : State} (q : Nat) (status : Nat) (x : Entry) (hs : Keeps s0 s) :
    Keeps s0 (State.finishNote s q status x) := by
  unfold State.finishNote
  repeat' (first
    | (intro x; refine have_then (p := Keeps s0 x) ?_ ?_; (on_goal 2 => (intro hx; clear_value x)); (on_goal 1 => (subst x)))
    | (intro x; clear_value x)
    | (intro x; subst x)
    | lift_lets -underBinder
    | (with_reducible assumption)
    | (with_reducible apply State.setLatch_keeps)
    | (with_reducible apply State.raise_keeps)
    | (with_reducible apply State.flt_keeps)
    | (with_reducible apply State.voidRecord_keeps)
    | split
    | (with_reducible refine keeps_fst (by with_reducible assumption) ?_)
    | (with_reducible refine keeps_snd (by with_reducible assumption) ?_))

theorem State.finishLeave_keeps {s0 : State} {s : State} (q : Nat) (status : Nat) (x : Entry) (hs : Keeps s0 s) :
    Keeps s0 (State.finishLeave s q status x) := by
  unfold State.finishLeave
  repeat' (first
    | (intro x; refine have_then (p := Keeps s0 x) ?_ ?_; (on_goal 2 => (intro hx; clear_value x)); (on_goal 1 => (subst x)))
    | (intro x; clear_value x)
    | (intro x; subst x)
    | lift_lets -underBinder
    | (with_reducible assumption)
    | (with_reducible apply State.setQueue_keeps)
    | (with_reducible apply State.cplWrite_keeps)
    | (with_reducible apply State.fire_keeps)
    | (with_reducible apply State.arrive_keeps)
    | (with_reducible apply State.runOrderDone_keeps)
    | (with_reducible apply State.suspendCmd_keeps)
    | (with_reducible apply State.settleAll_keeps)
    | split
    | (with_reducible refine keeps_fst (by with_reducible assumption) ?_)
    | (with_reducible refine keeps_snd (by with_reducible assumption) ?_)
    | (with_reducible refine Keeps.update ?_))

theorem State.finish_keeps {s0 : State} {s : State} (q : Nat) (status : Nat) (hs : Keeps s0 s) :
    Keeps s0 (State.finish s q status) := by
  unfold State.finish
  repeat' (first
    | (intro x; refine have_then (p := Keeps s0 x) ?_ ?_; (on_goal 2 => (intro hx; clear_value x)); (on_goal 1 => (subst x)))
    | (intro x; clear_value x)
    | (intro x; subst x)
    | lift_lets -underBinder
    | (with_reducible assumption)
    | (with_reducible apply State.finishFree_keeps)
    | (with_reducible apply State.sealEnd_keeps)
    | (with_reducible apply State.finishNote_keeps)
    | (with_reducible apply State.finishLeave_keeps)
    | split
    | (with_reducible refine keeps_fst (by with_reducible assumption) ?_)
    | (with_reducible refine keeps_snd (by with_reducible assumption) ?_))

theorem State.setHeadRun_keeps {s0 : State} {s : State} (q : Nat) (r : Run) (hs : Keeps s0 s) :
    Keeps s0 (State.setHeadRun s q r) := by
  unfold State.setHeadRun
  repeat' (first
    | (with_reducible assumption)
    | (with_reducible apply State.setHead_keeps)
    | split
    | (with_reducible refine keeps_fst (by with_reducible assumption) ?_)
    | (with_reducible refine keeps_snd (by with_reducible assumption) ?_))

theorem State.startOrder_keeps {s0 : State} {s : State} (q : Nat) (x : Entry) (hs : Keeps s0 s) :
    Keeps s0 (State.startOrder s q x) := by
  unfold State.startOrder
  repeat' (first
    | (intro x; refine have_then (p := Keeps s0 x) ?_ ?_; (on_goal 2 => (intro hx; clear_value x)); (on_goal 1 => (subst x)))
    | (intro x; refine have_then (p := Keeps s0 x.1) ?_ ?_; (on_goal 2 => (intro hx; clear_value x)); (on_goal 1 => (subst x)))
    | (intro x; (have _y := (fun a => x a)); clear _y; subst x; (try beta_reduce))
    | (intro x; clear_value x)
    | (intro x; subst x)
    | lift_lets -underBinder
    | (with_reducible assumption)
    | (with_reducible apply State.setHead_keeps)
    | (with_reducible apply State.seaHold_keeps)
    | (with_reducible apply State.bindRelays_keeps)
    | (with_reducible apply State.finish_keeps)
    | split
    | (with_reducible refine keeps_fst (by with_reducible assumption) ?_)
    | (with_reducible refine keeps_snd (by with_reducible assumption) ?_)
    | (with_reducible refine Keeps.update ?_)
    | (intro _ _; (try beta_reduce))
    | (intro _; (try beta_reduce)))

theorem State.stopNews_keeps {s0 : State} {s : State} (q : Nat) (hs : Keeps s0 s) :
    Keeps s0 (State.stopNews s q) := by
  unfold State.stopNews
  repeat' (first
    | (with_reducible assumption)
    | (with_reducible apply State.fire_keeps)
    | (with_reducible apply State.arrive_keeps))

theorem State.recordUe_keeps {s0 : State} {s : State} (q : Nat) (x : Entry) (hs : Keeps s0 s) :
    Keeps s0 (State.recordUe s q x) := by
  unfold State.recordUe
  repeat' (first
    | (intro x; refine have_then (p := Keeps s0 x) ?_ ?_; (on_goal 2 => (intro hx; clear_value x)); (on_goal 1 => (subst x)))
    | (intro x; refine have_then (p := Keeps s0 x.1) ?_ ?_; (on_goal 2 => (intro hx; clear_value x)); (on_goal 1 => (subst x)))
    | (intro x; (have _y := (fun a => x a)); clear _y; subst x; (try beta_reduce))
    | (intro x; clear_value x)
    | (intro x; subst x)
    | lift_lets -underBinder
    | (with_reducible assumption)
    | (with_reducible apply State.memUe_keeps)
    | split
    | (with_reducible refine keeps_fst (by with_reducible assumption) ?_)
    | (with_reducible refine keeps_snd (by with_reducible assumption) ?_)
    | (with_reducible refine Keeps.update ?_)
    | (intro _ _; (try beta_reduce))
    | (intro _; (try beta_reduce)))

theorem State.relayBack_keeps {s0 : State} {s : State} (r : Nat) (n : Nat) (hs : Keeps s0 s) :
    Keeps s0 (State.relayBack s r n) := by
  unfold State.relayBack
  repeat' (first
    | (intro x; refine have_then (p := Keeps s0 x) ?_ ?_; (on_goal 2 => (intro hx; clear_value x)); (on_goal 1 => (subst x)))
    | (intro x; refine have_then (p := Keeps s0 x.1) ?_ ?_; (on_goal 2 => (intro hx; clear_value x)); (on_goal 1 => (subst x)))
    | (intro x; (have _y := (fun a => x a)); clear _y; subst x; (try beta_reduce))
    | (intro x; clear_value x)
    | (intro x; subst x)
    | lift_lets -underBinder
    | (with_reducible assumption)
    | (with_reducible apply State.setRelay_keeps)
    | (with_reducible refine Keeps.update ?_))

theorem State.resumeOrder_keeps {s0 : State} {s : State} (q : Nat) (x : Entry) (hs : Keeps s0 s) :
    Keeps s0 (State.resumeOrder s q x) := by
  unfold State.resumeOrder
  repeat' (first
    | (intro x; refine have_then (p := Keeps s0 x) ?_ ?_; (on_goal 2 => (intro hx; clear_value x)); (on_goal 1 => (subst x)))
    | (intro x; refine have_then (p := Keeps s0 x.1) ?_ ?_; (on_goal 2 => (intro hx; clear_value x)); (on_goal 1 => (subst x)))
    | (intro x; (have _y := (fun a => x a)); clear _y; subst x; (try beta_reduce))
    | (intro x; clear_value x)
    | (intro x; subst x)
    | lift_lets -underBinder
    | (with_reducible assumption)
    | (with_reducible apply State.setHead_keeps)
    | (with_reducible apply State.finish_keeps)
    | (with_reducible apply State.startOrder_keeps)
    | (with_reducible apply State.recordUe_keeps)
    | (with_reducible apply State.relayBack_keeps)
    | (with_reducible refine keeps_foldl ?_ (fun _ _ _ => ?_))
    | (with_reducible refine keeps_foldl1 ?_ (fun _ _ _ => ?_))
    | split
    | (with_reducible refine keeps_fst (by with_reducible assumption) ?_)
    | (with_reducible refine keeps_snd (by with_reducible assumption) ?_)
    | (with_reducible refine Keeps.update ?_)
    | (intro _ _; (try beta_reduce))
    | (intro _; (try beta_reduce)))

theorem State.noteLoss_keeps {s0 : State} {s : State} (e : Nat) (hs : Keeps s0 s) :
    Keeps s0 (State.noteLoss s e) := by
  unfold State.noteLoss
  repeat' (first
    | (intro x; refine have_then (p := Keeps s0 x) ?_ ?_; (on_goal 2 => (intro hx; clear_value x)); (on_goal 1 => (subst x)))
    | (intro x; clear_value x)
    | (intro x; subst x)
    | lift_lets -underBinder
    | (with_reducible assumption)
    | (with_reducible apply State.setTp_keeps)
    | (with_reducible apply State.setRf_keeps)
    | split
    | (with_reducible refine keeps_fst (by with_reducible assumption) ?_)
    | (with_reducible refine keeps_snd (by with_reducible assumption) ?_)
    | (with_reducible refine Keeps.update ?_))

theorem State.tryStart_keeps {s0 : State} {s : State} (q : Nat) (hs : Keeps s0 s) :
    Keeps s0 (State.tryStart s q) := by
  unfold State.tryStart
  repeat' (first
    | (intro x; refine have_then (p := Keeps s0 x) ?_ ?_; (on_goal 2 => (intro hx; clear_value x)); (on_goal 1 => (subst x)))
    | (intro x; clear_value x)
    | (intro x; subst x)
    | lift_lets -underBinder
    | (with_reducible assumption)
    | (with_reducible apply State.noteLoss_keeps)
    | (with_reducible apply State.startOrder_keeps)
    | (with_reducible apply State.resumeOrder_keeps)
    | split
    | (with_reducible refine keeps_fst (by with_reducible assumption) ?_)
    | (with_reducible refine keeps_snd (by with_reducible assumption) ?_))

theorem State.resumeCmd_keeps {s0 : State} {s : State} (q : Nat) (action : Nat) (tag : Nat) (hs : Keeps s0 s) :
    Keeps s0 (State.resumeCmd s q action tag) := by
  unfold State.resumeCmd
  repeat' (first
    | (intro x; refine have_then (p := Keeps s0 x) ?_ ?_; (on_goal 2 => (intro hx; clear_value x)); (on_goal 1 => (subst x)))
    | (intro x; clear_value x)
    | (intro x; subst x)
    | lift_lets -underBinder
    | (with_reducible assumption)
    | (with_reducible apply State.flt_keeps)
    | (with_reducible apply State.setHead_keeps)
    | (with_reducible apply State.settle_keeps)
    | (with_reducible apply State.tryStart_keeps)
    | split
    | (with_reducible refine keeps_fst (by with_reducible assumption) ?_)
    | (with_reducible refine keeps_snd (by with_reducible assumption) ?_)
    | (with_reducible refine Keeps.update ?_))

theorem State.recordWritten_keeps {s0 : State} {s : State} (q : Nat) (hs : Keeps s0 s) :
    Keeps s0 (State.recordWritten s q) := by
  unfold State.recordWritten
  repeat' (first
    | (intro x; refine have_then (p := Keeps s0 x) ?_ ?_; (on_goal 2 => (intro hx; clear_value x)); (on_goal 1 => (subst x)))
    | (intro x; refine have_then (p := Keeps s0 x.1) ?_ ?_; (on_goal 2 => (intro hx; clear_value x)); (on_goal 1 => (subst x)))
    | (intro x; (have _y := (fun a => x a)); clear _y; subst x; (try beta_reduce))
    | (intro x; clear_value x)
    | (intro x; subst x)
    | lift_lets -underBinder
    | (with_reducible assumption)
    | (with_reducible apply State.pokeOwn_keeps)
    | (with_reducible apply State.setHead_keeps)
    | (with_reducible apply State.settle_keeps)
    | (with_reducible apply State.stopNews_keeps)
    | (with_reducible apply State.tryStart_keeps)
    | (with_reducible refine keeps_foldl ?_ (fun _ _ _ => ?_))
    | (with_reducible refine keeps_foldl1 ?_ (fun _ _ _ => ?_))
    | split
    | (with_reducible refine keeps_fst (by with_reducible assumption) ?_)
    | (with_reducible refine keeps_snd (by with_reducible assumption) ?_)
    | (with_reducible refine Keeps.update ?_)
    | (intro _ _; (try beta_reduce))
    | (intro _; (try beta_reduce)))

theorem State.mismatch_keeps {s0 : State} {s : State} (q : Nat) (k : Nat) (x : Entry) (p : SigPair) (hs : Keeps s0 s) :
    Keeps s0 (State.mismatch s q k x p) := by
  unfold State.mismatch
  repeat' (first
    | (intro x; refine have_then (p := Keeps s0 x) ?_ ?_; (on_goal 2 => (intro hx; clear_value x)); (on_goal 1 => (subst x)))
    | (intro x; refine have_then (p := Keeps s0 x.1) ?_ ?_; (on_goal 2 => (intro hx; clear_value x)); (on_goal 1 => (subst x)))
    | (intro x; (have _y := (fun a => x a)); clear _y; subst x; (try beta_reduce))
    | (intro x; clear_value x)
    | (intro x; subst x)
    | lift_lets -underBinder
    | (with_reducible assumption)
    | (with_reducible apply State.setRf_keeps)
    | (with_reducible apply State.satRf_keeps)
    | (with_reducible apply State.setPhys_keeps)
    | (with_reducible apply State.setHead_keeps)
    | (with_reducible apply State.raise_keeps)
    | split
    | (with_reducible refine keeps_fst (by with_reducible assumption) ?_)
    | (with_reducible refine keeps_snd (by with_reducible assumption) ?_)
    | (with_reducible refine Keeps.update ?_)
    | (intro _ _; (try beta_reduce))
    | (intro _; (try beta_reduce)))

theorem State.compare_keeps {s0 : State} {s : State} (q : Nat) (err : Nat) (hs : Keeps s0 s) :
    Keeps s0 (State.compare s q err) := by
  unfold State.compare
  repeat' (first
    | (intro x; refine have_then (p := Keeps s0 x) ?_ ?_; (on_goal 2 => (intro hx; clear_value x)); (on_goal 1 => (subst x)))
    | (intro x; clear_value x)
    | (intro x; subst x)
    | lift_lets -underBinder
    | (with_reducible assumption)
    | (with_reducible apply State.setHead_keeps)
    | (with_reducible apply State.mismatch_keeps)
    | (with_reducible apply State.addRf_keeps)
    | split
    | (with_reducible refine keeps_fst (by with_reducible assumption) ?_)
    | (with_reducible refine keeps_snd (by with_reducible assumption) ?_)
    | (with_reducible refine Keeps.update ?_))

theorem State.encReport_keeps {s0 : State} {s : State} (e : Nat) (tag : Nat) (result : Nat) (phys : Nat) (hs : Keeps s0 s) :
    Keeps s0 (State.encReport s e tag result phys) := by
  unfold State.encReport
  repeat' (first
    | (intro x; refine have_then (p := Keeps s0 x) ?_ ?_; (on_goal 2 => (intro hx; clear_value x)); (on_goal 1 => (subst x)))
    | (intro x; clear_value x)
    | (intro x; subst x)
    | lift_lets -underBinder
    | (with_reducible assumption)
    | (with_reducible apply State.setRf_keeps)
    | split
    | (with_reducible refine keeps_fst (by with_reducible assumption) ?_)
    | (with_reducible refine keeps_snd (by with_reducible assumption) ?_))

theorem State.encoreDecide_keeps {s0 : State} {s : State} (q : Nat) (hs : Keeps s0 s) :
    Keeps s0 (State.encoreDecide s q) := by
  unfold State.encoreDecide
  repeat' (first
    | (intro x; refine have_then (p := Keeps s0 x) ?_ ?_; (on_goal 2 => (intro hx; clear_value x)); (on_goal 1 => (subst x)))
    | (intro x; refine have_then (p := Keeps s0 x.1) ?_ ?_; (on_goal 2 => (intro hx; clear_value x)); (on_goal 1 => (subst x)))
    | (intro x; (have _y := (fun a => x a)); clear _y; subst x; (try beta_reduce))
    | (intro x; clear_value x)
    | (intro x; subst x)
    | lift_lets -underBinder
    | (with_reducible assumption)
    | (with_reducible apply State.setHead_keeps)
    | (with_reducible apply State.encReport_keeps)
    | split
    | (with_reducible refine keeps_fst (by with_reducible assumption) ?_)
    | (with_reducible refine keeps_snd (by with_reducible assumption) ?_)
    | (with_reducible refine Keeps.update ?_)
    | (intro _ _; (try beta_reduce))
    | (intro _; (try beta_reduce)))

theorem State.dryUnit_keeps {s0 : State} {s : State} (q : Nat) (x : Entry) (hs : Keeps s0 s) :
    Keeps s0 (State.dryUnit s q x) := by
  unfold State.dryUnit
  repeat' (first
    | (intro x; refine have_then (p := Keeps s0 x) ?_ ?_; (on_goal 2 => (intro hx; clear_value x)); (on_goal 1 => (subst x)))
    | (intro x; refine have_then (p := Keeps s0 x.s) ?_ ?_; (on_goal 2 => (intro hx; clear_value x)); (on_goal 1 => (subst x)))
    | (intro x; refine have_then (p := Keeps s0 x.1) ?_ ?_; (on_goal 2 => (intro hx; clear_value x)); (on_goal 1 => (subst x)))
    | (intro x; (have _y := (fun a => x a)); clear _y; subst x; (try beta_reduce))
    | (intro x; clear_value x)
    | (intro x; subst x)
    | lift_lets -underBinder
    | (with_reducible assumption)
    | (with_reducible apply State.retire_keeps)
    | split
    | (with_reducible refine keeps_fst (by with_reducible assumption) ?_)
    | (with_reducible refine keeps_snd (by with_reducible assumption) ?_)
    | (with_reducible refine Keeps.update ?_))

theorem State.rerun_keeps {s0 : State} (q : Nat) (p : SigPair) (k : Nat) {s : State} (hs : Keeps s0 s) :
    Keeps s0 (State.rerun q p k s) := by
  induction k generalizing s with
  | zero => exact hs
  | succ k ih =>
    unfold State.rerun
    split
    · exact hs
    · split
      · exact hs
      · lift_lets -underBinder
        intro t
        have ht : Keeps s0 t := by
          subst t
          split
          · exact State.dryUnit_keeps _ _ hs
          · split
            · exact hs
            · split
              · exact State.setHead_keeps _ _ (keeps_foldl1 hs fun _ _ h => putOut_keeps _ _ _ _ h)
              · exact hs
        split
        · exact hs
        · exact ih ht

theorem State.encoreOff_keeps {s0 : State} {s : State} (en : Encore) (tag : Nat) (res : Nat) (hs : Keeps s0 s) :
    Keeps s0 (State.encoreOff s en tag res) := by
  unfold State.encoreOff
  repeat' (first
    | (intro x; refine have_then (p := Keeps s0 x) ?_ ?_; (on_goal 2 => (intro hx; clear_value x)); (on_goal 1 => (subst x)))
    | (intro x; refine have_then (p := Keeps s0 x.1) ?_ ?_; (on_goal 2 => (intro hx; clear_value x)); (on_goal 1 => (subst x)))
    | (intro x; (have _y := (fun a => x a)); clear _y; subst x; (try beta_reduce))
    | (intro x; clear_value x)
    | (intro x; subst x)
    | lift_lets -underBinder
    | (with_reducible assumption)
    | (with_reducible apply State.setHead_keeps)
    | (with_reducible apply State.encReport_keeps)
    | split
    | (with_reducible refine keeps_fst (by with_reducible assumption) ?_)
    | (with_reducible refine keeps_snd (by with_reducible assumption) ?_)
    | (with_reducible refine Keeps.update ?_))

theorem State.encoreEndNow_keeps {s0 : State} {s : State} (err : Nat) (hs : Keeps s0 s) :
    Keeps s0 (State.encoreEndNow s err) := by
  unfold State.encoreEndNow
  repeat' (first
    | (intro x; refine have_then (p := Keeps s0 x) ?_ ?_; (on_goal 2 => (intro hx; clear_value x)); (on_goal 1 => (subst x)))
    | (intro x; refine have_then (p := Keeps s0 x.1) ?_ ?_; (on_goal 2 => (intro hx; clear_value x)); (on_goal 1 => (subst x)))
    | (intro x; (have _y := (fun a => x a)); clear _y; subst x; (try beta_reduce))
    | (intro x; clear_value x)
    | (intro x; subst x)
    | lift_lets -underBinder
    | (with_reducible assumption)
    | (with_reducible apply State.encoreOff_keeps)
    | split
    | (with_reducible refine keeps_fst (by with_reducible assumption) ?_)
    | (with_reducible refine keeps_snd (by with_reducible assumption) ?_)
    | (with_reducible refine Keeps.update ?_)
    | (intro _ _; (try beta_reduce))
    | (intro _; (try beta_reduce)))

theorem State.encorePreempt_keeps {s0 : State} {s : State} (phys : Nat) (hs : Keeps s0 s) :
    Keeps s0 (State.encorePreempt s phys) := by
  unfold State.encorePreempt
  repeat' (first
    | (intro x; refine have_then (p := Keeps s0 x) ?_ ?_; (on_goal 2 => (intro hx; clear_value x)); (on_goal 1 => (subst x)))
    | (intro x; refine have_then (p := Keeps s0 x.1) ?_ ?_; (on_goal 2 => (intro hx; clear_value x)); (on_goal 1 => (subst x)))
    | (intro x; (have _y := (fun a => x a)); clear _y; subst x; (try beta_reduce))
    | (intro x; clear_value x)
    | (intro x; subst x)
    | lift_lets -underBinder
    | (with_reducible assumption)
    | (with_reducible apply State.encoreOff_keeps)
    | split
    | (with_reducible refine keeps_fst (by with_reducible assumption) ?_)
    | (with_reducible refine keeps_snd (by with_reducible assumption) ?_)
    | (with_reducible refine Keeps.update ?_)
    | (intro _ _; (try beta_reduce))
    | (intro _; (try beta_reduce)))

theorem State.encoresEnd_keeps {s0 : State} {s : State} (hs : Keeps s0 s) : Keeps s0 (State.encoresEnd s) := by
  unfold State.encoresEnd
  repeat' (first
    | (intro x; refine have_then (p := Keeps s0 x) ?_ ?_; (on_goal 2 => (intro hx; clear_value x)); (on_goal 1 => (subst x)))
    | (intro x; refine have_then (p := Keeps s0 x.1) ?_ ?_; (on_goal 2 => (intro hx; clear_value x)); (on_goal 1 => (subst x)))
    | (intro x; (have _y := (fun a => x a)); clear _y; subst x; (try beta_reduce))
    | (intro x; clear_value x)
    | (intro x; subst x)
    | lift_lets -underBinder
    | (with_reducible assumption)
    | (with_reducible apply State.encorePreempt_keeps)
    | (with_reducible refine keeps_foldl ?_ (fun _ _ _ => ?_))
    | (with_reducible refine keeps_foldl1 ?_ (fun _ _ _ => ?_))
    | (intro _ _; (try beta_reduce))
    | (intro _; (try beta_reduce)))

theorem State.complete_keeps {s0 : State} {s : State} (q : Nat) (hs : Keeps s0 s) :
    Keeps s0 (State.complete s q) := by
  unfold State.complete
  repeat' (first
    | (intro x; refine have_then (p := Keeps s0 x) ?_ ?_; (on_goal 2 => (intro hx; clear_value x)); (on_goal 1 => (subst x)))
    | (intro x; refine have_then (p := Keeps s0 x.1) ?_ ?_; (on_goal 2 => (intro hx; clear_value x)); (on_goal 1 => (subst x)))
    | (intro x; (have _y := (fun a => x a)); clear _y; subst x; (try beta_reduce))
    | (intro x; clear_value x)
    | (intro x; subst x)
    | lift_lets -underBinder
    | (with_reducible assumption)
    | (with_reducible apply State.finish_keeps)
    | (with_reducible apply State.encoreDecide_keeps)
    | split
    | (with_reducible refine keeps_fst (by with_reducible assumption) ?_)
    | (with_reducible refine keeps_snd (by with_reducible assumption) ?_)
    | (with_reducible refine Keeps.update ?_)
    | (intro _ _; (try beta_reduce))
    | (intro _; (try beta_reduce)))

end Sys2Proof.Machine
end

