-- ==== Sys2Proof/Laws/KeepsWear.lean ====
section
/-!
SUPPORT. What the operations of Machine/Wear.lean keep.
-/
namespace Sys2Proof.Machine

theorem State.noSpare_keeps {s0 : State} {s : State} (i : Nat) (hs : Keeps s0 s) :
    Keeps s0 (State.noSpare s i) := by
  unfold State.noSpare
  repeat' (first
    | (intro x; refine have_then (p := Keeps s0 x) ?_ ?_; (on_goal 2 => (intro hx; clear_value x)); (on_goal 1 => (subst x)))
    | (intro x; refine have_then (p := Keeps s0 x.1) ?_ ?_; (on_goal 2 => (intro hx; clear_value x)); (on_goal 1 => (subst x)))
    | (intro x; (have _y := (fun a => x a)); clear _y; subst x; (try beta_reduce))
    | (intro x; clear_value x)
    | (intro x; subst x)
    | lift_lets -underBinder
    | (with_reducible assumption)
    | (with_reducible apply State.setRf_keeps)
    | (with_reducible apply State.flt_keeps)
    | (with_reducible apply State.raise_keeps)
    | split
    | (with_reducible refine keeps_fst (by with_reducible assumption) ?_)
    | (with_reducible refine keeps_snd (by with_reducible assumption) ?_)
    | (with_reducible refine Keeps.update ?_)
    | (intro _ _; (try beta_reduce))
    | (intro _; (try beta_reduce)))

theorem State.queueSwap_keeps {s0 : State} {s : State} (i : Nat) (want : Option Nat) (mandatory : Bool) (hs : Keeps s0
    s) :
    Keeps s0 (State.queueSwap s i want mandatory) := by
  unfold State.queueSwap
  repeat' (first
    | (intro x; refine have_then (p := Keeps s0 x) ?_ ?_; (on_goal 2 => (intro hx; clear_value x)); (on_goal 1 => (subst x)))
    | (intro x; refine have_then (p := Keeps s0 x.s) ?_ ?_; (on_goal 2 => (intro hx; clear_value x)); (on_goal 1 => (subst x)))
    | (intro x; refine have_then (p := Keeps s0 x.1) ?_ ?_; (on_goal 2 => (intro hx; clear_value x)); (on_goal 1 => (subst x)))
    | (intro x; (have _y := (fun a => x a)); clear _y; subst x; (try beta_reduce))
    | (intro x; clear_value x)
    | (intro x; subst x)
    | lift_lets -underBinder
    | (with_reducible assumption)
    | (with_reducible apply State.setRf_keeps)
    | (with_reducible apply State.noSpare_keeps)
    | split
    | (with_reducible refine keeps_fst (by with_reducible assumption) ?_)
    | (with_reducible refine keeps_snd (by with_reducible assumption) ?_)
    | (with_reducible refine Keeps.update ?_)
    | (intro _ _; (try beta_reduce))
    | (intro _; (try beta_reduce)))

theorem State.skipWorn_keeps {s0 : State} {s : State} (i : Nat) (hs : Keeps s0 s) : Keeps s0 (State.skipWorn s i) := by
  unfold State.skipWorn
  repeat' (first
    | (intro x; refine have_then (p := Keeps s0 x) ?_ ?_; (on_goal 2 => (intro hx; clear_value x)); (on_goal 1 => (subst x)))
    | (intro x; refine have_then (p := Keeps s0 x.1) ?_ ?_; (on_goal 2 => (intro hx; clear_value x)); (on_goal 1 => (subst x)))
    | (intro x; (have _y := (fun a => x a)); clear _y; subst x; (try beta_reduce))
    | (intro x; clear_value x)
    | (intro x; subst x)
    | lift_lets -underBinder
    | (with_reducible assumption)
    | (with_reducible apply State.noSpare_keeps)
    | split
    | (with_reducible refine keeps_fst (by with_reducible assumption) ?_)
    | (with_reducible refine keeps_snd (by with_reducible assumption) ?_)
    | (with_reducible refine Keeps.update ?_)
    | (intro _ _; (try beta_reduce))
    | (intro _; (try beta_reduce)))

theorem State.replace_keeps {s0 : State} {s : State} (i : Nat) (mandatory : Bool) (hs : Keeps s0 s) :
    Keeps s0 (State.replace s i mandatory) := by
  unfold State.replace
  repeat' (first
    | (with_reducible assumption)
    | (with_reducible apply State.queueSwap_keeps)
    | (with_reducible apply State.skipWorn_keeps)
    | split
    | (with_reducible refine keeps_fst (by with_reducible assumption) ?_)
    | (with_reducible refine keeps_snd (by with_reducible assumption) ?_))

theorem State.wear_keeps {s0 : State} {s : State} (i : Nat) (mandatory : Bool) (hs : Keeps s0 s) :
    Keeps s0 (State.wear s i mandatory) := by
  unfold State.wear
  repeat' (first
    | (intro x; refine have_then (p := Keeps s0 x) ?_ ?_; (on_goal 2 => (intro hx; clear_value x)); (on_goal 1 => (subst x)))
    | (intro x; refine have_then (p := Keeps s0 x.1) ?_ ?_; (on_goal 2 => (intro hx; clear_value x)); (on_goal 1 => (subst x)))
    | (intro x; (have _y := (fun a => x a)); clear _y; subst x; (try beta_reduce))
    | (intro x; clear_value x)
    | (intro x; subst x)
    | lift_lets -underBinder
    | (with_reducible assumption)
    | (with_reducible apply State.flt_keeps)
    | (with_reducible apply State.setRecOf_keeps)
    | (with_reducible apply State.replace_keeps)
    | split
    | (with_reducible refine keeps_fst (by with_reducible assumption) ?_)
    | (with_reducible refine keeps_snd (by with_reducible assumption) ?_)
    | (with_reducible refine Keeps.update ?_))

theorem State.beatUpdate_keeps {s0 : State} {s : State} (res : Nat) (rate : Nat) (ratio : Nat) (hs : Keeps s0 s) :
    Keeps s0 (State.beatUpdate s res rate ratio) := by
  unfold State.beatUpdate
  repeat' (first
    | (intro x; refine have_then (p := Keeps s0 x) ?_ ?_; (on_goal 2 => (intro hx; clear_value x)); (on_goal 1 => (subst x)))
    | (intro x; refine have_then (p := Keeps s0 x.1) ?_ ?_; (on_goal 2 => (intro hx; clear_value x)); (on_goal 1 => (subst x)))
    | (intro x; (have _y := (fun a => x a)); clear _y; subst x; (try beta_reduce))
    | (intro x; clear_value x)
    | (intro x; subst x)
    | lift_lets -underBinder
    | (with_reducible assumption)
    | (with_reducible apply State.flt_keeps)
    | (with_reducible apply State.setPhys_keeps)
    | (with_reducible apply State.setRecOf_keeps)
    | (with_reducible apply State.wear_keeps)
    | split
    | (with_reducible refine keeps_fst (by with_reducible assumption) ?_)
    | (with_reducible refine keeps_snd (by with_reducible assumption) ?_)
    | (with_reducible refine Keeps.update ?_)
    | (intro _ _; (try beta_reduce))
    | (intro _; (try beta_reduce)))

theorem State.noteTest_keeps {s0 : State} {s : State} (i : Nat) (hs : Keeps s0 s) : Keeps s0 (State.noteTest s i) := by
  unfold State.noteTest
  repeat' (first
    | (with_reducible assumption)
    | split
    | (with_reducible refine Keeps.update ?_))

theorem State.selfTest_keeps {s0 : State} {s : State} (i : Nat) (pass : Bool) (hs : Keeps s0 s) :
    Keeps s0 (State.selfTest s i pass) := by
  unfold State.selfTest
  have hn := State.noteTest_keeps i hs
  split
  · exact hs
  · dsimp only
    generalize s.noteTest i = t at hn
    split
    · exact State.setPhys_keeps _ _ hn
    · exact State.wear_keeps _ _ (State.flt_keeps _ (State.setPhys_keeps _ _ hn))

theorem State.dropSwap_keeps {s0 : State} {s : State} (i : Nat) (hs : Keeps s0 s) :
    Keeps s0 (State.dropSwap s i) := by
  unfold State.dropSwap
  repeat' (first
    | (with_reducible assumption)
    | (with_reducible refine Keeps.update ?_))

theorem State.swapEnd_keeps {s0 : State} {s : State} (kind : Nat) (i : Nat) (result : Nat) (dur : Nat) (hs : Keeps s0 s) :
    Keeps s0 (State.swapEnd s kind i result dur) := by
  unfold State.swapEnd
  repeat' (first
    | (intro x; refine have_then (p := Keeps s0 x) ?_ ?_; (on_goal 2 => (intro hx; clear_value x)); (on_goal 1 => (subst x)))
    | (intro x; clear_value x)
    | (intro x; subst x)
    | lift_lets -underBinder
    | (with_reducible assumption)
    | (with_reducible apply State.setRf_keeps)
    | (with_reducible apply State.flt_keeps)
    | split
    | (with_reducible refine keeps_fst (by with_reducible assumption) ?_)
    | (with_reducible refine keeps_snd (by with_reducible assumption) ?_))

theorem State.moveRes_keeps {s0 : State} {s : State} (i : Nat) (j : Nat) (hs : Keeps s0 s) :
    Keeps s0 (State.moveRes s i j) := by
  unfold State.moveRes
  repeat' (first
    | (intro x; refine have_then (p := Keeps s0 x) ?_ ?_; (on_goal 2 => (intro hx; clear_value x)); (on_goal 1 => (subst x)))
    | (intro x; clear_value x)
    | (intro x; subst x)
    | lift_lets -underBinder
    | (with_reducible assumption)
    | (with_reducible apply State.setPhys_keeps)
    | (with_reducible apply State.setRecOf_keeps)
    | split
    | (with_reducible refine keeps_fst (by with_reducible assumption) ?_)
    | (with_reducible refine keeps_snd (by with_reducible assumption) ?_)
    | (with_reducible refine Keeps.update ?_))

theorem State.noPlace_keeps {s0 : State} {s : State} (r : SwapReq) (hs : Keeps s0 s) :
    Keeps s0 (State.noPlace s r) := by
  unfold State.noPlace
  repeat' (first
    | (intro x; refine have_then (p := Keeps s0 x) ?_ ?_; (on_goal 2 => (intro hx; clear_value x)); (on_goal 1 => (subst x)))
    | (intro x; refine have_then (p := Keeps s0 x.1) ?_ ?_; (on_goal 2 => (intro hx; clear_value x)); (on_goal 1 => (subst x)))
    | (intro x; (have _y := (fun a => x a)); clear _y; subst x; (try beta_reduce))
    | (intro x; clear_value x)
    | (intro x; subst x)
    | lift_lets -underBinder
    | (with_reducible assumption)
    | (with_reducible apply State.noSpare_keeps)
    | (with_reducible apply State.queueSwap_keeps)
    | (with_reducible apply State.dropSwap_keeps)
    | split
    | (with_reducible refine keeps_fst (by with_reducible assumption) ?_)
    | (with_reducible refine keeps_snd (by with_reducible assumption) ?_)
    | (with_reducible refine Keeps.update ?_)
    | (intro _ _; (try beta_reduce))
    | (intro _; (try beta_reduce)))

theorem State.spareFails_keeps {s0 : State} {s : State} (r : SwapReq) (j : Nat) (dur : Nat) (hs : Keeps s0 s) :
    Keeps s0 (State.spareFails s r j dur) := by
  unfold State.spareFails
  repeat' (first
    | (intro x; refine have_then (p := Keeps s0 x) ?_ ?_; (on_goal 2 => (intro hx; clear_value x)); (on_goal 1 => (subst x)))
    | (intro x; refine have_then (p := Keeps s0 x.1) ?_ ?_; (on_goal 2 => (intro hx; clear_value x)); (on_goal 1 => (subst x)))
    | (intro x; (have _y := (fun a => x a)); clear _y; subst x; (try beta_reduce))
    | (intro x; clear_value x)
    | (intro x; subst x)
    | lift_lets -underBinder
    | (with_reducible assumption)
    | (with_reducible apply State.noSpare_keeps)
    | (with_reducible apply State.dropSwap_keeps)
    | (with_reducible apply State.setPhys_keeps)
    | (with_reducible apply State.encorePreempt_keeps)
    | (with_reducible apply State.wear_keeps)
    | (with_reducible apply State.swapEnd_keeps)
    | (with_reducible apply State.noPlace_keeps)
    | split
    | (with_reducible refine keeps_fst (by with_reducible assumption) ?_)
    | (with_reducible refine keeps_snd (by with_reducible assumption) ?_)
    | (with_reducible refine Keeps.update ?_)
    | (intro _ _; (try beta_reduce))
    | (intro _; (try beta_reduce)))

theorem State.swapOne_keeps {s0 : State} {s : State} (kind : Nat) (pass : Bool) (dur : Nat) (prep : State → Nat → State)
    (ready : State → Nat → Bool) (act : State → Nat → State) (fin : State → State → Nat → State) (hs : Keeps s0 s)
    (hprep : ∀ s l, Keeps s0 s → Keeps s0 (prep s l)) (hact : ∀ s l, Keeps s0 s → Keeps s0 (act s l))
    (hfin : ∀ o s l, Keeps s0 s → Keeps s0 (fin o s l)) :
    Keeps s0 (State.swapOne s kind pass dur prep ready act fin) := by
  unfold State.swapOne
  repeat' (first
    | (intro x; refine have_then (p := Keeps s0 x) ?_ ?_; (on_goal 2 => (intro hx; clear_value x)); (on_goal 1 => (subst x)))
    | (intro x; clear_value x)
    | (intro x; subst x)
    | lift_lets -underBinder
    | (with_reducible assumption)
    | (with_reducible apply State.queueSwap_keeps)
    | (with_reducible apply State.noSpare_keeps)
    | (with_reducible apply hready)
    | (with_reducible refine keeps_fst (by with_reducible assumption) ?_)
    | (with_reducible refine keeps_snd (by with_reducible assumption) ?_)
    | (with_reducible apply hfin)
    | (with_reducible apply State.noPlace_keeps)
    | (with_reducible apply State.spareFails_keeps)
    | (with_reducible apply State.swapEnd_keeps)
    | (with_reducible apply State.dropSwap_keeps)
    | (with_reducible apply hact)
    | (with_reducible apply State.moveRes_keeps)
    | (with_reducible apply State.encorePreempt_keeps)
    | (with_reducible apply hprep)
    | split)

theorem State.drainPairs_keeps {s0 : State} (q k : Nat) {s : State} (hs : Keeps s0 s) :
    Keeps s0 (State.drainPairs q k s) := by
  induction k generalizing s with
  | zero => exact hs
  | succ k ih =>
    unfold State.drainPairs
    repeat' (first
      | (with_reducible assumption)
      | (with_reducible apply ih)
      | (with_reducible apply State.compare_keeps)
      | split)

theorem State.parkNow_keeps {s0 : State} {s : State} (q : Nat) (hs : Keeps s0 s) :
    Keeps s0 (State.parkNow s q) := by
  unfold State.parkNow
  repeat' (first
    | (with_reducible assumption)
    | (with_reducible apply State.drainPairs_keeps)
    | (with_reducible apply State.recordWritten_keeps)
    | (intro _ _; (try beta_reduce))
    | (intro _; (try beta_reduce))
    | split
    | (with_reducible refine keeps_fst (by with_reducible assumption) ?_)
    | (with_reducible refine keeps_snd (by with_reducible assumption) ?_))

theorem State.laneSwap_keeps {s0 : State} {s : State} (pass : Bool) (dur : Nat) (hs : Keeps s0 s) :
    Keeps s0 (State.laneSwap s pass dur) :=
  State.swapOne_keeps _ _ _ _ _ _ _ hs (fun _ _ h => h) (fun _ _ h => h) fun _ _ _ h => h

theorem State.parkEngine_keeps {s0 : State} {s : State} (e : Nat) (hs : Keeps s0 s) :
    Keeps s0 (State.parkEngine s e) := by
  unfold State.parkEngine
  repeat' (first
    | (intro x; refine have_then (p := Keeps s0 x) ?_ ?_; (on_goal 2 => (intro hx; clear_value x)); (on_goal 1 => (subst x)))
    | (intro x; refine have_then (p := Keeps s0 x.1) ?_ ?_; (on_goal 2 => (intro hx; clear_value x)); (on_goal 1 => (subst x)))
    | (intro x; (have _y := (fun a => x a)); clear _y; subst x; (try beta_reduce))
    | (intro x; clear_value x)
    | (intro x; subst x)
    | lift_lets -underBinder
    | (with_reducible assumption)
    | (with_reducible apply State.suspend_keeps)
    | (with_reducible apply State.parkNow_keeps)
    | split
    | (with_reducible refine keeps_fst (by with_reducible assumption) ?_)
    | (with_reducible refine keeps_snd (by with_reducible assumption) ?_)
    | (with_reducible refine Keeps.update ?_)
    | (intro _ _; (try beta_reduce))
    | (intro _; (try beta_reduce)))

theorem State.resumeEngine_keeps {s0 : State} {s : State} (e : Nat) (hs : Keeps s0 s) :
    Keeps s0 (State.resumeEngine s e) := by
  unfold State.resumeEngine
  repeat' (first
    | (with_reducible assumption)
    | (with_reducible apply State.settle_keeps)
    | (with_reducible apply State.tryStart_keeps))

theorem State.swapLoss_keeps {s0 : State} {s : State} (old : State) (e : Nat) (dur : Nat) (hs : Keeps s0 s) :
    Keeps s0 (State.swapLoss old s e dur) := by
  unfold State.swapLoss
  repeat' (first
    | (intro x; refine have_then (p := Keeps s0 x) ?_ ?_; (on_goal 2 => (intro hx; clear_value x)); (on_goal 1 => (subst x)))
    | (intro x; refine have_then (p := Keeps s0 x.1) ?_ ?_; (on_goal 2 => (intro hx; clear_value x)); (on_goal 1 => (subst x)))
    | (intro x; (have _y := (fun a => x a)); clear _y; subst x; (try beta_reduce))
    | (intro x; clear_value x)
    | (intro x; subst x)
    | lift_lets -underBinder
    | (with_reducible assumption)
    | (with_reducible apply State.setRf_keeps)
    | split
    | (with_reducible refine keeps_fst (by with_reducible assumption) ?_)
    | (with_reducible refine keeps_snd (by with_reducible assumption) ?_)
    | (with_reducible refine Keeps.update ?_)
    | (intro _ _; (try beta_reduce))
    | (intro _; (try beta_reduce)))

theorem State.engineMigration_keeps {s0 : State} {s : State} (pass : Bool) (dur : Nat) (hs : Keeps s0 s) :
    Keeps s0 (State.engineMigration s pass dur) :=
  State.swapOne_keeps _ _ _ _ _ _ _ hs (fun _ e h => State.parkEngine_keeps e h) (fun _ _ h => State.satRf_keeps _ _ _ h)
    fun _ _ _ h => State.swapLoss_keeps _ _ _ (State.resumeEngine_keeps _ h)

theorem State.sealUnitSwap_keeps {s0 : State} {s : State} (pass : Bool) (dur : Nat) (hs : Keeps s0 s) :
    Keeps s0 (State.sealUnitSwap s pass dur) :=
  State.swapOne_keeps _ _ _ _ _ _ _ hs (fun _ _ h => h) (fun _ _ h => State.satRf_keeps _ _ _ h) fun _ _ _ h => h

theorem State.comparatorSubst_keeps {s0 : State} {s : State} (q : Nat) (hs : Keeps s0 s) :
    Keeps s0 (State.comparatorSubst s q) := by
  unfold State.comparatorSubst
  repeat' (first
    | (intro x; refine have_then (p := Keeps s0 x) ?_ ?_; (on_goal 2 => (intro hx; clear_value x)); (on_goal 1 => (subst x)))
    | (intro x; refine have_then (p := Keeps s0 x.1) ?_ ?_; (on_goal 2 => (intro hx; clear_value x)); (on_goal 1 => (subst x)))
    | (intro x; (have _y := (fun a => x a)); clear _y; subst x; (try beta_reduce))
    | (intro x; clear_value x)
    | (intro x; subst x)
    | lift_lets -underBinder
    | (with_reducible assumption)
    | (with_reducible apply State.takeFree_keeps)
    | (with_reducible apply State.takeFree_keeps)
    | (with_reducible apply State.dropSwap_keeps)
    | (with_reducible apply State.swapEnd_keeps)
    | (with_reducible apply State.moveRes_keeps)
    | (with_reducible apply State.noPlace_keeps)
    | split
    | (with_reducible refine keeps_fst (by with_reducible assumption) ?_)
    | (with_reducible refine keeps_snd (by with_reducible assumption) ?_)
    | (with_reducible refine Keeps.update ?_)
    | (intro _ _; (try beta_reduce))
    | (intro _; (try beta_reduce)))

theorem State.deferExpiry_keeps {s0 : State} {s : State} (hs : Keeps s0 s) : Keeps s0 (State.deferExpiry s) := by
  unfold State.deferExpiry
  repeat' (first
    | (intro x; refine have_then (p := Keeps s0 x) ?_ ?_; (on_goal 2 => (intro hx; clear_value x)); (on_goal 1 => (subst x)))
    | (intro x; refine have_then (p := Keeps s0 x.1) ?_ ?_; (on_goal 2 => (intro hx; clear_value x)); (on_goal 1 => (subst x)))
    | (intro x; (have _y := (fun a => x a)); clear _y; subst x; (try beta_reduce))
    | (intro x; clear_value x)
    | (intro x; subst x)
    | lift_lets -underBinder
    | (with_reducible assumption)
    | (with_reducible refine Keeps.update ?_)
    | (intro _ _; (try beta_reduce))
    | (intro _; (try beta_reduce)))

theorem State.swapCmd_keeps {s0 : State} {s : State} (kind : Nat) (target : Nat) (lane : Nat) (phys : Nat) (hs : Keeps s0 s) :
    Keeps s0 (State.swapCmd s kind target lane phys) := by
  unfold State.swapCmd
  repeat' (first
    | (intro x; refine have_then (p := Keeps s0 x) ?_ ?_; (on_goal 2 => (intro hx; clear_value x)); (on_goal 1 => (subst x)))
    | (intro x; (have _y := (fun a => x a)); clear _y; subst x; (try beta_reduce))
    | (intro x; clear_value x)
    | (intro x; subst x)
    | lift_lets -underBinder
    | (with_reducible assumption)
    | (with_reducible apply State.locked_keeps)
    | (with_reducible apply State.queueSwap_keeps)
    | split
    | (with_reducible refine keeps_fst (by with_reducible assumption) ?_)
    | (with_reducible refine keeps_snd (by with_reducible assumption) ?_))

end Sys2Proof.Machine
end

