-- ==== Sys2Proof/Laws/KeepsLinks.lean ====
section
/-!
SUPPORT. What the operations of Machine/Links.lean keep.
-/
namespace Sys2Proof.Machine

theorem State.setLnk_keeps {s0 : State} {s : State} (x : LnkSt) (hs : Keeps s0 s) :
    Keeps s0 (State.setLnk s x) := by
  unfold State.setLnk
  repeat' (first
    | (with_reducible assumption)
    | (with_reducible refine Keeps.update ?_))

theorem State.portCount_keeps {s0 : State} {s : State} (p : Nat) (i : Nat) (hs : Keeps s0 s) :
    Keeps s0 (State.portCount s p i) := by
  unfold State.portCount
  repeat' (first
    | (intro x; refine have_then (p := Keeps s0 x) ?_ ?_; (on_goal 2 => (intro hx; clear_value x)); (on_goal 1 => (subst x)))
    | (intro x; clear_value x)
    | (intro x; subst x)
    | lift_lets -underBinder
    | (with_reducible assumption)
    | (with_reducible apply State.setLnk_keeps)
    | split
    | (with_reducible refine keeps_fst (by with_reducible assumption) ?_)
    | (with_reducible refine keeps_snd (by with_reducible assumption) ?_)
    | (with_reducible refine Keeps.update ?_))

theorem State.linkUp_keeps {s0 : State} {s : State} (p : Nat) (speed : Nat) (fec : Nat) (hs : Keeps s0 s) :
    Keeps s0 (State.linkUp s p speed fec) := by
  unfold State.linkUp
  repeat' (first
    | (intro x; refine have_then (p := Keeps s0 x) ?_ ?_; (on_goal 2 => (intro hx; clear_value x)); (on_goal 1 => (subst x)))
    | (intro x; refine have_then (p := Keeps s0 x.1) ?_ ?_; (on_goal 2 => (intro hx; clear_value x)); (on_goal 1 => (subst x)))
    | (intro x; (have _y := (fun a => x a)); clear _y; subst x; (try beta_reduce))
    | (intro x; clear_value x)
    | (intro x; subst x)
    | lift_lets -underBinder
    | (with_reducible assumption)
    | (with_reducible apply State.setRf_keeps)
    | split
    | (with_reducible refine keeps_fst (by with_reducible assumption) ?_)
    | (with_reducible refine keeps_snd (by with_reducible assumption) ?_)
    | (with_reducible refine Keeps.update ?_)
    | (intro _ _; (try beta_reduce))
    | (intro _; (try beta_reduce)))

theorem State.linkDown_keeps {s0 : State} {s : State} (p : Nat) (hs : Keeps s0 s) :
    Keeps s0 (State.linkDown s p) := by
  unfold State.linkDown
  repeat' (first
    | (intro x; refine have_then (p := Keeps s0 x) ?_ ?_; (on_goal 2 => (intro hx; clear_value x)); (on_goal 1 => (subst x)))
    | (intro x; clear_value x)
    | (intro x; subst x)
    | lift_lets -underBinder
    | (with_reducible assumption)
    | (with_reducible apply State.setRf_keeps)
    | (with_reducible apply State.flt_keeps)
    | split
    | (with_reducible refine keeps_fst (by with_reducible assumption) ?_)
    | (with_reducible refine keeps_snd (by with_reducible assumption) ?_))

theorem State.setPtp_keeps {s0 : State} {s : State} (p : Nat) (x : PtpSt) (hs : Keeps s0 s) :
    Keeps s0 (State.setPtp s p x) := by
  unfold State.setPtp
  repeat' (first
    | (with_reducible assumption)
    | (with_reducible apply State.setLnk_keeps)
    | (with_reducible refine Keeps.update ?_))

theorem State.unsync_keeps {s0 : State} {s : State} (p : Nat) (hs : Keeps s0 s) :
    Keeps s0 (State.unsync s p) := by
  unfold State.unsync
  repeat' (first
    | (intro x; refine have_then (p := Keeps s0 x) ?_ ?_; (on_goal 2 => (intro hx; clear_value x)); (on_goal 1 => (subst x)))
    | (intro x; clear_value x)
    | (intro x; subst x)
    | lift_lets -underBinder
    | (with_reducible assumption)
    | (with_reducible apply State.setPtp_keeps)
    | (with_reducible apply State.setRf_keeps)
    | (with_reducible apply State.flt_keeps)
    | split
    | (with_reducible refine keeps_fst (by with_reducible assumption) ?_)
    | (with_reducible refine keeps_snd (by with_reducible assumption) ?_)
    | (with_reducible refine Keeps.update ?_))

theorem State.gptpSync_keeps {s0 : State} {s : State} (p : Nat) (m : SyncMsg) (offset : Nat) (interval : Nat) (hs : Keeps s0 s) :
    Keeps s0 (State.gptpSync s p m offset interval) := by
  unfold State.gptpSync
  repeat' (first
    | (intro x; refine have_then (p := Keeps s0 x) ?_ ?_; (on_goal 2 => (intro hx; clear_value x)); (on_goal 1 => (subst x)))
    | (intro x; refine have_then (p := Keeps s0 x.1) ?_ ?_; (on_goal 2 => (intro hx; clear_value x)); (on_goal 1 => (subst x)))
    | (intro x; (have _y := (fun a => x a)); clear _y; subst x; (try beta_reduce))
    | (intro x; clear_value x)
    | (intro x; subst x)
    | lift_lets -underBinder
    | (with_reducible assumption)
    | (with_reducible apply State.setReg_keeps)
    | (with_reducible apply State.setReg_keeps)
    | (with_reducible apply State.setRf_keeps)
    | (with_reducible apply State.setPtp_keeps)
    | (with_reducible apply State.unsync_keeps)
    | split
    | (with_reducible refine keeps_fst (by with_reducible assumption) ?_)
    | (with_reducible refine keeps_snd (by with_reducible assumption) ?_)
    | (with_reducible refine Keeps.update ?_)
    | (intro _ _; (try beta_reduce))
    | (intro _; (try beta_reduce)))

theorem State.announce_keeps {s0 : State} {s : State} (p : Nat) (msg : AnnounceMsg) (master : Word) (hs : Keeps s0 s) :
    Keeps s0 (State.announce s p msg master) := by
  unfold State.announce
  repeat' (first
    | (intro x; refine have_then (p := Keeps s0 x) ?_ ?_; (on_goal 2 => (intro hx; clear_value x)); (on_goal 1 => (subst x)))
    | (intro x; refine have_then (p := Keeps s0 x.1) ?_ ?_; (on_goal 2 => (intro hx; clear_value x)); (on_goal 1 => (subst x)))
    | (intro x; (have _y := (fun a => x a)); clear _y; subst x; (try beta_reduce))
    | (intro x; clear_value x)
    | (intro x; subst x)
    | lift_lets -underBinder
    | (with_reducible assumption)
    | (with_reducible apply State.setPtp_keeps)
    | split
    | (with_reducible refine keeps_fst (by with_reducible assumption) ?_)
    | (with_reducible refine keeps_snd (by with_reducible assumption) ?_)
    | (with_reducible refine Keeps.update ?_)
    | (intro _ _; (try beta_reduce))
    | (intro _; (try beta_reduce)))

theorem State.pdelay_keeps {s0 : State} {s : State} (p : Nat) (delay : Nat) (hs : Keeps s0 s) :
    Keeps s0 (State.pdelay s p delay) := by
  unfold State.pdelay
  repeat' (first
    | (with_reducible assumption)
    | (with_reducible apply State.setPtp_keeps)
    | split
    | (with_reducible refine keeps_fst (by with_reducible assumption) ?_)
    | (with_reducible refine keeps_snd (by with_reducible assumption) ?_)
    | (with_reducible refine Keeps.update ?_))

theorem State.syncTimeout_keeps {s0 : State} {s : State} (p : Nat) (hs : Keeps s0 s) :
    Keeps s0 (State.syncTimeout s p) := by
  unfold State.syncTimeout
  repeat' (first
    | (intro x; refine have_then (p := Keeps s0 x) ?_ ?_; (on_goal 2 => (intro hx; clear_value x)); (on_goal 1 => (subst x)))
    | (intro x; refine have_then (p := Keeps s0 x.1) ?_ ?_; (on_goal 2 => (intro hx; clear_value x)); (on_goal 1 => (subst x)))
    | (intro x; (have _y := (fun a => x a)); clear _y; subst x; (try beta_reduce))
    | (intro x; clear_value x)
    | (intro x; subst x)
    | lift_lets -underBinder
    | (with_reducible assumption)
    | (with_reducible apply State.unsync_keeps)
    | split
    | (with_reducible refine keeps_fst (by with_reducible assumption) ?_)
    | (with_reducible refine keeps_snd (by with_reducible assumption) ?_)
    | (with_reducible refine Keeps.update ?_)
    | (intro _ _; (try beta_reduce))
    | (intro _; (try beta_reduce)))

theorem State.setAssoc_keeps {s0 : State} {s : State} (p : Nat) (dir : Nat) (an : Nat) (x : Option Assoc) (hs : Keeps s0 s) :
    Keeps s0 (State.setAssoc s p dir an x) := by
  unfold State.setAssoc
  repeat' (first
    | (with_reducible assumption)
    | (with_reducible apply State.setLnk_keeps)
    | (with_reducible refine Keeps.update ?_))

theorem State.filterFrame_keeps {s0 : State} {s : State} (p : Nat) (frame : List Byte) (hs : Keeps s0 s) :
    Keeps s0 (State.filterFrame s p frame).1 := by
  unfold State.filterFrame
  repeat' (first
    | (intro x; refine have_then (p := Keeps s0 x) ?_ ?_; (on_goal 2 => (intro hx; clear_value x)); (on_goal 1 => (subst x)))
    | (intro x; clear_value x)
    | (intro x; subst x)
    | lift_lets -underBinder
    | (with_reducible assumption)
    | (with_reducible apply State.satRf_keeps)
    | (with_reducible apply State.portCount_keeps)
    | (with_reducible apply State.addRf_keeps)
    | (with_reducible apply State.setLnk_keeps)
    | split
    | (with_reducible refine keeps_fst (by with_reducible assumption) ?_)
    | (with_reducible refine keeps_snd (by with_reducible assumption) ?_)
    | (with_reducible refine Keeps.update ?_))

theorem State.secFrame_keeps {s0 : State} {s : State} (p : Nat) (sec : Option SecTag) (hs : Keeps s0 s) :
    Keeps s0 (State.secFrame s p sec).1 := by
  unfold State.secFrame
  repeat' (first
    | (intro x; refine have_then (p := Keeps s0 x) ?_ ?_; (on_goal 2 => (intro hx; clear_value x)); (on_goal 1 => (subst x)))
    | (intro x; refine have_then (p := Keeps s0 x.1) ?_ ?_; (on_goal 2 => (intro hx; clear_value x)); (on_goal 1 => (subst x)))
    | (intro x; (have _y := (fun a => x a)); clear _y; subst x; (try beta_reduce))
    | (intro x; clear_value x)
    | (intro x; subst x)
    | lift_lets -underBinder
    | (with_reducible assumption)
    | (with_reducible apply State.next_keeps)
    | (with_reducible apply State.portCount_keeps)
    | (with_reducible apply State.setAssoc_keeps)
    | split
    | (with_reducible refine keeps_fst (by with_reducible assumption) ?_)
    | (with_reducible refine keeps_snd (by with_reducible assumption) ?_)
    | (with_reducible refine Keeps.update ?_)
    | (intro _ _; (try beta_reduce))
    | (intro _; (try beta_reduce)))

theorem State.setWire_keeps {s0 : State} {s : State} (p : Nat) (q : List (Option Nat × List Byte)) (hs : Keeps s0 s) :
    Keeps s0 (State.setWire s p q) := by
  unfold State.setWire
  repeat' (first
    | (intro x; refine have_then (p := Keeps s0 x) ?_ ?_; (on_goal 2 => (intro hx; clear_value x)); (on_goal 1 => (subst x)))
    | (intro x; refine have_then (p := Keeps s0 x.1) ?_ ?_; (on_goal 2 => (intro hx; clear_value x)); (on_goal 1 => (subst x)))
    | (intro x; (have _y := (fun a => x a)); clear _y; subst x; (try beta_reduce))
    | (intro x; clear_value x)
    | (intro x; subst x)
    | lift_lets -underBinder
    | (with_reducible assumption)
    | (with_reducible apply State.setLnk_keeps)
    | split
    | (with_reducible refine keeps_fst (by with_reducible assumption) ?_)
    | (with_reducible refine keeps_snd (by with_reducible assumption) ?_)
    | (with_reducible refine Keeps.update ?_)
    | (intro _ _; (try beta_reduce))
    | (intro _; (try beta_reduce)))

theorem State.frameAccept_keeps {s0 : State} {s : State} (p : Nat) (frame : List Byte) (hs : Keeps s0 s) :
    Keeps s0 (State.frameAccept s p frame) := by
  unfold State.frameAccept
  repeat' (first
    | (intro x; refine have_then (p := Keeps s0 x) ?_ ?_; (on_goal 2 => (intro hx; clear_value x)); (on_goal 1 => (subst x)))
    | (intro x; refine have_then (p := Keeps s0 x.1) ?_ ?_; (on_goal 2 => (intro hx; clear_value x)); (on_goal 1 => (subst x)))
    | (intro x; (have _y := (fun a => x a)); clear _y; subst x; (try beta_reduce))
    | (intro x; clear_value x)
    | (intro x; subst x)
    | lift_lets -underBinder
    | (with_reducible assumption)
    | (with_reducible apply State.setWire_keeps)
    | split
    | (with_reducible refine keeps_fst (by with_reducible assumption) ?_)
    | (with_reducible refine keeps_snd (by with_reducible assumption) ?_)
    | (with_reducible refine Keeps.update ?_)
    | (intro _ _; (try beta_reduce))
    | (intro _; (try beta_reduce)))

theorem State.frameReceive_keeps {s0 : State} {s : State} (p : Nat) (frame : List Byte) (fcsOk : Bool) (cut : Bool) (sec : Option SecTag) (hs : Keeps s0 s) :
    Keeps s0 (State.frameReceive s p frame fcsOk cut sec) := by
  unfold State.frameReceive
  repeat' (first
    | (intro x; refine have_then (p := Keeps s0 x) ?_ ?_; (on_goal 2 => (intro hx; clear_value x)); (on_goal 1 => (subst x)))
    | (intro x; refine have_then (p := Keeps s0 x.1) ?_ ?_; (on_goal 2 => (intro hx; clear_value x)); (on_goal 1 => (subst x)))
    | (intro x; (have _y := (fun a => x a)); clear _y; subst x; (try beta_reduce))
    | (intro x; clear_value x)
    | (intro x; subst x)
    | lift_lets -underBinder
    | (with_reducible assumption)
    | (with_reducible apply State.portCount_keeps)
    | (with_reducible apply State.filterFrame_keeps)
    | (with_reducible apply State.secFrame_keeps)
    | (with_reducible apply State.frameAccept_keeps)
    | split
    | (with_reducible refine keeps_fst (by with_reducible assumption) ?_)
    | (with_reducible refine keeps_snd (by with_reducible assumption) ?_)
    | (with_reducible refine Keeps.update ?_)
    | (intro _ _; (try beta_reduce))
    | (intro _; (try beta_reduce)))

theorem State.rxReject_keeps {s0 : State} {s : State} (p : Nat) (n : Nat) (code : Nat) (hs : Keeps s0 s) :
    Keeps s0 (State.rxReject s p n code) := by
  unfold State.rxReject
  repeat' (first
    | (intro x; refine have_then (p := Keeps s0 x) ?_ ?_; (on_goal 2 => (intro hx; clear_value x)); (on_goal 1 => (subst x)))
    | (intro x; clear_value x)
    | (intro x; subst x)
    | lift_lets -underBinder
    | (with_reducible assumption)
    | (with_reducible apply State.satRf_keeps)
    | (with_reducible apply State.setRf_keeps)
    | (with_reducible apply State.raise_keeps)
    | split
    | (with_reducible refine keeps_fst (by with_reducible assumption) ?_)
    | (with_reducible refine keeps_snd (by with_reducible assumption) ?_))

theorem State.noRoom_keeps {s0 : State} {s : State} (p : Nat) (n : Nat) (hs : Keeps s0 s) :
    Keeps s0 (State.noRoom s p n) := by
  unfold State.noRoom
  repeat' (first
    | (intro x; refine have_then (p := Keeps s0 x) ?_ ?_; (on_goal 2 => (intro hx; clear_value x)); (on_goal 1 => (subst x)))
    | (intro x; clear_value x)
    | (intro x; subst x)
    | lift_lets -underBinder
    | (with_reducible assumption)
    | (with_reducible apply State.satRf_keeps)
    | (with_reducible apply State.setRf_keeps)
    | (with_reducible apply State.portCount_keeps)
    | (with_reducible apply State.flt_keeps)
    | split
    | (with_reducible refine keeps_fst (by with_reducible assumption) ?_)
    | (with_reducible refine keeps_snd (by with_reducible assumption) ?_))

theorem State.setRxq_keeps {s0 : State} {s : State} (p : Nat) (q : List (Nat × List Byte × Nat)) (hs : Keeps s0 s) :
    Keeps s0 (State.setRxq s p q) := by
  unfold State.setRxq
  repeat' (first
    | (with_reducible assumption)
    | (with_reducible apply State.setLnk_keeps)
    | (with_reducible refine Keeps.update ?_))

theorem State.rxAccept_keeps {s0 : State} {s : State} (p : Nat) (n : Nat) (tel : List Byte) (hs : Keeps s0 s) :
    Keeps s0 (State.rxAccept s p n tel) := by
  unfold State.rxAccept
  repeat' (first
    | (intro x; refine have_then (p := Keeps s0 x) ?_ ?_; (on_goal 2 => (intro hx; clear_value x)); (on_goal 1 => (subst x)))
    | (intro x; (have _y := (fun a => x a)); clear _y; subst x; (try beta_reduce))
    | (intro x; clear_value x)
    | (intro x; subst x)
    | lift_lets -underBinder
    | (with_reducible assumption)
    | (with_reducible apply State.noRoom_keeps)
    | (with_reducible apply State.setRxq_keeps)
    | (with_reducible refine keeps_foldl ?_ (fun _ _ _ => ?_))
    | split
    | (with_reducible refine keeps_fst (by with_reducible assumption) ?_)
    | (with_reducible refine keeps_snd (by with_reducible assumption) ?_))

theorem State.rxCheck_keeps {s0 : State} {s : State} (p : Nat) (n : Nat) (tel : List Byte) (hs : Keeps s0 s) :
    Keeps s0 (State.rxCheck s p n tel) := by
  unfold State.rxCheck
  repeat' (first
    | (intro x; refine have_then (p := Keeps s0 x) ?_ ?_; (on_goal 2 => (intro hx; clear_value x)); (on_goal 1 => (subst x)))
    | (intro x; clear_value x)
    | (intro x; subst x)
    | lift_lets -underBinder
    | (with_reducible assumption)
    | (with_reducible apply State.rxReject_keeps)
    | (with_reducible apply State.satRf_keeps)
    | (with_reducible apply State.setRf_keeps)
    | (with_reducible apply State.addRf_keeps)
    | (with_reducible apply State.rxAccept_keeps)
    | (with_reducible apply State.take_keeps)
    | (with_reducible apply State.fire_keeps)
    | split
    | (with_reducible refine keeps_fst (by with_reducible assumption) ?_)
    | (with_reducible refine keeps_snd (by with_reducible assumption) ?_))

theorem State.askustCheck_keeps {s0 : State} {s : State} (p : Nat) (rtag : Option Nat) (tel : List Byte) (hs : Keeps s0 s) :
    Keeps s0 (State.askustCheck s p rtag tel) := by
  unfold State.askustCheck
  repeat' (first
    | (intro x; refine have_then (p := Keeps s0 x) ?_ ?_; (on_goal 2 => (intro hx; clear_value x)); (on_goal 1 => (subst x)))
    | (intro x; refine have_then (p := Keeps s0 x.1) ?_ ?_; (on_goal 2 => (intro hx; clear_value x)); (on_goal 1 => (subst x)))
    | (intro x; (have _y := (fun a => x a)); clear _y; subst x; (try beta_reduce))
    | (intro x; clear_value x)
    | (intro x; subst x)
    | lift_lets -underBinder
    | (with_reducible assumption)
    | (with_reducible apply State.satRf_keeps)
    | (with_reducible apply State.setLnk_keeps)
    | (with_reducible apply State.portCount_keeps)
    | (with_reducible apply State.rxReject_keeps)
    | (with_reducible apply State.rxCheck_keeps)
    | split
    | (with_reducible refine keeps_fst (by with_reducible assumption) ?_)
    | (with_reducible refine keeps_snd (by with_reducible assumption) ?_)
    | (with_reducible refine Keeps.update ?_)
    | (intro _ _; (try beta_reduce))
    | (intro _; (try beta_reduce)))

theorem State.askust_keeps {s0 : State} {s : State} (p : Nat) (rtag : Option Nat) (tel : List Byte) (hs : Keeps s0 s) :
    Keeps s0 (State.askust s p rtag tel) := by
  unfold State.askust
  repeat' (first
    | (intro x; refine have_then (p := Keeps s0 x) ?_ ?_; (on_goal 2 => (intro hx; clear_value x)); (on_goal 1 => (subst x)))
    | (intro x; refine have_then (p := Keeps s0 x.1) ?_ ?_; (on_goal 2 => (intro hx; clear_value x)); (on_goal 1 => (subst x)))
    | (intro x; (have _y := (fun a => x a)); clear _y; subst x; (try beta_reduce))
    | (intro x; clear_value x)
    | (intro x; subst x)
    | lift_lets -underBinder
    | (with_reducible assumption)
    | (with_reducible apply State.rxReject_keeps)
    | (with_reducible apply State.take_keeps)
    | (with_reducible apply State.portCount_keeps)
    | (with_reducible apply State.rxCheck_keeps)
    | (with_reducible apply State.satRf_keeps)
    | (with_reducible apply State.setLnk_keeps)
    | (with_reducible apply State.setWire_keeps)
    | (with_reducible apply State.askustCheck_keeps)
    | split
    | (with_reducible refine keeps_fst (by with_reducible assumption) ?_)
    | (with_reducible refine keeps_snd (by with_reducible assumption) ?_)
    | (with_reducible refine Keeps.update ?_)
    | (intro _ _; (try beta_reduce))
    | (intro _; (try beta_reduce)))

theorem State.delivery_keeps {s0 : State} {s : State} (p : Nat) (hs : Keeps s0 s) :
    Keeps s0 (State.delivery s p) := by
  unfold State.delivery
  repeat' (first
    | (intro x; refine have_then (p := Keeps s0 x) ?_ ?_; (on_goal 2 => (intro hx; clear_value x)); (on_goal 1 => (subst x)))
    | (intro x; refine have_then (p := Keeps s0 x.1) ?_ ?_; (on_goal 2 => (intro hx; clear_value x)); (on_goal 1 => (subst x)))
    | (intro x; (have _y := (fun a => x a)); clear _y; subst x; (try beta_reduce))
    | (intro x; clear_value x)
    | (intro x; subst x)
    | lift_lets -underBinder
    | (with_reducible assumption)
    | (with_reducible refine State.frameWrite_keeps _ _ _ _ (by with_reducible assumption) ?_)
    | (with_reducible apply State.relayPut_keeps)
    | (with_reducible apply State.relaySeal_keeps)
    | (with_reducible apply State.writeNote_keeps)
    | (with_reducible apply State.noRoom_keeps)
    | (with_reducible apply State.setRxq_keeps)
    | split
    | (with_reducible refine keeps_fst (by with_reducible assumption) ?_)
    | (with_reducible refine keeps_snd (by with_reducible assumption) ?_)
    | (with_reducible refine Keeps.update ?_)
    | (intro _ _; (try beta_reduce))
    | (intro _; (try beta_reduce)))

theorem State.setGate_keeps {s0 : State} {s : State} (p : Nat) (x : GateSt) (hs : Keeps s0 s) :
    Keeps s0 (State.setGate s p x) := by
  unfold State.setGate
  repeat' (first
    | (with_reducible assumption)
    | (with_reducible apply State.setLnk_keeps)
    | (with_reducible refine Keeps.update ?_))

theorem State.wireSend_keeps {s0 : State} {s : State} (p : Nat) (frame : List Byte) (hs : Keeps s0 s) :
    Keeps s0 (State.wireSend s p frame) := by
  unfold State.wireSend
  repeat' (first
    | (intro x; refine have_then (p := Keeps s0 x) ?_ ?_; (on_goal 2 => (intro hx; clear_value x)); (on_goal 1 => (subst x)))
    | (intro x; refine have_then (p := Keeps s0 x.1) ?_ ?_; (on_goal 2 => (intro hx; clear_value x)); (on_goal 1 => (subst x)))
    | (intro x; (have _y := (fun a => x a)); clear _y; subst x; (try beta_reduce))
    | (intro x; clear_value x)
    | (intro x; subst x)
    | lift_lets -underBinder
    | (with_reducible assumption)
    | (with_reducible apply State.setReg_keeps)
    | (with_reducible apply State.setReg_keeps)
    | (with_reducible apply State.flt_keeps)
    | (with_reducible apply State.setLnk_keeps)
    | (with_reducible apply State.portCount_keeps)
    | split
    | (with_reducible refine keeps_fst (by with_reducible assumption) ?_)
    | (with_reducible refine keeps_snd (by with_reducible assumption) ?_)
    | (with_reducible refine Keeps.update ?_)
    | (intro _ _; (try beta_reduce))
    | (intro _; (try beta_reduce)))

theorem State.setTxq_keeps {s0 : State} {s : State} (p : Nat) (q : List (Nat × List Byte)) (hs : Keeps s0 s) :
    Keeps s0 (State.setTxq s p q) := by
  unfold State.setTxq
  repeat' (first
    | (with_reducible assumption)
    | (with_reducible apply State.setLnk_keeps)
    | (with_reducible refine Keeps.update ?_))

theorem State.portSend_keeps {s0 : State} {s : State} (p : Nat) (c : Nat) (frame : List Byte) (hs : Keeps s0 s) :
    Keeps s0 (State.portSend s p c frame) := by
  unfold State.portSend
  repeat' (first
    | (with_reducible assumption)
    | (with_reducible apply State.wireSend_keeps)
    | (with_reducible apply State.setTxq_keeps)
    | (with_reducible apply State.portCount_keeps)
    | split
    | (with_reducible refine keeps_fst (by with_reducible assumption) ?_)
    | (with_reducible refine keeps_snd (by with_reducible assumption) ?_))

theorem State.drainTx_keeps {s0 : State} {s : State} (p : Nat) (l : List (Nat × List Byte)) (shut : List Nat)
    (hs : Keeps s0 s) : Keeps s0 (s.drainTx p l shut) := by
  induction l generalizing s shut with
  | nil => exact hs
  | cons x l ih =>
    unfold State.drainTx
    repeat' (first
      | (with_reducible assumption)
      | (with_reducible apply ih)
      | (with_reducible apply State.setTxq_keeps)
      | (with_reducible apply State.wireSend_keeps)
      | split)

theorem State.gateStart_keeps {s0 : State} {s : State} (p : Nat) (hs : Keeps s0 s) :
    Keeps s0 (State.gateStart s p) := by
  unfold State.gateStart
  repeat' (first
    | (intro x; refine have_then (p := Keeps s0 x) ?_ ?_; (on_goal 2 => (intro hx; clear_value x)); (on_goal 1 => (subst x)))
    | (intro x; refine have_then (p := Keeps s0 x.1) ?_ ?_; (on_goal 2 => (intro hx; clear_value x)); (on_goal 1 => (subst x)))
    | (intro x; (have _y := (fun a => x a)); clear _y; subst x; (try beta_reduce))
    | (intro x; clear_value x)
    | (intro x; subst x)
    | lift_lets -underBinder
    | (with_reducible assumption)
    | (with_reducible apply State.setGate_keeps)
    | split
    | (with_reducible refine keeps_fst (by with_reducible assumption) ?_)
    | (with_reducible refine keeps_snd (by with_reducible assumption) ?_)
    | (with_reducible refine Keeps.update ?_)
    | (intro _ _; (try beta_reduce))
    | (intro _; (try beta_reduce)))

theorem State.gateEnd_keeps {s0 : State} {s : State} (p : Nat) (hs : Keeps s0 s) :
    Keeps s0 (State.gateEnd s p) := by
  unfold State.gateEnd
  repeat' (first
    | (intro x; refine have_then (p := Keeps s0 x) ?_ ?_; (on_goal 2 => (intro hx; clear_value x)); (on_goal 1 => (subst x)))
    | (intro x; refine have_then (p := Keeps s0 x.1) ?_ ?_; (on_goal 2 => (intro hx; clear_value x)); (on_goal 1 => (subst x)))
    | (intro x; (have _y := (fun a => x a)); clear _y; subst x; (try beta_reduce))
    | (intro x; clear_value x)
    | (intro x; subst x)
    | lift_lets -underBinder
    | (with_reducible assumption)
    | (with_reducible apply State.setGate_keeps)
    | (with_reducible apply State.setTxq_keeps)
    | (with_reducible apply State.drainTx_keeps)
    | (with_reducible apply State.gateStart_keeps)
    | split
    | (with_reducible refine keeps_fst (by with_reducible assumption) ?_)
    | (with_reducible refine keeps_snd (by with_reducible assumption) ?_)
    | (with_reducible refine Keeps.update ?_)
    | (intro _ _; (try beta_reduce))
    | (intro _; (try beta_reduce)))

theorem State.txCheck_keeps {s0 : State} {s : State} (p : Nat) (w : Nat) (d : List Byte) (hs : Keeps s0 s) :
    Keeps s0 (State.txCheck s p w d).1 := by
  unfold State.txCheck
  repeat' (first
    | (intro x; refine have_then (p := Keeps s0 x) ?_ ?_; (on_goal 2 => (intro hx; clear_value x)); (on_goal 1 => (subst x)))
    | (intro x; refine have_then (p := Keeps s0 x.1) ?_ ?_; (on_goal 2 => (intro hx; clear_value x)); (on_goal 1 => (subst x)))
    | (intro x; (have _y := (fun a => x a)); clear _y; subst x; (try beta_reduce))
    | (intro x; clear_value x)
    | (intro x; subst x)
    | lift_lets -underBinder
    | (with_reducible assumption)
    | (with_reducible apply State.readMem_keeps)
    | split
    | (with_reducible refine keeps_fst (by with_reducible assumption) ?_)
    | (with_reducible refine keeps_snd (by with_reducible assumption) ?_)
    | (with_reducible refine Keeps.update ?_))

theorem State.txBuild_keeps {s0 : State} {s : State} (d : List Byte) (pay : List Byte) (hs : Keeps s0 s) :
    Keeps s0 (State.txBuild s d pay).1 := by
  unfold State.txBuild
  repeat' (first
    | (intro x; refine have_then (p := Keeps s0 x) ?_ ?_; (on_goal 2 => (intro hx; clear_value x)); (on_goal 1 => (subst x)))
    | (intro x; (have _y := (fun a => x a)); clear _y; subst x; (try beta_reduce))
    | (intro x; clear_value x)
    | (intro x; subst x)
    | lift_lets -underBinder
    | (with_reducible assumption)
    | (with_reducible apply State.setRf_keeps)
    | (with_reducible apply State.addRf_keeps)
    | (with_reducible apply State.portSend_keeps)
    | (with_reducible refine keeps_foldl ?_ (fun _ _ _ => ?_))
    | split
    | (with_reducible refine keeps_fst (by with_reducible assumption) ?_)
    | (with_reducible refine keeps_snd (by with_reducible assumption) ?_))

theorem State.txStatus_keeps {s0 : State} {s : State} (p : Nat) (w : Nat) (a : Nat) (status : Nat) (alive : Option
    Nat) (hs : Keeps s0 s) :
    Keeps s0 (State.txStatus s p w a status alive).1 := by
  unfold State.txStatus
  repeat' (first
    | (intro x; refine have_then (p := Keeps s0 x) ?_ ?_; (on_goal 2 => (intro hx; clear_value x)); (on_goal 1 => (subst x)))
    | (intro x; refine have_then (p := Keeps s0 x.1) ?_ ?_; (on_goal 2 => (intro hx; clear_value x)); (on_goal 1 => (subst x)))
    | (intro x; (have _y := (fun a => x a)); clear _y; subst x; (try beta_reduce))
    | (intro x; clear_value x)
    | (intro x; subst x)
    | lift_lets -underBinder
    | (with_reducible assumption)
    | (with_reducible refine State.store_keeps _ _ _ _ (by with_reducible assumption) ?_)
    | (with_reducible apply State.writeNote_keeps)
    | split
    | (with_reducible refine keeps_fst (by with_reducible assumption) ?_)
    | (with_reducible refine keeps_snd (by with_reducible assumption) ?_)
    | (with_reducible refine Keeps.update ?_))

theorem State.txRefused_keeps {s0 : State} {s : State} (p : Nat) (w : Nat) (n : Nat) (hs : Keeps s0 s) :
    Keeps s0 (State.txRefused s p w n) := by
  unfold State.txRefused
  repeat' (first
    | (intro x; refine have_then (p := Keeps s0 x) ?_ ?_; (on_goal 2 => (intro hx; clear_value x)); (on_goal 1 => (subst x)))
    | (intro x; refine have_then (p := Keeps s0 x.1) ?_ ?_; (on_goal 2 => (intro hx; clear_value x)); (on_goal 1 => (subst x)))
    | (intro x; (have _y := (fun a => x a)); clear _y; subst x; (try beta_reduce))
    | (intro x; clear_value x)
    | (intro x; subst x)
    | lift_lets -underBinder
    | (with_reducible assumption)
    | (with_reducible apply State.satRf_keeps)
    | (with_reducible apply State.raise_keeps)
    | split
    | (with_reducible refine keeps_fst (by with_reducible assumption) ?_)
    | (with_reducible refine keeps_snd (by with_reducible assumption) ?_))

theorem State.txDescriptor_keeps {s0 : State} {s : State} (p : Nat) (w : Nat) (hs : Keeps s0 s) :
    Keeps s0 (State.txDescriptor s p w) := by
  unfold State.txDescriptor
  repeat' (first
    | (intro x; refine have_then (p := Keeps s0 x) ?_ ?_; (on_goal 2 => (intro hx; clear_value x)); (on_goal 1 => (subst x)))
    | (intro x; refine have_then (p := Keeps s0 x.1) ?_ ?_; (on_goal 2 => (intro hx; clear_value x)); (on_goal 1 => (subst x)))
    | (intro x; (have _y := (fun a => x a)); clear _y; subst x; (try beta_reduce))
    | (intro x; clear_value x)
    | (intro x; subst x)
    | lift_lets -underBinder
    | (with_reducible assumption)
    | (with_reducible apply State.setRf_keeps)
    | (with_reducible apply State.fire_keeps)
    | (with_reducible apply State.readMem_keeps)
    | (with_reducible apply State.txCheck_keeps)
    | (with_reducible apply State.txBuild_keeps)
    | (with_reducible apply State.txStatus_keeps)
    | (with_reducible apply State.txRefused_keeps)
    | split
    | (with_reducible refine keeps_fst (by with_reducible assumption) ?_)
    | (with_reducible refine keeps_snd (by with_reducible assumption) ?_)
    | (with_reducible refine Keeps.update ?_))

theorem State.keydata_keeps {s0 : State} {s : State} (p : Nat) (v : Word) (hs : Keeps s0 s) :
    Keeps s0 (State.keydata s p v) := by
  unfold State.keydata
  repeat' (first
    | (intro x; refine have_then (p := Keeps s0 x) ?_ ?_; (on_goal 2 => (intro hx; clear_value x)); (on_goal 1 => (subst x)))
    | (intro x; (have _y := (fun a => x a)); clear _y; subst x; (try beta_reduce))
    | (intro x; clear_value x)
    | (intro x; subst x)
    | lift_lets -underBinder
    | (with_reducible assumption)
    | (with_reducible apply State.setLnk_keeps)
    | (with_reducible apply State.setAssoc_keeps)
    | (with_reducible refine keeps_foldl ?_ (fun _ _ _ => ?_))
    | split
    | (with_reducible refine keeps_fst (by with_reducible assumption) ?_)
    | (with_reducible refine keeps_snd (by with_reducible assumption) ?_)
    | (with_reducible refine Keeps.update ?_))

theorem State.rxsctlPost_keeps {s0 : State} {s : State} (n : Nat) (old : Word) (hs : Keeps s0 s) :
    Keeps s0 (State.rxsctlPost s n old) := by
  unfold State.rxsctlPost
  repeat' (first
    | (with_reducible assumption)
    | (with_reducible apply State.setRf_keeps)
    | (with_reducible apply State.setLnk_keeps)
    | split
    | (with_reducible refine keeps_fst (by with_reducible assumption) ?_)
    | (with_reducible refine keeps_snd (by with_reducible assumption) ?_)
    | (with_reducible refine Keeps.update ?_))

theorem State.txsctlPost_keeps {s0 : State} {s : State} (n : Nat) (old : Word) (hs : Keeps s0 s) :
    Keeps s0 (State.txsctlPost s n old) := by
  unfold State.txsctlPost
  repeat' (first
    | (intro x; refine have_then (p := Keeps s0 x) ?_ ?_; (on_goal 2 => (intro hx; clear_value x)); (on_goal 1 => (subst x)))
    | (intro x; clear_value x)
    | (intro x; subst x)
    | lift_lets -underBinder
    | (with_reducible assumption)
    | (with_reducible apply State.setRf_keeps)
    | split
    | (with_reducible refine keeps_fst (by with_reducible assumption) ?_)
    | (with_reducible refine keeps_snd (by with_reducible assumption) ?_))

theorem State.txctlPost_keeps {s0 : State} {s : State} (p : Nat) (w : Nat) (old : Word) (hs : Keeps s0 s) :
    Keeps s0 (State.txctlPost s p w old) := by
  unfold State.txctlPost
  repeat' (first
    | (intro x; refine have_then (p := Keeps s0 x) ?_ ?_; (on_goal 2 => (intro hx; clear_value x)); (on_goal 1 => (subst x)))
    | (intro x; clear_value x)
    | (intro x; subst x)
    | lift_lets -underBinder
    | (with_reducible assumption)
    | (with_reducible apply State.setRf_keeps)
    | (with_reducible apply State.setLnk_keeps)
    | split
    | (with_reducible refine keeps_fst (by with_reducible assumption) ?_)
    | (with_reducible refine keeps_snd (by with_reducible assumption) ?_)
    | (with_reducible refine Keeps.update ?_))

theorem State.txtailPost_keeps {s0 : State} {s : State} (p : Nat) (w : Nat) (hs : Keeps s0 s) :
    Keeps s0 (State.txtailPost s p w) := by
  unfold State.txtailPost
  repeat' (first
    | (intro x; refine have_then (p := Keeps s0 x) ?_ ?_; (on_goal 2 => (intro hx; clear_value x)); (on_goal 1 => (subst x)))
    | (intro x; clear_value x)
    | (intro x; subst x)
    | lift_lets -underBinder
    | (with_reducible assumption)
    | (with_reducible apply State.setRf_keeps)
    | (with_reducible apply State.txKick_keeps)
    | split
    | (with_reducible refine keeps_fst (by with_reducible assumption) ?_)
    | (with_reducible refine keeps_snd (by with_reducible assumption) ?_))

end Sys2Proof.Machine
end

