-- ==== Sys2Proof/Laws/KeepsRings.lean ====
section
/-!
SUPPORT. What the operations of Machine/Rings.lean keep.
-/
namespace Sys2Proof.Machine

theorem State.hostWrite_keeps {s0 : State} {s : State} (a : Nat) (bs : List Byte) (hs : Keeps s0 s) :
    Keeps s0 (s.hostWrite a bs) := by
  induction bs generalizing s a with
  | nil => exact hs
  | cons b bs ih => exact ih _ (State.setHost_keeps hs _ _)

theorem State.msix_keeps {s0 : State} {s : State} (f : Nat) (v : Nat) (hs : Keeps s0 s) :
    Keeps s0 (State.msix s f v) := by
  unfold State.msix
  repeat' (first
    | (intro x; refine have_then (p := Keeps s0 x) ?_ ?_; (on_goal 2 => (intro hx; clear_value x)); (on_goal 1 => (subst x)))
    | (intro x; clear_value x)
    | (intro x; subst x)
    | lift_lets -underBinder
    | (with_reducible assumption)
    | (with_reducible apply State.hostWrite_keeps)
    | (with_reducible apply State.take_keeps)
    | (intro _ _; (try beta_reduce))
    | (intro _; (try beta_reduce))
    | split
    | (with_reducible refine keeps_fst (by with_reducible assumption) ?_)
    | (with_reducible refine keeps_snd (by with_reducible assumption) ?_)
    | (with_reducible refine Keeps.update ?_))

theorem State.cqIrq_keeps {s0 : State} {s : State} (f : Nat) (n : Nat) (hs : Keeps s0 s) :
    Keeps s0 (State.cqIrq s f n) := by
  unfold State.cqIrq
  repeat' (first
    | (intro x; refine have_then (p := Keeps s0 x) ?_ ?_; (on_goal 2 => (intro hx; clear_value x)); (on_goal 1 => (subst x)))
    | (intro x; clear_value x)
    | (intro x; subst x)
    | lift_lets -underBinder
    | (with_reducible assumption)
    | (with_reducible apply State.setCq_keeps)
    | (with_reducible apply State.msix_keeps)
    | split
    | (with_reducible refine keeps_fst (by with_reducible assumption) ?_)
    | (with_reducible refine keeps_snd (by with_reducible assumption) ?_)
    | (with_reducible refine Keeps.update ?_))

theorem State.cqWrite_keeps {s0 : State} {s : State} (f : Nat) (n : Nat) (hs : Keeps s0 s) :
    Keeps s0 (State.cqWrite s f n) := by
  unfold State.cqWrite
  repeat' (first
    | (intro x; refine have_then (p := Keeps s0 x) ?_ ?_; (on_goal 2 => (intro hx; clear_value x)); (on_goal 1 => (subst x)))
    | (intro x; refine have_then (p := Keeps s0 x.1) ?_ ?_; (on_goal 2 => (intro hx; clear_value x)); (on_goal 1 => (subst x)))
    | (intro x; (have _y := (fun a => x a)); clear _y; subst x; (try beta_reduce))
    | (intro x; clear_value x)
    | (intro x; subst x)
    | lift_lets -underBinder
    | (with_reducible assumption)
    | (with_reducible apply State.next_keeps)
    | (with_reducible apply State.setRf_keeps)
    | (with_reducible apply State.setCq_keeps)
    | (with_reducible apply State.hostWrite_keeps)
    | (with_reducible apply State.cqIrq_keeps)
    | split
    | (with_reducible refine keeps_fst (by with_reducible assumption) ?_)
    | (with_reducible refine keeps_snd (by with_reducible assumption) ?_)
    | (with_reducible refine Keeps.update ?_)
    | (intro _ _; (try beta_reduce))
    | (intro _; (try beta_reduce)))

theorem State.coalesce_keeps {s0 : State} {s : State} (f : Nat) (n : Nat) (hs : Keeps s0 s) :
    Keeps s0 (State.coalesce s f n) := by
  unfold State.coalesce
  repeat' (first
    | (intro x; refine have_then (p := Keeps s0 x) ?_ ?_; (on_goal 2 => (intro hx; clear_value x)); (on_goal 1 => (subst x)))
    | (intro x; clear_value x)
    | (intro x; subst x)
    | lift_lets -underBinder
    | (with_reducible assumption)
    | (with_reducible apply State.cqIrq_keeps)
    | split
    | (with_reducible refine keeps_fst (by with_reducible assumption) ?_)
    | (with_reducible refine keeps_snd (by with_reducible assumption) ?_))

theorem State.sqDoorbell_keeps {s0 : State} {s : State} (f : Nat) (n : Nat) (t : Nat) (hs : Keeps s0 s) :
    Keeps s0 (State.sqDoorbell s f n t) := by
  unfold State.sqDoorbell
  repeat' (first
    | (intro x; refine have_then (p := Keeps s0 x) ?_ ?_; (on_goal 2 => (intro hx; clear_value x)); (on_goal 1 => (subst x)))
    | (intro x; clear_value x)
    | (intro x; subst x)
    | lift_lets -underBinder
    | (with_reducible assumption)
    | (with_reducible apply State.setSq_keeps)
    | (with_reducible apply State.flt_keeps)
    | (with_reducible apply State.setRf_keeps)
    | split
    | (with_reducible refine keeps_fst (by with_reducible assumption) ?_)
    | (with_reducible refine keeps_snd (by with_reducible assumption) ?_)
    | (with_reducible refine Keeps.update ?_))

theorem State.cqDoorbell_keeps {s0 : State} {s : State} (f : Nat) (n : Nat) (h : Nat) (hs : Keeps s0 s) :
    Keeps s0 (State.cqDoorbell s f n h) := by
  unfold State.cqDoorbell
  repeat' (first
    | (intro x; refine have_then (p := Keeps s0 x) ?_ ?_; (on_goal 2 => (intro hx; clear_value x)); (on_goal 1 => (subst x)))
    | (intro x; clear_value x)
    | (intro x; subst x)
    | lift_lets -underBinder
    | (with_reducible assumption)
    | (with_reducible apply State.setCq_keeps)
    | (with_reducible apply State.setRf_keeps)
    | split
    | (with_reducible refine keeps_fst (by with_reducible assumption) ?_)
    | (with_reducible refine keeps_snd (by with_reducible assumption) ?_)
    | (with_reducible refine Keeps.update ?_))

theorem State.descFetch_keeps {s0 : State} {s : State} (f : Nat) (n : Nat) (hs : Keeps s0 s) :
    Keeps s0 (State.descFetch s f n) := by
  unfold State.descFetch
  repeat' (first
    | (intro x; refine have_then (p := Keeps s0 x) ?_ ?_; (on_goal 2 => (intro hx; clear_value x)); (on_goal 1 => (subst x)))
    | (intro x; refine have_then (p := Keeps s0 x.1) ?_ ?_; (on_goal 2 => (intro hx; clear_value x)); (on_goal 1 => (subst x)))
    | (intro x; (have _y := (fun a => x a)); clear _y; subst x; (try beta_reduce))
    | (intro x; clear_value x)
    | (intro x; subst x)
    | lift_lets -underBinder
    | (with_reducible assumption)
    | (with_reducible apply State.setRf_keeps)
    | (with_reducible apply State.setSq_keeps)
    | (with_reducible apply State.descEnd_keeps)
    | split
    | (with_reducible refine keeps_fst (by with_reducible assumption) ?_)
    | (with_reducible refine keeps_snd (by with_reducible assumption) ?_)
    | (with_reducible refine Keeps.update ?_)
    | (intro _ _; (try beta_reduce))
    | (intro _; (try beta_reduce)))

theorem State.descAccess_keeps {s0 : State} {s : State} (f : Nat) (n : Nat) (d : DescSt) (e : MErr) (a : Nat) (hs :
    Keeps s0 s) :
    Keeps s0 (State.descAccess s f n d e a) := by
  unfold State.descAccess
  repeat' (first
    | (intro x; refine have_then (p := Keeps s0 x) ?_ ?_; (on_goal 2 => (intro hx; clear_value x)); (on_goal 1 => (subst x)))
    | (intro x; refine have_then (p := Keeps s0 x.1) ?_ ?_; (on_goal 2 => (intro hx; clear_value x)); (on_goal 1 => (subst x)))
    | (intro x; (have _y := (fun a => x a)); clear _y; subst x; (try beta_reduce))
    | (intro x; clear_value x)
    | (intro x; subst x)
    | lift_lets -underBinder
    | (with_reducible assumption)
    | (with_reducible apply State.mtxFrozen_keeps)
    | (with_reducible apply State.mtxDenied_keeps)
    | (with_reducible apply State.eccNote_keeps)
    | (with_reducible apply State.descEnd_keeps)
    | split
    | (with_reducible refine keeps_fst (by with_reducible assumption) ?_)
    | (with_reducible refine keeps_snd (by with_reducible assumption) ?_)
    | (with_reducible refine Keeps.update ?_))

theorem State.runIssue_keeps {s0 : State} {s : State} (f n : Nat) (d : DescSt) (i : Nat) (os : List OrderD)
    (hs : Keeps s0 s) : Keeps s0 (s.runIssue f n d i os).1 := by
  induction os generalizing s d i with
  | nil => exact hs
  | cons o os ih =>
    unfold State.runIssue
    have h := State.offer_keeps (d.u 0x16 1) (worldOf f) ((d.tag + i) % 65536) (0x40 + n) false (some d.id) (.ok o) hs
    dsimp only
    repeat' (first
      | (with_reducible assumption)
      | (with_reducible apply ih)
      | split)

theorem State.listNote_keeps {s0 : State} {s : State} (f : Nat) (d : DescSt) (k : Nat) (hs : Keeps s0 s) :
    Keeps s0 (State.listNote s f d k) := by
  unfold State.listNote
  repeat' (first
    | (intro x; refine have_then (p := Keeps s0 x) ?_ ?_; (on_goal 2 => (intro hx; clear_value x)); (on_goal 1 => (subst x)))
    | (intro x; refine have_then (p := Keeps s0 x.1) ?_ ?_; (on_goal 2 => (intro hx; clear_value x)); (on_goal 1 => (subst x)))
    | (intro x; (have _y := (fun a => x a)); clear _y; subst x; (try beta_reduce))
    | (intro x; clear_value x)
    | (intro x; subst x)
    | lift_lets -underBinder
    | (with_reducible assumption)
    | (with_reducible apply State.decodeFault_keeps)
    | split
    | (with_reducible refine keeps_fst (by with_reducible assumption) ?_)
    | (with_reducible refine keeps_snd (by with_reducible assumption) ?_)
    | (with_reducible refine Keeps.update ?_)
    | (intro _ _; (try beta_reduce))
    | (intro _; (try beta_reduce)))

theorem State.runDesc_keeps {s0 : State} {s : State} (f : Nat) (n : Nat) (i : Nat) (hs : Keeps s0 s) :
    Keeps s0 (State.runDesc s f n i) := by
  unfold State.runDesc
  repeat' (first
    | (intro x; refine have_then (p := Keeps s0 x) ?_ ?_; (on_goal 2 => (intro hx; clear_value x)); (on_goal 1 => (subst x)))
    | (intro x; refine have_then (p := Keeps s0 x.1) ?_ ?_; (on_goal 2 => (intro hx; clear_value x)); (on_goal 1 => (subst x)))
    | (intro x; (have _y := (fun a => x a)); clear _y; subst x; (try beta_reduce))
    | (intro x; clear_value x)
    | (intro x; subst x)
    | lift_lets -underBinder
    | (with_reducible assumption)
    | (with_reducible apply State.setDesc_keeps)
    | (with_reducible apply State.descEnd_keeps)
    | (with_reducible apply State.runSettle_keeps)
    | (with_reducible apply State.settle_keeps)
    | (with_reducible apply State.descAccess_keeps)
    | (with_reducible apply State.runIssue_keeps)
    | (with_reducible apply State.listNote_keeps)
    | split
    | (with_reducible refine keeps_fst (by with_reducible assumption) ?_)
    | (with_reducible refine keeps_snd (by with_reducible assumption) ?_)
    | (with_reducible refine Keeps.update ?_)
    | (intro _ _; (try beta_reduce))
    | (intro _; (try beta_reduce)))

theorem State.noteDesc_keeps {s0 : State} {s : State} (f : Nat) (n : Nat) (i : Nat) (hs : Keeps s0 s) :
    Keeps s0 (State.noteDesc s f n i) := by
  unfold State.noteDesc
  repeat' (first
    | (with_reducible assumption)
    | (with_reducible apply State.descEnd_keeps)
    | split
    | (with_reducible refine keeps_fst (by with_reducible assumption) ?_)
    | (with_reducible refine keeps_snd (by with_reducible assumption) ?_))

theorem State.stage_keeps {s0 : State} {s : State} (off : Nat) (bs : List Byte) (hs : Keeps s0 s) :
    Keeps s0 (State.stage s off bs) := by
  unfold State.stage
  repeat' (first
    | (with_reducible assumption)
    | (with_reducible refine Keeps.update ?_))

theorem State.configStage_keeps {s0 : State} {s : State} (f : Nat) (n : Nat) (i : Nat) (hs : Keeps s0 s) :
    Keeps s0 (State.configStage s f n i) := by
  unfold State.configStage
  repeat' (first
    | (intro x; refine have_then (p := Keeps s0 x) ?_ ?_; (on_goal 2 => (intro hx; clear_value x)); (on_goal 1 => (subst x)))
    | (intro x; clear_value x)
    | (intro x; subst x)
    | lift_lets -underBinder
    | (with_reducible assumption)
    | (with_reducible apply State.descEnd_keeps)
    | (with_reducible apply State.setDesc_keeps)
    | (with_reducible apply State.stage_keeps)
    | split
    | (with_reducible refine keeps_fst (by with_reducible assumption) ?_)
    | (with_reducible refine keeps_snd (by with_reducible assumption) ?_))

theorem State.archiveRead_keeps {s0 : State} {s : State} (f n : Nat) (d : DescSt) (k : Nat) (hs : Keeps s0 s) :
    Keeps s0 (s.archiveRead f n d k) := by
  induction k generalizing s d with
  | zero => exact State.setDesc_keeps _ _ _ hs
  | succ k ih =>
    unfold State.archiveRead
    dsimp only
    repeat' (first
      | (with_reducible assumption)
      | (with_reducible apply ih)
      | (with_reducible apply State.setDesc_keeps)
      | (with_reducible apply State.descEnd_keeps)
      | (with_reducible apply State.hostWrite_keeps)
      | (with_reducible apply State.raise_keeps)
      | split)

theorem State.archiveDesc_keeps {s0 : State} {s : State} (f : Nat) (n : Nat) (i : Nat) (k : Nat) (hs : Keeps s0 s) :
    Keeps s0 (State.archiveDesc s f n i k) := by
  unfold State.archiveDesc
  repeat' (first
    | (with_reducible assumption)
    | (with_reducible apply State.archiveRead_keeps)
    | (intro _ _; (try beta_reduce))
    | (intro _; (try beta_reduce))
    | split
    | (with_reducible refine keeps_fst (by with_reducible assumption) ?_)
    | (with_reducible refine keeps_snd (by with_reducible assumption) ?_))

theorem State.copyDrop_keeps {s0 : State} {s : State} (r : Nat) (d : DescSt) (hs : Keeps s0 s) :
    Keeps s0 (State.copyDrop s r d).1 := by
  unfold State.copyDrop
  repeat' (first
    | (intro x; refine have_then (p := Keeps s0 x) ?_ ?_; (on_goal 2 => (intro hx; clear_value x)); (on_goal 1 => (subst x)))
    | (intro x; clear_value x)
    | (intro x; subst x)
    | lift_lets -underBinder
    | (with_reducible assumption)
    | (with_reducible apply State.setRelay_keeps)
    | (with_reducible apply State.moved_keeps)
    | split
    | (with_reducible refine keeps_fst (by with_reducible assumption) ?_)
    | (with_reducible refine keeps_snd (by with_reducible assumption) ?_)
    | (with_reducible refine Keeps.update ?_))

theorem State.copyToRelay_keeps {s0 : State} {s : State} (f : Nat) (n : Nat) (i : Nat) (k : Nat) (hs : Keeps s0 s) :
    Keeps s0 (State.copyToRelay s f n i k) := by
  unfold State.copyToRelay
  repeat' (first
    | (intro x; refine have_then (p := Keeps s0 x) ?_ ?_; (on_goal 2 => (intro hx; clear_value x)); (on_goal 1 => (subst x)))
    | (intro x; refine have_then (p := Keeps s0 x.1) ?_ ?_; (on_goal 2 => (intro hx; clear_value x)); (on_goal 1 => (subst x)))
    | (intro x; (have _y := (fun a => x a)); clear _y; subst x; (try beta_reduce))
    | (intro x; clear_value x)
    | (intro x; subst x)
    | lift_lets -underBinder
    | (with_reducible assumption)
    | (with_reducible apply State.relayPut_keeps)
    | (with_reducible apply State.relaySeal_keeps)
    | (with_reducible apply State.setDesc_keeps)
    | (with_reducible apply State.descEnd_keeps)
    | (with_reducible apply State.descAccess_keeps)
    | (with_reducible apply State.copyDrop_keeps)
    | split
    | (with_reducible refine keeps_fst (by with_reducible assumption) ?_)
    | (with_reducible refine keeps_snd (by with_reducible assumption) ?_)
    | (with_reducible refine Keeps.update ?_)
    | (intro _ _; (try beta_reduce))
    | (intro _; (try beta_reduce)))

theorem State.copyToFrame_keeps {s0 : State} {s : State} (f : Nat) (n : Nat) (i : Nat) (hs : Keeps s0 s) :
    Keeps s0 (State.copyToFrame s f n i) := by
  unfold State.copyToFrame
  repeat' (first
    | (intro x; refine have_then (p := Keeps s0 x) ?_ ?_; (on_goal 2 => (intro hx; clear_value x)); (on_goal 1 => (subst x)))
    | (intro x; refine have_then (p := Keeps s0 x.1) ?_ ?_; (on_goal 2 => (intro hx; clear_value x)); (on_goal 1 => (subst x)))
    | (intro x; (have _y := (fun a => x a)); clear _y; subst x; (try beta_reduce))
    | (intro x; clear_value x)
    | (intro x; subst x)
    | lift_lets -underBinder
    | (with_reducible assumption)
    | (with_reducible refine State.frameWrite_keeps _ _ _ _ (by with_reducible assumption) ?_)
    | (with_reducible apply State.setDesc_keeps)
    | (with_reducible apply State.descEnd_keeps)
    | (with_reducible apply State.descAccess_keeps)
    | split
    | (with_reducible refine keeps_fst (by with_reducible assumption) ?_)
    | (with_reducible refine keeps_snd (by with_reducible assumption) ?_)
    | (with_reducible refine Keeps.update ?_)
    | (intro _ _; (try beta_reduce))
    | (intro _; (try beta_reduce)))

theorem State.sqAbort_keeps {s0 : State} {s : State} (f : Nat) (n : Nat) (hs : Keeps s0 s) :
    Keeps s0 (State.sqAbort s f n) := by
  unfold State.sqAbort
  repeat' (first
    | (intro x; refine have_then (p := Keeps s0 x) ?_ ?_; (on_goal 2 => (intro hx; clear_value x)); (on_goal 1 => (subst x)))
    | (intro x; (have _y := (fun a => x a)); clear _y; subst x; (try beta_reduce))
    | (intro x; clear_value x)
    | (intro x; subst x)
    | lift_lets -underBinder
    | (with_reducible assumption)
    | (with_reducible apply State.moved_keeps)
    | (with_reducible apply State.copyDrop_keeps)
    | (with_reducible apply State.descEnd_keeps)
    | (with_reducible refine keeps_foldl ?_ (fun _ _ _ => ?_))
    | (with_reducible refine keeps_foldl1 ?_ (fun _ _ _ => ?_))
    | split
    | (with_reducible refine keeps_fst (by with_reducible assumption) ?_)
    | (with_reducible refine keeps_snd (by with_reducible assumption) ?_))

theorem State.sqctlPost_keeps {s0 : State} {s : State} (f : Nat) (n : Nat) (old : Word) (hs : Keeps s0 s) :
    Keeps s0 (State.sqctlPost s f n old) := by
  unfold State.sqctlPost
  repeat' (first
    | (intro x; refine have_then (p := Keeps s0 x) ?_ ?_; (on_goal 2 => (intro hx; clear_value x)); (on_goal 1 => (subst x)))
    | (intro x; clear_value x)
    | (intro x; subst x)
    | lift_lets -underBinder
    | (with_reducible assumption)
    | (with_reducible apply State.setRf_keeps)
    | (with_reducible apply State.sqAbort_keeps)
    | split
    | (with_reducible refine keeps_fst (by with_reducible assumption) ?_)
    | (with_reducible refine keeps_snd (by with_reducible assumption) ?_))

theorem State.cqctlPost_keeps {s0 : State} {s : State} (f : Nat) (n : Nat) (old : Word) (hs : Keeps s0 s) :
    Keeps s0 (State.cqctlPost s f n old) := by
  unfold State.cqctlPost
  repeat' (first
    | (intro x; refine have_then (p := Keeps s0 x) ?_ ?_; (on_goal 2 => (intro hx; clear_value x)); (on_goal 1 => (subst x)))
    | (intro x; refine have_then (p := Keeps s0 x.1) ?_ ?_; (on_goal 2 => (intro hx; clear_value x)); (on_goal 1 => (subst x)))
    | (intro x; (have _y := (fun a => x a)); clear _y; subst x; (try beta_reduce))
    | (intro x; clear_value x)
    | (intro x; subst x)
    | lift_lets -underBinder
    | (with_reducible assumption)
    | (with_reducible apply State.setRf_keeps)
    | (with_reducible apply State.setCq_keeps)
    | split
    | (with_reducible refine keeps_fst (by with_reducible assumption) ?_)
    | (with_reducible refine keeps_snd (by with_reducible assumption) ?_)
    | (with_reducible refine Keeps.update ?_)
    | (intro _ _; (try beta_reduce))
    | (intro _; (try beta_reduce)))

theorem State.funReset_keeps {s0 : State} {s : State} (f : Nat) (hs : Keeps s0 s) :
    Keeps s0 (State.funReset s f) := by
  unfold State.funReset
  repeat' (first
    | (intro x; refine have_then (p := Keeps s0 x) ?_ ?_; (on_goal 2 => (intro hx; clear_value x)); (on_goal 1 => (subst x)))
    | (intro x; (have _y := (fun a => x a)); clear _y; subst x; (try beta_reduce))
    | (intro x; clear_value x)
    | (intro x; subst x)
    | lift_lets -underBinder
    | (with_reducible assumption)
    | (with_reducible apply State.setRf_keeps)
    | (with_reducible apply State.sqctlPost_keeps)
    | (with_reducible apply State.cqctlPost_keeps)
    | (with_reducible apply State.msix_keeps)
    | (with_reducible refine keeps_foldl ?_ (fun _ _ _ => ?_))
    | split
    | (with_reducible refine keeps_fst (by with_reducible assumption) ?_)
    | (with_reducible refine keeps_snd (by with_reducible assumption) ?_)
    | (with_reducible refine Keeps.update ?_))

theorem State.flr_keeps {s0 : State} {s : State} (f : Nat) (hs : Keeps s0 s) :
    Keeps s0 (State.flr s f) := by
  unfold State.flr
  repeat' (first
    | (with_reducible assumption)
    | (with_reducible apply State.funReset_keeps)
    | (with_reducible apply State.flt_keeps)
    | split
    | (with_reducible refine keeps_fst (by with_reducible assumption) ?_)
    | (with_reducible refine keeps_snd (by with_reducible assumption) ?_))

theorem State.hostDown_keeps {s0 : State} {s : State} (hs : Keeps s0 s) :
    Keeps s0 (State.hostDown s) := by
  unfold State.hostDown
  repeat' (first
    | (intro x; refine have_then (p := Keeps s0 x) ?_ ?_; (on_goal 2 => (intro hx; clear_value x)); (on_goal 1 => (subst x)))
    | (intro x; clear_value x)
    | (intro x; subst x)
    | lift_lets -underBinder
    | (with_reducible assumption)
    | (with_reducible apply State.funReset_keeps)
    | (with_reducible apply State.setReg_keeps)
    | (with_reducible apply State.flt_keeps)
    | split
    | (with_reducible refine keeps_fst (by with_reducible assumption) ?_)
    | (with_reducible refine keeps_snd (by with_reducible assumption) ?_))

theorem State.hostLinkUp_keeps {s0 : State} {s : State} (gen : Nat) (width : Nat) (bme : Nat) (hs : Keeps s0 s) :
    Keeps s0 (State.hostLinkUp s gen width bme) := by
  unfold State.hostLinkUp
  repeat' (first
    | (intro x; refine have_then (p := Keeps s0 x) ?_ ?_; (on_goal 2 => (intro hx; clear_value x)); (on_goal 1 => (subst x)))
    | (intro x; clear_value x)
    | (intro x; subst x)
    | lift_lets -underBinder
    | (with_reducible assumption)
    | (with_reducible apply State.setRf_keeps)
    | split
    | (with_reducible refine keeps_fst (by with_reducible assumption) ?_)
    | (with_reducible refine keeps_snd (by with_reducible assumption) ?_))

theorem State.descTimeout_keeps {s0 : State} {s : State} (f : Nat) (n : Nat) (i : Nat) (hs : Keeps s0 s) :
    Keeps s0 (State.descTimeout s f n i) := by
  unfold State.descTimeout
  repeat' (first
    | (intro x; refine have_then (p := Keeps s0 x) ?_ ?_; (on_goal 2 => (intro hx; clear_value x)); (on_goal 1 => (subst x)))
    | (intro x; refine have_then (p := Keeps s0 x.1) ?_ ?_; (on_goal 2 => (intro hx; clear_value x)); (on_goal 1 => (subst x)))
    | (intro x; (have _y := (fun a => x a)); clear _y; subst x; (try beta_reduce))
    | (intro x; clear_value x)
    | (intro x; subst x)
    | lift_lets -underBinder
    | (with_reducible assumption)
    | (with_reducible apply State.moved_keeps)
    | (with_reducible apply State.descEnd_keeps)
    | (with_reducible apply State.copyDrop_keeps)
    | split
    | (with_reducible refine keeps_fst (by with_reducible assumption) ?_)
    | (with_reducible refine keeps_snd (by with_reducible assumption) ?_)
    | (with_reducible refine Keeps.update ?_)
    | (intro _ _; (try beta_reduce))
    | (intro _; (try beta_reduce)))

theorem State.msixPoll_keeps {s0 : State} {s : State} (f : Nat) (v : Nat) (hs : Keeps s0 s) :
    Keeps s0 (State.msixPoll s f v) := by
  unfold State.msixPoll
  repeat' (first
    | (intro x; refine have_then (p := Keeps s0 x) ?_ ?_; (on_goal 2 => (intro hx; clear_value x)); (on_goal 1 => (subst x)))
    | (intro x; refine have_then (p := Keeps s0 x.1) ?_ ?_; (on_goal 2 => (intro hx; clear_value x)); (on_goal 1 => (subst x)))
    | (intro x; (have _y := (fun a => x a)); clear _y; subst x; (try beta_reduce))
    | (intro x; clear_value x)
    | (intro x; subst x)
    | lift_lets -underBinder
    | (with_reducible assumption)
    | (with_reducible apply State.msix_keeps)
    | split
    | (with_reducible refine keeps_fst (by with_reducible assumption) ?_)
    | (with_reducible refine keeps_snd (by with_reducible assumption) ?_)
    | (with_reducible refine Keeps.update ?_)
    | (intro _ _; (try beta_reduce))
    | (intro _; (try beta_reduce)))

theorem State.bar2_keeps {s0 : State} {s : State} (f : Nat) (o : Nat) (size : Nat) (wr : Option Word) (hs : Keeps s0 s) :
    Keeps s0 (State.bar2 s f o size wr) := by
  unfold State.bar2
  repeat' (first
    | (intro x; refine have_then (p := Keeps s0 x) ?_ ?_; (on_goal 2 => (intro hx; clear_value x)); (on_goal 1 => (subst x)))
    | (intro x; refine have_then (p := Keeps s0 x.1) ?_ ?_; (on_goal 2 => (intro hx; clear_value x)); (on_goal 1 => (subst x)))
    | (intro x; (have _y := (fun a => x a)); clear _y; subst x; (try beta_reduce))
    | (intro x; clear_value x)
    | (intro x; subst x)
    | lift_lets -underBinder
    | (with_reducible assumption)
    | (with_reducible apply State.msix_keeps)
    | (with_reducible apply State.sqDoorbell_keeps)
    | (with_reducible apply State.cqDoorbell_keeps)
    | (with_reducible apply State.msixPoll_keeps)
    | (with_reducible refine keeps_foldl ?_ (fun _ _ _ => ?_))
    | (with_reducible refine keeps_foldl1 ?_ (fun _ _ _ => ?_))
    | split
    | (with_reducible refine keeps_fst (by with_reducible assumption) ?_)
    | (with_reducible refine keeps_snd (by with_reducible assumption) ?_)
    | (with_reducible refine Keeps.update ?_)
    | (intro _ _; (try beta_reduce))
    | (intro _; (try beta_reduce)))

theorem State.hostBar2_keeps {s0 : State} {s : State} (hs : Keeps s0 s) :
    Keeps s0 (State.hostBar2 s) := by
  unfold State.hostBar2
  repeat' (first
    | (intro x; refine have_then (p := Keeps s0 x) ?_ ?_; (on_goal 2 => (intro hx; clear_value x)); (on_goal 1 => (subst x)))
    | (intro x; refine have_then (p := Keeps s0 x.1) ?_ ?_; (on_goal 2 => (intro hx; clear_value x)); (on_goal 1 => (subst x)))
    | (intro x; (have _y := (fun a => x a)); clear _y; subst x; (try beta_reduce))
    | (intro x; clear_value x)
    | (intro x; subst x)
    | lift_lets -underBinder
    | (with_reducible assumption)
    | (with_reducible apply State.bar2_keeps)
    | split
    | (with_reducible refine keeps_fst (by with_reducible assumption) ?_)
    | (with_reducible refine keeps_snd (by with_reducible assumption) ?_)
    | (with_reducible refine Keeps.update ?_)
    | (intro _ _; (try beta_reduce))
    | (intro _; (try beta_reduce)))

theorem State.bar4_keeps {s0 : State} {s : State} (f : Nat) (off : Nat) (size : Nat) (wr : Option Word) (hs : Keeps s0
    s) :
    Keeps s0 (State.bar4 s f off size wr) := by
  unfold State.bar4
  repeat' (first
    | (intro x; refine have_then (p := Keeps s0 x) ?_ ?_; (on_goal 2 => (intro hx; clear_value x)); (on_goal 1 => (subst x)))
    | (intro x; refine have_then (p := Keeps s0 x.1) ?_ ?_; (on_goal 2 => (intro hx; clear_value x)); (on_goal 1 => (subst x)))
    | (intro x; (have _y := (fun a => x a)); clear _y; subst x; (try beta_reduce))
    | (intro x; clear_value x)
    | (intro x; subst x)
    | lift_lets -underBinder
    | (with_reducible assumption)
    | (with_reducible refine State.store_keeps _ _ _ _ (by with_reducible assumption) ?_)
    | (with_reducible apply State.hstDenied_keeps)
    | (with_reducible apply State.refuse_keeps)
    | (with_reducible apply State.writeNote_keeps)
    | (with_reducible apply State.readMem_keeps)
    | split
    | (with_reducible refine keeps_fst (by with_reducible assumption) ?_)
    | (with_reducible refine keeps_snd (by with_reducible assumption) ?_)
    | (with_reducible refine Keeps.update ?_))

end Sys2Proof.Machine
end

