-- ==== Sys2Proof/Laws/KeepsModes.lean ====
section
/-!
SUPPORT. What the operations of Machine/Modes.lean keep.
-/
namespace Sys2Proof.Machine

theorem State.setCus_keeps {s0 : State} {s : State} (x : CusSt) (hs : Keeps s0 s) :
    Keeps s0 (State.setCus s x) := by
  unfold State.setCus
  repeat' (first
    | (with_reducible assumption)
    | (with_reducible refine Keeps.update ?_))

theorem State.setReady_keeps {s0 : State} {s : State} (b : Nat) (on : Bool) (hs : Keeps s0 s) :
    Keeps s0 (State.setReady s b on) := by
  unfold State.setReady
  repeat' (first
    | (with_reducible assumption)
    | (with_reducible apply State.setReg_keeps))

theorem State.linksDown_keeps {s0 : State} {s : State} (hs : Keeps s0 s) :
    Keeps s0 (State.linksDown s) := by
  unfold State.linksDown
  repeat' (first
    | (with_reducible assumption)
    | (with_reducible apply State.linkDown_keeps))

theorem State.lateLost_keeps {s0 : State} {s : State} (p : Late → Bool) (hs : Keeps s0 s) :
    Keeps s0 (State.lateLost s p) := by
  unfold State.lateLost
  repeat' (first
    | (intro x; refine have_then (p := Keeps s0 x) ?_ ?_; (on_goal 2 => (intro hx; clear_value x)); (on_goal 1 => (subst x)))
    | (intro x; refine have_then (p := Keeps s0 x.1) ?_ ?_; (on_goal 2 => (intro hx; clear_value x)); (on_goal 1 => (subst x)))
    | (intro x; (have _y := (fun a => x a)); clear _y; subst x; (try beta_reduce))
    | (intro x; clear_value x)
    | (intro x; subst x)
    | lift_lets -underBinder
    | (with_reducible assumption)
    | split
    | (with_reducible refine keeps_fst (by with_reducible assumption) ?_)
    | (with_reducible refine keeps_snd (by with_reducible assumption) ?_)
    | (with_reducible refine Keeps.update ?_)
    | (intro _ _; (try beta_reduce))
    | (intro _; (try beta_reduce)))

theorem State.domLost_keeps {s0 : State} {s : State} (d : Nat) (hs : Keeps s0 s) :
    Keeps s0 (State.domLost s d) := by
  unfold State.domLost
  repeat' (first
    | (intro x; refine have_then (p := Keeps s0 x) ?_ ?_; (on_goal 2 => (intro hx; clear_value x)); (on_goal 1 => (subst x)))
    | (intro x; refine have_then (p := Keeps s0 x.1) ?_ ?_; (on_goal 2 => (intro hx; clear_value x)); (on_goal 1 => (subst x)))
    | (intro x; (have _y := (fun a => x a)); clear _y; subst x; (try beta_reduce))
    | (intro x; clear_value x)
    | (intro x; subst x)
    | lift_lets -underBinder
    | (with_reducible assumption)
    | (with_reducible apply State.setRf_keeps)
    | (with_reducible apply State.seaIdle_keeps)
    | (with_reducible apply State.storeEnd_keeps)
    | (with_reducible apply State.hostDown_keeps)
    | (with_reducible apply State.linksDown_keeps)
    | (with_reducible apply State.lateLost_keeps)
    | (with_reducible refine keeps_foldl ?_ (fun _ _ _ => ?_))
    | (with_reducible refine keeps_foldl1 ?_ (fun _ _ _ => ?_))
    | split
    | (with_reducible refine keeps_fst (by with_reducible assumption) ?_)
    | (with_reducible refine keeps_snd (by with_reducible assumption) ?_)
    | (with_reducible refine Keeps.update ?_)
    | (intro _ _; (try beta_reduce))
    | (intro _; (try beta_reduce)))

theorem State.setDom_keeps {s0 : State} {s : State} (d : Nat) (on : Bool) (keep : Bool) (hs : Keeps s0 s) :
    Keeps s0 (State.setDom s d on keep) := by
  unfold State.setDom
  repeat' (first
    | (intro x; refine have_then (p := Keeps s0 x) ?_ ?_; (on_goal 2 => (intro hx; clear_value x)); (on_goal 1 => (subst x)))
    | (intro x; (have _y := (fun a => x a)); clear _y; subst x; (try beta_reduce))
    | (intro x; clear_value x)
    | (intro x; subst x)
    | lift_lets -underBinder
    | (with_reducible assumption)
    | (with_reducible apply State.setReg_keeps)
    | (with_reducible apply State.setCus_keeps)
    | (with_reducible apply State.setReady_keeps)
    | (with_reducible apply State.domLost_keeps)
    | (with_reducible refine keeps_foldl ?_ (fun _ _ _ => ?_))
    | split
    | (with_reducible refine keeps_fst (by with_reducible assumption) ?_)
    | (with_reducible refine keeps_snd (by with_reducible assumption) ?_)
    | (with_reducible refine Keeps.update ?_))

theorem State.applyDomains_keeps {s0 : State} {s : State} (hs : Keeps s0 s) :
    Keeps s0 (State.applyDomains s) := by
  unfold State.applyDomains
  repeat' (first
    | (intro x; refine have_then (p := Keeps s0 x) ?_ ?_; (on_goal 2 => (intro hx; clear_value x)); (on_goal 1 => (subst x)))
    | (intro x; (have _y := (fun a => x a)); clear _y; subst x; (try beta_reduce))
    | (intro x; clear_value x)
    | (intro x; subst x)
    | lift_lets -underBinder
    | (with_reducible assumption)
    | (with_reducible apply State.arcClose_keeps)
    | (with_reducible apply State.setDom_keeps)
    | (with_reducible refine keeps_foldl ?_ (fun _ _ _ => ?_))
    | split
    | (with_reducible refine keeps_fst (by with_reducible assumption) ?_)
    | (with_reducible refine keeps_snd (by with_reducible assumption) ?_))

theorem State.zeroMem_keeps {s0 : State} {s : State} (p : Nat → Bool) (hs : Keeps s0 s) : Keeps s0 (s.zeroMem p) :=
  ⟨hs.queue, hs.beats, hs.time, hs.free, fun c => by
    obtain ⟨h1, h2, h3, h4⟩ := hs.canonical c
    exact ⟨h1, Tab.wf_filter h2, Tab.wf_filter h3, h4⟩⟩

theorem State.lateDo_keeps {s0 : State} {s : State} (l : Late) (hs : Keeps s0 s) : Keeps s0 (s.lateDo l) := by
  rcases l with f | ⟨f, r⟩ | ⟨u, a, r⟩
  · exact State.frameClose_keeps f hs
  · exact State.feedWrite_keeps State.escalate f r hs fun _ f h => State.escalate_keeps f h
  · exact State.sealStore_keeps u a r hs

theorem State.lateDrain_keeps {s0 : State} {s : State} (hs : Keeps s0 s) :
    Keeps s0 (State.lateDrain s) := by
  unfold State.lateDrain
  have h0 : Keeps s0 { s with late := s.late.filter fun l => !s.lateReady l } := Keeps.update hs
  exact keeps_foldl (keeps_foldl h0 fun s l h => State.lateDo_keeps l h) fun s f h => State.frameSettle_keeps f h

theorem State.functionReady_keeps {s0 : State} {s : State} (b : Nat) (hs : Keeps s0 s) :
    Keeps s0 (State.functionReady s b) := by
  unfold State.functionReady
  repeat' (first
    | (intro x; refine have_then (p := Keeps s0 x) ?_ ?_; (on_goal 2 => (intro hx; clear_value x)); (on_goal 1 => (subst x)))
    | (intro x; refine have_then (p := Keeps s0 x.1) ?_ ?_; (on_goal 2 => (intro hx; clear_value x)); (on_goal 1 => (subst x)))
    | (intro x; (have _y := (fun a => x a)); clear _y; subst x; (try beta_reduce))
    | (intro x; clear_value x)
    | (intro x; subst x)
    | lift_lets -underBinder
    | (with_reducible assumption)
    | (with_reducible apply State.calReport_keeps)
    | (with_reducible apply State.rehearseHbm_keeps)
    | (with_reducible apply State.arcDiscover_keeps)
    | (with_reducible apply State.setCus_keeps)
    | (with_reducible apply State.setReady_keeps)
    | (with_reducible apply State.zeroMem_keeps)
    | (with_reducible apply State.lateDrain_keeps)
    | split
    | (with_reducible refine keeps_fst (by with_reducible assumption) ?_)
    | (with_reducible refine keeps_snd (by with_reducible assumption) ?_)
    | (with_reducible refine Keeps.update ?_)
    | (intro _ _; (try beta_reduce))
    | (intro _; (try beta_reduce)))

theorem State.parkAll_keeps {s0 : State} {s : State} (hs : Keeps s0 s) :
    Keeps s0 (State.parkAll s) := by
  unfold State.parkAll
  repeat' (first
    | (with_reducible assumption)
    | (with_reducible apply State.parkNow_keeps)
    | (with_reducible apply State.settleAll_keeps)
    | (with_reducible refine keeps_foldl ?_ (fun _ _ _ => ?_)))

theorem State.showPair_keeps {s0 : State} {s : State} (r : Nat) (hs : Keeps s0 s) :
    Keeps s0 (State.showPair s r) := by
  unfold State.showPair
  repeat' (first
    | (with_reducible assumption)
    | (with_reducible apply State.setRf_keeps))

theorem State.setRepMode_keeps {s0 : State} {s : State} (r : Nat) (hs : Keeps s0 s) :
    Keeps s0 (State.setRepMode s r) := by
  unfold State.setRepMode
  repeat' (first
    | (with_reducible assumption)
    | (with_reducible apply State.setReg_keeps)
    | split
    | (with_reducible refine keeps_fst (by with_reducible assumption) ?_)
    | (with_reducible refine keeps_snd (by with_reducible assumption) ?_)
    | (with_reducible refine Keeps.update ?_))

theorem State.endHandover_keeps {s0 : State} {s : State} (hs : Keeps s0 s) :
    Keeps s0 (State.endHandover s) := by
  unfold State.endHandover
  repeat' (first
    | (intro x; refine have_then (p := Keeps s0 x) ?_ ?_; (on_goal 2 => (intro hx; clear_value x)); (on_goal 1 => (subst x)))
    | (intro x; clear_value x)
    | (intro x; subst x)
    | lift_lets -underBinder
    | (with_reducible assumption)
    | (with_reducible apply State.setRf_keeps)
    | (with_reducible apply State.fire_keeps)
    | split
    | (with_reducible refine keeps_fst (by with_reducible assumption) ?_)
    | (with_reducible refine keeps_snd (by with_reducible assumption) ?_)
    | (with_reducible refine Keeps.update ?_))

theorem State.dropCurtain_keeps {s0 : State} {s : State} (hs : Keeps s0 s) : Keeps s0 (State.dropCurtain s) := by
  unfold State.dropCurtain
  repeat' (first
    | (intro x; refine have_then (p := Keeps s0 x) ?_ ?_; (on_goal 2 => (intro hx; clear_value x)); (on_goal 1 => (subst x)))
    | (intro x; refine have_then (p := Keeps s0 x.1) ?_ ?_; (on_goal 2 => (intro hx; clear_value x)); (on_goal 1 => (subst x)))
    | (intro x; (have _y := (fun a => x a)); clear _y; subst x; (try beta_reduce))
    | (intro x; clear_value x)
    | (intro x; subst x)
    | lift_lets -underBinder
    | (with_reducible assumption)
    | (with_reducible apply State.setRf_keeps)
    | (with_reducible apply State.setStatus_keeps)
    | (with_reducible apply State.encoresEnd_keeps)
    | (with_reducible apply State.arcClose_keeps)
    | (with_reducible apply State.setCus_keeps)
    | (with_reducible apply State.linksDown_keeps)
    | (with_reducible apply State.setDom_keeps)
    | (with_reducible apply State.parkAll_keeps)
    | (with_reducible apply State.endHandover_keeps)
    | (with_reducible refine keeps_foldl ?_ (fun _ _ _ => ?_))
    | (with_reducible refine keeps_foldl1 ?_ (fun _ _ _ => ?_))
    | (with_reducible refine Keeps.update ?_)
    | (intro _ _; (try beta_reduce))
    | (intro _; (try beta_reduce)))

theorem State.dropFlush_keeps {s0 : State} {s : State} (hs : Keeps s0 s) :
    Keeps s0 (State.dropFlush s) := by
  unfold State.dropFlush
  repeat' (first
    | (intro x; refine have_then (p := Keeps s0 x) ?_ ?_; (on_goal 2 => (intro hx; clear_value x)); (on_goal 1 => (subst x)))
    | (intro x; refine have_then (p := Keeps s0 x.1) ?_ ?_; (on_goal 2 => (intro hx; clear_value x)); (on_goal 1 => (subst x)))
    | (intro x; (have _y := (fun a => x a)); clear _y; subst x; (try beta_reduce))
    | (intro x; clear_value x)
    | (intro x; subst x)
    | lift_lets -underBinder
    | (with_reducible assumption)
    | (with_reducible apply State.setCal_keeps)
    | (with_reducible apply State.encoresEnd_keeps)
    | (with_reducible apply State.setDom_keeps)
    | (with_reducible apply State.parkAll_keeps)
    | (with_reducible apply State.endHandover_keeps)
    | (with_reducible refine keeps_foldl ?_ (fun _ _ _ => ?_))
    | (with_reducible refine keeps_foldl1 ?_ (fun _ _ _ => ?_))
    | split
    | (with_reducible refine keeps_fst (by with_reducible assumption) ?_)
    | (with_reducible refine keeps_snd (by with_reducible assumption) ?_)
    | (with_reducible refine Keeps.update ?_)
    | (intro _ _; (try beta_reduce))
    | (intro _; (try beta_reduce)))

theorem State.begin_keeps {s0 : State} {s : State} (t : Nat) (hs : Keeps s0 s) :
    Keeps s0 (State.begin s t) := by
  unfold State.begin
  repeat' (first
    | (intro x; refine have_then (p := Keeps s0 x) ?_ ?_; (on_goal 2 => (intro hx; clear_value x)); (on_goal 1 => (subst x)))
    | (intro x; clear_value x)
    | (intro x; subst x)
    | lift_lets -underBinder
    | (with_reducible assumption)
    | (with_reducible apply State.setRf_keeps)
    | (with_reducible apply State.setCus_keeps)
    | (with_reducible apply State.dropCurtain_keeps)
    | (with_reducible apply State.dropFlush_keeps)
    | split
    | (with_reducible refine keeps_fst (by with_reducible assumption) ?_)
    | (with_reducible refine keeps_snd (by with_reducible assumption) ?_)
    | (with_reducible refine Keeps.update ?_))

theorem State.await_keeps {s0 : State} {s : State} (how : Trig) (t : Nat) (hs : Keeps s0 s) :
    Keeps s0 (State.await s how t) := by
  unfold State.await
  repeat' (first
    | (with_reducible assumption)
    | (with_reducible apply State.modectl_keeps)
    | (with_reducible apply State.setCus_keeps)
    | (with_reducible apply State.reset_keeps)
    | (with_reducible apply State.refitEnd_keeps)
    | split
    | (with_reducible refine keeps_fst (by with_reducible assumption) ?_)
    | (with_reducible refine keeps_snd (by with_reducible assumption) ?_)
    | (with_reducible refine Keeps.update ?_))

theorem State.trigger_keeps {s0 : State} {s : State} (how : Trig) (t : Nat) (hs : Keeps s0 s) :
    Keeps s0 (State.trigger s how t) := by
  unfold State.trigger
  repeat' (first
    | (with_reducible assumption)
    | (with_reducible apply State.modectl_keeps)
    | (with_reducible apply State.begin_keeps)
    | (with_reducible apply State.await_keeps)
    | (with_reducible apply State.flt_keeps)
    | split
    | (with_reducible refine keeps_fst (by with_reducible assumption) ?_)
    | (with_reducible refine keeps_snd (by with_reducible assumption) ?_))

theorem State.curtEvent_keeps {s0 : State} {s : State} (bit : Nat) (hs : Keeps s0 s) :
    Keeps s0 (State.curtEvent s bit) := by
  unfold State.curtEvent
  repeat' (first
    | (with_reducible assumption)
    | (with_reducible apply State.trigger_keeps)
    | split
    | (with_reducible refine keeps_fst (by with_reducible assumption) ?_)
    | (with_reducible refine keeps_snd (by with_reducible assumption) ?_))

theorem State.pollCurtain_keeps {s0 : State} {s : State} (hs : Keeps s0 s) :
    Keeps s0 (State.pollCurtain s) := by
  unfold State.pollCurtain
  repeat' (first
    | (with_reducible assumption)
    | (with_reducible apply State.setCus_keeps)
    | (with_reducible apply State.trigger_keeps)
    | split
    | (with_reducible refine keeps_fst (by with_reducible assumption) ?_)
    | (with_reducible refine keeps_snd (by with_reducible assumption) ?_)
    | (with_reducible refine Keeps.update ?_))

theorem State.bandsForced_keeps {s0 : State} {s : State} (on : Bool) (hs : Keeps s0 s) :
    Keeps s0 (State.bandsForced s on) := by
  unfold State.bandsForced
  repeat' (first
    | (with_reducible assumption)
    | (with_reducible apply State.setRf_keeps)
    | (with_reducible refine keeps_foldl ?_ (fun _ _ _ => ?_))
    | split
    | (with_reducible refine keeps_fst (by with_reducible assumption) ?_)
    | (with_reducible refine keeps_snd (by with_reducible assumption) ?_))

theorem State.entry_keeps {s0 : State} {s : State} (m : Nat) (t : Nat) (hs : Keeps s0 s) :
    Keeps s0 (State.entry s m t) := by
  unfold State.entry
  repeat' (first
    | (intro x; refine have_then (p := Keeps s0 x) ?_ ?_; (on_goal 2 => (intro hx; clear_value x)); (on_goal 1 => (subst x)))
    | (intro x; refine have_then (p := Keeps s0 x.1) ?_ ?_; (on_goal 2 => (intro hx; clear_value x)); (on_goal 1 => (subst x)))
    | (intro x; (have _y := (fun a => x a)); clear _y; subst x; (try beta_reduce))
    | (intro x; clear_value x)
    | (intro x; subst x)
    | lift_lets -underBinder
    | (with_reducible assumption)
    | (with_reducible apply State.setRf_keeps)
    | (with_reducible apply State.setCal_keeps)
    | (with_reducible apply State.calReport_keeps)
    | (with_reducible apply State.rehearseHbm_keeps)
    | (with_reducible apply State.suspend_keeps)
    | (with_reducible apply State.settleAll_keeps)
    | (with_reducible apply State.encoresEnd_keeps)
    | (with_reducible apply State.setCus_keeps)
    | (with_reducible apply State.applyDomains_keeps)
    | (with_reducible apply State.parkAll_keeps)
    | (with_reducible apply State.showPair_keeps)
    | (with_reducible apply State.setRepMode_keeps)
    | (with_reducible apply State.endHandover_keeps)
    | (with_reducible apply State.bandsForced_keeps)
    | (with_reducible refine keeps_foldl ?_ (fun _ _ _ => ?_))
    | (with_reducible refine keeps_foldl1 ?_ (fun _ _ _ => ?_))
    | split
    | (with_reducible refine keeps_fst (by with_reducible assumption) ?_)
    | (with_reducible refine keeps_snd (by with_reducible assumption) ?_)
    | (with_reducible refine Keeps.update ?_)
    | (intro _ _; (try beta_reduce))
    | (intro _; (try beta_reduce)))

theorem State.arriveMode_keeps {s0 : State} {s : State} (t : Nat) (hs : Keeps s0 s) :
    Keeps s0 (State.arriveMode s t) := by
  unfold State.arriveMode
  repeat' (first
    | (intro x; refine have_then (p := Keeps s0 x) ?_ ?_; (on_goal 2 => (intro hx; clear_value x)); (on_goal 1 => (subst x)))
    | (intro x; refine have_then (p := Keeps s0 x.1) ?_ ?_; (on_goal 2 => (intro hx; clear_value x)); (on_goal 1 => (subst x)))
    | (intro x; (have _y := (fun a => x a)); clear _y; subst x; (try beta_reduce))
    | (intro x; clear_value x)
    | (intro x; subst x)
    | lift_lets -underBinder
    | (with_reducible assumption)
    | (with_reducible apply State.setRf_keeps)
    | (with_reducible apply State.addRf_keeps)
    | (with_reducible apply State.fire_keeps)
    | (with_reducible apply State.setCus_keeps)
    | (with_reducible apply State.entry_keeps)
    | split
    | (with_reducible refine keeps_fst (by with_reducible assumption) ?_)
    | (with_reducible refine keeps_snd (by with_reducible assumption) ?_)
    | (with_reducible refine Keeps.update ?_)
    | (intro _ _; (try beta_reduce))
    | (intro _; (try beta_reduce)))

theorem State.pairDone_keeps {s0 : State} {s : State} (hs : Keeps s0 s) :
    Keeps s0 (State.pairDone s) := by
  unfold State.pairDone
  repeat' (first
    | (intro x; refine have_then (p := Keeps s0 x) ?_ ?_; (on_goal 2 => (intro hx; clear_value x)); (on_goal 1 => (subst x)))
    | (intro x; clear_value x)
    | (intro x; subst x)
    | lift_lets -underBinder
    | (with_reducible assumption)
    | (with_reducible apply State.setRf_keeps)
    | (with_reducible apply State.fire_keeps)
    | (with_reducible apply State.arriveMode_keeps)
    | split
    | (with_reducible refine keeps_fst (by with_reducible assumption) ?_)
    | (with_reducible refine keeps_snd (by with_reducible assumption) ?_)
    | (with_reducible refine Keeps.update ?_))

theorem State.pairStep_keeps {s0 : State} {s : State} (e : Nat) (hs : Keeps s0 s) :
    Keeps s0 (State.pairStep s e) := by
  unfold State.pairStep
  repeat' (first
    | (with_reducible assumption)
    | (with_reducible apply State.setReg_keeps)
    | split
    | (with_reducible refine keeps_fst (by with_reducible assumption) ?_)
    | (with_reducible refine keeps_snd (by with_reducible assumption) ?_)
    | (with_reducible refine Keeps.update ?_))

theorem State.handover_keeps {s0 : State} {s : State} (r : Nat) (hs : Keeps s0 s) :
    Keeps s0 (State.handover s r) := by
  unfold State.handover
  repeat' (first
    | (intro x; refine have_then (p := Keeps s0 x) ?_ ?_; (on_goal 2 => (intro hx; clear_value x)); (on_goal 1 => (subst x)))
    | (intro x; (have _y := (fun a => x a)); clear _y; subst x; (try beta_reduce))
    | (intro x; clear_value x)
    | (intro x; subst x)
    | lift_lets -underBinder
    | (with_reducible assumption)
    | (with_reducible apply State.setReg_keeps)
    | (with_reducible apply State.showPair_keeps)
    | (with_reducible apply State.setRf_keeps)
    | (with_reducible apply State.begin_keeps)
    | (with_reducible apply State.pairDone_keeps)
    | (with_reducible refine keeps_foldl ?_ (fun _ _ _ => ?_))
    | split
    | (with_reducible refine keeps_fst (by with_reducible assumption) ?_)
    | (with_reducible refine keeps_snd (by with_reducible assumption) ?_)
    | (with_reducible refine Keeps.update ?_))

theorem State.pairRequest_keeps {s0 : State} {s : State} (r : Nat) (store : State → State) (hs : Keeps s0 s) (hstore : ∀ x, Keeps s0 x → Keeps s0 (store x)) :
    Keeps s0 (State.pairRequest s r store) := by
  unfold State.pairRequest
  repeat' (first
    | (intro x; refine have_then (p := Keeps s0 x) ?_ ?_; (on_goal 2 => (intro hx; clear_value x)); (on_goal 1 => (subst x)))
    | (intro x; clear_value x)
    | (intro x; subst x)
    | lift_lets -underBinder
    | (with_reducible assumption)
    | (with_reducible apply State.flt_keeps)
    | (with_reducible refine State.store_keeps _ _ _ _ (by with_reducible assumption) ?_)
    | (with_reducible apply State.handover_keeps)
    | (with_reducible apply hstore)
    | split
    | (with_reducible refine keeps_fst (by with_reducible assumption) ?_)
    | (with_reducible refine keeps_snd (by with_reducible assumption) ?_))

theorem State.repModeWrite_keeps {s0 : State} {s : State} (r : Nat) (store : State → State) (hs : Keeps s0 s) (hstore : ∀ x, Keeps s0 x → Keeps s0 (store x)) :
    Keeps s0 (State.repModeWrite s r store) := by
  unfold State.repModeWrite
  repeat' (first
    | (with_reducible assumption)
    | (with_reducible apply State.setCus_keeps)
    | (with_reducible apply State.pairRequest_keeps)
    | (with_reducible refine State.store_keeps _ _ _ _ (by with_reducible assumption) ?_)
    | (with_reducible apply hstore)
    | (intro _ _; (try beta_reduce))
    | (intro _; (try beta_reduce))
    | split
    | (with_reducible refine keeps_fst (by with_reducible assumption) ?_)
    | (with_reducible refine keeps_snd (by with_reducible assumption) ?_)
    | (with_reducible refine Keeps.update ?_))

theorem State.takeIf_keeps {s0 : State} {s : State} (on : Bool) (clear : CusSt → CusSt) (how : Trig) (t : Nat) (hs : Keeps s0 s) :
    Keeps s0 (State.takeIf s on clear how t) := by
  unfold State.takeIf
  repeat' (first
    | (with_reducible assumption)
    | (with_reducible apply State.setCus_keeps)
    | (with_reducible apply State.trigger_keeps)
    | split
    | (with_reducible refine keeps_fst (by with_reducible assumption) ?_)
    | (with_reducible refine keeps_snd (by with_reducible assumption) ?_))

theorem State.takeTriggers_keeps {s0 : State} {s : State} (hs : Keeps s0 s) :
    Keeps s0 (State.takeTriggers s) := by
  unfold State.takeTriggers
  repeat' (first
    | (intro x; refine have_then (p := Keeps s0 x) ?_ ?_; (on_goal 2 => (intro hx; clear_value x)); (on_goal 1 => (subst x)))
    | (intro x; (have _y := (fun a => x a)); clear _y; subst x; (try beta_reduce))
    | (intro x; clear_value x)
    | (intro x; subst x)
    | lift_lets -underBinder
    | (with_reducible assumption)
    | (with_reducible apply State.takeIf_keeps)
    | (with_reducible apply State.reset_keeps)
    | (with_reducible apply State.modectl_keeps)
    | (with_reducible apply State.setCus_keeps)
    | (with_reducible apply State.pairRequest_keeps)
    | (with_reducible apply State.setRepMode_keeps)
    | (intro _ _; (try beta_reduce))
    | (intro _; (try beta_reduce))
    | split
    | (with_reducible refine keeps_fst (by with_reducible assumption) ?_)
    | (with_reducible refine keeps_snd (by with_reducible assumption) ?_)
    | (with_reducible refine Keeps.update ?_))

theorem State.modeComplete_keeps {s0 : State} {s : State} (hs : Keeps s0 s) :
    Keeps s0 (State.modeComplete s) := by
  unfold State.modeComplete
  repeat' (first
    | (with_reducible assumption)
    | (with_reducible apply State.arriveMode_keeps)
    | (with_reducible apply State.takeTriggers_keeps)
    | split
    | (with_reducible refine keeps_fst (by with_reducible assumption) ?_)
    | (with_reducible refine keeps_snd (by with_reducible assumption) ?_))

theorem State.enginePairing_keeps {s0 : State} {s : State} (e : Nat) (hs : Keeps s0 s) :
    Keeps s0 (State.enginePairing s e) := by
  unfold State.enginePairing
  repeat' (first
    | (with_reducible assumption)
    | (with_reducible apply State.pairStep_keeps)
    | (with_reducible apply State.pairDone_keeps)
    | (with_reducible apply State.takeTriggers_keeps)
    | split
    | (with_reducible refine keeps_fst (by with_reducible assumption) ?_)
    | (with_reducible refine keeps_snd (by with_reducible assumption) ?_))

theorem State.modectl_keeps {s0 : State} {s : State} (t : Nat) (hs : Keeps s0 s) :
    Keeps s0 (State.modectl s t) := by
  unfold State.modectl
  repeat' (first
    | (with_reducible assumption)
    | (with_reducible apply State.trigger_keeps))

theorem State.rehearsalEnd_keeps {s0 : State} {s : State} (hs : Keeps s0 s) :
    Keeps s0 (State.rehearsalEnd s) := by
  unfold State.rehearsalEnd
  repeat' (first
    | (intro x; refine have_then (p := Keeps s0 x) ?_ ?_; (on_goal 2 => (intro hx; clear_value x)); (on_goal 1 => (subst x)))
    | (intro x; clear_value x)
    | (intro x; subst x)
    | lift_lets -underBinder
    | (with_reducible assumption)
    | (with_reducible apply State.raise_keeps)
    | (with_reducible apply State.trigger_keeps)
    | (with_reducible apply State.arriveMode_keeps)
    | (with_reducible apply State.takeTriggers_keeps)
    | split
    | (with_reducible refine keeps_fst (by with_reducible assumption) ?_)
    | (with_reducible refine keeps_snd (by with_reducible assumption) ?_))

theorem State.refitEnd_keeps {s0 : State} {s : State} (hs : Keeps s0 s) :
    Keeps s0 (State.refitEnd s) := by
  unfold State.refitEnd
  repeat' (first
    | (with_reducible assumption)
    | (with_reducible apply State.begin_keeps)
    | split
    | (with_reducible refine keeps_fst (by with_reducible assumption) ?_)
    | (with_reducible refine keeps_snd (by with_reducible assumption) ?_))

theorem State.restraint_keeps {s0 : State} {s : State} (hs : Keeps s0 s) :
    Keeps s0 (State.restraint s) := by
  unfold State.restraint
  repeat' (first
    | (intro x; refine have_then (p := Keeps s0 x) ?_ ?_; (on_goal 2 => (intro hx; clear_value x)); (on_goal 1 => (subst x)))
    | (intro x; clear_value x)
    | (intro x; subst x)
    | lift_lets -underBinder
    | (with_reducible assumption)
    | (with_reducible apply State.setRf_keeps)
    | (with_reducible apply State.addRf_keeps)
    | (with_reducible apply State.bandsForced_keeps)
    | (with_reducible apply State.setCus_keeps)
    | (with_reducible apply State.trigger_keeps)
    | split
    | (with_reducible refine keeps_fst (by with_reducible assumption) ?_)
    | (with_reducible refine keeps_snd (by with_reducible assumption) ?_)
    | (with_reducible refine Keeps.update ?_))

theorem State.setHot_keeps {s0 : State} {s : State} (i : Nat) (hot : Bool) (hs : Keeps s0 s) :
    Keeps s0 (State.setHot s i hot) := by
  unfold State.setHot
  repeat' (first
    | (intro x; refine have_then (p := Keeps s0 x) ?_ ?_; (on_goal 2 => (intro hx; clear_value x)); (on_goal 1 => (subst x)))
    | (intro x; clear_value x)
    | (intro x; subst x)
    | lift_lets -underBinder
    | (with_reducible assumption)
    | (with_reducible apply State.setCus_keeps)
    | split
    | (with_reducible refine keeps_fst (by with_reducible assumption) ?_)
    | (with_reducible refine keeps_snd (by with_reducible assumption) ?_)
    | (with_reducible refine Keeps.update ?_))

theorem State.sensed_keeps {s0 : State} {s : State} (i : Nat) (temp : Nat) (valid : Bool) (hs : Keeps s0 s) :
    Keeps s0 (State.sensed s i temp valid) := by
  unfold State.sensed
  repeat' (first
    | (intro x; refine have_then (p := Keeps s0 x) ?_ ?_; (on_goal 2 => (intro hx; clear_value x)); (on_goal 1 => (subst x)))
    | (intro x; clear_value x)
    | (intro x; subst x)
    | lift_lets -underBinder
    | (with_reducible assumption)
    | (with_reducible apply State.setCus_keeps)
    | (with_reducible apply State.setHot_keeps)
    | (with_reducible apply State.flt_keeps)
    | split
    | (with_reducible refine keeps_fst (by with_reducible assumption) ?_)
    | (with_reducible refine keeps_snd (by with_reducible assumption) ?_)
    | (with_reducible refine Keeps.update ?_))

theorem State.dieRead_keeps {s0 : State} {s : State} (temps : List (BitVec 9 × Bool)) (mv : Nat) (hs : Keeps s0 s) :
    Keeps s0 (State.dieRead s temps mv) := by
  unfold State.dieRead
  repeat' (first
    | (intro x; refine have_then (p := Keeps s0 x) ?_ ?_; (on_goal 2 => (intro hx; clear_value x)); (on_goal 1 => (subst x)))
    | (intro x; (have _y := (fun a => x a)); clear _y; subst x; (try beta_reduce))
    | (intro x; clear_value x)
    | (intro x; subst x)
    | lift_lets -underBinder
    | (with_reducible assumption)
    | (with_reducible apply State.setRf_keeps)
    | (with_reducible apply State.sensed_keeps)
    | (with_reducible apply State.flt_keeps)
    | (with_reducible apply State.restraint_keeps)
    | (with_reducible refine keeps_foldl ?_ (fun _ _ _ => ?_))
    | split
    | (with_reducible refine keeps_fst (by with_reducible assumption) ?_)
    | (with_reducible refine keeps_snd (by with_reducible assumption) ?_))

theorem State.hbmRead_keeps {s0 : State} {s : State} (k : Nat) (temp : Nat) (valid : Bool) (hs : Keeps s0 s) :
    Keeps s0 (State.hbmRead s k temp valid) := by
  unfold State.hbmRead
  repeat' (first
    | (with_reducible assumption)
    | (with_reducible apply State.hbmTemp_keeps)
    | (with_reducible apply State.sensed_keeps)
    | (with_reducible apply State.restraint_keeps)
    | split
    | (with_reducible refine keeps_fst (by with_reducible assumption) ?_)
    | (with_reducible refine keeps_snd (by with_reducible assumption) ?_))

theorem State.restraintEnd_keeps {s0 : State} {s : State} (hs : Keeps s0 s) :
    Keeps s0 (State.restraintEnd s) := by
  unfold State.restraintEnd
  repeat' (first
    | (intro x; refine have_then (p := Keeps s0 x) ?_ ?_; (on_goal 2 => (intro hx; clear_value x)); (on_goal 1 => (subst x)))
    | (intro x; clear_value x)
    | (intro x; subst x)
    | lift_lets -underBinder
    | (with_reducible assumption)
    | (with_reducible apply State.setRf_keeps)
    | (with_reducible apply State.bandsForced_keeps)
    | (with_reducible apply State.trigger_keeps)
    | split
    | (with_reducible refine keeps_fst (by with_reducible assumption) ?_)
    | (with_reducible refine keeps_snd (by with_reducible assumption) ?_))

theorem State.overtemp_keeps {s0 : State} {s : State} (i : Nat) (hs : Keeps s0 s) :
    Keeps s0 (State.overtemp s i) := by
  unfold State.overtemp
  repeat' (first
    | (with_reducible assumption)
    | (with_reducible apply State.setHot_keeps)
    | (with_reducible apply State.raise_keeps)
    | (with_reducible apply State.curtEvent_keeps)
    | split
    | (with_reducible refine keeps_fst (by with_reducible assumption) ?_)
    | (with_reducible refine keeps_snd (by with_reducible assumption) ?_))

theorem State.thermChange_keeps {s0 : State} {s : State} (level : Bool) (hs : Keeps s0 s) :
    Keeps s0 (State.thermChange s level) := by
  unfold State.thermChange
  repeat' (first
    | (with_reducible assumption)
    | (with_reducible apply State.setCus_keeps)
    | (with_reducible apply State.restraint_keeps)
    | (with_reducible refine Keeps.update ?_))

theorem State.cold_keeps {s0 : State} {s : State} (hs : Keeps s0 s) : Keeps s0 s.cold :=
  ⟨hs.queue, hs.beats, hs.time, hs.free, fun c => ⟨rfl, rfl, rfl, (hs.canonical c).2.2.2⟩⟩

theorem State.callUp_keeps {s0 : State} {s : State} (hs : Keeps s0 s) : Keeps s0 (State.callUp s) := by
  unfold State.callUp
  refine State.fire_keeps _ (keeps_foldl (Keeps.update (State.setRf_keeps _ _ _ (State.cold_keeps hs))) fun r i h => ?_)
  split
  · exact State.setActiveAt_keeps _ _ (State.setRf_keeps _ _ _ h)
  · exact h

theorem State.resetRise_keeps {s0 : State} {s : State} (hs : Keeps s0 s) :
    Keeps s0 (State.resetRise s) := by
  unfold State.resetRise
  repeat' (first
    | (intro x; refine have_then (p := Keeps s0 x) ?_ ?_; (on_goal 2 => (intro hx; clear_value x)); (on_goal 1 => (subst x)))
    | (intro x; clear_value x)
    | (intro x; subst x)
    | lift_lets -underBinder
    | (with_reducible assumption)
    | (with_reducible apply State.setCus_keeps)
    | (with_reducible apply State.heldRise_keeps)
    | (with_reducible apply State.callUp_keeps)
    | split
    | (with_reducible refine keeps_fst (by with_reducible assumption) ?_)
    | (with_reducible refine keeps_snd (by with_reducible assumption) ?_)
    | (with_reducible refine Keeps.update ?_))

theorem State.heldRise_keeps {s0 : State} {s : State} (hs : Keeps s0 s) :
    Keeps s0 (State.heldRise s) := by
  unfold State.heldRise
  repeat' (first
    | (with_reducible assumption)
    | (with_reducible apply State.callUp_keeps)
    | split
    | (with_reducible refine keeps_fst (by with_reducible assumption) ?_)
    | (with_reducible refine keeps_snd (by with_reducible assumption) ?_))

theorem State.resetFall_keeps {s0 : State} {s : State} (hs : Keeps s0 s) :
    Keeps s0 (State.resetFall s) := by
  unfold State.resetFall
  repeat' (first
    | (intro x; refine have_then (p := Keeps s0 x) ?_ ?_; (on_goal 2 => (intro hx; clear_value x)); (on_goal 1 => (subst x)))
    | (intro x; clear_value x)
    | (intro x; subst x)
    | lift_lets -underBinder
    | (with_reducible assumption)
    | (with_reducible apply State.setCus_keeps)
    | (with_reducible apply State.heldRise_keeps)
    | (with_reducible apply State.arriveMode_keeps)
    | (with_reducible apply State.trigger_keeps)
    | (with_reducible apply State.reset_keeps)
    | split
    | (with_reducible refine keeps_fst (by with_reducible assumption) ?_)
    | (with_reducible refine keeps_snd (by with_reducible assumption) ?_)
    | (with_reducible refine Keeps.update ?_))

theorem State.pfailFall_keeps {s0 : State} {s : State} (hs : Keeps s0 s) :
    Keeps s0 (State.pfailFall s) := by
  unfold State.pfailFall
  repeat' (first
    | (with_reducible assumption)
    | (with_reducible apply State.setCus_keeps)
    | (with_reducible apply State.trigger_keeps)
    | split
    | (with_reducible refine keeps_fst (by with_reducible assumption) ?_)
    | (with_reducible refine keeps_snd (by with_reducible assumption) ?_)
    | (with_reducible refine Keeps.update ?_))

theorem State.pfailRise_keeps {s0 : State} {s : State} (hs : Keeps s0 s) :
    Keeps s0 (State.pfailRise s) := by
  unfold State.pfailRise
  repeat' (first
    | (with_reducible assumption)
    | (with_reducible apply State.setCus_keeps)
    | split
    | (with_reducible refine keeps_fst (by with_reducible assumption) ?_)
    | (with_reducible refine keeps_snd (by with_reducible assumption) ?_)
    | (with_reducible refine Keeps.update ?_))

theorem State.supplyOff_keeps {s0 : State} {s : State} (hs : Keeps s0 s) :
    Keeps s0 (State.supplyOff s) := by
  unfold State.supplyOff
  repeat' (first
    | (intro x; refine have_then (p := Keeps s0 x) ?_ ?_; (on_goal 2 => (intro hx; clear_value x)); (on_goal 1 => (subst x)))
    | (intro x; (have _y := (fun a => x a)); clear _y; subst x; (try beta_reduce))
    | (intro x; clear_value x)
    | (intro x; subst x)
    | lift_lets -underBinder
    | (with_reducible assumption)
    | (with_reducible apply State.setRf_keeps)
    | (with_reducible apply State.zeroMem_keeps)
    | (with_reducible apply State.applyDomains_keeps)
    | (with_reducible apply State.setCus_keeps)
    | (with_reducible apply State.reset_keeps)
    | (intro _ _; (try beta_reduce))
    | (intro _; (try beta_reduce))
    | split
    | (with_reducible refine keeps_fst (by with_reducible assumption) ?_)
    | (with_reducible refine keeps_snd (by with_reducible assumption) ?_)
    | (with_reducible refine Keeps.update ?_))

theorem State.aonRise_keeps {s0 : State} {s : State} (hs : Keeps s0 s) : Keeps s0 s.aonRise := by
  unfold State.aonRise
  split
  · exact hs
  · have h := State.setCus_keeps { s.cus with aon := true, resetAt := 0, pfailAt := 0 } hs
    dsimp only
    have h0 : Keeps s0 { s.setCus { s.cus with aon := true, resetAt := 0, pfailAt := 0 } with time := 0 } :=
      ⟨h.queue, h.beats, .inr rfl, h.free, h.canonical⟩
    split
    · exact h0
    · exact State.arriveMode_keeps _ h0

theorem State.flushEnd_keeps {s0 : State} {s : State} (hs : Keeps s0 s) :
    Keeps s0 (State.flushEnd s) := by
  unfold State.flushEnd
  repeat' (first
    | (intro x; refine have_then (p := Keeps s0 x) ?_ ?_; (on_goal 2 => (intro hx; clear_value x)); (on_goal 1 => (subst x)))
    | (intro x; refine have_then (p := Keeps s0 x.1) ?_ ?_; (on_goal 2 => (intro hx; clear_value x)); (on_goal 1 => (subst x)))
    | (intro x; (have _y := (fun a => x a)); clear _y; subst x; (try beta_reduce))
    | (intro x; clear_value x)
    | (intro x; subst x)
    | lift_lets -underBinder
    | (with_reducible assumption)
    | (with_reducible apply State.flushed_keeps)
    | (with_reducible apply State.reset_keeps)
    | (with_reducible apply State.fire_keeps)
    | (with_reducible apply State.arcCommitPage_keeps)
    | (with_reducible apply State.setCus_keeps)
    | (with_reducible apply State.trigger_keeps)
    | split
    | (with_reducible refine keeps_fst (by with_reducible assumption) ?_)
    | (with_reducible refine keeps_snd (by with_reducible assumption) ?_)
    | (with_reducible refine Keeps.update ?_)
    | (intro _ _; (try beta_reduce))
    | (intro _; (try beta_reduce)))

theorem State.calStart_keeps {s0 : State} {s : State} (mask : Nat) (hs : Keeps s0 s) :
    Keeps s0 (State.calStart s mask) := by
  unfold State.calStart
  repeat' (first
    | (intro x; refine have_then (p := Keeps s0 x) ?_ ?_; (on_goal 2 => (intro hx; clear_value x)); (on_goal 1 => (subst x)))
    | (intro x; refine have_then (p := Keeps s0 x.1) ?_ ?_; (on_goal 2 => (intro hx; clear_value x)); (on_goal 1 => (subst x)))
    | (intro x; (have _y := (fun a => x a)); clear _y; subst x; (try beta_reduce))
    | (intro x; clear_value x)
    | (intro x; subst x)
    | lift_lets -underBinder
    | (with_reducible assumption)
    | (with_reducible apply State.setCal_keeps)
    | (with_reducible apply State.calReport_keeps)
    | (with_reducible refine keeps_foldl ?_ (fun _ _ _ => ?_))
    | (with_reducible refine keeps_foldl1 ?_ (fun _ _ _ => ?_))
    | split
    | (with_reducible refine keeps_fst (by with_reducible assumption) ?_)
    | (with_reducible refine keeps_snd (by with_reducible assumption) ?_)
    | (with_reducible refine Keeps.update ?_)
    | (intro _ _; (try beta_reduce))
    | (intro _; (try beta_reduce)))

theorem State.bootLoad_keeps {s0 : State} {s : State} (copy : Bool) (hs : Keeps s0 s) :
    Keeps s0 (State.bootLoad s copy) := by
  unfold State.bootLoad
  repeat' (first
    | (with_reducible assumption)
    | (with_reducible apply State.locked_keeps)
    | (with_reducible apply State.setRf_keeps)
    | split
    | (with_reducible refine keeps_fst (by with_reducible assumption) ?_)
    | (with_reducible refine keeps_snd (by with_reducible assumption) ?_)
    | (with_reducible refine Keeps.update ?_))

theorem State.bootLoadDone_keeps {s0 : State} {s : State} (hs : Keeps s0 s) :
    Keeps s0 (State.bootLoadDone s) := by
  unfold State.bootLoadDone
  repeat' (first
    | (intro x; refine have_then (p := Keeps s0 x) ?_ ?_; (on_goal 2 => (intro hx; clear_value x)); (on_goal 1 => (subst x)))
    | (intro x; refine have_then (p := Keeps s0 x.1) ?_ ?_; (on_goal 2 => (intro hx; clear_value x)); (on_goal 1 => (subst x)))
    | (intro x; (have _y := (fun a => x a)); clear _y; subst x; (try beta_reduce))
    | (intro x; clear_value x)
    | (intro x; subst x)
    | lift_lets -underBinder
    | (with_reducible assumption)
    | (with_reducible apply State.poke_keeps)
    | (with_reducible apply State.setRf_keeps)
    | (with_reducible apply State.pokeOwn_keeps)
    | split
    | (with_reducible refine keeps_fst (by with_reducible assumption) ?_)
    | (with_reducible refine keeps_snd (by with_reducible assumption) ?_)
    | (with_reducible refine Keeps.update ?_)
    | (intro _ _; (try beta_reduce))
    | (intro _; (try beta_reduce)))

end Sys2Proof.Machine
end

