-- ==== Sys2Proof/Laws/KeepsRegView.lean ====
section
/-!
SUPPORT. What the operations of Machine/RegView.lean keep.
-/
namespace Sys2Proof.Machine

theorem State.afterRead_keeps {s0 : State} {s : State} (a : RegAt) (m : Word) (hs : Keeps s0 s) :
    Keeps s0 (State.afterRead s a m) := by
  unfold State.afterRead
  repeat' (first
    | (intro x; refine have_then (p := Keeps s0 x) ?_ ?_; (on_goal 2 => (intro hx; clear_value x)); (on_goal 1 => (subst x)))
    | (intro x; refine have_then (p := Keeps s0 x.1) ?_ ?_; (on_goal 2 => (intro hx; clear_value x)); (on_goal 1 => (subst x)))
    | (intro x; (have _y := (fun a => x a)); clear _y; subst x; (try beta_reduce))
    | (intro x; clear_value x)
    | (intro x; subst x)
    | lift_lets -underBinder
    | (with_reducible assumption)
    | (with_reducible apply State.takeFree_keeps)
    | (with_reducible apply State.setReg_keeps)
    | (with_reducible apply State.setReg_keeps)
    | (with_reducible refine keeps_foldl ?_ (fun _ _ _ => ?_))
    | (with_reducible refine keeps_foldl1 ?_ (fun _ _ _ => ?_))
    | split
    | (with_reducible refine keeps_fst (by with_reducible assumption) ?_)
    | (with_reducible refine keeps_snd (by with_reducible assumption) ?_)
    | (with_reducible refine Keeps.update ?_)
    | (intro _ _; (try beta_reduce))
    | (intro _; (try beta_reduce)))

theorem State.cfgRead_keeps {s0 : State} {s : State} (t : CfgTarget) (off : Nat) (size : Nat) (hs : Keeps s0 s) :
    Keeps s0 (State.cfgRead s t off size).1 := by
  unfold State.cfgRead
  repeat' (first
    | (with_reducible assumption)
    | (with_reducible apply State.afterRead_keeps)
    | split
    | (with_reducible refine keeps_fst (by with_reducible assumption) ?_)
    | (with_reducible refine keeps_snd (by with_reducible assumption) ?_))

theorem State.regLoad_keeps {s0 : State} {s : State} (au : Auth) (off size : Nat) {t : State} {x : Except MErr Word}
    (e : s.regLoad au off size = some (t, x)) (hs : Keeps s0 s) : Keeps s0 t := by
  unfold State.regLoad at e
  split at e
  · cases e
  · dsimp only at e
    cases e
    exact State.cfgRead_keeps _ _ _ hs
  · rename_i he
    have h := State.admit_keeps _ _ _ _ he hs
    split at e
    · cases e; exact h
    · split at e <;> cases e <;> exact h

theorem State.regRead_keeps {s0 : State} {s : State} (m : Master) (off : Nat) (hs : Keeps s0 s) :
    Keeps s0 (State.regRead s m off) := by
  unfold State.regRead
  repeat' (first
    | (with_reducible assumption)
    | (with_reducible refine State.regLoad_keeps _ _ _ (by with_reducible assumption) ?_)
    | split
    | (with_reducible refine keeps_fst (by with_reducible assumption) ?_)
    | (with_reducible refine keeps_snd (by with_reducible assumption) ?_)
    | (with_reducible refine Keeps.update ?_))

end Sys2Proof.Machine
end

