-- ==== Sys2Proof/Laws/KeepsCalEntry.lean ====
section
/-!
SUPPORT. What the operations of Machine/CalEntry.lean keep.
-/
namespace Sys2Proof.Machine

theorem State.onRegs_keeps {s0 : State} {s : State} (c : Nat) (f : CalRegs → CalRegs) (hs : Keeps s0 s) :
    Keeps s0 (State.onRegs s c f) := by
  unfold State.onRegs
  repeat' (first
    | (with_reducible assumption)
    | (with_reducible apply State.setCal_keeps)
    | (with_reducible refine Keeps.update ?_))

theorem State.setGpr_keeps {s0 : State} {s : State} (c : Nat) (r : BitVec 5) (v : Word) (hs : Keeps s0 s) :
    Keeps s0 (State.setGpr s c r v) := by
  unfold State.setGpr
  repeat' (first
    | (with_reducible assumption)
    | (with_reducible apply State.onRegs_keeps)
    | (with_reducible refine keeps_foldl ?_ (fun _ _ _ => ?_))
    | (intro _ _; (try beta_reduce))
    | (intro _; (try beta_reduce)))

theorem State.putStatus_keeps {s0 : State} {s : State} (c : Nat) (v : Word) (hs : Keeps s0 s) :
    Keeps s0 (State.putStatus s c v) := by
  unfold State.putStatus
  repeat' (first
    | (with_reducible assumption)
    | (with_reducible apply State.setStatus_keeps)
    | split
    | (with_reducible refine keeps_fst (by with_reducible assumption) ?_)
    | (with_reducible refine keeps_snd (by with_reducible assumption) ?_))

theorem State.enter_keeps {s0 : State} {s : State} (c : Nat) (t : SaveSet) (cause : Word) (faddr : Nat) (pc : Nat)
    (tag : Word) (handler : Nat) (hs : Keeps s0 s) :
    Keeps s0 (State.enter s c t cause faddr pc tag handler) := by
  unfold State.enter
  repeat' (first
    | (intro x; refine have_then (p := Keeps s0 x) ?_ ?_; (on_goal 2 => (intro hx; clear_value x)); (on_goal 1 => (subst x)))
    | (intro x; refine have_then (p := Keeps s0 x.1) ?_ ?_; (on_goal 2 => (intro hx; clear_value x)); (on_goal 1 => (subst x)))
    | (intro x; (have _y := (fun a => x a)); clear _y; subst x; (try beta_reduce))
    | (intro x; clear_value x)
    | (intro x; subst x)
    | lift_lets -underBinder
    | (with_reducible assumption)
    | (with_reducible apply State.addRf_keeps)
    | (with_reducible apply State.setCal_keeps)
    | (with_reducible apply State.putStatus_keeps)
    | split
    | (with_reducible refine keeps_fst (by with_reducible assumption) ?_)
    | (with_reducible refine keeps_snd (by with_reducible assumption) ?_)
    | (with_reducible refine Keeps.update ?_))

theorem State.holdCal_keeps {s0 : State} {s : State} (c : Nat) (code : Nat) (pc : Nat) (hs : Keeps s0 s) :
    Keeps s0 (State.holdCal s c code pc) := by
  unfold State.holdCal
  repeat' (first
    | (intro x; refine have_then (p := Keeps s0 x) ?_ ?_; (on_goal 2 => (intro hx; clear_value x)); (on_goal 1 => (subst x)))
    | (intro x; refine have_then (p := Keeps s0 x.1) ?_ ?_; (on_goal 2 => (intro hx; clear_value x)); (on_goal 1 => (subst x)))
    | (intro x; (have _y := (fun a => x a)); clear _y; subst x; (try beta_reduce))
    | (intro x; clear_value x)
    | (intro x; subst x)
    | lift_lets -underBinder
    | (with_reducible assumption)
    | (with_reducible apply State.setRf_keeps)
    | (with_reducible apply State.satRf_keeps)
    | (with_reducible apply State.setCal_keeps)
    | (with_reducible apply State.calReport_keeps)
    | (with_reducible apply State.raise_keeps)
    | (with_reducible apply State.curtEvent_keeps)
    | (with_reducible refine Keeps.update ?_))

theorem State.atMachine_keeps {s0 : State} {s : State} {w : State} (c : Nat) (code : Nat) (pc : Nat) (go : Nat → State) (hs : Keeps s0 s) (hw : Keeps s0 w) (hgo : ∀ x, Keeps s0 (go x)) :
    Keeps s0 (State.atMachine s w c code pc go) := by
  unfold State.atMachine
  repeat' (first
    | (intro x; refine have_then (p := Keeps s0 x) ?_ ?_; (on_goal 2 => (intro hx; clear_value x)); (on_goal 1 => (subst x)))
    | (intro x; clear_value x)
    | (intro x; subst x)
    | lift_lets -underBinder
    | (with_reducible assumption)
    | (with_reducible apply State.holdCal_keeps)
    | (with_reducible apply hgo)
    | split
    | (with_reducible refine keeps_fst (by with_reducible assumption) ?_)
    | (with_reducible refine keeps_snd (by with_reducible assumption) ?_))

theorem State.cancelShadow_keeps {s0 : State} {s : State} (c : Nat) (hs : Keeps s0 s) :
    Keeps s0 (State.cancelShadow s c) := by
  unfold State.cancelShadow
  repeat' (first
    | (intro x; refine have_then (p := Keeps s0 x) ?_ ?_; (on_goal 2 => (intro hx; clear_value x)); (on_goal 1 => (subst x)))
    | (intro x; refine have_then (p := Keeps s0 x.1) ?_ ?_; (on_goal 2 => (intro hx; clear_value x)); (on_goal 1 => (subst x)))
    | (intro x; (have _y := (fun a => x a)); clear _y; subst x; (try beta_reduce))
    | (intro x; clear_value x)
    | (intro x; subst x)
    | lift_lets -underBinder
    | (with_reducible assumption)
    | (with_reducible apply State.setCal_keeps)
    | split
    | (with_reducible refine keeps_fst (by with_reducible assumption) ?_)
    | (with_reducible refine keeps_snd (by with_reducible assumption) ?_)
    | (with_reducible refine Keeps.update ?_)
    | (intro _ _; (try beta_reduce))
    | (intro _; (try beta_reduce)))

theorem State.excWaits_keeps {s0 : State} {s : State} (c : Nat) (cause : Word) (faddr : Nat) (pc : Nat) (ret : Bool) (hs : Keeps s0 s) :
    Keeps s0 (State.excWaits s c cause faddr pc ret) := by
  unfold State.excWaits
  repeat' (first
    | (intro x; refine have_then (p := Keeps s0 x) ?_ ?_; (on_goal 2 => (intro hx; clear_value x)); (on_goal 1 => (subst x)))
    | (intro x; refine have_then (p := Keeps s0 x.1) ?_ ?_; (on_goal 2 => (intro hx; clear_value x)); (on_goal 1 => (subst x)))
    | (intro x; (have _y := (fun a => x a)); clear _y; subst x; (try beta_reduce))
    | (intro x; clear_value x)
    | (intro x; subst x)
    | lift_lets -underBinder
    | (with_reducible assumption)
    | (with_reducible apply State.setCal_keeps)
    | split
    | (with_reducible refine keeps_fst (by with_reducible assumption) ?_)
    | (with_reducible refine keeps_snd (by with_reducible assumption) ?_)
    | (with_reducible refine Keeps.update ?_)
    | (intro _ _; (try beta_reduce))
    | (intro _; (try beta_reduce)))

theorem State.retires_keeps {s0 : State} {s : State} (c : Nat) (ret : Bool) (hs : Keeps s0 s) :
    Keeps s0 (State.retires s c ret) := by
  unfold State.retires
  repeat' (first
    | (intro x; refine have_then (p := Keeps s0 x) ?_ ?_; (on_goal 2 => (intro hx; clear_value x)); (on_goal 1 => (subst x)))
    | (intro x; refine have_then (p := Keeps s0 x.1) ?_ ?_; (on_goal 2 => (intro hx; clear_value x)); (on_goal 1 => (subst x)))
    | (intro x; (have _y := (fun a => x a)); clear _y; subst x; (try beta_reduce))
    | (intro x; clear_value x)
    | (intro x; subst x)
    | lift_lets -underBinder
    | (with_reducible assumption)
    | (with_reducible apply State.addRf_keeps)
    | split
    | (with_reducible refine keeps_fst (by with_reducible assumption) ?_)
    | (with_reducible refine keeps_snd (by with_reducible assumption) ?_)
    | (with_reducible refine Keeps.update ?_)
    | (intro _ _; (try beta_reduce))
    | (intro _; (try beta_reduce)))

theorem State.takeWstack_keeps {s0 : State} {s : State} (c : Nat) (faddr : Nat) (pc : Nat) (hs : Keeps s0 s) :
    Keeps s0 (State.takeWstack s c faddr pc) := by
  unfold State.takeWstack
  repeat' (first
    | (intro x; refine have_then (p := Keeps s0 x) ?_ ?_; (on_goal 2 => (intro hx; clear_value x)); (on_goal 1 => (subst x)))
    | (intro x; refine have_then (p := Keeps s0 x.1) ?_ ?_; (on_goal 2 => (intro hx; clear_value x)); (on_goal 1 => (subst x)))
    | (intro x; (have _y := (fun a => x a)); clear _y; subst x; (try beta_reduce))
    | (intro x; clear_value x)
    | (intro x; subst x)
    | lift_lets -underBinder
    | (with_reducible assumption)
    | (with_reducible apply State.enter_keeps)
    | (with_reducible apply State.atMachine_keeps)
    | (with_reducible apply State.excWaits_keeps)
    | (intro _ _; (try beta_reduce))
    | (intro _; (try beta_reduce)))

theorem State.wstack_keeps {s0 : State} {s : State} (c : Nat) (faddr : Nat) (pc : Nat) (hs : Keeps s0 s) :
    Keeps s0 (State.wstack s c faddr pc) := by
  unfold State.wstack
  repeat' (first
    | (with_reducible assumption)
    | (with_reducible apply State.cancelShadow_keeps)
    | (with_reducible apply State.takeWstack_keeps))

theorem State.room_keeps {s0 : State} {s : State} {w : State} (c : Nat) (pc : Nat) {go : State} (hs : Keeps s0 s) (hw : Keeps s0 w) (hgo : Keeps s0 go) :
    Keeps s0 (State.room s w c pc go) := by
  unfold State.room
  repeat' (first
    | (with_reducible assumption)
    | (with_reducible apply State.wstack_keeps)
    | (with_reducible apply State.setCal_keeps)
    | split
    | (with_reducible refine keeps_fst (by with_reducible assumption) ?_)
    | (with_reducible refine keeps_snd (by with_reducible assumption) ?_)
    | (with_reducible refine Keeps.update ?_))

theorem State.take_keeps {s0 : State} {s : State} (c : Nat) (cause : Word) (faddr : Nat) (pc : Nat) (ret : Bool) (hs : Keeps s0 s) :
    Keeps s0 (State.take s c cause faddr pc ret) := by
  unfold State.take
  repeat' (first
    | (intro x; refine have_then (p := Keeps s0 x) ?_ ?_; (on_goal 2 => (intro hx; clear_value x)); (on_goal 1 => (subst x)))
    | (intro x; refine have_then (p := Keeps s0 x.1) ?_ ?_; (on_goal 2 => (intro hx; clear_value x)); (on_goal 1 => (subst x)))
    | (intro x; (have _y := (fun a => x a)); clear _y; subst x; (try beta_reduce))
    | (intro x; clear_value x)
    | (intro x; subst x)
    | lift_lets -underBinder
    | (with_reducible assumption)
    | (with_reducible apply State.satRf_keeps)
    | (with_reducible apply State.enter_keeps)
    | (with_reducible apply State.atMachine_keeps)
    | (with_reducible apply State.excWaits_keeps)
    | (with_reducible apply State.retires_keeps)
    | (with_reducible apply State.room_keeps)
    | split
    | (with_reducible refine keeps_fst (by with_reducible assumption) ?_)
    | (with_reducible refine keeps_snd (by with_reducible assumption) ?_)
    | (with_reducible refine Keeps.update ?_)
    | (intro _ _; (try beta_reduce))
    | (intro _; (try beta_reduce)))

theorem State.except_keeps {s0 : State} {s : State} (c : Nat) (code : Nat) (kind : Nat) (faddr : Nat) (pc : Nat) (ret : Bool) (hs : Keeps s0 s) :
    Keeps s0 (State.except s c code kind faddr pc ret) := by
  unfold State.except
  repeat' (first
    | (intro x; refine have_then (p := Keeps s0 x) ?_ ?_; (on_goal 2 => (intro hx; clear_value x)); (on_goal 1 => (subst x)))
    | (intro x; refine have_then (p := Keeps s0 x.1) ?_ ?_; (on_goal 2 => (intro hx; clear_value x)); (on_goal 1 => (subst x)))
    | (intro x; (have _y := (fun a => x a)); clear _y; subst x; (try beta_reduce))
    | (intro x; clear_value x)
    | (intro x; subst x)
    | lift_lets -underBinder
    | (with_reducible assumption)
    | (with_reducible apply State.cancelShadow_keeps)
    | (with_reducible apply State.take_keeps)
    | split
    | (with_reducible refine keeps_fst (by with_reducible assumption) ?_)
    | (with_reducible refine keeps_snd (by with_reducible assumption) ?_)
    | (with_reducible refine Keeps.update ?_)
    | (intro _ _; (try beta_reduce))
    | (intro _; (try beta_reduce)))

theorem State.pollTrap_keeps {s0 : State} {s : State} (c : Nat) (hs : Keeps s0 s) :
    Keeps s0 (State.pollTrap s c) := by
  unfold State.pollTrap
  repeat' (first
    | (intro x; refine have_then (p := Keeps s0 x) ?_ ?_; (on_goal 2 => (intro hx; clear_value x)); (on_goal 1 => (subst x)))
    | (intro x; refine have_then (p := Keeps s0 x.1) ?_ ?_; (on_goal 2 => (intro hx; clear_value x)); (on_goal 1 => (subst x)))
    | (intro x; (have _y := (fun a => x a)); clear _y; subst x; (try beta_reduce))
    | (intro x; clear_value x)
    | (intro x; subst x)
    | lift_lets -underBinder
    | (with_reducible assumption)
    | (with_reducible apply State.setCal_keeps)
    | (with_reducible apply State.enter_keeps)
    | split
    | (with_reducible refine keeps_fst (by with_reducible assumption) ?_)
    | (with_reducible refine keeps_snd (by with_reducible assumption) ?_)
    | (with_reducible refine Keeps.update ?_)
    | (intro _ _; (try beta_reduce))
    | (intro _; (try beta_reduce)))

theorem State.noteTrap_keeps {s0 : State} {s : State} (c : Nat) (p : TrapSt) (hs : Keeps s0 s) :
    Keeps s0 (State.noteTrap s c p) := by
  unfold State.noteTrap
  repeat' (first
    | (intro x; refine have_then (p := Keeps s0 x) ?_ ?_; (on_goal 2 => (intro hx; clear_value x)); (on_goal 1 => (subst x)))
    | (intro x; refine have_then (p := Keeps s0 x.1) ?_ ?_; (on_goal 2 => (intro hx; clear_value x)); (on_goal 1 => (subst x)))
    | (intro x; (have _y := (fun a => x a)); clear _y; subst x; (try beta_reduce))
    | (intro x; clear_value x)
    | (intro x; subst x)
    | lift_lets -underBinder
    | (with_reducible assumption)
    | (with_reducible apply State.setCal_keeps)
    | split
    | (with_reducible refine keeps_fst (by with_reducible assumption) ?_)
    | (with_reducible refine keeps_snd (by with_reducible assumption) ?_)
    | (with_reducible refine Keeps.update ?_))

theorem State.addTrap_keeps {s0 : State} {s : State} (c : Nat) (p : TrapSt) (hs : Keeps s0 s) :
    Keeps s0 (State.addTrap s c p) := by
  unfold State.addTrap
  repeat' (first
    | (with_reducible assumption)
    | (with_reducible apply State.pollTrap_keeps)
    | (with_reducible apply State.noteTrap_keeps))

theorem State.pollEntry_keeps {s0 : State} {s : State} (c : Nat) (hs : Keeps s0 s) :
    Keeps s0 (State.pollEntry s c) := by
  unfold State.pollEntry
  repeat' (first
    | (intro x; refine have_then (p := Keeps s0 x) ?_ ?_; (on_goal 2 => (intro hx; clear_value x)); (on_goal 1 => (subst x)))
    | (intro x; refine have_then (p := Keeps s0 x.1) ?_ ?_; (on_goal 2 => (intro hx; clear_value x)); (on_goal 1 => (subst x)))
    | (intro x; (have _y := (fun a => x a)); clear _y; subst x; (try beta_reduce))
    | (intro x; clear_value x)
    | (intro x; subst x)
    | lift_lets -underBinder
    | (with_reducible assumption)
    | (with_reducible apply State.takeWstack_keeps)
    | (with_reducible apply State.take_keeps)
    | (with_reducible apply State.pollTrap_keeps)
    | split
    | (with_reducible refine keeps_fst (by with_reducible assumption) ?_)
    | (with_reducible refine keeps_snd (by with_reducible assumption) ?_)
    | (with_reducible refine Keeps.update ?_)
    | (intro _ _; (try beta_reduce))
    | (intro _; (try beta_reduce)))

end Sys2Proof.Machine
end

