-- ==== Sys2Proof/Laws/KeepsRegWrite.lean ====
section
/-!
SUPPORT. What the operations of Machine/RegWrite.lean keep.
-/
namespace Sys2Proof.Machine

theorem State.eoi_keeps {s0 : State} {s : State} (au : Auth) (src : Nat) (hs : Keeps s0 s) :
    Keeps s0 (State.eoi s au src) := by
  unfold State.eoi
  repeat' (first
    | (intro x; refine have_then (p := Keeps s0 x) ?_ ?_; (on_goal 2 => (intro hx; clear_value x)); (on_goal 1 => (subst x)))
    | (intro x; clear_value x)
    | (intro x; subst x)
    | lift_lets -underBinder
    | (with_reducible assumption)
    | (with_reducible apply State.setRf_keeps)
    | (with_reducible apply State.flt_keeps)
    | split
    | (with_reducible refine keeps_fst (by with_reducible assumption) ?_)
    | (with_reducible refine keeps_snd (by with_reducible assumption) ?_))

theorem State.inject_keeps {s0 : State} {s : State} (b : Blk) (inst : Nat) (kind : Nat) (hs : Keeps s0 s) :
    Keeps s0 (State.inject s b inst kind) := by
  unfold State.inject
  repeat' (first
    | (with_reducible assumption)
    | (with_reducible apply State.raise_keeps)
    | (with_reducible apply State.locked_keeps)
    | split
    | (with_reducible refine keeps_fst (by with_reducible assumption) ?_)
    | (with_reducible refine keeps_snd (by with_reducible assumption) ?_))

theorem State.worldChanged_keeps {s0 : State} {s : State} (c : Nat) (hs : Keeps s0 s) :
    Keeps s0 (State.worldChanged s c) := by
  unfold State.worldChanged
  repeat' (first
    | (intro x; refine have_then (p := Keeps s0 x) ?_ ?_; (on_goal 2 => (intro hx; clear_value x)); (on_goal 1 => (subst x)))
    | (intro x; refine have_then (p := Keeps s0 x.1) ?_ ?_; (on_goal 2 => (intro hx; clear_value x)); (on_goal 1 => (subst x)))
    | (intro x; (have _y := (fun a => x a)); clear _y; subst x; (try beta_reduce))
    | (intro x; clear_value x)
    | (intro x; subst x)
    | lift_lets -underBinder
    | (with_reducible assumption)
    | (with_reducible apply State.setCal_keeps)
    | (with_reducible apply State.setStatus_keeps)
    | (with_reducible refine Keeps.update ?_))

theorem State.restart_keeps {s0 : State} {s : State} (c : Nat) (addr : Nat) (hs : Keeps s0 s) :
    Keeps s0 (State.restart s c addr) := by
  unfold State.restart
  repeat' (first
    | (intro x; refine have_then (p := Keeps s0 x) ?_ ?_; (on_goal 2 => (intro hx; clear_value x)); (on_goal 1 => (subst x)))
    | (intro x; refine have_then (p := Keeps s0 x.1) ?_ ?_; (on_goal 2 => (intro hx; clear_value x)); (on_goal 1 => (subst x)))
    | (intro x; (have _y := (fun a => x a)); clear _y; subst x; (try beta_reduce))
    | (intro x; clear_value x)
    | (intro x; subst x)
    | lift_lets -underBinder
    | (with_reducible assumption)
    | (with_reducible apply State.setRf_keeps)
    | (with_reducible apply State.setCal_keeps)
    | (with_reducible apply State.calReport_keeps)
    | (with_reducible apply State.setStatus_keeps)
    | (with_reducible apply State.pollTrap_keeps)
    | split
    | (with_reducible refine keeps_fst (by with_reducible assumption) ?_)
    | (with_reducible refine keeps_snd (by with_reducible assumption) ?_)
    | (with_reducible refine Keeps.update ?_)
    | (intro _ _; (try beta_reduce))
    | (intro _; (try beta_reduce)))

theorem State.auditReg_keeps {s0 : State} {s : State} (au : Auth) (w : Word) (hs : Keeps s0 s) :
    Keeps s0 (State.auditReg s au w) := by
  unfold State.auditReg
  repeat' (first
    | (intro x; refine have_then (p := Keeps s0 x) ?_ ?_; (on_goal 2 => (intro hx; clear_value x)); (on_goal 1 => (subst x)))
    | (intro x; clear_value x)
    | (intro x; subst x)
    | lift_lets -underBinder
    | (with_reducible assumption)
    | (with_reducible apply State.locked_keeps)
    | (with_reducible apply State.logClamp_keeps)
    | (with_reducible apply State.auditStart_keeps)
    | split
    | (with_reducible refine keeps_fst (by with_reducible assumption) ?_)
    | (with_reducible refine keeps_snd (by with_reducible assumption) ?_))

theorem State.bootReg_keeps {s0 : State} {s : State} (au : Auth) (w : Word) (hs : Keeps s0 s) :
    Keeps s0 (State.bootReg s au w) := by
  unfold State.bootReg
  repeat' (first
    | (intro x; refine have_then (p := Keeps s0 x) ?_ ?_; (on_goal 2 => (intro hx; clear_value x)); (on_goal 1 => (subst x)))
    | (intro x; clear_value x)
    | (intro x; subst x)
    | lift_lets -underBinder
    | (with_reducible assumption)
    | (with_reducible apply State.logClamp_keeps)
    | (with_reducible apply State.bootStore_keeps)
    | split
    | (with_reducible refine keeps_fst (by with_reducible assumption) ?_)
    | (with_reducible refine keeps_snd (by with_reducible assumption) ?_))

theorem State.resrecWrite_keeps {s0 : State} {s : State} (w : Word) (m : Word) (hs : Keeps s0 s) :
    Keeps s0 (State.resrecWrite s w m) := by
  unfold State.resrecWrite
  repeat' (first
    | (intro x; refine have_then (p := Keeps s0 x) ?_ ?_; (on_goal 2 => (intro hx; clear_value x)); (on_goal 1 => (subst x)))
    | (intro x; refine have_then (p := Keeps s0 x.1) ?_ ?_; (on_goal 2 => (intro hx; clear_value x)); (on_goal 1 => (subst x)))
    | (intro x; (have _y := (fun a => x a)); clear _y; subst x; (try beta_reduce))
    | (intro x; clear_value x)
    | (intro x; subst x)
    | lift_lets -underBinder
    | (with_reducible assumption)
    | (with_reducible apply State.locked_keeps)
    | (with_reducible apply State.setRecOf_keeps)
    | (with_reducible apply State.skipWorn_keeps)
    | split
    | (with_reducible refine keeps_fst (by with_reducible assumption) ?_)
    | (with_reducible refine keeps_snd (by with_reducible assumption) ?_)
    | (with_reducible refine Keeps.update ?_)
    | (intro _ _; (try beta_reduce))
    | (intro _; (try beta_reduce)))

theorem State.cntClear_keeps {s0 : State} {s : State} (b : Nat) (j : Nat) (f : FP) (w : Word) (m : Word) (hs : Keeps s0 s) :
    Keeps s0 (State.cntClear s b j f w m) := by
  unfold State.cntClear
  repeat' (first
    | (with_reducible assumption)
    | (with_reducible apply State.setCnt_keeps)
    | split
    | (with_reducible refine keeps_fst (by with_reducible assumption) ?_)
    | (with_reducible refine keeps_snd (by with_reducible assumption) ?_))

theorem State.portClear_keeps {s0 : State} {s : State} (p : Nat) (w : Word) (m : Word) (hs : Keeps s0 s) :
    Keeps s0 (State.portClear s p w m) := by
  unfold State.portClear
  repeat' (first
    | (with_reducible assumption)
    | (with_reducible apply State.setLnk_keeps)
    | split
    | (with_reducible refine keeps_fst (by with_reducible assumption) ?_)
    | (with_reducible refine keeps_snd (by with_reducible assumption) ?_)
    | (with_reducible refine Keeps.update ?_))

theorem State.domctlPost_keeps {s0 : State} {s : State} (old : Word) (hs : Keeps s0 s) :
    Keeps s0 (State.domctlPost s old) := by
  unfold State.domctlPost
  repeat' (first
    | (intro x; refine have_then (p := Keeps s0 x) ?_ ?_; (on_goal 2 => (intro hx; clear_value x)); (on_goal 1 => (subst x)))
    | (intro x; (have _y := (fun a => x a)); clear _y; subst x; (try beta_reduce))
    | (intro x; clear_value x)
    | (intro x; subst x)
    | lift_lets -underBinder
    | (with_reducible assumption)
    | (with_reducible apply State.locked_keeps)
    | (with_reducible apply State.applyDomains_keeps)
    | split
    | (with_reducible refine keeps_fst (by with_reducible assumption) ?_)
    | (with_reducible refine keeps_snd (by with_reducible assumption) ?_))

theorem State.alarmctlPost_keeps {s0 : State} {s : State} (hs : Keeps s0 s) :
    Keeps s0 (State.alarmctlPost s) := by
  unfold State.alarmctlPost
  repeat' (first
    | (with_reducible assumption)
    | (with_reducible apply State.setRf_keeps)
    | split
    | (with_reducible refine keeps_fst (by with_reducible assumption) ?_)
    | (with_reducible refine keeps_snd (by with_reducible assumption) ?_))

theorem State.writeAlone_keeps {s0 : State} {s : State} (au : Auth) (a : RegAt) (w : Word) (m : Word) (staged : Bool)
    {t : State} (e : State.writeAlone s au a w m staged = some t) (hs : Keeps s0 s) :
    Keeps s0 t := by
  unfold State.writeAlone at e
  try dsimp only at e
  repeat' split at e
  all_goals (try (cases e; done))
  all_goals
    cases e
    repeat' (first
      | (intro x; refine have_then (p := Keeps s0 x) ?_ ?_; (on_goal 2 => (intro hx; clear_value x)); (on_goal 1 => (subst x)))
      | (intro x; refine have_then (p := Keeps s0 x.1) ?_ ?_; (on_goal 2 => (intro hx; clear_value x)); (on_goal 1 => (subst x)))
      | (intro x; (have _y := (fun a => x a)); clear _y; subst x; (try beta_reduce))
      | (intro x; clear_value x)
      | (intro x; subst x)
      | lift_lets -underBinder
      | (with_reducible assumption)
      | (with_reducible apply State.flt_keeps)
      | (with_reducible apply State.locked_keeps)
      | (with_reducible apply State.storeReg_keeps)
      | (with_reducible apply State.retentSet_keeps)
      | (with_reducible apply State.busyFeed_keeps)
      | (with_reducible apply State.badCmd_keeps)
      | (with_reducible apply State.arcRelease_keeps)
      | (with_reducible apply State.repModeWrite_keeps)
      | (with_reducible apply State.resrecWrite_keeps)
      | (with_reducible apply State.cntClear_keeps)
      | (with_reducible apply State.portClear_keeps)
      | split
      | (with_reducible refine keeps_fst (by with_reducible assumption) ?_)
      | (with_reducible refine keeps_snd (by with_reducible assumption) ?_)
      | (with_reducible refine Keeps.update ?_)
      | (intro _ _; (try beta_reduce))
      | (intro _; (try beta_reduce)))

theorem State.wrote_keeps {s0 : State} {s : State} (au : Auth) (a : RegAt) (old : Word) (w : Word) (m : Word) (hs : Keeps s0 s) :
    Keeps s0 (State.wrote s au a old w m) := by
  unfold State.wrote
  repeat' (first
    | (intro x; refine have_then (p := Keeps s0 x) ?_ ?_; (on_goal 2 => (intro hx; clear_value x)); (on_goal 1 => (subst x)))
    | (intro x; refine have_then (p := Keeps s0 x.1) ?_ ?_; (on_goal 2 => (intro hx; clear_value x)); (on_goal 1 => (subst x)))
    | (intro x; (have _y := (fun a => x a)); clear _y; subst x; (try beta_reduce))
    | (intro x; clear_value x)
    | (intro x; subst x)
    | lift_lets -underBinder
    | (with_reducible assumption)
    | (with_reducible apply State.setReg_keeps)
    | (with_reducible apply State.setReg_keeps)
    | (with_reducible apply State.setRf_keeps)
    | (with_reducible apply State.flt_keeps)
    | (with_reducible apply State.arrive_keeps)
    | (with_reducible apply State.setCal_keeps)
    | (with_reducible apply State.bankSwap_keeps)
    | (with_reducible apply State.cueFeed_keeps)
    | (with_reducible apply State.pincfgPost_keeps)
    | (with_reducible apply State.outcfgPost_keeps)
    | (with_reducible apply State.cueFireReg_keeps)
    | (with_reducible apply State.grpWrite_keeps)
    | (with_reducible apply State.seaRegFeed_keeps)
    | (with_reducible apply State.seaCloseReg_keeps)
    | (with_reducible apply State.scanStart_keeps)
    | (with_reducible apply State.seaCtlPost_keeps)
    | (with_reducible apply State.suspendCmd_keeps)
    | (with_reducible apply State.resumeCmd_keeps)
    | (with_reducible apply State.swapCmd_keeps)
    | (with_reducible apply State.rlyFlush_keeps)
    | (with_reducible apply State.rlyctlPost_keeps)
    | (with_reducible apply State.frcfgPost_keeps)
    | (with_reducible apply State.frcloseReg_keeps)
    | (with_reducible apply State.keydata_keeps)
    | (with_reducible apply State.rxsctlPost_keeps)
    | (with_reducible apply State.txsctlPost_keeps)
    | (with_reducible apply State.txctlPost_keeps)
    | (with_reducible apply State.txtailPost_keeps)
    | (with_reducible apply State.sqctlPost_keeps)
    | (with_reducible apply State.cqctlPost_keeps)
    | (with_reducible apply State.pollCurtain_keeps)
    | (with_reducible apply State.modectl_keeps)
    | (with_reducible apply State.restraint_keeps)
    | (with_reducible apply State.calStart_keeps)
    | (with_reducible apply State.bootLoad_keeps)
    | (with_reducible apply State.eoi_keeps)
    | (with_reducible apply State.inject_keeps)
    | (with_reducible apply State.worldChanged_keeps)
    | (with_reducible apply State.restart_keeps)
    | (with_reducible apply State.auditReg_keeps)
    | (with_reducible apply State.bootReg_keeps)
    | (with_reducible apply State.domctlPost_keeps)
    | (with_reducible apply State.alarmctlPost_keeps)
    | split
    | (with_reducible refine keeps_fst (by with_reducible assumption) ?_)
    | (with_reducible refine keeps_snd (by with_reducible assumption) ?_)
    | (with_reducible refine Keeps.update ?_)
    | (intro _ _; (try beta_reduce))
    | (intro _; (try beta_reduce)))

theorem State.writeReg_keeps {s0 : State} {s : State} (au : Auth) (a : RegAt) (w : Word) (m : Word) (staged : Bool) (hs : Keeps s0 s) :
    Keeps s0 (State.writeReg s au a w m staged) := by
  unfold State.writeReg
  repeat' (first
    | (intro x; refine have_then (p := Keeps s0 x) ?_ ?_; (on_goal 2 => (intro hx; clear_value x)); (on_goal 1 => (subst x)))
    | (intro x; refine have_then (p := Keeps s0 x.1) ?_ ?_; (on_goal 2 => (intro hx; clear_value x)); (on_goal 1 => (subst x)))
    | (intro x; (have _y := (fun a => x a)); clear _y; subst x; (try beta_reduce))
    | (intro x; clear_value x)
    | (intro x; subst x)
    | lift_lets -underBinder
    | (with_reducible assumption)
    | (with_reducible refine State.writeAlone_keeps _ _ _ _ _ (by with_reducible assumption) ?_)
    | (with_reducible apply State.locked_keeps)
    | (with_reducible apply State.storeReg_keeps)
    | (with_reducible apply State.wrote_keeps)
    | split
    | (with_reducible refine keeps_fst (by with_reducible assumption) ?_)
    | (with_reducible refine keeps_snd (by with_reducible assumption) ?_)
    | (with_reducible refine Keeps.update ?_)
    | (intro _ _; (try beta_reduce))
    | (intro _; (try beta_reduce)))

theorem State.putReg_keeps {s0 : State} {s : State} (au : Auth) (a : RegAt) (off : Nat) (size : Nat) (v : Word) (staged : Bool) (hs : Keeps s0 s) :
    Keeps s0 (State.putReg s au a off size v staged) := by
  unfold State.putReg
  repeat' (first
    | (with_reducible assumption)
    | (with_reducible apply State.levelFault_keeps)
    | (with_reducible apply State.writeReg_keeps)
    | split
    | (with_reducible refine keeps_fst (by with_reducible assumption) ?_)
    | (with_reducible refine keeps_snd (by with_reducible assumption) ?_))

theorem State.stagingWrite_keeps {s0 : State} {s : State} (au : Auth) (off : Nat) (size : Nat) (v : Word) (hs : Keeps s0 s) :
    Keeps s0 (State.stagingWrite s au off size v) := by
  unfold State.stagingWrite
  repeat' (first
    | (with_reducible assumption)
    | (with_reducible apply State.locked_keeps)
    | (with_reducible apply State.stage_keeps)
    | split
    | (with_reducible refine keeps_fst (by with_reducible assumption) ?_)
    | (with_reducible refine keeps_snd (by with_reducible assumption) ?_))

end Sys2Proof.Machine
end

