-- ==== Sys2Proof/Laws/KeepsCommit.lean ====
section
/-!
SUPPORT. What the operations of Machine/Commit.lean keep.
-/
namespace Sys2Proof.Machine

theorem State.applyEntries_keeps {s0 : State} {s : State} (src : Nat) (count : Nat) (hs : Keeps s0 s) :
    Keeps s0 (State.applyEntries s src count) := by
  unfold State.applyEntries
  repeat' (first
    | (with_reducible assumption)
    | (with_reducible apply State.putReg_keeps)
    | (with_reducible refine keeps_foldl ?_ (fun _ _ _ => ?_))
    | split
    | (with_reducible refine keeps_fst (by with_reducible assumption) ?_)
    | (with_reducible refine keeps_snd (by with_reducible assumption) ?_))

theorem State.commitWord_keeps {s0 : State} {s : State} (src : Nat) (w : Word) (hs : Keeps s0 s) :
    Keeps s0 (State.commitWord s src w) := by
  unfold State.commitWord
  repeat' (first
    | (intro x; refine have_then (p := Keeps s0 x) ?_ ?_; (on_goal 2 => (intro hx; clear_value x)); (on_goal 1 => (subst x)))
    | (intro x; clear_value x)
    | (intro x; subst x)
    | lift_lets -underBinder
    | (with_reducible assumption)
    | (with_reducible apply State.refitEnd_keeps)
    | (with_reducible apply State.setRf_keeps)
    | (with_reducible apply State.flt_keeps)
    | (with_reducible apply State.applyEntries_keeps)
    | (with_reducible apply State.locked_keeps)
    | split
    | (with_reducible refine keeps_fst (by with_reducible assumption) ?_)
    | (with_reducible refine keeps_snd (by with_reducible assumption) ?_)
    | (with_reducible refine Keeps.update ?_))

theorem State.previewDone_keeps {s0 : State} {s : State} (hs : Keeps s0 s) :
    Keeps s0 (State.previewDone s) := by
  unfold State.previewDone
  repeat' (first
    | (intro x; refine have_then (p := Keeps s0 x) ?_ ?_; (on_goal 2 => (intro hx; clear_value x)); (on_goal 1 => (subst x)))
    | (intro x; clear_value x)
    | (intro x; subst x)
    | lift_lets -underBinder
    | (with_reducible assumption)
    | (with_reducible apply State.applyEntries_keeps)
    | (with_reducible apply State.setReg_keeps)
    | (with_reducible apply State.setRf_keeps)
    | split
    | (with_reducible refine keeps_fst (by with_reducible assumption) ?_)
    | (with_reducible refine keeps_snd (by with_reducible assumption) ?_)
    | (with_reducible refine Keeps.update ?_))

theorem State.digestStart_keeps {s0 : State} {s : State} (hs : Keeps s0 s) :
    Keeps s0 (State.digestStart s) := by
  unfold State.digestStart
  repeat' (first
    | (intro x; refine have_then (p := Keeps s0 x) ?_ ?_; (on_goal 2 => (intro hx; clear_value x)); (on_goal 1 => (subst x)))
    | (intro x; clear_value x)
    | (intro x; subst x)
    | lift_lets -underBinder
    | (with_reducible assumption)
    | (with_reducible apply State.seaHold_keeps)
    | (with_reducible apply State.setRf_keeps)
    | split
    | (with_reducible refine keeps_fst (by with_reducible assumption) ?_)
    | (with_reducible refine keeps_snd (by with_reducible assumption) ?_)
    | (with_reducible refine Keeps.update ?_))

theorem State.digestMove_keeps {s0 : State} {s : State} (hs : Keeps s0 s) :
    Keeps s0 (State.digestMove s) := by
  unfold State.digestMove
  repeat' (first
    | (intro x; refine have_then (p := Keeps s0 x) ?_ ?_; (on_goal 2 => (intro hx; clear_value x)); (on_goal 1 => (subst x)))
    | (intro x; refine have_then (p := Keeps s0 x.1) ?_ ?_; (on_goal 2 => (intro hx; clear_value x)); (on_goal 1 => (subst x)))
    | (intro x; (have _y := (fun a => x a)); clear _y; subst x; (try beta_reduce))
    | (intro x; clear_value x)
    | (intro x; subst x)
    | lift_lets -underBinder
    | (with_reducible assumption)
    | (with_reducible apply State.setRf_keeps)
    | (with_reducible apply State.seaHold_keeps)
    | split
    | (with_reducible refine keeps_fst (by with_reducible assumption) ?_)
    | (with_reducible refine keeps_snd (by with_reducible assumption) ?_)
    | (with_reducible refine Keeps.update ?_)
    | (intro _ _; (try beta_reduce))
    | (intro _; (try beta_reduce)))

theorem State.digestTimer_keeps {s0 : State} {s : State} (hs : Keeps s0 s) :
    Keeps s0 (State.digestTimer s) := by
  unfold State.digestTimer
  repeat' (first
    | (with_reducible assumption)
    | (with_reducible apply State.digestStart_keeps)
    | split
    | (with_reducible refine keeps_fst (by with_reducible assumption) ?_)
    | (with_reducible refine keeps_snd (by with_reducible assumption) ?_))

theorem State.digestChange_keeps {s0 : State} {s : State} (hs : Keeps s0 s) :
    Keeps s0 (State.digestChange s) := by
  unfold State.digestChange
  repeat' (first
    | (with_reducible assumption)
    | (with_reducible apply State.digestStart_keeps)
    | split
    | (with_reducible refine keeps_fst (by with_reducible assumption) ?_)
    | (with_reducible refine keeps_snd (by with_reducible assumption) ?_))

theorem State.digestPublish_keeps {s0 : State} {s : State} (hs : Keeps s0 s) :
    Keeps s0 (State.digestPublish s) := by
  unfold State.digestPublish
  repeat' (first
    | (intro x; refine have_then (p := Keeps s0 x) ?_ ?_; (on_goal 2 => (intro hx; clear_value x)); (on_goal 1 => (subst x)))
    | (intro x; clear_value x)
    | (intro x; subst x)
    | lift_lets -underBinder
    | (with_reducible assumption)
    | (with_reducible apply State.setReg_keeps)
    | (with_reducible apply State.addRf_keeps)
    | (with_reducible apply State.setRf_keeps)
    | (with_reducible apply State.seaCloseVal_keeps)
    | (with_reducible apply State.seaIdle_keeps)
    | (with_reducible apply State.raise_keeps)
    | (with_reducible apply State.curtEvent_keeps)
    | (with_reducible apply State.digestStart_keeps)
    | split
    | (with_reducible refine keeps_fst (by with_reducible assumption) ?_)
    | (with_reducible refine keeps_snd (by with_reducible assumption) ?_)
    | (with_reducible refine Keeps.update ?_))

theorem State.regWrite_keeps {s0 : State} {s : State} (au : Auth) (off size : Nat) (v : Word) {t : State}
    (e : s.regWrite au off size v = some t) (hs : Keeps s0 s) : Keeps s0 t := by
  unfold State.regWrite at e
  split at e
  · cases e
  · rename_i he
    cases e
    exact State.admit_keeps _ _ _ _ he hs
  · cases e; exact State.stagingWrite_keeps _ _ _ _ hs
  · split at e <;> cases e
    · exact State.commitWord_keeps _ _ hs
    · exact State.putReg_keeps _ _ _ _ _ _ hs

theorem State.regStore_keeps {s0 : State} {s : State} (au : Auth) (off size : Nat) (v : Word) {t : State}
    {x : Option MErr} (e : s.regStore au off size v = some (t, x)) (hs : Keeps s0 s) : Keeps s0 t := by
  unfold State.regStore at e
  split at e
  · cases e
  · rename_i he
    cases e
    exact State.regWrite_keeps _ _ _ _ he hs

theorem State.write_keeps {s0 : State} {s : State} (m : Master) (off : Nat) (v : Word) (size : Nat) (hs : Keeps s0 s) :
    Keeps s0 (s.write m off v size) :=
  keeps_getD hs fun _ e => State.regWrite_keeps _ _ _ _ e hs

theorem State.rewrite_keeps {s0 : State} {s : State} (m : Master) (off : Nat) (f : Word → Word) (hs : Keeps s0 s) :
    Keeps s0 (State.rewrite s m off f) := by
  unfold State.rewrite
  repeat' (first
    | (with_reducible assumption)
    | (with_reducible apply State.write_keeps))

end Sys2Proof.Machine
end

