-- ==== Sys2Proof/Laws/KeepsHostCopy.lean ====
section
/-!
SUPPORT. What the operations of Machine/HostCopy.lean keep.
-/
namespace Sys2Proof.Machine

theorem State.copyNext_keeps {s0 : State} {s : State} (f : Nat) (n : Nat) (d : DescSt) (m : Nat) (hs : Keeps s0 s) :
    Keeps s0 (State.copyNext s f n d m) := by
  unfold State.copyNext
  repeat' (first
    | (with_reducible assumption)
    | (with_reducible apply State.descEnd_keeps)
    | (with_reducible apply State.moved_keeps)
    | (with_reducible apply State.setDesc_keeps)
    | split
    | (with_reducible refine keeps_fst (by with_reducible assumption) ?_)
    | (with_reducible refine keeps_snd (by with_reducible assumption) ?_)
    | (with_reducible refine Keeps.update ?_))

theorem State.copyIn_keeps {s0 : State} {s : State} (f : Nat) (n : Nat) (i : Nat) (k : Nat) (hs : Keeps s0 s) :
    Keeps s0 (State.copyIn s f n i k) := by
  unfold State.copyIn
  repeat' (first
    | (intro x; refine have_then (p := Keeps s0 x) ?_ ?_; (on_goal 2 => (intro hx; clear_value x)); (on_goal 1 => (subst x)))
    | (intro x; refine have_then (p := Keeps s0 x.1) ?_ ?_; (on_goal 2 => (intro hx; clear_value x)); (on_goal 1 => (subst x)))
    | (intro x; (have _y := (fun a => x a)); clear _y; subst x; (try beta_reduce))
    | (intro x; clear_value x)
    | (intro x; subst x)
    | lift_lets -underBinder
    | (with_reducible assumption)
    | (with_reducible apply State.storeIn_keeps)
    | (with_reducible apply State.setDesc_keeps)
    | (with_reducible apply State.descEnd_keeps)
    | (with_reducible apply State.descAccess_keeps)
    | (with_reducible refine State.regStore_keeps _ _ _ _ (by with_reducible assumption) ?_)
    | (with_reducible apply State.copyNext_keeps)
    | split
    | (with_reducible refine keeps_fst (by with_reducible assumption) ?_)
    | (with_reducible refine keeps_snd (by with_reducible assumption) ?_)
    | (with_reducible refine Keeps.update ?_)
    | (intro _ _; (try beta_reduce))
    | (intro _; (try beta_reduce)))

theorem State.copyOut_keeps {s0 : State} {s : State} (f : Nat) (n : Nat) (i : Nat) (k : Nat) (hs : Keeps s0 s) :
    Keeps s0 (State.copyOut s f n i k) := by
  unfold State.copyOut
  repeat' (first
    | (intro x; refine have_then (p := Keeps s0 x) ?_ ?_; (on_goal 2 => (intro hx; clear_value x)); (on_goal 1 => (subst x)))
    | (intro x; refine have_then (p := Keeps s0 x.1) ?_ ?_; (on_goal 2 => (intro hx; clear_value x)); (on_goal 1 => (subst x)))
    | (intro x; (have _y := (fun a => x a)); clear _y; subst x; (try beta_reduce))
    | (intro x; clear_value x)
    | (intro x; subst x)
    | lift_lets -underBinder
    | (with_reducible assumption)
    | (with_reducible apply State.setDesc_keeps)
    | (with_reducible apply State.descEnd_keeps)
    | (with_reducible apply State.hostWrite_keeps)
    | (with_reducible apply State.descAccess_keeps)
    | (with_reducible refine State.regLoad_keeps _ _ _ (by with_reducible assumption) ?_)
    | (with_reducible apply State.copyNext_keeps)
    | split
    | (with_reducible refine keeps_fst (by with_reducible assumption) ?_)
    | (with_reducible refine keeps_snd (by with_reducible assumption) ?_)
    | (with_reducible refine Keeps.update ?_)
    | (intro _ _; (try beta_reduce))
    | (intro _; (try beta_reduce)))

theorem State.engTimeout_keeps {s0 : State} {s : State} (q : Nat) (hs : Keeps s0 s) :
    Keeps s0 (State.engTimeout s q) := by
  unfold State.engTimeout
  repeat' (first
    | (intro x; refine have_then (p := Keeps s0 x) ?_ ?_; (on_goal 2 => (intro hx; clear_value x)); (on_goal 1 => (subst x)))
    | (intro x; refine have_then (p := Keeps s0 x.s) ?_ ?_; (on_goal 2 => (intro hx; clear_value x)); (on_goal 1 => (subst x)))
    | (intro x; refine have_then (p := Keeps s0 x.1) ?_ ?_; (on_goal 2 => (intro hx; clear_value x)); (on_goal 1 => (subst x)))
    | (intro x; (have _y := (fun a => x a)); clear _y; subst x; (try beta_reduce))
    | (intro x; clear_value x)
    | (intro x; subst x)
    | lift_lets -underBinder
    | (with_reducible assumption)
    | (with_reducible apply State.next_keeps)
    | (with_reducible apply State.setRf_keeps)
    | (with_reducible apply State.flt_keeps)
    | (with_reducible apply State.unitStop_keeps)
    | split
    | (with_reducible refine keeps_fst (by with_reducible assumption) ?_)
    | (with_reducible refine keeps_snd (by with_reducible assumption) ?_)
    | (with_reducible refine Keeps.update ?_)
    | (intro _ _; (try beta_reduce))
    | (intro _; (try beta_reduce)))

end Sys2Proof.Machine
end

