-- ==== Sys2Proof/Laws/KeepsCallers.lean ====
section
/-!
SUPPORT. What the operations of Machine/Callers.lean keep.
-/
namespace Sys2Proof.Machine

theorem State.fill_keeps {s0 : State} {s : State} (ls : List (Nat × List Byte)) (a : Nat) (hs : Keeps s0 s) :
    Keeps s0 (s.fill ls a).2 := by
  unfold State.fill
  dsimp only
  split
  · exact hs
  · split
    · exact hs
    · split
      · exact hs
      · exact State.takeFree_keeps hs

theorem State.cachePar_keeps {s0 : State} {s : State} (c : Nat) (hs : Keeps s0 s) : Keeps s0 (State.cachePar s c) := by
  unfold State.cachePar
  repeat' (first
    | (intro x; refine have_then (p := Keeps s0 x) ?_ ?_; (on_goal 2 => (intro hx; clear_value x)); (on_goal 1 => (subst x)))
    | (intro x; refine have_then (p := Keeps s0 x.1) ?_ ?_; (on_goal 2 => (intro hx; clear_value x)); (on_goal 1 => (subst x)))
    | (intro x; (have _y := (fun a => x a)); clear _y; subst x; (try beta_reduce))
    | (intro x; clear_value x)
    | (intro x; subst x)
    | lift_lets -underBinder
    | (with_reducible assumption)
    | (with_reducible apply State.takeFree_keeps)
    | (with_reducible apply State.flt_keeps)
    | (with_reducible apply State.setPhys_keeps)
    | (with_reducible apply State.wear_keeps)
    | split
    | (with_reducible refine keeps_fst (by with_reducible assumption) ?_)
    | (with_reducible refine keeps_snd (by with_reducible assumption) ?_)
    | (with_reducible refine Keeps.update ?_))

theorem State.fetchNote_keeps {s0 : State} {s : State} (c pc : Nat) (e : MErr) (hs : Keeps s0 s) :
    Keeps s0 (s.fetchNote c pc e) := by
  unfold State.fetchNote
  repeat' (first
    | (with_reducible assumption)
    | (with_reducible apply State.memUe_keeps)
    | (with_reducible apply State.refuse_keeps)
    | split)

theorem State.moved_keeps {s0 : State} {s : State} (c : Nat) (pc : Nat) (ret : Bool) (hs : Keeps s0 s) :
    Keeps s0 (State.moved s c pc ret) := by
  unfold State.moved
  repeat' (first
    | (intro x; refine have_then (p := Keeps s0 x) ?_ ?_; (on_goal 2 => (intro hx; clear_value x)); (on_goal 1 => (subst x)))
    | (intro x; (have _y := (fun a => x a)); clear _y; subst x; (try beta_reduce))
    | (intro x; clear_value x)
    | (intro x; subst x)
    | lift_lets -underBinder
    | (with_reducible assumption)
    | (with_reducible apply State.setCal_keeps)
    | (with_reducible apply State.addRf_keeps)
    | split
    | (with_reducible refine keeps_fst (by with_reducible assumption) ?_)
    | (with_reducible refine keeps_snd (by with_reducible assumption) ?_)
    | (with_reducible refine Keeps.update ?_))

theorem State.goto_keeps {s0 : State} {s : State} (c : Nat) (pc : Nat) (ret : Bool) (hs : Keeps s0 s) :
    Keeps s0 (State.goto s c pc ret) := by
  unfold State.goto
  repeat' (first
    | (with_reducible assumption)
    | (with_reducible apply State.moved_keeps)
    | (with_reducible apply State.pollTrap_keeps))

theorem State.next_keeps {s0 : State} {s : State} (c : Nat) (hs : Keeps s0 s) :
    Keeps s0 (State.next s c) := by
  unfold State.next
  repeat' (first
    | (with_reducible assumption)
    | (with_reducible apply State.goto_keeps))

theorem State.didRetire_keeps {s0 : State} {s : State} (c : Nat) (hs : Keeps s0 s) : Keeps s0 (State.didRetire s c) := by
  unfold State.didRetire
  repeat' (first
    | (intro x; refine have_then (p := Keeps s0 x) ?_ ?_; (on_goal 2 => (intro hx; clear_value x)); (on_goal 1 => (subst x)))
    | (intro x; refine have_then (p := Keeps s0 x.1) ?_ ?_; (on_goal 2 => (intro hx; clear_value x)); (on_goal 1 => (subst x)))
    | (intro x; (have _y := (fun a => x a)); clear _y; subst x; (try beta_reduce))
    | (intro x; clear_value x)
    | (intro x; subst x)
    | lift_lets -underBinder
    | (with_reducible assumption)
    | (with_reducible apply State.addRf_keeps)
    | (with_reducible apply State.setCal_keeps)
    | split
    | (with_reducible refine keeps_fst (by with_reducible assumption) ?_)
    | (with_reducible refine keeps_snd (by with_reducible assumption) ?_)
    | (with_reducible refine Keeps.update ?_))

theorem State.instr_keeps {s0 : State} {s : State} (c : Nat) (word : Nat) (ill : Bool) (regs : List (BitVec 5))
    (vregs : List Nat) (act : State → State) (syncs : Bool) (hs : Keeps s0 s) (hact : ∀ x, Keeps s0 x → Keeps s0 (act x)) :
    Keeps s0 (State.instr s c word ill regs vregs act syncs) := by
  unfold State.instr
  dsimp only
  split
  · exact hs
  · split
    · exact hs
    · exact State.setCal_keeps _ _ hs
    · exact State.cachePar_keeps _ (State.setCal_keeps _ _ hs)
    · exact State.except_keeps _ _ _ _ _ _ (State.fetchNote_keeps _ _ _ hs)
    · repeat' split
      all_goals first | exact hs | exact hact _ hs | exact State.except_keeps _ _ _ _ _ _ hs

end Sys2Proof.Machine
end

