-- ==== Sys2Proof/Laws/KeepsCalMem.lean ====
section
/-!
SUPPORT. What the operations of Machine/CalMem.lean keep.
-/
namespace Sys2Proof.Machine

theorem State.lineStore_keeps {s0 : State} {s : State} (c : Nat) (a : Nat) (bs : List Byte) (hs : Keeps s0 s) :
    Keeps s0 (State.lineStore s c a bs) := by
  unfold State.lineStore
  repeat' (first
    | (intro x; refine have_then (p := Keeps s0 x) ?_ ?_; (on_goal 2 => (intro hx; clear_value x)); (on_goal 1 => (subst x)))
    | (intro x; (have _y := (fun a => x a)); clear _y; subst x; (try beta_reduce))
    | (intro x; clear_value x)
    | (intro x; subst x)
    | lift_lets -underBinder
    | (with_reducible assumption)
    | (with_reducible apply State.setCal_keeps)
    | split
    | (with_reducible refine keeps_fst (by with_reducible assumption) ?_)
    | (with_reducible refine keeps_snd (by with_reducible assumption) ?_)
    | (with_reducible refine Keeps.update ?_))

theorem State.fillLine_keeps {s0 : State} {s : State} (c : Nat) (a : Nat) (hs : Keeps s0 s) :
    Keeps s0 (State.fillLine s c a) := by
  unfold State.fillLine
  repeat' (first
    | (intro x; refine have_then (p := Keeps s0 x) ?_ ?_; (on_goal 2 => (intro hx; clear_value x)); (on_goal 1 => (subst x)))
    | (intro x; refine have_then (p := Keeps s0 x.1) ?_ ?_; (on_goal 2 => (intro hx; clear_value x)); (on_goal 1 => (subst x)))
    | (intro x; (have _y := (fun a => x a)); clear _y; subst x; (try beta_reduce))
    | (intro x; clear_value x)
    | (intro x; subst x)
    | lift_lets -underBinder
    | (with_reducible assumption)
    | (with_reducible apply State.setCal_keeps)
    | (with_reducible apply State.fill_keeps)
    | split
    | (with_reducible refine keeps_fst (by with_reducible assumption) ?_)
    | (with_reducible refine keeps_snd (by with_reducible assumption) ?_)
    | (with_reducible refine Keeps.update ?_))

theorem State.fillCode_keeps {s0 : State} {s : State} (c : Nat) (a : Nat) (hs : Keeps s0 s) :
    Keeps s0 (State.fillCode s c a) := by
  unfold State.fillCode
  repeat' (first
    | (intro x; refine have_then (p := Keeps s0 x) ?_ ?_; (on_goal 2 => (intro hx; clear_value x)); (on_goal 1 => (subst x)))
    | (intro x; refine have_then (p := Keeps s0 x.1) ?_ ?_; (on_goal 2 => (intro hx; clear_value x)); (on_goal 1 => (subst x)))
    | (intro x; (have _y := (fun a => x a)); clear _y; subst x; (try beta_reduce))
    | (intro x; clear_value x)
    | (intro x; subst x)
    | lift_lets -underBinder
    | (with_reducible assumption)
    | (with_reducible apply State.setCal_keeps)
    | (with_reducible apply State.fill_keeps)
    | split
    | (with_reducible refine keeps_fst (by with_reducible assumption) ?_)
    | (with_reducible refine keeps_snd (by with_reducible assumption) ?_)
    | (with_reducible refine Keeps.update ?_))

theorem State.lineParity_keeps {s0 : State} {s : State} (c : Nat) (a : Nat) (hs : Keeps s0 s) :
    Keeps s0 (State.lineParity s c a) := by
  unfold State.lineParity
  repeat' (first
    | (intro x; refine have_then (p := Keeps s0 x) ?_ ?_; (on_goal 2 => (intro hx; clear_value x)); (on_goal 1 => (subst x)))
    | (intro x; refine have_then (p := Keeps s0 x.1) ?_ ?_; (on_goal 2 => (intro hx; clear_value x)); (on_goal 1 => (subst x)))
    | (intro x; (have _y := (fun a => x a)); clear _y; subst x; (try beta_reduce))
    | (intro x; clear_value x)
    | (intro x; subst x)
    | lift_lets -underBinder
    | (with_reducible assumption)
    | (with_reducible apply State.setCal_keeps)
    | (with_reducible apply State.cachePar_keeps)
    | (with_reducible refine Keeps.update ?_)
    | (intro _ _; (try beta_reduce))
    | (intro _; (try beta_reduce)))

theorem State.dataNote_keeps {s0 : State} {s : State} (c : Nat) (e : MErr) (a : Nat) (hs : Keeps s0 s) :
    Keeps s0 (State.dataNote s c e a) := by
  unfold State.dataNote
  repeat' (first
    | (with_reducible assumption)
    | (with_reducible apply State.refuse_keeps))

theorem State.loadDone_keeps {s0 : State} {s : State} (c : Nat) (d : BitVec 5) (size : Nat) (signed : Bool) (bs : List Byte) (hs : Keeps s0 s) :
    Keeps s0 (State.loadDone s c d size signed bs) := by
  unfold State.loadDone
  repeat' (first
    | (with_reducible assumption)
    | (with_reducible apply State.setGpr_keeps)
    | (with_reducible apply State.next_keeps))

theorem State.loadIssue_keeps {s0 : State} {s : State} (c : Nat) (l : LoadSt) (hs : Keeps s0 s) :
    Keeps s0 (State.loadIssue s c l) := by
  unfold State.loadIssue
  repeat' (first
    | (with_reducible assumption)
    | (with_reducible apply State.setCal_keeps)
    | (with_reducible apply State.moved_keeps)
    | (with_reducible refine Keeps.update ?_))

theorem State.loadAct_keeps {s0 : State} {s : State} (c : Nat) (d : BitVec 5) (s1 : BitVec 5) (imm : BitVec 16) (size : Nat) (signed : Bool) (hs : Keeps s0 s) :
    Keeps s0 (State.loadAct s c d s1 imm size signed) := by
  unfold State.loadAct
  repeat' (first
    | (intro x; refine have_then (p := Keeps s0 x) ?_ ?_; (on_goal 2 => (intro hx; clear_value x)); (on_goal 1 => (subst x)))
    | (intro x; refine have_then (p := Keeps s0 x.1) ?_ ?_; (on_goal 2 => (intro hx; clear_value x)); (on_goal 1 => (subst x)))
    | (intro x; (have _y := (fun a => x a)); clear _y; subst x; (try beta_reduce))
    | (intro x; clear_value x)
    | (intro x; subst x)
    | lift_lets -underBinder
    | (with_reducible assumption)
    | (with_reducible apply State.take_keeps)
    | (with_reducible apply State.except_keeps)
    | (with_reducible apply State.lineParity_keeps)
    | (with_reducible apply State.dataNote_keeps)
    | (with_reducible apply State.loadDone_keeps)
    | (with_reducible apply State.loadIssue_keeps)
    | split
    | (with_reducible refine keeps_fst (by with_reducible assumption) ?_)
    | (with_reducible refine keeps_snd (by with_reducible assumption) ?_)
    | (with_reducible refine Keeps.update ?_)
    | (intro _ _; (try beta_reduce))
    | (intro _; (try beta_reduce)))

theorem State.loadIns_keeps {s0 : State} {s : State} (c : Nat) (word : Nat) (d : BitVec 5) (s1 : BitVec 5) (imm :
    BitVec 16) (size : Nat) (signed : Bool) (hs : Keeps s0 s) :
    Keeps s0 (State.loadIns s c word d s1 imm size signed) := by
  unfold State.loadIns
  repeat' (first
    | (intro x; refine have_then (p := Keeps s0 x) ?_ ?_; (on_goal 2 => (intro hx; clear_value x)); (on_goal 1 => (subst x)))
    | (intro x; refine have_then (p := Keeps s0 x.1) ?_ ?_; (on_goal 2 => (intro hx; clear_value x)); (on_goal 1 => (subst x)))
    | (intro x; (have _y := (fun a => x a)); clear _y; subst x; (try beta_reduce))
    | (intro x; clear_value x)
    | (intro x; subst x)
    | lift_lets -underBinder
    | (with_reducible assumption)
    | (with_reducible apply State.instr_keeps)
    | (with_reducible apply State.loadAct_keeps)
    | split
    | (with_reducible refine keeps_fst (by with_reducible assumption) ?_)
    | (with_reducible refine keeps_snd (by with_reducible assumption) ?_)
    | (with_reducible refine Keeps.update ?_)
    | (intro _ _; (try beta_reduce))
    | (intro _; (try beta_reduce)))

theorem State.retireLoads_keeps {s0 : State} (c n : Nat) {s : State} (hs : Keeps s0 s) :
    Keeps s0 (State.retireLoads c n s) := by
  induction n generalizing s with
  | zero => exact hs
  | succ n ih =>
    unfold State.retireLoads
    dsimp only
    split
    · exact State.pollTrap_keeps _ hs
    · split
      · exact State.pollTrap_keeps _ hs
      · exact ih (State.didRetire_keeps _ (State.setGpr_keeps _ _ _ (State.setCal_keeps _ _ hs)))
      · exact State.except_keeps _ _ _ _ _ _ (State.setCal_keeps _ _ hs)

theorem State.loadBack_keeps {s0 : State} {s : State} (c : Nat) (i : Nat) (r : LoadRes) (hs : Keeps s0 s) :
    Keeps s0 (State.loadBack s c i r) := by
  unfold State.loadBack
  repeat' (first
    | (intro x; refine have_then (p := Keeps s0 x) ?_ ?_; (on_goal 2 => (intro hx; clear_value x)); (on_goal 1 => (subst x)))
    | (intro x; refine have_then (p := Keeps s0 x.1) ?_ ?_; (on_goal 2 => (intro hx; clear_value x)); (on_goal 1 => (subst x)))
    | (intro x; (have _y := (fun a => x a)); clear _y; subst x; (try beta_reduce))
    | (intro x; clear_value x)
    | (intro x; subst x)
    | lift_lets -underBinder
    | (with_reducible assumption)
    | (with_reducible apply State.setCal_keeps)
    | (with_reducible apply State.retireLoads_keeps)
    | (with_reducible refine Keeps.update ?_)
    | (intro _ _; (try beta_reduce))
    | (intro _; (try beta_reduce)))

theorem State.readNote_keeps {s0 : State} {s : State} (p : Nat) (err : MemErr) (hs : Keeps s0 s) :
    Keeps s0 (State.readNote s p err) := by
  unfold State.readNote
  repeat' (first
    | (intro x; refine have_then (p := Keeps s0 x) ?_ ?_; (on_goal 2 => (intro hx; clear_value x)); (on_goal 1 => (subst x)))
    | (intro x; refine have_then (p := Keeps s0 x.1) ?_ ?_; (on_goal 2 => (intro hx; clear_value x)); (on_goal 1 => (subst x)))
    | (intro x; (have _y := (fun a => x a)); clear _y; subst x; (try beta_reduce))
    | (intro x; clear_value x)
    | (intro x; subst x)
    | lift_lets -underBinder
    | (with_reducible assumption)
    | (with_reducible apply State.setBad_keeps)
    | (with_reducible apply State.memUe_keeps)
    | (with_reducible apply State.memCe_keeps)
    | split
    | (with_reducible refine keeps_fst (by with_reducible assumption) ?_)
    | (with_reducible refine keeps_snd (by with_reducible assumption) ?_)
    | (with_reducible refine Keeps.update ?_))

theorem State.loadRead_keeps {s0 : State} {s : State} (c : Nat) (l : LoadSt) (err : MemErr) {t : State} {y : LoadRes}
    (e : State.loadRead s c l err = some (t, y)) (hs : Keeps s0 s) :
    Keeps s0 t := by
  unfold State.loadRead at e
  try dsimp only at e
  repeat' split at e
  all_goals (try (cases e; done))
  all_goals
    cases e
    repeat' (first
      | (intro x; refine have_then (p := Keeps s0 x) ?_ ?_; (on_goal 2 => (intro hx; clear_value x)); (on_goal 1 => (subst x)))
      | (intro x; refine have_then (p := Keeps s0 x.1) ?_ ?_; (on_goal 2 => (intro hx; clear_value x)); (on_goal 1 => (subst x)))
      | (intro x; (have _y := (fun a => x a)); clear _y; subst x; (try beta_reduce))
      | (intro x; clear_value x)
      | (intro x; subst x)
      | lift_lets -underBinder
      | (with_reducible assumption)
      | (with_reducible refine State.regLoad_keeps _ _ _ (by with_reducible assumption) ?_)
      | (with_reducible apply State.fill_keeps)
      | (with_reducible apply State.fillLine_keeps)
      | (with_reducible apply State.readNote_keeps)
      | split
      | (with_reducible refine keeps_fst (by with_reducible assumption) ?_)
      | (with_reducible refine keeps_snd (by with_reducible assumption) ?_)
      | (with_reducible refine Keeps.update ?_)
      | (intro _ _; (try beta_reduce))
      | (intro _; (try beta_reduce)))

theorem State.loadResponse_keeps {s0 : State} {s : State} (c : Nat) (id : LoadId) (err : MemErr) (hs : Keeps s0 s) :
    Keeps s0 (State.loadResponse s c id err) := by
  unfold State.loadResponse
  repeat' (first
    | (intro x; refine have_then (p := Keeps s0 x) ?_ ?_; (on_goal 2 => (intro hx; clear_value x)); (on_goal 1 => (subst x)))
    | (intro x; refine have_then (p := Keeps s0 x.1) ?_ ?_; (on_goal 2 => (intro hx; clear_value x)); (on_goal 1 => (subst x)))
    | (intro x; (have _y := (fun a => x a)); clear _y; subst x; (try beta_reduce))
    | (intro x; clear_value x)
    | (intro x; subst x)
    | lift_lets -underBinder
    | (with_reducible assumption)
    | (with_reducible apply State.fill_keeps)
    | (with_reducible apply State.fillCode_keeps)
    | (with_reducible apply State.loadBack_keeps)
    | (with_reducible apply State.readNote_keeps)
    | (with_reducible refine State.loadRead_keeps _ _ _ (by with_reducible assumption) ?_)
    | split
    | (with_reducible refine keeps_fst (by with_reducible assumption) ?_)
    | (with_reducible refine keeps_snd (by with_reducible assumption) ?_)
    | (with_reducible refine Keeps.update ?_)
    | (intro _ _; (try beta_reduce))
    | (intro _; (try beta_reduce)))

theorem State.loadTimeout_keeps {s0 : State} {s : State} (c : Nat) (hs : Keeps s0 s) :
    Keeps s0 (State.loadTimeout s c) := by
  unfold State.loadTimeout
  repeat' (first
    | (intro x; refine have_then (p := Keeps s0 x) ?_ ?_; (on_goal 2 => (intro hx; clear_value x)); (on_goal 1 => (subst x)))
    | (intro x; refine have_then (p := Keeps s0 x.1) ?_ ?_; (on_goal 2 => (intro hx; clear_value x)); (on_goal 1 => (subst x)))
    | (intro x; (have _y := (fun a => x a)); clear _y; subst x; (try beta_reduce))
    | (intro x; clear_value x)
    | (intro x; subst x)
    | lift_lets -underBinder
    | (with_reducible assumption)
    | (with_reducible apply State.loadBack_keeps)
    | split
    | (with_reducible refine keeps_fst (by with_reducible assumption) ?_)
    | (with_reducible refine keeps_snd (by with_reducible assumption) ?_)
    | (with_reducible refine Keeps.update ?_)
    | (intro _ _; (try beta_reduce))
    | (intro _; (try beta_reduce)))

theorem State.storeIns_keeps {s0 : State} {s : State} (c : Nat) (word : Nat) (d : BitVec 5) (s1 : BitVec 5) (imm : BitVec 16) (size : Nat) (hs : Keeps s0 s) :
    Keeps s0 (State.storeIns s c word d s1 imm size) := by
  unfold State.storeIns
  repeat' (first
    | (intro x; refine have_then (p := Keeps s0 x) ?_ ?_; (on_goal 2 => (intro hx; clear_value x)); (on_goal 1 => (subst x)))
    | (intro x; (have _y := (fun a => x a)); clear _y; subst x; (try beta_reduce))
    | (intro x; clear_value x)
    | (intro x; subst x)
    | lift_lets -underBinder
    | (with_reducible assumption)
    | (with_reducible apply State.instr_keeps)
    | (with_reducible apply State.except_keeps)
    | (with_reducible apply State.dataNote_keeps)
    | (with_reducible apply State.setCal_keeps)
    | (with_reducible apply State.next_keeps)
    | (intro _ _; (try beta_reduce))
    | (intro _; (try beta_reduce))
    | split
    | (with_reducible refine keeps_fst (by with_reducible assumption) ?_)
    | (with_reducible refine keeps_snd (by with_reducible assumption) ?_)
    | (with_reducible refine Keeps.update ?_))

theorem State.storeMem_keeps {s0 : State} {s : State} (p : Nat) (bs : List Byte) (hs : Keeps s0 s) :
    Keeps s0 (State.storeMem s p bs).1 := by
  unfold State.storeMem
  repeat' (first
    | (intro x; refine have_then (p := Keeps s0 x) ?_ ?_; (on_goal 2 => (intro hx; clear_value x)); (on_goal 1 => (subst x)))
    | (intro x; refine have_then (p := Keeps s0 x.1) ?_ ?_; (on_goal 2 => (intro hx; clear_value x)); (on_goal 1 => (subst x)))
    | (intro x; (have _y := (fun a => x a)); clear _y; subst x; (try beta_reduce))
    | (intro x; clear_value x)
    | (intro x; subst x)
    | lift_lets -underBinder
    | (with_reducible assumption)
    | (with_reducible apply State.poke_keeps)
    | (with_reducible apply State.touch_keeps)
    | (with_reducible apply State.memUe_keeps)
    | split
    | (with_reducible refine keeps_fst (by with_reducible assumption) ?_)
    | (with_reducible refine keeps_snd (by with_reducible assumption) ?_)
    | (with_reducible refine Keeps.update ?_))

theorem State.storeDrain_keeps {s0 : State} {s : State} (c : Nat) (hs : Keeps s0 s) :
    Keeps s0 (State.storeDrain s c) := by
  unfold State.storeDrain
  repeat' (first
    | (intro x; refine have_then (p := Keeps s0 x) ?_ ?_; (on_goal 2 => (intro hx; clear_value x)); (on_goal 1 => (subst x)))
    | (intro x; refine have_then (p := Keeps s0 x.1) ?_ ?_; (on_goal 2 => (intro hx; clear_value x)); (on_goal 1 => (subst x)))
    | (intro x; (have _y := (fun a => x a)); clear _y; subst x; (try beta_reduce))
    | (intro x; clear_value x)
    | (intro x; subst x)
    | lift_lets -underBinder
    | (with_reducible assumption)
    | (with_reducible refine State.regStore_keeps _ _ _ _ (by with_reducible assumption) ?_)
    | (with_reducible apply State.storeBytes_keeps)
    | (with_reducible apply State.setCal_keeps)
    | (with_reducible apply State.refuse_keeps)
    | (with_reducible apply State.lineStore_keeps)
    | (with_reducible apply State.storeMem_keeps)
    | split
    | (with_reducible refine keeps_fst (by with_reducible assumption) ?_)
    | (with_reducible refine keeps_snd (by with_reducible assumption) ?_)
    | (with_reducible refine Keeps.update ?_)
    | (intro _ _; (try beta_reduce))
    | (intro _; (try beta_reduce)))

theorem State.hostSeen_keeps {s0 : State} {s : State} (a : Nat) (n : Nat) (hs : Keeps s0 s) :
    Keeps s0 (State.hostSeen s a n) := by
  unfold State.hostSeen
  repeat' (first
    | (intro x; refine have_then (p := Keeps s0 x) ?_ ?_; (on_goal 2 => (intro hx; clear_value x)); (on_goal 1 => (subst x)))
    | (intro x; refine have_then (p := Keeps s0 x.1) ?_ ?_; (on_goal 2 => (intro hx; clear_value x)); (on_goal 1 => (subst x)))
    | (intro x; (have _y := (fun a => x a)); clear _y; subst x; (try beta_reduce))
    | (intro x; clear_value x)
    | (intro x; subst x)
    | lift_lets -underBinder
    | (with_reducible assumption)
    | (with_reducible apply State.takeFree_keeps)
    | (with_reducible apply State.takeFree_keeps)
    | split
    | (with_reducible refine keeps_fst (by with_reducible assumption) ?_)
    | (with_reducible refine keeps_snd (by with_reducible assumption) ?_)
    | (with_reducible refine Keeps.update ?_)
    | (intro _ _; (try beta_reduce))
    | (intro _; (try beta_reduce)))

theorem State.orderFault_keeps {s0 : State} {s : State} (c : Nat) (a : Nat) (hs : Keeps s0 s) :
    Keeps s0 (State.orderFault s c a).1 := by
  unfold State.orderFault
  repeat' (first
    | (with_reducible assumption)
    | (with_reducible apply State.memUe_keeps)
    | (with_reducible apply State.dataNote_keeps)
    | split
    | (with_reducible refine keeps_fst (by with_reducible assumption) ?_)
    | (with_reducible refine keeps_snd (by with_reducible assumption) ?_))

theorem State.orderRun_keeps {s0 : State} {s : State} (c : Nat) (a : Nat) (word : Word) (hs : Keeps s0 s) :
    Keeps s0 (State.orderRun s c a word).1 := by
  unfold State.orderRun
  repeat' (first
    | (intro x; refine have_then (p := Keeps s0 x) ?_ ?_; (on_goal 2 => (intro hx; clear_value x)); (on_goal 1 => (subst x)))
    | (intro x; refine have_then (p := Keeps s0 x.1) ?_ ?_; (on_goal 2 => (intro hx; clear_value x)); (on_goal 1 => (subst x)))
    | (intro x; (have _y := (fun a => x a)); clear _y; subst x; (try beta_reduce))
    | (intro x; clear_value x)
    | (intro x; subst x)
    | lift_lets -underBinder
    | (with_reducible assumption)
    | (with_reducible apply State.flt_keeps)
    | (with_reducible apply State.decodeFault_keeps)
    | (with_reducible apply State.offer_keeps)
    | (with_reducible apply State.hostSeen_keeps)
    | (with_reducible apply State.orderFault_keeps)
    | split
    | (with_reducible refine keeps_fst (by with_reducible assumption) ?_)
    | (with_reducible refine keeps_snd (by with_reducible assumption) ?_)
    | (with_reducible refine Keeps.update ?_)
    | (intro _ _; (try beta_reduce))
    | (intro _; (try beta_reduce)))

theorem State.runOrders_keeps {s0 : State} (c : Nat) (l : List OrdSt) {s : State} (hs : Keeps s0 s) :
    Keeps s0 (State.runOrders c l s) := by
  induction l generalizing s with
  | nil => exact State.pollTrap_keeps _ hs
  | cons o l ih =>
    unfold State.runOrders
    split
    · exact hs
    · have h := State.orderRun_keeps c o.addr o.word hs
      split
      · rename_i e
        have h := keeps_fst e h
        apply ih
        dsimp only
        split
        · exact State.retires_keeps _ _ (State.setCal_keeps _ _ h)
        · exact State.onRegs_keeps _ _ (State.retires_keeps _ _ (State.setCal_keeps _ _ h))
      · rename_i e
        exact State.except_keeps _ _ _ _ _ _ (State.setCal_keeps _ _ (keeps_fst e h))

theorem State.pollOrders_keeps {s0 : State} {s : State} (c : Nat) (hs : Keeps s0 s) :
    Keeps s0 (State.pollOrders s c) := by
  unfold State.pollOrders
  repeat' (first
    | (intro x; refine have_then (p := Keeps s0 x) ?_ ?_; (on_goal 2 => (intro hx; clear_value x)); (on_goal 1 => (subst x)))
    | (intro x; clear_value x)
    | (intro x; subst x)
    | lift_lets -underBinder
    | (with_reducible assumption)
    | (with_reducible apply State.runOrders_keeps)
    | (intro _ _; (try beta_reduce))
    | (intro _; (try beta_reduce))
    | split
    | (with_reducible refine keeps_fst (by with_reducible assumption) ?_)
    | (with_reducible refine keeps_snd (by with_reducible assumption) ?_))

theorem State.orderIns_keeps {s0 : State} {s : State} (c : Nat) (word : Nat) (d : BitVec 5) (s1 : BitVec 5) (s2 : BitVec 5) (hs : Keeps s0 s) :
    Keeps s0 (State.orderIns s c word d s1 s2) := by
  unfold State.orderIns
  repeat' (first
    | (intro x; refine have_then (p := Keeps s0 x) ?_ ?_; (on_goal 2 => (intro hx; clear_value x)); (on_goal 1 => (subst x)))
    | (intro x; refine have_then (p := Keeps s0 x.1) ?_ ?_; (on_goal 2 => (intro hx; clear_value x)); (on_goal 1 => (subst x)))
    | (intro x; (have _y := (fun a => x a)); clear _y; subst x; (try beta_reduce))
    | (intro x; clear_value x)
    | (intro x; subst x)
    | lift_lets -underBinder
    | (with_reducible assumption)
    | (with_reducible apply State.setCal_keeps)
    | (with_reducible apply State.setGpr_keeps)
    | (with_reducible apply State.except_keeps)
    | (with_reducible apply State.goto_keeps)
    | (with_reducible apply State.next_keeps)
    | (with_reducible apply State.instr_keeps)
    | (with_reducible apply State.orderRun_keeps)
    | split
    | (with_reducible refine keeps_fst (by with_reducible assumption) ?_)
    | (with_reducible refine keeps_snd (by with_reducible assumption) ?_)
    | (with_reducible refine Keeps.update ?_)
    | (intro _ _; (try beta_reduce))
    | (intro _; (try beta_reduce)))

theorem State.storeResponse_keeps {s0 : State} {s : State} (c : Nat) (err : Bool) (hs : Keeps s0 s) :
    Keeps s0 (State.storeResponse s c err) := by
  unfold State.storeResponse
  repeat' (first
    | (intro x; refine have_then (p := Keeps s0 x) ?_ ?_; (on_goal 2 => (intro hx; clear_value x)); (on_goal 1 => (subst x)))
    | (intro x; (have _y := (fun a => x a)); clear _y; subst x; (try beta_reduce))
    | (intro x; clear_value x)
    | (intro x; subst x)
    | lift_lets -underBinder
    | (with_reducible assumption)
    | (with_reducible apply State.setCal_keeps)
    | (with_reducible apply State.setBad_keeps)
    | (with_reducible apply State.memUe_keeps)
    | (with_reducible apply State.pollOrders_keeps)
    | (with_reducible apply State.addTrap_keeps)
    | split
    | (with_reducible refine keeps_fst (by with_reducible assumption) ?_)
    | (with_reducible refine keeps_snd (by with_reducible assumption) ?_)
    | (with_reducible refine Keeps.update ?_))

theorem State.spill_keeps {s0 : State} {s : State} (c : Nat) (hs : Keeps s0 s) : Keeps s0 (State.spill s c) := by
  unfold State.spill
  repeat' (first
    | (intro x; refine have_then (p := Keeps s0 x) ?_ ?_; (on_goal 2 => (intro hx; clear_value x)); (on_goal 1 => (subst x)))
    | (intro x; refine have_then (p := Keeps s0 x.1) ?_ ?_; (on_goal 2 => (intro hx; clear_value x)); (on_goal 1 => (subst x)))
    | (intro x; (have _y := (fun a => x a)); clear _y; subst x; (try beta_reduce))
    | (intro x; clear_value x)
    | (intro x; subst x)
    | lift_lets -underBinder
    | (with_reducible assumption)
    | (with_reducible apply State.satRf_keeps)
    | (with_reducible apply State.poke_keeps)
    | (with_reducible apply State.touch_keeps)
    | (with_reducible apply State.setCal_keeps)
    | (with_reducible apply State.refuse_keeps)
    | (with_reducible apply State.pollEntry_keeps)
    | split
    | (with_reducible refine keeps_fst (by with_reducible assumption) ?_)
    | (with_reducible refine keeps_snd (by with_reducible assumption) ?_)
    | (with_reducible refine Keeps.update ?_)
    | (intro _ _; (try beta_reduce))
    | (intro _; (try beta_reduce)))

theorem State.ownRead_keeps {s0 : State} {s : State} (c : Nat) (a : Nat) (n : Nat) (hs : Keeps s0 s) :
    Keeps s0 (State.ownRead s c a n).1 := by
  unfold State.ownRead
  repeat' (first
    | (intro x; refine have_then (p := Keeps s0 x) ?_ ?_; (on_goal 2 => (intro hx; clear_value x)); (on_goal 1 => (subst x)))
    | (intro x; refine have_then (p := Keeps s0 x.1) ?_ ?_; (on_goal 2 => (intro hx; clear_value x)); (on_goal 1 => (subst x)))
    | (intro x; (have _y := (fun a => x a)); clear _y; subst x; (try beta_reduce))
    | (intro x; clear_value x)
    | (intro x; subst x)
    | lift_lets -underBinder
    | (with_reducible assumption)
    | (with_reducible apply State.decodeFault_keeps)
    | (with_reducible apply State.readMem_keeps)
    | split
    | (with_reducible refine keeps_fst (by with_reducible assumption) ?_)
    | (with_reducible refine keeps_snd (by with_reducible assumption) ?_)
    | (with_reducible refine Keeps.update ?_))

theorem State.refill_keeps {s0 : State} {s : State} (c : Nat) (hs : Keeps s0 s) : Keeps s0 (State.refill s c) := by
  unfold State.refill
  repeat' (first
    | (intro x; refine have_then (p := Keeps s0 x) ?_ ?_; (on_goal 2 => (intro hx; clear_value x)); (on_goal 1 => (subst x)))
    | (intro x; refine have_then (p := Keeps s0 x.1) ?_ ?_; (on_goal 2 => (intro hx; clear_value x)); (on_goal 1 => (subst x)))
    | (intro x; (have _y := (fun a => x a)); clear _y; subst x; (try beta_reduce))
    | (intro x; clear_value x)
    | (intro x; subst x)
    | lift_lets -underBinder
    | (with_reducible assumption)
    | (with_reducible apply State.satRf_keeps)
    | (with_reducible apply State.setCal_keeps)
    | (with_reducible apply State.except_keeps)
    | (with_reducible apply State.ownRead_keeps)
    | split
    | (with_reducible refine keeps_fst (by with_reducible assumption) ?_)
    | (with_reducible refine keeps_snd (by with_reducible assumption) ?_)
    | (with_reducible refine Keeps.update ?_)
    | (intro _ _; (try beta_reduce))
    | (intro _; (try beta_reduce)))

theorem State.flushed_keeps {s0 : State} {s : State} (c : Nat) {go : State} (hs : Keeps s0 s) (hgo : Keeps s0 go) :
    Keeps s0 (State.flushed s c go) := by
  unfold State.flushed
  repeat' (first
    | (intro x; refine have_then (p := Keeps s0 x) ?_ ?_; (on_goal 2 => (intro hx; clear_value x)); (on_goal 1 => (subst x)))
    | (intro x; clear_value x)
    | (intro x; subst x)
    | lift_lets -underBinder
    | (with_reducible assumption)
    | (with_reducible apply State.resident_keeps)
    | (with_reducible apply State.wstack_keeps)
    | (with_reducible apply State.setCal_keeps)
    | split
    | (with_reducible refine keeps_fst (by with_reducible assumption) ?_)
    | (with_reducible refine keeps_snd (by with_reducible assumption) ?_)
    | (with_reducible refine Keeps.update ?_))

theorem State.resident_keeps {s0 : State} {s : State} (c : Nat) (k : Nat) {go : State} (hs : Keeps s0 s) (hgo : Keeps s0 go) :
    Keeps s0 (State.resident s c k go) := by
  unfold State.resident
  repeat' (first
    | (intro x; refine have_then (p := Keeps s0 x) ?_ ?_; (on_goal 2 => (intro hx; clear_value x)); (on_goal 1 => (subst x)))
    | (intro x; clear_value x)
    | (intro x; subst x)
    | lift_lets -underBinder
    | (with_reducible assumption)
    | (with_reducible apply State.wstack_keeps)
    | (with_reducible apply State.setCal_keeps)
    | split
    | (with_reducible refine keeps_fst (by with_reducible assumption) ?_)
    | (with_reducible refine keeps_snd (by with_reducible assumption) ?_)
    | (with_reducible refine Keeps.update ?_))

theorem State.tableReload_keeps {s0 : State} {s : State} (c : Nat) (t : SaveSet) (hs : Keeps s0 s) :
    Keeps s0 (State.tableReload s c t) := by
  unfold State.tableReload
  repeat' (first
    | (intro x; refine have_then (p := Keeps s0 x) ?_ ?_; (on_goal 2 => (intro hx; clear_value x)); (on_goal 1 => (subst x)))
    | (intro x; refine have_then (p := Keeps s0 x.1) ?_ ?_; (on_goal 2 => (intro hx; clear_value x)); (on_goal 1 => (subst x)))
    | (intro x; (have _y := (fun a => x a)); clear _y; subst x; (try beta_reduce))
    | (intro x; clear_value x)
    | (intro x; subst x)
    | lift_lets -underBinder
    | (with_reducible assumption)
    | (with_reducible apply State.setCal_keeps)
    | (with_reducible apply State.pollEntry_keeps)
    | (with_reducible apply State.ownRead_keeps)
    | (with_reducible refine keeps_foldl ?_ (fun _ _ _ => ?_))
    | (with_reducible refine keeps_foldl1 ?_ (fun _ _ _ => ?_))
    | split
    | (with_reducible refine keeps_fst (by with_reducible assumption) ?_)
    | (with_reducible refine keeps_snd (by with_reducible assumption) ?_)
    | (with_reducible refine Keeps.update ?_)
    | (intro _ _; (try beta_reduce))
    | (intro _; (try beta_reduce)))

theorem State.barrierIns_keeps {s0 : State} {s : State} (c : Nat) (word : Nat) (hs : Keeps s0 s) :
    Keeps s0 (State.barrierIns s c word) := by
  unfold State.barrierIns
  repeat' (first
    | (intro x; refine have_then (p := Keeps s0 x) ?_ ?_; (on_goal 2 => (intro hx; clear_value x)); (on_goal 1 => (subst x)))
    | (intro x; refine have_then (p := Keeps s0 x.1) ?_ ?_; (on_goal 2 => (intro hx; clear_value x)); (on_goal 1 => (subst x)))
    | (intro x; (have _y := (fun a => x a)); clear _y; subst x; (try beta_reduce))
    | (intro x; clear_value x)
    | (intro x; subst x)
    | lift_lets -underBinder
    | (with_reducible assumption)
    | (with_reducible apply State.next_keeps)
    | (with_reducible apply State.instr_keeps)
    | split
    | (with_reducible refine keeps_fst (by with_reducible assumption) ?_)
    | (with_reducible refine keeps_snd (by with_reducible assumption) ?_)
    | (intro _ _; (try beta_reduce))
    | (intro _; (try beta_reduce)))

theorem State.fenceIns_keeps {s0 : State} {s : State} (c : Nat) (word : Nat) (hs : Keeps s0 s) :
    Keeps s0 (State.fenceIns s c word) := by
  unfold State.fenceIns
  repeat' (first
    | (intro x; refine have_then (p := Keeps s0 x) ?_ ?_; (on_goal 2 => (intro hx; clear_value x)); (on_goal 1 => (subst x)))
    | (intro x; refine have_then (p := Keeps s0 x.1) ?_ ?_; (on_goal 2 => (intro hx; clear_value x)); (on_goal 1 => (subst x)))
    | (intro x; (have _y := (fun a => x a)); clear _y; subst x; (try beta_reduce))
    | (intro x; clear_value x)
    | (intro x; subst x)
    | lift_lets -underBinder
    | (with_reducible assumption)
    | (with_reducible apply State.next_keeps)
    | (with_reducible apply State.instr_keeps)
    | split
    | (with_reducible refine keeps_fst (by with_reducible assumption) ?_)
    | (with_reducible refine keeps_snd (by with_reducible assumption) ?_)
    | (intro _ _; (try beta_reduce))
    | (intro _; (try beta_reduce)))

theorem State.cinvLine_keeps {s0 : State} {s : State} (c : Nat) (word : Nat) (s1 : BitVec 5) (code : Bool) (hs : Keeps
    s0 s) :
    Keeps s0 (State.cinvLine s c word s1 code) := by
  unfold State.cinvLine
  repeat' (first
    | (intro x; refine have_then (p := Keeps s0 x) ?_ ?_; (on_goal 2 => (intro hx; clear_value x)); (on_goal 1 => (subst x)))
    | (intro x; refine have_then (p := Keeps s0 x.1) ?_ ?_; (on_goal 2 => (intro hx; clear_value x)); (on_goal 1 => (subst x)))
    | (intro x; (have _y := (fun a => x a)); clear _y; subst x; (try beta_reduce))
    | (intro x; clear_value x)
    | (intro x; subst x)
    | lift_lets -underBinder
    | (with_reducible assumption)
    | (with_reducible apply State.setCal_keeps)
    | (with_reducible apply State.except_keeps)
    | (with_reducible apply State.next_keeps)
    | (with_reducible apply State.instr_keeps)
    | (with_reducible apply State.dataNote_keeps)
    | split
    | (with_reducible refine keeps_fst (by with_reducible assumption) ?_)
    | (with_reducible refine keeps_snd (by with_reducible assumption) ?_)
    | (with_reducible refine Keeps.update ?_)
    | (intro _ _; (try beta_reduce))
    | (intro _; (try beta_reduce)))

theorem State.cinvAll_keeps {s0 : State} {s : State} (c : Nat) (word : Nat) (code : Bool) (hs : Keeps s0 s) :
    Keeps s0 (State.cinvAll s c word code) := by
  unfold State.cinvAll
  repeat' (first
    | (intro x; refine have_then (p := Keeps s0 x) ?_ ?_; (on_goal 2 => (intro hx; clear_value x)); (on_goal 1 => (subst x)))
    | (intro x; refine have_then (p := Keeps s0 x.1) ?_ ?_; (on_goal 2 => (intro hx; clear_value x)); (on_goal 1 => (subst x)))
    | (intro x; (have _y := (fun a => x a)); clear _y; subst x; (try beta_reduce))
    | (intro x; clear_value x)
    | (intro x; subst x)
    | lift_lets -underBinder
    | (with_reducible assumption)
    | (with_reducible apply State.setCal_keeps)
    | (with_reducible apply State.next_keeps)
    | (with_reducible apply State.instr_keeps)
    | split
    | (with_reducible refine keeps_fst (by with_reducible assumption) ?_)
    | (with_reducible refine keeps_snd (by with_reducible assumption) ?_)
    | (with_reducible refine Keeps.update ?_)
    | (intro _ _; (try beta_reduce))
    | (intro _; (try beta_reduce)))

end Sys2Proof.Machine
end

