-- ==== Sys2Proof/Laws/KeepsCalArith.lean ====
section
/-!
SUPPORT. What the operations of Machine/CalArith.lean keep.
-/
namespace Sys2Proof.Machine

theorem State.raiseFlags_keeps {s0 : State} {s : State} (c : Nat) (f : Flags) (hs : Keeps s0 s) :
    Keeps s0 (State.raiseFlags s c f) := by
  unfold State.raiseFlags
  repeat' (first
    | (intro x; refine have_then (p := Keeps s0 x) ?_ ?_; (on_goal 2 => (intro hx; clear_value x)); (on_goal 1 => (subst x)))
    | (intro x; refine have_then (p := Keeps s0 x.1) ?_ ?_; (on_goal 2 => (intro hx; clear_value x)); (on_goal 1 => (subst x)))
    | (intro x; (have _y := (fun a => x a)); clear _y; subst x; (try beta_reduce))
    | (intro x; clear_value x)
    | (intro x; subst x)
    | lift_lets -underBinder
    | (with_reducible assumption)
    | (with_reducible apply State.setCal_keeps)
    | (with_reducible apply State.onRegs_keeps)
    | split
    | (with_reducible refine keeps_fst (by with_reducible assumption) ?_)
    | (with_reducible refine keeps_snd (by with_reducible assumption) ?_)
    | (with_reducible refine Keeps.update ?_)
    | (intro _ _; (try beta_reduce))
    | (intro _; (try beta_reduce)))

theorem State.shortOp_keeps {s0 : State} {s : State} (c : Nat) (f : Flags) (put : CalRegs → CalRegs) (hs : Keeps s0 s) :
    Keeps s0 (State.shortOp s c f put) := by
  unfold State.shortOp
  repeat' (first
    | (intro x; refine have_then (p := Keeps s0 x) ?_ ?_; (on_goal 2 => (intro hx; clear_value x)); (on_goal 1 => (subst x)))
    | (intro x; refine have_then (p := Keeps s0 x.1) ?_ ?_; (on_goal 2 => (intro hx; clear_value x)); (on_goal 1 => (subst x)))
    | (intro x; (have _y := (fun a => x a)); clear _y; subst x; (try beta_reduce))
    | (intro x; clear_value x)
    | (intro x; subst x)
    | lift_lets -underBinder
    | (with_reducible assumption)
    | (with_reducible apply State.onRegs_keeps)
    | (with_reducible apply State.except_keeps)
    | (with_reducible apply State.next_keeps)
    | (with_reducible apply State.raiseFlags_keeps)
    | split
    | (with_reducible refine keeps_fst (by with_reducible assumption) ?_)
    | (with_reducible refine keeps_snd (by with_reducible assumption) ?_))

theorem State.longOp_keeps {s0 : State} {s : State} (c : Nat) (d : List (Nat × Word)) (v : List (Nat × Nat)) (f :
    Flags) (unit : Nat) (hs : Keeps s0 s) :
    Keeps s0 (State.longOp s c d v f unit) := by
  unfold State.longOp
  repeat' (first
    | (intro x; refine have_then (p := Keeps s0 x) ?_ ?_; (on_goal 2 => (intro hx; clear_value x)); (on_goal 1 => (subst x)))
    | (intro x; refine have_then (p := Keeps s0 x.1) ?_ ?_; (on_goal 2 => (intro hx; clear_value x)); (on_goal 1 => (subst x)))
    | (intro x; (have _y := (fun a => x a)); clear _y; subst x; (try beta_reduce))
    | (intro x; clear_value x)
    | (intro x; subst x)
    | lift_lets -underBinder
    | (with_reducible assumption)
    | (with_reducible apply State.setCal_keeps)
    | (with_reducible apply State.goto_keeps)
    | (with_reducible apply State.shortOp_keeps)
    | split
    | (with_reducible refine keeps_fst (by with_reducible assumption) ?_)
    | (with_reducible refine keeps_snd (by with_reducible assumption) ?_)
    | (with_reducible refine Keeps.update ?_)
    | (intro _ _; (try beta_reduce))
    | (intro _; (try beta_reduce)))

theorem State.longDone_keeps {s0 : State} {s : State} (c : Nat) (l : LongOp) (hs : Keeps s0 s) :
    Keeps s0 (State.longDone s c l) := by
  unfold State.longDone
  repeat' (first
    | (intro x; refine have_then (p := Keeps s0 x) ?_ ?_; (on_goal 2 => (intro hx; clear_value x)); (on_goal 1 => (subst x)))
    | (intro x; refine have_then (p := Keeps s0 x.1) ?_ ?_; (on_goal 2 => (intro hx; clear_value x)); (on_goal 1 => (subst x)))
    | (intro x; (have _y := (fun a => x a)); clear _y; subst x; (try beta_reduce))
    | (intro x; clear_value x)
    | (intro x; subst x)
    | lift_lets -underBinder
    | (with_reducible assumption)
    | (with_reducible apply State.addRf_keeps)
    | (with_reducible apply State.setCal_keeps)
    | (with_reducible apply State.noteTrap_keeps)
    | split
    | (with_reducible refine keeps_fst (by with_reducible assumption) ?_)
    | (with_reducible refine keeps_snd (by with_reducible assumption) ?_)
    | (with_reducible refine Keeps.update ?_)
    | (intro _ _; (try beta_reduce))
    | (intro _; (try beta_reduce)))

theorem State.longRetire_keeps {s0 : State} {s : State} (c : Nat) (t : Nat) (hs : Keeps s0 s) :
    Keeps s0 (State.longRetire s c t) := by
  unfold State.longRetire
  repeat' (first
    | (intro x; refine have_then (p := Keeps s0 x) ?_ ?_; (on_goal 2 => (intro hx; clear_value x)); (on_goal 1 => (subst x)))
    | (intro x; refine have_then (p := Keeps s0 x.1) ?_ ?_; (on_goal 2 => (intro hx; clear_value x)); (on_goal 1 => (subst x)))
    | (intro x; (have _y := (fun a => x a)); clear _y; subst x; (try beta_reduce))
    | (intro x; clear_value x)
    | (intro x; subst x)
    | lift_lets -underBinder
    | (with_reducible assumption)
    | (with_reducible apply State.pollTrap_keeps)
    | (with_reducible apply State.longDone_keeps)
    | split
    | (with_reducible refine keeps_fst (by with_reducible assumption) ?_)
    | (with_reducible refine keeps_snd (by with_reducible assumption) ?_)
    | (with_reducible refine Keeps.update ?_)
    | (intro _ _; (try beta_reduce))
    | (intro _; (try beta_reduce)))

theorem State.alu2_keeps {s0 : State} {s : State} (c : Nat) (word : Nat) (d : BitVec 5) (s1 : BitVec 5) (s2 : BitVec 5) (f : Word → Word → Word) (hs : Keeps s0 s) :
    Keeps s0 (State.alu2 s c word d s1 s2 f) := by
  unfold State.alu2
  repeat' (first
    | (with_reducible assumption)
    | (with_reducible apply State.instr_keeps)
    | (with_reducible apply State.setGpr_keeps)
    | (with_reducible apply State.next_keeps)
    | (intro _ _; (try beta_reduce))
    | (intro _; (try beta_reduce)))

theorem State.alu1_keeps {s0 : State} {s : State} (c : Nat) (word : Nat) (d : BitVec 5) (s1 : BitVec 5) (f : Word → Word) (hs : Keeps s0 s) :
    Keeps s0 (State.alu1 s c word d s1 f) := by
  unfold State.alu1
  repeat' (first
    | (with_reducible assumption)
    | (with_reducible apply State.instr_keeps)
    | (with_reducible apply State.setGpr_keeps)
    | (with_reducible apply State.next_keeps)
    | (intro _ _; (try beta_reduce))
    | (intro _; (try beta_reduce)))

theorem State.aluFlag_keeps {s0 : State} {s : State} (c : Nat) (word : Nat) (d : BitVec 5) (s1 : BitVec 5) (s2 : BitVec 5) (f : Nat → Nat → Res) (hs : Keeps s0 s) :
    Keeps s0 (State.aluFlag s c word d s1 s2 f) := by
  unfold State.aluFlag
  repeat' (first
    | (intro x; refine have_then (p := Keeps s0 x) ?_ ?_; (on_goal 2 => (intro hx; clear_value x)); (on_goal 1 => (subst x)))
    | (intro x; (have _y := (fun a => x a)); clear _y; subst x; (try beta_reduce))
    | (intro x; clear_value x)
    | (intro x; subst x)
    | lift_lets -underBinder
    | (with_reducible assumption)
    | (with_reducible apply State.instr_keeps)
    | (with_reducible apply State.shortOp_keeps)
    | (intro _ _; (try beta_reduce))
    | (intro _; (try beta_reduce))
    | split
    | (with_reducible refine keeps_fst (by with_reducible assumption) ?_)
    | (with_reducible refine keeps_snd (by with_reducible assumption) ?_))

theorem State.divIns_keeps {s0 : State} {s : State} (c : Nat) (word : Nat) (d : BitVec 5) (s1 : BitVec 5) (s2 : BitVec
    5) (f : Nat → Nat → Res) (hs : Keeps s0 s) :
    Keeps s0 (State.divIns s c word d s1 s2 f) := by
  unfold State.divIns
  repeat' (first
    | (intro x; refine have_then (p := Keeps s0 x) ?_ ?_; (on_goal 2 => (intro hx; clear_value x)); (on_goal 1 => (subst x)))
    | (intro x; refine have_then (p := Keeps s0 x.1) ?_ ?_; (on_goal 2 => (intro hx; clear_value x)); (on_goal 1 => (subst x)))
    | (intro x; (have _y := (fun a => x a)); clear _y; subst x; (try beta_reduce))
    | (intro x; clear_value x)
    | (intro x; subst x)
    | lift_lets -underBinder
    | (with_reducible assumption)
    | (with_reducible apply State.instr_keeps)
    | (with_reducible apply State.longOp_keeps)
    | (intro _ _; (try beta_reduce))
    | (intro _; (try beta_reduce)))

theorem State.fpResult_keeps {s0 : State} {s : State} (c : Nat) (op : Op) (t : ETy) (d : List (Nat × Word)) (f :
    Flags) (hs : Keeps s0 s) :
    Keeps s0 (State.fpResult s c op t d f) := by
  unfold State.fpResult
  repeat' (first
    | (intro x; refine have_then (p := Keeps s0 x) ?_ ?_; (on_goal 2 => (intro hx; clear_value x)); (on_goal 1 => (subst x)))
    | (intro x; refine have_then (p := Keeps s0 x.1) ?_ ?_; (on_goal 2 => (intro hx; clear_value x)); (on_goal 1 => (subst x)))
    | (intro x; (have _y := (fun a => x a)); clear _y; subst x; (try beta_reduce))
    | (intro x; clear_value x)
    | (intro x; subst x)
    | lift_lets -underBinder
    | (with_reducible assumption)
    | (with_reducible apply State.shortOp_keeps)
    | (with_reducible apply State.longOp_keeps)
    | split
    | (with_reducible refine keeps_fst (by with_reducible assumption) ?_)
    | (with_reducible refine keeps_snd (by with_reducible assumption) ?_)
    | (intro _ _; (try beta_reduce))
    | (intro _; (try beta_reduce)))

theorem State.fpIns_keeps {s0 : State} {s : State} (c : Nat) (code : Nat) (d : BitVec 5) (s1 : BitVec 5) (s2 : BitVec
    5) (rnd : BitVec 3) (ty : BitVec 3) (op : Op) (one : Bool) (toInt : Bool) (hs : Keeps s0 s) :
    Keeps s0 (State.fpIns s c code d s1 s2 rnd ty op one toInt) := by
  unfold State.fpIns
  repeat' (first
    | (intro x; refine have_then (p := Keeps s0 x) ?_ ?_; (on_goal 2 => (intro hx; clear_value x)); (on_goal 1 => (subst x)))
    | (intro x; refine have_then (p := Keeps s0 x.1) ?_ ?_; (on_goal 2 => (intro hx; clear_value x)); (on_goal 1 => (subst x)))
    | (intro x; (have _y := (fun a => x a)); clear _y; subst x; (try beta_reduce))
    | (intro x; clear_value x)
    | (intro x; subst x)
    | lift_lets -underBinder
    | (with_reducible assumption)
    | (with_reducible apply State.instr_keeps)
    | (with_reducible apply State.fpResult_keeps)
    | split
    | (with_reducible refine keeps_fst (by with_reducible assumption) ?_)
    | (with_reducible refine keeps_snd (by with_reducible assumption) ?_)
    | (intro _ _; (try beta_reduce))
    | (intro _; (try beta_reduce)))

theorem State.fmaIns_keeps {s0 : State} {s : State} (c : Nat) (major : Nat) (d : BitVec 5) (s1 : BitVec 5) (s2 :
    BitVec 5) (s3 : BitVec 5) (rnd : BitVec 3) (ty : BitVec 3) (op : Op) (hs : Keeps s0 s) :
    Keeps s0 (State.fmaIns s c major d s1 s2 s3 rnd ty op) := by
  unfold State.fmaIns
  repeat' (first
    | (intro x; refine have_then (p := Keeps s0 x) ?_ ?_; (on_goal 2 => (intro hx; clear_value x)); (on_goal 1 => (subst x)))
    | (intro x; refine have_then (p := Keeps s0 x.1) ?_ ?_; (on_goal 2 => (intro hx; clear_value x)); (on_goal 1 => (subst x)))
    | (intro x; (have _y := (fun a => x a)); clear _y; subst x; (try beta_reduce))
    | (intro x; clear_value x)
    | (intro x; subst x)
    | lift_lets -underBinder
    | (with_reducible assumption)
    | (with_reducible apply State.instr_keeps)
    | (with_reducible apply State.fpResult_keeps)
    | (intro _ _; (try beta_reduce))
    | (intro _; (try beta_reduce)))

theorem State.cvtIns_keeps {s0 : State} {s : State} (c : Nat) (d : BitVec 5) (s1 : BitVec 5) (sty : BitVec 4) (tty : BitVec 4) (rnd : BitVec 3) (sat : Bool) (hs : Keeps s0 s) :
    Keeps s0 (State.cvtIns s c d s1 sty tty rnd sat) := by
  unfold State.cvtIns
  repeat' (first
    | (intro x; refine have_then (p := Keeps s0 x) ?_ ?_; (on_goal 2 => (intro hx; clear_value x)); (on_goal 1 => (subst x)))
    | (intro x; (have _y := (fun a => x a)); clear _y; subst x; (try beta_reduce))
    | (intro x; clear_value x)
    | (intro x; subst x)
    | lift_lets -underBinder
    | (with_reducible assumption)
    | (with_reducible apply State.instr_keeps)
    | (with_reducible apply State.shortOp_keeps)
    | (intro _ _; (try beta_reduce))
    | (intro _; (try beta_reduce))
    | split
    | (with_reducible refine keeps_fst (by with_reducible assumption) ?_)
    | (with_reducible refine keeps_snd (by with_reducible assumption) ?_))

theorem State.setvlIns_keeps {s0 : State} {s : State} (c : Nat) (d : BitVec 5) (s1 : BitVec 5) (imm : BitVec 16) (hs : Keeps s0 s) :
    Keeps s0 (State.setvlIns s c d s1 imm) := by
  unfold State.setvlIns
  repeat' (first
    | (intro x; refine have_then (p := Keeps s0 x) ?_ ?_; (on_goal 2 => (intro hx; clear_value x)); (on_goal 1 => (subst x)))
    | (intro x; (have _y := (fun a => x a)); clear _y; subst x; (try beta_reduce))
    | (intro x; clear_value x)
    | (intro x; subst x)
    | lift_lets -underBinder
    | (with_reducible assumption)
    | (with_reducible apply State.instr_keeps)
    | (with_reducible apply State.onRegs_keeps)
    | (with_reducible apply State.setGpr_keeps)
    | (with_reducible apply State.next_keeps)
    | (intro _ _; (try beta_reduce))
    | (intro _; (try beta_reduce))
    | split
    | (with_reducible refine keeps_fst (by with_reducible assumption) ?_)
    | (with_reducible refine keeps_snd (by with_reducible assumption) ?_)
    | (with_reducible refine Keeps.update ?_))

theorem State.vecIns_keeps {s0 : State} {s : State} (c : Nat) (code : Nat) (vd : BitVec 5) (vs1 : BitVec 5) (vs2 : BitVec 5) (masked : Bool) (scalar : Bool) (legal : Bool) (use : List (BitVec 5)) (vecs : List Nat) (act : State → State) (hs : Keeps s0 s) (hact : ∀ x, Keeps s0 x → Keeps s0 (act x)) :
    Keeps s0 (State.vecIns s c code vd vs1 vs2 masked scalar legal use vecs act) := by
  unfold State.vecIns
  repeat' (first
    | (with_reducible assumption)
    | (with_reducible apply State.instr_keeps)
    | (with_reducible apply hact)
    | (intro _ _; (try beta_reduce))
    | (intro _; (try beta_reduce))
    | split
    | (with_reducible refine keeps_fst (by with_reducible assumption) ?_)
    | (with_reducible refine keeps_snd (by with_reducible assumption) ?_))

theorem State.vecOp_keeps {s0 : State} {s : State} (c : Nat) (code : Nat) (vd : BitVec 5) (vs1 : BitVec 5) (vs2 : BitVec 5) (masked : Bool) (scalar : Bool) (op : Op) (one : Bool) (hs : Keeps s0 s) :
    Keeps s0 (State.vecOp s c code vd vs1 vs2 masked scalar op one) := by
  unfold State.vecOp
  repeat' (first
    | (intro x; refine have_then (p := Keeps s0 x) ?_ ?_; (on_goal 2 => (intro hx; clear_value x)); (on_goal 1 => (subst x)))
    | (intro x; (have _y := (fun a => x a)); clear _y; subst x; (try beta_reduce))
    | (intro x; clear_value x)
    | (intro x; subst x)
    | lift_lets -underBinder
    | (with_reducible assumption)
    | (with_reducible apply State.vecIns_keeps)
    | (with_reducible apply State.longOp_keeps)
    | (with_reducible refine keeps_foldl ?_ (fun _ _ _ => ?_))
    | (intro _ _; (try beta_reduce))
    | (intro _; (try beta_reduce))
    | split
    | (with_reducible refine keeps_fst (by with_reducible assumption) ?_)
    | (with_reducible refine keeps_snd (by with_reducible assumption) ?_))

theorem State.vecCmp_keeps {s0 : State} {s : State} (c : Nat) (code : Nat) (vd : BitVec 5) (vs1 : BitVec 5) (vs2 : BitVec 5) (masked : Bool) (scalar : Bool) (k : Cmp) (hs : Keeps s0 s) :
    Keeps s0 (State.vecCmp s c code vd vs1 vs2 masked scalar k) := by
  unfold State.vecCmp
  repeat' (first
    | (intro x; refine have_then (p := Keeps s0 x) ?_ ?_; (on_goal 2 => (intro hx; clear_value x)); (on_goal 1 => (subst x)))
    | (intro x; (have _y := (fun a => x a)); clear _y; subst x; (try beta_reduce))
    | (intro x; clear_value x)
    | (intro x; subst x)
    | lift_lets -underBinder
    | (with_reducible assumption)
    | (with_reducible apply State.vecIns_keeps)
    | (with_reducible apply State.longOp_keeps)
    | (with_reducible refine keeps_foldl ?_ (fun _ _ _ => ?_))
    | (intro _ _; (try beta_reduce))
    | (intro _; (try beta_reduce))
    | split
    | (with_reducible refine keeps_fst (by with_reducible assumption) ?_)
    | (with_reducible refine keeps_snd (by with_reducible assumption) ?_))

theorem State.vecSel_keeps {s0 : State} {s : State} (c : Nat) (code : Nat) (vd : BitVec 5) (vs1 : BitVec 5) (vs2 : BitVec 5) (masked : Bool) (scalar : Bool) (hs : Keeps s0 s) :
    Keeps s0 (State.vecSel s c code vd vs1 vs2 masked scalar) := by
  unfold State.vecSel
  repeat' (first
    | (intro x; refine have_then (p := Keeps s0 x) ?_ ?_; (on_goal 2 => (intro hx; clear_value x)); (on_goal 1 => (subst x)))
    | (intro x; (have _y := (fun a => x a)); clear _y; subst x; (try beta_reduce))
    | (intro x; clear_value x)
    | (intro x; subst x)
    | lift_lets -underBinder
    | (with_reducible assumption)
    | (with_reducible apply State.vecIns_keeps)
    | (with_reducible apply State.longOp_keeps)
    | (intro _ _; (try beta_reduce))
    | (intro _; (try beta_reduce))
    | split
    | (with_reducible refine keeps_fst (by with_reducible assumption) ?_)
    | (with_reducible refine keeps_snd (by with_reducible assumption) ?_))

theorem State.vecRed_keeps {s0 : State} {s : State} (c : Nat) (code : Nat) (vd : BitVec 5) (vs1 : BitVec 5) (vs2 :
    BitVec 5) (masked : Bool) (scalar : Bool) (op : Op) (hs : Keeps s0 s) :
    Keeps s0 (State.vecRed s c code vd vs1 vs2 masked scalar op) := by
  unfold State.vecRed
  repeat' (first
    | (intro x; refine have_then (p := Keeps s0 x) ?_ ?_; (on_goal 2 => (intro hx; clear_value x)); (on_goal 1 => (subst x)))
    | (intro x; refine have_then (p := Keeps s0 x.1) ?_ ?_; (on_goal 2 => (intro hx; clear_value x)); (on_goal 1 => (subst x)))
    | (intro x; (have _y := (fun a => x a)); clear _y; subst x; (try beta_reduce))
    | (intro x; clear_value x)
    | (intro x; subst x)
    | lift_lets -underBinder
    | (with_reducible assumption)
    | (with_reducible apply State.takeFree_keeps)
    | (with_reducible apply State.longOp_keeps)
    | (with_reducible apply State.vecIns_keeps)
    | split
    | (with_reducible refine keeps_fst (by with_reducible assumption) ?_)
    | (with_reducible refine keeps_snd (by with_reducible assumption) ?_)
    | (with_reducible refine Keeps.update ?_)
    | (intro _ _; (try beta_reduce))
    | (intro _; (try beta_reduce)))

theorem State.vecMvx_keeps {s0 : State} {s : State} (c : Nat) (code : Nat) (vd : BitVec 5) (vs1 : BitVec 5) (vs2 : BitVec 5) (masked : Bool) (scalar : Bool) (hs : Keeps s0 s) :
    Keeps s0 (State.vecMvx s c code vd vs1 vs2 masked scalar) := by
  unfold State.vecMvx
  repeat' (first
    | (intro x; refine have_then (p := Keeps s0 x) ?_ ?_; (on_goal 2 => (intro hx; clear_value x)); (on_goal 1 => (subst x)))
    | (intro x; (have _y := (fun a => x a)); clear _y; subst x; (try beta_reduce))
    | (intro x; clear_value x)
    | (intro x; subst x)
    | lift_lets -underBinder
    | (with_reducible assumption)
    | (with_reducible apply State.vecIns_keeps)
    | (with_reducible apply State.longOp_keeps)
    | (intro _ _; (try beta_reduce))
    | (intro _; (try beta_reduce))
    | split
    | (with_reducible refine keeps_fst (by with_reducible assumption) ?_)
    | (with_reducible refine keeps_snd (by with_reducible assumption) ?_))

theorem State.spanDecode_keeps {s0 : State} {s : State} (c : Nat) (a : Nat) (n : Nat) (hs : Keeps s0 s) :
    Keeps s0 (State.spanDecode s c a n) := by
  unfold State.spanDecode
  repeat' (first
    | (with_reducible assumption)
    | (with_reducible apply State.decodeFault_keeps)
    | (with_reducible refine keeps_foldl ?_ (fun _ _ _ => ?_))
    | split
    | (with_reducible refine keeps_fst (by with_reducible assumption) ?_)
    | (with_reducible refine keeps_snd (by with_reducible assumption) ?_))

theorem State.spanParity_keeps {s0 : State} {s : State} (c : Nat) (a : Nat) (n : Nat) (hs : Keeps s0 s) :
    Keeps s0 (State.spanParity s c a n) := by
  unfold State.spanParity
  repeat' (first
    | (intro x; refine have_then (p := Keeps s0 x) ?_ ?_; (on_goal 2 => (intro hx; clear_value x)); (on_goal 1 => (subst x)))
    | (intro x; refine have_then (p := Keeps s0 x.1) ?_ ?_; (on_goal 2 => (intro hx; clear_value x)); (on_goal 1 => (subst x)))
    | (intro x; (have _y := (fun a => x a)); clear _y; subst x; (try beta_reduce))
    | (intro x; clear_value x)
    | (intro x; subst x)
    | lift_lets -underBinder
    | (with_reducible assumption)
    | (with_reducible apply State.lineParity_keeps)
    | (with_reducible refine keeps_foldl ?_ (fun _ _ _ => ?_))
    | (with_reducible refine keeps_foldl1 ?_ (fun _ _ _ => ?_))
    | split
    | (with_reducible refine keeps_fst (by with_reducible assumption) ?_)
    | (with_reducible refine keeps_snd (by with_reducible assumption) ?_)
    | (intro _ _; (try beta_reduce))
    | (intro _; (try beta_reduce)))

theorem State.vldIns_keeps {s0 : State} {s : State} (c : Nat) (d : BitVec 5) (s1 : BitVec 5) (imm : BitVec 16) (hs : Keeps s0 s) :
    Keeps s0 (State.vldIns s c d s1 imm) := by
  unfold State.vldIns
  repeat' (first
    | (intro x; refine have_then (p := Keeps s0 x) ?_ ?_; (on_goal 2 => (intro hx; clear_value x)); (on_goal 1 => (subst x)))
    | (intro x; refine have_then (p := Keeps s0 x.1) ?_ ?_; (on_goal 2 => (intro hx; clear_value x)); (on_goal 1 => (subst x)))
    | (intro x; (have _y := (fun a => x a)); clear _y; subst x; (try beta_reduce))
    | (intro x; clear_value x)
    | (intro x; subst x)
    | lift_lets -underBinder
    | (with_reducible assumption)
    | (with_reducible apply State.memUe_keeps)
    | (with_reducible apply State.onRegs_keeps)
    | (with_reducible apply State.take_keeps)
    | (with_reducible apply State.except_keeps)
    | (with_reducible apply State.next_keeps)
    | (with_reducible apply State.instr_keeps)
    | (with_reducible apply State.fillLine_keeps)
    | (with_reducible apply State.dataNote_keeps)
    | (with_reducible apply State.hostSeen_keeps)
    | (with_reducible apply State.spanDecode_keeps)
    | (with_reducible apply State.spanParity_keeps)
    | (with_reducible refine keeps_foldl ?_ (fun _ _ _ => ?_))
    | (with_reducible refine keeps_foldl1 ?_ (fun _ _ _ => ?_))
    | split
    | (with_reducible refine keeps_fst (by with_reducible assumption) ?_)
    | (with_reducible refine keeps_snd (by with_reducible assumption) ?_)
    | (with_reducible refine Keeps.update ?_)
    | (intro _ _; (try beta_reduce))
    | (intro _; (try beta_reduce)))

theorem State.vstIns_keeps {s0 : State} {s : State} (c : Nat) (d : BitVec 5) (s1 : BitVec 5) (imm : BitVec 16) (hs :
    Keeps s0 s) :
    Keeps s0 (State.vstIns s c d s1 imm) := by
  unfold State.vstIns
  repeat' (first
    | (intro x; refine have_then (p := Keeps s0 x) ?_ ?_; (on_goal 2 => (intro hx; clear_value x)); (on_goal 1 => (subst x)))
    | (intro x; refine have_then (p := Keeps s0 x.1) ?_ ?_; (on_goal 2 => (intro hx; clear_value x)); (on_goal 1 => (subst x)))
    | (intro x; (have _y := (fun a => x a)); clear _y; subst x; (try beta_reduce))
    | (intro x; clear_value x)
    | (intro x; subst x)
    | lift_lets -underBinder
    | (with_reducible assumption)
    | (with_reducible apply State.storeBytes_keeps)
    | (with_reducible apply State.setCal_keeps)
    | (with_reducible apply State.memUe_keeps)
    | (with_reducible apply State.take_keeps)
    | (with_reducible apply State.except_keeps)
    | (with_reducible apply State.next_keeps)
    | (with_reducible apply State.instr_keeps)
    | (with_reducible apply State.lineStore_keeps)
    | (with_reducible apply State.dataNote_keeps)
    | (with_reducible apply State.spanDecode_keeps)
    | (with_reducible refine keeps_foldl ?_ (fun _ _ _ => ?_))
    | (with_reducible refine keeps_foldl1 ?_ (fun _ _ _ => ?_))
    | split
    | (with_reducible refine keeps_fst (by with_reducible assumption) ?_)
    | (with_reducible refine keeps_snd (by with_reducible assumption) ?_)
    | (with_reducible refine Keeps.update ?_)
    | (intro _ _; (try beta_reduce))
    | (intro _; (try beta_reduce)))

end Sys2Proof.Machine
end

