-- ==== Sys2Proof/Laws/KeepsCalCtl.lean ====
section
/-!
SUPPORT. What the operations of Machine/CalCtl.lean keep.
-/
namespace Sys2Proof.Machine

theorem State.branch_keeps {s0 : State} {s : State} (c : Nat) (major : Nat) (s1 : BitVec 5) (s2 : BitVec 5) (off : BitVec 16) (holds : Word → Word → Bool) (hs : Keeps s0 s) :
    Keeps s0 (State.branch s c major s1 s2 off holds) := by
  unfold State.branch
  repeat' (first
    | (with_reducible assumption)
    | (with_reducible apply State.instr_keeps)
    | (with_reducible apply State.goto_keeps)
    | (with_reducible apply State.next_keeps)
    | (intro _ _; (try beta_reduce))
    | (intro _; (try beta_reduce))
    | split
    | (with_reducible refine keeps_fst (by with_reducible assumption) ?_)
    | (with_reducible refine keeps_snd (by with_reducible assumption) ?_))

theorem State.callTo_keeps {s0 : State} {s : State} (c : Nat) (target : Nat) (hs : Keeps s0 s) :
    Keeps s0 (State.callTo s c target) := by
  unfold State.callTo
  repeat' (first
    | (intro x; refine have_then (p := Keeps s0 x) ?_ ?_; (on_goal 2 => (intro hx; clear_value x)); (on_goal 1 => (subst x)))
    | (intro x; (have _y := (fun a => x a)); clear _y; subst x; (try beta_reduce))
    | (intro x; clear_value x)
    | (intro x; subst x)
    | lift_lets -underBinder
    | (with_reducible assumption)
    | (with_reducible apply State.onRegs_keeps)
    | (with_reducible apply State.resident_keeps)
    | (with_reducible apply State.goto_keeps)
    | (with_reducible apply State.room_keeps)
    | (intro _ _; (try beta_reduce))
    | (intro _; (try beta_reduce))
    | split
    | (with_reducible refine keeps_fst (by with_reducible assumption) ?_)
    | (with_reducible refine keeps_snd (by with_reducible assumption) ?_)
    | (with_reducible refine Keeps.update ?_))

theorem State.retTo_keeps {s0 : State} {s : State} (c : Nat) (hs : Keeps s0 s) :
    Keeps s0 (State.retTo s c) := by
  unfold State.retTo
  repeat' (first
    | (intro x; refine have_then (p := Keeps s0 x) ?_ ?_; (on_goal 2 => (intro hx; clear_value x)); (on_goal 1 => (subst x)))
    | (intro x; (have _y := (fun a => x a)); clear _y; subst x; (try beta_reduce))
    | (intro x; clear_value x)
    | (intro x; subst x)
    | lift_lets -underBinder
    | (with_reducible assumption)
    | (with_reducible apply State.onRegs_keeps)
    | (with_reducible apply State.resident_keeps)
    | (with_reducible apply State.goto_keeps)
    | (intro _ _; (try beta_reduce))
    | (intro _; (try beta_reduce))
    | split
    | (with_reducible refine keeps_fst (by with_reducible assumption) ?_)
    | (with_reducible refine keeps_snd (by with_reducible assumption) ?_)
    | (with_reducible refine Keeps.update ?_))

theorem State.readBeats_keeps {s0 : State} {s : State} (c : Nat) (hs : Keeps s0 s) : Keeps s0 (State.readBeats s c).2 := by
  unfold State.readBeats
  repeat' (first
    | (intro x; refine have_then (p := Keeps s0 x) ?_ ?_; (on_goal 2 => (intro hx; clear_value x)); (on_goal 1 => (subst x)))
    | (intro x; refine have_then (p := Keeps s0 x.1) ?_ ?_; (on_goal 2 => (intro hx; clear_value x)); (on_goal 1 => (subst x)))
    | (intro x; (have _y := (fun a => x a)); clear _y; subst x; (try beta_reduce))
    | (intro x; clear_value x)
    | (intro x; subst x)
    | lift_lets -underBinder
    | (with_reducible assumption)
    | (with_reducible apply State.takeFree_keeps)
    | split
    | (with_reducible refine keeps_fst (by with_reducible assumption) ?_)
    | (with_reducible refine keeps_snd (by with_reducible assumption) ?_)
    | (with_reducible refine Keeps.update ?_))

theorem State.crrIns_keeps {s0 : State} {s : State} (c : Nat) (d : BitVec 5) (s1 : BitVec 5) (num : BitVec 16) (hs :
    Keeps s0 s) :
    Keeps s0 (State.crrIns s c d s1 num) := by
  unfold State.crrIns
  repeat' (first
    | (intro x; refine have_then (p := Keeps s0 x) ?_ ?_; (on_goal 2 => (intro hx; clear_value x)); (on_goal 1 => (subst x)))
    | (intro x; refine have_then (p := Keeps s0 x.1) ?_ ?_; (on_goal 2 => (intro hx; clear_value x)); (on_goal 1 => (subst x)))
    | (intro x; (have _y := (fun a => x a)); clear _y; subst x; (try beta_reduce))
    | (intro x; clear_value x)
    | (intro x; subst x)
    | lift_lets -underBinder
    | (with_reducible assumption)
    | (with_reducible apply State.setGpr_keeps)
    | (with_reducible apply State.next_keeps)
    | (with_reducible apply State.instr_keeps)
    | (with_reducible apply State.readBeats_keeps)
    | split
    | (with_reducible refine keeps_fst (by with_reducible assumption) ?_)
    | (with_reducible refine keeps_snd (by with_reducible assumption) ?_)
    | (with_reducible refine Keeps.update ?_)
    | (intro _ _; (try beta_reduce))
    | (intro _; (try beta_reduce)))

theorem State.crwIns_keeps {s0 : State} {s : State} (c : Nat) (d : BitVec 5) (s1 : BitVec 5) (num : BitVec 16) (hs :
    Keeps s0 s) :
    Keeps s0 (State.crwIns s c d s1 num) := by
  unfold State.crwIns
  repeat' (first
    | (intro x; refine have_then (p := Keeps s0 x) ?_ ?_; (on_goal 2 => (intro hx; clear_value x)); (on_goal 1 => (subst x)))
    | (intro x; refine have_then (p := Keeps s0 x.1) ?_ ?_; (on_goal 2 => (intro hx; clear_value x)); (on_goal 1 => (subst x)))
    | (intro x; (have _y := (fun a => x a)); clear _y; subst x; (try beta_reduce))
    | (intro x; clear_value x)
    | (intro x; subst x)
    | lift_lets -underBinder
    | (with_reducible assumption)
    | (with_reducible apply State.setCal_keeps)
    | (with_reducible apply State.write_keeps)
    | (with_reducible apply State.pollTrap_keeps)
    | (with_reducible apply State.next_keeps)
    | (with_reducible apply State.instr_keeps)
    | (with_reducible apply State.flushed_keeps)
    | split
    | (with_reducible refine keeps_fst (by with_reducible assumption) ?_)
    | (with_reducible refine keeps_snd (by with_reducible assumption) ?_)
    | (with_reducible refine Keeps.update ?_)
    | (intro _ _; (try beta_reduce))
    | (intro _; (try beta_reduce)))

theorem State.crwApply_keeps {s0 : State} {s : State} (c : Nat) (w : Nat × Word) (hs : Keeps s0 s) :
    Keeps s0 (State.crwApply s c w) := by
  unfold State.crwApply
  repeat' (first
    | (intro x; refine have_then (p := Keeps s0 x) ?_ ?_; (on_goal 2 => (intro hx; clear_value x)); (on_goal 1 => (subst x)))
    | (intro x; (have _y := (fun a => x a)); clear _y; subst x; (try beta_reduce))
    | (intro x; clear_value x)
    | (intro x; subst x)
    | lift_lets -underBinder
    | (with_reducible assumption)
    | (with_reducible apply State.putStatus_keeps)
    | (with_reducible apply State.setCal_keeps)
    | (with_reducible apply State.setReg_keeps)
    | (with_reducible apply State.onRegs_keeps)
    | (intro _ _; (try beta_reduce))
    | (intro _; (try beta_reduce))
    | split
    | (with_reducible refine keeps_fst (by with_reducible assumption) ?_)
    | (with_reducible refine keeps_snd (by with_reducible assumption) ?_)
    | (with_reducible refine Keeps.update ?_))

theorem State.shadowEv_keeps {s0 : State} (c : Nat) (s : State) (e : ShadowEv) (hs : Keeps s0 s) :
    Keeps s0 (State.shadowEv c s e) := by
  unfold State.shadowEv
  split
  · exact State.crwApply_keeps _ _ hs
  · exact State.onRegs_keeps _ _ hs
  · refine keeps_foldl hs fun s t h => ?_
    split
    · exact State.longDone_keeps _ _ h
    · exact h

theorem State.closeShadow_keeps {s0 : State} {s : State} (c : Nat) (hs : Keeps s0 s) :
    Keeps s0 (State.closeShadow s c) := by
  unfold State.closeShadow
  repeat' (first
    | (intro x; refine have_then (p := Keeps s0 x) ?_ ?_; (on_goal 2 => (intro hx; clear_value x)); (on_goal 1 => (subst x)))
    | (intro x; refine have_then (p := Keeps s0 x.1) ?_ ?_; (on_goal 2 => (intro hx; clear_value x)); (on_goal 1 => (subst x)))
    | (intro x; (have _y := (fun a => x a)); clear _y; subst x; (try beta_reduce))
    | (intro x; clear_value x)
    | (intro x; subst x)
    | lift_lets -underBinder
    | (with_reducible assumption)
    | (with_reducible apply State.addRf_keeps)
    | (with_reducible apply State.setCal_keeps)
    | (with_reducible apply State.shadowEv_keeps)
    | (with_reducible refine keeps_foldl ?_ (fun _ _ _ => ?_))
    | (with_reducible refine keeps_foldl1 ?_ (fun _ _ _ => ?_))
    | split
    | (with_reducible refine keeps_fst (by with_reducible assumption) ?_)
    | (with_reducible refine keeps_snd (by with_reducible assumption) ?_)
    | (with_reducible refine Keeps.update ?_)
    | (intro _ _; (try beta_reduce))
    | (intro _; (try beta_reduce)))

theorem State.syncIns_keeps {s0 : State} {s : State} (c : Nat) (word : Nat) (hs : Keeps s0 s) :
    Keeps s0 (State.syncIns s c word) := by
  unfold State.syncIns
  repeat' (first
    | (with_reducible assumption)
    | (with_reducible apply State.instr_keeps)
    | (with_reducible apply State.closeShadow_keeps)
    | (with_reducible apply State.next_keeps)
    | (with_reducible apply State.pollOrders_keeps)
    | (intro _ _; (try beta_reduce))
    | (intro _; (try beta_reduce)))

theorem State.retxIns_keeps {s0 : State} {s : State} (c : Nat) (hs : Keeps s0 s) :
    Keeps s0 (State.retxIns s c) := by
  unfold State.retxIns
  repeat' (first
    | (intro x; refine have_then (p := Keeps s0 x) ?_ ?_; (on_goal 2 => (intro hx; clear_value x)); (on_goal 1 => (subst x)))
    | (intro x; (have _y := (fun a => x a)); clear _y; subst x; (try beta_reduce))
    | (intro x; clear_value x)
    | (intro x; subst x)
    | lift_lets -underBinder
    | (with_reducible assumption)
    | (with_reducible apply State.closeShadow_keeps)
    | (with_reducible apply State.instr_keeps)
    | (with_reducible apply State.onRegs_keeps)
    | (with_reducible apply State.resident_keeps)
    | (with_reducible apply State.putStatus_keeps)
    | (with_reducible apply State.goto_keeps)
    | (with_reducible apply State.pollOrders_keeps)
    | (intro _ _; (try beta_reduce))
    | (intro _; (try beta_reduce))
    | split
    | (with_reducible refine keeps_fst (by with_reducible assumption) ?_)
    | (with_reducible refine keeps_snd (by with_reducible assumption) ?_)
    | (with_reducible refine Keeps.update ?_))

theorem State.waitIns_keeps {s0 : State} {s : State} (c : Nat) (word : Nat) (hs : Keeps s0 s) :
    Keeps s0 (State.waitIns s c word) := by
  unfold State.waitIns
  repeat' (first
    | (intro x; refine have_then (p := Keeps s0 x) ?_ ?_; (on_goal 2 => (intro hx; clear_value x)); (on_goal 1 => (subst x)))
    | (intro x; (have _y := (fun a => x a)); clear _y; subst x; (try beta_reduce))
    | (intro x; clear_value x)
    | (intro x; subst x)
    | lift_lets -underBinder
    | (with_reducible assumption)
    | (with_reducible apply State.instr_keeps)
    | (with_reducible apply State.setCal_keeps)
    | (with_reducible apply State.next_keeps)
    | (intro _ _; (try beta_reduce))
    | (intro _; (try beta_reduce))
    | split
    | (with_reducible refine keeps_fst (by with_reducible assumption) ?_)
    | (with_reducible refine keeps_snd (by with_reducible assumption) ?_)
    | (with_reducible refine Keeps.update ?_))

theorem State.wflushIns_keeps {s0 : State} {s : State} (c : Nat) (word : Nat) (hs : Keeps s0 s) :
    Keeps s0 (State.wflushIns s c word) := by
  unfold State.wflushIns
  repeat' (first
    | (with_reducible assumption)
    | (with_reducible apply State.instr_keeps)
    | (with_reducible apply State.flushed_keeps)
    | (with_reducible apply State.next_keeps)
    | (intro _ _; (try beta_reduce))
    | (intro _; (try beta_reduce)))

theorem State.callExc_keeps {s0 : State} {s : State} (c : Nat) (fn : Nat) (code : Nat) (after : Bool) (hs : Keeps s0 s) :
    Keeps s0 (State.callExc s c fn code after) := by
  unfold State.callExc
  repeat' (first
    | (intro x; refine have_then (p := Keeps s0 x) ?_ ?_; (on_goal 2 => (intro hx; clear_value x)); (on_goal 1 => (subst x)))
    | (intro x; refine have_then (p := Keeps s0 x.1) ?_ ?_; (on_goal 2 => (intro hx; clear_value x)); (on_goal 1 => (subst x)))
    | (intro x; (have _y := (fun a => x a)); clear _y; subst x; (try beta_reduce))
    | (intro x; clear_value x)
    | (intro x; subst x)
    | lift_lets -underBinder
    | (with_reducible assumption)
    | (with_reducible apply State.addRf_keeps)
    | (with_reducible apply State.except_keeps)
    | (with_reducible apply State.instr_keeps)
    | split
    | (with_reducible refine keeps_fst (by with_reducible assumption) ?_)
    | (with_reducible refine keeps_snd (by with_reducible assumption) ?_)
    | (with_reducible refine Keeps.update ?_)
    | (intro _ _; (try beta_reduce))
    | (intro _; (try beta_reduce)))

theorem State.setOffer_keeps {s0 : State} {s : State} (c : Nat) (o : Option Nat) (hs : Keeps s0 s) :
    Keeps s0 (State.setOffer s c o) := by
  unfold State.setOffer
  repeat' (first
    | (intro x; refine have_then (p := Keeps s0 x) ?_ ?_; (on_goal 2 => (intro hx; clear_value x)); (on_goal 1 => (subst x)))
    | (intro x; refine have_then (p := Keeps s0 x.1) ?_ ?_; (on_goal 2 => (intro hx; clear_value x)); (on_goal 1 => (subst x)))
    | (intro x; (have _y := (fun a => x a)); clear _y; subst x; (try beta_reduce))
    | (intro x; clear_value x)
    | (intro x; subst x)
    | lift_lets -underBinder
    | (with_reducible assumption)
    | split
    | (with_reducible refine keeps_fst (by with_reducible assumption) ?_)
    | (with_reducible refine keeps_snd (by with_reducible assumption) ?_)
    | (with_reducible refine Keeps.update ?_)
    | (intro _ _; (try beta_reduce))
    | (intro _; (try beta_reduce)))

theorem State.commitOffer_keeps {s0 : State} {s : State} (c : Nat) (k : Nat) (hs : Keeps s0 s) :
    Keeps s0 (State.commitOffer s c k) := by
  unfold State.commitOffer
  repeat' (first
    | (intro x; refine have_then (p := Keeps s0 x) ?_ ?_; (on_goal 2 => (intro hx; clear_value x)); (on_goal 1 => (subst x)))
    | (intro x; refine have_then (p := Keeps s0 x.1) ?_ ?_; (on_goal 2 => (intro hx; clear_value x)); (on_goal 1 => (subst x)))
    | (intro x; (have _y := (fun a => x a)); clear _y; subst x; (try beta_reduce))
    | (intro x; clear_value x)
    | (intro x; subst x)
    | lift_lets -underBinder
    | (with_reducible assumption)
    | (with_reducible apply State.takeFree_keeps)
    | (with_reducible apply State.setRf_keeps)
    | (with_reducible apply State.takeFree_keeps)
    | (with_reducible apply State.setOffer_keeps)
    | split
    | (with_reducible refine keeps_fst (by with_reducible assumption) ?_)
    | (with_reducible refine keeps_snd (by with_reducible assumption) ?_)
    | (with_reducible refine Keeps.update ?_)
    | (intro _ _; (try beta_reduce))
    | (intro _; (try beta_reduce)))

theorem State.irqOffer_keeps {s0 : State} {s : State} (c : Nat) (hs : Keeps s0 s) :
    Keeps s0 (State.irqOffer s c) := by
  unfold State.irqOffer
  repeat' (first
    | (intro x; refine have_then (p := Keeps s0 x) ?_ ?_; (on_goal 2 => (intro hx; clear_value x)); (on_goal 1 => (subst x)))
    | (intro x; refine have_then (p := Keeps s0 x.1) ?_ ?_; (on_goal 2 => (intro hx; clear_value x)); (on_goal 1 => (subst x)))
    | (intro x; (have _y := (fun a => x a)); clear _y; subst x; (try beta_reduce))
    | (intro x; clear_value x)
    | (intro x; subst x)
    | lift_lets -underBinder
    | (with_reducible assumption)
    | (with_reducible apply State.takeFree_keeps)
    | (with_reducible apply State.setRf_keeps)
    | (with_reducible apply State.enter_keeps)
    | (with_reducible apply State.holdCal_keeps)
    | (with_reducible apply State.room_keeps)
    | (with_reducible apply State.setOffer_keeps)
    | (with_reducible apply State.commitOffer_keeps)
    | split
    | (with_reducible refine keeps_fst (by with_reducible assumption) ?_)
    | (with_reducible refine keeps_snd (by with_reducible assumption) ?_)
    | (with_reducible refine Keeps.update ?_)
    | (intro _ _; (try beta_reduce))
    | (intro _; (try beta_reduce)))

end Sys2Proof.Machine
end

