-- ==== Sys2Proof/Laws/KeepsPlacement.lean ====
section
/-!
SUPPORT. What the operations of Machine/Placement.lean keep.
-/
namespace Sys2Proof.Machine

theorem State.flushFrames_keeps {s0 : State} {s : State} (c : Nat) (hs : Keeps s0 s) :
    Keeps s0 (State.flushFrames s c) := by
  unfold State.flushFrames
  repeat' (first
    | (intro x; refine have_then (p := Keeps s0 x) ?_ ?_; (on_goal 2 => (intro hx; clear_value x)); (on_goal 1 => (subst x)))
    | (intro x; clear_value x)
    | (intro x; subst x)
    | lift_lets -underBinder
    | (with_reducible assumption)
    | (with_reducible apply State.resident_keeps)
    | (with_reducible apply State.setCal_keeps)
    | split
    | (with_reducible refine keeps_fst (by with_reducible assumption) ?_)
    | (with_reducible refine keeps_snd (by with_reducible assumption) ?_)
    | (with_reducible refine Keeps.update ?_))

theorem State.handOver_keeps {s0 : State} {s : State} (c : Nat) (hs : Keeps s0 s) :
    Keeps s0 (State.handOver s c) := by
  unfold State.handOver
  repeat' (first
    | (intro x; refine have_then (p := Keeps s0 x) ?_ ?_; (on_goal 2 => (intro hx; clear_value x)); (on_goal 1 => (subst x)))
    | (intro x; refine have_then (p := Keeps s0 x.1) ?_ ?_; (on_goal 2 => (intro hx; clear_value x)); (on_goal 1 => (subst x)))
    | (intro x; (have _y := (fun a => x a)); clear _y; subst x; (try beta_reduce))
    | (intro x; clear_value x)
    | (intro x; subst x)
    | lift_lets -underBinder
    | (with_reducible assumption)
    | (with_reducible apply State.setCal_keeps)
    | (with_reducible apply State.flushFrames_keeps)
    | split
    | (with_reducible refine keeps_fst (by with_reducible assumption) ?_)
    | (with_reducible refine keeps_snd (by with_reducible assumption) ?_)
    | (with_reducible refine Keeps.update ?_)
    | (intro _ _; (try beta_reduce))
    | (intro _; (try beta_reduce)))

theorem State.handedOver_keeps {s0 : State} {s : State} (c : Nat) (hs : Keeps s0 s) :
    Keeps s0 (State.handedOver s c) := by
  unfold State.handedOver
  repeat' (first
    | (intro x; refine have_then (p := Keeps s0 x) ?_ ?_; (on_goal 2 => (intro hx; clear_value x)); (on_goal 1 => (subst x)))
    | (intro x; refine have_then (p := Keeps s0 x.1) ?_ ?_; (on_goal 2 => (intro hx; clear_value x)); (on_goal 1 => (subst x)))
    | (intro x; (have _y := (fun a => x a)); clear _y; subst x; (try beta_reduce))
    | (intro x; clear_value x)
    | (intro x; subst x)
    | lift_lets -underBinder
    | (with_reducible assumption)
    | (with_reducible apply State.setCal_keeps)
    | (with_reducible apply State.calReport_keeps)
    | (with_reducible apply State.pollTrap_keeps)
    | split
    | (with_reducible refine keeps_fst (by with_reducible assumption) ?_)
    | (with_reducible refine keeps_snd (by with_reducible assumption) ?_)
    | (with_reducible refine Keeps.update ?_)
    | (intro _ _; (try beta_reduce))
    | (intro _; (try beta_reduce)))

theorem State.calMoved_keeps {s0 : State} {s : State} (c : Nat) (hs : Keeps s0 s) :
    Keeps s0 (State.calMoved s c) := by
  unfold State.calMoved
  repeat' (first
    | (intro x; refine have_then (p := Keeps s0 x) ?_ ?_; (on_goal 2 => (intro hx; clear_value x)); (on_goal 1 => (subst x)))
    | (intro x; refine have_then (p := Keeps s0 x.1) ?_ ?_; (on_goal 2 => (intro hx; clear_value x)); (on_goal 1 => (subst x)))
    | (intro x; (have _y := (fun a => x a)); clear _y; subst x; (try beta_reduce))
    | (intro x; clear_value x)
    | (intro x; subst x)
    | lift_lets -underBinder
    | (with_reducible assumption)
    | (with_reducible apply State.calReport_keeps)
    | (with_reducible apply State.fill_keeps)
    | (with_reducible apply State.setCal_keeps)
    | split
    | (with_reducible refine keeps_fst (by with_reducible assumption) ?_)
    | (with_reducible refine keeps_snd (by with_reducible assumption) ?_)
    | (with_reducible refine Keeps.update ?_)
    | (intro _ _; (try beta_reduce))
    | (intro _; (try beta_reduce)))

theorem State.callerSwap_keeps {s0 : State} {s : State} (pass : Bool) (dur : Nat) (hs : Keeps s0 s) :
    Keeps s0 (State.callerSwap s pass dur) := by
  unfold State.callerSwap
  repeat' (first
    | (intro x; refine have_then (p := Keeps s0 x) ?_ ?_; (on_goal 2 => (intro hx; clear_value x)); (on_goal 1 => (subst x)))
    | (intro x; refine have_then (p := Keeps s0 x.1) ?_ ?_; (on_goal 2 => (intro hx; clear_value x)); (on_goal 1 => (subst x)))
    | (intro x; (have _y := (fun a => x a)); clear _y; subst x; (try beta_reduce))
    | (intro x; clear_value x)
    | (intro x; subst x)
    | lift_lets -underBinder
    | (with_reducible assumption)
    | (with_reducible apply State.flushFrames_keeps)
    | (with_reducible apply State.moveRes_keeps)
    | (with_reducible apply State.satRf_keeps)
    | (with_reducible apply State.swapOne_keeps)
    | (with_reducible apply State.handOver_keeps)
    | (with_reducible apply State.handedOver_keeps)
    | (with_reducible apply State.calMoved_keeps)
    | split
    | (with_reducible refine keeps_fst (by with_reducible assumption) ?_)
    | (with_reducible refine keeps_snd (by with_reducible assumption) ?_)
    | (with_reducible refine Keeps.update ?_)
    | (intro _ _; (try beta_reduce))
    | (intro _; (try beta_reduce)))

theorem State.adopt_keeps {s0 : State} {s : State} (ps : List (Nat × Nat)) (hs : Keeps s0 s) :
    Keeps s0 (State.adopt s ps) := by
  unfold State.adopt
  repeat' (first
    | (intro x; refine have_then (p := Keeps s0 x) ?_ ?_; (on_goal 2 => (intro hx; clear_value x)); (on_goal 1 => (subst x)))
    | (intro x; (have _y := (fun a => x a)); clear _y; subst x; (try beta_reduce))
    | (intro x; clear_value x)
    | (intro x; subst x)
    | lift_lets -underBinder
    | (with_reducible assumption)
    | (with_reducible apply State.setRecOf_keeps)
    | (with_reducible refine keeps_foldl ?_ (fun _ _ _ => ?_))
    | split
    | (with_reducible refine keeps_fst (by with_reducible assumption) ?_)
    | (with_reducible refine keeps_snd (by with_reducible assumption) ?_)
    | (with_reducible refine Keeps.update ?_))

theorem State.placeCommit_keeps {s0 : State} {s : State} (hs : Keeps s0 s) :
    Keeps s0 (State.placeCommit s) := by
  unfold State.placeCommit
  repeat' (first
    | (intro x; refine have_then (p := Keeps s0 x) ?_ ?_; (on_goal 2 => (intro hx; clear_value x)); (on_goal 1 => (subst x)))
    | (intro x; refine have_then (p := Keeps s0 x.1) ?_ ?_; (on_goal 2 => (intro hx; clear_value x)); (on_goal 1 => (subst x)))
    | (intro x; (have _y := (fun a => x a)); clear _y; subst x; (try beta_reduce))
    | (intro x; clear_value x)
    | (intro x; subst x)
    | lift_lets -underBinder
    | (with_reducible assumption)
    | (with_reducible apply State.setRf_keeps)
    | (with_reducible apply State.flt_keeps)
    | (with_reducible apply State.setPhys_keeps)
    | (with_reducible apply State.noSpare_keeps)
    | (with_reducible apply State.adopt_keeps)
    | (with_reducible refine keeps_foldl ?_ (fun _ _ _ => ?_))
    | (with_reducible refine keeps_foldl1 ?_ (fun _ _ _ => ?_))
    | split
    | (with_reducible refine keeps_fst (by with_reducible assumption) ?_)
    | (with_reducible refine keeps_snd (by with_reducible assumption) ?_)
    | (with_reducible refine Keeps.update ?_)
    | (intro _ _; (try beta_reduce))
    | (intro _; (try beta_reduce)))

theorem State.exchange_keeps {s0 : State} {s : State} (j : Nat) (l : Nat) (hs : Keeps s0 s) :
    Keeps s0 (State.exchange s j l) := by
  unfold State.exchange
  repeat' (first
    | (intro x; refine have_then (p := Keeps s0 x) ?_ ?_; (on_goal 2 => (intro hx; clear_value x)); (on_goal 1 => (subst x)))
    | (intro x; clear_value x)
    | (intro x; subst x)
    | lift_lets -underBinder
    | (with_reducible assumption)
    | (with_reducible apply State.setPhys_keeps)
    | split
    | (with_reducible refine keeps_fst (by with_reducible assumption) ?_)
    | (with_reducible refine keeps_snd (by with_reducible assumption) ?_)
    | (with_reducible refine Keeps.update ?_))

theorem State.setMoves_keeps {s0 : State} {s : State} (ms : List (Nat × Nat)) (hs : Keeps s0 s) :
    Keeps s0 (State.setMoves s ms) := by
  unfold State.setMoves
  repeat' (first
    | (intro x; refine have_then (p := Keeps s0 x) ?_ ?_; (on_goal 2 => (intro hx; clear_value x)); (on_goal 1 => (subst x)))
    | (intro x; refine have_then (p := Keeps s0 x.1) ?_ ?_; (on_goal 2 => (intro hx; clear_value x)); (on_goal 1 => (subst x)))
    | (intro x; (have _y := (fun a => x a)); clear _y; subst x; (try beta_reduce))
    | (intro x; clear_value x)
    | (intro x; subst x)
    | lift_lets -underBinder
    | (with_reducible assumption)
    | split
    | (with_reducible refine keeps_fst (by with_reducible assumption) ?_)
    | (with_reducible refine keeps_snd (by with_reducible assumption) ?_)
    | (with_reducible refine Keeps.update ?_)
    | (intro _ _; (try beta_reduce))
    | (intro _; (try beta_reduce)))

theorem State.moveElse_keeps {s0 : State} {s : State} (j : Nat) (l : Nat) (rest : List (Nat × Nat)) (hs : Keeps s0 s) :
    Keeps s0 (State.moveElse s j l rest) := by
  unfold State.moveElse
  repeat' (first
    | (intro x; refine have_then (p := Keeps s0 x) ?_ ?_; (on_goal 2 => (intro hx; clear_value x)); (on_goal 1 => (subst x)))
    | (intro x; refine have_then (p := Keeps s0 x.1) ?_ ?_; (on_goal 2 => (intro hx; clear_value x)); (on_goal 1 => (subst x)))
    | (intro x; (have _y := (fun a => x a)); clear _y; subst x; (try beta_reduce))
    | (intro x; clear_value x)
    | (intro x; subst x)
    | lift_lets -underBinder
    | (with_reducible assumption)
    | (with_reducible apply State.setRecOf_keeps)
    | (with_reducible apply State.noSpare_keeps)
    | (with_reducible apply State.setMoves_keeps)
    | split
    | (with_reducible refine keeps_fst (by with_reducible assumption) ?_)
    | (with_reducible refine keeps_snd (by with_reducible assumption) ?_)
    | (with_reducible refine Keeps.update ?_)
    | (intro _ _; (try beta_reduce))
    | (intro _; (try beta_reduce)))

theorem State.movesEnd_keeps {s0 : State} {s : State} (hs : Keeps s0 s) :
    Keeps s0 (State.movesEnd s) := by
  unfold State.movesEnd
  repeat' (first
    | (intro x; refine have_then (p := Keeps s0 x) ?_ ?_; (on_goal 2 => (intro hx; clear_value x)); (on_goal 1 => (subst x)))
    | (intro x; refine have_then (p := Keeps s0 x.1) ?_ ?_; (on_goal 2 => (intro hx; clear_value x)); (on_goal 1 => (subst x)))
    | (intro x; (have _y := (fun a => x a)); clear _y; subst x; (try beta_reduce))
    | (intro x; clear_value x)
    | (intro x; subst x)
    | lift_lets -underBinder
    | (with_reducible assumption)
    | (with_reducible apply State.setRf_keeps)
    | (with_reducible apply State.applyDomains_keeps)
    | split
    | (with_reducible refine keeps_fst (by with_reducible assumption) ?_)
    | (with_reducible refine keeps_snd (by with_reducible assumption) ?_)
    | (with_reducible refine Keeps.update ?_)
    | (intro _ _; (try beta_reduce))
    | (intro _; (try beta_reduce)))

theorem State.onBoth_keeps {s0 : State} {s : State} (f : State → Nat → State) (l m : Nat) (hs : Keeps s0 s)
    (hf : ∀ s i, Keeps s0 s → Keeps s0 (f s i)) : Keeps s0 (s.onBoth f l m) := by
  unfold State.onBoth
  split
  · exact hf _ _ hs
  · exact hf _ _ (hf _ _ hs)

theorem State.moveTested_keeps {s0 : State} {s : State} (j l : Nat) (rest : List (Nat × Nat)) (go fin : State → State)
    (hs : Keeps s0 s) (hgo : ∀ s, Keeps s0 s → Keeps s0 (go s)) (hfin : ∀ s, Keeps s0 s → Keeps s0 (fin s)) :
    Keeps s0 (s.moveTested j l rest go fin) := by
  unfold State.moveTested
  split
  · exact State.movesEnd_keeps (hfin _ (State.moveElse_keeps _ _ _
      (State.flt_keeps _ (State.setRecOf_keeps _ _ (State.setPhys_keeps _ _ hs)))))
  · exact State.movesEnd_keeps (State.setMoves_keeps _ (hfin _ (hgo _ hs)))

theorem State.placementMove_keeps {s0 : State} {s : State} (hs : Keeps s0 s) :
    Keeps s0 (State.placementMove s) := by
  unfold State.placementMove
  split
  · next j l rest _ _ =>
    have hx : ∀ s, Keeps s0 s → Keeps s0 (s.exchange j l) := fun s h => State.exchange_keeps _ _ h
    have both := @State.onBoth_keeps s0
    dsimp only
    split
    · exact hs
    · split
      · exact State.movesEnd_keeps (State.moveElse_keeps _ _ _ hs)
      · split
        · have hp := both State.parkEngine l (s.phys j).logical hs fun s i h => State.parkEngine_keeps i h
          split
          · exact hs
          · exact State.moveTested_keeps _ _ _ _ _ hp hx fun s h =>
              both State.resumeEngine l _ h fun s i h => State.resumeEngine_keeps i h
        · have hp := both State.handOver l (s.phys j).logical hs fun s i h => State.handOver_keeps i h
          split
          · exact hp
          · exact State.movesEnd_keeps (both State.handedOver _ _ (State.setMoves_keeps _
              (both State.calMoved _ _ (hx _ hp) fun s i h => State.calMoved_keeps i h)) fun s i h => State.handedOver_keeps i h)
        · exact State.moveTested_keeps _ _ _ _ _ hs hx fun s h => h
        · exact State.movesEnd_keeps (State.setMoves_keeps _ (hx _ hs))
  · exact hs

theorem State.commitApplied_keeps {s0 : State} {s : State} (hs : Keeps s0 s) : Keeps s0 s.commitApplied := by
  unfold State.commitApplied
  split
  · have h := State.addRf_keeps rCfgStatus fCfgStatusCommits 1 (State.setRf_keeps rCfgStatus fCfgStatusApplying 0 hs)
    have u {x : State} (h : Keeps s0 x) : Keeps s0 { x with cfg := { x.cfg with run := none } } :=
      h.update
    have h := u h
    exact ite_keeps (State.refitEnd_keeps h) (ite_keeps (State.placeCommit_keeps h) h)
  · exact hs

end Sys2Proof.Machine
end

