-- ==== Sys2Proof/Laws/KeepsBoot.lean ====
section
/-!
SUPPORT. What the operations of Machine/Boot.lean keep.
-/
namespace Sys2Proof.Machine

theorem State.bootWrites_keeps {s0 : State} {l : List (Nat × Word)} {s t : State} (e : s.bootWrites l = some t)
    (hs : Keeps s0 s) : Keeps s0 t := by
  induction l generalizing s with
  | nil => cases e; exact hs
  | cons x l ih =>
    unfold State.bootWrites at e
    obtain ⟨u, hu, e⟩ := Option.bind_eq_some_iff.mp e
    exact ih e (State.regWrite_keeps _ _ _ _ hu hs)

theorem State.setBoot_keeps {s0 : State} {s : State} (b : BootSt) (hs : Keeps s0 s) : Keeps s0 (State.setBoot s b) := by
  unfold State.setBoot
  repeat' (first
    | (with_reducible assumption)
    | (with_reducible refine Keeps.update ?_))

theorem State.bootGo_keeps {s0 : State} {s : State} (b : BootSt) (ws : List (Nat × Word)) (hs : Keeps s0 s) :
    Keeps s0 (State.bootGo s b ws) := by
  unfold State.bootGo
  repeat' (first
    | (intro x; refine have_then (p := Keeps s0 x) ?_ ?_; (on_goal 2 => (intro hx; clear_value x)); (on_goal 1 => (subst x)))
    | (intro x; refine have_then (p := Keeps s0 x.1) ?_ ?_; (on_goal 2 => (intro hx; clear_value x)); (on_goal 1 => (subst x)))
    | (intro x; (have _y := (fun a => x a)); clear _y; subst x; (try beta_reduce))
    | (intro x; clear_value x)
    | (intro x; subst x)
    | lift_lets -underBinder
    | (with_reducible assumption)
    | (with_reducible refine State.bootWrites_keeps (by with_reducible assumption) ?_)
    | (with_reducible apply State.setBoot_keeps)
    | split
    | (with_reducible refine keeps_fst (by with_reducible assumption) ?_)
    | (with_reducible refine keeps_snd (by with_reducible assumption) ?_)
    | (with_reducible refine Keeps.update ?_))

theorem State.bootDone_keeps {s0 : State} {s : State} (src : Nat) (ws : List (Nat × Word)) (hs : Keeps s0 s) :
    Keeps s0 (State.bootDone s src ws) := by
  unfold State.bootDone
  repeat' (first
    | (intro x; refine have_then (p := Keeps s0 x) ?_ ?_; (on_goal 2 => (intro hx; clear_value x)); (on_goal 1 => (subst x)))
    | (intro x; refine have_then (p := Keeps s0 x.1) ?_ ?_; (on_goal 2 => (intro hx; clear_value x)); (on_goal 1 => (subst x)))
    | (intro x; (have _y := (fun a => x a)); clear _y; subst x; (try beta_reduce))
    | (intro x; clear_value x)
    | (intro x; subst x)
    | lift_lets -underBinder
    | (with_reducible assumption)
    | (with_reducible apply State.setCal_keeps)
    | (with_reducible refine State.bootWrites_keeps (by with_reducible assumption) ?_)
    | (with_reducible apply State.setBoot_keeps)
    | split
    | (with_reducible refine keeps_fst (by with_reducible assumption) ?_)
    | (with_reducible refine keeps_snd (by with_reducible assumption) ?_)
    | (with_reducible refine Keeps.update ?_))

theorem State.bootFault_keeps {s0 : State} {s : State} (e : MErr) (a : Nat) (hs : Keeps s0 s) :
    Keeps s0 (State.bootFault s e a) := by
  unfold State.bootFault
  repeat' (first
    | (with_reducible assumption)
    | (with_reducible apply State.except_keeps)
    | (with_reducible apply State.setBoot_keeps))

theorem State.bootPoll_keeps {s0 : State} {s : State} (hs : Keeps s0 s) : Keeps s0 (State.bootPoll s) := by
  unfold State.bootPoll
  repeat' (first
    | (intro x; refine have_then (p := Keeps s0 x) ?_ ?_; (on_goal 2 => (intro hx; clear_value x)); (on_goal 1 => (subst x)))
    | (intro x; refine have_then (p := Keeps s0 x.1) ?_ ?_; (on_goal 2 => (intro hx; clear_value x)); (on_goal 1 => (subst x)))
    | (intro x; (have _y := (fun a => x a)); clear _y; subst x; (try beta_reduce))
    | (intro x; clear_value x)
    | (intro x; subst x)
    | lift_lets -underBinder
    | (with_reducible assumption)
    | (with_reducible apply State.storeBytes_keeps)
    | (with_reducible apply State.readMem_keeps)
    | (with_reducible apply State.take_keeps)
    | (with_reducible apply State.bootDone_keeps)
    | (with_reducible apply State.bootFault_keeps)
    | split
    | (with_reducible refine keeps_fst (by with_reducible assumption) ?_)
    | (with_reducible refine keeps_snd (by with_reducible assumption) ?_)
    | (with_reducible refine Keeps.update ?_))

theorem State.bootStep_keeps {s0 : State} {s : State} (hs : Keeps s0 s) : Keeps s0 (State.bootStep s) := by
  unfold State.bootStep
  repeat' (first
    | (intro x; refine have_then (p := Keeps s0 x) ?_ ?_; (on_goal 2 => (intro hx; clear_value x)); (on_goal 1 => (subst x)))
    | (intro x; refine have_then (p := Keeps s0 x.1) ?_ ?_; (on_goal 2 => (intro hx; clear_value x)); (on_goal 1 => (subst x)))
    | (intro x; (have _y := (fun a => x a)); clear _y; subst x; (try beta_reduce))
    | (intro x; clear_value x)
    | (intro x; subst x)
    | lift_lets -underBinder
    | (with_reducible assumption)
    | (with_reducible apply State.setCal_keeps)
    | (with_reducible apply State.next_keeps)
    | (with_reducible refine State.bootWrites_keeps (by with_reducible assumption) ?_)
    | (with_reducible apply State.setBoot_keeps)
    | (with_reducible apply State.bootGo_keeps)
    | (with_reducible apply State.bootDone_keeps)
    | (with_reducible apply State.bootPoll_keeps)
    | split
    | (with_reducible refine keeps_fst (by with_reducible assumption) ?_)
    | (with_reducible refine keeps_snd (by with_reducible assumption) ?_)
    | (with_reducible refine Keeps.update ?_))

end Sys2Proof.Machine
end

