-- ==== Sys2Proof/Laws/KeepsPins.lean ====
section
/-!
SUPPORT. What the operations of Machine/Pins.lean keep.
-/
namespace Sys2Proof.Machine

theorem State.setClock_keeps {s0 : State} {s : State} (on : Bool) (hs : Keeps s0 s) :
    Keeps s0 (State.setClock s on) := by
  unfold State.setClock
  repeat' (first
    | (with_reducible assumption)
    | (with_reducible apply State.setCus_keeps)
    | (with_reducible refine Keeps.update ?_))

theorem State.ptpTick_keeps {s0 : State} {s : State} (p : Nat) (hs : Keeps s0 s) :
    Keeps s0 (State.ptpTick s p) := by
  unfold State.ptpTick
  repeat' (first
    | (with_reducible assumption)
    | (with_reducible apply State.setReg_keeps)
    | split
    | (with_reducible refine keeps_fst (by with_reducible assumption) ?_)
    | (with_reducible refine keeps_snd (by with_reducible assumption) ?_))

/-- A microsecond that counts: time and beats go on, and everything else is as `Keeps` says. -/
theorem State.tick_keeps {s : State} (h : (!s.cus.clock || !s.cus.aon) = false) :
    Keeps { s with beats := s.beats + Config.beatsIn s.time, time := s.time + 1 } s.tick := by
  unfold State.tick
  rw [if_neg (by simp [h])]
  refine State.hostBar2_keeps (State.bootStep_keeps (keeps_foldl (keeps_foldl ?_ fun s q h => State.wdTick_keeps q h)
    fun s p h => State.ptpTick_keeps p h))
  exact Keeps.update (Keeps.refl _)

theorem State.tick_stopped {s : State} (h : (!s.cus.clock || !s.cus.aon) = true) : s.tick = s := by
  unfold State.tick
  rw [if_pos h]

theorem State.setTap_keeps {s0 : State} {s : State} (x : TapSt) (hs : Keeps s0 s) :
    Keeps s0 (State.setTap s x) := by
  unfold State.setTap
  repeat' (first
    | (with_reducible assumption)
    | (with_reducible apply State.setCus_keeps)
    | (with_reducible refine Keeps.update ?_))

theorem State.tapLoad_keeps {s0 : State} {s : State} (ir : Nat) (hs : Keeps s0 s) :
    Keeps s0 (State.tapLoad s ir) := by
  unfold State.tapLoad
  repeat' (first
    | (intro x; refine have_then (p := Keeps s0 x) ?_ ?_; (on_goal 2 => (intro hx; clear_value x)); (on_goal 1 => (subst x)))
    | (intro x; clear_value x)
    | (intro x; subst x)
    | lift_lets -underBinder
    | (with_reducible assumption)
    | (with_reducible apply State.setTap_keeps)
    | split
    | (with_reducible refine keeps_fst (by with_reducible assumption) ?_)
    | (with_reducible refine keeps_snd (by with_reducible assumption) ?_)
    | (with_reducible refine Keeps.update ?_))

theorem State.tapSample_keeps {s0 : State} {s : State} (pins : Word) (hs : Keeps s0 s) :
    Keeps s0 (State.tapSample s pins) := by
  unfold State.tapSample
  repeat' (first
    | (intro x; refine have_then (p := Keeps s0 x) ?_ ?_; (on_goal 2 => (intro hx; clear_value x)); (on_goal 1 => (subst x)))
    | (intro x; clear_value x)
    | (intro x; subst x)
    | lift_lets -underBinder
    | (with_reducible assumption)
    | (with_reducible apply State.takeFree_keeps)
    | (with_reducible apply State.setTap_keeps)
    | split
    | (with_reducible refine keeps_fst (by with_reducible assumption) ?_)
    | (with_reducible refine keeps_snd (by with_reducible assumption) ?_)
    | (with_reducible refine Keeps.update ?_))

theorem State.tapReset_keeps {s0 : State} {s : State} (low : Bool) (hs : Keeps s0 s) :
    Keeps s0 (State.tapReset s low) := by
  unfold State.tapReset
  repeat' (first
    | (intro x; refine have_then (p := Keeps s0 x) ?_ ?_; (on_goal 2 => (intro hx; clear_value x)); (on_goal 1 => (subst x)))
    | (intro x; clear_value x)
    | (intro x; subst x)
    | lift_lets -underBinder
    | (with_reducible assumption)
    | (with_reducible apply State.setTap_keeps)
    | split
    | (with_reducible refine keeps_fst (by with_reducible assumption) ?_)
    | (with_reducible refine keeps_snd (by with_reducible assumption) ?_)
    | (with_reducible refine Keeps.update ?_))

end Sys2Proof.Machine
end

