-- ==== Sys2Proof/Laws/KeepsCmdConfig.lean ====
section
/-!
SUPPORT. What the operations of Machine/CmdConfig.lean keep.
-/
namespace Sys2Proof.Machine

theorem State.addrWrite_keeps {s0 : State} {s : State} (m : Master) (a : Nat) (size : Nat) (v : Word) (hs : Keeps s0 s) :
    Keeps s0 (State.addrWrite s m a size v) := by
  unfold State.addrWrite
  repeat' (first
    | (with_reducible assumption)
    | (with_reducible apply State.write_keeps)
    | split
    | (with_reducible refine keeps_fst (by with_reducible assumption) ?_)
    | (with_reducible refine keeps_snd (by with_reducible assumption) ?_))

end Sys2Proof.Machine
end

