-- ==== Sys2Proof/Laws/KeepsCmdHost.lean ====
section
/-!
SUPPORT. What the operations of Machine/CmdHost.lean keep.
-/
namespace Sys2Proof.Machine

theorem State.hostTimeout_keeps {s0 : State} {s : State} (who : HostReader) (hs : Keeps s0 s) :
    Keeps s0 (s.hostTimeout who) := by
  cases who with
  | caller c => exact State.loadTimeout_keeps _ hs
  | engine e w => exact State.engTimeout_keeps _ hs
  | desc f n i => exact State.descTimeout_keeps _ _ _ hs

end Sys2Proof.Machine
end

