-- ==== Sys2Proof/Laws/KeepsCmdMemory.lean ====
section
/-!
SUPPORT. What the operations of Machine/CmdMemory.lean keep.
-/
namespace Sys2Proof.Machine

theorem State.refreshBank_keeps {s0 : State} {s : State} (_pc : Nat) (_bank : Nat) (hs : Keeps s0 s) :
    Keeps s0 (State.refreshBank s _pc _bank) := by
  unfold State.refreshBank
  repeat' (first
    | (with_reducible assumption))

end Sys2Proof.Machine
end

