-- ==== Sys2Proof/Laws/KeepsCmdUnderstudy.lean ====
section
/-!
SUPPORT. What the operations of Machine/CmdUnderstudy.lean keep.
-/
namespace Sys2Proof.Machine

theorem State.swapDone_keeps {s0 : State} {s : State} (hs : Keeps s0 s) :
    Keeps s0 (State.swapDone s) := by
  unfold State.swapDone
  repeat' (first
    | (with_reducible assumption)
    | (with_reducible apply State.pollCurtain_keeps)
    | (with_reducible apply State.applyDomains_keeps))

end Sys2Proof.Machine
end

