-- ==== Sys2Proof/Laws/ExecArchive.lean ====
section
/-!
SUPPORT. What the commands of Machine/CmdArchive.lean keep: each answers a next state that `Keeps` relates to the state before.
-/
namespace Sys2Proof.Machine

theorem execRecordOpen_keeps (e : BitVec 4) (w : World) (s : State) :
    ∃ out, Sys2Proof.Machine.execRecordOpen e w s = .next out ∧ Keeps s out := by
  refine ⟨_, rfl, ?_⟩
  repeat' (first
    | (with_reducible exact Keeps.refl _)
    | (with_reducible assumption)
    | (with_reducible apply State.next_keeps)
    | (with_reducible apply State.recordOpen_keeps))

theorem execFolioProgramDone_keeps (w : World) (target : BitVec 6) (upTo : Nat) (pass : Bool) (s : State) :
    ∃ out, Sys2Proof.Machine.execFolioProgramDone w target upTo pass s = .next out ∧ Keeps s out := by
  refine ⟨_, rfl, ?_⟩
  repeat' (first
    | (with_reducible exact Keeps.refl _)
    | (with_reducible assumption)
    | (with_reducible apply State.next_keeps)
    | (with_reducible apply State.folioDone_keeps))

theorem execEraseDone_keeps (target : BitVec 6) (pass : Bool) (s : State) :
    ∃ out, Sys2Proof.Machine.execEraseDone target pass s = .next out ∧ Keeps s out := by
  refine ⟨_, rfl, ?_⟩
  repeat' (first
    | (with_reducible exact Keeps.refl _)
    | (with_reducible assumption)
    | (with_reducible apply State.next_keeps)
    | (with_reducible apply State.eraseDone_keeps))

theorem execNandReadDone_keeps (w : World) (target : BitVec 6) (pos : Nat) (stage : NandStage) (s : State) :
    ∃ out, Sys2Proof.Machine.execNandReadDone w target pos stage s = .next out ∧ Keeps s out := by
  refine ⟨_, rfl, ?_⟩
  repeat' (first
    | (with_reducible exact Keeps.refl _)
    | (with_reducible assumption)
    | (with_reducible apply State.next_keeps)
    | (with_reducible apply State.nandRead_keeps)
    | (with_reducible apply State.stage_keeps))

theorem execColophonTimer_keeps (s : State) :
    ∃ out, Sys2Proof.Machine.execColophonTimer s = .next out ∧ Keeps s out := by
  refine ⟨_, rfl, ?_⟩
  repeat' (first
    | (with_reducible exact Keeps.refl _)
    | (with_reducible assumption)
    | (with_reducible apply State.next_keeps)
    | (with_reducible apply State.colophonTimer_keeps))

theorem execColophonPageProgrammed_keeps (w : World) (pass : Bool) (s : State) :
    ∃ out, Sys2Proof.Machine.execColophonPageProgrammed w pass s = .next out ∧ Keeps s out := by
  refine ⟨_, rfl, ?_⟩
  repeat' (first
    | (with_reducible exact Keeps.refl _)
    | (with_reducible assumption)
    | (with_reducible apply State.next_keeps)
    | (with_reducible apply State.colophonDone_keeps))

theorem execFolioAgeExpiry_keeps (w : World) (target : BitVec 6) (pos : Nat) (s : State) :
    ∃ out, Sys2Proof.Machine.execFolioAgeExpiry w target pos s = .next out ∧ Keeps s out := by
  refine ⟨_, rfl, ?_⟩
  repeat' (first
    | (with_reducible exact Keeps.refl _)
    | (with_reducible assumption)
    | (with_reducible apply State.next_keeps)
    | (with_reducible apply State.folioAge_keeps))

theorem execRetentionLate_keeps (w : World) (target : BitVec 6) (pos : Nat) (s : State) :
    ∃ out, Sys2Proof.Machine.execRetentionLate w target pos s = .next out ∧ Keeps s out := by
  refine ⟨_, rfl, ?_⟩
  repeat' (first
    | (with_reducible exact Keeps.refl _)
    | (with_reducible assumption)
    | (with_reducible apply State.next_keeps)
    | (with_reducible apply State.retentionLate_keeps))

theorem execMapCheckpoint_keeps (s : State) :
    ∃ out, Sys2Proof.Machine.execMapCheckpoint s = .next out ∧ Keeps s out := by
  refine ⟨_, rfl, ?_⟩
  repeat' (first
    | (with_reducible exact Keeps.refl _)
    | (with_reducible assumption)
    | (with_reducible apply State.next_keeps)
    | (with_reducible apply State.mapCheckpoint_keeps))

theorem execArcWaitLimit_keeps (e : BitVec 4) (w : World) (s : State) :
    ∃ out, Sys2Proof.Machine.execArcWaitLimit e w s = .next out ∧ Keeps s out := by
  refine ⟨_, rfl, ?_⟩
  repeat' (first
    | (with_reducible exact Keeps.refl _)
    | (with_reducible assumption)
    | (with_reducible apply State.next_keeps)
    | (with_reducible apply State.arcWaitLimit_keeps))

theorem execArcRelease_keeps (m : Master) (w : World) (below : BitVec 47) (s : State) :
    ∃ out, Sys2Proof.Machine.execArcRelease m w below s = .next out ∧ Keeps s out := by
  refine ⟨_, rfl, ?_⟩
  repeat' (first
    | (with_reducible exact Keeps.refl _)
    | (with_reducible assumption)
    | (with_reducible apply State.next_keeps)
    | (with_reducible apply State.write_keeps))

theorem execArcAudit_keeps (m : Master) (count : BitVec 32) (unit : BitVec 3) (s : State) :
    ∃ out, Sys2Proof.Machine.execArcAudit m count unit s = .next out ∧ Keeps s out := by
  refine ⟨_, rfl, ?_⟩
  repeat' (first
    | (with_reducible exact Keeps.refl _)
    | (with_reducible assumption)
    | (with_reducible apply State.next_keeps)
    | (with_reducible apply State.write_keeps))

theorem execAuditEnd_keeps (s : State) :
    ∃ out, Sys2Proof.Machine.execAuditEnd s = .next out ∧ Keeps s out := by
  refine ⟨_, rfl, ?_⟩
  repeat' (first
    | (with_reducible exact Keeps.refl _)
    | (with_reducible assumption)
    | (with_reducible apply State.next_keeps)
    | (with_reducible apply State.auditEnd_keeps))

theorem execBootctl_keeps (m : Master) (length : BitVec 23) (copy : Bool) (s : State) :
    ∃ out, Sys2Proof.Machine.execBootctl m length copy s = .next out ∧ Keeps s out := by
  refine ⟨_, rfl, ?_⟩
  repeat' (first
    | (with_reducible exact Keeps.refl _)
    | (with_reducible assumption)
    | (with_reducible apply State.next_keeps)
    | (with_reducible apply State.write_keeps))

theorem execBootStoreDone_keeps (pass : Bool) (s : State) :
    ∃ out, Sys2Proof.Machine.execBootStoreDone pass s = .next out ∧ Keeps s out := by
  refine ⟨_, rfl, ?_⟩
  repeat' (first
    | (with_reducible exact Keeps.refl _)
    | (with_reducible assumption)
    | (with_reducible apply State.next_keeps)
    | (with_reducible apply State.bootStoreDone_keeps))

theorem execArchiveRecovery_keeps (s : State) :
    ∃ out, Sys2Proof.Machine.execArchiveRecovery s = .next out ∧ Keeps s out := by
  refine ⟨_, rfl, ?_⟩
  repeat' (first
    | (with_reducible exact Keeps.refl _)
    | (with_reducible assumption)
    | (with_reducible apply State.next_keeps)
    | (with_reducible apply State.arcRecovery_keeps))

theorem execRecoveryDone_keeps (ms : BitVec 16) (s : State) :
    ∃ out, Sys2Proof.Machine.execRecoveryDone ms s = .next out ∧ Keeps s out := by
  refine ⟨_, rfl, ?_⟩
  repeat' (first
    | (with_reducible exact Keeps.refl _)
    | (with_reducible assumption)
    | (with_reducible apply State.next_keeps)
    | (with_reducible apply State.arcRecovered_keeps))

theorem execFlushFinalColophon_keeps (s : State) :
    ∃ out, Sys2Proof.Machine.execFlushFinalColophon s = .next out ∧ Keeps s out := by
  refine ⟨_, rfl, ?_⟩
  repeat' (first
    | (with_reducible exact Keeps.refl _)
    | (with_reducible assumption)
    | (with_reducible apply State.next_keeps)
    | (with_reducible apply State.flushFinal_keeps))

theorem execFlushEnd_keeps (s : State) :
    ∃ out, Sys2Proof.Machine.execFlushEnd s = .next out ∧ Keeps s out := by
  refine ⟨_, rfl, ?_⟩
  repeat' (first
    | (with_reducible exact Keeps.refl _)
    | (with_reducible assumption)
    | (with_reducible apply State.next_keeps)
    | (with_reducible apply State.flushEnd_keeps))

end Sys2Proof.Machine
end

