-- ==== Sys2Proof/Laws/ExecCaller.lean ====
section
/-!
SUPPORT. What the commands of Machine/CmdCaller.lean keep: each answers a next state that `Keeps` relates to the state before.
-/
namespace Sys2Proof.Machine

theorem execLoadResponse_keeps (c : BitVec 3) (reply : LoadReply) (s : State) :
    ∃ out, Sys2Proof.Machine.execLoadResponse c reply s = .next out ∧ Keeps s out := by
  refine ⟨_, rfl, ?_⟩
  repeat' (first
    | (with_reducible exact Keeps.refl _)
    | (with_reducible assumption)
    | (with_reducible apply State.next_keeps)
    | (with_reducible apply State.loadResponse_keeps))

theorem execStoreDrain_keeps (c : BitVec 3) (s : State) :
    ∃ out, Sys2Proof.Machine.execStoreDrain c s = .next out ∧ Keeps s out := by
  refine ⟨_, rfl, ?_⟩
  repeat' (first
    | (with_reducible exact Keeps.refl _)
    | (with_reducible assumption)
    | (with_reducible apply State.next_keeps)
    | (with_reducible apply State.storeDrain_keeps))

theorem execStoreResponse_keeps (c : BitVec 3) (err : Bool) (s : State) :
    ∃ out, Sys2Proof.Machine.execStoreResponse c err s = .next out ∧ Keeps s out := by
  refine ⟨_, rfl, ?_⟩
  repeat' (first
    | (with_reducible exact Keeps.refl _)
    | (with_reducible assumption)
    | (with_reducible apply State.next_keeps)
    | (with_reducible apply State.storeResponse_keeps))

theorem execLongOpRetire_keeps (c : BitVec 3) (i : BitVec 5) (s : State) :
    ∃ out, Sys2Proof.Machine.execLongOpRetire c i s = .next out ∧ Keeps s out := by
  refine ⟨_, rfl, ?_⟩
  repeat' (first
    | (with_reducible exact Keeps.refl _)
    | (with_reducible assumption)
    | (with_reducible apply State.next_keeps)
    | (with_reducible apply State.longRetire_keeps))

theorem execSpill_keeps (c : BitVec 3) (s : State) :
    ∃ out, Sys2Proof.Machine.execSpill c s = .next out ∧ Keeps s out := by
  refine ⟨_, rfl, ?_⟩
  repeat' (first
    | (with_reducible exact Keeps.refl _)
    | (with_reducible assumption)
    | (with_reducible apply State.next_keeps)
    | (with_reducible apply State.spill_keeps))

theorem execRefill_keeps (c : BitVec 3) (s : State) :
    ∃ out, Sys2Proof.Machine.execRefill c s = .next out ∧ Keeps s out := by
  refine ⟨_, rfl, ?_⟩
  repeat' (first
    | (with_reducible exact Keeps.refl _)
    | (with_reducible assumption)
    | (with_reducible apply State.next_keeps)
    | (with_reducible apply State.refill_keeps))

theorem execTableReloadDone_keeps (c : BitVec 3) (t : SaveSet) (s : State) :
    ∃ out, Sys2Proof.Machine.execTableReloadDone c t s = .next out ∧ Keeps s out := by
  refine ⟨_, rfl, ?_⟩
  repeat' (first
    | (with_reducible exact Keeps.refl _)
    | (with_reducible assumption)
    | (with_reducible apply State.next_keeps)
    | (with_reducible apply State.tableReload_keeps))

theorem execCalWorldWrite_keeps (m : Master) (c : BitVec 3) (w : World) (s : State) :
    ∃ out, Sys2Proof.Machine.execCalWorldWrite m c w s = .next out ∧ Keeps s out := by
  refine ⟨_, rfl, ?_⟩
  repeat' (first
    | (with_reducible exact Keeps.refl _)
    | (with_reducible assumption)
    | (with_reducible apply State.next_keeps)
    | (with_reducible apply State.write_keeps))

theorem execWsbaseWrite_keeps (m : Master) (c : BitVec 3) (v : Word) (s : State) :
    ∃ out, Sys2Proof.Machine.execWsbaseWrite m c v s = .next out ∧ Keeps s out := by
  refine ⟨_, rfl, ?_⟩
  repeat' (first
    | (with_reducible exact Keeps.refl _)
    | (with_reducible assumption)
    | (with_reducible apply State.next_keeps)
    | (with_reducible apply State.write_keeps))

theorem execCalRestart_keeps (m : Master) (c : BitVec 3) (addr : Addr) (s : State) :
    ∃ out, Sys2Proof.Machine.execCalRestart m c addr s = .next out ∧ Keeps s out := by
  refine ⟨_, rfl, ?_⟩
  repeat' (first
    | (with_reducible exact Keeps.refl _)
    | (with_reducible assumption)
    | (with_reducible apply State.next_keeps)
    | (with_reducible apply State.write_keeps))

theorem execInterruptOffer_keeps (c : BitVec 3) (s : State) :
    ∃ out, Sys2Proof.Machine.execInterruptOffer c s = .next out ∧ Keeps s out := by
  refine ⟨_, rfl, ?_⟩
  repeat' (first
    | (with_reducible exact Keeps.refl _)
    | (with_reducible assumption)
    | (with_reducible apply State.next_keeps)
    | (with_reducible apply State.irqOffer_keeps))

theorem execSrcstatPendWrite_keeps (m : Master) (src : BitVec 9) (s : State) :
    ∃ out, Sys2Proof.Machine.execSrcstatPendWrite m src s = .next out ∧ Keeps s out := by
  refine ⟨_, rfl, ?_⟩
  repeat' (first
    | (with_reducible exact Keeps.refl _)
    | (with_reducible assumption)
    | (with_reducible apply State.next_keeps)
    | (with_reducible apply State.write_keeps))

theorem execEoi_keeps (m : Master) (src : BitVec 9) (s : State) :
    ∃ out, Sys2Proof.Machine.execEoi m src s = .next out ∧ Keeps s out := by
  refine ⟨_, rfl, ?_⟩
  repeat' (first
    | (with_reducible exact Keeps.refl _)
    | (with_reducible assumption)
    | (with_reducible apply State.next_keeps)
    | (with_reducible apply State.write_keeps))

end Sys2Proof.Machine
end

