-- ==== Sys2Proof/Laws/ExecConfig.lean ====
section
/-!
SUPPORT. What the commands of Machine/CmdConfig.lean keep: each answers a next state that `Keeps` relates to the state before.
-/
namespace Sys2Proof.Machine

theorem execRegisterWrite_keeps (m : Master) (addr : Addr) (size : Nat) (v : Word) (s : State) :
    ∃ out, Sys2Proof.Machine.execRegisterWrite m addr size v s = .next out ∧ Keeps s out := by
  refine ⟨_, rfl, ?_⟩
  repeat' (first
    | (with_reducible exact Keeps.refl _)
    | (with_reducible assumption)
    | (with_reducible apply State.next_keeps)
    | (with_reducible apply State.addrWrite_keeps))

theorem execClamplogRead_keeps (m : Master) (s : State) :
    ∃ out, Sys2Proof.Machine.execClamplogRead m s = .next out ∧ Keeps s out := by
  refine ⟨_, rfl, ?_⟩
  repeat' (first
    | (with_reducible exact Keeps.refl _)
    | (with_reducible assumption)
    | (with_reducible apply State.next_keeps)
    | (with_reducible apply State.regRead_keeps))

theorem execEngRejectRead_keeps (m : Master) (e : BitVec 4) (w : World) (s : State) :
    ∃ out, Sys2Proof.Machine.execEngRejectRead m e w s = .next out ∧ Keeps s out := by
  refine ⟨_, rfl, ?_⟩
  repeat' (first
    | (with_reducible exact Keeps.refl _)
    | (with_reducible assumption)
    | (with_reducible apply State.next_keeps)
    | (with_reducible apply State.regRead_keeps))

theorem execEngCplerrRead_keeps (m : Master) (e : BitVec 4) (w : World) (s : State) :
    ∃ out, Sys2Proof.Machine.execEngCplerrRead m e w s = .next out ∧ Keeps s out := by
  refine ⟨_, rfl, ?_⟩
  repeat' (first
    | (with_reducible exact Keeps.refl _)
    | (with_reducible assumption)
    | (with_reducible apply State.next_keeps)
    | (with_reducible apply State.regRead_keeps))

theorem execEngTraprepRead_keeps (m : Master) (e : BitVec 4) (w : World) (s : State) :
    ∃ out, Sys2Proof.Machine.execEngTraprepRead m e w s = .next out ∧ Keeps s out := by
  refine ⟨_, rfl, ?_⟩
  repeat' (first
    | (with_reducible exact Keeps.refl _)
    | (with_reducible assumption)
    | (with_reducible apply State.next_keeps)
    | (with_reducible apply State.regRead_keeps))

theorem execMmrep0Read_keeps (m : Master) (k : Fin 5) (s : State) :
    ∃ out, Sys2Proof.Machine.execMmrep0Read m k s = .next out ∧ Keeps s out := by
  refine ⟨_, rfl, ?_⟩
  repeat' (first
    | (with_reducible exact Keeps.refl _)
    | (with_reducible assumption)
    | (with_reducible apply State.next_keeps)
    | (with_reducible apply State.regRead_keeps))

theorem execFltFirst0Read_keeps (m : Master) (b : Fin 57) (s : State) :
    ∃ out, Sys2Proof.Machine.execFltFirst0Read m b s = .next out ∧ Keeps s out := by
  refine ⟨_, rfl, ?_⟩
  repeat' (first
    | (with_reducible exact Keeps.refl _)
    | (with_reducible assumption)
    | (with_reducible apply State.next_keeps)
    | (with_reducible apply State.regRead_keeps))

theorem execStagingWrite_keeps (m : Master) (off : BitVec 16) (size : Nat) (v : Word) (s : State) :
    ∃ out, Sys2Proof.Machine.execStagingWrite m off size v s = .next out ∧ Keeps s out := by
  refine ⟨_, rfl, ?_⟩
  repeat' (first
    | (with_reducible exact Keeps.refl _)
    | (with_reducible assumption)
    | (with_reducible apply State.next_keeps)
    | (with_reducible apply State.write_keeps))

theorem execCfgCommit_keeps (m : Master) (count : BitVec 13) (check : BitVec 32) (s : State) :
    ∃ out, Sys2Proof.Machine.execCfgCommit m count check s = .next out ∧ Keeps s out := by
  refine ⟨_, rfl, ?_⟩
  repeat' (first
    | (with_reducible exact Keeps.refl _)
    | (with_reducible assumption)
    | (with_reducible apply State.next_keeps)
    | (with_reducible apply State.write_keeps))

theorem execCfgPreview_keeps (m : Master) (count : BitVec 13) (check : BitVec 32) (s : State) :
    ∃ out, Sys2Proof.Machine.execCfgPreview m count check s = .next out ∧ Keeps s out := by
  refine ⟨_, rfl, ?_⟩
  repeat' (first
    | (with_reducible exact Keeps.refl _)
    | (with_reducible assumption)
    | (with_reducible apply State.next_keeps)
    | (with_reducible apply State.write_keeps))

theorem execCfgAbort_keeps (m : Master) (s : State) :
    ∃ out, Sys2Proof.Machine.execCfgAbort m s = .next out ∧ Keeps s out := by
  refine ⟨_, rfl, ?_⟩
  repeat' (first
    | (with_reducible exact Keeps.refl _)
    | (with_reducible assumption)
    | (with_reducible apply State.next_keeps)
    | (with_reducible apply State.write_keeps))

theorem execPreviewDone_keeps (s : State) :
    ∃ out, Sys2Proof.Machine.execPreviewDone s = .next out ∧ Keeps s out := by
  refine ⟨_, rfl, ?_⟩
  repeat' (first
    | (with_reducible exact Keeps.refl _)
    | (with_reducible assumption)
    | (with_reducible apply State.next_keeps)
    | (with_reducible apply State.previewDone_keeps))

theorem execCommitApplied_keeps (s : State) :
    ∃ out, Sys2Proof.Machine.execCommitApplied s = .next out ∧ Keeps s out := by
  refine ⟨_, rfl, ?_⟩
  repeat' (first
    | (with_reducible exact Keeps.refl _)
    | (with_reducible assumption)
    | (with_reducible apply State.next_keeps)
    | (with_reducible apply State.commitApplied_keeps))

theorem execPlacementMove_keeps (s : State) :
    ∃ out, Sys2Proof.Machine.execPlacementMove s = .next out ∧ Keeps s out := by
  refine ⟨_, rfl, ?_⟩
  repeat' (first
    | (with_reducible exact Keeps.refl _)
    | (with_reducible assumption)
    | (with_reducible apply State.next_keeps)
    | (with_reducible apply State.placementMove_keeps))

theorem execDigestTimer_keeps (s : State) :
    ∃ out, Sys2Proof.Machine.execDigestTimer s = .next out ∧ Keeps s out := by
  refine ⟨_, rfl, ?_⟩
  repeat' (first
    | (with_reducible exact Keeps.refl _)
    | (with_reducible assumption)
    | (with_reducible apply State.next_keeps)
    | (with_reducible apply State.digestTimer_keeps))

theorem execDigestStart_keeps (s : State) :
    ∃ out, Sys2Proof.Machine.execDigestStart s = .next out ∧ Keeps s out := by
  refine ⟨_, rfl, ?_⟩
  repeat' (first
    | (with_reducible exact Keeps.refl _)
    | (with_reducible assumption)
    | (with_reducible apply State.next_keeps)
    | (with_reducible apply State.digestChange_keeps))

theorem execDigestPublish_keeps (s : State) :
    ∃ out, Sys2Proof.Machine.execDigestPublish s = .next out ∧ Keeps s out := by
  refine ⟨_, rfl, ?_⟩
  repeat' (first
    | (with_reducible exact Keeps.refl _)
    | (with_reducible assumption)
    | (with_reducible apply State.next_keeps)
    | (with_reducible apply State.digestPublish_keeps))

end Sys2Proof.Machine
end

