-- ==== Sys2Proof/Laws/ExecControl.lean ====
section
/-!
SUPPORT. What the commands of Machine/CmdControl.lean keep: each answers a next state that `Keeps` relates to the state before.
-/
namespace Sys2Proof.Machine

theorem execBeq_keeps (c : BitVec 3) (s1 s2 : BitVec 5) (off : BitVec 16) (s : State) :
    ∃ out, Sys2Proof.Machine.execBeq c s1 s2 off s = .next out ∧ Keeps s out := by
  refine ⟨_, rfl, ?_⟩
  repeat' (first
    | (with_reducible exact Keeps.refl _)
    | (with_reducible assumption)
    | (with_reducible apply State.next_keeps)
    | (with_reducible apply State.branch_keeps)
    | (intro _ _; (try beta_reduce))
    | (intro _; (try beta_reduce)))

theorem execBne_keeps (c : BitVec 3) (s1 s2 : BitVec 5) (off : BitVec 16) (s : State) :
    ∃ out, Sys2Proof.Machine.execBne c s1 s2 off s = .next out ∧ Keeps s out := by
  refine ⟨_, rfl, ?_⟩
  repeat' (first
    | (with_reducible exact Keeps.refl _)
    | (with_reducible assumption)
    | (with_reducible apply State.next_keeps)
    | (with_reducible apply State.branch_keeps)
    | (intro _ _; (try beta_reduce))
    | (intro _; (try beta_reduce)))

theorem execBlt_keeps (c : BitVec 3) (s1 s2 : BitVec 5) (off : BitVec 16) (s : State) :
    ∃ out, Sys2Proof.Machine.execBlt c s1 s2 off s = .next out ∧ Keeps s out := by
  refine ⟨_, rfl, ?_⟩
  repeat' (first
    | (with_reducible exact Keeps.refl _)
    | (with_reducible assumption)
    | (with_reducible apply State.next_keeps)
    | (with_reducible apply State.branch_keeps)
    | (intro _ _; (try beta_reduce))
    | (intro _; (try beta_reduce)))

theorem execBge_keeps (c : BitVec 3) (s1 s2 : BitVec 5) (off : BitVec 16) (s : State) :
    ∃ out, Sys2Proof.Machine.execBge c s1 s2 off s = .next out ∧ Keeps s out := by
  refine ⟨_, rfl, ?_⟩
  repeat' (first
    | (with_reducible exact Keeps.refl _)
    | (with_reducible assumption)
    | (with_reducible apply State.next_keeps)
    | (with_reducible apply State.branch_keeps)
    | (intro _ _; (try beta_reduce))
    | (intro _; (try beta_reduce)))

theorem execBltu_keeps (c : BitVec 3) (s1 s2 : BitVec 5) (off : BitVec 16) (s : State) :
    ∃ out, Sys2Proof.Machine.execBltu c s1 s2 off s = .next out ∧ Keeps s out := by
  refine ⟨_, rfl, ?_⟩
  repeat' (first
    | (with_reducible exact Keeps.refl _)
    | (with_reducible assumption)
    | (with_reducible apply State.next_keeps)
    | (with_reducible apply State.branch_keeps)
    | (intro _ _; (try beta_reduce))
    | (intro _; (try beta_reduce)))

theorem execBgeu_keeps (c : BitVec 3) (s1 s2 : BitVec 5) (off : BitVec 16) (s : State) :
    ∃ out, Sys2Proof.Machine.execBgeu c s1 s2 off s = .next out ∧ Keeps s out := by
  refine ⟨_, rfl, ?_⟩
  repeat' (first
    | (with_reducible exact Keeps.refl _)
    | (with_reducible assumption)
    | (with_reducible apply State.next_keeps)
    | (with_reducible apply State.branch_keeps)
    | (intro _ _; (try beta_reduce))
    | (intro _; (try beta_reduce)))

theorem execJ_keeps (c : BitVec 3) (off : BitVec 26) (s : State) :
    ∃ out, Sys2Proof.Machine.execJ c off s = .next out ∧ Keeps s out := by
  refine ⟨_, rfl, ?_⟩
  repeat' (first
    | (with_reducible exact Keeps.refl _)
    | (with_reducible assumption)
    | (with_reducible apply State.next_keeps)
    | (with_reducible apply State.instr_keeps)
    | (with_reducible apply State.goto_keeps)
    | (intro _ _; (try beta_reduce))
    | (intro _; (try beta_reduce)))

theorem execCall_keeps (c : BitVec 3) (off : BitVec 26) (s : State) :
    ∃ out, Sys2Proof.Machine.execCall c off s = .next out ∧ Keeps s out := by
  refine ⟨_, rfl, ?_⟩
  repeat' (first
    | (with_reducible exact Keeps.refl _)
    | (with_reducible assumption)
    | (with_reducible apply State.next_keeps)
    | (with_reducible apply State.instr_keeps)
    | (with_reducible apply State.callTo_keeps)
    | (intro _ _; (try beta_reduce))
    | (intro _; (try beta_reduce)))

theorem execJr_keeps (c : BitVec 3) (d s1 s2 : BitVec 5) (s : State) :
    ∃ out, Sys2Proof.Machine.execJr c d s1 s2 s = .next out ∧ Keeps s out := by
  refine ⟨_, rfl, ?_⟩
  repeat' (first
    | (with_reducible exact Keeps.refl _)
    | (with_reducible assumption)
    | (with_reducible apply State.next_keeps)
    | (with_reducible apply State.instr_keeps)
    | (with_reducible apply State.goto_keeps)
    | (intro _ _; (try beta_reduce))
    | (intro _; (try beta_reduce)))

theorem execCallr_keeps (c : BitVec 3) (d s1 s2 : BitVec 5) (s : State) :
    ∃ out, Sys2Proof.Machine.execCallr c d s1 s2 s = .next out ∧ Keeps s out := by
  refine ⟨_, rfl, ?_⟩
  repeat' (first
    | (with_reducible exact Keeps.refl _)
    | (with_reducible assumption)
    | (with_reducible apply State.next_keeps)
    | (with_reducible apply State.instr_keeps)
    | (with_reducible apply State.callTo_keeps)
    | (intro _ _; (try beta_reduce))
    | (intro _; (try beta_reduce)))

theorem execRet_keeps (c : BitVec 3) (d s1 s2 : BitVec 5) (s : State) :
    ∃ out, Sys2Proof.Machine.execRet c d s1 s2 s = .next out ∧ Keeps s out := by
  refine ⟨_, rfl, ?_⟩
  repeat' (first
    | (with_reducible exact Keeps.refl _)
    | (with_reducible assumption)
    | (with_reducible apply State.next_keeps)
    | (with_reducible apply State.instr_keeps)
    | (with_reducible apply State.retTo_keeps)
    | (intro _ _; (try beta_reduce))
    | (intro _; (try beta_reduce)))

theorem execSyncC_keeps (c : BitVec 3) (d s1 s2 : BitVec 5) (s : State) :
    ∃ out, Sys2Proof.Machine.execSyncC c d s1 s2 s = .next out ∧ Keeps s out := by
  refine ⟨_, rfl, ?_⟩
  repeat' (first
    | (with_reducible exact Keeps.refl _)
    | (with_reducible assumption)
    | (with_reducible apply State.next_keeps)
    | (with_reducible apply State.syncIns_keeps))

theorem execSyncF_keeps (c : BitVec 3) (d s1 s2 : BitVec 5) (s : State) :
    ∃ out, Sys2Proof.Machine.execSyncF c d s1 s2 s = .next out ∧ Keeps s out := by
  refine ⟨_, rfl, ?_⟩
  repeat' (first
    | (with_reducible exact Keeps.refl _)
    | (with_reducible assumption)
    | (with_reducible apply State.next_keeps)
    | (with_reducible apply State.instr_keeps)
    | (intro _ _; (try beta_reduce))
    | (intro _; (try beta_reduce)))

theorem execBarrier_keeps (c : BitVec 3) (d s1 s2 : BitVec 5) (s : State) :
    ∃ out, Sys2Proof.Machine.execBarrier c d s1 s2 s = .next out ∧ Keeps s out := by
  refine ⟨_, rfl, ?_⟩
  repeat' (first
    | (with_reducible exact Keeps.refl _)
    | (with_reducible assumption)
    | (with_reducible apply State.next_keeps)
    | (with_reducible apply State.barrierIns_keeps))

theorem execFenceE_keeps (c : BitVec 3) (d s1 s2 : BitVec 5) (s : State) :
    ∃ out, Sys2Proof.Machine.execFenceE c d s1 s2 s = .next out ∧ Keeps s out := by
  refine ⟨_, rfl, ?_⟩
  repeat' (first
    | (with_reducible exact Keeps.refl _)
    | (with_reducible assumption)
    | (with_reducible apply State.next_keeps)
    | (with_reducible apply State.fenceIns_keeps))

theorem execCinvI_keeps (c : BitVec 3) (d s1 s2 : BitVec 5) (s : State) :
    ∃ out, Sys2Proof.Machine.execCinvI c d s1 s2 s = .next out ∧ Keeps s out := by
  refine ⟨_, rfl, ?_⟩
  repeat' (first
    | (with_reducible exact Keeps.refl _)
    | (with_reducible apply State.cinvLine_keeps))

theorem execCinvIa_keeps (c : BitVec 3) (d s1 s2 : BitVec 5) (s : State) :
    ∃ out, Sys2Proof.Machine.execCinvIa c d s1 s2 s = .next out ∧ Keeps s out := by
  refine ⟨_, rfl, ?_⟩
  repeat' (first
    | (with_reducible exact Keeps.refl _)
    | (with_reducible apply State.cinvAll_keeps))

theorem execCinvD_keeps (c : BitVec 3) (d s1 s2 : BitVec 5) (s : State) :
    ∃ out, Sys2Proof.Machine.execCinvD c d s1 s2 s = .next out ∧ Keeps s out := by
  refine ⟨_, rfl, ?_⟩
  repeat' (first
    | (with_reducible exact Keeps.refl _)
    | (with_reducible assumption)
    | (with_reducible apply State.next_keeps)
    | (with_reducible apply State.cinvLine_keeps))

theorem execCinvDa_keeps (c : BitVec 3) (d s1 s2 : BitVec 5) (s : State) :
    ∃ out, Sys2Proof.Machine.execCinvDa c d s1 s2 s = .next out ∧ Keeps s out := by
  refine ⟨_, rfl, ?_⟩
  repeat' (first
    | (with_reducible exact Keeps.refl _)
    | (with_reducible apply State.cinvAll_keeps))

theorem execWflush_keeps (c : BitVec 3) (d s1 s2 : BitVec 5) (s : State) :
    ∃ out, Sys2Proof.Machine.execWflush c d s1 s2 s = .next out ∧ Keeps s out := by
  refine ⟨_, rfl, ?_⟩
  repeat' (first
    | (with_reducible exact Keeps.refl _)
    | (with_reducible assumption)
    | (with_reducible apply State.next_keeps)
    | (with_reducible apply State.wflushIns_keeps))

theorem execIssueOrder_keeps (c : BitVec 3) (d s1 s2 : BitVec 5) (s : State) :
    ∃ out, Sys2Proof.Machine.execIssueOrder c d s1 s2 s = .next out ∧ Keeps s out := by
  refine ⟨_, rfl, ?_⟩
  repeat' (first
    | (with_reducible exact Keeps.refl _)
    | (with_reducible assumption)
    | (with_reducible apply State.next_keeps)
    | (with_reducible apply State.orderIns_keeps))

theorem execWait_keeps (c : BitVec 3) (d s1 s2 : BitVec 5) (s : State) :
    ∃ out, Sys2Proof.Machine.execWait c d s1 s2 s = .next out ∧ Keeps s out := by
  refine ⟨_, rfl, ?_⟩
  repeat' (first
    | (with_reducible exact Keeps.refl _)
    | (with_reducible assumption)
    | (with_reducible apply State.next_keeps)
    | (with_reducible apply State.waitIns_keeps))

theorem execCrr_keeps (c : BitVec 3) (d s1 : BitVec 5) (num : BitVec 16) (s : State) :
    ∃ out, Sys2Proof.Machine.execCrr c d s1 num s = .next out ∧ Keeps s out := by
  refine ⟨_, rfl, ?_⟩
  repeat' (first
    | (with_reducible exact Keeps.refl _)
    | (with_reducible assumption)
    | (with_reducible apply State.next_keeps)
    | (with_reducible apply State.crrIns_keeps))

theorem execCrw_keeps (c : BitVec 3) (d s1 : BitVec 5) (num : BitVec 16) (s : State) :
    ∃ out, Sys2Proof.Machine.execCrw c d s1 num s = .next out ∧ Keeps s out := by
  refine ⟨_, rfl, ?_⟩
  repeat' (first
    | (with_reducible exact Keeps.refl _)
    | (with_reducible assumption)
    | (with_reducible apply State.next_keeps)
    | (with_reducible apply State.crwIns_keeps))

theorem execScall_keeps (c : BitVec 3) (s : State) :
    ∃ out, Sys2Proof.Machine.execScall c s = .next out ∧ Keeps s out := by
  refine ⟨_, rfl, ?_⟩
  repeat' (first
    | (with_reducible exact Keeps.refl _)
    | (with_reducible assumption)
    | (with_reducible apply State.next_keeps)
    | (with_reducible apply State.callExc_keeps))

theorem execMcall_keeps (c : BitVec 3) (s : State) :
    ∃ out, Sys2Proof.Machine.execMcall c s = .next out ∧ Keeps s out := by
  refine ⟨_, rfl, ?_⟩
  repeat' (first
    | (with_reducible exact Keeps.refl _)
    | (with_reducible assumption)
    | (with_reducible apply State.next_keeps)
    | (with_reducible apply State.callExc_keeps))

theorem execBrk_keeps (c : BitVec 3) (s : State) :
    ∃ out, Sys2Proof.Machine.execBrk c s = .next out ∧ Keeps s out := by
  refine ⟨_, rfl, ?_⟩
  repeat' (first
    | (with_reducible exact Keeps.refl _)
    | (with_reducible assumption)
    | (with_reducible apply State.next_keeps)
    | (with_reducible apply State.callExc_keeps))

theorem execRetx_keeps (c : BitVec 3) (s : State) :
    ∃ out, Sys2Proof.Machine.execRetx c s = .next out ∧ Keeps s out := by
  refine ⟨_, rfl, ?_⟩
  repeat' (first
    | (with_reducible exact Keeps.refl _)
    | (with_reducible assumption)
    | (with_reducible apply State.next_keeps)
    | (with_reducible apply State.retxIns_keeps))

end Sys2Proof.Machine
end

