-- ==== Sys2Proof/Laws/ExecCue.lean ====
section
/-!
SUPPORT. What the commands of Machine/CmdCue.lean keep: each answers a next state that `Keeps` relates to the state before.
-/
namespace Sys2Proof.Machine

theorem execCueFires_keeps (m : Master) (ch : BitVec 8) (s : State) :
    ∃ out, Sys2Proof.Machine.execCueFires m ch s = .next out ∧ Keeps s out := by
  refine ⟨_, rfl, ?_⟩
  repeat' (first
    | (with_reducible exact Keeps.refl _)
    | (with_reducible assumption)
    | (with_reducible apply State.next_keeps)
    | (with_reducible apply State.write_keeps))

theorem execCueFirev_keeps (m : Master) (ch : BitVec 8) (s : State) :
    ∃ out, Sys2Proof.Machine.execCueFirev m ch s = .next out ∧ Keeps s out := by
  refine ⟨_, rfl, ?_⟩
  repeat' (first
    | (with_reducible exact Keeps.refl _)
    | (with_reducible assumption)
    | (with_reducible apply State.next_keeps)
    | (with_reducible apply State.write_keeps))

theorem execGrpset_keeps (m : Master) (groups : BitVec 32) (s : State) :
    ∃ out, Sys2Proof.Machine.execGrpset m groups s = .next out ∧ Keeps s out := by
  refine ⟨_, rfl, ?_⟩
  repeat' (first
    | (with_reducible exact Keeps.refl _)
    | (with_reducible assumption)
    | (with_reducible apply State.next_keeps)
    | (with_reducible apply State.write_keeps))

theorem execGrpclr_keeps (m : Master) (groups : BitVec 32) (s : State) :
    ∃ out, Sys2Proof.Machine.execGrpclr m groups s = .next out ∧ Keeps s out := by
  refine ⟨_, rfl, ?_⟩
  repeat' (first
    | (with_reducible exact Keeps.refl _)
    | (with_reducible assumption)
    | (with_reducible apply State.next_keeps)
    | (with_reducible apply State.write_keeps))

theorem execRateWindow_keeps (s : State) :
    ∃ out, Sys2Proof.Machine.execRateWindow s = .next out ∧ Keeps s out := by
  refine ⟨_, rfl, ?_⟩
  repeat' (first
    | (with_reducible exact Keeps.refl _)
    | (with_reducible assumption)
    | (with_reducible apply State.next_keeps)
    | (with_reducible apply State.rateWindow_keeps))

theorem execCueTimerExpiry_keeps (t : BitVec 3) (s : State) :
    ∃ out, Sys2Proof.Machine.execCueTimerExpiry t s = .next out ∧ Keeps s out := by
  refine ⟨_, rfl, ?_⟩
  repeat' (first
    | (with_reducible exact Keeps.refl _)
    | (with_reducible assumption)
    | (with_reducible apply State.next_keeps)
    | (with_reducible apply State.timerExpiry_keeps))

theorem execCueInActivation_keeps (i : BitVec 4) (s : State) :
    ∃ out, Sys2Proof.Machine.execCueInActivation i s = .next out ∧ Keeps s out := by
  refine ⟨_, rfl, ?_⟩
  repeat' (first
    | (with_reducible exact Keeps.refl _)
    | (with_reducible assumption)
    | (with_reducible apply State.next_keeps)
    | (with_reducible apply State.pinActivate_keeps))

theorem execCueInInactive_keeps (i : BitVec 4) (s : State) :
    ∃ out, Sys2Proof.Machine.execCueInInactive i s = .next out ∧ Keeps s out := by
  refine ⟨_, rfl, ?_⟩
  repeat' (first
    | (with_reducible exact Keeps.refl _)
    | (with_reducible assumption)
    | (with_reducible apply State.next_keeps)
    | (with_reducible apply State.pinDeactivate_keeps))

theorem execCueInRepeat_keeps (i : BitVec 4) (s : State) :
    ∃ out, Sys2Proof.Machine.execCueInRepeat i s = .next out ∧ Keeps s out := by
  refine ⟨_, rfl, ?_⟩
  repeat' (first
    | (with_reducible exact Keeps.refl _)
    | (with_reducible assumption)
    | (with_reducible apply State.next_keeps)
    | (with_reducible apply State.pinRepeat_keeps))

theorem execCueStuck_keeps (i : BitVec 4) (s : State) :
    ∃ out, Sys2Proof.Machine.execCueStuck i s = .next out ∧ Keeps s out := by
  refine ⟨_, rfl, ?_⟩
  repeat' (first
    | (with_reducible exact Keeps.refl _)
    | (with_reducible assumption)
    | (with_reducible apply State.next_keeps)
    | (with_reducible apply State.pinStuck_keeps))

theorem execPincfgWrite_keeps (m : Master) (i : BitVec 4) (v : Word) (s : State) :
    ∃ out, Sys2Proof.Machine.execPincfgWrite m i v s = .next out ∧ Keeps s out := by
  refine ⟨_, rfl, ?_⟩
  repeat' (first
    | (with_reducible exact Keeps.refl _)
    | (with_reducible assumption)
    | (with_reducible apply State.next_keeps)
    | (with_reducible apply State.write_keeps))

theorem execCueOutPulseEnd_keeps (o : BitVec 4) (s : State) :
    ∃ out, Sys2Proof.Machine.execCueOutPulseEnd o s = .next out ∧ Keeps s out := by
  refine ⟨_, rfl, ?_⟩
  repeat' (first
    | (with_reducible exact Keeps.refl _)
    | (with_reducible assumption)
    | (with_reducible apply State.next_keeps)
    | (with_reducible apply State.pulseEnd_keeps))

theorem execFltInject_keeps (m : Master) (b : Fin 57) (kind : BitVec 5) (s : State) :
    ∃ out, Sys2Proof.Machine.execFltInject m b kind s = .next out ∧ Keeps s out := by
  refine ⟨_, rfl, ?_⟩
  repeat' (first
    | (with_reducible exact Keeps.refl _)
    | (with_reducible assumption)
    | (with_reducible apply State.next_keeps)
    | (with_reducible apply State.write_keeps))

theorem execAlarmPulseEnd_keeps (s : State) :
    ∃ out, Sys2Proof.Machine.execAlarmPulseEnd s = .next out ∧ Keeps s out := by
  refine ⟨_, rfl, ?_⟩
  repeat' (first
    | (with_reducible exact Keeps.refl _)
    | (with_reducible assumption)
    | (with_reducible apply State.next_keeps)
    | (with_reducible apply State.alarmEndPulse_keeps))

end Sys2Proof.Machine
end

