-- ==== Sys2Proof/Laws/ExecCustody.lean ====
section
/-!
SUPPORT. What the commands of Machine/CmdCustody.lean keep: each answers a next state that `Keeps` relates to the state before.
-/
namespace Sys2Proof.Machine

theorem execVddAonRise_keeps (s : State) :
    ∃ out, Sys2Proof.Machine.execVddAonRise s = .next out ∧ Keeps s out := by
  refine ⟨_, rfl, ?_⟩
  repeat' (first
    | (with_reducible exact Keeps.refl _)
    | (with_reducible assumption)
    | (with_reducible apply State.next_keeps)
    | (with_reducible apply State.aonRise_keeps))

theorem execResetNRise_keeps (s : State) :
    ∃ out, Sys2Proof.Machine.execResetNRise s = .next out ∧ Keeps s out := by
  refine ⟨_, rfl, ?_⟩
  repeat' (first
    | (with_reducible exact Keeps.refl _)
    | (with_reducible assumption)
    | (with_reducible apply State.next_keeps)
    | (with_reducible apply State.resetRise_keeps))

theorem execResetNFall_keeps (s : State) :
    ∃ out, Sys2Proof.Machine.execResetNFall s = .next out ∧ Keeps s out := by
  refine ⟨_, rfl, ?_⟩
  repeat' (first
    | (with_reducible exact Keeps.refl _)
    | (with_reducible assumption)
    | (with_reducible apply State.next_keeps)
    | (with_reducible apply State.resetFall_keeps))

theorem execPfailNFall_keeps (s : State) :
    ∃ out, Sys2Proof.Machine.execPfailNFall s = .next out ∧ Keeps s out := by
  refine ⟨_, rfl, ?_⟩
  repeat' (first
    | (with_reducible exact Keeps.refl _)
    | (with_reducible assumption)
    | (with_reducible apply State.next_keeps)
    | (with_reducible apply State.pfailFall_keeps))

theorem execPfailNRise_keeps (s : State) :
    ∃ out, Sys2Proof.Machine.execPfailNRise s = .next out ∧ Keeps s out := by
  refine ⟨_, rfl, ?_⟩
  repeat' (first
    | (with_reducible exact Keeps.refl _)
    | (with_reducible assumption)
    | (with_reducible apply State.next_keeps)
    | (with_reducible apply State.pfailRise_keeps))

theorem execHeldResetNRise_keeps (s : State) :
    ∃ out, Sys2Proof.Machine.execHeldResetNRise s = .next out ∧ Keeps s out := by
  refine ⟨_, rfl, ?_⟩
  repeat' (first
    | (with_reducible exact Keeps.refl _)
    | (with_reducible assumption)
    | (with_reducible apply State.next_keeps)
    | (with_reducible apply State.heldRise_keeps))

theorem execSupplyRemoval_keeps (s : State) :
    ∃ out, Sys2Proof.Machine.execSupplyRemoval s = .next out ∧ Keeps s out := by
  refine ⟨_, rfl, ?_⟩
  repeat' (first
    | (with_reducible exact Keeps.refl _)
    | (with_reducible assumption)
    | (with_reducible apply State.next_keeps)
    | (with_reducible apply State.supplyOff_keeps))

theorem execThermNChange_keeps (level : Bool) (s : State) :
    ∃ out, Sys2Proof.Machine.execThermNChange level s = .next out ∧ Keeps s out := by
  refine ⟨_, rfl, ?_⟩
  repeat' (first
    | (with_reducible exact Keeps.refl _)
    | (with_reducible assumption)
    | (with_reducible apply State.next_keeps)
    | (with_reducible apply State.thermChange_keeps))

theorem execRefclkEthStop_keeps (s : State) :
    ∃ out, Sys2Proof.Machine.execRefclkEthStop s = .next out ∧ Keeps s out := by
  refine ⟨_, rfl, ?_⟩
  repeat' (first
    | (with_reducible exact Keeps.refl _)
    | (with_reducible assumption)
    | (with_reducible apply State.next_keeps)
    | (with_reducible apply State.setClock_keeps))

theorem execRefclkEthReturn_keeps (s : State) :
    ∃ out, Sys2Proof.Machine.execRefclkEthReturn s = .next out ∧ Keeps s out := by
  refine ⟨_, rfl, ?_⟩
  repeat' (first
    | (with_reducible exact Keeps.refl _)
    | (with_reducible assumption)
    | (with_reducible apply State.next_keeps)
    | (with_reducible apply State.setClock_keeps))

theorem execModectlRehearsal_keeps (m : Master) (after : BitVec 4) (s : State) :
    ∃ out, Sys2Proof.Machine.execModectlRehearsal m after s = .next out ∧ Keeps s out := by
  refine ⟨_, rfl, ?_⟩
  repeat' (first
    | (with_reducible exact Keeps.refl _)
    | (with_reducible assumption)
    | (with_reducible apply State.next_keeps)
    | (with_reducible apply State.write_keeps))

theorem execModectlCustody_keeps (m : Master) (after : BitVec 4) (s : State) :
    ∃ out, Sys2Proof.Machine.execModectlCustody m after s = .next out ∧ Keeps s out := by
  refine ⟨_, rfl, ?_⟩
  repeat' (first
    | (with_reducible exact Keeps.refl _)
    | (with_reducible assumption)
    | (with_reducible apply State.next_keeps)
    | (with_reducible apply State.write_keeps))

theorem execModectlCurtain_keeps (m : Master) (after : BitVec 4) (s : State) :
    ∃ out, Sys2Proof.Machine.execModectlCurtain m after s = .next out ∧ Keeps s out := by
  refine ⟨_, rfl, ?_⟩
  repeat' (first
    | (with_reducible exact Keeps.refl _)
    | (with_reducible assumption)
    | (with_reducible apply State.next_keeps)
    | (with_reducible apply State.write_keeps))

theorem execModectlRefit_keeps (m : Master) (after : BitVec 4) (s : State) :
    ∃ out, Sys2Proof.Machine.execModectlRefit m after s = .next out ∧ Keeps s out := by
  refine ⟨_, rfl, ?_⟩
  repeat' (first
    | (with_reducible exact Keeps.refl _)
    | (with_reducible assumption)
    | (with_reducible apply State.next_keeps)
    | (with_reducible apply State.write_keeps))

theorem execModeTransitionComplete_keeps (s : State) :
    ∃ out, Sys2Proof.Machine.execModeTransitionComplete s = .next out ∧ Keeps s out := by
  refine ⟨_, rfl, ?_⟩
  repeat' (first
    | (with_reducible exact Keeps.refl _)
    | (with_reducible assumption)
    | (with_reducible apply State.next_keeps)
    | (with_reducible apply State.modeComplete_keeps))

theorem execRehearsalEnd_keeps (s : State) :
    ∃ out, Sys2Proof.Machine.execRehearsalEnd s = .next out ∧ Keeps s out := by
  refine ⟨_, rfl, ?_⟩
  repeat' (first
    | (with_reducible exact Keeps.refl _)
    | (with_reducible assumption)
    | (with_reducible apply State.next_keeps)
    | (with_reducible apply State.rehearsalEnd_keeps))

theorem execDieSensorRead_keeps (temps : List (BitVec 9 × Bool)) (mv : BitVec 16) (s : State) :
    ∃ out, Sys2Proof.Machine.execDieSensorRead temps mv s = .next out ∧ Keeps s out := by
  refine ⟨_, rfl, ?_⟩
  repeat' (first
    | (with_reducible exact Keeps.refl _)
    | (with_reducible assumption)
    | (with_reducible apply State.next_keeps)
    | (with_reducible apply State.dieRead_keeps))

theorem execRestraintEnd_keeps (s : State) :
    ∃ out, Sys2Proof.Machine.execRestraintEnd s = .next out ∧ Keeps s out := by
  refine ⟨_, rfl, ?_⟩
  repeat' (first
    | (with_reducible exact Keeps.refl _)
    | (with_reducible assumption)
    | (with_reducible apply State.next_keeps)
    | (with_reducible apply State.restraintEnd_keeps))

theorem execOvertemp_keeps (sensor : Fin 20) (s : State) :
    ∃ out, Sys2Proof.Machine.execOvertemp sensor s = .next out ∧ Keeps s out := by
  refine ⟨_, rfl, ?_⟩
  repeat' (first
    | (with_reducible exact Keeps.refl _)
    | (with_reducible assumption)
    | (with_reducible apply State.next_keeps)
    | (with_reducible apply State.overtemp_keeps))

theorem execCalstart_keeps (m : Master) (callers : BitVec 8) (s : State) :
    ∃ out, Sys2Proof.Machine.execCalstart m callers s = .next out ∧ Keeps s out := by
  refine ⟨_, rfl, ?_⟩
  repeat' (first
    | (with_reducible exact Keeps.refl _)
    | (with_reducible assumption)
    | (with_reducible apply State.next_keeps)
    | (with_reducible apply State.write_keeps))

theorem execFunctionReady_keeps (bit : Fin 53) (s : State) :
    ∃ out, Sys2Proof.Machine.execFunctionReady bit s = .next out ∧ Keeps s out := by
  refine ⟨_, rfl, ?_⟩
  repeat' (first
    | (with_reducible exact Keeps.refl _)
    | (with_reducible assumption)
    | (with_reducible apply State.next_keeps)
    | (with_reducible apply State.functionReady_keeps)
    | (intro _ _; (try beta_reduce))
    | (intro _; (try beta_reduce)))

theorem execBootload_keeps (m : Master) (copy : Bool) (s : State) :
    ∃ out, Sys2Proof.Machine.execBootload m copy s = .next out ∧ Keeps s out := by
  refine ⟨_, rfl, ?_⟩
  repeat' (first
    | (with_reducible exact Keeps.refl _)
    | (with_reducible assumption)
    | (with_reducible apply State.next_keeps)
    | (with_reducible apply State.write_keeps))

theorem execBootloadDone_keeps (s : State) :
    ∃ out, Sys2Proof.Machine.execBootloadDone s = .next out ∧ Keeps s out := by
  refine ⟨_, rfl, ?_⟩
  repeat' (first
    | (with_reducible exact Keeps.refl _)
    | (with_reducible assumption)
    | (with_reducible apply State.next_keeps)
    | (with_reducible apply State.bootLoadDone_keeps))

theorem execDomainSwitchOff_keeps (m : Master) (d : Fin 50) (s : State) :
    ∃ out, Sys2Proof.Machine.execDomainSwitchOff m d s = .next out ∧ Keeps s out := by
  refine ⟨_, rfl, ?_⟩
  repeat' (first
    | (with_reducible exact Keeps.refl _)
    | (with_reducible assumption)
    | (with_reducible apply State.next_keeps)
    | (with_reducible apply State.rewrite_keeps)
    | (intro _ _; (try beta_reduce))
    | (intro _; (try beta_reduce)))

theorem execDomainSwitchOn_keeps (m : Master) (d : Fin 50) (s : State) :
    ∃ out, Sys2Proof.Machine.execDomainSwitchOn m d s = .next out ∧ Keeps s out := by
  refine ⟨_, rfl, ?_⟩
  repeat' (first
    | (with_reducible exact Keeps.refl _)
    | (with_reducible assumption)
    | (with_reducible apply State.next_keeps)
    | (with_reducible apply State.rewrite_keeps)
    | (intro _ _; (try beta_reduce))
    | (intro _; (try beta_reduce)))

theorem execBypass_keeps (s : State) :
    ∃ out, Sys2Proof.Machine.execBypass s = .next out ∧ Keeps s out := by
  refine ⟨_, rfl, ?_⟩
  repeat' (first
    | (with_reducible exact Keeps.refl _)
    | (with_reducible assumption)
    | (with_reducible apply State.next_keeps)
    | (with_reducible apply State.tapLoad_keeps))

theorem execIdcode_keeps (s : State) :
    ∃ out, Sys2Proof.Machine.execIdcode s = .next out ∧ Keeps s out := by
  refine ⟨_, rfl, ?_⟩
  repeat' (first
    | (with_reducible exact Keeps.refl _)
    | (with_reducible assumption)
    | (with_reducible apply State.next_keeps)
    | (with_reducible apply State.tapLoad_keeps))

theorem execSamplePreload_keeps (pins : Word) (s : State) :
    ∃ out, Sys2Proof.Machine.execSamplePreload pins s = .next out ∧ Keeps s out := by
  refine ⟨_, rfl, ?_⟩
  repeat' (first
    | (with_reducible exact Keeps.refl _)
    | (with_reducible assumption)
    | (with_reducible apply State.next_keeps)
    | (with_reducible apply State.tapSample_keeps))

theorem execExtest_keeps (s : State) :
    ∃ out, Sys2Proof.Machine.execExtest s = .next out ∧ Keeps s out := by
  refine ⟨_, rfl, ?_⟩
  repeat' (first
    | (with_reducible exact Keeps.refl _)
    | (with_reducible assumption)
    | (with_reducible apply State.next_keeps)
    | (with_reducible apply State.tapLoad_keeps))

theorem execExtestPulse_keeps (s : State) :
    ∃ out, Sys2Proof.Machine.execExtestPulse s = .next out ∧ Keeps s out := by
  refine ⟨_, rfl, ?_⟩
  repeat' (first
    | (with_reducible exact Keeps.refl _)
    | (with_reducible assumption)
    | (with_reducible apply State.next_keeps)
    | (with_reducible apply State.tapLoad_keeps))

theorem execExtestTrain_keeps (s : State) :
    ∃ out, Sys2Proof.Machine.execExtestTrain s = .next out ∧ Keeps s out := by
  refine ⟨_, rfl, ?_⟩
  repeat' (first
    | (with_reducible exact Keeps.refl _)
    | (with_reducible assumption)
    | (with_reducible apply State.next_keeps)
    | (with_reducible apply State.tapLoad_keeps))

theorem execTrstNLow_keeps (s : State) :
    ∃ out, Sys2Proof.Machine.execTrstNLow s = .next out ∧ Keeps s out := by
  refine ⟨_, rfl, ?_⟩
  repeat' (first
    | (with_reducible exact Keeps.refl _)
    | (with_reducible assumption)
    | (with_reducible apply State.next_keeps)
    | (with_reducible apply State.tapReset_keeps))

theorem execTrstNHigh_keeps (s : State) :
    ∃ out, Sys2Proof.Machine.execTrstNHigh s = .next out ∧ Keeps s out := by
  refine ⟨_, rfl, ?_⟩
  repeat' (first
    | (with_reducible exact Keeps.refl _)
    | (with_reducible assumption)
    | (with_reducible apply State.next_keeps)
    | (with_reducible apply State.tapReset_keeps))

end Sys2Proof.Machine
end

