-- ==== Sys2Proof/Laws/ExecEngine.lean ====
section
/-!
SUPPORT. What the commands of Machine/CmdEngine.lean keep: each answers a next state that `Keeps` relates to the state before.
-/
namespace Sys2Proof.Machine

theorem execOrderStart_keeps (e : BitVec 4) (w : World) (s : State) :
    ∃ out, Sys2Proof.Machine.execOrderStart e w s = .next out ∧ Keeps s out := by
  refine ⟨_, rfl, ?_⟩
  repeat' (first
    | (with_reducible exact Keeps.refl _)
    | (with_reducible assumption)
    | (with_reducible apply State.next_keeps)
    | (with_reducible apply State.tryStart_keeps))

theorem execOrderComplete_keeps (e : BitVec 4) (w : World) (s : State) :
    ∃ out, Sys2Proof.Machine.execOrderComplete e w s = .next out ∧ Keeps s out := by
  refine ⟨_, rfl, ?_⟩
  repeat' (first
    | (with_reducible exact Keeps.refl _)
    | (with_reducible assumption)
    | (with_reducible apply State.next_keeps)
    | (with_reducible apply State.complete_keeps))

theorem execRecordWritten_keeps (e : BitVec 4) (w : World) (s : State) :
    ∃ out, Sys2Proof.Machine.execRecordWritten e w s = .next out ∧ Keeps s out := by
  refine ⟨_, rfl, ?_⟩
  repeat' (first
    | (with_reducible exact Keeps.refl _)
    | (with_reducible assumption)
    | (with_reducible apply State.next_keeps)
    | (with_reducible apply State.recordWritten_keeps))

theorem execTpCycleStart_keeps (e : BitVec 4) (s : State) :
    ∃ out, Sys2Proof.Machine.execTpCycleStart e s = .next out ∧ Keeps s out := by
  refine ⟨_, rfl, ?_⟩
  repeat' (first
    | (with_reducible exact Keeps.refl _)
    | (with_reducible assumption)
    | (with_reducible apply State.next_keeps)
    | (with_reducible apply State.tpCycleStart_keeps))

theorem execTpSlotBoundary_keeps (e : BitVec 4) (s : State) :
    ∃ out, Sys2Proof.Machine.execTpSlotBoundary e s = .next out ∧ Keeps s out := by
  refine ⟨_, rfl, ?_⟩
  repeat' (first
    | (with_reducible exact Keeps.refl _)
    | (with_reducible assumption)
    | (with_reducible apply State.next_keeps)
    | (with_reducible apply State.tpSlotBoundary_keeps))

theorem execStallWatchdogExpiry_keeps (e : BitVec 4) (w : World) (s : State) :
    ∃ out, Sys2Proof.Machine.execStallWatchdogExpiry e w s = .next out ∧ Keeps s out := by
  refine ⟨_, rfl, ?_⟩
  repeat' (first
    | (with_reducible exact Keeps.refl _)
    | (with_reducible assumption)
    | (with_reducible apply State.next_keeps)
    | (with_reducible apply State.stallExpiry_keeps))

theorem execEngSuspend_keeps (m : Master) (e : BitVec 4) (w : World) (s : State) :
    ∃ out, Sys2Proof.Machine.execEngSuspend m e w s = .next out ∧ Keeps s out := by
  refine ⟨_, rfl, ?_⟩
  repeat' (first
    | (with_reducible exact Keeps.refl _)
    | (with_reducible assumption)
    | (with_reducible apply State.next_keeps)
    | (with_reducible apply State.write_keeps))

theorem execResumeContinue_keeps (m : Master) (e : BitVec 4) (w : World) (tag : BitVec 16) (s : State) :
    ∃ out, Sys2Proof.Machine.execResumeContinue m e w tag s = .next out ∧ Keeps s out := by
  refine ⟨_, rfl, ?_⟩
  repeat' (first
    | (with_reducible exact Keeps.refl _)
    | (with_reducible assumption)
    | (with_reducible apply State.next_keeps)
    | (with_reducible apply State.write_keeps))

theorem execResumePass_keeps (m : Master) (e : BitVec 4) (w : World) (tag : BitVec 16) (s : State) :
    ∃ out, Sys2Proof.Machine.execResumePass m e w tag s = .next out ∧ Keeps s out := by
  refine ⟨_, rfl, ?_⟩
  repeat' (first
    | (with_reducible exact Keeps.refl _)
    | (with_reducible assumption)
    | (with_reducible apply State.next_keeps)
    | (with_reducible apply State.write_keeps))

theorem execResumeSkip_keeps (m : Master) (e : BitVec 4) (w : World) (tag : BitVec 16) (s : State) :
    ∃ out, Sys2Proof.Machine.execResumeSkip m e w tag s = .next out ∧ Keeps s out := by
  refine ⟨_, rfl, ?_⟩
  repeat' (first
    | (with_reducible exact Keeps.refl _)
    | (with_reducible assumption)
    | (with_reducible apply State.next_keeps)
    | (with_reducible apply State.write_keeps))

theorem execResumeAbandon_keeps (m : Master) (e : BitVec 4) (w : World) (tag : BitVec 16) (s : State) :
    ∃ out, Sys2Proof.Machine.execResumeAbandon m e w tag s = .next out ∧ Keeps s out := by
  refine ⟨_, rfl, ?_⟩
  repeat' (first
    | (with_reducible exact Keeps.refl _)
    | (with_reducible assumption)
    | (with_reducible apply State.next_keeps)
    | (with_reducible apply State.write_keeps))

theorem execRelayCreditReturn_keeps (r : BitVec 6) (s : State) :
    ∃ out, Sys2Proof.Machine.execRelayCreditReturn r s = .next out ∧ Keeps s out := by
  refine ⟨_, rfl, ?_⟩
  repeat' (first
    | (with_reducible exact Keeps.refl _)
    | (with_reducible assumption)
    | (with_reducible apply State.next_keeps)
    | (with_reducible apply State.relayCredit_keeps))

theorem execRelayEnable_keeps (m : Master) (r : BitVec 6) (v : Word) (s : State) :
    ∃ out, Sys2Proof.Machine.execRelayEnable m r v s = .next out ∧ Keeps s out := by
  refine ⟨_, rfl, ?_⟩
  repeat' (first
    | (with_reducible exact Keeps.refl _)
    | (with_reducible assumption)
    | (with_reducible apply State.next_keeps)
    | (with_reducible apply State.write_keeps))

theorem execRlyflush_keeps (m : Master) (r : BitVec 6) (s : State) :
    ∃ out, Sys2Proof.Machine.execRlyflush m r s = .next out ∧ Keeps s out := by
  refine ⟨_, rfl, ?_⟩
  repeat' (first
    | (with_reducible exact Keeps.refl _)
    | (with_reducible assumption)
    | (with_reducible apply State.next_keeps)
    | (with_reducible apply State.write_keeps))

theorem execSignatureCompare_keeps (e : BitVec 4) (w : World) (err : Word) (s : State) :
    ∃ out, Sys2Proof.Machine.execSignatureCompare e w err s = .next out ∧ Keeps s out := by
  refine ⟨_, rfl, ?_⟩
  repeat' (first
    | (with_reducible exact Keeps.refl _)
    | (with_reducible assumption)
    | (with_reducible apply State.next_keeps)
    | (with_reducible apply State.compare_keeps))

theorem execEncoreStart_keeps (e : BitVec 4) (w : World) (s : State) :
    ∃ out, Sys2Proof.Machine.execEncoreStart e w s = .next out ∧ Keeps s out := by
  refine ⟨_, rfl, ?_⟩
  repeat' (first
    | (with_reducible exact Keeps.refl _)
    | (with_reducible assumption)
    | (with_reducible apply State.next_keeps)
    | (with_reducible apply State.encoreDecide_keeps))

theorem execEncoreEnd_keeps (err : Word) (s : State) :
    ∃ out, Sys2Proof.Machine.execEncoreEnd err s = .next out ∧ Keeps s out := by
  refine ⟨_, rfl, ?_⟩
  repeat' (first
    | (with_reducible exact Keeps.refl _)
    | (with_reducible assumption)
    | (with_reducible apply State.next_keeps)
    | (with_reducible apply State.encoreEndNow_keeps))

theorem execFullProofDone_keeps (k : Fin 5) (caught : BitVec 12) (lane : BitVec 5) (bitPos : BitVec 6) (s : State) :
    ∃ out, Sys2Proof.Machine.execFullProofDone k caught lane bitPos s = .next out ∧ Keeps s out := by
  refine ⟨_, rfl, ?_⟩
  repeat' (first
    | (with_reducible exact Keeps.refl _)
    | (with_reducible assumption)
    | (with_reducible apply State.next_keeps)
    | (with_reducible apply State.fullProof_keeps))

theorem execPeriodicProof_keeps (k : Fin 5) (caught : Bool) (s : State) :
    ∃ out, Sys2Proof.Machine.execPeriodicProof k caught s = .next out ∧ Keeps s out := by
  refine ⟨_, rfl, ?_⟩
  repeat' (first
    | (with_reducible exact Keeps.refl _)
    | (with_reducible assumption)
    | (with_reducible apply State.next_keeps)
    | (with_reducible apply State.periodicProof_keeps))

theorem execComparatorSubstitution_keeps (q : BitVec 2) (s : State) :
    ∃ out, Sys2Proof.Machine.execComparatorSubstitution q s = .next out ∧ Keeps s out := by
  refine ⟨_, rfl, ?_⟩
  repeat' (first
    | (with_reducible exact Keeps.refl _)
    | (with_reducible assumption)
    | (with_reducible apply State.next_keeps)
    | (with_reducible apply State.comparatorSubst_keeps))

theorem execRepModeWrite_keeps (m : Master) (spair vpair : Bool) (s : State) :
    ∃ out, Sys2Proof.Machine.execRepModeWrite m spair vpair s = .next out ∧ Keeps s out := by
  refine ⟨_, rfl, ?_⟩
  repeat' (first
    | (with_reducible exact Keeps.refl _)
    | (with_reducible assumption)
    | (with_reducible apply State.next_keeps)
    | (with_reducible apply State.write_keeps))

theorem execEnginePairingChange_keeps (e : BitVec 4) (s : State) :
    ∃ out, Sys2Proof.Machine.execEnginePairingChange e s = .next out ∧ Keeps s out := by
  refine ⟨_, rfl, ?_⟩
  repeat' (first
    | (with_reducible exact Keeps.refl _)
    | (with_reducible assumption)
    | (with_reducible apply State.next_keeps)
    | (with_reducible apply State.enginePairing_keeps))

theorem execFrclose_keeps (m : Master) (f : BitVec 4) (s : State) :
    ∃ out, Sys2Proof.Machine.execFrclose m f s = .next out ∧ Keeps s out := by
  refine ⟨_, rfl, ?_⟩
  repeat' (first
    | (with_reducible exact Keeps.refl _)
    | (with_reducible assumption)
    | (with_reducible apply State.next_keeps)
    | (with_reducible apply State.write_keeps))

theorem execFrameCloseDeferred_keeps (f : BitVec 4) (s : State) :
    ∃ out, Sys2Proof.Machine.execFrameCloseDeferred f s = .next out ∧ Keeps s out := by
  refine ⟨_, rfl, ?_⟩
  repeat' (first
    | (with_reducible exact Keeps.refl _)
    | (with_reducible assumption)
    | (with_reducible apply State.next_keeps)
    | (with_reducible apply State.frameSettle_keeps))

theorem execFrameClearDone_keeps (f : BitVec 4) (s : State) :
    ∃ out, Sys2Proof.Machine.execFrameClearDone f s = .next out ∧ Keeps s out := by
  refine ⟨_, rfl, ?_⟩
  repeat' (first
    | (with_reducible exact Keeps.refl _)
    | (with_reducible assumption)
    | (with_reducible apply State.next_keeps)
    | (with_reducible apply State.frameClearDone_keeps))

theorem execFrameEnable_keeps (m : Master) (f : BitVec 4) (v : Word) (s : State) :
    ∃ out, Sys2Proof.Machine.execFrameEnable m f v s = .next out ∧ Keeps s out := by
  refine ⟨_, rfl, ?_⟩
  repeat' (first
    | (with_reducible exact Keeps.refl _)
    | (with_reducible assumption)
    | (with_reducible apply State.next_keeps)
    | (with_reducible apply State.write_keeps))

end Sys2Proof.Machine
end

