-- ==== Sys2Proof/Laws/ExecFloat.lean ====
section
/-!
SUPPORT. What the commands of Machine/CmdFloat.lean keep: each answers a next state that `Keeps` relates to the state before.
-/
namespace Sys2Proof.Machine

theorem execFadd_keeps (c : BitVec 3) (d s1 s2 : BitVec 5) (rnd ty : BitVec 3) (s : State) :
    ∃ out, Sys2Proof.Machine.execFadd c d s1 s2 rnd ty s = .next out ∧ Keeps s out := by
  refine ⟨_, rfl, ?_⟩
  repeat' (first
    | (with_reducible exact Keeps.refl _)
    | (with_reducible assumption)
    | (with_reducible apply State.next_keeps)
    | (with_reducible apply State.fpIns_keeps))

theorem execFsub_keeps (c : BitVec 3) (d s1 s2 : BitVec 5) (rnd ty : BitVec 3) (s : State) :
    ∃ out, Sys2Proof.Machine.execFsub c d s1 s2 rnd ty s = .next out ∧ Keeps s out := by
  refine ⟨_, rfl, ?_⟩
  repeat' (first
    | (with_reducible exact Keeps.refl _)
    | (with_reducible assumption)
    | (with_reducible apply State.next_keeps)
    | (with_reducible apply State.fpIns_keeps))

theorem execFmul_keeps (c : BitVec 3) (d s1 s2 : BitVec 5) (rnd ty : BitVec 3) (s : State) :
    ∃ out, Sys2Proof.Machine.execFmul c d s1 s2 rnd ty s = .next out ∧ Keeps s out := by
  refine ⟨_, rfl, ?_⟩
  repeat' (first
    | (with_reducible exact Keeps.refl _)
    | (with_reducible assumption)
    | (with_reducible apply State.next_keeps)
    | (with_reducible apply State.fpIns_keeps))

theorem execFdiv_keeps (c : BitVec 3) (d s1 s2 : BitVec 5) (rnd ty : BitVec 3) (s : State) :
    ∃ out, Sys2Proof.Machine.execFdiv c d s1 s2 rnd ty s = .next out ∧ Keeps s out := by
  refine ⟨_, rfl, ?_⟩
  repeat' (first
    | (with_reducible exact Keeps.refl _)
    | (with_reducible assumption)
    | (with_reducible apply State.next_keeps)
    | (with_reducible apply State.fpIns_keeps))

theorem execFsqrt_keeps (c : BitVec 3) (d s1 s2 : BitVec 5) (rnd ty : BitVec 3) (s : State) :
    ∃ out, Sys2Proof.Machine.execFsqrt c d s1 s2 rnd ty s = .next out ∧ Keeps s out := by
  refine ⟨_, rfl, ?_⟩
  repeat' (first
    | (with_reducible exact Keeps.refl _)
    | (with_reducible assumption)
    | (with_reducible apply State.next_keeps)
    | (with_reducible apply State.fpIns_keeps))

theorem execFmin_keeps (c : BitVec 3) (d s1 s2 : BitVec 5) (rnd ty : BitVec 3) (s : State) :
    ∃ out, Sys2Proof.Machine.execFmin c d s1 s2 rnd ty s = .next out ∧ Keeps s out := by
  refine ⟨_, rfl, ?_⟩
  repeat' (first
    | (with_reducible exact Keeps.refl _)
    | (with_reducible assumption)
    | (with_reducible apply State.next_keeps)
    | (with_reducible apply State.fpIns_keeps))

theorem execFmax_keeps (c : BitVec 3) (d s1 s2 : BitVec 5) (rnd ty : BitVec 3) (s : State) :
    ∃ out, Sys2Proof.Machine.execFmax c d s1 s2 rnd ty s = .next out ∧ Keeps s out := by
  refine ⟨_, rfl, ?_⟩
  repeat' (first
    | (with_reducible exact Keeps.refl _)
    | (with_reducible assumption)
    | (with_reducible apply State.next_keeps)
    | (with_reducible apply State.fpIns_keeps))

theorem execFabs_keeps (c : BitVec 3) (d s1 s2 : BitVec 5) (rnd ty : BitVec 3) (s : State) :
    ∃ out, Sys2Proof.Machine.execFabs c d s1 s2 rnd ty s = .next out ∧ Keeps s out := by
  refine ⟨_, rfl, ?_⟩
  repeat' (first
    | (with_reducible exact Keeps.refl _)
    | (with_reducible assumption)
    | (with_reducible apply State.next_keeps)
    | (with_reducible apply State.fpIns_keeps))

theorem execFneg_keeps (c : BitVec 3) (d s1 s2 : BitVec 5) (rnd ty : BitVec 3) (s : State) :
    ∃ out, Sys2Proof.Machine.execFneg c d s1 s2 rnd ty s = .next out ∧ Keeps s out := by
  refine ⟨_, rfl, ?_⟩
  repeat' (first
    | (with_reducible exact Keeps.refl _)
    | (with_reducible assumption)
    | (with_reducible apply State.next_keeps)
    | (with_reducible apply State.fpIns_keeps))

theorem execFcpsgn_keeps (c : BitVec 3) (d s1 s2 : BitVec 5) (rnd ty : BitVec 3) (s : State) :
    ∃ out, Sys2Proof.Machine.execFcpsgn c d s1 s2 rnd ty s = .next out ∧ Keeps s out := by
  refine ⟨_, rfl, ?_⟩
  repeat' (first
    | (with_reducible exact Keeps.refl _)
    | (with_reducible assumption)
    | (with_reducible apply State.next_keeps)
    | (with_reducible apply State.fpIns_keeps))

theorem execFcmpeq_keeps (c : BitVec 3) (d s1 s2 : BitVec 5) (rnd ty : BitVec 3) (s : State) :
    ∃ out, Sys2Proof.Machine.execFcmpeq c d s1 s2 rnd ty s = .next out ∧ Keeps s out := by
  refine ⟨_, rfl, ?_⟩
  repeat' (first
    | (with_reducible exact Keeps.refl _)
    | (with_reducible assumption)
    | (with_reducible apply State.next_keeps)
    | (with_reducible apply State.fpIns_keeps))

theorem execFcmplt_keeps (c : BitVec 3) (d s1 s2 : BitVec 5) (rnd ty : BitVec 3) (s : State) :
    ∃ out, Sys2Proof.Machine.execFcmplt c d s1 s2 rnd ty s = .next out ∧ Keeps s out := by
  refine ⟨_, rfl, ?_⟩
  repeat' (first
    | (with_reducible exact Keeps.refl _)
    | (with_reducible assumption)
    | (with_reducible apply State.next_keeps)
    | (with_reducible apply State.fpIns_keeps))

theorem execFcmple_keeps (c : BitVec 3) (d s1 s2 : BitVec 5) (rnd ty : BitVec 3) (s : State) :
    ∃ out, Sys2Proof.Machine.execFcmple c d s1 s2 rnd ty s = .next out ∧ Keeps s out := by
  refine ⟨_, rfl, ?_⟩
  repeat' (first
    | (with_reducible exact Keeps.refl _)
    | (with_reducible assumption)
    | (with_reducible apply State.next_keeps)
    | (with_reducible apply State.fpIns_keeps))

theorem execFcmpun_keeps (c : BitVec 3) (d s1 s2 : BitVec 5) (rnd ty : BitVec 3) (s : State) :
    ∃ out, Sys2Proof.Machine.execFcmpun c d s1 s2 rnd ty s = .next out ∧ Keeps s out := by
  refine ⟨_, rfl, ?_⟩
  repeat' (first
    | (with_reducible exact Keeps.refl _)
    | (with_reducible assumption)
    | (with_reducible apply State.next_keeps)
    | (with_reducible apply State.fpIns_keeps))

theorem execFclass_keeps (c : BitVec 3) (d s1 s2 : BitVec 5) (rnd ty : BitVec 3) (s : State) :
    ∃ out, Sys2Proof.Machine.execFclass c d s1 s2 rnd ty s = .next out ∧ Keeps s out := by
  refine ⟨_, rfl, ?_⟩
  repeat' (first
    | (with_reducible exact Keeps.refl _)
    | (with_reducible assumption)
    | (with_reducible apply State.next_keeps)
    | (with_reducible apply State.fpIns_keeps))

theorem execFrndint_keeps (c : BitVec 3) (d s1 s2 : BitVec 5) (rnd ty : BitVec 3) (s : State) :
    ∃ out, Sys2Proof.Machine.execFrndint c d s1 s2 rnd ty s = .next out ∧ Keeps s out := by
  refine ⟨_, rfl, ?_⟩
  repeat' (first
    | (with_reducible exact Keeps.refl _)
    | (with_reducible assumption)
    | (with_reducible apply State.next_keeps)
    | (with_reducible apply State.fpIns_keeps))

theorem execFquant_keeps (c : BitVec 3) (d s1 s2 : BitVec 5) (rnd ty : BitVec 3) (s : State) :
    ∃ out, Sys2Proof.Machine.execFquant c d s1 s2 rnd ty s = .next out ∧ Keeps s out := by
  refine ⟨_, rfl, ?_⟩
  repeat' (first
    | (with_reducible exact Keeps.refl _)
    | (with_reducible assumption)
    | (with_reducible apply State.next_keeps)
    | (with_reducible apply State.fpIns_keeps))

theorem execFscaleb_keeps (c : BitVec 3) (d s1 s2 : BitVec 5) (rnd ty : BitVec 3) (s : State) :
    ∃ out, Sys2Proof.Machine.execFscaleb c d s1 s2 rnd ty s = .next out ∧ Keeps s out := by
  refine ⟨_, rfl, ?_⟩
  repeat' (first
    | (with_reducible exact Keeps.refl _)
    | (with_reducible assumption)
    | (with_reducible apply State.next_keeps)
    | (with_reducible apply State.fpIns_keeps))

theorem execFlogb_keeps (c : BitVec 3) (d s1 s2 : BitVec 5) (rnd ty : BitVec 3) (s : State) :
    ∃ out, Sys2Proof.Machine.execFlogb c d s1 s2 rnd ty s = .next out ∧ Keeps s out := by
  refine ⟨_, rfl, ?_⟩
  repeat' (first
    | (with_reducible exact Keeps.refl _)
    | (with_reducible assumption)
    | (with_reducible apply State.next_keeps)
    | (with_reducible apply State.fpIns_keeps))

theorem execFma_keeps (c : BitVec 3) (d s1 s2 s3 : BitVec 5) (rnd ty : BitVec 3) (s : State) :
    ∃ out, Sys2Proof.Machine.execFma c d s1 s2 s3 rnd ty s = .next out ∧ Keeps s out := by
  refine ⟨_, rfl, ?_⟩
  repeat' (first
    | (with_reducible exact Keeps.refl _)
    | (with_reducible assumption)
    | (with_reducible apply State.next_keeps)
    | (with_reducible apply State.fmaIns_keeps))

theorem execFms_keeps (c : BitVec 3) (d s1 s2 s3 : BitVec 5) (rnd ty : BitVec 3) (s : State) :
    ∃ out, Sys2Proof.Machine.execFms c d s1 s2 s3 rnd ty s = .next out ∧ Keeps s out := by
  refine ⟨_, rfl, ?_⟩
  repeat' (first
    | (with_reducible exact Keeps.refl _)
    | (with_reducible assumption)
    | (with_reducible apply State.next_keeps)
    | (with_reducible apply State.fmaIns_keeps))

theorem execFnma_keeps (c : BitVec 3) (d s1 s2 s3 : BitVec 5) (rnd ty : BitVec 3) (s : State) :
    ∃ out, Sys2Proof.Machine.execFnma c d s1 s2 s3 rnd ty s = .next out ∧ Keeps s out := by
  refine ⟨_, rfl, ?_⟩
  repeat' (first
    | (with_reducible exact Keeps.refl _)
    | (with_reducible assumption)
    | (with_reducible apply State.next_keeps)
    | (with_reducible apply State.fmaIns_keeps))

theorem execCvt_keeps (c : BitVec 3) (d s1 : BitVec 5) (sty tty : BitVec 4) (rnd : BitVec 3) (s : State) :
    ∃ out, Sys2Proof.Machine.execCvt c d s1 sty tty rnd s = .next out ∧ Keeps s out := by
  refine ⟨_, rfl, ?_⟩
  repeat' (first
    | (with_reducible exact Keeps.refl _)
    | (with_reducible assumption)
    | (with_reducible apply State.next_keeps)
    | (with_reducible apply State.cvtIns_keeps))

theorem execCvtsat_keeps (c : BitVec 3) (d s1 : BitVec 5) (sty tty : BitVec 4) (rnd : BitVec 3) (s : State) :
    ∃ out, Sys2Proof.Machine.execCvtsat c d s1 sty tty rnd s = .next out ∧ Keeps s out := by
  refine ⟨_, rfl, ?_⟩
  repeat' (first
    | (with_reducible exact Keeps.refl _)
    | (with_reducible assumption)
    | (with_reducible apply State.next_keeps)
    | (with_reducible apply State.cvtIns_keeps))

theorem execVadd_keeps (c : BitVec 3) (vd vs1 vs2 : BitVec 5) (masked scalar : Bool) (s : State) :
    ∃ out, Sys2Proof.Machine.execVadd c vd vs1 vs2 masked scalar s = .next out ∧ Keeps s out := by
  refine ⟨_, rfl, ?_⟩
  repeat' (first
    | (with_reducible exact Keeps.refl _)
    | (with_reducible assumption)
    | (with_reducible apply State.next_keeps)
    | (with_reducible apply State.vecOp_keeps))

theorem execVsub_keeps (c : BitVec 3) (vd vs1 vs2 : BitVec 5) (masked scalar : Bool) (s : State) :
    ∃ out, Sys2Proof.Machine.execVsub c vd vs1 vs2 masked scalar s = .next out ∧ Keeps s out := by
  refine ⟨_, rfl, ?_⟩
  repeat' (first
    | (with_reducible exact Keeps.refl _)
    | (with_reducible assumption)
    | (with_reducible apply State.next_keeps)
    | (with_reducible apply State.vecOp_keeps))

theorem execVmul_keeps (c : BitVec 3) (vd vs1 vs2 : BitVec 5) (masked scalar : Bool) (s : State) :
    ∃ out, Sys2Proof.Machine.execVmul c vd vs1 vs2 masked scalar s = .next out ∧ Keeps s out := by
  refine ⟨_, rfl, ?_⟩
  repeat' (first
    | (with_reducible exact Keeps.refl _)
    | (with_reducible assumption)
    | (with_reducible apply State.next_keeps)
    | (with_reducible apply State.vecOp_keeps))

theorem execVmulh_keeps (c : BitVec 3) (vd vs1 vs2 : BitVec 5) (masked scalar : Bool) (s : State) :
    ∃ out, Sys2Proof.Machine.execVmulh c vd vs1 vs2 masked scalar s = .next out ∧ Keeps s out := by
  refine ⟨_, rfl, ?_⟩
  repeat' (first
    | (with_reducible exact Keeps.refl _)
    | (with_reducible assumption)
    | (with_reducible apply State.next_keeps)
    | (with_reducible apply State.vecOp_keeps))

theorem execVdiv_keeps (c : BitVec 3) (vd vs1 vs2 : BitVec 5) (masked scalar : Bool) (s : State) :
    ∃ out, Sys2Proof.Machine.execVdiv c vd vs1 vs2 masked scalar s = .next out ∧ Keeps s out := by
  refine ⟨_, rfl, ?_⟩
  repeat' (first
    | (with_reducible exact Keeps.refl _)
    | (with_reducible assumption)
    | (with_reducible apply State.next_keeps)
    | (with_reducible apply State.vecOp_keeps))

theorem execVsqrt_keeps (c : BitVec 3) (vd vs1 vs2 : BitVec 5) (masked scalar : Bool) (s : State) :
    ∃ out, Sys2Proof.Machine.execVsqrt c vd vs1 vs2 masked scalar s = .next out ∧ Keeps s out := by
  refine ⟨_, rfl, ?_⟩
  repeat' (first
    | (with_reducible exact Keeps.refl _)
    | (with_reducible assumption)
    | (with_reducible apply State.next_keeps)
    | (with_reducible apply State.vecOp_keeps))

theorem execVmin_keeps (c : BitVec 3) (vd vs1 vs2 : BitVec 5) (masked scalar : Bool) (s : State) :
    ∃ out, Sys2Proof.Machine.execVmin c vd vs1 vs2 masked scalar s = .next out ∧ Keeps s out := by
  refine ⟨_, rfl, ?_⟩
  repeat' (first
    | (with_reducible exact Keeps.refl _)
    | (with_reducible assumption)
    | (with_reducible apply State.next_keeps)
    | (with_reducible apply State.vecOp_keeps))

theorem execVmax_keeps (c : BitVec 3) (vd vs1 vs2 : BitVec 5) (masked scalar : Bool) (s : State) :
    ∃ out, Sys2Proof.Machine.execVmax c vd vs1 vs2 masked scalar s = .next out ∧ Keeps s out := by
  refine ⟨_, rfl, ?_⟩
  repeat' (first
    | (with_reducible exact Keeps.refl _)
    | (with_reducible assumption)
    | (with_reducible apply State.next_keeps)
    | (with_reducible apply State.vecOp_keeps))

theorem execVand_keeps (c : BitVec 3) (vd vs1 vs2 : BitVec 5) (masked scalar : Bool) (s : State) :
    ∃ out, Sys2Proof.Machine.execVand c vd vs1 vs2 masked scalar s = .next out ∧ Keeps s out := by
  refine ⟨_, rfl, ?_⟩
  repeat' (first
    | (with_reducible exact Keeps.refl _)
    | (with_reducible assumption)
    | (with_reducible apply State.next_keeps)
    | (with_reducible apply State.vecOp_keeps))

theorem execVor_keeps (c : BitVec 3) (vd vs1 vs2 : BitVec 5) (masked scalar : Bool) (s : State) :
    ∃ out, Sys2Proof.Machine.execVor c vd vs1 vs2 masked scalar s = .next out ∧ Keeps s out := by
  refine ⟨_, rfl, ?_⟩
  repeat' (first
    | (with_reducible exact Keeps.refl _)
    | (with_reducible assumption)
    | (with_reducible apply State.next_keeps)
    | (with_reducible apply State.vecOp_keeps))

theorem execVxor_keeps (c : BitVec 3) (vd vs1 vs2 : BitVec 5) (masked scalar : Bool) (s : State) :
    ∃ out, Sys2Proof.Machine.execVxor c vd vs1 vs2 masked scalar s = .next out ∧ Keeps s out := by
  refine ⟨_, rfl, ?_⟩
  repeat' (first
    | (with_reducible exact Keeps.refl _)
    | (with_reducible assumption)
    | (with_reducible apply State.next_keeps)
    | (with_reducible apply State.vecOp_keeps))

theorem execVshl_keeps (c : BitVec 3) (vd vs1 vs2 : BitVec 5) (masked scalar : Bool) (s : State) :
    ∃ out, Sys2Proof.Machine.execVshl c vd vs1 vs2 masked scalar s = .next out ∧ Keeps s out := by
  refine ⟨_, rfl, ?_⟩
  repeat' (first
    | (with_reducible exact Keeps.refl _)
    | (with_reducible assumption)
    | (with_reducible apply State.next_keeps)
    | (with_reducible apply State.vecOp_keeps))

theorem execVshr_keeps (c : BitVec 3) (vd vs1 vs2 : BitVec 5) (masked scalar : Bool) (s : State) :
    ∃ out, Sys2Proof.Machine.execVshr c vd vs1 vs2 masked scalar s = .next out ∧ Keeps s out := by
  refine ⟨_, rfl, ?_⟩
  repeat' (first
    | (with_reducible exact Keeps.refl _)
    | (with_reducible assumption)
    | (with_reducible apply State.next_keeps)
    | (with_reducible apply State.vecOp_keeps))

theorem execVsar_keeps (c : BitVec 3) (vd vs1 vs2 : BitVec 5) (masked scalar : Bool) (s : State) :
    ∃ out, Sys2Proof.Machine.execVsar c vd vs1 vs2 masked scalar s = .next out ∧ Keeps s out := by
  refine ⟨_, rfl, ?_⟩
  repeat' (first
    | (with_reducible exact Keeps.refl _)
    | (with_reducible assumption)
    | (with_reducible apply State.next_keeps)
    | (with_reducible apply State.vecOp_keeps))

theorem execVsel_keeps (c : BitVec 3) (vd vs1 vs2 : BitVec 5) (masked scalar : Bool) (s : State) :
    ∃ out, Sys2Proof.Machine.execVsel c vd vs1 vs2 masked scalar s = .next out ∧ Keeps s out := by
  refine ⟨_, rfl, ?_⟩
  repeat' (first
    | (with_reducible exact Keeps.refl _)
    | (with_reducible assumption)
    | (with_reducible apply State.next_keeps)
    | (with_reducible apply State.vecSel_keeps))

theorem execVcmpeq_keeps (c : BitVec 3) (vd vs1 vs2 : BitVec 5) (masked scalar : Bool) (s : State) :
    ∃ out, Sys2Proof.Machine.execVcmpeq c vd vs1 vs2 masked scalar s = .next out ∧ Keeps s out := by
  refine ⟨_, rfl, ?_⟩
  repeat' (first
    | (with_reducible exact Keeps.refl _)
    | (with_reducible assumption)
    | (with_reducible apply State.next_keeps)
    | (with_reducible apply State.vecCmp_keeps))

theorem execVcmpne_keeps (c : BitVec 3) (vd vs1 vs2 : BitVec 5) (masked scalar : Bool) (s : State) :
    ∃ out, Sys2Proof.Machine.execVcmpne c vd vs1 vs2 masked scalar s = .next out ∧ Keeps s out := by
  refine ⟨_, rfl, ?_⟩
  repeat' (first
    | (with_reducible exact Keeps.refl _)
    | (with_reducible assumption)
    | (with_reducible apply State.next_keeps)
    | (with_reducible apply State.vecCmp_keeps))

theorem execVcmplt_keeps (c : BitVec 3) (vd vs1 vs2 : BitVec 5) (masked scalar : Bool) (s : State) :
    ∃ out, Sys2Proof.Machine.execVcmplt c vd vs1 vs2 masked scalar s = .next out ∧ Keeps s out := by
  refine ⟨_, rfl, ?_⟩
  repeat' (first
    | (with_reducible exact Keeps.refl _)
    | (with_reducible assumption)
    | (with_reducible apply State.next_keeps)
    | (with_reducible apply State.vecCmp_keeps))

theorem execVcmple_keeps (c : BitVec 3) (vd vs1 vs2 : BitVec 5) (masked scalar : Bool) (s : State) :
    ∃ out, Sys2Proof.Machine.execVcmple c vd vs1 vs2 masked scalar s = .next out ∧ Keeps s out := by
  refine ⟨_, rfl, ?_⟩
  repeat' (first
    | (with_reducible exact Keeps.refl _)
    | (with_reducible assumption)
    | (with_reducible apply State.next_keeps)
    | (with_reducible apply State.vecCmp_keeps))

theorem execVfma_keeps (c : BitVec 3) (vd vs1 vs2 : BitVec 5) (masked scalar : Bool) (s : State) :
    ∃ out, Sys2Proof.Machine.execVfma c vd vs1 vs2 masked scalar s = .next out ∧ Keeps s out := by
  refine ⟨_, rfl, ?_⟩
  repeat' (first
    | (with_reducible exact Keeps.refl _)
    | (with_reducible assumption)
    | (with_reducible apply State.next_keeps)
    | (with_reducible apply State.vecOp_keeps))

theorem execVfms_keeps (c : BitVec 3) (vd vs1 vs2 : BitVec 5) (masked scalar : Bool) (s : State) :
    ∃ out, Sys2Proof.Machine.execVfms c vd vs1 vs2 masked scalar s = .next out ∧ Keeps s out := by
  refine ⟨_, rfl, ?_⟩
  repeat' (first
    | (with_reducible exact Keeps.refl _)
    | (with_reducible assumption)
    | (with_reducible apply State.next_keeps)
    | (with_reducible apply State.vecOp_keeps))

theorem execVredsum_keeps (c : BitVec 3) (vd vs1 vs2 : BitVec 5) (masked scalar : Bool) (s : State) :
    ∃ out, Sys2Proof.Machine.execVredsum c vd vs1 vs2 masked scalar s = .next out ∧ Keeps s out := by
  refine ⟨_, rfl, ?_⟩
  repeat' (first
    | (with_reducible exact Keeps.refl _)
    | (with_reducible assumption)
    | (with_reducible apply State.next_keeps)
    | (with_reducible apply State.vecRed_keeps))

theorem execVredmin_keeps (c : BitVec 3) (vd vs1 vs2 : BitVec 5) (masked scalar : Bool) (s : State) :
    ∃ out, Sys2Proof.Machine.execVredmin c vd vs1 vs2 masked scalar s = .next out ∧ Keeps s out := by
  refine ⟨_, rfl, ?_⟩
  repeat' (first
    | (with_reducible exact Keeps.refl _)
    | (with_reducible assumption)
    | (with_reducible apply State.next_keeps)
    | (with_reducible apply State.vecRed_keeps))

theorem execVredmax_keeps (c : BitVec 3) (vd vs1 vs2 : BitVec 5) (masked scalar : Bool) (s : State) :
    ∃ out, Sys2Proof.Machine.execVredmax c vd vs1 vs2 masked scalar s = .next out ∧ Keeps s out := by
  refine ⟨_, rfl, ?_⟩
  repeat' (first
    | (with_reducible exact Keeps.refl _)
    | (with_reducible assumption)
    | (with_reducible apply State.next_keeps)
    | (with_reducible apply State.vecRed_keeps))

theorem execVmvx_keeps (c : BitVec 3) (vd vs1 vs2 : BitVec 5) (masked scalar : Bool) (s : State) :
    ∃ out, Sys2Proof.Machine.execVmvx c vd vs1 vs2 masked scalar s = .next out ∧ Keeps s out := by
  refine ⟨_, rfl, ?_⟩
  repeat' (first
    | (with_reducible exact Keeps.refl _)
    | (with_reducible assumption)
    | (with_reducible apply State.next_keeps)
    | (with_reducible apply State.vecMvx_keeps))

theorem execSetvl_keeps (c : BitVec 3) (d s1 : BitVec 5) (imm : BitVec 16) (s : State) :
    ∃ out, Sys2Proof.Machine.execSetvl c d s1 imm s = .next out ∧ Keeps s out := by
  refine ⟨_, rfl, ?_⟩
  repeat' (first
    | (with_reducible exact Keeps.refl _)
    | (with_reducible assumption)
    | (with_reducible apply State.next_keeps)
    | (with_reducible apply State.setvlIns_keeps))

theorem execVld_keeps (c : BitVec 3) (d s1 : BitVec 5) (imm : BitVec 16) (s : State) :
    ∃ out, Sys2Proof.Machine.execVld c d s1 imm s = .next out ∧ Keeps s out := by
  refine ⟨_, rfl, ?_⟩
  repeat' (first
    | (with_reducible exact Keeps.refl _)
    | (with_reducible assumption)
    | (with_reducible apply State.next_keeps)
    | (with_reducible apply State.vldIns_keeps))

theorem execVst_keeps (c : BitVec 3) (d s1 : BitVec 5) (imm : BitVec 16) (s : State) :
    ∃ out, Sys2Proof.Machine.execVst c d s1 imm s = .next out ∧ Keeps s out := by
  refine ⟨_, rfl, ?_⟩
  repeat' (first
    | (with_reducible exact Keeps.refl _)
    | (with_reducible assumption)
    | (with_reducible apply State.next_keeps)
    | (with_reducible apply State.vstIns_keeps))

end Sys2Proof.Machine
end

