-- ==== Sys2Proof/Laws/ExecHost.lean ====
section
/-!
SUPPORT. What the commands of Machine/CmdHost.lean keep: each answers a next state that `Keeps` relates to the state before.
-/
namespace Sys2Proof.Machine

theorem execSqTailDoorbell_keeps (f : World) (n : BitVec 6) (t : BitVec 16) (s : State) :
    ∃ out, Sys2Proof.Machine.execSqTailDoorbell f n t s = .next out ∧ Keeps s out := by
  refine ⟨_, rfl, ?_⟩
  repeat' (first
    | (with_reducible exact Keeps.refl _)
    | (with_reducible assumption)
    | (with_reducible apply State.next_keeps)
    | (with_reducible apply State.sqDoorbell_keeps))

theorem execCqHeadDoorbell_keeps (f : World) (n : BitVec 6) (h : BitVec 16) (s : State) :
    ∃ out, Sys2Proof.Machine.execCqHeadDoorbell f n h s = .next out ∧ Keeps s out := by
  refine ⟨_, rfl, ?_⟩
  repeat' (first
    | (with_reducible exact Keeps.refl _)
    | (with_reducible assumption)
    | (with_reducible apply State.next_keeps)
    | (with_reducible apply State.cqDoorbell_keeps))

theorem execDescriptorFetch_keeps (f : World) (n : BitVec 6) (s : State) :
    ∃ out, Sys2Proof.Machine.execDescriptorFetch f n s = .next out ∧ Keeps s out := by
  refine ⟨_, rfl, ?_⟩
  repeat' (first
    | (with_reducible exact Keeps.refl _)
    | (with_reducible assumption)
    | (with_reducible apply State.next_keeps)
    | (with_reducible apply State.descFetch_keeps))

theorem execRunDesc_keeps (f : World) (n : BitVec 6) (i : BitVec 3) (s : State) :
    ∃ out, Sys2Proof.Machine.execRunDesc f n i s = .next out ∧ Keeps s out := by
  refine ⟨_, rfl, ?_⟩
  repeat' (first
    | (with_reducible exact Keeps.refl _)
    | (with_reducible assumption)
    | (with_reducible apply State.next_keeps)
    | (with_reducible apply State.runDesc_keeps))

theorem execCopyHostToDevice_keeps (f : World) (n : BitVec 6) (i : BitVec 3) (k : Nat) (s : State) :
    ∃ out, Sys2Proof.Machine.execCopyHostToDevice f n i k s = .next out ∧ Keeps s out := by
  refine ⟨_, rfl, ?_⟩
  repeat' (first
    | (with_reducible exact Keeps.refl _)
    | (with_reducible assumption)
    | (with_reducible apply State.next_keeps)
    | (with_reducible apply State.copyIn_keeps))

theorem execCopyDeviceToHost_keeps (f : World) (n : BitVec 6) (i : BitVec 3) (k : Nat) (s : State) :
    ∃ out, Sys2Proof.Machine.execCopyDeviceToHost f n i k s = .next out ∧ Keeps s out := by
  refine ⟨_, rfl, ?_⟩
  repeat' (first
    | (with_reducible exact Keeps.refl _)
    | (with_reducible assumption)
    | (with_reducible apply State.next_keeps)
    | (with_reducible apply State.copyOut_keeps))

theorem execCopyToRelay_keeps (f : World) (n : BitVec 6) (i : BitVec 3) (k : Nat) (s : State) :
    ∃ out, Sys2Proof.Machine.execCopyToRelay f n i k s = .next out ∧ Keeps s out := by
  refine ⟨_, rfl, ?_⟩
  repeat' (first
    | (with_reducible exact Keeps.refl _)
    | (with_reducible assumption)
    | (with_reducible apply State.next_keeps)
    | (with_reducible apply State.copyToRelay_keeps))

theorem execCopyToFrame_keeps (f : World) (n : BitVec 6) (i : BitVec 3) (s : State) :
    ∃ out, Sys2Proof.Machine.execCopyToFrame f n i s = .next out ∧ Keeps s out := by
  refine ⟨_, rfl, ?_⟩
  repeat' (first
    | (with_reducible exact Keeps.refl _)
    | (with_reducible assumption)
    | (with_reducible apply State.next_keeps)
    | (with_reducible apply State.copyToFrame_keeps))

theorem execArchiveRead_keeps (f : World) (n : BitVec 6) (i : BitVec 3) (k : Nat) (s : State) :
    ∃ out, Sys2Proof.Machine.execArchiveRead f n i k s = .next out ∧ Keeps s out := by
  refine ⟨_, rfl, ?_⟩
  repeat' (first
    | (with_reducible exact Keeps.refl _)
    | (with_reducible assumption)
    | (with_reducible apply State.next_keeps)
    | (with_reducible apply State.archiveDesc_keeps))

theorem execConfigStage_keeps (f : World) (n : BitVec 6) (i : BitVec 3) (s : State) :
    ∃ out, Sys2Proof.Machine.execConfigStage f n i s = .next out ∧ Keeps s out := by
  refine ⟨_, rfl, ?_⟩
  repeat' (first
    | (with_reducible exact Keeps.refl _)
    | (with_reducible assumption)
    | (with_reducible apply State.next_keeps)
    | (with_reducible apply State.configStage_keeps))

theorem execNoteDesc_keeps (f : World) (n : BitVec 6) (i : BitVec 3) (s : State) :
    ∃ out, Sys2Proof.Machine.execNoteDesc f n i s = .next out ∧ Keeps s out := by
  refine ⟨_, rfl, ?_⟩
  repeat' (first
    | (with_reducible exact Keeps.refl _)
    | (with_reducible assumption)
    | (with_reducible apply State.next_keeps)
    | (with_reducible apply State.noteDesc_keeps))

theorem execCompletionWrite_keeps (f : World) (n : BitVec 6) (s : State) :
    ∃ out, Sys2Proof.Machine.execCompletionWrite f n s = .next out ∧ Keeps s out := by
  refine ⟨_, rfl, ?_⟩
  repeat' (first
    | (with_reducible exact Keeps.refl _)
    | (with_reducible assumption)
    | (with_reducible apply State.next_keeps)
    | (with_reducible apply State.cqWrite_keeps))

theorem execCoalesceTimer_keeps (f : World) (n : BitVec 6) (s : State) :
    ∃ out, Sys2Proof.Machine.execCoalesceTimer f n s = .next out ∧ Keeps s out := by
  refine ⟨_, rfl, ?_⟩
  repeat' (first
    | (with_reducible exact Keeps.refl _)
    | (with_reducible assumption)
    | (with_reducible apply State.next_keeps)
    | (with_reducible apply State.coalesce_keeps))

theorem execRingEnable_keeps (m : Master) (f : World) (cq : Bool) (n : BitVec 6) (v : Word) (s : State) :
    ∃ out, Sys2Proof.Machine.execRingEnable m f cq n v s = .next out ∧ Keeps s out := by
  refine ⟨_, rfl, ?_⟩
  repeat' (first
    | (with_reducible exact Keeps.refl _)
    | (with_reducible assumption)
    | (with_reducible apply State.next_keeps)
    | (with_reducible apply State.write_keeps)
    | split)

theorem execRingDisable_keeps (m : Master) (f : World) (cq : Bool) (n : BitVec 6) (v : Word) (s : State) :
    ∃ out, Sys2Proof.Machine.execRingDisable m f cq n v s = .next out ∧ Keeps s out := by
  refine ⟨_, rfl, ?_⟩
  repeat' (first
    | (with_reducible exact Keeps.refl _)
    | (with_reducible assumption)
    | (with_reducible apply State.next_keeps)
    | (with_reducible apply State.write_keeps)
    | split)

theorem execFunctionLevelReset_keeps (f : World) (s : State) :
    ∃ out, Sys2Proof.Machine.execFunctionLevelReset f s = .next out ∧ Keeps s out := by
  refine ⟨_, rfl, ?_⟩
  repeat' (first
    | (with_reducible exact Keeps.refl _)
    | (with_reducible assumption)
    | (with_reducible apply State.next_keeps)
    | (with_reducible apply State.flr_keeps))

theorem execPcieLinkDown_keeps (s : State) :
    ∃ out, Sys2Proof.Machine.execPcieLinkDown s = .next out ∧ Keeps s out := by
  refine ⟨_, rfl, ?_⟩
  repeat' (first
    | (with_reducible exact Keeps.refl _)
    | (with_reducible assumption)
    | (with_reducible apply State.next_keeps)
    | (with_reducible apply State.hostDown_keeps))

theorem execPciePerstNFall_keeps (s : State) :
    ∃ out, Sys2Proof.Machine.execPciePerstNFall s = .next out ∧ Keeps s out := by
  refine ⟨_, rfl, ?_⟩
  repeat' (first
    | (with_reducible exact Keeps.refl _)
    | (with_reducible assumption)
    | (with_reducible apply State.next_keeps)
    | (with_reducible apply State.hostDown_keeps))

theorem execPcieLinkUp_keeps (gen : BitVec 3) (width : BitVec 5) (bme : BitVec 2) (s : State) :
    ∃ out, Sys2Proof.Machine.execPcieLinkUp gen width bme s = .next out ∧ Keeps s out := by
  refine ⟨_, rfl, ?_⟩
  repeat' (first
    | (with_reducible exact Keeps.refl _)
    | (with_reducible assumption)
    | (with_reducible apply State.next_keeps)
    | (with_reducible apply State.hostLinkUp_keeps))

theorem execCompletionTimeout_keeps (who : HostReader) (s : State) :
    ∃ out, Sys2Proof.Machine.execCompletionTimeout who s = .next out ∧ Keeps s out := by
  refine ⟨_, rfl, ?_⟩
  repeat' (first
    | (with_reducible exact Keeps.refl _)
    | (with_reducible assumption)
    | (with_reducible apply State.next_keeps)
    | (with_reducible apply State.hostTimeout_keeps))

theorem execBar4Access_keeps (f : World) (off : BitVec 24) (size : Nat) (wr : Option Word) (s : State) :
    ∃ out, Sys2Proof.Machine.execBar4Access f off size wr s = .next out ∧ Keeps s out := by
  refine ⟨_, rfl, ?_⟩
  repeat' (first
    | (with_reducible exact Keeps.refl _)
    | (with_reducible assumption)
    | (with_reducible apply State.next_keeps)
    | (with_reducible apply State.bar4_keeps))

end Sys2Proof.Machine
end

