-- ==== Sys2Proof/Laws/ExecInteger.lean ====
section
/-!
SUPPORT. What the commands of Machine/CmdInteger.lean keep: each answers a next state that `Keeps` relates to the state before.
-/
namespace Sys2Proof.Machine

theorem execAdd_keeps (c : BitVec 3) (d s1 s2 : BitVec 5) (s : State) :
    ∃ out, Sys2Proof.Machine.execAdd c d s1 s2 s = .next out ∧ Keeps s out := by
  refine ⟨_, rfl, ?_⟩
  repeat' (first
    | (with_reducible exact Keeps.refl _)
    | (with_reducible assumption)
    | (with_reducible apply State.next_keeps)
    | (with_reducible apply State.alu2_keeps)
    | (intro _ _; (try beta_reduce))
    | (intro _; (try beta_reduce)))

theorem execSub_keeps (c : BitVec 3) (d s1 s2 : BitVec 5) (s : State) :
    ∃ out, Sys2Proof.Machine.execSub c d s1 s2 s = .next out ∧ Keeps s out := by
  refine ⟨_, rfl, ?_⟩
  repeat' (first
    | (with_reducible exact Keeps.refl _)
    | (with_reducible assumption)
    | (with_reducible apply State.next_keeps)
    | (with_reducible apply State.alu2_keeps)
    | (intro _ _; (try beta_reduce))
    | (intro _; (try beta_reduce)))

theorem execAnd_keeps (c : BitVec 3) (d s1 s2 : BitVec 5) (s : State) :
    ∃ out, Sys2Proof.Machine.execAnd c d s1 s2 s = .next out ∧ Keeps s out := by
  refine ⟨_, rfl, ?_⟩
  repeat' (first
    | (with_reducible exact Keeps.refl _)
    | (with_reducible assumption)
    | (with_reducible apply State.next_keeps)
    | (with_reducible apply State.alu2_keeps)
    | (intro _ _; (try beta_reduce))
    | (intro _; (try beta_reduce)))

theorem execOr_keeps (c : BitVec 3) (d s1 s2 : BitVec 5) (s : State) :
    ∃ out, Sys2Proof.Machine.execOr c d s1 s2 s = .next out ∧ Keeps s out := by
  refine ⟨_, rfl, ?_⟩
  repeat' (first
    | (with_reducible exact Keeps.refl _)
    | (with_reducible assumption)
    | (with_reducible apply State.next_keeps)
    | (with_reducible apply State.alu2_keeps)
    | (intro _ _; (try beta_reduce))
    | (intro _; (try beta_reduce)))

theorem execXor_keeps (c : BitVec 3) (d s1 s2 : BitVec 5) (s : State) :
    ∃ out, Sys2Proof.Machine.execXor c d s1 s2 s = .next out ∧ Keeps s out := by
  refine ⟨_, rfl, ?_⟩
  repeat' (first
    | (with_reducible exact Keeps.refl _)
    | (with_reducible assumption)
    | (with_reducible apply State.next_keeps)
    | (with_reducible apply State.alu2_keeps)
    | (intro _ _; (try beta_reduce))
    | (intro _; (try beta_reduce)))

theorem execAndn_keeps (c : BitVec 3) (d s1 s2 : BitVec 5) (s : State) :
    ∃ out, Sys2Proof.Machine.execAndn c d s1 s2 s = .next out ∧ Keeps s out := by
  refine ⟨_, rfl, ?_⟩
  repeat' (first
    | (with_reducible exact Keeps.refl _)
    | (with_reducible assumption)
    | (with_reducible apply State.next_keeps)
    | (with_reducible apply State.alu2_keeps)
    | (intro _ _; (try beta_reduce))
    | (intro _; (try beta_reduce)))

theorem execShl_keeps (c : BitVec 3) (d s1 s2 : BitVec 5) (s : State) :
    ∃ out, Sys2Proof.Machine.execShl c d s1 s2 s = .next out ∧ Keeps s out := by
  refine ⟨_, rfl, ?_⟩
  repeat' (first
    | (with_reducible exact Keeps.refl _)
    | (with_reducible assumption)
    | (with_reducible apply State.next_keeps)
    | (with_reducible apply State.alu2_keeps)
    | (intro _ _; (try beta_reduce))
    | (intro _; (try beta_reduce))
    | split)

theorem execShr_keeps (c : BitVec 3) (d s1 s2 : BitVec 5) (s : State) :
    ∃ out, Sys2Proof.Machine.execShr c d s1 s2 s = .next out ∧ Keeps s out := by
  refine ⟨_, rfl, ?_⟩
  repeat' (first
    | (with_reducible exact Keeps.refl _)
    | (with_reducible assumption)
    | (with_reducible apply State.next_keeps)
    | (with_reducible apply State.alu2_keeps)
    | (intro _ _; (try beta_reduce))
    | (intro _; (try beta_reduce))
    | split)

theorem execSar_keeps (c : BitVec 3) (d s1 s2 : BitVec 5) (s : State) :
    ∃ out, Sys2Proof.Machine.execSar c d s1 s2 s = .next out ∧ Keeps s out := by
  refine ⟨_, rfl, ?_⟩
  repeat' (first
    | (with_reducible exact Keeps.refl _)
    | (with_reducible assumption)
    | (with_reducible apply State.next_keeps)
    | (with_reducible apply State.alu2_keeps)
    | (intro _ _; (try beta_reduce))
    | (intro _; (try beta_reduce))
    | split)

theorem execRotl_keeps (c : BitVec 3) (d s1 s2 : BitVec 5) (s : State) :
    ∃ out, Sys2Proof.Machine.execRotl c d s1 s2 s = .next out ∧ Keeps s out := by
  refine ⟨_, rfl, ?_⟩
  repeat' (first
    | (with_reducible exact Keeps.refl _)
    | (with_reducible assumption)
    | (with_reducible apply State.next_keeps)
    | (with_reducible apply State.alu2_keeps)
    | (intro _ _; (try beta_reduce))
    | (intro _; (try beta_reduce)))

theorem execSlt_keeps (c : BitVec 3) (d s1 s2 : BitVec 5) (s : State) :
    ∃ out, Sys2Proof.Machine.execSlt c d s1 s2 s = .next out ∧ Keeps s out := by
  refine ⟨_, rfl, ?_⟩
  repeat' (first
    | (with_reducible exact Keeps.refl _)
    | (with_reducible assumption)
    | (with_reducible apply State.next_keeps)
    | (with_reducible apply State.alu2_keeps)
    | (intro _ _; (try beta_reduce))
    | (intro _; (try beta_reduce)))

theorem execSltu_keeps (c : BitVec 3) (d s1 s2 : BitVec 5) (s : State) :
    ∃ out, Sys2Proof.Machine.execSltu c d s1 s2 s = .next out ∧ Keeps s out := by
  refine ⟨_, rfl, ?_⟩
  repeat' (first
    | (with_reducible exact Keeps.refl _)
    | (with_reducible assumption)
    | (with_reducible apply State.next_keeps)
    | (with_reducible apply State.alu2_keeps)
    | (intro _ _; (try beta_reduce))
    | (intro _; (try beta_reduce)))

theorem execMin_keeps (c : BitVec 3) (d s1 s2 : BitVec 5) (s : State) :
    ∃ out, Sys2Proof.Machine.execMin c d s1 s2 s = .next out ∧ Keeps s out := by
  refine ⟨_, rfl, ?_⟩
  repeat' (first
    | (with_reducible exact Keeps.refl _)
    | (with_reducible assumption)
    | (with_reducible apply State.next_keeps)
    | (with_reducible apply State.alu2_keeps)
    | (intro _ _; (try beta_reduce))
    | (intro _; (try beta_reduce))
    | split)

theorem execMax_keeps (c : BitVec 3) (d s1 s2 : BitVec 5) (s : State) :
    ∃ out, Sys2Proof.Machine.execMax c d s1 s2 s = .next out ∧ Keeps s out := by
  refine ⟨_, rfl, ?_⟩
  repeat' (first
    | (with_reducible exact Keeps.refl _)
    | (with_reducible assumption)
    | (with_reducible apply State.next_keeps)
    | (with_reducible apply State.alu2_keeps)
    | (intro _ _; (try beta_reduce))
    | (intro _; (try beta_reduce))
    | split)

theorem execMinu_keeps (c : BitVec 3) (d s1 s2 : BitVec 5) (s : State) :
    ∃ out, Sys2Proof.Machine.execMinu c d s1 s2 s = .next out ∧ Keeps s out := by
  refine ⟨_, rfl, ?_⟩
  repeat' (first
    | (with_reducible exact Keeps.refl _)
    | (with_reducible assumption)
    | (with_reducible apply State.next_keeps)
    | (with_reducible apply State.alu2_keeps)
    | (intro _ _; (try beta_reduce))
    | (intro _; (try beta_reduce))
    | split)

theorem execMaxu_keeps (c : BitVec 3) (d s1 s2 : BitVec 5) (s : State) :
    ∃ out, Sys2Proof.Machine.execMaxu c d s1 s2 s = .next out ∧ Keeps s out := by
  refine ⟨_, rfl, ?_⟩
  repeat' (first
    | (with_reducible exact Keeps.refl _)
    | (with_reducible assumption)
    | (with_reducible apply State.next_keeps)
    | (with_reducible apply State.alu2_keeps)
    | (intro _ _; (try beta_reduce))
    | (intro _; (try beta_reduce))
    | split)

theorem execAddsat_keeps (c : BitVec 3) (d s1 s2 : BitVec 5) (s : State) :
    ∃ out, Sys2Proof.Machine.execAddsat c d s1 s2 s = .next out ∧ Keeps s out := by
  refine ⟨_, rfl, ?_⟩
  repeat' (first
    | (with_reducible exact Keeps.refl _)
    | (with_reducible assumption)
    | (with_reducible apply State.next_keeps)
    | (with_reducible apply State.aluFlag_keeps)
    | (intro _ _; (try beta_reduce))
    | (intro _; (try beta_reduce)))

theorem execSubsat_keeps (c : BitVec 3) (d s1 s2 : BitVec 5) (s : State) :
    ∃ out, Sys2Proof.Machine.execSubsat c d s1 s2 s = .next out ∧ Keeps s out := by
  refine ⟨_, rfl, ?_⟩
  repeat' (first
    | (with_reducible exact Keeps.refl _)
    | (with_reducible assumption)
    | (with_reducible apply State.next_keeps)
    | (with_reducible apply State.aluFlag_keeps)
    | (intro _ _; (try beta_reduce))
    | (intro _; (try beta_reduce)))

theorem execClz_keeps (c : BitVec 3) (d s1 s2 : BitVec 5) (s : State) :
    ∃ out, Sys2Proof.Machine.execClz c d s1 s2 s = .next out ∧ Keeps s out := by
  refine ⟨_, rfl, ?_⟩
  repeat' (first
    | (with_reducible exact Keeps.refl _)
    | (with_reducible assumption)
    | (with_reducible apply State.next_keeps)
    | (with_reducible apply State.alu1_keeps)
    | (intro _ _; (try beta_reduce))
    | (intro _; (try beta_reduce)))

theorem execPopcnt_keeps (c : BitVec 3) (d s1 s2 : BitVec 5) (s : State) :
    ∃ out, Sys2Proof.Machine.execPopcnt c d s1 s2 s = .next out ∧ Keeps s out := by
  refine ⟨_, rfl, ?_⟩
  repeat' (first
    | (with_reducible exact Keeps.refl _)
    | (with_reducible assumption)
    | (with_reducible apply State.next_keeps)
    | (with_reducible apply State.alu1_keeps)
    | (intro _ _; (try beta_reduce))
    | (intro _; (try beta_reduce)))

theorem execAddi_keeps (c : BitVec 3) (d s1 : BitVec 5) (imm : BitVec 16) (s : State) :
    ∃ out, Sys2Proof.Machine.execAddi c d s1 imm s = .next out ∧ Keeps s out := by
  refine ⟨_, rfl, ?_⟩
  repeat' (first
    | (with_reducible exact Keeps.refl _)
    | (with_reducible assumption)
    | (with_reducible apply State.next_keeps)
    | (with_reducible apply State.alu1_keeps)
    | (intro _ _; (try beta_reduce))
    | (intro _; (try beta_reduce)))

theorem execAndi_keeps (c : BitVec 3) (d s1 : BitVec 5) (imm : BitVec 16) (s : State) :
    ∃ out, Sys2Proof.Machine.execAndi c d s1 imm s = .next out ∧ Keeps s out := by
  refine ⟨_, rfl, ?_⟩
  repeat' (first
    | (with_reducible exact Keeps.refl _)
    | (with_reducible assumption)
    | (with_reducible apply State.next_keeps)
    | (with_reducible apply State.alu1_keeps)
    | (intro _ _; (try beta_reduce))
    | (intro _; (try beta_reduce)))

theorem execOri_keeps (c : BitVec 3) (d s1 : BitVec 5) (imm : BitVec 16) (s : State) :
    ∃ out, Sys2Proof.Machine.execOri c d s1 imm s = .next out ∧ Keeps s out := by
  refine ⟨_, rfl, ?_⟩
  repeat' (first
    | (with_reducible exact Keeps.refl _)
    | (with_reducible assumption)
    | (with_reducible apply State.next_keeps)
    | (with_reducible apply State.alu1_keeps)
    | (intro _ _; (try beta_reduce))
    | (intro _; (try beta_reduce)))

theorem execXori_keeps (c : BitVec 3) (d s1 : BitVec 5) (imm : BitVec 16) (s : State) :
    ∃ out, Sys2Proof.Machine.execXori c d s1 imm s = .next out ∧ Keeps s out := by
  refine ⟨_, rfl, ?_⟩
  repeat' (first
    | (with_reducible exact Keeps.refl _)
    | (with_reducible assumption)
    | (with_reducible apply State.next_keeps)
    | (with_reducible apply State.alu1_keeps)
    | (intro _ _; (try beta_reduce))
    | (intro _; (try beta_reduce)))

theorem execSlti_keeps (c : BitVec 3) (d s1 : BitVec 5) (imm : BitVec 16) (s : State) :
    ∃ out, Sys2Proof.Machine.execSlti c d s1 imm s = .next out ∧ Keeps s out := by
  refine ⟨_, rfl, ?_⟩
  repeat' (first
    | (with_reducible exact Keeps.refl _)
    | (with_reducible assumption)
    | (with_reducible apply State.next_keeps)
    | (with_reducible apply State.alu1_keeps)
    | (intro _ _; (try beta_reduce))
    | (intro _; (try beta_reduce)))

theorem execSltiu_keeps (c : BitVec 3) (d s1 : BitVec 5) (imm : BitVec 16) (s : State) :
    ∃ out, Sys2Proof.Machine.execSltiu c d s1 imm s = .next out ∧ Keeps s out := by
  refine ⟨_, rfl, ?_⟩
  repeat' (first
    | (with_reducible exact Keeps.refl _)
    | (with_reducible assumption)
    | (with_reducible apply State.next_keeps)
    | (with_reducible apply State.alu1_keeps)
    | (intro _ _; (try beta_reduce))
    | (intro _; (try beta_reduce)))

theorem execShiftiShl_keeps (c : BitVec 3) (d s1 : BitVec 5) (count : BitVec 6) (s : State) :
    ∃ out, Sys2Proof.Machine.execShiftiShl c d s1 count s = .next out ∧ Keeps s out := by
  refine ⟨_, rfl, ?_⟩
  repeat' (first
    | (with_reducible exact Keeps.refl _)
    | (with_reducible assumption)
    | (with_reducible apply State.next_keeps)
    | (with_reducible apply State.alu1_keeps)
    | (intro _ _; (try beta_reduce))
    | (intro _; (try beta_reduce))
    | split)

theorem execShiftiShr_keeps (c : BitVec 3) (d s1 : BitVec 5) (count : BitVec 6) (s : State) :
    ∃ out, Sys2Proof.Machine.execShiftiShr c d s1 count s = .next out ∧ Keeps s out := by
  refine ⟨_, rfl, ?_⟩
  repeat' (first
    | (with_reducible exact Keeps.refl _)
    | (with_reducible assumption)
    | (with_reducible apply State.next_keeps)
    | (with_reducible apply State.alu1_keeps)
    | (intro _ _; (try beta_reduce))
    | (intro _; (try beta_reduce))
    | split)

theorem execShiftiSar_keeps (c : BitVec 3) (d s1 : BitVec 5) (count : BitVec 6) (s : State) :
    ∃ out, Sys2Proof.Machine.execShiftiSar c d s1 count s = .next out ∧ Keeps s out := by
  refine ⟨_, rfl, ?_⟩
  repeat' (first
    | (with_reducible exact Keeps.refl _)
    | (with_reducible assumption)
    | (with_reducible apply State.next_keeps)
    | (with_reducible apply State.alu1_keeps)
    | (intro _ _; (try beta_reduce))
    | (intro _; (try beta_reduce))
    | split)

theorem execShiftiRotl_keeps (c : BitVec 3) (d s1 : BitVec 5) (count : BitVec 6) (s : State) :
    ∃ out, Sys2Proof.Machine.execShiftiRotl c d s1 count s = .next out ∧ Keeps s out := by
  refine ⟨_, rfl, ?_⟩
  repeat' (first
    | (with_reducible exact Keeps.refl _)
    | (with_reducible assumption)
    | (with_reducible apply State.next_keeps)
    | (with_reducible apply State.alu1_keeps)
    | (intro _ _; (try beta_reduce))
    | (intro _; (try beta_reduce)))

theorem execLih_keeps (c : BitVec 3) (d s1 : BitVec 5) (imm : BitVec 16) (s : State) :
    ∃ out, Sys2Proof.Machine.execLih c d s1 imm s = .next out ∧ Keeps s out := by
  refine ⟨_, rfl, ?_⟩
  repeat' (first
    | (with_reducible exact Keeps.refl _)
    | (with_reducible assumption)
    | (with_reducible apply State.next_keeps)
    | (with_reducible apply State.alu1_keeps)
    | (intro _ _; (try beta_reduce))
    | (intro _; (try beta_reduce)))

theorem execShori_keeps (c : BitVec 3) (d s1 : BitVec 5) (imm : BitVec 16) (s : State) :
    ∃ out, Sys2Proof.Machine.execShori c d s1 imm s = .next out ∧ Keeps s out := by
  refine ⟨_, rfl, ?_⟩
  repeat' (first
    | (with_reducible exact Keeps.refl _)
    | (with_reducible assumption)
    | (with_reducible apply State.next_keeps)
    | (with_reducible apply State.alu1_keeps)
    | (intro _ _; (try beta_reduce))
    | (intro _; (try beta_reduce)))

theorem execMul_keeps (c : BitVec 3) (d s1 s2 : BitVec 5) (s : State) :
    ∃ out, Sys2Proof.Machine.execMul c d s1 s2 s = .next out ∧ Keeps s out := by
  refine ⟨_, rfl, ?_⟩
  repeat' (first
    | (with_reducible exact Keeps.refl _)
    | (with_reducible assumption)
    | (with_reducible apply State.next_keeps)
    | (with_reducible apply State.alu2_keeps)
    | (intro _ _; (try beta_reduce))
    | (intro _; (try beta_reduce)))

theorem execMulh_keeps (c : BitVec 3) (d s1 s2 : BitVec 5) (s : State) :
    ∃ out, Sys2Proof.Machine.execMulh c d s1 s2 s = .next out ∧ Keeps s out := by
  refine ⟨_, rfl, ?_⟩
  repeat' (first
    | (with_reducible exact Keeps.refl _)
    | (with_reducible assumption)
    | (with_reducible apply State.next_keeps)
    | (with_reducible apply State.alu2_keeps)
    | (intro _ _; (try beta_reduce))
    | (intro _; (try beta_reduce)))

theorem execMulhu_keeps (c : BitVec 3) (d s1 s2 : BitVec 5) (s : State) :
    ∃ out, Sys2Proof.Machine.execMulhu c d s1 s2 s = .next out ∧ Keeps s out := by
  refine ⟨_, rfl, ?_⟩
  repeat' (first
    | (with_reducible exact Keeps.refl _)
    | (with_reducible assumption)
    | (with_reducible apply State.next_keeps)
    | (with_reducible apply State.alu2_keeps)
    | (intro _ _; (try beta_reduce))
    | (intro _; (try beta_reduce)))

theorem execMulsat_keeps (c : BitVec 3) (d s1 s2 : BitVec 5) (s : State) :
    ∃ out, Sys2Proof.Machine.execMulsat c d s1 s2 s = .next out ∧ Keeps s out := by
  refine ⟨_, rfl, ?_⟩
  repeat' (first
    | (with_reducible exact Keeps.refl _)
    | (with_reducible assumption)
    | (with_reducible apply State.next_keeps)
    | (with_reducible apply State.aluFlag_keeps)
    | (intro _ _; (try beta_reduce))
    | (intro _; (try beta_reduce)))

theorem execDiv_keeps (c : BitVec 3) (d s1 s2 : BitVec 5) (s : State) :
    ∃ out, Sys2Proof.Machine.execDiv c d s1 s2 s = .next out ∧ Keeps s out := by
  refine ⟨_, rfl, ?_⟩
  repeat' (first
    | (with_reducible exact Keeps.refl _)
    | (with_reducible assumption)
    | (with_reducible apply State.next_keeps)
    | (with_reducible apply State.divIns_keeps)
    | (intro _ _; (try beta_reduce))
    | (intro _; (try beta_reduce)))

theorem execDivu_keeps (c : BitVec 3) (d s1 s2 : BitVec 5) (s : State) :
    ∃ out, Sys2Proof.Machine.execDivu c d s1 s2 s = .next out ∧ Keeps s out := by
  refine ⟨_, rfl, ?_⟩
  repeat' (first
    | (with_reducible exact Keeps.refl _)
    | (with_reducible assumption)
    | (with_reducible apply State.next_keeps)
    | (with_reducible apply State.divIns_keeps)
    | (intro _ _; (try beta_reduce))
    | (intro _; (try beta_reduce)))

theorem execRem_keeps (c : BitVec 3) (d s1 s2 : BitVec 5) (s : State) :
    ∃ out, Sys2Proof.Machine.execRem c d s1 s2 s = .next out ∧ Keeps s out := by
  refine ⟨_, rfl, ?_⟩
  repeat' (first
    | (with_reducible exact Keeps.refl _)
    | (with_reducible assumption)
    | (with_reducible apply State.next_keeps)
    | (with_reducible apply State.divIns_keeps)
    | (intro _ _; (try beta_reduce))
    | (intro _; (try beta_reduce)))

theorem execRemu_keeps (c : BitVec 3) (d s1 s2 : BitVec 5) (s : State) :
    ∃ out, Sys2Proof.Machine.execRemu c d s1 s2 s = .next out ∧ Keeps s out := by
  refine ⟨_, rfl, ?_⟩
  repeat' (first
    | (with_reducible exact Keeps.refl _)
    | (with_reducible assumption)
    | (with_reducible apply State.next_keeps)
    | (with_reducible apply State.divIns_keeps)
    | (intro _ _; (try beta_reduce))
    | (intro _; (try beta_reduce)))

theorem execLdb_keeps (c : BitVec 3) (d s1 : BitVec 5) (imm : BitVec 16) (s : State) :
    ∃ out, Sys2Proof.Machine.execLdb c d s1 imm s = .next out ∧ Keeps s out := by
  refine ⟨_, rfl, ?_⟩
  repeat' (first
    | (with_reducible exact Keeps.refl _)
    | (with_reducible assumption)
    | (with_reducible apply State.next_keeps)
    | (with_reducible apply State.loadIns_keeps))

theorem execLdbu_keeps (c : BitVec 3) (d s1 : BitVec 5) (imm : BitVec 16) (s : State) :
    ∃ out, Sys2Proof.Machine.execLdbu c d s1 imm s = .next out ∧ Keeps s out := by
  refine ⟨_, rfl, ?_⟩
  repeat' (first
    | (with_reducible exact Keeps.refl _)
    | (with_reducible assumption)
    | (with_reducible apply State.next_keeps)
    | (with_reducible apply State.loadIns_keeps))

theorem execLdh_keeps (c : BitVec 3) (d s1 : BitVec 5) (imm : BitVec 16) (s : State) :
    ∃ out, Sys2Proof.Machine.execLdh c d s1 imm s = .next out ∧ Keeps s out := by
  refine ⟨_, rfl, ?_⟩
  repeat' (first
    | (with_reducible exact Keeps.refl _)
    | (with_reducible assumption)
    | (with_reducible apply State.next_keeps)
    | (with_reducible apply State.loadIns_keeps))

theorem execLdhu_keeps (c : BitVec 3) (d s1 : BitVec 5) (imm : BitVec 16) (s : State) :
    ∃ out, Sys2Proof.Machine.execLdhu c d s1 imm s = .next out ∧ Keeps s out := by
  refine ⟨_, rfl, ?_⟩
  repeat' (first
    | (with_reducible exact Keeps.refl _)
    | (with_reducible assumption)
    | (with_reducible apply State.next_keeps)
    | (with_reducible apply State.loadIns_keeps))

theorem execLdw_keeps (c : BitVec 3) (d s1 : BitVec 5) (imm : BitVec 16) (s : State) :
    ∃ out, Sys2Proof.Machine.execLdw c d s1 imm s = .next out ∧ Keeps s out := by
  refine ⟨_, rfl, ?_⟩
  repeat' (first
    | (with_reducible exact Keeps.refl _)
    | (with_reducible assumption)
    | (with_reducible apply State.next_keeps)
    | (with_reducible apply State.loadIns_keeps))

theorem execLdwu_keeps (c : BitVec 3) (d s1 : BitVec 5) (imm : BitVec 16) (s : State) :
    ∃ out, Sys2Proof.Machine.execLdwu c d s1 imm s = .next out ∧ Keeps s out := by
  refine ⟨_, rfl, ?_⟩
  repeat' (first
    | (with_reducible exact Keeps.refl _)
    | (with_reducible assumption)
    | (with_reducible apply State.next_keeps)
    | (with_reducible apply State.loadIns_keeps))

theorem execLdd_keeps (c : BitVec 3) (d s1 : BitVec 5) (imm : BitVec 16) (s : State) :
    ∃ out, Sys2Proof.Machine.execLdd c d s1 imm s = .next out ∧ Keeps s out := by
  refine ⟨_, rfl, ?_⟩
  repeat' (first
    | (with_reducible exact Keeps.refl _)
    | (with_reducible assumption)
    | (with_reducible apply State.next_keeps)
    | (with_reducible apply State.loadIns_keeps))

theorem execStb_keeps (c : BitVec 3) (d s1 : BitVec 5) (imm : BitVec 16) (s : State) :
    ∃ out, Sys2Proof.Machine.execStb c d s1 imm s = .next out ∧ Keeps s out := by
  refine ⟨_, rfl, ?_⟩
  repeat' (first
    | (with_reducible exact Keeps.refl _)
    | (with_reducible assumption)
    | (with_reducible apply State.next_keeps)
    | (with_reducible apply State.storeIns_keeps))

theorem execSth_keeps (c : BitVec 3) (d s1 : BitVec 5) (imm : BitVec 16) (s : State) :
    ∃ out, Sys2Proof.Machine.execSth c d s1 imm s = .next out ∧ Keeps s out := by
  refine ⟨_, rfl, ?_⟩
  repeat' (first
    | (with_reducible exact Keeps.refl _)
    | (with_reducible assumption)
    | (with_reducible apply State.next_keeps)
    | (with_reducible apply State.storeIns_keeps))

theorem execStw_keeps (c : BitVec 3) (d s1 : BitVec 5) (imm : BitVec 16) (s : State) :
    ∃ out, Sys2Proof.Machine.execStw c d s1 imm s = .next out ∧ Keeps s out := by
  refine ⟨_, rfl, ?_⟩
  repeat' (first
    | (with_reducible exact Keeps.refl _)
    | (with_reducible assumption)
    | (with_reducible apply State.next_keeps)
    | (with_reducible apply State.storeIns_keeps))

theorem execStd_keeps (c : BitVec 3) (d s1 : BitVec 5) (imm : BitVec 16) (s : State) :
    ∃ out, Sys2Proof.Machine.execStd c d s1 imm s = .next out ∧ Keeps s out := by
  refine ⟨_, rfl, ?_⟩
  repeat' (first
    | (with_reducible exact Keeps.refl _)
    | (with_reducible assumption)
    | (with_reducible apply State.next_keeps)
    | (with_reducible apply State.storeIns_keeps))

end Sys2Proof.Machine
end

