-- ==== Sys2Proof/Laws/ExecLink.lean ====
section
/-!
SUPPORT. What the commands of Machine/CmdLink.lean keep: each answers a next state that `Keeps` relates to the state before.
-/
namespace Sys2Proof.Machine

theorem execLinkUp_keeps (p : BitVec 2) (speed fec : BitVec 2) (s : State) :
    ∃ out, Sys2Proof.Machine.execLinkUp p speed fec s = .next out ∧ Keeps s out := by
  refine ⟨_, rfl, ?_⟩
  repeat' (first
    | (with_reducible exact Keeps.refl _)
    | (with_reducible assumption)
    | (with_reducible apply State.next_keeps)
    | (with_reducible apply State.linkUp_keeps))

theorem execLinkDown_keeps (p : BitVec 2) (s : State) :
    ∃ out, Sys2Proof.Machine.execLinkDown p s = .next out ∧ Keeps s out := by
  refine ⟨_, rfl, ?_⟩
  repeat' (first
    | (with_reducible exact Keeps.refl _)
    | (with_reducible assumption)
    | (with_reducible apply State.next_keeps)
    | (with_reducible apply State.linkDown_keeps))

theorem execFrameReceive_keeps (p : BitVec 2) (frame : List Byte) (fcsOk cut : Bool) (sec : Option SecTag) (s : State) :
    ∃ out, Sys2Proof.Machine.execFrameReceive p frame fcsOk cut sec s = .next out ∧ Keeps s out := by
  refine ⟨_, rfl, ?_⟩
  repeat' (first
    | (with_reducible exact Keeps.refl _)
    | (with_reducible assumption)
    | (with_reducible apply State.next_keeps)
    | (with_reducible apply State.frameReceive_keeps))

theorem execAskustReceive_keeps (p : BitVec 2) (rtag : Option (BitVec 16)) (tel : List Byte) (s : State) :
    ∃ out, Sys2Proof.Machine.execAskustReceive p rtag tel s = .next out ∧ Keeps s out := by
  refine ⟨_, rfl, ?_⟩
  repeat' (first
    | (with_reducible exact Keeps.refl _)
    | (with_reducible assumption)
    | (with_reducible apply State.next_keeps)
    | (with_reducible apply State.askust_keeps))

theorem execTelegramDelivery_keeps (p : BitVec 2) (s : State) :
    ∃ out, Sys2Proof.Machine.execTelegramDelivery p s = .next out ∧ Keeps s out := by
  refine ⟨_, rfl, ?_⟩
  repeat' (first
    | (with_reducible exact Keeps.refl _)
    | (with_reducible assumption)
    | (with_reducible apply State.next_keeps)
    | (with_reducible apply State.delivery_keeps))

theorem execGptpSync_keeps (p : BitVec 2) (msg : SyncMsg) (offset : BitVec 32) (interval : BitVec 32) (s : State) :
    ∃ out, Sys2Proof.Machine.execGptpSync p msg offset interval s = .next out ∧ Keeps s out := by
  refine ⟨_, rfl, ?_⟩
  repeat' (first
    | (with_reducible exact Keeps.refl _)
    | (with_reducible assumption)
    | (with_reducible apply State.next_keeps)
    | (with_reducible apply State.gptpSync_keeps))

theorem execAnnounce_keeps (p : BitVec 2) (msg : AnnounceMsg) (master : Word) (s : State) :
    ∃ out, Sys2Proof.Machine.execAnnounce p msg master s = .next out ∧ Keeps s out := by
  refine ⟨_, rfl, ?_⟩
  repeat' (first
    | (with_reducible exact Keeps.refl _)
    | (with_reducible assumption)
    | (with_reducible apply State.next_keeps)
    | (with_reducible apply State.announce_keeps))

theorem execPdelayResp_keeps (p : BitVec 2) (delay : BitVec 32) (s : State) :
    ∃ out, Sys2Proof.Machine.execPdelayResp p delay s = .next out ∧ Keeps s out := by
  refine ⟨_, rfl, ?_⟩
  repeat' (first
    | (with_reducible exact Keeps.refl _)
    | (with_reducible assumption)
    | (with_reducible apply State.next_keeps)
    | (with_reducible apply State.pdelay_keeps))

theorem execSyncTimeout_keeps (p : BitVec 2) (s : State) :
    ∃ out, Sys2Proof.Machine.execSyncTimeout p s = .next out ∧ Keeps s out := by
  refine ⟨_, rfl, ?_⟩
  repeat' (first
    | (with_reducible exact Keeps.refl _)
    | (with_reducible assumption)
    | (with_reducible apply State.next_keeps)
    | (with_reducible apply State.syncTimeout_keeps))

theorem execTxtailWrite_keeps (m : Master) (p : BitVec 2) (w : World) (tail : BitVec 16) (s : State) :
    ∃ out, Sys2Proof.Machine.execTxtailWrite m p w tail s = .next out ∧ Keeps s out := by
  refine ⟨_, rfl, ?_⟩
  repeat' (first
    | (with_reducible exact Keeps.refl _)
    | (with_reducible assumption)
    | (with_reducible apply State.next_keeps)
    | (with_reducible apply State.write_keeps))

theorem execTxDescriptor_keeps (p : BitVec 2) (w : World) (s : State) :
    ∃ out, Sys2Proof.Machine.execTxDescriptor p w s = .next out ∧ Keeps s out := by
  refine ⟨_, rfl, ?_⟩
  repeat' (first
    | (with_reducible exact Keeps.refl _)
    | (with_reducible assumption)
    | (with_reducible apply State.next_keeps)
    | (with_reducible apply State.txDescriptor_keeps))

theorem execGateIntervalEnd_keeps (p : BitVec 2) (s : State) :
    ∃ out, Sys2Proof.Machine.execGateIntervalEnd p s = .next out ∧ Keeps s out := by
  refine ⟨_, rfl, ?_⟩
  repeat' (first
    | (with_reducible exact Keeps.refl _)
    | (with_reducible assumption)
    | (with_reducible apply State.next_keeps)
    | (with_reducible apply State.gateEnd_keeps))

theorem execResync_keeps (m : Master) (n : BitVec 8) (s : State) :
    ∃ out, Sys2Proof.Machine.execResync m n s = .next out ∧ Keeps s out := by
  refine ⟨_, rfl, ?_⟩
  repeat' (first
    | (with_reducible exact Keeps.refl _)
    | (with_reducible assumption)
    | (with_reducible apply State.next_keeps)
    | (with_reducible apply State.write_keeps))

theorem execKeydataWrite_keeps (m : Master) (p : BitVec 2) (v : Word) (s : State) :
    ∃ out, Sys2Proof.Machine.execKeydataWrite m p v s = .next out ∧ Keeps s out := by
  refine ⟨_, rfl, ?_⟩
  repeat' (first
    | (with_reducible exact Keeps.refl _)
    | (with_reducible assumption)
    | (with_reducible apply State.next_keeps)
    | (with_reducible apply State.write_keeps))

theorem execKeyInstall_keeps (m : Master) (p : BitVec 2) (v : Word) (s : State) :
    ∃ out, Sys2Proof.Machine.execKeyInstall m p v s = .next out ∧ Keeps s out := by
  refine ⟨_, rfl, ?_⟩
  repeat' (first
    | (with_reducible exact Keeps.refl _)
    | (with_reducible assumption)
    | (with_reducible apply State.next_keeps)
    | (with_reducible apply State.write_keeps)
    | split)

theorem execFeedb_keeps (m : Master) (u : Fin 6) (v : BitVec 8) (s : State) :
    ∃ out, Sys2Proof.Machine.execFeedb m u v s = .next out ∧ Keeps s out := by
  refine ⟨_, rfl, ?_⟩
  repeat' (first
    | (with_reducible exact Keeps.refl _)
    | (with_reducible assumption)
    | (with_reducible apply State.next_keeps)
    | (with_reducible apply State.write_keeps))

theorem execFeedh_keeps (m : Master) (u : Fin 6) (v : BitVec 16) (s : State) :
    ∃ out, Sys2Proof.Machine.execFeedh m u v s = .next out ∧ Keeps s out := by
  refine ⟨_, rfl, ?_⟩
  repeat' (first
    | (with_reducible exact Keeps.refl _)
    | (with_reducible assumption)
    | (with_reducible apply State.next_keeps)
    | (with_reducible apply State.write_keeps))

theorem execFeedw_keeps (m : Master) (u : Fin 6) (v : BitVec 32) (s : State) :
    ∃ out, Sys2Proof.Machine.execFeedw m u v s = .next out ∧ Keeps s out := by
  refine ⟨_, rfl, ?_⟩
  repeat' (first
    | (with_reducible exact Keeps.refl _)
    | (with_reducible assumption)
    | (with_reducible apply State.next_keeps)
    | (with_reducible apply State.write_keeps))

theorem execSeaClose_keeps (m : Master) (u : Fin 6) (s : State) :
    ∃ out, Sys2Proof.Machine.execSeaClose m u s = .next out ∧ Keeps s out := by
  refine ⟨_, rfl, ?_⟩
  repeat' (first
    | (with_reducible exact Keeps.refl _)
    | (with_reducible assumption)
    | (with_reducible apply State.next_keeps)
    | (with_reducible apply State.write_keeps))

theorem execScanlenWrite_keeps (m : Master) (u : Fin 6) (len : BitVec 40) (closeAfter : Bool) (s : State) :
    ∃ out, Sys2Proof.Machine.execScanlenWrite m u len closeAfter s = .next out ∧ Keeps s out := by
  refine ⟨_, rfl, ?_⟩
  repeat' (first
    | (with_reducible exact Keeps.refl _)
    | (with_reducible assumption)
    | (with_reducible apply State.next_keeps)
    | (with_reducible apply State.write_keeps))

theorem execScanEnd_keeps (u : Fin 6) (s : State) :
    ∃ out, Sys2Proof.Machine.execScanEnd u s = .next out ∧ Keeps s out := by
  refine ⟨_, rfl, ?_⟩
  repeat' (first
    | (with_reducible exact Keeps.refl _)
    | (with_reducible assumption)
    | (with_reducible apply State.next_keeps)
    | (with_reducible apply State.scanEnd_keeps))

theorem execSeaCtlWrite_keeps (m : Master) (u : Fin 6) (v : Word) (s : State) :
    ∃ out, Sys2Proof.Machine.execSeaCtlWrite m u v s = .next out ∧ Keeps s out := by
  refine ⟨_, rfl, ?_⟩
  repeat' (first
    | (with_reducible exact Keeps.refl _)
    | (with_reducible assumption)
    | (with_reducible apply State.next_keeps)
    | (with_reducible apply State.write_keeps))

end Sys2Proof.Machine
end

