-- ==== Sys2Proof/Laws/ExecMemory.lean ====
section
/-!
SUPPORT. What the commands of Machine/CmdMemory.lean keep: each answers a next state that `Keeps` relates to the state before.
-/
namespace Sys2Proof.Machine

theorem execHbmTempRead_keeps (k : BitVec 2) (temp : BitVec 9) (valid : Bool) (s : State) :
    ∃ out, Sys2Proof.Machine.execHbmTempRead k temp valid s = .next out ∧ Keeps s out := by
  refine ⟨_, rfl, ?_⟩
  repeat' (first
    | (with_reducible exact Keeps.refl _)
    | (with_reducible assumption)
    | (with_reducible apply State.next_keeps)
    | (with_reducible apply State.hbmRead_keeps))

theorem execHbmBandReturn_keeps (k : BitVec 2) (s : State) :
    ∃ out, Sys2Proof.Machine.execHbmBandReturn k s = .next out ∧ Keeps s out := by
  refine ⟨_, rfl, ?_⟩
  repeat' (first
    | (with_reducible exact Keeps.refl _)
    | (with_reducible assumption)
    | (with_reducible apply State.next_keeps)
    | (with_reducible apply State.bandReturn_keeps))

theorem execHbmRefresh_keeps (pc : BitVec 7) (bank : BitVec 8) (s : State) :
    ∃ out, Sys2Proof.Machine.execHbmRefresh pc bank s = .next out ∧ Keeps s out := by
  refine ⟨_, rfl, ?_⟩
  repeat' (first
    | (with_reducible exact Keeps.refl _)
    | (with_reducible assumption)
    | (with_reducible apply State.next_keeps)
    | (with_reducible apply State.refreshBank_keeps))

theorem execHbmScrub_keeps (pc : BitVec 7) (granule : BitVec 23) (found : MemErr) (s : State) :
    ∃ out, Sys2Proof.Machine.execHbmScrub pc granule found s = .next out ∧ Keeps s out := by
  refine ⟨_, rfl, ?_⟩
  repeat' (first
    | (with_reducible exact Keeps.refl _)
    | (with_reducible assumption)
    | (with_reducible apply State.next_keeps)
    | (with_reducible apply State.hbmScrub_keeps))

theorem execHbmSoftRepair_keeps (k : BitVec 2) (s : State) :
    ∃ out, Sys2Proof.Machine.execHbmSoftRepair k s = .next out ∧ Keeps s out := by
  refine ⟨_, rfl, ?_⟩
  repeat' (first
    | (with_reducible exact Keeps.refl _)
    | (with_reducible assumption)
    | (with_reducible apply State.next_keeps)
    | (with_reducible apply State.softRepair_keeps))

theorem execRetentWrite_keeps (m : Master) (k : BitVec 2) (v : Word) (s : State) :
    ∃ out, Sys2Proof.Machine.execRetentWrite m k v s = .next out ∧ Keeps s out := by
  refine ⟨_, rfl, ?_⟩
  repeat' (first
    | (with_reducible exact Keeps.refl _)
    | (with_reducible assumption)
    | (with_reducible apply State.next_keeps)
    | (with_reducible apply State.write_keeps))

theorem execScpScrub_keeps (word : BitVec 24) (found : MemErr) (s : State) :
    ∃ out, Sys2Proof.Machine.execScpScrub word found s = .next out ∧ Keeps s out := by
  refine ⟨_, rfl, ?_⟩
  repeat' (first
    | (with_reducible exact Keeps.refl _)
    | (with_reducible assumption)
    | (with_reducible apply State.next_keeps)
    | (with_reducible apply State.scpScrub_keeps))

theorem execScpSwap_keeps (m : Master) (bank : BitVec 11) (s : State) :
    ∃ out, Sys2Proof.Machine.execScpSwap m bank s = .next out ∧ Keeps s out := by
  refine ⟨_, rfl, ?_⟩
  repeat' (first
    | (with_reducible exact Keeps.refl _)
    | (with_reducible assumption)
    | (with_reducible apply State.next_keeps)
    | (with_reducible apply State.write_keeps))

theorem execBankSwapDone_keeps (q : BitVec 2) (s : State) :
    ∃ out, Sys2Proof.Machine.execBankSwapDone q s = .next out ∧ Keeps s out := by
  refine ⟨_, rfl, ?_⟩
  repeat' (first
    | (with_reducible exact Keeps.refl _)
    | (with_reducible assumption)
    | (with_reducible apply State.next_keeps)
    | (with_reducible apply State.bankSwapDone_keeps))

theorem execArbiterGrant_keeps (cls : BitVec 2) (idx : BitVec 12) (req : BitVec 8) (note : ArbNote) (s : State) :
    ∃ out, Sys2Proof.Machine.execArbiterGrant cls idx req note s = .next out ∧ Keeps s out := by
  refine ⟨_, rfl, ?_⟩
  repeat' (first
    | (with_reducible exact Keeps.refl _)
    | (with_reducible assumption)
    | (with_reducible apply State.next_keeps)
    | (with_reducible apply State.arbGrant_keeps)
    | (intro _ _; (try beta_reduce))
    | (intro _; (try beta_reduce)))

end Sys2Proof.Machine
end

