-- ==== Sys2Proof/Laws/ExecOrder.lean ====
section
/-!
SUPPORT. What the commands of Machine/CmdOrder.lean keep: each answers a next state that `Keeps` relates to the state before.
-/
namespace Sys2Proof.Machine

theorem execAddOrder_keeps (e : BitVec 4) (w : World) (k : Nat) (s : State) :
    ∃ out, Sys2Proof.Machine.execAddOrder e w k s = .next out ∧ Keeps s out := by
  refine ⟨_, rfl, ?_⟩
  repeat' (first
    | (with_reducible exact Keeps.refl _)
    | (with_reducible assumption)
    | (with_reducible apply State.next_keeps)
    | (with_reducible apply State.runOrder_keeps))

theorem execSubOrder_keeps (e : BitVec 4) (w : World) (k : Nat) (s : State) :
    ∃ out, Sys2Proof.Machine.execSubOrder e w k s = .next out ∧ Keeps s out := by
  refine ⟨_, rfl, ?_⟩
  repeat' (first
    | (with_reducible exact Keeps.refl _)
    | (with_reducible assumption)
    | (with_reducible apply State.next_keeps)
    | (with_reducible apply State.runOrder_keeps))

theorem execMulOrder_keeps (e : BitVec 4) (w : World) (k : Nat) (s : State) :
    ∃ out, Sys2Proof.Machine.execMulOrder e w k s = .next out ∧ Keeps s out := by
  refine ⟨_, rfl, ?_⟩
  repeat' (first
    | (with_reducible exact Keeps.refl _)
    | (with_reducible assumption)
    | (with_reducible apply State.next_keeps)
    | (with_reducible apply State.runOrder_keeps))

theorem execFmaOrder_keeps (e : BitVec 4) (w : World) (k : Nat) (s : State) :
    ∃ out, Sys2Proof.Machine.execFmaOrder e w k s = .next out ∧ Keeps s out := by
  refine ⟨_, rfl, ?_⟩
  repeat' (first
    | (with_reducible exact Keeps.refl _)
    | (with_reducible assumption)
    | (with_reducible apply State.next_keeps)
    | (with_reducible apply State.runOrder_keeps))

theorem execFmsOrder_keeps (e : BitVec 4) (w : World) (k : Nat) (s : State) :
    ∃ out, Sys2Proof.Machine.execFmsOrder e w k s = .next out ∧ Keeps s out := by
  refine ⟨_, rfl, ?_⟩
  repeat' (first
    | (with_reducible exact Keeps.refl _)
    | (with_reducible assumption)
    | (with_reducible apply State.next_keeps)
    | (with_reducible apply State.runOrder_keeps))

theorem execFnmaOrder_keeps (e : BitVec 4) (w : World) (k : Nat) (s : State) :
    ∃ out, Sys2Proof.Machine.execFnmaOrder e w k s = .next out ∧ Keeps s out := by
  refine ⟨_, rfl, ?_⟩
  repeat' (first
    | (with_reducible exact Keeps.refl _)
    | (with_reducible assumption)
    | (with_reducible apply State.next_keeps)
    | (with_reducible apply State.runOrder_keeps))

theorem execDivOrder_keeps (e : BitVec 4) (w : World) (k : Nat) (s : State) :
    ∃ out, Sys2Proof.Machine.execDivOrder e w k s = .next out ∧ Keeps s out := by
  refine ⟨_, rfl, ?_⟩
  repeat' (first
    | (with_reducible exact Keeps.refl _)
    | (with_reducible assumption)
    | (with_reducible apply State.next_keeps)
    | (with_reducible apply State.runOrder_keeps))

theorem execSqrtOrder_keeps (e : BitVec 4) (w : World) (k : Nat) (s : State) :
    ∃ out, Sys2Proof.Machine.execSqrtOrder e w k s = .next out ∧ Keeps s out := by
  refine ⟨_, rfl, ?_⟩
  repeat' (first
    | (with_reducible exact Keeps.refl _)
    | (with_reducible assumption)
    | (with_reducible apply State.next_keeps)
    | (with_reducible apply State.runOrder_keeps))

theorem execMinOrder_keeps (e : BitVec 4) (w : World) (k : Nat) (s : State) :
    ∃ out, Sys2Proof.Machine.execMinOrder e w k s = .next out ∧ Keeps s out := by
  refine ⟨_, rfl, ?_⟩
  repeat' (first
    | (with_reducible exact Keeps.refl _)
    | (with_reducible assumption)
    | (with_reducible apply State.next_keeps)
    | (with_reducible apply State.runOrder_keeps))

theorem execMaxOrder_keeps (e : BitVec 4) (w : World) (k : Nat) (s : State) :
    ∃ out, Sys2Proof.Machine.execMaxOrder e w k s = .next out ∧ Keeps s out := by
  refine ⟨_, rfl, ?_⟩
  repeat' (first
    | (with_reducible exact Keeps.refl _)
    | (with_reducible assumption)
    | (with_reducible apply State.next_keeps)
    | (with_reducible apply State.runOrder_keeps))

theorem execAbsOrder_keeps (e : BitVec 4) (w : World) (k : Nat) (s : State) :
    ∃ out, Sys2Proof.Machine.execAbsOrder e w k s = .next out ∧ Keeps s out := by
  refine ⟨_, rfl, ?_⟩
  repeat' (first
    | (with_reducible exact Keeps.refl _)
    | (with_reducible assumption)
    | (with_reducible apply State.next_keeps)
    | (with_reducible apply State.runOrder_keeps))

theorem execNegOrder_keeps (e : BitVec 4) (w : World) (k : Nat) (s : State) :
    ∃ out, Sys2Proof.Machine.execNegOrder e w k s = .next out ∧ Keeps s out := by
  refine ⟨_, rfl, ?_⟩
  repeat' (first
    | (with_reducible exact Keeps.refl _)
    | (with_reducible assumption)
    | (with_reducible apply State.next_keeps)
    | (with_reducible apply State.runOrder_keeps))

theorem execAddsatOrder_keeps (e : BitVec 4) (w : World) (k : Nat) (s : State) :
    ∃ out, Sys2Proof.Machine.execAddsatOrder e w k s = .next out ∧ Keeps s out := by
  refine ⟨_, rfl, ?_⟩
  repeat' (first
    | (with_reducible exact Keeps.refl _)
    | (with_reducible assumption)
    | (with_reducible apply State.next_keeps)
    | (with_reducible apply State.runOrder_keeps))

theorem execSubsatOrder_keeps (e : BitVec 4) (w : World) (k : Nat) (s : State) :
    ∃ out, Sys2Proof.Machine.execSubsatOrder e w k s = .next out ∧ Keeps s out := by
  refine ⟨_, rfl, ?_⟩
  repeat' (first
    | (with_reducible exact Keeps.refl _)
    | (with_reducible assumption)
    | (with_reducible apply State.next_keeps)
    | (with_reducible apply State.runOrder_keeps))

theorem execMulsatOrder_keeps (e : BitVec 4) (w : World) (k : Nat) (s : State) :
    ∃ out, Sys2Proof.Machine.execMulsatOrder e w k s = .next out ∧ Keeps s out := by
  refine ⟨_, rfl, ?_⟩
  repeat' (first
    | (with_reducible exact Keeps.refl _)
    | (with_reducible assumption)
    | (with_reducible apply State.next_keeps)
    | (with_reducible apply State.runOrder_keeps))

theorem execMulwideOrder_keeps (e : BitVec 4) (w : World) (k : Nat) (s : State) :
    ∃ out, Sys2Proof.Machine.execMulwideOrder e w k s = .next out ∧ Keeps s out := by
  refine ⟨_, rfl, ?_⟩
  repeat' (first
    | (with_reducible exact Keeps.refl _)
    | (with_reducible assumption)
    | (with_reducible apply State.next_keeps)
    | (with_reducible apply State.runOrder_keeps))

theorem execMulhiOrder_keeps (e : BitVec 4) (w : World) (k : Nat) (s : State) :
    ∃ out, Sys2Proof.Machine.execMulhiOrder e w k s = .next out ∧ Keeps s out := by
  refine ⟨_, rfl, ?_⟩
  repeat' (first
    | (with_reducible exact Keeps.refl _)
    | (with_reducible assumption)
    | (with_reducible apply State.next_keeps)
    | (with_reducible apply State.runOrder_keeps))

theorem execAndOrder_keeps (e : BitVec 4) (w : World) (k : Nat) (s : State) :
    ∃ out, Sys2Proof.Machine.execAndOrder e w k s = .next out ∧ Keeps s out := by
  refine ⟨_, rfl, ?_⟩
  repeat' (first
    | (with_reducible exact Keeps.refl _)
    | (with_reducible assumption)
    | (with_reducible apply State.next_keeps)
    | (with_reducible apply State.runOrder_keeps))

theorem execOrOrder_keeps (e : BitVec 4) (w : World) (k : Nat) (s : State) :
    ∃ out, Sys2Proof.Machine.execOrOrder e w k s = .next out ∧ Keeps s out := by
  refine ⟨_, rfl, ?_⟩
  repeat' (first
    | (with_reducible exact Keeps.refl _)
    | (with_reducible assumption)
    | (with_reducible apply State.next_keeps)
    | (with_reducible apply State.runOrder_keeps))

theorem execXorOrder_keeps (e : BitVec 4) (w : World) (k : Nat) (s : State) :
    ∃ out, Sys2Proof.Machine.execXorOrder e w k s = .next out ∧ Keeps s out := by
  refine ⟨_, rfl, ?_⟩
  repeat' (first
    | (with_reducible exact Keeps.refl _)
    | (with_reducible assumption)
    | (with_reducible apply State.next_keeps)
    | (with_reducible apply State.runOrder_keeps))

theorem execNotOrder_keeps (e : BitVec 4) (w : World) (k : Nat) (s : State) :
    ∃ out, Sys2Proof.Machine.execNotOrder e w k s = .next out ∧ Keeps s out := by
  refine ⟨_, rfl, ?_⟩
  repeat' (first
    | (with_reducible exact Keeps.refl _)
    | (with_reducible assumption)
    | (with_reducible apply State.next_keeps)
    | (with_reducible apply State.runOrder_keeps))

theorem execAndnotOrder_keeps (e : BitVec 4) (w : World) (k : Nat) (s : State) :
    ∃ out, Sys2Proof.Machine.execAndnotOrder e w k s = .next out ∧ Keeps s out := by
  refine ⟨_, rfl, ?_⟩
  repeat' (first
    | (with_reducible exact Keeps.refl _)
    | (with_reducible assumption)
    | (with_reducible apply State.next_keeps)
    | (with_reducible apply State.runOrder_keeps))

theorem execShlOrder_keeps (e : BitVec 4) (w : World) (k : Nat) (s : State) :
    ∃ out, Sys2Proof.Machine.execShlOrder e w k s = .next out ∧ Keeps s out := by
  refine ⟨_, rfl, ?_⟩
  repeat' (first
    | (with_reducible exact Keeps.refl _)
    | (with_reducible assumption)
    | (with_reducible apply State.next_keeps)
    | (with_reducible apply State.runOrder_keeps))

theorem execShrOrder_keeps (e : BitVec 4) (w : World) (k : Nat) (s : State) :
    ∃ out, Sys2Proof.Machine.execShrOrder e w k s = .next out ∧ Keeps s out := by
  refine ⟨_, rfl, ?_⟩
  repeat' (first
    | (with_reducible exact Keeps.refl _)
    | (with_reducible assumption)
    | (with_reducible apply State.next_keeps)
    | (with_reducible apply State.runOrder_keeps))

theorem execSarOrder_keeps (e : BitVec 4) (w : World) (k : Nat) (s : State) :
    ∃ out, Sys2Proof.Machine.execSarOrder e w k s = .next out ∧ Keeps s out := by
  refine ⟨_, rfl, ?_⟩
  repeat' (first
    | (with_reducible exact Keeps.refl _)
    | (with_reducible assumption)
    | (with_reducible apply State.next_keeps)
    | (with_reducible apply State.runOrder_keeps))

theorem execRotlOrder_keeps (e : BitVec 4) (w : World) (k : Nat) (s : State) :
    ∃ out, Sys2Proof.Machine.execRotlOrder e w k s = .next out ∧ Keeps s out := by
  refine ⟨_, rfl, ?_⟩
  repeat' (first
    | (with_reducible exact Keeps.refl _)
    | (with_reducible assumption)
    | (with_reducible apply State.next_keeps)
    | (with_reducible apply State.runOrder_keeps))

theorem execSelectOrder_keeps (e : BitVec 4) (w : World) (k : Nat) (s : State) :
    ∃ out, Sys2Proof.Machine.execSelectOrder e w k s = .next out ∧ Keeps s out := by
  refine ⟨_, rfl, ?_⟩
  repeat' (first
    | (with_reducible exact Keeps.refl _)
    | (with_reducible assumption)
    | (with_reducible apply State.next_keeps)
    | (with_reducible apply State.runOrder_keeps))

theorem execClzOrder_keeps (e : BitVec 4) (w : World) (k : Nat) (s : State) :
    ∃ out, Sys2Proof.Machine.execClzOrder e w k s = .next out ∧ Keeps s out := by
  refine ⟨_, rfl, ?_⟩
  repeat' (first
    | (with_reducible exact Keeps.refl _)
    | (with_reducible assumption)
    | (with_reducible apply State.next_keeps)
    | (with_reducible apply State.runOrder_keeps))

theorem execPopcntOrder_keeps (e : BitVec 4) (w : World) (k : Nat) (s : State) :
    ∃ out, Sys2Proof.Machine.execPopcntOrder e w k s = .next out ∧ Keeps s out := by
  refine ⟨_, rfl, ?_⟩
  repeat' (first
    | (with_reducible exact Keeps.refl _)
    | (with_reducible assumption)
    | (with_reducible apply State.next_keeps)
    | (with_reducible apply State.runOrder_keeps))

theorem execCvtOrder_keeps (e : BitVec 4) (w : World) (k : Nat) (s : State) :
    ∃ out, Sys2Proof.Machine.execCvtOrder e w k s = .next out ∧ Keeps s out := by
  refine ⟨_, rfl, ?_⟩
  repeat' (first
    | (with_reducible exact Keeps.refl _)
    | (with_reducible assumption)
    | (with_reducible apply State.next_keeps)
    | (with_reducible apply State.runOrder_keeps))

theorem execRndintOrder_keeps (e : BitVec 4) (w : World) (k : Nat) (s : State) :
    ∃ out, Sys2Proof.Machine.execRndintOrder e w k s = .next out ∧ Keeps s out := by
  refine ⟨_, rfl, ?_⟩
  repeat' (first
    | (with_reducible exact Keeps.refl _)
    | (with_reducible assumption)
    | (with_reducible apply State.next_keeps)
    | (with_reducible apply State.runOrder_keeps))

theorem execQuantizeOrder_keeps (e : BitVec 4) (w : World) (k : Nat) (s : State) :
    ∃ out, Sys2Proof.Machine.execQuantizeOrder e w k s = .next out ∧ Keeps s out := by
  refine ⟨_, rfl, ?_⟩
  repeat' (first
    | (with_reducible exact Keeps.refl _)
    | (with_reducible assumption)
    | (with_reducible apply State.next_keeps)
    | (with_reducible apply State.runOrder_keeps))

theorem execCvtsatOrder_keeps (e : BitVec 4) (w : World) (k : Nat) (s : State) :
    ∃ out, Sys2Proof.Machine.execCvtsatOrder e w k s = .next out ∧ Keeps s out := by
  refine ⟨_, rfl, ?_⟩
  repeat' (first
    | (with_reducible exact Keeps.refl _)
    | (with_reducible assumption)
    | (with_reducible apply State.next_keeps)
    | (with_reducible apply State.runOrder_keeps))

theorem execCmpeqOrder_keeps (e : BitVec 4) (w : World) (k : Nat) (s : State) :
    ∃ out, Sys2Proof.Machine.execCmpeqOrder e w k s = .next out ∧ Keeps s out := by
  refine ⟨_, rfl, ?_⟩
  repeat' (first
    | (with_reducible exact Keeps.refl _)
    | (with_reducible assumption)
    | (with_reducible apply State.next_keeps)
    | (with_reducible apply State.runOrder_keeps))

theorem execCmpneOrder_keeps (e : BitVec 4) (w : World) (k : Nat) (s : State) :
    ∃ out, Sys2Proof.Machine.execCmpneOrder e w k s = .next out ∧ Keeps s out := by
  refine ⟨_, rfl, ?_⟩
  repeat' (first
    | (with_reducible exact Keeps.refl _)
    | (with_reducible assumption)
    | (with_reducible apply State.next_keeps)
    | (with_reducible apply State.runOrder_keeps))

theorem execCmpltOrder_keeps (e : BitVec 4) (w : World) (k : Nat) (s : State) :
    ∃ out, Sys2Proof.Machine.execCmpltOrder e w k s = .next out ∧ Keeps s out := by
  refine ⟨_, rfl, ?_⟩
  repeat' (first
    | (with_reducible exact Keeps.refl _)
    | (with_reducible assumption)
    | (with_reducible apply State.next_keeps)
    | (with_reducible apply State.runOrder_keeps))

theorem execCmpleOrder_keeps (e : BitVec 4) (w : World) (k : Nat) (s : State) :
    ∃ out, Sys2Proof.Machine.execCmpleOrder e w k s = .next out ∧ Keeps s out := by
  refine ⟨_, rfl, ?_⟩
  repeat' (first
    | (with_reducible exact Keeps.refl _)
    | (with_reducible assumption)
    | (with_reducible apply State.next_keeps)
    | (with_reducible apply State.runOrder_keeps))

theorem execCmpgtOrder_keeps (e : BitVec 4) (w : World) (k : Nat) (s : State) :
    ∃ out, Sys2Proof.Machine.execCmpgtOrder e w k s = .next out ∧ Keeps s out := by
  refine ⟨_, rfl, ?_⟩
  repeat' (first
    | (with_reducible exact Keeps.refl _)
    | (with_reducible assumption)
    | (with_reducible apply State.next_keeps)
    | (with_reducible apply State.runOrder_keeps))

theorem execCmpgeOrder_keeps (e : BitVec 4) (w : World) (k : Nat) (s : State) :
    ∃ out, Sys2Proof.Machine.execCmpgeOrder e w k s = .next out ∧ Keeps s out := by
  refine ⟨_, rfl, ?_⟩
  repeat' (first
    | (with_reducible exact Keeps.refl _)
    | (with_reducible assumption)
    | (with_reducible apply State.next_keeps)
    | (with_reducible apply State.runOrder_keeps))

theorem execCmpunOrder_keeps (e : BitVec 4) (w : World) (k : Nat) (s : State) :
    ∃ out, Sys2Proof.Machine.execCmpunOrder e w k s = .next out ∧ Keeps s out := by
  refine ⟨_, rfl, ?_⟩
  repeat' (first
    | (with_reducible exact Keeps.refl _)
    | (with_reducible assumption)
    | (with_reducible apply State.next_keeps)
    | (with_reducible apply State.runOrder_keeps))

theorem execCmpordOrder_keeps (e : BitVec 4) (w : World) (k : Nat) (s : State) :
    ∃ out, Sys2Proof.Machine.execCmpordOrder e w k s = .next out ∧ Keeps s out := by
  refine ⟨_, rfl, ?_⟩
  repeat' (first
    | (with_reducible exact Keeps.refl _)
    | (with_reducible assumption)
    | (with_reducible apply State.next_keeps)
    | (with_reducible apply State.runOrder_keeps))

theorem execSumOrder_keeps (e : BitVec 4) (w : World) (k : Nat) (s : State) :
    ∃ out, Sys2Proof.Machine.execSumOrder e w k s = .next out ∧ Keeps s out := by
  refine ⟨_, rfl, ?_⟩
  repeat' (first
    | (with_reducible exact Keeps.refl _)
    | (with_reducible assumption)
    | (with_reducible apply State.next_keeps)
    | (with_reducible apply State.runOrder_keeps))

theorem execMinrOrder_keeps (e : BitVec 4) (w : World) (k : Nat) (s : State) :
    ∃ out, Sys2Proof.Machine.execMinrOrder e w k s = .next out ∧ Keeps s out := by
  refine ⟨_, rfl, ?_⟩
  repeat' (first
    | (with_reducible exact Keeps.refl _)
    | (with_reducible assumption)
    | (with_reducible apply State.next_keeps)
    | (with_reducible apply State.runOrder_keeps))

theorem execMaxrOrder_keeps (e : BitVec 4) (w : World) (k : Nat) (s : State) :
    ∃ out, Sys2Proof.Machine.execMaxrOrder e w k s = .next out ∧ Keeps s out := by
  refine ⟨_, rfl, ?_⟩
  repeat' (first
    | (with_reducible exact Keeps.refl _)
    | (with_reducible assumption)
    | (with_reducible apply State.next_keeps)
    | (with_reducible apply State.runOrder_keeps))

theorem execAndrOrder_keeps (e : BitVec 4) (w : World) (k : Nat) (s : State) :
    ∃ out, Sys2Proof.Machine.execAndrOrder e w k s = .next out ∧ Keeps s out := by
  refine ⟨_, rfl, ?_⟩
  repeat' (first
    | (with_reducible exact Keeps.refl _)
    | (with_reducible assumption)
    | (with_reducible apply State.next_keeps)
    | (with_reducible apply State.runOrder_keeps))

theorem execOrrOrder_keeps (e : BitVec 4) (w : World) (k : Nat) (s : State) :
    ∃ out, Sys2Proof.Machine.execOrrOrder e w k s = .next out ∧ Keeps s out := by
  refine ⟨_, rfl, ?_⟩
  repeat' (first
    | (with_reducible exact Keeps.refl _)
    | (with_reducible assumption)
    | (with_reducible apply State.next_keeps)
    | (with_reducible apply State.runOrder_keeps))

theorem execXorrOrder_keeps (e : BitVec 4) (w : World) (k : Nat) (s : State) :
    ∃ out, Sys2Proof.Machine.execXorrOrder e w k s = .next out ∧ Keeps s out := by
  refine ⟨_, rfl, ?_⟩
  repeat' (first
    | (with_reducible exact Keeps.refl _)
    | (with_reducible assumption)
    | (with_reducible apply State.next_keeps)
    | (with_reducible apply State.runOrder_keeps))

theorem execDotOrder_keeps (e : BitVec 4) (w : World) (k : Nat) (s : State) :
    ∃ out, Sys2Proof.Machine.execDotOrder e w k s = .next out ∧ Keeps s out := by
  refine ⟨_, rfl, ?_⟩
  repeat' (first
    | (with_reducible exact Keeps.refl _)
    | (with_reducible assumption)
    | (with_reducible apply State.next_keeps)
    | (with_reducible apply State.runOrder_keeps))

theorem execSegsumOrder_keeps (e : BitVec 4) (w : World) (k : Nat) (s : State) :
    ∃ out, Sys2Proof.Machine.execSegsumOrder e w k s = .next out ∧ Keeps s out := by
  refine ⟨_, rfl, ?_⟩
  repeat' (first
    | (with_reducible exact Keeps.refl _)
    | (with_reducible assumption)
    | (with_reducible apply State.next_keeps)
    | (with_reducible apply State.runOrder_keeps))

theorem execSegminOrder_keeps (e : BitVec 4) (w : World) (k : Nat) (s : State) :
    ∃ out, Sys2Proof.Machine.execSegminOrder e w k s = .next out ∧ Keeps s out := by
  refine ⟨_, rfl, ?_⟩
  repeat' (first
    | (with_reducible exact Keeps.refl _)
    | (with_reducible assumption)
    | (with_reducible apply State.next_keeps)
    | (with_reducible apply State.runOrder_keeps))

theorem execSegmaxOrder_keeps (e : BitVec 4) (w : World) (k : Nat) (s : State) :
    ∃ out, Sys2Proof.Machine.execSegmaxOrder e w k s = .next out ∧ Keeps s out := by
  refine ⟨_, rfl, ?_⟩
  repeat' (first
    | (with_reducible exact Keeps.refl _)
    | (with_reducible assumption)
    | (with_reducible apply State.next_keeps)
    | (with_reducible apply State.runOrder_keeps))

theorem execSegdotOrder_keeps (e : BitVec 4) (w : World) (k : Nat) (s : State) :
    ∃ out, Sys2Proof.Machine.execSegdotOrder e w k s = .next out ∧ Keeps s out := by
  refine ⟨_, rfl, ?_⟩
  repeat' (first
    | (with_reducible exact Keeps.refl _)
    | (with_reducible assumption)
    | (with_reducible apply State.next_keeps)
    | (with_reducible apply State.runOrder_keeps))

theorem execLinrecOrder_keeps (e : BitVec 4) (w : World) (k : Nat) (s : State) :
    ∃ out, Sys2Proof.Machine.execLinrecOrder e w k s = .next out ∧ Keeps s out := by
  refine ⟨_, rfl, ?_⟩
  repeat' (first
    | (with_reducible exact Keeps.refl _)
    | (with_reducible assumption)
    | (with_reducible apply State.next_keeps)
    | (with_reducible apply State.runOrder_keeps))

theorem execPsumOrder_keeps (e : BitVec 4) (w : World) (k : Nat) (s : State) :
    ∃ out, Sys2Proof.Machine.execPsumOrder e w k s = .next out ∧ Keeps s out := by
  refine ⟨_, rfl, ?_⟩
  repeat' (first
    | (with_reducible exact Keeps.refl _)
    | (with_reducible assumption)
    | (with_reducible apply State.next_keeps)
    | (with_reducible apply State.runOrder_keeps))

theorem execPsumxOrder_keeps (e : BitVec 4) (w : World) (k : Nat) (s : State) :
    ∃ out, Sys2Proof.Machine.execPsumxOrder e w k s = .next out ∧ Keeps s out := by
  refine ⟨_, rfl, ?_⟩
  repeat' (first
    | (with_reducible exact Keeps.refl _)
    | (with_reducible assumption)
    | (with_reducible apply State.next_keeps)
    | (with_reducible apply State.runOrder_keeps))

theorem execSegpsumOrder_keeps (e : BitVec 4) (w : World) (k : Nat) (s : State) :
    ∃ out, Sys2Proof.Machine.execSegpsumOrder e w k s = .next out ∧ Keeps s out := by
  refine ⟨_, rfl, ?_⟩
  repeat' (first
    | (with_reducible exact Keeps.refl _)
    | (with_reducible assumption)
    | (with_reducible apply State.next_keeps)
    | (with_reducible apply State.runOrder_keeps))

theorem execCompressOrder_keeps (e : BitVec 4) (w : World) (k : Nat) (s : State) :
    ∃ out, Sys2Proof.Machine.execCompressOrder e w k s = .next out ∧ Keeps s out := by
  refine ⟨_, rfl, ?_⟩
  repeat' (first
    | (with_reducible exact Keeps.refl _)
    | (with_reducible assumption)
    | (with_reducible apply State.next_keeps)
    | (with_reducible apply State.runOrder_keeps))

theorem execExpandOrder_keeps (e : BitVec 4) (w : World) (k : Nat) (s : State) :
    ∃ out, Sys2Proof.Machine.execExpandOrder e w k s = .next out ∧ Keeps s out := by
  refine ⟨_, rfl, ?_⟩
  repeat' (first
    | (with_reducible exact Keeps.refl _)
    | (with_reducible assumption)
    | (with_reducible apply State.next_keeps)
    | (with_reducible apply State.runOrder_keeps))

theorem execGatherOrder_keeps (e : BitVec 4) (w : World) (k : Nat) (s : State) :
    ∃ out, Sys2Proof.Machine.execGatherOrder e w k s = .next out ∧ Keeps s out := by
  refine ⟨_, rfl, ?_⟩
  repeat' (first
    | (with_reducible exact Keeps.refl _)
    | (with_reducible assumption)
    | (with_reducible apply State.next_keeps)
    | (with_reducible apply State.runOrder_keeps))

theorem execScatterOrder_keeps (e : BitVec 4) (w : World) (k : Nat) (s : State) :
    ∃ out, Sys2Proof.Machine.execScatterOrder e w k s = .next out ∧ Keeps s out := by
  refine ⟨_, rfl, ?_⟩
  repeat' (first
    | (with_reducible exact Keeps.refl _)
    | (with_reducible assumption)
    | (with_reducible apply State.next_keeps)
    | (with_reducible apply State.runOrder_keeps))

theorem execScatteraddOrder_keeps (e : BitVec 4) (w : World) (k : Nat) (s : State) :
    ∃ out, Sys2Proof.Machine.execScatteraddOrder e w k s = .next out ∧ Keeps s out := by
  refine ⟨_, rfl, ?_⟩
  repeat' (first
    | (with_reducible exact Keeps.refl _)
    | (with_reducible assumption)
    | (with_reducible apply State.next_keeps)
    | (with_reducible apply State.runOrder_keeps))

theorem execSpmvOrder_keeps (e : BitVec 4) (w : World) (k : Nat) (s : State) :
    ∃ out, Sys2Proof.Machine.execSpmvOrder e w k s = .next out ∧ Keeps s out := by
  refine ⟨_, rfl, ?_⟩
  repeat' (first
    | (with_reducible exact Keeps.refl _)
    | (with_reducible assumption)
    | (with_reducible apply State.next_keeps)
    | (with_reducible apply State.runOrder_keeps))

theorem execCopyOrder_keeps (e : BitVec 4) (w : World) (k : Nat) (s : State) :
    ∃ out, Sys2Proof.Machine.execCopyOrder e w k s = .next out ∧ Keeps s out := by
  refine ⟨_, rfl, ?_⟩
  repeat' (first
    | (with_reducible exact Keeps.refl _)
    | (with_reducible assumption)
    | (with_reducible apply State.next_keeps)
    | (with_reducible apply State.runOrder_keeps))

theorem execFillOrder_keeps (e : BitVec 4) (w : World) (k : Nat) (s : State) :
    ∃ out, Sys2Proof.Machine.execFillOrder e w k s = .next out ∧ Keeps s out := by
  refine ⟨_, rfl, ?_⟩
  repeat' (first
    | (with_reducible exact Keeps.refl _)
    | (with_reducible assumption)
    | (with_reducible apply State.next_keeps)
    | (with_reducible apply State.runOrder_keeps))

theorem execArcappendOrder_keeps (e : BitVec 4) (w : World) (k : Nat) (s : State) :
    ∃ out, Sys2Proof.Machine.execArcappendOrder e w k s = .next out ∧ Keeps s out := by
  refine ⟨_, rfl, ?_⟩
  repeat' (first
    | (with_reducible exact Keeps.refl _)
    | (with_reducible assumption)
    | (with_reducible apply State.next_keeps)
    | (with_reducible apply State.runOrder_keeps))

theorem execArcreadOrder_keeps (e : BitVec 4) (w : World) (k : Nat) (s : State) :
    ∃ out, Sys2Proof.Machine.execArcreadOrder e w k s = .next out ∧ Keeps s out := by
  refine ⟨_, rfl, ?_⟩
  repeat' (first
    | (with_reducible exact Keeps.refl _)
    | (with_reducible assumption)
    | (with_reducible apply State.next_keeps)
    | (with_reducible apply State.runOrder_keeps))

theorem execSealfeedOrder_keeps (e : BitVec 4) (w : World) (k : Nat) (s : State) :
    ∃ out, Sys2Proof.Machine.execSealfeedOrder e w k s = .next out ∧ Keeps s out := by
  refine ⟨_, rfl, ?_⟩
  repeat' (first
    | (with_reducible exact Keeps.refl _)
    | (with_reducible assumption)
    | (with_reducible apply State.next_keeps)
    | (with_reducible apply State.runOrder_keeps))

theorem execSceneOrder_keeps (e : BitVec 4) (w : World) (k : Nat) (s : State) :
    ∃ out, Sys2Proof.Machine.execSceneOrder e w k s = .next out ∧ Keeps s out := by
  refine ⟨_, rfl, ?_⟩
  repeat' (first
    | (with_reducible exact Keeps.refl _)
    | (with_reducible assumption)
    | (with_reducible apply State.next_keeps)
    | (with_reducible apply State.runOrder_keeps))

theorem execScalebOrder_keeps (e : BitVec 4) (w : World) (k : Nat) (s : State) :
    ∃ out, Sys2Proof.Machine.execScalebOrder e w k s = .next out ∧ Keeps s out := by
  refine ⟨_, rfl, ?_⟩
  repeat' (first
    | (with_reducible exact Keeps.refl _)
    | (with_reducible assumption)
    | (with_reducible apply State.next_keeps)
    | (with_reducible apply State.runOrder_keeps))

theorem execLogbOrder_keeps (e : BitVec 4) (w : World) (k : Nat) (s : State) :
    ∃ out, Sys2Proof.Machine.execLogbOrder e w k s = .next out ∧ Keeps s out := by
  refine ⟨_, rfl, ?_⟩
  repeat' (first
    | (with_reducible exact Keeps.refl _)
    | (with_reducible assumption)
    | (with_reducible apply State.next_keeps)
    | (with_reducible apply State.runOrder_keeps))

theorem execCopysignOrder_keeps (e : BitVec 4) (w : World) (k : Nat) (s : State) :
    ∃ out, Sys2Proof.Machine.execCopysignOrder e w k s = .next out ∧ Keeps s out := by
  refine ⟨_, rfl, ?_⟩
  repeat' (first
    | (with_reducible exact Keeps.refl _)
    | (with_reducible assumption)
    | (with_reducible apply State.next_keeps)
    | (with_reducible apply State.runOrder_keeps))

theorem execClassOrder_keeps (e : BitVec 4) (w : World) (k : Nat) (s : State) :
    ∃ out, Sys2Proof.Machine.execClassOrder e w k s = .next out ∧ Keeps s out := by
  refine ⟨_, rfl, ?_⟩
  repeat' (first
    | (with_reducible exact Keeps.refl _)
    | (with_reducible assumption)
    | (with_reducible apply State.next_keeps)
    | (with_reducible apply State.runOrder_keeps))

end Sys2Proof.Machine
end

