-- ==== Sys2Proof/Laws/ExecUnderstudy.lean ====
section
/-!
SUPPORT. What the commands of Machine/CmdUnderstudy.lean keep: each answers a next state that `Keeps` relates to the state before.
-/
namespace Sys2Proof.Machine

theorem execBeatMonitorUpdate_keeps (res : BitVec 12) (rate ratio : BitVec 16) (s : State) :
    ∃ out, Sys2Proof.Machine.execBeatMonitorUpdate res rate ratio s = .next out ∧ Keeps s out := by
  refine ⟨_, rfl, ?_⟩
  repeat' (first
    | (with_reducible exact Keeps.refl _)
    | (with_reducible assumption)
    | (with_reducible apply State.next_keeps)
    | (with_reducible apply State.beatUpdate_keeps)
    | (with_reducible apply State.pollCurtain_keeps))

theorem execSelfTest_keeps (res : BitVec 12) (pass : Bool) (s : State) :
    ∃ out, Sys2Proof.Machine.execSelfTest res pass s = .next out ∧ Keeps s out := by
  refine ⟨_, rfl, ?_⟩
  repeat' (first
    | (with_reducible exact Keeps.refl _)
    | (with_reducible assumption)
    | (with_reducible apply State.next_keeps)
    | (with_reducible apply State.selfTest_keeps)
    | (with_reducible apply State.pollCurtain_keeps))

theorem execDeferExpiry_keeps (s : State) :
    ∃ out, Sys2Proof.Machine.execDeferExpiry s = .next out ∧ Keeps s out := by
  refine ⟨_, rfl, ?_⟩
  repeat' (first
    | (with_reducible exact Keeps.refl _)
    | (with_reducible assumption)
    | (with_reducible apply State.next_keeps)
    | (with_reducible apply State.deferExpiry_keeps))

theorem execLaneSwap_keeps (pass : Bool) (dur : BitVec 32) (s : State) :
    ∃ out, Sys2Proof.Machine.execLaneSwap pass dur s = .next out ∧ Keeps s out := by
  refine ⟨_, rfl, ?_⟩
  repeat' (first
    | (with_reducible exact Keeps.refl _)
    | (with_reducible assumption)
    | (with_reducible apply State.next_keeps)
    | (with_reducible apply State.laneSwap_keeps)
    | (with_reducible apply State.swapDone_keeps))

theorem execEngineMigration_keeps (pass : Bool) (dur : BitVec 32) (s : State) :
    ∃ out, Sys2Proof.Machine.execEngineMigration pass dur s = .next out ∧ Keeps s out := by
  refine ⟨_, rfl, ?_⟩
  repeat' (first
    | (with_reducible exact Keeps.refl _)
    | (with_reducible assumption)
    | (with_reducible apply State.next_keeps)
    | (with_reducible apply State.engineMigration_keeps)
    | (with_reducible apply State.swapDone_keeps))

theorem execCallerSwap_keeps (pass : Bool) (dur : BitVec 32) (s : State) :
    ∃ out, Sys2Proof.Machine.execCallerSwap pass dur s = .next out ∧ Keeps s out := by
  refine ⟨_, rfl, ?_⟩
  repeat' (first
    | (with_reducible exact Keeps.refl _)
    | (with_reducible assumption)
    | (with_reducible apply State.next_keeps)
    | (with_reducible apply State.callerSwap_keeps)
    | (with_reducible apply State.swapDone_keeps))

theorem execSealUnitSwap_keeps (pass : Bool) (dur : BitVec 32) (s : State) :
    ∃ out, Sys2Proof.Machine.execSealUnitSwap pass dur s = .next out ∧ Keeps s out := by
  refine ⟨_, rfl, ?_⟩
  repeat' (first
    | (with_reducible exact Keeps.refl _)
    | (with_reducible assumption)
    | (with_reducible apply State.next_keeps)
    | (with_reducible apply State.digestMove_keeps)
    | (with_reducible apply State.sealUnitSwap_keeps)
    | (with_reducible apply State.swapDone_keeps))

theorem execSwapLaneCommand_keeps (m : Master) (target : BitVec 8) (lane phys : BitVec 5) (s : State) :
    ∃ out, Sys2Proof.Machine.execSwapLaneCommand m target lane phys s = .next out ∧ Keeps s out := by
  refine ⟨_, rfl, ?_⟩
  repeat' (first
    | (with_reducible exact Keeps.refl _)
    | (with_reducible assumption)
    | (with_reducible apply State.next_keeps)
    | (with_reducible apply State.write_keeps))

theorem execSwapEngineCommand_keeps (m : Master) (target : BitVec 8) (phys : BitVec 5) (s : State) :
    ∃ out, Sys2Proof.Machine.execSwapEngineCommand m target phys s = .next out ∧ Keeps s out := by
  refine ⟨_, rfl, ?_⟩
  repeat' (first
    | (with_reducible exact Keeps.refl _)
    | (with_reducible assumption)
    | (with_reducible apply State.next_keeps)
    | (with_reducible apply State.write_keeps))

theorem execSwapCallerCommand_keeps (m : Master) (target : BitVec 8) (phys : BitVec 5) (s : State) :
    ∃ out, Sys2Proof.Machine.execSwapCallerCommand m target phys s = .next out ∧ Keeps s out := by
  refine ⟨_, rfl, ?_⟩
  repeat' (first
    | (with_reducible exact Keeps.refl _)
    | (with_reducible assumption)
    | (with_reducible apply State.next_keeps)
    | (with_reducible apply State.write_keeps))

theorem execSwapComparatorCommand_keeps (m : Master) (target : BitVec 8) (phys : BitVec 5) (s : State) :
    ∃ out, Sys2Proof.Machine.execSwapComparatorCommand m target phys s = .next out ∧ Keeps s out := by
  refine ⟨_, rfl, ?_⟩
  repeat' (first
    | (with_reducible exact Keeps.refl _)
    | (with_reducible assumption)
    | (with_reducible apply State.next_keeps)
    | (with_reducible apply State.write_keeps))

theorem execSwapSealCommand_keeps (m : Master) (target : BitVec 8) (phys : BitVec 5) (s : State) :
    ∃ out, Sys2Proof.Machine.execSwapSealCommand m target phys s = .next out ∧ Keeps s out := by
  refine ⟨_, rfl, ?_⟩
  repeat' (first
    | (with_reducible exact Keeps.refl _)
    | (with_reducible assumption)
    | (with_reducible apply State.next_keeps)
    | (with_reducible apply State.write_keeps))

end Sys2Proof.Machine
end

