-- ==== Sys2Proof/Laws/Idle.lean ====
section
/-!
SUPPORT. What the words that the callers execute in an idle microsecond do: a word that spells a command is that command, and
whatever every command keeps, the callers keep.
-/
namespace Sys2Proof.Machine

/-- A word that spells an instruction is its command. -/
theorem execWord_instr {c : BitVec 3} {w : BitVec 32} {i : Instr} (h : Spelt.ofWord c w = .instr i) (s : State) :
    execWord c w s = exec i s := by simp [execWord, h]

/-- A word that spells none raises ILLEGAL. -/
theorem execWord_illegal {c : BitVec 3} {w : BitVec 32} (h : Spelt.ofWord c w = .illegal) (s : State) :
    execWord c w s = .next (s.instr c.toNat w.toNat true [] [] id) := by simp [execWord, h]

theorem execWord_keeps (every : ∀ i s, ∃ t, exec i s = .next t ∧ Keeps s t) (c : BitVec 3) (w : BitVec 32) (s : State) :
    ∃ t, execWord c w s = .next t ∧ Keeps s t := by
  unfold execWord
  split
  · exact every _ _
  · rename_i d s1 num _
    have k := State.takeFree_keeps (Keeps.refl s)
    dsimp only
    split
    · obtain ⟨t, e, h⟩ := every (.crw c d s1 num) s.takeFree.2
      exact ⟨t, e, k.trans h⟩
    · obtain ⟨t, e, h⟩ := every (.crr c d s1 num) s.takeFree.2
      exact ⟨t, e, k.trans h⟩
  · exact ⟨_, rfl, State.instr_keeps _ _ _ _ _ _ _ (Keeps.refl s) fun _ h => h⟩

/-- A caller that does not issue, or stands in the boot ROM, does nothing. -/
theorem State.callerStep_rests {s : State} {c : BitVec 3} (h : s.issues c.toNat = false ∨ s.romWord (s.cal c.toNat).pc = true) :
    s.callerStep c = s := by
  rcases h with h | h <;> simp [State.callerStep, h]

/-- A caller with a word at its program counter executes it. -/
theorem State.callerStep_executes {s t : State} {c : BitVec 3} (hi : s.issues c.toNat = true)
    (hr : s.romWord (s.cal c.toNat).pc = false) (hf : s.fetch c.toNat (s.cal c.toNat).pc = .word)
    (he : execWord c (s.wordAt c.toNat) s = .next t) : s.callerStep c = t := by
  simp [State.callerStep, hi, hr, hf, he]

theorem State.callerStep_keeps (every : ∀ i s, ∃ t, exec i s = .next t ∧ Keeps s t) (s : State) (c : BitVec 3) :
    Keeps s (s.callerStep c) := by
  unfold State.callerStep
  split
  · exact Keeps.refl s
  · split
    · obtain ⟨t, e, h⟩ := execWord_keeps every c (s.wordAt c.toNat) s
      rw [e]; exact h
    · exact State.instr_keeps _ _ _ _ _ _ _ (Keeps.refl s) fun _ h => h

theorem State.callersStep_keeps (every : ∀ i s, ∃ t, exec i s = .next t ∧ Keeps s t) (s : State) : Keeps s s.callersStep :=
  keeps_foldl (Keeps.refl s) fun t c h => h.trans (State.callerStep_keeps every t (BitVec.ofNat 3 c))

/-- An idle microsecond keeps what waits, the free values and the canonical form, and moves the time base. -/
theorem State.idle_keeps (every : ∀ i s, ∃ t, exec i s = .next t ∧ Keeps s t) {s : State}
    (h : (!s.cus.clock || !s.cus.aon) = false) :
    Keeps { s with beats := s.beats + Config.beatsIn s.time, time := s.time + 1 } s.idle := by
  rw [State.idle, if_neg (by simp [h])]
  exact (State.tick_keeps h).trans (State.callersStep_keeps every s.tick)

end Sys2Proof.Machine
end

