-- ==== Sys2Proof/Laws/Reach.lean ====
section
/-!
SUPPORT. Tests that decide the hypotheses of the statements on a concrete state: a register write that reaches its register, and
a caller that acts on its instruction.
-/
namespace Sys2Proof.Machine

/-- The conditions of `Reaches`, as a test. -/
def State.reachesAt (s : State) (m : Master) (off : Nat) : Bool :=
  s.cfgOpen (s.auth m) off &&
  match cfgDecode off 8 true with
  | some (.reg a) =>
    (match s.check (s.auth m).view .wr (cfgBase + off) with | .ok _ => true | .error _ => false) &&
    !ringHidden (s.auth m) (.reg a) && s.blkOn a && (!a.d.machine || (s.auth m).machine)
  | _ => false

/-- A write that passes the test reaches a register. -/
theorem reaches_of_test {s : State} {m : Master} {off : Nat} (h : s.reachesAt m off = true) : ∃ a, Reaches s m off a := by
  unfold State.reachesAt at h
  rw [Bool.and_eq_true] at h
  obtain ⟨h1, h2⟩ := h
  split at h2
  · rename_i a ha
    simp only [Bool.and_eq_true, Bool.or_eq_true, Bool.not_eq_true'] at h2
    obtain ⟨⟨⟨hc, hr⟩, hb⟩, hm⟩ := h2
    refine ⟨a, h1, ha, ?_, hr, hb, ?_⟩
    · split at hc
      · exact ⟨_, ‹_›⟩
      · cases hc
    · intro hx; rcases hm with hm | hm
      · rw [hx] at hm; cases hm
      · exact hm
  · cases h2

/-- The conditions of `Acts`, as a test. -/
def State.actsAt (s : State) (c : Nat) (regs : List (BitVec 5)) (vregs : List Nat) : Bool :=
  s.issues c && decide (s.fetch c (s.cal c).pc = .word) &&
  (match (s.cal c).shadow with | none => true | some h => decide (h.count < 8)) &&
  !(s.cal c).clash (regs.flatMap fun r => s.destKeys c r) vregs

/-- A caller that passes the test acts. -/
theorem acts_of_test {s : State} {c : Nat} {regs : List (BitVec 5)} {vregs : List Nat} (h : s.actsAt c regs vregs = true) :
    Acts s c regs vregs := by
  unfold State.actsAt at h
  simp only [Bool.and_eq_true, decide_eq_true_eq, Bool.not_eq_true'] at h
  obtain ⟨⟨⟨h1, h2⟩, h3⟩, h4⟩ := h
  refine ⟨h1, h2, ?_, h4⟩
  intro x hx
  rw [hx] at h3
  exact of_decide_eq_true h3

end Sys2Proof.Machine
end

