-- ==== Sys2Proof/Laws/Registers.lean ====
section
/-!
SUPPORT. What a write of a register does once it reaches the register (R15, R33, R360): the fields are stored, then the register
acts; a register without stored fields only acts. Where the registers that commands write stand in the table.
-/
namespace Sys2Proof.Machine

/-- No field of the register keeps what a write carries. -/
def RegAt.acting (a : RegAt) : Bool :=
  a.d.flds.all fun f => match f.ty with | .rw | .rwl | .w1c => false | _ => true

/-- A write that reaches its register is the write of the register. -/
theorem Reaches.write {s : State} {m : Master} {off : Nat} {a : RegAt} (h : Reaches s m off a) (hc : a.d.reg ≠ .cfgCommit)
    (v : Word) : s.write m off v = s.writeReg (s.auth m) a v (BitVec.allOnes 64) false := by
  obtain ⟨h1, h2, ⟨t, h3⟩, h4, h5, h6⟩ := h
  unfold State.write State.regWrite State.admits
  rw [if_neg (by rw [h1]; decide), h2]
  simp only [if_true, h3, h4, Bool.false_eq_true, if_false]
  rw [if_neg (by simp [hc])]
  show State.putReg s (s.auth m) a off 8 v false = _
  unfold State.putReg
  rw [if_neg (by rw [h5]; decide), if_neg]
  · rfl
  · intro hh
    simp only [Bool.and_eq_true, Bool.not_eq_true'] at hh
    rw [h6 hh.1] at hh
    exact absurd hh.2 (by decide)

/-- A write that the register takes in no way of its own stores its fields and acts. -/
theorem State.writeReg_plain {s : State} {au : Auth} {a : RegAt} {w m : Word} (h1 : a.d.reg ≠ .lnkSecctl)
    (h2 : a.d.reg ≠ .lnkTxsctl) (hm : (a.d.reg.acts && fldsMask a.d.flds &&& m == 0) = false)
    (h : s.writeAlone au a w m false = none) :
    s.writeReg au a w m false = (s.storeReg au.src a w m false).wrote au a (s.reg a.off) w m := by
  unfold State.writeReg
  have e1 : (a.d.reg == Reg.lnkSecctl) = false := by simpa using h1
  have e2 : (a.d.reg == Reg.lnkTxsctl) = false := by simpa using h2
  simp only [e1, e2, Bool.false_and, Bool.false_or, Bool.false_eq_true, if_false, h, hm]

/-- A register without stored fields stores nothing. -/
theorem State.storeReg_acting {s : State} {src : Nat} {a : RegAt} {w m : Word} (h : a.acting = true) :
    s.storeReg src a w m false = s := by
  unfold RegAt.acting at h
  rw [List.all_eq_true] at h
  have hl : s.lockedHit a w m = false := by
    unfold State.lockedHit
    rw [Bool.and_eq_false_iff]; right
    rw [List.any_eq_false]
    intro f hf
    have := h f hf
    cases hty : f.ty <;> simp [hty] at this ⊢
  unfold State.storeReg
  rw [hl]
  simp only [Bool.and_false, Bool.false_eq_true, if_false]
  have g : ∀ l : List Fld, (∀ f ∈ l, f ∈ a.d.flds) → l.foldl (fun s f => s.storeFld src a w m false f) s = s := by
    intro l
    induction l with
    | nil => intro _; rfl
    | cons f l ih =>
      intro hl
      rw [List.foldl_cons]
      have e : s.storeFld src a w m false f = s := by
        unfold State.storeFld
        have := h f (hl f (List.mem_cons_self ..))
        cases hty : f.ty <;> simp [hty] at this ⊢
      rw [e]
      exact ih fun f hf => hl f (List.mem_cons_of_mem _ hf)
  exact g _ fun f hf => hf

/-- A write that reaches a register without stored fields only acts. -/
theorem Reaches.acts {s : State} {m : Master} {off : Nat} {a : RegAt} (h : Reaches s m off a) (ha : a.acting = true)
    (hm : (a.d.reg.acts && fldsMask a.d.flds &&& BitVec.allOnes 64 == 0) = false) (hc : a.d.reg ≠ .cfgCommit) (h1 : a.d.reg ≠ .lnkSecctl) (h2 : a.d.reg ≠ .lnkTxsctl) (v : Word)
    (alone : s.writeAlone (s.auth m) a v (BitVec.allOnes 64) false = none) :
    s.write m off v = s.wrote (s.auth m) a (s.reg a.off) v (BitVec.allOnes 64) := by
  rw [h.write hc, State.writeReg_plain h1 h2 hm alone, State.storeReg_acting ha]

/-- Where an offset stands in the register table. -/
def located (off : Nat) (r : Reg) (inst i j : Nat) (acting : Bool) : Bool :=
  match cfgDecode off 8 true with
  | some (.reg a) => a.d.reg == r && a.inst == inst && a.i == i && a.j == j && a.acting == acting && a.off == off
  | _ => false

theorem Reaches.at {s : State} {m : Master} {off : Nat} {a : RegAt} {r : Reg} {inst i j : Nat} {acting : Bool}
    (h : Reaches s m off a) (l : located off r inst i j acting = true) :
    a.d.reg = r ∧ a.inst = inst ∧ a.i = i ∧ a.j = j ∧ a.acting = acting ∧ a.off = off := by
  unfold located at l
  rw [h.decodes] at l
  simp only [Bool.and_eq_true, beq_iff_eq] at l
  tauto

/-- The block that an offset stands in. -/
def inBlock (off : Nat) (b : Blk) : Bool :=
  match cfgDecode off 8 true with
  | some (.reg a) => a.blk == b
  | _ => false

theorem Reaches.block {s : State} {m : Master} {off : Nat} {a : RegAt} {b : Blk} (h : Reaches s m off a)
    (l : inBlock off b = true) : a.blk = b := by
  unfold inBlock at l
  rw [h.decodes] at l
  exact beq_iff_eq.mp l

/-! ### The fields of a register -/

/-- The fields of a register lie in its word and apart from each other. -/
def fldsApart : List Fld → Bool
  | [] => true
  | f :: l => decide (f.lsb + f.w ≤ 64) && (l.all fun g => decide (f.lsb + f.w ≤ g.lsb ∨ g.lsb + g.w ≤ f.lsb)) && fldsApart l

theorem regs_apart : ∀ b : Blk, (regsOf b ++ faultRegs b.classMask).all (fun d => fldsApart d.flds) = true := by
  intro b; cases b <;> decide

theorem findIn_mem {b : Blk} {inst off o : Nat} {l : List RegDef} {a : RegAt} (h : findIn b inst off o l = some a) : a.d ∈ l := by
  induction l with
  | nil => cases h
  | cons d l ih =>
    unfold findIn at h
    split at h
    · split at h
      · cases h
      · rw [← Option.some.inj h]; exact List.mem_cons_self ..
    · exact List.mem_cons_of_mem _ (ih h)

/-- The fields of every register that a write reaches are apart (R31). -/
theorem Reaches.apart {s : State} {m : Master} {off : Nat} {a : RegAt} (h : Reaches s m off a) : fldsApart a.d.flds = true := by
  have hd := h.decodes
  unfold cfgDecode at hd
  split at hd
  · cases hd
  split at hd
  · cases hd
  split at hd
  · rename_i x hx
    split at hd
    · cases hd
    · have hax : x = a := by injection hd with hd; injection hd
      subst hax
      unfold findReg at hx
      split at hx
      · rename_i b _
        have hall := regs_apart b
        rw [List.all_eq_true] at hall
        unfold Blk.findReg at hx
        dsimp only at hx
        split at hx
        · cases hx
        split at hx
        · rw [← Option.some.inj hx]; rfl
        split at hx
        · exact hall _ (List.mem_append_right _ (findIn_mem hx))
        · exact hall _ (List.mem_append_left _ (findIn_mem hx))
      · cases hx
  · cases hd

/-! ### Fields of the words that commands write -/

theorem wr_ofNat (k l n : Nat) (h : l + n ≤ 64) : wr (BitVec.ofNat 64 k) ⟨l, n⟩ = k / 2 ^ l % 2 ^ n := by
  unfold wr Word.fld
  rw [BitVec.toNat_ofNat]
  show k % 2 ^ 64 / 2 ^ l % 2 ^ n = _
  have e : (2 : Nat) ^ 64 = 2 ^ l * 2 ^ (64 - l) := by rw [← Nat.pow_add]; congr 1; omega
  rw [e, Nat.mod_mul_right_div_self, Nat.mod_mod_of_dvd]
  exact Nat.pow_dvd_pow 2 (by omega)

theorem wr_zeroExtend {n : Nat} (x : BitVec n) (h : n ≤ 64) : wr (x.zeroExtend 64) ⟨0, n⟩ = x.toNat := by
  unfold wr Word.fld
  have := x.isLt
  have h2 : x.toNat < 2 ^ 64 := Nat.lt_of_lt_of_le this (Nat.pow_le_pow_right (by decide) h)
  show (x.zeroExtend 64).toNat / 2 ^ 0 % 2 ^ n = _
  rw [BitVec.zeroExtend, BitVec.toNat_setWidth, Nat.mod_eq_of_lt h2, Nat.pow_zero, Nat.div_one,
    Nat.mod_eq_of_lt this]

/-- A field of one bit is that bit. -/
theorem State.rb_eq_bit (s : State) (a l : Nat) : s.rb a ⟨l, 1⟩ = (s.reg a).bit l := by
  unfold State.rb State.rf Word.fld Word.bit BitVec.getLsbD
  rw [Nat.testBit_eq_decide_div_mod_eq]
  show ((s.reg a).toNat / 2 ^ l % 2 ^ 1 == 1) = _
  simp [beq_eq_decide]

theorem State.rb_of_one {s : State} {a : Nat} {f : FP} (h : s.rf a f = 1) : s.rb a f = true := by unfold State.rb; rw [h]; rfl
theorem State.rb_of_zero {s : State} {a : Nat} {f : FP} (h : s.rf a f = 0) : s.rb a f = false := by unfold State.rb; rw [h]; rfl

end Sys2Proof.Machine
end

