-- ==== Sys2Proof/Laws/State.lean ====
section
/-!
SUPPORT. Each update of the state leaves every field but its own as it is: one lemma for each field and update, for simp, so
that no proof unfolds a record update.
-/
namespace Sys2Proof.Machine
variable (s : State)

section setReg
variable (a : Nat) (v : Word)
@[simp] theorem State.setReg_pending : (s.setReg a v).pending = s.pending := rfl
@[simp] theorem State.setReg_free : (s.setReg a v).free = s.free := rfl
@[simp] theorem State.setReg_rdata : (s.setReg a v).rdata = s.rdata := rfl
@[simp] theorem State.setReg_time : (s.setReg a v).time = s.time := rfl
@[simp] theorem State.setReg_beats : (s.setReg a v).beats = s.beats := rfl
@[simp] theorem State.setReg_mem : (s.setReg a v).mem = s.mem := rfl
@[simp] theorem State.setReg_eccBad : (s.setReg a v).eccBad = s.eccBad := rfl
@[simp] theorem State.setReg_hostMem : (s.setReg a v).hostMem = s.hostMem := rfl
@[simp] theorem State.setReg_retired : (s.setReg a v).retired = s.retired := rfl
@[simp] theorem State.setReg_cueIn : (s.setReg a v).cueIn = s.cueIn := rfl
@[simp] theorem State.setReg_queues : (s.setReg a v).queues = s.queues := rfl
@[simp] theorem State.setReg_orderSeq : (s.setReg a v).orderSeq = s.orderSeq := rfl
@[simp] theorem State.setReg_late : (s.setReg a v).late = s.late := rfl
@[simp] theorem State.setReg_engPair : (s.setReg a v).engPair = s.engPair := rfl
@[simp] theorem State.setReg_tp : (s.setReg a v).tp = s.tp := rfl
@[simp] theorem State.setReg_encore : (s.setReg a v).encore = s.encore := rfl
@[simp] theorem State.setReg_relays : (s.setReg a v).relays = s.relays := rfl
@[simp] theorem State.setReg_frames : (s.setReg a v).frames = s.frames := rfl
@[simp] theorem State.setReg_cue : (s.setReg a v).cue = s.cue := rfl
@[simp] theorem State.setReg_ids : (s.setReg a v).ids = s.ids := rfl
@[simp] theorem State.setReg_seals : (s.setReg a v).seals = s.seals := rfl
@[simp] theorem State.setReg_lnk : (s.setReg a v).lnk = s.lnk := rfl
@[simp] theorem State.setReg_arc : (s.setReg a v).arc = s.arc := rfl
@[simp] theorem State.setReg_res : (s.setReg a v).res = s.res := rfl
@[simp] theorem State.setReg_record : (s.setReg a v).record = s.record := rfl
@[simp] theorem State.setReg_cus : (s.setReg a v).cus = s.cus := rfl
@[simp] theorem State.setReg_cfg : (s.setReg a v).cfg = s.cfg := rfl
@[simp] theorem State.setReg_ust : (s.setReg a v).ust = s.ust := rfl
@[simp] theorem State.setReg_banks : (s.setReg a v).banks = s.banks := rfl
@[simp] theorem State.setReg_hbc : (s.setReg a v).hbc = s.hbc := rfl
@[simp] theorem State.setReg_counters : (s.setReg a v).counters = s.counters := rfl
@[simp] theorem State.setReg_host : (s.setReg a v).host = s.host := rfl
@[simp] theorem State.setReg_cals : (s.setReg a v).cals = s.cals := rfl
@[simp] theorem State.setReg_arbs : (s.setReg a v).arbs = s.arbs := rfl
@[simp] theorem State.setReg_calBeats : (s.setReg a v).calBeats = s.calBeats := rfl
@[simp] theorem State.setReg_alarmEnd : (s.setReg a v).alarmEnd = s.alarmEnd := rfl
@[simp] theorem State.setReg_boot : (s.setReg a v).boot = s.boot := rfl
end setReg

section setRf
variable (a : Nat) (f : FP) (x : Nat)
@[simp] theorem State.setRf_pending : (s.setRf a f x).pending = s.pending := rfl
@[simp] theorem State.setRf_free : (s.setRf a f x).free = s.free := rfl
@[simp] theorem State.setRf_rdata : (s.setRf a f x).rdata = s.rdata := rfl
@[simp] theorem State.setRf_time : (s.setRf a f x).time = s.time := rfl
@[simp] theorem State.setRf_beats : (s.setRf a f x).beats = s.beats := rfl
@[simp] theorem State.setRf_mem : (s.setRf a f x).mem = s.mem := rfl
@[simp] theorem State.setRf_eccBad : (s.setRf a f x).eccBad = s.eccBad := rfl
@[simp] theorem State.setRf_hostMem : (s.setRf a f x).hostMem = s.hostMem := rfl
@[simp] theorem State.setRf_retired : (s.setRf a f x).retired = s.retired := rfl
@[simp] theorem State.setRf_cueIn : (s.setRf a f x).cueIn = s.cueIn := rfl
@[simp] theorem State.setRf_queues : (s.setRf a f x).queues = s.queues := rfl
@[simp] theorem State.setRf_orderSeq : (s.setRf a f x).orderSeq = s.orderSeq := rfl
@[simp] theorem State.setRf_late : (s.setRf a f x).late = s.late := rfl
@[simp] theorem State.setRf_engPair : (s.setRf a f x).engPair = s.engPair := rfl
@[simp] theorem State.setRf_tp : (s.setRf a f x).tp = s.tp := rfl
@[simp] theorem State.setRf_encore : (s.setRf a f x).encore = s.encore := rfl
@[simp] theorem State.setRf_relays : (s.setRf a f x).relays = s.relays := rfl
@[simp] theorem State.setRf_frames : (s.setRf a f x).frames = s.frames := rfl
@[simp] theorem State.setRf_cue : (s.setRf a f x).cue = s.cue := rfl
@[simp] theorem State.setRf_ids : (s.setRf a f x).ids = s.ids := rfl
@[simp] theorem State.setRf_seals : (s.setRf a f x).seals = s.seals := rfl
@[simp] theorem State.setRf_lnk : (s.setRf a f x).lnk = s.lnk := rfl
@[simp] theorem State.setRf_arc : (s.setRf a f x).arc = s.arc := rfl
@[simp] theorem State.setRf_res : (s.setRf a f x).res = s.res := rfl
@[simp] theorem State.setRf_record : (s.setRf a f x).record = s.record := rfl
@[simp] theorem State.setRf_cus : (s.setRf a f x).cus = s.cus := rfl
@[simp] theorem State.setRf_cfg : (s.setRf a f x).cfg = s.cfg := rfl
@[simp] theorem State.setRf_ust : (s.setRf a f x).ust = s.ust := rfl
@[simp] theorem State.setRf_banks : (s.setRf a f x).banks = s.banks := rfl
@[simp] theorem State.setRf_hbc : (s.setRf a f x).hbc = s.hbc := rfl
@[simp] theorem State.setRf_counters : (s.setRf a f x).counters = s.counters := rfl
@[simp] theorem State.setRf_host : (s.setRf a f x).host = s.host := rfl
@[simp] theorem State.setRf_cals : (s.setRf a f x).cals = s.cals := rfl
@[simp] theorem State.setRf_arbs : (s.setRf a f x).arbs = s.arbs := rfl
@[simp] theorem State.setRf_calBeats : (s.setRf a f x).calBeats = s.calBeats := rfl
@[simp] theorem State.setRf_alarmEnd : (s.setRf a f x).alarmEnd = s.alarmEnd := rfl
@[simp] theorem State.setRf_boot : (s.setRf a f x).boot = s.boot := rfl
end setRf

section setByte
variable (a : Nat) (b : Byte)
@[simp] theorem State.setByte_pending : (s.setByte a b).pending = s.pending := rfl
@[simp] theorem State.setByte_free : (s.setByte a b).free = s.free := rfl
@[simp] theorem State.setByte_rdata : (s.setByte a b).rdata = s.rdata := rfl
@[simp] theorem State.setByte_time : (s.setByte a b).time = s.time := rfl
@[simp] theorem State.setByte_beats : (s.setByte a b).beats = s.beats := rfl
@[simp] theorem State.setByte_regs : (s.setByte a b).regs = s.regs := rfl
@[simp] theorem State.setByte_eccBad : (s.setByte a b).eccBad = s.eccBad := rfl
@[simp] theorem State.setByte_hostMem : (s.setByte a b).hostMem = s.hostMem := rfl
@[simp] theorem State.setByte_retired : (s.setByte a b).retired = s.retired := rfl
@[simp] theorem State.setByte_cueIn : (s.setByte a b).cueIn = s.cueIn := rfl
@[simp] theorem State.setByte_queues : (s.setByte a b).queues = s.queues := rfl
@[simp] theorem State.setByte_orderSeq : (s.setByte a b).orderSeq = s.orderSeq := rfl
@[simp] theorem State.setByte_late : (s.setByte a b).late = s.late := rfl
@[simp] theorem State.setByte_engPair : (s.setByte a b).engPair = s.engPair := rfl
@[simp] theorem State.setByte_tp : (s.setByte a b).tp = s.tp := rfl
@[simp] theorem State.setByte_encore : (s.setByte a b).encore = s.encore := rfl
@[simp] theorem State.setByte_relays : (s.setByte a b).relays = s.relays := rfl
@[simp] theorem State.setByte_frames : (s.setByte a b).frames = s.frames := rfl
@[simp] theorem State.setByte_cue : (s.setByte a b).cue = s.cue := rfl
@[simp] theorem State.setByte_ids : (s.setByte a b).ids = s.ids := rfl
@[simp] theorem State.setByte_seals : (s.setByte a b).seals = s.seals := rfl
@[simp] theorem State.setByte_lnk : (s.setByte a b).lnk = s.lnk := rfl
@[simp] theorem State.setByte_arc : (s.setByte a b).arc = s.arc := rfl
@[simp] theorem State.setByte_res : (s.setByte a b).res = s.res := rfl
@[simp] theorem State.setByte_record : (s.setByte a b).record = s.record := rfl
@[simp] theorem State.setByte_cus : (s.setByte a b).cus = s.cus := rfl
@[simp] theorem State.setByte_cfg : (s.setByte a b).cfg = s.cfg := rfl
@[simp] theorem State.setByte_ust : (s.setByte a b).ust = s.ust := rfl
@[simp] theorem State.setByte_banks : (s.setByte a b).banks = s.banks := rfl
@[simp] theorem State.setByte_hbc : (s.setByte a b).hbc = s.hbc := rfl
@[simp] theorem State.setByte_counters : (s.setByte a b).counters = s.counters := rfl
@[simp] theorem State.setByte_host : (s.setByte a b).host = s.host := rfl
@[simp] theorem State.setByte_cals : (s.setByte a b).cals = s.cals := rfl
@[simp] theorem State.setByte_arbs : (s.setByte a b).arbs = s.arbs := rfl
@[simp] theorem State.setByte_calBeats : (s.setByte a b).calBeats = s.calBeats := rfl
@[simp] theorem State.setByte_alarmEnd : (s.setByte a b).alarmEnd = s.alarmEnd := rfl
@[simp] theorem State.setByte_boot : (s.setByte a b).boot = s.boot := rfl
end setByte

section setBad
variable (a : Nat) (b : Bool)
@[simp] theorem State.setBad_pending : (s.setBad a b).pending = s.pending := rfl
@[simp] theorem State.setBad_free : (s.setBad a b).free = s.free := rfl
@[simp] theorem State.setBad_rdata : (s.setBad a b).rdata = s.rdata := rfl
@[simp] theorem State.setBad_time : (s.setBad a b).time = s.time := rfl
@[simp] theorem State.setBad_beats : (s.setBad a b).beats = s.beats := rfl
@[simp] theorem State.setBad_regs : (s.setBad a b).regs = s.regs := rfl
@[simp] theorem State.setBad_mem : (s.setBad a b).mem = s.mem := rfl
@[simp] theorem State.setBad_hostMem : (s.setBad a b).hostMem = s.hostMem := rfl
@[simp] theorem State.setBad_retired : (s.setBad a b).retired = s.retired := rfl
@[simp] theorem State.setBad_cueIn : (s.setBad a b).cueIn = s.cueIn := rfl
@[simp] theorem State.setBad_queues : (s.setBad a b).queues = s.queues := rfl
@[simp] theorem State.setBad_orderSeq : (s.setBad a b).orderSeq = s.orderSeq := rfl
@[simp] theorem State.setBad_late : (s.setBad a b).late = s.late := rfl
@[simp] theorem State.setBad_engPair : (s.setBad a b).engPair = s.engPair := rfl
@[simp] theorem State.setBad_tp : (s.setBad a b).tp = s.tp := rfl
@[simp] theorem State.setBad_encore : (s.setBad a b).encore = s.encore := rfl
@[simp] theorem State.setBad_relays : (s.setBad a b).relays = s.relays := rfl
@[simp] theorem State.setBad_frames : (s.setBad a b).frames = s.frames := rfl
@[simp] theorem State.setBad_cue : (s.setBad a b).cue = s.cue := rfl
@[simp] theorem State.setBad_ids : (s.setBad a b).ids = s.ids := rfl
@[simp] theorem State.setBad_seals : (s.setBad a b).seals = s.seals := rfl
@[simp] theorem State.setBad_lnk : (s.setBad a b).lnk = s.lnk := rfl
@[simp] theorem State.setBad_arc : (s.setBad a b).arc = s.arc := rfl
@[simp] theorem State.setBad_res : (s.setBad a b).res = s.res := rfl
@[simp] theorem State.setBad_record : (s.setBad a b).record = s.record := rfl
@[simp] theorem State.setBad_cus : (s.setBad a b).cus = s.cus := rfl
@[simp] theorem State.setBad_cfg : (s.setBad a b).cfg = s.cfg := rfl
@[simp] theorem State.setBad_ust : (s.setBad a b).ust = s.ust := rfl
@[simp] theorem State.setBad_banks : (s.setBad a b).banks = s.banks := rfl
@[simp] theorem State.setBad_hbc : (s.setBad a b).hbc = s.hbc := rfl
@[simp] theorem State.setBad_counters : (s.setBad a b).counters = s.counters := rfl
@[simp] theorem State.setBad_host : (s.setBad a b).host = s.host := rfl
@[simp] theorem State.setBad_cals : (s.setBad a b).cals = s.cals := rfl
@[simp] theorem State.setBad_arbs : (s.setBad a b).arbs = s.arbs := rfl
@[simp] theorem State.setBad_calBeats : (s.setBad a b).calBeats = s.calBeats := rfl
@[simp] theorem State.setBad_alarmEnd : (s.setBad a b).alarmEnd = s.alarmEnd := rfl
@[simp] theorem State.setBad_boot : (s.setBad a b).boot = s.boot := rfl
end setBad

section setPhys
variable (i : Nat) (x : Phys)
@[simp] theorem State.setPhys_pending : (s.setPhys i x).pending = s.pending := rfl
@[simp] theorem State.setPhys_free : (s.setPhys i x).free = s.free := rfl
@[simp] theorem State.setPhys_rdata : (s.setPhys i x).rdata = s.rdata := rfl
@[simp] theorem State.setPhys_time : (s.setPhys i x).time = s.time := rfl
@[simp] theorem State.setPhys_beats : (s.setPhys i x).beats = s.beats := rfl
@[simp] theorem State.setPhys_regs : (s.setPhys i x).regs = s.regs := rfl
@[simp] theorem State.setPhys_mem : (s.setPhys i x).mem = s.mem := rfl
@[simp] theorem State.setPhys_eccBad : (s.setPhys i x).eccBad = s.eccBad := rfl
@[simp] theorem State.setPhys_hostMem : (s.setPhys i x).hostMem = s.hostMem := rfl
@[simp] theorem State.setPhys_retired : (s.setPhys i x).retired = s.retired := rfl
@[simp] theorem State.setPhys_cueIn : (s.setPhys i x).cueIn = s.cueIn := rfl
@[simp] theorem State.setPhys_queues : (s.setPhys i x).queues = s.queues := rfl
@[simp] theorem State.setPhys_orderSeq : (s.setPhys i x).orderSeq = s.orderSeq := rfl
@[simp] theorem State.setPhys_late : (s.setPhys i x).late = s.late := rfl
@[simp] theorem State.setPhys_engPair : (s.setPhys i x).engPair = s.engPair := rfl
@[simp] theorem State.setPhys_tp : (s.setPhys i x).tp = s.tp := rfl
@[simp] theorem State.setPhys_encore : (s.setPhys i x).encore = s.encore := rfl
@[simp] theorem State.setPhys_relays : (s.setPhys i x).relays = s.relays := rfl
@[simp] theorem State.setPhys_frames : (s.setPhys i x).frames = s.frames := rfl
@[simp] theorem State.setPhys_cue : (s.setPhys i x).cue = s.cue := rfl
@[simp] theorem State.setPhys_ids : (s.setPhys i x).ids = s.ids := rfl
@[simp] theorem State.setPhys_seals : (s.setPhys i x).seals = s.seals := rfl
@[simp] theorem State.setPhys_lnk : (s.setPhys i x).lnk = s.lnk := rfl
@[simp] theorem State.setPhys_arc : (s.setPhys i x).arc = s.arc := rfl
@[simp] theorem State.setPhys_record : (s.setPhys i x).record = s.record := rfl
@[simp] theorem State.setPhys_cus : (s.setPhys i x).cus = s.cus := rfl
@[simp] theorem State.setPhys_cfg : (s.setPhys i x).cfg = s.cfg := rfl
@[simp] theorem State.setPhys_ust : (s.setPhys i x).ust = s.ust := rfl
@[simp] theorem State.setPhys_banks : (s.setPhys i x).banks = s.banks := rfl
@[simp] theorem State.setPhys_hbc : (s.setPhys i x).hbc = s.hbc := rfl
@[simp] theorem State.setPhys_counters : (s.setPhys i x).counters = s.counters := rfl
@[simp] theorem State.setPhys_host : (s.setPhys i x).host = s.host := rfl
@[simp] theorem State.setPhys_cals : (s.setPhys i x).cals = s.cals := rfl
@[simp] theorem State.setPhys_arbs : (s.setPhys i x).arbs = s.arbs := rfl
@[simp] theorem State.setPhys_calBeats : (s.setPhys i x).calBeats = s.calBeats := rfl
@[simp] theorem State.setPhys_alarmEnd : (s.setPhys i x).alarmEnd = s.alarmEnd := rfl
@[simp] theorem State.setPhys_boot : (s.setPhys i x).boot = s.boot := rfl
end setPhys

section setRecOf
variable (i : Nat) (x : Rec)
@[simp] theorem State.setRecOf_pending : (s.setRecOf i x).pending = s.pending := rfl
@[simp] theorem State.setRecOf_free : (s.setRecOf i x).free = s.free := rfl
@[simp] theorem State.setRecOf_rdata : (s.setRecOf i x).rdata = s.rdata := rfl
@[simp] theorem State.setRecOf_time : (s.setRecOf i x).time = s.time := rfl
@[simp] theorem State.setRecOf_beats : (s.setRecOf i x).beats = s.beats := rfl
@[simp] theorem State.setRecOf_regs : (s.setRecOf i x).regs = s.regs := rfl
@[simp] theorem State.setRecOf_mem : (s.setRecOf i x).mem = s.mem := rfl
@[simp] theorem State.setRecOf_eccBad : (s.setRecOf i x).eccBad = s.eccBad := rfl
@[simp] theorem State.setRecOf_hostMem : (s.setRecOf i x).hostMem = s.hostMem := rfl
@[simp] theorem State.setRecOf_retired : (s.setRecOf i x).retired = s.retired := rfl
@[simp] theorem State.setRecOf_cueIn : (s.setRecOf i x).cueIn = s.cueIn := rfl
@[simp] theorem State.setRecOf_queues : (s.setRecOf i x).queues = s.queues := rfl
@[simp] theorem State.setRecOf_orderSeq : (s.setRecOf i x).orderSeq = s.orderSeq := rfl
@[simp] theorem State.setRecOf_late : (s.setRecOf i x).late = s.late := rfl
@[simp] theorem State.setRecOf_engPair : (s.setRecOf i x).engPair = s.engPair := rfl
@[simp] theorem State.setRecOf_tp : (s.setRecOf i x).tp = s.tp := rfl
@[simp] theorem State.setRecOf_encore : (s.setRecOf i x).encore = s.encore := rfl
@[simp] theorem State.setRecOf_relays : (s.setRecOf i x).relays = s.relays := rfl
@[simp] theorem State.setRecOf_frames : (s.setRecOf i x).frames = s.frames := rfl
@[simp] theorem State.setRecOf_cue : (s.setRecOf i x).cue = s.cue := rfl
@[simp] theorem State.setRecOf_ids : (s.setRecOf i x).ids = s.ids := rfl
@[simp] theorem State.setRecOf_seals : (s.setRecOf i x).seals = s.seals := rfl
@[simp] theorem State.setRecOf_lnk : (s.setRecOf i x).lnk = s.lnk := rfl
@[simp] theorem State.setRecOf_arc : (s.setRecOf i x).arc = s.arc := rfl
@[simp] theorem State.setRecOf_res : (s.setRecOf i x).res = s.res := rfl
@[simp] theorem State.setRecOf_cus : (s.setRecOf i x).cus = s.cus := rfl
@[simp] theorem State.setRecOf_cfg : (s.setRecOf i x).cfg = s.cfg := rfl
@[simp] theorem State.setRecOf_ust : (s.setRecOf i x).ust = s.ust := rfl
@[simp] theorem State.setRecOf_banks : (s.setRecOf i x).banks = s.banks := rfl
@[simp] theorem State.setRecOf_hbc : (s.setRecOf i x).hbc = s.hbc := rfl
@[simp] theorem State.setRecOf_counters : (s.setRecOf i x).counters = s.counters := rfl
@[simp] theorem State.setRecOf_host : (s.setRecOf i x).host = s.host := rfl
@[simp] theorem State.setRecOf_cals : (s.setRecOf i x).cals = s.cals := rfl
@[simp] theorem State.setRecOf_arbs : (s.setRecOf i x).arbs = s.arbs := rfl
@[simp] theorem State.setRecOf_calBeats : (s.setRecOf i x).calBeats = s.calBeats := rfl
@[simp] theorem State.setRecOf_alarmEnd : (s.setRecOf i x).alarmEnd = s.alarmEnd := rfl
@[simp] theorem State.setRecOf_boot : (s.setRecOf i x).boot = s.boot := rfl
end setRecOf

section setRelay
variable (r : Nat) (x : Relay)
@[simp] theorem State.setRelay_pending : (s.setRelay r x).pending = s.pending := rfl
@[simp] theorem State.setRelay_free : (s.setRelay r x).free = s.free := rfl
@[simp] theorem State.setRelay_rdata : (s.setRelay r x).rdata = s.rdata := rfl
@[simp] theorem State.setRelay_time : (s.setRelay r x).time = s.time := rfl
@[simp] theorem State.setRelay_beats : (s.setRelay r x).beats = s.beats := rfl
@[simp] theorem State.setRelay_regs : (s.setRelay r x).regs = s.regs := rfl
@[simp] theorem State.setRelay_mem : (s.setRelay r x).mem = s.mem := rfl
@[simp] theorem State.setRelay_eccBad : (s.setRelay r x).eccBad = s.eccBad := rfl
@[simp] theorem State.setRelay_hostMem : (s.setRelay r x).hostMem = s.hostMem := rfl
@[simp] theorem State.setRelay_retired : (s.setRelay r x).retired = s.retired := rfl
@[simp] theorem State.setRelay_cueIn : (s.setRelay r x).cueIn = s.cueIn := rfl
@[simp] theorem State.setRelay_queues : (s.setRelay r x).queues = s.queues := rfl
@[simp] theorem State.setRelay_orderSeq : (s.setRelay r x).orderSeq = s.orderSeq := rfl
@[simp] theorem State.setRelay_late : (s.setRelay r x).late = s.late := rfl
@[simp] theorem State.setRelay_engPair : (s.setRelay r x).engPair = s.engPair := rfl
@[simp] theorem State.setRelay_tp : (s.setRelay r x).tp = s.tp := rfl
@[simp] theorem State.setRelay_encore : (s.setRelay r x).encore = s.encore := rfl
@[simp] theorem State.setRelay_frames : (s.setRelay r x).frames = s.frames := rfl
@[simp] theorem State.setRelay_cue : (s.setRelay r x).cue = s.cue := rfl
@[simp] theorem State.setRelay_ids : (s.setRelay r x).ids = s.ids := rfl
@[simp] theorem State.setRelay_seals : (s.setRelay r x).seals = s.seals := rfl
@[simp] theorem State.setRelay_lnk : (s.setRelay r x).lnk = s.lnk := rfl
@[simp] theorem State.setRelay_arc : (s.setRelay r x).arc = s.arc := rfl
@[simp] theorem State.setRelay_res : (s.setRelay r x).res = s.res := rfl
@[simp] theorem State.setRelay_record : (s.setRelay r x).record = s.record := rfl
@[simp] theorem State.setRelay_cus : (s.setRelay r x).cus = s.cus := rfl
@[simp] theorem State.setRelay_cfg : (s.setRelay r x).cfg = s.cfg := rfl
@[simp] theorem State.setRelay_ust : (s.setRelay r x).ust = s.ust := rfl
@[simp] theorem State.setRelay_banks : (s.setRelay r x).banks = s.banks := rfl
@[simp] theorem State.setRelay_hbc : (s.setRelay r x).hbc = s.hbc := rfl
@[simp] theorem State.setRelay_counters : (s.setRelay r x).counters = s.counters := rfl
@[simp] theorem State.setRelay_host : (s.setRelay r x).host = s.host := rfl
@[simp] theorem State.setRelay_cals : (s.setRelay r x).cals = s.cals := rfl
@[simp] theorem State.setRelay_arbs : (s.setRelay r x).arbs = s.arbs := rfl
@[simp] theorem State.setRelay_calBeats : (s.setRelay r x).calBeats = s.calBeats := rfl
@[simp] theorem State.setRelay_alarmEnd : (s.setRelay r x).alarmEnd = s.alarmEnd := rfl
@[simp] theorem State.setRelay_boot : (s.setRelay r x).boot = s.boot := rfl
end setRelay

section setFrame
variable (f : Nat) (x : FrameSt)
@[simp] theorem State.setFrame_pending : (s.setFrame f x).pending = s.pending := rfl
@[simp] theorem State.setFrame_free : (s.setFrame f x).free = s.free := rfl
@[simp] theorem State.setFrame_rdata : (s.setFrame f x).rdata = s.rdata := rfl
@[simp] theorem State.setFrame_time : (s.setFrame f x).time = s.time := rfl
@[simp] theorem State.setFrame_beats : (s.setFrame f x).beats = s.beats := rfl
@[simp] theorem State.setFrame_regs : (s.setFrame f x).regs = s.regs := rfl
@[simp] theorem State.setFrame_mem : (s.setFrame f x).mem = s.mem := rfl
@[simp] theorem State.setFrame_eccBad : (s.setFrame f x).eccBad = s.eccBad := rfl
@[simp] theorem State.setFrame_hostMem : (s.setFrame f x).hostMem = s.hostMem := rfl
@[simp] theorem State.setFrame_retired : (s.setFrame f x).retired = s.retired := rfl
@[simp] theorem State.setFrame_cueIn : (s.setFrame f x).cueIn = s.cueIn := rfl
@[simp] theorem State.setFrame_queues : (s.setFrame f x).queues = s.queues := rfl
@[simp] theorem State.setFrame_orderSeq : (s.setFrame f x).orderSeq = s.orderSeq := rfl
@[simp] theorem State.setFrame_late : (s.setFrame f x).late = s.late := rfl
@[simp] theorem State.setFrame_engPair : (s.setFrame f x).engPair = s.engPair := rfl
@[simp] theorem State.setFrame_tp : (s.setFrame f x).tp = s.tp := rfl
@[simp] theorem State.setFrame_encore : (s.setFrame f x).encore = s.encore := rfl
@[simp] theorem State.setFrame_relays : (s.setFrame f x).relays = s.relays := rfl
@[simp] theorem State.setFrame_cue : (s.setFrame f x).cue = s.cue := rfl
@[simp] theorem State.setFrame_ids : (s.setFrame f x).ids = s.ids := rfl
@[simp] theorem State.setFrame_seals : (s.setFrame f x).seals = s.seals := rfl
@[simp] theorem State.setFrame_lnk : (s.setFrame f x).lnk = s.lnk := rfl
@[simp] theorem State.setFrame_arc : (s.setFrame f x).arc = s.arc := rfl
@[simp] theorem State.setFrame_res : (s.setFrame f x).res = s.res := rfl
@[simp] theorem State.setFrame_record : (s.setFrame f x).record = s.record := rfl
@[simp] theorem State.setFrame_cus : (s.setFrame f x).cus = s.cus := rfl
@[simp] theorem State.setFrame_cfg : (s.setFrame f x).cfg = s.cfg := rfl
@[simp] theorem State.setFrame_ust : (s.setFrame f x).ust = s.ust := rfl
@[simp] theorem State.setFrame_banks : (s.setFrame f x).banks = s.banks := rfl
@[simp] theorem State.setFrame_hbc : (s.setFrame f x).hbc = s.hbc := rfl
@[simp] theorem State.setFrame_counters : (s.setFrame f x).counters = s.counters := rfl
@[simp] theorem State.setFrame_host : (s.setFrame f x).host = s.host := rfl
@[simp] theorem State.setFrame_cals : (s.setFrame f x).cals = s.cals := rfl
@[simp] theorem State.setFrame_arbs : (s.setFrame f x).arbs = s.arbs := rfl
@[simp] theorem State.setFrame_calBeats : (s.setFrame f x).calBeats = s.calBeats := rfl
@[simp] theorem State.setFrame_alarmEnd : (s.setFrame f x).alarmEnd = s.alarmEnd := rfl
@[simp] theorem State.setFrame_boot : (s.setFrame f x).boot = s.boot := rfl
end setFrame

section setSea
variable (u : Nat) (x : SeaSt)
@[simp] theorem State.setSea_pending : (s.setSea u x).pending = s.pending := rfl
@[simp] theorem State.setSea_free : (s.setSea u x).free = s.free := rfl
@[simp] theorem State.setSea_rdata : (s.setSea u x).rdata = s.rdata := rfl
@[simp] theorem State.setSea_time : (s.setSea u x).time = s.time := rfl
@[simp] theorem State.setSea_beats : (s.setSea u x).beats = s.beats := rfl
@[simp] theorem State.setSea_regs : (s.setSea u x).regs = s.regs := rfl
@[simp] theorem State.setSea_mem : (s.setSea u x).mem = s.mem := rfl
@[simp] theorem State.setSea_eccBad : (s.setSea u x).eccBad = s.eccBad := rfl
@[simp] theorem State.setSea_hostMem : (s.setSea u x).hostMem = s.hostMem := rfl
@[simp] theorem State.setSea_retired : (s.setSea u x).retired = s.retired := rfl
@[simp] theorem State.setSea_cueIn : (s.setSea u x).cueIn = s.cueIn := rfl
@[simp] theorem State.setSea_queues : (s.setSea u x).queues = s.queues := rfl
@[simp] theorem State.setSea_orderSeq : (s.setSea u x).orderSeq = s.orderSeq := rfl
@[simp] theorem State.setSea_late : (s.setSea u x).late = s.late := rfl
@[simp] theorem State.setSea_engPair : (s.setSea u x).engPair = s.engPair := rfl
@[simp] theorem State.setSea_tp : (s.setSea u x).tp = s.tp := rfl
@[simp] theorem State.setSea_encore : (s.setSea u x).encore = s.encore := rfl
@[simp] theorem State.setSea_relays : (s.setSea u x).relays = s.relays := rfl
@[simp] theorem State.setSea_frames : (s.setSea u x).frames = s.frames := rfl
@[simp] theorem State.setSea_cue : (s.setSea u x).cue = s.cue := rfl
@[simp] theorem State.setSea_ids : (s.setSea u x).ids = s.ids := rfl
@[simp] theorem State.setSea_lnk : (s.setSea u x).lnk = s.lnk := rfl
@[simp] theorem State.setSea_arc : (s.setSea u x).arc = s.arc := rfl
@[simp] theorem State.setSea_res : (s.setSea u x).res = s.res := rfl
@[simp] theorem State.setSea_record : (s.setSea u x).record = s.record := rfl
@[simp] theorem State.setSea_cus : (s.setSea u x).cus = s.cus := rfl
@[simp] theorem State.setSea_cfg : (s.setSea u x).cfg = s.cfg := rfl
@[simp] theorem State.setSea_ust : (s.setSea u x).ust = s.ust := rfl
@[simp] theorem State.setSea_banks : (s.setSea u x).banks = s.banks := rfl
@[simp] theorem State.setSea_hbc : (s.setSea u x).hbc = s.hbc := rfl
@[simp] theorem State.setSea_counters : (s.setSea u x).counters = s.counters := rfl
@[simp] theorem State.setSea_host : (s.setSea u x).host = s.host := rfl
@[simp] theorem State.setSea_cals : (s.setSea u x).cals = s.cals := rfl
@[simp] theorem State.setSea_arbs : (s.setSea u x).arbs = s.arbs := rfl
@[simp] theorem State.setSea_calBeats : (s.setSea u x).calBeats = s.calBeats := rfl
@[simp] theorem State.setSea_alarmEnd : (s.setSea u x).alarmEnd = s.alarmEnd := rfl
@[simp] theorem State.setSea_boot : (s.setSea u x).boot = s.boot := rfl
end setSea

section setHb
variable (k : Nat) (x : HbcSt)
@[simp] theorem State.setHb_pending : (s.setHb k x).pending = s.pending := rfl
@[simp] theorem State.setHb_free : (s.setHb k x).free = s.free := rfl
@[simp] theorem State.setHb_rdata : (s.setHb k x).rdata = s.rdata := rfl
@[simp] theorem State.setHb_time : (s.setHb k x).time = s.time := rfl
@[simp] theorem State.setHb_beats : (s.setHb k x).beats = s.beats := rfl
@[simp] theorem State.setHb_regs : (s.setHb k x).regs = s.regs := rfl
@[simp] theorem State.setHb_mem : (s.setHb k x).mem = s.mem := rfl
@[simp] theorem State.setHb_eccBad : (s.setHb k x).eccBad = s.eccBad := rfl
@[simp] theorem State.setHb_hostMem : (s.setHb k x).hostMem = s.hostMem := rfl
@[simp] theorem State.setHb_retired : (s.setHb k x).retired = s.retired := rfl
@[simp] theorem State.setHb_cueIn : (s.setHb k x).cueIn = s.cueIn := rfl
@[simp] theorem State.setHb_queues : (s.setHb k x).queues = s.queues := rfl
@[simp] theorem State.setHb_orderSeq : (s.setHb k x).orderSeq = s.orderSeq := rfl
@[simp] theorem State.setHb_late : (s.setHb k x).late = s.late := rfl
@[simp] theorem State.setHb_engPair : (s.setHb k x).engPair = s.engPair := rfl
@[simp] theorem State.setHb_tp : (s.setHb k x).tp = s.tp := rfl
@[simp] theorem State.setHb_encore : (s.setHb k x).encore = s.encore := rfl
@[simp] theorem State.setHb_relays : (s.setHb k x).relays = s.relays := rfl
@[simp] theorem State.setHb_frames : (s.setHb k x).frames = s.frames := rfl
@[simp] theorem State.setHb_cue : (s.setHb k x).cue = s.cue := rfl
@[simp] theorem State.setHb_ids : (s.setHb k x).ids = s.ids := rfl
@[simp] theorem State.setHb_seals : (s.setHb k x).seals = s.seals := rfl
@[simp] theorem State.setHb_lnk : (s.setHb k x).lnk = s.lnk := rfl
@[simp] theorem State.setHb_arc : (s.setHb k x).arc = s.arc := rfl
@[simp] theorem State.setHb_res : (s.setHb k x).res = s.res := rfl
@[simp] theorem State.setHb_record : (s.setHb k x).record = s.record := rfl
@[simp] theorem State.setHb_cus : (s.setHb k x).cus = s.cus := rfl
@[simp] theorem State.setHb_cfg : (s.setHb k x).cfg = s.cfg := rfl
@[simp] theorem State.setHb_ust : (s.setHb k x).ust = s.ust := rfl
@[simp] theorem State.setHb_banks : (s.setHb k x).banks = s.banks := rfl
@[simp] theorem State.setHb_counters : (s.setHb k x).counters = s.counters := rfl
@[simp] theorem State.setHb_host : (s.setHb k x).host = s.host := rfl
@[simp] theorem State.setHb_cals : (s.setHb k x).cals = s.cals := rfl
@[simp] theorem State.setHb_arbs : (s.setHb k x).arbs = s.arbs := rfl
@[simp] theorem State.setHb_calBeats : (s.setHb k x).calBeats = s.calBeats := rfl
@[simp] theorem State.setHb_alarmEnd : (s.setHb k x).alarmEnd = s.alarmEnd := rfl
@[simp] theorem State.setHb_boot : (s.setHb k x).boot = s.boot := rfl
end setHb

section setRet
variable (k i : Nat) (x : Nat × Nat)
@[simp] theorem State.setRet_pending : (s.setRet k i x).pending = s.pending := rfl
@[simp] theorem State.setRet_free : (s.setRet k i x).free = s.free := rfl
@[simp] theorem State.setRet_rdata : (s.setRet k i x).rdata = s.rdata := rfl
@[simp] theorem State.setRet_time : (s.setRet k i x).time = s.time := rfl
@[simp] theorem State.setRet_beats : (s.setRet k i x).beats = s.beats := rfl
@[simp] theorem State.setRet_regs : (s.setRet k i x).regs = s.regs := rfl
@[simp] theorem State.setRet_mem : (s.setRet k i x).mem = s.mem := rfl
@[simp] theorem State.setRet_eccBad : (s.setRet k i x).eccBad = s.eccBad := rfl
@[simp] theorem State.setRet_hostMem : (s.setRet k i x).hostMem = s.hostMem := rfl
@[simp] theorem State.setRet_cueIn : (s.setRet k i x).cueIn = s.cueIn := rfl
@[simp] theorem State.setRet_queues : (s.setRet k i x).queues = s.queues := rfl
@[simp] theorem State.setRet_orderSeq : (s.setRet k i x).orderSeq = s.orderSeq := rfl
@[simp] theorem State.setRet_late : (s.setRet k i x).late = s.late := rfl
@[simp] theorem State.setRet_engPair : (s.setRet k i x).engPair = s.engPair := rfl
@[simp] theorem State.setRet_tp : (s.setRet k i x).tp = s.tp := rfl
@[simp] theorem State.setRet_encore : (s.setRet k i x).encore = s.encore := rfl
@[simp] theorem State.setRet_relays : (s.setRet k i x).relays = s.relays := rfl
@[simp] theorem State.setRet_frames : (s.setRet k i x).frames = s.frames := rfl
@[simp] theorem State.setRet_cue : (s.setRet k i x).cue = s.cue := rfl
@[simp] theorem State.setRet_ids : (s.setRet k i x).ids = s.ids := rfl
@[simp] theorem State.setRet_seals : (s.setRet k i x).seals = s.seals := rfl
@[simp] theorem State.setRet_lnk : (s.setRet k i x).lnk = s.lnk := rfl
@[simp] theorem State.setRet_arc : (s.setRet k i x).arc = s.arc := rfl
@[simp] theorem State.setRet_res : (s.setRet k i x).res = s.res := rfl
@[simp] theorem State.setRet_record : (s.setRet k i x).record = s.record := rfl
@[simp] theorem State.setRet_cus : (s.setRet k i x).cus = s.cus := rfl
@[simp] theorem State.setRet_cfg : (s.setRet k i x).cfg = s.cfg := rfl
@[simp] theorem State.setRet_ust : (s.setRet k i x).ust = s.ust := rfl
@[simp] theorem State.setRet_banks : (s.setRet k i x).banks = s.banks := rfl
@[simp] theorem State.setRet_hbc : (s.setRet k i x).hbc = s.hbc := rfl
@[simp] theorem State.setRet_counters : (s.setRet k i x).counters = s.counters := rfl
@[simp] theorem State.setRet_host : (s.setRet k i x).host = s.host := rfl
@[simp] theorem State.setRet_cals : (s.setRet k i x).cals = s.cals := rfl
@[simp] theorem State.setRet_arbs : (s.setRet k i x).arbs = s.arbs := rfl
@[simp] theorem State.setRet_calBeats : (s.setRet k i x).calBeats = s.calBeats := rfl
@[simp] theorem State.setRet_alarmEnd : (s.setRet k i x).alarmEnd = s.alarmEnd := rfl
@[simp] theorem State.setRet_boot : (s.setRet k i x).boot = s.boot := rfl
end setRet

section setCnt
variable (k v : Nat)
@[simp] theorem State.setCnt_pending : (s.setCnt k v).pending = s.pending := rfl
@[simp] theorem State.setCnt_free : (s.setCnt k v).free = s.free := rfl
@[simp] theorem State.setCnt_rdata : (s.setCnt k v).rdata = s.rdata := rfl
@[simp] theorem State.setCnt_time : (s.setCnt k v).time = s.time := rfl
@[simp] theorem State.setCnt_beats : (s.setCnt k v).beats = s.beats := rfl
@[simp] theorem State.setCnt_regs : (s.setCnt k v).regs = s.regs := rfl
@[simp] theorem State.setCnt_mem : (s.setCnt k v).mem = s.mem := rfl
@[simp] theorem State.setCnt_eccBad : (s.setCnt k v).eccBad = s.eccBad := rfl
@[simp] theorem State.setCnt_hostMem : (s.setCnt k v).hostMem = s.hostMem := rfl
@[simp] theorem State.setCnt_retired : (s.setCnt k v).retired = s.retired := rfl
@[simp] theorem State.setCnt_cueIn : (s.setCnt k v).cueIn = s.cueIn := rfl
@[simp] theorem State.setCnt_queues : (s.setCnt k v).queues = s.queues := rfl
@[simp] theorem State.setCnt_orderSeq : (s.setCnt k v).orderSeq = s.orderSeq := rfl
@[simp] theorem State.setCnt_late : (s.setCnt k v).late = s.late := rfl
@[simp] theorem State.setCnt_engPair : (s.setCnt k v).engPair = s.engPair := rfl
@[simp] theorem State.setCnt_tp : (s.setCnt k v).tp = s.tp := rfl
@[simp] theorem State.setCnt_encore : (s.setCnt k v).encore = s.encore := rfl
@[simp] theorem State.setCnt_relays : (s.setCnt k v).relays = s.relays := rfl
@[simp] theorem State.setCnt_frames : (s.setCnt k v).frames = s.frames := rfl
@[simp] theorem State.setCnt_cue : (s.setCnt k v).cue = s.cue := rfl
@[simp] theorem State.setCnt_ids : (s.setCnt k v).ids = s.ids := rfl
@[simp] theorem State.setCnt_seals : (s.setCnt k v).seals = s.seals := rfl
@[simp] theorem State.setCnt_lnk : (s.setCnt k v).lnk = s.lnk := rfl
@[simp] theorem State.setCnt_arc : (s.setCnt k v).arc = s.arc := rfl
@[simp] theorem State.setCnt_res : (s.setCnt k v).res = s.res := rfl
@[simp] theorem State.setCnt_record : (s.setCnt k v).record = s.record := rfl
@[simp] theorem State.setCnt_cus : (s.setCnt k v).cus = s.cus := rfl
@[simp] theorem State.setCnt_cfg : (s.setCnt k v).cfg = s.cfg := rfl
@[simp] theorem State.setCnt_ust : (s.setCnt k v).ust = s.ust := rfl
@[simp] theorem State.setCnt_banks : (s.setCnt k v).banks = s.banks := rfl
@[simp] theorem State.setCnt_hbc : (s.setCnt k v).hbc = s.hbc := rfl
@[simp] theorem State.setCnt_host : (s.setCnt k v).host = s.host := rfl
@[simp] theorem State.setCnt_cals : (s.setCnt k v).cals = s.cals := rfl
@[simp] theorem State.setCnt_arbs : (s.setCnt k v).arbs = s.arbs := rfl
@[simp] theorem State.setCnt_calBeats : (s.setCnt k v).calBeats = s.calBeats := rfl
@[simp] theorem State.setCnt_alarmEnd : (s.setCnt k v).alarmEnd = s.alarmEnd := rfl
@[simp] theorem State.setCnt_boot : (s.setCnt k v).boot = s.boot := rfl
end setCnt

section setQueue
variable (q : Nat) (x : Queue)
@[simp] theorem State.setQueue_pending : (s.setQueue q x).pending = s.pending := rfl
@[simp] theorem State.setQueue_free : (s.setQueue q x).free = s.free := rfl
@[simp] theorem State.setQueue_rdata : (s.setQueue q x).rdata = s.rdata := rfl
@[simp] theorem State.setQueue_time : (s.setQueue q x).time = s.time := rfl
@[simp] theorem State.setQueue_beats : (s.setQueue q x).beats = s.beats := rfl
@[simp] theorem State.setQueue_regs : (s.setQueue q x).regs = s.regs := rfl
@[simp] theorem State.setQueue_mem : (s.setQueue q x).mem = s.mem := rfl
@[simp] theorem State.setQueue_eccBad : (s.setQueue q x).eccBad = s.eccBad := rfl
@[simp] theorem State.setQueue_hostMem : (s.setQueue q x).hostMem = s.hostMem := rfl
@[simp] theorem State.setQueue_retired : (s.setQueue q x).retired = s.retired := rfl
@[simp] theorem State.setQueue_cueIn : (s.setQueue q x).cueIn = s.cueIn := rfl
@[simp] theorem State.setQueue_orderSeq : (s.setQueue q x).orderSeq = s.orderSeq := rfl
@[simp] theorem State.setQueue_late : (s.setQueue q x).late = s.late := rfl
@[simp] theorem State.setQueue_engPair : (s.setQueue q x).engPair = s.engPair := rfl
@[simp] theorem State.setQueue_tp : (s.setQueue q x).tp = s.tp := rfl
@[simp] theorem State.setQueue_encore : (s.setQueue q x).encore = s.encore := rfl
@[simp] theorem State.setQueue_relays : (s.setQueue q x).relays = s.relays := rfl
@[simp] theorem State.setQueue_frames : (s.setQueue q x).frames = s.frames := rfl
@[simp] theorem State.setQueue_cue : (s.setQueue q x).cue = s.cue := rfl
@[simp] theorem State.setQueue_ids : (s.setQueue q x).ids = s.ids := rfl
@[simp] theorem State.setQueue_seals : (s.setQueue q x).seals = s.seals := rfl
@[simp] theorem State.setQueue_lnk : (s.setQueue q x).lnk = s.lnk := rfl
@[simp] theorem State.setQueue_arc : (s.setQueue q x).arc = s.arc := rfl
@[simp] theorem State.setQueue_res : (s.setQueue q x).res = s.res := rfl
@[simp] theorem State.setQueue_record : (s.setQueue q x).record = s.record := rfl
@[simp] theorem State.setQueue_cus : (s.setQueue q x).cus = s.cus := rfl
@[simp] theorem State.setQueue_cfg : (s.setQueue q x).cfg = s.cfg := rfl
@[simp] theorem State.setQueue_ust : (s.setQueue q x).ust = s.ust := rfl
@[simp] theorem State.setQueue_banks : (s.setQueue q x).banks = s.banks := rfl
@[simp] theorem State.setQueue_hbc : (s.setQueue q x).hbc = s.hbc := rfl
@[simp] theorem State.setQueue_counters : (s.setQueue q x).counters = s.counters := rfl
@[simp] theorem State.setQueue_host : (s.setQueue q x).host = s.host := rfl
@[simp] theorem State.setQueue_cals : (s.setQueue q x).cals = s.cals := rfl
@[simp] theorem State.setQueue_arbs : (s.setQueue q x).arbs = s.arbs := rfl
@[simp] theorem State.setQueue_calBeats : (s.setQueue q x).calBeats = s.calBeats := rfl
@[simp] theorem State.setQueue_alarmEnd : (s.setQueue q x).alarmEnd = s.alarmEnd := rfl
@[simp] theorem State.setQueue_boot : (s.setQueue q x).boot = s.boot := rfl
end setQueue

section setTp
variable (e : Nat) (x : Tp)
@[simp] theorem State.setTp_pending : (s.setTp e x).pending = s.pending := rfl
@[simp] theorem State.setTp_free : (s.setTp e x).free = s.free := rfl
@[simp] theorem State.setTp_rdata : (s.setTp e x).rdata = s.rdata := rfl
@[simp] theorem State.setTp_time : (s.setTp e x).time = s.time := rfl
@[simp] theorem State.setTp_beats : (s.setTp e x).beats = s.beats := rfl
@[simp] theorem State.setTp_regs : (s.setTp e x).regs = s.regs := rfl
@[simp] theorem State.setTp_mem : (s.setTp e x).mem = s.mem := rfl
@[simp] theorem State.setTp_eccBad : (s.setTp e x).eccBad = s.eccBad := rfl
@[simp] theorem State.setTp_hostMem : (s.setTp e x).hostMem = s.hostMem := rfl
@[simp] theorem State.setTp_retired : (s.setTp e x).retired = s.retired := rfl
@[simp] theorem State.setTp_cueIn : (s.setTp e x).cueIn = s.cueIn := rfl
@[simp] theorem State.setTp_queues : (s.setTp e x).queues = s.queues := rfl
@[simp] theorem State.setTp_orderSeq : (s.setTp e x).orderSeq = s.orderSeq := rfl
@[simp] theorem State.setTp_late : (s.setTp e x).late = s.late := rfl
@[simp] theorem State.setTp_engPair : (s.setTp e x).engPair = s.engPair := rfl
@[simp] theorem State.setTp_encore : (s.setTp e x).encore = s.encore := rfl
@[simp] theorem State.setTp_relays : (s.setTp e x).relays = s.relays := rfl
@[simp] theorem State.setTp_frames : (s.setTp e x).frames = s.frames := rfl
@[simp] theorem State.setTp_cue : (s.setTp e x).cue = s.cue := rfl
@[simp] theorem State.setTp_ids : (s.setTp e x).ids = s.ids := rfl
@[simp] theorem State.setTp_seals : (s.setTp e x).seals = s.seals := rfl
@[simp] theorem State.setTp_lnk : (s.setTp e x).lnk = s.lnk := rfl
@[simp] theorem State.setTp_arc : (s.setTp e x).arc = s.arc := rfl
@[simp] theorem State.setTp_res : (s.setTp e x).res = s.res := rfl
@[simp] theorem State.setTp_record : (s.setTp e x).record = s.record := rfl
@[simp] theorem State.setTp_cus : (s.setTp e x).cus = s.cus := rfl
@[simp] theorem State.setTp_cfg : (s.setTp e x).cfg = s.cfg := rfl
@[simp] theorem State.setTp_ust : (s.setTp e x).ust = s.ust := rfl
@[simp] theorem State.setTp_banks : (s.setTp e x).banks = s.banks := rfl
@[simp] theorem State.setTp_hbc : (s.setTp e x).hbc = s.hbc := rfl
@[simp] theorem State.setTp_counters : (s.setTp e x).counters = s.counters := rfl
@[simp] theorem State.setTp_host : (s.setTp e x).host = s.host := rfl
@[simp] theorem State.setTp_cals : (s.setTp e x).cals = s.cals := rfl
@[simp] theorem State.setTp_arbs : (s.setTp e x).arbs = s.arbs := rfl
@[simp] theorem State.setTp_calBeats : (s.setTp e x).calBeats = s.calBeats := rfl
@[simp] theorem State.setTp_alarmEnd : (s.setTp e x).alarmEnd = s.alarmEnd := rfl
@[simp] theorem State.setTp_boot : (s.setTp e x).boot = s.boot := rfl
end setTp

section setLog
variable (w : Nat) (x : ArcLog)
@[simp] theorem State.setLog_pending : (s.setLog w x).pending = s.pending := rfl
@[simp] theorem State.setLog_free : (s.setLog w x).free = s.free := rfl
@[simp] theorem State.setLog_rdata : (s.setLog w x).rdata = s.rdata := rfl
@[simp] theorem State.setLog_time : (s.setLog w x).time = s.time := rfl
@[simp] theorem State.setLog_beats : (s.setLog w x).beats = s.beats := rfl
@[simp] theorem State.setLog_regs : (s.setLog w x).regs = s.regs := rfl
@[simp] theorem State.setLog_mem : (s.setLog w x).mem = s.mem := rfl
@[simp] theorem State.setLog_eccBad : (s.setLog w x).eccBad = s.eccBad := rfl
@[simp] theorem State.setLog_hostMem : (s.setLog w x).hostMem = s.hostMem := rfl
@[simp] theorem State.setLog_retired : (s.setLog w x).retired = s.retired := rfl
@[simp] theorem State.setLog_cueIn : (s.setLog w x).cueIn = s.cueIn := rfl
@[simp] theorem State.setLog_queues : (s.setLog w x).queues = s.queues := rfl
@[simp] theorem State.setLog_orderSeq : (s.setLog w x).orderSeq = s.orderSeq := rfl
@[simp] theorem State.setLog_late : (s.setLog w x).late = s.late := rfl
@[simp] theorem State.setLog_engPair : (s.setLog w x).engPair = s.engPair := rfl
@[simp] theorem State.setLog_tp : (s.setLog w x).tp = s.tp := rfl
@[simp] theorem State.setLog_encore : (s.setLog w x).encore = s.encore := rfl
@[simp] theorem State.setLog_relays : (s.setLog w x).relays = s.relays := rfl
@[simp] theorem State.setLog_frames : (s.setLog w x).frames = s.frames := rfl
@[simp] theorem State.setLog_cue : (s.setLog w x).cue = s.cue := rfl
@[simp] theorem State.setLog_ids : (s.setLog w x).ids = s.ids := rfl
@[simp] theorem State.setLog_seals : (s.setLog w x).seals = s.seals := rfl
@[simp] theorem State.setLog_lnk : (s.setLog w x).lnk = s.lnk := rfl
@[simp] theorem State.setLog_res : (s.setLog w x).res = s.res := rfl
@[simp] theorem State.setLog_record : (s.setLog w x).record = s.record := rfl
@[simp] theorem State.setLog_cus : (s.setLog w x).cus = s.cus := rfl
@[simp] theorem State.setLog_cfg : (s.setLog w x).cfg = s.cfg := rfl
@[simp] theorem State.setLog_ust : (s.setLog w x).ust = s.ust := rfl
@[simp] theorem State.setLog_banks : (s.setLog w x).banks = s.banks := rfl
@[simp] theorem State.setLog_hbc : (s.setLog w x).hbc = s.hbc := rfl
@[simp] theorem State.setLog_counters : (s.setLog w x).counters = s.counters := rfl
@[simp] theorem State.setLog_host : (s.setLog w x).host = s.host := rfl
@[simp] theorem State.setLog_cals : (s.setLog w x).cals = s.cals := rfl
@[simp] theorem State.setLog_arbs : (s.setLog w x).arbs = s.arbs := rfl
@[simp] theorem State.setLog_calBeats : (s.setLog w x).calBeats = s.calBeats := rfl
@[simp] theorem State.setLog_alarmEnd : (s.setLog w x).alarmEnd = s.alarmEnd := rfl
@[simp] theorem State.setLog_boot : (s.setLog w x).boot = s.boot := rfl
end setLog

section setTgt
variable (t : Nat) (x : TgtSt)
@[simp] theorem State.setTgt_pending : (s.setTgt t x).pending = s.pending := rfl
@[simp] theorem State.setTgt_free : (s.setTgt t x).free = s.free := rfl
@[simp] theorem State.setTgt_rdata : (s.setTgt t x).rdata = s.rdata := rfl
@[simp] theorem State.setTgt_time : (s.setTgt t x).time = s.time := rfl
@[simp] theorem State.setTgt_beats : (s.setTgt t x).beats = s.beats := rfl
@[simp] theorem State.setTgt_regs : (s.setTgt t x).regs = s.regs := rfl
@[simp] theorem State.setTgt_mem : (s.setTgt t x).mem = s.mem := rfl
@[simp] theorem State.setTgt_eccBad : (s.setTgt t x).eccBad = s.eccBad := rfl
@[simp] theorem State.setTgt_hostMem : (s.setTgt t x).hostMem = s.hostMem := rfl
@[simp] theorem State.setTgt_retired : (s.setTgt t x).retired = s.retired := rfl
@[simp] theorem State.setTgt_cueIn : (s.setTgt t x).cueIn = s.cueIn := rfl
@[simp] theorem State.setTgt_queues : (s.setTgt t x).queues = s.queues := rfl
@[simp] theorem State.setTgt_orderSeq : (s.setTgt t x).orderSeq = s.orderSeq := rfl
@[simp] theorem State.setTgt_late : (s.setTgt t x).late = s.late := rfl
@[simp] theorem State.setTgt_engPair : (s.setTgt t x).engPair = s.engPair := rfl
@[simp] theorem State.setTgt_tp : (s.setTgt t x).tp = s.tp := rfl
@[simp] theorem State.setTgt_encore : (s.setTgt t x).encore = s.encore := rfl
@[simp] theorem State.setTgt_relays : (s.setTgt t x).relays = s.relays := rfl
@[simp] theorem State.setTgt_frames : (s.setTgt t x).frames = s.frames := rfl
@[simp] theorem State.setTgt_cue : (s.setTgt t x).cue = s.cue := rfl
@[simp] theorem State.setTgt_ids : (s.setTgt t x).ids = s.ids := rfl
@[simp] theorem State.setTgt_seals : (s.setTgt t x).seals = s.seals := rfl
@[simp] theorem State.setTgt_lnk : (s.setTgt t x).lnk = s.lnk := rfl
@[simp] theorem State.setTgt_res : (s.setTgt t x).res = s.res := rfl
@[simp] theorem State.setTgt_record : (s.setTgt t x).record = s.record := rfl
@[simp] theorem State.setTgt_cus : (s.setTgt t x).cus = s.cus := rfl
@[simp] theorem State.setTgt_cfg : (s.setTgt t x).cfg = s.cfg := rfl
@[simp] theorem State.setTgt_ust : (s.setTgt t x).ust = s.ust := rfl
@[simp] theorem State.setTgt_banks : (s.setTgt t x).banks = s.banks := rfl
@[simp] theorem State.setTgt_hbc : (s.setTgt t x).hbc = s.hbc := rfl
@[simp] theorem State.setTgt_counters : (s.setTgt t x).counters = s.counters := rfl
@[simp] theorem State.setTgt_host : (s.setTgt t x).host = s.host := rfl
@[simp] theorem State.setTgt_cals : (s.setTgt t x).cals = s.cals := rfl
@[simp] theorem State.setTgt_arbs : (s.setTgt t x).arbs = s.arbs := rfl
@[simp] theorem State.setTgt_calBeats : (s.setTgt t x).calBeats = s.calBeats := rfl
@[simp] theorem State.setTgt_alarmEnd : (s.setTgt t x).alarmEnd = s.alarmEnd := rfl
@[simp] theorem State.setTgt_boot : (s.setTgt t x).boot = s.boot := rfl
end setTgt

section setLnk
variable (x : LnkSt)
@[simp] theorem State.setLnk_pending : (s.setLnk x).pending = s.pending := rfl
@[simp] theorem State.setLnk_free : (s.setLnk x).free = s.free := rfl
@[simp] theorem State.setLnk_rdata : (s.setLnk x).rdata = s.rdata := rfl
@[simp] theorem State.setLnk_time : (s.setLnk x).time = s.time := rfl
@[simp] theorem State.setLnk_beats : (s.setLnk x).beats = s.beats := rfl
@[simp] theorem State.setLnk_regs : (s.setLnk x).regs = s.regs := rfl
@[simp] theorem State.setLnk_mem : (s.setLnk x).mem = s.mem := rfl
@[simp] theorem State.setLnk_eccBad : (s.setLnk x).eccBad = s.eccBad := rfl
@[simp] theorem State.setLnk_hostMem : (s.setLnk x).hostMem = s.hostMem := rfl
@[simp] theorem State.setLnk_retired : (s.setLnk x).retired = s.retired := rfl
@[simp] theorem State.setLnk_cueIn : (s.setLnk x).cueIn = s.cueIn := rfl
@[simp] theorem State.setLnk_queues : (s.setLnk x).queues = s.queues := rfl
@[simp] theorem State.setLnk_orderSeq : (s.setLnk x).orderSeq = s.orderSeq := rfl
@[simp] theorem State.setLnk_late : (s.setLnk x).late = s.late := rfl
@[simp] theorem State.setLnk_engPair : (s.setLnk x).engPair = s.engPair := rfl
@[simp] theorem State.setLnk_tp : (s.setLnk x).tp = s.tp := rfl
@[simp] theorem State.setLnk_encore : (s.setLnk x).encore = s.encore := rfl
@[simp] theorem State.setLnk_relays : (s.setLnk x).relays = s.relays := rfl
@[simp] theorem State.setLnk_frames : (s.setLnk x).frames = s.frames := rfl
@[simp] theorem State.setLnk_cue : (s.setLnk x).cue = s.cue := rfl
@[simp] theorem State.setLnk_ids : (s.setLnk x).ids = s.ids := rfl
@[simp] theorem State.setLnk_seals : (s.setLnk x).seals = s.seals := rfl
@[simp] theorem State.setLnk_arc : (s.setLnk x).arc = s.arc := rfl
@[simp] theorem State.setLnk_res : (s.setLnk x).res = s.res := rfl
@[simp] theorem State.setLnk_record : (s.setLnk x).record = s.record := rfl
@[simp] theorem State.setLnk_cus : (s.setLnk x).cus = s.cus := rfl
@[simp] theorem State.setLnk_cfg : (s.setLnk x).cfg = s.cfg := rfl
@[simp] theorem State.setLnk_ust : (s.setLnk x).ust = s.ust := rfl
@[simp] theorem State.setLnk_banks : (s.setLnk x).banks = s.banks := rfl
@[simp] theorem State.setLnk_hbc : (s.setLnk x).hbc = s.hbc := rfl
@[simp] theorem State.setLnk_counters : (s.setLnk x).counters = s.counters := rfl
@[simp] theorem State.setLnk_host : (s.setLnk x).host = s.host := rfl
@[simp] theorem State.setLnk_cals : (s.setLnk x).cals = s.cals := rfl
@[simp] theorem State.setLnk_arbs : (s.setLnk x).arbs = s.arbs := rfl
@[simp] theorem State.setLnk_calBeats : (s.setLnk x).calBeats = s.calBeats := rfl
@[simp] theorem State.setLnk_alarmEnd : (s.setLnk x).alarmEnd = s.alarmEnd := rfl
@[simp] theorem State.setLnk_boot : (s.setLnk x).boot = s.boot := rfl
end setLnk

section setSq
variable (f n : Nat) (x : SqSt)
@[simp] theorem State.setSq_pending : (s.setSq f n x).pending = s.pending := rfl
@[simp] theorem State.setSq_free : (s.setSq f n x).free = s.free := rfl
@[simp] theorem State.setSq_rdata : (s.setSq f n x).rdata = s.rdata := rfl
@[simp] theorem State.setSq_time : (s.setSq f n x).time = s.time := rfl
@[simp] theorem State.setSq_beats : (s.setSq f n x).beats = s.beats := rfl
@[simp] theorem State.setSq_regs : (s.setSq f n x).regs = s.regs := rfl
@[simp] theorem State.setSq_mem : (s.setSq f n x).mem = s.mem := rfl
@[simp] theorem State.setSq_eccBad : (s.setSq f n x).eccBad = s.eccBad := rfl
@[simp] theorem State.setSq_hostMem : (s.setSq f n x).hostMem = s.hostMem := rfl
@[simp] theorem State.setSq_retired : (s.setSq f n x).retired = s.retired := rfl
@[simp] theorem State.setSq_cueIn : (s.setSq f n x).cueIn = s.cueIn := rfl
@[simp] theorem State.setSq_queues : (s.setSq f n x).queues = s.queues := rfl
@[simp] theorem State.setSq_orderSeq : (s.setSq f n x).orderSeq = s.orderSeq := rfl
@[simp] theorem State.setSq_late : (s.setSq f n x).late = s.late := rfl
@[simp] theorem State.setSq_engPair : (s.setSq f n x).engPair = s.engPair := rfl
@[simp] theorem State.setSq_tp : (s.setSq f n x).tp = s.tp := rfl
@[simp] theorem State.setSq_encore : (s.setSq f n x).encore = s.encore := rfl
@[simp] theorem State.setSq_relays : (s.setSq f n x).relays = s.relays := rfl
@[simp] theorem State.setSq_frames : (s.setSq f n x).frames = s.frames := rfl
@[simp] theorem State.setSq_cue : (s.setSq f n x).cue = s.cue := rfl
@[simp] theorem State.setSq_ids : (s.setSq f n x).ids = s.ids := rfl
@[simp] theorem State.setSq_seals : (s.setSq f n x).seals = s.seals := rfl
@[simp] theorem State.setSq_lnk : (s.setSq f n x).lnk = s.lnk := rfl
@[simp] theorem State.setSq_arc : (s.setSq f n x).arc = s.arc := rfl
@[simp] theorem State.setSq_res : (s.setSq f n x).res = s.res := rfl
@[simp] theorem State.setSq_record : (s.setSq f n x).record = s.record := rfl
@[simp] theorem State.setSq_cus : (s.setSq f n x).cus = s.cus := rfl
@[simp] theorem State.setSq_cfg : (s.setSq f n x).cfg = s.cfg := rfl
@[simp] theorem State.setSq_ust : (s.setSq f n x).ust = s.ust := rfl
@[simp] theorem State.setSq_banks : (s.setSq f n x).banks = s.banks := rfl
@[simp] theorem State.setSq_hbc : (s.setSq f n x).hbc = s.hbc := rfl
@[simp] theorem State.setSq_counters : (s.setSq f n x).counters = s.counters := rfl
@[simp] theorem State.setSq_cals : (s.setSq f n x).cals = s.cals := rfl
@[simp] theorem State.setSq_arbs : (s.setSq f n x).arbs = s.arbs := rfl
@[simp] theorem State.setSq_calBeats : (s.setSq f n x).calBeats = s.calBeats := rfl
@[simp] theorem State.setSq_alarmEnd : (s.setSq f n x).alarmEnd = s.alarmEnd := rfl
@[simp] theorem State.setSq_boot : (s.setSq f n x).boot = s.boot := rfl
end setSq

section setCq
variable (f n : Nat) (x : CqSt)
@[simp] theorem State.setCq_pending : (s.setCq f n x).pending = s.pending := rfl
@[simp] theorem State.setCq_free : (s.setCq f n x).free = s.free := rfl
@[simp] theorem State.setCq_rdata : (s.setCq f n x).rdata = s.rdata := rfl
@[simp] theorem State.setCq_time : (s.setCq f n x).time = s.time := rfl
@[simp] theorem State.setCq_beats : (s.setCq f n x).beats = s.beats := rfl
@[simp] theorem State.setCq_regs : (s.setCq f n x).regs = s.regs := rfl
@[simp] theorem State.setCq_mem : (s.setCq f n x).mem = s.mem := rfl
@[simp] theorem State.setCq_eccBad : (s.setCq f n x).eccBad = s.eccBad := rfl
@[simp] theorem State.setCq_hostMem : (s.setCq f n x).hostMem = s.hostMem := rfl
@[simp] theorem State.setCq_retired : (s.setCq f n x).retired = s.retired := rfl
@[simp] theorem State.setCq_cueIn : (s.setCq f n x).cueIn = s.cueIn := rfl
@[simp] theorem State.setCq_queues : (s.setCq f n x).queues = s.queues := rfl
@[simp] theorem State.setCq_orderSeq : (s.setCq f n x).orderSeq = s.orderSeq := rfl
@[simp] theorem State.setCq_late : (s.setCq f n x).late = s.late := rfl
@[simp] theorem State.setCq_engPair : (s.setCq f n x).engPair = s.engPair := rfl
@[simp] theorem State.setCq_tp : (s.setCq f n x).tp = s.tp := rfl
@[simp] theorem State.setCq_encore : (s.setCq f n x).encore = s.encore := rfl
@[simp] theorem State.setCq_relays : (s.setCq f n x).relays = s.relays := rfl
@[simp] theorem State.setCq_frames : (s.setCq f n x).frames = s.frames := rfl
@[simp] theorem State.setCq_cue : (s.setCq f n x).cue = s.cue := rfl
@[simp] theorem State.setCq_ids : (s.setCq f n x).ids = s.ids := rfl
@[simp] theorem State.setCq_seals : (s.setCq f n x).seals = s.seals := rfl
@[simp] theorem State.setCq_lnk : (s.setCq f n x).lnk = s.lnk := rfl
@[simp] theorem State.setCq_arc : (s.setCq f n x).arc = s.arc := rfl
@[simp] theorem State.setCq_res : (s.setCq f n x).res = s.res := rfl
@[simp] theorem State.setCq_record : (s.setCq f n x).record = s.record := rfl
@[simp] theorem State.setCq_cus : (s.setCq f n x).cus = s.cus := rfl
@[simp] theorem State.setCq_cfg : (s.setCq f n x).cfg = s.cfg := rfl
@[simp] theorem State.setCq_ust : (s.setCq f n x).ust = s.ust := rfl
@[simp] theorem State.setCq_banks : (s.setCq f n x).banks = s.banks := rfl
@[simp] theorem State.setCq_hbc : (s.setCq f n x).hbc = s.hbc := rfl
@[simp] theorem State.setCq_counters : (s.setCq f n x).counters = s.counters := rfl
@[simp] theorem State.setCq_cals : (s.setCq f n x).cals = s.cals := rfl
@[simp] theorem State.setCq_arbs : (s.setCq f n x).arbs = s.arbs := rfl
@[simp] theorem State.setCq_calBeats : (s.setCq f n x).calBeats = s.calBeats := rfl
@[simp] theorem State.setCq_alarmEnd : (s.setCq f n x).alarmEnd = s.alarmEnd := rfl
@[simp] theorem State.setCq_boot : (s.setCq f n x).boot = s.boot := rfl
end setCq

section setCus
variable (x : CusSt)
@[simp] theorem State.setCus_pending : (s.setCus x).pending = s.pending := rfl
@[simp] theorem State.setCus_free : (s.setCus x).free = s.free := rfl
@[simp] theorem State.setCus_rdata : (s.setCus x).rdata = s.rdata := rfl
@[simp] theorem State.setCus_time : (s.setCus x).time = s.time := rfl
@[simp] theorem State.setCus_beats : (s.setCus x).beats = s.beats := rfl
@[simp] theorem State.setCus_regs : (s.setCus x).regs = s.regs := rfl
@[simp] theorem State.setCus_mem : (s.setCus x).mem = s.mem := rfl
@[simp] theorem State.setCus_eccBad : (s.setCus x).eccBad = s.eccBad := rfl
@[simp] theorem State.setCus_hostMem : (s.setCus x).hostMem = s.hostMem := rfl
@[simp] theorem State.setCus_retired : (s.setCus x).retired = s.retired := rfl
@[simp] theorem State.setCus_cueIn : (s.setCus x).cueIn = s.cueIn := rfl
@[simp] theorem State.setCus_queues : (s.setCus x).queues = s.queues := rfl
@[simp] theorem State.setCus_orderSeq : (s.setCus x).orderSeq = s.orderSeq := rfl
@[simp] theorem State.setCus_late : (s.setCus x).late = s.late := rfl
@[simp] theorem State.setCus_engPair : (s.setCus x).engPair = s.engPair := rfl
@[simp] theorem State.setCus_tp : (s.setCus x).tp = s.tp := rfl
@[simp] theorem State.setCus_encore : (s.setCus x).encore = s.encore := rfl
@[simp] theorem State.setCus_relays : (s.setCus x).relays = s.relays := rfl
@[simp] theorem State.setCus_frames : (s.setCus x).frames = s.frames := rfl
@[simp] theorem State.setCus_cue : (s.setCus x).cue = s.cue := rfl
@[simp] theorem State.setCus_ids : (s.setCus x).ids = s.ids := rfl
@[simp] theorem State.setCus_seals : (s.setCus x).seals = s.seals := rfl
@[simp] theorem State.setCus_lnk : (s.setCus x).lnk = s.lnk := rfl
@[simp] theorem State.setCus_arc : (s.setCus x).arc = s.arc := rfl
@[simp] theorem State.setCus_res : (s.setCus x).res = s.res := rfl
@[simp] theorem State.setCus_record : (s.setCus x).record = s.record := rfl
@[simp] theorem State.setCus_cfg : (s.setCus x).cfg = s.cfg := rfl
@[simp] theorem State.setCus_ust : (s.setCus x).ust = s.ust := rfl
@[simp] theorem State.setCus_banks : (s.setCus x).banks = s.banks := rfl
@[simp] theorem State.setCus_hbc : (s.setCus x).hbc = s.hbc := rfl
@[simp] theorem State.setCus_counters : (s.setCus x).counters = s.counters := rfl
@[simp] theorem State.setCus_host : (s.setCus x).host = s.host := rfl
@[simp] theorem State.setCus_cals : (s.setCus x).cals = s.cals := rfl
@[simp] theorem State.setCus_arbs : (s.setCus x).arbs = s.arbs := rfl
@[simp] theorem State.setCus_calBeats : (s.setCus x).calBeats = s.calBeats := rfl
@[simp] theorem State.setCus_alarmEnd : (s.setCus x).alarmEnd = s.alarmEnd := rfl
@[simp] theorem State.setCus_boot : (s.setCus x).boot = s.boot := rfl
end setCus

section setCal
variable (c : Nat) (x : CalSt)
@[simp] theorem State.setCal_pending : (s.setCal c x).pending = s.pending := rfl
@[simp] theorem State.setCal_free : (s.setCal c x).free = s.free := rfl
@[simp] theorem State.setCal_rdata : (s.setCal c x).rdata = s.rdata := rfl
@[simp] theorem State.setCal_time : (s.setCal c x).time = s.time := rfl
@[simp] theorem State.setCal_beats : (s.setCal c x).beats = s.beats := rfl
@[simp] theorem State.setCal_regs : (s.setCal c x).regs = s.regs := rfl
@[simp] theorem State.setCal_mem : (s.setCal c x).mem = s.mem := rfl
@[simp] theorem State.setCal_eccBad : (s.setCal c x).eccBad = s.eccBad := rfl
@[simp] theorem State.setCal_hostMem : (s.setCal c x).hostMem = s.hostMem := rfl
@[simp] theorem State.setCal_retired : (s.setCal c x).retired = s.retired := rfl
@[simp] theorem State.setCal_cueIn : (s.setCal c x).cueIn = s.cueIn := rfl
@[simp] theorem State.setCal_queues : (s.setCal c x).queues = s.queues := rfl
@[simp] theorem State.setCal_orderSeq : (s.setCal c x).orderSeq = s.orderSeq := rfl
@[simp] theorem State.setCal_late : (s.setCal c x).late = s.late := rfl
@[simp] theorem State.setCal_engPair : (s.setCal c x).engPair = s.engPair := rfl
@[simp] theorem State.setCal_tp : (s.setCal c x).tp = s.tp := rfl
@[simp] theorem State.setCal_encore : (s.setCal c x).encore = s.encore := rfl
@[simp] theorem State.setCal_relays : (s.setCal c x).relays = s.relays := rfl
@[simp] theorem State.setCal_frames : (s.setCal c x).frames = s.frames := rfl
@[simp] theorem State.setCal_cue : (s.setCal c x).cue = s.cue := rfl
@[simp] theorem State.setCal_ids : (s.setCal c x).ids = s.ids := rfl
@[simp] theorem State.setCal_seals : (s.setCal c x).seals = s.seals := rfl
@[simp] theorem State.setCal_lnk : (s.setCal c x).lnk = s.lnk := rfl
@[simp] theorem State.setCal_arc : (s.setCal c x).arc = s.arc := rfl
@[simp] theorem State.setCal_res : (s.setCal c x).res = s.res := rfl
@[simp] theorem State.setCal_record : (s.setCal c x).record = s.record := rfl
@[simp] theorem State.setCal_cus : (s.setCal c x).cus = s.cus := rfl
@[simp] theorem State.setCal_cfg : (s.setCal c x).cfg = s.cfg := rfl
@[simp] theorem State.setCal_ust : (s.setCal c x).ust = s.ust := rfl
@[simp] theorem State.setCal_banks : (s.setCal c x).banks = s.banks := rfl
@[simp] theorem State.setCal_hbc : (s.setCal c x).hbc = s.hbc := rfl
@[simp] theorem State.setCal_counters : (s.setCal c x).counters = s.counters := rfl
@[simp] theorem State.setCal_host : (s.setCal c x).host = s.host := rfl
@[simp] theorem State.setCal_arbs : (s.setCal c x).arbs = s.arbs := rfl
@[simp] theorem State.setCal_calBeats : (s.setCal c x).calBeats = s.calBeats := rfl
@[simp] theorem State.setCal_alarmEnd : (s.setCal c x).alarmEnd = s.alarmEnd := rfl
@[simp] theorem State.setCal_boot : (s.setCal c x).boot = s.boot := rfl
end setCal

section setArb
variable (cls idx : Nat) (x : ArbSt)
@[simp] theorem State.setArb_pending : (s.setArb cls idx x).pending = s.pending := rfl
@[simp] theorem State.setArb_free : (s.setArb cls idx x).free = s.free := rfl
@[simp] theorem State.setArb_rdata : (s.setArb cls idx x).rdata = s.rdata := rfl
@[simp] theorem State.setArb_time : (s.setArb cls idx x).time = s.time := rfl
@[simp] theorem State.setArb_beats : (s.setArb cls idx x).beats = s.beats := rfl
@[simp] theorem State.setArb_regs : (s.setArb cls idx x).regs = s.regs := rfl
@[simp] theorem State.setArb_mem : (s.setArb cls idx x).mem = s.mem := rfl
@[simp] theorem State.setArb_eccBad : (s.setArb cls idx x).eccBad = s.eccBad := rfl
@[simp] theorem State.setArb_hostMem : (s.setArb cls idx x).hostMem = s.hostMem := rfl
@[simp] theorem State.setArb_retired : (s.setArb cls idx x).retired = s.retired := rfl
@[simp] theorem State.setArb_cueIn : (s.setArb cls idx x).cueIn = s.cueIn := rfl
@[simp] theorem State.setArb_queues : (s.setArb cls idx x).queues = s.queues := rfl
@[simp] theorem State.setArb_orderSeq : (s.setArb cls idx x).orderSeq = s.orderSeq := rfl
@[simp] theorem State.setArb_late : (s.setArb cls idx x).late = s.late := rfl
@[simp] theorem State.setArb_engPair : (s.setArb cls idx x).engPair = s.engPair := rfl
@[simp] theorem State.setArb_tp : (s.setArb cls idx x).tp = s.tp := rfl
@[simp] theorem State.setArb_encore : (s.setArb cls idx x).encore = s.encore := rfl
@[simp] theorem State.setArb_relays : (s.setArb cls idx x).relays = s.relays := rfl
@[simp] theorem State.setArb_frames : (s.setArb cls idx x).frames = s.frames := rfl
@[simp] theorem State.setArb_cue : (s.setArb cls idx x).cue = s.cue := rfl
@[simp] theorem State.setArb_ids : (s.setArb cls idx x).ids = s.ids := rfl
@[simp] theorem State.setArb_seals : (s.setArb cls idx x).seals = s.seals := rfl
@[simp] theorem State.setArb_lnk : (s.setArb cls idx x).lnk = s.lnk := rfl
@[simp] theorem State.setArb_arc : (s.setArb cls idx x).arc = s.arc := rfl
@[simp] theorem State.setArb_res : (s.setArb cls idx x).res = s.res := rfl
@[simp] theorem State.setArb_record : (s.setArb cls idx x).record = s.record := rfl
@[simp] theorem State.setArb_cus : (s.setArb cls idx x).cus = s.cus := rfl
@[simp] theorem State.setArb_cfg : (s.setArb cls idx x).cfg = s.cfg := rfl
@[simp] theorem State.setArb_ust : (s.setArb cls idx x).ust = s.ust := rfl
@[simp] theorem State.setArb_banks : (s.setArb cls idx x).banks = s.banks := rfl
@[simp] theorem State.setArb_hbc : (s.setArb cls idx x).hbc = s.hbc := rfl
@[simp] theorem State.setArb_counters : (s.setArb cls idx x).counters = s.counters := rfl
@[simp] theorem State.setArb_host : (s.setArb cls idx x).host = s.host := rfl
@[simp] theorem State.setArb_cals : (s.setArb cls idx x).cals = s.cals := rfl
@[simp] theorem State.setArb_calBeats : (s.setArb cls idx x).calBeats = s.calBeats := rfl
@[simp] theorem State.setArb_alarmEnd : (s.setArb cls idx x).alarmEnd = s.alarmEnd := rfl
@[simp] theorem State.setArb_boot : (s.setArb cls idx x).boot = s.boot := rfl
end setArb

section setBoot
variable (b : BootSt)
@[simp] theorem State.setBoot_pending : (s.setBoot b).pending = s.pending := rfl
@[simp] theorem State.setBoot_free : (s.setBoot b).free = s.free := rfl
@[simp] theorem State.setBoot_rdata : (s.setBoot b).rdata = s.rdata := rfl
@[simp] theorem State.setBoot_time : (s.setBoot b).time = s.time := rfl
@[simp] theorem State.setBoot_beats : (s.setBoot b).beats = s.beats := rfl
@[simp] theorem State.setBoot_regs : (s.setBoot b).regs = s.regs := rfl
@[simp] theorem State.setBoot_mem : (s.setBoot b).mem = s.mem := rfl
@[simp] theorem State.setBoot_eccBad : (s.setBoot b).eccBad = s.eccBad := rfl
@[simp] theorem State.setBoot_hostMem : (s.setBoot b).hostMem = s.hostMem := rfl
@[simp] theorem State.setBoot_retired : (s.setBoot b).retired = s.retired := rfl
@[simp] theorem State.setBoot_cueIn : (s.setBoot b).cueIn = s.cueIn := rfl
@[simp] theorem State.setBoot_queues : (s.setBoot b).queues = s.queues := rfl
@[simp] theorem State.setBoot_orderSeq : (s.setBoot b).orderSeq = s.orderSeq := rfl
@[simp] theorem State.setBoot_late : (s.setBoot b).late = s.late := rfl
@[simp] theorem State.setBoot_engPair : (s.setBoot b).engPair = s.engPair := rfl
@[simp] theorem State.setBoot_tp : (s.setBoot b).tp = s.tp := rfl
@[simp] theorem State.setBoot_encore : (s.setBoot b).encore = s.encore := rfl
@[simp] theorem State.setBoot_relays : (s.setBoot b).relays = s.relays := rfl
@[simp] theorem State.setBoot_frames : (s.setBoot b).frames = s.frames := rfl
@[simp] theorem State.setBoot_cue : (s.setBoot b).cue = s.cue := rfl
@[simp] theorem State.setBoot_ids : (s.setBoot b).ids = s.ids := rfl
@[simp] theorem State.setBoot_seals : (s.setBoot b).seals = s.seals := rfl
@[simp] theorem State.setBoot_lnk : (s.setBoot b).lnk = s.lnk := rfl
@[simp] theorem State.setBoot_arc : (s.setBoot b).arc = s.arc := rfl
@[simp] theorem State.setBoot_res : (s.setBoot b).res = s.res := rfl
@[simp] theorem State.setBoot_record : (s.setBoot b).record = s.record := rfl
@[simp] theorem State.setBoot_cus : (s.setBoot b).cus = s.cus := rfl
@[simp] theorem State.setBoot_cfg : (s.setBoot b).cfg = s.cfg := rfl
@[simp] theorem State.setBoot_ust : (s.setBoot b).ust = s.ust := rfl
@[simp] theorem State.setBoot_banks : (s.setBoot b).banks = s.banks := rfl
@[simp] theorem State.setBoot_hbc : (s.setBoot b).hbc = s.hbc := rfl
@[simp] theorem State.setBoot_counters : (s.setBoot b).counters = s.counters := rfl
@[simp] theorem State.setBoot_arbs : (s.setBoot b).arbs = s.arbs := rfl
@[simp] theorem State.setBoot_host : (s.setBoot b).host = s.host := rfl
@[simp] theorem State.setBoot_cals : (s.setBoot b).cals = s.cals := rfl
@[simp] theorem State.setBoot_calBeats : (s.setBoot b).calBeats = s.calBeats := rfl
@[simp] theorem State.setBoot_alarmEnd : (s.setBoot b).alarmEnd = s.alarmEnd := rfl
end setBoot

end Sys2Proof.Machine
end

