-- ==== Sys2Proof/Laws/Stores.lean ====
section
/-!
SUPPORT. What a write of device memory changes: the bytes themselves and the marks of uncorrectable units, nothing else.
-/
namespace Sys2Proof.Machine

/-- What every step of a fold leaves alone, the fold leaves alone. -/
theorem foldl_pres {α β γ : Type} (f : α → β → α) (g : α → γ) (h : ∀ a b, g (f a b) = g a) (l : List β) (a : α) :
    g (l.foldl f a) = g a := by
  induction l generalizing a with
  | nil => rfl
  | cons b l ih => rw [List.foldl_cons, ih, h]

/-- A write of bytes of device memory sets exactly those bytes, and may clear marks. -/
theorem State.poke_eq (s : State) (a : Nat) (bs : List Byte) :
    ∃ e, s.poke a bs = { s with mem := Tab.setMany memDefault s.mem a bs, eccBad := e } := by
  unfold State.poke
  dsimp only
  split
  · exact ⟨s.eccBad, rfl⟩
  · generalize unitsOf a bs.length = l
    have g : ∀ (l : List Nat) (u : State), (∃ e, u = { s with mem := Tab.setMany memDefault s.mem a bs, eccBad := e }) →
        ∃ e, l.foldl (fun s c => if a ≤ c ∧ c + (codeUnit c).2 ≤ a + bs.length then s.setBad c false else s) u =
          { s with mem := Tab.setMany memDefault s.mem a bs, eccBad := e } := by
      intro l
      induction l with
      | nil => intro u h; exact h
      | cons c l ih =>
        intro u ⟨e, hu⟩
        rw [List.foldl_cons]
        apply ih
        split
        · rw [hu]; exact ⟨_, rfl⟩
        · exact ⟨e, hu⟩
    exact g l _ ⟨s.eccBad, rfl⟩

@[simp] theorem State.poke_regs (s : State) (a : Nat) (bs : List Byte) : (s.poke a bs).regs = s.regs := by
  obtain ⟨e, h⟩ := s.poke_eq a bs; rw [h]
@[simp] theorem State.poke_cals (s : State) (a : Nat) (bs : List Byte) : (s.poke a bs).cals = s.cals := by
  obtain ⟨e, h⟩ := s.poke_eq a bs; rw [h]
@[simp] theorem State.poke_queues (s : State) (a : Nat) (bs : List Byte) : (s.poke a bs).queues = s.queues := by
  obtain ⟨e, h⟩ := s.poke_eq a bs; rw [h]
@[simp] theorem State.poke_hostMem (s : State) (a : Nat) (bs : List Byte) : (s.poke a bs).hostMem = s.hostMem := by
  obtain ⟨e, h⟩ := s.poke_eq a bs; rw [h]
@[simp] theorem State.poke_mem (s : State) (a : Nat) (bs : List Byte) :
    (s.poke a bs).mem = Tab.setMany memDefault s.mem a bs := by
  obtain ⟨e, h⟩ := s.poke_eq a bs; rw [h]
@[simp] theorem State.poke_frames (s : State) (a : Nat) (bs : List Byte) : (s.poke a bs).frames = s.frames := by
  obtain ⟨e, h⟩ := s.poke_eq a bs; rw [h]
@[simp] theorem State.poke_reg (s : State) (a b : Nat) (bs : List Byte) : (s.poke a bs).reg b = s.reg b := by
  unfold State.reg; rw [State.poke_regs]

/-- The bytes of a write, and no others, change. -/
theorem stored_of_mem {s t : State} {a : Nat} {bs : List Byte} (h : t.mem = Tab.setMany memDefault s.mem a bs) :
    Stored s t a bs := by
  constructor
  · intro i hi
    unfold State.byte
    rw [h, Tab.get_setMany, if_pos (by omega)]
    simp [hi]
  · intro b hb
    unfold State.byte
    rw [h, Tab.get_setMany]
    split
    · rw [List.getElem?_eq_none (by omega)]; rfl
    · rfl

theorem State.cal_congr {s t : State} (h : t.cals = s.cals) (k : Nat) : t.cal k = s.cal k := by
  unfold State.cal; rw [h]

end Sys2Proof.Machine
end

