-- ==== Sys2Proof/Tests/Slice0.lean ====
section
/-!
SUPPORT. Tests of slice 0: ill-formed commands that the well-formedness check refuses, orders decoded from the bytes that
spec/02 writes out, single steps with values worked out by hand, and for every statement with hypotheses a concrete state and
operands that meet them.
-/
namespace Sys2Proof.Tests
open Sys2Proof.Machine
set_option Elab.async false

/-! ### Well-formedness -/

theorem test_wf_die_sensors : (Instr.dieSensorRead [(0, true)] 800).wellFormed = false := by decide
theorem test_wf_register_size : (Instr.registerWrite .custody 0 3 0).wellFormed = false := by decide
theorem test_wf_register_value : (Instr.registerWrite .custody 0 1 256).wellFormed = false := by decide
theorem test_wf_staging_size : (Instr.stagingWrite .custody 0 5 0).wellFormed = false := by decide
theorem test_wf_full_proof : (Instr.fullProofDone 0 2049 0 0).wellFormed = false := by decide
theorem test_wf_scrub_granule : (Instr.hbmScrub 0 4718592 .none).wellFormed = false := by decide
theorem test_wf_grant_repeats : (Instr.arbiterGrant 0 0 5 ⟨[(6, 1, 0), (6, 2, 0)], none⟩).wellFormed = false := by decide
theorem test_wf_restart_address : (Instr.calRestart (.caller 0) 1 2).wellFormed = false := by decide
theorem test_wf_bar4_size : (Instr.bar4Access .safety 0 16 none).wellFormed = false := by decide
theorem test_wf_pcie_generation : (Instr.pcieLinkUp 3 16 0).wellFormed = false := by decide
theorem test_wf_pcie_width : (Instr.pcieLinkUp 6 2 0).wellFormed = false := by decide
theorem test_wf_no_units : (Instr.addOrder 0 .safety 0).wellFormed = false := by decide
theorem test_wf_good : (Instr.addOrder 0 .safety 1).wellFormed = true ∧ (Instr.hbmScrub 0 4718591 .none).wellFormed = true ∧
    (Instr.arbiterGrant 0 0 5 ⟨[(6, 1, 0), (7, 2, 0)], none⟩).wellFormed = true := by decide

/-! ### Orders decoded from the bytes that spec/02 works out -/

/-- Operation and length of a decoded order, or status and offset of a rejected one. -/
def decoded (bs : List Nat) : Sum (Op × Nat) (Nat × Nat) :=
  match decodeOrder (bytesOf bs) with
  | .ok o => .inl (o.op, o.size)
  | .error (.rej st off) => .inr (st, off)
  | .error (.flt off) => .inr (0, off)

/-- FMA over 2 400 elements (spec/02, Worked encodings). -/
def fmaBytes : List Nat := [0x04, 0x0B, 0xE0, 0x12, 0x47, 0x05, 0, 0x05, 1, 0x02, 0x02, 0, 0x4B, 0, 0, 0x05, 3]

theorem test_decode_fma : decoded fmaBytes = .inl (.fma, 17) := by decide +kernel

theorem test_decode_fma_fields : (match decodeOrder (bytesOf fmaBytes) with
    | .ok o => (o.ty, o.rnd, o.ftz, o.mask, o.len) | .error _ => (0, 0, false, 0, .count 0))
    = (11, 0, false, 0x47, .count 2400) := by decide +kernel

theorem test_decode_gather : decoded [0x60, 0x0B, 0xB4, 1, 0x51, 1, 0, 0, 0, 2, 0x10, 0, 9, 0, 0x10, 0, 0x40, 0, 0,
    1, 0, 0, 0x10, 0x40, 0, 0] = .inl (.gather, 26) := by decide +kernel

theorem test_decode_scene : decoded [0xF7, 2, 0xE0, 0x0B, 2, 4, 0x21, 3, 0x43, 0x48, 0, 0x58, 0x98, 0x30, 0x80, 0xA0,
    0x0B, 0xCF, 5, 0, 5, 1, 5, 2, 5, 3, 5, 4, 5, 5] = .inl (.scene, 30) := by decide +kernel

theorem test_decode_reprised_mul : decoded [0xF2, 0xF3, 3, 0x4C, 1, 0x43, 5, 4, 4, 0x53, 7, 0, 0, 0, 0, 0x40, 0x31, 5, 5]
    = .inl (.mul, 19) := by decide +kernel

theorem test_decode_relay_producer : decoded [0xF5, 3, 0x0A, 0x80, 0x4B, 0x43, 5, 0, 5, 1, 3, 0x11] = .inl (.mul, 12) := by
  decide +kernel

theorem test_decode_relay_consumer : decoded [0xF4, 0x48, 0x0A, 0x80, 0x4B, 0x41, 3, 0x11, 5, 2] = .inl (.sum, 10) := by
  decide +kernel

theorem test_decode_misplaced_prefix : decoded [0xF4, 0xF6, 0x48, 0x0A, 0x80, 0x4B, 0x41, 3, 0x11, 5, 2] = .inr (3, 1) := by
  decide +kernel

/-- The words of the table have no bits, so that no word spells a command. -/
theorem test_no_word : decodeTableWord 32 0 = none := by decide

/-! ### States -/

/-- A device in Call with every function ready. -/
def up : State := State.reset.setReg rCusReady (BitVec.allOnes 64)

/-- `up` with a window of the safety world over every address. -/
def windowed : State := (up.setReg (rMtxWlim 0 0) (BitVec.allOnes 64)).setReg (rMtxWattr 0 0) 0xF

/-- `up` in mode `m`. -/
def inMode (m : Nat) : State := up.setRf rCusMode fCusModeMode m

theorem test_reset_mode : State.reset.mode = 2 := by decide +kernel
theorem test_in_mode : (inMode 10).mode = 10 := by decide +kernel

/-- The state after a command. -/
def nxt (i : Instr) (s : State) : State := match exec i s with | .next t => t | _ => s

/-! ### Callers: instructions -/

theorem wit_integer : ∃ c d regs v, integerResult up (.add 0 1 2 3) = some (c, d, regs, v) ∧ Acts up c regs [] :=
  ⟨_, _, _, _, rfl, acts_of_test (by decide +kernel)⟩

/-- `up` with `a` in g1 and `b` in g2 of caller 0. -/
def two (a b : Word) : State := (up.setGpr 0 1 a).setGpr 0 2 b

/-- g3 of caller 0 after an instruction, with CAL.FCSR. -/
def g3 (i : Instr) (s : State) : Word × Word := ((nxt i s).gpr 0 3, ((nxt i s).cal 0).r.fcsr)

theorem test_add_wraps : g3 (.add 0 3 1 2) (two (-1) 2) = (1, 0) := by decide +kernel
theorem test_sub_wraps : g3 (.sub 0 3 1 2) (two 1 2) = (-1, 0) := by decide +kernel
theorem test_sar_signed : g3 (.sar 0 3 1 2) (two (-8) 65) = (-4, 0) := by decide +kernel
theorem test_shori : g3 (.shori 0 3 1 0xFFFF) (two 1 0) = (0x1FFFF, 0) := by decide +kernel
theorem test_mulh : g3 (.mulh 0 3 1 2) (two (-1) 2) = (-1, 0) := by decide +kernel
theorem test_zero_register : (nxt (.add 0 0 1 2) (two 5 6)).gpr 0 0 = 0 := by decide +kernel

theorem wit_saturating : ∃ c d regs x, saturatingResult up (.addsat 0 1 2 3) = some (c, d, regs, x) ∧ Acts up c regs [] :=
  ⟨_, _, _, _, rfl, acts_of_test (by decide +kernel)⟩
theorem test_addsat_overflow : (g3 (.addsat 0 3 1 2) (two 0x7FFFFFFFFFFFFFFF 1)).1 = 0x7FFFFFFFFFFFFFFF := by decide +kernel

theorem wit_division : ∃ c d regs v f, divisionResult up (.div 0 3 1 2) = some (c, d, regs, v, f) ∧ Acts up c regs [] ∧
    (up.cal c).status.bit 6 = false ∧ (up.cal c).freeTag ≠ none :=
  ⟨_, _, _, _, _, rfl, acts_of_test (by decide +kernel), by decide +kernel, by decide +kernel⟩

/-- A division by zero in flight. -/
def flying : State := nxt (.div 0 3 1 2) (two 7 0)
/-- The same with the trap of DZ enabled. -/
def flyingTrap : State := nxt (.div 0 3 1 2) ((two 7 0).setCal 0
  { (two 7 0).cal 0 with r := { ((two 7 0).cal 0).r with fcsr := BitVec.allOnes 64 } })

theorem wit_retire : ∃ l, (flying.cal 0).longs.find? (fun l => l.tag == 0) = some l ∧ l.inShadow = false ∧
    l.flags &&& (l.flags &&& (flying.cal 0).r.te) = 0 := ⟨_, rfl, by decide +kernel, by decide +kernel⟩
theorem wit_retire_trap : ∃ l, (flyingTrap.cal 0).longs.find? (fun l => l.tag == 0) = some l ∧ l.inShadow = false ∧
    l.flags &&& (flyingTrap.cal 0).r.te ≠ 0 := ⟨_, rfl, by decide +kernel, by decide +kernel⟩
theorem test_div_by_zero : g3 (.longOpRetire 0 0) flying = (0, 0x200) := by decide +kernel
theorem test_div_rounds_to_zero : g3 (.longOpRetire 0 0) (nxt (.div 0 3 1 2) (two (-7) 2)) = (-3, 0) := by decide +kernel

theorem wit_elements : (8 : Nat) ∈ [8, 16, 32, 64] ∧ 31 % (up.cal 0).r.ens = 0 ∧
    ([(63, 5), (0, 6)].map Prod.fst).Nodup ∧ ∀ v ∈ [(63, 5), (0, 6)], v.1 < (up.cal 0).r.ens * (512 / 8) := by decide +kernel

theorem wit_floating : ∃ x, fpForm (.fadd 0 3 1 2 0 3) = some x ∧ x.Legal ∧ x.long = false ∧ Acts up x.c x.named [] := by
  refine ⟨_, rfl, ?_, by decide +kernel, acts_of_test (by decide +kernel)⟩
  exact ⟨by decide, by decide, by decide +kernel, by decide +kernel, by decide +kernel⟩
theorem wit_floating_long : ∃ x, fpForm (.fdiv 0 3 1 2 0 3) = some x ∧ x.Legal ∧ x.long = true ∧ Acts up x.c x.named [] := by
  refine ⟨_, rfl, ?_, by decide +kernel, acts_of_test (by decide +kernel)⟩
  exact ⟨by decide, by decide, by decide +kernel, by decide +kernel, by decide +kernel⟩
theorem wit_floating_illegal : fpCaller (.fadd 0 3 1 2 0 7) = some 0 ∧ fpForm (.fadd 0 3 1 2 0 7) = none ∧
    up.issues 0 = true ∧ up.fetch 0 (up.cal 0).pc = .word := by decide +kernel

/-- 1.0 + 2.0 = 3.0 in FP64. -/
theorem test_fadd : g3 (.fadd 0 3 1 2 0 3) (two 0x3FF0000000000000 0x4000000000000000) = (0x4008000000000000, 0) := by
  decide +kernel

/-- `up` with vectors of one FP64 or U64 element: the type is 11 or 3. -/
def vec (ty : Nat) : State :=
  up.setCal 0 { up.cal 0 with r := { (up.cal 0).r with vl := 1, vtype := BitVec.ofNat 64 ty } }

theorem wit_vector_each : ∃ x, vecForm (.vadd 0 1 2 3 false false) = some x ∧ x.legal (vec 11) = true ∧
    Acts (vec 11) x.c x.general (x.vectors (vec 11)) := ⟨_, rfl, by decide +kernel, acts_of_test (by decide +kernel)⟩
theorem wit_vector_compare : ∃ x, vecForm (.vcmplt 0 1 2 3 false false) = some x ∧ x.legal (vec 11) = true ∧
    Acts (vec 11) x.c x.general (x.vectors (vec 11)) := ⟨_, rfl, by decide +kernel, acts_of_test (by decide +kernel)⟩
theorem wit_vector_select : ∃ x, vecForm (.vsel 0 1 2 3 false false) = some x ∧ x.legal (vec 11) = true ∧
    Acts (vec 11) x.c x.general (x.vectors (vec 11)) := ⟨_, rfl, by decide +kernel, acts_of_test (by decide +kernel)⟩
theorem wit_vector_reduce : ∃ x, vecForm (.vredsum 0 1 2 0 false false) = some x ∧ x.legal (vec 11) = true ∧
    Acts (vec 11) x.c x.general (x.vectors (vec 11)) ∧ ((vec 11).cal 0).r.active x.masked ≠ [] :=
  ⟨_, rfl, by decide +kernel, acts_of_test (by decide +kernel), by decide +kernel⟩
theorem wit_vector_reduce_empty : ∃ x, vecForm (.vredsum 0 1 2 0 true false) = some x ∧ x.legal (vec 11) = true ∧
    Acts (vec 11) x.c x.general (x.vectors (vec 11)) ∧ ((vec 11).cal 0).r.active x.masked = [] :=
  ⟨_, rfl, by decide +kernel, acts_of_test (by decide +kernel), by decide +kernel⟩
theorem wit_vector_general : ∃ x, vecForm (.vmvx 0 1 2 0 false false) = some x ∧ x.legal (vec 11) = true ∧
    Acts (vec 11) x.c x.general (x.vectors (vec 11)) := ⟨_, rfl, by decide +kernel, acts_of_test (by decide +kernel)⟩
theorem wit_vector_illegal : ∃ x, vecForm (.vadd 0 1 2 3 false false) = some x ∧ x.legal (vec 0x1B) = false ∧
    (vec 0x1B).issues x.c = true ∧ (vec 0x1B).fetch x.c ((vec 0x1B).cal x.c).pc = .word :=
  ⟨_, rfl, by decide +kernel, by decide +kernel, by decide +kernel⟩

/-! ### Callers: memory -/

/-- The target of an access that the checks allow. -/
def okTarget (r : Except MErr Target) : Option Target := match r with | .ok t => some t | .error _ => none

/-- The first address of the scratchpad. -/
def scp : Word := 0x40000000

/-- A store of g2 to address g1 in the buffer, drained, and a load of that address outstanding. -/
def stored : State := nxt (.std 0 2 1 0) (two scp 0x1122334455667788)
def drained : State := nxt (.storeDrain 0) stored
def loading : State := nxt (.ldd 0 3 1 0) (two scp 0)

theorem wit_load : ∃ d a k, loadForm (.ldd 0 3 1 0) = some (0, d, a, k, 8, true) ∨
    loadForm (.ldd 0 3 1 0) = some (0, d, a, k, 8, false) := ⟨_, _, _, .inr rfl⟩
theorem wit_load_acts : Acts (two scp 0) 0 [3, 1] [] ∧ (okTarget ((two scp 0).dataCheck 0 .rd scp.toNat)).any isMemory = true ∧
    ((two scp 0).cal 0).forward scp.toNat 8 = .none ∧ (two scp 0).cached 0 scp.toNat = false :=
  ⟨acts_of_test (by decide +kernel), by decide +kernel, by decide +kernel, by decide +kernel⟩
theorem wit_load_forwarded : Acts stored 0 [3, 1] [] ∧ (stored.cal 0).forward scp.toNat 8 ≠ .none :=
  ⟨acts_of_test (by decide +kernel), by decide +kernel⟩
theorem wit_load_misaligned : Acts (two 1 0) 0 [3, 1] [] ∧ ((two 1 0).gpr 0 1 + 0).toNat % 8 ≠ 0 :=
  ⟨acts_of_test (by decide +kernel), by decide +kernel⟩
theorem wit_load_refused : Acts (two (-8) 0) 0 [3, 1] [] ∧ okTarget ((two (-8) 0).dataCheck 0 .rd (-8 : Word).toNat) = none :=
  ⟨acts_of_test (by decide +kernel), by decide +kernel⟩
theorem wit_load_cfg : Acts (two 0x10000000 0) 0 [3, 1] [] ∧
    (okTarget ((two 0x10000000 0).dataCheck 0 .rd 0x10000000)).any isMemory = false ∧ ((two 0x10000000 0).cal 0).sb = [] :=
  ⟨acts_of_test (by decide +kernel), by decide +kernel, by decide +kernel⟩
theorem test_forwarded : g3 (.ldd 0 3 1 0) stored = (0x1122334455667788, 0) := by decide +kernel

theorem wit_load_response : ∃ l, (loading.cal 0).lds.head? = some l ∧ l.res = .wait ∧ l.cached = false ∧
    loading.target l.addr = .mem l.addr ∧ loading.memReady l.addr = true ∧ loading.bad l.addr = false :=
  ⟨⟨0, 3, 0x40000000, 8, false, false, .wait, 0⟩, by decide +kernel⟩

theorem wit_store : storeForm (.std 0 2 1 0) = some (0, 2, 1, 0, 8) ∧ Acts (two scp 0) 0 [2, 1] [] ∧
    okTarget ((two scp 0).dataCheck 0 .wr scp.toNat) ≠ none ∧ ((two scp 0).cal 0).sb.length < 8 :=
  ⟨rfl, acts_of_test (by decide +kernel), by decide +kernel, by decide +kernel⟩

theorem wit_drain : ∃ b, (stored.cal 0).sb = b :: [] ∧ b.inShadow = false ∧ stored.target b.addr = .mem b.addr ∧
    stored.memReady b.addr = true ∧ stored.partBad b.addr b.bytes.length = none :=
  ⟨_, rfl, by decide +kernel, by decide +kernel, by decide +kernel, by decide +kernel⟩
theorem test_drained : (loadValue 8 false (drained.peek 0x40000000 8), (drained.cal 0).sb.length) = (0x1122334455667788, 0) := by
  decide +kernel
theorem wit_response : ∃ b, (drained.cal 0).resp = b :: [] ∧ b.kind = 0 ∧ (drained.cal 0).orders = [] :=
  ⟨_, rfl, by decide +kernel, by decide +kernel⟩

/-- `vec 11` with the scratchpad's address in g1. -/
def vecAt : State := (vec 11).setGpr 0 1 scp
theorem wit_vector_access : (vecAt.cal 0).r.aligned 2 = true ∧ Acts vecAt 0 [1] ((vecAt.cal 0).r.group 2) ∧
    (vecAt.cal 0).sb = [] ∧ (vecAt.cal 0).shadow = none ∧ vecAt.spanReady scp.toNat 8 = true ∧
    vecAt.spanFault 0 .rd scp.toNat 8 = none ∧ vecAt.spanFault 0 .wr scp.toNat 8 = none ∧ vecAt.spanPart scp.toNat 8 = none ∧
    ∀ i, i < 8 → vecAt.target (scp.toNat + i) = .mem (scp.toNat + i) :=
  ⟨by decide +kernel, acts_of_test (by decide +kernel), by decide +kernel, by decide +kernel, by decide +kernel,
   by decide +kernel, by decide +kernel, by decide +kernel, by decide +kernel⟩
theorem wit_vector_access_refused : Acts (vec 11) 0 [1] (((vec 11).cal 0).r.group 2) ∧
    (vec 11).spanFault 0 .wr 0 8 ≠ none :=
  ⟨acts_of_test (by decide +kernel), by decide +kernel⟩

/-! ### Callers: transfers, windows, synchronisation -/

theorem wit_transfer : ∃ c regs goal, transferGoal up (.beq 0 1 2 5) = some (c, regs, goal) ∧ Acts up c regs [] :=
  ⟨_, _, _, rfl, acts_of_test (by decide +kernel)⟩
theorem test_branch_back : ((nxt (.beq 0 1 2 (-1)) (up.setCal 0 { up.cal 0 with pc := 0x40 })).cal 0).pc = 0x3C := by decide +kernel

theorem wit_call : ∃ regs goal, callGoal up (.call 0 5) = some (0, regs, goal) ∧ Acts up 0 regs [] ∧
    (up.cal 0).clash [gprKey (((up.cal 0).r.wp + 1) % 16) 23] [] = false ∧ 0 < (up.cal 0).freePos :=
  ⟨_, _, rfl, acts_of_test (by decide +kernel), by decide +kernel, by decide +kernel⟩
/-- Fourteen resident frames, and a window stack of `k` bytes in the scratchpad with room below. -/
def full (k : Nat) : State :=
  let u := up.setReg (rCalWsbase 0) (scp + 4096)
  u.setCal 0 { u.cal 0 with r := { (u.cal 0).r with resident := 14 }, wsp := scp + 4096 - BitVec.ofNat 64 k, want := 1 }
theorem wit_call_spills : Acts (full 0) 0 [] [] ∧ ((full 0).cal 0).freePos = 0 ∧ (full 0).spillFaults 0 = false :=
  ⟨acts_of_test (by decide +kernel), by decide +kernel, by decide +kernel⟩
theorem wit_ret : Acts (full 0) 0 [23] [] ∧ 1 ≤ ((full 0).cal 0).r.resident :=
  ⟨acts_of_test (by decide +kernel), by decide +kernel⟩
theorem wit_ret_empty : Acts up 0 [23] [] ∧ (up.cal 0).r.resident = 0 ∧ up.stacked 0 = false :=
  ⟨acts_of_test (by decide +kernel), by decide +kernel, by decide +kernel⟩
theorem wit_spill : (full 0).spillDue 0 = true ∧ (full 0).spillFaults 0 = false ∧
    ((full 0).cal 0).clash (frameKeys ((full 0).cal 0).r.oldest) [] = false ∧ (full 0).memReady ((full 0).spillAddr 0) = true ∧
    ((full 0).cal 0).shadow = none ∧ okTarget ((full 0).check .free .wr ((full 0).spillAddr 0)) ≠ none := by decide +kernel
/-- One stacked frame, and RET waits for it. -/
def stacked : State := (full 128).setCal 0 { (full 128).cal 0 with r := { ((full 128).cal 0).r with resident := 0 }, want := 2 }
theorem wit_refill : stacked.fillDue 0 = true ∧ (stacked.cal 0).clash (frameKeys (stacked.cal 0).r.below) [] = false ∧
    stacked.memReady (stacked.cal 0).wsp.toNat = true ∧ (stacked.cal 0).shadow = none ∧
    ∀ i, i < 16 → stacked.target ((stacked.cal 0).wsp.toNat + 8 * i) = .mem ((stacked.cal 0).wsp.toNat + 8 * i) ∧
      stacked.bad ((stacked.cal 0).wsp.toNat + 8 * i) = false := by decide +kernel
theorem test_spill_counts : ((nxt (.spill 0) (full 0)).rf (rCalSpills 0) fCalSpillsSpills,
    ((nxt (.spill 0) (full 0)).cal 0).r.resident) = (1, 13) := by decide +kernel

theorem wit_sync : Acts up 0 [] [] ∧ (∀ l ∈ (up.cal 0).longs, l.inShadow = true) ∧ (up.cal 0).resp = [] ∧
    (∀ b ∈ (up.cal 0).sb, b.inShadow = true) ∧ (up.cal 0).r.resident = 0 ∧ (up.cal 0).shadow = none :=
  ⟨acts_of_test (by decide +kernel), by decide +kernel, by decide +kernel, by decide +kernel, by decide +kernel, by decide +kernel⟩
theorem wit_sync_waits : Acts flying 0 [] [] ∧ (∃ l ∈ (flying.cal 0).longs, l.inShadow = false) ∧
    Acts drained 0 [] [] ∧ (drained.cal 0).resp ≠ [] :=
  ⟨acts_of_test (by decide +kernel), by decide +kernel, acts_of_test (by decide +kernel), by decide +kernel⟩
theorem wit_cache_line : Acts (two scp 0) 0 [1] [] ∧ okTarget ((two scp 0).dataCheck 0 .rd ((two scp 0).gpr 0 1).toNat) ≠ none :=
  ⟨acts_of_test (by decide +kernel), by decide +kernel⟩
/-- An open control-write shadow. -/
def shaded : State := (two 0x10000 0).setCal 0
  { (two 0x10000 0).cal 0 with pc := 4, shadow := some ⟨0, 0, 1, [.write 0x100 0x10000], ((two 0x10000 0).cal 0).r, false⟩ }
theorem wit_shadow : Acts shaded 0 [1] [] ∧ (shaded.cal 0).shadow ≠ none :=
  ⟨acts_of_test (by decide +kernel), by decide +kernel⟩

/-- The FMA order of spec/02 at the scratchpad's address in g1, issue word in g2. -/
def orderAt : State := (two scp 0x700).poke 0x40000000 (fmaBytes.map fun b => BitVec.ofNat 8 b)
theorem wit_order : Acts orderAt 0 [3, 1, 2] [] ∧ (orderAt.cal 0).shadow = none ∧ (orderAt.cal 0).sb = [] ∧
    (orderAt.cal 0).resp = [] ∧ orderAt.orderWaits 0 scp.toNat 0x700 = false ∧
    (match (orderAt.orderRun 0 scp.toNat 0x700).2 with | .ok v => v | .error _ => 0) = 0x1F0000 :=
  ⟨acts_of_test (by decide +kernel), by decide +kernel, by decide +kernel, by decide +kernel, by decide +kernel, by decide +kernel⟩
theorem wit_order_waits : Acts drained 0 [3, 1, 2] [] ∧ (drained.cal 0).shadow = none ∧ (drained.cal 0).resp ≠ [] :=
  ⟨acts_of_test (by decide +kernel), by decide +kernel, by decide +kernel⟩

/-- The order lies in a scratchpad that is not up: it waits, but for an issue word with a reserved bit. -/
def orderDark : State := orderAt.setReg rCusReady (BitVec.ofNat 64 (2 ^ 16 + 2 ^ 35))
theorem wit_order_dark : orderDark.orderWaits 0 scp.toNat 0x700 = true ∧ orderDark.orderWaits 0 scp.toNat 0x80000000_00000700 = false := by
  decide +kernel

theorem wit_setvl : Acts up 0 [1, 2] [] ∧ (63 : BitVec 16).toNat < 64 ∧ (0x3C : BitVec 16).toNat % 16 < 13 ∧
    13 ≤ (0x3D : BitVec 16).toNat % 16 := ⟨acts_of_test (by decide +kernel), by decide, by decide, by decide⟩
theorem test_setvl : g3 (.setvl 0 3 1 0x3B) (two 1000 0) = (64, 0) := by decide +kernel

/-! ### Callers: control registers, exceptions, return -/

theorem wit_crr : cregOf 0x100 = some .fcsr ∧ up.crrOk 0 .fcsr = true ∧ Acts up 0 [3] [] ∧
    controlValue up 0 .fcsr = some (up.cal 0).r.fcsr := ⟨rfl, by decide +kernel, acts_of_test (by decide +kernel), rfl⟩
theorem wit_crr_illegal : cregOf 1 = none ∧ up.issues 0 = true ∧ up.fetch 0 (up.cal 0).pc = .word := by decide +kernel

/-- Caller 0 at level `lvl` with a handler for every cause in each table and an empty status besides. -/
def handled (lvl : Nat) : State :=
  let y : TabSt := ⟨0, (List.range 64).map fun n => (n, BitVec.ofNat 64 (1 + 4 * (0x1000 + n))), true, false⟩
  windowed.setCal 0 { up.cal 0 with status := BitVec.ofNat 64 lvl, tabS := y, tabM := y }
/-- The same with the HELD bits `h` set: 1 the world's, 2 the machine level's. -/
def heldBits (lvl h : Nat) : State := (handled lvl).setCal 0 { (handled lvl).cal 0 with status := BitVec.ofNat 64 (lvl + 16 * h) }

theorem wit_except_machine : entryReady (handled 3) 0 .m excIllegal (4 * (0x1000 + excIllegal)) ∧ ((handled 3).cal 0).lvl = 3 ∧
    ((handled 3).cal 0).shadow = none :=
  ⟨⟨by decide +kernel, by decide +kernel, by decide +kernel, by decide +kernel⟩, by decide +kernel, by decide +kernel⟩

theorem wit_except_world : entryReady (handled 1) 0 .s excIllegal (4 * (0x1000 + excIllegal)) ∧ ((handled 1).cal 0).lvl ≠ 3 ∧
    ((handled 1).cal 0).shadow = none ∧ worldSet ((handled 1).calWorld 0) = .s :=
  ⟨⟨by decide +kernel, by decide +kernel, by decide +kernel, by decide +kernel⟩, by decide +kernel, by decide +kernel,
   by decide +kernel⟩
theorem wit_except_escalates : ((heldBits 1 1).cal 0).held .s = true ∧
    entryReady (heldBits 1 1) 0 .m excIllegal (4 * (0x1000 + excIllegal)) :=
  ⟨by decide +kernel, by decide +kernel, by decide +kernel, by decide +kernel, by decide +kernel⟩
theorem wit_except_invalid_entry : (up.cal 0).lvl = 3 ∧ (up.cal 0).held .m = false ∧ ((up.cal 0).tab .m).busy = false ∧
    ((up.cal 0).tab .m).handler excIllegal = none := by decide +kernel
theorem wit_except_held : ((heldBits 3 2).cal 0).lvl = 3 ∧ ((heldBits 3 2).cal 0).held .m = true ∧
    ((heldBits 1 3).cal 0).lvl = 1 ∧ ((heldBits 1 3).cal 0).held .s = true ∧ ((heldBits 1 3).cal 0).held .m = true := by
  decide +kernel
theorem wit_handler_call : callCause (.scall 0) = some (0, excScall, 4) ∧ Acts (handled 1) 0 [] [] ∧
    ((handled 1).cal 0).shadow = none ∧ entryReady (handled 1) 0 .s excScall (4 * (0x1000 + excScall)) :=
  ⟨rfl, acts_of_test (by decide +kernel), by decide +kernel, by decide +kernel, by decide +kernel, by decide +kernel,
   by decide +kernel⟩
theorem test_scall_saves_next : (((nxt (.scall 0) (handled 1)).cal 0).saveS.pc, ((nxt (.brk 0) (handled 1)).cal 0).saveS.pc) =
    (4, 0) := by decide +kernel
theorem wit_first_cause : up.issues 0 = true ∧ up.fetch 0 (up.cal 0).pc = .word ∧
    (∀ h, (up.cal 0).shadow = some h → h.count < 8) ∧
    (flying.cal 0).clash ([3].flatMap fun r => flying.destKeys 0 r) [] = true ∧ State.reset.issues 0 = false :=
  ⟨by decide +kernel, by decide +kernel, (acts_of_test (regs := []) (vregs := []) (by decide +kernel)).shadow,
   by decide +kernel, by decide +kernel⟩

/-- Caller 0 in a machine-level handler that one window entered. -/
def inHandler : State := up.setCal 0 { up.cal 0 with
  r := { (up.cal 0).r with wp := 1, resident := 1 }
  saveM := ⟨0x100, 0, 0, 0, 0, 0⟩ }
theorem wit_retx : inHandler.issues 0 = true ∧ inHandler.fetch 0 (inHandler.cal 0).pc = .word ∧ (inHandler.cal 0).shadow = none ∧
    (inHandler.cal 0).lvl ≠ 0 ∧ (inHandler.cal 0).lvl ≠ 1 ∧ (1 + 16 - 0 % 16) % 16 ≤ (inHandler.cal 0).r.resident := by decide +kernel
theorem wit_retx_illegal : (handled 0).issues 0 = true ∧ (handled 0).fetch 0 ((handled 0).cal 0).pc = .word ∧
    ((handled 0).cal 0).lvl = 0 ∧ ((handled 0).cal 0).shadow = none := by decide +kernel
theorem test_retx : (((nxt (.retx 0) inHandler).cal 0).pc, ((nxt (.retx 0) inHandler).cal 0).lvl) = (0x100, 0) := by decide +kernel

theorem wit_crw : cregOf 0x100 = some .fcsr ∧ up.crwOk 0 .fcsr 0 = true ∧ Acts up 0 [1] [] ∧
    (∀ l ∈ (up.cal 0).longs, l.inShadow = true) ∧ (up.cal 0).shadow = none :=
  ⟨rfl, by decide +kernel, acts_of_test (by decide +kernel), by decide +kernel, by decide +kernel⟩
theorem wit_crw_in_shadow : cregOf 0x100 = some .fcsr ∧ shaded.crwOk 0 .fcsr 0 = true ∧ Acts shaded 0 [1] [] ∧
    (shaded.cal 0).shadow ≠ none := ⟨rfl, by decide +kernel, acts_of_test (by decide +kernel), by decide +kernel⟩
theorem wit_crw_illegal : cregOf 0x130 = some .timebase ∧ up.crwOk 0 .timebase 0 = false := by decide +kernel
theorem wit_sync_c : shaded.issues 0 = true ∧ shaded.fetch 0 (shaded.cal 0).pc = .word ∧ (shaded.cal 0).shadow ≠ none ∧
    up.issues 0 = true ∧ up.fetch 0 (up.cal 0).pc = .word ∧ (up.cal 0).shadow = none ∧ (up.cal 0).orders = [] := by decide +kernel
theorem test_sync_applies : (((nxt (.syncC 0 0 0 0) shaded).cal 0).r.fcsr, ((nxt (.syncC 0 0 0 0) shaded).cal 0).pc) =
    (0x10000, 8) := by decide +kernel

/-! ### Callers: operations in flight, caches, the spill engine, waiting exceptions -/

/-- A division in a control-write shadow that is still open, and in one that has closed. -/
def shadedDiv (open_ : Bool) : State := flying.setCal 0 { flying.cal 0 with
  longs := ((flying.cal 0).longs.map fun l => { l with inShadow := open_, shadowed := true }) }
theorem wit_retire_shadow : (∃ l, ((shadedDiv true).cal 0).longs.find? (fun l => l.tag == 0) = some l ∧ l.inShadow = true) ∧
    ∃ l, ((shadedDiv false).cal 0).longs.find? (fun l => l.tag == 0) = some l ∧ l.shadowed = true ∧
      ∀ m ∈ ((shadedDiv false).cal 0).longs.takeWhile (fun m => m.tag != 0), m.shadowed = false :=
  ⟨⟨_, rfl, by decide +kernel⟩, _, rfl, by decide +kernel, by decide +kernel⟩
theorem wit_divider_busy : ∃ l ∈ (flying.cal 0).longs, l.unit = 1 := by decide +kernel
theorem test_divider_waits : (nxt (.div 0 3 1 2) flying).cal 0 = flying.cal 0 := by decide +kernel

theorem wit_load_behind : loading.runs 0 = true ∧ (loading.cal 0).lds ≠ [] ∧ (loading.cal 0).lds.length < 16 ∧
    (loading.cal 0).lds.length + (loading.cal 0).longs.length < 32 ∧ loading.fetch 0 (loading.cal 0).pc = .word ∧
    (loading.cal 0).shadow = none ∧ (loading.cal 0).clash ([4, 1].flatMap fun r => loading.destKeys 0 r) [] = false ∧
    okTarget (loading.dataCheck 0 .rd scp.toNat) = some (.mem 0x40000000) ∧ (loading.cal 0).forward scp.toNat 8 = .none ∧
    loading.cached 0 scp.toNat = false := by decide +kernel
theorem test_two_loads : ((nxt (.ldd 0 4 1 0) loading).cal 0).lds.length = 2 := by decide +kernel
/-- Two loads in flight; the younger one cached. -/
def loadingTwo : State := loading.setCal 0 { loading.cal 0 with
  lds := (loading.cal 0).lds ++ [⟨4, 4, 0x40000040, 8, false, true, .wait, 0⟩] }
theorem wit_load_response_behind : (loadingTwo.cal 0).lds.head? = some ⟨0, 3, 0x40000000, 8, false, false, .wait, 0⟩ ∧
    (loadingTwo.cal 0).lds[1]? = some ⟨4, 4, 0x40000040, 8, false, true, .wait, 0⟩ ∧
    (loadingTwo.cal 0).waitingLoad (fun l => l.cached == true) = some 1 ∧
    (match loadingTwo.loadRead 0 ⟨4, 4, 0x40000040, 8, false, true, .wait, 0⟩ .none with
      | some (t, _) => decide ((t.cal 0).lds = (loadingTwo.cal 0).lds) | none => false) = true := by decide +kernel
/-- A caller with both caches on, the line of the scratchpad's first 64 bytes in each. -/
def caching : State :=
  let s := (two scp 0).setReg (rCalCache 0) 3
  s.setCal 0 { s.cal 0 with lines := [(0x1000000, List.replicate 64 0)] }
theorem wit_load_line : Acts ((two scp 0)) 0 [3, 1] [] ∧ caching.cached 0 scp.toNat = true ∧
    ((caching.cal 0).line scp.toNat).isSome = true ∧ caching.fetch 0 0 = .miss := 
  ⟨acts_of_test (by decide +kernel), by decide +kernel, by decide +kernel, by decide +kernel⟩
/-- Whichever codeword of the line the parity finds (log entry 122), the load reads the line or misses. -/
theorem wit_load_parity : caching.parityAt 0 scp.toNat = true ∨ caching.parityAt 0 scp.toNat = false := by
  cases caching.parityAt 0 scp.toNat <;> decide
/-- The fill of the line of the program is outstanding. -/
def filling : State := caching.setCal 0 { caching.cal 0 with fill := some 0x1000000 }
theorem wit_code_fill : (filling.cal 0).fill = some 0x1000000 ∧ filling.lineAt 0x40000000 ≠ none ∧
    lineOf (filling.cal 0).ilines 0x40000000 = none ∧ filling.target 0x40000000 = .mem 0x40000000 ∧
    filling.memReady 0x40000000 = true ∧ filling.bad 0x40000000 = false := by decide +kernel

theorem wit_vector_access_parts : vecAt.partsReady scp.toNat 8 = true ∧ (∀ b ∈ (vecAt.cal 0).sb, b.meets scp.toNat 8 = false) ∧
    (vecAt.spanParity 0 scp.toNat 8).spanFault 0 .rd scp.toNat 8 = none ∧
    (vecAt.setBad scp.toNat true).spanFault 0 .rd scp.toNat 8 = some (0x40000000, .ecc) ∧
    (vecAt.setBad scp.toNat true).spanPart 0x40000001 8 ≠ none := by decide +kernel

/-- A spill that would go below CAL.WSLIM. -/
def spillLow : State := (full 0).setReg (rCalWslim 0) (scp + 8192)
theorem wit_spill_faults : spillLow.spillDue 0 = true ∧ spillLow.spillFaults 0 = true ∧
    (spillLow.cal 0).clash (frameKeys (spillLow.cal 0).r.oldest) [] = false ∧ spillLow.memReady (spillLow.spillAddr 0) = true ∧
    (spillLow.cal 0).shadow = none ∧ spillLow.spillRefused 0 = none := by decide +kernel
theorem wit_refill_faults : let s := stacked.setBad (stacked.cal 0).wsp.toNat true
    s.fillDue 0 = true ∧ (s.cal 0).want = 2 ∧ (match (s.ownRead 0 (s.cal 0).wsp.toNat 128).2 with
      | .error e => e == .ecc | .ok _ => false) = true := by decide +kernel

/-- The trap of a division waits for its table. -/
def trapping : State :=
  let s := nxt (.longOpRetire 0 0) flyingTrap
  s.setCal 0 { s.cal 0 with tabM := { (s.cal 0).tabM with busy := true } }
theorem wit_barrier_trap : trapping.trapDue 0 = true ∧ Acts trapping 0 [] [] ∧ up.trapDue 0 = false :=
  ⟨by decide +kernel, acts_of_test (by decide +kernel), by decide +kernel⟩
theorem wit_cache_line_refused : Acts (two (-8) 0) 0 [1] [] ∧
    okTarget ((two (-8) 0).dataCheck 0 .rd ((two (-8) 0).gpr 0 1).toNat) = none :=
  ⟨acts_of_test (by decide +kernel), by decide +kernel⟩

/-- A table that reloads. -/
def reloads (lvl : Nat) : State := (handled lvl).setCal 0 { (handled lvl).cal 0 with
  tabS := { ((handled lvl).cal 0).tabS with busy := true }, tabM := { ((handled lvl).cal 0).tabM with busy := true } }
theorem wit_except_waits : ((reloads 3).cal 0).lvl = 3 ∧ ((reloads 3).cal 0).held .m = false ∧ (((reloads 3).cal 0).tab .m).busy = true ∧
    ((reloads 1).cal 0).lvl = 1 ∧ ((reloads 1).cal 0).held .s = false ∧ (((reloads 1).cal 0).tab .s).busy = true := by decide +kernel
theorem test_except_waits : ((nxt (.scall 0) (reloads 1)).cal 0).exc.isSome = true := by decide +kernel

theorem wit_fetch_miss : caching.issues 0 = true ∧ caching.fetch 0 (caching.cal 0).pc = .miss := by decide +kernel
/-- The line of the program in the instruction cache: it serves the fetch, or has a parity error (log entry 122). -/
def lined : State := caching.setCal 0 { caching.cal 0 with ilines := [(0, List.replicate 64 0)] }
theorem wit_fetch_parity : lined.fetch 0 (lined.cal 0).pc = .parity ∨ lined.fetch 0 (lined.cal 0).pc = .word := by
  have h : lined.fetch 0 (lined.cal 0).pc = if lined.parityAt 0 (lined.cal 0).pc = true then .parity else .word := by
    rfl
  rw [h]; split
  · exact .inl rfl
  · exact .inr rfl
theorem test_shadow_flags : (State.shadowEv 0 (two 0 0) (.flags 0x100)).cal 0 = { (two 0 0).cal 0 with
    r := ((two 0 0).cal 0).r.addFlags 0x100 } := by decide +kernel

/-! ### Orders -/

/-- Bases 0 to 3 of engine 0 in the scratchpad. -/
def based : State :=
  [0, 1, 2, 3].foldl (fun u k => u.setReg (rEngObase 0 0 k) (scp + BitVec.ofNat 64 (256 * k))) windowed

/-- An order of the safety world at engine 0 with tag 7. -/
def offered (bs : List Nat) (s : State) : State :=
  (s.offer 0 .safety 7 0 true none (match decodeOrder (bytesOf bs) with | .ok o => .ok o | .error _ => .error (0, 0))).1

/-- One element of type U64 or the type `ty`, from bases 0 and 1 to base 2. -/
def oneOf (op ty : Nat) : State := offered [op, ty, 1, 0x43, 5, 0, 5, 1, 5, 2] based
def oneRuns (op ty : Nat) : State := nxt (.orderStart 0 .safety) (oneOf op ty)

/-- A test on the head order of engine 0. -/
def headIs (s : State) (p : Entry → Bool) : Bool := match s.head 0 with | some x => p x | none => false
/-- The same with the operands and the pass of its next element. -/
def unitIs (s : State) (p : Env → Pass → Bool) : Bool := headIs s fun x => p ⟨s, .safety, x, false⟩ x.run.perf
/-- What is read is there, with a property. -/
def rdIs (r : Rd) (p : Nat → Bool) : Bool := match r with | .ok v _ => p v | _ => false

theorem wit_order_command : orderCommand (.addOrder 0 .safety 1) = some (.add, 0, 1) ∧
    headIs (oneRuns 1 3) (fun x => x.ord.op == .add && x.run.phase == .running) = true ∧ (oneRuns 1 3).engOn 0 = true ∧
    (oneRuns 1 3).ready 0 = true ∧ (oneRuns 1 3).modeRuns 0 = true ∧ (oneRuns 1 3).entitled 0 = true := by decide +kernel
theorem wit_order_command_idle : headIs (oneOf 1 3) (fun x => x.run.phase == .queued) = true ∧ up.head 0 = none := by decide +kernel
theorem wit_performs : ∃ x, Performs (oneRuns 1 3) 0 .add x := by
  refine ⟨((oneRuns 1 3).head 0).get (by decide +kernel), ?_⟩
  exact ⟨by decide +kernel, by decide +kernel, by decide +kernel, by decide +kernel, by decide +kernel, by decide +kernel,
    by decide +kernel, by decide +kernel, by decide +kernel⟩
theorem wit_unit_ok : unitIs (oneRuns 1 3) (fun v p => match v.unit p with
    | .ok e => e.outs.all (fun o => v.outFault o == none) && v.room p false e.outs && e.outs.length == 1 | _ => false) = true := by
  decide +kernel
/-- A is a relay that holds nothing, or lies at an address without a window. -/
theorem wit_unit_faults : unitIs ((oneRuns 1 3).setReg (rMtxWattr 0 0) 0) (fun v p => match v.unit p with
    | .flt sl kind _ => sl == 0 && kind != 5 | _ => false) = true := by decide +kernel
theorem wit_out_faults : unitIs ((oneRuns 1 3).setReg (rMtxWattr 0 0) 3) (fun v p => match v.unit p with
    | .ok e => (match e.outs with | [o] => v.outFault o != none | _ => false) | _ => false) = true := by decide +kernel
theorem test_add_order : (let s := (oneOf 1 3).poke 0x40000000 [5, 1]
    let s := nxt (.addOrder 0 .safety 1) (nxt (.orderStart 0 .safety) (s.poke 0x40000100 [7]))
    s.peek 0x40000200 2) = [12, 1] := by decide +kernel

theorem wit_integer_value : integerValue .add (.int false 64) (.int false 64) 1 2 0 = some (3, 0) := by decide +kernel
theorem wit_float_value : (floatValue .add fp64 ⟨.flt fp64, .flt fp64, .rne, false⟩ 0 0 0).isSome = true := by decide +kernel
theorem wit_elementwise : unitIs (oneRuns 1 3) (fun v p => rdIs (v.kbit p.next) (fun k => k % 2 == 1) &&
    rdIs (v.rd 0 p.next).2 (fun _ => true) && rdIs (v.rd 1 p.next).2 (fun _ => true) && rdIs (v.rd 2 p.next).2 (fun _ => true) &&
    (integerValue v.op v.ctx.t v.ctx.tt 0 0 0).isSome) = true := by decide +kernel

/-- Orders with a control bit in K (base 3), whose bits are 0. -/
def maskedRuns (op ty : Nat) : State := nxt (.orderStart 0 .safety) (offered [op, ty, 1, 0x63, 5, 0, 5, 1, 0x15, 3, 5, 2] based)
theorem wit_elementwise_off : unitIs (maskedRuns 1 3) (fun v p => rdIs (v.kbit p.next) (fun k => k % 2 == 0) &&
    rdIs (v.rd 0 p.next).2 (fun _ => true) && rdIs (v.pass 1 p.next).2 (fun _ => true)) = true := by decide +kernel

/-- An order on the bytes `bs` runs at engine 0; the control bits at base 3 are 1. -/
def runs (bs : List Nat) : State := nxt (.orderStart 0 .safety) (offered bs (based.poke 0x40000300 [1]))
/-- Its next element has the operation `op`, control bit 1, a value in A, and `n` outputs. -/
def combines (bs : List Nat) (op : Op) (n : Nat) : Bool :=
  unitIs (runs bs) fun v p => v.op == op && rdIs (v.kbit p.next) (fun k => k % 2 == 1) &&
    rdIs (v.rd 0 p.next).2 (fun _ => true) && (match v.unit p with | .ok e => e.outs.length == n | _ => false)
theorem wit_reduce : combines [0x48, 3, 1, 0x41, 5, 0, 5, 2] .sum 0 = true := by decide +kernel
theorem wit_dot : combines [0x4E, 3, 1, 0x43, 5, 0, 5, 1, 5, 2] .dot 0 = true := by decide +kernel
theorem wit_select : combines [0x29, 3, 1, 0x63, 5, 0, 5, 1, 0x15, 3, 5, 2] .select 1 = true := by decide +kernel
theorem wit_copy : combines [0x70, 3, 1, 0x61, 5, 0, 0x15, 3, 5, 2] .copy 1 = true := by decide +kernel
theorem wit_fill : combines [0x71, 3, 1, 0x41, 5, 0, 5, 2] .fill 1 = true := by decide +kernel
theorem wit_compress : combines [0x58, 3, 1, 0x61, 5, 0, 0x15, 3, 5, 2] .compress 1 = true := by decide +kernel
theorem wit_expand : combines [0x59, 3, 1, 0x61, 5, 0, 0x15, 3, 5, 2] .expand 1 = true := by decide +kernel
theorem wit_gather : combines [0x60, 3, 1, 0x51, 5, 0, 0x0D, 1, 5, 2] .gather 1 = true := by decide +kernel
theorem wit_scatter : combines [0x61, 3, 1, 0x51, 5, 0, 0x0D, 1, 5, 2] .scatter 1 = true := by decide +kernel
theorem wit_scatteradd : combines [0x62, 3, 1, 0x51, 5, 0, 0x0D, 1, 5, 2] .scatteradd 1 = true := by decide +kernel

/-! ### Engines -/

/-- The conditions of `MayRun` for queue 0, as a test. -/
def mayRun (s : State) : Bool :=
  headIs s (fun x => !x.run.phase.busy) && !s.qBusy 1 && s.runnable 0 && s.entitled 0 && !(s.reg rRepMstat).bit 3 &&
  (s.tpOf 0).mark == none
theorem wit_start : mayRun (oneOf 1 3) = true ∧ headIs (oneOf 1 3) (fun x => x.run.phase == .queued &&
    (oneOf 1 3).startEnd 0 x == none) = true := by decide +kernel
theorem wit_start_empty : headIs (oneOf 1 3) (fun x => ((oneOf 1 3).startEnd 0 { x with n := 0 }) == some 1) = true := by
  decide +kernel
/-- An order that is stopped by a SUSPEND, and by a suspension whose record is written. -/
def closing : State := (oneRuns 1 3).suspend 0 3
def stopped : State := (oneRuns 1 3).suspend 0 6
theorem wit_record : headIs closing (fun x => x.run.phase == .closing && x.run.pairs.isEmpty && decide (x.run.cause < 6)) = true := by
  decide +kernel
/-- The same once its record is written. -/
def parked : State := nxt (.recordWritten 0 .safety) closing
/-- `parked` as the record leaves it, before an engine takes it up again. -/
def withPhase (ph : Phase) (act : Option Nat) (s : State) : State :=
  match s.head 0 with | some x => s.setHead 0 (x.setRun { x.run with phase := ph, resume := act }) | none => s
set_option maxRecDepth 100000 in
theorem wit_go_on : mayRun (withPhase .parked none parked) = true ∧ headIs (withPhase .parked none parked) (fun x =>
    x.run.begun && ((withPhase .parked none parked).readRecord 0 x).isSome) = true := by decide +kernel
set_option maxRecDepth 100000 in
theorem wit_abandon : mayRun (withPhase .stopped (some 3) parked) = true ∧ headIs (withPhase .stopped (some 3) parked) (fun x =>
    ((withPhase .stopped (some 3) parked).readRecord 0 x).isSome) = true := by decide +kernel
theorem wit_record_bad : mayRun (withPhase .parked none closing) = true ∧ headIs (withPhase .parked none closing) (fun x =>
    (withPhase .parked none closing).readRecord 0 x == none) = true := by decide +kernel

/-- The order after its only element. -/
def done : State := (oneRuns 1 3).oneUnit 0
theorem wit_over : headIs (done.oneUnit 0) (fun x => x.over && x.run.failed == none) = true ∧
    headIs (oneRuns 1 3) (fun x => !x.over && x.run.failed == none) = true := by decide +kernel
/-- A run changed. -/
def withRun (f : Run → Run) (s : State) : State := match s.head 0 with | some x => s.setHead 0 (x.setRun (f x.run)) | none => s
theorem wit_watchdog : headIs (withRun (fun r => { r with wdLimit := 5, wdCount := 5 }) (oneRuns 1 3)) (fun x =>
    (oneRuns 1 3).watched 0 x && x.run.failed == none && decide (0 < x.run.wdLimit ∧ x.run.wdLimit ≤ x.run.wdCount) &&
    decide ((oneRuns 1 3).portBytes x ≤ x.run.wdSeen)) = true := by decide +kernel
/-- A signature pair waits, that agrees. -/
def compared : State := withRun (fun r => { r with pairs := [⟨6, 0, 5, 5⟩] }) (oneRuns 1 3)
theorem wit_compare : headIs compared (fun x => x.run.pairs == [⟨6, 0, 5, 5⟩]) = true ∧
    (compared.serving (compared.engQuad 0)).any (fun k => !compared.rb (rRepProofrep k) fRepProofrepMissed) = true := by decide +kernel
/-- A failed order that is over, encores enabled. -/
def failed : State := withRun (fun r => { r with failed := some ⟨6, 0, 5, 4⟩, rep := r.perf }) ((done.oneUnit 0).setRf rRepPctl fRepPctlEncore 1)
theorem wit_encore : headIs failed (fun x => x.over && x.run.failed.isSome && !x.run.encored && x.encorable) = true ∧
    failed.encore = [] ∧ failed.rb rRepPctl fRepPctlEncore = true ∧ failed.encoreSpare 0 ≠ none := by decide +kernel
theorem wit_encore_end : (nxt (.encoreStart 0 .safety) failed).encore ≠ [] ∧
    headIs (nxt (.encoreStart 0 .safety) failed) (fun x => x.run.failed.isSome) = true := by decide +kernel

/-- Caller 0, at the machine level. -/
def c0 : Master := .caller 0
/-- The register at `off` takes a write of caller 0. -/
def Hits (s : State) (off : Nat) : Prop := ∃ a, Reaches s c0 off a
theorem hits {s : State} {off : Nat} (h : s.reachesAt c0 off = true) : Hits s off := reaches_of_test h
/-- A test on the register at `off`. -/
def regIs (off : Nat) (p : RegAt → Bool) : Bool := match cfgDecode off 8 true with | some (.reg a) => p a | _ => false
theorem hitsWith {s : State} {m : Master} {off : Nat} {p : RegAt → Bool} (h : s.reachesAt m off = true) (hp : regIs off p = true) :
    ∃ a, Reaches s m off a ∧ p a = true := by
  obtain ⟨a, ha⟩ := reaches_of_test h
  refine ⟨a, ha, ?_⟩
  have hd := ha.decodes
  simpa [regIs, hd] using hp

theorem wit_suspend : Hits (oneRuns 1 3) (rEngSuspend 0 0) ∧ headIs (oneRuns 1 3) (fun x =>
    x.run.phase == .running && x.run.failed == none && decide (x.run.perf.next < x.n)) = true ∧
    Hits done (rEngSuspend 0 0) ∧ headIs done (fun x => x.run.phase == .running && decide (x.n ≤ x.run.perf.next) &&
      !done.commitWaits 0 x) = true ∧
    Hits (oneOf 1 3) (rEngSuspend 0 0) ∧ headIs (oneOf 1 3) (fun x => x.run.phase == .queued && decide (x.run.perf.next < x.n)) = true ∧
    Hits up (rEngSuspend 0 0) ∧ up.head 0 = none :=
  ⟨hits (by decide +kernel), by decide +kernel, hits (by decide +kernel), by decide +kernel, hits (by decide +kernel),
   by decide +kernel, hits (by decide +kernel), by decide +kernel⟩
theorem wit_resume : resumeCommand (.resumeContinue c0 0 .safety 7) = some (c0, 0, .safety, 7, 0) ∧
    Hits stopped (rEngResume 0 0) ∧ headIs stopped (fun x => x.tag == 7 && x.run.phase == .closing && decide (6 ≤ x.run.cause) &&
      x.mayResume 0) = true ∧
    headIs (withPhase .stopped none stopped) (fun x => x.run.phase == .stopped && x.mayResume 0) = true :=
  ⟨rfl, hits (by decide +kernel), by decide +kernel, by decide +kernel⟩
theorem wit_resume_refused : Hits (oneRuns 1 3) (rEngResume 0 0) ∧ headIs (oneRuns 1 3) (fun x => x.tag != 8 &&
    x.run.phase == .running && !x.mayResume 1) = true := ⟨hits (by decide +kernel), by decide +kernel⟩

/-! ### Relays, frames, partitions, comparators -/

theorem wit_relay_write : Hits up (rScpRlyctl 5) ∧ (up.relay 5).prod = none ∧ (up.relay 5).cons = none ∧ (up.relay 5).fills = [] ∧
    up.relayEn 5 = false := ⟨hits (by decide +kernel), by decide +kernel, by decide +kernel, by decide +kernel, by decide +kernel⟩
theorem wit_relay_flush : Hits up rScpRlyflush ∧ up.rf (rScpRlyctl 5) fScpRlyctlPkind = 0 ∧ (up.relay 5).prod = none ∧
    (up.relay 5).cons = none := ⟨hits (by decide +kernel), by decide +kernel, by decide +kernel, by decide +kernel⟩
/-- Relay 5 with a producer bound. -/
def bound : State := up.setRelay 5 { up.relay 5 with prod := some (0, 0), owed := 1 }
theorem wit_relay_bound : Hits bound (rScpRlyctl 5) ∧ (bound.relay 5).prod.isSome = true ∧ Hits bound rScpRlyflush ∧
    (bound.relay 5).bound = true ∧ 0 < (bound.relay 5).owed :=
  ⟨hits (by decide +kernel), by decide +kernel, hits (by decide +kernel), by decide +kernel, by decide +kernel⟩
/-- Frame 2 enabled; then closed with one reader. -/
def framed : State := up.setRf (rRepFrcfg 2) fRepFrcfgEn 1
def readFrame : State := (framed.setRf (rRepFrstat 2) fRepFrstatClosed 1).setRf (rRepFrstat 2) fRepFrstatReaders 1
theorem wit_frame_waits : Hits (framed.setReg rCusReady (BitVec.ofNat 64 (2 ^ 35))) rRepFrclose ∧
    (framed.setReg rCusReady (BitVec.ofNat 64 (2 ^ 35))).ready 28 = false ∧ framed.late.contains (.close 2) = false ∧
    ({ framed with late := [.close 2] } : State).late.contains (.close 2) = true ∧ framed.cueBusy 2 = false ∧ framed.ready 28 = true :=
  ⟨hits (by decide +kernel), by decide +kernel, by decide +kernel, by decide +kernel, by decide +kernel, by decide +kernel⟩
theorem wit_frame_close : Hits framed rRepFrclose ∧ framed.rb (rRepFrstat 2) fRepFrstatDefer = false ∧
    framed.rb (rRepFrcfg 2) fRepFrcfgEn = true ∧ framed.rb (rRepFrstat 2) fRepFrstatClosed = false ∧
    framed.rb (rRepFrcfg 2) fRepFrcfgClear = false :=
  ⟨hits (by decide +kernel), by decide +kernel, by decide +kernel, by decide +kernel, by decide +kernel⟩
theorem wit_frame_late : Hits readFrame rRepFrclose ∧ readFrame.rb (rRepFrstat 2) fRepFrstatDefer = false ∧
    readFrame.rb (rRepFrcfg 2) fRepFrcfgEn = true ∧ readFrame.rb (rRepFrstat 2) fRepFrstatClosed = true ∧
    0 < readFrame.rf (rRepFrstat 2) fRepFrstatReaders :=
  ⟨hits (by decide +kernel), by decide +kernel, by decide +kernel, by decide +kernel, by decide +kernel⟩
theorem wit_frame_deferred : (framed.setRf (rRepFrstat 2) fRepFrstatDefer 1).rb (rRepFrstat 2) fRepFrstatDefer = true ∧
    (framed.setRf (rRepFrstat 2) fRepFrstatDefer 1).rf (rRepFrstat 2) fRepFrstatReaders = 0 := by decide +kernel
theorem wit_frame_enable : ∃ a, Reaches up c0 (rRepFrcfg 2) a ∧
    (!up.frBusy 2 (up.wouldBe a ((0 : Word).setBit 34 true) (BitVec.allOnes 64)) && !up.rb (rRepFrcfg 2) fRepFrcfgEn &&
      (up.storeReg (up.auth c0).src a ((0 : Word).setBit 34 true) (BitVec.allOnes 64) false).rb (rRepFrcfg 2) fRepFrcfgEn) = true :=
  hitsWith (by decide +kernel) (by decide +kernel)

/-- Engine 1 with a partition of one slot of the whole cycle, enabled; and in force. -/
def partitioned : State :=
  (((up.setRf (rEngTpctl 1) fEngTpctlEn 1).setRf (rEngTpctl 1) fEngTpctlCycle 1000).setRf (rEngTpslot 1 0) fEngTpslotLen 1000)
theorem wit_tp_cycle : (partitioned.tpOf 1).on = false ∧ partitioned.rb (rEngTpctl 1) fEngTpctlEn = true ∧
    partitioned.time % partitioned.rf (rEngTpctl 1) fEngTpctlCycle =
      partitioned.rf (rEngTpphase 1) fEngTpphasePhase % partitioned.rf (rEngTpctl 1) fEngTpctlCycle ∧
    (partitioned.tpSlots 1).foldl (fun k y => k + y.1) 0 ≤ partitioned.rf (rEngTpctl 1) fEngTpctlCycle := by decide +kernel
theorem wit_tp_cut : partitioned.rf (rEngTpctl 1) fEngTpctlCycle <
    ((partitioned.setRf (rEngTpslot 1 0) fEngTpslotLen 2000).tpSlots 1).foldl (fun k y => k + y.1) 0 := by decide +kernel
/-- A table in force whose slot of 400 µs began at 0. -/
def slotted (now : Nat) : State := up.setTp 1 ⟨true, 0, 1000, [(400, 0, false)], some now, none⟩
theorem wit_tp_boundary : ((slotted 1).tpOf 1).on = true ∧ slotAt ((slotted 1).tpOf 1).slots 0 (slotted 1).time = some 0 ∧
    ((slotted 1).tpOf 1).slot = some 1 ∧ (slotted 1).qBusy 2 = false ∧ (slotted 1).qBusy 3 = false ∧
    ((slotted 0).tpOf 1).slot = some 0 := by decide +kernel
theorem wit_tp_busy : let s := (oneRuns 1 3).setTp 0 ⟨true, 0, 1000, [(400, 0, false)], some 1, none⟩
    (s.qBusy 0 || s.qBusy 1) = true ∧ (s.tpOf 0).on = true := by decide +kernel

/-- Comparator 2 with its full proof running. -/
def proving : State := up.setCus { up.cus with proofs := [2] }
theorem wit_full_proof : 2 ∈ proving.cus.proofs ∧ (2048 : BitVec 12).toNat = 2048 ∧ 1 ∉ proving.cus.proofs := by decide +kernel
theorem wit_periodic : (inMode 4).mode = 4 ∧ (inMode 4).repActive 0 = true ∧ (inMode 6).mode ≠ 4 ∧ (inMode 6).mode ≠ 5 := by
  decide +kernel
theorem wit_substitute : (inMode 6).serving 0 = some 0 ∧ (inMode 6).swapMode = true ∧ (inMode 6).isFree (ixCmp 4) = true ∧
    (inMode 6).proven 0 = false ∧ ((inMode 6).setRf (rRepCstat 4) fRepCstatProven 1).proven 4 = true := by decide +kernel
/-- The swap of comparator 0 is the next; comparator 4 is free, or retired. -/
def cmpSwap (gone : Bool) : State :=
  let s := (((inMode 6).setRf (rRepCstat 0) fRepCstatProven 1).setRf (rRepCstat 4) fRepCstatProven 1).queueSwap (ixCmp 0) none true
  if gone then s.setRecOf (ixCmp 4) { s.recOf (ixCmp 4) with worn := true } else s
theorem wit_substitute_turn : (cmpSwap false).serving 0 = some 0 ∧ (cmpSwap false).proven 0 = true ∧ (cmpSwap false).proven 4 = true ∧
    (cmpSwap false).isFree (ixCmp 4) = true ∧ (cmpSwap false).nextSwap.any (fun r => r.index == ixCmp 0) = true ∧
    (cmpSwap true).isFree (ixCmp 4) = false ∧ (cmpSwap true).nextSwap.any (fun r => r.index == ixCmp 0) = true ∧
    (inMode 9).swapMode = false := by decide +kernel
/-- Every comparator proven, in mode `m`. -/
def provenIn (m : Nat) : State := [0, 1, 2, 3].foldl (fun u k => u.setRf (rRepCstat k) fRepCstatProven 1) (inMode m)
theorem wit_pairing : Hits (provenIn 4) rRepMode ∧ (provenIn 4).cus.target = none ∧ (provenIn 4).mode = 4 ∧
    (provenIn 4).proofOk = true :=
  ⟨hits (by decide +kernel), by decide +kernel, by decide +kernel, by decide +kernel⟩
theorem wit_pairing_refused : Hits up rRepMode ∧ up.cus.target = none ∧ up.mode = 2 ∧ Hits (inMode 4) rRepMode ∧
    (inMode 4).proofOk = false := ⟨hits (by decide +kernel), by decide +kernel, by decide +kernel, hits (by decide +kernel), by decide +kernel⟩
theorem wit_pairing_waits : Hits (up.setCus { up.cus with target := some 3 }) rRepMode ∧
    (up.setCus { up.cus with target := some 3 }).rb rRepMstat fRepMstatHandover = false := ⟨hits (by decide +kernel), by decide +kernel⟩
theorem wit_pairing_change : let s := up.setRf rRepMstat fRepMstatHandover 1
    s.rb rRepMstat fRepMstatHandover = true ∧ (s.qBusy 0 || s.qBusy 1) = false := by decide +kernel

/-! ### Cues and faults -/

theorem wit_fire : Hits up (rCueFires 0) ∧ up.rf (rCueChcfg 5) fCueChcfgWorld = 0 ∧ Hits up (rCueFires 1) ∧
    up.rf (rCueChcfg 5) fCueChcfgWorld ≠ 1 :=
  ⟨hits (by decide +kernel), by decide +kernel, hits (by decide +kernel), by decide +kernel⟩
theorem wit_groups : Hits up rCueGrpset ∧ Hits up rCueGrpclr := ⟨hits (by decide +kernel), hits (by decide +kernel)⟩
/-- Timer 3 enabled with a period of 10 µs. -/
def timed : State := (up.setRf (rCueTimer 3) fCueTimerEn 1).setRf (rCueTimer 3) fCueTimerPeriod 10
theorem wit_timer : timed.rb (rCueTimer 3) fCueTimerEn = true ∧ timed.time % timed.rf (rCueTimer 3) fCueTimerPeriod =
    timed.rf (rCueTphase 3) fCueTphasePhase % timed.rf (rCueTimer 3) fCueTimerPeriod ∧
    Tab.get timeDefault timed.cue.timerAt 3 ≠ some timed.time := by decide +kernel
theorem wit_rate_limit : let s := (up.setRf (rCueChcfg 5) fCueChcfgRatelim 1).setRf (rCueChcfg 5) fCueChcfgRateoff 1
    (decidedFiring (attempted s 5) 5).attempts 5 = (decidedFiring (attempted s 5) 5).rf (rCueChcfg 5) fCueChcfgRatelim := by
  decide +kernel
/-- Pin 4 in level mode, enabled, active since the start. -/
def pinned : State := nxt (.cueInActivation 4) ((up.setRf (rCuePincfg 4) fCuePincfgMode 1).setRf (rCuePincfg 4) fCuePincfgEn 1)
theorem wit_pin : up.pinActive 4 = false ∧ pinned.pinActive 4 = true ∧ pinned.rb (rCuePincfg 4) fCuePincfgMode = true ∧
    pinned.pinFires 4 = true ∧ Tab.get timeDefault pinned.cue.activeAt 4 = some 0 ∧
    pinned.spacedSince 228 (Tab.get firedDefault pinned.cue.tried 4) = false ∧
    ({ pinned with time := 10000000, beats := 10000000000 } : State).spacedSince 228 (Tab.get firedDefault pinned.cue.tried 4) = true ∧
    0 + pinned.rf (rCuePincfg 4) fCuePincfgStuckt ≤ ({ pinned with time := 10000000 } : State).time := by decide +kernel
theorem wit_pincfg : ∃ a, Reaches up c0 (rCuePincfg 4) a ∧ (let t := up.storeReg (up.auth c0).src a 0 (BitVec.allOnes 64) false
    (t.reg (rCuePincfg 4) &&& 7) == (up.reg (rCuePincfg 4) &&& 7)) = true := hitsWith (by decide +kernel) (by decide +kernel)
theorem wit_pincfg_polarity : ∃ a, Reaches up c0 (rCuePincfg 4) a ∧
    (let t := up.storeReg (up.auth c0).src a 1 (BitVec.allOnes 64) false
    (t.reg (rCuePincfg 4)).bit 0 && !(up.reg (rCuePincfg 4)).bit 0 && !t.pinActive 4) = true :=
  hitsWith (by decide +kernel) (by decide +kernel)
theorem wit_pulse : Tab.get flagDefault ({ up with cue := { up.cue with pulsing := [(6, true)] } } : State).cue.pulsing 6 = true := by
  decide +kernel
theorem wit_inject : (∃ a, Reaches up c0 (faultBase 0 + 0xF50) a ∧ (a.blk.kindMask.testBit 1 && !a.blk.kindMask.testBit 31) = true) :=
  hitsWith (by decide +kernel) (by decide +kernel)
theorem wit_raised : let f := Flt.plain .cus 0 3
    (up.reg (rFltStat (f.blk.at f.inst))).bit f.kind = false ∧
    ((up.raise f).reg (rFltStat (f.blk.at f.inst))).bit f.kind = true := by decide +kernel
theorem wit_alarm : ({ up with alarmEnd := some 0 } : State).alarmEnd = some 0 ∧ 0 ≤ up.time := by decide +kernel

/-! ### Callers from outside, interrupts -/

/-- The supervisor's table of caller 0 reloads from the scratchpad. -/
def reloading : State := up.setCal 0 { up.cal 0 with tabS := ⟨scp, [], false, true⟩ }
theorem wit_reload : ((reloading.cal 0).tab .s).busy = true ∧
    reloading.target ((reloading.cal 0).tab .s).base.toNat = .mem 0x40000000 ∧ reloading.memReady 0x40000000 = true ∧
    (match (reloading.readMem Paths.data .free 0x40000000 512).2 with | .ok bs => bs.length | .error _ => 0) = 512 := by decide +kernel
/-- Caller 1 beside a caller 0 in hold. -/
def onHold : State := (up.setCal 0 { up.cal 0 with hold := true, asleep := true }).setCal 1 { up.cal 0 with pc := 0 }
theorem wit_world_write : (∃ a, Reaches up (.caller 1) (rCalWorld 2) a) ∧ (up.auth (.caller 1)).otherMachine 2 = true ∧
    up.quiesced 2 = true := ⟨reaches_of_test (by decide +kernel), by decide +kernel, by decide +kernel⟩
theorem wit_world_locked : Hits up (rCalWorld 0) ∧ (up.auth c0).custody = false ∧ (up.auth c0).otherMachine 0 = false :=
  ⟨hits (by decide +kernel), by decide +kernel, by decide +kernel⟩
theorem wit_wsbase : Hits up (rCalWsbase 2) ∧ up.quiesced 2 = true ∧ Hits up (rCalWsbase 0) ∧ up.quiesced 0 = false :=
  ⟨hits (by decide +kernel), by decide +kernel, hits (by decide +kernel), by decide +kernel⟩
theorem wit_restart : (∃ a, Reaches onHold (.caller 1) (rCalRestart 0) a) ∧ (onHold.auth (.caller 1)).otherMachine 0 = true ∧
    (onHold.cal 0).hold = true ∧ onHold.cus.curtain = false :=
  ⟨reaches_of_test (by decide +kernel), by decide +kernel, by decide +kernel, by decide +kernel⟩

/-- Source 9 pends for caller 0, with priority 15, at a user program with STATUS.IES = `ies`. -/
def pending9 (ies : Nat) : State :=
  let s := ((handled 0).setReg (rIdsSrccfg 9) 0x100F1).setRf (rIdsSrcstat 9) fIdsSrcstatPend 1
  (s.setRf (rIdsCalctl 0) fIdsCalctlEn 1).setCal 0 { s.cal 0 with status := BitVec.ofNat 64 (4 * ies) }
/-- The same while the caller's table reloads. -/
def offeredIn (ies : Nat) : State :=
  let s := pending9 ies
  s.setCal 0 { s.cal 0 with tabS := { (s.cal 0).tabS with busy := true } }
theorem wit_offer : (pending9 1).bestSource 0 = some 9 ∧ (pending9 1).accepts 0 false 0x3F = true ∧
    (pending9 1).rb (rIdsSrccfg 9) fIdsSrccfgLevel = false ∧ ((pending9 1).cal 0).shadow = none ∧
    (((pending9 1).cal 0).tab .s).handler 0x3F ≠ none ∧ ((pending9 1).cal 0).r.resident < 14 ∧
    ((pending9 1).cal 0).orders = [] := by decide +kernel
theorem wit_offer_waits : (nxt (.interruptOffer 0) (offeredIn 1)).offerAt 0 = some 9 ∧
    (pending9 1).offerAt 0 = none ∧
    ((nxt (.interruptOffer 0) (offeredIn 1)).viewCalstat 0 0 != up.viewCalstat 0 0) = true := by decide +kernel
theorem wit_offer_refused : (pending9 0).bestSource 0 = some 9 ∧ (pending9 0).accepts 0 false 0x3F = false ∧ up.bestSource 0 = none := by
  decide +kernel
theorem wit_srcstat : Hits up (rIdsSrcstat 9) ∧ up.rb (rIdsSrcstat 9) fIdsSrcstatPend = false ∧
    up.rb (rIdsSrcstat 9) fIdsSrcstatActive = false := ⟨hits (by decide +kernel), by decide +kernel, by decide +kernel⟩
/-- Source 9 active at caller 0. -/
def active9 : State := (up.setRf (rIdsSrcstat 9) fIdsSrcstatActive 1)
theorem wit_eoi : Hits active9 rIdsEoi ∧ active9.rb (rIdsSrcstat 9) fIdsSrcstatActive = true ∧
    (active9.auth c0).src = 0x80 + 2 * active9.rf (rIdsSrcstat 9) fIdsSrcstatActcal ∧
    active9.rf (rIdsSrcstat 9) fIdsSrcstatCount = 0 ∧ up.rb (rIdsSrcstat 9) fIdsSrcstatActive = false :=
  ⟨hits (by decide +kernel), by decide +kernel, by decide +kernel, by decide +kernel, by decide +kernel⟩

/-! ### Modes, reset, power, sensors, test pins -/

theorem wit_modectl : ∃ a, Reaches up c0 rCusModectl a ∧
    (let u := up.storeReg (up.auth c0).src a (BitVec.ofNat 64 (9 + 2 ^ 4 * 0 + 2 ^ 8)) (BitVec.allOnes 64) false
    u.cus.target == none && u.mode == 2) = true := hitsWith (by decide +kernel) (by decide +kernel)
theorem wit_modectl_refused : ∃ a, Reaches up c0 rCusModectl a ∧
    (let u := up.storeReg (up.auth c0).src a (BitVec.ofNat 64 (11 + 2 ^ 4 * 4 + 2 ^ 8)) (BitVec.allOnes 64) false
    u.cus.target == none && u.mode == 2) = true := hitsWith (by decide +kernel) (by decide +kernel)
theorem wit_modectl_asks : mayAsk up 9 ∧ mayAsk up 8 ∧ ¬ mayAsk up 11 ∧ ¬ mayAsk up 3 ∧ mayAsk (inMode 4) 3 ∧ mayAsk (inMode 4) 11 := by
  refine ⟨?_, ?_, ?_, ?_, ?_, ?_⟩ <;> simp only [mayAsk] <;> decide +kernel
theorem wit_modectl_waits : Hits (up.setCus { up.cus with target := some 3 }) rCusModectl := hits (by decide +kernel)

/-- `s` with a pin level, a mode's target or a time of the custody controller changed. -/
def cus (f : CusSt → CusSt) (s : State) : State := s.setCus (f s.cus)
theorem wit_reset_fall : up.cus.resetN = true ∧ up.cus.target = none ∧ 2 ≤ up.mode ∧ up.mode ≤ 9 ∧ (inMode 0).mode = 0 ∧
    (inMode 0).cus.aon = true ∧ (inMode 1).mode = 1 := by decide +kernel
theorem wit_reset_rise : let s : State := { cus (fun c => { c with resetN := false }) (inMode 1) with time := 10 }
    s.cus.resetN = false ∧ s.mode = 1 ∧ s.cus.target = none ∧ s.cus.pfailN = true ∧ s.cus.resetAt + 10 ≤ s.time ∧
    s.cus.pfailAt + 10 ≤ s.time := by decide +kernel
theorem wit_reset_held : let s : State := { cus (fun c => { c with heldRise := true }) (inMode 1) with time := 10 }
    s.cus.heldRise = true ∧ s.cus.resetN = true ∧ s.mode = 1 ∧ s.cus.resetAt + 10 ≤ s.time := by decide +kernel
theorem wit_pfail : up.cus.pfailN = true ∧ up.cus.target = none ∧ up.mode = 2 ∧ ¬ (2 ≤ (inMode 1).mode ∨ (inMode 1).mode = 11) ∧
    (cus (fun c => { c with pfailN := false }) up).cus.pfailN = false ∧ (cus (fun c => { c with aon := false }) up).cus.aon = false ∧
    up.cus.aon = true ∧ up.mode ≠ 0 := by decide +kernel
theorem wit_transition : (cus (fun c => { c with target := some 8 }) up).cus.target = some 8 ∧
    (cus (fun c => { c with target := some 8 }) up).rb rRepMstat fRepMstatHandover = false ∧ up.cus.target = none := by decide +kernel
theorem wit_rehearsal : (let s : State := { inMode 3 with time := 5000000 }
      s.cus.rehAt + 5000000 ≤ s.time ∧ s.mode = 3 ∧ s.cus.proofs = [] ∧ s.cus.target = none) ∧ (inMode 3).rehearsed = false ∧
    (inMode 3).mode = 3 ∧ (inMode 3).cus.proofs = [] ∧ (inMode 3).cus.target = none ∧
    (provenIn 3).proofOk = true ∧ ((inMode 3).setRf rCusModectl fCusModectlAfter 4).rf rCusModectl fCusModectlAfter = 4 ∧
    (inMode 3).proofOk = false := by decide +kernel
/-- Every self-test of Rehearsal has ended. -/
def testedAll : State := (inMode 3).setCus { (inMode 3).cus with tested := testPlan }
theorem wit_rehearsal_tested : (∀ k, k < 4 → testedAll.ready (24 + k) = true) ∧
    ∀ i ∈ testPlan, testedAll.domOn (resDomain i) = true → i ∈ testedAll.cus.tested :=
  ⟨by decide +kernel, fun _ h _ => h⟩
theorem test_call_up : (let s : State := { cus (fun c => { c with resetN := false }) (inMode 1) with time := 10 }
    let t := nxt .resetNRise s
    (t.mode, (t.cal 0).on, (t.cal 0).pc, (t.cal 1).on)) = (2, true, 0, false) := by decide +kernel

theorem wit_die : 2 ≤ up.mode ∧ (inMode 1).mode < 2 ∧ up.restraintCause = 0 := by decide +kernel
/-- Restrained, with 100 ms of calm. -/
def calmed : State := { cus (fun c => { c with cool := some 0 }) (up.setRf rPwrRstat fPwrRstatActive 1) with time := 100000 }
theorem wit_restraint : calmed.cus.cool = some 0 ∧ calmed.rb rPwrRstat fPwrRstatActive = true ∧ 0 + 100000 ≤ calmed.time := by
  decide +kernel
theorem wit_overtemp : let s : State := { cus (fun c => { c with hot := [(3, some 0)] }) up with time := 1000 }
    Tab.get timeDefault s.cus.hot 3 = some 0 ∧ 0 + 1000 ≤ s.time ∧ Tab.get timeDefault up.cus.hot 3 = none := by decide +kernel
theorem wit_test_port : up.cus.tap.held = true ∧ up.cus.resetN = true ∧
    (nxt .trstNHigh (cus (fun c => { c with resetN := false }) up)).cus.tap.held = false := by decide +kernel
theorem test_idcode : (nxt .idcode (nxt .trstNHigh up)).cus.tap.dr = 0x0416038B := by decide +kernel

theorem wit_calstart : Hits up rCusCalstart := hits (by decide +kernel)
theorem wit_ready : (State.reset.readyDoms 28).all State.reset.domOn = true ∧ State.reset.ready 28 = false ∧ up.ready 28 = true := by
  decide +kernel
theorem wit_bootload : Hits up rCusBootload ∧ up.rb rCusBootload fCusBootloadBusy = false := ⟨hits (by decide +kernel), by decide +kernel⟩
/-- A boot log of one record, of one byte, with its seal behind it. -/
def bootLog : ArcLog :=
  let x := { ArcLog.empty with bytes := [(0x10, 1), (64, 7)] }
  let k := crc32c.of (x.read 0 65)
  let x := { x with bytes := x.bytes ++ [0, 1, 2, 3].map fun i => (68 + i, BitVec.ofNat 8 (k / 256 ^ i)) }
  { x with pages := [⟨0, 0, 0, 0, 0, [⟨0, 0, 76, false, crc64Ecma.of (x.read 0 76)⟩]⟩] }
/-- A boot load of copy 0 runs; its log holds that record. -/
def booting : State :=
  { up with arc := { up.arc with
    trained := true, load := some false, tgts := [(0, ⟨true, false, [⟨false, 0, 0⟩]⟩)], logs := [(2, bootLog)] } }
theorem wit_boot_done : booting.arc.load = some false ∧ booting.ready 30 = true ∧ booting.ready 28 = true ∧ (booting.tgt 0).used = true := by
  decide +kernel
set_option maxRecDepth 100000 in
theorem wit_boot_newest :
    (match booting.bootNewest false with | some (c, bs) => bs == [7] && (booting.log 2).sound c | none => false) = true ∧
    up.bootNewest false = none := by decide +kernel
/-- Whether a sound image passes its check at this time is open (R628): either way one of the clauses applies. -/
theorem wit_boot_sound : Config.bootSound false booting.time = true ∨ Config.bootSound false booting.time = false := by
  cases Config.bootSound false booting.time <;> decide
theorem wit_domains : Hits up rPwrDomctl ∧ up.mode = 2 := ⟨hits (by decide +kernel), by decide +kernel⟩

/-! ### The configuration space -/

/-- The conditions of `ReadReaches`, as a test, and a test on the register. -/
def readsAt (s : State) (m : Master) (off : Nat) : Bool :=
  s.cfgOpen (s.auth m) off && (match cfgDecode off 8 false with
    | some (.reg a) => !ringHidden (s.auth m) (.reg a) && s.blkOn a
    | _ => false) && (okTarget (s.check (s.auth m).view .rd (cfgBase + off))).isSome
theorem reads {s : State} {m : Master} {off : Nat} (h : readsAt s m off = true) : ∃ a, ReadReaches s m off a := by
  simp only [readsAt, Bool.and_eq_true] at h
  obtain ⟨⟨h1, h2⟩, h3⟩ := h
  split at h2
  · rename_i a ha
    simp only [Bool.and_eq_true, Bool.not_eq_true'] at h2
    refine ⟨a, h1, ha, ?_, h2.1, h2.2⟩
    simp only [okTarget] at h3
    split at h3
    · exact ⟨_, ‹_›⟩
    · cases h3
  · cases h2
theorem wit_clearing_read : ClearingRead c0 (.engRejectRead c0 0 .safety) (rEngReject 0 0) ∧ (∃ a, ReadReaches up c0 (rEngReject 0 0) a) ∧
    ∃ a, ReadReaches up c0 rCfgClamplog a := ⟨.reject 0 .safety, reads (by decide +kernel), reads (by decide +kernel)⟩
theorem test_reject_clears : (let s := up.setRf (rEngReject 0 0) fEngRejectValid 1
    let t := nxt (.engRejectRead c0 0 .safety) s
    (t.rdata = s.reg (rEngReject 0 0), t.reg (rEngReject 0 0))) = (True, 0) := by
  refine Prod.ext (propext ⟨fun _ => trivial, fun _ => by decide +kernel⟩) (by decide +kernel)
theorem wit_register_write : ∃ a, Reaches up c0 (rEngObase 0 0 1) a ∧ (decide (a.d.reg ≠ .cfgCommit ∧ a.d.reg ≠ .lnkSecctl ∧
    a.d.reg ≠ .lnkTxsctl) && (up.writeAlone (up.auth c0) a 64 (BitVec.allOnes 64) false).isNone && !up.cfg.locked &&
    a.d.flds.all fun f => decide (f.clamp ≠ .classMask) && !(f.fix 64 ((64 : Word).fld f.lsb f.w)).2) = true :=
  hitsWith (by decide +kernel) (by decide +kernel)
theorem test_register_write : (nxt (.registerWrite c0 (BitVec.ofNat 48 (cfgBase + rEngObase 0 0 1)) 8 0x1234) up).reg (rEngObase 0 0 1) =
    0x1234 := by decide +kernel

theorem wit_staging : up.cfgOpen (up.auth c0) (0x3110000 + 8) = true ∧ (8 : BitVec 16).toNat % 8 = 0 ∧ (up.auth c0).machine = true ∧
    up.cfg.run = none ∧ okTarget (up.check (up.auth c0).view .wr (cfgBase + (0x3110000 + 8))) ≠ none := by decide +kernel
theorem wit_commit : Hits up rCfgCommit ∧ (up.auth c0).machine = true := ⟨hits (by decide +kernel), by decide +kernel⟩
theorem wit_abort : (inMode 11).mode = 11 ∧ (inMode 11).cus.target = none ∧
    ((inMode 11).setRf rCusMode fCusModeEntry 4).rf rCusMode fCusModeEntry = 4 ∧
    Hits ((inMode 11).setRf rCusMode fCusModeEntry 4) rCfgCommit :=
  ⟨by decide +kernel, by decide +kernel, by decide +kernel, hits (by decide +kernel)⟩
/-- A preview, a commit in Call and in Refit under way. -/
def applying (preview : Bool) (m : Nat) : State := { inMode m with cfg := { up.cfg with run := some (preview, 0) } }
theorem wit_applied : (applying true 2).cfg.run = some (true, 0) ∧ (applying false 2).cfg.run = some (false, 0) ∧
    (applying false 2).mode = 2 ∧ (applying false 2).cfg.placed = false ∧ (applying false 11).mode = 11 := by decide +kernel
theorem wit_placement_move : let s : State := { up with cfg := { up.cfg with moves := [(0x3E, 0)] } }
    s.cfg.moves = [(0x3E, 0)] ∧ s.cfg.run = none ∧ s.mode = 2 ∧ s.worn 0x3E = false ∧
    (s.setRecOf 0x3E { s.recOf 0x3E with worn := true }).worn 0x3E = true ∧ (inMode 8).mode ≠ 2 := by decide +kernel
theorem wit_digest : up.ready 50 = true ∧ up.cfg.digest = none ∧ up.digestUnit = true ∧ up.time % 1000 = 0 ∧
    ({ up with cfg := { up.cfg with digest := some 5 } } : State).cfg.digest = some 5 ∧ (up.sea 5).holder ≠ some 33 ∧ up.cfg.again = false := by
  decide +kernel

/-! ### Memories and arbiters -/

theorem wit_hbm_temp : 2 ≤ up.mode ∧ up.domOn 30 = true ∧ toSigned 9 (60 : BitVec 9).toNat ≤ 150 ∧
    (up.setRf (rHbcTemp 0) fHbcTempTemp 60 |>.setRf (rHbcTemp 0) fHbcTempValid 1).restrained = false := by decide +kernel
theorem wit_hbm_band : let s : State := { (up.setRf (rHbcTemp 0) fHbcTempBand 5).setRf (rHbcTemp 0) fHbcTempForced 0 with
      hbc := [(0, { HbcSt.empty with below := [none, some 0, none, none, none] })], time := 100000 }
    s.rb (rHbcTemp 0) fHbcTempForced = false ∧ s.domOn 30 = true ∧ 1 < s.rf (rHbcTemp 0) fHbcTempBand ∧
    ((s.hb 0).below[1]?).join = some 0 ∧ 0 + 100000 ≤ s.time := by decide +kernel
theorem wit_hbm_scrub : (7 : BitVec 23).toNat < granules ∧ up.ready 24 = true ∧
    ∀ i, i < 8 → (scrubCounted up 0).bad (up.granuleAddr 0 7 + 32 * i) = false := by decide +kernel
theorem wit_hbm_scrub_bad : (scrubCounted (up.setBad (up.granuleAddr 0 7) true) 0).bad (up.granuleAddr 0 7) = true := by decide +kernel
theorem wit_hbm_repair : let s := (up.setRf (rHbcPprctl 0) fHbcPprctlOnline 1).setHb 0 { up.hb 0 with cands := [(3, 9)] }
    s.rb (rHbcPprctl 0) fHbcPprctlOnline = true ∧ s.ready 24 = true ∧ (s.hb 0).cands = [(3, 9)] := by decide +kernel
theorem wit_hbm_retire : Hits up (rHbcRetent 0) ∧ (up.ret 0 0).1 = 0 ∧
    (5 : Word).fld fHbcRetentState.lsb fHbcRetentState.w = 5 % 2 ^ fHbcRetentState.w := ⟨hits (by decide +kernel), by decide +kernel, by decide +kernel⟩
theorem wit_scp_scrub_due : Tab.get optDefault up.banks.scrubs 4 = none ∧
    (let s := nxt (.scpScrub 4 .none) up
     Tab.get optDefault s.banks.scrubs 4 = some 0 ∧ ¬ 0 / (1000 * s.rf rScpScrub fScpScrubPeriod) < s.time / (1000 * s.rf rScpScrub fScpScrubPeriod)) := by
  decide +kernel
theorem wit_scp_scrub : up.ready 28 = true ∧ up.bad (scpBase + 8 * 4) = false ∧
    (up.setBad (scpBase + 8 * 4) true).bad (scpBase + 8 * 4) = true := by decide +kernel
/-- A copy of bank 7 under way. -/
def copying : State := { up with banks := { up.banks with copying := [(0, some 7)] } }
theorem wit_swap_bank : Hits up rScpSwap ∧ (up.auth c0).machine = true ∧ Tab.get optDefault up.banks.copying 0 = none ∧
    Tab.get natDefault up.banks.used 0 < 16 ∧ Hits copying rScpSwap ∧ Tab.get optDefault copying.banks.copying 0 = some 7 ∧
    copying.banks.waiting = [] := ⟨hits (by decide +kernel), by decide +kernel, by decide +kernel, by decide +kernel,
      hits (by decide +kernel), by decide +kernel, by decide +kernel⟩
theorem wit_swap_worn : let s := { up with banks := { up.banks with used := [(0, 16)], worn := [(7, true)] } }
    16 ≤ Tab.get natDefault s.banks.used 0 ∧ Tab.get flagDefault s.banks.worn 7 = true := by decide +kernel
theorem wit_grant : isArbiter 0 0 = true ∧ isRequester 5 = true ∧ isRequester 0x60 = true ∧ isArbiter 3 4095 = false := by decide +kernel

/-! ### Understudies -/

/-- A swap of engine 0 waits, in mode 6. -/
def swapping : State := (inMode 6).queueSwap 0 none true
/-- Swaps of a lane, a caller and a seal unit, in mode 6. -/
def swapOf (i : Nat) : State := (inMode 6).queueSwap i none true
theorem wit_swaps : ∀ p ∈ [(0x100, 0), (0x20, 2), (ixSea 0, 4)],
    (swapOf p.1).nextSwap.any (fun r => r.kind == p.2 && r.index == p.1) = true ∧ (swapOf p.1).spares p.1 none ≠ [] := by decide +kernel
/-- The swap of an engine that has no understudy; of a running and of a failed order's engine; of a caller with a frame. -/
def noUnderstudy : State := (List.range 20).foldl (fun s i => s.setRecOf (ixEng i) { s.recOf (ixEng i) with worn := true }) swapping
def migrating (failed : Bool) : State :=
  let s := (oneRuns 1 3).setRf rCusMode fCusModeMode 6
  (if failed then withRun (fun r => { r with failed := some ⟨6, 0, 5, 4⟩ }) s else s).queueSwap 0 none true
def calSwap : State := let s := swapOf 0x20
  s.setCal 0 { s.cal 0 with r := { (s.cal 0).r with resident := 1 } }
theorem wit_swap_none : noUnderstudy.nextSwap.any (fun r => r.kind == 1) = true ∧ noUnderstudy.spares 0 none = [] := by decide +kernel
theorem wit_swap_readies : (migrating false).nextSwap.any (fun r => r.kind == 1) = true ∧
    (swapReadied (migrating false) 1 0).qBusy 0 = false ∧ (swapReadied (migrating true) 1 0).qBusy 0 = true ∧
    ((swapReadied calSwap 2 0).cal 0).handsOver = false ∧ ((swapReadied (swapOf 0x20) 2 0).cal 0).handsOver = true ∧
    ((swapReadied calSwap 2 0).cal 0).want = 1 := by decide +kernel
theorem wit_swap_begun : let s := (swapReadied calSwap 2 0).setRf rCusMode fCusModeMode 9
    s.swapMode = false ∧ s.nextSwap.any (fun r => s.begun r) = true := by decide +kernel
theorem wit_swap : swapping.swapMode = true ∧ (swapping.nextSwap).any (fun r => r.kind == 1 && r.index == 0 && r.phys == none) = true ∧
    swapping.spares 0 none ≠ [] ∧ up.nextSwap = none := by decide +kernel
/-- Mode 6 at a time at which the windows of beat monitors have passed. -/
def later (s : State) : State := { s with time := 1000 }
theorem wit_beat_due : ∀ i, i ∈ [0x20, 0x27, 0x28, 0x29, 0x800, 0x84F] → (later up).domOn (resDomain i) = true ∧
    ((later up).phys i).beatAt + 10 ≤ (later up).time ∧ (later up).worn i = false := by decide +kernel
theorem wit_beat_first : ((inMode 6).recOf 0x21).base = 0 ∧ 3 ≤ (inMode 6).mode ∧ (later (inMode 6)).cus.callEnd + 10 ≤ (later (inMode 6)).time ∧
    ¬ (up.phys 0x21).beatAt + 10 ≤ up.time := by decide +kernel
theorem wit_beat_drift : let s := later (up.setRecOf 0x21 { up.recOf 0x21 with base := 1000 })
    (s.recOf 0x21).base ≠ 0 ∧ Int.tdiv (((500 : BitVec 16).toNat - 1000) * 1000) 1000 ≤ -s.driftLim := by decide +kernel
theorem wit_beat : 0x20 ≤ (0x21 : BitVec 12).toNat ∧ (0x21 : BitVec 12).toNat < 0x2A ∧ 1350 ≤ (1400 : BitVec 16).toNat ∧
    (up.recOf 0x21).base = 0 := by decide +kernel
theorem wit_beat_slow : let s := up.setRecOf 0x800 { up.recOf 0x800 with base := 1000 }
    (s.recOf 0x800).base ≠ 0 ∧ s.worn 0x800 = false := by decide +kernel
theorem wit_self_test : up.testable 4 = true ∧ up.domOn (resDomain 4) = true ∧ up.testable 0x20 = false := by decide +kernel
/-- A swap of engine 0 that gives way to the order there. -/
def deferring : State := (((oneOf 1 3).setRf rUstPolicy fUstPolicyDefer 1).setRf rUstPolicy fUstPolicyDeferlim 1).queueSwap 0 none false
theorem wit_deferred : (∃ r ∈ deferring.ust.queue, deferring.deferred r = true) ∧
    ∀ r ∈ swapping.ust.queue, swapping.deferred r = false := by decide +kernel
theorem wit_swap_command : Hits up rUstSwap ∧ up.carrier 0 20 3 = some 3 ∧ up.ust.queue.length < 16 ∧ up.carrier 0x20 10 9 = none :=
  ⟨hits (by decide +kernel), by decide +kernel, by decide +kernel, by decide +kernel⟩

/-! ### The archive -/

/-- The archive trained, with target 3 used and two planes of three bits; both logs of `x`. -/
def archived (x : ArcLog) : State :=
  let s := (up.setRf rArcGeom fArcGeomPlanes 2).setRf rArcGeom fArcGeomBits 3
  { s with arc := { s.arc with trained := true, tgts := [(3, ⟨true, false, [⟨false, 0, 0⟩, ⟨false, 2, 0⟩]⟩)], logs := [(0, x), (1, x)] } }
/-- A record of 200 000 bytes, accepted whole. -/
def filled : ArcLog := { ArcLog.empty with recs := [⟨0, 0, 200000, 200000, false, 7⟩], nextAcc := 1, nextPos := recLen 200000 }
/-- The same with its data programmed in block 0 of target 3. -/
def programmed : ArcLog := { filled with folios := [⟨0, 294912, 1, 3, 0, 0, false⟩] }
/-- Its colophon, and a page with it whose copies go to targets 3 and 3. -/
def colOf : Colophon := programmed.colophon ⟨0, 0, 200000, 200000, false, 7⟩
def pageRun (passed : Bool) : PageRun := ⟨⟨0, 0, 0, 0, 0, [⟨0, 0, recLen 200000, false, 0⟩]⟩, 3, 3, false, passed, false⟩
theorem wit_folio : (archived filled).arcUp = true ∧ ((archived filled).tgt 3).used = true ∧
    ((archived filled).log 0).acceptedTo (98304 - (archived filled).folioSize) 98304 = true ∧
    ((archived filled).log 0).covered (98304 - (archived filled).folioSize) < 98304 ∧ up.arcUp = false := by decide +kernel
theorem leastErased_some (s : State) (t a : Nat) (bs : List Nat) :
    ∃ b, bs.foldl (fun m b => match m with
      | none => some b
      | some a => if (s.blk t b).erases < (s.blk t a).erases then some b else some a) (some a) = some b := by
  induction bs generalizing a with
  | nil => exact ⟨a, rfl⟩
  | cons b bs ih =>
    simp only [List.foldl_cons]
    split
    · exact ih b
    · exact ih a
/-- Where target 3 has one block more than its system blocks, that block is free and takes the next folio. -/
def roomy : State := (archived filled).setTgt 3 ⟨true, false, List.replicate (systemBlocks 3 + 1) ⟨false, 0, 0⟩⟩
theorem wit_open_block : ∃ b, roomy.openBlock 0 3 = some b := by
  have hb : roomy.openBlock 0 3 = roomy.leastErased 3 (roomy.freeBlocks 3) := rfl
  have hm : systemBlocks 3 ∈ roomy.freeBlocks 3 := by
    have ht : (roomy.tgt 3).blocks = List.replicate (systemBlocks 3 + 1) ⟨false, 0, 0⟩ := rfl
    have hi : roomy.inBlock 3 (systemBlocks 3) = [] := rfl
    simp only [State.freeBlocks, List.mem_filter, List.mem_range, State.blk, ht, hi]
    simp
  rw [hb, State.leastErased]
  cases hl : roomy.freeBlocks 3 with
  | nil => rw [hl] at hm; cases hm
  | cons a bs => exact leastErased_some _ _ _ _
/-- No block is open on a target without one. -/
theorem wit_no_block : ((archived filled).setTgt 3 ⟨true, false, []⟩).openBlock 0 3 = none := rfl
/-- A block whose one folio holds a released record. -/
def released : ArcLog := { programmed with
  recs := [], below := 1, pages := [⟨0, 0, 0, 0, 0, [⟨0, 0, recLen 200000, false, 0⟩]⟩] }
set_option maxRecDepth 100000 in
theorem wit_erase : Erasable (archived released) 3 0 ∧ ¬ Erasable (archived programmed) 3 0 ∧ ¬ Erasable (archived released) 3 1 := by
  simp only [Erasable]; decide +kernel
theorem wit_codeword : ((archived programmed).log 0).mapped 4096 = some ⟨0, 294912, 1, 3, 0, 0, false⟩ ∧
    ((archived filled).log 0).mapped 4096 = none ∧ (archived programmed).domOn 43 = true := by decide +kernel
theorem wit_colophon : ((archived { programmed with page := some (pageRun false) }).log 0).page = some (pageRun false) ∧
    ((archived filled).log 0).page = none ∧ ((archived filled).log 0).readyCols = [] ∧
    ((archived programmed).log 0).recReady ⟨0, 0, 200000, 200000, false, 7⟩ = true ∧
    ((archived filled).log 0).recReady ⟨0, 0, 200000, 200000, false, 7⟩ = false ∧ (pageRun true).passed = true := by decide +kernel
/-- Two void records: the page in progress has the first, the next page follows it. -/
def twoVoids : ArcLog := { ArcLog.empty with recs := [⟨0, 0, 1, 0, true, 7⟩, ⟨1, 4096, 1, 0, true, 7⟩], nextAcc := 2, nextPos := 8192 }
theorem wit_page_follows : (twoVoids.readyCols).length = 2 ∧ (pageRun true).page.cols.length < (twoVoids.readyCols).length ∧
    ((nxt .colophonTimer ({ archived { twoVoids with page := some (pageRun false) } with time := 1000000 } : State)).log 0).again = some false := by
  decide +kernel

/-- An ARCAPPEND of one element runs at engine 0. -/
def appending (x : ArcLog) : State := nxt (.orderStart 0 .safety) (offered [0x78, 4, 1, 1, 5, 0] { based with arc := (archived x).arc })
theorem wit_append : headIs (appending ArcLog.empty) (fun x => x.ord.op == .arcappend && x.run.phase == .running &&
    x.run.arcRec == none && x.archiveWaits) = true ∧ (appending ArcLog.empty).ready 30 = true ∧
    (appending ArcLog.empty).arc.closed = false ∧ ((appending ArcLog.empty).log 0).recs.length < 16 := by decide +kernel
/-- Whichever size the log has (log entry 138), the record of the head order finds room in the empty log or does not. -/
theorem wit_append_room : recLen 1 ≤ (appending ArcLog.empty).arcFree 0 ∨
    ((appending ArcLog.empty).arcFree 0 < recLen 1 ∧ headIs (appending ArcLog.empty) (fun x => !x.run.full) = true) := by
  rcases Nat.lt_or_ge ((appending ArcLog.empty).arcFree 0) (recLen 1) with h | h
  · exact .inr ⟨h, by decide +kernel⟩
  · exact .inl h
theorem wit_release : Hits up (rArcRelease 0) ∧ (up.auth c0).machine = true ∧ (up.log 0).below ≤ 0 :=
  ⟨hits (by decide +kernel), by decide +kernel, by decide +kernel⟩
theorem wit_audit : Hits up rArcAudit ∧ up.arc.audit = none ∧ up.seaFree 2 = true :=
  ⟨hits (by decide +kernel), by decide +kernel, by decide +kernel⟩
theorem wit_audit_waits : (up.setRf (rSeaStat 2) fSeaStatHeld 1).seaFree 2 = false := by decide +kernel
theorem wit_audit_end : let s : State := { up with arc := { up.arc with audit := some (1, 2, true) } }
    s.ready 30 = true ∧ s.arc.dry = false ∧ s.arc.audit = some (1, 2, true) := by decide +kernel
theorem wit_bootctl : Hits up rArcBootctl ∧ (16 : BitVec 23).toNat ≤ 0x400000 ∧ up.rb rArcBootctl fArcBootctlBusy = false :=
  ⟨hits (by decide +kernel), by decide, by decide +kernel⟩
theorem wit_bootctl_closed : let s : State := { up with arc := { up.arc with closed := true } }
    s.arc.closed = true ∧ s.ready 30 = true ∧ up.arc.closed = false := by decide +kernel
theorem wit_boot_store : let s : State := { archived filled with arc := { (archived filled).arc with store := some (0x40000000, 2, false) } }
    let s := s.setTgt 0 ⟨true, false, [⟨false, 0, 0⟩]⟩
    s.arc.store = some (0x40000000, 2, false) ∧ s.arcUp = true ∧ (s.tgt 0).used = true ∧ (s.tgt 4).used = false ∧
    (match (s.readMem Paths.plain .free 0x40000000 2).2 with | .ok bs => bs.length | .error _ => 0) = 2 ∧
    (match ((s.setBad 0x40000000 true).readMem Paths.plain .free 0x40000000 2).2 with | .ok _ => false | .error _ => true) = true := by
  decide +kernel
theorem wit_recovery : let s := (archived filled).setReg rCusReady 0
    s.domOn 43 = true ∧ s.arc.trained = true ∧ s.arc.scanned = false ∧ s.ready 30 = false ∧ s.mode ≠ 10 ∧ s.cus.target ≠ some 10 := by
  decide +kernel
theorem wit_recovered : let s := nxt .archiveRecovery ((archived filled).setReg rCusReady 0)
    s.arc.scanned = true ∧ s.domOn 43 = true := by decide +kernel
/-- Flush with one record that is not yet closed, and after its final page is put together. -/
def flushing : State := { inMode 10 with arc := (archived filled).arc }
theorem wit_flush : flushing.mode = 10 ∧ flushing.arcUp = true ∧ flushing.ready 30 = true ∧ (flushing.log 0).recs ≠ [] ∧
    flushing.arc.final = false := by decide +kernel
theorem wit_flush_end : let s := nxt .flushFinalColophon flushing
    s.cus.flushed = false ∧ s.arc.final = true ∧ (s.log 0).page ≠ none ∧ (s.log 1).page ≠ none ∧ s.mode = 10 ∧
    (inMode 10).arcUp = false ∧ (inMode 10).cus.flushed = false := by decide +kernel

/-! ### Links and seals -/

/-- Port 0 enabled, its link up at 25 Gb/s. -/
def linked : State := (up.setRf (rLnkPctl 0) fLnkPctlEn 1).setRf (rLnkPstat 0) fLnkPstatLinkup 1
theorem wit_link : linked.linkIsUp 0 = true ∧ linked.portOn 0 = true ∧ linked.rb (rLnkPctl 0) fLnkPctlAn = true ∧
    up.linkIsUp 0 = false := by decide +kernel
/-- A frame of 64 bytes of zeros, one with a VLAN tag of priority 5 and VLAN 9, and a filter for it. -/
def frame : List Byte := List.replicate 64 0
def tagged : List Byte := List.replicate 12 0 ++ [0x81, 0, 0xA0, 9] ++ List.replicate 48 0
def filtered (sdu : Nat) : State :=
  ((((linked.setRf (rLnkFilt 0 2) fLnkFiltEn 1).setRf (rLnkFilt 0 2) fLnkFiltVid 9).setRf (rLnkFilt 0 2) fLnkFiltAnypcp 1).setRf
    (rLnkFilt 0 2) fLnkFiltMaxsdu sdu).setRf (rLnkFilt 0 2) fLnkFiltRate 0
theorem wit_frame : 64 ≤ frame.length ∧ frame.length ≤ 2048 ∧ vlanTag frame = none ∧ vlanTag tagged = some (5, 9) ∧
    linked.filterFor 0 5 9 = none ∧ (filtered 100).filterFor 0 5 9 = some 2 ∧
    tagged.length - 22 ≤ (filtered 100).rf (rLnkFilt 0 2) fLnkFiltMaxsdu ∧
    (filtered 10).rf (rLnkFilt 0 2) fLnkFiltMaxsdu < tagged.length - 22 ∧ (filtered 100).linkIsUp 0 = true := by decide +kernel
/-- A telegram without payload from 1 to 2, and a stream for it. -/
def telegram : List Byte :=
  let h : List Byte := [0, 0, 0, 1, 0, 0, 0, 2, 0, 0, 0, 1, 0, 0, 1] ++ List.replicate 17 0
  h ++ leBytes 4 (crc32c.of h) |>.take 32
def whole : List Byte :=
  let be (n v : Nat) : List Byte := (leBytes n v).reverse
  telegram ++ be 4 (crc32c.of telegram) ++ be 4 (crc32.of (telegram.map fun b => ~~~b))
def streamed : State :=
  (((linked.setRf (rLnkRxsctl 6) fLnkRxsctlEn 1).setRf (rLnkRxsctl 6) fLnkRxsctlPorts 1).setRf (rLnkRxsid 6) fLnkRxsidSender 1).setRf
    (rLnkRxsid 6) fLnkRxsidReceiver 2
theorem wit_telegram : 0x28 ≤ whole.length ∧ beAt whole 0x0E 1 = 1 ∧ beAt whole 0x0C 2 = 0 ∧ codesHold whole = (true, true) ∧
    streamed.rxStream 0 (beAt whole 0 4) (beAt whole 4 4) = some 6 ∧ linked.rxStream 0 1 2 = none ∧ streamed.linkIsUp 0 = true := by
  decide +kernel
theorem wit_wire : (streamed.setWire 0 [(none, whole)]).wireOf 0 = (none, whole) :: [] ∧ streamed.wireOf 0 = [] ∧
    askustOf (linked.rf (rLnkEtype 0) fLnkEtypeEtype) frame = none ∧
    (let e := linked.rf (rLnkEtype 0) fLnkEtypeEtype
     askustOf e (List.replicate 12 0 ++ [BitVec.ofNat 8 (e / 256), BitVec.ofNat 8 e] ++ whole ++ List.replicate 4 0) = some (none, whole)) := by
  decide +kernel
theorem test_no_time_rejects : (nxt (.askustReceive 0 none whole) (streamed.setWire 0 [(none, whole)])).rf (rLnkRxsstat 6) fLnkRxsstatLastrej = 9 := by decide +kernel
/-- A telegram in the receive buffer of port 0, for relay 5. -/
def buffered : State :=
  let s := ((linked.setRf (rScpRlyctl 5) fScpRlyctlEn 1).setRf (rScpRlyctl 5) fScpRlyctlPkind 1).setRf (rScpRlyctl 5) fScpRlyctlPsel 4
  let s := (s.setRf (rLnkRxsdest 6) fLnkRxsdestDest 0).setRf (rLnkRxsdest 6) fLnkRxsdestRelaysel 4
  ((s.setReg (rMtxWlim 0 0) (BitVec.allOnes 64)).setReg (rMtxWattr 0 0) 0xF).setRxq 0 [(6, [1, 2], 0)]
    |>.setRelay 5 { Relay.empty with credits := 16 }
theorem wit_delivery : buffered.rxqOf 0 = [(6, [1, 2], 0)] ∧ buffered.domOn 44 = true ∧ buffered.rb (rLnkRxsdest 6) fLnkRxsdestDest = false ∧
    buffered.relayFor 1 (buffered.rf (rLnkRxsdest 6) fLnkRxsdestRelaysel) = some 5 ∧ 2 ≤ (buffered.relay 5).room ∧
    (match buffered.checkAll Paths.plain (.win (buffered.relayWorld 5) true) .wr (buffered.relayMain 5 0) 1 with
      | .ok _ => true | .error _ => false) = true := by decide +kernel
/-- gPTP of port 0 on. -/
def ptp : State := (linked.setRf (rLnkPtpctl 0) fLnkPtpctlEn 1).setRf (rLnkPtpctl 0) fLnkPtpctlSynclim 100
theorem wit_ptp_mine : ptp.rf (rLnkPtpctl 0) fLnkPtpctlDomain = (0 : BitVec 8).toNat ∧ ptp.rf (rLnkPtpctl 0) fLnkPtpctlDomain ≠ (1 : BitVec 8).toNat ∧
    ((ptp.setPtp 0 { ptp.ptp 0 with best := some (5, 9) }).ptp 0).best = some (5, 9) := by decide +kernel
theorem wit_link_fec : ((linked.setRf (rLnkPctl 0) fLnkPctlAn 0).setRf (rLnkPctl 0) fLnkPctlSpeed 1).rb (rLnkPctl 0) fLnkPctlAn = false ∧
    ((linked.setRf (rLnkPctl 0) fLnkPctlSpeed 1).setRf (rLnkPctl 0) fLnkPctlFec 1).rf (rLnkPctl 0) fLnkPctlFec = 1 := by decide +kernel
theorem wit_ptp : ptp.ptpOn 0 = true ∧ (40 : BitVec 32).toInt.natAbs ≤ ptp.rf (rLnkPtpctl 0) fLnkPtpctlSynclim ∧
    ptp.rf (rLnkPtpctl 0) fLnkPtpctlSynclim < (4000 : BitVec 32).toInt.natAbs ∧ (ptp.ptp 0).good < 3 ∧ (ptp.ptp 0).best = none ∧
    (ptp.ptp 0).last + 3 * (ptp.ptp 0).interval ≤ ptp.time := by decide +kernel
theorem wit_gate : let s := linked.setRf (rLnkGclctl 0) fLnkGclctlEn 1
    s.gclEn 0 = true ∧ (s.gate 0).list = [] ∧ (s.reg (rLnkGclbase 0)).toNat ≤ s.ptpTime 0 ∧ linked.gclEn 0 = false := by decide +kernel
/-- The safety ring of port 0 enabled, with one descriptor in the scratchpad to be processed. -/
def ring : State :=
  let s := (linked.setRf (rLnkTxctl 0 0) fLnkTxctlEn 1).setRf (rLnkTxbase 0 0) fLnkTxbaseBase (0x40000000 / 64)
  let s := (s.setReg (rMtxWlim 0 0) (BitVec.allOnes 64)).setReg (rMtxWattr 0 0) 0xF
  s.setLnk { s.lnk with txUpTo := [(0, 1)] }
theorem wit_tx : ring.portOn 0 = true ∧ ring.rb (rLnkTxctl 0 0) fLnkTxctlEn = true ∧
    ring.rf (rLnkTxhead 0 0) fLnkTxheadHead ≠ Tab.get natDefault ring.lnk.txUpTo 0 ∧
    (match (ring.readMem Paths.plain (.win .safety true) (ring.rf (rLnkTxbase 0 0) fLnkTxbaseBase * 64) 32).2 with
      | .ok d => d.length | .error _ => 0) = 32 := by decide +kernel

theorem wit_feed : SealFeed c0 2 (.feedb c0 2 5) (rSeaFeedb 2) (leBytes 1 5) ∧ Hits up (rSeaFeedb 2) ∧
    up.rb (rSeaStat 2) fSeaStatHeld = false ∧ Hits up (rSeaClose 2) ∧ (up.sea 2).scan = none ∧ Hits up (rSeaScanlen 2) ∧
    ((up.setSea 2 { up.sea 2 with scan := some (0x40000000, 3, false) }).sea 2).scan = some (0x40000000, 3, false) ∧
    (7 : BitVec 40) ≠ 0 := ⟨.b 5, hits (by decide +kernel), by decide +kernel, hits (by decide +kernel), by decide +kernel,
      hits (by decide +kernel), by decide +kernel, by decide⟩
theorem wit_seal_held : (up.setRf (rSeaStat 2) fSeaStatHeld 1).rb (rSeaStat 2) fSeaStatHeld = true ∧
    ((up.setRf (rSeaStat 2) fSeaStatHeld 1).sea 2).scan = none ∧
    Hits ((up.setRf (rSeaStat 2) fSeaStatHeld 1).setSea 2 { up.sea 2 with scan := some (0x40000000, 3, false) }) (rSeaClose 2) :=
  ⟨by decide +kernel, by decide +kernel, hits (by decide +kernel)⟩
theorem wit_scan : let s := (windowed.setSea 2 { windowed.sea 2 with scan := some (0x40000000, 3, true) })
    (s.sea 2).scan = some (0x40000000, 3, true) ∧ (s.scanFeed 2 0x40000000 3).2 = true := by decide +kernel
theorem wit_seal_ctl : ∃ a, Reaches up c0 (rSeaCtl 2) a ∧ (!up.rb (rSeaStat 2) fSeaStatHeld &&
    (up.storeReg (up.auth c0).src a 0 (BitVec.allOnes 64) false).rf (rSeaCtl 2) fSeaCtlPoly != up.rf (rSeaCtl 2) fSeaCtlPoly) = true :=
  hitsWith (by decide +kernel) (by decide +kernel)
/-- CRC-32C of "123456789" is 0xE3069283, the published check value. -/
theorem test_crc32c : crc32c.of [0x31, 0x32, 0x33, 0x34, 0x35, 0x36, 0x37, 0x38, 0x39] = 0xE3069283 := by decide +kernel

theorem wit_link_registers : Hits up (rLnkTxtail 0 0) ∧ Hits up (rLnkRxsstat 6) ∧ Hits up (rLnkKeydata 0) ∧
    (up.auth c0).machine = true ∧ up.rf (rLnkKeysel 0) fLnkKeyselWord < 6 ∧
    (up.setRf (rLnkKeysel 0) fLnkKeyselWord 6).rf (rLnkKeysel 0) fLnkKeyselWord = 6 :=
  ⟨hits (by decide +kernel), hits (by decide +kernel), hits (by decide +kernel), by decide +kernel, by decide +kernel, by decide +kernel⟩

/-! ### The host interface -/

/-- The host link up with both functions bus masters. -/
def hosted : State := (up.setRf rHstPstat fHstPstatLinkup 1).setRf rHstPstat fHstPstatBme 3
/-- Submission and completion ring 0 of function 0 enabled. -/
def ringed : State := (hosted.setRf (rHstSqctl 0 0) fHstSqctlEn 1).setRf (rHstCqctl 0 0) fHstCqctlEn 1
/-- A descriptor of the given fields: offset, bytes. -/
def desc (fs : List (Nat × List Byte)) : List Byte :=
  (List.range 64).map fun i => (fs.findSome? fun f => if f.1 ≤ i then f.2[i - f.1]? else none).getD 0
/-- A descriptor in progress on that ring. -/
def held (fs : List (Nat × List Byte)) : State :=
  ringed.setSq 0 0 { ringed.sq 0 0 with descs := [⟨0, desc fs, 1, false, 0, none, 0, 0, none, none, 0⟩], nextId := 1 }
/-- The descriptor at place 0 may be carried on, and is of type `typ`. -/
def carriedIs (s : State) (typ : Nat) (p : DescSt → Bool) : Bool :=
  match (s.sq 0 0).descs[0]? with | some e => e.u 0 1 == typ && s.busMaster 0 && p { e with started := true } | none => false
theorem carried_of {s : State} {typ : Nat} {p : DescSt → Bool} (h : carriedIs s typ p = true) :
    ∃ d, Carried s 0 0 0 typ d ∧ p d = true := by
  unfold carriedIs at h
  split at h
  · rename_i e he
    simp only [Bool.and_eq_true, beq_iff_eq] at h
    exact ⟨_, ⟨e, he, h.1.1, h.1.2, .inr ⟨by simp, .inr rfl⟩, rfl⟩, h.2⟩
  · cases h

theorem wit_doorbell : ringed.hostOn = true ∧ (1 : BitVec 16).toNat < 16 * 2 ^ ringed.rf (rHstSqctl 0 0) fHstSqctlSize ∧
    ringed.rb (rHstSqctl 0 0) fHstSqctlEn = true ∧ ringed.rf (rHstSqstat 0 0) fHstSqstatHead = 0 ∧
    ringed.rf (rHstSqstat 0 0) fHstSqstatTail = 0 ∧ ringed.rb (rHstCqctl 0 0) fHstCqctlEn = true ∧ up.hostOn = false ∧
    hosted.rb (rHstSqctl 0 0) fHstSqctlEn = false := by decide +kernel
/-- A doorbell has announced one descriptor. -/
def rung (fs : List (Nat × List Byte)) : State := (ringed.setRf (rHstSqstat 0 0) fHstSqstatTail 1).hostWrite 0 (desc fs)
theorem wit_fetch : (rung [(0, [5])]).busMaster 0 = true ∧ (rung [(0, [5])]).rf (rHstSqstat 0 0) fHstSqstatHead = 0 ∧
    ((rung [(0, [5])]).sq 0 0).descs = [] ∧
    (⟨0, (rung [(0, [5])]).hostRead 0 64, 1, false, 0, none, 0, 0, none, none, 0⟩ : DescSt).formOk = true ∧
    (⟨0, (rung [(0, [9])]).hostRead 0 64, 1, false, 0, none, 0, 0, none, none, 0⟩ : DescSt).formOk = false := by decide +kernel
/-- RUN of one order of 17 bytes at host address 0x1000. -/
def run1 : State := (held [(0, [1]), (8, [0, 0x10]), (0x10, [17]), (0x14, [1])]).hostWrite 0x1000 (fmaBytes.map fun b => BitVec.ofNat 8 b)
theorem wit_run : carriedIs run1 1 (fun d => d.rej == none && d.list == none && (match run1.runList 0 d with
    | .ok l => (splitOrders 1 l).any (fun os => os.length == 1) | .error _ => false)) = true := by decide +kernel
theorem wit_note : ∃ d, Carried (held [(0, [5])]) 0 0 0 5 d ∧ true = true := carried_of (by decide +kernel)
theorem wit_stage : ∃ d, Carried (held [(0, [4]), (0x10, [16])]) 0 0 0 4 d ∧
    (!(held [(0, [4]), (0x10, [16])]).rb rHstCfgctl fHstCfgctlStageen && (held []).cfg.run == none) = true := carried_of (by decide +kernel)
theorem wit_archive_read : ∃ d, Carried (held [(0, [3]), (0x18, [16])]) 0 0 0 3 d ∧ (d.moved != d.u 0x18 8) = true := carried_of (by decide +kernel)
theorem wit_no_descriptor : ∀ typ d, ¬ Carried ringed 0 0 0 typ d := by
  rintro typ d ⟨e, he, -⟩
  have h : (ringed.sq 0 0).descs = [] := by decide +kernel
  rw [h] at he; cases he
/-- A completion entry waits; interrupts are on. -/
def completing : State :=
  let s := ((ringed.setRf (rHstCqctl 0 0) fHstCqctlIrqen 1).setRf (rHstSqstat 0 0) fHstSqstatTail 1).setRf (rHstCqstat 0 0) fHstCqstatHead 5
  s.setCq 0 0 { s.cq 0 0 with waiting := [List.replicate 63 0], count := 1, since := some 0 }
theorem wit_completion : (completing.cq 0 0).waiting = [List.replicate 63 0] ∧ completing.busMaster 0 = true ∧
    completing.rb (rHstCqctl 0 0) fHstCqctlEn = true ∧
    (completing.rf (rHstCqstat 0 0) fHstCqstatTail + 1) % (16 * 2 ^ completing.rf (rHstCqctl 0 0) fHstCqctlSize) ≠
      completing.rf (rHstCqstat 0 0) fHstCqstatHead ∧ completing.rb (rHstCqctl 0 0) fHstCqctlIrqen = true ∧
    (completing.cq 0 0).since = some 0 ∧ 0 + completing.rf (rHstCqctl 0 0) fHstCqctlCoalus ≤ completing.time := by decide +kernel
/-- Sixty-four entries wait, one more behind them; a RUN that waits for its queue. -/
theorem wit_completion_extra : let s := ringed.setCq 0 0 { ringed.cq 0 0 with waiting := List.replicate 64 [], extra := [[1]] }
    64 ≤ (s.cq 0 0).waiting.length ∧ (s.cq 0 0).extra = [[1]] := by decide +kernel
theorem wit_queue_full : (⟨0, desc [(0, [1]), (0x14, [1])], 1, true, 0, some [], 0, 0, none, none, 0⟩ : DescSt).queueFull = true := by
  decide +kernel
theorem wit_ring_enable : ∃ a, Reaches hosted c0 (rHstSqctl 0 0) a ∧ (!hosted.rb (rHstSqctl 0 0) fHstSqctlEn &&
    (hosted.storeReg (hosted.auth c0).src a ((0 : Word).setBit 0 true) (BitVec.allOnes 64) false).rb (rHstSqctl 0 0) ⟨0, 1⟩)
    = true := hitsWith (by decide +kernel) (by decide +kernel)
theorem wit_ring_disable : ∃ a, Reaches ringed c0 (rHstSqctl 0 0) a ∧ (ringed.rb (rHstSqctl 0 0) fHstSqctlEn &&
    !(ringed.storeReg (ringed.auth c0).src a ((0 : Word).setBit 0 false) (BitVec.allOnes 64) false).rb (rHstSqctl 0 0) ⟨0, 1⟩)
    = true := hitsWith (by decide +kernel) (by decide +kernel)
theorem wit_cq_enable : ∃ a, Reaches hosted c0 (rHstCqctl 0 0) a ∧ (!hosted.rb (rHstCqctl 0 0) fHstCqctlEn &&
    (hosted.storeReg (hosted.auth c0).src a ((0 : Word).setBit 0 true) (BitVec.allOnes 64) false).rb (rHstCqctl 0 0) ⟨0, 1⟩)
    = true := hitsWith (by decide +kernel) (by decide +kernel)

/-- A copy of 16 bytes in direction `dir` between host address 0 and the scratchpad; `kind` is its destination. -/
def copy (dir kind : Byte) : State :=
  let s := held [(0, [2]), (8, if dir = 0 then [] else [0, 0, 0, 0x40]), (0x10, if dir = 0 then [0, 0, 0, 0x40] else []), (0x18, [16]),
    (0x20, [dir, kind])]
  let s := (s.setReg (rMtxWlim 0 0) (BitVec.allOnes 64)).setReg (rMtxWattr 0 0) 0xF
  (((s.setRf (rScpRlyctl 5) fScpRlyctlEn 1).setRf (rScpRlyctl 5) fScpRlyctlPkind 2).setRf (rRepFrcfg 0) fRepFrcfgEn 1).setRelay 5
    { Relay.empty with credits := 16 }
theorem wit_copy_in : carriedIs (copy 0 0) 2 (fun d => d.u 0x20 1 == 0 && d.u 0x21 1 == 0 && d.u 0x10 8 == 0x40000000 &&
    ((copy 0 0).storeSome (funView 0) 0x40000000 16 0x40000000 16).1 == 16 && ((copy 0 0).storeSome (funView 0) 0x40000000 16 0x40000000 16).2 == none) = true := by
  decide +kernel
theorem wit_copy_out : carriedIs (copy 1 0) 2 (fun d => d.u 0x20 1 == 1 && d.u 8 8 == 0x40000000 &&
    ((copy 1 0).loadSome (funView 0) 0x40000000 16).1.length == 16 && ((copy 1 0).loadSome (funView 0) 0x40000000 16).2 == none) = true := by
  decide +kernel
theorem wit_copy_relay : carriedIs (copy 0 1) 2 (fun d => d.u 0x21 1 == 1 && (copy 0 1).copyRelay 0 (d.u 0x22 1) == some 5) = true ∧
    16 ≤ ((copy 0 1).relay 5).room := by decide +kernel
theorem wit_copy_frame : carriedIs (copy 0 2) 2 (fun d => d.u 0x21 1 == 2 && d.u 0x24 4 + 16 ≤ ((copy 0 2).frameBuf 0 0).2 &&
    (match (copy 0 2).frameWrite (funView 0) 0 (d.u 0x24 4) (List.replicate 16 0) with | .ok _ => true | .error _ => false)) = true ∧
    (copy 0 2).rb (rRepFrcfg 0) fRepFrcfgEn = true := by decide +kernel
theorem wit_pcie : up.domOn 45 = true ∧ up.ready 35 = true ∧ up.rb rHstPstat fHstPstatLinkup = false ∧
    (6 : BitVec 3).toNat ≤ up.rf rHstPctl fHstPctlMaxgen ∧ (16 : BitVec 5).toNat ∈ [1, 4, 8, 16] ∧
    hosted.rb rHstPstat fHstPstatLinkup = true ∧ hosted.hostOn = true := by decide +kernel
/-- A load of the host window is outstanding. -/
def waitsForHost : State := up.setCal 0 { up.cal 0 with lds := [⟨0, 3, 0x10000000000, 8, false, false, .wait, 0⟩] }
/-- `s` after 50 s: every completion timeout has passed. -/
def timedOut (s : State) : State := { s with time := 50000000 }
theorem wit_timeout_due : 0 + 1000 * (timedOut waitsForHost).rf rHstPctl fHstPctlCto ≤ (timedOut waitsForHost).time ∧
    ¬ 0 + 1000 * waitsForHost.rf rHstPctl fHstPctlCto ≤ waitsForHost.time := by decide +kernel
theorem wit_timeout : (match waitsForHost.target 0x10000000000 with | .host _ => true | _ => false) = true ∧
    headIs (oneOf 1 3) (fun x => x.run.phase != .running) = true := by decide +kernel
theorem wit_timeout_desc : ∀ typ, typ ∈ [1, 2, 4] → carriedIs (timedOut (held [(0, [BitVec.ofNat 8 typ])])) typ (fun d =>
    decide (d.since + 1000 * (timedOut ringed).rf rHstPctl fHstPctlCto ≤ (timedOut ringed).time) && d.list == none && d.u 0x17 1 == 0 &&
      d.u 0x20 1 == 0 && d.u 0x21 1 != 1) = true ∧ ringed.cfg.run = none := by decide +kernel
theorem wit_bar4 : (8 : Nat) ∈ [1, 2, 4, 8] ∧ hosted.hostOn = true ∧
    (let s := ((hosted.setRf (rHstDbgbase 0) fHstDbgbaseBase 0x40).setReg (rMtxWlim 0 0) (BitVec.allOnes 64)).setReg (rMtxWattr 0 0) 0xF
     2 ^ 24 * s.rf (rHstDbgbase 0) fHstDbgbaseBase = 0x40000000 ∧ s.target 0x40000000 = .mem 0x40000000 ∧
     okTarget (s.check (.win .safety true) .wr 0x40000000) ≠ none ∧
     (match (s.readMem Paths.plain (.win .safety true) 0x40000000 8).2 with | .ok bs => bs.length | .error _ => 0) = 8) := by
  decide +kernel

/-! ### Orders that stop, combine and move -/

/-- The order's world may not run: the slot belongs to the service world. -/
def slotTaken : State := (oneRuns 1 3).setTp 0 ⟨true, 0, 1000, [(1000, 1, false)], some 0, none⟩
theorem wit_not_entitled : (slotTaken.engOn 0 = true ∧ slotTaken.entitled 0 = false ∧
    headIs slotTaken (fun x => x.run.phase == .running) = true) := by decide +kernel
theorem wit_outs_fault : unitIs ((oneRuns 1 3).setReg (rMtxWattr 0 0) 3) (fun v p => match v.unit p with
    | .ok e => v.room p false e.outs && (v.outsFault p false e.outs).isSome | _ => false) = true := by decide +kernel
/-- A division by zero under precise retirement with the trap of DZ enabled. -/
def preciseTrap : State := withRun (fun r => { r with precise := true, trapen := BitVec.allOnes 5 }) (oneRuns 7 3)
theorem wit_precise_trap : headIs preciseTrap (fun x => x.run.precise && !x.run.passOne) = true ∧
    unitIs preciseTrap (fun v p => match v.unit p with
      | .ok e => v.room p false e.outs && (v.outsFault p false e.outs).isNone && (e.flags &&& v.ent.run.trapen) != 0 | _ => false) = true := by
  decide +kernel

/-- An order on the bytes `bs` runs at engine 0 over memory with the bytes `m`. -/
def runsOn (bs : List Nat) (m : List (Nat × List Byte)) : State :=
  nxt (.orderStart 0 .safety) (offered bs (m.foldl (fun s p => s.poke p.1 p.2) based))
/-- SEGSUM of three elements: the first segment has `k`, the next one. -/
def segs (k : Byte) : State := runsOn [0x50, 3, 3, 0x51, 5, 0, 0x0D, 1, 5, 2] [(0x40000100, leBytes 8 k.toNat ++ [1])]
theorem wit_segment_opens : unitIs (segs 2) (fun v p => v.op == .segsum && p.segEnd == none && rdIs (v.elem 4 p.segs false) (· == 2)) = true ∧
    unitIs (segs 0) (fun v p => p.segEnd == none && rdIs (v.elem 4 p.segs false) (· == 0) && !v.ent.run.skipSegs.contains p.out) = true := by
  decide +kernel
theorem wit_segment_element : unitIs ((segs 2).oneUnit 0) (fun v p => p.segEnd == some 2 && decide (p.next + 1 < 2) &&
    rdIs (v.rd 0 p.next).2 fun _ => true) = true ∧
    unitIs (((segs 2).oneUnit 0).oneUnit 0) (fun v p => p.segEnd == some 2 && decide (2 ≤ p.next + 1) &&
    rdIs (v.rd 0 p.next).2 fun _ => true) = true := by decide +kernel
def prefixed (op : Nat) : State := runsOn [op, 3, 3, 0x41, 5, 0, 5, 2] [(0x40000000, [5, 0, 0, 0, 0, 0, 0, 0, 6])]
theorem wit_prefix : unitIs (prefixed 0x55) (fun v p => v.op == .psum && rdIs (v.rd 0 p.next).2 (fun _ => true) &&
      (v.inclusive true p.carry (p.grp ++ [some (5, 0)])).1 == some 5) = true ∧
    unitIs (prefixed 0x56) (fun v p => v.op == .psumx && p.grp == [] && p.carry == none) = true ∧
    unitIs ((prefixed 0x56).oneUnit 0) (fun v p => p.grp != [] && (v.inclusive true p.carry p.grp).1 == some 5 &&
      rdIs (v.rd 0 p.next).2 (fun _ => true)) = true ∧
    unitIs (withRun (fun r => { r with perf := { r.perf with parts := r.perf.parts.set 0 (some 9) } }) (prefixed 0x56))
      (fun v p => v.op == .psumx && p.grp == [] && p.carry == some 9) = true := by decide +kernel
def recurring : State := runsOn [0x54, 3, 2, 0x47, 5, 0, 5, 1, 5, 2, 5, 3] []
theorem wit_recurrence : unitIs recurring (fun v p => v.op == .linrec && p.carry == none && rdIs (v.elem 2 0 true) (fun _ => true) &&
      rdIs (v.rd 0 p.next).2 (fun _ => true) && rdIs (v.rd 1 p.next).2 (fun _ => true) && p.grp == []) = true ∧
    unitIs (recurring.oneUnit 0) (fun v p => p.carry != none && rdIs (v.rd 0 p.next).2 (fun _ => true) &&
      rdIs (v.rd 1 p.next).2 (fun _ => true)) = true := by decide +kernel
/-- SPMV of one row with the pointers `lo` and `hi`. -/
def sparse (lo hi : Byte) : State := runsOn [0x68, 3, 1, 0x57, 5, 0, 5, 1, 5, 2, 0x0D, 2, 5, 3]
  [(0x40000100, leBytes 8 lo.toNat ++ leBytes 8 hi.toNat)]
def pointersAre (s : State) (lo hi : Nat) : Bool := unitIs s fun v p => v.op == .spmv && p.row == none &&
  match v.rowPtrs p p.next with | .ok vs _ => vs == [lo, hi] | _ => false
theorem wit_row : pointersAre (sparse 2 1) 2 1 = true ∧ pointersAre (sparse 0 2) 0 2 = true ∧ pointersAre (sparse 3 3) 3 3 = true := by
  decide +kernel
def nonZero (s : State) (n : Nat) : Bool := unitIs s fun v p => p.row == some (0, 2) && p.aux == n && rdIs (v.elem 4 p.aux false) (fun j =>
  rdIs (v.memVal (v.indexed 2 j) (v.ty 2).bytes MErr.range.code) fun _ => true) && rdIs (v.elem 0 p.aux false) fun _ => true
theorem wit_row_element : nonZero ((sparse 0 2).oneUnit 0) 0 = true ∧ nonZero (((sparse 0 2).oneUnit 0).oneUnit 0) 1 = true := by
  decide +kernel
theorem wit_sealfeed : unitIs (withPhase .running none (offered [0x7C, 4, 1, 3, 5, 0, 4, 2] based)) (fun v p =>
    v.op == .sealfeed && rdIs (v.rd 0 p.next).2 (fun _ => true)) = true := by decide +kernel
theorem wit_arcappend : unitIs (withRun (fun r => { r with arcRec := some 0 }) (appending filled)) (fun v p =>
    v.op == .arcappend && v.recordOpen && rdIs (v.rd 0 p.next).2 (fun _ => true)) = true ∧
    unitIs (appending filled) (fun v _ => !v.recordOpen) = true := by decide +kernel
/-- A record of eight bytes, committed, whose byte 1 is 6; an ARCREAD of two bytes stands at its second. -/
def committed : ArcLog := { ArcLog.empty with
  bytes := [(0x10, 8), (65, 6)], pages := [⟨0, 0, 0, 0, 0, [⟨0, 0, recLen 8, false, 0⟩]⟩],
  folios := [⟨0, recLen 8, 1, 3, 0, 0, false⟩], reads := [(0, 1)] }
def reading : State := withRun (fun r => { r with perf := { r.perf with next := 1 } })
  (withPhase .running none (offered [0x79, 4, 2, 0x41, 5, 0, 5, 2] { based with arc := (archived committed).arc }))
theorem wit_arcread : unitIs reading (fun v p => v.op == .arcread &&
    (match v.strm 0 with | some ⟨_, .mem a, _, _⟩ => rdIs (v.memVal (a : Int) 16 1) (fun b =>
      (match v.s.arcByte v.ent.run.belows v.w.idx (b % 2 ^ 64) (b / 2 ^ 64) p.next v.ent.n (v.undelivered p) with | .byte y => y == 6 | _ => false)) | _ => false)) = true := by
  decide +kernel
/-- One element by a scene of two steps: (A + B) · C. -/
theorem wit_scene : unitIs (runs [0xE0, 3, 1, 1, 0x21, 0, 3, 0x38, 0x10, 1, 0x47, 5, 0, 5, 1, 5, 2, 5, 3]) (fun v p => v.op == .scene &&
    (match v.ent.ord.steps with
      | [d, z] => d.op == .add && z.op == .mul && !d.bit && !z.bit && d.s1 == 1 && d.s2 == 2 && z.s1 == 8 && z.s2 == 3 && !d.toX &&
        !d.toY && z.toX && !z.toY
      | _ => false) &&
    (match readAll (([0, 1, 2, 3, 5].filter v.has).map fun sl => v.rd sl p.next) with | .ok vs _ => vs.length == 3 | _ => false)) = true := by
  decide +kernel

/-! ### Engines, frames, understudies, archive, links and the host once more: waits and refusals -/

set_option maxRecDepth 100000 in
theorem wit_skip : mayRun (withPhase .stopped (some 2) parked) = true ∧ headIs (withPhase .stopped (some 2) parked) (fun x =>
    x.run.begun && ((withPhase .stopped (some 2) parked).readRecord 0 x).isSome) = true := by decide +kernel
theorem wit_encore_barred : headIs failed (fun x => !(failed.encore.any fun en => en.q == 0) && x.encorable) = true ∧
    headIs (withRun (fun r => { r with failed := some ⟨6, 0, 5, 4⟩ }) done) (fun x => x.run.failed.isSome) = true := by decide +kernel

theorem wit_frame_busy : (framed.setCueBusy 2 16).rb (rRepFrcfg 2) fRepFrcfgEn = true ∧ (framed.setCueBusy 2 16).cueBusy 2 = true ∧
    framed.cueBusy 2 = false := by decide +kernel
theorem wit_tp_change : let s := { partitioned.setTp 1 ⟨true, 0, 5, [(5, 0, false)], some 0, none⟩ with time := 7 }
    s.rb (rEngTpctl 1) fEngTpctlEn = true ∧ (s.tpOf 1).on = true ∧ (s.tpOf 1).slot ≠ none ∧ ¬ s.time < (s.tpOf 1).start + (s.tpOf 1).cycle ∧
    s.time % s.rf (rEngTpctl 1) fEngTpctlCycle ≠ s.rf (rEngTpphase 1) fEngTpphasePhase % s.rf (rEngTpctl 1) fEngTpctlCycle := by
  decide +kernel
/-- A boundary into a slot of the service world, with an order of the safety world running. -/
def leaving : State := (oneRuns 1 3).setTp 0 ⟨true, 0, 1000, [(400, 1, false), (400, 0, false)], some 1, none⟩
theorem wit_tp_leaves : slotAt (leaving.tpOf 0).slots 0 leaving.time = some 0 ∧ headIs leaving (fun x =>
    x.run.phase == .running && x.run.failed == none) = true ∧ leaving.qBusy 1 = false ∧ leaving.modeRuns 0 = true ∧
    (leaving.setTp 0 { leaving.tpOf 0 with slot := some 0, mark := none }).entitled 0 = false := by decide +kernel
theorem wit_periodic_due : ({ inMode 4 with time := 10 ^ 12 } : State).proofDue 0 = true ∧ (inMode 4).proofDue 0 = false ∧
    (inMode 4).rb (rRepProofrep 0) fRepProofrepMissed = false := by decide +kernel
theorem wit_pulse_busy : let s := ({ up with cue := { up.cue with pulsing := [(6, true)] } } : State)
    s.cueBusy 0x16 = false ∧ (s.setCueBusy 0x16 3).cueBusy 0x16 = true := by decide +kernel

theorem wit_reload_owned : (match (reloading.ownRead 0 scp.toNat 512).2 with | .ok bs => bs.length | .error _ => 0) = 512 ∧
    (match ((reloading.setBad scp.toNat true).ownRead 0 scp.toNat 512).2 with | .ok _ => false | .error e => e == .ecc) = true := by
  decide +kernel
theorem wit_offer_shadow : (let s := pending9 1
    let s := s.setCal 0 { s.cal 0 with shadow := some ⟨0, 0, 1, [], (s.cal 0).r, false⟩ }
    s.accepts 0 false 0x3F && (s.cal 0).shadow.isSome) = true := by decide +kernel
theorem wit_ready_retained : let s := State.reset.setCus { State.reset.cus with retained := 0x40000000 }
    s.cus.retained.bit 30 = true ∧ s.mode ≠ 3 ∧ ((State.reset.setRf rCusMode fCusModeMode 3).mode = 3) := by decide +kernel
theorem wit_placing : up.placing = true ∧ up.worn 0x3E = false ∧ ({ up with cfg := { up.cfg with placed := true } } : State).placing = false := by
  decide +kernel
theorem wit_rotation : rotation (up.arb 0 0).last [0x60] = some 0x60 ∧ rotation (up.arb 0 0).last [0x60, 0x61] = some 0x60 ∧
    rotation ((nxt (.arbiterGrant 0 0 0x60 ⟨[], none⟩) up).arb 0 0).last [0x60, 0x61] = some 0x61 ∧
    isShare 0x60 = false ∧ isRequester 0x61 = true ∧ up.shareKept 0 0 0x60 = true ∧ up.shareKept 0 0 0xAB = false ∧
    up.shareKept 1 0 0xAB = true ∧ (nxt (.arbiterGrant 1 0 0xAB ⟨[], none⟩) up).shareKept 1 0 0xAB = false ∧
    isArbiter 1 0 = true ∧ isRequester 0xAB = true ∧ isRequester 0xAA = true := by decide +kernel
theorem test_rotation : (let s := nxt (.arbiterGrant 0 0 0x60 ⟨[(0x61, 4, 0)], none⟩) up
    let s := nxt (.arbiterGrant 0 0 0x60 ⟨[(0x61, 9, 0)], none⟩) s
    let s := nxt (.arbiterGrant 0 0 0x61 ⟨[(0x60, 1, 0), (0x61, 3, 0)], none⟩) s
    (s.cnt (arbKey 0 0 0x60), s.cnt (arbKey 0 0 0x61), s.cnt (arbKey 0 0 0x61 + 2))) = (1, 1, 7) := by decide +kernel

theorem wit_swap_pass : swapping.spares 0 none ≠ [] ∧ (swapping.nextSwap).any (fun r => r.kind == 1) = true ∧
    (((inMode 6).queueSwap 0x100 none true).nextSwap).any (fun r => r.kind == 0) = true := by decide +kernel
/-- The section 0x21 or the resource 0x29 with a baseline. -/
def based21 (i : Nat) : State := up.setRecOf i { up.recOf i with base := 1000 }
theorem wit_beat_low : ((based21 0x21).recOf 0x21).base ≠ 0 ∧ (based21 0x21).worn 0x21 = false ∧ (1000 : BitVec 16).toNat < 1350 ∧
    (let s := (based21 0x21).setRecOf 0x21 { (based21 0x21).recOf 0x21 with worn := true }
     s.worn 0x21 = true ∧ (s.phys 0x21).upd = 0 ∧
     (let t := s.setPhys 0x21 { s.phys 0x21 with upd := 3, rate := 1300 }
      t.worn 0x21 = true ∧ 0 < (t.phys 0x21).upd ∧ (t.phys 0x21).rate < 1350)) := by decide +kernel
theorem wit_self_test_due : (inMode 3).testDue 4 = true ∧ (inMode 3).testable 4 = true ∧ up.testDue 4 = false := by decide +kernel
theorem wit_expired : (∃ r ∈ deferring.ust.queue, ({ deferring with time := 1000 } : State).expired r = true) ∧
    swapKind 0 = 1 ∧ up.spares 0 none ≠ [] ∧ up.ust.queue = [] := by decide +kernel

theorem wit_aged : let s : State := { archived programmed with time := 10 ^ 15 }
    let z : State := { archived { programmed with folios := [⟨0, 294912, 1, 3, 0, 0, true⟩] } with time := 10 ^ 15 }
    s.arcUp = true ∧ (s.tgt 3).used = true ∧ (s.log 0).mapped 4096 = some ⟨0, 294912, 1, 3, 0, 0, false⟩ ∧
    0 + s.rf rArcMedia fArcMediaRetage * 3600000000 ≤ s.time ∧ (z.log 0).mapped 4096 = some ⟨0, 294912, 1, 3, 0, 0, true⟩ ∧
    0 + z.rf rArcMedia fArcMediaRetage * 3960000000 ≤ z.time := by decide +kernel
theorem wit_timer_early : (archived filled).time < (archived filled).arc.mapAt + 1000000 ∧
    ({ archived filled with time := 1000000 } : State).arc.mapAt + 1000000 ≤ 1000000 := by decide +kernel
theorem wit_boot_store_waits : ((archived filled).setReg rCusReady (BitVec.ofNat 64 (2 ^ 30))).spanReady 0x40000000 2 = false := by
  decide +kernel

theorem wit_delivery_refused : (buffered.relayRefuses (.win (buffered.relayWorld 5) true) 5 false false 2) = none ∧
    ((buffered.setReg (rMtxWattr 0 0) 0).relayRefuses (.win (buffered.relayWorld 5) true) 5 false false 2).isSome = true ∧
    buffered.ready 28 = true ∧ (buffered.setReg rCusReady 0).ready 28 = false := by decide +kernel
theorem wit_tx_waits : (ring.setReg rCusReady 0).spanReady 0x40000000 32 = false ∧ ring.spanReady 0x40000000 32 = true := by decide +kernel
theorem wit_scan_waits : (windowed.setReg rCusReady 0).spanReady 0x40000000 3 = false ∧ windowed.spanReady 0x40000000 3 = true := by
  decide +kernel

theorem wit_fetch_turn : let s := rung [(0, [5])]
    s.busMaster 0 = true ∧ s.rb (rHstSqctl 0 0) fHstSqctlEn = true ∧ s.rf (rHstSqstat 0 0) fHstSqstatHead ≠ s.rf (rHstSqstat 0 0) fHstSqstatTail ∧
    (s.sq 0 0).descs.length < 8 ∧ (s.cq 0 (s.rf (rHstSqctl 0 0) fHstSqctlCq)).waiting.length < 64 ∧ s.host.turn = 1 ∧
    ∀ j, j < 64 → j = 0 ∨ s.rb (rHstSqctl 0 j) fHstSqctlEn = false := by decide +kernel
theorem wit_run_waits : carriedIs ((held [(0, [1]), (8, [0, 0, 0, 0x40]), (0x10, [17]), (0x14, [1]), (0x17, [1])]).setReg rCusReady
    (BitVec.ofNat 64 (2 ^ 35))) 1 (fun d => d.rej == none && d.list == none && d.u 0x17 1 != 0 &&
      !((held []).setReg rCusReady (BitVec.ofNat 64 (2 ^ 35))).spanReady (d.u 8 8) (d.u 0x10 4)) = true := by decide +kernel
theorem wit_copy_waits : carriedIs ((copy 0 0).setReg rCusReady (BitVec.ofNat 64 (2 ^ 35))) 2 (fun d =>
    !((copy 0 0).setReg rCusReady (BitVec.ofNat 64 (2 ^ 35))).spanReady (d.u 0x10 8) 16) = true ∧
    (copy 0 0).spanReady 0x40000000 16 = true ∧ (copy 0 1).relayRefuses (funView 0) 5 false true 16 = none := by decide +kernel
theorem wit_load_timeout : (waitsForHost.cal 0).lds[0]? = some ⟨0, 3, 0x10000000000, 8, false, false, .wait, 0⟩ := by decide +kernel
theorem wit_bar4_waits : (hosted.setReg rCusReady (BitVec.ofNat 64 (2 ^ 35))).hostOn = true ∧
    (hosted.setReg rCusReady (BitVec.ofNat 64 (2 ^ 35))).spanReady 0x40000000 8 = false ∧ hosted.spanReady 0x40000000 8 = true := by
  decide +kernel

/-! ### The machine -/

theorem wit_step : up.pending = [] ∧ up.cus.clock = true ∧ up.cus.aon = true ∧
    (cus (fun c => { c with clock := false }) up).cus.clock = false := by decide +kernel
theorem wit_canonical : State.reset.canonical := by
  refine ⟨?_, ?_, ?_, ?_⟩ <;> decide +kernel
/-- Caller 0 runs the word `w` from the scratchpad. -/
def coding (w : Nat) : State :=
  let s := up.poke 0x40000000 (leBytes 4 w)
  s.setCal 0 { s.cal 0 with pc := 0x40000000 }
theorem wit_caller_step : up.romWord (up.cal 0).pc = true ∧ (coding 0).romWord ((coding 0).cal 0).pc = false ∧ (coding 0).issues 0 = true ∧
    (coding 0).fetch 0 ((coding 0).cal 0).pc = .word ∧ Spelt.ofWord 0 ((coding 0xC24848AA).wordAt 0) = .instr (.fmul 0 18 8 9 5 2) ∧
    Spelt.ofWord 0 ((coding 0).wordAt 0) = .illegal ∧
    (match Spelt.ofWord 0 ((coding (0x3D * 2 ^ 26)).wordAt 0) with | .control _ _ _ => true | _ => false) = true ∧
    State.reset.issues 0 = false := by decide +kernel
theorem test_idle_executes : (match step (coding 0xC24848AA) with | .next t => (t.cal 0).pc | _ => 0) = 0x40000004 := by decide +kernel
theorem wit_order_bytes : (∀ b ∈ fmaBytes, b < 256) ∧ decoded fmaBytes = .inl (.fma, 17) := ⟨by decide, by decide +kernel⟩
theorem test_step_takes_front : (match step { up with pending := [.rateWindow, .refclkEthStop] } with
    | .next t => (t.pending.length, t.cus.clock) | _ => (9, false)) = (1, true) := by decide +kernel
theorem test_idle_counts : (match step up with | .next t => t.time | _ => 9) = 1 := by decide +kernel

theorem wit_boot : up.inRom = true ∧ (two scp 0).boot = .next [1, 2, 3] ∧ (up.setCal 0 { up.cal 0 with pc := 0x40000000 }).inRom = false ∧
    (up.bootWrites [(rMtxWbase 0 15, 0x4004_0000), (rMtxWlim 0 15, 0x4044_0000), (rMtxWattr 0 15, 7)]).isSome = true ∧
    (up.bootWrites [(rCusBootload, 2)]).isSome = true ∧ (up.bootWrites [(rCusBootstat, 32)]).isSome = true ∧
    up.rb rCusBootload fCusBootloadBusy = false := by decide +kernel
/-- The host's image: one byte behind its length, its CRC-64 and the magic. -/
def mailbox (sound : Bool) : State :=
  let s := (up.setBoot .host).poke 0x40041000 [7]
  s.poke 0x40040000 (leBytes 8 1 ++ leBytes 8 (if sound then crc64Ecma.of [7] else 0) ++ leBytes 4 0x544F4F42)
theorem wit_mailbox : (match ((mailbox true).readMem Paths.data .free 0x40040000 20).2 with
      | .ok m => leField m 0 8 == 1 && leField m 16 4 == 0x544F4F42 && leField m 8 8 == crc64Ecma.of [7] | .error _ => false) = true ∧
    (match ((mailbox true).readMem Paths.data .free 0x40041000 1).2 with | .ok bs => bs == [7] | .error _ => false) = true ∧
    (mailbox true).ready 28 = true := by decide +kernel
theorem test_boots_from_host : (((mailbox true).bootStep.cal 0).pc, (mailbox true).bootStep.boot, ((mailbox false).bootStep.cal 0).pc,
    (mailbox false).bootStep.peek 0x40040010 4) = (0x40041000, .ended, 0, [0, 0, 0, 0]) := by decide +kernel

/-! ### Instruction words of a caller -/

/-- The worked words of spec/09: FMUL l2, a0, a1 in FP32, FMA l2 = a0 · a1 + l3 in FP64; the word of zeros, and an operation
code of major 0x30 beyond FLOGB, which are no instruction. -/
theorem test_word_fmul : Spelt.ofWord 0 0xC24848AA = .instr (.fmul 0 18 8 9 5 2) := by decide +kernel
theorem test_word_fma : Spelt.ofWord 0 0xC6484CD3 = .instr (.fma 0 18 8 9 19 2 3) := by decide +kernel
theorem test_word_zero : Spelt.ofWord 0 0 = .illegal := by decide +kernel
theorem test_word_reserved : Spelt.ofWord 0 0xC2484FEA = .illegal := by decide +kernel

end Sys2Proof.Tests
end

/-! ## Callers: registers, vector elements and SETVL (R390 to R392, R405, R406) -/

namespace Sys2Proof.Machine

/-! ### Writes one after another -/

/-- A place read after a run of writes holds `y`, where every write that meets the place gives it `y` and some write meets it or
it held `y` before. -/
theorem read_foldl_write {σ β α : Type} {read : σ → α} {write : σ → β → σ} {hit : β → Prop} {y : α} (l : List β)
    {t : σ} (hits : ∀ t, ∀ u ∈ l, hit u → read (write t u) = y) (misses : ∀ t u, ¬ hit u → read (write t u) = read t)
    (h : read t = y ∨ ∃ u ∈ l, hit u) : read (l.foldl write t) = y := by
  induction l generalizing t with
  | nil => simpa using h
  | cons u l ih =>
    refine ih (fun t v hv => hits t v (List.mem_cons_of_mem _ hv)) ?_
    by_cases hu : hit u
    · exact .inl (hits t u List.mem_cons_self hu)
    · rw [misses t u hu]
      simpa [hu] using h

/-! ### Elements in a vector register (R406) -/

/-- A replaced element stands between the bits above it and the bits below it. -/
theorem putElem_eq (w i x v : Nat) :
    putElem w i x v = 2 ^ (w * i) * (2 ^ w * (x / 2 ^ (w * i) / 2 ^ w) + v % 2 ^ w) + x % 2 ^ (w * i) := by
  unfold putElem
  generalize 2 ^ (w * i) = p
  have hx : x = p * (2 ^ w * (x / p / 2 ^ w) + x / p % 2 ^ w) + x % p := by rw [Nat.div_add_mod, Nat.div_add_mod]
  calc x - x / p % 2 ^ w * p + v % 2 ^ w * p
      = p * (2 ^ w * (x / p / 2 ^ w) + x / p % 2 ^ w) + x % p - x / p % 2 ^ w * p + v % 2 ^ w * p := by rw [← hx]
    _ = p * (2 ^ w * (x / p / 2 ^ w)) + x % p + x / p % 2 ^ w * p - x / p % 2 ^ w * p + v % 2 ^ w * p := by
      congr 2; ring
    _ = p * (2 ^ w * (x / p / 2 ^ w) + v % 2 ^ w) + x % p := by rw [Nat.add_sub_cancel]; ring

theorem testBit_putElem (w i x v b : Nat) :
    (putElem w i x v).testBit b = if w * i ≤ b ∧ b < w * i + w then v.testBit (b - w * i) else x.testBit b := by
  rw [putElem_eq, Nat.testBit_two_pow_mul_add _ (Nat.mod_lt _ (Nat.two_pow_pos _)),
    Nat.testBit_two_pow_mul_add _ (Nat.mod_lt _ (Nat.two_pow_pos _))]
  simp only [Nat.testBit_mod_two_pow, Nat.testBit_div_two_pow]
  by_cases below : b < w * i
  · simp [below]
  · by_cases inside : b - w * i < w
    · simp [below, inside, show w * i ≤ b ∧ b < w * i + w by omega]
    · simp [below, inside, show ¬ (w * i ≤ b ∧ b < w * i + w) by omega,
        show b - w * i - w + w + w * i = b by omega]

/-- The element that was replaced reads back. -/
theorem elem_putElem_same (w i x v : Nat) : putElem w i x v / 2 ^ (w * i) % 2 ^ w = v % 2 ^ w := by
  apply Nat.eq_of_testBit_eq
  intro b
  simp only [Nat.testBit_mod_two_pow, Nat.testBit_div_two_pow, testBit_putElem]
  by_cases hb : b < w
  · simp [hb, show w * i ≤ b + w * i ∧ b + w * i < w * i + w by omega]
  · simp [hb]

/-- Every other element of the register stays. -/
theorem elem_putElem_other (w : Nat) {i j : Nat} (x v : Nat) (h : j ≠ i) :
    putElem w i x v / 2 ^ (w * j) % 2 ^ w = x / 2 ^ (w * j) % 2 ^ w := by
  apply Nat.eq_of_testBit_eq
  intro b
  simp only [Nat.testBit_mod_two_pow, Nat.testBit_div_two_pow, testBit_putElem]
  by_cases hb : b < w
  · have apart : ¬ (w * i ≤ b + w * j ∧ b + w * j < w * i + w) := by
      have ends : ∀ {a b : Nat}, a < b → w * a + w ≤ w * b := fun h => Nat.mul_le_mul_left w (Nat.succ_le_of_lt h)
      rcases Nat.lt_or_gt_of_ne h with h | h
      · have := ends h; omega
      · have := ends h; omega
    simp [apart]
  · simp [hb]

/-! ### The registers of an ensemble (R406) -/

/-- Register `j` of the ensemble at `n` once the elements `vs` are written to it. -/
def CalRegs.filled (r : CalRegs) (w n : Nat) (vs : List (Nat × Nat)) (j : Nat) : Nat :=
  (vs.filter fun v => v.1 / (512 / w) == j).foldl (fun x v => putElem w (v.1 % (512 / w)) x v.2) (r.vreg (n + j))

theorem CalRegs.putElems_eq (r : CalRegs) (w n : Nat) (vs : List (Nat × Nat)) :
    r.putElems w n vs = (List.range r.ens).map fun j => ((n + j) % 32, r.filled w n vs j) := rfl

/-- An ensemble lies in the 32 vector registers. -/
theorem CalRegs.ens_fits (r : CalRegs) {n : Nat} (hn : n < 32) (ha : n % r.ens = 0) : n + r.ens ≤ 32 := by
  unfold CalRegs.ens at *
  have hf : r.vtype.fld 4 2 < 4 := Nat.mod_lt _ (by decide)
  interval_cases r.vtype.fld 4 2 <;> omega

/-- A vector register after vector registers were written: the value that all writes to it agree on, or its own. -/
theorem CalRegs.vreg_putAll {r : CalRegs} {v : List (Nat × Nat)} {m y : Nat} (agree : ∀ u ∈ v, u.1 = m % 32 → u.2 = y)
    (h : r.vreg m = y ∨ ∃ u ∈ v, u.1 = m % 32) : (r.putAll [] v).vreg m = y := by
  refine read_foldl_write (read := fun t => Tab.get natDefault t (m % 32)) (hit := fun u : Nat × Nat => u.1 = m % 32)
    v ?_ ?_ h
  · intro t u hu e
    rw [← e, Tab.get_set_same]
    exact agree u hu e
  · intro t u e
    exact Tab.get_set_other (Ne.symm e)

/-- The registers of an ensemble hold its new elements. -/
theorem CalRegs.vreg_putElems_inside (r : CalRegs) (w : Nat) {n j : Nat} (vs : List (Nat × Nat)) (hn : n + r.ens ≤ 32)
    (hj : j < r.ens) : (r.putAll [] (r.putElems w n vs)).vreg (n + j) = r.filled w n vs j := by
  apply CalRegs.vreg_putAll
  · simp only [CalRegs.putElems_eq, List.mem_map, List.mem_range]
    rintro _ ⟨k, hk, rfl⟩ e
    rw [show k = j by omega]
  · exact .inr ⟨_, List.mem_map.mpr ⟨j, List.mem_range.mpr hj, rfl⟩, rfl⟩

/-- A register beside an ensemble stays where the ensemble is written. -/
theorem CalRegs.vreg_putElems_outside (r : CalRegs) (w : Nat) {n m : Nat} (vs : List (Nat × Nat)) (hn : n + r.ens ≤ 32)
    (hm : m < 32) (h : m < n ∨ n + r.ens ≤ m) : (r.putAll [] (r.putElems w n vs)).vreg m = r.vreg m := by
  refine CalRegs.vreg_putAll ?_ (.inl rfl)
  simp only [CalRegs.putElems_eq, List.mem_map, List.mem_range]
  rintro _ ⟨k, hk, rfl⟩ e
  omega

/-- Element `i` after elements were written: the value that all writes to it agree on, or its own. -/
theorem CalRegs.elem_putElems {r : CalRegs} {w n i y : Nat} {vs : List (Nat × Nat)} (hn : n + r.ens ≤ 32)
    (hi : i < r.ens * (512 / w)) (agree : ∀ u ∈ vs, u.1 = i → u.2 % 2 ^ w = y)
    (h : r.elem w n i = y ∨ ∃ u ∈ vs, u.1 = i) : (r.putAll [] (r.putElems w n vs)).elem w n i = y := by
  have place : ∀ u : Nat, u / (512 / w) = i / (512 / w) → u % (512 / w) = i % (512 / w) → u = i := fun u hd hm => by
    rw [← Nat.div_add_mod u (512 / w), ← Nat.div_add_mod i (512 / w), hd, hm]
  unfold CalRegs.elem
  dsimp only
  rw [CalRegs.vreg_putElems_inside r w vs hn (Nat.div_lt_of_lt_mul (by rwa [Nat.mul_comm]))]
  refine read_foldl_write (read := fun x => x / 2 ^ (w * (i % (512 / w))) % 2 ^ w)
    (hit := fun u => u.1 % (512 / w) = i % (512 / w)) _ ?_ ?_ (h.imp id ?_)
  · intro x u hu e
    obtain ⟨hu, hd⟩ := List.mem_filter.mp hu
    rw [← e, elem_putElem_same]
    exact agree u hu (place _ (beq_iff_eq.mp hd) e)
  · intro x u e
    exact elem_putElem_other w x u.2 (Ne.symm e)
  · rintro ⟨u, hu, rfl⟩
    exact ⟨u, List.mem_filter.mpr ⟨hu, beq_self_eq_true _⟩, rfl⟩

/-! ### General registers (R389 to R392) -/

/-- The registers of one window are apart. -/
theorem gprKey_injective {wp r x : Nat} (hr : r < 32) (hx : x < 32) (h : gprKey wp r = gprKey wp x) : r = x := by
  unfold gprKey at h
  split_ifs at h <;> omega

/-- p0 to p7 are a0 to a7 of the next window. -/
theorem gprKey_next_window {wp r : Nat} (h : r < 8) : gprKey wp (24 + r) = gprKey ((wp + 1) % 16) (8 + r) := by
  unfold gprKey
  rw [if_neg (by omega), if_neg (by omega), if_neg (by omega), if_pos (by omega)]
  omega

@[simp] theorem State.cal_onRegs_same (s : State) (c : Nat) (f : CalRegs → CalRegs) :
    (s.onRegs c f).cal c = { s.cal c with r := f (s.cal c).r } := State.cal_setCal_same ..

/-- A change within the window leaves every register of the window at its key. -/
theorem State.destKeys_onRegs {s : State} {c : Nat} {f : CalRegs → CalRegs} (d : BitVec 5)
    (h : (f (s.cal c).r).wp = (s.cal c).r.wp) : (s.onRegs c f).destKeys c d = s.destKeys c d := by
  unfold State.destKeys
  rw [State.cal_onRegs_same, h]

theorem State.gpr_zero (s : State) (c : Nat) : s.gpr c 0 = 0 := rfl

theorem State.gpr_setGpr_same (s : State) (c : Nat) {d : BitVec 5} (v : Word) (h : d ≠ 0) : (s.setGpr c d v).gpr c d = v := by
  rw [State.setGpr_other s c v h]
  unfold State.gpr
  rw [if_neg h, State.cal_onRegs_same]
  exact (CalRegs.at_put ..).trans (if_pos rfl)

theorem State.gpr_setGpr_other (s : State) (c : Nat) {d r : BitVec 5} (v : Word) (h : d ≠ 0) (hr : r ≠ d) :
    (s.setGpr c d v).gpr c r = s.gpr c r := by
  have apart : gprKey (s.cal c).r.wp r.toNat ≠ gprKey (s.cal c).r.wp d.toNat := fun e =>
    hr (BitVec.eq_of_toNat_eq (gprKey_injective r.isLt d.isLt e))
  rw [State.setGpr_other s c v h]
  unfold State.gpr
  rw [State.cal_onRegs_same]
  congr 1
  exact (CalRegs.at_put ..).trans (if_neg apart)

/-- Settles O4: a write changes the one key of its register, keys of one window are apart, and a run of element writes leaves
at every element what the writes to it agree on. -/
theorem registersReadBackWhatIsWritten : Obligations.RegistersReadBackWhatIsWritten := by
  refine ⟨⟨State.gpr_zero, State.setGpr_zero, fun s c d v h => ⟨State.gpr_setGpr_same s c v h, fun r hr =>
    State.gpr_setGpr_other s c v h hr⟩, fun _ _ => gprKey_next_window, fun _ _ _ => gprKey_injective⟩, ?_⟩
  intro r w n vs _ hn ha distinct bound
  have fits := r.ens_fits hn ha
  refine ⟨fun v hv => ?written, fun i hi kept => ?kept, fun m hm => r.vreg_putElems_outside w vs fits hm⟩
  case written =>
    refine CalRegs.elem_putElems fits (bound v hv) (fun u hu e => ?_) (.inr ⟨v, hv, rfl⟩)
    rw [List.inj_on_of_nodup_map distinct hu hv e]
  case kept =>
    exact CalRegs.elem_putElems fits hi (fun u hu e => absurd (List.mem_map.mpr ⟨u, hu, e⟩) kept) (.inl rfl)

/-! ### SETVL (R405) -/

/-- Registers that an instruction changes before it retires are part of its retirement. -/
theorem Retires.of_onRegs {s u : State} {c : Nat} {f : CalRegs → CalRegs} {x : CalSt} {ret : Bool}
    (h : Retires (s.onRegs c f) u c x ret) : Retires s u c x ret where
  toElsewhere := (State.setCal_elsewhere ..).trans h.toElsewhere
  caller := h.caller
  counted := by
    have counted := h.counted
    rw [State.cal_onRegs_same] at counted
    exact counted

/-- An element of a type code of R405 fills a vector register without a rest. -/
theorem ETy.w_dvd_512 : ∀ code < 13, (ETy.ofCode code).w ∣ 512 := by decide

/-- SETVL that acts sets VL and VTYPE, gives VL to d and goes on. -/
theorem State.setvlIns_acts {s : State} {c : Nat} {d s1 : BitVec 5} {imm : BitVec 16} (acts : Acts s c [d, s1] [])
    (hres : imm.toNat < 64) (hty : imm.toNat % 16 < 13) :
    let vl := min (s.gpr c s1).toNat (2 ^ (imm.toNat / 16) * (512 / (ETy.ofCode (imm.toNat % 16)).w))
    s.setvlIns c d s1 imm =
      ((s.onRegs c fun r => { r with vl := vl, vtype := imm.zeroExtend 64 }).setGpr c d (BitVec.ofNat 64 vl)).next c := by
  have legal : (decide (13 ≤ imm.toNat % 16) || decide (64 ≤ imm.toNat)) = false := by
    rw [decide_eq_false (by omega), decide_eq_false (by omega)]; rfl
  unfold State.setvlIns
  dsimp only
  rw [State.instr_acts legal acts, show imm.toNat / 16 % 4 = imm.toNat / 16 by omega,
    Nat.mul_div_assoc _ (ETy.w_dvd_512 _ hty)]

/-- SETVL with a reserved bit or another type code is an illegal instruction. -/
theorem State.setvlIns_illegal {s : State} {c : Nat} {d s1 : BitVec 5} {imm : BitVec 16} (issues : s.issues c = true)
    (fetched : s.fetch c (s.cal c).pc = .word) (h : 64 ≤ imm.toNat ∨ 13 ≤ imm.toNat % 16) :
    s.setvlIns c d s1 imm = s.except c excIllegal 0 (wordI 0x3E d s1 imm) (s.cal c).pc := by
  have ill : (decide (13 ≤ imm.toNat % 16) || decide (64 ≤ imm.toNat)) = true := by simpa using h.symm
  unfold State.setvlIns
  exact State.instr_ill ill issues fetched

theorem exec_setvl (c : BitVec 3) (d s1 : BitVec 5) (imm : BitVec 16) (s : State) :
    exec (.setvl c d s1 imm) s = .next (s.setvlIns c.toNat d s1 imm) := rfl

/-- Settles O17: SETVL is a change of VL and VTYPE followed by a result for d. -/
theorem setvlLimitsTheVectorLength : Obligations.SetvlLimitsTheVectorLength := by
  intro s c d s1 imm x
  refine ⟨fun acts hres hty => ?_, fun issues fetched h => by rw [exec_setvl, State.setvlIns_illegal issues fetched h]⟩
  intro vl
  obtain ⟨u, r, ht, retires, puts, hf, hv⟩ := State.setGpr_next
    (s.onRegs c.toNat fun r => { r with vl := vl, vtype := imm.zeroExtend 64 }) c.toNat d (BitVec.ofNat 64 vl)
  rw [State.destKeys_onRegs _ rfl] at puts
  rw [State.cal_onRegs_same] at retires puts hf hv
  refine ⟨r, ⟨u, ?_, retires.of_onRegs⟩, puts.vector.1, puts.vector.2, puts.window.1, puts.window.2, hv, hf, ?_, ?_⟩
  · rw [exec_setvl, State.setvlIns_acts acts hres hty, ht]
  · exact fun k hk => puts.put k _ (List.mem_map.mpr ⟨k, hk, rfl⟩)
  · exact fun k hk => puts.kept k (by simpa using hk)

end Sys2Proof.Machine

/-! ## Interrupts: arrivals, ends, offers and entry (R445, R478, R480, R482) -/

namespace Sys2Proof.Machine

/-! ### The registers of the interrupt distributor -/

/-- IDS.SRCSTAT of source `k` as the register table lists it (R478). -/
def srcstatAt (k : Nat) : RegAt := ⟨.ids, 0, idsRegs[4], 0, k, rIdsSrcstat k⟩

/-- IDS.EOI as the register table lists it (R482). -/
def eoiAt : RegAt := ⟨.ids, 0, idsRegs[0], 0, 0, rIdsEoi⟩

@[simp] theorem srcstatAt_reg (k : Nat) : (srcstatAt k).d.reg = .idsSrcstat := rfl

/-- The offsets from 0x2900000 on are the distributor's: every block before it ends there (R29). -/
theorem findReg_ids {off : Nat} (lo : 0x2900000 ≤ off) (hi : off < 0x2A00000) : findReg off = Blk.ids.findReg off := by
  have below : ∀ b ∈ Blk.all.take 8, b.place.base + b.place.count * b.place.stride ≤ 0x2900000 := by decide
  have first : (Blk.all.find? fun b => decide (b.place.base ≤ off ∧ off < b.place.base + b.place.count * b.place.stride)) =
      some .ids := by
    refine List.find?_eq_some_iff_append.mpr ⟨decide_eq_true ?_, Blk.all.take 8, Blk.all.drop 9, rfl, fun b hb => ?_⟩
    · simp only [Blk.place]; omega
    have := below b hb
    rw [Bool.not_eq_true', decide_eq_false_iff_not]
    omega
  unfold findReg
  rw [first]

/-- Definitions that do not find an offset are passed over. -/
theorem findIn_skip {b : Blk} {inst off o : Nat} {l r : List RegDef} (h : ∀ d ∈ l, d.find o = none) :
    findIn b inst off o (l ++ r) = findIn b inst off o r := by
  induction l with
  | nil => rfl
  | cons d l ih =>
    rw [List.cons_append, findIn, h d List.mem_cons_self]
    exact ih fun e he => h e (List.mem_cons_of_mem _ he)

/-- No register of the distributor before IDS.SRCSTAT stands at its offset. -/
theorem findReg_srcstat {k : Nat} (hk : k < 512) : Blk.ids.findReg (rIdsSrcstat k) = some (srcstatAt k) := by
  have off : rIdsSrcstat k = 0x2901008 + 0x10 * k := rfl
  have inst : (rIdsSrcstat k - Blk.ids.place.base) / Blk.ids.place.stride = 0 := by simp only [Blk.place]; omega
  have o : (rIdsSrcstat k - Blk.ids.place.base) % Blk.ids.place.stride = 0x1008 + 0x10 * k := by
    simp only [Blk.place]; omega
  have before : ∀ d ∈ idsRegs.take 4, d.find (0x1008 + 0x10 * k) = none := by simp [idsRegs, RegDef.find]; omega
  have found : idsRegs[4].find (0x1008 + 0x10 * k) = some (0, k) := by simp [idsRegs, RegDef.find]; omega
  unfold Blk.findReg
  dsimp only
  rw [inst, o, if_neg (by simp only [Blk.place]; omega), if_neg (by omega), if_neg (by omega)]
  refine (findIn_skip (l := idsRegs.take 4) (r := [idsRegs[4]]) before).trans ?_
  rw [findIn, found]
  rfl

theorem cfgDecode_srcstat {k : Nat} (hk : k < 512) : cfgDecode (rIdsSrcstat k) 8 true = some (.reg (srcstatAt k)) := by
  have off : rIdsSrcstat k = 0x2901008 + 0x10 * k := rfl
  have whole : rIdsSrcstat k / 8 * 8 = rIdsSrcstat k := by omega
  have sized : sizeOk (rIdsSrcstat k) 8 = true := by simp [sizeOk]; omega
  have unstaged : inStaging (rIdsSrcstat k) = false := by simp [inStaging]; omega
  unfold cfgDecode
  rw [whole, sized, unstaged, findReg_ids (by omega) (by omega), findReg_srcstat hk]
  rfl

/-- A write reaches the register that its offset decodes to. -/
theorem Reaches.eq_of_decodes {s : State} {m : Master} {off : Nat} {a b : RegAt} (h : Reaches s m off a)
    (found : cfgDecode off 8 true = some (.reg b)) : a = b := by
  have same := h.decodes.symm.trans found
  injection same with same
  injection same

/-! ### Arrivals (R478) -/

theorem State.arrive_arrives (s : State) (k : Nat) : Arrives s (s.arrive k) k := by
  have taken (h : s.rb (rIdsSrcstat k) fIdsSrcstatPend = true ∨ s.rb (rIdsSrcstat k) fIdsSrcstatActive = true) :
      (!s.rb (rIdsSrcstat k) fIdsSrcstatPend && !s.rb (rIdsSrcstat k) fIdsSrcstatActive) = false := by
    rcases h with h | h <;> simp [h]
  unfold State.arrive State.arriveCore
  refine ⟨fun pend active => ?_, fun h room => ?_, fun h full => ?_⟩
  · simp [pend, active]
  · simp [taken h, room, State.addRf]
  · simp [taken h, full, overrun]

/-- A write of 1 to IDS.SRCSTAT stores nothing: PEND is set by the arrival, and OVF is cleared by a 1 of its own (R10). -/
theorem State.storeReg_pend (s : State) (src k : Nat) :
    s.storeReg src (srcstatAt k) 1 (BitVec.allOnes 64) false = s.setReg (rIdsSrcstat k) (s.reg (rIdsSrcstat k)) := by
  have unlocked : s.lockedHit (srcstatAt k) 1 (BitVec.allOnes 64) = false := by
    unfold State.lockedHit
    simp [srcstatAt, idsRegs]
  have kept (v : Word) : v &&& 18446744073709551615#64 = v := BitVec.and_allOnes
  unfold State.storeReg
  rw [unlocked]
  simp [srcstatAt, idsRegs, State.storeFld, bitwise, maskOf, Word.setFld, kept]

/-- A write of 1 that reaches IDS.SRCSTAT leaves every register as it reads, and is an arrival. -/
theorem Reaches.write_srcstat {s : State} {m : Master} {k : Nat} {a : RegAt} (hk : k < 512)
    (h : Reaches s m (rIdsSrcstat k) a) :
    s.write m (rIdsSrcstat k) 1 = (s.setReg (rIdsSrcstat k) (s.reg (rIdsSrcstat k))).arrive k := by
  obtain rfl := h.eq_of_decodes (cfgDecode_srcstat hk)
  have covered : ((srcstatAt k).d.reg.acts && fldsMask (srcstatAt k).d.flds &&& BitVec.allOnes 64 == 0) = false := by
    show (idsRegs[4].reg.acts && fldsMask idsRegs[4].flds &&& BitVec.allOnes 64 == 0) = false
    decide
  rw [h.write (by simp), State.writeReg_plain (by simp) (by simp) covered rfl, State.storeReg_pend]
  rfl

theorem exec_srcstatPendWrite (m : Master) (k : BitVec 9) (s : State) :
    exec (.srcstatPendWrite m k) s = .next (s.write m (rIdsSrcstat k.toNat) 1) := rfl

/-! ### The end of an interrupt (R482) -/

/-- The caller that holds a source ACTIVE ends its interrupt; one counted arrival becomes pending. -/
theorem State.eoi_holder {s : State} {au : Auth} {k : Nat} (active : s.rb (rIdsSrcstat k) fIdsSrcstatActive = true)
    (holder : au.src = 0x80 + 2 * s.rf (rIdsSrcstat k) fIdsSrcstatActcal) :
    let t := s.setRf (rIdsSrcstat k) fIdsSrcstatActive 0
    let n := s.rf (rIdsSrcstat k) fIdsSrcstatCount
    s.eoi au k = if n = 0 then t else
      (t.setRf (rIdsSrcstat k) fIdsSrcstatCount (n - 1)).setRf (rIdsSrcstat k) fIdsSrcstatPend 1 := by
  intro t n
  have count : t.rf (rIdsSrcstat k) fIdsSrcstatCount = n := State.rf_setRf_other _ _ (.inr (.inr (by decide)))
  unfold State.eoi
  rw [if_pos (by simp [active, holder])]
  dsimp only
  rw [count]

/-- Any other EOI is BADEOI. -/
theorem State.eoi_bad {s : State} {au : Auth} {k : Nat} (other : ¬ (s.rb (rIdsSrcstat k) fIdsSrcstatActive = true ∧
    au.src = 0x80 + 2 * s.rf (rIdsSrcstat k) fIdsSrcstatActcal)) :
    s.eoi au k = s.flt ⟨.ids, 0, 1, none, 0, k, 0, false⟩ := by
  unfold State.eoi
  rw [if_neg (by simpa using other)]

/-- A write that reaches IDS.EOI stores nothing: it is the end of an interrupt. -/
theorem Reaches.write_eoi {s : State} {m : Master} {a : RegAt} (h : Reaches s m rIdsEoi a) (k : BitVec 9) :
    s.write m rIdsEoi (k.zeroExtend 64) = s.eoi (s.auth m) k.toNat := by
  obtain rfl := h.eq_of_decodes (b := eoiAt) (by decide)
  rw [h.acts (by decide) (by decide) (by decide) (by decide) (by decide) _ rfl]
  show s.eoi (s.auth m) (wr (k.zeroExtend 64) fIdsEoiSource) = _
  rw [wr_zeroExtend k (by decide)]

theorem exec_eoi (m : Master) (k : BitVec 9) (s : State) :
    exec (.eoi m k) s = .next (s.write m rIdsEoi (k.zeroExtend 64)) := rfl

/-! ### The commit of an offer (R480) -/

@[simp] theorem State.setOffer_cals (s : State) (c : Nat) (o : Option Nat) : (s.setOffer c o).cals = s.cals := rfl
@[simp] theorem State.setOffer_mem (s : State) (c : Nat) (o : Option Nat) : (s.setOffer c o).mem = s.mem := rfl
@[simp] theorem State.setOffer_reg (s : State) (c : Nat) (o : Option Nat) (a : Nat) : (s.setOffer c o).reg a = s.reg a := rfl

/-- The caller that accepted source `k` last becomes `c` (R480). -/
def State.setLast (s : State) (k c : Nat) : State :=
  { s with ids := { s.ids with last := Tab.set timeDefault s.ids.last k (some c) } }

@[simp] theorem State.setLast_cals (s : State) (k c : Nat) : (s.setLast k c).cals = s.cals := rfl
@[simp] theorem State.setLast_mem (s : State) (k c : Nat) : (s.setLast k c).mem = s.mem := rfl
@[simp] theorem State.setLast_reg (s : State) (k c a : Nat) : (s.setLast k c).reg a = s.reg a := rfl

/-- What a commit does to source `k` and to the distributor (R480): the source is ACTIVE at caller `c`, which holds no offer
any more and accepted it last. -/
def State.claim (s : State) (c k : Nat) : State :=
  (((((s.setRf (rIdsSrcstat k) fIdsSrcstatPend 0).setRf (rIdsSrcstat k) fIdsSrcstatActive 1).setRf
    (rIdsSrcstat k) fIdsSrcstatActcal c).setRf (rIdsCalstat c) fIdsCalstatLastsrc k).setOffer c none).setLast k c

/-- What a commit does to CAL.ENTRYLAT: a latency that is open (R453). -/
def State.noteLatency (s : State) (c : Nat) : State :=
  let (v, s) := s.takeFree
  let n := 16 + v.toNat % 240
  let s := s.setRf (rCalEntrylat c) fCalEntrylatLast n
  if s.rf (rCalEntrylat c) fCalEntrylatMax < n then s.setRf (rCalEntrylat c) fCalEntrylatMax n else s

theorem State.commitOffer_eq (s : State) (c k : Nat) : s.commitOffer c k = (s.claim c k).noteLatency c := rfl

theorem State.noteLatency_reg (s : State) {a c : Nat} (h : a ≠ rCalEntrylat c) : (s.noteLatency c).reg a = s.reg a :=
  ite_same (f := fun t => State.reg t a) ((State.reg_setRf_other _ _ _ h).trans (State.reg_setRf_other _ _ _ h))
    (State.reg_setRf_other _ _ _ h)
theorem State.noteLatency_cals (s : State) (c : Nat) : (s.noteLatency c).cals = s.cals := ite_same (f := State.cals) rfl rfl
theorem State.noteLatency_mem (s : State) (c : Nat) : (s.noteLatency c).mem = s.mem := ite_same (f := State.mem) rfl rfl

theorem State.claim_cals (s : State) (c k : Nat) : (s.claim c k).cals = s.cals := by simp [State.claim]
theorem State.claim_mem (s : State) (c k : Nat) : (s.claim c k).mem = s.mem := by simp [State.claim]

/-- IDS.SRCSTAT of a claimed source; IDS.CALSTAT stands below the sources. -/
theorem State.claim_reg_srcstat (s : State) {c : Nat} (k : Nat) (hc : c < 8) :
    (s.claim c k).reg (rIdsSrcstat k) = (((s.reg (rIdsSrcstat k)).setFld 0 1 0).setFld 1 1 1).setFld 16 4 c := by
  have calstat : rIdsSrcstat k ≠ rIdsCalstat c := by
    show 0x2901008 + 0x10 * k ≠ 0x2900180 + 0x8 * c
    omega
  simp [State.claim, State.reg_setRf, calstat]

/-- IDS.SRCSTAT of a committed source; CAL.ENTRYLAT stands below the distributor. -/
theorem State.commitOffer_reg_srcstat (s : State) {c : Nat} (k : Nat) (hc : c < 8) :
    (s.commitOffer c k).reg (rIdsSrcstat k) = (((s.reg (rIdsSrcstat k)).setFld 0 1 0).setFld 1 1 1).setFld 16 4 c := by
  have entrylat : rIdsSrcstat k ≠ rCalEntrylat c := by
    show 0x2901008 + 0x10 * k ≠ 0x1600120 + 0x100000 * c
    omega
  rw [State.commitOffer_eq, State.noteLatency_reg _ entrylat, State.claim_reg_srcstat s k hc]

/-- An accepted interrupt is committed (R480). -/
theorem State.commitOffer_committed (s : State) {c : Nat} (k : Nat) (hc : c < 8) : Committed s (s.commitOffer c k) c k where
  pend := by
    rw [State.rb_eq_bit, State.commitOffer_reg_srcstat s k hc]
    simp only [Word.bit, Word.getLsbD_setFld]
    simp
  active := by
    rw [State.rb_eq_bit, State.commitOffer_reg_srcstat s k hc]
    simp only [Word.bit, Word.getLsbD_setFld]
    simp
  holder := by
    unfold State.rf
    rw [State.commitOffer_reg_srcstat s k hc]
    exact Word.fld_setFld_same _ (by decide)
  count := by
    unfold State.rf
    rw [State.commitOffer_reg_srcstat s k hc, Word.fld_setFld_other _ (by decide), Word.fld_setFld_other _ (by decide),
      Word.fld_setFld_other _ (by decide)]
  callers := by rw [State.commitOffer_eq, State.noteLatency_cals, State.claim_cals]
  memory := by rw [State.commitOffer_eq, State.noteLatency_mem, State.claim_mem]

/-! ### Entry into a handler (R445, R456) -/

/-- STATUS changes no register and no memory. -/
theorem State.putStatus_frame (s : State) (c : Nat) (v : Word) :
    let t := s.putStatus c v
    (∀ a, t.reg a = s.reg a) ∧ t.mem = s.mem ∧ t.eccBad = s.eccBad ∧ t.hostMem = s.hostMem :=
  ⟨fun a => ite_same (f := fun t => State.reg t a) rfl rfl, ite_same (f := State.mem) rfl rfl,
    ite_same (f := State.eccBad) rfl rfl, ite_same (f := State.hostMem) rfl rfl⟩

/-- Entry changes its caller, and beside it the count of CAL.EXCCNT alone. -/
theorem State.enter_frame (s : State) (c : Nat) (t : SaveSet) (cause : Word) (faddr pc : Nat) (tag : Word) (handler : Nat) :
    ∃ x v, s.enter c t cause faddr pc tag handler =
      ((s.setCal c x).putStatus c v).addRf (rCalExccnt c) fCalExccntEntries 1 :=
  ⟨_, _, rfl⟩

theorem State.enter_entered (s : State) (c : Nat) (t : SaveSet) (cause : Word) (faddr pc : Nat) (tag : Word) (handler : Nat) :
    Entered s (s.enter c t cause faddr pc tag handler) c t cause faddr pc tag handler := by
  obtain ⟨level, ies, iem, held⟩ := entryStatus_bits s c t
  have entered := State.enter_cal s c t cause faddr pc tag handler
  have saves : ∀ z, ((s.enter c t cause faddr pc tag handler).cal c).save z = (((s.cal c).setSave t ⟨BitVec.ofNat 64 pc,
      s.statusWord c, BitVec.ofNat 64 (s.cal c).r.wp, cause, BitVec.ofNat 64 (faddr % 2 ^ 48), tag⟩)).save z := by
    intro z
    rw [entered]
    cases z <;> rfl
  constructor
  case saved => rw [saves, CalSt.save_setSave, if_pos rfl]
  case others => intro z hz; rw [saves, CalSt.save_setSave, if_neg hz]
  case goes => rw [entered]
  case window => rw [entered]
  case level => rw [entered]; cases t <;> exact level
  case masked => rw [entered]; exact ⟨ies, iem⟩
  case held => rw [entered]; exact held
  case registers => intro k; rw [entered]; rfl
  case callers => exact fun k hk => State.enter_other s c t cause faddr pc tag handler k hk
  case memory =>
    obtain ⟨x, v, eq⟩ := State.enter_frame s c t cause faddr pc tag handler
    rw [eq]
    exact ((s.setCal c x).putStatus_frame c v).2
  case counted =>
    obtain ⟨x, v, eq⟩ := State.enter_frame s c t cause faddr pc tag handler
    have same : ((s.setCal c x).putStatus c v).rf (rCalExccnt c) fCalExccntEntries = s.rf (rCalExccnt c) fCalExccntEntries :=
      congrArg (Word.fld · _ _) (((s.setCal c x).putStatus_frame c v).1 _)
    rw [eq]
    unfold State.addRf
    rw [State.rf_setRf_same _ _ _ (by decide), same]

/-! ### Offers (R452, R480, R481) -/

theorem exec_interruptOffer (c : BitVec 3) (s : State) : exec (.interruptOffer c) s = .next (s.irqOffer c.toNat) := rfl

/-- The set whose handler an offer of source `k` enters at caller `c` (R481). -/
def State.offerSet (s : State) (c k : Nat) : SaveSet :=
  if s.rb (rIdsSrccfg k) fIdsSrccfgLevel = true then .m else worldSet (s.calWorld c)

/-- The code of an interrupt from source `k` (R446, R452). -/
def State.offerCode (s : State) (k : Nat) : Nat := 0x30 + s.rf (rIdsSrccfg k) fIdsSrccfgPrio

/-- Without a source the offer that was outstanding ends (log entry 5). -/
theorem State.irqOffer_none {s : State} {c : Nat} (chosen : ((s.offerAt c).orElse fun _ => s.bestSource c) = none) :
    s.irqOffer c = s.setOffer c none := by
  unfold State.irqOffer
  rw [chosen]

section
variable {s : State} {c k : Nat}
variable (chosen : ((s.offerAt c).orElse fun _ => s.bestSource c) = some k)
include chosen

/-- A refused offer ends and is remembered (R480). -/
theorem State.irqOffer_refused (refused : s.accepts c (s.rb (rIdsSrccfg k) fIdsSrccfgLevel) (s.offerCode k) = false) :
    s.irqOffer c = { s.setOffer c none with
      ids := { (s.setOffer c none).ids with refused := Tab.set flagDefault s.ids.refused (512 * c + k) true } } := by
  unfold State.offerCode at refused
  unfold State.irqOffer
  rw [chosen]
  dsimp only
  rw [refused]
  rfl

/-- An accepted offer stays outstanding while a shadow, a table reload or an ORDER delays the entry (R449, R452). -/
theorem State.irqOffer_waits (accepted : s.accepts c (s.rb (rIdsSrccfg k) fIdsSrccfgLevel) (s.offerCode k) = true)
    (delayed : (s.cal c).shadow.isSome = true ∨ ((s.cal c).tab (s.offerSet c k)).busy = true ∨ (s.cal c).orders ≠ []) :
    s.irqOffer c = s.setOffer c (some k) := by
  unfold State.offerCode at accepted
  unfold State.offerSet at delayed
  unfold State.irqOffer
  rw [chosen]
  dsimp only
  rw [accepted, if_neg (by simp), if_pos (by simpa [or_assoc] using delayed)]

/-- An accepted offer that nothing delays is committed and enters its handler (R445, R480). -/
theorem State.irqOffer_enters {h : Nat} (accepted : s.accepts c (s.rb (rIdsSrccfg k) fIdsSrccfgLevel) (s.offerCode k) = true)
    (shadow : (s.cal c).shadow = none) (loaded : ((s.cal c).tab (s.offerSet c k)).busy = false)
    (orders : (s.cal c).orders = [])
    (handler : ((s.cal c).tab (s.offerSet c k)).handler (s.offerCode k) = some h) (free : (s.cal c).r.resident < 14) :
    s.irqOffer c = (s.commitOffer c k).enter c (s.offerSet c k) (causeWord (s.offerCode k) 0 k) 0 (s.cal c).boundary 0 h := by
  have room : 0 < (s.cal c).freePos := Nat.sub_pos_of_lt free
  unfold State.offerCode at *
  unfold State.offerSet at *
  unfold State.irqOffer State.room
  rw [chosen]
  dsimp only
  rw [accepted, if_neg (by simp), if_neg (by simp [shadow, loaded, orders]), handler]
  exact if_pos room

end

/-- Settles O38: an offer by its three ends, a write of PEND as an arrival, and EOI by its holder and by others. -/
theorem interruptsAreOfferedAndEnded : Obligations.InterruptsAreOfferedAndEnded := by
  refine ⟨?offers, ?arrivals, ?ends⟩
  case offers =>
    intro s c n chosen offering
    rw [exec_interruptOffer]
    refine ⟨fun nothing => ?_, fun k source => ⟨fun refused => ?_, fun accepted delayed => ?_, ?_⟩⟩
    · rw [State.irqOffer_none nothing]
      rfl
    · rw [State.irqOffer_refused source refused]
      rfl
    · rw [State.irqOffer_waits source accepted delayed]
      rfl
    · intro h accepted shadow loaded orders handler free
      rw [State.irqOffer_enters source accepted shadow loaded orders handler free]
      exact ⟨_, _, s.commitOffer_committed k c.isLt, rfl, State.enter_entered ..⟩
  case arrivals =>
    intro s m k a reaches
    rw [exec_srcstatPendWrite, reaches.write_srcstat k.isLt]
    refine ⟨s.setReg (rIdsSrcstat k.toNat) (s.reg (rIdsSrcstat k.toNat)), _, fun b => ?_, rfl, rfl,
      State.arrive_arrives ..⟩
    rw [State.reg_setReg]
    split
    · next same => rw [same]
    · rfl
  case ends =>
    intro s m k a reaches x mine
    rw [exec_eoi, reaches.write_eoi]
    refine ⟨fun ⟨active, holder⟩ zero => ?_, fun ⟨active, holder⟩ counted => ?_, fun other => ?_⟩
    · rw [State.eoi_holder active holder, if_pos zero]
    · rw [State.eoi_holder active holder, if_neg counted]
    · rw [State.eoi_bad other]

end Sys2Proof.Machine

/-! ## What every command and every step keep (R7, R623) -/

namespace Sys2Proof.Machine

/-- Every command answers a next state, which `Keeps` relates to the state before. -/
theorem exec_keeps (i : Instr) (s : State) : ∃ t, exec i s = .next t ∧ Keeps s t :=
  match i with
  | .vddAonRise => execVddAonRise_keeps s
  | .resetNRise => execResetNRise_keeps s
  | .resetNFall => execResetNFall_keeps s
  | .pfailNFall => execPfailNFall_keeps s
  | .supplyRemoval => execSupplyRemoval_keeps s
  | .thermNChange level => execThermNChange_keeps level s
  | .refclkEthStop => execRefclkEthStop_keeps s
  | .refclkEthReturn => execRefclkEthReturn_keeps s
  | .pciePerstNFall => execPciePerstNFall_keeps s
  | .modectlRehearsal m after => execModectlRehearsal_keeps m after s
  | .modectlCustody m after => execModectlCustody_keeps m after s
  | .modectlCurtain m after => execModectlCurtain_keeps m after s
  | .modectlRefit m after => execModectlRefit_keeps m after s
  | .modeTransitionComplete => execModeTransitionComplete_keeps s
  | .rehearsalEnd => execRehearsalEnd_keeps s
  | .dieSensorRead temps mv => execDieSensorRead_keeps temps mv s
  | .restraintEnd => execRestraintEnd_keeps s
  | .overtemp sensor => execOvertemp_keeps sensor s
  | .calstart m callers => execCalstart_keeps m callers s
  | .functionReady bit => execFunctionReady_keeps bit s
  | .bootload m copy => execBootload_keeps m copy s
  | .bootloadDone => execBootloadDone_keeps s
  | .domainSwitchOff m d => execDomainSwitchOff_keeps m d s
  | .domainSwitchOn m d => execDomainSwitchOn_keeps m d s
  | .registerWrite m addr size v => execRegisterWrite_keeps m addr size v s
  | .clamplogRead m => execClamplogRead_keeps m s
  | .engRejectRead m e w => execEngRejectRead_keeps m e w s
  | .engCplerrRead m e w => execEngCplerrRead_keeps m e w s
  | .engTraprepRead m e w => execEngTraprepRead_keeps m e w s
  | .mmrep0Read m k => execMmrep0Read_keeps m k s
  | .fltFirst0Read m b => execFltFirst0Read_keeps m b s
  | .stagingWrite m off size v => execStagingWrite_keeps m off size v s
  | .cfgCommit m count check => execCfgCommit_keeps m count check s
  | .cfgPreview m count check => execCfgPreview_keeps m count check s
  | .previewDone => execPreviewDone_keeps s
  | .cfgAbort m => execCfgAbort_keeps m s
  | .commitApplied => execCommitApplied_keeps s
  | .placementMove => execPlacementMove_keeps s
  | .digestTimer => execDigestTimer_keeps s
  | .digestStart => execDigestStart_keeps s
  | .digestPublish => execDigestPublish_keeps s
  | .issueOrder c d s1 s2 => execIssueOrder_keeps c d s1 s2 s
  | .orderStart e w => execOrderStart_keeps e w s
  | .orderComplete e w => execOrderComplete_keeps e w s
  | .recordWritten e w => execRecordWritten_keeps e w s
  | .tpCycleStart e => execTpCycleStart_keeps e s
  | .tpSlotBoundary e => execTpSlotBoundary_keeps e s
  | .stallWatchdogExpiry e w => execStallWatchdogExpiry_keeps e w s
  | .engSuspend m e w => execEngSuspend_keeps m e w s
  | .resumeContinue m e w tag => execResumeContinue_keeps m e w tag s
  | .resumePass m e w tag => execResumePass_keeps m e w tag s
  | .resumeSkip m e w tag => execResumeSkip_keeps m e w tag s
  | .resumeAbandon m e w tag => execResumeAbandon_keeps m e w tag s
  | .relayCreditReturn r => execRelayCreditReturn_keeps r s
  | .relayEnable m r v => execRelayEnable_keeps m r v s
  | .rlyflush m r => execRlyflush_keeps m r s
  | .signatureCompare e w err => execSignatureCompare_keeps e w err s
  | .encoreStart e w => execEncoreStart_keeps e w s
  | .encoreEnd err => execEncoreEnd_keeps err s
  | .fullProofDone k caught lane bitPos => execFullProofDone_keeps k caught lane bitPos s
  | .periodicProof k caught => execPeriodicProof_keeps k caught s
  | .comparatorSubstitution q => execComparatorSubstitution_keeps q s
  | .repModeWrite m spair vpair => execRepModeWrite_keeps m spair vpair s
  | .enginePairingChange e => execEnginePairingChange_keeps e s
  | .frclose m f => execFrclose_keeps m f s
  | .frameCloseDeferred f => execFrameCloseDeferred_keeps f s
  | .frameClearDone f => execFrameClearDone_keeps f s
  | .frameEnable m f v => execFrameEnable_keeps m f v s
  | .hbmTempRead k temp valid => execHbmTempRead_keeps k temp valid s
  | .hbmBandReturn k => execHbmBandReturn_keeps k s
  | .hbmRefresh pc bank => execHbmRefresh_keeps pc bank s
  | .hbmScrub pc granule found => execHbmScrub_keeps pc granule found s
  | .hbmSoftRepair k => execHbmSoftRepair_keeps k s
  | .retentWrite m k v => execRetentWrite_keeps m k v s
  | .scpScrub word found => execScpScrub_keeps word found s
  | .scpSwap m bank => execScpSwap_keeps m bank s
  | .bankSwapDone q => execBankSwapDone_keeps q s
  | .arbiterGrant cls idx req note => execArbiterGrant_keeps cls idx req note s
  | .loadResponse c reply => execLoadResponse_keeps c reply s
  | .storeDrain c => execStoreDrain_keeps c s
  | .storeResponse c err => execStoreResponse_keeps c err s
  | .longOpRetire c t => execLongOpRetire_keeps c t s
  | .spill c => execSpill_keeps c s
  | .refill c => execRefill_keeps c s
  | .tableReloadDone c t => execTableReloadDone_keeps c t s
  | .calWorldWrite m c w => execCalWorldWrite_keeps m c w s
  | .wsbaseWrite m c v => execWsbaseWrite_keeps m c v s
  | .calRestart m c addr => execCalRestart_keeps m c addr s
  | .interruptOffer c => execInterruptOffer_keeps c s
  | .srcstatPendWrite m src => execSrcstatPendWrite_keeps m src s
  | .eoi m src => execEoi_keeps m src s
  | .cueFires m ch => execCueFires_keeps m ch s
  | .cueFirev m ch => execCueFirev_keeps m ch s
  | .grpset m groups => execGrpset_keeps m groups s
  | .grpclr m groups => execGrpclr_keeps m groups s
  | .rateWindow => execRateWindow_keeps s
  | .cueTimerExpiry t => execCueTimerExpiry_keeps t s
  | .cueInActivation j => execCueInActivation_keeps j s
  | .cueInRepeat j => execCueInRepeat_keeps j s
  | .cueStuck j => execCueStuck_keeps j s
  | .pincfgWrite m j v => execPincfgWrite_keeps m j v s
  | .cueOutPulseEnd o => execCueOutPulseEnd_keeps o s
  | .fltInject m b kind => execFltInject_keeps m b kind s
  | .alarmPulseEnd => execAlarmPulseEnd_keeps s
  | .beatMonitorUpdate res rate ratio => execBeatMonitorUpdate_keeps res rate ratio s
  | .selfTest res pass => execSelfTest_keeps res pass s
  | .deferExpiry => execDeferExpiry_keeps s
  | .laneSwap pass dur => execLaneSwap_keeps pass dur s
  | .engineMigration pass dur => execEngineMigration_keeps pass dur s
  | .callerSwap pass dur => execCallerSwap_keeps pass dur s
  | .sealUnitSwap pass dur => execSealUnitSwap_keeps pass dur s
  | .swapLaneCommand m target lane phys => execSwapLaneCommand_keeps m target lane phys s
  | .swapEngineCommand m target phys => execSwapEngineCommand_keeps m target phys s
  | .swapCallerCommand m target phys => execSwapCallerCommand_keeps m target phys s
  | .swapComparatorCommand m target phys => execSwapComparatorCommand_keeps m target phys s
  | .swapSealCommand m target phys => execSwapSealCommand_keeps m target phys s
  | .recordOpen e w => execRecordOpen_keeps e w s
  | .folioProgramDone w target upTo pass => execFolioProgramDone_keeps w target upTo pass s
  | .eraseDone target pass => execEraseDone_keeps target pass s
  | .nandReadDone w target pos stage => execNandReadDone_keeps w target pos stage s
  | .colophonTimer => execColophonTimer_keeps s
  | .colophonPageProgrammed w pass => execColophonPageProgrammed_keeps w pass s
  | .folioAgeExpiry w target pos => execFolioAgeExpiry_keeps w target pos s
  | .mapCheckpoint => execMapCheckpoint_keeps s
  | .arcWaitLimit e w => execArcWaitLimit_keeps e w s
  | .arcRelease m w below => execArcRelease_keeps m w below s
  | .arcAudit m count unit => execArcAudit_keeps m count unit s
  | .auditEnd => execAuditEnd_keeps s
  | .bootctl m length copy => execBootctl_keeps m length copy s
  | .bootStoreDone pass => execBootStoreDone_keeps pass s
  | .archiveRecovery => execArchiveRecovery_keeps s
  | .recoveryDone ms => execRecoveryDone_keeps ms s
  | .flushFinalColophon => execFlushFinalColophon_keeps s
  | .flushEnd => execFlushEnd_keeps s
  | .linkUp p speed fec => execLinkUp_keeps p speed fec s
  | .linkDown p => execLinkDown_keeps p s
  | .frameReceive p frame fcsOk cut sec => execFrameReceive_keeps p frame fcsOk cut sec s
  | .askustReceive p rtag tel => execAskustReceive_keeps p rtag tel s
  | .telegramDelivery p => execTelegramDelivery_keeps p s
  | .gptpSync p sync offset interval => execGptpSync_keeps p sync offset interval s
  | .announce p msg master => execAnnounce_keeps p msg master s
  | .pdelayResp p delay => execPdelayResp_keeps p delay s
  | .syncTimeout p => execSyncTimeout_keeps p s
  | .txtailWrite m p w tail => execTxtailWrite_keeps m p w tail s
  | .txDescriptor p w => execTxDescriptor_keeps p w s
  | .gateIntervalEnd p => execGateIntervalEnd_keeps p s
  | .resync m n => execResync_keeps m n s
  | .keydataWrite m p v => execKeydataWrite_keeps m p v s
  | .keyInstall m p v => execKeyInstall_keeps m p v s
  | .feedb m u v => execFeedb_keeps m u v s
  | .feedh m u v => execFeedh_keeps m u v s
  | .feedw m u v => execFeedw_keeps m u v s
  | .seaClose m u => execSeaClose_keeps m u s
  | .scanlenWrite m u len closeAfter => execScanlenWrite_keeps m u len closeAfter s
  | .scanEnd u => execScanEnd_keeps u s
  | .seaCtlWrite m u v => execSeaCtlWrite_keeps m u v s
  | .sqTailDoorbell f n t => execSqTailDoorbell_keeps f n t s
  | .cqHeadDoorbell f n h => execCqHeadDoorbell_keeps f n h s
  | .descriptorFetch f n => execDescriptorFetch_keeps f n s
  | .runDesc f n j => execRunDesc_keeps f n j s
  | .copyHostToDevice f n j k => execCopyHostToDevice_keeps f n j k s
  | .copyDeviceToHost f n j k => execCopyDeviceToHost_keeps f n j k s
  | .copyToRelay f n j k => execCopyToRelay_keeps f n j k s
  | .copyToFrame f n j => execCopyToFrame_keeps f n j s
  | .archiveRead f n j k => execArchiveRead_keeps f n j k s
  | .configStage f n j => execConfigStage_keeps f n j s
  | .noteDesc f n j => execNoteDesc_keeps f n j s
  | .completionWrite f n => execCompletionWrite_keeps f n s
  | .coalesceTimer f n => execCoalesceTimer_keeps f n s
  | .ringEnable m f cq n v => execRingEnable_keeps m f cq n v s
  | .ringDisable m f cq n v => execRingDisable_keeps m f cq n v s
  | .functionLevelReset f => execFunctionLevelReset_keeps f s
  | .pcieLinkDown => execPcieLinkDown_keeps s
  | .completionTimeout who => execCompletionTimeout_keeps who s
  | .bar4Access f off size wr => execBar4Access_keeps f off size wr s
  | .bypass => execBypass_keeps s
  | .idcode => execIdcode_keeps s
  | .samplePreload pins => execSamplePreload_keeps pins s
  | .extest => execExtest_keeps s
  | .extestPulse => execExtestPulse_keeps s
  | .extestTrain => execExtestTrain_keeps s
  | .trstNLow => execTrstNLow_keeps s
  | .add c d s1 s2 => execAdd_keeps c d s1 s2 s
  | .sub c d s1 s2 => execSub_keeps c d s1 s2 s
  | .and c d s1 s2 => execAnd_keeps c d s1 s2 s
  | .or c d s1 s2 => execOr_keeps c d s1 s2 s
  | .xor c d s1 s2 => execXor_keeps c d s1 s2 s
  | .andn c d s1 s2 => execAndn_keeps c d s1 s2 s
  | .shl c d s1 s2 => execShl_keeps c d s1 s2 s
  | .shr c d s1 s2 => execShr_keeps c d s1 s2 s
  | .sar c d s1 s2 => execSar_keeps c d s1 s2 s
  | .rotl c d s1 s2 => execRotl_keeps c d s1 s2 s
  | .slt c d s1 s2 => execSlt_keeps c d s1 s2 s
  | .sltu c d s1 s2 => execSltu_keeps c d s1 s2 s
  | .min c d s1 s2 => execMin_keeps c d s1 s2 s
  | .max c d s1 s2 => execMax_keeps c d s1 s2 s
  | .minu c d s1 s2 => execMinu_keeps c d s1 s2 s
  | .maxu c d s1 s2 => execMaxu_keeps c d s1 s2 s
  | .addsat c d s1 s2 => execAddsat_keeps c d s1 s2 s
  | .subsat c d s1 s2 => execSubsat_keeps c d s1 s2 s
  | .clz c d s1 s2 => execClz_keeps c d s1 s2 s
  | .popcnt c d s1 s2 => execPopcnt_keeps c d s1 s2 s
  | .addi c d s1 imm => execAddi_keeps c d s1 imm s
  | .andi c d s1 imm => execAndi_keeps c d s1 imm s
  | .ori c d s1 imm => execOri_keeps c d s1 imm s
  | .xori c d s1 imm => execXori_keeps c d s1 imm s
  | .slti c d s1 imm => execSlti_keeps c d s1 imm s
  | .sltiu c d s1 imm => execSltiu_keeps c d s1 imm s
  | .shiftiShl c d s1 count => execShiftiShl_keeps c d s1 count s
  | .shiftiShr c d s1 count => execShiftiShr_keeps c d s1 count s
  | .shiftiSar c d s1 count => execShiftiSar_keeps c d s1 count s
  | .shiftiRotl c d s1 count => execShiftiRotl_keeps c d s1 count s
  | .lih c d s1 imm => execLih_keeps c d s1 imm s
  | .shori c d s1 imm => execShori_keeps c d s1 imm s
  | .mul c d s1 s2 => execMul_keeps c d s1 s2 s
  | .mulh c d s1 s2 => execMulh_keeps c d s1 s2 s
  | .mulhu c d s1 s2 => execMulhu_keeps c d s1 s2 s
  | .mulsat c d s1 s2 => execMulsat_keeps c d s1 s2 s
  | .div c d s1 s2 => execDiv_keeps c d s1 s2 s
  | .divu c d s1 s2 => execDivu_keeps c d s1 s2 s
  | .rem c d s1 s2 => execRem_keeps c d s1 s2 s
  | .remu c d s1 s2 => execRemu_keeps c d s1 s2 s
  | .ldb c d s1 imm => execLdb_keeps c d s1 imm s
  | .ldbu c d s1 imm => execLdbu_keeps c d s1 imm s
  | .ldh c d s1 imm => execLdh_keeps c d s1 imm s
  | .ldhu c d s1 imm => execLdhu_keeps c d s1 imm s
  | .ldw c d s1 imm => execLdw_keeps c d s1 imm s
  | .ldwu c d s1 imm => execLdwu_keeps c d s1 imm s
  | .ldd c d s1 imm => execLdd_keeps c d s1 imm s
  | .stb c d s1 imm => execStb_keeps c d s1 imm s
  | .sth c d s1 imm => execSth_keeps c d s1 imm s
  | .stw c d s1 imm => execStw_keeps c d s1 imm s
  | .std c d s1 imm => execStd_keeps c d s1 imm s
  | .beq c s1 s2 off => execBeq_keeps c s1 s2 off s
  | .bne c s1 s2 off => execBne_keeps c s1 s2 off s
  | .blt c s1 s2 off => execBlt_keeps c s1 s2 off s
  | .bge c s1 s2 off => execBge_keeps c s1 s2 off s
  | .bltu c s1 s2 off => execBltu_keeps c s1 s2 off s
  | .bgeu c s1 s2 off => execBgeu_keeps c s1 s2 off s
  | .j c off => execJ_keeps c off s
  | .call c off => execCall_keeps c off s
  | .jr c d s1 s2 => execJr_keeps c d s1 s2 s
  | .callr c d s1 s2 => execCallr_keeps c d s1 s2 s
  | .ret c d s1 s2 => execRet_keeps c d s1 s2 s
  | .fadd c d s1 s2 rnd ty => execFadd_keeps c d s1 s2 rnd ty s
  | .fsub c d s1 s2 rnd ty => execFsub_keeps c d s1 s2 rnd ty s
  | .fmul c d s1 s2 rnd ty => execFmul_keeps c d s1 s2 rnd ty s
  | .fdiv c d s1 s2 rnd ty => execFdiv_keeps c d s1 s2 rnd ty s
  | .fsqrt c d s1 s2 rnd ty => execFsqrt_keeps c d s1 s2 rnd ty s
  | .fmin c d s1 s2 rnd ty => execFmin_keeps c d s1 s2 rnd ty s
  | .fmax c d s1 s2 rnd ty => execFmax_keeps c d s1 s2 rnd ty s
  | .fabs c d s1 s2 rnd ty => execFabs_keeps c d s1 s2 rnd ty s
  | .fneg c d s1 s2 rnd ty => execFneg_keeps c d s1 s2 rnd ty s
  | .fcpsgn c d s1 s2 rnd ty => execFcpsgn_keeps c d s1 s2 rnd ty s
  | .fcmpeq c d s1 s2 rnd ty => execFcmpeq_keeps c d s1 s2 rnd ty s
  | .fcmplt c d s1 s2 rnd ty => execFcmplt_keeps c d s1 s2 rnd ty s
  | .fcmple c d s1 s2 rnd ty => execFcmple_keeps c d s1 s2 rnd ty s
  | .fcmpun c d s1 s2 rnd ty => execFcmpun_keeps c d s1 s2 rnd ty s
  | .fclass c d s1 s2 rnd ty => execFclass_keeps c d s1 s2 rnd ty s
  | .frndint c d s1 s2 rnd ty => execFrndint_keeps c d s1 s2 rnd ty s
  | .fquant c d s1 s2 rnd ty => execFquant_keeps c d s1 s2 rnd ty s
  | .fscaleb c d s1 s2 rnd ty => execFscaleb_keeps c d s1 s2 rnd ty s
  | .flogb c d s1 s2 rnd ty => execFlogb_keeps c d s1 s2 rnd ty s
  | .fma c d s1 s2 s3 rnd ty => execFma_keeps c d s1 s2 s3 rnd ty s
  | .fms c d s1 s2 s3 rnd ty => execFms_keeps c d s1 s2 s3 rnd ty s
  | .fnma c d s1 s2 s3 rnd ty => execFnma_keeps c d s1 s2 s3 rnd ty s
  | .cvt c d s1 sty tty rnd => execCvt_keeps c d s1 sty tty rnd s
  | .cvtsat c d s1 sty tty rnd => execCvtsat_keeps c d s1 sty tty rnd s
  | .vadd c vd vs1 vs2 masked scalar => execVadd_keeps c vd vs1 vs2 masked scalar s
  | .vsub c vd vs1 vs2 masked scalar => execVsub_keeps c vd vs1 vs2 masked scalar s
  | .vmul c vd vs1 vs2 masked scalar => execVmul_keeps c vd vs1 vs2 masked scalar s
  | .vmulh c vd vs1 vs2 masked scalar => execVmulh_keeps c vd vs1 vs2 masked scalar s
  | .vdiv c vd vs1 vs2 masked scalar => execVdiv_keeps c vd vs1 vs2 masked scalar s
  | .vsqrt c vd vs1 vs2 masked scalar => execVsqrt_keeps c vd vs1 vs2 masked scalar s
  | .vmin c vd vs1 vs2 masked scalar => execVmin_keeps c vd vs1 vs2 masked scalar s
  | .vmax c vd vs1 vs2 masked scalar => execVmax_keeps c vd vs1 vs2 masked scalar s
  | .vand c vd vs1 vs2 masked scalar => execVand_keeps c vd vs1 vs2 masked scalar s
  | .vor c vd vs1 vs2 masked scalar => execVor_keeps c vd vs1 vs2 masked scalar s
  | .vxor c vd vs1 vs2 masked scalar => execVxor_keeps c vd vs1 vs2 masked scalar s
  | .vshl c vd vs1 vs2 masked scalar => execVshl_keeps c vd vs1 vs2 masked scalar s
  | .vshr c vd vs1 vs2 masked scalar => execVshr_keeps c vd vs1 vs2 masked scalar s
  | .vsar c vd vs1 vs2 masked scalar => execVsar_keeps c vd vs1 vs2 masked scalar s
  | .vsel c vd vs1 vs2 masked scalar => execVsel_keeps c vd vs1 vs2 masked scalar s
  | .vcmpeq c vd vs1 vs2 masked scalar => execVcmpeq_keeps c vd vs1 vs2 masked scalar s
  | .vcmpne c vd vs1 vs2 masked scalar => execVcmpne_keeps c vd vs1 vs2 masked scalar s
  | .vcmplt c vd vs1 vs2 masked scalar => execVcmplt_keeps c vd vs1 vs2 masked scalar s
  | .vcmple c vd vs1 vs2 masked scalar => execVcmple_keeps c vd vs1 vs2 masked scalar s
  | .vfma c vd vs1 vs2 masked scalar => execVfma_keeps c vd vs1 vs2 masked scalar s
  | .vfms c vd vs1 vs2 masked scalar => execVfms_keeps c vd vs1 vs2 masked scalar s
  | .vredsum c vd vs1 vs2 masked scalar => execVredsum_keeps c vd vs1 vs2 masked scalar s
  | .vredmin c vd vs1 vs2 masked scalar => execVredmin_keeps c vd vs1 vs2 masked scalar s
  | .vredmax c vd vs1 vs2 masked scalar => execVredmax_keeps c vd vs1 vs2 masked scalar s
  | .vmvx c vd vs1 vs2 masked scalar => execVmvx_keeps c vd vs1 vs2 masked scalar s
  | .vld c d s1 imm => execVld_keeps c d s1 imm s
  | .vst c d s1 imm => execVst_keeps c d s1 imm s
  | .setvl c d s1 imm => execSetvl_keeps c d s1 imm s
  | .syncC c d s1 s2 => execSyncC_keeps c d s1 s2 s
  | .syncF c d s1 s2 => execSyncF_keeps c d s1 s2 s
  | .barrier c d s1 s2 => execBarrier_keeps c d s1 s2 s
  | .fenceE c d s1 s2 => execFenceE_keeps c d s1 s2 s
  | .cinvI c d s1 s2 => execCinvI_keeps c d s1 s2 s
  | .cinvIa c d s1 s2 => execCinvIa_keeps c d s1 s2 s
  | .cinvD c d s1 s2 => execCinvD_keeps c d s1 s2 s
  | .cinvDa c d s1 s2 => execCinvDa_keeps c d s1 s2 s
  | .wflush c d s1 s2 => execWflush_keeps c d s1 s2 s
  | .wait c d s1 s2 => execWait_keeps c d s1 s2 s
  | .crr c d s1 num => execCrr_keeps c d s1 num s
  | .crw c d s1 num => execCrw_keeps c d s1 num s
  | .scall c => execScall_keeps c s
  | .mcall c => execMcall_keeps c s
  | .brk c => execBrk_keeps c s
  | .retx c => execRetx_keeps c s
  | .addOrder e w k => execAddOrder_keeps e w k s
  | .subOrder e w k => execSubOrder_keeps e w k s
  | .mulOrder e w k => execMulOrder_keeps e w k s
  | .fmaOrder e w k => execFmaOrder_keeps e w k s
  | .fmsOrder e w k => execFmsOrder_keeps e w k s
  | .fnmaOrder e w k => execFnmaOrder_keeps e w k s
  | .divOrder e w k => execDivOrder_keeps e w k s
  | .sqrtOrder e w k => execSqrtOrder_keeps e w k s
  | .minOrder e w k => execMinOrder_keeps e w k s
  | .maxOrder e w k => execMaxOrder_keeps e w k s
  | .absOrder e w k => execAbsOrder_keeps e w k s
  | .negOrder e w k => execNegOrder_keeps e w k s
  | .addsatOrder e w k => execAddsatOrder_keeps e w k s
  | .subsatOrder e w k => execSubsatOrder_keeps e w k s
  | .mulsatOrder e w k => execMulsatOrder_keeps e w k s
  | .mulwideOrder e w k => execMulwideOrder_keeps e w k s
  | .mulhiOrder e w k => execMulhiOrder_keeps e w k s
  | .andOrder e w k => execAndOrder_keeps e w k s
  | .orOrder e w k => execOrOrder_keeps e w k s
  | .xorOrder e w k => execXorOrder_keeps e w k s
  | .notOrder e w k => execNotOrder_keeps e w k s
  | .andnotOrder e w k => execAndnotOrder_keeps e w k s
  | .shlOrder e w k => execShlOrder_keeps e w k s
  | .shrOrder e w k => execShrOrder_keeps e w k s
  | .sarOrder e w k => execSarOrder_keeps e w k s
  | .rotlOrder e w k => execRotlOrder_keeps e w k s
  | .selectOrder e w k => execSelectOrder_keeps e w k s
  | .clzOrder e w k => execClzOrder_keeps e w k s
  | .popcntOrder e w k => execPopcntOrder_keeps e w k s
  | .cvtOrder e w k => execCvtOrder_keeps e w k s
  | .rndintOrder e w k => execRndintOrder_keeps e w k s
  | .quantizeOrder e w k => execQuantizeOrder_keeps e w k s
  | .cvtsatOrder e w k => execCvtsatOrder_keeps e w k s
  | .cmpeqOrder e w k => execCmpeqOrder_keeps e w k s
  | .cmpneOrder e w k => execCmpneOrder_keeps e w k s
  | .cmpltOrder e w k => execCmpltOrder_keeps e w k s
  | .cmpleOrder e w k => execCmpleOrder_keeps e w k s
  | .cmpgtOrder e w k => execCmpgtOrder_keeps e w k s
  | .cmpgeOrder e w k => execCmpgeOrder_keeps e w k s
  | .cmpunOrder e w k => execCmpunOrder_keeps e w k s
  | .cmpordOrder e w k => execCmpordOrder_keeps e w k s
  | .sumOrder e w k => execSumOrder_keeps e w k s
  | .minrOrder e w k => execMinrOrder_keeps e w k s
  | .maxrOrder e w k => execMaxrOrder_keeps e w k s
  | .andrOrder e w k => execAndrOrder_keeps e w k s
  | .orrOrder e w k => execOrrOrder_keeps e w k s
  | .xorrOrder e w k => execXorrOrder_keeps e w k s
  | .dotOrder e w k => execDotOrder_keeps e w k s
  | .segsumOrder e w k => execSegsumOrder_keeps e w k s
  | .segminOrder e w k => execSegminOrder_keeps e w k s
  | .segmaxOrder e w k => execSegmaxOrder_keeps e w k s
  | .segdotOrder e w k => execSegdotOrder_keeps e w k s
  | .linrecOrder e w k => execLinrecOrder_keeps e w k s
  | .psumOrder e w k => execPsumOrder_keeps e w k s
  | .psumxOrder e w k => execPsumxOrder_keeps e w k s
  | .segpsumOrder e w k => execSegpsumOrder_keeps e w k s
  | .compressOrder e w k => execCompressOrder_keeps e w k s
  | .expandOrder e w k => execExpandOrder_keeps e w k s
  | .gatherOrder e w k => execGatherOrder_keeps e w k s
  | .scatterOrder e w k => execScatterOrder_keeps e w k s
  | .scatteraddOrder e w k => execScatteraddOrder_keeps e w k s
  | .spmvOrder e w k => execSpmvOrder_keeps e w k s
  | .copyOrder e w k => execCopyOrder_keeps e w k s
  | .fillOrder e w k => execFillOrder_keeps e w k s
  | .arcappendOrder e w k => execArcappendOrder_keeps e w k s
  | .arcreadOrder e w k => execArcreadOrder_keeps e w k s
  | .sealfeedOrder e w k => execSealfeedOrder_keeps e w k s
  | .sceneOrder e w k => execSceneOrder_keeps e w k s
  | .scalebOrder e w k => execScalebOrder_keeps e w k s
  | .logbOrder e w k => execLogbOrder_keeps e w k s
  | .copysignOrder e w k => execCopysignOrder_keeps e w k s
  | .classOrder e w k => execClassOrder_keeps e w k s
  | .cueInInactive j => execCueInInactive_keeps j s
  | .pfailNRise => execPfailNRise_keeps s
  | .heldResetNRise => execHeldResetNRise_keeps s
  | .pcieLinkUp gen width bme => execPcieLinkUp_keeps gen width bme s
  | .retentionLate w target pos => execRetentionLate_keeps w target pos s
  | .trstNHigh => execTrstNHigh_keeps s

/-- Settles O56: by the constructors of the command, each by what its own meaning keeps. -/
theorem everyCommandCompletesAndKeeps : Obligations.EveryCommandCompletesAndKeeps := by
  intro i s
  obtain ⟨t, next, keeps⟩ := exec_keeps i s
  exact ⟨t, next, keeps.queue, keeps.beats, keeps.time, keeps.free, keeps.canonical⟩

/-- A step with a command in front is that command on the rest of the queue. -/
theorem step_command {s : State} {i : Instr} {rest : List Instr} (h : s.pending = i :: rest) :
    step s = exec i { s with pending := rest } := by
  unfold step
  rw [h]

/-- A step without a command is an idle microsecond. -/
theorem step_idle {s : State} (h : s.pending = []) : step s = .next s.idle := by
  unfold step
  rw [h]

/-- An idle microsecond keeps the queue and the canonical form. -/
theorem State.idle_canonical {s : State} (h : s.canonical) : s.idle.canonical ∧ s.idle.pending = s.pending := by
  cases stopped : (!s.cus.clock || !s.cus.aon)
  · have keeps := State.idle_keeps exec_keeps stopped
    exact ⟨keeps.canonical h, keeps.queue⟩
  · unfold State.idle
    rw [if_pos stopped]
    exact ⟨h, rfl⟩

/-- Settles O57: a step is a command on the rest of the queue, or an idle microsecond. -/
theorem everyStepKeepsTheCanonicalForm : Obligations.EveryStepKeepsTheCanonicalForm := by
  intro s canonical
  cases queue : s.pending with
  | nil =>
    have idle := State.idle_canonical canonical
    exact ⟨s.idle, step_idle queue, idle.1, idle.2.trans queue⟩
  | cons i rest =>
    obtain ⟨t, next, keeps⟩ := exec_keeps i { s with pending := rest }
    exact ⟨t, (step_command queue).trans next, keeps.canonical canonical, keeps.queue⟩

/-- Settles O58: no table of the reset state lists anything. -/
theorem resetIsInCanonicalForm : Obligations.ResetIsInCanonicalForm := ⟨rfl, rfl, rfl, rfl⟩

end Sys2Proof.Machine

/-! ## Integer instructions (R399, R400, R403, R447) -/

namespace Sys2Proof.Machine

/-- An instruction of the ALU on two registers that acts gives its result. -/
theorem State.alu2_gives {s : State} {c word : Nat} {d s1 s2 : BitVec 5} {f : Word → Word → Word} {v : Word}
    (acts : Acts s c [d, s1, s2] []) (result : f (s.gpr c s1) (s.gpr c s2) = v) :
    GivesResult s (s.alu2 c word d s1 s2 f) c d v := by
  unfold State.alu2
  rw [State.instr_acts rfl acts, result]
  exact State.setGpr_next ..

/-- An instruction of the ALU on one register that acts gives its result. -/
theorem State.alu1_gives {s : State} {c word : Nat} {d s1 : BitVec 5} {f : Word → Word} {v : Word}
    (acts : Acts s c [d, s1] []) (result : f (s.gpr c s1) = v) : GivesResult s (s.alu1 c word d s1 f) c d v := by
  unfold State.alu1
  rw [State.instr_acts rfl acts, result]
  exact State.setGpr_next ..

/-- g0 is never waited for. -/
theorem Acts.name_zero {s : State} {c : Nat} {d : BitVec 5} {v : List Nat} (acts : Acts s c [d] v) : Acts s c [d, 0] v :=
  ⟨acts.issues, acts.fetched, acts.shadow, acts.free⟩

/-- Settles O1: each instruction is one of the ALU, whose result is the operation on the registers' values. -/
theorem integerInstructionsWriteTheirResults : Obligations.IntegerInstructionsWriteTheirResults := by
  intro i s c d named v form acts
  have count : ∀ w : Word, w.toNat % 64 < 64 := fun w => Nat.mod_lt _ (by decide)
  unfold integerResult at form
  split at form <;> cases form
  case h_1 => exact ⟨_, rfl, State.alu2_gives acts rfl⟩
  case h_2 => exact ⟨_, rfl, State.alu2_gives acts rfl⟩
  case h_3 => exact ⟨_, rfl, State.alu2_gives acts rfl⟩
  case h_4 => exact ⟨_, rfl, State.alu2_gives acts rfl⟩
  case h_5 => exact ⟨_, rfl, State.alu2_gives acts rfl⟩
  case h_6 => exact ⟨_, rfl, State.alu2_gives acts rfl⟩
  case h_7 => exact ⟨_, rfl, State.alu2_gives acts (shiftL_eq _ _ (count _))⟩
  case h_8 => exact ⟨_, rfl, State.alu2_gives acts (shiftR_eq _ _ (count _))⟩
  case h_9 => exact ⟨_, rfl, State.alu2_gives acts (shiftA_eq _ _ (count _))⟩
  case h_10 => exact ⟨_, rfl, State.alu2_gives acts (rotL_eq _ _ (count _))⟩
  case h_11 => exact ⟨_, rfl, State.alu2_gives acts (truth_slt ..)⟩
  case h_12 => exact ⟨_, rfl, State.alu2_gives acts (truth_ult ..)⟩
  case h_13 => exact ⟨_, rfl, State.alu2_gives acts (min_eq ..)⟩
  case h_14 => exact ⟨_, rfl, State.alu2_gives acts (max_eq ..)⟩
  case h_15 => exact ⟨_, rfl, State.alu2_gives acts (minu_eq ..)⟩
  case h_16 => exact ⟨_, rfl, State.alu2_gives acts (maxu_eq ..)⟩
  case h_17 => exact ⟨_, rfl, State.alu1_gives acts (clzNat_eq _)⟩
  case h_18 => exact ⟨_, rfl, State.alu1_gives acts (congrArg _ (popNat_eq ..))⟩
  case h_19 => exact ⟨_, rfl, State.alu1_gives acts rfl⟩
  case h_20 => exact ⟨_, rfl, State.alu1_gives acts rfl⟩
  case h_21 => exact ⟨_, rfl, State.alu1_gives acts rfl⟩
  case h_22 => exact ⟨_, rfl, State.alu1_gives acts rfl⟩
  case h_23 imm => exact ⟨_, rfl, State.alu1_gives acts (by rw [truth_slt, sImm, BitVec.toInt_signExtend_of_le (by decide)])⟩
  case h_24 => exact ⟨_, rfl, State.alu1_gives acts (truth_ult ..)⟩
  case h_25 n => exact ⟨_, rfl, State.alu1_gives acts (shiftL_eq _ _ n.isLt)⟩
  case h_26 n => exact ⟨_, rfl, State.alu1_gives acts (shiftR_eq _ _ n.isLt)⟩
  case h_27 n => exact ⟨_, rfl, State.alu1_gives acts (shiftA_eq _ _ n.isLt)⟩
  case h_28 n => exact ⟨_, rfl, State.alu1_gives acts (rotL_eq _ _ n.isLt)⟩
  case h_29 => exact ⟨_, rfl, State.alu1_gives acts.name_zero rfl⟩
  case h_30 => exact ⟨_, rfl, State.alu1_gives acts rfl⟩
  case h_31 => exact ⟨_, rfl, State.alu2_gives acts rfl⟩
  case h_32 => exact ⟨_, rfl, State.alu2_gives acts (mulh_eq ..)⟩
  case h_33 => exact ⟨_, rfl, State.alu2_gives acts (mulhu_eq ..)⟩

/-- Saturation to 64 bits gives the nearest value, with OF where it differs (R399). -/
theorem satInt_int64 (x : Int) : BitVec.ofNat 64 (satInt int64 x).1 = BitVec.ofInt 64 (nearest64 x) ∧
    (satInt int64 x).2 = if x = nearest64 x then 0 else flOF := by
  have least : int64.minVal = -2 ^ 63 := rfl
  have greatest : int64.maxVal = 2 ^ 63 - 1 := rfl
  have wrap : ∀ y, BitVec.ofNat 64 (wrapInt int64.w y) = BitVec.ofInt 64 y := wrapInt_ofInt
  unfold satInt
  rw [least, greatest]
  split
  · rw [show nearest64 x = -2 ^ 63 by unfold nearest64; omega, if_neg (by omega)]
    exact ⟨wrap (-2 ^ 63), rfl⟩
  split
  · rw [show nearest64 x = 2 ^ 63 - 1 by unfold nearest64; omega, if_neg (by omega)]
    exact ⟨wrap (2 ^ 63 - 1), rfl⟩
  · rw [show nearest64 x = x by unfold nearest64; omega, if_pos rfl]
    exact ⟨wrap _, rfl⟩

/-- A saturating instruction that acts has the effect of a short operation. -/
theorem State.aluFlag_effect {i : Instr} {s : State} {c word : Nat} {d s1 s2 : BitVec 5} {f : Nat → Nat → Res} {x : Int}
    (acts : Acts s c [d, s1, s2] []) (meaning : exec i s = .next (s.aluFlag c word d s1 s2 f))
    (result : f (s.gpr c s1).toNat (s.gpr c s2).toNat = satInt int64 x) :
    ShortEffect i s c ((s.destKeys c d).map fun k => (k, BitVec.ofInt 64 (nearest64 x))) []
      (if x = nearest64 x then 0 else flOF) := by
  obtain ⟨value, flag⟩ := satInt_int64 x
  apply State.shortOp_effect
  rw [meaning, State.aluFlag, State.instr_acts rfl acts, result]
  dsimp only
  rw [State.destOf, value, flag]

/-- Settles O2: each of the three limits its exact result on the signed values. -/
theorem saturatingInstructionsLimitAndFlag : Obligations.SaturatingInstructionsLimitAndFlag := by
  intro i s c d named x form acts
  have signed : ∀ w : Word, int64.toInt w.toNat = w.toInt := toSigned_toNat
  unfold saturatingResult at form
  split at form <;> cases form
  case h_1 => exact State.aluFlag_effect acts rfl (by rw [signed, signed])
  case h_2 => exact State.aluFlag_effect acts rfl (by rw [signed, signed])
  case h_3 => exact State.aluFlag_effect acts rfl (by rw [signed, signed])

end Sys2Proof.Machine

/-! ## Long operations (R110, R399, R403, R404, R449) -/

namespace Sys2Proof.Machine

/-- A division that acts has the effect of a long operation of the divider. -/
theorem State.divIns_effect {i : Instr} {s : State} {c word : Nat} {d s1 s2 : BitVec 5} {f : Nat → Nat → Res} {v : Word}
    {flags : Flags} (acts : Acts s c [d, s1, s2] []) (meaning : exec i s = .next (s.divIns c word d s1 s2 f))
    (result : (BitVec.ofNat 64 (f (s.gpr c s1).toNat (s.gpr c s2).toNat).1, (f (s.gpr c s1).toNat (s.gpr c s2).toNat).2) =
      (v, flags)) :
    LongEffect i s c ((s.destKeys c d).map fun k => (k, v)) [] flags 1 := by
  obtain ⟨value, flag⟩ := Prod.mk.inj result
  apply State.longOp_effect
  rw [meaning, State.divIns, State.instr_acts rfl acts]
  dsimp only
  rw [State.destOf, value, flag]

theorem int64_toInt (a : Word) : int64.toInt a.toNat = a.toInt := toSigned_toNat a

theorem uint64_toInt (a : Word) : uint64.toInt a.toNat = (a.toNat : Int) := by
  show ((a.toNat % 2 ^ 64 : Nat) : Int) = _
  rw [Nat.mod_eq_of_lt a.isLt]

theorem toInt_eq_zero_iff (a : Word) : a.toInt = 0 ↔ a = 0 := by
  rw [← BitVec.toInt_inj]
  rfl

theorem toNat_cast_eq_zero_iff (a : Word) : (a.toNat : Int) = 0 ↔ a = 0 := by
  rw [← BitVec.toNat_inj]
  exact Int.natCast_eq_zero

/-- The signed quotient toward zero, with DZ for a zero divisor (R110). -/
theorem intDiv_int64 (a b : Word) : (BitVec.ofNat 64 (intDiv int64 a.toNat b.toNat).1, (intDiv int64 a.toNat b.toNat).2) =
    if b = 0 then ((0 : Word), flDZ) else (BitVec.ofInt 64 (a.toInt.tdiv b.toInt), 0) := by
  unfold intDiv
  simp only [int64_toInt, toInt_eq_zero_iff]
  split
  · rfl
  · exact congrArg (·, _) (wrapInt_ofInt _)

/-- The signed remainder, by zero the dividend with DZ (R110). -/
theorem intRem_int64 (a b : Word) : (BitVec.ofNat 64 (intRem int64 a.toNat b.toNat).1, (intRem int64 a.toNat b.toNat).2) =
    if b = 0 then (a, flDZ) else (BitVec.ofInt 64 (a.toInt.tmod b.toInt), 0) := by
  unfold intRem
  simp only [int64_toInt, toInt_eq_zero_iff]
  split
  · simp
  · exact congrArg (·, _) (wrapInt_ofInt _)

/-- The unsigned quotient (R110). -/
theorem intDiv_uint64 (a b : Word) :
    (BitVec.ofNat 64 (intDiv uint64 a.toNat b.toNat).1, (intDiv uint64 a.toNat b.toNat).2) =
      if b = 0 then ((0 : Word), flDZ) else (a / b, 0) := by
  unfold intDiv
  simp only [uint64_toInt, toNat_cast_eq_zero_iff]
  split
  · rfl
  · dsimp only
    rw [show uint64.w = 64 from rfl, wrapInt_ofInt, ← Int.ofNat_tdiv, ← BitVec.toNat_udiv, BitVec.ofInt_natCast, BitVec.ofNat_toNat, BitVec.setWidth_eq]

/-- The unsigned remainder (R110). -/
theorem intRem_uint64 (a b : Word) :
    (BitVec.ofNat 64 (intRem uint64 a.toNat b.toNat).1, (intRem uint64 a.toNat b.toNat).2) =
      if b = 0 then (a, flDZ) else (a % b, 0) := by
  unfold intRem
  simp only [uint64_toInt, toNat_cast_eq_zero_iff]
  split
  · simp
  · dsimp only
    rw [show uint64.w = 64 from rfl, wrapInt_ofInt, ← Int.ofNat_tmod, ← BitVec.toNat_umod, BitVec.ofInt_natCast, BitVec.ofNat_toNat, BitVec.setWidth_eq]

theorem exec_longOpRetire (c : BitVec 3) (t : BitVec 5) (s : State) :
    exec (.longOpRetire c t) s = .next (s.longRetire c.toNat t.toNat) := rfl

/-- A long operation may retire outside an open shadow, those of a closed shadow in program order (R449). -/
theorem CalSt.mayRetire_of {x : CalSt} {l : LongOp} (outside : l.inShadow = false)
    (order : l.shadowed = true → ∀ m ∈ x.longs.takeWhile (fun m => m.tag != l.tag), m.shadowed = false) :
    x.mayRetire l = true := by
  unfold CalSt.mayRetire
  cases h : l.shadowed <;> simp [outside]
  simpa using order h

/-- A long operation that retires: its results and its flags are in the registers, also in those that an open shadow would
restore, it has left flight, and it counts (R404, R449). -/
def State.longWritten (s : State) (c : Nat) (l : LongOp) : State :=
  let put := fun r : CalRegs => (r.putAll l.dest l.vdest).addFlags l.flags
  (s.setCal c { s.cal c with
    r := put (s.cal c).r
    longs := (s.cal c).longs.filter fun m => m.tag != l.tag
    shadow := (s.cal c).shadow.map fun h => { h with snap := put h.snap } }).addRf (rCalRetired c) fCalRetiredCount 1

theorem State.cal_longWritten (s : State) (c : Nat) (l : LongOp) :
    let put := fun r : CalRegs => (r.putAll l.dest l.vdest).addFlags l.flags
    (s.longWritten c l).cal c = { s.cal c with
      r := put (s.cal c).r
      longs := (s.cal c).longs.filter fun m => m.tag != l.tag
      shadow := (s.cal c).shadow.map fun h => { h with snap := put h.snap } } := State.cal_setCal_same ..

theorem State.longWritten_elsewhere (s : State) (c : Nat) (l : LongOp) : Elsewhere s (s.longWritten c l) c :=
  ⟨fun _ hk => State.cal_setCal_other _ _ hk, ⟨rfl, rfl, rfl⟩, rfl, fun _ ha => State.reg_setRf_other _ _ _ ha⟩

theorem State.longWritten_counted (s : State) (c : Nat) (l : LongOp) :
    (s.longWritten c l).rf (rCalRetired c) fCalRetiredCount = (s.rf (rCalRetired c) fCalRetiredCount + 1) % 2 ^ 48 :=
  State.rf_setRf_same _ _ _ (by decide)

/-- The enabled flags of a long operation that has retired are a trap (R447). -/
theorem State.longDone_eq (s : State) (c : Nat) (l : LongOp) :
    let e := l.flags &&& (((s.cal c).r.putAll l.dest l.vdest).addFlags l.flags).te
    s.longDone c l = if e = 0 then s.longWritten c l else (s.longWritten c l).noteTrap c
      ⟨causeImp (causeWord excArith e.toNat 0), BitVec.ofNat 64 l.pc, BitVec.ofNat 64 (l.tag + 32), l.lvl⟩ := by
  have enabled : (s.longWritten c l).enabled c l.flags =
      l.flags &&& (((s.cal c).r.putAll l.dest l.vdest).addFlags l.flags).te := by
    unfold State.enabled
    rw [State.cal_longWritten]
  rw [← enabled]
  rfl

/-- Settles O3: the divisions are operations of the divider; one that retires changes its caller alone, and then an enabled
flag is a trap. -/
theorem longOperationsFlyAndRetire : Obligations.LongOperationsFlyAndRetire := by
  refine ⟨?division, fun s c t l found inShadow => ?_, ?retire⟩
  case division =>
    intro i s c d named v f form acts
    unfold divisionResult at form
    split at form <;> simp only [Option.some.injEq, Prod.mk.injEq, reduceCtorEq] at form
    case h_1 => obtain ⟨rfl, rfl, rfl, value⟩ := form; exact State.divIns_effect acts rfl ((intDiv_int64 ..).trans value)
    case h_2 => obtain ⟨rfl, rfl, rfl, value⟩ := form; exact State.divIns_effect acts rfl ((intDiv_uint64 ..).trans value)
    case h_3 => obtain ⟨rfl, rfl, rfl, value⟩ := form; exact State.divIns_effect acts rfl ((intRem_int64 ..).trans value)
    case h_4 => obtain ⟨rfl, rfl, rfl, value⟩ := form; exact State.divIns_effect acts rfl ((intRem_uint64 ..).trans value)
  · rw [exec_longOpRetire, State.longRetire]
    simp only [found]
    rw [if_neg (by simp [CalSt.mayRetire, inShadow])]
  case retire =>
    intro s c t l found outside order put
    have tag : l.tag = t.toNat := by simpa using List.find?_some found
    rw [← tag] at found order ⊢
    have retires : exec (.longOpRetire c t) s = .next ((s.longDone c.toNat l).pollTrap c.toNat) := by
      rw [exec_longOpRetire, State.longRetire, ← tag]
      simp only [found]
      rw [if_pos (CalSt.mayRetire_of outside order)]
    refine ⟨s.longWritten c.toNat l, s.cal_longWritten .., s.longWritten_elsewhere .., s.longWritten_counted .., ?_⟩
    rw [retires, State.longDone_eq]
    exact ⟨fun none => by rw [if_pos none], fun some => by rw [if_neg some]; rfl⟩

end Sys2Proof.Machine

/-! ## The byte encoding of stream orders (R46 to R82) -/

namespace Sys2Proof.Machine

/-! ### Reading in sequence -/

/-- A computation that goes well does so at every step. -/
theorem Except.bind_eq_ok {ε α β : Type} {x : Except ε α} {f : α → Except ε β} {r : β} :
    (x >>= f) = .ok r ↔ ∃ a, x = .ok a ∧ f a = .ok r := by
  cases x with
  | error e => simp [bind, Except.bind]
  | ok a => simp [bind, Except.bind]

theorem rejIf_eq_ok {b : Bool} {status off : Nat} {u : Unit} : rejIf b status off = .ok u ↔ b = false := by
  unfold rejIf
  cases b <;> simp

/-- A computation that goes on alike after either of two checks. -/
theorem Except.ok_of_ite_bind {ε α : Type} {p : Prop} [Decidable p] {x y : Except ε Unit} {k : Unit → Except ε α} {r : α}
    (h : (if p then x >>= k else y >>= k) = .ok r) : k () = .ok r := by
  split at h <;> exact (Except.bind_eq_ok.mp h).elim fun _ g => g.2

/-- From byte `i` up to byte `j` the string `bs` reads `l`. -/
def Spells (bs : List Nat) (i : Nat) (l : List Nat) (j : Nat) : Prop := j = i + l.length ∧ bs.drop i = l ++ bs.drop j

theorem Spells.nil (bs : List Nat) (i : Nat) : Spells bs i [] i := ⟨rfl, rfl⟩

theorem Spells.append {bs l m : List Nat} {i j k : Nat} (h : Spells bs i l j) (g : Spells bs j m k) :
    Spells bs i (l ++ m) k := by
  obtain ⟨hj, hl⟩ := h
  obtain ⟨hk, hm⟩ := g
  exact ⟨by rw [hk, hj, List.length_append, Nat.add_assoc], by rw [hl, hm, List.append_assoc]⟩

theorem Spells.cons {bs m : List Nat} {b i j k : Nat} (h : Spells bs i [b] j) (g : Spells bs j m k) :
    Spells bs i (b :: m) k := h.append g

/-- A string that is read from its beginning is the beginning of the bytes. -/
theorem Spells.take {bs l : List Nat} {j : Nat} (h : Spells bs 0 l j) : j ≤ bs.length ∧ l = bs.take j := by
  obtain ⟨hj, hl⟩ := h
  rw [List.drop_zero] at hl
  have len := congrArg List.length hl
  rw [List.length_append, List.length_drop] at len
  refine ⟨by omega, ?_⟩
  conv_rhs => rw [hl]
  rw [List.take_left' (by omega)]

/-- The length of what lies between two places is fixed. -/
theorem Spells.length_eq {bs l : List Nat} {i j : Nat} (h : Spells bs i l j) : j - i = l.length := by
  have := h.1
  omega

section
variable {bs : List Nat} (small : ∀ b ∈ bs, b < 256)
include small

/-- A byte that is read stands in the string. -/
theorem byteAt_spells {i b : Nat} (h : byteAt (bytesOf bs) i = .ok b) : Spells bs i [b] (i + 1) ∧ b < 256 := by
  unfold byteAt bytesOf at h
  split at h
  · cases h
  split at h
  · rename_i x hx
    have lt := small x (List.mem_of_getElem? hx)
    rw [Nat.mod_eq_of_lt lt] at h
    cases h
    obtain ⟨hi, rfl⟩ := List.getElem?_eq_some_iff.mp hx
    exact ⟨⟨rfl, by rw [List.drop_eq_getElem_cons hi]; rfl⟩, lt⟩
  · cases h

/-- Little-endian bytes that are read are the encoding of their value (R48). -/
theorem leAt_spells {n i v : Nat} (h : leAt (bytesOf bs) i n = .ok v) : Spells bs i (encodeLe n v) (i + n) ∧ v < 256 ^ n := by
  induction n generalizing i v with
  | zero =>
    cases h
    exact ⟨Spells.nil .., by decide⟩
  | succ n ih =>
    unfold leAt at h
    obtain ⟨b, hb, h⟩ := Except.bind_eq_ok.mp h
    obtain ⟨r, hr, h⟩ := Except.bind_eq_ok.mp h
    cases h
    obtain ⟨first, lt⟩ := byteAt_spells small hb
    obtain ⟨rest, bound⟩ := ih hr
    unfold encodeLe
    rw [show (b + 256 * r) % 256 = b by omega, show (b + 256 * r) / 256 = r by omega,
      show i + (n + 1) = i + 1 + n by omega, pow_succ]
    exact ⟨first.cons rest, by omega⟩

end

theorem length_encodeLe (n v : Nat) : (encodeLe n v).length = n := by
  induction n generalizing v with
  | zero => rfl
  | succ n ih => rw [encodeLe, List.length_cons, ih]

/-- A 32-bit number is encoded as its two's complement form. -/
theorem encodeInt_toSigned {v : Nat} (h : v < 256 ^ 4) : encodeInt (toSigned 32 v) = encodeLe 4 v := by
  unfold encodeInt toSigned
  congr 1
  dsimp only
  split <;> omega

/-! ### Prefixes (R50 to R53) -/

/-- The bytes of the prefixes. -/
def pfxBytes : List Nat := [0xF0, 0xF1, 0xF2, 0xF3, 0xF4, 0xF5, 0xF6, 0xF7, 0xFF]

/-- The bytes of one of the prefixes: SEAL carries its argument. -/
def pfxByte (sealTo : Option (Nat × Bool)) (b : Nat) : List Nat :=
  if b = 0xF7 then match sealTo with | some (u, y) => [0xF7, u + 8 * y.toNat] | none => [] else [b]

/-- The bytes of the prefixes found so far, in the order in which they were found. -/
def Pfx.encode (p : Pfx) : List Nat := p.seen.flatMap fun x => pfxByte p.sealTo x.1

/-- Prefixes that have been found stand in rising order; the SEAL argument and the extended page go with their bytes. -/
structure Pfx.Wf (p : Pfx) : Prop where
  rising : (p.seen.map Prod.fst).Pairwise (· < ·)
  bytes : ∀ x ∈ p.seen, x.1 ∈ pfxBytes
  sealed : p.sealTo.isSome = p.has 0xF7
  page : p.extd = p.has 0xFF

/-- What the byte `b` does to the prefixes found so far. -/
def Pfx.add (p : Pfx) (b i : Nat) (sealTo : Option (Nat × Bool)) : Pfx :=
  ⟨p.seen ++ [(b, i)], sealTo, p.extd || b == 0xFF⟩

theorem Pfx.has_add (p : Pfx) (b i c : Nat) (sealTo : Option (Nat × Bool)) :
    (p.add b i sealTo).has c = (p.has c || b == c) := by
  unfold Pfx.add Pfx.has
  simp

/-- A byte above the ones found so far joins them (R50). -/
theorem Pfx.Wf.add {p : Pfx} (wf : p.Wf) {b i : Nat} {sealTo : Option (Nat × Bool)} (prefixed : b ∈ pfxBytes)
    (above : ∀ x ∈ p.seen, x.1 < b) (arg : if b = 0xF7 then sealTo.isSome else sealTo = p.sealTo) :
    (p.add b i sealTo).Wf := by
  refine ⟨?_, ?_, ?_, ?_⟩
  · show ((p.seen ++ [(b, i)]).map Prod.fst).Pairwise (· < ·)
    rw [List.map_append, List.pairwise_append]
    refine ⟨wf.rising, List.pairwise_singleton .., ?_⟩
    simpa using fun x y hx => above (x, y) hx
  · intro x hx
    rcases List.mem_append.mp hx with hx | hx
    · exact wf.bytes x hx
    · rwa [List.mem_singleton.mp hx]
  · rw [Pfx.has_add, ← wf.sealed]
    split at arg
    · subst b; simpa [Pfx.add] using arg
    · simp_all [Pfx.add]
  · rw [Pfx.has_add, ← wf.page]
    rfl

/-- It adds its bytes. -/
theorem Pfx.encode_add {p : Pfx} {b i : Nat} {sealTo : Option (Nat × Bool)}
    (above : ∀ x ∈ p.seen, x.1 < b) (arg : b ≠ 0xF7 → sealTo = p.sealTo) :
    (p.add b i sealTo).encode = p.encode ++ pfxByte sealTo b := by
  unfold Pfx.encode Pfx.add
  simp only [List.flatMap_append, List.flatMap_singleton]
  congr 1
  by_cases h : b = 0xF7
  · have kept : ∀ x ∈ p.seen, pfxByte sealTo x.1 = pfxByte p.sealTo x.1 := fun x hx => by
      have := above x hx
      unfold pfxByte
      rw [if_neg (by omega), if_neg (by omega)]
    exact List.flatMap_congr kept
  · rw [arg h]

theorem prefixes_spells {bs : List Nat} (small : ∀ b ∈ bs, b < 256) {k i o : Nat} {p q : Pfx}
    (h : prefixes (bytesOf bs) k i p = .ok (q, o)) (wf : p.Wf) :
    q.Wf ∧ ∃ l, Spells bs i l o ∧ q.encode = p.encode ++ l := by
  induction k generalizing i p with
  | zero =>
    cases h
    exact ⟨wf, [], Spells.nil .., (List.append_nil _).symm⟩
  | succ k ih =>
    unfold prefixes at h
    obtain ⟨b, hb, h⟩ := Except.bind_eq_ok.mp h
    obtain ⟨first, lt⟩ := byteAt_spells small hb
    split at h
    · cases h
      exact ⟨wf, [], Spells.nil .., (List.append_nil _).symm⟩
    simp only [Except.bind_eq_ok, rejIf_eq_ok, exists_const] at h
    obtain ⟨reserved, order, -, -, -, h⟩ := h
    have prefixed : b ∈ pfxBytes := by
      simp only [decide_eq_false_iff_not] at reserved
      simp only [pfxBytes, List.mem_cons, List.not_mem_nil]
      omega
    have above : ∀ x ∈ p.seen, x.1 < b := by simpa using order
    split at h
    · subst b
      cases h
      have page : ({ p with seen := p.seen ++ [(0xFF, i)], extd := true } : Pfx) = p.add 0xFF i p.sealTo := by
        simp [Pfx.add]
      rw [page]
      exact ⟨wf.add prefixed above rfl, [0xFF], first, Pfx.encode_add above fun _ => rfl⟩
    split at h
    · subst b
      simp only [Except.bind_eq_ok, rejIf_eq_ok, exists_const] at h
      obtain ⟨a, ha, reserved, h⟩ := h
      have arg : a % 8 + 8 * (decide (a % 16 ≥ 8)).toNat = a := by
        simp only [decide_eq_false_iff_not] at reserved
        by_cases h8 : a % 16 ≥ 8
        · simp only [h8, decide_true, Bool.toNat_true]; omega
        · simp only [h8, decide_false, Bool.toNat_false]; omega
      have sealed : ({ p with seen := p.seen ++ [(0xF7, i)], sealTo := some (a % 8, decide (a % 16 ≥ 8)) } : Pfx) =
          p.add 0xF7 i (some (a % 8, decide (a % 16 ≥ 8))) := by
        simp [Pfx.add]
      rw [sealed] at h
      obtain ⟨wfq, l, hl, he⟩ := ih h (wf.add prefixed above rfl)
      refine ⟨wfq, 0xF7 :: a :: l, first.cons ((byteAt_spells small ha).1.cons hl), ?_⟩
      rw [he, Pfx.encode_add above fun h => absurd rfl h, List.append_assoc]
      unfold pfxByte
      rw [if_pos rfl]
      simp only [arg]
      rfl
    · rename_i notPage notSeal
      have other : ({ p with seen := p.seen ++ [(b, i)] } : Pfx) = p.add b i p.sealTo := by
        simp [Pfx.add, notPage]
      rw [other] at h
      obtain ⟨wfq, l, hl, he⟩ := ih h (wf.add prefixed above (by rw [if_neg notSeal]))
      refine ⟨wfq, b :: l, first.cons hl, ?_⟩
      rw [he, Pfx.encode_add above fun _ => rfl, List.append_assoc]
      unfold pfxByte
      rw [if_neg notSeal]
      rfl

/-- The bytes of the prefixes found are those of the list that stand. -/
theorem Pfx.Wf.seen_eq {p : Pfx} (wf : p.Wf) : p.seen.map Prod.fst = pfxBytes.filter p.has := by
  refine List.Pairwise.eq_of_mem_iff wf.rising (List.Pairwise.filter _ (by decide)) fun b => ?_
  simp only [List.mem_map, List.mem_filter, Pfx.has, List.any_eq_true, beq_iff_eq]
  exact ⟨fun ⟨x, hx, e⟩ => ⟨e ▸ wf.bytes x hx, x, hx, e⟩, fun ⟨_, x, hx, e⟩ => ⟨x, hx, e⟩⟩

theorem flatMap_filter {α β : Type} (l : List α) (f : α → Bool) (g : α → List β) :
    (l.filter f).flatMap g = l.flatMap fun x => if f x then g x else [] := by
  induction l with
  | nil => rfl
  | cons x l ih => cases h : f x <;> simp [h, ih]

/-- The prefixes as the encoder lists them (R50 to R53). -/
theorem Pfx.Wf.encode_eq {p : Pfx} (wf : p.Wf) : p.encode =
    encodeFlag (p.has 0xF0) 0xF0 ++ encodeFlag (p.has 0xF1) 0xF1 ++ encodeFlag (p.has 0xF2) 0xF2 ++
    encodeFlag (p.has 0xF3) 0xF3 ++ encodeFlag (p.has 0xF4) 0xF4 ++ encodeFlag (p.has 0xF5) 0xF5 ++
    encodeFlag (p.has 0xF6) 0xF6 ++ (match p.sealTo with | some (u, y) => [0xF7, u + 8 * y.toNat] | none => []) ++
    encodeFlag p.extd 0xFF := by
  have byBytes : p.encode = (p.seen.map Prod.fst).flatMap (pfxByte p.sealTo) := (List.flatMap_map ..).symm
  have sealed : (if p.has 0xF7 then pfxByte p.sealTo 0xF7 else []) =
      match p.sealTo with | some (u, y) => [0xF7, u + 8 * y.toNat] | none => [] := by
    rw [← wf.sealed]
    cases p.sealTo <;> rfl
  rw [byBytes, wf.seen_eq, flatMap_filter, wf.page, ← sealed]
  simp [pfxBytes, encodeFlag, pfxByte, List.append_assoc]

theorem Pfx.isSome_offOf (p : Pfx) (b : Nat) : (p.offOf b).isSome = p.has b := by
  unfold Pfx.offOf Pfx.has
  rw [Option.isSome_map, Bool.eq_iff_iff, List.find?_isSome, List.any_eq_true]

/-! ### Scene steps (R79) -/

theorem Op.page0_code {b : Nat} {op : Op} (h : Op.page0 b = some op) : op.code = b ∧ op.extended = false := by
  unfold Op.page0 at h
  split at h <;> cases h <;> exact ⟨rfl, rfl⟩

theorem Op.page1_code {b : Nat} {op : Op} (h : Op.page1 b = some op) : op.code = b ∧ op.extended = true := by
  unfold Op.page1 at h
  split at h <;> cases h <;> exact ⟨rfl, rfl⟩

/-- A step of a scene reads as it is encoded. -/
theorem stepAt_spells {bs : List Nat} (small : ∀ b ∈ bs, b < 256) {t : ETy} {steps : List StepD} {last : Bool} {i : Nat}
    {d : StepD} (h : stepAt (bytesOf bs) t steps last i = .ok d) : Spells bs i d.encode (i + 3) := by
  unfold stepAt at h
  obtain ⟨b0, h0, h⟩ := Except.bind_eq_ok.mp h
  have first := (byteAt_spells small h0).1
  split at h
  · cases h
  rename_i op hop
  obtain ⟨-, -, h⟩ := Except.bind_eq_ok.mp h
  obtain ⟨b1, h1, h⟩ := Except.bind_eq_ok.mp h
  obtain ⟨second, lt1⟩ := byteAt_spells small h1
  obtain ⟨-, -, h⟩ := Except.bind_eq_ok.mp h
  replace h := Except.ok_of_ite_bind h
  obtain ⟨-, -, h⟩ := Except.bind_eq_ok.mp h
  obtain ⟨-, -, h⟩ := Except.bind_eq_ok.mp h
  obtain ⟨b2, h2, h⟩ := Except.bind_eq_ok.mp h
  obtain ⟨_, reserved, h⟩ := Except.bind_eq_ok.mp h
  rw [rejIf_eq_ok] at reserved
  replace h := Except.ok_of_ite_bind h
  simp only [Except.bind_eq_ok, rejIf_eq_ok, exists_const] at h
  obtain ⟨-, -, -, -, h⟩ := h
  obtain ⟨third, lt2⟩ := byteAt_spells small h2
  cases h
  have outputs : b2 % 16 + 16 * ((b2 / 16 % 2 == 1).toNat + 2 * (b2 / 16 / 2 == 1).toNat) = b2 := by
    have bit : ∀ n < 2, (n == 1).toNat = n := by decide
    simp only [Bool.or_eq_false_iff, decide_eq_false_iff_not] at reserved
    rw [bit _ (by omega), bit _ (by omega)]
    omega
  unfold StepD.encode
  rw [(Op.page0_code hop).1, show b1 % 16 + 16 * (b1 / 16) = b1 by omega, outputs]
  exact first.cons (second.cons third)

theorem stepsAt_spells {bs : List Nat} (small : ∀ b ∈ bs, b < 256) {t : ETy} {k i : Nat} {acc ss : List StepD}
    (h : stepsAt (bytesOf bs) t k acc i = .ok ss) :
    ∃ new, ss = acc ++ new ∧ new.length = k ∧ Spells bs i (new.flatMap StepD.encode) (i + 3 * k) := by
  induction k generalizing acc i with
  | zero =>
    cases h
    exact ⟨[], (List.append_nil _).symm, rfl, Spells.nil ..⟩
  | succ k ih =>
    unfold stepsAt at h
    obtain ⟨d, hd, h⟩ := Except.bind_eq_ok.mp h
    obtain ⟨new, rfl, len, rest⟩ := ih h
    refine ⟨d :: new, by simp, by simp [len], ?_⟩
    rw [show i + 3 * (k + 1) = i + 3 + 3 * k by omega]
    exact (stepAt_spells small hd).append rest

/-! ### The length (R67, R68) -/

theorem varLen_spells {bs : List Nat} (small : ∀ b ∈ bs, b < 256) {i k j acc v e : Nat}
    (h : varLen (bytesOf bs) i k j acc = .ok (v, e)) :
    ∃ c, v = acc + c * 2 ^ (7 * j) ∧ (0 < j → 0 < c) ∧ Spells bs (i + j) (encodeCount k c) e := by
  induction k generalizing j acc with
  | zero => cases h
  | succ k ih =>
    unfold varLen at h
    obtain ⟨b, hb, h⟩ := Except.bind_eq_ok.mp h
    obtain ⟨first, lt⟩ := byteAt_spells small hb
    unfold encodeCount
    dsimp only at h
    split at h
    · split at h
      · cases h
      obtain ⟨c, value, positive, rest⟩ := ih h
      have := positive (by omega)
      refine ⟨b % 128 + 128 * c, ?_, fun _ => by omega, ?_⟩
      · rw [value, show 7 * (j + 1) = 7 * j + 7 by omega, pow_add]
        ring
      · rw [if_neg (by omega), show (b % 128 + 128 * c) % 128 + 128 = b by omega,
          show (b % 128 + 128 * c) / 128 = c by omega]
        exact first.cons rest
    · simp only [Except.bind_eq_ok, rejIf_eq_ok, exists_const, decide_eq_false_iff_not] at h
      obtain ⟨range, h⟩ := h
      cases h
      refine ⟨b, by rw [Nat.mod_eq_of_lt (by omega)], fun _ => by omega, ?_⟩
      rw [if_pos (by omega)]
      exact first

/-! ### Operand descriptors (R72 to R74) -/

/-- The form code of R72 with the bytes of a form, of two forms with a base register the one that takes `n` bytes. -/
def Form.encode (o : OrderD) (slot n : Nat) : Form → Nat × List Nat
  | .abs a => (1, encodeLe 6 a)
  | .base r x => if n = 2 then (5, [r]) else (2, r :: encodeInt x)
  | .relay k => (3, [k])
  | .imm v => (4, encodeLe (slotType o.op o.steps (ETy.ofCode o.ty) (ETy.ofCode o.tty) slot).bytes v)

theorem Form.encode_base_short (o : OrderD) (slot r : Nat) (x : Int) {n : Nat} (h : n = 2) :
    (Form.base r x).encode o slot n = (5, [r]) := if_pos h

theorem Form.encode_base_long (o : OrderD) (slot r : Nat) (x : Int) {n : Nat} (h : n ≠ 2) :
    (Form.base r x).encode o slot n = (2, r :: encodeInt x) := if_neg h

/-- The bytes of a stride (R73). -/
def encodeStride : Option Int → List Nat
  | some x => encodeInt x
  | none => []

/-- The kind that the mode byte of a slot names (R72). -/
def slotKind (slot : Nat) : Nat := if slot = 4 then 1 else if slot = 5 then 2 else 0

theorem Desc.encode_eq (o : OrderD) (d : Desc) (n : Nat) :
    d.encode o n =
      ((d.form.encode o d.slot (n - (encodeStride d.stride).length)).1 + 8 * slotKind d.slot + 32 * d.wide.toNat +
        64 * d.stride.isSome.toNat) ::
      ((d.form.encode o d.slot (n - (encodeStride d.stride).length)).2 ++ encodeStride d.stride) := by
  obtain ⟨slot, off, form, wide, stride⟩ := d
  cases form <;> cases stride <;> rfl

/-- A descriptor reads as it is encoded for the bytes that it takes. -/
theorem descAt_spells {bs : List Nat} (small : ∀ b ∈ bs, b < 256) {o : OrderD} {slot i j : Nat} {d : Desc}
    (h : descAt (bytesOf bs) o.op o.steps (ETy.ofCode o.ty) (ETy.ofCode o.tty) slot i = .ok (d, j)) :
    d.off = i ∧ Spells bs i (d.encode o (j - i)) j := by
  unfold descAt at h
  obtain ⟨b, hb, h⟩ := Except.bind_eq_ok.mp h
  obtain ⟨mode, lt⟩ := byteAt_spells small hb
  dsimp only at h
  obtain ⟨_, reserved, h⟩ := Except.bind_eq_ok.mp h
  obtain ⟨_, wanted, h⟩ := Except.bind_eq_ok.mp h
  obtain ⟨⟨f, k⟩, hf, h⟩ := Except.bind_eq_ok.mp h
  simp only [rejIf_eq_ok, Bool.or_eq_false_iff, decide_eq_false_iff_not, not_not, beq_eq_false_iff_ne] at reserved wanted
  obtain ⟨⟨⟨⟨notZero, below⟩, -⟩, plain⟩, -⟩ := reserved
  obtain ⟨⟨kind, -⟩, -⟩ := wanted
  have body : (f.encode o slot (k - i)).1 = b % 8 ∧ Spells bs (i + 1) (f.encode o slot (k - i)).2 k := by
    split at hf
    case h_1 form =>
      obtain ⟨a, ha, hf⟩ := Except.bind_eq_ok.mp hf
      cases hf
      exact ⟨form.symm, (leAt_spells small ha).1⟩
    case h_2 form =>
      obtain ⟨r, hr, hf⟩ := Except.bind_eq_ok.mp hf
      obtain ⟨-, -, hf⟩ := Except.bind_eq_ok.mp hf
      cases hf
      exact ⟨form.symm, (byteAt_spells small hr).1⟩
    case h_3 form =>
      obtain ⟨v, hv, hf⟩ := Except.bind_eq_ok.mp hf
      obtain ⟨-, -, hf⟩ := Except.bind_eq_ok.mp hf
      obtain ⟨-, -, hf⟩ := Except.bind_eq_ok.mp hf
      cases hf
      exact ⟨form.symm, (leAt_spells small hv).1⟩
    case h_4 notAbs notRelay notImm =>
      obtain ⟨r, hr, hf⟩ := Except.bind_eq_ok.mp hf
      obtain ⟨-, -, hf⟩ := Except.bind_eq_ok.mp hf
      have base := (byteAt_spells small hr).1
      split at hf
      · obtain ⟨x, hx, hf⟩ := Except.bind_eq_ok.mp hf
        cases hf
        obtain ⟨disp, bound⟩ := leAt_spells small hx
        rw [Form.encode_base_long _ _ _ _ (by omega), encodeInt_toSigned bound]
        exact ⟨show 2 = b % 8 by omega, base.cons disp⟩
      · cases hf
        have form : b % 8 ≠ 1 ∧ b % 8 ≠ 3 ∧ b % 8 ≠ 4 := ⟨notAbs, notRelay, notImm⟩
        rw [Form.encode_base_short _ _ _ _ (by omega)]
        exact ⟨show 5 = b % 8 by omega, base⟩
  have bit : ∀ n < 2, (n == 1).toNat = n := by decide
  obtain ⟨code, bytes⟩ := body
  have past := bytes.1
  rw [Desc.encode_eq]
  dsimp only at h
  split at h
  · rename_i strided
    obtain ⟨x, hx, h⟩ := Except.bind_eq_ok.mp h
    obtain ⟨-, -, h⟩ := Except.bind_eq_ok.mp h
    cases h
    obtain ⟨stride, bound⟩ := leAt_spells small hx
    have len : k + 4 - i - (encodeStride (some (toSigned 32 x))).length = k - i := by
      rw [encodeStride, encodeInt, length_encodeLe]
      omega
    refine ⟨rfl, ?_⟩
    dsimp only
    rw [len, code, bit _ (by omega), encodeStride, encodeInt_toSigned bound, slotKind, ← kind, Option.isSome_some, Bool.toNat_true]
    rw [show b % 8 + 8 * (b / 8 % 4) + 32 * (b / 32 % 2) + 64 * 1 = b by have := beq_iff_eq.mp strided; omega]
    exact mode.cons (bytes.append stride)
  · rename_i dense
    cases h
    refine ⟨rfl, ?_⟩
    dsimp only
    rw [encodeStride, List.length_nil, Nat.sub_zero, code, bit _ (by omega), slotKind, ← kind, Option.isSome_none,
      Bool.toNat_false, List.append_nil]
    rw [show b % 8 + 8 * (b / 8 % 4) + 32 * (b / 32 % 2) + 64 * 0 = b by
      have : b / 64 % 2 ≠ 1 := fun h => dense (beq_iff_eq.mpr h)
      omega]
    exact mode.cons bytes

/-- Descriptors read as they are encoded, each up to where the next one begins. -/
theorem descsAt_spells {bs : List Nat} (small : ∀ b ∈ bs, b < 256) {o : OrderD} {slots : List Nat} {i k : Nat}
    {ds : List Desc} (h : descsAt (bytesOf bs) o.op o.steps (ETy.ofCode o.ty) (ETy.ofCode o.tty) slots i = .ok (ds, k))
    (size : o.size = k) : Spells bs i (encodeDescs o ds) k ∧ (ds.head?.map Desc.off).getD k = i := by
  induction slots generalizing i ds with
  | nil =>
    cases h
    exact ⟨Spells.nil .., rfl⟩
  | cons s ss ih =>
    unfold descsAt at h
    obtain ⟨⟨d, j⟩, hd, h⟩ := Except.bind_eq_ok.mp h
    obtain ⟨⟨es, l⟩, hes, h⟩ := Except.bind_eq_ok.mp h
    cases h
    obtain ⟨off, first⟩ := descAt_spells small hd
    obtain ⟨rest, next⟩ := ih hes
    refine ⟨?_, off⟩
    cases es with
    | nil =>
      obtain rfl : k = j := next
      rw [encodeDescs, size, off]
      exact first
    | cons e es =>
      obtain rfl : e.off = j := next
      rw [encodeDescs, off]
      exact first.append rest

/-! ### The order -/

/-- The target byte of a conversion (R65). -/
def Op.encodeTarget (op : Op) (tty : Nat) : List Nat :=
  match op with
  | .cvt | .cvtsat => [tty]
  | _ => []

theorem Op.encodeTarget_eq (op : Op) (tty : Nat) :
    op.encodeTarget tty = if op == .cvt || op == .cvtsat then [tty] else [] := by
  unfold Op.encodeTarget
  split
  · rfl
  · rfl
  · rename_i notCvt notCvtsat
    rw [if_neg]
    simpa using ⟨notCvt, notCvtsat⟩

/-- The bytes of a length (R67, R68). -/
def Len.encode : Len → List Nat
  | .reg r => [r]
  | .count n => encodeCount 6 n

/-- Is the length that of a length register (R68)? -/
def Len.inRegister : Len → Bool
  | .reg _ => true
  | _ => false

theorem encodeOrder_eq (o : OrderD) : encodeOrder o =
    o.encodePrefixes ++ [o.op.code, o.ty + 16 * o.rnd + 128 * o.ftz.toNat] ++ o.op.encodeTarget o.tty ++
      (if o.op == .scene then (o.steps.length - 1) :: o.steps.flatMap StepD.encode else []) ++ o.len.encode ++ [o.mask] ++
      encodeDescs o o.descs := rfl

/-- The prefixes of an order whose fields are those of the prefixes found are their bytes. -/
theorem OrderD.encodePrefixes_eq {o : OrderD} {p : Pfx} (wf : p.Wf) (reprise : o.reprise = p.offOf 0xF0)
    (split : o.split = p.offOf 0xF1) (precise : o.precise = p.has 0xF2) (len : o.len.inRegister = p.has 0xF3)
    (relayIn : o.relayIn = p.has 0xF4) (relayOut : o.relayOut = p.has 0xF5) (ordered : o.ordered = p.has 0xF6)
    (sealTo : o.sealTo = p.sealTo) (page : o.op.extended = p.extd) : o.encodePrefixes = p.encode := by
  have flags : o.encodePrefixes =
      encodeFlag o.reprise.isSome 0xF0 ++ encodeFlag o.split.isSome 0xF1 ++ encodeFlag o.precise 0xF2 ++
      encodeFlag o.len.inRegister 0xF3 ++ encodeFlag o.relayIn 0xF4 ++ encodeFlag o.relayOut 0xF5 ++
      encodeFlag o.ordered 0xF6 ++ (match o.sealTo with | some (u, y) => [0xF7, u + 8 * y.toNat] | none => []) ++
      encodeFlag o.op.extended 0xFF := rfl
  rw [wf.encode_eq, flags, reprise, split, precise, len, relayIn, relayOut, ordered, sealTo, page, Pfx.isSome_offOf,
    Pfx.isSome_offOf]

/-- What follows the prefixes reads as it is encoded. -/
theorem decodeRest_spells {bs : List Nat} (small : ∀ b ∈ bs, b < 256) {p : Pfx} (wf : p.Wf) {op : Op} {i : Nat} {o : OrderD}
    (prefixed : Spells bs 0 p.encode i) (opcode : Spells bs i [op.code] (i + 1)) (page : op.extended = p.extd)
    (h : decodeRest (bytesOf bs) p op i = .ok o) : Spells bs 0 (encodeOrder o) o.size := by
  unfold decodeRest at h
  obtain ⟨-, -, h⟩ := Except.bind_eq_ok.mp h
  obtain ⟨fb, hfb, h⟩ := Except.bind_eq_ok.mp h
  obtain ⟨byte, lt⟩ := byteAt_spells small hfb
  dsimp only at h
  obtain ⟨-, -, h⟩ := Except.bind_eq_ok.mp h
  obtain ⟨⟨tty, i1⟩, htty, h⟩ := Except.bind_eq_ok.mp h
  obtain ⟨⟨steps, i2⟩, hsteps, h⟩ := Except.bind_eq_ok.mp h
  obtain ⟨⟨len, i3⟩, hlen, h⟩ := Except.bind_eq_ok.mp h
  obtain ⟨mask, hmask, h⟩ := Except.bind_eq_ok.mp h
  obtain ⟨-, -, h⟩ := Except.bind_eq_ok.mp h
  obtain ⟨-, -, h⟩ := Except.bind_eq_ok.mp h
  obtain ⟨⟨ds, i4⟩, hdescs, h⟩ := Except.bind_eq_ok.mp h
  obtain ⟨-, -, h⟩ := Except.bind_eq_ok.mp h
  have format : fb % 16 + 16 * (fb / 16 % 8) + 128 * (decide (fb ≥ 128)).toNat = fb := by
    by_cases high : fb ≥ 128
    · simp only [high, decide_true, Bool.toNat_true]; omega
    · simp only [high, decide_false, Bool.toNat_false]; omega
  dsimp only at hsteps hlen hmask hdescs h
  have target : Spells bs (i + 2) (op.encodeTarget tty) i1 := by
    split at htty
    · rename_i converts
      obtain ⟨tb, htb, htty⟩ := Except.bind_eq_ok.mp htty
      obtain ⟨-, -, htty⟩ := Except.bind_eq_ok.mp htty
      obtain ⟨-, -, htty⟩ := Except.bind_eq_ok.mp htty
      cases htty
      rw [Op.encodeTarget_eq, if_pos converts]
      exact (byteAt_spells small htb).1
    · rename_i plain
      cases htty
      rw [Op.encodeTarget_eq, if_neg plain]
      exact Spells.nil ..
  have scene : Spells bs i1 (if op == .scene then (steps.length - 1) :: steps.flatMap StepD.encode else []) i2 := by
    split at hsteps
    · rename_i isScene
      obtain ⟨sb, hsb, hsteps⟩ := Except.bind_eq_ok.mp hsteps
      obtain ⟨-, -, hsteps⟩ := Except.bind_eq_ok.mp hsteps
      obtain ⟨-, -, hsteps⟩ := Except.bind_eq_ok.mp hsteps
      obtain ⟨ss, hss, hsteps⟩ := Except.bind_eq_ok.mp hsteps
      cases hsteps
      obtain ⟨new, rfl, count, rest⟩ := stepsAt_spells small hss
      rw [if_pos isScene]
      simp only [count, Nat.add_sub_cancel]
      exact (byteAt_spells small hsb).1.cons rest
    · rename_i notScene
      cases hsteps
      rw [if_neg notScene]
      exact Spells.nil ..
  have length : Spells bs i2 len.encode i3 ∧ len.inRegister = p.has 0xF3 := by
    split at hlen
    · rename_i register
      obtain ⟨r, hr, hlen⟩ := Except.bind_eq_ok.mp hlen
      obtain ⟨-, -, hlen⟩ := Except.bind_eq_ok.mp hlen
      cases hlen
      exact ⟨(byteAt_spells small hr).1, register.symm⟩
    · rename_i counted
      obtain ⟨⟨n, j⟩, hn, hlen⟩ := Except.bind_eq_ok.mp hlen
      cases hlen
      obtain ⟨c, value, -, bytes⟩ := varLen_spells small hn
      obtain rfl : n = c := by simpa using value
      exact ⟨bytes, (Bool.eq_false_iff.mpr counted).symm⟩
  cases h
  rw [encodeOrder_eq, OrderD.encodePrefixes_eq wf rfl rfl rfl length.2 rfl rfl rfl rfl page]
  rw [format]
  exact (((((prefixed.append (opcode.cons byte)).append target).append scene).append length.1).append
    (byteAt_spells small hmask).1).append (descsAt_spells small hdescs rfl).1

/-- Settles O60: prefixes, opcode and the rest each read as they are encoded. -/
theorem decodedOrdersKeepEveryByte : Obligations.DecodedOrdersKeepEveryByte := by
  intro bs o small h
  unfold decodeOrder at h
  obtain ⟨⟨p, i⟩, hp, h⟩ := Except.bind_eq_ok.mp h
  obtain ⟨b, hb, h⟩ := Except.bind_eq_ok.mp h
  have start : Pfx.Wf ⟨[], none, false⟩ := ⟨List.Pairwise.nil, fun _ hx => absurd hx List.not_mem_nil, rfl, rfl⟩
  obtain ⟨wf, l, prefixed, seen⟩ := prefixes_spells small hp start
  obtain rfl : p.encode = l := seen
  have opcode := (byteAt_spells small hb).1
  split at h
  · cases h
  rename_i op hop
  have found : op.code = b ∧ op.extended = p.extd := by
    split at hop
    · rename_i page
      rw [page]; exact Op.page1_code hop
    · rename_i page
      rw [Bool.eq_false_iff.mpr page]; exact Op.page0_code hop
  rw [← found.1] at opcode
  exact (decodeRest_spells small wf prefixed opcode found.2 h).take

end Sys2Proof.Machine

/-! ## Floating and decimal instructions (R395 to R400, R403) -/

namespace Sys2Proof.Machine

theorem pairOk_iff (t : ETy) (r : BitVec 5) : pairOk t r = true ↔ (isDec128 t = true → r.toNat % 2 = 0 ∧ r ≠ 0) := by
  unfold pairOk
  cases isDec128 t <;> simp

theorem roundOk_iff (rnd : BitVec 3) (dec : Bool) : roundOk rnd dec = true ↔ rnd.toNat < 6 ∧ (rnd = 4 → dec = true) := by
  unfold roundOk
  rw [Bool.and_eq_true, decide_eq_true_eq, Bool.or_eq_true, bne_iff_ne]
  tauto

end Sys2Proof.Machine

section
open Sys2Proof Sys2Proof.Machine

/-- The legal forms, by the tests of the meanings. -/
theorem FpForm.legal_iff (x : FpForm) : x.Legal ↔ roundOk x.rnd (x.t.isDec || x.u.isDec) = true ∧
    (x.op = .cvt ∨ x.op = .cvtsat ∨ x.op.types x.t = true) ∧ (∀ r ∈ x.srcs, pairOk x.t r = true) ∧
    (x.whole = false → pairOk x.u x.d = true) := by
  unfold FpForm.Legal
  simp only [pairOk_iff, roundOk_iff, Bool.or_eq_true, and_assoc]

/-- The writes of the result of a form. -/
def FpForm.dest (x : FpForm) (s : State) : List (Nat × Word) :=
  if x.whole then (s.destKeys x.c x.d).map fun k => (k, BitVec.ofNat 64 (x.value s).1) else s.fpDest x.c x.u x.d (x.value s).1

theorem FpForm.long_eq (x : FpForm) : x.long = fpLong x.op x.t := by
  unfold FpForm.long fpLong
  cases x.op <;> simp

theorem FpForm.iterative_eq (x : FpForm) : x.iterative = fpUnit x.op x.t := by
  unfold FpForm.iterative fpUnit
  cases x.op <;> simp

end

namespace Sys2Proof.Machine

/-- What a floating or decimal instruction of caller `c` means: one of its legal forms delivers its result; it is illegal
without a legal form. -/
structure FpMeaning (i : Instr) (s : State) (c : Nat) : Prop where
  means : ∃ word ill regs act, exec i s = .next (s.instr c word ill regs [] act) ∧
    ((∀ x, fpForm i = some x → ¬ x.Legal) → ill = true) ∧
    ∀ x, fpForm i = some x → x.Legal → ill = false ∧ x.c = c ∧ (∀ r ∈ regs, r ∈ x.named) ∧
      act s = s.fpResult c x.op x.t (x.dest s) (x.value s).2

/-- A legal form has its effect. -/
theorem FpMeaning.effect {i : Instr} {s : State} {c : Nat} (m : FpMeaning i s c) {x : FpForm} (form : fpForm i = some x)
    (legal : x.Legal) (acts : Acts s x.c x.named []) :
    if x.long then LongEffect i s x.c (x.dest s) [] (x.value s).2 x.iterative
    else ShortEffect i s x.c (x.dest s) [] (x.value s).2 := by
  obtain ⟨word, ill, regs, act, meaning, -, forms⟩ := m
  obtain ⟨legalIns, rfl, named, result⟩ := forms x form legal
  rw [State.instr_acts legalIns (acts.perm named), result, State.fpResult, ← x.long_eq, ← x.iterative_eq] at meaning
  split at meaning
  · rename_i long
    rw [if_pos long]
    exact State.longOp_effect _ _ _ _ _ _ _ meaning
  · rename_i short
    rw [if_neg short]
    exact State.shortOp_effect _ _ _ _ _ _ meaning

/-- An instruction without a legal form raises ILLEGAL. -/
theorem FpMeaning.illegal {i : Instr} {s : State} {c : Nat} (m : FpMeaning i s c)
    (none : ∀ x, fpForm i = some x → ¬ x.Legal) (issues : s.issues c = true) (fetched : s.fetch c (s.cal c).pc = .word) :
    ∃ word, exec i s = .next (s.except c excIllegal 0 word (s.cal c).pc) := by
  obtain ⟨word, ill, regs, act, meaning, illegal, -⟩ := m
  exact ⟨word, by rw [meaning, State.instr_ill (illegal none) issues fetched]⟩

/-- The forms of the instructions of major 0x30. -/
def fpForm30 (c : Nat) (d s1 s2 : BitVec 5) (rnd ty : BitVec 3) (op : Op) (one whole : Bool) : Option FpForm :=
  if one && s2 != 0 then none
  else (fpType ty).map fun t => ⟨c, op, t, t, rnd, d, if one then [s1] else [s1, s2], whole⟩

theorem fpTwo_eq (c : BitVec 3) (d s1 s2 : BitVec 5) (rnd ty : BitVec 3) (op : Op) (whole : Bool) :
    fpTwo c d s1 s2 rnd ty op whole = fpForm30 c.toNat d s1 s2 rnd ty op false whole := rfl

theorem fpOne_eq (c : BitVec 3) (d s1 s2 : BitVec 5) (rnd ty : BitVec 3) (op : Op) (whole : Bool) :
    fpOne c d s1 s2 rnd ty op whole = fpForm30 c.toNat d s1 s2 rnd ty op true whole := by
  unfold fpOne fpForm30
  by_cases h : s2 = 0 <;> simp [h]

theorem fpIns_means {i : Instr} {s : State} {c code : Nat} {d s1 s2 : BitVec 5} {rnd ty : BitVec 3} {op : Op}
    {one whole : Bool} (meaning : exec i s = .next (s.fpIns c code d s1 s2 rnd ty op one whole))
    (form : fpForm i = fpForm30 c d s1 s2 rnd ty op one whole) (notCvt : op ≠ .cvt) (notCvtsat : op ≠ .cvtsat) :
    FpMeaning i s c := by
  unfold State.fpIns at meaning
  refine ⟨_, _, _, _, meaning, fun none => ?_, fun x hx legal => ?_⟩
  · by_contra ill
    simp only [Bool.not_eq_true, Bool.or_eq_false_iff, Bool.not_eq_false', Bool.and_eq_false_iff] at ill
    obtain ⟨⟨⟨⟨⟨⟨typed, round⟩, types⟩, single⟩, pair1⟩, pair2⟩, pairD⟩ := ill
    obtain ⟨t, ht⟩ : ∃ t, fpType ty = some t := Option.isSome_iff_exists.mp (by simpa using typed)
    rw [ht] at round types pair1 pair2 pairD
    refine none ⟨c, op, t, t, rnd, d, if one then [s1] else [s1, s2], whole⟩ ?_ ((FpForm.legal_iff _).mpr ⟨?_, ?_, ?_, ?_⟩)
    · rw [form, fpForm30, ht]
      cases one <;> simp_all
    · simpa using round
    · exact .inr (.inr types)
    · cases one <;> simp_all
    · intro notWhole
      exact pairD.resolve_left (by simp [show whole = false from notWhole])
  · rw [form, fpForm30] at hx
    split at hx
    · cases hx
    rename_i single
    obtain ⟨t, ht, rfl⟩ := Option.map_eq_some_iff.mp hx
    obtain ⟨round, types, pairs, pairD⟩ := (FpForm.legal_iff _).mp legal
    have types := (types.resolve_left notCvt).resolve_left notCvtsat
    dsimp only at round types pairs pairD
    rw [ht]
    refine ⟨?_, rfl, ?_, ?_⟩
    · rw [Bool.or_self] at round
      cases one <;> cases whole <;> simp_all
    · cases one <;> cases whole <;> simp +contextual [FpForm.named]
    · cases one <;> rfl

theorem fmaIns_means {i : Instr} {s : State} {c : BitVec 3} {major : Nat} {d s1 s2 s3 : BitVec 5} {rnd ty : BitVec 3} {op : Op}
    (meaning : exec i s = .next (s.fmaIns c.toNat major d s1 s2 s3 rnd ty op))
    (form : fpForm i = fpThree c d s1 s2 s3 rnd ty op) (types : ∀ t, fpType ty = some t → op.types t = true) :
    FpMeaning i s c.toNat := by
  unfold State.fmaIns at meaning
  refine ⟨_, _, _, _, meaning, fun none => ?_, fun x hx legal => ?_⟩
  · by_contra ill
    simp only [Bool.not_eq_true, Bool.or_eq_false_iff, Bool.not_eq_false'] at ill
    obtain ⟨⟨typed, round⟩, pairs⟩ := ill
    obtain ⟨t, ht⟩ : ∃ t, fpType ty = some t := Option.isSome_iff_exists.mp (by simpa using typed)
    rw [ht] at round pairs
    refine none ⟨c.toNat, op, t, t, rnd, d, [s1, s2, s3], false⟩ (by rw [form, fpThree, ht]; rfl)
      ((FpForm.legal_iff _).mpr ⟨by simpa using round, .inr (.inr (types t ht)), ?_, ?_⟩)
    · simp_all
    · simp_all
  · rw [form, fpThree] at hx
    obtain ⟨t, ht, rfl⟩ := Option.map_eq_some_iff.mp hx
    obtain ⟨round, -, pairs, pairD⟩ := (FpForm.legal_iff _).mp legal
    dsimp only at round pairs pairD
    rw [ht]
    refine ⟨?_, rfl, ?_, rfl⟩
    · rw [Bool.or_self] at round
      simp_all
    · simp only [FpForm.named, List.flatMap_cons, List.flatMap_nil, List.mem_append, List.append_nil, Bool.false_eq_true, if_false]
      tauto

theorem cvtIns_means {i : Instr} {s : State} {c : BitVec 3} {d s1 : BitVec 5} {sty tty : BitVec 4} {rnd : BitVec 3} {sat : Bool}
    (meaning : exec i s = .next (s.cvtIns c.toNat d s1 sty tty rnd sat))
    (form : fpForm i = (fpConvert c d s1 sty tty rnd (if sat then .cvtsat else .cvt)).bind fun x =>
      if sat = true → x.u.isInt = true then some x else none) : FpMeaning i s c.toNat := by
  unfold State.cvtIns at meaning
  refine ⟨_, _, _, _, meaning, fun none => ?_, fun x hx legal => ?_⟩
  · by_contra ill
    simp only [Bool.not_eq_true, Bool.or_eq_false_iff, Bool.not_eq_false', Bool.and_eq_false_iff, decide_eq_false_iff_not,
      Nat.not_le] at ill
    obtain ⟨⟨⟨⟨⟨source, target⟩, whole⟩, round⟩, pair⟩, pairD⟩ := ill
    refine none ⟨c.toNat, if sat then .cvtsat else .cvt, ETy.ofCode sty.toNat, ETy.ofCode tty.toNat, rnd, d, [s1], false⟩ ?_
      ((FpForm.legal_iff _).mpr ⟨round, ?_, ?_, fun _ => pairD⟩)
    · rw [form, fpConvert, if_pos ⟨source, target⟩, Option.bind_some]
      cases sat <;> simp_all
    · cases sat <;> simp
    · simpa using pair
  · rw [form, fpConvert] at hx
    split at hx
    · rename_i codes
      rw [Option.bind_some] at hx
      obtain ⟨whole, hx⟩ := Option.ite_none_right_eq_some.mp hx
      cases hx
      obtain ⟨round, -, pairs, pairD⟩ := (FpForm.legal_iff _).mp legal
      dsimp only at round pairs pairD whole
      refine ⟨?_, rfl, ?_, ?_⟩
      · cases sat <;> simp_all
      · simp +contextual [FpForm.named]
      · cases sat <;> rfl
    · cases hx

/-- The fused operations take every floating and decimal type. -/
theorem fused_types {op : Op} (fused : op = .fma ∨ op = .fms ∨ op = .fnma) {ty : BitVec 3} {t : ETy} (ht : fpType ty = some t) :
    op.types t = true := by
  unfold fpType at ht
  split at ht
  · rename_i code
    cases ht
    have flt : ∀ k < 6, (ETy.ofCode (8 + k)).isFlt = true := by decide
    rcases fused with rfl | rfl | rfl <;> simp [Op.types, flt _ code]
  · cases ht

/-- What each floating or decimal instruction means. -/
theorem fp_means {i : Instr} {c : Nat} (caller : fpCaller i = some c) (s : State) : FpMeaning i s c := by
  unfold fpCaller at caller
  split at caller <;> cases caller
  case h_1 => exact fpIns_means rfl (fpTwo_eq ..) nofun nofun
  case h_2 => exact fpIns_means rfl (fpTwo_eq ..) nofun nofun
  case h_3 => exact fpIns_means rfl (fpTwo_eq ..) nofun nofun
  case h_4 => exact fpIns_means rfl (fpTwo_eq ..) nofun nofun
  case h_5 => exact fpIns_means rfl (fpOne_eq ..) nofun nofun
  case h_6 => exact fpIns_means rfl (fpTwo_eq ..) nofun nofun
  case h_7 => exact fpIns_means rfl (fpTwo_eq ..) nofun nofun
  case h_8 => exact fpIns_means rfl (fpOne_eq ..) nofun nofun
  case h_9 => exact fpIns_means rfl (fpOne_eq ..) nofun nofun
  case h_10 => exact fpIns_means rfl (fpTwo_eq ..) nofun nofun
  case h_11 => exact fpIns_means rfl (fpTwo_eq ..) nofun nofun
  case h_12 => exact fpIns_means rfl (fpTwo_eq ..) nofun nofun
  case h_13 => exact fpIns_means rfl (fpTwo_eq ..) nofun nofun
  case h_14 => exact fpIns_means rfl (fpTwo_eq ..) nofun nofun
  case h_15 => exact fpIns_means rfl (fpOne_eq ..) nofun nofun
  case h_16 => exact fpIns_means rfl (fpOne_eq ..) nofun nofun
  case h_17 => exact fpIns_means rfl (fpTwo_eq ..) nofun nofun
  case h_18 => exact fpIns_means rfl (fpTwo_eq ..) nofun nofun
  case h_19 => exact fpIns_means rfl (fpOne_eq ..) nofun nofun
  case h_20 => exact fmaIns_means rfl rfl fun _ => fused_types (.inl rfl)
  case h_21 => exact fmaIns_means rfl rfl fun _ => fused_types (.inr (.inl rfl))
  case h_22 => exact fmaIns_means rfl rfl fun _ => fused_types (.inr (.inr rfl))
  case h_23 => exact cvtIns_means (sat := false) rfl (by simp [fpForm])
  case h_24 => exact cvtIns_means (sat := true) rfl (by simp [fpForm])

/-- An instruction with a form has a caller. -/
theorem fpCaller_of_form {i : Instr} {x : FpForm} (form : fpForm i = some x) : ∃ c, fpCaller i = some c := by
  unfold fpForm at form
  split at form
  case h_25 => cases form
  all_goals exact ⟨_, rfl⟩

/-- Settles O5: every instruction is one of major 0x30, a fused one or a conversion, whose tests are those of a legal form. -/
theorem floatingInstructionsWriteTheirResults : Obligations.FloatingInstructionsWriteTheirResults := by
  refine ⟨fun i s x form legal acts => ?_, fun i s c caller none => (fp_means caller s).illegal none⟩
  obtain ⟨c, caller⟩ := fpCaller_of_form form
  exact (fp_means caller s).effect form legal acts

end Sys2Proof.Machine

/-! ## Vector instructions (R403, R406, R407) -/

namespace Sys2Proof.Machine

/-- A long operation without a unit and without flags has its effect also where a free value has been taken before it. -/
theorem State.longOp_effect_taken {i : Instr} {s : State} {c : Nat} {d : List (Nat × Word)} {v : List (Nat × Nat)}
    (h : exec i s = .next (s.takeFree.2.longOp c d v 0 0)) : LongEffect i s c d v 0 0 := by
  have since : ∀ {u x ret}, Retires s.takeFree.2 u c x ret → Retires s u c x ret := fun r =>
    ⟨⟨r.others, r.memory, r.queues, r.regs⟩, r.caller, r.counted⟩
  have idle : ¬ ((0 : Nat) ≠ 0 ∧ ((s.takeFree.2.cal c).longs.any fun l => l.unit == 0) = true) := fun h => h.1 rfl
  unfold State.longOp at h
  rw [if_neg idle] at h
  refine ⟨fun busy => absurd rfl busy.1, fun _ pa t ht => ?flies, fun _ pa => ⟨fun _ => ?writes, fun enabled => ?_⟩⟩
  case flies =>
    have tag : (s.takeFree.2.cal c).freeTag = some t := ht
    have off : (s.takeFree.2.cal c).status.bit 6 = false := pa
    simp only [off, tag, Bool.false_eq_true, if_false] at h
    have g := State.moved_of (State.setCal_elsewhere s.takeFree.2 c { s.cal c with
      longs := (s.cal c).longs ++
        [⟨t, (s.cal c).pc, (s.cal c).lvl, d, v, 0, (s.cal c).shadow.isSome, (s.cal c).shadow.isSome, 0⟩]
      nextTag := (t + 1) % 32 }) rfl (by rw [State.cal_setCal_same]; exact Iff.rfl) ((s.cal c).pc + 4) false
    rw [State.cal_setCal_same] at g
    exact ⟨_, h, since g⟩
  case writes =>
    have on : (s.takeFree.2.cal c).status.bit 6 = true := pa
    rw [if_pos on, State.shortOp, State.enabled, if_neg (by simp)] at h
    obtain ⟨g1, g2, g3⟩ := State.onRegs_raiseFlags s.takeFree.2 c (fun x => x.putAll d v) 0
    have g := State.moved_of g1 (g2 _ _) (by rw [g3]; exact CalSt.raised_shadow ..)
      (((s.cal c).raised ((s.cal c).r.putAll d v) 0).pc + 4) true
    rw [g3] at g
    refine ⟨_, ?_, since g⟩
    rw [h, State.next, State.goto, g3]
    rfl
  · exact absurd (BitVec.zero_and ..) enabled

/-- The meaning of the instruction of a form, whose operation has the code `code`. -/
def vecRun (x : VecForm) (s : State) (code : Nat) : State :=
  match x.kind with
  | .each op one => s.vecOp x.c code x.vd x.vs1 x.vs2 x.masked x.scalar op one
  | .compare k => s.vecCmp x.c code x.vd x.vs1 x.vs2 x.masked x.scalar k
  | .select => s.vecSel x.c code x.vd x.vs1 x.vs2 x.masked x.scalar
  | .reduce op => s.vecRed x.c code x.vd x.vs1 x.vs2 x.masked x.scalar op
  | .toGeneral => s.vecMvx x.c code x.vd x.vs1 x.vs2 x.masked x.scalar

theorem exec_vector {i : Instr} {x : VecForm} (form : vecForm i = some x) (s : State) :
    ∃ code, exec i s = .next (vecRun x s code) := by
  unfold vecForm at form
  split at form <;> cases form
  all_goals exact ⟨_, rfl⟩

/-- The long operation of a form (R407). -/
def vecEffect (x : VecForm) (s : State) : State :=
  let r := (s.cal x.c).r
  let w := r.vty.w
  match x.kind with
  | .each _ _ | .select =>
    s.longOp x.c [] (r.putElems w x.vd.toNat ((x.elements s).map fun v => (v.1, v.2.1))) (flagsOf (x.elements s))
  | .compare _ =>
    s.longOp x.c [] [(x.vd.toNat, (x.elements s).foldl (fun y v => putElem 1 v.1 y v.2.1) (r.vreg x.vd.toNat))]
      (flagsOf (x.elements s))
  | .reduce op =>
    let y := vecReduce op (s.fpCtx x.c r.vty r.vty 5) ((r.active x.masked).map fun i => (i, r.elem w x.vs1.toNat i))
    match y.1 with
    | some v =>
      s.longOp x.c [] (r.putElems w x.vd.toNat [(0, (deliverVal r.vty false v).1)]) (y.2 ||| (deliverVal r.vty false v).2)
    | none => s.takeFree.2.longOp x.c [] (r.putElems w x.vd.toNat [(0, s.takeFree.1.toNat % 2 ^ w)]) 0
  | .toGeneral => s.longOp x.c (s.fpDest x.c r.vty x.vd (r.elem w x.vs1.toNat 0)) [] 0

/-- The flags of a selection are none. -/
theorem flagsOf_zero {l : List (Nat × Res)} (h : ∀ v ∈ l, v.2.2 = 0) : flagsOf l = 0 := by
  unfold flagsOf
  induction l with
  | nil => rfl
  | cons v l ih =>
    rw [List.foldl_cons, h v (List.mem_cons_self ..)]
    exact ih fun u hu => h u (List.mem_cons_of_mem _ hu)

/-- A vector instruction is illegal unless its form is legal, names its registers, and else does its long operation. -/
theorem vecRun_instr (x : VecForm) (s : State) (code : Nat) : ∃ word act,
    vecRun x s code = s.instr x.c word (!x.legal s) x.general (x.vectors s) act ∧ act s = vecEffect x s := by
  obtain ⟨c, kind, vd, vs1, vs2, masked, scalar⟩ := x
  cases kind with
  | each op one =>
    have legal : VecForm.legal ⟨c, .each op one, vd, vs1, vs2, masked, scalar⟩ s =
        (op.types (s.cal c).r.vty && (s.cal c).r.aligned vd && (s.cal c).r.aligned vs1 &&
          (one || scalar || (s.cal c).r.aligned vs2)) := by
      rw [Bool.or_assoc]
      rfl
    rw [legal]
    unfold vecRun State.vecOp State.vecIns
    refine ⟨wordV code vd vs1 vs2 masked scalar, _, rfl, ?_⟩
    simp only [vecEffect, VecForm.elements, flagsOf, List.map_map, Function.comp_def]
  | compare k =>
    unfold vecRun State.vecCmp State.vecIns
    refine ⟨wordV code vd vs1 vs2 masked scalar, _, rfl, ?_⟩
    simp only [vecEffect, VecForm.elements, flagsOf, List.foldl_map]
  | select =>
    unfold vecRun State.vecSel State.vecIns
    refine ⟨wordV code vd vs1 vs2 masked scalar, _, rfl, ?_⟩
    simp only [vecEffect, VecForm.elements, List.map_map, Function.comp_def]
    rw [flagsOf_zero (by simp)]
  | reduce op =>
    unfold vecRun State.vecRed State.vecIns
    refine ⟨wordV code vd vs1 vs2 masked scalar, _, rfl, ?_⟩
    obtain ⟨y, reduced⟩ : ∃ y, vecReduce op (s.fpCtx c (s.cal c).r.vty (s.cal c).r.vty 5)
        (((s.cal c).r.active masked).map fun i => (i, (s.cal c).r.elem (s.cal c).r.vty.w vs1.toNat i)) = y := ⟨_, rfl⟩
    simp only [vecEffect, reduced] <;> rcases y with ⟨_ | v, f⟩ <;> rfl
  | toGeneral =>
    unfold vecRun State.vecMvx State.vecIns
    exact ⟨wordV code vd vs1 vs2 masked scalar, _, rfl, rfl⟩

/-- Settles O6: the form names the long operation; of a reduction without an active element the result is a free value. -/
theorem vectorInstructionsWriteTheirElements : Obligations.VectorInstructionsWriteTheirElements := by
  refine ⟨fun i s x form legal acts => ?_, fun i s x form illegal issues fetched => ?_⟩
  · obtain ⟨code, meaning⟩ := exec_vector form s
    obtain ⟨word, act, run, effect⟩ := vecRun_instr x s code
    rw [run, State.instr_acts (by rw [legal]; rfl) acts, effect, vecEffect] at meaning
    obtain ⟨c, kind, vd, vs1, vs2, masked, scalar⟩ := x
    dsimp only at meaning ⊢
    cases kind with
    | each => exact State.longOp_effect _ _ _ _ _ _ _ meaning
    | compare => exact State.longOp_effect _ _ _ _ _ _ _ meaning
    | select => exact State.longOp_effect _ _ _ _ _ _ _ meaning
    | reduce op =>
      dsimp only at meaning
      refine ⟨fun v some => ?_, fun none => ?_⟩
      · rw [some] at meaning
        exact State.longOp_effect _ _ _ _ _ _ _ meaning
      · rw [none] at meaning
        exact ⟨_, Nat.mod_lt _ (Nat.two_pow_pos _), State.longOp_effect_taken meaning⟩
    | toGeneral => exact State.longOp_effect _ _ _ _ _ _ _ meaning
  · obtain ⟨code, meaning⟩ := exec_vector form s
    obtain ⟨word, act, run, -⟩ := vecRun_instr x s code
    exact ⟨word, by rw [meaning, run, State.instr_ill (by rw [illegal]; rfl) issues fetched]⟩

end Sys2Proof.Machine

/-! ## What the recording of a fault never touches (R484) -/

namespace Sys2Proof.Machine

/-- The part of the state that no recorded fault, cue or wear event reaches: the callers, the order queues and what runs on
the engines, the clock, and what waits. -/
def State.still (s : State) : State :=
  { State.reset with
    pending := s.pending, rdata := s.rdata, time := s.time, beats := s.beats, retired := s.retired, cueIn := s.cueIn
    queues := s.queues, orderSeq := s.orderSeq, engPair := s.engPair, tp := s.tp, encore := s.encore, seals := s.seals
    counters := s.counters, arbs := s.arbs, host := s.host, cals := s.cals, calBeats := s.calBeats, boot := s.boot }

theorem time_of_still {s t : State} (h : t.still = s.still) : t.time = s.time := by
  have := congrArg State.time h
  exact this
theorem cal_of_still {s t : State} (h : t.still = s.still) (c : Nat) : t.cal c = s.cal c :=
  State.cal_congr (by have := congrArg State.cals h; exact this) c
theorem queues_of_still {s t : State} (h : t.still = s.still) : t.queues = s.queues := by
  have := congrArg State.queues h
  exact this

/-- A fold of steps that leave the still part alone. -/
theorem foldl_still {α : Type} {f : State → α → State} (h : ∀ s a, (f s a).still = s.still) (l : List α) (s : State) :
    (l.foldl f s).still = s.still := foldl_pres f State.still h l s

section
variable (s : State)

@[simp] theorem State.setReg_still (a : Nat) (v : Word) : (s.setReg a v).still = s.still := rfl
@[simp] theorem State.setRf_still (a : Nat) (f : FP) (x : Nat) : (s.setRf a f x).still = s.still := rfl
@[simp] theorem State.addRf_still (a : Nat) (f : FP) (x : Nat) : (s.addRf a f x).still = s.still := rfl
@[simp] theorem State.satRf_still (a : Nat) (f : FP) (x : Nat) : (s.satRf a f x).still = s.still := rfl
@[simp] theorem State.setByte_still (a : Nat) (b : Byte) : (s.setByte a b).still = s.still := rfl
@[simp] theorem State.setBytes_still (a : Nat) (b : List Byte) : (s.setBytes a b).still = s.still := rfl
@[simp] theorem State.setBad_still (a : Nat) (b : Bool) : (s.setBad a b).still = s.still := rfl
@[simp] theorem State.setPhys_still (i : Nat) (x : Phys) : (s.setPhys i x).still = s.still := rfl
@[simp] theorem State.setRecOf_still (i : Nat) (x : Rec) : (s.setRecOf i x).still = s.still := rfl
@[simp] theorem State.setRelay_still (r : Nat) (x : Relay) : (s.setRelay r x).still = s.still := rfl
@[simp] theorem State.setFrame_still (f : Nat) (x : FrameSt) : (s.setFrame f x).still = s.still := rfl
@[simp] theorem State.setHb_still (k : Nat) (x : HbcSt) : (s.setHb k x).still = s.still := rfl
@[simp] theorem State.setLog_still (w : Nat) (x : ArcLog) : (s.setLog w x).still = s.still := rfl
@[simp] theorem State.takeFree_still : s.takeFree.2.still = s.still := rfl
@[simp] theorem State.setGroup_still (g : Nat) (on : Bool) : (s.setGroup g on).still = s.still := rfl
@[simp] theorem State.setCueBusy_still (c n : Nat) : (s.setCueBusy c n).still = s.still := rfl
@[simp] theorem State.cueMissed_still (c : Nat) : (s.cueMissed c).still = s.still := rfl
@[simp] theorem State.txKick_still (p w : Nat) : (s.txKick p w).still = s.still := rfl

/-! ### Fault groups and interrupt arrivals -/

@[simp] theorem State.arriveCore_still (src : Nat) : (s.arriveCore src).1.still = s.still := by
  unfold State.arriveCore
  dsimp only
  split
  · rfl
  · split <;> rfl

@[simp] theorem State.fltMark_still (f : Flt) : (s.fltMark f).1.still = s.still := by
  unfold State.fltMark
  dsimp only
  split
  · simp
  · dsimp only
    split <;> simp

@[simp] theorem State.fltCore_still (n : Nat) (f : Flt) : (State.fltCore n s f).1.still = s.still := by
  induction n generalizing s f with
  | zero => exact s.fltMark_still f
  | succ n ih =>
    unfold State.fltCore
    dsimp only
    split
    · simp
    · dsimp only
      repeat' split
      all_goals simp [ih]

@[simp] theorem State.flt_still (f : Flt) : (s.flt f).still = s.still := s.fltCore_still 3 f
@[simp] theorem State.locked_still (b : Blk) (inst : Nat) : (s.locked b inst).still = s.still := s.flt_still _
@[simp] theorem State.mtxFrozen_still (src a : Nat) : (s.mtxFrozen src a).still = s.still := s.flt_still _
@[simp] theorem State.decodeFault_still (au : Auth) (off : Nat) : (s.decodeFault au off).still = s.still := s.flt_still _

@[simp] theorem State.arrive_still (src : Nat) : (s.arrive src).still = s.still := by
  unfold State.arrive
  dsimp only
  split <;> simp

@[simp] theorem State.refuse_still (au : Auth) (e : MErr) (a : Nat) : (s.refuse au e a).still = s.still := by
  unfold State.refuse State.mtxDenied State.hstDenied
  cases au.host <;> cases e <;> simp

/-! ### Writes of device memory -/

@[simp] theorem State.poke_still (a : Nat) (bs : List Byte) : (s.poke a bs).still = s.still := by
  obtain ⟨e, h⟩ := s.poke_eq a bs
  rw [h]; rfl

@[simp] theorem State.pokeIn_still (lo n a : Nat) (bs : List Byte) : (s.pokeIn lo n a bs).still = s.still := by
  unfold State.pokeIn
  dsimp only
  split
  · rfl
  · refine (foldl_still (fun u b => ?_) _ _).trans rfl
    split <;> rfl

@[simp] theorem State.touchBut_still (own : Option Nat) (a n : Nat) : (s.touchBut own a n).still = s.still := by
  unfold State.touchBut
  split
  · rfl
  · refine foldl_still (fun u e => ?_) _ _
    dsimp only
    split <;> rfl

@[simp] theorem State.touch_still (a n : Nat) : (s.touch a n).still = s.still := s.touchBut_still none a n

@[simp] theorem State.storeByte_still (v : View) (a : Nat) (b : Byte) : (s.storeByte v a b).still = s.still := by
  unfold State.storeByte
  split <;> rfl

@[simp] theorem State.storeIn_still (lo n : Nat) (v : View) (a : Nat) (bs : List Byte) :
    (s.storeIn lo n v a bs).still = s.still := by
  unfold State.storeIn
  split
  · simp
  · exact foldl_still (fun u x => u.storeByte_still v _ _) _ _

@[simp] theorem State.storeBytes_still (v : View) (a : Nat) (bs : List Byte) : (s.storeBytes v a bs).still = s.still :=
  s.storeIn_still a bs.length v a bs

@[simp] theorem State.pokeOwn_still (src : Nat) (v : View) (a : Nat) (bs : List Byte) :
    (s.pokeOwn src v a bs).still = s.still := by
  have bytes : (((List.range bs.length).zip bs).foldl (fun t x =>
      if s.passes v (a + x.1) then (t.poke (a + x.1) [x.2]).touch (a + x.1) 1 else t) s).still = s.still :=
    foldl_still (fun u x => by split <;> simp) _ _
  unfold State.pokeOwn
  dsimp only
  split <;> split <;> simp [bytes]

/-! ### Relays and frames -/

@[simp] theorem State.relayPut1_still (r : Nat) (b : Byte) : (s.relayPut1 r b).still = s.still := by
  unfold State.relayPut1
  simp

@[simp] theorem State.relayPut_still (r : Nat) (bs : List Byte) : (s.relayPut r bs).still = s.still :=
  foldl_still (fun u b => u.relayPut1_still r b) _ _

@[simp] theorem State.relaySeal_still (r : Nat) : (s.relaySeal r).still = s.still := rfl

theorem State.relayPush_still {r : Nat} {v : View} {bs : List Byte} {t : State} (h : s.relayPush r v bs = .ok t) :
    t.still = s.still := by
  unfold State.relayPush at h
  dsimp only at h
  split at h
  · cases h
  · split at h <;> cases h
    simp

@[simp] theorem State.frameCloseNow_still (f : Nat) : (s.frameCloseNow f).still = s.still := by
  unfold State.frameCloseNow
  dsimp only
  split <;> simp

@[simp] theorem State.frameSettle_still (f : Nat) : (s.frameSettle f).still = s.still := by
  unfold State.frameSettle
  split <;> simp

@[simp] theorem State.frameClose_still (f : Nat) : (s.frameClose f).still = s.still := by
  have settled := s.frameSettle_still f
  unfold State.frameClose
  dsimp only
  split
  · exact settled
  · split
    · simp
    · split
      · exact settled
      · split <;> simp

theorem State.frameWrite_still {v : View} {f off : Nat} {bs : List Byte} {t : State} (h : s.frameWrite v f off bs = .ok t) :
    t.still = s.still := by
  unfold State.frameWrite State.store at h
  dsimp only at h
  split at h
  · cases h; simp
  · split at h <;> cases h
    rename_i stored
    split at stored <;> cases stored
    simp

/-! ### Banks, rows and their errors -/

@[simp] theorem State.bankSwap_still (b : Nat) : (s.bankSwap b).still = s.still := by
  unfold State.bankSwap
  dsimp only
  split
  · split <;> rfl
  · split
    · split <;> simp
    · rfl

@[simp] theorem State.bankWear_still (b : Nat) (mandatory : Bool) : (s.bankWear b mandatory).still = s.still := by
  unfold State.bankWear
  dsimp only
  split <;> split <;> simp <;> rfl

@[simp] theorem State.scpUeMark_still (a : Nat) : (s.scpUeMark a).1.still = s.still := by
  unfold State.scpUeMark
  simp

@[simp] theorem State.candidate_still (k : Nat) (r : Nat × Nat) : (s.candidate k r).still = s.still := by
  unfold State.candidate
  dsimp only
  split <;> rfl

@[simp] theorem State.weaken_still (k : Nat) (r : Nat × Nat) : (s.weaken k r).still = s.still := by
  unfold State.weaken
  dsimp only
  split
  · rfl
  · split <;> simp

@[simp] theorem State.scpCe_still (a : Nat) : (s.scpCe a).still = s.still := by
  unfold State.scpCe
  dsimp only
  split
  · exact (State.bankWear_still _ _ _).trans rfl
  · rfl

@[simp] theorem State.hbmCe_still (a : Nat) : (s.hbmCe a).still = s.still := by
  unfold State.hbmCe
  dsimp only
  split <;> simp

@[simp] theorem State.memCe_still (a : Nat) : (s.memCe a).still = s.still := by
  unfold State.memCe
  split
  · simp
  · split <;> simp

/-! ### Cues and the escalation of a safety-class fault -/

@[simp] theorem State.arcPage_still (w : Nat) (cue : Bool) : (s.arcPage w cue).still = s.still := by
  unfold State.arcPage State.startPage
  dsimp only
  split
  · rfl
  · split
    · rfl
    · split <;> rfl

@[simp] theorem State.arcCue_still : s.arcCue.still = s.still := by
  unfold State.arcCue
  simp

@[simp] theorem State.cueOut_still (o : Nat) : (s.cueOut o).still = s.still := by
  unfold State.cueOut
  dsimp only
  split
  · rfl
  · split <;> split <;> rfl

theorem State.cueShort_still {act : State → State} (h : ∀ u : State, (act u).still = u.still) (c : Nat) :
    (s.cueShort c act).still = s.still := by
  unfold State.cueShort
  split <;> simp [h]

@[simp] theorem State.deliverFrames_still (ch : Nat) : (s.deliverFrames ch).still = s.still :=
  foldl_still (fun u f => by split <;> simp) _ _

@[simp] theorem State.deliverGroup_still (ch g : Nat) : (s.deliverGroup ch g).still = s.still := by
  have set (u : State) (c : Nat) (b : Bool) : (u.cueShort c fun u => u.setGroup g b).still = u.still :=
    u.cueShort_still (fun v => v.setGroup_still g b) c
  unfold State.deliverGroup
  dsimp only
  split
  · split <;> simp [set]
  all_goals simp [set]

@[simp] theorem State.deliverRest_still (ch : Nat) : (s.deliverRest ch).still = s.still := by
  have kick (u : State) (c p w : Nat) : (u.cueShort c fun u => u.txKick p w).still = u.still :=
    u.cueShort_still (fun v => v.txKick_still p w) c
  unfold State.deliverRest
  dsimp only
  refine (foldl_still (fun u i => by split <;> simp [kick]) _ _).trans ?_
  split
  · split <;> simp only [State.cueMissed_still, State.arcCue_still] <;>
      refine (foldl_still (fun u i => u.deliverGroup_still ch i) _ _).trans (foldl_still (fun u i => by split <;> simp) _ _)
  · exact (foldl_still (fun u i => u.deliverGroup_still ch i) _ _).trans (foldl_still (fun u i => by split <;> simp) _ _)

@[simp] theorem State.rateRoll_still : s.rateRoll.still = s.still := by
  unfold State.rateRoll
  dsimp only
  split <;> rfl

@[simp] theorem State.rateCheck_still (ch : Nat) : (s.rateCheck ch).still = s.still := by
  unfold State.rateCheck
  dsimp only
  split
  · split <;> simp
  · rfl

@[simp] theorem State.alarmPulse_still : s.alarmPulse.still = s.still := by
  unfold State.alarmPulse
  dsimp only
  split <;> rfl

section
variable {esc : State → Flt → State} (h : ∀ (u : State) f, (esc u f).still = u.still)
include h

theorem State.feedNote_still (e : MErr) (a : Nat) : (s.feedNote esc e a).still = s.still := by
  unfold State.feedNote
  split
  · simp
  · dsimp only
    split <;> simp [h]
  · rfl

theorem State.feedWrite_still (f : Nat) (bs : List Byte) : (s.feedWrite esc f bs).still = s.still := by
  unfold State.feedWrite
  dsimp only
  split
  · rename_i t written
    split at written
    · split at written
      · split at written <;> cases written
        rename_i stored
        exact s.frameWrite_still stored
      · cases written
    · split at written
      · exact s.relayPush_still written
      · cases written
  · simp [State.feedNote_still _ h]
  · simp

theorem State.cueFeed_still (f ch : Nat) : (s.cueFeed esc f ch).still = s.still := by
  unfold State.cueFeed
  dsimp only
  split
  · simp
  · split
    · simp [State.feedWrite_still _ h]
    · rfl

theorem State.deliverFeeders_still (ch : Nat) : (s.deliverFeeders esc ch).still = s.still :=
  foldl_still (fun u f => by split <;> simp [State.cueFeed_still _ h]) _ _

theorem State.deliver_still (ch : Nat) : (s.deliver esc ch).still = s.still := by
  unfold State.deliver
  dsimp only
  split <;> dsimp only <;> split <;> simp [State.deliverFeeders_still _ h]

theorem State.fireDecide_still (ch : Nat) : (s.fireDecide esc ch).still = s.still := by
  unfold State.fireDecide
  split
  · exact (State.deliver_still _ h ch).trans rfl
  · rfl

theorem State.fireWith_still (ch : Nat) : (s.fireWith esc ch).still = s.still := by
  unfold State.fireWith
  split
  · rfl
  · dsimp only
    rw [State.rateCheck_still, State.fireDecide_still _ h]
    exact s.rateRoll_still

theorem State.escalateWith_still (f : Flt) : (s.escalateWith esc f).still = s.still := by
  unfold State.escalateWith
  dsimp only
  split <;> simp [State.fireWith_still _ h]

end

theorem State.escalateOnce_still (f : Flt) : (s.escalateWith (fun u _ => u) f).still = s.still :=
  s.escalateWith_still (fun _ _ => rfl) f

@[simp] theorem State.fire_still (ch : Nat) : (s.fire ch).still = s.still :=
  s.fireWith_still (fun u f => u.escalateOnce_still f) ch

@[simp] theorem State.escalate_still (f : Flt) : (s.escalate f).still = s.still :=
  s.escalateWith_still (fun u f => u.escalateOnce_still f) f

@[simp] theorem State.raise_still (f : Flt) : (s.raise f).still = s.still := by
  unfold State.raise
  dsimp only
  split <;> simp

/-! ### Uncorrectable units and wear -/

@[simp] theorem State.hbmUe_still (a : Nat) : (s.hbmUe a).still = s.still := by
  unfold State.hbmUe
  simp

@[simp] theorem State.scpUe_still (a : Nat) : (s.scpUe a).still = s.still := by
  unfold State.scpUe
  dsimp only
  split <;> simp

@[simp] theorem State.memUe_still (a : Nat) : (s.memUe a).still = s.still := by
  unfold State.memUe
  split
  · simp
  · split <;> simp

@[simp] theorem State.noSpare_still (i : Nat) : (s.noSpare i).still = s.still := by
  unfold State.noSpare
  dsimp only
  split
  · split
    · exact (State.raise_still _ _).trans (by simp)
    · simp
  · simp

@[simp] theorem State.queueSwap_still (i : Nat) (want : Option Nat) (mandatory : Bool) :
    (s.queueSwap i want mandatory).still = s.still := by
  unfold State.queueSwap
  dsimp only
  generalize (if swapKind i = 0 ∧ (s.spares i want).isEmpty = true then (i - 0x100) / 0x40 else i) = j
  split
  · rfl
  · split
    · simp
    · split
      · rfl
      · split <;> rfl

@[simp] theorem State.skipWorn_still (i : Nat) : (s.skipWorn i).still = s.still := by
  unfold State.skipWorn
  dsimp only
  split
  · rfl
  · split
    · rfl
    · simp

@[simp] theorem State.replace_still (i : Nat) (mandatory : Bool) : (s.replace i mandatory).still = s.still := by
  unfold State.replace
  split <;> simp

@[simp] theorem State.wear_still (i : Nat) (mandatory : Bool) : (s.wear i mandatory).still = s.still := by
  have noted : (if (!s.worn i) = true then (s.setRecOf i { s.recOf i with worn := true }).flt (ustFlt 1 i) else s).still =
      s.still := by split <;> simp
  unfold State.wear
  dsimp only
  generalize (if (!s.worn i) = true then (s.setRecOf i { s.recOf i with worn := true }).flt (ustFlt 1 i) else s) = t at noted ⊢
  split
  · exact noted
  · split <;> simp [noted]

@[simp] theorem State.cachePar_still (c : Nat) : (s.cachePar c).still = s.still := by
  unfold State.cachePar
  dsimp only
  split <;> simp <;> exact (State.flt_still _ _).trans rfl

end

end Sys2Proof.Machine

/-! ## Scalar loads and stores of the callers (R420 to R422) -/

namespace Sys2Proof.Machine

/-! ### The value of loaded bytes -/

theorem toInt_ofNat_toSigned (w x : Nat) : (BitVec.ofNat w x).toInt = toSigned w x := by
  have split_at : 2 * (x % 2 ^ w) < 2 ^ w ↔ (x % 2 ^ w < 2 ^ (w - 1) ∨ w = 0) := by
    cases w with
    | zero => simp [Nat.mod_one]
    | succ w => rw [Nat.add_sub_cancel, Nat.pow_succ]; omega
  unfold toSigned
  rw [BitVec.toInt_eq_toNat_cond, BitVec.toNat_ofNat]
  cases w with
  | zero => simp [Nat.mod_one]
  | succ w => simp [split_at]

theorem loadExt_eq (size : Nat) (signed : Bool) (bs : List Byte) : loadExt size signed bs = loadValue size signed bs := by
  unfold loadExt loadValue
  dsimp only
  rw [wrapInt_ofInt, ← toInt_ofNat_toSigned]
  rfl

theorem State.loadDone_gives (s : State) (c : Nat) (d : BitVec 5) (size : Nat) (signed : Bool) (bs : List Byte) :
    GivesResult s (s.loadDone c d size signed bs) c d (loadValue size signed bs) := by
  rw [← loadExt_eq]
  exact s.setGpr_next c d _

/-! ### A load issues -/

theorem exec_load {i : Instr} {c : Nat} {d s1 : BitVec 5} {imm : BitVec 16} {size : Nat} {signed : Bool}
    (form : loadForm i = some (c, d, s1, imm, size, signed)) (s : State) :
    ∃ word, exec i s = .next (s.loadIns c word d s1 imm size signed) := by
  unfold loadForm at form
  split at form <;> cases form
  all_goals exact ⟨_, rfl⟩

theorem joins_of_issue {i : Instr} {s t : State} {c : Nat} {l : LoadSt} (h : exec i s = .next (t.loadIssue c l)) :
    Joins i s t c l := by
  have g := State.moved_of (State.setCal_elsewhere t c { t.cal c with lds := (t.cal c).lds ++ [l] }) rfl
    (by rw [State.cal_setCal_same]) ((t.cal c).pc + 4) false
  rw [State.cal_setCal_same] at g
  exact ⟨_, h, g⟩

theorem Acts.idle {s : State} {c : Nat} {regs : List (BitVec 5)} {vregs : List Nat} (h : Acts s c regs vregs) :
    (s.cal c).lds = [] := by
  have issues := h.issues
  unfold State.issues at issues
  simpa using (Bool.and_eq_true_iff.mp issues).2

theorem State.loadIns_acts {s : State} {c word : Nat} {d s1 : BitVec 5} {imm : BitVec 16} {size : Nat} {signed : Bool}
    (h : Acts s c [d, s1] []) : s.loadIns c word d s1 imm size signed = s.loadAct c d s1 imm size signed := by
  unfold State.loadIns
  dsimp only
  rw [if_pos (by rw [h.idle]; rfl)]
  exact State.instr_acts rfl h

/-- Behind a load that has not retired, a load issues where nothing holds it up. -/
theorem State.loadIns_behind {s : State} {c word : Nat} {d s1 : BitVec 5} {imm : BitVec 16} {size : Nat} {signed : Bool}
    (runs : s.runs c = true) (behind : (s.cal c).lds ≠ []) (loads : (s.cal c).lds.length < 16)
    (tags : (s.cal c).lds.length + (s.cal c).longs.length < 32) (fetched : s.fetch c (s.cal c).pc = .word)
    (shadow : ∀ h, (s.cal c).shadow = some h → h.count < 8)
    (free : (s.cal c).clash ([d, s1].flatMap fun r => s.destKeys c r) [] = false) :
    s.loadIns c word d s1 imm size signed = s.loadAct c d s1 imm size signed := by
  unfold State.loadIns
  dsimp only
  rw [if_neg (by simpa using behind), if_neg]
  rw [free, runs, fetched]
  simp only [Bool.not_true, bne_self_eq_false, Bool.false_or, Bool.or_false, Bool.or_eq_true, decide_eq_true_eq, not_or,
    Nat.not_le]
  refine ⟨⟨?_, loads⟩, tags⟩
  cases open' : (s.cal c).shadow with
  | none => simp
  | some h => simpa using shadow h open'

/-! ### What an issued load meets (R420, R421) -/

section
variable {s : State} {c : Nat} {d s1 : BitVec 5} {imm : BitVec 16} {size : Nat} {signed : Bool}

/-- The load in flight, with the answer `res` and the line to fill if `cached`, as it issues at `t`. -/
def State.loadAsk (s t : State) (c : Nat) (d s1 : BitVec 5) (imm : BitVec 16) (size : Nat) (signed cached : Bool)
    (res : LoadRes) : State :=
  t.loadIssue c ⟨(s.cal c).pc, d.toNat, s.effAddr c s1 imm, size, signed, cached, res, t.time⟩

/-- A load whose bytes are at hand: alone it retires, behind others it keeps them. -/
def State.loadGiven (s : State) (c : Nat) (d s1 : BitVec 5) (imm : BitVec 16) (size : Nat) (signed : Bool) (bs : List Byte) :
    State :=
  if (s.cal c).lds.isEmpty then s.loadDone c d size signed bs else s.loadAsk s c d s1 imm size signed false (.bytes bs)

theorem State.loadAct_misaligned (h : s.effAddr c s1 imm % size ≠ 0) (idle : (s.cal c).lds = []) :
    s.loadAct c d s1 imm size signed = s.except c excAlign 0 (s.effAddr c s1 imm) (s.cal c).pc := by
  unfold State.loadAct
  dsimp only
  rw [if_pos h, idle]
  rfl

theorem State.loadAct_refused {e : MErr} (aligned : s.effAddr c s1 imm % size = 0) (idle : (s.cal c).lds = [])
    (h : s.dataCheck c .rd (s.effAddr c s1 imm) = .error e) :
    s.loadAct c d s1 imm size signed =
      (s.dataNote c e (s.effAddr c s1 imm)).except c excLoad e.kind (s.effAddr c s1 imm) (s.cal c).pc := by
  unfold State.loadAct
  dsimp only
  rw [if_neg (by omega), h, idle]
  rfl

variable {t : Target} (aligned : s.effAddr c s1 imm % size = 0) (h : s.dataCheck c .rd (s.effAddr c s1 imm) = .ok t)
include aligned h

theorem State.loadAct_elsewhere (device : isMemory t = false) (idle : (s.cal c).lds = []) :
    s.loadAct c d s1 imm size signed =
      if (s.cal c).sb = [] then s.loadAsk s c d s1 imm size signed false .wait else s := by
  unfold State.loadAct
  dsimp only
  rw [if_neg (by omega), h, idle]
  cases t with
  | mem | rom => cases device
  | cfg | host | void => cases (s.cal c).sb <;> rfl

theorem State.loadAct_memory (memory : isMemory t = true) :
    s.loadAct c d s1 imm size signed =
      match (s.cal c).forward (s.effAddr c s1 imm) size with
      | .wait => s
      | .bytes bs => s.loadGiven c d s1 imm size signed bs
      | .none =>
        if s.cached c (s.effAddr c s1 imm) then
          match (s.cal c).line (s.effAddr c s1 imm) with
          | some l =>
            if s.parityAt c (s.effAddr c s1 imm) then
              s.loadAsk (s.lineParity c (s.effAddr c s1 imm)) c d s1 imm size signed true .wait
            else s.loadGiven c d s1 imm size signed ((l.drop (s.effAddr c s1 imm % 64)).take size)
          | none => s.loadAsk s c d s1 imm size signed true .wait
        else s.loadAsk s c d s1 imm size signed false .wait := by
  unfold State.loadAct
  dsimp only
  rw [if_neg (by omega), h]
  cases t with
  | mem | rom => rfl
  | cfg | host | void => cases memory

variable (memory : isMemory t = true)
include memory

theorem State.loadAct_forwarded {bs : List Byte} (f : (s.cal c).forward (s.effAddr c s1 imm) size = .bytes bs) :
    s.loadAct c d s1 imm size signed = s.loadGiven c d s1 imm size signed bs := by
  rw [s.loadAct_memory aligned h memory, f]

theorem State.loadAct_waits (f : (s.cal c).forward (s.effAddr c s1 imm) size = .wait) :
    s.loadAct c d s1 imm size signed = s := by
  rw [s.loadAct_memory aligned h memory, f]

variable (f : (s.cal c).forward (s.effAddr c s1 imm) size = .none)
include f

theorem State.loadAct_uncached (un : s.cached c (s.effAddr c s1 imm) = false) :
    s.loadAct c d s1 imm size signed = s.loadAsk s c d s1 imm size signed false .wait := by
  rw [s.loadAct_memory aligned h memory, f]
  simp [un]

variable (cached : s.cached c (s.effAddr c s1 imm) = true)
include cached

theorem State.loadAct_miss (l : (s.cal c).line (s.effAddr c s1 imm) = none) :
    s.loadAct c d s1 imm size signed = s.loadAsk s c d s1 imm size signed true .wait := by
  rw [s.loadAct_memory aligned h memory, f]
  simp [cached, l]

theorem State.loadAct_hit {l : List Byte} (line : (s.cal c).line (s.effAddr c s1 imm) = some l)
    (sound : s.parityAt c (s.effAddr c s1 imm) = false) :
    s.loadAct c d s1 imm size signed = s.loadGiven c d s1 imm size signed ((l.drop (s.effAddr c s1 imm % 64)).take size) := by
  rw [s.loadAct_memory aligned h memory, f]
  simp [cached, line, sound]

theorem State.loadAct_parity {l : List Byte} (line : (s.cal c).line (s.effAddr c s1 imm) = some l)
    (parity : s.parityAt c (s.effAddr c s1 imm) = true) :
    s.loadAct c d s1 imm size signed =
      s.loadAsk (s.lineParity c (s.effAddr c s1 imm)) c d s1 imm size signed true .wait := by
  rw [s.loadAct_memory aligned h memory, f]
  simp [cached, line, parity]

end

theorem State.lineParity_time (s : State) (c a : Nat) : (s.lineParity c a).time = s.time :=
  (time_of_still (State.cachePar_still _ c)).trans rfl

/-- Settles O7: the access of a load, case by case. -/
theorem loadsReturnTheirBytes : Obligations.LoadsReturnTheirBytes := by
  refine ⟨fun i s c d s1 imm size signed form acts => ?_, fun i s c d s1 imm size signed t form => ?_⟩
  · obtain ⟨word, run⟩ := exec_load form s
    rw [State.loadIns_acts acts] at run
    have idle := acts.idle
    have given : ∀ bs, s.loadGiven c d s1 imm size signed bs = s.loadDone c d size signed bs := fun bs => by
      rw [State.loadGiven, idle]; rfl
    refine ⟨fun off => ?_, fun aligned => ⟨fun e refused => ?_, fun t ok => ⟨fun memory => ⟨fun bs f => ?_, fun f => ?_,
      fun f => ⟨fun un => ?_, fun cached miss => ?_, fun cached parity hit => ?_, fun cached sound l hit => ?_⟩⟩,
      fun device => ⟨fun empty => ?_, fun full => ?_⟩⟩⟩⟩
    · rw [run, State.loadAct_misaligned off idle]; rfl
    · rw [run, State.loadAct_refused aligned idle refused]; rfl
    · rw [State.loadAct_forwarded aligned ok memory f, given] at run
      exact ⟨_, run, s.loadDone_gives ..⟩
    · rw [run, State.loadAct_waits aligned ok memory f]
    · rw [State.loadAct_uncached aligned ok memory f un] at run
      exact joins_of_issue run
    · rw [State.loadAct_miss aligned ok memory f cached miss] at run
      exact joins_of_issue run
    · obtain ⟨l, line⟩ := hit
      rw [State.loadAct_parity aligned ok memory f cached line parity, State.loadAsk, State.lineParity_time] at run
      exact joins_of_issue run
    · rw [State.loadAct_hit aligned ok memory f cached hit sound, given] at run
      exact ⟨_, run, s.loadDone_gives ..⟩
    · rw [State.loadAct_elsewhere aligned ok device idle, if_pos empty] at run
      exact joins_of_issue run
    · rw [run, State.loadAct_elsewhere aligned ok device idle, if_neg full]
  · intro x a runs behind loads tags fetched shadow free aligned ok memory
    obtain ⟨word, run⟩ := exec_load form s
    rw [State.loadIns_behind runs behind loads tags fetched shadow free] at run
    have given : ∀ bs, s.loadGiven c d s1 imm size signed bs = s.loadAsk s c d s1 imm size signed false (.bytes bs) :=
      fun bs => if_neg (by simpa using behind)
    refine ⟨fun bs f => ?_, fun f => ?_, fun f un => ?_, fun f cached miss => ?_, fun f cached sound l hit => ?_⟩
    · rw [State.loadAct_forwarded aligned ok memory f, given] at run
      exact joins_of_issue run
    · rw [run, State.loadAct_waits aligned ok memory f]
    · rw [State.loadAct_uncached aligned ok memory f un] at run
      exact joins_of_issue run
    · rw [State.loadAct_miss aligned ok memory f cached miss] at run
      exact joins_of_issue run
    · rw [State.loadAct_hit aligned ok memory f cached hit sound, given] at run
      exact joins_of_issue run

/-! ### Stores -/

theorem exec_store {i : Instr} {c : Nat} {d s1 : BitVec 5} {imm : BitVec 16} {size : Nat}
    (form : storeForm i = some (c, d, s1, imm, size)) (s : State) :
    ∃ word, exec i s = .next (s.storeIns c word d s1 imm size) := by
  unfold storeForm at form
  split at form <;> cases form
  all_goals exact ⟨_, rfl⟩

/-- A caller is changed, but not its registers, program counter and shadow, and the instruction retires. -/
theorem State.setCal_moved (s : State) (c : Nat) (x : CalSt) (pc : Nat) (shadow : x.shadow = none ↔ (s.cal c).shadow = none)
    (ret : Bool) : Retires s ((s.setCal c x).moved c pc ret) c (x.after x.r pc ret) ret := by
  have g := State.moved_of (State.setCal_elsewhere s c x) rfl (by rwa [State.cal_setCal_same]) pc ret
  rwa [State.cal_setCal_same] at g

/-- Settles O9. -/
theorem storesEnterTheStoreBuffer : Obligations.StoresEnterTheStoreBuffer := by
  intro i s c d s1 imm size form acts x a
  obtain ⟨word, run⟩ := exec_store form s
  rw [State.storeIns, State.instr_acts rfl acts] at run
  dsimp only at run
  rw [show s.effAddr c s1 imm = a from rfl, show s.cal c = x from rfl] at run
  refine ⟨fun off => ?_, fun aligned => ⟨fun e refused => ?_, fun t ok => ⟨fun full => ?_, fun room => ?_⟩⟩⟩
  · rw [run, if_pos off]
  · rw [if_neg (by omega), refused] at run
    exact run
  · rw [if_neg (by omega), ok] at run
    dsimp only at run
    rw [run, if_pos full]
  · rw [if_neg (by omega), ok] at run
    dsimp only at run
    rw [if_neg (by omega), State.next, State.goto, State.cal_setCal_same] at run
    exact ⟨_, run, State.setCal_moved s c { x with sb := x.sb ++ [_] } (x.pc + 4) Iff.rfl true⟩

end Sys2Proof.Machine

/-! ## A response to a load whose word the report of its error repairs (R305, R352, R356, R484) -/

namespace Sys2Proof.Machine

/-- The load of one byte of scratchpad, outstanding under the ordered identifier. -/
def strickenLoad : LoadSt := ⟨0, 1, 0x40000000, 1, false, false, .wait, 0⟩

/-- Frame 0, enabled at the first bytes of the scratchpad, closes on channel 249, on which a safety-class fault fires. The
word that caller 0 loads is uncorrectable and lies in the header that the close writes. -/
def closingOnFault : State :=
  (((Tests.windowed.setReg (rRepFrcfg 0) (BitVec.ofNat 64 (2 ^ 34 + 2 ^ 35 + 249 * 2 ^ 36))).setReg rCueGrpen
    (BitVec.allOnes 64)).setBad 0x40000000 true).setCal 0 { Tests.windowed.cal 0 with lds := [strickenLoad] }

/-- Is caller 0 held after a command? -/
def heldAfter : Host.Outcome State Fault Refusal → Bool
  | .next t => (t.cal 0).hold
  | _ => false

/-- The report of the error closes the frame, whose header makes the word valid: the load gets bytes. -/
theorem strickenLoad_retires : heldAfter (exec (.loadResponse 0 ⟨.ordered, .none⟩) closingOnFault) = false := by
  decide +kernel

/-- A LOAD fault would hold the caller, whose table has no handler. -/
theorem strickenLoad_fault_holds :
    heldAfter (.next (((closingOnFault.memUe 0x40000000).setCal 0 { (closingOnFault.memUe 0x40000000).cal 0 with
      lds := [], pc := strickenLoad.pc }).except 0 excLoad MErr.ecc.kind strickenLoad.addr strickenLoad.pc)) = true := by
  decide +kernel

/-- Refutes O8: a load whose word is uncorrectable need not fault. The report of the error fires channel 249 before the
load's data are taken, and a frame that closes on it writes its header over the word, which is valid then. -/
theorem not_loadResponseCompletesTheLoad : ¬ Obligations.LoadResponseCompletesTheLoad := by
  unfold Obligations.LoadResponseCompletesTheLoad
  rintro ⟨h, -, -⟩
  obtain ⟨fromMemory, -, -, -⟩ := h closingOnFault 0 .ordered .none strickenLoad (by decide +kernel) rfl (by decide) rfl
  obtain ⟨-, stricken⟩ := fromMemory 0x40000000 (by decide +kernel) (by decide +kernel)
  obtain ⟨-, faults⟩ := stricken (by decide +kernel)
  have held := congrArg heldAfter (faults _ rfl)
  rw [strickenLoad_retires] at held
  exact Bool.false_ne_true (held.trans strickenLoad_fault_holds)

end Sys2Proof.Machine

/-! ## Stores leave the store buffer and are answered (R370, R420, R422, R440) -/

namespace Sys2Proof.Machine

/-! ### What a write by a master changes besides memory -/

/-- A write that spoils relays changes those, and takes free values. -/
theorem State.touch_eq (s : State) (a n : Nat) : ∃ r f, s.touch a n = { s with relays := r, free := f } := by
  have spoil : ∀ (l : List (Nat × Relay)) (u : State), (∃ r f, u = { s with relays := r, free := f }) →
      ∃ r f, l.foldl (fun s e =>
        let x := s.relay e.1
        if some e.1 != none && x.inUse && (s.relayAreas e.1).any fun y => spansMeet y.1 y.2 a n then
          { s.setRelay e.1 { x with spoilt := some (s.free, x.visible + x.part) } with free := s.free + 1 }
        else s) u = { s with relays := r, free := f } := by
    intro l
    induction l with
    | nil => exact fun _ h => h
    | cons e l ih =>
      rintro _ ⟨r, f, rfl⟩
      refine ih _ ?_
      dsimp only
      split
      · exact ⟨_, _, rfl⟩
      · exact ⟨_, _, rfl⟩
  unfold State.touch State.touchBut
  split
  · exact ⟨_, _, rfl⟩
  · exact spoil _ _ ⟨_, _, rfl⟩

/-- A store to device memory writes its bytes and leaves the callers, host memory, registers and queues. -/
theorem State.pokeTouch_eq (s : State) (a : Nat) (bs : List Byte) (m n : Nat) :
    ∃ e r f, (s.poke a bs).touch m n =
      { s with mem := Tab.setMany memDefault s.mem a bs, eccBad := e, relays := r, free := f } := by
  obtain ⟨e, poked⟩ := s.poke_eq a bs
  obtain ⟨r, f, touched⟩ := (s.poke a bs).touch_eq m n
  exact ⟨e, r, f, by rw [touched, poked]⟩

/-! ### A store to the host window (R571) -/

/-- What the bytes `bs` from offset `o` of the host window of world `w` leave, once those from number `k` on are written. -/
structure HostWritten (s t : State) (w o : Nat) (bs : List Byte) (k : Nat) : Prop where
  rest : { t with hostMem := s.hostMem } = s
  kept : ∀ h, (∀ i, k ≤ i → i < k + bs.length → h ≠ s.hostAddr w (o + i)) →
    Tab.get hostDefault t.hostMem h = Tab.get hostDefault s.hostMem h
  written : k + bs.length ≤ 2 ^ 64 → ∀ i, i < bs.length →
    Tab.get hostDefault t.hostMem (s.hostAddr w (o + (k + i))) = bs.getD i 0

theorem State.hostAddr_apart (s : State) (w o : Nat) {i j : Nat} (below : j < 2 ^ 64) (h : i < j) :
    s.hostAddr w (o + i) ≠ s.hostAddr w (o + j) := by
  unfold State.hostAddr
  omega

theorem hostWritten_foldl {v : View} {a o : Nat} (bs : List Byte) :
    ∀ (k : Nat) (s : State), (∀ i, k ≤ i → i < k + bs.length → s.target (a + i) = .host (o + i)) →
      HostWritten s (((List.range' k bs.length).zip bs).foldl (fun s x => s.storeByte v (a + x.1) x.2) s) v.obWorld o bs k := by
  induction bs with
  | nil => exact fun k s _ => ⟨rfl, fun _ _ => rfl, fun _ i hi => absurd hi (Nat.not_lt_zero i)⟩
  | cons b bs ih =>
    intro k s host
    simp only [List.length_cons] at host
    have first : s.storeByte v (a + k) b =
        { s with hostMem := Tab.set hostDefault s.hostMem (s.hostAddr v.obWorld (o + k)) b } := by
      unfold State.storeByte
      rw [host k (Nat.le_refl k) (by omega)]
    obtain ⟨rest, kept, written⟩ := ih (k + 1) (s.storeByte v (a + k) b) (by
      rw [first]
      exact fun i h1 h2 => host i (by omega) (by omega))
    rw [first] at rest kept written
    have stored : ∀ t : State, { t with hostMem := Tab.set hostDefault s.hostMem (s.hostAddr v.obWorld (o + k)) b } =
        { s with hostMem := Tab.set hostDefault s.hostMem (s.hostAddr v.obWorld (o + k)) b } →
        { t with hostMem := s.hostMem } = s := fun t h => congrArg (fun u : State => { u with hostMem := s.hostMem }) h
    simp only [List.length_cons, List.range'_succ, List.zip_cons_cons, List.foldl_cons]
    rw [first]
    refine ⟨stored _ rest, fun h apart => ?_, fun bound i hi => ?_⟩
    · rw [kept h fun i h1 h2 => apart i (by omega) (by simp only [List.length_cons]; omega)]
      exact Tab.get_set_other (apart k (Nat.le_refl k) (by simp only [List.length_cons]; omega))
    · simp only [List.length_cons] at bound hi
      cases i with
      | zero =>
        rw [kept _ fun j h1 h2 => State.hostAddr_apart s v.obWorld o (by omega) (by omega)]
        exact Tab.get_set_same
      | succ i =>
        have := written (by omega) i (by omega)
        rw [show o + (k + 1 + i) = o + (k + (i + 1)) by omega] at this
        exact this

theorem State.storeBytes_host {s : State} {v : View} {a o : Nat} {bs : List Byte} (window : s.target a = .host o)
    (host : ∀ i, i < bs.length → s.target (a + i) = .host (o + i)) :
    HostWritten s (s.storeBytes v a bs) v.obWorld o bs 0 := by
  unfold State.storeBytes State.storeIn
  rw [window]
  rw [List.range_eq_range']
  exact hostWritten_foldl bs 0 s fun i _ hi => host i (by omega)

/-! ### STORE_DRAIN and STORE_RESPONSE -/

theorem exec_storeDrain (c : BitVec 3) (s : State) : exec (.storeDrain c) s = .next (s.storeDrain c.toNat) := rfl
theorem exec_storeResponse (c : BitVec 3) (err : Bool) (s : State) :
    exec (.storeResponse c err) s = .next (s.storeResponse c.toNat err) := rfl

theorem MErr.kind_ne_zero (e : MErr) : e.kind ≠ 0 := by
  cases e <;> decide

/-- Store `b` leaves the buffer of caller `c` at `t`, whose other stores are `rest`: its response carries `kind`. -/
def State.drained (t : State) (c : Nat) (b : SbEnt) (rest : List SbEnt) (kind : Nat) : State :=
  t.setCal c { t.cal c with sb := rest, resp := (t.cal c).resp ++ [⟨b.addr, b.bytes.length, b.lvl, kind⟩] }

/-- The caller once store `b` has drained without an error. -/
def CalSt.storeDrained (x : CalSt) (b : SbEnt) (rest : List SbEnt) : CalSt :=
  { x with
    sb := rest
    resp := x.resp ++ [⟨b.addr, b.bytes.length, b.lvl, 0⟩]
    lines := x.lines.map fun l => (l.1, overlay (64 * l.1) b.addr b.bytes l.2) }

theorem State.cal_lineStore_drained (t : State) (c : Nat) (b : SbEnt) (rest : List SbEnt) :
    ((t.drained c b rest 0).lineStore c b.addr b.bytes).cal c = (t.cal c).storeDrained b rest := by
  unfold State.lineStore State.drained
  dsimp only
  rw [State.cal_setCal_same, State.cal_setCal_same]
  rfl

theorem State.cal_lineStore_other (t : State) {c k : Nat} (b : SbEnt) (rest : List SbEnt) (h : k ≠ c) :
    ((t.drained c b rest 0).lineStore c b.addr b.bytes).cal k = t.cal k :=
  (State.cal_setCal_other _ _ h).trans (State.cal_setCal_other _ _ h)

/-- The drain of a store changes its caller, and what the write has changed. -/
theorem State.lineStore_drained_rest (t : State) (c : Nat) (b : SbEnt) (rest : List SbEnt) :
    { (t.drained c b rest 0).lineStore c b.addr b.bytes with cals := t.cals } = t := rfl

section
variable {s : State} {c : Nat} {b : SbEnt} {rest : List SbEnt} (sb : (s.cal c).sb = b :: rest) (outside : b.inShadow = false)
include sb outside

theorem State.storeDrain_refused {p : Nat} {e : MErr} {a : Nat} (target : s.target b.addr = .mem p)
    (up : s.memReady p = true) (o : s.overridden b.addr b.bytes.length = some (e, a)) :
    s.storeDrain c = (s.refuse (s.calAuth c b.lvl) e a).drained c b rest e.kind := by
  unfold State.storeDrain
  simp only [sb, outside, target, up, o, Bool.false_eq_true, Bool.not_true, if_false, if_neg e.kind_ne_zero]
  rfl

theorem State.storeDrain_memory {p : Nat} (target : s.target b.addr = .mem p) (up : s.memReady p = true)
    (o : s.overridden b.addr b.bytes.length = none) (sound : s.partBad p b.bytes.length = none) :
    s.storeDrain c =
      (((s.poke p b.bytes).touch p b.bytes.length).drained c b rest 0).lineStore c b.addr b.bytes := by
  unfold State.storeDrain State.storeMem
  simp only [sb, outside, target, up, o, sound, Bool.false_eq_true, Bool.not_true, if_false, if_true]
  rfl

theorem State.storeDrain_host {o : Nat} (target : s.target b.addr = .host o)
    (up : s.hostUp (s.calView c b.lvl).obWorld = true) :
    s.storeDrain c =
      ((s.storeBytes (s.calView c b.lvl) b.addr b.bytes).drained c b rest 0).lineStore c b.addr b.bytes := by
  unfold State.storeDrain
  simp only [sb, outside, target, up, Bool.false_eq_true, if_false, if_true]
  rfl

end

section
variable {s : State} {c : Nat} {b : RespEnt} {rest : List RespEnt} (resp : (s.cal c).resp = b :: rest)
include resp

theorem State.storeResponse_ok (h : b.kind = 0) :
    s.storeResponse c false = (s.setCal c { s.cal c with resp := rest }).pollOrders c := by
  unfold State.storeResponse
  simp only [resp, h, Bool.not_false, or_true, if_true]

theorem State.storeResponse_failed (err : Bool) (h : b.kind ≠ 0) :
    s.storeResponse c err = ((s.setCal c { s.cal c with resp := rest }).addTrap c
      ⟨causeImp (causeWord excBuserr b.kind 0), BitVec.ofNat 64 b.addr, 0, b.lvl⟩).pollOrders c := by
  unfold State.storeResponse
  simp only [resp, h, ne_eq, not_false_eq_true, true_or, if_true, if_false]

theorem State.storeResponse_host {o : Nat} (h : b.kind = 0) (target : s.target b.addr = .host o) :
    s.storeResponse c true = ((s.setCal c { s.cal c with resp := rest }).addTrap c
      ⟨causeImp (causeWord excBuserr MErr.host.kind 0), BitVec.ofNat 64 b.addr, 0, b.lvl⟩).pollOrders c := by
  have there : (s.setCal c { s.cal c with resp := rest }).target b.addr = .host o := target
  unfold State.storeResponse
  simp only [resp, h, there, ne_eq, not_true_eq_false, Bool.not_true, Bool.false_eq_true, or_self, if_false]
  rfl

end

/-- Settles O10. -/
theorem storesDrainAndAreAnswered : Obligations.StoresDrainAndAreAnswered := by
  refine ⟨fun s c b rest sb outside => ⟨fun p e a target up o => ?_, fun p target up o sound => ?_,
    fun o target host => ?_⟩, fun s c b rest resp => ⟨fun ok => ?_, fun none' => ?_, fun err failed => ?_,
    fun ok o target => ?_⟩⟩
  · rw [exec_storeDrain, State.storeDrain_refused sb outside target up o]
    rfl
  · obtain ⟨e, r, f, write⟩ := s.pokeTouch_eq p b.bytes p b.bytes.length
    refine ⟨_, exec_storeDrain .., ?_, fun k hk => ?_, ?_⟩
    all_goals rw [State.storeDrain_memory sb outside target up o sound, write]
    · exact State.cal_lineStore_drained _ _ b rest
    · exact State.cal_lineStore_other _ b rest hk
    · exact ⟨stored_of_mem rfl, rfl, rfl, rfl⟩
  · intro w up
    obtain ⟨same, kept, written⟩ := State.storeBytes_host (v := s.calView c.toNat b.lvl) target host
    refine ⟨_, (exec_storeDrain ..).trans (congrArg _ (State.storeDrain_host sb outside target up)), ?_⟩
    generalize s.storeBytes (s.calView c.toNat b.lvl) b.addr b.bytes = t at same kept written
    have others : ∀ {α : Type} (g : State → α), (∀ u : State, g { u with hostMem := s.hostMem } = g u) → g t = g s :=
      fun g hg => by rw [← hg, same]
    have rest' := State.lineStore_drained_rest t c.toNat b rest
    have caller := State.cal_lineStore_drained t c.toNat b rest
    have callers := fun k (hk : k ≠ c.toNat) => State.cal_lineStore_other t b rest hk
    generalize (t.drained c.toNat b rest 0).lineStore c.toNat b.addr b.bytes = u at rest' caller callers
    have through : ∀ {α : Type} (g : State → α), (∀ u : State, g { u with cals := t.cals } = g u) → g u = g t :=
      fun g hg => by rw [← hg, rest']
    have host : u.hostMem = t.hostMem := through State.hostMem fun _ => rfl
    refine ⟨?_, fun k hk => ?_, (through State.mem fun _ => rfl).trans (others State.mem fun _ => rfl),
      (through State.eccBad fun _ => rfl).trans (others State.eccBad fun _ => rfl),
      (through State.regs fun _ => rfl).trans (others State.regs fun _ => rfl),
      (through State.queues fun _ => rfl).trans (others State.queues fun _ => rfl), fun h apart => ?_, fun bound i hi => ?_⟩
    · rw [caller, others (fun u => u.cal c.toNat) fun _ => rfl]
      rfl
    · rw [callers k hk, others (fun u => u.cal k) fun _ => rfl]
    · rw [host]
      exact kept h fun i _ hi => apart i (by omega)
    · have := written (by omega) i hi
      rwa [Nat.zero_add, ← host] at this
  · rw [exec_storeResponse, State.storeResponse_ok resp ok]
  · exact State.pollOrders_none _ _ (by rw [State.cal_setCal_same]; exact none')
  · rw [exec_storeResponse, State.storeResponse_failed resp err failed]
  · rw [exec_storeResponse, State.storeResponse_host resp ok target]

end Sys2Proof.Machine

/-! ## Vector accesses move the elements of an ensemble (R406, R410) -/

namespace Sys2Proof.Machine

theorem length_leBytes (n x : Nat) : (leBytes n x).length = n := by
  induction n generalizing x with
  | zero => rfl
  | succ n ih => rw [leBytes, List.length_cons, ih]

/-! ### A write of one part of a span -/

/-- A write of a part of a transfer sets exactly its bytes, and may clear marks. -/
theorem State.pokeIn_eq (s : State) (lo n a : Nat) (bs : List Byte) :
    ∃ e, s.pokeIn lo n a bs = { s with mem := Tab.setMany memDefault s.mem a bs, eccBad := e } := by
  have marks : ∀ (l : List Nat) (u : State), (∃ e, u = { s with mem := Tab.setMany memDefault s.mem a bs, eccBad := e }) →
      ∃ e, l.foldl (fun s c => if covered lo n c && decide (c + (codeUnit c).2 ≤ a + bs.length) then s.setBad c false else s) u =
        { s with mem := Tab.setMany memDefault s.mem a bs, eccBad := e } := by
    intro l
    induction l with
    | nil => exact fun _ h => h
    | cons c l ih =>
      rintro _ ⟨e, rfl⟩
      refine ih _ ?_
      dsimp only
      split
      · exact ⟨_, rfl⟩
      · exact ⟨_, rfl⟩
  unfold State.pokeIn
  dsimp only
  split
  · exact ⟨_, rfl⟩
  · exact marks _ _ ⟨_, rfl⟩

theorem State.storeBytes_memory {s : State} {v : View} {a q : Nat} {bs : List Byte} (target : s.target a = .mem q) :
    ∃ e r f, s.storeBytes v a bs =
      { s with mem := Tab.setMany memDefault s.mem q bs, eccBad := e, relays := r, free := f } := by
  unfold State.storeBytes State.storeIn
  rw [target]
  obtain ⟨e, poked⟩ := s.pokeIn_eq (q + a - a) bs.length q bs
  obtain ⟨r, f, touched⟩ := (s.pokeIn (q + a - a) bs.length q bs).touch_eq q bs.length
  exact ⟨e, r, f, by dsimp only; rw [touched, poked]⟩

/-- The part `p` of the bytes of a span at `a`. -/
def spanPiece (a : Nat) (bs : List Byte) (p : Nat × Nat) : List Byte := (bs.drop (p.1 - a)).take p.2

/-- VST writes one part of its span outside a shadow. -/
def State.vstPart (c lvl a : Nat) (bs : List Byte) (s : State) (p : Nat × Nat) : State :=
  match s.target p.1 with
  | .cfg _ => s
  | _ => (s.storeBytes (s.calView c lvl) p.1 (spanPiece a bs p)).lineStore c p.1 (spanPiece a bs p)

/-- What the parts `ps` of a store of caller `c` to memory leave. -/
structure PartsStored (s t : State) (c a : Nat) (bs : List Byte) (ps : List (Nat × Nat)) : Prop where
  mem : t.mem = ps.foldl (fun m p => Tab.setMany memDefault m p.1 (spanPiece a bs p)) s.mem
  caller : ∃ l, t.cal c = { s.cal c with lines := l }
  callers : ∀ k, k ≠ c → t.cal k = s.cal k
  rest : t.regs = s.regs ∧ t.hostMem = s.hostMem ∧ t.queues = s.queues

theorem vstPart_foldl {c lvl a : Nat} {bs : List Byte} (ps : List (Nat × Nat)) :
    ∀ s : State, (∀ p ∈ ps, s.target p.1 = .mem p.1) → PartsStored s (ps.foldl (State.vstPart c lvl a bs) s) c a bs ps := by
  induction ps with
  | nil => exact fun s _ => ⟨rfl, ⟨_, rfl⟩, fun _ _ => rfl, rfl, rfl, rfl⟩
  | cons p ps ih =>
    intro s memory
    obtain ⟨e, r, f, stored⟩ := s.storeBytes_memory (v := s.calView c lvl) (bs := spanPiece a bs p) (memory p List.mem_cons_self)
    have first : s.vstPart c lvl a bs p = (s.storeBytes (s.calView c lvl) p.1 (spanPiece a bs p)).lineStore c p.1 (spanPiece a bs p) := by
      unfold State.vstPart
      rw [memory p List.mem_cons_self]
    rw [List.foldl_cons, first, stored]
    obtain ⟨mem, ⟨l, caller⟩, callers, regs, host, queues⟩ := ih (({ s with
      mem := Tab.setMany memDefault s.mem p.1 (spanPiece a bs p), eccBad := e, relays := r, free := f } : State).lineStore c p.1
        (spanPiece a bs p)) fun q hq => memory q (List.mem_cons_of_mem _ hq)
    refine ⟨mem, ⟨l, ?_⟩, fun k hk => ?_, regs, host, queues⟩
    · rw [caller, State.lineStore, State.cal_setCal_same]
      rfl
    · rw [callers k hk]
      exact State.cal_setCal_other _ _ hk

/-! ### The parts of a span -/

/-- A part lies in the span, and in one line. -/
theorem lineParts_bounds {a n : Nat} {p : Nat × Nat} (h : p ∈ lineParts a n) : a ≤ p.1 ∧ p.1 < a + n ∧ p.1 + p.2 ≤ a + n := by
  unfold lineParts at h
  split at h
  · cases h
  · simp only [List.mem_map, List.mem_range] at h
    obtain ⟨i, hi, rfl⟩ := h
    dsimp only
    omega

/-- Every byte of a span lies in a part. -/
theorem lineParts_covers {a n i : Nat} (h : i < n) : ∃ p ∈ lineParts a n, p.1 ≤ a + i ∧ a + i < p.1 + p.2 := by
  have apart : n ≠ 0 := by omega
  unfold lineParts
  rw [if_neg apart]
  simp only [List.mem_map, List.mem_range]
  refine ⟨_, ⟨(a + i) / 64 - a / 64, by omega, rfl⟩, ?_⟩
  dsimp only
  omega

theorem get_spanPiece {a i : Nat} {bs : List Byte} {m : Tab Byte} {p : Nat × Nat} (low : a ≤ p.1) (at' : p.1 ≤ a + i)
    (inside : a + i < p.1 + p.2) (h : i < bs.length) :
    Tab.get memDefault (Tab.setMany memDefault m p.1 (spanPiece a bs p)) (a + i) = bs.getD i 0 := by
  rw [Tab.get_setMany, if_pos at', spanPiece]
  rw [List.getElem?_take_of_lt (by omega), List.getElem?_drop]
  rw [show p.1 - a + (a + i - p.1) = i by omega]
  simp [h]

theorem get_spanPiece_apart {a b : Nat} {bs : List Byte} {m : Tab Byte} {p : Nat × Nat} (low : a ≤ p.1)
    (apart : b < p.1 ∨ p.1 + p.2 ≤ b ∨ a + bs.length ≤ b) :
    Tab.get memDefault (Tab.setMany memDefault m p.1 (spanPiece a bs p)) b = Tab.get memDefault m b := by
  rw [Tab.get_setMany]
  split
  · have short : (spanPiece a bs p).length ≤ b - p.1 := by
      simp only [spanPiece, List.length_take, List.length_drop]
      omega
    rw [List.getElem?_eq_none short]
    rfl
  · rfl

/-- The parts of a span store all of its bytes, and no other. -/
theorem stored_of_parts {s t : State} {c a n : Nat} {bs : List Byte} (h : PartsStored s t c a bs (lineParts a n))
    (short : bs.length ≤ n) : Stored s t a bs := by
  have pieces : ∀ (b : Nat) (y : Byte) (ps : List (Nat × Nat)) (m : Tab Byte), (∀ p ∈ ps, a ≤ p.1) →
      (∀ p ∈ ps, p.1 ≤ b → b < p.1 + p.2 → b < a + bs.length → bs.getD (b - a) 0 = y) →
      (Tab.get memDefault m b = y ∨ ∃ p ∈ ps, p.1 ≤ b ∧ b < p.1 + p.2 ∧ b < a + bs.length) →
      Tab.get memDefault (ps.foldl (fun m p => Tab.setMany memDefault m p.1 (spanPiece a bs p)) m) b = y := by
    intro b y ps
    induction ps with
    | nil => exact fun m _ _ h => by simpa using h
    | cons p ps ih =>
      intro m low hits h
      refine ih _ (fun q hq => low q (List.mem_cons_of_mem _ hq)) (fun q hq => hits q (List.mem_cons_of_mem _ hq)) ?_
      by_cases hit : p.1 ≤ b ∧ b < p.1 + p.2 ∧ b < a + bs.length
      · have := low p List.mem_cons_self
        have put := get_spanPiece (i := b - a) (bs := bs) (m := m) this (by omega) (by omega) (by omega)
        rw [show a + (b - a) = b by omega] at put
        exact .inl (put.trans (hits p List.mem_cons_self hit.1 hit.2.1 hit.2.2))
      · rw [get_spanPiece_apart (low p List.mem_cons_self) (by omega)]
        simpa [hit] using h
  have low : ∀ p ∈ lineParts a n, a ≤ p.1 := fun p hp => (lineParts_bounds hp).1
  refine ⟨fun i hi => ?_, fun b hb => ?_⟩
  · unfold State.byte
    rw [h.mem]
    obtain ⟨p, hp, at', inside⟩ := lineParts_covers (a := a) (Nat.lt_of_lt_of_le hi short)
    refine pieces _ _ _ _ low (fun _ _ _ _ _ => by rw [Nat.add_sub_cancel_left]) (.inr ⟨p, hp, at', inside, by omega⟩)
  · unfold State.byte
    rw [h.mem]
    refine pieces _ _ _ _ low (fun p hp at' _ below => absurd (low p hp) (by omega)) (.inl rfl)

/-! ### VLD and VST -/

theorem exec_vld (c : BitVec 3) (d s1 : BitVec 5) (imm : BitVec 16) (s : State) :
    exec (.vld c d s1 imm) s = .next (s.vldIns c.toNat d s1 imm) := rfl
theorem exec_vst (c : BitVec 3) (d s1 : BitVec 5) (imm : BitVec 16) (s : State) :
    exec (.vst c d s1 imm) s = .next (s.vstIns c.toNat d s1 imm) := rfl

/-- What a faulting byte of a vector read records. -/
def State.vldNote (o : State) (c b : Nat) (e : MErr) : State :=
  match e with
  | .ecc => (match o.target b with | .mem p => o.memUe p | _ => o)
  | e => o.dataNote c e b

section
variable {s : State} {c : Nat} {d s1 : BitVec 5} {imm : BitVec 16} {a n : Nat} (aligned : (s.cal c).r.aligned d = true)
  (acts : Acts s c [s1] ((s.cal c).r.group d)) (address : s.effAddr c s1 imm = a)
  (size : (s.cal c).r.vl * (s.cal c).r.vty.w / 8 = n) (ready : s.partsReady a n = true)
include aligned acts address size ready

/-- The bytes of VLD are accessible: the elements go to the ensemble at d once the lines of cached parts are filled. -/
theorem State.vldIns_reads (apart : ∀ b ∈ (s.cal c).sb, b.meets a n = false)
    (sound : (s.spanParity c a n).spanFault c .rd a n = none) :
    s.vldIns c d s1 imm =
      ((((lineParts a n).foldl (fun s p => if s.cached c p.1 then s.fillLine c p.1 else s)
        (((s.spanParity c a n).spanDecode c a n).hostSeen a n)).onRegs c fun r =>
          r.putAll [] (r.putElems (s.cal c).r.vty.w d.toNat ((List.range (s.cal c).r.vl).map fun i =>
            (i, ofLeBytes ((((List.range n).map fun j => (s.spanParity c a n).spanByte c (a + j)).drop
              (i * ((s.cal c).r.vty.w / 8))).take ((s.cal c).r.vty.w / 8)))))).next c) := by
  have free : (((s.cal c).sb.any fun b => b.meets a n) || !s.partsReady a n) = false := by
    rw [ready, Bool.not_true, Bool.or_false, List.any_eq_false]
    exact fun b hb => by simp [apart b hb]
  unfold State.vldIns
  rw [State.instr_acts (by rw [aligned]; rfl) acts]
  dsimp only
  rw [address, size, free, if_neg Bool.false_ne_true, sound]

theorem State.vldIns_faults {b : Nat} {e : MErr} (apart : ∀ b ∈ (s.cal c).sb, b.meets a n = false)
    (fault : (s.spanParity c a n).spanFault c .rd a n = some (b, e)) :
    s.vldIns c d s1 imm = (((s.spanParity c a n).vldNote c b e).hostSeen a n).except c excLoad e.kind b (s.cal c).pc := by
  have free : (((s.cal c).sb.any fun b => b.meets a n) || !s.partsReady a n) = false := by
    rw [ready, Bool.not_true, Bool.or_false, List.any_eq_false]
    exact fun b hb => by simp [apart b hb]
  unfold State.vldIns
  rw [State.instr_acts (by rw [aligned]; rfl) acts]
  dsimp only
  rw [address, size, free, if_neg Bool.false_ne_true, fault]
  cases e <;> rfl

/-- The elements that VST stores. -/
def CalRegs.vstBytes (r : CalRegs) (d : BitVec 5) : List Byte :=
  (List.range r.vl).flatMap fun i => leBytes (r.vty.w / 8) (r.elem r.vty.w d.toNat i)

variable (outside : (s.cal c).shadow = none) (empty : (s.cal c).sb = [])
include empty

theorem State.vstIns_refused {b : Nat} {e : MErr} (fault : s.spanFault c .wr a n = some (b, e)) :
    s.vstIns c d s1 imm = (s.refuse (s.calAuth c (s.cal c).lvl) e b).except c excStore e.kind b (s.cal c).pc := by
  unfold State.vstIns
  rw [State.instr_acts (by rw [aligned]; rfl) acts]
  dsimp only
  rw [address, size, empty, ready, fault]
  rfl

theorem State.vstIns_partial {b q : Nat} (allowed : s.spanFault c .wr a n = none) (part : s.spanPart a n = some b)
    (target : s.target b = .mem q) :
    s.vstIns c d s1 imm = (s.memUe q).except c excStore MErr.ecc.kind b (s.cal c).pc := by
  unfold State.vstIns
  rw [State.instr_acts (by rw [aligned]; rfl) acts]
  dsimp only
  rw [address, size, empty, ready, allowed]
  simp only [List.all_nil, Bool.not_true, Bool.or_false, Bool.false_eq_true, if_false, part, target]

include outside

theorem State.vstIns_writes (allowed : s.spanFault c .wr a n = none) (sound : s.spanPart a n = none) :
    s.vstIns c d s1 imm =
      ((lineParts a n).foldl (State.vstPart c (s.cal c).lvl a ((s.cal c).r.vstBytes d)) (s.spanDecode c a n)).next c := by
  unfold State.vstIns
  rw [State.instr_acts (by rw [aligned]; rfl) acts]
  dsimp only
  rw [address, size, empty, ready, allowed]
  simp only [List.all_nil, Bool.not_true, Bool.or_false, Bool.false_eq_true, if_false, sound, outside]
  rfl

end

theorem length_vstBytes (r : CalRegs) (d : BitVec 5) : (r.vstBytes d).length = r.vl * (r.vty.w / 8) := by
  simp [CalRegs.vstBytes, length_leBytes, Nat.mul_comm]

/-- In memory no part of a span is a decode fault. -/
theorem State.spanDecode_memory {s : State} {c a n : Nat} (memory : ∀ p ∈ lineParts a n, s.target p.1 = .mem p.1) :
    s.spanDecode c a n = s := by
  unfold State.spanDecode
  generalize lineParts a n = ps at memory
  induction ps with
  | nil => rfl
  | cons p ps ih =>
    rw [List.foldl_cons, memory p List.mem_cons_self]
    exact ih fun q hq => memory q (List.mem_cons_of_mem _ hq)

theorem State.onRegs_next (s : State) (c : Nat) (f : CalRegs → CalRegs) :
    (s.onRegs c f).next c = ((s.onRegs c f).moved c ((s.cal c).pc + 4) true).pollTrap c := by
  unfold State.next State.goto State.onRegs
  rw [State.cal_setCal_same]

/-- Settles O11. -/
theorem vectorAccessesMoveTheirElements : Obligations.VectorAccessesMoveTheirElements := by
  refine ⟨fun s c d s1 imm => ?_, fun s c d s1 imm => ?_⟩
  · intro k r w a n aligned acts apart ready o
    refine ⟨fun sound => ?_, fun b e other fault => ?_, fun b p fault target => ?_⟩
    · intro vs t
      have run := State.vldIns_reads (a := a) (n := n) aligned acts rfl rfl ready apart sound
      rw [State.onRegs_next] at run
      exact ⟨_, (exec_vld ..).trans (congrArg _ run), t.onRegs_moved k _ _ true⟩
    · have run := State.vldIns_faults aligned acts rfl rfl ready apart fault
      rw [exec_vld, run]
      cases e with
      | ecc => exact absurd rfl other
      | _ => rfl
    · rw [exec_vld, State.vldIns_faults (a := a) (n := n) aligned acts rfl rfl ready apart fault, State.vldNote,
        show (s.spanParity k a n).target b = .mem p from target]
  · intro k x w a bs n aligned acts outside empty ready
    refine ⟨fun allowed sound memory => ?_, fun b e fault => ?_, fun b q allowed part target => ?_⟩
    · have run := State.vstIns_writes (a := a) (n := n) aligned acts rfl rfl ready outside empty allowed sound
      have parts : ∀ p ∈ lineParts a n, s.target p.1 = .mem p.1 := fun p hp => by
        obtain ⟨low, high, -⟩ := lineParts_bounds hp
        have := memory (p.1 - a) (by omega)
        rwa [show a + (p.1 - a) = p.1 by omega] at this
      rw [State.spanDecode_memory parts] at run
      have written := vstPart_foldl (c := k) (lvl := x.lvl) (a := a) (bs := x.r.vstBytes d) (lineParts a n) s parts
      rw [State.next, State.goto] at run
      generalize (lineParts a n).foldl (State.vstPart k x.lvl a (x.r.vstBytes d)) s = t at run written
      obtain ⟨l, caller⟩ := written.caller
      obtain ⟨regs, host, queues⟩ := written.rest
      have moved := t.moved_retires k (x.pc + 4) true
      rw [show (t.cal k).pc = x.pc by rw [caller]] at run
      refine ⟨_, (exec_vst ..).trans (congrArg _ run), ?_, ⟨l, ?_⟩, fun j hj => ?_, fun p hp => ?_, ?_, ?_⟩
      · have stored : Stored s t a bs := stored_of_parts written (by
          rw [show bs = x.r.vstBytes d from rfl, length_vstBytes]
          exact Nat.mul_div_le_mul_div_assoc ..)
        have same : ∀ b, (t.moved k (x.pc + 4) true).byte b = t.byte b := fun b => by
          unfold State.byte
          rw [moved.memory.1]
        exact ⟨fun i hi => (same _).trans (stored.written i hi), fun b hb => (same _).trans (stored.kept b hb)⟩
      · rw [moved.caller, caller]
        rfl
      · rw [moved.others j hj, written.callers j hj]
      · rw [moved.regs p hp, State.reg, regs]
        rfl
      · exact moved.memory.2.2.trans host
      · exact moved.queues.trans queues
    · rw [exec_vst, State.vstIns_refused aligned acts rfl rfl ready empty fault]
    · rw [exec_vst, State.vstIns_partial aligned acts rfl rfl ready empty allowed part target]

end Sys2Proof.Machine

/-! ## Transfers, windows and the spill engine (R392, R394, R411 to R415) -/

namespace Sys2Proof.Machine

/-! ### An instruction that goes on elsewhere -/

theorem completes_goto {i : Instr} {s : State} {c goal : Nat} (h : exec i s = .next (s.goto c goal)) :
    Completes i s c ((s.cal c).after (s.cal c).r goal true) :=
  ⟨_, h, s.moved_retires c goal true⟩

theorem completes_onRegs {i : Instr} {s : State} {c goal : Nat} {f : CalRegs → CalRegs}
    (h : exec i s = .next ((s.onRegs c f).goto c goal)) : Completes i s c ((s.cal c).after (f (s.cal c).r) goal true) :=
  ⟨_, h, s.onRegs_moved c goal f true⟩

theorem completes_setCal {i : Instr} {s : State} {c : Nat} {x : CalSt} (shadow : x.shadow = none ↔ (s.cal c).shadow = none)
    (h : exec i s = .next ((s.setCal c x).next c)) : Completes i s c (x.after x.r (x.pc + 4) true) := by
  rw [State.next, State.goto, State.cal_setCal_same] at h
  exact ⟨_, h, s.setCal_moved c x (x.pc + 4) shadow true⟩

/-! ### Branches and jumps -/

theorem State.branch_acts {s : State} {c major : Nat} {s1 s2 : BitVec 5} {off : BitVec 16} {holds : Word → Word → Bool}
    (acts : Acts s c [s1, s2] []) :
    s.branch c major s1 s2 off holds = s.goto c (branchGoal s c (holds (s.gpr c s1) (s.gpr c s2)) off) := by
  rw [State.branch, State.instr_acts rfl acts, branchGoal]
  split <;> rfl

theorem exec_transfer {i : Instr} {s : State} {c : Nat} {named : List (BitVec 5)} {goal : Nat}
    (form : transferGoal s i = some (c, named, goal)) (acts : Acts s c named []) : exec i s = .next (s.goto c goal) := by
  have branch : ∀ {major : Nat} {s1 s2 : BitVec 5} {off : BitVec 16} {holds : Word → Word → Bool} {taken : Bool},
      Acts s c [s1, s2] [] → holds (s.gpr c s1) (s.gpr c s2) = taken →
      Host.Outcome.next (s.branch c major s1 s2 off holds) = (.next (s.goto c (branchGoal s c taken off)) :
        Host.Outcome State Fault Refusal) := fun acts h => by rw [State.branch_acts acts, h]
  unfold transferGoal at form
  split at form <;> cases form
  case h_1 => exact branch acts (Bool.eq_iff_iff.mpr (by simp))
  case h_2 => exact branch acts (Bool.eq_iff_iff.mpr (by simp))
  case h_3 => exact branch acts (Bool.eq_iff_iff.mpr (by simp [BitVec.slt]))
  case h_4 => exact branch acts (Bool.eq_iff_iff.mpr (by simp [BitVec.slt]))
  case h_5 => exact branch acts (Bool.eq_iff_iff.mpr (by simp [BitVec.ult]))
  case h_6 => exact branch acts (Bool.eq_iff_iff.mpr (by simp [BitVec.ult]))
  case h_7 => exact congrArg Host.Outcome.next (State.instr_acts rfl acts)
  case h_8 => exact congrArg Host.Outcome.next (State.instr_acts rfl acts)

/-- Settles O12. -/
theorem transfersGoToTheirTargets : Obligations.TransfersGoToTheirTargets :=
  fun _ _ _ _ _ form acts => completes_goto (exec_transfer form acts)

/-! ### Calls and RET -/

theorem exec_call {i : Instr} {s : State} {c : Nat} {named : List (BitVec 5)} {goal : Nat}
    (form : callGoal s i = some (c, named, goal)) (acts : Acts s c named []) : exec i s = .next (s.callTo c goal) := by
  unfold callGoal at form
  split at form <;> cases form
  all_goals exact congrArg Host.Outcome.next (State.instr_acts rfl acts)

theorem exec_ret (c : BitVec 3) (d s1 s2 : BitVec 5) {s : State} (acts : Acts s c.toNat [23] []) :
    exec (.ret c d s1 s2) s = .next (s.retTo c.toNat) :=
  congrArg Host.Outcome.next (State.instr_acts rfl acts)

/-- The registers once a call has moved the window, with the return address in l7. -/
def CalRegs.called (r : CalRegs) (back : Nat) : CalRegs :=
  { r with wp := (r.wp + 1) % 16, resident := r.resident + 1 }.put (gprKey ((r.wp + 1) % 16) 23)
    (BitVec.ofNat 64 (back % 2 ^ 48))

theorem State.callTo_free {s : State} {c goal : Nat}
    (free : (s.cal c).clash [gprKey (((s.cal c).r.wp + 1) % 16) 23] [] = false) :
    s.callTo c goal = s.room s c (s.cal c).pc ((s.onRegs c fun r => r.called ((s.cal c).pc + 4)).goto c goal) := by
  have regs : (s.onRegs c fun r => { r with wp := ((s.cal c).r.wp + 1) % 16, resident := r.resident + 1 }.put
      (gprKey (((s.cal c).r.wp + 1) % 16) 23) (BitVec.ofNat 64 (((s.cal c).pc + 4) % 2 ^ 48))) =
      s.onRegs c fun r => r.called ((s.cal c).pc + 4) := rfl
  unfold State.callTo
  dsimp only
  rw [free, if_neg Bool.false_ne_true, regs]

/-- Settles O13. -/
theorem callsAndReturnsMoveTheWindow : Obligations.CallsAndReturnsMoveTheWindow := by
  refine ⟨fun i s c named goal form acts => ?_, fun s c d s1 s2 acts => ?_⟩
  · intro x l7 free
    have run := exec_call form acts
    rw [State.callTo_free free, State.room] at run
    refine ⟨fun room => ?_, fun full => ⟨fun sound => ?_, fun fails => ?_⟩⟩
    · rw [if_pos room] at run
      refine ⟨_, completes_onRegs run, rfl, rfl, ?_, fun k hk => ?_, rfl, rfl, rfl, rfl⟩
      · exact (CalRegs.at_put ..).trans (if_pos rfl)
      · exact (CalRegs.at_put ..).trans (if_neg hk)
    · rw [run, if_neg (Nat.not_lt.mpr (Nat.le_of_eq full)), sound, if_neg Bool.false_ne_true]
    · rw [run, if_neg (Nat.not_lt.mpr (Nat.le_of_eq full)), if_pos fails]
  · intro x
    have run := exec_ret c d s1 s2 acts
    rw [State.retTo, State.resident] at run
    refine ⟨fun resident => ?_, fun empty => ⟨fun stacked => ?_, fun bare => ?_⟩⟩
    · rw [if_pos resident] at run
      exact completes_onRegs run
    · rw [run, if_neg (Nat.not_le.mpr (Nat.lt_one_iff.mpr empty)), stacked]
      rfl
    · rw [run, if_neg (Nat.not_le.mpr (Nat.lt_one_iff.mpr empty)), bare]
      rfl

/-! ### SPILL -/

theorem exec_spill (c : BitVec 3) (s : State) : exec (.spill c) s = .next (s.spill c.toNat) := rfl
theorem exec_refill (c : BitVec 3) (s : State) : exec (.refill c) s = .next (s.refill c.toNat) := rfl

section
variable {s : State} {c : Nat} (due : s.spillDue c = true) (free : (s.cal c).clash (frameKeys (s.cal c).r.oldest) [] = false)
  (ready : s.memReady (s.spillAddr c) = true) (outside : (s.cal c).shadow = none)
include due free ready outside

theorem State.spill_unwritten (fails : s.spillFaults c = true) (refused : s.spillRefused c = none) : s.spill c = s := by
  unfold State.spill
  simp only [due, free, ready, outside, fails, refused, Bool.not_true, Bool.or_self, Bool.false_eq_true, if_false, if_true]

theorem State.spill_refused {e : MErr} (fails : s.spillFaults c = true) (refused : s.spillRefused c = some e) :
    s.spill c = s.refuse (s.calAuth c 3) e (s.spillAddr c) := by
  unfold State.spill
  simp only [due, free, ready, outside, fails, refused, Bool.not_true, Bool.or_self, Bool.false_eq_true, if_false, if_true]

/-- The caller once its oldest resident frame is spilled to `a`. -/
def CalSt.spilled (x : CalSt) (a : Nat) : CalSt :=
  { x with
    r := { x.r with resident := x.r.resident - 1 }
    wsp := BitVec.ofNat 64 a
    depth := (x.depth + 1) % 2 ^ 32
    want := 0 }

theorem State.spill_moves (sound : s.spillFaults c = false) :
    s.spill c =
      ((((s.poke (s.spillAddr c) ((s.cal c).r.frame (s.cal c).r.oldest)).touch (s.spillAddr c) 128).setCal c
        ((s.cal c).spilled (s.spillAddr c))).satRf (rCalSpills c) fCalSpillsSpills 1).pollEntry c := by
  obtain ⟨e, r, f, stored⟩ :=
    s.pokeTouch_eq (s.spillAddr c) ((s.cal c).r.frame (s.cal c).r.oldest) (s.spillAddr c) 128
  have same : ((s.poke (s.spillAddr c) ((s.cal c).r.frame (s.cal c).r.oldest)).touch (s.spillAddr c) 128).cal c = s.cal c := by
    rw [stored]; rfl
  unfold State.spill
  simp only [due, free, ready, outside, sound, Bool.not_true, Bool.or_self, Bool.false_eq_true, if_false, same]
  rw [CalSt.spilled, outside]
  rfl

end

/-! ### REFILL -/

theorem Tab.getMany_eq {α : Type} (d : Nat → α) (t : Tab α) (k n : Nat) :
    Tab.getMany d t k n = (List.range n).map fun i => t.get d (k + i) := by
  induction n generalizing k with
  | zero => rfl
  | succ n ih =>
    rw [Tab.getMany, ih, List.range_succ_eq_map, List.map_cons, List.map_map]
    simp [Function.comp_def, Nat.add_assoc, Nat.add_comm 1]

theorem Tab.getMany_part {α : Type} (d : Nat → α) (t : Tab α) {k n i m : Nat} (h : i + m ≤ n) :
    ((Tab.getMany d t k n).drop i).take m = Tab.getMany d t (k + i) m := by
  simp only [Tab.getMany_eq]
  apply List.ext_getElem
  · simp; omega
  · intro j _ _
    simp [Nat.add_assoc]

theorem State.target_mem_lt {s : State} {a q : Nat} (h : s.target a = .mem q) : a < 2 ^ 48 := by
  by_contra high
  have scp : inScp a = false := by simp [inScp]; omega
  have hbm : inHbm a = false := by simp [inHbm]; omega
  unfold State.target cfgBase hostBase at h
  rw [if_neg (by omega), scp, hbm, if_neg (by decide), if_neg (by omega), if_neg (by omega)] at h
  cases h

/-- Bytes of memory, none uncorrectable or fenced, are read without windows. -/
theorem State.load_memory {s : State} {p : Paths} {a : Nat} :
    ∀ {n : Nat}, (∀ i, i < n → s.target (a + i) = .mem (a + i) ∧ s.bad (a + i) = false ∧ s.fenced (a + i) = false) →
      s.load p .free .rd a n = .ok (s.peek a n) := by
  intro n
  induction n generalizing a with
  | zero => exact fun _ => rfl
  | succ n ih =>
    intro h
    obtain ⟨target, sound, open'⟩ := h 0 (by omega)
    rw [Nat.add_zero] at target sound open'
    have byte : s.loadByte p .free .rd a = .ok (s.byte a) := by
      have low : ¬ a ≥ 2 ^ 48 := Nat.not_le.mpr (State.target_mem_lt target)
      unfold State.loadByte State.check
      simp only [if_neg low, target, sound, open', Paths.reach, bind, Except.bind, Bool.false_and,
        Bool.false_eq_true, if_false]
    have rest := ih (a := a + 1) fun i hi => by
      have := h (i + 1) (by omega)
      rwa [show a + (i + 1) = a + 1 + i by omega] at this
    rw [State.load, byte]
    simp only [bind, Except.bind, rest]
    rfl

theorem State.ownRead_memory {s : State} {c a n : Nat} (some' : 0 < n)
    (h : ∀ i, i < n → s.target (a + i) = .mem (a + i) ∧ s.bad (a + i) = false ∧ s.fenced (a + i) = false) :
    s.ownRead c a n = (s, .ok (s.peek a n)) := by
  have first := (h 0 some').1
  rw [Nat.add_zero] at first
  unfold State.ownRead State.readMem
  rw [first, State.load_memory h]

/-- Frame `p` of the registers, written with the words `ws`. -/
theorem CalRegs.at_putFrame (r : CalRegs) (p : Nat) (f : Nat → Word) :
    (∀ i, i < 16 → (r.putFrame p ((List.range 16).map f)).at (8 + 16 * p + i) = f i) ∧
    (∀ k, k ∉ frameKeys p → (r.putFrame p ((List.range 16).map f)).at k = r.at k) := by
  have written : r.putFrame p ((List.range 16).map f) = (List.range 16).foldl (fun r i => r.put (8 + 16 * p + i) (f i)) r := by
    rw [CalRegs.putFrame, frameKeys, List.zip_map', List.foldl_map]
  rw [written]
  refine ⟨fun i hi => ?_, fun k hk => ?_⟩
  · refine read_foldl_write (read := fun r : CalRegs => r.at (8 + 16 * p + i)) (hit := fun j => j = i) _ (fun r j _ e => ?_)
      (fun r j e => ?_) (.inr ⟨i, List.mem_range.mpr hi, rfl⟩)
    · rw [CalRegs.at_put, if_pos (by omega), e]
    · rw [CalRegs.at_put, if_neg (by omega)]
  · refine read_foldl_write (read := fun r : CalRegs => r.at k) (hit := fun j => 8 + 16 * p + j = k) _ (fun r j hj e => ?_)
      (fun r j e => ?_) (.inl rfl)
    · exact absurd (List.mem_map.mpr ⟨j, hj, e⟩) hk
    · rw [CalRegs.at_put, if_neg (fun h => e h.symm)]

section
variable {s : State} {c : Nat} (due : s.fillDue c = true) (free : (s.cal c).clash (frameKeys (s.cal c).r.below) [] = false)
  (ready : s.memReady (s.cal c).wsp.toNat = true) (outside : (s.cal c).shadow = none)
include due free ready outside

theorem State.refill_faults {t : State} {e : MErr} (read : s.ownRead c (s.cal c).wsp.toNat 128 = (t, .error e)) :
    s.refill c = if (s.cal c).want = 2 then
      (t.setCal c { t.cal c with want := 0 }).except c excLoad e.kind (s.cal c).wsp.toNat (s.cal c).pc else t := by
  unfold State.refill
  simp only [due, free, ready, outside, read, Bool.not_true, Bool.or_self, Bool.false_eq_true, if_false]

omit due free ready outside in
theorem CalRegs.at_resident (r : CalRegs) (n k : Nat) : ({ r with resident := n } : CalRegs).at k = r.at k := rfl

/-- The caller once a frame of bytes `bs` has come back from `a`. -/
def CalSt.refilled (x : CalSt) (a : Nat) (bs : List Byte) : CalSt :=
  { x with
    r := { x.r.putFrame x.r.below (wordsOf bs 16) with resident := x.r.resident + 1 }
    wsp := BitVec.ofNat 64 ((a + 128) % 2 ^ 48)
    depth := (x.depth + 2 ^ 32 - 1) % 2 ^ 32
    want := 0 }

theorem State.refill_moves {t : State} {bs : List Byte} (read : s.ownRead c (s.cal c).wsp.toNat 128 = (t, .ok bs))
    (same : t.cal c = s.cal c) :
    s.refill c = (t.setCal c ((s.cal c).refilled (s.cal c).wsp.toNat bs)).satRf (rCalSpills c) fCalSpillsRefills 1 := by
  unfold State.refill
  simp only [due, free, ready, outside, read, Bool.not_true, Bool.or_self, Bool.false_eq_true, if_false, same]
  rw [CalSt.refilled, outside]
  rfl

end

theorem rf_satRf_same (s : State) (a : Nat) {f : FP} (h : f.lsb + f.w ≤ 64) :
    (s.satRf a f 1).rf a f = min (s.rf a f + 1) (2 ^ f.w - 1) := by
  rw [State.satRf, State.rf_setRf_same _ _ _ h, satAdd]
  exact Nat.mod_eq_of_lt (Nat.lt_of_le_of_lt (Nat.min_le_right ..) (Nat.sub_lt (Nat.two_pow_pos _) (by decide)))

/-- Settles O14. -/
theorem spillAndRefillMoveFrames : Obligations.SpillAndRefillMoveFrames := by
  refine ⟨fun s c => ?_, fun s c => ?_, fun s t c e => ?_, fun s c => ?_⟩
  · intro x a due sound free ready outside
    have run := State.spill_moves due free ready outside sound
    obtain ⟨e, r, f, stored⟩ := s.pokeTouch_eq a (x.r.frame x.r.oldest) a 128
    rw [stored] at run
    refine ⟨_, (exec_spill ..).trans (congrArg _ run), stored_of_mem rfl, State.cal_setCal_same .., fun k hk => ?_, rfl, ?_⟩
    · exact State.cal_setCal_other _ _ hk
    · exact rf_satRf_same _ _ (by decide)
  · intro x a due fails free ready outside
    exact ⟨fun unrefused => congrArg Host.Outcome.next (State.spill_unwritten due free ready outside fails unrefused),
      fun e refused => congrArg Host.Outcome.next (State.spill_refused due free ready outside fails refused)⟩
  · intro x due free ready outside read
    have run := State.refill_faults due free ready outside read
    refine ⟨fun idle => ?_, fun waits => ?_⟩
    · rw [exec_refill, run, if_neg idle]
    · rw [exec_refill, run, if_pos waits]
  · intro x a due free ready outside memory
    have run := State.refill_moves due free ready outside (State.ownRead_memory (by decide) memory) rfl
    have words : wordsOf (s.peek a 128) 16 = (List.range 16).map fun i => BitVec.ofNat 64 (ofLeBytes (s.peek (a + 8 * i) 8)) :=
      List.map_congr_left fun i hi => by
        rw [State.peek, Tab.getMany_part _ _ (by have := List.mem_range.mp hi; omega)]
        rfl
    have caller : (((s.setCal c.toNat (x.refilled a (s.peek a 128))).satRf (rCalSpills c.toNat) fCalSpillsRefills 1).cal
        c.toNat) = x.refilled a (s.peek a 128) := State.cal_setCal_same ..
    obtain ⟨put, kept⟩ := x.r.at_putFrame x.r.below fun i => BitVec.ofNat 64 (ofLeBytes (s.peek (a + 8 * i) 8))
    rw [← words] at put kept
    refine ⟨_, (exec_refill ..).trans (congrArg _ run), ?_⟩
    rw [caller]
    refine ⟨fun i hi => (CalRegs.at_resident ..).trans (put i hi), fun k hk => (CalRegs.at_resident ..).trans (kept k hk),
      ?_, ?_, ?_, ?_, fun k hk => State.cal_setCal_other _ _ hk, rfl, rfl⟩
    all_goals rw [CalSt.refilled]

end Sys2Proof.Machine

/-! ## Synchronising instructions, ORDER and CRR (R423, R425, R426, R428) -/

namespace Sys2Proof.Machine

/-! ### Synchronising instructions -/

theorem CalSt.storesDone_iff (x : CalSt) : x.storesDone = true ↔ x.resp = [] ∧ ∀ b ∈ x.sb, b.inShadow = true := by
  unfold CalSt.storesDone
  simp

theorem CalSt.stores_outstanding {x : CalSt} (h : x.resp ≠ [] ∨ ∃ b ∈ x.sb, b.inShadow = false) : x.storesDone = false := by
  rw [← Bool.not_eq_true, CalSt.storesDone_iff]
  rintro ⟨resp, stores⟩
  rcases h with h | ⟨b, hb, h⟩
  · exact h resp
  · rw [stores b hb] at h
    cases h

section
variable {s : State} {c word : Nat} (acts : Acts s c [] [])
include acts

theorem State.barrierIns_acts :
    s.barrierIns c word = if ((s.cal c).longs.all fun l => l.inShadow) && !s.trapDue c then s.next c else s :=
  State.instr_acts rfl acts

theorem State.fenceIns_acts : s.fenceIns c word = if (s.cal c).storesDone then s.next c else s :=
  State.instr_acts rfl acts

theorem State.cinvAll_acts (code : Bool) :
    s.cinvAll c word code = if code && !(s.cal c).storesDone then s else
      (s.setCal c (if code then { s.cal c with ilines := [] } else { s.cal c with lines := [] })).next c :=
  State.instr_acts rfl acts

theorem State.wflushIns_acts : s.wflushIns c word = s.flushed c (s.next c) := State.instr_acts rfl acts

theorem State.waitIns_outside (outside : (s.cal c).shadow = none) :
    s.waitIns c word = (s.setCal c { s.cal c with asleep := true }).next c := by
  unfold State.waitIns
  rw [State.instr_acts rfl acts]
  simp only [outside]

theorem State.waitIns_inside {h : ShadowSt} (inside : (s.cal c).shadow = some h) :
    s.waitIns c word = (s.setCal c { s.cal c with shadow := some { h with wait := true } }).next c := by
  unfold State.waitIns
  rw [State.instr_acts rfl acts]
  simp only [inside]

end

/-- The caller without the line of `a` in its instruction cache, or in its data cache. -/
def CalSt.dropLine (x : CalSt) (a : Nat) (code : Bool) : CalSt :=
  match code with
  | true => { x with ilines := x.ilines.filter fun l => l.1 != a / 64 }
  | false => { x with lines := x.lines.filter fun l => l.1 != a / 64 }

section
variable {s : State} {c word : Nat} {s1 : BitVec 5} (acts : Acts s c [s1] []) (code : Bool)
include acts

theorem State.cinvLine_waits (out : (s.cal c).storesDone = false) : s.cinvLine c word s1 true = s := by
  unfold State.cinvLine
  rw [State.instr_acts rfl acts]
  simp only [out, Bool.not_false, Bool.and_self, if_true]

theorem State.cinvLine_drops {t : Target} (done : code = true → (s.cal c).storesDone = true)
    (ok : s.dataCheck c .rd (s.gpr c s1).toNat = .ok t) :
    s.cinvLine c word s1 code = (s.setCal c ((s.cal c).dropLine (s.gpr c s1).toNat code)).next c := by
  have free : (code && !(s.cal c).storesDone) = false := by
    cases code with
    | false => rfl
    | true => rw [done rfl]; rfl
  unfold State.cinvLine
  rw [State.instr_acts rfl acts]
  simp only [free, ok, Bool.false_eq_true, if_false]
  cases code <;> rfl

theorem State.cinvLine_refused {e : MErr} (done : code = true → (s.cal c).storesDone = true)
    (refused : s.dataCheck c .rd (s.gpr c s1).toNat = .error e) :
    s.cinvLine c word s1 code =
      (s.refuse (s.calAuth c (s.cal c).lvl) e (s.gpr c s1).toNat).except c excLoad e.kind (s.gpr c s1).toNat (s.cal c).pc := by
  have free : (code && !(s.cal c).storesDone) = false := by
    cases code with
    | false => rfl
    | true => rw [done rfl]; rfl
  unfold State.cinvLine
  rw [State.instr_acts rfl acts]
  simp only [free, refused, Bool.false_eq_true, if_false]
  rfl

end

/-- Settles O15. -/
theorem synchronisingInstructionsWaitAndComplete : Obligations.SynchronisingInstructionsWaitAndComplete := by
  intro s c d s1 s2 k x on
  refine ⟨fun acts => ⟨?syncF, ?barrier, ?barrierWaits, ?fence, ?fenceWaits, ?cinvDa, ?flushed, ?flushes, ?flushFails, ?sleeps,
    ?sleepsLater⟩, fun acts => ⟨?cinvIWaits, fun t ok => ⟨?cinvI, ?cinvD⟩, fun e refused => ⟨?dRefused, ?iRefused⟩⟩⟩
  case syncF => exact completes_goto (goal := x.pc + 4) (congrArg Host.Outcome.next (State.instr_acts rfl acts))
  case barrier =>
    intro longs trap
    refine completes_goto (goal := x.pc + 4) (congrArg Host.Outcome.next ((State.barrierIns_acts acts).trans (if_pos ?_)))
    rw [trap, Bool.not_false, Bool.and_true, List.all_eq_true]
    exact longs
  case barrierWaits =>
    intro waits
    refine congrArg Host.Outcome.next ((State.barrierIns_acts acts).trans (if_neg ?_))
    rw [Bool.and_eq_true, List.all_eq_true, Bool.not_eq_true']
    rintro ⟨longs, trap⟩
    rcases waits with ⟨l, hl, inside⟩ | due
    · rw [longs l hl] at inside
      cases inside
    · exact Bool.false_ne_true (trap.symm.trans due)
  case fence =>
    intro resp stores
    have done : x.storesDone = true := x.storesDone_iff.mpr ⟨resp, stores⟩
    refine ⟨completes_goto (goal := x.pc + 4) (congrArg Host.Outcome.next ((State.fenceIns_acts acts).trans (if_pos done))),
      completes_setCal (x := { x with ilines := [] }) Iff.rfl
        (congrArg Host.Outcome.next ((State.cinvAll_acts acts true).trans (if_neg ?_)))⟩
    rw [Bool.true_and, show (s.cal k).storesDone = true from done]
    decide
  case fenceWaits =>
    intro out
    have undone : x.storesDone = false := CalSt.stores_outstanding out
    refine ⟨congrArg Host.Outcome.next ((State.fenceIns_acts acts).trans (if_neg ?_)),
      congrArg Host.Outcome.next ((State.cinvAll_acts acts true).trans (if_pos ?_))⟩
    · exact fun done => Bool.false_ne_true (undone.symm.trans done)
    · rw [Bool.true_and, show (s.cal k).storesDone = false from undone]
      rfl
  case cinvDa =>
    exact completes_setCal (x := { x with lines := [] }) Iff.rfl
      (congrArg Host.Outcome.next ((State.cinvAll_acts acts false).trans (if_neg Bool.false_ne_true)))
  case flushed =>
    intro empty
    exact completes_goto (goal := x.pc + 4)
      (congrArg Host.Outcome.next ((State.wflushIns_acts acts).trans (if_pos empty)))
  case flushes =>
    intro some' sound
    refine congrArg Host.Outcome.next ((State.wflushIns_acts acts).trans ((if_neg (Nat.ne_of_gt some')).trans (if_neg ?_)))
    rw [sound]
    decide
  case flushFails =>
    intro some' fails
    exact congrArg Host.Outcome.next
      ((State.wflushIns_acts acts).trans ((if_neg (Nat.ne_of_gt some')).trans (if_pos fails)))
  case sleeps =>
    intro outside
    exact completes_setCal (x := { x with asleep := true }) Iff.rfl
      (congrArg Host.Outcome.next (State.waitIns_outside acts outside))
  case sleepsLater =>
    intro h inside
    exact completes_setCal (x := { x with shadow := some { h with wait := true } }) (by simp [show (s.cal k).shadow = some h from inside])
      (congrArg Host.Outcome.next (State.waitIns_inside acts inside))
  case cinvIWaits =>
    exact fun out => congrArg Host.Outcome.next (State.cinvLine_waits acts (CalSt.stores_outstanding out))
  case cinvI =>
    exact fun resp stores => completes_setCal (x := x.dropLine (s.gpr k s1).toNat true) Iff.rfl (congrArg Host.Outcome.next
      (State.cinvLine_drops acts true (fun _ => x.storesDone_iff.mpr ⟨resp, stores⟩) ok))
  case cinvD =>
    exact completes_setCal (x := x.dropLine (s.gpr k s1).toNat false) Iff.rfl
      (congrArg Host.Outcome.next (State.cinvLine_drops acts false nofun ok))
  case dRefused => exact congrArg Host.Outcome.next (State.cinvLine_refused acts false nofun refused)
  case iRefused =>
    exact fun resp stores => congrArg Host.Outcome.next
      (State.cinvLine_refused acts true (fun _ => x.storesDone_iff.mpr ⟨resp, stores⟩) refused)

/-! ### ORDER -/

theorem exec_issueOrder (c : BitVec 3) (d s1 s2 : BitVec 5) (s : State) :
    ∃ word, exec (.issueOrder c d s1 s2) s = .next (s.orderIns c.toNat word d s1 s2) := ⟨_, rfl⟩

section
variable {s : State} {c word : Nat} {d s1 s2 : BitVec 5} (acts : Acts s c [d, s1, s2] [])
include acts

theorem State.orderIns_inside {h : ShadowSt} (inside : (s.cal c).shadow = some h) :
    s.orderIns c word d s1 s2 = (s.setCal c { s.cal c with
      orders := (s.cal c).orders ++ [⟨(s.cal c).pc, (s.gpr c s1).toNat, s.gpr c s2, (s.destKeys c d).headD 0⟩] }).goto c
        ((s.cal c).pc + 4) false := by
  unfold State.orderIns
  rw [State.instr_acts rfl acts]
  simp only [inside, Option.isSome_some, if_true]

variable (outside : (s.cal c).shadow = none)
include outside

theorem State.orderIns_waits
    (waits : (s.cal c).sb ≠ [] ∨ (s.cal c).resp ≠ [] ∨ s.orderWaits c (s.gpr c s1).toNat (s.gpr c s2) = true) :
    s.orderIns c word d s1 s2 = s := by
  have held : (!(s.cal c).sb.isEmpty || !(s.cal c).resp.isEmpty || s.orderWaits c (s.gpr c s1).toNat (s.gpr c s2)) = true := by
    simpa [or_assoc] using waits
  unfold State.orderIns
  rw [State.instr_acts rfl acts]
  simp only [outside, Option.isSome_none, Bool.false_eq_true, if_false, held, if_true]

variable (stores : (s.cal c).sb = []) (responses : (s.cal c).resp = [])
  (up : s.orderWaits c (s.gpr c s1).toNat (s.gpr c s2) = false)
include stores responses up

theorem State.orderIns_issues {t : State} {v : Nat}
    (run : s.orderRun c (s.gpr c s1).toNat (s.gpr c s2) = (t, .ok v)) :
    s.orderIns c word d s1 s2 = (t.setGpr c d (BitVec.ofNat 64 v)).next c := by
  unfold State.orderIns
  rw [State.instr_acts rfl acts]
  simp only [outside, stores, responses, up, run, Option.isSome_none, List.isEmpty_nil, Bool.not_true, Bool.or_self,
    Bool.false_eq_true, if_false]

theorem State.orderIns_faults {t : State} {e : MErr} {b : Nat}
    (run : s.orderRun c (s.gpr c s1).toNat (s.gpr c s2) = (t, .error (e, b))) :
    s.orderIns c word d s1 s2 = t.except c excLoad e.kind b (s.cal c).pc := by
  unfold State.orderIns
  rw [State.instr_acts rfl acts]
  simp only [outside, stores, responses, up, run, Option.isSome_none, List.isEmpty_nil, Bool.not_true, Bool.or_self,
    Bool.false_eq_true, if_false]

end

/-- Settles O16. -/
theorem orderInstructionIssuesTheOrder : Obligations.OrderInstructionIssuesTheOrder := by
  intro s c d s1 s2 k x a acts
  obtain ⟨word, meaning⟩ := exec_issueOrder c d s1 s2 s
  refine ⟨fun outside stores responses up => ⟨fun t v run => ?_, fun t e b run => ?_⟩, fun outside waits => ?_,
    fun h inside => ?_⟩
  · rw [State.orderIns_issues acts outside stores responses up run] at meaning
    exact ⟨_, meaning, t.setGpr_next ..⟩
  · rw [meaning, State.orderIns_faults acts outside stores responses up run]
  · rw [meaning, State.orderIns_waits acts outside waits]
  · rw [State.orderIns_inside acts inside, State.goto] at meaning
    exact ⟨_, meaning, s.setCal_moved k { x with
      orders := x.orders ++ [⟨x.pc, a, s.gpr k s2, (s.destKeys k d).headD 0⟩] } (x.pc + 4) Iff.rfl false⟩

/-! ### CRR -/

/-- A result is given also where the beats of a caller have been read, and a free value has been taken, before. -/
theorem GivesResult.since {s t u : State} {c : Nat} {d : BitVec 5} {v : Word} (g : GivesResult s u c d v)
    (h : s = { t with free := s.free, calBeats := s.calBeats }) : GivesResult t u c d v := by
  obtain ⟨w, r, polled, retires, puts, fcsr, vregs⟩ := g
  rw [h] at retires puts fcsr vregs
  exact ⟨w, r, polled, ⟨⟨retires.others, retires.memory, retires.queues, retires.regs⟩, retires.caller, retires.counted⟩,
    puts, fcsr, vregs⟩

theorem State.enter_calBeats (s : State) (c : Nat) (t : SaveSet) (cause : Word) (faddr pc : Nat) (tag : Word) (h : Nat) :
    (s.enter c t cause faddr pc tag h).calBeats = s.calBeats := by
  have status : ∀ (u : State) v, (u.putStatus c v).calBeats = u.calBeats := fun u v => by
    unfold State.putStatus State.setStatus
    exact ite_same (f := State.calBeats) rfl rfl
  unfold State.enter
  exact (status _ _).trans rfl

theorem State.pollTrap_calBeats (s : State) (c : Nat) : (s.pollTrap c).calBeats = s.calBeats := by
  unfold State.pollTrap
  dsimp only
  split
  · rfl
  · split
    · rfl
    · split
      · rfl
      · split
        · split <;> rfl
        · exact State.enter_calBeats ..

theorem State.setGpr_next_calBeats (s : State) (c : Nat) (d : BitVec 5) (v : Word) :
    ((s.setGpr c d v).next c).calBeats = s.calBeats := by
  have moved : ∀ (u : State) pc ret, (u.moved c pc ret).calBeats = u.calBeats := fun u _ _ =>
    ite_same (f := State.calBeats) rfl rfl
  rw [State.next, State.goto, State.pollTrap_calBeats, moved]
  exact foldl_pres (fun (u : State) k => u.onRegs c fun x => x.put k v) State.calBeats (fun _ _ => rfl) _ s

theorem exec_crr (c : BitVec 3) (d s1 : BitVec 5) (num : BitVec 16) (s : State) :
    exec (.crr c d s1 num) s = .next (s.crrIns c.toNat d s1 num) := rfl

section
variable {s : State} {c : Nat} {d s1 : BitVec 5} {num : BitVec 16}

theorem State.crrIns_gives {r : CReg} {v : Word} (reg : cregOf num.toNat = some r) (ok : s.crrOk c r = true)
    (acts : Acts s c [d] []) (value : controlValue s c r = some v) : s.crrIns c d s1 num = (s.setGpr c d v).next c := by
  unfold State.crrIns
  dsimp only
  rw [reg, State.instr_acts (by simp only [ok]; rfl) acts]
  cases r <;> cases value <;> rfl

/-- The beats of the present microsecond that a read of the beat count shows. -/
def State.beatsShown (s : State) (c : Nat) : Nat :=
  let b := Tab.get beatsDefault s.calBeats c
  if b.2 < 2450 then b.2 + 1 + s.takeFree.1.toNat % (2450 - b.2) else b.2

theorem State.beatsShown_bounds (s : State) (c : Nat) : let b := Tab.get beatsDefault s.calBeats c
    b.2 ≤ s.beatsShown c ∧ (b.2 < 2450 → b.2 < s.beatsShown c ∧ s.beatsShown c ≤ 2450) := by
  unfold State.beatsShown
  generalize Tab.get beatsDefault s.calBeats c = b
  dsimp only
  split
  · have := Nat.mod_lt s.takeFree.1.toNat (show 0 < 2450 - b.2 by omega)
    exact ⟨by omega, fun _ => ⟨by omega, by omega⟩⟩
  · exact ⟨Nat.le_refl _, fun low => by omega⟩

theorem State.crrIns_beats (acts : Acts s c [d] []) :
    s.crrIns c d s1 0x128 = (({ s.takeFree.2 with
      calBeats := Tab.set beatsDefault s.calBeats c ((Tab.get beatsDefault s.calBeats c).1, s.beatsShown c) } : State).setGpr c d
        (BitVec.ofNat 64 ((Tab.get beatsDefault s.calBeats c).1 + s.beatsShown c))).next c := by
  have reg : cregOf (0x128 : BitVec 16).toNat = some .beatcnt := rfl
  unfold State.crrIns
  dsimp only
  rw [reg]
  exact (State.instr_acts rfl acts).trans rfl

end

/-- Settles O18. -/
theorem controlReadsGiveTheRegister : Obligations.ControlReadsGiveTheRegister := by
  refine fun s c d s1 num => ⟨fun r v reg ok acts value => ?_, fun beats acts => ?_, fun bad issues fetched => ?_⟩
  · exact ⟨_, (exec_crr ..).trans (congrArg _ (State.crrIns_gives reg ok acts value)), s.setGpr_next ..⟩
  · intro b
    subst beats
    obtain ⟨least, most⟩ := s.beatsShown_bounds c.toNat
    refine ⟨s.beatsShown c.toNat, _, least, most, (exec_crr ..).trans (congrArg _ (State.crrIns_beats acts)),
      (State.setGpr_next _ _ _ _).since rfl, ?_⟩
    rw [State.setGpr_next_calBeats]
    exact Tab.get_set_same
  · rw [exec_crr, State.crrIns]
    dsimp only
    rw [State.instr_ill ?_ issues fetched]
    rcases bad with none | ⟨r, reg, refused⟩
    · rw [none]; rfl
    · simp only [reg, refused]; rfl

end Sys2Proof.Machine

/-! ## Entry, return and control writes of a caller (R445, R449, R451, R455) -/

namespace Sys2Proof.Machine

/-- Settles O19. -/
theorem entrySavesTheProgramAndMasks : Obligations.EntrySavesTheProgramAndMasks := State.enter_entered

/-! ### SCALL, MCALL and BREAK -/

theorem State.enter_reg (s : State) (c : Nat) (t : SaveSet) (cause : Word) (faddr pc : Nat) (tag : Word) (handler : Nat) {a : Nat}
    (h : a ≠ rCalExccnt c) : (s.enter c t cause faddr pc tag handler).reg a = s.reg a := by
  obtain ⟨x, v, entered⟩ := State.enter_frame s c t cause faddr pc tag handler
  rw [entered]
  exact (State.reg_setRf_other _ _ _ h).trans (((s.setCal c x).putStatus_frame c v).1 a)

/-- An exception raised outside a shadow, whose handler is ready, enters it. -/
theorem State.except_enters {s : State} {c code faddr pc handler : Nat} {ret : Bool} (known : code < 64)
    (outside : (s.cal c).shadow = none)
    (ready : entryReady s c (if (s.cal c).lvl = 3 ∨ code = excMcall then .m else worldSet (s.calWorld c)) code handler) :
    s.except c code 0 faddr pc ret =
      (s.retires c ret).enter c (if (s.cal c).lvl = 3 ∨ code = excMcall then .m else worldSet (s.calWorld c))
        (causeWord code 0 0) faddr pc 0 handler := by
  obtain ⟨free, loaded, entry, room⟩ := ready
  have coded : (causeWord code 0 0).toNat % 64 = code := by
    unfold causeWord
    rw [BitVec.toNat_ofNat]
    omega
  have cancelled : s.cancelShadow c = s := by
    unfold State.cancelShadow
    simp only [outside]
  have saved : (s.cal c).excPc pc = pc := by
    unfold CalSt.excPc
    rw [outside]
  have counts : (ret && (s.cal c).shadow.isNone) = ret := by
    rw [outside]
    exact Bool.and_true ret
  unfold State.except
  rw [cancelled, saved, counts]
  unfold State.take State.atMachine State.room CalSt.toMachine
  dsimp only
  rw [coded]
  by_cases machine : (s.cal c).lvl = 3 ∨ code = excMcall
  · rw [if_pos machine] at free loaded entry ⊢
    have busy : (s.cal c).tabM.busy = false := loaded
    have handled : (s.cal c).tabM.handler code = some handler := entry
    rw [if_pos (by simpa using machine), if_neg (by rw [free]; decide), if_neg (by rw [busy]; decide), handled]
    exact if_pos room
  · rw [if_neg machine] at free loaded entry ⊢
    rw [if_neg (by simpa using machine), if_neg (by rw [free]; decide), if_neg (by rw [loaded]; decide), entry]
    exact if_pos room

/-- Entry does not read what the retirement of the instruction changes. -/
theorem State.retires_entered {s u : State} {c : Nat} {ret : Bool} {t : SaveSet} {cause : Word} {faddr pc : Nat} {tag : Word}
    {handler : Nat} (h : Entered (s.retires c ret) u c t cause faddr pc tag handler) :
    Entered s u c t cause faddr pc tag handler := by
  cases ret with
  | false => exact h
  | true =>
    have world : ∀ a, a ≠ rCalRetired c → (s.retires c true).reg a = s.reg a := fun a ha => State.reg_setRf_other _ _ _ ha
    have status : (s.retires c true).statusWord c = s.statusWord c := by
      unfold State.statusWord State.calWorld State.rf
      rw [world _ (by simp only [rCalWorld, rCalRetired]; omega)]
      rfl
    have counted := h.counted
    unfold State.rf at counted
    rw [world _ (by simp only [rCalExccnt, rCalRetired]; omega)] at counted
    have saved := h.saved
    rw [status] at saved
    exact ⟨saved, h.others, h.goes, h.window, h.level, h.masked, h.held, h.registers, h.callers, h.memory, counted⟩

theorem exec_call_cause {i : Instr} {s : State} {c code past : Nat} (form : callCause i = some (c, code, past))
    (acts : Acts s c [] []) : code < 64 ∧ exec i s = .next (s.except c code 0 0
      (if past = 0 then (s.cal c).pc else ((s.cal c).pc + 4) % 2 ^ 48) (decide (past ≠ 0))) := by
  unfold callCause at form
  split at form <;> cases form
  all_goals exact ⟨by decide, congrArg Host.Outcome.next (State.instr_acts rfl acts)⟩

/-- Settles O21. -/
theorem callsToAHandlerEnterIt : Obligations.CallsToAHandlerEnterIt := by
  intro i s c code past handler form acts outside t ready
  obtain ⟨known, run⟩ := exec_call_cause form acts
  rw [State.except_enters known outside ready] at run
  refine ⟨_, run, State.retires_entered (State.enter_entered ..), ?_⟩
  unfold State.rf
  rw [State.enter_reg _ _ _ _ _ _ _ _ (by simp only [rCalExccnt, rCalRetired]; omega)]
  by_cases none : past = 0
  · rw [if_pos none]
    simp only [State.retires, none, ne_eq, not_true_eq_false, decide_false, Bool.false_eq_true, if_false]
  · rw [if_neg none]
    simp only [State.retires, none, ne_eq, not_false_eq_true, decide_true, if_true]
    exact State.rf_setRf_same _ _ _ (by decide)

/-! ### STATUS written -/

theorem State.setStatus_cal (s : State) (c j : Nat) (v : Word) :
    (s.setStatus c v).cal j = (s.setCal c { s.cal c with status := v }).cal j := by
  unfold State.setStatus
  exact ite_same (f := fun t => State.cal t j) rfl rfl

theorem State.putStatus_cal (s : State) (c : Nat) (v : Word) : (s.putStatus c v).cal c = { s.cal c with
    status := (v &&& maskOf 0 7) ||| (if s.cus.curtain then maskOf 4 1 else 0) } :=
  (State.setStatus_cal ..).trans (State.cal_setCal_same ..)

theorem State.putStatus_other (s : State) {c j : Nat} (v : Word) (h : j ≠ c) : (s.putStatus c v).cal j = s.cal j :=
  (State.setStatus_cal ..).trans (State.cal_setCal_other _ _ h)

/-- The bits of STATUS: seven are stored, and under Curtain HELD bit 4 stays set (R635). -/
theorem statusBits (v : Word) (curtain : Bool) {b : Nat} (h : b < 64) :
    ((v &&& maskOf 0 7) ||| (if curtain then maskOf 4 1 else 0)).bit b = (decide (b < 7) && v.bit b || (b == 4 && curtain)) := by
  unfold Word.bit
  rw [BitVec.getLsbD_or, BitVec.getLsbD_and, curtain_mask _ _ h, getLsbD_maskOf _ _ _ h]
  cases v.getLsbD b <;> cases curtain <;> simp <;> rfl

theorem Word.bit_setFld (v : Word) (l n x : Nat) {b : Nat} (h : b < 64) :
    (v.setFld l n x).bit b = if l ≤ b ∧ b < l + n then x.testBit (b - l) else v.bit b := by
  unfold Word.bit
  rw [Word.getLsbD_setFld]
  simp only [h, and_true]

theorem Word.testBit_fld_bit (v : Word) (l n i : Nat) : (v.fld l n).testBit i = (decide (i < n) && v.bit (l + i)) :=
  Word.testBit_fld ..

/-! ### RETX -/

theorem exec_retx (c : BitVec 3) (s : State) : exec (.retx c) s = .next (s.retxIns c.toNat) := rfl

theorem State.closeShadow_none {s : State} {c : Nat} (outside : (s.cal c).shadow = none) : s.closeShadow c = s := by
  unfold State.closeShadow
  simp only [outside]

/-- The set from which RETX returns. -/
def State.retxSet (s : State) (c : Nat) : SaveSet := if (s.cal c).lvl = 3 then .m else worldSet (s.calWorld c)

/-- The frames that RETX goes back. -/
def CalSt.retxBack (x : CalSt) (t : SaveSet) : Nat := (x.r.wp + 16 - (x.save t).wp.toNat % 16) % 16

/-- STATUS as RETX restores it. -/
def CalSt.retxStatus (x : CalSt) (t : SaveSet) : Word :=
  ((x.save t).st.setFld 4 2 (x.status.fld 4 2)).setBit (heldBit t) false

theorem CalSt.retxStatus_bit (x : CalSt) (t : SaveSet) {b : Nat} (h : b < 64) :
    (x.retxStatus t).bit b =
      if b = heldBit t then false else if b = 4 ∨ b = 5 then x.status.bit b else (x.save t).st.bit b := by
  rw [CalSt.retxStatus, Word.setBit, Word.bit_setFld _ _ _ _ h, Word.bit_setFld _ _ _ _ h, Word.testBit_fld_bit]
  by_cases own : b = heldBit t
  · simp [own]
  · rw [if_neg (by omega), if_neg own]
    by_cases held : b = 4 ∨ b = 5
    · rw [if_pos held, if_pos (by omega), show 4 + (b - 4) = b by omega, decide_eq_true (by omega), Bool.true_and]
    · rw [if_neg held, if_neg (by omega)]

/-- Window and STATUS are back from the set `t`. -/
def State.retxRestored (s : State) (c : Nat) (t : SaveSet) : State :=
  (s.onRegs c fun r => { r with
    wp := ((s.cal c).save t).wp.toNat % 16
    resident := r.resident - (s.cal c).retxBack t }).putStatus c ((s.cal c).retxStatus t)

theorem State.retxRestored_cal (s : State) (c : Nat) (t : SaveSet) : (s.retxRestored c t).cal c = { s.cal c with
    r := { (s.cal c).r with
      wp := ((s.cal c).save t).wp.toNat % 16
      resident := (s.cal c).r.resident - (s.cal c).retxBack t }
    status := ((s.cal c).retxStatus t &&& maskOf 0 7) ||| (if s.cus.curtain then maskOf 4 1 else 0) } := by
  rw [State.retxRestored, State.putStatus_cal, State.onRegs, State.cal_setCal_same]
  rfl

theorem State.retxRestored_other (s : State) {c j : Nat} (t : SaveSet) (h : j ≠ c) : (s.retxRestored c t).cal j = s.cal j :=
  (State.putStatus_other _ _ h).trans (State.cal_setCal_other _ _ h)

theorem State.retxRestored_memory (s : State) (c : Nat) (t : SaveSet) :
    (s.retxRestored c t).mem = s.mem ∧ (s.retxRestored c t).hostMem = s.hostMem :=
  ⟨(State.putStatus_frame _ _ _).2.1, (State.putStatus_frame _ _ _).2.2.2⟩

section
variable {s : State} {c : Nat} (issues : s.issues c = true) (fetched : s.fetch c (s.cal c).pc = .word)
  (outside : (s.cal c).shadow = none)
include issues fetched outside

theorem State.retxIns_illegal
    (bad : (s.cal c).lvl = 0 ∨ ((s.cal c).lvl = 1 ∧ ((s.cal c).save (s.retxSet c)).st.fld 0 2 = 3)) :
    s.retxIns c = s.except c excIllegal 0 (2 ^ 26 * 0x3C + 0x23) (s.cal c).pc := by
  unfold State.retxSet at bad
  unfold State.retxIns
  rw [State.closeShadow_none outside]
  exact State.instr_ill (by simpa using bad) issues fetched

theorem State.retxIns_returns (level : (s.cal c).lvl ≠ 0)
    (legal : (s.cal c).lvl = 1 → ((s.cal c).save (s.retxSet c)).st.fld 0 2 ≠ 3) :
    s.retxIns c =
      if (s.cal c).retxBack (s.retxSet c) ≤ (s.cal c).r.resident then
        (s.retxRestored c (s.retxSet c)).goto c (regTarget ((s.cal c).save (s.retxSet c)).pc)
      else s.resident c ((s.cal c).retxBack (s.retxSet c)) s := by
  have allowed : ((s.cal c).lvl == 0 || ((s.cal c).lvl == 1 && ((s.cal c).save (s.retxSet c)).st.fld 0 2 == 3)) = false := by
    simpa [level] using legal
  unfold State.retxSet at allowed
  unfold State.retxIns
  rw [State.closeShadow_none outside]
  dsimp only
  rw [allowed, State.sync_acts issues fetched, State.closeShadow_none outside, if_neg (by simp [outside])]
  rfl

end

/-- Settles O23. -/
theorem returnRestoresTheProgram : Obligations.ReturnRestoresTheProgram := by
  intro s c k x t y back issues fetched outside
  refine ⟨fun level legal resident => ?_, fun bad => ?_, fun level legal missing stacked => ?_⟩
  · have run := (State.retxIns_returns issues fetched outside level legal).trans (if_pos resident)
    rw [State.goto] at run
    have moved := (s.retxRestored k t).moved_retires k (regTarget y.pc) true
    have caller := s.retxRestored_cal k t
    have bits : ∀ b, b < 64 → (((s.retxRestored k t).moved k (regTarget y.pc) true).cal k).status.bit b =
        (decide (b < 7) && (x.retxStatus t).bit b || (b == 4 && s.cus.curtain)) := fun b hb => by
      rw [moved.caller, caller]
      exact statusBits _ _ hb
    have own : heldBit t = 4 ∨ heldBit t = 5 := by cases t <;> simp [heldBit]
    refine ⟨(s.retxRestored k t).moved k (regTarget y.pc) true, (exec_retx ..).trans (congrArg _ run), ?_, ?_, fun b hb h4 h5 => ?_,
      fun b hb => ?_, fun j hj => ?_, ?_, ?_⟩
    · rw [moved.caller]
      exact Nat.mod_eq_of_lt (by unfold regTarget Word.fld; omega)
    · rw [moved.caller, caller]
      rfl
    · rw [bits b hb, CalSt.retxStatus_bit _ _ hb, if_neg (by omega), if_neg (by omega)]
      simp [h4, show y = x.save t from rfl]
    · rw [bits b (by omega), CalSt.retxStatus_bit _ _ (by omega), if_pos hb, decide_eq_true (by omega), Bool.true_and]
      by_cases e : b = heldBit t
      · simp [e]
      · rw [if_neg e, bne_iff_ne.mpr e, Bool.true_and]
    · rw [moved.others j hj, State.retxRestored_other _ _ hj]
    · exact moved.memory.1.trans (s.retxRestored_memory k t).1
    · exact moved.memory.2.2.trans (s.retxRestored_memory k t).2
  · rw [exec_retx, State.retxIns_illegal issues fetched outside bad]
  · have apart : ¬ back ≤ x.r.resident := Nat.not_le.mpr missing
    have run := ((State.retxIns_returns issues fetched outside level legal).trans (if_neg apart)).trans (if_neg apart)
    rw [exec_retx, run, show s.stacked c.toNat = true from stacked]
    rfl

/-! ### CRW -/

theorem exec_crw (c : BitVec 3) (d s1 : BitVec 5) (num : BitVec 16) (s : State) :
    exec (.crw c d s1 num) s = .next (s.crwIns c.toNat d s1 num) := rfl

/-- CRW waits in a shadow: it opens one, or joins the open one. -/
def State.crwGoes (s : State) (c n : Nat) (v : Word) : State :=
  let x := s.cal c
  match x.shadow with
  | none => (s.setCal c { x with
      pc := (x.pc + 4) % 2 ^ 48
      shadow := some ⟨x.pc, 0, 1, [.write n v], x.r, false⟩
      want := 0 }).pollTrap c
  | some h => (s.setCal c { x with shadow := some { h with evs := h.evs ++ x.drained n ++ [.write n v] } }).next c

theorem State.crwGoes_opens {s : State} {c n : Nat} {v : Word} (outside : (s.cal c).shadow = none) :
    s.crwGoes c n v = s.setCal c { s.cal c with
      pc := ((s.cal c).pc + 4) % 2 ^ 48
      shadow := some ⟨(s.cal c).pc, 0, 1, [.write n v], (s.cal c).r, false⟩
      want := 0 } := by
  unfold State.crwGoes
  simp only [outside]
  exact State.pollTrap_shadow (by rw [State.cal_setCal_same]; rfl)

theorem State.crwGoes_joins {s : State} {c n : Nat} {v : Word} {h : ShadowSt} (inside : (s.cal c).shadow = some h) :
    s.crwGoes c n v = (s.setCal c { s.cal c with
      shadow := some { h with evs := h.evs ++ (s.cal c).drained n ++ [.write n v] } }).next c := by
  unfold State.crwGoes
  simp only [inside]

section
variable {s : State} {c : Nat} {d s1 : BitVec 5} {num : BitVec 16}

theorem State.crwIns_goes {r : CReg} (reg : cregOf num.toNat = some r) (ok : s.crwOk c r (s.gpr c s1) = true)
    (acts : Acts s c [s1] []) (quiet : r = .fcsr → ∀ l ∈ (s.cal c).longs, l.inShadow = true)
    (flushed : r = .wsp → (s.cal c).r.resident = 0) :
    s.crwIns c d s1 num = s.crwGoes c num.toNat (s.gpr c s1) := by
  unfold State.crwIns
  dsimp only
  rw [reg, State.instr_acts (by simp only [ok, Bool.or_true]; rfl) acts]
  cases r with
  | fcsr => exact if_pos (List.all_eq_true.mpr (quiet rfl))
  | wsp => exact if_pos (flushed rfl)
  | _ => rfl

theorem State.crwIns_illegal (bad : cregOf num.toNat = none ∨ (∃ r, cregOf num.toNat = some r ∧
      s.crwOk c r (s.gpr c s1) = false) ∧ (s.cal c).clash (s.destKeys c s1) [] = false)
    (issues : s.issues c = true) (fetched : s.fetch c (s.cal c).pc = .word) :
    s.crwIns c d s1 num = s.except c excIllegal 0 (wordI 0x3D d s1 num) (s.cal c).pc := by
  unfold State.crwIns
  dsimp only
  refine State.instr_ill ?_ issues fetched
  rcases bad with none | ⟨⟨r, reg, refused⟩, free⟩
  · rw [none]; rfl
  · simp only [reg, refused, free]; rfl

end

/-! ### SYNC.C -/

theorem exec_syncC (c : BitVec 3) (d s1 s2 : BitVec 5) {s : State} (issues : s.issues c.toNat = true)
    (fetched : s.fetch c.toNat (s.cal c.toNat).pc = .word) :
    exec (.syncC c d s1 s2) s = .next (((s.closeShadow c.toNat).next c.toNat).pollOrders c.toNat) :=
  congrArg Host.Outcome.next (State.sync_acts issues fetched)

theorem State.closeShadow_some {s : State} {c : Nat} {h : ShadowSt} (inside : (s.cal c).shadow = some h) :
    s.closeShadow c = (h.evs.foldl (State.shadowEv c) (s.setCal c { s.cal c with
      shadow := none
      asleep := h.wait
      longs := (s.cal c).longs.map fun l => { l with inShadow := false }
      sb := (s.cal c).sb.map fun b => { b with inShadow := false } })).addRf (rCalRetired c) fCalRetiredCount h.ret := by
  unfold State.closeShadow
  simp only [inside]

/-! ### The writes of a shadow -/

theorem State.crwApply_status (s : State) (c : Nat) (v : Word) {b : Nat} (h : b < 64) :
    ((s.crwApply c (0, v)).cal c).status.bit b =
      if b = 2 ∨ b = 3 ∨ b = 6 then v.bit b
      else if b = 4 then (s.cal c).status.bit 4 && !v.bit 4 || s.cus.curtain
      else if b = 5 then (s.cal c).status.bit 5 && !v.bit 5
      else decide (b < 2) && (s.cal c).status.bit b := by
  have applied : s.crwApply c (0, v) = s.putStatus c ((((s.cal c).status.setFld 2 2 (v.fld 2 2)).setFld 6 1 (v.fld 6 1)).setFld 4 2
      ((((s.cal c).status.setFld 2 2 (v.fld 2 2)).setFld 6 1 (v.fld 6 1) &&& ~~~v).fld 4 2)) := rfl
  have cleared : ∀ (st : Word) n, n < 64 → (st &&& ~~~v).bit n = (st.bit n && !v.bit n) := fun st n hn => by
    unfold Word.bit
    simp [hn]
  rw [applied, State.putStatus_cal]
  simp only
  rw [statusBits _ _ h, Word.bit_setFld _ _ _ _ h, Word.testBit_fld_bit]
  rcases Nat.lt_or_ge b 7 with low | high
  · interval_cases b <;> simp [cleared, Word.bit_setFld, Word.testBit_fld_bit, -Nat.testBit_zero]
  · simp [show ¬ b < 7 by omega, show ¬ b < 2 by omega, show b ≠ 2 by omega, show b ≠ 3 by omega, show b ≠ 4 by omega,
      show b ≠ 5 by omega, show b ≠ 6 by omega]

/-- Settles O24. -/
theorem controlWritesWaitForTheirSync : Obligations.ControlWritesWaitForTheirSync := by
  refine ⟨fun s c d s1 num => ?_, fun s c d s1 s2 => ?_, fun s c n v f => ⟨rfl, State.cal_setCal_same ..⟩, fun s c v => ?_⟩
  · intro k x v
    refine ⟨fun r reg ok acts quiet flushed => ?_, fun bad issues fetched => ?_⟩
    · have run := State.crwIns_goes (d := d) reg ok acts quiet flushed
      refine ⟨fun outside => ?_, fun h inside => ?_⟩
      · rw [exec_crw, run, State.crwGoes_opens outside]
      · have drained : x.drained num.toNat = if r = .fcsr then [.drain (x.longs.map fun l => l.tag)] else [] := by
          unfold CalSt.drained
          rw [reg]
          by_cases e : r = .fcsr
          · rw [if_pos e, if_pos (by rw [e]), List.filter_eq_self.mpr (quiet e)]
          · rw [if_neg e, if_neg (by simpa using e)]
        rw [State.crwGoes_joins inside, drained] at run
        exact completes_setCal ⟨fun e => (Option.some_ne_none _ e).elim, fun none => absurd (inside.symm.trans none) nofun⟩ ((exec_crw ..).trans (congrArg _ run))
    · rw [exec_crw, State.crwIns_illegal bad issues fetched]
  · intro k x issues fetched
    have run := exec_syncC c d s1 s2 issues fetched
    refine ⟨fun outside idle => ?_, fun h inside => ?_⟩
    · have orders : ((s.next k).cal k).orders = [] := by
        rw [State.next, State.goto, State.pollTrap_orders, State.cal_moved]
        exact idle
      rw [State.closeShadow_none outside, State.pollOrders_none _ _ orders] at run
      exact completes_goto run
    · rw [run, State.closeShadow_some inside]
      rfl
  · have wsp : s.crwApply c (0x120, v) = s.setCal c { s.cal c with wsp := v &&& maskOf 7 41, depth := 0 } := by
      unfold State.crwApply
      rw [show cregOf 0x120 = some .wsp by decide]
    have fcsr : s.crwApply c (0x100, v) = s.onRegs c fun r => { r with
        fcsr := let f := v &&& (maskOf 0 3 ||| maskOf 8 5 ||| maskOf 16 5); if 5 ≤ f.fld 0 3 then f.setFld 0 3 0 else f } := by
      unfold State.crwApply
      rw [show cregOf 0x100 = some .fcsr by decide]
    refine ⟨fun b hb => s.crwApply_status c v hb, fun n t reg => ?_, fun n t i reg => ?_, ?_, ?_⟩
    · unfold State.crwApply
      rw [reg]
      exact State.cal_setCal_same ..
    · unfold State.crwApply
      rw [reg]
      exact State.cal_setCal_same ..
    · rw [wsp, State.cal_setCal_same]
    · rw [fcsr, State.onRegs, State.cal_setCal_same]

end Sys2Proof.Machine

/-! ## The units of a running order (R204, R205, R209, R213, R214) -/

namespace Sys2Proof.Machine

/-! ### Order commands -/

theorem State.runUnits_eq_repeat (q k : Nat) (s : State) :
    State.runUnits q k s = Nat.repeat (fun t => State.oneUnit t q) k s := by
  have inner (k : Nat) (s : State) : Nat.repeat (fun t => State.oneUnit t q) (k + 1) s =
      Nat.repeat (fun t => State.oneUnit t q) k (s.oneUnit q) := by
    induction k with
    | zero => rfl
    | succ k ih => exact congrArg (fun t => State.oneUnit t q) ih
  induction k generalizing s with
  | zero => rfl
  | succ k ih => exact (ih _).trans (inner k s).symm

theorem exec_orderCommand {i : Instr} {op : Op} {q k : Nat} (s : State) (h : orderCommand i = some (op, q, k)) :
    exec i s = .next (s.runOrder op q k) := by
  unfold orderCommand at h
  split at h <;> cases h <;> rfl

/-- Settles O25: `State.runOrder` decides whether the units run. -/
theorem orderCommandsRunTheHeadOrder : Obligations.OrderCommandsRunTheHeadOrder := by
  unfold Obligations.OrderCommandsRunTheHeadOrder
  intro i s op q k command
  rw [exec_orderCommand s command, State.runOrder]
  refine ⟨fun x head own running ready => ⟨fun may => ?_, fun sound runs out => ?_⟩, fun idle => ?_⟩
  · rw [head, ← State.runUnits_eq_repeat]
    rcases may with failed | ⟨runs, entitled⟩
    · simp [own, running, ready, Option.isSome_iff_ne_none.mpr failed]
    · simp [own, running, ready, runs, entitled]
  · simp [head, own, running, ready, sound, runs, out]
  · cases head : s.head q with
    | none => rfl
    | some x =>
      rcases idle x head with other | halted | down | ⟨sound, stays⟩
      · simp [other]
      · simp [halted]
      · simp [down]
      · simp [sound, stays]

/-! ### One element of the performance -/

/-- What the outputs of the performance leave unchanged in a run: everything but the signatures, the bits gathered, the
blocks that await their pair, and the held writes. -/
def Run.bare (r : Run) : Run :=
  { r with perf := { r.perf with sigX := SigSt.empty, sigY := SigSt.empty, bitX := [], bitY := [] }
           pend := [], pairs := [], heldP := [] }

theorem Run.signed_bare (r : Run) (slot : Nat) (bs : List (Nat × Nat)) : (r.signed false slot bs).bare = r.bare := rfl

theorem Run.signed_heldP (r : Run) (slot : Nat) (bs : List (Nat × Nat)) : (r.signed false slot bs).heldP = r.heldP := rfl

theorem Run.hold_bare (r : Run) (a : Nat) (bs : List Byte) : (r.hold false a bs).bare = r.bare := rfl

/-- The signature and the gathered bits are no part of the bare run. -/
theorem Run.setPass_bare (r : Run) (slot : Nat) (sig : SigSt) (bits : List Bool) :
    (r.setPass false (((r.pass false).setSig slot sig).setBits slot bits)).bare = r.bare := by
  unfold Pass.setSig Pass.setBits
  split <;> rfl

theorem Run.setPass_heldP (r : Run) (p : Pass) : (r.setPass false p).heldP = r.heldP := rfl

/-- The entry after an output of the performance is the entry before it with another run, of which the bare part is the
same; bytes are held back only where the order holds its writes. -/
theorem putOut_entry (w : World) (s : State) (ent : Entry) (o : Out) :
    ∃ r, (putOut w false (s, ent) o).2 = ent.setRun r ∧ r.bare = ent.run.bare ∧
      ((ent.run.reprised && ent.holds) = false → r.heldP = ent.run.heldP) := by
  refine ⟨_, rfl, ?_, fun free => ?_⟩
  · split
    · dsimp only
      split
      · rw [Run.hold_bare, Run.signed_bare, Run.setPass_bare]
      · rw [if_neg Bool.false_ne_true, Run.signed_bare, Run.setPass_bare]
    · rw [Run.signed_bare, Run.setPass_bare]
  · split
    · dsimp only
      rw [if_neg (by rw [free]; exact Bool.false_ne_true), if_neg Bool.false_ne_true, Run.signed_heldP, Run.setPass_heldP]
    · rw [Run.signed_heldP, Run.setPass_heldP]

/-- An output whose stream is in memory and feeds no seal unit is written there. -/
theorem putOut_memory {w : World} {s : State} {ent : Entry} {o : Out}
    (relay : (⟨s, w, ent, false⟩ : Env).outRelay o.slot = none) (unsealed : ent.ord.sealTo = none) :
    (putOut w false (s, ent) o).1 = writeOutput w ent s o := by
  unfold putOut writeOutput
  simp only [relay, unsealed]
  cases o.val with
  | none => rfl
  | some y =>
    cases (⟨s, w, ent, false⟩ : Env).outAddr o with
    | none => rfl
    | some a =>
      by_cases holds : (ent.run.reprised && ent.holds) = true
      · simp only [holds, if_true]
      · simp only [holds, if_neg Bool.false_ne_true]

/-- Of the run, an output in memory depends on the held writes of the performance alone, where none are held back. -/
theorem writeOutput_setRun (w : World) (x : Entry) (r : Run) (s : State) (o : Out) (reprised : r.reprised = x.run.reprised)
    (held : (x.run.reprised && x.holds) = false → r.heldP = x.run.heldP) :
    writeOutput w (x.setRun r) s o = writeOutput w x s o := by
  unfold writeOutput
  have addr : (⟨s, w, x.setRun r, false⟩ : Env).outAddr o = (⟨s, w, x, false⟩ : Env).outAddr o := rfl
  simp only [addr]
  cases o.val with
  | none => rfl
  | some y =>
    cases (⟨s, w, x, false⟩ : Env).outAddr o with
    | none => rfl
    | some a =>
      have holding : ((x.setRun r).run.reprised && (x.setRun r).holds) = (x.run.reprised && x.holds) :=
        congrArg (· && x.holds) reprised
      by_cases holds : (x.run.reprised && x.holds) = true
      · simp only [holding, holds, if_true]
      · have bytes : (⟨s, w, x.setRun r, false⟩ : Env).memBytes o y a.toNat = (⟨s, w, x, false⟩ : Env).memBytes o y a.toNat := by
          unfold Env.memBytes
          rw [show (⟨s, w, x.setRun r, false⟩ : Env).ent.run.heldP = x.run.heldP from held (Bool.eq_false_iff.mpr holds)]
          rfl
        simp only [holding, holds, bytes]
        rfl

/-- `y` is `x` with another run, of which the bare part is the same. -/
structure Entry.Wrote (x y : Entry) : Prop where
  run : y = x.setRun y.run
  bare : y.run.bare = x.run.bare
  held : (x.run.reprised && x.holds) = false → y.run.heldP = x.run.heldP

theorem Entry.Wrote.refl (x : Entry) : x.Wrote x := ⟨rfl, rfl, fun _ => rfl⟩

theorem Entry.Wrote.reprised {x y : Entry} (h : x.Wrote y) : y.run.reprised = x.run.reprised := by
  have := congrArg Run.reprised h.bare
  exact this

theorem Entry.Wrote.output {x y : Entry} (h : x.Wrote y) (w : World) (s : State) (o : Out) :
    x.Wrote (putOut w false (s, y) o).2 := by
  obtain ⟨r, run, bare, held⟩ := putOut_entry w s y o
  have holding : (y.run.reprised && y.holds) = (x.run.reprised && x.holds) := by
    rw [h.reprised, h.run]
    rfl
  refine ⟨?_, ?_, fun free => ?_⟩
  · rw [run, h.run]
    rfl
  · rw [run]
    exact bare.trans h.bare
  · rw [run]
    exact (held (holding.trans free)).trans (h.held free)

theorem Entry.Wrote.outputs {x y : Entry} (h : x.Wrote y) (w : World) (s : State) (os : List Out) :
    x.Wrote (os.foldl (fun se o => putOut w false se o) (s, y)).2 := by
  induction os generalizing s y with
  | nil => exact h
  | cons o os ih => exact ih (h.output w s o) _

/-- Outputs in memory alone are written one after another. -/
theorem putOuts_memory {w : World} {x y : Entry} (h : x.Wrote y) (s : State) {os : List Out}
    (relay : ∀ o ∈ os, (⟨s, w, x, false⟩ : Env).outRelay o.slot = none) (unsealed : x.ord.sealTo = none) :
    (os.foldl (fun se o => putOut w false se o) (s, y)).1 = os.foldl (writeOutput w x) s := by
  induction os generalizing s y with
  | nil => rfl
  | cons o os ih =>
    have first : (putOut w false (s, y) o).1 = writeOutput w x s o := by
      rw [putOut_memory (by rw [h.run]; exact relay o (.head _)) (by rw [h.run]; exact unsealed), h.run,
        writeOutput_setRun w x y.run s o h.reprised h.held]
    rw [List.foldl_cons, List.foldl_cons, ← first]
    exact ih (h.output w s o) _ fun p hp => relay p (.tail _ hp)

/-- An order command with one unit makes the next unit of the performance of its head order. -/
theorem Performs.exec_unit {i : Instr} {s : State} {op : Op} {q : Nat} {x : Entry} (command : orderCommand i = some (op, q, 1))
    (h : Performs s q op x) : exec i s = .next (s.elemUnit q x false) := by
  obtain ⟨modeRuns, ready⟩ : s.modeRuns (q / 2) = true ∧ s.ready (q / 2) = true := by
    simpa [State.engOn] using h.engine
  have unit : s.oneUnit q = s.elemUnit q x false := by
    unfold State.oneUnit
    rw [h.head]
    have next := h.next
    cases reprised : x.run.reprised with
    | false => 
      rw [reprised] at next
      simp [h.running, h.memory, reprised, show x.run.perf.next < x.n from next]
    | true =>
      rw [reprised] at next
      obtain ⟨sound, within⟩ : x.run.failed = none ∧ x.run.perf.next < x.run.blockEnd x.n := next
      have paired : (x.feeds && !x.run.pairs.isEmpty) = false := by
        cases feeds : x.feeds with
        | false => rfl
        | true => rw [h.compared reprised feeds]; rfl
      simp [h.running, h.memory, reprised, sound, within, paired]
  rw [exec_orderCommand s command, State.runOrder, h.head]
  simp [h.op, h.running, ready, modeRuns, h.entitled, State.runUnits, unit]

theorem Performs.next_unit {s : State} {op : Op} {q : Nat} {x : Entry} (h : Performs s q op x) (w : World) :
    (⟨s, w, x, false⟩ : Env).next x.run.perf = (⟨s, w, x, false⟩ : Env).unit x.run.perf := by
  have whole : x.run.skips.contains x.run.perf.next = false := by simpa using h.whole
  refine if_neg ?_
  rw [show (⟨s, w, x, false⟩ : Env).ent.run.skips.contains x.run.perf.next = false from whole]
  exact Bool.false_ne_true

/-! ### The clauses on one element -/

/-- The entry with which the outputs of an element begin: its pass stands behind the element (R205, R223). -/
def Entry.passed (x : Entry) (s : State) (e : Eff) : Entry :=
  x.setRun { ({ x.run with trail := x.run.follow e }).setPass false e.pass with
    wdCount := 0, wdSeen := s.portBytes x, waited := false, since := s.time, passOne := x.run.passOne && !e.counts }

/-- The state in which the outputs of an element begin: its relay bytes have retired, and its byte is fed. -/
def State.taken (s : State) (w : World) (x : Entry) (e : Eff) : State :=
  let r := e.rel.foldl (fun s z => s.relayRetire z.1 false z.2) s
  if e.counts then feedByte w r x e.pass else r

/-- State and entry after the outputs of an element. -/
def State.given (s : State) (w : World) (x : Entry) (e : Eff) : State × Entry :=
  e.outs.foldl (fun se o => putOut w false se o) (s.taken w x e, x.passed (s.taken w x e) e)

theorem State.retire_performance (s : State) (q : Nat) (x : Entry) (e : Eff) :
    s.retire q x false e =
      (retireFlags q (s.given (qWorld q) x e) e.flags).1.setHead q (retireFlags q (s.given (qWorld q) x e) e.flags).2 := by
  obtain ⟨pass, flags, outs, rel, plain, counts⟩ := e
  cases counts <;> rfl

theorem retireFlags_due {q : Nat} {s : State} {y : Entry} {fl : Flags}
    (due : (y.run.addFlags fl).blkFlags ≠ 0 ∧ (y.run.addFlags fl).perf.next % 65536 = 0 ∧ (y.run.addFlags fl).perf.next > 0) :
    retireFlags q (s, y) fl = (s.trapReport q y.tag (y.run.addFlags fl).blkFlags false,
      y.setRun { y.run.addFlags fl with blkFlags := 0 }) := if_pos due

theorem retireFlags_quiet {q : Nat} {s : State} {y : Entry} {fl : Flags}
    (quiet : ¬ ((y.run.addFlags fl).blkFlags ≠ 0 ∧ (y.run.addFlags fl).perf.next % 65536 = 0 ∧
      (y.run.addFlags fl).perf.next > 0)) :
    retireFlags q (s, y) fl = (s, y.setRun (y.run.addFlags fl)) := if_neg quiet

/-- An element retires: what stands in the entry then, and the trap report that is due at the end of a block. -/
theorem State.retire_gives (s : State) (q : Nat) (x : Entry) (e : Eff) :
    ∃ y : Entry,
      let report := if x.run.precise then x.run.blkFlags else x.run.blkFlags ||| (e.flags &&& x.run.trapen)
      let due : Prop := report ≠ 0 ∧ e.pass.next % 65536 = 0 ∧ 0 < e.pass.next
      let u := (s.given (qWorld q) x e).1
      (due → s.retire q x false e = (u.trapReport q x.tag report false).setHead q y) ∧
      (¬ due → s.retire q x false e = u.setHead q y) ∧
      y.ord = x.ord ∧ y.strms = x.strms ∧ y.n = x.n ∧ y.tag = x.tag ∧
      y.run.phase = x.run.phase ∧ y.run.flags = x.run.flags ||| e.flags ∧ y.run.rep = x.run.rep ∧
      y.run.perf.next = e.pass.next ∧ y.run.perf.parts = e.pass.parts ∧ y.run.perf.out = e.pass.out ∧
      y.run.perf.ones = e.pass.ones ∧ y.run.perf.aux = e.pass.aux := by
  rw [State.retire_performance]
  have wrote := (Entry.Wrote.refl (x.passed (s.taken (qWorld q) x e) e)).outputs (qWorld q) (s.taken (qWorld q) x e) e.outs
  rw [← State.given] at wrote
  dsimp only
  generalize s.given (qWorld q) x e = se at wrote ⊢
  obtain ⟨u, y⟩ := se
  obtain ⟨run, bare, -⟩ := wrote
  replace run : y = (x.passed (s.taken (qWorld q) x e) e).setRun y.run := run
  have flags : y.run.flags = x.run.flags := (congrArg Run.flags bare :)
  have blk : y.run.blkFlags = x.run.blkFlags := (congrArg Run.blkFlags bare :)
  have precise : y.run.precise = x.run.precise := (congrArg Run.precise bare :)
  have trapen : y.run.trapen = x.run.trapen := (congrArg Run.trapen bare :)
  have phase : y.run.phase = x.run.phase := (congrArg Run.phase bare :)
  have rep : y.run.rep = x.run.rep := (congrArg Run.rep bare :)
  have next : y.run.perf.next = e.pass.next := (congrArg (·.perf.next) bare :)
  have parts : y.run.perf.parts = e.pass.parts := (congrArg (·.perf.parts) bare :)
  have out : y.run.perf.out = e.pass.out := (congrArg (·.perf.out) bare :)
  have ones : y.run.perf.ones = e.pass.ones := (congrArg (·.perf.ones) bare :)
  have aux : y.run.perf.aux = e.pass.aux := (congrArg (·.perf.aux) bare :)
  have added : (y.run.addFlags e.flags).blkFlags =
      if x.run.precise then x.run.blkFlags else x.run.blkFlags ||| (e.flags &&& x.run.trapen) := by
    unfold Run.addFlags
    rw [precise, blk, trapen]
  have total : (y.run.addFlags e.flags).flags = x.run.flags ||| e.flags := by rw [← flags]; rfl
  have tag : y.tag = x.tag := by rw [run]; rfl
  by_cases due : (y.run.addFlags e.flags).blkFlags ≠ 0 ∧ (y.run.addFlags e.flags).perf.next % 65536 = 0 ∧
      (y.run.addFlags e.flags).perf.next > 0
  · rw [retireFlags_due due]
    refine ⟨y.setRun { y.run.addFlags e.flags with blkFlags := 0 }, fun _ => ?_, fun none => ?_, ?_, ?_, ?_, tag, phase, total, rep,
      next, parts, out, ones, aux⟩
    · rw [← added, ← tag]
    · rw [← added] at none
      exact absurd due (by rw [show (y.run.addFlags e.flags).perf.next = e.pass.next from next]; exact none)
    all_goals rw [run]; rfl
  · rw [retireFlags_quiet due]
    refine ⟨y.setRun (y.run.addFlags e.flags), fun some => ?_, fun _ => rfl, ?_, ?_, ?_, tag, phase, total, rep, next, parts, out,
      ones, aux⟩
    · rw [← added] at some
      exact absurd some (by rw [← show (y.run.addFlags e.flags).perf.next = e.pass.next from next]; exact due)
    all_goals rw [run]; rfl

/-- A unit that faults on a sound order closes it with the cause. -/
theorem State.unitStop_sound {s : State} {q : Nat} {x : Entry} (sound : x.run.failed = none) (cause sl kind a : Nat) :
    s.unitStop q x false cause sl kind a = (if cause = 8 then s.faultNote q sl kind a else s).setHead q
      (x.setRun (x.run.close cause sl kind a false)) := by
  simp only [State.unitStop, sound, Option.isSome_none, if_neg Bool.false_ne_true]

theorem Env.stopFault_other {v : Env} (op : v.op ≠ .arcread) (cause : Nat) : v.stopFault cause = v.s := by
  unfold Env.stopFault
  split
  · exact absurd ‹_› op
  · rfl

section
variable {s : State} {q : Nat} {x : Entry}

theorem State.elemUnit_wait (next : (⟨s, qWorld q, x, false⟩ : Env).next (x.run.pass false) = .wait) :
    s.elemUnit q x false = s := by
  simp only [State.elemUnit, next]

theorem State.elemUnit_flt {sl k a : Nat} (next : (⟨s, qWorld q, x, false⟩ : Env).next (x.run.pass false) = .flt sl k a) :
    s.elemUnit q x false = s.unitStop q x false 8 sl k a := by
  simp only [State.elemUnit, next]

theorem State.elemUnit_stop {cause a : Nat}
    (next : (⟨s, qWorld q, x, false⟩ : Env).next (x.run.pass false) = .stop cause a) (op : x.ord.op ≠ .arcread) :
    s.elemUnit q x false = s.unitStop q x false cause 0 0 a := by
  simp only [State.elemUnit, next]
  rw [Env.stopFault_other (v := ⟨s, qWorld q, x, false⟩) op]

theorem State.elemUnit_outsFault {e : Eff} {sl k a : Nat}
    (next : (⟨s, qWorld q, x, false⟩ : Env).next (x.run.pass false) = .ok e)
    (room : (⟨s, qWorld q, x, false⟩ : Env).room (x.run.pass false) false e.outs = true)
    (faults : (⟨s, qWorld q, x, false⟩ : Env).outsFault (x.run.pass false) false e.outs = some (sl, k, a)) :
    s.elemUnit q x false = s.unitStop q x false 8 sl k a := by
  simp only [State.elemUnit, next, room, Bool.not_true, Bool.and_false, if_neg Bool.false_ne_true, faults]

theorem State.elemUnit_ok {e : Eff} (next : (⟨s, qWorld q, x, false⟩ : Env).next (x.run.pass false) = .ok e)
    (room : (⟨s, qWorld q, x, false⟩ : Env).room (x.run.pass false) false e.outs = true)
    (sound : (⟨s, qWorld q, x, false⟩ : Env).outsFault (x.run.pass false) false e.outs = none) :
    s.elemUnit q x false = if (x.run.precise && !x.run.passOne && (e.flags &&& x.run.trapen) != 0) = true
      then s.unitStop q x false 9 0 0 0 else s.retire q x false e := by
  simp only [State.elemUnit, next, room, Bool.not_true, Bool.and_false, if_neg Bool.false_ne_true, sound, Bool.not_false,
    Bool.true_and]

end

/-- Settles O26: the outputs keep all of the run but signatures, gathered bits and held writes (`Entry.Wrote`). -/
theorem elementsOfOrdersTakeEffect : Obligations.ElementsOfOrdersTakeEffect := by
  unfold Obligations.ElementsOfOrdersTakeEffect
  intro i s op q x command performs w v p
  have run := Performs.exec_unit command performs
  have next : v.next p = v.unit p := Performs.next_unit performs w
  refine ⟨fun e ok sound room quiet => ?_, fun wait => ?_, fun sl kind a flt clean => ?_,
    fun e sl kind a ok room faults clean => ?_, fun e ok room sound clean traps => ?_, fun cause a stop op clean other => ?_⟩
  · obtain ⟨y, due, quietly, ord, strms, n, tag, phase, flags, rep, next', parts, out, ones, aux⟩ := s.retire_gives q x e
    have retires : exec i s = .next (s.retire q x false e) := by
      rw [run, State.elemUnit_ok (next.trans ok) room sound, if_neg (by rw [quiet]; exact Bool.false_ne_true)]
    refine ⟨(s.given w x e).1, y, fun h => retires.trans (congrArg _ (due h)), fun h => retires.trans (congrArg _ (quietly h)),
      ord, strms, n, tag, phase.trans performs.running, flags, rep, next', parts, out, ones, aux, fun memory slots => ?_⟩
    obtain ⟨relayX, relayY, unsealed⟩ := memory
    exact putOuts_memory (Entry.Wrote.refl (x.passed (s.taken w x e) e)) _
      (fun o ho => by rcases slots o ho with h | h <;> rw [h]; exacts [relayX, relayY]) unsealed
  · rw [run, State.elemUnit_wait (next.trans wait)]
  · rw [run, State.elemUnit_flt (next.trans flt), State.unitStop_sound clean, if_pos rfl]
  · rw [run, State.elemUnit_outsFault (next.trans ok) room faults, State.unitStop_sound clean, if_pos rfl]
  · rw [run, State.elemUnit_ok (next.trans ok) room sound, if_pos traps, State.unitStop_sound clean, if_neg (by decide)]
  · rw [run, State.elemUnit_stop (next.trans stop) op, State.unitStop_sound clean, if_neg other]

end Sys2Proof.Machine

/-! ## The values of element-wise orders (R101, R103, R109 to R120, R151) -/

namespace Sys2Proof.Machine

/-! ### Integers modulo a power of two -/

theorem wrapInt_congr {w : Nat} {x y : Int} (h : x ≡ y [ZMOD ((2 ^ w : Nat) : Int)]) : wrapInt w x = wrapInt w y :=
  congrArg Int.toNat h

theorem wrapInt_natCast (w n : Nat) : wrapInt w (n : Int) = n % 2 ^ w := by
  rw [wrapInt, ← Int.natCast_mod, Int.toNat_natCast]

theorem ETy.toInt_modEq (t : ETy) (a : Nat) : t.toInt a ≡ (a : Int) [ZMOD ((2 ^ t.w : Nat) : Int)] := by
  have plain : ((a % 2 ^ t.w : Nat) : Int) ≡ (a : Int) [ZMOD ((2 ^ t.w : Nat) : Int)] := by
    rw [Int.natCast_mod]
    exact Int.mod_modEq _ _
  cases t with
  | int s w =>
    cases s with
    | false => exact plain
    | true =>
      show toSigned w a ≡ _ [ZMOD ((2 ^ w : Nat) : Int)]
      unfold toSigned
      dsimp only
      split
      · exact plain
      · refine Int.ModEq.trans ?_ plain
        exact Int.modEq_iff_dvd.mpr ⟨1, by show ((a % 2 ^ w : Nat) : Int) - _ = _; ring⟩
  | flt f => exact plain
  | bit => exact plain
  | bad => exact plain

theorem ETy.wrapInt_toInt {t : ETy} {a : Nat} (h : a < 2 ^ t.w) : wrapInt t.w (t.toInt a) = a := by
  rw [wrapInt_congr (t.toInt_modEq a), wrapInt_natCast, Nat.mod_eq_of_lt h]

theorem emod_square_ediv {m : Int} (pos : 0 < m) (p : Int) : p % (m * m) / m = p / m % m := by
  rw [Int.emod_def p, ← Int.ediv_ediv_of_nonneg pos.le, Int.emod_def (p / m),
    show p - m * m * (p / m / m) = p + m * -(m * (p / m / m)) by ring, Int.add_mul_ediv_left _ _ pos.ne']
  ring

theorem two_pow_double (w : Nat) : ((2 ^ (2 * w) : Nat) : Int) = ((2 ^ w : Nat) : Int) * ((2 ^ w : Nat) : Int) := by
  rw [two_mul, pow_add]
  exact Int.natCast_mul _ _

/-- The high half of a double-width product. -/
theorem wideMul_high (t : ETy) (a b : Nat) : (wideMul t a b).2 = wrapInt t.w (t.toInt a * t.toInt b / ((2 ^ t.w : Nat) : Int)) := by
  have pos : (0 : Int) < ((2 ^ t.w : Nat) : Int) := by positivity
  unfold wideMul wrapInt
  dsimp only
  rw [two_pow_double, ← emod_square_ediv pos]
  obtain ⟨n, hn⟩ := Int.eq_ofNat_of_zero_le (Int.emod_nonneg (t.toInt a * t.toInt b) (mul_pos pos pos).ne')
  rw [hn, ← Int.natCast_div, Int.toNat_natCast, Int.toNat_natCast]

/-- The low half of a double-width product. -/
theorem wideMul_low (t : ETy) (a b : Nat) : (wideMul t a b).1 = wrapInt t.w (t.toInt a * t.toInt b) := by
  have pos : (0 : Int) < ((2 ^ t.w : Nat) : Int) := by positivity
  unfold wideMul wrapInt
  dsimp only
  rw [two_pow_double, ← Int.emod_emod_of_dvd (t.toInt a * t.toInt b) (dvd_mul_right ((2 ^ t.w : Nat) : Int) ((2 ^ t.w : Nat) : Int))]
  exact (Int.toNat_emod (Int.emod_nonneg _ (mul_pos pos pos).ne') pos.le).symm

/-! ### The shared operations on types that are not floating -/

section
variable {t : ETy} (integer : ∀ f, t ≠ .flt f)
include integer

theorem addVal_integer (rm : Rnd) (ftz : Bool) (a b : Nat) :
    addVal t rm ftz a b = (wrapInt t.w (t.toInt a + t.toInt b), 0) := by
  have sum : addVal t rm ftz a b = ((a + b) % 2 ^ t.w, 0) := by
    cases t with | flt f => exact absurd rfl (integer f) | _ => rfl
  rw [sum, wrapInt_congr ((t.toInt_modEq a).add (t.toInt_modEq b)), ← Int.natCast_add, wrapInt_natCast]

theorem subVal_integer (rm : Rnd) (ftz : Bool) (a b : Nat) :
    subVal t rm ftz a b = (wrapInt t.w (t.toInt a - t.toInt b), 0) := by
  have difference : subVal t rm ftz a b = (wrapInt t.w ((a : Int) - b), 0) := by
    cases t with | flt f => exact absurd rfl (integer f) | _ => rfl
  rw [difference, wrapInt_congr ((t.toInt_modEq a).sub (t.toInt_modEq b))]

theorem mulVal_integer (rm : Rnd) (ftz : Bool) (a b : Nat) :
    mulVal t rm ftz a b = (wrapInt t.w (t.toInt a * t.toInt b), 0) := by
  have product : mulVal t rm ftz a b = (a * b % 2 ^ t.w, 0) := by
    cases t with | flt f => exact absurd rfl (integer f) | _ => rfl
  rw [product, wrapInt_congr ((t.toInt_modEq a).mul (t.toInt_modEq b)), ← Int.natCast_mul, wrapInt_natCast]

theorem fmaVal_integer (rm : Rnd) (ftz np nc : Bool) (a b d : Nat) :
    fmaVal t rm ftz np nc a b d = (wrapInt t.w ((if np then -(t.toInt a * t.toInt b) else t.toInt a * t.toInt b) +
      (if nc then -t.toInt d else t.toInt d)), 0) := by
  have fused : fmaVal t rm ftz np nc a b d =
      (wrapInt t.w ((if np then -((a * b : Nat) : Int) else (a * b : Nat)) + (if nc then -(d : Int) else d)), 0) := by
    cases t with | flt f => exact absurd rfl (integer f) | _ => rfl
  have product := (t.toInt_modEq a).mul (t.toInt_modEq b)
  rw [← Int.natCast_mul] at product
  have addend := t.toInt_modEq d
  rw [fused]
  congr 1
  refine wrapInt_congr (Int.ModEq.add ?_ ?_)
  · cases np
    · exact product.symm
    · exact product.symm.neg
  · cases nc
    · exact addend.symm
    · exact addend.symm.neg

theorem divVal_integer (rm : Rnd) (ftz : Bool) (a b : Nat) : divVal t rm ftz a b = intDiv t a b := by
  cases t with | flt f => exact absurd rfl (integer f) | _ => rfl

theorem minMaxVal_integer (mx ftz : Bool) {a b : Nat} (ha : a < 2 ^ t.w) (hb : b < 2 ^ t.w) :
    minMaxVal t mx ftz a b =
      (wrapInt t.w (if mx then max (t.toInt a) (t.toInt b) else min (t.toInt a) (t.toInt b)), 0) := by
  have chosen : minMaxVal t mx ftz a b = (if (decide (t.toInt a ≤ t.toInt b)) != mx then a else b, 0) := by
    cases t with | flt f => exact absurd rfl (integer f) | _ => rfl
  rw [chosen]
  by_cases le : t.toInt a ≤ t.toInt b
  · cases mx <;> simp [le, ETy.wrapInt_toInt ha, ETy.wrapInt_toInt hb]
  · have ge : t.toInt b ≤ t.toInt a := by omega
    cases mx <;> simp [le, ge, ETy.wrapInt_toInt ha, ETy.wrapInt_toInt hb]

theorem absVal_integer (a : Nat) : absVal t a = wrapInt t.w (t.toInt a).natAbs := by
  cases t with | flt f => exact absurd rfl (integer f) | _ => rfl

theorem negVal_integer (a : Nat) : negVal t a = wrapInt t.w (-t.toInt a) := by
  cases t with | flt f => exact absurd rfl (integer f) | _ => rfl

theorem cvtVal_integer {tt : ETy} (target : tt.isFlt = false) (rm : Rnd) (ftz : Bool) (a : Nat) :
    cvtVal t tt rm ftz a = (wrapInt tt.w (t.toInt a), 0) := by
  cases t with
  | flt f => exact absurd rfl (integer f)
  | _ => cases tt with
    | flt f => cases target
    | _ => rfl

theorem cvtSatVal_integer (tt : ETy) (rm : Rnd) (ftz : Bool) (a : Nat) :
    cvtSatVal t tt rm ftz a = satInt tt (t.toInt a) := by
  cases t with | flt f => exact absurd rfl (integer f) | _ => rfl

theorem cmpVal_integer (ftz : Bool) (k : Cmp) (a b : Nat) :
    cmpVal t ftz k a b = (k.holds (compare (t.toInt a) (t.toInt b)), 0) := by
  cases t with | flt f => exact absurd rfl (integer f) | _ => rfl

end

theorem Bool.toNat_eq_ite {b : Bool} {p : Prop} [Decidable p] (h : b = true ↔ p) : b.toNat = if p then 1 else 0 := by
  by_cases holds : p
  · rw [if_pos holds, h.mpr holds]; rfl
  · rw [if_neg holds, Bool.eq_false_iff.mpr fun e => holds (h.mp e)]; rfl

/-- The predicates of a compare on two integers. -/
theorem Cmp.holds_compare (x y : Int) :
    (Cmp.holds .eq (compare x y) = true ↔ x = y) ∧ (Cmp.holds .ne (compare x y) = true ↔ x ≠ y) ∧
    (Cmp.holds .lt (compare x y) = true ↔ x < y) ∧ (Cmp.holds .le (compare x y) = true ↔ x ≤ y) ∧
    (Cmp.holds .gt (compare x y) = true ↔ x > y) ∧ (Cmp.holds .ge (compare x y) = true ↔ x ≥ y) := by
  rcases lt_trichotomy x y with h | h | h
  · rw [compare_lt_iff_lt.mpr h]
    simp [Cmp.holds, h.ne, h, h.le, h.not_gt]
  · rw [compare_eq_iff_eq.mpr h]
    simp [Cmp.holds, h]
  · rw [compare_gt_iff_gt.mpr h]
    simp [Cmp.holds, h.ne', h, h.le, h.not_gt]

/-- A compare of two integers, as a number. -/
theorem opVal_cmp_integer {c : ArCtx} {k : Cmp} {a b d : Nat} {p : Prop} [Decidable p] (integer : ∀ f, c.t ≠ .flt f)
    (h : k.holds (compare (c.t.toInt a) (c.t.toInt b)) = true ↔ p) : opVal (.cmp k) c a b d = (if p then 1 else 0, 0) := by
  show ((cmpVal c.t c.ftz k a b).1.toNat, (cmpVal c.t c.ftz k a b).2) = _
  rw [cmpVal_integer integer, Bool.toNat_eq_ite h]

/-- The table's integer values are those of the model. -/
theorem opVal_integer {op : Op} {c : ArCtx} {a b d : Nat} {r : Res} (integer : ∀ f, c.t ≠ .flt f) (ha : a < 2 ^ c.t.w)
    (hb : b < 2 ^ c.t.w) (value : integerValue op c.t c.tt a b d = some r) : opVal op c a b d = r := by
  have smaller : 2 ^ c.t.w - 1 - b < 2 ^ c.t.w := by omega
  have sameA : a % 2 ^ c.t.w = a := Nat.mod_eq_of_lt ha
  have sameB : b % 2 ^ c.t.w = b := Nat.mod_eq_of_lt hb
  obtain ⟨eq, ne, lt, le, gt, ge⟩ := Cmp.holds_compare (c.t.toInt a) (c.t.toInt b)
  unfold integerValue at value
  split at value
  case h_1 => cases value; exact addVal_integer integer ..
  case h_2 => cases value; exact subVal_integer integer ..
  case h_3 => cases value; exact mulVal_integer integer ..
  case h_4 => cases value; exact congrArg (·, 0) (wideMul_low ..)
  case h_5 => cases value; exact congrArg (·, 0) (wideMul_high ..)
  case h_6 => cases value; exact fmaVal_integer integer _ _ false false a b d
  case h_7 => cases value; exact fmaVal_integer integer _ _ false true a b d
  case h_8 =>
    cases value
    rw [show c.t.toInt d - c.t.toInt a * c.t.toInt b = -(c.t.toInt a * c.t.toInt b) + c.t.toInt d by ring]
    exact fmaVal_integer integer _ _ true false a b d
  case h_9 => cases value; exact divVal_integer integer ..
  case h_10 => cases value; exact minMaxVal_integer integer false _ ha hb
  case h_11 => cases value; exact minMaxVal_integer integer true _ ha hb
  case h_12 => cases value; exact congrArg (·, 0) (absVal_integer integer a)
  case h_13 => cases value; exact congrArg (·, 0) (negVal_integer integer a)
  case h_14 => cases value; rfl
  case h_15 => cases value; rfl
  case h_16 => cases value; rfl
  case h_17 =>
    cases value
    simp only [opVal, bits2, sameA, sameB, Nat.mod_eq_of_lt (Nat.and_lt_two_pow a hb)]
  case h_18 =>
    cases value
    simp only [opVal, bits2, sameA, sameB, Nat.mod_eq_of_lt (Nat.or_lt_two_pow ha hb)]
  case h_19 =>
    cases value
    simp only [opVal, bits2, sameA, sameB, Nat.mod_eq_of_lt (Nat.xor_lt_two_pow ha hb)]
  case h_20 => cases value; simp only [opVal, notNat, sameA]
  case h_21 =>
    cases value
    simp only [opVal, bits2, notNat, sameA, sameB, Nat.mod_eq_of_lt smaller, Nat.mod_eq_of_lt (Nat.and_lt_two_pow a smaller)]
  case h_22 => cases value; simp only [opVal, shlNat, sameB]
  case h_23 => cases value; simp only [opVal, shrNat, sameA, sameB]
  case h_24 => cases value; simp only [opVal, sarNat, sameB, Nat.cast_pow, Nat.cast_ofNat]
  case h_25 => cases value; simp only [opVal, rotlNat, sameA, sameB]
  case h_26 => cases value; rfl
  case h_27 => cases value; simp only [opVal, clzNat, sameA]
  case h_28 => cases value; exact congrArg (·, 0) (popNat_eq _ a)
  case h_29 =>
    cases target : c.tt.isFlt with
    | true => simp [target] at value
    | false =>
      simp only [target] at value
      cases value
      exact cvtVal_integer integer target ..
  case h_30 => cases value; exact cvtSatVal_integer integer ..
  case h_31 => cases value; exact opVal_cmp_integer integer eq
  case h_32 => cases value; exact opVal_cmp_integer integer ne
  case h_33 => cases value; exact opVal_cmp_integer integer lt
  case h_34 => cases value; exact opVal_cmp_integer integer le
  case h_35 => cases value; exact opVal_cmp_integer integer gt
  case h_36 => cases value; exact opVal_cmp_integer integer ge
  case h_37 => cases value; exact opVal_cmp_integer integer (by simp [Cmp.holds])
  case h_38 => cases value; exact opVal_cmp_integer integer (by simp [Cmp.holds])
  case h_39 => cases value

/-- The table's floating values are those of the model. -/
theorem opVal_floating {op : Op} {c : ArCtx} {f : Fmt} {a b d : Nat} {r : Res} (floating : c.t = .flt f)
    (value : floatValue op f c a b d = some r) : opVal op c a b d = r := by
  obtain ⟨t, tt, rm, ftz⟩ := c
  replace floating : t = .flt f := floating
  subst floating
  unfold floatValue at value
  split at value
  case h_13 =>
    cases tt <;> cases value <;> rfl
  all_goals cases value <;> rfl

/-! ### The elements of element-wise orders -/

/-- The operations to which the tables give a value. -/
def Op.Tabled (op : Op) : Prop :=
  (∃ t tt a b d r, integerValue op t tt a b d = some r) ∨ ∃ f c a b d r, floatValue op f c a b d = some r

theorem Env.unit_eq_mapElem {v : Env} (p : Pass) (tabled : v.op.Tabled) (other : v.op ≠ .select) : v.unit p = v.mapElem p := by
  unfold Env.unit
  split
  case h_1 op => exact absurd op other
  case h_29 => rfl
  all_goals
    rw [‹v.op = _›] at tabled
    obtain ⟨_, _, _, _, _, _, none⟩ | ⟨_, _, _, _, _, _, none⟩ := tabled <;> cases none

theorem floatValue_select (f : Fmt) (c : ArCtx) (a b d : Nat) : floatValue .select f c a b d = none := rfl

/-- Four operands that can be read. -/
theorem readAll_ok (a b d k : Nat) (ra rb rc rk : List (Nat × Nat)) :
    readAll [(0, .ok a ra), (1, .ok b rb), (2, .ok d rc), (5, .ok k rk)] = .ok [a, b, d, k] (ra ++ (rb ++ (rc ++ (rk ++ [])))) :=
  rfl

/-- An enabled element of the performance. -/
theorem Env.mapElem_enabled {v : Env} {p : Pass} {a b d k : Nat} {ra rb rc rk : List (Nat × Nat)} (performs : v.rep = false)
    (control : v.kbit p.next = .ok k rk) (enabled : k % 2 = 1) (readA : v.rd 0 p.next = (0, .ok a ra))
    (readB : v.rd 1 p.next = (1, .ok b rb)) (readC : v.rd 2 p.next = (2, .ok d rc)) :
    v.mapElem p = .ok ⟨{ p.step with
        ones := p.ones + (if (match v.op with | .cmp _ => true | _ => false) then (opVal v.op v.ctx a b d).1 else 0) },
      (opVal v.op v.ctx a b d).2, v.out 6 p.next (some (opVal v.op v.ctx a b d).1) ++
        (if v.op == .mulwide then v.out 7 p.next (some (wideMul v.ctx.t a b).2) else []), ra ++ (rb ++ (rc ++ (rk ++ []))), false, true⟩ := by
  have on : (k % 2 == 1) = true := by rw [enabled]; rfl
  have plain : v.xf false = none := by rw [Env.xf, performs]; rfl
  simp only [Env.mapElem, control, on, Bool.or_true, if_true, readA, readB, readC, readAll_ok, plain]
  rfl

/-- A disabled element of the performance that is no compare. -/
theorem Env.mapElem_disabled {v : Env} {p : Pass} {a b d k : Nat} {ra rb rc rk : List (Nat × Nat)}
    (value : ∀ k, v.op ≠ .cmp k) (narrow : v.op ≠ .mulwide)
    (control : v.kbit p.next = .ok k rk) (disabled : k % 2 = 0) (readA : v.rd 0 p.next = (0, .ok a ra))
    (passB : v.pass 1 p.next = (1, .ok b rb)) (passC : v.pass 2 p.next = (2, .ok d rc)) :
    v.mapElem p = .ok ⟨p.step, 0, v.out 6 p.next (some (if v.ty 6 = v.ctx.t then a else zeroOf (v.ty 6))),
      ra ++ (rb ++ (rc ++ (rk ++ []))), false, true⟩ := by
  have off : (k % 2 == 1) = false := by rw [disabled]; rfl
  have single : (v.op == Op.mulwide) = false := by simpa using narrow
  simp only [Env.mapElem, control, off, single, Bool.not_false, Bool.and_true, Bool.or_false, beq_self_eq_true,
    if_true, readA, Nat.reduceBEq, if_neg Bool.false_ne_true, passB, passC, readAll_ok, RdAll.lift, List.append_nil]
  rfl

/-- Settles O27. -/
theorem elementwiseOrdersGiveTheirValues : Obligations.ElementwiseOrdersGiveTheirValues := by
  unfold Obligations.ElementwiseOrdersGiveTheirValues
  refine ⟨fun op c a b d r integer ha hb _ _ value => opVal_integer integer ha hb value,
    fun op c f a b d r floating value => opVal_floating floating value,
    fun v p a b d k ra rb rc rk performs valued control enabled readA readB readC => ?_,
    fun v p a b d k ra rb rc rk _ valued other narrow value control disabled readA passB passC => ?_⟩
  · have mapped : v.unit p = v.mapElem p := by
      obtain ⟨r, ⟨value, other⟩ | ⟨f, -, value⟩⟩ := valued
      · exact Env.unit_eq_mapElem p (.inl ⟨_, _, _, _, _, _, value⟩) other
      · exact Env.unit_eq_mapElem p (.inr ⟨_, _, _, _, _, _, value⟩) fun select => by
          rw [select, floatValue_select] at value
          cases value
    refine ⟨_, mapped.trans (Env.mapElem_enabled performs control enabled readA readB readC), rfl, rfl, rfl, ?_, ?_⟩
    · simp only [beq_iff_eq]
    · dsimp only
      generalize opVal v.op v.ctx a b d = r
      cases v.op <;> rfl
  · have mapped : v.unit p = v.mapElem p := by
      obtain ⟨r, value | ⟨f, -, value⟩⟩ := valued
      · exact Env.unit_eq_mapElem p (.inl ⟨_, _, _, _, _, _, value⟩) other
      · exact Env.unit_eq_mapElem p (.inr ⟨_, _, _, _, _, _, value⟩) other
    exact ⟨_, mapped.trans (Env.mapElem_disabled value narrow control disabled readA passB passC), rfl, rfl, rfl⟩

end Sys2Proof.Machine

/-! ## The life of an order on its engine (R91, R202 to R234, R298 to R302) -/

namespace Sys2Proof.Machine

/-! ### Queues -/

@[simp] theorem State.queue_setQueue_same (s : State) (q : Nat) (x : Queue) : (s.setQueue q x).queue q = x := Tab.get_set_same

theorem State.queue_setQueue_other (s : State) {q k : Nat} (x : Queue) (h : k ≠ q) : (s.setQueue q x).queue k = s.queue k :=
  Tab.get_set_other h

@[simp] theorem State.head_setHead (s : State) (q : Nat) (x : Entry) : (s.setHead q x).head q = some x := by
  unfold State.head State.setHead
  rw [State.queue_setQueue_same]
  rfl

theorem State.queue_setHead_other (s : State) {q k : Nat} (x : Entry) (h : k ≠ q) : (s.setHead q x).queue k = s.queue k :=
  State.queue_setQueue_other s _ h

/-! ### Relays alone -/

/-- `t` is `s` with other relays. -/
def State.RelaysMoved (s t : State) : Prop := ∃ rs, t = { s with relays := rs }

theorem State.RelaysMoved.refl (s : State) : s.RelaysMoved s := ⟨s.relays, rfl⟩

theorem State.RelaysMoved.trans {s t u : State} (h : s.RelaysMoved t) (k : t.RelaysMoved u) : s.RelaysMoved u := by
  obtain ⟨rs, rfl⟩ := h
  obtain ⟨rs', rfl⟩ := k
  exact ⟨rs', rfl⟩

theorem State.relaysMoved_setRelay (s : State) (r : Nat) (x : Relay) : s.RelaysMoved (s.setRelay r x) := ⟨_, rfl⟩

theorem State.relaysMoved_foldl {β : Type} {f : State → β → State} (step : ∀ (s : State) b, s.RelaysMoved (f s b)) (bs : List β) (s : State) :
    s.RelaysMoved (bs.foldl f s) := by
  induction bs generalizing s with
  | nil => exact .refl s
  | cons b bs ih => exact (step s b).trans (ih _)

theorem State.relaysMoved_bindRelays (s : State) (q : Nat) (x : Entry) (rep : Option Bool) :
    s.RelaysMoved (s.bindRelays q x rep) := by
  refine State.relaysMoved_foldl (fun s y => ?_) _ _
  split
  · split
    · exact s.relaysMoved_setRelay _ _
    · exact s.relaysMoved_setRelay _ _
  · exact .refl s

theorem State.relaysMoved_relayBacks (s : State) (back : List (Nat × Nat)) :
    s.RelaysMoved (back.foldl (fun s y => s.relayBack y.1 y.2) s) :=
  State.relaysMoved_foldl (fun s (y : Nat × Nat) => s.relaysMoved_setRelay y.1 _) _ _

/-! ### Start -/

section
variable {s : State} {q : Nat} {x : Entry}

theorem State.tryStart_mayRun (h : MayRun s q x) :
    s.tryStart q = if x.run.phase == .queued then s.startOrder q x else s.resumeOrder q x := by
  have loss : s.noteLoss (q / 2) = s := by
    simp only [State.noteLoss, h.unmarked]
  simp only [State.tryStart, h.head, h.still, h.alone, h.runnable, h.entitled, h.paired, loss, Bool.not_true, Bool.or_false,
    if_neg Bool.false_ne_true]

theorem Phase.stopped_or_parked {p : Phase} (still : p.busy = false) (begun : p ≠ .queued) : p = .stopped ∨ p = .parked := by
  cases p with
  | queued => exact absurd rfl begun
  | running => cases still
  | closing => cases still
  | stopped => exact .inl rfl
  | parked => exact .inr rfl

theorem State.startOrder_ends {st : Nat} (h : s.startEnd q x = some st) : s.startOrder q x = s.finish q st := by
  simp only [State.startOrder, h]

theorem State.startEnd_empty (h : x.n = 0) : s.startEnd q x = some 1 := if_pos h

/-- The state in which the head order begins to run: its seal unit is held, its relay ends are bound. -/
def State.equipped (s : State) (q : Nat) (x : Entry) : State :=
  (match x.unit with | some u => s.seaHold u q 1 x.tag | none => s).bindRelays q x
    (some (s.toReprise (q / 2) (qWorld q) x.ord))

/-- The head order as it begins to run, its settings not yet captured. -/
def State.started (s : State) (q : Nat) (x : Entry) : Entry :=
  { x with nz := (s.equipped q x).rowTotal q x }.setRun { x.run with reprised := s.toReprise (q / 2) (qWorld q) x.ord }

theorem State.startOrder_runs (h : s.startEnd q x = none) :
    s.startOrder q x = (s.equipped q x).setHead q ((s.started q x).setRun ((s.equipped q x).capture q (s.started q x) true)) := by
  simp only [State.startOrder, h]
  rfl

/-- What holds of the state in which an order begins to run. -/
theorem State.equipped_keeps (s : State) (q : Nat) (x : Entry) :
    (s.equipped q x).mem = s.mem ∧ (s.equipped q x).hostMem = s.hostMem ∧ (s.equipped q x).cals = s.cals ∧
    (s.equipped q x).queues = s.queues ∧ ∀ u, x.unit = some u → ((s.equipped q x).sea u).holder = some q := by
  unfold State.equipped
  obtain ⟨rs, moved⟩ := State.relaysMoved_bindRelays (match x.unit with | some u => s.seaHold u q 1 x.tag | none => s) q x
    (some (s.toReprise (q / 2) (qWorld q) x.ord))
  rw [moved]
  cases x.unit with
  | none => exact ⟨rfl, rfl, rfl, rfl, nofun⟩
  | some u =>
    refine ⟨rfl, rfl, rfl, rfl, fun v held => ?_⟩
    obtain rfl : u = v := Option.some.inj held
    exact congrArg SeaSt.holder (Tab.get_set_same (d := seaDefault) (t := s.seals))

/-! ### Resumption -/

theorem State.resumeOrder_unread (h : s.readRecord q x = none) : s.resumeOrder q x = (s.recordUe q x).finish q 8 := by
  simp only [State.resumeOrder, h]

/-- The action with which a parked or stopped order goes on. -/
def Entry.action (x : Entry) : Nat := if x.run.phase == .stopped then x.run.resume.getD 0 else 0

theorem Entry.action_stopped {a : Nat} (stopped : x.run.phase = .stopped) (resume : x.run.resume = some a) : x.action = a := by
  simp [Entry.action, stopped, resume]

theorem Entry.action_other {a : Nat} (pos : 0 < a) (h : x.run.phase = .stopped → x.run.resume ≠ some a) : x.action ≠ a := by
  unfold Entry.action
  by_cases stopped : x.run.phase = .stopped
  · cases resume : x.run.resume with
    | none => simp [stopped]; omega
    | some b =>
      have other : b ≠ a := fun e => h stopped (e ▸ resume)
      simpa [stopped] using other
  · simp [stopped]
    omega

/-- The run with which an order goes on from its record, and the relay bytes that it reads again. -/
def State.recovered (s : State) (q : Nat) (x : Entry) (words : List Nat) : Run × List (Nat × Nat) :=
  if x.action = 2 then x.skip (s.loadRecord q x words) else (s.loadRecord q x words, [])

theorem State.resumeOrder_abandons {words : List Nat} (h : s.readRecord q x = some words) (abandon : x.action = 3) :
    s.resumeOrder q x = (s.setHead q (x.setRun { x.run with heldP := [], heldR := [] })).finish q 7 := by
  simp only [Entry.action] at abandon
  simp only [State.resumeOrder, h, abandon, if_true]

/-- The relays as they stand when the order goes on. -/
def State.backed (s : State) (q : Nat) (x : Entry) (words : List Nat) : State :=
  (s.recovered q x words).2.foldl (fun s y => s.relayBack y.1 y.2) s

/-- The head order as it goes on, its settings not yet captured. -/
def State.resumed (s : State) (q : Nat) (x : Entry) (words : List Nat) : Entry :=
  x.setRun { (s.recovered q x words).1 with passOne := x.action == 1 }

theorem State.resumeOrder_runs {words : List Nat} (h : s.readRecord q x = some words) (action : x.action ≠ 3)
    (begun : x.run.begun = true) :
    ∃ fresh, s.resumeOrder q x = (s.backed q x words).setHead q
      ((s.resumed q x words).setRun ((s.backed q x words).capture q (s.resumed q x words) fresh)) := by
  refine ⟨x.run.phase == .stopped && decide (x.action < 2), ?_⟩
  simp only [Entry.action] at action
  simp only [State.resumeOrder, h, if_neg action, begun, Bool.not_true, if_neg Bool.false_ne_true]
  rfl

end

/-- Settles O29. -/
theorem ordersStartAndResume : Obligations.OrdersStartAndResume := by
  unfold Obligations.OrdersStartAndResume
  intro s e w q
  have exec_start : exec (.orderStart e w) s = .next (s.tryStart q) := rfl
  rw [exec_start]
  refine ⟨fun none => ?_, fun x head stays => ?_, fun x may queued => ?_, fun x may begun => ?_⟩
  · simp only [State.tryStart, none]
  · rcases stays with busy | idle | out
    · simp [State.tryStart, head, busy]
    · simp [State.tryStart, head, idle]
    · simp [State.tryStart, head, out]
  · rw [State.tryStart_mayRun may, queued, if_pos (beq_self_eq_true _)]
    refine ⟨fun st ends => by rw [State.startOrder_ends ends], State.startEnd_empty, fun runs => ?_⟩
    obtain ⟨mem, hostMem, cals, queues, unit⟩ := s.equipped_keeps q x
    refine ⟨_, _, congrArg _ (State.startOrder_runs runs), State.head_setHead .., rfl, rfl, rfl, rfl, rfl, rfl, rfl, rfl, mem, hostMem, cals,
      fun k other => ?_, unit⟩
    rw [State.queue_setHead_other _ _ other]
    exact congrArg (fun t => Tab.get queueDefault t k) queues
  · have goes : s.tryStart q = s.resumeOrder q x := by
      rw [State.tryStart_mayRun may]
      exact if_neg (by simpa using begun)
    rw [goes]
    refine ⟨fun unread => by rw [State.resumeOrder_unread unread], fun words read => ⟨fun stopped abandon => ?_,
      fun stopped skip started => ?_, fun other started => ?_⟩⟩
    · rw [State.resumeOrder_abandons read (Entry.action_stopped stopped abandon)]
    · have action := Entry.action_stopped stopped skip
      have recovered : s.recovered q x words = x.skip (s.loadRecord q x words) := if_pos action
      obtain ⟨fresh, run⟩ := State.resumeOrder_runs read (by rw [action]; decide) started
      obtain ⟨rs, moved⟩ := s.relaysMoved_relayBacks (s.recovered q x words).2
      refine ⟨_, _, congrArg _ run, State.head_setHead .., rfl, rfl, rfl, ?_, ?_, ?_, ?_, rfl, ?_⟩
      · rw [← recovered]; rfl
      · rw [← recovered]; rfl
      · rw [← recovered]; rfl
      · rw [← recovered]; rfl
      · exact (congrArg State.mem moved :)
    · have recovered : s.recovered q x words = (s.loadRecord q x words, []) :=
        if_neg (Entry.action_other (by decide) fun stopped => (other stopped).2)
      obtain ⟨fresh, run⟩ := State.resumeOrder_runs read (Entry.action_other (by decide) fun stopped => (other stopped).1) started
      obtain ⟨rs, moved⟩ := s.relaysMoved_relayBacks (s.recovered q x words).2
      refine ⟨_, _, congrArg _ run, State.head_setHead .., rfl, rfl, rfl, ?_, rfl, ?_, ?_, fun k ne => ?_⟩
      · rw [show (s.loadRecord q x words) = (s.recovered q x words).1 by rw [recovered]]; rfl
      · rw [show (s.loadRecord q x words) = (s.recovered q x words).1 by rw [recovered]]; rfl
      · exact (congrArg State.mem moved :)
      · rw [State.queue_setHead_other _ _ ne]
        exact (congrArg (fun t => State.queue t k) moved :)

/-! ### End, record, watchdog and comparison -/

theorem satAdd_comm_one (n limit : Nat) : satAdd n 1 limit = min limit (n + 1) := Nat.min_comm ..

section
variable {s : State} {q : Nat} {x : Entry}

theorem State.encoreDecide_stays (head : s.head q = some x)
    (h : x.over = false ∨ x.run.failed = none ∨ s.rb rRepPctl fRepPctlEncore = false) : s.encoreDecide q = s := by
  rcases h with h | h | h <;> simp [State.encoreDecide, head, h]

theorem State.complete_sound (head : s.head q = some x) (sound : x.run.failed = none) :
    s.complete q = if x.over then s.finish q (if x.run.perf.cut then 2 else 0) else s := by
  simp only [State.complete, State.encoreDecide_stays head (.inr (.inl sound)), head, sound, Option.isNone_none, Bool.true_or,
    Bool.and_true, Entry.endStatus, Option.isSome_none, if_neg Bool.false_ne_true]

theorem State.recordWritten_parks (head : s.head q = some x) (closing : x.run.phase = .closing) (compared : x.run.pairs = [])
    (parks : x.run.cause < 6) :
    let seq := min 255 (x.run.recSeq + 1)
    let words := x.recWords seq ++ [recCheck (x.recWords seq) x.carry]
    let t := x.carry.foldl (fun t c => t.pokeOwn (portCode q 6) .free (s.recArea q + c.1) c.2)
      (s.pokeOwn (portCode q 6) .free (s.recArea q) (words.map (leBytes 8)).flatten)
    s.recordWritten q = (t.setHead q (x.setRun { x.run with phase := .parked, recSeq := seq, words := words })).settle (q / 2) := by
  have low : decide (x.run.cause ≥ 6) = false := decide_eq_false (by omega)
  simp only [State.recordWritten, head, closing, compared, List.isEmpty_nil, low, satAdd_comm_one]
  simp

theorem State.recordWritten_stays (head : s.head q = some x) (h : x.run.phase ≠ .closing ∨ x.run.pairs ≠ []) :
    s.recordWritten q = s := by
  have waits : x.run.phase ≠ .closing ∨ (!x.run.pairs.isEmpty) = true := by simpa using h
  simp only [State.recordWritten, head, if_pos waits]

theorem State.suspend_running (head : s.head q = some x) (running : x.run.phase = .running) (sound : x.run.failed = none) :
    s.suspend q 7 = s.setHead q (x.setRun (x.run.close 7 0 0 0 false)) := by
  simp [State.suspend, head, running, sound]

theorem State.stallExpiry_due (head : s.head q = some x) (watched : s.watched q x = true) (sound : x.run.failed = none)
    (late : x.run.wdLimit ≤ x.run.wdCount) (dry : s.portBytes x ≤ x.run.wdSeen) :
    s.stallExpiry q = s.setHead q (x.setRun (x.run.close 7 0 0 0 false)) := by
  obtain ⟨⟨running, limited⟩, -⟩ : (x.run.phase = .running ∧ x.run.wdLimit ≠ 0) ∧ s.arcWaits q x = false := by
    simpa [State.watched] using watched
  simp [State.stallExpiry, head, watched, Nat.pos_of_ne_zero limited, late, dry, State.suspend_running head running sound]

theorem State.stallExpiry_stays (head : s.head q = some x)
    (h : s.watched q x = false ∨ x.run.wdCount < x.run.wdLimit ∨ x.run.wdSeen < s.portBytes x) : s.stallExpiry q = s := by
  rcases h with h | h | h
  · simp [State.stallExpiry, head, h]
  · simp [State.stallExpiry, head, Nat.not_le.mpr h]
  · simp [State.stallExpiry, head, Nat.not_le.mpr h]

section
variable (head : s.head q = some x) (ended : x.over = true) (failed : x.run.failed ≠ none) (asks : x.run.encored = false)
  (alone : (s.encore.any fun en => en.q == q) = false) (enabled : s.rb rRepPctl fRepPctlEncore = true)
include head ended failed asks alone enabled

theorem State.encoreDecide_excluded (barred : x.encorable = false) :
    s.encoreDecide q = (s.setHead q (x.setRun { x.run with encored := true })).encReport (q / 2) x.tag 6 0 := by
  simp [State.encoreDecide, head, ended, failed, asks, alone, enabled, barred]

theorem State.encoreDecide_unspared (may : x.encorable = true) (none : s.encoreSpare (q / 2) = none) :
    s.encoreDecide q = (s.setHead q (x.setRun { x.run with encored := true })).encReport (q / 2) x.tag 7 0 := by
  simp [State.encoreDecide, head, ended, failed, asks, alone, enabled, may, none]

theorem State.encoreDecide_starts {p : Nat} (may : x.encorable = true) (spare : s.encoreSpare (q / 2) = some p) :
    s.encoreDecide q = { s.encReport (q / 2) x.tag 1 p with encore := s.encore ++ [⟨q, p⟩] } := by
  simp [State.encoreDecide, head, ended, failed, asks, alone, enabled, may, spare]

end

theorem State.compare_idle (head : s.head q = some x) (none : x.run.pairs = []) (err : Nat) : s.compare q err = s := by
  simp only [State.compare, head, none]

/-- The comparator's decision on the oldest pair. -/
theorem State.compare_served {p : SigPair} {ps : List SigPair} {k : Nat} (head : s.head q = some x)
    (pairs : x.run.pairs = p :: ps) (serving : s.serving (s.engQuad (q / 2)) = some k) (err : Nat) :
    let y := x.setRun { x.run with pairs := ps }
    let t := (s.setHead q y).addRf (rRepCcount k) fRepCcountCompares 1
    s.compare q err = if p.p ≠ p.r ^^^ err ∨ t.rb (rRepProofrep k) fRepProofrepMissed
      then t.mismatch q k y { p with r := p.r ^^^ err } else t := by
  intro y t
  have served : (s.setHead q y).serving ((s.setHead q y).engQuad (q / 2)) = some k := serving
  simp only [State.compare, head, pairs]
  simp only [show (s.setHead q (x.setRun { x.run with pairs := ps })).serving
    ((s.setHead q (x.setRun { x.run with pairs := ps })).engQuad (q / 2)) = some k from serving]
  rfl

end

/-- An encore that has a result settles the question of its order, and touches no memory. -/
theorem State.encoreOff_settles {s : State} {en : Encore} {rest : List Encore} {x : Entry} (encores : s.encore = en :: rest)
    (head : s.head en.q = some x) (tag res : Nat) :
    (s.encoreOff en tag res).encore = rest ∧ (s.encoreOff en tag res).head en.q = some (x.setRun { x.run with encored := true }) ∧
    (s.encoreOff en tag res).mem = s.mem := by
  have found : State.head { s with encore := s.encore.erase en } en.q = some x := head
  have first : s.encore.erase en = rest := by
    rw [encores, List.erase_cons_head]
  unfold State.encoreOff
  simp only [found]
  exact ⟨first, State.head_setHead { s with encore := s.encore.erase en } en.q (x.setRun { x.run with encored := true }), rfl⟩

theorem State.encoreEndNow_settles {s : State} {en : Encore} {rest : List Encore} {x : Entry} {p : SigPair}
    (encores : s.encore = en :: rest) (head : s.head en.q = some x) (failed : x.run.failed = some p) (err : Nat) :
    ∃ res, s.encoreEndNow err = s.encoreOff en x.tag res := by
  simp only [State.encoreEndNow, encores, head, failed]
  exact ⟨_, rfl⟩

/-! ### ENG.CPL and ENG.CPLERR -/

/-- ENG.CPL shows a completion. -/
def State.cplShown (s : State) (e w tag status flags : Nat) : State :=
  (((s.setRf (rEngCpl e w) fEngCplTag tag).setRf (rEngCpl e w) fEngCplStatus status).setRf (rEngCpl e w) fEngCplFlags flags).addRf
    (rEngCpl e w) fEngCplCount 1

/-- ENG.CPLERR takes a completion that is not DONE. -/
def State.cplErred (s : State) (e w tag status flags : Nat) : State :=
  (((s.setRf (rEngCplerr e w) fEngCplerrTag tag).setRf (rEngCplerr e w) fEngCplerrStatus status).setRf (rEngCplerr e w)
    fEngCplerrFlags flags).setRf (rEngCplerr e w) fEngCplerrValid 1

theorem cpl_ne_cplerr (e w : Nat) : rEngCpl e w ≠ rEngCplerr e w := by
  show 0xC18 + 0x100000 * e + 0x100 * w ≠ 0xC20 + 0x100000 * e + 0x100 * w
  omega

section
variable (s : State) (e w : Nat) {tag status flags : Nat}

theorem State.cplShown_fields (ht : tag < 2 ^ 16) (hs : status < 16) (hf : flags < 32) :
    let t := s.cplShown e w tag status flags
    t.rf (rEngCpl e w) fEngCplTag = tag ∧ t.rf (rEngCpl e w) fEngCplStatus = status ∧ t.rf (rEngCpl e w) fEngCplFlags = flags ∧
    t.rf (rEngCpl e w) fEngCplCount = (s.rf (rEngCpl e w) fEngCplCount + 1) % 2 ^ fEngCplCount.w := by
  dsimp only [State.cplShown, State.addRf]
  refine ⟨?_, ?_, ?_, ?_⟩
  · rw [State.rf_setRf_other _ _ (.inr (by decide)), State.rf_setRf_other _ _ (.inr (by decide)),
      State.rf_setRf_other _ _ (.inr (by decide)), State.rf_setRf_same _ _ _ (by decide)]
    exact Nat.mod_eq_of_lt ht
  · rw [State.rf_setRf_other _ _ (.inr (by decide)), State.rf_setRf_other _ _ (.inr (by decide)),
      State.rf_setRf_same _ _ _ (by decide)]
    exact Nat.mod_eq_of_lt (Nat.lt_trans hs (by decide))
  · rw [State.rf_setRf_other _ _ (.inr (by decide)), State.rf_setRf_same _ _ _ (by decide)]
    exact Nat.mod_eq_of_lt hf
  · rw [State.rf_setRf_same _ _ _ (by decide), State.rf_setRf_other _ _ (.inr (by decide)),
      State.rf_setRf_other _ _ (.inr (by decide)), State.rf_setRf_other _ _ (.inr (by decide))]

theorem State.cplShown_cplerr (tag status flags : Nat) :
    (s.cplShown e w tag status flags).reg (rEngCplerr e w) = s.reg (rEngCplerr e w) := by
  have other := (cpl_ne_cplerr e w).symm
  dsimp only [State.cplShown, State.addRf]
  rw [State.reg_setRf_other _ _ _ other, State.reg_setRf_other _ _ _ other, State.reg_setRf_other _ _ _ other,
    State.reg_setRf_other _ _ _ other]

theorem State.cplErred_cpl (tag status flags : Nat) (f : FP) :
    (s.cplErred e w tag status flags).rf (rEngCpl e w) f = s.rf (rEngCpl e w) f := by
  have other := cpl_ne_cplerr e w
  dsimp only [State.cplErred, State.rf]
  rw [State.reg_setRf_other _ _ _ other, State.reg_setRf_other _ _ _ other, State.reg_setRf_other _ _ _ other,
    State.reg_setRf_other _ _ _ other]

theorem State.cplErred_fields (ht : tag < 2 ^ 16) (hs : status < 16) :
    let t := s.cplErred e w tag status flags
    t.rb (rEngCplerr e w) fEngCplerrValid = true ∧ t.rf (rEngCplerr e w) fEngCplerrTag = tag ∧
    t.rf (rEngCplerr e w) fEngCplerrStatus = status := by
  dsimp only [State.cplErred]
  refine ⟨State.rb_of_one (State.rf_setRf_same _ _ _ (by decide)), ?_, ?_⟩
  · rw [State.rf_setRf_other _ _ (.inr (by decide)), State.rf_setRf_other _ _ (.inr (by decide)),
      State.rf_setRf_other _ _ (.inr (by decide)), State.rf_setRf_same _ _ _ (by decide)]
    exact Nat.mod_eq_of_lt ht
  · rw [State.rf_setRf_other _ _ (.inr (by decide)), State.rf_setRf_other _ _ (.inr (by decide)),
      State.rf_setRf_same _ _ _ (by decide)]
    exact Nat.mod_eq_of_lt (Nat.lt_trans hs (by decide))

theorem State.cplWrite_done (tag flags : Nat) : s.cplWrite e w tag 0 flags = s.cplShown e w tag 0 flags := rfl

theorem State.cplWrite_first (bad : status ≠ 0) (free : s.rb (rEngCplerr e w) fEngCplerrValid = false) :
    s.cplWrite e w tag status flags = (s.cplShown e w tag status flags).cplErred e w tag status flags := by
  have valid : (s.cplShown e w tag status flags).rb (rEngCplerr e w) fEngCplerrValid = false := by
    unfold State.rb State.rf at free ⊢
    rw [State.cplShown_cplerr, free]
  exact (if_neg bad).trans (if_neg (by rw [← Bool.not_eq_true] at valid; exact valid))

theorem State.cplWrite_next (bad : status ≠ 0) (taken : s.rb (rEngCplerr e w) fEngCplerrValid = true) :
    s.cplWrite e w tag status flags = (s.cplShown e w tag status flags).setRf (rEngCplerr e w) fEngCplerrOver 1 := by
  have valid : (s.cplShown e w tag status flags).rb (rEngCplerr e w) fEngCplerrValid = true := by
    unfold State.rb State.rf at taken ⊢
    rw [State.cplShown_cplerr, taken]
  exact (if_neg bad).trans (if_pos valid)

/-- The fields of ENG.CPL after a completion. -/
theorem State.cplWrite_shows (ht : tag < 2 ^ 16) (hs : status < 16) (hf : flags < 32) :
    let t := s.cplWrite e w tag status flags
    t.rf (rEngCpl e w) fEngCplTag = tag ∧ t.rf (rEngCpl e w) fEngCplStatus = status ∧ t.rf (rEngCpl e w) fEngCplFlags = flags ∧
    t.rf (rEngCpl e w) fEngCplCount = (s.rf (rEngCpl e w) fEngCplCount + 1) % 2 ^ fEngCplCount.w := by
  have shown := s.cplShown_fields e w ht hs hf
  by_cases bad : status = 0
  · subst bad
    exact shown
  · dsimp only at shown ⊢
    cases valid : s.rb (rEngCplerr e w) fEngCplerrValid with
    | false =>
      rw [State.cplWrite_first s e w bad valid]
      simp only [State.cplErred_cpl]
      exact shown
    | true =>
      rw [State.cplWrite_next s e w bad valid]
      simp only [State.rf_setRf_other _ _ (.inl (cpl_ne_cplerr e w))]
      exact shown

end

/-- Settles O30. -/
theorem ordersEndAndReport : Obligations.OrdersEndAndReport := by
  unfold Obligations.OrdersEndAndReport
  refine ⟨fun s e w => ?_, fun s err => ⟨fun none => ?_, fun en rest x p encores head failed => ?_⟩,
    fun s e w tag status flags ht hs hf => ?_⟩
  · intro q
    have completes : exec (.orderComplete e w) s = .next (s.complete q) := rfl
    have records : exec (.recordWritten e w) s = .next (s.recordWritten q) := rfl
    have expires : exec (.stallWatchdogExpiry e w) s = .next (s.stallExpiry q) := rfl
    have compares (err) : exec (.signatureCompare e w err) s = .next (s.compare q err.toNat) := rfl
    have decides : exec (.encoreStart e w) s = .next (s.encoreDecide q) := rfl
    refine ⟨fun x head sound => ⟨fun ended => ?_, fun going => ?_⟩, fun x head closing compared parks => ?_,
      fun x head stays => ?_, fun x head watched sound late dry => ?_, fun x head stays => ?_,
      fun x p ps k err head pairs serving => ⟨fun same sure => ?_, fun differs => ?_⟩, fun x err head none => ?_,
      fun x head stays => ?_, fun x head ended failed asks alone enabled may => ⟨fun p spare => ?_, fun none => ?_⟩,
      fun x head ended failed asks alone enabled barred => ?_⟩
    · rw [completes, State.complete_sound head sound, if_pos ended]
    · rw [completes, State.complete_sound head sound, going, if_neg Bool.false_ne_true]
    · exact records.trans (congrArg _ (State.recordWritten_parks head closing compared parks))
    · rw [records, State.recordWritten_stays head stays]
    · rw [expires, State.stallExpiry_due head watched sound late dry]
    · rw [expires, State.stallExpiry_stays head stays]
    · refine (compares err).trans (congrArg _ ((State.compare_served head pairs serving err.toNat).trans (if_neg ?_)))
      rintro (differs | missed)
      · exact differs same
      · have other : rRepProofrep k ≠ rRepCcount k := by
          show 0x1500048 + 0x10000 * k ≠ 0x1500018 + 0x10000 * k
          omega
        rw [State.rb, State.addRf, State.rf_setRf_other _ _ (.inl other)] at missed
        exact Bool.false_ne_true (sure.symm.trans missed)
    · exact (compares err).trans (congrArg _ ((State.compare_served head pairs serving err.toNat).trans (if_pos (.inl differs))))
    · rw [compares, State.compare_idle head none]
    · rw [decides, State.encoreDecide_stays head stays]
    · rw [decides, State.encoreDecide_starts head ended failed asks alone enabled may spare]
    · rw [decides, State.encoreDecide_unspared head ended failed asks alone enabled may none]
    · rw [decides, State.encoreDecide_excluded head ended failed asks alone enabled barred]
  · show Host.Outcome.next (s.encoreEndNow err.toNat) = _
    simp only [State.encoreEndNow, none]
  · obtain ⟨res, run⟩ := State.encoreEndNow_settles encores head failed err.toNat
    exact ⟨_, congrArg Host.Outcome.next run, State.encoreOff_settles encores head x.tag res⟩
  · obtain ⟨tagged, statused, flagged, counted⟩ := s.cplWrite_shows e w ht hs hf
    refine ⟨tagged, statused, flagged, counted, fun done => ?_, fun bad free => ?_, fun bad taken => ?_⟩
    · subst done
      exact s.cplShown_cplerr e w tag 0 flags
    · rw [State.cplWrite_first s e w bad free]
      exact State.cplErred_fields _ e w ht hs
    · rw [State.cplWrite_next s e w bad taken]
      exact State.rb_of_one (State.rf_setRf_same _ _ _ (by decide))

end Sys2Proof.Machine

/-! ## Commands to an engine (R226 to R229) -/

namespace Sys2Proof.Machine

/-! ### Registers that act on a write and store nothing -/

/-- The register at an offset has fields. -/
def fielded (off : Nat) : Bool :=
  match cfgDecode off 8 true with
  | some (.reg a) => fldsMask a.d.flds != 0
  | _ => false

theorem Reaches.fielded {s : State} {m : Master} {off : Nat} {a : RegAt} (h : Reaches s m off a) (f : fielded off = true) :
    (fldsMask a.d.flds &&& BitVec.allOnes 64 == 0) = false := by
  unfold Machine.fielded at f
  rw [h.decodes] at f
  rw [BitVec.and_allOnes]
  exact (Bool.not_eq_true' _).mp f

/-- A write that reaches a register without stored fields, where the offset stands in the table, is its action. -/
theorem Reaches.acts_located {s : State} {m : Master} {off : Nat} {a : RegAt} {r : Reg} {inst i j : Nat} (h : Reaches s m off a)
    (l : located off r inst i j true = true) (f : Machine.fielded off = true)
    (plain : r ≠ .cfgCommit ∧ r ≠ .lnkSecctl ∧ r ≠ .lnkTxsctl) (v : Word)
    (alone : s.writeAlone (s.auth m) a v (BitVec.allOnes 64) false = none) :
    s.write m off v = s.wrote (s.auth m) a (s.reg off) v (BitVec.allOnes 64) := by
  obtain ⟨reg, -, -, -, acting, at_⟩ := h.at l
  obtain ⟨commit, sec, txs⟩ := plain
  rw [← reg] at commit sec txs
  rw [h.acts acting (by rw [Reaches.fielded h f, Bool.and_false]) commit sec txs v alone, at_]

/-! ### SUSPEND and RESUME -/

theorem located_engSuspend : ∀ (e : BitVec 4) (w : World), located (rEngSuspend e.toNat w.idx) .engSuspend e.toNat w.idx 0 true = true ∧
    fielded (rEngSuspend e.toNat w.idx) = true := by
  intro e w
  cases w <;> revert e <;> decide

theorem located_engResume : ∀ (e : BitVec 4) (w : World), located (rEngResume e.toNat w.idx) .engResume e.toNat w.idx 0 true = true ∧
    fielded (rEngResume e.toNat w.idx) = true := by
  intro e w
  cases w <;> revert e <;> decide

section
variable {s : State} {m : Master} {a : RegAt} {e : BitVec 4} {w : World}

theorem Reaches.write_engSuspend (h : Reaches s m (rEngSuspend e.toNat w.idx) a) :
    s.write m (rEngSuspend e.toNat w.idx) 1 = s.suspendCmd (qOf e.toNat w) := by
  obtain ⟨l, f⟩ := located_engSuspend e w
  obtain ⟨reg, inst, i, -⟩ := h.at l
  rw [Reaches.acts_located h l f (by decide) _ (by simp only [State.writeAlone, reg])]
  simp only [State.wrote, reg, inst, i]
  rfl

theorem Reaches.write_engResume {action : Nat} (h : Reaches s m (rEngResume e.toNat w.idx) a) (tag : BitVec 16) (ha : action < 4) :
    s.write m (rEngResume e.toNat w.idx) (BitVec.ofNat 64 (action + 2 ^ 16 * tag.toNat)) =
      s.resumeCmd (qOf e.toNat w) action tag.toNat := by
  obtain ⟨l, f⟩ := located_engResume e w
  obtain ⟨reg, inst, i, -⟩ := h.at l
  have htag := tag.isLt
  have action' : wr (BitVec.ofNat 64 (action + 2 ^ 16 * tag.toNat)) fEngResumeAction = action := by
    rw [wr_ofNat _ _ _ (by decide)]
    omega
  have tag' : wr (BitVec.ofNat 64 (action + 2 ^ 16 * tag.toNat)) fEngResumeTag = tag.toNat := by
    rw [wr_ofNat _ _ _ (by decide)]
    omega
  rw [Reaches.acts_located h l f (by decide) _ (by simp only [State.writeAlone, reg])]
  simp only [State.wrote, reg, inst, i, action', tag']
  rfl

end

/-- A RESUME writes its tag and action to ENG.RESUME. -/
theorem exec_resumeCommand {i : Instr} {m : Master} {e : Nat} {w : World} {tag action : Nat} (s : State)
    (command : resumeCommand i = some (m, e, w, tag, action)) :
    ∃ (e' : BitVec 4) (tag' : BitVec 16), e = e'.toNat ∧ tag = tag'.toNat ∧ action < 4 ∧
      exec i s = .next (s.write m (rEngResume e w.idx) (BitVec.ofNat 64 (action + 2 ^ 16 * tag))) := by
  unfold resumeCommand at command
  split at command <;> cases command <;> exact ⟨_, _, rfl, rfl, by decide, rfl⟩

theorem qOf_engine (e : Nat) (w : World) : qOf e w / 2 = e := by
  cases w <;> simp only [qOf, World.idx] <;> omega

section
variable {s : State} {q : Nat} {x : Entry}

theorem State.suspendCmd_bad (h : s.head q = none ∨ ∃ x, s.head q = some x ∧ x.run.phase = .stopped) :
    s.suspendCmd q = s.badCmd (q / 2) := by
  rcases h with none | ⟨x, head, stopped⟩
  · simp only [State.suspendCmd, none]
    rfl
  · have halted : x.run.stopped = true := by simp [Run.stopped, stopped]
    simp only [State.suspendCmd, head, halted, if_true]
    rfl

theorem State.suspendCmd_acts (head : s.head q = some x) (phase : x.run.phase = .running ∨ x.run.phase = .queued) :
    s.suspendCmd q = s.suspend q 6 := by
  have going : x.run.stopped = false := by rcases phase with h | h <;> simp [Run.stopped, h]
  simp only [State.suspendCmd, head, going, if_neg Bool.false_ne_true]

theorem State.suspend_stops (head : s.head q = some x) (phase : x.run.phase = .running ∨ x.run.phase = .queued)
    (sound : x.run.failed = none) (left : x.run.perf.next < x.n ∨ s.commitWaits q x = true) :
    s.suspend q 6 = s.setHead q (x.setRun (x.run.close 6 0 0 0 false)) := by
  have undone : x.n ≤ x.run.perf.next → s.commitWaits q x = true := fun done => left.resolve_left (Nat.not_lt.mpr done)
  rcases phase with phase | phase <;> simp only [State.suspend, head, sound, phase] <;> simp +contextual [undone]

theorem State.suspend_passes (head : s.head q = some x) (phase : x.run.phase = .running ∨ x.run.phase = .queued)
    (sound : x.run.failed = none) (done : x.n ≤ x.run.perf.next) (committed : s.commitWaits q x = false) :
    s.suspend q 6 = s.setQueue q { s.queue q with suspNext := true } := by
  rcases phase with phase | phase <;> simp [State.suspend, head, phase, sound, done, committed]

theorem State.resumeCmd_empty (none : s.head q = none) (action tag : Nat) : s.resumeCmd q action tag = s.badCmd (q / 2) := by
  simp only [State.resumeCmd, none]
  rfl

theorem State.resumeCmd_bad {action tag : Nat} (head : s.head q = some x)
    (h : x.tag ≠ tag ∨ x.mayResume action = false ∨ x.run.phase = .running) : s.resumeCmd q action tag = s.badCmd (q / 2) := by
  rcases h with h | h | h <;> simp [State.resumeCmd, State.badCmd, head, h]

theorem State.resumeCmd_acts {action : Nat} (head : s.head q = some x) (may : x.mayResume action = true) :
    let t := s.setHead q (x.setRun { x.run with resume := some action })
    (x.run.phase = .stopped → s.resumeCmd q action x.tag = (t.settle (q / 2)).tryStart q) ∧
    (x.run.phase = .closing → 6 ≤ x.run.cause → s.resumeCmd q action x.tag = t) := by
  constructor
  · intro stopped
    simp [State.resumeCmd, head, may, stopped]
  · intro closing stops
    simp [State.resumeCmd, head, may, closing, stops]

end

/-- Settles O31. -/
theorem engineCommandsSuspendAndResume : Obligations.EngineCommandsSuspendAndResume := by
  unfold Obligations.EngineCommandsSuspendAndResume
  intro s a
  refine ⟨fun m e w reaches => ?_, fun i m e w tag action command reaches => ?_⟩
  · intro q
    have engine : q / 2 = e.toNat := qOf_engine ..
    have run : exec (.engSuspend m e w) s = .next (s.suspendCmd q) :=
      congrArg Host.Outcome.next (Reaches.write_engSuspend reaches)
    rw [run, ← engine]
    refine ⟨fun none => by rw [State.suspendCmd_bad (.inl none)], fun x head => ⟨fun stopped => ?_, fun phase sound =>
      ⟨fun left => ?_, fun done committed => ?_⟩⟩⟩
    · rw [State.suspendCmd_bad (.inr ⟨x, head, stopped⟩)]
    · rw [State.suspendCmd_acts head phase, State.suspend_stops head phase sound left]
    · rw [State.suspendCmd_acts head phase, State.suspend_passes head phase sound done committed]
  · obtain ⟨e, tag, rfl, rfl, small, run⟩ := exec_resumeCommand s command
    intro q
    have engine : q / 2 = e.toNat := qOf_engine ..
    rw [run, Reaches.write_engResume reaches tag small, show qOf e.toNat w = q from rfl, ← engine]
    refine ⟨fun none => by rw [State.resumeCmd_empty none], fun x head => ⟨fun other => ?_, fun bars => ?_, fun running => ?_,
      fun named may => ?_, rfl, rfl, ?_⟩⟩
    · rw [State.resumeCmd_bad head (.inl other)]
    · rw [State.resumeCmd_bad head (.inr (.inl bars))]
    · rw [State.resumeCmd_bad head (.inr (.inr running))]
    · obtain ⟨stopped, closing⟩ := State.resumeCmd_acts head may
      rw [← named]
      exact ⟨fun h => congrArg _ (stopped h), fun h stops => congrArg _ (closing h stops)⟩
    · rfl

end Sys2Proof.Machine

/-! ## The registers in which faults and arrivals are recorded (R478, R484, R491) -/

namespace Sys2Proof.Machine

/-- The offsets of the fault groups and of the states of the interrupt sources. -/
def ledger (a : Nat) : Bool :=
  decide (0xF00 ≤ a % 0x10000 ∧ a % 0x10000 < 0xF30) || decide (0x2901008 ≤ a ∧ a < 0x2903008 ∧ a % 16 = 8)

/-- `t` is `s` but for registers of the ledger. -/
structure State.Noted (s t : State) : Prop where
  regs : t = { s with regs := t.regs }
  other : ∀ a, ledger a = false → t.reg a = s.reg a

namespace State.Noted

theorem refl (s : State) : s.Noted s := ⟨rfl, fun _ _ => rfl⟩

theorem trans {s t u : State} (h : s.Noted t) (k : t.Noted u) : s.Noted u := by
  refine ⟨?_, fun a out => (k.other a out).trans (h.other a out)⟩
  rw [k.regs, h.regs]

theorem setReg (s : State) {a : Nat} (h : ledger a = true) (v : Word) : s.Noted (s.setReg a v) := by
  refine ⟨rfl, fun b out => ?_⟩
  rw [State.reg_setReg, if_neg]
  rintro rfl
  rw [h] at out
  cases out

theorem setRf (s : State) {a : Nat} (h : ledger a = true) (f : FP) (x : Nat) : s.Noted (s.setRf a f x) := setReg s h _

theorem ite {s t u : State} {c : Prop} [Decidable c] (h : s.Noted t) (k : s.Noted u) : s.Noted (if c then t else u) := by
  split
  · exact h
  · exact k

theorem rf {s t : State} (h : s.Noted t) {a : Nat} (out : ledger a = false) (f : FP) : t.rf a f = s.rf a f :=
  congrArg (fun v : Word => v.fld f.lsb f.w) (h.other a out)

theorem rb {s t : State} (h : s.Noted t) {a : Nat} (out : ledger a = false) (f : FP) : t.rb a f = s.rb a f :=
  congrArg (· == 1) (h.rf out f)

end State.Noted

theorem faultBase_mod (k : Nat) : faultBase k % 0x10000 = 0 := by
  unfold faultBase
  split
  case h_1 b _ => cases b <;> simp only [Blk.place] <;> omega
  case h_2 => rfl

theorem ledger_fault (k : Nat) {o : Nat} (low : 0xF00 ≤ o) (high : o < 0xF30) : ledger (faultBase k + o) = true := by
  have base := faultBase_mod k
  have here : 0xF00 ≤ (faultBase k + o) % 0x10000 ∧ (faultBase k + o) % 0x10000 < 0xF30 := by omega
  unfold ledger
  rw [decide_eq_true here, Bool.true_or]

theorem ledger_source {k : Nat} (h : k < 512) : ledger (rIdsSrcstat k) = true := by
  have here : 0x2901008 ≤ rIdsSrcstat k ∧ rIdsSrcstat k < 0x2903008 ∧ rIdsSrcstat k % 16 = 8 := by
    show 0x2901008 ≤ 0x2901008 + 0x10 * k ∧ 0x2901008 + 0x10 * k < 0x2903008 ∧ (0x2901008 + 0x10 * k) % 16 = 8
    omega
  unfold ledger
  rw [decide_eq_true here, Bool.or_true]

theorem State.arriveCore_noted (s : State) {k : Nat} (h : k < 512) : s.Noted (s.arriveCore k).1 := by
  unfold State.arriveCore
  dsimp only
  split
  · exact .setRf s (ledger_source h) ..
  · split <;> exact .setRf s (ledger_source h) ..

theorem State.fltMark_noted (s : State) (f : Flt) : s.Noted (s.fltMark f).1 := by
  have marks {o : Nat} (low : 0xF00 ≤ o) (high : o < 0xF30) := ledger_fault (f.blk.at f.inst) low high
  unfold State.fltMark
  dsimp only
  split
  · exact (State.Noted.setReg _ (marks (o := 0xF20) (by decide) (by decide)) _).trans
      (.setRf _ (marks (o := 0xF28) (by decide) (by decide)) ..)
  · refine (State.Noted.setReg s (marks (o := 0xF00) (by decide) (by decide)) _).trans (.ite (.refl _) ?_)
    exact ((State.Noted.setReg _ (marks (o := 0xF10) (by decide) (by decide)) _).trans
      (.setReg _ (marks (o := 0xF18) (by decide) (by decide)) _)).trans (.setReg _ (marks (o := 0xF08) (by decide) (by decide)) _)

/-- The two interrupt sources of a fault group arrive, and a lost arrival is a fault in turn. -/
theorem State.fltCore_noted (n : Nat) (s : State) {f : Flt} (h : f.blk.at f.inst < 80) : s.Noted (State.fltCore n s f).1 := by
  induction n generalizing s f with
  | zero => exact s.fltMark_noted f
  | succ n ih =>
    have arrives (s : State) {k : Nat} (hk : k < 512) :
        s.Noted (if (s.arriveCore k).2 then (State.fltCore n (s.arriveCore k).1 (overrun k)).1 else (s.arriveCore k).1) := by
      have arrived := s.arriveCore_noted hk
      exact .ite (arrived.trans (ih _ (show Blk.ids.at 0 < 80 by decide))) arrived
    have marked := s.fltMark_noted f
    unfold State.fltCore
    dsimp only
    split
    · exact marked
    · refine marked.trans (State.Noted.trans (t := if ((s.fltMark f).1.reg (rFltMen (f.blk.at f.inst))).bit f.kind then _ else _)
        (.ite (arrives _ (by omega)) (.refl _)) (.ite (arrives _ (by omega)) (.refl _)))

theorem State.flt_noted (s : State) {f : Flt} (h : f.blk.at f.inst < 80) : s.Noted (s.flt f) := s.fltCore_noted 3 h

theorem State.arrive_noted (s : State) {k : Nat} (h : k < 512) : s.Noted (s.arrive k) := by
  unfold State.arrive
  have arrived := s.arriveCore_noted h
  exact .ite (arrived.trans (State.flt_noted _ (show Blk.ids.at 0 < 80 by decide))) arrived

/-! ### Writes of a block's own unit (R217, R306, R307) -/

/-- `t` is `s` but for memory with its marks, the contents of relays, free values and registers of the ledger. -/
structure State.Wrote (s t : State) : Prop where
  fields : t = { s with mem := t.mem, eccBad := t.eccBad, relays := t.relays, free := t.free, regs := t.regs }
  other : ∀ a, ledger a = false → t.reg a = s.reg a

theorem State.Noted.wrote {s t : State} (h : s.Noted t) : s.Wrote t := by
  refine ⟨?_, h.other⟩
  rw [h.regs]

namespace State.Wrote

theorem refl (s : State) : s.Wrote s := (State.Noted.refl s).wrote

theorem trans {s t u : State} (h : s.Wrote t) (k : t.Wrote u) : s.Wrote u := by
  refine ⟨?_, fun a out => (k.other a out).trans (h.other a out)⟩
  rw [k.fields, h.fields]

theorem foldl {β : Type} {f : State → β → State} (step : ∀ (s : State) b, s.Wrote (f s b)) (bs : List β) (s : State) :
    s.Wrote (bs.foldl f s) := by
  induction bs generalizing s with
  | nil => exact refl s
  | cons b bs ih => exact (step s b).trans (ih _)

theorem pokeTouch (s : State) (a : Nat) (bs : List Byte) (m n : Nat) : s.Wrote ((s.poke a bs).touch m n) := by
  obtain ⟨e, r, f, run⟩ := s.pokeTouch_eq a bs m n
  rw [run]
  exact ⟨rfl, fun _ _ => rfl⟩

theorem rf {s t : State} (h : s.Wrote t) {a : Nat} (out : ledger a = false) (f : FP) : t.rf a f = s.rf a f :=
  congrArg (fun v : Word => v.fld f.lsb f.w) (h.other a out)

theorem rb {s t : State} (h : s.Wrote t) {a : Nat} (out : ledger a = false) (f : FP) : t.rb a f = s.rb a f :=
  congrArg (· == 1) (h.rf out f)

theorem cals {s t : State} (h : s.Wrote t) : t.cals = s.cals := by rw [h.fields]
theorem queues {s t : State} (h : s.Wrote t) : t.queues = s.queues := by rw [h.fields]
theorem hostMem {s t : State} (h : s.Wrote t) : t.hostMem = s.hostMem := by rw [h.fields]
theorem frames {s t : State} (h : s.Wrote t) : t.frames = s.frames := by rw [h.fields]

end State.Wrote

theorem State.pokeOwn_wrote (s : State) (src : Nat) (v : View) (a : Nat) (bs : List Byte) : s.Wrote (s.pokeOwn src v a bs) := by
  have frozen (t : State) (x : Nat) : t.Wrote (t.mtxFrozen src x) :=
    (State.flt_noted t (show Blk.mtx.at 0 < 80 by decide)).wrote
  have written : s.Wrote (if ((List.range bs.length).zip bs).all fun x => s.passes v (a + x.1) then (s.poke a bs).touch a bs.length
      else ((List.range bs.length).zip bs).foldl
        (fun t x => if s.passes v (a + x.1) then (t.poke (a + x.1) [x.2]).touch (a + x.1) 1 else t) s) := by
    split
    · exact .pokeTouch ..
    · refine .foldl (fun t x => ?_) _ _
      split
      · exact .pokeTouch ..
      · exact .refl t
  unfold State.pokeOwn
  dsimp only
  split
  · exact written
  · exact written.trans (frozen _ _)

end Sys2Proof.Machine

/-! ## Commands of relays and frames (R174, R180 to R183, R305 to R309, R335) -/

namespace Sys2Proof.Machine

/-! ### Registers that store their fields and then act -/

/-- A write that reaches a register which only acts besides storing, where the offset stands in the table. -/
theorem Reaches.stores_located {s : State} {m : Master} {off : Nat} {a : RegAt} {r : Reg} {inst i j : Nat} {acting : Bool}
    (h : Reaches s m off a) (l : located off r inst i j acting = true)
    (plain : r.acts = false ∧ r ≠ .cfgCommit ∧ r ≠ .lnkSecctl ∧ r ≠ .lnkTxsctl) (v : Word)
    (alone : s.writeAlone (s.auth m) a v (BitVec.allOnes 64) false = none) :
    s.write m off v =
      (s.storeReg (s.auth m).src a v (BitVec.allOnes 64) false).wrote (s.auth m) a (s.reg off) v (BitVec.allOnes 64) := by
  obtain ⟨reg, -, -, -, -, at_⟩ := h.at l
  obtain ⟨stores, commit, sec, txs⟩ := plain
  rw [← reg] at stores commit sec txs
  rw [h.write commit, State.writeReg_plain sec txs (by rw [stores, Bool.false_and]) alone, at_]

/-- A write that reaches a register which takes it in a way of its own. -/
theorem Reaches.alone_located {s : State} {m : Master} {off : Nat} {a : RegAt} {r : Reg} {inst i j : Nat} {acting : Bool}
    (h : Reaches s m off a) (l : located off r inst i j acting = true)
    (plain : r ≠ .cfgCommit ∧ r ≠ .lnkSecctl ∧ r ≠ .lnkTxsctl) {v : Word} {t : State}
    (alone : s.writeAlone (s.auth m) a v (BitVec.allOnes 64) false = some t) : s.write m off v = t := by
  obtain ⟨reg, -⟩ := h.at l
  obtain ⟨commit, sec, txs⟩ := plain
  rw [← reg] at commit sec txs
  have sec' : (a.d.reg == Reg.lnkSecctl) = false := by simpa using sec
  have txs' : (a.d.reg == Reg.lnkTxsctl) = false := by simpa using txs
  rw [h.write commit]
  unfold State.writeReg
  simp only [sec', txs', Bool.false_and, Bool.false_eq_true, if_false, alone]

/-! ### Relays -/

theorem located_scpRlyctl : ∀ r : BitVec 6, located (rScpRlyctl r.toNat) .scpRlyctl 0 0 r.toNat false = true := by decide

section
variable {s : State} {m : Master} {a : RegAt} {r : BitVec 6}

theorem Reaches.write_scpRlyctl_busy {w : Word} (h : Reaches s m (rScpRlyctl r.toNat) a)
    (busy : s.rlyBusy r.toNat (s.wouldBe a w (BitVec.allOnes 64)) = true) :
    s.write m (rScpRlyctl r.toNat) w = s.flt (Flt.plain .scp 0 1) := by
  have l := located_scpRlyctl r
  obtain ⟨reg, -, -, j, -⟩ := h.at l
  exact Reaches.alone_located h l (by decide) (by simp only [State.writeAlone, reg, j, busy, if_true])

theorem Reaches.write_scpRlyctl_free {w : Word} (h : Reaches s m (rScpRlyctl r.toNat) a)
    (free : s.rlyBusy r.toNat (s.wouldBe a w (BitVec.allOnes 64)) = false) :
    s.write m (rScpRlyctl r.toNat) w =
      (s.storeReg (s.auth m).src a w (BitVec.allOnes 64) false).rlyctlPost r.toNat (s.reg (rScpRlyctl r.toNat)) := by
  have l := located_scpRlyctl r
  obtain ⟨reg, -, -, j, -⟩ := h.at l
  rw [Reaches.stores_located h l (by decide) w (by simp only [State.writeAlone, reg, j, free, if_neg Bool.false_ne_true])]
  simp only [State.wrote, reg, j]

theorem Reaches.write_rlyflush (h : Reaches s m rScpRlyflush a) :
    s.write m rScpRlyflush (r.zeroExtend 64) = s.rlyFlush r.toNat := by
  have l : located rScpRlyflush .scpRlyflush 0 0 0 true = true := by decide
  obtain ⟨reg, -⟩ := h.at l
  rw [Reaches.acts_located h l (by decide) (by decide) _ (by simp only [State.writeAlone, reg])]
  simp only [State.wrote, reg, wr_zeroExtend r (by decide)]

end

section
variable {s : State} {r : Nat}

theorem State.rlyBusy_bound (bound : ((s.relay r).prod.isSome || (s.relay r).cons.isSome) = true) (new : Word) :
    s.rlyBusy r new = true := by
  show (((s.relay r).prod.isSome || (s.relay r).cons.isSome) || _) = true
  rw [bound, Bool.true_or]

theorem State.rlyBusy_idle (prod : (s.relay r).prod = none) (cons : (s.relay r).cons = none) (empty : (s.relay r).fills = [])
    (new : Word) : s.rlyBusy r new = false := by
  simp [State.rlyBusy, Relay.bound, prod, cons, empty]

theorem State.relayClear_eq : s.relayClear r = s.setRelay r (freshRelay (s.relay r) (s.relayBlocks r)) := rfl

theorem State.rlyctlPost_enables {old : Word} (off : old.bit 63 = false) (on : s.relayEn r = true) :
    s.rlyctlPost r old = s.setRelay r (freshRelay (s.relay r) (s.relayBlocks r)) :=
  if_pos (by rw [off, on]; rfl)

theorem State.rlyctlPost_stays {old : Word} (on : old.bit 63 = true) : s.rlyctlPost r old = s :=
  if_neg (by rw [on, Bool.not_true, Bool.and_false]; exact Bool.false_ne_true)

theorem State.relayEn_eq_bit : s.relayEn r = (s.reg (rScpRlyctl r)).bit 63 := s.rb_eq_bit (rScpRlyctl r) 63

theorem State.relayCredit_none (owed : (s.relay r).owed = 0) : s.relayCredit r = s := if_pos owed

theorem State.relayCredit_some (owed : 0 < (s.relay r).owed) : s.relayCredit r =
    s.setRelay r { s.relay r with owed := (s.relay r).owed - 1, credits := (s.relay r).credits + 1 } :=
  if_neg (Nat.pos_iff_ne_zero.mp owed)

end

/-! ### Frames -/

theorem ledger_frame : ∀ f : BitVec 4, ledger (rRepFrstat f.toNat) = false ∧ ledger (rRepFrcfg f.toNat) = false := by decide

theorem frstat_ne_frcfg (f : Nat) : rRepFrcfg f ≠ rRepFrstat f := by
  show 0x1500200 + 0x10 * f ≠ 0x1500208 + 0x10 * f
  omega

/-- The registers of a frame as its close leaves them (R305, R336). -/
def State.frameClosed (s : State) (f gen buf : Nat) : State :=
  (((s.setRf (rRepFrstat f) fRepFrstatGen gen).setRf (rRepFrstat f) fRepFrstatClosedbuf buf).setRf (rRepFrstat f)
    fRepFrstatClosed 1).setRf (rRepFrstat f) fRepFrstatDefer 0

theorem State.frameClosed_fields (s : State) (f : Nat) {gen : Nat} (buf : Nat) (small : gen < 2 ^ 32) :
    let t := s.frameClosed f gen buf
    t.rf (rRepFrstat f) fRepFrstatGen = gen ∧ t.rf (rRepFrstat f) fRepFrstatClosedbuf = buf % 2 ∧
    t.rb (rRepFrstat f) fRepFrstatClosed = true ∧ t.rb (rRepFrstat f) fRepFrstatDefer = false := by
  dsimp only [State.frameClosed]
  refine ⟨?_, ?_, State.rb_of_one ?_, State.rb_of_zero (State.rf_setRf_same _ _ _ (by decide))⟩
  · rw [State.rf_setRf_other _ _ (.inr (by decide)), State.rf_setRf_other _ _ (.inr (by decide)),
      State.rf_setRf_other _ _ (.inr (by decide)), State.rf_setRf_same _ _ _ (by decide)]
    exact Nat.mod_eq_of_lt small
  · rw [State.rf_setRf_other _ _ (.inr (by decide)), State.rf_setRf_other _ _ (.inr (by decide)),
      State.rf_setRf_same _ _ _ (by decide)]
    rfl
  · rw [State.rf_setRf_other _ _ (.inr (by decide)), State.rf_setRf_same _ _ _ (by decide)]
    rfl

theorem State.frameClosed_other (s : State) {a f : Nat} (gen buf : Nat) (h : a ≠ rRepFrstat f) :
    (s.frameClosed f gen buf).reg a = s.reg a := by
  dsimp only [State.frameClosed]
  rw [State.reg_setRf_other _ _ _ h, State.reg_setRf_other _ _ _ h, State.reg_setRf_other _ _ _ h, State.reg_setRf_other _ _ _ h]

/-- The GEN that a close gives a frame. -/
def State.nextGen (s : State) (f : Nat) : Nat := (s.rf (rRepFrstat f) fRepFrstatGen + 1) % 2 ^ 32

theorem State.nextGen_lt (s : State) (f : Nat) : s.nextGen f < 2 ^ 32 := Nat.mod_lt _ (by decide)

/-- The closing buffer of a frame has its header. -/
def State.frameSigned (s : State) (f : Nat) : State :=
  s.pokeOwn 0xA8 (s.frameView f) (s.frameBuf f (s.fillBuf f)).1
    (s.frameHead f (s.nextGen f) ++ leBytes 8 (crc64Ecma.of (s.frameHead f (s.nextGen f))))

/-- The other buffer of a frame with CLEAR is written with zeros. -/
def State.frameCleared (s : State) (f buf : Nat) : State :=
  if s.rb (rRepFrcfg f) fRepFrcfgClear then
    s.pokeOwn 0xA8 (s.frameView f) (s.frameBuf f buf).1 (List.replicate (s.frameBuf f buf).2 0)
  else s

theorem State.frameCloseNow_eq (s : State) (f : Nat) :
    s.frameCloseNow f =
      (((s.frameSigned f).frameClosed f (s.nextGen f) (s.fillBuf f)).frameCleared f (1 - s.fillBuf f)).setFrame f
        ⟨0, ((s.frameSigned f).frameClosed f (s.nextGen f) (s.fillBuf f)).rb (rRepFrcfg f) fRepFrcfgClear⟩ := rfl

theorem State.frameSigned_wrote (s : State) (f : Nat) : s.Wrote (s.frameSigned f) := s.pokeOwn_wrote ..

theorem State.frameCleared_wrote (s : State) (f buf : Nat) : s.Wrote (s.frameCleared f buf) := by
  unfold State.frameCleared
  split
  · exact s.pokeOwn_wrote ..
  · exact .refl s

/-- The registers of a frame after its close, and what the close leaves alone. -/
theorem State.frameCloseNow_closes (s : State) (f : BitVec 4) : FrameCloses s (s.frameCloseNow f.toNat) f.toNat := by
  obtain ⟨statOut, cfgOut⟩ := ledger_frame f
  generalize f.toNat = f at statOut cfgOut ⊢
  rw [State.frameCloseNow_eq]
  have signed := s.frameSigned_wrote f
  have header : (s.frameSigned f).mem = (s.pokeOwn 0xA8 (s.frameView f) (s.frameBuf f (s.fillBuf f)).1
    (s.frameHead f (s.nextGen f) ++ leBytes 8 (crc64Ecma.of (s.frameHead f (s.nextGen f))))).mem := rfl
  generalize s.frameSigned f = u at signed header ⊢
  have closes := u.frameClosed_fields f (s.fillBuf f) (s.nextGen_lt f)
  have clearSame : (u.frameClosed f (s.nextGen f) (s.fillBuf f)).rb (rRepFrcfg f) fRepFrcfgClear =
      s.rb (rRepFrcfg f) fRepFrcfgClear := by
    unfold State.rb State.rf
    rw [State.frameClosed_other _ _ _ (frstat_ne_frcfg f), signed.other _ cfgOut]
  have cals : (u.frameClosed f (s.nextGen f) (s.fillBuf f)).cals = s.cals := signed.cals
  have queues : (u.frameClosed f (s.nextGen f) (s.fillBuf f)).queues = s.queues := signed.queues
  have hostMem : (u.frameClosed f (s.nextGen f) (s.fillBuf f)).hostMem = s.hostMem := signed.hostMem
  have mem : (u.frameClosed f (s.nextGen f) (s.fillBuf f)).mem = _ := header
  obtain ⟨gen, buffer, closed, settled⟩ := closes
  rw [clearSame]
  generalize u.frameClosed f (s.nextGen f) (s.fillBuf f) = t at gen buffer closed settled clearSame cals queues hostMem mem ⊢
  have cleared := t.frameCleared_wrote f (1 - s.fillBuf f)
  have plainly : s.rb (rRepFrcfg f) fRepFrcfgClear = false → t.frameCleared f (1 - s.fillBuf f) = t := fun plain => by
    rw [State.frameCleared, clearSame, plain, if_neg Bool.false_ne_true]
  generalize t.frameCleared f (1 - s.fillBuf f) = z at cleared plainly ⊢
  refine ⟨(cleared.rf statOut _).trans gen, (cleared.rf statOut _).trans buffer, (cleared.rb statOut _).trans closed,
    (cleared.rb statOut _).trans settled, Tab.get_set_same, fun plain => ?_, cleared.cals.trans cals, cleared.queues.trans queues,
    cleared.hostMem.trans hostMem⟩
  rw [← State.nextGen, ← mem, ← plainly plain]
  rfl

/-- A close is one whatever the channels that deliver it are busy with. -/
theorem FrameCloses.setCueBusy {s t : State} {f : Nat} (h : FrameCloses s t f) (c n : Nat) : FrameCloses s (t.setCueBusy c n) f :=
  ⟨h.gen, h.buffer, h.closed, h.settled, h.filling, h.header, h.frame⟩

section
variable {s : State} {f : Nat}

theorem State.frameSettle_stays (h : s.ready 28 = false ∨ s.rb (rRepFrstat f) fRepFrstatDefer = false ∨
    s.rf (rRepFrstat f) fRepFrstatReaders ≠ 0) : s.frameSettle f = s := by
  rcases h with h | h | h <;> simp [State.frameSettle, h]

theorem State.frameSettle_closes (up : s.ready 28 = true) (deferred : s.rb (rRepFrstat f) fRepFrstatDefer = true)
    (unread : s.rf (rRepFrstat f) fRepFrstatReaders = 0) : s.frameSettle f = s.frameCloseNow f := by
  simp [State.frameSettle, up, deferred, unread]

section
variable (undeferred : s.rb (rRepFrstat f) fRepFrstatDefer = false)
include undeferred

theorem State.frameClose_disabled (off : s.rb (rRepFrcfg f) fRepFrcfgEn = false) : s.frameClose f = s := by
  simp [State.frameClose, State.frameSettle_stays (.inr (.inl undeferred)), off]

variable (on : s.rb (rRepFrcfg f) fRepFrcfgEn = true)
include on

theorem State.frameClose_misses (busy : s.cueBusy f = true ∨ s.late.contains (.close f) = true) :
    s.frameClose f = s.cueMissed f := by
  rcases busy with busy | busy
  · simp [State.frameClose, State.frameSettle_stays (.inr (.inl undeferred)), on, busy]
  · simp only [State.frameClose, State.frameSettle_stays (.inr (.inl undeferred)), on, busy, Bool.or_true, Bool.not_true,
      if_neg Bool.false_ne_true, if_true]

variable (idle : s.cueBusy f = false) (fresh : s.late.contains (.close f) = false)
include idle fresh

theorem State.frameClose_waits (down : s.ready 28 = false) : s.frameClose f = { s with late := s.late ++ [.close f] } := by
  simp only [State.frameClose, State.frameSettle_stays (.inr (.inl undeferred)), on, undeferred, idle, fresh, down, Bool.or_false,
    Bool.not_true, Bool.not_false, if_neg Bool.false_ne_true, if_true]

variable (up : s.ready 28 = true)
include up

theorem State.frameClose_defers (closed : s.rb (rRepFrstat f) fRepFrstatClosed = true)
    (read : 0 < s.rf (rRepFrstat f) fRepFrstatReaders) :
    s.frameClose f = (s.setRf (rRepFrstat f) fRepFrstatDefer 1).addRf (rRepFrstat f) fRepFrstatLate 1 := by
  have readers : (s.rf (rRepFrstat f) fRepFrstatReaders != 0) = true := bne_iff_ne.mpr read.ne'
  simp only [State.frameClose, State.frameSettle_stays (.inr (.inl undeferred)), on, undeferred, idle, fresh, up, closed, readers,
    Bool.or_false, Bool.and_true, Bool.not_true, if_neg Bool.false_ne_true, if_true]

theorem State.frameClose_closes (free : s.rb (rRepFrstat f) fRepFrstatClosed = false ∨ s.rf (rRepFrstat f) fRepFrstatReaders = 0) :
    s.frameClose f = (s.frameCloseNow f).setCueBusy f 16 := by
  have unread : (s.rb (rRepFrstat f) fRepFrstatClosed && s.rf (rRepFrstat f) fRepFrstatReaders != 0) = false := by
    rcases free with h | h <;> simp [h]
  simp only [State.frameClose, State.frameSettle_stays (.inr (.inl undeferred)), on, undeferred, idle, fresh, up, unread,
    Bool.or_false, Bool.not_true, if_neg Bool.false_ne_true]

end

/-- The registers of a frame as its enabling leaves them (R335, R336). -/
def State.frameZeroed (s : State) (f : Nat) : State :=
  ((((s.setRf (rRepFrstat f) fRepFrstatGen 0).setRf (rRepFrstat f) fRepFrstatReaders 0).setRf (rRepFrstat f) fRepFrstatClosed 0).setRf
    (rRepFrstat f) fRepFrstatClosedbuf 0).setRf (rRepFrstat f) fRepFrstatDefer 0

theorem State.frameZeroed_fields (s : State) (f : Nat) :
    (s.frameZeroed f).rf (rRepFrstat f) fRepFrstatGen = 0 ∧ (s.frameZeroed f).rf (rRepFrstat f) fRepFrstatReaders = 0 ∧
    (s.frameZeroed f).rf (rRepFrstat f) fRepFrstatClosed = 0 ∧ (s.frameZeroed f).rf (rRepFrstat f) fRepFrstatDefer = 0 := by
  unfold State.frameZeroed
  refine ⟨?_, ?_, ?_, State.rf_setRf_same _ _ _ (by decide)⟩
  · rw [State.rf_setRf_other _ _ (.inr (by decide)), State.rf_setRf_other _ _ (.inr (by decide)),
      State.rf_setRf_other _ _ (.inr (by decide)), State.rf_setRf_other _ _ (.inr (by decide)), State.rf_setRf_same _ _ _ (by decide)]
    rfl
  · rw [State.rf_setRf_other _ _ (.inr (by decide)), State.rf_setRf_other _ _ (.inr (by decide)),
      State.rf_setRf_other _ _ (.inr (by decide)), State.rf_setRf_same _ _ _ (by decide)]
    rfl
  · rw [State.rf_setRf_other _ _ (.inr (by decide)), State.rf_setRf_other _ _ (.inr (by decide)),
      State.rf_setRf_same _ _ _ (by decide)]
    rfl

theorem State.frameZeroed_other (s : State) {a f : Nat} (h : a ≠ rRepFrstat f) : (s.frameZeroed f).reg a = s.reg a := by
  unfold State.frameZeroed
  rw [State.reg_setRf_other _ _ _ h, State.reg_setRf_other _ _ _ h, State.reg_setRf_other _ _ _ h,
    State.reg_setRf_other _ _ _ h, State.reg_setRf_other _ _ _ h]

theorem State.frame_setFrame_same (s : State) (f : Nat) (x : FrameSt) : (s.setFrame f x).frame f = x := Tab.get_set_same

theorem State.rf_setFrame (s : State) (f : Nat) (x : FrameSt) (a : Nat) (p : FP) : (s.setFrame f x).rf a p = s.rf a p := rfl

theorem State.reg_setFrame (s : State) (f : Nat) (x : FrameSt) (a : Nat) : (s.setFrame f x).reg a = s.reg a := rfl

/-- What the enabling of a frame leaves. -/
theorem State.frameZeroed_begins (s : State) (f : Nat) :
    ((s.frameZeroed f).setFrame f FrameSt.empty).frame f = FrameSt.empty ∧
    ((s.frameZeroed f).setFrame f FrameSt.empty).rf (rRepFrstat f) fRepFrstatGen = 0 ∧
    ((s.frameZeroed f).setFrame f FrameSt.empty).rf (rRepFrstat f) fRepFrstatReaders = 0 ∧
    ((s.frameZeroed f).setFrame f FrameSt.empty).rb (rRepFrstat f) fRepFrstatClosed = false ∧
    ((s.frameZeroed f).setFrame f FrameSt.empty).rb (rRepFrstat f) fRepFrstatDefer = false ∧
    ((s.frameZeroed f).setFrame f FrameSt.empty).mem = s.mem ∧ ((s.frameZeroed f).setFrame f FrameSt.empty).cals = s.cals ∧
    ((s.frameZeroed f).setFrame f FrameSt.empty).queues = s.queues ∧
    ∀ b, b ≠ rRepFrstat f → ((s.frameZeroed f).setFrame f FrameSt.empty).reg b = s.reg b := by
  obtain ⟨gen, readers, closed, deferred⟩ := s.frameZeroed_fields f
  exact ⟨State.frame_setFrame_same .., (State.rf_setFrame ..).trans gen, (State.rf_setFrame ..).trans readers,
    State.rb_of_zero ((State.rf_setFrame ..).trans closed), State.rb_of_zero ((State.rf_setFrame ..).trans deferred), by simp [State.frameZeroed],
    by simp [State.frameZeroed], by simp [State.frameZeroed], fun b other => (State.reg_setFrame ..).trans (s.frameZeroed_other other)⟩

/-- A frame that is enabled begins anew. -/
theorem State.frcfgPost_begins {old : Word} (off : old.bit 34 = false) (on : s.rb (rRepFrcfg f) fRepFrcfgEn = true) :
    s.frcfgPost f old = (s.frameZeroed f).setFrame f FrameSt.empty := if_pos (by rw [on, off]; rfl)

theorem State.frcfgPost_stays {old : Word} (on : old.bit 34 = true) : s.frcfgPost f old = s :=
  if_neg (by rw [on, Bool.not_true, Bool.and_false]; exact Bool.false_ne_true)

end

theorem located_repFrcfg : ∀ f : BitVec 4, located (rRepFrcfg f.toNat) .repFrcfg 0 0 f.toNat false = true := by decide

section
variable {s : State} {m : Master} {a : RegAt} {f : BitVec 4}

theorem Reaches.write_frclose (h : Reaches s m rRepFrclose a) :
    s.write m rRepFrclose (BitVec.ofNat 64 (f.toNat + 16)) = s.frameClose f.toNat := by
  have l : located rRepFrclose .repFrclose 0 0 0 true = true := by decide
  obtain ⟨reg, -⟩ := h.at l
  have small := f.isLt
  have go : wrb (BitVec.ofNat 64 (f.toNat + 16)) fRepFrcloseGo = true := by
    unfold wrb
    rw [wr_ofNat _ _ _ (by decide), beq_iff_eq]
    omega
  have frame : wr (BitVec.ofNat 64 (f.toNat + 16)) fRepFrcloseFrame = f.toNat := by
    rw [wr_ofNat _ _ _ (by decide)]
    omega
  rw [Reaches.acts_located h l (by decide) (by decide) _ (by simp only [State.writeAlone, reg])]
  simp only [State.wrote, reg, go, frame, if_true, State.frcloseReg]

theorem Reaches.write_repFrcfg_busy {w : Word} (h : Reaches s m (rRepFrcfg f.toNat) a)
    (busy : s.frBusy f.toNat (s.wouldBe a w (BitVec.allOnes 64)) = true) :
    s.write m (rRepFrcfg f.toNat) w = s.flt (Flt.plain .rep 0 5) := by
  have l := located_repFrcfg f
  obtain ⟨reg, -, -, j, -⟩ := h.at l
  exact Reaches.alone_located h l (by decide) (by simp only [State.writeAlone, reg, j, busy, if_true])

theorem Reaches.write_repFrcfg_free {w : Word} (h : Reaches s m (rRepFrcfg f.toNat) a)
    (free : s.frBusy f.toNat (s.wouldBe a w (BitVec.allOnes 64)) = false) :
    s.write m (rRepFrcfg f.toNat) w =
      (s.storeReg (s.auth m).src a w (BitVec.allOnes 64) false).frcfgPost f.toNat (s.reg (rRepFrcfg f.toNat)) := by
  have l := located_repFrcfg f
  obtain ⟨reg, -, -, j, -⟩ := h.at l
  rw [Reaches.stores_located h l (by decide) w (by simp only [State.writeAlone, reg, j, free, if_neg Bool.false_ne_true])]
  simp only [State.wrote, reg, j]

end

/-- Settles O32. -/
theorem relayAndFrameCommandsTakeEffect : Obligations.RelayAndFrameCommandsTakeEffect := by
  unfold Obligations.RelayAndFrameCommandsTakeEffect
  refine ⟨fun s r => ⟨fun none => ?_, fun some => ?_⟩, fun s m r v a reaches => ⟨fun bound => ?_, fun prod cons empty => ?_⟩,
    fun s m r a reaches => ⟨fun kind prod cons => ?_, fun held => ?_⟩, fun s m f a reaches => ?_, fun s f => ⟨fun up deferred unread => ?_,
      fun stays => ?_, rfl⟩, fun s m f v a reaches => ?_, fun s m f v a reaches busy => ?_⟩
  · exact congrArg Host.Outcome.next (State.relayCredit_none none)
  · exact congrArg Host.Outcome.next (State.relayCredit_some some)
  · exact congrArg Host.Outcome.next (Reaches.write_scpRlyctl_busy reaches (State.rlyBusy_bound bound _))
  · have run : exec (.relayEnable m r v) s = .next (_ : State) :=
      congrArg Host.Outcome.next (Reaches.write_scpRlyctl_free (w := v.setBit 63 true) reaches (State.rlyBusy_idle prod cons empty _))
    refine ⟨fun off on => ?_, fun on => ?_⟩
    · rw [State.relayEn_eq_bit] at off
      exact run.trans (congrArg _ (State.rlyctlPost_enables off on))
    · rw [State.relayEn_eq_bit] at on
      exact run.trans (congrArg _ (State.rlyctlPost_stays on))
  · have unheld : ¬ (s.rf (rScpRlyctl r.toNat) fScpRlyctlPkind ≠ 0 ∨ (s.relay r.toNat).bound = true) := by
      simp [Relay.bound, kind, prod, cons]
    exact congrArg Host.Outcome.next ((Reaches.write_rlyflush reaches).trans (if_neg unheld))
  · exact congrArg Host.Outcome.next ((Reaches.write_rlyflush reaches).trans (if_pos held))
  · intro waits undeferred
    have run : exec (.frclose m f) s = .next (s.frameClose f.toNat) := congrArg Host.Outcome.next (Reaches.write_frclose reaches)
    rw [run]
    refine ⟨fun off => ?_, fun on busy => ?_, fun on idle fresh down => ?_, fun on idle fresh up closed read => ?_,
      fun on idle fresh up free => ?_⟩
    · rw [State.frameClose_disabled undeferred off]
    · rw [State.frameClose_misses undeferred on busy]
    · rw [State.frameClose_waits undeferred on idle fresh down]
    · rw [State.frameClose_defers undeferred on idle fresh up closed read]
    · rw [State.frameClose_closes undeferred on idle fresh up free]
      exact ⟨_, rfl, FrameCloses.setCueBusy (s.frameCloseNow_closes f) _ _⟩
  · exact ⟨_, congrArg Host.Outcome.next (State.frameSettle_closes up deferred unread), s.frameCloseNow_closes f⟩
  · exact congrArg Host.Outcome.next (State.frameSettle_stays stays)
  · intro w free t
    have run : exec (.frameEnable m f v) s = .next (t.frcfgPost f.toNat (s.reg (rRepFrcfg f.toNat))) :=
      congrArg Host.Outcome.next (Reaches.write_repFrcfg_free reaches free)
    refine ⟨fun on => ?_, fun off on => ?_⟩
    · rw [State.rb_eq_bit] at on
      exact run.trans (congrArg _ (State.frcfgPost_stays on))
    · rw [State.rb_eq_bit] at off
      exact ⟨_, run.trans (congrArg _ (State.frcfgPost_begins off on)), t.frameZeroed_begins f.toNat⟩
  · exact congrArg Host.Outcome.next (Reaches.write_repFrcfg_busy reaches busy)

end Sys2Proof.Machine

/-! ## Time partitions (R186 to R191) -/

namespace Sys2Proof.Machine

section
variable {s : State} {e : Nat}

/-! ### The start of a cycle -/

theorem State.tpCycleStart_in (running : (s.tpOf e).on = true ∧ s.time < (s.tpOf e).start + (s.tpOf e).cycle) :
    s.tpCycleStart e = s := by
  simp [State.tpCycleStart, running.1, running.2]

section
variable (between : ¬ ((s.tpOf e).on = true ∧ s.time < (s.tpOf e).start + (s.tpOf e).cycle))
include between

theorem State.tpCycleStart_off (off : s.rb (rEngTpctl e) fEngTpctlEn = false) :
    s.tpCycleStart e = if (s.tpOf e).on then s.tpMove e Tp.empty else s := by
  have out : ((s.tpOf e).on && decide (s.time < (s.tpOf e).start + (s.tpOf e).cycle)) = false := by simpa using between
  simp only [State.tpCycleStart, out, off, Bool.not_false, if_true, if_neg Bool.false_ne_true]

variable (on : s.rb (rEngTpctl e) fEngTpctlEn = true)
include on

theorem State.tpCycleStart_here
    (here : s.time % s.rf (rEngTpctl e) fEngTpctlCycle = s.rf (rEngTpphase e) fEngTpphasePhase % s.rf (rEngTpctl e) fEngTpctlCycle) :
    s.tpCycleStart e = (if (s.tpSlots e).foldl (fun k y => k + y.1) 0 > s.rf (rEngTpctl e) fEngTpctlCycle
      then s.setRf (rEngTpstat e) fEngTpstatCut 1 else s).tpMove e
        ⟨true, s.time, s.rf (rEngTpctl e) fEngTpctlCycle, s.tpSlots e, some 0, none⟩ := by
  have out : ((s.tpOf e).on && decide (s.time < (s.tpOf e).start + (s.tpOf e).cycle)) = false := by simpa using between
  simp only [State.tpCycleStart, out, on, decide_eq_true here, Bool.not_true, if_neg Bool.false_ne_true, if_true]
  split <;> rfl

theorem State.tpCycleStart_apart
    (apart : s.time % s.rf (rEngTpctl e) fEngTpctlCycle ≠ s.rf (rEngTpphase e) fEngTpphasePhase % s.rf (rEngTpctl e) fEngTpctlCycle) :
    s.tpCycleStart e =
      if (s.tpOf e).on && (s.tpOf e).slot.isSome then s.tpMove e { s.tpOf e with slot := none } else s := by
  have out : ((s.tpOf e).on && decide (s.time < (s.tpOf e).start + (s.tpOf e).cycle)) = false := by simpa using between
  simp only [State.tpCycleStart, out, on, decide_eq_false apart, Bool.not_true, if_neg Bool.false_ne_true]

end

/-! ### The boundary of a slot -/

/-- The slot that the time gives. -/
def State.slotNow (s : State) (e : Nat) : Option Nat :=
  if s.time - (s.tpOf e).start < (s.tpOf e).cycle then slotAt (s.tpOf e).slots 0 (s.time - (s.tpOf e).start) else none

theorem State.tpSlotBoundary_off (off : (s.tpOf e).on = false) : s.tpSlotBoundary e = s := by
  simp [State.tpSlotBoundary, off]

theorem State.tpSlotBoundary_same (on : (s.tpOf e).on = true) (same : s.slotNow e = (s.tpOf e).slot) :
    s.tpSlotBoundary e = s := by
  unfold State.slotNow at same
  simp only [State.tpSlotBoundary, on, same, Bool.not_true, if_neg Bool.false_ne_true, if_true]

theorem State.tpSlotBoundary_moves (on : (s.tpOf e).on = true) (moves : s.slotNow e ≠ (s.tpOf e).slot) :
    s.tpSlotBoundary e = s.tpMove e { s.tpOf e with slot := s.slotNow e } := by
  have off : ¬ (!(s.tpOf e).on) = true := by rw [on]; exact Bool.false_ne_true
  exact (if_neg off).trans (if_neg moves)

/-- Two partitions are in slots of one world. -/
def Tp.sameWorld (old new : Tp) : Bool :=
  match old.now, new.now with
  | some (w, _), some (x, _) => w == x
  | _, _ => false

theorem Tp.sameWorld_iff (old new : Tp) :
    old.sameWorld new = true ↔ ∃ w a b, old.now = some (w, a) ∧ new.now = some (w, b) := by
  unfold Tp.sameWorld
  constructor
  · intro same
    split at same
    case h_1 w a x b hw hx =>
      rw [← beq_iff_eq.mp same] at hx
      exact ⟨w, a, b, hw, hx⟩
    case h_2 => cases same
  · rintro ⟨w, a, b, hw, hx⟩
    simp only [hw, hx, beq_self_eq_true]

/-- The partition as the registers of the running slot change hands. -/
def State.tpTaken (s : State) (e : Nat) (new : Tp) : State :=
  s.setTp e { new with mark := if (s.tpOf e).sameWorld new then (s.tpOf e).mark else none }

/-- The orders that may no longer run have left. -/
def State.tpLeft (s : State) (e : Nat) (new : Tp) : State :=
  ((s.tpTaken e new).tpLeave (s.tpOf e) (2 * e)).tpLeave (s.tpOf e) (2 * e + 1)

/-- An order leaves for one of the other world. -/
def State.tpSwitches (t : State) (e : Nat) : Bool :=
  ((t.qBusy (2 * e) && !t.entitled (2 * e)) && (t.runnable (2 * e + 1) && t.entitled (2 * e + 1))) ||
  ((t.qBusy (2 * e + 1) && !t.entitled (2 * e + 1)) && (t.runnable (2 * e) && t.entitled (2 * e)))

theorem State.tpMove_eq (s : State) (e : Nat) (new : Tp) :
    s.tpMove e new = (((if (s.tpTaken e new).tpSwitches e && !(s.tpOf e).sameWorld new
      then (s.tpLeft e new).setTp e { (s.tpLeft e new).tpOf e with mark := some (s.tpLeft e new).beats }
      else s.tpLeft e new).settle e).tryStart (2 * e)).tryStart (2 * e + 1) := rfl

/-! ### What a boundary does to the orders -/

/-- The other queue of the engine. -/
def otherQueue (q : Nat) : Nat := if q % 2 = 0 then q + 1 else q - 1

theorem State.tpLeave_free {old : Tp} {q : Nat} (free : s.qBusy q = false) : s.tpLeave old q = s := by
  simp only [State.tpLeave, free, Bool.false_and, if_neg Bool.false_ne_true]

theorem State.tpLeave_leaves {old : Tp} {q : Nat} {y : Entry} (head : s.head q = some y) (running : y.run.phase = .running)
    (sound : y.run.failed = none) (runs : s.modeRuns (q / 2) = true) (barred : s.entitled q = false) :
    s.tpLeave old q = s.setHead q (y.setRun (y.run.close (old.leave q) 0 0 0 false)) := by
  have busy : s.qBusy q = true := by simp [State.qBusy, head, running, Phase.busy]
  have early : old.leave q ≠ 6 := by unfold Tp.leave; split <;> (try split) <;> decide
  simp [State.tpLeave, State.suspend, busy, runs, barred, head, running, sound, early]

theorem State.settleQ_still {q : Nat} (runs : s.modeRuns (q / 2) = true) (still : s.qRunning q = false) : s.settleQ q = s := by
  simp only [State.settleQ, runs, still, Bool.not_true, Bool.false_and, if_neg Bool.false_ne_true]

theorem State.qRunning_of_free {q : Nat} (free : s.qBusy q = false) : s.qRunning q = false := by
  unfold State.qBusy at free
  unfold State.qRunning
  cases h : s.head q with
  | none => rfl
  | some x =>
    rw [h] at free
    cases hp : x.run.phase <;> simp_all [Phase.busy]

theorem State.tryStart_busy {q : Nat} (busy : s.qBusy q = true) : s.tryStart q = s := by
  unfold State.qBusy at busy
  unfold State.tryStart
  cases h : s.head q with
  | none => rfl
  | some x =>
    rw [h] at busy
    dsimp only at busy
    simp only [busy, Bool.true_or, if_true]

theorem State.tryStart_otherBusy {q : Nat} (busy : s.qBusy (otherQueue q) = true) : s.tryStart q = s := by
  unfold State.tryStart
  cases h : s.head q with
  | none => rfl
  | some x => exact if_pos (by rw [show s.qBusy (if q % 2 = 0 then q + 1 else q - 1) = true from busy]; simp)

/-- Where no order of the engine runs, a boundary only lets the orders start. -/
theorem State.tpMove_free {new : Tp} (free : s.qBusy (2 * e) = false) (free' : s.qBusy (2 * e + 1) = false) :
    s.tpMove e new = (((s.tpTaken e new).settle e).tryStart (2 * e)).tryStart (2 * e + 1) := by
  have f : (s.tpTaken e new).qBusy (2 * e) = false := free
  have f' : (s.tpTaken e new).qBusy (2 * e + 1) = false := free'
  have left : s.tpLeft e new = s.tpTaken e new := by rw [State.tpLeft, State.tpLeave_free f, State.tpLeave_free f']
  have stay : (s.tpTaken e new).tpSwitches e = false := by simp only [State.tpSwitches, f, f', Bool.false_and, Bool.or_false]
  simp only [State.tpMove_eq, left, stay, Bool.false_and, if_neg Bool.false_ne_true]

theorem queue_of_engine {q : Nat} (engine : q / 2 = e) :
    (q = 2 * e ∧ otherQueue q = 2 * e + 1) ∨ (q = 2 * e + 1 ∧ otherQueue q = 2 * e) := by
  unfold otherQueue
  split <;> omega

theorem State.qBusy_setHead_other {q k : Nat} {x : Entry} (h : k ≠ q) : (s.setHead q x).qBusy k = s.qBusy k := by
  simp only [State.qBusy, State.head, State.queue_setHead_other s x h]

theorem State.tpLeft_leaves {new : Tp} {q : Nat} {y : Entry} (engine : q / 2 = e) (head : s.head q = some y)
    (running : y.run.phase = .running) (sound : y.run.failed = none) (alone : s.qBusy (otherQueue q) = false)
    (runs : s.modeRuns e = true) (barred : (s.tpTaken e new).entitled q = false) :
    s.tpLeft e new = (s.tpTaken e new).setHead q (y.setRun (y.run.close ((s.tpOf e).leave q) 0 0 0 false)) := by
  have leaves : (s.tpTaken e new).tpLeave (s.tpOf e) q =
      (s.tpTaken e new).setHead q (y.setRun (y.run.close ((s.tpOf e).leave q) 0 0 0 false)) :=
    State.tpLeave_leaves head running sound (engine.symm ▸ runs) barred
  have stays : (s.tpTaken e new).qBusy (otherQueue q) = false := alone
  obtain ⟨rfl, other⟩ | ⟨rfl, other⟩ := queue_of_engine engine
  · rw [State.tpLeft, leaves, State.tpLeave_free]
    rw [State.qBusy_setHead_other (by omega), ← other, stays]
  · rw [other] at stays
    rw [State.tpLeft, State.tpLeave_free stays, leaves]

/-- While the order that leaves drains, the engine starts none. -/
theorem State.start_drains {q : Nat} {y : Entry} (engine : q / 2 = e) (head : s.head q = some y)
    (closing : y.run.phase = .closing) (alone : s.qBusy (otherQueue q) = false) (runs : s.modeRuns e = true) :
    ((s.settle e).tryStart (2 * e)).tryStart (2 * e + 1) = s := by
  have busy : s.qBusy q = true := by simp [State.qBusy, head, closing, Phase.busy]
  have still : s.qRunning q = false := by simp [State.qRunning, head, closing]
  have still' := State.qRunning_of_free alone
  have a : (2 * e) / 2 = e := by omega
  have b : (2 * e + 1) / 2 = e := by omega
  have other : otherQueue (2 * e) = 2 * e + 1 := by unfold otherQueue; split <;> omega
  have other' : otherQueue (2 * e + 1) = 2 * e := by unfold otherQueue; split <;> omega
  obtain ⟨rfl, h⟩ | ⟨rfl, h⟩ := queue_of_engine engine
  · rw [h] at still'
    rw [State.settle, State.settleQ_still (a.symm ▸ runs) still, State.settleQ_still (b.symm ▸ runs) still',
      State.tryStart_busy busy, State.tryStart_otherBusy (by rw [other']; exact busy)]
  · rw [h] at still'
    rw [State.settle, State.settleQ_still (a.symm ▸ runs) still', State.settleQ_still (b.symm ▸ runs) still,
      State.tryStart_otherBusy (q := 2 * e) (by rw [other]; exact busy), State.tryStart_busy busy]

theorem State.start_drains_marked {q : Nat} {y : Entry} {x : Tp} (engine : q / 2 = e) (head : s.head q = some y)
    (closing : y.run.phase = .closing) (alone : s.qBusy (otherQueue q) = false) (runs : s.modeRuns e = true) :
    (((s.setTp e x).settle e).tryStart (2 * e)).tryStart (2 * e + 1) = s.setTp e x :=
  State.start_drains (s := s.setTp e x) engine head closing alone runs

/-- At the boundary the running order begins to leave, and until it has left nothing else happens. -/
theorem State.tpMove_leaves {new : Tp} {q : Nat} {y : Entry} (engine : q / 2 = e) (head : s.head q = some y)
    (running : y.run.phase = .running) (sound : y.run.failed = none) (alone : s.qBusy (otherQueue q) = false)
    (runs : s.modeRuns e = true) (barred : (s.tpTaken e new).entitled q = false) :
    (s.tpMove e new).mem = s.mem ∧ (s.tpMove e new).cals = s.cals ∧
      (s.tpMove e new).head q = some (y.setRun (y.run.close ((s.tpOf e).leave q) 0 0 0 false)) := by
  have ne : otherQueue q ≠ q := by
    obtain ⟨h, k⟩ | ⟨h, k⟩ := queue_of_engine engine <;> omega
  rw [State.tpMove_eq, State.tpLeft_leaves engine head running sound alone runs barred]
  have alone' : ((s.tpTaken e new).setHead q (y.setRun (y.run.close ((s.tpOf e).leave q) 0 0 0 false))).qBusy (otherQueue q) =
      false := by rw [State.qBusy_setHead_other ne]; exact alone
  have head' := State.head_setHead (s.tpTaken e new) q (y.setRun (y.run.close ((s.tpOf e).leave q) 0 0 0 false))
  split
  · rw [State.start_drains_marked engine head' rfl alone' runs]
    exact ⟨rfl, rfl, head'⟩
  · rw [State.start_drains engine head' rfl alone' runs]
    exact ⟨rfl, rfl, head'⟩

end

theorem Tp.mark_of_sameWorld {old new : Tp} {m : Option Nat} (hsame : (∃ w a b, old.now = some (w, a) ∧ new.now = some (w, b)) → m = old.mark)
    (hnew : ¬ (∃ w a b, old.now = some (w, a) ∧ new.now = some (w, b)) → m = none) :
    m = if old.sameWorld new then old.mark else none := by
  by_cases same : old.sameWorld new = true
  · rw [if_pos same, hsame ((Tp.sameWorld_iff old new).mp same)]
  · rw [if_neg same, hnew fun h => same ((Tp.sameWorld_iff old new).mpr h)]

/-- Settles O33: where a cycle starts the model's own branches give each case; at a boundary, the order that may no
longer run drains, and a draining order keeps both queues of the engine from starting. -/
theorem timePartitionsMoveWithTheTable : Obligations.TimePartitionsMoveWithTheTable := by
  unfold Obligations.TimePartitionsMoveWithTheTable
  intro s e n x cyc slots inCycle here
  have start {t : State} (run : s.tpCycleStart n = t) : exec (.tpCycleStart e) s = .next t :=
    congrArg Host.Outcome.next run
  have boundary {t : State} (run : s.tpSlotBoundary n = t) : exec (.tpSlotBoundary e) s = .next t :=
    congrArg Host.Outcome.next run
  refine ⟨fun running => start (State.tpCycleStart_in running), fun between on here fits => start ?_,
    fun between on here cut => start ?_, fun between on apart => ⟨fun live slot => start ?_, fun idle => start ?_⟩,
    fun between off idle => start ?_, fun between off live => start ?_, fun off => boundary (State.tpSlotBoundary_off off),
    fun on => ?_⟩
  · rw [State.tpCycleStart_here between on here, if_neg (Nat.not_lt.mpr fits)]
  · rw [State.tpCycleStart_here between on here, if_pos cut]
  · rw [State.tpCycleStart_apart between on apart, if_pos]
    rw [show (s.tpOf n).on = true from live, Bool.true_and, Option.isSome_iff_ne_none]
    exact slot
  · rw [State.tpCycleStart_apart between on apart, if_neg]
    rw [Bool.and_eq_true, Option.isSome_iff_ne_none]
    rintro ⟨live, slot⟩
    obtain idle | idle := idle
    · exact absurd (live.symm.trans idle) (by decide)
    · exact slot idle
  · rw [State.tpCycleStart_off between off, show (s.tpOf n).on = false from idle, if_neg Bool.false_ne_true]
  · rw [State.tpCycleStart_off between off, if_pos live]
  · intro now new
    refine ⟨fun same => boundary (State.tpSlotBoundary_same on same),
      fun moves => boundary (State.tpSlotBoundary_moves on moves), ?_⟩
    intro same m hsame hnew t
    have taken : t = s.tpTaken n new := by
      rw [show t = s.setTp n { new with mark := m } from rfl, Tp.mark_of_sameWorld hsame hnew]
      rfl
    refine ⟨fun moves free free' => boundary ?_, fun q y moves engine head running sound alone runs barred => ?_⟩
    · rw [taken, State.tpSlotBoundary_moves on moves]
      exact State.tpMove_free free free'
    obtain ⟨hmem, hcals, hhead⟩ := State.tpMove_leaves (new := new) engine head running sound alone runs (taken ▸ barred)
    exact ⟨_, boundary (State.tpSlotBoundary_moves on moves), hmem, hcals, hhead⟩

end Sys2Proof.Machine

/-! ## Comparators and pairing (R310 to R317, R600, R607) -/

namespace Sys2Proof.Machine

section
variable {s : State} {k : Nat}

/-! ### Proofs -/

theorem proofrep_ne_cstat (k : Nat) (h : k < 5) : rRepCstat k ≠ rRepProofrep k := by
  interval_cases k <;> decide

/-- The proof of comparator `k` is no longer awaited. -/
def State.proofEnded (s : State) (k : Nat) : State :=
  s.setCus { s.cus with proofs := s.cus.proofs.filter fun j => j != k }

/-- The registers that a full proof leaves which has caught every flip. -/
def State.proofPassed (s : State) (k : Nat) : State :=
  ((((s.setRf (rRepProofrep k) fRepProofrepInjected 2048).setRf (rRepProofrep k) fRepProofrepCaught 2048).setRf (rRepProofrep k)
    fRepProofrepDone 1).setRf (rRepProofrep k) fRepProofrepMissed 0).setRf (rRepCstat k) fRepCstatProven 1

/-- A flip that the comparator misses disproves and wears it. -/
def State.proofFails (s : State) (k : Nat) : State :=
  ((s.setRf (rRepCstat k) fRepCstatProven 0).raise (Flt.plain .rep k 2)).wear (ixCmp k) true

theorem State.fullProof_unasked (out : k ∉ s.cus.proofs) (caught lane pos : Nat) : s.fullProof k caught lane pos = s := by
  simp [State.fullProof, out]

theorem State.fullProof_catches {caught : Nat} (asked : k ∈ s.cus.proofs) (all : 2048 ≤ caught) (lane pos : Nat) :
    s.fullProof k caught lane pos = (s.proofEnded k).proofPassed k := by
  have some : ¬ (!s.cus.proofs.contains k) = true := by simp [asked]
  have full : min caught 2048 = 2048 := Nat.min_eq_right all
  simp only [State.fullProof, if_neg some, full, if_true]
  rfl

theorem State.fullProof_misses {caught : Nat} (asked : k ∈ s.cus.proofs) (few : caught < 2048) (lane pos : Nat) :
    s.fullProof k caught lane pos =
      (((((((s.proofEnded k).setRf (rRepProofrep k) fRepProofrepInjected 2048).setRf (rRepProofrep k) fRepProofrepCaught
        caught).setRf (rRepProofrep k) fRepProofrepDone 1).setRf (rRepProofrep k) fRepProofrepMissed 1).setRf (rRepProofrep k)
        fRepProofrepMisslane lane).setRf (rRepProofrep k) fRepProofrepMissbit pos).proofFails k := by
  have some : ¬ (!s.cus.proofs.contains k) = true := by simp [asked]
  have part : min caught 2048 = caught := Nat.min_eq_left (Nat.le_of_lt few)
  simp only [State.fullProof, if_neg some, part, if_neg (Nat.ne_of_lt few)]
  rfl

theorem State.proofPassed_fields (s : State) (h : k < 5) :
    let t := s.proofPassed k
    t.rf (rRepProofrep k) fRepProofrepInjected = 2048 ∧ t.rf (rRepProofrep k) fRepProofrepCaught = 2048 ∧
    t.rb (rRepProofrep k) fRepProofrepDone = true ∧ t.rb (rRepProofrep k) fRepProofrepMissed = false ∧
    t.rb (rRepCstat k) fRepCstatProven = true ∧
    t.rf (rRepCstat k) fRepCstatPeriodic = s.rf (rRepCstat k) fRepCstatPeriodic := by
  have ne := (proofrep_ne_cstat k h).symm
  dsimp only [State.proofPassed]
  refine ⟨?_, ?_, State.rb_of_one ?_, State.rb_of_zero ?_, State.rb_of_one (State.rf_setRf_same _ _ _ (by decide)), ?_⟩
  · rw [State.rf_setRf_other _ _ (.inl ne), State.rf_setRf_other _ _ (.inr (by decide)), State.rf_setRf_other _ _ (.inr (by decide)),
      State.rf_setRf_other _ _ (.inr (by decide)), State.rf_setRf_same _ _ _ (by decide)]
    rfl
  · rw [State.rf_setRf_other _ _ (.inl ne), State.rf_setRf_other _ _ (.inr (by decide)), State.rf_setRf_other _ _ (.inr (by decide)),
      State.rf_setRf_same _ _ _ (by decide)]
    rfl
  · rw [State.rf_setRf_other _ _ (.inl ne), State.rf_setRf_other _ _ (.inr (by decide)), State.rf_setRf_same _ _ _ (by decide)]
    rfl
  · rw [State.rf_setRf_other _ _ (.inl ne), State.rf_setRf_same _ _ _ (by decide)]
    rfl
  · rw [State.rf_setRf_other _ _ (.inr (by decide)), State.rf_setRf_other _ _ (.inl ne.symm), State.rf_setRf_other _ _ (.inl ne.symm),
      State.rf_setRf_other _ _ (.inl ne.symm), State.rf_setRf_other _ _ (.inl ne.symm)]

theorem State.proofPassed_other (s : State) {b : Nat} (report : b ≠ rRepProofrep k) (status : b ≠ rRepCstat k) :
    (s.proofPassed k).reg b = s.reg b := by
  dsimp only [State.proofPassed]
  rw [State.reg_setRf_other _ _ _ status, State.reg_setRf_other _ _ _ report, State.reg_setRf_other _ _ _ report,
    State.reg_setRf_other _ _ _ report, State.reg_setRf_other _ _ _ report]

theorem State.proofPassed_frame (s : State) (k : Nat) :
    (s.proofPassed k).cus = s.cus ∧ (s.proofPassed k).mem = s.mem ∧ (s.proofPassed k).cals = s.cals ∧
      (s.proofPassed k).queues = s.queues := by
  simp [State.proofPassed]

theorem State.periodicProof_idle (idle : (s.mode ≠ 4 ∧ s.mode ≠ 5) ∨ s.repActive k = false ∨ s.proofDue k = false) (caught : Bool) :
    s.periodicProof k caught = s := by
  unfold State.periodicProof
  refine if_pos ?_
  simpa only [Bool.not_eq_true'] using idle

/-- The next injection of comparator `k` has been made. -/
def State.proofStepped (s : State) (k : Nat) : State :=
  s.setCus { s.cus with
    proofAt := Tab.set natDefault s.cus.proofAt k ((Tab.get natDefault s.cus.proofAt k + 1) % 2048)
    proofTime := Tab.set natDefault s.cus.proofTime k s.time }

section
variable (mode : s.mode = 4 ∨ s.mode = 5) (active : s.repActive k = true) (due : s.proofDue k = true)
include mode active due

theorem State.periodicProof_due (caught : Bool) : s.periodicProof k caught =
    if caught then
      (s.proofStepped k).setRf (rRepCstat k) fRepCstatPeriodic ((s.rf (rRepCstat k) fRepCstatPeriodic + 1) % 65536)
    else (if s.rb (rRepProofrep k) fRepProofrepMissed then s.proofStepped k
      else (((s.proofStepped k).setRf (rRepProofrep k) fRepProofrepMissed 1).setRf (rRepProofrep k) fRepProofrepMisslane
        (Tab.get natDefault s.cus.proofAt k / 64)).setRf (rRepProofrep k) fRepProofrepMissbit
          (Tab.get natDefault s.cus.proofAt k % 64)).proofFails k := by
  have out : ¬ ((s.mode ≠ 4 ∧ s.mode ≠ 5) ∨ (!s.repActive k) = true ∨ (!s.proofDue k) = true) := by
    rw [active, due]
    simpa using fun h => mode.resolve_left h
  exact if_neg out

end

/-! ### Comparator 4 stands in -/

/-- The swap whose turn it is, if it is that of resource `i`. -/
def State.swapTurn (s : State) (i : Nat) : Option SwapReq := s.nextSwap.bind fun r => if r.index = i then some r else none

theorem State.swapTurn_some {i : Nat} : (s.swapTurn i).isSome = true ↔ ∃ r, s.nextSwap = some r ∧ r.index = i := by
  unfold State.swapTurn
  cases s.nextSwap with
  | none => simp
  | some r => by_cases h : r.index = i <;> simp [h]

theorem State.swapTurn_none {i : Nat} (away : ¬ ∃ r, s.nextSwap = some r ∧ r.index = i) : s.swapTurn i = none :=
  Option.not_isSome_iff_eq_none.mp fun h => away (State.swapTurn_some.mp h)

theorem State.swapTurn_of {i : Nat} {r : SwapReq} (next : s.nextSwap = some r) (at_ : r.index = i) : s.swapTurn i = some r := by
  rw [State.swapTurn, next, Option.bind_some, if_pos at_]

section
variable {q : Nat}

theorem State.comparatorSubst_unserved (unserved : s.serving q = none) : s.comparatorSubst q = s := by
  simp only [State.comparatorSubst, unserved]

theorem State.comparatorSubst_barred (barred : s.swapMode = false) : s.comparatorSubst q = s := by
  unfold State.comparatorSubst
  cases s.serving q with
  | none => rfl
  | some k => exact if_pos (by rw [barred]; rfl)

section
variable (serves : s.serving q = some k) (may : s.swapMode = true)
include serves may

theorem State.comparatorSubst_free (free : s.isFree (ixCmp 4) = true) : s.comparatorSubst q =
    if s.proven 4 && ((s.swapTurn (ixCmp k)).isSome || !s.proven k) then
      ((s.takeFree.2.moveRes (ixCmp k) (ixCmp 4)).dropSwap (ixCmp k)).swapEnd 3 (ixCmp k) 1 (s.takeFree.1.toNat % 21)
    else s := by
  simp only [State.comparatorSubst, serves, may, free, Bool.not_true, if_neg Bool.false_ne_true, if_true]
  rfl

theorem State.comparatorSubst_taken_away (taken : s.isFree (ixCmp 4) = false)
    (away : ¬ ∃ r, s.nextSwap = some r ∧ r.index = ixCmp k) : s.comparatorSubst q = s := by
  have none := State.swapTurn_none away
  unfold State.swapTurn at none
  simp only [State.comparatorSubst, serves, may, taken, none, Bool.not_true, if_neg Bool.false_ne_true]

theorem State.comparatorSubst_taken_turn (taken : s.isFree (ixCmp 4) = false) {r : SwapReq} (next : s.nextSwap = some r)
    (at_ : r.index = ixCmp k) : s.comparatorSubst q = s.noPlace r := by
  have turn := State.swapTurn_of next at_
  unfold State.swapTurn at turn
  simp only [State.comparatorSubst, serves, may, taken, turn, Bool.not_true, if_neg Bool.false_ne_true]

end
end

/-! ### Pairing -/

/-- The pairing that a write of REP.MODE asks for. -/
def State.pairingAsked (s : State) (a : RegAt) (w : Word) : Nat := (s.wouldBe a w (BitVec.allOnes 64)).toNat % 4

theorem Reaches.write_repMode {m : Master} {a : RegAt} (h : Reaches s m rRepMode a) (w : Word) :
    s.write m rRepMode w =
      s.repModeWrite (s.pairingAsked a w) fun t => t.storeReg (s.auth m).src a w (BitVec.allOnes 64) false := by
  have l : located rRepMode .repMode 0 0 0 false = true := by decide
  obtain ⟨reg, -⟩ := h.at l
  have whole : coversFld (BitVec.allOnes 64) fRepModeSpair = true := by decide
  exact Reaches.alone_located h l (by decide) (by simp only [State.writeAlone, reg, whole, if_true]; rfl)

/-- A request adds a pairing to what REP.MODE holds. -/
def State.newlyPairs (s : State) (r : Nat) : Bool :=
  (r % 2 == 1 && (s.reg rRepMode).toNat % 2 == 0) || (r / 2 % 2 == 1 && (s.reg rRepMode).toNat / 2 % 2 == 0)

theorem State.repModeWrite_waits {r : Nat} {store : State → State} (runs : s.cus.target ≠ none)
    (apart : s.rb rRepMstat fRepMstatHandover = false) : s.repModeWrite r store = s.setCus { s.cus with repReq := some r } :=
  if_pos (by rw [apart, Option.isSome_iff_ne_none.mpr runs]; rfl)

section
variable {r : Nat} {store : State → State}
variable (now : s.cus.target = none ∨ s.rb rRepMstat fRepMstatHandover = true)
include now

theorem State.repModeWrite_now : s.repModeWrite r store = s.pairRequest r store := by
  refine if_neg ?_
  obtain idle | hands := now
  · rw [idle]; exact Bool.false_ne_true
  · rw [hands, Bool.not_true, Bool.and_false]; exact Bool.false_ne_true

theorem State.repModeWrite_badMode (h4 : s.mode ≠ 4) (h5 : s.mode ≠ 5) (h6 : s.mode ≠ 6) :
    s.repModeWrite r store = s.flt (Flt.plain .rep 0 4) :=
  (State.repModeWrite_now now).trans (if_pos ⟨h4, h5, h6⟩)

variable (mode : s.mode = 4 ∨ s.mode = 5 ∨ s.mode = 6)
include mode

theorem State.repModeWrite_noProof (newly : s.newlyPairs r = true) (unproven : s.proofOk = false) :
    s.repModeWrite r store = s.flt (Flt.plain .rep 0 3) := by
  rw [State.repModeWrite_now now]
  refine (if_neg (by omega)).trans (if_pos ?_)
  rw [unproven]
  exact (Bool.and_true _).trans newly

theorem State.repModeWrite_accepts (may : s.newlyPairs r = false ∨ s.proofOk = true) :
    s.repModeWrite r store = (store s).handover r := by
  rw [State.repModeWrite_now now]
  refine (if_neg (by omega)).trans (if_neg ?_)
  change ¬ (s.newlyPairs r && !s.proofOk) = true
  obtain old | proven := may
  · rw [old]; exact Bool.false_ne_true
  · rw [proven, Bool.not_true, Bool.and_false]; exact Bool.false_ne_true

end

section
variable {e : Nat}

theorem State.enginePairing_idle (idle : s.rb rRepMstat fRepMstatHandover = false) : s.enginePairing e = s :=
  if_neg (by rw [idle]; exact Bool.false_ne_true)

theorem State.enginePairing_hands (hands : s.rb rRepMstat fRepMstatHandover = true) :
    s.enginePairing e = (s.pairStep e).pairDone.takeTriggers := if_pos hands

theorem State.pairStep_busy (busy : (s.qBusy (2 * e) || s.qBusy (2 * e + 1)) = true) : s.pairStep e = s := if_pos busy

theorem State.pairStep_free (free : (s.qBusy (2 * e) || s.qBusy (2 * e + 1)) = false) : s.pairStep e =
    { s.setReg rRepMstat ((s.reg rRepMstat).setBit (3 + e) false) with engPair := s.engPair.erase e } :=
  if_neg (by rw [free]; exact Bool.false_ne_true)

end

end

/-- Settles O34, one lemma for each branch of the model's commands. -/
theorem comparatorsProveAndPair : Obligations.ComparatorsProveAndPair := by
  unfold Obligations.ComparatorsProveAndPair
  refine ⟨fun s k caught lane pos => ?_, fun s k => ⟨?_, fun mode active due => ?_⟩, fun s q => ⟨?_, ?_, fun k serves may => ?_⟩,
    fun s m sp vp a h => ?_, fun s e => ⟨?_, fun hands busy => ?_, fun hands free => ?_⟩⟩
  · intro a u
    refine ⟨fun out => congrArg Host.Outcome.next (State.fullProof_unasked out _ _ _), fun asked all => ?_,
      fun asked few => congrArg Host.Outcome.next (State.fullProof_misses asked few _ _)⟩
    obtain ⟨injected, caught', done, missed, proven, periodic⟩ := (s.proofEnded k.val).proofPassed_fields k.isLt
    obtain ⟨cus, mem, cals, queues⟩ := (s.proofEnded k.val).proofPassed_frame k.val
    have others (b : Nat) := State.proofPassed_other (s.proofEnded k.val) (k := k.val) (b := b)
    exact ⟨(s.proofEnded k.val).proofPassed k.val, congrArg Host.Outcome.next (State.fullProof_catches asked all _ _), cus,
      injected, caught', done, missed, proven, periodic, others, mem, cals, queues⟩
  · exact fun caught idle => congrArg Host.Outcome.next (State.periodicProof_idle idle caught)
  · have run (caught : Bool) := congrArg (Host.Outcome.next (φ := Fault) (ρ := Refusal)) (State.periodicProof_due mode active due caught)
    refine ⟨run true, fun missed => (run false).trans ?_, fun fresh => (run false).trans ?_⟩
    · rw [if_neg Bool.false_ne_true, if_pos missed]
      rfl
    · rw [if_neg Bool.false_ne_true, if_neg (by rw [fresh]; exact Bool.false_ne_true)]
      rfl
  · exact fun unserved => congrArg Host.Outcome.next (State.comparatorSubst_unserved unserved)
  · exact fun barred => congrArg Host.Outcome.next (State.comparatorSubst_barred barred)
  · intro turn
    refine ⟨fun free => ⟨fun proven due => ?_, fun stays => ?_⟩, fun taken => ⟨fun away => ?_, fun r next at_ => ?_⟩⟩
    · refine ⟨_, ?_, congrArg Host.Outcome.next ((State.comparatorSubst_free serves may free).trans (if_pos ?_))⟩
      · exact Nat.le_of_lt_succ (Nat.mod_lt _ (by decide))
      · rw [proven, Bool.true_and, Bool.or_eq_true]
        exact due.symm.imp State.swapTurn_some.mpr fun h => by rw [h]; rfl
    · refine congrArg Host.Outcome.next ((State.comparatorSubst_free serves may free).trans (if_neg ?_))
      obtain unproven | ⟨proven, away⟩ := stays
      · rw [unproven, Bool.false_and]
        exact Bool.false_ne_true
      · rw [State.swapTurn_none away, proven]
        simp
    · exact congrArg Host.Outcome.next (State.comparatorSubst_taken_away serves may taken away)
    · exact congrArg Host.Outcome.next (State.comparatorSubst_taken_turn serves may taken next at_)
  · intro w r newly
    have run {t : State} (ht : (s.repModeWrite r fun t => t.storeReg (s.auth m).src a w (BitVec.allOnes 64) false) = t) :
        exec (.repModeWrite m sp vp) s = .next t :=
      congrArg Host.Outcome.next ((Reaches.write_repMode h w).trans ht)
    refine ⟨fun runs apart => run (State.repModeWrite_waits runs apart), fun now => ⟨fun h4 h5 h6 => ?_, fun mode => ⟨?_, ?_⟩⟩⟩
    · exact run (State.repModeWrite_badMode now h4 h5 h6)
    · exact fun new unproven => run (State.repModeWrite_noProof now mode new unproven)
    · exact fun ok => run (State.repModeWrite_accepts now mode ok)
  · exact fun idle => congrArg Host.Outcome.next (State.enginePairing_idle idle)
  · exact congrArg Host.Outcome.next ((State.enginePairing_hands hands).trans (by rw [State.pairStep_busy busy]))
  · exact congrArg Host.Outcome.next ((State.enginePairing_hands hands).trans (by rw [State.pairStep_free free]))

end Sys2Proof.Machine

/-! ## Cue channels and groups (R461 to R471) -/

namespace Sys2Proof.Machine

section
variable {s : State} {ch : Nat}

/-! ### Firing attempts -/

theorem State.rateRoll_eq (s : State) : s.rateRoll = inWindow s := rfl

theorem State.fireDecide_eq (s : State) (ch : Nat) : s.fireDecide furtherOnce ch = decidedFiring s ch := by
  unfold decidedFiring State.fireDecide
  simp only [Bool.and_eq_true]
  rfl

theorem State.fire_never (h : 254 ≤ ch) : s.fire ch = s := if_pos h

theorem State.fire_eq (h : ch < 254) : s.fire ch = (decidedFiring (attempted s ch) ch).rateCheck ch := by
  have fired : s.fire ch = ((attempted s ch).fireDecide furtherOnce ch).rateCheck ch := if_neg (by omega)
  rw [fired, State.fireDecide_eq]

theorem State.rateCheck_below
    (below : s.rf (rCueChcfg ch) fCueChcfgRatelim = 0 ∨ s.attempts ch ≠ s.rf (rCueChcfg ch) fCueChcfgRatelim) : s.rateCheck ch = s := by
  refine if_neg ?_
  rintro ⟨limited, reached⟩
  exact below.elim limited fun away => away reached

/-- The attempt that reaches RATELIM shows and raises LOOP (R470). -/
def State.looped (s : State) (ch : Nat) : State := (s.setRf (rCueChstat ch) fCueChstatRate 1).flt (loopFlt ch)

theorem State.rateCheck_reaches (limited : s.rf (rCueChcfg ch) fCueChcfgRatelim ≠ 0)
    (reached : s.attempts ch = s.rf (rCueChcfg ch) fCueChcfgRatelim) : s.rateCheck ch =
      if (s.looped ch).rb (rCueChcfg ch) fCueChcfgRateoff then (s.looped ch).setGroup (ch / 8) false else s.looped ch :=
  if_pos ⟨limited, reached⟩

theorem State.fire_fired (s : State) (ch : Nat) : Fired s (s.fire ch) ch where
  never h := State.fire_never h
  below h := by
    intro u below
    rw [State.fire_eq h, State.rateCheck_below below]
  reaches h := by
    intro u limited reached v
    rw [State.fire_eq h, State.rateCheck_reaches limited reached]
    exact ⟨fun keeps => if_neg (by rw [show State.rb (State.looped _ ch) _ _ = false from keeps]; exact Bool.false_ne_true),
      fun disables => if_pos disables⟩

/-! ### Firing by register -/

theorem located_cueFires : ∀ w : Fin 2, located (rCueFires w.val) .cueFires 0 0 w.val true = true ∧ fielded (rCueFires w.val) = true := by
  decide

theorem Reaches.write_cueFires {m : Master} {w : Fin 2} {a : RegAt} (h : Reaches s m (rCueFires w.val) a) (c : BitVec 8) :
    s.write m (rCueFires w.val) (BitVec.ofNat 64 (c.toNat + 2 ^ 8)) = s.cueFireReg w.val c.toNat (s.auth m).src := by
  obtain ⟨l, f⟩ := located_cueFires w
  obtain ⟨reg, -, -, j, -⟩ := h.at l
  have hc := c.isLt
  have go : wrb (BitVec.ofNat 64 (c.toNat + 2 ^ 8)) fCueFiresGo = true := by
    refine beq_iff_eq.mpr ?_
    rw [wr_ofNat _ _ _ (by decide)]
    omega
  have channel : wr (BitVec.ofNat 64 (c.toNat + 2 ^ 8)) fCueFiresChannel = c.toNat := by
    rw [wr_ofNat _ _ _ (by decide)]
    omega
  rw [Reaches.acts_located h l f (by decide) _ (by simp only [State.writeAlone, reg])]
  simp only [State.wrote, reg, j, go, channel, if_true]

theorem exec_cueFireCommand (s : State) (m : Master) (ch : BitVec 8) (w : Fin 2) :
    exec (if w.val = 0 then .cueFires m ch else .cueFirev m ch) s =
      .next (s.write m (rCueFires w.val) (BitVec.ofNat 64 (ch.toNat + 2 ^ 8))) := by
  match w with
  | 0 => rfl
  | 1 => rfl

theorem State.cueFireReg_fires {w src : Nat} (command : ch < 128) (world : s.rf (rCueChcfg ch) fCueChcfgWorld = w) :
    s.cueFireReg w ch src = s.fire ch := by
  refine if_neg ?_
  rintro (high | other)
  · omega
  · exact other world

/-! ### Groups -/

/-- `t` is `s` with another GRPEN. -/
structure GroupsMoved (s t : State) : Prop where
  others : ∀ b, b ≠ rCueGrpen → t.reg b = s.reg b
  fields : { t with regs := s.regs } = s

theorem GroupsMoved.refl (s : State) : GroupsMoved s s := ⟨fun _ _ => rfl, rfl⟩

theorem GroupsMoved.setGroup {s t : State} (h : GroupsMoved s t) (g : Nat) (on : Bool) : GroupsMoved s (t.setGroup g on) where
  others b hb := by
    rw [State.setGroup, State.reg_setReg, if_neg hb, h.others b hb]
  fields := h.fields

/-- Those of the listed groups that a mask names. -/
def State.setGroups (s : State) (groups : Nat) (on : Bool) (gs : List Nat) : State :=
  gs.foldl (fun s g => if groups.testBit g then s.setGroup g on else s) s

theorem State.bit_setGroup (s : State) (g : Nat) (on : Bool) {b : Nat} (h : b < 64) :
    ((s.setGroup g on).reg rCueGrpen).bit b = if b = g then on else (s.reg rCueGrpen).bit b := by
  rw [State.setGroup, State.reg_setReg, if_pos rfl, Word.setBit, Word.bit_setFld _ _ _ _ h]
  by_cases same : b = g
  · rw [if_pos (by omega), if_pos same, same, Nat.sub_self]
    cases on <;> rfl
  · rw [if_neg (by omega), if_neg same]

theorem State.setGroups_spec (groups : Nat) (on : Bool) (gs : List Nat) (s : State) :
    GroupsMoved s (s.setGroups groups on gs) ∧ ∀ b, b < 64 → ((s.setGroups groups on gs).reg rCueGrpen).bit b =
      if groups.testBit b ∧ b ∈ gs then on else (s.reg rCueGrpen).bit b := by
  induction gs using List.reverseRecOn with
  | nil => exact ⟨.refl s, fun b _ => by simp [State.setGroups]⟩
  | append_singleton gs g ih =>
    obtain ⟨moved, bits⟩ := ih
    have last : s.setGroups groups on (gs ++ [g]) =
        if groups.testBit g then (s.setGroups groups on gs).setGroup g on else s.setGroups groups on gs := by
      unfold State.setGroups
      rw [List.foldl_append]
      rfl
    rw [last]
    by_cases named : groups.testBit g = true
    · rw [if_pos named]
      refine ⟨moved.setGroup g on, fun b h => ?_⟩
      rw [State.bit_setGroup _ _ _ h, bits b h]
      by_cases same : b = g
      · simp [same, named]
      · simp [same]
    · rw [if_neg named]
      refine ⟨moved, fun b h => ?_⟩
      rw [bits b h]
      by_cases same : b = g
      · simp [same, named]
      · simp [same]

theorem State.grpWrite_eq (s : State) (groups : Nat) (on : Bool) : s.grpWrite groups on = s.setGroups groups on (List.range 32) := rfl

/-- GRPSET and GRPCLR touch exactly the groups that the mask names. -/
theorem State.grpWrite_spec (s : State) (groups : BitVec 32) (on : Bool) :
    GroupsMoved s (s.grpWrite groups.toNat on) ∧ ∀ g, g < 64 → ((s.grpWrite groups.toNat on).reg rCueGrpen).bit g =
      if groups.toNat.testBit g then on else (s.reg rCueGrpen).bit g := by
  rw [State.grpWrite_eq]
  obtain ⟨moved, bits⟩ := State.setGroups_spec groups.toNat on (List.range 32) s
  refine ⟨moved, fun g h => ?_⟩
  rw [bits g h]
  by_cases low : g < 32
  · simp [List.mem_range, low]
  · have out : groups.toNat.testBit g = false :=
      Nat.testBit_lt_two_pow (Nat.lt_of_lt_of_le groups.isLt (Nat.pow_le_pow_right (by decide) (by omega)))
    simp [out]

theorem Reaches.write_grpset {m : Master} {a : RegAt} (h : Reaches s m rCueGrpset a) (groups : BitVec 32) :
    s.write m rCueGrpset (groups.zeroExtend 64) = s.grpWrite groups.toNat true := by
  have l : located rCueGrpset .cueGrpset 0 0 0 true = true := by decide
  obtain ⟨reg, -⟩ := h.at l
  rw [Reaches.acts_located h l (by decide) (by decide) _ (by simp only [State.writeAlone, reg])]
  simp only [State.wrote, reg, wr_zeroExtend groups (by decide)]

theorem Reaches.write_grpclr {m : Master} {a : RegAt} (h : Reaches s m rCueGrpclr a) (groups : BitVec 32) :
    s.write m rCueGrpclr (groups.zeroExtend 64) = s.grpWrite groups.toNat false := by
  have l : located rCueGrpclr .cueGrpclr 0 0 0 true = true := by decide
  obtain ⟨reg, -⟩ := h.at l
  rw [Reaches.acts_located h l (by decide) (by decide) _ (by simp only [State.writeAlone, reg])]
  simp only [State.wrote, reg, wr_zeroExtend groups (by decide)]

/-! ### Timers -/

theorem State.timerExpiry_fires {k : Nat} (on : s.rb (rCueTimer k) fCueTimerEn = true)
    (here : s.time % s.rf (rCueTimer k) fCueTimerPeriod = s.rf (rCueTphase k) fCueTphasePhase % s.rf (rCueTimer k) fCueTimerPeriod)
    (fresh : Tab.get timeDefault s.cue.timerAt k ≠ some s.time) : s.timerExpiry k =
      { s with cue := { s.cue with timerAt := Tab.set timeDefault s.cue.timerAt k (some s.time) } }.fire (240 + k) :=
  if_pos (by simp [on, here, fresh])

theorem State.timerExpiry_stays {k : Nat} (h : s.rb (rCueTimer k) fCueTimerEn = false ∨
      ¬ s.time % s.rf (rCueTimer k) fCueTimerPeriod = s.rf (rCueTphase k) fCueTphasePhase % s.rf (rCueTimer k) fCueTimerPeriod ∨
      Tab.get timeDefault s.cue.timerAt k = some s.time) : s.timerExpiry k = s := by
  refine if_neg ?_
  simp only [Bool.and_eq_true, decide_eq_true_eq, bne_iff_ne]
  rintro ⟨⟨on, here⟩, fresh⟩
  obtain off | away | done := h
  · exact absurd (on.symm.trans off) (by decide)
  · exact away here
  · exact fresh done

end

/-- Settles O35: a firing attempt is counted, decided and checked against its limit by `State.fire_eq`, and each command
leads to one or to none. -/
theorem firingAttemptsAreDecided : Obligations.FiringAttemptsAreDecided := by
  unfold Obligations.FiringAttemptsAreDecided
  refine ⟨fun s m ch w a h => ?_, fun s m groups a => ⟨fun h => ?_, fun h => ?_⟩, fun s n => ?_, fun s => rfl⟩
  · intro i
    have run : exec i s = .next (s.cueFireReg w.val ch.toNat (s.auth m).src) :=
      (exec_cueFireCommand s m ch w).trans (congrArg _ (Reaches.write_cueFires h ch))
    refine ⟨fun command world => ⟨_, ?_, s.fire_fired ch.toNat⟩, fun denied => run.trans (congrArg _ (if_pos denied))⟩
    rw [run, State.cueFireReg_fires command world]
  · obtain ⟨moved, bits⟩ := s.grpWrite_spec groups true
    refine ⟨_, congrArg Host.Outcome.next (Reaches.write_grpset h groups), fun g hg => ?_, moved.others, moved.fields⟩
    rw [bits g hg]
    cases groups.toNat.testBit g <;> simp
  · obtain ⟨moved, bits⟩ := s.grpWrite_spec groups false
    refine ⟨_, congrArg Host.Outcome.next (Reaches.write_grpclr h groups), fun g hg => ?_, moved.others, moved.fields⟩
    rw [bits g hg]
    cases groups.toNat.testBit g <;> simp
  · exact ⟨fun on here fresh => ⟨_, congrArg Host.Outcome.next (State.timerExpiry_fires on here fresh), State.fire_fired ..⟩,
      fun stays => congrArg Host.Outcome.next (State.timerExpiry_stays stays)⟩

end Sys2Proof.Machine

/-! ## An input that a write enables forgets its STUCK wait (R474, R475) -/

namespace Sys2Proof.Machine

/-- Input 0 waits after STUCK for its inactivity. -/
def stuckInput : State := Tests.up.setStuckWait 0 true

/-- The write that sets EN of input 0. -/
def enablesInput (a : RegAt) : Bool :=
  let t := stuckInput.storeReg (stuckInput.auth Tests.c0).src a 1 (BitVec.allOnes 64) false
  (t.reg (rCuePincfg 0)).bit 0 && !t.pinActive 0 &&
    Tab.get flagDefault ((t.setRf (rCuePinstat 0) fCuePinstatLevel 0).setActiveAt 0 none).cue.stuckWait 0

/-- Does input 0 wait for its inactivity after a command? -/
def stuckAfter : Host.Outcome State Fault Refusal → Bool
  | .next t => Tab.get flagDefault t.cue.stuckWait 0
  | _ => false

theorem enabling_ends_stuckWait : stuckAfter (exec (.pincfgWrite Tests.c0 0 1) stuckInput) = false := by decide +kernel

/-- Refutes O36: a write that enables an inactive input also ends its wait after STUCK, of which the statement's state
knows nothing. -/
theorem not_pinsAndInjectedFaultsTakeEffect : ¬ Obligations.PinsAndInjectedFaultsTakeEffect := by
  unfold Obligations.PinsAndInjectedFaultsTakeEffect
  rintro ⟨-, pincfg, -⟩
  obtain ⟨a, reaches, enables⟩ := Tests.hitsWith (s := stuckInput) (m := Tests.c0) (off := rCuePincfg 0) (p := enablesInput)
    (by decide +kernel) (by decide +kernel)
  simp only [enablesInput, Bool.and_eq_true, Bool.not_eq_true'] at enables
  obtain ⟨⟨on, inactive⟩, waits⟩ := enables
  obtain ⟨-, enabled⟩ := pincfg stuckInput Tests.c0 0 1 a reaches
  have after := congrArg stuckAfter (enabled on (by decide +kernel) inactive)
  rw [enabling_ends_stuckWait] at after
  exact Bool.false_ne_true (after.trans waits)

end Sys2Proof.Machine

/-! ## Commands on a caller from outside (R432, R438, R441, R444) -/

namespace Sys2Proof.Machine

section
variable {s : State} {c : Nat}

/-! ### The reload of a table -/

/-- The copy of a table that bytes hold. -/
def tableCopy (bs : List Byte) : Tab Word := ((List.range 64).zip (wordsOf bs 64)).foldl (fun m x => Tab.set wordZero m x.1 x.2) []

theorem Tab.get_foldl_set {α : Type} [DecidableEq α] {d : Nat → α} (f : Nat → α) (ks : List Nat) (t : Tab α) (n : Nat) :
    Tab.get d ((ks.map fun k => (k, f k)).foldl (fun m x => Tab.set d m x.1 x.2) t) n = if n ∈ ks then f n else Tab.get d t n := by
  induction ks generalizing t with
  | nil => rfl
  | cons k ks ih =>
    rw [List.map_cons, List.foldl_cons, ih, Tab.get_set]
    by_cases here : n = k
    · simp [here]
    · simp [here]

theorem tableCopy_entry (bs : List Byte) {n : Nat} (h : n < 64) : Tab.get wordZero (tableCopy bs) n = tableEntry bs n := by
  have words : (List.range 64).zip (wordsOf bs 64) = (List.range 64).map fun i => (i, tableEntry bs i) := by
    conv_lhs => rw [← List.map_id (List.range 64)]
    exact List.zip_map'
  rw [tableCopy, words, Tab.get_foldl_set, if_pos (List.mem_range.mpr h)]

/-- The address whose memory a reload of the table at `a` waits for. -/
def State.tablePlace (s : State) (a : Nat) : Nat := match s.target a with | .mem p => p | _ => a

theorem State.tablePlace_ready {a : Nat} (mem : ∀ p, s.target a = .mem p → s.memReady p = true)
    (other : (∀ p, s.target a ≠ .mem p) → s.memReady a = true) : s.memReady (s.tablePlace a) = true := by
  unfold State.tablePlace
  split
  case h_1 p hp => exact mem p hp
  case h_2 out => exact other out

section
variable {z : SaveSet}

theorem State.tableReload_idle (idle : ((s.cal c).tab z).busy = false) : s.tableReload c z = s :=
  if_pos (by rw [idle]; rfl)

variable (due : ((s.cal c).tab z).busy = true) (up : s.memReady (s.tablePlace ((s.cal c).tab z).base.toNat) = true)
include due up

theorem State.tableReload_goes :
    ¬ (!((s.cal c).tab z).busy || !s.memReady (s.tablePlace ((s.cal c).tab z).base.toNat)) = true := by
  rw [due, up]
  exact Bool.false_ne_true

theorem State.tableReload_reads {u : State} {bs : List Byte}
    (read : s.ownRead c ((s.cal c).tab z).base.toNat 512 = (u, .ok bs)) : s.tableReload c z =
      (u.setCal c ((u.cal c).setTab z ⟨((s.cal c).tab z).base, tableCopy bs, true, false⟩)).pollEntry c := by
  unfold State.tableReload
  simp only [read]
  exact if_neg (State.tableReload_goes due up)

theorem State.tableReload_faults {u : State} {e : MErr}
    (read : s.ownRead c ((s.cal c).tab z).base.toNat 512 = (u, .error e)) : s.tableReload c z =
      (u.setCal c ((u.cal c).setTab z ⟨((s.cal c).tab z).base, [], true, false⟩)).pollEntry c := by
  unfold State.tableReload
  simp only [read]
  exact if_neg (State.tableReload_goes due up)

end

/-! ### CAL.WORLD and CAL.WSBASE -/

theorem located_calWorld : ∀ c : BitVec 3, located (rCalWorld c.toNat) .calWorld c.toNat 0 0 false = true ∧
    inBlock (rCalWorld c.toNat) .cal = true := by decide

theorem located_calWsbase : ∀ c : BitVec 3, located (rCalWsbase c.toNat) .calWsbase c.toNat 0 0 false = true ∧
    inBlock (rCalWsbase c.toNat) .cal = true := by decide

theorem located_calRestart : ∀ c : BitVec 3, located (rCalRestart c.toNat) .calRestart c.toNat 0 0 true = true ∧
    inBlock (rCalRestart c.toNat) .cal = true ∧ fielded (rCalRestart c.toNat) = true := by decide

end

section
variable {s : State} {m : Master} {c : BitVec 3} {a : RegAt}

theorem Reaches.write_calWorld_may {w : Word} (h : Reaches s m (rCalWorld c.toNat) a)
    (may : ((s.auth m).custody || (s.auth m).otherMachine c.toNat) = true) (quiet : s.quiesced c.toNat = true) :
    s.write m (rCalWorld c.toNat) w = (s.storeReg (s.auth m).src a w (BitVec.allOnes 64) false).worldChanged c.toNat := by
  obtain ⟨l, -⟩ := located_calWorld c
  obtain ⟨reg, inst, -⟩ := h.at l
  have whole : coversFld (BitVec.allOnes 64) fCalWorldWorld = true := by decide
  rw [Reaches.stores_located h l (by decide) w (by simp only [State.writeAlone, reg, inst, may, quiet, Bool.and_self, if_true])]
  simp only [State.wrote, reg, inst, whole, if_true]

theorem Reaches.write_calWorld_refused {w : Word} (h : Reaches s m (rCalWorld c.toNat) a)
    (refused : (((s.auth m).custody || (s.auth m).otherMachine c.toNat) && s.quiesced c.toNat) = false) :
    s.write m (rCalWorld c.toNat) w = s.locked .cal c.toNat := by
  obtain ⟨l, b⟩ := located_calWorld c
  obtain ⟨reg, inst, -⟩ := h.at l
  exact Reaches.alone_located h l (by decide)
    (by simp only [State.writeAlone, reg, inst, refused, if_neg Bool.false_ne_true, Reaches.block h b])

theorem Reaches.write_calWsbase_may {w : Word} (h : Reaches s m (rCalWsbase c.toNat) a) (quiet : s.quiesced c.toNat = true) :
    let t := s.storeReg (s.auth m).src a w (BitVec.allOnes 64) false
    s.write m (rCalWsbase c.toNat) w = t.setCal c.toNat { t.cal c.toNat with wsp := t.reg (rCalWsbase c.toNat), depth := 0 } := by
  intro t
  obtain ⟨l, -⟩ := located_calWsbase c
  obtain ⟨reg, inst, -, -, -, at_⟩ := h.at l
  rw [Reaches.stores_located h l (by decide) w (by simp only [State.writeAlone, reg, inst, quiet, if_true])]
  simp only [State.wrote, reg, inst, at_, t]

theorem Reaches.write_calWsbase_refused {w : Word} (h : Reaches s m (rCalWsbase c.toNat) a) (refused : s.quiesced c.toNat = false) :
    s.write m (rCalWsbase c.toNat) w = s.locked .cal c.toNat := by
  obtain ⟨l, b⟩ := located_calWsbase c
  obtain ⟨reg, inst, -⟩ := h.at l
  exact Reaches.alone_located h l (by decide)
    (by simp only [State.writeAlone, reg, inst, refused, if_neg Bool.false_ne_true, Reaches.block h b])

/-! ### CAL.RESTART -/

/-- The word that a restart at `addr` writes. -/
def restartWord (addr : Addr) : Word := Word.setFld (addr.zeroExtend 64) 0 2 1

theorem restartWord_fields (addr : Addr) :
    wrb (restartWord addr) fCalRestartGo = true ∧ 4 * wr (restartWord addr) fCalRestartAddr = addr.toNat / 4 * 4 := by
  have small := addr.isLt
  have wide : (addr.zeroExtend 64).toNat = addr.toNat := by
    rw [BitVec.zeroExtend, BitVec.toNat_setWidth]
    omega
  constructor
  · have low : (restartWord addr).toNat / 2 ^ 0 % 2 ^ 2 = 1 % 2 ^ 2 := Word.fld_setFld_same _ (by decide)
    have go : (restartWord addr).toNat / 2 ^ 0 % 2 ^ 1 = 1 := by omega
    exact beq_iff_eq.mpr go
  · have high : (restartWord addr).fld 2 46 = Word.fld (addr.zeroExtend 64) 2 46 :=
      Word.fld_setFld_other _ (l := 0) (n := 2) (by decide)
    rw [show wr (restartWord addr) fCalRestartAddr = _ from high, Word.fld, wide]
    omega

theorem Reaches.write_calRestart_may {addr : Addr} (h : Reaches s m (rCalRestart c.toNat) a)
    (may : (s.auth m).otherMachine c.toNat = true) (held : (s.cal c.toNat).hold = true) :
    s.write m (rCalRestart c.toNat) (restartWord addr) = s.restart c.toNat (addr.toNat / 4 * 4) := by
  obtain ⟨l, -, f⟩ := located_calRestart c
  obtain ⟨reg, inst, -⟩ := h.at l
  obtain ⟨go, target⟩ := restartWord_fields addr
  rw [Reaches.acts_located h l f (by decide) _
    (by simp only [State.writeAlone, reg, inst, may, held, Bool.and_self, if_true])]
  simp only [State.wrote, reg, inst, go, target, if_true]

theorem Reaches.write_calRestart_refused {w : Word} (h : Reaches s m (rCalRestart c.toNat) a)
    (refused : ((s.auth m).otherMachine c.toNat && (s.cal c.toNat).hold) = false) :
    s.write m (rCalRestart c.toNat) w = s.locked .cal c.toNat := by
  obtain ⟨l, b, -⟩ := located_calRestart c
  obtain ⟨reg, inst, -⟩ := h.at l
  exact Reaches.alone_located h l (by decide)
    (by simp only [State.writeAlone, reg, inst, refused, if_neg Bool.false_ne_true, Reaches.block h b])

end

/-- The caller as its restart leaves it, before a pending trap is taken (R444). -/
def State.restarted (s : State) (c addr : Nat) : State :=
  let t := (s.setStatus c 3).setRf (rCalHoldrep c) fCalHoldrepInhold 0
  (t.setCal c { t.cal c with hold := false, pc := addr }).calReport c

theorem State.restart_eq {s : State} (light : s.cus.curtain = false) (c addr : Nat) :
    s.restart c addr = (s.restarted c addr).pollTrap c := by
  unfold State.restart
  rw [light]
  rfl

theorem State.setStatus_frame (s : State) (c : Nat) (v : Word) :
    (s.setStatus c v).regs = s.regs ∧ (s.setStatus c v).mem = s.mem ∧ (s.setStatus c v).queues = s.queues := by
  unfold State.setStatus
  dsimp only
  split <;> exact ⟨rfl, rfl, rfl⟩

theorem State.restarted_cal (s : State) (c addr : Nat) :
    (s.restarted c addr).cal c = { s.cal c with status := 3, hold := false, pc := addr } := by
  have status : (s.setStatus c 3).cal c = { s.cal c with status := 3 } :=
    (State.setStatus_cal ..).trans (State.cal_setCal_same ..)
  refine (State.cal_setCal_same ..).trans ?_
  rw [show ((s.setStatus c 3).setRf (rCalHoldrep c) fCalHoldrepInhold 0).cal c = (s.setStatus c 3).cal c from rfl, status]

theorem State.restarted_other (s : State) {c k : Nat} (addr : Nat) (h : k ≠ c) : (s.restarted c addr).cal k = s.cal k :=
  (State.cal_setCal_other _ _ h).trans ((State.setStatus_cal ..).trans (State.cal_setCal_other _ _ h))

theorem State.restarted_reg (s : State) {c b : Nat} (addr : Nat) (h : b ≠ rCalHoldrep c) : (s.restarted c addr).reg b = s.reg b := by
  have status : (s.setStatus c 3).reg b = s.reg b := congrArg (Tab.get regReset · b) (s.setStatus_frame c 3).1
  exact (State.reg_setRf_other _ _ _ h).trans status

theorem State.restarted_free (s : State) (c addr : Nat) : (s.restarted c addr).rb (rCalHoldrep c) fCalHoldrepInhold = false := by
  have zero := (s.setStatus c 3).rf_setRf_same (rCalHoldrep c) (f := fCalHoldrepInhold) 0 (by decide)
  have free := State.rb_of_zero zero
  exact free

/-- Settles O37: what each register asks of its master decides between its action and LOCKED, and the copy of a table is
its 64 words (`tableCopy_entry`). -/
theorem callersAreSetUpFromOutside : Obligations.CallersAreSetUpFromOutside := by
  unfold Obligations.CallersAreSetUpFromOutside
  refine ⟨fun s c z => ?_, fun s m c w a h => ?_, fun s m c v a h => ?_, fun s m c addr a h => ?_⟩
  · intro y
    refine ⟨fun idle => congrArg Host.Outcome.next (State.tableReload_idle idle), fun due mem other => ?_⟩
    have up := State.tablePlace_ready mem other
    exact ⟨fun u bs read => ⟨_, congrArg Host.Outcome.next (State.tableReload_reads due up read), fun n => tableCopy_entry bs⟩,
      fun u e read => congrArg Host.Outcome.next (State.tableReload_faults due up read)⟩
  · intro may t u
    refine ⟨fun hmay quiet light => congrArg Host.Outcome.next ((Reaches.write_calWorld_may h ?_ quiet).trans ?_),
      fun refused => congrArg Host.Outcome.next (Reaches.write_calWorld_refused h ?_)⟩
    · rwa [Bool.or_eq_true]
    · have bit : (t.cus.curtain && (t.cal c.toNat).status.bit 4) = false := by rw [light, Bool.false_and]
      have status : (u.cal c.toNat).status = (t.cal c.toNat).status := by
        rw [State.cal_setCal_same]
      change u.setStatus c.toNat ((u.cal c.toNat).status.setBit 4 (t.cus.curtain && (u.cal c.toNat).status.bit 4)) = _
      rw [status, bit]
    · rw [Bool.and_eq_false_iff, Bool.eq_false_iff, ne_eq, Bool.or_eq_true]
      exact refused
  · intro t
    exact ⟨fun quiet => congrArg Host.Outcome.next (Reaches.write_calWsbase_may h quiet),
      fun refused => congrArg Host.Outcome.next (Reaches.write_calWsbase_refused h refused)⟩
  · intro may
    refine ⟨fun hmay held light => ?_, fun refused => congrArg Host.Outcome.next (Reaches.write_calRestart_refused h ?_)⟩
    · have caller := s.restarted_cal c.toNat (addr.toNat / 4 * 4)
      obtain ⟨-, mem, queues⟩ := s.setStatus_frame c.toNat 3
      refine ⟨s.restarted c.toNat (addr.toNat / 4 * 4), congrArg Host.Outcome.next
        ((Reaches.write_calRestart_may h hmay held).trans (State.restart_eq light ..)), ?_, ?_, ?_, ?_, fun z => ?_,
        s.restarted_free .., fun k hk => s.restarted_other _ hk, fun b hb => s.restarted_reg _ hb, mem, queues⟩
      all_goals rw [caller]
      cases z <;> rfl
    · rw [Bool.and_eq_false_iff, Bool.eq_false_iff]
      exact refused

end Sys2Proof.Machine

/-! ## Device modes (R621, R622, R631 to R636, R669) -/

namespace Sys2Proof.Machine

/-- A write that reaches a register with fields stores what the register stores, then acts. -/
theorem Reaches.writes_located {s : State} {m : Master} {off : Nat} {a : RegAt} {r : Reg} {inst i j : Nat} {acting : Bool}
    (h : Reaches s m off a) (l : located off r inst i j acting = true) (f : Machine.fielded off = true)
    (plain : r ≠ .cfgCommit ∧ r ≠ .lnkSecctl ∧ r ≠ .lnkTxsctl) (v : Word)
    (alone : s.writeAlone (s.auth m) a v (BitVec.allOnes 64) false = none) :
    s.write m off v =
      (s.storeReg (s.auth m).src a v (BitVec.allOnes 64) false).wrote (s.auth m) a (s.reg off) v (BitVec.allOnes 64) := by
  obtain ⟨reg, -, -, -, -, at_⟩ := h.at l
  obtain ⟨commit, sec, txs⟩ := plain
  rw [← reg] at commit sec txs
  rw [h.write commit, State.writeReg_plain sec txs (by rw [Reaches.fielded h f, Bool.and_false]) alone, at_]

/-! ### Triggers and transitions -/

section
variable {s : State}

theorem State.arriveMode_eq (s : State) (t : Nat) : s.arriveMode t = arrivedIn s t := rfl

theorem State.begin_other {t : Nat} (curtain : t ≠ 9) (flush : t ≠ 10) : s.begin t = aimed s t := by
  unfold State.begin
  split
  · exact absurd rfl curtain
  · exact absurd rfl flush
  · rfl

theorem State.begin_curtain : s.begin 9 = (aimed s 9).dropCurtain := rfl

theorem State.begin_flush : s.begin 10 = (aimed s 10).dropFlush := rfl

section
variable {how : Trig} {t : Nat} (idle : s.cus.target = none)
include idle

theorem State.trigger_allowed (may : s.allowed how t = true) : s.trigger how t = s.begin t := by
  unfold State.trigger
  rw [idle]
  exact if_pos may

theorem State.trigger_barred (barred : s.allowed how t = false) (pin : how ≠ .modectl) : s.trigger how t = s := by
  unfold State.trigger
  rw [idle]
  exact (if_neg (by rw [barred]; exact Bool.false_ne_true)).trans (if_neg pin)

theorem State.trigger_badTrans (barred : s.allowed .modectl t = false) : s.trigger .modectl t = s.flt (cusFlt 5 t) := by
  unfold State.trigger
  rw [idle]
  exact (if_neg (by rw [barred]; exact Bool.false_ne_true)).trans (if_pos rfl)

end

theorem State.trigger_queues {x : Nat} (runs : s.cus.target = some x) (t : Nat) :
    s.trigger .modectl t = s.setCus { s.cus with request := some t } := by
  unfold State.trigger
  rw [runs]
  exact if_neg fun h => h.1 rfl

theorem State.canDrop_iff : s.canDrop = true ↔ (2 ≤ s.mode ∧ s.mode ≤ 9) ∨ s.mode = 11 := by
  simp [State.canDrop]

/-! ### CUS.MODECTL -/

theorem State.allowed_modectl {t : Nat} (h : t = 3 ∨ t = 8 ∨ t = 9 ∨ t = 11) : s.allowed .modectl t = true ↔ mayAsk s t := by
  obtain rfl | rfl | rfl | rfl := h
  · simp [State.allowed, mayAsk]
  · simp [State.allowed, mayAsk, or_assoc]
  · simp only [State.allowed, mayAsk, Bool.and_eq_true, State.canDrop_iff, bne_iff_ne]
    omega
  · simp [State.allowed, mayAsk]

theorem modectlWord_fields (after : BitVec 4) {t : Nat} (h : t < 16) :
    wrb (modectlWord t after) fCusModectlGo = true ∧ wr (modectlWord t after) fCusModectlTarget = t := by
  have small := after.isLt
  unfold modectlWord
  constructor
  · refine beq_iff_eq.mpr ?_
    rw [wr_ofNat _ _ _ (by decide)]
    omega
  · rw [wr_ofNat _ _ _ (by decide)]
    omega

theorem Reaches.write_modectl {m : Master} {a : RegAt} (h : Reaches s m rCusModectl a) (after : BitVec 4) {t : Nat} (small : t < 16) :
    s.write m rCusModectl (modectlWord t after) =
      (s.storeReg (s.auth m).src a (modectlWord t after) (BitVec.allOnes 64) false).trigger .modectl t := by
  have l : located rCusModectl .cusModectl 0 0 0 false = true := by decide
  obtain ⟨reg, -⟩ := h.at l
  obtain ⟨go, target⟩ := modectlWord_fields after small
  rw [Reaches.writes_located h l (by decide) (by decide) _ (by simp only [State.writeAlone, reg])]
  simp only [State.wrote, reg, go, target, if_true]
  rfl

theorem exec_modeRequest (s : State) (m : Master) (after : BitVec 4) {t : Nat} (h : t = 3 ∨ t = 8 ∨ t = 9 ∨ t = 11) :
    exec (modeRequest m after t) s = .next (s.write m rCusModectl (modectlWord t after)) := by
  obtain rfl | rfl | rfl | rfl := h <;> rfl

/-! ### RESET_N -/

/-- RESET_N has fallen. -/
def State.resetLow (s : State) : State := s.setCus { s.cus with resetN := false, resetAt := s.time, heldRise := false }

theorem State.resetFall_low (low : s.cus.resetN = false) : s.resetFall = s := if_pos (by rw [low]; rfl)

section
variable (high : s.cus.resetN = true)
include high

theorem State.resetFall_high :
    s.resetFall = if s.mode = 0 ∧ s.cus.aon = true then s.resetLow.arriveMode 1 else s.resetLow.trigger .reset 1 :=
  if_neg (by rw [high]; exact Bool.false_ne_true)

theorem State.resetFall_dark (dark : s.mode = 0) (aon : s.cus.aon = true) : s.resetFall = arrivedIn s.resetLow 1 :=
  (State.resetFall_high high).trans (if_pos ⟨dark, aon⟩)

theorem State.resetFall_drops (idle : s.cus.target = none)
    (may : (2 ≤ s.mode ∧ s.mode ≤ 9) ∨ s.mode = 11 ∨ (s.mode = 10 ∧ s.cus.flushed = true)) : s.resetFall = aimed s.resetLow 1 := by
  have allowed : s.resetLow.allowed .reset 1 = true := by
    change (s.canDrop || (s.mode == 10 && s.cus.flushed)) = true
    simp only [Bool.or_eq_true, Bool.and_eq_true, State.canDrop_iff, beq_iff_eq]
    tauto
  have idle' : s.resetLow.cus.target = none := idle
  rw [State.resetFall_high high, if_neg (by omega), State.trigger_allowed idle' allowed, State.begin_other (by decide) (by decide)]

theorem State.resetFall_only (idle : s.cus.target = none)
    (barred : s.mode = 1 ∨ (s.mode = 10 ∧ s.cus.flushed = false) ∨ (s.mode = 0 ∧ s.cus.aon = false)) : s.resetFall = s.resetLow := by
  have away : ¬ (s.mode = 0 ∧ s.cus.aon = true) := by
    rintro ⟨dark, aon⟩
    obtain h | ⟨h, -⟩ | ⟨-, h⟩ := barred
    · omega
    · omega
    · exact absurd (aon.symm.trans h) (by decide)
  have stays : ¬ s.canDrop = true := by rw [State.canDrop_iff]; omega
  have dry : (s.mode == 10 && s.cus.flushed) = false := by
    obtain h | ⟨-, h⟩ | ⟨h, -⟩ := barred
    · rw [h]; rfl
    · rw [h, Bool.and_false]
    · rw [h]; rfl
  have notAllowed : s.resetLow.allowed .reset 1 = false := by
    change (s.canDrop || (s.mode == 10 && s.cus.flushed)) = false
    rw [dry, Bool.or_false]
    exact Bool.eq_false_iff.mpr stays
  have idle' : s.resetLow.cus.target = none := idle
  rw [State.resetFall_high high, if_neg away, State.trigger_barred idle' notAllowed (by decide)]

theorem State.resetRise_high : s.resetRise = s := if_pos high

end

/-- RESET_N may be taken now: in Hold, with no transition in progress, 10 µs after its fall and after a change of PFAIL_N. -/
def State.riseNow (s : State) : Prop :=
  s.mode = 1 ∧ s.cus.target = none ∧ s.cus.pfailN = true ∧ s.cus.resetAt + 10 ≤ s.time ∧ s.cus.pfailAt + 10 ≤ s.time

theorem State.riseNow_iff : (!s.riseTime || s.mode != 1 || s.cus.target.isSome) = false ↔ s.riseNow := by
  unfold State.riseTime State.riseNow
  simp
  tauto

theorem State.resetRise_low (low : s.cus.resetN = false) : s.resetRise =
    if (!s.riseTime || s.mode != 1 || s.cus.target.isSome) then
      (s.setCus { s.cus with resetN := true }).setCus { s.cus with resetN := true, heldRise := true }
    else (s.setCus { s.cus with resetN := true }).callUp := by
  refine (if_neg (by rw [low]; exact Bool.false_ne_true)).trans ?_
  rfl

theorem State.heldRise_now (h : s.cus.heldRise = true ∧ s.cus.resetN = true ∧ s.riseNow) : s.heldRise = s.callUp := by
  obtain ⟨held, high, mode, idle, power, reset, fail⟩ := h
  refine if_pos ?_
  simp [held, high, mode, idle, State.riseTime, power, reset, fail]

theorem State.heldRise_stays (h : ¬ (s.cus.heldRise = true ∧ s.cus.resetN = true ∧ s.riseNow)) : s.heldRise = s := by
  refine if_neg fun now => h ?_
  simp only [State.riseTime, Bool.and_eq_true, decide_eq_true_eq, beq_iff_eq, Option.isNone_iff_eq_none] at now
  obtain ⟨⟨⟨⟨held, high⟩, ⟨power, reset⟩, fail⟩, mode⟩, idle⟩ := now
  exact ⟨held, high, mode, idle, power, reset, fail⟩

/-! ### PFAIL_N and the supplies -/

/-- PFAIL_N has fallen. -/
def State.pfailLow (s : State) : State := s.setCus { s.cus with pfailN := false, pfailAt := s.time }

theorem State.pfailFall_low (low : s.cus.pfailN = false) : s.pfailFall = s := if_pos (by rw [low]; rfl)

section
variable (high : s.cus.pfailN = true) (idle : s.cus.target = none)
include high idle

theorem State.pfailFall_drops (may : (2 ≤ s.mode ∧ s.mode ≤ 9) ∨ s.mode = 11) : s.pfailFall = (aimed s.pfailLow 10).dropFlush := by
  have fall : s.pfailFall = s.pfailLow.trigger .pfail 10 := if_neg (by rw [high]; exact Bool.false_ne_true)
  have idle' : s.pfailLow.cus.target = none := idle
  have allowed : s.pfailLow.allowed .pfail 10 = true := State.canDrop_iff.mpr may
  rw [fall, State.trigger_allowed idle' allowed, State.begin_flush]

theorem State.pfailFall_only (barred : ¬ ((2 ≤ s.mode ∧ s.mode ≤ 9) ∨ s.mode = 11)) : s.pfailFall = s.pfailLow := by
  have fall : s.pfailFall = s.pfailLow.trigger .pfail 10 := if_neg (by rw [high]; exact Bool.false_ne_true)
  have notAllowed : s.pfailLow.allowed .pfail 10 = false := Bool.eq_false_iff.mpr fun h => barred (State.canDrop_iff.mp h)
  have idle' : s.pfailLow.cus.target = none := idle
  rw [fall, State.trigger_barred idle' notAllowed (by decide)]

end

theorem State.pfailRise_low (low : s.cus.pfailN = false) :
    s.pfailRise = s.setCus { s.cus with pfailN := true, pfailAt := s.time } :=
  if_neg (by rw [low]; exact Bool.false_ne_true)

/-- VDD_AON has come up: the time base counts from zero. -/
def State.aonUp (s : State) : State := { s.setCus { s.cus with aon := true, resetAt := 0, pfailAt := 0 } with time := 0 }

theorem State.aonRise_off (off : s.cus.aon = false) : s.aonRise = if s.cus.resetN then s.aonUp else s.aonUp.arriveMode 1 :=
  if_neg (by rw [off]; exact Bool.false_ne_true)

theorem State.zeroMem_all (s : State) : (s.zeroMem fun _ => true) = { s with mem := [], eccBad := [] } := by
  simp [State.zeroMem]

/-- CUS.MODE shows Dark. -/
def State.darkMode (s : State) : State :=
  ((s.setRf rCusMode fCusModePrev s.mode).setRf rCusMode fCusModeMode 0).setRf rCusMode fCusModeTransit 0

theorem State.supplyOff_light (light : s.mode ≠ 0) : s.supplyOff =
    { s.darkMode.applyDomains with
      mem := []
      eccBad := []
      cus := { CusSt.reset with
        aon := false
        resetN := false
        clock := s.darkMode.applyDomains.cus.clock
        pfailN := s.darkMode.applyDomains.cus.pfailN
        thermN := s.darkMode.applyDomains.cus.thermN } } := by
  have off : s.supplyOff = (s.darkMode.applyDomains.zeroMem fun _ => true).setCus { CusSt.reset with
      aon := false
      resetN := false
      clock := (s.darkMode.applyDomains.zeroMem fun _ => true).cus.clock
      pfailN := (s.darkMode.applyDomains.zeroMem fun _ => true).cus.pfailN
      thermN := (s.darkMode.applyDomains.zeroMem fun _ => true).cus.thermN } := if_neg light
  rw [off, State.zeroMem_all]
  rfl

/-! ### The end of a transition and of Rehearsal -/

theorem State.modeComplete_idle (idle : s.cus.target = none) : s.modeComplete = s := by
  simp only [State.modeComplete, idle]

theorem State.modeComplete_arrives {t : Nat} (runs : s.cus.target = some t) (apart : s.rb rRepMstat fRepMstatHandover = false) :
    s.modeComplete = (arrivedIn s t).takeTriggers := by
  simp only [State.modeComplete, runs, apart, Bool.false_and, if_neg Bool.false_ne_true]
  rfl

theorem State.rehearsed_iff : s.rehearsed = true ↔ s.cus.proofs = [] ∧ (s.cus.rehAt + 5000000 ≤ s.time ∨
    (∀ k, k < 4 → s.ready (24 + k) = true) ∧ ∀ i ∈ testPlan, s.domOn (resDomain i) = true → i ∈ s.cus.tested) := by
  unfold State.rehearsed
  rw [Bool.and_eq_true, Bool.or_eq_true, Bool.and_eq_true, List.isEmpty_iff, decide_eq_true_eq, List.all_eq_true, List.all_eq_true]
  simp only [List.mem_range, Bool.or_eq_true, Bool.not_eq_true', List.contains_iff_mem, ← Bool.not_eq_true, ← imp_iff_not_or]

theorem State.rehearsalEnd_stays (h : s.mode ≠ 3 ∨ s.cus.proofs ≠ [] ∨ s.rehearsed = false) : s.rehearsalEnd = s := by
  refine if_pos ?_
  obtain away | awaited | runs := h
  · exact .inl away
  · exact .inr (.inl (by rw [Bool.not_eq_true', Bool.eq_false_iff, ne_eq, State.rehearsed_iff]; exact fun h => awaited h.1))
  · exact .inr (.inl (by rw [runs]; rfl))

/-- The mode that Rehearsal is to end in. -/
def State.afterRehearsal (s : State) : Nat := s.rf rCusModectl fCusModectlAfter

section
variable (mode : s.mode = 3) (ended : s.rehearsed = true) (idle : s.cus.target = none)
include mode ended idle

theorem State.rehearsalEnd_ended : s.rehearsalEnd =
    if (s.afterRehearsal = 4 ∨ s.afterRehearsal = 5) ∧ !s.proofOk then
      if (s.raise (cusFlt 2 0)).rb rCusCurtpol fCusCurtpolRehfail then (s.raise (cusFlt 2 0)).trigger .curtain 9
      else (arrivedIn (s.raise (cusFlt 2 0)) 6).takeTriggers
    else (arrivedIn s s.afterRehearsal).takeTriggers := by
  refine if_neg ?_
  rw [ended, idle]
  simp [mode]

theorem State.rehearsalEnd_arrives (ok : (s.afterRehearsal ≠ 4 ∧ s.afterRehearsal ≠ 5) ∨ s.proofOk = true) :
    s.rehearsalEnd = (arrivedIn s s.afterRehearsal).takeTriggers := by
  refine (State.rehearsalEnd_ended mode ended idle).trans (if_neg ?_)
  rintro ⟨pairs, unproven⟩
  obtain single | proven := ok
  · omega
  · rw [proven] at unproven
    exact Bool.false_ne_true unproven

theorem State.rehearsalEnd_fails (pairs : s.afterRehearsal = 4 ∨ s.afterRehearsal = 5) (unproven : s.proofOk = false) :
    s.rehearsalEnd = if (s.raise (cusFlt 2 0)).rb rCusCurtpol fCusCurtpolRehfail then (s.raise (cusFlt 2 0)).trigger .curtain 9
      else (arrivedIn (s.raise (cusFlt 2 0)) 6).takeTriggers :=
  (State.rehearsalEnd_ended mode ended idle).trans (if_pos ⟨pairs, by rw [unproven]; rfl⟩)

end

end

/-- Settles O39: each pin and command is a trigger, and `State.allowed` is R621's table. -/
theorem modesChangeAsAllowed : Obligations.ModesChangeAsAllowed := by
  unfold Obligations.ModesChangeAsAllowed
  refine ⟨fun s m after t a ht h => ?_, fun s => ⟨?_, fun high => ⟨?_, ?_, ?_⟩, ?_, fun low => ⟨fun now => ?_, fun later => ?_⟩, ?_⟩,
    fun s => ⟨?_, fun high idle => ⟨?_, ?_⟩, ?_, ?_, ?_, fun off => ⟨fun high => ?_, fun low => ?_⟩, ?_, ?_⟩,
    fun s => ⟨?_, ?_, ?_, fun mode proofs idle done => ?_⟩⟩
  · intro u
    have small : t < 16 := by omega
    have run {v : State} (hv : u.trigger .modectl t = v) : exec (modeRequest m after t) s = .next v :=
      (exec_modeRequest s m after ht).trans (congrArg _ ((Reaches.write_modectl h after small).trans hv))
    refine ⟨fun idle may other => run ?_, fun idle may curtain => run ?_, fun idle barred => run ?_, fun x runs => run ?_⟩
    · rw [State.trigger_allowed idle ((State.allowed_modectl ht).mpr may), State.begin_other other (by omega)]
    · rw [State.trigger_allowed idle ((State.allowed_modectl ht).mpr may), curtain, State.begin_curtain]
    · exact State.trigger_badTrans idle (Bool.eq_false_iff.mpr fun h => barred ((State.allowed_modectl ht).mp h))
    · exact State.trigger_queues runs t
  · exact fun low => congrArg Host.Outcome.next (State.resetFall_low low)
  · exact fun dark aon => congrArg Host.Outcome.next (State.resetFall_dark high dark aon)
  · exact fun idle may => congrArg Host.Outcome.next (State.resetFall_drops high idle may)
  · exact fun idle barred => congrArg Host.Outcome.next (State.resetFall_only high idle barred)
  · exact fun high => congrArg Host.Outcome.next (State.resetRise_high high)
  · refine congrArg Host.Outcome.next ((State.resetRise_low low).trans (if_neg ?_))
    rw [State.riseNow_iff.mpr now]
    exact Bool.false_ne_true
  · refine congrArg Host.Outcome.next ((State.resetRise_low low).trans (if_pos ?_))
    exact Bool.not_eq_false _ ▸ fun h => later (State.riseNow_iff.mp h)
  · exact ⟨fun now => congrArg Host.Outcome.next (State.heldRise_now now),
      fun later => congrArg Host.Outcome.next (State.heldRise_stays later)⟩
  · exact fun low => congrArg Host.Outcome.next (State.pfailFall_low low)
  · exact fun may => congrArg Host.Outcome.next (State.pfailFall_drops high idle may)
  · exact fun barred => congrArg Host.Outcome.next (State.pfailFall_only high idle barred)
  · exact fun high => congrArg Host.Outcome.next (if_pos high)
  · exact fun low => congrArg Host.Outcome.next (State.pfailRise_low low)
  · exact fun on => congrArg Host.Outcome.next (if_pos on)
  · exact congrArg Host.Outcome.next ((State.aonRise_off off).trans (if_pos high))
  · exact congrArg Host.Outcome.next ((State.aonRise_off off).trans (if_neg (by rw [low]; exact Bool.false_ne_true)))
  · exact fun dark => congrArg Host.Outcome.next (if_pos dark)
  · exact fun light => congrArg Host.Outcome.next (State.supplyOff_light light)
  · exact fun idle => congrArg Host.Outcome.next (State.modeComplete_idle idle)
  · exact fun t runs apart => congrArg Host.Outcome.next (State.modeComplete_arrives runs apart)
  · exact fun stays => congrArg Host.Outcome.next (State.rehearsalEnd_stays stays)
  · have ended := State.rehearsed_iff.mpr ⟨proofs, done⟩
    intro t
    refine ⟨fun ok => congrArg Host.Outcome.next (State.rehearsalEnd_arrives mode ended idle ok), fun pairs unproven => ?_⟩
    have fails := congrArg (Host.Outcome.next (φ := Fault) (ρ := Refusal)) (State.rehearsalEnd_fails mode ended idle pairs unproven)
    exact ⟨fun goes => fails.trans (congrArg _ (if_neg (by
        rw [show (s.raise (cusFlt 2 0)).rb rCusCurtpol fCusCurtpolRehfail = false from goes]; exact Bool.false_ne_true))),
      fun drops => fails.trans (congrArg _ (if_pos drops))⟩

end Sys2Proof.Machine

/-! ## Sensors, the reference clock and the test access port (R632, R633, R667, R671) -/

namespace Sys2Proof.Machine

section
variable {s : State}

/-! ### Restraint -/

/-- The cooling time as the conditions leave it. -/
def State.cooled (s : State) : State :=
  s.setCus { s.cus with cool := if s.calm then some (s.cus.cool.getD s.time) else none }

/-- The cause that restrains the device shows. -/
def State.causeShown (s : State) : State := s.setRf rPwrRstat fPwrRstatCause s.restraintCause

/-- A first cause restrains the device. -/
def State.firstRestrained (s : State) : State :=
  ((s.causeShown.setRf rPwrRstat fPwrRstatActive 1).addRf rPwrRstat fPwrRstatEvents 1).bandsForced true

theorem State.causeShown_active (s : State) : s.causeShown.rb rPwrRstat fPwrRstatActive = s.rb rPwrRstat fPwrRstatActive :=
  congrArg (· == 1) (State.rf_setRf_other _ _ (.inr (by decide)))

theorem State.restraint_restrained (s : State) : Restrained s s.restraint where
  early dark := if_pos dark
  quiet light calm := by
    refine (if_neg (Nat.not_lt.mpr light)).trans ?_
    simp only [calm, ne_eq, not_true_eq_false, false_and, if_true, if_false]
    rfl
  starts light cause free := by
    have fresh : s.restraintCause ≠ 0 ∧ (!s.causeShown.rb rPwrRstat fPwrRstatActive) = true :=
      ⟨cause, by rw [State.causeShown_active, free]; rfl⟩
    have shown : s.restraint = (if s.restraintCause ≠ 0 ∧ (!s.causeShown.rb rPwrRstat fPwrRstatActive) = true then s.firstRestrained
        else s.causeShown).cooled.trigger .restrain 7 := by
      refine (if_neg (Nat.not_lt.mpr light)).trans ?_
      simp only [cause, ne_eq, not_false_eq_true, if_true, if_false]
      rfl
    rw [shown, if_pos fresh]
    rfl

/-! ### Readings -/

/-- Sensor `i` reads `v`. -/
def State.dieSensed (s : State) (i : Nat) (v : BitVec 9 × Bool) : State :=
  ((s.setRf (rPwrTemp i) fPwrTempTemp v.1.toNat).setRf (rPwrTemp i) fPwrTempValid v.2.toNat).sensed i v.1.toNat v.2

/-- The readings in their order are those of the sixteen sensors paired with the list. -/
theorem dieReadings_eq_foldl (temps : List (BitVec 9 × Bool)) (s : State) {i k : Nat} (h : i + k = 16) :
    dieReadings s i temps = ((List.range' i k).zip temps).foldl (fun s x => s.dieSensed x.1 x.2) s := by
  induction temps generalizing s i k with
  | nil => rw [List.zip_nil_right]; rfl
  | cons v temps ih =>
    cases k with
    | zero => exact if_neg (by omega)
    | succ k =>
      rw [List.range'_succ, List.zip_cons_cons, List.foldl_cons, ← ih (s.dieSensed i v) (i := i + 1) (by omega)]
      exact if_pos (by omega)

/-- The core voltage reads `mv`. -/
def State.coreSensed (s : State) (mv : Nat) : State :=
  let u := s.setRf rPwrVcore fPwrVcoreMv mv
  if mv < 720 ∨ 850 < mv then u.flt (pwrFlt 2) else u

theorem State.dieRead_dark (dark : s.mode < 2) (temps : List (BitVec 9 × Bool)) (mv : Nat) : s.dieRead temps mv = s := if_pos dark

theorem State.dieRead_light (light : 2 ≤ s.mode) (temps : List (BitVec 9 × Bool)) (mv : Nat) :
    s.dieRead temps mv = ((dieReadings s 0 temps).coreSensed mv).restraint := by
  rw [dieReadings_eq_foldl temps s (i := 0) (k := 16) rfl]
  exact if_neg (Nat.not_lt.mpr light)

/-! ### The end of restraint, heat -/

theorem State.restraintEnd_stays (h : s.cus.cool = none ∨ s.rb rPwrRstat fPwrRstatActive = false) : s.restraintEnd = s := by
  unfold State.restraintEnd
  split
  case h_1 t ht =>
    obtain warm | free := h
    · rw [ht] at warm
      cases warm
    · exact if_neg (by rw [free]; exact Bool.false_ne_true)
  case h_2 => rfl

section
variable {t : Nat} (cool : s.cus.cool = some t) (active : s.rb rPwrRstat fPwrRstatActive = true)
include cool active

theorem State.restraintEnd_early (early : s.time < t + 100000) : s.restraintEnd = s := by
  have wait : decide (t + 100000 ≤ s.time) = false := decide_eq_false (by omega)
  simp only [State.restraintEnd, cool, active, wait, Bool.and_false, if_neg Bool.false_ne_true]

theorem State.restraintEnd_ends (due : t + 100000 ≤ s.time) : s.restraintEnd =
    (((s.setRf rPwrRstat fPwrRstatActive 0).setRf rPwrRstat fPwrRstatCause 0).bandsForced false).trigger .relax s.cus.base := by
  simp only [State.restraintEnd, cool, active, decide_eq_true due, Bool.and_self, if_true]
  rfl

end

theorem State.overtemp_cool {i : Nat} (cool : Tab.get timeDefault s.cus.hot i = none) : s.overtemp i = s := by
  simp only [State.overtemp, cool]

section
variable {i t : Nat} (hot : Tab.get timeDefault s.cus.hot i = some t)
include hot

theorem State.overtemp_early (early : s.time < t + 1000) : s.overtemp i = s := by
  simp only [State.overtemp, hot, if_neg (Nat.not_le.mpr early)]

theorem State.overtemp_due (due : t + 1000 ≤ s.time) :
    s.overtemp i = ((s.setHot i false).raise (cusFlt 3 i)).curtEvent 2 := by
  simp only [State.overtemp, hot, if_pos due]

end

theorem State.curtEvent_off {b : Nat} (off : (s.reg rCusCurtpol).bit b = false) : s.curtEvent b = s :=
  if_neg (by rw [off]; exact Bool.false_ne_true)

theorem State.curtEvent_on {b : Nat} (on : (s.reg rCusCurtpol).bit b = true) : s.curtEvent b = s.trigger .curtain 9 := if_pos on

/-! ### The test access port -/

theorem State.tapLoad_held (held : s.cus.tap.held = true) (ir : Nat) : s.tapLoad ir = s := if_pos held

section
variable (free : s.cus.tap.held = false)
include free

theorem State.tapLoad_free (ir : Nat) : s.tapLoad ir =
    let k := if 3 ≤ ir ∧ s.cus.resetN = true then 0 else ir
    s.setTap { s.cus.tap with ir := k, dr := if k = 1 then tapId else if k = 0 then 0 else s.cus.tap.dr } :=
  if_neg (by rw [free]; exact Bool.false_ne_true)

theorem State.tapLoad_bypass : s.tapLoad 0 = s.setTap { s.cus.tap with ir := 0, dr := 0 } := State.tapLoad_free free 0

theorem State.tapLoad_idcode : s.tapLoad 1 = s.setTap { s.cus.tap with ir := 1, dr := tapId } := State.tapLoad_free free 1

theorem State.tapLoad_drives {ir : Nat} (low : s.cus.resetN = false) (drives : 3 ≤ ir) :
    s.tapLoad ir = s.setTap { s.cus.tap with ir := ir } := by
  rw [State.tapLoad_free free, low]
  simp only [Bool.false_eq_true, and_false, if_false, show ¬ ir = 1 by omega, show ¬ ir = 0 by omega]

theorem State.tapLoad_passes {ir : Nat} (high : s.cus.resetN = true) (drives : 3 ≤ ir) :
    s.tapLoad ir = s.setTap { s.cus.tap with ir := 0, dr := 0 } := by
  rw [State.tapLoad_free free, high]
  simp only [drives, and_self, if_true]
  rfl

theorem State.tapSample_free (pins : Word) : s.tapSample pins =
    s.takeFree.2.setTap { s.cus.tap with ir := 2, boundary := pins, dr := s.takeFree.1 } :=
  if_neg (by rw [free]; exact Bool.false_ne_true)

end

end

/-- Settles O40: every reading ends in the evaluation of the restraint conditions (`State.restraint_restrained`). -/
theorem sensorsAndTestPinsTakeEffect : Obligations.SensorsAndTestPinsTakeEffect := by
  unfold Obligations.SensorsAndTestPinsTakeEffect
  refine ⟨fun s temps mv => ⟨?_, fun light => ⟨_, ?_, State.restraint_restrained _⟩⟩, fun s level => ⟨_, rfl, State.restraint_restrained _⟩,
    fun s => ⟨?_, fun t cool active => ⟨?_, ?_⟩, rfl, rfl⟩, fun s i => ⟨?_, fun t hot => ⟨?_, fun due => ?_⟩⟩, fun s pins => ?_⟩
  · exact fun dark => congrArg Host.Outcome.next (State.dieRead_dark dark temps mv.toNat)
  · exact congrArg Host.Outcome.next (State.dieRead_light light temps mv.toNat)
  · exact fun stays => congrArg Host.Outcome.next (State.restraintEnd_stays stays)
  · exact fun early => congrArg Host.Outcome.next (State.restraintEnd_early cool active early)
  · exact fun due => congrArg Host.Outcome.next (State.restraintEnd_ends cool active due)
  · exact fun cool => congrArg Host.Outcome.next (State.overtemp_cool cool)
  · exact fun early => congrArg Host.Outcome.next (State.overtemp_early hot early)
  · intro u
    have run := congrArg (Host.Outcome.next (φ := Fault) (ρ := Refusal)) (State.overtemp_due hot due)
    exact ⟨fun off => run.trans (congrArg _ (State.curtEvent_off off)), fun on => run.trans (congrArg _ (State.curtEvent_on on))⟩
  · intro x put
    have load {ir : Nat} {t : State} (run : s.tapLoad ir = t) : Host.Outcome.next (s.tapLoad ir) = (.next t : Host.Outcome State Fault Refusal) :=
      congrArg _ run
    refine ⟨rfl, rfl, fun held => ⟨load (State.tapLoad_held held 0), load (State.tapLoad_held held 1),
      congrArg Host.Outcome.next (if_pos held), load (State.tapLoad_held held 3), load (State.tapLoad_held held 4),
      load (State.tapLoad_held held 5)⟩, fun free => ⟨load (State.tapLoad_bypass free), load (State.tapLoad_idcode free),
        ⟨_, congrArg Host.Outcome.next (State.tapSample_free free pins)⟩, fun low => ⟨?_, ?_, ?_⟩, fun high => ⟨?_, ?_, ?_⟩⟩⟩
    · exact load (State.tapLoad_drives free low (by decide))
    · exact load (State.tapLoad_drives free low (by decide))
    · exact load (State.tapLoad_drives free low (by decide))
    · exact load (State.tapLoad_passes free high (by decide))
    · exact load (State.tapLoad_passes free high (by decide))
    · exact load (State.tapLoad_passes free high (by decide))

end Sys2Proof.Machine

/-! ## A function that comes up while a close of no frame waits (R305, R625, R630) -/

namespace Sys2Proof.Machine

/-! ### The end of soft repairs in Rehearsal -/

section
variable {s : State}

theorem State.hbc_flt {f : Flt} (h : f.blk.at f.inst < 80) : (s.flt f).hbc = s.hbc :=
  (congrArg State.hbc (s.flt_noted h).regs :)

theorem hbcFlt_index {k : Nat} (stack : k < 4) (kind detail a : Nat) :
    (hbcFlt k kind detail a).blk.at (hbcFlt k kind detail a).inst < 80 := by
  show Blk.at .hbc k < 80
  unfold Blk.at
  simp only [Blk.place]
  omega

theorem State.hbc_listPage {k : Nat} (stack : k < 4) (a : Nat) : (s.listPage k a).hbc = s.hbc := by
  unfold State.listPage
  dsimp only
  split
  · rfl
  · split
    · rfl
    · exact State.hbc_flt (hbcFlt_index stack ..)

theorem State.hbc_retireRow {k : Nat} (stack : k < 4) (r : Nat × Nat) : (s.retireRow k r).hbc = s.hbc :=
  List.foldlRecOn (motive := fun t : State => t.hbc = s.hbc) (List.range 4) _ rfl
    fun _ ht _ _ => (State.hbc_listPage stack _).trans ht

/-- A row leaves the candidates of stack `k`. -/
def State.uncandidate (s : State) (k : Nat) (r : Nat × Nat) : State :=
  s.setHb k { s.hb k with cands := (s.hb k).cands.filter fun y => y != r }

theorem State.soft_uncandidate (k : Nat) (r : Nat × Nat) : ((s.uncandidate k r).hb k).soft = (s.hb k).soft := by
  unfold State.uncandidate State.hb State.setHb
  rw [Tab.get_set_same]

theorem State.soft_repairRow {k : Nat} (stack : k < 4) (r : Nat × Nat) : ((s.repairRow k r false).hb k).soft = (s.hb k).soft := by
  refine Eq.trans ?_ (State.soft_uncandidate k r)
  have fault := State.hbc_flt (s := (s.uncandidate k r).takeFree.2) (hbcFlt_index stack 2 0 0)
  have repaired : s.repairRow k r false = if (s.uncandidate k r).takeFree.1.bit 0 then
      (s.uncandidate k r).takeFree.2.addRf (rHbcPprstat k) fHbcPprstatHard 1
    else ((s.uncandidate k r).takeFree.2.flt (hbcFlt k 2 0 0)).retireRow k r := rfl
  rw [repaired]
  split
  · rfl
  · exact congrArg (fun m => (Tab.get hbcDefault m k).soft) ((State.hbc_retireRow stack r).trans fault)

/-- Rehearsal forgets the soft repairs of a stack that is up (R353). -/
theorem State.soft_rehearseHbm {n k : Nat} (stack : k < 4) (up : s.ready (24 + k) = true) :
    ((s.rehearseHbm n k).hb k).soft = [] := by
  unfold State.rehearseHbm
  rw [up, if_neg (by decide)]
  refine List.foldlRecOn (motive := fun t : State => (t.hb k).soft = []) _ _ ?_
    fun t ht r _ => (State.soft_repairRow stack r).trans ht
  unfold State.hb State.setHb
  rw [Tab.get_set_same]

/-! ### A stack comes up -/

/-- Stack `k` has come up with nothing retained, and what waited has been done. -/
def State.stackReady (s : State) (k : Nat) : State :=
  ((s.zeroMem fun a => inHbm a && s.pseudoChannel a / 32 == k).setReady (24 + k) true).lateDrain

theorem State.functionReady_stack {k : Nat} (stack : k < 4) (on : (s.readyDoms (24 + k)).all s.domOn = true)
    (down : s.ready (24 + k) = false) (lost : s.cus.retained.bit (24 + k + 6) = false) :
    s.functionReady (24 + k) = if (s.stackReady k).mode = 3 then
      (s.stackReady k).rehearseHbm ((s.stackReady k).rf rCusMode fCusModeCount) k else s.stackReady k := by
  have here : 24 ≤ 24 + k ∧ 24 + k < 28 := by omega
  have low : ¬ (16 ≤ 24 + k ∧ 24 + k < 24) := by omega
  simp only [State.functionReady, on, down, lost, here, low, Bool.not_true, Bool.or_self, Bool.false_eq_true, if_false,
    and_self, and_true, if_true, Nat.add_sub_cancel_left, show ¬ 24 + k = 30 by omega]
  rfl

end

/-! ### The counterexample -/

/-- The number, above those of the sixteen frames, whose register of missed cues would be CUS.MODE. -/
def noFrame : Nat := 784898

/-- A device in Call, all of which is up but for stack 0, with a row of that stack repaired softly. A close waits for the
scratchpad, whose number names no frame and would be missed. -/
def closingNoFrame : State :=
  let s := ((Tests.up.setReg rCusReady (Word.setBit (BitVec.allOnes 64) 24 false)).setReg (rRepFrcfg noFrame)
    (BitVec.ofNat 64 (2 ^ 34))).setCueBusy noFrame 16
  { s.setHb 0 { s.hb 0 with soft := [(0, 0)] } with late := [.close noFrame] }

/-- The miss of the close counts in CUS.MODE, which shows Rehearsal then. -/
theorem stackReady_rehearses : (closingNoFrame.stackReady 0).mode = 3 ∧ (closingNoFrame.stackReady 0).ready 24 = true := by
  decide +kernel

theorem soft_stackReady : ((closingNoFrame.stackReady 0).hb 0).soft ≠ [] := by decide +kernel

/-- What makes a stack that comes up differ from the statement's. -/
theorem exists_late_rehearsal : ∃ s : State, (s.readyDoms 24).all s.domOn = true ∧ s.ready 24 = false ∧
    s.cus.retained.bit 30 = false ∧ s.mode ≠ 3 ∧ (s.stackReady 0).mode = 3 ∧ (s.stackReady 0).ready 24 = true ∧
    ((s.stackReady 0).hb 0).soft ≠ [] := by
  obtain ⟨mode, up⟩ := stackReady_rehearses
  exact ⟨closingNoFrame, by decide +kernel, by decide +kernel, by decide +kernel, by decide +kernel, mode, up, soft_stackReady⟩

/-- Refutes O41: its states are not bound to name the sixteen frames alone. A close that waits for a number beyond them is
missed at the address of CUS.MODE, and the stack that comes up then meets another mode than the statement's. -/
theorem not_callUpStartsWhatIsNamed : ¬ Obligations.CallUpStartsWhatIsNamed := by
  unfold Obligations.CallUpStartsWhatIsNamed
  rintro ⟨-, ready, -⟩
  obtain ⟨s, on, down, lost, light, mode, up, soft⟩ := exists_late_rehearsal
  obtain ⟨-, comesUp⟩ := ready s 24
  obtain ⟨-, -, stack, -⟩ := comesUp on down
  obtain ⟨still, -⟩ := stack (by decide) (by decide)
  have states := Host.Outcome.next.inj (still light)
  have run := (State.functionReady_stack (k := 0) (by decide) on down lost).trans (if_pos mode)
  have unsoft : ((s.functionReady 24).hb 0).soft = [] := by
    rw [run]
    exact State.soft_rehearseHbm (by decide) up
  have emptied : s.functionReady 24 = s.stackReady 0 :=
    Eq.trans states (if_neg (show ¬ s.cus.retained.bit 30 = true by rw [lost]; exact Bool.false_ne_true))
  rw [emptied] at unsoft
  exact soft unsoft

end Sys2Proof.Machine

/-! ## Reads that clear (R10, R641) -/

namespace Sys2Proof.Machine

/-- A read that reaches its register returns what the register shows, and clears. -/
theorem ReadReaches.regRead {s : State} {m : Master} {off : Nat} {a : RegAt} (h : ReadReaches s m off a) :
    s.regRead m off = { s.afterRead a (BitVec.allOnes 64) with rdata := s.view a } := by
  obtain ⟨idle, decodes, ⟨t, allowed⟩, visible, powered⟩ := h
  have admits : s.admits (s.auth m) off 8 false = some (.ok (.reg a)) := by
    unfold State.admits
    simp only [idle, decodes, allowed, visible, Bool.not_true, Bool.false_eq_true, if_false]
  simp only [State.regRead, State.regLoad, admits, State.cfgRead, powered, if_true]
  rfl

/-- The registers whose VALID and companions clear with a read. -/
def clearingReg (r : Reg) : Bool :=
  match r with
  | .engReject | .engCplerr | .engTraprep | .repMmrep0 | .fltFirst0 => true
  | _ => false

/-- A read at an offset reaches one of them, with fields to clear. -/
def clearsAt (off : Nat) : Bool :=
  match cfgDecode off 8 false with
  | some (.reg a) => a.off == off && clearingReg a.d.reg && clearedByRead a != 0
  | _ => false

theorem ReadReaches.clears {s : State} {m : Master} {off : Nat} {a : RegAt} (h : ReadReaches s m off a) (c : clearsAt off = true) :
    a.off = off ∧ clearingReg a.d.reg = true ∧ clearedByRead a ≠ 0 := by
  unfold clearsAt at c
  rw [h.decodes] at c
  simpa only [Bool.and_eq_true, beq_iff_eq, bne_iff_ne, and_assoc] using c

theorem State.view_clearing {s : State} {a : RegAt} (h : clearingReg a.d.reg = true) : s.view a = s.reg a.off := by
  unfold State.view
  unfold clearingReg at h
  cases hr : a.d.reg <;> rw [hr] at h <;> first | rfl | cases h

theorem State.afterRead_clearing {s : State} {a : RegAt} (h : clearingReg a.d.reg = true) (some : clearedByRead a ≠ 0) :
    s.afterRead a (BitVec.allOnes 64) = s.setReg a.off (s.reg a.off &&& ~~~clearedByRead a) := by
  have other : a.d.reg ≠ .cfgClamplog := by
    intro hr
    rw [hr] at h
    cases h
  have fields : a.d.flds.foldl (fun m f => if f.ty == .rc then m ||| maskOf f.lsb f.w else m) (0 : Word) = clearedByRead a := by
    unfold clearedByRead
    simp only [beq_iff_eq]
  unfold State.afterRead
  split
  · rename_i hr
    exact absurd hr other
  · dsimp only
    rw [fields, BitVec.and_allOnes, if_neg some]

theorem clearsAt_engReject : ∀ (e : BitVec 4) (w : World), clearsAt (rEngReject e.toNat w.idx) = true := by
  intro e w
  cases w <;> revert e <;> decide

theorem clearsAt_engCplerr : ∀ (e : BitVec 4) (w : World), clearsAt (rEngCplerr e.toNat w.idx) = true := by
  intro e w
  cases w <;> revert e <;> decide

theorem clearsAt_engTraprep : ∀ (e : BitVec 4) (w : World), clearsAt (rEngTraprep e.toNat w.idx) = true := by
  intro e w
  cases w <;> revert e <;> decide

theorem clearsAt_repMmrep0 : ∀ k : Fin 5, clearsAt (rRepMmrep0 k.val) = true := by decide

theorem clearsAt_fltFirst0 : ∀ b : Fin 57, clearsAt (rFltFirst0 b.val) = true := by decide +kernel

theorem ClearingRead.clears {m : Master} {i : Instr} {off : Nat} (h : ClearingRead m i off) : clearsAt off = true := by
  cases h with
  | reject e w => exact clearsAt_engReject e w
  | cplerr e w => exact clearsAt_engCplerr e w
  | traprep e w => exact clearsAt_engTraprep e w
  | mmrep0 k => exact clearsAt_repMmrep0 k
  | first0 b => exact clearsAt_fltFirst0 b

theorem ClearingRead.exec {m : Master} {i : Instr} {off : Nat} (h : ClearingRead m i off) (s : State) :
    Machine.exec i s = .next (s.regRead m off) := by
  cases h <;> rfl

/-- The clamp log gives its oldest entry and loses it. -/
theorem ReadReaches.clamplog {s : State} {m : Master} {a : RegAt} (h : ReadReaches s m rCfgClamplog a) : a.d.reg = .cfgClamplog := by
  have at_ : (match cfgDecode rCfgClamplog 8 false with | some (.reg a) => a.d.reg == Reg.cfgClamplog | _ => false) = true := by decide
  rw [h.decodes] at at_
  exact beq_iff_eq.mp at_

/-- Settles O42: a register that a read clears shows what it holds, and loses exactly its clearing fields. -/
theorem readsReturnAndClear : Obligations.ReadsReturnAndClear := by
  unfold Obligations.ReadsReturnAndClear
  refine ⟨fun s m i off a c h => ?_, fun s m a h => ?_⟩
  · obtain ⟨at_, clearing, some⟩ := ReadReaches.clears h (ClearingRead.clears c)
    refine ⟨some, (ClearingRead.exec c s).trans (congrArg _ ?_)⟩
    rw [ReadReaches.regRead h, State.view_clearing clearing, State.afterRead_clearing clearing some, at_]
  · have reg := ReadReaches.clamplog h
    refine congrArg Host.Outcome.next ((ReadReaches.regRead h).trans ?_)
    simp only [State.afterRead, State.view, reg]

end Sys2Proof.Machine

/-! ## A register write stores its fields (R10, R12, R640) -/

namespace Sys2Proof.Machine

/-! ### Fields apart from a mask -/

theorem Word.fld_and_not_mask (v u : Word) {l w x n : Nat} (h : x + n ≤ l ∨ l + w ≤ x) :
    Word.fld (v &&& ~~~(u &&& maskOf l w)) x n = v.fld x n := by
  refine Nat.eq_of_testBit_eq fun i => ?_
  rw [Word.testBit_fld, Word.testBit_fld]
  by_cases hi : i < n
  · by_cases h64 : x + i < 64
    · have out : ¬ (l ≤ x + i ∧ x + i < l + w) := by omega
      rw [BitVec.getLsbD_and, BitVec.getLsbD_not, BitVec.getLsbD_and, getLsbD_maskOf _ _ _ h64, decide_eq_false out]
      simp [h64]
    · rw [BitVec.getLsbD_of_ge _ _ (by omega), BitVec.getLsbD_of_ge _ _ (by omega)]
  · simp [hi]

theorem maskOf_eq_zero {l w : Nat} (fits : l + w ≤ 64) (h : maskOf l w = 0) : w = 0 := by
  have ones : Word.fld (maskOf l w) l w = (2 ^ w - 1) % 2 ^ w := Word.fld_setFld_same _ fits
  have pos := Nat.two_pow_pos w
  rw [h, Nat.mod_eq_of_lt (by omega)] at ones
  have zero : Word.fld 0 l w = 0 := by simp [Word.fld]
  rcases Nat.eq_zero_or_pos w with none | some
  · exact none
  · have two : 2 ^ 1 ≤ 2 ^ w := Nat.pow_le_pow_right (by decide) some
    omega

/-- A value in range, of a field whose rule is no mask, is stored as no more than it is (R640). -/
theorem Fld.fix_le {f : Fld} {w : Word} {x : Nat} (mask : f.clamp ≠ .classMask) (inRange : (f.fix w x).2 = false) :
    (f.fix w x).1 ≤ x := by
  have same {y : Nat} (h : decide (y ≠ x) = false) : y ≤ x := Nat.le_of_eq (not_not.mp (of_decide_eq_false h))
  unfold Fld.fix at inRange ⊢
  cases hc : f.clamp with
  | any => exact Nat.le_refl x
  | align k lo =>
    rw [hc] at inRange
    dsimp only at inRange ⊢
    split
    · rename_i low
      rw [if_pos low] at inRange
      cases inRange
    · exact Nat.div_mul_le_self x (2 ^ k)
  | classMask => exact absurd hc mask
  | near lo hi => rw [hc] at inRange; exact same inRange
  | into lo hi v => rw [hc] at inRange; exact same inRange
  | vpair => rw [hc] at inRange; exact same inRange
  | kscale => rw [hc] at inRange; exact same inRange
  | rot => rw [hc] at inRange; exact same inRange
  | zbase => rw [hc] at inRange; exact same inRange
  | intlv => rw [hc] at inRange; exact same inRange
  | space => rw [hc] at inRange; exact same inRange

theorem Fld.fix_lt {f : Fld} {w : Word} (mask : f.clamp ≠ .classMask) (inRange : (f.fix w (w.fld f.lsb f.w)).2 = false) :
    (f.fix w (w.fld f.lsb f.w)).1 < 2 ^ f.w :=
  Nat.lt_of_le_of_lt (Fld.fix_le mask inRange) (Nat.mod_lt _ (Nat.two_pow_pos _))

/-! ### One field -/

/-- `t` is `s` but for the register at `off` and the note that the image has changed. -/
structure State.Touched (off : Nat) (s t : State) : Prop where
  others : ∀ b, b ≠ off → t.reg b = s.reg b
  fields : { t with regs := s.regs, cfg := { t.cfg with changed := s.cfg.changed } } = s

namespace State.Touched
variable {off : Nat} {s t u : State}

theorem refl (s : State) : State.Touched off s s := ⟨fun _ _ => rfl, rfl⟩

theorem trans (h : State.Touched off s t) (k : State.Touched off t u) : State.Touched off s u where
  others b hb := (k.others b hb).trans (h.others b hb)
  fields := by rw [← h.fields, ← k.fields]

theorem setReg (s : State) (off : Nat) (v : Word) : State.Touched off s (s.setReg off v) where
  others b hb := by rw [State.reg_setReg, if_neg hb]
  fields := rfl

theorem noted (h : State.Touched off s t) (b : Bool) : State.Touched off s { t with cfg := { t.cfg with changed := b } } where
  others := h.others
  fields := h.fields

theorem locked (h : State.Touched off s t) : t.cfg.locked = s.cfg.locked := (congrArg (fun x : State => x.cfg.locked) h.fields :)

end State.Touched

/-- `t` is `s` after the write of `w` has been stored in field `f` of the register at `off`. -/
structure State.Stored (off : Nat) (w : Word) (f : Fld) (s t : State) : Prop where
  touched : State.Touched off s t
  takes : f.ty = .rw ∨ f.ty = .rwl → (t.reg off).fld f.lsb f.w = (f.fix w (w.fld f.lsb f.w)).1
  keeps : f.ty = .ro ∨ f.ty = .rc ∨ f.ty = .wo ∨ f.ty = .w1s → (t.reg off).fld f.lsb f.w = (s.reg off).fld f.lsb f.w
  apart : ∀ l n, l + n ≤ f.lsb ∨ f.lsb + f.w ≤ l → (t.reg off).fld l n = (s.reg off).fld l n

/-- Field `f` of the register at `off` takes `x`. -/
def State.putFld (s : State) (off : Nat) (f : Fld) (x : Nat) : State :=
  let t := s.setReg off ((s.reg off).setFld f.lsb f.w x)
  if f.image && t.reg off != s.reg off then { t with cfg := { t.cfg with changed := true } } else t

theorem State.putFld_reg (s : State) (off : Nat) (f : Fld) (x : Nat) :
    (s.putFld off f x).reg off = (s.reg off).setFld f.lsb f.w x := by
  have set : (s.setReg off ((s.reg off).setFld f.lsb f.w x)).reg off = (s.reg off).setFld f.lsb f.w x := by
    rw [State.reg_setReg, if_pos rfl]
  unfold State.putFld
  dsimp only
  split
  · exact set
  · exact set

theorem State.putFld_touched (s : State) (off : Nat) (f : Fld) (x : Nat) : State.Touched off s (s.putFld off f x) := by
  unfold State.putFld
  dsimp only
  split
  · exact (State.Touched.setReg s off _).noted true
  · exact .setReg s off _

section
variable {s : State} {src : Nat} {a : RegAt} {w : Word} {f : Fld}

theorem State.storeFld_rw (unlocked : s.cfg.locked = false) (ty : f.ty = .rw ∨ f.ty = .rwl) (some : maskOf f.lsb f.w ≠ 0)
    (mask : f.clamp ≠ .classMask) (inRange : (f.fix w (w.fld f.lsb f.w)).2 = false) :
    s.storeFld src a w (BitVec.allOnes 64) false f = s.putFld a.off f (f.fix w (w.fld f.lsb f.w)).1 := by
  unfold State.storeFld
  dsimp only
  rw [BitVec.and_allOnes, if_neg some, BitVec.and_allOnes, BitVec.not_allOnes, BitVec.and_zero, BitVec.zero_or]
  obtain ty | ty := ty
  · simp only [ty, Bool.false_and, Bool.false_eq_true, if_false]
    rw [if_neg (by rw [inRange]; exact Bool.false_ne_true)]
    rfl
  · simp only [ty, unlocked, Bool.false_and, Bool.false_eq_true, if_false]
    rw [if_neg (by rw [inRange]; exact Bool.false_ne_true)]
    rfl

theorem State.storeFld_kept (ty : f.ty = .ro ∨ f.ty = .rc ∨ f.ty = .wo ∨ f.ty = .w1s) :
    s.storeFld src a w (BitVec.allOnes 64) false f = s := by
  unfold State.storeFld
  dsimp only
  split
  · rfl
  · obtain ty | ty | ty | ty := ty <;> simp only [ty]

/-- A write of ones clears bits of its field alone. -/
theorem State.storeFld_w1c (ty : f.ty = .w1c) : s.storeFld src a w (BitVec.allOnes 64) false f = s ∨
    ∃ u, s.storeFld src a w (BitVec.allOnes 64) false f = s.setReg a.off (s.reg a.off &&& ~~~(u &&& maskOf f.lsb f.w)) := by
  have clears : s.storeFld src a w (BitVec.allOnes 64) false f =
      if maskOf f.lsb f.w &&& BitVec.allOnes 64 = 0 then s
      else if bitwise a.d.reg f then s.setReg a.off (s.reg a.off &&& ~~~(w &&& BitVec.allOnes 64 &&& maskOf f.lsb f.w))
      else if w &&& BitVec.allOnes 64 &&& maskOf f.lsb f.w = maskOf f.lsb f.w then
        s.setReg a.off (s.reg a.off &&& ~~~maskOf f.lsb f.w)
      else s := by
    unfold State.storeFld
    rw [ty]
    rfl
  rw [clears]
  split
  · exact .inl rfl
  · split
    · exact .inr ⟨_, rfl⟩
    · split
      · exact .inr ⟨maskOf f.lsb f.w, by rw [BitVec.and_self]⟩
      · exact .inl rfl

/-- A write of a whole register stores each field whose value is in its range. -/
theorem State.storeFld_stored (unlocked : s.cfg.locked = false)
    (fits : f.lsb + f.w ≤ 64) (mask : f.clamp ≠ .classMask) (inRange : (f.fix w (w.fld f.lsb f.w)).2 = false) :
    State.Stored a.off w f s (s.storeFld src a w (BitVec.allOnes 64) false f) := by
  by_cases empty : maskOf f.lsb f.w = 0
  · have none := maskOf_eq_zero fits empty
    have small := Fld.fix_lt mask inRange
    have still : s.storeFld src a w (BitVec.allOnes 64) false f = s := if_pos (by rw [empty]; rfl)
    rw [still]
    refine ⟨.refl s, fun _ => ?_, fun _ => rfl, fun _ _ _ => rfl⟩
    have left : (s.reg a.off).fld f.lsb f.w < 2 ^ f.w := Nat.mod_lt _ (Nat.two_pow_pos _)
    rw [none] at small left ⊢
    omega
  · have rw_ (ty : f.ty = .rw ∨ f.ty = .rwl) (away : ¬ (f.ty = .ro ∨ f.ty = .rc ∨ f.ty = .wo ∨ f.ty = .w1s)) :
        State.Stored a.off w f s (s.storeFld src a w (BitVec.allOnes 64) false f) := by
      rw [State.storeFld_rw unlocked ty empty mask inRange]
      refine ⟨s.putFld_touched .., fun _ => ?_, fun h => absurd h away, fun l n h => ?_⟩
      · rw [State.putFld_reg, Word.fld_setFld_same _ fits, Nat.mod_eq_of_lt (Fld.fix_lt mask inRange)]
      · rw [State.putFld_reg, Word.fld_setFld_other _ h]
    have keep (ty : f.ty = .ro ∨ f.ty = .rc ∨ f.ty = .wo ∨ f.ty = .w1s) (away : ¬ (f.ty = .rw ∨ f.ty = .rwl)) :
        State.Stored a.off w f s (s.storeFld src a w (BitVec.allOnes 64) false f) := by
      rw [State.storeFld_kept ty]
      exact ⟨.refl s, fun h => absurd h away, fun _ => rfl, fun _ _ _ => rfl⟩
    cases ty : f.ty with
    | rw => exact rw_ (.inl ty) (by rw [ty]; decide)
    | rwl => exact rw_ (.inr ty) (by rw [ty]; decide)
    | ro => exact keep (.inl ty) (by rw [ty]; decide)
    | rc => exact keep (.inr (.inl ty)) (by rw [ty]; decide)
    | wo => exact keep (.inr (.inr (.inl ty))) (by rw [ty]; decide)
    | w1s => exact keep (.inr (.inr (.inr ty))) (by rw [ty]; decide)
    | w1c =>
      have unwritten : ¬ (f.ty = .rw ∨ f.ty = .rwl) := by rw [ty]; decide
      have unkept : ¬ (f.ty = .ro ∨ f.ty = .rc ∨ f.ty = .wo ∨ f.ty = .w1s) := by rw [ty]; decide
      obtain still | ⟨u, clears⟩ := State.storeFld_w1c (s := s) (src := src) (a := a) (w := w) ty
      · rw [still]
        exact ⟨.refl s, fun h => absurd h unwritten, fun h => absurd h unkept, fun _ _ _ => rfl⟩
      · rw [clears]
        refine ⟨.setReg .., fun h => absurd h unwritten, fun h => absurd h unkept, fun l n h => ?_⟩
        rw [State.reg_setReg, if_pos rfl, Word.fld_and_not_mask _ _ h]

end

/-! ### All fields of a register -/

theorem fldsApart_cons {f : Fld} {l : List Fld} (h : fldsApart (f :: l) = true) :
    f.lsb + f.w ≤ 64 ∧ (∀ g ∈ l, f.lsb + f.w ≤ g.lsb ∨ g.lsb + g.w ≤ f.lsb) ∧ fldsApart l = true := by
  unfold fldsApart at h
  simp only [Bool.and_eq_true, decide_eq_true_eq, List.all_eq_true] at h
  obtain ⟨⟨fits, apart⟩, rest⟩ := h
  exact ⟨fits, apart, rest⟩

/-- `t` is `s` after the write of `w` has been stored in every field of `fs`. -/
structure State.AllStored (off : Nat) (w : Word) (fs : List Fld) (s t : State) : Prop where
  touched : State.Touched off s t
  takes : ∀ f ∈ fs, f.ty = .rw ∨ f.ty = .rwl → (t.reg off).fld f.lsb f.w = (f.fix w (w.fld f.lsb f.w)).1
  keeps : ∀ f ∈ fs, f.ty = .ro ∨ f.ty = .rc ∨ f.ty = .wo ∨ f.ty = .w1s →
    (t.reg off).fld f.lsb f.w = (s.reg off).fld f.lsb f.w
  apart : ∀ l n, (∀ f ∈ fs, l + n ≤ f.lsb ∨ f.lsb + f.w ≤ l) → (t.reg off).fld l n = (s.reg off).fld l n

theorem State.storeFlds_stored {src : Nat} {a : RegAt} {w : Word} (fs : List Fld) (s : State) (unlocked : s.cfg.locked = false)
    (apart : fldsApart fs = true) (inRange : ∀ f ∈ fs, f.clamp ≠ .classMask ∧ (f.fix w (w.fld f.lsb f.w)).2 = false) :
    State.AllStored a.off w fs s (fs.foldl (fun s f => s.storeFld src a w (BitVec.allOnes 64) false f) s) := by
  induction fs generalizing s with
  | nil => exact ⟨.refl s, fun _ h => absurd h List.not_mem_nil, fun _ h => absurd h List.not_mem_nil, fun _ _ _ => rfl⟩
  | cons f fs ih =>
    obtain ⟨fits, away, rest⟩ := fldsApart_cons apart
    obtain ⟨mask, range⟩ := inRange f (List.mem_cons_self ..)
    have first := State.storeFld_stored (src := src) (a := a) unlocked fits mask range
    have then_ := ih _ (first.touched.locked.trans unlocked) rest fun g hg => inRange g (List.mem_cons_of_mem _ hg)
    have held := then_.apart f.lsb f.w away
    refine ⟨first.touched.trans then_.touched, fun g hg ty => ?_, fun g hg ty => ?_, fun l n h => ?_⟩
    · obtain rfl | hg := List.mem_cons.mp hg
      · exact held.trans (first.takes ty)
      · exact then_.takes g hg ty
    · obtain rfl | hg := List.mem_cons.mp hg
      · exact held.trans (first.keeps ty)
      · exact (then_.keeps g hg ty).trans (first.apart _ _ ((away g hg).symm))
    · exact (then_.apart l n fun g hg => h g (List.mem_cons_of_mem _ hg)).trans (first.apart l n (h f (List.mem_cons_self ..)))

theorem State.storeReg_unlocked {s : State} {src : Nat} {a : RegAt} {w m : Word} (unlocked : s.cfg.locked = false) :
    s.storeReg src a w m false = a.d.flds.foldl (fun s f => s.storeFld src a w m false f) s := by
  have free : s.lockedHit a w m = false := by
    unfold State.lockedHit
    rw [unlocked, Bool.false_and]
  unfold State.storeReg
  rw [free, Bool.and_false, if_neg Bool.false_ne_true]

/-- A write that its register takes in no way of its own, and that does nothing besides, stores the fields. -/
theorem State.writeReg_stores {s : State} {au : Auth} {a : RegAt} {w m : Word} (sec : a.d.reg ≠ .lnkSecctl)
    (txs : a.d.reg ≠ .lnkTxsctl) (alone : s.writeAlone au a w m false = none)
    (quiet : ∀ (u : State) (o : Word), u.wrote au a o w m = u) : s.writeReg au a w m false = s.storeReg au.src a w m false := by
  have sec' : (a.d.reg == Reg.lnkSecctl) = false := by simpa using sec
  have txs' : (a.d.reg == Reg.lnkTxsctl) = false := by simpa using txs
  unfold State.writeReg
  simp only [sec', txs', Bool.false_and, Bool.false_eq_true, if_false, alone, quiet, ite_self]

/-- Registers that a write reaches with no way of their own and no further effect. -/
def QuietReg (r : Reg) : Prop :=
  r = .engObase ∨ r = .engOlen ∨ r = .engXctl ∨ r = .engWdog ∨ r = .repPctl ∨ r = .cueChcfg ∨ r = .cueTimer ∨ r = .idsSrccfg ∨
    r = .fltSen

theorem State.writeAlone_quiet {s : State} {au : Auth} {a : RegAt} {w m : Word} (h : QuietReg a.d.reg) :
    s.writeAlone au a w m false = none := by
  rcases h with h | h | h | h | h | h | h | h | h <;> simp only [State.writeAlone, h]

theorem State.wrote_quiet {au : Auth} {a : RegAt} {w m : Word} (h : QuietReg a.d.reg) (u : State) (o : Word) :
    u.wrote au a o w m = u := by
  rcases h with h | h | h | h | h | h | h | h | h <;> simp only [State.wrote, h]

theorem QuietReg.plain {r : Reg} (h : QuietReg r) : r ≠ .cfgCommit ∧ r ≠ .lnkSecctl ∧ r ≠ .lnkTxsctl := by
  rcases h with rfl | rfl | rfl | rfl | rfl | rfl | rfl | rfl | rfl <;> decide

theorem exec_registerWrite_inside {s : State} {m : Master} {addr : Addr} (v : Word) (low : cfgBase ≤ addr.toNat)
    (high : addr.toNat < 0x20000000) : exec (.registerWrite m addr 8 v) s = .next (s.write m (addr.toNat - cfgBase) v) :=
  congrArg Host.Outcome.next (if_pos ⟨low, high⟩)

/-- Settles O43: the fields of a register lie apart, so that each keeps what its own store leaves
(`State.storeFlds_stored`). -/
theorem registerWritesStoreTheirFields : Obligations.RegisterWritesStoreTheirFields := by
  unfold Obligations.RegisterWritesStoreTheirFields
  refine fun s m addr v a => ⟨fun low high h commit sec txs alone quiet unlocked inRange => ?_, fun low high h reg => ?_,
    fun out => congrArg Host.Outcome.next (if_neg (by omega))⟩
  · have stored := State.storeFlds_stored (src := (s.auth m).src) (a := a) a.d.flds s unlocked (Reaches.apart h) inRange
    rw [← State.storeReg_unlocked unlocked] at stored
    refine ⟨_, ?_, stored.takes, stored.keeps, stored.touched.others, (congrArg State.mem stored.touched.fields :),
      (congrArg State.cals stored.touched.fields :), (congrArg State.queues stored.touched.fields :),
      (congrArg State.rdata stored.touched.fields :)⟩
    rw [exec_registerWrite_inside v low high, Reaches.write h commit, State.writeReg_stores sec txs alone quiet]
  · have q : QuietReg a.d.reg := reg
    obtain ⟨commit, sec, txs⟩ := q.plain
    rw [exec_registerWrite_inside v low high, Reaches.write h commit,
      State.writeReg_stores sec txs (State.writeAlone_quiet q) (State.wrote_quiet q)]

end Sys2Proof.Machine

/-! ## Staging, commit, preview, placement and digest of the configuration (R626, R642 to R648) -/

namespace Sys2Proof.Machine

/-! ### Staging -/

theorem cfgDecode_staging (off : BitVec 16) (aligned : off.toNat % 8 = 0) :
    cfgDecode (0x3110000 + off.toNat) 8 true = some .staging := by
  have small := off.isLt
  have size : sizeOk (0x3110000 + off.toNat) 8 = true := by
    simp only [sizeOk]
    have : (0x3110000 + off.toNat) % 8 = 0 := by omega
    simp [this]
  have inside : inStaging (0x3110000 + off.toNat) = true := by
    simp only [inStaging, decide_eq_true_eq]
    omega
  unfold cfgDecode
  rw [size, inside]
  rfl

section
variable {s : State} {m : Master}

theorem State.write_staging {off : BitVec 16} {v : Word} (idle : s.cfgOpen (s.auth m) (0x3110000 + off.toNat) = true)
    (aligned : off.toNat % 8 = 0) (allowed : ∃ t, s.check (s.auth m).view .wr (cfgBase + (0x3110000 + off.toNat)) = .ok t) :
    s.write m (0x3110000 + off.toNat) v = s.stagingWrite (s.auth m) (0x3110000 + off.toNat) 8 v := by
  obtain ⟨t, allowed⟩ := allowed
  have visible : ringHidden (s.auth m) .staging = false := by
    unfold ringHidden
    split <;> first | rfl | (rename_i h; cases h)
  have admits : s.admits (s.auth m) (0x3110000 + off.toNat) 8 true = some (.ok .staging) := by
    unfold State.admits
    simp only [idle, cfgDecode_staging off aligned, allowed, visible, Bool.not_true, Bool.false_eq_true, if_false, if_true]
  simp only [State.write, State.regWrite, admits, Option.getD_some]

theorem State.stagingWrite_takes {off : Nat} {v : Word} (machine : (s.auth m).machine = true) (idle : s.cfg.run = none) :
    s.stagingWrite (s.auth m) (0x3110000 + off) 8 v = s.stage off (leBytes 8 v.toNat) := by
  refine (if_neg (by rw [machine, idle]; decide)).trans ?_
  rw [Nat.add_sub_cancel_left]

theorem State.stagingWrite_locked {off : Nat} {v : Word} (h : (s.auth m).machine = false ∨ s.cfg.run ≠ none) :
    s.stagingWrite (s.auth m) off 8 v = s.locked .cfg 0 := by
  refine if_pos ?_
  obtain plain | runs := h
  · rw [plain]; rfl
  · rw [Option.isSome_iff_ne_none.mpr runs, Bool.or_true]

/-! ### The commit word -/

theorem commitWordOf_fields (count : BitVec 13) (check : BitVec 32) {bits : Nat} (h : bits < 4) :
    let w := commitWordOf count.toNat check.toNat bits
    wr w fCfgCommitCount = count.toNat ∧ wr w fCfgCommitCheck = check.toNat ∧ wrb w fCfgCommitPreview = (bits % 2 == 1) ∧
      wrb w fCfgCommitAbort = (bits / 2 == 1) := by
  have hcount := count.isLt
  have hcheck := check.isLt
  intro w
  simp only [w, commitWordOf, wrb]
  rw [wr_ofNat _ _ _ (by decide), wr_ofNat _ _ _ (by decide), wr_ofNat _ _ _ (by decide), wr_ofNat _ _ _ (by decide)]
  refine ⟨by omega, by omega, congrArg (· == 1) ?_, congrArg (· == 1) ?_⟩ <;> omega

theorem Reaches.write_commit {a : RegAt} (h : Reaches s m rCfgCommit a) (machine : (s.auth m).machine = true) (w : Word) :
    s.write m rCfgCommit w = s.commitWord (s.auth m).src w := by
  have l : located rCfgCommit .cfgCommit 0 0 0 true = true := by decide
  obtain ⟨reg, -⟩ := h.at l
  obtain ⟨idle, decodes, ⟨t, allowed⟩, visible, -, -⟩ := h
  have admits : s.admits (s.auth m) rCfgCommit 8 true = some (.ok (.reg a)) := by
    unfold State.admits
    simp only [idle, decodes, allowed, visible, Bool.not_true, Bool.false_eq_true, if_false, if_true]
  have commits : (a.d.reg == Reg.cfgCommit && (s.auth m).machine) = true := by rw [reg, machine]; rfl
  simp only [State.write, State.regWrite, admits, commits, if_true, Option.getD_some]
  rfl

/-- A commit that nothing refuses. -/
def State.commits (s : State) (src count : Nat) : State :=
  let u := (s.setRf rCfgStatus fCfgStatusApplying 1).applyEntries src count
  { u with cfg := { u.cfg with run := some (false, count), locked := u.cfg.locked || u.mode == 2 } }

/-- A preview that nothing refuses. -/
def State.previews (s : State) (count : Nat) : State :=
  let u := s.setRf rCfgStatus fCfgStatusApplying 1
  { u with cfg := { u.cfg with run := some (true, count) } }

theorem State.commitWord_eq {src : Nat} (count : BitVec 13) (check : BitVec 32) :
    s.commitWord src (commitWordOf count.toNat check.toNat 0) = match s.commitFails src count.toNat check.toNat false with
      | some (why, i) => commitRefused s why i
      | none => s.commits src count.toNat := by
  obtain ⟨hcount, hcheck, preview, abort⟩ := commitWordOf_fields count check (bits := 0) (by decide)
  simp only [State.commitWord, hcount, hcheck, preview, abort, show ((0 : Nat) / 2 == 1) = false from rfl,
    Bool.false_eq_true, if_false]
  cases s.commitFails src count.toNat check.toNat false <;> rfl

theorem State.previewWord_eq {src : Nat} (count : BitVec 13) (check : BitVec 32) :
    s.commitWord src (commitWordOf count.toNat check.toNat 1) = match s.commitFails src count.toNat check.toNat true with
      | some (why, i) => commitRefused s why i
      | none => s.previews count.toNat := by
  obtain ⟨hcount, hcheck, preview, abort⟩ := commitWordOf_fields count check (bits := 1) (by decide)
  simp only [State.commitWord, hcount, hcheck, preview, abort, show ((1 : Nat) / 2 == 1) = false from rfl,
    show ((1 : Nat) % 2 == 1) = true from rfl, Bool.false_eq_true, if_false, if_true]
  cases s.commitFails src count.toNat check.toNat true <;> rfl

theorem State.abortWord_eq {src : Nat} : s.commitWord src (commitWordOf 0 0 2) = s.refitEnd := by
  obtain ⟨-, -, -, abort⟩ := commitWordOf_fields 0 0 (bits := 2) (by decide)
  have ends : wrb (commitWordOf 0 0 2) fCfgCommitAbort = true := abort
  simp only [State.commitWord, ends, if_true]

/-! ### Why a commit is refused -/

section
variable {src count check : Nat} {preview : Bool}

theorem State.commitFails_mode (commit : preview = false) (call : s.mode ≠ 2) (refit : s.mode ≠ 11) :
    s.commitFails src count check preview = some (1, 0) :=
  if_pos (by simp [commit, call, refit])

section
variable (mode : preview = true ∨ s.mode = 2 ∨ s.mode = 11)
include mode

theorem State.mode_commits : ¬ (!preview && s.mode != 2 && s.mode != 11) = true := by
  obtain rfl | mode | mode := mode
  · exact Bool.false_ne_true
  · simp [mode]
  · simp [mode]

theorem State.commitFails_sum (wrong : count = 0 ∨ 4096 < count ∨
      crc32c.of (Tab.getMany memDefault s.cfg.staging 0 (16 * count)) ≠ check) :
    s.commitFails src count check preview = some (2, 0) :=
  (if_neg (State.mode_commits mode)).trans (if_pos wrong)

variable (some : 0 < count) (few : count ≤ 4096)
  (sum : crc32c.of (Tab.getMany memDefault s.cfg.staging 0 (16 * count)) = check)
include some few sum

omit mode in
theorem State.sum_commits : ¬ (count = 0 ∨ 4096 < count ∨
    crc32c.of (Tab.getMany memDefault s.cfg.staging 0 (16 * count)) ≠ check) := by
  rintro (none | many | other)
  · omega
  · omega
  · exact other sum

theorem State.commitFails_entry {i : Nat} (inside : i < count) (bad : s.entryReg i = none)
    (first : ∀ k, k < i → s.entryReg k ≠ none) : s.commitFails src count check preview = .some (3, i) := by
  have found : ((List.range count).find? fun i => (s.entryReg i).isNone) = .some i := by
    rw [List.find?_range_eq_some]
    refine ⟨by rw [bad]; rfl, List.mem_range.mpr inside, fun k hk => ?_⟩
    rw [Bool.not_eq_true', Option.isNone_eq_false_iff, Option.isSome_iff_ne_none]
    exact first k hk
  refine (if_neg (State.mode_commits mode)).trans ((if_neg (State.sum_commits some few sum)).trans ?_)
  rw [found]

variable (all : ∀ k, k < count → s.entryReg k ≠ none)
include all

theorem State.commitFails_rest : s.commitFails src count check preview =
    if !preview && s.rb rCfgDigctl fCfgDigctlExpecten && (s.applyEntries src count).digestOf != s.reg rCfgExpect then .some (4, 0)
    else if s.cfg.run.isSome then .some (5, 0) else none := by
  have found : ((List.range count).find? fun i => (s.entryReg i).isNone) = none := by
    rw [List.find?_eq_none]
    intro k hk
    rw [Option.isNone_iff_eq_none]
    exact all k (List.mem_range.mp hk)
  refine (if_neg (State.mode_commits mode)).trans ((if_neg (State.sum_commits some few sum)).trans ?_)
  rw [found]

end

theorem State.commitFails_checked (s : State) (src count check : Nat) (preview : Bool) :
    CommitChecked s src count check preview (s.commitFails src count check preview) where
  mode := State.commitFails_mode
  sum := State.commitFails_sum
  entry mode some few sum i inside bad first := State.commitFails_entry mode some few sum inside bad first
  rest mode some few sum all := by
    intro wrong
    have rest := State.commitFails_rest (src := src) mode some few sum all
    have iff_wrong : (!preview && s.rb rCfgDigctl fCfgDigctlExpecten &&
        (s.applyEntries src count).digestOf != s.reg rCfgExpect) = true ↔ wrong := by
      simp only [Bool.and_eq_true, Bool.not_eq_true', bne_iff_ne, ne_eq, and_assoc, wrong]
    refine ⟨fun bad => rest.trans (if_pos (iff_wrong.mpr bad)), fun good runs => ?_, fun good idle => ?_⟩
    · exact rest.trans ((if_neg fun h => good (iff_wrong.mp h)).trans (if_pos (Option.isSome_iff_ne_none.mpr runs)))
    · exact rest.trans ((if_neg fun h => good (iff_wrong.mp h)).trans (if_neg (by rw [idle]; exact Bool.false_ne_true)))

end

theorem State.refitEnd_aims (refit : s.mode = 11) (idle : s.cus.target = none) (low : 3 ≤ s.rf rCusMode fCusModeEntry)
    (high : s.rf rCusMode fCusModeEntry ≤ 8) : s.refitEnd = aimed s (s.rf rCusMode fCusModeEntry) :=
  (if_pos ⟨refit, idle⟩).trans (State.begin_other (by omega) (by omega))

theorem State.refitEnd_stays (h : s.mode ≠ 11 ∨ s.cus.target ≠ none) : s.refitEnd = s :=
  if_neg fun now => h.elim (fun away => away now.1) fun runs => runs now.2

/-! ### PREVIEW_DONE and COMMIT_APPLIED -/

theorem State.previewDone_shows {n : Nat} (run : s.cfg.run = some (true, n)) : s.previewDone =
    let u := (s.setReg rCfgStagedig (s.applyEntries 0 n).digestOf).setRf rCfgStatus fCfgStatusApplying 0
    { u with cfg := { u.cfg with run := none } } := by
  simp only [State.previewDone, run]

theorem State.previewDone_stays (h : ∀ n, s.cfg.run ≠ some (true, n)) : s.previewDone = s := by
  unfold State.previewDone
  split
  · rename_i n run
    exact absurd run (h n)
  · rfl

/-- The commit has been applied and counts. -/
def State.commitCounted (s : State) : State :=
  let u := (s.setRf rCfgStatus fCfgStatusApplying 0).addRf rCfgStatus fCfgStatusCommits 1
  { u with cfg := { u.cfg with run := none } }

theorem State.commitApplied_counts {n : Nat} (run : s.cfg.run = some (false, n)) : s.commitApplied =
    if s.commitCounted.mode = 11 then s.commitCounted.refitEnd
    else if s.commitCounted.mode = 2 ∧ !s.commitCounted.cfg.placed then s.commitCounted.placeCommit else s.commitCounted := by
  simp only [State.commitApplied, run]
  rfl

theorem State.commitApplied_stays (h : ∀ n, s.cfg.run ≠ some (false, n)) : s.commitApplied = s := by
  unfold State.commitApplied
  split
  · rename_i n run
    exact absurd run (h n)
  · rfl

/-! ### PLACEMENT_MOVE -/

theorem State.placementMove_none (none : s.cfg.moves = []) : s.placementMove = s := by
  unfold State.placementMove
  split
  · rename_i moves _
    rw [none] at moves
    cases moves
  · rfl

theorem State.placementMove_barred (h : s.mode ≠ 2 ∨ s.cfg.run ≠ none) : s.placementMove = s := by
  unfold State.placementMove
  split
  · rename_i idle
    exact if_pos (h.resolve_right fun runs => runs idle)
  · rfl

section
variable {j l : Nat} {rest : List (Nat × Nat)} (moves : s.cfg.moves = (j, l) :: rest) (idle : s.cfg.run = none) (call : s.mode = 2)
include moves idle call

theorem State.placementMove_worn (worn : s.worn j = true) : s.placementMove = (s.moveElse j l rest).movesEnd := by
  simp only [State.placementMove, moves, idle, call, worn, ne_eq, not_true_eq_false, if_false, if_true]

theorem State.placementMove_exchange (sound : s.worn j = false) (low : 0x30 ≤ j) (high : j < 0x40) :
    s.placementMove = ((s.exchange j l).setMoves rest).movesEnd := by
  have kind : swapKind j = 3 ∨ swapKind j = 4 := by
    unfold swapKind
    rw [if_neg (by omega), if_neg (by omega)]
    by_cases h : j < 0x38
    · exact .inl (if_pos h)
    · exact .inr ((if_neg h).trans (if_pos high))
  obtain kind | kind := kind <;>
    simp only [State.placementMove, moves, idle, call, sound, kind, ne_eq, not_true_eq_false, if_false, Bool.false_eq_true]

end

theorem State.exchange_cfg (s : State) (j l : Nat) : (s.exchange j l).cfg = s.cfg := by
  unfold State.exchange
  dsimp only
  split <;> rfl

theorem State.movesEnd_waits (h : s.cfg.moves ≠ [] ∨ s.cfg.placed = false) : s.movesEnd = s.applyDomains := by
  refine congrArg State.applyDomains (if_neg ?_)
  rw [Bool.and_eq_true, List.isEmpty_iff]
  rintro ⟨none, placed⟩
  exact h.elim (fun some => some none) fun un => absurd (placed.symm.trans un) (by decide)

theorem State.movesEnd_commits (none : s.cfg.moves = []) (placed : s.cfg.placed = true) :
    s.movesEnd = (s.setRf rCfgStatus fCfgStatusCommitted 1).applyDomains :=
  congrArg State.applyDomains (if_pos (by rw [none, placed]; rfl))

/-! ### The digest -/

theorem State.digestStart_computes (up : s.ready 50 = true) (idle : s.cfg.digest = none) (own : s.digestUnit = true) :
    s.digestStart =
      let u := s.setRf rCfgStatus fCfgStatusDigbusy 1
      { u with cfg := { u.cfg with digest := some u.digestOf, changed := false } } := by
  simp only [State.digestStart, up, idle, own, Bool.not_true, Bool.false_eq_true, if_false, if_true, Option.isSome_none,
    Bool.false_and]

theorem State.digestStart_again (up : s.ready 50 = true) (runs : s.cfg.digest ≠ none) :
    s.digestStart = { s with cfg := { s.cfg with again := true, changed := false } } :=
  (if_neg (by rw [up]; exact Bool.false_ne_true)).trans (if_pos (Option.isSome_iff_ne_none.mpr runs))

theorem State.digestTimer_at (now : s.time % 1000 = 0) : s.digestTimer = s.digestStart := if_pos now

theorem State.digestChange_now (changed : s.cfg.changed = true) : s.digestChange = s.digestStart := if_pos changed

/-- The digest `d` shows. -/
def State.digestShown (s : State) (d : Word) : State :=
  let u := ((s.setReg rCfgDigest d).addRf rCfgDigstat fCfgDigstatSeq 1).setRf rCfgStatus fCfgStatusDigbusy 0
  { u with cfg := { u.cfg with digest := none, again := false } }

theorem State.digestPublish_shows {d : Word} (ready : s.cfg.digest = some d) (own : (s.sea 5).holder ≠ some 33)
    (once : s.cfg.again = false) : s.digestPublish =
      if (s.digestShown d).rb rCfgDigctl fCfgDigctlExpecten && (s.digestShown d).mode != 11 && d != (s.digestShown d).reg rCfgExpect
      then ((s.digestShown d).raise ⟨.cfg, 0, 3, none, 0, 0, 0, false⟩).curtEvent 4 else s.digestShown d := by
  have apart : ¬ ((((s.setReg rCfgDigest d).addRf rCfgDigstat fCfgDigstatSeq 1).setRf rCfgStatus fCfgStatusDigbusy 0).sea 5).holder =
      some 33 := own
  have still : (((s.setReg rCfgDigest d).addRf rCfgDigstat fCfgDigstatSeq 1).setRf rCfgStatus fCfgStatusDigbusy 0).cfg.again = false :=
    once
  simp only [State.digestPublish, ready, if_neg apart, still, Bool.false_eq_true, if_false]
  rfl

end

/-- Settles O44: the checks of a commit word decide in their order (`State.commitFails_checked`), and each later event has
one branch per clause. -/
theorem commitsAreCheckedAndApplied : Obligations.CommitsAreCheckedAndApplied := by
  unfold Obligations.CommitsAreCheckedAndApplied
  refine ⟨fun s m off v idle aligned allowed => ⟨fun machine free => ?_, fun refused => ?_⟩,
    fun s m a h machine => ⟨fun count check => ⟨_, s.commitFails_checked .., ?_, ?_⟩,
      fun count check => ⟨_, s.commitFails_checked .., ?_, ?_⟩, fun refit idle low high => ?_, fun stays => ?_⟩,
    fun s => ⟨?_, ?_, fun n run => ?_, ?_, ?_, ?_, fun j l rest moves idle call => ⟨?_, fun sound low high => ?_⟩⟩,
    fun s => ⟨?_, ?_, fun up idle own => ⟨?_, ?_⟩, fun up runs => ⟨?_, ?_⟩, ?_, fun d ready own once => ?_⟩⟩
  · exact congrArg Host.Outcome.next ((State.write_staging idle aligned allowed).trans (State.stagingWrite_takes machine free))
  · exact congrArg Host.Outcome.next ((State.write_staging idle aligned allowed).trans (State.stagingWrite_locked refused))
  · intro why i fails
    refine congrArg Host.Outcome.next ((Reaches.write_commit h machine _).trans ((State.commitWord_eq count check).trans ?_))
    rw [fails]
  · intro passes
    refine congrArg Host.Outcome.next ((Reaches.write_commit h machine _).trans ((State.commitWord_eq count check).trans ?_))
    rw [passes]
    rfl
  · intro why i fails
    refine congrArg Host.Outcome.next ((Reaches.write_commit h machine _).trans ((State.previewWord_eq count check).trans ?_))
    rw [fails]
  · intro passes
    refine congrArg Host.Outcome.next ((Reaches.write_commit h machine _).trans ((State.previewWord_eq count check).trans ?_))
    rw [passes]
    rfl
  · exact congrArg Host.Outcome.next ((Reaches.write_commit h machine _).trans
      (State.abortWord_eq.trans (State.refitEnd_aims refit idle low high)))
  · exact congrArg Host.Outcome.next ((Reaches.write_commit h machine _).trans
      (State.abortWord_eq.trans (State.refitEnd_stays stays)))
  · exact fun n run => congrArg Host.Outcome.next (State.previewDone_shows run)
  · exact fun other => congrArg Host.Outcome.next (State.previewDone_stays other)
  · intro u0 u1 u
    have applied := congrArg (Host.Outcome.next (φ := Fault) (ρ := Refusal)) (State.commitApplied_counts run)
    refine ⟨fun refit => applied.trans (congrArg _ (if_pos refit)), fun call fresh => applied.trans (congrArg _ ?_),
      fun placed other => applied.trans (congrArg _ ((if_neg other).trans (if_neg ?_)))⟩
    · have call' : s.commitCounted.mode = 2 := call
      exact (if_neg (by rw [call']; decide)).trans (if_pos ⟨call, by rw [show s.commitCounted.cfg.placed = false from fresh]; rfl⟩)
    · rintro ⟨call, fresh⟩
      obtain away | done := placed
      · exact away call
      · rw [show s.commitCounted.cfg.placed = true from done] at fresh
        exact Bool.false_ne_true fresh
  · exact fun other => congrArg Host.Outcome.next (State.commitApplied_stays other)
  · exact fun none => congrArg Host.Outcome.next (State.placementMove_none none)
  · exact fun barred => congrArg Host.Outcome.next (State.placementMove_barred barred)
  · exact fun worn => congrArg Host.Outcome.next (State.placementMove_worn moves idle call worn)
  · intro u
    have run := congrArg (Host.Outcome.next (φ := Fault) (ρ := Refusal))
      (State.placementMove_exchange moves idle call sound low high)
    have placed : u.cfg.placed = s.cfg.placed := (congrArg CfgSt.placed (s.exchange_cfg j l) :)
    exact ⟨fun waits => run.trans (congrArg _ (State.movesEnd_waits (waits.imp id placed.trans))),
      fun last done => run.trans (congrArg _ (State.movesEnd_commits last (placed.trans done)))⟩
  · exact fun away => congrArg Host.Outcome.next (if_neg away)
  · exact fun same => congrArg Host.Outcome.next (if_neg (by rw [same]; exact Bool.false_ne_true))
  · exact fun now => congrArg Host.Outcome.next ((State.digestTimer_at now).trans (State.digestStart_computes up idle own))
  · exact fun changed => congrArg Host.Outcome.next ((State.digestChange_now changed).trans (State.digestStart_computes up idle own))
  · exact fun now => congrArg Host.Outcome.next ((State.digestTimer_at now).trans (State.digestStart_again up runs))
  · exact fun changed => congrArg Host.Outcome.next ((State.digestChange_now changed).trans (State.digestStart_again up runs))
  · intro idle
    refine congrArg Host.Outcome.next ?_
    simp only [State.digestPublish, idle]
  · intro u0 u1 u bad
    have run := congrArg (Host.Outcome.next (φ := Fault) (ρ := Refusal)) (State.digestPublish_shows ready own once)
    have iff_bad : ((s.digestShown d).rb rCfgDigctl fCfgDigctlExpecten && (s.digestShown d).mode != 11 &&
        d != (s.digestShown d).reg rCfgExpect) = true ↔ bad := by
      simp only [Bool.and_eq_true, bne_iff_ne, ne_eq, and_assoc]
      exact Iff.rfl
    exact ⟨fun good => run.trans (congrArg _ (if_neg fun h => good (iff_bad.mp h))),
      fun wrong => run.trans (congrArg _ (if_pos (iff_bad.mpr wrong)))⟩

end Sys2Proof.Machine

/-! ## What reset leaves (R14, R492, R559, R564, R591, R650) -/

namespace Sys2Proof.Machine

/-! Nothing is listed at reset, so a register reads the value that its table gives: each lemma evaluates the entries of one block. -/

theorem reset_ports (p : Fin 4) : State.reset.rf (rLnkPctl p) fLnkPctlEn = 0 ∧ State.reset.rf (rLnkPctl p) fLnkPctlSpeed = 2 ∧
    State.reset.rf (rLnkPctl p) fLnkPctlAn = 1 ∧ State.reset.rf (rLnkPctl p) fLnkPctlFec = 2 ∧
    State.reset.rf (rLnkPstat p) fLnkPstatLinkup = 0 := by
  decide +kernel +revert

theorem reset_streamFilters (n : Fin 256) : State.reset.rf (rLnkRxsstat n) fLnkRxsstatFirst = 1 := by
  decide +kernel +revert

theorem reset_sealUnits (u : Fin 6) : State.reset.rf (rSeaCtl u) fSeaCtlPoly = 2 ∧ State.reset.reg (rSeaInit u) = 0xFFFFFFFF ∧
    State.reset.rf (rSeaStat u) fSeaStatOpen = 0 := by
  decide +kernel +revert

theorem reset_hostPort : State.reset.rf rHstPctl fHstPctlMaxgen = 6 ∧ State.reset.rf rHstPctl fHstPctlCto = 50 := by
  decide +kernel

theorem reset_rings (f : Fin 2) (n : Fin 64) : State.reset.rb (rHstSqctl f n) fHstSqctlEn = false ∧
    State.reset.rb (rHstCqctl f n) fHstCqctlEn = false := by
  decide +kernel +revert

/-- Settles O59: the registers named are evaluated block by block. -/
theorem resetLeavesTheTablesValues : Obligations.ResetLeavesTheTablesValues := by
  unfold Obligations.ResetLeavesTheTablesValues
  obtain ⟨generation, timeout⟩ := reset_hostPort
  exact ⟨rfl, rfl, Tests.test_reset_mode, fun p hp => reset_ports ⟨p, hp⟩, fun n hn => reset_streamFilters ⟨n, hn⟩,
    fun u hu => reset_sealUnits ⟨u, hu⟩, generation, timeout, fun f n hf hn => reset_rings ⟨f, hf⟩ ⟨n, hn⟩⟩

end Sys2Proof.Machine

/-! ## TXTAIL, RESYNC and the key words (R541, R548, R560) -/

namespace Sys2Proof.Machine

/-- The fields of the register at an offset. -/
def fieldsAt (off : Nat) (fs : List Fld) : Bool :=
  match cfgDecode off 8 true with
  | some (.reg a) => a.d.flds == fs
  | _ => false

theorem Reaches.fields {s : State} {m : Master} {off : Nat} {a : RegAt} {fs : List Fld} (h : Reaches s m off a)
    (f : fieldsAt off fs = true) : a.d.flds = fs := by
  unfold fieldsAt at f
  rw [h.decodes] at f
  exact beq_iff_eq.mp f

/-- A register of one plain field takes it. -/
theorem State.storeReg_field {s : State} {src : Nat} {a : RegAt} {w : Word} {lsb n : Nat} (one : a.d.flds = [⟨lsb, n, .rw, .any, false⟩])
    (some : maskOf lsb n ≠ 0) : s.storeReg src a w (BitVec.allOnes 64) false = s.setRf a.off ⟨lsb, n⟩ (w.fld lsb n) := by
  have free : s.lockedHit a w (BitVec.allOnes 64) = false := by
    unfold State.lockedHit
    rw [one]
    exact Bool.and_false _
  unfold State.storeReg
  rw [free, one, Bool.and_false, if_neg Bool.false_ne_true]
  simp only [List.foldl_cons, List.foldl_nil, State.storeFld]
  rw [BitVec.and_allOnes, if_neg some, BitVec.and_allOnes, BitVec.not_allOnes, BitVec.and_zero, BitVec.zero_or]
  rfl

section
variable {s : State} {m : Master} {a : RegAt} {p : BitVec 2}

/-! ### TXTAIL -/

theorem located_lnkTxtail : ∀ (p : BitVec 2) (w : World),
    located (rLnkTxtail p.toNat w.idx) .lnkTxtail p.toNat w.idx 0 false = true ∧
    fieldsAt (rLnkTxtail p.toNat w.idx) [⟨0, 16, .rw, .any, false⟩] = true := by
  intro p w
  cases w <;> revert p <;> decide

theorem txctl_ne_txtail : ∀ (p : BitVec 2) (w : World), rLnkTxctl p.toNat w.idx ≠ rLnkTxtail p.toNat w.idx := by
  intro p w
  cases w <;> revert p <;> decide

theorem Reaches.write_txtail {w : World} (h : Reaches s m (rLnkTxtail p.toNat w.idx) a) (tail : BitVec 16) :
    s.write m (rLnkTxtail p.toNat w.idx) (tail.zeroExtend 64) =
      let t := s.storeReg (s.auth m).src a (tail.zeroExtend 64) (BitVec.allOnes 64) false
      (t.setRf (rLnkTxtail p.toNat w.idx) fLnkTxtailTail
        (tail.toNat % (16 * 2 ^ s.rf (rLnkTxctl p.toNat w.idx) fLnkTxctlSize))).txKick p.toNat w.idx := by
  obtain ⟨l, f⟩ := located_lnkTxtail p w
  obtain ⟨reg, inst, i, -, -, at_⟩ := h.at l
  have stored := State.storeReg_field (s := s) (src := (s.auth m).src) (w := tail.zeroExtend 64) (Reaches.fields h f) (by decide)
  rw [at_] at stored
  have value : wr (tail.zeroExtend 64) fLnkTxtailTail = tail.toNat := wr_zeroExtend tail (by decide)
  have tailNow : (s.storeReg (s.auth m).src a (tail.zeroExtend 64) (BitVec.allOnes 64) false).rf (rLnkTxtail p.toNat w.idx)
      fLnkTxtailTail = tail.toNat := by
    rw [stored, State.rf_setRf_same _ _ _ (by decide)]
    exact (congrArg (· % 2 ^ 16) value).trans (Nat.mod_eq_of_lt tail.isLt)
  have sizeNow : (s.storeReg (s.auth m).src a (tail.zeroExtend 64) (BitVec.allOnes 64) false).rf (rLnkTxctl p.toNat w.idx)
      fLnkTxctlSize = s.rf (rLnkTxctl p.toNat w.idx) fLnkTxctlSize := by
    rw [stored]
    exact State.rf_setRf_other _ _ (.inl (txctl_ne_txtail p w))
  rw [Reaches.stores_located h l (by decide) _ (by simp only [State.writeAlone, reg])]
  simp only [State.wrote, reg, inst, i, State.txtailPost, tailNow, sizeNow]

/-! ### RESYNC -/

theorem located_lnkRxsstat : ∀ n : BitVec 8, located (rLnkRxsstat n.toNat) .lnkRxsstat 0 0 n.toNat true = true ∧
    fielded (rLnkRxsstat n.toNat) = true := by
  decide

theorem Reaches.write_resync {n : BitVec 8} (h : Reaches s m (rLnkRxsstat n.toNat) a) :
    s.write m (rLnkRxsstat n.toNat) (BitVec.ofNat 64 (2 ^ 17)) = s.setRf (rLnkRxsstat n.toNat) fLnkRxsstatFirst 1 := by
  obtain ⟨l, f⟩ := located_lnkRxsstat n
  obtain ⟨reg, -, -, -, -, at_⟩ := h.at l
  rw [Reaches.acts_located h l f (by decide) _ (by simp only [State.writeAlone, reg])]
  simp only [State.wrote, reg, at_]
  rfl

/-! ### Key words -/

theorem located_lnkKeydata : ∀ p : BitVec 2, located (rLnkKeydata p.toNat) .lnkKeydata p.toNat 0 0 true = true ∧
    fielded (rLnkKeydata p.toNat) = true := by
  decide

theorem lnkKeydata_block : ∀ p : BitVec 2, inBlock (rLnkKeydata p.toNat) .lnk = true := by decide

theorem State.keyOwner_iff {au : Auth} {p : Nat} : s.keyOwner au p = true ↔
    au.machine = true ∨ au.view = .win (worldOf (s.rf (rLnkSecctl p) fLnkSecctlOwner)) true := by
  simp only [State.keyOwner, Bool.or_eq_true, beq_iff_eq]

theorem Reaches.write_keydata_owner {v : Word} (h : Reaches s m (rLnkKeydata p.toNat) a)
    (owner : s.keyOwner (s.auth m) p.toNat = true) : s.write m (rLnkKeydata p.toNat) v = s.keydata p.toNat v := by
  obtain ⟨l, f⟩ := located_lnkKeydata p
  obtain ⟨reg, inst, -⟩ := h.at l
  rw [Reaches.acts_located h l f (by decide) _ (by simp only [State.writeAlone, reg, inst, owner, if_true])]
  simp only [State.wrote, reg, inst]

theorem Reaches.write_keydata_refused {v : Word} (h : Reaches s m (rLnkKeydata p.toNat) a)
    (other : s.keyOwner (s.auth m) p.toNat = false) : s.write m (rLnkKeydata p.toNat) v = s.locked .lnk p.toNat := by
  obtain ⟨l, -⟩ := located_lnkKeydata p
  obtain ⟨reg, inst, -⟩ := h.at l
  have blk : a.blk = .lnk := Reaches.block h (lnkKeydata_block p)
  exact Reaches.alone_located h l (by decide)
    (by simp only [State.writeAlone, reg, inst, other, blk, Bool.false_eq_true, if_false])

end

/-- Settles O52: each register takes the write by its own rule; the words of a key stand in staging until word 6. -/
theorem linkRegistersTakeTheirCommands : Obligations.LinkRegistersTakeTheirCommands := by
  unfold Obligations.LinkRegistersTakeTheirCommands
  refine ⟨fun s m p w tail a h => congrArg Host.Outcome.next (Reaches.write_txtail h tail),
    fun s m n a h => congrArg Host.Outcome.next (Reaches.write_resync h), fun s m p v a h => ?_⟩
  intro k word owner
  have refused (other : ¬ owner) : s.keyOwner (s.auth m) p.toNat = false :=
    Bool.eq_false_iff.mpr fun may => other (State.keyOwner_iff.mp may)
  have takes (own : owner) := Reaches.write_keydata_owner (v := v) h (State.keyOwner_iff.mpr own)
  refine ⟨fun other => congrArg Host.Outcome.next (Reaches.write_keydata_refused h (refused other)),
    fun other last => congrArg Host.Outcome.next ((if_pos last).trans (Reaches.write_keydata_refused h (refused other))),
    fun early => congrArg Host.Outcome.next (if_neg early),
    fun own early => congrArg Host.Outcome.next ((takes own).trans (if_pos early)), fun own last => ?_⟩
  intro words clear t0 t
  have installs : s.keydata p.toNat v = t := if_neg (by rw [show s.rf (rLnkKeysel p.toNat) fLnkKeyselWord = 6 from last]; decide)
  exact ⟨congrArg Host.Outcome.next ((takes own).trans installs),
    congrArg Host.Outcome.next ((if_pos last).trans ((takes own).trans installs))⟩

end Sys2Proof.Machine

/-! ## Seal units (R549 to R552, R564, R565) -/

namespace Sys2Proof.Machine

/-! ### Feed and close -/

section
variable {s : State} {u : Nat}

theorem State.seaFeed_feeds {bs : List Byte} (some : bs ≠ []) : s.seaFeed u bs = sealFed s u bs := by
  unfold State.seaFeed sealFed
  rw [if_neg some]
  cases fresh : s.rb (rSeaStat u) fSeaStatOpen with
  | false => rfl
  | true =>
    simp only [Bool.not_true, Bool.false_eq_true, if_false, if_true]
    rw [State.rf_setRf_other _ _ (.inr (.inr (by decide)))]
    rfl

variable {tag feeder v : Nat}

theorem State.seaCloseVal_generates (generates : (s.setReg (rSeaResult u) (BitVec.ofNat 64 v)).rb (rSeaCtl u) fSeaCtlMode = false) :
    s.seaCloseVal u tag feeder v =
      let r := s.setReg (rSeaResult u) (BitVec.ofNat 64 v)
      (r.setRf (rSeaAlive u) fSeaAliveAlive (r.rf (rSeaAlive u) fSeaAliveAlive + 1)).sealWrite u tag feeder false :=
  if_neg (by rw [generates]; exact Bool.false_ne_true)

/-- What a check of the value finds wrong. -/
def State.sealWhy (r : State) (u v : Nat) : Nat :=
  checkWhy v (r.reg (rSeaChkval u)).toNat (r.rf (rSeaAlive u) fSeaAliveAlive) (r.rf (rSeaChkalive u) fSeaChkaliveAlive)

theorem State.seaCloseVal_fails (checks : (s.setReg (rSeaResult u) (BitVec.ofNat 64 v)).rb (rSeaCtl u) fSeaCtlMode = true) {why : Nat}
    (found : (s.setReg (rSeaResult u) (BitVec.ofNat 64 v)).sealWhy u v = why) (bad : why ≠ 0) :
    s.seaCloseVal u tag feeder v =
      let w := ((s.setReg (rSeaResult u) (BitVec.ofNat 64 v)).setRf (rSeaStat u) fSeaStatFailwhy why).setRf (rSeaStat u) fSeaStatFail 1
      (w.raise ⟨.sea, u, 1, some (w.seaWorld u), 0, why, 0, false⟩).sealWrite u tag feeder true := by
  unfold State.sealWhy at found
  unfold State.seaCloseVal
  simp only [checks, found, if_true, if_neg bad, bne_iff_ne.mpr bad]

theorem State.seaCloseVal_passes (checks : (s.setReg (rSeaResult u) (BitVec.ofNat 64 v)).rb (rSeaCtl u) fSeaCtlMode = true)
    (found : (s.setReg (rSeaResult u) (BitVec.ofNat 64 v)).sealWhy u v = 0) :
    s.seaCloseVal u tag feeder v =
      let r := s.setReg (rSeaResult u) (BitVec.ofNat 64 v)
      (((r.setRf (rSeaStat u) fSeaStatFailwhy 0).setRf (rSeaStat u) fSeaStatFail 0).setRf (rSeaAlive u) fSeaAliveAlive
        (r.rf (rSeaChkalive u) fSeaChkaliveAlive)).sealWrite u tag feeder false := by
  unfold State.sealWhy at found
  unfold State.seaCloseVal
  simp only [checks, found, if_true, bne_self_eq_false]

theorem State.seaCloseNow_closes : SealClosed s u tag feeder (s.seaCloseNow u tag feeder) := by
  unfold SealClosed
  intro c0 c v r alive chk failed same older
  have idles {t : State} (run : s.seaCloseVal u tag feeder v = t) : s.seaCloseNow u tag feeder = t.seaIdle u :=
    congrArg (State.seaIdle · u) run
  refine ⟨fun mode => idles (State.seaCloseVal_generates mode), fun mode other => ?_, fun mode value off old => ?_,
    fun mode value off young => ?_, fun mode value next => ?_⟩
  · exact idles (State.seaCloseVal_fails mode (if_pos other) (by decide))
  · exact idles (State.seaCloseVal_fails mode ((if_neg (not_not.mpr value)).trans ((if_neg off).trans (if_pos old))) (by decide))
  · exact idles (State.seaCloseVal_fails mode ((if_neg (not_not.mpr value)).trans ((if_neg off).trans (if_neg young))) (by decide))
  · exact idles (State.seaCloseVal_passes mode ((if_neg (not_not.mpr value)).trans (if_pos next)))

end

/-! ### The registers of a unit -/

theorem located_seaFeedb : ∀ u : Fin 6, located (rSeaFeedb u.val) .seaFeedb u.val 0 0 true = true ∧ fielded (rSeaFeedb u.val) = true := by
  decide
theorem located_seaFeedh : ∀ u : Fin 6, located (rSeaFeedh u.val) .seaFeedh u.val 0 0 true = true ∧ fielded (rSeaFeedh u.val) = true := by
  decide
theorem located_seaFeedw : ∀ u : Fin 6, located (rSeaFeedw u.val) .seaFeedw u.val 0 0 true = true ∧ fielded (rSeaFeedw u.val) = true := by
  decide
theorem located_seaClose : ∀ u : Fin 6, located (rSeaClose u.val) .seaClose u.val 0 0 true = true ∧ fielded (rSeaClose u.val) = true := by
  decide
theorem located_seaScanlen : ∀ u : Fin 6,
    located (rSeaScanlen u.val) .seaScanlen u.val 0 0 true = true ∧ fielded (rSeaScanlen u.val) = true := by
  decide
theorem located_seaCtl : ∀ u : Fin 6, located (rSeaCtl u.val) .seaCtl u.val 0 0 false = true := by decide

section
variable {s : State} {m : Master} {u : Fin 6} {a : RegAt}

/-- A register of a held unit answers BUSYFEED. -/
theorem Reaches.write_seal_held {off : Nat} {r : Reg} {acting : Bool} {w : Word} (h : Reaches s m off a)
    (l : located off r u.val 0 0 acting = true)
    (among : r = .seaCtl ∨ r = .seaFeedb ∨ r = .seaFeedh ∨ r = .seaFeedw ∨ r = .seaScanlen)
    (held : s.rb (rSeaStat u.val) fSeaStatHeld = true) : s.write m off w = s.busyFeed u.val := by
  obtain ⟨reg, inst, -⟩ := h.at l
  have plain : r ≠ .cfgCommit ∧ r ≠ .lnkSecctl ∧ r ≠ .lnkTxsctl := by
    rcases among with rfl | rfl | rfl | rfl | rfl <;> decide
  refine Reaches.alone_located h l plain ?_
  rcases among with rfl | rfl | rfl | rfl | rfl <;> simp only [State.writeAlone, reg, inst, held, if_true]

theorem State.seaRegFeed_free {n v : Nat} (free : s.rb (rSeaStat u.val) fSeaStatHeld = false) (some : leBytes n v ≠ []) :
    s.seaRegFeed u.val n v = sealFed s u.val (leBytes n v) :=
  (if_neg (by rw [free]; exact Bool.false_ne_true)).trans (State.seaFeed_feeds some)

theorem SealFeed.held {i : Instr} {off : Nat} {bs : List Byte} (f : SealFeed m u i off bs) (h : Reaches s m off a)
    (held : s.rb (rSeaStat u.val) fSeaStatHeld = true) : exec i s = .next (s.busyFeed u.val) := by
  cases f with
  | b v => exact congrArg Host.Outcome.next (Reaches.write_seal_held h (located_seaFeedb u).1 (by decide) held)
  | h v => exact congrArg Host.Outcome.next (Reaches.write_seal_held h (located_seaFeedh u).1 (by decide) held)
  | w v => exact congrArg Host.Outcome.next (Reaches.write_seal_held h (located_seaFeedw u).1 (by decide) held)

/-- The bytes that a write of a feed register gives (R550). -/
def feedBytes : Reg → Nat
  | .seaFeedh => 2
  | .seaFeedw => 4
  | _ => 1

theorem Reaches.write_feed {off : Nat} {r : Reg} (h : Reaches s m off a) (l : located off r u.val 0 0 true = true)
    (f : Machine.fielded off = true) (among : r = .seaFeedb ∨ r = .seaFeedh ∨ r = .seaFeedw) (v : BitVec (8 * feedBytes r))
    (free : s.rb (rSeaStat u.val) fSeaStatHeld = false) :
    s.write m off (v.zeroExtend 64) = sealFed s u.val (leBytes (feedBytes r) v.toNat) := by
  obtain ⟨reg, inst, -⟩ := h.at l
  have small : 8 * feedBytes r ≤ 64 ∧ feedBytes r ≠ 0 ∧ r ≠ .cfgCommit ∧ r ≠ .lnkSecctl ∧ r ≠ .lnkTxsctl := by
    rcases among with rfl | rfl | rfl <;> decide
  obtain ⟨fits, some, plain⟩ := small
  have value : wr (v.zeroExtend 64) ⟨0, 8 * feedBytes r⟩ = v.toNat := wr_zeroExtend v fits
  have alone : s.writeAlone (s.auth m) a (v.zeroExtend 64) (BitVec.allOnes 64) false = none := by
    rcases among with rfl | rfl | rfl <;> simp only [State.writeAlone, reg, inst, free, Bool.false_eq_true, if_false]
  have feeds : s.write m off (v.zeroExtend 64) = s.seaRegFeed u.val (feedBytes r) (wr (v.zeroExtend 64) ⟨0, 8 * feedBytes r⟩) := by
    rw [Reaches.acts_located h l f plain _ alone]
    rcases among with rfl | rfl | rfl <;> simp only [State.wrote, reg, inst] <;> rfl
  rw [feeds, value]
  exact State.seaRegFeed_free free fun none => some (by rw [← length_leBytes (feedBytes r) v.toNat, none]; rfl)

theorem SealFeed.free {i : Instr} {off : Nat} {bs : List Byte} (f : SealFeed m u i off bs) (h : Reaches s m off a)
    (free : s.rb (rSeaStat u.val) fSeaStatHeld = false) : exec i s = .next (sealFed s u.val bs) := by
  cases f with
  | b v => exact congrArg Host.Outcome.next (Reaches.write_feed h (located_seaFeedb u).1 (located_seaFeedb u).2 (by decide) v free)
  | h v => exact congrArg Host.Outcome.next (Reaches.write_feed h (located_seaFeedh u).1 (located_seaFeedh u).2 (by decide) v free)
  | w v => exact congrArg Host.Outcome.next (Reaches.write_feed h (located_seaFeedw u).1 (located_seaFeedw u).2 (by decide) v free)

theorem Reaches.write_seaClose_held (h : Reaches s m (rSeaClose u.val) a) (held : s.rb (rSeaStat u.val) fSeaStatHeld = true)
    (quiet : (s.sea u.val).scan = none) : s.write m (rSeaClose u.val) 1 = s.busyFeed u.val := by
  obtain ⟨l, -⟩ := located_seaClose u
  obtain ⟨reg, inst, -⟩ := h.at l
  exact Reaches.alone_located h l (by decide)
    (by simp only [State.writeAlone, reg, inst, held, quiet, Option.isNone_none, Bool.and_self, if_true])

theorem Reaches.write_seaClose (h : Reaches s m (rSeaClose u.val) a)
    (open_ : s.rb (rSeaStat u.val) fSeaStatHeld = false ∨ (s.sea u.val).scan ≠ none) :
    s.write m (rSeaClose u.val) 1 = s.seaCloseReg u.val := by
  obtain ⟨l, f⟩ := located_seaClose u
  obtain ⟨reg, inst, -⟩ := h.at l
  have apart : (s.rb (rSeaStat u.val) fSeaStatHeld && (s.sea u.val).scan.isNone) = false := by
    obtain free | scans := open_
    · rw [free, Bool.false_and]
    · rw [Option.isNone_eq_false_iff.mpr (Option.isSome_iff_ne_none.mpr scans), Bool.and_false]
  rw [Reaches.acts_located h l f (by decide) _
    (by simp only [State.writeAlone, reg, inst, apart, Bool.false_eq_true, if_false])]
  simp only [State.wrote, reg, inst]
  rfl

theorem State.seaCloseReg_scanning {start len : Nat} {after : Bool} (scans : (s.sea u.val).scan = some (start, len, after)) :
    s.seaCloseReg u.val = s.setSea u.val { s.sea u.val with scan := some (start, len, true) } := by
  simp only [State.seaCloseReg, scans]

theorem State.seaCloseReg_free (quiet : (s.sea u.val).scan = none) (free : s.rb (rSeaStat u.val) fSeaStatHeld = false) :
    s.seaCloseReg u.val = s.seaCloseNow u.val 0 0 := by
  simp only [State.seaCloseReg, quiet, free, Bool.false_eq_true, if_false]

theorem Reaches.write_scanlen (h : Reaches s m (rSeaScanlen u.val) a) (len : BitVec 40) (after : Bool)
    (free : s.rb (rSeaStat u.val) fSeaStatHeld = false) :
    s.write m (rSeaScanlen u.val) (BitVec.ofNat 64 (len.toNat + 2 ^ 40 * after.toNat)) = s.scanStart u.val len.toNat after := by
  obtain ⟨l, f⟩ := located_seaScanlen u
  obtain ⟨reg, inst, -⟩ := h.at l
  have small := len.isLt
  have bit := Bool.toNat_lt after
  have length : wr (BitVec.ofNat 64 (len.toNat + 2 ^ 40 * after.toNat)) fSeaScanlenLen = len.toNat := by
    rw [wr_ofNat _ _ _ (by decide)]
    omega
  have closes : wrb (BitVec.ofNat 64 (len.toNat + 2 ^ 40 * after.toNat)) fSeaScanlenCloseafter = after := by
    have : wr (BitVec.ofNat 64 (len.toNat + 2 ^ 40 * after.toNat)) fSeaScanlenCloseafter = after.toNat := by
      rw [wr_ofNat _ _ _ (by decide)]
      omega
    unfold wrb
    rw [this]
    cases after <;> rfl
  rw [Reaches.acts_located h l f (by decide) _
    (by simp only [State.writeAlone, reg, inst, free, Bool.false_eq_true, if_false])]
  simp only [State.wrote, reg, inst, length, closes]

theorem Reaches.write_seaCtl {v : Word} (h : Reaches s m (rSeaCtl u.val) a) (free : s.rb (rSeaStat u.val) fSeaStatHeld = false) :
    s.write m (rSeaCtl u.val) v =
      (s.storeReg (s.auth m).src a v (BitVec.allOnes 64) false).seaCtlPost u.val (s.reg (rSeaCtl u.val)) := by
  have l := located_seaCtl u
  obtain ⟨reg, inst, -⟩ := h.at l
  rw [Reaches.stores_located h l (by decide) _
    (by simp only [State.writeAlone, reg, inst, free, Bool.false_eq_true, if_false])]
  simp only [State.wrote, reg, inst]

/-! ### The end of a scan -/

theorem State.scanEnd_none (quiet : (s.sea u.val).scan = none) : s.scanEnd u.val = s := by
  simp only [State.scanEnd, quiet]

section
variable {start len : Nat} {after : Bool} (scans : (s.sea u.val).scan = some (start, len, after))
include scans

theorem State.scanEnd_waits (down : s.spanReady start len = false) : s.scanEnd u.val = s := by
  simp only [State.scanEnd, scans, down, Bool.not_false, if_true]

variable {t : State} (up : s.spanReady start len = true)
include up

theorem State.scanEnd_faults (fed : s.scanFeed u.val start len = (t, false)) : s.scanEnd u.val = t := by
  simp only [State.scanEnd, scans, up, fed, Bool.not_true, Bool.not_false, Bool.false_eq_true, if_false, if_true]

theorem State.scanEnd_fed (fed : s.scanFeed u.val start len = (t, true)) : s.scanEnd u.val =
    if after then t.seaCloseNow u.val 0 0
    else ((t.setSea u.val { t.sea u.val with scan := none }).setRf (rSeaStat u.val) fSeaStatScanning 0).setRf
      (rSeaStat u.val) fSeaStatHeld 0 := by
  simp only [State.scanEnd, scans, up, fed, Bool.not_true, Bool.false_eq_true, if_false]

end

end

/-- Settles O51: a held unit answers BUSYFEED; else each register acts by its own rule, and a close is
`State.seaCloseNow_closes`. -/
theorem sealUnitsAreFedAndClosed : Obligations.SealUnitsAreFedAndClosed := by
  unfold Obligations.SealUnitsAreFedAndClosed
  refine ⟨fun s m u i off bs a f h => ⟨SealFeed.held f h, SealFeed.free f h⟩, fun s m u a h => ⟨?_, ?_, ?_⟩,
    fun s m u len after a h => ⟨?_, ?_, ?_⟩, fun s u => ⟨?_, ?_, fun start len after scans up => ⟨?_, fun t fed => ⟨?_, ?_⟩⟩⟩,
    fun s m u v a h => ⟨?_, ?_⟩⟩
  · exact fun held quiet => congrArg Host.Outcome.next (Reaches.write_seaClose_held h held quiet)
  · exact fun start len after scans => congrArg Host.Outcome.next
      ((Reaches.write_seaClose h (.inr (by rw [scans]; exact Option.some_ne_none _))).trans (State.seaCloseReg_scanning scans))
  · exact fun free quiet => ⟨_, congrArg Host.Outcome.next
      ((Reaches.write_seaClose h (.inl free)).trans (State.seaCloseReg_free quiet free)), State.seaCloseNow_closes⟩
  · exact fun held => congrArg Host.Outcome.next (Reaches.write_seal_held h (located_seaScanlen u).1 (by decide) held)
  · rintro free rfl
    exact congrArg Host.Outcome.next ((Reaches.write_scanlen h 0 after free).trans
      ((if_neg (by rw [free]; exact Bool.false_ne_true)).trans (if_pos rfl)))
  · intro free some
    have pos : len.toNat ≠ 0 := fun zero => some (BitVec.eq_of_toNat_eq zero)
    exact congrArg Host.Outcome.next ((Reaches.write_scanlen h len after free).trans
      ((if_neg (by rw [free]; exact Bool.false_ne_true)).trans (if_neg pos)))
  · exact fun quiet => congrArg Host.Outcome.next (State.scanEnd_none quiet)
  · exact fun start len after scans down => congrArg Host.Outcome.next (State.scanEnd_waits scans down)
  · exact fun t fed => congrArg Host.Outcome.next (State.scanEnd_faults scans up fed)
  · exact fun closes => ⟨_, congrArg Host.Outcome.next ((State.scanEnd_fed scans up fed).trans (if_pos closes)),
      State.seaCloseNow_closes⟩
  · exact fun goes => congrArg Host.Outcome.next
      ((State.scanEnd_fed scans up fed).trans (if_neg (by rw [goes]; exact Bool.false_ne_true)))
  · exact fun held => congrArg Host.Outcome.next (Reaches.write_seal_held h (located_seaCtl u) (by decide) held)
  · intro free t p
    have run := congrArg (Host.Outcome.next (φ := Fault) (ρ := Refusal)) (Reaches.write_seaCtl (v := v) h free)
    exact ⟨fun same => run.trans (congrArg _ (if_neg fun other => other same.symm)),
      fun other => run.trans (congrArg _ (if_pos fun same => other same.symm))⟩

end Sys2Proof.Machine

/-! ## Memories and arbiters (R345 to R349, R352, R353, R358, R359, R372, R373, R385) -/

namespace Sys2Proof.Machine

/-! ### HBM temperatures -/

section
variable {s : State} {k : Nat}

theorem State.hbmRead_dark {temp : Nat} {valid : Bool} (h : s.mode < 2 ∨ s.domOn (30 + k) = false) : s.hbmRead k temp valid = s :=
  if_pos (h.imp_right fun off => by rw [off]; rfl)

theorem State.hbmTemp_shows {temp : Nat} (on : s.domOn (30 + k) = true) (cool : toSigned 9 temp ≤ 150)
    (free : ((s.setRf (rHbcTemp k) fHbcTempTemp temp).setRf (rHbcTemp k) fHbcTempValid 1).restrained = false) :
    s.hbmTemp k temp true = temperatureShown s k temp := by
  have within : ¬ (toSigned 9 temp > 150) := not_lt.mpr cool
  unfold State.hbmTemp temperatureShown
  simp only [on, free, within, Bool.not_true, Bool.false_eq_true, Bool.or_self, Bool.toNat_true, Bool.toNat_false, true_and,
    if_false, if_true]

theorem State.hbmRead_on {temp : Nat} (light : 2 ≤ s.mode) (on : s.domOn (30 + k) = true) (cool : toSigned 9 temp ≤ 150)
    (free : ((s.setRf (rHbcTemp k) fHbcTempTemp temp).setRf (rHbcTemp k) fHbcTempValid 1).restrained = false) :
    s.hbmRead k temp true = ((temperatureShown s k temp).sensed (16 + k) temp true).restraint := by
  have lit : ¬ (s.mode < 2 ∨ (!s.domOn (30 + k)) = true) := by
    rw [on]
    rintro (dark | off)
    · omega
    · exact Bool.false_ne_true off
  rw [← State.hbmTemp_shows on cool free]
  exact if_neg lit

/-- Band `l` has been allowed for 100 ms. -/
def State.bandDue (s : State) (k l : Nat) : Bool :=
  match ((s.hb k).below[l]?).join with
  | some t => decide (t + 100000 ≤ s.time)
  | none => false

theorem State.bandDue_iff {l : Nat} : s.bandDue k l = true ↔ ∃ t, ((s.hb k).below[l]?).join = some t ∧ t + 100000 ≤ s.time := by
  unfold State.bandDue
  cases h : ((s.hb k).below[l]?).join with
  | none => simp
  | some t => simp

theorem State.bandReturn_stays (h : s.rb (rHbcTemp k) fHbcTempForced = true ∨ s.domOn (30 + k) = false) : s.bandReturn k = s := by
  refine if_pos ?_
  obtain forced | off := h
  · rw [forced]; rfl
  · rw [off]; exact Bool.or_true _

section
variable (free : s.rb (rHbcTemp k) fHbcTempForced = false) (on : s.domOn (30 + k) = true)
include free on

theorem State.bandReturn_eq : s.bandReturn k =
    (((List.range (s.rf (rHbcTemp k) fHbcTempBand)).find? (s.bandDue k)).map (s.setRf (rHbcTemp k) fHbcTempBand)).getD s := by
  unfold State.bandReturn
  simp only [free, on, Bool.not_true, Bool.or_self, Bool.false_eq_true, if_false]
  show (match (List.range (s.rf (rHbcTemp k) fHbcTempBand)).find? (s.bandDue k) with
    | some l => s.setRf (rHbcTemp k) fHbcTempBand l
    | none => s) = _
  cases (List.range (s.rf (rHbcTemp k) fHbcTempBand)).find? (s.bandDue k) <;> rfl

theorem State.bandReturn_first {l : Nat} (below : l < s.rf (rHbcTemp k) fHbcTempBand) (due : s.bandDue k l = true)
    (first : ∀ l', l' < l → s.bandDue k l' = false) : s.bandReturn k = s.setRf (rHbcTemp k) fHbcTempBand l := by
  have found : (List.range (s.rf (rHbcTemp k) fHbcTempBand)).find? (s.bandDue k) = some l :=
    List.find?_range_eq_some.mpr ⟨due, List.mem_range.mpr below, fun j hj => by rw [first j hj]; rfl⟩
  rw [State.bandReturn_eq free on, found]
  rfl

theorem State.bandReturn_none (none : ∀ l, l < s.rf (rHbcTemp k) fHbcTempBand → s.bandDue k l = false) : s.bandReturn k = s := by
  have found : (List.range (s.rf (rHbcTemp k) fHbcTempBand)).find? (s.bandDue k) = .none :=
    List.find?_eq_none.mpr fun l hl => by rw [none l (List.mem_range.mp hl)]; exact Bool.false_ne_true
  rw [State.bandReturn_eq free on, found]
  rfl

end

/-! ### HBM scrub -/

/-- The marked codewords of the granule at `x` are reported. -/
def State.granuleReported (s : State) (x : Nat) : State :=
  (List.range 8).foldl (fun s i => if s.bad (x + 32 * i) = true then s.hbmUe (x + 32 * i) else s) s

theorem State.granuleReported_sound {x : Nat} (sound : ∀ i, i < 8 → s.bad (x + 32 * i) = false) : s.granuleReported x = s := by
  refine List.foldlRecOn (motive := fun t => t = s) _ _ rfl fun t same i hi => ?_
  rw [same]
  exact if_neg (by rw [sound i (List.mem_range.mp hi)]; exact Bool.false_ne_true)

theorem State.hbmScrub_stays {p g : Nat} {found : MemErr} (h : granules ≤ g ∨ s.ready (24 + p / 32) = false) :
    s.hbmScrub p g found = s :=
  if_pos (h.imp_right fun down => by rw [down]; rfl)

/-- What a scrub read of a granule finds besides. -/
def State.granuleFound (s : State) (p g x : Nat) : MemErr → State
  | .none => s
  | .corrected => (s.satRf (rHbcCecnt (p / 32)) fHbcCecntScrub 1).weaken (p / 32) (p, g / 4)
  | .uncorrectable =>
    if s.takeFree.2.bad (x + 32 * (s.takeFree.1.toNat % 8)) then s.takeFree.2
    else (s.takeFree.2.setBad (x + 32 * (s.takeFree.1.toNat % 8)) true).hbmUe (x + 32 * (s.takeFree.1.toNat % 8))

theorem State.hbmScrub_reads {p g : Nat} (inside : g < granules) (up : s.ready (24 + p / 32) = true) (found : MemErr) :
    s.hbmScrub p g found =
      ((scrubCounted s (p / 32)).granuleReported (s.granuleAddr p g)).granuleFound p g (s.granuleAddr p g) found := by
  have goes : ¬ (g ≥ granules ∨ (!s.ready (24 + p / 32)) = true) := by
    rw [up]
    rintro (past | down)
    · omega
    · exact Bool.false_ne_true down
  refine (if_neg goes).trans ?_
  cases found <;> rfl

theorem State.granuleFound_uncorrectable {p g x : Nat} : ∃ i, i < 8 ∧
    (s.bad (x + 32 * i) = true → s.granuleFound p g x .uncorrectable = { s with free := s.free + 1 }) ∧
    (s.bad (x + 32 * i) = false →
      s.granuleFound p g x .uncorrectable = ({ s with free := s.free + 1 }.setBad (x + 32 * i) true).hbmUe (x + 32 * i)) :=
  ⟨s.takeFree.1.toNat % 8, Nat.mod_lt _ (by decide), fun bad => if_pos bad,
    fun sound => if_neg (by rw [show s.takeFree.2.bad (x + 32 * (s.takeFree.1.toNat % 8)) = false from sound]; exact Bool.false_ne_true)⟩

/-! ### Repair and retirement -/

theorem State.softRepair_stays
    (h : s.rb (rHbcPprctl k) fHbcPprctlOnline = false ∨ s.ready (24 + k) = false ∨ (s.hb k).cands = []) : s.softRepair k = s := by
  unfold State.softRepair
  obtain off | down | none := h
  · rw [off]; rfl
  · rw [down, Bool.not_false, Bool.or_true, if_pos rfl]
  · simp only [none, ite_self]

/-- The first candidate is taken for repair. -/
def State.candTaken (s : State) (k : Nat) (r : Nat × Nat) (rest : List (Nat × Nat)) : State :=
  { s.setHb k { s.hb k with cands := rest.filter fun y => y != r } with free := s.free + 1 }

theorem State.softRepair_first {r : Nat × Nat} {rest : List (Nat × Nat)} (online : s.rb (rHbcPprctl k) fHbcPprctlOnline = true)
    (up : s.ready (24 + k) = true) (cands : (s.hb k).cands = r :: rest) :
    s.softRepair k = ((s.candTaken k r rest).setHb k
        { (s.candTaken k r rest).hb k with soft := ((s.candTaken k r rest).hb k).soft ++ [r] }).addRf (rHbcPprstat k) fHbcPprstatSoft 1 ∨
      s.softRepair k = ((s.candTaken k r rest).flt (hbcFlt k 2 0 0)).retireRow k r := by
  have kept : (r :: rest).filter (fun y => y != r) = rest.filter fun y => y != r := List.filter_cons_of_neg (by simp)
  have repairs : s.softRepair k = if Word.bit (Config.freeValue s.free) 0 then
      ((s.candTaken k r rest).setHb k
        { (s.candTaken k r rest).hb k with soft := ((s.candTaken k r rest).hb k).soft ++ [r] }).addRf (rHbcPprstat k) fHbcPprstatSoft 1
      else ((s.candTaken k r rest).flt (hbcFlt k 2 0 0)).retireRow k r := by
    simp only [State.softRepair, online, up, cands, Bool.not_true, Bool.or_self, Bool.false_eq_true, if_false, State.repairRow, kept]
    rfl
  rw [repairs]
  split
  · exact .inl rfl
  · exact .inr rfl

theorem located_hbcRetent : ∀ k : BitVec 2, located (rHbcRetent k.toNat) .hbcRetent k.toNat 0 0 false = true := by decide

theorem Reaches.write_retent {m : Master} {a : RegAt} {k : BitVec 2} {v : Word} (h : Reaches s m (rHbcRetent k.toNat) a) :
    s.write m (rHbcRetent k.toNat) v = s.retentSet k.toNat (wr v fHbcRetentState) (wr v fHbcRetentPage) := by
  have l := located_hbcRetent k
  obtain ⟨reg, inst, -⟩ := h.at l
  exact Reaches.alone_located h l (by decide) (by simp only [State.writeAlone, reg, inst])

section
variable {st page : Nat}

theorem State.retentSet_lists (empty : (s.ret k (s.rf (rHbcRetsel k) fHbcRetselIndex)).1 = 0) (h : st = 1 ∨ st = 2) :
    s.retentSet k st page = s.setRet k (s.rf (rHbcRetsel k) fHbcRetselIndex) (st, page) := by
  unfold State.retentSet
  obtain rfl | rfl := h <;> simp only [empty]

theorem State.retentSet_fences (listed : (s.ret k (s.rf (rHbcRetsel k) fHbcRetselIndex)).1 = 1) :
    s.retentSet k 2 page = s.setRet k (s.rf (rHbcRetsel k) fHbcRetselIndex) (2, (s.ret k (s.rf (rHbcRetsel k) fHbcRetselIndex)).2) := by
  unfold State.retentSet
  simp only [listed]

theorem State.retentSet_empties : s.retentSet k 0 page =
    s.setRet k (s.rf (rHbcRetsel k) fHbcRetselIndex) (0, (s.ret k (s.rf (rHbcRetsel k) fHbcRetselIndex)).2) := by
  unfold State.retentSet
  dsimp only
  split
  · rename_i h; cases h
  · rename_i h; cases h
  · rename_i h; cases h
  · rfl
  · rename_i away; exact absurd rfl (by assumption)

theorem State.retentSet_refuses (h : ((s.ret k (s.rf (rHbcRetsel k) fHbcRetselIndex)).1 = 0 ∧ 3 ≤ st) ∨
    ((s.ret k (s.rf (rHbcRetsel k) fHbcRetselIndex)).1 = 1 ∧ (st = 1 ∨ 3 ≤ st)) ∨
    (2 ≤ (s.ret k (s.rf (rHbcRetsel k) fHbcRetselIndex)).1 ∧ 1 ≤ st)) : s.retentSet k st page = s.locked .hbc k := by
  unfold State.retentSet
  dsimp only
  split
  · omega
  · omega
  · omega
  · omega
  · rfl

end

end

end Sys2Proof.Machine

/-! ## The scratchpad and the arbiters (R349, R358, R359, R372, R373) -/

namespace Sys2Proof.Machine

section
variable {s : State}

/-! ### Scratchpad scrub -/

/-- The scrub of a word stands out (R358). -/
theorem State.scrubDue_iff {word : Nat} : s.scrubDue word = true ↔ ∀ t, Tab.get optDefault s.banks.scrubs word = some t →
    t / (1000 * s.rf rScpScrub fScpScrubPeriod) < s.time / (1000 * s.rf rScpScrub fScpScrubPeriod) := by
  unfold State.scrubDue
  cases Tab.get optDefault s.banks.scrubs word with
  | none => simp
  | some t => simp

/-- The word's scrub of this period is noted. -/
def State.scrubNoted (s : State) (word : Nat) : State :=
  { s with banks := { s.banks with scrubs := Tab.set optDefault s.banks.scrubs word (some s.time) } }

theorem State.scpScrub_stays {word : Nat} {found : MemErr} (h : s.ready 28 = false ∨ s.scrubDue word = false) :
    s.scpScrub word found = s := by
  refine if_pos ?_
  obtain down | done := h
  · rw [down]; rfl
  · rw [done, Bool.not_false, Bool.or_true]

theorem State.scpScrub_reads {word : BitVec 24} {found : MemErr} (up : s.ready 28 = true) (due : s.scrubDue word.toNat = true) :
    s.scpScrub word.toNat found = (s.scrubNoted word.toNat).scrubRead (scpBase + 8 * word.toNat) found := by
  have inside : decide (word.toNat ≥ 2 ^ 24) = false := decide_eq_false (Nat.not_le.mpr word.isLt)
  exact if_neg (by rw [up, due, inside]; exact Bool.false_ne_true)

/-! ### Bank swaps -/

theorem Reaches.write_scpSwap {m : Master} {a : RegAt} (h : Reaches s m rScpSwap a) (bank : BitVec 11) :
    s.write m rScpSwap (BitVec.ofNat 64 (bank.toNat + 2 ^ 16)) =
      if (s.auth m).machine || (s.auth m).manager then s.bankSwap bank.toNat else s.locked .scp 0 := by
  have l : located rScpSwap .scpSwap 0 0 0 true = true := by decide
  obtain ⟨reg, inst, -⟩ := h.at l
  have small := bank.isLt
  have go : wrb (BitVec.ofNat 64 (bank.toNat + 2 ^ 16)) fScpSwapGo = true := by
    unfold wrb
    rw [wr_ofNat _ _ _ (by decide), beq_iff_eq]
    omega
  have number : wr (BitVec.ofNat 64 (bank.toNat + 2 ^ 16)) fScpSwapBank = bank.toNat := by
    rw [wr_ofNat _ _ _ (by decide)]
    omega
  have blk : a.blk = .scp := Reaches.block h (by decide)
  split
  · rename_i may
    rw [Reaches.acts_located h l (by decide) (by decide) _ (by simp only [State.writeAlone, reg, may, if_true])]
    simp only [State.wrote, reg, go, number, if_true]
  · rename_i other
    exact Reaches.alone_located h l (by decide)
      (by simp only [State.writeAlone, reg, inst, blk, other, Bool.false_eq_true, if_false])

section
variable {b : Nat}

theorem State.bankSwap_starts (free : Tab.get optDefault s.banks.copying (b / 512) = none)
    (left : Tab.get natDefault s.banks.used (b / 512) < 16) : s.bankSwap b =
      { s with banks := { s.banks with copying := Tab.set optDefault s.banks.copying (b / 512) (some b) } } := by
  simp only [State.bankSwap, free, ge_iff_le, if_neg (Nat.not_le.mpr left)]

theorem State.bankSwap_exhausted (free : Tab.get optDefault s.banks.copying (b / 512) = none)
    (none : 16 ≤ Tab.get natDefault s.banks.used (b / 512)) : s.bankSwap b =
      let t := s.flt (Flt.plain .scp 0 3)
      if Tab.get flagDefault s.banks.worn b = true then t.flt ⟨.ust, 0, 2, .none, 0, b, 0, false⟩ else t := by
  simp only [State.bankSwap, free, ge_iff_le, if_pos none]

variable {c : Nat} (copies : Tab.get optDefault s.banks.copying (b / 512) = some c)
include copies

theorem State.bankSwap_known (h : c = b ∨ b ∈ s.banks.waiting) : s.bankSwap b = s := by
  have known : c = b ∨ s.banks.waiting.contains b = true := h.imp_right List.contains_iff_mem.mpr
  simp only [State.bankSwap, copies, if_pos known]

theorem State.bankSwap_waits (other : c ≠ b) (fresh : b ∉ s.banks.waiting) :
    s.bankSwap b = { s with banks := { s.banks with waiting := s.banks.waiting ++ [b] } } := by
  have unknown : ¬ (c = b ∨ s.banks.waiting.contains b = true) := by
    rintro (same | waits)
    · exact other same
    · exact fresh (List.contains_iff_mem.mp waits)
  simp only [State.bankSwap, copies, if_neg unknown]

end

/-- Bank `b` of quadrant `q` has moved to the next spare, and its quadrant's swaps no longer wait. -/
def State.bankMoved (s : State) (q b : Nat) : State :=
  { s with banks := { s.banks with
    spared := Tab.set optDefault s.banks.spared b (some (Tab.get natDefault s.banks.used q))
    used := Tab.set natDefault s.banks.used q (Tab.get natDefault s.banks.used q + 1)
    copying := Tab.set optDefault s.banks.copying q none
    waiting := s.banks.waiting.filter fun c => c / 512 != q
    worn := Tab.set flagDefault s.banks.worn b false } }

theorem State.bankSwapDone_idle {q : Nat} (idle : Tab.get optDefault s.banks.copying q = none) : s.bankSwapDone q = s := by
  simp only [State.bankSwapDone, idle]

theorem State.bankSwapDone_moves {q b : Nat} (copies : Tab.get optDefault s.banks.copying q = some b) : s.bankSwapDone q =
    (s.banks.waiting.filter fun c => c / 512 == q).foldl (fun t c => t.bankSwap c) (s.bankMoved q b) := by
  simp only [State.bankSwapDone, copies]
  rfl

theorem State.bankSwapDone_last {q b : Nat} (copies : Tab.get optDefault s.banks.copying q = some b)
    (last : ∀ c ∈ s.banks.waiting, c / 512 ≠ q) : s.bankSwapDone q = s.bankMoved q b := by
  have none : (s.banks.waiting.filter fun c => c / 512 == q) = [] :=
    List.filter_eq_nil_iff.mpr fun c hc same => last c hc (beq_iff_eq.mp same)
  rw [State.bankSwapDone_moves copies, none, List.foldl_nil]

theorem State.bankMoved_waiting {q b : Nat} (last : ∀ c ∈ s.banks.waiting, c / 512 ≠ q) :
    (s.bankMoved q b).banks.waiting = s.banks.waiting :=
  List.filter_eq_self.mpr fun c hc => bne_iff_ne.mpr (last c hc)

theorem State.bankMoved_spared {q b c : Nat} (other : c ≠ b) :
    Tab.get optDefault (s.bankMoved q b).banks.spared c = Tab.get optDefault s.banks.spared c := by
  unfold State.bankMoved
  simp only [Tab.get_set_other other]

theorem State.bankMoved_own {q b : Nat} :
    Tab.get optDefault (s.bankMoved q b).banks.spared b = some (Tab.get natDefault s.banks.used q) ∧
    Tab.get natDefault (s.bankMoved q b).banks.used q = Tab.get natDefault s.banks.used q + 1 ∧
    Tab.get optDefault (s.bankMoved q b).banks.copying q = none ∧ Tab.get flagDefault (s.bankMoved q b).banks.worn b = false := by
  unfold State.bankMoved
  simp only [Tab.get_set_same, and_self]

/-! ### Arbiters -/

section
variable {cls idx req : Nat} {waits : List (Nat × Nat × Nat)} {ce : Option Nat}

theorem State.arbGrant_refused
    (h : isArbiter cls idx = false ∨ isRequester req = false ∨ s.shareKept cls idx req = false ∨
      (isShare req = false ∧ rotation (s.arb cls idx).last
        ((req :: (waits.map fun w => w.1).filter isRequester).filter fun r => !isShare r) ≠ some req)) :
    s.arbGrant cls idx req waits ce = s := by
  refine if_pos ?_
  obtain no | no | no | ⟨plain, other⟩ := h
  · rw [no]; rfl
  · rw [no, Bool.not_false, Bool.or_true, Bool.true_or, Bool.true_or]
  · rw [no, Bool.not_false, Bool.or_true, Bool.true_or]
  · rw [List.filter_map] at other
    have unequal := bne_iff_ne.mpr other
    rw [plain, Bool.false_or]
    exact (congrArg (!isArbiter cls idx || !isRequester req || !s.shareKept cls idx req || ·) unequal).trans (Bool.or_true _)

/-- A grant counts and leaves the arbiter `x` (R372, R373). -/
def State.granted (s : State) (cls idx req : Nat) (x : ArbSt) : State :=
  let u := s.setCnt (arbKey cls idx req) (satAdd (s.cnt (arbKey cls idx req)) 1 (2 ^ 48 - 1))
  (if req < 0x60 then u.satRf (rEngPgrant (req / 6) (req % 6)) fEngPgrantGrants 1 else u).setArb cls idx x

theorem State.copies_setCnt {k v : Nat} : (s.setCnt k v).copies cls idx = s.copies cls idx := rfl

theorem State.copies_grant : (if req < 0x60 then s.satRf (rEngPgrant (req / 6) (req % 6)) fEngPgrantGrants 1 else s).copies cls idx =
    s.copies cls idx := by
  split <;> rfl

section
variable (arbiter : isArbiter cls idx = true) (requester : isRequester req = true) (kept : s.shareKept cls idx req = true)
include arbiter requester kept

/-- A requester alone, of the rotation or of a share, is granted. -/
theorem State.arbGrant_alone (turn : isShare req = true ∨ rotation (s.arb cls idx).last [req] = some req) :
    s.arbGrant cls idx req [] none = s.granted cls idx req
      ⟨if isShare req then (s.arb cls idx).last else some req, [], if req = 0xAB then some 0 else (s.arb cls idx).sinceScrub.map (· + 1),
        if s.copies cls idx && req != 0xAA then (s.arb cls idx).sinceCopy + 1 else 0⟩ := by
  have asks : (isShare req || rotation (s.arb cls idx).last ([req].filter fun r => !isShare r) == some req) = true := by
    cases share : isShare req with
    | true => rfl
    | false =>
      have alone := turn.resolve_left (by rw [share]; exact Bool.false_ne_true)
      rw [List.filter_cons_of_pos (by rw [share]; rfl), List.filter_nil, alone, beq_self_eq_true, Bool.or_true]
  unfold State.arbGrant State.granted
  simp only [arbiter, requester, kept, asks, List.filter_nil, List.map_nil, List.zip_nil_left, List.foldl_nil, Bool.not_true, Bool.or_self,
    Bool.false_eq_true, if_false, State.copies_grant, State.copies_setCnt]

/-- A requester goes on waiting while another one is granted. -/
theorem State.arbGrant_other {r n e : Nat} (plain : isShare req = false) (other : isRequester r = true) (engine : 0x60 ≤ r)
    (own : isShare r = false) (apart : r ≠ req) (turn : rotation (s.arb cls idx).last [req, r] = some req) :
    s.arbGrant cls idx req [(r, n, e)] none =
      (s.arbWait cls idx r n e (((s.arb cls idx).waited r).1 + n) (((s.arb cls idx).waited r).2 + e)).granted cls idx req
        ⟨some req, [(r, ((s.arb cls idx).waited r).1 + n, ((s.arb cls idx).waited r).2 + e)],
          if req = 0xAB then some 0 else (s.arb cls idx).sinceScrub.map (· + 1),
          if s.copies cls idx && req != 0xAA then (s.arb cls idx).sinceCopy + 1 else 0⟩ := by
  have asked : ([req, r].filter fun x => !isShare x) = [req, r] := by simp [plain, own]
  have left : ([(r, ((s.arb cls idx).waited r).1 + n, ((s.arb cls idx).waited r).2 + e)].filter fun w => w.1 != req) =
      [(r, ((s.arb cls idx).waited r).1 + n, ((s.arb cls idx).waited r).2 + e)] :=
    List.filter_cons_of_pos (bne_iff_ne.mpr apart)
  have still : (s.arbWait cls idx r n e (((s.arb cls idx).waited r).1 + n) (((s.arb cls idx).waited r).2 + e)).copies cls idx =
      s.copies cls idx := by
    unfold State.arbWait
    simp only [if_neg (Nat.not_lt.mpr engine)]
    rfl
  have listed : [(r, n, e)].filter (fun w => isRequester w.1) = [(r, n, e)] := List.filter_cons_of_pos other
  unfold State.arbGrant State.granted
  simp only [arbiter, requester, kept, plain, listed, List.map_cons, List.map_nil, asked, turn, beq_self_eq_true, Bool.or_true,
    Bool.not_true, Bool.or_self, Bool.false_eq_true, if_false, List.zip_cons_cons, List.zip_nil_left, List.foldl_cons,
    List.foldl_nil, left, State.copies_grant, State.copies_setCnt, still]

end

theorem State.granted_high {x : ArbSt} (high : 0x60 ≤ req) : s.granted cls idx req x =
    (s.setCnt (arbKey cls idx req) (satAdd (s.cnt (arbKey cls idx req)) 1 (2 ^ 48 - 1))).setArb cls idx x :=
  congrArg (State.setArb · cls idx x) (if_neg (Nat.not_lt.mpr high))

theorem State.granted_port {x : ArbSt} (port : req < 0x60) : s.granted cls idx req x =
    ((s.setCnt (arbKey cls idx req) (satAdd (s.cnt (arbKey cls idx req)) 1 (2 ^ 48 - 1))).satRf
      (rEngPgrant (req / 6) (req % 6)) fEngPgrantGrants 1).setArb cls idx x :=
  congrArg (State.setArb · cls idx x) (if_pos port)

theorem State.arbWait_high {m e tm te : Nat} (high : 0x60 ≤ req) : s.arbWait cls idx req m e tm te =
    let u := s.setCnt (arbKey cls idx req + 1) (satAdd (s.cnt (arbKey cls idx req + 1)) m (2 ^ 48 - 1))
    u.setCnt (arbKey cls idx req + 2) (max (u.cnt (arbKey cls idx req + 2)) (min tm (2 ^ 32 - 1))) :=
  if_neg (Nat.not_lt.mpr high)

theorem isShare_false (plain : isShare req = false) : req ≠ 0xAA ∧ req ≠ 0xAB := by
  simpa [isShare] using plain

end

end

/-! ### The obligation -/

theorem hbm_readings (s : State) (k : BitVec 2) (temp : BitVec 9) (valid : Bool) :
    ((s.mode < 2 ∨ s.domOn (30 + k.toNat) = false) → exec (.hbmTempRead k temp valid) s = .next s) ∧
    (2 ≤ s.mode → s.domOn (30 + k.toNat) = true → toSigned 9 temp.toNat ≤ 150 →
      ((s.setRf (rHbcTemp k.toNat) fHbcTempTemp temp.toNat).setRf (rHbcTemp k.toNat) fHbcTempValid 1).restrained = false →
      ∃ t, exec (.hbmTempRead k temp true) s = .next t ∧
        Restrained ((temperatureShown s k.toNat temp.toNat).sensed (16 + k.toNat) temp.toNat true) t) :=
  ⟨fun dark => congrArg Host.Outcome.next (State.hbmRead_dark dark), fun light on cool free =>
    ⟨_, congrArg Host.Outcome.next (State.hbmRead_on light on cool free), State.restraint_restrained _⟩⟩

/-- Settles O45: a granule is read once for its marked codewords (`State.granuleFound_uncorrectable`), the copy of a bank ends
in `State.bankMoved`, and a grant in `State.granted`. -/
theorem memoriesAreTendedByTheirCommands : Obligations.MemoriesAreTendedByTheirCommands := by
  unfold Obligations.MemoriesAreTendedByTheirCommands
  refine ⟨⟨hbm_readings, fun s k => ?_, fun s pc bank => rfl, fun s pc g => ?_, fun s k => ?_, fun s m k v a h => ?_⟩,
    fun s word => ?_, fun s m bank a h => ?_, fun s q => ?_, fun s cls idx req waits ce => ?_⟩
  · intro n ready
    refine ⟨fun still => congrArg Host.Outcome.next (State.bandReturn_stays still), fun free on => ⟨fun l below due first => ?_, fun none => ?_⟩⟩
    · exact congrArg Host.Outcome.next (State.bandReturn_first free on below (State.bandDue_iff.mpr due)
        fun j hj => Bool.eq_false_iff.mpr fun early => first j hj (State.bandDue_iff.mp early))
    · exact congrArg Host.Outcome.next (State.bandReturn_none free on
        fun j hj => Bool.eq_false_iff.mpr fun early => none j hj (State.bandDue_iff.mp early))
  · intro n x u
    have reads (inside : g.toNat < granules) (up : s.ready (24 + n) = true) (found : MemErr) :=
      congrArg (Host.Outcome.next (φ := Fault) (ρ := Refusal)) (State.hbmScrub_reads inside up found)
    refine ⟨fun found away => congrArg Host.Outcome.next (State.hbmScrub_stays away), fun inside up => ⟨?_, fun sound => ?_⟩⟩
    · obtain ⟨i, hi, marked, fresh⟩ := State.granuleFound_uncorrectable (s := u.granuleReported x) (p := pc.toNat) (g := g.toNat) (x := x)
      exact ⟨reads inside up .none, reads inside up .corrected, i, hi,
        fun bad => (reads inside up .uncorrectable).trans (congrArg _ (marked bad)),
        fun good => (reads inside up .uncorrectable).trans (congrArg _ (fresh good))⟩
    · have same : u.granuleReported x = u := State.granuleReported_sound sound
      have reads' (found : MemErr) : exec (.hbmScrub pc g found) s = .next (u.granuleFound pc.toNat g.toNat x found) :=
        (reads inside up found).trans (congrArg (fun y : State => Host.Outcome.next (y.granuleFound pc.toNat g.toNat x found)) same)
      obtain ⟨i, hi, -, fresh⟩ := State.granuleFound_uncorrectable (s := u) (p := pc.toNat) (g := g.toNat) (x := x)
      exact ⟨reads' .none, reads' .corrected, i, hi, (reads' .uncorrectable).trans (congrArg _ (fresh (sound i hi)))⟩
  · exact ⟨fun still => congrArg Host.Outcome.next (State.softRepair_stays still), fun r rest online up cands =>
      (State.softRepair_first online up cands).imp (congrArg Host.Outcome.next) (congrArg Host.Outcome.next)⟩
  · intro n i st page old
    have run := congrArg (Host.Outcome.next (φ := Fault) (ρ := Refusal)) (Reaches.write_retent (v := v) h)
    refine ⟨fun empty lists => run.trans (congrArg _ (State.retentSet_lists empty lists)), fun listed fences => run.trans (congrArg _ ?_),
      fun empties => run.trans (congrArg _ ?_), fun refused => run.trans (congrArg _ (State.retentSet_refuses refused))⟩
    · rw [show wr v fHbcRetentState = 2 from fences]
      exact State.retentSet_fences listed
    · rw [show wr v fHbcRetentState = 0 from empties]
      exact State.retentSet_empties
  · intro x due u
    have reads (up : s.ready 28 = true) (now : due) (found : MemErr) :=
      congrArg (Host.Outcome.next (φ := Fault) (ρ := Refusal)) (State.scpScrub_reads (found := found) up (State.scrubDue_iff.mpr now))
    refine ⟨fun found still => congrArg Host.Outcome.next (State.scpScrub_stays (still.imp_right fun undue =>
        Bool.eq_false_iff.mpr fun now => undue (State.scrubDue_iff.mp now))),
      fun found up now bad => (reads up now found).trans (congrArg _ (if_pos bad)), fun up now sound => ?_⟩
    have sound' : ¬ u.bad x = true := by rw [show u.bad x = false from sound]; exact Bool.false_ne_true
    exact ⟨(reads up now .none).trans (congrArg _ (if_neg sound')), (reads up now .corrected).trans (congrArg _ (if_neg sound')),
      (reads up now .uncorrectable).trans (congrArg _ (if_neg sound'))⟩
  · intro b q may
    have run := congrArg (Host.Outcome.next (φ := Fault) (ρ := Refusal)) (Reaches.write_scpSwap h bank)
    have may_iff : ((s.auth m).machine || (s.auth m).manager) = true ↔ may := Bool.or_eq_true _ _ ▸ Iff.rfl
    have swaps (own : may) : exec (.scpSwap m bank) s = .next (s.bankSwap b) := run.trans (congrArg _ (if_pos (may_iff.mpr own)))
    exact ⟨fun other => run.trans (congrArg _ (if_neg fun own => other (may_iff.mp own))),
      fun own free left => (swaps own).trans (congrArg _ (State.bankSwap_starts free left)),
      fun own free none => (swaps own).trans (congrArg _ (State.bankSwap_exhausted free none)),
      fun c own copies => ⟨fun known => (swaps own).trans (congrArg _ (State.bankSwap_known copies known)),
        fun other fresh => (swaps own).trans (congrArg _ (State.bankSwap_waits copies other fresh))⟩⟩
  · intro n
    refine ⟨fun idle => congrArg Host.Outcome.next (State.bankSwapDone_idle idle), fun b copies last => ?_,
      fun b copies => congrArg Host.Outcome.next (State.bankSwapDone_moves copies)⟩
    obtain ⟨spared, used, copying, worn⟩ := State.bankMoved_own (s := s) (q := n) (b := b)
    exact ⟨s.bankMoved n b, congrArg Host.Outcome.next (State.bankSwapDone_last copies last), rfl, spared, used, copying, worn,
      State.bankMoved_waiting last, fun c other => State.bankMoved_spared other⟩
  · intro x key asked
    refine ⟨fun refused => congrArg Host.Outcome.next (State.arbGrant_refused ?_), fun arbiter requester kept plain => ?_,
      fun arbiter share kept => congrArg Host.Outcome.next ?_⟩
    · rw [List.map_map]
      exact refused
    · intro scrubs copies
      obtain ⟨notCopy, notScrub⟩ := isShare_false plain
      have scrubs' : (if req.toNat = 0xAB then some 0 else x.sinceScrub.map (· + 1)) = scrubs := if_neg notScrub
      have copies' : (if s.copies cls.toNat idx.toNat && req.toNat != 0xAA then x.sinceCopy + 1 else 0) = copies := by
        rw [bne_iff_ne.mpr notCopy, Bool.and_true]
      refine ⟨fun turn => ?_, fun r n e high other engine own apart turn => ?_⟩
      · intro u
        have alone := State.arbGrant_alone arbiter requester kept (.inr turn)
        rw [plain, if_neg Bool.false_ne_true, scrubs', copies'] at alone
        exact ⟨fun high => congrArg Host.Outcome.next (alone.trans (State.granted_high high)),
          fun port => congrArg Host.Outcome.next (alone.trans (State.granted_port port))⟩
      · intro w long v1 v2 v
        have waits := State.arbGrant_other (n := n) (e := e) arbiter requester kept plain other engine own
          (fun same => apart (BitVec.eq_of_toNat_eq same)) turn
        rw [scrubs', copies', State.granted_high high, State.arbWait_high engine] at waits
        exact congrArg Host.Outcome.next waits
    · have shares : isShare req.toNat = true ∧ isRequester req.toNat = true ∧ 0x60 ≤ req.toNat := by
        rcases share with rfl | rfl <;> decide
      obtain ⟨isShared, requester, high⟩ := shares
      have alone := State.arbGrant_alone arbiter requester kept (.inl isShared)
      rw [isShared, if_pos rfl, State.granted_high high] at alone
      refine alone.trans ?_
      rcases share with rfl | rfl
      · simp
        rfl
      · simp
        rfl

end Sys2Proof.Machine

/-! ## Swaps, wear and self-tests (R157, R595 to R611, R616) -/

namespace Sys2Proof.Machine

/-! ### One swap -/

section
variable {s : State} {kind dur : Nat} {pass : Bool} {prep act : State → Nat → State} {ready : State → Nat → Bool}
  {fin : State → State → Nat → State}

theorem State.swapOne_none (none : s.nextSwap = none) : s.swapOne kind pass dur prep ready act fin = s := by
  simp only [State.swapOne, none]

variable {r : SwapReq} (next : s.nextSwap = some r)
include next

theorem State.swapOne_barred (h : r.kind ≠ kind ∨ (s.swapMode = false ∧ s.begun r = false)) :
    s.swapOne kind pass dur prep ready act fin = s := by
  have barred : r.kind ≠ kind ∨ (!(s.swapMode || s.begun r)) = true := h.imp_right fun ⟨mode, fresh⟩ => by rw [mode, fresh]; rfl
  simp only [State.swapOne, next, if_pos barred]

variable (own : r.kind = kind) (may : s.swapMode = true ∨ s.begun r = true)
include own may

omit next in
theorem State.swap_goes : ¬ (r.kind ≠ kind ∨ (!(s.swapMode || s.begun r)) = true) := by
  rintro (other | barred)
  · exact other own
  · rw [Bool.not_eq_true', Bool.or_eq_false_iff] at barred
    obtain ⟨mode, fresh⟩ := barred
    rw [mode, fresh] at may
    exact may.elim Bool.false_ne_true Bool.false_ne_true

theorem State.swapOne_noPlace (none : s.spares r.index r.phys = []) :
    s.swapOne kind pass dur prep ready act fin = fin s (s.noPlace r) (s.phys r.index).logical := by
  simp only [State.swapOne, next, if_neg (State.swap_goes own may), none]

variable {j : Nat} {rest : List Nat} (spare : s.spares r.index r.phys = j :: rest)
include spare

theorem State.swapOne_waits (busy : ready (prep s (s.phys r.index).logical) (s.phys r.index).logical = false) :
    s.swapOne kind pass dur prep ready act fin = prep s (s.phys r.index).logical := by
  simp only [State.swapOne, next, if_neg (State.swap_goes own may), spare, busy, Bool.not_false, if_true]

variable (done : ready (prep s (s.phys r.index).logical) (s.phys r.index).logical = true)
include done

theorem State.swapOne_passes : s.swapOne kind true dur prep ready act fin =
    fin s (((act (((prep s (s.phys r.index).logical).encorePreempt j).moveRes r.index j) (s.phys r.index).logical).dropSwap
      r.index).swapEnd kind r.index 1 dur) (s.phys r.index).logical := by
  simp only [State.swapOne, next, if_neg (State.swap_goes own may), spare, done, Bool.not_true, Bool.false_eq_true, if_false]

theorem State.swapOne_fails : s.swapOne kind false dur prep ready act fin =
    fin s ((prep s (s.phys r.index).logical).spareFails r j dur) (s.phys r.index).logical := by
  simp only [State.swapOne, next, if_neg (State.swap_goes own may), spare, done, Bool.not_true, Bool.not_false,
    Bool.false_eq_true, if_false, if_true]

end

/-! ### The four kinds -/

/-- What readies the logical resource. -/
def swapPrep : Nat → State → Nat → State
  | 1 => State.parkEngine
  | 2 => State.handOver
  | _ => State.asIs

/-- Is the logical resource ready? -/
def swapCheck : Nat → State → Nat → Bool
  | 1 => fun s e => !s.engBusy e
  | 2 => fun s c => (s.cal c).handsOver
  | _ => fun _ _ => true

/-- What moves besides the placement. -/
def swapAct : Nat → State → Nat → State
  | 1 => fun s e => s.satRf (rEngPlace e) fEngPlaceMigr 1
  | 2 => fun s c => (s.satRf (rCalPlace c) fCalPlaceMigr 1).calMoved c
  | 4 => fun s u => s.satRf (rSeaPlace u) fSeaPlaceMigr 1
  | _ => State.asIs

/-- How the work goes on. -/
def swapFin : Nat → Nat → State → State → Nat → State
  | 1, dur => fun old s e => old.swapLoss (s.resumeEngine e) e dur
  | 2, _ => fun _ s c => s.handedOver c
  | _, _ => State.goesOn

/-- The swap command of each kind. -/
def State.swapRun (s : State) (kind : Nat) (pass : Bool) (dur : Nat) : State :=
  s.swapOne kind pass dur (swapPrep kind) (swapCheck kind) (swapAct kind) (swapFin kind dur)

theorem exec_swapCommand {s : State} {kind : Nat} {pass : Bool} {dur : BitVec 32} (h : kind = 0 ∨ kind = 1 ∨ kind = 2 ∨ kind = 4) :
    exec (swapCommand kind pass dur) s = .next (swapOver (s.swapRun kind pass dur.toNat) kind) := by
  rcases h with rfl | rfl | rfl | rfl <;> rfl

section
variable {s t : State} {kind l : Nat}

theorem State.runFailed_iff {q : Nat} : (s.qBusy q && (s.head q).any fun x => x.run.failed.isSome) = true ↔
    s.qBusy q = true ∧ ∃ x, s.head q = some x ∧ x.run.failed ≠ none := by
  simp only [Bool.and_eq_true, Option.any_eq_true, Option.isSome_iff_ne_none]

theorem State.parkEngine_eq : s.parkEngine l = swapReadied s 1 l := by
  unfold State.parkEngine swapReadied
  simp only [Bool.or_eq_true, State.runFailed_iff]

theorem State.handOver_eq : s.handOver l = swapReadied s 2 l := by
  unfold State.handOver State.flushFrames swapReadied
  simp only [State.cal_setCal_same, Option.isSome_iff_ne_none]

theorem swapPrep_eq (h : kind = 0 ∨ kind = 1 ∨ kind = 2 ∨ kind = 4) : swapPrep kind s l = swapReadied s kind l := by
  rcases h with rfl | rfl | rfl | rfl
  · rfl
  · exact State.parkEngine_eq
  · exact State.handOver_eq
  · rfl

theorem swapCheck_iff (h : kind = 0 ∨ kind = 1 ∨ kind = 2 ∨ kind = 4) : swapCheck kind s l = true ↔ SwapReady s kind l := by
  rcases h with rfl | rfl | rfl | rfl
  · exact iff_of_true rfl trivial
  · simp only [swapCheck, SwapReady, State.engBusy, Bool.not_eq_true', Bool.or_eq_false_iff]
  · exact Iff.rfl
  · exact iff_of_true rfl trivial

theorem swapAct_eq {i j : Nat} (h : kind = 0 ∨ kind = 1 ∨ kind = 2 ∨ kind = 4) :
    swapAct kind ((s.encorePreempt j).moveRes i j) l = swapEffect s kind i j l := by
  rcases h with rfl | rfl | rfl | rfl <;> rfl

theorem State.swapLoss_eq {dur : Nat} : s.swapLoss (t.resumeEngine l) l dur = swapResumed s t 1 l dur := by
  have busy (u : State) : u.engBusy l = true ↔ u.qBusy (2 * l) = true ∨ u.qBusy (2 * l + 1) = true := Bool.or_eq_true _ _ ▸ Iff.rfl
  unfold State.swapLoss swapResumed
  by_cases both : (s.qBusy (2 * l) = true ∨ s.qBusy (2 * l + 1) = true) ∧
      ((t.resumeEngine l).qBusy (2 * l) = true ∨ (t.resumeEngine l).qBusy (2 * l + 1) = true)
  · have both' : (s.engBusy l && (t.resumeEngine l).engBusy l) = true := by
      rw [Bool.and_eq_true, busy, busy]
      exact both
    rw [if_pos both']
    by_cases more : (t.resumeEngine l).rf (rEngTpstat l) fEngTpstatMaxloss <
        min (dur * Config.beatsIn (t.resumeEngine l).time / 10) 65535
    · exact (if_pos more).trans (if_pos ⟨both, more⟩).symm
    · exact (if_neg more).trans (if_neg fun h => more h.2).symm
  · have both' : ¬ (s.engBusy l && (t.resumeEngine l).engBusy l) = true := by
      rw [Bool.and_eq_true, busy, busy]
      exact both
    rw [if_neg both']
    exact (if_neg fun h => both h.1).symm

theorem swapFin_eq {dur : Nat} (h : kind = 0 ∨ kind = 1 ∨ kind = 2 ∨ kind = 4) :
    swapFin kind dur s t l = swapResumed s t kind l dur := by
  rcases h with rfl | rfl | rfl | rfl
  · rfl
  · exact State.swapLoss_eq
  · rfl
  · rfl

end

/-- A swap command by kind: what holds it back, what readies it, and how it ends. -/
theorem swapCommands_take (s : State) (kind : Nat) (dur : BitVec 32) (h : kind = 0 ∨ kind = 1 ∨ kind = 2 ∨ kind = 4) :
    (∀ pass, s.nextSwap = none → exec (swapCommand kind pass dur) s = .next (swapOver s kind)) ∧
    (∀ r pass, s.nextSwap = some r → (r.kind ≠ kind ∨ (s.swapMode = false ∧ s.begun r = false)) →
      exec (swapCommand kind pass dur) s = .next (swapOver s kind)) ∧
    (∀ r, s.nextSwap = some r → r.kind = kind → (s.swapMode = true ∨ s.begun r = true) →
      let l := (s.phys r.index).logical
      (∀ pass, s.spares r.index r.phys = [] →
        exec (swapCommand kind pass dur) s = .next (swapOver (swapResumed s (s.noPlace r) kind l dur.toNat) kind)) ∧
      (∀ j rest, s.spares r.index r.phys = j :: rest →
        let t := swapReadied s kind l
        (∀ pass, ¬ SwapReady t kind l → exec (swapCommand kind pass dur) s = .next (swapOver t kind)) ∧
        (SwapReady t kind l →
          exec (swapCommand kind true dur) s = .next (swapOver (swapResumed s
            (swapReported ((swapEffect t kind r.index j l).dropSwap r.index) kind r.index 1 dur.toNat) kind l dur.toNat) kind) ∧
          exec (swapCommand kind false dur) s =
            .next (swapOver (swapResumed s (t.spareFails r j dur.toNat) kind l dur.toNat) kind)))) := by
  have runs {pass : Bool} {u : State} (run : s.swapRun kind pass dur.toNat = u) :
      exec (swapCommand kind pass dur) s = .next (swapOver u kind) := run ▸ exec_swapCommand h
  refine ⟨fun pass none => runs (State.swapOne_none none), fun r pass next barred => runs (State.swapOne_barred next barred),
    fun r next own may => ⟨fun pass none => runs ((State.swapOne_noPlace next own may none).trans (swapFin_eq h)),
      fun j rest spare => ⟨fun pass busy => runs ?_, fun ready => ⟨runs ?_, runs ?_⟩⟩⟩⟩
  · rw [← swapPrep_eq h] at busy ⊢
    exact State.swapOne_waits next own may spare (Bool.eq_false_iff.mpr fun ready => busy ((swapCheck_iff h).mp ready))
  · rw [← swapPrep_eq h] at ready ⊢
    rw [← swapAct_eq h, ← swapFin_eq h]
    exact State.swapOne_passes next own may spare ((swapCheck_iff h).mpr ready)
  · rw [← swapPrep_eq h] at ready ⊢
    rw [← swapFin_eq h]
    exact State.swapOne_fails next own may spare ((swapCheck_iff h).mpr ready)

end Sys2Proof.Machine

/-! ## Wear, self-tests and UST.SWAP (R157, R595 to R601, R616) -/

namespace Sys2Proof.Machine

/-! ### The beat monitor -/

section
variable {s : State} {i : Nat}

theorem State.beatDue_iff : s.beatDue i = true ↔ ((0x20 ≤ i ∧ i < 0x2A) ∨ (0x800 ≤ i ∧ i < 0x850)) ∧
    s.domOn (resDomain i) = true ∧ (s.phys i).beatAt + 10 ≤ s.time := by
  simp only [State.beatDue, isSect, isCal, Bool.and_eq_true, Bool.or_eq_true, decide_eq_true_eq, and_assoc, or_comm]

theorem State.beatUpdate_early {rate ratio : Nat} (early : s.beatDue i = false) : s.beatUpdate i rate ratio = s :=
  if_pos (by rw [early]; rfl)

/-- The values that a window shows. -/
def State.beatShown (s : State) (i rate ratio : Nat) : State :=
  let b := (s.recOf i).base
  let u := s.setRecOf i { s.recOf i with base := s.baseAfter i ratio }
  u.setPhys i { u.phys i with rate := rate, drift := wrapInt 16 (driftOf b ratio), upd := (u.phys i).upd + 1, beatAt := u.time }

/-- The resource whose wear a window tells, and the mark of a section. -/
def beatOwner (i : Nat) : Nat := if isSect i then (i - 0x800) / 4 else i
def State.beatMarked (s : State) (i : Nat) : State := if isSect i then s.setRecOf i { s.recOf i with worn := true } else s

/-- The quadrant that a rate below 1350 is reported to. -/
def beatQuad (i : Nat) : Option Nat :=
  if isSect i then some (beatOwner i / 5) else if i < 0x28 then some ((i - 0x20) / 2) else none

section
variable {rate ratio : Nat} (due : s.beatDue i = true)
include due

theorem State.beatUpdate_sound (high : 1350 ≤ rate)
    (steady : (s.recOf i).base = 0 ∨ -(s.beatShown i rate ratio).driftLim < driftOf (s.recOf i).base ratio) :
    s.beatUpdate i rate ratio = s.beatShown i rate ratio := by
  have steady' : ¬ ((s.recOf i).base ≠ 0 ∧ driftOf (s.recOf i).base ratio ≤ -(s.beatShown i rate ratio).driftLim) := by
    rintro ⟨based, low⟩
    obtain none | above := steady
    · exact based none
    · omega
  unfold State.beatUpdate
  rw [due, if_neg (by decide)]
  exact (if_neg (Nat.not_lt.mpr high)).trans (if_neg steady')

theorem State.beatUpdate_drifts (high : 1350 ≤ rate) (based : (s.recOf i).base ≠ 0)
    (low : driftOf (s.recOf i).base ratio ≤ -(s.beatShown i rate ratio).driftLim) :
    s.beatUpdate i rate ratio = ((s.beatShown i rate ratio).beatMarked i).wear (beatOwner i) false := by
  unfold State.beatUpdate
  rw [due, if_neg (by decide)]
  exact (if_neg (Nat.not_lt.mpr high)).trans (if_pos ⟨based, low⟩)

/-- A rate below 1350: wear, unless it is the same event still, and the quadrant's report of a fresh one. -/
theorem State.beatUpdate_slow (slow : rate < 1350) : s.beatUpdate i rate ratio =
    if !(!(s.beatShown i rate ratio).worn i) && decide (0 < (s.phys i).upd ∧ (s.phys i).rate < 1350) then s.beatShown i rate ratio
    else match beatQuad i with
      | some q =>
        if !(s.beatShown i rate ratio).worn i then
          (((s.beatShown i rate ratio).beatMarked i).wear (beatOwner i) true).flt (Flt.plain .qad q 1)
        else ((s.beatShown i rate ratio).beatMarked i).wear (beatOwner i) true
      | none => ((s.beatShown i rate ratio).beatMarked i).wear (beatOwner i) true := by
  unfold State.beatUpdate
  rw [due, if_neg (by decide)]
  exact if_pos slow

theorem State.beatUpdate_same (slow : rate < 1350) (worn : (s.beatShown i rate ratio).worn i = true) (known : 0 < (s.phys i).upd)
    (low : (s.phys i).rate < 1350) : s.beatUpdate i rate ratio = s.beatShown i rate ratio :=
  (State.beatUpdate_slow due slow).trans (if_pos (by rw [worn, decide_eq_true ⟨known, low⟩]; rfl))

theorem State.beatUpdate_again (slow : rate < 1350) (worn : (s.beatShown i rate ratio).worn i = true)
    (fresh : (s.phys i).upd = 0 ∨ 1350 ≤ (s.phys i).rate) :
    s.beatUpdate i rate ratio = ((s.beatShown i rate ratio).beatMarked i).wear (beatOwner i) true := by
  have event : decide (0 < (s.phys i).upd ∧ (s.phys i).rate < 1350) = false := decide_eq_false (by omega)
  rw [State.beatUpdate_slow due slow, event, Bool.and_false, if_neg Bool.false_ne_true, worn]
  split <;> rfl

theorem State.beatUpdate_wears (slow : rate < 1350) (sound : (s.beatShown i rate ratio).worn i = false) {q : Nat} (quad : beatQuad i = some q) :
    s.beatUpdate i rate ratio =
      (((s.beatShown i rate ratio).beatMarked i).wear (beatOwner i) true).flt (Flt.plain .qad q 1) := by
  rw [State.beatUpdate_slow due slow, sound, Bool.not_false, Bool.not_true, Bool.false_and, if_neg Bool.false_ne_true, quad]
  rfl

theorem State.beatUpdate_spare (slow : rate < 1350) (sound : (s.beatShown i rate ratio).worn i = false) (quad : beatQuad i = none) :
    s.beatUpdate i rate ratio = ((s.beatShown i rate ratio).beatMarked i).wear (beatOwner i) true := by
  rw [State.beatUpdate_slow due slow, sound, Bool.not_false, Bool.not_true, Bool.false_and, if_neg Bool.false_ne_true, quad]

end

theorem isSect_of_due (due : (0x20 ≤ i ∧ i < 0x2A) ∨ (0x800 ≤ i ∧ i < 0x850)) : isSect i = true ↔ 0x800 ≤ i := by
  simp only [isSect, decide_eq_true_eq]
  omega

theorem State.phys_setRecOf (j k : Nat) (x : Rec) : (s.setRecOf j x).phys k = s.phys k := rfl

/-! ### Self-tests -/

theorem State.selfTest_stays {pass : Bool} (h : s.testable i = false ∨ s.domOn (resDomain i) = false ∨ s.testDue i = false) :
    s.selfTest i pass = s := by
  refine if_pos ?_
  obtain no | no | no := h
  · rw [no]; rfl
  · rw [no, Bool.not_false, Bool.or_true, Bool.true_or]
  · rw [no, Bool.not_false, Bool.or_true]

section
variable (may : s.testable i = true) (on : s.domOn (resDomain i) = true) (due : s.testDue i = true)
include may on due

theorem State.selfTest_passes : s.selfTest i true =
    (s.noteTest i).setPhys i { (s.noteTest i).phys i with tested := (s.noteTest i).time, forward := false, fail := false, wait := false } :=
  if_neg (by rw [may, on, due]; decide)

theorem State.selfTest_fails : s.selfTest i false =
    (((s.noteTest i).setPhys i { (s.noteTest i).phys i with
      tested := (s.noteTest i).time, forward := false, fail := true, wait := false
      tests := satAdd ((s.noteTest i).phys i).tests 1 255 }).flt (ustFlt 6 i)).wear i true :=
  if_neg (by rw [may, on, due]; decide)

end

theorem State.noteTest_eq : s.noteTest i =
    if s.mode = 3 ∧ i ∉ s.cus.tested then { s with cus := { s.cus with tested := i :: s.cus.tested } } else s := by
  unfold State.noteTest
  simp only [Bool.not_eq_true', List.contains_eq_mem, decide_eq_false_iff_not]

theorem State.noteTest_phys : (s.noteTest i).phys i = s.phys i ∧ (s.noteTest i).time = s.time := by
  unfold State.noteTest
  split <;> exact ⟨rfl, rfl⟩

/-! ### The swap queue -/

theorem State.deferred_late {r : SwapReq} (late : r.late = true) (idle : s.qBusy (2 * (s.phys r.index).logical) = false) :
    s.deferred r = false := by
  simp only [State.deferred, late, idle, Bool.not_true, Bool.false_and, Bool.or_self, Bool.and_false]

/-- A planned or mandatory swap of an engine joins the queue. -/
theorem State.queueSwap_engine (fresh : ∀ r ∈ s.ust.queue, r.index ≠ i) (engine : swapKind i = 1) (spare : s.spares i none ≠ [])
    (room : s.ust.queue.length < 16) : s.queueSwap i none false =
      let r : SwapReq := ⟨1, i, none, false, s.time, false⟩
      let u := { s with ust := { s.ust with queue := s.ust.queue ++ [r] } }
      if u.deferred r = true then u.setRf rUstSwapstat fUstSwapstatResult 4 else u := by
  have unknown : (s.ust.queue.any fun r => r.index == i) = false :=
    List.any_eq_false.mpr fun r hr same => fresh r hr (beq_iff_eq.mp same)
  have some : (s.spares i none).isEmpty = false := by
    rw [List.isEmpty_eq_false_iff]
    exact spare
  have short : ¬ s.ust.queue.length ≥ 16 := Nat.not_le.mpr room
  have itself : ¬ (swapKind i = 0 ∧ (s.spares i none).isEmpty = true) := by rw [engine]; omega
  unfold State.queueSwap
  dsimp only
  rw [if_neg itself]
  simp only [unknown, some, short, engine, Bool.false_eq_true, if_false]

/-- The resource that UST.SWAP names (R616). -/
def State.swapNames (s : State) (kind target lane : Nat) : Option Nat :=
  match kind with
  | 0 => if target < 16 ∧ lane < 32 then (s.carrier 0 20 target).bind fun p => s.carrier (ixLane p 0) 34 lane else none
  | 1 => if target < 16 then s.carrier 0 20 target else none
  | 2 => if target < 8 then s.carrier 0x20 10 target else none
  | 3 => if target < 4 then s.carrier 0x30 5 target else none
  | 4 => if target < 6 then s.carrier 0x38 8 target else none
  | _ => none

section
variable {kind target lane phys : Nat}

theorem State.swapCmd_eq : s.swapCmd kind target lane phys = (s.swapNames kind target lane).elim (s.locked .ust 0) fun i =>
    if ((if phys = 0x1F then none else some phys).isSome ∧ (s.spares i (if phys = 0x1F then none else some phys)).isEmpty) ∨
      s.ust.queue.length ≥ 16 then s.locked .ust 0 else s.queueSwap i (if phys = 0x1F then none else some phys) true := by
  show (match s.swapNames kind target lane with
    | none => s.locked .ust 0
    | some i => if _ then s.locked .ust 0 else s.queueSwap i _ true) = _
  cases s.swapNames kind target lane <;> rfl

theorem State.swapCmd_none (none : s.swapNames kind target lane = none) : s.swapCmd kind target lane phys = s.locked .ust 0 := by
  rw [State.swapCmd_eq, none, Option.elim_none]

theorem State.swapCmd_refused {k : Nat} (names : s.swapNames kind target lane = some k)
    (h : ((if phys = 0x1F then none else some phys).isSome = true ∧ s.spares k (if phys = 0x1F then none else some phys) = []) ∨
      16 ≤ s.ust.queue.length) : s.swapCmd kind target lane phys = s.locked .ust 0 := by
  rw [State.swapCmd_eq, names, Option.elim_some]
  simp only [List.isEmpty_iff, ge_iff_le, if_pos h]

theorem State.swapCmd_queues {k : Nat} (names : s.swapNames kind target lane = some k)
    (h : (if phys = 0x1F then none else some phys) = none ∨ s.spares k (if phys = 0x1F then none else some phys) ≠ [])
    (room : s.ust.queue.length < 16) :
    s.swapCmd kind target lane phys = s.queueSwap k (if phys = 0x1F then none else some phys) true := by
  have takes : ¬ (((if phys = 0x1F then none else some phys).isSome = true ∧
      s.spares k (if phys = 0x1F then none else some phys) = []) ∨ 16 ≤ s.ust.queue.length) := by
    rintro (⟨named, none⟩ | full)
    · obtain any | some := h
      · rw [any] at named
        cases named
      · exact some none
    · omega
  rw [State.swapCmd_eq, names, Option.elim_some]
  simp only [List.isEmpty_iff, ge_iff_le, if_neg takes]

end

theorem Reaches.write_ustSwap {m : Master} {a : RegAt} {kind target lane phys : Nat} (h : Reaches s m rUstSwap a) (hk : kind < 8)
    (ht : target < 256) (hl : lane < 32) (hp : phys < 32) :
    s.write m rUstSwap (swapWord kind target lane phys) = (s.swapCmd kind target lane phys).pollCurtain := by
  have l : located rUstSwap .ustSwap 0 0 0 true = true := by decide
  obtain ⟨reg, -⟩ := h.at l
  have go : wrb (swapWord kind target lane phys) fUstSwapGo = true := by
    unfold wrb swapWord
    rw [wr_ofNat _ _ _ (by decide), beq_iff_eq]
    omega
  have kind' : wr (swapWord kind target lane phys) fUstSwapKind = kind := by
    rw [swapWord, wr_ofNat _ _ _ (by decide)]
    omega
  have target' : wr (swapWord kind target lane phys) fUstSwapTarget = target := by
    rw [swapWord, wr_ofNat _ _ _ (by decide)]
    omega
  have lane' : wr (swapWord kind target lane phys) fUstSwapLane = lane := by
    rw [swapWord, wr_ofNat _ _ _ (by decide)]
    omega
  have phys' : wr (swapWord kind target lane phys) fUstSwapPhys = phys := by
    rw [swapWord, wr_ofNat _ _ _ (by decide)]
    omega
  rw [Reaches.acts_located h l (by decide) (by decide) _ (by simp only [State.writeAlone, reg])]
  simp only [State.wrote, reg, go, kind', target', lane', phys', if_true]

/-- The outcome of a swap command that names resource `i`, if any (R601). -/
theorem swapCmd_queued {kind target lane phys : Nat} {i : Option Nat} (names : s.swapNames kind target lane = i) :
    let want := if phys = 0x1F then none else some phys
    (i = none → (s.swapCmd kind target lane phys).pollCurtain = (s.locked .ust 0).pollCurtain) ∧
    (∀ k, i = some k →
      (((want.isSome = true ∧ s.spares k want = []) ∨ 16 ≤ s.ust.queue.length) →
        (s.swapCmd kind target lane phys).pollCurtain = (s.locked .ust 0).pollCurtain) ∧
      ((want = none ∨ s.spares k want ≠ []) → s.ust.queue.length < 16 →
        (s.swapCmd kind target lane phys).pollCurtain = (s.queueSwap k want true).pollCurtain)) :=
  ⟨fun none => congrArg State.pollCurtain (State.swapCmd_none (names.trans none)),
    fun _ some => ⟨fun refused => congrArg State.pollCurtain (State.swapCmd_refused (names.trans some) refused),
      fun may room => congrArg State.pollCurtain (State.swapCmd_queues (names.trans some) may room)⟩⟩

end

/-- Settles O46: a swap by kind is `swapCommands_take`; a window of a beat monitor leaves `State.beatShown` and what its rate and
drift tell. -/
theorem understudiesTakeOver : Obligations.UnderstudiesTakeOver := by
  unfold Obligations.UnderstudiesTakeOver
  refine ⟨swapCommands_take, fun s res rate ratio => ?_, fun s res pass => ?_, fun s => ?_,
    fun s i fresh engine spare room => State.queueSwap_engine fresh engine spare room, fun s m target lane phys a h => ?_⟩
  · intro i due
    refine ⟨fun early => congrArg (fun t : State => Host.Outcome.next t.pollCurtain)
      (State.beatUpdate_early (Bool.eq_false_iff.mpr fun now => early (State.beatDue_iff.mp now))), fun now => ?_⟩
    have due' : s.beatDue i = true := State.beatDue_iff.mpr now
    have sectIff := isSect_of_due now.1
    intro sect b first u0 drift x u owner v
    have shown : s.beatShown i rate.toNat ratio.toNat = u := rfl
    have owner' : beatOwner i = owner := if_congr sectIff rfl rfl
    have marked : u.beatMarked i = v := if_congr sectIff rfl rfl
    have run {t : State} (h : s.beatUpdate i rate.toNat ratio.toNat = t) :
        exec (.beatMonitorUpdate res rate ratio) s = .next t.pollCurtain :=
      congrArg (fun t : State => Host.Outcome.next t.pollCurtain) h
    refine ⟨fun high steady => run (State.beatUpdate_sound due' high steady), fun high based low => run ?_,
      fun slow sound => ⟨fun hs => run ?_, fun hc => run ?_, fun h8 hA => run ?_⟩,
      fun slow worn => ⟨fun fresh => run ?_, fun known low => run (State.beatUpdate_same due' slow worn known low)⟩⟩
    · rw [← owner', ← marked]
      exact State.beatUpdate_drifts due' high based low
    · have quad : beatQuad i = some (owner / 5) := (if_pos (sectIff.mpr hs)).trans (by rw [owner'])
      rw [← marked, ← owner']
      rw [← owner'] at quad
      exact State.beatUpdate_wears due' slow sound quad
    · have quad : beatQuad i = some ((i - 0x20) / 2) := (if_neg fun hs => by have := sectIff.mp hs; omega).trans (if_pos hc)
      rw [← marked, ← owner']
      exact State.beatUpdate_wears due' slow sound quad
    · have quad : beatQuad i = none := (if_neg fun hs => by have := sectIff.mp hs; omega).trans (if_neg (by omega))
      rw [← marked, ← owner']
      exact State.beatUpdate_spare due' slow sound quad
    · rw [← marked, ← owner']
      exact State.beatUpdate_again due' slow worn fresh
  · intro i
    refine ⟨fun still => congrArg (fun t : State => Host.Outcome.next t.pollCurtain) (State.selfTest_stays still), fun may on due => ?_⟩
    intro x r
    have noted : s.noteTest i = r := State.noteTest_eq
    obtain ⟨phys, time⟩ := State.noteTest_phys (s := s) (i := i)
    have passes := State.selfTest_passes may on due
    have fails := State.selfTest_fails may on due
    rw [phys, time, noted] at passes fails
    exact ⟨congrArg (fun t : State => Host.Outcome.next t.pollCurtain) passes,
      congrArg (fun t : State => Host.Outcome.next t.pollCurtain) fails⟩
  · intro t
    refine ⟨rfl, fun r hr expired idle => ?_⟩
    obtain ⟨r0, -, rfl⟩ := List.mem_map.mp hr
    exact State.deferred_late (by rw [show s.expired r0 = true from expired, Bool.or_true]) idle
  · intro n want queued
    have small := target.isLt
    have hl := lane.isLt
    have hp := phys.isLt
    refine ⟨⟨_, congrArg Host.Outcome.next (Reaches.write_ustSwap h (by decide) small hl hp), swapCmd_queued ?_⟩,
      ⟨_, congrArg Host.Outcome.next (Reaches.write_ustSwap h (by decide) small (by decide) hp), swapCmd_queued rfl⟩,
      ⟨_, congrArg Host.Outcome.next (Reaches.write_ustSwap h (by decide) small (by decide) hp), swapCmd_queued rfl⟩,
      ⟨_, congrArg Host.Outcome.next (Reaches.write_ustSwap h (by decide) small (by decide) hp), swapCmd_queued rfl⟩,
      ⟨_, congrArg Host.Outcome.next (Reaches.write_ustSwap h (by decide) small (by decide) hp), swapCmd_queued rfl⟩⟩
    exact if_congr (and_iff_left hl) rfl rfl

end Sys2Proof.Machine

/-! ## Flash events (R501 to R503, R509, R510, R520, R521) -/

namespace Sys2Proof.Machine

/-! ### Colophon pages -/

section
variable {s : State} {w : Nat}

theorem getD_mod_mem {l : List Nat} (some : l ≠ []) (v : Nat) : l.getD (v % l.length) 0 ∈ l := by
  have inside : v % l.length < l.length := Nat.mod_lt _ (List.length_pos_iff.mpr some)
  rw [List.getD_eq_getElem _ _ inside]
  exact List.getElem_mem inside

theorem State.copyTarget_used (t v : Nat) (some : s.usedTargets ≠ []) : s.copyTarget t v ∈ s.usedTargets := by
  unfold State.copyTarget
  dsimp only
  split
  · exact getD_mod_mem some v
  · rename_i other
    exact List.mem_of_mem_filter (getD_mod_mem (fun none => other (List.isEmpty_iff.mpr none)) v)

theorem State.copyTarget_apart {t : Nat} (v : Nat) (other : ∃ k ∈ s.usedTargets, k / 4 ≠ t / 4) : s.copyTarget t v / 4 ≠ t / 4 := by
  obtain ⟨k, used, apart⟩ := other
  have some : s.usedTargets.filter (fun u => u / 4 != t / 4) ≠ [] :=
    List.ne_nil_of_mem (List.mem_filter.mpr ⟨used, bne_iff_ne.mpr apart⟩)
  have some' : ¬ (s.usedTargets.filter fun u => u / 4 != t / 4).isEmpty = true := fun none => some (List.isEmpty_iff.mp none)
  unfold State.copyTarget
  dsimp only
  rw [if_neg some']
  obtain ⟨-, away⟩ := List.mem_filter.mp (getD_mod_mem some v)
  exact bne_iff_ne.mp away

theorem State.startPage_begun (world : w < 2) (cs : List Colophon) (cue : Bool) : PageBegun s w cs cue (s.startPage w cs cue) := by
  refine ⟨s.usedTargets.getD (s.takeFree.1.toNat % s.usedTargets.length) 0, s.takeFree.2.copyTarget _ (s.takeFree.1.toNat / 64),
    fun some => ⟨getD_mod_mem some _, State.copyTarget_used (s := s.takeFree.2) _ _ some⟩,
    fun other => State.copyTarget_apart (s := s.takeFree.2) _ other, ?_⟩
  unfold State.startPage ArcLog.newPage
  rw [if_pos world]
  rfl

theorem State.arcPage_started (world : w < 2) (cue : Bool) : PageStarted s w cue (s.arcPage w cue) where
  nothing h := if_pos h
  starts ready wet none := by
    have goes : ¬ ((s.log w).readyCols = [] ∨ s.arc.dry = true) := by
      rw [wet]
      exact fun h => h.elim ready Bool.false_ne_true
    unfold State.arcPage
    simp only [if_neg goes, none]
    exact State.startPage_begun world _ cue
  follows ready wet r page := by
    have goes : ¬ ((s.log w).readyCols = [] ∨ s.arc.dry = true) := by
      rw [wet]
      exact fun h => h.elim ready Bool.false_ne_true
    unfold State.arcPage
    simp only [if_neg goes, page]
    exact ⟨fun all => if_pos all, fun more => if_neg (Nat.not_le.mpr more)⟩

theorem State.arcCommitPage_committed (world : w < 2) : PageCommitted s w (s.arcCommitPage w) where
  none none := by
    unfold State.arcCommitPage
    simp only [none]
  done r page := by
    intro x u
    unfold State.arcCommitPage
    simp only [page]
    refine ⟨fun last => ?_, fun cue again => ?_⟩
    · simp only [show (s.log w).again = .none from last]
      rfl
    · simp only [show (s.log w).again = some cue from again]
      exact State.arcPage_started world cue

theorem State.arcFull_started (world : w < 2) : FullStarted s w (s.arcFull w) := by
  unfold FullStarted State.arcFull
  refine ⟨fun full => ?_, fun part => if_neg part⟩
  rw [if_pos full]
  exact State.arcPage_started world false

/-- Every record that a page names is programmed. -/
def ArcLog.pageReady (x : ArcLog) (r : PageRun) : Bool :=
  x.recs.all fun q => x.recReady q || !(r.page.cols.any fun c => c.acc == q.acc)

theorem ArcLog.pageReady_iff {x : ArcLog} {r : PageRun} : x.pageReady r = true ↔
    ∀ q ∈ x.recs, (∃ c ∈ r.page.cols, c.acc = q.acc) → x.recReady q = true := by
  unfold ArcLog.pageReady
  rw [List.all_eq_true]
  refine forall₂_congr fun q _ => ?_
  rw [Bool.or_eq_true, Bool.not_eq_true', List.any_eq_false]
  simp only [beq_iff_eq]
  constructor
  · rintro (ready | unnamed) ⟨c, hc, same⟩
    · exact ready
    · exact absurd same (unnamed c hc)
  · intro all
    by_cases named : ∃ c ∈ r.page.cols, c.acc = q.acc
    · exact .inl (all named)
    · exact .inr fun c hc same => named ⟨c, hc, same⟩

theorem State.arcSettle_settled (world : w < 2) : PageSettled s w (s.arcSettle w) where
  waits h := by
    unfold State.arcSettle
    dsimp only
    split
    · rename_i r page
      refine if_neg fun both => ?_
      obtain ⟨passed, ready⟩ := Bool.and_eq_true _ _ ▸ both
      obtain early | ⟨q, hq, unready, named⟩ := h r page
      · rw [early] at passed
        exact Bool.false_ne_true passed
      · rw [ArcLog.pageReady_iff.mp ready q hq named] at unready
        cases unready
    · rfl
  commits r page passed ready := by
    have both : (r.passed && (s.log w).pageReady r) = true := by rw [passed, ArcLog.pageReady_iff.mpr ready]; rfl
    refine ⟨_, State.arcCommitPage_committed world, ?_⟩
    have settles : s.arcSettle w = (s.arcCommitPage w).arcFull w := by
      unfold State.arcSettle
      simp only [page]
      exact if_pos both
    rw [settles]
    exact State.arcFull_started world

/-! ### Folios and blocks -/

theorem State.opFall_raised (before t : State) : before.opFall t = oplowRaised before t := by
  unfold State.opFall oplowRaised
  simp only [List.foldl_cons, List.foldl_nil, Bool.and_eq_true, Bool.not_eq_true']
  rfl

theorem State.growBad_retires (t b : Nat) : s.growBad t b = blockRetired s t b := State.opFall_raised _ _

section
variable {t upTo : Nat} {pass : Bool}

/-- May a folio of log `w` up to position `upTo` end on target `t`? -/
def State.folioMay (s : State) (w t upTo : Nat) : Prop :=
  s.arcUp = true ∧ (s.tgt t).used = true ∧ upTo ≠ 0 ∧ (s.log w).acceptedTo (upTo - s.folioSize) upTo = true

theorem State.folioMay_iff : s.folioMay w t upTo ↔ ¬ ((!s.arcUp || !(s.tgt t).used || decide (upTo = 0) ||
    !(s.log w).acceptedTo (upTo - s.folioSize) upTo) = true) := by
  simp only [State.folioMay, Bool.or_eq_true, Bool.not_eq_true', decide_eq_true_eq, not_or, Bool.not_eq_false, and_assoc, ne_eq]

/-- The folio stands in the map and counts. -/
def State.folioAdded (s : State) (w t b upTo : Nat) : State :=
  let x := s.log w
  let lo := upTo - s.folioSize
  let u := s.setLog w { x with folios := x.folios ++ [⟨lo, upTo, s.arc.seq + 1, t, b, s.time, false⟩] }
  { u with arc := { u.arc with
    seq := s.arc.seq + 1
    prog := s.arc.prog + s.folioSize
    reloc := if upTo ≤ x.covered lo then s.arc.reloc + s.folioSize else s.arc.reloc } }

theorem State.folioDone_stays (h : ¬ s.folioMay w t upTo ∨ s.openBlock w t = none) : s.folioDone w t upTo pass = s := by
  by_cases may : s.folioMay w t upTo
  · have full := h.resolve_left (not_not.mpr may)
    refine (if_neg (State.folioMay_iff.mp may)).trans ?_
    rw [full]
  · exact if_pos (not_not.mp fun no => may (State.folioMay_iff.mpr no))

variable {b : Nat} (may : s.folioMay w t upTo) (block : s.openBlock w t = some b)
include may block

theorem State.folioDone_fails : s.folioDone w t upTo false = blockRetired s t b := by
  refine (if_neg (State.folioMay_iff.mp may)).trans ?_
  rw [block]
  exact State.growBad_retires t b

theorem State.folioDone_passes :
    s.folioDone w t upTo true = ((oplowRaised s (s.folioAdded w t b upTo)).arcSettle w).arcFull w := by
  refine (if_neg (State.folioMay_iff.mp may)).trans ?_
  rw [block, ← State.opFall_raised]
  simp only [decide_eq_true_eq]
  rfl

end

section
variable {t : Nat} {pass : Bool}

/-- Every folio in block `b` of target `t` may be erased, there is one, and the block is not retired. -/
def State.erasable (s : State) (t b : Nat) : Bool :=
  !(s.blk t b).bad && (!(s.inBlock t b).isEmpty && (s.inBlock t b).all fun y => s.folioDead y.1 y.2)

theorem State.erasable_iff {b : Nat} : Erasable s t b ↔ b < (s.tgt t).blocks.length ∧ s.erasable t b = true := by
  simp only [Erasable, State.erasable, Bool.and_eq_true, Bool.not_eq_true', List.isEmpty_eq_false_iff, List.all_eq_true]

theorem State.eraseDone_stays (h : s.arcUp = false ∨ (s.tgt t).used = false ∨ ∀ b, ¬ Erasable s t b) : s.eraseDone t pass = s := by
  by_cases off : (!s.arcUp || !(s.tgt t).used) = true
  · exact if_pos off
  · refine (if_neg off).trans ?_
    rw [Bool.or_eq_true, Bool.not_eq_true', Bool.not_eq_true', not_or] at off
    obtain ⟨up, used⟩ := off
    have none := (h.resolve_left up).resolve_left used
    have found : (List.range (s.tgt t).blocks.length).find? (s.erasable t) = .none :=
      List.find?_eq_none.mpr fun b hb may => none b (State.erasable_iff.mpr ⟨List.mem_range.mp hb, may⟩)
    exact congrArg (fun o : Option Nat => match o with
      | .none => s
      | some b => if !pass then (s.dropBlock t b).growBad t b
        else ((s.dropBlock t b).setBlk t b ⟨false, ((s.dropBlock t b).blk t b).erases + 1, 0⟩).levelWear t) found

theorem State.eraseDone_first {b : Nat} (up : s.arcUp = true) (used : (s.tgt t).used = true) (may : Erasable s t b)
    (first : ∀ c, c < b → ¬ Erasable s t c) : s.eraseDone t pass =
      if !pass then (s.dropBlock t b).growBad t b
      else ((s.dropBlock t b).setBlk t b ⟨false, ((s.dropBlock t b).blk t b).erases + 1, 0⟩).levelWear t := by
  obtain ⟨inside, dead⟩ := State.erasable_iff.mp may
  have found : (List.range (s.tgt t).blocks.length).find? (s.erasable t) = some b :=
    List.find?_range_eq_some.mpr ⟨dead, List.mem_range.mpr inside, fun c hc => Bool.not_eq_true' _ ▸
      Bool.eq_false_iff.mpr fun early => first c hc (State.erasable_iff.mpr ⟨hc.trans inside, early⟩)⟩
  refine (if_neg (by rw [up, used]; exact Bool.false_ne_true)).trans ?_
  exact congrArg (fun o : Option Nat => match o with
    | .none => s
    | some b => if !pass then (s.dropBlock t b).growBad t b
      else ((s.dropBlock t b).setBlk t b ⟨false, ((s.dropBlock t b).blk t b).erases + 1, 0⟩).levelWear t) found

end

end

end Sys2Proof.Machine

/-! ## Reads, age, timers and checkpoints of the archive (R501 to R503, R509, R510, R520) -/

namespace Sys2Proof.Machine

section
variable {s : State} {w t pos : Nat}

/-! ### Codeword reads -/

/-- What the read of a codeword leaves in its log: the result, and the mark of a folio that it has to climb far for. -/
def ArcLog.seen (x : ArcLog) (pos k : Nat) : ArcLog := { x with reads := Tab.set natDefault x.reads (pos / 4096) k }
def ArcLog.folioMarked (x : ArcLog) (f : Folio) : ArcLog :=
  { x with folios := x.folios.map fun g => if g.seq = f.seq then { g with marked := true } else g }

theorem ArcLog.mark_seq (x : ArcLog) (f : Folio) : x.mark (fun g => g.seq == f.seq) = x.folioMarked f := by
  unfold ArcLog.mark ArcLog.folioMarked
  simp only [beq_iff_eq]

theorem State.nandRead_stays {stage : NandStage}
    (h : s.arcUp = false ∨ (s.tgt t).used = false ∨ ∀ f, ¬ ((s.log w).mapped pos = some f ∧ f.tgt = t)) :
    s.nandRead w t pos stage = s := by
  unfold State.nandRead
  dsimp only
  split
  · rfl
  · rename_i f mapped
    refine if_pos ?_
    obtain down | unused | away := h
    · rw [down]; rfl
    · rw [unused, Bool.not_false, Bool.or_true, Bool.true_or]
    · rw [bne_iff_ne.mpr fun same => away f ⟨mapped, same⟩, Bool.or_true]

section
variable {f : Folio} (up : s.arcUp = true) (used : (s.tgt t).used = true) (mapped : (s.log w).mapped pos = some f) (here : f.tgt = t)
include up used mapped here

omit mapped in
theorem State.nandRead_goes : ¬ (!s.arcUp || !(s.tgt t).used || f.tgt != t) = true := by
  rw [up, used, here, bne_self_eq_false]
  exact Bool.false_ne_true

theorem State.nandRead_hard : s.nandRead w t pos .hard = (s.setLog w ((s.log w).seen pos 1)).countRead t f.blk := by
  simp only [State.nandRead, mapped, if_neg (State.nandRead_goes up used here), Bool.false_eq_true, if_false]
  rfl

theorem State.nandRead_retry : s.nandRead w t pos (.retry false) =
    ((s.setLog w ((s.log w).seen pos 1)).countRead t f.blk).satRf rArcRetry fArcRetryHard 1 := by
  simp only [State.nandRead, mapped, if_neg (State.nandRead_goes up used here), Bool.false_eq_true, if_false]
  rfl

theorem State.nandRead_retryFar : s.nandRead w t pos (.retry true) =
    ((s.setLog w (((s.log w).seen pos 1).folioMarked f)).countRead t f.blk).satRf rArcRetry fArcRetryHard 1 := by
  simp only [State.nandRead, mapped, if_neg (State.nandRead_goes up used here), if_true, ArcLog.mark_seq]
  rfl

theorem State.nandRead_soft : s.nandRead w t pos .soft =
    ((s.setLog w (((s.log w).seen pos 1).folioMarked f)).countRead t f.blk).satRf rArcRetry fArcRetrySoft 1 := by
  simp only [State.nandRead, mapped, if_neg (State.nandRead_goes up used here), if_true, ArcLog.mark_seq]
  rfl

theorem State.nandRead_uncorrectable : s.nandRead w t pos .uncorrectable =
    (((s.setLog w ((s.log w).seen pos 2)).countRead t f.blk).satRf rArcRetry fArcRetryUncorr 1).raise
      ⟨.arc, 0, 1, some (worldOf w), 0, t, pos % 2 ^ 48, false⟩ := by
  simp only [State.nandRead, mapped, if_neg (State.nandRead_goes up used here), Bool.false_eq_true, if_false]
  rfl

end

/-! ### Age -/

theorem State.oldFolio_iff {age : Nat} {f : Folio} :
    s.oldFolio w t pos age = some f ↔ (s.log w).mapped pos = some f ∧ f.tgt = t ∧ f.time + age ≤ s.time := by
  simp only [State.oldFolio, Option.filter_eq_some_iff, Bool.and_eq_true, beq_iff_eq, decide_eq_true_eq]

theorem State.folioAge_marks {f : Folio} (up : s.arcUp = true) (used : (s.tgt t).used = true)
    (old : s.oldFolio w t pos s.retAge = some f) : s.folioAge w t pos = s.setLog w ((s.log w).folioMarked f) := by
  have goes : (s.arcUp && (s.tgt t).used) = true := by rw [up, used]; rfl
  simp only [State.folioAge, old, if_pos goes, ArcLog.mark_seq]

theorem State.folioAge_stays (h : ∀ f, ¬ (s.arcUp = true ∧ (s.tgt t).used = true ∧ s.oldFolio w t pos s.retAge = some f)) :
    s.folioAge w t pos = s := by
  unfold State.folioAge
  split
  · rename_i f old
    refine if_neg fun goes => ?_
    obtain ⟨up, used⟩ := Bool.and_eq_true _ _ ▸ goes
    exact h f ⟨up, used, old⟩
  · rfl

theorem State.retentionLate_reports {f : Folio} (on : s.domOn 43 = true) (marked : f.marked = true)
    (old : s.oldFolio w t pos s.retLate = some f) : s.retentionLate w t pos = s.flt (arcFlt 9 t) := by
  have goes : (s.domOn 43 && f.marked) = true := by rw [on, marked]; rfl
  simp only [State.retentionLate, old, if_pos goes]

theorem State.retentionLate_stays (h : ∀ f, ¬ (s.domOn 43 = true ∧ f.marked = true ∧ s.oldFolio w t pos s.retLate = some f)) :
    s.retentionLate w t pos = s := by
  unfold State.retentionLate
  split
  · rename_i f old
    refine if_neg fun goes => ?_
    obtain ⟨on, marked⟩ := Bool.and_eq_true _ _ ▸ goes
    exact h f ⟨on, marked, old⟩
  · rfl

/-! ### Timers -/

theorem State.colophonTimer_stays (h : s.arcUp = false ∨ s.time < s.arc.colAt + s.rf rArcCtl fArcCtlCommitint) :
    s.colophonTimer = s := by
  refine if_neg fun goes => ?_
  rw [Bool.and_eq_true, decide_eq_true_eq] at goes
  obtain ⟨up, due⟩ := goes
  obtain down | early := h
  · rw [down] at up
    cases up
  · omega

theorem State.colophonTimer_due (up : s.arcUp = true) (due : s.arc.colAt + s.rf rArcCtl fArcCtlCommitint ≤ s.time) :
    s.colophonTimer = (State.arcPage { s with arc := { s.arc with colAt := s.time } } 0).arcPage 1 :=
  if_pos (by rw [up, decide_eq_true due]; rfl)

theorem State.mapCheckpoint_stays (h : s.arcUp = false ∨ s.time < s.arc.mapAt + 1000000) : s.mapCheckpoint = s := by
  refine if_pos ?_
  obtain down | early := h
  · rw [down]; rfl
  · rw [decide_eq_true early, Bool.or_true]

theorem State.mapCheckpoint_due (up : s.arcUp = true) (due : s.arc.mapAt + 1000000 ≤ s.time) : s.mapCheckpoint =
    let u := (s.setRf rArcThru fArcThruMbps (s.arc.prog / 1000000)).setRf rArcThru fArcThruReloc
      (if s.arc.prog = 0 then 0 else s.arc.reloc * 1000 / s.arc.prog)
    State.dropRetired { u with arc := { u.arc with prog := 0, reloc := 0, mapAt := s.time, ckSeq := s.arc.seq } } :=
  if_neg (by rw [up, decide_eq_false (Nat.not_lt.mpr due)]; exact Bool.false_ne_true)

/-! ### The end of a colophon page -/

theorem State.colophonDone_none {pass : Bool} (none : (s.log w).page = none) : s.colophonDone w pass = s := by
  simp only [State.colophonDone, none]

theorem State.colophonDone_down {pass : Bool} (down : s.arcUp = false) : s.colophonDone w pass = s := by
  unfold State.colophonDone
  dsimp only
  split
  · rfl
  · exact if_pos (by rw [down]; rfl)

section
variable {r : PageRun} (up : s.arcUp = true) (page : (s.log w).page = some r)
include up page

theorem State.colophonDone_passes : s.colophonDone w true =
    (s.setLog w { s.log w with page := some { r with half := true, passed := true } }).arcSettle w := by
  simp only [State.colophonDone, page, up, Bool.not_true, Bool.false_eq_true, if_false, if_true]

/-- The copy that has failed is programmed again, on another target than the good one's where there is one of another channel. -/
theorem State.colophonDone_fails : ∃ good bad b t2, ((good = r.t1 ∧ bad = r.t2) ∨ (r.half = false ∧ good = r.t2 ∧ bad = r.t1)) ∧
    let v := blockRetired { s with free := s.free + 1 } bad b
    ((∃ k ∈ v.usedTargets, k / 4 ≠ good / 4) → t2 / 4 ≠ good / 4) ∧
    s.colophonDone w false = v.setLog w { v.log w with page := some { r with t1 := good, t2 := t2, half := true } } := by
  have fails (good bad : Nat) (which : (if (!r.half && s.takeFree.1.bit 0) = true then (r.t2, r.t1) else (r.t1, r.t2)) = (good, bad)) :
      let v := blockRetired { s with free := s.free + 1 } bad (s.takeFree.2.pageBlock bad (s.takeFree.1.toNat / 2 % 65536))
      s.colophonDone w false = v.setLog w { v.log w with
        page := some { r with t1 := good, t2 := v.copyTarget good (s.takeFree.1.toNat / 131072), half := true } } := by
    intro v
    have block : s.takeFree.2.growBad bad (s.takeFree.2.pageBlock bad (s.takeFree.1.toNat / 2 % 65536)) = v := State.growBad_retires _ _
    rw [← block]
    simp only [State.colophonDone, page, up, Bool.not_true, Bool.false_eq_true, if_false, which]
  by_cases swap : (!r.half && s.takeFree.1.bit 0) = true
  · have half : r.half = false := by
      rw [Bool.and_eq_true, Bool.not_eq_true'] at swap
      exact swap.1
    exact ⟨r.t2, r.t1, _, _, .inr ⟨half, rfl, rfl⟩, State.copyTarget_apart _, fails r.t2 r.t1 (if_pos swap)⟩
  · exact ⟨r.t1, r.t2, _, _, .inl ⟨rfl, rfl⟩, State.copyTarget_apart _, fails r.t1 r.t2 (if_neg swap)⟩

end

end

theorem worldOf_idx (w : World) : worldOf w.idx = w := by cases w <;> rfl
theorem idx_lt_two (w : World) : w.idx < 2 := by cases w <;> decide

/-- Settles O47: pages of colophons follow `State.arcPage_started` and `State.arcSettle_settled`, blocks `State.growBad_retires`. -/
theorem archiveMediaEventsTakeEffect : Obligations.ArchiveMediaEventsTakeEffect := by
  unfold Obligations.ArchiveMediaEventsTakeEffect
  refine ⟨fun s w target upTo => ⟨fun pass stays => congrArg Host.Outcome.next (State.folioDone_stays stays), fun b may block => ⟨?_, ?_⟩⟩,
    fun s target => ⟨fun pass stays => congrArg Host.Outcome.next (State.eraseDone_stays stays), fun b up used may first => ⟨?_, ?_⟩⟩,
    fun s w target pos => ?_, fun s w => ⟨fun down => ⟨?_, ?_, fun pass => ?_⟩, fun up => ⟨fun due => ?_, fun early => ?_, fun early => ?_,
      fun due => ?_, fun none pass => ?_, fun r page => ⟨?_, ?_⟩⟩⟩⟩
  · exact congrArg Host.Outcome.next (State.folioDone_fails may block)
  · exact ⟨_, _, State.arcSettle_settled (idx_lt_two w), State.arcFull_started (idx_lt_two w),
      congrArg Host.Outcome.next (State.folioDone_passes may block)⟩
  · exact congrArg Host.Outcome.next ((State.eraseDone_first up used may first).trans (State.growBad_retires _ _))
  · exact congrArg Host.Outcome.next (State.eraseDone_first up used may first)
  · intro t x on marked
    refine ⟨fun stage stays => congrArg Host.Outcome.next (State.nandRead_stays stays), fun f up used here => ?_, ?_, ?_⟩
    · obtain ⟨mapped, here⟩ := here
      have uncorrectable := State.nandRead_uncorrectable up used mapped here
      rw [worldOf_idx] at uncorrectable
      exact ⟨congrArg Host.Outcome.next (State.nandRead_hard up used mapped here),
        congrArg Host.Outcome.next (State.nandRead_retry up used mapped here),
        congrArg Host.Outcome.next (State.nandRead_retryFar up used mapped here),
        congrArg Host.Outcome.next (State.nandRead_soft up used mapped here), congrArg Host.Outcome.next uncorrectable⟩
    · intro ages
      refine ⟨fun never => congrArg Host.Outcome.next (State.folioAge_stays fun f h => never f ?_), fun f aged => ?_⟩
      · obtain ⟨up, used, old⟩ := h
        obtain ⟨mapped, here, age⟩ := State.oldFolio_iff.mp old
        exact ⟨up, used, ⟨mapped, here⟩, age⟩
      · obtain ⟨up, used, ⟨mapped, here⟩, age⟩ := aged
        exact congrArg Host.Outcome.next (State.folioAge_marks up used (State.oldFolio_iff.mpr ⟨mapped, here, age⟩))
    · intro late
      refine ⟨fun f lateNow => ?_, fun never => congrArg Host.Outcome.next (State.retentionLate_stays fun f h => never f ?_)⟩
      · obtain ⟨power, ⟨mapped, here⟩, mark, age⟩ := lateNow
        exact congrArg Host.Outcome.next (State.retentionLate_reports power mark (State.oldFolio_iff.mpr ⟨mapped, here, age⟩))
      · obtain ⟨power, mark, old⟩ := h
        obtain ⟨mapped, here, age⟩ := State.oldFolio_iff.mp old
        exact ⟨power, ⟨mapped, here⟩, mark, age⟩
  · exact congrArg Host.Outcome.next (State.colophonTimer_stays (.inl down))
  · exact congrArg Host.Outcome.next (State.mapCheckpoint_stays (.inl down))
  · exact congrArg Host.Outcome.next (State.colophonDone_down down)
  · exact ⟨_, _, State.arcPage_started (by decide) false, State.arcPage_started (by decide) false,
      congrArg Host.Outcome.next (State.colophonTimer_due up due)⟩
  · exact congrArg Host.Outcome.next (State.colophonTimer_stays (.inr early))
  · exact congrArg Host.Outcome.next (State.mapCheckpoint_stays (.inr early))
  · exact congrArg Host.Outcome.next (State.mapCheckpoint_due up due)
  · exact congrArg Host.Outcome.next (State.colophonDone_none none)
  · exact ⟨_, State.arcSettle_settled (idx_lt_two w), congrArg Host.Outcome.next (State.colophonDone_passes up page)⟩
  · obtain ⟨good, bad, b, t2, which, apart, fails⟩ := State.colophonDone_fails up page
    exact ⟨good, bad, b, t2, which, apart, congrArg Host.Outcome.next fails⟩

end Sys2Proof.Machine

/-! ## Records, release, audit and boot store (R511, R518, R522, R523, R530) -/

namespace Sys2Proof.Machine

section
variable {s : State} {q : Nat}

/-! ### Record open and the limit of a wait -/

@[simp] theorem ArcLog.write_recs (x : ArcLog) (p : Nat) (bs : List Byte) : (x.write p bs).recs = x.recs := rfl
@[simp] theorem ArcLog.write_nextAcc (x : ArcLog) (p : Nat) (bs : List Byte) : (x.write p bs).nextAcc = x.nextAcc := rfl
@[simp] theorem ArcLog.write_nextPos (x : ArcLog) (p : Nat) (bs : List Byte) : (x.write p bs).nextPos = x.nextPos := rfl

@[simp] theorem State.arcOpen_time (s : State) (w n tag eng : Nat) : (s.arcOpen w n tag eng).time = s.time := by
  unfold State.arcOpen State.openRec
  dsimp only
  unfold State.setLog
  dsimp only

theorem State.recordOpen_empty (none : s.head q = none) : s.recordOpen q = s := by
  simp only [State.recordOpen, none]

theorem State.arcWaitLimit_empty (none : s.head q = none) : s.arcWaitLimit q = s := by
  simp only [State.arcWaitLimit, none]

section
variable {x : Entry} (head : s.head q = some x)
include head

theorem State.recordOpen_other (h : x.ord.op ≠ .arcappend ∨ x.run.phase ≠ .running ∨ x.run.arcRec ≠ none) : s.recordOpen q = s := by
  have other : x.ord.op ≠ .arcappend ∨ x.run.phase ≠ .running ∨ x.run.arcRec.isSome = true :=
    h.imp_right fun h => h.imp_right Option.isSome_iff_ne_none.mpr
  simp only [State.recordOpen, head, if_pos other]

theorem State.arcWaitLimit_late (waits : x.archiveWaits = true) (fresh : x.run.waited = false)
    (late : x.run.since + s.rf rArcWaitlim fArcWaitlimLimit < s.time) :
    s.arcWaitLimit q = (s.setHead q (x.setRun { x.run with waited := true })).flt (arcFlt 6 x.tag) := by
  have due : (x.archiveWaits && !x.run.waited && decide (x.run.since + s.rf rArcWaitlim fArcWaitlimLimit < s.time)) = true := by
    rw [waits, fresh, decide_eq_true late]; rfl
  simp only [State.arcWaitLimit, head, if_pos due]

theorem State.arcWaitLimit_early (h : ¬ (x.archiveWaits = true ∧ x.run.waited = false ∧
    x.run.since + s.rf rArcWaitlim fArcWaitlimLimit < s.time)) : s.arcWaitLimit q = s := by
  have early : ¬ (x.archiveWaits && !x.run.waited && decide (x.run.since + s.rf rArcWaitlim fArcWaitlimLimit < s.time)) = true := by
    simp only [Bool.and_eq_true, Bool.not_eq_true', decide_eq_true_eq, and_assoc]
    exact h
  simp only [State.arcWaitLimit, head, if_neg early]

section
variable (op : x.ord.op = .arcappend) (runs : x.run.phase = .running) (fresh : x.run.arcRec = none)
include op runs fresh

omit head in
theorem Entry.record_due : ¬ (x.ord.op ≠ .arcappend ∨ x.run.phase ≠ .running ∨ x.run.arcRec.isSome = true) := by
  rw [fresh]
  exact fun h => h.elim (fun o => o op) fun h => h.elim (fun p => p runs) Bool.false_ne_true

theorem State.recordOpen_waits (h : s.ready 30 = false ∨ s.arc.closed = true ∨ 16 ≤ (s.log (q % 2)).recs.length) :
    s.recordOpen q = s := by
  have waits : (!s.ready 30 || s.arc.closed || decide (16 ≤ (s.log (q % 2)).recs.length)) = true := by
    obtain down | closed | full := h
    · rw [down]; rfl
    · rw [closed, Bool.or_true, Bool.true_or]
    · rw [decide_eq_true full, Bool.or_true]
  simp only [State.recordOpen, head, if_neg (Entry.record_due op runs fresh), if_pos waits]

variable (up : s.ready 30 = true) (accepts : s.arc.closed = false) (room : (s.log (q % 2)).recs.length < 16)
include up accepts room

omit head op runs fresh in
theorem State.record_takes : ¬ (!s.ready 30 || s.arc.closed || decide (16 ≤ (s.log (q % 2)).recs.length)) = true := by
  rw [up, accepts, decide_eq_false (Nat.not_le.mpr room)]
  exact Bool.false_ne_true

theorem State.recordOpen_full (none : s.arcFree (q % 2) < recLen x.n) (first : x.run.full = false) :
    s.recordOpen q = (s.setHead q (x.setRun { x.run with full := true })).flt (arcFlt 5 (q % 2)) := by
  simp only [State.recordOpen, head, if_neg (Entry.record_due op runs fresh), if_neg (State.record_takes up accepts room), if_pos none,
    first, Bool.false_eq_true, if_false]

theorem State.recordOpen_fullStill (none : s.arcFree (q % 2) < recLen x.n) (known : x.run.full = true) : s.recordOpen q = s := by
  simp only [State.recordOpen, head, if_neg (Entry.record_due op runs fresh), if_neg (State.record_takes up accepts room), if_pos none,
    known, if_true]

theorem State.recordOpen_opens (free : recLen x.n ≤ s.arcFree (q % 2)) : s.recordOpen q =
    (s.arcOpen (q % 2) x.n x.tag (q / 2)).setHead q (x.setRun { x.run with
      arcRec := some (s.log (q % 2)).nextAcc, since := s.time, waited := false }) := by
  simp only [State.recordOpen, head, if_neg (Entry.record_due op runs fresh), if_neg (State.record_takes up accepts room),
    if_neg (Nat.not_lt.mpr free), State.arcOpen_time]

end

end

/-- The record of an order bears its world. -/
theorem State.arcOpen_eq {w n tag eng : Nat} (world : w < 2) : s.arcOpen w n tag eng =
    let y := s.log w
    let h := recHeader w 1 y.nextAcc n s.time s.ptp0 (s.reg rCfgDigest).toNat tag eng
    s.setLog w { y.write y.nextPos h with
      recs := y.recs ++ [⟨y.nextAcc, y.nextPos, n, 0, false, tag⟩]
      nextAcc := y.nextAcc + 1
      nextPos := y.nextPos + recLen n } := by
  unfold State.arcOpen State.openRec
  simp only [if_pos world, ArcLog.write_recs, ArcLog.write_nextAcc, ArcLog.write_nextPos]

end

section
variable {s : State} {m : Master} {a : RegAt}

/-! ### Release -/

theorem located_arcRelease : ∀ w : World, located (rArcRelease w.idx) .arcRelease 0 w.idx 0 false = true := by
  intro w
  cases w <;> decide

theorem Reaches.write_arcRelease {w : World} (h : Reaches s m (rArcRelease w.idx) a) (below : BitVec 47) :
    s.write m (rArcRelease w.idx) (below.zeroExtend 64) = s.arcRelease (s.auth m) w.idx below.toNat := by
  have l := located_arcRelease w
  obtain ⟨reg, -, i, -⟩ := h.at l
  have value (old : Word) : wr ((old &&& ~~~BitVec.allOnes 64) ||| (below.zeroExtend 64 &&& BitVec.allOnes 64)) fArcReleaseBelow =
      below.toNat := by
    rw [BitVec.and_allOnes, BitVec.not_allOnes, BitVec.and_zero, BitVec.zero_or]
    exact wr_zeroExtend below (by decide)
  exact Reaches.alone_located h l (by decide) (by simp only [State.writeAlone, reg, i, value])

theorem State.arcRelease_refused {au : Auth} {w : World} {below : Nat}
    (h : ¬ (au.machine = true ∨ au.view = .win w true) ∨ below < (s.log w.idx).below) :
    s.arcRelease au w.idx below = s.locked .arc 0 := by
  unfold State.arcRelease
  rw [worldOf_idx]
  by_cases may : au.machine = true ∨ au.view = .win w true
  · have low := h.resolve_left (not_not.mpr may)
    simp only [if_pos low, ite_self]
  · refine if_pos ?_
    rw [not_or, Bool.not_eq_true] at may
    obtain ⟨plain, other⟩ := may
    rw [plain, bne_iff_ne.mpr other]
    rfl

theorem State.arcRelease_moves {au : Auth} {w : World} {below : Nat} (may : au.machine = true ∨ au.view = .win w true)
    (up : (s.log w.idx).below ≤ below) (last : below ≤ s.arcEnd w.idx) :
    s.arcRelease au w.idx below = s.setLog w.idx { s.log w.idx with below := below } := by
  have own : ¬ (!au.machine && au.view != .win w true) = true := by
    obtain machine | view := may
    · rw [machine]; exact Bool.false_ne_true
    · rw [view, bne_self_eq_false, Bool.and_false]; exact Bool.false_ne_true
  unfold State.arcRelease
  rw [worldOf_idx, if_neg own]
  simp only [if_neg (Nat.not_lt.mpr up), Nat.min_eq_left last, Nat.max_eq_right up, if_true]

/-! ### Audit -/

theorem Reaches.write_arcAudit (h : Reaches s m rArcAudit a) (count : BitVec 32) (unit : BitVec 3) :
    s.write m rArcAudit (BitVec.ofNat 64 (count.toNat + 2 ^ 32 * unit.toNat + 2 ^ 40)) =
      s.auditReg (s.auth m) (BitVec.ofNat 64 (count.toNat + 2 ^ 32 * unit.toNat + 2 ^ 40)) := by
  have l : located rArcAudit .arcAudit 0 0 0 true = true := by decide
  obtain ⟨reg, -⟩ := h.at l
  rw [Reaches.acts_located h l (by decide) (by decide) _ (by simp only [State.writeAlone, reg])]
  simp only [State.wrote, reg]

theorem auditWord_fields (count : BitVec 32) (unit : BitVec 3) :
    wr (BitVec.ofNat 64 (count.toNat + 2 ^ 32 * unit.toNat + 2 ^ 40)) fArcAuditCount = count.toNat ∧
    wr (BitVec.ofNat 64 (count.toNat + 2 ^ 32 * unit.toNat + 2 ^ 40)) fArcAuditUnit = unit.toNat ∧
    wrb (BitVec.ofNat 64 (count.toNat + 2 ^ 32 * unit.toNat + 2 ^ 40)) fArcAuditGo = true := by
  have hcount := count.isLt
  have hunit := unit.isLt
  simp only [wrb, beq_iff_eq]
  rw [wr_ofNat _ _ _ (by decide), wr_ofNat _ _ _ (by decide), wr_ofNat _ _ _ (by decide)]
  omega

theorem State.auditReg_busy {au : Auth} {w : Word} (busy : s.arc.audit ≠ none) : s.auditReg au w = s.locked .arc 0 :=
  if_pos (Option.isSome_iff_ne_none.mpr busy)

theorem State.auditReg_starts {au : Auth} {count : BitVec 32} {unit : BitVec 3} (free : s.arc.audit = none) (inside : unit.toNat < 6) :
    s.auditReg au (BitVec.ofNat 64 (count.toNat + 2 ^ 32 * unit.toNat + 2 ^ 40)) = s.auditStart count.toNat unit.toNat := by
  obtain ⟨hcount, hunit, go⟩ := auditWord_fields count unit
  refine (if_neg (by rw [free]; exact Bool.false_ne_true)).trans ?_
  simp only [hcount, hunit, go, if_true, if_neg (show ¬ 5 < unit.toNat by omega), Nat.min_eq_left (show unit.toNat ≤ 5 by omega)]

/-- AUDSTAT of an audit that starts. -/
def State.auditShown (s : State) : State :=
  ((s.setRf rArcAudstat fArcAudstatDone 0).setRf rArcAudstat fArcAudstatBad 0).setRf rArcAudstat fArcAudstatBusy 1

theorem State.auditStart_eq {count unit : Nat} (free : s.arc.audit = none) : s.auditStart count unit =
    State.auditHold { s.auditShown with arc := { s.auditShown.arc with audit := some (count, unit, false) } } :=
  if_neg (by rw [free]; exact Bool.false_ne_true)

section
variable {count unit : Nat}

theorem State.auditHold_waits (waits : s.arc.audit = some (count, unit, false)) (taken : s.seaFree unit = false) : s.auditHold = s := by
  simp only [State.auditHold, waits, taken, Bool.false_eq_true, if_false]

theorem State.auditHold_holds (waits : s.arc.audit = some (count, unit, false)) (free : s.seaFree unit = true) :
    s.auditHold = { s.seaHold unit 32 2 0 with arc := { s.arc with audit := some (count, unit, true) } } := by
  simp only [State.auditHold, waits, free, if_true]

theorem State.seaFree_withArc (x : ArcSt) : State.seaFree { s with arc := x } unit = s.seaFree unit := rfl

theorem State.seaHold_withArc (x : ArcSt) (who code tag : Nat) :
    State.seaHold { s with arc := x } unit who code tag = { s.seaHold unit who code tag with arc := x } := rfl

theorem State.auditHold_freshWaits (taken : s.seaFree unit = false) :
    State.auditHold { s with arc := { s.arc with audit := some (count, unit, false) } } =
      { s with arc := { s.arc with audit := some (count, unit, false) } } :=
  State.auditHold_waits rfl ((State.seaFree_withArc _).trans taken)

theorem State.auditHold_freshHolds (free : s.seaFree unit = true) :
    State.auditHold { s with arc := { s.arc with audit := some (count, unit, false) } } =
      { s.seaHold unit 32 2 0 with arc := { s.arc with audit := some (count, unit, true) } } := by
  rw [State.auditHold_holds rfl ((State.seaFree_withArc _).trans free), State.seaHold_withArc]

theorem State.auditHold_held (holds : s.arc.audit = some (count, unit, true)) : s.auditHold = s := by
  simp only [State.auditHold, holds]

end

theorem State.auditHold_none (none : s.arc.audit = none) : s.auditHold = s := by
  simp only [State.auditHold, none]

theorem State.auditEnd_stays (h : s.ready 30 = false ∨ s.arc.dry = true ∨ s.arc.audit = none) : s.auditEnd = s := by
  by_cases off : (!s.ready 30 || s.arc.dry) = true
  · exact if_pos off
  · have none : s.arc.audit = none := by
      rw [Bool.or_eq_true, not_or, Bool.not_eq_true', Bool.not_eq_false] at off
      obtain ⟨up, wet⟩ := off
      obtain down | dry | none := h
      · rw [down] at up
        cases up
      · exact absurd dry wet
      · exact none
    refine (if_neg off).trans ?_
    simp only [State.auditHold_none none, none]

theorem State.auditEnd_waits {n u : Nat} (waits : s.arc.audit = some (n, u, false)) (taken : s.seaFree u = false) : s.auditEnd = s := by
  unfold State.auditEnd
  simp only [State.auditHold_waits waits taken, waits, ite_self]

theorem State.auditEnd_ends {n u : Nat} (up : s.ready 30 = true) (wet : s.arc.dry = false) (holds : s.arc.audit = some (n, u, true)) :
    s.auditEnd =
      let mark := (s.reg rArcAudfrom).toNat
      let v := mark / 2 ^ 47 % 2
      let ok := mark / 2 ^ 48 == crc16.of (leBytes 6 (mark % 2 ^ 48))
      let todo := ((s.log v).cols.filter fun c =>
        ok && !c.void && decide (mark % 2 ^ 47 ≤ c.acc) && !s.arcGone v c.acc (s.log v).below).take n
      let t := ((todo.foldl (fun t c => t.auditOne v u c) s).seaIdle u).setRf rArcAudstat fArcAudstatBusy 0
      { t with arc := { t.arc with audit := none } } := by
  unfold State.auditEnd
  simp only [up, wet, State.auditHold_held holds, holds, Bool.not_true, Bool.or_self, Bool.false_eq_true, if_false]

/-! ### Boot stores -/

theorem Reaches.write_bootctl (h : Reaches s m rArcBootctl a) (length : BitVec 23) (copy : Bool) (short : length.toNat ≤ 0x400000) :
    s.write m rArcBootctl (BitVec.ofNat 64 (length.toNat + 2 ^ 23 * copy.toNat + 2 ^ 24)) = s.bootStore length.toNat copy := by
  have l : located rArcBootctl .arcBootctl 0 0 0 true = true := by decide
  obtain ⟨reg, -⟩ := h.at l
  have hlength := length.isLt
  have hcopy := Bool.toNat_lt copy
  have size : wr (BitVec.ofNat 64 (length.toNat + 2 ^ 23 * copy.toNat + 2 ^ 24)) fArcBootctlLength = length.toNat := by
    rw [wr_ofNat _ _ _ (by decide)]
    omega
  have go : wrb (BitVec.ofNat 64 (length.toNat + 2 ^ 23 * copy.toNat + 2 ^ 24)) fArcBootctlGo = true := by
    rw [wrb, wr_ofNat _ _ _ (by decide), beq_iff_eq]
    omega
  have which : wrb (BitVec.ofNat 64 (length.toNat + 2 ^ 23 * copy.toNat + 2 ^ 24)) fArcBootctlCopy = copy := by
    have : wr (BitVec.ofNat 64 (length.toNat + 2 ^ 23 * copy.toNat + 2 ^ 24)) fArcBootctlCopy = copy.toNat := by
      rw [wr_ofNat _ _ _ (by decide)]
      omega
    rw [wrb, this]
    cases copy <;> rfl
  rw [Reaches.acts_located h l (by decide) (by decide) _ (by simp only [State.writeAlone, reg])]
  simp only [State.wrote, reg, State.bootReg, size, go, which, if_neg (Nat.not_lt.mpr short), Nat.min_eq_left short, if_true]

section
variable {n : Nat} {copy : Bool}

theorem State.bootStore_busy (busy : s.rb rArcBootctl fArcBootctlBusy = true) : s.bootStore n copy = s.locked .arc 0 := if_pos busy

theorem State.bootStore_empty (idle : s.rb rArcBootctl fArcBootctlBusy = false) : s.bootStore 0 copy = s :=
  (if_neg (by rw [idle]; exact Bool.false_ne_true)).trans (if_pos rfl)

variable (idle : s.rb rArcBootctl fArcBootctlBusy = false) (some_ : n ≠ 0)
include idle some_

theorem State.bootStore_closed (closed : s.arc.closed = true) (up : s.ready 30 = true) : s.bootStore n copy = s.locked .arc 0 :=
  (if_neg (by rw [idle]; exact Bool.false_ne_true)).trans ((if_neg some_).trans (if_pos (by rw [closed, up]; rfl)))

theorem State.bootStore_starts (h : s.arc.closed = false ∨ s.ready 30 = false) : s.bootStore n copy =
    { s.setRf rArcBootctl fArcBootctlBusy 1 with
      arc := { s.arc with store := some (s.rf rArcBootsrc fArcBootsrcAddr, n, copy) } } := by
  have takes : ¬ (s.arc.closed && s.ready 30) = true := by
    obtain accepts | down := h
    · rw [accepts]; exact Bool.false_ne_true
    · rw [down, Bool.and_false]; exact Bool.false_ne_true
  exact (if_neg (by rw [idle]; exact Bool.false_ne_true)).trans ((if_neg some_).trans (if_neg takes))

end

end

end Sys2Proof.Machine

/-! ## Boot area, recovery and Flush (R524 to R531) -/

namespace Sys2Proof.Machine

section
variable {s : State}

/-! ### The end of a boot store -/

section
variable {start n : Nat} {copy : Bool} {pass : Bool}

theorem State.bootStoreDone_stays (h : s.arc.store = none ∨ s.arcUp = false) : s.bootStoreDone pass = s := by
  unfold State.bootStoreDone
  split
  · rfl
  · rename_i store
    refine if_pos ?_
    obtain none | down := h
    · rw [store] at none
      cases none
    · rw [down]; rfl

variable (store : s.arc.store = some (start, n, copy))
include store

theorem State.bootStoreDone_waits (down : s.spanReady start n = false) : s.bootStoreDone pass = s := by
  have waits : (!s.arcUp || !s.spanReady start n) = true := by rw [down, Bool.not_false, Bool.or_true]
  simp only [State.bootStoreDone, store, if_pos waits]

variable (up : s.arcUp = true) (ready : s.spanReady start n = true)
include up ready

omit store in
theorem State.bootStore_due : ¬ (!s.arcUp || !s.spanReady start n) = true := by
  rw [up, ready]
  exact Bool.false_ne_true

theorem State.bootStoreDone_fails (h : pass = false ∨ (s.tgt (4 * copy.toNat)).used = false ∨ s.arc.closed = true) :
    s.bootStoreDone pass = s.storeEnd false := by
  have fails : ¬ (pass && !s.arc.closed && (s.tgt (4 * copy.toNat)).used) = true := by
    obtain rfl | unused | closed := h
    · exact Bool.false_ne_true
    · rw [unused, Bool.and_false]; exact Bool.false_ne_true
    · rw [closed, Bool.not_true, Bool.and_false, Bool.false_and]; exact Bool.false_ne_true
  simp only [State.bootStoreDone, store, if_neg (State.bootStore_due up ready), if_neg fails]

variable (used : (s.tgt (4 * copy.toNat)).used = true) (accepts : s.arc.closed = false) {v : State}
include used accepts

theorem State.bootStoreDone_unreadable {f : MErr} (read : s.readMem Paths.plain .free start n = (v, .error f)) :
    s.bootStoreDone true = v.storeEnd false := by
  simp only [State.bootStoreDone, store, if_neg (State.bootStore_due up ready), used, accepts, Bool.not_false, Bool.and_self, if_true,
    read]

theorem State.bootStoreDone_commits {b : Byte} {img : List Byte}
    (read : s.readMem Paths.plain .free start n = (v, .ok (b :: img))) :
    s.bootStoreDone true = (v.bootRecord (2 + copy.toNat) (b :: img)).storeEnd true := by
  simp only [State.bootStoreDone, store, if_neg (State.bootStore_due up ready), used, accepts, Bool.not_false, Bool.and_self, if_true,
    read]

end

/-! ### Recovery -/

theorem State.recoverPage_none {w : Nat} (none : (s.log w).page = none) : s.recoverPage w = s := by
  simp only [State.recoverPage, none]

theorem State.recoverPage_run {w : Nat} {r : PageRun} (page : (s.log w).page = some r) : s.recoverPage w =
    let x := s.log w
    if (r.half || Config.pageHeld w r.page.seq) = true then
      s.setLog w { x with
        pages := x.pages ++ [r.page]
        page := none
        recs := x.recs.filter fun q => !(r.page.cols.any fun c => c.acc == q.acc)
        voids := x.voids + (r.page.cols.filter fun c => c.void).length }
    else s.setLog w { x with page := none } := by
  simp only [State.recoverPage, page]

theorem State.arcCut_recovers (s : State) (w : Nat) : s.arcCut w = logRecovered s w := by
  unfold State.arcCut logRecovered
  dsimp only
  cases page : (s.log w).page with
  | none => rw [State.recoverPage_none page]; rfl
  | some r => rw [State.recoverPage_run page]; rfl

theorem State.inFlush_iff : s.inFlush = true ↔ s.mode = 10 ∨ s.cus.target = some 10 := by
  simp only [State.inFlush, Bool.or_eq_true, beq_iff_eq]

theorem State.arcRecovery_stays
    (h : s.domOn 43 = false ∨ s.arc.trained = false ∨ s.arc.scanned = true ∨ s.ready 30 = true ∨ s.inFlush = true) :
    s.arcRecovery = s := by
  refine if_pos ?_
  simp only [Bool.or_eq_true, Bool.not_eq_true', or_assoc]
  exact h

theorem State.arcRecovery_cuts (on : s.domOn 43 = true) (trained : s.arc.trained = true) (fresh : s.arc.scanned = false)
    (down : s.ready 30 = false) (away : s.inFlush = false) : s.arcRecovery =
      let u := s.setRf rArcRecov fArcRecovDone 0
      let u := ((u.setRf rArcRecov fArcRecovDiscarded 0).setRf rArcRecov fArcRecovVoids 0).setRf rArcRecov fArcRecovOrderly
        s.arc.orderly.toNat
      let u := logRecovered (logRecovered u 0) 1
      { u with arc := { u.arc with scanned := true } } := by
  have goes : ¬ (!s.domOn 43 || !s.arc.trained || s.arc.scanned || s.ready 30 || s.inFlush) = true := by
    rw [on, trained, fresh, down, away]
    exact Bool.false_ne_true
  simp only [State.arcRecovery, if_neg goes, State.arcCut_recovers, State.setRf_arc]

theorem State.arcRecovered_stays {ms : Nat} (h : s.arc.scanned = false ∨ s.domOn 43 = false ∨ s.inFlush = true) :
    s.arcRecovered ms = s := by
  refine if_pos ?_
  simp only [Bool.or_eq_true, Bool.not_eq_true', or_assoc]
  exact h

/-- The archive reports that it is ready. -/
def State.arcReported (s : State) (ms : Nat) : State :=
  ((s.setRf rArcRecov fArcRecovDone 1).setRf rArcRecov fArcRecovMs ms).setRf rCusReady ⟨30, 1⟩ 1

theorem State.arcReported_mode {ms : Nat} : (s.arcReported ms).mode = s.mode := by
  unfold State.arcReported State.mode
  rw [State.rf_setRf_other _ _ (.inl (by decide)), State.rf_setRf_other _ _ (.inl (by decide)),
    State.rf_setRf_other _ _ (.inl (by decide))]

theorem State.arcRecovered_reports {ms : Nat} (scanned : s.arc.scanned = true) (on : s.domOn 43 = true) (away : s.inFlush = false) :
    s.arcRecovered ms = State.fire { s.arcReported ms with arc := { (s.arcReported ms).arc with
      scanned := false
      closed := decide (s.mode = 9 ∨ s.cus.target = some 9)
      dry := false
      orderly := false } } 251 := by
  have reads : decide (s.mode = 9 ∨ s.cus.target = some 9) =
      ((s.arcReported ms).mode == 9 || (s.arcReported ms).cus.target == some 9) := by
    rw [State.arcReported_mode, Bool.eq_iff_iff, decide_eq_true_eq, Bool.or_eq_true, beq_iff_eq, beq_iff_eq]
    exact Iff.rfl
  rw [reads]
  exact if_neg (by rw [scanned, on, away]; exact Bool.false_ne_true)

/-! ### Flush -/

theorem State.arcFinal_page {w : Nat} (world : w < 2) : FinalPage s w (s.arcFinal w fun x r => x.recReady r) := by
  refine ⟨s.arcCommitPage w, State.arcCommitPage_committed world, ?_⟩
  intro x
  refine ⟨fun none => if_pos none, fun some => ?_⟩
  have begins : s.arcFinal w (fun x r => x.recReady r) = (s.arcCommitPage w).startPage w (x.lastCols x.recReady) false := if_neg some
  rw [begins]
  exact State.startPage_begun world _ false

/-- The archive runs and is ready. -/
def State.arcRuns (s : State) : Prop := s.arcUp = true ∧ s.ready 30 = true

theorem State.arcRuns_iff : (s.arcUp && s.ready 30) = true ↔ s.arcRuns := Bool.and_eq_true _ _ ▸ Iff.rfl

theorem State.flushFinal_stays (h : s.mode ≠ 10 ∨ ¬ s.arcRuns ∨ s.arc.final = true) : s.flushFinal = s := by
  refine if_pos ?_
  rw [Bool.not_eq_true', Bool.not_eq_true']
  obtain away | off | done := h
  · exact .inl away
  · rw [State.arcRuns, not_and_or, Bool.not_eq_true, Bool.not_eq_true] at off
    exact .inr (off.elim .inl fun down => .inr (.inl down))
  · exact .inr (.inr (.inr done))

theorem State.flushFinal_pages (flush : s.mode = 10) (runs : s.arcRuns) (first : s.arc.final = false) : s.flushFinal =
    let t := (s.arcFinal 0 fun x r => x.recReady r).arcFinal 1 fun x r => x.recReady r
    { t with arc := { t.arc with final := true } } := by
  obtain ⟨up, ready⟩ := runs
  refine if_neg ?_
  rw [up, ready, first]
  rintro (away | off | off | off)
  · exact away flush
  · exact Bool.false_ne_true off
  · exact Bool.false_ne_true off
  · exact Bool.false_ne_true off

theorem State.flushEnd_stays (h : s.mode ≠ 10 ∨ s.cus.flushed = true ∨ (s.arcRuns ∧ s.arc.final = false)) : s.flushEnd = s := by
  refine if_pos (h.imp_right fun h => h.imp_right fun ⟨runs, first⟩ => ⟨State.arcRuns_iff.mpr runs, ?_⟩)
  rw [first]
  rfl

/-- The archive stops, and the device reports the end of Flush. -/
def State.flushShown (s : State) : State :=
  let t := { s with arc := { s.arc with dry := true } }
  State.fire { t with cus := { t.cus with flushed := true } } 251

theorem State.flushEnd_ends (flush : s.mode = 10) (first : s.cus.flushed = false) (final : s.arcRuns → s.arc.final = true) :
    ∃ v u, (s.arcRuns → PageCommitted s 0 v ∧ PageCommitted v 1 u) ∧ (¬ s.arcRuns → u = s) ∧
      s.flushEnd = if u.flushShown.cus.resetN then u.flushShown else u.flushShown.trigger .reset 1 := by
  have goes : ¬ (s.mode ≠ 10 ∨ s.cus.flushed = true ∨ ((s.arcUp && s.ready 30) = true ∧ (!s.arc.final) = true)) := by
    rintro (away | done | ⟨runs, early⟩)
    · exact away flush
    · rw [first] at done
      cases done
    · rw [final (State.arcRuns_iff.mp runs)] at early
      cases early
  by_cases runs : s.arcRuns
  · refine ⟨s.arcCommitPage 0, (s.arcCommitPage 0).arcCommitPage 1,
      fun _ => ⟨State.arcCommitPage_committed (by decide), State.arcCommitPage_committed (by decide)⟩, fun off => absurd runs off, ?_⟩
    unfold State.flushEnd
    simp only [if_neg goes, if_pos (State.arcRuns_iff.mpr runs)]
    rfl
  · refine ⟨s, s, fun on => absurd on runs, fun _ => rfl, ?_⟩
    unfold State.flushEnd
    simp only [if_neg goes, if_neg fun on => runs (State.arcRuns_iff.mp on)]
    rfl

end

theorem qOf_mod (e : Nat) (w : World) : qOf e w % 2 < 2 := Nat.mod_lt _ (by decide)

/-- Settles O48: a record opens at the next position (`State.arcOpen_eq`), a recovered log is `State.arcCut_recovers`, and the last
pages of Flush are `State.arcFinal_page`. -/
theorem archiveRecordsOpenAndRecover : Obligations.ArchiveRecordsOpenAndRecover := by
  unfold Obligations.ArchiveRecordsOpenAndRecover
  refine ⟨fun s e w => ?_, fun s m w below a h => ?_, fun s m count unit a h => ⟨fun busy => ?_, fun free inside => ?_⟩,
    fun s => ⟨?_, ?_, ?_⟩, fun s m length copy a h short => ?_, fun s => ⟨?_, ?_, fun start n copy store up ready => ?_⟩,
    fun s ms => ?_, fun s => ?_⟩
  · intro q v
    refine ⟨fun none => ⟨congrArg Host.Outcome.next (State.recordOpen_empty none), congrArg Host.Outcome.next (State.arcWaitLimit_empty none)⟩,
      fun x head => ⟨fun other => congrArg Host.Outcome.next (State.recordOpen_other head other), fun op runs fresh =>
        ⟨fun waits => congrArg Host.Outcome.next (State.recordOpen_waits head op runs fresh waits), fun up accepts room => ⟨?_, ?_, ?_⟩⟩, ?_⟩⟩
    · exact fun none first => congrArg Host.Outcome.next (State.recordOpen_full head op runs fresh up accepts room none first)
    · exact fun none known => congrArg Host.Outcome.next (State.recordOpen_fullStill head op runs fresh up accepts room none known)
    · intro free y h u
      have same : s.arcOpen v x.n x.tag (q / 2) = u := State.arcOpen_eq (qOf_mod e.toNat w)
      have time : s.time = u.time := by rw [← same, State.arcOpen_time]
      have opens := State.recordOpen_opens head op runs fresh up accepts room free
      rw [same, time] at opens
      exact congrArg Host.Outcome.next opens
    · intro late
      refine ⟨fun ⟨waits, fresh, over_⟩ => congrArg Host.Outcome.next (State.arcWaitLimit_late head waits fresh over_),
        fun early => congrArg Host.Outcome.next (State.arcWaitLimit_early head early)⟩
  · intro x last may
    have run := congrArg (Host.Outcome.next (φ := Fault) (ρ := Refusal)) (Reaches.write_arcRelease h below)
    exact ⟨fun refused => run.trans (congrArg _ (State.arcRelease_refused refused)),
      fun own up high => run.trans (congrArg _ (State.arcRelease_moves own up high))⟩
  · exact congrArg Host.Outcome.next ((Reaches.write_arcAudit h count unit).trans (State.auditReg_busy busy))
  · intro u
    have starts : s.write m rArcAudit (BitVec.ofNat 64 (count.toNat + 2 ^ 32 * unit.toNat + 2 ^ 40)) =
        State.auditHold { u with arc := { u.arc with audit := some (count.toNat, unit.toNat, false) } } :=
      (Reaches.write_arcAudit h count unit).trans ((State.auditReg_starts free inside).trans (State.auditStart_eq free))
    exact ⟨fun taken => congrArg Host.Outcome.next (starts.trans (State.auditHold_freshWaits taken)),
      fun idle => congrArg Host.Outcome.next (starts.trans (State.auditHold_freshHolds idle))⟩
  · exact fun stays => congrArg Host.Outcome.next (State.auditEnd_stays stays)
  · exact fun n u waits taken => congrArg Host.Outcome.next (State.auditEnd_waits waits taken)
  · exact fun n u up wet holds => congrArg Host.Outcome.next (State.auditEnd_ends up wet holds)
  · have run := congrArg (Host.Outcome.next (φ := Fault) (ρ := Refusal)) (Reaches.write_bootctl h length copy short)
    refine ⟨fun busy => run.trans (congrArg _ (State.bootStore_busy busy)), fun idle none => run.trans (congrArg _ ?_),
      fun idle some => ⟨fun closed up => run.trans (congrArg _ (State.bootStore_closed idle some closed up)),
        fun accepts => run.trans (congrArg _ (State.bootStore_starts idle some accepts))⟩⟩
    rw [none]
    exact State.bootStore_empty idle
  · exact fun stays pass => congrArg Host.Outcome.next (State.bootStoreDone_stays stays)
  · exact fun start n copy store down pass => congrArg Host.Outcome.next (State.bootStoreDone_waits store down)
  · intro ended
    exact ⟨congrArg Host.Outcome.next (State.bootStoreDone_fails store up ready (.inl rfl)),
      fun refused => congrArg Host.Outcome.next (State.bootStoreDone_fails store up ready (.inr refused)),
      fun used accepts => ⟨fun v f read => congrArg Host.Outcome.next (State.bootStoreDone_unreadable store up ready used accepts read),
        fun v b img read => congrArg Host.Outcome.next (State.bootStoreDone_commits store up ready used accepts read)⟩⟩
  · intro flushing
    have away (none : ¬ flushing) : s.inFlush = false := Bool.eq_false_iff.mpr fun flush => none (State.inFlush_iff.mp flush)
    refine ⟨fun stays => congrArg Host.Outcome.next (State.arcRecovery_stays ?_), fun on trained fresh down none => ?_,
      fun stays => congrArg Host.Outcome.next (State.arcRecovered_stays ?_), fun scanned on none =>
        congrArg Host.Outcome.next (State.arcRecovered_reports scanned on (away none))⟩
    · rw [State.inFlush_iff]
      exact stays
    · exact congrArg Host.Outcome.next (State.arcRecovery_cuts on trained fresh down (away none))
    · rw [State.inFlush_iff]
      exact stays
  · intro up
    refine ⟨fun stays => congrArg Host.Outcome.next (State.flushFinal_stays stays), fun flush runs first => ⟨_, _,
        State.arcFinal_page (by decide), State.arcFinal_page (by decide), congrArg Host.Outcome.next (State.flushFinal_pages flush runs first)⟩,
      fun stays => congrArg Host.Outcome.next (State.flushEnd_stays stays), fun flush first final => ?_⟩
    obtain ⟨v, u, commits, still, ends⟩ := State.flushEnd_ends flush first final
    refine ⟨v, u, commits, still, ?_⟩
    intro t0 t
    exact ⟨fun high => congrArg Host.Outcome.next (ends.trans (if_pos high)),
      fun low => congrArg Host.Outcome.next (ends.trans (if_neg (by
        rw [show u.flushShown.cus.resetN = false from low]; exact Bool.false_ne_true)))⟩

end Sys2Proof.Machine

/-! ## Frames and telegrams from the wire (R535, R536, R544 to R547, R560, R561) -/

namespace Sys2Proof.Machine

section
variable {s : State} {p : Nat} {frame : List Byte} {sec : Option SecTag}

/-! ### Frames -/

/-- A frame that its filter lets pass: MACsec, then delivery. -/
def State.frameChecked (s : State) (p : Nat) (frame : List Byte) (sec : Option SecTag) : State :=
  if (s.secFrame p sec).2 then (s.secFrame p sec).1.frameAccept p frame else (s.secFrame p sec).1

theorem State.frameAccept_delivered (s : State) : s.frameAccept p frame = delivered s p frame := by
  unfold State.frameAccept delivered
  cases askustOf (s.rf (rLnkEtype p) fLnkEtypeEtype) frame <;> rfl

theorem State.frameChecked_passes {t : State} (run : s.secFrame p sec = (t, true)) :
    s.frameChecked p frame sec = delivered t p frame := by
  unfold State.frameChecked
  rw [run, if_pos rfl, State.frameAccept_delivered]

theorem State.frameChecked_rejects {t : State} (run : s.secFrame p sec = (t, false)) : s.frameChecked p frame sec = t := by
  unfold State.frameChecked
  rw [run, if_neg Bool.false_ne_true]

theorem State.secFrame_off (off : s.rb (rLnkSecctl p) fLnkSecctlRxen = false) : s.secFrame p sec = (s, true) :=
  if_pos (by rw [off]; rfl)

section
variable (on : s.rb (rLnkSecctl p) fLnkSecctlRxen = true)
include on

theorem State.sec_checks : ¬ (!s.rb (rLnkSecctl p) fLnkSecctlRxen) = true := by
  rw [on]
  exact Bool.false_ne_true

theorem State.secFrame_untagged : s.secFrame p none = (s.portCount p 4, false) := if_neg (State.sec_checks on)

theorem State.secFrame_unknown {t : SecTag}
    (h : s.assocOf p 1 t.an.toNat = none ∨ t.icvOk = false ∨ t.sci ≠ s.reg (rLnkRxsci p)) :
    s.secFrame p (some t) = (s.portCount p 4, false) := by
  refine (if_neg (State.sec_checks on)).trans ?_
  dsimp only
  cases assoc : s.assocOf p 1 t.an.toNat with
  | none => rfl
  | some x =>
    refine if_pos ?_
    obtain none | forged | other := h
    · rw [assoc] at none
      cases none
    · rw [forged]; rfl
    · rw [bne_iff_ne.mpr other, Bool.or_true]

variable {t : SecTag} {x : Assoc} (assoc : s.assocOf p 1 t.an.toNat = some x) (sound : t.icvOk = true)
  (channel : t.sci = s.reg (rLnkRxsci p))
include assoc sound channel

theorem State.secFrame_late (early : t.pn.toNat < x.lowest) : s.secFrame p (some t) = (s.portCount p 5, false) := by
  have whole : ¬ (!t.icvOk || t.sci != s.reg (rLnkRxsci p)) = true := by
    rw [sound, channel, bne_self_eq_false]; exact Bool.false_ne_true
  refine (if_neg (State.sec_checks on)).trans ?_
  simp only [assoc, if_neg whole, if_pos early]

theorem State.secFrame_good (fresh : x.lowest ≤ t.pn.toNat) : s.secFrame p (some t) =
    (s.setAssoc p 1 t.an.toNat (some { x with
      next := max x.next (t.pn.toNat + 1)
      lowest := max x.lowest (max x.next (t.pn.toNat + 1) - s.rf (rLnkSecctl p) fLnkSecctlWindow) }), true) := by
  have whole : ¬ (!t.icvOk || t.sci != s.reg (rLnkRxsci p)) = true := by
    rw [sound, channel, bne_self_eq_false]; exact Bool.false_ne_true
  refine (if_neg (State.sec_checks on)).trans ?_
  simp only [assoc, if_neg whole, if_neg (Nat.not_lt.mpr fresh)]

end

theorem State.frameChecked_macsec : MacsecChecked s p frame sec (s.frameChecked p frame sec) where
  off off := State.frameChecked_passes (State.secFrame_off off)
  untagged on none := by
    subst none
    exact State.frameChecked_rejects (State.secFrame_untagged on)
  unknown on t tag h := by
    subst tag
    exact State.frameChecked_rejects (State.secFrame_unknown on h)
  late on t x tag assoc sound channel early := by
    subst tag
    exact State.frameChecked_rejects (State.secFrame_late on assoc sound channel early)
  good on t x tag assoc sound channel fresh := by
    subst tag
    exact State.frameChecked_passes (State.secFrame_good on assoc sound channel fresh)

theorem State.filterFrame_untagged (none : vlanTag frame = none) : s.filterFrame p frame = (s, true) := by
  simp only [State.filterFrame, none]

section
variable {pcp vid : Nat} (tag : vlanTag frame = some (pcp, vid))
include tag

theorem State.filterFrame_unmatched (none : s.filterFor p pcp vid = none) : s.filterFrame p frame = (s, true) := by
  simp only [State.filterFrame, tag, none]

variable {f : Nat} (filter : s.filterFor p pcp vid = some f)
include filter

theorem State.filterFrame_long (long : s.rf (rLnkFilt p f) fLnkFiltMaxsdu < frame.length - 22) :
    s.filterFrame p frame = ((s.satRf (rLnkFiltcnt p f) fLnkFiltcntDropped 1).portCount p 3, false) := by
  simp only [State.filterFrame, tag, filter]
  exact if_pos (Or.inl long)

theorem State.filterFrame_passes (short : frame.length - 22 ≤ s.rf (rLnkFilt p f) fLnkFiltMaxsdu)
    (free : s.rf (rLnkFilt p f) fLnkFiltRate = 0) :
    s.filterFrame p frame = (s.addRf (rLnkFiltcnt p f) fLnkFiltcntPassed 1, true) := by
  have unmetered : (s.rf (rLnkFilt p f) fLnkFiltRate != 0) = false := by rw [free]; rfl
  have passes : ¬ (s.rf (rLnkFilt p f) fLnkFiltMaxsdu < frame.length - 22 ∨
      ((s.rf (rLnkFilt p f) fLnkFiltRate != 0) = true ∧ s.meterBits p f < 8 * frame.length)) := by
    rw [unmetered]
    rintro (long | ⟨metered, -⟩)
    · omega
    · exact Bool.false_ne_true metered
  simp only [State.filterFrame, tag, filter]
  rw [if_neg passes]
  simp only [unmetered, Bool.false_eq_true, if_false]

end

theorem State.frameReceive_down {ok cut : Bool} (down : s.linkIsUp p = false) : s.frameReceive p frame ok cut sec = s :=
  if_pos (by rw [down]; rfl)

section
variable (up : s.linkIsUp p = true)
include up

theorem State.frameReceive_cut {ok : Bool} : s.frameReceive p frame ok true sec = s.portCount p 2 :=
  (if_neg (by rw [up]; exact Bool.false_ne_true)).trans (if_pos rfl)

theorem State.frameReceive_bad {ok : Bool} (bad : ok = false ∨ frame.length < 64 ∨ 2048 < frame.length) :
    s.frameReceive p frame ok false sec = s.portCount p 1 := by
  have rejects : (!ok || decide (frame.length < 64 ∨ 2048 < frame.length)) = true := by
    obtain rfl | size := bad
    · rfl
    · rw [decide_eq_true size, Bool.or_true]
  exact (if_neg (by rw [up]; exact Bool.false_ne_true)).trans ((if_neg Bool.false_ne_true).trans (if_pos rejects))

variable (long : 64 ≤ frame.length) (short : frame.length ≤ 2048)
include long short

theorem State.frameReceive_whole : s.frameReceive p frame true false sec =
    let x := (s.portCount p 0).filterFrame p frame
    if x.2 then x.1.frameChecked p frame sec else x.1 := by
  have sized : ¬ (!true || decide (frame.length < 64 ∨ 2048 < frame.length)) = true := by
    rw [decide_eq_false (by omega)]
    exact Bool.false_ne_true
  refine (if_neg (by rw [up]; exact Bool.false_ne_true)).trans ((if_neg Bool.false_ne_true).trans ((if_neg sized).trans ?_))
  unfold State.frameChecked
  generalize (s.portCount p 0).filterFrame p frame = x
  obtain ⟨t, ok⟩ := x
  cases ok <;> rfl

theorem State.frameReceive_filtered {t : State} (passes : (s.portCount p 0).filterFrame p frame = (t, true)) :
    ∃ u, s.frameReceive p frame true false sec = u ∧ MacsecChecked t p frame sec u := by
  refine ⟨_, State.frameReceive_whole up long short, ?_⟩
  rw [passes]
  exact State.frameChecked_macsec

end

/-! ### The checks of a telegram -/

variable {n : Nat} {tel : List Byte}

/-- A telegram that has passed every check is counted and taken (R545, R546). -/
def State.rxTaken (s : State) (p n : Nat) (tel : List Byte) : State :=
  let d := (beAt tel 0x0A 2 + 65536 - s.rf (rLnkRxsstat n) fLnkRxsstatAlive) % 65536
  let g := if s.rb (rLnkRxsstat n) fLnkRxsstatFirst then s else s.satRf (rLnkRxscnt n) fLnkRxscntGaps (d - 1)
  let g := ((g.setRf (rLnkRxsstat n) fLnkRxsstatAlive (beAt tel 0x0A 2)).setRf (rLnkRxsstat n) fLnkRxsstatFirst 0).addRf
    (rLnkRxsstat n) fLnkRxsstatAccepted 1
  g.rxAccept p n (tel.take (0x20 + beAt tel 0x0C 2))

theorem State.rxCheck_checked : TelegramChecked s p n tel (s.rxCheck p n tel) where
  checks := by
    intro ctl tr ts v d first c4 c9 c5 c6 c7 c8
    have b4 : (s.rb ctl fLnkRxsctlDigchk && beAt tel 0x18 8 != (s.reg (rLnkRxsdig n)).toNat) = true ↔ c4 := by
      rw [Bool.and_eq_true, bne_iff_ne]
    have b9 : (!s.synced p) = true ↔ c9 := by rw [Bool.not_eq_true']; exact Iff.rfl
    have b5 : decide (tr - ts > ((1000 * s.rf (rLnkRxstime n) fLnkRxstimeMaxage : Nat) : Int)) = true ↔ c5 := decide_eq_true_iff
    have b6 : decide (ts - tr > ((1000 * s.rf (rLnkRxstime n) fLnkRxstimeSkew : Nat) : Int)) = true ↔ c6 := decide_eq_true_iff
    have b7 : (!s.rb (rLnkRxsstat n) fLnkRxsstatFirst && d == 0) = true ↔ c7 := by
      rw [Bool.and_eq_true, Bool.not_eq_true', beq_iff_eq, ← Bool.not_eq_true]
    have b8 : (!s.rb (rLnkRxsstat n) fLnkRxsstatFirst && decide (s.rf ctl fLnkRxsctlGap < d)) = true ↔ c8 := by
      rw [Bool.and_eq_true, Bool.not_eq_true', decide_eq_true_iff, ← Bool.not_eq_true]
    refine ⟨fun h4 => if_pos (b4.mpr h4), fun n4 h9 => ?_, fun n4 n9 h5 => ?_, fun n4 n9 n5 h6 => ?_, fun n4 n9 n5 n6 h7 => ?_,
      fun n4 n9 n5 n6 n7 h8 => ?_, fun n4 n9 n5 n6 n7 n8 => ?_⟩
    · exact (if_neg (n4 ∘ b4.mp)).trans (if_pos (b9.mpr h9))
    · exact (if_neg (n4 ∘ b4.mp)).trans ((if_neg (n9 ∘ b9.mp)).trans (if_pos (b5.mpr h5)))
    · exact (if_neg (n4 ∘ b4.mp)).trans ((if_neg (n9 ∘ b9.mp)).trans ((if_neg (n5 ∘ b5.mp)).trans (if_pos (b6.mpr h6))))
    · exact (if_neg (n4 ∘ b4.mp)).trans ((if_neg (n9 ∘ b9.mp)).trans ((if_neg (n5 ∘ b5.mp)).trans ((if_neg (n6 ∘ b6.mp)).trans
        (if_pos (b7.mpr h7)))))
    · exact (if_neg (n4 ∘ b4.mp)).trans ((if_neg (n9 ∘ b9.mp)).trans ((if_neg (n5 ∘ b5.mp)).trans ((if_neg (n6 ∘ b6.mp)).trans
        ((if_neg (n7 ∘ b7.mp)).trans (if_pos (b8.mpr h8))))))
    · have accepts : s.rxCheck p n tel = if (s.rxTaken p n tel).rb ctl fLnkRxsctlCue then (s.rxTaken p n tel).fire 252
          else s.rxTaken p n tel :=
        (if_neg (n4 ∘ b4.mp)).trans ((if_neg (n9 ∘ b9.mp)).trans ((if_neg (n5 ∘ b5.mp)).trans ((if_neg (n6 ∘ b6.mp)).trans
          ((if_neg (n7 ∘ b7.mp)).trans (if_neg (n8 ∘ b8.mp))))))
      exact ⟨_, fun h => if_pos h, fun h => if_neg h, fun cue => accepts.trans (if_pos cue),
        fun none => accepts.trans (if_neg (by rw [show (s.rxTaken p n tel).rb ctl fLnkRxsctlCue = false from none]; exact Bool.false_ne_true))⟩

end

end Sys2Proof.Machine

/-! ## Askust telegrams and their delivery (R544 to R547) -/

namespace Sys2Proof.Machine

section
variable {s : State} {p : Nat} {rtag : Option Nat} {tel : List Byte}

/-! ### The examination of a telegram -/

theorem State.askust_stays (h : s.linkIsUp p = false ∨ ∀ rest, s.wireOf p ≠ (rtag, tel) :: rest) : s.askust p rtag tel = s := by
  unfold State.askust
  split
  · rfl
  · rename_i x rest wire
    refine if_neg fun both => ?_
    obtain ⟨up, same⟩ := Bool.and_eq_true _ _ ▸ both
    obtain down | other := h
    · rw [down] at up
      cases up
    · rw [beq_iff_eq.mp same] at wire
      exact other rest wire

theorem State.askust_takes {rest : List (Option Nat × List Byte)} (up : s.linkIsUp p = true) (wire : s.wireOf p = (rtag, tel) :: rest) :
    s.askust p rtag tel = (s.setWire p rest).askustCheck p rtag tel := by
  unfold State.askust
  rw [wire]
  exact if_pos (by rw [up, beq_self_eq_true]; rfl)

/-- The telegram has the form of R539. -/
def telFormed (tel : List Byte) : Prop :=
  0x28 ≤ tel.length ∧ beAt tel 0x0E 1 = 1 ∧ beAt tel 0x0C 2 ≤ 1400 ∧ 0x28 + beAt tel 0x0C 2 ≤ tel.length

/-- A check that fails before the elimination step. -/
def State.rxEarly (s : State) (p : Nat) (stream : Option Nat) (code : Nat) : State :=
  match stream with
  | some n => s.rxReject p n code
  | none => s

/-- The stream that the identifiers of a telegram name. -/
def State.telStream (s : State) (p : Nat) (tel : List Byte) : Option Nat :=
  if tel.length < 8 then none else s.rxStream p (beAt tel 0 4) (beAt tel 4 4)

theorem State.askustCheck_unformed (h : ¬ telFormed tel) : s.askustCheck p rtag tel = s.rxEarly p (s.telStream p tel) 1 := by
  have bad : tel.length < 0x28 ∨ beAt tel 0x0E 1 ≠ 1 ∨ 1400 < beAt tel 0x0C 2 ∨ tel.length < 0x28 + beAt tel 0x0C 2 := by
    unfold telFormed at h
    omega
  exact if_pos bad

section
variable (formed : telFormed tel)
include formed

theorem telFormed.good : ¬ (tel.length < 0x28 ∨ beAt tel 0x0E 1 ≠ 1 ∨ 1400 < beAt tel 0x0C 2 ∨ tel.length < 0x28 + beAt tel 0x0C 2) := by
  obtain ⟨long, version, short, whole⟩ := formed
  omega

theorem State.askustCheck_codeC (h : (codesHold tel).1 = false) : s.askustCheck p rtag tel = s.rxEarly p (s.telStream p tel) 2 := by
  have bad := beq_eq_false_iff_ne.mp h
  exact (if_neg (telFormed.good formed)).trans (if_pos bad)

variable (c : (codesHold tel).1 = true)
include c

theorem State.askustCheck_codeP (h : (codesHold tel).2 = false) : s.askustCheck p rtag tel = s.rxEarly p (s.telStream p tel) 3 := by
  have good := not_not.mpr (beq_iff_eq.mp c)
  have bad := beq_eq_false_iff_ne.mp h
  exact (if_neg (telFormed.good formed)).trans ((if_neg good).trans (if_pos bad))

variable (q : (codesHold tel).2 = true)
include q

theorem State.askustCheck_unknown (none : s.rxStream p (beAt tel 0 4) (beAt tel 4 4) = none) :
    s.askustCheck p rtag tel = s.portCount p 7 := by
  have goodC := not_not.mpr (beq_iff_eq.mp c)
  have goodP := not_not.mpr (beq_iff_eq.mp q)
  refine (if_neg (telFormed.good formed)).trans ((if_neg goodC).trans ((if_neg goodP).trans ?_))
  rw [none, ite_self]

variable {n : Nat} (stream : s.rxStream p (beAt tel 0 4) (beAt tel 4 4) = some n)
include stream

omit c q in
theorem telFormed.streamNamed : (if tel.length < 8 then none else s.rxStream p (beAt tel 0 4) (beAt tel 4 4)) = some n := by
  obtain ⟨long, -⟩ := formed
  rw [if_neg (by omega), stream]

theorem State.askustCheck_plain (h : rtag = none ∨ s.rb (rLnkRxsctl n) fLnkRxsctlElim = false) :
    s.askustCheck p rtag tel = s.rxCheck p n tel := by
  have goodC := not_not.mpr (beq_iff_eq.mp c)
  have goodP := not_not.mpr (beq_iff_eq.mp q)
  have untagged : (if s.rb (rLnkRxsctl n) fLnkRxsctlElim then rtag else none) = none := by
    obtain rfl | off := h
    · exact ite_self _
    · rw [off]; rfl
  refine (if_neg (telFormed.good formed)).trans ((if_neg goodC).trans ((if_neg goodP).trans ?_))
  rw [telFormed.streamNamed formed stream]
  dsimp only
  rw [untagged]

variable (elim : s.rb (rLnkRxsctl n) fLnkRxsctlElim = true) {t : Nat}
include elim

theorem State.askustCheck_tagged : s.askustCheck p (some t) tel =
    if (Tab.get listDefault s.lnk.hist n).contains t then (s.satRf (rLnkRxscnt n) fLnkRxscntEliminated 1).portCount p 6
    else (s.setLnk { s.lnk with
      hist := Tab.set listDefault s.lnk.hist n ((t :: Tab.get listDefault s.lnk.hist n).take (s.histLen n)) }).rxCheck p n tel := by
  have goodC := not_not.mpr (beq_iff_eq.mp c)
  have goodP := not_not.mpr (beq_iff_eq.mp q)
  refine (if_neg (telFormed.good formed)).trans ((if_neg goodC).trans ((if_neg goodP).trans ?_))
  rw [telFormed.streamNamed formed stream]
  dsimp only
  rw [elim]
  rfl

theorem State.askustCheck_seen (seen : t ∈ Tab.get listDefault s.lnk.hist n) :
    s.askustCheck p (some t) tel = (s.satRf (rLnkRxscnt n) fLnkRxscntEliminated 1).portCount p 6 :=
  (State.askustCheck_tagged formed c q stream elim).trans (if_pos (List.contains_iff_mem.mpr seen))

theorem State.askustCheck_fresh (fresh : t ∉ Tab.get listDefault s.lnk.hist n) : s.askustCheck p (some t) tel =
    (s.setLnk { s.lnk with
      hist := Tab.set listDefault s.lnk.hist n ((t :: Tab.get listDefault s.lnk.hist n).take (s.histLen n)) }).rxCheck p n tel :=
  (State.askustCheck_tagged formed c q stream elim).trans (if_neg fun seen => fresh (List.contains_iff_mem.mp seen))

end

theorem State.telStream_none (h : s.rxStream p (beAt tel 0 4) (beAt tel 4 4) = none ∨ tel.length < 8) : s.telStream p tel = none := by
  unfold State.telStream
  obtain none | short := h
  · rw [none, ite_self]
  · exact if_pos short

theorem State.telStream_some {n : Nat} (long : 8 ≤ tel.length) (h : s.rxStream p (beAt tel 0 4) (beAt tel 4 4) = some n) :
    s.telStream p tel = some n := by
  unfold State.telStream
  rw [if_neg (Nat.not_lt.mpr long), h]

theorem State.rxEarly_none {code : Nat} (none : s.telStream p tel = none) : s.rxEarly p (s.telStream p tel) code = s := by
  rw [none]
  rfl

theorem State.rxEarly_some {n code : Nat} (some : s.telStream p tel = some n) :
    s.rxEarly p (s.telStream p tel) code = s.rxReject p n code := by
  rw [some]
  rfl

/-- Without a stream a telegram that a check rejects leaves nothing. -/
theorem State.askustCheck_lost (h : s.rxStream p (beAt tel 0 4) (beAt tel 4 4) = none ∨ tel.length < 8)
    (bad : ¬ (telFormed tel ∧ (codesHold tel).1 = true ∧ (codesHold tel).2 = true)) : s.askustCheck p rtag tel = s := by
  have lost := State.telStream_none h
  by_cases formed : telFormed tel
  · cases c : (codesHold tel).1 with
    | false => exact (State.askustCheck_codeC formed c).trans (State.rxEarly_none lost)
    | true =>
      cases q : (codesHold tel).2 with
      | false => exact (State.askustCheck_codeP formed c q).trans (State.rxEarly_none lost)
      | true => exact absurd ⟨formed, c, q⟩ bad
  · exact (State.askustCheck_unformed formed).trans (State.rxEarly_none lost)

end

/-! ### Delivery -/

section
variable {s : State} {p : Nat}

theorem State.delivery_empty (none : s.rxqOf p = []) : s.delivery p = s := by
  simp only [State.delivery, none]

theorem State.delivery_down (h : s.domOn 44 = false ∨ s.ready 28 = false) : s.delivery p = s := by
  have off : (!s.domOn 44 || !s.ready 28) = true := by
    obtain dark | down := h
    · rw [dark]; rfl
    · rw [down, Bool.not_false, Bool.or_true]
  unfold State.delivery
  split
  · rfl
  · exact if_pos off

section
variable {n pos : Nat} {bs : List Byte} {rest : List (Nat × List Byte × Nat)} (first : s.rxqOf p = (n, bs, pos) :: rest)
  (on : s.domOn 44 = true) (up : s.ready 28 = true)
include first on up

/-- The oldest accepted telegram goes to a frame or to a relay. -/
theorem State.delivery_first : s.delivery p =
    if s.rb (rLnkRxsdest n) fLnkRxsdestDest then
      if !s.rb (rRepFrcfg (s.rf (rLnkRxsdest n) fLnkRxsdestFrame)) fRepFrcfgEn ||
          decide ((s.frameBuf (s.rf (rLnkRxsdest n) fLnkRxsdestFrame) 0).2 < s.rf (rLnkRxsdest n) fLnkRxsdestOffset + bs.length) then
        (s.setRxq p rest).noRoom p n
      else match s.frameWrite (s.frameView (s.rf (rLnkRxsdest n) fLnkRxsdestFrame)) (s.rf (rLnkRxsdest n) fLnkRxsdestFrame)
          (s.rf (rLnkRxsdest n) fLnkRxsdestOffset) bs with
        | .ok t => t.setRxq p rest
        | .error (e, b) => ((s.setRxq p rest).noRoom p n).writeNote (0x9C + p) e b
    else match s.relayFor 1 (s.rf (rLnkRxsdest n) fLnkRxsdestRelaysel) with
      | none => (s.setRxq p rest).noRoom p n
      | some r =>
        let part := (bs.drop pos).take (s.relay r).room
        if part = [] then s
        else
          let ends := decide (bs.length ≤ pos + part.length) && s.rb (rLnkRxsctl n) fLnkRxsctlPush
          match s.relayRefuses (.win (s.relayWorld r) true) r false ends part.length with
          | some (e, _, b) => ((s.setRxq p rest).noRoom p n).writeNote (0x9C + p) e b
          | none =>
            let u := s.relayPut r part
            if pos + part.length < bs.length then u.setRxq p ((n, bs, pos + part.length) :: rest)
            else (if ends then u.relaySeal r else u).setRxq p rest := by
  have powered : ¬ (!s.domOn 44 || !s.ready 28) = true := by
    rw [on, up]
    exact Bool.false_ne_true
  unfold State.delivery
  rw [first]
  exact if_neg powered

section
variable (frame : s.rb (rLnkRxsdest n) fLnkRxsdestDest = true)
include frame

theorem State.delivery_noFrame (h : s.rb (rRepFrcfg (s.rf (rLnkRxsdest n) fLnkRxsdestFrame)) fRepFrcfgEn = false ∨
    (s.frameBuf (s.rf (rLnkRxsdest n) fLnkRxsdestFrame) 0).2 < s.rf (rLnkRxsdest n) fLnkRxsdestOffset + bs.length) :
    s.delivery p = (s.setRxq p rest).noRoom p n := by
  rw [State.delivery_first first on up, if_pos frame]
  refine if_pos ?_
  obtain off | large := h
  · rw [off]; rfl
  · rw [decide_eq_true large, Bool.or_true]

variable (enabled : s.rb (rRepFrcfg (s.rf (rLnkRxsdest n) fLnkRxsdestFrame)) fRepFrcfgEn = true)
  (fits : s.rf (rLnkRxsdest n) fLnkRxsdestOffset + bs.length ≤ (s.frameBuf (s.rf (rLnkRxsdest n) fLnkRxsdestFrame) 0).2)
include enabled fits

omit first on up frame in
theorem State.delivery_fits : ¬ (!s.rb (rRepFrcfg (s.rf (rLnkRxsdest n) fLnkRxsdestFrame)) fRepFrcfgEn ||
    decide ((s.frameBuf (s.rf (rLnkRxsdest n) fLnkRxsdestFrame) 0).2 < s.rf (rLnkRxsdest n) fLnkRxsdestOffset + bs.length)) = true := by
  rw [enabled, decide_eq_false (Nat.not_lt.mpr fits)]
  exact Bool.false_ne_true

theorem State.delivery_written {t : State} (written : s.frameWrite (s.frameView (s.rf (rLnkRxsdest n) fLnkRxsdestFrame))
    (s.rf (rLnkRxsdest n) fLnkRxsdestFrame) (s.rf (rLnkRxsdest n) fLnkRxsdestOffset) bs = .ok t) : s.delivery p = t.setRxq p rest := by
  rw [State.delivery_first first on up, if_pos frame, if_neg (State.delivery_fits enabled fits), written]

theorem State.delivery_refused {e : MErr} {b : Nat} (refused : s.frameWrite (s.frameView (s.rf (rLnkRxsdest n) fLnkRxsdestFrame))
    (s.rf (rLnkRxsdest n) fLnkRxsdestFrame) (s.rf (rLnkRxsdest n) fLnkRxsdestOffset) bs = .error (e, b)) :
    s.delivery p = ((s.setRxq p rest).noRoom p n).writeNote (0x9C + p) e b := by
  rw [State.delivery_first first on up, if_pos frame, if_neg (State.delivery_fits enabled fits), refused]

end

section
variable (other : s.rb (rLnkRxsdest n) fLnkRxsdestDest = false)
include other

omit first on up in
theorem State.delivery_relay : ¬ s.rb (rLnkRxsdest n) fLnkRxsdestDest = true := by
  rw [other]
  exact Bool.false_ne_true

theorem State.delivery_noRelay (none : s.relayFor 1 (s.rf (rLnkRxsdest n) fLnkRxsdestRelaysel) = none) :
    s.delivery p = (s.setRxq p rest).noRoom p n := by
  rw [State.delivery_first first on up, if_neg (State.delivery_relay other), none]

variable {r : Nat} (relay : s.relayFor 1 (s.rf (rLnkRxsdest n) fLnkRxsdestRelaysel) = some r)
include relay

theorem State.delivery_waits (full : (bs.drop pos).take (s.relay r).room = []) : s.delivery p = s := by
  rw [State.delivery_first first on up, if_neg (State.delivery_relay other), relay]
  exact if_pos full

variable {part : List Byte} (taken : (bs.drop pos).take (s.relay r).room = part) (some_ : part ≠ [])
include taken some_

theorem State.delivery_relayRefuses {e : MErr} {j b : Nat} (no : s.relayRefuses (.win (s.relayWorld r) true) r false
    (decide (bs.length ≤ pos + part.length) && s.rb (rLnkRxsctl n) fLnkRxsctlPush) part.length = some (e, j, b)) :
    s.delivery p = ((s.setRxq p rest).noRoom p n).writeNote (0x9C + p) e b := by
  rw [State.delivery_first first on up, if_neg (State.delivery_relay other), relay]
  simp only [taken, if_neg some_, no]

theorem State.delivery_relayTakes (yes : s.relayRefuses (.win (s.relayWorld r) true) r false
    (decide (bs.length ≤ pos + part.length) && s.rb (rLnkRxsctl n) fLnkRxsctlPush) part.length = none) :
    s.delivery p = if pos + part.length < bs.length then (s.relayPut r part).setRxq p ((n, bs, pos + part.length) :: rest)
      else (if decide (bs.length ≤ pos + part.length) && s.rb (rLnkRxsctl n) fLnkRxsctlPush then (s.relayPut r part).relaySeal r
        else s.relayPut r part).setRxq p rest := by
  rw [State.delivery_first first on up, if_neg (State.delivery_relay other), relay]
  simp only [taken, if_neg some_, yes]

end

end

end

/-! ### The obligation -/

theorem State.frames_taken (s : State) (k : Nat) (frame : List Byte) (sec : Option SecTag) :
    (∀ ok cut, s.linkIsUp k = false → s.frameReceive k frame ok cut sec = s) ∧
    (∀ ok, s.linkIsUp k = true → s.frameReceive k frame ok true sec = s.portCount k 2) ∧
    (∀ ok, s.linkIsUp k = true → (ok = false ∨ frame.length < 64 ∨ 2048 < frame.length) →
      s.frameReceive k frame ok false sec = s.portCount k 1) :=
  ⟨fun _ _ down => State.frameReceive_down down, fun _ up => State.frameReceive_cut up, fun _ up bad => State.frameReceive_bad up bad⟩

theorem portsTakeFrames (s : State) (p : BitVec 2) (frame : List Byte) (sec : Option SecTag) : let k := p.toNat
    s.linkIsUp k = true → 64 ≤ frame.length → frame.length ≤ 2048 →
      let v := s.portCount k 0
      (vlanTag frame = none →
        ∃ u, exec (.frameReceive p frame true false sec) s = .next u ∧ MacsecChecked v k frame sec u) ∧
      (∀ pcp vid, vlanTag frame = some (pcp, vid) →
        (v.filterFor k pcp vid = none →
          ∃ u, exec (.frameReceive p frame true false sec) s = .next u ∧ MacsecChecked v k frame sec u) ∧
        (∀ f, v.filterFor k pcp vid = some f →
          (v.rf (rLnkFilt k f) fLnkFiltMaxsdu < frame.length - 22 → exec (.frameReceive p frame true false sec) s =
            .next ((v.satRf (rLnkFiltcnt k f) fLnkFiltcntDropped 1).portCount k 3)) ∧
          (frame.length - 22 ≤ v.rf (rLnkFilt k f) fLnkFiltMaxsdu → v.rf (rLnkFilt k f) fLnkFiltRate = 0 →
            ∃ u, exec (.frameReceive p frame true false sec) s = .next u ∧
              MacsecChecked (v.addRf (rLnkFiltcnt k f) fLnkFiltcntPassed 1) k frame sec u))) := by
  intro k up long short v
  have passed {t : State} (h : v.filterFrame k frame = (t, true)) :
      ∃ u, exec (.frameReceive p frame true false sec) s = .next u ∧ MacsecChecked t k frame sec u := by
    obtain ⟨u, run, checked⟩ := State.frameReceive_filtered (sec := sec) up long short h
    exact ⟨u, congrArg Host.Outcome.next run, checked⟩
  refine ⟨fun none => passed (State.filterFrame_untagged none), fun pcp vid tag =>
    ⟨fun none => passed (State.filterFrame_unmatched tag none), fun f filter => ⟨fun large => ?_, fun small free =>
      passed (State.filterFrame_passes tag filter small free)⟩⟩⟩
  have run := State.frameReceive_whole (sec := sec) up long short
  rw [State.filterFrame_long tag filter large] at run
  exact congrArg Host.Outcome.next run

theorem portsTakeTelegrams (s : State) (p : BitVec 2) (rtag : Option (BitVec 16)) (tel : List Byte)
    (rest : List (Option Nat × List Byte)) (up : s.linkIsUp p.toNat = true)
    (wire : s.wireOf p.toNat = (rtag.map (·.toNat), tel) :: rest) {u : State}
    (h : (s.setWire p.toNat rest).askustCheck p.toNat (rtag.map (·.toNat)) tel = u) :
    exec (.askustReceive p rtag tel) s = .next u :=
  congrArg Host.Outcome.next ((State.askust_takes up wire).trans h)

/-- Settles O49: frames pass the filter and MACsec, telegrams the checks of R544 in their order, and delivery goes to the frame
or the relay that RXSDEST names. -/
theorem portsTakeFramesAndTelegrams : Obligations.PortsTakeFramesAndTelegrams := by
  unfold Obligations.PortsTakeFramesAndTelegrams
  refine ⟨?frames, ?telegrams, ?delivery⟩
  case frames =>
    intro s p frame sec k
    obtain ⟨down, cut, bad⟩ := State.frames_taken s k frame sec
    exact ⟨fun ok c h => congrArg Host.Outcome.next (down ok c h), fun ok h => congrArg Host.Outcome.next (cut ok h),
      fun ok h b => congrArg Host.Outcome.next (bad ok h b), portsTakeFrames s p frame sec⟩
  case telegrams =>
    intro s p rtag tel k m formed
    refine ⟨fun h => congrArg Host.Outcome.next (State.askust_stays h), fun rest up wire => ?_⟩
    intro v stream
    have takes {u : State} (h : v.askustCheck k (rtag.map (·.toNat)) tel = u) := portsTakeTelegrams s p rtag tel rest up wire h
    refine ⟨fun f c q none => takes (State.askustCheck_unknown f c q none), fun none bad => takes (State.askustCheck_lost none bad),
      fun n long named => ?_⟩
    have early {code : Nat} : v.rxEarly k (v.telStream k tel) code = v.rxReject k n code :=
      State.rxEarly_some (State.telStream_some long named)
    refine ⟨fun f => takes ((State.askustCheck_unformed f).trans early),
      fun f c => takes ((State.askustCheck_codeC f c).trans early),
      fun f c q => takes ((State.askustCheck_codeP f c q).trans early), fun f c q => ?_⟩
    intro seen
    refine ⟨fun plain => ⟨_, takes (State.askustCheck_plain f c q named ?_), State.rxCheck_checked⟩, fun t tag elim => ?_⟩
    · exact plain.imp_left fun none => by rw [none]; rfl
    · subst tag
      exact ⟨fun old => takes (State.askustCheck_seen f c q named elim old),
        fun fresh => ⟨_, takes (State.askustCheck_fresh f c q named elim fresh), State.rxCheck_checked⟩⟩
  case delivery =>
    intro s p k
    refine ⟨fun none => congrArg Host.Outcome.next (State.delivery_empty none), fun off => congrArg Host.Outcome.next (State.delivery_down off),
      fun n bs pos rest first on up => ?_⟩
    intro a f off drop
    refine ⟨fun frame h => congrArg Host.Outcome.next (State.delivery_noFrame first on up frame h), fun frame enabled fits =>
      ⟨fun t written => congrArg Host.Outcome.next (State.delivery_written first on up frame enabled fits written),
        fun e b refused => congrArg Host.Outcome.next (State.delivery_refused first on up frame enabled fits refused)⟩,
      fun other none => congrArg Host.Outcome.next (State.delivery_noRelay first on up other none), fun r other relay => ?_⟩
    intro x part ends no u
    refine ⟨fun full => congrArg Host.Outcome.next (State.delivery_waits first on up other relay full),
      fun e j b some_ refuses => congrArg Host.Outcome.next (State.delivery_relayRefuses first on up other relay rfl some_ refuses),
      fun some_ yes => ?_⟩
    have run := State.delivery_relayTakes first on up other relay rfl some_ yes
    refine ⟨fun more => congrArg Host.Outcome.next (run.trans (if_pos more)), fun whole open_ => ?_, fun whole push => ?_⟩
    · refine congrArg Host.Outcome.next (run.trans ((if_neg (Nat.not_lt.mpr whole)).trans ?_))
      rw [if_neg (by rw [open_, Bool.and_false]; exact Bool.false_ne_true)]
    · refine congrArg Host.Outcome.next (run.trans ((if_neg (Nat.not_lt.mpr whole)).trans ?_))
      rw [if_pos (by rw [decide_eq_true whole, push]; rfl)]

end Sys2Proof.Machine

/-! ## Link state, gPTP, gates and transmit rings (R535, R537, R540, R541, R543, R559) -/

namespace Sys2Proof.Machine

section
variable {s : State} {p : Nat}

/-! ### Link state -/

/-- The speeds and the FEC that R535 allows with them. -/
theorem fecOk_iff {speed fec : Nat} :
    fecOk speed fec = true ↔ (speed, fec) ∈ ([(0, 0), (1, 0), (1, 1), (2, 1), (2, 2)] : List (Nat × Nat)) := by
  match speed with
  | 0 => simp [fecOk]
  | 1 => simp [fecOk]
  | 2 => simp [fecOk]
  | n + 3 => simp [fecOk]

/-- What lets the link come up. -/
theorem State.linkMay_iff {speed fec : Nat} : (s.portOn p && s.linkMay p speed fec) = true ↔
    s.portOn p = true ∧ (speed, fec) ∈ ([(0, 0), (1, 0), (1, 1), (2, 1), (2, 2)] : List (Nat × Nat)) ∧
      (s.rb (rLnkPctl p) fLnkPctlAn = true ∨ (speed = s.rf (rLnkPctl p) fLnkPctlSpeed ∧
        ((speed, s.rf (rLnkPctl p) fLnkPctlFec) ∉ ([(0, 0), (1, 0), (1, 1), (2, 1), (2, 2)] : List (Nat × Nat)) ∨
          fec = s.rf (rLnkPctl p) fLnkPctlFec))) := by
  simp only [State.linkMay, Bool.and_eq_true, Bool.or_eq_true, Bool.not_eq_true', ← Bool.not_eq_true, beq_iff_eq, fecOk_iff]

theorem State.linkUp_eq {speed fec : Nat} : s.linkUp p speed fec = if s.portOn p && s.linkMay p speed fec then
    ((s.setRf (rLnkPstat p) fLnkPstatLinkup 1).setRf (rLnkPstat p) fLnkPstatSpeed speed).setRf (rLnkPstat p) fLnkPstatFec fec
    else s := by
  unfold State.linkUp
  rw [← Bool.not_and]
  cases s.portOn p && s.linkMay p speed fec <;> rfl

theorem State.linkDown_down (down : s.rb (rLnkPstat p) fLnkPstatLinkup = false) : s.linkDown p = s :=
  if_pos (by rw [down]; rfl)

theorem State.linkDown_up (up : s.rb (rLnkPstat p) fLnkPstatLinkup = true) : s.linkDown p =
    (((s.setRf (rLnkPstat p) fLnkPstatLinkup 0).setRf (rLnkPstat p) fLnkPstatSpeed 0).setRf (rLnkPstat p) fLnkPstatFec 0).flt
      ⟨.lnk, p, 2, none, 0, p, 0, false⟩ :=
  if_neg (by rw [up]; exact Bool.false_ne_true)

/-! ### gPTP -/

theorem State.ptp_setPtp (x : PtpSt) : (s.setPtp p x).ptp p = x := by
  unfold State.ptp State.setPtp
  exact Tab.get_set_same ..

theorem State.unsync_out (out : (s.setPtp p { s.ptp p with good := 0 }).rb (rLnkPtpstat p) fLnkPtpstatSync = false) :
    s.unsync p = s.setPtp p { s.ptp p with good := 0 } :=
  if_neg (Bool.eq_false_iff.mp out)

theorem State.unsync_in (in_ : (s.setPtp p { s.ptp p with good := 0 }).rb (rLnkPtpstat p) fLnkPtpstatSync = true) :
    s.unsync p = ((s.setPtp p { s.ptp p with good := 0 }).setRf (rLnkPtpstat p) fLnkPtpstatSync 0).flt
      ⟨.lnk, p, 3, none, 0, p, 0, false⟩ :=
  if_pos in_

theorem State.ptpTakes_iff {d : BitVec 8} :
    s.ptpTakes p d = true ↔ s.ptpOn p = true ∧ s.rf (rLnkPtpctl p) fLnkPtpctlDomain = d.toNat := by
  rw [State.ptpTakes, Bool.and_eq_true, beq_iff_eq]

theorem PtpSt.follows_iff {x : PtpSt} {m : Word} : x.follows m = true ↔ x.best = none ∨ ∃ q, x.best = some (q, m) := by
  obtain ⟨good, interval, last, best, delay⟩ := x
  cases best with
  | none => exact ⟨fun _ => .inl rfl, fun _ => rfl⟩
  | some b =>
    obtain ⟨q, o⟩ := b
    show (o == m) = true ↔ _
    rw [beq_iff_eq]
    constructor
    · rintro rfl
      exact .inr ⟨q, rfl⟩
    · rintro (none | ⟨r, same⟩)
      · cases none
      · cases same
        rfl

section
variable {m : SyncMsg} {offset interval : Nat}

/-- A Sync is for the port: of its domain, and from the master that it follows. -/
def State.syncMine (s : State) (p : Nat) (m : SyncMsg) : Prop :=
  s.ptpOn p = true ∧ s.rf (rLnkPtpctl p) fLnkPtpctlDomain = m.domain.toNat ∧
    ((s.ptp p).best = none ∨ ∃ q, (s.ptp p).best = some (q, m.master))

/-- The port time and the offset of a Sync. -/
def State.syncNoted (s : State) (p : Nat) (m : SyncMsg) (offset : Nat) : State :=
  (s.setReg (rLnkPtptime p) m.time).setRf (rLnkPtpstat p) fLnkPtpstatOffset offset

theorem State.syncMine_iff : s.syncMine p m ↔ s.ptpTakes p m.domain = true ∧ (s.ptp p).follows m.master = true := by
  rw [State.ptpTakes_iff, PtpSt.follows_iff, and_assoc]
  rfl

theorem State.gptpSync_other (other : ¬ s.syncMine p m) : s.gptpSync p m offset interval = s := by
  rw [State.syncMine_iff] at other
  refine if_pos ?_
  rwa [← Bool.not_and, Bool.not_eq_true', ← Bool.not_eq_true, Bool.and_eq_true]

variable (mine : s.syncMine p m)
include mine

theorem State.gptpSync_mine : ¬ (!s.ptpTakes p m.domain || !(s.ptp p).follows m.master) = true := by
  obtain ⟨takes, follows⟩ := State.syncMine_iff.mp mine
  rw [takes, follows]
  exact Bool.false_ne_true

/-- What the port knows after a Sync, but for the count of good ones. -/
def State.synced_ptp (s : State) (p interval : Nat) : PtpSt := { s.ptp p with interval := interval, last := s.time }

section
variable (near : (toSigned 32 offset).natAbs ≤ (s.syncNoted p m offset).rf (rLnkPtpctl p) fLnkPtpctlSynclim)
include near

theorem State.gptpSync_near : s.gptpSync p m offset interval =
    if 4 ≤ (s.ptp p).good + 1 then ((s.syncNoted p m offset).setPtp p { s.synced_ptp p interval with
      good := min 4 ((s.ptp p).good + 1) }).setRf (rLnkPtpstat p) fLnkPtpstatSync 1
    else (s.syncNoted p m offset).setPtp p { s.synced_ptp p interval with good := min 4 ((s.ptp p).good + 1) } :=
  (if_neg (State.gptpSync_mine mine)).trans (if_pos near)

theorem State.gptpSync_counts (few : (s.ptp p).good < 3) : s.gptpSync p m offset interval =
    (s.syncNoted p m offset).setPtp p { s.synced_ptp p interval with good := (s.ptp p).good + 1 } := by
  rw [State.gptpSync_near mine near, if_neg (by omega), Nat.min_eq_right (by omega)]

theorem State.gptpSync_locks (enough : 3 ≤ (s.ptp p).good) : s.gptpSync p m offset interval =
    ((s.syncNoted p m offset).setPtp p { s.synced_ptp p interval with good := 4 }).setRf (rLnkPtpstat p) fLnkPtpstatSync 1 := by
  rw [State.gptpSync_near mine near, if_pos (by omega), Nat.min_eq_left (by omega)]

end

theorem State.gptpSync_far
    (far : ¬ (toSigned 32 offset).natAbs ≤ (s.syncNoted p m offset).rf (rLnkPtpctl p) fLnkPtpctlSynclim) :
    s.gptpSync p m offset interval = ((s.syncNoted p m offset).setPtp p (s.synced_ptp p interval)).unsync p :=
  (if_neg (State.gptpSync_mine mine)).trans (if_neg far)

end

/-- An Announce names the best master: the one that is followed, or one of a better priority vector. -/
theorem State.announce_better {m : AnnounceMsg} {master : Word} (takes : s.ptpTakes p m.domain = true)
    (better : (s.ptp p).best = none ∨ ∃ q o, (s.ptp p).best = some (q, o) ∧
      (o = master ∨ m.priority.toNat < q.toNat ∨ (m.priority = q ∧ master.toNat < o.toNat))) :
    s.announce p m master = s.setPtp p { s.ptp p with best := some (m.priority, master) } := by
  refine (if_neg (by rw [takes]; exact Bool.false_ne_true)).trans (if_pos ?_)
  obtain none | ⟨q, o, some_, h⟩ := better
  · simp only [none]
  · simp only [some_, Bool.or_eq_true, Bool.and_eq_true, beq_iff_eq, decide_eq_true_iff, or_assoc]
    exact h

theorem State.announce_other {m : AnnounceMsg} {master : Word} (other : s.ptpTakes p m.domain = false) :
    s.announce p m master = s := if_pos (by rw [other]; rfl)

theorem State.announce_worse {m : AnnounceMsg} {master : Word}
    (worse : ¬ ((s.ptp p).best = none ∨ ∃ q o, (s.ptp p).best = some (q, o) ∧
      (o = master ∨ m.priority.toNat < q.toNat ∨ (m.priority = q ∧ master.toNat < o.toNat)))) :
    s.announce p m master = s := by
  cases takes : s.ptpTakes p m.domain with
  | false => exact State.announce_other takes
  | true =>
    refine (if_neg (by rw [takes]; exact Bool.false_ne_true)).trans (if_neg fun h => worse ?_)
    cases best : (s.ptp p).best with
    | none => exact .inl rfl
    | some b =>
      obtain ⟨q, o⟩ := b
      simp only [best, Bool.or_eq_true, Bool.and_eq_true, beq_iff_eq, decide_eq_true_iff, or_assoc] at h
      exact .inr ⟨q, o, rfl, h⟩

/-! ### Gates -/

/-- The frames that wait go out as the gates of `u` let them. -/
def State.gatesDrain (u : State) (p : Nat) : State := (u.setTxq p []).drainTx p (u.txqOf p) []

theorem State.gateEnd_off (off : s.gclEn p = false) : s.gateEnd p = (s.setGate p GateSt.empty).gatesDrain p := by
  unfold State.gateEnd
  rw [off]
  rfl

section
variable (on : s.gclEn p = true)
include on

theorem State.gateEnd_starts (none : (s.gate p).list = []) : s.gateEnd p = (s.gateStart p).gatesDrain p := by
  unfold State.gateEnd
  simp only [on, none, Bool.not_true, Bool.false_eq_true, List.isEmpty_nil, if_true, if_false]
  rfl

variable (some_ : (s.gate p).list ≠ [])
include some_

theorem State.gateEnd_runs : s.gateEnd p =
    let x := s.gate p
    let start := x.start + ((x.list[x.idx]?).map Prod.snd).getD 0
    (if x.idx + 1 < x.list.length then s.setGate p { x with idx := x.idx + 1, start := start }
      else s.setGate p ⟨s.gclRegs p, 0, start⟩).gatesDrain p := by
  unfold State.gateEnd
  have full : ¬ (s.gate p).list.isEmpty = true := fun empty => some_ (List.isEmpty_iff.mp empty)
  simp only [on, full, Bool.not_true, Bool.false_eq_true, if_false]
  rfl

end

/-! ### Transmit rings -/

theorem leField_one_lt {bs : List Byte} {o : Nat} : leField bs o 1 < 256 := by
  unfold leField
  match bs.drop o with
  | [] => decide
  | b :: _ => exact b.isLt

section
variable {w : Nat}

/-- The descriptor at HEAD. -/
def State.txAt (s : State) (p w : Nat) : Nat :=
  s.rf (rLnkTxbase p w) fLnkTxbaseBase * 64 + 32 * s.rf (rLnkTxhead p w) fLnkTxheadHead

/-- HEAD after this descriptor. -/
def State.txNext (s : State) (p w : Nat) : Nat :=
  (s.rf (rLnkTxhead p w) fLnkTxheadHead + 1) % (16 * 2 ^ s.rf (rLnkTxctl p w) fLnkTxctlSize)

/-- The ring runs and HEAD has not reached the tail. -/
def State.txDue (s : State) (p w : Nat) : Prop :=
  s.portOn p = true ∧ s.rb (rLnkTxctl p w) fLnkTxctlEn = true ∧
    s.rf (rLnkTxhead p w) fLnkTxheadHead ≠ Tab.get natDefault s.lnk.txUpTo (2 * p + w)

/-- A memory that the descriptor is read from, or leads to, is not up yet. -/
def State.txHeld (s : State) (p w : Nat) : Prop :=
  s.spanReady (s.txAt p w) 32 = false ∨
    ∃ d, s.load Paths.plain (.win (worldOf w) true) .rd (s.txAt p w) 32 = .ok d ∧ s.txWaits p w d = true

theorem State.txDescriptor_idle (idle : ¬ s.txDue p w) : s.txDescriptor p w = s := by
  refine if_pos ?_
  unfold State.txDue at idle
  rw [← Bool.not_and, Bool.or_eq_true, Bool.not_eq_true', beq_iff_eq, ← Bool.not_eq_true, Bool.and_eq_true]
  tauto

section
variable (due : s.txDue p w)
include due

theorem State.txDue.passes : ¬ (!s.portOn p || !s.rb (rLnkTxctl p w) fLnkTxctlEn ||
    s.rf (rLnkTxhead p w) fLnkTxheadHead == Tab.get natDefault s.lnk.txUpTo (2 * p + w)) = true := by
  obtain ⟨on, en, more⟩ := due
  rw [on, en, beq_eq_false_iff_ne.mpr more]
  exact Bool.false_ne_true

theorem State.txDescriptor_waits (held : s.txHeld p w) : s.txDescriptor p w = s := by
  refine (if_neg due.passes).trans (if_pos ?_)
  unfold State.txHeld State.txAt at held
  obtain down | ⟨d, loaded, waits⟩ := held
  · rw [down]; rfl
  · simp only [loaded, waits, Bool.or_true]

variable (ready : ¬ s.txHeld p w)
include ready

omit due in
theorem State.txHeld.passes : ¬ (!s.spanReady (s.txAt p w) 32 ||
    (match s.load Paths.plain (.win (worldOf w) true) .rd (s.txAt p w) 32 with
      | .ok d => s.txWaits p w d
      | .error _ => false)) = true := by
  intro waits
  apply ready
  obtain down | waits := Bool.or_eq_true _ _ ▸ waits
  · exact .inl (by simpa using down)
  · split at waits
    · exact .inr ⟨_, by assumption, waits⟩
    · cases waits

/-- HEAD moves on after a descriptor. -/
def State.txOn (s u : State) (p w : Nat) : State := u.setRf (rLnkTxhead p w) fLnkTxheadHead (s.txNext p w)

omit due ready in
/-- A refusal at a stream that the descriptor names, which is below 256. -/
theorem State.txRefused_stream {d : List Byte} :
    s.txRefused p w (leField d 0 1) = txCounted s p w (some (leField d 0 1)) := by
  have small := leField_one_lt (bs := d) (o := 0)
  exact if_neg (by omega)

theorem txDescriptor_unread {u : State} {e : MErr}
    (read : s.readMem Paths.plain (.win (worldOf w) true) (s.txAt p w) 32 = (u, .error e)) :
    s.txDescriptor p w = txRefused u p w (s.txAt p w) (s.txNext p w) 6 none := by
  refine (if_neg due.passes).trans ((if_neg (State.txHeld.passes ready)).trans ?_)
  unfold State.txAt at read
  simp only [read]
  rfl

section
variable {u : State} {d : List Byte} (read : s.readMem Paths.plain (.win (worldOf w) true) (s.txAt p w) 32 = (u, .ok d))
include read

theorem txDescriptor_refused {v : State} {st : Nat} (check : u.txCheck p w d = (v, .error st)) :
    s.txDescriptor p w = txRefused v p w (s.txAt p w) (s.txNext p w) st (some (leField d 0 1)) := by
  refine (if_neg due.passes).trans ((if_neg (State.txHeld.passes ready)).trans ?_)
  unfold State.txAt at read
  simp only [read, check]
  exact State.txRefused_stream

variable {v : State} {pay : List Byte} (check : u.txCheck p w d = (v, .ok pay))
include check

theorem txDescriptor_unbuilt {t : State} {st : Nat} (build : v.txBuild d pay = (t, .error st)) :
    s.txDescriptor p w = txRefused t p w (s.txAt p w) (s.txNext p w) st (some (leField d 0 1)) := by
  refine (if_neg due.passes).trans ((if_neg (State.txHeld.passes ready)).trans ?_)
  unfold State.txAt at read
  simp only [read, check, build]
  exact State.txRefused_stream

theorem State.txDescriptor_sent {t : State} {alive : Nat} (build : v.txBuild d pay = (t, .ok alive)) :
    s.txDescriptor p w =
      let done := t.txStatus p w (s.txAt p w) 1 (some alive)
      let t := done.1.setRf (rLnkTxhead p w) fLnkTxheadHead (s.txNext p w)
      let t := if done.2 = true then t else txCounted t p w (some (leField d 0 1))
      if (leField d 1 1).testBit 1 then t.fire 252 else t := by
  refine (if_neg due.passes).trans ((if_neg (State.txHeld.passes ready)).trans ?_)
  unfold State.txAt at read
  simp only [read, check, build, State.txRefused_stream]
  rfl

end

end

end

end

/-! ### The obligation -/

/-- Settles O50: each event of a port by the lemma of its function, the transmit ring by what its descriptor leads to. -/
theorem portsKeepLinkTimeAndGates : Obligations.PortsKeepLinkTimeAndGates := by
  unfold Obligations.PortsKeepLinkTimeAndGates
  refine ⟨?link, ?sync, ?ptp, ?gates, ?ring⟩
  case link =>
    intro s p speed fec k a pairs sel may
    refine ⟨fun h => congrArg Host.Outcome.next (State.linkUp_eq.trans (if_pos (State.linkMay_iff.mpr h))),
      fun h => congrArg Host.Outcome.next (State.linkUp_eq.trans (if_neg (h ∘ State.linkMay_iff.mp))),
      fun down => congrArg Host.Outcome.next (State.linkDown_down down),
      fun up => congrArg Host.Outcome.next (State.linkDown_up up)⟩
  case sync =>
    intro s p m offset interval k mine v x near
    have signed : toSigned 32 offset.toNat = offset.toInt := by rw [← toInt_ofNat_toSigned, BitVec.ofNat_toNat, BitVec.setWidth_eq]
    have near_iff : (toSigned 32 offset.toNat).natAbs ≤ v.rf (rLnkPtpctl k) fLnkPtpctlSynclim ↔ near := by rw [signed]
    refine ⟨fun other => congrArg Host.Outcome.next (State.gptpSync_other other),
      fun h n few => congrArg Host.Outcome.next (State.gptpSync_counts h (near_iff.mpr n) few),
      fun h n enough => congrArg Host.Outcome.next (State.gptpSync_locks h (near_iff.mpr n) enough), fun h n => ?_⟩
    intro w
    have run := State.gptpSync_far (interval := interval.toNat) h (mt near_iff.mp n)
    have lost : ((v.setPtp k x).setPtp k { (v.setPtp k x).ptp k with good := 0 }) = w := by rw [State.ptp_setPtp]
    refine ⟨fun out => congrArg Host.Outcome.next (run.trans ((State.unsync_out ?_).trans lost)),
      fun in_ => congrArg Host.Outcome.next (run.trans ((State.unsync_in ?_).trans ?_))⟩
    · exact lost ▸ out
    · exact lost ▸ in_
    · exact congrArg (fun t : State => (t.setRf (rLnkPtpstat k) fLnkPtpstatSync 0).flt ⟨.lnk, k, 3, none, 0, k, 0, false⟩) lost
  case ptp =>
    intro s p k
    refine ⟨fun m master => ?_, fun delay => ⟨fun on => congrArg Host.Outcome.next (if_pos on),
      fun off => congrArg Host.Outcome.next (if_neg (Bool.eq_false_iff.mp off))⟩, ?_⟩
    · intro mine better
      refine ⟨fun h b => congrArg Host.Outcome.next (State.announce_better (State.ptpTakes_iff.mpr h) b), fun h => ?_⟩
      obtain other | worse := h
      · exact congrArg Host.Outcome.next (State.announce_other (Bool.eq_false_iff.mpr (mt State.ptpTakes_iff.mp other)))
      · exact congrArg Host.Outcome.next (State.announce_worse worse)
    · intro due w
      exact ⟨fun early => congrArg Host.Outcome.next (if_neg early),
        fun h out => congrArg Host.Outcome.next ((if_pos h).trans (State.unsync_out out)),
        fun h in_ => congrArg Host.Outcome.next ((if_pos h).trans (State.unsync_in in_))⟩
  case gates =>
    intro s p k x now start ends
    have ends_of {u : State} (h : s.gateEnd k = u.gatesDrain k) : ends u := congrArg Host.Outcome.next h
    refine ⟨fun off => ends_of (State.gateEnd_off off), fun on none reached => ?_, fun on none early => ?_,
      fun on some_ more => ?_, fun on some_ last => ?_⟩
    · intro base cycle at'
      exact ends_of ((State.gateEnd_starts on none).trans (congrArg (State.gatesDrain · k) (if_neg (Nat.not_lt.mpr reached))))
    · exact ends_of ((State.gateEnd_starts on none).trans (congrArg (State.gatesDrain · k) (if_pos early)))
    · exact ends_of ((State.gateEnd_runs on some_).trans (congrArg (State.gatesDrain · k) (if_pos more)))
    · exact ends_of ((State.gateEnd_runs on some_).trans (congrArg (State.gatesDrain · k) (if_neg (Nat.not_lt.mpr last))))
  case ring =>
    intro s p w k head next a may waits
    refine ⟨fun h => congrArg Host.Outcome.next ?_, fun due ready u e read =>
      congrArg Host.Outcome.next (txDescriptor_unread due ready read), fun due ready u d read =>
      ⟨fun v st check => congrArg Host.Outcome.next (txDescriptor_refused due ready read check), fun v pay check =>
        ⟨fun t st build => congrArg Host.Outcome.next (txDescriptor_unbuilt due ready read check build),
          fun t alive build => ?_⟩⟩⟩
    · by_cases due : s.txDue k w.idx
      · exact State.txDescriptor_waits due (h.resolve_left (not_not.mpr due))
      · exact State.txDescriptor_idle due
    · have run := State.txDescriptor_sent due ready read check build
      intro done t' t''
      exact ⟨fun cue => congrArg Host.Outcome.next (run.trans (if_pos cue)),
        fun none => congrArg Host.Outcome.next (run.trans (if_neg (Bool.eq_false_iff.mp none)))⟩

end Sys2Proof.Machine

/-! ## Descriptors of the host's rings (R573 to R583) -/

namespace Sys2Proof.Machine

section
variable {s : State} {f n i : Nat}

/-! ### Descriptors that may be carried on, and their end -/

/-- A descriptor has started, or nothing before it holds it up. -/
def mayStart (before : List DescSt) (i : Nat) (e : DescSt) : Prop :=
  e.started = true ∨ ((∀ x ∈ before, x.started = true ∧ x.queueFull = false) ∧ (e.fence = false ∨ i = 0))

theorem mayStart_iff {before : List DescSt} {e : DescSt} : mayStart before i e ↔
    e.started = true ∨ ((before.all fun x => x.started && !x.queueFull) = true ∧ ((!e.fence) = true ∨ i = 0)) := by
  simp only [mayStart, List.all_eq_true, Bool.and_eq_true, Bool.not_eq_true']

theorem State.descAt_empty {typ : Nat} (none : (s.sq f n).descs[i]? = none) : s.descAt f n i typ = .none := by
  simp only [State.descAt, none]

theorem State.descAt_other {typ : Nat} {e : DescSt} (place : (s.sq f n).descs[i]? = some e)
    (other : e.u 0 1 ≠ typ ∨ s.busMaster f = false) : s.descAt f n i typ = none := by
  simp only [State.descAt, place]
  exact if_pos (other.imp_right fun off => by rw [off]; rfl)

theorem State.descAt_mine {typ : Nat} {e : DescSt} (place : (s.sq f n).descs[i]? = some e) (type : e.u 0 1 = typ)
    (master : s.busMaster f = true) : s.descAt f n i typ = if e.started = true ∨
      (((s.sq f n).descs.take i).all (fun x => x.started && !x.queueFull) = true ∧ ((!e.fence) = true ∨ i = 0))
      then some { e with started := true } else none := by
  simp only [State.descAt, place]
  refine (if_neg ?_).trans rfl
  rw [master]
  exact fun h => h.elim (· type) nofun

theorem State.descAt_iff {typ : Nat} {d : DescSt} : s.descAt f n i typ = some d ↔ Carried s f n i typ d := by
  constructor
  · intro at_
    cases place : (s.sq f n).descs[i]? with
    | none =>
      rw [State.descAt_empty place] at at_
      cases at_
    | some e =>
      by_cases other : e.u 0 1 ≠ typ ∨ s.busMaster f = false
      · rw [State.descAt_other place other] at at_
        cases at_
      · obtain ⟨type, master⟩ := not_or.mp other
        rw [State.descAt_mine place (not_not.mp type) (Bool.not_eq_false _ ▸ master)] at at_
        obtain ⟨may, same⟩ := Option.ite_none_right_eq_some.mp at_
        exact ⟨e, place, not_not.mp type, Bool.not_eq_false _ ▸ master, mayStart_iff.mpr may, (Option.some.inj same).symm⟩
  · rintro ⟨e, place, type, master, may, rfl⟩
    rw [State.descAt_mine place type master]
    exact if_pos (mayStart_iff.mp may)

theorem State.descAt_none {typ : Nat} (no : ∀ d, ¬ Carried s f n i typ d) : s.descAt f n i typ = none :=
  Option.eq_none_iff_forall_ne_some.mpr fun d same => no d (State.descAt_iff.mp same)

theorem State.descEnd_ends (d : DescSt) (status d0 d1 : Nat) :
    DescriptorEnded s f n d status d0 d1 (s.descEnd f n d status d0 d1) where
  ends := by
    intro c u posts e
    refine ⟨if d.quiet = true ∧ status = 0 then u else u.cqPost f n e, fun p few => ?_, fun p many => ?_, fun no => ?_, ?_⟩
    · refine (if_neg p.1).trans ((if_pos p.2).trans ?_)
      exact congrArg (u.setCq f c) (if_pos few)
    · refine (if_neg p.1).trans ((if_pos p.2).trans ?_)
      exact congrArg (u.setCq f c) (if_neg (Nat.not_lt.mpr many))
    · by_cases q : d.quiet = true ∧ status = 0
      · exact if_pos q
      · exact (if_neg q).trans (if_neg fun on => no ⟨q, on⟩)
    · exact ⟨fun cue => if_pos cue, fun none => if_neg (Bool.eq_false_iff.mp none)⟩

/-! ### Doorbells -/

section
variable {x : Nat}

theorem State.sqDoorbell_off (off : s.hostOn = false) : s.sqDoorbell f n x = s := if_pos (by rw [off]; rfl)

theorem State.cqDoorbell_off (off : s.hostOn = false) : s.cqDoorbell f n x = s := if_pos (by rw [off]; rfl)

variable (on : s.hostOn = true)
include on

theorem State.sqDoorbell_on : s.sqDoorbell f n x =
    let u := s.setSq f n { s.sq f n with bell := x }
    let size := 16 * 2 ^ s.rf (rHstSqctl f n) fHstSqctlSize
    let head := s.rf (rHstSqstat f n) fHstSqstatHead
    let tail := s.rf (rHstSqstat f n) fHstSqstatTail
    if size ≤ x ∨ (!s.rb (rHstSqctl f n) fHstSqctlEn) = true ∨
        size - 1 < (tail + size - head) % size + (x + size - tail) % size then
      u.flt ⟨.hst, 0, 2, none, 0, 64 * f + n, 0, false⟩
    else u.setRf (rHstSqstat f n) fHstSqstatTail x :=
  if_neg (by rw [on]; exact Bool.false_ne_true)

theorem State.cqDoorbell_on : s.cqDoorbell f n x =
    let v := s.setCq f n { s.cq f n with bell := x }
    if s.rb (rHstCqctl f n) fHstCqctlEn then v.setRf (rHstCqstat f n) fHstCqstatHead x else v :=
  if_neg (by rw [on]; exact Bool.false_ne_true)

end

/-! ### Fetch -/

/-- How far behind the ring served last ring `j` comes. -/
def behindRing (last j : Nat) : Nat := (j + 63 - last % 64) % 64

theorem ring_behind {last j : Nat} (small : j < 64) : (last + 1 + behindRing last j) % 64 = j := by
  unfold behindRing
  omega

theorem behind_ring {last k : Nat} (small : k < 64) : behindRing last ((last + 1 + k) % 64) = k := by
  unfold behindRing
  omega

/-- The first ring, from the one after the last on, that satisfies a test. -/
theorem find_ring {last m : Nat} {can : Nat → Bool} (small : m < 64) :
    ((List.range 64).map fun k => (last + 1 + k) % 64).find? can = some m ↔
      can m = true ∧ ∀ j, j < 64 → can j = true → behindRing last m ≤ behindRing last j := by
  have place : behindRing last m < 64 := Nat.mod_lt _ (by decide)
  have ring (k : Nat) (h : k < ((List.range 64).map fun k => (last + 1 + k) % 64).length) :
      ((List.range 64).map fun k => (last + 1 + k) % 64)[k] = (last + 1 + k) % 64 := by simp
  have size : ((List.range 64).map fun k => (last + 1 + k) % 64).length = 64 := by simp
  rw [List.find?_eq_some_iff_getElem]
  refine and_congr_right fun can_m => ⟨?_, fun first => ⟨behindRing last m, by omega, ?_, fun j before => ?_⟩⟩
  · rintro ⟨k, h, same, earlier⟩ j hj can_j
    rw [ring] at same
    rw [← same, behind_ring (by omega)]
    by_contra less
    have no := earlier (behindRing last j) (by omega)
    rw [ring, ring_behind hj, can_j] at no
    exact Bool.false_ne_true no
  · rw [ring, ring_behind small]
  · rw [ring, Bool.not_eq_true', Bool.eq_false_iff]
    intro can_j
    have later := first _ (Nat.mod_lt _ (by decide)) can_j
    rw [behind_ring (by omega)] at later
    omega

/-- A descriptor of the ring can be fetched. -/
def State.canFetch (s : State) (f n : Nat) : Prop :=
  s.busMaster f = true ∧ s.rb (rHstSqctl f n) fHstSqctlEn = true ∧
    s.rf (rHstSqstat f n) fHstSqstatHead ≠ s.rf (rHstSqstat f n) fHstSqstatTail ∧ (s.sq f n).descs.length < 8 ∧
    (∀ d ∈ (s.sq f n).descs, d.queueFull = false) ∧
    (s.cq f (s.rf (rHstSqctl f n) fHstSqctlCq)).waiting.length < 64

/-- It is the ring's turn. -/
def State.mayFetch (s : State) (f n : Nat) : Prop :=
  s.canFetch f n ∧ (∀ j, j < 64 → s.canFetch f j →
    behindRing (Tab.get servedDefault s.host.served f) n ≤ behindRing (Tab.get servedDefault s.host.served f) j) ∧
  (f = s.host.turn → ∀ j, j < 64 → ¬ s.canFetch (1 - f) j)

theorem State.fetchable_iff : s.fetchable f n = true ↔ s.canFetch f n := by
  simp only [State.fetchable, State.canFetch, Bool.and_eq_true, List.all_eq_true, Bool.not_eq_true', bne_iff_ne, decide_eq_true_iff]
  tauto

theorem State.fetchDue_iff (small : n < 64) : s.fetchDue f n = true ↔ s.mayFetch f n := by
  unfold State.fetchDue State.mayFetch
  simp only [Bool.and_eq_true, Bool.or_eq_true, beq_iff_eq, bne_iff_ne, find_ring small, State.fetchable_iff, List.all_eq_true,
    List.mem_range, Bool.not_eq_true', ← Bool.not_eq_true, and_assoc, ← imp_iff_not_or, ne_eq]

/-- Host memory is all that a read of it looks at. -/
theorem State.hostRead_congr {t : State} (same : t.hostMem = s.hostMem) (a k : Nat) : t.hostRead a k = s.hostRead a k := by
  induction k generalizing a with
  | zero => rfl
  | succ k ih =>
    unfold State.hostRead State.hostByte
    rw [ih, same]

/-- The descriptor that a fetch takes. -/
def State.fetched (s : State) (f n : Nat) : DescSt :=
  ⟨(s.sq f n).nextId, s.hostRead (s.rf (rHstSqbase f n) fHstSqbaseBase * 64 + 64 * s.rf (rHstSqstat f n) fHstSqstatHead) 64,
    (s.rf (rHstSqstat f n) fHstSqstatHead + 1) % (16 * 2 ^ s.rf (rHstSqctl f n) fHstSqctlSize), false, 0, none, 0, 0, none, none, s.time⟩

/-- The state once the descriptor is in the ring. -/
def State.descTaken (s : State) (f n : Nat) : State :=
  (State.setSq { s with host := { s.host with turn := f, served := Tab.set servedDefault s.host.served f n } } f n
    { s.sq f n with descs := (s.sq f n).descs ++ [s.fetched f n], nextId := (s.sq f n).nextId + 1 }).setRf (rHstSqstat f n) fHstSqstatHead
      ((s.rf (rHstSqstat f n) fHstSqstatHead + 1) % (16 * 2 ^ s.rf (rHstSqctl f n) fHstSqctlSize))

theorem State.descFetch_stays (no : ¬ s.fetchDue f n = true) : s.descFetch f n = s :=
  if_pos (by rw [Bool.eq_false_iff.mpr no]; rfl)

theorem State.descFetch_fetches (due : s.fetchDue f n = true) : s.descFetch f n =
    if (s.fetched f n).formOk then s.descTaken f n else (s.descTaken f n).descEnd f n (s.fetched f n) 3 0 0 := by
  have bytes := State.hostRead_congr (s := s)
    (t := { s with host := { s.host with turn := f, served := Tab.set servedDefault s.host.served f n } }) rfl
    (s.rf (rHstSqbase f n) fHstSqbaseBase * 64 + 64 * s.rf (rHstSqstat f n) fHstSqstatHead) 64
  unfold State.descTaken State.fetched
  rw [← bytes]
  exact if_neg (by rw [due]; exact Bool.false_ne_true)

/-! ### RUN -/

section
variable {d : DescSt}

theorem State.runDesc_none (no : s.descAt f n i 1 = none) : s.runDesc f n i = s := by
  unfold State.runDesc
  rw [no]

section
variable (at_ : s.descAt f n i 1 = some d)
include at_

theorem State.runDesc_rejected (rejected : d.rej ≠ none) : s.runDesc f n i = s := by
  unfold State.runDesc
  rw [at_]
  exact if_pos (Option.isSome_iff_ne_none.mpr rejected)

variable (going : d.rej = none)
include going

omit at_ in
theorem DescSt.unrejected : ¬ d.rej.isSome = true := by
  rw [going]
  exact Bool.false_ne_true

theorem State.runDesc_waits (waits : d.list = none ∧ d.u 0x17 1 ≠ 0 ∧ s.spanReady (d.u 8 8) (d.u 0x10 4) = false) :
    s.runDesc f n i = s.setDesc f n d := by
  obtain ⟨unread, device, down⟩ := waits
  unfold State.runDesc
  rw [at_]
  refine (if_neg (DescSt.unrejected going)).trans (if_pos ?_)
  rw [unread, bne_iff_ne.mpr device, down]
  rfl

/-- What is left once the list of a RUN has been read. -/
def State.runTakes (s : State) (f n : Nat) (d : DescSt) (l : List Byte) : State :=
  match splitOrders (d.u 0x14 2) l with
  | none => s.descEnd f n d 3 0 0
  | some os =>
    let d := { d with list := some l }
    let (s, d) := (s.setDesc f n d).runIssue f n d d.issued (os.drop d.issued)
    ((s.setDesc f n d).runSettle f n d).settle (d.u 0x16 1)

omit at_ going in
theorem State.runTakes_undecodable {l : List Byte} (bad : splitOrders (d.u 0x14 2) l = none) :
    s.runTakes f n d l = s.descEnd f n d 3 0 0 := by
  simp only [State.runTakes, bad]

omit at_ going in
theorem State.runTakes_issues {l : List Byte} {os : List OrderD} (good : splitOrders (d.u 0x14 2) l = some os) {u : State} {e : DescSt}
    (issue : (s.setDesc f n { d with list := some l }).runIssue f n { d with list := some l } d.issued (os.drop d.issued) = (u, e)) :
    s.runTakes f n d l = ((u.setDesc f n e).runSettle f n e).settle (e.u 0x16 1) := by
  simp only [State.runTakes, good, issue]

variable (ready : ¬ (d.list = none ∧ d.u 0x17 1 ≠ 0 ∧ s.spanReady (d.u 8 8) (d.u 0x10 4) = false)) {l : List Byte}
include ready

theorem State.runDesc_takes (list : d.list = some l ∨ (d.list = none ∧ s.runList f d = .ok l)) : s.runDesc f n i =
    (if d.list = none ∧ d.u 0x17 1 ≠ 0 then s.listNote f d l.length else s).runTakes f n d l := by
  have noted : (d.list.isNone && d.u 0x17 1 != 0) = true ↔ d.list = none ∧ d.u 0x17 1 ≠ 0 := by
    rw [Bool.and_eq_true, Option.isNone_iff_eq_none, bne_iff_ne]
  have goes : ¬ (d.list.isNone && d.u 0x17 1 != 0 && !s.spanReady (d.u 8 8) (d.u 0x10 4)) = true := by
    rw [Bool.and_eq_true, noted, Bool.not_eq_true', and_assoc]
    exact ready
  unfold State.runDesc
  rw [at_]
  refine (if_neg (DescSt.unrejected going)).trans ((if_neg goes).trans ?_)
  obtain known | ⟨unread, read⟩ := list
  · simp only [known, Option.isNone_some, Bool.false_and, Bool.false_eq_true, if_false, reduceCtorEq, false_and]
    rfl
  · simp only [unread, read, Option.isNone_none, Bool.true_and, bne_iff_ne, true_and]
    rfl

end

end

/-! ### NOTE, CONFIG-STAGE, ARCHIVE-READ -/

section
variable {d : DescSt}

theorem State.noteDesc_none (no : s.descAt f n i 5 = none) : s.noteDesc f n i = s := by
  unfold State.noteDesc
  rw [no]

theorem State.noteDesc_ends (at_ : s.descAt f n i 5 = some d) : s.noteDesc f n i = s.descEnd f n d 0 (d.u 8 8) 0 := by
  unfold State.noteDesc
  rw [at_]

theorem State.configStage_none (no : s.descAt f n i 4 = none) : s.configStage f n i = s := by
  unfold State.configStage
  rw [no]

section
variable (at_ : s.descAt f n i 4 = some d)
include at_

theorem State.configStage_refused (other : f ≠ 0 ∨ s.rb rHstCfgctl fHstCfgctlStageen = false) :
    s.configStage f n i = s.descEnd f n d 7 0 0 := by
  unfold State.configStage
  rw [at_]
  exact if_pos (other.imp_right fun off => by rw [off]; rfl)

variable (pf0 : f = 0) (may : s.rb rHstCfgctl fHstCfgctlStageen = true)
include pf0 may

omit at_ in
theorem State.configStage_may : ¬ (f ≠ 0 ∨ (!s.rb rHstCfgctl fHstCfgctlStageen) = true) := by
  rw [may]
  exact fun h => h.elim (· pf0) nofun

theorem State.configStage_waits (busy : s.cfg.run ≠ none) : s.configStage f n i = s.setDesc f n d := by
  unfold State.configStage
  rw [at_]
  exact (if_neg (State.configStage_may pf0 may)).trans (if_pos (Option.isSome_iff_ne_none.mpr busy))

theorem State.configStage_stages (idle : s.cfg.run = none) : s.configStage f n i =
    (s.stage (d.u 0x14 4) (s.hostRead (d.u 8 8) (d.u 0x10 4))).descEnd f n d 0 (d.u 0x10 4) 0 := by
  unfold State.configStage
  rw [at_]
  exact (if_neg (State.configStage_may pf0 may)).trans (if_neg (by rw [idle]; exact Bool.false_ne_true))

end

theorem State.archiveDesc_none {m : Nat} (no : s.descAt f n i 3 = none) : s.archiveDesc f n i m = s := by
  unfold State.archiveDesc
  rw [no]

theorem State.archiveDesc_reads {m : Nat} (at_ : s.descAt f n i 3 = some d) : s.archiveDesc f n i m = s.archiveRead f n d m := by
  unfold State.archiveDesc
  rw [at_]

variable {m : Nat}

theorem State.archiveRead_whole (whole : d.moved = d.u 0x18 8) : s.archiveRead f n d (m + 1) = s.descEnd f n d 0 d.moved 0 :=
  if_pos whole

section
variable (more : d.moved ≠ d.u 0x18 8)
include more

theorem State.archiveRead_waits
    (wait : s.arcByte s.belows f (d.u 8 8) (d.u 0x10 8) d.moved (d.u 0x18 8) (d.moved == 0) = .wait) :
    s.archiveRead f n d (m + 1) = s.setDesc f n d := by
  rw [State.archiveRead, if_neg more, wait]

theorem State.archiveRead_byte {b : Byte}
    (byte : s.arcByte s.belows f (d.u 8 8) (d.u 0x10 8) d.moved (d.u 0x18 8) (d.moved == 0) = .byte b) :
    s.archiveRead f n d (m + 1) =
      if d.moved + 1 = d.u 0x18 8 then
        (s.hostWrite (d.u 0x20 8 + d.moved) [b]).descEnd f n { d with moved := d.moved + 1 } 0 (d.u 0x18 8) 0
      else (s.hostWrite (d.u 0x20 8 + d.moved) [b]).archiveRead f n { d with moved := d.moved + 1 } m := by
  rw [State.archiveRead, if_neg more, byte]

theorem State.archiveRead_stops {c : Nat} (other : c ≠ 0xC)
    (stop : s.arcByte s.belows f (d.u 8 8) (d.u 0x10 8) d.moved (d.u 0x18 8) (d.moved == 0) = .stop c) :
    s.archiveRead f n d (m + 1) =
      s.descEnd f n d 6 d.moved (c % 16 + 2 ^ 8 * ((d.u 0x10 8 + d.moved) % 2 ^ 56)) := by
  rw [State.archiveRead, if_neg more, stop]
  dsimp only
  cases s.arcFind s.belows f (d.u 8 8) with
  | none => rfl
  | some x =>
    have quiet : ¬ (c = 0xC ∧ d.moved = 0 ∧ s.rb rArcCtl fArcCtlVerify = true ∧
        (s.log x.1).verifyFails x.2 (d.u 0x10 8) (d.u 0x18 8) = true) := fun h => other h.1
    obtain ⟨l, col⟩ := x
    dsimp only
    rw [if_neg quiet]

end

end

end

end Sys2Proof.Machine

/-! ## Completions and the enabling of rings (R572, R584 to R588) -/

namespace Sys2Proof.Machine

section
variable {s : State} {f n : Nat}

/-! ### Completions -/

/-- The host can be reached, and the completion ring is enabled. -/
def State.cqRuns (s : State) (f n : Nat) : Prop := s.busMaster f = true ∧ s.rb (rHstCqctl f n) fHstCqctlEn = true

/-- The place after the tail. -/
def State.cqNext (s : State) (f n : Nat) : Nat :=
  (s.rf (rHstCqstat f n) fHstCqstatTail + 1) % (16 * 2 ^ s.rf (rHstCqctl f n) fHstCqctlSize)

theorem State.cqWrite_empty (none : (s.cq f n).waiting = []) : s.cqWrite f n = s := by
  unfold State.cqWrite
  simp only [none]

theorem State.cqWrite_stays (h : ¬ s.cqRuns f n ∨ s.cqNext f n = s.rf (rHstCqstat f n) fHstCqstatHead) : s.cqWrite f n = s := by
  unfold State.cqWrite
  dsimp only
  split
  · rfl
  · refine if_pos ?_
    rw [← Bool.not_and, Bool.or_eq_true, Bool.not_eq_true', ← Bool.not_eq_true, Bool.and_eq_true, beq_iff_eq]
    exact h

/-- The ring once the oldest entry has been written. -/
def CqSt.written (x : CqSt) (rest : List (List Byte)) (time : Nat) : CqSt :=
  { x with
    waiting := rest ++ x.extra.take 1
    extra := x.extra.drop 1
    count := x.count + 1
    since := some (x.since.getD time) }

/-- The entry is in host memory, and the tail has moved on; where it wraps, the phase turns. -/
def State.entryWritten (s : State) (f n : Nat) (e : List Byte) : State :=
  let phase := s.rf (rHstCqstat f n) fHstCqstatPhase
  let t := (s.hostWrite (s.rf (rHstCqbase f n) fHstCqbaseBase * 64 + 64 * s.rf (rHstCqstat f n) fHstCqstatTail)
    (e ++ leBytes 1 phase)).setRf (rHstCqstat f n) fHstCqstatTail (s.cqNext f n)
  if s.cqNext f n = 0 then t.setRf (rHstCqstat f n) fHstCqstatPhase (1 - phase) else t

theorem State.cqWrite_writes {e : List Byte} {rest : List (List Byte)} (first : (s.cq f n).waiting = e :: rest)
    (runs : s.cqRuns f n) (room : s.cqNext f n ≠ s.rf (rHstCqstat f n) fHstCqstatHead) : s.cqWrite f n =
    let u := s.entryWritten f n e
    let v := u.setCq f n ((s.cq f n).written rest u.time)
    if v.rb (rHstCqctl f n) fHstCqctlIrqen &&
        (decide (v.rf (rHstCqctl f n) fHstCqctlCoalcnt ≤ (s.cq f n).count + 1) || v.rf (rHstCqctl f n) fHstCqctlCoalus == 0) then
      v.cqIrq f n
    else v := by
  have goes : ¬ (!s.busMaster f || !s.rb (rHstCqctl f n) fHstCqctlEn || s.cqNext f n == s.rf (rHstCqstat f n) fHstCqstatHead) = true := by
    rw [runs.1, runs.2, beq_eq_false_iff_ne.mpr room]
    exact Bool.false_ne_true
  unfold State.cqWrite
  simp only [first]
  exact if_neg goes

theorem State.coalesce_idle (none : (s.cq f n).since = .none) : s.coalesce f n = s := by
  unfold State.coalesce
  simp only [none]

theorem State.coalesce_eq {t : Nat} (since : (s.cq f n).since = some t) : s.coalesce f n =
    if s.busMaster f && s.rb (rHstCqctl f n) fHstCqctlEn && s.rb (rHstCqctl f n) fHstCqctlIrqen && decide (0 < (s.cq f n).count) &&
        decide (t + s.rf (rHstCqctl f n) fHstCqctlCoalus ≤ s.time) then s.cqIrq f n
    else s := by
  unfold State.coalesce
  simp only [since]

end

/-! ### Rings are enabled and disabled -/

theorem located_hstSqctl : ∀ (f : World) (n : BitVec 6), located (rHstSqctl f.idx n.toNat) .hstSqctl 0 f.idx n.toNat false = true ∧
    inBlock (rHstSqctl f.idx n.toNat) .hst = true := by
  intro f n
  cases f <;> revert n <;> decide

theorem located_hstCqctl : ∀ (f : World) (n : BitVec 6), located (rHstCqctl f.idx n.toNat) .hstCqctl 0 f.idx n.toNat false = true ∧
    inBlock (rHstCqctl f.idx n.toNat) .hst = true := by
  intro f n
  cases f <;> revert n <;> decide

/-- The enable bit of a ring. -/
theorem State.rb_first {s : State} {r : Nat} : s.rb r ⟨0, 1⟩ = (s.reg r).bit 0 := by
  unfold State.rb State.rf Word.fld Word.bit BitVec.getLsbD
  rw [pow_zero, Nat.div_one, pow_one, Nat.testBit_zero, beq_eq_decide]

/-- A write would change a field of `mask` in a ring that is enabled. -/
def State.ringFixed (s : State) (a : RegAt) (r : Nat) (mask w : Word) : Prop :=
  s.rb r ⟨0, 1⟩ = true ∧ (s.wouldBe a w (BitVec.allOnes 64) ^^^ s.reg r) &&& mask ≠ 0

section
variable {s : State} {m : Master} {f : World} {n : BitVec 6} {a : RegAt} {w : Word}

theorem State.ringFixed_iff {r : Nat} {mask : Word} : s.ringFixed a r mask w ↔
    ((s.reg r).bit 0 && ((s.wouldBe a w (BitVec.allOnes 64) ^^^ s.reg r) &&& mask) != 0) = true := by
  rw [State.ringFixed, State.rb_first, Bool.and_eq_true, bne_iff_ne]

/-! Submission rings -/

section
variable (h : Reaches s m (rHstSqctl f.idx n.toNat) a)
include h

theorem Reaches.write_hstSqctl_held (held : s.ringFixed a (rHstSqctl f.idx n.toNat) (maskOf 1 4 ||| maskOf 8 6) w) :
    s.write m (rHstSqctl f.idx n.toNat) w = s.locked .hst 0 := by
  obtain ⟨l, block⟩ := located_hstSqctl f n
  obtain ⟨reg, inst, -, -, -, at_⟩ := h.at l
  have blk : a.blk = .hst := Reaches.block h block
  have fixed := State.ringFixed_iff.mp held
  refine Reaches.alone_located h l (by decide) ?_
  simp only [State.writeAlone, reg, inst, at_, blk, fixed, Bool.not_true, Bool.false_eq_true, if_false]

theorem Reaches.write_hstSqctl_free (free : ¬ s.ringFixed a (rHstSqctl f.idx n.toNat) (maskOf 1 4 ||| maskOf 8 6) w) :
    s.write m (rHstSqctl f.idx n.toNat) w =
      (s.storeReg (s.auth m).src a w (BitVec.allOnes 64) false).sqctlPost f.idx n.toNat (s.reg (rHstSqctl f.idx n.toNat)) := by
  obtain ⟨l, -⟩ := located_hstSqctl f n
  obtain ⟨reg, -, i, j, -, at_⟩ := h.at l
  have open_ := Bool.eq_false_iff.mpr (mt State.ringFixed_iff.mpr free)
  rw [Reaches.stores_located h l (by decide) w
    (by simp only [State.writeAlone, reg, at_, open_, Bool.not_false, if_true])]
  simp only [State.wrote, reg, i, j]

end

/-! Completion rings -/

section
variable (h : Reaches s m (rHstCqctl f.idx n.toNat) a)
include h

theorem Reaches.write_hstCqctl_held (held : s.ringFixed a (rHstCqctl f.idx n.toNat) (maskOf 1 4) w) :
    s.write m (rHstCqctl f.idx n.toNat) w = s.locked .hst 0 := by
  obtain ⟨l, block⟩ := located_hstCqctl f n
  obtain ⟨reg, inst, -, -, -, at_⟩ := h.at l
  have blk : a.blk = .hst := Reaches.block h block
  have fixed := State.ringFixed_iff.mp held
  refine Reaches.alone_located h l (by decide) ?_
  simp only [State.writeAlone, reg, inst, at_, blk, fixed, Bool.not_true, Bool.false_eq_true, if_false]

theorem Reaches.write_hstCqctl_free (free : ¬ s.ringFixed a (rHstCqctl f.idx n.toNat) (maskOf 1 4) w) :
    s.write m (rHstCqctl f.idx n.toNat) w =
      (s.storeReg (s.auth m).src a w (BitVec.allOnes 64) false).cqctlPost f.idx n.toNat (s.reg (rHstCqctl f.idx n.toNat)) := by
  obtain ⟨l, -⟩ := located_hstCqctl f n
  obtain ⟨reg, -, i, j, -, at_⟩ := h.at l
  have open_ := Bool.eq_false_iff.mpr (mt State.ringFixed_iff.mpr free)
  rw [Reaches.stores_located h l (by decide) w
    (by simp only [State.writeAlone, reg, at_, open_, Bool.not_false, if_true])]
  simp only [State.wrote, reg, i, j]

end

end

section
variable {s : State} {f n : Nat} {old : Word}

theorem State.sqctlPost_enabled (was : old.bit 0 = false) (now : s.rb (rHstSqctl f n) fHstSqctlEn = true) : s.sqctlPost f n old =
    (s.setRf (rHstSqstat f n) fHstSqstatHead 0).setRf (rHstSqstat f n) fHstSqstatTail 0 := by
  unfold State.sqctlPost
  rw [now, was]
  rfl

theorem State.sqctlPost_same (same : old.bit 0 = s.rb (rHstSqctl f n) fHstSqctlEn) : s.sqctlPost f n old = s := by
  unfold State.sqctlPost
  rw [same]
  cases s.rb (rHstSqctl f n) fHstSqctlEn <;> rfl

theorem State.sqctlPost_disabled (was : old.bit 0 = true) (now : s.rb (rHstSqctl f n) fHstSqctlEn = false) :
    s.sqctlPost f n old = s.sqAbort f n := by
  unfold State.sqctlPost
  rw [now, was]
  rfl

theorem State.cqctlPost_enabled (was : old.bit 0 = false) (now : s.rb (rHstCqctl f n) fHstCqctlEn = true) : s.cqctlPost f n old =
    let t := ((s.setRf (rHstCqstat f n) fHstCqstatHead 0).setRf (rHstCqstat f n) fHstCqstatTail 0).setRf (rHstCqstat f n)
      fHstCqstatPhase 1
    t.setCq f n { t.cq f n with waiting := [], extra := [], count := 0, since := none } := by
  unfold State.cqctlPost
  rw [now, was]
  rfl

theorem State.cqctlPost_same (same : old.bit 0 = s.rb (rHstCqctl f n) fHstCqctlEn) : s.cqctlPost f n old = s := by
  unfold State.cqctlPost
  rw [same]
  cases s.rb (rHstCqctl f n) fHstCqctlEn <;> rfl

theorem State.cqctlPost_disabled (was : old.bit 0 = true) (now : s.rb (rHstCqctl f n) fHstCqctlEn = false) :
    s.cqctlPost f n old = s.setCq f n { s.cq f n with waiting := [], extra := [] } := by
  unfold State.cqctlPost
  rw [now, was]
  rfl

end

/-! ### The obligation -/

/-- Settles O53: each command by the lemma of its function; a descriptor that may not go on stays, one that ends ends by `descEnd`. -/
theorem hostRingsCarryDescriptors : Obligations.HostRingsCarryDescriptors := by
  unfold Obligations.HostRingsCarryDescriptors
  refine ⟨?doorbells, ?fetch, ?carry, ?completions, ?enables⟩
  case doorbells =>
    intro s f n x g k
    refine ⟨fun off => ⟨congrArg Host.Outcome.next (State.sqDoorbell_off off), congrArg Host.Outcome.next (State.cqDoorbell_off off)⟩,
      fun on => ?_⟩
    intro u size head tail bad
    have sq := State.sqDoorbell_on (f := g) (n := k) (x := x.toNat) on
    have cq := State.cqDoorbell_on (f := g) (n := k) (x := x.toNat) on
    have bad_iff : (size ≤ x.toNat ∨ (!s.rb (rHstSqctl g k) fHstSqctlEn) = true ∨
        size - 1 < (tail + size - head) % size + (x.toNat + size - tail) % size) ↔ bad := by
      rw [Bool.not_eq_true']
    exact ⟨fun b => congrArg Host.Outcome.next (sq.trans (if_pos (bad_iff.mpr b))),
      fun b => congrArg Host.Outcome.next (sq.trans (if_neg (mt bad_iff.mp b))),
      fun off => congrArg Host.Outcome.next (cq.trans (if_neg (Bool.eq_false_iff.mp off))),
      fun en => congrArg Host.Outcome.next (cq.trans (if_pos en))⟩
  case fetch =>
    intro s f n g k q head can behind may next d served u
    have due : s.fetchDue g k = true ↔ may := State.fetchDue_iff n.isLt
    refine ⟨fun no => congrArg Host.Outcome.next (State.descFetch_stays (mt due.mp no)),
      fun h ok => congrArg Host.Outcome.next ((State.descFetch_fetches (due.mpr h)).trans (if_pos ok)),
      fun h bad => ⟨_, congrArg Host.Outcome.next ((State.descFetch_fetches (due.mpr h)).trans (if_neg (Bool.eq_false_iff.mp bad))),
        State.descEnd_ends ..⟩⟩
  case carry =>
    intro s f n i g k
    refine ⟨fun no => congrArg Host.Outcome.next (State.runDesc_none (State.descAt_none no)), fun d h => ?_,
      fun no => congrArg Host.Outcome.next (State.noteDesc_none (State.descAt_none no)),
      fun d h => ⟨_, congrArg Host.Outcome.next (State.noteDesc_ends (State.descAt_iff.mpr h)), State.descEnd_ends ..⟩,
      fun no => congrArg Host.Outcome.next (State.configStage_none (State.descAt_none no)), fun d h => ?_,
      fun m no => congrArg Host.Outcome.next (State.archiveDesc_none (State.descAt_none no)), fun d h => ?_⟩
    · have at_ := State.descAt_iff.mpr h
      refine ⟨fun rejected => congrArg Host.Outcome.next (State.runDesc_rejected at_ rejected), ?_⟩
      intro waits
      refine ⟨fun going w => congrArg Host.Outcome.next (State.runDesc_waits at_ going w), fun going ready l list => ?_⟩
      have run := State.runDesc_takes at_ going ready list
      intro v
      exact ⟨fun bad => ⟨_, congrArg Host.Outcome.next (run.trans (State.runTakes_undecodable bad)), State.descEnd_ends ..⟩,
        fun os good => fun u e issue => congrArg Host.Outcome.next (run.trans (State.runTakes_issues good issue))⟩
    · have at_ := State.descAt_iff.mpr h
      exact ⟨fun other => ⟨_, congrArg Host.Outcome.next (State.configStage_refused at_ other), State.descEnd_ends ..⟩,
        fun pf0 may busy => congrArg Host.Outcome.next (State.configStage_waits at_ pf0 may busy),
        fun pf0 may idle => ⟨_, congrArg Host.Outcome.next (State.configStage_stages at_ pf0 may idle), State.descEnd_ends ..⟩⟩
    · have reads {m : Nat} : exec (.archiveRead f n i m) s = .next (s.archiveRead g k d m) :=
        congrArg Host.Outcome.next (State.archiveDesc_reads (State.descAt_iff.mpr h))
      intro len
      refine ⟨reads, fun m whole => ⟨_, reads.trans (congrArg _ (State.archiveRead_whole whole)), State.descEnd_ends ..⟩,
        fun m more wait => reads.trans (congrArg _ (State.archiveRead_waits more wait)), fun m b more byte => ?_,
        fun m c more stop other => ⟨_, reads.trans (congrArg _ (State.archiveRead_stops more other stop)), State.descEnd_ends ..⟩⟩
      intro u e
      have run := State.archiveRead_byte (n := k) (m := m) more byte
      exact ⟨fun last => ⟨_, reads.trans (congrArg _ (run.trans (if_pos last))), State.descEnd_ends ..⟩,
        fun on => reads.trans (congrArg _ (run.trans (if_neg on)))⟩
  case completions =>
    intro s f n g k x ctl stat tail next may
    refine ⟨fun none => congrArg Host.Outcome.next (State.cqWrite_empty none), fun h => congrArg Host.Outcome.next (State.cqWrite_stays h),
      fun e rest first runs room => ?_, fun none => congrArg Host.Outcome.next (State.coalesce_idle none), fun t since => ?_⟩
    · have run := State.cqWrite_writes first runs room
      intro phase
      refine ⟨s.entryWritten g k e, fun on => if_neg on, fun wraps => (if_pos wraps).trans ?_, ?_⟩
      · rw [show s.cqNext g k = 0 from wraps]
      · intro v due
        have due_iff : (v.rb ctl fHstCqctlIrqen && (decide (v.rf ctl fHstCqctlCoalcnt ≤ x.count + 1) ||
            v.rf ctl fHstCqctlCoalus == 0)) = true ↔ due := by
          rw [Bool.and_eq_true, Bool.or_eq_true, decide_eq_true_iff, beq_iff_eq]
        exact ⟨fun no => congrArg Host.Outcome.next (run.trans (if_neg (mt due_iff.mp no))),
          fun d => congrArg Host.Outcome.next (run.trans (if_pos (due_iff.mpr d)))⟩
    · have run := State.coalesce_eq since
      intro due
      have due_iff : (s.busMaster g && s.rb ctl fHstCqctlEn && s.rb ctl fHstCqctlIrqen && decide (0 < x.count) &&
          decide (t + s.rf ctl fHstCqctlCoalus ≤ s.time)) = true ↔ due := by
        simp only [Bool.and_eq_true, decide_eq_true_iff, and_assoc]
        exact (and_assoc (a := s.busMaster g = true)).symm
      exact ⟨fun no => congrArg Host.Outcome.next (run.trans (if_neg (mt due_iff.mp no))),
        fun d => congrArg Host.Outcome.next (run.trans (if_pos (due_iff.mpr d)))⟩
  case enables =>
    intro s m f n v a g k on off stored fixed
    refine ⟨fun h => ?_, fun h => ?_⟩
    · intro r held
      have was {b : Bool} (old : s.rb r ⟨0, 1⟩ = b) : (s.reg r).bit 0 = b := State.rb_first ▸ old
      have stores {w : Word} (free : ¬ held w) {t : State} (post : (stored w).sqctlPost g k (s.reg r) = t) : s.write m r w = t :=
        (Reaches.write_hstSqctl_free h free).trans post
      exact ⟨fun b => congrArg Host.Outcome.next (Reaches.write_hstSqctl_held h b),
        fun b => congrArg Host.Outcome.next (Reaches.write_hstSqctl_held h b),
        fun free old new => congrArg Host.Outcome.next (stores free (State.sqctlPost_enabled (was old) new)),
        fun free old new => congrArg Host.Outcome.next (stores free (State.sqctlPost_same ((was old).trans new.symm))),
        fun free old new => congrArg Host.Outcome.next (stores free (State.sqctlPost_same ((was old).trans new.symm))),
        fun free old new => congrArg Host.Outcome.next (stores free (State.sqctlPost_disabled (was old) new))⟩
    · intro r held t t'
      have was {b : Bool} (old : s.rb r ⟨0, 1⟩ = b) : (s.reg r).bit 0 = b := State.rb_first ▸ old
      have stores {w : Word} (free : ¬ held w) {t : State} (post : (stored w).cqctlPost g k (s.reg r) = t) : s.write m r w = t :=
        (Reaches.write_hstCqctl_free h free).trans post
      exact ⟨fun b => congrArg Host.Outcome.next (Reaches.write_hstCqctl_held h b),
        fun b => congrArg Host.Outcome.next (Reaches.write_hstCqctl_held h b),
        fun free old new => congrArg Host.Outcome.next (stores free (State.cqctlPost_enabled (was old) new)),
        fun free old new => congrArg Host.Outcome.next (stores free (State.cqctlPost_same ((was old).trans new.symm))),
        fun free old new => congrArg Host.Outcome.next (stores free (State.cqctlPost_same ((was old).trans new.symm))),
        fun free old new => congrArg Host.Outcome.next (stores free (State.cqctlPost_disabled (was old) new))⟩

end Sys2Proof.Machine

/-! ## Copies between host and device (R576, R578 to R580) -/

namespace Sys2Proof.Machine

section
variable {s : State} {f n i m : Nat} {d : DescSt}

theorem State.copyAt_iff {dir kind : Nat} : s.copyAt f n i dir kind = some d ↔ CopyCarried s f n i dir kind d := by
  unfold State.copyAt CopyCarried
  rw [← State.descAt_iff]
  cases s.descAt f n i 2 with
  | none => exact iff_of_false nofun fun h => nomatch h.1
  | some e =>
    dsimp only
    rw [Option.ite_none_right_eq_some]
    constructor
    · rintro ⟨copies, same⟩
      cases same
      exact ⟨rfl, copies⟩
    · rintro ⟨same, copies⟩
      cases same
      exact ⟨copies, rfl⟩

theorem State.copyAt_none {dir kind : Nat} (no : ∀ d, ¬ CopyCarried s f n i dir kind d) : s.copyAt f n i dir kind = none :=
  Option.eq_none_iff_forall_ne_some.mpr fun d same => no d (State.copyAt_iff.mp same)

/-- A copy that has moved on ends at its length, or stays. -/
theorem State.copyNext_moved {before : Nat} : CopyMoved s f n d m (s.copyNext f n { d with moved := before } m) := by
  refine ⟨fun whole => ?_, fun more => if_neg more⟩
  rw [State.copyNext, if_pos (show m = DescSt.u { d with moved := before } 0x18 8 from whole)]
  exact State.descEnd_ends ..

/-! ### Device memory -/

theorem State.copyIn_none (no : s.copyAt f n i 0 0 = none) : s.copyIn f n i m = s := by
  unfold State.copyIn
  rw [no]

section
variable (at_ : s.copyAt f n i 0 0 = some d) (memory : ∀ c, s.target (d.u 0x10 8 + d.moved) ≠ .cfg c)
include at_ memory

/-- A copy into memory. -/
theorem State.copyIn_memory : s.copyIn f n i m =
    if !s.spanReady (d.u 0x10 8 + d.moved) (min m (d.u 0x18 8 - d.moved)) then s.setDesc f n d
    else
      let x := s.storeSome (funView f) (d.u 0x10 8) (d.u 0x18 8) (d.u 0x10 8 + d.moved) (min m (d.u 0x18 8 - d.moved))
      let u := if x.1 = 0 then s else s.storeIn (d.u 0x10 8) (d.u 0x18 8) (funView f) (d.u 0x10 8 + d.moved)
        (s.hostRead (d.u 8 8 + d.moved) x.1)
      let e := { d with moved := d.moved + x.1 }
      x.2.elim (u.copyNext f n e e.moved) fun err => u.descAccess f n e err (d.u 0x10 8 + d.moved + x.1) := by
  unfold State.copyIn
  rw [at_]
  dsimp only
  split
  case h_1 c target => exact absurd target (memory c)
  case h_2 =>
    refine if_congr Iff.rfl rfl ?_
    generalize s.storeSome (funView f) (d.u 0x10 8) (d.u 0x18 8) (d.u 0x10 8 + d.moved) (min m (d.u 0x18 8 - d.moved)) = x
    obtain ⟨j, e⟩ := x
    cases e <;> rfl

theorem State.copyIn_waits (down : s.spanReady (d.u 0x10 8 + d.moved) (min m (d.u 0x18 8 - d.moved)) = false) :
    s.copyIn f n i m = s.setDesc f n d :=
  (State.copyIn_memory at_ memory).trans (if_pos (by rw [down]; rfl))

theorem State.copyIn_moves {j : Nat} (up : s.spanReady (d.u 0x10 8 + d.moved) (min m (d.u 0x18 8 - d.moved)) = true)
    (store : s.storeSome (funView f) (d.u 0x10 8) (d.u 0x18 8) (d.u 0x10 8 + d.moved) (min m (d.u 0x18 8 - d.moved)) = (j, none))
    (some_ : 0 < j) : s.copyIn f n i m = (s.storeIn (d.u 0x10 8) (d.u 0x18 8) (funView f) (d.u 0x10 8 + d.moved)
      (s.hostRead (d.u 8 8 + d.moved) j)).copyNext f n { d with moved := d.moved + j } (d.moved + j) := by
  refine (State.copyIn_memory at_ memory).trans ((if_neg (by rw [up]; exact Bool.false_ne_true)).trans ?_)
  simp only [store, if_neg (Nat.pos_iff_ne_zero.mp some_), Option.elim_none]

end

theorem State.copyOut_none (no : s.copyAt f n i 1 0 = none) : s.copyOut f n i m = s := by
  unfold State.copyOut
  rw [no]

section
variable (at_ : s.copyAt f n i 1 0 = some d) (memory : ∀ c, s.target (d.u 8 8 + d.moved) ≠ .cfg c)
include at_ memory

/-- A copy out of memory. -/
theorem State.copyOut_memory : s.copyOut f n i m =
    if !s.spanReady (d.u 8 8 + d.moved) (min m (d.u 0x18 8 - d.moved)) then s.setDesc f n d
    else
      let x := s.loadSome (funView f) (d.u 8 8 + d.moved) (min m (d.u 0x18 8 - d.moved))
      let u := s.hostWrite (d.u 0x10 8 + d.moved) x.1
      let e := { d with moved := d.moved + x.1.length }
      x.2.elim (u.copyNext f n e e.moved) fun err => u.descAccess f n e err (d.u 8 8 + d.moved + x.1.length) := by
  unfold State.copyOut
  rw [at_]
  dsimp only
  split
  case h_1 c target => exact absurd target (memory c)
  case h_2 =>
    refine if_congr Iff.rfl rfl ?_
    generalize s.loadSome (funView f) (d.u 8 8 + d.moved) (min m (d.u 0x18 8 - d.moved)) = x
    obtain ⟨bs, e⟩ := x
    cases e <;> rfl

theorem State.copyOut_waits (down : s.spanReady (d.u 8 8 + d.moved) (min m (d.u 0x18 8 - d.moved)) = false) :
    s.copyOut f n i m = s.setDesc f n d :=
  (State.copyOut_memory at_ memory).trans (if_pos (by rw [down]; rfl))

theorem State.copyOut_moves {bs : List Byte} (up : s.spanReady (d.u 8 8 + d.moved) (min m (d.u 0x18 8 - d.moved)) = true)
    (load : s.loadSome (funView f) (d.u 8 8 + d.moved) (min m (d.u 0x18 8 - d.moved)) = (bs, none)) :
    s.copyOut f n i m =
      (s.hostWrite (d.u 0x10 8 + d.moved) bs).copyNext f n { d with moved := d.moved + bs.length } (d.moved + bs.length) := by
  refine (State.copyOut_memory at_ memory).trans ((if_neg (by rw [up]; exact Bool.false_ne_true)).trans ?_)
  simp only [load, Option.elim_none]

end

/-! ### Relays and frames -/

theorem State.copyToRelay_none (no : s.copyAt f n i 0 1 = none) : s.copyToRelay f n i m = s := by
  unfold State.copyToRelay
  rw [no]

section
variable (at_ : s.copyAt f n i 0 1 = some d)
include at_

theorem State.copyToRelay_waits (h : s.copyRelay f (d.u 0x22 1) = none ∨ s.ready 28 = false) :
    s.copyToRelay f n i m = s.setDesc f n d := by
  unfold State.copyToRelay
  rw [at_]
  dsimp only
  cases relay : s.copyRelay f (d.u 0x22 1) with
  | none => rfl
  | some r =>
    refine if_pos ?_
    rw [h.resolve_left (by rw [relay]; exact nofun)]
    rfl

/-- The number of bytes that a copy moves into a relay now. -/
def State.copyRoom (s : State) (d : DescSt) (m r : Nat) : Nat := min (min m (d.u 0x18 8 - d.moved)) (s.relay r).room

theorem State.copyToRelay_moves {r : Nat} (relay : s.copyRelay f (d.u 0x22 1) = some r) (up : s.ready 28 = true)
    (takes : s.relayRefuses (funView f) r false (decide (d.moved + s.copyRoom d m r = d.u 0x18 8)) (s.copyRoom d m r) = none) :
    s.copyToRelay f n i m =
      let u := s.relayPut r (s.hostRead (d.u 8 8 + d.moved) (s.copyRoom d m r))
      let e := { d with moved := d.moved + s.copyRoom d m r }
      if d.moved + s.copyRoom d m r = d.u 0x18 8 then (u.relaySeal r).descEnd f n e 0 (d.u 0x18 8) 0 else u.setDesc f n e := by
  unfold State.copyRoom at takes
  unfold State.copyToRelay
  rw [at_]
  simp only [relay, up, takes, Bool.not_true, Bool.false_eq_true, if_false]
  rfl

end

theorem State.copyToFrame_none (no : s.copyAt f n i 0 2 = none) : s.copyToFrame f n i = s := by
  unfold State.copyToFrame
  rw [no]

/-- The frame takes the whole of the copy. -/
def State.copyFits (s : State) (d : DescSt) : Prop :=
  s.rb (rRepFrcfg (d.u 0x22 1)) fRepFrcfgEn = true ∧ d.u 0x24 4 + d.u 0x18 8 ≤ (s.frameBuf (d.u 0x22 1) 0).2

theorem State.copyFits_iff : s.copyFits d ↔ ¬ (!s.rb (rRepFrcfg (d.u 0x22 1)) fRepFrcfgEn ||
    decide ((s.frameBuf (d.u 0x22 1) 0).2 < d.u 0x24 4 + d.u 0x18 8)) = true := by
  rw [State.copyFits, Bool.or_eq_true, Bool.not_eq_true', decide_eq_true_iff, not_or, Nat.not_lt, Bool.not_eq_false]

section
variable (at_ : s.copyAt f n i 0 2 = some d)
include at_

theorem State.copyToFrame_refused (no : ¬ s.copyFits d) : s.copyToFrame f n i = s.descEnd f n d 3 0 0 := by
  unfold State.copyToFrame
  rw [at_]
  exact if_pos (not_not.mp (mt State.copyFits_iff.mpr no))

variable (fits : s.copyFits d)
include fits

theorem State.copyToFrame_waits (down : s.ready 28 = false) : s.copyToFrame f n i = s.setDesc f n d := by
  unfold State.copyToFrame
  rw [at_]
  exact (if_neg (State.copyFits_iff.mp fits)).trans (if_pos (by rw [down]; rfl))

theorem State.copyToFrame_writes (up : s.ready 28 = true) {u : State}
    (write : s.frameWrite (funView f) (d.u 0x22 1) (d.u 0x24 4) (s.hostRead (d.u 8 8) (d.u 0x18 8)) = .ok u) :
    s.copyToFrame f n i = u.descEnd f n { d with moved := d.u 0x18 8 } 0 (d.u 0x18 8) 0 := by
  unfold State.copyToFrame
  rw [at_]
  refine (if_neg (State.copyFits_iff.mp fits)).trans ((if_neg (by rw [up]; exact Bool.false_ne_true)).trans ?_)
  rw [write]

end

end

end Sys2Proof.Machine

/-! ## The host link, completion timeouts and the debug window (R566 to R571, R588, R589, R661) -/

namespace Sys2Proof.Machine

section
variable {s : State}

/-! ### Resets and the link -/

theorem State.flr_off {f : Nat} (off : s.hostOn = false) : s.flr f = s := if_neg (Bool.eq_false_iff.mp off)

theorem State.flr_on {f : Nat} (on : s.hostOn = true) :
    s.flr f = (s.funReset f).flt ⟨.hst, 0, 4, none, 0, f, 0, false⟩ := if_pos on

theorem State.hostDown_down (down : s.rb rHstPstat fHstPstatLinkup = false) : s.hostDown = s := if_pos (by rw [down]; rfl)

theorem State.hostDown_up (up : s.rb rHstPstat fHstPstatLinkup = true) :
    s.hostDown = (((s.funReset 0).funReset 1).setReg rHstPstat 0).flt ⟨.hst, 0, 5, none, 0, 0, 0, false⟩ :=
  if_neg (by rw [up]; exact Bool.false_ne_true)

/-- What lets the link come up. -/
def State.hostMay (s : State) (gen width : Nat) : Prop :=
  s.domOn 45 = true ∧ s.ready 35 = true ∧ s.rb rHstPstat fHstPstatLinkup = false ∧ 4 ≤ gen ∧
    gen ≤ s.rf rHstPctl fHstPctlMaxgen ∧ width ∈ [1, 4, 8, 16]

theorem State.hostMay_iff {gen width : Nat} : s.hostMay gen width ↔ ¬ (!s.domOn 45 || !s.ready 35 || s.rb rHstPstat fHstPstatLinkup ||
    decide (gen < 4 ∨ s.rf rHstPctl fHstPctlMaxgen < gen) || !([1, 4, 8, 16].contains width)) = true := by
  simp only [State.hostMay, Bool.or_eq_true, Bool.not_eq_true', decide_eq_true_iff, not_or, Bool.not_eq_false, Bool.not_eq_true,
    Nat.not_lt, List.contains_iff_mem, and_assoc]

theorem State.hostLinkUp_stays {gen width bme : Nat} (no : ¬ s.hostMay gen width) : s.hostLinkUp gen width bme = s :=
  if_pos (not_not.mp (mt State.hostMay_iff.mpr no))

theorem State.hostLinkUp_comes {gen width bme : Nat} (may : s.hostMay gen width) : s.hostLinkUp gen width bme =
    ((((s.setRf rHstPstat fHstPstatLinkup 1).setRf rHstPstat fHstPstatGen gen).setRf rHstPstat fHstPstatWidth width).setRf rHstPstat
      fHstPstatFlit (if gen = 6 then 1 else 0)).setRf rHstPstat fHstPstatBme bme :=
  if_neg (State.hostMay_iff.mp may)

/-! ### Completion timeouts -/

/-- A load of the host window that has waited too long. -/
def State.loadLate (s : State) (l : LoadSt) : Prop :=
  l.res = .wait ∧ (∃ h, s.target l.addr = .host h) ∧ l.since + 1000 * s.rf rHstPctl fHstPctlCto ≤ s.time

/-- Such a load, as the model tests for it. -/
def State.lateTest (s : State) (l : LoadSt) : Bool :=
  (match s.target l.addr with | .host _ => true | _ => false) && decide (l.since + s.ctoUs ≤ s.time)

theorem State.lateTest_iff {l : LoadSt} : (l.res == .wait && s.lateTest l) = true ↔ s.loadLate l := by
  unfold State.loadLate State.lateTest
  rw [Bool.and_eq_true, Bool.and_eq_true, beq_iff_eq, decide_eq_true_iff]
  refine and_congr_right fun _ => and_congr_left fun _ => ?_
  split
  case h_1 h target => exact iff_of_true rfl ⟨h, target⟩
  case h_2 other => exact iff_of_false Bool.false_ne_true fun ⟨h, target⟩ => other h target

theorem State.loadTimeout_eq {c : Nat} : s.loadTimeout c =
    ((s.cal c).lds.findIdx? fun l => l.res == .wait && s.lateTest l).elim s fun j => s.loadBack c j (.fault MErr.host.kind) := by
  have test : (s.cal c).waitingLoad (fun l => s.lateTest l) =
      (s.cal c).lds.findIdx? fun l => l.res == .wait && s.lateTest l := rfl
  rw [← test]
  unfold State.loadTimeout
  change (match (s.cal c).waitingLoad (fun l => s.lateTest l) with | some i => _ | none => _) = _
  cases (s.cal c).waitingLoad (fun l => s.lateTest l) <;> rfl

theorem State.loadTimeout_stays {c : Nat} (none : ∀ l ∈ (s.cal c).lds, ¬ s.loadLate l) : s.loadTimeout c = s := by
  have no : ((s.cal c).lds.findIdx? fun l => l.res == .wait && s.lateTest l) = .none :=
    List.findIdx?_eq_none_iff.mpr fun l mem => Bool.eq_false_iff.mpr (mt State.lateTest_iff.mp (none l mem))
  rw [State.loadTimeout_eq, no]
  rfl

theorem State.loadTimeout_faults {c j : Nat} {l : LoadSt} (place : (s.cal c).lds[j]? = some l) (late : s.loadLate l)
    (first : ∀ x ∈ (s.cal c).lds.take j, ¬ s.loadLate x) : s.loadTimeout c = s.loadBack c j (.fault MErr.host.kind) := by
  obtain ⟨short, at_⟩ := List.getElem?_eq_some_iff.mp place
  have found : ((s.cal c).lds.findIdx? fun l => l.res == .wait && s.lateTest l) = some j := by
    refine List.findIdx?_eq_some_iff_getElem.mpr ⟨short, at_ ▸ State.lateTest_iff.mpr late, fun k before => ?_⟩
    exact mt State.lateTest_iff.mp (first _ (List.mem_take_iff_getElem.mpr ⟨k, by omega, rfl⟩))
  rw [State.loadTimeout_eq, found]
  rfl

theorem State.engTimeout_none {q : Nat} (none : s.head q = .none) : s.engTimeout q = s := by
  unfold State.engTimeout
  rw [none]

theorem State.engTimeout_early {q : Nat} {x : Entry} (head : s.head q = some x)
    (early : x.run.phase ≠ .running ∨ s.time < x.run.since + 1000 * s.rf rHstPctl fHstPctlCto) : s.engTimeout q = s := by
  unfold State.engTimeout
  rw [head]
  exact if_pos early

section
variable {f n i : Nat} {d : DescSt}

/-- The descriptor whose read of the host is timed. -/
def State.timed (s : State) (f n i : Nat) : Option DescSt := (s.sq f n).descs[i]?.bind fun d => s.descAt f n i (d.u 0 1)

theorem State.timed_iff : s.timed f n i = some d ↔ Carried s f n i (d.u 0 1) d := by
  unfold State.timed
  rw [Option.bind_eq_some_iff]
  constructor
  · rintro ⟨e, place, at_⟩
    have h := State.descAt_iff.mp at_
    obtain ⟨x, same, -, -, -, rfl⟩ := h
    rw [place] at same
    cases same
    exact State.descAt_iff.mp at_
  · intro h
    have at_ := State.descAt_iff.mpr h
    obtain ⟨e, place, type, -⟩ := h
    exact ⟨e, place, type ▸ at_⟩

theorem State.timed_none (no : ∀ d, ¬ Carried s f n i (d.u 0 1) d) : s.timed f n i = none :=
  Option.eq_none_iff_forall_ne_some.mpr fun d same => no d (State.timed_iff.mp same)

theorem State.descTimeout_none (no : s.timed f n i = none) : s.descTimeout f n i = s := by
  unfold State.timed at no
  unfold State.descTimeout
  rw [no]

section
variable (at_ : s.timed f n i = some d)
include at_

theorem State.descTimeout_early (early : ¬ d.since + 1000 * s.rf rHstPctl fHstPctlCto ≤ s.time) : s.descTimeout f n i = s := by
  unfold State.timed at at_
  unfold State.descTimeout
  rw [at_]
  exact if_pos (Nat.not_le.mp early)

variable (due : d.since + 1000 * s.rf rHstPctl fHstPctlCto ≤ s.time)
include due

theorem State.descTimeout_run (type : d.u 0 1 = 1) (unread : d.list = none) (host : d.u 0x17 1 = 0) :
    s.descTimeout f n i = s.descEnd f n d 5 d.moved (d.u 8 8) := by
  unfold State.timed at at_
  unfold State.descTimeout
  rw [at_]
  refine (if_neg (Nat.not_lt.mpr due)).trans ?_
  rw [type]
  exact if_pos ⟨by rw [unread]; rfl, host⟩

theorem State.descTimeout_copy (type : d.u 0 1 = 2) (in_ : d.u 0x20 1 = 0) (plain : d.u 0x21 1 ≠ 1) :
    s.descTimeout f n i = s.descEnd f n d 5 d.moved ((d.u 8 8 + d.moved) % 2 ^ 64) := by
  unfold State.timed at at_
  unfold State.descTimeout
  rw [at_]
  refine (if_neg (Nat.not_lt.mpr due)).trans ?_
  rw [type]
  refine (if_neg (by rw [in_]; decide)).trans ?_
  rw [if_neg plain]

theorem State.descTimeout_stage (type : d.u 0 1 = 4) : s.descTimeout f n i =
    if s.cfg.run.isSome then s else s.descEnd f n d 5 d.moved (d.u 8 8) := by
  unfold State.timed at at_
  unfold State.descTimeout
  rw [at_]
  refine (if_neg (Nat.not_lt.mpr due)).trans ?_
  rw [type]
  rfl

end

end

/-! ### The debug window -/

section
variable {f : World} {off size : Nat}

/-- The device address of an access through BAR4. -/
def State.bar4At (s : State) (f off : Nat) : Nat := 2 ^ 24 * s.rf (rHstDbgbase f) fHstDbgbaseBase + off

theorem State.bar4_off {g : Nat} {wr : Option Word} (out : s.hostOn = false) : s.bar4 g off size wr = s := if_pos (by rw [out]; rfl)

theorem sized_iff : ((size == 1 || size == 2 || size == 4 || size == 8) && off % size == 0) = true ↔
    size ∈ [1, 2, 4, 8] ∧ off % size = 0 := by
  simp only [Bool.and_eq_true, Bool.or_eq_true, beq_iff_eq, List.mem_cons, List.not_mem_nil, or_false, or_assoc]

variable (on : s.hostOn = true)
include on

theorem State.bar4_on : ¬ (!s.hostOn) = true := by
  rw [on]
  exact Bool.false_ne_true

theorem State.bar4_unsized {wr : Option Word} (odd : ¬ (size ∈ [1, 2, 4, 8] ∧ off % size = 0)) : s.bar4 f.idx off size wr =
    if wr.isNone then { s.hstDenied (worldOf f.idx) (s.bar4At f.idx off) with rdata := 0 }
    else s.hstDenied (worldOf f.idx) (s.bar4At f.idx off) := by
  refine (if_neg (State.bar4_on on)).trans (if_pos ?_)
  rw [Bool.eq_false_iff.mpr (mt sized_iff.mp odd)]
  rfl

variable (sized : size ∈ [1, 2, 4, 8] ∧ off % size = 0) {q : Nat} (memory : s.target (s.bar4At f.idx off) = .mem q)
include sized memory

theorem State.bar4_waits {wr : Option Word} (down : s.spanReady (s.bar4At f.idx off) size = false) :
    s.bar4 f.idx off size wr = s := by
  have even := sized_iff.mpr sized
  unfold State.bar4At at memory down
  unfold State.bar4
  simp only [on, even, memory, down, Bool.not_true, Bool.not_false, Bool.or_self, Bool.false_eq_true, if_true, if_false]

variable (up : s.spanReady (s.bar4At f.idx off) size = true)
include up

theorem State.bar4_writes {v : Word} {u : Target} {t : State} (may : s.check (.win (worldOf f.idx) true) .wr (s.bar4At f.idx off) = .ok u)
    (store : s.store Paths.plain (.win (worldOf f.idx) true) (s.bar4At f.idx off) (leBytes size v.toNat) = .ok t) :
    s.bar4 f.idx off size (some v) = t := by
  have even := sized_iff.mpr sized
  unfold State.bar4At at memory up may store
  unfold State.bar4
  simp only [on, even, memory, up, may, store, hostAuth, Option.isSome_some, Bool.not_true, Bool.or_self, Bool.false_eq_true, if_true,
    if_false]

theorem State.bar4_reads {u : Target} {t : State} {bs : List Byte}
    (may : s.check (.win (worldOf f.idx) true) .rd (s.bar4At f.idx off) = .ok u)
    (read : s.readMem Paths.plain (.win (worldOf f.idx) true) (s.bar4At f.idx off) size = (t, .ok bs)) :
    s.bar4 f.idx off size none = { t with rdata := BitVec.ofNat 64 (ofLeBytes bs) } := by
  have even := sized_iff.mpr sized
  unfold State.bar4At at memory up may read
  unfold State.bar4
  simp only [on, even, memory, up, may, read, hostAuth, Option.isSome_none, Bool.not_true, Bool.or_self, Bool.false_eq_true, if_false]

end

end

/-! ### The obligation -/

/-- Settles O54: copies by the lemmas of their functions, the rest by the tests that let a command act. -/
theorem hostMovesDataAndLink : Obligations.HostMovesDataAndLink := by
  unfold Obligations.HostMovesDataAndLink
  refine ⟨?copies, ?link, ?caller, ?engine, ?descriptor, ?window⟩
  case copies =>
    intro s f n i m g k
    refine ⟨fun no => congrArg Host.Outcome.next (State.copyIn_none (State.copyAt_none no)), fun d h => ?_,
      fun no => congrArg Host.Outcome.next (State.copyOut_none (State.copyAt_none no)), fun d h => ?_,
      fun no => congrArg Host.Outcome.next (State.copyToRelay_none (State.copyAt_none no)), fun d h => ?_,
      fun no => congrArg Host.Outcome.next (State.copyToFrame_none (State.copyAt_none no)), fun d h => ?_⟩
    · have at_ := State.copyAt_iff.mpr h
      intro a memory lo len
      exact ⟨fun down => congrArg Host.Outcome.next (State.copyIn_waits at_ memory down),
        fun j up store some_ => ⟨_, congrArg Host.Outcome.next (State.copyIn_moves at_ memory up store some_), State.copyNext_moved⟩⟩
    · have at_ := State.copyAt_iff.mpr h
      intro a memory
      exact ⟨fun down => congrArg Host.Outcome.next (State.copyOut_waits at_ memory down),
        fun bs up load => ⟨_, congrArg Host.Outcome.next (State.copyOut_moves at_ memory up load), State.copyNext_moved⟩⟩
    · have at_ := State.copyAt_iff.mpr h
      refine ⟨fun waits => congrArg Host.Outcome.next (State.copyToRelay_waits at_ waits), fun r relay => ?_⟩
      intro j up takes u e
      have run := State.copyToRelay_moves at_ relay up takes
      exact ⟨fun whole => ⟨_, congrArg Host.Outcome.next (run.trans (if_pos whole)), State.descEnd_ends ..⟩,
        fun more => congrArg Host.Outcome.next (run.trans (if_neg more))⟩
    · have at_ := State.copyAt_iff.mpr h
      intro fr off len fits
      exact ⟨fun no => ⟨_, congrArg Host.Outcome.next (State.copyToFrame_refused at_ no), State.descEnd_ends ..⟩,
        fun fit down => congrArg Host.Outcome.next (State.copyToFrame_waits at_ fit down),
        fun fit up u write => ⟨_, congrArg Host.Outcome.next (State.copyToFrame_writes at_ fit up write), State.descEnd_ends ..⟩⟩
  case link =>
    intro s
    refine ⟨fun f off => congrArg Host.Outcome.next (State.flr_off off), fun f on => congrArg Host.Outcome.next (State.flr_on on),
      fun down => ⟨congrArg Host.Outcome.next (State.hostDown_down down), congrArg Host.Outcome.next (State.hostDown_down down)⟩,
      fun up => ⟨congrArg Host.Outcome.next (State.hostDown_up up), congrArg Host.Outcome.next (State.hostDown_up up)⟩,
      fun gen width bme => ?_⟩
    intro may
    have six : (if gen.toNat = 6 then 1 else 0) = if gen = 6 then 1 else 0 := if_congr (BitVec.toNat_inj (x := gen) (y := 6)) rfl rfl
    refine ⟨fun no => congrArg Host.Outcome.next (State.hostLinkUp_stays no), fun h => ?_⟩
    have run := State.hostLinkUp_comes (bme := bme.toNat) h
    rw [six] at run
    exact congrArg Host.Outcome.next run
  case caller =>
    intro s c waits
    exact ⟨fun none => congrArg Host.Outcome.next (State.loadTimeout_stays none),
      fun j l place late first => congrArg Host.Outcome.next (State.loadTimeout_faults place late first)⟩
  case engine =>
    intro s e w q
    exact ⟨fun none => congrArg Host.Outcome.next (State.engTimeout_none none),
      fun x head early => congrArg Host.Outcome.next (State.engTimeout_early head early)⟩
  case descriptor =>
    intro s f n i g k
    refine ⟨fun no => congrArg Host.Outcome.next (State.descTimeout_none (State.timed_none no)), fun d h => ?_⟩
    have at_ := State.timed_iff.mpr h
    intro due
    refine ⟨fun early => congrArg Host.Outcome.next (State.descTimeout_early at_ early), fun late =>
      ⟨fun type unread host => ⟨_, congrArg Host.Outcome.next (State.descTimeout_run at_ late type unread host), State.descEnd_ends ..⟩,
        fun type in_ plain => ⟨_, congrArg Host.Outcome.next (State.descTimeout_copy at_ late type in_ plain), State.descEnd_ends ..⟩,
        fun type busy => ?_, fun type idle => ⟨_, congrArg Host.Outcome.next ((State.descTimeout_stage at_ late type).trans (if_neg ?_)),
          State.descEnd_ends ..⟩⟩⟩
    · exact congrArg Host.Outcome.next ((State.descTimeout_stage at_ late type).trans (if_pos (Option.isSome_iff_ne_none.mpr busy)))
    · rw [idle]
      exact Bool.false_ne_true
  case window =>
    intro s f off size g a sized view
    refine ⟨fun wr out => congrArg Host.Outcome.next (State.bar4_off out), fun on odd => ⟨fun v => congrArg Host.Outcome.next
        (State.bar4_unsized on odd), congrArg Host.Outcome.next (State.bar4_unsized on odd)⟩,
      fun on even q memory down wr => congrArg Host.Outcome.next (State.bar4_waits on even memory down), fun on even q memory up =>
      ⟨fun v u t may store => congrArg Host.Outcome.next (State.bar4_writes on even memory up may store),
        fun u may t bs read => congrArg Host.Outcome.next (State.bar4_reads on even memory up may read)⟩⟩

end Sys2Proof.Machine
